-- ==== Sys2Proof/Word.lean ====
section
/-! DEFINITION. The word types of the JN64 and the shape of its sparse maps. -/

namespace Sys2Proof

/-- A 32-bit word, the unit of registers and wire formats (00, "Field maps and register tables"). -/
abbrev Word := BitVec 32
/-- A byte of memory or of a payload. -/
abbrev Byte := BitVec 8
/-- An endpoint identifier (R90); `eidNone` means "none". -/
abbrev Eid := BitVec 18
/-- The EID that is never assigned (R90). -/
def eidNone : Eid := 0x3FFFF
/-- A data cell of 64 B (R54), byte 0 in bits 7..0. -/
abbrev Cell64 := BitVec 512
/-- A 16 B link word (R52), byte 0 in bits 7..0. -/
abbrev LinkWord := BitVec 128

/-- A sparse map: pairs of a key and a value, keys strictly rising, no pair whose value is what an
unlisted key reads as. -/
abbrev TMap (α : Type) := List (Nat × α)

end Sys2Proof
end

