-- ==== Sys2Proof/Syntax.lean ====
section
/-! DEFINITION. The commands of the JN64, one constructor per row of the opcode table, and the types
of their operands. -/

namespace Sys2Proof

/-- The four transports of GCP commands (R403); a host ring is that of one host port. -/
inductive Via where
  | host (h : Nat) | hm | i3c | inband
  deriving DecidableEq, Repr

/-- A GCP request as the controller holds it once all of it has arrived (R404, R405): the 16 words, the
data that came outside it, and who sent it. `srcEid`, `mseq` and `replyEid` have a meaning in-band only
(R416); `secured` says that it came in an SPDM secured session (R413), inside the SPDM_MSG whose words are `outer`;
`dataErr` that the host read of DATA_ADDR failed (R407). -/
structure GcpReq where
  via      : Via
  words    : List Word
  data     : List Word := []
  secured  : Bool := false
  outer    : List Word := []
  dataErr  : Bool := false
  srcEid   : Eid := eidNone
  mseq     : BitVec 16 := 0
  replyEid : Eid := eidNone
  deriving DecidableEq, Repr

/-- A packet: the base header of R92 field by field, the extension words that EXT_MASK names in order,
the payload and the trailer of R377. -/
structure Packet where
  /-- the header's reserved bits: words 2 [31:25], 3 [31:29], 4 [31:24], 5 [31:16] and 7, from bit 0 -/
  rsv      : BitVec 66 := 0
  dest     : Eid
  flowHash : BitVec 14 := 0
  src      : Eid
  stage    : BitVec 2 := 0
  cls      : BitVec 2
  epoch    : Bool := false
  hop      : BitVec 6 := 0
  mode     : BitVec 2 := 0
  nonmin   : Bool := false
  detour   : Eid := eidNone
  lenCells : BitVec 7
  ptype    : Byte
  extMask  : Byte := 0
  payLen   : BitVec 13 := 0
  chan     : BitVec 24 := 0
  inc      : BitVec 16 := 0
  psn      : Word := 0
  ext      : List Word := []
  payload  : List Byte := []
  e2e      : BitVec 64 := 0
  check    : BitVec 64 := 0
  tag      : BitVec 128 := 0
  deriving DecidableEq, Repr

/-- What host memory answers to the reads of one step: spans (first address, bytes) that reads of the step return, and the
ranges (first address, length) that answer with an error. A read that lies within no one span and meets no such range is
still outstanding when the step ends. -/
structure HostView where
  spans : List (Nat × List Byte) := []
  bad   : List (Nat × Nat) := []
  deriving DecidableEq, Repr

/-- An SPDM message as the responder of R393 tells it apart. GET_CERTIFICATE names the slot, and the offset and length of the
part of its chain; `secured` is a DSP0277 message: whether it verifies, and the GCP request that is its application data. -/
inductive Spdm where
  | getVersion | getCapabilities | negotiate | getDigests | getCertificate (slot off len : Nat)
  | challenge | getMeasurements (signed : Bool)
  | keyExchange | finish | endSession
  | secured (verifies : Bool) (request : GcpReq)
  | ideKeyProg | other
  deriving DecidableEq, Repr

/-- The IDE_KM requests of R389; KEY_PROG carries the key. -/
inductive IdeKm where
  | keyProg (stream keySet : Nat) (key : BitVec 256) | kSetGo (stream keySet : Nat) | kSetStop (stream keySet : Nat)
  deriving DecidableEq, Repr

/-- The monitored supplies of R482. -/
inductive Supply where
  | core | netSerdes | e0 | e1 | hbm | aon
  deriving DecidableEq, Repr

/-- The reference clocks of R484. -/
inductive RefClock where
  | refclk | hm | host (h : Nat)
  deriving DecidableEq, Repr

/-- Who makes a host request: its requester ID and traffic class, which with the host port are its ordering identifier (R357). -/
structure Requester where
  id : Nat := 0
  tc : Nat := 0
  deriving DecidableEq, Repr

/-- How a host accesses a BAR0 register (R360): in 1, 2, 4 or 8 bytes; `hi` is the upper word of an access of 8. -/
structure Access where
  who  : Requester := {}
  size : Nat := 4
  hi   : Word := 0
  deriving DecidableEq, Repr

/-- What an uncorrectable HBM error strikes besides its pseudo-channel (R26, R67, R294). -/
inductive HbmVictim where
  | nothing | spilled (port : Nat) | tier (host : Nat)
  deriving DecidableEq, Repr

/-- The registers that a direct write can name (R9, R12, R181): a host function's BAR0, the HM port's
BAR0, the read-only mirror, and router space. -/
inductive RegTarget where
  | bar0 (host function : Nat) | hm | router
  deriving DecidableEq, Repr

/-- What a configuration request does that the manual's rules depend on: it programs the BAR4 base of a function, or takes
its Memory Space Enable away (R355); it sets the number of enabled VFs, 0 when VF Enable is cleared (R211); it sets Enable
Relaxed Ordering and IDO Request Enable (R178), or MSI-X Enable and Function Mask (R208) of a function; it reads a
register of a function (R5, R23), or writes all ones to a Base Address register and reads it back (R181). -/
inductive CfgWrite where
  | other | bar4 (function : Nat) (base : Option Nat) | vfs (n : Nat) | ordering (function : Nat) (relaxed ido : Bool)
  | msix (function : Nat) (enable mask : Bool) | read (function reg : Nat) | sizing (function reg : Nat)
  deriving DecidableEq, Repr

/-- A write to BAR2: the value of a row's doorbell, and the other doorbells, each with its address, that one write combines
with it (R191). -/
structure DbWrite where
  value : BitVec 64
  more  : List (Nat × BitVec 64) := []
  deriving DecidableEq, Repr

/-- The commands: one constructor per row of the opcode table. Host ports are 0 to 3, network ports 0 to
63, crossbar indices 0 to 72, Boles 0 and 1, die-to-die modules 0 to 5 (3b + m), rings 0 to 4 (H0 to H3, HM).
`h q i` names the issued job of host port h whose first entry is index i of work queue q; the `more` of a doorbell are those that
came combined with it in one write, each with its address (R191). A last operand with a default says what a row leaves to
its usual case: who makes a BAR0 access (R357), which reference clock or supply it is (R481, R484), and what TRST_N and TDI carry
with a JTAG instruction (R489). -/
inductive Instr where
  -- GCP commands
  | getIdentity (r : GcpReq) | getStatus (r : GcpReq) | echo (r : GcpReq)
  | allowSet (r : GcpReq) | eventDestSet (r : GcpReq)
  | stageWrite (r : GcpReq) | stageRead (r : GcpReq) | stageDiscard (r : GcpReq)
  | check (r : GcpReq) | commit (r : GcpReq) | commitAt (r : GcpReq) | getEpoch (r : GcpReq)
  | commitAbort (r : GcpReq)
  | bulkLoad (r : GcpReq) | bulkStage (r : GcpReq) | bulkStageDone | bulkRead (r : GcpReq)
  | portEnable (r : GcpReq) | portDisable (r : GcpReq) | portTrain (r : GcpReq)
  | portWidth (r : GcpReq) | portStatus (r : GcpReq)
  | pwrSet (r : GcpReq) | powerTransitionDone (d : Nat) | powerTransitionTimeout (d : Nat)
  | pwrGet (r : GcpReq)
  | timeGet (r : GcpReq) | timeSet (r : GcpReq)
  | treeCreate (r : GcpReq) | treeDestroy (r : GcpReq) | treeStatus (r : GcpReq)
  | resvWrite (r : GcpReq) | resvRead (r : GcpReq)
  | fence (r : GcpReq) | unfence (r : GcpReq)
  | eventCfg (r : GcpReq) | eventRead (r : GcpReq) | eventClear (r : GcpReq)
  | spdmMsg (r : GcpReq) (msg : Spdm)
  | linkKeyInstall (r : GcpReq) | linkKeyClear (r : GcpReq)
  | alarmPolicy (r : GcpReq) | zeroize (r : GcpReq) | zeroizationDone
  | fwBegin (r : GcpReq) | fwEraseDone (ok : Bool) | fwWrite (r : GcpReq) | fwVerify (r : GcpReq)
  | fwRestart (r : GcpReq) | controllerRestartDone | fwPromote (r : GcpReq) | fwPromoteDone (ok : Bool)
  | fwRaiseMinSvn (r : GcpReq)
  | telLiveRead (r : GcpReq) | mapRead (r : GcpReq) | histRead (r : GcpReq)
  | lockMode (r : GcpReq) | lockRights (r : GcpReq)
  | graftQuarantine (r : GcpReq) | graftAdmit (r : GcpReq) | graftAbort (r : GcpReq) | graftAdmitApply
  | graftStatus (r : GcpReq)
  | pruneDrain (r : GcpReq) | pruneRemove (r : GcpReq) | pruneAbort (r : GcpReq)
  | pruneDrainApply | pruneRemoveApply | portDrained (p : Nat) | pruneDrainTimeout
  | pruneStatus (r : GcpReq)
  | testUnlock (r : GcpReq) | faultInject (r : GcpReq)
  -- transports, events, watchdogs
  | commandPendingReply (id : Nat)
  | gcrReqTail (ring : Nat) (v : Word) (who : Requester := {})
  | gcrReqCfgEnable (ring : Nat) (v : Word) (who : Requester := {})
  | gcrRplCfgEnable (ring : Nat) (v : Word) (who : Requester := {})
  | gcrRplHead (ring : Nat) (v : Word) (who : Requester := {})
  | gcpRequestReadDone (ring : Nat) (req : Option (List Word)) (data : Option (List Word))
  | i3cPrivateWrite (bytes : List Byte) | i3cPrivateRead
  | gcpReq (pkt : Packet) | gcpEventRepeat | faultNRelease | hwWdogExpire | fwHeartbeatMiss
  -- reset, boot, clocks, supplies, sensors
  | por | boot (roleSel : Nat) (testMode : Bool) (i3cAddr : Nat) | taprootLocked
  | refclkLoss (c : RefClock := .refclk) (back : Bool := false) | taprootUnlock | bolePllUnlock (b : Nat)
  | bolePllRelock (b : Nat)
  | supplyFault (u : Supply) | voltGlitch (u : Supply := .core) | clkGlitch | tamper (k : Nat)
  | sensorSample (temps : List (Option Int)) | powerEstimate (watts : Nat) | hmPerstDeassert
  -- die-to-die and HBM
  | d2dTrainDone (m : Nat) (repaired : Bool) | d2dModuleDown (m : Nat)
  | d2dIdentMove (m ident lost : Nat) | hbmEccUncorr (c : Nat) (victim : HbmVictim)
  -- link layer and fabric time
  | groupReceive (p : Nat) (line : List Nat) | groupTransmit (p : Nat) | trainingDone (p : Nat)
  | trainTimeout (p : Nat) | lockTimeout (p : Nat) | quickRetrainFail (p : Nat) | graceExpire (p : Nat)
  | replayTimeout (p : Nat) | widthReqResend (p : Nat) | widthSwitch (p : Nat)
  | widthRelockTimeout (p : Nat) | laneDegrade (p lane : Nat) | timeExchangeTimer (p : Nat)
  | identTimer (p : Nat) | gossipTimer (p : Nat) | keySwitch (p : Nat) | spillStopDone (p : Nat)
  | timeFollowTimeout | ppsInEdge | ppsTimeout | ppsOutEdge
  -- routing and switching
  | packetArrive (inport : Nat) (pkt : Packet) | outputGrant (o : Nat) | storeFwdStart (o : Nat)
  | telemetryPeriodEnd | epochSwap | drainDone | bankCopyDone | replicaRefreshDone (k : Nat)
  -- queues
  | wqTail (h fn addr size : Nat) (v : DbWrite)
  | cqHead (h fn addr size : Nat) (v : DbWrite)
  | cqArm (h fn addr size : Nat) (v : DbWrite)
  | wqeFetchDone (h q : Nat) (ents : Option (List (List Word)))
  | wqeRefetch (h q : Nat) (ent : Option (List Word))
  | jobIssue (h : Nat) | assuredWaitRemeter (h q : Nat) | completionWrite (h cq : Nat)
  | headWritebackTimer (h q : Nat) | cqCoalTimer (h cq : Nat) | queueDrainDone (h q : Nat)
  | nop (h q : Nat) (i : Word) | fenceJob (h q : Nat) (i : Word) | cancel (h q : Nat) (i : Word)
  | queueCreate (h q : Nat) (i : Word) (m : HostView) | queueModify (h q : Nat) (i : Word)
  | queueDestroy (h q : Nat) (i : Word) | cqCreate (h q : Nat) (i : Word) (m : HostView)
  | cqDestroy (h q : Nat) (i : Word)
  | qmgPqCfgEnable (h : Nat) (v : Word) (who : Requester := {}) | qmgPcqCfgEnable (h : Nat) (v : Word) (who : Requester := {})
  -- host-port events
  | perstAssert (h : Nat) | perstDeassert (h : Nat) | hostLinkUp (h rate width : Nat)
  | hostLinkDown (h : Nat) (hotReset : Bool) | hostCleanupDone (h : Nat) | flr (h fn : Nat) (vfs : Bool)
  | hostDmaReadDone (h id : Nat) (m : HostView)
  -- translation
  | xctxCreate (h q : Nat) (i : Word) (m : HostView) | xctxDestroy (h q : Nat) (i : Word)
  | mrRegister (h q : Nat) (i : Word) (m : HostView) | mrInvalidate (h q : Nat) (i : Word)
  | invalidate (h q : Nat) (i : Word) | invalidationDone (b id : Nat)
  | xinv (b : Nat) (pkt : Packet) | xinvAck (b : Nat) (pkt : Packet) | xinvResend (b : Nat) (xseq : BitVec 16)
  | adCasDone (h : Nat) (addr : Nat) (ret : Option (BitVec 64)) (m : HostView)
  | pageRequestPost (h : Nat) | xltFqHead (h : Nat) (v : Word) (who : Requester := {})
  | xltFaultResp (h : Nat) (v : Word) (m : HostView) (who : Requester := {}) | faultTimeout (h : Nat) (reqId : BitVec 16)
  -- transport
  | write (h q : Nat) (i : Word) (m : HostView) | writeImm (h q : Nat) (i : Word) (m : HostView)
  | read (h q : Nat) (i : Word) (m : HostView) | atomic (h q : Nat) (i : Word) (m : HostView)
  | chanCreate (h q : Nat) (i : Word) (m : HostView) | chanModify (h q : Nat) (i : Word)
  | chanDestroy (h q : Nat) (i : Word) | chanQuery (h q : Nat) (i : Word) | channelDrainDone (h c : Nat)
  | writePacketRx (h : Nat) (pkt : Packet) (m : HostView)
  | writeImmPacketRx (h : Nat) (pkt : Packet) (m : HostView)
  | readReq (h : Nat) (pkt : Packet) (m : HostView) | atomicReq (h : Nat) (pkt : Packet) (m : HostView)
  | ctxFetchDone (h c : Nat) (ok : Bool) (m : HostView) | ackDelayTimer (h c : Nat)
  | ack (h : Nat) (pkt : Packet) (m : HostView) | readResp (h : Nat) (pkt : Packet) (m : HostView)
  | atomicResp (h : Nat) (pkt : Packet) (m : HostView)
  | retransmitTimeout (h c : Nat) (m : HostView)
  -- matching
  | send (h q : Nat) (i : Word) (m : HostView) | postRecv (h q : Nat) (i : Word) (m : HostView)
  | matchReset (h q : Nat) (i : Word)
  | eager (h : Nat) (pkt : Packet) (m : HostView) | rndvRts (h : Nat) (pkt : Packet) (m : HostView)
  | rndvDone (h : Nat) (pkt : Packet) (m : HostView)
  -- counters and triggers
  | ctrCreate (h q : Nat) (i : Word) | ctrDestroy (h q : Nat) (i : Word) | ctrSet (h q : Nat) (i : Word)
  | ctrAdd (h q : Nat) (i : Word) | count (h q : Nat) (i : Word) (m : HostView)
  | trigArm (h q : Nat) (i : Word) (m : HostView) | trigCancel (h q : Nat) (i : Word) (m : HostView)
  | remoteEnable (h q : Nat) (i : Word) (m : HostView) | ctrRead (h q : Nat) (i : Word) (m : HostView)
  | trigSlotReadDone (h fn slot : Nat) (image : Option (List Word)) | trigEnable (h : Nat) (pkt : Packet) (m : HostView)
  -- Crown
  | treeAllreduce (h q : Nat) (i : Word) (m : HostView) | treeUp (u inport : Nat) (pkt : Packet)
  | treeDown (u inport : Nat) (pkt : Packet) | treeDownHostRx (h : Nat) (pkt : Packet) (m : HostView)
  | bind (h : Nat) (who : Requester := {}) | unbind (h : Nat) (who : Requester := {})
  | query (h : Nat) (who : Requester := {})
  -- scratch memory and locks
  | scratchHostWrite (h fn tc off : Nat) (bytes : List Byte) (req : Nat := 0)
  | scratchHostRead (h fn tc off len : Nat) (req : Nat := 0)
  | writePerformed (b ident : Nat) | ssmBarrier (h fn tc : Nat) (req : Nat := 0)
  | lckAcquire (h fn lock : Nat) (who : Requester := {}) | lckRelease (h fn lock : Nat) (who : Requester := {})
  | lckClaim (h fn lock : Nat) (token : BitVec 16) (who : Requester := {})
  | acquireTimeout (b lock master : Nat)
  -- security channels
  | doeSpdm (h : Nat) (msg : Spdm) | ideKm (h : Nat) (msg : IdeKm) | ideFail (h stream : Nat)
  | debugUnlock (token : List Byte)
  -- further rows
  | registerWrite (t : RegTarget) (off : Nat) (v : Word) (a : Access := {}) | adapterProtocolError (m : Nat)
  | d2dRetry (m : Nat) | correctableError (h : Nat) | configurationRequest (target : Option Nat) (w : CfgWrite)
  | atomicopRequest (h : Nat) | checkDone | fwVerifyDone | entdaa (addr : BitVec 7)
  | jtagInstruction (ir : Nat) (trst : Bool := true) (tdi : List Bool := [])
  deriving DecidableEq, Repr

end Sys2Proof
end

