-- ==== Sys2Proof/Config.lean ====
section
/-! DEFINITION. What other standards or the part's manufacture fix and the manual does not compute:
opaque constants, so that nothing can be proved of their values. -/

namespace Sys2Proof.Config

/-- Fuse ROOT_KEY_HASH (R391). -/
opaque rootKeyHash : BitVec 384
/-- Fuse DEBUG_KEY_HASH (R392). -/
opaque debugKeyHash : BitVec 384
/-- The challenge of a debug unlock, by a count of the challenges since power-on reset (R392). -/
opaque debugChallenge : Nat → List Byte
/-- The public key and the signature in a debug token, and the bytes that the signature covers, the challenge among them
(R392): the manual gives no layout of the token. -/
opaque debugTokenKey : List Byte → List Byte
opaque debugTokenSig : List Byte → List Byte
opaque debugTokenMsg : List Byte → List Byte → List Byte
/-- The fused unique device secret, and the identity key and the key-wrapping key derived from it (R393): the manual gives no
derivation. -/
opaque deviceSecret : BitVec 256
opaque deriveIdentity : BitVec 256 → BitVec 384
opaque deriveWrapping : BitVec 256 → BitVec 256
/-- SHA-384 of the boot ROM, measurement 1 (R394). -/
opaque bootRomDigest : BitVec 384
/-- The body of an SPDM response (R393): its request code, a counter of the responses given, and the identity key that signs it. -/
opaque spdmBody : Nat → Nat → Option (BitVec 384) → List Word
/-- The SPDM message that the data words of an SPDM_MSG hold, after so many responses (R393, R413): the encoding is that of
another standard. -/
opaque spdmParse : List Word → Nat → Option Spdm
/-- The bytes of a context record that is written to host memory, by a count of the uses of contexts (R240: they are private to the
device). -/
opaque ctxRecord : Nat → List Byte
/-- What a register of configuration space reads as that the manual does not give: port (4: HM), function, register, and a count
of the outputs so far. -/
opaque cfgWord : Nat → Nat → Nat → Nat → BitVec 32
/-- What a JTAG instruction captures in its data register, where the manual gives neither its length nor its bits (R489): the
instruction, a count of the outputs so far, and the bit. -/
opaque jtagCapture : Nat → Nat → Nat → Bool
/-- The PSN and the source that a failure record shows for a bounce-slot copy, which is no packet's (R383, R400), by a count of the
outputs so far. -/
opaque copyFailPsn : Nat → BitVec 32
opaque copyFailSrc : Nat → BitVec 18
/-- RETRY_THRESH (R19): the manual gives no value. -/
opaque retryThresh : Nat
/-- The provisional ID of the I3C target, outside bits [31:16] (R415). -/
opaque i3cPid : BitVec 48

end Sys2Proof.Config
end

