-- ==== Sys2Proof/Machine/Maps.lean ====
section
/-! DEFINITION. Sparse maps: reading, writing and removing one key, with the canonical form that makes
equal maps equal data. -/

namespace Sys2Proof.Machine.Maps

/-- The value listed at a key. -/
def find? {α : Type} : TMap α → Nat → Option α
  | [], _ => none
  | (j, v) :: t, k => if j = k then some v else find? t k

/-- The value at a key of a map whose unlisted keys read as `d`. -/
def get {α : Type} (d : α) (m : TMap α) (k : Nat) : α := (find? m k).getD d

/-- Lists `v` at `k`, before the first key that is larger. -/
def insert {α : Type} (k : Nat) (v : α) : TMap α → TMap α
  | [] => [(k, v)]
  | (j, w) :: t =>
    if k < j then (k, v) :: (j, w) :: t
    else if k = j then (k, v) :: t
    else (j, w) :: insert k v t

/-- Unlists a key. -/
def erase {α : Type} (k : Nat) : TMap α → TMap α
  | [] => []
  | (j, w) :: t => if k = j then erase k t else (j, w) :: erase k t

/-- Writes a key of a map whose unlisted keys read as `d`, keeping the canonical form. -/
def put {α : Type} [DecidableEq α] (d : α) (m : TMap α) (k : Nat) (v : α) : TMap α :=
  if v = d then erase k m else insert k v m

/-- Keys are strictly rising. -/
def sorted {α : Type} (m : TMap α) : Bool := decide (m.Pairwise (fun a b => a.1 < b.1))

/-- The canonical form of a map whose unlisted keys read as `d`. -/
def wf {α : Type} [DecidableEq α] (d : α) (m : TMap α) : Bool :=
  sorted m && m.all (fun p => decide (p.2 ≠ d))

/-- Unlists every key that `p` refuses. -/
def keep {α : Type} (p : Nat → Bool) (m : TMap α) : TMap α := m.filter (fun e => p e.1)

/-- Changes every listed value and unlists what has become `d`. -/
def mapVals {α : Type} [DecidableEq α] (d : α) (f : Nat → α → α) (m : TMap α) : TMap α :=
  (m.map (fun e => (e.1, f e.1 e.2))).filter (fun e => decide (e.2 ≠ d))

/-- Replaces one value by a function of it. -/
def upd {α : Type} [DecidableEq α] (d : α) (m : TMap α) (k : Nat) (f : α → α) : TMap α :=
  put d m k (f (get d m k))

/-- Reads `n` consecutive keys from `k`. -/
def range {α : Type} (d : α) (m : TMap α) (k n : Nat) : List α :=
  (List.range n).map (fun i => get d m (k + i))

/-- Writes consecutive keys from `k`. -/
def putList {α : Type} [DecidableEq α] (d : α) (m : TMap α) (k : Nat) : List α → TMap α
  | [] => m
  | v :: vs => putList d (put d m k v) (k + 1) vs

end Sys2Proof.Machine.Maps
end

