-- ==== Sys2Proof/Machine/State.lean ====
section
/-! DEFINITION. The state of the JN64: every register, table, buffer, queue, counter and pin the spec
gives it, as plain data. A field of type `TMap` lists only the entries that differ from what an unlisted key reads
as; each such field's docstring says the key and that value. Register maps (`rws`, `bar`, `resv`, `recs`) keep an entry once it
has been written, whatever its value; the maps of memory are always in the canonical form. -/

namespace Sys2Proof.Machine

/-- Why the machine stops. The manual gives the block no such stop; the constructor is never raised (safe). -/
inductive Fault where
  /-- Raised by nothing: no command of the JN64 stops the block. Safe. -/
  | noStop
  deriving DecidableEq, Repr

/-- Why a command has no meaning. -/
inductive Refusal where
  /-- Raised by exec's arm of a command that has no meaning yet, with its mnemonic. Safe. -/
  | notModelled (mnemonic : String)
  deriving DecidableEq, Repr

/-- What the SEC-DED code finds at the next read of a word or record (R25). -/
inductive Ecc where
  | good | corr | bad
  deriving DecidableEq, Repr

/-- What the block has put on its pins, as one observation each. -/
inductive Out where
  /-- A final or PENDING reply of the controller (R406): transport, its requester, 16 words, read data. -/
  | reply (via : Via) (dst : Eid) (words data : List Word)
  /-- A codeword group sent by a network port (R49), and its four codewords (R47). -/
  | group (port : Nat) (hdr : Word) (words : List LinkWord) (cells : List Cell64) (line : List Nat)
  /-- A posted write to host memory: port, function, bus address, bytes, and its relaxed-ordering and ID-based-ordering
  attributes (R178, R180, R255). -/
  | hostWrite (h fn addr : Nat) (bytes : List Byte) (relaxed ido : Bool)
  /-- A completion entry written (R198): port, CQ, index, words. -/
  | cqe (h cq : Nat) (index : Word) (words : List Word)
  /-- An MSI-X message: port (4 is the HM port), function, vector (R208, R440). -/
  | msix (h fn vec : Nat)
  /-- A read of host memory issued: port, function (its requester ID, R221), bus address, length, ID-based ordering. -/
  | hostRead (h fn addr len : Nat) (ido : Bool)
  /-- An AtomicOp compare-and-swap issued (R224): port, function, bus address, compare, swap, ID-based ordering. -/
  | cas (h fn addr : Nat) (cmp swap : BitVec 64) (ido : Bool)
  /-- A read completes with this value; `none` is poisoned data (R356). Port 4 is HM, and 5 the I3C target. -/
  | readData (h fn : Nat) (v : Option (List Byte))
  /-- A packet a Bole or the controller hands to the crossbar, by its crossbar input index. -/
  | inject (inport : Nat) (pkt : Packet)
  /-- A packet delivered at an internal output: crossbar output index. -/
  | deliver (o : Nat) (pkt : Packet)
  /-- The die-to-die module, 3b + m, and the ordering identifier of the crossing that the next output makes (R16). -/
  | cross (m ident : Nat)
  /-- An I3C in-band interrupt with its mandatory data byte (R415, R440). -/
  | ibi (byte : Byte)
  /-- A NACK of the I3C target's address (R415). -/
  | i3cNack
  /-- The provisional ID that the I3C target answers ENTDAA with (R415). -/
  | i3cId (pid : BitVec 48)
  /-- An SPDM or IDE_KM response at a host port's DOE mailbox (4: over GCP) (R389, R393), and the measurements that it reports
  (R394), by index from 1. -/
  | spdm (h : Nat) (code : Nat) (body : List Word) (measures : List (Option (List Byte)))
  /-- A configuration or AtomicOp request is answered: port (4: HM), status code 0 normal, 1 Retry Status,
  2 Unsupported Request (R179, R209). -/
  | pcie (h : Nat) (status : Nat)
  /-- A read of configuration space returns this word: port (4: HM), function, register. -/
  | cfgData (h fn reg : Nat) (v : Word)
  /-- The JTAG port: the instruction that acts, and the bits shifted out of TDO (R489). -/
  | jtag (selected : Nat) (tdo : List Bool)
  /-- SPI_RESET_N is low for 10 µs (R488). -/
  | spiReset
  /-- The boot ROM reads the SFDP tables of the NOR (R488). -/
  | spiSfdp
  deriving DecidableEq, Repr

/-- PRT_STATUS.STATE (R69). -/
inductive PortState where
  | disabled | training | locking | ident | up | grace | failed | fenced
  deriving DecidableEq, Repr

/-- A training in progress (R69). -/
inductive Train where
  | none | quick | full
  deriving DecidableEq, Repr

/-- A width or retrain request of a port's own (R73, R76). -/
structure LinkReq where
  id      : Byte := 0
  retrain : Bool := false
  full    : Bool := false
  width   : BitVec 2 := 0
  mask    : BitVec 4 := 0
  sends   : Nat := 1
  deriving DecidableEq, Repr

/-- A port's training and identity (R69, R83). -/
structure PortTrain where
  train    : Train := .none
  /-- coefficient exchange has finished; good and bad codeword runs; four good groups were seen -/
  coef     : Bool := false
  /-- lanes that the last training covered -/
  lanes    : BitVec 4 := 0
  goodRun  : Nat := 0
  badRun   : Nat := 0
  locked   : Bool := false
  identOk  : Bool := false
  /-- VC groups whose CREDIT_SYNC has arrived; KEY_SYNC has arrived (R69) -/
  syncGot  : BitVec 4 := 0
  keyGot   : Bool := false
  deriving DecidableEq, Repr

/-- What the partner's IDENT advertises (R83), and PRT_PEER. -/
structure PortPeer where
  eid  : Eid := 0
  port : Byte := 0
  pool : Nat := 0
  reserve : Nat := 0
  caps : BitVec 3 := 0
  bad  : Bool := false
  deriving DecidableEq, Repr

/-- Credit counts of a port by VC (R58 to R60); an unlisted VC reads 0. -/
structure PortCredit where
  sent   : TMap (BitVec 24) := []
  freed  : TMap (BitVec 24) := []
  acc    : TMap (BitVec 24) := []
  rfreed : TMap (BitVec 24) := []
  /-- VC groups whose CREDIT is to be sent; CREDIT_SYNC is still repeated -/
  due    : BitVec 4 := 0
  sync   : Bool := false
  /-- when all four groups were last sent (R59) -/
  sentAt : Nat := 0
  deriving DecidableEq, Repr

/-- A packet whose first cell a port has accepted, until its PACKET_ARRIVE has been taken and its last cell has come: cells,
VC, all of them accepted (R128), its tag failed (R81), its PACKET_ARRIVE taken, and its cells to be freed at its end. -/
structure Arrival where
  n       : Nat
  vc      : Nat
  whole   : Bool := false
  bad     : Bool := false
  arrived : Bool := false
  drop    : Bool := false
  deriving DecidableEq, Repr

/-- Replay state of a port (R61 to R63, R54). -/
structure PortReplay where
  /-- CSN of the next new cell, and of the next cell expected -/
  txCsn   : BitVec 18 := 0
  rxCsn   : BitVec 18 := 0
  /-- unacknowledged cells, oldest first; cells granted and not yet sent (R126); true marks a packet's last cell -/
  window  : List (Cell64 × Bool) := []
  txq     : List (Cell64 × Bool) := []
  /-- index into `window` of the next cell to retransmit; the partner's expected CSN has been heard since the link last
  failed (R69) -/
  resend  : Option Nat := none
  heard   : Bool := true
  retries : Nat := 0
  /-- when the last REPLAY_NAK for the expected CSN was sent (R62) -/
  nakAt   : Option Nat := none
  nakDue  : Bool := false
  ackDue  : Bool := false
  ackGroups : Nat := 0
  /-- other link words waiting for the next group; GOSSIP words, four to a control flit of their own (R86) -/
  words   : List LinkWord := []
  gossip  : List LinkWord := []
  /-- cells of the packet in reception so far, how many are to come, its VC (R54); the packets in reception or received,
  oldest first -/
  rxCells : List Cell64 := []
  rxLeft  : Nat := 0
  rxVc    : Nat := 0
  rx      : List Arrival := []
  deriving DecidableEq, Repr

/-- Width negotiation of a port (R73 to R77). -/
structure PortWidth where
  own      : Option LinkReq := none
  nextReq  : Byte := 0
  /-- agreed switches (R75): width, mask, and the earliest time of the transmitter's, none until the responder's WIDTH_ACK
  has been sent -/
  txSwitch : Option (BitVec 2 × BitVec 4 × Option Nat) := none
  rxSwitch : Option (BitVec 2 × BitVec 4) := none
  widthNext : Bool := false
  deriving DecidableEq, Repr

/-- Time exchange and gossip of a port (R84 to R86). -/
structure PortTime where
  /-- next SEQ, T1 of the outstanding requests by SEQ, PRT_LOOP, PRT_PATH, PRT_OFFSET, time of the last exchange -/
  seq    : Byte := 0
  out    : TMap (BitVec 80) := []
  loop   : Word := 0
  path   : Word := 0
  offset : Word := 0
  last   : Option Nat := none
  /-- gossip round in collection, its parts and levels; last complete round, its time, its levels -/
  gRound : Byte := 0
  gParts : BitVec 4 := 0
  gTmp   : BitVec 256 := 0
  gLast  : Option (Byte × Nat × BitVec 256) := none
  deriving DecidableEq, Repr

/-- The 1 ms windows of a port (R78, R89, R388): start, uncorrectable codewords, LW_CRCERR, LW_BADTYPE, tag failures,
corrected symbols by lane. -/
structure PortWindow where
  start : Nat := 0
  cw    : Nat := 0
  lw    : Nat := 0
  bt    : Nat := 0
  /-- fabric times of the tag failures of the last 1 ms (R388) -/
  gcm   : List Nat := []
  lane  : TMap Nat := []
  deriving DecidableEq, Repr

/-- Quarantine and drain state of a port (R467 to R471, R116). -/
structure PortGraft where
  quar     : Bool := false
  draining : Bool := false
  drained  : Bool := false
  /-- disabled for a mismatch of identities -/
  mism     : Bool := false
  /-- fabric time of the last non-MGT arrival, and of the last leaving of GRACE -/
  lastData : Option Nat := none
  graceLeft : Option Nat := none
  deriving DecidableEq, Repr

/-- One network port (02): everything but its RWS registers, counters and link keys. -/
structure Port where
  st       : PortState := .disabled
  width    : BitVec 2 := 0
  mask     : BitVec 4 := 0
  /-- lanes on which groups arrive, since the two directions switch independently (R75); the last 58 scrambled bits sent and
  received (R49) -/
  rxMask   : BitVec 4 := 0
  scrTx    : BitVec 58 := 0
  scrRx    : BitVec 58 := 0
  rate     : Bool := false
  /-- SPILL_ACTIVE, and spilling stopped under R68 -/
  spill    : Bool := false
  spillStop : Bool := false
  kpTx     : Bool := false
  kpRx     : Bool := false
  /-- transmit key switch pending (R387): the slot -/
  keySwitch : Option Bool := none
  tr : PortTrain := {}
  peer : PortPeer := {}
  cr : PortCredit := {}
  rp : PortReplay := {}
  wd : PortWidth := {}
  tm : PortTime := {}
  win : PortWindow := {}
  gr : PortGraft := {}
  deriving DecidableEq, Repr

/-- A packet held in an input pool (R126), or in transmission at an output. -/
structure Held where
  inp     : Nat
  out     : Nat
  vc      : Nat
  /-- VC on which it arrived, whose cells it holds (R59) -/
  inVc    : Nat
  arrived : Nat
  /-- routed by this bank (R116); tree packets and XINV are routed by none (R323, R497) -/
  bank    : Option Bool
  pkt     : Packet
  /-- all its cells have been accepted (R128) -/
  whole   : Bool := true
  /-- its words in the input pool (R25) -/
  ecc     : Ecc := .good
  deriving DecidableEq, Repr

/-- One crossbar output (04). -/
structure Output where
  /-- packet granted, and held for its last cell (R127, R128) -/
  busy     : Option Held := none
  hold     : Bool := false
  /-- the held packet has all its cells, and waits for its port's key alone (R128, R387) -/
  due      : Bool := false
  drrPtr   : Nat := 0
  deficit  : TMap Nat := []
  /-- round-robin pointers (R135) by class, level and member; an unlisted one reads 0, and so does every one after reset (DESIGN
  CHOICE, log 154) -/
  rr       : TMap Nat := []
  mgtLast  : Option Nat := none
  /-- shaper credit in 1/256,000 bit (R138) -/
  credit   : Int := 0
  /-- ASSURED_SHARE and SHP_QUANTA still in force, until the packet in progress at the commit has ended (R136) -/
  keep     : Option (Nat × Word) := none
  /-- cells in use of an internal output, by class group (R496) -/
  used     : TMap Nat := []
  deriving DecidableEq, Repr

/-- Meter state in bytes times 1,024 (R141), and its colour counters are statistics counters. -/
structure Meter where
  tc   : Nat := 0
  tp   : Nat := 0
  last : Nat := 0
  deriving DecidableEq, Repr

/-- A telemetry sample record in collection (R145). -/
structure TelRec where
  depthMax : Nat := 0
  delayMax : Nat := 0
  delaySum : Nat := 0
  pkts     : Nat := 0
  cells    : Nat := 0
  stall    : Nat := 0
  deriving DecidableEq, Repr

/-- The inactive bank's state (R114). -/
inductive BankState where
  | opened | ready | pending | draining | copying
  deriving DecidableEq, Repr

/-- The staged set, the banks and their commit (03, 14). -/
structure Stage where
  /-- ACTIVE values of RWS words by router address; unlisted: the reset value of that address -/
  rws      : TMap Word := []
  /-- staged words by router address (present means staged) -/
  staged   : TMap Word := []
  /-- forward, detour and lookahead entries, key bank * 2^20 + index; unlisted: the table's reset value -/
  ft       : TMap Word := []
  dt       : TMap Word := []
  la       : TMap Word := []
  /-- something has been written to a table bank since the last commit or discard -/
  tblStaged : Bool := false
  /-- reservations, key host * 2^14 + RESV_ID: active (unlisted: zeros) and staged -/
  resv     : TMap (List Word) := []
  resvStaged : TMap (List Word) := []
  bank     : BankState := .opened
  epoch    : Word := 0
  commitT  : Nat := 0
  lastSwap : Nat := 0
  lastDrain : Nat := 0
  /-- last instant that restarts the drain clock (R115, R116) -/
  drainClk : Nat := 0
  /-- CHECK in progress and the request that waits for it (R421) -/
  checking : Option GcpReq := none
  /-- bulk staging bytes (R432), by HBM region offset; unlisted: 0 -/
  bulk     : List Host.Cell := []
  /-- a bulk copy in progress (source offset, router address, bytes, request) -/
  bulkJob  : Option (Nat × Nat × Nat × GcpReq) := none
  deriving DecidableEq, Repr

/-- One Bough: what is not a register of another block (R101, R108). -/
structure Bough where
  refreshing : Bool := false
  /-- the replica missed a staging write, or was OFF, and is refreshed at its next ON (R101) -/
  stale    : Bool := false
  rot      : Nat := 0
  deriving DecidableEq, Repr

/-- A job: its chain of 16-word entries, named by its host port's job number. Under COUNT and in a trigger slot the
operation's entries come first (R304). -/
structure Job where
  id      : Nat
  h       : Nat
  q       : Nat
  /-- index of its first entry; the slot number of a fired job -/
  idx     : Word
  ents    : List (List Word)
  /-- the trigger slot that fired it, and the counter in whose list it stood (R308, R309) -/
  fired   : Option Nat := none
  list    : Option Nat := none
  /-- DONE_CTR and DONE_INC (R302) -/
  count   : Option (Nat × Nat) := none
  begun   : Bool := false
  cancel  : Bool := false
  /-- its local data have been checked (R249); it has waited at issue for room among the posted receives (R279) -/
  ready   : Bool := false
  held    : Bool := false
  /-- colouring (R158): metered, accept time and deadline and WAITED when green, waiting under ASSURED_WAIT -/
  metered : Bool := false
  asd     : Option (Nat × Nat × Bool) := none
  stalled : Bool := false
  /-- a commit has changed the reservation for which it waits (R159) -/
  again   : Bool := false
  /-- a SEND that goes as a rendezvous message (R278) -/
  rndv    : Bool := false
  /-- its place on its channel: packets built, packets sent, packets built and not yet shown executed, bytes acknowledged -/
  next    : Nat := 0
  sent    : Nat := 0
  left    : Nat := 0
  acked   : Nat := 0
  chan    : Nat := 0
  msn     : BitVec 24 := 0
  /-- FLAGS that its completion will carry (R199) -/
  flags   : BitVec 14 := 0
  /-- covered jobs that a fence still waits for, and whether a covered store was lost (R205) -/
  waitFor : List Nat := []
  loss    : Bool := false
  deriving DecidableEq, Repr

/-- A batch (R202): its unfinished jobs, the jobs it covers, those that finished with an error, the OR of their FLAGS,
and once it is closed the closing job and, when that has finished, the words of its completion. -/
structure Batch where
  jobs   : List Nat := []
  count  : Nat := 0
  errs   : Nat := 0
  flags  : BitVec 14 := 0
  closer : Option Nat := none
  result : Option (List Word) := none
  deriving DecidableEq, Repr

/-- Work-queue state (R183). -/
inductive WqState where
  | absent | active | error | draining
  deriving DecidableEq, Repr

/-- A work queue (R183, R184). -/
structure Wq where
  st       : WqState := .absent
  base     : Nat := 0
  cq       : Nat := 0
  log      : Nat := 4
  inOrder  : Bool := false
  prefetch : Nat := 0
  priv     : Bool := false
  fn       : Nat := 0
  weight   : Nat := 1
  headWb   : Nat := 0
  qbase    : Nat := 0
  qcount   : Nat := 0
  head     : Word := 0
  tail     : Word := 0
  wbHead   : Word := 0
  /-- a fetch is outstanding, and the bus reads it was issued as (R40); reads of a not-ready entry so far (R194) -/
  fetching : Bool := false
  reads    : Nat := 0
  rereads  : Nat := 0
  rereadAt : Nat := 0
  /-- index of the first entry of the chain in reception, and its entries so far -/
  partIdx  : Word := 0
  partials : List (List Word) := []
  /-- jobs fetched and not issued, in posting order -/
  fetched  : List Job := []
  /-- the FENCE job that blocks issue (R205) -/
  fence    : Option Nat := none
  /-- batches that are not complete, the open one last (R202) -/
  batches  : List Batch := []
  /-- jobs whose completion has been neither written nor deferred, in posting order (R201) -/
  order    : List Nat := []
  /-- first-entry indices of the jobs of the last pass that have committed their completion (R207) -/
  done     : List Word := []
  /-- the QUEUE_DESTROY job that waits for the drain -/
  destroy  : Option Nat := none
  /-- stores that were discarded before a fence which covers them has been issued (R205, R362) -/
  lostSt   : List Nat := []
  deriving DecidableEq, Repr

/-- A completion queue (R185, R203, R208). -/
structure Cq where
  active   : Bool := false
  base     : Nat := 0
  log      : Nat := 4
  vec      : Nat := 1
  intrEn   : Bool := false
  fn       : Nat := 0
  coalN    : Nat := 0
  coalT    : Nat := 0
  written  : Word := 0
  head     : Word := 0
  armed    : Option Word := none
  timer    : Bool := false
  full     : Bool := false
  deriving DecidableEq, Repr

/-- A committed completion that has not been written (R201, R203). -/
structure Comp where
  cq    : Nat
  q     : Nat
  job   : Nat
  /-- ordered under IN_ORDER (R201) -/
  ordered : Bool
  /-- words 0 to 5, word 6, and word 7 without PHASE -/
  words : List Word
  deriving DecidableEq, Repr

/-- A copy from a bounce slot into a receive (R286): the receive's job, slot, message length, tag, rank, FLAGS. -/
structure Copy where
  job   : Nat
  slot  : Nat
  /-- the bytes that have been read from the slot -/
  data  : Option (List Byte) := none
  len   : Nat
  tag   : BitVec 64
  rank  : Word
  flags : BitVec 14
  deriving DecidableEq, Repr

/-- Host-port state (R209). -/
inductive HpState where
  | off | reset | training | notReady | up | cleanup
  deriving DecidableEq, Repr

/-- A client that waits on host memory, a translation or a page request (R213, R234). -/
inductive Client where
  /-- a job's step -/
  | job (j : Nat)
  /-- a packet in execution at a channel, by its PSN -/
  | chan (c : Nat) (psn : Word)
  /-- a response whose data are being written -/
  | resp (p : Packet)
  /-- the copy of a bounce slot into a receive -/
  | copy (j slot : Nat)
  /-- payload that is read again for a retransmission -/
  | again (c : Nat)
  /-- the result of a Crown chunk -/
  | tree (p : Packet)
  deriving DecidableEq, Repr

/-- A walk-cache entry (R226): context key, level of the table it points to, the address bits that
select it, and that table's bus address. -/
structure WalkEnt where
  ctx   : Nat
  level : Nat
  sel   : Nat
  table : Nat
  ecc   : Ecc := .good
  deriving DecidableEq, Repr

/-- What a waiting client waits for: a host read (function, address, length); a page-table read (entry address, context, page,
level of the table at which the walk started, it has read an earlier entry, times that it has read the leaf again, R224); a
read of data through a translation (function, address, length, context, page, of an atomic); a compare-and-swap (entry
address); a page request (context, page); its walk having been abandoned, the end of an invalidation (R230); one of the 256
walks (R40); a trigger slot on which another operation acts (R313); or the issue of a fired job (R312). The need of an access
ends with its region. -/
inductive Need where
  | read (fn addr len : Nat) (slot : Bool)
  | walk (addr ctx page start : Nat) (deep : Bool) (tries region level : Nat) (path : List WalkEnt)
  | data (fn addr len ctx page : Nat) (atom : Bool) (region first pages : Nat) | cas (addr region : Nat) | page (ctx page region : Nat)
  | turn (inval region : Nat) | walker (region : Nat) | slot (fn k : Nat) | issue (job : Nat)
  deriving DecidableEq, Repr

/-- Whose non-posted request a host port's DMA holds back (R40): a waiting client's, a compare-and-swap's, a work queue's
fetch, a channel's record fetch, or a trigger slot's read. -/
inductive DmaKey where
  | wait (id : Nat) | cas (addr : Nat) | queue (q : Nat) | chan (c : Nat) | slot (fn k : Nat)
  deriving DecidableEq, Repr

/-- A waiting client: its number, what it waits for, and the page requests that have been answered for it (R236):
context, page, FAIL and its kind. -/
structure Wait where
  id     : Nat
  client : Client
  need   : Need
  ans    : List (Nat × Nat × Nat) := []
  deriving DecidableEq, Repr

/-- A page request (R234, R235). -/
structure PageReq where
  id     : BitVec 16 := 0
  ctx    : Nat
  page   : Nat
  write  : Bool
  remote : Bool
  fn     : Nat
  region : Nat
  deriving DecidableEq, Repr

/-- A fired trigger whose slot is being read (R308): function, slot, counter, and the read's result once it has come. -/
structure Firing where
  fn   : Nat
  slot : Nat
  ctr  : Option Nat
  /-- its read has been issued (R315 allows 256 at once) -/
  asked : Bool := false
  got  : Option (Option (List Word)) := none
  /-- a TRIG_CANCEL reads it: the number under which the completion that it causes is known (R313) -/
  cancel : Option Nat := none
  deriving DecidableEq, Repr

/-- One host port (06) without its queues and registers. -/
structure HostPort where
  st       : HpState := .off
  /-- PERST_N is asserted; the link has been up before (for HOT_ADD) -/
  perst    : Bool := true
  removed  : Bool := false
  rate     : BitVec 4 := 0
  width    : BitVec 5 := 0
  numVfs   : Nat := 0
  /-- BAR4 base of each function whose Memory Space Enable is 1 (R355), by function -/
  bar4     : TMap (Option Nat) := []
  /-- Enable Relaxed Ordering and IDO Request Enable of each function's Device Control (R178), and MSI-X Enable and Function
  Mask of each function (R208), by function -/
  devCtl   : TMap (Bool × Bool) := []
  msixCtl  : TMap (Bool × Bool) := []
  /-- jobs issued and not finished; fired slots being read; fired jobs not issued; completions committed and not written -/
  jobs     : List Job := []
  firing   : List Firing := []
  firedq   : List Job := []
  comps    : List Comp := []
  nextJob  : Nat := 0
  /-- queue that issued last, and the jobs left of its turn (R196) -/
  wrrAt    : Nat := 0
  wrrLeft  : Nat := 0
  /-- clients waiting on host memory -/
  waits    : List Wait := []
  nextWait : Nat := 0
  /-- non-posted requests that wait for one of the 4,096 of the port, oldest first (R40) -/
  dmaq     : List (DmaKey × Out) := []
  wCorr    : Nat := 0
  wCorrAt  : Nat := 0
  /-- page requests outstanding, and those waiting for room -/
  pageReqs : List PageReq := []
  pageWait : List PageReq := []
  nextReq  : BitVec 16 := 0
  fqWritten : Word := 0
  /-- matching (09): posting and release sequences, bounce slots in use, tier was empty -/
  postSeq  : Nat := 0
  relSeq   : Nat := 0
  slots    : List Nat := []
  copies   : List Copy := []
  lost     : Bool := false
  deriving DecidableEq, Repr

/-- A TLB slot (R226): context key, first and last page it maps, bus address of the first, rights, the
leaf's address and value. -/
structure Tlb where
  ctx   : Nat
  page  : Nat
  pages : Nat
  bus   : Nat
  rd    : Bool
  wr    : Bool
  dirty : Bool
  leaf  : Nat
  ent   : BitVec 64
  ecc   : Ecc := .good
  deriving DecidableEq, Repr

/-- A compare-and-swap outstanding (R224, R225). -/
structure CasOut where
  addr  : Nat
  ctx   : Nat
  page  : Nat
  level : Nat
  cmp   : BitVec 64
  swap  : BitVec 64
  /-- the slot that its success leaves -/
  tlb   : Tlb
  deriving DecidableEq, Repr

/-- A translation context (R220). -/
structure Xctx where
  active : Bool := false
  root   : Nat := 0
  bcast  : Bool := false
  adEn   : Bool := false
  share  : BitVec 4 := 0
  trig   : Bool := false
  fn     : Nat := 0
  deriving DecidableEq, Repr

/-- An invalidation in progress at a Bole (R231, R232): home port and context, issuing port and function, range, the job
it completes, or the XINV it answers; and whether it has begun (64 at once), finished here, and been acknowledged by the
other Bole. -/
structure Inval where
  id     : Nat
  scope  : Nat
  home   : Nat
  ctx    : Nat
  port   : Nat
  fn     : Nat
  start  : Nat
  len    : Nat
  job    : Option Nat := none
  xseq   : Option (BitVec 16) := none
  answer : Bool := false
  begun  : Bool := false
  done   : Bool := false
  acked  : Bool := true
  deriving DecidableEq, Repr

/-- A translation unit's caches and work, one per Bole (07). -/
structure Xlate where
  tlb    : List Tlb := []
  /-- the engines' micro-TLBs, newest first: 0 queue manager, 1 transport, 2 matching, 3 event counters -/
  micro  : List (Nat × Tlb) := []
  walks  : List WalkEnt := []
  cas    : List CasOut := []
  /-- failed compare-and-swaps in a row by entry address * 4 + host port (R225) -/
  fails  : TMap Nat := []
  invals : List Inval := []
  nextId : Nat := 0
  xseq   : BitVec 16 := 0
  finished : List (BitVec 16) := []
  deriving DecidableEq, Repr

/-- Channel state (R243). -/
inductive ChState where
  | absent | active | error | draining
  deriving DecidableEq, Repr

/-- A request packet sent and not acknowledged (R245, R265). -/
structure TxPkt where
  pkt  : Packet
  /-- job that sent it, or the rendezvous message whose fetch it belongs to -/
  job  : Option Nat := none
  fetch : Option (BitVec 24) := none
  bytes : Nat := 0
  sack : Bool := false
  /-- waits to be retransmitted -/
  redo : Bool := false
  /-- place of its payload or of its response in the local data (R382, R264): offset and length -/
  off  : Nat := 0
  len  : Nat := 0
  /-- its payload could not be read: it takes its PSN and is dropped (R25, R356) -/
  lost : Bool := false
  deriving DecidableEq, Repr

/-- A rendezvous fetch at the receiver (R287): the receive, the message, the sender's buffer and the bytes to fetch. -/
structure Fetch where
  job   : Nat
  orig  : BitVec 24
  msn   : BitVec 24 := 0
  tag   : BitVec 64
  comm  : Word
  rank  : Word
  addr  : Nat
  key   : Word
  len   : Nat
  msgLen : Nat
  left  : Nat
  unexp : Bool
  /-- its RNDV_RTS was late (R162) -/
  late  : Bool := false
  sent  : Bool := false
  deriving DecidableEq, Repr

/-- Who may send next on a channel (R245): jobs by number, and rendezvous fetches by ORIG_MSN. -/
inductive Turn where
  | job (j : Nat) | fetch (orig : BitVec 24)
  /-- the RNDV_DONE of a discarded message (R293, R294) -/
  | done (u : TxPkt)
  deriving DecidableEq, Repr

/-- Where the rest of an eager message goes (R283, R285). -/
inductive Dest where
  | recv (j : Nat) | slot (s : Nat) | gone
  /-- the slot of a message that a posting has matched before all of it had come, and the receive -/
  | both (s j : Nat)
  deriving DecidableEq, Repr

/-- An eager message in delivery: head PSN, destination, bytes still to come, envelope, flags of its completion. -/
structure MsgRx where
  head  : Word
  msn   : BitVec 24
  dest  : Dest
  left  : Nat
  len   : Nat
  tag   : BitVec 64
  comm  : Word
  rank  : Word
  flags : BitVec 14 := 0
  deriving DecidableEq, Repr

/-- A channel context (R240 to R267). -/
structure Chan where
  st      : ChState := .absent
  unrel   : Bool := false
  relaxed : Bool := false
  mode    : BitVec 2 := 0
  limit   : Nat := 1
  check   : Nat := 0
  fn      : Nat := 0
  peer    : Eid := eidNone
  peerCh  : BitVec 24 := 0
  inc     : BitVec 16 := 0
  pd      : BitVec 16 := 0
  cq      : Nat := 0
  t0      : Nat := 0
  cause   : Nat := 0
  -- send half
  txNext  : Word := 0
  txMsn   : BitVec 24 := 0
  lastAck : Word := 0
  unacked : List TxPkt := []
  toSend  : List TxPkt := []
  line    : List Turn := []
  backoff : Nat := 0
  timer   : Bool := false
  stall   : Bool := false
  stallPsn : Word := 0
  -- receive half
  expect  : Word := 0
  bitmap  : BitVec 2048 := 0
  rxMsn   : BitVec 24 := 0
  /-- MSG_LAST packets executed and not yet passed -/
  lasts   : List (Word × BitVec 24) := []
  /-- packets parked, and packets whose execution waits on host memory -/
  parked  : List Packet := []
  busy    : List Packet := []
  atomics : List (Word × BitVec 64) := []
  /-- most recent refused packet: PSN, kind; older refused ones, newest first (R259) -/
  refused : Option (Word × Nat) := none
  olds    : List Word := []
  ackN    : Nat := 0
  ackTimer : Bool := false
  /-- payload of the WRITE packets of a message (R256), messages with a late packet (R162) -/
  sums    : TMap Nat := []
  late    : List (BitVec 24) := []
  /-- eager messages in delivery, fetches -/
  msgs    : List MsgRx := []
  fetches : List Fetch := []
  /-- in the context cache, with a window slot; its fetch is outstanding; when last used -/
  cached  : Bool := false
  window  : Bool := false
  fetching : Bool := false
  /-- the fetched record waits for slots of the cache (R261) -/
  landed  : Bool := false
  used    : Nat := 0
  ecc     : Ecc := .good
  destroy : Option Nat := none
  deriving DecidableEq, Repr

/-- A posted receive (R279, R282). -/
structure Recv where
  job   : Nat
  seq   : Nat
  fn    : Nat
  pd    : BitVec 16
  tag   : BitVec 64
  mask  : BitVec 64
  comm  : Word
  rank  : Word
  any   : Bool
  len   : Nat
  ecc   : Ecc := .good
  deriving DecidableEq, Repr

/-- An unexpected entry (R284). -/
structure Unexp where
  seq   : Nat
  fn    : Nat
  pd    : BitVec 16
  chan  : Nat
  msn   : BitVec 24
  tag   : BitVec 64
  comm  : Word
  rank  : Word
  len   : Nat
  tier  : Bool
  slot  : Option Nat := none
  late  : Bool := false
  /-- address and key of a rendezvous message -/
  rndv  : Option (Nat × Word) := none
  ecc   : Ecc := .good
  deriving DecidableEq, Repr

/-- An event counter's record (R299). -/
structure EvCtr where
  /-- 0 ABSENT, 1 ACTIVE, 2 LOST -/
  st    : Nat := 0
  fn    : Nat := 0
  value : BitVec 48 := 0
  /-- first and last trigger of its list: function * 2^20 + slot, and threshold -/
  head  : Option (Nat × BitVec 48) := none
  tail  : Option (Nat × BitVec 48) := none
  ecc   : Ecc := .good
  deriving DecidableEq, Repr

/-- A trigger slot as the device has written it (R305): header words 0 to 9 and operation entries. -/
structure Slot where
  /-- 0 FREE, 1 ARMED, 2 FIRING -/
  st    : Nat := 0
  hdr   : List Word := []
  ents  : List (List Word) := []
  /-- the next trigger of its counter's list -/
  next  : Option (Nat × BitVec 48) := none
  deriving DecidableEq, Repr

/-- A lane value of a chunk in a Crown slot (R332): an exact integer with its SPECIAL, or native bits. -/
structure Elem where
  a       : Int := 0
  special : Nat := 0
  deriving DecidableEq, Repr

/-- An up slot of a tree context (R338). -/
structure UpSlot where
  chunk  : Nat
  op     : Nat
  dtype  : Nat
  mode   : Nat
  elems  : Word
  /-- children that have contributed, the running values, contributions held in ORDERED mode -/
  got    : List Nat
  vals   : List Elem
  held   : List (Nat × List Elem)
  ecc    : Ecc := .good
  deriving DecidableEq, Repr

/-- A down slot of a context (R338): the chunk whose result it holds, and the copies of it that have still to be granted. -/
structure DownSlot where
  chunk : Nat
  left  : Nat
  ecc   : Ecc := .good
  deriving DecidableEq, Repr

/-- A tree context's working state (R338, R349). -/
structure TreeCtx where
  /-- 0 ABSENT, 1 ACTIVE, 2 BROKEN -/
  st     : Nat := 0
  cause  : Nat := 0
  opSeq  : BitVec 16 := 0
  started : Bool := false
  chunks : Nat := 0
  /-- chunks of the operation sent up (down at the root), and those whose TREE_DOWN has gone down -/
  sent   : List Nat := []
  downed : List Nat := []
  ups    : List UpSlot := []
  downs  : List DownSlot := []
  deriving DecidableEq, Repr

/-- A Crown operation in progress at a host port (R342): its job, chunks, the next chunk to send and the chunks whose
result has come. One that has outlived its job sends no more, and stands until its results have come (R337). -/
structure TreeOp where
  job    : Nat
  opSeq  : BitVec 16
  chunks : Nat
  next   : Nat
  came   : List Nat
  deriving DecidableEq, Repr

/-- A tree binding of a host port (R340, R342). -/
structure TreeBind where
  /-- 0 UNBOUND, 1 BOUND, 2 BROKEN -/
  st     : Nat := 0
  tag    : BitVec 16 := 0
  fn     : Nat := 0
  window : Nat := 1
  opSeq  : BitVec 16 := 0
  op     : Option TreeOp := none
  deriving DecidableEq, Repr

/-- A buffered write of scratch memory (R359): its bytes wait until performed. -/
structure BufWrite where
  ident : Nat
  off   : Nat
  bytes : List Byte
  deriving DecidableEq, Repr

/-- A lock (R369 to R373). -/
structure Lock where
  owner  : Option Nat := none
  token  : BitVec 16 := 0
  seq    : BitVec 16 := 0
  orphan : Bool := false
  /-- stalled reads in arrival order: the masters -/
  queue  : List Nat := []
  deriving DecidableEq, Repr

/-- A lock group (R368): CLAIM mode, and the masters that have rights. -/
structure LockGroup where
  claim  : Bool := false
  rights : BitVec 512 := BitVec.ofNat 512 (1 + 2 ^ 256)
  deriving DecidableEq, Repr

/-- A link-key slot (R385). -/
structure LinkKey where
  valid : Bool := false
  key   : BitVec 256 := 0
  salt  : Word := 0
  ctr   : Nat := 0
  ecc   : Ecc := .good
  deriving DecidableEq, Repr

/-- An IDE stream of a host port (R389): 0 none, 1 active, 2 Insecure; the keys of its two key sets, and the set in use. -/
structure Ide where
  st   : Nat := 0
  k0   : Option (BitVec 256) := none
  k1   : Option (BitVec 256) := none
  cur  : Bool := false
  deriving DecidableEq, Repr

/-- The Heartwood (13). -/
structure Heart where
  /-- link-key slots by port * 4 + DIR * 2 + SLOT; unlisted: not VALID -/
  keys     : TMap LinkKey := []
  sessions : Nat := 0
  /-- the volatile copy of the identity private key, and the key-wrapping key (R393) -/
  idKey    : Option (BitVec 384) := none
  wrapKey  : Option (BitVec 256) := none
  deriveBlocked : Bool := false
  policyLock : Bool := false
  debugOpen : Bool := false
  unlockBlocked : Bool := false
  unlockFails : Nat := 0
  /-- challenges of a debug unlock that have been answered (R392) -/
  challenges : Nat := 0
  eraseCount : Nat := 0
  fwSlot   : Bool := false
  fwSvn    : Nat := 0
  minSvn   : Nat := 0
  /-- MIN_SVN as measurement 3 recorded it at boot; firmware slots whose manifest cannot be read (R391) -/
  minAtRun : Nat := 0
  unread   : BitVec 2 := 0
  latch    : BitVec 8 := 0
  policy   : BitVec 16 := 0x15AF
  thresh   : BitVec 8 := 0x10
  lastAlarm : BitVec 4 := 0
  lastIde  : BitVec 2 := 0
  lastTime : Nat := 0
  /-- IDE streams by host port * 8 + stream -/
  ide      : TMap Ide := []
  /-- zeroisation in progress: true for ERASE_ALL; when an alarm began it (R398) -/
  erasing  : Option Bool := none
  eraseAt  : Option Nat := none
  /-- measurements 1 and 2 recorded at boot (R394) -/
  measured : Bool := false
  image    : BitVec 384 := 0
  buildId  : BitVec 64 := 0
  responses : Nat := 0
  deriving DecidableEq, Repr

/-- A command that has been taken and has no final reply (R404, R408). -/
structure Cmd where
  id   : Nat
  req  : GcpReq
  pended : Bool := false
  deriving DecidableEq, Repr

/-- A request that has arrived and waits for an earlier command (R404); its PENDING reply has been sent (R408). -/
structure Waiting where
  id   : Nat
  req  : GcpReq
  pended : Bool := false
  deriving DecidableEq, Repr

/-- A GCP ring (R414): registers, replies written and replies waiting for a slot. -/
structure Ring where
  reqBaseLo : Word := 0
  reqBaseHi : Word := 0
  reqLog    : Nat := 4
  reqEn     : Bool := false
  reqTail   : Word := 0
  reqHead   : Word := 0
  rplBaseLo : Word := 0
  rplBaseHi : Word := 0
  rplLog    : Nat := 4
  vec       : Nat := 1
  intrEn    : Bool := false
  rplEn     : Bool := false
  rplHead   : Word := 0
  written   : Word := 0
  waiting   : List (List Word) := []
  /-- a request read is outstanding -/
  reading   : Bool := false
  deriving DecidableEq, Repr

/-- The firmware state (R434). -/
inductive FwState where
  | boot | running | recovery | restarting
  deriving DecidableEq, Repr

/-- The firmware update in progress (R429). -/
inductive FwJob where
  | none | erase (r : GcpReq) (bytes : Nat) | opened (bytes : Nat) | verify (r : GcpReq) (bytes : Nat)
  | promote (r : GcpReq) (opened : Option Nat)
  deriving DecidableEq, Repr

/-- The management controller (14). -/
structure Mgmt where
  fw      : FwState := .boot
  allow   : TMap Eid := []
  eventEid : Eid := eidNone
  /-- latest accepted MSEQ of each allowed EID, newest first, with the final reply if finished (R417) -/
  mseqs   : List (Eid × BitVec 16 × Option (List Word × List Word)) := []
  eseq    : BitVec 16 := 0
  /-- events sent once and to be repeated (R418) -/
  repeats : List (BitVec 16 × List Word) := []
  rings   : TMap Ring := []
  cmds    : List Cmd := []
  /-- requests that wait for an earlier command, oldest first (R404) -/
  waitq   : List Waiting := []
  nextCmd : Nat := 0
  i3cAddr : Option (BitVec 7) := none
  i3cReqs : List (List Word) := []
  i3cRpls : List (List Word) := []
  fwJob   : FwJob := .none
  /-- map-record snapshots by requester (R431): words of the record -/
  maps    : List (Via × Eid × List Word) := []
  deriving DecidableEq, Repr

/-- TIM_STATUS.STATE (R427). -/
inductive TimeState where
  | unlocked | locking | locked | holdover
  deriving DecidableEq, Repr

/-- Fabric time (14). `frac` counts units of 10^-12 ns. -/
structure Time where
  st     : TimeState := .unlocked
  now    : Nat := 0
  frac   : Nat := 0
  adj    : Int := 0
  est    : Int := 0
  follow : Option Nat := none
  run    : Nat := 0
  lastOff : Word := 0
  ppsErr : Word := 0
  ppsLast : Option Nat := none
  ppsHigh : Bool := false
  deriving DecidableEq, Repr

/-- What EVENT_CFG and raises have left in an event record, where it differs from the source's defaults
(R438). -/
structure EvRec where
  mask   : Bool := false
  sev    : Nat := 0
  split  : Bool := false
  route  : BitVec 4 := 0
  injected : Bool := false
  raises : Word := 0
  last   : Nat := 0
  deriving DecidableEq, Repr

/-- Events, fences and the pins they drive (15). -/
structure Events where
  /-- cause registers by register key; unlisted: 0 -/
  cause  : TMap Word := []
  /-- records by source; unlisted: the source's default record -/
  recs   : TMap (Option EvRec) := []
  own    : BitVec 128 := 0
  fenced : BitVec 128 := 0
  latch  : Bool := false
  faultLow : Bool := false
  faultAt : Nat := 0
  /-- ALIVE toggles; fabric time from which it does, and its level at that instant, or its last level once it has stopped -/
  alive  : Bool := false
  aliveAt : Nat := 0
  aliveHigh : Bool := false
  /-- sources whose CONTAIN reaction stopped ALIVE -/
  stopped : List Nat := []
  wdogOk : Bool := false
  hbOk   : Bool := false
  testOpen : Bool := false
  /-- statistics counters by key, unlisted: 0; keys of those that have saturated -/
  ctr    : TMap (BitVec 64) := []
  sat    : List Nat := []
  /-- MSI-X messages pending under a mask (R208): (host * 256 + function) * 2^11 + vector -/
  msixPend : List Nat := []
  /-- words struck by an uncorrectable and by a correctable error (R25), by array (`eccRep` and so on) and index; the records of
  other arrays carry their own mark -/
  ecc    : List (Nat × Nat) := []
  corr   : List (Nat × Nat) := []
  deriving DecidableEq, Repr

/-- A power domain's state (R412). -/
inductive PState where
  | off | retain | gated | on
  deriving DecidableEq, Repr

/-- One power domain (R455, R456). -/
structure Domain where
  st     : PState := .off
  /-- transition in progress: target -/
  target : Option PState := none
  /-- has been OFF since it was last ON -/
  wasOff : Bool := true
  /-- spilled cells of a port still hold back the transition to `target` (R68) -/
  held   : Bool := false
  deriving DecidableEq, Repr

/-- The TAP of the JTAG port (R489): the instruction register (PRESUMED: IDCODE after reset, as IEEE 1149.1 gives it, log 144),
the bypass register, and what has been shifted into the boundary register. -/
structure Tap where
  ir : Nat := 1
  bypass : Bool := false
  boundary : List Bool := []
  deriving DecidableEq, Repr

/-- Power, clocks, sensors, and the board's pins (16, 17). -/
structure Power where
  /-- domains by number; unlisted: OFF, as before boot starts the strap-selected ones (R458, R463) -/
  dom     : TMap Domain := []
  /-- the clocks have stopped until power-on reset (R460, R465) -/
  stopped : Bool := false
  lastFail : Word := 0
  est     : Nat := 0
  /-- sensor registers PWR_TEMP_s; PWR_TEMP_MAX -/
  temps   : TMap Word := []
  tempMax : Word := 0
  refOk   : Bool := false
  tapLock : Bool := false
  pllLock : BitVec 2 := 0
  hmRefOk : Bool := false
  hostRefOk : BitVec 4 := 0
  onOsc   : Bool := false
  tripped : Bool := false
  hmPerst : Bool := true
  hmTrained : Bool := false
  /-- straps (R487) -/
  roleSel : Nat := 0
  testMode : Bool := false
  i3cStrap : Nat := 0
  tap : Tap := {}
  deriving DecidableEq, Repr

/-- A die-to-die module (R15 to R19). -/
structure D2d where
  up      : Bool := false
  /-- link-level retries of the present 1 ms window, and its start (R19) -/
  retries : Nat := 0
  winAt   : Nat := 0
  deriving DecidableEq, Repr

/-- What crosses between a Bole and the Canopy (R16): an output of the model, a ring's MSI-X message, or a write of a host
ring's register, by its offset in the GCR_ block. -/
inductive Crossing where
  | emit (o : Out)
  | msix (h fn vec : Nat)
  | ring (ring off : Nat) (v : Word)
  deriving DecidableEq, Repr

/-- The ordering identifiers that a die-to-die module has carried (R16); those of a module that has been fenced whose
crossings are not over, and the new traffic held for them, oldest first, by Bole and identifier (R17). -/
structure Crossings where
  carried : TMap (List Nat) := []
  moving  : TMap (List Nat) := []
  held    : List (Nat × Nat × Crossing) := []
  deriving DecidableEq, Repr

/-- A QUARANTINE (R468): its request, ports and PEERS entries, and whether it has been answered. -/
structure Quar where
  req     : GcpReq
  ports   : BitVec 64
  peers   : List Word
  replied : Bool := false
  deriving DecidableEq, Repr

/-- Pending graft and prune actions held in hardware (R468, R471): ports and T. -/
structure Graft where
  admission  : Option (BitVec 64 × Nat) := none
  drain  : Option (BitVec 64 × Nat) := none
  remove : Option (BitVec 64 × Nat) := none
  /-- QUARANTINE in progress; DRAIN in progress: request, ports -/
  quarCmd : Option Quar := none
  drainCmd : Option (GcpReq × BitVec 64) := none
  deriving DecidableEq, Repr

/-- The network side: ports, Boughs, crossbar, telemetry, die-to-die modules (01 to 05). -/
structure Net where
  /-- ports by number; unlisted: the default record -/
  ports    : TMap Port := []
  boughs   : TMap Bough := []
  /-- packets in the input pools, in order of arrival -/
  voq      : List Held := []
  outs     : TMap Output := []
  meters   : TMap Meter := []
  /-- telemetry: live records by 4o + c, history slots (words by index), HIST_SLOT, WRAPPED, snapshot sequence -/
  tel      : TMap TelRec := []
  hist     : TMap (TMap Word) := []
  histSlot : Nat := 0
  wrapped  : Bool := false
  snapSeq  : Nat := 0
  /-- ASD backlog in bytes and its largest value by output -/
  backlog  : TMap Nat := []
  backMax  : TMap Nat := []
  d2d      : TMap D2d := []
  graft    : Graft := {}
  deriving DecidableEq, Repr

/-- The host side: host ports, queues, regions, translation, channels, matching, counters, bindings (06 to 11). -/
structure HostSide where
  ports    : TMap HostPort := []
  /-- RW registers of BAR0 by host register key; unlisted: their reset value -/
  bar      : TMap Word := []
  /-- work and completion queues by host * 2^20 + number -/
  wqs      : TMap Wq := []
  cqs      : TMap Cq := []
  /-- registered regions and cached descriptors by host * 2^24 + index: the 16 words; empty means none -/
  regions  : TMap (List Word) := []
  mrCache  : TMap (List Word) := []
  /-- contexts by host * 2^12 + number -/
  xctx     : TMap Xctx := []
  /-- translation units by Bole -/
  xl       : TMap Xlate := []
  /-- channels by host * 2^24 + number -/
  chans    : TMap Chan := []
  /-- posted receives and unexpected entries by host port -/
  posted   : TMap (List Recv) := []
  unexp    : TMap (List Unexp) := []
  /-- event counters by host * 2^16 + number; trigger slots by (host * 256 + function) * 2^20 + slot -/
  evctrs   : TMap EvCtr := []
  slots    : TMap Slot := []
  /-- tree bindings by host * 1024 + index -/
  binds    : TMap TreeBind := []
  /-- uses of channel contexts so far, for the least recently used one (R263) -/
  uses     : Nat := 0
  deriving DecidableEq, Repr

/-- Scratch memory and locks of the Boles (12). -/
structure Scr where
  /-- shared scratch memory by Bole * 2^23 + offset; unlisted: 0 (R356) -/
  mem    : List Host.Cell := []
  /-- write buffers by Bole, oldest first; LOSS bits: identifiers by Bole * 2^16 + identifier -/
  wbuf   : TMap (List BufWrite) := []
  loss   : List Nat := []
  locks  : TMap Lock := []
  lgroups : TMap LockGroup := []
  deriving DecidableEq, Repr

/-- The state of the JN64. Of these fields, `pending` is the block's command queue and `out` lists the outputs, newest
first: these two are the model's own, like the numbers by which it names jobs, waiting clients and commands. -/
structure State where
  pending  : List Instr := []
  out      : List Out := []
  /-- the speed grade is JN64-425, not JN64-212 (00) -/
  grade425 : Bool := true
  net      : Net := {}
  stage    : Stage := {}
  hs       : HostSide := {}
  /-- tree contexts by index -/
  trees    : TMap TreeCtx := []
  cross    : Crossings := {}
  scr      : Scr := {}
  heart    : Heart := {}
  mgmt     : Mgmt := {}
  time     : Time := {}
  ev       : Events := {}
  pw       : Power := {}
  /-- NOR contents by address; unlisted: 0xFF (R390) -/
  nor      : List Host.Cell := []
  deriving DecidableEq, Repr

/-- The machine right after reset: power-on reset has just ended, nothing has been sampled or booted (R461).
The manual's reset values are the fields' defaults above and the reset values of registers in
`Machine/Regs.lean`; the values that the manual does not give are named in the assumption log. -/
def State.reset : State := {}

end Sys2Proof.Machine
end

