-- ==== Sys2Proof/Machine/Operands.lean ====
section
/-! DEFINITION. Bit fields, words and bytes: the operand forms that every command and wire format uses
(R8, R10), and the keys under which registers are held. -/

namespace Sys2Proof.Machine

/-- `n` bits of a number from bit `lo`. -/
def bitsN (v lo n : Nat) : Nat := (v >>> lo) % 2 ^ n
/-- Field [lo+n-1:lo] of a word, as a number. -/
def fld (w : Word) (lo n : Nat) : Nat := bitsN w.toNat lo n
/-- One bit of a word. -/
def bitW (w : Word) (i : Nat) : Bool := w.getLsbD i
/-- Word `i` of a structure; a word beyond its end reads as 0. -/
def wAt (l : List Word) (i : Nat) : Word := l.getD i 0
/-- Field [lo+n-1:lo] of word `i`. -/
def fAt (l : List Word) (i lo n : Nat) : Nat := fld (wAt l i) lo n
/-- Bit `b` of word `i`. -/
def bAt (l : List Word) (i b : Nat) : Bool := bitW (wAt l i) b
/-- The 64-bit value of words `i` and `i + 1`. -/
def u64 (l : List Word) (i : Nat) : Nat := (wAt l i).toNat + 2 ^ 32 * (wAt l (i + 1)).toNat
/-- The word of a number. -/
def w32 (n : Nat) : Word := BitVec.ofNat 32 n
/-- A number's bit field placed at `lo`. -/
def at_ (lo n v : Nat) : Nat := (v % 2 ^ n) <<< lo
/-- The two words of a 64-bit value. -/
def w64 (n : Nat) : List Word := [w32 n, w32 (n >>> 32)]
/-- 1 for true. -/
def b2n (b : Bool) : Nat := if b then 1 else 0
/-- Two's-complement reading of the low `n` bits. -/
def sext (n v : Nat) : Int := if bitsN v (n - 1) 1 = 1 then ((v % 2 ^ n : Nat) : Int) - 2 ^ n else ((v % 2 ^ n : Nat) : Int)
/-- Two's-complement word of an integer. -/
def wInt (i : Int) : Word := BitVec.ofInt 32 i

/-- Little-endian value of bytes (R8). -/
def leNat : List Byte → Nat
  | [] => 0
  | b :: bs => b.toNat + 256 * leNat bs

/-- The `n` low bytes of a value, little-endian. -/
def leBytes : Nat → Nat → List Byte
  | 0, _ => []
  | n + 1, v => BitVec.ofNat 8 v :: leBytes n (v >>> 8)

/-- The bytes of words. -/
def wBytes (ws : List Word) : List Byte := ws.flatMap (fun w => leBytes 4 w.toNat)

/-- Words of `n` four-byte groups, missing bytes reading as 0. -/
def bWords : Nat → List Byte → List Word
  | 0, _ => []
  | n + 1, bs => w32 (leNat (bs.take 4)) :: bWords n (bs.drop 4)

/-- Exactly `n` words, zeros added. -/
def padW (n : Nat) (ws : List Word) : List Word := (List.range n).map (fun i => wAt ws i)
/-- Exactly `n` bytes, zeros added. -/
def padB (n : Nat) (bs : List Byte) : List Byte := (List.range n).map (fun i => bs.getD i 0)
/-- Least multiple of `m` that is at least `n`. -/
def roundUp (n m : Nat) : Nat := (n + m - 1) / m * m
/-- Sum of a list. -/
def sumN (l : List Nat) : Nat := l.foldl (· + ·) 0
/-- Least number of 64 B cells that hold `n` bytes. -/
def cellsOf (n : Nat) : Nat := (n + 63) / 64

/-- The fields of a word that `l` lists as (bit, width, number) triples. -/
def pack (l : List (Nat × Nat × Nat)) : Word := w32 (sumN (l.map (fun f => at_ f.1 f.2.1 f.2.2)))

/-- Distance (a - b) mod 2^n (00, "Modular arithmetic"). -/
def modSub (n a b : Nat) : Nat := (a % 2 ^ n + 2 ^ n - b % 2 ^ n) % 2 ^ n

/-- Key of the BAR0 register at `off` of a function of host port `h`. Router-space registers are keyed by
their router address. -/
def hostKey (h fn off : Nat) : Nat := 2 ^ 40 + (h * 256 + fn) * 2 ^ 24 + off
/-- Key of a BAR0 register that both host ports of a Bole share (R374, R375, R454). -/
def boleKey (b off : Nat) : Nat := 2 ^ 44 + b * 2 ^ 24 + off
/-- Key of a cause that a source's record holds (R436). -/
def recKey (src : Nat) : Nat := 2 ^ 45 + src

/-- Bole of a host port. -/
def boleOf (h : Nat) : Nat := h / 2
/-- Key of an object of a host port among the objects of a kind with `n`-bit numbers. -/
def objKey (n h x : Nat) : Nat := h * 2 ^ n + x

end Sys2Proof.Machine
end

