-- ==== Sys2Proof/Machine/Crc.lean ====
section
/-! DEFINITION. The check codes of the manual: CRC-16/T10-DIF (R95), CRC-16/IBM-3740 (R52), CRC-64/ECMA-182 (R378),
CRC-32C and CRC-32 (R380). -/

namespace Sys2Proof.Machine

/-- `k` steps of a `w`-bit CRC register, most significant bit first. -/
def crcSteps (w poly : Nat) : Nat → Nat → Nat
  | 0, c => c
  | k + 1, c => crcSteps w poly k (if c.testBit (w - 1) then ((c <<< 1) % 2 ^ w) ^^^ poly else (c <<< 1) % 2 ^ w)

/-- A CRC without reflection. -/
def crcFwd (w poly init : Nat) (bs : List Byte) : Nat :=
  bs.foldl (fun c b => crcSteps w poly 8 (c ^^^ (b.toNat <<< (w - 8)))) init

/-- `k` steps of a reflected CRC register, least significant bit first. -/
def crcStepsR (poly : Nat) : Nat → Nat → Nat
  | 0, c => c
  | k + 1, c => crcStepsR poly k (if c.testBit 0 then (c >>> 1) ^^^ poly else c >>> 1)

/-- A reflected CRC; `poly` is the reversed polynomial. -/
def crcRev (poly init : Nat) (bs : List Byte) : Nat :=
  bs.foldl (fun c b => crcStepsR poly 8 (c ^^^ b.toNat)) init

/-- CRC-16/T10-DIF (R95). -/
def hash16 (bs : List Byte) : Nat := crcFwd 16 0x8BB7 0 bs
/-- CRC-16/IBM-3740 (R52). -/
def crcLw (bs : List Byte) : Nat := crcFwd 16 0x1021 0xFFFF bs
/-- CRC-64/ECMA-182 (R378). -/
def crc64 (bs : List Byte) : Nat := crcFwd 64 0x42F0E1EBA9EA3693 0 bs
/-- CRC-32C (R380). -/
def crc32c (bs : List Byte) : Nat := crcRev 0x82F63B78 0xFFFFFFFF bs ^^^ 0xFFFFFFFF
/-- CRC-32 (R380). -/
def crc32 (bs : List Byte) : Nat := crcRev 0xEDB88320 0xFFFFFFFF bs ^^^ 0xFFFFFFFF

/-- The check value of a channel's CHECK field (R380): 0 CRC-32C, 1 CRC-32, 2 CRC-64, 3 CRC-16, 4 OFF. -/
def checkBy (chk : Nat) (bs : List Byte) : Nat :=
  if chk = 0 then crc32c bs else if chk = 1 then crc32 bs else if chk = 2 then crc64 bs
  else if chk = 3 then hash16 bs else 0

end Sys2Proof.Machine
end

