-- ==== Sys2Proof/Machine/Coding.lean ====
section
/-! DEFINITION. Packets and link words as bytes: the JNH header (R92), the trailer and its check values (R377 to
R381), and the link words (R52). -/

namespace Sys2Proof.Machine

/-- VC of a packet: CLASS * 4 + STAGE (R92). -/
def Packet.vcOf (p : Packet) : Nat := p.cls.toNat * 4 + p.stage.toNat

/-- The eight words of the base header (R92). Reserved bits pass as they came (R10). -/
def Packet.header (p : Packet) : List Word :=
  [pack [(0, 18, p.dest.toNat), (18, 14, p.flowHash.toNat)],
   pack [(0, 18, p.src.toNat), (18, 2, p.stage.toNat), (20, 2, p.cls.toNat), (22, 1, b2n p.epoch), (23, 6, p.hop.toNat),
     (29, 2, p.mode.toNat), (31, 1, b2n p.nonmin)],
   pack [(0, 18, p.detour.toNat), (18, 7, p.lenCells.toNat), (25, 7, p.rsv.toNat)],
   pack [(0, 8, p.ptype.toNat), (8, 8, p.extMask.toNat), (16, 13, p.payLen.toNat), (29, 3, p.rsv.toNat >>> 7)],
   pack [(0, 24, p.chan.toNat), (24, 8, p.rsv.toNat >>> 10)], pack [(0, 16, p.inc.toNat), (16, 16, p.rsv.toNat >>> 18)],
   p.psn, w32 (p.rsv.toNat >>> 34)]

/-- A packet with the fields cleared that routers change (R93, R378). -/
def Packet.invariant (p : Packet) : Packet :=
  { p with stage := 0, epoch := false, hop := 0, nonmin := false, detour := 0 }

/-- E2E_CRC of a packet (R378). -/
def e2eOf (p : Packet) : BitVec 64 :=
  BitVec.ofNat 64 (crc64 (wBytes (Packet.header (Packet.invariant p)) ++ wBytes p.ext ++ p.payload))

/-- Words of the extensions that EXT_MASK names (R92). -/
def extWords (m : Byte) : Nat :=
  4 * (b2n (m.getLsbD 0) + 2 * b2n (m.getLsbD 1) + b2n (m.getLsbD 2) + 2 * b2n (m.getLsbD 3) + b2n (m.getLsbD 4)
    + b2n (m.getLsbD 5) + b2n (m.getLsbD 6))

/-- Word at which extension `i` of EXT_MASK begins, within the extensions. -/
def extAt (m : Byte) (i : Nat) : Nat := extWords (m &&& BitVec.ofNat 8 (2 ^ i - 1))

/-- Word `w` of extension `i` of a packet. -/
def Packet.extW (p : Packet) (i w : Nat) : Word := wAt p.ext (extAt p.extMask i + w)
def Packet.extF (p : Packet) (i w lo n : Nat) : Nat := fld (Packet.extW p i w) lo n

/-- LEN_CELLS that the header and payload call for (R92). -/
def lenFor (p : Packet) : Nat := cellsOf (32 + 4 * p.ext.length + p.payLen.toNat + 32)

/-- The length test of R92 by the consuming unit, EXT_MASK bit 7 included. -/
def lenOk (p : Packet) : Bool :=
  p.lenCells.toNat == lenFor p && p.ext.length == extWords p.extMask && p.payload.length == p.payLen.toNat
    && !p.extMask.getLsbD 7

/-- The E2E_CRC test of R379. -/
def e2eGood (p : Packet) : Bool := p.e2e == e2eOf p
def e2eStomped (p : Packet) : Bool := p.e2e == ~~~ e2eOf p

/-- Completes a packet that a unit builds: PAYLOAD_LEN, LEN_CELLS and E2E_CRC (R92, R379). -/
def sealPkt (p : Packet) : Packet :=
  let p := { p with payLen := BitVec.ofNat 13 p.payload.length }
  let p := { p with lenCells := BitVec.ofNat 7 (lenFor p) }
  { p with e2e := e2eOf p }

/-- A packet stomped (R56): its E2E_CRC is the complement of the one computed. -/
def stompPkt (p : Packet) : Packet := { p with e2e := ~~~ e2eOf p }

/-- FLOW_HASH that a Bole writes (R95). -/
def flowHashOf (src : Eid) (chan : BitVec 24) : BitVec 14 :=
  BitVec.ofNat 14 (hash16 (leBytes 3 src.toNat ++ leBytes 3 chan.toNat))

/-- MSN that a packet carries, by its extension: RMA, ATOMIC or ENVELOPE (R381). Its place is that of word 3 of the RMA
extension, word 3 of ATOMIC and word 4 of ENVELOPE (R251, R252, R275). -/
def msnOf (p : Packet) : Nat :=
  if p.extMask.getLsbD 0 then Packet.extF p 0 3 0 24
  else if p.extMask.getLsbD 1 then Packet.extF p 1 3 0 24
  else if p.extMask.getLsbD 3 then Packet.extF p 3 4 0 24
  else 0

/-- MSG_CHECK of a packet under a channel's CHECK and INCARNATION (R381). -/
def msgCheckOf (chk inc : Nat) (p : Packet) : BitVec 64 :=
  let data := if p.ptype = 5 ∨ p.ptype = 6 then wBytes ((List.range 4).map (fun i => Packet.extW p 1 (4 + i))) else p.payload
  if chk ≥ 4 then 0
  else BitVec.ofNat 64 (checkBy chk
    (leBytes 4 p.psn.toNat ++ leBytes 3 (msnOf p) ++ [p.ptype] ++ leBytes 2 inc ++ [0, 0] ++ data))

/-- The bytes of a packet as it stands in its cells (R54, R377). -/
def Packet.bytes (p : Packet) : List Byte :=
  let body := wBytes (Packet.header p) ++ wBytes p.ext ++ p.payload
  padB (64 * p.lenCells.toNat - 32) body ++ leBytes 8 p.e2e.toNat ++ leBytes 8 p.check.toNat ++ leBytes 16 p.tag.toNat

/-- Cells of consecutive bytes. -/
def toCells : Nat → List Byte → List Cell64
  | 0, _ => []
  | n + 1, bs => BitVec.ofNat 512 (leNat (bs.take 64)) :: toCells n (bs.drop 64)

/-- The data cells of a packet (R54). -/
def Packet.cells (p : Packet) : List Cell64 := toCells p.lenCells.toNat (Packet.bytes p)

/-! ### Link words -/

/-- Field [lo+n-1:lo] of a link word. -/
def lwF (w : LinkWord) (lo n : Nat) : Nat := bitsN w.toNat lo n
/-- LW_CRC is right (R52). -/
def lwOk (w : LinkWord) : Bool := lwF w 112 16 == crcLw (leBytes 14 w.toNat)
/-- A link word with its LW_CRC. -/
def mkLw (ty : Nat) (fs : List (Nat × Nat × Nat)) : LinkWord :=
  let v := ty + sumN (fs.map (fun f => at_ f.1 f.2.1 f.2.2))
  BitVec.ofNat 128 (v + crcLw (leBytes 14 v) * 2 ^ 112)

end Sys2Proof.Machine
end

