-- ==== Sys2Proof/Machine/Crypto.lean ====
section
/-! DEFINITION. The cipher, the hash and the signature test that the manual names: AES-256-GCM (R80, NIST SP 800-38D), SHA-384
and ECDSA P-384 (R390 to R392, FIPS 180-4 and FIPS 186-5). -/

namespace Sys2Proof.Machine

/-- Big-endian value of bytes. -/
def beNat (bs : List Byte) : Nat := bs.foldl (fun v b => v * 256 + b.toNat) 0
/-- The `n` bytes of a value, most significant first. -/
def beBytes (n v : Nat) : List Byte := (leBytes n v).reverse

/-! ### AES-256 -/

/-- The S-box: byte i is the value of i. -/
def aesTable : Nat :=
  0x16BB54B00F2D99416842E6BF0D89A18CDF2855CEE9871E9B948ED9691198F8E19E1DC186B95735610EF6034866B53E708A8BBD4B1F74DDE8C6B4A61C2E2578BA08AE7A65EAF4566CA94ED58D6D37C8E779E4959162ACD3C25C2406490A3A32E0DB0B5EDE14B8EE4688902A22DC4F816073195D643D7EA7C41744975FEC130CCDD2F3FF1021DAB6BCF5389D928F40A351A89F3C507F02F94585334D43FBAAEFD0CF584C4A39BECB6A5BB1FC20ED00D153842FE329B3D63B52A05A6E1B1A2C830975B227EBE28012079A059618C323C7041531D871F1E5A534CCF73F362693FDB7C072A49CAFA2D4ADF04759FA7DC982CA76ABD7FE2B670130C56F6BF27B777C63
def aesSub (b : Nat) : Nat := bitsN aesTable (8 * b) 8
/-- S-box on the four bytes of a word. -/
def aesSubW (w : Nat) : Nat := sumN ((List.range 4).map (fun i => aesSub (bitsN w (8 * i) 8) <<< (8 * i)))
/-- Product by x in GF(2^8). -/
def aesX (b : Nat) : Nat := if b.testBit 7 then ((b <<< 1) % 256) ^^^ 0x1B else b <<< 1

/-- Eight words of the key schedule from the eight before them; words have their first byte lowest. -/
def aesNext (rc : Nat) (w : List Nat) : List Nat :=
  let last := w.getD 7 0
  let a0 := w.getD 0 0 ^^^ aesSubW ((last >>> 8) ||| ((last % 256) <<< 24)) ^^^ rc
  let a1 := w.getD 1 0 ^^^ a0
  let a2 := w.getD 2 0 ^^^ a1
  let a3 := w.getD 3 0 ^^^ a2
  let a4 := w.getD 4 0 ^^^ aesSubW a3
  let a5 := w.getD 5 0 ^^^ a4
  let a6 := w.getD 6 0 ^^^ a5
  [a0, a1, a2, a3, a4, a5, a6, last ^^^ a6]
/-- The key schedule: `n` more groups of eight words. -/
def aesSchedule : Nat → Nat → List Nat → List Nat
  | 0, _, w => w
  | n + 1, rc, w => w ++ aesSchedule n (aesX rc) (aesNext rc w)
/-- The fifteen round keys of a key, whose byte 0 is lowest, as 16 bytes each. -/
def aesKeys (key : BitVec 256) : List (List Nat) :=
  let ws := aesSchedule 7 1 ((List.range 8).map (fun i => bitsN key.toNat (32 * i) 32))
  (List.range 15).map (fun r => (List.range 16).map (fun i => bitsN (ws.getD (4 * r + i / 4) 0) (8 * (i % 4)) 8))

/-- ShiftRows after SubBytes. -/
def aesShift (b : List Nat) : List Nat := (List.range 16).map (fun i => aesSub (b.getD ((i + 4 * (i % 4)) % 16) 0))
/-- MixColumns. -/
def aesMix (b : List Nat) : List Nat :=
  (List.range 16).map (fun i =>
    let g (k : Nat) : Nat := b.getD (i / 4 * 4 + (i + k) % 4) 0
    aesX (g 0) ^^^ (aesX (g 1) ^^^ g 1) ^^^ g 2 ^^^ g 3)
def aesAdd (a b : List Nat) : List Nat := List.zipWith (· ^^^ ·) a b
/-- One block under round keys. -/
def aesBlock (ks : List (List Nat)) (b : List Nat) : List Nat :=
  let b := ((ks.drop 1).take 13).foldl (fun b k => aesAdd (aesMix (aesShift b)) k) (aesAdd b (ks.getD 0 []))
  aesAdd (aesShift b) (ks.getD 14 [])

/-! ### GCM -/

/-- Product in GF(2^128) with GCM's bit order: bit 127 of a number is the block's first bit. -/
def ghMul (x y : Nat) : Nat :=
  ((List.range 128).foldl (fun a i =>
    (if x.testBit (127 - i) then a.1 ^^^ a.2 else a.1, if a.2.testBit 0 then (a.2 >>> 1) ^^^ (0xE1 <<< 120) else a.2 >>> 1))
    (0, y)).1
/-- GHASH of `n` blocks of data. -/
def ghash (h : Nat) : Nat → List Byte → Nat → Nat
  | 0, _, y => y
  | n + 1, bs, y => ghash h n (bs.drop 16) (ghMul (y ^^^ beNat (padB 16 (bs.take 16))) h)

/-- Key stream of `n` blocks from a counter block: the IV and a count. -/
def gcmStream (ks : List (List Nat)) (iv : List Byte) : Nat → Nat → List Nat
  | 0, _ => []
  | n + 1, c => aesBlock ks ((iv ++ beBytes 4 c).map (·.toNat)) ++ gcmStream ks iv n (c + 1)

/-- AES-256-GCM (R80): ciphertext of bytes, and the reverse, under a key and a 96-bit IV, both with byte 0 lowest (R385). -/
def gcmCrypt (key : BitVec 256) (iv : BitVec 96) (bs : List Byte) : List Byte :=
  let st := gcmStream (aesKeys key) (leBytes 12 iv.toNat) ((bs.length + 15) / 16) 2
  List.zipWith (fun b k => b ^^^ BitVec.ofNat 8 k) bs st

/-- AES-256-GCM's tag of a plaintext, with no additional data; its byte 0 is lowest. -/
def gcmTag (key : BitVec 256) (iv : BitVec 96) (pt : List Byte) : BitVec 128 :=
  let ks := aesKeys key
  let ct := gcmCrypt key iv pt
  let h := beNat ((aesBlock ks (List.replicate 16 0)).map (BitVec.ofNat 8))
  let s := ghMul (ghash h ((ct.length + 15) / 16) ct 0 ^^^ (8 * ct.length)) h
  let e := (gcmStream ks (leBytes 12 iv.toNat) 1 1).map (BitVec.ofNat 8)
  BitVec.ofNat 128 (leNat (List.zipWith (· ^^^ ·) (beBytes 16 s) e))

/-! ### SHA-384 -/

/-- The eighty round constants of FIPS 180-4. -/
def shaK : List (BitVec 64) :=
  [0x428A2F98D728AE22, 0x7137449123EF65CD, 0xB5C0FBCFEC4D3B2F, 0xE9B5DBA58189DBBC,
   0x3956C25BF348B538, 0x59F111F1B605D019, 0x923F82A4AF194F9B, 0xAB1C5ED5DA6D8118,
   0xD807AA98A3030242, 0x12835B0145706FBE, 0x243185BE4EE4B28C, 0x550C7DC3D5FFB4E2,
   0x72BE5D74F27B896F, 0x80DEB1FE3B1696B1, 0x9BDC06A725C71235, 0xC19BF174CF692694,
   0xE49B69C19EF14AD2, 0xEFBE4786384F25E3, 0x0FC19DC68B8CD5B5, 0x240CA1CC77AC9C65,
   0x2DE92C6F592B0275, 0x4A7484AA6EA6E483, 0x5CB0A9DCBD41FBD4, 0x76F988DA831153B5,
   0x983E5152EE66DFAB, 0xA831C66D2DB43210, 0xB00327C898FB213F, 0xBF597FC7BEEF0EE4,
   0xC6E00BF33DA88FC2, 0xD5A79147930AA725, 0x06CA6351E003826F, 0x142929670A0E6E70,
   0x27B70A8546D22FFC, 0x2E1B21385C26C926, 0x4D2C6DFC5AC42AED, 0x53380D139D95B3DF,
   0x650A73548BAF63DE, 0x766A0ABB3C77B2A8, 0x81C2C92E47EDAEE6, 0x92722C851482353B,
   0xA2BFE8A14CF10364, 0xA81A664BBC423001, 0xC24B8B70D0F89791, 0xC76C51A30654BE30,
   0xD192E819D6EF5218, 0xD69906245565A910, 0xF40E35855771202A, 0x106AA07032BBD1B8,
   0x19A4C116B8D2D0C8, 0x1E376C085141AB53, 0x2748774CDF8EEB99, 0x34B0BCB5E19B48A8,
   0x391C0CB3C5C95A63, 0x4ED8AA4AE3418ACB, 0x5B9CCA4F7763E373, 0x682E6FF3D6B2B8A3,
   0x748F82EE5DEFB2FC, 0x78A5636F43172F60, 0x84C87814A1F0AB72, 0x8CC702081A6439EC,
   0x90BEFFFA23631E28, 0xA4506CEBDE82BDE9, 0xBEF9A3F7B2C67915, 0xC67178F2E372532B,
   0xCA273ECEEA26619C, 0xD186B8C721C0C207, 0xEADA7DD6CDE0EB1E, 0xF57D4F7FEE6ED178,
   0x06F067AA72176FBA, 0x0A637DC5A2C898A6, 0x113F9804BEF90DAE, 0x1B710B35131C471B,
   0x28DB77F523047D84, 0x32CAAB7B40C72493, 0x3C9EBE0A15C9BEBC, 0x431D67C49C100D4C,
   0x4CC5D4BECB3E42B6, 0x597F299CFC657E2A, 0x5FCB6FAB3AD6FAEC, 0x6C44198C4A475817]
/-- The initial hash value of SHA-384. -/
def shaInit : List (BitVec 64) :=
  [0xCBBB9D5DC1059ED8, 0x629A292A367CD507, 0x9159015A3070DD17, 0x152FECD8F70E5939,
   0x67332667FFC00B31, 0x8EB44A8768581511, 0xDB0C2E0D64F98FA7, 0x47B5481DBEFA4FA4]

/-- The message schedule: `n` more words after the sixteen latest, which stand newest first. -/
def shaSched : Nat → List (BitVec 64) → List (BitVec 64)
  | 0, w => w
  | n + 1, w =>
    let a := w.getD 14 0
    let b := w.getD 1 0
    let s0 := a.rotateRight 1 ^^^ a.rotateRight 8 ^^^ (a >>> 7)
    let s1 := b.rotateRight 19 ^^^ b.rotateRight 61 ^^^ (b >>> 6)
    shaSched n ((w.getD 15 0 + s0 + w.getD 6 0 + s1) :: w)

/-- One round on the eight working variables; `kw` is the round's constant plus its schedule word. -/
def shaRound (v : List (BitVec 64)) (kw : BitVec 64) : List (BitVec 64) :=
  let a := v.getD 0 0
  let b := v.getD 1 0
  let c := v.getD 2 0
  let e := v.getD 4 0
  let f := v.getD 5 0
  let g := v.getD 6 0
  let t1 := v.getD 7 0 + (e.rotateRight 14 ^^^ e.rotateRight 18 ^^^ e.rotateRight 41) + ((e &&& f) ^^^ (~~~e &&& g)) + kw
  let t2 := (a.rotateRight 28 ^^^ a.rotateRight 34 ^^^ a.rotateRight 39) + ((a &&& b) ^^^ (a &&& c) ^^^ (b &&& c))
  [t1 + t2, a, b, c, v.getD 3 0 + t1, e, f, g]

/-- One 128-byte block. -/
def shaBlock (h : List (BitVec 64)) (bs : List Byte) : List (BitVec 64) :=
  let w := (List.range 16).map (fun i => BitVec.ofNat 64 (beNat ((bs.drop (8 * i)).take 8)))
  let ws := (shaSched 64 w.reverse).reverse
  List.zipWith (· + ·) h ((List.zipWith (· + ·) ws shaK).foldl shaRound h)
def shaBlocks : Nat → List Byte → List (BitVec 64) → List (BitVec 64)
  | 0, _, h => h
  | n + 1, bs, h => shaBlocks n (bs.drop 128) (shaBlock h (bs.take 128))

/-- SHA-384 as 48 bytes. -/
def sha384Bytes (m : List Byte) : List Byte :=
  let n := (m.length + 17 + 127) / 128
  let p := m ++ 0x80 :: (List.replicate (128 * n - m.length - 17) 0 ++ beBytes 16 (8 * m.length))
  ((shaBlocks n p shaInit).take 6).flatMap (fun x => beBytes 8 x.toNat)
/-- SHA-384 as the number whose lowest byte is the digest's first. -/
def sha384 (m : List Byte) : BitVec 384 := BitVec.ofNat 384 (leNat (sha384Bytes m))

/-! ### ECDSA P-384 -/

def p384P : Nat := 2 ^ 384 - 2 ^ 128 - 2 ^ 96 + 2 ^ 32 - 1
def p384N : Nat := 0xFFFFFFFFFFFFFFFFFFFFFFFFFFFFFFFFFFFFFFFFFFFFFFFFC7634D81F4372DDF581A0DB248B0A77AECEC196ACCC52973
def p384B : Nat := 0xB3312FA7E23EE7E4988E056BE3F82D19181D9C6EFE8141120314088F5013875AC656398D8A2ED19D2A85C8EDD3EC2AEF
def p384G : Nat × Nat :=
  (0xAA87CA22BE8B05378EB1C71EF320AD746E1D3B628BA79B9859F741E082542A385502F25DBF55296C3A545E3872760AB7,
   0x3617DE4A96262C6F5D9E98BF9292DC29F8F41DBD289A147CE9DA3113B5F0B8C00A60B1CE1D7E819D7A431D7C90EA0E5F)

/-- x^e modulo m over the `n` low bits of e. -/
def powMod (m : Nat) : Nat → Nat → Nat → Nat
  | 0, _, _ => 1
  | n + 1, x, e => if e.testBit 0 then x * powMod m n (x * x % m) (e >>> 1) % m else powMod m n (x * x % m) (e >>> 1)
/-- Inverse modulo a prime of 384 bits. -/
def invMod (m x : Nat) : Nat := powMod m 384 (x % m) (m - 2)

/-- Slope of the line through two points of the curve; none where it is vertical. -/
def ecSlope (x1 y1 x2 y2 : Nat) : Option Nat :=
  if x1 ≠ x2 then some ((y2 + p384P - y1) * invMod p384P (x2 + p384P - x1) % p384P)
  else if y1 ≠ y2 ∨ y1 = 0 then none
  else some ((3 * x1 * x1 + p384P - 3) * invMod p384P (2 * y1) % p384P)
/-- Sum of two points of the curve; none is the point at infinity. -/
def ecAdd (a b : Option (Nat × Nat)) : Option (Nat × Nat) :=
  match a, b with
  | none, q => q
  | q, none => q
  | some (x1, y1), some (x2, y2) =>
    (ecSlope x1 y1 x2 y2).map (fun l =>
      let x := (l * l + 2 * p384P - x1 - x2) % p384P
      (x, (l * (x1 + p384P - x) + p384P - y1) % p384P))
/-- Multiple of a point by the `n` low bits of a number. -/
def ecMul : Nat → Nat → Option (Nat × Nat) → Option (Nat × Nat)
  | 0, _, _ => none
  | n + 1, k, q => if k.testBit 0 then ecAdd q (ecMul n (k >>> 1) (ecAdd q q)) else ecMul n (k >>> 1) (ecAdd q q)

/-- ECDSA P-384 verification: public key and signature as two 48-byte integers each, least significant byte first (R390,
R8); `dig` is the digest as `sha384` gives it. -/
def ecdsaP384Verify (key : List Byte) (dig : BitVec 384) (sig : List Byte) : Bool :=
  let x := leNat (key.take 48)
  let y := leNat ((key.drop 48).take 48)
  let r := leNat (sig.take 48)
  let s := leNat ((sig.drop 48).take 48)
  let n := p384N
  if p384P ≤ x ∨ p384P ≤ y ∨ (y * y) % p384P ≠ (x * x * x + (p384P - 3) * x + p384B) % p384P then false
  else if r = 0 ∨ n ≤ r ∨ s = 0 ∨ n ≤ s then false
  else
    let e := beNat (leBytes 48 dig.toNat)
    let w := invMod n s
    match ecAdd (ecMul 384 (e * w % n) (some p384G)) (ecMul 384 (r * w % n) (some (x, y))) with
    | none => false
    | some q => q.1 % n == r

end Sys2Proof.Machine
end

