-- ==== Sys2Proof/Machine/Fec.lean ====
section
/-! DEFINITION. The codeword group on the line (R47 to R49): RS(544,514) over GF(2^10), the marks, the self-synchronising
scrambler, and the layout of header and flits. A codeword is the number whose bit 0 is transmitted first. -/

namespace Sys2Proof.Machine

/-! ### GF(2^10) and RS(544,514), of IEEE 802.3 clause 91 -/

/-- Reduces a product by x^10 + x^3 + 1, from bit `i + 10` down. -/
def gfRed : Nat → Nat → Nat
  | 0, v => v
  | i + 1, v => gfRed i (if v.testBit (i + 10) then v ^^^ (0x409 <<< i) else v)
/-- Product in GF(2^10). -/
def gfMul (a b : Nat) : Nat :=
  gfRed 9 ((List.range 10).foldl (fun v i => if b.testBit i then v ^^^ (a <<< i) else v) 0)
/-- The inverse: a^1022, the product of a^2, a^4, ... a^512. -/
def gfInv (a : Nat) : Nat := ((List.range 9).foldl (fun x _ => (gfMul x.1 x.1, gfMul (gfMul x.1 x.1) x.2)) (a, 1)).2
/-- Powers of x: `gfPows n a` lists a, a x, a x^2, ... -/
def gfPows : Nat → Nat → List Nat
  | 0, _ => []
  | n + 1, a => a :: gfPows n (gfMul a 2)
/-- Value of a polynomial, lowest coefficient first. -/
def gfEval (p : List Nat) (x : Nat) : Nat := p.foldr (fun c v => gfMul v x ^^^ c) 0

/-- x^b times the generator polynomial less its leading term, coefficient i at bits [10i+9:10i], for b = 0 to 9. -/
def rsGen : List Nat :=
  [0x8FE282ECE68A0011B235468F99448417AD07BD81EB9F7DCD69C5262305881FCB927880D0A0B,
   0x1DC595D9CC16402360638D1F22AD082F1A9F7B02D57EEBBED2884CD60B103F9724F100A341F,
   0x3B8B2BB3982C8046C0C6187E455A105E352ED60DA8FD575DAD12D9AC12297F2E49E20044C3E,
   0x771647473959008D818C30BC1AB029BC2ADD8C1353FA3EBB5A25B348045BFE1C13E4098987C,
   0xEE2C8E8A7BB2010B27186138B544527A553B3C26A7B4FD56BD4B26102CB6FE7827C812114F8,
   0xDE599D34FF6642066E39C231FA88A4F4AA665C4C4D697A8D73960CB0596CFEF0DF9024229F0,
   0xBEF32A4DFECC840CD87B8663753548EB545CB8989A92753EE62E5960B2D8FFE13F0448453E0,
   0x7FE6D4BFFC9B480994F60EC67A6A90D4E8A955303764EA79C55CB2C161B9FDC2FE2C908A3C9,
   0xFF8D397BF134D0030DEC1D8CE4F529ABD1D28E606E8954D78AB92512C372F9C5EC7D201679B,
   0xFD5A62D7EB69A0061BD83B19C9EA5255E3A518C9DD12A9AB1D704AB582EDF1CBC8DE402CB3F]

/-- One step of the division by the generator polynomial. -/
def rsStep (r m : Nat) : Nat :=
  let fb := (r >>> 290) ^^^ m
  (rsGen.foldl (fun x g => (x.1 >>> 1, if x.1.testBit 0 then x.2 ^^^ g else x.2)) (fb, (r <<< 10) % 2 ^ 300)).2
/-- Remainder of `n` message symbols, first symbol at bit 0. -/
def rsRem : Nat → Nat → Nat → Nat
  | 0, _, r => r
  | n + 1, d, r => rsRem n (d >>> 10) (rsStep r (d % 1024))
/-- Thirty symbols in the opposite order. -/
def rsFlip (r : Nat) : Nat := (List.range 30).foldl (fun v i => v ||| (bitsN r (10 * i) 10 <<< (290 - 10 * i))) 0
/-- The codeword of 5,140 data bits: parity follows (R47). -/
def rsEncode (d : Nat) : Nat := d + rsFlip (rsRem 514 d 0) <<< 5140

/-- State of the search for an error locator: C, B, L, the shift, and the last discrepancy. -/
structure RsLoc where
  c : List Nat := [1]
  b : List Nat := [1]
  l : Nat := 0
  m : Nat := 1
  d : Nat := 1

/-- C - f x^m B. -/
def rsSub (c b : List Nat) (f m : Nat) : List Nat :=
  let sh := List.replicate m 0 ++ b.map (gfMul f)
  (List.range (max c.length sh.length)).map (fun i => c.getD i 0 ^^^ sh.getD i 0)

/-- One syndrome of the Berlekamp-Massey search. -/
def rsMassey (syn : List Nat) (x : RsLoc) (n : Nat) : RsLoc :=
  let d := (List.range (x.l + 1)).foldl (fun v i => v ^^^ gfMul (x.c.getD i 0) (syn.getD (n - i) 0)) 0
  if d = 0 then { x with m := x.m + 1 }
  else
    let c := rsSub x.c x.b (gfMul d (gfInv x.d)) x.m
    if 2 * x.l ≤ n then { c := c, b := x.c, l := n + 1 - x.l, m := 1, d := d }
    else { x with c := c, m := x.m + 1 }

/-- The symbols in error of a remainder that is not zero, each with its magnitude, by place in order of transmission; none
where no codeword lies within 15 symbols. -/
def rsErrors (rem : Nat) : Option (List (Nat × Nat)) :=
  let co := (List.range 30).map (fun i => bitsN rem (10 * i) 10)
  let syn := (gfPows 30 1).map (gfEval co)
  let x := (List.range 30).foldl (rsMassey syn) {}
  if 15 < x.l then none else
  let om := (List.range 30).map (fun i => (List.range (i + 1)).foldl (fun v j => v ^^^ gfMul (x.c.getD j 0) (syn.getD (i - j) 0)) 0)
  let dv := (List.range (x.c.length - 1)).map (fun i => if i % 2 = 0 then x.c.getD (i + 1) 0 else 0)
  let es := (gfPows 544 1).zipIdx.filterMap (fun y =>
    let xi := gfInv y.1
    if gfEval x.c xi = 0 then some (543 - y.2, gfMul y.1 (gfMul (gfEval om xi) (gfInv (gfEval dv xi)))) else none)
  if es.length = x.l then some es else none

/-- Decodes a codeword (R47): the codeword corrected and the places of the symbols corrected, or none. -/
def rsDecode (c : Nat) : Option (Nat × List Nat) :=
  let rem := rsRem 514 c 0 ^^^ rsFlip (c >>> 5140)
  if rem = 0 then some (c, [])
  else (rsErrors rem).map (fun es => (es.foldl (fun v e => v ^^^ (e.2 <<< (10 * e.1))) c, es.map (·.1)))

/-! ### Marks, scrambler and layout (R48, R49) -/

/-- MARK_k (R49). -/
def markOf (k : Nat) : Nat := 0x6C0 + 2 ^ k
/-- Scrambled bits of a codeword: its data bits but the mark. -/
def cwLen : Nat := 5128

/-- Data bits under the scrambler x^58 + x^39 + 1, 39 at a time; `p` holds the last 58 bits sent, the latest on top. -/
def scramble : Nat → Nat → Nat → Nat × Nat
  | 0, _, p => (0, p)
  | n + 1, d, p =>
    let s := (d ^^^ (p >>> 19) ^^^ p) % 2 ^ 39
    let r := scramble n (d >>> 39) ((p >>> 39) ||| (s <<< 19))
    (s + r.1 <<< 39, r.2)
/-- The last 58 bits of a stream of `n` bits that follows the bits of `p`. -/
def scrTail (p d n : Nat) : Nat := ((d <<< 58) + p) >>> n % 2 ^ 58
/-- The bits of a stream of `n` scrambled bits in the clear. -/
def descramble (p d n : Nat) : Nat :=
  let x := (d <<< 58) + p
  ((x >>> 58) ^^^ (x >>> 19) ^^^ x) % 2 ^ n

/-- Numbers of `w` bits from consecutive bits. -/
def split (w : Nat) : Nat → Nat → List Nat
  | 0, _ => []
  | n + 1, v => v % 2 ^ w :: split w n (v >>> w)
/-- Consecutive numbers of `w` bits as one. -/
def joinBits (w : Nat) (l : List Nat) : Nat := l.foldr (fun x v => x + v <<< w) 0

/-- The four codewords of a group (R47, R49), under a scrambler state: header, control words and data cells; the rest of the
40 flits is fill. -/
def encodeGroup (scr : Nat) (hdr : Word) (words : List LinkWord) (cells : List Cell64) : List Nat × Nat :=
  let flits := joinBits 128 (words.map (·.toNat)) + joinBits 512 (cells.map (·.toNat)) <<< (128 * words.length)
  let part (k : Nat) : Nat := fld hdr (8 * k) 8 + bitsN flits (5120 * k) 5120 <<< 8
  let r := scramble 526 (joinBits cwLen ((List.range 4).map part)) scr
  let d := r.1 % 2 ^ (4 * cwLen)
  ((List.range 4).map (fun k => rsEncode (markOf k + bitsN d (cwLen * k) cwLen <<< 12)), scrTail scr d (4 * cwLen))

/-- A group as it leaves the decoder (R47 to R51): whether the marks are right, how many codewords were corrected and how many
could not be, the symbols corrected on each lane of those that carry the group, the header, all 160 words of its flits and
all 40 flits. -/
structure Group where
  marks     : Bool
  corrected : Nat
  uncorr    : Nat
  symCorr   : List Nat
  hdr       : Word
  words     : List LinkWord
  cells     : List Cell64
  deriving DecidableEq, Repr

/-- Lane that carries symbol `j` of codeword `k` over a set of lanes (R48). -/
def laneOf (mask : BitVec 4) (k j : Nat) : Nat :=
  let on := (List.range 4).filter (fun i => mask.getLsbD i)
  on.getD ((4 * j + k) % max 1 on.length) 0

/-- Decodes a group of codewords as received over a set of lanes (R47 to R49), and the descrambler's next state. -/
def decodeGroup (mask : BitVec 4) (scr : Nat) (line : List Nat) : Group × Nat :=
  let got := (List.range 4).map (fun k => rsDecode (line.getD k 0 % 2 ^ 5440))
  let data := (List.range 4).map (fun k => match got.getD k none with
    | some x => x.1
    | none => line.getD k 0)
  let bad := (got.filter (·.isNone)).length
  let errs := (List.range 4).flatMap (fun k => match got.getD k none with
    | some x => x.2.map (laneOf mask k)
    | none => [])
  let d := joinBits cwLen (data.map (fun c => bitsN c 12 cwLen))
  let parts := split cwLen 4 (descramble scr d (4 * cwLen))
  let flits := joinBits 5120 (parts.map (· >>> 8))
  ({ marks := (List.range 4).all (fun k => bitsN (data.getD k 0) 0 12 == markOf k)
     corrected := (got.filter (fun x => match x with | some y => y.2 != [] | none => false)).length
     uncorr := bad
     symCorr := (List.range 4).map (fun i => errs.count i)
     hdr := w32 (joinBits 8 (parts.map (· % 256)))
     words := (split 128 160 flits).map (BitVec.ofNat 128)
     cells := (split 512 40 flits).map (BitVec.ofNat 512) }, scrTail scr d (4 * cwLen))

/-- All four codewords decode (R51). -/
def Group.decoded (g : Group) : Bool := g.uncorr == 0
/-- The group counts as good for group lock (R50). -/
def Group.good (g : Group) : Bool := g.decoded && g.marks

end Sys2Proof.Machine
end

