-- ==== Sys2Proof/Machine/Regs.lean ====
section
/-! DEFINITION. Where router-space registers lie, what an RWS register resets to and which of its bits are
fields (R87, R118, R148, R149, R150, R174, R433, R473), and the ACTIVE value of one. -/

namespace Sys2Proof.Machine

def prtBase (n : Nat) : Nat := 0x01000000 + n * 0x10000
def bghBase (k : Nat) : Nat := 0x02000000 + k * 0x10000
def grvBase (g : Nat) : Nat := 0x02100000 + g * 0x100
def crnUnit (u : Nat) : Nat := 0x02240000 + u * 0x1000
def asdBase (o : Nat) : Nat := 0x04000000 + o * 0x40
def mtrBase (i k : Nat) : Nat := 0x04100000 + (2 * i + k) * 0x40
def shpBase (o : Nat) : Nat := 0x04200000 + o * 0x100

/-- The entry of a register in a block's list of (offset, reset value, field bits). -/
def regLook : List (Nat × Nat × Nat) → Nat → Option (Nat × Nat)
  | [], _ => none
  | (o, r, m) :: t, a => if o = a then some (r, m) else regLook t a

/-- RWS registers of the CNP_ block (R118, R150). -/
def cnpRws : List (Nat × Nat × Nat) :=
  [(0x100, 0x3FFFF, 0x3FFFF), (0x104, 0x02000840, 0x03FFFFFF), (0x108, 0x400, 0xFFFF),
   (0x110, 0, 0xFFFFFFFF), (0x114, 0, 0xFFFFFFFF),
   (0x118, 0x3FFFF, 0x3FFFF), (0x11C, 0x3FFFF, 0x3FFFF), (0x120, 0x3FFFF, 0x3FFFF), (0x124, 0x3FFFF, 0x3FFFF),
   (0x128, 0x4E20, 0xFFFFFF), (0x400, 0xA, 0x1FFFFF)]

/-- RWS registers of a PRT_ block (R87); RATE resets by the speed grade (R4). -/
def prtRws (g425 : Bool) : List (Nat × Nat × Nat) :=
  [(0, if g425 then 0x12 else 0x16, 0x3FF), (4, 0x64, 0x3FFF), (8, 0, 0xFFFF), (0xC, 0xA, 0xFFFF03FF),
   (0x10, 0x10000, 0xFFFFFFFF)]

/-- RWS registers of an ASD_, an MTR_ and an SHP_ entry (R174, R149, R148). -/
def asdRws : List (Nat × Nat × Nat) := [(0, 0, 0xFFFFFFFF), (4, 0, 0xFFFFFF)]
def mtrRws : List (Nat × Nat × Nat) :=
  [(0, 0, 0xFFFFFFFF), (4, 0, 0xFFFFFFFF), (8, 0, 0xFFFFFFFF), (0xC, 0, 0x7FFFFFF)]
def shpRws : List (Nat × Nat × Nat) := [(0, 0x140000, 0xFFFFFF), (4, 0x1111044, 0x3FFFFFFF)]

/-- Reset value and field bits of the RWS register at a router address, if one lies there. -/
def rwsInfo (g425 : Bool) (a : Nat) : Option (Nat × Nat) :=
  if a < 0x1000 then regLook cnpRws a
  else if 0x01000000 ≤ a ∧ a < 0x01400000 then regLook (prtRws g425) (a % 0x10000)
  else if 0x04000000 ≤ a ∧ a < asdBase 73 then regLook asdRws (a % 0x40)
  else if 0x04100000 ≤ a ∧ a < mtrBase 73 0 then regLook mtrRws (a % 0x40)
  else if 0x04200000 ≤ a ∧ a < shpBase 73 then regLook shpRws (a % 0x100)
  else if a = 0x05000000 then some (0, 7)
  else if a = 0x07000034 then some (0x17DC2, 0x3FFFF)
  else none

/-- Reset value of an RWS register. -/
def rwsReset (g425 : Bool) (a : Nat) : Word :=
  match rwsInfo g425 a with
  | some (r, _) => w32 r
  | none => 0

/-- The ACTIVE value of the RWS register at a router address. -/
def rws (s : State) (a : Nat) : Word := (Maps.find? s.stage.rws a).getD (rwsReset s.grade425 a)

/-- Field [lo+n-1:lo] of an ACTIVE RWS register. -/
def rwsF (s : State) (a lo n : Nat) : Nat := fld (rws s a) lo n

/-- Value of a BAR0 register, `d` where nothing has written it. -/
def barR (s : State) (k : Nat) (d : Nat) : Word := (Maps.find? s.hs.bar k).getD (w32 d)
def barSet (k : Nat) (v : Word) (s : State) : State := { s with hs.bar := Maps.insert k v s.hs.bar }

/-- ACTIVE_EPOCH: bit 0 of EPOCH_NUM (R118). -/
def activeEpoch (s : State) : Bool := s.stage.epoch.getLsbD 0
/-- CNP_NODE_EID. -/
def nodeEid (s : State) : Eid := BitVec.ofNat 18 (rwsF s 0x100 0 18)
/-- CNP_HOST_EID_n. -/
def hostEid (s : State) (n : Nat) : Eid := BitVec.ofNat 18 (rwsF s (0x118 + 4 * n) 0 18)

/-- A port's record, and its replacement. -/
def port (s : State) (n : Nat) : Port := Maps.get {} s.net.ports n
def setPort (n : Nat) (p : Port) (s : State) : State := { s with net.ports := Maps.put {} s.net.ports n p }
def updPort (n : Nat) (f : Port → Port) (s : State) : State := setPort n (f (port s n)) s
/-- A crossbar output's record. -/
def outp (s : State) (o : Nat) : Output := Maps.get {} s.net.outs o
def updOut (o : Nat) (f : Output → Output) (s : State) : State :=
  { s with net.outs := Maps.put {} s.net.outs o (f (outp s o)) }
/-- A host port's record. -/
def hport (s : State) (h : Nat) : HostPort := Maps.get {} s.hs.ports h
def updHost (h : Nat) (f : HostPort → HostPort) (s : State) : State :=
  { s with hs.ports := Maps.put {} s.hs.ports h (f (hport s h)) }
/-- A power domain's record (R412). -/
def domain (s : State) (d : Nat) : Domain := Maps.get {} s.pw.dom d
def updDom (d : Nat) (f : Domain → Domain) (s : State) : State :=
  { s with pw.dom := Maps.put {} s.pw.dom d (f (domain s d)) }

/-- R412's encoding of a domain state. -/
def PState.code : PState → Nat
  | .off => 0 | .retain => 1 | .gated => 2 | .on => 3
def PState.ofCode (n : Nat) : PState := if n = 0 then .off else if n = 1 then .retain else if n = 2 then .gated else .on

/-- The state that a domain counts as in use: the lower of its old and new ones (R456). -/
def domLow (s : State) (d : Nat) : Nat :=
  let x := domain s d
  match x.target with
  | none => x.st.code
  | some t => if x.held then x.st.code else min x.st.code t.code
/-- The state that a domain counts as in dependence on others: the higher (R456). -/
def domHigh (s : State) (d : Nat) : Nat :=
  let x := domain s d
  match x.target with
  | none => x.st.code
  | some t => if x.held then x.st.code else max x.st.code t.code
/-- A domain is ON. -/
def domOn (s : State) (d : Nat) : Bool := domLow s d == 3

def dPort (n : Nat) : Nat := n
def dBough (k : Nat) : Nat := 64 + k
def dHost (h : Nat) : Nat := 80 + h
/-- Engine domain `e` (0 MATCH, 1 XPORT, 2 XLATE, 3 QUEUE) of Bole `b`. -/
def dEng (b e : Nat) : Nat := 84 + 4 * b + e
def dMem (b : Nat) : Nat := 92 + b
def dHbm : Nat := 94

/-- The domain whose OFF to ON transition resets the register of a key (R461, R462); none: power-on reset only. -/
def keyDomain (k : Nat) : Option Nat :=
  let idx (o : Nat) : Option Nat := if o < 64 then some o else none
  if k < 2 ^ 40 then
    if 0x01000000 ≤ k ∧ k < 0x01400000 then some (dPort ((k - 0x01000000) / 0x10000))
    else if 0x02000000 ≤ k ∧ k < 0x02100000 then some (dBough ((k - 0x02000000) / 0x10000))
    else if 0x04000000 ≤ k ∧ k < 0x04100000 then idx ((k - 0x04000000) / 0x40)
    else if 0x04100000 ≤ k ∧ k < 0x04200000 then idx ((k - 0x04100000) / 0x80)
    else if 0x04200000 ≤ k ∧ k < 0x04300000 then idx ((k - 0x04200000) / 0x100)
    else none
  else if k < 2 ^ 44 then
    let h := (k - 2 ^ 40) / 2 ^ 32
    match (k % 2 ^ 24) / 0x10000 with
    | 1 => some (dEng (boleOf h) 3)
    | 2 => some (dEng (boleOf h) 1)
    | 3 => some (dEng (boleOf h) 0)
    | 4 => some (dEng (boleOf h) 2)
    | 5 => some (dEng (boleOf h) 1)
    | 8 => some (dHost h)
    | 9 => some (dHost h)
    | _ => none
  else if k < 2 ^ 45 then some (dMem ((k - 2 ^ 44) / 2 ^ 24))
  else none

/-- ECLK of a Bole runs: its PLL is locked (R459, R460). -/
def eclk (s : State) (b : Nat) : Bool := s.pw.pllLock.getLsbD b

/-- The domains of a Bole are all ON (R39). -/
def boleOn (s : State) (b : Nat) : Bool :=
  domOn s (dMem b) && (List.range 4).all (fun e => domOn s (dEng b e))

end Sys2Proof.Machine
end

