-- ==== Sys2Proof/Machine/Flags.lean ====
section
/-! DEFINITION. Flags and counters: cause bits, event records and their reactions (15), statistics counters
that saturate (R447), and the fence mask (R443, R444). -/

namespace Sys2Proof.Machine

/-! ### The fence mask -/

/-- Own bit of a unit. -/
def ownBit (s : State) (u : Nat) : Bool := s.ev.own.getLsbD u

/-- Units that contain a unit, itself first (R443). -/
def containers (u : Nat) : List Nat :=
  if u < 64 then [u, 64 + u / 4, 80 + u / 16]
  else if u < 80 then [u, 80 + (u - 64) / 4]
  else if u < 84 then [u]
  else if u < 88 then [u, u - 4]
  else if u < 92 then [u, 100 + (u - 88) / 2]
  else if u < 100 then [u, 100 + (u - 92) / 4]
  else [u]

/-- A unit is fenced when its own bit or that of a unit that contains it is set (R444). -/
def fenced (s : State) (u : Nat) : Bool := (containers u).any (ownBit s)

/-- The fenced set, as FLT_FENCED shows it. -/
def fencedSet (s : State) : BitVec 128 :=
  BitVec.ofNat 128 (sumN ((List.range 109).map (fun u => if fenced s u then 2 ^ u else 0)))

def uBough (k : Nat) : Nat := 64 + k
def uGrove (g : Nat) : Nat := 80 + g
def uCrown (g : Nat) : Nat := 84 + g
def uHost (h : Nat) : Nat := 88 + h
def uEng (b e : Nat) : Nat := 92 + 4 * b + e
def uBole (b : Nat) : Nat := 100 + b
def uHbm : Nat := 102
def uD2d (m : Nat) : Nat := 103 + m

/-- A unit number that R443 does not reserve. -/
def unitOk (u : Nat) : Bool := decide (u < 109)

/-! ### Sources -/

/-- A source that R437, R19, R395 or R435 marks reserved. -/
def reservedSrc (n : Nat) : Bool :=
  (158 ≤ n && n ≤ 159) || (162 ≤ n && n ≤ 175) || (202 ≤ n && n ≤ 223) || (226 ≤ n && n ≤ 239)
  || (266 ≤ n && n ≤ 287) || (308 ≤ n && n ≤ 311) || (314 ≤ n && n ≤ 319) || (333 ≤ n && n ≤ 335)
  || (350 ≤ n && n ≤ 351) || n == 371 || (378 ≤ n && n ≤ 383) || (476 ≤ n && n ≤ 479) || 512 ≤ n

/-- Position within its Bole of a Bole source (R437): an offset from 160 + 64b. -/
def boleIdx (n : Nat) : Nat := (n - 160) % 64

/-- Register that holds the cause bits of a source, and the bits that are the source's (R89, R120, R151, R175,
R177, R214, R238, R271, R298, R317, R351, R353, R376, R401, R435, R452). A source without one holds its
causes in its record (R436). -/
def causeReg (n : Nat) : Nat × Nat :=
  if n < 64 then (prtBase n + 0x180, 0x7F)
  else if n < 128 then (prtBase (n - 64) + 0x180, 0xF0000)
  else if n < 144 then (bghBase (n - 128) + 0x80, 3)
  else if n < 148 then (grvBase (n - 144) + 0x80, 3)
  else if n < 152 then (crnUnit (n - 148) + 0x80, 0xF)
  else if n < 156 then (0x180 + 4 * (n - 152), match n - 152 with | 0 => 0x1FDF | 1 => 3 | 2 => 0x1F | _ => 3)
  else if n < 158 then (0x190, 2 ^ (n - 156))
  else if 160 ≤ n ∧ n < 288 then
    let b := (n - 160) / 64
    let i := boleIdx n
    let hk (j off : Nat) : Nat := hostKey (2 * b + j) 0 off
    if i < 2 then (boleKey b 0x40, 2 ^ i)
    else if 16 ≤ i ∧ i < 20 then (hk ((i - 16) / 2) 0x10040, if i % 2 = 0 then 0xB else 4)
    else if 20 ≤ i ∧ i < 22 then (hk (i % 2) 0x30040, 0x24)
    else if 22 ≤ i ∧ i < 24 then (hk (i % 2) 0x30040, 0x5B)
    else if 24 ≤ i ∧ i < 26 then (hk (i % 2) 0x40040, 0xFF)
    else if 26 ≤ i ∧ i < 28 then (hk (i % 2) 0x20040, 0x7F)
    else if 28 ≤ i ∧ i < 30 then (hk (i % 2) 0x1C040, 0x3F)
    else if 30 ≤ i ∧ i < 32 then (hk (i % 2) 0x18004, 0x7F)
    else if 32 ≤ i ∧ i < 34 then (hk (i % 2) 0x1E040, 0xF)
    else if 34 ≤ i ∧ i < 36 then (boleKey b 0x70040, if i = 34 then 3 else 0xC)
    else if 36 ≤ i ∧ i < 38 then (boleKey b 0x69040, if i = 36 then 1 else 0x1E)
    else if 38 ≤ i ∧ i < 42 then (hk ((i - 38) / 2) 0x50040, if i % 2 = 0 then 0x1D else 2)
    else (recKey n, 1)
  else if 288 ≤ n ∧ n < 304 then
    (hostKey ((n - 288) / 4) 0 0x80004, match (n - 288) % 4 with | 0 => 0x3 | 1 => 0x4 | 2 => 0x8 | _ => 0x30)
  else if 304 ≤ n ∧ n < 308 then
    (0x09000180, match n - 304 with | 0 => 0x3 | 1 => 0x1C | 2 => 0x60 | _ => 0x180)
  else if n = 312 ∨ n = 313 then (recKey n, 3)
  else if 384 ≤ n ∧ n < 448 then (asdBase (n - 384) + 0xC, 0xF)
  else (recKey n, 1)

/-- Default severity of a cause bit of a source: 0 LOG, 1 NOTIFY, 2 FENCE, 3 CONTAIN (R437 and the chapters'
event rules). -/
def causeSev (n bit : Nat) : Nat :=
  if n < 64 then 1
  else if n < 144 then 0
  else if n < 148 then 2
  else if n < 152 then 1
  else if n = 153 ∨ n = 156 then 1
  else if n < 160 then 0
  else if n < 288 then
    let i := boleIdx n
    if i = 0 then 1
    else if i = 1 then 0
    else if i < 20 then (if i % 2 = 0 then 1 else 0)
    else if i < 22 then 1
    else if i < 24 then 0
    else if i < 26 then (if bit = 4 then 0 else 1)
    else if i < 28 then (if bit = 3 ∨ bit = 6 then 0 else 1)
    else if i < 30 then (if bit = 2 ∨ bit = 3 then 1 else 0)
    else if i < 32 then 0
    else if i < 34 then (if bit < 2 then 1 else 0)
    else if i = 34 ∨ i = 36 then 1
    else if i < 38 then 0
    else if i < 42 then (if i % 2 = 0 then 1 else 0)
    else 0
  else if n < 304 then (if (n - 288) % 4 = 1 then 0 else 1)
  else if n < 308 then (if n = 305 then 0 else 1)
  else if n = 312 then 3
  else if n = 313 then 1
  else if 320 ≤ n ∧ n < 336 then (if n = 327 ∨ n = 330 ∨ n = 331 then 0 else 1)
  else if n = 336 ∨ n = 344 ∨ n = 349 then 1
  else if n = 337 ∨ n = 339 ∨ n = 340 ∨ n = 343 then 3
  else if n = 338 ∨ n = 348 then 0
  else if 341 ≤ n ∧ n < 348 then 2
  else if 352 ≤ n ∧ n < 384 then 0
  else if 384 ≤ n ∧ n < 448 then 1
  else if 448 ≤ n ∧ n < 472 then (if (n - 448) % 4 < 2 then 0 else 2)
  else if n < 474 then 1
  else if n < 476 then 2
  else if 480 ≤ n then 1
  else 0

/-- The greatest of the default severities of a set of cause bits (R439). -/
def sevOf (n bits : Nat) : Nat :=
  (List.range 32).foldl (fun a b => if bits.testBit b then max a (causeSev n b) else a) 0

/-- SPLIT: the chapter gives a source's bits different default severities (R438). -/
def splitDef (n : Nat) : Bool :=
  let m := (causeReg n).2
  (List.range 32).any (fun b => m.testBit b && causeSev n b != sevOf n m)

/-- Unit that the FENCE and CONTAIN reactions of a source fence; 0x7F none (R437). DEDUCED for 472 and 473 (log 21). -/
def target (n : Nat) : Nat :=
  if n < 64 then n
  else if n < 128 then n - 64
  else if n < 144 then uBough (n - 128)
  else if n < 148 then uGrove (n - 144)
  else if n < 152 then uCrown (n - 148)
  else if n < 160 then 0x7F
  else if n < 288 then
    let b := (n - 160) / 64
    let i := boleIdx n
    if i < 16 then 0x7F
    else if i < 20 then uEng b 3
    else if i < 24 then uEng b 0
    else if i < 26 then uEng b 2
    else if i < 28 then uEng b 1
    else if i < 34 then uEng b 3
    else if i < 38 then 0x7F
    else if i < 42 then uEng b 1
    else 0x7F
  else if n < 304 then uHost ((n - 288) / 4)
  else if n = 341 ∨ n = 342 then uBole (n - 341)
  else if n = 345 ∨ n = 346 then uBole (n - 345)
  else if n = 347 then uHbm
  else if 384 ≤ n ∧ n < 448 then n - 384
  else if 448 ≤ n ∧ n < 472 then uD2d ((n - 448) / 4)
  else if 472 ≤ n ∧ n < 476 then uBole (n % 2)
  else if 480 ≤ n then uHbm
  else 0x7F

/-- FIXED: the sources that R441 restricts. -/
def fixedSrc (n : Nat) : Bool := n == 312 || n == 337 || (320 ≤ n && n < 328)

/-- A source's record at reset (R438). -/
def defaultRec (n : Nat) : EvRec :=
  { sev := sevOf n (causeReg n).2, split := splitDef n, route := if 160 ≤ n ∧ n < 304 then 1 else 0xA }

def recOf (s : State) (n : Nat) : EvRec := (Maps.get none s.ev.recs n).getD (defaultRec n)
def setRec (n : Nat) (r : EvRec) (s : State) : State := { s with ev.recs := Maps.put none s.ev.recs n (some r) }

/-- The cause register of a source, masked to the source's bits. -/
def causeOf (s : State) (n : Nat) : Nat :=
  let r := causeReg n
  (Maps.get 0 s.ev.cause r.1).toNat &&& r.2

/-- Saturation source that covers a counter (R447). -/
def satSrc (key : Nat) : Nat :=
  if key < 0x01000000 then 368
  else if key < 0x02000000 then 352 + (key - 0x01000000) / 0x40000
  else if key < 0x02100000 then 352 + (key - 0x02000000) / 0x10000
  else if key < 0x02200000 then 368
  else if key < 0x04000000 then 369
  else if key < 0x04100000 then (let o := (key - 0x04000000) / 0x40; if o < 64 then 352 + o / 4 else 368)
  else if key < 0x04200000 then (let i := (key - 0x04100000) / 0x80; if i < 64 then 352 + i / 4 else 368)
  else if key < 0x05000000 then (let o := (key - 0x04200000) / 0x100; if o < 64 then 352 + o / 4 else 368)
  else if key < 2 ^ 40 then 370
  else if key < 2 ^ 44 then 372 + (key - 2 ^ 40) / 2 ^ 32
  else 376 + (key - 2 ^ 44) / 2 ^ 24

/-- STATUS: a cause bit, or a SAT bit, of the source is set (R438). -/
def statusOf (s : State) (n : Nat) : Bool :=
  if 352 ≤ n ∧ n < 384 then s.ev.sat.any (fun k => satSrc k == n) else causeOf s n != 0

/-- Word 0 of a source's record (R438). -/
def recWord0 (s : State) (n : Nat) : Word :=
  let r := recOf s n
  pack [(0, 1, b2n (statusOf s n)), (1, 1, b2n r.mask), (2, 2, r.sev), (4, 4, r.route.toNat), (8, 1, b2n r.injected),
    (9, 1, b2n (fixedSrc n)), (10, 1, b2n r.split), (16, 7, target n)]

/-- The four words of a source's record. -/
def recWords (s : State) (n : Nat) : List Word :=
  if reservedSrc n then [recWord0 s n, 0, 0, 0]
  else [recWord0 s n, (recOf s n).raises] ++ w64 (recOf s n).last

/-! ### Saturation bits -/

/-- Keys of `n` counters from `k`. -/
def ctrKeys (k n : Nat) : List Nat := (List.range n).map (fun i => k + 8 * i)
/-- Counters of the ASD_, MTR_ and SHP_ blocks of outputs and inputs from `o`. -/
def xbarKeys (o n : Nat) : List Nat :=
  let os := (List.range n).map (o + ·)
  os.flatMap (fun o => ctrKeys (asdBase o + 0x18) 2)
    ++ os.flatMap (fun i => [0, 1].flatMap (fun k => ctrKeys (mtrBase i k + 0x10) 3))
    ++ os.flatMap (fun o => ctrKeys (shpBase o + 0x40) 11)

/-- The counters that a saturation source covers, in the order of its SAT bits (R447). -/
def satKeys (n : Nat) : List Nat :=
  if n < 352 then []
  else if n < 368 then
    let k := n - 352
    (List.range 4).flatMap (fun i => ctrKeys (prtBase (4 * k + i) + 0x200) 17) ++ ctrKeys (bghBase k + 0x100) 6
      ++ xbarKeys (4 * k) 4
  else if n = 368 then
    ctrKeys 0x200 17 ++ ctrKeys 0x300 4 ++ ctrKeys 0x340 2 ++ [0x360]
      ++ (List.range 4).flatMap (fun g => ctrKeys (grvBase g + 0x40) 2) ++ xbarKeys 64 9
  else if n = 369 then (List.range 4).flatMap (fun u => ctrKeys (crnUnit u + 0x100) 12)
  else if n = 370 then ctrKeys 0x05000100 4 ++ ctrKeys 0x08000100 9 ++ ctrKeys 0x09000200 12
  else if 372 ≤ n ∧ n < 376 then
    [(0x10100, 16), (0x18100, 11), (0x1C100, 11), (0x1E100, 7), (0x20100, 21), (0x30100, 15), (0x40100, 16), (0x50100, 7),
      (0x80100, 7)].flatMap (fun x => ctrKeys (hostKey (n - 372) 0 x.1) x.2)
  else if n = 376 ∨ n = 377 then
    [(0x100, 4), (0x69100, 10), (0x70800, 10)].flatMap (fun x => ctrKeys (boleKey (n - 376) x.1) x.2)
  else []

/-- 32 SAT bits of a source from bit `32 w`. -/
def satWord (s : State) (n w : Nat) : Word :=
  w32 (sumN ((List.range 32).map (fun i =>
    match (satKeys n)[32 * w + i]? with
    | some k => if s.ev.sat.contains k then 2 ^ i else 0
    | none => 0)))

/-- The cause register of a source, for an event and for EVENT_READ (R418, R442): all of it, where several sources share it; the
first SAT bits of a saturation source. -/
def causeRegister (s : State) (n : Nat) : Word :=
  if 352 ≤ n ∧ n < 384 then satWord s n 0 else Maps.get 0 s.ev.cause (causeReg n).1

/-! ### Outputs -/

def emit (o : Out) (s : State) : State := { s with out := o :: s.out }

/-- MSI-X Enable and Function Mask of a function (R208; PRESUMED: both reset to 0, as PCI Express gives them, log 22). -/
def msixCtl (s : State) (h fn : Nat) : Bool × Bool := Maps.get (false, false) (hport s h).msixCtl fn
/-- A vector of a function is masked: by Function Mask or its table entry (PRESUMED: the mask bit of a table entry resets to
1, as PCI Express gives it, log 22). -/
def msixMasked (s : State) (h fn vec : Nat) : Bool :=
  (msixCtl s h fn).2 || bitW (barR s (hostKey h fn (0x9000C + 16 * vec)) 1) 0

/-- Sends an MSI-X message of a host function, or holds it pending while its vector is masked; with MSI-X Enable 0 the function
sends none (R208). Port 4 is HM. -/
def fireMsix (h fn vec : Nat) (s : State) : State :=
  if h < 4 ∧ !(msixCtl s h fn).1 then s
  else if h < 4 ∧ msixMasked s h fn vec then
    { s with ev.msixPend := ((h * 256 + fn) * 2 ^ 11 + vec) :: s.ev.msixPend.filter (· ≠ (h * 256 + fn) * 2 ^ 11 + vec) }
  else emit (.msix h fn vec) s

/-! ### Crossings between a Bole and the Canopy (R16, R17) -/

/-- A die-to-die module's record. -/
def d2dOf (s : State) (m : Nat) : D2d := Maps.get {} s.net.d2d m
def updD2d (m : Nat) (f : D2d → D2d) (s : State) : State := { s with net.d2d := Maps.put {} s.net.d2d m (f (d2dOf s m)) }
/-- A die-to-die module that carries traffic (R16): it has trained, has not gone down since, and is not fenced. -/
def d2dOk (s : State) (m : Nat) : Bool := (d2dOf s m).up && !fenced s (uD2d m)

/-- Ordering identifier of a packet at a Bole's N port: its channel (R16; log 20). -/
def identNet (h : Nat) (p : Packet) : Nat := h * 2 ^ 24 + p.chan.toNat
/-- Ordering identifier of a host port's transaction: the requester ID with its traffic class (R16; log 20). -/
def identHost (h req tc : Nat) : Nat := 2 ^ 26 + (h * 2 ^ 16 + req % 2 ^ 16) * 8 + tc % 8

/-- pick_module of R16: none when no module is left. -/
def pickModule (s : State) (b ident : Nat) : Option Nat :=
  let up := ((List.range 3).map (fun m => 3 * b + m)).filter (d2dOk s)
  up[hash16 (leBytes 4 ident) % up.length]?

/-- New traffic of an identifier waits: its crossings on a fenced module are not over (R17). -/
def identMoving (s : State) (b ident : Nat) : Bool :=
  (List.range 3).any (fun m => (Maps.get [] s.cross.moving (3 * b + m)).contains ident)

/-- One crossing of an identifier (R16, R17): `run` is what it does when it goes out on its module. -/
def crossD2d (b ident : Nat) (c : Crossing) (run : State → State) (s : State) : State :=
  if identMoving s b ident then { s with cross.held := s.cross.held ++ [(b, ident, c)] }
  else match pickModule s b ident with
    | none => s
    | some m => run (emit (.cross m ident)
        { s with cross.carried := Maps.upd [] s.cross.carried m (fun l => if l.contains ident then l else l ++ [ident]) })

/-- What the controller sends to a host: through a host port it crosses a die-to-die module. -/
def toHost (i : Nat) (c : Crossing) (run : State → State) (s : State) : State :=
  if i < 4 then crossD2d (boleOf i) (identHost i 0 0) c run s else run s
/-! ### Statistics counters -/

/-- Adds to a counter; it stops at 2^64 - 1. The flag says that the SAT bit has just been set (R447). -/
def bump (key n : Nat) (s : State) : State × Bool :=
  let v := (Maps.get 0 s.ev.ctr key).toNat + n
  if v < 2 ^ 64 then ({ s with ev.ctr := Maps.put 0 s.ev.ctr key (BitVec.ofNat 64 v) }, false)
  else
    let s' := { s with ev.ctr := Maps.put 0 s.ev.ctr key (BitVec.ofNat 64 (2 ^ 64 - 1)) }
    if s.ev.sat.contains key then (s', false) else ({ s' with ev.sat := s.ev.sat ++ [key] }, true)

/-- Sets cause bits of a source; the number is the set of bits that were clear (R436). -/
def markCause (n bits : Nat) (s : State) : State × Nat :=
  let r := causeReg n
  let old := (Maps.get 0 s.ev.cause r.1).toNat
  let new := (bits &&& r.2) &&& ((2 ^ 32 - 1) ^^^ old)
  ({ s with ev.cause := Maps.put 0 s.ev.cause r.1 (w32 (old ||| (bits &&& r.2))) }, new)

/-! ### Raising a source -/

/-- The host ports whose PF a raise with the HOST bit reaches (R440). -/
def hostsOf (s : State) (n : Nat) : List Nat :=
  if 160 ≤ n ∧ n < 288 then
    let b := (n - 160) / 64
    let i := boleIdx n
    if 16 ≤ i ∧ i < 20 then [2 * b + (i - 16) / 2]
    else if 20 ≤ i ∧ i < 34 then [2 * b + i % 2]
    else if 38 ≤ i ∧ i < 42 then [2 * b + (i - 38) / 2]
    else [2 * b, 2 * b + 1]
  else if 288 ≤ n ∧ n < 304 then [(n - 288) / 4]
  else (List.range 4).filter (fun h => (hport s h).st = .up)

/-- A network port is UP. -/
def anyUp (s : State) : Bool := (List.range 64).any (fun n => (port s n).st = .up)

/-- The 16 words of an event record (R418). -/
def eventWords (s : State) (n sev : Nat) : List Word :=
  padW 16 ([pack [(0, 9, n), (9, 3, sev)]] ++ w64 s.time.now ++ [causeRegister s n, w32 (nodeEid s).toNat])

/-- Sets cause bits of a source, and `again` raises it when some were clear (R436). -/
def raiseBy (again : Nat → Nat → State → State) (n bits : Nat) (s : State) : State :=
  let x := markCause n bits s
  if x.2 = 0 then x.1 else again n x.2 x.1

/-- One more on a counter; `again` raises its saturation source when it saturates (R447). -/
def countBy (again : Nat → Nat → State → State) (key n : Nat) (s : State) : State :=
  let x := bump key n s
  if x.2 then again (satSrc key) 0 x.1 else x.1

/-- A packet of the controller: GCP_REPLY 0x51 or GCP_EVENT 0x52, with its header, MGT extension and E2E_CRC, handed to the
crossbar at port M (R379, R416). Its REPLY_EID names nobody (DESIGN CHOICE, log 140). -/
def mgtPkt (s : State) (dest : Eid) (ptype : Byte) (seq : BitVec 16) (words data : List Word) : Packet :=
  sealPkt { dest := dest, src := nodeEid s, cls := 3, lenCells := 0, ptype := ptype, extMask := 0x40,
            flowHash := flowHashOf (nodeEid s) 0, ext := [w32 seq.toNat, w32 eidNone.toNat, 0, 0],
            payload := wBytes (padW 16 words ++ data) }

/-- Sends a packet of the controller through port M. -/
def sendMgt (dest : Eid) (ptype : Byte) (seq : BitVec 16) (words data : List Word) (s : State) : State :=
  emit (.inject 68 (mgtPkt s dest ptype seq words data)) s

/-- The event of a raise, sent or given up (R418, R440). -/
def sendEvent (again : Nat → Nat → State → State) (n sev : Nat) (s : State) : State :=
  if s.mgmt.eventEid = eidNone ∨ !anyUp s then raiseBy again 307 0x100 (countBy again 0x09000258 1 s)
  else
    let w := eventWords s n sev
    countBy again 0x09000250 1 (sendMgt s.mgmt.eventEid 0x52 s.mgmt.eseq w []
      { s with mgmt.eseq := s.mgmt.eseq + 1, mgmt.repeats := s.mgmt.repeats ++ [(s.mgmt.eseq, w)] })

/-- Interrupts the PF of a host port for a source (R440): one that the Bole or the host port raises does so on its own die, and
any other crosses a die-to-die module (R16, R17; DESIGN CHOICE, log 124). -/
def eventMsix (n h : Nat) (s : State) : State :=
  if 160 ≤ n ∧ n < 304 then fireMsix h 0 0 s else toHost h (.msix h 0 0) (fireMsix h 0 0) s

/-- The routes of a raise (R440): PFs, HM, the I3C controller, the event destination. -/
def routeRaise (again : Nat → Nat → State → State) (route : BitVec 4) (n sev : Nat) (s : State) : State :=
  let s := if route.getLsbD 0 then (hostsOf s n).foldl (fun s h => eventMsix n h s) s else s
  let s := if route.getLsbD 1 then fireMsix 4 0 8 s else s
  let s := if route.getLsbD 2 then emit (.ibi 0xE1) s else s
  if route.getLsbD 3 ∨ sev = 3 then sendEvent again n sev s else s

/-- The level of ALIVE: it toggles at 1 kHz (R448; DESIGN CHOICE: its first edge comes half a period after it starts, and its
half periods are counted in fabric time, log 142). -/
def aliveLevel (s : State) : Bool :=
  if s.ev.alive then s.ev.aliveHigh != ((s.time.now - s.ev.aliveAt) / 500000 % 2 == 1) else s.ev.aliveHigh
/-- ALIVE stops at its last level. -/
def stopAlive (s : State) : State := { s with ev := { s.ev with alive := false, aliveHigh := aliveLevel s } }
/-- ALIVE toggles, from its present level on. -/
def startAlive (s : State) : State :=
  if s.ev.alive then s else { s with ev := { s.ev with alive := true, aliveAt := s.time.now } }

/-- FENCE and CONTAIN (R439): FAULT_N, the own bit of the unit, and for CONTAIN the halt of ALIVE. -/
def fenceBy (again : Nat → Nat → State → State) (n sev : Nat) (s : State) : State :=
  let t := target n
  let s := { s with ev.faultLow := true, ev.faultAt := s.time.now }
  let s := if t = 0x7F then s else raiseBy again 157 2 { s with ev.own := s.ev.own ||| BitVec.ofNat 128 (2 ^ t) }
  if sev = 3 then stopAlive { s with ev.stopped := n :: s.ev.stopped.filter (· ≠ n) } else s

/-- The record of a raise (R436). -/
def recordRaise (inj : Bool) (n : Nat) (s : State) : State :=
  let r := recOf s n
  setRec n { r with raises := if r.raises = BitVec.allOnes 32 then r.raises else r.raises + 1,
                    last := s.time.now, injected := inj } s

/-- The severity of a raise by newly set bits (R439). -/
def raiseSev (s : State) (n bits : Nat) : Nat := if (recOf s n).split then sevOf n bits else (recOf s n).sev

/-- The reaction to a raise of source `n` by newly set bits (R439, R440): nothing more than its record while it is masked
or of severity LOG. -/
def reactBy (again : Nat → Nat → State → State) (inj : Bool) (n bits : Nat) (s : State) : State :=
  let sev := raiseSev s n bits
  let r := recOf s n
  let s := recordRaise inj n s
  if r.mask ∨ sev = 0 then s else
  let s := if s.pw.stopped then s else routeRaise again r.route n sev s
  if sev < 2 then s else fenceBy again n sev s

/-- The reaction with what it raises in turn: source 157, EVENT_UNSENT, a saturated counter. The fuel bounds that chain. -/
def react : Nat → Bool → Nat → Nat → State → State
  | 0, _, _, _, s => s
  | fuel + 1, inj, n, bits, s => reactBy (react fuel false) inj n bits s

/-- Raises a source with cause bits: only bits that were clear raise it (R436). -/
def raise (n bits : Nat) (s : State) : State := raiseBy (react 4 false) n bits s

/-- Adds `n` to a statistics counter, raising its saturation source when it saturates (R447). -/
def count (key n : Nat) (s : State) : State := countBy (react 4 false) key n s

/-- One more on a counter. -/
def inc (key : Nat) (s : State) : State := count key 1 s

/-! ### Errors of the SRAM arrays (R25) -/

/-- The arrays whose words carry marks by index: the replica of Bough k (by bank and entry) and its detour table, the lookahead
table, the scratch memory of Bole b (by 8-byte word), the cached region descriptors (by host port and index, R227), and the
replay buffer of port n (by CSN); of a host port h, the transaction table and the staging of fetched entries and of completions
(by job; the notices have one index) and the parking buffer (by channel and PSN); the telemetry records (by 4o + c) and congestion
map entries (by port); and the controller's memory (by command). -/
def eccRep (k : Nat) : Nat := k
def eccDt (k : Nat) : Nat := 32 + k
def eccLa : Nat := 64
def eccScr (b : Nat) : Nat := 128 + b
def eccMr : Nat := 136
def eccReplay (n : Nat) : Nat := 256 + n
def eccTx (h : Nat) : Nat := 512 + h
def eccStage (h : Nat) : Nat := 520 + h
def eccComp (h : Nat) : Nat := 528 + h
def eccPark (h : Nat) : Nat := 536 + h
def eccTel : Nat := 544
def eccMap : Nat := 545
def eccMem : Nat := 546
/-- Arrays of a Bole's engine memory that lie in one of the ranges by host port. -/
def eccOfBole (b k : Nat) : Bool := decide (512 ≤ k ∧ k < 540) && decide (k % 8 / 2 = b)

/-- An uncorrectable error in a word. -/
def struck (s : State) (kind i : Nat) : Bool := s.ev.ecc.contains (kind, i)
/-- A read of a word counts the error that the code corrects in it. -/
def eccRead (ctr kind i : Nat) (s : State) : State := if s.ev.corr.contains (kind, i) then inc ctr s else s
/-- Words that `p` picks are written: their errors are gone. -/
def eccWrite (p : Nat × Nat → Bool) (s : State) : State :=
  if s.ev.ecc = [] ∧ s.ev.corr = [] then s
  else { s with ev := { s.ev with ecc := s.ev.ecc.filter (fun x => !p x), corr := s.ev.corr.filter (fun x => !p x) } }
/-- A read of a record of a Bole's array whose block has no counter of its own counts a corrected error (R454). -/
def eccMeet (b : Nat) (e : Ecc) (s : State) : State := if e = .corr then inc (boleKey b 0x108) s else s

/-- A read of a word of a Bole's array for which no other block raises a source (R25, R437): false where an uncorrectable error keeps
it, which is counted and raises DIE_ECC. -/
def meetDie (b kind i : Nat) (s : State) : State × Bool :=
  if struck s kind i then (raise (160 + 64 * b) 1 (inc (boleKey b 0x110) s), false)
  else (eccRead (boleKey b 0x108) kind i s, true)

/-- Runs a command's effect unless the clocks that it needs have stopped (R460, R465). -/
def clocked (f : State → State) (s : State) : State := if s.pw.stopped then s else f s

end Sys2Proof.Machine
end

