-- ==== Sys2Proof/Machine/Bus.lean ====
section
/-! DEFINITION. A host port as a requester on its link: ordering attributes (R178, R180), the 4,096 non-posted requests that
it may have outstanding (R40), and the writes that an atomic on host memory must not miss (R257). -/

namespace Sys2Proof.Machine

/-! ### The objects whose reads share a port's requests -/

def wqOf (s : State) (h q : Nat) : Wq := Maps.get {} s.hs.wqs (objKey 20 h q)
def setWq (h q : Nat) (w : Wq) (s : State) : State := { s with hs.wqs := Maps.put {} s.hs.wqs (objKey 20 h q) w }
def updWq (h q : Nat) (f : Wq → Wq) (s : State) : State := setWq h q (f (wqOf s h q)) s
/-- A channel's context (R240). -/
def chanOf (s : State) (h c : Nat) : Chan := Maps.get {} s.hs.chans (objKey 24 h c)
def setChan (h c : Nat) (x : Chan) (s : State) : State := { s with hs.chans := Maps.put {} s.hs.chans (objKey 24 h c) x }
def updChan (h c : Nat) (f : Chan → Chan) (s : State) : State := setChan h c (f (chanOf s h c)) s
def xl (s : State) (b : Nat) : Xlate := Maps.get {} s.hs.xl b
def updXl (b : Nat) (f : Xlate → Xlate) (s : State) : State := { s with hs.xl := Maps.put {} s.hs.xl b (f (xl s b)) }
/-- The compare-and-swaps that a host port has outstanding (R224). -/
def casOf (s : State) (h : Nat) : List CasOut := (xl s (boleOf h)).cas.filter (fun c => c.ctx / 2 ^ 14 == h)

/-! ### Attributes (R178, R180) -/

/-- Enable Relaxed Ordering and IDO Request Enable of a function (PRESUMED: they reset to 1 and 0, as PCI Express gives them,
log 128). -/
def devCtl (s : State) (h fn : Nat) : Bool × Bool := Maps.get (true, false) (hport s h).devCtl fn
/-- A posted write of a function: relaxed ordering only where it carries `payload` that may be reordered (R180, R255). -/
def outWrite (s : State) (h fn addr : Nat) (bytes : List Byte) (payload : Bool) : Out :=
  .hostWrite h fn addr bytes (payload && (devCtl s h fn).1) (devCtl s h fn).2
/-- A read of host memory under a function's requester ID. -/
def outRead (s : State) (h fn addr len : Nat) : Out := .hostRead h fn addr len (devCtl s h fn).2

/-! ### Non-posted requests (R40) -/

/-- A need that a read of host memory is out for. -/
def Need.reads : Need → Bool
  | .read _ _ _ _ => true
  | .walk _ _ _ _ _ _ _ _ _ => true
  | .data _ _ _ _ _ _ _ _ _ => true
  | .cas _ _ => false
  | .page _ _ _ => false
  | .turn _ _ => false
  | .walker _ => false
  | .slot _ _ => false
  | .issue _ => false

/-- What a held request is for still stands. -/
def dmaAlive (s : State) (h : Nat) : DmaKey → Bool
  | .wait i => (hport s h).waits.any (fun w => w.id == i && w.need.reads)
  | .cas a => (casOf s h).any (fun c => c.addr == a)
  | .queue q => (wqOf s h q).reads != 0
  | .chan c => (chanOf s h c).fetching
  | .slot fn k => (hport s h).firing.any (fun f => f.fn == fn && f.slot == k && f.asked && f.got.isNone)

/-- Non-posted requests of a port that are sent, or held until one of the 4,096 is free. -/
def dmaWork (s : State) (h : Nat) : Nat :=
  let p := hport s h
  (p.waits.filter (fun w => w.need.reads)).length + (casOf s h).length
    + sumN (s.hs.wqs.map (fun e => if e.1 / 2 ^ 20 = h then e.2.reads else 0))
    + (s.hs.chans.filter (fun e => e.1 / 2 ^ 24 == h && e.2.fetching)).length
    + (p.firing.filter (fun f => f.asked && f.got.isNone)).length + b2n (Maps.get {} s.mgmt.rings h).reading

/-- Non-posted requests outstanding on a port's link. -/
def dmaOut (s : State) (h : Nat) : Nat := dmaWork s h - ((hport s h).dmaq.filter (fun x => dmaAlive s h x.1)).length

/-- Sends a non-posted request whose owner has been recorded, or holds it until one of the 4,096 is free (R40). -/
def askDma (h : Nat) (k : DmaKey) (o : Out) (s : State) : State :=
  if (hport s h).dmaq = [] ∧ dmaOut s h ≤ 4096 then emit o s
  else updHost h (fun p => { p with dmaq := p.dmaq ++ [(k, o)] }) s

/-- A request of this owner is still held: nothing can have answered it. -/
def dmaHeld (s : State) (h : Nat) (k : DmaKey) : Bool := (hport s h).dmaq.any (fun x => x.1 == k)

/-- A port has held requests to send, or to forget. -/
def dmaDue (s : State) (h : Nat) : Bool :=
  (hport s h).dmaq != [] && (decide (dmaOut s h < 4096) || (hport s h).dmaq.any (fun x => !dmaAlive s h x.1))

/-- Sends held requests, oldest first, while one of the 4,096 is free. -/
def dmaDrain (h : Nat) (s : State) : State :=
  let live := (hport s h).dmaq.filter (fun x => dmaAlive s h x.1)
  let n := 4096 - dmaOut s h
  (live.take n).foldl (fun s x => emit x.2 s) (updHost h (fun p => { p with dmaq := live.drop n }) s)

/-! ### Writes of host memory -/

/-- An atomic whose read of these bytes is outstanding reads them again (R257; DESIGN CHOICE, log 129). -/
def rereadAtom (h a n : Nat) (w : Wait) (s : State) : State :=
  match w.need with
  | .data fn x l _ _ true _ _ _ =>
    if x < a + n ∧ a < x + l then
      let i := (hport s h).nextWait
      let s := updHost h (fun p => { p with
        nextWait := i + 1, waits := p.waits.map (fun y => if y.id = w.id then { y with id := i } else y)
        dmaq := p.dmaq.filter (fun y => y.1 != .wait w.id) }) s
      askDma h (.wait i) (outRead s h fn x l) s
    else s
  | _ => s

/-- The bytes of host memory that a Bole writes have been sent: atomics in progress on them start afresh (R257). -/
def touchAtoms (b a n : Nat) (s : State) : State :=
  [2 * b, 2 * b + 1].foldl (fun s h => (hport s h).waits.foldl (fun s w => rereadAtom h a n w s) s) s

/-- Sends an output; what is written to host memory is seen by the atomics in progress. -/
def emitOut (o : Out) (s : State) : State :=
  match o with
  | .hostWrite h _ a bs _ _ => touchAtoms (boleOf h) a bs.length (emit o s)
  | _ => emit o s

/-- A write of host memory by a function of a host port. -/
def hostWr (h fn addr : Nat) (bytes : List Byte) (payload : Bool) (s : State) : State :=
  emitOut (outWrite s h fn addr bytes payload) s

end Sys2Proof.Machine
end

