-- ==== Sys2Proof/Machine/Ops.lean ====
section
/-! DEFINITION. Operations that every family of commands shares: usability of units, GCP replies and the list
of commands in execution, and packets handed to the crossbar. -/

namespace Sys2Proof.Machine

/-- The HBM interface serves: PD_HBM is ON and it is not fenced (R27). -/
def hbmOk (s : State) : Bool := domOn s dHbm && !fenced s uHbm

/-- A Bole has a module left to the Canopy (R16, R18). -/
def boleLinked (s : State) (b : Nat) : Bool := (List.range 3).any (fun m => d2dOk s (3 * b + m))
/-- A Bole and the Canopy reach each other: its domains are ON, ECLK runs, it is not fenced and a module is left (R3, R18,
R460). -/
def boleOk (s : State) (b : Nat) : Bool := boleOn s b && eclk s b && !fenced s (uBole b) && boleLinked s b

/-- A fence covers a host port, its Bole, or an engine that serves it (R444). -/
def hostFenced (s : State) (h : Nat) : Bool :=
  fenced s (uHost h) || (List.range 4).any (fun e => fenced s (uEng (boleOf h) e))

/-- Port N`h` is usable (03, R444). -/
def nUsable (s : State) (h : Nat) : Bool := boleOk s (boleOf h) && !hostFenced s h

/-- A host port's queues can work: its domain and its Bole's are ON, ECLK runs and no fence covers it or an engine (R444,
R460). -/
def hostUsable (s : State) (h : Nat) : Bool :=
  domOn s (dHost h) && boleOn s (boleOf h) && eclk s (boleOf h) && !fenced s (uHost h)
    && (List.range 4).all (fun e => !fenced s (uEng (boleOf h) e))

/-- An output of the controller to a host. -/
def emitHost (i : Nat) (o : Out) (s : State) : State := toHost i (.emit o) (emitOut o) s

/-! ### Replies of the controller -/

/-- GCP status codes (R409). -/
def stOk : Nat := 0
def stPending : Nat := 1
def stBadOpcode : Nat := 0x10
def stBadParam : Nat := 0x11
def stNotPermitted : Nat := 0x12
def stBusy : Nat := 0x13
def stSuperseded : Nat := 0x14
def stTimedOut : Nat := 0x15
def stCheckFailed : Nat := 0x20
def stStageEmpty : Nat := 0x21
def stEpochPassed : Nat := 0x22
def stUnitFenced : Nat := 0x30
def stAuthFailed : Nat := 0x40

/-- Counters of the MGC_ block (R434). -/
def mgcCtr (i : Nat) : Nat := 0x09000200 + 8 * i
/-- Number of the ring of a transport: H0 to H3, and 4 for HM. -/
def ringNo : Via → Option Nat
  | .host h => some h
  | .hm => some 4
  | .i3c => none
  | .inband => none
def ring (s : State) (i : Nat) : Ring := Maps.get {} s.mgmt.rings i
def updRing (i : Nat) (f : Ring → Ring) (s : State) : State :=
  { s with mgmt.rings := Maps.put {} s.mgmt.rings i (f (ring s i)) }

/-- LOG_SIZE of a ring register: 4 to 12, other values taken as 4 (R414). -/
def ringLog (n : Nat) : Nat := if 4 ≤ n ∧ n ≤ 12 then n else 4

/-- PHASE of a ring entry at an index (R186, R414). -/
def phaseOf (log : Nat) (index : Word) : Nat := (bitsN index.toNat log 1) ^^^ 1

/-- RING_ERR: a counter that it covers has advanced (R434). -/
def ringErr (i : Nat) (s : State) : State := raise 305 0x10 (inc (mgcCtr i) s)

/-- The reply ring is full (R414). -/
def ringFull (r : Ring) : Bool := (r.written - r.rplHead).toNat == 2 ^ ringLog r.rplLog

/-- Writes a reply into a ring's next slot, with its PHASE and its interrupt (R414). -/
def ringWrite (i : Nat) (ws : List Word) (s : State) : State :=
  let r := ring s i
  let lg := ringLog r.rplLog
  let w1 := (wAt ws 1 &&& 0x7FFFFFFF) ||| pack [(31, 1, phaseOf lg r.written)]
  let a := r.rplBaseHi.toNat * 2 ^ 32 + r.rplBaseLo.toNat + 64 * (r.written.toNat % 2 ^ lg)
  let s := emitHost i (outWrite s i 0 a (wBytes (ws.set 1 w1)) false) s
  let s := if r.intrEn then toHost i (.msix i 0 r.vec) (fireMsix i 0 r.vec) s else s
  updRing i (fun r => { r with written := r.written + 1 }) s

/-- The words of the request that a reply answers: of one carried in a secured session, its SPDM_MSG's (R413). -/
def carrier (r : GcpReq) : List Word := if r.secured then r.outer else r.words

/-- Sends one reply by a request's transport (R403, R413 to R416). -/
def sendReply (r : GcpReq) (ws data : List Word) (s : State) : State :=
  let s := match ringNo r.via with
    | some i =>
      let s := if data = [] then s else emitHost i (outWrite s i 0 (u64 (carrier r) 3) (wBytes data) true) s
      if !(ring s i).rplEn then ringErr 9 s
      else if ringFull (ring s i) ∨ (ring s i).waiting ≠ [] then updRing i (fun g => { g with waiting := g.waiting ++ [ws] }) s
      else ringWrite i ws s
    | none =>
      match r.via with
      | .i3c => emit (.ibi 0xA5) { s with mgmt.i3cRpls := s.mgmt.i3cRpls ++ [ws] }
      | _ => sendMgt (if r.replyEid = eidNone then r.srcEid else r.replyEid) 0x51 r.mseq ws data s
  emit (.reply r.via r.srcEid ws data) s

/-- The 16 words of a reply (R406): status, meaningful bytes, details, results. -/
def replyWords (w0 : Word) (st rlen : Nat) (d1 d2 : Nat) (res : List Word) : List Word :=
  [w0, pack [(0, 16, st), (16, 8, rlen)], w32 d1, w32 d2] ++ padW 12 res

/-- The reply to an SPDM_MSG whose result data is the secured response with these application data (R413): outside the reply
with INDIRECT, else as much as RESULT holds (R407). -/
def outerReply (r : GcpReq) (app : List Word) : List Word × List Word :=
  if bAt r.outer 1 0 then (replyWords (wAt r.outer 0) stOk 0 0 0 [], app)
  else (replyWords (wAt r.outer 0) stOk (min 48 (4 * app.length)) 0 0 app, [])

/-- What leaves for a reply: the reply itself, or for a request carried in a secured session its SPDM_MSG's reply, with the
reply as the application data of the secured response (R413). Read data of a ring's INDIRECT request go to its own address. -/
def wrapReply (r : GcpReq) (ws data : List Word) (s : State) : (List Word × List Word) × State :=
  if !r.secured then ((ws, data), s)
  else match ringNo r.via with
    | some i => (outerReply r ws, if data = [] then s else emitHost i (outWrite s i 0 (u64 r.words 3) (wBytes data) true) s)
    | none => (outerReply r (ws ++ data), s)

/-- The final reply to a request, with its counters and, in-band, the copy kept for a repeated MSEQ (R408, R417, R434).
A command carried in a secured session is answered inside the result of its SPDM_MSG, whose reply is OK (R413). Read
data of a request without INDIRECT come back in the result (R407). -/
def finish (r : GcpReq) (st : Nat) (d1 d2 : Nat) (res data : List Word) (s : State) : State :=
  let indirect := bAt r.words 1 0
  let res' := if indirect ∨ data = [] then res else data
  let out := if indirect then data else []
  let ws := replyWords (wAt r.words 0) st (min 48 (4 * res'.length)) d1 d2 res'
  let s := inc (mgcCtr 0) s
  let s := if st = stOk then s else inc (mgcCtr 1) s
  let x := wrapReply r ws out s
  let (ws, out) := x.1
  let s := x.2
  let s := { s with mgmt.mseqs := s.mgmt.mseqs.map (fun e =>
    if r.via = .inband ∧ e.1 = r.srcEid ∧ e.2.1 = r.mseq ∧ e.2.2 = none then (e.1, e.2.1, some (ws, out)) else e) }
  sendReply r ws out s

/-- OK with results. -/
def ok (r : GcpReq) (res : List Word) (s : State) : State := finish r stOk 0 0 res [] s
/-- OK with read data. -/
def okData (r : GcpReq) (data : List Word) (s : State) : State := finish r stOk 0 0 [] data s
/-- A status without results. -/
def fail (r : GcpReq) (st : Nat) (s : State) : State := finish r st 0 0 [] [] s

/-- Holds a command in execution; its PENDING reply comes after 100 µs (R408). -/
def hold (r : GcpReq) (s : State) : State :=
  { s with mgmt.cmds := s.mgmt.cmds ++ [{ id := s.mgmt.nextCmd, req := r }], mgmt.nextCmd := s.mgmt.nextCmd + 1 }

/-- A command's words in the controller's memory are read: false where an uncorrectable error keeps them, which raises MEM_ECC
(R25, R435); the command is then dropped (DESIGN CHOICE, log 127). -/
def meetMem (id : Nat) (s : State) : State × Bool := if struck s eccMem id then (raise 307 128 s, false) else (s, true)

/-- Ends every held command that `p` picks, in order, with a status (R411). -/
def endCmds (p : GcpReq → Bool) (st d1 d2 : Nat) (res : List Word) (s : State) : State :=
  let (out, stay) := s.mgmt.cmds.partition (fun c => p c.req)
  out.foldl (fun s c =>
    let r := meetMem c.id s
    if r.2 then finish c.req st d1 d2 res [] r.1 else r.1) { s with mgmt.cmds := stay }

def opcodeOf (r : GcpReq) : Nat := fAt r.words 0 0 16

/-- The data words of a write (R407): outside the request with INDIRECT, else PARAM words from `k`. -/
def dataOf (r : GcpReq) (k : Nat) : List Word :=
  let n := ((wAt r.words 2).toNat + 3) / 4
  if bAt r.words 1 0 then r.data.take n else (r.words.drop k).take n

/-- A crossing of a packet, as the output that it leaves. -/
def crossOut (h : Nat) (p : Packet) (o : Out) (s : State) : State :=
  crossD2d (boleOf h) (identNet h p) (.emit o) (emit o) s

/-! ### Packets -/

/-- Hands a packet to the crossbar at an input index (the N ports are 64 to 67, M 68, C0 to C3 69 to 72); a Bole's packets
cross a die-to-die module. -/
def inject (i : Nat) (p : Packet) (s : State) : State :=
  if 64 ≤ i ∧ i < 68 then crossOut (i - 64) p (.inject i p) s else emit (.inject i p) s

/-- Crossbar index of an internal port. -/
def xN (h : Nat) : Nat := 64 + h
def xM : Nat := 68
def xC (u : Nat) : Nat := 69 + u

/-- A packet that a host port's Bole builds, complete and handed to its N port (R94, R95, R379). -/
def sendBole (h : Nat) (p : Packet) (s : State) : State :=
  let p := { p with src := hostEid s h, flowHash := flowHashOf (hostEid s h) p.chan }
  inject (xN h) (sealPkt p) s

/-- Counter `i` of the CNP_ block, and of a port (R119, R88). -/
def cnpCtr (i : Nat) : Nat := 0x200 + 8 * i
def prtCtr (n i : Nat) : Nat := prtBase n + 0x200 + 8 * i
def bghCtr (k i : Nat) : Nat := bghBase k + 0x100 + 8 * i
/-- Counter `i` of a host port's block at a BAR0 offset, of the PF. -/
def hCtr (h off i : Nat) : Nat := hostKey h 0 (off + 8 * i)
/-- HDR_BAD of a Bole (R92, R454). -/
def hdrBad (b : Nat) (s : State) : State := inc (boleKey b 0x118) s

end Sys2Proof.Machine
end

