-- ==== Sys2Proof/Machine/Xbar.lean ====
section
/-! DEFINITION. The crossbar's queues and outputs (04): virtual output queues, the assured shaper, credit and
window admission, the ASD backlog, stomping and the return of pool cells. The commands of the chapter are in
`Switch.lean`. -/

namespace Sys2Proof.Machine

/-- Lanes of a width code (R87). -/
def lanesOf (w : BitVec 2) : Nat := if w = 0 then 1 else if w = 1 then 2 else 4
/-- Flit rate of a port in Mb/s at a width and a lane rate (R43). -/
def flitRate (w : BitVec 2) (slow : Bool) : Nat := (if slow then 200000 else 400000) * lanesOf w

/-- Rate of a crossbar index in Mb/s: a network port's present rate, or an internal port's (R20, R137). -/
def xRate (s : State) (o : Nat) : Nat :=
  if o < 64 then flitRate (port s o).width (port s o).rate else if o = 68 then 307200 else 3072000

/-- SHP_CFG.ASSURED_SHARE and SHP_QUANTA in force at an output (R136). -/
def shareOf (s : State) (o : Nat) : Nat :=
  match (outp s o).keep with
  | some k => k.1
  | none => rwsF s (shpBase o) 0 8
def quantaOf (s : State) (o : Nat) : Word :=
  match (outp s o).keep with
  | some k => k.2
  | none => rws s (shpBase o + 4)
/-- Quantum of a class in a word of quanta (R148). -/
def quantumIn (w : Word) (c : Nat) : Nat := fld w (if c = 0 then 0 else if c = 1 then 10 else 20) 10
/-- Deficits clipped to their new quanta + 67 (R136). -/
def clipDeficits (w : Word) (df : TMap Nat) : TMap Nat := Maps.mapVals 0 (fun c d => min d (quantumIn w c + 67)) df
/-- A packet boundary of an output: quanta and share that a commit has changed take effect (R136). -/
def boundary (o : Nat) (s : State) : State :=
  match (outp s o).keep with
  | none => s
  | some _ => updOut o (fun x => { x with keep := none, deficit := clipDeficits (rws s (shpBase o + 4)) x.deficit }) s

/-- LEN_CELLS as a number. -/
def lenOf (p : Packet) : Nat := p.lenCells.toNat
def clsOf (p : Packet) : Nat := p.cls.toNat

/-! ### Admission -/

/-- Cells of a VC in use at the partner (R58). -/
def usedVc (c : PortCredit) (v : Nat) : Nat := (Maps.get 0 c.sent v - Maps.get 0 c.freed v).toNat

/-- may_send of R58: room for `n` cells on VC `v`. -/
def maySend (p : Port) (v n : Nat) : Bool :=
  let shared := sumN ((List.range 16).map (fun u => usedVc p.cr u - p.peer.reserve))
  let own := p.peer.reserve - usedVc p.cr v
  decide ((n : Int) ≤ (own : Int) + ((p.peer.pool : Int) - 16 * (p.peer.reserve : Int) - (shared : Int)))

/-- Spill is active (R65): enabled, the HBM interface serves, and it has not been stopped under R68. -/
def spillOn (s : State) (n : Nat) : Bool := (port s n).spill && hbmOk s

/-- The replay window in cells (R64, R68). -/
def windowOf (s : State) (n : Nat) : Nat := if spillOn s n && !(port s n).spillStop then 69632 else 4096

/-- Unacknowledged cells and cells granted (R64). -/
def unackedCells (p : Port) : Nat := p.rp.window.length + p.rp.txq.length

/-- A link-key slot as it is stored (R385). -/
def rawKey (s : State) (n dir slot : Nat) : LinkKey := Maps.get {} s.heart.keys (n * 4 + dir * 2 + slot)
/-- Link key slot of a port: DIR 1 is receive (R385). One with an uncorrectable error is not VALID (R395). -/
def linkKey (s : State) (n dir slot : Nat) : LinkKey :=
  if (rawKey s n dir slot).ecc = .bad then {} else rawKey s n dir slot
def setLinkKey (n dir slot : Nat) (k : LinkKey) (s : State) : State :=
  { s with heart.keys := Maps.put {} s.heart.keys (n * 4 + dir * 2 + slot) k }
/-- A link-key slot is read for use: an uncorrectable error raises KEY_ECC and ends the key (R25, R395). -/
def meetKey (n dir slot : Nat) (s : State) : State :=
  if (rawKey s n dir slot).ecc = .bad then raise 332 1 (inc 0x08000140 (setLinkKey n dir slot {} s)) else s
/-- PRT_CFG.GCM_EN. -/
def gcmEn (s : State) (n : Nat) : Bool := rwsF s (prtBase n) 7 1 == 1

/-- The port may start a packet under its transmit key (R82, R387). -/
def keyOk (s : State) (n : Nat) : Bool :=
  !gcmEn s n ||
    (let k := linkKey s n 0 (b2n (port s n).kpTx)
     k.valid && decide (k.ctr < 2 ^ 48) && (port s n).keySwitch.isNone)

/-- Class group of the credit of an internal output (R496): the N ports share one pool with 68 cells reserved to each
class; the C ports hold 512 cells for each of REQ and RSP; M holds 1,024. -/
def internalFree (s : State) (o cls : Nat) : Nat :=
  let u (c : Nat) : Nat := Maps.get 0 (outp s o).used c
  if o < 68 then
    let shared := 4096 - 3 * 68 - ((u 0 - 68) + (u 1 - 68) + (u 2 - 68))
    (68 - u cls) + shared
  else if o = 68 then 1024 - u 3
  else 512 - u cls

/-- The pool that holds a packet is clocked: that of a network port whose domain is not ON takes no part in traffic (R457). -/
def poolOnFor (s : State) (h : Held) : Bool := decide (64 ≤ h.inp) || domOn s (dPort h.inp)

/-- A packet at the head of its queue may be granted at its output (R126), which takes part in traffic (R457). -/
def admits (s : State) (h : Held) : Bool :=
  poolOnFor s h &&
  if h.out < 64 then
    let p := port s h.out
    p.st = .up && keyOk s h.out && maySend p h.vc (lenOf h.pkt)
      && decide (unackedCells p + lenOf h.pkt ≤ windowOf s h.out)
  else (decide (68 ≤ h.out) || nUsable s (h.out - 64)) && decide (lenOf h.pkt ≤ internalFree s h.out (clsOf h.pkt))

/-- Packets queued at an output. -/
def queuedAt (s : State) (o : Nat) : List Held := s.net.voq.filter (fun h => h.out == o)

/-- The heads of the virtual output queues among packets in arrival order. -/
def heads : List Held → List (Nat × Nat) → List Held
  | [], _ => []
  | h :: t, seen => if seen.contains (h.inp, h.vc) then heads t seen else h :: heads t ((h.inp, h.vc) :: seen)

/-- The eligible packets of an output. -/
def eligible (s : State) (o : Nat) : List Held := (heads (queuedAt s o) []).filter (admits s)

/-! ### The assured shaper and the time an output has waited -/

/-- Clamp of the credit (R138), in 1/256,000 bit. Without a share the lower bound, which divides by it, is taken as 0 (DESIGN CHOICE,
log 147). -/
def clampCredit (share : Nat) (c : Int) : Int :=
  let lo : Int := if share = 0 then 0 else -(((4352 + 127) * 8 * 256 * 256000 / share : Nat) : Int)
  max lo (min c (69632 * 256000))

/-- Cells that a network output can send now: those of a packet still arriving are limited to the cells accepted at its
input (R129). -/
def txAvail (s : State) (o : Nat) : Nat :=
  let q := (port s o).rp.txq.length
  match (outp s o).busy with
  | some h => if h.whole ∨ 64 ≤ h.inp then q else min q ((port s h.inp).rp.rxCells.length - (lenOf h.pkt - q))
  | none => q

/-- What an ASD packet takes from the credit of an output for `bits` of it (R139): while they are sent the credit falls at
sendSlope, which is the share less the port rate. -/
def takeCredit (o : Nat) (bits : Int) (s : State) : State :=
  updOut o (fun x => { x with credit := clampCredit (shareOf s o) (x.credit - bits * ((256 - shareOf s o : Nat) : Int) * 1000) }) s

/-- A port may send data cells: in UP, once it knows which of its cells the partner has (R69). -/
def mayData (p : Port) : Bool := p.st == .up && (p.rp.heard || p.rp.window == [])

/-- The ASD packet that an output carries is being sent: the credit then changes with its cells alone. A packet held under
R128, a gap of R129 and a link that may send no data cell leave it waiting (R138). -/
def sendingAsd (s : State) (o : Nat) : Option Bool :=
  match (outp s o).busy with
  | some h => if clsOf h.pkt ≠ 2 then none else some (!(outp s o).hold && txAvail s o != 0 && (64 ≤ o || mayData (port s o)))
  | none => none

/-- `dt` ns pass at an output: its credit rises (R138) and the pairs that wait without an eligible packet stall (R145). The
state does not change within that time. -/
def advOut (dt o : Nat) (s : State) : State :=
  let x := outp s o
  let share := shareOf s o
  let idle : Int := (xRate s o * share * dt : Nat)
  let q := queuedAt s o
  let el := eligible s o
  let asdQ := q.any (fun h => clsOf h.pkt == 2)
  let asdE := el.any (fun h => clsOf h.pkt == 2)
  let c :=
    match sendingAsd s o with
    | some true => x.credit
    | some false => x.credit + idle
    | none =>
      if asdE then x.credit + idle
      else if asdQ then (if x.credit < 0 then min 0 (x.credit + idle) else x.credit)
      else if x.credit > 0 then 0 else min 0 (x.credit + idle)
  let stalled := (List.range 4).filter (fun k => q.any (fun h => clsOf h.pkt == k) && !el.any (fun h => clsOf h.pkt == k))
  let tel := stalled.foldl (fun t k => Maps.upd {} t (4 * o + k) (fun r => { r with stall := r.stall + dt })) s.net.tel
  updOut o (fun x => { x with credit := clampCredit share c }) { s with net.tel := tel }

/-- `dt` ns pass at the outputs that time changes: those with a packet queued or in progress, or with a credit. -/
def advOuts (dt : Nat) (s : State) : State :=
  (List.range 73).foldl (fun s o =>
    if (outp s o).credit = 0 ∧ (outp s o).busy = none ∧ !s.net.voq.any (fun h => h.out == o) then s else advOut dt o s) s

/-! ### Queues -/

/-- Cells of a queued packet that its input's pool holds: those accepted so far of one that still arrives. -/
def cellsHeld (s : State) (h : Held) : Nat := if h.whole ∨ 64 ≤ h.inp then lenOf h.pkt else (port s h.inp).rp.rxCells.length

/-- Cells in the egress staging of an output that carries `h` (R129): of those that have come and are still to be sent, or, at an
internal output, to be delivered, as many as it holds (DESIGN CHOICE, log 148). -/
def stagedCells (s : State) (o : Nat) (h : Held) : Nat :=
  if (outp s o).hold then 0 else min 16 (if o < 64 then txAvail s o else cellsHeld s h)

/-- Cells queued for an output in a class, with those granted and still in its egress staging (R129, R145). -/
def depthOf (s : State) (o c : Nat) : Nat :=
  sumN ((queuedAt s o).map (fun h => if clsOf h.pkt = c then cellsHeld s h else 0))
    + (match (outp s o).busy with
       | some h => if clsOf h.pkt = c then stagedCells s o h else 0
       | none => 0)

/-- Records a cause of R172 at an output whose ASD_RATE is nonzero; only network ports raise an event (R175). A cause of N0 to N3,
which no event source clears, stays once it is recorded (DESIGN CHOICE, log 149). -/
def asdCause (o bit : Nat) (s : State) : State :=
  if rws s (asdBase o) = 0 then s
  else if o < 64 then raise (384 + o) (2 ^ bit) s
  else { s with ev.cause := Maps.upd 0 s.ev.cause (asdBase o + 0xC) (fun w => w ||| w32 (2 ^ bit)) }

/-- Adds to the ASD backlog of an output (R172): its largest value, and the cause BURST at a crossing upward. A commit that lowers
ASD_BURST below the backlog is no such crossing (DESIGN CHOICE, log 149). -/
def backlogAdd (o cells : Nat) (s : State) : State :=
  let b := Maps.get 0 s.net.backlog o
  let b' := b + cells * 64
  let lim := rwsF s (asdBase o + 4) 0 24
  let s := { s with net.backlog := Maps.put 0 s.net.backlog o b',
                    net.backMax := Maps.upd 0 s.net.backMax o (fun m => max m (min b' (2 ^ 32 - 1))) }
  if b ≤ lim ∧ lim < b' ∧ rws s (asdBase o) ≠ 0 then asdCause o 3 (inc (asdBase o + 0x20) s) else s
def backlogSub (o cells : Nat) (s : State) : State :=
  { s with net.backlog := Maps.upd 0 s.net.backlog o (fun b => b - cells * 64) }

/-- The largest depth of an output and class so far in the period (R145). -/
def noteDepth (o c : Nat) (s : State) : State :=
  { s with net.tel := Maps.upd {} s.net.tel (4 * o + c) (fun r => { r with depthMax := max r.depthMax (depthOf s o c) }) }

/-- No ASD packet is queued or carried: a positive credit is set to 0 (R138). -/
def restCredit (o : Nat) (s : State) : State :=
  if 0 < (outp s o).credit ∧ sendingAsd s o = none ∧ !(queuedAt s o).any (fun h => clsOf h.pkt == 2) then
    updOut o (fun x => { x with credit := 0 }) s
  else s

/-- Puts a routed packet into the queue of its output and VC (R126, R145). -/
def enqueue (h : Held) (s : State) : State :=
  let s := restCredit h.out s
  let s := { s with net.voq := s.net.voq ++ [h] }
  let s := if clsOf h.pkt = 2 then backlogAdd h.out (lenOf h.pkt) s else s
  noteDepth h.out (clsOf h.pkt) s

/-- Returns a packet's pool cells to the link partner (R59); an internal input has no pool here (R20). VC 16 marks cells of
a link that PORT_DISABLE has ended. -/
def creditInput (inp vc n : Nat) (s : State) : State :=
  if inp < 64 ∧ vc < 16 then
    updPort inp (fun p => { p with cr := { p.cr with
      rfreed := Maps.upd 0 p.cr.rfreed vc (fun c => c + BitVec.ofNat 24 n),
      due := p.cr.due ||| BitVec.ofNat 4 (2 ^ (vc / 4)) } }) s
  else s

/-- The packet in reception at an input goes no further: its cells are freed when the last of them has come (R59). -/
def dropRx (inp : Nat) (s : State) : State :=
  if inp < 64 then
    updPort inp (fun p => { p with rp := { p.rp with rx := p.rp.rx.map (fun e => if e.arrived then { e with drop := true } else e) } }) s
  else s
/-- Frees the pool cells of a packet that is dropped: now, or at its end when it still arrives. -/
def freePool (inp vc n : Nat) (whole : Bool) (s : State) : State := if whole then creditInput inp vc n s else dropRx inp s

/-- Frees the cells of a packet that an internal port has moved into its own memory (R496). -/
def freeInternal (o : Nat) (p : Packet) (s : State) : State :=
  updOut o (fun x => { x with used := Maps.upd 0 x.used (clsOf p) (fun u => u - lenOf p) }) s

/-! ### Transmission -/

/-- A packet's cells under a port's link encryption (R80): the tag takes the trailer's last 16 bytes. -/
def encryptPkt (key : LinkKey) (ctr : Nat) (p : Packet) : List Cell64 :=
  let pt := (Packet.bytes { p with tag := 0 }).take (64 * lenOf p - 16)
  let iv := BitVec.ofNat 96 (key.salt.toNat + ctr * 2 ^ 32)
  toCells (lenOf p) (padB pt.length (gcmCrypt key.key iv pt) ++ leBytes 16 (gcmTag key.key iv pt).toNat)

/-- A packet's cells as a network port sends them, with the packet counter `ctr` of its key slot. -/
def linkCells (s : State) (n ctr : Nat) (p : Packet) : List Cell64 :=
  if gcmEn s n then encryptPkt (linkKey s n 0 (b2n (port s n).kpTx)) ctr p else Packet.cells { p with tag := 0 }

/-- Cells with the mark of the packet's last one. -/
def markLast : List Cell64 → List (Cell64 × Bool)
  | [] => []
  | [c] => [(c, true)]
  | c :: cs => (c, false) :: markLast cs

/-- A packet as sent when only its first `k` cells were real: the rest is zero (R56). -/
def asSent (k : Nat) (p : Packet) : Packet :=
  let hdr := 32 + 4 * p.ext.length
  { p with
    ext := (List.range p.ext.length).map (fun i => if 36 + 4 * i ≤ 64 * k then wAt p.ext i else 0)
    payload := padB p.payload.length (p.payload.take (64 * k - hdr)), check := 0, tag := 0 }

/-- One more packet stomped at an output (R56). -/
def stompCount (o : Nat) (s : State) : State := if o < 64 then inc (prtCtr o 12) s else s

/-- Ends the transmission at an output: it may grant again (R127), and the ASD backlog falls. -/
def endTx (o : Nat) (s : State) : State :=
  match (outp s o).busy with
  | none => s
  | some h =>
    let s := if clsOf h.pkt = 2 then backlogSub o (lenOf h.pkt) s else s
    boundary o (updOut o (fun x => { x with busy := none, hold := false, due := false }) s)

/-- The last cell of the packet that an internal output carries has gone: it is delivered (R127, R496). To a Bole it crosses
a die-to-die module. -/
def deliverTx (o : Nat) (s : State) : State :=
  match (outp s o).busy with
  | none => s
  | some h =>
    endTx o (if o < 68 then crossOut (o - 64) h.pkt (.deliver o h.pkt) s else emit (.deliver o h.pkt) s)

/-- Stomps the packet that an output carries (R56). In transmission, the cells not yet sent become zero cells with the
complemented E2E_CRC; a packet that waits under R128 goes out whole with it, and one that an internal output carries is
delivered so. What still arrives of it goes no further. -/
def stompOut (o : Nat) (s : State) : State :=
  match (outp s o).busy with
  | none => s
  | some h =>
    if (outp s o).hold then stompCount o (updOut o (fun x => { x with busy := some { h with pkt := stompPkt h.pkt } }) s)
    else
    let s := if h.whole then s else dropRx h.inp s
    if 64 ≤ o then
      deliverTx o (updOut o (fun x => { x with
        busy := some { h with pkt := stompPkt (asSent (port s h.inp).rp.rxCells.length h.pkt), whole := true } }) s)
    else
    let left := (port s o).rp.txq.length
    let sent := lenOf h.pkt - left
    let p := stompPkt (asSent sent h.pkt)
    let ctr := (linkKey s o 0 (b2n (port s o).kpTx)).ctr - 1
    let cs := (markLast (linkCells s o ctr p)).drop sent
    let s := updPort o (fun x => { x with rp := { x.rp with txq := cs } }) (stompCount o s)
    updOut o (fun x => { x with busy := some { h with pkt := p, whole := true } }) s

/-- Drops a granted packet whose transmission has not begun: what the grant committed is given back (R126, R131), and the
pool cells of one that still arrives are freed at its end. -/
def ungrant (o : Nat) (s : State) : State :=
  match (outp s o).busy with
  | none => s
  | some h =>
    let n := lenOf h.pkt
    let s := if h.whole then s else dropRx h.inp s
    endTx o (if o < 64 then updPort o (fun p => { p with cr := { p.cr with sent := Maps.upd 0 p.cr.sent h.vc (fun x => x - BitVec.ofNat 24 n) } }) s
      else freeInternal o h.pkt s)

/-! ### Down slots (R338) -/

def tree (s : State) (i : Nat) : TreeCtx := Maps.get {} s.trees i
def setTree (i : Nat) (t : TreeCtx) (s : State) : State := { s with trees := Maps.put {} s.trees i t }

/-- The context and chunk of whose down slot a queued packet is a copy: a result that a Crown unit sends down. -/
def copyOf (h : Held) : Option (Nat × Nat) :=
  if 69 ≤ h.inp ∧ h.pkt.ptype = 0x41 ∧ Packet.extF h.pkt 5 2 16 8 = 0 then some (Packet.extF h.pkt 5 0 0 10, Packet.extF h.pkt 5 2 0 16)
  else none

/-- A copy of a down slot has been granted, or is no longer queued: with the last one the slot is free. -/
def copyGone (h : Held) (s : State) : State :=
  match copyOf h with
  | none => s
  | some (i, c) =>
    let t := tree s i
    if t.downs = [] then s
    else setTree i { t with downs := (t.downs.map (fun d => if d.chunk = c then { d with left := d.left - 1 } else d)).filter (fun d => d.left != 0) } s

/-- One packet that a fence has taken from the crossbar (R131). -/
def fenceDrop (s : State) : State := raise 154 4 (inc (cnpCtr 32) s)
def fenceDrops (n : Nat) (s : State) : State := (List.range n).foldl (fun s _ => fenceDrop s) s

/-- Discards queued packets: their cells are credited upstream, and the ASD backlog falls. -/
def discard (hs : List Held) (s : State) : State :=
  hs.foldl (fun s h =>
    let s := copyGone h (freePool h.inp h.inVc (lenOf h.pkt) h.whole s)
    if clsOf h.pkt = 2 then backlogSub h.out (lenOf h.pkt) s else s) s

/-- Removes the queued packets that `p` picks, discarding them. -/
def dropQueued (p : Held → Bool) (s : State) : State :=
  let (out, stay) := s.net.voq.partition p
  discard out { s with net.voq := stay }

/-- Fills the header of a tree packet and queues it for the output that its context names (R324): a network port or
67 and below an N port. A packet whose output is fenced, or neither UP nor in GRACE, is dropped. -/
def sendTree (u out : Nat) (p : Packet) (s : State) : State :=
  let up := if out < 64 then ((port s out).st = .up ∨ (port s out).st = .grace) ∧ !fenced s out
            else (nUsable s (out - 64) : Prop)
  if up then
    let dest := if out < 64 then (port s out).peer.eid else hostEid s (out - 64)
    let si := out < 64 ∧ rwsF s (0x110 + 4 * (out / 32)) (out % 32) 1 = 1
    let p := { p with dest := dest, src := nodeEid s, mode := 3, chan := 0, inc := 0, psn := 0, flowHash := 0,
                      stage := if si then 1 else 0, epoch := activeEpoch s, hop := if out < 64 then 1 else 0, nonmin := false,
                      detour := eidNone, check := 0 }
    let p := sealPkt p
    enqueue { inp := xC u, out := out, vc := Packet.vcOf p, inVc := 0, arrived := s.time.now,
              bank := none, pkt := p } s
  else s

end Sys2Proof.Machine
end

