-- ==== Sys2Proof/Machine/Dma.lean ====
section
/-! DEFINITION. How a Bole reads and writes bytes: host memory through a host port (R40, R180, R213), shared scratch memory
by its bus addresses (R355 to R360), and the waiting that host reads bring. -/

namespace Sys2Proof.Machine

/-- What an access comes to: a value, a wait, a failure kind of R215, a read that the host did not serve (R200), or one of a
scratch word that cannot be delivered, whose packet is dropped (R25, R356). -/
inductive Acc (α : Type) where
  | ok (a : α) | wait (n : Need) | fail (kind : Nat) | err | lost
  deriving DecidableEq, Repr

/-- What one step knows of host memory: the view, a page-table entry that a compare-and-swap returned (R225), entries whose
compare-and-swap is unsupported or contended (kinds 10, 11), the entry whose compare-and-swap has just succeeded, the
translation that data were read through (context, page, bus address, and the first page and number of the slot), what has been
answered for the client (R225, R231, R236), what it waited for, and how many outputs the block had sent when the view was taken. -/
structure View where
  m     : HostView := {}
  entry : Option (CasOut × BitVec 64) := none
  noCas : Option Nat := none
  fight : Option Nat := none
  done  : Option Nat := none
  held  : Option (Nat × Nat × Nat × Nat × Nat) := none
  ans   : List (Nat × Nat × Nat) := []
  was   : Option Need := none
  base  : Nat := 0
  deriving DecidableEq, Repr

/-- A view of host memory and nothing else, taken as a command begins. -/
def viewOf (m : HostView) (s : State) : View := { m := m, base := s.out.length }

/-- Goes on with the value of an access. -/
def andThen {α β : Type} (x : Acc α × State) (f : α → State → Acc β × State) : Acc β × State :=
  match x.1 with
  | .ok a => f a x.2
  | .wait n => (.wait n, x.2)
  | .fail k => (.fail k, x.2)
  | .err => (.err, x.2)
  | .lost => (.lost, x.2)

/-- Does an access for each element in order, stopping at the first that does not succeed. -/
def eachAcc {α β : Type} (f : α → State → Acc β × State) : List α → State → Acc (List β) × State
  | [], s => (.ok [], s)
  | a :: t, s => andThen (f a s) (fun b s => andThen (eachAcc f t s) (fun bs s => (.ok (b :: bs), s)))

/-- A host read ended with an error (R213). -/
def dmaErr (h : Nat) (s : State) : State := raise (288 + 4 * h + 2) 8 (inc (hCtr h 0x80100 3) s)

/-- Bytes of a view, if they are there. -/
def viewBytes (m : HostView) (a n : Nat) : Option (List Byte) :=
  m.spans.findSome? (fun r =>
    if r.1 ≤ a ∧ a + n ≤ r.1 + r.2.length then some ((r.2.drop (a - r.1)).take n) else none)

/-- An address range meets one that answers with an error. -/
def viewBad (m : HostView) (a n : Nat) : Bool := m.bad.any (fun r => decide (r.1 < a + n ∧ a < r.1 + r.2))

/-- The Bole has written bytes of a range since a view was taken: a read of them goes out behind the writes. -/
def wroteSince (h : Nat) (v : View) (a n : Nat) (s : State) : Bool :=
  (s.out.take (s.out.length - v.base)).any (fun o => match o with
    | .hostWrite k _ x bs _ _ => boleOf k == boleOf h && decide (x < a + n ∧ a < x + bs.length)
    | _ => false)

/-- Reads host memory at a bus address; `need` is what the client waits for otherwise. -/
def rdHost (h : Nat) (v : View) (need : Need) (a n : Nat) (s : State) : Acc (List Byte) × State :=
  if n = 0 then (.ok [], s)
  else if wroteSince h v a n s then (.wait need, s)
  else if viewBad v.m a n then (.err, dmaErr h s)
  else match viewBytes v.m a n with
    | some bs => (.ok bs, s)
    | none => (.wait need, s)

/-! ### Scratch memory (R354 to R356) -/

def ssmCtr (b i : Nat) : Nat := boleKey b (0x70800 + 8 * i)
/-- Raises SSM_CAUSE bit `i` (R376). -/
def ssmCause (b i : Nat) (s : State) : State := raise (194 + 64 * b + (if i < 2 then 0 else 1)) (2 ^ i) s

/-- SSM_VF_WIN of VF `f`. -/
def vfWin (s : State) (b f : Nat) : Word := barR s (boleKey b (0x70100 + 4 * (f - 1))) 0

/-- Scratch offset of an offset of a function's BAR4, within its window (R354). -/
def scrOff (s : State) (b f off : Nat) : Option Nat :=
  if f = 0 then some off
  else if off < fld (vfWin s b f) 12 12 * 4096 then some (fld (vfWin s b f) 0 11 * 4096 + off)
  else none

/-- The BAR4 range of a function of a Bole that holds a bus address: host port, function, offset (R355). -/
def bar4At (s : State) (b a : Nat) : Option (Nat × Nat × Nat) :=
  [2 * b, 2 * b + 1].findSome? (fun hp =>
    (hport s hp).bar4.findSome? (fun e => e.2.bind (fun base =>
      if base ≤ a ∧ a < base + 2 ^ 23 then some (hp, e.1, a - base) else none)))

/-- A scratch byte. -/
def scrByte (s : State) (b off : Nat) : Byte := Maps.get 0 s.scr.mem (b * 2 ^ 23 + off)
/-- An uncorrectable error lies in the scratch word of an offset (R356). -/
def scrStruck (s : State) (b off : Nat) : Bool := struck s (eccScr b) (off / 8)
/-- Reads bytes of scratch memory; each word in which the code corrects an error is counted once (R25, R376). -/
def scrBytes (b off n : Nat) (s : State) : List Byte × State :=
  ((List.range n).map (fun i => scrByte s b (off + i)),
    (List.range ((off + n + 7) / 8 - off / 8)).foldl (fun s i => eccRead (ssmCtr b 7) (eccScr b) (off / 8 + i) s) s)

/-- Meets an uncorrectable error of scratch memory. -/
def scrEcc (b : Nat) (s : State) : State := ssmCause b 0 (inc (ssmCtr b 8) s)
/-- Meets the uncorrectable errors of the words that some of `n` bytes from an offset lie in: of those bytes that `p` picks. -/
def scrEccs (b off n : Nat) (p : Nat → Bool) (s : State) : State :=
  ((List.range ((off + n + 7) / 8 - off / 8)).filter (fun k =>
    struck s (eccScr b) (off / 8 + k) && (List.range n).any (fun i => p i && (off + i) / 8 == off / 8 + k))).foldl
    (fun s _ => scrEcc b s) s

/-- Performs a write of up to 8 aligned bytes (R356, R360); a narrower one on a word in error is discarded. The flag says
that it was discarded. -/
def scrPiece (b off : Nat) (bs : List Byte) (s : State) : State × Bool :=
  let full := off % 8 = 0 ∧ bs.length = 8
  if scrStruck s b off ∧ !full then (scrEcc b (inc (ssmCtr b 9) s), true)
  else
    let s := if full then s else eccRead (ssmCtr b 7) (eccScr b) (off / 8) s
    (eccWrite (fun x => x == (eccScr b, off / 8)) { s with scr.mem := Maps.putList 0 s.scr.mem (b * 2 ^ 23 + off) bs }, false)

/-- Cuts bytes at an offset into naturally aligned pieces of at most 8 bytes, ascending (R360). -/
def pieces : Nat → Nat → List Byte → List (Nat × List Byte)
  | 0, _, _ => []
  | fuel + 1, off, bs =>
    if bs = [] then [] else
    let n := if off % 8 = 0 ∧ 8 ≤ bs.length then 8 else if off % 4 = 0 ∧ 4 ≤ bs.length then 4
             else if off % 2 = 0 ∧ 2 ≤ bs.length then 2 else 1
    (off, bs.take n) :: pieces fuel (off + n) (bs.drop n)

/-- Performs a write to scratch memory in its pieces; the flag says that some piece was discarded. -/
def scrWrite (b off : Nat) (bs : List Byte) (s : State) : State × Bool :=
  (pieces bs.length off bs).foldl (fun x p =>
    let y := scrPiece b p.1 p.2 x.1
    (y.1, x.2 || y.2)) (s, false)

/-! ### Bus addresses -/

/-- Lengths of the runs into which the BAR4 ranges of a Bole, and the VF windows in them, cut a range of bus addresses: each
run lies in one range, within its window or beyond it, or in no range (R354, R355). -/
def runs : Nat → State → Nat → Nat → Nat → List (Nat × Nat)
  | 0, _, _, _, _ => []
  | fuel + 1, s, b, a, n =>
    if n = 0 then [] else
    let part (i : Nat) : Option (Nat × Nat × Bool) :=
      (bar4At s b (a + i)).map (fun x => (x.1, x.2.1, (scrOff s b x.2.1 x.2.2).isSome))
    let same (i : Nat) : Bool := part i == part 0
    let k := max 1 (((List.range n).takeWhile same).length)
    (a, k) :: runs fuel s b (a + k) (n - k)

/-- A region of function `fn` of host port `h` may reach a BAR4 range (R355). -/
def bar4Ok (h fn : Nat) (x : Nat × Nat × Nat) : Bool := fn == 0 || (x.1 == h && x.2.1 == fn)

/-- One run of an engine read: scratch memory, or the host port. A read beyond a VF window returns all ones. -/
def rdRun (h fn : Nat) (v : View) (need : Nat → Nat → Need) (r : Nat × Nat) (s : State) : Acc (List Byte) × State :=
  let b := boleOf h
  match bar4At s b r.1 with
  | none => rdHost h v (need r.1 r.2) r.1 r.2 s
  | some x =>
    if !bar4Ok h fn x then (.fail 4, s) else
    let s := inc (ssmCtr b 2) s
    match scrOff s b x.2.1 x.2.2 with
    | none => (.ok (List.replicate r.2 0xFF), ssmCause b 2 (inc (ssmCtr b 6) s))
    | some off =>
      if (List.range r.2).any (fun i => scrStruck s b (off + i)) then (.lost, scrEccs b off r.2 (fun _ => true) s)
      else
        let x := scrBytes b off r.2 s
        (.ok x.1, x.2)

/-- An engine read of bus addresses (R355). -/
def rdBus (h fn : Nat) (v : View) (need : Nat → Nat → Need) (a n : Nat) (s : State) : Acc (List Byte) × State :=
  andThen (eachAcc (rdRun h fn v need) (runs n s (boleOf h) a n) s) (fun l s => (.ok l.flatten, s))

/-- Reads `n` words of a structure that a unit names by bus address, under a function's requester ID (R355). -/
def rdWords (h fn : Nat) (v : View) (a n : Nat) (s : State) : Acc (List Word) × State :=
  andThen (rdBus h fn v (fun x l => .read fn x l false) a (4 * n) s) (fun bs s => (.ok (bWords n bs), s))

/-- The BAR4 ranges that a write meets admit the region's function (R355). -/
def wrAllowed (h fn a n : Nat) (s : State) : Bool :=
  (runs n s (boleOf h) a n).all (fun r => match bar4At s (boleOf h) r.1 with | none => true | some x => bar4Ok h fn x)

/-- One run of an engine write; `relax` says that it may have the relaxed-ordering attribute (R180, R255). -/
def wrRun (h fn : Nat) (relax : Bool) (r : Nat × List Byte) (s : State) : State :=
  let b := boleOf h
  match bar4At s b r.1 with
  | none => hostWr h fn r.1 r.2 relax s
  | some x =>
    let s := inc (ssmCtr b 3) s
    match scrOff s b x.2.1 x.2.2 with
    | none => ssmCause b 2 (inc (ssmCtr b 6) s)
    | some off => (scrWrite b off r.2 s).1

/-- An engine write of bytes to bus addresses (R355). -/
def wrBus (h fn : Nat) (relax : Bool) (a : Nat) (bs : List Byte) (s : State) : State :=
  (runs bs.length s (boleOf h) a bs.length).foldl (fun s r => wrRun h fn relax (r.1, (bs.drop (r.1 - a)).take r.2) s) s

/-- Those of bytes written to scratch memory that are performed: no narrower write is, on a word in error (R356). -/
def scrKept (b off : Nat) (bs : List Byte) (s : State) : List Byte :=
  (pieces bs.length off bs).flatMap (fun p => if scrStruck s b p.1 ∧ !(p.1 % 8 == 0 && p.2.length == 8) then [] else p.2)
/-- Those of bytes written to bus addresses that are sent on a host port or performed in scratch memory (R354, R382). -/
def busKept (h a : Nat) (bs : List Byte) (s : State) : List Byte :=
  (runs bs.length s (boleOf h) a bs.length).flatMap (fun r =>
    let d := (bs.drop (r.1 - a)).take r.2
    match bar4At s (boleOf h) r.1 with
    | none => d
    | some x => match scrOff s (boleOf h) x.2.1 x.2.2 with
      | none => []
      | some off => scrKept (boleOf h) off d s)

/-! ### Clients that wait -/

/-- Issues the bus request that a waiting client's need stands for; page-table reads go under the PF's requester ID (R221). A
compare-and-swap and a page request have been issued already. -/
def askFor (h id : Nat) (n : Need) (s : State) : State :=
  match n with
  | .read fn a l _ => askDma h (.wait id) (outRead s h fn a l) s
  | .walk a _ _ _ _ _ _ _ _ => askDma h (.wait id) (outRead s h 0 a 8) s
  | .data fn a l _ _ _ _ _ _ => askDma h (.wait id) (outRead s h fn a l) s
  | .cas _ _ => s
  | .page _ _ _ => s
  | .turn _ _ => s
  | .walker _ => s
  | .slot _ _ => s
  | .issue _ => s

/-- A client waits: it takes a number, or keeps the one it has; a new need is asked for. -/
def waitFor (h : Nat) (c : Client) (n : Need) (s : State) : State :=
  match (hport s h).waits.find? (fun w => w.client = c) with
  | some w =>
    if w.need = n then s
    else askFor h w.id n (updHost h (fun p => { p with
      waits := p.waits.map (fun x => if x.id = w.id then { x with need := n } else x), dmaq := p.dmaq.filter (fun x => x.1 != .wait w.id) }) s)
  | none =>
    let i := (hport s h).nextWait
    askFor h i n (updHost h (fun p => { p with waits := p.waits ++ [{ id := i, client := c, need := n }], nextWait := i + 1 }) s)

/-- A client no longer waits. -/
def stopWait (h : Nat) (c : Client) (s : State) : State :=
  if (hport s h).waits.any (fun w => w.client = c) then
    updHost h (fun p => { p with waits := p.waits.filter (fun w => w.client ≠ c) }) s
  else s

/-- The view of a client's step: the host's memory, with the page requests answered for it and what it waited for. -/
def viewFor (h : Nat) (c : Client) (v : View) (s : State) : View :=
  match (hport s h).waits.find? (fun w => w.client = c) with
  | some w => { v with ans := w.ans, was := some w.need }
  | none => v

end Sys2Proof.Machine
end

