-- ==== Sys2Proof/Machine/Arbiter.lean ====
section
/-! DEFINITION. What the jobs of a host port share: queues and their numbers (06), the firing of event counters (R302,
R303, R308), and the completion arbiter that commits completions (R198 to R203). -/

namespace Sys2Proof.Machine

/-! ### Queues -/

def cqOf (s : State) (h q : Nat) : Cq := Maps.get {} s.hs.cqs (objKey 20 h q)
def setCq (h q : Nat) (c : Cq) (s : State) : State := { s with hs.cqs := Maps.put {} s.hs.cqs (objKey 20 h q) c }
def updCq (h q : Nat) (f : Cq → Cq) (s : State) : State := setCq h q (f (cqOf s h q)) s

/-- Counter `i` of the QMG_ block (R212). -/
def qmgCtr (h i : Nat) : Nat := hCtr h 0x10100 i
/-- Raises QMG_CAUSE bit `i` (R214). -/
def qmgCause (h i : Nat) (s : State) : State :=
  raise (176 + 64 * boleOf h + 2 * (h % 2) + (if i = 2 then 1 else 0)) (2 ^ i) s

/-- A completion queue has no free slot (R203). -/
def cqFull (s : State) (h cq : Nat) : Bool :=
  let c := cqOf s h cq
  c.active && decide ((c.written - c.head).toNat = 2 ^ c.log)

/-- The function for which a queue acts, and whether it is a privileged queue of the PF (R182). -/
def pfPriv (w : Wq) : Bool := w.priv && w.fn == 0
/-- A queue may act for a function (R182). -/
def mayActFor (w : Wq) (fn : Nat) : Bool := pfPriv w || w.fn == fn

/-! ### Jobs -/

/-- Counter `i` and cause bit `i` of ASD_HOST (R176, R177). -/
def asdHostCtr (h i : Nat) : Nat := hCtr h 0x18100 i
def asdHostCause (h i : Nat) (s : State) : State := raise (190 + 64 * boleOf h + h % 2) (2 ^ i) s

/-- First entry of a job's operation. -/
def Job.op (j : Job) : List Word := j.ents.headD []
def Job.opcode (j : Job) : Nat := fAt (Job.op j) 0 16 8
def Job.subop (j : Job) : Nat := fAt (Job.op j) 1 24 8
def Job.chanNo (j : Job) : Nat := fAt (Job.op j) 1 0 24
def Job.inl (j : Job) : Bool := bAt (Job.op j) 0 8
/-- A job names a reservation (R156). -/
def Job.assured (j : Job) : Bool := bAt (Job.op j) 0 6
/-- OPERAND word `i` (11 to 14), and the other fields of R187. -/
def Job.w (j : Job) (i : Nat) : Word := wAt (Job.op j) i

/-- The job of a number among a host port's issued jobs. -/
def jobOf (s : State) (h j : Nat) : Option Job := (hport s h).jobs.find? (fun x => x.id == j)
def updJob (h j : Nat) (f : Job → Job) (s : State) : State :=
  updHost h (fun p => { p with jobs := p.jobs.map (fun x => if x.id = j then f x else x) }) s
/-- A job that a COUNT entry begins (R304). -/
def Job.counted (j : Job) : Bool := j.count.isSome && j.fired.isNone
/-- The issued job of a queue with a first-entry index and an opcode that no row has begun yet. -/
def freshJob (s : State) (h q : Nat) (i : Word) (op : Nat) : Option Job :=
  (hport s h).jobs.find? (fun x => x.q == q && x.idx == i && !x.begun && !Job.counted x && Job.opcode x == op)

/-- Segments of a job's local data (R189): address, key, length; empty ones are skipped. -/
def segsOf (ents : List (List Word)) : List (Nat × Word × Nat) :=
  let f := ents.headD []
  let seg (e : List Word) (k : Nat) : Nat × Word × Nat := (u64 e k, wAt e (k + 2), (wAt e (k + 3)).toNat)
  ((u64 f 4, wAt f 6, (wAt f 7).toNat) ::
    (ents.drop 1).flatMap (fun e => if fAt e 0 16 8 = 0xF0 then [seg e 1, seg e 5, seg e 9] else [])).filter (fun x => x.2.2 ≠ 0)

/-- INLINE payload of a job (R189): its first LENGTH bytes. -/
def inlineOf (ents : List (List Word)) : List Byte :=
  (((ents.drop 1).filter (fun e => fAt e 0 16 8 == 0xF1)).flatMap (fun e => wBytes ((List.range 14).map (fun i => wAt e (1 + i))))).take
    (wAt (ents.headD []) 7).toNat

/-- Bytes of a job's local data. -/
def lengthOfJob (j : Job) : Nat :=
  if Job.inl j then (wAt (Job.op j) 7).toNat else sumN ((segsOf j.ents).map (fun x => x.2.2))

/-! ### Event counters -/

def ectCtr (h i : Nat) : Nat := hCtr h 0x1C100 i
/-- Raises ECT_CAUSE bit `i` (R317). -/
def ectCause (h i : Nat) (s : State) : State := raise (188 + 64 * boleOf h + h % 2) (2 ^ i) s

def evc (s : State) (h c : Nat) : EvCtr := Maps.get {} s.hs.evctrs (objKey 16 h c)
def setEvc (h c : Nat) (x : EvCtr) (s : State) : State := { s with hs.evctrs := Maps.put {} s.hs.evctrs (objKey 16 h c) x }
/-- Key of a trigger slot. -/
def slotKey (h fn k : Nat) : Nat := (h * 256 + fn) * 2 ^ 20 + k
def slotOf (s : State) (h fn k : Nat) : Slot := Maps.get {} s.hs.slots (slotKey h fn k)
def setSlot (h fn k : Nat) (x : Slot) (s : State) : State := { s with hs.slots := Maps.put {} s.hs.slots (slotKey h fn k) x }

/-- A function's pool (R316): base, slots, enabled. -/
def poolBase (s : State) (h fn : Nat) : Nat :=
  (barR s (hostKey h fn 0x1C004) 0).toNat * 2 ^ 32 + (barR s (hostKey h fn 0x1C000) 0).toNat
def poolSlots (s : State) (h fn : Nat) : Nat := 2 ^ (min 20 (fld (barR s (hostKey h fn 0x1C008) 0) 0 5))
def poolOn (s : State) (h fn : Nat) : Bool := bitW (barR s (hostKey h fn 0x1C008) 0) 5

/-- The reached-threshold test on 48 bits (00). -/
def reached (v t : BitVec 48) : Bool := decide ((v - t).toNat < 2 ^ 47)

/-- A read of a trigger slot for an operation that waits for it. -/
def Need.slotRead : Need → Bool
  | .read _ _ _ b => b
  | .walk _ _ _ _ _ _ _ _ _ => false
  | .data _ _ _ _ _ _ _ _ _ => false
  | .cas _ _ => false
  | .page _ _ _ => false
  | .turn _ _ => false
  | .walker _ => false
  | .slot _ _ => false
  | .issue _ => false
/-- Slot reads in flight in a Bole (R315). -/
def slotReads (s : State) (b : Nat) : Nat :=
  sumN ([2 * b, 2 * b + 1].map (fun h => ((hport s h).firing.filter (fun f => f.asked && f.got.isNone)).length
    + ((hport s h).waits.filter (fun w => w.need.slotRead)).length))
/-- A slot read waits to be issued, and may be (R315). -/
def slotDue (s : State) (h : Nat) : Bool :=
  (hport s h).firing.any (fun f => !f.asked) && decide (slotReads s (boleOf h) < 256)

/-- Issues a slot read while fewer than 256 of the Bole are in flight (R315). -/
def askSlots (h : Nat) (s : State) : State :=
  match (hport s h).firing.find? (fun f => !f.asked) with
  | some f =>
    if 256 ≤ slotReads s (boleOf h) then s
    else askDma h (.slot f.fn f.slot) (outRead s h f.fn (poolBase s h f.fn + 1024 * f.slot) 1024)
      (updHost h (fun p => { p with firing := p.firing.map (fun x => if x = f then { x with asked := true } else x) }) s)
  | none => s

/-- A trigger fires (R308): its slot is to be read. -/
def fireSlot (h fn k : Nat) (c : Option Nat) (s : State) : State :=
  let s := setSlot h fn k { slotOf s h fn k with st := 2 } s
  askSlots h (updHost h (fun p => { p with firing := p.firing ++ [{ fn := fn, slot := k, ctr := c }] }) s)

/-- The firing rule (R308) for a counter; the fuel bounds the triggers of its list. -/
def fireReady : Nat → Nat → Nat → State → State
  | 0, _, _, s => s
  | fuel + 1, h, c, s =>
    let x := evc s h c
    match x.head with
    | none => s
    | some (k, t) =>
      if x.st ≠ 1 ∨ !reached x.value t then s else
      let next := (slotOf s h (k / 2 ^ 20) (k % 2 ^ 20)).next
      let s := setEvc h c { x with head := next, tail := if next.isNone then none else x.tail } s
      fireReady fuel h c (fireSlot h (k / 2 ^ 20) (k % 2 ^ 20) (some c) s)

/-- Applies the firing rule after an update or a link (R303). -/
def fire (h c : Nat) (s : State) : State := fireReady (s.hs.slots.length + 1) h c s

/-- A counter's pending triggers are abandoned: it is LOST, and their slots keep STATE ARMED (R314). -/
def loseCtr (h c : Nat) (s : State) : State := setEvc h c { evc s h c with st := 2, head := none, tail := none, ecc := .good } s

/-- The engine reads a counter's record: an uncorrectable error makes an ACTIVE one LOST (R25, R314). -/
def meetCtr (h c : Nat) (s : State) : State :=
  let x := evc s h c
  if x.ecc = .bad ∧ x.st = 1 then ectCause h 3 (loseCtr h c s) else eccMeet (boleOf h) x.ecc s

/-- One update of an ACTIVE counter (R303). -/
def ctrUpdate (h c : Nat) (f : BitVec 48 → BitVec 48) (s : State) : State :=
  let x := evc s h c
  fire h c (inc (ectCtr h 0) (setEvc h c { x with value := f x.value, ecc := .good } s))

/-- An increment that a completion or a region write causes (R302); `fn` is the function named, none for any. -/
def ctrBump (h c : Nat) (fn : Option Nat) (n : Nat) (s : State) : State :=
  let s := meetCtr h c s
  let x := evc s h c
  if x.st = 1 ∧ (fn = none ∨ fn = some x.fn) then ctrUpdate h c (fun v => v + BitVec.ofNat 48 n) s
  else ectCause h 0 (inc (ectCtr h 8) s)

/-! ### The completion arbiter -/

/-- Words 6 and 7 of a completion without PHASE (R198). -/
def compTail (q op fmt status : Nat) (flags : BitVec 14) : List Word :=
  [pack [(0, 20, q), (20, 8, op), (28, 4, fmt)], pack [(0, 16, status), (16, 14, flags.toNat)]]

/-- A format 0 completion of a job outside a batch (R198, R202). -/
def comp0 (j : Job) (status bytes detail : Nat) : List Word :=
  [Job.w j 2, Job.w j 3, w32 bytes, 1, w32 detail, 0] ++ compTail j.q (Job.opcode j) 0 status j.flags

/-- Queues a committed completion (R201, R203). -/
def pushComp (h q job : Nat) (posted : Bool) (ws : List Word) (s : State) : State :=
  let w := wqOf s h q
  updHost h (fun p => { p with comps := p.comps ++
    [{ cq := w.cq, q := q, job := job, ordered := w.inOrder && posted, words := ws }] }) s

/-- A batch whose jobs have all finished writes its closing completion (R202). -/
def closeBatch (h q : Nat) (b : Batch) (s : State) : State :=
  match b.closer, b.result with
  | some c, some ws =>
    if b.jobs ≠ [] then s else
    let s := updWq h q (fun w => { w with batches := w.batches.filter (fun x => x.closer ≠ some c) }) s
    let ws := if fAt ws 6 28 4 = 0 then ws.set 3 (pack [(0, 16, b.count), (16, 16, b.errs)]) else ws
    pushComp h q c true (ws.set 7 (wAt ws 7 ||| pack [(16, 14, (b.flags ||| 4).toNat)])) s
  | _, _ => s

/-- Commits a job's completion `ws` with a status (R201, R202): alone, deferred to its batch, or closing it. -/
def commitWords (h : Nat) (j : Job) (status : Nat) (ws : List Word) (s : State) : State :=
  let w := wqOf s h j.q
  let posted := j.fired.isNone
  let recent := w.done.filter (fun i => decide ((w.head - i).toNat ≤ 2 ^ w.log) && i != j.idx)
  let s := if posted then updWq h j.q (fun w => { w with done := j.idx :: recent }) s else s
  match w.batches.find? (fun b => posted && (b.jobs.contains j.id || b.closer == some j.id)) with
  | none => pushComp h j.q j.id posted ws s
  | some b =>
    let closes := b.closer = some j.id
    let b' := { b with
      jobs := b.jobs.filter (· ≠ j.id), errs := b.errs + (if status = 0 then 0 else 1), flags := b.flags ||| j.flags,
      result := if closes then some ws else b.result }
    let s := updWq h j.q (fun w => { w with batches := w.batches.map (fun x => if x = b then b' else x) }) s
    let s := if closes then s
             else if status = 0 then updWq h j.q (fun w => { w with order := w.order.filter (· ≠ j.id) }) s
             else pushComp h j.q j.id true ws s
    closeBatch h j.q b' s

/-- Removes a job from every list of its host port and of its channel. -/
def dropJob (h : Nat) (j : Job) (s : State) : State :=
  let s := stopWait h (.job j.id) s
  let s := if j.chan = 0 then s else updChan h j.chan (fun x => { x with
    line := x.line.filter (· ≠ .job j.id), toSend := x.toSend.filter (fun u => u.job ≠ some j.id) }) s
  let s := updHost h (fun p => { p with
    jobs := p.jobs.filter (fun x => x.id ≠ j.id), firedq := p.firedq.filter (fun x => x.id ≠ j.id) }) s
  updWq h j.q (fun w => { w with fetched := w.fetched.filter (fun x => x.id ≠ j.id),
                                 fence := if w.fence = some j.id then none else w.fence }) s

/-- Ends a job with the words of its completion: the counter it increases (R302), the slot it frees (R309), and its
completion, in this order. -/
def endJob (h : Nat) (j : Job) (status : Nat) (ws : List Word) (s : State) : State :=
  let w := wqOf s h j.q
  let s := dropJob h j s
  let s := match j.count with
    | some (c, n) => if status = 0 then ctrBump h c (if pfPriv w then none else some w.fn) n s else s
    | none => s
  let s := match j.fired with
    | some k => hostWr h w.fn (poolBase s h w.fn + 1024 * k) [0, 0, 0, 0] false
        { s with hs.slots := Maps.erase (slotKey h w.fn k) s.hs.slots }
    | none => s
  commitWords h j status ws s

/-- Jobs that store at a target (R204, R292, R311, R344). -/
def isStore (op : Nat) : Bool := [0x10, 0x11, 0x13, 0x20, 0x37, 0x40].contains op
/-- Jobs that return data to the initiator (R204, R241, R344). -/
def isLoad (op : Nat) : Bool := [0x12, 0x13, 0x38, 0x40, 0x6B].contains op

/-- Discarded stores that a fence covers are counted (R205). -/
def fenceLoss (h n : Nat) (s : State) : State := if n = 0 then s else qmgCause h 3 (count (qmgCtr h 15) n s)

/-- A job no longer holds back the fences and the TRIG_CANCEL that wait for it (R205, R269, R313); `lost` says that it was a
discarded store. `after` is what the end of one of them brings. -/
def uncoverStep (after : Nat → State → State) (h j : Nat) (lost : Bool) (s : State) : State :=
  ((hport s h).jobs.filter (fun f => f.waitFor.contains j)).foldl (fun s f =>
    let f' := { f with waitFor := f.waitFor.filter (· ≠ j), loss := f.loss || lost }
    let s := fenceLoss h (b2n lost) s
    if f'.waitFor = [] then
      after f.id (endJob h f' (if f'.loss then 1 else 0) (comp0 f' (if f'.loss then 1 else 0) 0 0) s)
    else updJob h f.id (fun _ => f') s) s
/-- The same, with the FULL_FENCE that waits for a TRIG_CANCEL which ends so; a fence holds back no fence. -/
def uncover (h j : Nat) (lost : Bool) (s : State) : State :=
  uncoverStep (fun i s => uncoverStep (fun _ s => s) h i false s) h j lost s

/-- A posted store ends discarded before a fence that covers it has been issued (R362). -/
def noteLost (h : Nat) (j : Job) (s : State) : State :=
  if j.fired.isSome ∨ (hport s h).jobs.any (fun f => f.waitFor.contains j.id) ∨ (wqOf s h j.q).st = .absent then s
  else updWq h j.q (fun w => { w with lostSt := j.id :: w.lostSt }) s

/-- A job finishes with the words of its completion (R201). -/
def finishWords (h : Nat) (j : Job) (status : Nat) (ws : List Word) (s : State) : State :=
  let lost := isStore (Job.opcode j) && status != 0
  uncover h j.id lost (endJob h j status ws (if lost then noteLost h j s else s))

/-- A job finishes (R201): status, bytes moved, DETAIL. -/
def finishJob (h : Nat) (j : Job) (status bytes detail : Nat) (s : State) : State :=
  finishWords h j status (comp0 j status bytes detail) s

/-- A work request fails RESV_INVALID (R156). -/
def resvInvalid (h : Nat) (j : Job) (s : State) : State :=
  finishJob h j 0x31 0 0 (asdHostCause h 3 (inc (asdHostCtr h 5) s))

/-- A job fails MALFORMED (R197). -/
def malformed (h : Nat) (j : Job) (detail : Nat) (s : State) : State :=
  finishJob h j 0x10 0 detail (inc (qmgCtr h 9) s)

/-- Ends a job on the outcome of an access that did not succeed (R200, R215): a wait leaves it. A scratch word that a job's own
read cannot deliver ends it as a failed read does (DESIGN CHOICE, log 161). -/
def failAcc {α : Type} (h : Nat) (j : Job) (bytes : Nat) (a : Acc α) (s : State) : State :=
  match a with
  | .ok _ => s
  | .wait n => waitFor h (.job j.id) n s
  | .fail k => finishJob h j (if k = 12 ∨ k = 13 then 0x48 else 0x11) bytes k s
  | .err => finishJob h j 0x12 bytes 0 s
  | .lost => finishJob h j 0x12 bytes 0 s

end Sys2Proof.Machine
end

