-- ==== Sys2Proof/Machine/Gcp.lean ====
section
/-! DEFINITION. What every GCP command passes before its own action (R403 to R410, R413): recovery, framing, lengths,
sessions, and the order among commands (R404). -/

namespace Sys2Proof.Machine

/-- Group of an opcode: its upper byte. -/
def groupOf (r : GcpReq) : Nat := opcodeOf r / 256
/-- The groups whose commands execute one at a time (R404). -/
def serialGroup (g : Nat) : Bool := g == 1 || g == 2 || g == 6 || g == 7

/-- A command of the link keys. -/
def keyCmd (r : GcpReq) : Bool := opcodeOf r == 0x901 || opcodeOf r == 0x902
/-- The ports that a command names: of a port or link-key command, and of GRAFT_START and PRUNE_START but for ABORT, which
overtakes what it ends (DEDUCED, log 146). -/
def portsNamed (r : GcpReq) : BitVec 64 :=
  if keyCmd r || groupOf r == 3 then BitVec.ofNat 64 (2 ^ fAt r.words 5 0 6)
  else if (opcodeOf r == 0xD00 || opcodeOf r == 0xD02) && fAt r.words 5 0 2 != 3 then BitVec.ofNat 64 (u64 r.words 6)
  else 0
/-- Two commands name one port. Port commands join or supersede one another instead (R411). -/
def samePort (a b : GcpReq) : Bool :=
  portsNamed a &&& portsNamed b != 0 && !(groupOf a == 3 && groupOf b == 3)

/-- A command waits for an earlier one: both of a serial group, or both on one port, power domain, firmware slot or lock
group, or both QUARANTINE, DRAIN or REMOVE (R404). -/
def conflicts (a b : GcpReq) : Bool :=
  let ga := groupOf a
  let gb := groupOf b
  (serialGroup ga && serialGroup gb)
    || (opcodeOf a == 0x400 && opcodeOf b == 0x400 && fAt a.words 5 0 7 == fAt b.words 5 0 7)
    || (ga == 0xA && gb == 0xA && opcodeOf a != 0xA03)
    || samePort a b
    || (ga == 0xC && gb == 0xC && fAt a.words 5 0 13 == fAt b.words 5 0 13)
    || ((opcodeOf a == 0xD00 || opcodeOf a == 0xD02) && opcodeOf a == opcodeOf b
      && fAt a.words 5 0 2 != 3 && fAt a.words 5 0 2 == fAt b.words 5 0 2)

/-- A request must wait in its transport: 64 commands in execution, or one that it conflicts with (R404). -/
def mustWait (r : GcpReq) (s : State) : Bool :=
  decide (64 ≤ s.mgmt.cmds.length) || s.mgmt.cmds.any (fun c => conflicts r c.req) || s.mgmt.waitq.any (fun c => conflicts r c.req)

/-- How a command uses LENGTH (R407). -/
inductive DataUse where
  | none | writes | reads
  deriving DecidableEq, Repr

/-- LENGTH of a request. -/
def lengthOf (r : GcpReq) : Nat := (wAt r.words 2).toNat

/-- The data limit of a transport (R403). -/
def viaLimit : Via → Nat
  | .host _ => 2 ^ 20
  | .hm => 2 ^ 20
  | .i3c => 48
  | .inband => 4032

/-- Words 0 to 4 hold a nonzero reserved bit, or the length breaks R407. -/
def badFrame (u : DataUse) (r : GcpReq) : Bool :=
  let ind := bAt r.words 1 0
  let lim := if ind then viaLimit r.via else match u with | .none => viaLimit r.via | .writes => 40 | .reads => 48
  fAt r.words 1 1 31 != 0 || (ind && r.via = .i3c) || decide (lim < lengthOf r)

/-- AUTH_FAILED, with its event and counter (R395, R402). -/
def authFail (r : GcpReq) (s : State) : State := fail r stAuthFailed (raise 330 1 (inc 0x08000108 s))

/-- A request is carried in a secured session that is still open (R393, R398). -/
def inSession (r : GcpReq) (s : State) : Bool := r.secured && s.heart.sessions != 0

/-- Opcodes that recovery accepts (R403). -/
def recoveryOk (r : GcpReq) : Bool :=
  (r.via = .hm || r.via = .i3c) && (opcodeOf r == 1 || groupOf r == 0xA)

/-- A GCP command: it is not taken while the controller does not run, waits under R404, and is refused under R403, R405,
R407 or R410 before `body` acts. `sec` marks the commands that need a secured session. -/
def gcp (u : DataUse) (sec : Bool) (r : GcpReq) (body : State → State) (s : State) : State :=
  if s.mgmt.fw = .boot ∨ s.mgmt.fw = .restarting then s
  else if s.mgmt.fw = .recovery ∧ !recoveryOk r then
    (if r.via = .hm ∨ r.via = .i3c then fail r stNotPermitted s else s)
  else if mustWait r s then
    { s with mgmt.waitq := s.mgmt.waitq ++ [{ id := s.mgmt.nextCmd, req := r }], mgmt.nextCmd := s.mgmt.nextCmd + 1 }
  else if badFrame u r then fail r stBadParam s
  else if r.dataErr then finish r stBadParam 0xFFFFFFFF 0 [] [] s
  else if sec ∧ !inSession r s then authFail r s
  else body s

/-- A read of `n` bytes from a byte offset of an object (R431): both multiples of 4 and within it. -/
def rangeOk (off len size : Nat) : Bool := off % 4 == 0 && len % 4 == 0 && decide (off + len ≤ size)

end Sys2Proof.Machine
end

