-- ==== Sys2Proof/Machine/Heart.lean ====
section
/-! DEFINITION. The Heartwood (13): alarms and zeroisation, link keys, firmware verification, debug and test unlock,
SPDM and IDE keys. -/

namespace Sys2Proof.Machine

/-- Counter `i` of the HWD_ block (R402). -/
def hwdCtr (i : Nat) : Nat := 0x08000100 + 8 * i

/-- ERASE_SESSION (R396): link keys, IDE keys and SPDM sessions. A packet in transmission under an erased key is stomped
(R387). -/
def eraseSession (s : State) : State :=
  let cut (n : Nat) (s : State) : State := if gcmEn s n ∧ (outp s n).busy.isSome ∧ !(outp s n).hold then stompOut n s else s
  let s := if s.pw.stopped then s else (List.range 64).foldl (fun s n => cut n s) s
  { s with heart := { s.heart with
      keys := [], sessions := 0, erasing := some (s.heart.erasing == some true),
      ide := Maps.mapVals {} (fun _ v => { st := if v.st = 1 then 2 else v.st }) s.heart.ide } }

/-- ERASE_ALL (R396): the key-wrapping key and the identity key go too. -/
def eraseAll (s : State) : State :=
  let s := eraseSession s
  { s with heart := { s.heart with idKey := none, wrapKey := none, deriveBlocked := true, eraseCount := min 63 (s.heart.eraseCount + 1), erasing := some true } }

/-- Policy of alarm `k`: 0 LOG, 1 ALARM, 2 ERASE_SESSION, 3 ERASE_ALL (R402). -/
def policyOf (s : State) (k : Nat) : Nat := bitsN s.heart.policy.toNat (2 * k) 2

/-- An alarm's policy is carried out already: alarms detected together apply the strongest of their policies once (R398). They
are together when they come at one instant of fabric time, while the zeroisation that the first began goes on (DESIGN CHOICE,
log 145). -/
def erasedNow (all : Bool) (s : State) : Bool :=
  s.heart.eraseAt == some s.time.now && (s.heart.erasing == some true || (s.heart.erasing.isSome && !all))

/-- Alarm 320 + k (R395, R396). -/
def alarm (k : Nat) (s : State) : State :=
  let p := policyOf s k
  let s := raise (320 + k) 1 s
  let s := { s with heart := { s.heart with lastAlarm := BitVec.ofNat 4 k, lastTime := s.time.now } }
  let s := if 1 ≤ p then { s with heart.latch := s.heart.latch ||| BitVec.ofNat 8 (2 ^ k) } else s
  if p < 2 ∨ erasedNow (p == 3) s then s
  else
    let s := if p = 3 then eraseAll s else eraseSession s
    { s with heart.eraseAt := some s.time.now }

def effTamper (k : Nat) (s : State) : State := alarm (k % 2) s
def effClkGlitch (s : State) : State := alarm 3 s

/-- A zeroisation completes (R398): source 329, and the reply to a ZEROIZE. -/
def effZeroizationDone (s : State) : State :=
  match s.heart.erasing with
  | none => s
  | some _ =>
    let s := raise 329 1 (inc (hwdCtr 4) { s with heart := { s.heart with erasing := none, eraseAt := none } })
    endCmds (fun r => opcodeOf r == 0x904) stOk 0 0 [] s

def effZeroize (r : GcpReq) (s : State) : State :=
  gcp .none true r (fun s => hold r (if bAt r.words 5 0 then eraseAll s else eraseSession s)) s

/-- ALARM_POLICY (R397). -/
def effAlarmPolicy (r : GcpReq) (s : State) : State :=
  gcp .none true r (fun s =>
    let new := fAt r.words 5 0 16
    let low := (List.range 8).any (fun k => decide (bitsN new (2 * k) 2 < policyOf s k)
      && (s.heart.latch.getLsbD k || s.heart.policyLock))
    if low then fail r stNotPermitted s
    else ok r [] { s with heart := { s.heart with
      policy := BitVec.ofNat 16 new, thresh := BitVec.ofNat 8 (fAt r.words 6 0 8),
      latch := s.heart.latch &&& ~~~ BitVec.ofNat 8 (fAt r.words 7 0 8),
      policyLock := s.heart.policyLock || bAt r.words 7 8 } }) s

/-! ### Link keys -/

/-- PORT, DIR and SLOT of a link-key command. -/
def lkPort (r : GcpReq) : Nat := fAt r.words 5 0 6
def lkDir (r : GcpReq) : Nat := fAt r.words 5 8 1
def lkSlot (r : GcpReq) : Nat := fAt r.words 5 9 1
/-- KEY of an install, byte 0 first. -/
def lkKey (r : GcpReq) : BitVec 256 := BitVec.ofNat 256 (leNat (wBytes ((List.range 8).map (fun i => wAt r.words (7 + i)))))

/-- LINK_KEY_INSTALL (R386). -/
def effLinkKeyInstall (r : GcpReq) (s : State) : State :=
  gcp .none false r (fun s =>
    let n := lkPort r
    let d := lkDir r
    let sl := lkSlot r
    let act := bAt r.words 5 10
    let other := linkKey s n 0 (1 - sl)
    let p := port s n
    if s.heart.deriveBlocked then fail r stNotPermitted s
    else if !inSession r s then authFail r s
    else if act ∧ d = 1 then fail r stBadParam s
    else if d = 0 ∧ other.valid ∧ other.key = lkKey r ∧ other.salt = wAt r.words 6 then fail r stBadParam s
    else if (p.st = .up ∧ sl = b2n (if d = 0 then p.kpTx else p.kpRx)) ∨ p.keySwitch.isSome then fail r stBusy s
    else
      let s := setLinkKey n d sl { valid := true, key := lkKey r, salt := wAt r.words 6, ctr := 0 } s
      let s := if act then updPort n (fun p => { p with keySwitch := some (sl == 1) }) s else s
      ok r [] (inc (hwdCtr 2) s)) s

/-- LINK_KEY_CLEAR (R386): the first four rows, of which the fourth compares the KEY and SALT that an install names (log 25). A packet in
transmission under the slot is stomped (R387). -/
def effLinkKeyClear (r : GcpReq) (s : State) : State :=
  gcp .none false r (fun s =>
    let n := lkPort r
    if s.heart.deriveBlocked then fail r stNotPermitted s
    else if !inSession r s then authFail r s
    else if bAt r.words 5 10 ∧ lkDir r = 1 then fail r stBadParam s
    else
      let using_ := lkDir r = 0 ∧ lkSlot r = b2n (port s n).kpTx ∧ gcmEn s n ∧ (outp s n).busy.isSome ∧ !(outp s n).hold
      let s := if using_ then stompOut n s else s
      ok r [] (setLinkKey n (lkDir r) (lkSlot r) {} s)) s

/-- One more tag failure at a port (R388): more than LINKAUTH_THRESH in 1 ms raise LINK_AUTH, at each failure that makes it so
(DESIGN CHOICE, log 135). -/
def linkAuthFail (n : Nat) (s : State) : State :=
  let now := s.time.now
  let ts := now :: (port s n).win.gcm.filter (fun t => decide (now < t + 1000000))
  let s := updPort n (fun p => { p with win := { p.win with gcm := ts } }) s
  if s.heart.thresh.toNat < ts.length then alarm 7 (inc (hwdCtr 5) s) else s

/-! ### Firmware -/

def norByte (s : State) (a : Nat) : Byte := Maps.get 0xFF s.nor a
def norBytes (s : State) (a n : Nat) : List Byte := Maps.range 0xFF s.nor a n
def norNat (s : State) (a n : Nat) : Nat := leNat (norBytes s a n)
def slotBase (b : Bool) : Nat := if b then 0x800000 else 0

/-- The first test of R391 that a slot fails, by DETAIL number (R429); 0 when it verifies. -/
def verifySlot (s : State) (b : Bool) : Nat :=
  if s.heart.unread.getLsbD (b2n b) then 1 else
  let m := slotBase b
  let len := norNat s (m + 0xC) 4
  let pub := norBytes s (m + 0x48) 96
  if norNat s m 4 ≠ 0x4A4E4657 then 1
  else if norNat s (m + 4) 4 ≠ 1 then 2
  else if len < 4096 ∨ 0x7FF000 < len ∨ len % 4096 ≠ 0 then 3
  else if sha384 pub ≠ Config.rootKeyHash then 4
  else if norNat s (m + 8) 4 < s.heart.minSvn then 5
  else if !ecdsaP384Verify pub (sha384 (norBytes s m 0xA8)) (norBytes s (m + 0xA8) 96) then 6
  else if (sha384 (norBytes s (m + 0x200) len)).toNat ≠ norNat s (m + 0x18) 48 then 7
  else 0

/-- SVN in a slot's manifest; a manifest that cannot be read counts as -1 (R391). -/
def slotSvn (s : State) (b : Bool) : Int :=
  if s.heart.unread.getLsbD (b2n b) then -1 else (norNat s (slotBase b + 8) 4 : Nat)

/-- Runs the image of a slot, recording measurements 2 and 3 (R391, R394). -/
def runSlot (b : Bool) (s : State) : State :=
  let m := slotBase b
  { s with
    mgmt.fw := .running,
    heart := { s.heart with
      fwSlot := b, fwSvn := (slotSvn s b).toNat, minAtRun := s.heart.minSvn, measured := true,
      image := BitVec.ofNat 384 (norNat s (m + 0x18) 48), buildId := BitVec.ofNat 64 (norNat s (m + 0x10) 8) } }

/-- The boot ROM's choice of firmware (R391): it reads the NOR's SFDP tables (R488); the slot of the higher SVN first; each slot
rejected raises FW_AUTH; with none, recovery. -/
def bootRom (s : State) : State :=
  let s := emit .spiSfdp s
  let first := decide (slotSvn s false < slotSvn s true)
  if verifySlot s first = 0 then runSlot first s
  else
    let s := alarm 6 s
    if verifySlot s (!first) = 0 then runSlot (!first) s
    else raise 304 2 { alarm 6 s with mgmt.fw := .recovery }

/-! ### Debug, test, SPDM, IDE -/

/-- A debug token answers the present challenge: its key is that of fuse DEBUG_KEY_HASH, and its signature, which covers the
challenge, verifies (R392). -/
def debugTokenOk (s : State) (token : List Byte) : Bool :=
  let key := Config.debugTokenKey token
  decide (sha384 key = Config.debugKeyHash)
    && ecdsaP384Verify key (sha384 (Config.debugTokenMsg token (Config.debugChallenge s.heart.challenges))) (Config.debugTokenSig token)

/-- A debug token is presented (R392): a good one performs ERASE_ALL and opens access; the third bad one since power-on
blocks every later attempt. A challenge serves one attempt (DESIGN CHOICE, log 145). -/
def debugUnlock (token : List Byte) (s : State) : State :=
  if s.heart.unlockBlocked then s
  else
  let good := debugTokenOk s token
  let s := { s with heart.challenges := s.heart.challenges + 1 }
  if good then
    let s := eraseAll s
    { s with heart.debugOpen := true }
  else
    let n := s.heart.unlockFails + 1
    let s := inc (hwdCtr 6) { s with heart.unlockFails := n }
    if 3 ≤ n then alarm 5 { s with heart.unlockBlocked := true } else s

def effDebugUnlock (token : List Byte) (s : State) : State := debugUnlock token s

/-- TEST_UNLOCK (R450). -/
def effTestUnlock (r : GcpReq) (s : State) : State :=
  gcp .writes false r (fun s =>
    let token := (wBytes (dataOf r 5)).take (lengthOf r)
    if !s.pw.testMode ∨ s.heart.unlockBlocked then fail r stNotPermitted s
    else if debugTokenOk s token then
      let s := debugUnlock token s
      ok r [] (raise 313 1 { s with ev.testOpen := true })
    else authFail r (debugUnlock token s)) s

/-- The measurements (R394); 2 and 3 from the time firmware has run. Measurement 3 is the digest of its eight bytes
(DEDUCED, log 133). -/
def measurements (s : State) : List (Option (List Byte)) :=
  let x := s.heart
  [some (leBytes 48 Config.bootRomDigest.toNat),
   if x.measured then some (leBytes 48 x.image.toNat) else none,
   if x.measured then some (leBytes 48 (sha384 (leBytes 4 x.fwSvn ++ leBytes 4 x.minAtRun)).toNat) else none,
   some [if s.grade425 then 0 else 1, 2, BitVec.ofNat 8 (b2n s.pw.testMode)],
   some [BitVec.ofNat 8 x.eraseCount, x.latch, 0, 0]]

/-- Answers an SPDM message at a transport (R393, R399): code 1 a response of the standard's, 0 ErrorCode Unspecified; `part` is
what the response carries besides its body. Port 4 is the SPDM_MSG command. -/
def spdmAnswer (h kind : Nat) (good : Bool) (part : List Word) (s : State) : State :=
  let body := if good then Config.spdmBody kind s.heart.responses s.heart.idKey ++ part else []
  emit (.spdm h (b2n good) body (if kind = 7 ∧ good then measurements s else [])) { s with heart.responses := s.heart.responses + 1 }

/-- A part of the certificate chain, which lies in the NOR (R390, R393). -/
def chainPart (s : State) (off len : Nat) : List Word := bWords ((len + 3) / 4) (norBytes s (0x1000000 + off) len)

/-- The responder's action on a message that is not a secured GCP request. IDE_KM outside a secured session is refused (R389). -/
def spdmRun (h : Nat) (m : Spdm) (s : State) : State :=
  let live := !s.heart.deriveBlocked && s.heart.idKey.isSome
  match m with
  | .getVersion => spdmAnswer h 1 true [] s
  | .getCapabilities => spdmAnswer h 2 true [] s
  | .negotiate => spdmAnswer h 3 true [] s
  | .getDigests => spdmAnswer h 4 true [] s
  | .getCertificate slot off len => spdmAnswer h 5 (slot == 0) (chainPart s off len) s
  | .challenge => spdmAnswer h 6 live [] s
  | .getMeasurements signed => spdmAnswer h 7 (live || !signed) [] s
  | .keyExchange => spdmAnswer h 8 (live && decide (s.heart.sessions < 8)) [] s
  | .finish =>
    if live ∧ s.heart.sessions < 8 then
      spdmAnswer h 9 true [] (inc (hwdCtr 0) { s with heart.sessions := s.heart.sessions + 1 })
    else spdmAnswer h 9 false [] s
  | .endSession =>
    if s.heart.sessions = 0 then spdmAnswer h 10 false [] s
    else spdmAnswer h 10 true [] { s with heart.sessions := s.heart.sessions - 1 }
  | .secured verifies _ =>
    if verifies ∧ s.heart.sessions ≠ 0 then spdmAnswer h 11 true [] s else raise 330 1 (inc (hwdCtr 1) s)
  | .ideKeyProg => spdmAnswer h 12 false [] s
  | .other => spdmAnswer h 13 false [] s

/-- A message in the DOE mailbox of a host port's PF; one that fails verification counts in AUTH_FAILURES (DEDUCED, log 135). -/
def effDoeSpdm (h : Nat) (m : Spdm) (s : State) : State := if (hport s h).st = .up then spdmRun h m s else s

/-- Stream `st` of host port `h`. -/
def ideStream (s : State) (h st : Nat) : Ide := Maps.get {} s.heart.ide (h * 8 + st)
def setIde (h st : Nat) (v : Ide) (s : State) : State :=
  { s with heart.ide := Maps.put {} s.heart.ide (h * 8 + st) v }
/-- The key of a key set of a stream. -/
def Ide.key (v : Ide) (ks : Nat) : Option (BitVec 256) := if ks = 0 then v.k0 else v.k1

/-- IDE_KM inside a secured session (R389): one link stream and four selective streams, two key sets each. -/
def effIdeKm (h : Nat) (m : IdeKm) (s : State) : State :=
  if s.heart.sessions = 0 ∨ s.heart.deriveBlocked ∨ (hport s h).st ≠ .up then s else
  match m with
  | .keyProg st ks key =>
    if 5 ≤ st ∨ 2 ≤ ks then s else
    let v := ideStream s h st
    spdmAnswer h 12 true [] (setIde h st (if ks = 0 then { v with k0 := some key } else { v with k1 := some key }) s)
  | .kSetGo st ks =>
    if 5 ≤ st ∨ 2 ≤ ks then s else
    let v := ideStream s h st
    if (v.key ks).isSome then spdmAnswer h 12 true [] (setIde h st { v with st := 1, cur := ks == 1 } s) else spdmAnswer h 12 false [] s
  | .kSetStop st ks =>
    if 5 ≤ st ∨ 2 ≤ ks then s else
    let v := ideStream s h st
    spdmAnswer h 12 true [] (setIde h st (if v.st = 1 ∧ v.cur = (ks == 1) then { v with st := 0, cur := false } else v) s)

/-- An IDE integrity failure of a stream in use (R389). -/
def effIdeFail (h st : Nat) (s : State) : State :=
  let v := ideStream s h st
  if v.st ≠ 1 then s else
  let s := setIde h st { v with st := 2 } s
  raise 328 1 (inc (hwdCtr 7) { s with heart := { s.heart with lastIde := BitVec.ofNat 2 h } })

end Sys2Proof.Machine
end

