-- ==== Sys2Proof/Machine/Exact.lean ====
section
/-! DEFINITION. The Crown's arithmetic (R329 to R335): element formats, exact partial sums, rounding, and the
window and full forms. A floating-point value of a format is an integer count of the format's smallest subnormal, so
that IEEE addition is an exact sum rounded once. -/

namespace Sys2Proof.Machine

/-- A floating-point format: exponent bits, fraction bits, whether it has infinities. -/
structure FFmt where
  eb  : Nat
  mb  : Nat
  inf : Bool := true
  deriving DecidableEq, Repr

/-- The format of a DTYPE; none for the integer types (R329). -/
def fmtOf (d : Nat) : Option FFmt :=
  match d with
  | 4 => some { eb := 5, mb := 10 }
  | 5 => some { eb := 8, mb := 7 }
  | 6 => some { eb := 8, mb := 23 }
  | 7 => some { eb := 11, mb := 52 }
  | 8 => some { eb := 4, mb := 3, inf := false }
  | 9 => some { eb := 5, mb := 2 }
  | _ => none

/-- Bytes of an element (R329). -/
def sizeOf_ (d : Nat) : Nat :=
  match d with
  | 2 | 3 | 7 => 8
  | 4 | 5 => 2
  | 8 | 9 => 1
  | _ => 4

/-- Signed integer types (R330). -/
def isSigned (d : Nat) : Bool := d == 0 || d == 2

/-- A value encoded in a format, as an element: units of the smallest subnormal, and the SPECIAL state (R332). -/
def fDecode (f : FFmt) (v : Nat) : Elem :=
  let w := 1 + f.eb + f.mb
  let neg := v.testBit (w - 1)
  let e := bitsN v f.mb f.eb
  let m := v % 2 ^ f.mb
  let top := 2 ^ f.eb - 1
  if f.inf ∧ e = top then (if m = 0 then { special := if neg then 3 else 2 } else { special := 4 })
  else if !f.inf ∧ e = top ∧ m = 2 ^ f.mb - 1 then { special := 4 }
  else
    let mag := if e = 0 then m else (2 ^ f.mb + m) * 2 ^ (e - 1)
    if mag = 0 ∧ neg then { special := 1 } else { a := if neg then -(mag : Int) else (mag : Int) }

/-- A magnitude shifted right by `k` bits, rounded to nearest, ties to even. -/
def roundShift (m k : Nat) : Nat :=
  let q := m >>> k
  let r := m % 2 ^ k
  let half := 2 ^ k / 2
  if k = 0 then q else if r > half ∨ (r = half ∧ q % 2 = 1) then q + 1 else q

/-- The canonical quiet NaN of a format (R330). -/
def fNan (f : FFmt) : Nat :=
  if f.inf then (2 ^ f.eb - 1) * 2 ^ f.mb + 2 ^ (f.mb - 1) else 2 ^ (f.eb + f.mb) - 1
/-- An infinity of a sign; a NaN where the format has none. -/
def fInf (f : FFmt) (neg : Bool) : Nat :=
  if f.inf then (2 ^ f.eb - 1) * 2 ^ f.mb + (if neg then 2 ^ (f.eb + f.mb) else 0) else fNan f

/-- Rounds `a * 2^-sh` units to a format, once, to nearest with ties to even (R330, R335). -/
def fRound (f : FFmt) (sh : Nat) (x : Elem) : Nat :=
  let sgn := 2 ^ (f.eb + f.mb)
  if x.special = 4 then fNan f
  else if x.special = 2 then fInf f false
  else if x.special = 3 then fInf f true
  else if x.special = 1 then sgn
  else
    let mag := x.a.natAbs
    let n := if mag = 0 then 0 else Nat.log2 mag + 1
    let q := n - sh - (f.mb + 1)
    let r := roundShift mag (sh + q)
    let bits := q * 2 ^ f.mb + r
    let lim := if f.inf then (2 ^ f.eb - 1) * 2 ^ f.mb else 2 ^ (f.eb + f.mb) - 1
    let neg := decide (x.a < 0)
    if bits ≥ lim then fInf f neg else bits + (if neg then sgn else 0)

/-- Two partial sums combined (R335). -/
def exAdd (x y : Elem) : Elem :=
  if x.special = 4 ∨ y.special = 4 ∨ (x.special = 2 ∧ y.special = 3) ∨ (x.special = 3 ∧ y.special = 2) then { special := 4 }
  else if x.special = 2 ∨ y.special = 2 then { special := 2 }
  else if x.special = 3 ∨ y.special = 3 then { special := 3 }
  else if x.special = 1 ∧ y.special = 1 then { special := 1 }
  else { a := x.a + y.a }

/-- Shift from a format's units to 2^-149 (R332). -/
def exShift (f : FFmt) : Nat := 149 - (2 ^ (f.eb - 1) - 2 + f.mb)

/-- Elements in a full chunk (R336). -/
def chunkElems (mode d : Nat) : Nat := if mode = 2 then 96 else 4096 / sizeOf_ d
/-- Chunks of an operation (R336). -/
def chunkCount (mode d elems : Nat) : Nat := max 1 ((elems + chunkElems mode d - 1) / chunkElems mode d)
/-- Elements of chunk `c`. -/
def elemsIn (mode d elems c : Nat) : Nat := min (chunkElems mode d) (elems - c * chunkElems mode d)

/-- OP, DTYPE and MODE are listed and their combination is permitted (R329). -/
def treeOpOk (op d mode : Nat) : Bool :=
  decide (op < 6) && decide (d < 10) && decide (mode < 3) && (op < 3 || d < 4)
    && (mode != 2 || (op == 0 && (d == 4 || d == 5 || d == 6 || d == 8 || d == 9)))

/-- One native element of a type, as a running value; in EXACT mode in units of 2^-149. -/
def elDecode (mode d v : Nat) : Elem :=
  match fmtOf d with
  | some f => let x := fDecode f v; if mode = 2 then { x with a := x.a * 2 ^ exShift f } else x
  | none => { a := if isSigned d then sext (8 * sizeOf_ d) v else (v : Int) }

/-- One running value as a native element: rounded once in EXACT mode (R335). -/
def elEncode (mode d : Nat) (x : Elem) : Nat :=
  match fmtOf d with
  | some f => fRound f (if mode = 2 then exShift f else 0) x
  | none => (x.a % (2 ^ (8 * sizeOf_ d) : Nat)).toNat

/-- Order of floating-point minimum and maximum: -inf, finite, +inf, and -0 below +0 (R330). -/
def elLe (x y : Elem) : Bool :=
  if x.special = 3 ∨ y.special = 2 then true
  else if x.special = 2 ∨ y.special = 3 then false
  else decide (x.a < y.a) || (decide (x.a = y.a) && (x.special == 1 || y.special != 1))

/-- Two running values combined by an operation (R330, R335). -/
def elCombine (op mode d : Nat) (x y : Elem) : Elem :=
  let flt := (fmtOf d).isSome
  let bitsOf (z : Elem) : Nat := elEncode mode d z
  match op with
  | 0 => if mode = 2 then exAdd x y
         else match fmtOf d with
           | some f => fDecode f (fRound f 0 (exAdd x y))
           | none => elDecode 0 d (elEncode 0 d { a := x.a + y.a })
  | 1 => if flt ∧ (x.special = 4 ∨ y.special = 4) then { special := 4 } else if elLe x y then x else y
  | 2 => if flt ∧ (x.special = 4 ∨ y.special = 4) then { special := 4 } else if elLe x y then y else x
  | 3 => elDecode 0 d (bitsOf x &&& bitsOf y)
  | 4 => elDecode 0 d (bitsOf x ||| bitsOf y)
  | _ => elDecode 0 d (bitsOf x ^^^ bitsOf y)

/-- The native elements of a chunk's payload (R327). -/
def elems : Nat → Nat → Nat → List Byte → List Elem
  | _, _, 0, _ => []
  | mode, d, n + 1, bs => elDecode mode d (leNat (bs.take (sizeOf_ d))) :: elems mode d n (bs.drop (sizeOf_ d))

/-- The payload of native elements. -/
def elemBytes (mode d : Nat) (xs : List Elem) : List Byte := xs.flatMap (fun x => leBytes (sizeOf_ d) (elEncode mode d x))

/-- Trailing zero bits of a magnitude, up to `k`. -/
def ctz : Nat → Nat → Nat
  | 0, _ => 0
  | k + 1, n => if n.testBit 0 then 0 else 1 + ctz k (n >>> 1)

/-- A partial sum in its canonical form: its bytes, and whether that is the full form (R333, R334). -/
def exEncode (x : Elem) : List Byte × Bool :=
  let window (w : Int) (sh sp : Nat) : List Byte :=
    leBytes 16 ((w % (2 ^ 120 : Nat)).toNat + sh * 2 ^ 120 + sp * 2 ^ 125)
  if x.special ≠ 0 ∨ x.a = 0 then (window 0 0 x.special, false)
  else
    let sh := min 25 (ctz 320 x.a.natAbs / 8)
    let w := x.a / (2 ^ (8 * sh) : Nat)
    if -(2 ^ 119) ≤ w ∧ w < 2 ^ 119 then (window w sh 0, false)
    else (leBytes 40 ((x.a % (2 ^ 320 : Nat)).toNat), true)

/-- The FORM mask and the elements of an exact payload (R334), with the number of full forms. -/
def exPayload (xs : List Elem) : List Byte × Nat :=
  let es := xs.map exEncode
  let mask := sumN ((List.range es.length).map (fun i => if ((es.getD i ([], false)).2) then 2 ^ i else 0))
  (leBytes 16 mask ++ es.flatMap (·.1), (es.filter (·.2)).length)

/-- A window-form element; none when it is malformed (R333). -/
def exWindow (v : Nat) : Option Elem :=
  let w := sext 120 (v % 2 ^ 120)
  let sh := bitsN v 120 5
  let sp := bitsN v 125 3
  if sh > 25 ∨ sp > 4 ∨ (sp ≠ 0 ∧ (w ≠ 0 ∨ sh ≠ 0)) then none
  else some { a := w * 2 ^ (8 * sh), special := sp }

/-- The elements of an exact payload after its mask. -/
def exElems : Nat → Nat → List Byte → Option (List Elem)
  | 0, _, bs => if bs = [] then some [] else none
  | n + 1, mask, bs =>
    if mask.testBit 0 then
      if bs.length < 40 then none
      else (exElems n (mask >>> 1) (bs.drop 40)).map (fun t => { a := sext 320 (leNat (bs.take 40)) } :: t)
    else if bs.length < 16 then none
    else match exWindow (leNat (bs.take 16)) with
      | none => none
      | some e => (exElems n (mask >>> 1) (bs.drop 16)).map (fun t => e :: t)

/-- An exact payload of `n` elements; none when its length or a form is wrong (R334). -/
def exParse (n : Nat) (bs : List Byte) : Option (List Elem) :=
  let mask := leNat (bs.take 16)
  if bs.length < 16 ∨ mask ≥ 2 ^ n then none else exElems n mask (bs.drop 16)

end Sys2Proof.Machine
end

