-- ==== Sys2Proof/Machine/Trees.lean ====
section
/-! DEFINITION. Tree contexts (R319 to R346): their entries, their packets, and how a context breaks. -/

namespace Sys2Proof.Machine

/-- Word `w` of the ACTIVE entry of context `i` (R319, R348). -/
def treeW (s : State) (i w : Nat) : Word := rws s (0x02200000 + i * 0x20 + 4 * w)
def treeF (s : State) (i w lo n : Nat) : Nat := fld (treeW s i w) lo n
def treeUnit (s : State) (i : Nat) : Nat := treeF s i 0 17 2
def treeRoot (s : State) (i : Nat) : Bool := bitW (treeW s i 0) 19
def treeParent (s : State) (i : Nat) : Nat := treeF s i 0 21 6
/-- Children by child index: network ports, then 64 to 67 for N0 to N3. -/
def childrenOf (w1 w2 w3 : Word) : List Nat :=
  (List.range 68).filter (fun c =>
    if c < 32 then bitW w1 c else if c < 64 then bitW w2 (c - 32) else bitW w3 (c - 64))
def treeKids (s : State) (i : Nat) : List Nat := childrenOf (treeW s i 1) (treeW s i 2) (treeW s i 3)
def treeWindow (s : State) (i : Nat) : Nat := treeF s i 3 4 9

/-- Counter `i` of a Crown unit (R350). -/
def crnCtr (u i : Nat) : Nat := crnUnit u + 0x100 + 8 * i

/-- A tree packet: TREE_UP 0x40 in REQ, TREE_DOWN 0x41 in RSP, with its CROWN extension (R325, R326). -/
def treePkt (up : Bool) (idx tag opSeq op d mode enc chunk status elems : Nat) (payload : List Byte) : Packet :=
  { dest := eidNone, src := eidNone, cls := if up then 0 else 1, lenCells := 0, ptype := if up then 0x40 else 0x41,
    extMask := 0x20,
    ext := [pack [(0, 10, idx), (16, 16, tag)], pack [(0, 16, opSeq), (16, 4, op), (20, 4, d), (24, 2, mode), (26, 1, enc)],
      pack [(0, 16, chunk), (16, 8, status)], w32 elems],
    payload := payload }

/-- A status packet of a tree: STATUS 1 BROKEN, 2 MISMATCH, 3 NO_TREE (R326, R327). -/
def treeStatusPkt (s : State) (up : Bool) (i status : Nat) : Packet :=
  treePkt up i (treeF s i 0 0 16) 0 0 0 0 0 0 status 0 []

/-- Sends a status to the parent or to one child. -/
def sendStatus (up : Bool) (i status out : Nat) (s : State) : State :=
  let u := treeUnit s i
  inc (crnCtr u (if up then 1 else 3)) (sendTree u out (treeStatusPkt s up i status) s)

/-- An ACTIVE context breaks (R345, R346): every slot is freed, with the results that its down slots hold, and BROKEN or MISMATCH
is sent to the neighbours except `skip`. -/
def breakTree (i cause : Nat) (skip : Option Nat) (s : State) : State :=
  let t := tree s i
  if t.st ≠ 1 then s else
  let u := treeUnit s i
  let status := if cause = 4 then 2 else 1
  let s := dropQueued (fun h => (copyOf h).any (fun x => x.1 == i)) (setTree i { t with st := 2, cause := cause, ups := [], downs := [] } s)
  let s := raise (148 + u) (if cause = 4 then 5 else 1) (inc (crnCtr u 8) s)
  let s := if cause = 4 then inc (crnCtr u 11) s else s
  let s := if treeRoot s i ∨ skip = some (treeParent s i) then s else sendStatus true i status (treeParent s i) s
  (treeKids s i).foldl (fun s c => if skip = some c then s else sendStatus false i status c s) s

/-- Breaks every ACTIVE context that `p` picks. -/
def breakTrees (p : State → Nat → Bool) (cause : Nat) (skip : Option Nat) (s : State) : State :=
  (s.trees.map (·.1)).foldl (fun s i => if (tree s i).st = 1 ∧ p s i then breakTree i cause skip s else s) s

/-- An edge of a tree has failed: a parent port, or a child by its child index (R345, cause EDGE). -/
def breakEdge (c : Nat) (s : State) : State :=
  breakTrees (fun s i => (!treeRoot s i && treeParent s i == c) || (treeKids s i).contains c) 1 (some c) s

end Sys2Proof.Machine
end

