-- ==== Sys2Proof/Machine/Stage.lean ====
section
/-! DEFINITION. The staged set, the two banks and their commit (R96 to R103, R113 to R118, R419 to R425), and CHECK. -/

namespace Sys2Proof.Machine

/-! ### Tables -/

/-- Key of an entry of a bank: forward entry e, lookahead entry r, or detour entry k * 4096 + i. -/
def bankKey (b : Bool) (i : Nat) : Nat := b2n b * 2 ^ 20 + i
def ftRead (s : State) (b : Bool) (e : Nat) : Word := Maps.get 0x20000000 s.stage.ft (bankKey b e)
def dtRead (s : State) (b : Bool) (k i : Nat) : Word := Maps.get 0 s.stage.dt (bankKey b (k * 4096 + i))
def laRead (s : State) (b : Bool) (r : Nat) : Word := Maps.get 0 s.stage.la (bankKey b r)

/-- Copies one bank of a table over the other (R114). -/
def copyBank (src : Bool) (m : TMap Word) : TMap Word :=
  let own := m.filter (fun e => (e.1 / 2 ^ 20 == 1) == src)
  if src then own.map (fun e => (e.1 - 2 ^ 20, e.2)) ++ own else own ++ own.map (fun e => (e.1 + 2 ^ 20, e.2))

/-- What an address of router space is to staging (R103, R348, R420). -/
inductive StageObj where
  | ft (e : Nat) | dt (k i : Nat) | la (r : Nat) | treeEnt | rws (mask : Nat)
  deriving DecidableEq, Repr

def stageObj (g425 : Bool) (a : Nat) : Option StageObj :=
  if a % 4 ≠ 0 then none
  else if 0x03000000 ≤ a ∧ a < 0x03100000 then some (.ft ((a - 0x03000000) / 4))
  else if 0x03300000 ≤ a ∧ a < 0x03340000 then some (.dt ((a - 0x03300000) / 0x4000) ((a % 0x4000) / 4))
  else if 0x03340000 ≤ a ∧ a < 0x03344000 then some (.la ((a - 0x03340000) / 4))
  else if 0x02200000 ≤ a ∧ a < 0x02208000 then some .treeEnt
  else (rwsInfo g425 a).map (fun x => .rws x.2)

def isTable : StageObj → Bool
  | .ft _ | .dt _ _ | .la _ => true
  | _ => false

/-- Anything has been staged since the last commit or discard (R421, R424). -/
def anyStaged (s : State) : Bool := s.stage.staged != [] || s.stage.resvStaged != [] || s.stage.tblStaged

/-- An accepted staging write returns a READY bank to OPEN (R420). -/
def unready (s : State) : State :=
  if s.stage.bank = .ready then { s with stage.bank := .opened } else s

/-- Writes one word of a staging view or an RWS register's staged value. -/
def stageWord (a : Nat) (w : Word) (s : State) : State :=
  let ib := !activeEpoch s
  match stageObj s.grade425 a with
  | some (.ft e) =>
    let miss := (List.range 16).filter (fun k => !domOn s (dBough k))
    eccWrite (fun x => decide (x.1 < 16) && x.2 == bankKey ib e)
    { s with stage.ft := Maps.put 0x20000000 s.stage.ft (bankKey ib e) w, stage.tblStaged := true,
             net.boughs := miss.foldl (fun m k => Maps.upd {} m k (fun b => { b with stale := true })) s.net.boughs }
  | some (.dt k i) =>
    eccWrite (fun x => x == (eccDt k, bankKey ib (k * 4096 + i)))
    { s with stage.dt := Maps.put 0 s.stage.dt (bankKey ib (k * 4096 + i)) (w &&& 0x1FFFFF), stage.tblStaged := true }
  | some (.la r) =>
    eccWrite (fun x => x == (eccLa, bankKey ib r))
    { s with stage.la := Maps.put 0 s.stage.la (bankKey ib r) (w &&& 0x0FFFFFFF), stage.tblStaged := true }
  | some .treeEnt => { s with stage.staged := Maps.insert a w s.stage.staged }
  | some (.rws m) => { s with stage.staged := Maps.insert a (w &&& w32 m) s.stage.staged }
  | none => s

/-- Writes consecutive words. -/
def stageWords (a : Nat) : List Word → State → State
  | [], s => s
  | w :: ws, s => stageWords (a + 4) ws (stageWord a w s)

/-- The addresses of `n` words from `a`. -/
def wordAddrs (a n : Nat) : List Nat := (List.range n).map (fun i => a + 4 * i)

/-- Why a staging write of words is refused: a status and DETAIL (R420, R101). -/
def stageRefusal (s : State) (addrs : List Nat) : Option (Nat × Nat) :=
  match addrs.find? (fun a => (stageObj s.grade425 a).isNone) with
  | some a => some (stBadParam, a)
  | none =>
    let objs := addrs.filterMap (stageObj s.grade425)
    let tbl := objs.any isTable
    let b := s.stage.bank
    if b = .pending ∨ (tbl ∧ (b = .draining ∨ b = .copying)) then some (stBusy, 0)
    else if objs.any (fun o => match o with | .dt k _ => !domOn s (dBough k) | _ => false) then some (stUnitFenced, 0)
    else none

def effStageWrite (r : GcpReq) (s : State) : State :=
  gcp .writes false r (fun s =>
    let a := (wAt r.words 5).toNat
    let n := lengthOf r
    if n = 0 ∨ n % 4 ≠ 0 ∨ a % 4 ≠ 0 then fail r stBadParam s
    else match stageRefusal s (wordAddrs a (n / 4)) with
      | some (st, d) => finish r st d 0 [] [] s
      | none => ok r [] (unready (stageWords a (dataOf r 6) s))) s

/-- The bits of a word of a tree-context entry that are fields (R319). -/
def treeMask (a : Nat) : Word :=
  match a % 0x20 / 4 with
  | 0 => 0x07FFFFFF
  | 1 => 0xFFFFFFFF
  | 2 => 0xFFFFFFFF
  | 3 => 0x1FFF
  | _ => 0

/-- The ACTIVE value of a register; its reset value while its domain is not ON (R498). -/
def unstaged (s : State) (a : Nat) : Word :=
  match keyDomain a with
  | some d => if domOn s d then rws s a else rwsReset s.grade425 a
  | none => rws s a

/-- The value that STAGE_READ answers for a word of a staging view or an RWS register; none for other registers. Reserved bits
of a staged tree-context entry are kept for CHECK to reject (R321) and read as zero (R10). -/
def stagedValue (s : State) (a : Nat) : Option Word :=
  match stageObj s.grade425 a with
  | some (.ft e) => some (ftRead s (!activeEpoch s) e)
  | some (.dt k i) => some (dtRead s (!activeEpoch s) k i)
  | some (.la r) => some (laRead s (!activeEpoch s) r)
  | some .treeEnt => some ((Maps.find? s.stage.staged a).getD (rws s a) &&& treeMask a)
  | some (.rws _) => some ((Maps.find? s.stage.staged a).getD (unstaged s a))
  | none => none

/-- TREE_CREATE and TREE_DESTROY stage one entry (R320). -/
def effTreeCreate (r : GcpReq) (s : State) : State :=
  gcp .none false r (fun s =>
    let a := 0x02200000 + fAt r.words 5 0 10 * 0x20
    match stageRefusal s (wordAddrs a 8) with
    | some (st, d) => finish r st d 0 [] [] s
    | none => ok r [] (unready (stageWords a ((List.range 8).map (fun i => wAt r.words (6 + i))) s))) s

def effTreeDestroy (r : GcpReq) (s : State) : State :=
  gcp .none false r (fun s =>
    let a := 0x02200000 + fAt r.words 5 0 10 * 0x20
    match stageRefusal s (wordAddrs a 8) with
    | some (st, d) => finish r st d 0 [] [] s
    | none => ok r [] (unready (stageWords a (List.replicate 8 0) s))) s

/-! ### Reservations -/

def resvKey (h id : Nat) : Nat := h * 2 ^ 14 + id
/-- The ACTIVE entry of a reservation (R154). -/
def resv (s : State) (h id : Nat) : List Word := padW 8 (Maps.get [] s.stage.resv (resvKey h id))
/-- The words of an entry as they are held: reserved bits are zero (R10, R154). -/
def resvWords (ws : List Word) : List Word :=
  [wAt ws 0 &&& 0x7FFFF, wAt ws 1, wAt ws 2, wAt ws 3 &&& 0xFFFFFF, wAt ws 4 &&& 0xFFFFFF, wAt ws 5, 0, 0]
def resvValid (e : List Word) : Bool := bAt e 0 18
/-- Key of a reservation's meter among the meters. -/
def resvMeter (h id : Nat) : Nat := 2 ^ 20 + resvKey h id

def effResvWrite (r : GcpReq) (s : State) : State :=
  gcp .none false r (fun s =>
    let h := fAt r.words 5 16 2
    if !domOn s (dMem (boleOf h)) then fail r stNotPermitted s
    else if s.stage.bank = .pending then fail r stBusy s
    else
      let e := resvWords (r.words.drop 6)
      ok r [] (unready { s with stage.resvStaged := Maps.insert (resvKey h (fAt r.words 5 0 14)) e s.stage.resvStaged })) s

def effResvRead (r : GcpReq) (s : State) : State :=
  gcp .none false r (fun s =>
    let h := fAt r.words 5 16 2
    let k := resvKey h (fAt r.words 5 0 14)
    if !domOn s (dMem (boleOf h)) then fail r stNotPermitted s
    else
      let act := Maps.get [] s.stage.resv k
      ok r (padW 8 (if bAt r.words 5 20 then (Maps.find? s.stage.resvStaged k).getD act else act)) s) s

/-! ### CHECK -/

/-- The state as it would stand after a commit, for CHECK (R421): staged words active, the inactive bank active. -/
def afterCommit (s : State) : State :=
  { s with
    stage.rws := s.stage.staged.foldl (fun m e => Maps.insert e.1 e.2 m) s.stage.rws
    stage.resv := s.stage.resvStaged.foldl (fun m e => Maps.insert e.1 e.2 m) s.stage.resv
    stage.epoch := s.stage.epoch + 1 }

/-- A forward entry's fields (R96). -/
def ftValid (w : Word) : Nat := fld w 0 4
def ftCand (w : Word) (i : Nat) : Nat := fld w (4 + 6 * i) 6
def ftDrop (w : Word) : Bool := bitW w 29
def ftLocal (w : Word) : Bool := ftValid w == 0 && !ftDrop w
/-- Crossbar index of an internal-port code (R97). -/
def codePort (c : Nat) : Option Nat :=
  if c < 4 then some (64 + c) else if c = 4 then some 68 else if 8 ≤ c ∧ c < 12 then some (69 + (c - 8)) else none

/-- Port N`h` may be named by what becomes active: its Bole's domains are ON and no fence covers it, its Bole, an engine that
serves it or the last of the Bole's modules (R97, R421, R445). -/
def nEnabled (t : State) (h : Nat) : Bool :=
  boleOn t (boleOf h) && !fenced t (uBole (boleOf h)) && !hostFenced t h
    && (List.range 3).any (fun m => !fenced t (uD2d (3 * boleOf h + m)))

/-- A forward entry breaks R97 or R98. -/
def ftBad (t : State) (e : Nat) (w : Word) : Bool :=
  let cands := ((List.range 4).filter (fun i => (ftValid w).testBit i)).map (ftCand w)
  if e = 0x3FFFF then false
  else (ftDrop w && ftValid w != 0) || !decide cands.Nodup
    || (ftLocal w && (w != w32 (ftCand w 0 * 16) || (codePort (ftCand w 0)).isNone
        || (decide (ftCand w 0 < 4) && ((hostEid t (ftCand w 0)).toNat != e || !nEnabled t (ftCand w 0)))))
    || (decide ((nodeEid t).toNat = e) && w != 0x40)
    || (List.range 4).any (fun n => (hostEid t n).toNat == e && w != w32 (n * 16))

/-- Up slots and down slots that an entry reserves (R338). -/
def slotsOf (e : List Word) : Nat :=
  let w := fAt e 3 4 9
  let f := (childrenOf (wAt e 1) (wAt e 2) (wAt e 3)).length
  (if bAt e 0 20 then w * (f + 1) else w) + w
def treeEntry (t : State) (i : Nat) : List Word := (List.range 8).map (treeW t i)

/-- A tree-context entry breaks R321. -/
def treeBad (t : State) (i : Nat) : Bool :=
  let e := treeEntry t i
  let kids := childrenOf (wAt e 1) (wAt e 2) (wAt e 3)
  let w := fAt e 3 4 9
  bAt e 0 16 && (w == 0 || decide (256 < w) || kids == []
    || (!bAt e 0 19 && kids.contains (fAt e 0 21 6))
    || (List.range 4).any (fun n => kids.contains (64 + n) && (hostEid t n == eidNone || !nEnabled t n))
    || fAt e 0 27 5 != 0 || fAt e 3 13 19 != 0 || (e.drop 4).any (· != 0)
    || fenced t (uCrown (fAt e 0 17 2)))

/-- C_A of an output at MAX_WIDTH and RATE, times 256, in Mb/s (R137, R171). -/
def caMax (t : State) (o : Nat) : Nat :=
  (if o < 64 then flitRate (BitVec.ofNat 2 (rwsF t (prtBase o) 0 2)) (rwsF t (prtBase o) 2 1 == 1) else 3072000)
    * rwsF t (shpBase o) 0 8

/-- The assured registers of an output break R171. -/
def asdBad (t : State) (o : Nat) : Bool :=
  let rate := (rws t (asdBase o)).toNat
  let burst := rwsF t (asdBase o + 4) 0 24
  let share := rwsF t (shpBase o) 0 8
  let gap := rwsF t (shpBase o) 16 8
  (decide (68 ≤ o) && (rate != 0 || burst != 0)) || (decide (0 < rate) && share == 0) || decide (caMax t o < rate * 256)
    || (share != 0 && gap != 0 && decide (gap * 1000 * caMax t o ≤ (burst + 8704) * 8 * 1000 * 256))

/-- A router-space word breaks a CHECK rule, in the state after the commit (R87, R118, R133, R143, R148, R150, R321,
R473). -/
def wordBad (t : State) (a : Nat) : Bool :=
  let w := rws t a
  if a = 0x104 then decide (12 < fld w 8 4) || fld w 12 4 == 15 || decide (12 < fld w 16 4) || fld w 20 6 == 0
  else if a = 0x128 then decide (fld w 0 24 < 1000)
  else if a = 0x400 then fld w 0 20 == 0
  else if a < 0x01000000 then false
  else if a < 0x01400000 then
    let o := a % 0x10000
    if o = 0 then fld w 0 2 == 3 || fld w 8 2 == 3 || (!t.grade425 && !bitW w 2)
    else if o = 4 then decide (10000 < fld w 0 14)
    else if o = 0xC then fld w 0 10 == 0 || decide (1000 < fld w 0 10)
    else false
  else if 0x02200000 ≤ a ∧ a < 0x02208000 then a % 0x20 == 0 && treeBad t ((a - 0x02200000) / 0x20)
  else if 0x03000000 ≤ a ∧ a < 0x03100000 then
    let e := (a - 0x03000000) / 4
    ftBad t e (ftRead t (activeEpoch t) e)
  else if 0x03300000 ≤ a ∧ a < 0x03340000 then
    let d := dtRead t (activeEpoch t) ((a - 0x03300000) / 0x4000) ((a % 0x4000) / 4)
    bitW d 18 && fld d 0 18 == 0x3FFFF
  else if 0x04000000 ≤ a ∧ a < 0x04100000 then a % 0x40 == 0 && asdBad t ((a - 0x04000000) / 0x40)
  else if 0x04100000 ≤ a ∧ a < 0x04200000 then
    let b := a - a % 0x40
    let en := rwsF t (b + 0xC) 26 1 == 1
    let o := a % 0x40
    (o == 0xC && rwsF t a 24 2 == 3)
      || (en && ((o == 0 && w == 0) || (o == 4 && decide (w.toNat < (rws t b).toNat))
          || (o == 8 && decide (fld w 0 24 < 4352)) || (o == 0xC && decide (fld w 0 24 < rwsF t (b + 8) 0 24))))
  else if 0x04200000 ≤ a ∧ a < 0x04300000 then
    if a % 0x100 = 0 then
      let o := (a - 0x04200000) / 0x100
      decide (128 < fld w 0 8) || (decide (68 ≤ o) && fld w 0 8 != 0)
    else a % 0x100 == 4 && (fld w 0 10 == 0 || fld w 10 10 == 0 || fld w 20 10 == 0)
  else if a = 0x07000034 then decide (fld w 10 8 < 60) || decide (110 < fld w 10 8) || decide (600 < fld w 0 10)
  else false

/-- The words whose rules a listed word bears on. -/
def expandAddr (a : Nat) : List Nat :=
  if 0x02200000 ≤ a ∧ a < 0x02208000 then [a - a % 0x20]
  else if 0x04100000 ≤ a ∧ a < 0x04200000 then wordAddrs (a - a % 0x40) 4
  else if 0x04000000 ≤ a ∧ a < 0x04100000 then [asdBase ((a - 0x04000000) / 0x40)]
  else if 0x04200000 ≤ a ∧ a < 0x04300000 then [asdBase ((a - 0x04200000) / 0x100), a]
  else if 0x01000000 ≤ a ∧ a < 0x01400000 then [a, asdBase ((a - 0x01000000) / 0x10000)]
  else [a]

/-- The words that CHECK visits, in ascending address: every register that differs from its reset value, every listed
table entry of the bank to become active, and the entries of the router's own EIDs. -/
def checkAddrs (t : State) : List Nat :=
  let b := b2n (activeEpoch t)
  let tbl (m : TMap Word) (f : Nat → Nat) : List Nat := (m.filter (fun e => e.1 / 2 ^ 20 == b)).map (fun e => f (e.1 % 2 ^ 20))
  let eids := (nodeEid t :: (List.range 4).map (hostEid t)).filter (· ≠ eidNone)
  let all := (t.stage.rws.map (·.1)).flatMap expandAddr
    ++ tbl t.stage.ft (fun e => 0x03000000 + 4 * e) ++ eids.map (fun e => 0x03000000 + 4 * e.toNat)
    ++ tbl t.stage.dt (fun x => 0x03300000 + (x / 4096) * 0x4000 + (x % 4096) * 4)
  (all.foldl (fun m a => Maps.insert a () m) ([] : TMap Unit)).map (·.1)

/-- A reservation breaks R155. -/
def resvBad (t : State) (h : Nat) (e : List Word) : Bool :=
  resvValid e && (fAt e 0 0 18 == 0x3FFFF || wAt e 1 == 0 || decide ((wAt e 2).toNat < (wAt e 1).toNat)
    || decide (fAt e 3 0 24 < 4352) || decide (fAt e 4 0 24 < fAt e 3 0 24) || decide ((wAt e 5).toNat < 600)
    || hostEid t h == eidNone)

/-- Spill rate of a port in GB/s (R66). -/
def spillRate (t : State) (n : Nat) : Nat :=
  if rwsF t (prtBase n) 6 1 = 1 then flitRate (BitVec.ofNat 2 (rwsF t (prtBase n) 0 2)) (rwsF t (prtBase n) 2 1 == 1) / 8000
  else 0
def spillSum (t : State) : Nat := sumN ((List.range 64).map (spillRate t))
/-- Sum of the CIRs of a host port's valid reservations (R155). -/
def cirSum (t : State) (h : Nat) : Nat :=
  sumN (t.stage.resv.map (fun e => if e.1 / 2 ^ 14 = h ∧ resvValid e.2 then (wAt e.2 1).toNat else 0))
/-- Slots of a unit's valid contexts (R321). -/
def slotSum (t : State) (u : Nat) : Nat :=
  let idx := ((t.stage.rws.filter (fun e => decide (0x02200000 ≤ e.1) && decide (e.1 < 0x02208000) && e.1 % 0x20 == 0)).map
    (fun e => (e.1 - 0x02200000) / 0x20))
  sumN (idx.map (fun i => let e := treeEntry t i; if bAt e 0 16 ∧ fAt e 0 17 2 = u then slotsOf e else 0))

/-- The first inconsistency of the staged set, as DETAIL and DETAIL2 (R421); `t` is the state after the commit. -/
def checkFailure (t : State) : Option (Nat × Nat) :=
  match (checkAddrs t).find? (wordBad t) with
  | some a => some (1, a)
  | none =>
    match t.stage.resv.find? (fun e => resvBad t (e.1 / 2 ^ 14) e.2) with
    | some e => some (2, e.1 % 2 ^ 14 + (e.1 / 2 ^ 14) * 2 ^ 16)
    | none =>
      if 800 < spillSum t then some (3, spillSum t)
      else match (List.range 4).find? (fun h => decide (1536000 < cirSum t h)) with
        | some h => some (4, h)
        | none =>
          match (List.range 4).find? (fun u => decide (960 < slotSum t u)) with
          | some u => some (5, u)
          | none => none

def bankBusy (s : State) : Bool := s.stage.bank = .pending || s.stage.bank = .draining || s.stage.bank = .copying

/-- CHECK (R421): BUSY by bank state; OK with EMPTY when nothing is staged; otherwise it runs, for up to 5 ms. -/
def effCheck (r : GcpReq) (s : State) : State :=
  gcp .none false r (fun s =>
    if bankBusy s then fail r stBusy s
    else if !anyStaged s then ok r [1] { s with stage.bank := .ready }
    else hold r { s with stage.checking := some r }) s

def effCheckDone (s : State) : State :=
  match s.stage.checking with
  | none => s
  | some _ =>
    let s := { s with stage.checking := none }
    match checkFailure (afterCommit s) with
    | none => endCmds (fun r => opcodeOf r == 0x103) stOk 0 0 [0] { s with stage.bank := .ready }
    | some (d1, d2) => endCmds (fun r => opcodeOf r == 0x103) stCheckFailed d1 d2 [] { s with stage.bank := .opened }

/-! ### Commit -/

/-- SPILL_ACTIVE follows its conditions (R65, R68): spilling starts at once, and stops once no spilled cell is held. -/
def refreshSpill (n : Nat) (s : State) : State :=
  let want := rwsF s (prtBase n) 6 1 = 1 ∧ hbmOk s ∧ (domain s dHbm).target = none
  updPort n (fun p =>
    if want then { p with spill := true, spillStop := false }
    else if p.spill ∧ 4096 < p.rp.window.length + p.rp.txq.length then { p with spillStop := true }
    else { p with spill := false, spillStop := false }) s

/-- A PWR_SET of PD_HBM waits no more once no port holds spilled cells (R68). -/
def endHeld (s : State) : State :=
  if s.net.ports.any (fun e => e.2.spillStop) then s else updDom dHbm (fun d => { d with held := false }) s

/-- A context takes its new entry (R320): an operation in progress breaks first, with cause COMMIT. -/
def commitTree (old : State) (i : Nat) (s : State) : State :=
  if treeEntry old i = treeEntry s i then s
  else
    let t := tree old i
    let s := if t.st = 1 ∧ t.started ∧ t.downed.length < t.chunks then
        let s' := breakTree i 6 none { s with stage := old.stage }
        { s' with stage := s.stage }
      else s
    setTree i (if bitW (treeW s i 0) 16 then { st := 1 } else {}) s

/-- A meter with full buckets (R143). -/
def fullMeter (cbs pbs now : Nat) : Meter := { tc := cbs * 1024, tp := pbs * 1024, last := now }

/-- The quanta or the share of an output have changed: while it carries a packet those of before stay in force (R136). -/
def commitShaper (old : State) (o : Nat) (s : State) : State :=
  if rwsF old (shpBase o) 0 8 = rwsF s (shpBase o) 0 8 ∧ rws old (shpBase o + 4) = rws s (shpBase o + 4) then s
  else if (outp s o).keep.isSome then s
  else
    let s := updOut o (fun x => { x with keep := some (rwsF old (shpBase o) 0 8, rws old (shpBase o + 4)) }) s
    if (outp s o).busy.isSome then s else boundary o s

/-- One staged register word becomes active, with what its change entails; of a tree context, its whole entry. -/
def commitWord (old : State) (a : Nat) (s : State) : State :=
  if 0x02200000 ≤ a ∧ a < 0x02208000 then commitTree old ((a - 0x02200000) / 0x20) s
  else if rws old a = rws s a then s
  else if 0x04200000 ≤ a ∧ a < 0x04300000 then commitShaper old ((a - 0x04200000) / 0x100) s
  else if 0x01000000 ≤ a ∧ a < 0x01400000 ∧ a % 0x10000 = 0 then refreshSpill ((a - 0x01000000) / 0x10000) s
  else if 0x04100000 ≤ a ∧ a < 0x04200000 then
    let b := a - a % 0x40
    let full := fullMeter (rwsF s (b + 8) 0 24) (rwsF s (b + 0xC) 0 24) s.time.now
    { s with net.meters := Maps.put {} s.net.meters ((b - 0x04100000) / 0x40) full }
  else if a = 0x05000000 ∧ bitW (rws s a) 0 ∧ !bitW (rws old a) 0 then
    { s with time := { s.time with st := .locked, follow := none } }
  else s

/-- The address under which a staged word takes effect: that of its entry for a tree context (R320). -/
def objAddr (a : Nat) : Nat := if 0x02200000 ≤ a ∧ a < 0x02208000 then a - a % 0x20 else a

/-- The value with which a staged word becomes active: the reserved bits of a tree-context entry read as zero (R10). -/
def becomes (s : State) (e : Nat × Word) : Word :=
  if stageObj s.grade425 e.1 = some .treeEnt then e.2 &&& treeMask e.1 else e.2

/-- The work requests that wait under ASSURED_WAIT for reservation `id` are to be metered against its new parameters (R159). -/
def meterAfresh (h id : Nat) (s : State) : State :=
  let f (j : Job) : Job := if j.stalled ∧ fAt (Job.op j) 15 0 14 = id then { j with again := true } else j
  let s := updHost h (fun p => { p with firedq := p.firedq.map f }) s
  { s with hs.wqs := s.hs.wqs.map (fun e => if e.1 / 2 ^ 20 = h then (e.1, { e.2 with fetched := e.2.fetched.map f }) else e) }

/-- Applies the whole staged set and swaps the banks, in one instant (R114, R422). -/
def swapBanks (s : State) : State :=
  let old := s
  let t := afterCommit { s with stage.staged := s.stage.staged.map (fun e => (e.1, becomes s e)) }
  let s := { t with
    stage := { t.stage with
      staged := [], resvStaged := [], tblStaged := false, bank := .draining, lastSwap := s.time.now,
      drainClk := s.time.now, commitT := 0 } }
  let s := (old.stage.staged.map (fun e => objAddr e.1)).eraseDups.foldl (fun s a => commitWord old a s) s
  let s := old.stage.resvStaged.foldl (fun s e =>
    let h := e.1 / 2 ^ 14
    let id := e.1 % 2 ^ 14
    if resv old h id = resv s h id then s
    else
      let full := fullMeter (fAt (resv s h id) 3 0 24) (fAt (resv s h id) 4 0 24) s.time.now
      meterAfresh h id { s with net.meters := Maps.put {} s.net.meters (resvMeter h id) full }) s
  raise 153 1 (inc (cnpCtr 16) s)

def effCommit (r : GcpReq) (s : State) : State :=
  gcp .none false r (fun s =>
    if s.stage.bank = .opened then finish r stCheckFailed 6 0x03000000 [] [] s
    else if s.stage.bank ≠ .ready then fail r stBusy s
    else
      let s := swapBanks s
      ok r [s.stage.epoch] s) s

/-- COMMIT_AT (R423). -/
def effCommitAt (r : GcpReq) (s : State) : State :=
  gcp .none false r (fun s =>
    let t := u64 r.words 5
    if s.stage.bank = .opened then finish r stCheckFailed 6 0x03000000 [] [] s
    else if s.stage.bank ≠ .ready then fail r stBusy s
    else if t ≤ s.time.now then fail r stEpochPassed s
    else if s.time.now + 2 ^ 34 < t then fail r stBadParam s
    else if s.time.st ≠ .locked ∧ rwsF s 0x05000000 0 1 = 0 then fail r stNotPermitted s
    else ok r [s.stage.epoch + 1] { s with stage.bank := .pending, stage.commitT := t }) s

/-- The swap of a PENDING bank once fabric time has reached T (R114, R423). -/
def swapDue (s : State) : State :=
  if s.stage.bank = .pending ∧ s.stage.commitT ≤ s.time.now then
    let un := s.time.st ≠ .locked ∧ rwsF s 0x05000000 0 1 = 0
    let s := swapBanks s
    if un then raise 306 0x40 s else s
  else s

/-- The ports of a set leave quarantine. -/
def admitPorts (ports : BitVec 64) (s : State) : State :=
  (List.range 64).foldl (fun s n =>
    if ports.getLsbD n ∧ (port s n).gr.quar then updPort n (fun p => { p with gr := { p.gr with quar := false } }) s else s) s

/-- A pending ADMIT takes effect once fabric time has reached its T (R468). -/
def admitIfDue (s : State) : State :=
  match s.net.graft.admission with
  | some (ports, t) =>
    if t ≤ s.time.now then admitPorts ports { s with net.graft := { s.net.graft with admission := none } } else s
  | none => s

/-- What falls due at a TCLK edge: the swap, and an admission of the same T with it (R468). -/
def swapIfDue (s : State) : State := admitIfDue (swapDue s)

/-- COMMIT_ABORT (R423): once fabric time has reached T the swap has been made. -/
def effCommitAbort (r : GcpReq) (s : State) : State :=
  gcp .none false r (fun s =>
    let s := swapIfDue s
    match s.stage.bank with
    | .pending => ok r [] { s with stage.bank := .ready, stage.commitT := 0 }
    | .draining | .copying => fail r stEpochPassed s
    | .opened | .ready => fail r stNotPermitted s) s

def effEpochSwap (s : State) : State := swapIfDue s

/-- STAGE_DISCARD (R424). -/
def effStageDiscard (r : GcpReq) (s : State) : State :=
  gcp .none false r (fun s =>
    let cleared := { s with stage.staged := [], stage.resvStaged := [] }
    if s.stage.bank = .pending then fail r stBusy s
    else if !anyStaged s then fail r stStageEmpty s
    else if s.stage.bank = .draining ∨ s.stage.bank = .copying then ok r [] cleared
    else ok r [] { cleared with stage.bank := .copying, stage.tblStaged := false }) s

def bankCode : BankState → Nat
  | .opened => 0 | .ready => 1 | .pending => 2 | .draining => 3 | .copying => 4

/-- CNP_EPOCH (R118). -/
def cnpEpoch (s : State) : Word := pack [(0, 1, b2n (activeEpoch s)), (4, 3, bankCode s.stage.bank)]

def effGetEpoch (r : GcpReq) (s : State) : State :=
  gcp .none false r (fun s =>
    ok r ([s.stage.epoch, cnpEpoch s ||| pack [(8, 1, b2n (anyStaged s))]] ++ w64 s.stage.commitT ++ w64 s.stage.lastSwap
      ++ w64 s.stage.lastDrain) s) s

/-- The drain conditions of R116. -/
def drained (s : State) : Bool :=
  let ns := rwsF s 0x128 0 24
  let now := s.time.now
  decide (s.stage.drainClk + ns ≤ now)
    && s.net.voq.all (fun h => h.bank != some !activeEpoch s)
    && (List.range 73).all (fun o => match (outp s o).busy with | some h => h.bank != some !activeEpoch s | none => true)
    && (List.range 64).all (fun n => (port s n).st != .grace
        && (match (port s n).gr.graceLeft with | some t => decide (t + ns ≤ now) | none => true))

/-- DRAIN_DONE: a DRAINING bank that meets its drain conditions is copied from the active bank (R114, R116). -/
def effDrainDone (s : State) : State :=
  if s.stage.bank = .draining ∧ drained s then
    raise 153 2 { s with stage.bank := .copying, stage.lastDrain := s.time.now }
  else s

/-- The copy of R114 completes: the words of the inactive bank have been written (R25). The detour table of a Bough whose domain is
GATED or in RETAIN takes part in it as that of one that is ON (DESIGN CHOICE, log 155). -/
def effBankCopyDone (s : State) : State :=
  if s.stage.bank = .copying then
    let b := activeEpoch s
    eccWrite (fun x => decide (x.1 < 128) && (x.2 / 2 ^ 20 == 1) != b)
      { s with stage := { s.stage with
          bank := .opened, ft := copyBank b s.stage.ft, dt := copyBank b s.stage.dt, la := copyBank b s.stage.la } }
  else s

/-! ### Bulk tables (R432) -/

/-- BULK_LOAD: bytes of the bulk staging region, from an offset. -/
def effBulkLoad (r : GcpReq) (s : State) : State :=
  gcp .writes false r (fun s =>
    let off := (wAt r.words 5).toNat
    if !hbmOk s then fail r stUnitFenced s
    else if 2 ^ 30 < off + lengthOf r then fail r stBadParam s
    else ok r [] { s with stage.bulk := Maps.putList 0 s.stage.bulk off ((wBytes (dataOf r 6)).take (lengthOf r)) }) s

/-- Words of the bulk staging region. -/
def bulkWords (s : State) (off n : Nat) : List Word :=
  (List.range n).map (fun i => w32 (leNat (Maps.range 0 s.stage.bulk (off + 4 * i) 4)))

/-- The staging view that holds an address: 0 forward, 1 detour, 2 lookahead, 3 tree contexts (R103, R348). -/
def stageView (g425 : Bool) (a : Nat) : Option Nat :=
  match stageObj g425 a with
  | some (.ft _) => some 0
  | some (.dt _ _) => some 1
  | some (.la _) => some 2
  | some .treeEnt => some 3
  | _ => none

def effBulkStage (r : GcpReq) (s : State) : State :=
  gcp .none false r (fun s =>
    let src := (wAt r.words 5).toNat
    let a := (wAt r.words 6).toNat
    let n := (wAt r.words 7).toNat
    if !hbmOk s then fail r stUnitFenced s
    else if n = 0 ∨ n % 4 ≠ 0 ∨ a % 4 ≠ 0 ∨ 2 ^ 30 < src + n ∨ stageView s.grade425 a = none
        ∨ stageView s.grade425 a ≠ stageView s.grade425 (a + n - 4) then fail r stBadParam s
    else match stageRefusal s [a, a + n - 4] with
      | some (st, d) => finish r st d 0 [] [] s
      | none => hold r { s with stage.bulkJob := some (src, a, n, r) }) s

/-- The bulk copy completes: its words are staged as STAGE_WRITE would stage them. -/
def effBulkStageDone (s : State) : State :=
  match s.stage.bulkJob with
  | none => s
  | some (src, a, n, _) =>
    let s := { s with stage.bulkJob := none }
    let reply (st : Nat) (s : State) : State := endCmds (fun r => opcodeOf r == 0x201) st 0 0 [] s
    if !hbmOk s then reply stUnitFenced s
    else match stageRefusal s (wordAddrs a (n / 4)) with
      | some (st, _) => reply st s
      | none => reply stOk (unready (stageWords a (bulkWords s src (n / 4)) s))

/-- A word of a bank view or a staging view, for BULK_READ (R103, R432). -/
def bulkReadWord (s : State) (a : Nat) : Option Word :=
  if 0x03100000 ≤ a ∧ a < 0x03300000 then
    some (ftRead s ((a - 0x03100000) / 0x100000 == 1) (((a - 0x03100000) % 0x100000) / 4))
  else match stageView s.grade425 a with
    | some _ => stagedValue s a
    | none => none

def effBulkRead (r : GcpReq) (s : State) : State :=
  gcp .reads false r (fun s =>
    let a := (wAt r.words 5).toNat
    let n := lengthOf r
    let ws := (wordAddrs a (n / 4)).map (bulkReadWord s)
    if !hbmOk s then fail r stUnitFenced s
    else if a % 4 ≠ 0 ∨ n % 4 ≠ 0 ∨ ws.any Option.isNone then fail r stBadParam s
    else okData r (ws.map (fun w => w.getD 0)) s) s

end Sys2Proof.Machine
end

