-- ==== Sys2Proof/Machine/Time.lean ====
section
/-! DEFINITION. Fabric time (R426 to R428): its advance, the followed port, steps and slews, PPS, TIME_GET and
TIME_SET. -/

namespace Sys2Proof.Machine

/-- Counter `i` of the TIM_ block (R433). -/
def timCtr (i : Nat) : Nat := 0x05000100 + 8 * i
/-- The 16-bit fraction of TIM_NOW. -/
def timeFrac (s : State) : Nat := s.time.frac * 65536 / 10 ^ 12
/-- An 80-bit timestamp of the present instant (R84). -/
def stamp (s : State) : Nat := s.time.now * 65536 + timeFrac s
/-- TIM_CFG.ROOT, PPS_IN_EN and PPS_OUT_EN. -/
def isRoot (s : State) : Bool := rwsF s 0x05000000 0 1 == 1
def ppsIn (s : State) : Bool := rwsF s 0x05000000 1 1 == 1
def ppsOut (s : State) : Bool := rwsF s 0x05000000 2 1 == 1

/-- Offsets are held in units of 1/131,072,000 ns, in which timestamps, their halves and picoseconds are whole. -/
def offUnit : Int := 131072000

/-- TIME_PERIOD_US of a port, in ns. -/
def timePeriod (s : State) (n : Nat) : Nat := rwsF s (prtBase n + 0xC) 0 10 * 1000

/-- A port that R426 lets be followed. -/
def qualifies (s : State) (n : Nat) : Bool :=
  let p := port s n
  rwsF s (prtBase n) 8 2 == 2 && p.st = .up
    && (match p.tm.last with | some t => decide (s.time.now ≤ t + 4 * timePeriod s n) | none => false)

/-- The port followed (R426). -/
def followPort (s : State) : Option Nat := (List.range 64).find? (qualifies s)

/-- An instant as the clock shows it after a step by `d` ns. -/
def moved (d : Int) (t : Nat) : Nat := ((t : Int) + d).toNat

/-- What a port remembers the instant of (R59, R62, R75, R78, R86, R116, R388, R426), as the clock shows it after a step. -/
def movePort (d : Int) (p : Port) : Port :=
  { p with
    cr.sentAt := moved d p.cr.sentAt, rp.nakAt := p.rp.nakAt.map (moved d)
    wd.txSwitch := p.wd.txSwitch.map (fun x => (x.1, x.2.1, x.2.2.map (moved d)))
    tm := { p.tm with last := p.tm.last.map (moved d), gLast := p.tm.gLast.map (fun x => (x.1, moved d x.2.1, x.2.2)) }
    win := { p.win with start := moved d p.win.start, gcm := p.win.gcm.map (moved d) }
    gr := { p.gr with lastData := p.gr.lastData.map (moved d), graceLeft := p.gr.graceLeft.map (moved d) } }

/-- A step changes what the clock shows, and not how long ago something happened: the instants from which the block measures a
duration move with it (DESIGN CHOICE, log 141). Meters measure by fabric time itself (R141). -/
def moveTimes (d : Int) (s : State) : State :=
  { s with
    net := { s.net with
      ports := s.net.ports.map (fun e => (e.1, movePort d e.2))
      outs := s.net.outs.map (fun e => (e.1, { e.2 with
        mgtLast := e.2.mgtLast.map (moved d), busy := e.2.busy.map (fun h => { h with arrived := moved d h.arrived }) }))
      voq := s.net.voq.map (fun h => { h with arrived := moved d h.arrived })
      d2d := s.net.d2d.map (fun e => (e.1, { e.2 with winAt := moved d e.2.winAt })) }
    hs := { s.hs with
      ports := s.hs.ports.map (fun e => (e.1, { e.2 with wCorrAt := moved d e.2.wCorrAt }))
      wqs := s.hs.wqs.map (fun e => (e.1, { e.2 with rereadAt := moved d e.2.rereadAt })) }
    stage.drainClk := moved d s.stage.drainClk
    ev := { s.ev with faultAt := moved d s.ev.faultAt, aliveAt := moved d s.ev.aliveAt } }

/-- Sets fabric time by a step. A swap whose T is passed is applied at the step (R427). -/
def setTime (now frac : Nat) (s : State) : State :=
  swapIfDue (inc (timCtr 0)
    (moveTimes ((now : Int) - s.time.now) { s with time := { s.time with now := now, frac := frac } }))

/-- Steps fabric time by -off; ADJ becomes F (R427). -/
def stepTime (off : Int) (s : State) : State :=
  let ps := (((s.time.now * 10 ^ 12 + s.time.frac : Nat) : Int) * 256 - off * 1953125) / 256
  let t := (ps % (2 ^ 64 * 10 ^ 12)).toNat
  setTime (t / 10 ^ 12) (t % 10 ^ 12) { s with time.adj := s.time.est }

def clampI (l x : Int) : Int := max (-l) (min l x)

/-- The slew law of R427 for an offset, a period in ns and a limit in units of 10^-12. -/
def slew (off : Int) (p : Nat) (l : Int) (t : Time) : Time :=
  let d := offUnit * p
  let f := clampI l ((t.est * (8 * d) - off * 10 ^ 12).tdiv (8 * d))
  { t with est := f, adj := clampI l ((f * d - off * 10 ^ 12).tdiv d) }

def ppm (n : Int) : Int := n * 1000000

/-- One OFFSET of the followed port under the rows of LOCKING. -/
def offsetLocking (off : Int) (p : Nat) (s : State) : State :=
  if 1000 * offUnit < |off| then stepTime off { s with time := { s.time with run := 0 } }
  else
    let t := slew off p (ppm 100) s.time
    let run := if |off| < 2 * offUnit then t.run + 1 else 0
    { s with time := { t with run := run, st := if 16 ≤ run then .locked else .locking } }

/-- Through a controller restart fabric time holds its last adjustment and keeps its state (R430). -/
def timeHolds (s : State) : Bool := s.mgmt.fw == .restarting

/-- HOLDOVER ends: a port qualifies again (R427). -/
def holdoverOver (s : State) : Bool :=
  s.time.st == .holdover && !isRoot s && !timeHolds s && (followPort s).isSome
def endHoldover (s : State) : State :=
  if holdoverOver s then { s with time := { s.time with st := .locking, run := 0, follow := followPort s } } else s

/-- An OFFSET of port `n` (R426, R427): it is applied only when the package follows that port. -/
def applyOffset (n : Nat) (off : Int) (s : State) : State :=
  if isRoot s ∨ followPort s ≠ some n ∨ timeHolds s then s else
  let p := timePeriod s n
  let s := inc (timCtr 1)
    { s with time := { s.time with follow := some n, lastOff := wInt (off.tdiv (offUnit / 16)) } }
  match s.time.st with
  | .unlocked => { stepTime off s with time.st := .locking, time.run := 0 }
  | .locking => offsetLocking off p s
  | .locked =>
    if 1000 * offUnit < |off| then raise 306 0x20 { s with time := { s.time with st := .locking, run := 0 } }
    else { s with time := slew off p (ppm 10) s.time }
  | .holdover => offsetLocking off p { s with time := { s.time with st := .locking, run := 0 } }

/-- TIME_FOLLOW_TIMEOUT: no port qualifies (R427). -/
def effTimeFollowTimeout (s : State) : State :=
  if isRoot s ∨ (followPort s).isSome ∨ timeHolds s ∨ (s.time.st ≠ .locking ∧ s.time.st ≠ .locked) then s else
  let s' := inc (timCtr 2)
    { s with time := { s.time with adj := s.time.est, st := .holdover, follow := none, run := 0 } }
  if s.time.st = .locked then raise 306 0x20 s' else s'

/-- Phase error of a PPS_IN edge at the present instant: its distance from the nearest whole second of fabric time. -/
def ppsError (s : State) : Int := (((s.time.now + 500000000) % 1000000000 : Nat) : Int) - 500000000

/-- PPS_IN_EDGE (R426, R427): captured and slewed at a root with PPS_IN_EN. -/
def effPpsInEdge (s : State) : State :=
  if !isRoot s ∨ !ppsIn s ∨ timeHolds s then s else
  let e := ppsError s
  let l := if s.time.st = .locked then ppm 10 else ppm 100
  let t := slew (e * offUnit) 1000000000 l s.time
  { s with time := { t with st := if |e| ≤ 2 then .locked else .locking, ppsErr := wInt e, ppsLast := some s.time.now } }

/-- PPS_TIMEOUT: 2 s without an edge (R427). -/
def effPpsTimeout (s : State) : State :=
  if !isRoot s ∨ !ppsIn s ∨ timeHolds s then s
  else
    let s' := inc (timCtr 3) { s with time := { s.time with st := .holdover } }
    if s.time.st = .holdover then s' else inc (timCtr 2) s'

/-- PPS_OUT_EDGE (R428). -/
def effPpsOutEdge (s : State) : State := if ppsOut s then { s with time.ppsHigh := true } else s

/-- One cycle of TCLK (R426, R433): one nanosecond, corrected by ADJ. What falls due at T is done at the edge at which fabric time
reaches it (R423, R468). -/
def tick (s : State) : State :=
  if s.pw.stopped ∨ !s.pw.tapLock then s else
  let s := advOuts 1 s
  let ps := s.time.frac + ((10 ^ 12 : Int) + s.time.adj).toNat
  let now := (s.time.now + ps / 10 ^ 12) % 2 ^ 64
  swapIfDue { s with time := { s.time with
      now := now, frac := ps % 10 ^ 12, ppsHigh := s.time.ppsHigh && decide (now % 1000000000 < 100000) } }

/-- TIM_STATUS (R433). -/
def timCode : TimeState → Nat
  | .unlocked => 0 | .locking => 1 | .locked => 2 | .holdover => 3
def timStatus (s : State) : Word :=
  pack [(0, 2, timCode (if isRoot s ∧ !ppsIn s then .locked else s.time.st)), (4, 6, s.time.follow.getD 0),
    (10, 1, b2n s.time.follow.isSome)]

def effTimeGet (r : GcpReq) (s : State) : State :=
  gcp .none false r (fun s => ok r (w64 s.time.now ++ [w32 (timeFrac s), timStatus s, s.time.lastOff]) s) s

/-- TIME_SET (R426): a step at a root; the rate stays. -/
def effTimeSet (r : GcpReq) (s : State) : State :=
  gcp .none true r (fun s =>
    if !isRoot s then fail r stNotPermitted s
    else ok r [] (setTime (u64 r.words 5) 0 s)) s

end Sys2Proof.Machine
end

