-- ==== Sys2Proof/Machine/Link.lean ====
section
/-! DEFINITION. The link layer's states (R69 to R79): failure, flush, training, width and retrain requests, and the port
commands (R411). Groups are in `Group.lean`. -/

namespace Sys2Proof.Machine

/-! ### Commands that wait for a port -/

/-- PORT_ENABLE or PORT_TRAIN for port `n`. -/
def portCmd (n : Nat) (r : GcpReq) : Bool :=
  (opcodeOf r == 0x300 || opcodeOf r == 0x302) && fAt r.words 5 0 6 == n
/-- PORT_WIDTH for port `n`. -/
def widthCmd (n : Nat) (r : GcpReq) : Bool := opcodeOf r == 0x303 && fAt r.words 5 0 6 == n

/-- Ends every port command of port `n` that has not finished (R411). -/
def endPortCmds (n st : Nat) (s : State) : State := endCmds (fun r => portCmd n r || widthCmd n r) st 0 0 [] s

/-- Bit `n` of a set of ports. -/
def inPorts (m : BitVec 64) (n : Nat) : Bool := m.getLsbD n

/-! ### Flush -/

/-- Packets whose last cell is among cells of the replay window or still to be sent. -/
def lastMarks (cs : List (Cell64 × Bool)) : Nat := (cs.filter (·.2)).length

/-- Packets that a flush of port `n` discards (R72). -/
def flushCount (s : State) (n : Nat) : Nat :=
  let p := port s n
  (queuedAt s n).length + lastMarks p.rp.window + lastMarks p.rp.txq + b2n (outp s n).hold

/-- The packet in reception at port `n` cannot be completed: stomped where its transmission onward has begun, discarded
where it has not (R56, R72); the cells accepted are credited. Packets already received stay. -/
def cutReception (n : Nat) (s : State) : State :=
  let p := port s n
  if p.rp.rxLeft = 0 then s else
  let (out, stay) := s.net.voq.partition (fun h => h.inp == n && !h.whole)
  let s := { s with net.voq := stay }
  let s := out.foldl (fun s h => if clsOf h.pkt = 2 then backlogSub h.out (lenOf h.pkt) s else s) s
  let s := (List.range 73).foldl (fun s o =>
    match (outp s o).busy with
    | some h => if h.inp = n ∧ !h.whole then (if (outp s o).hold then ungrant o s else stompOut o s) else s
    | none => s) s
  let s := if p.rp.rxCells = [] then s else creditInput n p.rp.rxVc p.rp.rxCells.length s
  updPort n (fun p => { p with rp := { p.rp with rxCells := [], rxLeft := 0, rx := p.rp.rx.filter (·.whole) } }) s

/-- The packet that output `n` carries goes no further; the cells of one that still arrives are freed at its end (R59). -/
def cutTx (n : Nat) (s : State) : State :=
  match (outp s n).busy with
  | some h => endTx n (if h.whole then s else dropRx h.inp s)
  | none => s

/-- Flush of port `n` (R72). -/
def flushPort (n : Nat) (s : State) : State :=
  let k := flushCount s n
  let s := if k = 0 then s else count (prtCtr n 11) k s
  let s := cutReception n (dropQueued (fun h => h.out == n) s)
  let s := cutTx n s
  let s := updPort n (fun p => { p with
    cr := { p.cr with due := 0, sync := false }
    rp := { rx := p.rp.rx }
    wd := { p.wd with txSwitch := none, rxSwitch := none, widthNext := false } }) s
  breakEdge n s

/-! ### Training -/

/-- Lane mask with which a width trains. -/
def fullMask (w : Nat) : BitVec 4 := if w = 0 then 1 else if w = 1 then 3 else 0xF

/-- Starts a training in the present state: a quick retrain needs valid coefficients (R79). -/
def startTrain (full : Bool) (p : Port) : Port :=
  { p with tr := { p.tr with
      train := if full || !p.tr.coef then .full else .quick, locked := false, goodRun := 0, badRun := 0, identOk := false } }

/-- Full training from rest, at MAX_WIDTH and RATE (R69, R87). -/
def enterTraining (n : Nat) (s : State) : State :=
  let w := rwsF s (prtBase n) 0 2
  updPort n (fun p => { p with
    st := .training, width := BitVec.ofNat 2 w, mask := fullMask w, rxMask := fullMask w, rate := rwsF s (prtBase n) 2 1 == 1,
    tr := { coef := p.tr.coef, train := .full } }) s

/-- The port has reached FAILED: its commands are answered TIMED_OUT, and so is a QUARANTINE that names it (R411,
R468). -/
def portFailed (n : Nat) (s : State) : State :=
  let s := endPortCmds n stTimedOut s
  match s.net.graft.quarCmd with
  | some q =>
    if inPorts q.ports n then
      endCmds (fun r => r == q.req) stTimedOut 0 n [] { s with net.graft.quarCmd := none }
    else s
  | none => s

/-- A QUARANTINE that names a port taken out of training ends (R411's rule for port commands). -/
def quarOvertaken (n : Nat) (s : State) : State :=
  match s.net.graft.quarCmd with
  | some q =>
    if inPorts q.ports n ∧ !(port s n).gr.mism then
      endCmds (fun r => r == q.req) stSuperseded 0 n [] { s with net.graft.quarCmd := none }
    else s
  | none => s

/-- The port leaves UP (R172). -/
def leaveUp (n : Nat) (s : State) : State := if (port s n).st = .up then asdCause n 0 s else s

/-- The packets that input `n` holds count no more for its link, whose credit counts begin at zero again (R60; DEDUCED,
log 105). -/
def uncredit (n : Nat) (s : State) : State :=
  updPort n (fun p => { p with rp := { p.rp with rx := p.rp.rx.map (fun e => { e with vc := 16 }) } })
    { s with net.voq := s.net.voq.map (fun h => if h.inp = n then { h with inVc := 16 } else h) }

/-- A port leaves GRACE: the drain clock of R116 counts from here. -/
def leftGrace (n : Nat) (s : State) : State :=
  updPort n (fun p => { p with gr := { p.gr with graceLeft := some s.time.now } }) s
/-- A port that is taken out of GRACE from outside has left it too. -/
def outOfGrace (n : Nat) (s : State) : State := if (port s n).st = .grace then leftGrace n s else s

/-- PORT_DISABLE's action (R69): flush, electrical idle, and the credit and sequence counts begin again when the port
leaves DISABLED. -/
def disablePort (n : Nat) (s : State) : State :=
  if (port s n).st = .disabled then s else
  let s := outOfGrace n (leaveUp n s)
  let s := uncredit n (raise n 2 (flushPort n s))
  let s := updPort n (fun p => { p with
    st := .disabled, width := 0, mask := 0, rxMask := 0, rate := false, tr := { coef := p.tr.coef }, cr := {}, wd := {},
    tm := { p.tm with out := [] } }) s
  quarOvertaken n (endPortCmds n stSuperseded s)

/-- A fence of the port (R69). What has come in and has not been routed is dropped with the input, and counted (R131). -/
def fencePort (n : Nat) (s : State) : State :=
  let s := asdCause n 0 (outOfGrace n s)
  let s := fenceDrops ((port s n).rp.rx.filter (fun e => !e.arrived)).length s
  let s := raise n 2 (flushPort n s)
  let s := (port s n).rp.rx.foldl (fun s e => creditInput n e.vc e.n s) s
  let s := updPort n (fun p => { p with st := .fenced, tr := { coef := p.tr.coef }, wd := {}, rp := { p.rp with rx := [] } }) s
  quarOvertaken n (endPortCmds n stSuperseded s)

/-- The end of a port's fence: full training, or DISABLED where the domain is not ON (R69, R457), from which the credit counts
begin at zero (R60). -/
def unfencePort (n : Nat) (s : State) : State :=
  if (port s n).st ≠ .fenced then s
  else if domOn s (dPort n) then enterTraining n s
  else uncredit n (updPort n (fun p => { p with st := .disabled, width := 0, mask := 0, rxMask := 0, rate := false, cr := {} }) s)

/-! ### Failure and grace -/

/-- The port leaves GRACE without recovery (R69, R72). -/
def graceLost (n : Nat) (s : State) : State :=
  if (port s n).st ≠ .grace then s else
  let s := leftGrace n (flushPort n s)
  if rwsF s (prtBase n) 4 1 = 1 then
    updPort n (fun p => { p with st := .training, tr := { p.tr with
      train := if p.tr.train = .none then .full else p.tr.train, locked := false, goodRun := 0, badRun := 0,
      identOk := false, syncGot := 0, keyGot := false } }) s
  else portFailed n (updPort n (fun p => { p with st := .failed, tr := { coef := p.tr.coef } }) s)

/-- The grace period ends without recovery: FLUSH (R69, R89). -/
def graceEnd (n : Nat) (s : State) : State := if (port s n).st ≠ .grace then s else graceLost n (raise n 2 s)

/-- A link failure in UP (R70, R71): the training that a retrain names, else a quick retrain if AUTO_RETRAIN. A drained
port goes straight to DISABLED (R471), with neither event nor (DESIGN CHOICE, log 112) a count in LINK_FAILURES. The port's own
width request stays outstanding, even after its command has been answered, and is sent again in the next UP (DESIGN CHOICE, log
150); GOSSIP words that wait for a group stay too, under their ROUND (DESIGN CHOICE, log 151). -/
def linkFailure (n : Nat) (full : Option Bool) (s : State) : State :=
  let p := port s n
  if p.st ≠ .up then s
  else if p.gr.drained then
    let s := uncredit n (leaveUp n (flushPort n s))
    endPortCmds n stSuperseded
      (updPort n (fun p => { p with
        st := .disabled, width := 0, mask := 0, rxMask := 0, rate := false, tr := { coef := p.tr.coef }, cr := {}, wd := {} }) s)
  else
    let s := raise n 1 (inc (prtCtr n 16) (leaveUp n s))
    let own := match p.wd.own with
      | some o => if o.retrain then some o.full else none
      | none => none
    let start : Option Bool := match full, own with
      | some f, _ => some f
      | none, some f => some f
      | none, none => if rwsF s (prtBase n) 4 1 = 1 then some false else none
    let s := updPort n (fun p =>
      let p := { p with
        st := .grace
        tr := { p.tr with train := .none, locked := false, goodRun := 0, badRun := 0, identOk := false }
        rp := { p.rp with resend := none, heard := false, retries := 0, nakAt := none, nakDue := false, ackDue := false }
        wd := { p.wd with own := if own.isSome then none else p.wd.own, txSwitch := none, rxSwitch := none, widthNext := false } }
      match start with
      | some f => startTrain f p
      | none => p) s
    if rwsF s (prtBase n + 4) 0 14 = 0 then graceEnd n s else s

/-- Spilled cells of a port are unreadable (R67, R68): the link fails and flushes at once. No grace period has expired, so
FLUSH is not raised (R89). -/
def spillLost (n : Nat) (s : State) : State :=
  let s := raise n 0x10 (inc (prtCtr n 15) s)
  graceLost n (linkFailure n none s)

/-- A port holds unacknowledged cells in its spill region (R64). -/
def hasSpilled (s : State) (n : Nat) : Bool := (port s n).spill && decide (4096 < (port s n).rp.window.length)

/-! ### Reaching UP -/

/-- Every port of a QUARANTINE is UP: OK (R468). -/
def quarDone (s : State) : State :=
  match s.net.graft.quarCmd with
  | some q =>
    if (List.range 64).all (fun m => !inPorts q.ports m || (port s m).st = .up) then
      endCmds (fun r => r == q.req) stOk 0 0 [] { s with net.graft.quarCmd := none }
    else if (List.range 64).all (fun m => !inPorts q.ports m || (port s m).st = .up || (port s m).gr.mism) then
      { s with net.graft.quarCmd := none }
    else s
  | none => s

/-- The PEERS test of a QUARANTINE at a port that has reached UP (R468). -/
def quarCheck (n : Nat) (s : State) : State :=
  match s.net.graft.quarCmd with
  | none => s
  | some q =>
    if !inPorts q.ports n then s
    else
      let p := port s n
      let bad := q.peers.any (fun w => fld w 0 6 == n && bitW w 31
        && (fld w 6 6 != p.peer.port.toNat || fld w 12 18 != p.peer.eid.toNat))
      if bad then
        let s := disablePort n (updPort n (fun p => { p with gr := { p.gr with mism := true } }) s)
        if q.replied then quarDone s
        else quarDone (endCmds (fun r => r == q.req) stCheckFailed 7 n []
          { s with net.graft.quarCmd := some { q with replied := true } })
      else quarDone s

/-- The port reaches UP (R69); from GRACE it replays from the partner's expected CSN. That replay is not counted in
REPLAY_EVENTS, which counts what a NAK or a timeout orders (DESIGN CHOICE, log 113). -/
def portUp (n : Nat) (s : State) : State :=
  let wasGrace := (port s n).st = .grace
  let s := if wasGrace then leftGrace n s else s
  let s := updPort n (fun p => { p with
    st := .up
    peer := { p.peer with bad := false }
    rp := { p.rp with resend := if p.rp.window = [] then none else some 0, retries := 0, nakAt := none } }) s
  quarCheck n (endCmds (portCmd n) stOk 0 0 [] s)

/-- PRT_CFG.GCM_EN asks for KEY_SYNC before UP (R69). -/
def mayUp (s : State) (n : Nat) : Bool :=
  let p := port s n
  p.tr.identOk && (p.st = .grace || (p.tr.syncGot == 0xF && (!gcmEn s n || p.tr.keyGot)))

/-! ### Timers of training -/

def effTrainingDone (n : Nat) (s : State) : State :=
  let p := port s n
  let done (p : Port) : Port :=
    { p with tr := { p.tr with train := .none, coef := true, lanes := p.mask, goodRun := 0, badRun := 0, locked := false } }
  if p.st = .training then updPort n (fun p => { done p with st := .locking }) s
  else if p.st = .grace ∧ p.tr.train ≠ .none then updPort n done s
  else s

def effTrainTimeout (n : Nat) (s : State) : State :=
  if (port s n).st = .training then
    portFailed n (raise n 4 (updPort n (fun p => { p with st := .failed, tr := {} }) s))
  else s

def effLockTimeout (n : Nat) (s : State) : State :=
  if (port s n).st = .locking then updPort n (fun p => startTrain true { p with st := .training }) s else s

def effQuickRetrainFail (n : Nat) (s : State) : State :=
  if (port s n).st = .grace ∧ (port s n).tr.train = .quick then updPort n (startTrain true) s else s

def effGraceExpire (n : Nat) (s : State) : State := graceEnd n s

/-- WIDTH_RELOCK_TIMEOUT (R75). -/
def effWidthRelockTimeout (n : Nat) (s : State) : State :=
  if (port s n).wd.rxSwitch.isSome ∧ !(port s n).tr.locked then linkFailure n none s else s

def effSpillStopDone (n : Nat) (s : State) : State :=
  let p := port s n
  if p.spillStop ∧ unackedCells p ≤ 4096 then
    endHeld (updPort n (fun p => { p with spill := false, spillStop := false }) s)
  else s

/-- KEY_SWITCH (R82, R387): the new slot's first packet begins a group. A packet that R128 holds has not begun under the old
one. -/
def effKeySwitch (n : Nat) (s : State) : State :=
  let p := port s n
  match p.keySwitch with
  | some k =>
    if p.rp.window = [] ∧ p.rp.txq = [] ∧ ((outp s n).busy = none ∨ (outp s n).hold) then
      updPort n (fun p => { p with kpTx := k, keySwitch := none }) s
    else s
  | none => s

/-! ### Width and retrain requests -/

/-- Queues a link word for the next group. Its LW_CRC, and the times that R84 takes at transmission, are filled in there. -/
def sendLw (n ty : Nat) (fs : List (Nat × Nat × Nat)) (s : State) : State :=
  updPort n (fun p => { p with rp := { p.rp with words := p.rp.words ++ [mkLw ty fs] } }) s

/-- NODE_EID and PORT of a request word (R73). -/
def lwIdent (s : State) (n : Nat) : List (Nat × Nat × Nat) := [(24, 18, (nodeEid s).toNat), (42, 8, n)]

/-- Sends the word of the port's own request. -/
def sendOwn (n : Nat) (o : LinkReq) (s : State) : State :=
  if o.retrain then sendLw n 0x13 ([(8, 8, o.id.toNat), (16, 1, b2n o.full)] ++ lwIdent s n) s
  else sendLw n 0x10 ([(8, 8, o.id.toNat), (16, 2, o.width.toNat), (20, 4, o.mask.toNat)] ++ lwIdent s n) s

/-- Begins a request of the port's own (R76). -/
def newOwn (n : Nat) (o : LinkReq) (s : State) : State :=
  let o := { o with id := (port s n).wd.nextReq }
  sendOwn n o (updPort n (fun p => { p with wd := { p.wd with own := some o, nextReq := p.wd.nextReq + 1 } }) s)

/-- Valid lane masks of a width (R74). -/
def maskOk (w : Nat) (m : BitVec 4) : Bool :=
  (w == 2 && m == 0xF) || (w == 1 && (m == 3 || m == 0xC)) || (w == 0 && (m == 1 || m == 2 || m == 4 || m == 8))

/-- Agrees a width: the transmitter may switch 64 FCLK cycles after the acknowledgement has come (requester, from `t`) or has
been sent (responder) (R75). -/
def agreeWidth (n : Nat) (w : BitVec 2) (m : BitVec 4) (t : Option Nat) (s : State) : State :=
  updPort n (fun p => { p with wd := { p.wd with txSwitch := some (w, m, t), rxSwitch := some (w, m) } }) s
/-- The 64 FCLK cycles of R75, 21.3 ns, in whole ns. -/
def switchDelay : Nat := 22

/-- Answers a WIDTH_REQ that stands alone (R73, R75). -/
def answerWidth (n id : Nat) (w : Nat) (m : BitVec 4) (s : State) : State :=
  let nak (r : Nat) : State := sendLw n 0x12 [(8, 8, id), (16, 4, r)] s
  if w = 3 then nak 2
  else if rwsF s (prtBase n) 0 2 < w then nak 1
  else if !maskOk w m then nak 2
  else if m &&& ~~~ (port s n).tr.lanes ≠ 0 then nak 3
  else agreeWidth n (BitVec.ofNat 2 w) m none (sendLw n 0x11 [(8, 8, id), (16, 2, w), (20, 4, m.toNat)] s)

/-- Acknowledges a RETRAIN_REQ; the link fails once the word has been sent (R79). -/
def answerRetrain (n id : Nat) (full : Bool) (s : State) : State := sendLw n 0x14 [(8, 8, id), (16, 1, b2n full)] s

/-- A request that meets the port's own (R77): some true when the partner's wins, some false when the own one does, none
when R77's rule 5 applies. -/
def partnerWins (o : LinkReq) (own : Nat × Nat) (retrain full : Bool) (width : Nat) (theirs : Nat × Nat) : Option Bool :=
  if o.retrain ≠ retrain then some retrain
  else if retrain ∧ o.full ≠ full then some full
  else if !retrain ∧ o.width.toNat ≠ width then some (decide (width < o.width.toNat))
  else if own.1 < theirs.1 ∨ (own.1 = theirs.1 ∧ own.2 < theirs.2) then some true
  else if own = theirs then none
  else some false

/-- Drops the port's own request; its command ends with a status. -/
def dropOwn (n st : Nat) (o : LinkReq) (s : State) : State :=
  endCmds (if o.retrain then portCmd n else widthCmd n) st 0 0 []
    (updPort n (fun p => { p with wd := { p.wd with own := none } }) s)

/-- A WIDTH_REQ or RETRAIN_REQ of the partner (R75 to R77). -/
def partnerReq (n : Nat) (w : LinkWord) (s : State) : State :=
  let retrain := lwF w 0 8 == 0x13
  let id := lwF w 8 8
  let full := lwF w 16 1 == 1
  let width := lwF w 16 2
  let answer (s : State) : State :=
    if retrain then answerRetrain n id full s else answerWidth n id width (BitVec.ofNat 4 (lwF w 20 4)) s
  if (port s n).st ≠ .up then s else
  match (port s n).wd.own with
  | none => answer s
  | some o =>
    match partnerWins o ((nodeEid s).toNat, n) retrain full width (lwF w 24 18, lwF w 42 8) with
    | some true => answer (dropOwn n stSuperseded o s)
    | some false => s
    | none =>
      if retrain then answer s
      else sendLw n 0x12 [(8, 8, id), (16, 4, 4)] (dropOwn n stNotPermitted o s)

/-- WIDTH_ACK, WIDTH_NAK and RETRAIN_ACK: the answer to the port's own request (R75, R79). -/
def ownAnswer (n : Nat) (w : LinkWord) (s : State) : State :=
  match (port s n).wd.own with
  | none => s
  | some o =>
    let ty := lwF w 0 8
    if (port s n).st ≠ .up ∨ lwF w 8 8 ≠ o.id.toNat ∨ (ty = 0x14) ≠ (o.retrain = true) then s
    else if ty = 0x14 then linkFailure n (some o.full) (updPort n (fun p => { p with wd := { p.wd with own := none } }) s)
    else if ty = 0x11 then agreeWidth n o.width o.mask (some (s.time.now + switchDelay)) (dropOwn n stOk o s)
    else dropOwn n stNotPermitted o s

/-- WIDTH_REQ_RESEND (R76). -/
def effWidthReqResend (n : Nat) (s : State) : State :=
  match (port s n).wd.own with
  | none => s
  | some o =>
    if (port s n).st ≠ .up then s
    else if o.sends < 4 then
      sendOwn n o (updPort n (fun p => { p with wd := { p.wd with own := some { o with sends := o.sends + 1 } } }) s)
    else if o.retrain then linkFailure n (some o.full) s
    else linkFailure n none (dropOwn n stSuperseded o s)

/-- WIDTH_SWITCH (R75): the group with WIDTH_NEXT has been sent. Narrowing is a cause of R172. -/
def effWidthSwitch (n : Nat) (s : State) : State :=
  let p := port s n
  match p.wd.txSwitch with
  | some (w, m, _) =>
    if p.wd.widthNext then
      let s := updPort n (fun p => { p with width := w, mask := m, wd := { p.wd with txSwitch := none, widthNext := false } }) s
      let s := if w.toNat < p.width.toNat then asdCause n 1 s else s
      raise n 0x20 s
    else s
  | none => s

/-- The widest valid mask without a lane, among the lanes that are trained, no wider than `w` (R78). -/
def narrower (w : Nat) (mask lanes : BitVec 4) (lane : Nat) : Option (Nat × BitVec 4) :=
  let ok (m : BitVec 4) : Bool := !m.getLsbD lane && (m &&& ~~~ lanes) == 0
  let pairs : List (Nat × BitVec 4) := [(1, 3), (1, 0xC)]
  let ones : List (Nat × BitVec 4) := [(0, 1), (0, 2), (0, 4), (0, 8)]
  let cands := (if 1 ≤ w then pairs else []) ++ ones.filter (fun c => (c.2 &&& ~~~ mask) == 0) ++ ones
  cands.find? (fun c => ok c.2)

/-- LANE_DEGRADE (R78). While a request of the port's own is outstanding none is made, then or later (DESIGN CHOICE, log
114). -/
def effLaneDegrade (n lane : Nat) (s : State) : State :=
  let p := port s n
  if p.st ≠ .up ∨ rwsF s (prtBase n) 5 1 = 0 ∨ p.wd.own.isSome ∨ !p.mask.getLsbD lane then s
  else match narrower p.width.toNat p.mask p.tr.lanes lane with
    | some (w, m) => newOwn n { width := BitVec.ofNat 2 w, mask := m } s
    | none => s

/-! ### Port commands -/

def pcPort (r : GcpReq) : Nat := fAt r.words 5 0 6

/-- The test that port commands share (R411). -/
def portBarred (s : State) (n : Nat) : Bool := fenced s n || !domOn s (dPort n)

/-- Full training from DISABLED or FAILED, or joining one in progress (R411). -/
def joinTraining (n : Nat) (r : GcpReq) (s : State) : State :=
  let st := (port s n).st
  if st = .disabled ∨ st = .failed then hold r (enterTraining n s) else hold r s

def effPortEnable (r : GcpReq) (s : State) : State :=
  gcp .none false r (fun s =>
    let n := pcPort r
    if portBarred s n then fail r stUnitFenced s
    else if (Maps.get {} s.net.boughs (n / 4)).refreshing then fail r stBusy s
    else if (port s n).st = .up then ok r [] s
    else joinTraining n r s) s

def effPortDisable (r : GcpReq) (s : State) : State :=
  gcp .none false r (fun s =>
    let n := pcPort r
    if !domOn s (dPort n) then ok r [] s
    else if fenced s n then fail r stUnitFenced s
    else ok r [] (disablePort n s)) s

def effPortTrain (r : GcpReq) (s : State) : State :=
  gcp .none false r (fun s =>
    let n := pcPort r
    let full := bAt r.words 5 8
    let p := port s n
    if portBarred s n then fail r stUnitFenced s
    else if p.st = .up then
      if p.wd.own.isSome then fail r stBusy s
      else newOwn n { retrain := true, full := full } (hold r s)
    else if p.st = .grace then
      hold r (if p.tr.train = .none then updPort n (startTrain full) s else s)
    else joinTraining n r s) s

/-- PORT_WIDTH (R74). -/
def effPortWidth (r : GcpReq) (s : State) : State :=
  gcp .none false r (fun s =>
    let n := pcPort r
    let w := fAt r.words 5 8 2
    let m := BitVec.ofNat 4 (fAt r.words 5 12 4)
    if portBarred s n then fail r stUnitFenced s
    else if rwsF s (prtBase n) 0 2 < w ∨ !maskOk w m then fail r stBadParam s
    else if (port s n).wd.own.isSome then fail r stBusy s
    else if (port s n).st ≠ .up then fail r stNotPermitted s
    else newOwn n { width := BitVec.ofNat 2 w, mask := m } (hold r s)) s

/-- R69's encoding of a port's state. -/
def portCode : PortState → Nat
  | .disabled => 0 | .training => 1 | .locking => 2 | .ident => 3 | .up => 4 | .grace => 5 | .failed => 6 | .fenced => 7

/-- The window, and nothing else, stops the port (R64): it sends nothing, nothing may be granted, and for some head of its
queues only the window is in the way. -/
def winLimited (s : State) (n : Nat) : Bool :=
  let p := port s n
  p.st = .up && (outp s n).busy.isNone && (eligible s n).isEmpty && (heads (queuedAt s n) []).any (fun h =>
    keyOk s n && maySend p h.vc (lenOf h.pkt) && decide (windowOf s n < unackedCells p + lenOf h.pkt))

/-- PRT_STATUS, PRT_PEER, PRT_LOOP, PRT_PATH and PRT_OFFSET (R87). -/
def portRegs (s : State) (n : Nat) : List Word :=
  let p := port s n
  [pack [(0, 4, portCode p.st), (4, 2, p.width.toNat), (6, 4, p.mask.toNat), (10, 1, b2n p.rate), (11, 1, b2n (spillOn s n)),
     (12, 1, b2n (winLimited s n)), (13, 1, b2n p.kpTx), (14, 1, b2n p.kpRx), (15, 1, b2n p.peer.bad)],
   pack [(0, 18, p.peer.eid.toNat), (18, 8, p.peer.port.toNat)], p.tm.loop, p.tm.path, p.tm.offset]

def effPortStatus (r : GcpReq) (s : State) : State := gcp .none false r (fun s => ok r (portRegs s (pcPort r)) s) s

end Sys2Proof.Machine
end

