-- ==== Sys2Proof/Machine/Group.lean ====
section
/-! DEFINITION. Codeword groups (R47 to R63): reception and transmission, every link word (R53), and the timers of time
exchange, identity and gossip (R83 to R86). -/

namespace Sys2Proof.Machine

/-! ### Gossip levels -/

/-- Occupancy of a network port (R104). -/
def occupancy (s : State) (n : Nat) : Nat :=
  sumN ((queuedAt s n).map (cellsHeld s)) + sumN ((List.range 16).map (usedVc (port s n).cr))

/-- The LEVEL that GOSSIP carries for a port (R86, R104). -/
def gossipLevel (s : State) (n : Nat) : Nat :=
  if (port s n).st ≠ .up ∨ fenced s n then 0xF else min 14 (occupancy s n >>> rwsF s 0x104 8 4)

/-! ### Windows of 1 ms -/

/-- Counts uncorrectable codewords, LW_CRCERR, LW_BADTYPE and corrected symbols of the present 1 ms window (R78, R89). A
cause that is cleared within its window is raised again at the next group or bad word while its count stays above the limit
(DESIGN CHOICE, log 152). -/
def winAdd (n cw lw bt : Nat) (sym : List Nat) (s : State) : State :=
  let s := updPort n (fun p =>
    let w := if p.win.start + 1000000 ≤ s.time.now then { p.win with start := s.time.now, cw := 0, lw := 0, bt := 0, lane := [] }
      else p.win
    let lane := (List.range 4).foldl (fun m i => Maps.upd 0 m i (fun c => c + sym.getD i 0)) w.lane
    { p with win := { w with cw := w.cw + cw, lw := w.lw + lw, bt := w.bt + bt, lane := lane } }) s
  let w := (port s n).win
  let laneOver := (List.range 4).any (fun i => decide ((rws s (prtBase n + 0x10)).toNat < Maps.get 0 w.lane i))
  let bits := (if 1024 < w.cw then 0x10000 else 0) + (if laneOver then 0x20000 else 0) + (if 64 < w.lw ∨ 64 < w.bt then 0x80000 else 0)
  if bits = 0 then s else raise (64 + n) bits s

/-! ### Replay -/

/-- Asks for a REPLAY_NAK of the expected CSN, once until a cell is accepted or 4 LOOP_NS have passed (R62). -/
def wantNak (n : Nat) (s : State) : State :=
  let p := port s n
  let again := match p.rp.nakAt with
    | none => true
    | some t => decide (t + 4 * (p.tm.loop.toNat / 16) ≤ s.time.now)
  if again then updPort n (fun p => { p with rp := { p.rp with nakDue := true, nakAt := some s.time.now } }) s else s

/-- Retransmits from the oldest unacknowledged cell; the ninth in a row without progress fails the link (R63). -/
def retransmit (n : Nat) (s : State) : State :=
  let p := port s n
  if p.st ≠ .up ∨ p.rp.window = [] then s
  else if 8 ≤ p.rp.retries then linkFailure n none s
  else inc (prtCtr n 7) (updPort n (fun p => { p with rp := { p.rp with resend := some 0, heard := true, retries := p.rp.retries + 1 } }) s)

def effReplayTimeout (n : Nat) (s : State) : State := retransmit n s

/-- CSN of the oldest unacknowledged cell. -/
def oldestCsn (p : Port) : Nat := modSub 18 p.rp.txCsn.toNat p.rp.window.length

/-- Releases the cells before a CSN that the partner names (R61, R63): its expected CSN is known from here on (R69). -/
def release (n csn : Nat) (s : State) : State :=
  let p := port s n
  let k := modSub 18 csn (oldestCsn p)
  if p.rp.window.length < k then s
  else updPort n (fun p => { p with rp := { p.rp with
    heard := true, window := p.rp.window.drop k, retries := if k = 0 then p.rp.retries else 0,
    resend := p.rp.resend.map (fun r => r - k) } }) s

/-! ### Link words received -/

/-- IDENT and KEY_SYNC as the port sends them (R82, R83). -/
def identWord (s : State) (n : Nat) : LinkWord :=
  mkLw 0x50 [(8, 8, n), (16, 18, (nodeEid s).toNat), (36, 16, 8192), (52, 8, 68), (64, 1, b2n s.grade425), (65, 1, 1),
    (66, 1, 1), (72, 8, 1)]
/-- The counter is that of the first packet that the partner need not have received whole: it differs from the next new
packet's only while cells are unacknowledged (R42; DEDUCED, log 118). -/
def keySyncWord (s : State) (n : Nat) : LinkWord :=
  let p := port s n
  let sl := b2n p.kpTx
  mkLw 0x40 [(8, 1, sl), (16, 64, (linkKey s n 0 sl).ctr - lastMarks (p.rp.window ++ p.rp.txq))]
/-- The identity words of a port: IDENT, and KEY_SYNC under link encryption (R83). -/
def identWords (s : State) (n : Nat) : List LinkWord := identWord s n :: (if gcmEn s n then [keySyncWord s n] else [])
def isIdent (w : LinkWord) : Bool := lwF w 0 8 == 0x50 || lwF w 0 8 == 0x40

/-- The partner has flushed or started again while this end held its link state: this end's counts restart too (R72, R60;
DEDUCED, log 106). FLUSH is not raised: R89 gives it to grace, disable and fence. -/
def partnerRestart (n : Nat) (s : State) : State :=
  let ws := (port s n).rp.words.filter (fun w => !isIdent w) ++ identWords s n
  updPort n (fun p => { p with rp := { p.rp with words := ws }, cr := { p.cr with sync := true, due := 0xF } }) (flushPort n s)

/-- CREDIT and CREDIT_SYNC (R59, R60). After a link failure, a CREDIT_SYNC from a partner that had acknowledged a data
cell says that it has restarted. The cells of a packet that is granted and not yet sent count beyond those accepted. -/
def rxCredit (n : Nat) (w : LinkWord) (s : State) : State :=
  let g := lwF w 8 2
  let put (m : TMap (BitVec 24)) : TMap (BitVec 24) :=
    (List.range 4).foldl (fun m i => Maps.put 0 m (4 * g + i) (BitVec.ofNat 24 (lwF w (16 + 24 * i) 24))) m
  let p := port s n
  if lwF w 0 8 = 1 then updPort n (fun p => { p with cr := { p.cr with freed := put p.cr.freed } }) s
  else
    let s := if (p.st = .up ∨ p.st = .grace) ∧ !p.rp.heard ∧ oldestCsn p ≠ 0 then partnerRestart n s else s
    let p := port s n
    let fresh := p.rp.window = [] ∧ p.rp.txq = [] ∧ p.rp.txCsn = 0
    let s := updPort n (fun p => { p with tr := { p.tr with syncGot := p.tr.syncGot ||| BitVec.ofNat 4 (2 ^ g) } }) s
    let granted (m : TMap (BitVec 24)) : TMap (BitVec 24) := match (outp s n).busy with
      | some h => if h.vc / 4 = g then Maps.upd 0 m h.vc (fun x => x + BitVec.ofNat 24 (lenOf h.pkt)) else m
      | none => m
    if p.st = .ident ∨ fresh then updPort n (fun p => { p with cr := { p.cr with sent := granted (put p.cr.sent) } }) s else s

/-- IDENT (R69, R83). In UP only a changed partner has an effect; an IDENT that is invalid otherwise is ignored there (DESIGN
CHOICE, log 117). -/
def rxIdent (n : Nat) (w : LinkWord) (s : State) : State :=
  let p := port s n
  let eid : Eid := BitVec.ofNat 18 (lwF w 16 18)
  let pn := BitVec.ofNat 8 (lwF w 8 8)
  let formed := lwF w 72 8 = 1 ∧ 68 ≤ lwF w 52 8 ∧ 16 * lwF w 52 8 ≤ lwF w 36 16
  let same := eid = p.peer.eid ∧ pn = p.peer.port
  let isBad (s : State) : State := raise n 8 (updPort n (fun p => { p with peer := { p.peer with bad := true } }) s)
  match p.st with
  | .ident =>
    let s := updPort n (fun p => { p with peer := { p.peer with eid := eid, port := pn } }) s
    if formed then
      updPort n (fun p => { p with
        peer := { p.peer with pool := lwF w 36 16, reserve := lwF w 52 8, caps := BitVec.ofNat 3 (lwF w 64 3), bad := false }
        tr := { p.tr with identOk := true } }) s
    else isBad s
  | .grace => if formed ∧ same then updPort n (fun p => { p with tr := { p.tr with identOk := true } }) s else isBad s
  | .up => if same then s else linkFailure n none (isBad s)
  | _ => s

/-- KEY_SYNC (R82). Once a cell has been accepted since the start or the flush, the receiver's own count stands: cells that are
replayed bear the counters that they had (R42, R81; DEDUCED, log 118). -/
def rxKeySync (n : Nat) (w : LinkWord) (s : State) : State :=
  let sl := lwF w 8 1
  let s := meetKey n 1 sl s
  let k := linkKey s n 1 sl
  let fresh := (port s n).cr.sync
  let s := updPort n (fun p => { p with kpRx := if p.rp.rxLeft = 0 then sl == 1 else p.kpRx, tr := { p.tr with keyGot := true } }) s
  if k.valid ∧ fresh then setLinkKey n 1 sl { k with ctr := lwF w 16 64 } s else s

/-- Signed difference of two 80-bit times. -/
def diff80 (a b : Nat) : Int := sext 80 (modSub 80 a b)

/-- TIME_RESP (R85). -/
def rxTimeResp (n : Nat) (w : LinkWord) (s : State) : State :=
  match Maps.find? (port s n).tm.out (lwF w 8 8) with
  | none => s
  | some t1 =>
    let t2 := lwF w 32 80
    let t3 := t2 + lwF w 16 16 * 4096
    let t4 := stamp s
    let fwd := diff80 t2 t1.toNat
    let back := diff80 t4 t3
    let off := (back - fwd) * 1000 - sext 16 (rwsF s (prtBase n + 0xC) 16 16) * 131072
    let s := updPort n (fun p => { p with tm := { p.tm with
      out := Maps.erase (lwF w 8 8) p.tm.out, last := some s.time.now, loop := wInt ((diff80 t4 t1.toNat).tdiv 4096),
      path := wInt ((fwd + back).tdiv 8192), offset := wInt (off.tdiv (offUnit / 16)) } }) s
    if rwsF s (prtBase n) 8 2 = 2 then applyOffset n off s else s

/-- GOSSIP (R86): a round counts once all four parts have come. -/
def rxGossip (n : Nat) (w : LinkWord) (s : State) : State :=
  let part := lwF w 8 2
  let r := BitVec.ofNat 8 (lwF w 16 8)
  updPort n (fun p =>
    let t := if p.tm.gRound = r ∧ p.tm.gParts ≠ 0 then p.tm else { p.tm with gRound := r, gParts := 0, gTmp := 0 }
    let parts := t.gParts ||| BitVec.ofNat 4 (2 ^ part)
    let tmp := t.gTmp ||| BitVec.ofNat 256 (lwF w 24 64 * 2 ^ (64 * part))
    { p with tm := if parts = 0xF then { t with gParts := 0, gLast := some (r, s.time.now, tmp) }
                   else { t with gParts := parts, gTmp := tmp } }) s

/-- One link word of an accepted group (R52, R53). -/
def rxWord (n : Nat) (w : LinkWord) (s : State) : State :=
  if !lwOk w then winAdd n 0 1 0 [] (inc (prtCtr n 8) s) else
  let s :=
    match lwF w 0 8 with
    | 0x00 => s
    | 0x01 => rxCredit n w s
    | 0x02 => rxCredit n w s
    | 0x03 => release n (lwF w 16 18) s
    | 0x04 => retransmit n (release n (lwF w 16 18) s)
    | 0x10 => partnerReq n w s
    | 0x11 => ownAnswer n w s
    | 0x12 => ownAnswer n w s
    | 0x13 => partnerReq n w s
    | 0x14 => ownAnswer n w s
    | 0x20 => updPort n (fun p => { p with rp := { p.rp with words := p.rp.words ++
        [mkLw 0x21 [(8, 8, lwF w 8 8), (32, 80, stamp s)]] } }) s
    | 0x21 => rxTimeResp n w s
    | 0x30 => rxGossip n w s
    | 0x40 => rxKeySync n w s
    | 0x50 => rxIdent n w s
    | _ => winAdd n 0 0 1 [] (inc (prtCtr n 9) s)
  let p := port s n
  if (p.st = .ident ∨ p.st = .grace) ∧ p.tr.locked ∧ mayUp s n then portUp n s else s

/-! ### Data cells received -/

/-- Deciphers bytes under a receive slot (R80). -/
def decipher (k : LinkKey) (bs : List Byte) : List Byte :=
  gcmCrypt k.key (BitVec.ofNat 96 (k.salt.toNat + k.ctr * 2 ^ 32)) bs

/-- Bytes of a cell. -/
def cellBytes (c : Cell64) : List Byte := leBytes 64 c.toNat

/-- The first cell of a packet, in the clear. -/
def clearCell (s : State) (n : Nat) (c : Cell64) : Cell64 :=
  if gcmEn s n then BitVec.ofNat 512 (leNat (padB 64 (decipher (linkKey s n 1 (b2n (port s n).kpRx)) (cellBytes c)))) else c

/-- The stomping onward of the packet in reception (R56, R81). One that is still to be routed is marked, and goes on
stomped. -/
def stompRx (n : Nat) (s : State) : State :=
  let s := updPort n (fun p => { p with
    rp := { p.rp with rx := p.rp.rx.map (fun e => if e.whole then e else { e with bad := true }) } }) s
  let hit (h : Held) : Bool := h.inp == n && !h.whole
  let s := (s.net.voq.filter hit).foldl (fun s h => stompCount h.out s) s
  let s := { s with net.voq := s.net.voq.map (fun h => if hit h then { h with pkt := stompPkt h.pkt } else h) }
  (List.range 73).foldl (fun s o =>
    match (outp s o).busy with
    | some h => if hit h then stompOut o s else s
    | none => s) s

/-- The tag test of a packet whose last cell has come (R81, R387, R388). -/
def gcmCheck (n : Nat) (cells : List Cell64) (s : State) : State :=
  if !gcmEn s n then s else
  let sl := b2n (port s n).kpRx
  let s := meetKey n 1 sl s
  let k := linkKey s n 1 sl
  if !k.valid then raise 331 1 (stompRx n (inc (hwdCtr 3) (inc (prtCtr n 13) s))) else
  let bs := cells.flatMap cellBytes
  let pt := decipher k (bs.take (bs.length - 16))
  let tag := gcmTag k.key (BitVec.ofNat 96 (k.salt.toNat + k.ctr * 2 ^ 32)) pt
  let s := setLinkKey n 1 sl { k with ctr := k.ctr + 1 } s
  if tag.toNat = leNat (bs.drop (bs.length - 16)) then s
  else linkAuthFail n (inc (prtCtr n 13) (stompRx n s))

/-- The output that carries the packet in reception at a port. -/
def carrying (s : State) (n : Nat) : Option Nat :=
  (List.range 73).find? (fun o => match (outp s o).busy with | some h => h.inp == n && !h.whole | none => false)

/-- All cells of the packet in reception have been accepted. One that is not yet routed waits for its PACKET_ARRIVE. One that
an output carries, or that was dropped, gives its cells back now (R59), and is delivered at an internal output; one still
queued gives them back at its grant. -/
def packetEnd (n : Nat) (s : State) : State :=
  let p := port s n
  let s := gcmCheck n p.rp.rxCells s
  let waits := (port s n).rp.rx.any (fun e => !e.whole && !e.arrived)
  let drop := (port s n).rp.rx.any (fun e => !e.whole && e.drop)
  let s := updPort n (fun p => { p with rp := { p.rp with
    rxCells := [], rxLeft := 0
    rx := if waits then p.rp.rx.map (fun e => { e with whole := true }) else p.rp.rx.filter (·.whole) } }) s
  if waits then s else
  let o := carrying s n
  let s := if drop ∨ o.isSome then creditInput n p.rp.rxVc p.rp.rxCells.length s else s
  let s := { s with net.voq := s.net.voq.map (fun h => if h.inp = n then { h with whole := true } else h) }
  match o with
  | none => s
  | some o =>
    let s := updOut o (fun x => { x with busy := x.busy.map (fun h => { h with whole := true }) }) s
    if 64 ≤ o ∧ !(outp s o).hold then deliverTx o s else s

/-- One data cell with the expected CSN (R54, R55, R58); the flag says that it was accepted. -/
def acceptCell (n : Nat) (c : Cell64) (s : State) : State × Bool :=
  let p := port s n
  let first := p.rp.rxLeft = 0
  let v := (clearCell s n c).toNat
  let len := if first then bitsN v 82 7 else p.rp.rxLeft
  let vc := if first then bitsN v 52 2 * 4 + bitsN v 50 2 else p.rp.rxVc
  if first ∧ (len = 0 ∨ 68 < len) then (wantNak n (inc (prtCtr n 10) s), false)
  else
    let s := updPort n (fun p => { p with
      cr := { p.cr with acc := Maps.upd 0 p.cr.acc vc (fun x => x + 1), sync := false }
      rp := { p.rp with rxCsn := p.rp.rxCsn + 1, nakAt := none, ackDue := true, rxCells := p.rp.rxCells ++ [c],
                        rxLeft := len - 1, rxVc := vc,
                        rx := if first then p.rp.rx ++ [{ n := len, vc := vc }] else p.rp.rx } }) s
    let s := s.net.voq.foldl (fun s h => if h.inp = n ∧ !h.whole then noteDepth h.out (clsOf h.pkt) s else s) s
    let s := match carrying s n with
      | some o => (List.range 4).foldl (fun s c => noteDepth o c s) s
      | none => s
    (if len = 1 then packetEnd n s else s, true)

/-- The data cells of an accepted group, from the CSN of its header (R61, R62). No cell of the group after one with another CSN
is accepted (DESIGN CHOICE, log 115). -/
def acceptCells (n : Nat) : Nat → List Cell64 → State → State
  | _, [], s => s
  | csn, c :: cs, s =>
    if csn ≠ (port s n).rp.rxCsn.toNat then wantNak n s
    else
      let r := acceptCell n c s
      if r.2 then acceptCells n ((csn + 1) % 2 ^ 18) cs r.1 else r.1

/-! ### GROUP_RECEIVE -/

/-- Group lock (R50): four good groups acquire it, sixteen bad ones in a row lose it. While a width switch of the partner
is awaited, the receiver first tries the new width (R75). Lock in LOCKING or GRACE makes the port send its identity (R69,
R83), even where it is UP again before its next group; in GRACE it sends its expected CSN as well (R62). -/
def trackLock (n : Nat) (good : Bool) (s : State) : State :=
  let s := updPort n (fun p => { p with tr := { p.tr with
    goodRun := if good then p.tr.goodRun + 1 else 0, badRun := if good then 0 else p.tr.badRun + 1 } }) s
  let p := port s n
  if !p.tr.locked ∧ 4 ≤ p.tr.goodRun then
    let ws := if p.st = .locking ∨ p.st = .grace then identWords s n else []
    updPort n (fun p =>
      let p := { p with tr := { p.tr with locked := true }, rp := { p.rp with words := p.rp.words ++ ws } }
      if p.st = .locking then
        { p with st := .ident, tr := { p.tr with syncGot := 0, keyGot := false, identOk := false },
                 cr := { p.cr with sync := true, due := 0xF } }
      else { p with rp := { p.rp with ackDue := p.rp.ackDue || p.st = .grace } }) s
  else if p.tr.locked ∧ 16 ≤ p.tr.badRun then
    let s := raise (64 + n) 0x40000 (updPort n (fun p => { p with tr := { p.tr with locked := false } }) s)
    match p.wd.rxSwitch with
    | some x => updPort n (fun p => { p with rxMask := x.2 }) s
    | none => linkFailure n none s
  else s

/-- States in which a port exchanges groups. -/
def grouping (p : Port) : Bool :=
  p.st = .locking || p.st = .ident || p.st = .up || (p.st = .grace && p.tr.train = .none)

/-- A decoded group: its counts, lock (R50), and, where it is accepted (R51), its link words and data cells. A group that is
discarded calls for a replay wherever the port holds lock (R62). Outside UP the data cells of an accepted group are ignored, whatever
their CSN, and call for none (DESIGN CHOICE, log 153). -/
def rxGroup (n : Nat) (g : Group) (s : State) : State :=
  let s := if g.corrected = 0 then s else count (prtCtr n 0) g.corrected s
  let s := if g.uncorr = 0 then s else count (prtCtr n 1) g.uncorr s
  let s := (List.range 4).foldl (fun s i => if g.symCorr.getD i 0 = 0 then s else count (prtCtr n (2 + i)) (g.symCorr.getD i 0) s) s
  let s := winAdd n g.uncorr 0 0 g.symCorr s
  let nc := fld g.hdr 18 6
  let nd := fld g.hdr 24 6
  let bad := !g.decoded || decide (40 < nc + nd)
  let s := trackLock n g.good (if bad then inc (prtCtr n 6) s else s)
  if !grouping (port s n) then s
  else if bad then (if (port s n).tr.locked then wantNak n s else s)
  else if !(port s n).tr.locked then s
  else
    let s := updPort n (fun p => { p with
      wd := if bitW g.hdr 30 then { p.wd with rxSwitch := none } else p.wd
      rxMask := match bitW g.hdr 30, p.wd.rxSwitch with
        | true, some x => x.2
        | _, _ => p.rxMask
      rp := { p.rp with ackGroups := p.rp.ackGroups + 1, ackDue := p.rp.ackDue || decide (32 ≤ p.rp.ackGroups + 1) } }) s
    let s := (g.words.take (4 * nc)).foldl (fun s w => rxWord n w s) s
    if (port s n).st = .up ∧ nd ≠ 0 then
      let s := if gcmEn s n ∧ (port s n).rp.rxLeft = 0 then updPort n (fun p => { p with kpRx := bitW g.hdr 31 }) s else s
      acceptCells n (fld g.hdr 0 18) ((g.cells.drop nc).take nd) s
    else s

/-- The group that four codewords spell to port `n`, and the state once its descrambler has passed over them (R47 to R49). -/
def received (s : State) (n : Nat) (line : List Nat) : Group × State :=
  let d := decodeGroup (port s n).rxMask (port s n).scrRx.toNat line
  (d.1, updPort n (fun p => { p with scrRx := BitVec.ofNat 58 d.2 }) s)

/-- GROUP_RECEIVE: the four codewords of a group, decoded and descrambled (R47 to R51). -/
def effGroupReceive (n : Nat) (line : List Nat) (s : State) : State :=
  if !grouping (port s n) then s else rxGroup n (received s n line).1 (received s n line).2

/-! ### GROUP_TRANSMIT -/

/-- CREDIT or CREDIT_SYNC of a group of VCs (R59). -/
def creditWord (ty : Nat) (m : TMap (BitVec 24)) (g : Nat) : LinkWord :=
  mkLw ty ((8, 2, g) :: (List.range 4).map (fun i => (16 + 24 * i, 24, (Maps.get 0 m (4 * g + i)).toNat)))

/-- The instant of transmission enters T1 of a TIME_REQ and RES of a TIME_RESP; a response later than 4,095 ns is dropped
(R84). -/
def stampWord (t : Nat) (w : LinkWord) : Option LinkWord :=
  if lwF w 0 8 = 0x20 then some (mkLw 0x20 [(8, 8, lwF w 8 8), (32, 80, t)])
  else if lwF w 0 8 = 0x21 then
    let d := modSub 80 t (lwF w 32 80)
    if 4095 * 65536 < d then none
    else some (mkLw 0x21 [(8, 8, lwF w 8 8), (16, 16, d / 4096), (32, 80, lwF w 32 80)])
  else some w

/-- The port sends its identity in every group (R83): in IDENT, and in GRACE from relock on. -/
def introducing (p : Port) : Bool := p.st = .ident || (p.st = .grace && p.tr.locked && !p.tr.identOk)

/-- Link words of the next group, in order, before the queued ones: GOSSIP in a control flit of its own (R86), identity (R83),
CREDIT_SYNC in every group from IDENT on (R60), and, where the port holds lock, what R59 and R62 send. -/
def groupWords (s : State) (n : Nat) : List LinkWord :=
  let p := port s n
  let all := p.cr.sentAt + 900 ≤ s.time.now
  (if p.tr.locked then p.rp.gossip else [])
    ++ (if introducing p then identWords s n else [])
    ++ (if p.cr.sync then (List.range 4).map (creditWord 2 p.cr.acc) else [])
    ++ (if p.tr.locked then
          ((List.range 4).filter (fun g => decide all || p.cr.due.getLsbD g)).map (creditWord 1 p.cr.rfreed)
            ++ (if p.rp.ackDue then [mkLw 3 [(16, 18, p.rp.rxCsn.toNat)]] else [])
            ++ (if p.rp.nakDue then [mkLw 4 [(16, 18, p.rp.rxCsn.toNat)]] else [])
        else [])

/-- How many of `k` cells in a port's replay memory, from a CSN on, can be read (R25). -/
def soundCells (s : State) (n csn k : Nat) : Nat :=
  ((List.range k).find? (fun i => struck s (eccReplay n) ((csn + i) % 2 ^ 18))).getD k

/-- GROUP_TRANSMIT (R49, R59 to R63, R75): control flits, then cells to be resent and new cells in CSN
order. A group that ends with fill, or has no data cell, while a packet is in progress is an underrun (R129). The new cells of
an ASD packet are taken from the credit (R139). -/
def effGroupTransmit (n : Nat) (s : State) : State :=
  let p := port s n
  if !grouping p then s else
  let locked := p.tr.locked
  let own := groupWords s n
  let words := if introducing p then p.rp.words.filter (fun w => !isIdent w) else p.rp.words
  let queue := if locked then words else []
  let room := 160 - own.length
  let sentW := own ++ (queue.take room).filterMap (stampWord (stamp s))
  let nc := (sentW.length + 3) / 4
  let flits := sentW ++ List.replicate (4 * nc - sentW.length) (mkLw 0 [])
  let pos := p.rp.resend.getD p.rp.window.length
  let mayData := mayData p
  let old := p.rp.window.drop pos
  let sound := soundCells s n (modSub 18 (p.rp.txCsn.toNat + pos) p.rp.window.length) old.length
  let data := if !mayData then [] else if sound < old.length then old.take (min sound (40 - nc))
    else (old ++ p.rp.txq.take (txAvail s n)).take (40 - nc)
  let met := mayData ∧ sound < old.length ∧ sound < 40 - nc
  let fresh := pos + data.length - p.rp.window.length
  let window := p.rp.window ++ p.rp.txq.take fresh
  let txq := p.rp.txq.drop fresh
  let csn := modSub 18 (p.rp.txCsn.toNat + pos) p.rp.window.length
  let resend := if mayData ∧ window.length ≤ pos + data.length then none else p.rp.resend
  let resend := if mayData ∧ resend.isSome then some (pos + data.length) else resend
  let cut := match (outp s n).busy with
    | some h => txq != [] && decide (txq.length < lenOf h.pkt)
    | none => false
  let next := pos + data.length
  let whole := if next = 0 then window == [] && !cut else ((window ++ txq)[next - 1]?).all (·.2)
  let wnext := match p.wd.txSwitch with
    | some (_, _, some t) => p.st = .up && decide (t ≤ s.time.now) && whole
    | _ => false
  let hdr := pack [(0, 18, csn), (18, 6, nc), (24, 6, data.length), (30, 1, b2n wnext), (31, 1, b2n p.kpTx)]
  let reqs := (queue.take room).filter (fun w => lwF w 0 8 == 0x20)
  let acked := (queue.take room).any (fun w => lwF w 0 8 == 0x11)
  let enc := encodeGroup p.scrTx.toNat hdr flits (data.map (·.1))
  let all := p.cr.sentAt + 900 ≤ s.time.now
  let s := updPort n (fun p => { p with
    cr := if locked then { p.cr with due := 0, sentAt := if all then s.time.now else p.cr.sentAt } else p.cr
    rp := { p.rp with
      words := if locked then words.drop room else p.rp.words, gossip := if locked then [] else p.rp.gossip, window := window, txq := txq, resend := resend,
      txCsn := p.rp.txCsn + BitVec.ofNat 18 fresh,
      ackDue := if locked then false else p.rp.ackDue, nakDue := if locked then false else p.rp.nakDue,
      ackGroups := if locked ∧ p.rp.ackDue then 0 else p.rp.ackGroups }
    tm := { p.tm with out := reqs.foldl (fun m w => Maps.insert (lwF w 8 8) (BitVec.ofNat 80 (stamp s)) m) p.tm.out }
    wd := { p.wd with
      widthNext := wnext || p.wd.widthNext
      txSwitch := if acked then p.wd.txSwitch.map (fun x => (x.1, x.2.1, some (x.2.2.getD (s.time.now + switchDelay))))
                  else p.wd.txSwitch }
    scrTx := BitVec.ofNat 58 enc.2 }) s
  let s := eccWrite (fun e => e.1 == eccReplay n && decide (modSub 18 e.2 p.rp.txCsn.toNat < fresh)) s
  let s := if met then raise 156 1 s else s
  let spilled := window.length - max 4096 p.rp.window.length
  let s := if spillOn s n ∧ spilled ≠ 0 then count (prtCtr n 14) spilled s else s
  let s := emit (.group n hdr flits (data.map (·.1)) enc.1) s
  let s := if (sendingAsd s n).isSome ∧ fresh ≠ 0 then takeCredit n (512 * fresh) s else s
  let s := if txq ≠ [] ∧ !(outp s n).hold ∧ (data.length < 40 - nc ∨ data = []) then raise 154 0x10 (inc (shpBase n + 0x40 + 8 * 9) s) else s
  let s := if p.rp.txq ≠ [] ∧ txq = [] then endTx n s else s
  match sentW.find? (fun w => lwF w 0 8 == 0x14) with
  | some w => linkFailure n (some (lwF w 16 1 == 1)) s
  | none => s

/-! ### Timers -/

/-- TIME_EXCHANGE_TIMER (R84). -/
def effTimeExchangeTimer (n : Nat) (s : State) : State :=
  let p := port s n
  if p.st ≠ .up then s
  else sendLw n 0x20 [(8, 8, p.tm.seq.toNat)] (updPort n (fun p => { p with tm := { p.tm with seq := p.tm.seq + 1 } }) s)

/-- IDENT_TIMER (R83). -/
def effIdentTimer (n : Nat) (s : State) : State :=
  if (port s n).st ≠ .up then s
  else updPort n (fun p => { p with rp := { p.rp with words := p.rp.words ++ [identWord s n] } }) s

/-- GOSSIP_TIMER (R86). -/
def effGossipTimer (n : Nat) (s : State) : State :=
  if (port s n).st ≠ .up then s else
  let round := s.time.now / 256 % 256
  let words := (List.range 4).map (fun part => mkLw 0x30 ([(8, 2, part), (16, 8, round)] ++
    (List.range 16).map (fun i => (24 + 4 * i, 4, gossipLevel s (16 * part + i)))))
  updPort n (fun p => { p with rp := { p.rp with gossip := words } }) s

end Sys2Proof.Machine
end

