-- ==== Sys2Proof/Machine/Xlate.lean ====
section
/-! DEFINITION. Regions and translation (07): the checks of R215, the page walk with ACCESSED and DIRTY (R222 to R225),
the translation caches (R226), and page requests (R234, R235). -/

namespace Sys2Proof.Machine

def xltCtr (h i : Nat) : Nat := hCtr h 0x40100 i
/-- Raises XLT_CAUSE bit `i` (R238). -/
def xltCause (h i : Nat) (s : State) : State := raise (184 + 64 * boleOf h + h % 2) (2 ^ i) s

def mrtBase (s : State) (h : Nat) : Nat :=
  (barR s (hostKey h 0 0x4000C) 0).toNat * 2 ^ 32 + (barR s (hostKey h 0 0x40008) 0).toNat
def mrtLog (s : State) (h : Nat) : Nat := min 24 (fld (barR s (hostKey h 0 0x40010) 0) 0 5)


/-- A translation context by home port and number (R220). -/
def xctxOf (s : State) (home n : Nat) : Xctx := Maps.get {} s.hs.xctx (objKey 12 home n)
/-- Tag of a context in the caches: accessing port, home port, number (R226). -/
def ctxTag (h home n : Nat) : Nat := h * 2 ^ 14 + home * 2 ^ 12 + n

/-! ### Regions (R217, R218) -/

/-- The rights of R218. -/
inductive Right where
  | localRead | localWrite | remoteRead | remoteWrite | remoteAtomic
  /-- an arriving EAGER packet writes into a receive -/
  | eagerWrite
  deriving DecidableEq, Repr

/-- Who makes an access: a job of a function, or a packet of a protection domain (R215, kind 3); `trig` marks an access of
the event-counter or triggered-operation engine (R220); `eng` is the engine whose micro-TLB it uses (R226). -/
structure Who where
  remote : Bool
  owner  : Nat
  trig   : Bool := false
  eng    : Nat := 1
  deriving DecidableEq, Repr

/-- The region grants a right (R218). -/
def hasRight (d : List Word) : Right → Bool
  | .localRead => true
  | .localWrite => bAt d 0 1
  | .remoteRead => bAt d 0 2
  | .remoteWrite => bAt d 0 3
  | .remoteAtomic => bAt d 0 4
  | .eagerWrite => bAt d 0 1 && bAt d 0 3
/-- The access reads, and writes, the page (R215, kind 7). -/
def rightReads : Right → Bool
  | .localRead => true | .remoteRead => true | .remoteAtomic => true | .localWrite => false | .remoteWrite => false
  | .eagerWrite => false
def rightWrites : Right → Bool
  | .localRead => false | .remoteRead => false | .remoteAtomic => true | .localWrite => true | .remoteWrite => true
  | .eagerWrite => true

/-- An entry of the translation caches that an uncorrectable error has struck is met: cause CACHE_ECC (R227). -/
def cacheEcc (h : Nat) (s : State) : State := xltCause h 7 s

/-- Region descriptors that a Bole caches, four TLB slots each (R226). -/
def mrCached (s : State) (b : Nat) : Nat := (s.hs.mrCache.filter (fun e => e.1 / 2 ^ 25 == b)).length
/-- The TLB keeps what its 262,144 slots of the array hold beside the cached descriptors (R226). -/
def tlbTrim (b : Nat) (s : State) : State :=
  let n := 262144 - 4 * mrCached s b
  if (xl s b).tlb.length ≤ n then s else updXl b (fun x => { x with tlb := x.tlb.take n }) s

/-- A region's cached descriptor, if there is a sound one: one in error is discarded (R227). -/
def cachedDesc (h idx : Nat) (s : State) : Option (List Word) × State :=
  let k := objKey 24 h idx
  match Maps.find? s.hs.mrCache k with
  | none => (none, s)
  | some d =>
    if struck s eccMr k then (none, eccWrite (fun x => x == (eccMr, k)) (cacheEcc h { s with hs.mrCache := Maps.erase k s.hs.mrCache }))
    else (some d, eccRead (boleKey (boleOf h) 0x108) eccMr k s)

/-- A region descriptor: from the cache, or read from the table (R217). A failing read of the table fails WALK_ERROR. -/
def regionDesc (h idx : Nat) (v : View) (s : State) : Acc (List Word) × State :=
  let k := objKey 24 h idx
  match cachedDesc h idx s with
  | (some d, s) => (.ok d, s)
  | (none, s) =>
    match rdWords h 0 v (mrtBase s h + 64 * idx) 16 s with
    | (.ok d, s) =>
      (.ok d, if mrCached s (boleOf h) < 16384 then
          tlbTrim (boleOf h) (eccWrite (fun x => x == (eccMr, k)) { s with hs.mrCache := Maps.insert k d s.hs.mrCache })
        else s)
    | (.wait n, s) => (.wait n, s)
    | (_, s) => (.fail 9, s)

/-- Context of a region. -/
def regionXctx (s : State) (d : List Word) : Xctx := xctxOf s (fAt d 1 12 2) (fAt d 1 0 12)

/-- Checks 1 to 5 of R215 on a key, an address and a length. -/
def checkKey (h : Nat) (key : Word) (addr len : Nat) (r : Right) (w : Who) (v : View) (s : State) :
    Acc (List Word) × State :=
  let idx := fld key 8 24
  if 2 ^ mrtLog s h ≤ idx then (.fail 1, s) else
  andThen (regionDesc h idx v s) (fun d s =>
    let x := regionXctx s d
    let phys := bAt d 0 7
    if !bAt d 0 0 ∨ fAt d 0 8 8 ≠ fld key 0 8 then (.fail 2, s)
    else if (if w.remote then fAt d 1 16 16 else fAt d 0 16 8) ≠ w.owner then (.fail 3, s)
    else if !hasRight d r ∨ (w.trig ∧ !phys ∧ !x.trig) then (.fail 4, s)
    else if len ≠ 0 ∧ (addr < u64 d 2 ∨ u64 d 2 + u64 d 4 < addr + len) then (.fail 5, s)
    else if !phys ∧ (!x.active ∨ !x.share.getLsbD h) then (.fail 2, s)
    else (.ok d, s))

/-! ### Page requests (R234 to R236) -/

/-- LOG_SIZE of the fault ring: 4 to 16, other values taken as 4. -/
def fqLog (s : State) (h : Nat) : Nat :=
  let n := fld (barR s (hostKey h 0 0x40028) 0x24) 0 5
  if 4 ≤ n ∧ n ≤ 16 then n else 4
def fqOn (s : State) (h : Nat) : Bool := bitW (barR s (hostKey h 0 0x40028) 0x24) 16
/-- A page request can be posted: fewer than 1,024 are outstanding and the ring has a free slot. -/
def fqRoom (s : State) (h : Nat) : Bool :=
  decide ((hport s h).pageReqs.length < 1024)
    && decide (((hport s h).fqWritten - barR s (hostKey h 0 0x4002C) 0).toNat < 2 ^ fqLog s h)

/-- Posts a page request: its entry in the fault ring, and the vector (R235). -/
def fqPost (h : Nat) (r : PageReq) (s : State) : State :=
  let p := hport s h
  let lg := fqLog s h
  let r := { r with id := p.nextReq }
  let ws := [pack [(0, 16, r.id.toNat), (16, 1, b2n r.write), (17, 1, b2n r.remote), (18, 8, r.fn)],
    w32 (r.ctx % 2 ^ 14)] ++ w64 (r.page * 4096) ++ [w32 r.region, 0, 0, pack [(31, 1, phaseOf lg p.fqWritten)]]
  let base := (barR s (hostKey h 0 0x40024) 0).toNat * 2 ^ 32 + (barR s (hostKey h 0 0x40020) 0).toNat
  let s := hostWr h 0 (base + 32 * (p.fqWritten.toNat % 2 ^ lg)) (wBytes ws) false s
  let s := updHost h (fun p => { p with pageReqs := p.pageReqs ++ [r], nextReq := p.nextReq + 1,
                                        fqWritten := p.fqWritten + 1 }) s
  inc (xltCtr h 9) (fireMsix h 0 (fld (barR s (hostKey h 0 0x40028) 0x24) 5 11) s)

/-- Asks for a page: one request stands for every access to it (R234), and while it has not been posted it takes up what they
need (R235); without room it waits, with cause FQ_FULL. -/
def askPage (h : Nat) (r : PageReq) (s : State) : State :=
  let p := hport s h
  let same (x : PageReq) : Bool := x.ctx == r.ctx && x.page == r.page
  if p.pageReqs.any same then s
  else if p.pageWait.any same then
    updHost h (fun p => { p with pageWait := p.pageWait.map (fun x =>
      if same x then { x with write := x.write || r.write, remote := x.remote || r.remote } else x) }) s
  else if fqRoom s h ∧ p.pageWait = [] then fqPost h r s
  else xltCause h 2 (updHost h (fun p => { p with pageWait := p.pageWait ++ [r] }) s)

/-! ### The walk (R222 to R226) -/

/-- A slot of the same page. -/
def samePage (t y : Tlb) : Bool := y.ctx == t.ctx && y.page == t.page
/-- Fills a TLB slot; what the micro-TLBs hold of the page goes. -/
def tlbFill (b : Nat) (t : Tlb) (s : State) : State :=
  tlbTrim b (updXl b (fun x => { x with
    tlb := t :: x.tlb.filter (fun y => !samePage t y), micro := x.micro.filter (fun y => !samePage t y.2) }) s)
/-- Fills an engine's micro-TLB of 64 slots from the TLB (R226). -/
def microFill (b e : Nat) (t : Tlb) (s : State) : State :=
  updXl b (fun x =>
    let mine := (x.micro.filter (fun y => y.1 == e && !samePage t y.2)).take 63
    { x with micro := (e, t) :: mine ++ x.micro.filter (fun y => y.1 != e) }) s
/-- Entries that the walk cache of 1 MiB holds (R24; DESIGN CHOICE: 16 B each, as a TLB slot has, log 130). -/
def walkRoom : Nat := 65536
/-- Enters the tables that a walk has come through into the walk cache. -/
def walkFill (b : Nat) (ws : List WalkEnt) (s : State) : State :=
  if ws = [] then s else
  updXl b (fun x => { x with
    walks := (ws ++ x.walks.filter (fun y => !ws.any (fun w => y.ctx == w.ctx && y.level == w.level && y.sel == w.sel))).take walkRoom }) s

/-- Sets ACCESSED or DIRTY in a leaf by compare-and-swap (R224): issued once, under the PF's requester ID (R221), and waited
for. -/
def casLeaf (h rk : Nat) (v : View) (t : Tlb) (cmp swap : BitVec 64) (page level : Nat) (s : State) : Acc Tlb × State :=
  if v.noCas = some t.leaf then (.fail 10, s)
  else if v.fight = some t.leaf then (.fail 11, s)
  else if (casOf s h).any (fun c => c.addr == t.leaf) then (.wait (.cas t.leaf rk), s)
  else
    let c : CasOut := { addr := t.leaf, ctx := t.ctx, page := page, level := level, cmp := cmp, swap := swap,
                        tlb := { t with dirty := swap.getLsbD 6, ent := swap } }
    (.wait (.cas t.leaf rk), inc (xltCtr h 4) (askDma h (.cas t.leaf) (.cas h 0 t.leaf cmp swap (devCtl s h 0).2)
      (updXl (boleOf h) (fun x => { x with cas := x.cas ++ [c] }) s)))

/-- What a walk is for, fixed while it runs: host port, context tag, page, AD_EN, reads and writes wanted, the region, the
level of the table at which it started, and the times that it has read its leaf again. -/
structure Walk where
  h     : Nat
  ck    : Nat
  page  : Nat
  ad    : Bool
  rd    : Bool
  wr    : Bool
  rk    : Nat
  start : Nat
  tries : Nat
  deriving DecidableEq, Repr

/-- A leaf found at a level that grants the access: the checks of R222 and R223, ACCESSED and DIRTY, and the TLB slot. Where
AD_EN is 0, no write goes through a leaf whose DIRTY is 0: it is read again until it is 1 (R224; DEDUCED, log 131). -/
def useLeaf (w : Walk) (v : View) (l ea : Nat) (e : BitVec 64) (ws : List WalkEnt) (s : State) : Acc Tlb × State :=
  let page := w.page
  let np := 2 ^ (9 * l)
  let bus := bitsN e.toNat 12 40 * 4096
  let contig := e.getLsbD 7 && decide (l < 2)
  let below := ea / 8 % 16 * np * 4096
  let pages := if contig then 16 * np else np
  if e.getLsbD 4 ∨ bus % (np * 4096) ≠ 0 ∨ (contig ∧ (bus < below ∨ (bus - below) % (16 * np * 4096) ≠ 0)) then (.fail 8, s)
  else
    let t : Tlb := { ctx := w.ck, page := page - page % pages, pages := pages, bus := if contig then bus - below else bus,
                     rd := e.getLsbD 2, wr := e.getLsbD 3, dirty := e.getLsbD 6, leaf := ea, ent := e }
    let swap := e ||| (if w.wr then 0x60 else 0x20)
    if w.ad ∧ swap ≠ e then casLeaf w.h w.rk v t e swap page (l + 1) s
    else if w.wr ∧ !t.dirty then (.wait (.walk ea w.ck page w.start true (w.tries + 1) w.rk (l + 1) ws), s)
    else (.ok t, tlbFill (boleOf w.h) t s)

/-- One entry of a table, of the level `l + 1`: the value that a compare-and-swap returned, or a read of host memory. -/
def readEntry (w : Walk) (v : View) (l ea : Nat) (known : Option (Nat × BitVec 64)) (ws : List WalkEnt) (s : State) :
    Acc (BitVec 64) × State :=
  match known with
  | some x => (.ok x.2, s)
  | none => andThen (rdHost w.h v (.walk ea w.ck w.page w.start (l + 1 != w.start) w.tries w.rk (l + 1) ws) ea 8 s)
    (fun bs s => (.ok (BitVec.ofNat 64 (leNat bs)), s))

/-- The walk from the table of a level (R222): entries are read one after another; a leaf's permission is tested before its
form, as R215 orders them. `known` is the first entry's address and value where a compare-and-swap has returned it (R225), and `ws`
are the tables that the walk has come through. -/
def walkFrom (w : Walk) (v : View) : Nat → Option (Nat × BitVec 64) → Nat → List WalkEnt → State → (Acc Tlb × List WalkEnt) × State
  | 0, _, _, ws, s => ((.fail 8, ws), s)
  | l + 1, known, table, ws, s =>
    let ea := (known.map (·.1)).getD (table + 8 * bitsN w.page (9 * l) 9)
    match readEntry w v l ea known ws s with
    | (.ok e, s) =>
      if !e.getLsbD 0 then ((.fail 6, ws), s)
      else if e.getLsbD 1 ∧ l ≠ 3 ∧ ((w.rd ∧ !e.getLsbD 2) ∨ (w.wr ∧ !e.getLsbD 3)) then ((.fail 7, ws), s)
      else if bitsN e.toNat 52 12 ≠ 0 then ((.fail 8, ws), s)
      else if e.getLsbD 1 then
        (if l = 3 then ((.fail 8, ws), s) else
          let r := useLeaf w v l ea e ws s
          ((r.1, ws), r.2))
      else if l = 0 then ((.fail 8, ws), s)
      else
        let next := bitsN e.toNat 12 40 * 4096
        walkFrom w v l none next ({ ctx := w.ck, level := l, sel := w.page / 2 ^ (9 * l), table := next } :: ws) s
    | (.wait n, s) => ((.wait n, ws), s)
    | (_, s) => ((.fail 9, ws), s)

/-- A walk-cache entry for a page at a level, if there is a sound one: one in error is discarded (R227). -/
def walkHit (h ck page l : Nat) (s : State) : Option WalkEnt × State :=
  let b := boleOf h
  match (xl s b).walks.find? (fun w => w.ctx == ck && w.level == l && w.sel == page / 2 ^ (9 * l)) with
  | none => (none, s)
  | some w =>
    if w.ecc = .bad then (none, cacheEcc h (updXl b (fun x => { x with walks := x.walks.filter (fun y => y != w) }) s))
    else (some w, eccMeet b w.ecc s)

/-- The lowest table that the walk cache knows of those at the levels `ls`. -/
def walkStart (h ck page : Nat) : List Nat → State → Option WalkEnt × State
  | [], s => (none, s)
  | l :: ls, s =>
    let r := walkHit h ck page l s
    if r.1.isSome then r else walkStart h ck page ls r.2

/-- A client that a walk in progress serves. -/
def Need.walks : Need → Bool
  | .walk _ _ _ _ _ _ _ _ _ => true
  | .cas _ _ => true
  | _ => false
/-- Walks in progress in a Bole (R40). -/
def walkers (s : State) (b : Nat) : Nat :=
  (((hport s (2 * b)).waits ++ (hport s (2 * b + 1)).waits).filter (fun w => w.need.walks)).length

/-- A walk of an access as it stands: `start` is the level of the table at which it began, 4 for the root, and the rest says where
it goes on: the level, an entry that a compare-and-swap has returned (R225), the table, and the tables passed. -/
structure WalkAt where
  start : Nat
  tries : Nat := 0
  level : Nat
  known : Option (Nat × BitVec 64) := none
  table : Nat
  path  : List WalkEnt := []
  deriving DecidableEq, Repr

/-- Where an access walks (R225, R226): on from the entry that its compare-and-swap returned; on from the entry for which it
waited; or from the lowest table that the walk cache knows, else the root. -/
def walkPlace (h ck root page : Nat) (v : View) (s : State) : WalkAt × State :=
  let covers (c : CasOut) : Bool := c.ctx == ck && decide (c.tlb.page ≤ page ∧ page < c.tlb.page + c.tlb.pages)
  match v.entry.filter (fun x => covers x.1) with
  | some (c, e) => ({ start := c.level, level := c.level, known := some (c.addr, e), table := 0 }, s)
  | none =>
    let fresh : WalkAt × State :=
      let r := walkStart h ck page [1, 2, 3] s
      match r.1 with
      | some t => ({ start := t.level, level := t.level, table := t.table }, r.2)
      | none => ({ start := 4, level := 4, table := root }, r.2)
    match v.was with
    | some (.walk a c p st _ n _ lv ws) =>
      if c = ck ∧ p = page then
        ({ start := st, tries := n, level := lv, table := a - 8 * bitsN page (9 * (lv - 1)) 9, path := ws }, s)
      else fresh
    | _ => fresh

/-- Starts a walk (R226), or goes on with the one for which the client waits; beyond 256 in a Bole it has to wait (R40). A walk
fills the walk cache as it ends or comes to its first compare-and-swap, and then counts once (R230, R237). -/
def startWalk (h ck root page : Nat) (ad rd wr : Bool) (rk : Nat) (v : View) (s : State) : Acc Tlb × State :=
  let b := boleOf h
  if !(v.was.any Need.walks) ∧ 256 ≤ walkers s b then (.wait (.walker rk), s) else
  let at0 := walkPlace h ck root page v s
  let p := at0.1
  let w : Walk := { h := h, ck := ck, page := page, ad := ad, rd := rd, wr := wr, rk := rk, start := p.start, tries := p.tries }
  let r := walkFrom w v p.level p.known p.table p.path at0.2
  let ended (s : State) : State :=
    let s := walkFill b r.1.2 s
    if p.known.isSome then s else inc (xltCtr h 1) (inc (xltCtr h 2) (if p.start < 4 then inc (xltCtr h 3) s else s))
  match r.1.1 with
  | .wait (.cas a k) => (.wait (.cas a k), ended r.2)
  | .wait n => (.wait n, r.2)
  | a => (a, ended r.2)

/-- A slot that maps a page and grants the access. -/
def Tlb.grants (t : Tlb) (ck page : Nat) (rd wr : Bool) : Bool :=
  t.ctx == ck && decide (t.page ≤ page ∧ page < t.page + t.pages) && (!rd || t.rd) && (!wr || t.wr)

/-- The engine's micro-TLB and then the TLB are searched for a page; an entry in error is discarded and does not count (R226,
R227). A slot found in the TLB fills the micro-TLB. -/
def tlbLookup (h e ck page : Nat) (rd wr : Bool) (s : State) : Option Tlb × State :=
  let b := boleOf h
  let m := (xl s b).micro.find? (fun y => y.1 == e && y.2.grants ck page rd wr)
  let s1 := match m with
    | some y => if y.2.ecc = .bad then cacheEcc h (updXl b (fun x => { x with micro := x.micro.filter (fun z => z != y) }) s)
                else eccMeet b y.2.ecc s
    | none => s
  match m.filter (fun y => y.2.ecc != .bad) with
  | some y => (some y.2, s1)
  | none =>
    match (xl s1 b).tlb.find? (fun t => t.grants ck page rd wr) with
    | none => (none, s1)
    | some t =>
      if t.ecc = .bad then (none, cacheEcc h (updXl b (fun x => { x with tlb := x.tlb.filter (fun y => y != t) }) s1))
      else (some t, microFill b e { t with ecc := .good } (eccMeet b t.ecc s1))

/-- Where a page lies: its bus address, and the first page and the number of pages of the slot that maps it (R231). -/
structure PageMap where
  bus   : Nat
  first : Nat
  pages : Nat
  deriving DecidableEq, Repr

/-- Level of the table in which a slot's leaf lies. -/
def Tlb.level (t : Tlb) : Nat := if 2 ^ 18 ≤ t.pages then 3 else if 512 ≤ t.pages then 2 else 1

/-- The bus address of a page of a region's context, and the page's rights and marks seen to (R215 kinds 6 to 13). -/
def pageAt (h : Nat) (d : List Word) (idx page : Nat) (r : Right) (who : Who) (v : View) (s : State) : Acc PageMap × State :=
  if bAt d 0 7 then (.ok { bus := page * 4096, first := page, pages := 1 }, s) else
  let x := regionXctx s d
  let ck := ctxTag h (fAt d 1 12 2) (fAt d 1 0 12)
  let rk := objKey 24 h idx
  let rd := rightReads r
  let wr := rightWrites r
  let bus (t : Tlb) : PageMap := { bus := t.bus + (page - t.page) * 4096, first := t.page, pages := t.pages }
  let ans := v.ans.find? (fun a => a.1 == ck && a.2.1 == page)
  match ans with
  | some (_, _, 10) => (.fail 10, s)
  | some (_, _, 11) => (.fail 11, s)
  | some (_, _, 12) => (.fail 12, s)
  | some (_, _, 13) => (.fail 13, s)
  | _ =>
    let kept := match v.held with
      | some (c, p, b, f, n) => if c = ck ∧ p = page then some { bus := b, first := f, pages := n } else none
      | none => none
    let walk (s : State) : Acc PageMap × State :=
      match startWalk h ck x.root page x.adEn rd wr rk v s with
      | (.ok t, s) => (.ok (bus t), s)
      | (.fail k, s) =>
        if (k = 6 ∨ k = 7) ∧ bAt d 0 6 ∧ fqOn s h ∧ ans = none then
          (.wait (.page ck page rk), askPage h { ctx := ck, page := page, write := wr, remote := who.remote, fn := fAt d 0 16 8, region := idx } s)
        else (.fail k, s)
      | (.wait n, s) => (.wait n, s)
      | (.err, s) => (.err, s)
      | (.lost, s) => (.lost, s)
    match kept with
    | some b => (.ok b, s)
    | none =>
      match tlbLookup h who.eng ck page rd wr s with
      | (none, s) => walk s
      | (some t, s) =>
        if wr ∧ !t.dirty ∧ !x.adEn then walk s else
        let s := if v.done = some t.leaf then s else inc (xltCtr h 0) s
        if wr ∧ !t.dirty then andThen (casLeaf h rk v t t.ent (t.ent ||| 0x60) page t.level s) (fun t s => (.ok (bus t), s))
        else (.ok (bus t), s)

/-- An address range cut at 4 KiB boundaries. -/
def cutPages : Nat → Nat → Nat → List (Nat × Nat)
  | 0, _, _ => []
  | fuel + 1, a, n =>
    if n = 0 then [] else
    let k := min n (4096 - a % 4096)
    (a, k) :: cutPages fuel (a + k) (n - k)

def pagesIn (a n : Nat) : List (Nat × Nat) := cutPages (n / 4096 + 2) a n

/-- Counts a failing access and raises the cause of its kind (R237). -/
def failCount {α : Type} (h : Nat) (remote : Bool) (x : Acc α × State) : Acc α × State :=
  match x.1 with
  | .fail k =>
    let s := inc (xltCtr h (if remote then 15 else 14)) x.2
    (.fail k, if k = 8 then xltCause h 1 s else if k = 9 then xltCause h 0 s else if k = 13 then xltCause h 3 s
              else if k = 10 ∨ k = 11 then xltCause h 5 s else s)
  | _ => x

/-- A checked and translated access: the region's descriptor and index, and the pieces it falls into: bus address, length,
page, and the slot that maps it. -/
structure Grant where
  d   : List Word
  idx : Nat
  ps  : List (Nat × Nat × Nat × PageMap)
  deriving DecidableEq, Repr

/-- Checks and translates an access whole (R215), the BAR4 ranges of R355 included. -/
def access (h : Nat) (key : Word) (addr len : Nat) (r : Right) (w : Who) (v : View) (s : State) : Acc Grant × State :=
  failCount h w.remote (andThen (checkKey h key addr len r w v s) (fun d s =>
    andThen (eachAcc (fun p s =>
        andThen (pageAt h d (fld key 8 24) (p.1 / 4096) r w v s) (fun m s =>
          (.ok (m.bus + p.1 % 4096, p.2, p.1 / 4096, m), s))) (pagesIn addr len) s)
      (fun ps s =>
        if ps.all (fun p => wrAllowed h (fAt d 0 16 8) p.1 p.2.1 s) then (.ok { d := d, idx := fld key 8 24, ps := ps }, s)
        else (.fail 4, s))))

/-- Reads the bytes of a granted access; `atom` says that an atomic reads them (R257). -/
def readGrant (h : Nat) (g : Grant) (atom : Bool) (v : View) (s : State) : Acc (List Byte) × State :=
  let ck := ctxTag h (fAt g.d 1 12 2) (fAt g.d 1 0 12)
  let fn := fAt g.d 0 16 8
  andThen (eachAcc (fun p s => rdBus h fn v (fun a n => .data fn a n ck p.2.2.1 atom (objKey 24 h g.idx) p.2.2.2.first p.2.2.2.pages) p.1 p.2.1 s) g.ps s)
    (fun l s => (.ok l.flatten, s))

/-- Writes bytes through a granted access, with relaxed ordering where `relax` allows it (R180, R255); a write into a COUNTED
region increments its counter (R302). -/
def writeGrant (h : Nat) (g : Grant) (relax : Bool) (bs : List Byte) (s : State) : State :=
  let s := (g.ps.foldl (fun (x : State × Nat) p =>
    (wrBus h (fAt g.d 0 16 8) relax p.1 ((bs.drop x.2).take p.2.1) x.1, x.2 + p.2.1)) (s, 0)).1
  if bAt g.d 0 5 ∧ bs ≠ [] then ctrBump h (fAt g.d 6 0 16) (some (fAt g.d 0 16 8)) bs.length (inc (ectCtr h 1) s) else s

/-- A grant whose writes increment no counter: those of a packet that does not execute (R383). -/
def Grant.quiet (g : Grant) : Grant := { g with d := g.d.set 0 (wAt g.d 0 &&& 0xFFFFFFDF) }

/-- Reads a region. -/
def readRegion (h : Nat) (key : Word) (addr len : Nat) (r : Right) (w : Who) (v : View) (s : State) :
    Acc (List Byte) × State :=
  andThen (access h key addr len r w v s) (fun g s => readGrant h g false v s)

/-! ### Local data -/

/-- The part of local segments that bytes `off` to `off + n - 1` fall on. -/
def slice : List (Nat × Word × Nat) → Nat → Nat → List (Nat × Word × Nat)
  | [], _, _ => []
  | (a, k, l) :: t, off, n =>
    if n = 0 then []
    else if l ≤ off then slice t (off - l) n
    else (a + off, k, min n (l - off)) :: slice t 0 (n - (l - off))

/-- The engine that makes a job's accesses (R226): matching for receives, event counters for CTR_READ and fired jobs, and the
transport (DEDUCED, log 130). -/
def jobEngine (j : Job) : Nat :=
  if j.fired.isSome ∨ Job.opcode j = 0x38 then 3 else if Job.opcode j = 0x21 then 2 else 1
/-- Who a job is to the access checks. -/
def jobWho (s : State) (h : Nat) (j : Job) : Who :=
  { remote := false, owner := (wqOf s h j.q).fn, trig := j.fired.isSome || Job.opcode j == 0x38, eng := jobEngine j }

/-- Reads bytes of a job's local data. -/
def readLocal (h : Nat) (j : Job) (off n : Nat) (v : View) (s : State) : Acc (List Byte) × State :=
  if Job.inl j then (.ok (((inlineOf j.ents).drop off).take n), s) else
  andThen (eachAcc (fun p s => readRegion h p.2.1 p.1 p.2.2 .localRead (jobWho s h j) v s) (slice (segsOf j.ents) off n) s)
    (fun l s => (.ok l.flatten, s))

/-- Grants of a write of bytes into a job's local data, with a right (R218). -/
def grantLocal (h : Nat) (j : Job) (off n : Nat) (r : Right) (v : View) (s : State) : Acc (List Grant) × State :=
  eachAcc (fun p s => access h p.2.1 p.1 p.2.2 r (jobWho s h j) v s) (slice (segsOf j.ents) off n) s

/-- Writes bytes through grants in order. -/
def writeGrants (h : Nat) (gs : List Grant) (bs : List Byte) (s : State) : State :=
  (gs.foldl (fun (x : State × Nat) g =>
    let n := sumN (g.ps.map (fun p => p.2.1))
    (writeGrant h g true ((bs.drop x.2).take n) x.1, x.2 + n)) (s, 0)).1

/-- Those of bytes written through grants that are sent or performed (R382). -/
def grantsKept (h : Nat) (gs : List Grant) (bs : List Byte) (s : State) : List Byte :=
  ((gs.flatMap (·.ps)).foldl (fun (x : List Byte × Nat) p =>
    (x.1 ++ busKept h p.1 ((bs.drop x.2).take p.2.1) s, x.2 + p.2.1)) ([], 0)).1

/-- Writes bytes into a job's local data at an offset, with a right. -/
def writeBy (r : Right) (h : Nat) (j : Job) (off : Nat) (bs : List Byte) (v : View) (s : State) : Acc Unit × State :=
  andThen (grantLocal h j off bs.length r v s) (fun gs s => (.ok (), writeGrants h gs bs s))
/-- The same for a local job of its own. -/
def writeLocal (h : Nat) (j : Job) (off : Nat) (bs : List Byte) (v : View) (s : State) : Acc Unit × State :=
  writeBy .localWrite h j off bs v s

/-- Checks 1 to 5 on every segment of a job's local data (R279, R341). -/
def checkLocal (h : Nat) (j : Job) (r : Right) (v : View) (s : State) : Acc Unit × State :=
  failCount h false (andThen (eachAcc (fun p s => checkKey h p.2.1 p.1 p.2.2 r (jobWho s h j) v s) (segsOf j.ents) s)
    (fun _ s => (.ok (), s)))

end Sys2Proof.Machine
end

