-- ==== Sys2Proof/Machine/Queue.lean ====
section
/-! DEFINITION. The queue manager up to issue, and completions (06): doorbells, fetching, the checks of a job at fetch,
head write-back, completion entries and their interrupts. -/

namespace Sys2Proof.Machine

/-- EAGER_LIMIT of a host port (R276, R297). -/
def eagerLimit (s : State) (h : Nat) : Nat := 1024 * min 64 (fld (barR s (hostKey h 0 0x30000) 0x800) 8 7)
/-- The host port serves its functions (R209). -/
def hostUp (s : State) (h : Nat) : Bool := (hport s h).st == .up && hostUsable s h

/-! ### Fetching (R193 to R196) -/

/-- Entries of a Bole that have been fetched and not issued, a COUNT entry with the operation that it holds (R196). -/
def fetchedIn (s : State) (b : Nat) : Nat :=
  sumN (s.hs.wqs.map (fun e => if e.1 / 2 ^ 21 = b then
    sumN (e.2.fetched.map (fun j => j.ents.length + b2n j.count.isSome)) + e.2.partials.length else 0))

/-- Bus address of an entry of a queue. -/
def wqeAddr (w : Wq) (i : Word) : Nat := w.base + 64 * (i.toNat % 2 ^ w.log)

/-- Ranges cut into reads of at most 4,096 B, none across a boundary of as many bytes (R178). -/
def cutReads (l : List (Nat × Nat)) : List (Nat × Nat) := l.flatMap (fun r => pagesIn r.1 r.2)

/-- Issues the read of `n` entries from the head, which wraps at the end of the ring. -/
def readEntries (h q n : Nat) (s : State) : State :=
  let w := wqOf s h q
  let k := min n (2 ^ w.log - w.head.toNat % 2 ^ w.log)
  let rs := cutReads [(wqeAddr w w.head, 64 * k), (w.base, 64 * (n - k))]
  let s := updWq h q (fun w => { w with fetching := true, reads := rs.length }) s
  rs.foldl (fun s r => askDma h (.queue q) (outRead s h w.fn r.1 r.2) s) s

/-- Starts a fetch up to the tail and PREFETCH entries beyond it, while the Bole has room (R193, R196). -/
def startFetch (h q : Nat) (s : State) : State :=
  let w := wqOf s h q
  let n := min (2 ^ w.log) (min (8192 - fetchedIn s (boleOf h)) ((w.tail - w.head).toNat + w.prefetch))
  if w.st ≠ .active ∨ w.fetching ∨ w.head = w.tail ∨ n = 0 then s
  else readEntries h q n s

/-- A queue has entries to fetch, and the Bole has room for one (R196). -/
def fetchDue (s : State) (h q : Nat) : Bool :=
  let w := wqOf s h q
  w.st == .active && !w.fetching && w.head != w.tail && decide (fetchedIn s (boleOf h) < 8192) && hostUsable s h

/-- Starts the fetches of a Bole's queues that wait for room. -/
def refetchAll (b : Nat) (s : State) : State :=
  (s.hs.wqs.map (·.1)).foldl (fun s k => if k / 2 ^ 21 = b then startFetch (k / 2 ^ 20) (k % 2 ^ 20) s else s) s

/-- Writes the head back (R195). -/
def writeBack (h q : Nat) (s : State) : State :=
  let w := wqOf s h q
  if w.headWb = 0 then s
  else updWq h q (fun w => { w with wbHead := w.head }) (hostWr h w.fn w.headWb (leBytes 8 w.head.toNat) false s)

/-- Writes the head back when it has advanced by a quarter of the ring (R195). -/
def writeBackDue (h q : Nat) (s : State) : State :=
  let w := wqOf s h q
  if 2 ^ (w.log - 2) ≤ (w.head - w.wbHead).toNat then writeBack h q s else s

def effHeadWritebackTimer (h q : Nat) (s : State) : State :=
  if (wqOf s h q).st = .absent ∨ !hostUsable s h ∨ (wqOf s h q).wbHead = (wqOf s h q).head then s else writeBack h q s

/-- OWNER and OWNER_CHECK both equal the phase of an index (R186). -/
def entryReady (w : Wq) (i : Word) (e : List Word) : Bool :=
  fAt e 0 0 1 == phaseOf w.log i && fAt e 15 31 1 == phaseOf w.log i

/-! ### Checks at fetch (R188, R189, R197, R249, R278, R300, R304, R341) -/

/-- Opcodes that a chapter lists (R188). -/
def opAssigned (op : Nat) : Bool :=
  (1 ≤ op && op ≤ 3) || (0x10 ≤ op && op ≤ 0x13) || (0x20 ≤ op && op ≤ 0x22) || (0x30 ≤ op && op ≤ 0x38) || op == 0x40
  || (0x50 ≤ op && op ≤ 0x54) || (0x60 ≤ op && op ≤ 0x64) || (0x68 ≤ op && op ≤ 0x6B)
/-- Opcodes that only a privileged queue may carry (R188). -/
def opPriv (op : Nat) : Bool := op == 0x22 || op == 0x30 || op == 0x31 || decide (0x50 ≤ op)
/-- Operations that COUNT and TRIG_ARM may hold (R304, R344). -/
def opHeld (op : Nat) : Bool := [1, 0x10, 0x11, 0x12, 0x13, 0x20, 0x21, 0x32, 0x33, 0x37, 0x38, 0x40].contains op
/-- Opcodes under which one operation entry follows (R304). -/
def opWraps (op : Nat) : Bool := op == 0x34 || op == 0x35

/-- The check of an opcode's own chapter that an operation breaks: its DETAIL. -/
def opBad (s : State) (h : Nat) (w : Wq) (ents : List (List Word)) : Option Nat :=
  let f := ents.headD []
  let op := fAt f 0 16 8
  let sub := fAt f 1 24 8
  let inl := bAt f 0 8
  let len := (wAt f 7).toNat
  let total := if inl then len else sumN ((segsOf ents).map (fun x => x.2.2))
  let unrel := (chanOf s h (fAt f 1 0 24)).unrel
  if op = 2 then (if sub = 0 ∨ 3 < sub then some 7 else none)
  else if op = 0x10 ∨ op = 0x11 then (if 2 ^ 48 < u64 f 8 + total then some 5 else none)
  else if op = 0x12 then
    (if inl ∨ unrel then some 1 else if 2 ^ 48 < u64 f 8 + total then some 5 else none)
  else if op = 0x13 then
    (if inl ∨ unrel then some 1 else if sub = 0 ∨ 10 < sub then some 7
     else if (len ≠ 4 ∧ len ≠ 8) ∨ u64 f 8 % len ≠ 0 then some 5 else none)
  else if op = 0x20 then
    (if unrel then some 1 else if 1 < sub ∨ (inl ∧ sub = 1) then some 7
     else if inl ∧ eagerLimit s h < len then some 5
     else if (sub = 1 ∨ eagerLimit s h < total) ∧ 1 < (segsOf ents).length then some 5 else none)
  else if op = 0x21 then (if inl then some 1 else none)
  else if op = 0x22 then
    (if sub = 0 ∨ 2 < sub then some 7
     else if (sub = 2 ∧ w.fn ≠ 0) ∨ (sub = 1 ∧ !mayActFor w (fAt f 12 0 8)) then some 2 else none)
  else if op = 0x30 then (if mayActFor w (fAt f 12 0 8) then none else some 2)
  else if op = 0x36 then (if sub = 0 ∨ 2 < sub then some 7 else none)
  else if op = 0x37 then (if unrel then some 1 else none)
  else if op = 0x38 then (if len = 8 then none else some 5)
  else if op = 0x40 then
    (let d := sub / 16
     let mode := fAt f 11 12 2
     if !treeOpOk (sub % 16) d mode then some 7
     else if total % sizeOf_ d ≠ 0 ∨ 65536 * chunkElems mode d < total / sizeOf_ d then some 5 else none)
  else if op = 0x54 then (if sub = 0 ∨ 3 < sub ∨ (sub = 1 ∧ u64 f 12 = 0) then some 7 else none)
  else if op = 0x61 ∨ op = 0x69 then (if sub = 1 then none else some 7)
  else none

/-- The first check of R197 and of the chapters that a whole job breaks without losing its boundaries: its DETAIL. -/
def jobBad (s : State) (h : Nat) (w : Wq) (ents : List (List Word)) : Option Nat :=
  let f := ents.headD []
  let op := fAt f 0 16 8
  let oe := if opWraps op then ents.drop 1 else ents
  let g := oe.headD []
  let inl := bAt g 0 8
  let conts := oe.drop 1
  let nInl := (conts.filter (fun e => fAt e 0 16 8 == 0xF1)).length
  let total := sumN ((segsOf oe).map (fun x => x.2.2))
  if !opAssigned op ∨ (opWraps op ∧ !opHeld (fAt g 0 16 8)) then some 1
  else if opPriv op ∧ !w.priv then some 2
  else if 0x80000000 < (wAt g 7).toNat ∨ (!inl ∧ 0x80000000 < total) ∨ (inl ∧ 56 * nInl < (wAt g 7).toNat) then some 5
  else if op = 0x35 ∧ (fAt f 1 24 8 = 0 ∨ 2 < fAt f 1 24 8) then some 7
  else match opBad s h w oe with
    | some d => some d
    | none =>
      if ents.length = 1 ∧ bAt f 0 3 ∧ bAt f 0 4 then some 11
      else if conts.any (fun e => if fAt e 0 16 8 = 0xF1 then !inl else inl) then some 12
      else none

/-- The structural check of R197 that the next entry of a chain breaks, given the entries before it: its DETAIL. -/
def chainBad (before : List (List Word)) (e : List Word) : Option Nat :=
  let f := before.headD e
  let op := fAt f 0 16 8
  let k := before.length
  if (k = 0) = !bAt e 0 1 then some 3
  else if k = 0 ∧ opWraps op ∧ bAt e 0 2 then some 3
  else if 0 < k ∧ !(k = 1 ∧ opWraps op) ∧ fAt e 0 16 8 ≠ 0xF0 ∧ fAt e 0 16 8 ≠ 0xF1 then some 3
  else if k = 1 ∧ opWraps op ∧ fAt e 0 12 4 + 1 ≠ fAt f 0 12 4 then some 4
  else if bAt e 0 2 ≠ decide (k = fAt f 0 12 4) then some 4
  else none

/-! ### Jobs come into being -/

/-- Enters a job into its queue's batches (R202): DEFER joins the open one, COMPLETE_BATCH closes it. -/
def joinBatch (id : Nat) (f : List Word) (single : Bool) (bs : List Batch) : List Batch :=
  let defer := single && bAt f 0 3
  let close := single && bAt f 0 4
  if defer = close then bs else
  let done := bs.filter (fun b => b.closer.isSome)
  let b := (bs.find? (fun b => b.closer.isNone)).getD {}
  if close ∨ 65534 ≤ b.count then done ++ [{ b with closer := some id, count := b.count + 1 }]
  else done ++ [{ b with jobs := b.jobs ++ [id], count := b.count + 1 }]

/-- Makes a job of a chain of entries, with the counter of a COUNT (R304). -/
def makeJob (h q id : Nat) (idx : Word) (ents : List (List Word)) : Job :=
  let f := ents.headD []
  let isCount := fAt f 0 16 8 = 0x34
  { id := id, h := h, q := q, idx := idx, ents := if isCount then ents.drop 1 else ents,
    count := if isCount then some (fAt f 11 16 16, fAt f 13 16 16) else none }

/-- A sound job is issued at once when it is a CANCEL (R206), which may name no reservation (R156), and waits for issue
otherwise. -/
def keepJob (h q : Nat) (j : Job) (s : State) : State :=
  if Job.opcode j = 3 then
    (if Job.assured j then resvInvalid h j s else updHost h (fun p => { p with jobs := p.jobs ++ [j] }) s)
  else updWq h q (fun w => { w with fetched := w.fetched ++ [j] }) s

/-- A job enters its queue's order and its open batch (R202). -/
def enrolJob (h q id : Nat) (ents : List (List Word)) (s : State) : State :=
  let s := updHost h (fun p => { p with nextJob := p.nextJob + 1 }) s
  updWq h q (fun w => { w with
    order := w.order ++ [id], batches := joinBatch id (ents.headD []) (ents.length == 1) w.batches }) s

/-- A job whose last entry has been taken: rejected, or kept. -/
def jobTaken (h q : Nat) (idx : Word) (ents : List (List Word)) (s : State) : State :=
  let id := (hport s h).nextJob
  let j := makeJob h q id idx ents
  let t := enrolJob h q id ents s
  match jobBad t h (wqOf s h q) ents with
  | some d => malformed h j d t
  | none => keepJob h q j t

/-- A structural violation, or NOT_READY (R194, R197): the queue enters ERROR with a MALFORMED completion of the chain's
first entry, or of WR_ID 0. -/
def queueError (h q detail : Nat) (first : List (List Word)) (s : State) : State :=
  let w := wqOf s h q
  let id := (hport s h).nextJob
  let j := makeJob h q id (if w.partials = [] then w.head else w.partIdx) first
  let s := updHost h (fun p => { p with nextJob := p.nextJob + 1 }) s
  let s := updWq h q (fun w => { w with order := w.order ++ [id], st := .error, fetching := false, reads := 0, partials := [] }) s
  qmgCause h 0 (malformed h { j with ents := first, count := none } detail s)

/-- Takes one ready entry onto the chip (R193, R195). -/
def takeEntry (h q : Nat) (e : List Word) (s : State) : State :=
  let w := wqOf s h q
  let early := w.head = w.tail
  let s := if early then inc (qmgCtr h 8) s else s
  let s := inc (qmgCtr h 6) s
  match chainBad w.partials e with
  | some d =>
    let first := if w.partials ≠ [] then w.partials else if bAt e 0 1 then [e] else [[]]
    let s := queueError h q d first s
    writeBackDue h q (updWq h q (fun x => { x with head := w.head + 1, tail := if early then w.tail + 1 else w.tail }) s)
  | none =>
    let idx := if w.partials = [] then w.head else w.partIdx
    let ents := w.partials ++ [e]
    let last := bAt e 0 2
    let s := updWq h q (fun w => { w with
      head := w.head + 1, tail := if early then w.tail + 1 else w.tail, rereads := 0,
      partIdx := idx, partials := if last then [] else ents }) s
    writeBackDue h q (if last then jobTaken h q idx ents s else s)

/-- Reads a not-ready entry at the head again (R194). -/
def rereadHead (h q : Nat) (s : State) : State :=
  let w := wqOf s h q
  askDma h (.queue q) (outRead s h w.fn (wqeAddr w w.head) 64) (inc (qmgCtr h 7) (updWq h q (fun w => { w with reads := 1 }) s))

/-- Uses fetched entries in order (R193): at the first that is not ready, one beyond the tail ends the fetch, and one at or
before it is read again. -/
def takeAll (h q : Nat) : List (List Word) → State → State
  | [], s => updWq h q (fun w => { w with fetching := false }) s
  | e :: es, s =>
    let w := wqOf s h q
    if w.st ≠ .active then s
    else if 8192 ≤ fetchedIn s (boleOf h) then updWq h q (fun w => { w with fetching := false }) s
    else if entryReady w w.head e then takeAll h q es (takeEntry h q e s)
    else if w.head = w.tail then updWq h q (fun w => { w with fetching := false }) s
    else rereadHead h q (updWq h q (fun w => { w with rereads := 1, rereadAt := s.time.now }) s)

def effWqeFetchDone (h q : Nat) (ents : Option (List (List Word))) (s : State) : State :=
  let w := wqOf s h q
  if w.st ≠ .active ∨ !w.fetching ∨ w.rereads ≠ 0 ∨ dmaHeld s h (.queue q) ∨ !hostUsable s h then s else
  let s := updWq h q (fun w => { w with reads := 0 }) s
  match ents with
  | some es => startFetch h q (takeAll h q es s)
  | none => rereadHead h q (updWq h q (fun w => { w with rereads := 1, rereadAt := s.time.now }) (dmaErr h s))

/-- A not-ready entry has been read again (R194): eight reads over at least 4 µs end the queue. One that has
become ready is taken, or, without room in the Bole, fetched again once there is (R196). -/
def effWqeRefetch (h q : Nat) (ent : Option (List Word)) (s : State) : State :=
  let w := wqOf s h q
  if w.st ≠ .active ∨ w.rereads = 0 ∨ dmaHeld s h (.queue q) ∨ !hostUsable s h then s else
  let s := updWq h q (fun w => { w with reads := 0 }) s
  let s := if ent.isNone then dmaErr h s else s
  match ent.filter (entryReady w w.head) with
  | some e =>
    let s := updWq h q (fun w => { w with rereads := 0 }) s
    let s := if 8192 ≤ fetchedIn s (boleOf h) then s else takeEntry h q e s
    startFetch h q (updWq h q (fun w => { w with fetching := false }) s)
  | none =>
    let s := updWq h q (fun w => { w with rereads := w.rereads + 1 }) s
    if 8 ≤ w.rereads + 1 ∧ w.rereadAt + 4000 ≤ s.time.now then queueError h q 6 [[]] s
    else rereadHead h q s

/-! ### Doorbells (R190, R191) -/

/-- A rejected doorbell: its counter and cause DB_REJECT. -/
def dbReject (h i : Nat) (s : State) : State := qmgCause h 2 (inc (qmgCtr h i) s)

/-- The tests of R191 that precede the index, for a doorbell of TYPE `ty`; none when they pass. -/
def dbBad (s : State) (ty h fn addr size : Nat) (v : BitVec 64) : Option Nat :=
  let q := bitsN v.toNat 0 20
  if size ≠ 8 ∨ addr % 8 ≠ 0 then some 1
  else if bitsN v.toNat 20 4 ≠ ty ∨ addr ≠ q / 64 * 0x1000 + q % 64 * 0x40 then some 2
  else
    let w := wqOf s h q
    let c := cqOf s h q
    let there := if ty = 0 then w.st ≠ .absent else c.active = true
    let owner := if ty = 0 then w.fn else c.fn
    let active := if ty = 0 then w.st = .active else c.active = true
    if there ∧ owner ≠ fn then some 3 else if active then none else some 4

/-- A WQ_TAIL doorbell (R191, R193). -/
def dbTail (h fn size addr : Nat) (v : BitVec 64) (s : State) : State :=
  match dbBad s 0 h fn addr size v with
  | some i => dbReject h i s
  | none =>
    let q := bitsN v.toNat 0 20
    let idx := w32 (bitsN v.toNat 32 32)
    let w := wqOf s h q
    if 2 ^ 31 ≤ (idx - w.tail).toNat then s
    else if 2 ^ w.log < (idx - w.head).toNat then dbReject h 5 s
    else startFetch h q (inc (qmgCtr h 0) (updWq h q (fun w => { w with tail := idx }) s))

/-- Fires a CQ's interrupt and disarms it (R208). -/
def cqFire (h q : Nat) (s : State) : State :=
  let c := cqOf s h q
  updCq h q (fun c => { c with armed := none, timer := false }) (fireMsix h c.fn c.vec s)

/-- What an armed CQ does as completions stand (R208): fires at COAL_COUNT, or starts COAL_TIME. -/
def cqCheck (h q : Nat) (s : State) : State :=
  let c := cqOf s h q
  match c.armed with
  | none => s
  | some a =>
    let n := (c.written - a).toNat
    if n = 0 ∨ 2 ^ 31 ≤ n then s
    else if max 1 c.coalN ≤ n ∨ c.coalT = 0 then cqFire h q s
    else updCq h q (fun c => { c with timer := true }) s

/-- CQ_HEAD (R203): releases the slots before an index. -/
def cqRelease (h q : Nat) (idx : Word) (s : State) : State :=
  updCq h q (fun c =>
    let c := if (idx - c.head).toNat < 2 ^ 31 then { c with head := idx } else c
    { c with full := decide ((c.written - c.head).toNat = 2 ^ c.log) }) s

/-- A CQ_HEAD doorbell (R191, R203). -/
def dbHead (h fn size addr : Nat) (v : BitVec 64) (s : State) : State :=
  match dbBad s 1 h fn addr size v with
  | some i => dbReject h i s
  | none =>
    let q := bitsN v.toNat 0 20
    let idx := w32 (bitsN v.toNat 32 32)
    if 2 ^ 31 ≤ ((cqOf s h q).written - idx).toNat then dbReject h 5 s
    else cqRelease h q idx (inc (qmgCtr h 0) s)

/-- A CQ_ARM doorbell (R191, R208). -/
def dbArm (h fn size addr : Nat) (v : BitVec 64) (s : State) : State :=
  match dbBad s 2 h fn addr size v with
  | some i => dbReject h i s
  | none =>
    let q := bitsN v.toNat 0 20
    let idx := w32 (bitsN v.toNat 32 32)
    if 2 ^ 31 ≤ ((cqOf s h q).written - idx).toNat then dbReject h 5 s
    else
      let s := cqRelease h q idx (inc (qmgCtr h 0) s)
      if (cqOf s h q).intrEn then cqCheck h q (updCq h q (fun c => { c with armed := some idx, timer := false }) s) else s

/-- A doorbell of a type; one of no assigned type is rejected by the tests of each. -/
def dbOne (h fn size : Nat) (d : Nat × Nat × BitVec 64) (s : State) : State :=
  if d.2.1 = 1 then dbHead h fn size d.1 d.2.2 s
  else if d.2.1 = 2 then dbArm h fn size d.1 d.2.2 s
  else dbTail h fn size d.1 d.2.2 s

/-- Puts a doorbell (address, type, value) into its place by address. -/
def dbInsert (d : Nat × Nat × BitVec 64) : List (Nat × Nat × BitVec 64) → List (Nat × Nat × BitVec 64)
  | [] => [d]
  | e :: l => if d.1 < e.1 then d :: e :: l else e :: dbInsert d l

/-- The doorbells of one write, in ascending address order (R191): the one of type `ty` that the command names, and those that
came combined with it, each of the TYPE that it carries. -/
def dbAll (ty h fn addr size : Nat) (v : DbWrite) (s : State) : State :=
  if !hostUp s h then s else
  let l := v.more.foldl (fun l d => dbInsert (d.1, bitsN d.2.toNat 20 4, d.2) l) [(addr, ty, v.value)]
  l.foldl (fun s d => dbOne h fn size d s) s

def effWqTail (h fn addr size : Nat) (v : DbWrite) (s : State) : State := dbAll 0 h fn addr size v s
def effCqHead (h fn addr size : Nat) (v : DbWrite) (s : State) : State := dbAll 1 h fn addr size v s
def effCqArm (h fn addr size : Nat) (v : DbWrite) (s : State) : State := dbAll 2 h fn addr size v s

def effCqCoalTimer (h cq : Nat) (s : State) : State :=
  let c := cqOf s h cq
  if c.active ∧ c.timer ∧ c.armed.isSome ∧ hostUsable s h then cqFire h cq s else s

/-! ### Completion entries (R198, R201, R203) -/

/-- A committed completion may be written now: in an IN_ORDER queue, after those of every job posted earlier (R201). -/
def compReady (s : State) (h cq : Nat) (c : Comp) : Bool :=
  c.cq == cq && (!c.ordered || (wqOf s h c.q).order.head? == some c.job)

/-- Writes the next completion of a CQ into its next slot (R203); one whose words cannot be delivered stays (R25). -/
def writeComp (h cq : Nat) (s : State) : State :=
  let c := cqOf s h cq
  if !c.active ∨ cqFull s h cq then s else
  match (hport s h).comps.find? (compReady s h cq) with
  | none => s
  | some x =>
    let r := meetDie (boleOf h) (eccComp h) (if x.q = 2 ^ 20 then 2 ^ 32 else x.job) s
    let s := r.1
    if !r.2 then s else
    let ws := x.words.set 7 (wAt x.words 7 ||| pack [(31, 1, phaseOf c.log c.written)])
    let s := hostWr h c.fn (c.base + 32 * (c.written.toNat % 2 ^ c.log)) (wBytes ws) false s
    let s := emit (.cqe h cq c.written ws) s
    let s := updHost h (fun p => { p with comps := p.comps.erase x }) s
    let s := updWq h x.q (fun w => { w with order := w.order.filter (· ≠ x.job) }) s
    let s := uncover h x.job false s
    let s := inc (qmgCtr h 10) (updCq h cq (fun c => { c with written := c.written + 1 }) s)
    let s := if cqFull s h cq then qmgCause h 1 (inc (qmgCtr h 11) (updCq h cq (fun c => { c with full := true }) s)) else s
    cqCheck h cq s

def effCompletionWrite (h cq : Nat) (s : State) : State := if hostUp s h then writeComp h cq s else s

end Sys2Proof.Machine
end

