-- ==== Sys2Proof/Machine/Transport.lean ====
section
/-! DEFINITION. Channel contexts and their cache, and the initiator's half of a channel (08): the packets of a job, the order in
which they are sent, progress, retransmission, and how a channel fails. -/

namespace Sys2Proof.Machine

def trnCtr (h i : Nat) : Nat := hCtr h 0x20100 i
/-- Raises TRN_CAUSE bit `i` (R271). -/
def trnCause (h i : Nat) (s : State) : State := raise (186 + 64 * boleOf h + h % 2) (2 ^ i) s
/-- A counter whose advance sets cause STALE (R270). -/
def trnStale (h i : Nat) (s : State) : State := trnCause h 6 (inc (trnCtr h i) s)

/-! ### Packets of a channel -/

/-- EXT_MASK bits (R92). -/
def exRma : Byte := 1
def exAtomic : Byte := 2
def exAck : Byte := 4
def exEnv : Byte := 8
def exAsd : Byte := 16

/-- The RMA extension (R251). -/
def rmaExt (addr len : Nat) (final last : Bool) (key : Word) (msn : Nat) : List Word :=
  [w32 addr, pack [(0, 16, addr / 2 ^ 32), (16, 13, len), (29, 1, b2n final), (30, 1, b2n last)], key, w32 (msn % 2 ^ 24)]
/-- The ENVELOPE extension (R275). -/
def envExt (tag : BitVec 64) (comm rank : Word) (last trunc disc : Bool) (msgLen off : Nat) (orig : Nat) : List Word :=
  w64 tag.toNat ++ [comm, rank, pack [(24, 1, b2n last), (25, 1, b2n trunc), (26, 1, b2n disc)], w32 msgLen,
    w32 (off % 2 ^ 17), w32 (orig % 2 ^ 24)]
/-- The ASSURED extension (R160). -/
def asdExt (accept deadline : Nat) (waited : Bool) (resvId : Nat) : List Word :=
  [w32 deadline, pack [(0, 16, deadline / 2 ^ 32), (16, 16, accept)], w32 (accept / 2 ^ 16 % 2 ^ 32),
   pack [(0, 14, resvId), (14, 1, b2n waited)]]

/-- Puts the MSN into a packet's RMA, ATOMIC and ENVELOPE extensions (R247). -/
def setMsn (p : Packet) (m : BitVec 24) : Packet :=
  let put (e : List Word) (i : Nat) : List Word := e.set i ((wAt e i &&& 0xFF000000) ||| w32 m.toNat)
  let e := p.ext
  let e := if p.extMask.getLsbD 0 then put e 3 else e
  let e := if p.extMask.getLsbD 1 then put e (extAt p.extMask 1 + 3) else e
  { p with ext := if p.extMask.getLsbD 3 then put e (extAt p.extMask 3 + 4) else e }

/-- Sets RETX in a packet's ASSURED extension (R163). -/
def setRetx (p : Packet) : Packet :=
  if p.extMask.getLsbD 4 then
    let i := extAt p.extMask 4 + 3
    { p with ext := p.ext.set i (wAt p.ext i ||| 0x8000) }
  else p

/-- Sends a packet on a channel with its MSG_CHECK (R250, R381). -/
def sendOn (h c : Nat) (p : Packet) (s : State) : State :=
  let x := chanOf s h c
  let p := { p with dest := x.peer, chan := x.peerCh, inc := x.inc, mode := x.mode }
  let p := { p with check := msgCheckOf x.check x.inc.toNat p }
  sendBole h p (if x.check < 4 then inc (hCtr h 0x50100 0) s else s)

/-! ### The packets of a job (R248, R275, R311) -/

/-- One request packet of a job before it is sent: the part of the local data that it carries or fills, and the bytes that its
acknowledgement shows moved. -/
structure Plan where
  p     : Packet
  off   : Nat := 0
  len   : Nat := 0
  bytes : Nat := 0
  deriving DecidableEq, Repr

/-- A request packet of a type, coloured by its job (R158, R250). -/
def reqPkt (j : Job) (ty : Byte) (mask : Byte) (ext : List Word) : Packet :=
  match j.asd with
  | some (a, d, w) =>
    { dest := eidNone, src := eidNone, cls := 2, lenCells := 0, ptype := ty, extMask := mask ||| exAsd,
      ext := ext ++ asdExt a d w (fAt (Job.op j) 15 0 14) }
  | none => { dest := eidNone, src := eidNone, cls := 0, lenCells := 0, ptype := ty, extMask := mask, ext := ext }

/-- The pieces of a WRITE or READ by remote 4 KiB page (R248): remote address, offset, length. -/
def remoteCuts (addr len : Nat) : List (Nat × Nat × Nat) :=
  if len = 0 then [(addr, 0, 0)] else (pagesIn addr len).map (fun p => (p.1, p.1 - addr, p.2))

/-- The request packets of a job, in order. -/
def plans (j : Job) : List Plan :=
  let op := Job.opcode j
  let f := Job.op j
  let len := lengthOfJob j
  let cuts := remoteCuts (u64 f 8) len
  let n := cuts.length
  let tag := BitVec.ofNat 64 (u64 f 11)
  if op = 0x10 ∨ op = 0x11 then
    cuts.mapIdx (fun i c =>
      let lastW := decide (i + 1 = n)
      { p := reqPkt j 1 exRma (rmaExt c.1 0 (lastW && bAt f 0 5) (lastW && op == 0x10) (wAt f 10) 0),
        off := c.2.1, len := c.2.2, bytes := c.2.2 })
      ++ (if op = 0x11 then [{ p := reqPkt j 2 exRma (rmaExt 0 0 true true (wAt f 11) 0) }] else [])
  else if op = 0x12 then
    cuts.mapIdx (fun i c =>
      { p := reqPkt j 3 exRma (rmaExt c.1 c.2.2 false (decide (i + 1 = n)) (wAt f 10) 0), off := c.2.1, len := c.2.2, bytes := c.2.2 })
  else if op = 0x13 then
    let size := (wAt f 7).toNat
    let m := 2 ^ (8 * size)
    [{ p := reqPkt j 5 exAtomic ([wAt f 8, pack [(0, 16, (wAt f 9).toNat), (16, 4, Job.subop j), (20, 1, size / 8), (30, 1, 1)],
          wAt f 10, 0] ++ w64 (u64 f 11 % m) ++ w64 (u64 f 13 % m)), len := size, bytes := size }]
  else if op = 0x20 then
    (if j.rndv then
      [{ p := reqPkt j 0x21 (exRma ||| exEnv)
           (rmaExt (((segsOf j.ents).headD (u64 f 4, 0, 0)).1) 0 false true (wAt f 6) 0
             ++ envExt tag (wAt f 13) (wAt f 14) true false false len 0 0) }]
     else
      (List.range (max 1 ((len + 4095) / 4096))).map (fun i =>
        let o := 4096 * i
        let k := min 4096 (len - o)
        { p := reqPkt j 0x20 exEnv (envExt tag (wAt f 13) (wAt f 14) (decide (o + k = len)) false false len o 0),
          off := o, len := k, bytes := k }))
  else if op = 0x37 then [{ p := reqPkt j 0x30 exRma (rmaExt (fAt f 14 0 20) 0 true true (wAt f 10) 0) }]
  else []

/-- A response brings the packet's data: it stays unacknowledged until its response comes (DEDUCED from R239, R259). -/
def wantsResp (u : TxPkt) : Bool := u.pkt.ptype == 3 || u.pkt.ptype == 5

/-- A receive completes in format 1 (R290): status, bytes, envelope, FLAGS. -/
def finishRecv (h : Nat) (j : Job) (status bytes : Nat) (tag : BitVec 64) (rank : Word) (flags : BitVec 14) (s : State) : State :=
  let ws := [Job.w j 2, Job.w j 3, w32 bytes, rank] ++ w64 tag.toNat ++ compTail j.q 0x21 1 status flags
  let s := if flags.getLsbD 3 then inc (hCtr h 0x30100 6) s else s
  finishWords h { j with flags := flags } status ws s

/-- A matched receive whose delivery or fetch fails completes in format 0, which alone has the DETAIL that R215 gives a local job
(DEDUCED, log 98): status, bytes, DETAIL, FLAGS. -/
def failRecv (h jid st bytes detail : Nat) (flags : BitVec 14) (s : State) : State :=
  match jobOf s h jid with
  | some j => finishJob h { j with flags := flags } st bytes detail s
  | none => s

/-- Status and DETAIL of an access that failed (R200, R215). -/
def accStatus {α : Type} : Acc α → Nat × Nat
  | .fail k => (if k = 12 ∨ k = 13 then 0x48 else 0x11, k)
  | .err => (0x12, 0)
  | .lost => (0x12, 0)
  | .ok _ => (0, 0)
  | .wait _ => (0, 0)

/-- FLAGS of a completion (R199). -/
def flTruncated (b : Bool) : BitVec 14 := if b then 8 else 0
def flRendezvous : BitVec 14 := 16
def flUnexpected (b : Bool) : BitVec 14 := if b then 32 else 0
def flLate (b : Bool) : BitVec 14 := if b then 2 else 0

/-- FLAGS of a receive that a fetch fills, but for TRUNCATED (R162, R290). -/
def fetchFlags (f : Fetch) : BitVec 14 := flRendezvous ||| flUnexpected f.unexp ||| flLate f.late

/-! ### How a channel fails (R243, R253, R266) -/

/-- Ends every job of a channel: those with packets sent under `sentSt`, the others under `unsentSt`; a fetch ends its receive
likewise (R287). The first status is that of one job. A job that a CANCEL has beaten is CANCELLED, its packets abandoned
(R207). -/
def failJobs (h c : Nat) (one : Option (Nat × Nat × Nat)) (sentSt unsentSt detail : Nat) (s : State) : State :=
  let x := chanOf s h c
  let s := setChan h c { x with unacked := [], toSend := [], line := [], fetches := [], timer := false, stall := false } s
  let s := stopWait h (.again c) s
  let pick (id sent : Nat) : Nat × Nat := match one with
    | some (i, st, d) => if i = id then (st, d) else (if sent = 0 then unsentSt else sentSt, detail)
    | none => (if sent = 0 then unsentSt else sentSt, detail)
  let s := x.fetches.foldl (fun s f =>
    let p := pick f.job (b2n f.sent)
    raise (180 + 64 * boleOf h + h % 2) 32 (failRecv h f.job p.1 (f.len - f.left) p.2 (fetchFlags f) s)) s
  ((hport s h).jobs.filter (fun j => j.chan == c)).foldl (fun s j =>
    if j.cancel then finishJob h j 2 j.acked 0 s
    else finishJob h j (pick j.id j.sent).1 j.acked (pick j.id j.sent).2 s) s

/-- An ACTIVE channel enters ERROR (R243); a DRAINING one goes on draining. -/
def errorChan (h c cause : Nat) (one : Option (Nat × Nat × Nat)) (sentSt unsentSt detail : Nat) (s : State) : State :=
  let x := chanOf s h c
  let s := if x.st = .active then setChan h c { x with st := .error, cause := cause } s else s
  failJobs h c one sentSt unsentSt detail s

/-- Retry exhaustion (R266). -/
def retryExhausted (h c : Nat) (s : State) : State :=
  let n := ((hport s h).jobs.filter (fun j => j.chan == c && j.sent != 0 && !j.cancel)).length
  trnCause h 0 (count (trnCtr h 17) n (errorChan h c 1 none 0x20 0x22 0 s))

/-- The channel loses the Canopy: every outstanding job ends, those with nothing sent too (R18, R243). -/
def canopyLost (h c : Nat) (s : State) : State :=
  if (chanOf s h c).st = .active then errorChan h c 6 none 0x20 0x20 1 s else s

/-- The transport reads a cached context: an uncorrectable error ends the channel (R25, R243). -/
def meetCtx (h c : Nat) (s : State) : State :=
  let x := chanOf s h c
  if x.ecc = .bad then
    let s := setChan h c { x with ecc := .good } s
    if x.st = .active then trnCause h 5 (errorChan h c 5 none 0x22 0x22 0 s) else s
  else eccMeet (boleOf h) x.ecc s

/-! ### The context cache (R261, R263) -/

def trnEnabled (s : State) (h : Nat) : Bool := bitW (barR s (hostKey h 0 0x20008) 0x100000) 8
def trnLog (s : State) (h : Nat) : Nat := min 24 (fld (barR s (hostKey h 0 0x20008) 0x100000) 0 5)
/-- The context table (R240), and a channel's record in it. -/
def trnBase (s : State) (h : Nat) : Nat :=
  (barR s (hostKey h 0 0x20004) 0).toNat * 2 ^ 32 + (barR s (hostKey h 0 0x20000) 0).toNat
def ctxAddr (s : State) (h c : Nat) : Nat := trnBase s h + 512 * c
/-- Writes a channel's record to host memory; its bytes are private to the device (R240). -/
def writeCtx (h c : Nat) (s : State) : State := hostWr h 0 (ctxAddr s h c) ((Config.ctxRecord s.hs.uses).take 512) false s

/-- Slots of a Bole's context cache in use: core slots and window slots. -/
def ctxSlots (s : State) (b : Nat) : Nat :=
  sumN (s.hs.chans.map (fun e => if e.1 / 2 ^ 25 = b then b2n e.2.cached + b2n e.2.window else 0))
/-- Slots that a context takes when it comes into the cache. -/
def ctxNeeds (x : Chan) : Nat := 1 + b2n (x.bitmap != 0)

/-- A context is pinned (R263). -/
def Chan.pinned (x : Chan) : Bool :=
  x.unacked != [] || x.toSend != [] || x.line != [] || x.parked != [] || x.busy != [] || x.st == .draining

/-- Contexts of a Bole that may be evicted, but for the one of a key. -/
def evictable (s : State) (b keep : Nat) : List (Nat × Chan) :=
  s.hs.chans.filter (fun e => e.1 / 2 ^ 25 == b && e.2.cached && !e.2.pinned && e.1 != keep)

/-- `n` slots are free, or can be made so. -/
def slotsFor (s : State) (b keep n : Nat) : Bool :=
  decide (ctxSlots s b + n ≤ 65536 + sumN ((evictable s b keep).map (fun e => b2n e.2.cached + b2n e.2.window)))
/-- A context that is not cached can come into the cache. -/
def ctxRoom (s : State) (h c : Nat) : Bool := slotsFor s (boleOf h) (objKey 24 h c) (ctxNeeds (chanOf s h c))

/-- Evicts the least recently used context that may be: its record is written back (R263). -/
def evictOne (b keep : Nat) (s : State) : State :=
  match (evictable s b keep).foldl (fun (a : Option (Nat × Chan)) e => match a with
      | none => some e
      | some x => if e.2.used < x.2.used then some e else some x) none with
  | none => s
  | some e =>
    let h := e.1 / 2 ^ 24
    let c := e.1 % 2 ^ 24
    inc (trnCtr h 12) (writeCtx h c (updChan h c (fun x => { x with cached := false, window := false }) (meetCtx h c s)))

/-- Evicts until `n` slots are free; each eviction frees one at least. -/
def evictFor : Nat → Nat → Nat → Nat → State → State
  | 0, _, _, _, s => s
  | fuel + 1, b, keep, n, s => if ctxSlots s b + n ≤ 65536 then s else evictFor fuel b keep n (evictOne b keep s)

/-- Makes `n` slots free for a context; false when that is not possible. -/
def freeSlots (b keep n : Nat) (s : State) : State × Bool :=
  if slotsFor s b keep n then (evictFor n b keep n s, true) else (s, false)

/-- A context is used: it has a core slot, or takes one, and a window slot where its bitmap is not empty (R261). False while
there is none, or its record is being fetched. -/
def takeCore (h c : Nat) (s : State) : State × Bool :=
  let s := { s with hs.uses := s.hs.uses + 1 }
  let x := chanOf s h c
  if x.cached then (updChan h c (fun x => { x with used := s.hs.uses }) s, true)
  else if x.fetching ∨ x.landed then (s, false)
  else
    let r := freeSlots (boleOf h) (objKey 24 h c) (ctxNeeds x) s
    if r.2 then (updChan h c (fun x => { x with cached := true, window := x.bitmap != 0, used := s.hs.uses }) r.1, true) else r

/-! ### Sending (R245, R246) -/

/-- A job all of whose packets have been built and shown executed finishes (R264, R267), CANCELLED if a CANCEL won (R207).
A rendezvous SEND waits for its RNDV_DONE, unless CHAN_DESTROY ends it (R295); a job whose outcome comes otherwise is left
alone. -/
def jobIfDone (h jid : Nat) (s : State) : State :=
  match jobOf s h jid with
  | none => s
  | some j =>
    if j.cancel then (if j.left = 0 then finishJob h j 2 j.acked 0 s else s)
    else if j.rndv ∧ j.sent ≠ 0 ∧ j.left = 0 ∧ (chanOf s h j.chan).st = .draining then finishJob h j 0x22 j.acked 0 s
    else if j.left = 0 ∧ j.next = (plans j).length ∧ j.chan ≠ 0 ∧ !j.rndv then finishJob h j 0 j.acked 0 s
    else s

/-- Sends the next packet of a channel: it takes its PSN, and its message's first packet the MSN (R245, R247). One whose payload
could not be read is dropped (R356). -/
def sendNext (h c : Nat) (u : TxPkt) (s : State) : State :=
  let x := chanOf s h c
  let first : Bool := match u.job, u.fetch with
    | some j, _ => (jobOf s h j).any (fun j => j.sent == 0)
    | none, some o => (x.fetches.find? (fun f => f.orig == o)).any (fun f => !f.sent)
    | none, none => true
  let msn : BitVec 24 := if first then x.txMsn
    else match u.job, u.fetch with
      | some j, _ => ((jobOf s h j).map (·.msn)).getD 0
      | none, some o => ((x.fetches.find? (fun f => f.orig == o)).map (·.msn)).getD 0
      | none, none => x.txMsn
  let p : Packet := { setMsn u.pkt msn with psn := x.txNext }
  let u : TxPkt := { u with pkt := p }
  let fs : List Fetch := x.fetches.map (fun (f : Fetch) => if u.job = none ∧ u.fetch = some f.orig then { f with sent := true, msn := msn } else f)
  let fs := fs.filter (fun (f : Fetch) => !(p.ptype == 0x22 && u.fetch == some f.orig))
  let x := { x with toSend := x.toSend.drop 1, txNext := x.txNext + 1, txMsn := if first then x.txMsn + 1 else x.txMsn, fetches := fs }
  let x := if x.unrel then x
    else if x.unacked = [] then { x with unacked := [u], backoff := 0, timer := true, lastAck := p.psn }
    else { x with unacked := x.unacked ++ [u] }
  let s := setChan h c x s
  let s := match u.job with
    | some j =>
      let n := if x.unrel then 1 else 0
      updJob h j (fun j => { j with sent := j.sent + 1, msn := msn, left := j.left - n, acked := j.acked + n * u.bytes }) s
    | none => s
  let s := if u.lost then s else inc (trnCtr h 0) (sendOn h c p s)
  match u.job with
  | some j => if x.unrel then jobIfDone h j s else s
  | none => s

/-- The channel may send its next built packet (R246, R265). -/
def maySendNext (x : Chan) (u : TxPkt) : Bool :=
  x.unrel || (!x.stall && decide (x.unacked.length < 2048)
    && (u.pkt.ptype != 5 || decide ((x.unacked.filter (fun v => v.pkt.ptype == 5)).length < 4)))

/-- Sends built packets in order while the channel allows. -/
def pump : Nat → Nat → Nat → State → State
  | 0, _, _, s => s
  | fuel + 1, h, c, s =>
    let x := chanOf s h c
    match x.toSend with
    | [] => s
    | u :: _ =>
      if (x.st = .active ∨ x.st = .draining) ∧ maySendNext x u then
        let r := takeCore h c s
        if r.2 then pump fuel h c (sendNext h c u r.1) else r.1
      else s

def pumpAll (h c : Nat) (s : State) : State := pump (chanOf s h c).toSend.length h c s

/-- Adds built packets to a channel and sends what it can. -/
def enqueueTx (h c : Nat) (us : List TxPkt) (s : State) : State :=
  pumpAll h c (updChan h c (fun x => { x with toSend := x.toSend ++ us }) s)

/-- Builds the remaining packets of a job in order, reading each one's payload (R382); false when it has to wait or has
failed. A packet whose job's words, or whose payload, cannot be delivered is dropped (R25, R356). -/
def buildJob : Nat → Nat → Nat → View → State → State × Bool
  | 0, _, _, _, s => (s, true)
  | fuel + 1, h, jid, v, s =>
    match jobOf s h jid with
    | none => (s, true)
    | some j =>
      match (plans j)[j.next]? with
      | none => (s, true)
      | some pl =>
        let op := Job.opcode j
        let go (bs : List Byte) (lost : Bool) (s : State) : State × Bool :=
          let u : TxPkt := { pkt := { pl.p with payload := bs }, job := some jid, bytes := pl.bytes, off := pl.off, len := pl.len, lost := lost }
          let s := updJob h jid (fun j => { j with next := j.next + 1, left := j.left + 1 }) s
          buildJob fuel h jid v (enqueueTx h j.chan [u] s)
        let r := meetDie (boleOf h) (eccTx h) jid s
        let s := r.1
        if !r.2 ∨ op = 0x12 ∨ op = 0x13 ∨ pl.len = 0 then go [] (!r.2) s
        else match readLocal h j pl.off pl.len v s with
          | (.ok bs, s) => go bs false s
          | (.lost, s) => go [] true s
          | (.wait n, s) => (waitFor h (.job jid) n s, false)
          | (a, s) =>
            let s := updChan h j.chan (fun x => { x with
              toSend := x.toSend.filter (fun u => u.job ≠ some jid), line := x.line.filter (· ≠ .job jid) }) s
            (failAcc h j j.acked a s, true)

/-- The packets of a rendezvous fetch (R287): READ_REQs, cut as those of a READ. -/
def fetchReqs (f : Fetch) : List TxPkt :=
  if f.len = 0 then [] else
  (remoteCuts f.addr f.len).map (fun c =>
    { pkt := { dest := eidNone, src := eidNone, cls := 0, lenCells := 0, ptype := 3, extMask := exRma,
               ext := rmaExt c.1 c.2.2 false false f.key 0 },
      fetch := some f.orig, bytes := c.2.2, off := c.2.1, len := c.2.2 })

/-- The RNDV_DONE of a fetch (R287), or of a discarded message (R293). -/
def doneTx (tag : BitVec 64) (comm rank : Word) (orig : BitVec 24) (bytes : Nat) (trunc disc : Bool) : TxPkt :=
  { pkt := { dest := eidNone, src := eidNone, cls := 0, lenCells := 0, ptype := 0x22, extMask := exEnv,
             ext := envExt tag comm rank true trunc disc bytes 0 orig.toNat } }

/-- All data of a fetch have been written (R287, R290): its RNDV_DONE goes out and its receive completes. -/
def fetchDone (h c : Nat) (f : Fetch) (s : State) : State :=
  let trunc := decide (f.len < f.msgLen)
  let s := updChan h c (fun x => { x with line := x.line.filter (· ≠ .fetch f.orig) }) s
  let s := enqueueTx h c [{ doneTx f.tag f.comm f.rank f.orig f.len trunc false with fetch := some f.orig }] s
  match jobOf s h f.job with
  | some j => finishRecv h j (if trunc then 0x28 else 0) f.len f.tag f.rank
      (flTruncated trunc ||| fetchFlags f) s
  | none => s

/-- Lets those in a channel's line send, in order: a job that has not begun or waits for its data, and a fetch that waits for
its responses, hold back all behind them, the word of a discarded message too (R245). `v` is what the step knows of host memory. -/
def runLine : Nat → Nat → Nat → View → State → State
  | 0, _, _, _, s => s
  | fuel + 1, h, c, v, s =>
    match (chanOf s h c).line with
    | [] => s
    | .job j :: _ =>
      let gone (s : State) : State := updChan h c (fun x => { x with line := x.line.filter (· ≠ .job j) }) s
      match jobOf s h j with
      | none => runLine fuel h c v (gone s)
      | some x =>
        if !x.ready then s else
        let r := buildJob ((plans x).length + 1) h j (viewFor h (.job j) v s) s
        if r.2 then runLine fuel h c v (jobIfDone h j (gone (stopWait h (.job j) r.1))) else r.1
    | .fetch o :: _ =>
      match (chanOf s h c).fetches.find? (fun f => f.orig == o) with
      | none => runLine fuel h c v (updChan h c (fun x => { x with line := x.line.drop 1 }) s)
      | some f =>
        let started := f.sent || (chanOf s h c).toSend.any (fun u => u.fetch == some o)
        let s := if started then s else enqueueTx h c (fetchReqs f) s
        if f.left = 0 then runLine fuel h c v (fetchDone h c f s) else s
    | .done u :: _ => runLine fuel h c v (enqueueTx h c [u] (updChan h c (fun x => { x with line := x.line.drop 1 }) s))

/-- Runs a channel's line, once its context has a slot. -/
def runChan (h c : Nat) (v : View) (s : State) : State :=
  let s := meetCtx h c s
  if (chanOf s h c).line = [] then s else
  let r := takeCore h c s
  if r.2 then runLine ((chanOf r.1 h c).line.length + 1) h c v r.1 else r.1

/-- Those in a channel's line, or its packets, can go on with nothing new from outside: they waited for a slot, or for what
stood before them. -/
def lineDue (s : State) (h c : Nat) : Bool :=
  let x := chanOf s h c
  let idle (k : Client) : Bool := !(hport s h).waits.any (fun w => w.client = k)
  if !x.cached then (x.line != [] || x.toSend != []) && !x.fetching && !x.landed && ctxRoom s h c
  else
    (match x.line with
     | .job j :: _ => (jobOf s h j).all (fun k => k.ready && idle (.job j))
     | .fetch o :: _ => (x.fetches.find? (fun f => f.orig == o)).all (fun f =>
         f.left == 0 || !(f.sent || x.toSend.any (fun u => u.fetch == some o)))
     | .done _ :: _ => true
     | [] => false)
    || ((x.st == .active || x.st == .draining) && (x.toSend.head?).any (maySendNext x))
    || (!x.stall && x.unacked.any (·.redo) && idle (.again c))

/-! ### Issue of transport jobs -/

/-- Why a job cannot use the channel that it names (R243): DETAIL of CHANNEL_ERROR. -/
def chanRefuses (s : State) (h : Nat) (j : Job) : Option Nat :=
  let c := Job.chanNo j
  let x := chanOf s h c
  if c = 0 ∨ x.st = .absent ∨ x.st = .draining ∨ x.fn ≠ (wqOf s h j.q).fn then some 1
  else if x.st = .error then some 0 else none

/-- Opcodes of the jobs that send request packets on a channel. -/
def onChannel (op : Nat) : Bool := [0x10, 0x11, 0x12, 0x13, 0x20, 0x37].contains op

/-- An issued job enters the line of a channel that takes it (R245). -/
def joinLine (h : Nat) (j : Job) (s : State) : State :=
  if j.chan ≠ 0 ∨ !onChannel (Job.opcode j) ∨ (chanRefuses s h j).isSome then s
  else
    let c := Job.chanNo j
    (takeCore h c (updJob h j.id (fun k => { k with chan := c }) (updChan h c (fun x => { x with line := x.line ++ [.job j.id] }) s))).1

/-- A job on a channel begins, or goes on (R245, R249): its channel, its local data, then its turn in the line. -/
def stepTx (h : Nat) (j : Job) (v : View) (s : State) : State :=
  if j.ready then runChan h j.chan v s else
  match (if j.chan = 0 then chanRefuses s h j else none) with
  | some d => finishJob h j 0x22 0 d s
  | none =>
    let s := joinLine h j s
    let op := Job.opcode j
    let right := if op = 0x12 ∨ op = 0x13 then Right.localWrite else .localRead
    let chk := if Job.inl j ∨ op = 0x37 then (.ok (), s) else checkLocal h j right v s
    match chk with
    | (.ok (), s) =>
      let c := Job.chanNo j
      let rndv := op = 0x20 ∧ (Job.subop j = 1 ∨ eagerLimit s h < lengthOfJob j)
      runChan h c v (updJob h j.id (fun j => { j with ready := true, rndv := decide rndv }) (stopWait h (.job j.id) s))
    | (a, s) => failAcc h j 0 a s

/-! ### Progress (R264, R265) -/

/-- PSN `p` lies before `q` (R245). -/
def psnBefore (p q : Word) : Bool := decide (1 ≤ (q - p).toNat ∧ (q - p).toNat < 2 ^ 31)

/-- A sent packet has been shown executed by ACK_PSN or SACK. -/
def shown (a sack : Word) (u : TxPkt) : Bool :=
  psnBefore u.pkt.psn a || (decide ((u.pkt.psn - a - 1).toNat < 32) && sack.getLsbD (u.pkt.psn - a - 1).toNat)

/-- One packet shown executed counts for its job. -/
def credit (h : Nat) (u : TxPkt) (s : State) : State :=
  match u.job with
  | some j => updJob h j (fun j => { j with left := j.left - 1, acked := j.acked + u.bytes }) s
  | none => s

/-- Applies an ACK_PSN and SACK (R264, R265). -/
def acknowledge (h c : Nat) (a sack : Word) (s : State) : State :=
  let x := chanOf s h c
  let fresh := x.unacked.filter (fun u => shown a sack u && !wantsResp u && !u.sack)
  let rest := (x.unacked.filter (fun u => wantsResp u || !psnBefore u.pkt.psn a)).map
    (fun u => if !wantsResp u && shown a sack u then { u with sack := true, redo := false } else u)
  let adv := psnBefore x.lastAck a
  let x := { x with unacked := rest }
  let x := if adv then { x with lastAck := a, backoff := 0, timer := rest ≠ [],
                                stall := x.stall && !psnBefore x.stallPsn a } else { x with timer := x.timer && rest ≠ [] }
  let s := fresh.foldl (fun s u => credit h u s) (setChan h c x s)
  (fresh.filterMap (·.job)).dedup.foldl (fun s j => jobIfDone h j s) s

/-- The same, after which the channel sends what it now may. -/
def progress (h c : Nat) (a sack : Word) (s : State) : State := pumpAll h c (acknowledge h c a sack s)

/-- An ACK_PSN lies between the oldest unacknowledged PSN and the next one (R264). -/
def ackInRange (x : Chan) (a : Word) : Bool :=
  let o := ((x.unacked.head?).map (·.pkt.psn)).getD x.txNext
  decide ((a - o).toNat ≤ (x.txNext - o).toNat)

/-- The retransmissions that are due, from the oldest, each with the bytes of its own read (R163, R265, R382), or dropped where that
read meets a scratch word in error (R356); none while the channel is stalled. -/
def resend : Nat → Nat → Nat → View → State → State
  | 0, _, _, _, s => s
  | fuel + 1, h, c, v, s =>
    if (chanOf s h c).stall then stopWait h (.again c) s else
    match (chanOf s h c).unacked.find? (·.redo) with
    | none => stopWait h (.again c) s
    | some u =>
      let redone (u : TxPkt) (s : State) : State :=
        updChan h c (fun x => { x with unacked := x.unacked.map (fun y => if y.pkt.psn = u.pkt.psn then { u with redo := false } else y) }) s
      let go (p : Packet) (s : State) : State :=
        let p := setRetx p
        let s := redone { u with pkt := p } s
        let s := if p.extMask.getLsbD 4 then asdHostCause h 6 (inc (asdHostCtr h 6) s) else s
        resend fuel h c v (inc (trnCtr h 2) (sendOn h c p s))
      match u.job.bind (jobOf s h) with
      | some j =>
        let r := meetDie (boleOf h) (eccTx h) j.id s
        let s := r.1
        if !r.2 then resend fuel h c v (redone u s)
        else if wantsResp u ∨ u.len = 0 then go u.pkt s
        else match readLocal h j u.off u.len v s with
          | (.ok bs, s) => go { u.pkt with payload := bs } s
          | (.wait n, s) => waitFor h (.again c) n s
          | (.lost, s) => resend fuel h c v (redone u s)
          | (a, s) =>
            let s := updChan h c (fun x => { x with
              line := x.line.filter (· ≠ .job j.id), toSend := x.toSend.filter (fun y => y.job ≠ some j.id) }) s
            resend fuel h c v (failAcc h j j.acked a (redone u s))
      | none => go u.pkt s

def resendAll (h c : Nat) (v : View) (s : State) : State := resend ((chanOf s h c).unacked.length + 1) h c v s

/-- The retransmission timer of a channel expires (R265, R266). -/
def effRetransmitTimeout (h c : Nat) (m : HostView) (s : State) : State :=
  let v := viewOf m s
  let s := meetCtx h c s
  let x := chanOf s h c
  if (x.st ≠ .active ∧ x.st ≠ .draining) ∨ !x.timer ∨ x.unacked = [] ∨ !hostUp s h then s else
  let s := inc (trnCtr h 3) s
  if x.limit ≤ x.backoff then retryExhausted h c s
  else
    let us := x.unacked.map (fun u => { u with redo := !u.sack })
    let s := setChan h c { x with backoff := x.backoff + 1, stall := false, unacked := us } s
    pumpAll h c (resendAll h c (viewFor h (.again c) v s) s)

end Sys2Proof.Machine
end

