-- ==== Sys2Proof/Machine/Target.lean ====
section
/-! DEFINITION. The target's half of a channel (08, 13): acknowledgements, the window, access
violations, late packets, and the execution of WRITE, WRITE_IMM, READ_REQ and ATOMIC_REQ. -/

namespace Sys2Proof.Machine

/-- What the execution of a request packet comes to: executed; executed with a response (type, EXT_MASK, ATOMIC extension,
payload); refused by an access check, or as a bad request (code, DETAIL); refused for now (code); waiting; dropped. -/
inductive Rx where
  | done | resp (ty mask : Byte) (ext : List Word) (payload : List Byte) | denied (detail : Nat)
  | bad | later (code : Nat) | wait (n : Need) | drop
  deriving DecidableEq, Repr

/-! ### The check-value unit (R379, R383, R400, R401) -/

/-- A failure of a check: its counter, cause and record. KIND 1 E2E, 2 stomped, 3 check, 4 alive, 5 copy. -/
def cvuNote (h kind chan : Nat) (psn : Word) (src : Eid) (s : State) : State :=
  let s := inc (hCtr h 0x50100 (kind + 1)) s
  let s := raise (198 + 64 * boleOf h + 2 * (h % 2) + (if kind = 2 then 1 else 0)) (2 ^ (kind - 1)) s
  if bitW (barR s (hostKey h 0 0x50000) 0) 31 then s else
  barSet (hostKey h 0 0x50000) (pack [(0, 24, chan), (24, 3, kind), (31, 1, 1)])
    (barSet (hostKey h 0 0x50004) psn (barSet (hostKey h 0 0x50008) (w32 src.toNat) s))
/-- The failure of a packet's check. -/
def cvuFail (h kind : Nat) (p : Packet) (s : State) : State := cvuNote h kind p.chan.toNat p.psn p.src s

/-- MSG_CHECK of a packet is right for a context (R381, R382). -/
def checkOk (x : Chan) (p : Packet) : Bool := x.check ≥ 4 || p.check == msgCheckOf x.check x.inc.toNat p

/-- Counts a check that passed. -/
def cvuGood (h : Nat) (x : Chan) (s : State) : State := if x.check < 4 then inc (hCtr h 0x50100 1) s else s

/-! ### Acknowledgements (R252, R253, R260) -/

/-- The ACK extension of a context as it stands (R252). -/
def ackExt (x : Chan) (code detail : Nat) : List Word :=
  [x.expect, BitVec.ofNat 32 (x.bitmap.toNat >>> 1), pack [(0, 8, code), (8, 8, detail)], 0]

/-- A packet of class RSP. -/
def rspPkt (ty mask : Byte) (ext : List Word) (payload : List Byte) (psn : Word) : Packet :=
  { dest := eidNone, src := eidNone, cls := 1, lenCells := 0, ptype := ty, extMask := mask, ext := ext, payload := payload, psn := psn }

/-- Sends an ACK or NAK that answers PSN `psn`; an UNRELIABLE channel sends none (R260, R267). -/
def sendAck (h c : Nat) (psn : Word) (code detail : Nat) (s : State) : State :=
  let x := chanOf s h c
  if x.unrel then s else
  let s := setChan h c { x with ackN := 0, ackTimer := false } s
  let s := if code = 0 then s else inc (trnCtr h 4) s
  sendOn h c (rspPkt 7 exAck (ackExt x code detail) [] psn) s

/-- TRN_CFG.ACK_COALESCE; 0 is taken as 1 (R270). -/
def ackCoalesce (s : State) (h : Nat) : Nat := max 1 (fld (barR s (hostKey h 0 0x20008) 0x100000) 16 8)

def effAckDelayTimer (h c : Nat) (s : State) : State :=
  let x := chanOf s h c
  if x.st = .absent ∨ !x.ackTimer ∨ !hostUp s h then s else sendAck h c x.expect 0 0 s

/-! ### The window (R247, R254) -/

/-- Bit `d` of the executed bitmap. -/
def executedAt (x : Chan) (d : Nat) : Bool := x.bitmap.getLsbD d

/-- Slides the window over executed packets: the expected PSN advances, and RX_MSN_DONE past each MSG_LAST packet. -/
def slide : Nat → Chan → Chan
  | 0, x => x
  | n + 1, x =>
    if !executedAt x 0 then x else
    let hit := x.lasts.find? (fun l => l.1 == x.expect)
    let x := match hit with
      | some l => { x with rxMsn := l.2 + 1, lasts := x.lasts.filter (fun y => y != l),
                           sums := Maps.erase l.2.toNat x.sums, late := x.late.filter (· ≠ l.2) }
      | none => x
    slide n { x with bitmap := x.bitmap >>> 1, expect := x.expect + 1, window := x.window && (x.bitmap >>> 1) != 0 }

/-- A request packet carries MSG_LAST. -/
def isLast (p : Packet) : Bool :=
  if p.extMask.getLsbD 3 then bitW (Packet.extW p 3 4) 24
  else if p.extMask.getLsbD 1 then bitW (Packet.extW p 1 1) 30
  else bitW (Packet.extW p 0 1) 30

/-- Marks a packet at distance `d` executed and slides the window; what was refused under its PSN long before is forgotten. -/
def markDone (h c d : Nat) (p : Packet) (s : State) : State :=
  updChan h c (fun x =>
    let lasts := if isLast p then x.lasts ++ [(p.psn, BitVec.ofNat 24 (msnOf p))] else x.lasts
    slide 2048 { x with bitmap := x.bitmap ||| (1 <<< d), window := x.window || d != 0, lasts := lasts,
                        refused := x.refused.filter (fun r => r.1 != p.psn), olds := x.olds.filter (fun q => q != p.psn) }) s

/-- Marks a packet refused by an access check executed: its PSN and kind are kept (R259). -/
def markRefused (h c d : Nat) (p : Packet) (kind : Nat) (s : State) : State :=
  updChan h c (fun x => { x with olds := (x.refused.map (·.1)).toList ++ x.olds, refused := some (p.psn, kind) })
    (markDone h c d p s)

/-! ### Late packets (R161, R162) -/

/-- The late test of R162. -/
def isLate (s : State) (h : Nat) (p : Packet) : Bool :=
  let dl := (Packet.extW p 4 0).toNat + 2 ^ 32 * Packet.extF p 4 1 0 16
  let d := modSub 48 s.time.now dl
  decide (fld (barR s (hostKey h 0 0x18000) 0) 0 16 < d ∧ d < 2 ^ 47)

/-- Judges a delivered assured packet; the flag says that it was late. -/
def deliverAsd (h : Nat) (p : Packet) (s : State) : State × Bool :=
  if p.cls ≠ 2 then (s, false) else
  let s := inc (asdHostCtr h 7) s
  if !isLate s h p then (s, false)
  else
    let s := asdHostCause h 4 (inc (asdHostCtr h 8) s)
    (if Packet.extF p 4 3 15 1 = 1 then inc (asdHostCtr h 9) s else s, true)

/-! ### Access violations (R268) -/

/-- Key and address that a refused packet named. -/
def violKey (p : Packet) : Word := if p.extMask.getLsbD 1 then Packet.extW p 1 2 else Packet.extW p 0 2
def violAddr (p : Packet) : Nat :=
  let i := if p.extMask.getLsbD 1 then 1 else 0
  (Packet.extW p i 0).toNat + 2 ^ 32 * Packet.extF p i 1 0 16

/-- A request is refused by an access check: cause, counter and record (R268). -/
def violation (h c : Nat) (p : Packet) (kind : Nat) (s : State) : State :=
  let s := trnCause h 1 (inc (trnCtr h 18) s)
  if bitW (barR s (hostKey h 0 0x20034) 0) 8 then s else
  let k (o : Nat) : Nat := hostKey h 0 o
  barSet (k 0x20020) (w32 p.src.toNat) (barSet (k 0x20024) (pack [(0, 24, c), (24, 8, p.ptype.toNat)])
    (barSet (k 0x20028) (violKey p) (barSet (k 0x2002C) (w32 (violAddr p)) (barSet (k 0x20030) (w32 (violAddr p / 2 ^ 32))
      (barSet (k 0x20034) (pack [(0, 5, kind), (8, 1, 1)]) s)))))

/-- Who an arriving packet is to the access checks. -/
def chanWho (x : Chan) : Who := { remote := true, owner := x.pd.toNat }

/-! ### Execution of the transport's own requests (R255, R257) -/

/-- Outcome of an access that did not succeed for an arriving packet: a refusal, a wait, or, when host memory did not answer,
a drop that the initiator recovers. -/
def rxOf {α : Type} : Acc α → Rx
  | .ok _ => .done
  | .wait n => .wait n
  | .fail k => .denied k
  | .err => .drop
  | .lost => .drop

/-- An arriving WRITE (R255): its payload is written, without relaxed ordering when it carries FINAL; when its check fails the
bytes stay without having executed (R383). -/
def execWriteRx (h c : Nat) (p : Packet) (v : View) (s : State) : Rx × State :=
  let x := chanOf s h c
  let relax := !bitW (Packet.extW p 0 1) 29
  match access h (Packet.extW p 0 2) (violAddr p) p.payload.length .remoteWrite (chanWho x) v s with
  | (.ok g, s) =>
    if checkOk x p then
      let s := writeGrant h g relax p.payload (cvuGood h x s)
      let r := deliverAsd h p s
      let m := msnOf p
      let s := updChan h c (fun x => { x with
        sums := Maps.upd 0 x.sums m (fun n => n + p.payload.length),
        late := if r.2 then BitVec.ofNat 24 m :: x.late else x.late }) r.1
      (.done, s)
    else (.drop, cvuFail h 3 p (writeGrant h g.quiet relax p.payload s))
  | (a, s) => (rxOf a, s)

/-- Queues a format 2 completion (R198): immediate, source, bytes, channel, opcode, FLAGS. -/
def pushNotice (h cq : Nat) (ws : List Word) (s : State) : State :=
  if !(cqOf s h cq).active then s
  else updHost h (fun p => { p with comps := p.comps ++ [{ cq := cq, q := 2 ^ 20, job := 0, ordered := false, words := ws }] }) s

/-- An arriving WRITE_IMM (R256): its notice is committed to NOTICE_CQ; a full one refuses it (R203). -/
def execWriteImmRx (h c : Nat) (p : Packet) (s : State) : Rx × State :=
  let x := chanOf s h c
  if cqFull s h x.cq then (.later 1, s)
  else if !checkOk x p then (.drop, cvuFail h 3 p s)
  else
    let r := deliverAsd h p (cvuGood h x s)
    let m := BitVec.ofNat 24 (msnOf p)
    let late := r.2 || x.late.contains m
    let ws := [Packet.extW p 0 2, w32 p.src.toNat, w32 (Maps.get 0 x.sums m.toNat), w32 c, 0, 0]
      ++ compTail 0xFFFFF 0x11 2 0 (flLate late ||| 64)
    (.done, pushNotice h x.cq ws r.1)

/-- An arriving READ_REQ (R253, R255): the data are read and sent back. -/
def execReadRx (h c : Nat) (p : Packet) (v : View) (s : State) : Rx × State :=
  let x := chanOf s h c
  let len := Packet.extF p 0 1 16 13
  let a := violAddr p
  if 4096 < len ∨ (len ≠ 0 ∧ 4096 < a % 4096 + len) then (.bad, s)
  else if !checkOk x p then (.drop, cvuFail h 3 p s)
  else match readRegion h (Packet.extW p 0 2) a len .remoteRead (chanWho x) v s with
    | (.ok bs, s) => (.resp 4 exAck [] bs, cvuGood h x s)
    | (r, s) => (rxOf r, s)

/-- The new value of an atomic operation (R250), none when memory stays as it is. -/
def atomicNew (op size old cmp opd : Nat) : Option Nat :=
  let m := 2 ^ (8 * size)
  let sg (n : Nat) : Int := sext (8 * size) n
  match op with
  | 1 => if old = cmp % m then some (opd % m) else none
  | 2 => some ((old + opd) % m)
  | 3 => some (opd % m)
  | 4 => some (Nat.land old (opd % m))
  | 5 => some (Nat.lor old (opd % m))
  | 6 => some (Nat.xor old (opd % m))
  | 7 => some (if sg (opd % m) < sg old then opd % m else old)
  | 8 => some (if sg old < sg (opd % m) then opd % m else old)
  | 9 => some (min old (opd % m))
  | _ => some (max old (opd % m))

/-- How far an entry of the atomic result store lies behind `top`, the end of the window (R254). -/
def atomicAge (top : Word) (a : Word × BitVec 64) : Nat := (top - a.1).toNat

/-- Keeps an atomic's original value; of four, the entry with the oldest PSN makes room (R258). -/
def keepAtomic (top psn : Word) (v : BitVec 64) (l : List (Word × BitVec 64)) : List (Word × BitVec 64) :=
  let oldest := (l.map (atomicAge top)).foldl max 0
  (if l.length < 4 then l else l.eraseP (fun a => atomicAge top a == oldest)) ++ [(psn, v)]

/-- The extension words of an ATOMIC_RESP: ATOMIC with ORIGINAL, words 4 and 5 changed (R252). -/
def atomicRespExt (p : Packet) (v : BitVec 64) : List Word :=
  (List.range 8).map (fun i => if i = 4 then w32 v.toNat else if i = 5 then w32 (v.toNat / 2 ^ 32) else Packet.extW p 1 i)

/-- An arriving ATOMIC_REQ (R253, R255, R257, R258). Its own read is over when it writes. -/
def execAtomicRx (h c : Nat) (p : Packet) (v : View) (s : State) : Rx × State :=
  let x := chanOf s h c
  let size := if Packet.extF p 1 1 20 1 = 1 then 8 else 4
  let op := Packet.extF p 1 1 16 4
  let a := violAddr p
  if op = 0 ∨ 10 < op ∨ a % size ≠ 0 then (.bad, s)
  else if !checkOk x p then (.drop, cvuFail h 3 p s)
  else match access h (Packet.extW p 1 2) a size .remoteAtomic (chanWho x) v s with
    | (.ok g, s) =>
      match readGrant h g true v s with
      | (.ok bs, s) =>
        let old := leNat bs
        let opd := (Packet.extW p 1 6).toNat + 2 ^ 32 * (Packet.extW p 1 7).toNat
        let cmp := (Packet.extW p 1 4).toNat + 2 ^ 32 * (Packet.extW p 1 5).toNat
        let s := cvuGood h x s
        let s := match atomicNew op size old cmp opd with
          | some n => writeGrant h g true (leBytes size n) (stopWait h (.chan c p.psn) s)
          | none => s
        let orig := BitVec.ofNat 64 old
        let s := (deliverAsd h p s).1
        (.resp 6 (exAck ||| exAtomic) (atomicRespExt p orig) [],
          updChan h c (fun x => { x with atomics := keepAtomic (x.expect + 2048) p.psn orig x.atomics }) s)
      | (r, s) => (rxOf r, s)
    | (r, s) => (rxOf r, s)

end Sys2Proof.Machine
end

