-- ==== Sys2Proof/Machine/Match.lean ====
section
/-! DEFINITION. Message matching (09): posted receives, the unexpected store, eager and rendezvous delivery, loss and
reset. -/

namespace Sys2Proof.Machine

def mtcCtr (h i : Nat) : Nat := hCtr h 0x30100 i
/-- Raises MTC_CAUSE bit `i` (R298). -/
def mtcCause (h i : Nat) (s : State) : State :=
  raise ((if i = 2 ∨ i = 5 then 180 else 182) + 64 * boleOf h + h % 2) (2 ^ i) s

/-- Registers of the MTC_ block (R297). -/
def mtcOn (s : State) (h : Nat) : Bool := bitW (barR s (hostKey h 0 0x30000) 0x800) 0
def postedMax (s : State) (h : Nat) : Nat := fld (barR s (hostKey h 0 0x30004) 0x40000) 0 20
def unexpMax (s : State) (h : Nat) : Nat := fld (barR s (hostKey h 0 0x30008) 0x20000) 0 19
def tierMax (s : State) (h : Nat) : Nat := fld (barR s (hostKey h 0 0x3000C) 0x800) 0 13 * 32768
def bounceOn (s : State) (h : Nat) : Bool := bitW (barR s (hostKey h 0 0x30018) 0) 5
def bounceSlots (s : State) (h : Nat) : Nat := 2 ^ (min 20 (fld (barR s (hostKey h 0 0x30018) 0) 0 5))
def bounceSize (s : State) (h : Nat) : Nat := max 4096 (roundUp (eagerLimit s h) 4096)
def bounceAddr (s : State) (h k : Nat) : Nat :=
  (barR s (hostKey h 0 0x30014) 0).toNat * 2 ^ 32 + (barR s (hostKey h 0 0x30010) 0).toNat + k * bounceSize s h

def postedAt (s : State) (h : Nat) : List Recv := Maps.get [] s.hs.posted h
def setPosted (h : Nat) (l : List Recv) (s : State) : State := { s with hs.posted := Maps.put [] s.hs.posted h l }
def unexpAt (s : State) (h : Nat) : List Unexp := Maps.get [] s.hs.unexp h
def setUnexp (h : Nat) (l : List Unexp) (s : State) : State := { s with hs.unexp := Maps.put [] s.hs.unexp h l }
/-- Unexpected entries on chip, and in the tier. -/
def onChip (s : State) (h : Nat) : Nat := ((unexpAt s h).filter (fun u => !u.tier)).length
def inTier (s : State) (h : Nat) : Nat := ((unexpAt s h).filter (·.tier)).length

/-- Frees a bounce slot (R285). -/
def freeSlot (h k : Nat) (s : State) : State := updHost h (fun p => { p with slots := p.slots.filter (· ≠ k) }) s

/-! ### Loss (R294) -/

/-- Discards the unexpected entries that `p` picks, with their slots; messages still arriving are discarded as they come. -/
def dropUnexp (h : Nat) (p : Unexp → Bool) (s : State) : State :=
  let out := (unexpAt s h).filter p
  let s := setUnexp h ((unexpAt s h).filter (fun u => !p u)) s
  out.foldl (fun s u => match u.slot with
    | none => s
    | some k =>
      updChan h u.chan (fun x => { x with msgs := x.msgs.map (fun m => if m.dest = .slot k then { m with dest := .gone } else m) })
        (freeSlot h k s)) s

/-- Completes the posted receives that `p` picks with a status. -/
def dropPosted (h st : Nat) (p : Recv → Bool) (s : State) : State :=
  let out := (postedAt s h).filter p
  let s := setPosted h ((postedAt s h).filter (fun r => !p r)) s
  out.foldl (fun s r => match jobOf s h r.job with
    | some j => finishJob h j st 0 0 s
    | none => s) s

/-- The port enters the lost state (R294). -/
def matchLost (h : Nat) (s : State) : State :=
  if (hport s h).lost then s else
  let s := mtcCause h 2 (updHost h (fun p => { p with lost := true }) s)
  dropUnexp h (fun _ => true) (dropPosted h 0x2A (fun _ => true) s)

/-- The pipeline searches the posted receives and unexpected entries of a port: one that an uncorrectable error has struck loses
them (R25, R294; DEDUCED: a search reads them all, log 127). -/
def meetMatch (h : Nat) (s : State) : State :=
  let marks := (postedAt s h).map (·.ecc) ++ (unexpAt s h).map (·.ecc)
  if marks.contains .bad then matchLost h s
  else (marks.filter (· == .corr)).foldl (fun s e => eccMeet (boleOf h) e s) s

/-! ### Envelopes (R275, R276) -/

def enTag (p : Packet) : BitVec 64 := BitVec.ofNat 64 ((Packet.extW p 3 0).toNat + 2 ^ 32 * (Packet.extW p 3 1).toNat)
def enComm (p : Packet) : Word := Packet.extW p 3 2
def enRank (p : Packet) : Word := Packet.extW p 3 3
def enMsn (p : Packet) : BitVec 24 := BitVec.ofNat 24 (Packet.extF p 3 4 0 24)
def enLast (p : Packet) : Bool := bitW (Packet.extW p 3 4) 24
def enLen (p : Packet) : Nat := (Packet.extW p 3 5).toNat
def enOff (p : Packet) : Nat := Packet.extF p 3 6 0 17
def enOrig (p : Packet) : BitVec 24 := BitVec.ofNat 24 (Packet.extF p 3 7 0 24)

/-- A packet is the head of its message (R275). -/
def isHead (p : Packet) : Bool := p.ptype == 0x21 || (p.ptype == 0x20 && enOff p == 0)
/-- PSN of an EAGER packet's head (R280). -/
def headPsn (p : Packet) : Word := p.psn - w32 (enOff p / 4096)

/-- The inconsistencies of R276 that a packet shows by itself. -/
def envBad (s : State) (h : Nat) (p : Packet) : Bool :=
  if p.ptype = 0x20 then
    decide (eagerLimit s h < enLen p) || enOff p % 4096 != 0 || (enOff p != 0 && decide (enLen p ≤ enOff p))
      || p.payload.length != min 4096 (enLen p - enOff p) || enLast p != (enOff p + p.payload.length == enLen p)
  else if p.ptype = 0x21 then enLen p == 0 || !enLast p || Packet.extF p 0 1 16 13 != 0
  else !enLast p

/-- Refuses an inconsistent packet (R276). -/
def badEnvelope (h : Nat) (s : State) : Rx × State := (.bad, mtcCause h 3 (inc (mtcCtr h 11) s))

/-- `fits` of R282, the match space included (R273). -/
def fits (r : Recv) (fn : Nat) (pd : BitVec 16) (tag : BitVec 64) (comm rank : Word) : Bool :=
  r.fn == fn && r.pd == pd && r.comm == comm && (r.any || r.rank == rank) && ((r.tag ^^^ tag) &&& r.mask) == 0

/-! ### Eager delivery (R283, R285, R286) -/

/-- The copies of a host port without that of a receive. -/
def dropCopy (h jid slot : Nat) (s : State) : State :=
  stopWait h (.copy jid slot) (updHost h (fun p => { p with copies := p.copies.filter (fun x => x.job ≠ jid) }) s)

/-- The check of a bounce-slot copy: the values over the slot read and over what the receive write has sent or performed differ
(R382; DESIGN CHOICE, log 160). -/
def copyFails (h : Nat) (gs : List Grant) (bs : List Byte) (s : State) : Bool := checkBy 0 bs != checkBy 0 (grantsKept h gs bs s)

/-- Writes what has been read from a bounce slot into its receive, which completes (R286, R290), with HOST_ERROR when the check of
the copy fails (R383). -/
def copyOut (h : Nat) (c : Copy) (j : Job) (bs : List Byte) (v : View) (s : State) : State :=
  match grantLocal h j 0 bs.length .localWrite v s with
  | (.ok gs, s) =>
    let t := writeGrants h gs bs s
    if copyFails h gs bs s then
      failRecv h j.id 0x12 0 0 c.flags (dropCopy h j.id c.slot
        (cvuNote h 5 0 (Config.copyFailPsn s.out.length) (Config.copyFailSrc s.out.length) t))
    else
    let s := t
    let trunc := decide (lengthOfJob j < c.len)
    finishRecv h j (if trunc then 0x28 else 0) bs.length c.tag c.rank (c.flags ||| flTruncated trunc) (dropCopy h j.id c.slot s)
  | (.wait k, s) => waitFor h (.copy j.id c.slot) k s
  | (r, s) => failRecv h j.id (accStatus r).1 0 (accStatus r).2 c.flags (dropCopy h j.id c.slot s)

/-- Copies a bounce slot into its receive (R286): it is read, freed once it has been read (R285), and written. -/
def runCopy (h jid : Nat) (v : View) (s : State) : State :=
  match (hport s h).copies.find? (fun c => c.job == jid), jobOf s h jid with
  | some c, some j =>
    match c.data with
    | some bs => copyOut h c j bs v s
    | none =>
      let n := min c.len (lengthOfJob j)
      match rdBus h 0 v (fun a l => .read 0 a l false) (bounceAddr s h c.slot) n s with
      | (.ok bs, s) =>
        let s := freeSlot h c.slot (updHost h (fun p => { p with
          copies := p.copies.map (fun x => if x.job = jid then { x with data := some bs } else x) }) s)
        copyOut h c j bs v s
      | (.wait k, s) => waitFor h (.copy jid c.slot) k s
      | (r, s) => failRecv h jid (accStatus r).1 0 (accStatus r).2 c.flags (dropCopy h jid c.slot (freeSlot h c.slot s))
  | _, _ => s

/-- Begins the copy of a slot into a receive. -/
def startCopy (h : Nat) (c : Copy) (v : View) (s : State) : State :=
  runCopy h c.job v (updHost h (fun p => { p with copies := p.copies ++ [c] }) s)

/-- The message of a head PSN that a channel has in delivery. -/
def msgAt (x : Chan) (head : Word) (msn : BitVec 24) : Option MsgRx := x.msgs.find? (fun m => m.head == head && m.msn == msn)

/-- Replaces, or with none removes, a message in delivery. -/
def putMsg (h c : Nat) (m : MsgRx) (keep : Bool) (s : State) : State :=
  updChan h c (fun x =>
    let others := x.msgs.filter (fun y => !(y.head == m.head && y.msn == m.msn))
    { x with msgs := if keep then others ++ [m] else others }) s

/-- Some bytes of a message have been dealt with; with the last of them it completes (R286, R290). -/
def msgTook (h c n : Nat) (m : MsgRx) (v : View) (s : State) : State :=
  let m := { m with left := m.left - n }
  let s := putMsg h c m (m.left != 0) s
  if m.left ≠ 0 then s else
  match m.dest with
  | .recv jid =>
    match jobOf s h jid with
    | some j =>
      let trunc := decide (lengthOfJob j < m.len)
      finishRecv h j (if trunc then 0x28 else 0) (min m.len (lengthOfJob j)) m.tag m.rank (m.flags ||| flTruncated trunc) s
    | none => s
  | .both k jid => startCopy h { job := jid, slot := k, len := m.len, tag := m.tag, rank := m.rank, flags := m.flags } v s
  | .slot k =>
    setUnexp h ((unexpAt s h).map (fun u => if u.slot = some k then { u with late := m.flags.getLsbD 1 } else u)) s
  | .gone => s

/-- The completion queue of a receive is full: a packet that would complete it is refused (R203). -/
def recvFull (s : State) (h : Nat) (j : Job) : Bool := cqFull s h (wqOf s h j.q).cq

/-- Delivers an EAGER packet's payload to where its message goes. A packet that would complete a receive while its CQ is full is
refused, whether the delivery succeeds or fails (R203). -/
def deliverEager (h c : Nat) (p : Packet) (m : MsgRx) (v : View) (s0 : State) : Rx × State :=
  let off := enOff p
  let judge (s : State) : State × Bool := deliverAsd h p (cvuGood h (chanOf s h c) s)
  let take (s : State) : Rx × State :=
    let r := judge s
    (.done, msgTook h c p.payload.length { m with flags := m.flags ||| flLate r.2 } v r.1)
  match m.dest with
  | .recv jid =>
    match jobOf s0 h jid with
    | none =>
      let r := judge s0
      (.done, msgTook h c p.payload.length { m with dest := .gone } v r.1)
    | some j =>
      if p.payload.length = m.left ∧ recvFull s0 h j then (.later 1, s0) else
      match writeBy .eagerWrite h j off (p.payload.take (lengthOfJob j - off)) v s0 with
      | (.ok (), s) => take s
      | (.wait n, s) => (.wait n, putMsg h c m true s)
      | (a, s) =>
        if recvFull s0 h j then (.later 1, s0) else
        let r := judge s
        let s := failRecv h jid (accStatus a).1 (min (m.len - m.left) (lengthOfJob j)) (accStatus a).2 (m.flags ||| flLate r.2) r.1
        (.done, msgTook h c p.payload.length { m with dest := .gone } v s)
  | .slot k => take (wrBus h 0 true (bounceAddr s0 h k + off) p.payload s0)
  | .both k jid =>
    if p.payload.length = m.left ∧ (jobOf s0 h jid).any (recvFull s0 h) then (.later 1, s0)
    else take (wrBus h 0 true (bounceAddr s0 h k + off) p.payload s0)
  | .gone => take s0

/-! ### Rendezvous (R287, R289) -/

/-- Begins the fetch of a rendezvous message into a receive; a channel that is not ACTIVE fails it as it would a READ. -/
def fetchMsg (h c : Nat) (f : Fetch) (v : View) (s : State) : State :=
  let s := inc (mtcCtr h 9) s
  if (chanOf s h c).st ≠ .active then
    mtcCause h 5 (failRecv h f.job 0x22 0 0 (fetchFlags f) s)
  else runChan h c v (updChan h c (fun x => { x with fetches := x.fetches ++ [f], line := x.line ++ [.fetch f.orig] }) s)

/-- Tells a sender that its rendezvous message has been discarded (R293, R294), in the channel's order (R245). `v` is what the step
knows of host memory. -/
def tellDiscarded (h c : Nat) (tag : BitVec 64) (comm rank : Word) (orig : BitVec 24) (v : View) (s : State) : State :=
  if (chanOf s h c).st = .active then
    runChan h c v (updChan h c (fun x => { x with line := x.line ++ [.done (doneTx tag comm rank orig 0 false true)] }) s)
  else s

/-- A RNDV_DONE at the sender (R289). -/
def execDoneRx (h c : Nat) (p : Packet) (s : State) : Rx × State :=
  let x := chanOf s h c
  if envBad s h p then badEnvelope h s
  else if !checkOk x p then (.drop, cvuFail h 3 p s)
  else
    let s := (deliverAsd h p (cvuGood h x s)).1
    match (hport s h).jobs.find? (fun j => j.rndv && j.chan == c && j.sent != 0 && j.msn == enOrig p) with
    | none => (.done, mtcCause h 6 (inc (mtcCtr h 10) s))
    | some j =>
      let s := updChan h c (fun x => { x with line := x.line.filter (· ≠ .job j.id) }) s
      if bitW (Packet.extW p 3 4) 26 then (.done, finishJob h j 0x2B 0 0 s)
      else (.done, finishJob h { j with flags := j.flags ||| flTruncated (bitW (Packet.extW p 3 4) 25) } 0 (enLen p) 0 s)

/-! ### The pipeline (R281 to R288) -/

/-- Refuses a released head with RECEIVER_BUSY (R288). -/
def recvBusy (h : Nat) (s : State) : Rx × State := (.later 2, mtcCause h 1 (inc (mtcCtr h 7) s))

/-- The tier can take entries (R284). -/
def tierRoom (s : State) (h : Nat) : Bool := hbmOk s && decide (inTier s h < tierMax s h)

/-- The lowest free bounce slot (R285; DESIGN CHOICE among the free ones, log 60). -/
def pickSlot (s : State) (h : Nat) : Option Nat :=
  if !bounceOn s h then none
  else (List.range (min (bounceSlots s h) ((hport s h).slots.length + 1))).find? (fun k => !(hport s h).slots.contains k)

/-- Stores a released head that fits no receive (R284, R285), or refuses it. -/
def storeHead (h c : Nat) (p : Packet) (v : View) (s : State) : Rx × State :=
  let x := chanOf s h c
  let chip := decide (onChip s h < unexpMax s h)
  if !chip && !tierRoom s h then recvBusy h s else
  let rndv := p.ptype = 0x21
  let slot := if rndv ∨ enLen p = 0 then none else pickSlot s h
  if !rndv ∧ enLen p ≠ 0 ∧ slot = none then recvBusy h (inc (mtcCtr h 8) s) else
  let s := inc (mtcCtr h 2) s
  let s := if chip then s
           else (let s' := inc (mtcCtr h 3) s; if inTier s h = 0 then mtcCause h 0 s' else s')
  let r := if slot = none then deliverAsd h p (cvuGood h x s) else (s, false)
  let s := r.1
  let e : Unexp := {
    seq := (hport s h).relSeq, fn := x.fn, pd := x.pd, chan := c, msn := enMsn p, tag := enTag p, comm := enComm p,
    rank := enRank p, len := enLen p, tier := !chip, slot := slot, late := r.2,
    rndv := if rndv then some (violAddr p, Packet.extW p 0 2) else none }
  let s := setUnexp h (unexpAt s h ++ [e]) s
  match slot with
  | none => (.done, s)
  | some k =>
    let s := updHost h (fun q => { q with slots := k :: q.slots }) s
    deliverEager h c p { head := p.psn, msn := enMsn p, dest := .slot k, left := enLen p, len := enLen p, tag := enTag p,
                         comm := enComm p, rank := enRank p } v s

/-- A released head acts (R281): discarded while matching state is lost, refused, matched or stored. One that would complete its
receive while the CQ is full is refused (R203). -/
def releaseHead (h c : Nat) (p : Packet) (v : View) (s1 : State) : Rx × State :=
  let s0 := meetMatch h s1
  let s := s0
  let x := chanOf s h c
  let s := inc (mtcCtr h 0) (updHost h (fun q => { q with relSeq := q.relSeq + 1 }) s)
  let msg (d : Dest) : MsgRx :=
    { head := p.psn, msn := enMsn p, dest := d, left := enLen p, len := enLen p, tag := enTag p, comm := enComm p, rank := enRank p }
  if (hport s h).lost then
    let s := inc (mtcCtr h 12) s
    if p.ptype = 0x21 then (.done, tellDiscarded h c (enTag p) (enComm p) (enRank p) (enMsn p) v (deliverAsd h p (cvuGood h x s)).1)
    else deliverEager h c p (msg .gone) v s
  else if !mtcOn s h then recvBusy h s
  else match (postedAt s h).find? (fun r => fits r x.fn x.pd (enTag p) (enComm p) (enRank p)) with
    | none => storeHead h c p v s
    | some r =>
      let ends := if p.ptype = 0x20 then enLen p == p.payload.length else r.len == 0 || x.st != .active
      if ends ∧ (jobOf s h r.job).any (recvFull s h) then (.later 1, s0) else
      let s := inc (mtcCtr h 1) (setPosted h ((postedAt s h).filter (fun y => y.job ≠ r.job)) s)
      if p.ptype = 0x21 then
        let n := min (enLen p) r.len
        let l := deliverAsd h p (cvuGood h x s)
        let f : Fetch := {
          job := r.job, orig := enMsn p, tag := enTag p, comm := enComm p, rank := enRank p, addr := violAddr p,
          key := Packet.extW p 0 2, len := n, msgLen := enLen p, left := n, unexp := false,
          late := l.2 }
        (.done, fetchMsg h c f v l.1)
      else
        match deliverEager h c p (msg (.recv r.job)) v s with
        | (.later n, _) => (.later n, s0)
        | d => d

/-- Where the payload of an EAGER packet goes: on with its message, and for a head to the receive that it matches, or to the slot
that it would take. -/
def eagerDest (h : Nat) (p : Packet) (x : Chan) (s : State) : Dest :=
  match msgAt x (headPsn p) (enMsn p) with
  | some m => m.dest
  | none =>
    if !isHead p ∨ (hport s h).lost ∨ !mtcOn s h then .gone
    else match (postedAt s h).find? (fun r => fits r x.fn x.pd (enTag p) (enComm p) (enRank p)) with
      | some r => .recv r.job
      | none => if enLen p ≠ 0 ∧ (decide (onChip s h < unexpMax s h) || tierRoom s h) then ((pickSlot s h).map Dest.slot).getD .gone else .gone

/-- An EAGER packet whose check fails: its bytes stay where they went without its having executed, and a match is undone (R383;
DESIGN CHOICE, log 160). -/
def failEager (h : Nat) (p : Packet) (x : Chan) (v : View) (s : State) : Rx × State :=
  let drop (s : State) : Rx × State := (.drop, cvuFail h 3 p s)
  match eagerDest h p x s with
  | .recv jid =>
    match jobOf s h jid with
    | none => drop s
    | some j =>
      let bs := p.payload.take (lengthOfJob j - enOff p)
      match grantLocal h j (enOff p) bs.length .eagerWrite v s with
      | (.ok gs, s) => drop (writeGrants h (gs.map Grant.quiet) bs s)
      | (.wait n, s) => (.wait n, s)
      | (_, s) => drop s
  | .slot k => drop (wrBus h 0 true (bounceAddr s h k + enOff p) p.payload s)
  | .both k _ => drop (wrBus h 0 true (bounceAddr s h k + enOff p) p.payload s)
  | .gone => drop s

/-- An EAGER or RNDV_RTS packet at its turn (R276, R280, R283). A head that has been matched and waits for host memory goes on
with its delivery. -/
def execMatchRx (h c : Nat) (p : Packet) (v : View) (s : State) : Rx × State :=
  let x := chanOf s h c
  if envBad s h p then badEnvelope h s
  else if !checkOk x p then (if p.ptype = 0x20 then failEager h p x v s else (.drop, cvuFail h 3 p s))
  else if isHead p then
    match msgAt x p.psn (enMsn p) with
    | some m => deliverEager h c p m v s
    | none => releaseHead h c p v s
  else match msgAt x (headPsn p) (enMsn p) with
    | some m => deliverEager h c p m v s
    | none => badEnvelope h s

/-! ### Posting (R279, R286) -/

/-- A POST_RECV that has been checked searches the unexpected store, then enters its bin (R286). -/
def post (h : Nat) (j : Job) (pd : BitVec 16) (v : View) (s : State) : State :=
  let f := Job.op j
  let r : Recv := {
    job := j.id, seq := (hport s h).postSeq, fn := (wqOf s h j.q).fn, pd := pd, tag := BitVec.ofNat 64 (u64 f 11),
    mask := BitVec.ofNat 64 (u64 f 8), comm := wAt f 13, rank := wAt f 14, any := bAt f 10 0, len := lengthOfJob j }
  let s := updJob h j.id (fun j => { j with ready := true }) s
  let s := if inTier s h = 0 then s else inc (mtcCtr h 14) s
  match (unexpAt s h).find? (fun u => fits r u.fn u.pd u.tag u.comm u.rank) with
  | none =>
    uncover h j.id false (inc (mtcCtr h 5) (setPosted h (postedAt s h ++ [r])
      (updHost h (fun p => { p with postSeq := p.postSeq + 1 }) s)))
  | some u =>
    let s := setUnexp h ((unexpAt s h).filter (fun y => y.seq ≠ u.seq)) s
    let s := uncover h j.id false (inc (mtcCtr h 4) s)
    match u.rndv, u.slot with
    | some (a, key), _ =>
      let n := min u.len r.len
      let g : Fetch := {
        job := j.id, orig := u.msn, tag := u.tag, comm := u.comm, rank := u.rank, addr := a, key := key,
        len := n, msgLen := u.len, left := n, unexp := true,
        late := u.late }
      fetchMsg h u.chan g v s
    | none, none => finishRecv h j 0 0 u.tag u.rank (flUnexpected true ||| flLate u.late) s
    | none, some k =>
      match (chanOf s h u.chan).msgs.find? (fun m => m.dest = .slot k) with
      | some m => putMsg h u.chan { m with dest := .both k j.id, flags := m.flags ||| flUnexpected true } true s
      | none =>
        startCopy h { job := j.id, slot := k, len := u.len, tag := u.tag, rank := u.rank,
                      flags := flUnexpected true ||| flLate u.late } v s

/-- A POST_RECV at issue (R279, R294). -/
def stepRecv (h : Nat) (j : Job) (v : View) (s : State) : State :=
  let s := meetMatch h s
  if !mtcOn s h then malformed h j 10 s
  else if (hport s h).lost then finishJob h j 0x2A 0 0 s
  else
    let f := Job.op j
    match failCount h false (checkKey h (wAt f 6) (u64 f 4) (wAt f 7).toNat .localWrite (jobWho s h j) v s) with
    | (.ok d, s) =>
      match checkLocal h j .localWrite v s with
      | (.ok (), s) => post h j (BitVec.ofNat 16 (fAt d 1 16 16)) v (stopWait h (.job j.id) s)
      | (a, s) => failAcc h j 0 a s
    | (a, s) => failAcc h j 0 a s

/-! ### Reset (R293) -/

/-- MATCH_RESET (R293). -/
def stepMatchReset (h : Nat) (j : Job) (s : State) : State :=
  let port := Job.subop j = 2
  let pd := BitVec.ofNat 16 (fAt (Job.op j) 11 0 16)
  let fn := fAt (Job.op j) 12 0 8
  let s := meetMatch h s
  let s := dropPosted h 2 (fun r => port || (r.fn == fn && r.pd == pd)) s
  let sel (u : Unexp) : Bool := port || (u.fn == fn && u.pd == pd)
  let rv := (unexpAt s h).filter (fun u => sel u && u.rndv.isSome)
  let s := dropUnexp h sel s
  let s := rv.foldl (fun s u => tellDiscarded h u.chan u.tag u.comm u.rank u.msn {} s) s
  let s := if port then updHost h (fun p => { p with lost := false }) s else s
  finishJob h j 0 0 0 s

end Sys2Proof.Machine
end

