-- ==== Sys2Proof/Machine/Trigger.lean ====
section
/-! DEFINITION. Event counters and triggered operations (10): the counter jobs, arming, firing, enabling by message, and
cancelling. -/

namespace Sys2Proof.Machine

/-- The status of R301 for a counter that a job of a queue names. -/
def ctrStatus (s : State) (h : Nat) (w : Wq) (c : Nat) : Option Nat :=
  let x := evc s h c
  if x.st = 0 ∨ (x.fn ≠ w.fn ∧ !pfPriv w) then some 0x38 else if x.st = 2 then some 0x39 else none

/-- VALUE of a counter job (R300). -/
def ctrValue (f : List Word) : BitVec 48 := BitVec.ofNat 48 (u64 f 13)

def stepCtrCreate (h : Nat) (j : Job) (s : State) : State :=
  let c := fAt (Job.op j) 11 0 16
  if (evc s h c).st ≠ 0 then malformed h j 9 s
  else finishJob h j 0 0 0 (setEvc h c { st := 1, fn := fAt (Job.op j) 12 0 8, value := ctrValue (Job.op j) } s)

/-- The abandoned triggers of a LOST counter, which keep STATE ARMED, are the driver's to reclaim once it is destroyed (R314). -/
def forgetTrigs (h c : Nat) (s : State) : State :=
  { s with hs.slots := s.hs.slots.filter (fun e =>
      !(e.2.st == 1 && e.1 / 2 ^ 28 == h && fAt e.2.hdr 0 2 1 == 0 && fAt e.2.hdr 2 0 16 == c)) }

/-- CTR_DESTROY (R300). An ABSENT counter is no object, and another function's is not the queue's to destroy (R182). -/
def stepCtrDestroy (h : Nat) (j : Job) (s : State) : State :=
  let c := fAt (Job.op j) 11 0 16
  let s := meetCtr h c s
  let x := evc s h c
  if x.st = 0 then malformed h j 10 s
  else if !mayActFor (wqOf s h j.q) x.fn then malformed h j 2 s
  else if x.st = 1 ∧ x.head.isSome then malformed h j 9 s
  else finishJob h j 0 0 0 (setEvc h c {} (if x.st = 2 then forgetTrigs h c s else s))

def stepCtrSet (h : Nat) (j : Job) (s : State) : State :=
  let c := fAt (Job.op j) 11 0 16
  let s := meetCtr h c s
  match ctrStatus s h (wqOf s h j.q) c with
  | some st => finishJob h j st 0 0 s
  | none => finishJob h j 0 0 0 (ctrUpdate h c (fun _ => ctrValue (Job.op j)) s)

def stepCtrAdd (h : Nat) (j : Job) (s : State) : State :=
  let c := fAt (Job.op j) 11 0 16
  let s := meetCtr h c s
  match ctrStatus s h (wqOf s h j.q) c with
  | some st => finishJob h j st 0 0 s
  | none => finishJob h j 0 0 0 (ctrUpdate h c (fun v => v + ctrValue (Job.op j)) s)

def stepCtrRead (h : Nat) (j : Job) (v : View) (s : State) : State :=
  let c := fAt (Job.op j) 11 0 16
  let s := meetCtr h c s
  match ctrStatus s h (wqOf s h j.q) c with
  | some st => finishJob h j st 0 0 s
  | none =>
    match writeLocal h j 0 (leBytes 8 (evc s h c).value.toNat) v s with
    | (.ok (), s) => finishJob h j 0 8 0 s
    | (a, s) => failAcc h j 0 a s

/-! ### Arming (R305 to R307) -/

/-- Bus address of a slot. -/
def slotAddr (s : State) (h fn k : Nat) : Nat := poolBase s h fn + 1024 * k

/-- Another operation has the slot: it waits for the header, or the slot is being fired (R313: they are serialised). -/
def slotBusy (s : State) (h fn k : Nat) (me : Client) : Bool :=
  (hport s h).waits.any (fun w => decide (w.client ≠ me) && (match w.need with
    | .read f a _ slot => slot && f == fn && a == slotAddr s h fn k
    | _ => false))
  || (hport s h).firing.any (fun f => f.fn == fn && f.slot == k)

/-- Reads `n` words of a slot for an operation, which waits while another has the slot, and while 256 slot reads of the Bole are
in flight (R315). -/
def readSlot (h fn k n : Nat) (me : Client) (v : View) (s : State) : Acc (List Word) × State :=
  let a := slotAddr s h fn k
  let need : Need := .read fn a (4 * n) true
  if slotBusy s h fn k me ∨ (v.was ≠ some need ∧ 256 ≤ slotReads s (boleOf h)) then (.wait (.slot fn k), s)
  else andThen (rdHost h v need a (4 * n) s) (fun bs s => (.ok (bWords n bs), s))

/-- The header that TRIG_ARM writes (R305, R307). -/
def armHeader (f : List Word) (q n : Nat) : List Word :=
  let msg := fAt f 1 24 8 = 2
  padW 16 [pack [(0, 2, 1), (2, 1, b2n msg), (3, 1, fAt f 14 20 1), (4, 4, n)], w32 q,
    pack [(0, 16, if msg then 0 else fAt f 11 0 16), (16, 16, fAt f 11 16 16)],
    if msg then 0 else wAt f 12, pack [(0, 16, if msg then 0 else fAt f 13 0 16), (16, 16, fAt f 13 16 16)],
    pack [(20, 1, 1)], 0, 0, if msg then w32 (fAt f 1 0 24) else 0, if msg then wAt f 10 else 0]

/-- Links a trigger as its counter's new tail (R307 step 5). -/
def linkTrig (h c fn k : Nat) (t : BitVec 48) (s : State) : State :=
  let x := evc s h c
  let key := fn * 2 ^ 20 + k
  match x.tail with
  | none => setEvc h c { x with head := some (key, t), tail := some (key, t) } s
  | some (o, _) =>
    let ofn := o / 2 ^ 20
    let ok := o % 2 ^ 20
    let old := slotOf s h ofn ok
    let ws := [w32 k, w32 t.toNat, w32 (t.toNat / 2 ^ 32)]
    let hdr := ((old.hdr.set 5 (wAt ws 0)).set 6 (wAt ws 1)).set 7 (wAt ws 2)
    let s := setSlot h ofn ok { old with hdr := hdr, next := some (key, t) } s
    let s := hostWr h ofn (slotAddr s h ofn ok + 20) (wBytes ws) false s
    setEvc h c { x with tail := some (key, t) } s

/-- TRIG_ARM (R307). -/
def stepTrigArm (h : Nat) (j : Job) (v : View) (s : State) : State :=
  let f := Job.op j
  let w := wqOf s h j.q
  let fn := w.fn
  let k := fAt f 14 0 20
  let counter := Job.subop j = 1
  let c := fAt f 11 0 16
  let t := BitVec.ofNat 48 (u64 f 12)
  let s := if counter then meetCtr h c s else s
  let s := if bAt f 14 20 then meetCtr h (fAt f 11 16 16) s else s
  let st := if !poolOn s h fn ∨ poolSlots s h fn ≤ k then some 0x3B
    else match (if counter then ctrStatus s h w c else none) with
      | some x => some x
      | none => if bAt f 14 20 then ctrStatus s h w (fAt f 11 16 16) else none
  match st with
  | some x => finishJob h j x 0 0 s
  | none =>
    match readSlot h fn k 16 (.job j.id) v s with
    | (.ok hdr, s) =>
      let late := match (evc s h c).tail with
        | some (_, y) => counter && decide (2 ^ 47 ≤ (t - y).toNat)
        | none => false
      if wAt hdr 0 ≠ 0 then finishJob h j 0x3C 0 0 s
      else if late then finishJob h j 0x3A 0 0 s
      else
        let ops := j.ents.drop 1
        let hd := armHeader f j.q ops.length
        let s := hostWr h fn (slotAddr s h fn k + 64) (ops.flatMap (fun e => wBytes (padW 16 e))) false s
        let s := hostWr h fn (slotAddr s h fn k) (wBytes hd) false s
        let s := setSlot h fn k { st := 1, hdr := hd, ents := ops } s
        let s := if counter then linkTrig h c fn k t s else s
        let s := finishJob h j 0 0 0 (inc (ectCtr h 2) s)
        if counter then fire h c s else s
    | (a, s) => failAcc h j 0 a s

/-! ### Firing (R309, R314) -/

/-- Frees a slot whose trigger ends without its job's completion: all of it is zeroed. -/
def zeroSlot (h fn k : Nat) (s : State) : State :=
  hostWr h fn (slotAddr s h fn k) (List.replicate 1024 0) false
    { s with hs.slots := Maps.erase (slotKey h fn k) s.hs.slots }

/-- The job of a slot image (R305, R309). -/
def firedJob (h id k : Nat) (list : Option Nat) (ws : List Word) : Job :=
  let n := fAt ws 0 4 4
  { id := id, h := h, q := fAt ws 1 0 20, idx := w32 k, fired := some k, list := list,
    ents := (List.range n).map (fun i => (List.range 16).map (fun w => wAt ws (16 + 16 * i + w))),
    count := if bAt ws 0 3 then some (fAt ws 2 16 16, fAt ws 4 16 16) else none }

/-- A fired slot has been read (R309): its job waits for issue on the arming queue, or the trigger is orphaned. -/
def issueFired (h fn k : Nat) (list : Option Nat) (ws : List Word) (s : State) : State :=
  let id := (hport s h).nextJob
  let j := firedJob h id k list ws
  if (wqOf s h j.q).st = .absent then ectCause h 1 (inc (ectCtr h 5) (zeroSlot h fn k s))
  else
    let s := hostWr h fn (slotAddr s h fn k) (leBytes 4 (pack [(0, 2, 2), (2, 30, fld (wAt ws 0) 2 30)]).toNat) false s
    let s := setSlot h fn k { slotOf s h fn k with st := 2 } s
    inc (ectCtr h 3) (updHost h (fun p => { p with nextJob := p.nextJob + 1, firedq := p.firedq ++ [j] }) s)

/-- Ends one armed trigger of a queue CANCELLED: its slot is zeroed, and its operation's completion is committed, as that of job
`id`. -/
def cancelSlot (h id fn k q : Nat) (ents : List (List Word)) (s : State) : State :=
  let j : Job := { id := id, h := h, q := q, idx := w32 k, ents := ents, fired := some k }
  let s := inc (ectCtr h 4) (zeroSlot h fn k s)
  if (wqOf s h q).st = .absent then uncover h id false s else pushComp h q id false (comp0 j 2 0 0) s

/-- A slot that a TRIG_CANCEL reads has come (R313); of one that cannot be read, the engine knows the operation (DESIGN CHOICE, log
158). -/
def cancelRead (h id : Nat) (f : Firing) (s : State) : State :=
  let sl := slotOf s h f.fn f.slot
  match f.got with
  | some (some ws) =>
    let t := firedJob h id f.slot none ws
    cancelSlot h id f.fn f.slot t.q t.ents s
  | _ => cancelSlot h id f.fn f.slot (fAt sl.hdr 1 0 20) sl.ents (dmaErr h s)

/-- Uses the slot images that have come, those of one counter in the order of its list (R309). A slot whose read failed keeps
STATE ARMED, and its counter is LOST (R314). -/
def useSlots : Nat → Nat → State → State
  | 0, _, s => s
  | fuel + 1, h, s =>
    let fs := (hport s h).firing
    let ready := fs.find? (fun f => f.got.isSome &&
      ((fs.takeWhile (fun g => g != f)).all (fun g => f.ctr.isNone || g.ctr != f.ctr)))
    match ready with
    | none => s
    | some f =>
      let s := updHost h (fun p => { p with firing := p.firing.erase f }) s
      let s := match f.cancel, f.got with
        | some id, _ => cancelRead h id f s
        | none, some (some ws) => issueFired h f.fn f.slot f.ctr ws s
        | none, _ =>
          let s := ectCause h 2 (inc (ectCtr h 9) (dmaErr h s))
          match f.ctr with
          | some c => loseCtr h c (setSlot h f.fn f.slot { slotOf s h f.fn f.slot with st := 1 } s)
          | none => s
      useSlots fuel h s

def effTrigSlotReadDone (h fn slot : Nat) (image : Option (List Word)) (s : State) : State :=
  if !hostUp s h ∨ dmaHeld s h (.slot fn slot) then s else
  match (hport s h).firing.find? (fun f => f.fn == fn && f.slot == slot && f.asked && f.got.isNone) with
  | none => s
  | some f =>
    let s := updHost h (fun p => { p with firing := p.firing.map (fun x => if x = f then { f with got := some image } else x) }) s
    let s := useSlots (hport s h).firing.length h s
    askSlots (2 * boleOf h + 1) (askSlots (2 * boleOf h) s)

/-! ### Enabling by message (R311, R312) -/

/-- An arriving TRIG_ENABLE at its turn. It has executed once the job that it fires has been issued. -/
def execEnableRx (h c : Nat) (p : Packet) (v : View) (s : State) : Rx × State :=
  let issued (id : Nat) (s : State) : Rx × State :=
    if (hport s h).firedq.any (fun j => j.id == id) then (.wait (.issue id), s) else (.done, s)
  match v.was with
  | some (.issue id) => issued id s
  | _ =>
  let x := chanOf s h c
  let fn := x.fn
  let k := Packet.extF p 0 0 0 20
  let badOne (s : State) : State := ectCause h 4 (inc (ectCtr h 10) s)
  if !checkOk x p then (.drop, cvuFail h 3 p s)
  else if !poolOn s h fn ∨ poolSlots s h fn ≤ k ∨ Packet.extF p 0 0 20 12 ≠ 0 ∨ Packet.extF p 0 1 0 16 ≠ 0
      ∨ Packet.extF p 0 1 16 13 ≠ 0 then (.bad, badOne s)
  else match readSlot h fn k 256 (.chan c p.psn) v s with
    | (.ok ws, s) =>
      if fAt ws 0 0 2 ≠ 1 ∨ !bAt ws 0 2 then (.later 1, inc (ectCtr h 7) s)
      else if fAt ws 8 0 24 ≠ c ∨ wAt ws 9 ≠ Packet.extW p 0 2 then (.denied 2, badOne s)
      else issued (hport s h).nextJob (inc (ectCtr h 6) (issueFired h fn k none ws (cvuGood h x s)))
    | (.wait n, s) => (.wait n, s)
    | (_, s) => (.later 1, ectCause h 2 (inc (ectCtr h 9) s))

/-! ### Cancelling triggers (R313) -/

/-- The triggers of a counter's list, in order. -/
def trigList : Nat → State → Nat → Option (Nat × BitVec 48) → List Nat
  | 0, _, _, _ => []
  | _ + 1, _, _, none => []
  | fuel + 1, s, h, some (k, _) => k :: trigList fuel s h (slotOf s h (k / 2 ^ 20) (k % 2 ^ 20)).next

/-- The slots of a counter's triggers are read for a TRIG_CANCEL, which ends when the completions it causes have been written: those of
the jobs from `id` on. -/
def cancelList (h c : Nat) (j : Job) (l : List Nat) (s : State) : State :=
  if l = [] then finishJob h j 0 0 0 s else
  let id := (hport s h).nextJob
  let fs : List Firing := (List.range l.length).map (fun i =>
    { fn := l.getD i 0 / 2 ^ 20, slot := l.getD i 0 % 2 ^ 20, ctr := some c, cancel := some (id + i) })
  let s := updHost h (fun p => { p with nextJob := p.nextJob + l.length, firing := p.firing ++ fs }) s
  let s := updJob h j.id (fun j => { j with waitFor := (List.range l.length).map (id + ·) }) s
  fs.foldl (fun s _ => askSlots h s) s

/-- TRIG_CANCEL (R313). A slot that no enabled pool holds is FREE (DESIGN CHOICE, log 62). -/
def stepTrigCancel (h : Nat) (j : Job) (v : View) (s : State) : State :=
  let w := wqOf s h j.q
  if Job.subop j = 1 then
    let c := fAt (Job.op j) 11 0 16
    let s := meetCtr h c s
    match ctrStatus s h w c with
    | some st => finishJob h j st 0 0 s
    | none =>
      let x := evc s h c
      let l := trigList (s.hs.slots.length + 1) s h x.head
      cancelList h c j l (setEvc h c { x with head := none, tail := none } s)
  else
    let k := fAt (Job.op j) 14 0 20
    if !poolOn s h w.fn ∨ poolSlots s h w.fn ≤ k then finishJob h j 4 0 0 s
    else match readSlot h w.fn k 256 (.job j.id) v s with
      | (.ok ws, s) =>
        if fAt ws 0 0 2 = 0 then finishJob h j 4 0 0 s
        else if fAt ws 0 0 2 ≠ 1 then finishJob h j 3 0 0 s
        else if !bAt ws 0 2 then malformed h j 7 s
        else
          let id := (hport s h).nextJob
          let t := firedJob h id k none ws
          finishJob h j 0 0 0 (cancelSlot h id w.fn k t.q t.ents (updHost h (fun p => { p with nextJob := id + 1 }) s))
      | (a, s) => failAcc h j 0 a s

end Sys2Proof.Machine
end

