-- ==== Sys2Proof/Machine/Register.lean ====
section
/-! DEFINITION. Contexts, regions and invalidations (07): the privileged jobs of R219, and how an invalidation runs at a
Bole and between the two (R229 to R233). -/

namespace Sys2Proof.Machine

/-! ### Contexts (R219, R220) -/

/-- A registered region of any host port names a context. -/
def ctxNamed (s : State) (home n : Nat) : Bool :=
  s.hs.regions.any (fun e => !bAt e.2 0 7 && fAt e.2 1 12 2 == home && fAt e.2 1 0 12 == n)

/-- XCTX_CREATE (R220). Naming a function that the queue may not act for is R182's violation. -/
def stepXctxCreate (h : Nat) (j : Job) (v : View) (s : State) : State :=
  let n := fAt (Job.op j) 11 0 12
  let home := fAt (Job.op j) 11 12 2
  if (xctxOf s home n).active then malformed h j 9 s else
  match rdWords h (wqOf s h j.q).fn v (u64 (Job.op j) 4) 8 s with
  | (.ok d, s) =>
    let share := fAt d 2 2 4
    let fn := fAt d 3 0 8
    let bcast := bAt d 2 0
    let trig := bAt d 2 6
    if !mayActFor (wqOf s h j.q) fn then malformed h j 2 s
    else if fAt d 0 0 12 ≠ 0 ∨ share / 2 ^ home % 2 = 0 ∨ (!bcast ∧ (share ≠ 2 ^ home ∨ trig))
        ∨ (fn ≠ 0 ∧ (home ≠ h ∨ share ≠ 2 ^ h)) then malformed h j 8 s
    else
      let x : Xctx := { active := true, root := u64 d 0, bcast := bcast, adEn := bAt d 2 1, share := BitVec.ofNat 4 share,
                        trig := trig, fn := fn }
      finishJob h j 0 0 0 { s with hs.xctx := Maps.put {} s.hs.xctx (objKey 12 home n) x }
  | (a, s) => failAcc h j 0 a s

/-- Removes what the caches of a Bole hold of the contexts that `p` picks by tag; the success of a compare-and-swap that is out
leaves no slot then. -/
def flushCtx (b : Nat) (p : Nat → Bool) (s : State) : State :=
  updXl b (fun x => { x with
    tlb := x.tlb.filter (fun t => !p t.ctx), micro := x.micro.filter (fun t => !p t.2.ctx), walks := x.walks.filter (fun w => !p w.ctx)
    cas := x.cas.map (fun c => if p c.ctx then { c with tlb := { c.tlb with pages := 0 } } else c) }) s

/-- Removes a context and every translation of it (R219). -/
def dropCtx (home n : Nat) (s : State) : State :=
  let p (ck : Nat) : Bool := ck % 2 ^ 14 == home * 2 ^ 12 + n
  flushCtx 1 p (flushCtx 0 p { s with hs.xctx := Maps.erase (objKey 12 home n) s.hs.xctx })

/-- The queue of a function of host port `h` owns a context, or is the PF of a port that shares it (R229). -/
def ownsCtx (w : Wq) (h home : Nat) (x : Xctx) : Bool := (home == h && x.fn == w.fn) || (w.fn == 0 && x.share.getLsbD h)

/-- XCTX_DESTROY (R219). -/
def stepXctxDestroy (h : Nat) (j : Job) (s : State) : State :=
  let n := fAt (Job.op j) 11 0 12
  let home := fAt (Job.op j) 11 12 2
  let x := xctxOf s home n
  if !x.active ∨ !x.share.getLsbD h then malformed h j 10 s
  else if !ownsCtx (wqOf s h j.q) h home x then malformed h j 2 s
  else if ctxNamed s home n then malformed h j 9 s
  else finishJob h j 0 0 0 (dropCtx home n s)

/-! ### Regions (R219) -/

def regionAt (s : State) (h idx : Nat) : List Word := Maps.get [] s.hs.regions (objKey 24 h idx)
/-- Flushes the cached copy of a descriptor. -/
def flushRegion (h idx : Nat) (s : State) : State := { s with hs.mrCache := Maps.erase (objKey 24 h idx) s.hs.mrCache }
/-- The function whose object a region is, if there is one: by its registered descriptor, or by a cached one (R182). -/
def regionFn (s : State) (h idx : Nat) : Option Nat :=
  let d := regionAt s h idx
  let d := if d = [] then Maps.get [] s.hs.mrCache (objKey 24 h idx) else d
  if d = [] then none else some (fAt d 0 16 8)
/-- The queue of a job may act on a region (R182). -/
def mayRegion (s : State) (h : Nat) (j : Job) (idx : Nat) : Bool := (regionFn s h idx).all (mayActFor (wqOf s h j.q))

/-- MR_REGISTER (R219). An index beyond the table names no object (DESIGN CHOICE, log 63). -/
def stepMrRegister (h : Nat) (j : Job) (v : View) (s : State) : State :=
  let idx := fAt (Job.op j) 11 0 24
  if 2 ^ mrtLog s h ≤ idx then malformed h j 10 s
  else if !mayRegion s h j idx then malformed h j 2 s else
  match rdWords h 0 v (mrtBase s h + 64 * idx) 16 (flushRegion h idx s) with
  | (.ok d, s) =>
    let x := regionXctx s d
    if !bAt d 0 0 ∨ 2 ^ 48 < u64 d 2 + u64 d 4 ∨ (!bAt d 0 7 ∧ (!x.active ∨ !x.share.getLsbD h))
        ∨ (bAt d 0 7 ∧ fAt d 0 16 8 ≠ 0) ∨ !mayActFor (wqOf s h j.q) (fAt d 0 16 8) then malformed h j 8 s
    else finishJob h j 0 0 0 { s with hs.regions := Maps.put [] s.hs.regions (objKey 24 h idx) d }
  | (a, s) => failAcc h j 0 a s

/-- The region through which a client's access goes. -/
def Need.region : Need → Option Nat
  | .read _ _ _ _ => none
  | .walk _ _ _ _ _ _ r _ _ => some r
  | .data _ _ _ _ _ _ r _ _ => some r
  | .cas _ r => some r
  | .page _ _ r => some r
  | .turn _ r => some r
  | .walker r => some r
  | .slot _ _ => none
  | .issue _ => none
/-- An access that used a region is in flight: a client waits in it (R219). -/
def regionBusy (s : State) (h idx : Nat) : Bool := (hport s h).waits.any (fun w => w.need.region == some (objKey 24 h idx))

/-- MR_INVALIDATE (R219): flushed at once; the job completes when no access that used the region is in flight. -/
def stepMrInvalidate (h : Nat) (j : Job) (s : State) : State :=
  let idx := fAt (Job.op j) 11 0 24
  if 2 ^ mrtLog s h ≤ idx then malformed h j 10 s
  else if !mayRegion s h j idx then malformed h j 2 s else
  let s := flushRegion h idx s
  let s := { s with hs.regions := Maps.erase (objKey 24 h idx) s.hs.regions }
  if regionBusy s h idx then s else finishJob h j 0 0 0 s

/-- Completes the MR_INVALIDATE jobs of a host port that wait for nothing more. -/
def endMrWaits (h : Nat) (s : State) : State :=
  ((hport s h).jobs.filter (fun j => j.begun && Job.opcode j == 0x53)).foldl (fun s j =>
    if regionBusy s h (fAt (Job.op j) 11 0 24) then s else finishJob h j 0 0 0 s) s

/-! ### Invalidation (R229 to R233) -/

/-- The invalidation names the context of a tag (R229). -/
def invNames (s : State) (i : Inval) (ck : Nat) : Bool :=
  let home := ck / 2 ^ 12 % 4
  let n := ck % 2 ^ 12
  if i.scope = 3 then home == i.port && (xctxOf s home n).active && (xctxOf s home n).fn == i.fn
  else home == i.home && n == i.ctx

/-- First page of an invalidation and the first beyond it. -/
def invLo (i : Inval) : Nat := if i.scope = 1 then i.start / 4096 else 0
def invHi (i : Inval) : Nat := if i.scope = 1 then (i.start + i.len) / 4096 else 2 ^ 36

/-- Pages `p` to `p + n - 1` of a context fall under an invalidation. -/
def invHits (s : State) (i : Inval) (ck p n : Nat) : Bool :=
  invNames s i ck && decide (p < invHi i ∧ invLo i < p + n)

/-- A TLB slot that an invalidation removes, and a walk-cache entry: one whose table spans any byte of it. -/
def invTlb (s : State) (i : Inval) (t : Tlb) : Bool := invHits s i t.ctx t.page t.pages
def invWalk (s : State) (i : Inval) (w : WalkEnt) : Bool := invHits s i w.ctx (w.sel * 2 ^ (9 * w.level)) (2 ^ (9 * w.level))

/-- Removes an invalidation's entries from the caches of a Bole. -/
def invFlush (b : Nat) (i : Inval) (s : State) : State :=
  updXl b (fun x => { x with tlb := x.tlb.filter (fun t => !invTlb s i t), micro := x.micro.filter (fun t => !invTlb s i t.2)
                             walks := x.walks.filter (fun w => !invWalk s i w) }) s

/-- A walk that has read an entry which the invalidation removes (R230): the one that names the table at which it started, or the
first that it has read itself. -/
def invStops (s : State) (i : Inval) (n : Need) : Bool :=
  match n with
  | .walk _ ck page start deep _ _ _ _ =>
    let span := 2 ^ (9 * min start 3)
    (start < 4 || deep) && invHits s i ck (page / span * span) span
  | _ => false

/-- An access in flight that used a translation which the invalidation removes, by whatever page of its slot (R230, R231). -/
def invHeld (s : State) (i : Inval) (n : Need) : Bool :=
  match n with
  | .data _ _ _ ck _ _ _ first pages => invHits s i ck first pages
  | _ => false

/-- Begins an invalidation at a Bole: its entries go, and walks that have read one of them are abandoned. -/
def invBegin (b : Nat) (i : Inval) (s : State) : State :=
  let s := updXl b (fun x => { x with invals := x.invals.map (fun y => if y.id = i.id then { y with begun := true } else y) }) s
  let s := invFlush b i s
  [2 * b, 2 * b + 1].foldl (fun s h => updHost h (fun p => { p with
    waits := p.waits.map (fun w => if invStops s i w.need then { w with need := .turn i.id (w.need.region.getD 0) } else w) }) s) s

/-- Begins waiting invalidations while fewer than 64 run (R232). -/
def invNext (b : Nat) (s : State) : State :=
  let l := (xl s b).invals
  if 64 ≤ (l.filter (fun i => i.begun && !i.done)).length then s else
  match l.find? (fun i => !i.begun) with
  | some i => invBegin b i s
  | none => s

/-- The payload of XINV and XINV_ACK (R233). -/
def xinvPayload (i : Inval) (xseq : BitVec 16) : List Byte :=
  wBytes ([pack [(0, 16, xseq.toNat), (16, 2, i.scope), (18, 2, i.home), (20, 12, i.ctx)], pack [(0, 8, i.fn), (8, 2, i.port)]]
    ++ w64 i.start ++ w64 i.len ++ [0, 0])

/-- The N port by which a Bole sends on behalf of host port `h`: its own, or the other one of the Bole. -/
def nPort (s : State) (h : Nat) : Option Nat := [h, 2 * boleOf h, 2 * boleOf h + 1].find? (nUsable s)
/-- A Bole can take part in a broadcast: one of its N ports is usable (R232, R233). -/
def xinvReach (s : State) (b : Nat) : Bool := (nPort s (2 * b)).isSome

/-- Sends an XINV or XINV_ACK from a Bole's N port (R233). -/
def sendXinv (h : Nat) (ty : Byte) (payload : List Byte) (s : State) : State :=
  match nPort s h with
  | none => s
  | some n =>
    inject (xN n) (sealPkt { dest := eidNone, src := eidNone, cls := 1, mode := 3, lenCells := 0, ptype := ty, payload := payload }) s

/-- INVALIDATE (R229 to R232). A context that is not installed at the port is no object (DESIGN CHOICE, log 63). -/
def stepInvalidate (h : Nat) (j : Job) (s : State) : State :=
  let f := Job.op j
  let w := wqOf s h j.q
  let sub := Job.subop j
  let n := fAt f 11 0 12
  let home := fAt f 11 12 2
  let x := xctxOf s home n
  if sub ≠ 3 ∧ (!x.active ∨ !x.share.getLsbD h) then malformed h j 10 s
  else if sub ≠ 3 ∧ !ownsCtx w h home x then malformed h j 2 s
  else
    let b := boleOf h
    let a := u64 f 4
    let lo := if sub = 1 then min (a / 4096 * 4096) (2 ^ 48) else 0
    let hi := if sub = 1 then min (roundUp (a + u64 f 12) 4096) (2 ^ 48) else 0
    let bcast := if sub = 3 then s.hs.xctx.any (fun e => e.1 / 2 ^ 12 == h && e.2.fn == w.fn && e.2.bcast) else x.bcast
    let i : Inval := {
      id := (xl s b).nextId, scope := sub, home := home, ctx := n, port := h, fn := w.fn, start := lo, len := hi - lo,
      job := some j.id, xseq := if bcast then some (xl s b).xseq else none, acked := !bcast || !xinvReach s (1 - b) }
    let s := inc (xltCtr h 6) s
    let s := updXl b (fun x => { x with invals := x.invals ++ [i], nextId := x.nextId + 1,
                                        xseq := if bcast then x.xseq + 1 else x.xseq }) s
    let s := if bcast then inc (xltCtr h 7) s else s
    let s := match i.xseq with
      | some q => if i.acked then s else sendXinv h 8 (xinvPayload i q) s
      | none => s
    invNext b s

/-- A job's invalidation completes once it has finished here and been acknowledged. -/
def invComplete (b id : Nat) (s : State) : State :=
  match (xl s b).invals.find? (fun i => i.id == id) with
  | some i =>
    if !i.done ∨ !i.acked then s else
    let s := updXl b (fun x => { x with invals := x.invals.filter (fun y => y.id ≠ id) }) s
    (match i.job.bind (jobOf s i.port) with
     | some j => finishJob i.port j 0 0 0 s
     | none => s)
  | none => s

/-- Records an invalidation as finished at its Bole, its entries gone from the caches; one that came from the other Bole is
acknowledged (R231, R233). -/
def invFinish (b : Nat) (i : Inval) (s : State) : State :=
  let s := invFlush b i s
  let s := updXl b (fun x => { x with invals := x.invals.map (fun y => if y.id = i.id then { y with done := true } else y) }) s
  let s := match i.answer, i.xseq with
    | true, some q => sendXinv (2 * b) 9 (xinvPayload i q) (updXl b (fun x => { x with finished := (q :: x.finished).take 128 }) s)
    | _, _ => s
  invNext b (invComplete b i.id s)

/-- An invalidation can finish: it has begun, and nothing that used a removed translation is in flight (R231). -/
def invReady (s : State) (b : Nat) (i : Inval) : Bool :=
  i.begun && !i.done
    && !((hport s (2 * b)).waits ++ (hport s (2 * b + 1)).waits).any (fun w => invHeld s i w.need)
    && !(xl s b).cas.any (fun c => invHits s i c.ctx c.page 1 || invTlb s i c.tlb)

/-- Length and E2E checks of a packet that a Bole consumes; a stomped one and a damaged one are counted (R92, R379). -/
def e2eTest (h : Nat) (p : Packet) (s : State) : State × Bool :=
  if !lenOk p then (hdrBad (boleOf h) s, false)
  else if e2eGood p then (s, true)
  else (cvuFail h (if e2eStomped p then 2 else 1) p s, false)

/-- A packet's class and EXT_MASK bit 4 do not agree (R161). -/
def asdMismatch (p : Packet) : Bool := (p.cls == 2) != p.extMask.getLsbD 4
/-- Drops such a packet: both counters (R92, R161). -/
def asdReject (h : Nat) (s : State) : State := hdrBad (boleOf h) (asdHostCause h 5 (inc (asdHostCtr h 10) s))

/-- The tests of XINV and XINV_ACK beyond R379: class and extensions (R161, R233). -/
def xinvTest (b : Nat) (p : Packet) (s : State) : State × Bool :=
  let h := (nPort s (2 * b)).getD (2 * b)
  let r := e2eTest h p (freeInternal (xN h) p s)
  if !r.2 then r
  else if asdMismatch p then (asdReject h r.1, false)
  else if p.extMask ≠ 0 then (hdrBad b r.1, false)
  else r

/-- An XINV from the other Bole (R233): it is answered again from the record, or performed. One still running is left to its
own acknowledgement (DEDUCED, log 64). -/
def effXinv (b : Nat) (p : Packet) (s : State) : State :=
  if !boleOk s b then s else
  let r := xinvTest b p s
  if !r.2 then r.1 else
  let s := r.1
  let ws := bWords 8 p.payload
  let q := BitVec.ofNat 16 (fAt ws 0 0 16)
  let i : Inval := {
    id := (xl s b).nextId, scope := fAt ws 0 16 2, home := fAt ws 0 18 2, ctx := fAt ws 0 20 12, port := fAt ws 1 8 2,
    fn := fAt ws 1 0 8, start := u64 ws 2, len := u64 ws 4, xseq := some q, answer := true }
  if i.scope = 0 then hdrBad b s
  else if (xl s b).finished.contains q then sendXinv (2 * b) 9 p.payload s
  else if (xl s b).invals.any (fun y => y.answer && y.xseq == some q) then s
  else invNext b (updXl b (fun x => { x with invals := x.invals ++ [i], nextId := x.nextId + 1 }) s)

/-- The other Bole has acknowledged an invalidation. -/
def invAcked (b : Nat) (i : Inval) (s : State) : State :=
  invComplete b i.id (updXl b (fun x => { x with
    invals := x.invals.map (fun y => if y.id = i.id then { y with acked := true } else y) }) s)

/-- An outstanding invalidation of a Bole by XSEQ. -/
def invOut (s : State) (b : Nat) (q : BitVec 16) : Option Inval :=
  (xl s b).invals.find? (fun i => !i.answer && !i.acked && i.xseq == some q)

def effXinvAck (b : Nat) (p : Packet) (s : State) : State :=
  if !boleOk s b then s else
  let r := xinvTest b p s
  if !r.2 then r.1 else
  match invOut r.1 b (BitVec.ofNat 16 (fAt (bWords 8 p.payload) 0 0 16)) with
  | some i => invAcked b i r.1
  | none => r.1

/-- An unacknowledged XINV is sent again, or the other Bole has gone and counts as having acknowledged (R232, R233). -/
def effXinvResend (b : Nat) (q : BitVec 16) (s : State) : State :=
  if !boleOk s b then s else
  match invOut s b q with
  | none => s
  | some i => if xinvReach s (1 - b) then sendXinv i.port 8 (xinvPayload i q) s else invAcked b i s

/-! ### Page requests (R234, R235) -/

/-- Posts the first page request that waits, while there is room. -/
def effPageRequestPost (h : Nat) (s : State) : State :=
  match (hport s h).pageWait with
  | [] => s
  | r :: t => if fqRoom s h ∧ hostUp s h then fqPost h r (updHost h (fun p => { p with pageWait := t }) s) else s

def effXltFqHead (h : Nat) (v : Word) (s : State) : State :=
  if (hport s h).st = .up then barSet (hostKey h 0 0x4002C) v s else s

end Sys2Proof.Machine
end

