-- ==== Sys2Proof/Machine/Channel.lean ====
section
/-! DEFINITION. The jobs that manage channels (R240 to R244), and the acceptance of packets at both ends of a channel
(R253, R254, R259 to R265, R384). -/

namespace Sys2Proof.Machine

/-! ### Managing channels -/

/-- A number names no channel of a host port (R241, R262). -/
def chanVoid (s : State) (h c : Nat) : Bool := c == 0 || decide (2 ^ trnLog s h ≤ c) || !trnEnabled s h

/-- A channel descriptor breaks a range of R242. -/
def chanDescBad (s : State) (h : Nat) (d : List Word) : Bool :=
  let q := cqOf s h (fAt d 6 0 20)
  fAt d 0 2 2 == 2 || fAt d 0 4 4 == 0 || decide (4 < fAt d 0 8 4) || fAt d 1 0 18 == 0x3FFFF || fAt d 2 0 24 == 0
    || !q.active || q.fn != fAt d 0 16 8 || fAt d 7 0 16 == 0

/-- The context that a descriptor makes (R242). -/
def chanNew (d : List Word) : Chan :=
  { st := .active, unrel := bAt d 0 0, relaxed := bAt d 0 1, mode := BitVec.ofNat 2 (fAt d 0 2 2), limit := fAt d 0 4 4,
    check := fAt d 0 8 4, fn := fAt d 0 16 8, peer := BitVec.ofNat 18 (fAt d 1 0 18), peerCh := BitVec.ofNat 24 (fAt d 2 0 24),
    inc := BitVec.ofNat 16 (fAt d 3 0 16), pd := BitVec.ofNat 16 (fAt d 3 16 16), cq := fAt d 6 0 20, t0 := fAt d 7 0 16,
    txNext := wAt d 4, lastAck := wAt d 4, expect := wAt d 5 }

/-- CHAN_CREATE (R241, R242): the record is written. -/
def stepChanCreate (h : Nat) (j : Job) (v : View) (s : State) : State :=
  let c := fAt (Job.op j) 11 0 24
  if chanVoid s h c then malformed h j 10 s
  else if (chanOf s h c).st ≠ .absent then malformed h j 9 s
  else match rdWords h (wqOf s h j.q).fn v (u64 (Job.op j) 4) 16 s with
    | (.ok d, s) =>
      if !mayActFor (wqOf s h j.q) (fAt d 0 16 8) then malformed h j 2 s
      else if chanDescBad s h d then malformed h j 8 s
      else finishJob h j 0 0 0 (writeCtx h c (setChan h c (chanNew d) s))
    | (a, s) => failAcc h j 0 a s

/-- Packets held at a channel stop waiting. -/
def stopChanWaits (h c : Nat) (s : State) : State :=
  updHost h (fun p => { p with waits := p.waits.filter (fun w => match w.client with
    | .chan d _ => d != c
    | .resp q => q.chan.toNat != c
    | .again d => d != c
    | _ => true) }) s

/-- CHAN_MODIFY RESET (R243). A DRAINING channel is in use (DESIGN CHOICE, log 65). -/
def stepChanModify (h : Nat) (j : Job) (s : State) : State :=
  let f := Job.op j
  let c := fAt f 11 0 24
  let x := chanOf s h c
  if c = 0 ∨ x.st = .absent then malformed h j 10 s
  else if !mayActFor (wqOf s h j.q) x.fn then malformed h j 2 s
  else if x.st = .draining then malformed h j 9 s
  else if fAt f 12 0 16 = x.inc.toNat then malformed h j 8 s
  else
    let s := stopChanWaits h c (failJobs h c none 0x22 0x22 0 s)
    let s := updChan h c (fun x => { x with
      st := .active, cause := 0, inc := BitVec.ofNat 16 (fAt f 12 0 16), txNext := wAt f 13, lastAck := wAt f 13, txMsn := 0,
      expect := wAt f 14, bitmap := 0, window := false, rxMsn := 0, lasts := [], parked := [], busy := [], atomics := [],
      refused := none, olds := [], ackN := 0, ackTimer := false, sums := [], late := [], msgs := [], backoff := 0 }) s
    finishJob h j 0 0 0 s

/-- CHAN_DESTROY (R243): the channel drains; jobs and fetches with nothing sent end, and so does a rendezvous SEND that has only
its RNDV_DONE to wait for (R295; DEDUCED, log 136). -/
def stepChanDestroy (h : Nat) (j : Job) (s : State) : State :=
  let c := fAt (Job.op j) 11 0 24
  let x := chanOf s h c
  if c = 0 ∨ x.st = .absent then malformed h j 10 s
  else if !mayActFor (wqOf s h j.q) x.fn then malformed h j 2 s
  else if x.st = .draining then malformed h j 9 s
  else
    let js := (hport s h).jobs.filter (fun k => k.chan == c && (k.sent == 0 || (k.rndv && k.left == 0)))
    let fs := x.fetches.filter (fun f => !f.sent)
    let goneJob (u : TxPkt) : Bool := u.job.any (fun i => js.any (fun k => k.id == i)) || u.fetch.any (fun o => fs.any (fun f => f.orig == o))
    let goneTurn : Turn → Bool
      | .job i => js.any (fun k => k.id == i)
      | .fetch o => fs.any (fun f => f.orig == o)
      | .done _ => false
    let s := setChan h c { x with
      st := .draining, destroy := some j.id, fetches := x.fetches.filter (fun f => f.sent),
      toSend := x.toSend.filter (fun u => !goneJob u), line := x.line.filter (fun t => !goneTurn t) } s
    let s := js.foldl (fun s k => finishJob h k 0x22 k.acked 0 s) s
    fs.foldl (fun s f => mtcCause h 5 (failRecv h f.job 0x22 0 0 (fetchFlags f) s)) s

/-- Nothing of a DRAINING channel is outstanding. -/
def chanDrained (s : State) (h c : Nat) : Bool :=
  let x := chanOf s h c
  x.st == .draining && !(hport s h).jobs.any (fun k => k.chan == c) && x.fetches == [] && x.unacked == [] && x.toSend == [] && x.line == []

/-- CHANNEL_DRAIN_DONE (R243): zeros are written to the record, and the CHAN_DESTROY completes. The packets still parked name
an ABSENT record (R262). -/
def effChannelDrainDone (h c : Nat) (s : State) : State :=
  if !chanDrained s h c ∨ !hostUp s h then s else
  let d := ((chanOf s h c).destroy).bind (jobOf s h)
  let s := (chanOf s h c).parked.foldl (fun s _ => trnStale h 10 s) s
  let s := hostWr h 0 (ctxAddr s h c) (List.replicate 512 0) false (stopChanWaits h c s)
  let s := { s with hs.chans := Maps.erase (objKey 24 h c) s.hs.chans }
  match d with
  | some j => finishJob h j 0 0 0 s
  | none => s

def ChState.code : ChState → Nat
  | .absent => 0 | .active => 1 | .error => 2 | .draining => 3

/-- A packet in execution at a channel waits for a page request: it is parked too (R234, R261). -/
def waitsPage (s : State) (h c : Nat) (psn : Word) : Bool :=
  (hport s h).waits.any (fun w => w.client == .chan c psn && (match w.need with | .page _ _ _ => true | _ => false))

/-- The packets parked for a context. -/
def parkedOf (s : State) (h c : Nat) : List Packet :=
  let x := chanOf s h c
  x.parked ++ x.busy.filter (fun p => waitsPage s h c p.psn)

/-- The CHAN_QUERY summary (R244). -/
def chanSummary (s : State) (h c : Nat) : List Word :=
  let x := chanOf s h c
  padW 16 [pack [(0, 2, ChState.code x.st), (8, 3, x.cause)], w32 x.inc.toNat, x.txNext,
    ((x.unacked.head?).map (·.pkt.psn)).getD x.txNext, x.expect, w32 x.txMsn.toNat, w32 x.rxMsn.toNat,
    pack [(0, 4, x.backoff), (8, 6, (parkedOf s h c).length)]]

/-- CHAN_QUERY (R241, R244). An ABSENT channel is reported as zeros, and a misaligned address is BAD_DESCRIPTOR (DESIGN
CHOICE, log 65). -/
def stepChanQuery (h : Nat) (j : Job) (s : State) : State :=
  let f := Job.op j
  let c := fAt f 11 0 24
  let x := chanOf s h c
  let w := wqOf s h j.q
  if u64 f 4 % 64 ≠ 0 then malformed h j 8 s
  else if x.st ≠ .absent ∧ !mayActFor w x.fn then malformed h j 2 s
  else
    let ws := if x.st = .absent then List.replicate 16 0 else chanSummary s h c
    if !wrAllowed h w.fn (u64 f 4) 64 s then finishJob h j 0x11 0 4 s
    else finishJob h j 0 64 0 (wrBus h w.fn true (u64 f 4) (wBytes ws) s)

/-! ### Parking (R261) -/

/-- Cells of a Bole's parking buffer in use. -/
def parkCells (s : State) (b : Nat) : Nat :=
  sumN (s.hs.chans.map (fun e => if e.1 / 2 ^ 25 = b then sumN ((parkedOf s (e.1 / 2 ^ 24) (e.1 % 2 ^ 24)).map lenOf) else 0))

/-- The parking limits leave room for a packet. -/
def parkRoom (s : State) (h c : Nat) (p : Packet) : Bool :=
  decide ((parkedOf s h c).length < 32) && decide (parkCells s (boleOf h) + lenOf p ≤ 32768)

/-- Refuses a packet that parking has no room for (R261). -/
def parkRefuse (h c : Nat) (p : Packet) (s : State) : State :=
  let x := chanOf s h c
  let s := trnCause h 3 (inc (trnCtr h 15) s)
  if x.unrel then inc (trnCtr h 16) s
  else if x.cached then sendAck h c p.psn 1 0 s else s

/-- Parks a packet, or refuses it. -/
def park (h c : Nat) (p : Packet) (s : State) : State :=
  if parkRoom s h c p then inc (trnCtr h 14) (updChan h c (fun x => { x with parked := x.parked ++ [p] }) s)
  else parkRefuse h c p s

/-! ### Acceptance (R254) -/

/-- What becomes of a packet that passes through R254: it is dealt with, it waits parked, or it waits on host memory. -/
inductive Fate where
  | over | park | wait (n : Need)
  deriving DecidableEq, Repr

/-- A packet that waits for every earlier PSN (R256, R280, R312). -/
def waitsOrder (p : Packet) : Bool :=
  p.ptype == 2 || p.ptype == 0x30 || isHead p || ((p.ptype == 1 || p.ptype == 3) && bitW (Packet.extW p 0 1) 29)

/-- A packet of a PSN has executed. -/
def psnDone (x : Chan) (q : Word) : Bool := psnBefore q x.expect || (decide ((q - x.expect).toNat < 2048) && executedAt x (q - x.expect).toNat)

/-- The order in which a packet may execute holds it back (R256, R280). An EAGER packet whose OFFSET names no head waits for none
(R276). -/
def heldBack (x : Chan) (d : Nat) (p : Packet) : Bool :=
  (d != 0 && (!x.relaxed || waitsOrder p)) || (p.ptype == 0x20 && !isHead p && enOff p % 4096 == 0 && !psnDone x (headPsn p))

/-- The alive test of R384. -/
def aliveOk (x : Chan) (d : Nat) (p : Packet) : Bool :=
  if d = 0 then msnOf p == x.rxMsn.toNat else decide (modSub 24 (msnOf p) x.rxMsn.toNat < 2048)

/-- The effect of a request packet by its type. -/
def execRx (h c : Nat) (p : Packet) (v : View) (s : State) : Rx × State :=
  if p.ptype = 1 then execWriteRx h c p v s
  else if p.ptype = 2 then execWriteImmRx h c p s
  else if p.ptype = 3 then execReadRx h c p v s
  else if p.ptype = 5 then execAtomicRx h c p v s
  else if p.ptype = 0x22 then execDoneRx h c p s
  else if p.ptype = 0x30 then execEnableRx h c p v s
  else execMatchRx h c p v s

/-- Acknowledges an executed packet when R260 says so. -/
def ackDue (h c : Nat) (p : Packet) (s : State) : State :=
  let n := (chanOf s h c).ackN + 1
  if ackCoalesce s h ≤ n ∨ isLast p then sendAck h c p.psn 0 0 s
  else updChan h c (fun x => { x with ackN := n, ackTimer := true }) s

/-- Sends a response with the acknowledgement state as it stands (R250, R252). -/
def sendResp (h c : Nat) (p : Packet) (ty mask : Byte) (ext : List Word) (payload : List Byte) (s : State) : State :=
  let x := chanOf s h c
  sendOn h c (rspPkt ty mask (ext ++ ackExt x 0 0) payload p.psn) (setChan h c { x with ackN := 0, ackTimer := false } s)

/-- After RECEIVER_BUSY, the parked packets that wait on the refused head are discarded (R288). -/
def discardBehind (h c : Nat) (p : Packet) (s : State) : State :=
  updChan h c (fun x => { x with parked := x.parked.filter (fun q =>
    !(psnBefore p.psn q.psn && (!x.relaxed || waitsOrder q || (q.ptype == 0x20 && !isHead q && !psnBefore (headPsn q) p.psn)))) }) s

/-- A duplicate is answered (R259), an older refused one with an ACK; one that waited on host memory is not counted again. -/
def duplicate (h c : Nat) (p : Packet) (again : Bool) (v : View) (s : State) : Fate × State :=
  let x := chanOf s h c
  let s := if again then s else inc (trnCtr h 6) s
  match x.refused with
  | some (q, k) => if q = p.psn then (.over, sendAck h c p.psn 0x10 k s) else answer x s
  | none => answer x s
where
  /-- the reply by the type of the packet -/
  answer (x : Chan) (s : State) : Fate × State :=
    if x.olds.contains p.psn then (.over, sendAck h c p.psn 0 0 s)
    else if p.ptype = 3 then
      match execReadRx h c p v s with
      | (.resp ty mask ext bs, s) => (.over, sendResp h c p ty mask ext bs s)
      | (.wait n, s) => (.wait n, s)
      | (.denied k, s) => (.over, sendAck h c p.psn 0x10 k (violation h c p k s))
      | (_, s) => (.over, s)
    else if p.ptype = 5 then
      match x.atomics.find? (fun a => a.1 == p.psn) with
      | some a => (.over, sendResp h c p 6 (exAck ||| exAtomic) (atomicRespExt p a.2) [] s)
      | none => (.over, inc (trnCtr h 20) s)
    else (.over, sendAck h c p.psn 0 0 s)

/-- Executes a packet at distance `d` of a reliable channel, and answers it. -/
def execute (h c d : Nat) (p : Packet) (v : View) (s : State) : Fate × State :=
  match execRx h c p v s with
  | (.done, s) => (.over, ackDue h c p (markDone h c d p s))
  | (.resp ty mask ext bs, s) => (.over, sendResp h c p ty mask ext bs (markDone h c d p s))
  | (.denied k, s) =>
    let s := sendAck h c p.psn 0x10 k (if p.ptype = 0x30 then s else violation h c p k s)
    (.over, markRefused h c d p k s)
  | (.bad, s) => (.over, sendAck h c p.psn 0x12 0 s)
  | (.later code, s) =>
    let s := sendAck h c p.psn code 0 s
    (.over, if code = 2 then discardBehind h c p s else s)
  | (.wait n, s) => (.wait n, s)
  | (.drop, s) => (.over, s)

/-- A packet of an UNRELIABLE channel (R267): no window, no order, no reply. -/
def acceptUnrel (h c : Nat) (p : Packet) (v : View) (s : State) : Fate × State :=
  let x := chanOf s h c
  if p.ptype = 0x30 then (.over, ectCause h 4 (inc (ectCtr h 10) s))
  else if p.ptype = 0x20 ∨ p.ptype = 0x21 ∨ p.ptype = 0x22 then (.over, mtcCause h 3 (inc (mtcCtr h 11) s))
  else if x.st = .error ∨ (p.ptype ≠ 1 ∧ p.ptype ≠ 2) then (.over, s)
  else match execRx h c p v s with
    | (.wait n, s) => (.wait n, s)
    | (.denied k, s) => (.over, violation h c p k s)
    | (.done, s) =>
      (.over, if isLast p then updChan h c (fun x => { x with
          sums := Maps.erase (msnOf p) x.sums, late := x.late.filter (fun m => m.toNat != msnOf p) }) s else s)
    | (_, s) => (.over, s)

/-- R254 for one packet of a cached context. `again` says that it is already in execution and waited on host memory. -/
def accept (h c : Nat) (p : Packet) (again : Bool) (v : View) (s : State) : Fate × State :=
  let x := chanOf s h c
  let d := (p.psn - x.expect).toNat
  if p.inc ≠ x.inc then (.over, trnStale h 7 s)
  else if p.src ≠ x.peer then (.over, trnStale h 8 s)
  else if x.unrel then acceptUnrel h c p v s
  else if x.st = .error then (.over, sendAck h c p.psn 0x11 0 s)
  else if 2 ^ 31 ≤ d then duplicate h c p again v s
  else if 2048 ≤ d then (.over, trnStale h 9 s)
  else if executedAt x d then duplicate h c p again v s
  else if !again ∧ x.busy.any (fun q => q.psn == p.psn) then (.over, inc (trnCtr h 6) s)
  else if heldBack x d p then (.park, s)
  else
    let r := if d = 0 ∨ x.window then (s, true) else freeSlots (boleOf h) (objKey 24 h c) 1 s
    if !r.2 then (.park, r.1)
    else if !aliveOk x d p then (.over, cvuFail h 4 p r.1)
    else execute h c d p v r.1

/-- A packet leaves execution. -/
def unbusy (h c : Nat) (p : Packet) (s : State) : State :=
  stopWait h (.chan c p.psn) (updChan h c (fun x => { x with busy := x.busy.filter (· ≠ p) }) s)

/-- A packet that waits on host memory is in execution; while it waits for a page request it is parked, or refused when
parking has no room (R234). -/
def rxWait (h c : Nat) (p : Packet) (n : Need) (s : State) : State :=
  let page : Bool := match n with | .page _ _ _ => true | _ => false
  if page ∧ !waitsPage s h c p.psn ∧ !parkRoom s h c p then parkRefuse h c p (unbusy h c p s)
  else
    let s := if page ∧ !waitsPage s h c p.psn then inc (trnCtr h 14) s else s
    let s := if (chanOf s h c).busy.contains p then s else updChan h c (fun x => { x with busy := x.busy ++ [p] }) s
    waitFor h (.chan c p.psn) n s

/-- One pass over the parked packets of a context, in arrival order (R254); the flag says that one has left. One whose words cannot
be delivered is dropped (R25). -/
def parkedPass (h c : Nat) (v : View) : List Packet → State → State × Bool
  | [], s => (s, false)
  | p :: ps, s =>
    if !(chanOf s h c).parked.contains p then parkedPass h c v ps s else
    let r := meetDie (boleOf h) (eccPark h) (c * 2 ^ 32 + p.psn.toNat) s
    let s := r.1
    if !r.2 then
      ((parkedPass h c v ps (eccWrite (fun x => x == (eccPark h, c * 2 ^ 32 + p.psn.toNat))
        (updChan h c (fun x => { x with parked := x.parked.erase p }) s))).1, true)
    else match accept h c p false v s with
    | (.park, s) => parkedPass h c v ps s
    | (f, s) =>
      let s := updChan h c (fun x => { x with parked := x.parked.erase p }) s
      let s := match f with
        | .wait n => rxWait h c p n s
        | _ => s
      ((parkedPass h c v ps s).1, true)

/-- Passes the parked packets through R254 until none leaves. -/
def rerunParked : Nat → Nat → Nat → View → State → State
  | 0, _, _, _, s => s
  | fuel + 1, h, c, v, s =>
    let r := parkedPass h c v (chanOf s h c).parked s
    if r.2 then rerunParked fuel h c v r.1 else r.1

def rerunAll (h c : Nat) (v : View) (s : State) : State := rerunParked ((chanOf s h c).parked.length + 1) h c v s

/-- A parked packet waited for a window slot only, and there is one now (R263). -/
def parkDue (s : State) (h c : Nat) : Bool :=
  let x := chanOf s h c
  let ready (p : Packet) : Bool :=
    let d := (p.psn - x.expect).toNat
    d != 0 && decide (d < 2048) && !executedAt x d && !heldBack x d p
  x.cached && !x.window && !x.unrel && x.st != .error && x.parked.any ready && slotsFor s (boleOf h) (objKey 24 h c) 1

/-- What follows one packet's pass: it waits, or the parked packets pass again. -/
def afterRx (h c : Nat) (p : Packet) (v : View) (r : Fate × State) : State :=
  match r.1 with
  | .park => park h c p r.2
  | .wait n => rxWait h c p n r.2
  | .over => rerunAll h c v r.2

/-- A packet in execution goes on with what host memory has returned. -/
def rerunBusy (h c : Nat) (psn : Word) (v : View) (s : State) : State :=
  match (chanOf s h c).busy.find? (fun p => p.psn == psn) with
  | none => stopWait h (.chan c psn) s
  | some p =>
    let r := accept h c p true (viewFor h (.chan c psn) v s) s
    match r.1 with
    | .wait n => rxWait h c p n r.2
    | f => afterRx h c p v (f, unbusy h c p r.2)

/-! ### Arrival -/

/-- EXT_MASK of each packet type of R250, R274 and R311. -/
def rowMask (ty : Byte) : Byte :=
  if ty = 4 ∨ ty = 7 then exAck else if ty = 5 then exAtomic else if ty = 6 then exAck ||| exAtomic
  else if ty = 0x20 ∨ ty = 0x22 then exEnv else if ty = 0x21 then exRma ||| exEnv else exRma

/-- Packet types that a green assured job sends: those of its jobs, which are writes and SENDs (R156, R158, R274). -/
def mayAsd (ty : Byte) : Bool := ty = 1 || ty = 2 || ty = 0x20 || ty = 0x21

/-- The packet types that a Bole consumes (R92, R233, R250, R274, R311, R325). -/
def boleTakes (ty : Byte) : Bool :=
  (decide (1 ≤ ty.toNat) && decide (ty.toNat ≤ 9)) || [0x20, 0x21, 0x22, 0x30, 0x41].contains ty.toNat

/-- The tests that precede the context (R379, R92, R161, R250, R262): the packet of a type at a Bole that serves, and its
channel; false when it has been dropped. A packet of a type that no Bole consumes is dropped whichever command brings it. -/
def arrived (h : Nat) (ty : Byte) (p : Packet) (s : State) : State × Bool :=
  if (p.ptype ≠ ty ∧ boleTakes p.ptype) ∨ !boleOk s (boleOf h) then (s, false) else
  let r := e2eTest h p (freeInternal (xN h) p s)
  if !r.2 then r
  else if p.ptype ≠ ty then (hdrBad (boleOf h) r.1, false)
  else if asdMismatch p then (asdReject h r.1, false)
  else if (if mayAsd ty then p.extMask &&& 0xEF else p.extMask) ≠ rowMask ty then (hdrBad (boleOf h) r.1, false)
  else if chanVoid r.1 h p.chan.toNat ∨ (chanOf r.1 h p.chan.toNat).st = .absent then (trnStale h 10 r.1, false)
  else r

/-- Starts the fetch of a record, unless one is outstanding (R261). -/
def fetchCtx (h c : Nat) (s : State) : State :=
  let x := chanOf s h c
  if x.fetching ∨ x.landed then s
  else askDma h (.chan c) (outRead s h 0 (ctxAddr s h c) 512)
    (inc (trnCtr h 11) (updChan h c (fun x => { x with fetching := true }) s))

/-- A request packet arrives (R254, R261). -/
def request (h : Nat) (ty : Byte) (p : Packet) (m : HostView) (s : State) : State :=
  let r := arrived h ty p s
  if !r.2 then r.1 else
  let c := p.chan.toNat
  let s := inc (trnCtr h 1) r.1
  if !(chanOf s h c).cached then fetchCtx h c (park h c p s)
  else
    let v := viewOf m s
    afterRx h c p v (accept h c p false v (takeCore h c (meetCtx h c s)).1)

def effWritePacketRx (h : Nat) (p : Packet) (m : HostView) (s : State) : State := request h 1 p m s
def effWriteImmPacketRx (h : Nat) (p : Packet) (m : HostView) (s : State) : State := request h 2 p m s
def effReadReq (h : Nat) (p : Packet) (m : HostView) (s : State) : State := request h 3 p m s
def effAtomicReq (h : Nat) (p : Packet) (m : HostView) (s : State) : State := request h 5 p m s
def effEager (h : Nat) (p : Packet) (m : HostView) (s : State) : State := request h 0x20 p m s
def effRndvRts (h : Nat) (p : Packet) (m : HostView) (s : State) : State := request h 0x21 p m s
def effRndvDone (h : Nat) (p : Packet) (m : HostView) (s : State) : State := request h 0x22 p m s
def effTrigEnable (h : Nat) (p : Packet) (m : HostView) (s : State) : State := request h 0x30 p m s

/-- What a channel can send now that its context has its slots: its line, what has been built, and what is sent again. -/
def sendDue (h c : Nat) (v : View) (s : State) : State :=
  let s := pumpAll h c (runChan h c v s)
  resendAll h c (viewFor h (.again c) v s) s

/-- A record that has been fetched comes into the cache once it has its slots: the parked packets pass through R254, and what the
channel has to send goes out (R261). -/
def landCtx (h c : Nat) (v : View) (s : State) : State :=
  let r := takeCore h c (updChan h c (fun x => { x with landed := false }) s)
  if r.2 then sendDue h c v (rerunAll h c v r.1) else s

/-- CTX_FETCH_DONE (R261, R262): the record is in the cache and the parked packets pass through R254; or its read failed and
they are dropped. -/
def effCtxFetchDone (h c : Nat) (ok : Bool) (m : HostView) (s : State) : State :=
  let x := chanOf s h c
  if !x.fetching ∨ dmaHeld s h (.chan c) ∨ !boleOk s (boleOf h) then s
  else if !ok then
    let s := setChan h c { x with fetching := false, parked := [] } (dmaErr h s)
    trnCause h 4 (Machine.count (trnCtr h 13) x.parked.length s)
  else
    landCtx h c (viewOf m s) (setChan h c { x with fetching := false, landed := true } s)

/-! ### Acknowledgements and responses (R253, R264) -/

/-- The tests on an acknowledgement or response: the context with which it is accepted. -/
def respTest (h : Nat) (ty : Byte) (p : Packet) (s : State) : State × Bool :=
  let r := arrived h ty p s
  if !r.2 then r else
  let s := r.1
  let s := meetCtx h p.chan.toNat s
  let x := chanOf s h p.chan.toNat
  let code := Packet.extF p 2 2 0 8
  if p.inc ≠ x.inc then (trnStale h 7 s, false)
  else if p.src ≠ x.peer ∨ x.st = .error ∨ !ackInRange x (Packet.extW p 2 0) ∨ ([0, 1, 2, 0x10, 0x11, 0x12].contains code) = false
      ∨ (ty ≠ 7 ∧ code ≠ 0) then (trnStale h 19 s, false)
  else if !checkOk x p then (cvuFail h 3 p s, false)
  else (cvuGood h x s, true)

/-- The job whose packet has a PSN outstanding: a sender's, or the receive that fetches (R287). -/
def jobOfPsn (x : Chan) (psn : Word) : Option Nat :=
  (x.unacked.find? (fun u => u.pkt.psn == psn)).bind (fun u => match u.job, u.fetch with
    | some j, _ => some j
    | none, some o => (x.fetches.find? (fun f => f.orig == o)).map (·.job)
    | none, none => none)

/-- A RECEIVER_NOT_READY or RECEIVER_BUSY stalls the channel while the packet that it names is unacknowledged (R265). -/
def stallOn (h c : Nat) (psn : Word) (s : State) : State :=
  updChan h c (fun x => if x.unacked.any (fun u => u.pkt.psn == psn) then { x with stall := true, stallPsn := psn } else x) s

/-- A NAK of code 0x10 to 0x12 ends the job of the packet that it names, whatever its ACK_PSN, and the channel (R253). -/
def refused (h c : Nat) (p : Packet) (s : State) : State :=
  let code := Packet.extF p 2 2 0 8
  let x := chanOf s h c
  let s := acknowledge h c (Packet.extW p 2 0) (Packet.extW p 2 1)
    (setChan h c { x with unacked := x.unacked.filter (fun u => u.pkt.psn ≠ p.psn) } s)
  let (cause, st) := if code = 0x10 then (2, 0x21) else if code = 0x11 then (3, 0x23) else (4, 0x24)
  trnCause h 2 (errorChan h c cause
    ((jobOfPsn x p.psn).map (fun j => (j, st, if code = 0x10 then Packet.extF p 2 2 8 8 else 0))) 0x20 0x22 0 s)

def effAck (h : Nat) (p : Packet) (m : HostView) (s : State) : State :=
  let r := respTest h 7 p s
  if !r.2 then r.1 else
  let c := p.chan.toNat
  let code := Packet.extF p 2 2 0 8
  let s := if code = 0 then r.1 else inc (trnCtr h 5) r.1
  let s :=
    if 0x10 ≤ code ∧ (chanOf s h c).unacked.any (fun u => u.pkt.psn == p.psn) then refused h c p s
    else
      let s := progress h c (Packet.extW p 2 0) (Packet.extW p 2 1) s
      if code = 0 then s else stallOn h c p.psn s
  runChan h c (viewOf m s) s

/-- Data of a response have been dealt with: the packet is acknowledged, and its job or fetch goes on. -/
def respDone (h c : Nat) (u : TxPkt) (p : Packet) (v : View) (s : State) : State :=
  let s := stopWait h (.resp p) (updChan h c (fun x => { x with unacked := x.unacked.filter (fun y => y.pkt.psn ≠ u.pkt.psn) }) s)
  let s := updChan h c (fun x => { x with fetches := x.fetches.map (fun f => if u.job = none ∧ u.fetch = some f.orig then { f with left := f.left - u.len } else f) }) s
  let s := progress h c (Packet.extW p 2 0) (Packet.extW p 2 1) (credit h u s)
  let s := match u.job with
    | some j => jobIfDone h j s
    | none => s
  runChan h c v s

/-- Writes a response's data into the local buffer (R264): of the job, or of the receive that fetches, whose words in the
transaction table have to be delivered (R25). A write that fails ends
the job, or the receive and its fetch, which sends no RNDV_DONE (R287). -/
def respData (h c : Nat) (u : TxPkt) (p : Packet) (bs : List Byte) (v : View) (s : State) : State :=
  match (jobOfPsn (chanOf s h c) u.pkt.psn).bind (jobOf s h) with
  | none => respDone h c u p v s
  | some j =>
    let r := meetDie (boleOf h) (eccTx h) j.id s
    let s := r.1
    if !r.2 then stopWait h (.resp p) s else
    match writeLocal h j u.off bs (viewFor h (.resp p) v s) s with
    | (.ok (), s) => respDone h c u p v s
    | (.wait n, s) => waitFor h (.resp p) n s
    | (a, s) =>
      let s := match u.job with
        | some _ =>
          failAcc h j j.acked a (updChan h c (fun x => { x with
            toSend := x.toSend.filter (fun y => y.job ≠ some j.id), line := x.line.filter (· ≠ .job j.id) }) s)
        | none =>
          match (chanOf s h c).fetches.find? (fun f => u.fetch == some f.orig) with
          | some f =>
            let s := updChan h c (fun x => { x with
              fetches := x.fetches.filter (fun g => g.orig != f.orig), toSend := x.toSend.filter (fun y => y.fetch != some f.orig)
              line := x.line.filter (· ≠ .fetch f.orig) }) s
            mtcCause h 5 (failRecv h j.id (accStatus a).1 (f.len - f.left) (accStatus a).2 (fetchFlags f) s)
          | none => s
      respDone h c u p v s

/-- The response of a packet type whose PSN is outstanding. -/
def response (h : Nat) (ty req : Byte) (p : Packet) (v : View) (s : State) : State :=
  let c := p.chan.toNat
  match (chanOf s h c).unacked.find? (fun u => u.pkt.psn == p.psn && u.pkt.ptype == req) with
  | none => trnStale h 19 s
  | some u =>
    let bs := if ty = 4 then p.payload else leBytes u.len ((Packet.extW p 1 4).toNat + 2 ^ 32 * (Packet.extW p 1 5).toNat)
    if bs.length ≠ u.len then trnStale h 19 s else respData h c u p bs v s

def effReadResp (h : Nat) (p : Packet) (m : HostView) (s : State) : State :=
  let r := respTest h 4 p s
  if !r.2 then r.1 else response h 4 3 p (viewOf m r.1) r.1

def effAtomicResp (h : Nat) (p : Packet) (m : HostView) (s : State) : State :=
  let r := respTest h 6 p s
  if !r.2 then r.1 else response h 6 5 p (viewOf m r.1) r.1

/-- A response whose data waited for host memory goes on. -/
def rerunResp (h : Nat) (p : Packet) (v : View) (s : State) : State :=
  match (chanOf s h p.chan.toNat).unacked.find? (fun u => u.pkt.psn == p.psn) with
  | none => stopWait h (.resp p) s
  | some _ => response h p.ptype (if p.ptype = 4 then 3 else 5) p v s

end Sys2Proof.Machine
end

