-- ==== Sys2Proof/Machine/Crown.lean ====
section
/-! DEFINITION. The Crown units: TREE_UP and TREE_DOWN at a router (R327 to R339). -/

namespace Sys2Proof.Machine

/-- The fields of a CROWN extension (R326). -/
def crIdx (p : Packet) : Nat := Packet.extF p 5 0 0 10
def crTag (p : Packet) : Nat := Packet.extF p 5 0 16 16
def crSeq (p : Packet) : BitVec 16 := BitVec.ofNat 16 (Packet.extF p 5 1 0 16)
def crOp (p : Packet) : Nat := Packet.extF p 5 1 16 4
def crDtype (p : Packet) : Nat := Packet.extF p 5 1 20 4
def crMode (p : Packet) : Nat := Packet.extF p 5 1 24 2
def crEnc (p : Packet) : Nat := Packet.extF p 5 1 26 1
def crChunk (p : Packet) : Nat := Packet.extF p 5 2 0 16
def crStatus (p : Packet) : Nat := Packet.extF p 5 2 16 8
def crElems (p : Packet) : Nat := (Packet.extW p 5 3).toNat

/-- A protocol error of a unit (R328): counted, raised, and the context breaks with cause PROTOCOL. -/
def treeError (u i : Nat) (crc : Bool) (s : State) : State :=
  let s := raise (148 + u) 2 (inc (crnCtr u 9) s)
  breakTree i 3 none (if crc then inc (crnCtr u 10) s else s)

/-- Elements of a chunk's packet, by its ENC (R327, R334); none when its payload is not what they call for. -/
def crVals (p : Packet) : Option (List Elem) :=
  let n := elemsIn (crMode p) (crDtype p) (crElems p) (crChunk p)
  if crEnc p = 1 then exParse n p.payload
  else if p.payload.length = n * sizeOf_ (crDtype p) then some (elems (crMode p) (crDtype p) n p.payload)
  else none

/-- Chunk `c` lies within the window of a context's current operation (R337). -/
def inWindow (t : TreeCtx) (w c : Nat) : Bool := decide (c < w) || t.downed.contains (c - w)

/-- The context as the operation of an arriving TREE_UP finds it: the first one sets OP_SEQ, and chunk 0 of the next
OP_SEQ begins a new operation once the current one has finished; none is a protocol error (R337). -/
def upSeq (t : TreeCtx) (p : Packet) : Option TreeCtx :=
  let begin (t : TreeCtx) : TreeCtx :=
    { t with opSeq := crSeq p, started := true, chunks := chunkCount (crMode p) (crDtype p) (crElems p), sent := [],
             downed := [] }
  if !t.started then some (begin t)
  else if crSeq p = t.opSeq then some t
  else if crSeq p = t.opSeq + 1 ∧ crChunk p = 0 ∧ t.downed.length = t.chunks then some (begin t)
  else none

/-- Places the result of a chunk in its down slot, which is copied to every child (R338). -/
def sendDown (i : Nat) (p : Packet) (s : State) : State :=
  let u := treeUnit s i
  let t := (treeKids s i).foldl (fun s c => inc (crnCtr u 3) (sendTree u c p s)) s
  let n := t.net.voq.length - s.net.voq.length
  let x := tree t i
  if n = 0 then t
  else setTree i { x with downs := { chunk := crChunk p, left := n } :: x.downs.filter (fun d => d.chunk != crChunk p) } t

/-- A chunk to which every child has contributed: up to the parent, or rounded and down at the root (R338). -/
def chunkDone (i : Nat) (x : UpSlot) (s : State) : State :=
  let t := tree s i
  let u := treeUnit s i
  let s := inc (crnCtr u 4) s
  let pk (up : Bool) (enc : Nat) (pl : List Byte) : Packet :=
    treePkt up i (treeF s i 0 0 16) t.opSeq.toNat x.op x.dtype x.mode enc x.chunk 0 x.elems.toNat pl
  if treeRoot s i then
    let t := { t with sent := x.chunk :: t.sent, downed := x.chunk :: t.downed }
    let s := setTree i t s
    let s := sendDown i (pk false 0 (elemBytes x.mode x.dtype x.vals)) s
    if t.downed.length = t.chunks then inc (crnCtr u 5) s else s
  else
    let s := setTree i { t with sent := x.chunk :: t.sent } s
    let (pl, full) := if x.mode = 2 then exPayload x.vals else (elemBytes x.mode x.dtype x.vals, 0)
    let s := if full = 0 then s else count (crnCtr u 7) full s
    inc (crnCtr u 1) (sendTree u (treeParent s i) (pk true (if x.mode = 2 then 1 else 0) pl) s)

/-- Contributions held under ORDERED, folded in ascending child index (R331). -/
def foldHeld (op mode d : Nat) (held : List (Nat × List Elem)) : List Elem :=
  match (List.range 68).filterMap (fun c => (held.find? (fun h => h.1 == c)).map (·.2)) with
  | [] => []
  | v :: vs => vs.foldl (fun a b => List.zipWith (elCombine op mode d) a b) v

/-- The words of an up slot are read (R25): a corrected error counts at the unit's Grove, an uncorrectable one breaks the context
(R345), and the flag is false. -/
def readSlotUp (i : Nat) (x : UpSlot) (s : State) : State × Bool :=
  let u := treeUnit s i
  if x.ecc = .bad then (breakTree i 2 none (raise (148 + u) 8 s), false)
  else (if x.ecc = .corr then inc (grvBase u + 0x48) s else s, true)

/-- One contribution enters its up slot (R331, R338). -/
def contribute (i c : Nat) (p : Packet) (vals : List Elem) (s : State) : State :=
  let t := tree s i
  let u := treeUnit s i
  let kids := treeKids s i
  let x := (t.ups.find? (fun x => x.chunk == crChunk p)).getD
    { chunk := crChunk p, op := crOp p, dtype := crDtype p, mode := crMode p, elems := w32 (crElems p), got := [],
      vals := [], held := [] }
  let r := readSlotUp i x s
  if !r.2 then r.1 else
  let bytes := elemsIn x.mode x.dtype x.elems.toNat x.chunk * sizeOf_ x.dtype
  let s := if bytes = 0 then r.1 else count (crnCtr u 6) bytes r.1
  let got := c :: x.got
  let held := if x.mode = 1 then (c, vals) :: x.held else []
  let all := kids.all (fun k => got.contains k)
  let vs :=
    if x.mode = 1 then (if all then foldHeld x.op x.mode x.dtype held else [])
    else if x.got = [] then vals else List.zipWith (elCombine x.op x.mode x.dtype) x.vals vals
  let x := { x with got := got, vals := vs, held := held, ecc := .good }
  let others := t.ups.filter (fun y => y.chunk != x.chunk)
  if all then chunkDone i x (setTree i { t with ups := others } s)
  else setTree i { t with ups := x :: others } s

/-- The tests of R328 on a packet's fields and payload length, before its place in the sequence: `up` is a TREE_UP, from a network
port or an N port. Of a BROKEN packet, all but STATUS, ENC and the payload's length is ignored (R327). -/
def treeFieldsBad (up : Bool) (inport : Nat) (p : Packet) : Bool :=
  let st := crStatus p
  let exact := crMode p == 2
  decide (3 < st) || (st == 3 && decide (inport < 64))
    || (st != 1 && !treeOpOk (crOp p) (crDtype p) (crMode p))
    || (if !up || 64 ≤ inport then crEnc p == 1 else st != 1 && (crEnc p == 1) != exact)
    || (if st = 0 then (crVals p).isNone else p.payload != [])

/-- A TREE_UP at a unit from a crossbar input, which is the child's index too: network ports, then N0 to N3 (R328, R337, R338,
R345). A NO_TREE from an N port does nothing (DESIGN CHOICE, log 66). -/
def effTreeUp (u inport : Nat) (p : Packet) (s : State) : State :=
  let i := crIdx p
  let t := tree s i
  let s := inc (crnCtr u 0) (freeInternal (xC u) p s)
  if t.st = 0 then s
  else if !lenOk p ∨ !e2eGood p then treeError u i (!e2eGood p) s
  else if t.st ≠ 1 then
    (if 64 ≤ inport ∧ (treeKids s i).contains inport then sendStatus false i 1 inport s else s)
  else if !(treeKids s i).contains inport then treeError u i false s
  else if treeFieldsBad true inport p then treeError u i false s
  else if crStatus p = 1 then breakTree i 5 (some inport) s
  else if crStatus p = 2 then breakTree i 4 (some inport) s
  else if crStatus p = 3 then s
  else match crVals p, upSeq t p with
    | some vals, some t =>
      if crChunk p ≥ t.chunks ∨ !inWindow t (treeWindow s i) (crChunk p) ∨ t.sent.contains (crChunk p)
          ∨ t.ups.any (fun x => x.chunk == crChunk p && x.got.contains inport) then treeError u i false s
      else if (crMode p = 1 ∧ !bitW (treeW s i 0) 20)
          ∨ t.ups.any (fun x => x.chunk == crChunk p
              && (x.op != crOp p || x.dtype != crDtype p || x.mode != crMode p || x.elems.toNat != crElems p)) then
        breakTree i 4 none (setTree i t s)
      else contribute i inport p vals (setTree i t s)
    | _, _ => treeError u i false s

/-- A TREE_DOWN at a router that is not the tree's root: its result goes to every child (R338), or its status breaks
the context (R345); a node that breaks tells its parent too (R346). -/
def effTreeDown (u inport : Nat) (p : Packet) (s : State) : State :=
  let i := crIdx p
  let t := tree s i
  let s := inc (crnCtr u 2) (freeInternal (xC u) p s)
  if t.st = 0 then s
  else if !lenOk p ∨ !e2eGood p then treeError u i (!e2eGood p) s
  else if t.st ≠ 1 then s
  else if treeRoot s i ∨ inport ≠ treeParent s i then treeError u i false s
  else if treeFieldsBad false inport p then treeError u i false s
  else if crStatus p = 1 then breakTree i 5 none s
  else if crStatus p = 2 then breakTree i 4 none s
  else if crSeq p ≠ t.opSeq ∨ !t.started ∨ !t.sent.contains (crChunk p) ∨ t.downed.contains (crChunk p) then treeError u i false s
  else
    let s := setTree i { t with downed := crChunk p :: t.downed } s
    sendDown i (treePkt false i (treeF s i 0 0 16) (crSeq p).toNat (crOp p) (crDtype p) (crMode p) 0 (crChunk p) 0
      (crElems p) p.payload) s

end Sys2Proof.Machine
end

