-- ==== Sys2Proof/Machine/Leaf.lean ====
section
/-! DEFINITION. Crown at a host port (11): bindings, TREE_ALLREDUCE and the TREE_DOWN packets that reach a Bole (R340 to
R344, R352, R353). -/

namespace Sys2Proof.Machine

/-- Counter `i` of the TRE_ block, and cause bit `i` (R352, R353). -/
def treCtr (h i : Nat) : Nat := hCtr h 0x1E100 i
def treCause (h i : Nat) (s : State) : State := raise (192 + 64 * boleOf h + h % 2) (2 ^ i) s

def bindOf (s : State) (h i : Nat) : TreeBind := Maps.get {} s.hs.binds (h * 1024 + i)
def setBind (h i : Nat) (b : TreeBind) (s : State) : State := { s with hs.binds := Maps.put {} s.hs.binds (h * 1024 + i) b }

/-- The fields of a TREE_ALLREDUCE (R341). -/
def alIdx (j : Job) : Nat := fAt (Job.op j) 11 0 10
def alMode (j : Job) : Nat := fAt (Job.op j) 11 12 2
def alOp (j : Job) : Nat := Job.subop j % 16
def alDtype (j : Job) : Nat := Job.subop j / 16
def alElems (j : Job) : Nat := lengthOfJob j / sizeOf_ (alDtype j)
/-- Bytes of a full chunk, and of chunk `c`. -/
def alStep (j : Job) : Nat := chunkElems (alMode j) (alDtype j) * sizeOf_ (alDtype j)
def alBytes (j : Job) (c : Nat) : Nat := elemsIn (alMode j) (alDtype j) (alElems j) c * sizeOf_ (alDtype j)

/-- The completion of an operation that its tree ends (R342, R343): its counter and cause. -/
def treeEnd (h : Nat) (j : Job) (st bytes : Nat) (s : State) : State :=
  let s := if st = 0x40 then treCause h 0 (inc (treCtr h 3) s)
           else if st = 0x41 then treCause h 1 (inc (treCtr h 4) s)
           else treCause h 2 (inc (treCtr h 5) s)
  finishJob h j st bytes 0 s

/-- Bytes of the results that have been written. -/
def treeMoved (j : Job) (o : TreeOp) : Nat := sumN (o.came.map (alBytes j))

/-- Ends the operation in progress on an index with a status of R343. -/
def treeOpEnd (h i st : Nat) (s : State) : State :=
  let b := bindOf s h i
  match b.op with
  | none => s
  | some o =>
    let s := setBind h i { b with op := none } s
    match jobOf s h o.job with
    | some j => treeEnd h j st (treeMoved j o) s
    | none => s

/-- A packet that a Bole sends up a tree (R340). -/
def sendUp (h : Nat) (p : Packet) (s : State) : State := sendBole h { p with dest := nodeEid s } s

/-- Sends the chunks that the window rule allows, reading each one's source (R337, R342); one whose source meets a scratch word in
error is dropped (R356). An access that fails ends the job; the operation stands, and holds back the next one, until every
TREE_DOWN of it has come (R337; DESIGN CHOICE, log 66). -/
def treeSend : Nat → Nat → Job → View → State → State
  | 0, _, _, _, s => s
  | fuel + 1, h, j, v, s =>
    let i := alIdx j
    let b := bindOf s h i
    match b.op with
    | none => s
    | some o =>
      if o.job ≠ j.id ∨ o.chunks ≤ o.next ∨ !(decide (o.next < b.window) || o.came.contains (o.next - b.window)) then
        stopWait h (.job j.id) s
      else
        let took (s : State) : State :=
          updJob h j.id (fun j => { j with sent := j.sent + 1 }) (setBind h i { b with op := some { o with next := o.next + 1 } } s)
        match readLocal h j (o.next * alStep j) (alBytes j o.next) v s with
        | (.ok bs, s) =>
          let p := treePkt true i b.tag.toNat o.opSeq.toNat (alOp j) (alDtype j) (alMode j) 0 o.next 0 (alElems j) bs
          treeSend fuel h j v (inc (treCtr h 1) (sendUp h p (took s)))
        | (.lost, s) => treeSend fuel h j v (took s)
        | (.wait n, s) => waitFor h (.job j.id) n s
        | (a, s) => failAcc h j (treeMoved j o) a s

/-- TREE_ALLREDUCE from its issue on (R341, R342): the binding decides, then the result buffer is checked whole, and the operation
takes its OP_SEQ; later it goes on with its chunks. -/
def stepTree (h : Nat) (j : Job) (v : View) (s : State) : State :=
  let i := alIdx j
  let b := bindOf s h i
  let w := wqOf s h j.q
  let n := chunkCount (alMode j) (alDtype j) (alElems j)
  if b.op.any (fun o => o.job == j.id) then treeSend (n + 1) h j v s
  else if b.st = 0 ∨ b.fn ≠ w.fn then treeEnd h j 0x42 0 s
  else if b.st = 2 then treeEnd h j 0x40 0 s
  else if b.op.isSome then updJob h j.id (fun j => { j with begun := false }) s
  else
    match access h (Job.w j 14) (u64 (Job.op j) 12) (lengthOfJob j) .localWrite (jobWho s h j) v s with
    | (.ok _, s) =>
      let chk := if Job.inl j then (.ok (), s) else checkLocal h j .localRead v s
      (match chk with
       | (.ok (), s) =>
         let o : TreeOp := { job := j.id, opSeq := b.opSeq, chunks := n, next := 0, came := [] }
         let s := inc (treCtr h 0) (setBind h i { b with opSeq := b.opSeq + 1, op := some o } s)
         treeSend (n + 1) h j v s
       | (a, s) => failAcc h j 0 a s)
    | (a, s) => failAcc h j 0 a s

/-- A TREE_DOWN that names nothing outstanding (R342). -/
def strayDown (h : Nat) (s : State) : State := treCause h 3 (inc (treCtr h 6) s)

/-- A chunk is outstanding: it has been sent and its result has not come. -/
def TreeOp.out (o : TreeOp) (c : Nat) : Bool := decide (c < o.next) && !o.came.contains c

/-- A result of an operation that has outlived its job has come, and is not written: with the last one the operation is over
(R337). -/
def cameGone (h i : Nat) (q : BitVec 16) (c : Nat) (s : State) : State :=
  let b := bindOf s h i
  match b.op with
  | none => s
  | some o =>
    if o.opSeq ≠ q ∨ !o.out c then s
    else setBind h i { b with op := if o.came.length + 1 = o.chunks then none else some { o with came := c :: o.came } } s

/-- The result of a chunk is written, and the operation goes on or finishes (R342). -/
def treeResult (h : Nat) (p : Packet) (v : View) (s : State) : State :=
  let i := crIdx p
  let b := bindOf s h i
  match b.op with
  | none => stopWait h (.tree p) s
  | some o =>
    match jobOf s h o.job with
    | none => cameGone h i (crSeq p) (crChunk p) (stopWait h (.tree p) s)
    | some j =>
      let c := crChunk p
      if o.opSeq ≠ crSeq p ∨ !o.out c ∨ p.payload.length ≠ alBytes j c then strayDown h (stopWait h (.tree p) s)
      else match access h (Job.w j 14) (u64 (Job.op j) 12 + c * alStep j) p.payload.length .localWrite (jobWho s h j)
          (viewFor h (.tree p) v s) s with
        | (.ok g, s) =>
          let o := { o with came := c :: o.came }
          let s := stopWait h (.tree p) (writeGrant h g true p.payload s)
          if o.came.length = o.chunks then
            finishJob h j 0 (lengthOfJob j) 0 (setBind h i { bindOf s h i with op := none } s)
          else treeSend (o.chunks + 1) h j (viewFor h (.job j.id) v s) (setBind h i { bindOf s h i with op := some o } s)
        | (.wait n, s) => waitFor h (.tree p) n s
        | (a, s) => cameGone h i (crSeq p) c (failAcc h j (treeMoved j o) a (stopWait h (.tree p) s))

/-- A TREE_DOWN reaches a Bole (R342). -/
def effTreeDownHostRx (h : Nat) (p : Packet) (m : HostView) (s : State) : State :=
  if p.ptype ≠ 0x41 ∨ !boleOk s (boleOf h) then s else
  let r := e2eTest h p (freeInternal (xN h) p s)
  if !r.2 then r.1
  else if asdMismatch p then asdReject h r.1
  else if p.extMask ≠ 0x20 then hdrBad (boleOf h) r.1
  else
    let s := r.1
    let i := crIdx p
    let b := bindOf s h i
    let asked := b.op.any (fun o => o.opSeq == crSeq p && o.out (crChunk p))
    if b.st ≠ 1 ∨ crTag p ≠ b.tag.toNat then strayDown h s
    else if crStatus p = 0 then
      (if asked then treeResult h p (viewOf m s) (inc (treCtr h 2) s) else strayDown h s)
    else if crStatus p = 3 then (if asked then treeOpEnd h i 0x42 s else strayDown h s)
    else if crStatus p = 1 ∨ crStatus p = 2 then
      let s := treeOpEnd h i (if crStatus p = 1 then 0x40 else 0x41) s
      setBind h i { bindOf s h i with st := 2 } s
    else strayDown h s

/-! ### Binding (R340, R352) -/

/-- Sets TRE_BIND_RESULT: RESULT, and the state of the index after the command. -/
def bindResult (h i r : Nat) (s : State) : State :=
  barSet (hostKey h 0 0x1E00C) (pack [(0, 3, r), (4, 2, (bindOf s h i).st)]) s

/-- TREE_IDX of the command. -/
def bindIdx (s : State) (h : Nat) : Nat := fld (barR s (hostKey h 0 0x1E000) 0) 0 10

def effBind (h : Nat) (s : State) : State :=
  if !hostUp s h then s else
  let i := bindIdx s h
  let hi := barR s (hostKey h 0 0x1E004) 0x100
  let fn := fld hi 0 8
  let win := fld hi 8 9
  if (bindOf s h i).st ≠ 0 then bindResult h i 1 s
  else if win = 0 ∨ 256 < win ∨ (hport s h).numVfs < fn then bindResult h i 3 s
  else
    bindResult h i 0 (setBind h i {
      st := 1, tag := BitVec.ofNat 16 (fld (barR s (hostKey h 0 0x1E000) 0) 16 16), fn := fn, window := win } s)

/-- Unbinds an index (R340): a BOUND one tells its router. `mute` is the unbinding of a cleanup, which writes no completion. -/
def unbindIdx (h i : Nat) (mute : Bool) (s : State) : State :=
  let b := bindOf s h i
  let s := if mute then s else treeOpEnd h i 0x40 s
  let s := if b.st = 1 then sendUp h (treePkt true i b.tag.toNat 0 0 0 0 0 0 1 0 []) s else s
  setBind h i {} s

def effUnbind (h : Nat) (s : State) : State :=
  if !hostUp s h then s else
  let i := bindIdx s h
  if (bindOf s h i).st = 0 then bindResult h i 2 s else bindResult h i 0 (unbindIdx h i false s)

def effQuery (h : Nat) (s : State) : State :=
  if !hostUp s h then s else bindResult h (bindIdx s h) 0 s

end Sys2Proof.Machine
end

