-- ==== Sys2Proof/Machine/Switch.lean ====
section
/-! DEFINITION. Arrival and routing of packets (R91 to R116, R144, R323, R467, R497), output arbitration (R126 to R135),
and telemetry (R145 to R147, R122). -/

namespace Sys2Proof.Machine

/-! ### Meters (R141, R142) -/

inductive Colour where
  | green | yellow | red
  deriving DecidableEq, Repr

/-- The two-rate three-colour marker of R141, tokens in 1/1,024 byte: `m` is the meter, `len` bytes. A refill is cut to whole
1/1,024 bytes at each use (DESIGN CHOICE, log 122). -/
def meterRun (cir pir cbs pbs len now : Nat) (m : Meter) : Colour × Meter :=
  let dt := now - m.last
  let tc := min (cbs * 1024) (m.tc + cir * dt * 1024 / 8000)
  let tp := min (pbs * 1024) (m.tp + pir * dt * 1024 / 8000)
  let last := max m.last now
  let n := len * 1024
  if tp < n then (.red, { tc := tc, tp := tp, last := last })
  else if tc < n then (.yellow, { tc := tc, tp := tp - n, last := last })
  else (.green, { tc := tc - n, tp := tp - n, last := last })

/-- The metered length of a packet (R142). -/
def meteredLen (basis : Nat) (overhead : Int) (p : Packet) : Nat :=
  let b := if basis = 0 then lenOf p * 64
    else if basis = 1 then 32 + 4 * extWords p.extMask + p.payLen.toNat + 32
    else p.payLen.toNat
  ((b : Int) + overhead).toNat

/-- The ingress meter of an input (R144): true when the packet goes on. -/
def ingressMeter (i k : Nat) (p : Packet) (s : State) : State × Bool :=
  let b := mtrBase i k
  if rwsF s (b + 0xC) 26 1 = 0 then (s, true) else
  let len := meteredLen (rwsF s (b + 0xC) 24 2) (sext 8 (rwsF s (b + 8) 24 8)) p
  let r := meterRun (rws s b).toNat (rws s (b + 4)).toNat (rwsF s (b + 8) 0 24) (rwsF s (b + 0xC) 0 24) len s.time.now
    (Maps.get {} s.net.meters (2 * i + k))
  let s := { s with net.meters := Maps.put {} s.net.meters (2 * i + k) r.2 }
  match r.1 with
  | .green => (inc (b + 0x10) s, true)
  | .yellow => (inc (b + 0x18) s, true)
  | .red => (raise 154 1 (inc (cnpCtr 35) (inc (b + 0x20) s)), false)

/-! ### Usability -/

/-- An internal port is usable (R106's preface): N ports with their Bole and host port, a Crown port with its unit. -/
def internalUsable (s : State) (o : Nat) : Bool :=
  if o < 68 then nUsable s (o - 64) else if o = 68 then true else !fenced s (uCrown (o - 69))

/-- A network port is usable for a packet of a class that arrived on `inp` (R106, R467, R471). -/
def portUsable (s : State) (cls inp n : Nat) : Bool :=
  let p := port s n
  p.st = .up && !fenced s n && n != inp && (cls == 3 || (!p.gr.quar && !p.gr.draining))

/-! ### Tables -/

/-- Home Bough of an input (R100). -/
def homeBough (i : Nat) : Nat :=
  if i < 64 then i / 4 else if i < 68 then 4 * (i - 64) else if i = 68 then 1 else 4 * (i - 69) + 2

/-- A replica is available (R100). -/
def replicaOk (s : State) (k : Nat) : Bool :=
  domOn s (dBough k) && !fenced s (uBough k) && !(Maps.get {} s.net.boughs k).refreshing

/-- The Bough whose replica serves lookups of a home Bough. -/
def lookupBough (s : State) (home : Nat) : Option Nat :=
  ((List.range 16).map (fun i => (home + i) % 16)).find? (replicaOk s)

/-- An uncorrectable error met in a Bough's tables (R113, R120). -/
def boughEcc (k : Nat) (s : State) : State := raise (128 + k) 1 (inc (bghCtr k 3) s)

/-- A drop that a CNP_ counter counts, with its cause of source 152 (R119, R120). -/
def cnpDrop (i : Nat) (s : State) : State :=
  let s := inc (cnpCtr i) s
  if i < 13 ∧ i ≠ 5 then raise 152 (2 ^ i) s else s

/-- One lookup of the forward table (R100, R113): none on an uncorrectable error. -/
def lookup (k home : Nat) (b : Bool) (e : Nat) (s : State) : State × Option Word :=
  let s := inc (bghCtr k 0) s
  let s := if k = home then s else inc (bghCtr k 1) s
  let s := eccRead (bghCtr k 2) (eccRep k) (bankKey b e) s
  if struck s (eccRep k) (bankKey b e) then (boughEcc k s, none) else (s, some (ftRead s b e))

/-! ### Output choice -/

/-- Lookahead entry of a destination; none on an uncorrectable error (R102, R113). -/
def lookahead (b : Bool) (d : Nat) (s : State) : State × Option Word :=
  let r := (d >>> rwsF s 0x104 12 4) % 4096
  if struck s eccLa (bankKey b r) then (raise 156 1 s, none) else (s, some (laRead s b r))

/-- Remote level of candidate `i` on a port (R105). -/
def remoteLevel (s : State) (la : Option Word) (n i : Nat) : Nat :=
  match la, (port s n).tm.gLast with
  | some w, some (_, t, lv) =>
    if !bitW w i ∨ t + 1000 < s.time.now then 0 else min 14 (bitsN lv.toNat (4 * fld w (4 + 6 * i) 6) 4)
  | _, _ => 0

/-- The usable valid candidates of an entry, by index (R107). -/
def candidates (s : State) (cls inp : Nat) (w : Word) : List (Nat × Nat) :=
  ((List.range 4).filter (fun i => (ftValid w).testBit i && portUsable s cls inp (ftCand w i))).map (fun i => (i, ftCand w i))

/-- The lowest-scoring candidate; ties go to the lower index (R107). -/
def bestOf (s : State) (la : Option Word) : List (Nat × Nat) → Option (Nat × Nat)
  | [] => none
  | (i, p) :: t =>
    let sc := occupancy s p + rwsF s 0x104 0 8 * remoteLevel s la p i
    match bestOf s la t with
    | none => some (p, sc)
    | some (q, sq) => if sc ≤ sq then some (p, sc) else some (q, sq)

/-- detour_candidate of R108: port, score and intermediate EID. ROT_k advances at each use of it. -/
def detourCandidate (k inp mode : Nat) (b : Bool) (p : Packet) (s : State) : State × Option (Nat × Nat × Nat) :=
  let size := 2 ^ rwsF s 0x104 16 4
  let bg := Maps.get {} s.net.boughs k
  let j := if mode = 0 then (p.dest.toNat + bg.rot) % size else p.flowHash.toNat % size
  let s := if mode = 0 then { s with net.boughs := Maps.put {} s.net.boughs k { bg with rot := (bg.rot + 1) % 4096 } } else s
  let s := eccRead (bghCtr k 2) (eccDt k) (bankKey b (k * 4096 + j)) s
  if struck s (eccDt k) (bankKey b (k * 4096 + j)) then (boughEcc k s, none)
  else
    let d := dtRead s b k j
    let e := fld d 0 18
    if !bitW d 18 ∨ e = p.dest.toNat then (s, none)
    else if struck s (eccRep k) (bankKey b e) then (boughEcc k s, none)
    else
      let s := eccRead (bghCtr k 2) (eccRep k) (bankKey b e) s
      let w := ftRead s b e
      if ftLocal w ∨ ftDrop w ∨ 3 < p.stage.toNat + 1 + fld w 30 2 + fld d 19 2 then (s, none)
      else
        let (s, la) := lookahead b e s
        match bestOf s la (candidates s (clsOf p) inp w) with
        | some (q, sc) => (s, some (q, sc, e))
        | none => (s, none)

/-- What the choice at a network entry gives: a port, and the intermediate when the packet leaves by a detour. -/
def chooseOut (k inp key : Nat) (b : Bool) (w : Word) (p : Packet) (s : State) : State × Option (Nat × Option Nat) :=
  let mode := if p.cls = 2 then 3 else p.mode.toNat
  let cs := candidates s (clsOf p) inp w
  let allowed := !p.nonmin && p.detour == eidNone && bitW w 28
  let detour (s : State) : State × Option (Nat × Option Nat) :=
    if allowed then
      let r := detourCandidate k inp mode b p s
      (r.1, r.2.map (fun d => (d.1, some d.2.2)))
    else (s, none)
  if mode = 0 then
    let (s, la) := lookahead b key s
    let best := bestOf s la cs
    if allowed then
      let r := detourCandidate k inp 0 b p s
      match best, r.2 with
      | some (q, sc), some (dq, dsc, e) =>
        if dsc + rwsF s 0x108 0 16 < sc then (r.1, some (dq, some e)) else (r.1, some (q, none))
      | some (q, _), none => (r.1, some (q, none))
      | none, some (dq, _, e) => (r.1, some (dq, some e))
      | none, none => (r.1, none)
    else (s, best.map (fun x => (x.1, none)))
  else
    match cs with
    | [] => detour s
    | c :: _ =>
      if mode = 1 then (s, (cs[p.flowHash.toNat % cs.length]?).map (fun x => (x.2, none)))
      else if c.1 = 0 then (s, some (c.2, none))
      else (inc (cnpCtr 15) s, some (c.2, none))

/-- What routing decides: a drop counted by CNP_ counter `i`, or an output with the packet as it leaves and the network entry
that chose it. -/
inductive Route where
  | drop (i : Nat) | to (o : Nat) (p : Packet) (entry : Option Word)
  deriving DecidableEq, Repr

/-- Delivery by a local entry (R21, R107). -/
def routeLocal (s : State) (code : Nat) (p : Packet) : Route :=
  match codePort code with
  | none => .drop 9
  | some o =>
    if o = 68 ∧ clsOf p ≠ 3 then .drop 10
    else if o ≠ 68 ∧ clsOf p = 3 then .drop 11
    else if !internalUsable s o then .drop 9
    else .to o p none

/-- A packet leaves by a network port (R94, R109, R110), chosen by entry `w`. -/
def routeNet (o : Nat) (via : Option Nat) (w : Word) (p : Packet) (s : State) : State × Route :=
  let si := rwsF s (0x110 + 4 * (o / 32)) (o % 32) 1 = 1
  if (si ∨ via.isSome) ∧ p.stage = 3 then (s, .drop 2)
  else
    let p := { p with stage := if si ∨ via.isSome then p.stage + 1 else p.stage, hop := p.hop + 1 }
    match via with
    | none => (s, .to o p (some w))
    | some e => (inc (cnpCtr 13) s, .to o { p with nonmin := true, detour := BitVec.ofNat 18 e } (some w))

/-- Lookup and output choice (R106 to R113). The fuel covers the end or the abandonment of a detour. -/
def routePkt : Nat → Nat → Nat → Nat → Bool → Packet → State → State × Route
  | 0, _, _, _, _, _, s => (s, .drop 0)
  | fuel + 1, k, home, inp, b, p, s =>
    let on := p.detour ≠ eidNone
    let key := if on then p.detour.toNat else p.dest.toNat
    let r := lookup k home b key s
    match r.2 with
    | none => (r.1, .drop 12)
    | some w =>
      let s := r.1
      if ftDrop w then (s, .drop 1)
      else if ftLocal w then
        if on then routePkt fuel k home inp b { p with detour := eidNone } s
        else (s, routeLocal s (ftCand w 0) p)
      else
        let c := chooseOut k inp key b w p s
        match c.2 with
        | some (o, via) => routeNet o via w p c.1
        | none =>
          if on then routePkt fuel k home inp b { p with detour := eidNone } (inc (cnpCtr 14) c.1)
          else (c.1, .drop 0)

/-! ### PACKET_ARRIVE -/

/-- The cells of a packet that is dropped on arrival are freed: now, or when the last of them has come (R59). -/
def dropArrival (i : Nat) (e : Arrival) (s : State) : State := freePool i e.vc e.n e.whole s

/-- Cause REROUTE of R172: an ASD packet leaves by a port other than the CAND0 of its own entry. -/
def noteReroute (o : Nat) (w : Word) (p : Packet) (s : State) : State :=
  let c := ftCand w 0
  if clsOf p = 2 ∧ (ftValid w).testBit 0 ∧ o ≠ c ∧ rws s (asdBase c) ≠ 0 then
    asdCause c 2 (inc (asdBase c + 0x18) s)
  else s

/-- Queues a routed packet; ASD at an output without a share is dropped (R133). `entry` is the network entry that routed it
(R172). A packet whose tag has failed goes on stomped (R81). -/
def queueAt (i : Nat) (e : Arrival) (o : Nat) (bank : Option Bool) (entry : Option Word) (p : Packet) (s : State) : State :=
  if clsOf p = 2 ∧ shareOf s o = 0 then dropArrival i e (raise 154 2 (inc (cnpCtr 33) s))
  else
    let s := match entry with
      | some w => noteReroute o w p s
      | none => s
    let s := if e.bad then stompCount o s else s
    enqueue { inp := i, out := o, vc := Packet.vcOf p, inVc := e.vc, arrived := s.time.now, bank := bank,
              pkt := if e.bad then stompPkt p else p, whole := e.whole } s

/-- The drop of R323 and its source 155. -/
def treeDrop (i : Nat) (s : State) : State := raise 155 (2 ^ i) (inc (cnpCtr (40 + i)) s)

/-- Steering of a tree packet (R323). -/
def steer (i : Nat) (e : Arrival) (p : Packet) (s : State) : State :=
  let idx := Packet.extF p 5 0 0 10
  let t := tree s idx
  if p.dest ≠ nodeEid s then dropArrival i e (treeDrop 1 s)
  else if t.st ≠ 0 ∧ Packet.extF p 5 0 16 16 = treeF s idx 0 0 16 then
    queueAt i e (xC (treeUnit s idx)) none none p s
  else
    let s := dropArrival i e (treeDrop 0 s)
    if 64 ≤ i then
      sendTree 0 i (treePkt false idx (Packet.extF p 5 0 16 16) (Packet.extF p 5 1 0 16) 0 0 0 0 (Packet.extF p 5 2 0 16) 3 0 []) s
    else s

/-- The bank by which a packet is routed (R115): none when it is stale. -/
def bankOf (p : Packet) (s : State) : State × Option Bool :=
  if p.epoch = activeEpoch s then (s, some p.epoch)
  else match s.stage.bank with
    | .draining => ({ s with stage.drainClk := s.time.now }, some p.epoch)
    | .pending => (inc (cnpCtr 5) s, some p.epoch)
    | _ => (s, none)

/-- XINV and XINV_ACK cross to the other Bole (R233); no bank routes them (R497). -/
def crossBole (i : Nat) (p : Packet) (s : State) : State :=
  let b := 1 - (i - 64) / 2
  match ([2 * b, 2 * b + 1]).find? (fun h => internalUsable s (xN h)) with
  | some h => enqueue { inp := i, out := xN h, vc := Packet.vcOf p, inVc := Packet.vcOf p, arrived := s.time.now,
                        bank := none, pkt := p } s
  | none => s

/-- Steps 3 to 7 of R497. -/
def arriveRouted (i : Nat) (e : Arrival) (p : Packet) (s : State) : State :=
  let tree := (p.ptype = 0x40 ∨ p.ptype = 0x41) ∧ i < 68
  let drop (c : Nat) (s : State) : State := dropArrival i e (cnpDrop c s)
  if p.dest = eidNone then drop 7 s
  else if 64 ≤ i ∧ i < 68 ∧ p.src ≠ hostEid s (i - 64) then drop 8 s
  else if i < 64 ∧ rwsF s 0x104 20 6 ≤ p.hop.toNat then drop 3 s
  else
    let p := if i < 64 then p
      else { p with epoch := activeEpoch s, stage := 0, hop := 0, nonmin := false, detour := eidNone }
    if p.mode = 2 ∧ ¬ tree then drop 6 s
    else
      let m := if clsOf p = 2 then ingressMeter i 0 p s else if clsOf p = 3 then ingressMeter i 1 p s else (s, true)
      if !m.2 then dropArrival i e m.1
      else if tree then steer i e p m.1
      else
        let bk := bankOf p m.1
        match bk.2 with
        | none => drop 4 bk.1
        | some b =>
          match lookupBough bk.1 (homeBough i) with
          | none => drop 0 bk.1
          | some k =>
            let r := routePkt 3 k (homeBough i) i b p bk.1
            match r.2 with
            | .drop c => drop c r.1
            | .to o p w => queueAt i e o (some b) w p r.1

/-- The packet that arrives, as its port has it: the oldest one whose first cell has come and that has not been routed. A
packet with no such record is taken as whole; one from port M arrives as its first cell does (R128; DEDUCED, log 120). -/
def arrivalOf (s : State) (i : Nat) (p : Packet) : Arrival :=
  let e : Arrival := { n := lenOf p, vc := Packet.vcOf p, whole := i ≠ 68 || lenOf p ≤ 1, arrived := true }
  if i < 64 then
    match (port s i).rp.rx.find? (fun e => !e.arrived) with
    | some x => { x with arrived := true }
    | none => e
  else e

/-- The record of a packet that has been routed: gone when the packet is whole. -/
def rxTaken : List Arrival → List Arrival
  | [] => []
  | e :: t => if e.arrived then e :: rxTaken t else if e.whole then t else { e with arrived := true } :: t

/-- PACKET_ARRIVE (R497). A network port receives in UP only, and still routes what it has received; an internal port sends
while it is usable. -/
def effPacketArrive (i : Nat) (p : Packet) (s : State) : State :=
  if (i < 64 ∧ (!domOn s (dPort i) ∨ ((port s i).st ≠ .up ∧ (port s i).rp.rx.all (·.arrived)))) ∨ (64 ≤ i ∧ !internalUsable s i)
  then s else
  let e := arrivalOf s i p
  let s := if i < 64 ∧ (port s i).rp.rx ≠ [] then
      updPort i (fun x => { x with rp := { x.rp with rx := rxTaken x.rp.rx } }) s
    else s
  let quar := i < 64 ∧ (port s i).gr.quar
  let xinv := p.ptype = 8 ∨ p.ptype = 9
  let s := if i < 64 ∧ clsOf p ≠ 3 then
      updPort i (fun x => { x with gr := { x.gr with lastData := some s.time.now } }) s
    else s
  if quar ∧ clsOf p ≠ 3 then dropArrival i e (inc (cnpCtr 44) s)
  else
    let p := if quar then { p with epoch := activeEpoch s } else p
    if xinv then (if 64 ≤ i ∧ i < 68 then crossBole i p s else dropArrival i e (cnpDrop 8 s))
    else arriveRouted i e p s

/-! ### OUTPUT_GRANT -/

/-- The first member from `start` on, cyclically, that `ok` holds of. -/
def rrPick (n start : Nat) (ok : Nat → Bool) : Option Nat := ((List.range n).map (fun i => (start + i) % n)).find? ok

/-- Member of the top level of R135 to which an input belongs. -/
def topOf (i : Nat) : Nat := if i < 64 then i / 16 else if i < 68 then i - 60 else if i = 68 then 8 else i - 60

/-- rr_head of R135 among the eligible packets of a class: the packet, and the pointers as they stand after its grant. -/
def rrHead (rr : TMap Nat) (cls : Nat) (el : List Held) : Option (Held × TMap Nat) :=
  let el := el.filter (fun h => clsOf h.pkt == cls)
  let key (lv : Nat) : Nat := cls * 128 + lv
  let ptr (lv : Nat) : Nat := Maps.get 0 rr (key lv)
  match rrPick 13 (ptr 0) (fun t => el.any (fun h => topOf h.inp == t)) with
  | none => none
  | some t =>
    let el := el.filter (fun h => topOf h.inp == t)
    let rr := Maps.put 0 rr (key 0) ((t + 1) % 13)
    let step (n lv : Nat) (f : Held → Nat) (x : List Held × TMap Nat) : List Held × TMap Nat :=
      match rrPick n (ptr lv) (fun m => x.1.any (fun h => f h == m)) with
      | some m => (x.1.filter (fun h => f h == m), Maps.put 0 x.2 (key lv) ((m + 1) % n))
      | none => x
    let x := (el, rr)
    let x := if t < 4 then step 4 (1 + t) (fun h => h.inp / 4 % 4) x else x
    let x := match x.1.head? with
      | some h => if t < 4 then step 4 (5 + h.inp / 4) (fun h => h.inp % 4) x else x
      | none => x
    let x := match x.1.head? with
      | some h => step 4 (21 + h.inp) (fun h => h.vc % 4) x
      | none => x
    x.1.head?.map (fun h => (h, x.2))

def drrNext (c : Nat) : Nat := if c = 0 then 1 else if c = 1 then 3 else 0
/-- Quantum of a class at an output (R148). -/
def quantum (s : State) (o c : Nat) : Nat := quantumIn (quantaOf s o) c

/-- DRR of R134 over the eligible and the queued packets: packet, pointers, class pointer and deficits. -/
def drr (q : Nat → Nat) (rr : TMap Nat) (el qu : List Held) :
    Nat → Nat → TMap Nat → Option (Held × TMap Nat × Nat × TMap Nat)
  | 0, _, _ => none
  | fuel + 1, c, df =>
    if !el.any (fun h => clsOf h.pkt != 2) then none else
    let go : Option (Held × TMap Nat × Nat × TMap Nat) :=
      let df := if qu.any (fun h => clsOf h.pkt == c) then df else Maps.put 0 df c 0
      let n := drrNext c
      let df := if qu.any (fun h => clsOf h.pkt == n) then Maps.upd 0 df n (fun d => min (d + q n) (q n + 67)) else df
      drr q rr el qu fuel n df
    match rrHead rr c el with
    | some (h, rr') =>
      if lenOf h.pkt ≤ Maps.get 0 df c then some (h, rr', c, Maps.upd 0 df c (fun d => d - lenOf h.pkt)) else go
    | none => go

/-- The eligible ASD packet that arrived first; ties go to the lower input (R132). -/
def oldestAsd (el : List Held) : Option Held :=
  (el.filter (fun h => clsOf h.pkt == 2)).foldl (fun a h => match a with
    | none => some h
    | some x => if h.arrived < x.arrived ∨ (h.arrived = x.arrived ∧ h.inp < x.inp) then some h else a) none

/-- The first element that equals `h` leaves the list. -/
def dropOne (h : Held) : List Held → List Held
  | [] => []
  | x :: t => if x = h then t else x :: dropOne h t

/-- Counts the cells of a grant in the stages that they cross (R121, R452). -/
def stageCells (i o n : Nat) (s : State) : State :=
  let same := i < 64 ∧ o < 64 ∧ i / 4 = o / 4
  let s := if i < 64 then count (bghCtr (i / 4) 5) n s else s
  let s := if o < 64 ∧ ¬ same then count (bghCtr (o / 4) 5) n s else s
  let s := if i < 64 ∧ ¬ same then count (grvBase (i / 16) + 0x40) n s else s
  if o < 64 ∧ ¬ same ∧ ¬ (i < 64 ∧ i / 16 = o / 16) then count (grvBase (o / 16) + 0x40) n s else s

/-- Starts the transmission of a granted packet: at a network port its cells wait for the next groups, under the key
slot's next counter (R80, R82), and KEY_EXHAUST is raised at every packet from 2^47 on (DESIGN CHOICE, log 116); an internal port
has it when its last cell has gone (R127, R496), which of a packet from an internal port, whose cells no command brings, is at once
(DEDUCED, log 120). -/
def startTx (h : Held) (s : State) : State :=
  let o := h.out
  if o < 64 then
    let sl := b2n (port s o).kpTx
    let k := linkKey s o 0 sl
    let cs := markLast (linkCells s o k.ctr h.pkt)
    let s := if gcmEn s o then setLinkKey o 0 sl { k with ctr := k.ctr + 1 } s else s
    let s := if gcmEn s o ∧ 2 ^ 47 ≤ k.ctr then raise o 0x40 s else s
    let s := updPort o (fun p => { p with rp := { p.rp with txq := p.rp.txq ++ cs } }) s
    updOut o (fun x => { x with busy := some h, hold := false, due := false }) s
  else
    let s := if clsOf h.pkt = 2 then takeCredit o (512 * lenOf h.pkt) s else s
    let s := updOut o (fun x => { x with busy := some h, hold := false, due := false }) s
    if h.whole ∨ 64 ≤ h.inp then deliverTx o s else s

/-- The words of the down slot that a queued packet is a copy of (R25, R338). -/
def copyEcc (s : State) (h : Held) : Ecc :=
  match copyOf h with
  | none => .good
  | some (i, c) => (((tree s i).downs.find? (fun d => d.chunk == c)).map (·.ecc)).getD .good
/-- A copy meets an uncorrectable error of its down slot: the unit's cause ECC, and the context breaks (R345, R350). -/
def strikeDown (h : Held) (s : State) : State :=
  match copyOf h with
  | none => s
  | some (i, _) => breakTree i 2 none (raise (148 + treeUnit s i) 8 s)

/-- Grants a packet (R126 to R128, R145). The LEN_OVERHEAD of an ASD packet is taken here, at the part of sendSlope that its
cells take (R139; DESIGN CHOICE, log 121). A packet whose words in the pool cannot be read is dropped instead (R25; DESIGN CHOICE,
log 127: its source is 156). -/
def grant (h : Held) (s : State) : State :=
  let o := h.out
  let c := clsOf h.pkt
  let n := lenOf h.pkt
  let s := { s with net.voq := dropOne h s.net.voq }
  if h.ecc = .bad then discard [h] (raise 156 1 s) else
  let e := copyEcc s h
  if e = .bad then strikeDown h s else
  let s := copyGone h (if e = .corr then inc (grvBase (h.inp - 69) + 0x48) s else s)
  let s := if h.whole then creditInput h.inp h.inVc n s else s
  let s := if o < 64 then updPort o (fun p => { p with cr := { p.cr with sent := Maps.upd 0 p.cr.sent h.vc (fun x => x + BitVec.ofNat 24 n) } }) s
    else updOut o (fun x => { x with used := Maps.upd 0 x.used c (fun u => u + n) }) s
  let s := stageCells h.inp o n (count (shpBase o + 0x60 + 8 * c) n (inc (shpBase o + 0x40 + 8 * c) s))
  let dly := s.time.now - h.arrived
  let s := { s with net.tel := Maps.upd {} s.net.tel (4 * o + c) (fun r =>
    { r with delayMax := max r.delayMax dly, delaySum := r.delaySum + dly, pkts := r.pkts + 1, cells := r.cells + n }) }
  let s := if c = 2 then takeCredit o (sext 8 (rwsF s (shpBase o) 8 8) * 8) s else s
  if h.whole ∨ xRate s o ≤ xRate s h.inp then startTx h s
  else inc (shpBase o + 0x40 + 80) (updOut o (fun x => { x with busy := some h, hold := true }) s)

/-- OUTPUT_GRANT (R127, R132): the management priority grant, then ASD, then DRR. -/
def effOutputGrant (o : Nat) (s : State) : State :=
  if (outp s o).busy.isSome ∨ 73 ≤ o then s else
  let x := outp s o
  let s := if o < 64 ∧ gcmEn s o ∧ queuedAt s o ≠ [] then meetKey o 0 (b2n (port s o).kpTx) s else s
  let qu := queuedAt s o
  let el := eligible s o
  let gap := rwsF s (shpBase o) 16 8
  let free := gap != 0 && (match x.mgtLast with | none => true | some t => decide (t + gap * 1000 ≤ s.time.now))
  match (if free then rrHead x.rr 3 el else none) with
  | some (h, rr) =>
    grant h (inc (shpBase o + 0x40 + 64) (updOut o (fun x => { x with rr := rr, mgtLast := some s.time.now }) s))
  | none =>
    match (if 0 ≤ x.credit then oldestAsd el else none) with
    | some h => grant h s
    | none =>
      match drr (quantum s o) x.rr el qu 400 x.drrPtr x.deficit with
      | some (h, rr, c, df) => grant h (updOut o (fun x => { x with rr := rr, drrPtr := c, deficit := df }) s)
      | none => s

/-- STORE_FWD_START (R128): the last cell has come. Of a packet from port M, whose cells no other command brings, this command
says so (DEDUCED, log 120). A packet that its port's key keeps from starting (R387) stays due. -/
def effStoreFwdStart (o : Nat) (s : State) : State :=
  match (outp s o).busy with
  | some h =>
    if (outp s o).hold ∧ (h.whole ∨ h.inp = 68) then
      if o < 64 ∧ !keyOk s o then updOut o (fun x => { x with busy := some { h with whole := true }, due := true }) s
      else startTx { h with whole := true } s
    else s
  | none => s

/-- Outputs whose held packet may start now: it was due, and its port's key serves again (R387). -/
def dueOutputs (s : State) : List Nat :=
  (s.net.outs.filter (fun e => e.2.due && keyOk s e.1)).map (·.1)

/-! ### Telemetry -/

def sat32 (n : Nat) : Nat := min n (2 ^ 32 - 1)

/-- The sample record of an output and class (R145); one that an uncorrectable error has struck is not delivered, and reads as zero
(R25; DESIGN CHOICE, log 127). -/
def telWords (s : State) (o c : Nat) : List Word :=
  if struck s eccTel (4 * o + c) then List.replicate 8 0 else
  let r := Maps.get {} s.net.tel (4 * o + c)
  let v := [depthOf s o c, max r.depthMax (depthOf s o c), r.delayMax, r.delaySum, r.pkts, r.cells, r.stall]
  v.map (fun x => w32 (sat32 x)) ++ [w32 (sumN ((List.range 7).map (fun i => if 2 ^ 32 ≤ v.getD i 0 then 2 ^ i else 0)))]

/-- All sample records, in order of 4o + c. -/
def telAll (s : State) : List Word := (List.range 292).flatMap (fun i => telWords s (i / 4) (i % 4))

/-- The congestion map record (R122). -/
def mapRecord (s : State) : List Word :=
  let entry (n : Nat) : List Word :=
    if struck s eccMap n then [0, 0] else
    let g := (port s n).tm.gLast
    [pack [(0, 16, min (occupancy s n) 0xFFFF), (16, 4, gossipLevel s n), (20, 4, portCode (port s n).st)],
     match g with
     | some (r, t, _) => pack [(0, 8, r.toNat), (8, 1, b2n (decide (s.time.now ≤ t + 1000)))]
     | none => 0]
  let block (n : Nat) : List Word :=
    if struck s eccMap n then List.replicate 8 0 else
    match (port s n).tm.gLast with
    | some (_, _, lv) => (List.range 8).map (fun w => w32 (bitsN lv.toNat (32 * w) 32))
    | none => List.replicate 8 0
  w64 s.time.now ++ [w32 (nodeEid s).toNat, s.stage.epoch, 0, 0, 0, 0]
    ++ (List.range 64).flatMap entry ++ (List.range 64).flatMap block

/-- Reads of the telemetry records, and of the congestion map, meet the errors there (R25, R437). -/
def coreEcc (kind : Nat) (s : State) : State :=
  ((s.ev.ecc.filter (fun x => x.1 == kind)).foldl (fun s _ => raise 156 1 s)) s

/-- Slots of the telemetry history ring (R147). -/
def histSlots : Nat := 442368

/-- The records of a new period (R146): zero, and its largest depth is that with which it begins (R145). -/
def telRestart (s : State) : TMap TelRec :=
  s.net.voq.foldl (fun m h => Maps.put {} m (4 * h.out + clsOf h.pkt) { depthMax := depthOf s h.out (clsOf h.pkt) }) []

/-- TELEMETRY_PERIOD_END (R146, R147). The snapshot sequence number begins at 0 and counts every period's end, whether its slot
is written or not (DESIGN CHOICE, log 123). -/
def effTelemetryPeriodEnd (s : State) : State :=
  let recs := telAll s
  let slot := w64 s.time.now ++ [w32 (nodeEid s).toNat, w32 (rwsF s 0x400 0 20)] ++ w64 s.net.snapSeq ++ [0, 0] ++ recs
  let slot := slot ++ List.replicate (2560 - slot.length) 0 ++ mapRecord s
  let s := coreEcc eccMap (coreEcc eccTel s)
  let s := eccWrite (fun x => x.1 == eccTel) { s with net.tel := telRestart s, net.snapSeq := s.net.snapSeq + 1 }
  if rwsF s 0x400 20 1 = 0 then s
  else if !hbmOk s then raise 154 8 (inc (cnpCtr 34) s)
  else
    let k := s.net.histSlot
    { s with net := { s.net with
        hist := Maps.insert k (Maps.putList 0 [] 0 slot) s.net.hist
        histSlot := (k + 1) % histSlots
        wrapped := s.net.wrapped || decide (k + 1 = histSlots) } }

/-! ### Replicas -/

/-- A replica's refresh completes (R101): it takes the table again from the others, and its Bough is no longer behind. All
replicas are one table here, from which it completes even where no other replica is available (DESIGN CHOICE, log 125). -/
def refreshed (k : Nat) (s : State) : State :=
  let s := eccWrite (fun e => e.1 == eccRep k) { s with
    net.boughs := Maps.upd {} s.net.boughs k (fun b => { b with refreshing := false, stale := false }) }
  raise (128 + k) 2 (inc (bghCtr k 4) s)

/-- REPLICA_REFRESH_DONE (R101): of a Bough that is ON and not fenced, and refreshes. -/
def effReplicaRefreshDone (k : Nat) (s : State) : State :=
  if !(Maps.get {} s.net.boughs k).refreshing ∨ !domOn s (dBough k) ∨ fenced s (uBough k) then s else refreshed k s

end Sys2Proof.Machine
end

