-- ==== Sys2Proof/Machine/Issue.lean ====
section
/-! DEFINITION. The queue manager's own jobs (06): queues, fences and CANCEL; injection metering (R156 to R159) and issue
(R196); and the rows that begin a job. -/

namespace Sys2Proof.Machine

/-! ### Queues (R182 to R185) -/

/-- QUEUE_CREATE (R184). -/
def stepQueueCreate (h : Nat) (j : Job) (v : View) (s : State) : State :=
  let w := wqOf s h j.q
  let q := fAt (Job.op j) 11 0 20
  if w.fn ≠ 0 ∧ (q < w.qbase ∨ w.qbase + w.qcount ≤ q) then malformed h j 2 s
  else if (wqOf s h q).st ≠ .absent then malformed h j 9 s
  else match rdWords h (wqOf s h j.q).fn v (u64 (Job.op j) 4) 16 s with
    | (.ok d, s) =>
      let fn := fAt d 3 0 8
      let c := cqOf s h (fAt d 2 0 20)
      if !mayActFor w fn ∨ (w.fn ≠ 0 ∧ bAt d 2 30) then malformed h j 2 s
      else if fAt d 0 0 12 ≠ 0 ∨ fAt d 2 20 5 < 4 ∨ 16 < fAt d 2 20 5 ∨ 8 < fAt d 2 26 4 ∨ fAt d 3 8 8 = 0 ∨ u64 d 4 % 8 ≠ 0
          ∨ 2 ^ 20 < fAt d 7 0 21 then malformed h j 8 s
      else if !c.active ∨ c.fn ≠ fn then malformed h j 10 s
      else
        finishJob h j 0 0 0 (setWq h q {
          st := .active, base := u64 d 0, cq := fAt d 2 0 20, log := fAt d 2 20 5, inOrder := bAt d 2 25, prefetch := fAt d 2 26 4,
          priv := bAt d 2 30, fn := fn, weight := fAt d 3 8 8, headWb := u64 d 4, qbase := fAt d 6 0 20, qcount := fAt d 7 0 21 } s)
    | (a, s) => failAcc h j 0 a s

/-- QUEUE_MODIFY RESTART (R183). Outside ERROR it changes nothing (DESIGN CHOICE, log 67). -/
def stepQueueModify (h : Nat) (j : Job) (s : State) : State :=
  let q := fAt (Job.op j) 11 0 20
  let t := wqOf s h q
  if t.st = .absent then malformed h j 10 s
  else if !mayActFor (wqOf s h j.q) t.fn then malformed h j 2 s
  else if t.st ≠ .error then finishJob h j 0 0 0 s
  else
    let s := setWq h q { t with st := .active, head := 0, tail := 0, wbHead := 0, fetching := false, reads := 0, rereads := 0, partials := [], done := [] } s
    finishJob h j 0 0 0 s

/-- A queue stops fetching and drains; fetched jobs not yet issued complete FLUSHED (R183). -/
def drainQueue (h q : Nat) (d : Option Nat) (s : State) : State :=
  let js := (wqOf s h q).fetched
  let s := updWq h q (fun w => { w with st := .draining, fetched := [], fetching := false, reads := 0, rereads := 0, partials := [], destroy := d }) s
  js.foldl (fun s k => finishJob h k 0x13 0 0 (inc (qmgCtr h 14) s)) s

/-- QUEUE_DESTROY (R183). A DRAINING queue is in use (DESIGN CHOICE, log 67). -/
def stepQueueDestroy (h : Nat) (j : Job) (s : State) : State :=
  let q := fAt (Job.op j) 11 0 20
  let t := wqOf s h q
  if t.st = .absent then malformed h j 10 s
  else if !mayActFor (wqOf s h j.q) t.fn then malformed h j 2 s
  else if t.st = .draining then malformed h j 9 s
  else drainQueue h q (some j.id) s

/-- A completion that an IN_ORDER queue writes after that of its own QUEUE_DESTROY. -/
def afterDestroy (w : Wq) (c : Comp) : Bool :=
  c.ordered && w.destroy.any (fun d => (w.order.takeWhile (· != c.job)).contains d)
/-- No job of a DRAINING queue is in flight. A job whose completion has not been written still is, unless it waits for the
QUEUE_DESTROY's (DEDUCED, log 67). -/
def queueDrained (s : State) (h q : Nat) : Bool :=
  let w := wqOf s h q
  let p := hport s h
  w.st == .draining && !(p.jobs ++ p.firedq).any (fun k => k.q == q && some k.id != w.destroy)
    && !p.comps.any (fun c => c.q == q && !afterDestroy w c)

/-- The completions of a queue that ceases to exist are written in the order in which they stand, that of job `d` first. -/
def releaseComps (h q : Nat) (d : Option Nat) (s : State) : State :=
  updHost h (fun p =>
    let cs := p.comps.map (fun c => if c.q = q then { c with ordered := false } else c)
    let own (c : Comp) : Bool := c.q == q && some c.job == d
    { p with comps := cs.filter own ++ cs.filter (fun c => !own c) }) s

/-- QUEUE_DRAIN_DONE (R183, R195): the head is written back, and the QUEUE_DESTROY completes. -/
def effQueueDrainDone (h q : Nat) (s : State) : State :=
  if !queueDrained s h q ∨ !hostUp s h then s else
  let w := wqOf s h q
  let s := writeBack h q s
  let s := match w.destroy.bind (jobOf s h) with
    | some j => finishJob h j 0 0 0 s
    | none => s
  let s := releaseComps h q w.destroy s
  { s with hs.wqs := Maps.erase (objKey 20 h q) s.hs.wqs }

/-- CQ_CREATE (R185). -/
def stepCqCreate (h : Nat) (j : Job) (v : View) (s : State) : State :=
  let w := wqOf s h j.q
  let q := fAt (Job.op j) 11 0 20
  if (cqOf s h q).active then malformed h j 9 s else
  match rdWords h (wqOf s h j.q).fn v (u64 (Job.op j) 4) 16 s with
  | (.ok d, s) =>
    let fn := fAt d 3 0 8
    let vec := fAt d 2 5 11
    if !mayActFor w fn then malformed h j 2 s
    else if fAt d 0 0 12 ≠ 0 ∨ fAt d 2 0 5 < 4 ∨ 20 < fAt d 2 0 5 ∨ vec = 0 ∨ (fn ≠ 0 ∧ 63 < vec) then malformed h j 8 s
    else
      finishJob h j 0 0 0 (setCq h q {
        active := true, base := u64 d 0, log := fAt d 2 0 5, vec := vec, intrEn := bAt d 2 16, fn := fn, coalN := fAt d 3 8 16,
        coalT := fAt d 4 0 16 } s)
  | (a, s) => failAcc h j 0 a s

/-- Removes a CQ and the notices that wait for it. -/
def dropCq (h q : Nat) (s : State) : State :=
  updHost h (fun p => { p with comps := p.comps.filter (fun c => c.cq ≠ q) }) { s with hs.cqs := Maps.erase (objKey 20 h q) s.hs.cqs }

/-- CQ_DESTROY (R188, R197). -/
def stepCqDestroy (h : Nat) (j : Job) (s : State) : State :=
  let q := fAt (Job.op j) 11 0 20
  let c := cqOf s h q
  if !c.active ∨ !mayActFor (wqOf s h j.q) c.fn then malformed h j 10 s
  else if s.hs.wqs.any (fun e => e.1 / 2 ^ 20 == h && e.2.st != .absent && e.2.cq == q) then malformed h j 9 s
  else finishJob h j 0 0 0 (dropCq h q s)

/-! ### CANCEL (R206, R207, R291, R344) -/

/-- Ends a target that a CANCEL has beaten. -/
def cancelWon (h : Nat) (j t : Job) (s : State) : State :=
  finishJob h j 0 0 0 (finishJob h t 2 t.acked 0 (inc (qmgCtr h 12) s))

/-- A CANCEL that has lost, with its status. -/
def cancelLost (h : Nat) (j : Job) (st : Nat) (s : State) : State := finishJob h j st 0 0 (inc (qmgCtr h 13) s)

/-- Takes a transport job off its channel: what it has not sent is never sent. -/
def stopSending (h : Nat) (t : Job) (s : State) : State :=
  let mine := ((chanOf s h t.chan).toSend.filter (fun u => u.job == some t.id)).length
  let s := updChan h t.chan (fun x => { x with toSend := x.toSend.filter (fun u => u.job ≠ some t.id), line := x.line.filter (· ≠ .job t.id) }) s
  updJob h t.id (fun k => { k with cancel := true, left := k.left - mine }) (stopWait h (.job t.id) s)

/-- A CANCEL against an issued target, by the kind of the target. -/
def cancelIssued (h : Nat) (j t : Job) (v : View) (s : State) : State :=
  let op := Job.opcode t
  if op = 0x21 then
    if (postedAt s h).any (fun r => r.job == t.id) then
      cancelWon h j t (setPosted h ((postedAt s h).filter (fun r => r.job ≠ t.id)) s)
    else if t.ready then cancelLost h j 3 s
    else cancelWon h j t s
  else if op = 0x20 ∧ t.sent ≠ 0 then cancelLost h j 0x2C s
  else if op = 0x40 then
    if t.sent ≠ 0 then cancelLost h j 0x43 s
    else
      let i := alIdx t
      let b := bindOf s h i
      let s := match b.op with
        | some o => if o.job = t.id then setBind h i { b with op := none, opSeq := o.opSeq } s else s
        | none => s
      cancelWon h j t s
  else if t.chan ≠ 0 then
    let s := finishJob h j 0 0 0 (stopSending h t (inc (qmgCtr h 12) s))
    runChan h t.chan v (jobIfDone h t.id s)
  else cancelWon h j t s

/-- CANCEL (R206). A queue that the CANCEL may not name holds no such job (DESIGN CHOICE, log 68). -/
def stepCancel (h : Nat) (j : Job) (v : View) (s : State) : State :=
  let w := wqOf s h j.q
  let q := fAt (Job.op j) 11 0 20
  let i := wAt (Job.op j) 12
  let t := wqOf s h q
  let mine (k : Job) : Bool := k.q == q && k.idx == i && k.fired.isNone && k.id != j.id
  if t.st = .absent ∨ (t.fn ≠ w.fn ∧ !(j.q = 0 ∧ w.fn = 0)) then finishJob h j 4 0 0 s
  else match t.fetched.find? mine with
    | some k => cancelWon h j k s
    | none =>
      match (hport s h).jobs.find? mine with
      | some k => cancelIssued h j k v s
      | none => if t.done.contains i then cancelLost h j 3 s else finishJob h j 4 0 0 s

/-! ### The steps of a job -/

/-- One step of a job by its opcode: its beginning, or its going on when host memory has answered. -/
def stepJob (h : Nat) (j : Job) (v : View) (s : State) : State :=
  let op := Job.opcode j
  if op = 1 then finishJob h j 0 0 0 s
  else if op = 2 then (if j.waitFor = [] then endJob h j (b2n j.loss) (comp0 j (b2n j.loss) 0 0) s else s)
  else if op = 3 then stepCancel h j v s
  else if op = 0x21 then stepRecv h j v s
  else if op = 0x22 then stepMatchReset h j s
  else if op = 0x30 then stepCtrCreate h j s
  else if op = 0x31 then stepCtrDestroy h j s
  else if op = 0x32 then stepCtrSet h j s
  else if op = 0x33 then stepCtrAdd h j s
  else if op = 0x35 then stepTrigArm h j v s
  else if op = 0x36 then stepTrigCancel h j v s
  else if op = 0x38 then stepCtrRead h j v s
  else if op = 0x40 then stepTree h j v s
  else if op = 0x50 then stepXctxCreate h j v s
  else if op = 0x51 then stepXctxDestroy h j s
  else if op = 0x52 then stepMrRegister h j v s
  else if op = 0x53 then stepMrInvalidate h j s
  else if op = 0x54 then stepInvalidate h j s
  else if op = 0x60 then stepQueueCreate h j v s
  else if op = 0x61 then stepQueueModify h j s
  else if op = 0x62 then stepQueueDestroy h j s
  else if op = 0x63 then stepCqCreate h j v s
  else if op = 0x64 then stepCqDestroy h j s
  else if op = 0x68 then stepChanCreate h j v s
  else if op = 0x69 then stepChanModify h j s
  else if op = 0x6A then stepChanDestroy h j s
  else if op = 0x6B then stepChanQuery h j s
  else stepTx h j v s

/-- Begins a job. -/
def beginJob (h : Nat) (j : Job) (m : HostView) (s : State) : State :=
  stepJob h { j with begun := true } (viewOf m s) (updJob h j.id (fun k => { k with begun := true }) s)

/-- The row of a job: the job that it names begins, where one has been issued and has not begun. -/
def jobRow (op h q : Nat) (i : Word) (m : HostView) (s : State) : State :=
  if !hostUp s h then s else
  match freshJob s h q i op with
  | some j => beginJob h j m s
  | none => s

def effNop (h q : Nat) (i : Word) (s : State) : State := jobRow 1 h q i {} s
def effFenceJob (h q : Nat) (i : Word) (s : State) : State := jobRow 2 h q i {} s
def effCancel (h q : Nat) (i : Word) (s : State) : State := jobRow 3 h q i {} s
def effWrite (h q : Nat) (i : Word) (m : HostView) (s : State) : State := jobRow 0x10 h q i m s
def effWriteImm (h q : Nat) (i : Word) (m : HostView) (s : State) : State := jobRow 0x11 h q i m s
def effRead (h q : Nat) (i : Word) (m : HostView) (s : State) : State := jobRow 0x12 h q i m s
def effAtomic (h q : Nat) (i : Word) (m : HostView) (s : State) : State := jobRow 0x13 h q i m s
def effSend (h q : Nat) (i : Word) (m : HostView) (s : State) : State := jobRow 0x20 h q i m s
def effPostRecv (h q : Nat) (i : Word) (m : HostView) (s : State) : State := jobRow 0x21 h q i m s
def effMatchReset (h q : Nat) (i : Word) (s : State) : State := jobRow 0x22 h q i {} s
def effCtrCreate (h q : Nat) (i : Word) (s : State) : State := jobRow 0x30 h q i {} s
def effCtrDestroy (h q : Nat) (i : Word) (s : State) : State := jobRow 0x31 h q i {} s
def effCtrSet (h q : Nat) (i : Word) (s : State) : State := jobRow 0x32 h q i {} s
def effCtrAdd (h q : Nat) (i : Word) (s : State) : State := jobRow 0x33 h q i {} s
def effTrigArm (h q : Nat) (i : Word) (m : HostView) (s : State) : State := jobRow 0x35 h q i m s
def effTrigCancel (h q : Nat) (i : Word) (m : HostView) (s : State) : State := jobRow 0x36 h q i m s
def effRemoteEnable (h q : Nat) (i : Word) (m : HostView) (s : State) : State := jobRow 0x37 h q i m s
def effCtrRead (h q : Nat) (i : Word) (m : HostView) (s : State) : State := jobRow 0x38 h q i m s
def effTreeAllreduce (h q : Nat) (i : Word) (m : HostView) (s : State) : State := jobRow 0x40 h q i m s
def effXctxCreate (h q : Nat) (i : Word) (m : HostView) (s : State) : State := jobRow 0x50 h q i m s
def effXctxDestroy (h q : Nat) (i : Word) (s : State) : State := jobRow 0x51 h q i {} s
def effMrRegister (h q : Nat) (i : Word) (m : HostView) (s : State) : State := jobRow 0x52 h q i m s
def effMrInvalidate (h q : Nat) (i : Word) (s : State) : State := jobRow 0x53 h q i {} s
def effInvalidate (h q : Nat) (i : Word) (s : State) : State := jobRow 0x54 h q i {} s
def effQueueCreate (h q : Nat) (i : Word) (m : HostView) (s : State) : State := jobRow 0x60 h q i m s
def effQueueModify (h q : Nat) (i : Word) (s : State) : State := jobRow 0x61 h q i {} s
def effQueueDestroy (h q : Nat) (i : Word) (s : State) : State := jobRow 0x62 h q i {} s
def effCqCreate (h q : Nat) (i : Word) (m : HostView) (s : State) : State := jobRow 0x63 h q i m s
def effCqDestroy (h q : Nat) (i : Word) (s : State) : State := jobRow 0x64 h q i {} s
def effChanCreate (h q : Nat) (i : Word) (m : HostView) (s : State) : State := jobRow 0x68 h q i m s
def effChanModify (h q : Nat) (i : Word) (s : State) : State := jobRow 0x69 h q i {} s
def effChanDestroy (h q : Nat) (i : Word) (s : State) : State := jobRow 0x6A h q i {} s
def effChanQuery (h q : Nat) (i : Word) (s : State) : State := jobRow 0x6B h q i {} s

/-- COUNT (R301, R304): the counter is tested, and the operation entry runs as a job of the queue. -/
def effCount (h q : Nat) (i : Word) (m : HostView) (s : State) : State :=
  if !hostUp s h then s else
  match (hport s h).jobs.find? (fun x => x.q == q && x.idx == i && !x.begun && Job.counted x) with
  | some j =>
    let s := match j.count with
      | some c => meetCtr h c.1 s
      | none => s
    (match j.count.bind (fun c => ctrStatus s h (wqOf s h q) c.1) with
     | some st => finishJob h j st 0 0 s
     | none => beginJob h j m s)
  | none => s

/-! ### Injection metering (R156 to R159) -/

/-- The job as its packets will be: a SEND's protocol and the ASSURED extension count (R157, R278). -/
def asMetered (s : State) (h : Nat) (j : Job) : Job :=
  { j with asd := some (0, 0, false), rndv := Job.opcode j == 0x20 && (Job.subop j == 1 || decide (eagerLimit s h < lengthOfJob j)) }

/-- Metered length of a work request (R157). -/
def injectLen (s : State) (h : Nat) (j : Job) : Nat :=
  sumN ((plans (asMetered s h j)).map (fun pl => 64 * cellsOf (32 + 4 * pl.p.ext.length + pl.len + 32)))

/-- The reservation that a work request names, if it may name it (R156). -/
def injectResv (s : State) (h : Nat) (j : Job) : Option (List Word) :=
  let d := Maps.get [] s.stage.resv (resvKey h (fAt (Job.op j) 15 0 14))
  if [0x10, 0x11, 0x20].contains (Job.opcode j) ∧ bAt d 0 18 ∧ fAt d 0 0 18 = (chanOf s h (Job.chanNo j)).peer.toNat then some d else none

/-- Changes a job that waits at issue. -/
def setHead (h : Nat) (j : Job) (s : State) : State :=
  let f (k : Job) : Job := if k.id = j.id then j else k
  let s := updHost h (fun p => { p with firedq := p.firedq.map f }) s
  updWq h j.q (fun w => { w with fetched := w.fetched.map f }) s

/-- Meters one assured work request (R157, R158). REFUSED_WRS counts the one refused as too long too (DESIGN CHOICE, log 157). -/
def meterJob (h : Nat) (j : Job) (s : State) : State :=
  match injectResv s h j with
  | none => resvInvalid h j s
  | some d =>
    let n := injectLen s h j
    let refuse (s : State) : State := finishJob h j 0x30 0 0 (asdHostCause h 0 (inc (asdHostCtr h 2) s))
    if fAt d 3 0 24 < n then refuse (asdHostCause h 2 (inc (asdHostCtr h 4) s))
    else
      let k := resvMeter h (fAt (Job.op j) 15 0 14)
      let r := meterRun (wAt d 1).toNat (wAt d 2).toNat (fAt d 3 0 24) (fAt d 4 0 24) n s.time.now (Maps.get {} s.net.meters k)
      let s := { s with net.meters := Maps.put {} s.net.meters k r.2 }
      match r.1 with
      | .green =>
        let a := s.time.now % 2 ^ 48
        setHead h { j with metered := true, stalled := false, asd := some (a, (a + (wAt d 5).toNat) % 2 ^ 48, j.stalled) }
          (inc (asdHostCtr h 0) s)
      | .yellow =>
        setHead h { j with metered := true, stalled := false, flags := j.flags ||| 1 } (asdHostCause h 1 (inc (asdHostCtr h 1) s))
      | .red =>
        if !bAt (Job.op j) 0 7 then refuse s
        else if j.stalled then (if j.again then setHead h { j with again := false } s else s)
        else setHead h { j with stalled := true } (inc (asdHostCtr h 3) s)

/-- The jobs of a host port that are at issue: at the head of a queue that no fence blocks, or fired. -/
def headsOf (s : State) (h : Nat) : List Job :=
  (s.hs.wqs.filter (fun e => e.1 / 2 ^ 20 == h && e.2.fence.isNone)).filterMap (fun e => e.2.fetched.head?) ++ (hport s h).firedq

/-- The meter of a reservation has tokens for a length in its peak bucket (R158). -/
def peakHolds (s : State) (h : Nat) (j : Job) (d : List Word) : Bool :=
  let m : Meter := Maps.get {} s.net.meters (resvMeter h (fAt (Job.op j) 15 0 14))
  decide (injectLen s h j * 1024 ≤ min (fAt d 4 0 24 * 1024) (m.tp + (wAt d 2).toNat * (s.time.now - m.last) * 1024 / 8000))

/-- A work request at issue is metered at once: it has just come there, or it waits under ASSURED_WAIT and its reservation has
changed at a commit, or become too small (R157 to R159). -/
def meterNow (s : State) (h : Nat) (j : Job) : Bool :=
  Job.assured j && !j.metered && (!j.stalled || j.again || (match injectResv s h j with
    | none => true
    | some d => decide (fAt d 3 0 24 < injectLen s h j)))
/-- The peak bucket of a work request that waits under ASSURED_WAIT holds its length (R158). -/
def meterAgain (s : State) (h : Nat) (j : Job) : Bool :=
  Job.assured j && !j.metered && j.stalled && (injectResv s h j).any (peakHolds s h j)

/-- Meters what comes to a host port's issue. -/
def meterHeads (h : Nat) (s : State) : State :=
  (headsOf s h).foldl (fun s j => if meterNow s h j then meterJob h j s else s) s

/-- A work request of a queue that waits under ASSURED_WAIT, fetched or fired, is metered again when that is due (R158). -/
def effAssuredWaitRemeter (h q : Nat) (s : State) : State :=
  if !hostUp s h then s else
  (headsOf s h).foldl (fun s j => if j.q = q ∧ meterAgain s h j then meterJob h j s else s) s

/-! ### Issue (R196, R203, R279, R309, R342) -/

/-- Transactions of a Bole (R40). A receive leaves the table when it has been posted or matched (R296). -/
def transactions (s : State) (b : Nat) : Nat :=
  (((hport s (2 * b)).jobs ++ (hport s (2 * b + 1)).jobs).filter (fun j => !(Job.opcode j == 0x21 && j.ready))).length

/-- Receives posted, and those issued that have still to be posted. -/
def recvCount (s : State) (h : Nat) : Nat :=
  (postedAt s h).length + ((hport s h).jobs.filter (fun j => Job.opcode j == 0x21 && !j.ready)).length

/-- A POST_RECV must wait at issue; on a port whose matching is off it does not, and completes MALFORMED (R279). -/
def recvWaits (s : State) (h : Nat) : Bool :=
  let b := boleOf h
  mtcOn s h && (decide (postedMax s h ≤ recvCount s h) || decide (524288 ≤ recvCount s (2 * b) + recvCount s (2 * b + 1)))

/-- Slots that a context holds, or will hold once it is cached. -/
def ctxHolds (x : Chan) : Nat := if x.cached then 1 + b2n x.window else ctxNeeds x
/-- Slots of a Bole that belong to pinned contexts (R263). -/
def pinnedSlots (s : State) (b : Nat) : Nat :=
  sumN (s.hs.chans.map (fun e => if e.1 / 2 ^ 25 = b ∧ e.2.pinned then ctxHolds e.2 else 0))
/-- A job's first packet would pin another context beyond 57,344 slots (R263). -/
def pinHeld (s : State) (h : Nat) (j : Job) : Bool :=
  let x := chanOf s h (Job.chanNo j)
  onChannel (Job.opcode j) && (chanRefuses s h j).isNone && !x.pinned && decide (57344 < pinnedSlots s (boleOf h) + ctxHolds x)

/-- What holds a job at issue besides its queue. -/
def jobHeld (s : State) (h : Nat) (j : Job) : Bool :=
  let op := Job.opcode j
  let b := boleOf h
  decide (65536 ≤ transactions s b) || cqFull s h (wqOf s h j.q).cq || j.stalled || (Job.assured j && !j.metered)
    || (op == 0x21 && recvWaits s h)
    || (op == 0x40 && (bindOf s h (alIdx j)).st == 1 && (bindOf s h (alIdx j)).fn == (wqOf s h j.q).fn
        && ((bindOf s h (alIdx j)).op.isSome || (hport s h).jobs.any (fun k => Job.opcode k == 0x40 && alIdx k == alIdx j && !k.begun)))
    || pinHeld s h j

/-- A POST_RECV at issue finds no room and has not been counted for it (R279). -/
def postStalls (s : State) (h : Nat) (j : Job) : Bool := Job.opcode j == 0x21 && !j.held && recvWaits s h
/-- Counts the receives that have to wait at issue. -/
def countStalls (h : Nat) (s : State) : State :=
  (headsOf s h).foldl (fun s j => if postStalls s h j then inc (mtcCtr h 13) (setHead h { j with held := true } s) else s) s

/-- The head job of a queue may be issued. -/
def queueReady (s : State) (h q : Nat) : Bool :=
  let w := wqOf s h q
  (w.st == .active || w.st == .error) && w.fence.isNone && (w.fetched.head?).any (fun j => !jobHeld s h j)

/-- Jobs that a fence covers (R204, R292). -/
def fenceCovers (kind : Nat) (j : Job) : Bool :=
  let op := Job.opcode j
  if kind = 1 then isLoad op
  else if kind = 2 then isStore op
  else !(op == 0x21 && j.ready)

/-- Issues a job: it enters the transaction table, and the line of its channel (R245); a FENCE notes what it covers, the
stores discarded since the last one that covers stores included (R362; DEDUCED, log 159), and blocks its queue (R205). One whose
entries cannot be delivered stays where it is (R25). -/
def issueJob (h : Nat) (j : Job) (s : State) : State :=
  let r := meetDie (boleOf h) (eccStage h) j.id s
  let s := r.1
  if !r.2 then s else
  let fence := Job.opcode j == 2 && j.fired.isNone
  let cov := if fence then
      ((hport s h).jobs.filter (fun k => k.q == j.q && k.fired.isNone && decide (k.id < j.id) && fenceCovers (Job.subop j) k)).map (·.id)
    else []
  let gone := if fence ∧ Job.subop j ≠ 1 then (wqOf s h j.q).lostSt.filter (fun k => decide (k < j.id)) else []
  let s := fenceLoss h gone.length (updWq h j.q (fun w => { w with lostSt := w.lostSt.filter (fun k => !gone.contains k) }) s)
  let s := updHost h (fun p => { p with jobs := p.jobs ++ [{ j with waitFor := cov, loss := gone != [] }], firedq := p.firedq.filter (fun k => k.id ≠ j.id) }) s
  let s := updWq h j.q (fun w => { w with fetched := w.fetched.filter (fun k => k.id ≠ j.id), fence := if fence then some j.id else w.fence }) s
  refetchAll (boleOf h) (joinLine h j s)

/-- The fired jobs that may be issued: those of one counter in the order of its list (R309). -/
def firedReady (s : State) (h : Nat) : List Job :=
  let l := (hport s h).firedq
  l.filter (fun j => !jobHeld s h j && (l.takeWhile (fun k => k.id != j.id)).all (fun k => k.list.isNone || k.list != j.list))

/-- The queue that issues next by weighted round robin (R196): the present one while its turn lasts, else the next in cyclic
order. -/
def wrrNext (s : State) (h : Nat) : Option Nat :=
  let p := hport s h
  let qs := ((s.hs.wqs.filter (fun e => e.1 / 2 ^ 20 == h)).map (fun e => e.1 % 2 ^ 20)).filter (queueReady s h)
  if p.wrrLeft ≠ 0 ∧ qs.contains p.wrrAt then some p.wrrAt
  else match qs.find? (fun q => decide (p.wrrAt < q)) with
    | some q => some q
    | none => qs.head?

/-- The first green job that may be issued: of a queue, or fired (R158). -/
def greenReady (s : State) (h : Nat) : Option Job :=
  let qs := (s.hs.wqs.filter (fun e => e.1 / 2 ^ 20 == h)).map (fun e => e.1 % 2 ^ 20)
  ((qs.filter (queueReady s h)).filterMap (fun q => (wqOf s h q).fetched.head?) ++ firedReady s h).find?
    (fun j => j.asd.isSome)

/-- The next job of the weighted round robin is issued, and counts for its queue's turn (R196). -/
def issueNext (h : Nat) (s : State) : State :=
  match wrrNext s h with
  | none => s
  | some q =>
    match (wqOf s h q).fetched.head? with
    | none => s
    | some j =>
      let p := hport s h
      let left := if q = p.wrrAt ∧ p.wrrLeft ≠ 0 then p.wrrLeft - 1 else (wqOf s h q).weight - 1
      issueJob h j (updHost h (fun p => { p with wrrAt := q, wrrLeft := left }) s)

/-- JOB_ISSUE: the assured heads are metered and receives that wait are counted; then a green job, a fired job or the next
queue's job is issued (R158, R196, R279, R309). -/
def effJobIssue (h : Nat) (s : State) : State :=
  if !hostUp s h then s else
  let s := countStalls h (meterHeads h s)
  match (greenReady s h).orElse (fun _ => (firedReady s h).head?) with
  | some j => issueJob h j s
  | none => issueNext h s

/-! ### The PF's privileged queue (R212) -/

/-- A write of QMG_PQ_CFG: ENABLE creates or destroys queue 0. -/
def effQmgPqCfgEnable (h : Nat) (v : Word) (s : State) : State :=
  if !hostUp s h then s else
  let k (o : Nat) : Nat := hostKey h 0 (0x10000 + o)
  let was := bitW (barR s (k 8) 4) 8
  let on := bitW v 8
  let lg := fld v 0 5
  let s := barSet (k 8) (v &&& 0x11F) s
  if on = was then s
  else if !on then (if (wqOf s h 0).st = .absent ∨ (wqOf s h 0).st = .draining then s else drainQueue h 0 none s)
  else if lg < 4 ∨ 16 < lg ∨ !(cqOf s h 0).active ∨ (wqOf s h 0).st ≠ .absent then qmgCause h 0 s
  else
    setWq h 0 { st := .active, base := (barR s (k 4) 0).toNat * 2 ^ 32 + (barR s (k 0) 0).toNat, cq := 0, log := lg, priv := true,
                qbase := 0, qcount := 2 ^ 20 } s

/-- A write of QMG_PCQ_CFG: ENABLE creates or destroys CQ 0. -/
def effQmgPcqCfgEnable (h : Nat) (v : Word) (s : State) : State :=
  if !hostUp s h then s else
  let k (o : Nat) : Nat := hostKey h 0 (0x10000 + o)
  let was := bitW (barR s (k 0x18) 0x24) 17
  let on := bitW v 17
  let lg := fld v 0 5
  let s := barSet (k 0x18) (v &&& 0x3FFFF) s
  if on = was then s
  else if !on then (if (cqOf s h 0).active then dropCq h 0 s else s)
  else if lg < 4 ∨ 20 < lg ∨ (cqOf s h 0).active then qmgCause h 0 s
  else
    setCq h 0 { active := true, base := (barR s (k 0x14) 0).toNat * 2 ^ 32 + (barR s (k 0x10) 0).toNat, log := lg,
                vec := fld v 5 11, intrEn := bitW v 16 } s

end Sys2Proof.Machine
end

