-- ==== Sys2Proof/Machine/Rerun.lean ====
section
/-! DEFINITION. What lets a waiting access go on: host reads (R213), the end of an invalidation (R230, R231),
compare-and-swaps (R224, R225), the answers to page requests (R236), and what waited for room in the Bole (R40, R261, R312,
R313). -/

namespace Sys2Proof.Machine

/-- Goes on with what waited. -/
def runClient (h : Nat) (c : Client) (v : View) (s : State) : State :=
  match c with
  | .job j =>
    match jobOf s h j with
    | some x => stepJob h x (viewFor h (.job j) v s) s
    | none => stopWait h (.job j) s
  | .chan k psn => rerunBusy h k psn v s
  | .resp p => rerunResp h p v s
  | .copy j k => runCopy h j (viewFor h (.copy j k) v s) s
  | .again k => pumpAll h k (resendAll h k (viewFor h (.again k) v s) s)
  | .tree p => treeResult h p v s

/-- The clients of a host port whose need `p` picks go on, in order. -/
def rerunNeeds (h : Nat) (p : Need → Bool) (v : View) (s : State) : State :=
  (((hport s h).waits.filter (fun w => p w.need)).map (·.client)).foldl (fun s c => runClient h c v s) s

/-- A host read returns data or an error to the client that waits for it; the view holds what the reads of its step
return. An access that waited for its data keeps the translation it used (R231). -/
def effHostDmaReadDone (h id : Nat) (m : HostView) (s : State) : State :=
  if dmaHeld s h (.wait id) then s else
  match (hport s h).waits.find? (fun w => w.id == id) with
  | some w =>
    match w.need with
    | .read _ _ _ _ => runClient h w.client (viewOf m s) s
    | .walk _ _ _ _ _ _ _ _ _ => runClient h w.client (viewOf m s) s
    | .data _ a _ ck page _ _ first pages =>
      runClient h w.client { viewOf m s with held := some (ck, page, a / 4096 * 4096, first, pages) } s
    | .cas _ _ => s
    | .page _ _ _ => s
    | .turn _ _ => s
    | .walker _ => s
    | .slot _ _ => s
    | .issue _ => s
  | none => s

/-- An invalidation finishes at a Bole once nothing that it removes is in use; the walks that it abandoned start afresh
(R230, R231). -/
def effInvalidationDone (b id : Nat) (s : State) : State :=
  match (xl s b).invals.find? (fun i => i.id == id) with
  | none => s
  | some i =>
    if !invReady s b i then s else
    let s := invFinish b i s
    [2 * b, 2 * b + 1].foldl (fun s h =>
      let turn (n : Need) : Bool := match n with | .turn i _ => i == id | _ => false
      let k := ((hport s h).waits.filter (fun w => turn w.need)).length
      rerunNeeds h turn (viewOf {} s) (if k = 0 then s else count (xltCtr h 8) k s)) s

/-- The slots that were filled from a leaf leave the TLB and the micro-TLBs: the leaf has changed (R225). -/
def dropLeaf (h addr : Nat) (s : State) : State :=
  let gone (t : Tlb) : Bool := t.leaf == addr && t.ctx / 2 ^ 14 == h
  updXl (boleOf h) (fun x => { x with tlb := x.tlb.filter (fun t => !gone t), micro := x.micro.filter (fun y => !gone y.2) }) s

/-- A compare-and-swap for ACCESSED or DIRTY returns (R224, R225): the value that stood in memory, or none where the host
does not support it. A filled slot that an invalidation in progress removes serves only the accesses that waited. -/
def effAdCasDone (h addr : Nat) (ret : Option (BitVec 64)) (m : HostView) (s : State) : State :=
  let b := boleOf h
  if dmaHeld s h (.cas addr) then s else
  match (xl s b).cas.find? (fun c => c.addr == addr && c.ctx / 2 ^ 14 == h) with
  | none => s
  | some c =>
    let s := updXl b (fun x => { x with cas := x.cas.filter (fun y => !(y.addr == addr && y.ctx / 2 ^ 14 == h)) }) s
    let fk := addr * 4 + h
    let fails := Maps.get 0 (xl s b).fails fk
    let setFails (n : Nat) (s : State) : State := updXl b (fun x => { x with fails := Maps.put 0 x.fails fk n }) s
    let mine (n : Need) : Bool := match n with | .cas a _ => a == addr | _ => false
    let rerun (v : View) (s : State) : State := rerunNeeds h mine v s
    let v := viewOf m s
    let answer (kind : Nat) (s : State) : State := updHost h (fun p => { p with
      waits := p.waits.map (fun w => if mine w.need then { w with ans := (c.ctx, c.page, kind) :: w.ans } else w) }) s
    match ret with
    | none => rerun { v with noCas := some addr, entry := some (c, c.cmp) } (answer 10 (setFails 0 s))
    | some r =>
      if r = c.cmp then
        let live := c.tlb.pages != 0 && (xctxOf s (c.ctx / 2 ^ 12 % 4) (c.ctx % 2 ^ 12)).active
        let s := setFails 0 s
        let s := rerun { v with done := some addr } (if live then tlbFill b c.tlb s else s)
        (xl s b).invals.foldl (fun s i => if i.begun ∧ !i.done then invFlush b i s else s) s
      else
        let s := inc (xltCtr h 5) (dropLeaf h addr s)
        if 4 ≤ fails + 1 then rerun { v with fight := some addr, entry := some (c, r) } (answer 11 (setFails 0 s))
        else rerun { v with entry := some (c, r) } (setFails (fails + 1) s)

/-- Gives the accesses that wait for a page their answer, and lets them go on. -/
def answerPage (h : Nat) (r : PageReq) (kind : Nat) (v : View) (s : State) : State :=
  let mine (n : Need) : Bool := match n with | .page c p _ => c == r.ctx && p == r.page | _ => false
  let s := updHost h (fun p => { p with
    pageReqs := p.pageReqs.filter (fun x => x.id ≠ r.id)
    waits := p.waits.map (fun w => if mine w.need then { w with ans := (r.ctx, r.page, kind) :: w.ans } else w) }) s
  rerunNeeds h mine v s

/-- The driver's answer to a page request (R236). -/
def effXltFaultResp (h : Nat) (v : Word) (m : HostView) (s : State) : State :=
  if !hostUp s h then s else
  match (hport s h).pageReqs.find? (fun r => r.id.toNat == fld v 0 16) with
  | none => xltCause h 4 (inc (xltCtr h 13) s)
  | some r =>
    if bitW v 16 then answerPage h r 12 (viewOf m s) (inc (xltCtr h 11) s)
    else answerPage h r 0 (viewOf m s) (inc (xltCtr h 10) s)

/-- A page request gets no answer within FAULT_TIMEOUT_MS (R236). -/
def effFaultTimeout (h : Nat) (id : BitVec 16) (s : State) : State :=
  match (hport s h).pageReqs.find? (fun r => r.id == id) with
  | none => s
  | some r => answerPage h r 13 (viewOf {} s) (inc (xltCtr h 12) s)

/-! ### What goes on with nothing new from outside -/

/-- What a client waits for is there: one of the 256 walks (R40), the trigger slot (R313), the issue of the fired job (R312);
or the page request that it shared has gone with its function (R236), and it asks afresh. -/
def needDue (s : State) (h : Nat) (w : Wait) : Bool :=
  match w.need with
  | .walker _ => decide (walkers s (boleOf h) < 256)
  | .slot fn k => !slotBusy s h fn k w.client && decide (slotReads s (boleOf h) < 256)
  | .issue id => !(hport s h).firedq.any (fun j => j.id == id)
  | .page c p _ => !((hport s h).pageReqs ++ (hport s h).pageWait).any (fun r => r.ctx == c && r.page == p)
  | .read _ _ _ _ => false
  | .walk _ _ _ _ _ _ _ _ _ => false
  | .data _ _ _ _ _ _ _ _ _ => false
  | .cas _ _ => false
  | .turn _ _ => false

/-- Clients of a host port that can go on, one after another. -/
def wakeNeeds (h : Nat) (s : State) : State :=
  ((hport s h).waits.filter (needDue s h)).foldl (fun s w =>
    if (hport s h).waits.any (fun x => decide (x.client = w.client) && needDue s h x) then runClient h w.client (viewOf {} s) s
    else s) s

/-- A channel can go on: its record has slots to come into the cache, a parked packet has a window slot, or it can send. -/
def chanDue (s : State) (h c : Nat) : Bool :=
  ((chanOf s h c).landed && ctxRoom s h c) || parkDue s h c || lineDue s h c

def wakeChan (h c : Nat) (s : State) : State :=
  let v := viewOf {} s
  if (chanOf s h c).landed then (if ctxRoom s h c then landCtx h c v s else s)
  else if parkDue s h c then rerunAll h c v s
  else sendDue h c v s

end Sys2Proof.Machine
end

