-- ==== Sys2Proof/Machine/Scratch.lean ====
section
/-! DEFINITION. Scratch memory as a host reaches it, its write buffers and barrier (R354 to R361), and the lock unit of a
Bole (R368 to R376). -/

namespace Sys2Proof.Machine

/-- A host access to a function of a host port can be served by its Bole: the port is UP, the function is there and PD_Ex_MEM is
ON with ECLK running (R39, R209, R460). -/
def memServes (s : State) (h fn : Nat) : Bool :=
  (hport s h).st == .up && decide (fn ≤ (hport s h).numVfs) && domOn s (dMem (boleOf h))
    && eclk s (boleOf h)

/-- Ordering identifier of a host access within its Bole (R357): host port, requester ID and traffic class. -/
def identOf (h req tc : Nat) : Nat := (h % 2) * 2 ^ 19 + (req % 2 ^ 16) * 8 + tc % 8
/-- Key of an identifier's LOSS. -/
def lossKey (b ident : Nat) : Nat := b * 2 ^ 20 + ident

def wbufOf (s : State) (b : Nat) : List BufWrite := Maps.get [] s.scr.wbuf b
def setWbuf (b : Nat) (l : List BufWrite) (s : State) : State := { s with scr.wbuf := Maps.put [] s.scr.wbuf b l }

/-- A host write was discarded (R361). -/
def hostLoss (b ident : Nat) (s : State) : State :=
  ssmCause b 1 (inc (ssmCtr b 5)
    { s with scr.loss := if s.scr.loss.contains (lossKey b ident) then s.scr.loss else s.scr.loss ++ [lossKey b ident] })

/-- A host write to BAR4 (R354): it waits in the write buffer under its identifier, or is dropped beyond a VF window. -/
def effScratchHostWrite (h fn tc off : Nat) (bytes : List Byte) (req : Nat) (s : State) : State :=
  if !memServes s h fn then s else
  let b := boleOf h
  let s := inc (ssmCtr b 1) s
  match scrOff s b fn off with
  | none => hostLoss b (identOf h req tc) (ssmCause b 2 (inc (ssmCtr b 6) s))
  | some o => setWbuf b (wbufOf s b ++ [{ ident := identOf h req tc, off := o, bytes := bytes }]) s

/-- The byte that the latest buffered write of an identifier gives an offset (R359). -/
def forwarded (ident off : Nat) : List BufWrite → Option Byte
  | [] => none
  | w :: t =>
    match forwarded ident off t with
    | some v => some v
    | none => if w.ident = ident ∧ w.off ≤ off ∧ off < w.off + w.bytes.length then w.bytes[off - w.off]? else none

/-- A read takes from scratch memory those of `len` bytes that `p` picks: each word of theirs in which the code corrects an
error is counted once (R25, R376). -/
def scrMet (b o len : Nat) (p : Nat → Bool) (s : State) : State :=
  ((List.range ((o + len + 7) / 8 - o / 8)).filter (fun k =>
    (List.range len).any (fun i => p i && (o + i) / 8 == o / 8 + k))).foldl
    (fun s k => eccRead (ssmCtr b 7) (eccScr b) (o / 8 + k) s) s

/-- A host read of BAR4 (R354, R356, R359). -/
def effScratchHostRead (h fn tc off len req : Nat) (s : State) : State :=
  if !memServes s h fn then s else
  let b := boleOf h
  let s := inc (ssmCtr b 0) s
  match scrOff s b fn off with
  | none => emit (.readData h fn (some (List.replicate len 0xFF))) (ssmCause b 2 (inc (ssmCtr b 6) s))
  | some o =>
    let fw (i : Nat) : Option Byte := forwarded (identOf h req tc) (o + i) (wbufOf s b)
    if (List.range len).any (fun i => (fw i).isNone && scrStruck s b (o + i)) then
      emit (.readData h fn none) (scrEccs b o len (fun i => (fw i).isNone) s)
    else
      emit (.readData h fn (some ((List.range len).map (fun i => (fw i).getD (scrByte s b (o + i))))))
        (scrMet b o len (fun i => (fw i).isNone) s)

/-- Performs one buffered write. -/
def performOne (b : Nat) (w : BufWrite) (s : State) : State :=
  let (s, lost) := scrWrite b w.off w.bytes s
  if lost then hostLoss b w.ident s else s

/-- Performs the buffered writes of an identifier, oldest first. -/
def performAll (b ident : Nat) (s : State) : State :=
  let l := wbufOf s b
  let s := setWbuf b (l.filter (fun w => w.ident != ident)) s
  (l.filter (fun w => w.ident == ident)).foldl (fun s w => performOne b w s) s

/-- A BAR0 request is performed after every earlier write of its identifier (R357, R363): those still buffered are performed
first. -/
def behind (h : Nat) (who : Requester) (f : State → State) (s : State) : State :=
  f (if domOn s (dMem (boleOf h)) then performAll (boleOf h) (identOf h who.id who.tc) s else s)

/-- The oldest buffered write of an identifier is performed (R357, R359). -/
def effWritePerformed (b ident : Nat) (s : State) : State :=
  if !domOn s (dMem b) then s else
  let l := wbufOf s b
  match l.find? (fun w => w.ident == ident) with
  | none => s
  | some w =>
    let i := l.findIdx (fun w => w.ident == ident)
    performOne b w (setWbuf b (l.eraseIdx i) s)

/-- A read of SSM_BARRIER (R361). -/
def effSsmBarrier (h fn tc req : Nat) (s : State) : State :=
  if !memServes s h fn then s else
  let b := boleOf h
  let id := identOf h req tc
  let s := performAll b id (inc (ssmCtr b 4) s)
  let lost := s.scr.loss.contains (lossKey b id)
  emit (.readData h fn (some (leBytes 4 (b2n lost)))) { s with scr.loss := s.scr.loss.filter (· ≠ lossKey b id) }

/-! ### Locks -/

def lckCtr (b i : Nat) : Nat := boleKey b (0x69100 + 8 * i)
/-- Raises LCK_CAUSE bit `i` (R376). -/
def lckCause (b i : Nat) (s : State) : State := raise (196 + 64 * b + (if i = 0 then 0 else 1)) (2 ^ i) s

def lockOf (s : State) (b l : Nat) : Lock := Maps.get {} s.scr.locks (b * 2 ^ 11 + l)
def setLock (b l : Nat) (x : Lock) (s : State) : State := { s with scr.locks := Maps.put {} s.scr.locks (b * 2 ^ 11 + l) x }
def lgroupOf (s : State) (b g : Nat) : LockGroup := Maps.get {} s.scr.lgroups (b * 32 + g)
def setLgroup (b g : Nat) (x : LockGroup) (s : State) : State := { s with scr.lgroups := Maps.put {} s.scr.lgroups (b * 32 + g) x }

/-- Master number of a function of a host port. -/
def masterOf (h fn : Nat) : Nat := 256 * (h % 2) + fn
/-- A read of a lock register by a master completes with a word. -/
def lockAnswer (b m : Nat) (v : Nat) (s : State) : State := emit (.readData (2 * b + m / 256) (m % 256) (some (leBytes 4 v))) s

def lkNotGranted : Nat := 0xFFFFFFFE
def lkNoRights : Nat := 0xFFFFFFFD
def lkWrongMode : Nat := 0xFFFFFFFC
def lkAlreadyHeld : Nat := 0xFFFFFFFB

/-- A master has rights to a lock (R368). -/
def lockRights (s : State) (b l m : Nat) : Bool := (lgroupOf s b (l / 64)).rights.getLsbD m
def lockClaims (s : State) (b l : Nat) : Bool := (lgroupOf s b (l / 64)).claim

/-- An attempt without rights (R368). -/
def noRights (b : Nat) (s : State) : State := lckCause b 3 (inc (lckCtr b 8) s)
def badRelease (b : Nat) (s : State) : State := lckCause b 1 (inc (lckCtr b 4) s)

/-- Grants a lock to a master and completes its read (R371). -/
def grantLock (b l m : Nat) (x : Lock) (orphan : Bool) (s : State) : State :=
  let q := x.seq + 1
  lockAnswer b m (q.toNat + 2 ^ 16 * b2n orphan) (inc (lckCtr b 0) (setLock b l { x with owner := some m, seq := q } s))

/-- Stalled reads of a Bole (R370). -/
def stalled (s : State) (b : Nat) : Nat :=
  sumN ((s.scr.locks.filter (fun e => e.1 / 2 ^ 11 == b)).map (fun e => e.2.queue.length))

/-- A read of LCK_ACQUIRE (R369 to R371). -/
def effLckAcquire (h fn l : Nat) (s : State) : State :=
  if !memServes s h fn ∨ 2048 ≤ l then s else
  let b := boleOf h
  let m := masterOf h fn
  let x := lockOf s b l
  if !lockRights s b l m then lockAnswer b m lkNoRights (noRights b s)
  else if lockClaims s b l then lockAnswer b m lkWrongMode s
  else match x.owner with
    | none => grantLock b l m { x with orphan := false } x.orphan s
    | some o =>
      if o = m then lockAnswer b m lkAlreadyHeld s
      else if 256 ≤ stalled s b then lockAnswer b m lkNotGranted (lckCause b 4 (inc (lckCtr b 9) s))
      else inc (lckCtr b 1) (setLock b l { x with queue := x.queue ++ [m] } s)

/-- A write of LCK_RELEASE (R371, R373). -/
def effLckRelease (h fn l : Nat) (s : State) : State :=
  if !memServes s h fn ∨ 2048 ≤ l then s else
  let b := boleOf h
  let m := masterOf h fn
  let x := lockOf s b l
  if !lockRights s b l m then noRights b s
  else if lockClaims s b l ∨ x.owner ≠ some m then badRelease b s
  else
    let s := inc (lckCtr b 3) s
    match x.queue with
    | [] => setLock b l { x with owner := none } s
    | w :: t => grantLock b l w { x with queue := t } false s

/-- A write of LCK_CLAIM (R373). In a QUEUED group it has no effect. -/
def effLckClaim (h fn l : Nat) (token : BitVec 16) (s : State) : State :=
  if !memServes s h fn ∨ 2048 ≤ l then s else
  let b := boleOf h
  let m := masterOf h fn
  let x := lockOf s b l
  if !lockRights s b l m then noRights b s
  else if !lockClaims s b l then s
  else if token = 0 then
    if x.owner = some m then inc (lckCtr b 3) (setLock b l { x with owner := none, token := 0, orphan := false } s)
    else badRelease b s
  else if x.owner.isNone then inc (lckCtr b 6) (setLock b l { x with owner := some m, token := token } s)
  else inc (lckCtr b 7) s

/-- A stalled acquire reaches 50 µs (R370, R371). -/
def effAcquireTimeout (b l m : Nat) (s : State) : State :=
  let x := lockOf s b l
  if !x.queue.contains m then s
  else lockAnswer b m lkNotGranted (lckCause b 2 (inc (lckCtr b 2) (setLock b l { x with queue := x.queue.erase m } s)))

/-- A lock's masters that `p` picks are reset (R371 to R373). -/
def resetLock (b l : Nat) (p : Nat → Bool) (s : State) : State :=
  let x := lockOf s b l
  let x := { x with queue := x.queue.filter (fun m => !p m) }
  match x.owner with
  | some o =>
    if !p o then setLock b l x s
    else
      let s := lckCause b 0 (inc (lckCtr b 5) s)
      match x.queue with
      | w :: t => grantLock b l w { x with queue := t } true s
      | [] => setLock b l { x with owner := none, token := 0, orphan := true } s
  | none => setLock b l x s

/-- Masters of a Bole are reset (R372). -/
def resetMasters (b : Nat) (p : Nat → Bool) (s : State) : State :=
  ((s.scr.locks.filter (fun e => e.1 / 2 ^ 11 == b)).map (fun e => e.1 % 2 ^ 11)).foldl (fun s l => resetLock b l p s) s

/-- PD_Ex_MEM enters OFF (R372): every lock is FREE with stored ORPHANED; its arrays are lost (R356, R457). -/
def scratchOff (b : Nat) (s : State) : State :=
  let other {α : Type} (n : Nat) (m : TMap α) : TMap α := m.filter (fun e => e.1 / n != b)
  eccWrite (fun e => e.1 == eccScr b) { s with
    scr := { s.scr with
      mem := other (2 ^ 23) s.scr.mem, wbuf := Maps.erase b s.scr.wbuf, loss := s.scr.loss.filter (fun k => k / 2 ^ 20 != b)
      lgroups := other 32 s.scr.lgroups
      locks := (List.range 2048).foldl (fun m l => Maps.insert (b * 2 ^ 11 + l) { orphan := true } m)
        (other (2 ^ 11) s.scr.locks) } }

end Sys2Proof.Machine
end

