-- ==== Sys2Proof/Machine/HostPort.lean ====
section
/-! DEFINITION. A host port's own life (R209), its cleanup and Function Level Reset (R210, R211), and the requests on its
link that no other chapter owns (R179, R209, R213). -/

namespace Sys2Proof.Machine

def hptCtr (h i : Nat) : Nat := hCtr h 0x80100 i
/-- Raises HPT_CAUSE bit `i` (R214). -/
def hptCause (h i : Nat) (s : State) : State :=
  raise (288 + 4 * h + (if i < 2 then 0 else if i = 2 then 1 else if i = 3 then 2 else 3)) (2 ^ i) s

/-! ### Cleanup -/

/-- What a cleanup covers: a host port, the functions that `fns` picks, and whether that is the whole port or its PF. -/
structure Scope where
  h   : Nat
  fns : Nat → Bool
  all : Bool
  pf  : Bool

/-- Work queues of a scope. -/
def Scope.queues (c : Scope) (s : State) : List Nat :=
  (s.hs.wqs.filter (fun e => e.1 / 2 ^ 20 == c.h && c.fns e.2.fn)).map (fun e => e.1 % 2 ^ 20)

/-- The keys of a map that belong to the objects of a scope are unlisted. -/
def Scope.drop {α : Type} (c : Scope) (bits : Nat) (fn : α → Nat) (m : TMap α) : TMap α :=
  m.filter (fun e => !(e.1 / 2 ^ bits == c.h && c.fns (fn e.2)))

/-- Jobs of a host port that a scope ends. -/
def Scope.jobGoes (c : Scope) (qs : List Nat) (j : Job) : Bool := c.all || qs.contains j.q

/-- A format 2 completion of a CQ of a scope that waits to be written. -/
def Scope.notice (c : Scope) (s : State) (x : Comp) : Bool := x.q == 2 ^ 20 && c.fns (cqOf s c.h x.cq).fn

/-- A completion of a scope that waits to be written: of its queues, a notice, or one whose queue has gone already, as that of the
QUEUE_DESTROY which ended it. -/
def Scope.compGoes (c : Scope) (s : State) (qs : List Nat) (x : Comp) : Bool :=
  c.all || qs.contains x.q || c.notice s x
    || (decide (x.q < 2 ^ 20) && decide ((wqOf s c.h x.q).st = .absent) && c.fns (cqOf s c.h x.cq).fn)

/-- Completions that could not be written (R210): one for each job that the queues still owed one, and the notices. -/
def Scope.owed (c : Scope) (s : State) : Nat :=
  let p := hport s c.h
  let qs := c.queues s
  let posted := sumN (qs.map (fun q => (wqOf s c.h q).order.length))
  let fired := ((p.jobs ++ p.firedq).filter (fun j => c.jobGoes qs j && j.fired.isSome)).length
  let late := (p.comps.filter (fun x => c.compGoes s qs x
    && !(qs.contains x.q && (wqOf s c.h x.q).order.contains x.job))).length
  posted + fired + late

/-- A waiting client belongs to a scope; `cs` are its channels. -/
def Scope.clientGoes (c : Scope) (s : State) (qs cs : List Nat) (w : Client) : Bool :=
  let job (j : Nat) : Bool := (jobOf s c.h j).any (c.jobGoes qs)
  c.all || match w with
    | .job j => job j
    | .copy j _ => job j
    | .chan k _ => cs.contains k
    | .again k => cs.contains k
    | .resp p => cs.contains p.chan.toNat
    | .tree p => ((bindOf s c.h (crIdx p)).op).any (fun o => job o.job)

/-- A client that holds payload which it has not written to the host (R210): a packet of a write or of a message in execution,
a response, the bytes read from a bounce slot, a Crown result, or what CTR_READ and CHAN_QUERY store. -/
def holdsPayload (s : State) (h : Nat) (w : Client) : Bool :=
  match w with
  | .chan k psn => (chanOf s h k).busy.any (fun p => p.psn == psn && p.payload != [])
  | .resp _ => true
  | .copy j n => (hport s h).copies.any (fun x => x.job == j && x.slot == n && x.data.isSome)
  | .tree _ => true
  | .job j => (jobOf s h j).any (fun j => Job.opcode j == 0x38 || Job.opcode j == 0x6B)
  | .again _ => false

/-- Bounce slots that the entries and messages of a scope hold. -/
def Scope.slots (c : Scope) (s : State) (qs cs : List Nat) : List Nat :=
  let p := hport s c.h
  ((unexpAt s c.h).filter (fun u => c.fns u.fn)).filterMap (·.slot)
    ++ (p.copies.filter (fun x => x.data.isNone && (jobOf s c.h x.job).any (c.jobGoes qs))).map (·.slot)
    ++ cs.flatMap (fun k => (chanOf s c.h k).msgs.filterMap (fun m => match m.dest with
        | .slot n => some n
        | .both n _ => some n
        | .recv _ => none
        | .gone => none))

/-- A key of the MSI-X table of a function. -/
def msixKey (h fn k : Nat) : Bool := decide (hostKey h fn 0x90000 ≤ k) && decide (k < hostKey h fn 0x98000)

/-- Steps 1 to 6 and 8 of R210 over the objects held by maps; the lists come from the state before. What configuration space
and the MSI-X table hold of the functions is reset with them (PRESUMED, log 22). -/
def Scope.erase (c : Scope) (qs cs ks : List Nat) (s : State) : State :=
  let h := c.h
  let s0 := s
  let s := updHost h (fun p => { p with
    jobs := p.jobs.filter (fun j => !c.jobGoes qs j)
    firedq := p.firedq.filter (fun j => !c.jobGoes qs j)
    firing := p.firing.filter (fun f => !c.fns f.fn)
    comps := p.comps.filter (fun x => !c.compGoes s0 qs x)
    waits := p.waits.filter (fun w => !c.clientGoes s0 qs cs w.client)
    pageReqs := p.pageReqs.filter (fun r => !c.fns r.fn)
    pageWait := p.pageWait.filter (fun r => !c.fns r.fn)
    slots := p.slots.filter (fun k => !ks.contains k)
    copies := p.copies.filter (fun x => !(jobOf s0 h x.job).any (c.jobGoes qs))
    bar4 := p.bar4.filter (fun e => !c.fns e.1)
    devCtl := p.devCtl.filter (fun e => !c.fns e.1)
    msixCtl := p.msixCtl.filter (fun e => !c.fns e.1) }) s
  let s := { s with
    ev.msixPend := s.ev.msixPend.filter (fun x => !(x / 2 ^ 19 == h && c.fns (x / 2 ^ 11 % 256)))
    hs := { s.hs with
      bar := s.hs.bar.filter (fun e => !(List.range 256).any (fun f => c.fns f && msixKey h f e.1))
      wqs := c.drop 20 (·.fn) s.hs.wqs
      cqs := c.drop 20 (·.fn) s.hs.cqs
      chans := c.drop 24 (·.fn) s.hs.chans
      regions := c.drop 24 (fun d => fAt d 0 16 8) s.hs.regions
      mrCache := c.drop 24 (fun d => fAt d 0 16 8) s.hs.mrCache
      evctrs := c.drop 16 (·.fn) s.hs.evctrs
      slots := s.hs.slots.filter (fun e => !(e.1 / 2 ^ 28 == h && c.fns (e.1 / 2 ^ 20 % 256)))
      posted := Maps.upd [] s.hs.posted h (fun l => l.filter (fun r => !c.fns r.fn))
      unexp := Maps.upd [] s.hs.unexp h (fun l => l.filter (fun u => !c.fns u.fn)) } }
  if c.all then
    updXl (boleOf h) (fun x => { x with cas := x.cas.filter (fun k => k.ctx / 2 ^ 14 != h) }) s
  else s

/-- An ENABLE bit that a cleanup clears. -/
def clearEnable (h off dflt : Nat) (bit : Word) (s : State) : State :=
  let k := hostKey h 0 off
  if barR s k dflt &&& bit = 0 then s else barSet k (barR s k dflt &&& ~~~bit) s

/-- Registers that a cleanup clears: TRN_CFG.ENABLE (R210), the pools' ENABLE (R314), both ring ENABLEs, with the replies that can
no longer be written (R414), and the
ENABLEs of queue 0 and CQ 0, which are ABSENT from here on (R212; DEDUCED, log 74). -/
def Scope.registers (c : Scope) (s : State) : State :=
  let h := c.h
  let s := (List.range 256).foldl (fun s fn =>
    let k := hostKey h fn 0x1C008
    if c.fns fn ∧ poolOn s h fn then barSet k (barR s k 0 &&& ~~~(0x20 : Word)) s else s) s
  if c.all ∨ c.pf then
    let s := clearEnable h 0x20008 0x100000 0x100 s
    let s := clearEnable h 0x10018 0x24 0x20000 (clearEnable h 0x10008 0x4 0x100 s)
    let lost := (ring s h).waiting.length
    if (ring s h).reqEn ∨ (ring s h).rplEn ∨ (ring s h).reading ∨ lost ≠ 0 then
      (List.range lost).foldl (fun s _ => ringErr 9 s)
        (updRing h (fun g => { g with reqEn := false, rplEn := false, reading := false, waiting := [] }) s)
    else s
  else s

/-- Cleanup of a host port, or of functions of it (R210, R211): no completion is written. -/
def cleanup (c : Scope) (s : State) : State :=
  let h := c.h
  let lost := c.owed s
  let qs := c.queues s
  let cs := (s.hs.chans.filter (fun e => e.1 / 2 ^ 24 == h && c.fns e.2.fn)).map (fun e => e.1 % 2 ^ 24)
  let ks := c.slots s qs cs
  let dis := ((hport s h).waits.filter (fun w => c.clientGoes s qs cs w.client && holdsPayload s h w.client)).length
  let s := if dis = 0 then s else count (hptCtr h 4) dis s
  let s := if lost = 0 then s else qmgCause h 3 (count (hptCtr h 5) lost s)
  let s := (s.hs.binds.filter (fun e => e.1 / 1024 == h && c.fns e.2.fn)).foldl (fun s e => unbindIdx h (e.1 % 1024) true s) s
  let s := c.registers (c.erase qs cs ks s)
  let s := (s.hs.xctx.filter (fun e => e.1 / 2 ^ 12 == h && c.fns e.2.fn)).foldl (fun s e => dropCtx h (e.1 % 2 ^ 12) s) s
  endMrWaits h (resetMasters (boleOf h) (fun m => m / 256 == h % 2 && c.fns (m % 256)) s)

/-- Everything of a host port. -/
def wholePort (h : Nat) : Scope := { h := h, fns := fun _ => true, all := true, pf := true }
/-- One function, every function when it is the PF, or every VF. -/
def flrScope (h fn : Nat) (vfs : Bool) : Scope :=
  if vfs then { h := h, fns := fun f => f != 0, all := false, pf := false }
  else if fn = 0 then { h := h, fns := fun _ => true, all := false, pf := true }
  else { h := h, fns := fun f => f == fn, all := false, pf := false }

/-- A cleanup whose port holds nothing changes nothing; a port that is not UP has no objects. -/
def cleanPort (h : Nat) (s : State) : State := cleanup (wholePort h) s

/-! ### The state machine (R209) -/

/-- A port in NOT_READY enters UP once the engine domains of its Bole are ON. -/
def hostReady (h : Nat) (s : State) : State :=
  if (hport s h).st = .notReady ∧ (List.range 4).all (fun e => domOn s (dEng (boleOf h) e)) then
    let back := (hport s h).removed
    let s := updHost h (fun p => { p with st := .up, removed := false }) s
    if back then hptCause h 5 s else s
  else s

/-- The firmware has been verified since power-on: it has run (R391, R463). -/
def fwVerified (s : State) : Bool := s.mgmt.fw == .running || s.mgmt.fw == .restarting

/-- A port in RESET starts link training once PERST_N is deasserted and the firmware verified. -/
def hostStart (h : Nat) (s : State) : State :=
  if (hport s h).st = .reset ∧ !(hport s h).perst ∧ fwVerified s then updHost h (fun p => { p with st := .training }) s else s

/-- The link of a port is lost (R209): its causes, and cleanup. -/
def hostLose (h : Nat) (surprise : Bool) (s : State) : State :=
  let st := (hport s h).st
  if st ≠ .training ∧ st ≠ .notReady ∧ st ≠ .up then s else
  let s := if st = .training then s
           else hptCause h 0 (inc (hptCtr h 0) (updHost h (fun p => { p with removed := true }) s))
  let s := if surprise then hptCause h 4 (inc (hptCtr h 1) s) else s
  let s := cleanPort h s
  updHost h (fun p => { p with st := .cleanup, rate := 0, width := 0, numVfs := 0 }) s

/-- PERST_N is asserted (R209). With the clocks stopped only the pin changes (R460). -/
def perstLow (h : Nat) (s : State) : State :=
  let t := updHost h (fun p => { p with perst := true }) s
  if s.pw.stopped then t else hostLose h false t

def effPerstDeassert (h : Nat) (s : State) : State :=
  let t := updHost h (fun p => { p with perst := false }) s
  if s.pw.stopped then t else hostStart h t

/-- The link comes up (R178, R209): rate as HPT_STATUS gives it, and width in lanes. Without its host's reference clock a port's
PHY does not run (R459, R484). -/
def effHostLinkUp (h rate width : Nat) (s : State) : State :=
  if (hport s h).st ≠ .training ∨ width < 4 ∨ !s.pw.hostRefOk.getLsbD h then s else
  let s := updHost h (fun p => { p with st := .notReady, rate := BitVec.ofNat 4 rate, width := BitVec.ofNat 5 width }) s
  let s := if rate < 4 ∨ width < 16 then hptCause h 1 s else s
  hostReady h s

def effHostLinkDown (h : Nat) (hotReset : Bool) (s : State) : State := hostLose h (!hotReset && !(hport s h).perst) s

def effHostCleanupDone (h : Nat) (s : State) : State :=
  if (hport s h).st = .cleanup then
    updHost h (fun p => { p with st := if p.perst then .reset else .training }) s
  else s

/-- PD_Hn leaves ON (R209): cleanup at once. -/
def hostOff (h : Nat) (s : State) : State :=
  if (hport s h).st = .off then s
  else updHost h (fun p => { p with st := .off, rate := 0, width := 0, numVfs := 0 }) (cleanPort h s)

/-- Function Level Reset of a function, or the loss of VF Enable (R211). -/
def effFlr (h fn : Nat) (vfs : Bool) (s : State) : State :=
  if (hport s h).st ≠ .up then s
  else
    let s := cleanup (flrScope h fn vfs) (if vfs then s else inc (hptCtr h 2) s)
    if vfs ∨ fn = 0 then updHost h (fun p => { p with numVfs := 0 }) s else s

/-! ### Other requests on a link -/

/-- More than 64 correctable errors in one 1 ms window raise CORR (R213). -/
def effCorrectableError (h : Nat) (s : State) : State :=
  let p := hport s h
  if p.st ≠ .notReady ∧ p.st ≠ .up then s else
  let same := s.time.now < p.wCorrAt + 1000000 ∧ p.wCorr ≠ 0
  let n := if same then p.wCorr + 1 else 1
  let s := updHost h (fun p => { p with wCorr := n, wCorrAt := if same then p.wCorrAt else s.time.now }) s
  if n = 65 then hptCause h 2 s else s

/-- The identity of a port (R5, R23): Device ID and Vendor ID, class code and Revision ID; and the address bits and the type
of its Base Address registers (R181; PRESUMED: the layout is PCI Express's, log 132). Port 4 is HM. -/
def cfgFixed (port reg : Nat) : Option Word :=
  match reg with
  | 0x00 => some (if port < 4 then 0x0640E47A else 0x0648E47A)
  | 0x08 => some (if port < 4 then 0x02800002 else 0x08800002)
  | _ => none
/-- A Base Address register after all ones have been written to it. -/
def cfgSize (port reg : Nat) : Option Word :=
  match reg with
  | 0x10 => some (if port < 4 then 0xFFC00004 else 0xFFE00000)
  | 0x14 => if port < 4 then some 0xFFFFFFFF else none
  | 0x18 => if port < 4 then some 0xFC000004 else none
  | 0x1C => if port < 4 then some 0xFFFFFFFF else none
  | 0x20 => if port < 4 then some 0xFF80000C else none
  | 0x24 => if port < 4 then some 0xFFFFFFFF else none
  | _ => none

/-- Answers a read of configuration space; what the manual does not give is free. -/
def cfgAnswer (port fn reg : Nat) (v : Option Word) (s : State) : State :=
  emit (.cfgData port fn reg (v.getD (Config.cfgWord port fn reg s.out.length))) s

/-- MSI-X messages of a function whose masks have gone are sent (R208). -/
def msixRelease (h fn : Nat) (s : State) : State :=
  let go := s.ev.msixPend.filter (fun x => x / 2 ^ 11 == h * 256 + fn && !msixMasked s h fn (x % 2 ^ 11))
  if go = [] ∨ !(msixCtl s h fn).1 then s
  else go.reverse.foldl (fun s x => emit (.msix h fn (x % 2 ^ 11)) s)
    { s with ev.msixPend := s.ev.msixPend.filter (fun x => !go.contains x) }

/-- What a configuration request programs or reads. -/
def cfgWrite (h : Nat) (w : CfgWrite) (s : State) : State :=
  match w with
  | .other => s
  | .ordering fn r i => updHost h (fun p => { p with devCtl := Maps.put (true, false) p.devCtl fn (r, i) }) s
  | .msix fn e m => msixRelease h fn (updHost h (fun p => { p with msixCtl := Maps.put (false, false) p.msixCtl fn (e, m) }) s)
  | .read fn reg => cfgAnswer h fn reg (cfgFixed h reg) s
  | .sizing fn reg => cfgAnswer h fn reg (cfgSize h reg) s
  | .bar4 fn base => updHost h (fun p => { p with bar4 := Maps.put none p.bar4 fn base }) s
  | .vfs n =>
    let s := if n = 0 ∧ (hport s h).numVfs ≠ 0 then cleanup (flrScope h 0 true) s else s
    updHost h (fun p => { p with numVfs := min n 255 }) s

/-- The function that a configuration request addresses. -/
def cfgFn (w : CfgWrite) : Nat :=
  match w with
  | .other => 0
  | .bar4 f _ => f
  | .vfs _ => 0
  | .ordering f _ _ => f
  | .msix f _ _ => f
  | .read f _ => f
  | .sizing f _ => f

/-- A configuration request to a host port, or to the HM port (R23, R209): Retry Status before the port is ready; a function
that is absent answers Unsupported Request (PRESUMED, log 132). -/
def effConfigurationRequest (target : Option Nat) (w : CfgWrite) (s : State) : State :=
  match target with
  | some h =>
    if s.pw.stopped then s
    else if (hport s h).st = .notReady then emit (.pcie h 1) (inc (hptCtr h 6) s)
    else if (hport s h).st = .up then
      (if (hport s h).numVfs < cfgFn w then emit (.pcie h 2) s else emit (.pcie h 0) (cfgWrite h w s))
    else s
  | none =>
    if s.pw.hmPerst then s
    else if !s.pw.hmTrained then emit (.pcie 4 1) s
    else if cfgFn w ≠ 0 then emit (.pcie 4 2) s
    else match w with
      | .read fn reg => emit (.pcie 4 0) (cfgAnswer 4 fn reg (cfgFixed 4 reg) s)
      | .sizing fn reg => emit (.pcie 4 0) (cfgAnswer 4 fn reg (cfgSize 4 reg) s)
      | .other => emit (.pcie 4 0) s
      | .bar4 _ _ => emit (.pcie 4 0) s
      | .vfs _ => emit (.pcie 4 0) s
      | .ordering _ _ _ => emit (.pcie 4 0) s
      | .msix _ _ _ => emit (.pcie 4 0) s

/-- An AtomicOp request to the device (R179): its link is up in NOT_READY too (R209). -/
def effAtomicopRequest (h : Nat) (s : State) : State :=
  if (hport s h).st = .up ∨ (hport s h).st = .notReady then emit (.pcie h 2) s else s

end Sys2Proof.Machine
end

