-- ==== Sys2Proof/Machine/Power.lean ====
section
/-! DEFINITION. Power domains (R455 to R458, R461, R462), reset, boot and clocks (R459, R460, R463), supplies, sensors and
power (R464 to R466, R482). -/

namespace Sys2Proof.Machine

/-! ### Domains -/

/-- Registers, counters, causes and SAT bits of a domain return to their reset values; what is staged is kept (R498). An
event source whose block is reset has its default severities again (R439). -/
def resetRegs (d : Nat) (s : State) : State :=
  let stay (k : Nat) : Bool := keyDomain k != some d
  { s with
    stage.rws := Maps.keep stay s.stage.rws
    hs.bar := Maps.keep stay s.hs.bar
    ev := { s.ev with
      ctr := Maps.keep stay s.ev.ctr
      sat := s.ev.sat.filter stay
      cause := Maps.keep stay s.ev.cause
      recs := s.ev.recs.map (fun e =>
        if stay (causeReg e.1).1 then e
        else (e.1, e.2.map (fun r => { r with sev := (defaultRec e.1).sev, split := splitDef e.1 }))) } }

/-- The engine of an engine domain and its Bole. -/
def engOf (d : Nat) : Nat × Nat := ((d - 84) / 4, (d - 84) % 4)

/-- The arrays of a domain start from zero as it enters ON from OFF (R457, R461). -/
def resetArrays (d : Nat) (s : State) : State :=
  if d < 64 then
    let old := port s d
    let s := dropQueued (fun h => h.inp == d) (setPort d { gr := old.gr } s)
    eccWrite (fun e => e.1 == eccReplay d) { s with
      net := { s.net with
        outs := Maps.erase d s.net.outs, meters := Maps.erase (2 * d) (Maps.erase (2 * d + 1) s.net.meters)
        backlog := Maps.erase d s.net.backlog, backMax := Maps.erase d s.net.backMax } }
  else if d < 80 then
    let k := d - 64
    eccWrite (fun e => e.1 == eccRep k || e.1 == eccDt k) { s with
      stage.dt := Maps.keep (fun x => x % 2 ^ 20 / 4096 != k) s.stage.dt
      net.boughs := Maps.erase k s.net.boughs }
  else if d < 84 then
    let h := d - 80
    { s with ev.msixPend := s.ev.msixPend.filter (fun x => x / 2 ^ 19 != h) }
  else if d < 92 then
    let b := (engOf d).1
    if (engOf d).2 = 0 then
      [2 * b, 2 * b + 1].foldl (fun s h => updHost h (fun p => { p with
        lost := false, postSeq := 0, relSeq := 0, slots := [], copies := [] }) s) s
    else if (engOf d).2 = 2 then
      { s with hs.xl := Maps.upd {} s.hs.xl b (fun x => { tlb := x.tlb, walks := x.walks }) }
    else s
  else if d < 94 then
    let b := d - 92
    eccWrite (fun e => (e.1 == eccMr && boleOf (e.2 / 2 ^ 24) == b) || eccOfBole b e.1) { s with
      hs.xl := Maps.upd {} s.hs.xl b (fun x => { x with tlb := [], walks := [] })
      hs.mrCache := Maps.keep (fun k => boleOf (k / 2 ^ 24) != b) s.hs.mrCache }
  else if d = dHbm then { s with stage.bulk := [], net.hist := [] }
  else s

/-- What a domain that reaches OFF loses at once (R24, R153, R372, R498): a network port the packets of its input pool. -/
def domainOff (d : Nat) (s : State) : State :=
  if d < 64 then dropQueued (fun h => h.inp == d) (updPort d (fun p => { p with rp := { p.rp with rx := [] } }) s)
  else if d = dMem 0 ∨ d = dMem 1 then
    let b := d - 92
    let other {α : Type} (m : TMap α) : TMap α := m.filter (fun e => e.1 / 2 ^ 15 != b)
    { scratchOff b s with
      stage := { s.stage with resv := other s.stage.resv, resvStaged := other s.stage.resvStaged } }
  else s

/-- A domain has entered ON: its arrays and registers after OFF, and the part that it takes again. A Bough's return from OFF has
refreshed its replica (R101), but for the first entry, at boot (DESIGN CHOICE, log 125); else a replica that is behind begins
its refresh. -/
def domainOn (d : Nat) (wasOff : Bool) (s : State) : State :=
  let s := if wasOff then resetRegs d (resetArrays d s) else s
  if 64 ≤ d ∧ d < 80 then
    let k := d - 64
    if wasOff then (if s.mgmt.fw = .boot then s else refreshed k s)
    else { s with net.boughs := Maps.upd {} s.net.boughs k (fun b => { b with refreshing := b.stale && !fenced s (uBough k) }) }
  else if 80 ≤ d ∧ d < 84 then
    let h := d - 80
    hostStart h (updHost h (fun p => if p.st = .off then { p with st := .reset } else p) s)
  else s

/-- The die-to-die modules of a Bole stop: they train at the next entry of PD_Ex_QUEUE into ON (R15), and nothing is in flight on
them. -/
def d2dDown (b : Nat) (s : State) : State :=
  { s with
    net.d2d := (List.range 3).foldl (fun m i => Maps.upd {} m (3 * b + i) (fun x => { x with up := false })) s.net.d2d
    cross := { carried := Maps.keep (fun m => m / 3 != b) s.cross.carried, moving := Maps.keep (fun m => m / 3 != b) s.cross.moving,
               held := s.cross.held.filter (fun x => x.1 != b) } }

/-- The units of a domain stop at the start of its transition out of ON to `t` (R456, R457). The first engine domain of a
Bole to go OFF is a Bole reset (R372, R458). -/
def leaveOn (d : Nat) (t : PState) (s : State) : State :=
  if d < 64 then uncredit d (updPort d (fun p => { p with cr := {} }) s)
  else if d < 80 then { s with net.boughs := Maps.upd {} s.net.boughs (d - 64) (fun b => { b with refreshing := false }) }
  else if 80 ≤ d ∧ d < 84 then hostOff (d - 80) s
  else if 84 ≤ d ∧ d < 92 then
    let s := if t = .off then resetMasters (engOf d).1 (fun _ => true) s else s
    if (engOf d).2 = 3 then d2dDown (engOf d).1 s else s
  else s

/-- Starts a transition (R456). PD_HBM first lets spilled cells be acknowledged (R68). -/
def startTransition (d : Nat) (t : PState) (s : State) : State :=
  let on := (domain s d).st = .on
  let s := updDom d (fun x => { x with target := some t }) s
  let s := if on ∧ t ≠ .on then leaveOn d t s else s
  if d = dHbm ∧ on then
    let s := updDom d (fun x => { x with held := true }) s
    let s := (s.net.ports.map (·.1)).foldl (fun s n => if (port s n).spill then refreshSpill n s else s) s
    endHeld s
  else s

/-- PWR_SET names domain `d`. -/
def pwrCmd (d : Nat) (r : GcpReq) : Bool := opcodeOf r == 0x400 && fAt r.words 5 0 7 == d

/-- A transition completes, reinitialisation included (R456). -/
def effPowerTransitionDone (d : Nat) (s : State) : State :=
  let x := domain s d
  match x.target with
  | none => s
  | some t =>
    if x.held then s else
    let s := updDom d (fun x => { x with st := t, target := none, wasOff := (x.wasOff || t == .off) && t != .on }) s
    let s := if t = .on then domainOn d x.wasOff s else if t = .off then domainOff d s else s
    endCmds (pwrCmd d) stOk 0 0 [] s

/-- A transition is not complete in time (R456): the domain stays in its previous state. -/
def effPowerTransitionTimeout (d : Nat) (s : State) : State :=
  let x := domain s d
  match x.target with
  | none => s
  | some t =>
    if x.held then s else
    let s := updDom d (fun x => { x with target := none }) s
    let s := if x.st = .on then domainOn d false s else s
    let s := raise 348 1 { s with pw.lastFail := pack [(0, 7, d), (8, 2, t.code)] }
    endCmds (pwrCmd d) stTimedOut 0 0 [] s

/-- The domains on which a domain depends (R39). -/
def dependsOn (d : Nat) : Option Nat :=
  if d < 64 then some (dBough (d / 4))
  else if 80 ≤ d ∧ d < 84 then some (dEng ((d - 80) / 2) 3)
  else if 84 ≤ d ∧ d < 92 then some (dMem (engOf d).1)
  else none

/-- A transition of `d` to `t` would break R39: some dependent would stand above what it depends on. -/
def breaksDeps (s : State) (d : Nat) (t : PState) : Bool :=
  let lo := min (domain s d).st.code t.code
  let hi := max (domain s d).st.code t.code
  (match dependsOn d with
   | some y => decide (domLow s y < hi)
   | none => false)
    || (List.range 96).any (fun x => dependsOn x == some d && decide (lo < domHigh s x))

/-- An engine domain of a Bole may leave ON only when neither host port domain of it is ON (R456). -/
def engineNeeded (s : State) (d : Nat) (t : PState) : Bool :=
  decide (84 ≤ d ∧ d < 92) && (domain s d).st == .on && t != .on
    && [0, 1].any (fun j => domHigh s (dHost (2 * (engOf d).1 + j)) == 3)

/-- PWR_SET (R412, R456). -/
def effPwrSet (r : GcpReq) (s : State) : State :=
  gcp .none false r (fun s =>
    let d := fAt r.words 5 0 7
    let t := PState.ofCode (fAt r.words 5 8 2)
    if 96 ≤ d then fail r stBadParam s
    else if (domain s d).target.isSome then fail r stBusy s
    else if t = (domain s d).st then ok r [] s
    else if breaksDeps s d t ∨ engineNeeded s d t then fail r stNotPermitted s
    else
      let port := d < 64 ∧ (domain s d).st = .on ∧ (port s d).st ≠ .disabled ∧ (port s d).st ≠ .fenced
      let s := if port then disablePort d s else s
      hold r (startTransition d t s)) s

/-- Word `w` of PWR_STATE (R473). -/
def pwrState (s : State) (w : Nat) : Word :=
  w32 (sumN ((List.range 16).map (fun i => (domain s (16 * w + i)).st.code * 4 ^ i)))

def effPwrGet (r : GcpReq) (s : State) : State :=
  gcp .none false r (fun s => ok r ((List.range 6).map (pwrState s)) s) s

/-! ### Reset and boot -/

/-- Power-on reset (R461): everything but the fuses, the NOR, the grade, the levels at the PERST_N pins, and the counters of
the free values, so that a challenge after it is a new one (R392); SPI_RESET_N pulses (R488). -/
def effPor (s : State) : State :=
  emit .spiReset { State.reset with
    pending := s.pending, out := s.out, grade425 := s.grade425, nor := s.nor
    heart := { State.reset.heart with
      minSvn := s.heart.minSvn, eraseCount := s.heart.eraseCount, challenges := s.heart.challenges, responses := s.heart.responses }
    pw := { State.reset.pw with hmPerst := s.pw.hmPerst }
    hs := { State.reset.hs with
      ports := (List.range 4).foldl (fun m h => Maps.put {} m h { perst := (hport s h).perst }) [] } }

/-- Step 2 of the boot (R463): the always-on island runs from REFCLK / 2, the straps are sampled, and Taproot starts.
The Heartwood derives its keys from the device secret (R393; DESIGN CHOICE: at this step, log 145). -/
def effBoot (roleSel : Nat) (testMode : Bool) (i3cAddr : Nat) (s : State) : State :=
  if s.mgmt.fw ≠ .boot ∨ s.pw.refOk ∨ s.pw.stopped then s else
  { s with
    heart := { s.heart with
      idKey := some (Config.deriveIdentity Config.deviceSecret), wrapKey := some (Config.deriveWrapping Config.deviceSecret) }
    pw := { s.pw with
      refOk := true, hmRefOk := true, hostRefOk := 0xF, roleSel := roleSel % 4, testMode := testMode, i3cStrap := i3cAddr % 8 } }

/-- The domains that a role has ON at reset (R458). -/
def roleOn (role d : Nat) : Bool :=
  if d = 95 then false
  else if d < 80 ∨ d = dHbm then true
  else if role = 0 then true
  else if role = 3 then false
  else
    let b := if d < 84 then (d - 80) / 2 else if d < 92 then (d - 84) / 4 else d - 92
    b == role - 1

/-- Step 3: Taproot is locked, its clocks run, and the strap-selected domains start their transitions to ON (R459, R463). -/
def effTaprootLocked (s : State) : State :=
  if !s.pw.refOk ∨ s.pw.tapLock ∨ s.pw.stopped then s else
  (List.range 96).foldl (fun s d => if roleOn s.pw.roleSel d then updDom d (fun x => { x with target := some .on }) s else s)
    { s with pw.tapLock := true }

/-- The firmware runs and reports healthy, or the boot ROM answers in recovery (R391, R448, R463): host ports and the HM
port train. -/
def firmwareUp (s : State) : State :=
  let s := { s with pw.hmTrained := !s.pw.hmPerst && s.pw.hmRefOk }
  if s.mgmt.fw = .running then
    let s := { s with ev := { s.ev with wdogOk := true, hbOk := true } }
    (List.range 4).foldl (fun s h => hostStart h s) (if s.ev.stopped = [] then startAlive s else stopAlive s)
  else stopAlive { s with ev.hbOk := false }

/-- The HM port trains once HM_PERST_N is high and the firmware verified, by its own reference clock (R23). -/
def hmTrain (s : State) : State :=
  { s with pw.hmTrained := !s.pw.hmPerst && s.mgmt.fw != .boot && s.pw.hmRefOk }

/-- HM_PERST_N is released (R23). -/
def effHmPerstDeassert (s : State) : State := hmTrain { s with pw.hmPerst := false }

/-- The HM port is reset (R486): what its function holds is reset with it, and replies that wait are lost (PRESUMED, log 144). -/
def hmReset (s : State) : State :=
  let lost := (ring s 4).waiting.length
  let s := { s with
    pw.hmTrained := false
    mgmt.rings := Maps.erase 4 s.mgmt.rings
    hs.bar := s.hs.bar.filter (fun e => !msixKey 4 0 e.1)
    hs.ports := Maps.erase 4 s.hs.ports
    ev.msixPend := s.ev.msixPend.filter (fun x => x / 2 ^ 19 != 4) }
  (List.range lost).foldl (fun s _ => ringErr 9 s) s

/-- A PERST_N pin goes low: a host port's, or HM_PERST_N (R209, R486). -/
def effPerstAssert (h : Nat) (s : State) : State :=
  if h < 4 then perstLow h s else hmReset { s with pw.hmPerst := true }

/-! ### Clocks and supplies -/

/-- REFCLK is absent (R460): the clocks that derive from it stop until power-on reset. -/
def refclkStops (s : State) : State :=
  if !s.pw.refOk then s
  else raise 339 1 { s with pw := { s.pw with refOk := false, tapLock := false, stopped := true, onOsc := true } }

/-- A reference clock is absent for 1 µs, or is back (R460, R484): of REFCLK the loss counts, and it is not restarted; HM_REFCLK
and the hosts' show in CLK_STATUS, and the HM port trains by its own (DESIGN CHOICE, log 144). -/
def effRefclkLoss (c : RefClock) (back : Bool) (s : State) : State :=
  match c with
  | .refclk => if back then s else refclkStops s
  | .hm =>
    let s := { s with pw.hmRefOk := back }
    if back then hmTrain s else { s with pw.hmTrained := false }
  | .host h =>
    if 4 ≤ h then s
    else { s with pw.hostRefOk := if back then s.pw.hostRefOk ||| BitVec.ofNat 4 (2 ^ h) else s.pw.hostRefOk &&& ~~~BitVec.ofNat 4 (2 ^ h) }

/-- Taproot loses lock (R460). -/
def effTaprootUnlock (s : State) : State :=
  if !s.pw.tapLock ∨ s.pw.stopped then s
  else raise 340 1 { s with pw := { s.pw with tapLock := false, stopped := true } }

def effBolePllUnlock (b : Nat) (s : State) : State :=
  if s.pw.stopped ∨ !s.pw.pllLock.getLsbD b then s
  else raise (341 + b) 1 { s with pw.pllLock := s.pw.pllLock &&& ~~~(BitVec.ofNat 2 (2 ^ b)) }

/-- A Bole's PLL locks to the TCLK copy, at boot or by itself later (R460, R463). -/
def effBolePllRelock (b : Nat) (s : State) : State :=
  if s.pw.stopped ∨ !s.pw.tapLock ∨ 2 ≤ b then s
  else { s with pw.pllLock := s.pw.pllLock ||| BitVec.ofNat 2 (2 ^ b) }

/-- Some domain of a Bole is not OFF: its supply monitor acts (R481). -/
def boleUsed (s : State) (b : Nat) : Bool :=
  (dMem b :: (List.range 4).map (dEng b)).any (fun d => (domain s d).st != .off || (domain s d).target.isSome)

/-- A brief excursion of a supply that has a detector (R482): VOLT_GLITCH. The monitor of a Bole's supply acts while some domain of
the Bole is not OFF (R481). -/
def effVoltGlitch (x : Supply) (s : State) : State :=
  match x with
  | .core => alarm 2 s
  | .aon => alarm 2 s
  | .e0 => if boleUsed s 0 then alarm 2 s else s
  | .e1 => if boleUsed s 1 then alarm 2 s else s
  | .netSerdes => s
  | .hbm => s

/-- A supply stays outside its sustained limit (R482). -/
def effSupplyFault (x : Supply) (s : State) : State :=
  match x with
  | .core => raise 343 1 s
  | .netSerdes => raise 344 1 s
  | .e0 => if boleUsed s 0 then raise 345 1 s else s
  | .e1 => if boleUsed s 1 then raise 346 1 s else s
  | .hbm => raise 347 1 s
  | .aon => effPor s

/-! ### Temperature and power (R464 to R466) -/

/-- A reading is left out of the limits. -/
def sensorBad (t : Option Int) : Bool :=
  match t with
  | none => true
  | some x => decide (x < -40) || decide (150 < x)

/-- PWR_TEMP_s for a reading; a sensor that does not answer keeps its last figure. -/
def tempWord (old : Word) (t : Option Int) : Word :=
  let c := match t with
    | some x => (BitVec.ofInt 9 (max (-256) (min 255 x))).toNat
    | none => fld old 0 9
  pack [(0, 9, c), (9, 1, b2n (sensorBad t))]

/-- The highest valid reading and its sensor; ties go to the lower one. -/
def hottest (ts : List (Option Int)) : Option (Int × Nat) :=
  (List.range 16).foldl (fun a i =>
    let t := (ts[i]?).getD none
    match t, a with
    | some x, some (y, _) => if !sensorBad t ∧ y < x then some (x, i) else a
    | some x, none => if sensorBad t then none else some (x, i)
    | none, _ => a) none

/-- The thermal trip (R465). -/
def thermalTrip (s : State) : State :=
  raise 337 1 { s with pw := { s.pw with tripped := true, stopped := true } }

/-- A valid reading lies outside the range of TEMP_EXTREME (R395). -/
def tooExtreme (w : Word) : Bool := !bitW w 9 && (decide (sext 9 w.toNat < -25) || decide (125 < sext 9 w.toNat))

/-- Readings of the sensors (R464). TEMP_EXTREME is raised by the sample at which the condition begins (DESIGN CHOICE, log 145). -/
def effSensorSample (ts : List (Option Int)) (s : State) : State :=
  let at' (i : Nat) : Option Int := (ts[i]?).getD none
  let was := s.pw.temps.any (fun e => tooExtreme e.2)
  let temps := (List.range 16).foldl (fun m i => Maps.put 0 m i (tempWord (Maps.get 0 m i) (at' i))) s.pw.temps
  let top := hottest ts
  let s := { s with
    pw := { s.pw with
      temps := temps
      tempMax := match top with
        | some (x, i) => pack [(0, 9, (BitVec.ofInt 9 x).toNat), (9, 4, i)]
        | none => s.pw.tempMax } }
  let s := if (List.range 16).any (fun i => sensorBad (at' i)) then raise 338 1 s else s
  let s := if !was ∧ s.pw.temps.any (fun e => tooExtreme e.2) then alarm 4 s else s
  let warn : Int := (rwsF s 0x07000034 10 8 : Nat)
  match top with
  | some (x, _) =>
    let s := if warn ≤ x then raise 336 1 s else s
    if 115 ≤ x ∧ !s.pw.tripped then thermalTrip s else s
  | none => s

def effPowerEstimate (watts : Nat) (s : State) : State :=
  let w := min watts 1023
  let s := { s with pw.est := w }
  if rwsF s 0x07000034 0 10 ≤ w then raise 349 1 s else s

/-! ### Die-to-die modules and HBM (R15, R19, R25, R26) -/

/-- Source of a module's event `k` (R19). -/
def d2dSrc (m k : Nat) : Nat := 448 + 4 * m + k
/-- PD_Ex_QUEUE of a module's Bole is ON, or is on its way there. -/
def d2dPowered (s : State) (m : Nat) : Bool :=
  let x := domain s (dEng (m / 3) 3)
  decide (m < 6) && (x.st == .on || x.target == some .on)

def effD2dTrainDone (m : Nat) (repaired : Bool) (s : State) : State :=
  if !d2dPowered s m ∨ (d2dOf s m).up ∨ fenced s (uD2d m) then s else
  let s := updD2d m (fun x => { x with up := true }) s
  if repaired then raise (d2dSrc m 1) 1 s else s

/-- The identifiers that a module has carried wait until their crossings are over (R17). -/
def fenceModule (m : Nat) (s : State) : State :=
  let ids := Maps.get [] s.cross.carried m
  { s with cross := { s.cross with
      carried := Maps.put [] s.cross.carried m []
      moving := Maps.upd [] s.cross.moving m (fun l => l ++ ids.filter (fun i => !l.contains i)) } }

/-- A module leaves the set that carries its Bole's traffic: its identifiers move (R17), the Bole runs on fewer than three, and
perhaps on none (R19). -/
def moduleOut (m : Nat) (s : State) : State :=
  let b := m / 3
  let s := raise (472 + b) 1 (fenceModule m (updD2d m (fun x => { x with up := false }) s))
  if boleLinked s b then s else raise (474 + b) 1 s

/-- Retraining failed or retry was exhausted (R19): the default reaction fences the module, and whatever the reaction it carries
nothing until it has trained. -/
def effD2dModuleDown (m : Nat) (s : State) : State :=
  if !d2dPowered s m then s
  else
    let was := (d2dOf s m).up
    let s := raise (d2dSrc m 2) 1 s
    if was then moduleOut m s else s

def effAdapterProtocolError (m : Nat) (s : State) : State := if d2dPowered s m then raise (d2dSrc m 3) 1 s else s

/-- A link-level retry: more than RETRY_THRESH in one 1 ms window raise the module's source (R19). A window begins at the first
retry after the last one has ended (DESIGN CHOICE, log 26). -/
def effD2dRetry (m : Nat) (s : State) : State :=
  if !d2dPowered s m then s else
  let x := d2dOf s m
  let same := s.time.now < x.winAt + 1000000 ∧ x.retries ≠ 0
  let n := if same then x.retries + 1 else 1
  let s := updD2d m (fun x => { x with retries := n, winAt := if same then x.winAt else s.time.now }) s
  if n = Config.retryThresh + 1 then raise (d2dSrc m 0) 1 s else s

/-- An uncorrectable HBM error (R26): what it strikes is unreadable (R67, R294). -/
def effHbmEccUncorr (c : Nat) (v : HbmVictim) (s : State) : State :=
  if !hbmOk s ∨ 32 ≤ c then s else
  let s := raise (480 + c) 1 s
  match v with
  | .nothing => s
  | .spilled n => if hasSpilled s n then spillLost n s else s
  | .tier h => if (unexpAt s h).any (·.tier) then matchLost h s else s

end Sys2Proof.Machine
end

