-- ==== Sys2Proof/Machine/View.lean ====
section
/-! DEFINITION. What every register of router space reads as (R12, and the register tables of each chapter). -/

namespace Sys2Proof.Machine

/-- Word `w` of a 64-bit or wider value. -/
def wordOf (v w : Nat) : Word := w32 (v >>> (32 * w))

/-- ASD_STATUS.DEGRADED of an output (R172). -/
def degraded (s : State) (o : Nat) : Bool :=
  rws s (asdBase o) != 0
    && (if o < 64 then
          let p := port s o
          p.st != .up || fenced s o || decide (p.width.toNat < rwsF s (prtBase o) 0 2) || p.rate != (rwsF s (prtBase o) 2 1 == 1)
        else decide (o < 68) && !nUsable s (o - 64))

/-- MGC_STATUS with `n` commands in execution (R434). -/
def mgcWord (s : State) (n : Nat) : Word :=
  let fw := match s.mgmt.fw with | .boot => 0 | .running => 1 | .recovery => 2 | .restarting => 3
  pack [(0, 2, fw), (8, 7, min 64 n)]

/-- MGC_STATUS as a command answers it: CMDS_ACTIVE counts the command that asks (R434). -/
def mgcStatus (s : State) : Word := mgcWord s (s.mgmt.cmds.length + 1)

/-- HWD_STATUS (R402). -/
def hwdStatus (s : State) : Word :=
  let h := s.heart
  pack [(0, 4, h.sessions), (4, 1, b2n h.deriveBlocked), (5, 1, b2n h.policyLock), (6, 1, b2n h.debugOpen),
    (7, 1, b2n h.unlockBlocked), (8, 6, h.eraseCount), (14, 1, b2n h.fwSlot), (16, 6, h.fwSvn), (24, 6, h.minSvn)]

/-- VALID bits of 16 ports' link-key slots (R402). -/
def keyValid (s : State) (dir w : Nat) : Word :=
  w32 (sumN ((List.range 32).map (fun i => if (linkKey s (16 * w + i / 2) dir (i % 2)).valid then 2 ^ i else 0)))

/-- FLT_PINS (R453). -/
def fltPins (s : State) : Word :=
  pack [(0, 1, b2n s.ev.latch), (1, 1, b2n s.ev.faultLow), (2, 1, b2n s.ev.alive), (3, 1, b2n s.ev.wdogOk),
    (4, 1, b2n s.ev.hbOk), (5, 1, b2n s.ev.testOpen)]

/-- CLK_STATUS (R473). -/
def clkStatus (s : State) : Word :=
  pack [(0, 1, b2n s.pw.refOk), (1, 1, b2n s.pw.tapLock), (2, 2, s.pw.pllLock.toNat), (4, 1, b2n s.pw.hmRefOk),
    (5, 4, s.pw.hostRefOk.toNat), (9, 1, b2n s.pw.onOsc)]

/-- A cause register or a half of a statistics counter. -/
def plainReg (s : State) (a : Nat) : Word :=
  match Maps.find? s.ev.cause a with
  | some w => w
  | none => wordOf (Maps.get 0 s.ev.ctr (a - a % 8)).toNat (a % 8 / 4)

/-- 32 ports' bits that `p` picks. -/
def portBits (p : Nat → Bool) (w : Nat) : Word :=
  w32 (sumN ((List.range 32).map (fun i => if p (32 * w + i) then 2 ^ i else 0)))

/-- CNP_ registers that are not RWS (R118, R150, R473). -/
def viewCnp (s : State) (a : Nat) : Word :=
  if a = 0x130 then cnpEpoch s
  else if a = 0x134 then s.stage.epoch
  else if a = 0x1A0 ∨ a = 0x1A4 then portBits (fun n => (port s n).gr.quar) ((a - 0x1A0) / 4)
  else if a = 0x1A8 ∨ a = 0x1AC then portBits (fun n => (port s n).gr.draining) ((a - 0x1A8) / 4)
  else if a = 0x1B0 ∨ a = 0x1B4 then portBits (fun n => (port s n).gr.drained) ((a - 0x1B0) / 4)
  else if a = 0x404 then pack [(0, 19, s.net.histSlot), (31, 1, b2n s.net.wrapped)]
  else plainReg s a

def viewPrt (s : State) (a : Nat) : Word :=
  let o := a % 0x10000
  if 0x100 ≤ o ∧ o < 0x114 then wAt (portRegs s ((a - 0x01000000) / 0x10000)) ((o - 0x100) / 4) else plainReg s a

/-- BGH_ registers (R121). LOOKUP_BOUGH reads 0 while no replica is available (DESIGN CHOICE, log 126). -/
def viewBgh (s : State) (a : Nat) : Word :=
  let k := (a - 0x02000000) / 0x10000
  if a % 0x10000 = 0 then
    pack [(0, 1, b2n (lookupBough s k == some k)), (1, 1, b2n (Maps.get {} s.net.boughs k).refreshing),
      (2, 1, b2n (fenced s (uBough k))), (4, 4, (lookupBough s k).getD 0)]
  else plainReg s a

/-- CRN_CTX_STATUS and CRN_CTX_PROGRESS of a context (R349). -/
def ctxRegs (s : State) (i : Nat) : List Word :=
  let t := tree s i
  [pack [(0, 2, t.st), (4, 3, t.cause), (16, 16, t.opSeq.toNat)], pack [(0, 16, t.sent.length)]]

/-- SLOTS_USED of a Crown unit (R350). -/
def slotsUsed (s : State) (u : Nat) : Nat :=
  sumN (s.trees.map (fun e =>
    let x := treeEntry s e.1
    if e.2.st = 1 ∧ fAt x 0 17 2 = u then slotsOf x else 0))

def viewCrn (s : State) (a : Nat) : Word :=
  if 0x02210000 ≤ a ∧ a < 0x02214000 then
    wAt (ctxRegs s ((a - 0x02210000) / 0x10)) (a % 0x10 / 4)
  else if 0x02240000 ≤ a ∧ a < 0x02244000 ∧ a % 0x1000 = 0 then
    let u := (a - 0x02240000) / 0x1000
    pack [(0, 10, slotsUsed s u), (16, 1, b2n (fenced s (uCrown u)))]
  else plainReg s a

/-- ASD_ registers (R172). Causes that were recorded stay readable when a commit sets ASD_RATE to 0, which records no more (DESIGN
CHOICE, log 149). -/
def viewAsd (s : State) (a : Nat) : Word :=
  let o := (a - 0x04000000) / 0x40
  if a % 0x40 = 8 then w32 (b2n (degraded s o))
  else if a % 0x40 = 0x10 then w32 (Maps.get 0 s.net.backMax o)
  else plainReg s a

/-- SHP_ registers (R148): the credit in bits, cut toward zero, and C_A in Mb/s, cut down (DESIGN CHOICE, log 156). -/
def viewShp (s : State) (a : Nat) : Word :=
  let o := (a - 0x04200000) / 0x100
  if a % 0x100 = 0x10 then wInt (Int.tdiv (outp (restCredit o s) o).credit 256000)
  else if a % 0x100 = 0x14 then w32 (xRate s o * shareOf s o / 256)
  else plainReg s a

/-- TIM_ registers (R433). -/
def viewTim (s : State) (a : Nat) : Word :=
  let o := a - 0x05000000
  if o = 0x04 then timStatus s
  else if o = 0x08 then wordOf s.time.now 0
  else if o = 0x0C then wordOf s.time.now 1
  else if o = 0x10 then w32 (timeFrac s)
  else if o = 0x18 then s.time.lastOff
  else if o = 0x1C then wInt s.time.adj
  else if o = 0x20 then s.time.ppsErr
  else plainReg s a

/-- FLT_ registers (R453). -/
def viewFlt (s : State) (o : Nat) : Word :=
  if o < 0x2000 then wAt (recWords s (o / 0x10)) (o % 0x10 / 4)
  else if 0x4000 ≤ o ∧ o < 0x4010 then wordOf s.ev.own.toNat ((o - 0x4000) / 4)
  else if 0x4010 ≤ o ∧ o < 0x4020 then wordOf (fencedSet s).toNat ((o - 0x4010) / 4)
  else if o = 0x4020 then fltPins s
  else if 0x8000 ≤ o ∧ o < 0x8800 then satWord s (352 + (o - 0x8000) / 0x40) (o % 0x40 / 4)
  else 0

/-- PWR_ registers (R473). -/
def viewPwr (s : State) (o : Nat) : Word :=
  if o < 0x18 then pwrState s (o / 4)
  else if o = 0x20 then s.pw.lastFail
  else if o = 0x30 then w32 s.pw.est
  else if 0x40 ≤ o ∧ o < 0x80 then Maps.get 0 s.pw.temps ((o - 0x40) / 4)
  else if o = 0x80 then s.pw.tempMax
  else 0

/-- HWD_ registers (R402). -/
def viewHwd (s : State) (a : Nat) : Word :=
  let h := s.heart
  let o := a - 0x08000000
  if o = 0 then hwdStatus s
  else if o = 4 then w32 h.latch.toNat
  else if o = 8 then w32 h.policy.toNat
  else if o = 0xC then w32 h.thresh.toNat
  else if o = 0x10 then w32 h.lastAlarm.toNat
  else if o = 0x14 then w32 h.lastIde.toNat
  else if o = 0x18 ∨ o = 0x1C then wordOf h.lastTime ((o - 0x18) / 4)
  else if 0x20 ≤ o ∧ o < 0x30 then keyValid s 0 ((o - 0x20) / 4)
  else if 0x30 ≤ o ∧ o < 0x40 then keyValid s 1 ((o - 0x30) / 4)
  else plainReg s a

/-- MGC_ registers (R434). -/
def viewMgc (s : State) (a : Nat) : Word :=
  let o := a - 0x09000000
  if o = 0 then mgcWord s s.mgmt.cmds.length
  else if 0x100 ≤ o ∧ o < 0x140 then w32 (Maps.get eidNone s.mgmt.allow ((o - 0x100) / 4)).toNat
  else if o = 0x140 then w32 s.mgmt.eventEid.toNat
  else plainReg s a

/-- A word of router space that is neither RWS nor in a staging view. -/
def viewPlain (s : State) (a : Nat) : Word :=
  if a < 0x1000 then viewCnp s a
  else if 0x10000 ≤ a ∧ a < 0x12480 then
    let i := (a - 0x10000) / 32
    wAt (telWords s (i / 4) (i % 4)) (a % 32 / 4)
  else if a < 0x01000000 then 0
  else if a < 0x02000000 then (if a < 0x01400000 then viewPrt s a else 0)
  else if a < 0x02100000 then viewBgh s a
  else if a < 0x02200000 then plainReg s a
  else if a < 0x03000000 then viewCrn s a
  else if a < 0x04000000 then (bulkReadWord s a).getD 0
  else if a < 0x04100000 then (if a < asdBase 73 then viewAsd s a else 0)
  else if a < 0x04200000 then plainReg s a
  else if a < 0x04300000 then (if a < shpBase 73 then viewShp s a else 0)
  else if 0x05000000 ≤ a ∧ a < 0x06000000 then viewTim s a
  else if 0x06000000 ≤ a ∧ a < 0x07000000 then viewFlt s (a - 0x06000000)
  else if 0x07000000 ≤ a ∧ a < 0x07100000 then viewPwr s (a - 0x07000000)
  else if a = 0x07100000 then clkStatus s
  else if 0x08000000 ≤ a ∧ a < 0x09000000 then viewHwd s a
  else if 0x09000000 ≤ a ∧ a < 0x0A000000 then viewMgc s a
  else 0

/-- The block of an address belongs to a domain that is not ON: it reads as zero (R12). -/
def blockOff (s : State) (a : Nat) : Bool :=
  match keyDomain a with
  | some d => !domOn s d
  | none => false

/-- A word as the read-only mirror shows it (R12): active values. -/
def readActive (s : State) (a : Nat) : Word :=
  if blockOff s a then 0
  else match rwsInfo s.grade425 a with
    | some _ => rws s a
    | none => viewPlain s a

/-- A word as STAGE_READ answers it (R420, R498). -/
def readStaged (s : State) (a : Nat) : Word :=
  match stagedValue s a with
  | some w => w
  | none => if a = 0x09000000 then mgcStatus s else if blockOff s a then 0 else viewPlain s a

/-- STAGE_READ clears the RC fields that it reads (R420): ASD_BACKLOG_MAX. -/
def clearRc (as : List Nat) (s : State) : State :=
  as.foldl (fun s a =>
    if 0x04000000 ≤ a ∧ a < asdBase 73 ∧ a % 0x40 = 0x10 then
      { s with net.backMax := Maps.erase ((a - 0x04000000) / 0x40) s.net.backMax }
    else s) s

def effStageRead (r : GcpReq) (s : State) : State :=
  gcp .reads false r (fun s =>
    let a := (wAt r.words 5).toNat
    let n := lengthOf r
    if a % 4 ≠ 0 ∨ n % 4 ≠ 0 then fail r stBadParam s
    else
      let as := wordAddrs a (n / 4)
      okData r (as.map (readStaged s)) (clearRc as s)) s

/-- TREE_STATUS (R349, R410). -/
def effTreeStatus (r : GcpReq) (s : State) : State :=
  gcp .none false r (fun s => ok r (ctxRegs s (fAt r.words 5 0 10)) s) s

end Sys2Proof.Machine
end

