-- ==== Sys2Proof/Machine/Fault.lean ====
section
/-! DEFINITION. The commands of the fence and event group, factory fault injection, FAULT_N and the watchdogs (R441, R442,
R446, R448 to R450). -/

namespace Sys2Proof.Machine

/-- The host port whose ring carries a request. -/
def fromHost (r : GcpReq) : Option Nat :=
  match r.via with
  | .host h => some h
  | .hm => none
  | .i3c => none
  | .inband => none

/-- A host ring may configure or clear a source: one of its Bole or of its Bole's host ports (R442). -/
def hostMay (r : GcpReq) (n : Nat) : Bool :=
  match fromHost r with
  | none => true
  | some h =>
    let b := boleOf h
    (160 + 64 * b ≤ n && n < 224 + 64 * b) || (288 + 8 * b ≤ n && n < 296 + 8 * b)

def evSource (r : GcpReq) : Nat := fAt r.words 5 0 9

/-! ### Fences -/

def effFence (r : GcpReq) (s : State) : State :=
  gcp .none false r (fun s =>
    let u := fAt r.words 5 0 7
    if (fromHost r).isSome then fail r stNotPermitted s
    else if !unitOk u then fail r stBadParam s
    else ok r [] { s with ev.own := s.ev.own ||| BitVec.ofNat 128 (2 ^ u) }) s

/-- A source that keeps a unit fenced: its target is the unit, its severity FENCE or CONTAIN, and STATUS is 1 (R446). -/
def holdsFence (s : State) (u : Nat) : Bool :=
  (List.range 512).any (fun n => target n == u && decide (2 ≤ (recOf s n).sev) && statusOf s n)

def effUnfence (r : GcpReq) (s : State) : State :=
  gcp .none false r (fun s =>
    let u := fAt r.words 5 0 7
    if (fromHost r).isSome then fail r stNotPermitted s
    else if !unitOk u then fail r stBadParam s
    else if holdsFence s u then fail r stNotPermitted s
    else ok r [] { s with ev.own := s.ev.own &&& ~~~ BitVec.ofNat 128 (2 ^ u) }) s

/-! ### Configuration, reading and clearing -/

/-- The record that an EVENT_CFG asks for (R442). -/
def cfgRec (r : GcpReq) (n : Nat) (old : EvRec) : EvRec :=
  let d := bAt r.words 5 13
  { old with
    mask := bAt r.words 5 12, route := BitVec.ofNat 4 (fAt r.words 5 16 4)
    sev := if d then (defaultRec n).sev else fAt r.words 5 14 2
    split := d && splitDef n }

/-- Why an EVENT_CFG of a source is refused (R441). -/
def cfgRefusal (s : State) (n : Nat) (r : GcpReq) : Option Nat :=
  let old := recOf s n
  let new := cfgRec r n old
  if !bAt r.words 5 13 ∧ new.sev = 2 ∧ target n = 0x7F then some stBadParam
  else if n = 312 ∧ new ≠ old then some stNotPermitted
  else if n = 337 ∧ new.mask then some stNotPermitted
  else if 320 ≤ n ∧ n < 328 ∧ new.sev = 0 ∧ old.sev ≠ 0 ∧ 1 ≤ policyOf s (n - 320) then some stNotPermitted
  else none

def effEventCfg (r : GcpReq) (s : State) : State :=
  gcp .none false r (fun s =>
    let n := evSource r
    let pins := bAt r.words 5 31
    if (pins ∧ (fromHost r).isSome) ∨ (!pins ∧ !hostMay r n) then fail r stNotPermitted s
    else if pins then ok r [] { s with ev.latch := bAt r.words 6 0 }
    else if reservedSrc n then fail r stBadParam s
    else match cfgRefusal s n r with
      | some st => fail r st s
      | none => ok r [] (setRec n (cfgRec r n (recOf s n)) s)) s

def effEventRead (r : GcpReq) (s : State) : State :=
  gcp .none false r (fun s =>
    let n := evSource r
    ok r (recWords s n ++ [if reservedSrc n then 0 else causeRegister s n]) s) s

/-- ALIVE resumes once both watchdogs are healthy and every source that stopped it has STATUS 0 (R448). -/
def aliveDue (s : State) : Bool := !s.ev.alive && s.ev.wdogOk && s.ev.hbOk && !s.ev.stopped.any (statusOf s)
def resumeAlive (s : State) : State :=
  if aliveDue s then startAlive { s with ev.stopped := [] } else s

/-- Clears cause bits of a source; every SAT bit of a saturation source (R442). -/
def clearCause (n : Nat) (bits : Nat) (s : State) : State :=
  if 352 ≤ n ∧ n < 384 then { s with ev.sat := s.ev.sat.filter (fun k => satSrc k != n) }
  else
    let r := causeReg n
    { s with ev.cause := Maps.upd 0 s.ev.cause r.1 (fun w => w &&& ~~~ w32 (bits &&& r.2)) }

/-- Every sensor in use reads below TWARN_C - 3 (R464). -/
def coolEnough (s : State) : Bool :=
  let warn : Int := (rwsF s 0x07000034 10 8 : Nat)
  s.pw.temps.all (fun e => bitW e.2 9 || decide (sext 9 e.2.toNat < warn - 3))

/-- FAULT_N has been low for its 10 µs (R449): fabric time measures them while TCLK runs; where it does not, the command that
reports their end is taken at its word (DESIGN CHOICE, log 137). -/
def faultHeld (s : State) : Bool := s.pw.stopped || !s.pw.tapLock || decide (s.ev.faultAt + 10000 ≤ s.time.now)

def effEventClear (r : GcpReq) (s : State) : State :=
  gcp .none false r (fun s =>
    let n := evSource r
    let bits := (wAt r.words 6).toNat
    if !hostMay r n then fail r stNotPermitted s
    else if reservedSrc n then fail r stBadParam s
    else if n = 336 ∧ bits.testBit 0 ∧ !coolEnough s then fail r stNotPermitted s
    else
      let s := resumeAlive (clearCause n bits s)
      let s := if bAt r.words 5 16 ∧ faultHeld s then { s with ev.faultLow := false } else s
      ok r [] s) s

/-! ### Injection -/

/-- Sets cause bits of a source as the hardware would, marking its record (R450). -/
def injectCause (n bits : Nat) (s : State) : State :=
  if 352 ≤ n ∧ n < 384 then
    let ks := ((List.range 32).filter bits.testBit).filterMap (fun i => (satKeys n)[i]?)
    let new := ks.filter (fun k => !s.ev.sat.contains k)
    if new = [] then s else react 4 true n 0 { s with ev.sat := s.ev.sat ++ new }
  else
    let (s', f) := markCause n bits s
    if f = 0 then s' else react 4 true n f s'

def effFaultInject (r : GcpReq) (s : State) : State :=
  gcp .none false r (fun s =>
    let n := evSource r
    if !s.pw.testMode ∨ !s.ev.testOpen then fail r stNotPermitted s
    else if reservedSrc n then fail r stBadParam s
    else ok r [] (raise 313 2 (injectCause n (wAt r.words 6).toNat s))) s

/-! ### Pins and watchdogs -/

/-- 10 µs after the latest FENCE or CONTAIN reaction (R449). -/
def effFaultNRelease (s : State) : State :=
  if s.ev.latch ∨ !faultHeld s then s else { s with ev.faultLow := false }

/-- The controller restarts through the boot ROM (R430): commands that were taken get no reply, and what it keeps of
earlier ones is lost; SPI_RESET_N pulses (R488). -/
def restartController (s : State) : State :=
  emit .spiReset { s with
    mgmt := { s.mgmt with
      fw := .restarting, cmds := [], waitq := [], mseqs := [], maps := [], fwJob := .none }
    stage := { s.stage with checking := none, bulkJob := none }
    net.graft := { s.net.graft with quarCmd := none, drainCmd := none } }

/-- The hardware watchdog, or a restart that has not ended by 200 ms (R448). -/
def effHwWdogExpire (s : State) : State :=
  if s.mgmt.fw = .boot then s
  else restartController (raise 312 1 (stopAlive { s with ev.wdogOk := false }))

/-- The firmware's health check misses its deadline (R448). -/
def effFwHeartbeatMiss (s : State) : State :=
  if s.mgmt.fw ≠ .running then s
  else restartController (raise 312 2 (stopAlive { s with ev.hbOk := false }))

/-- The second sending of an event, 10 µs after the first (R418). -/
def effGcpEventRepeat (s : State) : State :=
  match s.mgmt.repeats with
  | (q, w) :: t => sendMgt s.mgmt.eventEid 0x52 q w [] { s with mgmt.repeats := t }
  | [] => s

end Sys2Proof.Machine
end

