-- ==== Sys2Proof/Machine/Graft.lean ====
section
/-! DEFINITION. Quarantine, admission, drain and removal of network ports (R467 to R472). -/

namespace Sys2Proof.Machine

/-- PORTS and T of a graft or prune command. -/
def gfPorts (r : GcpReq) : BitVec 64 := BitVec.ofNat 64 (u64 r.words 6)
def gfT (r : GcpReq) : Nat := u64 r.words 8

/-- The ports of a set, in order. -/
def portsIn (m : BitVec 64) : List Nat := (List.range 64).filter (inPorts m)
/-- The ports that `p` picks, as a set. -/
def portSet (p : Nat → Bool) : BitVec 64 := BitVec.ofNat 64 (sumN ((List.range 64).map (fun n => if p n then 2 ^ n else 0)))
/-- Words of a set of ports. -/
def setWords (m : BitVec 64) : List Word := w64 m.toNat

def updGraft (f : Graft → Graft) (s : State) : State := { s with net.graft := f s.net.graft }
def updGr (n : Nat) (f : PortGraft → PortGraft) (s : State) : State := updPort n (fun p => { p with gr := f p.gr }) s

/-- Why an instant T is refused (R468). -/
def badT (s : State) (t : Nat) : Option Nat :=
  if t = 0 then none
  else if t ≤ s.time.now then some stEpochPassed
  else if s.time.now + 2 ^ 34 < t then some stBadParam
  else none

/-! ### Graft -/

/-- Why a QUARANTINE is refused. -/
def quarRefusal (s : State) (ports : BitVec 64) (peers : List Word) : Option Nat :=
  if (portsIn ports).any (fun n => !domOn s (dPort n)) then some stNotPermitted
  else if (portsIn ports).any (fun n => (port s n).st != .disabled && (port s n).st != .failed) then some stNotPermitted
  else if peers.any (fun w => !inPorts ports (fld w 0 6)) then some stBadParam
  else none

def effGraftQuarantine (r : GcpReq) (s : State) : State :=
  gcp .writes true r (fun s =>
    let ports := gfPorts r
    let peers := dataOf r 10
    if lengthOf r % 4 ≠ 0 ∨ 256 < lengthOf r then fail r stBadParam s
    else match quarRefusal s ports peers with
      | some st => fail r st s
      | none =>
        let s := (List.range 64).foldl (fun s n => if (port s n).gr.mism then updGr n (fun g => { g with mism := false }) s else s) s
        let s := hold r (updGraft (fun g => { g with quarCmd := some { req := r, ports := ports, peers := peers } }) s)
        let s := (portsIn ports).foldl (fun s n => enterTraining n (updGr n (fun g => { g with quar := true }) s)) s
        quarDone s) s

def effGraftAdmit (r : GcpReq) (s : State) : State :=
  gcp .none true r (fun s =>
    let ports := gfPorts r
    let t := gfT r
    if (portsIn ports).any (fun n => !(port s n).gr.quar) then fail r stNotPermitted s
    else match badT s t with
      | some st => fail r st s
      | none =>
        if t = 0 then ok r [] (admitPorts ports s)
        else match s.net.graft.admission with
          | some (old, u) =>
            if u = t then ok r [] (updGraft (fun g => { g with admission := some (old ||| ports, t) }) s) else fail r stBusy s
          | none => ok r [] (updGraft (fun g => { g with admission := some (ports, t) }) s)) s

def effGraftAbort (r : GcpReq) (s : State) : State :=
  gcp .none true r (fun s =>
    let s := updGraft (fun g => { g with admission := none }) s
    ok r [] ((portsIn (gfPorts r)).foldl (fun s n =>
      if (port s n).gr.quar then updGr n (fun g => { g with quar := false }) (disablePort n s) else s) s)) s

/-- GRAFT_ADMIT_APPLY: the admission's T comes, and with it a swap of the same T (R468). -/
def effGraftAdmitApply (s : State) : State := swapIfDue s

def effGraftStatus (r : GcpReq) (s : State) : State :=
  gcp .none false r (fun s =>
    let quar := portSet (fun n => (port s n).gr.quar)
    let up := portSet (fun n => (port s n).gr.quar && (port s n).st == .up)
    let mism := portSet (fun n => (port s n).gr.mism)
    let a := s.net.graft.admission
    ok r (setWords quar ++ setWords up ++ setWords mism ++ [w32 (b2n a.isSome)]
      ++ w64 (match a with | some (_, t) => t | none => 0)) s) s

/-! ### Prune -/

/-- Every port of the DRAIN in progress is drained: OK (R471). -/
def drainCheck (s : State) : State :=
  match s.net.graft.drainCmd with
  | some (q, ports) =>
    if (portsIn ports).all (fun n => (port s n).gr.drained) then
      endCmds (fun r => r == q) stOk 0 0 [] (updGraft (fun g => { g with drainCmd := none }) s)
    else s
  | none => s

/-- From T, the ports of a DRAIN are draining. -/
def drainIfDue (s : State) : State :=
  match s.net.graft.drain with
  | some (ports, t) =>
    if t ≤ s.time.now then
      drainCheck ((portsIn ports).foldl (fun s n => updGr n (fun g => { g with draining := true }) s)
        (updGraft (fun g => { g with drain := none }) s))
    else s
  | none => s

def effPruneDrain (r : GcpReq) (s : State) : State :=
  gcp .none true r (fun s =>
    let ports := gfPorts r
    if (portsIn ports).any (fun n => (port s n).gr.quar) then fail r stNotPermitted s
    else match badT s (gfT r) with
      | some st => fail r st s
      | none => drainIfDue (hold r (updGraft (fun g => { g with drain := some (ports, gfT r), drainCmd := some (r, ports) }) s))) s

def effPruneDrainApply (s : State) : State := drainIfDue s

/-- The conditions of R471 for a draining port. -/
def isDrained (s : State) (n : Nat) : Bool :=
  let p := port s n
  let clear (h : Held) : Bool := clsOf h.pkt == 3
  (queuedAt s n).all clear && (match (outp s n).busy with | some h => clear h | none => true)
    && p.rp.window == [] && p.rp.txq == []
    && (match p.gr.lastData with | some t => decide (t + rwsF s 0x128 0 24 ≤ s.time.now) | none => true)

def effPortDrained (n : Nat) (s : State) : State :=
  if (port s n).gr.draining ∧ !(port s n).gr.drained ∧ isDrained s n then
    drainCheck (updGr n (fun g => { g with drained := true }) s)
  else s

/-- A DRAIN has not finished in 100 ms: its ports stay draining (R471). -/
def effPruneDrainTimeout (s : State) : State :=
  match s.net.graft.drainCmd, s.net.graft.drain with
  | some (q, ports), none =>
    let n := ((portsIn ports).find? (fun n => !(port s n).gr.drained)).getD 0
    endCmds (fun r => r == q) stTimedOut 0 n [] (updGraft (fun g => { g with drainCmd := none }) s)
  | _, _ => s

/-- PRUNE_START phase REMOVE. -/
def isRemove (r : GcpReq) : Bool := opcodeOf r == 0xD02 && fAt r.words 5 0 2 == 2

/-- At T, the ports of a REMOVE are disabled. -/
def removeIfDue (s : State) : State :=
  match s.net.graft.remove with
  | some (ports, t) =>
    if t ≤ s.time.now then
      let s := updGraft (fun g => { g with remove := none }) s
      let s := (portsIn ports).foldl (fun s n =>
        updGr n (fun g => { g with draining := false, drained := false }) (disablePort n s)) s
      endCmds isRemove stOk 0 0 [] s
    else s
  | none => s

def effPruneRemove (r : GcpReq) (s : State) : State :=
  gcp .none true r (fun s =>
    let ports := gfPorts r
    if (portsIn ports).any (fun n => !(port s n).gr.drained) then fail r stNotPermitted s
    else match badT s (gfT r) with
      | some st => fail r st s
      | none => removeIfDue (hold r (updGraft (fun g => { g with remove := some (ports, gfT r) }) s))) s

def effPruneRemoveApply (s : State) : State := removeIfDue s

/-- PRUNE_START phase ABORT: the named ports return to normal use, so a drain or removal that is still to come leaves
them out. -/
def effPruneAbort (r : GcpReq) (s : State) : State :=
  gcp .none true r (fun s =>
    let ports := gfPorts r
    let out (x : Option (BitVec 64 × Nat)) : Option (BitVec 64 × Nat) := x.map (fun p => (p.1 &&& ~~~ports, p.2))
    let s := updGraft (fun g => { g with drain := out g.drain, remove := out g.remove }) s
    ok r [] ((portsIn ports).foldl (fun s n =>
      if (port s n).gr.draining ∨ (port s n).gr.drained then
        updGr n (fun g => { g with draining := false, drained := false }) s
      else s) s)) s

def effPruneStatus (r : GcpReq) (s : State) : State :=
  gcp .none false r (fun s =>
    let x := s.net.graft.remove
    ok r (setWords (portSet (fun n => (port s n).gr.draining)) ++ setWords (portSet (fun n => (port s n).gr.drained))
      ++ [w32 (b2n x.isSome)] ++ w64 (match x with | some (_, t) => t | none => 0)) s) s

end Sys2Proof.Machine
end

