-- ==== Sys2Proof/Machine/Mgmt.lean ====
section
/-! DEFINITION. The controller's own commands, SPDM_MSG, firmware update, telemetry reads and lock groups (R368, R410, R413,
R417, R418, R429 to R431, R434). -/

namespace Sys2Proof.Machine

/-! ### Identity and destinations -/

def effGetIdentity (r : GcpReq) (s : State) : State :=
  gcp .none false r (fun s =>
    ok r ([pack [(0, 1, b2n !s.grade425), (8, 8, 2)], w32 (nodeEid s).toNat,
      pack [(0, 6, s.heart.fwSvn), (8, 1, b2n s.heart.fwSlot)]] ++ w64 s.heart.buildId.toNat ++ [mgcStatus s]) s) s

def effGetStatus (r : GcpReq) (s : State) : State :=
  gcp .none false r (fun s =>
    ok r [mgcStatus s, timStatus s, cnpEpoch s, w32 s.heart.latch.toNat, hwdStatus s] s) s

def effEcho (r : GcpReq) (s : State) : State :=
  gcp .none false r (fun s => ok r ((List.range 11).map (fun i => wAt r.words (5 + i))) s) s

def allowed (s : State) (i : Nat) : Eid := Maps.get eidNone s.mgmt.allow i

/-- ALLOW_SET (R417): an EID that is entered has no accepted MSEQ. -/
def effAllowSet (r : GcpReq) (s : State) : State :=
  gcp .none true r (fun s =>
    let e : Eid := BitVec.ofNat 18 (fAt r.words 6 0 18)
    ok r [] { s with mgmt := { s.mgmt with
      allow := Maps.put eidNone s.mgmt.allow (fAt r.words 5 0 4) e
      mseqs := s.mgmt.mseqs.filter (fun x => x.1 != e) } }) s

def effEventDestSet (r : GcpReq) (s : State) : State :=
  gcp .none true r (fun s => ok r [] { s with mgmt.eventEid := BitVec.ofNat 18 (fAt r.words 5 0 18) }) s

/-! ### Firmware (R429, R430) -/

/-- FW_BEGIN: an update lasts from here to the final reply of FW_VERIFY or to a restart. -/
def effFwBegin (r : GcpReq) (s : State) : State :=
  gcp .none false r (fun s =>
    let n := (wAt r.words 5).toNat
    if s.mgmt.fwJob ≠ .none then fail r stBusy s
    else if n < 0x1200 ∨ 0x800000 < n then fail r stBadParam s
    else hold r { s with mgmt.fwJob := .erase r n }) s

/-- The NOR without what slot A held. -/
def eraseA (nor : List Host.Cell) : List Host.Cell := nor.filter (fun c => decide (0x800000 ≤ c.1))

def effFwEraseDone (good : Bool) (s : State) : State :=
  match s.mgmt.fwJob with
  | .erase _ n =>
    let s := if good then { s with nor := eraseA s.nor, mgmt.fwJob := .opened n } else { s with mgmt.fwJob := .none }
    endCmds (fun r => opcodeOf r == 0xA00) (if good then stOk else stTimedOut) 0 0 [] s
  | .none => s
  | .opened _ => s
  | .verify _ _ => s
  | .promote _ _ => s

def effFwWrite (r : GcpReq) (s : State) : State :=
  gcp .writes false r (fun s =>
    let off := (wAt r.words 5).toNat
    match s.mgmt.fwJob with
    | .opened n =>
      if off % 4 ≠ 0 ∨ n < off + lengthOf r then fail r stBadParam s
      else ok r [] { s with nor := Maps.putList 0xFF s.nor off ((wBytes (dataOf r 6)).take (lengthOf r)) }
    | _ => fail r stNotPermitted s) s

def effFwVerify (r : GcpReq) (s : State) : State :=
  gcp .none false r (fun s => hold r { s with mgmt.fwJob := .verify r 0 }) s

/-- FW_VERIFY's tests end: the first test that slot A fails is DETAIL. -/
def effFwVerifyDone (s : State) : State :=
  match s.mgmt.fwJob with
  | .verify _ _ =>
    let d := verifySlot s false
    let s := { s with mgmt.fwJob := .none }
    endCmds (fun r => opcodeOf r == 0xA02) (if d = 0 then stOk else stAuthFailed) d 0 [] s
  | .none => s
  | .erase _ _ => s
  | .opened _ => s
  | .promote _ _ => s

def effFwRestart (r : GcpReq) (s : State) : State :=
  gcp .none false r (fun s =>
    if s.mgmt.cmds.any (fun c => groupOf c.req == 1 || groupOf c.req == 2 || groupOf c.req == 0xA) then fail r stNotPermitted s
    else restartController (ok r [] s)) s

/-- The boot ROM has chosen and started the firmware: at the first boot, and after a restart (R391, R430, R463). -/
def effControllerRestartDone (s : State) : State :=
  let boot := s.mgmt.fw = .boot ∧ s.pw.tapLock
  let again := s.mgmt.fw = .restarting
  if !boot ∧ !again then s else
  let s := firmwareUp (bootRom s)
  if again then raise 304 1 s else s

def effFwPromote (r : GcpReq) (s : State) : State :=
  gcp .none false r (fun s =>
    if s.mgmt.fw ≠ .running ∨ s.heart.fwSlot then fail r stNotPermitted s
    else
      let n := match s.mgmt.fwJob with
        | .opened n => some n
        | _ => none
      hold r { s with mgmt.fwJob := .promote r n }) s

/-- Slot B as a copy of slot A. -/
def promoteA (nor : List Host.Cell) : List Host.Cell :=
  let a := nor.filter (fun c => decide (c.1 < 0x800000))
  a ++ a.map (fun c => (c.1 + 0x800000, c.2)) ++ nor.filter (fun c => decide (0x1000000 ≤ c.1))

def effFwPromoteDone (good : Bool) (s : State) : State :=
  match s.mgmt.fwJob with
  | .promote _ n =>
    let s := { s with nor := if good then promoteA s.nor else s.nor, mgmt.fwJob := (n.map FwJob.opened).getD .none }
    endCmds (fun r => opcodeOf r == 0xA04) (if good then stOk else stTimedOut) 0 0 [] s
  | .none => s
  | .erase _ _ => s
  | .opened _ => s
  | .verify _ _ => s

def effFwRaiseMinSvn (r : GcpReq) (s : State) : State :=
  gcp .none true r (fun s =>
    let n := s.heart.fwSvn
    if s.mgmt.fw ≠ .running ∨ slotSvn s false < n ∨ slotSvn s true < n then fail r stNotPermitted s
    else ok r [] { s with heart := { s.heart with minSvn := n } }) s

/-! ### Reads (R431) -/

/-- A part of an object of words. -/
def readPart (r : GcpReq) (off : Nat) (ws : List Word) (s : State) : State :=
  if !rangeOk off (lengthOf r) (4 * ws.length) then fail r stBadParam s
  else okData r ((ws.drop (off / 4)).take (lengthOf r / 4)) s

def effTelLiveRead (r : GcpReq) (s : State) : State :=
  gcp .reads false r (fun s =>
    let off := (wAt r.words 5).toNat
    readPart r off (telAll s) (if rangeOk off (lengthOf r) (4 * (telAll s).length) then coreEcc eccTel s else s)) s

/-- The snapshot of a transport and requester. -/
def snapOf (s : State) (r : GcpReq) : Option (List Word) :=
  (s.mgmt.maps.find? (fun m => m.1 == r.via && m.2.1 == r.srcEid)).map (·.2.2)

def effMapRead (r : GcpReq) (s : State) : State :=
  gcp .reads false r (fun s =>
    let off := (wAt r.words 5).toNat
    if !rangeOk off (lengthOf r) 2592 then fail r stBadParam s
    else
      let s := if off = 0 ∨ (snapOf s r).isNone then
          { coreEcc eccMap s with mgmt.maps := (r.via, r.srcEid, mapRecord s)
              :: s.mgmt.maps.filter (fun m => !(m.1 == r.via && m.2.1 == r.srcEid)) }
        else s
      readPart r off ((snapOf s r).getD []) s) s

def effHistRead (r : GcpReq) (s : State) : State :=
  gcp .reads false r (fun s =>
    let k := (wAt r.words 5).toNat
    let off := (wAt r.words 6).toNat
    if !hbmOk s then fail r stUnitFenced s
    else if histSlots ≤ k ∨ (!s.net.wrapped ∧ s.net.histSlot ≤ k) ∨ !rangeOk off (lengthOf r) 16384 then fail r stBadParam s
    else okData r (Maps.range 0 (Maps.get [] s.net.hist k) (off / 4) (lengthOf r / 4)) s) s

/-! ### Lock groups (R368) -/

/-- Bole and group of a lock-group command. -/
def lgBole (r : GcpReq) : Nat := fAt r.words 5 0 1
def lgGroup (r : GcpReq) : Nat := fAt r.words 5 8 5
/-- The locks of a group. -/
def lgLocks (s : State) (r : GcpReq) : List Lock := (List.range 64).map (fun i => lockOf s (lgBole r) (64 * lgGroup r + i))

def effLockMode (r : GcpReq) (s : State) : State :=
  gcp .none false r (fun s =>
    let g := lgroupOf s (lgBole r) (lgGroup r)
    let claim := bAt r.words 5 16
    if !domOn s (dMem (lgBole r)) then fail r stNotPermitted s
    else if g.claim ≠ claim ∧ (lgLocks s r).any (fun l => l.owner.isSome || l.queue != []) then fail r stBusy s
    else ok r [] (setLgroup (lgBole r) (lgGroup r) { g with claim := claim } s)) s

def effLockRights (r : GcpReq) (s : State) : State :=
  gcp .none false r (fun s =>
    let g := lgroupOf s (lgBole r) (lgGroup r)
    let w := fAt r.words 5 16 4
    let keep : BitVec 512 := ~~~ (BitVec.ofNat 512 (0xFFFFFFFF <<< (32 * w)))
    let new := (g.rights &&& keep) ||| BitVec.ofNat 512 ((wAt r.words 6).toNat <<< (32 * w))
    let gone := g.rights &&& ~~~ new
    let uses (l : Lock) : Bool := (match l.owner with | some m => gone.getLsbD m | none => false) || l.queue.any gone.getLsbD
    if !domOn s (dMem (lgBole r)) then fail r stNotPermitted s
    else if (lgLocks s r).any uses then fail r stBusy s
    else ok r [] (setLgroup (lgBole r) (lgGroup r) { g with rights := new } s)) s

/-! ### Dispatch of a request by its opcode (R410) -/

/-- Runs a request that is not SPDM_MSG. -/
def runPlain (r : GcpReq) (s : State) : State :=
  let phase := fAt r.words 5 0 2
  match opcodeOf r with
  | 0x0001 => effGetIdentity r s | 0x0002 => effGetStatus r s | 0x0003 => effEcho r s
  | 0x0004 => effAllowSet r s | 0x0005 => effEventDestSet r s
  | 0x0100 => effStageWrite r s | 0x0101 => effStageRead r s | 0x0102 => effStageDiscard r s
  | 0x0103 => effCheck r s | 0x0104 => effCommit r s | 0x0105 => effCommitAt r s
  | 0x0106 => effGetEpoch r s | 0x0107 => effCommitAbort r s
  | 0x0200 => effBulkLoad r s | 0x0201 => effBulkStage r s | 0x0202 => effBulkRead r s
  | 0x0300 => effPortEnable r s | 0x0301 => effPortDisable r s | 0x0302 => effPortTrain r s
  | 0x0303 => effPortWidth r s | 0x0304 => effPortStatus r s
  | 0x0400 => effPwrSet r s | 0x0401 => effPwrGet r s
  | 0x0500 => effTimeGet r s | 0x0501 => effTimeSet r s
  | 0x0600 => effTreeCreate r s | 0x0601 => effTreeDestroy r s | 0x0602 => effTreeStatus r s
  | 0x0700 => effResvWrite r s | 0x0701 => effResvRead r s
  | 0x0800 => effFence r s | 0x0801 => effUnfence r s | 0x0802 => effEventCfg r s
  | 0x0803 => effEventRead r s | 0x0804 => effEventClear r s
  | 0x0901 => effLinkKeyInstall r s | 0x0902 => effLinkKeyClear r s | 0x0903 => effAlarmPolicy r s
  | 0x0904 => effZeroize r s
  | 0x0A00 => effFwBegin r s | 0x0A01 => effFwWrite r s | 0x0A02 => effFwVerify r s
  | 0x0A03 => effFwRestart r s | 0x0A04 => effFwPromote r s | 0x0A05 => effFwRaiseMinSvn r s
  | 0x0B00 => effTelLiveRead r s | 0x0B01 => effMapRead r s | 0x0B02 => effHistRead r s
  | 0x0C00 => effLockMode r s | 0x0C01 => effLockRights r s
  | 0x0D00 =>
    if phase = 1 then effGraftQuarantine r s else if phase = 2 then effGraftAdmit r s
    else if phase = 3 then effGraftAbort r s else gcp .none true r (fail r stBadParam) s
  | 0x0D01 => effGraftStatus r s
  | 0x0D02 =>
    if phase = 1 then effPruneDrain r s else if phase = 2 then effPruneRemove r s
    else if phase = 3 then effPruneAbort r s else gcp .none true r (fail r stBadParam) s
  | 0x0D03 => effPruneStatus r s
  | 0x0E00 => effTestUnlock r s | 0x0E01 => effFaultInject r s
  | _ => gcp .none false r (fail r stBadOpcode) s

/-- The words of the response just given to an SPDM message. -/
def spdmBodyOf (s : State) : List Word :=
  match s.out with
  | .spdm _ _ body _ :: _ => body
  | _ => []

/-- SPDM_MSG (R413): a secured message whose application data are a request runs it in the secured session. An SPDM_MSG
inside one is answered as an unsupported message. While key derivation is blocked a link-key command returns NOT_PERMITTED
whether or not a session carries it (R393, R398, R399). -/
def effSpdmMsg (r : GcpReq) (msg : Spdm) (s : State) : State :=
  gcp .writes false r (fun s =>
    let answer (m : Spdm) (s : State) : State :=
      let s := spdmRun 4 m s
      okData r (spdmBodyOf s) s
    match msg with
    | .secured verifies q =>
      if s.heart.deriveBlocked ∧ keyCmd q then fail r stNotPermitted s
      else if !verifies ∨ s.heart.sessions = 0 then authFail r s
      else
        let q := { q with
          via := r.via, secured := true, outer := r.words, srcEid := r.srcEid, mseq := r.mseq, replyEid := r.replyEid }
        if opcodeOf q = 0x0900 then answer .other s else runPlain q s
    | _ => answer msg s) s

/-- Runs a request as its opcode says. The message of an SPDM_MSG is in its data. -/
def runGcp (r : GcpReq) (s : State) : State :=
  if opcodeOf r = 0x0900 then effSpdmMsg r ((Config.spdmParse (dataOf r 5) s.heart.responses).getD .other) s else runPlain r s

end Sys2Proof.Machine
end

