-- ==== Sys2Proof/Machine/Carrier.lean ====
section
/-! DEFINITION. The transports of GCP requests (R403, R404, R408, R414 to R417), the controller's restart row, and the JTAG
and I3C address rows (R415, R489). -/

namespace Sys2Proof.Machine

/-- The PENDING reply to a request. -/
def pendingReply (r : GcpReq) (s : State) : State :=
  let x := wrapReply r (replyWords (wAt r.words 0) stPending 0 0 0 []) [] s
  sendReply r x.1.1 x.1.2 x.2

/-- COMMAND_PENDING_REPLY (R408): a command in execution, or a request that has arrived and waits (R404). -/
def effCommandPendingReply (id : Nat) (s : State) : State :=
  match s.mgmt.cmds.find? (fun c => c.id == id && !c.pended) with
  | some c =>
    pendingReply c.req
      { s with mgmt.cmds := s.mgmt.cmds.map (fun x => if x.id = id then { x with pended := true } else x) }
  | none =>
    match s.mgmt.waitq.find? (fun c => c.id == id && !c.pended) with
    | some c =>
      pendingReply c.req
        { s with mgmt.waitq := s.mgmt.waitq.map (fun x => if x.id = id then { x with pended := true } else x) }
    | none => s

/-! ### Rings -/

/-- The PCI Express port of a ring is there: a host port in UP, or the trained HM port. -/
def ringUp (s : State) (i : Nat) : Bool := if i < 4 then (hport s i).st == .up else decide (i = 4) && s.pw.hmTrained

/-- The controller takes requests from a ring now (R403, R404, R414). -/
def ringServes (s : State) (i : Nat) : Bool :=
  let r := ring s i
  ringUp s i && r.reqEn && r.rplEn && !ringFull r && r.waiting == []
    && (s.mgmt.fw == .running || (s.mgmt.fw == .recovery && i == 4))
    && decide (s.mgmt.cmds.length + s.mgmt.waitq.length < 64)

/-- A ring's read is one of the 4,096 requests of a host port (R40). -/
def ringRoom (s : State) (i : Nat) : Bool := decide (4 ≤ i) || ((hport s i).dmaq == [] && decide (dmaOut s i < 4096))

/-- Begins the read of the next request of a ring. -/
def askRing (i : Nat) (s : State) : State :=
  let r := ring s i
  if !ringServes s i ∨ r.reading ∨ r.reqHead = r.reqTail ∨ !ringRoom s i then s
  else
    let a := r.reqBaseHi.toNat * 2 ^ 32 + r.reqBaseLo.toNat + 64 * (r.reqHead.toNat % 2 ^ ringLog r.reqLog)
    updRing i (fun r => { r with reading := true }) (emitHost i (outRead s i 0 a 64) s)

/-- A write of GCR_REQ_TAIL. -/
def gcrReqTail (i : Nat) (v : Word) (s : State) : State := askRing i (updRing i (fun r => { r with reqTail := v }) s)

/-- A write of GCR_REQ_CFG: ENABLE from 0 to 1 sets head and tail to 0. -/
def gcrReqCfg (i : Nat) (v : Word) (s : State) : State :=
  let on := bitW v 8
  askRing i (updRing i (fun r =>
    let r := { r with reqLog := fld v 0 4, reqEn := on, reading := r.reading && on }
    if on && !(ring s i).reqEn then { r with reqHead := 0, reqTail := 0 } else r) s)

/-- A write of GCR_RPL_CFG: replies that wait when ENABLE is cleared are discarded and counted. -/
def gcrRplCfg (i : Nat) (v : Word) (s : State) : State :=
  let on := bitW v 17
  let lost := if on then 0 else (ring s i).waiting.length
  let s := updRing i (fun r => { r with
    rplLog := fld v 0 4, vec := fld v 5 11, intrEn := bitW v 16, rplEn := on
    waiting := if on then r.waiting else [], reading := r.reading && on }) s
  askRing i ((List.range lost).foldl (fun s _ => ringErr 9 s) s)

/-- Writes waiting replies into free slots. -/
def drainReplies : Nat → Nat → State → State
  | 0, _, s => s
  | fuel + 1, i, s =>
    match (ring s i).waiting with
    | w :: t =>
      if ringFull (ring s i) then s
      else drainReplies fuel i (ringWrite i w (updRing i (fun r => { r with waiting := t }) s))
    | [] => s

/-- A write of GCR_RPL_HEAD releases slots. -/
def gcrRplHead (i : Nat) (v : Word) (s : State) : State :=
  let s := updRing i (fun r => { r with rplHead := v }) s
  askRing i (drainReplies ((ring s i).waiting.length) i s)

/-- GCR_ registers (R414). -/
def wrGcr (i off : Nat) (v : Word) (s : State) : State :=
  match off with
  | 0x00 => updRing i (fun r => { r with reqBaseLo := v &&& 0xFFFFF000 }) s
  | 0x04 => updRing i (fun r => { r with reqBaseHi := v }) s
  | 0x08 => gcrReqCfg i v s
  | 0x0C => gcrReqTail i v s
  | 0x20 => updRing i (fun r => { r with rplBaseLo := v &&& 0xFFFFF000 }) s
  | 0x24 => updRing i (fun r => { r with rplBaseHi := v }) s
  | 0x28 => gcrRplCfg i v s
  | 0x2C => gcrRplHead i v s
  | _ => s

/-- A write of a ring's register reaches the controller: from a host port it crosses a die-to-die module (R16). -/
def ringReg (i off : Nat) (v : Word) (who : Requester) (s : State) : State :=
  if !ringUp s i then s
  else if i < 4 then crossD2d (boleOf i) (identHost i who.id who.tc) (.ring i off v) (wrGcr i off v) s
  else wrGcr i off v s

def effGcrReqTail (i : Nat) (v : Word) (who : Requester) (s : State) : State := ringReg i 0x0C v who s
def effGcrReqCfgEnable (i : Nat) (v : Word) (who : Requester) (s : State) : State := ringReg i 0x08 v who s
def effGcrRplCfgEnable (i : Nat) (v : Word) (who : Requester) (s : State) : State := ringReg i 0x28 v who s
def effGcrRplHead (i : Nat) (v : Word) (who : Requester) (s : State) : State := ringReg i 0x2C v who s

/-- What a crossing does when it goes out (R16). -/
def Crossing.run (c : Crossing) (s : State) : State :=
  match c with
  | .emit o => emitOut o s
  | .msix h fn vec => fireMsix h fn vec s
  | .ring i off v => wrGcr i off v s

/-- D2D_IDENT_MOVE (R17): the crossings of an identifier on a fenced module are over and the lost ones are counted; the traffic
held for it goes out on its new module, in order. -/
def effD2dIdentMove (m ident lost : Nat) (s : State) : State :=
  let l := Maps.get [] s.cross.moving m
  if !d2dPowered s m ∨ !l.contains ident then s else
  let s := if lost = 0 then s else raise (161 + 64 * (m / 3)) 2 (count (boleKey (m / 3) 0x100) lost s)
  let mine (x : Nat × Nat × Crossing) : Bool := x.1 == m / 3 && x.2.1 == ident
  let go := s.cross.held.filter mine
  let s := { s with cross := { s.cross with
    moving := Maps.put [] s.cross.moving m (l.filter (· ≠ ident)), held := s.cross.held.filter (fun x => !mine x) } }
  go.foldl (fun s x => crossD2d x.1 x.2.1 x.2.2 (Crossing.run x.2.2) s) s

/-- The transport of a ring. -/
def ringVia (i : Nat) : Via := if i < 4 then .host i else .hm

/-- A request, and its data, have been read from a ring (R404, R414); a failed read is a DMA error of a host port (R213). -/
def effGcpRequestReadDone (i : Nat) (req data : Option (List Word)) (s : State) : State :=
  let r := ring s i
  if !ringUp s i ∨ !r.reading ∨ (s.mgmt.fw ≠ .running ∧ s.mgmt.fw ≠ .recovery) then
    updRing i (fun r => { r with reading := false }) s
  else
    let s := updRing i (fun r => { r with reading := false, reqHead := r.reqHead + 1 }) s
    let bad (s : State) : State := if i < 4 then dmaErr i s else s
    match req with
    | none => askRing i (ringErr 9 (bad s))
    | some ws =>
      let ind := bAt ws 1 0
      let lost := data.isNone && ind
      let s := if lost then bad s else s
      askRing i (runGcp { via := ringVia i, words := padW 16 ws, data := data.getD [], dataErr := lost } s)

/-! ### I3C (R415) -/

/-- The controller can take a request from the I3C target. -/
def i3cServes (s : State) : Bool :=
  (s.mgmt.fw == .running || s.mgmt.fw == .recovery) && decide (s.mgmt.cmds.length + s.mgmt.waitq.length < 64)

/-- Runs the oldest request of the I3C target. -/
def takeI3c (s : State) : State :=
  match s.mgmt.i3cReqs with
  | ws :: t => if i3cServes s then runGcp { via := .i3c, words := ws } { s with mgmt.i3cReqs := t } else s
  | [] => s

def effI3cPrivateWrite (bytes : List Byte) (s : State) : State :=
  if 4 ≤ s.mgmt.i3cReqs.length then emit .i3cNack s
  else if bytes.length ≠ 64 then ringErr 8 s
  else takeI3c { s with mgmt.i3cReqs := s.mgmt.i3cReqs ++ [bWords 16 bytes] }

def effI3cPrivateRead (s : State) : State :=
  match s.mgmt.i3cRpls with
  | [] => emit .i3cNack s
  | ws :: t =>
    let s := emit (.readData 5 0 (some (wBytes ws))) { s with mgmt.i3cRpls := t }
    if t = [] then s else emit (.ibi 0xA5) s

/-- The provisional ID of the I3C target: bits [31:16] are 0x0640 (R415), the others the implementation's. -/
def i3cPid : BitVec 48 := (Config.i3cPid &&& 0xFFFF0000FFFF) ||| 0x06400000

/-- SETDASA or ENTDAA gives the target its dynamic address; one that has none yet answers ENTDAA with its provisional ID. -/
def effEntdaa (addr : BitVec 7) (s : State) : State :=
  let s := if s.mgmt.i3cAddr.isNone then emit (.i3cId i3cPid) s else s
  { s with mgmt.i3cAddr := some addr }

/-- The address at which the I3C target answers (R415, R487). -/
def i3cAddress (s : State) : Nat :=
  match s.mgmt.i3cAddr with
  | some a => a.toNat
  | none => 0x30 + s.pw.i3cStrap

/-! ### In-band (R416, R417) -/

/-- Opcodes that an unconfigured controller executes in-band. -/
def openOp (op : Nat) : Bool := op == 1 || op == 3 || op == 0x0900

/-- A packet of class MGT with the MGT extension alone, of a GCP type (R416). -/
def gcpKind (p : Packet) : Bool :=
  clsOf p == 3 && p.extMask == 0x40 && (p.ptype == 0x50 || p.ptype == 0x51 || p.ptype == 0x52)

/-- The payload of a GCP_REQ is the request and the data of an INDIRECT one (R416); that of an event, and of a reply to a
controller, which has sent no INDIRECT request, is 64 B (DEDUCED, log 140). -/
def gcpPktOk (p : Packet) : Bool :=
  let ws := bWords 16 (p.payload.take 64)
  decide (64 ≤ p.payload.length)
    && p.payload.length == 64 + (if p.ptype = 0x50 ∧ bAt ws 1 0 then (wAt ws 2).toNat else 0)

/-- One of the drops that MGT_BAD covers (R434). -/
def mgtBad (i : Nat) (s : State) : State := raise 305 8 (inc (mgcCtr i) s)

/-- Accepts, replays or drops a request of an allowed EID by its MSEQ (R417). -/
def inbandSeq (r : GcpReq) (s : State) : State :=
  let own := s.mgmt.mseqs.filter (fun e => e.1 == r.srcEid)
  match own.find? (fun e => e.2.1 == r.mseq) with
  | some (_, _, some (ws, data)) =>
    sendMgt (if r.replyEid = eidNone then r.srcEid else r.replyEid) 0x51 r.mseq ws data (inc (mgcCtr 5) s)
  | some (_, _, none) => inc (mgcCtr 5) s
  | none =>
    let d := match own.head? with
      | some (_, n, _) => (r.mseq - n).toNat
      | none => 1
    if d = 0 ∨ 32768 ≤ d then mgtBad 4 s
    else
      let kept := (r.srcEid, r.mseq, none) :: own.take 7
      runGcp r { s with mgmt.mseqs := kept ++ s.mgmt.mseqs.filter (fun e => e.1 != r.srcEid) }

/-- A packet has come to the controller through port M (R416, R417). Replies and events are not for a controller. -/
def effGcpReq (p : Packet) (s : State) : State :=
  let s := freeInternal xM p s
  if s.mgmt.fw ≠ .running then s
  else if !lenOk p then mgtBad 6 s
  else if !e2eGood p then mgtBad 7 s
  else if !gcpKind p ∨ !gcpPktOk p then mgtBad 6 s
  else if p.ptype = 0x51 ∨ p.ptype = 0x52 then s
  else
    let s := inc (mgcCtr 2) s
    let r : GcpReq :=
      { via := .inband, words := bWords 16 (p.payload.take 64), data := bWords ((p.payload.length - 64 + 3) / 4) (p.payload.drop 64),
        srcEid := p.src, mseq := BitVec.ofNat 16 (Packet.extF p 6 0 0 16), replyEid := BitVec.ofNat 18 (Packet.extF p 6 1 0 18) }
    if (List.range 16).all (fun i => allowed s i == eidNone) then
      if openOp (opcodeOf r) then runGcp r s else fail r stNotPermitted s
    else if p.src = eidNone ∨ (List.range 16).all (fun i => allowed s i != p.src) then raise 305 4 (inc (mgcCtr 3) s)
    else inbandSeq r s

/-! ### JTAG (R489) -/

/-- What an instruction shifts out of its register before TDI: IDCODE, the bypass bit, or what it captures in the boundary
register or a register of its own, which the manual does not give. -/
def tapCapture (sel : Nat) (s : State) (n : Nat) : List Bool :=
  if sel = 1 then (List.range 32).map (fun i => bitW 0x20640001 i)
  else if sel = 0xFF then [false]
  else (List.range n).map (Config.jtagCapture sel s.out.length)

/-- An instruction of the TAP and a scan of the data register that it selects: 0 EXTEST, 1 IDCODE, 2 SAMPLE/PRELOAD, 3 and 4
those of IEEE 1149.6, 0xFF BYPASS. Any other acts as BYPASS until a debug unlock. While TRST_N is low the TAP stays in reset. -/
def effJtagInstruction (ir : Nat) (trst : Bool) (tdi : List Bool) (s : State) : State :=
  if !trst then { s with pw.tap := {} } else
  let sel := if ir < 5 ∨ s.heart.debugOpen then ir else 0xFF
  let tap := { s.pw.tap with
    ir := sel
    bypass := if sel = 0xFF then tdi.getLastD false else s.pw.tap.bypass
    boundary := if sel = 1 ∨ sel = 0xFF ∨ 5 ≤ sel then s.pw.tap.boundary else tdi }
  emit (.jtag sel ((tapCapture sel s tdi.length ++ tdi).take tdi.length)) { s with pw.tap := tap }

end Sys2Proof.Machine
end

