-- ==== Sys2Proof/Machine/Bar0.lean ====
section
/-! DEFINITION. Writes of registers (R8, R9, R12, R181, R237, R270, R297, R316, R374, R400, R414): each field by its type,
and the writes that a block ignores. -/

namespace Sys2Proof.Machine

/-- RW registers of a PF that have no rule of their own: offset and field bits. -/
def plainRw : List (Nat × Nat) :=
  [(0x10000, 0xFFFFF000), (0x10004, 0xFFFFFFFF), (0x10010, 0xFFFFF000), (0x10014, 0xFFFFFFFF), (0x18000, 0xFFFF),
   (0x1E000, 0xFFFF03FF), (0x1E004, 0x1FFFF), (0x2000C, 0xFFFF), (0x40000, 0xFFFF), (0x40008, 0xFFFFF000),
   (0x4000C, 0xFFFFFFFF)]

/-- Field bits of a register of a list. -/
def maskIn (l : List (Nat × Nat)) (off : Nat) : Option Nat := (l.find? (fun x => x.1 == off)).map (·.2)

/-- TRN_CTX_BASE_LO, TRN_CTX_BASE_HI and TRN_CFG (R270). -/
def wrTrn (h off : Nat) (v : Word) (s : State) : State :=
  let k (o : Nat) : Nat := hostKey h 0 (0x20000 + o)
  let on := trnEnabled s h
  if off = 0x20000 then (if on then s else barSet (k 0) (v &&& 0xFFFFF000) s)
  else if off = 0x20004 then (if on then s else barSet (k 4) v s)
  else
    let old := barR s (k 8) 0x100000
    let busy := s.hs.chans.any (fun e => e.1 / 2 ^ 24 == h && e.2.st != .absent)
    let en := bitW v 8 || (on && busy)
    barSet (k 8) (pack [(0, 5, if on then fld old 0 5 else fld v 0 5), (8, 1, b2n en), (16, 8, fld v 16 8)]) s

/-- XLT_MRT_CFG, XLT_FQ_BASE_LO, XLT_FQ_BASE_HI and XLT_FQ_CFG (R237). -/
def wrXlt (h off : Nat) (v : Word) (s : State) : State :=
  let m := if off = 0x40010 then 0x1F else if off = 0x40020 then 0xFFFFF000 else if off = 0x40024 then 0xFFFFFFFF else 0x1FFFF
  let barred := if off = 0x40010 then s.hs.regions.any (fun e => e.1 / 2 ^ 24 == h) else fqOn s h
  if barred then xltCause h 6 s else barSet (hostKey h 0 off) (v &&& w32 m) s

/-- A limit of both host ports of a Bole, summed (R297). -/
def bothPorts (f : Nat → Nat) (h : Nat) : Nat := f (2 * boleOf h) + f (2 * boleOf h + 1)

/-- Why ENABLE of MTC_CFG may not change (R297). -/
def mtcBarred (h : Nat) (on : Bool) (s : State) : Bool :=
  if on then decide (524288 < bothPorts (postedMax s) h) || decide (262144 < bothPorts (unexpMax s) h)
    || decide (4096 < bothPorts (fun g => tierMax s g / 32768) h)
  else Maps.get [] s.hs.posted h != [] || Maps.get [] s.hs.unexp h != []

/-- MTC_ registers (R297). -/
def wrMtc (h off : Nat) (v : Word) (s : State) : State :=
  let k := hostKey h 0 off
  let was := mtcOn s h
  if off = 0x30000 then
    let old := barR s k 0x800
    let eager := if was then fld old 8 7 else fld v 8 7
    let bad := bitW v 0 != was && mtcBarred h (bitW v 0) s
    let en := if bad then was else bitW v 0
    let s := if bad ∨ (was ∧ fld v 8 7 ≠ fld old 8 7) then mtcCause h 4 s else s
    barSet k (pack [(0, 1, b2n en), (8, 7, eager)]) s
  else
    match maskIn [(0x30004, 0xFFFFF), (0x30008, 0x7FFFF), (0x3000C, 0x1FFF), (0x30010, 0xFFFFF000), (0x30014, 0xFFFFFFFF),
        (0x30018, 0x3F)] off with
    | some m => if was then mtcCause h 4 s else barSet k (v &&& w32 m) s
    | none => s

/-- Any trigger of a function is armed or firing. -/
def anyArmed (s : State) (h fn : Nat) : Bool :=
  s.hs.slots.any (fun e => e.1 / 2 ^ 20 == h * 256 + fn && e.2.st != 0)

/-- ECT_POOL_ registers of a function (R316). -/
def wrEct (h fn off : Nat) (v : Word) (s : State) : State :=
  let k := hostKey h fn off
  let was := poolOn s h fn
  if off = 0x1C000 then (if was then ectCause h 5 s else barSet k (v &&& 0xFFFFFC00) s)
  else if off = 0x1C004 then (if was then ectCause h 5 s else barSet k v s)
  else
    let old := barR s k 0
    let stuck := was && !bitW v 5 && anyArmed s h fn
    let en := if stuck then true else bitW v 5
    let lg := if was then fld old 0 5 else fld v 0 5
    let s := if stuck ∨ (was ∧ fld v 0 5 ≠ fld old 0 5) then ectCause h 5 s else s
    barSet k (pack [(0, 5, lg), (5, 1, b2n en)]) s

/-- SSM_VF_WIN_n (R374). -/
def wrWin (b off : Nat) (v : Word) (s : State) : State :=
  if 2048 < fld v 0 11 + fld v 12 12 then ssmCause b 3 s else barSet (boleKey b off) (v &&& 0xFFF7FF) s

/-- The MSI-X table of a function (R208): taking a mask away sends the message that waits. -/
def wrMsix (h fn off : Nat) (v : Word) (s : State) : State :=
  msixRelease h fn (barSet (hostKey h fn off) v s)

/-- Registers of every function: the lock unit, its own trigger pool, its own MSI-X table (R181, R316, R375). -/
def wrFunction (h fn off : Nat) (v : Word) (s : State) : State :=
  if 0x60000 ≤ off ∧ off < 0x68000 then
    let l := (off - 0x60000) / 16
    if off % 16 = 4 then effLckRelease h fn l s
    else if off % 16 = 8 then effLckClaim h fn l (BitVec.ofNat 16 (fld v 0 16)) s
    else s
  else if off = 0x1C000 ∨ off = 0x1C004 ∨ off = 0x1C008 then wrEct h fn off v s
  else if 0x90000 ≤ off ∧ off < (if fn = 0 then 0x98000 else 0x90400) then wrMsix h fn off v s
  else s

/-- Registers of a PF. -/
def wrPf (h off : Nat) (v : Word) (who : Requester) (s : State) : State :=
  match maskIn plainRw off with
  | some m => barSet (hostKey h 0 off) (v &&& w32 m) s
  | none =>
    if off = 0x10008 then effQmgPqCfgEnable h v s
    else if off = 0x10018 then effQmgPcqCfgEnable h v s
    else if off = 0x1E008 then
      (match fld v 0 2 with | 1 => effBind h s | 2 => effUnbind h s | 3 => effQuery h s | _ => s)
    else if off = 0x20000 ∨ off = 0x20004 ∨ off = 0x20008 then wrTrn h off v s
    else if off = 0x20034 then
      (if bitW v 8 then barSet (hostKey h 0 off) (barR s (hostKey h 0 off) 0 &&& ~~~(0x100 : Word)) s else s)
    else if 0x30000 ≤ off ∧ off < 0x3001C then wrMtc h off v s
    else if off = 0x40010 ∨ off = 0x40020 ∨ off = 0x40024 ∨ off = 0x40028 then wrXlt h off v s
    else if off = 0x4002C then effXltFqHead h v s
    else if off = 0x40030 then effXltFaultResp h v {} s
    else if off = 0x50000 then
      (if bitW v 31 then barSet (hostKey h 0 off) (barR s (hostKey h 0 off) 0 &&& 0x7FFFFFFF) s else s)
    else if 0x70100 ≤ off ∧ off < 0x704FC then wrWin (boleOf h) off v s
    else if 0xA0000 ≤ off ∧ off < 0xA0030 then ringReg h (off - 0xA0000) v who s
    else wrFunction h 0 off v s

end Sys2Proof.Machine
end

