-- ==== Sys2Proof/Machine/BarView.lean ====
section
/-! DEFINITION. Accesses to BAR0 and HM BAR0: what their registers read as (R12, R176, R181, R208, R212, R213, R237, R270, R297,
R316, R352, R374, R375, R400, R414, R454). The table has no row for such a read: it changes no state. The reads that do,
of LCK_ACQUIRE and SSM_BARRIER, are commands. Then the writes, of any width (R9, R360). -/

namespace Sys2Proof.Machine

/-- The ranges of the mirror (R12): mirror offset, size, router address, and for a range of equal blocks their stride in
the mirror and in router space. -/
def mirrorMap : List (Nat × Nat × Nat × Nat × Nat) :=
  [(0, 0x1000, 0, 0x1000, 0x1000), (0x4000, 0x4000, 0x10000, 0x4000, 0x4000),
   (0x10000, 0x10000, 0x01000000, 0x400, 0x10000), (0x20000, 0x2000, 0x02000000, 0x200, 0x10000),
   (0x22000, 0x400, 0x02100000, 0x400, 0x400), (0x24000, 0x4000, 0x02210000, 0x4000, 0x4000),
   (0x28000, 0x4000, 0x02240000, 0x4000, 0x4000), (0x30000, 0x2000, 0x04000000, 0x2000, 0x2000),
   (0x34000, 0x4000, 0x04100000, 0x4000, 0x4000), (0x38000, 0x8000, 0x04200000, 0x8000, 0x8000),
   (0x40000, 0x1000, 0x05000000, 0x1000, 0x1000), (0x48000, 0xC000, 0x06000000, 0xC000, 0xC000),
   (0x54000, 0x1000, 0x07000000, 0x1000, 0x1000), (0x55000, 0x1000, 0x07100000, 0x1000, 0x1000),
   (0x56000, 0x1000, 0x08000000, 0x1000, 0x1000), (0x57000, 0x1000, 0x09000000, 0x1000, 0x1000)]

/-- Router address that a mirror offset shows. -/
def mirrorAddr (o : Nat) : Option Nat :=
  (mirrorMap.find? (fun r => decide (r.1 ≤ o) && decide (o < r.1 + r.2.1))).map (fun r =>
    r.2.2.1 + (o - r.1) / r.2.2.2.1 * r.2.2.2.2 + (o - r.1) % r.2.2.2.1)

/-- A word of the mirror (R12). -/
def mirrorWord (s : State) (o : Nat) : Word :=
  match mirrorAddr o with
  | some a => readActive s a
  | none => 0

/-- STATE of HPT_STATUS (R209). -/
def HpState.code : HpState → Nat
  | .off => 0 | .reset => 1 | .training => 2 | .notReady => 3 | .up => 4 | .cleanup => 5
/-- PQ_STATE of QMG_STATUS (R212). -/
def WqState.code : WqState → Nat
  | .absent => 0 | .active => 1 | .error => 2 | .draining => 3

/-- HPT_STATUS (R213). -/
def hptStatus (s : State) (h : Nat) : Word :=
  let p := hport s h
  pack [(0, 4, p.st.code), (4, 4, p.rate.toNat), (8, 5, p.width.toNat),
    (13, 1, b2n (s.heart.ide.any (fun e => e.1 / 8 == h && e.2.st == 1))), (14, 1, b2n (p.st == .cleanup))]

/-- EPD_STATUS (R454). -/
def epdStatus (s : State) (b : Nat) : Word :=
  pack [(0, 1, b), (1, 1, b2n (fenced s (uBole b)))] +
    w32 (sumN ((List.range 4).map (fun e => 2 ^ (2 + e) * b2n (fenced s (uEng b e))))
      + sumN ((List.range 2).map (fun i => 2 ^ (6 + i) * b2n (fenced s (uHost (2 * b + i))))))

/-- The source is one of a Bole's own (R454). -/
def boleSource (b n : Nat) : Bool :=
  decide (160 + 64 * b ≤ n ∧ n < 224 + 64 * b) || decide (288 + 8 * b ≤ n ∧ n < 296 + 8 * b)

/-- EPD_ and the Bole's FLT_ views (R454). -/
def viewEpd (s : State) (b o : Nat) : Word :=
  if o = 0 then epdStatus s b
  else if 0x2000 ≤ o ∧ o < 0x4000 then
    (if boleSource b ((o - 0x2000) / 0x10) then wAt (recWords s ((o - 0x2000) / 0x10)) (o % 0x10 / 4) else 0)
  else if 0x8500 ≤ o ∧ o < 0x8680 then satWord s (352 + (o - 0x8000) / 0x40) (o % 0x40 / 4)
  else plainReg s (boleKey b o)

/-- Reset values of BAR0 registers that do not reset to zero (R212, R237, R270, R297, R352). -/
def barResets : List (Nat × Nat) :=
  [(0x10008, 0x4), (0x10018, 0x24), (0x1E004, 0x100), (0x20008, 0x100000), (0x2000C, 0x1F4), (0x30000, 0x800),
   (0x30004, 0x40000), (0x30008, 0x20000), (0x3000C, 0x800), (0x40000, 0xA), (0x40028, 0x24)]

/-- The MTC_ registers that show what is in use (R297). -/
def viewMtc (s : State) (h o : Nat) : Option Nat :=
  if o = 0x30020 then some (b2n (hport s h).lost)
  else if o = 0x30024 then some (Maps.get [] s.hs.posted h).length
  else if o = 0x30028 then some (onChip s h)
  else if o = 0x3002C then some ((unexpAt s h).filter (fun u => u.tier)).length
  else if o = 0x30030 then some (if bounceOn s h then bounceSlots s h - (hport s h).slots.length else 0)
  else none

/-- GCR_ registers of a ring (R414). -/
def viewGcr (s : State) (i o : Nat) : Word :=
  let r := ring s i
  match o with
  | 0x00 => r.reqBaseLo
  | 0x04 => r.reqBaseHi
  | 0x08 => pack [(0, 4, r.reqLog), (8, 1, b2n r.reqEn)]
  | 0x0C => r.reqTail
  | 0x10 => r.reqHead
  | 0x20 => r.rplBaseLo
  | 0x24 => r.rplBaseHi
  | 0x28 => pack [(0, 4, r.rplLog), (5, 11, r.vec), (16, 1, b2n r.intrEn), (17, 1, b2n r.rplEn)]
  | 0x2C => r.rplHead
  | _ => 0

/-- A lock's LCK_CLAIM and LCK_STATUS (R375). -/
def viewLock (s : State) (b o : Nat) : Word :=
  let x := lockOf s b (o / 0x10)
  if o % 0x10 = 8 then pack [(0, 16, x.token.toNat), (16, 1, b2n x.orphan)]
  else if o % 0x10 = 0xC then
    pack [(0, 1, b2n x.owner.isSome), (1, 1, b2n x.orphan), (4, 9, x.owner.getD 0), (16, 9, x.queue.length)]
  else 0

/-- A lock group's LCK_GRP_MODE and LCK_GRP_RIGHTS_w (R375). -/
def viewLgroup (s : State) (b o : Nat) : Word :=
  let g := lgroupOf s b (o / 0x80)
  if o % 0x80 = 0 then w32 (b2n g.claim)
  else if 0x40 ≤ o % 0x80 then wordOf g.rights.toNat ((o % 0x80 - 0x40) / 4)
  else 0

/-- The MSI-X table of a function and its pending bits (R208); a mask resets to 1 (log 22). -/
def viewMsix (s : State) (h fn o : Nat) : Word :=
  if o < 0x98000 then barR s (hostKey h fn o) (if o % 0x10 = 0xC then 1 else 0)
  else w32 (sumN ((List.range 32).map (fun i =>
    if s.ev.msixPend.contains ((h * 256 + fn) * 2 ^ 11 + (o - 0x98000) / 4 * 32 + i) then 2 ^ i else 0)))

/-- Registers that every function has (R181, R208, R213, R316, R374, R375). -/
def viewFunction (s : State) (h fn o : Nat) : Word :=
  if o = 0x1C000 ∨ o = 0x1C004 ∨ o = 0x1C008 then barR s (hostKey h fn o) 0
  else if o = 0x1C00C then
    w32 (s.hs.slots.filter (fun e => e.1 / 2 ^ 20 == h * 256 + fn && e.2.st != 0)).length
  else if 0x60000 ≤ o ∧ o < 0x68000 then viewLock s (boleOf h) (o - 0x60000)
  else if 0x68000 ≤ o ∧ o < 0x69000 then viewLgroup s (boleOf h) (o - 0x68000)
  else if o = 0x80000 then hptStatus s h
  else if 0x80000 < o ∧ o < 0x90000 then plainReg s (hostKey h 0 o)
  else if 0x90000 ≤ o ∧ o < (if fn = 0 then 0x98000 else 0x90400) then viewMsix s h fn o
  else if 0x98000 ≤ o ∧ o < (if fn = 0 then 0x98100 else 0x98008) then viewMsix s h fn o
  else if 0x100000 ≤ o ∧ o < 0x200000 then mirrorWord s (o - 0x100000)
  else 0

/-- Registers of a PF. -/
def viewPf (s : State) (h o : Nat) : Word :=
  if o < 0x10000 then viewEpd s (boleOf h) o
  else if o = 0x10020 then pack [(0, 2, (wqOf s h 0).st.code), (2, 1, b2n (cqOf s h 0).active)]
  else if o = 0x10024 then (wqOf s h 0).head
  else if o = 0x1E010 then
    w32 (s.hs.binds.filter (fun e => e.1 / 1024 == h && e.2.st != 0)).length
  else if o = 0x1E008 ∨ o = 0x40030 then 0
  else if 0x69000 ≤ o ∧ o < 0x70100 then plainReg s (boleKey (boleOf h) o)
  else if 0x70100 ≤ o ∧ o < 0x704FC then barR s (boleKey (boleOf h) o) 0
  else if 0x70800 ≤ o ∧ o < 0x80000 then plainReg s (boleKey (boleOf h) o)
  else if 0xA0000 ≤ o ∧ o < 0xB0000 then viewGcr s h (o - 0xA0000)
  else match viewMtc s h o with
    | some n => w32 n
    | none =>
      if o < 0x60000 ∧ ¬ (0x1C000 ≤ o ∧ o < 0x1C010) then
        match Maps.find? s.hs.bar (hostKey h 0 o) with
        | some w => w
        | none => match maskIn barResets o with
          | some r => w32 r
          | none => plainReg s (hostKey h 0 o)
      else viewFunction s h 0 o

/-- A word of BAR0 of a function of a host port that is UP. -/
def barWord (s : State) (h fn o : Nat) : Word := if fn = 0 then viewPf s h o else viewFunction s h fn o

/-- A word of BAR2 (R190): the doorbells read as 0. -/
def bar2Word (_s : State) (_h _fn _o : Nat) : Word := 0

/-- A word of HM BAR0. -/
def hmWord (s : State) (o : Nat) : Word :=
  if o < 0x30 then viewGcr s 4 o
  else if 0x100000 ≤ o ∧ o < 0x200000 then mirrorWord s (o - 0x100000)
  else 0

/-- The bytes that a read of `n` bytes of BAR0 returns (R360). -/
def barBytes (s : State) (h fn o n : Nat) : List Byte :=
  (List.range n).map (fun i => (leBytes 4 (barWord s h fn ((o + i) / 4 * 4)).toNat).getD ((o + i) % 4) 0)

/-! ### Writes (R9, R360) -/

/-- What a register holds in the bytes that a narrower write leaves alone; a bit that a written 1 acts on counts as 0. -/
def keptWord (t : RegTarget) (w : Nat) (s : State) : Word :=
  match t with
  | .router => 0
  | .hm => viewGcr s 4 w
  | .bar0 h fn =>
    let v := barWord s h fn w
    if fn = 0 ∧ w = 0x20034 then v &&& ~~~(0x100 : Word) else if fn = 0 ∧ w = 0x50000 then v &&& 0x7FFFFFFF else v

/-- Word `w` with the bytes that are written from `off` in place. -/
def mergeWord (old : Word) (w off : Nat) (bs : List Byte) : Word :=
  w32 (leNat ((List.range 4).map (fun i =>
    if off ≤ w + i ∧ w + i < off + bs.length then bs.getD (w + i - off) 0 else (leBytes 4 old.toNat).getD i 0)))

/-- A write of one register. -/
def wrWord (t : RegTarget) (w : Nat) (v : Word) (who : Requester) (s : State) : State :=
  match t with
  | .router => s
  | .hm => if w < 0x30 then ringReg 4 w v who s else s
  | .bar0 h fn => if fn = 0 then wrPf h w v who s else wrFunction h fn w v s

/-- A write of at most 8 aligned bytes: each register that it touches, at once (R360). One that misses the TOKEN of an LCK_CLAIM
claims nothing. -/
def wrPiece (t : RegTarget) (off : Nat) (bs : List Byte) (who : Requester) (s : State) : State :=
  (List.range ((off % 4 + bs.length + 3) / 4)).foldl (fun s i =>
    let w := off / 4 * 4 + 4 * i
    if 0x60000 ≤ w ∧ w < 0x68000 ∧ w % 16 = 8 ∧ w + 2 ≤ off then s
    else wrWord t w (mergeWord (keptWord t w s) w off bs) who s) s

/-- REGISTER_WRITE (R9, R360): router space and its mirrors ignore a direct write; a VF reaches only what every function has. An
access that is wider than 8 bytes or not aligned is performed in its pieces. -/
def effRegisterWrite (t : RegTarget) (off : Nat) (v : Word) (a : Access) (s : State) : State :=
  let write (s : State) : State :=
    (pieces a.size off (leBytes a.size (v.toNat + 2 ^ 32 * a.hi.toNat))).foldl (fun s p => wrPiece t p.1 p.2 a.who s) s
  match t with
  | .router => s
  | .hm => if s.pw.hmTrained then write s else s
  | .bar0 h fn => if (hport s h).st ≠ .up ∨ (hport s h).numVfs < fn then s else behind h a.who write s

end Sys2Proof.Machine
end

