-- ==== Sys2Proof/Machine/Settle.lean ====
section
/-! DEFINITION. What follows by itself from a command's effect: a change of the fenced set (R131, R444, R446), the loss of
the HBM interface (R27, R68, R294), a tree's lost child (R345), a host port that has become ready (R209), the work that
waited for a command to end (R219, R404, R414, R415), and what waits for room or for its turn at a host port (R40, R158, R261,
R279, R313). -/

namespace Sys2Proof.Machine

/-! ### The fence mask -/

/-- The fenced set, without work when no own bit is set. -/
def fencedNow (s : State) : BitVec 128 := if s.ev.own = 0 then 0 else fencedSet s

/-- The Bole `b` is cut from the Canopy by what enters the fenced set: itself, or the last of its modules (R18). -/
def cutOff (s : State) (enter : BitVec 128) (b : Nat) : Bool :=
  enter.getLsbD (uBole b) || (!boleLinked s b && (List.range 3).any (fun m => enter.getLsbD (uD2d (3 * b + m))))

/-- Crossbar indices that a change removes: ports, N ports of a Bole that is cut off, Crown ports (R131). -/
def removedPort (s : State) (enter : BitVec 128) (i : Nat) : Bool :=
  if i < 64 then enter.getLsbD i
  else if i < 68 then
    cutOff s enter ((i - 64) / 2) || enter.getLsbD (uHost (i - 64))
      || (List.range 4).any (fun e => enter.getLsbD (uEng ((i - 64) / 2) e))
  else if i = 68 then false
  else enter.getLsbD (uCrown (i - 69))

/-- The packet at an output whose input or output is removed: stomped where it has begun on an output that stays, dropped
where it has not. One that waits at a fenced network output is dropped by its flush (R130), and counted here. -/
def cutOutput (x : Nat → Bool) (o : Nat) (s : State) : State :=
  match (outp s o).busy with
  | none => s
  | some h =>
    if (outp s o).hold then
      if x o ∧ o < 64 then fenceDrop s
      else if x h.inp ∨ x o then fenceDrop (ungrant o s)
      else s
    else if x h.inp ∧ !x o then fenceDrop (stompOut o s)
    else s

/-- R131 for the packets that cross what is removed. Those queued at a fenced network output are dropped by its flush (R130). -/
def cutCrossing (x : Nat → Bool) (s : State) : State :=
  let hit (h : Held) : Bool := x h.inp || x h.out
  let n := (s.net.voq.filter hit).length
  let s := dropQueued (fun h => hit h && !(x h.out && decide (h.out < 64))) s
  let s := fenceDrops n s
  (List.range 73).foldl (fun s o => cutOutput x o s) s

/-- Every channel of a Bole's host ports loses the Canopy (R18, R243). -/
def boleLost (b : Nat) (s : State) : State :=
  (s.hs.chans.filter (fun e => boleOf (e.1 / 2 ^ 24) == b)).foldl (fun s e => canopyLost (e.1 / 2 ^ 24) (e.1 % 2 ^ 24) s) s

/-- Writes the completions of a host port that are committed, as far as its queues have room. -/
def flushComps (h : Nat) (s : State) : State :=
  (hport s h).comps.foldl (fun s c => writeComp h c.cq s) s

/-- The cause DOWN of the N ports of a Bole or host unit that is fenced (R172). -/
def downCauses (hs : List Nat) (s : State) : State := hs.foldl (fun s h => asdCause (64 + h) 0 s) s

/-- What a unit does as it enters the fenced set (R444). The replica of a Bough is to be refreshed when it leaves it (R101). -/
def enterFence (u : Nat) (s : State) : State :=
  if u < 64 then fencePort u s
  else if u < 80 then
    { s with net.boughs := Maps.upd {} s.net.boughs (u - 64) (fun b => { b with refreshing := false, stale := true }) }
  else if u < 84 then s
  else if u < 88 then breakTrees (fun s i => treeUnit s i == u - 84) 2 none s
  else if u < 92 then cleanPort (u - 88) (downCauses [u - 88] s)
  else if u < 100 then
    let b := (u - 92) / 4
    cleanPort (2 * b + 1) (cleanPort (2 * b) (downCauses [2 * b, 2 * b + 1] s))
  else if u = 102 then s
  else if u < 102 then
    let b := u - 100
    flushComps (2 * b + 1) (flushComps (2 * b) (boleLost b (downCauses [2 * b, 2 * b + 1] s)))
  else if u < 109 then
    let m := u - 103
    let b := m / 3
    let s := moduleOut m s
    if boleLinked s b then s else boleLost b (downCauses [2 * b, 2 * b + 1] s)
  else s

/-- What a unit does as it leaves the fenced set (R446). -/
def leaveFence (u : Nat) (s : State) : State :=
  if u < 64 then unfencePort u s
  else if u < 80 then
    let k := u - 64
    { s with net.boughs := Maps.upd {} s.net.boughs k (fun b => { b with refreshing := domOn s (dBough k), stale := true }) }
  else s

/-- The host ports that a change cleans up (R444). -/
def cleanedPorts (enter : BitVec 128) : List Nat :=
  (List.range 4).filter (fun h => enter.getLsbD (uHost h) || (List.range 4).any (fun e => enter.getLsbD (uEng (boleOf h) e)))

/-- The masters of several host ports are reset at once (R372). -/
def resetPorts (hs : List Nat) (s : State) : State :=
  if hs = [] then s
  else [0, 1].foldl (fun s b => resetMasters b (fun m => hs.contains (2 * b + m / 256)) s) s

/-- Units in the order in which a change acts on them: the Boles first, so that their work ends before their ports are
cleaned. -/
def fenceOrder : List Nat := [100, 101] ++ List.range 100 ++ (List.range 7).map (102 + ·)

/-- The fenced set changes. -/
def fenceStep (s : State) : State :=
  let new := fencedNow s
  let enter := new &&& ~~~ s.ev.fenced
  let leave := s.ev.fenced &&& ~~~ new
  let s := resetPorts (cleanedPorts enter) { s with ev.fenced := new }
  let s := cutCrossing (removedPort s enter) s
  let s := fenceOrder.foldl (fun s u => if enter.getLsbD u then enterFence u s else s) s
  fenceOrder.foldl (fun s u => if leave.getLsbD u then leaveFence u s else s) s

/-! ### The HBM interface -/

/-- Spill of a port must stop: the interface serves no more (R27, R68). -/
def spillFails (p : Port) : Bool :=
  (p.spill && decide (4096 < p.rp.window.length) && (p.st == .up || p.st == .grace)) || (p.spill && !p.spillStop)

/-- Ports that spill by configuration. -/
def spillPorts (s : State) : List Nat :=
  (s.stage.rws.filter (fun e => decide (0x01000000 ≤ e.1) && decide (e.1 < 0x01400000) && e.1 % 0x10000 == 0 && bitW e.2 6)).map
    (fun e => (e.1 - 0x01000000) / 0x10000)

/-- Ports whose spill is to start. -/
def spillIdle (s : State) : List Nat :=
  if (domain s dHbm).target = none then (spillPorts s).filter (fun n => !(port s n).spill || (port s n).spillStop) else []

/-- Host ports whose unexpected tier is lost. -/
def tierLost (s : State) : List Nat :=
  ((s.hs.unexp.filter (fun e => e.2.any (·.tier))).map (·.1)).filter (fun h => !(hport s h).lost)

def hbmDue (s : State) : Bool :=
  if hbmOk s then spillIdle s != [] else s.net.ports.any (fun e => spillFails e.2) || tierLost s != []

def hbmStep (s : State) : State :=
  if hbmOk s then (spillIdle s).foldl (fun s n => refreshSpill n s) s
  else
    let ns := (s.net.ports.filter (fun e => spillFails e.2)).map (·.1)
    let s := ns.foldl (fun s n => refreshSpill n (if hasSpilled s n then spillLost n s else s)) s
    (tierLost s).foldl (fun s h => matchLost h s) (endHeld s)

/-! ### Trees, host ports, and waiting work -/

/-- N ports that are children of ACTIVE contexts and are no longer usable (R345). -/
def lostChildren (s : State) : List Nat :=
  if s.trees = [] then [] else
  (List.range 4).filter (fun h => !nUsable s h
    && s.trees.any (fun e => e.2.st == 1 && (treeKids s e.1).contains (64 + h)))

/-- Host ports in NOT_READY whose engines are ON (R209). -/
def readyPorts (s : State) : List Nat :=
  ((s.hs.ports.filter (fun e => e.2.st == .notReady)).map (·.1)).filter
    (fun h => (List.range 4).all (fun e => domOn s (dEng (boleOf h) e)))

/-- Position of the first waiting request that need wait no longer (R404). -/
def runnable (s : State) : Option Nat :=
  if (s.mgmt.fw ≠ .running ∧ s.mgmt.fw ≠ .recovery) ∨ 64 ≤ s.mgmt.cmds.length then none
  else
    let ok (i : Nat) : Bool :=
      match s.mgmt.waitq[i]? with
      | some w => !s.mgmt.cmds.any (fun c => conflicts w.req c.req) && !(s.mgmt.waitq.take i).any (fun c => conflicts w.req c.req)
      | none => false
    (List.range s.mgmt.waitq.length).find? ok

/-- Runs a waiting request; one that goes on in execution keeps its number, and its PENDING reply is sent once (R408). -/
def runWaiting (s : State) : State :=
  match runnable s with
  | none => s
  | some i =>
    match s.mgmt.waitq[i]? with
    | none => s
    | some w =>
      let rest := s.mgmt.waitq.drop (i + 1)
      let n := s.mgmt.nextCmd
      let r := meetMem w.id { s with mgmt.waitq := s.mgmt.waitq.take i }
      let s := if r.2 then runGcp w.req r.1 else r.1
      let s := { s with mgmt.cmds := s.mgmt.cmds.map (fun c => if c.id = n then { c with id := w.id, pended := w.pended } else c) }
      if s.mgmt.fw = .restarting then s else { s with mgmt.waitq := s.mgmt.waitq ++ rest }

/-- Rings with a request to read. -/
def idleRings (s : State) : List Nat :=
  (s.mgmt.rings.map (·.1)).filter (fun i => ringServes s i && ringRoom s i && !(ring s i).reading && (ring s i).reqHead != (ring s i).reqTail)

/-- Host ports with an MR_INVALIDATE that waits for nothing more. -/
def endedMr (s : State) : List Nat :=
  (s.hs.ports.filter (fun e => e.2.jobs.any (fun j => j.begun && Job.opcode j == 0x53
    && !regionBusy s e.1 (fAt (Job.op j) 11 0 24)))).map (·.1)

/-- Host ports at which something goes on without anything new: a work request comes to issue, a held request may be sent, or
a client's need is there. -/
def portDue (s : State) (h : Nat) : Bool :=
  (headsOf s h).any (fun j => meterNow s h j || postStalls s h j) || dmaDue s h || (hport s h).waits.any (needDue s h) || slotDue s h
def duePorts (s : State) : List Nat := (s.hs.ports.map (·.1)).filter (portDue s)
def portStep (h : Nat) (s : State) : State :=
  askSlots h <| wakeNeeds h (if dmaDue s h then dmaDrain h (countStalls h (meterHeads h s)) else countStalls h (meterHeads h s))

/-- Queues, by host port and number, that a fetch without room has left behind (R196). -/
def dueFetches (s : State) : List (Nat × Nat) :=
  (s.hs.wqs.map (fun e => (e.1 / 2 ^ 20, e.1 % 2 ^ 20))).filter (fun x => fetchDue s x.1 x.2)

/-- Channels that can go on, by host port and number. -/
def dueChans (s : State) : List (Nat × Nat) :=
  (s.hs.chans.map (fun e => (e.1 / 2 ^ 24, e.1 % 2 ^ 24))).filter (fun x => chanDue s x.1 x.2)

/-! ### All of it -/

/-- Nothing follows by itself. -/
def stable (s : State) : Bool :=
  fencedNow s == s.ev.fenced && !hbmDue s && lostChildren s == [] && readyPorts s == [] && (runnable s).isNone
    && !(s.mgmt.i3cReqs != [] && i3cServes s) && idleRings s == [] && endedMr s == []
    && duePorts s == [] && dueChans s == [] && dueOutputs s == [] && dueFetches s == [] && !holdoverOver s && !aliveDue s

/-- One round of what follows. -/
def pass (s : State) : State :=
  let s := if fencedNow s = s.ev.fenced then s else fenceStep s
  let s := if hbmDue s then hbmStep s else s
  let s := (lostChildren s).foldl (fun s h => breakEdge (64 + h) s) s
  let s := (readyPorts s).foldl (fun s h => hostReady h s) s
  let s := (endedMr s).foldl (fun s h => endMrWaits h s) s
  let s := runWaiting s
  let s := takeI3c s
  let s := (duePorts s).foldl (fun s h => portStep h s) s
  let s := (dueChans s).foldl (fun s x => wakeChan x.1 x.2 s) s
  let s := (dueOutputs s).foldl (fun s o => effStoreFwdStart o s) s
  let s := (dueFetches s).foldl (fun s x => startFetch x.1 x.2 s) s
  let s := resumeAlive (endHoldover s)
  (idleRings s).foldl (fun s i => askRing i s) s

/-- Rounds until nothing follows. The bound is never the reason to stop in practice: each round ends a cause. -/
def settle : Nat → State → State
  | 0, s => s
  | n + 1, s => if stable s then s else settle n (pass s)

/-- The state after `t` and all that follows it; where the clocks have stopped, nothing follows (R460, R465). -/
def follows (t : State) : State := if t.pw.stopped then t else settle 512 t

/-- A command's effect with what follows. -/
def settled (f : State → State) (s : State) : State := follows (f s)

/-- The same, for a command that needs the clocks. -/
def whileClocked (f : State → State) (s : State) : State := if s.pw.stopped then s else settled f s

end Sys2Proof.Machine
end

