-- ==== Sys2Proof/Machine/Exec.lean ====
section
/-! DEFINITION. The meaning of every command: its effect, then what follows by itself. A command that needs the clocks has no
effect while they have stopped (R460, R465). -/

namespace Sys2Proof.Machine

/-- GET_IDENTITY: R410. -/
def execGetIdentity (r : GcpReq) (s : State) : Host.Outcome State Fault Refusal :=
  .next (whileClocked (effGetIdentity r) s)

/-- GET_STATUS: R410. -/
def execGetStatus (r : GcpReq) (s : State) : Host.Outcome State Fault Refusal :=
  .next (whileClocked (effGetStatus r) s)

/-- ECHO: R410. -/
def execEcho (r : GcpReq) (s : State) : Host.Outcome State Fault Refusal :=
  .next (whileClocked (effEcho r) s)

/-- ALLOW_SET: R417. -/
def execAllowSet (r : GcpReq) (s : State) : Host.Outcome State Fault Refusal :=
  .next (whileClocked (effAllowSet r) s)

/-- EVENT_DEST_SET: R418. -/
def execEventDestSet (r : GcpReq) (s : State) : Host.Outcome State Fault Refusal :=
  .next (whileClocked (effEventDestSet r) s)

/-- STAGE_WRITE: R420. -/
def execStageWrite (r : GcpReq) (s : State) : Host.Outcome State Fault Refusal :=
  .next (whileClocked (effStageWrite r) s)

/-- STAGE_READ: R420. -/
def execStageRead (r : GcpReq) (s : State) : Host.Outcome State Fault Refusal :=
  .next (whileClocked (effStageRead r) s)

/-- STAGE_DISCARD: R424. -/
def execStageDiscard (r : GcpReq) (s : State) : Host.Outcome State Fault Refusal :=
  .next (whileClocked (effStageDiscard r) s)

/-- CHECK: R421. -/
def execCheck (r : GcpReq) (s : State) : Host.Outcome State Fault Refusal :=
  .next (whileClocked (effCheck r) s)

/-- COMMIT: R422. -/
def execCommit (r : GcpReq) (s : State) : Host.Outcome State Fault Refusal :=
  .next (whileClocked (effCommit r) s)

/-- COMMIT_AT: R423. -/
def execCommitAt (r : GcpReq) (s : State) : Host.Outcome State Fault Refusal :=
  .next (whileClocked (effCommitAt r) s)

/-- GET_EPOCH: R425. -/
def execGetEpoch (r : GcpReq) (s : State) : Host.Outcome State Fault Refusal :=
  .next (whileClocked (effGetEpoch r) s)

/-- COMMIT_ABORT: R423. -/
def execCommitAbort (r : GcpReq) (s : State) : Host.Outcome State Fault Refusal :=
  .next (whileClocked (effCommitAbort r) s)

/-- BULK_LOAD: R432. -/
def execBulkLoad (r : GcpReq) (s : State) : Host.Outcome State Fault Refusal :=
  .next (whileClocked (effBulkLoad r) s)

/-- BULK_STAGE: R432. -/
def execBulkStage (r : GcpReq) (s : State) : Host.Outcome State Fault Refusal :=
  .next (whileClocked (effBulkStage r) s)

/-- BULK_STAGE_DONE: R432. -/
def execBulkStageDone (s : State) : Host.Outcome State Fault Refusal :=
  .next (whileClocked (effBulkStageDone) s)

/-- BULK_READ: R432. -/
def execBulkRead (r : GcpReq) (s : State) : Host.Outcome State Fault Refusal :=
  .next (whileClocked (effBulkRead r) s)

/-- PORT_ENABLE: R411. -/
def execPortEnable (r : GcpReq) (s : State) : Host.Outcome State Fault Refusal :=
  .next (whileClocked (effPortEnable r) s)

/-- PORT_DISABLE: R411. -/
def execPortDisable (r : GcpReq) (s : State) : Host.Outcome State Fault Refusal :=
  .next (whileClocked (effPortDisable r) s)

/-- PORT_TRAIN: R411. -/
def execPortTrain (r : GcpReq) (s : State) : Host.Outcome State Fault Refusal :=
  .next (whileClocked (effPortTrain r) s)

/-- PORT_WIDTH: R74. -/
def execPortWidth (r : GcpReq) (s : State) : Host.Outcome State Fault Refusal :=
  .next (whileClocked (effPortWidth r) s)

/-- PORT_STATUS: R411. -/
def execPortStatus (r : GcpReq) (s : State) : Host.Outcome State Fault Refusal :=
  .next (whileClocked (effPortStatus r) s)

/-- PWR_SET: R456. -/
def execPwrSet (r : GcpReq) (s : State) : Host.Outcome State Fault Refusal :=
  .next (whileClocked (effPwrSet r) s)

/-- POWER_TRANSITION_DONE: R456. -/
def execPowerTransitionDone (d : Nat) (s : State) : Host.Outcome State Fault Refusal :=
  .next (whileClocked (effPowerTransitionDone d) s)

/-- POWER_TRANSITION_TIMEOUT: R456. -/
def execPowerTransitionTimeout (d : Nat) (s : State) : Host.Outcome State Fault Refusal :=
  .next (whileClocked (effPowerTransitionTimeout d) s)

/-- PWR_GET: R410. -/
def execPwrGet (r : GcpReq) (s : State) : Host.Outcome State Fault Refusal :=
  .next (whileClocked (effPwrGet r) s)

/-- TIME_GET: R410. -/
def execTimeGet (r : GcpReq) (s : State) : Host.Outcome State Fault Refusal :=
  .next (whileClocked (effTimeGet r) s)

/-- TIME_SET: R426. -/
def execTimeSet (r : GcpReq) (s : State) : Host.Outcome State Fault Refusal :=
  .next (whileClocked (effTimeSet r) s)

/-- TREE_CREATE: R320. -/
def execTreeCreate (r : GcpReq) (s : State) : Host.Outcome State Fault Refusal :=
  .next (whileClocked (effTreeCreate r) s)

/-- TREE_DESTROY: R320. -/
def execTreeDestroy (r : GcpReq) (s : State) : Host.Outcome State Fault Refusal :=
  .next (whileClocked (effTreeDestroy r) s)

/-- TREE_STATUS: R410. -/
def execTreeStatus (r : GcpReq) (s : State) : Host.Outcome State Fault Refusal :=
  .next (whileClocked (effTreeStatus r) s)

/-- RESV_WRITE: R153. -/
def execResvWrite (r : GcpReq) (s : State) : Host.Outcome State Fault Refusal :=
  .next (whileClocked (effResvWrite r) s)

/-- RESV_READ: R153. -/
def execResvRead (r : GcpReq) (s : State) : Host.Outcome State Fault Refusal :=
  .next (whileClocked (effResvRead r) s)

/-- FENCE: R442. -/
def execFence (r : GcpReq) (s : State) : Host.Outcome State Fault Refusal :=
  .next (whileClocked (effFence r) s)

/-- UNFENCE: R446. -/
def execUnfence (r : GcpReq) (s : State) : Host.Outcome State Fault Refusal :=
  .next (whileClocked (effUnfence r) s)

/-- EVENT_CFG: R442. -/
def execEventCfg (r : GcpReq) (s : State) : Host.Outcome State Fault Refusal :=
  .next (whileClocked (effEventCfg r) s)

/-- EVENT_READ: R442. -/
def execEventRead (r : GcpReq) (s : State) : Host.Outcome State Fault Refusal :=
  .next (whileClocked (effEventRead r) s)

/-- EVENT_CLEAR: R442. -/
def execEventClear (r : GcpReq) (s : State) : Host.Outcome State Fault Refusal :=
  .next (whileClocked (effEventClear r) s)

/-- SPDM_MSG: R413. -/
def execSpdmMsg (r : GcpReq) (msg : Spdm) (s : State) : Host.Outcome State Fault Refusal :=
  .next (whileClocked (effSpdmMsg r msg) s)

/-- LINK_KEY_INSTALL: R386. -/
def execLinkKeyInstall (r : GcpReq) (s : State) : Host.Outcome State Fault Refusal :=
  .next (whileClocked (effLinkKeyInstall r) s)

/-- LINK_KEY_CLEAR: R386. -/
def execLinkKeyClear (r : GcpReq) (s : State) : Host.Outcome State Fault Refusal :=
  .next (whileClocked (effLinkKeyClear r) s)

/-- ALARM_POLICY: R397. -/
def execAlarmPolicy (r : GcpReq) (s : State) : Host.Outcome State Fault Refusal :=
  .next (whileClocked (effAlarmPolicy r) s)

/-- ZEROIZE: R398. -/
def execZeroize (r : GcpReq) (s : State) : Host.Outcome State Fault Refusal :=
  .next (whileClocked (effZeroize r) s)

/-- ZEROIZATION_DONE: R398. -/
def execZeroizationDone (s : State) : Host.Outcome State Fault Refusal :=
  .next (whileClocked (effZeroizationDone) s)

/-- FW_BEGIN: R429. -/
def execFwBegin (r : GcpReq) (s : State) : Host.Outcome State Fault Refusal :=
  .next (whileClocked (effFwBegin r) s)

/-- FW_ERASE_DONE: R429. -/
def execFwEraseDone (ok : Bool) (s : State) : Host.Outcome State Fault Refusal :=
  .next (whileClocked (effFwEraseDone ok) s)

/-- FW_WRITE: R429. -/
def execFwWrite (r : GcpReq) (s : State) : Host.Outcome State Fault Refusal :=
  .next (whileClocked (effFwWrite r) s)

/-- FW_VERIFY: R429. -/
def execFwVerify (r : GcpReq) (s : State) : Host.Outcome State Fault Refusal :=
  .next (whileClocked (effFwVerify r) s)

/-- FW_RESTART: R430. -/
def execFwRestart (r : GcpReq) (s : State) : Host.Outcome State Fault Refusal :=
  .next (whileClocked (effFwRestart r) s)

/-- CONTROLLER_RESTART_DONE: R430. -/
def execControllerRestartDone (s : State) : Host.Outcome State Fault Refusal :=
  .next (whileClocked (effControllerRestartDone) s)

/-- FW_PROMOTE: R429. -/
def execFwPromote (r : GcpReq) (s : State) : Host.Outcome State Fault Refusal :=
  .next (whileClocked (effFwPromote r) s)

/-- FW_PROMOTE_DONE: R429. -/
def execFwPromoteDone (ok : Bool) (s : State) : Host.Outcome State Fault Refusal :=
  .next (whileClocked (effFwPromoteDone ok) s)

/-- FW_RAISE_MIN_SVN: R429. -/
def execFwRaiseMinSvn (r : GcpReq) (s : State) : Host.Outcome State Fault Refusal :=
  .next (whileClocked (effFwRaiseMinSvn r) s)

/-- TEL_LIVE_READ: R431. -/
def execTelLiveRead (r : GcpReq) (s : State) : Host.Outcome State Fault Refusal :=
  .next (whileClocked (effTelLiveRead r) s)

/-- MAP_READ: R431. -/
def execMapRead (r : GcpReq) (s : State) : Host.Outcome State Fault Refusal :=
  .next (whileClocked (effMapRead r) s)

/-- HIST_READ: R431. -/
def execHistRead (r : GcpReq) (s : State) : Host.Outcome State Fault Refusal :=
  .next (whileClocked (effHistRead r) s)

/-- LOCK_MODE: R368. -/
def execLockMode (r : GcpReq) (s : State) : Host.Outcome State Fault Refusal :=
  .next (whileClocked (effLockMode r) s)

/-- LOCK_RIGHTS: R368. -/
def execLockRights (r : GcpReq) (s : State) : Host.Outcome State Fault Refusal :=
  .next (whileClocked (effLockRights r) s)

/-- GRAFT_QUARANTINE: R468. -/
def execGraftQuarantine (r : GcpReq) (s : State) : Host.Outcome State Fault Refusal :=
  .next (whileClocked (effGraftQuarantine r) s)

/-- GRAFT_ADMIT: R468. -/
def execGraftAdmit (r : GcpReq) (s : State) : Host.Outcome State Fault Refusal :=
  .next (whileClocked (effGraftAdmit r) s)

/-- GRAFT_ABORT: R468. -/
def execGraftAbort (r : GcpReq) (s : State) : Host.Outcome State Fault Refusal :=
  .next (whileClocked (effGraftAbort r) s)

/-- GRAFT_ADMIT_APPLY: R468. -/
def execGraftAdmitApply (s : State) : Host.Outcome State Fault Refusal :=
  .next (whileClocked (effGraftAdmitApply) s)

/-- GRAFT_STATUS: R469. -/
def execGraftStatus (r : GcpReq) (s : State) : Host.Outcome State Fault Refusal :=
  .next (whileClocked (effGraftStatus r) s)

/-- PRUNE_DRAIN: R471. -/
def execPruneDrain (r : GcpReq) (s : State) : Host.Outcome State Fault Refusal :=
  .next (whileClocked (effPruneDrain r) s)

/-- PRUNE_REMOVE: R471. -/
def execPruneRemove (r : GcpReq) (s : State) : Host.Outcome State Fault Refusal :=
  .next (whileClocked (effPruneRemove r) s)

/-- PRUNE_ABORT: R471. -/
def execPruneAbort (r : GcpReq) (s : State) : Host.Outcome State Fault Refusal :=
  .next (whileClocked (effPruneAbort r) s)

/-- PRUNE_DRAIN_APPLY: R471. -/
def execPruneDrainApply (s : State) : Host.Outcome State Fault Refusal :=
  .next (whileClocked (effPruneDrainApply) s)

/-- PRUNE_REMOVE_APPLY: R471. -/
def execPruneRemoveApply (s : State) : Host.Outcome State Fault Refusal :=
  .next (whileClocked (effPruneRemoveApply) s)

/-- PORT_DRAINED: R471. -/
def execPortDrained (p : Nat) (s : State) : Host.Outcome State Fault Refusal :=
  .next (whileClocked (effPortDrained p) s)

/-- PRUNE_DRAIN_TIMEOUT: R471. -/
def execPruneDrainTimeout (s : State) : Host.Outcome State Fault Refusal :=
  .next (whileClocked (effPruneDrainTimeout) s)

/-- PRUNE_STATUS: R472. -/
def execPruneStatus (r : GcpReq) (s : State) : Host.Outcome State Fault Refusal :=
  .next (whileClocked (effPruneStatus r) s)

/-- TEST_UNLOCK: R450. -/
def execTestUnlock (r : GcpReq) (s : State) : Host.Outcome State Fault Refusal :=
  .next (whileClocked (effTestUnlock r) s)

/-- FAULT_INJECT: R450. -/
def execFaultInject (r : GcpReq) (s : State) : Host.Outcome State Fault Refusal :=
  .next (whileClocked (effFaultInject r) s)

/-- COMMAND_PENDING_REPLY: R408. -/
def execCommandPendingReply (id : Nat) (s : State) : Host.Outcome State Fault Refusal :=
  .next (whileClocked (effCommandPendingReply id) s)

/-- GCR_REQ_TAIL: R414. -/
def execGcrReqTail (ring : Nat) (v : Word) (s : State) (who : Requester := {}) : Host.Outcome State Fault Refusal :=
  .next (whileClocked (behind ring who (effGcrReqTail ring v who)) s)

/-- GCR_REQ_CFG_ENABLE: R414. -/
def execGcrReqCfgEnable (ring : Nat) (v : Word) (s : State) (who : Requester := {}) : Host.Outcome State Fault Refusal :=
  .next (whileClocked (behind ring who (effGcrReqCfgEnable ring v who)) s)

/-- GCR_RPL_CFG_ENABLE: R414. -/
def execGcrRplCfgEnable (ring : Nat) (v : Word) (s : State) (who : Requester := {}) : Host.Outcome State Fault Refusal :=
  .next (whileClocked (behind ring who (effGcrRplCfgEnable ring v who)) s)

/-- GCR_RPL_HEAD: R414. -/
def execGcrRplHead (ring : Nat) (v : Word) (s : State) (who : Requester := {}) : Host.Outcome State Fault Refusal :=
  .next (whileClocked (behind ring who (effGcrRplHead ring v who)) s)

/-- GCP_REQUEST_READ_DONE: R404. -/
def execGcpRequestReadDone (ring : Nat) (req : Option (List Word)) (data : Option (List Word)) (s : State) : Host.Outcome State Fault Refusal :=
  .next (whileClocked (effGcpRequestReadDone ring req data) s)

/-- I3C_PRIVATE_WRITE: R415. -/
def execI3cPrivateWrite (bytes : List Byte) (s : State) : Host.Outcome State Fault Refusal :=
  .next (whileClocked (effI3cPrivateWrite bytes) s)

/-- I3C_PRIVATE_READ: R415. -/
def execI3cPrivateRead (s : State) : Host.Outcome State Fault Refusal :=
  .next (whileClocked (effI3cPrivateRead) s)

/-- GCP_REQ: R417. -/
def execGcpReq (pkt : Packet) (s : State) : Host.Outcome State Fault Refusal :=
  .next (whileClocked (effGcpReq pkt) s)

/-- GCP_EVENT_REPEAT: R418. -/
def execGcpEventRepeat (s : State) : Host.Outcome State Fault Refusal :=
  .next (whileClocked (effGcpEventRepeat) s)

/-- FAULT_N_RELEASE: R449. -/
def execFaultNRelease (s : State) : Host.Outcome State Fault Refusal :=
  .next (settled (effFaultNRelease) s)

/-- HW_WDOG_EXPIRE: R448. -/
def execHwWdogExpire (s : State) : Host.Outcome State Fault Refusal :=
  .next (whileClocked (effHwWdogExpire) s)

/-- FW_HEARTBEAT_MISS: R448. -/
def execFwHeartbeatMiss (s : State) : Host.Outcome State Fault Refusal :=
  .next (whileClocked (effFwHeartbeatMiss) s)

/-- POR: R461. -/
def execPor (s : State) : Host.Outcome State Fault Refusal :=
  .next (settled (effPor) s)

/-- BOOT: R463. -/
def execBoot (roleSel : Nat) (testMode : Bool) (i3cAddr : Nat) (s : State) : Host.Outcome State Fault Refusal :=
  .next (settled (effBoot roleSel testMode i3cAddr) s)

/-- TAPROOT_LOCKED: R459. -/
def execTaprootLocked (s : State) : Host.Outcome State Fault Refusal :=
  .next (settled (effTaprootLocked) s)

/-- REFCLK_LOSS: R460. -/
def execRefclkLoss (s : State) (c : RefClock := .refclk) (back : Bool := false) : Host.Outcome State Fault Refusal :=
  .next (settled (effRefclkLoss c back) s)

/-- TAPROOT_UNLOCK: R460. -/
def execTaprootUnlock (s : State) : Host.Outcome State Fault Refusal :=
  .next (settled (effTaprootUnlock) s)

/-- BOLE_PLL_UNLOCK: R460. -/
def execBolePllUnlock (b : Nat) (s : State) : Host.Outcome State Fault Refusal :=
  .next (settled (effBolePllUnlock b) s)

/-- BOLE_PLL_RELOCK: R460. -/
def execBolePllRelock (b : Nat) (s : State) : Host.Outcome State Fault Refusal :=
  .next (settled (effBolePllRelock b) s)

/-- SUPPLY_FAULT: R482. -/
def execSupplyFault (u : Supply) (s : State) : Host.Outcome State Fault Refusal :=
  .next (settled (effSupplyFault u) s)

/-- VOLT_GLITCH: R395. -/
def execVoltGlitch (s : State) (u : Supply := .core) : Host.Outcome State Fault Refusal :=
  .next (settled (effVoltGlitch u) s)

/-- CLK_GLITCH: R395. -/
def execClkGlitch (s : State) : Host.Outcome State Fault Refusal :=
  .next (settled (effClkGlitch) s)

/-- TAMPER: R395. -/
def execTamper (k : Nat) (s : State) : Host.Outcome State Fault Refusal :=
  .next (settled (effTamper k) s)

/-- SENSOR_SAMPLE: R464. -/
def execSensorSample (temps : List (Option Int)) (s : State) : Host.Outcome State Fault Refusal :=
  .next (settled (effSensorSample temps) s)

/-- POWER_ESTIMATE: R466. -/
def execPowerEstimate (watts : Nat) (s : State) : Host.Outcome State Fault Refusal :=
  .next (settled (effPowerEstimate watts) s)

/-- HM_PERST_DEASSERT: R23. -/
def execHmPerstDeassert (s : State) : Host.Outcome State Fault Refusal :=
  .next (settled (effHmPerstDeassert) s)

/-- D2D_TRAIN_DONE: R15. -/
def execD2dTrainDone (m : Nat) (repaired : Bool) (s : State) : Host.Outcome State Fault Refusal :=
  .next (whileClocked (effD2dTrainDone m repaired) s)

/-- D2D_MODULE_DOWN: R19. -/
def execD2dModuleDown (m : Nat) (s : State) : Host.Outcome State Fault Refusal :=
  .next (whileClocked (effD2dModuleDown m) s)

/-- D2D_IDENT_MOVE: R17. -/
def execD2dIdentMove (m ident lost : Nat) (s : State) : Host.Outcome State Fault Refusal :=
  .next (whileClocked (effD2dIdentMove m ident lost) s)

/-- HBM_ECC_UNCORR: R26. -/
def execHbmEccUncorr (c : Nat) (victim : HbmVictim) (s : State) : Host.Outcome State Fault Refusal :=
  .next (whileClocked (effHbmEccUncorr c victim) s)

/-- GROUP_RECEIVE: R51. -/
def execGroupReceive (p : Nat) (line : List Nat) (s : State) : Host.Outcome State Fault Refusal :=
  .next (whileClocked (effGroupReceive p line) s)

/-- GROUP_TRANSMIT: R49. -/
def execGroupTransmit (p : Nat) (s : State) : Host.Outcome State Fault Refusal :=
  .next (whileClocked (effGroupTransmit p) s)

/-- TRAINING_DONE: R69. -/
def execTrainingDone (p : Nat) (s : State) : Host.Outcome State Fault Refusal :=
  .next (whileClocked (effTrainingDone p) s)

/-- TRAIN_TIMEOUT: R69. -/
def execTrainTimeout (p : Nat) (s : State) : Host.Outcome State Fault Refusal :=
  .next (whileClocked (effTrainTimeout p) s)

/-- LOCK_TIMEOUT: R69. -/
def execLockTimeout (p : Nat) (s : State) : Host.Outcome State Fault Refusal :=
  .next (whileClocked (effLockTimeout p) s)

/-- QUICK_RETRAIN_FAIL: R69. -/
def execQuickRetrainFail (p : Nat) (s : State) : Host.Outcome State Fault Refusal :=
  .next (whileClocked (effQuickRetrainFail p) s)

/-- GRACE_EXPIRE: R72. -/
def execGraceExpire (p : Nat) (s : State) : Host.Outcome State Fault Refusal :=
  .next (whileClocked (effGraceExpire p) s)

/-- REPLAY_TIMEOUT: R63. -/
def execReplayTimeout (p : Nat) (s : State) : Host.Outcome State Fault Refusal :=
  .next (whileClocked (effReplayTimeout p) s)

/-- WIDTH_REQ_RESEND: R76. -/
def execWidthReqResend (p : Nat) (s : State) : Host.Outcome State Fault Refusal :=
  .next (whileClocked (effWidthReqResend p) s)

/-- WIDTH_SWITCH: R75. -/
def execWidthSwitch (p : Nat) (s : State) : Host.Outcome State Fault Refusal :=
  .next (whileClocked (effWidthSwitch p) s)

/-- WIDTH_RELOCK_TIMEOUT: R75. -/
def execWidthRelockTimeout (p : Nat) (s : State) : Host.Outcome State Fault Refusal :=
  .next (whileClocked (effWidthRelockTimeout p) s)

/-- LANE_DEGRADE: R78. -/
def execLaneDegrade (p lane : Nat) (s : State) : Host.Outcome State Fault Refusal :=
  .next (whileClocked (effLaneDegrade p lane) s)

/-- TIME_EXCHANGE_TIMER: R84. -/
def execTimeExchangeTimer (p : Nat) (s : State) : Host.Outcome State Fault Refusal :=
  .next (whileClocked (effTimeExchangeTimer p) s)

/-- IDENT_TIMER: R83. -/
def execIdentTimer (p : Nat) (s : State) : Host.Outcome State Fault Refusal :=
  .next (whileClocked (effIdentTimer p) s)

/-- GOSSIP_TIMER: R86. -/
def execGossipTimer (p : Nat) (s : State) : Host.Outcome State Fault Refusal :=
  .next (whileClocked (effGossipTimer p) s)

/-- KEY_SWITCH: R387. -/
def execKeySwitch (p : Nat) (s : State) : Host.Outcome State Fault Refusal :=
  .next (whileClocked (effKeySwitch p) s)

/-- SPILL_STOP_DONE: R68. -/
def execSpillStopDone (p : Nat) (s : State) : Host.Outcome State Fault Refusal :=
  .next (whileClocked (effSpillStopDone p) s)

/-- TIME_FOLLOW_TIMEOUT: R427. -/
def execTimeFollowTimeout (s : State) : Host.Outcome State Fault Refusal :=
  .next (whileClocked (effTimeFollowTimeout) s)

/-- PPS_IN_EDGE: R426. -/
def execPpsInEdge (s : State) : Host.Outcome State Fault Refusal :=
  .next (whileClocked (effPpsInEdge) s)

/-- PPS_TIMEOUT: R427. -/
def execPpsTimeout (s : State) : Host.Outcome State Fault Refusal :=
  .next (whileClocked (effPpsTimeout) s)

/-- PPS_OUT_EDGE: R428. -/
def execPpsOutEdge (s : State) : Host.Outcome State Fault Refusal :=
  .next (whileClocked (effPpsOutEdge) s)

/-- PACKET_ARRIVE: R497. -/
def execPacketArrive (inport : Nat) (pkt : Packet) (s : State) : Host.Outcome State Fault Refusal :=
  .next (whileClocked (effPacketArrive inport pkt) s)

/-- OUTPUT_GRANT: R132. -/
def execOutputGrant (o : Nat) (s : State) : Host.Outcome State Fault Refusal :=
  .next (whileClocked (effOutputGrant o) s)

/-- STORE_FWD_START: R128. -/
def execStoreFwdStart (o : Nat) (s : State) : Host.Outcome State Fault Refusal :=
  .next (whileClocked (effStoreFwdStart o) s)

/-- TELEMETRY_PERIOD_END: R146. -/
def execTelemetryPeriodEnd (s : State) : Host.Outcome State Fault Refusal :=
  .next (whileClocked (effTelemetryPeriodEnd) s)

/-- EPOCH_SWAP: R114. -/
def execEpochSwap (s : State) : Host.Outcome State Fault Refusal :=
  .next (whileClocked (effEpochSwap) s)

/-- DRAIN_DONE: R116. -/
def execDrainDone (s : State) : Host.Outcome State Fault Refusal :=
  .next (whileClocked (effDrainDone) s)

/-- BANK_COPY_DONE: R114. -/
def execBankCopyDone (s : State) : Host.Outcome State Fault Refusal :=
  .next (whileClocked (effBankCopyDone) s)

/-- REPLICA_REFRESH_DONE: R101. -/
def execReplicaRefreshDone (k : Nat) (s : State) : Host.Outcome State Fault Refusal :=
  .next (whileClocked (effReplicaRefreshDone k) s)

/-- WQ_TAIL: R193. -/
def execWqTail (h fn addr size : Nat) (v : DbWrite) (s : State) : Host.Outcome State Fault Refusal :=
  .next (whileClocked (effWqTail h fn addr size v) s)

/-- CQ_HEAD: R203. -/
def execCqHead (h fn addr size : Nat) (v : DbWrite) (s : State) : Host.Outcome State Fault Refusal :=
  .next (whileClocked (effCqHead h fn addr size v) s)

/-- CQ_ARM: R208. -/
def execCqArm (h fn addr size : Nat) (v : DbWrite) (s : State) : Host.Outcome State Fault Refusal :=
  .next (whileClocked (effCqArm h fn addr size v) s)

/-- WQE_FETCH_DONE: R193. -/
def execWqeFetchDone (h q : Nat) (ents : Option (List (List Word))) (s : State) : Host.Outcome State Fault Refusal :=
  .next (whileClocked (effWqeFetchDone h q ents) s)

/-- WQE_REFETCH: R194. -/
def execWqeRefetch (h q : Nat) (ent : Option (List Word)) (s : State) : Host.Outcome State Fault Refusal :=
  .next (whileClocked (effWqeRefetch h q ent) s)

/-- JOB_ISSUE: R196. -/
def execJobIssue (h : Nat) (s : State) : Host.Outcome State Fault Refusal :=
  .next (whileClocked (effJobIssue h) s)

/-- ASSURED_WAIT_REMETER: R158. -/
def execAssuredWaitRemeter (h q : Nat) (s : State) : Host.Outcome State Fault Refusal :=
  .next (whileClocked (effAssuredWaitRemeter h q) s)

/-- COMPLETION_WRITE: R203. -/
def execCompletionWrite (h cq : Nat) (s : State) : Host.Outcome State Fault Refusal :=
  .next (whileClocked (effCompletionWrite h cq) s)

/-- HEAD_WRITEBACK_TIMER: R195. -/
def execHeadWritebackTimer (h q : Nat) (s : State) : Host.Outcome State Fault Refusal :=
  .next (whileClocked (effHeadWritebackTimer h q) s)

/-- CQ_COAL_TIMER: R208. -/
def execCqCoalTimer (h cq : Nat) (s : State) : Host.Outcome State Fault Refusal :=
  .next (whileClocked (effCqCoalTimer h cq) s)

/-- QUEUE_DRAIN_DONE: R183. -/
def execQueueDrainDone (h q : Nat) (s : State) : Host.Outcome State Fault Refusal :=
  .next (whileClocked (effQueueDrainDone h q) s)

/-- NOP: R188. -/
def execNop (h q : Nat) (ix : Word) (s : State) : Host.Outcome State Fault Refusal :=
  .next (whileClocked (effNop h q ix) s)

/-- FENCE_JOB: R205. -/
def execFenceJob (h q : Nat) (ix : Word) (s : State) : Host.Outcome State Fault Refusal :=
  .next (whileClocked (effFenceJob h q ix) s)

/-- CANCEL: R207. -/
def execCancel (h q : Nat) (ix : Word) (s : State) : Host.Outcome State Fault Refusal :=
  .next (whileClocked (effCancel h q ix) s)

/-- QUEUE_CREATE: R184. -/
def execQueueCreate (h q : Nat) (ix : Word) (m : HostView) (s : State) : Host.Outcome State Fault Refusal :=
  .next (whileClocked (effQueueCreate h q ix m) s)

/-- QUEUE_MODIFY: R183. -/
def execQueueModify (h q : Nat) (ix : Word) (s : State) : Host.Outcome State Fault Refusal :=
  .next (whileClocked (effQueueModify h q ix) s)

/-- QUEUE_DESTROY: R183. -/
def execQueueDestroy (h q : Nat) (ix : Word) (s : State) : Host.Outcome State Fault Refusal :=
  .next (whileClocked (effQueueDestroy h q ix) s)

/-- CQ_CREATE: R185. -/
def execCqCreate (h q : Nat) (ix : Word) (m : HostView) (s : State) : Host.Outcome State Fault Refusal :=
  .next (whileClocked (effCqCreate h q ix m) s)

/-- CQ_DESTROY: R188. -/
def execCqDestroy (h q : Nat) (ix : Word) (s : State) : Host.Outcome State Fault Refusal :=
  .next (whileClocked (effCqDestroy h q ix) s)

/-- QMG_PQ_CFG_ENABLE: R212. -/
def execQmgPqCfgEnable (h : Nat) (v : Word) (s : State) (who : Requester := {}) : Host.Outcome State Fault Refusal :=
  .next (whileClocked (behind h who (effQmgPqCfgEnable h v)) s)

/-- QMG_PCQ_CFG_ENABLE: R212. -/
def execQmgPcqCfgEnable (h : Nat) (v : Word) (s : State) (who : Requester := {}) : Host.Outcome State Fault Refusal :=
  .next (whileClocked (behind h who (effQmgPcqCfgEnable h v)) s)

/-- PERST_ASSERT: R209. -/
def execPerstAssert (h : Nat) (s : State) : Host.Outcome State Fault Refusal :=
  .next (settled (effPerstAssert h) s)

/-- PERST_DEASSERT: R209. -/
def execPerstDeassert (h : Nat) (s : State) : Host.Outcome State Fault Refusal :=
  .next (settled (effPerstDeassert h) s)

/-- HOST_LINK_UP: R209. -/
def execHostLinkUp (h rate width : Nat) (s : State) : Host.Outcome State Fault Refusal :=
  .next (whileClocked (effHostLinkUp h rate width) s)

/-- HOST_LINK_DOWN: R209. -/
def execHostLinkDown (h : Nat) (hotReset : Bool) (s : State) : Host.Outcome State Fault Refusal :=
  .next (whileClocked (effHostLinkDown h hotReset) s)

/-- HOST_CLEANUP_DONE: R209. -/
def execHostCleanupDone (h : Nat) (s : State) : Host.Outcome State Fault Refusal :=
  .next (whileClocked (effHostCleanupDone h) s)

/-- FLR: R211. -/
def execFlr (h fn : Nat) (vfs : Bool) (s : State) : Host.Outcome State Fault Refusal :=
  .next (whileClocked (effFlr h fn vfs) s)

/-- HOST_DMA_READ_DONE: R213. -/
def execHostDmaReadDone (h id : Nat) (m : HostView) (s : State) : Host.Outcome State Fault Refusal :=
  .next (whileClocked (effHostDmaReadDone h id m) s)

/-- XCTX_CREATE: R220. -/
def execXctxCreate (h q : Nat) (ix : Word) (m : HostView) (s : State) : Host.Outcome State Fault Refusal :=
  .next (whileClocked (effXctxCreate h q ix m) s)

/-- XCTX_DESTROY: R219. -/
def execXctxDestroy (h q : Nat) (ix : Word) (s : State) : Host.Outcome State Fault Refusal :=
  .next (whileClocked (effXctxDestroy h q ix) s)

/-- MR_REGISTER: R219. -/
def execMrRegister (h q : Nat) (ix : Word) (m : HostView) (s : State) : Host.Outcome State Fault Refusal :=
  .next (whileClocked (effMrRegister h q ix m) s)

/-- MR_INVALIDATE: R219. -/
def execMrInvalidate (h q : Nat) (ix : Word) (s : State) : Host.Outcome State Fault Refusal :=
  .next (whileClocked (effMrInvalidate h q ix) s)

/-- INVALIDATE: R229. -/
def execInvalidate (h q : Nat) (ix : Word) (s : State) : Host.Outcome State Fault Refusal :=
  .next (whileClocked (effInvalidate h q ix) s)

/-- INVALIDATION_DONE: R231. -/
def execInvalidationDone (b id : Nat) (s : State) : Host.Outcome State Fault Refusal :=
  .next (whileClocked (effInvalidationDone b id) s)

/-- XINV: R233. -/
def execXinv (b : Nat) (pkt : Packet) (s : State) : Host.Outcome State Fault Refusal :=
  .next (whileClocked (effXinv b pkt) s)

/-- XINV_ACK: R233. -/
def execXinvAck (b : Nat) (pkt : Packet) (s : State) : Host.Outcome State Fault Refusal :=
  .next (whileClocked (effXinvAck b pkt) s)

/-- XINV_RESEND: R233. -/
def execXinvResend (b : Nat) (xseq : BitVec 16) (s : State) : Host.Outcome State Fault Refusal :=
  .next (whileClocked (effXinvResend b xseq) s)

/-- AD_CAS_DONE: R225. -/
def execAdCasDone (h : Nat) (addr : Nat) (ret : Option (BitVec 64)) (m : HostView) (s : State) : Host.Outcome State Fault Refusal :=
  .next (whileClocked (effAdCasDone h addr ret m) s)

/-- PAGE_REQUEST_POST: R234. -/
def execPageRequestPost (h : Nat) (s : State) : Host.Outcome State Fault Refusal :=
  .next (whileClocked (effPageRequestPost h) s)

/-- XLT_FQ_HEAD: R235. -/
def execXltFqHead (h : Nat) (v : Word) (s : State) (who : Requester := {}) : Host.Outcome State Fault Refusal :=
  .next (whileClocked (behind h who (effXltFqHead h v)) s)

/-- XLT_FAULT_RESP: R236. -/
def execXltFaultResp (h : Nat) (v : Word) (m : HostView) (s : State) (who : Requester := {}) : Host.Outcome State Fault Refusal :=
  .next (whileClocked (behind h who (effXltFaultResp h v m)) s)

/-- FAULT_TIMEOUT: R236. -/
def execFaultTimeout (h : Nat) (reqId : BitVec 16) (s : State) : Host.Outcome State Fault Refusal :=
  .next (whileClocked (effFaultTimeout h reqId) s)

/-- WRITE: R248. -/
def execWrite (h q : Nat) (ix : Word) (m : HostView) (s : State) : Host.Outcome State Fault Refusal :=
  .next (whileClocked (effWrite h q ix m) s)

/-- WRITE_IMM: R248. -/
def execWriteImm (h q : Nat) (ix : Word) (m : HostView) (s : State) : Host.Outcome State Fault Refusal :=
  .next (whileClocked (effWriteImm h q ix m) s)

/-- READ: R248. -/
def execRead (h q : Nat) (ix : Word) (m : HostView) (s : State) : Host.Outcome State Fault Refusal :=
  .next (whileClocked (effRead h q ix m) s)

/-- ATOMIC: R250. -/
def execAtomic (h q : Nat) (ix : Word) (m : HostView) (s : State) : Host.Outcome State Fault Refusal :=
  .next (whileClocked (effAtomic h q ix m) s)

/-- CHAN_CREATE: R242. -/
def execChanCreate (h q : Nat) (ix : Word) (m : HostView) (s : State) : Host.Outcome State Fault Refusal :=
  .next (whileClocked (effChanCreate h q ix m) s)

/-- CHAN_MODIFY: R243. -/
def execChanModify (h q : Nat) (ix : Word) (s : State) : Host.Outcome State Fault Refusal :=
  .next (whileClocked (effChanModify h q ix) s)

/-- CHAN_DESTROY: R243. -/
def execChanDestroy (h q : Nat) (ix : Word) (s : State) : Host.Outcome State Fault Refusal :=
  .next (whileClocked (effChanDestroy h q ix) s)

/-- CHAN_QUERY: R244. -/
def execChanQuery (h q : Nat) (ix : Word) (s : State) : Host.Outcome State Fault Refusal :=
  .next (whileClocked (effChanQuery h q ix) s)

/-- CHANNEL_DRAIN_DONE: R243. -/
def execChannelDrainDone (h c : Nat) (s : State) : Host.Outcome State Fault Refusal :=
  .next (whileClocked (effChannelDrainDone h c) s)

/-- WRITE_PACKET_RX: R254. -/
def execWritePacketRx (h : Nat) (pkt : Packet) (m : HostView) (s : State) : Host.Outcome State Fault Refusal :=
  .next (whileClocked (effWritePacketRx h pkt m) s)

/-- WRITE_IMM_PACKET_RX: R256. -/
def execWriteImmPacketRx (h : Nat) (pkt : Packet) (m : HostView) (s : State) : Host.Outcome State Fault Refusal :=
  .next (whileClocked (effWriteImmPacketRx h pkt m) s)

/-- READ_REQ: R255. -/
def execReadReq (h : Nat) (pkt : Packet) (m : HostView) (s : State) : Host.Outcome State Fault Refusal :=
  .next (whileClocked (effReadReq h pkt m) s)

/-- ATOMIC_REQ: R257. -/
def execAtomicReq (h : Nat) (pkt : Packet) (m : HostView) (s : State) : Host.Outcome State Fault Refusal :=
  .next (whileClocked (effAtomicReq h pkt m) s)

/-- CTX_FETCH_DONE: R261. -/
def execCtxFetchDone (h c : Nat) (ok : Bool) (m : HostView) (s : State) : Host.Outcome State Fault Refusal :=
  .next (whileClocked (effCtxFetchDone h c ok m) s)

/-- ACK_DELAY_TIMER: R260. -/
def execAckDelayTimer (h c : Nat) (s : State) : Host.Outcome State Fault Refusal :=
  .next (whileClocked (effAckDelayTimer h c) s)

/-- ACK: R264. -/
def execAck (h : Nat) (pkt : Packet) (m : HostView) (s : State) : Host.Outcome State Fault Refusal :=
  .next (whileClocked (effAck h pkt m) s)

/-- READ_RESP: R264. -/
def execReadResp (h : Nat) (pkt : Packet) (m : HostView) (s : State) : Host.Outcome State Fault Refusal :=
  .next (whileClocked (effReadResp h pkt m) s)

/-- ATOMIC_RESP: R264. -/
def execAtomicResp (h : Nat) (pkt : Packet) (m : HostView) (s : State) : Host.Outcome State Fault Refusal :=
  .next (whileClocked (effAtomicResp h pkt m) s)

/-- RETRANSMIT_TIMEOUT: R265. -/
def execRetransmitTimeout (h c : Nat) (m : HostView) (s : State) : Host.Outcome State Fault Refusal :=
  .next (whileClocked (effRetransmitTimeout h c m) s)

/-- SEND: R278. -/
def execSend (h q : Nat) (ix : Word) (m : HostView) (s : State) : Host.Outcome State Fault Refusal :=
  .next (whileClocked (effSend h q ix m) s)

/-- POST_RECV: R286. -/
def execPostRecv (h q : Nat) (ix : Word) (m : HostView) (s : State) : Host.Outcome State Fault Refusal :=
  .next (whileClocked (effPostRecv h q ix m) s)

/-- MATCH_RESET: R293. -/
def execMatchReset (h q : Nat) (ix : Word) (s : State) : Host.Outcome State Fault Refusal :=
  .next (whileClocked (effMatchReset h q ix) s)

/-- EAGER: R280. -/
def execEager (h : Nat) (pkt : Packet) (m : HostView) (s : State) : Host.Outcome State Fault Refusal :=
  .next (whileClocked (effEager h pkt m) s)

/-- RNDV_RTS: R287. -/
def execRndvRts (h : Nat) (pkt : Packet) (m : HostView) (s : State) : Host.Outcome State Fault Refusal :=
  .next (whileClocked (effRndvRts h pkt m) s)

/-- RNDV_DONE: R289. -/
def execRndvDone (h : Nat) (pkt : Packet) (m : HostView) (s : State) : Host.Outcome State Fault Refusal :=
  .next (whileClocked (effRndvDone h pkt m) s)

/-- CTR_CREATE: R300. -/
def execCtrCreate (h q : Nat) (ix : Word) (s : State) : Host.Outcome State Fault Refusal :=
  .next (whileClocked (effCtrCreate h q ix) s)

/-- CTR_DESTROY: R300. -/
def execCtrDestroy (h q : Nat) (ix : Word) (s : State) : Host.Outcome State Fault Refusal :=
  .next (whileClocked (effCtrDestroy h q ix) s)

/-- CTR_SET: R300. -/
def execCtrSet (h q : Nat) (ix : Word) (s : State) : Host.Outcome State Fault Refusal :=
  .next (whileClocked (effCtrSet h q ix) s)

/-- CTR_ADD: R300. -/
def execCtrAdd (h q : Nat) (ix : Word) (s : State) : Host.Outcome State Fault Refusal :=
  .next (whileClocked (effCtrAdd h q ix) s)

/-- COUNT: R304. -/
def execCount (h q : Nat) (ix : Word) (m : HostView) (s : State) : Host.Outcome State Fault Refusal :=
  .next (whileClocked (effCount h q ix m) s)

/-- TRIG_ARM: R307. -/
def execTrigArm (h q : Nat) (ix : Word) (m : HostView) (s : State) : Host.Outcome State Fault Refusal :=
  .next (whileClocked (effTrigArm h q ix m) s)

/-- TRIG_CANCEL: R313. -/
def execTrigCancel (h q : Nat) (ix : Word) (m : HostView) (s : State) : Host.Outcome State Fault Refusal :=
  .next (whileClocked (effTrigCancel h q ix m) s)

/-- REMOTE_ENABLE: R311. -/
def execRemoteEnable (h q : Nat) (ix : Word) (m : HostView) (s : State) : Host.Outcome State Fault Refusal :=
  .next (whileClocked (effRemoteEnable h q ix m) s)

/-- CTR_READ: R300. -/
def execCtrRead (h q : Nat) (ix : Word) (m : HostView) (s : State) : Host.Outcome State Fault Refusal :=
  .next (whileClocked (effCtrRead h q ix m) s)

/-- TRIG_SLOT_READ_DONE: R309. -/
def execTrigSlotReadDone (h fn slot : Nat) (image : Option (List Word)) (s : State) : Host.Outcome State Fault Refusal :=
  .next (whileClocked (effTrigSlotReadDone h fn slot image) s)

/-- TRIG_ENABLE: R312. -/
def execTrigEnable (h : Nat) (pkt : Packet) (m : HostView) (s : State) : Host.Outcome State Fault Refusal :=
  .next (whileClocked (effTrigEnable h pkt m) s)

/-- TREE_ALLREDUCE: R342. -/
def execTreeAllreduce (h q : Nat) (ix : Word) (m : HostView) (s : State) : Host.Outcome State Fault Refusal :=
  .next (whileClocked (effTreeAllreduce h q ix m) s)

/-- TREE_UP: R338. -/
def execTreeUp (u inport : Nat) (pkt : Packet) (s : State) : Host.Outcome State Fault Refusal :=
  .next (whileClocked (effTreeUp u inport pkt) s)

/-- TREE_DOWN: R338. -/
def execTreeDown (u inport : Nat) (pkt : Packet) (s : State) : Host.Outcome State Fault Refusal :=
  .next (whileClocked (effTreeDown u inport pkt) s)

/-- TREE_DOWN_HOST_RX: R342. -/
def execTreeDownHostRx (h : Nat) (pkt : Packet) (m : HostView) (s : State) : Host.Outcome State Fault Refusal :=
  .next (whileClocked (effTreeDownHostRx h pkt m) s)

/-- BIND: R340. -/
def execBind (h : Nat) (s : State) (who : Requester := {}) : Host.Outcome State Fault Refusal :=
  .next (whileClocked (behind h who (effBind h)) s)

/-- UNBIND: R340. -/
def execUnbind (h : Nat) (s : State) (who : Requester := {}) : Host.Outcome State Fault Refusal :=
  .next (whileClocked (behind h who (effUnbind h)) s)

/-- QUERY: R352. -/
def execQuery (h : Nat) (s : State) (who : Requester := {}) : Host.Outcome State Fault Refusal :=
  .next (whileClocked (behind h who (effQuery h)) s)

/-- SCRATCH_HOST_WRITE: R354. -/
def execScratchHostWrite (h fn tc off : Nat) (bytes : List Byte) (s : State) (req : Nat := 0) : Host.Outcome State Fault Refusal :=
  .next (whileClocked (effScratchHostWrite h fn tc off bytes req) s)

/-- SCRATCH_HOST_READ: R354. -/
def execScratchHostRead (h fn tc off len : Nat) (s : State) (req : Nat := 0) : Host.Outcome State Fault Refusal :=
  .next (whileClocked (effScratchHostRead h fn tc off len req) s)

/-- WRITE_PERFORMED: R359. -/
def execWritePerformed (b ident : Nat) (s : State) : Host.Outcome State Fault Refusal :=
  .next (whileClocked (effWritePerformed b ident) s)

/-- SSM_BARRIER: R361. -/
def execSsmBarrier (h fn tc : Nat) (s : State) (req : Nat := 0) : Host.Outcome State Fault Refusal :=
  .next (whileClocked (effSsmBarrier h fn tc req) s)

/-- LCK_ACQUIRE: R371. -/
def execLckAcquire (h fn lock : Nat) (s : State) (who : Requester := {}) : Host.Outcome State Fault Refusal :=
  .next (whileClocked (behind h who (effLckAcquire h fn lock)) s)

/-- LCK_RELEASE: R371. -/
def execLckRelease (h fn lock : Nat) (s : State) (who : Requester := {}) : Host.Outcome State Fault Refusal :=
  .next (whileClocked (behind h who (effLckRelease h fn lock)) s)

/-- LCK_CLAIM: R373. -/
def execLckClaim (h fn lock : Nat) (token : BitVec 16) (s : State) (who : Requester := {}) : Host.Outcome State Fault Refusal :=
  .next (whileClocked (behind h who (effLckClaim h fn lock token)) s)

/-- ACQUIRE_TIMEOUT: R370. -/
def execAcquireTimeout (b lock master : Nat) (s : State) : Host.Outcome State Fault Refusal :=
  .next (whileClocked (effAcquireTimeout b lock master) s)

/-- DOE_SPDM: R393. -/
def execDoeSpdm (h : Nat) (msg : Spdm) (s : State) : Host.Outcome State Fault Refusal :=
  .next (whileClocked (effDoeSpdm h msg) s)

/-- IDE_KM: R389. -/
def execIdeKm (h : Nat) (msg : IdeKm) (s : State) : Host.Outcome State Fault Refusal :=
  .next (whileClocked (effIdeKm h msg) s)

/-- IDE_FAIL: R389. -/
def execIdeFail (h stream : Nat) (s : State) : Host.Outcome State Fault Refusal :=
  .next (whileClocked (effIdeFail h stream) s)

/-- DEBUG_UNLOCK: R392. -/
def execDebugUnlock (token : List Byte) (s : State) : Host.Outcome State Fault Refusal :=
  .next (whileClocked (effDebugUnlock token) s)

/-- REGISTER_WRITE: R9. -/
def execRegisterWrite (t : RegTarget) (off : Nat) (v : Word) (s : State) (a : Access := {}) :
    Host.Outcome State Fault Refusal :=
  .next (whileClocked (effRegisterWrite t off v a) s)

/-- ADAPTER_PROTOCOL_ERROR: R19. -/
def execAdapterProtocolError (m : Nat) (s : State) : Host.Outcome State Fault Refusal :=
  .next (whileClocked (effAdapterProtocolError m) s)

/-- D2D_RETRY: R19. -/
def execD2dRetry (m : Nat) (s : State) : Host.Outcome State Fault Refusal :=
  .next (whileClocked (effD2dRetry m) s)

/-- CORRECTABLE_ERROR: R213. -/
def execCorrectableError (h : Nat) (s : State) : Host.Outcome State Fault Refusal :=
  .next (whileClocked (effCorrectableError h) s)

/-- CONFIGURATION_REQUEST: R209. -/
def execConfigurationRequest (target : Option Nat) (w : CfgWrite) (s : State) : Host.Outcome State Fault Refusal :=
  .next (settled (effConfigurationRequest target w) s)

/-- ATOMICOP_REQUEST: R179. -/
def execAtomicopRequest (h : Nat) (s : State) : Host.Outcome State Fault Refusal :=
  .next (whileClocked (effAtomicopRequest h) s)

/-- CHECK_DONE: R421. -/
def execCheckDone (s : State) : Host.Outcome State Fault Refusal :=
  .next (whileClocked (effCheckDone) s)

/-- FW_VERIFY_DONE: R429. -/
def execFwVerifyDone (s : State) : Host.Outcome State Fault Refusal :=
  .next (whileClocked (effFwVerifyDone) s)

/-- ENTDAA: R415. -/
def execEntdaa (addr : BitVec 7) (s : State) : Host.Outcome State Fault Refusal :=
  .next (settled (effEntdaa addr) s)

/-- JTAG_INSTRUCTION: R489. -/
def execJtagInstruction (ir : Nat) (s : State) (trst : Bool := true) (tdi : List Bool := []) :
    Host.Outcome State Fault Refusal :=
  .next (settled (effJtagInstruction ir trst tdi) s)

end Sys2Proof.Machine
end

