-- ==== Sys2Proof/Machine/Dispatch.lean ====
section
/-! DEFINITION. The meaning of each command, one arm per row of the opcode table. -/

namespace Sys2Proof.Machine

def exec (i : Instr) (s : State) : Host.Outcome State Fault Refusal :=
  match i with
  | .getIdentity r => Sys2Proof.Machine.execGetIdentity r s
  | .getStatus r => Sys2Proof.Machine.execGetStatus r s
  | .echo r => Sys2Proof.Machine.execEcho r s
  | .allowSet r => Sys2Proof.Machine.execAllowSet r s
  | .eventDestSet r => Sys2Proof.Machine.execEventDestSet r s
  | .stageWrite r => Sys2Proof.Machine.execStageWrite r s
  | .stageRead r => Sys2Proof.Machine.execStageRead r s
  | .stageDiscard r => Sys2Proof.Machine.execStageDiscard r s
  | .check r => Sys2Proof.Machine.execCheck r s
  | .commit r => Sys2Proof.Machine.execCommit r s
  | .commitAt r => Sys2Proof.Machine.execCommitAt r s
  | .getEpoch r => Sys2Proof.Machine.execGetEpoch r s
  | .commitAbort r => Sys2Proof.Machine.execCommitAbort r s
  | .bulkLoad r => Sys2Proof.Machine.execBulkLoad r s
  | .bulkStage r => Sys2Proof.Machine.execBulkStage r s
  | .bulkStageDone => Sys2Proof.Machine.execBulkStageDone s
  | .bulkRead r => Sys2Proof.Machine.execBulkRead r s
  | .portEnable r => Sys2Proof.Machine.execPortEnable r s
  | .portDisable r => Sys2Proof.Machine.execPortDisable r s
  | .portTrain r => Sys2Proof.Machine.execPortTrain r s
  | .portWidth r => Sys2Proof.Machine.execPortWidth r s
  | .portStatus r => Sys2Proof.Machine.execPortStatus r s
  | .pwrSet r => Sys2Proof.Machine.execPwrSet r s
  | .powerTransitionDone d => Sys2Proof.Machine.execPowerTransitionDone d s
  | .powerTransitionTimeout d => Sys2Proof.Machine.execPowerTransitionTimeout d s
  | .pwrGet r => Sys2Proof.Machine.execPwrGet r s
  | .timeGet r => Sys2Proof.Machine.execTimeGet r s
  | .timeSet r => Sys2Proof.Machine.execTimeSet r s
  | .treeCreate r => Sys2Proof.Machine.execTreeCreate r s
  | .treeDestroy r => Sys2Proof.Machine.execTreeDestroy r s
  | .treeStatus r => Sys2Proof.Machine.execTreeStatus r s
  | .resvWrite r => Sys2Proof.Machine.execResvWrite r s
  | .resvRead r => Sys2Proof.Machine.execResvRead r s
  | .fence r => Sys2Proof.Machine.execFence r s
  | .unfence r => Sys2Proof.Machine.execUnfence r s
  | .eventCfg r => Sys2Proof.Machine.execEventCfg r s
  | .eventRead r => Sys2Proof.Machine.execEventRead r s
  | .eventClear r => Sys2Proof.Machine.execEventClear r s
  | .spdmMsg r msg => Sys2Proof.Machine.execSpdmMsg r msg s
  | .linkKeyInstall r => Sys2Proof.Machine.execLinkKeyInstall r s
  | .linkKeyClear r => Sys2Proof.Machine.execLinkKeyClear r s
  | .alarmPolicy r => Sys2Proof.Machine.execAlarmPolicy r s
  | .zeroize r => Sys2Proof.Machine.execZeroize r s
  | .zeroizationDone => Sys2Proof.Machine.execZeroizationDone s
  | .fwBegin r => Sys2Proof.Machine.execFwBegin r s
  | .fwEraseDone ok => Sys2Proof.Machine.execFwEraseDone ok s
  | .fwWrite r => Sys2Proof.Machine.execFwWrite r s
  | .fwVerify r => Sys2Proof.Machine.execFwVerify r s
  | .fwRestart r => Sys2Proof.Machine.execFwRestart r s
  | .controllerRestartDone => Sys2Proof.Machine.execControllerRestartDone s
  | .fwPromote r => Sys2Proof.Machine.execFwPromote r s
  | .fwPromoteDone ok => Sys2Proof.Machine.execFwPromoteDone ok s
  | .fwRaiseMinSvn r => Sys2Proof.Machine.execFwRaiseMinSvn r s
  | .telLiveRead r => Sys2Proof.Machine.execTelLiveRead r s
  | .mapRead r => Sys2Proof.Machine.execMapRead r s
  | .histRead r => Sys2Proof.Machine.execHistRead r s
  | .lockMode r => Sys2Proof.Machine.execLockMode r s
  | .lockRights r => Sys2Proof.Machine.execLockRights r s
  | .graftQuarantine r => Sys2Proof.Machine.execGraftQuarantine r s
  | .graftAdmit r => Sys2Proof.Machine.execGraftAdmit r s
  | .graftAbort r => Sys2Proof.Machine.execGraftAbort r s
  | .graftAdmitApply => Sys2Proof.Machine.execGraftAdmitApply s
  | .graftStatus r => Sys2Proof.Machine.execGraftStatus r s
  | .pruneDrain r => Sys2Proof.Machine.execPruneDrain r s
  | .pruneRemove r => Sys2Proof.Machine.execPruneRemove r s
  | .pruneAbort r => Sys2Proof.Machine.execPruneAbort r s
  | .pruneDrainApply => Sys2Proof.Machine.execPruneDrainApply s
  | .pruneRemoveApply => Sys2Proof.Machine.execPruneRemoveApply s
  | .portDrained p => Sys2Proof.Machine.execPortDrained p s
  | .pruneDrainTimeout => Sys2Proof.Machine.execPruneDrainTimeout s
  | .pruneStatus r => Sys2Proof.Machine.execPruneStatus r s
  | .testUnlock r => Sys2Proof.Machine.execTestUnlock r s
  | .faultInject r => Sys2Proof.Machine.execFaultInject r s
  | .commandPendingReply id => Sys2Proof.Machine.execCommandPendingReply id s
  | .gcrReqTail ring v who => Sys2Proof.Machine.execGcrReqTail ring v s who
  | .gcrReqCfgEnable ring v who => Sys2Proof.Machine.execGcrReqCfgEnable ring v s who
  | .gcrRplCfgEnable ring v who => Sys2Proof.Machine.execGcrRplCfgEnable ring v s who
  | .gcrRplHead ring v who => Sys2Proof.Machine.execGcrRplHead ring v s who
  | .gcpRequestReadDone ring req data => Sys2Proof.Machine.execGcpRequestReadDone ring req data s
  | .i3cPrivateWrite bytes => Sys2Proof.Machine.execI3cPrivateWrite bytes s
  | .i3cPrivateRead => Sys2Proof.Machine.execI3cPrivateRead s
  | .gcpReq pkt => Sys2Proof.Machine.execGcpReq pkt s
  | .gcpEventRepeat => Sys2Proof.Machine.execGcpEventRepeat s
  | .faultNRelease => Sys2Proof.Machine.execFaultNRelease s
  | .hwWdogExpire => Sys2Proof.Machine.execHwWdogExpire s
  | .fwHeartbeatMiss => Sys2Proof.Machine.execFwHeartbeatMiss s
  | .por => Sys2Proof.Machine.execPor s
  | .boot roleSel testMode i3cAddr => Sys2Proof.Machine.execBoot roleSel testMode i3cAddr s
  | .taprootLocked => Sys2Proof.Machine.execTaprootLocked s
  | .refclkLoss c back => Sys2Proof.Machine.execRefclkLoss s c back
  | .taprootUnlock => Sys2Proof.Machine.execTaprootUnlock s
  | .bolePllUnlock b => Sys2Proof.Machine.execBolePllUnlock b s
  | .bolePllRelock b => Sys2Proof.Machine.execBolePllRelock b s
  | .supplyFault u => Sys2Proof.Machine.execSupplyFault u s
  | .voltGlitch u => Sys2Proof.Machine.execVoltGlitch s u
  | .clkGlitch => Sys2Proof.Machine.execClkGlitch s
  | .tamper k => Sys2Proof.Machine.execTamper k s
  | .sensorSample temps => Sys2Proof.Machine.execSensorSample temps s
  | .powerEstimate watts => Sys2Proof.Machine.execPowerEstimate watts s
  | .hmPerstDeassert => Sys2Proof.Machine.execHmPerstDeassert s
  | .d2dTrainDone m repaired => Sys2Proof.Machine.execD2dTrainDone m repaired s
  | .d2dModuleDown m => Sys2Proof.Machine.execD2dModuleDown m s
  | .d2dIdentMove m ident lost => Sys2Proof.Machine.execD2dIdentMove m ident lost s
  | .hbmEccUncorr c victim => Sys2Proof.Machine.execHbmEccUncorr c victim s
  | .groupReceive p line => Sys2Proof.Machine.execGroupReceive p line s
  | .groupTransmit p => Sys2Proof.Machine.execGroupTransmit p s
  | .trainingDone p => Sys2Proof.Machine.execTrainingDone p s
  | .trainTimeout p => Sys2Proof.Machine.execTrainTimeout p s
  | .lockTimeout p => Sys2Proof.Machine.execLockTimeout p s
  | .quickRetrainFail p => Sys2Proof.Machine.execQuickRetrainFail p s
  | .graceExpire p => Sys2Proof.Machine.execGraceExpire p s
  | .replayTimeout p => Sys2Proof.Machine.execReplayTimeout p s
  | .widthReqResend p => Sys2Proof.Machine.execWidthReqResend p s
  | .widthSwitch p => Sys2Proof.Machine.execWidthSwitch p s
  | .widthRelockTimeout p => Sys2Proof.Machine.execWidthRelockTimeout p s
  | .laneDegrade p lane => Sys2Proof.Machine.execLaneDegrade p lane s
  | .timeExchangeTimer p => Sys2Proof.Machine.execTimeExchangeTimer p s
  | .identTimer p => Sys2Proof.Machine.execIdentTimer p s
  | .gossipTimer p => Sys2Proof.Machine.execGossipTimer p s
  | .keySwitch p => Sys2Proof.Machine.execKeySwitch p s
  | .spillStopDone p => Sys2Proof.Machine.execSpillStopDone p s
  | .timeFollowTimeout => Sys2Proof.Machine.execTimeFollowTimeout s
  | .ppsInEdge => Sys2Proof.Machine.execPpsInEdge s
  | .ppsTimeout => Sys2Proof.Machine.execPpsTimeout s
  | .ppsOutEdge => Sys2Proof.Machine.execPpsOutEdge s
  | .packetArrive inport pkt => Sys2Proof.Machine.execPacketArrive inport pkt s
  | .outputGrant o => Sys2Proof.Machine.execOutputGrant o s
  | .storeFwdStart o => Sys2Proof.Machine.execStoreFwdStart o s
  | .telemetryPeriodEnd => Sys2Proof.Machine.execTelemetryPeriodEnd s
  | .epochSwap => Sys2Proof.Machine.execEpochSwap s
  | .drainDone => Sys2Proof.Machine.execDrainDone s
  | .bankCopyDone => Sys2Proof.Machine.execBankCopyDone s
  | .replicaRefreshDone k => Sys2Proof.Machine.execReplicaRefreshDone k s
  | .wqTail h fn addr size v => Sys2Proof.Machine.execWqTail h fn addr size v s
  | .cqHead h fn addr size v => Sys2Proof.Machine.execCqHead h fn addr size v s
  | .cqArm h fn addr size v => Sys2Proof.Machine.execCqArm h fn addr size v s
  | .wqeFetchDone h q ents => Sys2Proof.Machine.execWqeFetchDone h q ents s
  | .wqeRefetch h q ent => Sys2Proof.Machine.execWqeRefetch h q ent s
  | .jobIssue h => Sys2Proof.Machine.execJobIssue h s
  | .assuredWaitRemeter h q => Sys2Proof.Machine.execAssuredWaitRemeter h q s
  | .completionWrite h cq => Sys2Proof.Machine.execCompletionWrite h cq s
  | .headWritebackTimer h q => Sys2Proof.Machine.execHeadWritebackTimer h q s
  | .cqCoalTimer h cq => Sys2Proof.Machine.execCqCoalTimer h cq s
  | .queueDrainDone h q => Sys2Proof.Machine.execQueueDrainDone h q s
  | .nop h q ix => Sys2Proof.Machine.execNop h q ix s
  | .fenceJob h q ix => Sys2Proof.Machine.execFenceJob h q ix s
  | .cancel h q ix => Sys2Proof.Machine.execCancel h q ix s
  | .queueCreate h q ix m => Sys2Proof.Machine.execQueueCreate h q ix m s
  | .queueModify h q ix => Sys2Proof.Machine.execQueueModify h q ix s
  | .queueDestroy h q ix => Sys2Proof.Machine.execQueueDestroy h q ix s
  | .cqCreate h q ix m => Sys2Proof.Machine.execCqCreate h q ix m s
  | .cqDestroy h q ix => Sys2Proof.Machine.execCqDestroy h q ix s
  | .qmgPqCfgEnable h v who => Sys2Proof.Machine.execQmgPqCfgEnable h v s who
  | .qmgPcqCfgEnable h v who => Sys2Proof.Machine.execQmgPcqCfgEnable h v s who
  | .perstAssert h => Sys2Proof.Machine.execPerstAssert h s
  | .perstDeassert h => Sys2Proof.Machine.execPerstDeassert h s
  | .hostLinkUp h rate width => Sys2Proof.Machine.execHostLinkUp h rate width s
  | .hostLinkDown h hotReset => Sys2Proof.Machine.execHostLinkDown h hotReset s
  | .hostCleanupDone h => Sys2Proof.Machine.execHostCleanupDone h s
  | .flr h fn vfs => Sys2Proof.Machine.execFlr h fn vfs s
  | .hostDmaReadDone h id m => Sys2Proof.Machine.execHostDmaReadDone h id m s
  | .xctxCreate h q ix m => Sys2Proof.Machine.execXctxCreate h q ix m s
  | .xctxDestroy h q ix => Sys2Proof.Machine.execXctxDestroy h q ix s
  | .mrRegister h q ix m => Sys2Proof.Machine.execMrRegister h q ix m s
  | .mrInvalidate h q ix => Sys2Proof.Machine.execMrInvalidate h q ix s
  | .invalidate h q ix => Sys2Proof.Machine.execInvalidate h q ix s
  | .invalidationDone b id => Sys2Proof.Machine.execInvalidationDone b id s
  | .xinv b pkt => Sys2Proof.Machine.execXinv b pkt s
  | .xinvAck b pkt => Sys2Proof.Machine.execXinvAck b pkt s
  | .xinvResend b xseq => Sys2Proof.Machine.execXinvResend b xseq s
  | .adCasDone h addr ret m => Sys2Proof.Machine.execAdCasDone h addr ret m s
  | .pageRequestPost h => Sys2Proof.Machine.execPageRequestPost h s
  | .xltFqHead h v who => Sys2Proof.Machine.execXltFqHead h v s who
  | .xltFaultResp h v m who => Sys2Proof.Machine.execXltFaultResp h v m s who
  | .faultTimeout h reqId => Sys2Proof.Machine.execFaultTimeout h reqId s
  | .write h q ix m => Sys2Proof.Machine.execWrite h q ix m s
  | .writeImm h q ix m => Sys2Proof.Machine.execWriteImm h q ix m s
  | .read h q ix m => Sys2Proof.Machine.execRead h q ix m s
  | .atomic h q ix m => Sys2Proof.Machine.execAtomic h q ix m s
  | .chanCreate h q ix m => Sys2Proof.Machine.execChanCreate h q ix m s
  | .chanModify h q ix => Sys2Proof.Machine.execChanModify h q ix s
  | .chanDestroy h q ix => Sys2Proof.Machine.execChanDestroy h q ix s
  | .chanQuery h q ix => Sys2Proof.Machine.execChanQuery h q ix s
  | .channelDrainDone h c => Sys2Proof.Machine.execChannelDrainDone h c s
  | .writePacketRx h pkt m => Sys2Proof.Machine.execWritePacketRx h pkt m s
  | .writeImmPacketRx h pkt m => Sys2Proof.Machine.execWriteImmPacketRx h pkt m s
  | .readReq h pkt m => Sys2Proof.Machine.execReadReq h pkt m s
  | .atomicReq h pkt m => Sys2Proof.Machine.execAtomicReq h pkt m s
  | .ctxFetchDone h c ok m => Sys2Proof.Machine.execCtxFetchDone h c ok m s
  | .ackDelayTimer h c => Sys2Proof.Machine.execAckDelayTimer h c s
  | .ack h pkt m => Sys2Proof.Machine.execAck h pkt m s
  | .readResp h pkt m => Sys2Proof.Machine.execReadResp h pkt m s
  | .atomicResp h pkt m => Sys2Proof.Machine.execAtomicResp h pkt m s
  | .retransmitTimeout h c m => Sys2Proof.Machine.execRetransmitTimeout h c m s
  | .send h q ix m => Sys2Proof.Machine.execSend h q ix m s
  | .postRecv h q ix m => Sys2Proof.Machine.execPostRecv h q ix m s
  | .matchReset h q ix => Sys2Proof.Machine.execMatchReset h q ix s
  | .eager h pkt m => Sys2Proof.Machine.execEager h pkt m s
  | .rndvRts h pkt m => Sys2Proof.Machine.execRndvRts h pkt m s
  | .rndvDone h pkt m => Sys2Proof.Machine.execRndvDone h pkt m s
  | .ctrCreate h q ix => Sys2Proof.Machine.execCtrCreate h q ix s
  | .ctrDestroy h q ix => Sys2Proof.Machine.execCtrDestroy h q ix s
  | .ctrSet h q ix => Sys2Proof.Machine.execCtrSet h q ix s
  | .ctrAdd h q ix => Sys2Proof.Machine.execCtrAdd h q ix s
  | .count h q ix m => Sys2Proof.Machine.execCount h q ix m s
  | .trigArm h q ix m => Sys2Proof.Machine.execTrigArm h q ix m s
  | .trigCancel h q ix m => Sys2Proof.Machine.execTrigCancel h q ix m s
  | .remoteEnable h q ix m => Sys2Proof.Machine.execRemoteEnable h q ix m s
  | .ctrRead h q ix m => Sys2Proof.Machine.execCtrRead h q ix m s
  | .trigSlotReadDone h fn slot image => Sys2Proof.Machine.execTrigSlotReadDone h fn slot image s
  | .trigEnable h pkt m => Sys2Proof.Machine.execTrigEnable h pkt m s
  | .treeAllreduce h q ix m => Sys2Proof.Machine.execTreeAllreduce h q ix m s
  | .treeUp u inport pkt => Sys2Proof.Machine.execTreeUp u inport pkt s
  | .treeDown u inport pkt => Sys2Proof.Machine.execTreeDown u inport pkt s
  | .treeDownHostRx h pkt m => Sys2Proof.Machine.execTreeDownHostRx h pkt m s
  | .bind h who => Sys2Proof.Machine.execBind h s who
  | .unbind h who => Sys2Proof.Machine.execUnbind h s who
  | .query h who => Sys2Proof.Machine.execQuery h s who
  | .scratchHostWrite h fn tc off bytes req => Sys2Proof.Machine.execScratchHostWrite h fn tc off bytes s req
  | .scratchHostRead h fn tc off len req => Sys2Proof.Machine.execScratchHostRead h fn tc off len s req
  | .writePerformed b ident => Sys2Proof.Machine.execWritePerformed b ident s
  | .ssmBarrier h fn tc req => Sys2Proof.Machine.execSsmBarrier h fn tc s req
  | .lckAcquire h fn lock who => Sys2Proof.Machine.execLckAcquire h fn lock s who
  | .lckRelease h fn lock who => Sys2Proof.Machine.execLckRelease h fn lock s who
  | .lckClaim h fn lock token who => Sys2Proof.Machine.execLckClaim h fn lock token s who
  | .acquireTimeout b lock master => Sys2Proof.Machine.execAcquireTimeout b lock master s
  | .doeSpdm h msg => Sys2Proof.Machine.execDoeSpdm h msg s
  | .ideKm h msg => Sys2Proof.Machine.execIdeKm h msg s
  | .ideFail h stream => Sys2Proof.Machine.execIdeFail h stream s
  | .debugUnlock token => Sys2Proof.Machine.execDebugUnlock token s
  | .registerWrite t off v a => Sys2Proof.Machine.execRegisterWrite t off v s a
  | .adapterProtocolError m => Sys2Proof.Machine.execAdapterProtocolError m s
  | .d2dRetry m => Sys2Proof.Machine.execD2dRetry m s
  | .correctableError h => Sys2Proof.Machine.execCorrectableError h s
  | .configurationRequest target w => Sys2Proof.Machine.execConfigurationRequest target w s
  | .atomicopRequest h => Sys2Proof.Machine.execAtomicopRequest h s
  | .checkDone => Sys2Proof.Machine.execCheckDone s
  | .fwVerifyDone => Sys2Proof.Machine.execFwVerifyDone s
  | .entdaa addr => Sys2Proof.Machine.execEntdaa addr s
  | .jtagInstruction ir trst tdi => Sys2Proof.Machine.execJtagInstruction ir s trst tdi

end Sys2Proof.Machine
end

