-- ==== Sys2Proof/WellFormed.lean ====
section
/-! DEFINITION. Which commands name what the JN64 has: their operands' ranges. A command outside them stands for nothing
that the spec lets happen. -/

namespace Sys2Proof

/-- A GCP request has 16 words (R405) and comes from a transport that exists (R403). -/
def wfReq (r : GcpReq) : Bool :=
  decide (r.words.length = 16) && (match r.via with | .host h => decide (h < 4) | .hm | .i3c | .inband => true)

/-- A packet holds at most the payload that LEN_CELLS has room for, and at most the extensions that EXT_MASK can name (R92). -/
def wfPacket (p : Packet) : Bool := decide (p.payload.length ≤ 64 * 127) && decide (p.ext.length ≤ 36)

/-- The victim of an HBM error is a network or a host port. -/
def wfVictim (v : HbmVictim) : Bool :=
  match v with
  | .nothing => true
  | .spilled n => decide (n < 64)
  | .tier h => decide (h < 4)

/-- The registers of a host port and a function that exist. -/
def wfTarget (t : RegTarget) : Bool :=
  match t with
  | .bar0 h f => decide (h < 4) && decide (f < 256)
  | .hm | .router => true

/-- A requester ID has 16 bits, and there are eight traffic classes (R357). -/
def wfRequester (who : Requester) : Bool := decide (who.id < 2 ^ 16) && decide (who.tc < 8)

/-- An access to BAR0 has 1, 2, 4 or 8 bytes (R360). -/
def wfAccess (a : Access) : Bool := (a.size == 1 || a.size == 2 || a.size == 4 || a.size == 8) && wfRequester a.who

/-- The command names what the JN64 has: host ports 0 to 3, functions 0 to 255, network ports 0 to 63, crossbar indices 0 to
72, Boles 0 and 1, modules 0 to 5, rings 0 to 4, work queues below 2^20, channels below 2^24. -/
def Instr.wf (c : Instr) : Bool :=
  match c with
  | .getIdentity r | .getStatus r | .echo r | .allowSet r | .eventDestSet r | .stageWrite r | .stageRead r
  | .stageDiscard r | .check r | .commit r | .commitAt r | .getEpoch r | .commitAbort r | .bulkLoad r | .bulkStage r
  | .bulkRead r | .portEnable r | .portDisable r | .portTrain r | .portWidth r | .portStatus r | .pwrSet r | .pwrGet r
  | .timeGet r | .timeSet r | .treeCreate r | .treeDestroy r | .treeStatus r | .resvWrite r | .resvRead r | .fence r
  | .unfence r | .eventCfg r | .eventRead r | .eventClear r | .linkKeyInstall r | .linkKeyClear r | .alarmPolicy r
  | .zeroize r | .fwBegin r | .fwWrite r | .fwVerify r | .fwRestart r | .fwPromote r | .fwRaiseMinSvn r | .telLiveRead r
  | .mapRead r | .histRead r | .lockMode r | .lockRights r | .graftQuarantine r | .graftAdmit r | .graftAbort r
  | .graftStatus r | .pruneDrain r | .pruneRemove r | .pruneAbort r | .pruneStatus r | .testUnlock r | .faultInject r =>
    wfReq r
  | .bulkStageDone | .zeroizationDone | .controllerRestartDone | .graftAdmitApply | .pruneDrainApply | .pruneRemoveApply
  | .pruneDrainTimeout | .i3cPrivateRead | .gcpEventRepeat | .faultNRelease | .hwWdogExpire | .fwHeartbeatMiss | .por
  | .taprootLocked | .taprootUnlock | .clkGlitch | .hmPerstDeassert | .timeFollowTimeout
  | .ppsInEdge | .ppsTimeout | .ppsOutEdge | .telemetryPeriodEnd | .epochSwap | .drainDone | .bankCopyDone | .checkDone
  | .fwVerifyDone =>
    true
  | .powerTransitionDone d | .powerTransitionTimeout d =>
    decide (d < 96)
  | .spdmMsg r _ =>
    wfReq r
  | .refclkLoss c _ =>
    (match c with | .host h => decide (h < 4) | .refclk | .hm => true)
  | .voltGlitch _ | .fwEraseDone _ | .fwPromoteDone _ | .commandPendingReply _ | .i3cPrivateWrite _ | .supplyFault _ | .powerEstimate _
  | .debugUnlock _ | .entdaa _ =>
    true
  | .portDrained p | .groupTransmit p | .trainingDone p | .trainTimeout p | .lockTimeout p | .quickRetrainFail p
  | .graceExpire p | .replayTimeout p | .widthReqResend p | .widthSwitch p | .widthRelockTimeout p | .timeExchangeTimer p
  | .identTimer p | .gossipTimer p | .keySwitch p | .spillStopDone p =>
    decide (p < 64)
  | .gcrReqTail ring _ who | .gcrReqCfgEnable ring _ who | .gcrRplCfgEnable ring _ who | .gcrRplHead ring _ who =>
    decide (ring < 5) && wfRequester who
  | .gcpRequestReadDone ring _ _ =>
    decide (ring < 5)
  | .gcpReq pkt =>
    wfPacket pkt
  | .boot roleSel _ i3cAddr =>
    decide (roleSel < 4) && decide (i3cAddr < 8)
  | .bolePllUnlock b | .bolePllRelock b =>
    decide (b < 2)
  | .tamper k =>
    decide (k < 2)
  | .sensorSample temps =>
    decide (temps.length = 16)
  | .d2dTrainDone m _ =>
    decide (m < 6)
  | .d2dModuleDown m | .adapterProtocolError m | .d2dRetry m =>
    decide (m < 6)
  | .d2dIdentMove m _ _ =>
    decide (m < 6)
  | .hbmEccUncorr c victim =>
    decide (c < 32) && wfVictim victim
  | .groupReceive p line =>
    decide (p < 64) && decide (line.length = 4)
  | .laneDegrade p lane =>
    decide (p < 64) && decide (lane < 4)
  | .packetArrive inport pkt =>
    decide (inport < 73) && wfPacket pkt
  | .outputGrant o | .storeFwdStart o =>
    decide (o < 73)
  | .replicaRefreshDone k =>
    decide (k < 16)
  | .wqTail h fn _ _ _ | .cqHead h fn _ _ _ | .cqArm h fn _ _ _ =>
    decide (h < 4) && decide (fn < 256)
  | .wqeFetchDone h q _ | .wqeRefetch h q _ | .nop h q _ | .fenceJob h q _ | .cancel h q _ | .queueModify h q _
  | .queueDestroy h q _ | .cqDestroy h q _ | .xctxDestroy h q _ | .mrInvalidate h q _ | .invalidate h q _
  | .chanModify h q _ | .chanDestroy h q _ | .chanQuery h q _ | .matchReset h q _ | .ctrCreate h q _ | .ctrDestroy h q _
  | .ctrSet h q _ | .ctrAdd h q _ =>
    decide (h < 4) && decide (q < 2 ^ 20)
  | .jobIssue h | .perstDeassert h | .hostCleanupDone h | .pageRequestPost h
  | .correctableError h | .atomicopRequest h =>
    decide (h < 4)
  | .assuredWaitRemeter h q | .headWritebackTimer h q | .queueDrainDone h q =>
    decide (h < 4) && decide (q < 2 ^ 20)
  | .completionWrite h cq | .cqCoalTimer h cq =>
    decide (h < 4) && decide (cq < 2 ^ 20)
  | .queueCreate h q _ _ | .cqCreate h q _ _ | .xctxCreate h q _ _ | .mrRegister h q _ _ | .write h q _ _
  | .writeImm h q _ _ | .read h q _ _ | .atomic h q _ _ | .chanCreate h q _ _ | .send h q _ _ | .postRecv h q _ _
  | .count h q _ _ | .trigArm h q _ _ | .trigCancel h q _ _ | .remoteEnable h q _ _ | .ctrRead h q _ _
  | .treeAllreduce h q _ _ =>
    decide (h < 4) && decide (q < 2 ^ 20)
  | .perstAssert h =>
    decide (h < 5)
  | .bind h who | .unbind h who | .query h who | .qmgPqCfgEnable h _ who | .qmgPcqCfgEnable h _ who | .xltFqHead h _ who
  | .xltFaultResp h _ _ who =>
    decide (h < 4) && wfRequester who
  | .hostLinkDown h _ | .faultTimeout h _ | .doeSpdm h _
  | .ideKm h _ =>
    decide (h < 4)
  | .hostLinkUp h rate width =>
    decide (h < 4) && decide (rate < 16) && decide (width < 32)
  | .flr h fn _ =>
    decide (h < 4) && decide (fn < 256)
  | .hostDmaReadDone h _ _ =>
    decide (h < 4)
  | .invalidationDone b _ | .xinvResend b _ | .writePerformed b _ =>
    decide (b < 2)
  | .xinv b pkt | .xinvAck b pkt =>
    decide (b < 2) && wfPacket pkt
  | .adCasDone h _ _ _ =>
    decide (h < 4)
  | .channelDrainDone h c | .ackDelayTimer h c =>
    decide (h < 4) && decide (c < 2 ^ 24)
  | .writePacketRx h pkt _ | .writeImmPacketRx h pkt _ | .readReq h pkt _ | .atomicReq h pkt _ | .ack h pkt _
  | .readResp h pkt _ | .atomicResp h pkt _ | .eager h pkt _ | .rndvRts h pkt _ | .rndvDone h pkt _ | .trigEnable h pkt _
  | .treeDownHostRx h pkt _ =>
    decide (h < 4) && wfPacket pkt
  | .ctxFetchDone h c _ _ =>
    decide (h < 4) && decide (c < 2 ^ 24)
  | .retransmitTimeout h c _ =>
    decide (h < 4) && decide (c < 2 ^ 24)
  | .trigSlotReadDone h fn slot _ =>
    decide (h < 4) && decide (fn < 256) && decide (slot < 2 ^ 20)
  | .treeUp u inport pkt | .treeDown u inport pkt =>
    decide (u < 4) && decide (inport < 73) && wfPacket pkt
  | .scratchHostWrite h fn tc off _ req | .scratchHostRead h fn tc off _ req =>
    decide (h < 4) && decide (fn < 256) && wfRequester { id := req, tc := tc } && decide (off < 2 ^ 23)
  | .ssmBarrier h fn tc req =>
    decide (h < 4) && decide (fn < 256) && wfRequester { id := req, tc := tc }
  | .lckAcquire h fn lock who | .lckRelease h fn lock who | .lckClaim h fn lock _ who =>
    decide (h < 4) && decide (fn < 256) && decide (lock < 2048) && wfRequester who
  | .acquireTimeout b lock master =>
    decide (b < 2) && decide (lock < 2048) && decide (master < 512)
  | .ideFail h stream =>
    decide (h < 4) && decide (stream < 8)
  | .registerWrite t _ _ a =>
    wfTarget t && wfAccess a
  | .configurationRequest _ _ =>
    true
  | .jtagInstruction ir _ _ =>
    decide (ir < 256)

end Sys2Proof
end

