-- ==== Sys2Proof/Safety.lean ====
section
/-! DEFINITION. The terms in which claims are stated: when a command's own effect is all that happens, and when a GCP request
reaches its command's own action. -/

namespace Sys2Proof.Machine

/-- The clocks run before and after, and nothing follows by itself from `t`: no fence, tree, host port, waiting request, ring
or region has work of its own (`stable`). A command whose own effect is `t` then answers `t`. -/
def quiet (s t : State) : Bool := !s.pw.stopped && !t.pw.stopped && stable t

/-- A GCP request is taken and passes the tests that every command shares (R403 to R407, R410): the firmware runs, no earlier
command holds it up, its frame and length are right, its data came, and it is secured where that is required. -/
def taken (u : DataUse) (sec : Bool) (r : GcpReq) (s : State) : Bool :=
  s.mgmt.fw == .running && !mustWait r s && !badFrame u r && !r.dataErr && (!sec || inSession r s)

/-- The effect `t` changes the fenced set (R444), and what that change entails is all that follows. -/
def quietFence (s t : State) : Bool := !t.pw.stopped && fencedNow t != t.ev.fenced && quiet s (fenceStep t)

end Sys2Proof.Machine
end

