-- ==== Sys2Proof/Certificates/Slice0/Obligations.lean ====
section
/-! DEFINITION. The statements for the provers. -/

open Sys2Proof Sys2Proof.Machine

/-- The controller's own commands answer what they name and change only the allow list and the event destination. For every
state that takes the request: GET_IDENTITY answers grade, stepping, node EID, SVN, slot, build identity and MGC_STATUS;
GET_STATUS the five status words; ECHO words 5 to 15 of the request; ALLOW_SET writes one entry and forgets the accepted
MSEQs of the EID it enters; EVENT_DEST_SET writes the event EID. Each answers OK and leaves everything else as the reply
leaves it. -/
def Obligations.ControllerIdentity : Prop :=
  (∀ (r : GcpReq) (s t : State),
    taken .none false r s = true →
    t = ok r ([pack [(0, 1, b2n !s.grade425), (8, 8, 2)], w32 (nodeEid s).toNat, pack [(0, 6, s.heart.fwSvn), (8, 1, b2n
        s.heart.fwSlot)]] ++ w64 s.heart.buildId.toNat ++ [mgcStatus s]) s →
    (s.pw.stopped = false → exec (.getIdentity r) s = .next (follows t)) ∧
    (quiet s t = true → exec (.getIdentity r) s = .next t)) ∧
  (∀ (r : GcpReq) (s t : State),
    taken .none false r s = true →
    t = ok r [mgcStatus s, timStatus s, cnpEpoch s, w32 s.heart.latch.toNat, hwdStatus s] s →
    (s.pw.stopped = false → exec (.getStatus r) s = .next (follows t)) ∧
    (quiet s t = true → exec (.getStatus r) s = .next t)) ∧
  (∀ (r : GcpReq) (s t : State),
    taken .none false r s = true → r.words.length = 16 →
    t = ok r (r.words.drop 5) s →
    (s.pw.stopped = false → exec (.echo r) s = .next (follows t)) ∧
    (quiet s t = true → exec (.echo r) s = .next t)) ∧
  (∀ (r : GcpReq) (s t : State),
    taken .none true r s = true →
    t = ok r [] { s with
          mgmt.allow := Maps.put eidNone s.mgmt.allow (fAt r.words 5 0 4) (BitVec.ofNat 18 (fAt r.words 6 0 18)),
          mgmt.mseqs := s.mgmt.mseqs.filter (fun x => x.1 != BitVec.ofNat 18 (fAt r.words 6 0 18)) } →
    (s.pw.stopped = false → exec (.allowSet r) s = .next (follows t)) ∧
    (quiet s t = true → exec (.allowSet r) s = .next t)) ∧
  (∀ (r : GcpReq) (s t : State),
    taken .none true r s = true →
    t = ok r [] { s with mgmt.eventEid := BitVec.ofNat 18 (fAt r.words 5 0 18) } →
    (s.pw.stopped = false → exec (.eventDestSet r) s = .next (follows t)) ∧
    (quiet s t = true → exec (.eventDestSet r) s = .next t))

/-- Staging, reading back, discarding and checking the staged set. STAGE_WRITE of words that staging accepts stages each of
them and returns a READY bank to OPEN; STAGE_READ answers the staged value of each word and clears the RC fields it reads;
STAGE_DISCARD of something staged returns every object to its active value and starts the copy, from OPEN or READY; CHECK
of an empty staged set moves the bank to READY and answers EMPTY; CHECK of another begins; GET_EPOCH answers the epoch, the
bank and the times. -/
def Obligations.StagingCommands : Prop :=
  (∀ (r : GcpReq) (s t : State),
    taken .writes false r s = true → (wAt r.words 2).toNat ≠ 0 → (wAt r.words 2).toNat % 4 = 0 →
    (wAt r.words 5).toNat % 4 = 0 → stageRefusal s (wordAddrs (wAt r.words 5).toNat ((wAt r.words 2).toNat / 4)) = none →
    t = ok r [] (unready (stageWords (wAt r.words 5).toNat (dataOf r 6) s)) →
    (s.pw.stopped = false → exec (.stageWrite r) s = .next (follows t)) ∧
    (quiet s t = true → exec (.stageWrite r) s = .next t)) ∧
  (∀ (r : GcpReq) (s t : State),
    taken .reads false r s = true → (wAt r.words 2).toNat % 4 = 0 → (wAt r.words 5).toNat % 4 = 0 →
    t = okData r ((wordAddrs (wAt r.words 5).toNat ((wAt r.words 2).toNat / 4)).map (readStaged s)) (clearRc (wordAddrs
        (wAt r.words 5).toNat ((wAt r.words 2).toNat / 4)) s) →
    (s.pw.stopped = false → exec (.stageRead r) s = .next (follows t)) ∧
    (quiet s t = true → exec (.stageRead r) s = .next t)) ∧
  (∀ (r : GcpReq) (s t : State),
    taken .none false r s = true → anyStaged s = true → s.stage.bank = .opened ∨ s.stage.bank = .ready →
    t = ok r [] { s with stage.staged := [], stage.resvStaged := [], stage.bank := .copying, stage.tblStaged := false } →
    (s.pw.stopped = false → exec (.stageDiscard r) s = .next (follows t)) ∧
    (quiet s t = true → exec (.stageDiscard r) s = .next t)) ∧
  (∀ (r : GcpReq) (s t : State),
    taken .none false r s = true → anyStaged s = false → s.stage.bank = .opened ∨ s.stage.bank = .ready →
    t = ok r [1] { s with stage.bank := .ready } →
    (s.pw.stopped = false → exec (.check r) s = .next (follows t)) ∧
    (quiet s t = true → exec (.check r) s = .next t)) ∧
  (∀ (r : GcpReq) (s t : State),
    taken .none false r s = true → anyStaged s = true → s.stage.bank = .opened ∨ s.stage.bank = .ready →
    t = hold r { s with stage.checking := some r } →
    (s.pw.stopped = false → exec (.check r) s = .next (follows t)) ∧
    (quiet s t = true → exec (.check r) s = .next t)) ∧
  (∀ (r : GcpReq) (s t : State),
    taken .none false r s = true →
    t = ok r ([s.stage.epoch, cnpEpoch s ||| pack [(8, 1, b2n (anyStaged s))]] ++ w64 s.stage.commitT ++ w64
        s.stage.lastSwap ++ w64 s.stage.lastDrain) s →
    (s.pw.stopped = false → exec (.getEpoch r) s = .next (follows t)) ∧
    (quiet s t = true → exec (.getEpoch r) s = .next t))

/-- COMMIT applies the staged set and swaps the banks, COMMIT_AT names the instant, COMMIT_ABORT takes it back. From a
READY bank, COMMIT makes the staged words active, each with what its change entails, and the staged reservations, whose
meters start full where they change, increments EPOCH_NUM, leaves the bank DRAINING with nothing staged and the drain clock
at the present, counts the swap, raises source 153 and answers the EPOCH_NUM after the swap; COMMIT_AT of an instant after
the present and within 2^34 ns, on a package whose time is LOCKED or that is the root, makes the bank PENDING with that T
and answers the EPOCH_NUM that the swap will produce; COMMIT_ABORT returns a PENDING bank to READY. -/
def Obligations.CommitCommands : Prop :=
  (∀ (r : GcpReq) (u v z : State) (s t : State),
    taken .none false r s = true → s.stage.bank = .ready →
    u = { s with
          stage := { s.stage with
            rws := (s.stage.staged.map (fun e => (e.1, becomes s e))).foldl (fun m e => Maps.insert e.1 e.2 m)
              s.stage.rws,
            resv := s.stage.resvStaged.foldl (fun m e => Maps.insert e.1 e.2 m) s.stage.resv,
            epoch := s.stage.epoch + 1,
            staged := [],
            resvStaged := [],
            tblStaged := false,
            bank := .draining,
            lastSwap := s.time.now,
            drainClk := s.time.now,
            commitT := 0 } } →
    v = (s.stage.staged.map (fun e => objAddr e.1)).eraseDups.foldl (fun t a => commitWord s a t) u →
    s.stage.resvStaged = [] → z = raise 153 1 (inc (cnpCtr 16) v) →
    t = ok r [z.stage.epoch] z →
    (s.pw.stopped = false → exec (.commit r) s = .next (follows t)) ∧
    (quiet s t = true → exec (.commit r) s = .next t)) ∧
  (∀ (r : GcpReq) (u v z : State) (k : Nat) (ws : List Word) (s t : State),
    taken .none false r s = true → s.stage.bank = .ready →
    u = { s with
          stage := { s.stage with
            rws := (s.stage.staged.map (fun e => (e.1, becomes s e))).foldl (fun m e => Maps.insert e.1 e.2 m)
              s.stage.rws,
            resv := s.stage.resvStaged.foldl (fun m e => Maps.insert e.1 e.2 m) s.stage.resv,
            epoch := s.stage.epoch + 1,
            staged := [],
            resvStaged := [],
            tblStaged := false,
            bank := .draining,
            lastSwap := s.time.now,
            drainClk := s.time.now,
            commitT := 0 } } →
    v = (s.stage.staged.map (fun e => objAddr e.1)).eraseDups.foldl (fun t a => commitWord s a t) u →
    s.stage.resvStaged = [(k, ws)] → Maps.get [] s.stage.resv k ≠ ws →
    z = raise 153 1 (inc (cnpCtr 16) (meterAfresh (k / 2 ^ 14) (k % 2 ^ 14) { v with
          net.meters := Maps.put {} v.net.meters (resvMeter (k / 2 ^ 14) (k % 2 ^ 14)) (fullMeter (fAt (resv v (k / 2 ^
            14) (k % 2 ^ 14)) 3 0 24) (fAt (resv v (k / 2 ^ 14) (k % 2 ^ 14)) 4 0 24) v.time.now) })) →
    t = ok r [z.stage.epoch] z →
    (s.pw.stopped = false → exec (.commit r) s = .next (follows t)) ∧
    (quiet s t = true → exec (.commit r) s = .next t)) ∧
  (∀ (r : GcpReq) (z : State) (s t : State),
    taken .none false r s = true → s.stage.bank = .ready → s.stage.staged = [] → s.stage.resvStaged = [] →
    z = raise 153 1 (inc (cnpCtr 16) { s with
          stage := { s.stage with
            epoch := s.stage.epoch + 1,
            tblStaged := false,
            bank := .draining,
            lastSwap := s.time.now,
            drainClk := s.time.now,
            commitT := 0 } }) →
    t = ok r [z.stage.epoch] z →
    (s.pw.stopped = false → exec (.commit r) s = .next (follows t)) ∧
    (quiet s t = true → exec (.commit r) s = .next t)) ∧
  (∀ (r : GcpReq) (s t : State),
    taken .none false r s = true → s.stage.bank = .ready → s.time.now < u64 r.words 5 →
    u64 r.words 5 ≤ s.time.now + 2 ^ 34 → s.time.st = .locked ∨ rwsF s 0x05000000 0 1 = 1 →
    t = ok r [s.stage.epoch + 1] { s with stage.bank := .pending, stage.commitT := u64 r.words 5 } →
    (s.pw.stopped = false → exec (.commitAt r) s = .next (follows t)) ∧
    (quiet s t = true → exec (.commitAt r) s = .next t)) ∧
  (∀ (r : GcpReq) (s t : State),
    taken .none false r s = true → s.stage.bank = .pending → s.time.now < s.stage.commitT →
    t = ok r [] { admitIfDue s with stage.bank := .ready, stage.commitT := 0 } →
    (s.pw.stopped = false → exec (.commitAbort r) s = .next (follows t)) ∧
    (quiet s t = true → exec (.commitAbort r) s = .next t)) ∧
  (∀ (r : GcpReq) (s t : State),
    taken .none false r s = true → s.stage.bank = .pending → s.stage.commitT ≤ s.time.now →
    t = fail r stEpochPassed (swapIfDue s) →
    (s.pw.stopped = false → exec (.commitAbort r) s = .next (follows t)) ∧
    (quiet s t = true → exec (.commitAbort r) s = .next t)) ∧
  (∀ (r : GcpReq) (s t : State),
    taken .none false r s = true → s.stage.bank = .draining ∨ s.stage.bank = .copying →
    t = fail r stEpochPassed (admitIfDue s) →
    (s.pw.stopped = false → exec (.commitAbort r) s = .next (follows t)) ∧
    (quiet s t = true → exec (.commitAbort r) s = .next t)) ∧
  (∀ (r : GcpReq) (s t : State),
    taken .none false r s = true → s.stage.bank = .opened ∨ s.stage.bank = .ready →
    t = fail r stNotPermitted (admitIfDue s) →
    (s.pw.stopped = false → exec (.commitAbort r) s = .next (follows t)) ∧
    (quiet s t = true → exec (.commitAbort r) s = .next t))

/-- The steps of a commit that the hardware takes by itself. CHECK_DONE of a staged set without a failure makes the bank
READY and answers EMPTY 0, and with one leaves it OPEN and answers CHECK_FAILED with the failure; at T a PENDING bank
swaps, with no ADMIT pending, and COMMIT_UNLOCKED is raised where the package is neither LOCKED nor the root; a DRAINING
bank that meets its drain conditions goes COPYING with DRAIN_DONE; a COPYING bank becomes OPEN with the three tables copied
from the active bank, and the errors of the words so written are gone. -/
def Obligations.BankSequence : Prop :=
  (∀ (q : GcpReq) (s t : State),
    s.stage.checking = some q → checkFailure (afterCommit { s with stage.checking := none }) = none →
    t = endCmds (fun r => opcodeOf r == 0x103) stOk 0 0 [0] { s with stage.checking := none, stage.bank := .ready } →
    (s.pw.stopped = false → exec (.checkDone) s = .next (follows t)) ∧
    (quiet s t = true → exec (.checkDone) s = .next t)) ∧
  (∀ (q : GcpReq) (d1 d2 : Nat) (s t : State),
    s.stage.checking = some q → checkFailure (afterCommit { s with stage.checking := none }) = some (d1, d2) →
    t = endCmds (fun r => opcodeOf r == 0x103) stCheckFailed d1 d2 [] { s with
          stage.checking := none,
          stage.bank := .opened } →
    (s.pw.stopped = false → exec (.checkDone) s = .next (follows t)) ∧
    (quiet s t = true → exec (.checkDone) s = .next t)) ∧
  (∀ (s t : State),
    s.stage.bank = .pending → s.stage.commitT ≤ s.time.now → s.time.st = .locked → s.net.graft.admission = none →
    t = swapBanks s →
    (s.pw.stopped = false → exec (.epochSwap) s = .next (follows t)) ∧
    (quiet s t = true → exec (.epochSwap) s = .next t)) ∧
  (∀ (s t : State),
    s.stage.bank = .pending → s.stage.commitT ≤ s.time.now → s.time.st ≠ .locked → rwsF s 0x05000000 0 1 = 0 →
    s.net.graft.admission = none →
    t = raise 306 0x40 (swapBanks s) →
    (s.pw.stopped = false → exec (.epochSwap) s = .next (follows t)) ∧
    (quiet s t = true → exec (.epochSwap) s = .next t)) ∧
  (∀ (s t : State),
    s.stage.bank = .draining → drained s = true →
    t = raise 153 2 { s with stage.bank := .copying, stage.lastDrain := s.time.now } →
    (s.pw.stopped = false → exec (.drainDone) s = .next (follows t)) ∧
    (quiet s t = true → exec (.drainDone) s = .next t)) ∧
  (∀ (s t : State),
    s.stage.bank = .copying →
    t = eccWrite (fun x => decide (x.1 < 128) && (x.2 / 2 ^ 20 == 1) != activeEpoch s) { s with
          stage.bank := .opened,
          stage.ft := copyBank (activeEpoch s) s.stage.ft,
          stage.dt := copyBank (activeEpoch s) s.stage.dt,
          stage.la := copyBank (activeEpoch s) s.stage.la } →
    (s.pw.stopped = false → exec (.bankCopyDone) s = .next (follows t)) ∧
    (quiet s t = true → exec (.bankCopyDone) s = .next t))

/-- Bulk loading, staging and reading of tables. With the HBM interface serving: BULK_LOAD within 1 GiB writes its bytes to
the staging region; BULK_STAGE of a range within one staging view, or within the tree contexts, begins the copy; when the
copy ends, its words are staged as STAGE_WRITE would stage them; BULK_READ answers the words of a bank or staging view. -/
def Obligations.BulkTables : Prop :=
  (∀ (r : GcpReq) (s t : State),
    taken .writes false r s = true → hbmOk s = true → (wAt r.words 5).toNat + (wAt r.words 2).toNat ≤ 2 ^ 30 →
    t = ok r [] { s with
          stage.bulk := Maps.putList 0 s.stage.bulk (wAt r.words 5).toNat ((wBytes (dataOf r 6)).take (wAt r.words
            2).toNat) } →
    (s.pw.stopped = false → exec (.bulkLoad r) s = .next (follows t)) ∧
    (quiet s t = true → exec (.bulkLoad r) s = .next t)) ∧
  (∀ (r : GcpReq) (s t : State),
    taken .none false r s = true → hbmOk s = true → (wAt r.words 7).toNat ≠ 0 → (wAt r.words 7).toNat % 4 = 0 →
    (wAt r.words 6).toNat % 4 = 0 → (wAt r.words 5).toNat + (wAt r.words 7).toNat ≤ 2 ^ 30 →
    stageView s.grade425 (wAt r.words 6).toNat ≠ none →
    stageView s.grade425 (wAt r.words 6).toNat = stageView s.grade425 ((wAt r.words 6).toNat + (wAt r.words 7).toNat - 4) →
    stageRefusal s [(wAt r.words 6).toNat, (wAt r.words 6).toNat + (wAt r.words 7).toNat - 4] = none →
    t = hold r { s with stage.bulkJob := some ((wAt r.words 5).toNat, (wAt r.words 6).toNat, (wAt r.words 7).toNat, r) } →
    (s.pw.stopped = false → exec (.bulkStage r) s = .next (follows t)) ∧
    (quiet s t = true → exec (.bulkStage r) s = .next t)) ∧
  (∀ (src a n : Nat) (q : GcpReq) (s t : State),
    s.stage.bulkJob = some (src, a, n, q) → hbmOk s = true → stageRefusal s (wordAddrs a (n / 4)) = none →
    t = endCmds (fun r => opcodeOf r == 0x201) stOk 0 0 [] (unready (stageWords a (bulkWords s src (n / 4)) { s with
          stage.bulkJob := none })) →
    (s.pw.stopped = false → exec (.bulkStageDone) s = .next (follows t)) ∧
    (quiet s t = true → exec (.bulkStageDone) s = .next t)) ∧
  (∀ (r : GcpReq) (s t : State),
    taken .reads false r s = true → hbmOk s = true → (wAt r.words 5).toNat % 4 = 0 → (wAt r.words 2).toNat % 4 = 0 →
    ((wordAddrs (wAt r.words 5).toNat ((wAt r.words 2).toNat / 4)).map (bulkReadWord s)).any Option.isNone = false →
    t = okData r ((wordAddrs (wAt r.words 5).toNat ((wAt r.words 2).toNat / 4)).map (fun a => (bulkReadWord s a).getD 0))
        s →
    (s.pw.stopped = false → exec (.bulkRead r) s = .next (follows t)) ∧
    (quiet s t = true → exec (.bulkRead r) s = .next t))

/-- The port commands act on a port that is ON and not fenced, and change nothing where they are refused. PORT_ENABLE on a
DISABLED or FAILED port whose Bough is not refreshing starts full training and stays in execution; in TRAINING, LOCKING,
IDENT or GRACE it joins what is in progress; on a port that is UP it answers OK and does nothing. PORT_DISABLE disables and
answers OK; on a port whose domain is not ON it answers OK and does nothing. PORT_TRAIN on a DISABLED or FAILED port starts
full training, in TRAINING, LOCKING or IDENT joins it, in GRACE starts the training that FULL names unless one is in
progress, and on a port that is UP without a request of its own sends RETRAIN_REQ with FULL as given. PORT_WIDTH on such a
port with a valid width and mask sends WIDTH_REQ. PORT_STATUS answers the five registers, whatever the port's state.
PORT_ENABLE, PORT_TRAIN and PORT_WIDTH on a fenced port, or one whose domain is not ON, answer UNIT_FENCED, and so does
PORT_DISABLE on a fenced port whose domain is ON; PORT_ENABLE while the replica of the port's Bough is refreshing answers
BUSY; PORT_WIDTH with a width above the configured one or a mask that is not valid for it answers BAD_PARAM; a valid
PORT_WIDTH answers BUSY while a request of the port's own is outstanding, and else NOT_PERMITTED on a port that is not UP;
PORT_TRAIN on a port that is UP with an outstanding request of its own answers BUSY. Nothing changes but the reply. -/
def Obligations.PortCommands : Prop :=
  (∀ (r : GcpReq) (s t : State),
    taken .none false r s = true → portBarred s (pcPort r) = false →
    (Maps.get {} s.net.boughs (pcPort r / 4)).refreshing = false →
    (port s (pcPort r)).st = .disabled ∨ (port s (pcPort r)).st = .failed →
    t = hold r (enterTraining (pcPort r) s) →
    (s.pw.stopped = false → exec (.portEnable r) s = .next (follows t)) ∧
    (quiet s t = true → exec (.portEnable r) s = .next t)) ∧
  (∀ (r : GcpReq) (s t : State),
    taken .none false r s = true → portBarred s (pcPort r) = false →
    (Maps.get {} s.net.boughs (pcPort r / 4)).refreshing = false →
    (port s (pcPort r)).st ∈ [.training, .locking, .ident, .grace] →
    t = hold r s →
    (s.pw.stopped = false → exec (.portEnable r) s = .next (follows t)) ∧
    (quiet s t = true → exec (.portEnable r) s = .next t)) ∧
  (∀ (r : GcpReq) (s t : State),
    taken .none false r s = true → portBarred s (pcPort r) = false →
    (Maps.get {} s.net.boughs (pcPort r / 4)).refreshing = false → (port s (pcPort r)).st = .up →
    t = ok r [] s →
    (s.pw.stopped = false → exec (.portEnable r) s = .next (follows t)) ∧
    (quiet s t = true → exec (.portEnable r) s = .next t)) ∧
  (∀ (r : GcpReq) (s t : State),
    taken .none false r s = true → portBarred s (pcPort r) = false →
    t = ok r [] (disablePort (pcPort r) s) →
    (s.pw.stopped = false → exec (.portDisable r) s = .next (follows t)) ∧
    (quiet s t = true → exec (.portDisable r) s = .next t)) ∧
  (∀ (r : GcpReq) (s t : State),
    taken .none false r s = true → domOn s (dPort (pcPort r)) = false →
    t = ok r [] s →
    (s.pw.stopped = false → exec (.portDisable r) s = .next (follows t)) ∧
    (quiet s t = true → exec (.portDisable r) s = .next t)) ∧
  (∀ (r : GcpReq) (s t : State),
    taken .none false r s = true → portBarred s (pcPort r) = false →
    (port s (pcPort r)).st = .disabled ∨ (port s (pcPort r)).st = .failed →
    t = hold r (enterTraining (pcPort r) s) →
    (s.pw.stopped = false → exec (.portTrain r) s = .next (follows t)) ∧
    (quiet s t = true → exec (.portTrain r) s = .next t)) ∧
  (∀ (r : GcpReq) (s t : State),
    taken .none false r s = true → portBarred s (pcPort r) = false →
    (port s (pcPort r)).st ∈ [.training, .locking, .ident] →
    t = hold r s →
    (s.pw.stopped = false → exec (.portTrain r) s = .next (follows t)) ∧
    (quiet s t = true → exec (.portTrain r) s = .next t)) ∧
  (∀ (r : GcpReq) (s t : State),
    taken .none false r s = true → portBarred s (pcPort r) = false → (port s (pcPort r)).st = .grace →
    (port s (pcPort r)).tr.train = .none →
    t = hold r (updPort (pcPort r) (startTrain (bAt r.words 5 8)) s) →
    (s.pw.stopped = false → exec (.portTrain r) s = .next (follows t)) ∧
    (quiet s t = true → exec (.portTrain r) s = .next t)) ∧
  (∀ (r : GcpReq) (s t : State),
    taken .none false r s = true → portBarred s (pcPort r) = false → (port s (pcPort r)).st = .grace →
    (port s (pcPort r)).tr.train ≠ .none →
    t = hold r s →
    (s.pw.stopped = false → exec (.portTrain r) s = .next (follows t)) ∧
    (quiet s t = true → exec (.portTrain r) s = .next t)) ∧
  (∀ (r : GcpReq) (s t : State),
    taken .none false r s = true → portBarred s (pcPort r) = false → (port s (pcPort r)).st = .up →
    (port s (pcPort r)).wd.own = none →
    t = newOwn (pcPort r) { retrain := true, full := bAt r.words 5 8 } (hold r s) →
    (s.pw.stopped = false → exec (.portTrain r) s = .next (follows t)) ∧
    (quiet s t = true → exec (.portTrain r) s = .next t)) ∧
  (∀ (r : GcpReq) (s t : State),
    taken .none false r s = true → portBarred s (pcPort r) = false → (port s (pcPort r)).st = .up →
    (port s (pcPort r)).wd.own = none → fAt r.words 5 8 2 ≤ rwsF s (prtBase (pcPort r)) 0 2 →
    maskOk (fAt r.words 5 8 2) (BitVec.ofNat 4 (fAt r.words 5 12 4)) = true →
    t = newOwn (pcPort r) { width := BitVec.ofNat 2 (fAt r.words 5 8 2), mask := BitVec.ofNat 4 (fAt r.words 5 12 4) }
        (hold r s) →
    (s.pw.stopped = false → exec (.portWidth r) s = .next (follows t)) ∧
    (quiet s t = true → exec (.portWidth r) s = .next t)) ∧
  (∀ (r : GcpReq) (s t : State),
    taken .none false r s = true →
    t = ok r (portRegs s (pcPort r)) s →
    (s.pw.stopped = false → exec (.portStatus r) s = .next (follows t)) ∧
    (quiet s t = true → exec (.portStatus r) s = .next t)) ∧
  (∀ (r : GcpReq) (s t : State),
    taken .none false r s = true → portBarred s (pcPort r) = true →
    t = fail r stUnitFenced s →
    (s.pw.stopped = false → exec (.portEnable r) s = .next (follows t)) ∧
    (quiet s t = true → exec (.portEnable r) s = .next t)) ∧
  (∀ (r : GcpReq) (s t : State),
    taken .none false r s = true → portBarred s (pcPort r) = true →
    t = fail r stUnitFenced s →
    (s.pw.stopped = false → exec (.portTrain r) s = .next (follows t)) ∧
    (quiet s t = true → exec (.portTrain r) s = .next t)) ∧
  (∀ (r : GcpReq) (s t : State),
    taken .none false r s = true → portBarred s (pcPort r) = true →
    t = fail r stUnitFenced s →
    (s.pw.stopped = false → exec (.portWidth r) s = .next (follows t)) ∧
    (quiet s t = true → exec (.portWidth r) s = .next t)) ∧
  (∀ (r : GcpReq) (s t : State),
    taken .none false r s = true → domOn s (dPort (pcPort r)) = true → fenced s (pcPort r) = true →
    t = fail r stUnitFenced s →
    (s.pw.stopped = false → exec (.portDisable r) s = .next (follows t)) ∧
    (quiet s t = true → exec (.portDisable r) s = .next t)) ∧
  (∀ (r : GcpReq) (s t : State),
    taken .none false r s = true → portBarred s (pcPort r) = false →
    rwsF s (prtBase (pcPort r)) 0 2 < fAt r.words 5 8 2 ∨ maskOk (fAt r.words 5 8 2) (BitVec.ofNat 4 (fAt r.words 5 12 4))
        = false →
    t = fail r stBadParam s →
    (s.pw.stopped = false → exec (.portWidth r) s = .next (follows t)) ∧
    (quiet s t = true → exec (.portWidth r) s = .next t)) ∧
  (∀ (r : GcpReq) (s t : State),
    taken .none false r s = true → portBarred s (pcPort r) = false → fAt r.words 5 8 2 ≤ rwsF s (prtBase (pcPort r)) 0 2 →
    maskOk (fAt r.words 5 8 2) (BitVec.ofNat 4 (fAt r.words 5 12 4)) = true → (port s (pcPort r)).wd.own.isSome = true →
    t = fail r stBusy s →
    (s.pw.stopped = false → exec (.portWidth r) s = .next (follows t)) ∧
    (quiet s t = true → exec (.portWidth r) s = .next t)) ∧
  (∀ (r : GcpReq) (s t : State),
    taken .none false r s = true → portBarred s (pcPort r) = false → fAt r.words 5 8 2 ≤ rwsF s (prtBase (pcPort r)) 0 2 →
    maskOk (fAt r.words 5 8 2) (BitVec.ofNat 4 (fAt r.words 5 12 4)) = true → (port s (pcPort r)).wd.own = none →
    (port s (pcPort r)).st ≠ .up →
    t = fail r stNotPermitted s →
    (s.pw.stopped = false → exec (.portWidth r) s = .next (follows t)) ∧
    (quiet s t = true → exec (.portWidth r) s = .next t)) ∧
  (∀ (r : GcpReq) (s t : State),
    taken .none false r s = true → portBarred s (pcPort r) = false →
    (Maps.get {} s.net.boughs (pcPort r / 4)).refreshing = true →
    t = fail r stBusy s →
    (s.pw.stopped = false → exec (.portEnable r) s = .next (follows t)) ∧
    (quiet s t = true → exec (.portEnable r) s = .next t)) ∧
  (∀ (r : GcpReq) (s t : State),
    taken .none false r s = true → portBarred s (pcPort r) = false → (port s (pcPort r)).st = .up →
    (port s (pcPort r)).wd.own.isSome = true →
    t = fail r stBusy s →
    (s.pw.stopped = false → exec (.portTrain r) s = .next (follows t)) ∧
    (quiet s t = true → exec (.portTrain r) s = .next t))

/-- The timers of training, locking, grace and an UP port do what they name. TRAINING_DONE takes a TRAINING port to LOCKING
with its lanes trained, and ends the training of a port in GRACE; TRAIN_TIMEOUT takes a TRAINING port to FAILED with
TRAIN_FAIL raised and its commands answered TIMED_OUT; LOCK_TIMEOUT takes LOCKING back to a full training;
QUICK_RETRAIN_FAIL in GRACE starts a full training; GRACE_EXPIRE raises FLUSH, flushes and goes to TRAINING with
AUTO_RETRAIN 1 and to FAILED with AUTO_RETRAIN 0; WIDTH_RELOCK_TIMEOUT without lock is a link failure. REPLAY_TIMEOUT
resends from the oldest unacknowledged cell and counts it, until eight in a row have gone without progress, when the link
fails; WIDTH_REQ_RESEND sends an unanswered request again, up to four sends, after which the link fails, with the training
that a RETRAIN_REQ named, and a PORT_WIDTH ends SUPERSEDED; TIME_EXCHANGE_TIMER sends a TIME_REQ with the next SEQ;
IDENT_TIMER sends IDENT; GOSSIP_TIMER has the four GOSSIP words of the present round sent, each a part of sixteen levels;
KEY_SWITCH takes the new slot when no cell under the old one is unacknowledged; SPILL_STOP_DONE ends spilling and, when no
port still stops, frees PD_HBM's transition. -/
def Obligations.PortTimers : Prop :=
  (∀ (n : Nat) (s t : State),
    (port s n).st = .training →
    t = updPort n (fun p => { p with
          st := .locking,
          tr := { p.tr with train := .none, coef := true, lanes := p.mask, goodRun := 0, badRun := 0, locked := false } })
        s →
    (s.pw.stopped = false → exec (.trainingDone n) s = .next (follows t)) ∧
    (quiet s t = true → exec (.trainingDone n) s = .next t)) ∧
  (∀ (n : Nat) (s t : State),
    (port s n).st = .grace → (port s n).tr.train ≠ .none →
    t = updPort n (fun p => { p with
          tr := { p.tr with train := .none, coef := true, lanes := p.mask, goodRun := 0, badRun := 0, locked := false } })
        s →
    (s.pw.stopped = false → exec (.trainingDone n) s = .next (follows t)) ∧
    (quiet s t = true → exec (.trainingDone n) s = .next t)) ∧
  (∀ (n : Nat) (s t : State),
    (port s n).st = .training →
    t = portFailed n (raise n 4 (updPort n (fun p => { p with st := .failed, tr := {} }) s)) →
    (s.pw.stopped = false → exec (.trainTimeout n) s = .next (follows t)) ∧
    (quiet s t = true → exec (.trainTimeout n) s = .next t)) ∧
  (∀ (n : Nat) (s t : State),
    (port s n).st = .locking →
    t = updPort n (fun p => startTrain true { p with st := .training }) s →
    (s.pw.stopped = false → exec (.lockTimeout n) s = .next (follows t)) ∧
    (quiet s t = true → exec (.lockTimeout n) s = .next t)) ∧
  (∀ (n : Nat) (s t : State),
    (port s n).st = .grace → (port s n).tr.train = .quick →
    t = updPort n (startTrain true) s →
    (s.pw.stopped = false → exec (.quickRetrainFail n) s = .next (follows t)) ∧
    (quiet s t = true → exec (.quickRetrainFail n) s = .next t)) ∧
  (∀ (n : Nat) (s t : State),
    (port s n).st = .grace → (port (raise n 2 s) n).st = .grace →
    t = (fun u => if rwsF u (prtBase n) 4 1 = 1 then updPort n (fun p => { p with
          st := .training,
          tr := { p.tr with
            train := if p.tr.train = .none then .full else p.tr.train,
            locked := false,
            goodRun := 0,
            badRun := 0,
            identOk := false,
            syncGot := 0,
            keyGot := false } }) u else portFailed n (updPort n (fun p => { p with
          st := .failed,
          tr := { coef := p.tr.coef } }) u)) (leftGrace n (flushPort n (raise n 2 s))) →
    (s.pw.stopped = false → exec (.graceExpire n) s = .next (follows t)) ∧
    (quiet s t = true → exec (.graceExpire n) s = .next t)) ∧
  (∀ (n : Nat) (s t : State),
    (port s n).wd.rxSwitch.isSome = true → (port s n).tr.locked = false →
    t = linkFailure n none s →
    (s.pw.stopped = false → exec (.widthRelockTimeout n) s = .next (follows t)) ∧
    (quiet s t = true → exec (.widthRelockTimeout n) s = .next t)) ∧
  (∀ (n : Nat) (s t : State),
    (port s n).st = .up → (port s n).rp.window ≠ [] → (port s n).rp.retries < 8 →
    t = inc (prtCtr n 7) (updPort n (fun p => { p with
          rp := { p.rp with resend := some 0, heard := true, retries := p.rp.retries + 1 } }) s) →
    (s.pw.stopped = false → exec (.replayTimeout n) s = .next (follows t)) ∧
    (quiet s t = true → exec (.replayTimeout n) s = .next t)) ∧
  (∀ (n : Nat) (s t : State),
    (port s n).st = .up → (port s n).rp.window ≠ [] → 8 ≤ (port s n).rp.retries →
    t = linkFailure n none s →
    (s.pw.stopped = false → exec (.replayTimeout n) s = .next (follows t)) ∧
    (quiet s t = true → exec (.replayTimeout n) s = .next t)) ∧
  (∀ (n : Nat) (o : LinkReq) (s t : State),
    (port s n).st = .up → (port s n).wd.own = some o → 4 ≤ o.sends →
    t = (if o.retrain then linkFailure n (some o.full) s else linkFailure n none (dropOwn n stSuperseded o s)) →
    (s.pw.stopped = false → exec (.widthReqResend n) s = .next (follows t)) ∧
    (quiet s t = true → exec (.widthReqResend n) s = .next t)) ∧
  (∀ (n : Nat) (o : LinkReq) (s t : State),
    (port s n).st = .up → (port s n).wd.own = some o → o.sends < 4 →
    t = sendOwn n o (updPort n (fun p => { p with wd := { p.wd with own := some { o with sends := o.sends + 1 } } }) s) →
    (s.pw.stopped = false → exec (.widthReqResend n) s = .next (follows t)) ∧
    (quiet s t = true → exec (.widthReqResend n) s = .next t)) ∧
  (∀ (n : Nat) (s t : State),
    (port s n).st = .up →
    t = sendLw n 0x20 [(8, 8, (port s n).tm.seq.toNat)] (updPort n (fun p => { p with
          tm := { p.tm with seq := p.tm.seq + 1 } }) s) →
    (s.pw.stopped = false → exec (.timeExchangeTimer n) s = .next (follows t)) ∧
    (quiet s t = true → exec (.timeExchangeTimer n) s = .next t)) ∧
  (∀ (n : Nat) (s t : State),
    (port s n).st = .up →
    t = updPort n (fun p => { p with rp := { p.rp with words := p.rp.words ++ [identWord s n] } }) s →
    (s.pw.stopped = false → exec (.identTimer n) s = .next (follows t)) ∧
    (quiet s t = true → exec (.identTimer n) s = .next t)) ∧
  (∀ (n : Nat) (s t : State),
    (port s n).st = .up →
    t = updPort n (fun p => { p with
          rp := { p.rp with
            gossip := (List.range 4).map (fun part => mkLw 0x30 ([(8, 2, part), (16, 8, s.time.now / 256 % 256)] ++
              (List.range 16).map (fun i => (24 + 4 * i, 4, gossipLevel s (16 * part + i))))) } }) s →
    (s.pw.stopped = false → exec (.gossipTimer n) s = .next (follows t)) ∧
    (quiet s t = true → exec (.gossipTimer n) s = .next t)) ∧
  (∀ (n : Nat) (k : Bool) (s t : State),
    (port s n).keySwitch = some k → (port s n).rp.window = [] → (port s n).rp.txq = [] →
    (outp s n).busy = none ∨ (outp s n).hold = true →
    t = updPort n (fun p => { p with kpTx := k, keySwitch := none }) s →
    (s.pw.stopped = false → exec (.keySwitch n) s = .next (follows t)) ∧
    (quiet s t = true → exec (.keySwitch n) s = .next t)) ∧
  (∀ (n : Nat) (s t : State),
    (port s n).spillStop = true → unackedCells (port s n) ≤ 4096 →
    (updPort n (fun p => { p with spill := false, spillStop := false }) s).net.ports.any (fun e => e.2.spillStop) = false →
    t = updDom dHbm (fun d => { d with held := false }) (updPort n (fun p => { p with
          spill := false,
          spillStop := false }) s) →
    (s.pw.stopped = false → exec (.spillStopDone n) s = .next (follows t)) ∧
    (quiet s t = true → exec (.spillStopDone n) s = .next t))

/-- Widths, lanes, and groups received and sent. WIDTH_SWITCH at a port whose last group carried WIDTH_NEXT sets the agreed
width and mask, and raises WIDTH_CHANGED; a narrowing also sets cause WIDTH of the output's assured state. LANE_DEGRADE
with AUTO_DEGRADE 1 at a port that is UP without a request of its own requests the widest valid mask that leaves the lane
out. A group received counts its corrected symbols and failed codewords and one toward lock; one that did not decode, or of
more than 40 flits, is discarded, counted in RX_GRP_BAD, and asks for a REPLAY_NAK; without lock nothing more is done. An
accepted one counts toward the 32 of REPLAY_ACK, ends a width switch at WIDTH_NEXT, acts by its link words in order and
then, in UP, takes its cells in order: a cell of another CSN, or a first cell whose LEN is no packet's, asks for a
REPLAY_NAK and ends the group; any other advances the CSN and the accepted count of its VC, and the last one completes its
packet. One clause each says what CREDIT, REPLAY_ACK, REPLAY_NAK, TIME_REQ, WIDTH_REQ, RETRAIN_REQ and RETRAIN_ACK, a word
of bad CRC and one of unknown type do. A group sent carries the words that are due, then cells to resend and new ones in
CSN order, with the CSN of the first; the new ones enter the replay window; a gap in a packet is an underrun, and the
packet's last cell ends it. WIDTH_NEXT waits for its time and a packet boundary; a TIME_REQ notes its instant; a cell that
cannot be read ends the group before it; a RETRAIN_ACK fails the link (logs 115, 118, 153). -/
def Obligations.LanesAndGroups : Prop :=
  (∀ (n : Nat) (w : BitVec 2) (m : BitVec 4) (x : Option Nat) (s t : State),
    (port s n).wd.txSwitch = some (w, m, x) → (port s n).wd.widthNext = true → w.toNat < (port s n).width.toNat →
    t = raise n 0x20 (asdCause n 1 (updPort n (fun p => { p with
          width := w,
          mask := m,
          wd := { p.wd with txSwitch := none, widthNext := false } }) s)) →
    (s.pw.stopped = false → exec (.widthSwitch n) s = .next (follows t)) ∧
    (quiet s t = true → exec (.widthSwitch n) s = .next t)) ∧
  (∀ (n : Nat) (w : BitVec 2) (m : BitVec 4) (x : Option Nat) (s t : State),
    (port s n).wd.txSwitch = some (w, m, x) → (port s n).wd.widthNext = true → (port s n).width.toNat ≤ w.toNat →
    t = raise n 0x20 (updPort n (fun p => { p with
          width := w,
          mask := m,
          wd := { p.wd with txSwitch := none, widthNext := false } }) s) →
    (s.pw.stopped = false → exec (.widthSwitch n) s = .next (follows t)) ∧
    (quiet s t = true → exec (.widthSwitch n) s = .next t)) ∧
  (∀ (n : Nat) (lane w : Nat) (m : BitVec 4) (s t : State),
    (port s n).st = .up → rwsF s (prtBase n) 5 1 = 1 → (port s n).wd.own = none → (port s n).mask.getLsbD lane = true →
    narrower (port s n).width.toNat (port s n).mask (port s n).tr.lanes lane = some (w, m) →
    t = newOwn n { width := BitVec.ofNat 2 w, mask := m } s →
    (s.pw.stopped = false → exec (.laneDegrade n lane) s = .next (follows t)) ∧
    (quiet s t = true → exec (.laneDegrade n lane) s = .next t)) ∧
  (∀ (n : Nat) (line : List Nat) (g : Group) (r a w v : State) (k : State) (s t : State),
    grouping (port s n) = true → received s n line = (g, r) →
    a = (List.range 4).foldl (fun x i => if g.symCorr.getD i 0 = 0 then x else count (prtCtr n (2 + i)) (g.symCorr.getD i
        0) x) (if g.uncorr = 0 then (if g.corrected = 0 then r else count (prtCtr n 0) g.corrected r) else count (prtCtr n
        1) g.uncorr (if g.corrected = 0 then r else count (prtCtr n 0) g.corrected r)) →
    g.decoded = true → fld g.hdr 18 6 + fld g.hdr 24 6 ≤ 40 → w = trackLock n g.good (winAdd n g.uncorr 0 0 g.symCorr a) →
    grouping (port w n) = true → (port w n).tr.locked = true →
    v = updPort n (fun p => { p with
          wd := if bitW g.hdr 30 then { p.wd with rxSwitch := none } else p.wd,
          rxMask := if bitW g.hdr 30 then (p.wd.rxSwitch.map (fun x => x.2)).getD p.rxMask else p.rxMask,
          rp := { p.rp with ackGroups := p.rp.ackGroups + 1, ackDue := p.rp.ackDue || decide (32 ≤ p.rp.ackGroups + 1) }
            }) w →
    k = (g.words.take (4 * fld g.hdr 18 6)).foldl (fun x l => rxWord n l x) v → (port k n).st ≠ .up ∨ fld g.hdr 24 6 = 0 →
    t = k →
    (s.pw.stopped = false → exec (.groupReceive n line) s = .next (follows t)) ∧
    (quiet s t = true → exec (.groupReceive n line) s = .next t)) ∧
  (∀ (n : Nat) (line : List Nat) (g : Group) (r a w v : State) (k : State) (s t : State),
    grouping (port s n) = true → received s n line = (g, r) →
    a = (List.range 4).foldl (fun x i => if g.symCorr.getD i 0 = 0 then x else count (prtCtr n (2 + i)) (g.symCorr.getD i
        0) x) (if g.uncorr = 0 then (if g.corrected = 0 then r else count (prtCtr n 0) g.corrected r) else count (prtCtr n
        1) g.uncorr (if g.corrected = 0 then r else count (prtCtr n 0) g.corrected r)) →
    g.decoded = true → fld g.hdr 18 6 + fld g.hdr 24 6 ≤ 40 → w = trackLock n g.good (winAdd n g.uncorr 0 0 g.symCorr a) →
    grouping (port w n) = true → (port w n).tr.locked = true →
    v = updPort n (fun p => { p with
          wd := if bitW g.hdr 30 then { p.wd with rxSwitch := none } else p.wd,
          rxMask := if bitW g.hdr 30 then (p.wd.rxSwitch.map (fun x => x.2)).getD p.rxMask else p.rxMask,
          rp := { p.rp with ackGroups := p.rp.ackGroups + 1, ackDue := p.rp.ackDue || decide (32 ≤ p.rp.ackGroups + 1) }
            }) w →
    k = (g.words.take (4 * fld g.hdr 18 6)).foldl (fun x l => rxWord n l x) v → (port k n).st = .up → fld g.hdr 24 6 ≠ 0 →
    gcmEn k n = false →
    t = acceptCells n (fld g.hdr 0 18) ((g.cells.drop (fld g.hdr 18 6)).take (fld g.hdr 24 6)) k →
    (s.pw.stopped = false → exec (.groupReceive n line) s = .next (follows t)) ∧
    (quiet s t = true → exec (.groupReceive n line) s = .next t)) ∧
  (∀ (n : Nat) (line : List Nat) (g : Group) (r a w : State) (s t : State),
    grouping (port s n) = true → received s n line = (g, r) →
    a = (List.range 4).foldl (fun x i => if g.symCorr.getD i 0 = 0 then x else count (prtCtr n (2 + i)) (g.symCorr.getD i
        0) x) (if g.uncorr = 0 then (if g.corrected = 0 then r else count (prtCtr n 0) g.corrected r) else count (prtCtr n
        1) g.uncorr (if g.corrected = 0 then r else count (prtCtr n 0) g.corrected r)) →
    g.decoded = false ∨ 40 < fld g.hdr 18 6 + fld g.hdr 24 6 →
    w = trackLock n g.good (inc (prtCtr n 6) (winAdd n g.uncorr 0 0 g.symCorr a)) →
    t = (if grouping (port w n) = true ∧ (port w n).tr.locked = true then wantNak n w else w) →
    (s.pw.stopped = false → exec (.groupReceive n line) s = .next (follows t)) ∧
    (quiet s t = true → exec (.groupReceive n line) s = .next t)) ∧
  (∀ (n : Nat) (line : List Nat) (g : Group) (r a w : State) (s t : State),
    grouping (port s n) = true → received s n line = (g, r) →
    a = (List.range 4).foldl (fun x i => if g.symCorr.getD i 0 = 0 then x else count (prtCtr n (2 + i)) (g.symCorr.getD i
        0) x) (if g.uncorr = 0 then (if g.corrected = 0 then r else count (prtCtr n 0) g.corrected r) else count (prtCtr n
        1) g.uncorr (if g.corrected = 0 then r else count (prtCtr n 0) g.corrected r)) →
    g.decoded = true → fld g.hdr 18 6 + fld g.hdr 24 6 ≤ 40 → w = trackLock n g.good (winAdd n g.uncorr 0 0 g.symCorr a) →
    grouping (port w n) = false ∨ (port w n).tr.locked = false →
    t = w →
    (s.pw.stopped = false → exec (.groupReceive n line) s = .next (follows t)) ∧
    (quiet s t = true → exec (.groupReceive n line) s = .next t)) ∧
  (∀ (n : Nat) (line : List Nat) (s t : State),
    grouping (port s n) = false →
    t = s →
    (s.pw.stopped = false → exec (.groupReceive n line) s = .next (follows t)) ∧
    (quiet s t = true → exec (.groupReceive n line) s = .next t)) ∧
  (∀ (n : Nat) (line : List Nat) (g : Group) (r a w v : State) (l : LinkWord) (s t : State),
    grouping (port s n) = true → received s n line = (g, r) →
    a = (List.range 4).foldl (fun x i => if g.symCorr.getD i 0 = 0 then x else count (prtCtr n (2 + i)) (g.symCorr.getD i
        0) x) (if g.uncorr = 0 then (if g.corrected = 0 then r else count (prtCtr n 0) g.corrected r) else count (prtCtr n
        1) g.uncorr (if g.corrected = 0 then r else count (prtCtr n 0) g.corrected r)) →
    g.decoded = true → fld g.hdr 18 6 + fld g.hdr 24 6 ≤ 40 → w = trackLock n g.good (winAdd n g.uncorr 0 0 g.symCorr a) →
    grouping (port w n) = true → (port w n).tr.locked = true →
    v = updPort n (fun p => { p with
          wd := if bitW g.hdr 30 then { p.wd with rxSwitch := none } else p.wd,
          rxMask := if bitW g.hdr 30 then (p.wd.rxSwitch.map (fun x => x.2)).getD p.rxMask else p.rxMask,
          rp := { p.rp with ackGroups := p.rp.ackGroups + 1, ackDue := p.rp.ackDue || decide (32 ≤ p.rp.ackGroups + 1) }
            }) w →
    (port w n).st = .up → fld g.hdr 24 6 = 0 →
    (g.words.take (4 * fld g.hdr 18 6)).filter (fun x => x != mkLw 0 []) = [l] → lwOk l = true → lwF l 0 8 = 1 →
    t = updPort n (fun p => { p with
          cr := { p.cr with
            freed := (List.range 4).foldl (fun m i => Maps.put 0 m (4 * lwF l 8 2 + i) (BitVec.ofNat 24 (lwF l (16 + 24 *
              i) 24))) p.cr.freed } }) v →
    (s.pw.stopped = false → exec (.groupReceive n line) s = .next (follows t)) ∧
    (quiet s t = true → exec (.groupReceive n line) s = .next t)) ∧
  (∀ (n : Nat) (line : List Nat) (g : Group) (r a w v : State) (l : LinkWord) (k : Nat) (s t : State),
    grouping (port s n) = true → received s n line = (g, r) →
    a = (List.range 4).foldl (fun x i => if g.symCorr.getD i 0 = 0 then x else count (prtCtr n (2 + i)) (g.symCorr.getD i
        0) x) (if g.uncorr = 0 then (if g.corrected = 0 then r else count (prtCtr n 0) g.corrected r) else count (prtCtr n
        1) g.uncorr (if g.corrected = 0 then r else count (prtCtr n 0) g.corrected r)) →
    g.decoded = true → fld g.hdr 18 6 + fld g.hdr 24 6 ≤ 40 → w = trackLock n g.good (winAdd n g.uncorr 0 0 g.symCorr a) →
    grouping (port w n) = true → (port w n).tr.locked = true →
    v = updPort n (fun p => { p with
          wd := if bitW g.hdr 30 then { p.wd with rxSwitch := none } else p.wd,
          rxMask := if bitW g.hdr 30 then (p.wd.rxSwitch.map (fun x => x.2)).getD p.rxMask else p.rxMask,
          rp := { p.rp with ackGroups := p.rp.ackGroups + 1, ackDue := p.rp.ackDue || decide (32 ≤ p.rp.ackGroups + 1) }
            }) w →
    (port w n).st = .up → fld g.hdr 24 6 = 0 →
    (g.words.take (4 * fld g.hdr 18 6)).filter (fun x => x != mkLw 0 []) = [l] → lwOk l = true → lwF l 0 8 = 3 →
    k = modSub 18 (lwF l 16 18) (oldestCsn (port v n)) → k ≤ (port v n).rp.window.length →
    t = updPort n (fun p => { p with
          rp := { p.rp with
            heard := true,
            window := p.rp.window.drop k,
            retries := if k = 0 then p.rp.retries else 0,
            resend := p.rp.resend.map (fun q => q - k) } }) v →
    (s.pw.stopped = false → exec (.groupReceive n line) s = .next (follows t)) ∧
    (quiet s t = true → exec (.groupReceive n line) s = .next t)) ∧
  (∀ (n : Nat) (line : List Nat) (g : Group) (r a w v : State) (l : LinkWord) (s t : State),
    grouping (port s n) = true → received s n line = (g, r) →
    a = (List.range 4).foldl (fun x i => if g.symCorr.getD i 0 = 0 then x else count (prtCtr n (2 + i)) (g.symCorr.getD i
        0) x) (if g.uncorr = 0 then (if g.corrected = 0 then r else count (prtCtr n 0) g.corrected r) else count (prtCtr n
        1) g.uncorr (if g.corrected = 0 then r else count (prtCtr n 0) g.corrected r)) →
    g.decoded = true → fld g.hdr 18 6 + fld g.hdr 24 6 ≤ 40 → w = trackLock n g.good (winAdd n g.uncorr 0 0 g.symCorr a) →
    grouping (port w n) = true → (port w n).tr.locked = true →
    v = updPort n (fun p => { p with
          wd := if bitW g.hdr 30 then { p.wd with rxSwitch := none } else p.wd,
          rxMask := if bitW g.hdr 30 then (p.wd.rxSwitch.map (fun x => x.2)).getD p.rxMask else p.rxMask,
          rp := { p.rp with ackGroups := p.rp.ackGroups + 1, ackDue := p.rp.ackDue || decide (32 ≤ p.rp.ackGroups + 1) }
            }) w →
    (port w n).st = .up → fld g.hdr 24 6 = 0 →
    (g.words.take (4 * fld g.hdr 18 6)).filter (fun x => x != mkLw 0 []) = [l] → lwOk l = true → lwF l 0 8 = 3 →
    (port v n).rp.window.length < modSub 18 (lwF l 16 18) (oldestCsn (port v n)) →
    t = v →
    (s.pw.stopped = false → exec (.groupReceive n line) s = .next (follows t)) ∧
    (quiet s t = true → exec (.groupReceive n line) s = .next t)) ∧
  (∀ (n : Nat) (line : List Nat) (g : Group) (r a w v : State) (l : LinkWord) (k : Nat) (s t : State),
    grouping (port s n) = true → received s n line = (g, r) →
    a = (List.range 4).foldl (fun x i => if g.symCorr.getD i 0 = 0 then x else count (prtCtr n (2 + i)) (g.symCorr.getD i
        0) x) (if g.uncorr = 0 then (if g.corrected = 0 then r else count (prtCtr n 0) g.corrected r) else count (prtCtr n
        1) g.uncorr (if g.corrected = 0 then r else count (prtCtr n 0) g.corrected r)) →
    g.decoded = true → fld g.hdr 18 6 + fld g.hdr 24 6 ≤ 40 → w = trackLock n g.good (winAdd n g.uncorr 0 0 g.symCorr a) →
    grouping (port w n) = true → (port w n).tr.locked = true →
    v = updPort n (fun p => { p with
          wd := if bitW g.hdr 30 then { p.wd with rxSwitch := none } else p.wd,
          rxMask := if bitW g.hdr 30 then (p.wd.rxSwitch.map (fun x => x.2)).getD p.rxMask else p.rxMask,
          rp := { p.rp with ackGroups := p.rp.ackGroups + 1, ackDue := p.rp.ackDue || decide (32 ≤ p.rp.ackGroups + 1) }
            }) w →
    (port w n).st = .up → fld g.hdr 24 6 = 0 →
    (g.words.take (4 * fld g.hdr 18 6)).filter (fun x => x != mkLw 0 []) = [l] → lwOk l = true → lwF l 0 8 = 4 →
    k = modSub 18 (lwF l 16 18) (oldestCsn (port v n)) → k < (port v n).rp.window.length → k ≠ 0 →
    t = inc (prtCtr n 7) (updPort n (fun p => { p with
          rp := { p.rp with heard := true, window := p.rp.window.drop k, resend := some 0, retries := 1 } }) v) →
    (s.pw.stopped = false → exec (.groupReceive n line) s = .next (follows t)) ∧
    (quiet s t = true → exec (.groupReceive n line) s = .next t)) ∧
  (∀ (n : Nat) (line : List Nat) (g : Group) (r a w v : State) (l : LinkWord) (s t : State),
    grouping (port s n) = true → received s n line = (g, r) →
    a = (List.range 4).foldl (fun x i => if g.symCorr.getD i 0 = 0 then x else count (prtCtr n (2 + i)) (g.symCorr.getD i
        0) x) (if g.uncorr = 0 then (if g.corrected = 0 then r else count (prtCtr n 0) g.corrected r) else count (prtCtr n
        1) g.uncorr (if g.corrected = 0 then r else count (prtCtr n 0) g.corrected r)) →
    g.decoded = true → fld g.hdr 18 6 + fld g.hdr 24 6 ≤ 40 → w = trackLock n g.good (winAdd n g.uncorr 0 0 g.symCorr a) →
    grouping (port w n) = true → (port w n).tr.locked = true →
    v = updPort n (fun p => { p with
          wd := if bitW g.hdr 30 then { p.wd with rxSwitch := none } else p.wd,
          rxMask := if bitW g.hdr 30 then (p.wd.rxSwitch.map (fun x => x.2)).getD p.rxMask else p.rxMask,
          rp := { p.rp with ackGroups := p.rp.ackGroups + 1, ackDue := p.rp.ackDue || decide (32 ≤ p.rp.ackGroups + 1) }
            }) w →
    (port w n).st = .up → fld g.hdr 24 6 = 0 →
    (g.words.take (4 * fld g.hdr 18 6)).filter (fun x => x != mkLw 0 []) = [l] → lwOk l = true → lwF l 0 8 = 0x20 →
    t = sendLw n 0x21 [(8, 8, lwF l 8 8), (32, 80, stamp v)] v →
    (s.pw.stopped = false → exec (.groupReceive n line) s = .next (follows t)) ∧
    (quiet s t = true → exec (.groupReceive n line) s = .next t)) ∧
  (∀ (n : Nat) (line : List Nat) (g : Group) (r a w v : State) (l : LinkWord) (s t : State),
    grouping (port s n) = true → received s n line = (g, r) →
    a = (List.range 4).foldl (fun x i => if g.symCorr.getD i 0 = 0 then x else count (prtCtr n (2 + i)) (g.symCorr.getD i
        0) x) (if g.uncorr = 0 then (if g.corrected = 0 then r else count (prtCtr n 0) g.corrected r) else count (prtCtr n
        1) g.uncorr (if g.corrected = 0 then r else count (prtCtr n 0) g.corrected r)) →
    g.decoded = true → fld g.hdr 18 6 + fld g.hdr 24 6 ≤ 40 → w = trackLock n g.good (winAdd n g.uncorr 0 0 g.symCorr a) →
    grouping (port w n) = true → (port w n).tr.locked = true →
    v = updPort n (fun p => { p with
          wd := if bitW g.hdr 30 then { p.wd with rxSwitch := none } else p.wd,
          rxMask := if bitW g.hdr 30 then (p.wd.rxSwitch.map (fun x => x.2)).getD p.rxMask else p.rxMask,
          rp := { p.rp with ackGroups := p.rp.ackGroups + 1, ackDue := p.rp.ackDue || decide (32 ≤ p.rp.ackGroups + 1) }
            }) w →
    (port w n).st = .up → fld g.hdr 24 6 = 0 →
    (g.words.take (4 * fld g.hdr 18 6)).filter (fun x => x != mkLw 0 []) = [l] → lwOk l = true → lwF l 0 8 = 0x10 →
    (port v n).wd.own = none → lwF l 16 2 ≤ rwsF v (prtBase n) 0 2 → lwF l 16 2 ≠ 3 →
    maskOk (lwF l 16 2) (BitVec.ofNat 4 (lwF l 20 4)) = true →
    BitVec.ofNat 4 (lwF l 20 4) &&& ~~~ (port v n).tr.lanes = 0 →
    t = updPort n (fun p => { p with
          wd := { p.wd with
            txSwitch := some (BitVec.ofNat 2 (lwF l 16 2), BitVec.ofNat 4 (lwF l 20 4), none),
            rxSwitch := some (BitVec.ofNat 2 (lwF l 16 2), BitVec.ofNat 4 (lwF l 20 4)) } }) (sendLw n 0x11 [(8, 8, lwF l
        8 8), (16, 2, lwF l 16 2), (20, 4, lwF l 20 4)] v) →
    (s.pw.stopped = false → exec (.groupReceive n line) s = .next (follows t)) ∧
    (quiet s t = true → exec (.groupReceive n line) s = .next t)) ∧
  (∀ (n : Nat) (line : List Nat) (g : Group) (r a w v : State) (l : LinkWord) (s t : State),
    grouping (port s n) = true → received s n line = (g, r) →
    a = (List.range 4).foldl (fun x i => if g.symCorr.getD i 0 = 0 then x else count (prtCtr n (2 + i)) (g.symCorr.getD i
        0) x) (if g.uncorr = 0 then (if g.corrected = 0 then r else count (prtCtr n 0) g.corrected r) else count (prtCtr n
        1) g.uncorr (if g.corrected = 0 then r else count (prtCtr n 0) g.corrected r)) →
    g.decoded = true → fld g.hdr 18 6 + fld g.hdr 24 6 ≤ 40 → w = trackLock n g.good (winAdd n g.uncorr 0 0 g.symCorr a) →
    grouping (port w n) = true → (port w n).tr.locked = true →
    v = updPort n (fun p => { p with
          wd := if bitW g.hdr 30 then { p.wd with rxSwitch := none } else p.wd,
          rxMask := if bitW g.hdr 30 then (p.wd.rxSwitch.map (fun x => x.2)).getD p.rxMask else p.rxMask,
          rp := { p.rp with ackGroups := p.rp.ackGroups + 1, ackDue := p.rp.ackDue || decide (32 ≤ p.rp.ackGroups + 1) }
            }) w →
    (port w n).st = .up → fld g.hdr 24 6 = 0 →
    (g.words.take (4 * fld g.hdr 18 6)).filter (fun x => x != mkLw 0 []) = [l] → lwOk l = true → lwF l 0 8 = 0x13 →
    (port v n).wd.own = none →
    t = sendLw n 0x14 [(8, 8, lwF l 8 8), (16, 1, lwF l 16 1)] v →
    (s.pw.stopped = false → exec (.groupReceive n line) s = .next (follows t)) ∧
    (quiet s t = true → exec (.groupReceive n line) s = .next t)) ∧
  (∀ (n : Nat) (line : List Nat) (g : Group) (r a w v : State) (l : LinkWord) (o : LinkReq) (s t : State),
    grouping (port s n) = true → received s n line = (g, r) →
    a = (List.range 4).foldl (fun x i => if g.symCorr.getD i 0 = 0 then x else count (prtCtr n (2 + i)) (g.symCorr.getD i
        0) x) (if g.uncorr = 0 then (if g.corrected = 0 then r else count (prtCtr n 0) g.corrected r) else count (prtCtr n
        1) g.uncorr (if g.corrected = 0 then r else count (prtCtr n 0) g.corrected r)) →
    g.decoded = true → fld g.hdr 18 6 + fld g.hdr 24 6 ≤ 40 → w = trackLock n g.good (winAdd n g.uncorr 0 0 g.symCorr a) →
    grouping (port w n) = true → (port w n).tr.locked = true →
    v = updPort n (fun p => { p with
          wd := if bitW g.hdr 30 then { p.wd with rxSwitch := none } else p.wd,
          rxMask := if bitW g.hdr 30 then (p.wd.rxSwitch.map (fun x => x.2)).getD p.rxMask else p.rxMask,
          rp := { p.rp with ackGroups := p.rp.ackGroups + 1, ackDue := p.rp.ackDue || decide (32 ≤ p.rp.ackGroups + 1) }
            }) w →
    (port w n).st = .up → fld g.hdr 24 6 = 0 →
    (g.words.take (4 * fld g.hdr 18 6)).filter (fun x => x != mkLw 0 []) = [l] → lwOk l = true → lwF l 0 8 = 0x14 →
    (port v n).wd.own = some o → o.retrain = true → lwF l 8 8 = o.id.toNat →
    t = linkFailure n (some o.full) (updPort n (fun p => { p with wd := { p.wd with own := none } }) v) →
    (s.pw.stopped = false → exec (.groupReceive n line) s = .next (follows t)) ∧
    (quiet s t = true → exec (.groupReceive n line) s = .next t)) ∧
  (∀ (n : Nat) (line : List Nat) (g : Group) (r a w v : State) (l : LinkWord) (s t : State),
    grouping (port s n) = true → received s n line = (g, r) →
    a = (List.range 4).foldl (fun x i => if g.symCorr.getD i 0 = 0 then x else count (prtCtr n (2 + i)) (g.symCorr.getD i
        0) x) (if g.uncorr = 0 then (if g.corrected = 0 then r else count (prtCtr n 0) g.corrected r) else count (prtCtr n
        1) g.uncorr (if g.corrected = 0 then r else count (prtCtr n 0) g.corrected r)) →
    g.decoded = true → fld g.hdr 18 6 + fld g.hdr 24 6 ≤ 40 → w = trackLock n g.good (winAdd n g.uncorr 0 0 g.symCorr a) →
    grouping (port w n) = true → (port w n).tr.locked = true →
    v = updPort n (fun p => { p with
          wd := if bitW g.hdr 30 then { p.wd with rxSwitch := none } else p.wd,
          rxMask := if bitW g.hdr 30 then (p.wd.rxSwitch.map (fun x => x.2)).getD p.rxMask else p.rxMask,
          rp := { p.rp with ackGroups := p.rp.ackGroups + 1, ackDue := p.rp.ackDue || decide (32 ≤ p.rp.ackGroups + 1) }
            }) w →
    (port w n).st = .up → fld g.hdr 24 6 = 0 →
    (g.words.take (4 * fld g.hdr 18 6)).filter (fun x => x != mkLw 0 []) = [l] → lwOk l = false →
    t = winAdd n 0 1 0 [] (inc (prtCtr n 8) v) →
    (s.pw.stopped = false → exec (.groupReceive n line) s = .next (follows t)) ∧
    (quiet s t = true → exec (.groupReceive n line) s = .next t)) ∧
  (∀ (n : Nat) (line : List Nat) (g : Group) (r a w v : State) (l : LinkWord) (s t : State),
    grouping (port s n) = true → received s n line = (g, r) →
    a = (List.range 4).foldl (fun x i => if g.symCorr.getD i 0 = 0 then x else count (prtCtr n (2 + i)) (g.symCorr.getD i
        0) x) (if g.uncorr = 0 then (if g.corrected = 0 then r else count (prtCtr n 0) g.corrected r) else count (prtCtr n
        1) g.uncorr (if g.corrected = 0 then r else count (prtCtr n 0) g.corrected r)) →
    g.decoded = true → fld g.hdr 18 6 + fld g.hdr 24 6 ≤ 40 → w = trackLock n g.good (winAdd n g.uncorr 0 0 g.symCorr a) →
    grouping (port w n) = true → (port w n).tr.locked = true →
    v = updPort n (fun p => { p with
          wd := if bitW g.hdr 30 then { p.wd with rxSwitch := none } else p.wd,
          rxMask := if bitW g.hdr 30 then (p.wd.rxSwitch.map (fun x => x.2)).getD p.rxMask else p.rxMask,
          rp := { p.rp with ackGroups := p.rp.ackGroups + 1, ackDue := p.rp.ackDue || decide (32 ≤ p.rp.ackGroups + 1) }
            }) w →
    (port w n).st = .up → fld g.hdr 24 6 = 0 →
    (g.words.take (4 * fld g.hdr 18 6)).filter (fun x => x != mkLw 0 []) = [l] → lwOk l = true → lwF l 0 8 = 0x77 →
    t = winAdd n 0 0 1 [] (inc (prtCtr n 9) v) →
    (s.pw.stopped = false → exec (.groupReceive n line) s = .next (follows t)) ∧
    (quiet s t = true → exec (.groupReceive n line) s = .next t)) ∧
  (∀ (n : Nat) (line : List Nat) (g : Group) (r a w v : State) (c : Cell64) (s t : State),
    grouping (port s n) = true → received s n line = (g, r) →
    a = (List.range 4).foldl (fun x i => if g.symCorr.getD i 0 = 0 then x else count (prtCtr n (2 + i)) (g.symCorr.getD i
        0) x) (if g.uncorr = 0 then (if g.corrected = 0 then r else count (prtCtr n 0) g.corrected r) else count (prtCtr n
        1) g.uncorr (if g.corrected = 0 then r else count (prtCtr n 0) g.corrected r)) →
    g.decoded = true → fld g.hdr 18 6 + fld g.hdr 24 6 ≤ 40 → w = trackLock n g.good (winAdd n g.uncorr 0 0 g.symCorr a) →
    grouping (port w n) = true → (port w n).tr.locked = true →
    v = updPort n (fun p => { p with
          wd := if bitW g.hdr 30 then { p.wd with rxSwitch := none } else p.wd,
          rxMask := if bitW g.hdr 30 then (p.wd.rxSwitch.map (fun x => x.2)).getD p.rxMask else p.rxMask,
          rp := { p.rp with ackGroups := p.rp.ackGroups + 1, ackDue := p.rp.ackDue || decide (32 ≤ p.rp.ackGroups + 1) }
            }) w →
    (port w n).st = .up → fld g.hdr 18 6 = 0 → gcmEn w n = false →
    (g.cells.drop (fld g.hdr 18 6)).take (fld g.hdr 24 6) = [c] → fld g.hdr 0 18 ≠ (port w n).rp.rxCsn.toNat →
    t = wantNak n v →
    (s.pw.stopped = false → exec (.groupReceive n line) s = .next (follows t)) ∧
    (quiet s t = true → exec (.groupReceive n line) s = .next t)) ∧
  (∀ (n : Nat) (line : List Nat) (g : Group) (r a w v : State) (c : Cell64) (s t : State),
    grouping (port s n) = true → received s n line = (g, r) →
    a = (List.range 4).foldl (fun x i => if g.symCorr.getD i 0 = 0 then x else count (prtCtr n (2 + i)) (g.symCorr.getD i
        0) x) (if g.uncorr = 0 then (if g.corrected = 0 then r else count (prtCtr n 0) g.corrected r) else count (prtCtr n
        1) g.uncorr (if g.corrected = 0 then r else count (prtCtr n 0) g.corrected r)) →
    g.decoded = true → fld g.hdr 18 6 + fld g.hdr 24 6 ≤ 40 → w = trackLock n g.good (winAdd n g.uncorr 0 0 g.symCorr a) →
    grouping (port w n) = true → (port w n).tr.locked = true →
    v = updPort n (fun p => { p with
          wd := if bitW g.hdr 30 then { p.wd with rxSwitch := none } else p.wd,
          rxMask := if bitW g.hdr 30 then (p.wd.rxSwitch.map (fun x => x.2)).getD p.rxMask else p.rxMask,
          rp := { p.rp with ackGroups := p.rp.ackGroups + 1, ackDue := p.rp.ackDue || decide (32 ≤ p.rp.ackGroups + 1) }
            }) w →
    (port w n).st = .up → fld g.hdr 18 6 = 0 → gcmEn w n = false →
    (g.cells.drop (fld g.hdr 18 6)).take (fld g.hdr 24 6) = [c] → fld g.hdr 0 18 = (port w n).rp.rxCsn.toNat →
    (port w n).rp.rxLeft = 0 → bitsN c.toNat 82 7 = 0 ∨ 68 < bitsN c.toNat 82 7 →
    t = wantNak n (inc (prtCtr n 10) v) →
    (s.pw.stopped = false → exec (.groupReceive n line) s = .next (follows t)) ∧
    (quiet s t = true → exec (.groupReceive n line) s = .next t)) ∧
  (∀ (n : Nat) (line : List Nat) (g : Group) (r a w v : State) (c : Cell64) (s t : State),
    grouping (port s n) = true → received s n line = (g, r) →
    a = (List.range 4).foldl (fun x i => if g.symCorr.getD i 0 = 0 then x else count (prtCtr n (2 + i)) (g.symCorr.getD i
        0) x) (if g.uncorr = 0 then (if g.corrected = 0 then r else count (prtCtr n 0) g.corrected r) else count (prtCtr n
        1) g.uncorr (if g.corrected = 0 then r else count (prtCtr n 0) g.corrected r)) →
    g.decoded = true → fld g.hdr 18 6 + fld g.hdr 24 6 ≤ 40 → w = trackLock n g.good (winAdd n g.uncorr 0 0 g.symCorr a) →
    grouping (port w n) = true → (port w n).tr.locked = true →
    v = updPort n (fun p => { p with
          wd := if bitW g.hdr 30 then { p.wd with rxSwitch := none } else p.wd,
          rxMask := if bitW g.hdr 30 then (p.wd.rxSwitch.map (fun x => x.2)).getD p.rxMask else p.rxMask,
          rp := { p.rp with ackGroups := p.rp.ackGroups + 1, ackDue := p.rp.ackDue || decide (32 ≤ p.rp.ackGroups + 1) }
            }) w →
    (port w n).st = .up → fld g.hdr 18 6 = 0 → gcmEn w n = false →
    (g.cells.drop (fld g.hdr 18 6)).take (fld g.hdr 24 6) = [c] → fld g.hdr 0 18 = (port w n).rp.rxCsn.toNat →
    (port w n).rp.rxLeft = 0 → 1 < bitsN c.toNat 82 7 → bitsN c.toNat 82 7 ≤ 68 →
    w.net.voq.all (fun h => h.inp != n || h.whole) = true → carrying w n = none →
    t = updPort n (fun p => { p with
          cr := { p.cr with
            acc := Maps.upd 0 p.cr.acc (bitsN c.toNat 52 2 * 4 + bitsN c.toNat 50 2) (fun x => x + 1),
            sync := false },
          rp := { p.rp with
            rxCsn := p.rp.rxCsn + 1,
            nakAt := none,
            ackDue := true,
            rxCells := p.rp.rxCells ++ [c],
            rxLeft := bitsN c.toNat 82 7 - 1,
            rxVc := bitsN c.toNat 52 2 * 4 + bitsN c.toNat 50 2,
            rx := p.rp.rx ++ [{ n := bitsN c.toNat 82 7, vc := bitsN c.toNat 52 2 * 4 + bitsN c.toNat 50 2 }] } }) v →
    (s.pw.stopped = false → exec (.groupReceive n line) s = .next (follows t)) ∧
    (quiet s t = true → exec (.groupReceive n line) s = .next t)) ∧
  (∀ (n : Nat) (line : List Nat) (g : Group) (r a w v : State) (c : Cell64) (e : Arrival) (s t : State),
    grouping (port s n) = true → received s n line = (g, r) →
    a = (List.range 4).foldl (fun x i => if g.symCorr.getD i 0 = 0 then x else count (prtCtr n (2 + i)) (g.symCorr.getD i
        0) x) (if g.uncorr = 0 then (if g.corrected = 0 then r else count (prtCtr n 0) g.corrected r) else count (prtCtr n
        1) g.uncorr (if g.corrected = 0 then r else count (prtCtr n 0) g.corrected r)) →
    g.decoded = true → fld g.hdr 18 6 + fld g.hdr 24 6 ≤ 40 → w = trackLock n g.good (winAdd n g.uncorr 0 0 g.symCorr a) →
    grouping (port w n) = true → (port w n).tr.locked = true →
    v = updPort n (fun p => { p with
          wd := if bitW g.hdr 30 then { p.wd with rxSwitch := none } else p.wd,
          rxMask := if bitW g.hdr 30 then (p.wd.rxSwitch.map (fun x => x.2)).getD p.rxMask else p.rxMask,
          rp := { p.rp with ackGroups := p.rp.ackGroups + 1, ackDue := p.rp.ackDue || decide (32 ≤ p.rp.ackGroups + 1) }
            }) w →
    (port w n).st = .up → fld g.hdr 18 6 = 0 → gcmEn w n = false →
    (g.cells.drop (fld g.hdr 18 6)).take (fld g.hdr 24 6) = [c] → fld g.hdr 0 18 = (port w n).rp.rxCsn.toNat →
    (port w n).rp.rxLeft = 1 → (port w n).rp.rx = [e] → e.whole = false → e.arrived = false →
    w.net.voq.all (fun h => h.inp != n || h.whole) = true → carrying w n = none →
    t = updPort n (fun p => { p with
          cr := { p.cr with acc := Maps.upd 0 p.cr.acc p.rp.rxVc (fun x => x + 1), sync := false },
          rp := { p.rp with
            rxCsn := p.rp.rxCsn + 1,
            nakAt := none,
            ackDue := true,
            rxCells := [],
            rxLeft := 0,
            rx := [{ e with whole := true }] } }) v →
    (s.pw.stopped = false → exec (.groupReceive n line) s = .next (follows t)) ∧
    (quiet s t = true → exec (.groupReceive n line) s = .next t)) ∧
  (∀ (n : Nat) (line : List Nat) (g : Group) (r a w v : State) (c : Cell64) (e : Arrival) (s t : State),
    grouping (port s n) = true → received s n line = (g, r) →
    a = (List.range 4).foldl (fun x i => if g.symCorr.getD i 0 = 0 then x else count (prtCtr n (2 + i)) (g.symCorr.getD i
        0) x) (if g.uncorr = 0 then (if g.corrected = 0 then r else count (prtCtr n 0) g.corrected r) else count (prtCtr n
        1) g.uncorr (if g.corrected = 0 then r else count (prtCtr n 0) g.corrected r)) →
    g.decoded = true → fld g.hdr 18 6 + fld g.hdr 24 6 ≤ 40 → w = trackLock n g.good (winAdd n g.uncorr 0 0 g.symCorr a) →
    grouping (port w n) = true → (port w n).tr.locked = true →
    v = updPort n (fun p => { p with
          wd := if bitW g.hdr 30 then { p.wd with rxSwitch := none } else p.wd,
          rxMask := if bitW g.hdr 30 then (p.wd.rxSwitch.map (fun x => x.2)).getD p.rxMask else p.rxMask,
          rp := { p.rp with ackGroups := p.rp.ackGroups + 1, ackDue := p.rp.ackDue || decide (32 ≤ p.rp.ackGroups + 1) }
            }) w →
    (port w n).st = .up → fld g.hdr 18 6 = 0 → gcmEn w n = false →
    (g.cells.drop (fld g.hdr 18 6)).take (fld g.hdr 24 6) = [c] → fld g.hdr 0 18 = (port w n).rp.rxCsn.toNat → n < 64 →
    (port w n).rp.rxLeft = 1 → (port w n).rp.rx = [e] → e.whole = false → e.arrived = true → e.drop = true →
    w.net.voq.all (fun h => h.inp != n) = true → carrying w n = none →
    t = creditInput n (port w n).rp.rxVc ((port w n).rp.rxCells.length + 1) (updPort n (fun p => { p with
          cr := { p.cr with acc := Maps.upd 0 p.cr.acc p.rp.rxVc (fun x => x + 1), sync := false },
          rp := { p.rp with
            rxCsn := p.rp.rxCsn + 1,
            nakAt := none,
            ackDue := true,
            rxCells := [],
            rxLeft := 0,
            rx := [] } }) v) →
    (s.pw.stopped = false → exec (.groupReceive n line) s = .next (follows t)) ∧
    (quiet s t = true → exec (.groupReceive n line) s = .next t)) ∧
  (∀ (n : Nat) (s t : State),
    grouping (port s n) = false →
    t = s →
    (s.pw.stopped = false → exec (.groupTransmit n) s = .next (follows t)) ∧
    (quiet s t = true → exec (.groupTransmit n) s = .next t)) ∧
  (∀ (n : Nat) (ws : List LinkWord) (nc pos fr : Nat) (cs wi tq : List (Cell64 × Bool)) (hdr : Word) (enc : List Nat × Nat) (u : State) (s t : State),
    (port s n).st = .up → (port s n).tr.locked = true → (port s n).rp.heard = true ∨ (port s n).rp.window = [] →
    spillOn s n = false → (outp s n).busy.all (fun h => clsOf h.pkt != 2) = true →
    ((port s n).rp.words.take (160 - (groupWords s n).length)).all (fun w => lwF w 0 8 != 0x11 && lwF w 0 8 != 0x14 && lwF
        w 0 8 != 0x20) = true →
    ws = groupWords s n ++ ((port s n).rp.words.take (160 - (groupWords s n).length)).filterMap (stampWord (stamp s)) →
    nc = (ws.length + 3) / 4 → pos = (port s n).rp.resend.getD (port s n).rp.window.length →
    soundCells s n (modSub 18 ((port s n).rp.txCsn.toNat + pos) (port s n).rp.window.length) ((port s n).rp.window.drop
        pos).length = ((port s n).rp.window.drop pos).length →
    cs = ((port s n).rp.window.drop pos ++ (port s n).rp.txq.take (txAvail s n)).take (40 - nc) →
    fr = pos + cs.length - (port s n).rp.window.length → wi = (port s n).rp.window ++ (port s n).rp.txq.take fr →
    tq = (port s n).rp.txq.drop fr → (port s n).wd.txSwitch = none →
    hdr = pack [(0, 18, modSub 18 ((port s n).rp.txCsn.toNat + pos) (port s n).rp.window.length), (18, 6, nc), (24, 6,
        cs.length), (30, 1, 0), (31, 1, b2n (port s n).kpTx)] →
    enc = encodeGroup (port s n).scrTx.toNat hdr (ws ++ List.replicate (4 * nc - ws.length) (mkLw 0 [])) (cs.map (fun c =>
        c.1)) →
    u = emit (.group n hdr
        (ws ++ List.replicate (4 * nc - ws.length) (mkLw 0 [])) (cs.map (fun c => c.1)) enc.1) (eccWrite (fun e => e.1 ==
        eccReplay n && decide (modSub 18 e.2 (port s n).rp.txCsn.toNat < fr)) (updPort n (fun p => { p with
          cr := { p.cr with due := 0, sentAt := if p.cr.sentAt + 900 ≤ s.time.now then s.time.now else p.cr.sentAt },
          rp := { p.rp with
            words := p.rp.words.drop (160 - (groupWords s n).length),
            gossip := [],
            window := wi,
            txq := tq,
            resend := if wi.length ≤ pos + cs.length then none else p.rp.resend.map (fun _ => pos + cs.length),
            txCsn := p.rp.txCsn + BitVec.ofNat 18 fr,
            ackDue := false,
            nakDue := false,
            ackGroups := if p.rp.ackDue then 0 else p.rp.ackGroups },
          scrTx := BitVec.ofNat 58 enc.2 }) s)) →
    tq ≠ [] → cs.length = 40 - nc → cs ≠ [] →
    t = u →
    (s.pw.stopped = false → exec (.groupTransmit n) s = .next (follows t)) ∧
    (quiet s t = true → exec (.groupTransmit n) s = .next t)) ∧
  (∀ (n : Nat) (ws : List LinkWord) (nc pos fr : Nat) (cs wi tq : List (Cell64 × Bool)) (hdr : Word) (enc : List Nat × Nat) (u : State) (s t : State),
    (port s n).st = .up → (port s n).tr.locked = true → (port s n).rp.heard = true ∨ (port s n).rp.window = [] →
    spillOn s n = false → (outp s n).busy.all (fun h => clsOf h.pkt != 2) = true →
    ((port s n).rp.words.take (160 - (groupWords s n).length)).all (fun w => lwF w 0 8 != 0x11 && lwF w 0 8 != 0x14 && lwF
        w 0 8 != 0x20) = true →
    ws = groupWords s n ++ ((port s n).rp.words.take (160 - (groupWords s n).length)).filterMap (stampWord (stamp s)) →
    nc = (ws.length + 3) / 4 → pos = (port s n).rp.resend.getD (port s n).rp.window.length →
    soundCells s n (modSub 18 ((port s n).rp.txCsn.toNat + pos) (port s n).rp.window.length) ((port s n).rp.window.drop
        pos).length = ((port s n).rp.window.drop pos).length →
    cs = ((port s n).rp.window.drop pos ++ (port s n).rp.txq.take (txAvail s n)).take (40 - nc) →
    fr = pos + cs.length - (port s n).rp.window.length → wi = (port s n).rp.window ++ (port s n).rp.txq.take fr →
    tq = (port s n).rp.txq.drop fr → (port s n).wd.txSwitch = none →
    hdr = pack [(0, 18, modSub 18 ((port s n).rp.txCsn.toNat + pos) (port s n).rp.window.length), (18, 6, nc), (24, 6,
        cs.length), (30, 1, 0), (31, 1, b2n (port s n).kpTx)] →
    enc = encodeGroup (port s n).scrTx.toNat hdr (ws ++ List.replicate (4 * nc - ws.length) (mkLw 0 [])) (cs.map (fun c =>
        c.1)) →
    u = emit (.group n hdr
        (ws ++ List.replicate (4 * nc - ws.length) (mkLw 0 [])) (cs.map (fun c => c.1)) enc.1) (eccWrite (fun e => e.1 ==
        eccReplay n && decide (modSub 18 e.2 (port s n).rp.txCsn.toNat < fr)) (updPort n (fun p => { p with
          cr := { p.cr with due := 0, sentAt := if p.cr.sentAt + 900 ≤ s.time.now then s.time.now else p.cr.sentAt },
          rp := { p.rp with
            words := p.rp.words.drop (160 - (groupWords s n).length),
            gossip := [],
            window := wi,
            txq := tq,
            resend := if wi.length ≤ pos + cs.length then none else p.rp.resend.map (fun _ => pos + cs.length),
            txCsn := p.rp.txCsn + BitVec.ofNat 18 fr,
            ackDue := false,
            nakDue := false,
            ackGroups := if p.rp.ackDue then 0 else p.rp.ackGroups },
          scrTx := BitVec.ofNat 58 enc.2 }) s)) →
    tq ≠ [] → cs.length < 40 - nc ∨ cs = [] → (outp s n).hold = false →
    t = raise 154 0x10 (inc (shpBase n + 0x40 + 8 * 9) u) →
    (s.pw.stopped = false → exec (.groupTransmit n) s = .next (follows t)) ∧
    (quiet s t = true → exec (.groupTransmit n) s = .next t)) ∧
  (∀ (n : Nat) (ws : List LinkWord) (nc pos fr : Nat) (cs wi tq : List (Cell64 × Bool)) (hdr : Word) (enc : List Nat × Nat) (u : State) (s t : State),
    (port s n).st = .up → (port s n).tr.locked = true → (port s n).rp.heard = true ∨ (port s n).rp.window = [] →
    spillOn s n = false → (outp s n).busy.all (fun h => clsOf h.pkt != 2) = true →
    ((port s n).rp.words.take (160 - (groupWords s n).length)).all (fun w => lwF w 0 8 != 0x11 && lwF w 0 8 != 0x14 && lwF
        w 0 8 != 0x20) = true →
    ws = groupWords s n ++ ((port s n).rp.words.take (160 - (groupWords s n).length)).filterMap (stampWord (stamp s)) →
    nc = (ws.length + 3) / 4 → pos = (port s n).rp.resend.getD (port s n).rp.window.length →
    soundCells s n (modSub 18 ((port s n).rp.txCsn.toNat + pos) (port s n).rp.window.length) ((port s n).rp.window.drop
        pos).length = ((port s n).rp.window.drop pos).length →
    cs = ((port s n).rp.window.drop pos ++ (port s n).rp.txq.take (txAvail s n)).take (40 - nc) →
    fr = pos + cs.length - (port s n).rp.window.length → wi = (port s n).rp.window ++ (port s n).rp.txq.take fr →
    tq = (port s n).rp.txq.drop fr → (port s n).wd.txSwitch = none →
    hdr = pack [(0, 18, modSub 18 ((port s n).rp.txCsn.toNat + pos) (port s n).rp.window.length), (18, 6, nc), (24, 6,
        cs.length), (30, 1, 0), (31, 1, b2n (port s n).kpTx)] →
    enc = encodeGroup (port s n).scrTx.toNat hdr (ws ++ List.replicate (4 * nc - ws.length) (mkLw 0 [])) (cs.map (fun c =>
        c.1)) →
    u = emit (.group n hdr
        (ws ++ List.replicate (4 * nc - ws.length) (mkLw 0 [])) (cs.map (fun c => c.1)) enc.1) (eccWrite (fun e => e.1 ==
        eccReplay n && decide (modSub 18 e.2 (port s n).rp.txCsn.toNat < fr)) (updPort n (fun p => { p with
          cr := { p.cr with due := 0, sentAt := if p.cr.sentAt + 900 ≤ s.time.now then s.time.now else p.cr.sentAt },
          rp := { p.rp with
            words := p.rp.words.drop (160 - (groupWords s n).length),
            gossip := [],
            window := wi,
            txq := tq,
            resend := if wi.length ≤ pos + cs.length then none else p.rp.resend.map (fun _ => pos + cs.length),
            txCsn := p.rp.txCsn + BitVec.ofNat 18 fr,
            ackDue := false,
            nakDue := false,
            ackGroups := if p.rp.ackDue then 0 else p.rp.ackGroups },
          scrTx := BitVec.ofNat 58 enc.2 }) s)) →
    (port s n).rp.txq ≠ [] → tq = [] →
    t = endTx n u →
    (s.pw.stopped = false → exec (.groupTransmit n) s = .next (follows t)) ∧
    (quiet s t = true → exec (.groupTransmit n) s = .next t)) ∧
  (∀ (n : Nat) (ws : List LinkWord) (nc pos fr : Nat) (cs wi tq : List (Cell64 × Bool)) (hdr : Word) (enc : List Nat × Nat) (u : State) (s t : State),
    (port s n).st = .up → (port s n).tr.locked = true → (port s n).rp.heard = true ∨ (port s n).rp.window = [] →
    spillOn s n = false → (outp s n).busy.all (fun h => clsOf h.pkt != 2) = true →
    ((port s n).rp.words.take (160 - (groupWords s n).length)).all (fun w => lwF w 0 8 != 0x11 && lwF w 0 8 != 0x14 && lwF
        w 0 8 != 0x20) = true →
    ws = groupWords s n ++ ((port s n).rp.words.take (160 - (groupWords s n).length)).filterMap (stampWord (stamp s)) →
    nc = (ws.length + 3) / 4 → pos = (port s n).rp.resend.getD (port s n).rp.window.length →
    soundCells s n (modSub 18 ((port s n).rp.txCsn.toNat + pos) (port s n).rp.window.length) ((port s n).rp.window.drop
        pos).length = ((port s n).rp.window.drop pos).length →
    cs = ((port s n).rp.window.drop pos ++ (port s n).rp.txq.take (txAvail s n)).take (40 - nc) →
    fr = pos + cs.length - (port s n).rp.window.length → wi = (port s n).rp.window ++ (port s n).rp.txq.take fr →
    tq = (port s n).rp.txq.drop fr → (port s n).wd.txSwitch = none →
    hdr = pack [(0, 18, modSub 18 ((port s n).rp.txCsn.toNat + pos) (port s n).rp.window.length), (18, 6, nc), (24, 6,
        cs.length), (30, 1, 0), (31, 1, b2n (port s n).kpTx)] →
    enc = encodeGroup (port s n).scrTx.toNat hdr (ws ++ List.replicate (4 * nc - ws.length) (mkLw 0 [])) (cs.map (fun c =>
        c.1)) →
    u = emit (.group n hdr
        (ws ++ List.replicate (4 * nc - ws.length) (mkLw 0 [])) (cs.map (fun c => c.1)) enc.1) (eccWrite (fun e => e.1 ==
        eccReplay n && decide (modSub 18 e.2 (port s n).rp.txCsn.toNat < fr)) (updPort n (fun p => { p with
          cr := { p.cr with due := 0, sentAt := if p.cr.sentAt + 900 ≤ s.time.now then s.time.now else p.cr.sentAt },
          rp := { p.rp with
            words := p.rp.words.drop (160 - (groupWords s n).length),
            gossip := [],
            window := wi,
            txq := tq,
            resend := if wi.length ≤ pos + cs.length then none else p.rp.resend.map (fun _ => pos + cs.length),
            txCsn := p.rp.txCsn + BitVec.ofNat 18 fr,
            ackDue := false,
            nakDue := false,
            ackGroups := if p.rp.ackDue then 0 else p.rp.ackGroups },
          scrTx := BitVec.ofNat 58 enc.2 }) s)) →
    (port s n).rp.txq = [] →
    t = u →
    (s.pw.stopped = false → exec (.groupTransmit n) s = .next (follows t)) ∧
    (quiet s t = true → exec (.groupTransmit n) s = .next t)) ∧
  (∀ (n : Nat) (ws : List LinkWord) (nc pos fr : Nat) (cs wi tq : List (Cell64 × Bool)) (hdr : Word) (enc : List Nat × Nat) (u : State) (l : LinkWord) (s t : State),
    (port s n).st = .up → (port s n).tr.locked = true → (port s n).rp.heard = true ∨ (port s n).rp.window = [] →
    spillOn s n = false → (outp s n).busy.all (fun h => clsOf h.pkt != 2) = true →
    (port s n).rp.words.take (160 - (groupWords s n).length) = [l] → lwF l 0 8 = 0x20 →
    ws = groupWords s n ++ ((port s n).rp.words.take (160 - (groupWords s n).length)).filterMap (stampWord (stamp s)) →
    nc = (ws.length + 3) / 4 → pos = (port s n).rp.resend.getD (port s n).rp.window.length →
    soundCells s n (modSub 18 ((port s n).rp.txCsn.toNat + pos) (port s n).rp.window.length) ((port s n).rp.window.drop
        pos).length = ((port s n).rp.window.drop pos).length →
    cs = ((port s n).rp.window.drop pos ++ (port s n).rp.txq.take (txAvail s n)).take (40 - nc) →
    fr = pos + cs.length - (port s n).rp.window.length → wi = (port s n).rp.window ++ (port s n).rp.txq.take fr →
    tq = (port s n).rp.txq.drop fr → (port s n).wd.txSwitch = none →
    hdr = pack [(0, 18, modSub 18 ((port s n).rp.txCsn.toNat + pos) (port s n).rp.window.length), (18, 6, nc), (24, 6,
        cs.length), (30, 1, 0), (31, 1, b2n (port s n).kpTx)] →
    enc = encodeGroup (port s n).scrTx.toNat hdr (ws ++ List.replicate (4 * nc - ws.length) (mkLw 0 [])) (cs.map (fun c =>
        c.1)) →
    u = emit (.group n hdr
        (ws ++ List.replicate (4 * nc - ws.length) (mkLw 0 [])) (cs.map (fun c => c.1)) enc.1) (eccWrite (fun e => e.1 ==
        eccReplay n && decide (modSub 18 e.2 (port s n).rp.txCsn.toNat < fr)) (updPort n (fun p => { p with
          cr := { p.cr with due := 0, sentAt := if p.cr.sentAt + 900 ≤ s.time.now then s.time.now else p.cr.sentAt },
          rp := { p.rp with
            words := p.rp.words.drop (160 - (groupWords s n).length),
            gossip := [],
            window := wi,
            txq := tq,
            resend := if wi.length ≤ pos + cs.length then none else p.rp.resend.map (fun _ => pos + cs.length),
            txCsn := p.rp.txCsn + BitVec.ofNat 18 fr,
            ackDue := false,
            nakDue := false,
            ackGroups := if p.rp.ackDue then 0 else p.rp.ackGroups },
          tm := { p.tm with out := Maps.insert (lwF l 8 8) (BitVec.ofNat 80 (stamp s)) p.tm.out },
          scrTx := BitVec.ofNat 58 enc.2 }) s)) →
    (port s n).rp.txq = [] →
    t = u →
    (s.pw.stopped = false → exec (.groupTransmit n) s = .next (follows t)) ∧
    (quiet s t = true → exec (.groupTransmit n) s = .next t)) ∧
  (∀ (n : Nat) (ws : List LinkWord) (nc pos fr : Nat) (cs wi tq : List (Cell64 × Bool)) (hdr : Word) (enc : List Nat × Nat) (u : State) (l : LinkWord) (s t : State),
    (port s n).st = .up → (port s n).tr.locked = true → (port s n).rp.heard = true ∨ (port s n).rp.window = [] →
    spillOn s n = false → (outp s n).busy.all (fun h => clsOf h.pkt != 2) = true →
    (port s n).rp.words.take (160 - (groupWords s n).length) = [l] → lwF l 0 8 = 0x14 → groupWords s n = [] →
    ws = groupWords s n ++ ((port s n).rp.words.take (160 - (groupWords s n).length)).filterMap (stampWord (stamp s)) →
    nc = (ws.length + 3) / 4 → pos = (port s n).rp.resend.getD (port s n).rp.window.length →
    soundCells s n (modSub 18 ((port s n).rp.txCsn.toNat + pos) (port s n).rp.window.length) ((port s n).rp.window.drop
        pos).length = ((port s n).rp.window.drop pos).length →
    cs = ((port s n).rp.window.drop pos ++ (port s n).rp.txq.take (txAvail s n)).take (40 - nc) →
    fr = pos + cs.length - (port s n).rp.window.length → wi = (port s n).rp.window ++ (port s n).rp.txq.take fr →
    tq = (port s n).rp.txq.drop fr → (port s n).wd.txSwitch = none →
    hdr = pack [(0, 18, modSub 18 ((port s n).rp.txCsn.toNat + pos) (port s n).rp.window.length), (18, 6, nc), (24, 6,
        cs.length), (30, 1, 0), (31, 1, b2n (port s n).kpTx)] →
    enc = encodeGroup (port s n).scrTx.toNat hdr (ws ++ List.replicate (4 * nc - ws.length) (mkLw 0 [])) (cs.map (fun c =>
        c.1)) →
    u = emit (.group n hdr
        (ws ++ List.replicate (4 * nc - ws.length) (mkLw 0 [])) (cs.map (fun c => c.1)) enc.1) (eccWrite (fun e => e.1 ==
        eccReplay n && decide (modSub 18 e.2 (port s n).rp.txCsn.toNat < fr)) (updPort n (fun p => { p with
          cr := { p.cr with due := 0, sentAt := if p.cr.sentAt + 900 ≤ s.time.now then s.time.now else p.cr.sentAt },
          rp := { p.rp with
            words := p.rp.words.drop (160 - (groupWords s n).length),
            gossip := [],
            window := wi,
            txq := tq,
            resend := if wi.length ≤ pos + cs.length then none else p.rp.resend.map (fun _ => pos + cs.length),
            txCsn := p.rp.txCsn + BitVec.ofNat 18 fr,
            ackDue := false,
            nakDue := false,
            ackGroups := if p.rp.ackDue then 0 else p.rp.ackGroups },
          scrTx := BitVec.ofNat 58 enc.2 }) s)) →
    (port s n).rp.txq = [] →
    t = linkFailure n (some (lwF l 16 1 == 1)) u →
    (s.pw.stopped = false → exec (.groupTransmit n) s = .next (follows t)) ∧
    (quiet s t = true → exec (.groupTransmit n) s = .next t)) ∧
  (∀ (n : Nat) (ws : List LinkWord) (nc pos fr : Nat) (cs wi tq : List (Cell64 × Bool)) (hdr : Word) (enc : List Nat × Nat) (u : State) (x : BitVec 2) (m : BitVec 4) (at_ : Nat) (s t : State),
    (port s n).st = .up → (port s n).tr.locked = true → (port s n).rp.heard = true ∨ (port s n).rp.window = [] →
    spillOn s n = false → (outp s n).busy.all (fun h => clsOf h.pkt != 2) = true →
    ((port s n).rp.words.take (160 - (groupWords s n).length)).all (fun w => lwF w 0 8 != 0x11 && lwF w 0 8 != 0x14 && lwF
        w 0 8 != 0x20) = true →
    ws = groupWords s n ++ ((port s n).rp.words.take (160 - (groupWords s n).length)).filterMap (stampWord (stamp s)) →
    nc = (ws.length + 3) / 4 → pos = (port s n).rp.resend.getD (port s n).rp.window.length →
    soundCells s n (modSub 18 ((port s n).rp.txCsn.toNat + pos) (port s n).rp.window.length) ((port s n).rp.window.drop
        pos).length = ((port s n).rp.window.drop pos).length →
    cs = ((port s n).rp.window.drop pos ++ (port s n).rp.txq.take (txAvail s n)).take (40 - nc) →
    fr = pos + cs.length - (port s n).rp.window.length → wi = (port s n).rp.window ++ (port s n).rp.txq.take fr →
    tq = (port s n).rp.txq.drop fr → (port s n).wd.txSwitch = some (x, m, some at_) → at_ ≤ s.time.now →
    hdr = pack [(0, 18, modSub 18 ((port s n).rp.txCsn.toNat + pos) (port s n).rp.window.length), (18, 6, nc), (24, 6,
        cs.length), (30, 1, 1), (31, 1, b2n (port s n).kpTx)] →
    enc = encodeGroup (port s n).scrTx.toNat hdr (ws ++ List.replicate (4 * nc - ws.length) (mkLw 0 [])) (cs.map (fun c =>
        c.1)) →
    u = emit (.group n hdr
        (ws ++ List.replicate (4 * nc - ws.length) (mkLw 0 [])) (cs.map (fun c => c.1)) enc.1) (eccWrite (fun e => e.1 ==
        eccReplay n && decide (modSub 18 e.2 (port s n).rp.txCsn.toNat < fr)) (updPort n (fun p => { p with
          cr := { p.cr with due := 0, sentAt := if p.cr.sentAt + 900 ≤ s.time.now then s.time.now else p.cr.sentAt },
          rp := { p.rp with
            words := p.rp.words.drop (160 - (groupWords s n).length),
            gossip := [],
            window := wi,
            txq := tq,
            resend := if wi.length ≤ pos + cs.length then none else p.rp.resend.map (fun _ => pos + cs.length),
            txCsn := p.rp.txCsn + BitVec.ofNat 18 fr,
            ackDue := false,
            nakDue := false,
            ackGroups := if p.rp.ackDue then 0 else p.rp.ackGroups },
          wd := { p.wd with widthNext := true },
          scrTx := BitVec.ofNat 58 enc.2 }) s)) →
    (port s n).rp.txq = [] → (outp s n).busy = none → pos + cs.length = wi.length →
    wi.getLast?.all (fun c => c.2) = true →
    t = u →
    (s.pw.stopped = false → exec (.groupTransmit n) s = .next (follows t)) ∧
    (quiet s t = true → exec (.groupTransmit n) s = .next t)) ∧
  (∀ (n : Nat) (ws : List LinkWord) (nc pos fr : Nat) (cs wi tq : List (Cell64 × Bool)) (hdr : Word) (enc : List Nat × Nat) (u : State) (s t : State),
    (port s n).st = .up → (port s n).tr.locked = true → (port s n).rp.heard = true ∨ (port s n).rp.window = [] →
    spillOn s n = false → (outp s n).busy.all (fun h => clsOf h.pkt != 2) = true →
    ((port s n).rp.words.take (160 - (groupWords s n).length)).all (fun w => lwF w 0 8 != 0x11 && lwF w 0 8 != 0x14 && lwF
        w 0 8 != 0x20) = true →
    ws = groupWords s n ++ ((port s n).rp.words.take (160 - (groupWords s n).length)).filterMap (stampWord (stamp s)) →
    nc = (ws.length + 3) / 4 → pos = (port s n).rp.resend.getD (port s n).rp.window.length →
    soundCells s n (modSub 18 ((port s n).rp.txCsn.toNat + pos) (port s n).rp.window.length) ((port s n).rp.window.drop
        pos).length < ((port s n).rp.window.drop pos).length →
    cs = ((port s n).rp.window.drop pos).take (soundCells s n (modSub 18 ((port s n).rp.txCsn.toNat + pos) (port s
        n).rp.window.length) ((port s n).rp.window.drop pos).length) →
    cs.length < 40 - nc → fr = 0 → wi = (port s n).rp.window → tq = (port s n).rp.txq → (port s n).wd.txSwitch = none →
    hdr = pack [(0, 18, modSub 18 ((port s n).rp.txCsn.toNat + pos) (port s n).rp.window.length), (18, 6, nc), (24, 6,
        cs.length), (30, 1, 0), (31, 1, b2n (port s n).kpTx)] →
    enc = encodeGroup (port s n).scrTx.toNat hdr (ws ++ List.replicate (4 * nc - ws.length) (mkLw 0 [])) (cs.map (fun c =>
        c.1)) →
    u = emit (.group n hdr
        (ws ++ List.replicate (4 * nc - ws.length) (mkLw 0 [])) (cs.map (fun c => c.1)) enc.1) (raise 156 1 (eccWrite (fun
        e => e.1 == eccReplay n && decide (modSub 18 e.2 (port s n).rp.txCsn.toNat < fr)) (updPort n (fun p => { p with
          cr := { p.cr with due := 0, sentAt := if p.cr.sentAt + 900 ≤ s.time.now then s.time.now else p.cr.sentAt },
          rp := { p.rp with
            words := p.rp.words.drop (160 - (groupWords s n).length),
            gossip := [],
            window := wi,
            txq := tq,
            resend := if wi.length ≤ pos + cs.length then none else p.rp.resend.map (fun _ => pos + cs.length),
            txCsn := p.rp.txCsn + BitVec.ofNat 18 fr,
            ackDue := false,
            nakDue := false,
            ackGroups := if p.rp.ackDue then 0 else p.rp.ackGroups },
          scrTx := BitVec.ofNat 58 enc.2 }) s))) →
    (port s n).rp.txq = [] →
    t = u →
    (s.pw.stopped = false → exec (.groupTransmit n) s = .next (follows t)) ∧
    (quiet s t = true → exec (.groupTransmit n) s = .next t))

/-- The phases of GRAFT_START and PRUNE_START. A QUARANTINE of ports that may be quarantined forgets earlier mismatches,
marks and trains every named port and is held until they are UP; ADMIT with T 0 of quarantined ports admits them at once;
ADMIT with a T ahead and no other admission pending holds ports and T, and with one of the same T pending joins it; ABORT
forgets a pending admission and disables the named ports that are quarantined; at T a pending admission takes effect. DRAIN
with a T ahead of ports that are not quarantined is held, with ports and T, and with T 0 begins at once; from T its ports
are draining, and the command ends when all of them are drained; PORT_DRAINED marks a draining port that meets the drain
conditions; PRUNE_DRAIN_TIMEOUT answers TIMED_OUT naming the first port that is not drained; REMOVE of drained ports is
held to T, or with T 0 acts at once, and then disables them and answers OK; ABORT takes the named ports out of a DRAIN or
REMOVE that is still to come and returns them to normal use. -/
def Obligations.GraftAndPrune : Prop :=
  (∀ (r : GcpReq) (s t : State),
    taken .writes true r s = true → (wAt r.words 2).toNat % 4 = 0 → (wAt r.words 2).toNat ≤ 256 →
    quarRefusal s (gfPorts r) (dataOf r 10) = none →
    t = quarDone ((portsIn (gfPorts r)).foldl (fun s n => enterTraining n (updGr n (fun g => { g with quar := true }) s))
        (hold r (updGraft (fun g => { g with quarCmd := some { req := r, ports := gfPorts r, peers := dataOf r 10 } })
        ((List.range 64).foldl (fun s n => if (port s n).gr.mism then updGr n (fun g => { g with mism := false }) s else
        s) s)))) →
    (s.pw.stopped = false → exec (.graftQuarantine r) s = .next (follows t)) ∧
    (quiet s t = true → exec (.graftQuarantine r) s = .next t)) ∧
  (∀ (r : GcpReq) (s t : State),
    taken .none true r s = true → (portsIn (gfPorts r)).any (fun n => !(port s n).gr.quar) = false → gfT r = 0 →
    t = ok r [] (admitPorts (gfPorts r) s) →
    (s.pw.stopped = false → exec (.graftAdmit r) s = .next (follows t)) ∧
    (quiet s t = true → exec (.graftAdmit r) s = .next t)) ∧
  (∀ (r : GcpReq) (s t : State),
    taken .none true r s = true → (portsIn (gfPorts r)).any (fun n => !(port s n).gr.quar) = false → s.time.now < gfT r →
    gfT r ≤ s.time.now + 2 ^ 34 → s.net.graft.admission = none →
    t = ok r [] (updGraft (fun g => { g with admission := some (gfPorts r, gfT r) }) s) →
    (s.pw.stopped = false → exec (.graftAdmit r) s = .next (follows t)) ∧
    (quiet s t = true → exec (.graftAdmit r) s = .next t)) ∧
  (∀ (r : GcpReq) (s t : State),
    taken .none true r s = true → (portsIn (gfPorts r)).any (fun n => !(port s n).gr.quar) = false → s.time.now < gfT r →
    gfT r ≤ s.time.now + 2 ^ 34 → s.net.graft.admission.map (·.2) = some (gfT r) →
    t = ok r [] (updGraft (fun g => { g with admission := g.admission.map (fun a => (a.1 ||| gfPorts r, a.2)) }) s) →
    (s.pw.stopped = false → exec (.graftAdmit r) s = .next (follows t)) ∧
    (quiet s t = true → exec (.graftAdmit r) s = .next t)) ∧
  (∀ (r : GcpReq) (s t : State),
    taken .none true r s = true →
    t = ok r [] ((portsIn (gfPorts r)).foldl (fun s n => if (port s n).gr.quar then updGr n (fun g => { g with
          quar := false }) (disablePort n s) else s) (updGraft (fun g => { g with admission := none }) s)) →
    (s.pw.stopped = false → exec (.graftAbort r) s = .next (follows t)) ∧
    (quiet s t = true → exec (.graftAbort r) s = .next t)) ∧
  (∀ (ports : BitVec 64) (T : Nat) (s t : State),
    s.stage.bank ≠ .pending → s.net.graft.admission = some (ports, T) → T ≤ s.time.now →
    t = admitPorts ports { s with net.graft := { s.net.graft with admission := none } } →
    (s.pw.stopped = false → exec (.graftAdmitApply) s = .next (follows t)) ∧
    (quiet s t = true → exec (.graftAdmitApply) s = .next t)) ∧
  (∀ (r : GcpReq) (s t : State),
    taken .none true r s = true → (portsIn (gfPorts r)).any (fun n => (port s n).gr.quar) = false → s.time.now < gfT r →
    gfT r ≤ s.time.now + 2 ^ 34 →
    t = hold r (updGraft (fun g => { g with drain := some (gfPorts r, gfT r), drainCmd := some (r, gfPorts r) }) s) →
    (s.pw.stopped = false → exec (.pruneDrain r) s = .next (follows t)) ∧
    (quiet s t = true → exec (.pruneDrain r) s = .next t)) ∧
  (∀ (r : GcpReq) (s t : State),
    taken .none true r s = true → (portsIn (gfPorts r)).any (fun n => (port s n).gr.quar) = false → gfT r = 0 →
    t = drainIfDue (hold r (updGraft (fun g => { g with drain := some (gfPorts r, 0), drainCmd := some (r, gfPorts r) })
        s)) →
    (s.pw.stopped = false → exec (.pruneDrain r) s = .next (follows t)) ∧
    (quiet s t = true → exec (.pruneDrain r) s = .next t)) ∧
  (∀ (ports : BitVec 64) (T : Nat) (s t : State),
    s.net.graft.drain = some (ports, T) → T ≤ s.time.now →
    t = drainCheck ((portsIn ports).foldl (fun s n => updGr n (fun g => { g with draining := true }) s) (updGraft (fun g
        => { g with drain := none }) s)) →
    (s.pw.stopped = false → exec (.pruneDrainApply) s = .next (follows t)) ∧
    (quiet s t = true → exec (.pruneDrainApply) s = .next t)) ∧
  (∀ (n : Nat) (s t : State),
    (port s n).gr.draining = true → (port s n).gr.drained = false → isDrained s n = true →
    t = drainCheck (updGr n (fun g => { g with drained := true }) s) →
    (s.pw.stopped = false → exec (.portDrained n) s = .next (follows t)) ∧
    (quiet s t = true → exec (.portDrained n) s = .next t)) ∧
  (∀ (q : GcpReq) (ports : BitVec 64) (s t : State),
    s.net.graft.drainCmd = some (q, ports) → s.net.graft.drain = none →
    t = endCmds (fun r => r == q) stTimedOut 0 (((portsIn ports).find? (fun n => !(port s n).gr.drained)).getD 0) []
        (updGraft (fun g => { g with drainCmd := none }) s) →
    (s.pw.stopped = false → exec (.pruneDrainTimeout) s = .next (follows t)) ∧
    (quiet s t = true → exec (.pruneDrainTimeout) s = .next t)) ∧
  (∀ (r : GcpReq) (s t : State),
    taken .none true r s = true → (portsIn (gfPorts r)).any (fun n => !(port s n).gr.drained) = false →
    s.time.now < gfT r → gfT r ≤ s.time.now + 2 ^ 34 →
    t = hold r (updGraft (fun g => { g with remove := some (gfPorts r, gfT r) }) s) →
    (s.pw.stopped = false → exec (.pruneRemove r) s = .next (follows t)) ∧
    (quiet s t = true → exec (.pruneRemove r) s = .next t)) ∧
  (∀ (r : GcpReq) (s t : State),
    taken .none true r s = true → (portsIn (gfPorts r)).any (fun n => !(port s n).gr.drained) = false → gfT r = 0 →
    t = removeIfDue (hold r (updGraft (fun g => { g with remove := some (gfPorts r, 0) }) s)) →
    (s.pw.stopped = false → exec (.pruneRemove r) s = .next (follows t)) ∧
    (quiet s t = true → exec (.pruneRemove r) s = .next t)) ∧
  (∀ (ports : BitVec 64) (T : Nat) (s t : State),
    s.net.graft.remove = some (ports, T) → T ≤ s.time.now →
    t = endCmds isRemove stOk 0 0 [] ((portsIn ports).foldl (fun s n => updGr n (fun g => { g with
          draining := false,
          drained := false }) (disablePort n s)) (updGraft (fun g => { g with remove := none }) s)) →
    (s.pw.stopped = false → exec (.pruneRemoveApply) s = .next (follows t)) ∧
    (quiet s t = true → exec (.pruneRemoveApply) s = .next t)) ∧
  (∀ (r : GcpReq) (s t : State),
    taken .none true r s = true →
    t = ok r [] ((portsIn (gfPorts r)).foldl (fun s n => if (port s n).gr.draining ∨ (port s n).gr.drained then updGr n
        (fun g => { g with draining := false, drained := false }) s else s) (updGraft (fun g => { g with
          drain := s.net.graft.drain.map (fun x => (x.1 &&& ~~~gfPorts r, x.2)),
          remove := s.net.graft.remove.map (fun x => (x.1 &&& ~~~gfPorts r, x.2)) }) s)) →
    (s.pw.stopped = false → exec (.pruneAbort r) s = .next (follows t)) ∧
    (quiet s t = true → exec (.pruneAbort r) s = .next t))

/-- Fences are set and taken back by unit, and event sources are configured, read and cleared. FENCE of a unit that changes
the fenced set sets the unit's own bit, answers OK, and has the effects of the fence; of a unit already fenced, it only
sets the own bit; UNFENCE of a unit that no source holds clears its own bit; EVENT_CFG with PINS 1 writes FAULT_LATCH
alone, and with PINS 0 the source's record, where it is not restricted; EVENT_READ answers record and cause register;
EVENT_CLEAR clears the named bits of a source, lets ALIVE resume when nothing holds it, and releases FAULT_N when asked and
its 10 us are over. -/
def Obligations.FencesAndEvents : Prop :=
  (∀ (r : GcpReq) (s t : State),
    taken .none false r s = true → (fromHost r).isSome = false → unitOk (fAt r.words 5 0 7) = true →
    t = ok r [] { s with ev.own := s.ev.own ||| BitVec.ofNat 128 (2 ^ fAt r.words 5 0 7) } →
    (s.pw.stopped = false → exec (.fence r) s = .next (follows t)) ∧
    (quietFence s t = true → exec (.fence r) s = .next (fenceStep t))) ∧
  (∀ (r : GcpReq) (s t : State),
    taken .none false r s = true → (fromHost r).isSome = false → unitOk (fAt r.words 5 0 7) = true →
    t = ok r [] { s with ev.own := s.ev.own ||| BitVec.ofNat 128 (2 ^ fAt r.words 5 0 7) } →
    (s.pw.stopped = false → exec (.fence r) s = .next (follows t)) ∧
    (quiet s t = true → exec (.fence r) s = .next t)) ∧
  (∀ (r : GcpReq) (s t : State),
    taken .none false r s = true → (fromHost r).isSome = false → unitOk (fAt r.words 5 0 7) = true →
    holdsFence s (fAt r.words 5 0 7) = false →
    t = ok r [] { s with ev.own := s.ev.own &&& ~~~BitVec.ofNat 128 (2 ^ fAt r.words 5 0 7) } →
    (s.pw.stopped = false → exec (.unfence r) s = .next (follows t)) ∧
    (quietFence s t = true → exec (.unfence r) s = .next (fenceStep t))) ∧
  (∀ (r : GcpReq) (s t : State),
    taken .none false r s = true → (fromHost r).isSome = false → bAt r.words 5 31 = true →
    t = ok r [] { s with ev.latch := bAt r.words 6 0 } →
    (s.pw.stopped = false → exec (.eventCfg r) s = .next (follows t)) ∧
    (quiet s t = true → exec (.eventCfg r) s = .next t)) ∧
  (∀ (r : GcpReq) (s t : State),
    taken .none false r s = true → bAt r.words 5 31 = false → hostMay r (evSource r) = true →
    reservedSrc (evSource r) = false → cfgRefusal s (evSource r) r = none →
    t = ok r [] (setRec (evSource r) (cfgRec r (evSource r) (recOf s (evSource r))) s) →
    (s.pw.stopped = false → exec (.eventCfg r) s = .next (follows t)) ∧
    (quiet s t = true → exec (.eventCfg r) s = .next t)) ∧
  (∀ (r : GcpReq) (s t : State),
    taken .none false r s = true →
    t = ok r (recWords s (evSource r) ++ [if reservedSrc (evSource r) then 0 else causeRegister s (evSource r)]) s →
    (s.pw.stopped = false → exec (.eventRead r) s = .next (follows t)) ∧
    (quiet s t = true → exec (.eventRead r) s = .next t)) ∧
  (∀ (r : GcpReq) (s t : State),
    taken .none false r s = true → hostMay r (evSource r) = true → reservedSrc (evSource r) = false →
    evSource r ≠ 336 ∨ (wAt r.words 6).toNat.testBit 0 = false ∨ coolEnough s = true →
    bAt r.words 5 16 = false ∨ faultHeld (resumeAlive (clearCause (evSource r) (wAt r.words 6).toNat s)) = false →
    t = ok r [] (resumeAlive (clearCause (evSource r) (wAt r.words 6).toNat s)) →
    (s.pw.stopped = false → exec (.eventClear r) s = .next (follows t)) ∧
    (quiet s t = true → exec (.eventClear r) s = .next t)) ∧
  (∀ (r : GcpReq) (s t : State),
    taken .none false r s = true → hostMay r (evSource r) = true → reservedSrc (evSource r) = false →
    evSource r ≠ 336 ∨ (wAt r.words 6).toNat.testBit 0 = false ∨ coolEnough s = true → bAt r.words 5 16 = true →
    faultHeld (resumeAlive (clearCause (evSource r) (wAt r.words 6).toNat s)) = true →
    t = ok r [] { resumeAlive (clearCause (evSource r) (wAt r.words 6).toNat s) with ev.faultLow := false } →
    (s.pw.stopped = false → exec (.eventClear r) s = .next (follows t)) ∧
    (quiet s t = true → exec (.eventClear r) s = .next t))

/-- Test mode, injection, watchdogs, FAULT_N and repeated events. Without the TEST_MODE strap both answer NOT_PERMITTED and
change nothing. With it, TEST_UNLOCK of a token that verifies unlocks, opens test mode and raises source 313 bit 0, and of
one that does not answers AUTH_FAILED and counts it. With test mode open, FAULT_INJECT sets the named cause bits of a
source as the hardware would, marked INJECTED, and raises source 313 bit 1. HW_WDOG_EXPIRE raises source 312 bit 0 and
FW_HEARTBEAT_MISS bit 1, each stops ALIVE at its level and restarts the controller: commands taken get no reply, and the
MSEQs, map records, firmware job, CHECK, and graft and prune commands it holds are lost, and SPI_RESET_N pulses;
FAULT_N_RELEASE releases FAULT_N once its 10 us are over, with FAULT_LATCH 0, and else leaves it; GCP_EVENT_REPEAT sends
the oldest event again with its ESEQ. -/
def Obligations.TestModeAndWatchdogs : Prop :=
  (∀ (r : GcpReq) (s t : State),
    taken .writes false r s = true → s.pw.testMode = false →
    t = fail r stNotPermitted s →
    (s.pw.stopped = false → exec (.testUnlock r) s = .next (follows t)) ∧
    (quiet s t = true → exec (.testUnlock r) s = .next t)) ∧
  (∀ (r : GcpReq) (s t : State),
    taken .none false r s = true → s.pw.testMode = false ∨ s.ev.testOpen = false →
    t = fail r stNotPermitted s →
    (s.pw.stopped = false → exec (.faultInject r) s = .next (follows t)) ∧
    (quiet s t = true → exec (.faultInject r) s = .next t)) ∧
  (∀ (r : GcpReq) (s t : State),
    taken .writes false r s = true → s.pw.testMode = true → s.heart.unlockBlocked = false →
    t = (if debugTokenOk s ((wBytes (dataOf r 5)).take (wAt r.words 2).toNat) then ok r [] (raise 313 1 { debugUnlock
        ((wBytes (dataOf r 5)).take (wAt r.words 2).toNat) s with ev.testOpen := true }) else authFail r (debugUnlock
        ((wBytes (dataOf r 5)).take (wAt r.words 2).toNat) s)) →
    (s.pw.stopped = false → exec (.testUnlock r) s = .next (follows t)) ∧
    (quiet s t = true → exec (.testUnlock r) s = .next t)) ∧
  (∀ (r : GcpReq) (s t : State),
    taken .none false r s = true → s.pw.testMode = true → s.ev.testOpen = true → reservedSrc (evSource r) = false →
    t = ok r [] (raise 313 2 (injectCause (evSource r) (wAt r.words 6).toNat s)) →
    (s.pw.stopped = false → exec (.faultInject r) s = .next (follows t)) ∧
    (quiet s t = true → exec (.faultInject r) s = .next t)) ∧
  (∀ (w : State) (s t : State),
    s.mgmt.fw ≠ .boot →
    w = raise 312 1 { s with ev := { s.ev with wdogOk := false, alive := false, aliveHigh := aliveLevel s } } →
    t = emit .spiReset { w with
          mgmt := { w.mgmt with fw := .restarting, cmds := [], waitq := [], mseqs := [], maps := [], fwJob := .none },
          stage := { w.stage with checking := none, bulkJob := none },
          net.graft := { w.net.graft with quarCmd := none, drainCmd := none } } →
    (s.pw.stopped = false → exec (.hwWdogExpire) s = .next (follows t)) ∧
    (quiet s t = true → exec (.hwWdogExpire) s = .next t)) ∧
  (∀ (s t : State),
    s.mgmt.fw = .boot →
    t = s →
    (s.pw.stopped = false → exec (.hwWdogExpire) s = .next (follows t)) ∧
    (quiet s t = true → exec (.hwWdogExpire) s = .next t)) ∧
  (∀ (w : State) (s t : State),
    s.mgmt.fw = .running →
    w = raise 312 2 { s with ev := { s.ev with hbOk := false, alive := false, aliveHigh := aliveLevel s } } →
    t = emit .spiReset { w with
          mgmt := { w.mgmt with fw := .restarting, cmds := [], waitq := [], mseqs := [], maps := [], fwJob := .none },
          stage := { w.stage with checking := none, bulkJob := none },
          net.graft := { w.net.graft with quarCmd := none, drainCmd := none } } →
    (s.pw.stopped = false → exec (.fwHeartbeatMiss) s = .next (follows t)) ∧
    (quiet s t = true → exec (.fwHeartbeatMiss) s = .next t)) ∧
  (∀ (s t : State),
    s.mgmt.fw ≠ .running →
    t = s →
    (s.pw.stopped = false → exec (.fwHeartbeatMiss) s = .next (follows t)) ∧
    (quiet s t = true → exec (.fwHeartbeatMiss) s = .next t)) ∧
  (∀ (s t : State),
    s.ev.latch = false → s.pw.stopped = true ∨ s.pw.tapLock = false ∨ s.ev.faultAt + 10000 ≤ s.time.now →
    t = { s with ev.faultLow := false } →
    exec (.faultNRelease) s = .next (follows t) ∧
    (quiet s t = true → exec (.faultNRelease) s = .next t)) ∧
  (∀ (s t : State),
    s.ev.latch = true ∨ (s.pw.stopped = false ∧ s.pw.tapLock = true ∧ s.time.now < s.ev.faultAt + 10000) →
    t = s →
    exec (.faultNRelease) s = .next (follows t) ∧
    (quiet s t = true → exec (.faultNRelease) s = .next t)) ∧
  (∀ (q : BitVec 16) (w : List Word) (tl : List (BitVec 16 × List Word)) (s t : State),
    s.mgmt.repeats = (q, w) :: tl →
    t = emit (.inject 68 (mgtPkt s s.mgmt.eventEid 0x52 q w [])) { s with mgmt.repeats := tl } →
    (s.pw.stopped = false → exec (.gcpEventRepeat) s = .next (follows t)) ∧
    (quiet s t = true → exec (.gcpEventRepeat) s = .next t))

/-- Link keys, the alarm policy, alarms and zeroisation. LINK_KEY_INSTALL in a secured session, with derivation not
blocked, that does not ask for ACTIVATE of a receive slot or give the other transmit slot's key and salt, makes a slot that
is not in use at a port that is UP, and whose port has no switch pending, VALID with counter 0 and counts it, with ACTIVATE
pending a transmit switch; of a slot in use at a port that is UP, or with a switch pending, it answers BUSY; ACTIVATE of a
receive slot, and the other transmit slot's key and salt, are BAD_PARAM; LINK_KEY_CLEAR in a secured session empties the
slot, and a packet in transmission under it is stomped; outside a secured session both answer AUTH_FAILED, and after
ERASE_ALL both answer NOT_PERMITTED; ALARM_POLICY that lowers no latched or locked alarm writes policy, threshold, latch
and lock. TAMPER, VOLT_GLITCH of a monitored supply (R481) and CLK_GLITCH raise their alarm, note it as the last, latch it
at policy ALARM or stronger, and erase by policy, once for alarms that come together (log 145); ZEROIZE in a secured
session stomps the packets in transmission under an erased key, erases link keys, sessions and IDE keys, or with ERASE_ALL
also the Heartwood's derived keys, and counts that, and is held; ZEROIZATION_DONE ends it with source 329, the counter, and
OK. -/
def Obligations.KeysAndZeroisation : Prop :=
  (∀ (r : GcpReq) (s t : State),
    taken .none false r s = true → s.heart.deriveBlocked = false → inSession r s = true →
    bAt r.words 5 10 = false ∨ lkDir r ≠ 1 →
    lkDir r ≠ 0 ∨ (linkKey s (lkPort r) 0 (1 - lkSlot r)).valid = false ∨ (linkKey s (lkPort r) 0 (1 - lkSlot r)).key ≠
        lkKey r ∨ (linkKey s (lkPort r) 0 (1 - lkSlot r)).salt ≠ wAt r.words 6 →
    (port s (lkPort r)).st ≠ .up ∨ lkSlot r ≠ b2n (if lkDir r = 0 then (port s (lkPort r)).kpTx else (port s (lkPort
        r)).kpRx) →
    (port s (lkPort r)).keySwitch = none →
    t = ok r [] (inc (hwdCtr 2) (if bAt r.words 5 10 then updPort (lkPort r) (fun p => { p with
          keySwitch := some (lkSlot r == 1) }) (setLinkKey (lkPort r) (lkDir r) (lkSlot r)
        { valid := true, key := lkKey r, salt := wAt r.words 6, ctr := 0 } s) else setLinkKey (lkPort r) (lkDir r) (lkSlot
        r) { valid := true, key := lkKey r, salt := wAt r.words 6, ctr := 0 } s)) →
    (s.pw.stopped = false → exec (.linkKeyInstall r) s = .next (follows t)) ∧
    (quiet s t = true → exec (.linkKeyInstall r) s = .next t)) ∧
  (∀ (r : GcpReq) (s t : State),
    taken .none false r s = true → s.heart.deriveBlocked = false → inSession r s = true →
    bAt r.words 5 10 = true ∧ lkDir r = 1 ∨ lkDir r = 0 ∧ (linkKey s (lkPort r) 0 (1 - lkSlot r)).valid = true ∧ (linkKey
        s (lkPort r) 0 (1 - lkSlot r)).key = lkKey r ∧ (linkKey s (lkPort r) 0 (1 - lkSlot r)).salt = wAt r.words 6 →
    t = fail r stBadParam s →
    (s.pw.stopped = false → exec (.linkKeyInstall r) s = .next (follows t)) ∧
    (quiet s t = true → exec (.linkKeyInstall r) s = .next t)) ∧
  (∀ (r : GcpReq) (s t : State),
    taken .none false r s = true → s.heart.deriveBlocked = false → inSession r s = true →
    bAt r.words 5 10 = false ∨ lkDir r ≠ 1 →
    lkDir r ≠ 0 ∨ (linkKey s (lkPort r) 0 (1 - lkSlot r)).valid = false ∨ (linkKey s (lkPort r) 0 (1 - lkSlot r)).key ≠
        lkKey r ∨ (linkKey s (lkPort r) 0 (1 - lkSlot r)).salt ≠ wAt r.words 6 →
    (port s (lkPort r)).st = .up ∧ lkSlot r = b2n (if lkDir r = 0 then (port s (lkPort r)).kpTx else (port s (lkPort
        r)).kpRx) ∨ (port s (lkPort r)).keySwitch.isSome = true →
    t = fail r stBusy s →
    (s.pw.stopped = false → exec (.linkKeyInstall r) s = .next (follows t)) ∧
    (quiet s t = true → exec (.linkKeyInstall r) s = .next t)) ∧
  (∀ (r : GcpReq) (s t : State),
    taken .none false r s = true → s.heart.deriveBlocked = false → inSession r s = false →
    t = authFail r s →
    (s.pw.stopped = false → exec (.linkKeyInstall r) s = .next (follows t)) ∧
    (quiet s t = true → exec (.linkKeyInstall r) s = .next t)) ∧
  (∀ (r : GcpReq) (s t : State),
    taken .none false r s = true → s.heart.deriveBlocked = false → inSession r s = false →
    t = authFail r s →
    (s.pw.stopped = false → exec (.linkKeyClear r) s = .next (follows t)) ∧
    (quiet s t = true → exec (.linkKeyClear r) s = .next t)) ∧
  (∀ (r : GcpReq) (s t : State),
    taken .none false r s = true → s.heart.deriveBlocked = false → inSession r s = true → bAt r.words 5 10 = true →
    lkDir r = 1 →
    t = fail r stBadParam s →
    (s.pw.stopped = false → exec (.linkKeyClear r) s = .next (follows t)) ∧
    (quiet s t = true → exec (.linkKeyClear r) s = .next t)) ∧
  (∀ (r : GcpReq) (s t : State),
    taken .none false r s = true → s.heart.deriveBlocked = false → inSession r s = true →
    bAt r.words 5 10 = false ∨ lkDir r = 0 →
    t = ok r [] (setLinkKey (lkPort r) (lkDir r) (lkSlot r) {} (if lkDir r = 0 ∧ lkSlot r = b2n (port s (lkPort r)).kpTx ∧
        gcmEn s (lkPort r) ∧ (outp s (lkPort r)).busy.isSome ∧ !(outp s (lkPort r)).hold then stompOut (lkPort r) s else
        s)) →
    (s.pw.stopped = false → exec (.linkKeyClear r) s = .next (follows t)) ∧
    (quiet s t = true → exec (.linkKeyClear r) s = .next t)) ∧
  (∀ (r : GcpReq) (s t : State),
    taken .none false r s = true → s.heart.deriveBlocked = true →
    t = fail r stNotPermitted s →
    (s.pw.stopped = false → exec (.linkKeyInstall r) s = .next (follows t)) ∧
    (quiet s t = true → exec (.linkKeyInstall r) s = .next t)) ∧
  (∀ (r : GcpReq) (s t : State),
    taken .none false r s = true → s.heart.deriveBlocked = true →
    t = fail r stNotPermitted s →
    (s.pw.stopped = false → exec (.linkKeyClear r) s = .next (follows t)) ∧
    (quiet s t = true → exec (.linkKeyClear r) s = .next t)) ∧
  (∀ (r : GcpReq) (s t : State),
    taken .none true r s = true →
    (List.range 8).any (fun k => decide (bitsN (fAt r.words 5 0 16) (2 * k) 2 < policyOf s k) && (s.heart.latch.getLsbD k
        || s.heart.policyLock)) = false →
    t = ok r [] { s with
          heart := { s.heart with
            policy := BitVec.ofNat 16 (fAt r.words 5 0 16),
            thresh := BitVec.ofNat 8 (fAt r.words 6 0 8),
            latch := s.heart.latch &&& ~~~BitVec.ofNat 8 (fAt r.words 7 0 8),
            policyLock := s.heart.policyLock || bAt r.words 7 8 } } →
    (s.pw.stopped = false → exec (.alarmPolicy r) s = .next (follows t)) ∧
    (quiet s t = true → exec (.alarmPolicy r) s = .next t)) ∧
  (∀ (k : Nat) (u : State) (s t : State),
    u = (fun w => if 1 ≤ policyOf s (k % 2) then { w with
          heart.latch := w.heart.latch ||| BitVec.ofNat 8 (2 ^ (k % 2)) } else w) ((fun w => { w with
          heart := { w.heart with lastAlarm := BitVec.ofNat 4 (k % 2), lastTime := s.time.now } }) (raise (320 + k % 2) 1
        s)) →
    t = (if policyOf s (k % 2) < 2 ∨ erasedNow (policyOf s (k % 2) == 3) u then u else { (if policyOf s (k % 2) = 3 then
        eraseAll u else eraseSession u) with heart.eraseAt := some s.time.now }) →
    exec (.tamper k) s = .next (follows t) ∧
    (quiet s t = true → exec (.tamper k) s = .next t)) ∧
  (∀ (x : Supply) (u : State) (s t : State),
    x = .core ∨ x = .aon ∨ (x = .e0 ∧ boleUsed s 0 = true) ∨ (x = .e1 ∧ boleUsed s 1 = true) →
    u = (fun w => if 1 ≤ policyOf s (2) then { w with heart.latch := w.heart.latch ||| BitVec.ofNat 8 (2 ^ (2)) } else w)
        ((fun w => { w with heart := { w.heart with lastAlarm := BitVec.ofNat 4 (2), lastTime := s.time.now } }) (raise
        (320 + 2) 1 s)) →
    t = (if policyOf s (2) < 2 ∨ erasedNow (policyOf s (2) == 3) u then u else { (if policyOf s (2) = 3 then eraseAll u
        else eraseSession u) with heart.eraseAt := some s.time.now }) →
    exec (.voltGlitch x) s = .next (follows t) ∧
    (quiet s t = true → exec (.voltGlitch x) s = .next t)) ∧
  (∀ (x : Supply) (s t : State),
    x = .netSerdes ∨ x = .hbm ∨ (x = .e0 ∧ boleUsed s 0 = false) ∨ (x = .e1 ∧ boleUsed s 1 = false) →
    t = s →
    exec (.voltGlitch x) s = .next (follows t) ∧
    (quiet s t = true → exec (.voltGlitch x) s = .next t)) ∧
  (∀ (u : State) (s t : State),
    u = (fun w => if 1 ≤ policyOf s (3) then { w with heart.latch := w.heart.latch ||| BitVec.ofNat 8 (2 ^ (3)) } else w)
        ((fun w => { w with heart := { w.heart with lastAlarm := BitVec.ofNat 4 (3), lastTime := s.time.now } }) (raise
        (320 + 3) 1 s)) →
    t = (if policyOf s (3) < 2 ∨ erasedNow (policyOf s (3) == 3) u then u else { (if policyOf s (3) = 3 then eraseAll u
        else eraseSession u) with heart.eraseAt := some s.time.now }) →
    exec (.clkGlitch) s = .next (follows t) ∧
    (quiet s t = true → exec (.clkGlitch) s = .next t)) ∧
  (∀ (r : GcpReq) (w : State) (s t : State),
    taken .none true r s = true → bAt r.words 5 0 = false →
    w = (if s.pw.stopped then s else (List.range 64).foldl (fun s n => if gcmEn s n ∧ (outp s n).busy.isSome ∧ (outp s
        n).hold = false then stompOut n s else s) s) →
    t = hold r { w with
          heart := { w.heart with
            keys := [],
            sessions := 0,
            ide := Maps.mapVals {} (fun _ v => { st := if v.st = 1 then 2 else v.st }) w.heart.ide,
            erasing := some (s.heart.erasing == some true) } } →
    (s.pw.stopped = false → exec (.zeroize r) s = .next (follows t)) ∧
    (quiet s t = true → exec (.zeroize r) s = .next t)) ∧
  (∀ (r : GcpReq) (w : State) (s t : State),
    taken .none true r s = true → bAt r.words 5 0 = true →
    w = (if s.pw.stopped then s else (List.range 64).foldl (fun s n => if gcmEn s n ∧ (outp s n).busy.isSome ∧ (outp s
        n).hold = false then stompOut n s else s) s) →
    t = hold r { w with
          heart := { w.heart with
            keys := [],
            sessions := 0,
            ide := Maps.mapVals {} (fun _ v => { st := if v.st = 1 then 2 else v.st }) w.heart.ide,
            idKey := none,
            wrapKey := none,
            deriveBlocked := true,
            eraseCount := min 63 (s.heart.eraseCount + 1),
            erasing := some true } } →
    (s.pw.stopped = false → exec (.zeroize r) s = .next (follows t)) ∧
    (quiet s t = true → exec (.zeroize r) s = .next t)) ∧
  (∀ (e : Bool) (s t : State),
    s.heart.erasing = some e →
    t = endCmds (fun r => opcodeOf r == 0x904) stOk 0 0 [] (raise 329 1 (inc (hwdCtr 4) { s with
          heart := { s.heart with erasing := none, eraseAt := none } })) →
    (s.pw.stopped = false → exec (.zeroizationDone) s = .next (follows t)) ∧
    (quiet s t = true → exec (.zeroizationDone) s = .next t))

/-- Debug unlock, the SPDM responder and IDE keys. DEBUG_UNLOCK of a token that answers the challenge and verifies erases
everything and opens access, of one that does not counts the failure, of the third that does not blocks every later attempt
with alarm 325, and does nothing once attempts are blocked; a challenge serves one attempt (the model's choice, log 145);
DOE_SPDM at a host port that is UP, and SPDM_MSG with a plain message, answer each message with its response or ErrorCode
Unspecified (k is the request, good says which), a FINISH opening a session and an END_SESSION closing one, and SPDM_MSG
returns the response as its data; after ERASE_ALL those that need the identity key get the error; a secured message is
answered on DOE inside a session and counted, with source 330, outside one; SPDM_MSG runs the request in a secured message
inside the session, and answers NOT_PERMITTED to a link-key command while derivation is blocked and AUTH_FAILED to what
fails verification; IDE_KM in a session at a host port that is UP programs a key set, K_SET_GO of a programmed set makes
the stream active under it, and K_SET_STOP of the set in use makes it inactive; IDE_FAIL makes an active stream Insecure,
counts it, notes the port and raises source 328. -/
def Obligations.DebugAndSessions : Prop :=
  (∀ (token : List Byte) (s t : State),
    s.heart.unlockBlocked = true →
    t = s →
    (s.pw.stopped = false → exec (.debugUnlock token) s = .next (follows t)) ∧
    (quiet s t = true → exec (.debugUnlock token) s = .next t)) ∧
  (∀ (token : List Byte) (s t : State),
    s.heart.unlockBlocked = false → s.heart.unlockFails < 2 →
    t = (if debugTokenOk s token then { eraseAll { s with heart.challenges := s.heart.challenges + 1 } with
          heart.debugOpen := true } else inc (hwdCtr 6) { s with
          heart.challenges := s.heart.challenges + 1,
          heart.unlockFails := s.heart.unlockFails + 1 }) →
    (s.pw.stopped = false → exec (.debugUnlock token) s = .next (follows t)) ∧
    (quiet s t = true → exec (.debugUnlock token) s = .next t)) ∧
  (∀ (token : List Byte) (s t : State),
    s.heart.unlockBlocked = false → 2 ≤ s.heart.unlockFails →
    t = (if debugTokenOk s token then { eraseAll { s with heart.challenges := s.heart.challenges + 1 } with
          heart.debugOpen := true } else alarm 5 { inc (hwdCtr 6) { s with
          heart.challenges := s.heart.challenges + 1,
          heart.unlockFails := s.heart.unlockFails + 1 } with heart.unlockBlocked := true }) →
    (s.pw.stopped = false → exec (.debugUnlock token) s = .next (follows t)) ∧
    (quiet s t = true → exec (.debugUnlock token) s = .next t)) ∧
  (∀ (h k : Nat) (good : Bool) (part : List Word) (u : State) (msg : Spdm) (s t : State),
    (hport s h).st = .up →
    (k, good, part, u) = (match msg with
        | .getVersion => (1, true, [], s)
        | .getCapabilities => (2, true, [], s)
        | .negotiate => (3, true, [], s)
        | .getDigests => (4, true, [], s)
        | .getCertificate slot off len => (5, slot == 0, chainPart s off len, s)
        | .challenge => (6, (!s.heart.deriveBlocked && s.heart.idKey.isSome), [], s)
        | .getMeasurements signed => (7, (!s.heart.deriveBlocked && s.heart.idKey.isSome) || !signed, [], s)
        | .keyExchange => (8, (!s.heart.deriveBlocked && s.heart.idKey.isSome) && decide (s.heart.sessions < 8), [], s)
        | .finish => (if (!s.heart.deriveBlocked && s.heart.idKey.isSome) ∧ s.heart.sessions < 8 then (9, true, [], inc
        (hwdCtr 0) { s with heart.sessions := s.heart.sessions + 1 }) else (9, false, [], s))
        | .endSession => (if s.heart.sessions = 0 then (10, false, [], s) else (10, true, [], { s with
          heart.sessions := s.heart.sessions - 1 }))
        | .secured _ _ => (11, true, [], s)
        | .ideKeyProg => (12, false, [], s)
        | .other => (13, false, [], s)) →
    (∀ v q, msg = .secured v q → v = true ∧ s.heart.sessions ≠ 0) →
    t = emit (.spdm h (b2n good) (if good then Config.spdmBody k u.heart.responses u.heart.idKey ++ part else []) (if k =
        7 ∧ good then measurements u else [])) { u with heart.responses := u.heart.responses + 1 } →
    (s.pw.stopped = false → exec (.doeSpdm h msg) s = .next (follows t)) ∧
    (quiet s t = true → exec (.doeSpdm h msg) s = .next t)) ∧
  (∀ (h : Nat) (v : Bool) (q : GcpReq) (s t : State),
    (hport s h).st = .up → v = false ∨ s.heart.sessions = 0 →
    t = raise 330 1 (inc (hwdCtr 1) s) →
    (s.pw.stopped = false → exec (.doeSpdm h (.secured v q)) s = .next (follows t)) ∧
    (quiet s t = true → exec (.doeSpdm h (.secured v q)) s = .next t)) ∧
  (∀ (k : Nat) (good : Bool) (part : List Word) (u : State) (r : GcpReq) (msg : Spdm) (s t : State),
    taken .writes false r s = true →
    (k, good, part, u) = (match msg with
        | .getVersion => (1, true, [], s)
        | .getCapabilities => (2, true, [], s)
        | .negotiate => (3, true, [], s)
        | .getDigests => (4, true, [], s)
        | .getCertificate slot off len => (5, slot == 0, chainPart s off len, s)
        | .challenge => (6, (!s.heart.deriveBlocked && s.heart.idKey.isSome), [], s)
        | .getMeasurements signed => (7, (!s.heart.deriveBlocked && s.heart.idKey.isSome) || !signed, [], s)
        | .keyExchange => (8, (!s.heart.deriveBlocked && s.heart.idKey.isSome) && decide (s.heart.sessions < 8), [], s)
        | .finish => (if (!s.heart.deriveBlocked && s.heart.idKey.isSome) ∧ s.heart.sessions < 8 then (9, true, [], inc
        (hwdCtr 0) { s with heart.sessions := s.heart.sessions + 1 }) else (9, false, [], s))
        | .endSession => (if s.heart.sessions = 0 then (10, false, [], s) else (10, true, [], { s with
          heart.sessions := s.heart.sessions - 1 }))
        | .secured _ _ => (11, true, [], s)
        | .ideKeyProg => (12, false, [], s)
        | .other => (13, false, [], s)) →
    (∀ v q, msg ≠ .secured v q) →
    t = okData r (if good then Config.spdmBody k u.heart.responses u.heart.idKey ++ part else []) (emit (.spdm 4 (b2n
        good) (if good then Config.spdmBody k u.heart.responses u.heart.idKey ++ part else []) (if k = 7 ∧ good then
        measurements u else [])) { u with heart.responses := u.heart.responses + 1 }) →
    (s.pw.stopped = false → exec (.spdmMsg r msg) s = .next (follows t)) ∧
    (quiet s t = true → exec (.spdmMsg r msg) s = .next t)) ∧
  (∀ (r q : GcpReq) (good : Bool) (s t : State),
    taken .writes false r s = true → s.heart.deriveBlocked = true → keyCmd q = true →
    t = fail r stNotPermitted s →
    (s.pw.stopped = false → exec (.spdmMsg r (.secured good q)) s = .next (follows t)) ∧
    (quiet s t = true → exec (.spdmMsg r (.secured good q)) s = .next t)) ∧
  (∀ (r q : GcpReq) (good : Bool) (s t : State),
    taken .writes false r s = true → s.heart.deriveBlocked = false ∨ keyCmd q = false →
    good = false ∨ s.heart.sessions = 0 →
    t = authFail r s →
    (s.pw.stopped = false → exec (.spdmMsg r (.secured good q)) s = .next (follows t)) ∧
    (quiet s t = true → exec (.spdmMsg r (.secured good q)) s = .next t)) ∧
  (∀ (r q : GcpReq) (s t : State),
    taken .writes false r s = true → s.heart.deriveBlocked = false ∨ keyCmd q = false → s.heart.sessions ≠ 0 →
    opcodeOf q ≠ 0x0900 →
    t = runPlain { q with
          via := r.via,
          secured := true,
          outer := r.words,
          srcEid := r.srcEid,
          mseq := r.mseq,
          replyEid := r.replyEid } s →
    (s.pw.stopped = false → exec (.spdmMsg r (.secured true q)) s = .next (follows t)) ∧
    (quiet s t = true → exec (.spdmMsg r (.secured true q)) s = .next t)) ∧
  (∀ (h st ks : Nat) (key : BitVec 256) (s t : State),
    s.heart.sessions ≠ 0 → s.heart.deriveBlocked = false → (hport s h).st = .up → st < 5 → ks < 2 →
    t = spdmAnswer h 12 true [] (setIde h st (if ks = 0 then { ideStream s h st with k0 := some key } else { ideStream s h
        st with k1 := some key }) s) →
    (s.pw.stopped = false → exec (.ideKm h (.keyProg st ks key)) s = .next (follows t)) ∧
    (quiet s t = true → exec (.ideKm h (.keyProg st ks key)) s = .next t)) ∧
  (∀ (h st ks : Nat) (s t : State),
    s.heart.sessions ≠ 0 → s.heart.deriveBlocked = false → (hport s h).st = .up → st < 5 → ks < 2 →
    ((ideStream s h st).key ks).isSome = true →
    t = spdmAnswer h 12 true [] (setIde h st { ideStream s h st with st := 1, cur := ks == 1 } s) →
    (s.pw.stopped = false → exec (.ideKm h (.kSetGo st ks)) s = .next (follows t)) ∧
    (quiet s t = true → exec (.ideKm h (.kSetGo st ks)) s = .next t)) ∧
  (∀ (h st ks : Nat) (s t : State),
    s.heart.sessions ≠ 0 → s.heart.deriveBlocked = false → (hport s h).st = .up → st < 5 → ks < 2 →
    (ideStream s h st).st = 1 → (ideStream s h st).cur = (ks == 1) →
    t = spdmAnswer h 12 true [] (setIde h st { ideStream s h st with st := 0, cur := false } s) →
    (s.pw.stopped = false → exec (.ideKm h (.kSetStop st ks)) s = .next (follows t)) ∧
    (quiet s t = true → exec (.ideKm h (.kSetStop st ks)) s = .next t)) ∧
  (∀ (h st : Nat) (s t : State),
    (ideStream s h st).st = 1 →
    t = raise 328 1 (inc (hwdCtr 7) { setIde h st { ideStream s h st with st := 2 } s with
          heart := { (setIde h st { ideStream s h st with st := 2 } s).heart with lastIde := BitVec.ofNat 2 h } }) →
    (s.pw.stopped = false → exec (.ideFail h st) s = .next (follows t)) ∧
    (quiet s t = true → exec (.ideFail h st) s = .next t))

/-- Fabric time is read, set at a root, and kept by PPS and holdover. TIME_GET answers time, fraction, status and last
offset; TIME_SET at a root steps the time, counts it, moves with it the instants from which durations are measured (log
141), and leaves the rate; TIME_FOLLOW_TIMEOUT of a follower in LOCKED or LOCKING with no qualifying port goes to HOLDOVER
at the estimated rate; PPS_IN_EDGE at a root with PPS_IN_EN slews by the phase error; PPS_TIMEOUT there counts a missed
edge, and the entry, and reads HOLDOVER; PPS_OUT_EDGE with PPS_OUT_EN drives the pin. While the controller restarts, time
holds its rate and state (R430). -/
def Obligations.FabricTimeCommands : Prop :=
  (∀ (r : GcpReq) (s t : State),
    taken .none false r s = true →
    t = ok r (w64 s.time.now ++ [w32 (timeFrac s), timStatus s, s.time.lastOff]) s →
    (s.pw.stopped = false → exec (.timeGet r) s = .next (follows t)) ∧
    (quiet s t = true → exec (.timeGet r) s = .next t)) ∧
  (∀ (r : GcpReq) (s t : State),
    taken .none true r s = true → isRoot s = true →
    t = ok r [] (swapIfDue (inc (timCtr 0) (moveTimes ((u64 r.words 5 : Int) - s.time.now) { s with
          time := { s.time with now := u64 r.words 5, frac := 0 } }))) →
    (s.pw.stopped = false → exec (.timeSet r) s = .next (follows t)) ∧
    (quiet s t = true → exec (.timeSet r) s = .next t)) ∧
  (∀ (r : GcpReq) (s t : State),
    taken .none true r s = true → isRoot s = false →
    t = fail r stNotPermitted s →
    (s.pw.stopped = false → exec (.timeSet r) s = .next (follows t)) ∧
    (quiet s t = true → exec (.timeSet r) s = .next t)) ∧
  (∀ (s t : State),
    isRoot s = false → followPort s = none → timeHolds s = false → s.time.st = .locked →
    t = raise 306 0x20 (inc (timCtr 2) { s with
          time := { s.time with adj := s.time.est, st := .holdover, follow := none, run := 0 } }) →
    (s.pw.stopped = false → exec (.timeFollowTimeout) s = .next (follows t)) ∧
    (quiet s t = true → exec (.timeFollowTimeout) s = .next t)) ∧
  (∀ (s t : State),
    isRoot s = false → followPort s = none → timeHolds s = false → s.time.st = .locking →
    t = inc (timCtr 2) { s with time := { s.time with adj := s.time.est, st := .holdover, follow := none, run := 0 } } →
    (s.pw.stopped = false → exec (.timeFollowTimeout) s = .next (follows t)) ∧
    (quiet s t = true → exec (.timeFollowTimeout) s = .next t)) ∧
  (∀ (s t : State),
    isRoot s = true → ppsIn s = true → timeHolds s = false →
    t = { s with
          time := { slew (ppsError s * offUnit) 1000000000 (if s.time.st = .locked then ppm 10 else ppm 100) s.time with
            st := if |ppsError s| ≤ 2 then .locked else .locking,
            ppsErr := wInt (ppsError s),
            ppsLast := some s.time.now } } →
    (s.pw.stopped = false → exec (.ppsInEdge) s = .next (follows t)) ∧
    (quiet s t = true → exec (.ppsInEdge) s = .next t)) ∧
  (∀ (s t : State),
    isRoot s = true → ppsIn s = true → timeHolds s = false → s.time.st ≠ .holdover →
    t = inc (timCtr 2) (inc (timCtr 3) { s with time := { s.time with st := .holdover } }) →
    (s.pw.stopped = false → exec (.ppsTimeout) s = .next (follows t)) ∧
    (quiet s t = true → exec (.ppsTimeout) s = .next t)) ∧
  (∀ (s t : State),
    timeHolds s = true ∨ isRoot s = true ∨ followPort s ≠ none ∨ s.time.st = .holdover ∨ s.time.st = .unlocked →
    t = s →
    (s.pw.stopped = false → exec (.timeFollowTimeout) s = .next (follows t)) ∧
    (quiet s t = true → exec (.timeFollowTimeout) s = .next t)) ∧
  (∀ (s t : State),
    timeHolds s = true ∨ isRoot s = false ∨ ppsIn s = false →
    t = s →
    (s.pw.stopped = false → exec (.ppsInEdge) s = .next (follows t)) ∧
    (quiet s t = true → exec (.ppsInEdge) s = .next t)) ∧
  (∀ (s t : State),
    ppsOut s = true →
    t = { s with time.ppsHigh := true } →
    (s.pw.stopped = false → exec (.ppsOutEdge) s = .next (follows t)) ∧
    (quiet s t = true → exec (.ppsOutEdge) s = .next t))

/-- Power domains change state by PWR_SET, and report it when they are there. PWR_SET of a domain above 95 is BAD_PARAM; to
the state a domain is in it answers OK and does nothing; to another, where no dependence of R39 breaks and no host port
still needs the engine, it disables a port that is in use and starts the transition, and otherwise answers NOT_PERMITTED;
of a domain in a transition of the boot it answers BUSY (the model's choice, log 76); a transition that completes leaves
the domain in its new state, restarted where it came from OFF, and answers OK; one that does not leaves it in its old
state, with its units in use again where that is ON, raises source 348 with the failure noted, and answers TIMED_OUT;
PWR_GET answers all states. -/
def Obligations.PowerDomains : Prop :=
  (∀ (r : GcpReq) (s t : State),
    taken .none false r s = true → fAt r.words 5 0 7 < 96 → (domain s (fAt r.words 5 0 7)).target = none →
    PState.ofCode (fAt r.words 5 8 2) = (domain s (fAt r.words 5 0 7)).st →
    t = ok r [] s →
    (s.pw.stopped = false → exec (.pwrSet r) s = .next (follows t)) ∧
    (quiet s t = true → exec (.pwrSet r) s = .next t)) ∧
  (∀ (r : GcpReq) (s t : State),
    taken .none false r s = true → fAt r.words 5 0 7 < 96 → (domain s (fAt r.words 5 0 7)).target = none →
    PState.ofCode (fAt r.words 5 8 2) ≠ (domain s (fAt r.words 5 0 7)).st →
    breaksDeps s (fAt r.words 5 0 7) (PState.ofCode (fAt r.words 5 8 2)) = false →
    engineNeeded s (fAt r.words 5 0 7) (PState.ofCode (fAt r.words 5 8 2)) = false →
    t = hold r (startTransition (fAt r.words 5 0 7) (PState.ofCode (fAt r.words 5 8 2)) (if fAt r.words 5 0 7 < 64 ∧
        (domain s (fAt r.words 5 0 7)).st = .on ∧ (port s (fAt r.words 5 0 7)).st ≠ .disabled ∧ (port s (fAt r.words 5 0
        7)).st ≠ .fenced then disablePort (fAt r.words 5 0 7) s else s)) →
    (s.pw.stopped = false → exec (.pwrSet r) s = .next (follows t)) ∧
    (quiet s t = true → exec (.pwrSet r) s = .next t)) ∧
  (∀ (r : GcpReq) (s t : State),
    taken .none false r s = true → 96 ≤ fAt r.words 5 0 7 →
    t = fail r stBadParam s →
    (s.pw.stopped = false → exec (.pwrSet r) s = .next (follows t)) ∧
    (quiet s t = true → exec (.pwrSet r) s = .next t)) ∧
  (∀ (r : GcpReq) (s t : State),
    taken .none false r s = true → fAt r.words 5 0 7 < 96 → (domain s (fAt r.words 5 0 7)).target = none →
    PState.ofCode (fAt r.words 5 8 2) ≠ (domain s (fAt r.words 5 0 7)).st →
    breaksDeps s (fAt r.words 5 0 7) (PState.ofCode (fAt r.words 5 8 2)) = true ∨ engineNeeded s (fAt r.words 5 0 7)
        (PState.ofCode (fAt r.words 5 8 2)) = true →
    t = fail r stNotPermitted s →
    (s.pw.stopped = false → exec (.pwrSet r) s = .next (follows t)) ∧
    (quiet s t = true → exec (.pwrSet r) s = .next t)) ∧
  (∀ (r : GcpReq) (s t : State),
    taken .none false r s = true → fAt r.words 5 0 7 < 96 → (domain s (fAt r.words 5 0 7)).target.isSome = true →
    t = fail r stBusy s →
    (s.pw.stopped = false → exec (.pwrSet r) s = .next (follows t)) ∧
    (quiet s t = true → exec (.pwrSet r) s = .next t)) ∧
  (∀ (d : Nat) (s t : State),
    (domain s d).target = some .on → (domain s d).held = false →
    t = endCmds (pwrCmd d) stOk 0 0 [] (domainOn d (domain s d).wasOff (updDom d (fun x => { x with
          st := .on,
          target := none,
          wasOff := false }) s)) →
    (s.pw.stopped = false → exec (.powerTransitionDone d) s = .next (follows t)) ∧
    (quiet s t = true → exec (.powerTransitionDone d) s = .next t)) ∧
  (∀ (d : Nat) (s t : State),
    (domain s d).target = some .off → (domain s d).held = false →
    t = endCmds (pwrCmd d) stOk 0 0 [] (domainOff d (updDom d (fun x => { x with
          st := .off,
          target := none,
          wasOff := true }) s)) →
    (s.pw.stopped = false → exec (.powerTransitionDone d) s = .next (follows t)) ∧
    (quiet s t = true → exec (.powerTransitionDone d) s = .next t)) ∧
  (∀ (d : Nat) (t' : PState) (s t : State),
    (domain s d).target = some t' → (domain s d).held = false → t' = .gated ∨ t' = .retain →
    t = endCmds (pwrCmd d) stOk 0 0 [] (updDom d (fun x => { x with st := t', target := none }) s) →
    (s.pw.stopped = false → exec (.powerTransitionDone d) s = .next (follows t)) ∧
    (quiet s t = true → exec (.powerTransitionDone d) s = .next t)) ∧
  (∀ (d : Nat) (t' : PState) (s t : State),
    (domain s d).target = some t' → (domain s d).held = false → (domain s d).st = .on →
    t = endCmds (pwrCmd d) stTimedOut 0 0 [] (raise 348 1 { domainOn d false (updDom d (fun x => { x with
          target := none }) s) with pw.lastFail := pack [(0, 7, d), (8, 2, t'.code)] }) →
    (s.pw.stopped = false → exec (.powerTransitionTimeout d) s = .next (follows t)) ∧
    (quiet s t = true → exec (.powerTransitionTimeout d) s = .next t)) ∧
  (∀ (d : Nat) (t' : PState) (s t : State),
    (domain s d).target = some t' → (domain s d).held = false → (domain s d).st ≠ .on →
    t = endCmds (pwrCmd d) stTimedOut 0 0 [] (raise 348 1 { updDom d (fun x => { x with target := none }) s with
          pw.lastFail := pack [(0, 7, d), (8, 2, t'.code)] }) →
    (s.pw.stopped = false → exec (.powerTransitionTimeout d) s = .next (follows t)) ∧
    (quiet s t = true → exec (.powerTransitionTimeout d) s = .next t)) ∧
  (∀ (r : GcpReq) (s t : State),
    taken .none false r s = true →
    t = ok r ((List.range 6).map (pwrState s)) s →
    (s.pw.stopped = false → exec (.pwrGet r) s = .next (follows t)) ∧
    (quiet s t = true → exec (.pwrGet r) s = .next t))

/-- Power-on reset, and the first steps of the boot. POR, and a fault of the always-on supply, leave every kind of state at
its reset value: both banks, every port, plane and route, every host object, tree, lock and scratch word, every key,
session and IDE stream, the Heartwood's derived keys, events, counters, commands and time; what stays are the fuses MIN_SVN
and ERASE_COUNT, the NOR and the levels at the PERST pins, and SPI_RESET_N pulses. BOOT samples the straps and derives the
Heartwood's keys once the references run (that those of the host ports and HM are there too is PRESUMED, log 15);
TAPROOT_LOCKED starts the transitions to ON of the domains that ROLE_SEL selects. CONTROLLER_RESTART_DONE runs the slot
with the higher SVN when it verifies, and else the other, with FW_AUTH for each that does not: the running firmware reports
healthy, ALIVE toggles unless a source still stops it, host ports in RESET with PERST_N high train and the HM port does;
with none verified the boot ROM is in recovery and ALIVE stops; after a restart it raises FW_RESTART. HM_PERST_DEASSERT
trains the HM port once the controller is past BOOT and its clock is there. -/
def Obligations.ResetAndBoot : Prop :=
  (∀ (s t : State),
    t = emit .spiReset
        { pending := s.pending, out := s.out, grade425 := s.grade425, nor := s.nor, net := {}, stage := {}, trees := [],
            cross := {}, scr := {}, mgmt := {}, time := {}, ev := {}, pw := { hmPerst := s.pw.hmPerst }, heart :=
            { minSvn := s.heart.minSvn, eraseCount := s.heart.eraseCount, challenges := s.heart.challenges, responses :=
                s.heart.responses }, hs :=
            { ports := (List.range 4).foldl (fun m h => Maps.put {} m h { perst := (hport s h).perst }) [] } } →
    exec (.por) s = .next (follows t) ∧
    (quiet s t = true → exec (.por) s = .next t) ∧
      (∀ n, (port t n).st = .disabled) ∧ (∀ d, domOn t d = false) ∧ t.stage.bank = .opened ∧ t.heart.keys = [] ∧
      t.heart.idKey = none ∧ t.heart.wrapKey = none ∧ t.heart.ide = [] ∧ t.ev.cause = [] ∧ t.ev.ctr = [] ∧ t.mgmt.fw =
      .boot ∧ t.mgmt.cmds = [] ∧ (∀ h q, (wqOf t h q).st = .absent) ∧ (∀ h c, (chanOf t h c).st = .absent) ∧ (∀ i, (tree t
      i).st = 0) ∧ t.scr.locks = [] ∧ t.pw.refOk = false) ∧
  (∀ (s t : State),
    t = emit .spiReset
        { pending := s.pending, out := s.out, grade425 := s.grade425, nor := s.nor, net := {}, stage := {}, trees := [],
            cross := {}, scr := {}, mgmt := {}, time := {}, ev := {}, pw := { hmPerst := s.pw.hmPerst }, heart :=
            { minSvn := s.heart.minSvn, eraseCount := s.heart.eraseCount, challenges := s.heart.challenges, responses :=
                s.heart.responses }, hs :=
            { ports := (List.range 4).foldl (fun m h => Maps.put {} m h { perst := (hport s h).perst }) [] } } →
    exec (.supplyFault .aon) s = .next (follows t) ∧
    (quiet s t = true → exec (.supplyFault .aon) s = .next t) ∧
      (∀ n, (port t n).st = .disabled) ∧ (∀ d, domOn t d = false) ∧ t.stage.bank = .opened ∧ t.heart.keys = [] ∧
      t.heart.idKey = none ∧ t.heart.wrapKey = none ∧ t.heart.ide = [] ∧ t.ev.cause = [] ∧ t.ev.ctr = [] ∧ t.mgmt.fw =
      .boot ∧ t.mgmt.cmds = [] ∧ (∀ h q, (wqOf t h q).st = .absent) ∧ (∀ h c, (chanOf t h c).st = .absent) ∧ (∀ i, (tree t
      i).st = 0) ∧ t.scr.locks = [] ∧ t.pw.refOk = false) ∧
  (∀ (roleSel : Nat) (testMode : Bool) (i3cAddr : Nat) (s t : State),
    s.mgmt.fw = .boot → s.pw.refOk = false → s.pw.stopped = false →
    t = { s with
          heart := { s.heart with
            idKey := some (Config.deriveIdentity Config.deviceSecret),
            wrapKey := some (Config.deriveWrapping Config.deviceSecret) },
          pw := { s.pw with
            refOk := true,
            hmRefOk := true,
            hostRefOk := 0xF,
            roleSel := roleSel % 4,
            testMode := testMode,
            i3cStrap := i3cAddr % 8 } } →
    exec (.boot roleSel testMode i3cAddr) s = .next (follows t) ∧
    (quiet s t = true → exec (.boot roleSel testMode i3cAddr) s = .next t)) ∧
  (∀ (s t : State),
    s.pw.refOk = true → s.pw.tapLock = false → s.pw.stopped = false →
    t = (List.range 96).foldl (fun s d => if roleOn s.pw.roleSel d then updDom d (fun x => { x with target := some .on })
        s else s) { s with pw.tapLock := true } →
    exec (.taprootLocked) s = .next (follows t) ∧
    (quiet s t = true → exec (.taprootLocked) s = .next t)) ∧
  (∀ (b : Bool) (w x u v : State) (s t : State),
    s.mgmt.fw = .boot → s.pw.tapLock = true → b = decide (slotSvn s false < slotSvn s true) → w = emit .spiSfdp s →
    x = alarm 6 w →
    u = (if verifySlot s b = 0 then { w with
          mgmt.fw := .running,
          heart := { w.heart with
            fwSlot := b,
            fwSvn := (slotSvn s (b)).toNat,
            minAtRun := s.heart.minSvn,
            measured := true,
            image := BitVec.ofNat 384 (norNat s (slotBase (b) + 0x18) 48),
            buildId := BitVec.ofNat 64 (norNat s (slotBase (b) + 0x10) 8) } } else if verifySlot s (!b) = 0 then { x with
          mgmt.fw := .running,
          heart := { x.heart with
            fwSlot := !b,
            fwSvn := (slotSvn s (!b)).toNat,
            minAtRun := s.heart.minSvn,
            measured := true,
            image := BitVec.ofNat 384 (norNat s (slotBase (!b) + 0x18) 48),
            buildId := BitVec.ofNat 64 (norNat s (slotBase (!b) + 0x10) 8) } } else raise 304 2 { alarm 6 x with
          mgmt.fw := .recovery }) →
    v = { u with pw.hmTrained := !u.pw.hmPerst && u.pw.hmRefOk } →
    t = (if u.mgmt.fw = .running then (List.range 4).foldl (fun s h => if (hport s h).st = .reset ∧ (hport s h).perst =
        false then updHost h (fun p => { p with st := .training }) s else s) (if u.ev.stopped = [] then startAlive { v
        with ev.wdogOk := true, ev.hbOk := true } else stopAlive { v with ev.wdogOk := true, ev.hbOk := true }) else
        stopAlive { v with ev.hbOk := false }) →
    (s.pw.stopped = false → exec (.controllerRestartDone) s = .next (follows t)) ∧
    (quiet s t = true → exec (.controllerRestartDone) s = .next t)) ∧
  (∀ (b : Bool) (w x u v : State) (s t : State),
    s.mgmt.fw = .restarting → b = decide (slotSvn s false < slotSvn s true) → w = emit .spiSfdp s → x = alarm 6 w →
    u = (if verifySlot s b = 0 then { w with
          mgmt.fw := .running,
          heart := { w.heart with
            fwSlot := b,
            fwSvn := (slotSvn s (b)).toNat,
            minAtRun := s.heart.minSvn,
            measured := true,
            image := BitVec.ofNat 384 (norNat s (slotBase (b) + 0x18) 48),
            buildId := BitVec.ofNat 64 (norNat s (slotBase (b) + 0x10) 8) } } else if verifySlot s (!b) = 0 then { x with
          mgmt.fw := .running,
          heart := { x.heart with
            fwSlot := !b,
            fwSvn := (slotSvn s (!b)).toNat,
            minAtRun := s.heart.minSvn,
            measured := true,
            image := BitVec.ofNat 384 (norNat s (slotBase (!b) + 0x18) 48),
            buildId := BitVec.ofNat 64 (norNat s (slotBase (!b) + 0x10) 8) } } else raise 304 2 { alarm 6 x with
          mgmt.fw := .recovery }) →
    v = { u with pw.hmTrained := !u.pw.hmPerst && u.pw.hmRefOk } →
    t = raise 304 1 (if u.mgmt.fw = .running then (List.range 4).foldl (fun s h => if (hport s h).st = .reset ∧ (hport s
        h).perst = false then updHost h (fun p => { p with st := .training }) s else s) (if u.ev.stopped = [] then
        startAlive { v with ev.wdogOk := true, ev.hbOk := true } else stopAlive { v with
          ev.wdogOk := true,
          ev.hbOk := true }) else stopAlive { v with ev.hbOk := false }) →
    (s.pw.stopped = false → exec (.controllerRestartDone) s = .next (follows t)) ∧
    (quiet s t = true → exec (.controllerRestartDone) s = .next t)) ∧
  (∀ (s t : State),
    s.mgmt.fw = .running ∨ s.mgmt.fw = .recovery ∨ (s.mgmt.fw = .boot ∧ s.pw.tapLock = false) →
    t = s →
    (s.pw.stopped = false → exec (.controllerRestartDone) s = .next (follows t)) ∧
    (quiet s t = true → exec (.controllerRestartDone) s = .next t)) ∧
  (∀ (s t : State),
    t = { s with pw := { s.pw with hmPerst := false, hmTrained := s.mgmt.fw != .boot && s.pw.hmRefOk } } →
    exec (.hmPerstDeassert) s = .next (follows t) ∧
    (quiet s t = true → exec (.hmPerstDeassert) s = .next t))

/-- Clock losses, supply faults, temperature and power. REFCLK_LOSS and TAPROOT_UNLOCK raise their sources and stop the
clocks until power-on reset; HM's and a host port's own reference clock show in CLK_STATUS, and the HM port trains by its
own (the model's choice, log 144); BOLE_PLL_UNLOCK raises 341 or 342, whose reaction fences the Bole, and BOLE_PLL_RELOCK
shows the lock again; a sustained fault of the core, network, Bole or HBM supply raises its source; SENSOR_SAMPLE of
readings in range records them and the highest, at the warning level raises THERM_WARN, and at 115 degrees trips;
POWER_ESTIMATE records the estimate, and at the warning level raises POWER_LIMIT. -/
def Obligations.ClocksAndSupplies : Prop :=
  (∀ (s t : State),
    s.pw.refOk = true →
    t = raise 339 1 { s with pw := { s.pw with refOk := false, tapLock := false, stopped := true, onOsc := true } } →
    exec (.refclkLoss .refclk false) s = .next t) ∧
  (∀ (s t : State),
    t = s →
    exec (.refclkLoss .refclk true) s = .next (follows t) ∧
    (quiet s t = true → exec (.refclkLoss .refclk true) s = .next t)) ∧
  (∀ (s t : State),
    t = { s with pw := { s.pw with hmRefOk := false, hmTrained := false } } →
    exec (.refclkLoss .hm false) s = .next (follows t) ∧
    (quiet s t = true → exec (.refclkLoss .hm false) s = .next t)) ∧
  (∀ (s t : State),
    t = { s with pw := { s.pw with hmRefOk := true, hmTrained := !s.pw.hmPerst && s.mgmt.fw != .boot } } →
    exec (.refclkLoss .hm true) s = .next (follows t) ∧
    (quiet s t = true → exec (.refclkLoss .hm true) s = .next t)) ∧
  (∀ (h : Nat) (back : Bool) (s t : State),
    h < 4 →
    t = { s with
          pw.hostRefOk := if back then s.pw.hostRefOk ||| BitVec.ofNat 4 (2 ^ h) else s.pw.hostRefOk &&& ~~~BitVec.ofNat 4
            (2 ^ h) } →
    exec (.refclkLoss (.host h) back) s = .next (follows t) ∧
    (quiet s t = true → exec (.refclkLoss (.host h) back) s = .next t)) ∧
  (∀ (s t : State),
    s.pw.tapLock = true → s.pw.stopped = false →
    t = raise 340 1 { s with pw := { s.pw with tapLock := false, stopped := true } } →
    exec (.taprootUnlock) s = .next t) ∧
  (∀ (b : Nat) (s t : State),
    s.pw.stopped = false → s.pw.pllLock.getLsbD b = true →
    t = raise (341 + b) 1 { s with pw.pllLock := s.pw.pllLock &&& ~~~BitVec.ofNat 2 (2 ^ b) } →
    exec (.bolePllUnlock b) s = .next (follows t) ∧
    (quietFence s t = true → exec (.bolePllUnlock b) s = .next (fenceStep t))) ∧
  (∀ (b : Nat) (s t : State),
    s.pw.stopped = false → s.pw.tapLock = true → b < 2 →
    t = { s with pw.pllLock := s.pw.pllLock ||| BitVec.ofNat 2 (2 ^ b) } →
    exec (.bolePllRelock b) s = .next (follows t) ∧
    (quiet s t = true → exec (.bolePllRelock b) s = .next t)) ∧
  (∀ (s t : State),
    t = raise 343 1 s →
    exec (.supplyFault .core) s = .next (follows t) ∧
    (quiet s t = true → exec (.supplyFault .core) s = .next t)) ∧
  (∀ (s t : State),
    t = raise 344 1 s →
    exec (.supplyFault .netSerdes) s = .next (follows t) ∧
    (quiet s t = true → exec (.supplyFault .netSerdes) s = .next t)) ∧
  (∀ (s t : State),
    t = raise 347 1 s →
    exec (.supplyFault .hbm) s = .next (follows t) ∧
    (quietFence s t = true → exec (.supplyFault .hbm) s = .next (fenceStep t))) ∧
  (∀ (s t : State),
    boleUsed s 0 = true →
    t = raise 345 1 s →
    exec (.supplyFault .e0) s = .next (follows t) ∧
    (quietFence s t = true → exec (.supplyFault .e0) s = .next (fenceStep t))) ∧
  (∀ (s t : State),
    boleUsed s 1 = true →
    t = raise 346 1 s →
    exec (.supplyFault .e1) s = .next (follows t) ∧
    (quietFence s t = true → exec (.supplyFault .e1) s = .next (fenceStep t))) ∧
  (∀ (ts : List (Option Int)) (x : Int) (i : Nat) (s t : State),
    (List.range 16).any (fun i => sensorBad ((ts[i]?).getD none)) = false → hottest ts = some (x, i) →
    x < ((rwsF s 0x07000034 10 8 : Nat) : Int) → x < 115 →
    t = { s with
          pw := { s.pw with
            temps := (List.range 16).foldl (fun m i => Maps.put 0 m i (tempWord (Maps.get 0 m i) ((ts[i]?).getD none)))
              s.pw.temps,
            tempMax := pack [(0, 9, (BitVec.ofInt 9 x).toNat), (9, 4, i)] } } →
    exec (.sensorSample ts) s = .next (follows t) ∧
    (quiet s t = true → exec (.sensorSample ts) s = .next t)) ∧
  (∀ (ts : List (Option Int)) (x : Int) (i : Nat) (s t : State),
    (List.range 16).any (fun i => sensorBad ((ts[i]?).getD none)) = false → hottest ts = some (x, i) →
    ((rwsF s 0x07000034 10 8 : Nat) : Int) ≤ x → x < 115 →
    t = raise 336 1 { s with
          pw := { s.pw with
            temps := (List.range 16).foldl (fun m i => Maps.put 0 m i (tempWord (Maps.get 0 m i) ((ts[i]?).getD none)))
              s.pw.temps,
            tempMax := pack [(0, 9, (BitVec.ofInt 9 x).toNat), (9, 4, i)] } } →
    exec (.sensorSample ts) s = .next (follows t) ∧
    (quiet s t = true → exec (.sensorSample ts) s = .next t)) ∧
  (∀ (ts : List (Option Int)) (x : Int) (i : Nat) (s t : State),
    (List.range 16).any (fun i => sensorBad ((ts[i]?).getD none)) = false → hottest ts = some (x, i) →
    ((rwsF s 0x07000034 10 8 : Nat) : Int) ≤ x → 115 ≤ x → s.pw.tripped = false →
    t = raise 337 1 ((fun u => { u with pw := { u.pw with tripped := true, stopped := true } }) (raise 336 1 { s with
          pw := { s.pw with
            temps := (List.range 16).foldl (fun m i => Maps.put 0 m i (tempWord (Maps.get 0 m i) ((ts[i]?).getD none)))
              s.pw.temps,
            tempMax := pack [(0, 9, (BitVec.ofInt 9 x).toNat), (9, 4, i)] } })) →
    exec (.sensorSample ts) s = .next t) ∧
  (∀ (watts : Nat) (s t : State),
    rwsF s 0x07000034 0 10 ≤ min watts 1023 →
    t = raise 349 1 { s with pw.est := min watts 1023 } →
    exec (.powerEstimate watts) s = .next (follows t) ∧
    (quiet s t = true → exec (.powerEstimate watts) s = .next t)) ∧
  (∀ (watts : Nat) (s t : State),
    min watts 1023 < rwsF s 0x07000034 0 10 →
    t = { s with pw.est := min watts 1023 } →
    exec (.powerEstimate watts) s = .next (follows t) ∧
    (quiet s t = true → exec (.powerEstimate watts) s = .next t))

/-- Die-to-die modules train, fail and retry, and HBM errors strike. D2D_TRAIN_DONE of a powered, unfenced module that is
not up brings it up, and reports a repaired lane; D2D_MODULE_DOWN raises its third source, whose reaction fences it, and
takes it out of its Bole's modules, which raises 472 + b, and 474 + b with none left; identifiers it carried move;
ADAPTER_PROTOCOL_ERROR raises its fourth; D2D_IDENT_MOVE of an identifier that leaves a fenced module counts and reports
the crossings lost, and sends what was held for it; D2D_RETRY counts within its 1 ms window; HBM_ECC_UNCORR raises the
pseudo-channel's source, loses the spilled cells it strikes, and puts matching in the lost state where it strikes an entry
of the tier. -/
def Obligations.DieToDieAndHbm : Prop :=
  (∀ (m : Nat) (s t : State),
    d2dPowered s m = true → (d2dOf s m).up = false → fenced s (uD2d m) = false →
    t = updD2d m (fun x => { x with up := true }) s →
    (s.pw.stopped = false → exec (.d2dTrainDone m false) s = .next (follows t)) ∧
    (quiet s t = true → exec (.d2dTrainDone m false) s = .next t)) ∧
  (∀ (m : Nat) (s t : State),
    d2dPowered s m = true → (d2dOf s m).up = false → fenced s (uD2d m) = false →
    t = raise (d2dSrc m 1) 1 (updD2d m (fun x => { x with up := true }) s) →
    (s.pw.stopped = false → exec (.d2dTrainDone m true) s = .next (follows t)) ∧
    (quiet s t = true → exec (.d2dTrainDone m true) s = .next t)) ∧
  (∀ (m : Nat) (s t : State),
    d2dPowered s m = true → (d2dOf s m).up = false →
    t = raise (d2dSrc m 2) 1 s →
    (s.pw.stopped = false → exec (.d2dModuleDown m) s = .next (follows t)) ∧
    (quietFence s t = true → exec (.d2dModuleDown m) s = .next (fenceStep t))) ∧
  (∀ (m : Nat) (w u : State) (s t : State),
    d2dPowered s m = true → (d2dOf s m).up = true →
    w = updD2d m (fun x => { x with up := false }) (raise (d2dSrc m 2) 1 s) →
    u = { w with
          cross := { w.cross with
            carried := Maps.put [] w.cross.carried m [],
            moving := Maps.upd [] w.cross.moving m (fun l => l ++ (Maps.get [] w.cross.carried m).filter (fun i =>
              !l.contains i)) } } →
    t = (if boleLinked (raise (472 + m / 3) 1 u) (m / 3) then raise (472 + m / 3) 1 u else raise (474 + m / 3) 1 (raise
        (472 + m / 3) 1 u)) →
    (s.pw.stopped = false → exec (.d2dModuleDown m) s = .next (follows t)) ∧
    (quietFence s t = true → exec (.d2dModuleDown m) s = .next (fenceStep t))) ∧
  (∀ (m : Nat) (s t : State),
    d2dPowered s m = true →
    t = raise (d2dSrc m 3) 1 s →
    (s.pw.stopped = false → exec (.adapterProtocolError m) s = .next (follows t)) ∧
    (quietFence s t = true → exec (.adapterProtocolError m) s = .next (fenceStep t))) ∧
  (∀ (m ident lost : Nat) (s t : State),
    d2dPowered s m = true → (Maps.get [] s.cross.moving m).contains ident = true → s.cross.held = [] → lost ≠ 0 →
    t = (fun u => { u with
          cross := { u.cross with
            moving := Maps.put [] u.cross.moving m ((Maps.get [] s.cross.moving m).filter (· ≠ ident)) } }) (raise (161 +
        64 * (m / 3)) 2 (count (boleKey (m / 3) 0x100) lost s)) →
    (s.pw.stopped = false → exec (.d2dIdentMove m ident lost) s = .next (follows t)) ∧
    (quiet s t = true → exec (.d2dIdentMove m ident lost) s = .next t)) ∧
  (∀ (m ident : Nat) (x : Crossing) (s t : State),
    d2dPowered s m = true → (Maps.get [] s.cross.moving m).contains ident = true → s.cross.held = [(m / 3, ident, x)] →
    t = crossD2d (m / 3) ident x (Crossing.run x) { s with
          cross := { s.cross with
            held := [],
            moving := Maps.put [] s.cross.moving m ((Maps.get [] s.cross.moving m).filter (· ≠ ident)) } } →
    (s.pw.stopped = false → exec (.d2dIdentMove m ident 0) s = .next (follows t)) ∧
    (quiet s t = true → exec (.d2dIdentMove m ident 0) s = .next t)) ∧
  (∀ (m : Nat) (s t : State),
    d2dPowered s m = true →
    t = (let fresh := decide (s.time.now < (d2dOf s m).winAt + 1000000) && (d2dOf s m).retries != 0; let k := if fresh
        then (d2dOf s m).retries + 1 else 1; let u := updD2d m (fun x => { x with
          retries := k,
          winAt := if fresh then x.winAt else s.time.now }) s; if k = Config.retryThresh + 1 then raise (d2dSrc m 0) 1 u
        else u) →
    (s.pw.stopped = false → exec (.d2dRetry m) s = .next (follows t)) ∧
    (quiet s t = true → exec (.d2dRetry m) s = .next t)) ∧
  (∀ (c : Nat) (s t : State),
    hbmOk s = true → c < 32 →
    t = raise (480 + c) 1 s →
    (s.pw.stopped = false → exec (.hbmEccUncorr c .nothing) s = .next (follows t)) ∧
    (quiet s t = true → exec (.hbmEccUncorr c .nothing) s = .next t)) ∧
  (∀ (c n : Nat) (s t : State),
    hbmOk s = true → c < 32 → hasSpilled (raise (480 + c) 1 s) n = true →
    t = spillLost n (raise (480 + c) 1 s) →
    (s.pw.stopped = false → exec (.hbmEccUncorr c (.spilled n)) s = .next (follows t)) ∧
    (quiet s t = true → exec (.hbmEccUncorr c (.spilled n)) s = .next t)) ∧
  (∀ (c h : Nat) (s t : State),
    hbmOk s = true → c < 32 → (unexpAt (raise (480 + c) 1 s) h).any (·.tier) = true →
    t = matchLost h (raise (480 + c) 1 s) →
    (s.pw.stopped = false → exec (.hbmEccUncorr c (.tier h)) s = .next (follows t)) ∧
    (quiet s t = true → exec (.hbmEccUncorr c (.tier h)) s = .next t))

/-- A firmware update from FW_BEGIN to FW_VERIFY, the restart, and promotion. FW_BEGIN with no update in progress begins
the erase of a length in range and is BAD_PARAM of another, and is BUSY with an update in progress; the end of the erase
empties slot A and opens the update, or answers TIMED_OUT and ends it; FW_WRITE of an open update writes the slot within
the declared length and is BAD_PARAM beyond it, and is NOT_PERMITTED with no update open; FW_VERIFY runs the tests, whose
end answers OK, or AUTH_FAILED with the first failed test as DETAIL, and ends the update; FW_RESTART answers OK and
restarts the controller, which loses what it holds for commands, or is NOT_PERMITTED while a command of the groups 0x01,
0x02 and 0x0A is in execution; FW_PROMOTE of an image that runs from slot A copies it to slot B, or answers TIMED_OUT, and
leaves an open update open (the model's reading, log 54); it is NOT_PERMITTED from slot B; FW_RAISE_MIN_SVN raises the
minimum to the running SVN when neither slot holds a lower one, and is NOT_PERMITTED otherwise. -/
def Obligations.FirmwareUpdate : Prop :=
  (∀ (r : GcpReq) (s t : State),
    taken .none false r s = true → s.mgmt.fwJob = .none → 0x1200 ≤ (wAt r.words 5).toNat →
    (wAt r.words 5).toNat ≤ 0x800000 →
    t = hold r { s with mgmt.fwJob := .erase r (wAt r.words 5).toNat } →
    (s.pw.stopped = false → exec (.fwBegin r) s = .next (follows t)) ∧
    (quiet s t = true → exec (.fwBegin r) s = .next t)) ∧
  (∀ (r : GcpReq) (s t : State),
    taken .none false r s = true → s.mgmt.fwJob = .none →
    (wAt r.words 5).toNat < 0x1200 ∨ 0x800000 < (wAt r.words 5).toNat →
    t = fail r stBadParam s →
    (s.pw.stopped = false → exec (.fwBegin r) s = .next (follows t)) ∧
    (quiet s t = true → exec (.fwBegin r) s = .next t)) ∧
  (∀ (r : GcpReq) (s t : State),
    taken .none false r s = true → s.mgmt.fwJob ≠ .none →
    t = fail r stBusy s →
    (s.pw.stopped = false → exec (.fwBegin r) s = .next (follows t)) ∧
    (quiet s t = true → exec (.fwBegin r) s = .next t)) ∧
  (∀ (q : GcpReq) (n : Nat) (s t : State),
    s.mgmt.fwJob = .erase q n →
    t = endCmds (fun r => opcodeOf r == 0xA00) stOk 0 0 [] { s with nor := eraseA s.nor, mgmt.fwJob := .opened n } →
    (s.pw.stopped = false → exec (.fwEraseDone true) s = .next (follows t)) ∧
    (quiet s t = true → exec (.fwEraseDone true) s = .next t)) ∧
  (∀ (q : GcpReq) (n : Nat) (s t : State),
    s.mgmt.fwJob = .erase q n →
    t = endCmds (fun r => opcodeOf r == 0xA00) stTimedOut 0 0 [] { s with mgmt.fwJob := .none } →
    (s.pw.stopped = false → exec (.fwEraseDone false) s = .next (follows t)) ∧
    (quiet s t = true → exec (.fwEraseDone false) s = .next t)) ∧
  (∀ (r : GcpReq) (n : Nat) (s t : State),
    taken .writes false r s = true → s.mgmt.fwJob = .opened n → (wAt r.words 5).toNat % 4 = 0 →
    (wAt r.words 5).toNat + (wAt r.words 2).toNat ≤ n →
    t = ok r [] { s with
          nor := Maps.putList 0xFF s.nor (wAt r.words 5).toNat ((wBytes (dataOf r 6)).take (wAt r.words 2).toNat) } →
    (s.pw.stopped = false → exec (.fwWrite r) s = .next (follows t)) ∧
    (quiet s t = true → exec (.fwWrite r) s = .next t)) ∧
  (∀ (r : GcpReq) (s t : State),
    taken .writes false r s = true → (∀ n, s.mgmt.fwJob ≠ .opened n) →
    t = fail r stNotPermitted s →
    (s.pw.stopped = false → exec (.fwWrite r) s = .next (follows t)) ∧
    (quiet s t = true → exec (.fwWrite r) s = .next t)) ∧
  (∀ (r : GcpReq) (n : Nat) (s t : State),
    taken .writes false r s = true → s.mgmt.fwJob = .opened n →
    (wAt r.words 5).toNat % 4 ≠ 0 ∨ n < (wAt r.words 5).toNat + (wAt r.words 2).toNat →
    t = fail r stBadParam s →
    (s.pw.stopped = false → exec (.fwWrite r) s = .next (follows t)) ∧
    (quiet s t = true → exec (.fwWrite r) s = .next t)) ∧
  (∀ (r : GcpReq) (s t : State),
    taken .none false r s = true →
    t = hold r { s with mgmt.fwJob := .verify r 0 } →
    (s.pw.stopped = false → exec (.fwVerify r) s = .next (follows t)) ∧
    (quiet s t = true → exec (.fwVerify r) s = .next t)) ∧
  (∀ (q : GcpReq) (n : Nat) (s t : State),
    s.mgmt.fwJob = .verify q n →
    t = endCmds (fun r => opcodeOf r == 0xA02) (if verifySlot s false = 0 then stOk else stAuthFailed) (verifySlot s
        false) 0 [] { s with mgmt.fwJob := .none } →
    (s.pw.stopped = false → exec (.fwVerifyDone) s = .next (follows t)) ∧
    (quiet s t = true → exec (.fwVerifyDone) s = .next t)) ∧
  (∀ (r : GcpReq) (w : State) (s t : State),
    taken .none false r s = true →
    s.mgmt.cmds.any (fun c => groupOf c.req == 1 || groupOf c.req == 2 || groupOf c.req == 0xA) = false → w = ok r [] s →
    t = emit .spiReset { w with
          mgmt := { w.mgmt with fw := .restarting, cmds := [], waitq := [], mseqs := [], maps := [], fwJob := .none },
          stage := { w.stage with checking := none, bulkJob := none },
          net.graft := { w.net.graft with quarCmd := none, drainCmd := none } } →
    (s.pw.stopped = false → exec (.fwRestart r) s = .next (follows t)) ∧
    (quiet s t = true → exec (.fwRestart r) s = .next t)) ∧
  (∀ (r : GcpReq) (s t : State),
    taken .none false r s = true →
    s.mgmt.cmds.any (fun c => groupOf c.req == 1 || groupOf c.req == 2 || groupOf c.req == 0xA) = true →
    t = fail r stNotPermitted s →
    (s.pw.stopped = false → exec (.fwRestart r) s = .next (follows t)) ∧
    (quiet s t = true → exec (.fwRestart r) s = .next t)) ∧
  (∀ (r : GcpReq) (s t : State),
    taken .none false r s = true → s.heart.fwSlot = true →
    t = fail r stNotPermitted s →
    (s.pw.stopped = false → exec (.fwPromote r) s = .next (follows t)) ∧
    (quiet s t = true → exec (.fwPromote r) s = .next t)) ∧
  (∀ (q : GcpReq) (n : Option Nat) (s t : State),
    s.mgmt.fwJob = .promote q n →
    t = endCmds (fun r => opcodeOf r == 0xA04) stTimedOut 0 0 [] { s with
          mgmt.fwJob := (n.map FwJob.opened).getD .none } →
    (s.pw.stopped = false → exec (.fwPromoteDone false) s = .next (follows t)) ∧
    (quiet s t = true → exec (.fwPromoteDone false) s = .next t)) ∧
  (∀ (r : GcpReq) (s t : State),
    taken .none false r s = true → s.heart.fwSlot = false →
    t = hold r { s with mgmt.fwJob := .promote r (match s.mgmt.fwJob with | .opened n => some n | _ => none) } →
    (s.pw.stopped = false → exec (.fwPromote r) s = .next (follows t)) ∧
    (quiet s t = true → exec (.fwPromote r) s = .next t)) ∧
  (∀ (q : GcpReq) (n : Option Nat) (s t : State),
    s.mgmt.fwJob = .promote q n →
    t = endCmds (fun r => opcodeOf r == 0xA04) stOk 0 0 [] { s with
          nor := promoteA s.nor,
          mgmt.fwJob := (n.map FwJob.opened).getD .none } →
    (s.pw.stopped = false → exec (.fwPromoteDone true) s = .next (follows t)) ∧
    (quiet s t = true → exec (.fwPromoteDone true) s = .next t)) ∧
  (∀ (r : GcpReq) (s t : State),
    taken .none true r s = true → slotSvn s false < s.heart.fwSvn ∨ slotSvn s true < s.heart.fwSvn →
    t = fail r stNotPermitted s →
    (s.pw.stopped = false → exec (.fwRaiseMinSvn r) s = .next (follows t)) ∧
    (quiet s t = true → exec (.fwRaiseMinSvn r) s = .next t)) ∧
  (∀ (r : GcpReq) (s t : State),
    taken .none true r s = true → s.heart.fwSvn ≤ slotSvn s false → s.heart.fwSvn ≤ slotSvn s true →
    t = ok r [] { s with heart := { s.heart with minSvn := s.heart.fwSvn } } →
    (s.pw.stopped = false → exec (.fwRaiseMinSvn r) s = .next (follows t)) ∧
    (quiet s t = true → exec (.fwRaiseMinSvn r) s = .next t))

/-- Telemetry, the map record and history are read by byte ranges, and lock groups are configured. TEL_LIVE_READ of a range
within the record answers its words, and is BAD_PARAM of another; MAP_READ at offset 0, or with no record taken yet, takes
a new record for its transport and requester and answers from it, at another offset it answers from the record taken, and a
range outside the 2,592 bytes is BAD_PARAM; HIST_READ of a slot written, with the HBM interface serving, answers its words,
is BAD_PARAM of a slot or a range that is not there, and UNIT_FENCED without the interface; TREE_STATUS answers the two
registers of a context; LOCK_MODE without a change, or of a group with no lock held or queued, sets the mode, and is BUSY
otherwise; LOCK_RIGHTS that takes no right in use replaces 32 rights, and is BUSY otherwise; both are NOT_PERMITTED while
the domain of the Bole's memory is not ON. -/
def Obligations.ReadsAndLockGroups : Prop :=
  (∀ (r : GcpReq) (s t : State),
    taken .reads false r s = true → rangeOk (wAt r.words 5).toNat (wAt r.words 2).toNat (4 * (telAll s).length) = true →
    t = okData r (((telAll s).drop ((wAt r.words 5).toNat / 4)).take ((wAt r.words 2).toNat / 4)) (coreEcc eccTel s) →
    (s.pw.stopped = false → exec (.telLiveRead r) s = .next (follows t)) ∧
    (quiet s t = true → exec (.telLiveRead r) s = .next t)) ∧
  (∀ (r : GcpReq) (s t : State),
    taken .reads false r s = true → rangeOk (wAt r.words 5).toNat (wAt r.words 2).toNat (4 * (telAll s).length) = false →
    t = fail r stBadParam s →
    (s.pw.stopped = false → exec (.telLiveRead r) s = .next (follows t)) ∧
    (quiet s t = true → exec (.telLiveRead r) s = .next t)) ∧
  (∀ (r : GcpReq) (s t : State),
    taken .reads false r s = true → rangeOk (wAt r.words 5).toNat (wAt r.words 2).toNat 2592 = false →
    t = fail r stBadParam s →
    (s.pw.stopped = false → exec (.mapRead r) s = .next (follows t)) ∧
    (quiet s t = true → exec (.mapRead r) s = .next t)) ∧
  (∀ (r : GcpReq) (ws : List Word) (s t : State),
    taken .reads false r s = true → rangeOk (wAt r.words 5).toNat (wAt r.words 2).toNat 2592 = true → wAt r.words 5 ≠ 0 →
    snapOf s r = some ws → ws.length = 648 →
    t = okData r ((ws.drop ((wAt r.words 5).toNat / 4)).take ((wAt r.words 2).toNat / 4)) s →
    (s.pw.stopped = false → exec (.mapRead r) s = .next (follows t)) ∧
    (quiet s t = true → exec (.mapRead r) s = .next t)) ∧
  (∀ (r : GcpReq) (s t : State),
    taken .reads false r s = true → rangeOk (wAt r.words 5).toNat (wAt r.words 2).toNat 2592 = true →
    wAt r.words 5 = 0 ∨ snapOf s r = none → (mapRecord s).length = 648 →
    t = okData r (((mapRecord s).drop ((wAt r.words 5).toNat / 4)).take ((wAt r.words 2).toNat / 4)) { coreEcc eccMap s
        with
          mgmt.maps := (r.via, r.srcEid, mapRecord s) :: s.mgmt.maps.filter (fun m => !(m.1 == r.via && m.2.1 ==
            r.srcEid)) } →
    (s.pw.stopped = false → exec (.mapRead r) s = .next (follows t)) ∧
    (quiet s t = true → exec (.mapRead r) s = .next t)) ∧
  (∀ (r : GcpReq) (s t : State),
    taken .reads false r s = true → hbmOk s = true → (wAt r.words 5).toNat < histSlots →
    s.net.wrapped = true ∨ (wAt r.words 5).toNat < s.net.histSlot →
    rangeOk (wAt r.words 6).toNat (wAt r.words 2).toNat 16384 = true →
    t = okData r (Maps.range 0 (Maps.get [] s.net.hist (wAt r.words 5).toNat) ((wAt r.words 6).toNat / 4) ((wAt r.words
        2).toNat / 4)) s →
    (s.pw.stopped = false → exec (.histRead r) s = .next (follows t)) ∧
    (quiet s t = true → exec (.histRead r) s = .next t)) ∧
  (∀ (r : GcpReq) (s t : State),
    taken .reads false r s = true → hbmOk s = false →
    t = fail r stUnitFenced s →
    (s.pw.stopped = false → exec (.histRead r) s = .next (follows t)) ∧
    (quiet s t = true → exec (.histRead r) s = .next t)) ∧
  (∀ (r : GcpReq) (s t : State),
    taken .reads false r s = true → hbmOk s = true →
    histSlots ≤ (wAt r.words 5).toNat ∨ (s.net.wrapped = false ∧ s.net.histSlot ≤ (wAt r.words 5).toNat) ∨ rangeOk (wAt
        r.words 6).toNat (wAt r.words 2).toNat 16384 = false →
    t = fail r stBadParam s →
    (s.pw.stopped = false → exec (.histRead r) s = .next (follows t)) ∧
    (quiet s t = true → exec (.histRead r) s = .next t)) ∧
  (∀ (r : GcpReq) (s t : State),
    taken .none false r s = true →
    t = ok r (ctxRegs s (fAt r.words 5 0 10)) s →
    (s.pw.stopped = false → exec (.treeStatus r) s = .next (follows t)) ∧
    (quiet s t = true → exec (.treeStatus r) s = .next t)) ∧
  (∀ (r : GcpReq) (s t : State),
    taken .none false r s = true → domOn s (dMem (lgBole r)) = true →
    (lgroupOf s (lgBole r) (lgGroup r)).claim = bAt r.words 5 16 ∨ (lgLocks s r).any (fun l => l.owner.isSome || l.queue
        != []) = false →
    t = ok r [] (setLgroup (lgBole r) (lgGroup r) { lgroupOf s (lgBole r) (lgGroup r) with claim := bAt r.words 5 16 } s)
        →
    (s.pw.stopped = false → exec (.lockMode r) s = .next (follows t)) ∧
    (quiet s t = true → exec (.lockMode r) s = .next t)) ∧
  (∀ (r : GcpReq) (s t : State),
    taken .none false r s = true → domOn s (dMem (lgBole r)) = false →
    t = fail r stNotPermitted s →
    (s.pw.stopped = false → exec (.lockMode r) s = .next (follows t)) ∧
    (quiet s t = true → exec (.lockMode r) s = .next t)) ∧
  (∀ (r : GcpReq) (s t : State),
    taken .none false r s = true → domOn s (dMem (lgBole r)) = true →
    (lgroupOf s (lgBole r) (lgGroup r)).claim ≠ bAt r.words 5 16 →
    (lgLocks s r).any (fun l => l.owner.isSome || l.queue != []) = true →
    t = fail r stBusy s →
    (s.pw.stopped = false → exec (.lockMode r) s = .next (follows t)) ∧
    (quiet s t = true → exec (.lockMode r) s = .next t)) ∧
  (∀ (r : GcpReq) (s t : State),
    taken .none false r s = true → domOn s (dMem (lgBole r)) = false →
    t = fail r stNotPermitted s →
    (s.pw.stopped = false → exec (.lockRights r) s = .next (follows t)) ∧
    (quiet s t = true → exec (.lockRights r) s = .next t)) ∧
  (∀ (r : GcpReq) (new gone : BitVec 512) (s t : State),
    taken .none false r s = true → domOn s (dMem (lgBole r)) = true →
    new = ((lgroupOf s (lgBole r) (lgGroup r)).rights &&& ~~~(BitVec.ofNat 512 (0xFFFFFFFF <<< (32 * fAt r.words 5 16
        4)))) ||| BitVec.ofNat 512 ((wAt r.words 6).toNat <<< (32 * fAt r.words 5 16 4)) →
    gone = (lgroupOf s (lgBole r) (lgGroup r)).rights &&& ~~~new →
    (lgLocks s r).any (fun l => (match l.owner with | some m => (gone).getLsbD m | none => false) || l.queue.any (fun m =>
        gone.getLsbD m)) = true →
    t = fail r stBusy s →
    (s.pw.stopped = false → exec (.lockRights r) s = .next (follows t)) ∧
    (quiet s t = true → exec (.lockRights r) s = .next t)) ∧
  (∀ (r : GcpReq) (s t : State),
    taken .none false r s = true → domOn s (dMem (lgBole r)) = true →
    (lgLocks s r).any (fun l => (match l.owner with | some m => ((lgroupOf s (lgBole r) (lgGroup r)).rights &&&
        ~~~(((lgroupOf s (lgBole r) (lgGroup r)).rights &&& ~~~(BitVec.ofNat 512 (0xFFFFFFFF <<< (32 * fAt r.words 5 16
        4)))) ||| BitVec.ofNat 512 ((wAt r.words 6).toNat <<< (32 * fAt r.words 5 16 4)))).getLsbD m | none => false) ||
        l.queue.any ((lgroupOf s (lgBole r) (lgGroup r)).rights &&& ~~~(((lgroupOf s (lgBole r) (lgGroup r)).rights &&&
        ~~~(BitVec.ofNat 512 (0xFFFFFFFF <<< (32 * fAt r.words 5 16 4)))) ||| BitVec.ofNat 512 ((wAt r.words 6).toNat <<<
        (32 * fAt r.words 5 16 4)))).getLsbD) = false →
    t = ok r [] (setLgroup (lgBole r) (lgGroup r) { lgroupOf s (lgBole r) (lgGroup r) with
          rights := ((lgroupOf s (lgBole r) (lgGroup r)).rights &&& ~~~(BitVec.ofNat 512 (0xFFFFFFFF <<< (32 * fAt r.words
            5 16 4)))) ||| BitVec.ofNat 512 ((wAt r.words 6).toNat <<< (32 * fAt r.words 5 16 4)) } s) →
    (s.pw.stopped = false → exec (.lockRights r) s = .next (follows t)) ∧
    (quiet s t = true → exec (.lockRights r) s = .next t))

/-- Tree entries and reservations are staged whole. TREE_CREATE stages the eight words of an entry and TREE_DESTROY stages
zeros, where staging accepts them, and each answers what staging refuses where it does not; RESV_WRITE stages a reservation
without its reserved bits, of a Bole whose memory domain is ON, is BUSY while a commit is PENDING and NOT_PERMITTED where
that domain is not ON; RESV_READ answers the ACTIVE entry, or the STAGED one where asked and there is one, and is
NOT_PERMITTED where that domain is not ON. -/
def Obligations.TreesAndReservationsStaged : Prop :=
  (∀ (r : GcpReq) (s t : State),
    taken .none false r s = true → stageRefusal s (wordAddrs (0x02200000 + fAt r.words 5 0 10 * 0x20) 8) = none →
    t = ok r [] (unready (stageWords (0x02200000 + fAt r.words 5 0 10 * 0x20) ((List.range 8).map (fun i => wAt r.words (6
        + i))) s)) →
    (s.pw.stopped = false → exec (.treeCreate r) s = .next (follows t)) ∧
    (quiet s t = true → exec (.treeCreate r) s = .next t)) ∧
  (∀ (r : GcpReq) (s t : State),
    taken .none false r s = true → stageRefusal s (wordAddrs (0x02200000 + fAt r.words 5 0 10 * 0x20) 8) = none →
    t = ok r [] (unready (stageWords (0x02200000 + fAt r.words 5 0 10 * 0x20) (List.replicate 8 0) s)) →
    (s.pw.stopped = false → exec (.treeDestroy r) s = .next (follows t)) ∧
    (quiet s t = true → exec (.treeDestroy r) s = .next t)) ∧
  (∀ (r : GcpReq) (st d : Nat) (s t : State),
    taken .none false r s = true → stageRefusal s (wordAddrs (0x02200000 + fAt r.words 5 0 10 * 0x20) 8) = some (st, d) →
    t = finish r st d 0 [] [] s →
    (s.pw.stopped = false → exec (.treeCreate r) s = .next (follows t)) ∧
    (quiet s t = true → exec (.treeCreate r) s = .next t)) ∧
  (∀ (r : GcpReq) (st d : Nat) (s t : State),
    taken .none false r s = true → stageRefusal s (wordAddrs (0x02200000 + fAt r.words 5 0 10 * 0x20) 8) = some (st, d) →
    t = finish r st d 0 [] [] s →
    (s.pw.stopped = false → exec (.treeDestroy r) s = .next (follows t)) ∧
    (quiet s t = true → exec (.treeDestroy r) s = .next t)) ∧
  (∀ (r : GcpReq) (s t : State),
    taken .none false r s = true → domOn s (dMem (boleOf (fAt r.words 5 16 2))) = true → s.stage.bank ≠ .pending →
    t = ok r [] (unready { s with
          stage.resvStaged := Maps.insert (resvKey (fAt r.words 5 16 2) (fAt r.words 5 0 14)) (resvWords (r.words.drop 6))
            s.stage.resvStaged }) →
    (s.pw.stopped = false → exec (.resvWrite r) s = .next (follows t)) ∧
    (quiet s t = true → exec (.resvWrite r) s = .next t)) ∧
  (∀ (r : GcpReq) (s t : State),
    taken .none false r s = true → domOn s (dMem (boleOf (fAt r.words 5 16 2))) = true → s.stage.bank = .pending →
    t = fail r stBusy s →
    (s.pw.stopped = false → exec (.resvWrite r) s = .next (follows t)) ∧
    (quiet s t = true → exec (.resvWrite r) s = .next t)) ∧
  (∀ (r : GcpReq) (s t : State),
    taken .none false r s = true → domOn s (dMem (boleOf (fAt r.words 5 16 2))) = false →
    t = fail r stNotPermitted s →
    (s.pw.stopped = false → exec (.resvWrite r) s = .next (follows t)) ∧
    (quiet s t = true → exec (.resvWrite r) s = .next t)) ∧
  (∀ (r : GcpReq) (s t : State),
    taken .none false r s = true → domOn s (dMem (boleOf (fAt r.words 5 16 2))) = false →
    t = fail r stNotPermitted s →
    (s.pw.stopped = false → exec (.resvRead r) s = .next (follows t)) ∧
    (quiet s t = true → exec (.resvRead r) s = .next t)) ∧
  (∀ (r : GcpReq) (s t : State),
    taken .none false r s = true → domOn s (dMem (boleOf (fAt r.words 5 16 2))) = true → bAt r.words 5 20 = false →
    t = ok r (padW 8 (Maps.get [] s.stage.resv (resvKey (fAt r.words 5 16 2) (fAt r.words 5 0 14)))) s →
    (s.pw.stopped = false → exec (.resvRead r) s = .next (follows t)) ∧
    (quiet s t = true → exec (.resvRead r) s = .next t)) ∧
  (∀ (r : GcpReq) (s t : State),
    taken .none false r s = true → domOn s (dMem (boleOf (fAt r.words 5 16 2))) = true → bAt r.words 5 20 = true →
    t = ok r (padW 8 ((Maps.find? s.stage.resvStaged (resvKey (fAt r.words 5 16 2) (fAt r.words 5 0 14))).getD (Maps.get
        [] s.stage.resv (resvKey (fAt r.words 5 16 2) (fAt r.words 5 0 14))))) s →
    (s.pw.stopped = false → exec (.resvRead r) s = .next (follows t)) ∧
    (quiet s t = true → exec (.resvRead r) s = .next t))

/-- The rings of the host ports and the HM port. A write of a ring's register has no effect while the PCI Express port is
not up; otherwise it reaches the controller, from a host port over a die-to-die module (R16). A write of GCR_REQ_TAIL sets
the tail, and a ring that serves then asks for the 64 bytes of its next request; GCR_REQ_CFG sets LOG_SIZE and ENABLE, and
zeroes head and tail when ENABLE goes from 0 to 1; clearing ENABLE of GCR_RPL_CFG discards the replies that wait and counts
each as lost, and setting it keeps them; GCR_RPL_HEAD releases slots, and the replies that wait go into the freed slots; a
request read from a ring advances the head and runs, with its data when INDIRECT, and one that cannot be read is counted
and skipped; a read that ends for a ring that no longer reads changes nothing but that; a command in execution, or a
request that has arrived and waits, for 100 us answers PENDING once; inside a secured session PENDING is the data of its
SPDM_MSG's reply. -/
def Obligations.RequestRings : Prop :=
  (∀ (i : Nat) (v : Word) (who : Requester) (e : State) (s t : State),
    e = (if domOn s (dMem (boleOf i)) then performAll (boleOf i) (identOf i who.id who.tc) s else s) →
    ringUp e i = false →
    t = e →
    (s.pw.stopped = false → exec (.gcrReqTail i v who) s = .next (follows t)) ∧
    (quiet s t = true → exec (.gcrReqTail i v who) s = .next t)) ∧
  (∀ (i : Nat) (v : Word) (who : Requester) (e : State) (s t : State),
    e = (if domOn s (dMem (boleOf i)) then performAll (boleOf i) (identOf i who.id who.tc) s else s) →
    ringUp e i = false →
    t = e →
    (s.pw.stopped = false → exec (.gcrReqCfgEnable i v who) s = .next (follows t)) ∧
    (quiet s t = true → exec (.gcrReqCfgEnable i v who) s = .next t)) ∧
  (∀ (i : Nat) (v : Word) (who : Requester) (e : State) (s t : State),
    e = (if domOn s (dMem (boleOf i)) then performAll (boleOf i) (identOf i who.id who.tc) s else s) →
    ringUp e i = false →
    t = e →
    (s.pw.stopped = false → exec (.gcrRplCfgEnable i v who) s = .next (follows t)) ∧
    (quiet s t = true → exec (.gcrRplCfgEnable i v who) s = .next t)) ∧
  (∀ (i : Nat) (v : Word) (who : Requester) (e : State) (s t : State),
    e = (if domOn s (dMem (boleOf i)) then performAll (boleOf i) (identOf i who.id who.tc) s else s) →
    ringUp e i = false →
    t = e →
    (s.pw.stopped = false → exec (.gcrRplHead i v who) s = .next (follows t)) ∧
    (quiet s t = true → exec (.gcrRplHead i v who) s = .next t)) ∧
  (∀ (i : Nat) (v : Word) (who : Requester) (e : State) (s t : State),
    e = (if domOn s (dMem (boleOf i)) then performAll (boleOf i) (identOf i who.id who.tc) s else s) → ringUp e i = true →
    t = (if i < 4 then crossD2d (boleOf i) (identHost i who.id who.tc) (.ring i 0x0C v) (fun u => askRing i (updRing i
        (fun g => { g with reqTail := v }) u)) e else (fun u => askRing i (updRing i (fun g => { g with reqTail := v })
        u)) e) →
    (s.pw.stopped = false → exec (.gcrReqTail i v who) s = .next (follows t)) ∧
    (quiet s t = true → exec (.gcrReqTail i v who) s = .next t)) ∧
  (∀ (v : Word) (who : Requester) (e : State) (s t : State),
    e = (if domOn s (dMem (boleOf 4)) then performAll (boleOf 4) (identOf 4 who.id who.tc) s else s) → ringUp e 4 = true →
    ringServes (updRing 4 (fun g => { g with reqTail := v }) e) 4 = true → (ring e 4).reading = false →
    (ring e 4).reqHead ≠ v → (ring (updRing 4 (fun g => { g with reqTail := v }) e) 4) = { ring e 4 with reqTail := v } →
    t = updRing 4 (fun g => { g with reading := true }) (emit (.hostRead 4 0 ((ring e 4).reqBaseHi.toNat * 2 ^ 32 + (ring
        e 4).reqBaseLo.toNat + 64 * ((ring e 4).reqHead.toNat % 2 ^ ringLog (ring e 4).reqLog)) 64 (devCtl e 4 0).2)
        (updRing 4 (fun g => { g with reqTail := v }) e)) →
    (s.pw.stopped = false → exec (.gcrReqTail 4 v who) s = .next (follows t)) ∧
    (quiet s t = true → exec (.gcrReqTail 4 v who) s = .next t)) ∧
  (∀ (i : Nat) (v : Word) (who : Requester) (e : State) (s t : State),
    e = (if domOn s (dMem (boleOf i)) then performAll (boleOf i) (identOf i who.id who.tc) s else s) → ringUp e i = true →
    bitW v 8 = true →
    t = (if i < 4 then crossD2d (boleOf i) (identHost i who.id who.tc) (.ring i 0x08 v) (fun u => askRing i (updRing i
        (fun g => if (ring u i).reqEn then { g with reqLog := fld v 0 4, reqEn := true } else { g with
          reqLog := fld v 0 4,
          reqEn := true,
          reqHead := 0,
          reqTail := 0 }) u)) e else (fun u => askRing i (updRing i (fun g => if (ring u i).reqEn then { g with
          reqLog := fld v 0 4,
          reqEn := true } else { g with reqLog := fld v 0 4, reqEn := true, reqHead := 0, reqTail := 0 }) u)) e) →
    (s.pw.stopped = false → exec (.gcrReqCfgEnable i v who) s = .next (follows t)) ∧
    (quiet s t = true → exec (.gcrReqCfgEnable i v who) s = .next t)) ∧
  (∀ (i : Nat) (v : Word) (who : Requester) (e : State) (s t : State),
    e = (if domOn s (dMem (boleOf i)) then performAll (boleOf i) (identOf i who.id who.tc) s else s) → ringUp e i = true →
    bitW v 8 = false →
    t = (if i < 4 then crossD2d (boleOf i) (identHost i who.id who.tc) (.ring i 0x08 v) (fun u => updRing i (fun g => { g
        with reqLog := fld v 0 4, reqEn := false, reading := false }) u) e else (fun u => updRing i (fun g => { g with
          reqLog := fld v 0 4,
          reqEn := false,
          reading := false }) u) e) →
    (s.pw.stopped = false → exec (.gcrReqCfgEnable i v who) s = .next (follows t)) ∧
    (quiet s t = true → exec (.gcrReqCfgEnable i v who) s = .next t)) ∧
  (∀ (i : Nat) (v : Word) (who : Requester) (e : State) (s t : State),
    e = (if domOn s (dMem (boleOf i)) then performAll (boleOf i) (identOf i who.id who.tc) s else s) → ringUp e i = true →
    bitW v 17 = false →
    t = (if i < 4 then crossD2d (boleOf i) (identHost i who.id who.tc) (.ring i 0x28 v) (fun u => (List.range (ring u
        i).waiting.length).foldl (fun u _ => ringErr 9 u) (updRing i (fun g => { g with
          rplLog := fld v 0 4,
          vec := fld v 5 11,
          intrEn := bitW v 16,
          rplEn := false,
          waiting := [],
          reading := false }) u)) e else (fun u => (List.range (ring u i).waiting.length).foldl (fun u _ => ringErr 9 u)
        (updRing i (fun g => { g with
          rplLog := fld v 0 4,
          vec := fld v 5 11,
          intrEn := bitW v 16,
          rplEn := false,
          waiting := [],
          reading := false }) u)) e) →
    (s.pw.stopped = false → exec (.gcrRplCfgEnable i v who) s = .next (follows t)) ∧
    (quiet s t = true → exec (.gcrRplCfgEnable i v who) s = .next t)) ∧
  (∀ (i : Nat) (v : Word) (who : Requester) (e : State) (s t : State),
    e = (if domOn s (dMem (boleOf i)) then performAll (boleOf i) (identOf i who.id who.tc) s else s) → ringUp e i = true →
    bitW v 17 = true →
    t = (if i < 4 then crossD2d (boleOf i) (identHost i who.id who.tc) (.ring i 0x28 v) (fun u => askRing i (updRing i
        (fun g => { g with rplLog := fld v 0 4, vec := fld v 5 11, intrEn := bitW v 16, rplEn := true }) u)) e else (fun u
        => askRing i (updRing i (fun g => { g with
          rplLog := fld v 0 4,
          vec := fld v 5 11,
          intrEn := bitW v 16,
          rplEn := true }) u)) e) →
    (s.pw.stopped = false → exec (.gcrRplCfgEnable i v who) s = .next (follows t)) ∧
    (quiet s t = true → exec (.gcrRplCfgEnable i v who) s = .next t)) ∧
  (∀ (i : Nat) (v : Word) (who : Requester) (e : State) (s t : State),
    e = (if domOn s (dMem (boleOf i)) then performAll (boleOf i) (identOf i who.id who.tc) s else s) → ringUp e i = true →
    t = (if i < 4 then crossD2d (boleOf i) (identHost i who.id who.tc) (.ring i 0x2C v) (fun u => askRing i (drainReplies
        ((ring (updRing i (fun g => { g with rplHead := v }) u) i).waiting.length) i (updRing i (fun g => { g with
          rplHead := v }) u))) e else (fun u => askRing i (drainReplies ((ring (updRing i (fun g => { g with
          rplHead := v }) u) i).waiting.length) i (updRing i (fun g => { g with rplHead := v }) u))) e) →
    (s.pw.stopped = false → exec (.gcrRplHead i v who) s = .next (follows t)) ∧
    (quiet s t = true → exec (.gcrRplHead i v who) s = .next t)) ∧
  (∀ (v : Word) (w : List Word) (who : Requester) (e : State) (s t : State),
    e = (if domOn s (dMem (boleOf 4)) then performAll (boleOf 4) (identOf 4 who.id who.tc) s else s) → ringUp e 4 = true →
    (ring e 4).waiting = [w] → (ring e 4).reqEn = false → (ring e 4).intrEn = false →
    ringFull { ring e 4 with rplHead := v } = false →
    t = ringWrite 4 w (updRing 4 (fun g => { g with waiting := [] }) (updRing 4 (fun g => { g with rplHead := v }) e)) →
    (s.pw.stopped = false → exec (.gcrRplHead 4 v who) s = .next (follows t)) ∧
    (quiet s t = true → exec (.gcrRplHead 4 v who) s = .next t)) ∧
  (∀ (i : Nat) (ws : List Word) (data : Option (List Word)) (s t : State),
    ringUp s i = true → (ring s i).reading = true → s.mgmt.fw = .running ∨ s.mgmt.fw = .recovery →
    bAt ws 1 0 = false ∨ data.isSome = true →
    t = askRing i (runGcp { via := ringVia i, words := padW 16 ws, data := data.getD [] } (updRing i (fun g => { g with
          reading := false,
          reqHead := g.reqHead + 1 }) s)) →
    (s.pw.stopped = false → exec (.gcpRequestReadDone i (some ws) data) s = .next (follows t)) ∧
    (quiet s t = true → exec (.gcpRequestReadDone i (some ws) data) s = .next t)) ∧
  (∀ (i : Nat) (ws : List Word) (s t : State),
    ringUp s i = true → (ring s i).reading = true → s.mgmt.fw = .running ∨ s.mgmt.fw = .recovery → bAt ws 1 0 = true →
    t = askRing i (runGcp { via := ringVia i, words := padW 16 ws, dataErr := true } (if i < 4 then dmaErr i (updRing i
        (fun g => { g with reading := false, reqHead := g.reqHead + 1 }) s) else updRing i (fun g => { g with
          reading := false,
          reqHead := g.reqHead + 1 }) s)) →
    (s.pw.stopped = false → exec (.gcpRequestReadDone i (some ws) none) s = .next (follows t)) ∧
    (quiet s t = true → exec (.gcpRequestReadDone i (some ws) none) s = .next t)) ∧
  (∀ (i : Nat) (s t : State),
    ringUp s i = true → (ring s i).reading = true → s.mgmt.fw = .running ∨ s.mgmt.fw = .recovery →
    t = askRing i (ringErr 9 (if i < 4 then dmaErr i (updRing i (fun g => { g with
          reading := false,
          reqHead := g.reqHead + 1 }) s) else updRing i (fun g => { g with reading := false, reqHead := g.reqHead + 1 })
        s)) →
    (s.pw.stopped = false → exec (.gcpRequestReadDone i none none) s = .next (follows t)) ∧
    (quiet s t = true → exec (.gcpRequestReadDone i none none) s = .next t)) ∧
  (∀ (i : Nat) (ws data : Option (List Word)) (s t : State),
    ringUp s i = false ∨ (ring s i).reading = false ∨ (s.mgmt.fw ≠ .running ∧ s.mgmt.fw ≠ .recovery) →
    t = updRing i (fun g => { g with reading := false }) s →
    (s.pw.stopped = false → exec (.gcpRequestReadDone i ws data) s = .next (follows t)) ∧
    (quiet s t = true → exec (.gcpRequestReadDone i ws data) s = .next t)) ∧
  (∀ (id : Nat) (c : Cmd) (s t : State),
    s.mgmt.cmds.find? (fun c => c.id == id && !c.pended) = some c → c.req.secured = false →
    t = sendReply c.req (replyWords (wAt c.req.words 0) stPending 0 0 0 []) [] { s with
          mgmt.cmds := s.mgmt.cmds.map (fun x => if x.id = id then { x with pended := true } else x) } →
    (s.pw.stopped = false → exec (.commandPendingReply id) s = .next (follows t)) ∧
    (quiet s t = true → exec (.commandPendingReply id) s = .next t)) ∧
  (∀ (id : Nat) (c : Cmd) (s t : State),
    s.mgmt.cmds.find? (fun c => c.id == id && !c.pended) = some c → c.req.secured = true →
    t = sendReply c.req (outerReply c.req (replyWords (wAt c.req.words 0) stPending 0 0 0 [])).1 (outerReply c.req
        (replyWords (wAt c.req.words 0) stPending 0 0 0 [])).2 { s with
          mgmt.cmds := s.mgmt.cmds.map (fun x => if x.id = id then { x with pended := true } else x) } →
    (s.pw.stopped = false → exec (.commandPendingReply id) s = .next (follows t)) ∧
    (quiet s t = true → exec (.commandPendingReply id) s = .next t)) ∧
  (∀ (id : Nat) (c : Waiting) (s t : State),
    s.mgmt.cmds.find? (fun c => c.id == id && !c.pended) = none →
    s.mgmt.waitq.find? (fun c => c.id == id && !c.pended) = some c → c.req.secured = false →
    t = sendReply c.req (replyWords (wAt c.req.words 0) stPending 0 0 0 []) [] { s with
          mgmt.waitq := s.mgmt.waitq.map (fun x => if x.id = id then { x with pended := true } else x) } →
    (s.pw.stopped = false → exec (.commandPendingReply id) s = .next (follows t)) ∧
    (quiet s t = true → exec (.commandPendingReply id) s = .next t)) ∧
  (∀ (id : Nat) (c : Waiting) (s t : State),
    s.mgmt.cmds.find? (fun c => c.id == id && !c.pended) = none →
    s.mgmt.waitq.find? (fun c => c.id == id && !c.pended) = some c → c.req.secured = true →
    t = sendReply c.req (outerReply c.req (replyWords (wAt c.req.words 0) stPending 0 0 0 [])).1 (outerReply c.req
        (replyWords (wAt c.req.words 0) stPending 0 0 0 [])).2 { s with
          mgmt.waitq := s.mgmt.waitq.map (fun x => if x.id = id then { x with pended := true } else x) } →
    (s.pw.stopped = false → exec (.commandPendingReply id) s = .next (follows t)) ∧
    (quiet s t = true → exec (.commandPendingReply id) s = .next t)) ∧
  (∀ (id : Nat) (s t : State),
    s.mgmt.cmds.find? (fun c => c.id == id && !c.pended) = none →
    s.mgmt.waitq.find? (fun c => c.id == id && !c.pended) = none →
    t = s →
    (s.pw.stopped = false → exec (.commandPendingReply id) s = .next (follows t)) ∧
    (quiet s t = true → exec (.commandPendingReply id) s = .next t))

/-- The I3C target, in-band requests and the JTAG instruction register. An I3C private write of 64 bytes runs when the
controller can take it and waits behind the requests held otherwise; one to a target that holds four is not acknowledged,
and one of another length is counted; a private read answers the oldest reply, raises an in-band interrupt when more wait,
and with none is not acknowledged; ENTDAA gives the dynamic address, and a target without one answers its provisional ID. A
packet at port M that is no GCP packet of class MGT is counted as bad, one whose E2E_CRC is wrong too, a reply or an event
is dropped, and so is every packet while the firmware does not run; with no EID allowed, a request of another opcode than
GET_IDENTITY, ECHO and SPDM_MSG is NOT_PERMITTED and one of those runs; one whose EID is not in a configured allow list, or
is 0x3_FFFF, is refused and counted, one whose MSEQ follows those accepted (all within 8, log 57, 59) runs, one whose MSEQ
was accepted is answered again from what is held, or only counted while it executes, and one behind is counted as bad.
TRST_N low holds the TAP in reset; IDCODE shifts out 0x2064_0001, BYPASS, also for an instruction of a locked TAP, one bit,
and the others what they capture, free values (log 139). -/
def Obligations.I3cAndInBand : Prop :=
  (∀ (bytes : List Byte) (s t : State),
    s.mgmt.i3cReqs = [] → bytes.length = 64 → i3cServes s = true →
    t = runGcp { via := .i3c, words := bWords 16 bytes } s →
    (s.pw.stopped = false → exec (.i3cPrivateWrite bytes) s = .next (follows t)) ∧
    (quiet s t = true → exec (.i3cPrivateWrite bytes) s = .next t)) ∧
  (∀ (bytes : List Byte) (s t : State),
    s.mgmt.i3cReqs.length < 4 → bytes.length = 64 → i3cServes s = false →
    t = { s with mgmt.i3cReqs := s.mgmt.i3cReqs ++ [bWords 16 bytes] } →
    (s.pw.stopped = false → exec (.i3cPrivateWrite bytes) s = .next (follows t)) ∧
    (quiet s t = true → exec (.i3cPrivateWrite bytes) s = .next t)) ∧
  (∀ (bytes : List Byte) (s t : State),
    4 ≤ s.mgmt.i3cReqs.length →
    t = emit .i3cNack s →
    (s.pw.stopped = false → exec (.i3cPrivateWrite bytes) s = .next (follows t)) ∧
    (quiet s t = true → exec (.i3cPrivateWrite bytes) s = .next t)) ∧
  (∀ (bytes : List Byte) (s t : State),
    s.mgmt.i3cReqs.length < 4 → bytes.length ≠ 64 →
    t = ringErr 8 s →
    (s.pw.stopped = false → exec (.i3cPrivateWrite bytes) s = .next (follows t)) ∧
    (quiet s t = true → exec (.i3cPrivateWrite bytes) s = .next t)) ∧
  (∀ (s t : State),
    s.mgmt.i3cRpls = [] →
    t = emit .i3cNack s →
    (s.pw.stopped = false → exec (.i3cPrivateRead) s = .next (follows t)) ∧
    (quiet s t = true → exec (.i3cPrivateRead) s = .next t)) ∧
  (∀ (ws x : List Word) (tl : List (List Word)) (s t : State),
    s.mgmt.i3cRpls = ws :: x :: tl →
    t = emit (.ibi 0xA5) (emit (.readData 5 0 (some (wBytes ws))) { s with mgmt.i3cRpls := x :: tl }) →
    (s.pw.stopped = false → exec (.i3cPrivateRead) s = .next (follows t)) ∧
    (quiet s t = true → exec (.i3cPrivateRead) s = .next t)) ∧
  (∀ (ws : List Word) (s t : State),
    s.mgmt.i3cRpls = [ws] →
    t = emit (.readData 5 0 (some (wBytes ws))) { s with mgmt.i3cRpls := [] } →
    (s.pw.stopped = false → exec (.i3cPrivateRead) s = .next (follows t)) ∧
    (quiet s t = true → exec (.i3cPrivateRead) s = .next t)) ∧
  (∀ (addr : BitVec 7) (s t : State),
    s.mgmt.i3cAddr = none →
    t = emit (.i3cId ((Config.i3cPid &&& 0xFFFF0000FFFF) ||| 0x06400000)) { s with mgmt.i3cAddr := some addr } →
    exec (.entdaa addr) s = .next (follows t) ∧
    (quiet s t = true → exec (.entdaa addr) s = .next t)) ∧
  (∀ (addr old : BitVec 7) (s t : State),
    s.mgmt.i3cAddr = some old →
    t = { s with mgmt.i3cAddr := some addr } →
    exec (.entdaa addr) s = .next (follows t) ∧
    (quiet s t = true → exec (.entdaa addr) s = .next t)) ∧
  (∀ (p : Packet) (s t : State),
    s.mgmt.fw ≠ .running →
    t = freeInternal xM p s →
    (s.pw.stopped = false → exec (.gcpReq p) s = .next (follows t)) ∧
    (quiet s t = true → exec (.gcpReq p) s = .next t)) ∧
  (∀ (p : Packet) (s t : State),
    s.mgmt.fw = .running → lenOk p = false →
    t = mgtBad 6 (freeInternal xM p s) →
    (s.pw.stopped = false → exec (.gcpReq p) s = .next (follows t)) ∧
    (quiet s t = true → exec (.gcpReq p) s = .next t)) ∧
  (∀ (p : Packet) (s t : State),
    s.mgmt.fw = .running → lenOk p = true → e2eGood p = false →
    t = mgtBad 7 (freeInternal xM p s) →
    (s.pw.stopped = false → exec (.gcpReq p) s = .next (follows t)) ∧
    (quiet s t = true → exec (.gcpReq p) s = .next t)) ∧
  (∀ (p : Packet) (s t : State),
    s.mgmt.fw = .running → lenOk p = true → e2eGood p = true → gcpKind p = false ∨ gcpPktOk p = false →
    t = mgtBad 6 (freeInternal xM p s) →
    (s.pw.stopped = false → exec (.gcpReq p) s = .next (follows t)) ∧
    (quiet s t = true → exec (.gcpReq p) s = .next t)) ∧
  (∀ (p : Packet) (s t : State),
    s.mgmt.fw = .running → lenOk p = true → e2eGood p = true → gcpKind p = true → gcpPktOk p = true →
    p.ptype = 0x51 ∨ p.ptype = 0x52 →
    t = freeInternal xM p s →
    (s.pw.stopped = false → exec (.gcpReq p) s = .next (follows t)) ∧
    (quiet s t = true → exec (.gcpReq p) s = .next t)) ∧
  (∀ (p : Packet) (s t : State),
    s.mgmt.fw = .running → lenOk p = true → e2eGood p = true → gcpKind p = true → gcpPktOk p = true → p.ptype = 0x50 →
    (List.range 16).any (fun i => allowed s i != eidNone) = true →
    p.src = eidNone ∨ (List.range 16).all (fun i => allowed s i != p.src) = true →
    t = raise 305 4 (inc (mgcCtr 3) (inc (mgcCtr 2) (freeInternal xM p s))) →
    (s.pw.stopped = false → exec (.gcpReq p) s = .next (follows t)) ∧
    (quiet s t = true → exec (.gcpReq p) s = .next t)) ∧
  (∀ (p : Packet) (r : GcpReq) (s t : State),
    s.mgmt.fw = .running → lenOk p = true → e2eGood p = true → gcpKind p = true → gcpPktOk p = true → p.ptype = 0x50 →
    (List.range 16).all (fun i => allowed s i == eidNone) = true →
    r =
        { via := .inband, words := bWords 16 (p.payload.take 64), data := bWords ((p.payload.length - 64 + 3) / 4)
            (p.payload.drop 64), srcEid := p.src, mseq := BitVec.ofNat 16 (Packet.extF p 6 0 0 16), replyEid :=
            BitVec.ofNat 18 (Packet.extF p 6 1 0 18) } →
    t = (if openOp (opcodeOf r) then runGcp r (inc (mgcCtr 2) (freeInternal xM p s)) else fail r stNotPermitted (inc
        (mgcCtr 2) (freeInternal xM p s))) →
    (s.pw.stopped = false → exec (.gcpReq p) s = .next (follows t)) ∧
    (quiet s t = true → exec (.gcpReq p) s = .next t)) ∧
  (∀ (p : Packet) (r : GcpReq) (s t : State),
    s.mgmt.fw = .running → lenOk p = true → e2eGood p = true → gcpKind p = true → gcpPktOk p = true → p.ptype = 0x50 →
    (List.range 16).any (fun i => allowed s i == p.src && allowed s i != eidNone) = true →
    (s.mgmt.mseqs.filter (fun e => e.1 == p.src)).all (fun e => e.2.1 != r.mseq) = true →
    (s.mgmt.mseqs.filter (fun e => e.1 == p.src)).head?.all (fun e => e.2.1 != r.mseq && decide ((r.mseq - e.2.1).toNat <
        32768)) = true →
    r =
        { via := .inband, words := bWords 16 (p.payload.take 64), data := bWords ((p.payload.length - 64 + 3) / 4)
            (p.payload.drop 64), srcEid := p.src, mseq := BitVec.ofNat 16 (Packet.extF p 6 0 0 16), replyEid :=
            BitVec.ofNat 18 (Packet.extF p 6 1 0 18) } →
    t = runGcp r { inc (mgcCtr 2) (freeInternal xM p s) with
          mgmt := { (inc (mgcCtr 2) (freeInternal xM p s)).mgmt with
            mseqs := (p.src, r.mseq, none) :: (s.mgmt.mseqs.filter (fun e => e.1 == p.src)).take 7 ++ s.mgmt.mseqs.filter
              (fun e => e.1 != p.src) } } →
    (s.pw.stopped = false → exec (.gcpReq p) s = .next (follows t)) ∧
    (quiet s t = true → exec (.gcpReq p) s = .next t)) ∧
  (∀ (p : Packet) (n : BitVec 16) (ws data : List Word) (s t : State),
    s.mgmt.fw = .running → lenOk p = true → e2eGood p = true → gcpKind p = true → gcpPktOk p = true → p.ptype = 0x50 →
    (List.range 16).any (fun i => allowed s i == p.src && allowed s i != eidNone) = true →
    n = BitVec.ofNat 16 (Packet.extF p 6 0 0 16) →
    (s.mgmt.mseqs.filter (fun e => e.1 == p.src)).find? (fun e => e.2.1 == n) = some (p.src, n, some (ws, data)) →
    t = sendMgt (if Packet.extF p 6 1 0 18 = 2 ^ 18 - 1 then p.src else BitVec.ofNat 18 (Packet.extF p 6 1 0 18)) 0x51 n
        ws data (inc (mgcCtr 5) (inc (mgcCtr 2) (freeInternal xM p s))) →
    (s.pw.stopped = false → exec (.gcpReq p) s = .next (follows t)) ∧
    (quiet s t = true → exec (.gcpReq p) s = .next t)) ∧
  (∀ (p : Packet) (n : BitVec 16) (s t : State),
    s.mgmt.fw = .running → lenOk p = true → e2eGood p = true → gcpKind p = true → gcpPktOk p = true → p.ptype = 0x50 →
    (List.range 16).any (fun i => allowed s i == p.src && allowed s i != eidNone) = true →
    n = BitVec.ofNat 16 (Packet.extF p 6 0 0 16) →
    (s.mgmt.mseqs.filter (fun e => e.1 == p.src)).find? (fun e => e.2.1 == n) = some (p.src, n, none) →
    t = inc (mgcCtr 5) (inc (mgcCtr 2) (freeInternal xM p s)) →
    (s.pw.stopped = false → exec (.gcpReq p) s = .next (follows t)) ∧
    (quiet s t = true → exec (.gcpReq p) s = .next t)) ∧
  (∀ (p : Packet) (n k : BitVec 16) (x : Option (List Word × List Word)) (s t : State),
    s.mgmt.fw = .running → lenOk p = true → e2eGood p = true → gcpKind p = true → gcpPktOk p = true → p.ptype = 0x50 →
    (List.range 16).any (fun i => allowed s i == p.src && allowed s i != eidNone) = true →
    n = BitVec.ofNat 16 (Packet.extF p 6 0 0 16) →
    (s.mgmt.mseqs.filter (fun e => e.1 == p.src)).head? = some (p.src, k, x) →
    (s.mgmt.mseqs.filter (fun e => e.1 == p.src)).all (fun e => e.2.1 != n) = true → 32768 ≤ (n - k).toNat →
    t = mgtBad 4 (inc (mgcCtr 2) (freeInternal xM p s)) →
    (s.pw.stopped = false → exec (.gcpReq p) s = .next (follows t)) ∧
    (quiet s t = true → exec (.gcpReq p) s = .next t)) ∧
  (∀ (ir : Nat) (tdi : List Bool) (s t : State),
    t = { s with pw.tap := {} } →
    exec (.jtagInstruction ir false tdi) s = .next (follows t) ∧
    (quiet s t = true → exec (.jtagInstruction ir false tdi) s = .next t)) ∧
  (∀ (tdi : List Bool) (s t : State),
    t = emit (.jtag 1 (((List.range 32).map (fun i => bitW 0x20640001 i) ++ tdi).take tdi.length)) { s with
          pw.tap := { s.pw.tap with ir := 1 } } →
    exec (.jtagInstruction 1 true tdi) s = .next (follows t) ∧
    (quiet s t = true → exec (.jtagInstruction 1 true tdi) s = .next t)) ∧
  (∀ (ir : Nat) (tdi : List Bool) (s t : State),
    ir = 0xFF ∨ (5 ≤ ir ∧ s.heart.debugOpen = false) →
    t = emit (.jtag 0xFF ((false :: tdi).take tdi.length)) { s with
          pw.tap := { s.pw.tap with ir := 0xFF, bypass := tdi.getLastD false } } →
    exec (.jtagInstruction ir true tdi) s = .next (follows t) ∧
    (quiet s t = true → exec (.jtagInstruction ir true tdi) s = .next t)) ∧
  (∀ (ir : Nat) (tdi : List Bool) (s t : State),
    ir = 0 ∨ ir = 2 ∨ ir = 3 ∨ ir = 4 →
    t = emit (.jtag ir (((List.range tdi.length).map (Config.jtagCapture ir s.out.length) ++ tdi).take tdi.length)) { s
        with pw.tap := { s.pw.tap with ir := ir, boundary := tdi } } →
    exec (.jtagInstruction ir true tdi) s = .next (follows t) ∧
    (quiet s t = true → exec (.jtagInstruction ir true tdi) s = .next t)) ∧
  (∀ (ir : Nat) (tdi : List Bool) (s t : State),
    5 ≤ ir → ir ≠ 0xFF → s.heart.debugOpen = true →
    t = emit (.jtag ir (((List.range tdi.length).map (Config.jtagCapture ir s.out.length) ++ tdi).take tdi.length)) { s
        with pw.tap := { s.pw.tap with ir := ir } } →
    exec (.jtagInstruction ir true tdi) s = .next (follows t) ∧
    (quiet s t = true → exec (.jtagInstruction ir true tdi) s = .next t))

/-- Register writes and the requests that a host port answers by itself. A write of a register of router space changes
nothing; an aligned write of 1, 2, 4 or 8 bytes is performed at once, after the earlier writes of its requester (R357,
R360), and a plain RW register of a PF takes its field bits; a write at the HM port reaches the ring of that port once it
is trained (log 78); a write through a VF that is not enabled, or through a port that is not UP, changes nothing. A
configuration request before readiness answers Retry Status, at a host port it is counted, and gets no answer from a port
that is reset or down; later it programs BAR 4, the ordering attributes, MSI-X Enable and Function Mask, or the number of
VFs, or reads the identity (R5, R23) and the size of a Base Address register; a function that is absent answers Unsupported
Request (the layout of configuration space is PRESUMED, log 132). An AtomicOp request answers Unsupported Request at a port
whose link is up, in NOT_READY too (R209), and is not answered where the link is down; a correctable error counts in its 1
ms window (log 26), begins a new one after it, raises CORR as the 65th, and is nothing at a port that is neither UP nor in
NOT_READY. -/
def Obligations.RegisterWrites : Prop :=
  (∀ (off : Nat) (v : Word) (a : Access) (s t : State),
    t = s →
    (s.pw.stopped = false → exec (.registerWrite .router off v a) s = .next (follows t)) ∧
    (quiet s t = true → exec (.registerWrite .router off v a) s = .next t)) ∧
  (∀ (h off : Nat) (v : Word) (m : Nat) (who : Requester) (s t : State),
    off % 4 = 0 → (hport s h).st = .up → maskIn plainRw off = some m → domOn s (dMem (boleOf h)) = true →
    wbufOf s (boleOf h) = [] →
    t = barSet (hostKey h 0 off) (v &&& w32 m) s →
    (s.pw.stopped = false → exec (.registerWrite (.bar0 h 0) off v { who := who }) s = .next (follows t)) ∧
    (quiet s t = true → exec (.registerWrite (.bar0 h 0) off v { who := who }) s = .next t)) ∧
  (∀ (h fn off : Nat) (v hi : Word) (size : Nat) (who : Requester) (s t : State),
    (hport s h).st = .up → fn ≤ (hport s h).numVfs → off % size = 0 → size = 1 ∨ size = 2 ∨ size = 4 ∨ size = 8 →
    t = wrPiece (.bar0 h fn) off (leBytes size (v.toNat + 2 ^ 32 * hi.toNat)) who (if domOn s (dMem (boleOf h)) then
        performAll (boleOf h) (identOf h who.id who.tc) s else s) →
    (s.pw.stopped = false → exec (.registerWrite (.bar0 h fn) off v { who := who, size := size, hi := hi }) s = .next (follows t)) ∧
    (quiet s t = true → exec (.registerWrite (.bar0 h fn) off v { who := who, size := size, hi := hi }) s = .next t)) ∧
  (∀ (h fn off : Nat) (v : Word) (a : Access) (s t : State),
    (hport s h).st ≠ .up ∨ (hport s h).numVfs < fn →
    t = s →
    (s.pw.stopped = false → exec (.registerWrite (.bar0 h fn) off v a) s = .next (follows t)) ∧
    (quiet s t = true → exec (.registerWrite (.bar0 h fn) off v a) s = .next t)) ∧
  (∀ (h : Nat) (w : CfgWrite) (s t : State),
    s.pw.stopped = false → (hport s h).st = .notReady →
    t = emit (.pcie h 1) (inc (hptCtr h 6) s) →
    exec (.configurationRequest (some h) w) s = .next (follows t) ∧
    (quiet s t = true → exec (.configurationRequest (some h) w) s = .next t)) ∧
  (∀ (h : Nat) (w : CfgWrite) (s t : State),
    s.pw.stopped = true ∨ ((hport s h).st ≠ .notReady ∧ (hport s h).st ≠ .up) →
    t = s →
    exec (.configurationRequest (some h) w) s = .next (follows t) ∧
    (quiet s t = true → exec (.configurationRequest (some h) w) s = .next t)) ∧
  (∀ (h : Nat) (w : CfgWrite) (s t : State),
    s.pw.stopped = false → (hport s h).st = .up → (hport s h).numVfs < cfgFn w →
    t = emit (.pcie h 2) s →
    exec (.configurationRequest (some h) w) s = .next (follows t) ∧
    (quiet s t = true → exec (.configurationRequest (some h) w) s = .next t)) ∧
  (∀ (h fn : Nat) (base : Option Nat) (s t : State),
    s.pw.stopped = false → (hport s h).st = .up → fn ≤ (hport s h).numVfs →
    t = emit (.pcie h 0) (updHost h (fun p => { p with bar4 := Maps.put none p.bar4 fn base }) s) →
    exec (.configurationRequest (some h) (.bar4 fn base)) s = .next (follows t) ∧
    (quiet s t = true → exec (.configurationRequest (some h) (.bar4 fn base)) s = .next t)) ∧
  (∀ (h fn : Nat) (relax byId : Bool) (s t : State),
    s.pw.stopped = false → (hport s h).st = .up → fn ≤ (hport s h).numVfs →
    t = emit (.pcie h 0) (updHost h (fun p => { p with devCtl := Maps.put (true, false) p.devCtl fn (relax, byId) }) s) →
    exec (.configurationRequest (some h) (.ordering fn relax byId)) s = .next (follows t) ∧
    (quiet s t = true → exec (.configurationRequest (some h) (.ordering fn relax byId)) s = .next t)) ∧
  (∀ (h fn : Nat) (en mask : Bool) (s t : State),
    s.pw.stopped = false → (hport s h).st = .up → fn ≤ (hport s h).numVfs → s.ev.msixPend = [] →
    t = emit (.pcie h 0) (updHost h (fun p => { p with msixCtl := Maps.put (false, false) p.msixCtl fn (en, mask) }) s) →
    exec (.configurationRequest (some h) (.msix fn en mask)) s = .next (follows t) ∧
    (quiet s t = true → exec (.configurationRequest (some h) (.msix fn en mask)) s = .next t)) ∧
  (∀ (h n : Nat) (s t : State),
    s.pw.stopped = false → (hport s h).st = .up → n ≠ 0 ∨ (hport s h).numVfs = 0 →
    t = emit (.pcie h 0) (updHost h (fun p => { p with numVfs := min n 255 }) s) →
    exec (.configurationRequest (some h) (.vfs n)) s = .next (follows t) ∧
    (quiet s t = true → exec (.configurationRequest (some h) (.vfs n)) s = .next t)) ∧
  (∀ (h : Nat) (s t : State),
    s.pw.stopped = false → (hport s h).st = .up → (hport s h).numVfs ≠ 0 →
    t = emit (.pcie h 0) (updHost h (fun p => { p with numVfs := 0 }) (cleanup (flrScope h 0 true) s)) →
    exec (.configurationRequest (some h) (.vfs 0)) s = .next (follows t) ∧
    (quiet s t = true → exec (.configurationRequest (some h) (.vfs 0)) s = .next t)) ∧
  (∀ (h fn reg : Nat) (w : Word) (s t : State),
    s.pw.stopped = false → (hport s h).st = .up → fn ≤ (hport s h).numVfs →
    (reg = 0 ∧ w = 0x0640E47A) ∨ (reg = 8 ∧ w = 0x02800002) → h < 4 →
    t = emit (.pcie h 0) (emit (.cfgData h fn reg w) s) →
    exec (.configurationRequest (some h) (.read fn reg)) s = .next (follows t) ∧
    (quiet s t = true → exec (.configurationRequest (some h) (.read fn reg)) s = .next t)) ∧
  (∀ (h fn reg : Nat) (w : Word) (s t : State),
    s.pw.stopped = false → (hport s h).st = .up → fn ≤ (hport s h).numVfs → cfgSize h reg = some w →
    t = emit (.pcie h 0) (emit (.cfgData h fn reg w) s) →
    exec (.configurationRequest (some h) (.sizing fn reg)) s = .next (follows t) ∧
    (quiet s t = true → exec (.configurationRequest (some h) (.sizing fn reg)) s = .next t)) ∧
  (∀ (w : CfgWrite) (s t : State),
    s.pw.hmPerst = false → s.pw.hmTrained = false →
    t = emit (.pcie 4 1) s →
    exec (.configurationRequest none w) s = .next (follows t) ∧
    (quiet s t = true → exec (.configurationRequest none w) s = .next t)) ∧
  (∀ (w : CfgWrite) (s t : State),
    s.pw.hmPerst = true →
    t = s →
    exec (.configurationRequest none w) s = .next (follows t) ∧
    (quiet s t = true → exec (.configurationRequest none w) s = .next t)) ∧
  (∀ (w : CfgWrite) (s t : State),
    s.pw.hmPerst = false → s.pw.hmTrained = true → cfgFn w ≠ 0 →
    t = emit (.pcie 4 2) s →
    exec (.configurationRequest none w) s = .next (follows t) ∧
    (quiet s t = true → exec (.configurationRequest none w) s = .next t)) ∧
  (∀ (reg : Nat) (w : Word) (s t : State),
    s.pw.hmPerst = false → s.pw.hmTrained = true → (reg = 0 ∧ w = 0x0648E47A) ∨ (reg = 8 ∧ w = 0x08800002) →
    t = emit (.pcie 4 0) (emit (.cfgData 4 0 reg w) s) →
    exec (.configurationRequest none (.read 0 reg)) s = .next (follows t) ∧
    (quiet s t = true → exec (.configurationRequest none (.read 0 reg)) s = .next t)) ∧
  (∀ (off : Nat) (v : Word) (who : Requester) (s t : State),
    off % 4 = 0 → off < 0x30 → s.pw.hmTrained = true →
    t = ringReg 4 off v who s →
    (s.pw.stopped = false → exec (.registerWrite .hm off v { who := who }) s = .next (follows t)) ∧
    (quiet s t = true → exec (.registerWrite .hm off v { who := who }) s = .next t)) ∧
  (∀ (off : Nat) (v : Word) (a : Access) (s t : State),
    (0x30 ≤ off ∧ a.size ≤ 8) ∨ s.pw.hmTrained = false →
    t = s →
    (s.pw.stopped = false → exec (.registerWrite .hm off v a) s = .next (follows t)) ∧
    (quiet s t = true → exec (.registerWrite .hm off v a) s = .next t)) ∧
  (∀ (h : Nat) (s t : State),
    (hport s h).st = .up ∨ (hport s h).st = .notReady →
    t = emit (.pcie h 2) s →
    (s.pw.stopped = false → exec (.atomicopRequest h) s = .next (follows t)) ∧
    (quiet s t = true → exec (.atomicopRequest h) s = .next t)) ∧
  (∀ (h : Nat) (s t : State),
    (hport s h).st = .up ∨ (hport s h).st = .notReady → s.time.now < (hport s h).wCorrAt + 1000000 →
    (hport s h).wCorr = 64 →
    t = hptCause h 2 (updHost h (fun p => { p with wCorr := 65 }) s) →
    (s.pw.stopped = false → exec (.correctableError h) s = .next (follows t)) ∧
    (quiet s t = true → exec (.correctableError h) s = .next t)) ∧
  (∀ (h : Nat) (s t : State),
    (hport s h).st = .up ∨ (hport s h).st = .notReady → s.time.now < (hport s h).wCorrAt + 1000000 →
    (hport s h).wCorr ≠ 0 → (hport s h).wCorr ≠ 64 →
    t = updHost h (fun p => { p with wCorr := (hport s h).wCorr + 1 }) s →
    (s.pw.stopped = false → exec (.correctableError h) s = .next (follows t)) ∧
    (quiet s t = true → exec (.correctableError h) s = .next t)) ∧
  (∀ (h : Nat) (s t : State),
    (hport s h).st = .up ∨ (hport s h).st = .notReady →
    (hport s h).wCorrAt + 1000000 ≤ s.time.now ∨ (hport s h).wCorr = 0 →
    t = updHost h (fun p => { p with wCorr := 1, wCorrAt := s.time.now }) s →
    (s.pw.stopped = false → exec (.correctableError h) s = .next (follows t)) ∧
    (quiet s t = true → exec (.correctableError h) s = .next t)) ∧
  (∀ (h : Nat) (s t : State),
    (hport s h).st ≠ .up → (hport s h).st ≠ .notReady →
    t = s →
    (s.pw.stopped = false → exec (.correctableError h) s = .next (follows t)) ∧
    (quiet s t = true → exec (.correctableError h) s = .next t)) ∧
  (∀ (h : Nat) (s t : State),
    (hport s h).st ≠ .up → (hport s h).st ≠ .notReady →
    t = s →
    (s.pw.stopped = false → exec (.atomicopRequest h) s = .next (follows t)) ∧
    (quiet s t = true → exec (.atomicopRequest h) s = .next t))

/-- A packet that fails a step of the arrival order is dropped and counted at that step only. Arriving packets: on a
quarantined port a packet of a class other than MGT is dropped and counted in GRAFT_DROP; XINV and XINV_ACK from a network
port in SRC_SPOOF; DEST_EID none in BAD_EID; a wrong SRC_EID from an N port in SRC_SPOOF; HOP_COUNT at MAX_HOPS from a
network port in HOP_DROP; ROUTE_MODE 2 in BAD_MODE; an EPOCH that names an inactive bank that may not route in EPOCH_STALE;
with no replica available in NO_ROUTE. At an N port nothing else changes; at a network port the time of the last packet is
noted and the packet's pool cells are freed: at once when it has come whole, and else when its last cell comes. A packet at
an internal port that is not usable, or at a network port that is not UP and has nothing received to route, changes
nothing. -/
def Obligations.ArrivalDrops : Prop :=
  (∀ (i : Nat) (p : Packet) (s t : State),
    i < 64 → domOn s (dPort i) = true → (port s i).st = .up → (port s i).rp.rx = [] → (port s i).gr.quar = true →
    clsOf p ≠ 3 →
    t = creditInput i (Packet.vcOf p) (lenOf p) (inc (cnpCtr 44) (updPort i (fun x => { x with
          gr := { x.gr with lastData := some s.time.now } }) s)) →
    (s.pw.stopped = false → exec (.packetArrive i p) s = .next (follows t)) ∧
    (quiet s t = true → exec (.packetArrive i p) s = .next t)) ∧
  (∀ (i : Nat) (p : Packet) (s t : State),
    i < 64 → domOn s (dPort i) = true → (port s i).st = .up → (port s i).rp.rx = [] → (port s i).gr.quar = false →
    clsOf p ≠ 3 → p.ptype = 8 ∨ p.ptype = 9 →
    t = creditInput i (Packet.vcOf p) (lenOf p) (cnpDrop 8 (updPort i (fun x => { x with
          gr := { x.gr with lastData := some s.time.now } }) s)) →
    (s.pw.stopped = false → exec (.packetArrive i p) s = .next (follows t)) ∧
    (quiet s t = true → exec (.packetArrive i p) s = .next t)) ∧
  (∀ (i : Nat) (p : Packet) (s t : State),
    i < 64 → domOn s (dPort i) = true → (port s i).st = .up → (port s i).rp.rx = [] → (port s i).gr.quar = false →
    clsOf p ≠ 3 → p.ptype ≠ 8 → p.ptype ≠ 9 → p.dest = eidNone →
    t = creditInput i (Packet.vcOf p) (lenOf p) (cnpDrop 7 (updPort i (fun x => { x with
          gr := { x.gr with lastData := some s.time.now } }) s)) →
    (s.pw.stopped = false → exec (.packetArrive i p) s = .next (follows t)) ∧
    (quiet s t = true → exec (.packetArrive i p) s = .next t)) ∧
  (∀ (i : Nat) (p : Packet) (e : Arrival) (s t : State),
    i < 64 → domOn s (dPort i) = true → (port s i).rp.rx = [e] → e.arrived = false → e.whole = false →
    (port s i).gr.quar = false → clsOf p ≠ 3 → p.ptype ≠ 8 → p.ptype ≠ 9 → p.dest = eidNone →
    t = dropRx i (cnpDrop 7 (updPort i (fun x => { x with gr := { x.gr with lastData := some s.time.now } }) (updPort i
        (fun x => { x with rp := { x.rp with rx := [{ e with arrived := true }] } }) s))) →
    (s.pw.stopped = false → exec (.packetArrive i p) s = .next (follows t)) ∧
    (quiet s t = true → exec (.packetArrive i p) s = .next t)) ∧
  (∀ (i : Nat) (p : Packet) (s t : State),
    64 ≤ i → i < 68 → internalUsable s i = true → p.ptype ≠ 8 → p.ptype ≠ 9 → p.dest = eidNone →
    t = cnpDrop 7 s →
    (s.pw.stopped = false → exec (.packetArrive i p) s = .next (follows t)) ∧
    (quiet s t = true → exec (.packetArrive i p) s = .next t)) ∧
  (∀ (i : Nat) (p : Packet) (s t : State),
    64 ≤ i → i < 68 → internalUsable s i = true → p.ptype ≠ 8 → p.ptype ≠ 9 → p.dest ≠ eidNone →
    p.src ≠ hostEid s (i - 64) →
    t = cnpDrop 8 s →
    (s.pw.stopped = false → exec (.packetArrive i p) s = .next (follows t)) ∧
    (quiet s t = true → exec (.packetArrive i p) s = .next t)) ∧
  (∀ (i : Nat) (p : Packet) (s t : State),
    i < 64 → domOn s (dPort i) = true → (port s i).st = .up → (port s i).rp.rx = [] → (port s i).gr.quar = false →
    clsOf p ≠ 3 → p.ptype ≠ 8 → p.ptype ≠ 9 → p.dest ≠ eidNone → rwsF s 0x104 20 6 ≤ p.hop.toNat →
    t = creditInput i (Packet.vcOf p) (lenOf p) (cnpDrop 3 (updPort i (fun x => { x with
          gr := { x.gr with lastData := some s.time.now } }) s)) →
    (s.pw.stopped = false → exec (.packetArrive i p) s = .next (follows t)) ∧
    (quiet s t = true → exec (.packetArrive i p) s = .next t)) ∧
  (∀ (i : Nat) (p : Packet) (s t : State),
    64 ≤ i → i < 68 → internalUsable s i = true → p.ptype ≠ 8 → p.ptype ≠ 9 → p.dest ≠ eidNone →
    p.src = hostEid s (i - 64) → p.mode = 2 → p.ptype ≠ 0x40 → p.ptype ≠ 0x41 →
    t = cnpDrop 6 s →
    (s.pw.stopped = false → exec (.packetArrive i p) s = .next (follows t)) ∧
    (quiet s t = true → exec (.packetArrive i p) s = .next t)) ∧
  (∀ (i : Nat) (p : Packet) (s t : State),
    i < 64 → domOn s (dPort i) = true → (port s i).st = .up → (port s i).rp.rx = [] → (port s i).gr.quar = false →
    p.cls = 0 → p.ptype ≠ 8 → p.ptype ≠ 9 → p.ptype ≠ 0x40 → p.ptype ≠ 0x41 → p.dest ≠ eidNone →
    p.hop.toNat < rwsF s 0x104 20 6 → p.mode ≠ 2 → p.epoch ≠ activeEpoch s →
    s.stage.bank = .opened ∨ s.stage.bank = .ready ∨ s.stage.bank = .copying →
    t = creditInput i (Packet.vcOf p) (lenOf p) (cnpDrop 4 (updPort i (fun x => { x with
          gr := { x.gr with lastData := some s.time.now } }) s)) →
    (s.pw.stopped = false → exec (.packetArrive i p) s = .next (follows t)) ∧
    (quiet s t = true → exec (.packetArrive i p) s = .next t)) ∧
  (∀ (i : Nat) (p : Packet) (s t : State),
    64 ≤ i → i < 68 → internalUsable s i = true → p.ptype ≠ 8 → p.ptype ≠ 9 → p.dest ≠ eidNone →
    p.src = hostEid s (i - 64) → p.mode ≠ 2 → p.cls = 0 → p.ptype ≠ 0x40 → p.ptype ≠ 0x41 →
    lookupBough s (homeBough i) = none →
    t = cnpDrop 0 s →
    (s.pw.stopped = false → exec (.packetArrive i p) s = .next (follows t)) ∧
    (quiet s t = true → exec (.packetArrive i p) s = .next t)) ∧
  (∀ (i : Nat) (p : Packet) (s t : State),
    (i < 64 ∧ (domOn s (dPort i) = false ∨ ((port s i).st ≠ .up ∧ (port s i).rp.rx = []))) ∨ (64 ≤ i ∧ internalUsable s i
        = false) →
    t = s →
    (s.pw.stopped = false → exec (.packetArrive i p) s = .next (follows t)) ∧
    (quiet s t = true → exec (.packetArrive i p) s = .next t))

/-- A packet that arrives joins the queue of the output that its steering, its local entry or its candidates give, or is
dropped. A packet of a REQ or RSP class, from a network port whole or from an internal port, is looked up in its home
replica or the next available one, which counts it. An uncorrectable error, a DROP entry, and a local entry whose port is
unknown, M or not usable drop it; else a local entry sends it there, and one on a detour ends the detour and looks up its
destination. A network entry gives in mode 1 the usable candidate of its FLOW_HASH, in mode 3 the first usable one, counted
where it is not CAND0, and in mode 0 the one of least score; where the entry allows a detour, its candidate is taken if
better by more than the bias, or if there is no other; with none a detour is abandoned, and any other packet dropped. It
leaves with HOP_COUNT and STAGE raised, or is dropped at STAGE 3. A packet of the other bank is routed by that one while
DRAINING, which notes the time, and counted in PENDING. MGT packets enter a quarantined port with the active EPOCH; a red
one is dropped. ASD at an output without a share is dropped. Tree packets go to their context's unit; to another
destination or for no context they are dropped, and at an N port answered NO_TREE. XINV crosses to the other Bole. A packet
still in reception is queued so. -/
def Obligations.ArrivalRouted : Prop :=
  (∀ (i : Nat) (p q : Packet) (u : State) (k key : Nat) (r : State) (s t : State),
    (i < 64 ∧ domOn s (dPort i) = true ∧ (port s i).st = .up ∧ (port s i).rp.rx = [] ∧ (port s i).gr.quar = false ∧
        p.hop.toNat < rwsF s 0x104 20 6 ∧ q = p ∧ u = (updPort i (fun x => { x with
          gr := { x.gr with lastData := some s.time.now } }) s)) ∨ (64 ≤ i ∧ internalUsable s i = true ∧ (68 ≤ i ∨ p.src =
        hostEid s (i - 64)) ∧ (i ≠ 68 ∨ lenOf p ≤ 1) ∧ q = { p with
          epoch := activeEpoch s,
          stage := 0,
          hop := 0,
          nonmin := false,
          detour := eidNone } ∧ u = s) →
    p.cls.toNat < 2 → p.ptype ≠ 8 → p.ptype ≠ 9 → (p.ptype ≠ 0x40 ∧ p.ptype ≠ 0x41) ∨ 68 ≤ i → p.dest ≠ eidNone →
    p.mode ≠ 2 → q.epoch = activeEpoch s → lookupBough u (homeBough i) = some k →
    key = (if q.detour ≠ eidNone then q.detour.toNat else q.dest.toNat) →
    r = eccRead (bghCtr k 2) (eccRep k) (bankKey (activeEpoch s) key) (if k = homeBough i then inc (bghCtr k 0) u else inc
        (bghCtr k 1) (inc (bghCtr k 0) u)) →
    struck u (eccRep k) (bankKey (activeEpoch s) key) = true →
    t = freePool i (Packet.vcOf p) (lenOf p) true (cnpDrop 12 (boughEcc k r)) →
    (s.pw.stopped = false → exec (.packetArrive i p) s = .next (follows t)) ∧
    (quiet s t = true → exec (.packetArrive i p) s = .next t)) ∧
  (∀ (i : Nat) (p q : Packet) (u : State) (k key : Nat) (r : State) (w : Word) (s t : State),
    (i < 64 ∧ domOn s (dPort i) = true ∧ (port s i).st = .up ∧ (port s i).rp.rx = [] ∧ (port s i).gr.quar = false ∧
        p.hop.toNat < rwsF s 0x104 20 6 ∧ q = p ∧ u = (updPort i (fun x => { x with
          gr := { x.gr with lastData := some s.time.now } }) s)) ∨ (64 ≤ i ∧ internalUsable s i = true ∧ (68 ≤ i ∨ p.src =
        hostEid s (i - 64)) ∧ (i ≠ 68 ∨ lenOf p ≤ 1) ∧ q = { p with
          epoch := activeEpoch s,
          stage := 0,
          hop := 0,
          nonmin := false,
          detour := eidNone } ∧ u = s) →
    p.cls.toNat < 2 → p.ptype ≠ 8 → p.ptype ≠ 9 → (p.ptype ≠ 0x40 ∧ p.ptype ≠ 0x41) ∨ 68 ≤ i → p.dest ≠ eidNone →
    p.mode ≠ 2 → q.epoch = activeEpoch s → lookupBough u (homeBough i) = some k →
    key = (if q.detour ≠ eidNone then q.detour.toNat else q.dest.toNat) →
    r = eccRead (bghCtr k 2) (eccRep k) (bankKey (activeEpoch s) key) (if k = homeBough i then inc (bghCtr k 0) u else inc
        (bghCtr k 1) (inc (bghCtr k 0) u)) →
    struck u (eccRep k) (bankKey (activeEpoch s) key) = false → w = ftRead r (activeEpoch s) key → ftDrop w = true →
    t = freePool i (Packet.vcOf p) (lenOf p) true (cnpDrop 1 r) →
    (s.pw.stopped = false → exec (.packetArrive i p) s = .next (follows t)) ∧
    (quiet s t = true → exec (.packetArrive i p) s = .next t)) ∧
  (∀ (i : Nat) (p q : Packet) (u : State) (k key : Nat) (r : State) (w : Word) (o : Nat) (s t : State),
    (i < 64 ∧ domOn s (dPort i) = true ∧ (port s i).st = .up ∧ (port s i).rp.rx = [] ∧ (port s i).gr.quar = false ∧
        p.hop.toNat < rwsF s 0x104 20 6 ∧ q = p ∧ u = (updPort i (fun x => { x with
          gr := { x.gr with lastData := some s.time.now } }) s)) ∨ (64 ≤ i ∧ internalUsable s i = true ∧ (68 ≤ i ∨ p.src =
        hostEid s (i - 64)) ∧ (i ≠ 68 ∨ lenOf p ≤ 1) ∧ q = { p with
          epoch := activeEpoch s,
          stage := 0,
          hop := 0,
          nonmin := false,
          detour := eidNone } ∧ u = s) →
    p.cls.toNat < 2 → p.ptype ≠ 8 → p.ptype ≠ 9 → (p.ptype ≠ 0x40 ∧ p.ptype ≠ 0x41) ∨ 68 ≤ i → p.dest ≠ eidNone →
    p.mode ≠ 2 → q.epoch = activeEpoch s → lookupBough u (homeBough i) = some k →
    key = (if q.detour ≠ eidNone then q.detour.toNat else q.dest.toNat) →
    r = eccRead (bghCtr k 2) (eccRep k) (bankKey (activeEpoch s) key) (if k = homeBough i then inc (bghCtr k 0) u else inc
        (bghCtr k 1) (inc (bghCtr k 0) u)) →
    struck u (eccRep k) (bankKey (activeEpoch s) key) = false → w = ftRead r (activeEpoch s) key → ftLocal w = true →
    q.detour = eidNone → codePort (ftCand w 0) = some o → o ≠ 68 → internalUsable r o = true →
    t = enqueue
        { inp := i, out := o, vc := Packet.vcOf q, inVc := Packet.vcOf p, arrived := s.time.now, bank := some (activeEpoch
            s), pkt := q, whole := true } r →
    (s.pw.stopped = false → exec (.packetArrive i p) s = .next (follows t)) ∧
    (quiet s t = true → exec (.packetArrive i p) s = .next t)) ∧
  (∀ (i : Nat) (p q : Packet) (u : State) (k key : Nat) (r : State) (w : Word) (s t : State),
    (i < 64 ∧ domOn s (dPort i) = true ∧ (port s i).st = .up ∧ (port s i).rp.rx = [] ∧ (port s i).gr.quar = false ∧
        p.hop.toNat < rwsF s 0x104 20 6 ∧ q = p ∧ u = (updPort i (fun x => { x with
          gr := { x.gr with lastData := some s.time.now } }) s)) ∨ (64 ≤ i ∧ internalUsable s i = true ∧ (68 ≤ i ∨ p.src =
        hostEid s (i - 64)) ∧ (i ≠ 68 ∨ lenOf p ≤ 1) ∧ q = { p with
          epoch := activeEpoch s,
          stage := 0,
          hop := 0,
          nonmin := false,
          detour := eidNone } ∧ u = s) →
    p.cls.toNat < 2 → p.ptype ≠ 8 → p.ptype ≠ 9 → (p.ptype ≠ 0x40 ∧ p.ptype ≠ 0x41) ∨ 68 ≤ i → p.dest ≠ eidNone →
    p.mode ≠ 2 → q.epoch = activeEpoch s → lookupBough u (homeBough i) = some k →
    key = (if q.detour ≠ eidNone then q.detour.toNat else q.dest.toNat) →
    r = eccRead (bghCtr k 2) (eccRep k) (bankKey (activeEpoch s) key) (if k = homeBough i then inc (bghCtr k 0) u else inc
        (bghCtr k 1) (inc (bghCtr k 0) u)) →
    struck u (eccRep k) (bankKey (activeEpoch s) key) = false → w = ftRead r (activeEpoch s) key → ftLocal w = true →
    q.detour = eidNone → codePort (ftCand w 0) = some 68 →
    t = freePool i (Packet.vcOf p) (lenOf p) true (cnpDrop 10 r) →
    (s.pw.stopped = false → exec (.packetArrive i p) s = .next (follows t)) ∧
    (quiet s t = true → exec (.packetArrive i p) s = .next t)) ∧
  (∀ (i : Nat) (p q : Packet) (u : State) (k key : Nat) (r : State) (w : Word) (s t : State),
    (i < 64 ∧ domOn s (dPort i) = true ∧ (port s i).st = .up ∧ (port s i).rp.rx = [] ∧ (port s i).gr.quar = false ∧
        p.hop.toNat < rwsF s 0x104 20 6 ∧ q = p ∧ u = (updPort i (fun x => { x with
          gr := { x.gr with lastData := some s.time.now } }) s)) ∨ (64 ≤ i ∧ internalUsable s i = true ∧ (68 ≤ i ∨ p.src =
        hostEid s (i - 64)) ∧ (i ≠ 68 ∨ lenOf p ≤ 1) ∧ q = { p with
          epoch := activeEpoch s,
          stage := 0,
          hop := 0,
          nonmin := false,
          detour := eidNone } ∧ u = s) →
    p.cls.toNat < 2 → p.ptype ≠ 8 → p.ptype ≠ 9 → (p.ptype ≠ 0x40 ∧ p.ptype ≠ 0x41) ∨ 68 ≤ i → p.dest ≠ eidNone →
    p.mode ≠ 2 → q.epoch = activeEpoch s → lookupBough u (homeBough i) = some k →
    key = (if q.detour ≠ eidNone then q.detour.toNat else q.dest.toNat) →
    r = eccRead (bghCtr k 2) (eccRep k) (bankKey (activeEpoch s) key) (if k = homeBough i then inc (bghCtr k 0) u else inc
        (bghCtr k 1) (inc (bghCtr k 0) u)) →
    struck u (eccRep k) (bankKey (activeEpoch s) key) = false → w = ftRead r (activeEpoch s) key → ftLocal w = true →
    q.detour = eidNone → (codePort (ftCand w 0)).all (fun o => o != 68 && !internalUsable r o) = true →
    t = freePool i (Packet.vcOf p) (lenOf p) true (cnpDrop 9 r) →
    (s.pw.stopped = false → exec (.packetArrive i p) s = .next (follows t)) ∧
    (quiet s t = true → exec (.packetArrive i p) s = .next t)) ∧
  (∀ (i : Nat) (p q : Packet) (u : State) (k key : Nat) (r : State) (w : Word) (o : Nat) (x : State) (s t : State),
    (i < 64 ∧ domOn s (dPort i) = true ∧ (port s i).st = .up ∧ (port s i).rp.rx = [] ∧ (port s i).gr.quar = false ∧
        p.hop.toNat < rwsF s 0x104 20 6 ∧ q = p ∧ u = (updPort i (fun x => { x with
          gr := { x.gr with lastData := some s.time.now } }) s)) ∨ (64 ≤ i ∧ internalUsable s i = true ∧ (68 ≤ i ∨ p.src =
        hostEid s (i - 64)) ∧ (i ≠ 68 ∨ lenOf p ≤ 1) ∧ q = { p with
          epoch := activeEpoch s,
          stage := 0,
          hop := 0,
          nonmin := false,
          detour := eidNone } ∧ u = s) →
    p.cls.toNat < 2 → p.ptype ≠ 8 → p.ptype ≠ 9 → (p.ptype ≠ 0x40 ∧ p.ptype ≠ 0x41) ∨ 68 ≤ i → p.dest ≠ eidNone →
    p.mode ≠ 2 → q.epoch = activeEpoch s → lookupBough u (homeBough i) = some k →
    key = (if q.detour ≠ eidNone then q.detour.toNat else q.dest.toNat) →
    r = eccRead (bghCtr k 2) (eccRep k) (bankKey (activeEpoch s) key) (if k = homeBough i then inc (bghCtr k 0) u else inc
        (bghCtr k 1) (inc (bghCtr k 0) u)) →
    struck u (eccRep k) (bankKey (activeEpoch s) key) = false → w = ftRead r (activeEpoch s) key → ftLocal w = true →
    q.detour ≠ eidNone → struck r (eccRep k) (bankKey (activeEpoch s) q.dest.toNat) = false →
    x = eccRead (bghCtr k 2) (eccRep k) (bankKey (activeEpoch s) q.dest.toNat) (if k = homeBough i then inc (bghCtr k 0) r
        else inc (bghCtr k 1) (inc (bghCtr k 0) r)) →
    ftLocal (ftRead x (activeEpoch s) q.dest.toNat) = true →
    codePort (ftCand (ftRead x (activeEpoch s) q.dest.toNat) 0) = some o → o ≠ 68 → internalUsable x o = true →
    t = enqueue
        { inp := i, out := o, vc := Packet.vcOf { q with detour := eidNone }, inVc := Packet.vcOf p, arrived :=
            s.time.now, bank := some (activeEpoch s), pkt := { q with detour := eidNone }, whole := true } x →
    (s.pw.stopped = false → exec (.packetArrive i p) s = .next (follows t)) ∧
    (quiet s t = true → exec (.packetArrive i p) s = .next t)) ∧
  (∀ (i : Nat) (p q : Packet) (u : State) (k key : Nat) (r : State) (w : Word) (o : Nat) (f : Packet) (s t : State),
    (i < 64 ∧ domOn s (dPort i) = true ∧ (port s i).st = .up ∧ (port s i).rp.rx = [] ∧ (port s i).gr.quar = false ∧
        p.hop.toNat < rwsF s 0x104 20 6 ∧ q = p ∧ u = (updPort i (fun x => { x with
          gr := { x.gr with lastData := some s.time.now } }) s)) ∨ (64 ≤ i ∧ internalUsable s i = true ∧ (68 ≤ i ∨ p.src =
        hostEid s (i - 64)) ∧ (i ≠ 68 ∨ lenOf p ≤ 1) ∧ q = { p with
          epoch := activeEpoch s,
          stage := 0,
          hop := 0,
          nonmin := false,
          detour := eidNone } ∧ u = s) →
    p.cls.toNat < 2 → p.ptype ≠ 8 → p.ptype ≠ 9 → (p.ptype ≠ 0x40 ∧ p.ptype ≠ 0x41) ∨ 68 ≤ i → p.dest ≠ eidNone →
    p.mode ≠ 2 → q.epoch = activeEpoch s → lookupBough u (homeBough i) = some k →
    key = (if q.detour ≠ eidNone then q.detour.toNat else q.dest.toNat) →
    r = eccRead (bghCtr k 2) (eccRep k) (bankKey (activeEpoch s) key) (if k = homeBough i then inc (bghCtr k 0) u else inc
        (bghCtr k 1) (inc (bghCtr k 0) u)) →
    struck u (eccRep k) (bankKey (activeEpoch s) key) = false → w = ftRead r (activeEpoch s) key → ftDrop w = false →
    ftLocal w = false → p.mode = 1 →
    ((candidates r p.cls.toNat i w)[p.flowHash.toNat % (candidates r p.cls.toNat i w).length]?).map (fun c => c.2) = some
        o →
    rwsF s (0x110 + 4 * (o / 32)) (o % 32) 1 = 0 ∨ q.stage ≠ 3 →
    f = { q with
          stage := if rwsF s (0x110 + 4 * (o / 32)) (o % 32) 1 = 1 then q.stage + 1 else q.stage,
          hop := q.hop + 1 } →
    t = enqueue
        { inp := i, out := o, vc := Packet.vcOf f, inVc := Packet.vcOf p, arrived := s.time.now, bank := some (activeEpoch
            s), pkt := f, whole := true } r →
    (s.pw.stopped = false → exec (.packetArrive i p) s = .next (follows t)) ∧
    (quiet s t = true → exec (.packetArrive i p) s = .next t)) ∧
  (∀ (i : Nat) (p q : Packet) (u : State) (k key : Nat) (r : State) (w : Word) (o : Nat) (f : Packet) (s t : State),
    (i < 64 ∧ domOn s (dPort i) = true ∧ (port s i).st = .up ∧ (port s i).rp.rx = [] ∧ (port s i).gr.quar = false ∧
        p.hop.toNat < rwsF s 0x104 20 6 ∧ q = p ∧ u = (updPort i (fun x => { x with
          gr := { x.gr with lastData := some s.time.now } }) s)) ∨ (64 ≤ i ∧ internalUsable s i = true ∧ (68 ≤ i ∨ p.src =
        hostEid s (i - 64)) ∧ (i ≠ 68 ∨ lenOf p ≤ 1) ∧ q = { p with
          epoch := activeEpoch s,
          stage := 0,
          hop := 0,
          nonmin := false,
          detour := eidNone } ∧ u = s) →
    p.cls.toNat < 2 → p.ptype ≠ 8 → p.ptype ≠ 9 → (p.ptype ≠ 0x40 ∧ p.ptype ≠ 0x41) ∨ 68 ≤ i → p.dest ≠ eidNone →
    p.mode ≠ 2 → q.epoch = activeEpoch s → lookupBough u (homeBough i) = some k →
    key = (if q.detour ≠ eidNone then q.detour.toNat else q.dest.toNat) →
    r = eccRead (bghCtr k 2) (eccRep k) (bankKey (activeEpoch s) key) (if k = homeBough i then inc (bghCtr k 0) u else inc
        (bghCtr k 1) (inc (bghCtr k 0) u)) →
    struck u (eccRep k) (bankKey (activeEpoch s) key) = false → w = ftRead r (activeEpoch s) key → ftDrop w = false →
    ftLocal w = false → p.mode = 3 → (candidates r p.cls.toNat i w).head? = some (0, o) →
    rwsF s (0x110 + 4 * (o / 32)) (o % 32) 1 = 0 ∨ q.stage ≠ 3 →
    f = { q with
          stage := if rwsF s (0x110 + 4 * (o / 32)) (o % 32) 1 = 1 then q.stage + 1 else q.stage,
          hop := q.hop + 1 } →
    t = enqueue
        { inp := i, out := o, vc := Packet.vcOf f, inVc := Packet.vcOf p, arrived := s.time.now, bank := some (activeEpoch
            s), pkt := f, whole := true } r →
    (s.pw.stopped = false → exec (.packetArrive i p) s = .next (follows t)) ∧
    (quiet s t = true → exec (.packetArrive i p) s = .next t)) ∧
  (∀ (i : Nat) (p q : Packet) (u : State) (k key : Nat) (r : State) (w : Word) (o : Nat) (f : Packet) (j : Nat) (s t : State),
    (i < 64 ∧ domOn s (dPort i) = true ∧ (port s i).st = .up ∧ (port s i).rp.rx = [] ∧ (port s i).gr.quar = false ∧
        p.hop.toNat < rwsF s 0x104 20 6 ∧ q = p ∧ u = (updPort i (fun x => { x with
          gr := { x.gr with lastData := some s.time.now } }) s)) ∨ (64 ≤ i ∧ internalUsable s i = true ∧ (68 ≤ i ∨ p.src =
        hostEid s (i - 64)) ∧ (i ≠ 68 ∨ lenOf p ≤ 1) ∧ q = { p with
          epoch := activeEpoch s,
          stage := 0,
          hop := 0,
          nonmin := false,
          detour := eidNone } ∧ u = s) →
    p.cls.toNat < 2 → p.ptype ≠ 8 → p.ptype ≠ 9 → (p.ptype ≠ 0x40 ∧ p.ptype ≠ 0x41) ∨ 68 ≤ i → p.dest ≠ eidNone →
    p.mode ≠ 2 → q.epoch = activeEpoch s → lookupBough u (homeBough i) = some k →
    key = (if q.detour ≠ eidNone then q.detour.toNat else q.dest.toNat) →
    r = eccRead (bghCtr k 2) (eccRep k) (bankKey (activeEpoch s) key) (if k = homeBough i then inc (bghCtr k 0) u else inc
        (bghCtr k 1) (inc (bghCtr k 0) u)) →
    struck u (eccRep k) (bankKey (activeEpoch s) key) = false → w = ftRead r (activeEpoch s) key → ftDrop w = false →
    ftLocal w = false → p.mode = 3 → (candidates r p.cls.toNat i w).head? = some (j, o) → j ≠ 0 →
    rwsF s (0x110 + 4 * (o / 32)) (o % 32) 1 = 0 ∨ q.stage ≠ 3 →
    f = { q with
          stage := if rwsF s (0x110 + 4 * (o / 32)) (o % 32) 1 = 1 then q.stage + 1 else q.stage,
          hop := q.hop + 1 } →
    t = enqueue
        { inp := i, out := o, vc := Packet.vcOf f, inVc := Packet.vcOf p, arrived := s.time.now, bank := some (activeEpoch
            s), pkt := f, whole := true } (inc (cnpCtr 15) r) →
    (s.pw.stopped = false → exec (.packetArrive i p) s = .next (follows t)) ∧
    (quiet s t = true → exec (.packetArrive i p) s = .next t)) ∧
  (∀ (i : Nat) (p q : Packet) (u : State) (k key : Nat) (r : State) (w : Word) (o : Nat) (f : Packet) (sc : Nat) (s t : State),
    (i < 64 ∧ domOn s (dPort i) = true ∧ (port s i).st = .up ∧ (port s i).rp.rx = [] ∧ (port s i).gr.quar = false ∧
        p.hop.toNat < rwsF s 0x104 20 6 ∧ q = p ∧ u = (updPort i (fun x => { x with
          gr := { x.gr with lastData := some s.time.now } }) s)) ∨ (64 ≤ i ∧ internalUsable s i = true ∧ (68 ≤ i ∨ p.src =
        hostEid s (i - 64)) ∧ (i ≠ 68 ∨ lenOf p ≤ 1) ∧ q = { p with
          epoch := activeEpoch s,
          stage := 0,
          hop := 0,
          nonmin := false,
          detour := eidNone } ∧ u = s) →
    p.cls.toNat < 2 → p.ptype ≠ 8 → p.ptype ≠ 9 → (p.ptype ≠ 0x40 ∧ p.ptype ≠ 0x41) ∨ 68 ≤ i → p.dest ≠ eidNone →
    p.mode ≠ 2 → q.epoch = activeEpoch s → lookupBough u (homeBough i) = some k →
    key = (if q.detour ≠ eidNone then q.detour.toNat else q.dest.toNat) →
    r = eccRead (bghCtr k 2) (eccRep k) (bankKey (activeEpoch s) key) (if k = homeBough i then inc (bghCtr k 0) u else inc
        (bghCtr k 1) (inc (bghCtr k 0) u)) →
    struck u (eccRep k) (bankKey (activeEpoch s) key) = false → w = ftRead r (activeEpoch s) key → ftDrop w = false →
    ftLocal w = false → p.mode = 0 → q.nonmin = true ∨ q.detour ≠ eidNone ∨ bitW w 28 = false →
    struck r eccLa (bankKey (activeEpoch s) (key >>> rwsF r 0x104 12 4 % 4096)) = false →
    bestOf r (some (laRead r (activeEpoch s) (key >>> rwsF r 0x104 12 4 % 4096))) (candidates r p.cls.toNat i w) = some
        (o, sc) →
    rwsF s (0x110 + 4 * (o / 32)) (o % 32) 1 = 0 ∨ q.stage ≠ 3 →
    f = { q with
          stage := if rwsF s (0x110 + 4 * (o / 32)) (o % 32) 1 = 1 then q.stage + 1 else q.stage,
          hop := q.hop + 1 } →
    t = enqueue
        { inp := i, out := o, vc := Packet.vcOf f, inVc := Packet.vcOf p, arrived := s.time.now, bank := some (activeEpoch
            s), pkt := f, whole := true } r →
    (s.pw.stopped = false → exec (.packetArrive i p) s = .next (follows t)) ∧
    (quiet s t = true → exec (.packetArrive i p) s = .next t)) ∧
  (∀ (i : Nat) (p q : Packet) (u : State) (k key : Nat) (r : State) (w : Word) (o : Nat) (f : Packet) (sc : Nat) (x : State) (s t : State),
    (i < 64 ∧ domOn s (dPort i) = true ∧ (port s i).st = .up ∧ (port s i).rp.rx = [] ∧ (port s i).gr.quar = false ∧
        p.hop.toNat < rwsF s 0x104 20 6 ∧ q = p ∧ u = (updPort i (fun x => { x with
          gr := { x.gr with lastData := some s.time.now } }) s)) ∨ (64 ≤ i ∧ internalUsable s i = true ∧ (68 ≤ i ∨ p.src =
        hostEid s (i - 64)) ∧ (i ≠ 68 ∨ lenOf p ≤ 1) ∧ q = { p with
          epoch := activeEpoch s,
          stage := 0,
          hop := 0,
          nonmin := false,
          detour := eidNone } ∧ u = s) →
    p.cls.toNat < 2 → p.ptype ≠ 8 → p.ptype ≠ 9 → (p.ptype ≠ 0x40 ∧ p.ptype ≠ 0x41) ∨ 68 ≤ i → p.dest ≠ eidNone →
    p.mode ≠ 2 → q.epoch = activeEpoch s → lookupBough u (homeBough i) = some k →
    key = (if q.detour ≠ eidNone then q.detour.toNat else q.dest.toNat) →
    r = eccRead (bghCtr k 2) (eccRep k) (bankKey (activeEpoch s) key) (if k = homeBough i then inc (bghCtr k 0) u else inc
        (bghCtr k 1) (inc (bghCtr k 0) u)) →
    struck u (eccRep k) (bankKey (activeEpoch s) key) = false → w = ftRead r (activeEpoch s) key → ftDrop w = false →
    ftLocal w = false → p.mode = 0 → q.nonmin = false ∧ q.detour = eidNone ∧ bitW w 28 = true →
    struck r eccLa (bankKey (activeEpoch s) (key >>> rwsF r 0x104 12 4 % 4096)) = false →
    bestOf r (some (laRead r (activeEpoch s) (key >>> rwsF r 0x104 12 4 % 4096))) (candidates r p.cls.toNat i w) = some
        (o, sc) →
    (detourCandidate k i 0 (activeEpoch s) q r) = (x, none) → rwsF s (0x110 + 4 * (o / 32)) (o % 32) 1 = 0 ∨ q.stage ≠ 3 →
    f = { q with
          stage := if rwsF s (0x110 + 4 * (o / 32)) (o % 32) 1 = 1 then q.stage + 1 else q.stage,
          hop := q.hop + 1 } →
    t = enqueue
        { inp := i, out := o, vc := Packet.vcOf f, inVc := Packet.vcOf p, arrived := s.time.now, bank := some (activeEpoch
            s), pkt := f, whole := true } x →
    (s.pw.stopped = false → exec (.packetArrive i p) s = .next (follows t)) ∧
    (quiet s t = true → exec (.packetArrive i p) s = .next t)) ∧
  (∀ (i : Nat) (p q : Packet) (u : State) (k key : Nat) (r : State) (w : Word) (o : Nat) (f : Packet) (sc dq dsc e : Nat) (x : State) (s t : State),
    (i < 64 ∧ domOn s (dPort i) = true ∧ (port s i).st = .up ∧ (port s i).rp.rx = [] ∧ (port s i).gr.quar = false ∧
        p.hop.toNat < rwsF s 0x104 20 6 ∧ q = p ∧ u = (updPort i (fun x => { x with
          gr := { x.gr with lastData := some s.time.now } }) s)) ∨ (64 ≤ i ∧ internalUsable s i = true ∧ (68 ≤ i ∨ p.src =
        hostEid s (i - 64)) ∧ (i ≠ 68 ∨ lenOf p ≤ 1) ∧ q = { p with
          epoch := activeEpoch s,
          stage := 0,
          hop := 0,
          nonmin := false,
          detour := eidNone } ∧ u = s) →
    p.cls.toNat < 2 → p.ptype ≠ 8 → p.ptype ≠ 9 → (p.ptype ≠ 0x40 ∧ p.ptype ≠ 0x41) ∨ 68 ≤ i → p.dest ≠ eidNone →
    p.mode ≠ 2 → q.epoch = activeEpoch s → lookupBough u (homeBough i) = some k →
    key = (if q.detour ≠ eidNone then q.detour.toNat else q.dest.toNat) →
    r = eccRead (bghCtr k 2) (eccRep k) (bankKey (activeEpoch s) key) (if k = homeBough i then inc (bghCtr k 0) u else inc
        (bghCtr k 1) (inc (bghCtr k 0) u)) →
    struck u (eccRep k) (bankKey (activeEpoch s) key) = false → w = ftRead r (activeEpoch s) key → ftDrop w = false →
    ftLocal w = false → p.mode = 0 → q.nonmin = false ∧ q.detour = eidNone ∧ bitW w 28 = true →
    struck r eccLa (bankKey (activeEpoch s) (key >>> rwsF r 0x104 12 4 % 4096)) = false →
    bestOf r (some (laRead r (activeEpoch s) (key >>> rwsF r 0x104 12 4 % 4096))) (candidates r p.cls.toNat i w) = some
        (o, sc) →
    (detourCandidate k i 0 (activeEpoch s) q r) = (x, some (dq, dsc, e)) → sc ≤ dsc + rwsF r 0x108 0 16 →
    rwsF s (0x110 + 4 * (o / 32)) (o % 32) 1 = 0 ∨ q.stage ≠ 3 →
    f = { q with
          stage := if rwsF s (0x110 + 4 * (o / 32)) (o % 32) 1 = 1 then q.stage + 1 else q.stage,
          hop := q.hop + 1 } →
    t = enqueue
        { inp := i, out := o, vc := Packet.vcOf f, inVc := Packet.vcOf p, arrived := s.time.now, bank := some (activeEpoch
            s), pkt := f, whole := true } x →
    (s.pw.stopped = false → exec (.packetArrive i p) s = .next (follows t)) ∧
    (quiet s t = true → exec (.packetArrive i p) s = .next t)) ∧
  (∀ (i : Nat) (p q : Packet) (u : State) (k key : Nat) (r : State) (w : Word) (o : Nat) (f : Packet) (e : Nat) (x : State) (sc c dsc : Nat) (s t : State),
    (i < 64 ∧ domOn s (dPort i) = true ∧ (port s i).st = .up ∧ (port s i).rp.rx = [] ∧ (port s i).gr.quar = false ∧
        p.hop.toNat < rwsF s 0x104 20 6 ∧ q = p ∧ u = (updPort i (fun x => { x with
          gr := { x.gr with lastData := some s.time.now } }) s)) ∨ (64 ≤ i ∧ internalUsable s i = true ∧ (68 ≤ i ∨ p.src =
        hostEid s (i - 64)) ∧ (i ≠ 68 ∨ lenOf p ≤ 1) ∧ q = { p with
          epoch := activeEpoch s,
          stage := 0,
          hop := 0,
          nonmin := false,
          detour := eidNone } ∧ u = s) →
    p.cls.toNat < 2 → p.ptype ≠ 8 → p.ptype ≠ 9 → (p.ptype ≠ 0x40 ∧ p.ptype ≠ 0x41) ∨ 68 ≤ i → p.dest ≠ eidNone →
    p.mode ≠ 2 → q.epoch = activeEpoch s → lookupBough u (homeBough i) = some k →
    key = (if q.detour ≠ eidNone then q.detour.toNat else q.dest.toNat) →
    r = eccRead (bghCtr k 2) (eccRep k) (bankKey (activeEpoch s) key) (if k = homeBough i then inc (bghCtr k 0) u else inc
        (bghCtr k 1) (inc (bghCtr k 0) u)) →
    struck u (eccRep k) (bankKey (activeEpoch s) key) = false → w = ftRead r (activeEpoch s) key → ftDrop w = false →
    ftLocal w = false → p.mode = 0 → q.nonmin = false ∧ q.detour = eidNone ∧ bitW w 28 = true →
    struck r eccLa (bankKey (activeEpoch s) (key >>> rwsF r 0x104 12 4 % 4096)) = false →
    bestOf r (some (laRead r (activeEpoch s) (key >>> rwsF r 0x104 12 4 % 4096))) (candidates r p.cls.toNat i w) = some
        (c, sc) →
    (detourCandidate k i 0 (activeEpoch s) q r) = (x, some (o, dsc, e)) → dsc + rwsF r 0x108 0 16 < sc → q.stage ≠ 3 →
    f = { q with stage := q.stage + 1, hop := q.hop + 1, nonmin := true, detour := BitVec.ofNat 18 e } →
    t = enqueue
        { inp := i, out := o, vc := Packet.vcOf f, inVc := Packet.vcOf p, arrived := s.time.now, bank := some (activeEpoch
            s), pkt := f, whole := true } (inc (cnpCtr 13) x) →
    (s.pw.stopped = false → exec (.packetArrive i p) s = .next (follows t)) ∧
    (quiet s t = true → exec (.packetArrive i p) s = .next t)) ∧
  (∀ (i : Nat) (p q : Packet) (u : State) (k key : Nat) (r : State) (w : Word) (o : Nat) (f : Packet) (e : Nat) (x : State) (dsc : Nat) (s t : State),
    (i < 64 ∧ domOn s (dPort i) = true ∧ (port s i).st = .up ∧ (port s i).rp.rx = [] ∧ (port s i).gr.quar = false ∧
        p.hop.toNat < rwsF s 0x104 20 6 ∧ q = p ∧ u = (updPort i (fun x => { x with
          gr := { x.gr with lastData := some s.time.now } }) s)) ∨ (64 ≤ i ∧ internalUsable s i = true ∧ (68 ≤ i ∨ p.src =
        hostEid s (i - 64)) ∧ (i ≠ 68 ∨ lenOf p ≤ 1) ∧ q = { p with
          epoch := activeEpoch s,
          stage := 0,
          hop := 0,
          nonmin := false,
          detour := eidNone } ∧ u = s) →
    p.cls.toNat < 2 → p.ptype ≠ 8 → p.ptype ≠ 9 → (p.ptype ≠ 0x40 ∧ p.ptype ≠ 0x41) ∨ 68 ≤ i → p.dest ≠ eidNone →
    p.mode ≠ 2 → q.epoch = activeEpoch s → lookupBough u (homeBough i) = some k →
    key = (if q.detour ≠ eidNone then q.detour.toNat else q.dest.toNat) →
    r = eccRead (bghCtr k 2) (eccRep k) (bankKey (activeEpoch s) key) (if k = homeBough i then inc (bghCtr k 0) u else inc
        (bghCtr k 1) (inc (bghCtr k 0) u)) →
    struck u (eccRep k) (bankKey (activeEpoch s) key) = false → w = ftRead r (activeEpoch s) key → ftDrop w = false →
    ftLocal w = false → p.mode ≠ 0 → q.nonmin = false ∧ q.detour = eidNone ∧ bitW w 28 = true →
    candidates r p.cls.toNat i w = [] → (detourCandidate k i p.mode.toNat (activeEpoch s) q r) = (x, some (o, dsc, e)) →
    q.stage ≠ 3 → f = { q with stage := q.stage + 1, hop := q.hop + 1, nonmin := true, detour := BitVec.ofNat 18 e } →
    t = enqueue
        { inp := i, out := o, vc := Packet.vcOf f, inVc := Packet.vcOf p, arrived := s.time.now, bank := some (activeEpoch
            s), pkt := f, whole := true } (inc (cnpCtr 13) x) →
    (s.pw.stopped = false → exec (.packetArrive i p) s = .next (follows t)) ∧
    (quiet s t = true → exec (.packetArrive i p) s = .next t)) ∧
  (∀ (i : Nat) (p q : Packet) (u : State) (k key : Nat) (r : State) (w : Word) (o : Nat) (f : Packet) (e : Nat) (x : State) (dsc : Nat) (s t : State),
    (i < 64 ∧ domOn s (dPort i) = true ∧ (port s i).st = .up ∧ (port s i).rp.rx = [] ∧ (port s i).gr.quar = false ∧
        p.hop.toNat < rwsF s 0x104 20 6 ∧ q = p ∧ u = (updPort i (fun x => { x with
          gr := { x.gr with lastData := some s.time.now } }) s)) ∨ (64 ≤ i ∧ internalUsable s i = true ∧ (68 ≤ i ∨ p.src =
        hostEid s (i - 64)) ∧ (i ≠ 68 ∨ lenOf p ≤ 1) ∧ q = { p with
          epoch := activeEpoch s,
          stage := 0,
          hop := 0,
          nonmin := false,
          detour := eidNone } ∧ u = s) →
    p.cls.toNat < 2 → p.ptype ≠ 8 → p.ptype ≠ 9 → (p.ptype ≠ 0x40 ∧ p.ptype ≠ 0x41) ∨ 68 ≤ i → p.dest ≠ eidNone →
    p.mode ≠ 2 → q.epoch = activeEpoch s → lookupBough u (homeBough i) = some k →
    key = (if q.detour ≠ eidNone then q.detour.toNat else q.dest.toNat) →
    r = eccRead (bghCtr k 2) (eccRep k) (bankKey (activeEpoch s) key) (if k = homeBough i then inc (bghCtr k 0) u else inc
        (bghCtr k 1) (inc (bghCtr k 0) u)) →
    struck u (eccRep k) (bankKey (activeEpoch s) key) = false → w = ftRead r (activeEpoch s) key → ftDrop w = false →
    ftLocal w = false → p.mode = 0 → q.nonmin = false ∧ q.detour = eidNone ∧ bitW w 28 = true →
    struck r eccLa (bankKey (activeEpoch s) (key >>> rwsF r 0x104 12 4 % 4096)) = false →
    candidates r p.cls.toNat i w = [] → (detourCandidate k i 0 (activeEpoch s) q r) = (x, some (o, dsc, e)) →
    q.stage ≠ 3 → f = { q with stage := q.stage + 1, hop := q.hop + 1, nonmin := true, detour := BitVec.ofNat 18 e } →
    t = enqueue
        { inp := i, out := o, vc := Packet.vcOf f, inVc := Packet.vcOf p, arrived := s.time.now, bank := some (activeEpoch
            s), pkt := f, whole := true } (inc (cnpCtr 13) x) →
    (s.pw.stopped = false → exec (.packetArrive i p) s = .next (follows t)) ∧
    (quiet s t = true → exec (.packetArrive i p) s = .next t)) ∧
  (∀ (i : Nat) (p q : Packet) (u : State) (k key : Nat) (r : State) (w : Word) (s t : State),
    (i < 64 ∧ domOn s (dPort i) = true ∧ (port s i).st = .up ∧ (port s i).rp.rx = [] ∧ (port s i).gr.quar = false ∧
        p.hop.toNat < rwsF s 0x104 20 6 ∧ q = p ∧ u = (updPort i (fun x => { x with
          gr := { x.gr with lastData := some s.time.now } }) s)) ∨ (64 ≤ i ∧ internalUsable s i = true ∧ (68 ≤ i ∨ p.src =
        hostEid s (i - 64)) ∧ (i ≠ 68 ∨ lenOf p ≤ 1) ∧ q = { p with
          epoch := activeEpoch s,
          stage := 0,
          hop := 0,
          nonmin := false,
          detour := eidNone } ∧ u = s) →
    p.cls.toNat < 2 → p.ptype ≠ 8 → p.ptype ≠ 9 → (p.ptype ≠ 0x40 ∧ p.ptype ≠ 0x41) ∨ 68 ≤ i → p.dest ≠ eidNone →
    p.mode ≠ 2 → q.epoch = activeEpoch s → lookupBough u (homeBough i) = some k →
    key = (if q.detour ≠ eidNone then q.detour.toNat else q.dest.toNat) →
    r = eccRead (bghCtr k 2) (eccRep k) (bankKey (activeEpoch s) key) (if k = homeBough i then inc (bghCtr k 0) u else inc
        (bghCtr k 1) (inc (bghCtr k 0) u)) →
    struck u (eccRep k) (bankKey (activeEpoch s) key) = false → w = ftRead r (activeEpoch s) key → ftDrop w = false →
    ftLocal w = false → p.mode ≠ 0 → q.nonmin = true ∨ q.detour ≠ eidNone ∨ bitW w 28 = false → q.detour = eidNone →
    candidates r p.cls.toNat i w = [] →
    t = freePool i (Packet.vcOf p) (lenOf p) true (cnpDrop 0 r) →
    (s.pw.stopped = false → exec (.packetArrive i p) s = .next (follows t)) ∧
    (quiet s t = true → exec (.packetArrive i p) s = .next t)) ∧
  (∀ (i : Nat) (p q : Packet) (u : State) (k key : Nat) (r : State) (w : Word) (o : Nat) (f : Packet) (x : State) (s t : State),
    (i < 64 ∧ domOn s (dPort i) = true ∧ (port s i).st = .up ∧ (port s i).rp.rx = [] ∧ (port s i).gr.quar = false ∧
        p.hop.toNat < rwsF s 0x104 20 6 ∧ q = p ∧ u = (updPort i (fun x => { x with
          gr := { x.gr with lastData := some s.time.now } }) s)) ∨ (64 ≤ i ∧ internalUsable s i = true ∧ (68 ≤ i ∨ p.src =
        hostEid s (i - 64)) ∧ (i ≠ 68 ∨ lenOf p ≤ 1) ∧ q = { p with
          epoch := activeEpoch s,
          stage := 0,
          hop := 0,
          nonmin := false,
          detour := eidNone } ∧ u = s) →
    p.cls.toNat < 2 → p.ptype ≠ 8 → p.ptype ≠ 9 → (p.ptype ≠ 0x40 ∧ p.ptype ≠ 0x41) ∨ 68 ≤ i → p.dest ≠ eidNone →
    p.mode ≠ 2 → q.epoch = activeEpoch s → lookupBough u (homeBough i) = some k →
    key = (if q.detour ≠ eidNone then q.detour.toNat else q.dest.toNat) →
    r = eccRead (bghCtr k 2) (eccRep k) (bankKey (activeEpoch s) key) (if k = homeBough i then inc (bghCtr k 0) u else inc
        (bghCtr k 1) (inc (bghCtr k 0) u)) →
    struck u (eccRep k) (bankKey (activeEpoch s) key) = false → w = ftRead r (activeEpoch s) key → ftDrop w = false →
    ftLocal w = false → p.mode = 3 → q.detour ≠ eidNone → candidates r p.cls.toNat i w = [] →
    struck r (eccRep k) (bankKey (activeEpoch s) q.dest.toNat) = false →
    x = eccRead (bghCtr k 2) (eccRep k) (bankKey (activeEpoch s) q.dest.toNat) (if k = homeBough i then inc (bghCtr k 0)
        (inc (cnpCtr 14) r) else inc (bghCtr k 1) (inc (bghCtr k 0) (inc (cnpCtr 14) r))) →
    ftDrop (ftRead x (activeEpoch s) q.dest.toNat) = false → ftLocal (ftRead x (activeEpoch s) q.dest.toNat) = false →
    (candidates x p.cls.toNat i (ftRead x (activeEpoch s) q.dest.toNat)).head? = some (0, o) →
    rwsF s (0x110 + 4 * (o / 32)) (o % 32) 1 = 0 ∨ q.stage ≠ 3 →
    f = { q with
          detour := eidNone,
          stage := if rwsF s (0x110 + 4 * (o / 32)) (o % 32) 1 = 1 then q.stage + 1 else q.stage,
          hop := q.hop + 1 } →
    t = enqueue
        { inp := i, out := o, vc := Packet.vcOf f, inVc := Packet.vcOf p, arrived := s.time.now, bank := some (activeEpoch
            s), pkt := f, whole := true } x →
    (s.pw.stopped = false → exec (.packetArrive i p) s = .next (follows t)) ∧
    (quiet s t = true → exec (.packetArrive i p) s = .next t)) ∧
  (∀ (i : Nat) (p q : Packet) (u : State) (k key : Nat) (r : State) (w : Word) (o : Nat) (s t : State),
    (i < 64 ∧ domOn s (dPort i) = true ∧ (port s i).st = .up ∧ (port s i).rp.rx = [] ∧ (port s i).gr.quar = false ∧
        p.hop.toNat < rwsF s 0x104 20 6 ∧ q = p ∧ u = (updPort i (fun x => { x with
          gr := { x.gr with lastData := some s.time.now } }) s)) ∨ (64 ≤ i ∧ internalUsable s i = true ∧ (68 ≤ i ∨ p.src =
        hostEid s (i - 64)) ∧ (i ≠ 68 ∨ lenOf p ≤ 1) ∧ q = { p with
          epoch := activeEpoch s,
          stage := 0,
          hop := 0,
          nonmin := false,
          detour := eidNone } ∧ u = s) →
    p.cls.toNat < 2 → p.ptype ≠ 8 → p.ptype ≠ 9 → (p.ptype ≠ 0x40 ∧ p.ptype ≠ 0x41) ∨ 68 ≤ i → p.dest ≠ eidNone →
    p.mode ≠ 2 → q.epoch = activeEpoch s → lookupBough u (homeBough i) = some k →
    key = (if q.detour ≠ eidNone then q.detour.toNat else q.dest.toNat) →
    r = eccRead (bghCtr k 2) (eccRep k) (bankKey (activeEpoch s) key) (if k = homeBough i then inc (bghCtr k 0) u else inc
        (bghCtr k 1) (inc (bghCtr k 0) u)) →
    struck u (eccRep k) (bankKey (activeEpoch s) key) = false → w = ftRead r (activeEpoch s) key → ftDrop w = false →
    ftLocal w = false → p.mode = 3 → (candidates r p.cls.toNat i w).head? = some (0, o) →
    rwsF s (0x110 + 4 * (o / 32)) (o % 32) 1 = 1 → q.stage = 3 →
    t = freePool i (Packet.vcOf p) (lenOf p) true (cnpDrop 2 r) →
    (s.pw.stopped = false → exec (.packetArrive i p) s = .next (follows t)) ∧
    (quiet s t = true → exec (.packetArrive i p) s = .next t)) ∧
  (∀ (i : Nat) (p q : Packet) (u : State) (k o : Nat) (r : State) (w : Word) (s t : State),
    (i < 64 ∧ domOn s (dPort i) = true ∧ (port s i).st = .up ∧ (port s i).rp.rx = [] ∧ (port s i).gr.quar = false ∧
        p.hop.toNat < rwsF s 0x104 20 6 ∧ q = p ∧ u = (updPort i (fun x => { x with
          gr := { x.gr with lastData := some s.time.now } }) s)) ∨ (64 ≤ i ∧ internalUsable s i = true ∧ (68 ≤ i ∨ p.src =
        hostEid s (i - 64)) ∧ (i ≠ 68 ∨ lenOf p ≤ 1) ∧ q = { p with
          epoch := activeEpoch s,
          stage := 0,
          hop := 0,
          nonmin := false,
          detour := eidNone } ∧ u = s) →
    p.cls.toNat < 2 → p.ptype ≠ 8 → p.ptype ≠ 9 → (p.ptype ≠ 0x40 ∧ p.ptype ≠ 0x41) ∨ 68 ≤ i → p.dest ≠ eidNone →
    p.mode ≠ 2 → q.epoch ≠ activeEpoch s → s.stage.bank = .draining ∨ s.stage.bank = .pending →
    lookupBough u (homeBough i) = some k → q.detour = eidNone →
    struck u (eccRep k) (bankKey q.epoch q.dest.toNat) = false →
    r = eccRead (bghCtr k 2) (eccRep k) (bankKey q.epoch q.dest.toNat) (if k = homeBough i then inc (bghCtr k 0) (if
        s.stage.bank = .draining then { u with stage.drainClk := s.time.now } else inc (cnpCtr 5) u) else inc (bghCtr k 1)
        (inc (bghCtr k 0) (if s.stage.bank = .draining then { u with stage.drainClk := s.time.now } else inc (cnpCtr 5)
        u))) →
    w = ftRead r q.epoch q.dest.toNat → ftLocal w = true → codePort (ftCand w 0) = some o → o ≠ 68 →
    internalUsable r o = true →
    t = enqueue
        { inp := i, out := o, vc := Packet.vcOf q, inVc := Packet.vcOf p, arrived := s.time.now, bank := some q.epoch, pkt
            := q, whole := true } r →
    (s.pw.stopped = false → exec (.packetArrive i p) s = .next (follows t)) ∧
    (quiet s t = true → exec (.packetArrive i p) s = .next t)) ∧
  (∀ (i : Nat) (p : Packet) (k o : Nat) (m r : State) (w : Word) (s t : State),
    i < 64 → domOn s (dPort i) = true → (port s i).st = .up → (port s i).rp.rx = [] → (port s i).gr.quar = true →
    p.cls = 3 → p.ptype ≠ 8 → p.ptype ≠ 9 → p.ptype ≠ 0x40 → p.ptype ≠ 0x41 → p.dest ≠ eidNone →
    p.hop.toNat < rwsF s 0x104 20 6 → p.mode ≠ 2 → p.detour = eidNone →
    ingressMeter i 1 { p with epoch := activeEpoch s } s = (m, true) → lookupBough m (homeBough i) = some k →
    struck m (eccRep k) (bankKey (activeEpoch s) p.dest.toNat) = false →
    r = eccRead (bghCtr k 2) (eccRep k) (bankKey (activeEpoch s) p.dest.toNat) (if k = homeBough i then inc (bghCtr k 0) m
        else inc (bghCtr k 1) (inc (bghCtr k 0) m)) →
    w = ftRead r (activeEpoch s) p.dest.toNat → ftLocal w = true → ftCand w 0 = 4 → o = 68 →
    t = enqueue
        { inp := i, out := o, vc := Packet.vcOf { p with epoch := activeEpoch s }, inVc := Packet.vcOf p, arrived :=
            s.time.now, bank := some (activeEpoch s), pkt := { p with epoch := activeEpoch s }, whole := true } r →
    (s.pw.stopped = false → exec (.packetArrive i p) s = .next (follows t)) ∧
    (quiet s t = true → exec (.packetArrive i p) s = .next t)) ∧
  (∀ (i : Nat) (p q : Packet) (u : State) (m : State) (s t : State),
    64 ≤ i → i < 68 → internalUsable s i = true → p.src = hostEid s (i - 64) → 2 ≤ p.cls.toNat → p.ptype ≠ 8 →
    p.ptype ≠ 9 → p.dest ≠ eidNone → p.mode ≠ 2 →
    q = { p with epoch := activeEpoch s, stage := 0, hop := 0, nonmin := false, detour := eidNone } → u = s →
    ingressMeter i (p.cls.toNat - 2) q s = (m, false) →
    t = m →
    (s.pw.stopped = false → exec (.packetArrive i p) s = .next (follows t)) ∧
    (quiet s t = true → exec (.packetArrive i p) s = .next t)) ∧
  (∀ (i : Nat) (p q : Packet) (u : State) (k o : Nat) (m r : State) (w : Word) (s t : State),
    64 ≤ i → i < 68 → internalUsable s i = true → p.src = hostEid s (i - 64) → p.cls = 2 → p.ptype ≠ 8 → p.ptype ≠ 9 →
    p.ptype ≠ 0x40 → p.ptype ≠ 0x41 → p.dest ≠ eidNone → p.mode ≠ 2 →
    q = { p with epoch := activeEpoch s, stage := 0, hop := 0, nonmin := false, detour := eidNone } → u = s →
    ingressMeter i 0 q s = (m, true) → lookupBough m (homeBough i) = some k →
    struck m (eccRep k) (bankKey (activeEpoch s) p.dest.toNat) = false →
    r = eccRead (bghCtr k 2) (eccRep k) (bankKey (activeEpoch s) p.dest.toNat) (if k = homeBough i then inc (bghCtr k 0) m
        else inc (bghCtr k 1) (inc (bghCtr k 0) m)) →
    w = ftRead r (activeEpoch s) p.dest.toNat → ftDrop w = false → ftLocal w = false →
    (candidates r 2 i w).head? = some (0, o) → rwsF s (0x110 + 4 * (o / 32)) (o % 32) 1 = 0 → shareOf r o = 0 →
    t = raise 154 2 (inc (cnpCtr 33) r) →
    (s.pw.stopped = false → exec (.packetArrive i p) s = .next (follows t)) ∧
    (quiet s t = true → exec (.packetArrive i p) s = .next t)) ∧
  (∀ (i : Nat) (p q : Packet) (u : State) (x : Nat) (s t : State),
    i < 68 →
    (i < 64 ∧ domOn s (dPort i) = true ∧ (port s i).st = .up ∧ (port s i).rp.rx = [] ∧ (port s i).gr.quar = false ∧
        p.hop.toNat < rwsF s 0x104 20 6 ∧ q = p ∧ u = (updPort i (fun x => { x with
          gr := { x.gr with lastData := some s.time.now } }) s)) ∨ (64 ≤ i ∧ internalUsable s i = true ∧ (68 ≤ i ∨ p.src =
        hostEid s (i - 64)) ∧ (i ≠ 68 ∨ lenOf p ≤ 1) ∧ q = { p with
          epoch := activeEpoch s,
          stage := 0,
          hop := 0,
          nonmin := false,
          detour := eidNone } ∧ u = s) →
    p.cls.toNat < 2 → p.ptype = 0x40 ∨ p.ptype = 0x41 → p.dest ≠ eidNone → p.dest ≠ nodeEid s →
    x = Packet.extF p 5 0 0 10 →
    t = freePool i (Packet.vcOf p) (lenOf p) true (treeDrop 1 u) →
    (s.pw.stopped = false → exec (.packetArrive i p) s = .next (follows t)) ∧
    (quiet s t = true → exec (.packetArrive i p) s = .next t)) ∧
  (∀ (i : Nat) (p q : Packet) (u : State) (x o : Nat) (s t : State),
    i < 68 →
    (i < 64 ∧ domOn s (dPort i) = true ∧ (port s i).st = .up ∧ (port s i).rp.rx = [] ∧ (port s i).gr.quar = false ∧
        p.hop.toNat < rwsF s 0x104 20 6 ∧ q = p ∧ u = (updPort i (fun x => { x with
          gr := { x.gr with lastData := some s.time.now } }) s)) ∨ (64 ≤ i ∧ internalUsable s i = true ∧ (68 ≤ i ∨ p.src =
        hostEid s (i - 64)) ∧ (i ≠ 68 ∨ lenOf p ≤ 1) ∧ q = { p with
          epoch := activeEpoch s,
          stage := 0,
          hop := 0,
          nonmin := false,
          detour := eidNone } ∧ u = s) →
    p.cls.toNat < 2 → p.ptype = 0x40 ∨ p.ptype = 0x41 → p.dest = nodeEid s → p.dest ≠ eidNone →
    x = Packet.extF p 5 0 0 10 → (tree s x).st ≠ 0 → Packet.extF p 5 0 16 16 = treeF s x 0 0 16 → o = 69 + treeUnit s x →
    t = enqueue
        { inp := i, out := o, vc := Packet.vcOf q, inVc := Packet.vcOf p, arrived := s.time.now, bank := none, pkt := q,
            whole := true } u →
    (s.pw.stopped = false → exec (.packetArrive i p) s = .next (follows t)) ∧
    (quiet s t = true → exec (.packetArrive i p) s = .next t)) ∧
  (∀ (i : Nat) (p q : Packet) (u : State) (x : Nat) (s t : State),
    i < 64 →
    (i < 64 ∧ domOn s (dPort i) = true ∧ (port s i).st = .up ∧ (port s i).rp.rx = [] ∧ (port s i).gr.quar = false ∧
        p.hop.toNat < rwsF s 0x104 20 6 ∧ q = p ∧ u = (updPort i (fun x => { x with
          gr := { x.gr with lastData := some s.time.now } }) s)) ∨ (64 ≤ i ∧ internalUsable s i = true ∧ (68 ≤ i ∨ p.src =
        hostEid s (i - 64)) ∧ (i ≠ 68 ∨ lenOf p ≤ 1) ∧ q = { p with
          epoch := activeEpoch s,
          stage := 0,
          hop := 0,
          nonmin := false,
          detour := eidNone } ∧ u = s) →
    p.cls.toNat < 2 → p.ptype = 0x40 ∨ p.ptype = 0x41 → p.dest = nodeEid s → p.dest ≠ eidNone →
    x = Packet.extF p 5 0 0 10 → (tree s x).st = 0 ∨ Packet.extF p 5 0 16 16 ≠ treeF s x 0 0 16 →
    t = freePool i (Packet.vcOf p) (lenOf p) true (treeDrop 0 u) →
    (s.pw.stopped = false → exec (.packetArrive i p) s = .next (follows t)) ∧
    (quiet s t = true → exec (.packetArrive i p) s = .next t)) ∧
  (∀ (i : Nat) (p q : Packet) (u : State) (x : Nat) (s t : State),
    64 ≤ i → i < 68 →
    (i < 64 ∧ domOn s (dPort i) = true ∧ (port s i).st = .up ∧ (port s i).rp.rx = [] ∧ (port s i).gr.quar = false ∧
        p.hop.toNat < rwsF s 0x104 20 6 ∧ q = p ∧ u = (updPort i (fun x => { x with
          gr := { x.gr with lastData := some s.time.now } }) s)) ∨ (64 ≤ i ∧ internalUsable s i = true ∧ (68 ≤ i ∨ p.src =
        hostEid s (i - 64)) ∧ (i ≠ 68 ∨ lenOf p ≤ 1) ∧ q = { p with
          epoch := activeEpoch s,
          stage := 0,
          hop := 0,
          nonmin := false,
          detour := eidNone } ∧ u = s) →
    p.cls.toNat < 2 → p.ptype = 0x40 ∨ p.ptype = 0x41 → p.dest = nodeEid s → p.dest ≠ eidNone →
    x = Packet.extF p 5 0 0 10 → (tree s x).st = 0 ∨ Packet.extF p 5 0 16 16 ≠ treeF s x 0 0 16 →
    t = sendTree 0 i (treePkt false x (Packet.extF p 5 0 16 16) (Packet.extF p 5 1 0 16) 0 0 0 0 (Packet.extF p 5 2 0 16)
        3 0 []) (treeDrop 0 s) →
    (s.pw.stopped = false → exec (.packetArrive i p) s = .next (follows t)) ∧
    (quiet s t = true → exec (.packetArrive i p) s = .next t)) ∧
  (∀ (i : Nat) (p : Packet) (o : Nat) (s t : State),
    64 ≤ i → i < 68 → internalUsable s i = true → p.ptype = 8 ∨ p.ptype = 9 →
    ([2 * (1 - (i - 64) / 2), 2 * (1 - (i - 64) / 2) + 1].map xN).find? (fun o => internalUsable s o) = some o →
    t = enqueue
        { inp := i, out := o, vc := Packet.vcOf p, inVc := Packet.vcOf p, arrived := s.time.now, bank := none, pkt := p,
            whole := true } s →
    (s.pw.stopped = false → exec (.packetArrive i p) s = .next (follows t)) ∧
    (quiet s t = true → exec (.packetArrive i p) s = .next t)) ∧
  (∀ (i : Nat) (p : Packet) (k o : Nat) (a : Arrival) (u r : State) (w : Word) (s t : State),
    i < 64 → domOn s (dPort i) = true → (port s i).rp.rx = [a] → a.arrived = false → a.whole = false → a.bad = false →
    (port s i).gr.quar = false → p.cls.toNat < 2 → p.ptype ≠ 8 → p.ptype ≠ 9 → p.ptype ≠ 0x40 → p.ptype ≠ 0x41 →
    p.dest ≠ eidNone → p.mode ≠ 2 → p.hop.toNat < rwsF s 0x104 20 6 → p.epoch = activeEpoch s → p.detour = eidNone →
    u = (updPort i (fun x => { x with gr := { x.gr with lastData := some s.time.now } }) (updPort i (fun x => { x with
          rp := { x.rp with rx := [{ a with arrived := true }] } }) s)) →
    lookupBough u (homeBough i) = some k → struck u (eccRep k) (bankKey (activeEpoch s) p.dest.toNat) = false →
    r = eccRead (bghCtr k 2) (eccRep k) (bankKey (activeEpoch s) p.dest.toNat) (if k = homeBough i then inc (bghCtr k 0) u
        else inc (bghCtr k 1) (inc (bghCtr k 0) u)) →
    w = ftRead r (activeEpoch s) p.dest.toNat → ftLocal w = true → codePort (ftCand w 0) = some o → o ≠ 68 →
    internalUsable r o = true →
    t = enqueue
        { inp := i, out := o, vc := Packet.vcOf p, inVc := a.vc, arrived := s.time.now, bank := some (activeEpoch s), pkt
            := p, whole := false } r →
    (s.pw.stopped = false → exec (.packetArrive i p) s = .next (follows t)) ∧
    (quiet s t = true → exec (.packetArrive i p) s = .next t))

/-- At a grant opportunity an output takes the management priority grant, then assured traffic, then deficit round robin.
An output that carries a packet grants nothing. At an idle output whose transmit key, if it needs one, is free of errors:
with a management gap set and over, it grants the MGT packet that rr_head chooses, counts it and notes the time; else, with
the shaper's credit at zero or more, the eligible ASD packet that arrived first; else the packet that DRR chooses, with its
pointers and deficits; else nothing. A grant takes the packet from its queue, frees its pool cells where it has come whole,
counts it and its cells, notes its delay, and starts it, or holds it for its last cell where the output is faster than the
input; its parts are those of the clause on it. A packet that waits for its last cell starts when it has come. -/
def Obligations.OutputArbitration : Prop :=
  (∀ (o : Nat) (s t : State),
    (outp s o).busy.isSome = true →
    t = s →
    (s.pw.stopped = false → exec (.outputGrant o) s = .next (follows t)) ∧
    (quiet s t = true → exec (.outputGrant o) s = .next t)) ∧
  (∀ (o : Nat) (h : Held) (rr : TMap Nat) (s t : State),
    (outp s o).busy = none → o < 73 → 64 ≤ o ∨ gcmEn s o = false ∨ (rawKey s o 0 (b2n (port s o).kpTx)).ecc ≠ .bad →
    rwsF s (shpBase o) 16 8 ≠ 0 →
    (outp s o).mgtLast = none ∨ (∃ t, (outp s o).mgtLast = some t ∧ t + rwsF s (shpBase o) 16 8 * 1000 ≤ s.time.now) →
    rrHead (outp s o).rr 3 (eligible s o) = some (h, rr) →
    t = grant h (inc (shpBase o + 0x40 + 64) (updOut o (fun x => { x with rr := rr, mgtLast := some s.time.now }) s)) →
    (s.pw.stopped = false → exec (.outputGrant o) s = .next (follows t)) ∧
    (quiet s t = true → exec (.outputGrant o) s = .next t)) ∧
  (∀ (o : Nat) (h : Held) (s t : State),
    (outp s o).busy = none → o < 73 → 64 ≤ o ∨ gcmEn s o = false ∨ (rawKey s o 0 (b2n (port s o).kpTx)).ecc ≠ .bad →
    rwsF s (shpBase o) 16 8 = 0 ∨ (∃ t, (outp s o).mgtLast = some t ∧ s.time.now < t + rwsF s (shpBase o) 16 8 * 1000) ∨
        rrHead (outp s o).rr 3 (eligible s o) = none →
    0 ≤ (outp s o).credit → oldestAsd (eligible s o) = some h →
    t = grant h s →
    (s.pw.stopped = false → exec (.outputGrant o) s = .next (follows t)) ∧
    (quiet s t = true → exec (.outputGrant o) s = .next t)) ∧
  (∀ (o : Nat) (h : Held) (rr : TMap Nat) (c : Nat) (df : TMap Nat) (s t : State),
    (outp s o).busy = none → o < 73 → 64 ≤ o ∨ gcmEn s o = false ∨ (rawKey s o 0 (b2n (port s o).kpTx)).ecc ≠ .bad →
    rwsF s (shpBase o) 16 8 = 0 ∨ (∃ t, (outp s o).mgtLast = some t ∧ s.time.now < t + rwsF s (shpBase o) 16 8 * 1000) ∨
        rrHead (outp s o).rr 3 (eligible s o) = none →
    (outp s o).credit < 0 ∨ oldestAsd (eligible s o) = none →
    drr (quantum s o) (outp s o).rr (eligible s o) (queuedAt s o) 400 (outp s o).drrPtr (outp s o).deficit = some (h, rr,
        c, df) →
    t = grant h (updOut o (fun x => { x with rr := rr, drrPtr := c, deficit := df }) s) →
    (s.pw.stopped = false → exec (.outputGrant o) s = .next (follows t)) ∧
    (quiet s t = true → exec (.outputGrant o) s = .next t)) ∧
  (∀ (o : Nat) (s t : State),
    (outp s o).busy = none → o < 73 → 64 ≤ o ∨ gcmEn s o = false ∨ (rawKey s o 0 (b2n (port s o).kpTx)).ecc ≠ .bad →
    eligible s o = [] →
    t = s →
    (s.pw.stopped = false → exec (.outputGrant o) s = .next (follows t)) ∧
    (quiet s t = true → exec (.outputGrant o) s = .next t)) ∧
  (∀ (o : Nat) (h : Held) (rr : TMap Nat) (c : Nat) (df : TMap Nat) (w u v : State) (s t : State),
    (outp s o).busy = none → o < 73 → 64 ≤ o ∨ gcmEn s o = false ∨ (rawKey s o 0 (b2n (port s o).kpTx)).ecc ≠ .bad →
    64 ≤ o →
    rwsF s (shpBase o) 16 8 = 0 ∨ (∃ t, (outp s o).mgtLast = some t ∧ s.time.now < t + rwsF s (shpBase o) 16 8 * 1000) ∨
        rrHead (outp s o).rr 3 (eligible s o) = none →
    (outp s o).credit < 0 ∨ oldestAsd (eligible s o) = none →
    drr (quantum s o) (outp s o).rr (eligible s o) (queuedAt s o) 400 (outp s o).drrPtr (outp s o).deficit = some (h, rr,
        c, df) →
    h.ecc ≠ .bad → h.whole = true → h.out = o → clsOf h.pkt ≠ 2 →
    w = updOut o (fun x => { x with rr := rr, drrPtr := c, deficit := df }) s →
    u = creditInput h.inp h.inVc (lenOf h.pkt) { w with net.voq := dropOne h w.net.voq } →
    v = stageCells h.inp o (lenOf h.pkt) (count (shpBase o + 0x60 + 8 * clsOf h.pkt) (lenOf h.pkt) (inc (shpBase o + 0x40
        + 8 * clsOf h.pkt) (updOut o (fun x => { x with
          used := Maps.upd 0 x.used (clsOf h.pkt) (fun n => n + lenOf h.pkt) }) u))) →
    t = deliverTx o (updOut o (fun x => { x with busy := some h, hold := false }) { v with
          net.tel := Maps.upd {} v.net.tel (4 * o + clsOf h.pkt) (fun r => { r with
            delayMax := max r.delayMax (s.time.now - h.arrived),
            delaySum := r.delaySum + (s.time.now - h.arrived),
            pkts := r.pkts + 1,
            cells := r.cells + lenOf h.pkt }) }) →
    (s.pw.stopped = false → exec (.outputGrant o) s = .next (follows t)) ∧
    (quiet s t = true → exec (.outputGrant o) s = .next t)) ∧
  (∀ (o : Nat) (h : Held) (s t : State),
    (outp s o).busy = some h → h.out = o → (outp s o).hold = true → h.whole = true ∨ h.inp = 68 → o < 64 →
    keyOk s o = false →
    t = updOut o (fun x => { x with busy := some { h with whole := true }, due := true }) s →
    (s.pw.stopped = false → exec (.storeFwdStart o) s = .next (follows t)) ∧
    (quiet s t = true → exec (.storeFwdStart o) s = .next t)) ∧
  (∀ (o : Nat) (h : Held) (s t : State),
    (outp s o).busy = some h → h.out = o → (outp s o).hold = true → h.whole = true ∨ h.inp = 68 → o < 64 →
    gcmEn s o = false →
    t = updOut o (fun x => { x with busy := some { h with whole := true }, hold := false, due := false }) (updPort o (fun
        p => { p with rp := { p.rp with txq := p.rp.txq ++ markLast (Packet.cells { h.pkt with tag := 0 }) } }) s) →
    (s.pw.stopped = false → exec (.storeFwdStart o) s = .next (follows t)) ∧
    (quiet s t = true → exec (.storeFwdStart o) s = .next t)) ∧
  (∀ (o : Nat) (h : Held) (k : LinkKey) (s t : State),
    (outp s o).busy = some h → h.out = o → (outp s o).hold = true → h.whole = true ∨ h.inp = 68 → o < 64 →
    gcmEn s o = true → keyOk s o = true → k = linkKey s o 0 (b2n (port s o).kpTx) → k.ctr < 2 ^ 47 →
    t = updOut o (fun x => { x with busy := some { h with whole := true }, hold := false, due := false }) (updPort o (fun
        p => { p with rp := { p.rp with txq := p.rp.txq ++ markLast (encryptPkt k k.ctr h.pkt) } }) (setLinkKey o 0 (b2n
        (port s o).kpTx) { k with ctr := k.ctr + 1 } s)) →
    (s.pw.stopped = false → exec (.storeFwdStart o) s = .next (follows t)) ∧
    (quiet s t = true → exec (.storeFwdStart o) s = .next t)) ∧
  (∀ (o : Nat) (h : Held) (s t : State),
    (outp s o).busy = some h → h.out = o → (outp s o).hold = true → h.whole = true ∨ h.inp = 68 → 64 ≤ o →
    clsOf h.pkt ≠ 2 →
    t = deliverTx o (updOut o (fun x => { x with busy := some { h with whole := true }, hold := false, due := false }) s)
        →
    (s.pw.stopped = false → exec (.storeFwdStart o) s = .next (follows t)) ∧
    (quiet s t = true → exec (.storeFwdStart o) s = .next t)) ∧
  (∀ (o : Nat) (h : Held) (s t : State),
    (outp s o).busy = none ∨ (outp s o).hold = false ∨ ((outp s o).busy = some h ∧ h.whole = false ∧ h.inp ≠ 68) →
    t = s →
    (s.pw.stopped = false → exec (.storeFwdStart o) s = .next (follows t)) ∧
    (quiet s t = true → exec (.storeFwdStart o) s = .next t))

/-- The telemetry period's end, and the end of a replica's refresh. At the end of a period the sample records restart, each
with the depth that stands then; the snapshot sequence number advances (its start and step are the model's choice, log
123); with HIST_EN 1 the snapshot goes into the next slot of the ring when the HBM interface serves, and otherwise is
skipped, counted, and raises TEL_SKIPPED. A refresh of a Bough that is ON and not fenced ends by making the replica
available, clearing its errors, counting it and raising REFRESH_DONE (where no other replica is available this is the
model's choice, log 125); elsewhere the command changes nothing. -/
def Obligations.TelemetryAndReplicas : Prop :=
  (∀ (e : State) (s t : State),
    e = coreEcc eccMap (coreEcc eccTel s) → rwsF e 0x400 20 1 = 0 →
    t = eccWrite (fun x => x.1 == eccTel) { e with net.tel := telRestart e, net.snapSeq := e.net.snapSeq + 1 } →
    (s.pw.stopped = false → exec (.telemetryPeriodEnd) s = .next (follows t)) ∧
    (quiet s t = true → exec (.telemetryPeriodEnd) s = .next t)) ∧
  (∀ (e : State) (s t : State),
    e = coreEcc eccMap (coreEcc eccTel s) → rwsF e 0x400 20 1 = 1 → hbmOk e = false →
    t = raise 154 8 (inc (cnpCtr 34) (eccWrite (fun x => x.1 == eccTel) { e with
          net.tel := telRestart e,
          net.snapSeq := e.net.snapSeq + 1 })) →
    (s.pw.stopped = false → exec (.telemetryPeriodEnd) s = .next (follows t)) ∧
    (quiet s t = true → exec (.telemetryPeriodEnd) s = .next t)) ∧
  (∀ (e : State) (ws : List Word) (s t : State),
    e = coreEcc eccMap (coreEcc eccTel s) → rwsF e 0x400 20 1 = 1 → hbmOk e = true →
    ws = w64 s.time.now ++ [w32 (nodeEid s).toNat, w32 (rwsF s 0x400 0 20)] ++ w64 s.net.snapSeq ++ [0, 0] ++ telAll s →
    t = eccWrite (fun x => x.1 == eccTel) { e with
          net := { e.net with
            tel := telRestart e,
            snapSeq := e.net.snapSeq + 1,
            hist := Maps.insert e.net.histSlot (Maps.putList 0 [] 0 (ws ++ List.replicate (2560 - ws.length) 0 ++
              mapRecord s)) e.net.hist,
            histSlot := (e.net.histSlot + 1) % histSlots,
            wrapped := e.net.wrapped || decide (e.net.histSlot + 1 = histSlots) } } →
    (s.pw.stopped = false → exec (.telemetryPeriodEnd) s = .next (follows t)) ∧
    (quiet s t = true → exec (.telemetryPeriodEnd) s = .next t)) ∧
  (∀ (k : Nat) (s t : State),
    (Maps.get {} s.net.boughs k).refreshing = true → domOn s (dBough k) = true → fenced s (uBough k) = false →
    t = raise (128 + k) 2 (inc (bghCtr k 4) (eccWrite (fun e => e.1 == eccRep k) { s with
          net.boughs := Maps.upd {} s.net.boughs k (fun b => { b with refreshing := false, stale := false }) })) →
    (s.pw.stopped = false → exec (.replicaRefreshDone k) s = .next (follows t)) ∧
    (quiet s t = true → exec (.replicaRefreshDone k) s = .next t)) ∧
  (∀ (k : Nat) (s t : State),
    (Maps.get {} s.net.boughs k).refreshing = false ∨ domOn s (dBough k) = false ∨ fenced s (uBough k) = true →
    t = s →
    (s.pw.stopped = false → exec (.replicaRefreshDone k) s = .next (follows t)) ∧
    (quiet s t = true → exec (.replicaRefreshDone k) s = .next t))

/-- NOP, FENCE, CANCEL and the queue commands, from the row of an issued job to its completion. At a host port that serves,
the row of an issued job that has not begun marks it begun, and then: NOP finishes OK; a FENCE with nothing left to wait
for ends OK and one with something left stays; CANCEL of a job that a queue holds fetched ends that job CANCELLED and the
CANCEL OK, of one that the queue remembers as done the CANCEL ends ALREADY_COMPLETE, and of none, or of a queue that is
absent, NO_TARGET; QUEUE_CREATE of an absent number that the creator may use, with a good descriptor, creates the queue
with head, tail and fetch index 0; QUEUE_MODIFY restarts a queue in ERROR, and outside ERROR changes nothing (the model's
choice, log 67); QUEUE_DESTROY drains an ACTIVE or ERROR queue; CQ_CREATE of an absent CQ with a good descriptor makes it,
and CQ_DESTROY of one that no WQ names drops it; a number in use is MALFORMED with DETAIL 9, and one that is absent with
DETAIL 10. A row at a host port that does not serve, or that names no issued job which has not begun, changes nothing. -/
def Obligations.QueueJobs : Prop :=
  (∀ (h q : Nat) (i : Word) (j : Job) (s t : State),
    hostUp s h = true → freshJob s h q i 1 = some j →
    t = finishJob h ({ j with begun := true }) 0 0 0 (updJob h j.id (fun k => { k with begun := true }) s) →
    (s.pw.stopped = false → exec (.nop h q i) s = .next (follows t)) ∧
    (quiet s t = true → exec (.nop h q i) s = .next t)) ∧
  (∀ (h q : Nat) (i : Word) (j : Job) (s t : State),
    hostUp s h = true → freshJob s h q i 2 = some j → j.waitFor = [] →
    t = endJob h ({ j with begun := true }) 0 (comp0 ({ j with begun := true }) 0 0 0) (updJob h j.id (fun k => { k with
          begun := true }) s) →
    (s.pw.stopped = false → exec (.fenceJob h q i) s = .next (follows t)) ∧
    (quiet s t = true → exec (.fenceJob h q i) s = .next t)) ∧
  (∀ (h q : Nat) (i : Word) (j : Job) (s t : State),
    hostUp s h = true → freshJob s h q i 2 = some j → j.waitFor ≠ [] →
    t = (updJob h j.id (fun k => { k with begun := true }) s) →
    (s.pw.stopped = false → exec (.fenceJob h q i) s = .next (follows t)) ∧
    (quiet s t = true → exec (.fenceJob h q i) s = .next t)) ∧
  (∀ (h q : Nat) (i : Word) (j : Job) (k : Job) (s t : State),
    hostUp s h = true → freshJob s h q i 3 = some j →
    (wqOf (updJob h j.id (fun k => { k with begun := true }) s) h (fAt (Job.op j) 11 0 20)).st ≠ .absent →
    (wqOf (updJob h j.id (fun k => { k with begun := true }) s) h (fAt (Job.op j) 11 0 20)).fn = (wqOf (updJob h j.id (fun
        k => { k with begun := true }) s) h j.q).fn →
    (wqOf (updJob h j.id (fun k => { k with begun := true }) s) h (fAt (Job.op j) 11 0 20)).fetched.find? (fun k => k.q ==
        fAt (Job.op j) 11 0 20 && k.idx == wAt (Job.op j) 12 && k.fired.isNone && k.id != j.id) = some k →
    t = finishJob h ({ j with begun := true }) 0 0 0 (finishJob h k 2 k.acked 0 (inc (qmgCtr h 12) (updJob h j.id (fun k
        => { k with begun := true }) s))) →
    (s.pw.stopped = false → exec (.cancel h q i) s = .next (follows t)) ∧
    (quiet s t = true → exec (.cancel h q i) s = .next t)) ∧
  (∀ (h q : Nat) (i : Word) (j : Job) (s t : State),
    hostUp s h = true → freshJob s h q i 3 = some j →
    (wqOf (updJob h j.id (fun k => { k with begun := true }) s) h (fAt (Job.op j) 11 0 20)).st ≠ .absent →
    (wqOf (updJob h j.id (fun k => { k with begun := true }) s) h (fAt (Job.op j) 11 0 20)).fn = (wqOf (updJob h j.id (fun
        k => { k with begun := true }) s) h j.q).fn →
    (wqOf (updJob h j.id (fun k => { k with begun := true }) s) h (fAt (Job.op j) 11 0 20)).fetched = [] →
    (hport (updJob h j.id (fun k => { k with begun := true }) s) h).jobs.all (fun k => k.q != fAt (Job.op j) 11 0 20 ||
        k.idx != wAt (Job.op j) 12 || k.id == j.id) = true →
    t = (if (wqOf (updJob h j.id (fun k => { k with begun := true }) s) h (fAt (Job.op j) 11 0 20)).done.contains (wAt
        (Job.op j) 12) then finishJob h ({ j with begun := true }) 3 0 0 (inc (qmgCtr h 13) (updJob h j.id (fun k => { k
        with begun := true }) s)) else finishJob h ({ j with begun := true }) 4 0 0 (updJob h j.id (fun k => { k with
          begun := true }) s)) →
    (s.pw.stopped = false → exec (.cancel h q i) s = .next (follows t)) ∧
    (quiet s t = true → exec (.cancel h q i) s = .next t)) ∧
  (∀ (h q : Nat) (i : Word) (j : Job) (s t : State),
    hostUp s h = true → freshJob s h q i 3 = some j →
    (wqOf (updJob h j.id (fun k => { k with begun := true }) s) h (fAt (Job.op j) 11 0 20)).st = .absent →
    t = finishJob h ({ j with begun := true }) 4 0 0 (updJob h j.id (fun k => { k with begun := true }) s) →
    (s.pw.stopped = false → exec (.cancel h q i) s = .next (follows t)) ∧
    (quiet s t = true → exec (.cancel h q i) s = .next t)) ∧
  (∀ (h q : Nat) (i : Word) (m : HostView) (j : Job) (d : List Word) (s t : State),
    hostUp s h = true → freshJob s h q i 96 = some j →
    (wqOf (updJob h j.id (fun k => { k with begun := true }) s) h j.q).fn = 0 ∨ ((wqOf (updJob h j.id (fun k => { k with
          begun := true }) s) h j.q).qbase ≤ fAt (Job.op j) 11 0 20 ∧ fAt (Job.op j) 11 0 20 < (wqOf (updJob h j.id (fun k
        => { k with begun := true }) s) h j.q).qbase + (wqOf (updJob h j.id (fun k => { k with begun := true }) s) h
        j.q).qcount ∧ bAt d 2 30 = false) →
    (wqOf (updJob h j.id (fun k => { k with begun := true }) s) h (fAt (Job.op j) 11 0 20)).st = .absent →
    rdWords h (wqOf (updJob h j.id (fun k => { k with begun := true }) s) h j.q).fn (viewOf m s) (u64 (Job.op j) 4) 16
        (updJob h j.id (fun k => { k with begun := true }) s) = (.ok d, (updJob h j.id (fun k => { k with
          begun := true }) s)) →
    mayActFor (wqOf (updJob h j.id (fun k => { k with begun := true }) s) h j.q) (fAt d 3 0 8) = true → fAt d 0 0 12 = 0 →
    4 ≤ fAt d 2 20 5 → fAt d 2 20 5 ≤ 16 → fAt d 2 26 4 ≤ 8 → fAt d 3 8 8 ≠ 0 → u64 d 4 % 8 = 0 → fAt d 7 0 21 ≤ 2 ^ 20 →
    (cqOf (updJob h j.id (fun k => { k with begun := true }) s) h (fAt d 2 0 20)).active = true →
    (cqOf (updJob h j.id (fun k => { k with begun := true }) s) h (fAt d 2 0 20)).fn = fAt d 3 0 8 →
    t = finishJob h ({ j with begun := true }) 0 0 0 (setWq h (fAt (Job.op j) 11 0 20)
        { st := .active, base := u64 d 0, cq := fAt d 2 0 20, log := fAt d 2 20 5, inOrder := bAt d 2 25, prefetch := fAt
            d 2 26 4, priv := bAt d 2 30, fn := fAt d 3 0 8, weight := fAt d 3 8 8, headWb := u64 d 4, qbase := fAt d 6 0
            20, qcount := fAt d 7 0 21 } (updJob h j.id (fun k => { k with begun := true }) s)) →
    (s.pw.stopped = false → exec (.queueCreate h q i m) s = .next (follows t)) ∧
    (quiet s t = true → exec (.queueCreate h q i m) s = .next t)) ∧
  (∀ (h q : Nat) (i : Word) (m : HostView) (j : Job) (s t : State),
    hostUp s h = true → freshJob s h q i 96 = some j →
    (wqOf (updJob h j.id (fun k => { k with begun := true }) s) h j.q).fn = 0 →
    (wqOf (updJob h j.id (fun k => { k with begun := true }) s) h (fAt (Job.op j) 11 0 20)).st ≠ .absent →
    t = malformed h ({ j with begun := true }) 9 (updJob h j.id (fun k => { k with begun := true }) s) →
    (s.pw.stopped = false → exec (.queueCreate h q i m) s = .next (follows t)) ∧
    (quiet s t = true → exec (.queueCreate h q i m) s = .next t)) ∧
  (∀ (h q : Nat) (i : Word) (j : Job) (s t : State),
    hostUp s h = true → freshJob s h q i 97 = some j →
    (wqOf (updJob h j.id (fun k => { k with begun := true }) s) h (fAt (Job.op j) 11 0 20)).st = .absent →
    t = malformed h ({ j with begun := true }) 10 (updJob h j.id (fun k => { k with begun := true }) s) →
    (s.pw.stopped = false → exec (.queueModify h q i) s = .next (follows t)) ∧
    (quiet s t = true → exec (.queueModify h q i) s = .next t)) ∧
  (∀ (h q : Nat) (i : Word) (j : Job) (s t : State),
    hostUp s h = true → freshJob s h q i 97 = some j →
    (wqOf (updJob h j.id (fun k => { k with begun := true }) s) h (fAt (Job.op j) 11 0 20)).st = .active ∨ (wqOf (updJob h
        j.id (fun k => { k with begun := true }) s) h (fAt (Job.op j) 11 0 20)).st = .draining →
    mayActFor (wqOf (updJob h j.id (fun k => { k with begun := true }) s) h j.q) (wqOf (updJob h j.id (fun k => { k with
          begun := true }) s) h (fAt (Job.op j) 11 0 20)).fn = true →
    t = finishJob h ({ j with begun := true }) 0 0 0 (updJob h j.id (fun k => { k with begun := true }) s) →
    (s.pw.stopped = false → exec (.queueModify h q i) s = .next (follows t)) ∧
    (quiet s t = true → exec (.queueModify h q i) s = .next t)) ∧
  (∀ (h q : Nat) (i : Word) (j : Job) (s t : State),
    hostUp s h = true → freshJob s h q i 98 = some j →
    (wqOf (updJob h j.id (fun k => { k with begun := true }) s) h (fAt (Job.op j) 11 0 20)).st = .absent →
    t = malformed h ({ j with begun := true }) 10 (updJob h j.id (fun k => { k with begun := true }) s) →
    (s.pw.stopped = false → exec (.queueDestroy h q i) s = .next (follows t)) ∧
    (quiet s t = true → exec (.queueDestroy h q i) s = .next t)) ∧
  (∀ (h q : Nat) (i : Word) (j : Job) (s t : State),
    hostUp s h = true → freshJob s h q i 98 = some j →
    (wqOf (updJob h j.id (fun k => { k with begun := true }) s) h (fAt (Job.op j) 11 0 20)).st = .draining →
    mayActFor (wqOf (updJob h j.id (fun k => { k with begun := true }) s) h j.q) (wqOf (updJob h j.id (fun k => { k with
          begun := true }) s) h (fAt (Job.op j) 11 0 20)).fn = true →
    t = malformed h ({ j with begun := true }) 9 (updJob h j.id (fun k => { k with begun := true }) s) →
    (s.pw.stopped = false → exec (.queueDestroy h q i) s = .next (follows t)) ∧
    (quiet s t = true → exec (.queueDestroy h q i) s = .next t)) ∧
  (∀ (h q : Nat) (i : Word) (m : HostView) (j : Job) (s t : State),
    hostUp s h = true → freshJob s h q i 99 = some j →
    (cqOf (updJob h j.id (fun k => { k with begun := true }) s) h (fAt (Job.op j) 11 0 20)).active = true →
    t = malformed h ({ j with begun := true }) 9 (updJob h j.id (fun k => { k with begun := true }) s) →
    (s.pw.stopped = false → exec (.cqCreate h q i m) s = .next (follows t)) ∧
    (quiet s t = true → exec (.cqCreate h q i m) s = .next t)) ∧
  (∀ (h q : Nat) (i : Word) (j : Job) (s t : State),
    hostUp s h = true → freshJob s h q i 100 = some j →
    (cqOf (updJob h j.id (fun k => { k with begun := true }) s) h (fAt (Job.op j) 11 0 20)).active = false →
    t = malformed h ({ j with begun := true }) 10 (updJob h j.id (fun k => { k with begun := true }) s) →
    (s.pw.stopped = false → exec (.cqDestroy h q i) s = .next (follows t)) ∧
    (quiet s t = true → exec (.cqDestroy h q i) s = .next t)) ∧
  (∀ (h q : Nat) (i : Word) (j : Job) (s t : State),
    hostUp s h = true → freshJob s h q i 100 = some j →
    (cqOf (updJob h j.id (fun k => { k with begun := true }) s) h (fAt (Job.op j) 11 0 20)).active = true →
    mayActFor (wqOf (updJob h j.id (fun k => { k with begun := true }) s) h j.q) (cqOf (updJob h j.id (fun k => { k with
          begun := true }) s) h (fAt (Job.op j) 11 0 20)).fn = true →
    ((updJob h j.id (fun k => { k with begun := true }) s)).hs.wqs.any (fun e => e.1 / 2 ^ 20 == h && e.2.st != .absent &&
        e.2.cq == fAt (Job.op j) 11 0 20) = true →
    t = malformed h ({ j with begun := true }) 9 (updJob h j.id (fun k => { k with begun := true }) s) →
    (s.pw.stopped = false → exec (.cqDestroy h q i) s = .next (follows t)) ∧
    (quiet s t = true → exec (.cqDestroy h q i) s = .next t)) ∧
  (∀ (h q : Nat) (i : Word) (j : Job) (s t : State),
    hostUp s h = true → freshJob s h q i 97 = some j →
    (wqOf (updJob h j.id (fun k => { k with begun := true }) s) h (fAt (Job.op j) 11 0 20)).st = .error →
    mayActFor (wqOf (updJob h j.id (fun k => { k with begun := true }) s) h j.q) (wqOf (updJob h j.id (fun k => { k with
          begun := true }) s) h (fAt (Job.op j) 11 0 20)).fn = true →
    t = finishJob h ({ j with begun := true }) 0 0 0 (setWq h (fAt (Job.op j) 11 0 20) { wqOf (updJob h j.id (fun k => { k
        with begun := true }) s) h (fAt (Job.op j) 11 0 20) with
          st := .active,
          head := 0,
          tail := 0,
          wbHead := 0,
          fetching := false,
          reads := 0,
          rereads := 0,
          partials := [],
          done := [] } (updJob h j.id (fun k => { k with begun := true }) s)) →
    (s.pw.stopped = false → exec (.queueModify h q i) s = .next (follows t)) ∧
    (quiet s t = true → exec (.queueModify h q i) s = .next t)) ∧
  (∀ (h q : Nat) (i : Word) (j : Job) (s t : State),
    hostUp s h = true → freshJob s h q i 98 = some j →
    (wqOf (updJob h j.id (fun k => { k with begun := true }) s) h (fAt (Job.op j) 11 0 20)).st = .active ∨ (wqOf (updJob h
        j.id (fun k => { k with begun := true }) s) h (fAt (Job.op j) 11 0 20)).st = .error →
    mayActFor (wqOf (updJob h j.id (fun k => { k with begun := true }) s) h j.q) (wqOf (updJob h j.id (fun k => { k with
          begun := true }) s) h (fAt (Job.op j) 11 0 20)).fn = true →
    t = drainQueue h (fAt (Job.op j) 11 0 20) (some j.id) (updJob h j.id (fun k => { k with begun := true }) s) →
    (s.pw.stopped = false → exec (.queueDestroy h q i) s = .next (follows t)) ∧
    (quiet s t = true → exec (.queueDestroy h q i) s = .next t)) ∧
  (∀ (h q : Nat) (i : Word) (m : HostView) (j : Job) (d : List Word) (s t : State),
    hostUp s h = true → freshJob s h q i 99 = some j →
    (cqOf (updJob h j.id (fun k => { k with begun := true }) s) h (fAt (Job.op j) 11 0 20)).active = false →
    rdWords h (wqOf (updJob h j.id (fun k => { k with begun := true }) s) h j.q).fn (viewOf m s) (u64 (Job.op j) 4) 16
        (updJob h j.id (fun k => { k with begun := true }) s) = (.ok d, (updJob h j.id (fun k => { k with
          begun := true }) s)) →
    mayActFor (wqOf (updJob h j.id (fun k => { k with begun := true }) s) h j.q) (fAt d 3 0 8) = true → fAt d 0 0 12 = 0 →
    4 ≤ fAt d 2 0 5 → fAt d 2 0 5 ≤ 20 → fAt d 2 5 11 ≠ 0 → fAt d 3 0 8 = 0 ∨ fAt d 2 5 11 ≤ 63 →
    t = finishJob h ({ j with begun := true }) 0 0 0 (setCq h (fAt (Job.op j) 11 0 20)
        { active := true, base := u64 d 0, log := fAt d 2 0 5, vec := fAt d 2 5 11, intrEn := bAt d 2 16, fn := fAt d 3 0
            8, coalN := fAt d 3 8 16, coalT := fAt d 4 0 16 } (updJob h j.id (fun k => { k with begun := true }) s)) →
    (s.pw.stopped = false → exec (.cqCreate h q i m) s = .next (follows t)) ∧
    (quiet s t = true → exec (.cqCreate h q i m) s = .next t)) ∧
  (∀ (h q : Nat) (i : Word) (j : Job) (s t : State),
    hostUp s h = true → freshJob s h q i 100 = some j →
    (cqOf (updJob h j.id (fun k => { k with begun := true }) s) h (fAt (Job.op j) 11 0 20)).active = true →
    mayActFor (wqOf (updJob h j.id (fun k => { k with begun := true }) s) h j.q) (cqOf (updJob h j.id (fun k => { k with
          begun := true }) s) h (fAt (Job.op j) 11 0 20)).fn = true →
    ((updJob h j.id (fun k => { k with begun := true }) s)).hs.wqs.any (fun e => e.1 / 2 ^ 20 == h && e.2.st != .absent &&
        e.2.cq == fAt (Job.op j) 11 0 20) = false →
    t = finishJob h ({ j with begun := true }) 0 0 0 (dropCq h (fAt (Job.op j) 11 0 20) (updJob h j.id (fun k => { k with
          begun := true }) s)) →
    (s.pw.stopped = false → exec (.cqDestroy h q i) s = .next (follows t)) ∧
    (quiet s t = true → exec (.cqDestroy h q i) s = .next t)) ∧
  (∀ (h q : Nat) (i : Word) (s t : State),
    hostUp s h = false ∨ freshJob s h q i 1 = none →
    t = s →
    (s.pw.stopped = false → exec (.nop h q i) s = .next (follows t)) ∧
    (quiet s t = true → exec (.nop h q i) s = .next t)) ∧
  (∀ (h q : Nat) (i : Word) (s t : State),
    hostUp s h = false ∨ freshJob s h q i 2 = none →
    t = s →
    (s.pw.stopped = false → exec (.fenceJob h q i) s = .next (follows t)) ∧
    (quiet s t = true → exec (.fenceJob h q i) s = .next t)) ∧
  (∀ (h q : Nat) (i : Word) (s t : State),
    hostUp s h = false ∨ freshJob s h q i 3 = none →
    t = s →
    (s.pw.stopped = false → exec (.cancel h q i) s = .next (follows t)) ∧
    (quiet s t = true → exec (.cancel h q i) s = .next t)) ∧
  (∀ (h q : Nat) (i : Word) (m : HostView) (s t : State),
    hostUp s h = false ∨ freshJob s h q i 96 = none →
    t = s →
    (s.pw.stopped = false → exec (.queueCreate h q i m) s = .next (follows t)) ∧
    (quiet s t = true → exec (.queueCreate h q i m) s = .next t)) ∧
  (∀ (h q : Nat) (i : Word) (s t : State),
    hostUp s h = false ∨ freshJob s h q i 97 = none →
    t = s →
    (s.pw.stopped = false → exec (.queueModify h q i) s = .next (follows t)) ∧
    (quiet s t = true → exec (.queueModify h q i) s = .next t)) ∧
  (∀ (h q : Nat) (i : Word) (s t : State),
    hostUp s h = false ∨ freshJob s h q i 98 = none →
    t = s →
    (s.pw.stopped = false → exec (.queueDestroy h q i) s = .next (follows t)) ∧
    (quiet s t = true → exec (.queueDestroy h q i) s = .next t)) ∧
  (∀ (h q : Nat) (i : Word) (m : HostView) (s t : State),
    hostUp s h = false ∨ freshJob s h q i 99 = none →
    t = s →
    (s.pw.stopped = false → exec (.cqCreate h q i m) s = .next (follows t)) ∧
    (quiet s t = true → exec (.cqCreate h q i m) s = .next t)) ∧
  (∀ (h q : Nat) (i : Word) (s t : State),
    hostUp s h = false ∨ freshJob s h q i 100 = none →
    t = s →
    (s.pw.stopped = false → exec (.cqDestroy h q i) s = .next (follows t)) ∧
    (quiet s t = true → exec (.cqDestroy h q i) s = .next t))

/-- A doorbell that passes the tests of R191 is counted and acted on, and one that fails the first of them is counted
there. At a host port that serves: a doorbell that fails one of the first four tests is dropped, counted by the first that
it fails, and sets DB_REJECT; WQ_TAIL that names entries already taken is ignored; one beyond the ring is counted in
DB_BAD_INDEX; another sets the tail, counts DB_ACCEPTED and starts a fetch; CQ_HEAD releases the slots before its index;
CQ_ARM does the same and, with INTR_EN 1, arms the queue; either is counted in DB_BAD_INDEX where its index is beyond what
has been written; the doorbells that one write combines are acted on in ascending address order; COAL_TIME fires an armed
queue and disarms it. At a port that does not serve, a doorbell changes nothing, and nor does COAL_TIME for a queue that is
not armed with its timer running. -/
def Obligations.Doorbells : Prop :=
  (∀ (h fn addr size : Nat) (v : BitVec 64) (k : Nat) (s t : State),
    hostUp s h = true → dbBad s 0 h fn addr size v = some k →
    t = qmgCause h 2 (inc (qmgCtr h k) s) →
    (s.pw.stopped = false → exec (.wqTail h fn addr size { value := v }) s = .next (follows t)) ∧
    (quiet s t = true → exec (.wqTail h fn addr size { value := v }) s = .next t)) ∧
  (∀ (h fn addr size : Nat) (v : BitVec 64) (k : Nat) (s t : State),
    hostUp s h = true → dbBad s 1 h fn addr size v = some k →
    t = qmgCause h 2 (inc (qmgCtr h k) s) →
    (s.pw.stopped = false → exec (.cqHead h fn addr size { value := v }) s = .next (follows t)) ∧
    (quiet s t = true → exec (.cqHead h fn addr size { value := v }) s = .next t)) ∧
  (∀ (h fn addr size : Nat) (v : BitVec 64) (k : Nat) (s t : State),
    hostUp s h = true → dbBad s 2 h fn addr size v = some k →
    t = qmgCause h 2 (inc (qmgCtr h k) s) →
    (s.pw.stopped = false → exec (.cqArm h fn addr size { value := v }) s = .next (follows t)) ∧
    (quiet s t = true → exec (.cqArm h fn addr size { value := v }) s = .next t)) ∧
  (∀ (h fn addr size : Nat) (v : BitVec 64) (more : List (Nat × BitVec 64)) (s t : State),
    hostUp s h = false →
    t = s →
    (s.pw.stopped = false → exec (.wqTail h fn addr size { value := v, more := more }) s = .next (follows t)) ∧
    (quiet s t = true → exec (.wqTail h fn addr size { value := v, more := more }) s = .next t)) ∧
  (∀ (h fn addr size : Nat) (v : BitVec 64) (more : List (Nat × BitVec 64)) (s t : State),
    hostUp s h = false →
    t = s →
    (s.pw.stopped = false → exec (.cqHead h fn addr size { value := v, more := more }) s = .next (follows t)) ∧
    (quiet s t = true → exec (.cqHead h fn addr size { value := v, more := more }) s = .next t)) ∧
  (∀ (h fn addr size : Nat) (v : BitVec 64) (more : List (Nat × BitVec 64)) (s t : State),
    hostUp s h = false →
    t = s →
    (s.pw.stopped = false → exec (.cqArm h fn addr size { value := v, more := more }) s = .next (follows t)) ∧
    (quiet s t = true → exec (.cqArm h fn addr size { value := v, more := more }) s = .next t)) ∧
  (∀ (h fn addr size : Nat) (v : BitVec 64) (more : List (Nat × BitVec 64)) (s t : State),
    hostUp s h = true →
    t = (more.foldl (fun l d => dbInsert (d.1, bitsN d.2.toNat 20 4, d.2) l) [(addr, 0, v)]).foldl (fun s d => dbOne h fn
        size d s) s →
    (s.pw.stopped = false → exec (.wqTail h fn addr size { value := v, more := more }) s = .next (follows t)) ∧
    (quiet s t = true → exec (.wqTail h fn addr size { value := v, more := more }) s = .next t)) ∧
  (∀ (h fn addr size : Nat) (v : BitVec 64) (more : List (Nat × BitVec 64)) (s t : State),
    hostUp s h = true →
    t = (more.foldl (fun l d => dbInsert (d.1, bitsN d.2.toNat 20 4, d.2) l) [(addr, 1, v)]).foldl (fun s d => dbOne h fn
        size d s) s →
    (s.pw.stopped = false → exec (.cqHead h fn addr size { value := v, more := more }) s = .next (follows t)) ∧
    (quiet s t = true → exec (.cqHead h fn addr size { value := v, more := more }) s = .next t)) ∧
  (∀ (h fn addr size : Nat) (v : BitVec 64) (more : List (Nat × BitVec 64)) (s t : State),
    hostUp s h = true →
    t = (more.foldl (fun l d => dbInsert (d.1, bitsN d.2.toNat 20 4, d.2) l) [(addr, 2, v)]).foldl (fun s d => dbOne h fn
        size d s) s →
    (s.pw.stopped = false → exec (.cqArm h fn addr size { value := v, more := more }) s = .next (follows t)) ∧
    (quiet s t = true → exec (.cqArm h fn addr size { value := v, more := more }) s = .next t)) ∧
  (∀ (h fn addr size : Nat) (v : BitVec 64) (s t : State),
    hostUp s h = true → dbBad s 1 h fn addr size v = none →
    2 ^ 31 ≤ ((cqOf s h (bitsN v.toNat 0 20)).written - w32 (bitsN v.toNat 32 32)).toNat →
    t = qmgCause h 2 (inc (qmgCtr h 5) s) →
    (s.pw.stopped = false → exec (.cqHead h fn addr size { value := v }) s = .next (follows t)) ∧
    (quiet s t = true → exec (.cqHead h fn addr size { value := v }) s = .next t)) ∧
  (∀ (h fn addr size : Nat) (v : BitVec 64) (s t : State),
    hostUp s h = true → dbBad s 2 h fn addr size v = none →
    2 ^ 31 ≤ ((cqOf s h (bitsN v.toNat 0 20)).written - w32 (bitsN v.toNat 32 32)).toNat →
    t = qmgCause h 2 (inc (qmgCtr h 5) s) →
    (s.pw.stopped = false → exec (.cqArm h fn addr size { value := v }) s = .next (follows t)) ∧
    (quiet s t = true → exec (.cqArm h fn addr size { value := v }) s = .next t)) ∧
  (∀ (h fn addr size : Nat) (v : BitVec 64) (s t : State),
    hostUp s h = true → dbBad s 0 h fn addr size v = none →
    2 ^ 31 ≤ (w32 (bitsN v.toNat 32 32) - (wqOf s h (bitsN v.toNat 0 20)).tail).toNat →
    t = s →
    (s.pw.stopped = false → exec (.wqTail h fn addr size { value := v }) s = .next (follows t)) ∧
    (quiet s t = true → exec (.wqTail h fn addr size { value := v }) s = .next t)) ∧
  (∀ (h fn addr size : Nat) (v : BitVec 64) (s t : State),
    hostUp s h = true → dbBad s 0 h fn addr size v = none →
    (w32 (bitsN v.toNat 32 32) - (wqOf s h (bitsN v.toNat 0 20)).tail).toNat < 2 ^ 31 →
    2 ^ (wqOf s h (bitsN v.toNat 0 20)).log < (w32 (bitsN v.toNat 32 32) - (wqOf s h (bitsN v.toNat 0 20)).head).toNat →
    t = qmgCause h 2 (inc (qmgCtr h 5) s) →
    (s.pw.stopped = false → exec (.wqTail h fn addr size { value := v }) s = .next (follows t)) ∧
    (quiet s t = true → exec (.wqTail h fn addr size { value := v }) s = .next t)) ∧
  (∀ (h fn addr size : Nat) (v : BitVec 64) (s t : State),
    hostUp s h = true → dbBad s 0 h fn addr size v = none →
    (w32 (bitsN v.toNat 32 32) - (wqOf s h (bitsN v.toNat 0 20)).tail).toNat < 2 ^ 31 →
    (w32 (bitsN v.toNat 32 32) - (wqOf s h (bitsN v.toNat 0 20)).head).toNat ≤ 2 ^ (wqOf s h (bitsN v.toNat 0 20)).log →
    t = startFetch h (bitsN v.toNat 0 20) (inc (qmgCtr h 0) (updWq h (bitsN v.toNat 0 20) (fun w => { w with
          tail := w32 (bitsN v.toNat 32 32) }) s)) →
    (s.pw.stopped = false → exec (.wqTail h fn addr size { value := v }) s = .next (follows t)) ∧
    (quiet s t = true → exec (.wqTail h fn addr size { value := v }) s = .next t)) ∧
  (∀ (h fn addr size : Nat) (v : BitVec 64) (s t : State),
    hostUp s h = true → dbBad s 1 h fn addr size v = none →
    ((cqOf s h (bitsN v.toNat 0 20)).written - w32 (bitsN v.toNat 32 32)).toNat < 2 ^ 31 →
    t = cqRelease h (bitsN v.toNat 0 20) (w32 (bitsN v.toNat 32 32)) (inc (qmgCtr h 0) s) →
    (s.pw.stopped = false → exec (.cqHead h fn addr size { value := v }) s = .next (follows t)) ∧
    (quiet s t = true → exec (.cqHead h fn addr size { value := v }) s = .next t)) ∧
  (∀ (h fn addr size : Nat) (v : BitVec 64) (s t : State),
    hostUp s h = true → dbBad s 2 h fn addr size v = none →
    ((cqOf s h (bitsN v.toNat 0 20)).written - w32 (bitsN v.toNat 32 32)).toNat < 2 ^ 31 →
    (cqOf (cqRelease h (bitsN v.toNat 0 20) (w32 (bitsN v.toNat 32 32)) (inc (qmgCtr h 0) s)) h (bitsN v.toNat 0
        20)).intrEn = false →
    t = cqRelease h (bitsN v.toNat 0 20) (w32 (bitsN v.toNat 32 32)) (inc (qmgCtr h 0) s) →
    (s.pw.stopped = false → exec (.cqArm h fn addr size { value := v }) s = .next (follows t)) ∧
    (quiet s t = true → exec (.cqArm h fn addr size { value := v }) s = .next t)) ∧
  (∀ (h fn addr size : Nat) (v : BitVec 64) (s t : State),
    hostUp s h = true → dbBad s 2 h fn addr size v = none →
    ((cqOf s h (bitsN v.toNat 0 20)).written - w32 (bitsN v.toNat 32 32)).toNat < 2 ^ 31 →
    (cqOf (cqRelease h (bitsN v.toNat 0 20) (w32 (bitsN v.toNat 32 32)) (inc (qmgCtr h 0) s)) h (bitsN v.toNat 0
        20)).intrEn = true →
    t = cqCheck h (bitsN v.toNat 0 20) (updCq h (bitsN v.toNat 0 20) (fun c => { c with
          armed := some (w32 (bitsN v.toNat 32 32)),
          timer := false }) (cqRelease h (bitsN v.toNat 0 20) (w32 (bitsN v.toNat 32 32)) (inc (qmgCtr h 0) s))) →
    (s.pw.stopped = false → exec (.cqArm h fn addr size { value := v }) s = .next (follows t)) ∧
    (quiet s t = true → exec (.cqArm h fn addr size { value := v }) s = .next t)) ∧
  (∀ (h cq : Nat) (s t : State),
    (cqOf s h cq).active = true → (cqOf s h cq).timer = true → (cqOf s h cq).armed.isSome = true → hostUsable s h = true →
    t = updCq h cq (fun c => { c with armed := none, timer := false }) (fireMsix h (cqOf s h cq).fn (cqOf s h cq).vec s) →
    (s.pw.stopped = false → exec (.cqCoalTimer h cq) s = .next (follows t)) ∧
    (quiet s t = true → exec (.cqCoalTimer h cq) s = .next t)) ∧
  (∀ (h cq : Nat) (s t : State),
    (cqOf s h cq).active = false ∨ (cqOf s h cq).timer = false ∨ (cqOf s h cq).armed = none ∨ hostUsable s h = false →
    t = s →
    (s.pw.stopped = false → exec (.cqCoalTimer h cq) s = .next (follows t)) ∧
    (quiet s t = true → exec (.cqCoalTimer h cq) s = .next t))

/-- Entries fetched are used in order, jobs are issued by turn, and completions are written into free slots. A fetch that
ends uses its entries in order and fetches again while entries are posted; one that could not be read counts a DMA error
and reads its head again; a re-read entry that is ready is taken, one that is not is read again, and one that is not ready
at its eighth read, 4 us after the first, ends the queue with NOT_READY. JOB_ISSUE meters what has come to issue and counts
the receives that must wait, and then issues a green job, else a fired job, else the head of the queue whose turn it is,
and nothing where none of these is. ASSURED_WAIT_REMETER meters again a request of the queue that waits, once the peak
bucket holds it: green, it takes its ARRIVAL and its DEADLINE and counts; yellow, it is marked, counted and raises its
cause. A completion that may be written goes into the next slot with its PHASE, is counted, leaves its queue's order, and
may fill the CQ and fire its interrupt; with the CQ full, or none ready, nothing is written. The head is written back where
it has advanced; a drained queue becomes ABSENT and its QUEUE_DESTROY completes; ENABLE of QMG_PCQ_CFG and QMG_PQ_CFG makes
CQ 0 and queue 0 from their registers, is refused with a cause where they cannot be made, and clearing it drops CQ 0 and
drains queue 0. -/
def Obligations.FetchingAndIssue : Prop :=
  (∀ (h q : Nat) (es : List (List Word)) (s t : State),
    (wqOf s h q).st = .active → dmaHeld s h (.queue q) = false → hostUsable s h = true → (wqOf s h q).fetching = true →
    (wqOf s h q).rereads = 0 →
    t = startFetch h q (takeAll h q es (updWq h q (fun w => { w with reads := 0 }) s)) →
    (s.pw.stopped = false → exec (.wqeFetchDone h q (some es)) s = .next (follows t)) ∧
    (quiet s t = true → exec (.wqeFetchDone h q (some es)) s = .next t)) ∧
  (∀ (h q : Nat) (s t : State),
    (wqOf s h q).st = .active → dmaHeld s h (.queue q) = false → hostUsable s h = true → (wqOf s h q).fetching = true →
    (wqOf s h q).rereads = 0 →
    t = rereadHead h q (updWq h q (fun w => { w with rereads := 1, rereadAt := s.time.now }) (dmaErr h (updWq h q (fun w
        => { w with reads := 0 }) s))) →
    (s.pw.stopped = false → exec (.wqeFetchDone h q none) s = .next (follows t)) ∧
    (quiet s t = true → exec (.wqeFetchDone h q none) s = .next t)) ∧
  (∀ (h q : Nat) (es : Option (List (List Word))) (s t : State),
    (wqOf s h q).st ≠ .active ∨ (wqOf s h q).fetching = false ∨ (wqOf s h q).rereads ≠ 0 ∨ dmaHeld s h (.queue q) = true ∨
        hostUsable s h = false →
    t = s →
    (s.pw.stopped = false → exec (.wqeFetchDone h q es) s = .next (follows t)) ∧
    (quiet s t = true → exec (.wqeFetchDone h q es) s = .next t)) ∧
  (∀ (h q : Nat) (e : List Word) (s t : State),
    (wqOf s h q).st = .active → dmaHeld s h (.queue q) = false → hostUsable s h = true → (wqOf s h q).rereads ≠ 0 →
    entryReady (wqOf s h q) (wqOf s h q).head e = true → fetchedIn s (boleOf h) < 8192 →
    t = startFetch h q (updWq h q (fun w => { w with fetching := false }) (takeEntry h q e (updWq h q (fun w => { w with
          rereads := 0 }) (updWq h q (fun w => { w with reads := 0 }) s)))) →
    (s.pw.stopped = false → exec (.wqeRefetch h q (some e)) s = .next (follows t)) ∧
    (quiet s t = true → exec (.wqeRefetch h q (some e)) s = .next t)) ∧
  (∀ (h q : Nat) (e : List Word) (s t : State),
    (wqOf s h q).st = .active → dmaHeld s h (.queue q) = false → hostUsable s h = true → (wqOf s h q).rereads ≠ 0 →
    entryReady (wqOf s h q) (wqOf s h q).head e = true → 8192 ≤ fetchedIn s (boleOf h) →
    t = startFetch h q (updWq h q (fun w => { w with fetching := false }) (updWq h q (fun w => { w with rereads := 0 })
        (updWq h q (fun w => { w with reads := 0 }) s))) →
    (s.pw.stopped = false → exec (.wqeRefetch h q (some e)) s = .next (follows t)) ∧
    (quiet s t = true → exec (.wqeRefetch h q (some e)) s = .next t)) ∧
  (∀ (h q : Nat) (s t : State),
    (wqOf s h q).st = .active → dmaHeld s h (.queue q) = false → hostUsable s h = true → (wqOf s h q).rereads ≠ 0 →
    (wqOf s h q).rereads < 7 ∨ s.time.now < (wqOf s h q).rereadAt + 4000 →
    t = rereadHead h q (updWq h q (fun w => { w with rereads := w.rereads + 1 }) (dmaErr h (updWq h q (fun w => { w with
          reads := 0 }) s))) →
    (s.pw.stopped = false → exec (.wqeRefetch h q none) s = .next (follows t)) ∧
    (quiet s t = true → exec (.wqeRefetch h q none) s = .next t)) ∧
  (∀ (h q : Nat) (s t : State),
    (wqOf s h q).st = .active → dmaHeld s h (.queue q) = false → hostUsable s h = true → 7 ≤ (wqOf s h q).rereads →
    (wqOf s h q).rereadAt + 4000 ≤ s.time.now →
    t = queueError h q 6 [[]] (updWq h q (fun w => { w with rereads := w.rereads + 1 }) (dmaErr h (updWq h q (fun w => { w
        with reads := 0 }) s))) →
    (s.pw.stopped = false → exec (.wqeRefetch h q none) s = .next (follows t)) ∧
    (quiet s t = true → exec (.wqeRefetch h q none) s = .next t)) ∧
  (∀ (h q : Nat) (e : Option (List Word)) (s t : State),
    (wqOf s h q).st ≠ .active ∨ (wqOf s h q).rereads = 0 ∨ dmaHeld s h (.queue q) = true ∨ hostUsable s h = false →
    t = s →
    (s.pw.stopped = false → exec (.wqeRefetch h q e) s = .next (follows t)) ∧
    (quiet s t = true → exec (.wqeRefetch h q e) s = .next t)) ∧
  (∀ (h q : Nat) (e : List Word) (s t : State),
    (wqOf s h q).st = .active → dmaHeld s h (.queue q) = false → hostUsable s h = true → (wqOf s h q).rereads ≠ 0 →
    (wqOf s h q).rereads < 7 ∨ s.time.now < (wqOf s h q).rereadAt + 4000 →
    entryReady (wqOf s h q) (wqOf s h q).head e = false →
    t = rereadHead h q (updWq h q (fun w => { w with rereads := w.rereads + 1 }) (updWq h q (fun w => { w with
          reads := 0 }) s)) →
    (s.pw.stopped = false → exec (.wqeRefetch h q (some e)) s = .next (follows t)) ∧
    (quiet s t = true → exec (.wqeRefetch h q (some e)) s = .next t)) ∧
  (∀ (h q : Nat) (e : List Word) (s t : State),
    (wqOf s h q).st = .active → dmaHeld s h (.queue q) = false → hostUsable s h = true → 7 ≤ (wqOf s h q).rereads →
    entryReady (wqOf s h q) (wqOf s h q).head e = false → (wqOf s h q).rereadAt + 4000 ≤ s.time.now →
    t = queueError h q 6 [[]] (updWq h q (fun w => { w with rereads := w.rereads + 1 }) (updWq h q (fun w => { w with
          reads := 0 }) s)) →
    (s.pw.stopped = false → exec (.wqeRefetch h q (some e)) s = .next (follows t)) ∧
    (quiet s t = true → exec (.wqeRefetch h q (some e)) s = .next t)) ∧
  (∀ (h : Nat) (j : Job) (u : State) (s t : State),
    hostUp s h = true → u = countStalls h (meterHeads h s) → greenReady u h = some j →
    t = issueJob h j u →
    (s.pw.stopped = false → exec (.jobIssue h) s = .next (follows t)) ∧
    (quiet s t = true → exec (.jobIssue h) s = .next t)) ∧
  (∀ (h : Nat) (j : Job) (js : List Job) (u : State) (s t : State),
    hostUp s h = true → u = countStalls h (meterHeads h s) → greenReady u h = none → firedReady u h = j :: js →
    t = issueJob h j u →
    (s.pw.stopped = false → exec (.jobIssue h) s = .next (follows t)) ∧
    (quiet s t = true → exec (.jobIssue h) s = .next t)) ∧
  (∀ (h q : Nat) (j : Job) (u : State) (s t : State),
    hostUp s h = true → u = countStalls h (meterHeads h s) → greenReady u h = none → firedReady u h = [] →
    wrrNext u h = some q → (wqOf u h q).fetched.head? = some j →
    t = issueJob h j (updHost h (fun p => { p with
          wrrAt := q,
          wrrLeft := if q = (hport u h).wrrAt ∧ (hport u h).wrrLeft ≠ 0 then (hport u h).wrrLeft - 1 else (wqOf u h
            q).weight - 1 }) u) →
    (s.pw.stopped = false → exec (.jobIssue h) s = .next (follows t)) ∧
    (quiet s t = true → exec (.jobIssue h) s = .next t)) ∧
  (∀ (h : Nat) (u : State) (s t : State),
    hostUp s h = true → u = countStalls h (meterHeads h s) → greenReady u h = none → firedReady u h = [] →
    wrrNext u h = none →
    t = u →
    (s.pw.stopped = false → exec (.jobIssue h) s = .next (follows t)) ∧
    (quiet s t = true → exec (.jobIssue h) s = .next t)) ∧
  (∀ (h q : Nat) (j : Job) (d : List Word) (b : Meter) (s t : State),
    hostUp s h = true → headsOf s h = [j] → j.q = q → meterAgain s h j = true → injectResv s h j = some d →
    injectLen s h j ≤ fAt d 3 0 24 →
    meterRun (wAt d 1).toNat (wAt d 2).toNat (fAt d 3 0 24) (fAt d 4 0 24) (injectLen s h j) s.time.now (Maps.get {}
        s.net.meters (resvMeter h (fAt (Job.op j) 15 0 14))) = (.green, b) →
    t = setHead h { j with
          metered := true,
          stalled := false,
          asd := some (s.time.now % 2 ^ 48, (s.time.now % 2 ^ 48 + (wAt d 5).toNat) % 2 ^ 48, j.stalled) } (inc
        (asdHostCtr h 0) { s with net.meters := Maps.put {} s.net.meters (resvMeter h (fAt (Job.op j) 15 0 14)) b }) →
    (s.pw.stopped = false → exec (.assuredWaitRemeter h q) s = .next (follows t)) ∧
    (quiet s t = true → exec (.assuredWaitRemeter h q) s = .next t)) ∧
  (∀ (h q : Nat) (j : Job) (d : List Word) (b : Meter) (s t : State),
    hostUp s h = true → headsOf s h = [j] → j.q = q → meterAgain s h j = true → injectResv s h j = some d →
    injectLen s h j ≤ fAt d 3 0 24 →
    meterRun (wAt d 1).toNat (wAt d 2).toNat (fAt d 3 0 24) (fAt d 4 0 24) (injectLen s h j) s.time.now (Maps.get {}
        s.net.meters (resvMeter h (fAt (Job.op j) 15 0 14))) = (.yellow, b) →
    t = setHead h { j with metered := true, stalled := false, flags := j.flags ||| 1 } (asdHostCause h 1 (inc (asdHostCtr
        h 1) { s with net.meters := Maps.put {} s.net.meters (resvMeter h (fAt (Job.op j) 15 0 14)) b })) →
    (s.pw.stopped = false → exec (.assuredWaitRemeter h q) s = .next (follows t)) ∧
    (quiet s t = true → exec (.assuredWaitRemeter h q) s = .next t)) ∧
  (∀ (h q : Nat) (s t : State),
    (headsOf s h).all (fun j => j.q != q || !meterAgain s h j) = true →
    t = s →
    (s.pw.stopped = false → exec (.assuredWaitRemeter h q) s = .next (follows t)) ∧
    (quiet s t = true → exec (.assuredWaitRemeter h q) s = .next t)) ∧
  (∀ (h cq : Nat) (x : Comp) (ws : List Word) (e u v : State) (s t : State),
    hostUp s h = true → (cqOf s h cq).active = true → cqFull s h cq = false →
    (hport s h).comps.find? (compReady s h cq) = some x →
    meetDie (boleOf h) (eccComp h) (if x.q = 2 ^ 20 then 2 ^ 32 else x.job) s = (e, true) →
    ws = x.words.set 7 (wAt x.words 7 ||| pack [(31, 1, phaseOf (cqOf s h cq).log (cqOf s h cq).written)]) →
    u = uncover h x.job false (updWq h x.q (fun w => { w with order := w.order.filter (· ≠ x.job) }) (updHost h (fun p =>
        { p with comps := p.comps.erase x }) (emit (.cqe h cq (cqOf s h cq).written ws) (hostWr h (cqOf s h cq).fn ((cqOf
        s h cq).base + 32 * ((cqOf s h cq).written.toNat % 2 ^ (cqOf s h cq).log)) (wBytes ws) false e)))) →
    v = inc (qmgCtr h 10) (updCq h cq (fun c => { c with written := c.written + 1 }) u) →
    t = cqCheck h cq (if cqFull v h cq then qmgCause h 1 (inc (qmgCtr h 11) (updCq h cq (fun c => { c with
          full := true }) v)) else v) →
    (s.pw.stopped = false → exec (.completionWrite h cq) s = .next (follows t)) ∧
    (quiet s t = true → exec (.completionWrite h cq) s = .next t)) ∧
  (∀ (h cq : Nat) (x : Comp) (e : State) (s t : State),
    hostUp s h = true → (cqOf s h cq).active = true → cqFull s h cq = false →
    (hport s h).comps.find? (compReady s h cq) = some x →
    meetDie (boleOf h) (eccComp h) (if x.q = 2 ^ 20 then 2 ^ 32 else x.job) s = (e, false) →
    t = e →
    (s.pw.stopped = false → exec (.completionWrite h cq) s = .next (follows t)) ∧
    (quiet s t = true → exec (.completionWrite h cq) s = .next t)) ∧
  (∀ (h cq : Nat) (s t : State),
    hostUp s h = false ∨ (cqOf s h cq).active = false ∨ cqFull s h cq = true ∨ (hport s h).comps.find? (compReady s h cq)
        = none →
    t = s →
    (s.pw.stopped = false → exec (.completionWrite h cq) s = .next (follows t)) ∧
    (quiet s t = true → exec (.completionWrite h cq) s = .next t)) ∧
  (∀ (h q : Nat) (s t : State),
    (wqOf s h q).st ≠ .absent → hostUsable s h = true → (wqOf s h q).headWb ≠ 0 →
    (wqOf s h q).wbHead ≠ (wqOf s h q).head →
    t = updWq h q (fun w => { w with wbHead := w.head }) (hostWr h (wqOf s h q).fn (wqOf s h q).headWb (leBytes 8 (wqOf s
        h q).head.toNat) false s) →
    (s.pw.stopped = false → exec (.headWritebackTimer h q) s = .next (follows t)) ∧
    (quiet s t = true → exec (.headWritebackTimer h q) s = .next t)) ∧
  (∀ (h q : Nat) (s t : State),
    (wqOf s h q).st = .absent ∨ hostUsable s h = false ∨ (wqOf s h q).headWb = 0 ∨ (wqOf s h q).wbHead = (wqOf s h q).head →
    t = s →
    (s.pw.stopped = false → exec (.headWritebackTimer h q) s = .next (follows t)) ∧
    (quiet s t = true → exec (.headWritebackTimer h q) s = .next t)) ∧
  (∀ (h q : Nat) (j : Job) (u : State) (s t : State),
    queueDrained s h q = true → hostUp s h = true → (wqOf s h q).destroy.bind (jobOf (writeBack h q s) h) = some j →
    u = releaseComps h q (wqOf s h q).destroy (finishJob h j 0 0 0 (writeBack h q s)) →
    t = { u with hs.wqs := Maps.erase (objKey 20 h q) u.hs.wqs } →
    (s.pw.stopped = false → exec (.queueDrainDone h q) s = .next (follows t)) ∧
    (quiet s t = true → exec (.queueDrainDone h q) s = .next t)) ∧
  (∀ (h q : Nat) (s t : State),
    queueDrained s h q = false ∨ hostUp s h = false →
    t = s →
    (s.pw.stopped = false → exec (.queueDrainDone h q) s = .next (follows t)) ∧
    (quiet s t = true → exec (.queueDrainDone h q) s = .next t)) ∧
  (∀ (h : Nat) (v : Word) (u : State) (who : Requester) (e : State) (s t : State),
    e = (if domOn s (dMem (boleOf h)) then performAll (boleOf h) (identOf h who.id who.tc) s else s) → hostUp e h = true →
    bitW (barR e (hostKey h 0 0x10018) 0x24) 17 = false → bitW v 17 = true → 4 ≤ fld v 0 5 → fld v 0 5 ≤ 20 →
    u = barSet (hostKey h 0 0x10018) (v &&& 0x3FFFF) e → (cqOf u h 0).active = false →
    t = setCq h 0
        { active := true, base := (barR u (hostKey h 0 0x10014) 0).toNat * 2 ^ 32 + (barR u (hostKey h 0 0x10010)
            0).toNat, log := fld v 0 5, vec := fld v 5 11, intrEn := bitW v 16 } u →
    (s.pw.stopped = false → exec (.qmgPcqCfgEnable h v who) s = .next (follows t)) ∧
    (quiet s t = true → exec (.qmgPcqCfgEnable h v who) s = .next t)) ∧
  (∀ (h : Nat) (v : Word) (u : State) (who : Requester) (e : State) (s t : State),
    e = (if domOn s (dMem (boleOf h)) then performAll (boleOf h) (identOf h who.id who.tc) s else s) → hostUp e h = true →
    bitW (barR e (hostKey h 0 0x10018) 0x24) 17 = false → bitW v 17 = true →
    u = barSet (hostKey h 0 0x10018) (v &&& 0x3FFFF) e → fld v 0 5 < 4 ∨ 20 < fld v 0 5 ∨ (cqOf u h 0).active = true →
    t = qmgCause h 0 u →
    (s.pw.stopped = false → exec (.qmgPcqCfgEnable h v who) s = .next (follows t)) ∧
    (quiet s t = true → exec (.qmgPcqCfgEnable h v who) s = .next t)) ∧
  (∀ (h : Nat) (v : Word) (u : State) (who : Requester) (e : State) (s t : State),
    e = (if domOn s (dMem (boleOf h)) then performAll (boleOf h) (identOf h who.id who.tc) s else s) → hostUp e h = true →
    bitW (barR e (hostKey h 0 0x10018) 0x24) 17 = true → bitW v 17 = false →
    u = barSet (hostKey h 0 0x10018) (v &&& 0x3FFFF) e → (cqOf u h 0).active = true →
    t = dropCq h 0 u →
    (s.pw.stopped = false → exec (.qmgPcqCfgEnable h v who) s = .next (follows t)) ∧
    (quiet s t = true → exec (.qmgPcqCfgEnable h v who) s = .next t)) ∧
  (∀ (h : Nat) (v : Word) (u : State) (who : Requester) (e : State) (s t : State),
    e = (if domOn s (dMem (boleOf h)) then performAll (boleOf h) (identOf h who.id who.tc) s else s) → hostUp e h = true →
    bitW (barR e (hostKey h 0 0x10008) 4) 8 = false → bitW v 8 = true → 4 ≤ fld v 0 5 → fld v 0 5 ≤ 16 →
    u = barSet (hostKey h 0 0x10008) (v &&& 0x11F) e → (cqOf u h 0).active = true → (wqOf u h 0).st = .absent →
    t = setWq h 0
        { st := .active, base := (barR u (hostKey h 0 0x10004) 0).toNat * 2 ^ 32 + (barR u (hostKey h 0 0x10000) 0).toNat,
            cq := 0, log := fld v 0 5, priv := true, qbase := 0, qcount := 2 ^ 20 } u →
    (s.pw.stopped = false → exec (.qmgPqCfgEnable h v who) s = .next (follows t)) ∧
    (quiet s t = true → exec (.qmgPqCfgEnable h v who) s = .next t)) ∧
  (∀ (h : Nat) (v : Word) (u : State) (who : Requester) (e : State) (s t : State),
    e = (if domOn s (dMem (boleOf h)) then performAll (boleOf h) (identOf h who.id who.tc) s else s) → hostUp e h = true →
    bitW (barR e (hostKey h 0 0x10008) 4) 8 = false → bitW v 8 = true → u = barSet (hostKey h 0 0x10008) (v &&& 0x11F) e →
    fld v 0 5 < 4 ∨ 16 < fld v 0 5 ∨ (cqOf u h 0).active = false ∨ (wqOf u h 0).st ≠ .absent →
    t = qmgCause h 0 u →
    (s.pw.stopped = false → exec (.qmgPqCfgEnable h v who) s = .next (follows t)) ∧
    (quiet s t = true → exec (.qmgPqCfgEnable h v who) s = .next t)) ∧
  (∀ (h : Nat) (v : Word) (u : State) (who : Requester) (e : State) (s t : State),
    e = (if domOn s (dMem (boleOf h)) then performAll (boleOf h) (identOf h who.id who.tc) s else s) → hostUp e h = true →
    bitW (barR e (hostKey h 0 0x10008) 4) 8 = true → bitW v 8 = false → u = barSet (hostKey h 0 0x10008) (v &&& 0x11F) e →
    (wqOf u h 0).st = .active ∨ (wqOf u h 0).st = .error →
    t = drainQueue h 0 none u →
    (s.pw.stopped = false → exec (.qmgPqCfgEnable h v who) s = .next (follows t)) ∧
    (quiet s t = true → exec (.qmgPqCfgEnable h v who) s = .next t)) ∧
  (∀ (h : Nat) (v : Word) (who : Requester) (e : State) (s t : State),
    e = (if domOn s (dMem (boleOf h)) then performAll (boleOf h) (identOf h who.id who.tc) s else s) →
    hostUp e h = false →
    t = e →
    (s.pw.stopped = false → exec (.qmgPcqCfgEnable h v who) s = .next (follows t)) ∧
    (quiet s t = true → exec (.qmgPcqCfgEnable h v who) s = .next t)) ∧
  (∀ (h : Nat) (v : Word) (who : Requester) (e : State) (s t : State),
    e = (if domOn s (dMem (boleOf h)) then performAll (boleOf h) (identOf h who.id who.tc) s else s) →
    hostUp e h = false →
    t = e →
    (s.pw.stopped = false → exec (.qmgPqCfgEnable h v who) s = .next (follows t)) ∧
    (quiet s t = true → exec (.qmgPqCfgEnable h v who) s = .next t))

/-- A host port trains, comes up, is cleaned up when its link goes, and resets functions. PERST_N released at a port in
RESET once the firmware is verified starts training, and elsewhere changes the pin alone; a link at x4 or wider takes
TRAINING to NOT_READY and then, with the engines ON, to UP, noting LINK_SLOW where it settled slow or narrow, and one that
is narrower changes nothing; PERST_N asserted or a link lost cleans the port up, and outside TRAINING counts and raises
LINK_DOWN; a link lost with PERST_N deasserted, in TRAINING too, also counts and raises SURPRISE unless it was a hot reset
(logs 14, 22, 74, 75); the end of cleanup goes to TRAINING or RESET by the pin; a Function Level Reset of a VF counts and
cleans up that function, one of the PF all functions, and the loss of VF Enable all VFs, the latter two leaving no VF
enabled; a host read that returns lets its client go on, and one that no client waits for changes nothing. With the clocks
stopped only PERST_N itself changes. -/
def Obligations.HostPortLife : Prop :=
  (∀ (h : Nat) (s t : State),
    s.pw.stopped = false → (hport s h).st = .reset → fwVerified s = true →
    t = updHost h (fun p => { p with st := .training }) (updHost h (fun p => { p with perst := false }) s) →
    exec (.perstDeassert h) s = .next (follows t) ∧
    (quiet s t = true → exec (.perstDeassert h) s = .next t)) ∧
  (∀ (h : Nat) (s t : State),
    s.pw.stopped = true ∨ (hport s h).st ≠ .reset ∨ fwVerified s = false →
    t = updHost h (fun p => { p with perst := false }) s →
    exec (.perstDeassert h) s = .next (follows t) ∧
    (quiet s t = true → exec (.perstDeassert h) s = .next t)) ∧
  (∀ (h : Nat) (s t : State),
    h < 4 → s.pw.stopped = false → (hport s h).st = .up ∨ (hport s h).st = .notReady →
    t = updHost h (fun p => { p with st := .cleanup, rate := 0, width := 0, numVfs := 0 }) (cleanPort h (hptCause h 0 (inc
        (hptCtr h 0) (updHost h (fun p => { p with removed := true }) (updHost h (fun p => { p with perst := true })
        s))))) →
    exec (.perstAssert h) s = .next (follows t) ∧
    (quiet s t = true → exec (.perstAssert h) s = .next t)) ∧
  (∀ (h : Nat) (s t : State),
    h < 4 → s.pw.stopped = false → (hport s h).st = .training →
    t = updHost h (fun p => { p with st := .cleanup, rate := 0, width := 0, numVfs := 0 }) (cleanPort h (updHost h (fun p
        => { p with perst := true }) s)) →
    exec (.perstAssert h) s = .next (follows t) ∧
    (quiet s t = true → exec (.perstAssert h) s = .next t)) ∧
  (∀ (h : Nat) (s t : State),
    h < 4 → s.pw.stopped = true ∨ (hport s h).st = .off ∨ (hport s h).st = .reset ∨ (hport s h).st = .cleanup →
    t = updHost h (fun p => { p with perst := true }) s →
    exec (.perstAssert h) s = .next (follows t) ∧
    (quiet s t = true → exec (.perstAssert h) s = .next t)) ∧
  (∀ (h rate width : Nat) (s t : State),
    (hport s h).st = .training → s.pw.hostRefOk.getLsbD h = true → 4 ≤ width → 4 ≤ rate → 16 ≤ width →
    t = hostReady h (updHost h (fun p => { p with
          st := .notReady,
          rate := BitVec.ofNat 4 rate,
          width := BitVec.ofNat 5 width }) s) →
    (s.pw.stopped = false → exec (.hostLinkUp h rate width) s = .next (follows t)) ∧
    (quiet s t = true → exec (.hostLinkUp h rate width) s = .next t)) ∧
  (∀ (h rate width : Nat) (s t : State),
    (hport s h).st = .training → s.pw.hostRefOk.getLsbD h = true → 4 ≤ width → rate < 4 ∨ width < 16 →
    t = hostReady h (hptCause h 1 (updHost h (fun p => { p with
          st := .notReady,
          rate := BitVec.ofNat 4 rate,
          width := BitVec.ofNat 5 width }) s)) →
    (s.pw.stopped = false → exec (.hostLinkUp h rate width) s = .next (follows t)) ∧
    (quiet s t = true → exec (.hostLinkUp h rate width) s = .next t)) ∧
  (∀ (h rate width : Nat) (s t : State),
    (hport s h).st ≠ .training ∨ width < 4 ∨ s.pw.hostRefOk.getLsbD h = false →
    t = s →
    (s.pw.stopped = false → exec (.hostLinkUp h rate width) s = .next (follows t)) ∧
    (quiet s t = true → exec (.hostLinkUp h rate width) s = .next t)) ∧
  (∀ (h : Nat) (s t : State),
    (hport s h).perst = false → (hport s h).st = .up ∨ (hport s h).st = .notReady →
    t = updHost h (fun p => { p with st := .cleanup, rate := 0, width := 0, numVfs := 0 }) (cleanPort h (hptCause h 4 (inc
        (hptCtr h 1) (hptCause h 0 (inc (hptCtr h 0) (updHost h (fun p => { p with removed := true }) s)))))) →
    (s.pw.stopped = false → exec (.hostLinkDown h false) s = .next (follows t)) ∧
    (quiet s t = true → exec (.hostLinkDown h false) s = .next t)) ∧
  (∀ (h : Nat) (s t : State),
    (hport s h).perst = false → (hport s h).st = .training →
    t = updHost h (fun p => { p with st := .cleanup, rate := 0, width := 0, numVfs := 0 }) (cleanPort h (hptCause h 4 (inc
        (hptCtr h 1) s))) →
    (s.pw.stopped = false → exec (.hostLinkDown h false) s = .next (follows t)) ∧
    (quiet s t = true → exec (.hostLinkDown h false) s = .next t)) ∧
  (∀ (h : Nat) (hot : Bool) (s t : State),
    hot = true ∨ (hport s h).perst = true → (hport s h).st = .up ∨ (hport s h).st = .notReady →
    t = updHost h (fun p => { p with st := .cleanup, rate := 0, width := 0, numVfs := 0 }) (cleanPort h (hptCause h 0 (inc
        (hptCtr h 0) (updHost h (fun p => { p with removed := true }) s)))) →
    (s.pw.stopped = false → exec (.hostLinkDown h hot) s = .next (follows t)) ∧
    (quiet s t = true → exec (.hostLinkDown h hot) s = .next t)) ∧
  (∀ (h : Nat) (hot : Bool) (s t : State),
    hot = true ∨ (hport s h).perst = true → (hport s h).st = .training →
    t = updHost h (fun p => { p with st := .cleanup, rate := 0, width := 0, numVfs := 0 }) (cleanPort h s) →
    (s.pw.stopped = false → exec (.hostLinkDown h hot) s = .next (follows t)) ∧
    (quiet s t = true → exec (.hostLinkDown h hot) s = .next t)) ∧
  (∀ (h : Nat) (hot : Bool) (s t : State),
    (hport s h).st = .off ∨ (hport s h).st = .reset ∨ (hport s h).st = .cleanup →
    t = s →
    (s.pw.stopped = false → exec (.hostLinkDown h hot) s = .next (follows t)) ∧
    (quiet s t = true → exec (.hostLinkDown h hot) s = .next t)) ∧
  (∀ (h : Nat) (s t : State),
    (hport s h).st = .cleanup →
    t = updHost h (fun p => { p with st := if p.perst then .reset else .training }) s →
    (s.pw.stopped = false → exec (.hostCleanupDone h) s = .next (follows t)) ∧
    (quiet s t = true → exec (.hostCleanupDone h) s = .next t)) ∧
  (∀ (h : Nat) (s t : State),
    (hport s h).st ≠ .cleanup →
    t = s →
    (s.pw.stopped = false → exec (.hostCleanupDone h) s = .next (follows t)) ∧
    (quiet s t = true → exec (.hostCleanupDone h) s = .next t)) ∧
  (∀ (h fn : Nat) (s t : State),
    (hport s h).st = .up → fn ≠ 0 →
    t = cleanup { h := h, fns := fun f => f == fn, all := false, pf := false } (inc (hptCtr h 2) s) →
    (s.pw.stopped = false → exec (.flr h fn false) s = .next (follows t)) ∧
    (quiet s t = true → exec (.flr h fn false) s = .next t)) ∧
  (∀ (h : Nat) (s t : State),
    (hport s h).st = .up →
    t = updHost h (fun p => { p with numVfs := 0 }) (cleanup { h := h, fns := fun _ => true, all := false, pf := true }
        (inc (hptCtr h 2) s)) →
    (s.pw.stopped = false → exec (.flr h 0 false) s = .next (follows t)) ∧
    (quiet s t = true → exec (.flr h 0 false) s = .next t)) ∧
  (∀ (h fn : Nat) (s t : State),
    (hport s h).st = .up →
    t = updHost h (fun p => { p with numVfs := 0 }) (cleanup { h := h, fns := fun f => f != 0, all := false, pf := false }
        s) →
    (s.pw.stopped = false → exec (.flr h fn true) s = .next (follows t)) ∧
    (quiet s t = true → exec (.flr h fn true) s = .next t)) ∧
  (∀ (h fn : Nat) (vfs : Bool) (s t : State),
    (hport s h).st ≠ .up →
    t = s →
    (s.pw.stopped = false → exec (.flr h fn vfs) s = .next (follows t)) ∧
    (quiet s t = true → exec (.flr h fn vfs) s = .next t)) ∧
  (∀ (h id fn a l : Nat) (slot : Bool) (m : HostView) (w : Wait) (s t : State),
    dmaHeld s h (.wait id) = false → (hport s h).waits.find? (fun w => w.id == id) = some w → w.need = .read fn a l slot →
    t = runClient h w.client (viewOf m s) s →
    (s.pw.stopped = false → exec (.hostDmaReadDone h id m) s = .next (follows t)) ∧
    (quiet s t = true → exec (.hostDmaReadDone h id m) s = .next t)) ∧
  (∀ (h id fn a l ck pg x first pages : Nat) (at_ : Bool) (m : HostView) (w : Wait) (s t : State),
    dmaHeld s h (.wait id) = false → (hport s h).waits.find? (fun w => w.id == id) = some w →
    w.need = .data fn a l ck pg at_ x first pages →
    t = runClient h w.client { viewOf m s with held := some (ck, pg, a / 4096 * 4096, first, pages) } s →
    (s.pw.stopped = false → exec (.hostDmaReadDone h id m) s = .next (follows t)) ∧
    (quiet s t = true → exec (.hostDmaReadDone h id m) s = .next t)) ∧
  (∀ (h id : Nat) (m : HostView) (s t : State),
    (hport s h).waits.find? (fun w => w.id == id) = none →
    t = s →
    (s.pw.stopped = false → exec (.hostDmaReadDone h id m) s = .next (follows t)) ∧
    (quiet s t = true → exec (.hostDmaReadDone h id m) s = .next t))

/-- Translation contexts and memory regions are made, removed and invalidated by the privileged jobs. From the row of an
issued job that has not begun: XCTX_CREATE of an unused number with a good descriptor installs the context, and of a number
in use is MALFORMED with DETAIL 9; XCTX_DESTROY of an owned context that no region names removes it and every translation
of it, of one that a region names is MALFORMED with DETAIL 9, and of one that is not there with DETAIL 10; MR_REGISTER of a
region that the queue may act on flushes the cached descriptor and registers a good one, and one without its VALID bit is
MALFORMED with DETAIL 8; MR_INVALIDATE flushes it and removes the region, and finishes when no access through it is in
flight; an index beyond the table is MALFORMED with DETAIL 10 (the model's choice, log 63), and a region of a function that
the queue may not act for with DETAIL 2; INVALIDATE of a context that the queue owns, of a range of its pages or of the
function's contexts counts, begins at its own Bole, and of broadcast contexts is sent to the other Bole where that can be
reached. A row at a host port that does not serve, or that names no issued job which has not begun, changes nothing. -/
def Obligations.ContextsAndRegions : Prop :=
  (∀ (h q : Nat) (i : Word) (m : HostView) (j : Job) (d : List Word) (s t : State),
    hostUp s h = true → freshJob s h q i 80 = some j →
    (xctxOf (updJob h j.id (fun k => { k with begun := true }) s) (fAt (Job.op j) 11 12 2) (fAt (Job.op j) 11 0
        12)).active = false →
    rdWords h (wqOf (updJob h j.id (fun k => { k with begun := true }) s) h j.q).fn (viewOf m s) (u64 (Job.op j) 4) 8
        (updJob h j.id (fun k => { k with begun := true }) s) = (.ok d, (updJob h j.id (fun k => { k with
          begun := true }) s)) →
    mayActFor (wqOf (updJob h j.id (fun k => { k with begun := true }) s) h j.q) (fAt d 3 0 8) = true → fAt d 0 0 12 = 0 →
    fAt d 2 2 4 / 2 ^ fAt (Job.op j) 11 12 2 % 2 = 1 →
    bAt d 2 0 = true ∨ (fAt d 2 2 4 = 2 ^ fAt (Job.op j) 11 12 2 ∧ bAt d 2 6 = false) →
    fAt d 3 0 8 = 0 ∨ (fAt (Job.op j) 11 12 2 = h ∧ fAt d 2 2 4 = 2 ^ h) →
    t = finishJob h ({ j with begun := true }) 0 0 0 { (updJob h j.id (fun k => { k with begun := true }) s) with
          hs.xctx := Maps.put {} ((updJob h j.id (fun k => { k with begun := true }) s)).hs.xctx (objKey 12 (fAt (Job.op
            j) 11 12 2) (fAt (Job.op j) 11 0 12))
            { active := true, root := u64 d 0, bcast := bAt d 2 0, adEn := bAt d 2 1, share := BitVec.ofNat 4 (fAt d 2 2
                4), trig := bAt d 2 6, fn := fAt d 3 0 8 } } →
    (s.pw.stopped = false → exec (.xctxCreate h q i m) s = .next (follows t)) ∧
    (quiet s t = true → exec (.xctxCreate h q i m) s = .next t)) ∧
  (∀ (h q : Nat) (i : Word) (j : Job) (s t : State),
    hostUp s h = true → freshJob s h q i 81 = some j →
    (xctxOf (updJob h j.id (fun k => { k with begun := true }) s) (fAt (Job.op j) 11 12 2) (fAt (Job.op j) 11 0
        12)).active = true →
    (xctxOf (updJob h j.id (fun k => { k with begun := true }) s) (fAt (Job.op j) 11 12 2) (fAt (Job.op j) 11 0
        12)).share.getLsbD h = true →
    ownsCtx (wqOf (updJob h j.id (fun k => { k with begun := true }) s) h j.q) h (fAt (Job.op j) 11 12 2) (xctxOf (updJob
        h j.id (fun k => { k with begun := true }) s) (fAt (Job.op j) 11 12 2) (fAt (Job.op j) 11 0 12)) = true →
    ctxNamed (updJob h j.id (fun k => { k with begun := true }) s) (fAt (Job.op j) 11 12 2) (fAt (Job.op j) 11 0 12) =
        false →
    t = finishJob h ({ j with begun := true }) 0 0 0 (dropCtx (fAt (Job.op j) 11 12 2) (fAt (Job.op j) 11 0 12) (updJob h
        j.id (fun k => { k with begun := true }) s)) →
    (s.pw.stopped = false → exec (.xctxDestroy h q i) s = .next (follows t)) ∧
    (quiet s t = true → exec (.xctxDestroy h q i) s = .next t)) ∧
  (∀ (h q : Nat) (i : Word) (m : HostView) (j : Job) (d : List Word) (s t : State),
    hostUp s h = true → freshJob s h q i 82 = some j →
    fAt (Job.op j) 11 0 24 < 2 ^ mrtLog (updJob h j.id (fun k => { k with begun := true }) s) h →
    mayRegion (updJob h j.id (fun k => { k with begun := true }) s) h ({ j with begun := true }) (fAt (Job.op j) 11 0 24)
        = true →
    rdWords h 0 (viewOf m s) (mrtBase (updJob h j.id (fun k => { k with begun := true }) s) h + 64 * fAt (Job.op j) 11 0
        24) 16 (flushRegion h (fAt (Job.op j) 11 0 24) (updJob h j.id (fun k => { k with begun := true }) s)) = (.ok d,
        (flushRegion h (fAt (Job.op j) 11 0 24) (updJob h j.id (fun k => { k with begun := true }) s))) →
    bAt d 0 0 = true → u64 d 2 + u64 d 4 ≤ 2 ^ 48 →
    (bAt d 0 7 = false ∧ (regionXctx (flushRegion h (fAt (Job.op j) 11 0 24) (updJob h j.id (fun k => { k with
          begun := true }) s)) d).active = true ∧ (regionXctx (flushRegion h (fAt (Job.op j) 11 0 24) (updJob h j.id (fun
        k => { k with begun := true }) s)) d).share.getLsbD h = true) ∨ (bAt d 0 7 = true ∧ fAt d 0 16 8 = 0) →
    mayActFor (wqOf (flushRegion h (fAt (Job.op j) 11 0 24) (updJob h j.id (fun k => { k with begun := true }) s)) h j.q)
        (fAt d 0 16 8) = true →
    t = finishJob h ({ j with begun := true }) 0 0 0 { (flushRegion h (fAt (Job.op j) 11 0 24) (updJob h j.id (fun k => {
        k with begun := true }) s)) with
          hs.regions := Maps.put [] (flushRegion h (fAt (Job.op j) 11 0 24) (updJob h j.id (fun k => { k with
            begun := true }) s)).hs.regions (objKey 24 h (fAt (Job.op j) 11 0 24)) d } →
    (s.pw.stopped = false → exec (.mrRegister h q i m) s = .next (follows t)) ∧
    (quiet s t = true → exec (.mrRegister h q i m) s = .next t)) ∧
  (∀ (h q : Nat) (i : Word) (j : Job) (s t : State),
    hostUp s h = true → freshJob s h q i 83 = some j →
    fAt (Job.op j) 11 0 24 < 2 ^ mrtLog (updJob h j.id (fun k => { k with begun := true }) s) h →
    mayRegion (updJob h j.id (fun k => { k with begun := true }) s) h ({ j with begun := true }) (fAt (Job.op j) 11 0 24)
        = true →
    regionBusy (updJob h j.id (fun k => { k with begun := true }) s) h (fAt (Job.op j) 11 0 24) = false →
    t = finishJob h ({ j with begun := true }) 0 0 0 { (flushRegion h (fAt (Job.op j) 11 0 24) (updJob h j.id (fun k => {
        k with begun := true }) s)) with
          hs.regions := Maps.erase (objKey 24 h (fAt (Job.op j) 11 0 24)) (flushRegion h (fAt (Job.op j) 11 0 24) (updJob
            h j.id (fun k => { k with begun := true }) s)).hs.regions } →
    (s.pw.stopped = false → exec (.mrInvalidate h q i) s = .next (follows t)) ∧
    (quiet s t = true → exec (.mrInvalidate h q i) s = .next t)) ∧
  (∀ (h q : Nat) (i : Word) (j : Job) (s t : State),
    hostUp s h = true → freshJob s h q i 83 = some j →
    fAt (Job.op j) 11 0 24 < 2 ^ mrtLog (updJob h j.id (fun k => { k with begun := true }) s) h →
    mayRegion (updJob h j.id (fun k => { k with begun := true }) s) h ({ j with begun := true }) (fAt (Job.op j) 11 0 24)
        = true →
    regionBusy (updJob h j.id (fun k => { k with begun := true }) s) h (fAt (Job.op j) 11 0 24) = true →
    t = { (flushRegion h (fAt (Job.op j) 11 0 24) (updJob h j.id (fun k => { k with begun := true }) s)) with
          hs.regions := Maps.erase (objKey 24 h (fAt (Job.op j) 11 0 24)) (flushRegion h (fAt (Job.op j) 11 0 24) (updJob
            h j.id (fun k => { k with begun := true }) s)).hs.regions } →
    (s.pw.stopped = false → exec (.mrInvalidate h q i) s = .next (follows t)) ∧
    (quiet s t = true → exec (.mrInvalidate h q i) s = .next t)) ∧
  (∀ (h q : Nat) (i : Word) (j : Job) (bc : Bool) (lo hi : Nat) (iv : Inval) (u : State) (s t : State),
    hostUp s h = true → freshJob s h q i 84 = some j →
    Job.subop j = 3 ∨ ((xctxOf (updJob h j.id (fun k => { k with begun := true }) s) (fAt (Job.op j) 11 12 2) (fAt (Job.op
        j) 11 0 12)).active = true ∧ (xctxOf (updJob h j.id (fun k => { k with begun := true }) s) (fAt (Job.op j) 11 12
        2) (fAt (Job.op j) 11 0 12)).share.getLsbD h = true ∧ ownsCtx (wqOf (updJob h j.id (fun k => { k with
          begun := true }) s) h j.q) h (fAt (Job.op j) 11 12 2) (xctxOf (updJob h j.id (fun k => { k with
          begun := true }) s) (fAt (Job.op j) 11 12 2) (fAt (Job.op j) 11 0 12)) = true) →
    bc = (if Job.subop j = 3 then ((updJob h j.id (fun k => { k with begun := true }) s)).hs.xctx.any (fun e => e.1 / 2 ^
        12 == h && e.2.fn == (wqOf (updJob h j.id (fun k => { k with begun := true }) s) h j.q).fn && e.2.bcast) else
        (xctxOf (updJob h j.id (fun k => { k with begun := true }) s) (fAt (Job.op j) 11 12 2) (fAt (Job.op j) 11 0
        12)).bcast) →
    lo = (if Job.subop j = 1 then min (u64 (Job.op j) 4 / 4096 * 4096) (2 ^ 48) else 0) →
    hi = (if Job.subop j = 1 then min (roundUp (u64 (Job.op j) 4 + u64 (Job.op j) 12) 4096) (2 ^ 48) else 0) →
    iv =
        ({ id := (xl (updJob h j.id (fun k => { k with begun := true }) s) (boleOf h)).nextId, scope := Job.subop j, home
             := fAt (Job.op j) 11 12 2, ctx := fAt (Job.op j) 11 0 12, port := h, fn := (wqOf (updJob h j.id (fun k => { k
             with begun := true }) s) h j.q).fn, start := lo, len := hi - lo, job := some j.id, xseq := if bc then some
             (xl (updJob h j.id (fun k => { k with begun := true }) s) (boleOf h)).xseq else none, acked := !bc ||
             !xinvReach (updJob h j.id (fun k => { k with begun := true }) s) (1 - boleOf h) } : Inval) →
    u = (if bc then inc (xltCtr h 7) (updXl (boleOf h) (fun x => { x with
          invals := x.invals ++ [iv],
          nextId := x.nextId + 1,
          xseq := x.xseq + 1 }) (inc (xltCtr h 6) (updJob h j.id (fun k => { k with begun := true }) s))) else updXl
        (boleOf h) (fun x => { x with invals := x.invals ++ [iv], nextId := x.nextId + 1 }) (inc (xltCtr h 6) (updJob h
        j.id (fun k => { k with begun := true }) s))) →
    t = invNext (boleOf h) (if bc = true ∧ iv.acked = false then sendXinv h 8 (xinvPayload iv (xl (updJob h j.id (fun k =>
        { k with begun := true }) s) (boleOf h)).xseq) u else u) →
    (s.pw.stopped = false → exec (.invalidate h q i) s = .next (follows t)) ∧
    (quiet s t = true → exec (.invalidate h q i) s = .next t)) ∧
  (∀ (h q : Nat) (i : Word) (m : HostView) (j : Job) (s t : State),
    hostUp s h = true → freshJob s h q i 80 = some j →
    (xctxOf (updJob h j.id (fun k => { k with begun := true }) s) (fAt (Job.op j) 11 12 2) (fAt (Job.op j) 11 0
        12)).active = true →
    t = malformed h ({ j with begun := true }) 9 (updJob h j.id (fun k => { k with begun := true }) s) →
    (s.pw.stopped = false → exec (.xctxCreate h q i m) s = .next (follows t)) ∧
    (quiet s t = true → exec (.xctxCreate h q i m) s = .next t)) ∧
  (∀ (h q : Nat) (i : Word) (j : Job) (s t : State),
    hostUp s h = true → freshJob s h q i 81 = some j →
    (xctxOf (updJob h j.id (fun k => { k with begun := true }) s) (fAt (Job.op j) 11 12 2) (fAt (Job.op j) 11 0
        12)).active = false ∨ (xctxOf (updJob h j.id (fun k => { k with begun := true }) s) (fAt (Job.op j) 11 12 2) (fAt
        (Job.op j) 11 0 12)).share.getLsbD h = false →
    t = malformed h ({ j with begun := true }) 10 (updJob h j.id (fun k => { k with begun := true }) s) →
    (s.pw.stopped = false → exec (.xctxDestroy h q i) s = .next (follows t)) ∧
    (quiet s t = true → exec (.xctxDestroy h q i) s = .next t)) ∧
  (∀ (h q : Nat) (i : Word) (j : Job) (s t : State),
    hostUp s h = true → freshJob s h q i 81 = some j →
    (xctxOf (updJob h j.id (fun k => { k with begun := true }) s) (fAt (Job.op j) 11 12 2) (fAt (Job.op j) 11 0
        12)).active = true →
    (xctxOf (updJob h j.id (fun k => { k with begun := true }) s) (fAt (Job.op j) 11 12 2) (fAt (Job.op j) 11 0
        12)).share.getLsbD h = true →
    ownsCtx (wqOf (updJob h j.id (fun k => { k with begun := true }) s) h j.q) h (fAt (Job.op j) 11 12 2) (xctxOf (updJob
        h j.id (fun k => { k with begun := true }) s) (fAt (Job.op j) 11 12 2) (fAt (Job.op j) 11 0 12)) = true →
    ctxNamed (updJob h j.id (fun k => { k with begun := true }) s) (fAt (Job.op j) 11 12 2) (fAt (Job.op j) 11 0 12) =
        true →
    t = malformed h ({ j with begun := true }) 9 (updJob h j.id (fun k => { k with begun := true }) s) →
    (s.pw.stopped = false → exec (.xctxDestroy h q i) s = .next (follows t)) ∧
    (quiet s t = true → exec (.xctxDestroy h q i) s = .next t)) ∧
  (∀ (h q : Nat) (i : Word) (m : HostView) (j : Job) (s t : State),
    hostUp s h = true → freshJob s h q i 82 = some j →
    2 ^ mrtLog (updJob h j.id (fun k => { k with begun := true }) s) h ≤ fAt (Job.op j) 11 0 24 →
    t = malformed h ({ j with begun := true }) 10 (updJob h j.id (fun k => { k with begun := true }) s) →
    (s.pw.stopped = false → exec (.mrRegister h q i m) s = .next (follows t)) ∧
    (quiet s t = true → exec (.mrRegister h q i m) s = .next t)) ∧
  (∀ (h q : Nat) (i : Word) (j : Job) (s t : State),
    hostUp s h = true → freshJob s h q i 83 = some j →
    2 ^ mrtLog (updJob h j.id (fun k => { k with begun := true }) s) h ≤ fAt (Job.op j) 11 0 24 →
    t = malformed h ({ j with begun := true }) 10 (updJob h j.id (fun k => { k with begun := true }) s) →
    (s.pw.stopped = false → exec (.mrInvalidate h q i) s = .next (follows t)) ∧
    (quiet s t = true → exec (.mrInvalidate h q i) s = .next t)) ∧
  (∀ (h q : Nat) (i : Word) (m : HostView) (j : Job) (s t : State),
    hostUp s h = true → freshJob s h q i 82 = some j →
    fAt (Job.op j) 11 0 24 < 2 ^ mrtLog (updJob h j.id (fun k => { k with begun := true }) s) h →
    mayRegion (updJob h j.id (fun k => { k with begun := true }) s) h ({ j with begun := true }) (fAt (Job.op j) 11 0 24)
        = false →
    t = malformed h ({ j with begun := true }) 2 (updJob h j.id (fun k => { k with begun := true }) s) →
    (s.pw.stopped = false → exec (.mrRegister h q i m) s = .next (follows t)) ∧
    (quiet s t = true → exec (.mrRegister h q i m) s = .next t)) ∧
  (∀ (h q : Nat) (i : Word) (j : Job) (s t : State),
    hostUp s h = true → freshJob s h q i 83 = some j →
    fAt (Job.op j) 11 0 24 < 2 ^ mrtLog (updJob h j.id (fun k => { k with begun := true }) s) h →
    mayRegion (updJob h j.id (fun k => { k with begun := true }) s) h ({ j with begun := true }) (fAt (Job.op j) 11 0 24)
        = false →
    t = malformed h ({ j with begun := true }) 2 (updJob h j.id (fun k => { k with begun := true }) s) →
    (s.pw.stopped = false → exec (.mrInvalidate h q i) s = .next (follows t)) ∧
    (quiet s t = true → exec (.mrInvalidate h q i) s = .next t)) ∧
  (∀ (h q : Nat) (i : Word) (m : HostView) (j : Job) (d : List Word) (s t : State),
    hostUp s h = true → freshJob s h q i 82 = some j →
    fAt (Job.op j) 11 0 24 < 2 ^ mrtLog (updJob h j.id (fun k => { k with begun := true }) s) h →
    mayRegion (updJob h j.id (fun k => { k with begun := true }) s) h ({ j with begun := true }) (fAt (Job.op j) 11 0 24)
        = true →
    rdWords h 0 (viewOf m s) (mrtBase (updJob h j.id (fun k => { k with begun := true }) s) h + 64 * fAt (Job.op j) 11 0
        24) 16 (flushRegion h (fAt (Job.op j) 11 0 24) (updJob h j.id (fun k => { k with begun := true }) s)) = (.ok d,
        (flushRegion h (fAt (Job.op j) 11 0 24) (updJob h j.id (fun k => { k with begun := true }) s))) →
    bAt d 0 0 = false →
    t = malformed h ({ j with begun := true }) 8 (flushRegion h (fAt (Job.op j) 11 0 24) (updJob h j.id (fun k => { k with
          begun := true }) s)) →
    (s.pw.stopped = false → exec (.mrRegister h q i m) s = .next (follows t)) ∧
    (quiet s t = true → exec (.mrRegister h q i m) s = .next t)) ∧
  (∀ (h q : Nat) (i : Word) (m : HostView) (s t : State),
    hostUp s h = false ∨ freshJob s h q i 80 = none →
    t = s →
    (s.pw.stopped = false → exec (.xctxCreate h q i m) s = .next (follows t)) ∧
    (quiet s t = true → exec (.xctxCreate h q i m) s = .next t)) ∧
  (∀ (h q : Nat) (i : Word) (s t : State),
    hostUp s h = false ∨ freshJob s h q i 81 = none →
    t = s →
    (s.pw.stopped = false → exec (.xctxDestroy h q i) s = .next (follows t)) ∧
    (quiet s t = true → exec (.xctxDestroy h q i) s = .next t)) ∧
  (∀ (h q : Nat) (i : Word) (m : HostView) (s t : State),
    hostUp s h = false ∨ freshJob s h q i 82 = none →
    t = s →
    (s.pw.stopped = false → exec (.mrRegister h q i m) s = .next (follows t)) ∧
    (quiet s t = true → exec (.mrRegister h q i m) s = .next t)) ∧
  (∀ (h q : Nat) (i : Word) (s t : State),
    hostUp s h = false ∨ freshJob s h q i 83 = none →
    t = s →
    (s.pw.stopped = false → exec (.mrInvalidate h q i) s = .next (follows t)) ∧
    (quiet s t = true → exec (.mrInvalidate h q i) s = .next t)) ∧
  (∀ (h q : Nat) (i : Word) (s t : State),
    hostUp s h = false ∨ freshJob s h q i 84 = none →
    t = s →
    (s.pw.stopped = false → exec (.invalidate h q i) s = .next (follows t)) ∧
    (quiet s t = true → exec (.invalidate h q i) s = .next t))

/-- Invalidations between the Boles, compare-and-swaps and page requests. An invalidation that is ready finishes and lets
what waited for it go on, and one that is not stays; an XINV that passes its tests and is already finished is answered
again, a new one begins here, and one still running is left (the model's reading, log 64); an XINV_ACK ends the wait of the
invalidation it names, and one that names none is consumed; an unacknowledged XINV is sent again where the other Bole can
be reached and counts as acknowledged where it cannot; a packet of either kind whose class and EXT_MASK bit 4 do not agree
is dropped and counted; an XINV of SCOPE 0 is a bad header; a compare-and-swap that returns its compare value fills the
cache where its context is live, unless an invalidation in progress removes that slot at once, one that returns another
value takes the leaf out of the caches and is tried again with that value, or at the fourth failure fails its accesses
AD_CONTENTION, and one that the host does not support fails them; a page request that waited is posted when there is room,
and stays without; XLT_FQ_HEAD takes its value; an answer to a page request lets its accesses go on, or fails them where it
says so, one that names none is counted, and the timeout fails them. -/
def Obligations.InvalidationsAndFaults : Prop :=
  (∀ (b id : Nat) (i : Inval) (f u : State) (s t : State),
    (xl s b).invals.find? (fun i => i.id == id) = some i → invReady s b i = true → f = invFinish b i s →
    u = rerunNeeds (2 * b)
        (fun n => match n with | .turn k _ => k == id | _ => false) (viewOf {} f) (if ((hport f (2 * b)).waits.filter (fun
        w =>
        (fun n => match n with | .turn k _ => k == id | _ => false) w.need)) = [] then f else count (xltCtr (2 * b) 8)
        ((hport f (2 * b)).waits.filter (fun w =>
        (fun n => match n with | .turn k _ => k == id | _ => false) w.need)).length f) →
    t = rerunNeeds (2 * b + 1)
        (fun n => match n with | .turn k _ => k == id | _ => false) (viewOf {} u) (if ((hport u (2 * b + 1)).waits.filter
        (fun w =>
        (fun n => match n with | .turn k _ => k == id | _ => false) w.need)) = [] then u else count (xltCtr (2 * b + 1) 8)
        ((hport u (2 * b + 1)).waits.filter (fun w =>
        (fun n => match n with | .turn k _ => k == id | _ => false) w.need)).length u) →
    (s.pw.stopped = false → exec (.invalidationDone b id) s = .next (follows t)) ∧
    (quiet s t = true → exec (.invalidationDone b id) s = .next t)) ∧
  (∀ (b id : Nat) (s t : State),
    (xl s b).invals.find? (fun i => i.id == id) = none →
    t = s →
    (s.pw.stopped = false → exec (.invalidationDone b id) s = .next (follows t)) ∧
    (quiet s t = true → exec (.invalidationDone b id) s = .next t)) ∧
  (∀ (b n : Nat) (p : Packet) (s t : State),
    boleOk s b = true → n = (nPort s (2 * b)).getD (2 * b) → lenOk p = true → e2eGood p = true → asdMismatch p = false →
    p.extMask = 0 → fAt (bWords 8 p.payload) 0 16 2 = 0 →
    t = hdrBad b (freeInternal (xN n) p s) →
    (s.pw.stopped = false → exec (.xinv b p) s = .next (follows t)) ∧
    (quiet s t = true → exec (.xinv b p) s = .next t)) ∧
  (∀ (h addr : Nat) (r : Option (BitVec 64)) (m : HostView) (s t : State),
    dmaHeld s h (.cas addr) = true ∨ (xl s (boleOf h)).cas.find? (fun c => c.addr == addr && c.ctx / 2 ^ 14 == h) = none →
    t = s →
    (s.pw.stopped = false → exec (.adCasDone h addr r m) s = .next (follows t)) ∧
    (quiet s t = true → exec (.adCasDone h addr r m) s = .next t)) ∧
  (∀ (h addr : Nat) (m : HostView) (c : CasOut) (u : State) (s t : State),
    dmaHeld s h (.cas addr) = false →
    (xl s (boleOf h)).cas.find? (fun c => c.addr == addr && c.ctx / 2 ^ 14 == h) = some c →
    u = updXl (boleOf h) (fun x => { x with cas := x.cas.filter (fun y => !(y.addr == addr && y.ctx / 2 ^ 14 == h)) }) s →
    t = rerunNeeds h
        (fun n => match n with | .cas a _ => a == addr | _ => false) { viewOf m u with
          noCas := some addr,
          entry := some (c, c.cmp) } (updHost h (fun p => { p with
          waits := p.waits.map (fun w => if
            (match w.need with | .cas a _ => a == addr | _ => false) = true then { w with
            ans := (c.ctx, c.page, 10) :: w.ans } else w) }) (updXl (boleOf h) (fun x => { x with
          fails := Maps.put 0 x.fails (addr * 4 + h) 0 }) u)) →
    (s.pw.stopped = false → exec (.adCasDone h addr none m) s = .next (follows t)) ∧
    (quiet s t = true → exec (.adCasDone h addr none m) s = .next t)) ∧
  (∀ (h addr : Nat) (m : HostView) (c : CasOut) (u : State) (r : BitVec 64) (s t : State),
    dmaHeld s h (.cas addr) = false →
    (xl s (boleOf h)).cas.find? (fun c => c.addr == addr && c.ctx / 2 ^ 14 == h) = some c →
    u = updXl (boleOf h) (fun x => { x with cas := x.cas.filter (fun y => !(y.addr == addr && y.ctx / 2 ^ 14 == h)) }) s →
    r ≠ c.cmp → Maps.get 0 (xl u (boleOf h)).fails (addr * 4 + h) < 3 →
    t = rerunNeeds h
        (fun n => match n with | .cas a _ => a == addr | _ => false) { viewOf m u with entry := some (c, r) } (updXl
        (boleOf h) (fun x => { x with
          fails := Maps.put 0 x.fails (addr * 4 + h) (Maps.get 0 x.fails (addr * 4 + h) + 1) }) (inc (xltCtr h 5) (updXl
        (boleOf h) (fun x => { x with
          tlb := x.tlb.filter (fun y => !(y.leaf == addr && y.ctx / 2 ^ 14 == h)),
          micro := x.micro.filter (fun y => !(y.2.leaf == addr && y.2.ctx / 2 ^ 14 == h)) }) u))) →
    (s.pw.stopped = false → exec (.adCasDone h addr (some r) m) s = .next (follows t)) ∧
    (quiet s t = true → exec (.adCasDone h addr (some r) m) s = .next t)) ∧
  (∀ (h addr : Nat) (m : HostView) (c : CasOut) (u : State) (r : BitVec 64) (s t : State),
    dmaHeld s h (.cas addr) = false →
    (xl s (boleOf h)).cas.find? (fun c => c.addr == addr && c.ctx / 2 ^ 14 == h) = some c →
    u = updXl (boleOf h) (fun x => { x with cas := x.cas.filter (fun y => !(y.addr == addr && y.ctx / 2 ^ 14 == h)) }) s →
    r ≠ c.cmp → 3 ≤ Maps.get 0 (xl u (boleOf h)).fails (addr * 4 + h) →
    t = rerunNeeds h
        (fun n => match n with | .cas a _ => a == addr | _ => false) { viewOf m u with
          fight := some addr,
          entry := some (c, r) } (updHost h (fun p => { p with
          waits := p.waits.map (fun w => if
            (match w.need with | .cas a _ => a == addr | _ => false) = true then { w with
            ans := (c.ctx, c.page, 11) :: w.ans } else w) }) (updXl (boleOf h) (fun x => { x with
          fails := Maps.put 0 x.fails (addr * 4 + h) 0 }) (inc (xltCtr h 5) (updXl (boleOf h) (fun x => { x with
          tlb := x.tlb.filter (fun y => !(y.leaf == addr && y.ctx / 2 ^ 14 == h)),
          micro := x.micro.filter (fun y => !(y.2.leaf == addr && y.2.ctx / 2 ^ 14 == h)) }) u)))) →
    (s.pw.stopped = false → exec (.adCasDone h addr (some r) m) s = .next (follows t)) ∧
    (quiet s t = true → exec (.adCasDone h addr (some r) m) s = .next t)) ∧
  (∀ (h addr : Nat) (m : HostView) (c : CasOut) (u : State) (v : State) (r : BitVec 64) (s t : State),
    dmaHeld s h (.cas addr) = false →
    (xl s (boleOf h)).cas.find? (fun c => c.addr == addr && c.ctx / 2 ^ 14 == h) = some c →
    u = updXl (boleOf h) (fun x => { x with cas := x.cas.filter (fun y => !(y.addr == addr && y.ctx / 2 ^ 14 == h)) }) s →
    r = c.cmp → c.tlb.pages = 0 ∨ (xctxOf s (c.ctx / 2 ^ 12 % 4) (c.ctx % 2 ^ 12)).active = false →
    v = rerunNeeds h
        (fun n => match n with | .cas a _ => a == addr | _ => false) { viewOf m u with done := some addr } (updXl (boleOf
        h) (fun x => { x with fails := Maps.put 0 x.fails (addr * 4 + h) 0 }) u) →
    (xl v (boleOf h)).invals.any (fun i => i.begun && !i.done) = false →
    t = v →
    (s.pw.stopped = false → exec (.adCasDone h addr (some r) m) s = .next (follows t)) ∧
    (quiet s t = true → exec (.adCasDone h addr (some r) m) s = .next t)) ∧
  (∀ (h addr : Nat) (m : HostView) (c : CasOut) (u : State) (v : State) (r : BitVec 64) (i : Inval) (s t : State),
    dmaHeld s h (.cas addr) = false →
    (xl s (boleOf h)).cas.find? (fun c => c.addr == addr && c.ctx / 2 ^ 14 == h) = some c →
    u = updXl (boleOf h) (fun x => { x with cas := x.cas.filter (fun y => !(y.addr == addr && y.ctx / 2 ^ 14 == h)) }) s →
    r = c.cmp → c.tlb.pages ≠ 0 → (xctxOf s (c.ctx / 2 ^ 12 % 4) (c.ctx % 2 ^ 12)).active = true →
    v = rerunNeeds h
        (fun n => match n with | .cas a _ => a == addr | _ => false) { viewOf m u with done := some addr } (tlbFill
        (boleOf h) c.tlb (updXl (boleOf h) (fun x => { x with fails := Maps.put 0 x.fails (addr * 4 + h) 0 }) u)) →
    (xl v (boleOf h)).invals = [i] → i.begun = true → i.done = false →
    t = invFlush (boleOf h) i v →
    (s.pw.stopped = false → exec (.adCasDone h addr (some r) m) s = .next (follows t)) ∧
    (quiet s t = true → exec (.adCasDone h addr (some r) m) s = .next t)) ∧
  (∀ (b n : Nat) (p : Packet) (s t : State),
    boleOk s b = true → n = (nPort s (2 * b)).getD (2 * b) → lenOk p = true → e2eGood p = true → asdMismatch p = false →
    p.extMask = 0 → fAt (bWords 8 p.payload) 0 16 2 ≠ 0 →
    (xl (freeInternal (xN n) p s) b).finished.contains (BitVec.ofNat 16 (fAt (bWords 8 p.payload) 0 0 16)) = true →
    t = sendXinv (2 * b) 9 p.payload (freeInternal (xN n) p s) →
    (s.pw.stopped = false → exec (.xinv b p) s = .next (follows t)) ∧
    (quiet s t = true → exec (.xinv b p) s = .next t)) ∧
  (∀ (b n : Nat) (p : Packet) (s t : State),
    boleOk s b = true → n = (nPort s (2 * b)).getD (2 * b) → lenOk p = true → e2eGood p = true → asdMismatch p = false →
    p.extMask = 0 → fAt (bWords 8 p.payload) 0 16 2 ≠ 0 →
    (xl (freeInternal (xN n) p s) b).finished.contains (BitVec.ofNat 16 (fAt (bWords 8 p.payload) 0 0 16)) = false →
    (xl (freeInternal (xN n) p s) b).invals.any (fun y => y.answer && y.xseq == some (BitVec.ofNat 16 (fAt (bWords 8
        p.payload) 0 0 16))) = false →
    t = invNext b (updXl b (fun x => { x with
          invals := x.invals ++
            [{ id := x.nextId, scope := fAt (bWords 8 p.payload) 0 16 2, home := fAt (bWords 8 p.payload) 0 18 2, ctx :=
                 fAt (bWords 8 p.payload) 0 20 12, port := fAt (bWords 8 p.payload) 1 8 2, fn := fAt (bWords 8 p.payload)
                 1 0 8, start := u64 (bWords 8 p.payload) 2, len := u64 (bWords 8 p.payload) 4, xseq := some (BitVec.ofNat
                 16 (fAt (bWords 8 p.payload) 0 0 16)), answer := true }],
          nextId := x.nextId + 1 }) (freeInternal (xN n) p s)) →
    (s.pw.stopped = false → exec (.xinv b p) s = .next (follows t)) ∧
    (quiet s t = true → exec (.xinv b p) s = .next t)) ∧
  (∀ (b n : Nat) (p : Packet) (i : Inval) (s t : State),
    boleOk s b = true → n = (nPort s (2 * b)).getD (2 * b) → lenOk p = true → e2eGood p = true → asdMismatch p = false →
    p.extMask = 0 → invOut (freeInternal (xN n) p s) b (BitVec.ofNat 16 (fAt (bWords 8 p.payload) 0 0 16)) = some i →
    t = invAcked b i (freeInternal (xN n) p s) →
    (s.pw.stopped = false → exec (.xinvAck b p) s = .next (follows t)) ∧
    (quiet s t = true → exec (.xinvAck b p) s = .next t)) ∧
  (∀ (b : Nat) (q : BitVec 16) (i : Inval) (s t : State),
    boleOk s b = true → invOut s b q = some i → xinvReach s (1 - b) = true →
    t = sendXinv i.port 8 (xinvPayload i q) s →
    (s.pw.stopped = false → exec (.xinvResend b q) s = .next (follows t)) ∧
    (quiet s t = true → exec (.xinvResend b q) s = .next t)) ∧
  (∀ (b : Nat) (q : BitVec 16) (i : Inval) (s t : State),
    boleOk s b = true → invOut s b q = some i → xinvReach s (1 - b) = false →
    t = invAcked b i s →
    (s.pw.stopped = false → exec (.xinvResend b q) s = .next (follows t)) ∧
    (quiet s t = true → exec (.xinvResend b q) s = .next t)) ∧
  (∀ (b : Nat) (q : BitVec 16) (s t : State),
    boleOk s b = false ∨ invOut s b q = none →
    t = s →
    (s.pw.stopped = false → exec (.xinvResend b q) s = .next (follows t)) ∧
    (quiet s t = true → exec (.xinvResend b q) s = .next t)) ∧
  (∀ (b n : Nat) (p : Packet) (s t : State),
    boleOk s b = true → n = (nPort s (2 * b)).getD (2 * b) → lenOk p = true → e2eGood p = true → asdMismatch p = false →
    p.extMask = 0 → fAt (bWords 8 p.payload) 0 16 2 ≠ 0 →
    (xl (freeInternal (xN n) p s) b).finished.contains (BitVec.ofNat 16 (fAt (bWords 8 p.payload) 0 0 16)) = false →
    (xl (freeInternal (xN n) p s) b).invals.any (fun y => y.answer && y.xseq == some (BitVec.ofNat 16 (fAt (bWords 8
        p.payload) 0 0 16))) = true →
    t = (freeInternal (xN n) p s) →
    (s.pw.stopped = false → exec (.xinv b p) s = .next (follows t)) ∧
    (quiet s t = true → exec (.xinv b p) s = .next t)) ∧
  (∀ (b n : Nat) (p : Packet) (s t : State),
    boleOk s b = true → n = (nPort s (2 * b)).getD (2 * b) → lenOk p = true → e2eGood p = true → asdMismatch p = false →
    p.extMask = 0 → invOut (freeInternal (xN n) p s) b (BitVec.ofNat 16 (fAt (bWords 8 p.payload) 0 0 16)) = none →
    t = (freeInternal (xN n) p s) →
    (s.pw.stopped = false → exec (.xinvAck b p) s = .next (follows t)) ∧
    (quiet s t = true → exec (.xinvAck b p) s = .next t)) ∧
  (∀ (b n : Nat) (p : Packet) (s t : State),
    boleOk s b = true → n = (nPort s (2 * b)).getD (2 * b) → lenOk p = true → e2eGood p = true → asdMismatch p = true →
    t = hdrBad b (asdHostCause n 5 (inc (asdHostCtr n 10) (freeInternal (xN n) p s))) →
    (s.pw.stopped = false → exec (.xinv b p) s = .next (follows t)) ∧
    (quiet s t = true → exec (.xinv b p) s = .next t)) ∧
  (∀ (b n : Nat) (p : Packet) (s t : State),
    boleOk s b = true → n = (nPort s (2 * b)).getD (2 * b) → lenOk p = true → e2eGood p = true → asdMismatch p = true →
    t = hdrBad b (asdHostCause n 5 (inc (asdHostCtr n 10) (freeInternal (xN n) p s))) →
    (s.pw.stopped = false → exec (.xinvAck b p) s = .next (follows t)) ∧
    (quiet s t = true → exec (.xinvAck b p) s = .next t)) ∧
  (∀ (b id : Nat) (i : Inval) (s t : State),
    (xl s b).invals.find? (fun i => i.id == id) = some i → invReady s b i = false →
    t = s →
    (s.pw.stopped = false → exec (.invalidationDone b id) s = .next (follows t)) ∧
    (quiet s t = true → exec (.invalidationDone b id) s = .next t)) ∧
  (∀ (h addr : Nat) (m : HostView) (c : CasOut) (u : State) (v : State) (r : BitVec 64) (s t : State),
    dmaHeld s h (.cas addr) = false →
    (xl s (boleOf h)).cas.find? (fun c => c.addr == addr && c.ctx / 2 ^ 14 == h) = some c →
    u = updXl (boleOf h) (fun x => { x with cas := x.cas.filter (fun y => !(y.addr == addr && y.ctx / 2 ^ 14 == h)) }) s →
    r = c.cmp → c.tlb.pages ≠ 0 → (xctxOf s (c.ctx / 2 ^ 12 % 4) (c.ctx % 2 ^ 12)).active = true →
    v = rerunNeeds h
        (fun n => match n with | .cas a _ => a == addr | _ => false) { viewOf m u with done := some addr } (tlbFill
        (boleOf h) c.tlb (updXl (boleOf h) (fun x => { x with fails := Maps.put 0 x.fails (addr * 4 + h) 0 }) u)) →
    (xl v (boleOf h)).invals.any (fun i => i.begun && !i.done) = false →
    t = v →
    (s.pw.stopped = false → exec (.adCasDone h addr (some r) m) s = .next (follows t)) ∧
    (quiet s t = true → exec (.adCasDone h addr (some r) m) s = .next t)) ∧
  (∀ (h : Nat) (r : PageReq) (tl : List PageReq) (s t : State),
    (hport s h).pageWait = r :: tl → fqRoom s h = true → hostUp s h = true →
    t = fqPost h r (updHost h (fun p => { p with pageWait := tl }) s) →
    (s.pw.stopped = false → exec (.pageRequestPost h) s = .next (follows t)) ∧
    (quiet s t = true → exec (.pageRequestPost h) s = .next t)) ∧
  (∀ (h : Nat) (r : PageReq) (tl : List PageReq) (s t : State),
    (hport s h).pageWait = r :: tl → fqRoom s h = false ∨ hostUp s h = false →
    t = s →
    (s.pw.stopped = false → exec (.pageRequestPost h) s = .next (follows t)) ∧
    (quiet s t = true → exec (.pageRequestPost h) s = .next t)) ∧
  (∀ (h : Nat) (s t : State),
    (hport s h).pageWait = [] →
    t = s →
    (s.pw.stopped = false → exec (.pageRequestPost h) s = .next (follows t)) ∧
    (quiet s t = true → exec (.pageRequestPost h) s = .next t)) ∧
  (∀ (h : Nat) (v : Word) (who : Requester) (e : State) (s t : State),
    e = (if domOn s (dMem (boleOf h)) then performAll (boleOf h) (identOf h who.id who.tc) s else s) →
    (hport e h).st ≠ .up →
    t = e →
    (s.pw.stopped = false → exec (.xltFqHead h v who) s = .next (follows t)) ∧
    (quiet s t = true → exec (.xltFqHead h v who) s = .next t)) ∧
  (∀ (h : Nat) (v : Word) (who : Requester) (e : State) (s t : State),
    e = (if domOn s (dMem (boleOf h)) then performAll (boleOf h) (identOf h who.id who.tc) s else s) →
    (hport e h).st = .up →
    t = barSet (hostKey h 0 0x4002C) v e →
    (s.pw.stopped = false → exec (.xltFqHead h v who) s = .next (follows t)) ∧
    (quiet s t = true → exec (.xltFqHead h v who) s = .next t)) ∧
  (∀ (h : Nat) (v : Word) (m : HostView) (who : Requester) (e : State) (s t : State),
    e = (if domOn s (dMem (boleOf h)) then performAll (boleOf h) (identOf h who.id who.tc) s else s) → hostUp e h = true →
    (hport e h).pageReqs.find? (fun r => r.id.toNat == fld v 0 16) = none →
    t = xltCause h 4 (inc (xltCtr h 13) e) →
    (s.pw.stopped = false → exec (.xltFaultResp h v m who) s = .next (follows t)) ∧
    (quiet s t = true → exec (.xltFaultResp h v m who) s = .next t)) ∧
  (∀ (h : Nat) (v : Word) (m : HostView) (r : PageReq) (who : Requester) (e : State) (s t : State),
    e = (if domOn s (dMem (boleOf h)) then performAll (boleOf h) (identOf h who.id who.tc) s else s) → hostUp e h = true →
    (hport e h).pageReqs.find? (fun r => r.id.toNat == fld v 0 16) = some r → bitW v 16 = true →
    t = answerPage h r 12 (viewOf m e) (inc (xltCtr h 11) e) →
    (s.pw.stopped = false → exec (.xltFaultResp h v m who) s = .next (follows t)) ∧
    (quiet s t = true → exec (.xltFaultResp h v m who) s = .next t)) ∧
  (∀ (h : Nat) (v : Word) (m : HostView) (r : PageReq) (who : Requester) (e : State) (s t : State),
    e = (if domOn s (dMem (boleOf h)) then performAll (boleOf h) (identOf h who.id who.tc) s else s) → hostUp e h = true →
    (hport e h).pageReqs.find? (fun r => r.id.toNat == fld v 0 16) = some r → bitW v 16 = false →
    t = answerPage h r 0 (viewOf m e) (inc (xltCtr h 10) e) →
    (s.pw.stopped = false → exec (.xltFaultResp h v m who) s = .next (follows t)) ∧
    (quiet s t = true → exec (.xltFaultResp h v m who) s = .next t)) ∧
  (∀ (h : Nat) (id : BitVec 16) (r : PageReq) (s t : State),
    (hport s h).pageReqs.find? (fun r => r.id == id) = some r →
    t = answerPage h r 13 (viewOf {} s) (inc (xltCtr h 12) s) →
    (s.pw.stopped = false → exec (.faultTimeout h id) s = .next (follows t)) ∧
    (quiet s t = true → exec (.faultTimeout h id) s = .next t))

/-- Jobs on a channel take their place in its line, and the channel commands make, reset, drain and report a channel. From
the row of an issued job that has not begun: WRITE, WRITE_IMM, READ and ATOMIC that have not joined the line of their
channel join it, and, once their local data have passed checks 1 to 5, are ready in it, and the channel sends what it may;
data that do not pass end the job with their status, and data that wait for host memory make it wait; a channel that is
ABSENT, DRAINING or of another function ends them CHANNEL_ERROR with DETAIL 1, one in ERROR with DETAIL 0. CHAN_CREATE of
an absent channel with a good descriptor makes the context and writes its record; CHAN_MODIFY RESET with another
INCARNATION ends the outstanding jobs CHANNEL_ERROR and starts the channel anew; CHAN_DESTROY ends the jobs and fetches
that have sent nothing, and a rendezvous SEND that has only its RNDV_DONE to wait for (the model's reading, log 136), and
drains the channel, whose end writes zeros to the record and completes the command; CHAN_QUERY writes the 64-byte summary,
zeros for an absent channel (the model's choice, log 65). A number that is void or of an absent channel is MALFORMED with
DETAIL 10, one in use or draining with DETAIL 9, a descriptor, address or INCARNATION that is bad with DETAIL 8, another
function's channel with DETAIL 2. A row at a host port that does not serve, or that names no issued job which has not
begun, changes nothing. -/
def Obligations.ChannelJobs : Prop :=
  (∀ (h q : Nat) (i : Word) (m : HostView) (j : Job) (u w : State) (s t : State),
    hostUp s h = true → freshJob s h q i 16 = some j → j.ready = false →
    (if j.chan = 0 then chanRefuses (updJob h j.id (fun k => { k with begun := true }) s) h ({ j with begun := true })
        else none) = none →
    u = joinLine h ({ j with begun := true }) (updJob h j.id (fun k => { k with begun := true }) s) →
    (if Job.inl j then (.ok (), u) else checkLocal h ({ j with begun := true }) .localRead (viewOf m s) u) = (.ok (), w) →
    t = runChan h (Job.chanNo j) (viewOf m s) (updJob h j.id (fun k => { k with ready := true, rndv := false }) (stopWait
        h (.job j.id) w)) →
    (s.pw.stopped = false → exec (.write h q i m) s = .next (follows t)) ∧
    (quiet s t = true → exec (.write h q i m) s = .next t)) ∧
  (∀ (h q : Nat) (i : Word) (m : HostView) (j : Job) (u w : State) (a : Acc Unit) (s t : State),
    hostUp s h = true → freshJob s h q i 16 = some j → j.ready = false →
    (if j.chan = 0 then chanRefuses (updJob h j.id (fun k => { k with begun := true }) s) h ({ j with begun := true })
        else none) = none →
    u = joinLine h ({ j with begun := true }) (updJob h j.id (fun k => { k with begun := true }) s) →
    (if Job.inl j then (.ok (), u) else checkLocal h ({ j with begun := true }) .localRead (viewOf m s) u) = (a, w) →
    a ≠ .ok () →
    t = failAcc h ({ j with begun := true }) 0 a w →
    (s.pw.stopped = false → exec (.write h q i m) s = .next (follows t)) ∧
    (quiet s t = true → exec (.write h q i m) s = .next t)) ∧
  (∀ (h q : Nat) (i : Word) (m : HostView) (j : Job) (u w : State) (s t : State),
    hostUp s h = true → freshJob s h q i 17 = some j → j.ready = false →
    (if j.chan = 0 then chanRefuses (updJob h j.id (fun k => { k with begun := true }) s) h ({ j with begun := true })
        else none) = none →
    u = joinLine h ({ j with begun := true }) (updJob h j.id (fun k => { k with begun := true }) s) →
    (if Job.inl j then (.ok (), u) else checkLocal h ({ j with begun := true }) .localRead (viewOf m s) u) = (.ok (), w) →
    t = runChan h (Job.chanNo j) (viewOf m s) (updJob h j.id (fun k => { k with ready := true, rndv := false }) (stopWait
        h (.job j.id) w)) →
    (s.pw.stopped = false → exec (.writeImm h q i m) s = .next (follows t)) ∧
    (quiet s t = true → exec (.writeImm h q i m) s = .next t)) ∧
  (∀ (h q : Nat) (i : Word) (m : HostView) (j : Job) (u w : State) (a : Acc Unit) (s t : State),
    hostUp s h = true → freshJob s h q i 17 = some j → j.ready = false →
    (if j.chan = 0 then chanRefuses (updJob h j.id (fun k => { k with begun := true }) s) h ({ j with begun := true })
        else none) = none →
    u = joinLine h ({ j with begun := true }) (updJob h j.id (fun k => { k with begun := true }) s) →
    (if Job.inl j then (.ok (), u) else checkLocal h ({ j with begun := true }) .localRead (viewOf m s) u) = (a, w) →
    a ≠ .ok () →
    t = failAcc h ({ j with begun := true }) 0 a w →
    (s.pw.stopped = false → exec (.writeImm h q i m) s = .next (follows t)) ∧
    (quiet s t = true → exec (.writeImm h q i m) s = .next t)) ∧
  (∀ (h q : Nat) (i : Word) (m : HostView) (j : Job) (u w : State) (s t : State),
    hostUp s h = true → freshJob s h q i 18 = some j → j.ready = false →
    (if j.chan = 0 then chanRefuses (updJob h j.id (fun k => { k with begun := true }) s) h ({ j with begun := true })
        else none) = none →
    u = joinLine h ({ j with begun := true }) (updJob h j.id (fun k => { k with begun := true }) s) →
    checkLocal h ({ j with begun := true }) .localWrite (viewOf m s) u = (.ok (), w) →
    t = runChan h (Job.chanNo j) (viewOf m s) (updJob h j.id (fun k => { k with ready := true, rndv := false }) (stopWait
        h (.job j.id) w)) →
    (s.pw.stopped = false → exec (.read h q i m) s = .next (follows t)) ∧
    (quiet s t = true → exec (.read h q i m) s = .next t)) ∧
  (∀ (h q : Nat) (i : Word) (m : HostView) (j : Job) (u w : State) (a : Acc Unit) (s t : State),
    hostUp s h = true → freshJob s h q i 18 = some j → j.ready = false →
    (if j.chan = 0 then chanRefuses (updJob h j.id (fun k => { k with begun := true }) s) h ({ j with begun := true })
        else none) = none →
    u = joinLine h ({ j with begun := true }) (updJob h j.id (fun k => { k with begun := true }) s) →
    checkLocal h ({ j with begun := true }) .localWrite (viewOf m s) u = (a, w) → a ≠ .ok () →
    t = failAcc h ({ j with begun := true }) 0 a w →
    (s.pw.stopped = false → exec (.read h q i m) s = .next (follows t)) ∧
    (quiet s t = true → exec (.read h q i m) s = .next t)) ∧
  (∀ (h q : Nat) (i : Word) (m : HostView) (j : Job) (u w : State) (s t : State),
    hostUp s h = true → freshJob s h q i 19 = some j → j.ready = false →
    (if j.chan = 0 then chanRefuses (updJob h j.id (fun k => { k with begun := true }) s) h ({ j with begun := true })
        else none) = none →
    u = joinLine h ({ j with begun := true }) (updJob h j.id (fun k => { k with begun := true }) s) →
    checkLocal h ({ j with begun := true }) .localWrite (viewOf m s) u = (.ok (), w) →
    t = runChan h (Job.chanNo j) (viewOf m s) (updJob h j.id (fun k => { k with ready := true, rndv := false }) (stopWait
        h (.job j.id) w)) →
    (s.pw.stopped = false → exec (.atomic h q i m) s = .next (follows t)) ∧
    (quiet s t = true → exec (.atomic h q i m) s = .next t)) ∧
  (∀ (h q : Nat) (i : Word) (m : HostView) (j : Job) (u w : State) (a : Acc Unit) (s t : State),
    hostUp s h = true → freshJob s h q i 19 = some j → j.ready = false →
    (if j.chan = 0 then chanRefuses (updJob h j.id (fun k => { k with begun := true }) s) h ({ j with begun := true })
        else none) = none →
    u = joinLine h ({ j with begun := true }) (updJob h j.id (fun k => { k with begun := true }) s) →
    checkLocal h ({ j with begun := true }) .localWrite (viewOf m s) u = (a, w) → a ≠ .ok () →
    t = failAcc h ({ j with begun := true }) 0 a w →
    (s.pw.stopped = false → exec (.atomic h q i m) s = .next (follows t)) ∧
    (quiet s t = true → exec (.atomic h q i m) s = .next t)) ∧
  (∀ (h q : Nat) (i : Word) (m : HostView) (j : Job) (d : Nat) (s t : State),
    hostUp s h = true → freshJob s h q i 16 = some j → j.ready = false → j.chan = 0 →
    chanRefuses (updJob h j.id (fun k => { k with begun := true }) s) h ({ j with begun := true }) = some d →
    t = finishJob h ({ j with begun := true }) 0x22 0 d (updJob h j.id (fun k => { k with begun := true }) s) →
    (s.pw.stopped = false → exec (.write h q i m) s = .next (follows t)) ∧
    (quiet s t = true → exec (.write h q i m) s = .next t)) ∧
  (∀ (h q : Nat) (i : Word) (m : HostView) (j : Job) (d : Nat) (s t : State),
    hostUp s h = true → freshJob s h q i 17 = some j → j.ready = false → j.chan = 0 →
    chanRefuses (updJob h j.id (fun k => { k with begun := true }) s) h ({ j with begun := true }) = some d →
    t = finishJob h ({ j with begun := true }) 0x22 0 d (updJob h j.id (fun k => { k with begun := true }) s) →
    (s.pw.stopped = false → exec (.writeImm h q i m) s = .next (follows t)) ∧
    (quiet s t = true → exec (.writeImm h q i m) s = .next t)) ∧
  (∀ (h q : Nat) (i : Word) (m : HostView) (j : Job) (d : Nat) (s t : State),
    hostUp s h = true → freshJob s h q i 18 = some j → j.ready = false → j.chan = 0 →
    chanRefuses (updJob h j.id (fun k => { k with begun := true }) s) h ({ j with begun := true }) = some d →
    t = finishJob h ({ j with begun := true }) 0x22 0 d (updJob h j.id (fun k => { k with begun := true }) s) →
    (s.pw.stopped = false → exec (.read h q i m) s = .next (follows t)) ∧
    (quiet s t = true → exec (.read h q i m) s = .next t)) ∧
  (∀ (h q : Nat) (i : Word) (m : HostView) (j : Job) (d : Nat) (s t : State),
    hostUp s h = true → freshJob s h q i 19 = some j → j.ready = false → j.chan = 0 →
    chanRefuses (updJob h j.id (fun k => { k with begun := true }) s) h ({ j with begun := true }) = some d →
    t = finishJob h ({ j with begun := true }) 0x22 0 d (updJob h j.id (fun k => { k with begun := true }) s) →
    (s.pw.stopped = false → exec (.atomic h q i m) s = .next (follows t)) ∧
    (quiet s t = true → exec (.atomic h q i m) s = .next t)) ∧
  (∀ (h q : Nat) (i : Word) (m : HostView) (j : Job) (c : Nat) (d : List Word) (s t : State),
    hostUp s h = true → freshJob s h q i 104 = some j → c = fAt (Job.op j) 11 0 24 →
    chanVoid (updJob h j.id (fun k => { k with begun := true }) s) h c = false →
    (chanOf (updJob h j.id (fun k => { k with begun := true }) s) h c).st = .absent →
    rdWords h (wqOf (updJob h j.id (fun k => { k with begun := true }) s) h j.q).fn (viewOf m s) (u64 (Job.op j) 4) 16
        (updJob h j.id (fun k => { k with begun := true }) s) = (.ok d, (updJob h j.id (fun k => { k with
          begun := true }) s)) →
    mayActFor (wqOf (updJob h j.id (fun k => { k with begun := true }) s) h j.q) (fAt d 0 16 8) = true →
    chanDescBad (updJob h j.id (fun k => { k with begun := true }) s) h d = false →
    t = finishJob h ({ j with begun := true }) 0 0 0 (writeCtx h c (setChan h c
        { st := .active, unrel := bAt d 0 0, relaxed := bAt d 0 1, mode := BitVec.ofNat 2 (fAt d 0 2 2), limit := fAt d 0
            4 4, check := fAt d 0 8 4, fn := fAt d 0 16 8, peer := BitVec.ofNat 18 (fAt d 1 0 18), peerCh := BitVec.ofNat
            24 (fAt d 2 0 24), inc := BitVec.ofNat 16 (fAt d 3 0 16), pd := BitVec.ofNat 16 (fAt d 3 16 16), cq := fAt d 6
            0 20, t0 := fAt d 7 0 16, txNext := wAt d 4, lastAck := wAt d 4, expect := wAt d 5 } (updJob h j.id (fun k =>
        { k with begun := true }) s))) →
    (s.pw.stopped = false → exec (.chanCreate h q i m) s = .next (follows t)) ∧
    (quiet s t = true → exec (.chanCreate h q i m) s = .next t)) ∧
  (∀ (h q : Nat) (i : Word) (m : HostView) (j : Job) (c : Nat) (d : List Word) (s t : State),
    hostUp s h = true → freshJob s h q i 104 = some j → c = fAt (Job.op j) 11 0 24 →
    chanVoid (updJob h j.id (fun k => { k with begun := true }) s) h c = false →
    (chanOf (updJob h j.id (fun k => { k with begun := true }) s) h c).st = .absent →
    rdWords h (wqOf (updJob h j.id (fun k => { k with begun := true }) s) h j.q).fn (viewOf m s) (u64 (Job.op j) 4) 16
        (updJob h j.id (fun k => { k with begun := true }) s) = (.ok d, (updJob h j.id (fun k => { k with
          begun := true }) s)) →
    mayActFor (wqOf (updJob h j.id (fun k => { k with begun := true }) s) h j.q) (fAt d 0 16 8) = false →
    t = malformed h ({ j with begun := true }) 2 (updJob h j.id (fun k => { k with begun := true }) s) →
    (s.pw.stopped = false → exec (.chanCreate h q i m) s = .next (follows t)) ∧
    (quiet s t = true → exec (.chanCreate h q i m) s = .next t)) ∧
  (∀ (h q : Nat) (i : Word) (m : HostView) (j : Job) (c : Nat) (d : List Word) (s t : State),
    hostUp s h = true → freshJob s h q i 104 = some j → c = fAt (Job.op j) 11 0 24 →
    chanVoid (updJob h j.id (fun k => { k with begun := true }) s) h c = false →
    (chanOf (updJob h j.id (fun k => { k with begun := true }) s) h c).st = .absent →
    rdWords h (wqOf (updJob h j.id (fun k => { k with begun := true }) s) h j.q).fn (viewOf m s) (u64 (Job.op j) 4) 16
        (updJob h j.id (fun k => { k with begun := true }) s) = (.ok d, (updJob h j.id (fun k => { k with
          begun := true }) s)) →
    mayActFor (wqOf (updJob h j.id (fun k => { k with begun := true }) s) h j.q) (fAt d 0 16 8) = true →
    chanDescBad (updJob h j.id (fun k => { k with begun := true }) s) h d = true →
    t = malformed h ({ j with begun := true }) 8 (updJob h j.id (fun k => { k with begun := true }) s) →
    (s.pw.stopped = false → exec (.chanCreate h q i m) s = .next (follows t)) ∧
    (quiet s t = true → exec (.chanCreate h q i m) s = .next t)) ∧
  (∀ (h q : Nat) (i : Word) (m : HostView) (j : Job) (c : Nat) (a : Acc (List Word)) (w : State) (s t : State),
    hostUp s h = true → freshJob s h q i 104 = some j → c = fAt (Job.op j) 11 0 24 →
    chanVoid (updJob h j.id (fun k => { k with begun := true }) s) h c = false →
    (chanOf (updJob h j.id (fun k => { k with begun := true }) s) h c).st = .absent →
    rdWords h (wqOf (updJob h j.id (fun k => { k with begun := true }) s) h j.q).fn (viewOf m s) (u64 (Job.op j) 4) 16
        (updJob h j.id (fun k => { k with begun := true }) s) = (a, w) →
    (match a with | .ok _ => false | _ => true) = true →
    t = failAcc h ({ j with begun := true }) 0 a w →
    (s.pw.stopped = false → exec (.chanCreate h q i m) s = .next (follows t)) ∧
    (quiet s t = true → exec (.chanCreate h q i m) s = .next t)) ∧
  (∀ (h q : Nat) (i : Word) (m : HostView) (j : Job) (c : Nat) (s t : State),
    hostUp s h = true → freshJob s h q i 104 = some j → c = fAt (Job.op j) 11 0 24 →
    chanVoid (updJob h j.id (fun k => { k with begun := true }) s) h c = true →
    t = malformed h ({ j with begun := true }) 10 (updJob h j.id (fun k => { k with begun := true }) s) →
    (s.pw.stopped = false → exec (.chanCreate h q i m) s = .next (follows t)) ∧
    (quiet s t = true → exec (.chanCreate h q i m) s = .next t)) ∧
  (∀ (h q : Nat) (i : Word) (m : HostView) (j : Job) (c : Nat) (s t : State),
    hostUp s h = true → freshJob s h q i 104 = some j → c = fAt (Job.op j) 11 0 24 →
    chanVoid (updJob h j.id (fun k => { k with begun := true }) s) h c = false →
    (chanOf (updJob h j.id (fun k => { k with begun := true }) s) h c).st ≠ .absent →
    t = malformed h ({ j with begun := true }) 9 (updJob h j.id (fun k => { k with begun := true }) s) →
    (s.pw.stopped = false → exec (.chanCreate h q i m) s = .next (follows t)) ∧
    (quiet s t = true → exec (.chanCreate h q i m) s = .next t)) ∧
  (∀ (h q : Nat) (i : Word) (j : Job) (c : Nat) (s t : State),
    hostUp s h = true → freshJob s h q i 105 = some j → c = fAt (Job.op j) 11 0 24 → c ≠ 0 →
    (chanOf (updJob h j.id (fun k => { k with begun := true }) s) h c).st = .active ∨ (chanOf (updJob h j.id (fun k => { k
        with begun := true }) s) h c).st = .error →
    mayActFor (wqOf (updJob h j.id (fun k => { k with begun := true }) s) h j.q) (chanOf (updJob h j.id (fun k => { k with
          begun := true }) s) h c).fn = true →
    fAt (Job.op j) 12 0 16 ≠ (chanOf (updJob h j.id (fun k => { k with begun := true }) s) h c).inc.toNat →
    t = finishJob h ({ j with begun := true }) 0 0 0 (updChan h c (fun x => { x with
          st := .active,
          cause := 0,
          inc := BitVec.ofNat 16 (fAt (Job.op j) 12 0 16),
          txNext := wAt (Job.op j) 13,
          lastAck := wAt (Job.op j) 13,
          txMsn := 0,
          expect := wAt (Job.op j) 14,
          bitmap := 0,
          window := false,
          rxMsn := 0,
          lasts := [],
          parked := [],
          busy := [],
          atomics := [],
          refused := none,
          olds := [],
          ackN := 0,
          ackTimer := false,
          sums := [],
          late := [],
          msgs := [],
          backoff := 0 }) (stopChanWaits h c (failJobs h c none 0x22 0x22 0 (updJob h j.id (fun k => { k with
          begun := true }) s)))) →
    (s.pw.stopped = false → exec (.chanModify h q i) s = .next (follows t)) ∧
    (quiet s t = true → exec (.chanModify h q i) s = .next t)) ∧
  (∀ (h q : Nat) (i : Word) (j : Job) (c : Nat) (s t : State),
    hostUp s h = true → freshJob s h q i 105 = some j → c = fAt (Job.op j) 11 0 24 → c ≠ 0 →
    (chanOf (updJob h j.id (fun k => { k with begun := true }) s) h c).st = .active ∨ (chanOf (updJob h j.id (fun k => { k
        with begun := true }) s) h c).st = .error →
    mayActFor (wqOf (updJob h j.id (fun k => { k with begun := true }) s) h j.q) (chanOf (updJob h j.id (fun k => { k with
          begun := true }) s) h c).fn = true →
    fAt (Job.op j) 12 0 16 = (chanOf (updJob h j.id (fun k => { k with begun := true }) s) h c).inc.toNat →
    t = malformed h ({ j with begun := true }) 8 (updJob h j.id (fun k => { k with begun := true }) s) →
    (s.pw.stopped = false → exec (.chanModify h q i) s = .next (follows t)) ∧
    (quiet s t = true → exec (.chanModify h q i) s = .next t)) ∧
  (∀ (h q : Nat) (i : Word) (j : Job) (c : Nat) (x : Chan) (js : List Job) (fs : List Fetch) (s t : State),
    hostUp s h = true → freshJob s h q i 106 = some j → c = fAt (Job.op j) 11 0 24 → c ≠ 0 →
    (chanOf (updJob h j.id (fun k => { k with begun := true }) s) h c).st = .active ∨ (chanOf (updJob h j.id (fun k => { k
        with begun := true }) s) h c).st = .error →
    mayActFor (wqOf (updJob h j.id (fun k => { k with begun := true }) s) h j.q) (chanOf (updJob h j.id (fun k => { k with
          begun := true }) s) h c).fn = true →
    x = chanOf (updJob h j.id (fun k => { k with begun := true }) s) h c →
    js = (hport (updJob h j.id (fun k => { k with begun := true }) s) h).jobs.filter (fun k => k.chan == c && (k.sent == 0
        || (k.rndv && k.left == 0))) →
    fs = x.fetches.filter (fun f => !f.sent) →
    t = fs.foldl (fun s f => mtcCause h 5 (failRecv h f.job 0x22 0 0 (fetchFlags f) s)) (js.foldl (fun s k => finishJob h
        k 0x22 k.acked 0 s) (setChan h c { x with
          st := .draining,
          destroy := some j.id,
          fetches := x.fetches.filter (fun f => f.sent),
          toSend := x.toSend.filter (fun u => !(u.job.any (fun i => js.any (fun k => k.id == i)) || u.fetch.any (fun o =>
            fs.any (fun f => f.orig == o)))),
          line := x.line.filter (fun t => !(match t with
            | .job i => (js.any (fun k => k.id == i))
            | .fetch o => (fs.any (fun f => f.orig == o))
            | .done _ => false)) } (updJob h j.id (fun k => { k with begun := true }) s))) →
    (s.pw.stopped = false → exec (.chanDestroy h q i) s = .next (follows t)) ∧
    (quiet s t = true → exec (.chanDestroy h q i) s = .next t)) ∧
  (∀ (h q : Nat) (i : Word) (j : Job) (c : Nat) (s t : State),
    hostUp s h = true → freshJob s h q i 107 = some j → c = fAt (Job.op j) 11 0 24 → u64 (Job.op j) 4 % 64 = 0 →
    (chanOf (updJob h j.id (fun k => { k with begun := true }) s) h c).st ≠ .absent →
    mayActFor (wqOf (updJob h j.id (fun k => { k with begun := true }) s) h j.q) (chanOf (updJob h j.id (fun k => { k with
          begun := true }) s) h c).fn = true →
    t = finishJob h ({ j with begun := true }) 0 64 0 (hostWr h (wqOf (updJob h j.id (fun k => { k with begun := true })
        s) h j.q).fn (u64 (Job.op j) 4) (wBytes (chanSummary (updJob h j.id (fun k => { k with begun := true }) s) h c))
        true (updJob h j.id (fun k => { k with begun := true }) s)) →
    (s.pw.stopped = false → exec (.chanQuery h q i) s = .next (follows t)) ∧
    (quiet s t = true → exec (.chanQuery h q i) s = .next t)) ∧
  (∀ (h q : Nat) (i : Word) (j : Job) (c : Nat) (s t : State),
    hostUp s h = true → freshJob s h q i 107 = some j → c = fAt (Job.op j) 11 0 24 → u64 (Job.op j) 4 % 64 = 0 →
    (chanOf (updJob h j.id (fun k => { k with begun := true }) s) h c).st = .absent →
    t = finishJob h ({ j with begun := true }) 0 64 0 (hostWr h (wqOf (updJob h j.id (fun k => { k with begun := true })
        s) h j.q).fn (u64 (Job.op j) 4) (wBytes (List.replicate 16 0)) true (updJob h j.id (fun k => { k with
          begun := true }) s)) →
    (s.pw.stopped = false → exec (.chanQuery h q i) s = .next (follows t)) ∧
    (quiet s t = true → exec (.chanQuery h q i) s = .next t)) ∧
  (∀ (h q : Nat) (i : Word) (j : Job) (s t : State),
    hostUp s h = true → freshJob s h q i 107 = some j → u64 (Job.op j) 4 % 64 ≠ 0 →
    t = malformed h ({ j with begun := true }) 8 (updJob h j.id (fun k => { k with begun := true }) s) →
    (s.pw.stopped = false → exec (.chanQuery h q i) s = .next (follows t)) ∧
    (quiet s t = true → exec (.chanQuery h q i) s = .next t)) ∧
  (∀ (h q : Nat) (i : Word) (j : Job) (c : Nat) (s t : State),
    hostUp s h = true → freshJob s h q i 105 = some j → c = fAt (Job.op j) 11 0 24 →
    c = 0 ∨ (chanOf (updJob h j.id (fun k => { k with begun := true }) s) h c).st = .absent →
    t = malformed h ({ j with begun := true }) 10 (updJob h j.id (fun k => { k with begun := true }) s) →
    (s.pw.stopped = false → exec (.chanModify h q i) s = .next (follows t)) ∧
    (quiet s t = true → exec (.chanModify h q i) s = .next t)) ∧
  (∀ (h q : Nat) (i : Word) (j : Job) (c : Nat) (s t : State),
    hostUp s h = true → freshJob s h q i 105 = some j → c = fAt (Job.op j) 11 0 24 → c ≠ 0 →
    (chanOf (updJob h j.id (fun k => { k with begun := true }) s) h c).st = .draining →
    mayActFor (wqOf (updJob h j.id (fun k => { k with begun := true }) s) h j.q) (chanOf (updJob h j.id (fun k => { k with
          begun := true }) s) h c).fn = true →
    t = malformed h ({ j with begun := true }) 9 (updJob h j.id (fun k => { k with begun := true }) s) →
    (s.pw.stopped = false → exec (.chanModify h q i) s = .next (follows t)) ∧
    (quiet s t = true → exec (.chanModify h q i) s = .next t)) ∧
  (∀ (h q : Nat) (i : Word) (j : Job) (c : Nat) (s t : State),
    hostUp s h = true → freshJob s h q i 106 = some j → c = fAt (Job.op j) 11 0 24 →
    c = 0 ∨ (chanOf (updJob h j.id (fun k => { k with begun := true }) s) h c).st = .absent →
    t = malformed h ({ j with begun := true }) 10 (updJob h j.id (fun k => { k with begun := true }) s) →
    (s.pw.stopped = false → exec (.chanDestroy h q i) s = .next (follows t)) ∧
    (quiet s t = true → exec (.chanDestroy h q i) s = .next t)) ∧
  (∀ (h q : Nat) (i : Word) (j : Job) (c : Nat) (s t : State),
    hostUp s h = true → freshJob s h q i 106 = some j → c = fAt (Job.op j) 11 0 24 → c ≠ 0 →
    (chanOf (updJob h j.id (fun k => { k with begun := true }) s) h c).st = .draining →
    mayActFor (wqOf (updJob h j.id (fun k => { k with begun := true }) s) h j.q) (chanOf (updJob h j.id (fun k => { k with
          begun := true }) s) h c).fn = true →
    t = malformed h ({ j with begun := true }) 9 (updJob h j.id (fun k => { k with begun := true }) s) →
    (s.pw.stopped = false → exec (.chanDestroy h q i) s = .next (follows t)) ∧
    (quiet s t = true → exec (.chanDestroy h q i) s = .next t)) ∧
  (∀ (h q : Nat) (i : Word) (j : Job) (c : Nat) (s t : State),
    hostUp s h = true → freshJob s h q i 105 = some j → c = fAt (Job.op j) 11 0 24 → c ≠ 0 → u64 (Job.op j) 4 % 64 = 0 →
    (chanOf (updJob h j.id (fun k => { k with begun := true }) s) h c).st ≠ .absent →
    mayActFor (wqOf (updJob h j.id (fun k => { k with begun := true }) s) h j.q) (chanOf (updJob h j.id (fun k => { k with
          begun := true }) s) h c).fn = false →
    t = malformed h ({ j with begun := true }) 2 (updJob h j.id (fun k => { k with begun := true }) s) →
    (s.pw.stopped = false → exec (.chanModify h q i) s = .next (follows t)) ∧
    (quiet s t = true → exec (.chanModify h q i) s = .next t)) ∧
  (∀ (h q : Nat) (i : Word) (j : Job) (c : Nat) (s t : State),
    hostUp s h = true → freshJob s h q i 106 = some j → c = fAt (Job.op j) 11 0 24 → c ≠ 0 → u64 (Job.op j) 4 % 64 = 0 →
    (chanOf (updJob h j.id (fun k => { k with begun := true }) s) h c).st ≠ .absent →
    mayActFor (wqOf (updJob h j.id (fun k => { k with begun := true }) s) h j.q) (chanOf (updJob h j.id (fun k => { k with
          begun := true }) s) h c).fn = false →
    t = malformed h ({ j with begun := true }) 2 (updJob h j.id (fun k => { k with begun := true }) s) →
    (s.pw.stopped = false → exec (.chanDestroy h q i) s = .next (follows t)) ∧
    (quiet s t = true → exec (.chanDestroy h q i) s = .next t)) ∧
  (∀ (h q : Nat) (i : Word) (j : Job) (c : Nat) (s t : State),
    hostUp s h = true → freshJob s h q i 107 = some j → c = fAt (Job.op j) 11 0 24 → c ≠ 0 → u64 (Job.op j) 4 % 64 = 0 →
    (chanOf (updJob h j.id (fun k => { k with begun := true }) s) h c).st ≠ .absent →
    mayActFor (wqOf (updJob h j.id (fun k => { k with begun := true }) s) h j.q) (chanOf (updJob h j.id (fun k => { k with
          begun := true }) s) h c).fn = false →
    t = malformed h ({ j with begun := true }) 2 (updJob h j.id (fun k => { k with begun := true }) s) →
    (s.pw.stopped = false → exec (.chanQuery h q i) s = .next (follows t)) ∧
    (quiet s t = true → exec (.chanQuery h q i) s = .next t)) ∧
  (∀ (h c : Nat) (j : Job) (u : State) (s t : State),
    hostUp s h = true → chanDrained s h c = true →
    u = hostWr h 0 (ctxAddr s h c) (List.replicate 512 0) false (stopChanWaits h c ((chanOf s h c).parked.foldl (fun s _
        => trnStale h 10 s) s)) →
    (chanOf s h c).destroy.bind (jobOf s h) = some j →
    t = finishJob h j 0 0 0 { u with hs.chans := Maps.erase (objKey 24 h c) u.hs.chans } →
    (s.pw.stopped = false → exec (.channelDrainDone h c) s = .next (follows t)) ∧
    (quiet s t = true → exec (.channelDrainDone h c) s = .next t)) ∧
  (∀ (h c : Nat) (u : State) (s t : State),
    hostUp s h = true → chanDrained s h c = true →
    u = hostWr h 0 (ctxAddr s h c) (List.replicate 512 0) false (stopChanWaits h c ((chanOf s h c).parked.foldl (fun s _
        => trnStale h 10 s) s)) →
    (chanOf s h c).destroy.bind (jobOf s h) = none →
    t = { u with hs.chans := Maps.erase (objKey 24 h c) u.hs.chans } →
    (s.pw.stopped = false → exec (.channelDrainDone h c) s = .next (follows t)) ∧
    (quiet s t = true → exec (.channelDrainDone h c) s = .next t)) ∧
  (∀ (h c : Nat) (s t : State),
    hostUp s h = false ∨ chanDrained s h c = false →
    t = s →
    (s.pw.stopped = false → exec (.channelDrainDone h c) s = .next (follows t)) ∧
    (quiet s t = true → exec (.channelDrainDone h c) s = .next t)) ∧
  (∀ (h q : Nat) (i : Word) (m : HostView) (s t : State),
    hostUp s h = false ∨ freshJob s h q i 16 = none →
    t = s →
    (s.pw.stopped = false → exec (.write h q i m) s = .next (follows t)) ∧
    (quiet s t = true → exec (.write h q i m) s = .next t)) ∧
  (∀ (h q : Nat) (i : Word) (m : HostView) (s t : State),
    hostUp s h = false ∨ freshJob s h q i 17 = none →
    t = s →
    (s.pw.stopped = false → exec (.writeImm h q i m) s = .next (follows t)) ∧
    (quiet s t = true → exec (.writeImm h q i m) s = .next t)) ∧
  (∀ (h q : Nat) (i : Word) (m : HostView) (s t : State),
    hostUp s h = false ∨ freshJob s h q i 18 = none →
    t = s →
    (s.pw.stopped = false → exec (.read h q i m) s = .next (follows t)) ∧
    (quiet s t = true → exec (.read h q i m) s = .next t)) ∧
  (∀ (h q : Nat) (i : Word) (m : HostView) (s t : State),
    hostUp s h = false ∨ freshJob s h q i 19 = none →
    t = s →
    (s.pw.stopped = false → exec (.atomic h q i m) s = .next (follows t)) ∧
    (quiet s t = true → exec (.atomic h q i m) s = .next t)) ∧
  (∀ (h q : Nat) (i : Word) (m : HostView) (s t : State),
    hostUp s h = false ∨ freshJob s h q i 104 = none →
    t = s →
    (s.pw.stopped = false → exec (.chanCreate h q i m) s = .next (follows t)) ∧
    (quiet s t = true → exec (.chanCreate h q i m) s = .next t)) ∧
  (∀ (h q : Nat) (i : Word) (s t : State),
    hostUp s h = false ∨ freshJob s h q i 105 = none →
    t = s →
    (s.pw.stopped = false → exec (.chanModify h q i) s = .next (follows t)) ∧
    (quiet s t = true → exec (.chanModify h q i) s = .next t)) ∧
  (∀ (h q : Nat) (i : Word) (s t : State),
    hostUp s h = false ∨ freshJob s h q i 106 = none →
    t = s →
    (s.pw.stopped = false → exec (.chanDestroy h q i) s = .next (follows t)) ∧
    (quiet s t = true → exec (.chanDestroy h q i) s = .next t)) ∧
  (∀ (h q : Nat) (i : Word) (s t : State),
    hostUp s h = false ∨ freshJob s h q i 107 = none →
    t = s →
    (s.pw.stopped = false → exec (.chanQuery h q i) s = .next (follows t)) ∧
    (quiet s t = true → exec (.chanQuery h q i) s = .next t))

/-- An arriving WRITE is executed once when its PSN and order allow it, and otherwise answered, parked or dropped as R254
says. A WRITE that a Bole accepts for a cached channel, at any distance below 2,048 from the expected PSN, not yet
executed, not held back, with a window slot where it needs one and alive: with an access that passes, its bytes are
written, with relaxed ordering unless it carries FINAL, they are added to its message's sum, its lateness is judged, the
window slides and R260 is applied; bytes whose MSG_CHECK fails stay, and it has not executed; with an access that fails it
has executed when the violation has been recorded and the NAK sent; while host memory is asked it waits. On an UNRELIABLE
channel it executes without answer, and in ERROR not at all. A duplicate is acknowledged, with the same NAK when it was the
last packet refused. Its INCARNATION differs from the context's, its source is not the peer, or its PSN lies 2,048 and more
beyond the expected one: it is dropped and counted in its counter; the channel is in ERROR: the answer is CHANNEL_ERROR; it
is in execution already: it is counted a duplicate; the order holds it back: it is parked; the alive test fails: the
failure is recorded. A packet that is not accepted changes no more than those tests do, and one whose context is not cached
is parked and the record fetched. -/
def Obligations.ArrivalOfWrites : Prop :=
  (∀ (h : Nat) (p : Packet) (m : HostView) (r u w : State) (c : Nat) (x : Chan) (v : View) (d : Nat) (y : State) (z : Chan) (g : Grant) (a b : State) (s t : State),
    arrived h 1 p s = (r, true) → c = p.chan.toNat → u = inc (trnCtr h 1) r → (chanOf u h c).cached = true →
    v = viewOf m u → w = (takeCore h c (meetCtx h c u)).1 → x = chanOf w h c → p.inc = x.inc → p.src = x.peer →
    x.unrel = false → x.st ≠ .error → d = (p.psn - x.expect).toNat → d < 2048 → executedAt x d = false →
    x.busy.any (fun q => q.psn == p.psn) = false → heldBack x d p = false →
    (if d = 0 ∨ x.window then (w, true) else freeSlots (boleOf h) (objKey 24 h c) 1 w) = (y, true) →
    aliveOk x d p = true → z = chanOf y h c →
    access h (Packet.extW p 0 2) (violAddr p) p.payload.length .remoteWrite (chanWho z) v y = (.ok g, a) →
    checkOk z p = true → b = writeGrant h g (!bitW (Packet.extW p 0 1) 29) p.payload (cvuGood h z a) →
    t = afterRx h c p v (.over, ackDue h c p (markDone h c d p (updChan h c (fun x => { x with
          sums := Maps.upd 0 x.sums (msnOf p) (fun n => n + p.payload.length),
          late := if (deliverAsd h p b).2 then BitVec.ofNat 24 (msnOf p) :: x.late else x.late }) (deliverAsd h p b).1)))
        →
    (s.pw.stopped = false → exec (.writePacketRx h p m) s = .next (follows t)) ∧
    (quiet s t = true → exec (.writePacketRx h p m) s = .next t)) ∧
  (∀ (h : Nat) (p : Packet) (m : HostView) (r u w : State) (c : Nat) (x : Chan) (v : View) (d : Nat) (y : State) (z : Chan) (g : Grant) (a : State) (s t : State),
    arrived h 1 p s = (r, true) → c = p.chan.toNat → u = inc (trnCtr h 1) r → (chanOf u h c).cached = true →
    v = viewOf m u → w = (takeCore h c (meetCtx h c u)).1 → x = chanOf w h c → p.inc = x.inc → p.src = x.peer →
    x.unrel = false → x.st ≠ .error → d = (p.psn - x.expect).toNat → d < 2048 → executedAt x d = false →
    x.busy.any (fun q => q.psn == p.psn) = false → heldBack x d p = false →
    (if d = 0 ∨ x.window then (w, true) else freeSlots (boleOf h) (objKey 24 h c) 1 w) = (y, true) →
    aliveOk x d p = true → z = chanOf y h c →
    access h (Packet.extW p 0 2) (violAddr p) p.payload.length .remoteWrite (chanWho z) v y = (.ok g, a) →
    checkOk z p = false →
    t = afterRx h c p v (.over, cvuFail h 3 p (writeGrant h { g with d := g.d.set 0 (wAt g.d 0 &&& 0xFFFFFFDF) } (!bitW
        (Packet.extW p 0 1) 29) p.payload a)) →
    (s.pw.stopped = false → exec (.writePacketRx h p m) s = .next (follows t)) ∧
    (quiet s t = true → exec (.writePacketRx h p m) s = .next t)) ∧
  (∀ (h : Nat) (p : Packet) (m : HostView) (r u w : State) (c : Nat) (x : Chan) (v : View) (d : Nat) (y : State) (z : Chan) (k : Nat) (a : State) (s t : State),
    arrived h 1 p s = (r, true) → c = p.chan.toNat → u = inc (trnCtr h 1) r → (chanOf u h c).cached = true →
    v = viewOf m u → w = (takeCore h c (meetCtx h c u)).1 → x = chanOf w h c → p.inc = x.inc → p.src = x.peer →
    x.unrel = false → x.st ≠ .error → d = (p.psn - x.expect).toNat → d < 2048 → executedAt x d = false →
    x.busy.any (fun q => q.psn == p.psn) = false → heldBack x d p = false →
    (if d = 0 ∨ x.window then (w, true) else freeSlots (boleOf h) (objKey 24 h c) 1 w) = (y, true) →
    aliveOk x d p = true → z = chanOf y h c →
    access h (Packet.extW p 0 2) (violAddr p) p.payload.length .remoteWrite (chanWho z) v y = (.fail k, a) →
    t = afterRx h c p v (.over, markRefused h c d p k (sendAck h c p.psn 0x10 k (violation h c p k a))) →
    (s.pw.stopped = false → exec (.writePacketRx h p m) s = .next (follows t)) ∧
    (quiet s t = true → exec (.writePacketRx h p m) s = .next t)) ∧
  (∀ (h : Nat) (p : Packet) (m : HostView) (r u w : State) (c : Nat) (x : Chan) (v : View) (d : Nat) (y : State) (z : Chan) (n : Need) (a : State) (s t : State),
    arrived h 1 p s = (r, true) → c = p.chan.toNat → u = inc (trnCtr h 1) r → (chanOf u h c).cached = true →
    v = viewOf m u → w = (takeCore h c (meetCtx h c u)).1 → x = chanOf w h c → p.inc = x.inc → p.src = x.peer →
    x.unrel = false → x.st ≠ .error → d = (p.psn - x.expect).toNat → d < 2048 → executedAt x d = false →
    x.busy.any (fun q => q.psn == p.psn) = false → heldBack x d p = false →
    (if d = 0 ∨ x.window then (w, true) else freeSlots (boleOf h) (objKey 24 h c) 1 w) = (y, true) →
    aliveOk x d p = true → z = chanOf y h c →
    access h (Packet.extW p 0 2) (violAddr p) p.payload.length .remoteWrite (chanWho z) v y = (.wait n, a) →
    t = rxWait h c p n a →
    (s.pw.stopped = false → exec (.writePacketRx h p m) s = .next (follows t)) ∧
    (quiet s t = true → exec (.writePacketRx h p m) s = .next t)) ∧
  (∀ (h : Nat) (p : Packet) (m : HostView) (r u w : State) (c : Nat) (x : Chan) (v : View) (y : State) (s t : State),
    arrived h 1 p s = (r, true) → c = p.chan.toNat → u = inc (trnCtr h 1) r → (chanOf u h c).cached = true →
    v = viewOf m u → w = (takeCore h c (meetCtx h c u)).1 → x = chanOf w h c → p.inc = x.inc → p.src = x.peer →
    x.unrel = true → x.st ≠ .error → execWriteRx h c p v w = (.done, y) →
    t = afterRx h c p v (.over, if isLast p then updChan h c (fun x => { x with
          sums := Maps.erase (msnOf p) x.sums,
          late := x.late.filter (fun m => m.toNat != msnOf p) }) y else y) →
    (s.pw.stopped = false → exec (.writePacketRx h p m) s = .next (follows t)) ∧
    (quiet s t = true → exec (.writePacketRx h p m) s = .next t)) ∧
  (∀ (h : Nat) (p : Packet) (m : HostView) (r u w : State) (c : Nat) (x : Chan) (v : View) (s t : State),
    arrived h 1 p s = (r, true) → c = p.chan.toNat → u = inc (trnCtr h 1) r → (chanOf u h c).cached = true →
    v = viewOf m u → w = (takeCore h c (meetCtx h c u)).1 → x = chanOf w h c → p.inc = x.inc → p.src = x.peer →
    x.unrel = true → x.st = .error →
    t = afterRx h c p v (.over, w) →
    (s.pw.stopped = false → exec (.writePacketRx h p m) s = .next (follows t)) ∧
    (quiet s t = true → exec (.writePacketRx h p m) s = .next t)) ∧
  (∀ (h : Nat) (p : Packet) (m : HostView) (r : State) (s t : State),
    arrived h 1 p s = (r, false) →
    t = r →
    (s.pw.stopped = false → exec (.writePacketRx h p m) s = .next (follows t)) ∧
    (quiet s t = true → exec (.writePacketRx h p m) s = .next t)) ∧
  (∀ (h : Nat) (p : Packet) (m : HostView) (r : State) (c : Nat) (s t : State),
    arrived h 1 p s = (r, true) → c = p.chan.toNat → (chanOf (inc (trnCtr h 1) r) h c).cached = false →
    t = fetchCtx h c (park h c p (inc (trnCtr h 1) r)) →
    (s.pw.stopped = false → exec (.writePacketRx h p m) s = .next (follows t)) ∧
    (quiet s t = true → exec (.writePacketRx h p m) s = .next t)) ∧
  (∀ (h : Nat) (p : Packet) (m : HostView) (r u w : State) (c : Nat) (x : Chan) (v : View) (s t : State),
    arrived h 1 p s = (r, true) → c = p.chan.toNat → u = inc (trnCtr h 1) r → (chanOf u h c).cached = true →
    v = viewOf m u → w = (takeCore h c (meetCtx h c u)).1 → x = chanOf w h c → p.inc ≠ x.inc →
    t = afterRx h c p v (.over, trnStale h 7 w) →
    (s.pw.stopped = false → exec (.writePacketRx h p m) s = .next (follows t)) ∧
    (quiet s t = true → exec (.writePacketRx h p m) s = .next t)) ∧
  (∀ (h : Nat) (p : Packet) (m : HostView) (r u w : State) (c : Nat) (x : Chan) (v : View) (s t : State),
    arrived h 1 p s = (r, true) → c = p.chan.toNat → u = inc (trnCtr h 1) r → (chanOf u h c).cached = true →
    v = viewOf m u → w = (takeCore h c (meetCtx h c u)).1 → x = chanOf w h c → p.inc = x.inc → p.src ≠ x.peer →
    t = afterRx h c p v (.over, trnStale h 8 w) →
    (s.pw.stopped = false → exec (.writePacketRx h p m) s = .next (follows t)) ∧
    (quiet s t = true → exec (.writePacketRx h p m) s = .next t)) ∧
  (∀ (h : Nat) (p : Packet) (m : HostView) (r u w : State) (c : Nat) (x : Chan) (v : View) (s t : State),
    arrived h 1 p s = (r, true) → c = p.chan.toNat → u = inc (trnCtr h 1) r → (chanOf u h c).cached = true →
    v = viewOf m u → w = (takeCore h c (meetCtx h c u)).1 → x = chanOf w h c → p.inc = x.inc → p.src = x.peer →
    x.unrel = false → x.st = .error →
    t = afterRx h c p v (.over, sendAck h c p.psn 0x11 0 w) →
    (s.pw.stopped = false → exec (.writePacketRx h p m) s = .next (follows t)) ∧
    (quiet s t = true → exec (.writePacketRx h p m) s = .next t)) ∧
  (∀ (h : Nat) (p : Packet) (m : HostView) (r u w : State) (c : Nat) (x : Chan) (v : View) (s t : State),
    arrived h 1 p s = (r, true) → c = p.chan.toNat → u = inc (trnCtr h 1) r → (chanOf u h c).cached = true →
    v = viewOf m u → w = (takeCore h c (meetCtx h c u)).1 → x = chanOf w h c → p.inc = x.inc → p.src = x.peer →
    x.unrel = false → x.st ≠ .error → 2048 ≤ (p.psn - x.expect).toNat → (p.psn - x.expect).toNat < 2 ^ 31 →
    t = afterRx h c p v (.over, trnStale h 9 w) →
    (s.pw.stopped = false → exec (.writePacketRx h p m) s = .next (follows t)) ∧
    (quiet s t = true → exec (.writePacketRx h p m) s = .next t)) ∧
  (∀ (h : Nat) (p : Packet) (m : HostView) (r u w : State) (c : Nat) (x : Chan) (v : View) (d : Nat) (s t : State),
    arrived h 1 p s = (r, true) → c = p.chan.toNat → u = inc (trnCtr h 1) r → (chanOf u h c).cached = true →
    v = viewOf m u → w = (takeCore h c (meetCtx h c u)).1 → x = chanOf w h c → p.inc = x.inc → p.src = x.peer →
    x.unrel = false → x.st ≠ .error → d = (p.psn - x.expect).toNat → d < 2048 → executedAt x d = false →
    x.busy.any (fun q => q.psn == p.psn) = true →
    t = afterRx h c p v (.over, inc (trnCtr h 6) w) →
    (s.pw.stopped = false → exec (.writePacketRx h p m) s = .next (follows t)) ∧
    (quiet s t = true → exec (.writePacketRx h p m) s = .next t)) ∧
  (∀ (h : Nat) (p : Packet) (m : HostView) (r u w : State) (c : Nat) (x : Chan) (v : View) (d : Nat) (s t : State),
    arrived h 1 p s = (r, true) → c = p.chan.toNat → u = inc (trnCtr h 1) r → (chanOf u h c).cached = true →
    v = viewOf m u → w = (takeCore h c (meetCtx h c u)).1 → x = chanOf w h c → p.inc = x.inc → p.src = x.peer →
    x.unrel = false → x.st ≠ .error → d = (p.psn - x.expect).toNat → d < 2048 → executedAt x d = false →
    x.busy.any (fun q => q.psn == p.psn) = false → heldBack x d p = true →
    t = park h c p w →
    (s.pw.stopped = false → exec (.writePacketRx h p m) s = .next (follows t)) ∧
    (quiet s t = true → exec (.writePacketRx h p m) s = .next t)) ∧
  (∀ (h : Nat) (p : Packet) (m : HostView) (r u w : State) (c : Nat) (x : Chan) (v : View) (d : Nat) (y : State) (s t : State),
    arrived h 1 p s = (r, true) → c = p.chan.toNat → u = inc (trnCtr h 1) r → (chanOf u h c).cached = true →
    v = viewOf m u → w = (takeCore h c (meetCtx h c u)).1 → x = chanOf w h c → p.inc = x.inc → p.src = x.peer →
    x.unrel = false → x.st ≠ .error → d = (p.psn - x.expect).toNat → d < 2048 → executedAt x d = false →
    x.busy.any (fun q => q.psn == p.psn) = false → heldBack x d p = false →
    (if d = 0 ∨ x.window then (w, true) else freeSlots (boleOf h) (objKey 24 h c) 1 w) = (y, true) →
    aliveOk x d p = false →
    t = afterRx h c p v (.over, cvuFail h 4 p y) →
    (s.pw.stopped = false → exec (.writePacketRx h p m) s = .next (follows t)) ∧
    (quiet s t = true → exec (.writePacketRx h p m) s = .next t)) ∧
  (∀ (h : Nat) (p : Packet) (m : HostView) (r u w : State) (c : Nat) (x : Chan) (v : View) (k : Nat) (s t : State),
    arrived h 1 p s = (r, true) → c = p.chan.toNat → u = inc (trnCtr h 1) r → (chanOf u h c).cached = true →
    v = viewOf m u → w = (takeCore h c (meetCtx h c u)).1 → x = chanOf w h c → p.inc = x.inc → p.src = x.peer →
    x.unrel = false → x.st ≠ .error →
    2 ^ 31 ≤ (p.psn - x.expect).toNat ∨ ((p.psn - x.expect).toNat < 2048 ∧ executedAt x (p.psn - x.expect).toNat = true) →
    x.refused = some (p.psn, k) →
    t = afterRx h c p v (.over, sendAck h c p.psn 0x10 k (inc (trnCtr h 6) w)) →
    (s.pw.stopped = false → exec (.writePacketRx h p m) s = .next (follows t)) ∧
    (quiet s t = true → exec (.writePacketRx h p m) s = .next t)) ∧
  (∀ (h : Nat) (p : Packet) (m : HostView) (r u w : State) (c : Nat) (x : Chan) (v : View) (s t : State),
    arrived h 1 p s = (r, true) → c = p.chan.toNat → u = inc (trnCtr h 1) r → (chanOf u h c).cached = true →
    v = viewOf m u → w = (takeCore h c (meetCtx h c u)).1 → x = chanOf w h c → p.inc = x.inc → p.src = x.peer →
    x.unrel = false → x.st ≠ .error →
    2 ^ 31 ≤ (p.psn - x.expect).toNat ∨ ((p.psn - x.expect).toNat < 2048 ∧ executedAt x (p.psn - x.expect).toNat = true) →
    x.refused.all (fun e => e.1 != p.psn) = true → x.olds.contains p.psn = true →
    t = afterRx h c p v (.over, sendAck h c p.psn 0 0 (inc (trnCtr h 6) w)) →
    (s.pw.stopped = false → exec (.writePacketRx h p m) s = .next (follows t)) ∧
    (quiet s t = true → exec (.writePacketRx h p m) s = .next t)) ∧
  (∀ (h : Nat) (p : Packet) (m : HostView) (r u w : State) (c : Nat) (x : Chan) (v : View) (s t : State),
    arrived h 1 p s = (r, true) → c = p.chan.toNat → u = inc (trnCtr h 1) r → (chanOf u h c).cached = true →
    v = viewOf m u → w = (takeCore h c (meetCtx h c u)).1 → x = chanOf w h c → p.inc = x.inc → p.src = x.peer →
    x.unrel = false → x.st ≠ .error →
    2 ^ 31 ≤ (p.psn - x.expect).toNat ∨ ((p.psn - x.expect).toNat < 2048 ∧ executedAt x (p.psn - x.expect).toNat = true) →
    x.refused.all (fun e => e.1 != p.psn) = true →
    t = afterRx h c p v (.over, sendAck h c p.psn 0 0 (inc (trnCtr h 6) w)) →
    (s.pw.stopped = false → exec (.writePacketRx h p m) s = .next (follows t)) ∧
    (quiet s t = true → exec (.writePacketRx h p m) s = .next t))

/-- A WRITE_IMM that may execute puts its notice, READ_REQ sends the data, and ATOMIC_REQ sends the original value. A
packet that a Bole accepts for a cached reliable channel and that may execute, at any distance below 2,048: WRITE_IMM
queues the format 2 completion with the immediate, the source, the bytes of its message's WRITEs and the channel, a full
notice CQ answers RECEIVER_NOT_READY, and a MSG_CHECK that fails is recorded; READ_REQ answers with the data read;
ATOMIC_REQ stores what its operation gives, or nothing where it gives nothing, keeps the original value and answers with
it; a length, a crossing, an operation or an alignment that R253 forbids answers BAD_REQUEST; an access that fails is a
violation, answered and remembered; while host memory is asked the packet waits, and a READ_REQ that it does not answer is
dropped. A duplicate of the last refused packet gets its NAK again, of an older refused one an ACK; of a WRITE_IMM an ACK,
of a READ_REQ the data read again, of an ATOMIC_REQ the value kept, or nothing when it is no longer kept. For each of the
three rows: Its INCARNATION differs from the context's, its source is not the peer, or its PSN lies 2,048 and more beyond
the expected one: it is dropped and counted in its counter; the channel is in ERROR: the answer is CHANNEL_ERROR; it is in
execution already: it is counted a duplicate; the order holds it back: it is parked; the alive test fails: the failure is
recorded. A packet that is not accepted changes no more than those tests do, and one whose context is not cached is parked
and the record fetched. CTX_FETCH_DONE with slots free, or made free, brings the record into the cache, and the parked
packets and the waiting line go on; a read that failed drops the parked packets; it does nothing where no fetch is out. The
acknowledgement timer sends the ACK that is owed, and nothing elsewhere. -/
def Obligations.ArrivalOfRequests : Prop :=
  (∀ (h : Nat) (p : Packet) (m : HostView) (r u w : State) (c : Nat) (x : Chan) (v : View) (d : Nat) (y : State) (z : Chan) (s t : State),
    arrived h 2 p s = (r, true) → c = p.chan.toNat → u = inc (trnCtr h 1) r → (chanOf u h c).cached = true →
    v = viewOf m u → w = (takeCore h c (meetCtx h c u)).1 → x = chanOf w h c → p.inc = x.inc → p.src = x.peer →
    x.unrel = false → x.st ≠ .error → d = (p.psn - x.expect).toNat → d < 2048 → executedAt x d = false →
    x.busy.any (fun q => q.psn == p.psn) = false → heldBack x d p = false →
    (if d = 0 ∨ x.window then (w, true) else freeSlots (boleOf h) (objKey 24 h c) 1 w) = (y, true) →
    aliveOk x d p = true → z = chanOf y h c → cqFull y h z.cq = false → checkOk z p = true →
    t = afterRx h c p v (.over, ackDue h c p (markDone h c d p (pushNotice h z.cq ([Packet.extW p 0 2, w32 p.src.toNat,
        w32 (Maps.get 0 z.sums (BitVec.ofNat 24 (msnOf p)).toNat), w32 c, 0, 0] ++ compTail 0xFFFFF 0x11 2 0 (flLate
        ((deliverAsd h p (cvuGood h z y)).2 || z.late.contains (BitVec.ofNat 24 (msnOf p))) ||| 64)) (deliverAsd h p
        (cvuGood h z y)).1))) →
    (s.pw.stopped = false → exec (.writeImmPacketRx h p m) s = .next (follows t)) ∧
    (quiet s t = true → exec (.writeImmPacketRx h p m) s = .next t)) ∧
  (∀ (h : Nat) (p : Packet) (m : HostView) (r u w : State) (c : Nat) (x : Chan) (v : View) (d : Nat) (y : State) (z : Chan) (s t : State),
    arrived h 2 p s = (r, true) → c = p.chan.toNat → u = inc (trnCtr h 1) r → (chanOf u h c).cached = true →
    v = viewOf m u → w = (takeCore h c (meetCtx h c u)).1 → x = chanOf w h c → p.inc = x.inc → p.src = x.peer →
    x.unrel = false → x.st ≠ .error → d = (p.psn - x.expect).toNat → d < 2048 → executedAt x d = false →
    x.busy.any (fun q => q.psn == p.psn) = false → heldBack x d p = false →
    (if d = 0 ∨ x.window then (w, true) else freeSlots (boleOf h) (objKey 24 h c) 1 w) = (y, true) →
    aliveOk x d p = true → z = chanOf y h c → cqFull y h z.cq = true →
    t = afterRx h c p v (.over, sendAck h c p.psn 1 0 y) →
    (s.pw.stopped = false → exec (.writeImmPacketRx h p m) s = .next (follows t)) ∧
    (quiet s t = true → exec (.writeImmPacketRx h p m) s = .next t)) ∧
  (∀ (h : Nat) (p : Packet) (m : HostView) (r u w : State) (c : Nat) (x : Chan) (v : View) (d : Nat) (y : State) (z : Chan) (s t : State),
    arrived h 2 p s = (r, true) → c = p.chan.toNat → u = inc (trnCtr h 1) r → (chanOf u h c).cached = true →
    v = viewOf m u → w = (takeCore h c (meetCtx h c u)).1 → x = chanOf w h c → p.inc = x.inc → p.src = x.peer →
    x.unrel = false → x.st ≠ .error → d = (p.psn - x.expect).toNat → d < 2048 → executedAt x d = false →
    x.busy.any (fun q => q.psn == p.psn) = false → heldBack x d p = false →
    (if d = 0 ∨ x.window then (w, true) else freeSlots (boleOf h) (objKey 24 h c) 1 w) = (y, true) →
    aliveOk x d p = true → z = chanOf y h c → cqFull y h z.cq = false → checkOk z p = false →
    t = afterRx h c p v (.over, cvuFail h 3 p y) →
    (s.pw.stopped = false → exec (.writeImmPacketRx h p m) s = .next (follows t)) ∧
    (quiet s t = true → exec (.writeImmPacketRx h p m) s = .next t)) ∧
  (∀ (h : Nat) (p : Packet) (m : HostView) (r u w : State) (c : Nat) (x : Chan) (v : View) (d : Nat) (y : State) (z : Chan) (bs : List Byte) (a : State) (s t : State),
    arrived h 3 p s = (r, true) → c = p.chan.toNat → u = inc (trnCtr h 1) r → (chanOf u h c).cached = true →
    v = viewOf m u → w = (takeCore h c (meetCtx h c u)).1 → x = chanOf w h c → p.inc = x.inc → p.src = x.peer →
    x.unrel = false → x.st ≠ .error → d = (p.psn - x.expect).toNat → d < 2048 → executedAt x d = false →
    x.busy.any (fun q => q.psn == p.psn) = false → heldBack x d p = false →
    (if d = 0 ∨ x.window then (w, true) else freeSlots (boleOf h) (objKey 24 h c) 1 w) = (y, true) →
    aliveOk x d p = true → z = chanOf y h c → Packet.extF p 0 1 16 13 ≤ 4096 →
    Packet.extF p 0 1 16 13 = 0 ∨ violAddr p % 4096 + Packet.extF p 0 1 16 13 ≤ 4096 → checkOk z p = true →
    readRegion h (Packet.extW p 0 2) (violAddr p) (Packet.extF p 0 1 16 13) .remoteRead (chanWho z) v y = (.ok bs, a) →
    t = afterRx h c p v (.over, sendResp h c p 4 exAck [] bs (markDone h c d p (cvuGood h z a))) →
    (s.pw.stopped = false → exec (.readReq h p m) s = .next (follows t)) ∧
    (quiet s t = true → exec (.readReq h p m) s = .next t)) ∧
  (∀ (h : Nat) (p : Packet) (m : HostView) (r u w : State) (c : Nat) (x : Chan) (v : View) (d : Nat) (y : State) (z : Chan) (k : Nat) (a : State) (s t : State),
    arrived h 3 p s = (r, true) → c = p.chan.toNat → u = inc (trnCtr h 1) r → (chanOf u h c).cached = true →
    v = viewOf m u → w = (takeCore h c (meetCtx h c u)).1 → x = chanOf w h c → p.inc = x.inc → p.src = x.peer →
    x.unrel = false → x.st ≠ .error → d = (p.psn - x.expect).toNat → d < 2048 → executedAt x d = false →
    x.busy.any (fun q => q.psn == p.psn) = false → heldBack x d p = false →
    (if d = 0 ∨ x.window then (w, true) else freeSlots (boleOf h) (objKey 24 h c) 1 w) = (y, true) →
    aliveOk x d p = true → z = chanOf y h c → Packet.extF p 0 1 16 13 ≤ 4096 →
    Packet.extF p 0 1 16 13 = 0 ∨ violAddr p % 4096 + Packet.extF p 0 1 16 13 ≤ 4096 → checkOk z p = true →
    readRegion h (Packet.extW p 0 2) (violAddr p) (Packet.extF p 0 1 16 13) .remoteRead (chanWho z) v y = (.fail k, a) →
    t = afterRx h c p v (.over, markRefused h c d p k (sendAck h c p.psn 0x10 k (violation h c p k a))) →
    (s.pw.stopped = false → exec (.readReq h p m) s = .next (follows t)) ∧
    (quiet s t = true → exec (.readReq h p m) s = .next t)) ∧
  (∀ (h : Nat) (p : Packet) (m : HostView) (r u w : State) (c : Nat) (x : Chan) (v : View) (d : Nat) (y : State) (z : Chan) (n : Need) (a : State) (s t : State),
    arrived h 3 p s = (r, true) → c = p.chan.toNat → u = inc (trnCtr h 1) r → (chanOf u h c).cached = true →
    v = viewOf m u → w = (takeCore h c (meetCtx h c u)).1 → x = chanOf w h c → p.inc = x.inc → p.src = x.peer →
    x.unrel = false → x.st ≠ .error → d = (p.psn - x.expect).toNat → d < 2048 → executedAt x d = false →
    x.busy.any (fun q => q.psn == p.psn) = false → heldBack x d p = false →
    (if d = 0 ∨ x.window then (w, true) else freeSlots (boleOf h) (objKey 24 h c) 1 w) = (y, true) →
    aliveOk x d p = true → z = chanOf y h c → Packet.extF p 0 1 16 13 ≤ 4096 →
    Packet.extF p 0 1 16 13 = 0 ∨ violAddr p % 4096 + Packet.extF p 0 1 16 13 ≤ 4096 → checkOk z p = true →
    readRegion h (Packet.extW p 0 2) (violAddr p) (Packet.extF p 0 1 16 13) .remoteRead (chanWho z) v y = (.wait n, a) →
    t = rxWait h c p n a →
    (s.pw.stopped = false → exec (.readReq h p m) s = .next (follows t)) ∧
    (quiet s t = true → exec (.readReq h p m) s = .next t)) ∧
  (∀ (h : Nat) (p : Packet) (m : HostView) (r u w : State) (c : Nat) (x : Chan) (v : View) (d : Nat) (y : State) (z : Chan) (a : State) (s t : State),
    arrived h 3 p s = (r, true) → c = p.chan.toNat → u = inc (trnCtr h 1) r → (chanOf u h c).cached = true →
    v = viewOf m u → w = (takeCore h c (meetCtx h c u)).1 → x = chanOf w h c → p.inc = x.inc → p.src = x.peer →
    x.unrel = false → x.st ≠ .error → d = (p.psn - x.expect).toNat → d < 2048 → executedAt x d = false →
    x.busy.any (fun q => q.psn == p.psn) = false → heldBack x d p = false →
    (if d = 0 ∨ x.window then (w, true) else freeSlots (boleOf h) (objKey 24 h c) 1 w) = (y, true) →
    aliveOk x d p = true → z = chanOf y h c → Packet.extF p 0 1 16 13 ≤ 4096 →
    Packet.extF p 0 1 16 13 = 0 ∨ violAddr p % 4096 + Packet.extF p 0 1 16 13 ≤ 4096 → checkOk z p = true →
    readRegion h (Packet.extW p 0 2) (violAddr p) (Packet.extF p 0 1 16 13) .remoteRead (chanWho z) v y = (.err, a) →
    t = afterRx h c p v (.over, a) →
    (s.pw.stopped = false → exec (.readReq h p m) s = .next (follows t)) ∧
    (quiet s t = true → exec (.readReq h p m) s = .next t)) ∧
  (∀ (h : Nat) (p : Packet) (m : HostView) (r u w : State) (c : Nat) (x : Chan) (v : View) (d : Nat) (y : State) (z : Chan) (n : Need) (g : Grant) (z0 : Nat) (a b : State) (s t : State),
    arrived h 5 p s = (r, true) → c = p.chan.toNat → u = inc (trnCtr h 1) r → (chanOf u h c).cached = true →
    v = viewOf m u → w = (takeCore h c (meetCtx h c u)).1 → x = chanOf w h c → p.inc = x.inc → p.src = x.peer →
    x.unrel = false → x.st ≠ .error → d = (p.psn - x.expect).toNat → d < 2048 → executedAt x d = false →
    x.busy.any (fun q => q.psn == p.psn) = false → heldBack x d p = false →
    (if d = 0 ∨ x.window then (w, true) else freeSlots (boleOf h) (objKey 24 h c) 1 w) = (y, true) →
    aliveOk x d p = true → z = chanOf y h c → z0 = (if Packet.extF p 1 1 20 1 = 1 then 8 else 4) →
    Packet.extF p 1 1 16 4 ≠ 0 → Packet.extF p 1 1 16 4 ≤ 10 → violAddr p % z0 = 0 → checkOk z p = true →
    access h (Packet.extW p 1 2) (violAddr p) z0 .remoteAtomic (chanWho z) v y = (.ok g, a) →
    readGrant h g true v a = (.wait n, b) →
    t = rxWait h c p n b →
    (s.pw.stopped = false → exec (.atomicReq h p m) s = .next (follows t)) ∧
    (quiet s t = true → exec (.atomicReq h p m) s = .next t)) ∧
  (∀ (h : Nat) (p : Packet) (m : HostView) (r u w : State) (c : Nat) (x : Chan) (v : View) (d : Nat) (y : State) (z : Chan) (s t : State),
    arrived h 3 p s = (r, true) → c = p.chan.toNat → u = inc (trnCtr h 1) r → (chanOf u h c).cached = true →
    v = viewOf m u → w = (takeCore h c (meetCtx h c u)).1 → x = chanOf w h c → p.inc = x.inc → p.src = x.peer →
    x.unrel = false → x.st ≠ .error → d = (p.psn - x.expect).toNat → d < 2048 → executedAt x d = false →
    x.busy.any (fun q => q.psn == p.psn) = false → heldBack x d p = false →
    (if d = 0 ∨ x.window then (w, true) else freeSlots (boleOf h) (objKey 24 h c) 1 w) = (y, true) →
    aliveOk x d p = true → z = chanOf y h c →
    4096 < Packet.extF p 0 1 16 13 ∨ (Packet.extF p 0 1 16 13 ≠ 0 ∧ 4096 < violAddr p % 4096 + Packet.extF p 0 1 16 13) →
    t = afterRx h c p v (.over, sendAck h c p.psn 0x12 0 y) →
    (s.pw.stopped = false → exec (.readReq h p m) s = .next (follows t)) ∧
    (quiet s t = true → exec (.readReq h p m) s = .next t)) ∧
  (∀ (h : Nat) (p : Packet) (m : HostView) (r u w : State) (c : Nat) (x : Chan) (v : View) (d : Nat) (y : State) (z : Chan) (g : Grant) (bs : List Byte) (z0 n : Nat) (a b : State) (s t : State),
    arrived h 5 p s = (r, true) → c = p.chan.toNat → u = inc (trnCtr h 1) r → (chanOf u h c).cached = true →
    v = viewOf m u → w = (takeCore h c (meetCtx h c u)).1 → x = chanOf w h c → p.inc = x.inc → p.src = x.peer →
    x.unrel = false → x.st ≠ .error → d = (p.psn - x.expect).toNat → d < 2048 → executedAt x d = false →
    x.busy.any (fun q => q.psn == p.psn) = false → heldBack x d p = false →
    (if d = 0 ∨ x.window then (w, true) else freeSlots (boleOf h) (objKey 24 h c) 1 w) = (y, true) →
    aliveOk x d p = true → z = chanOf y h c → z0 = (if Packet.extF p 1 1 20 1 = 1 then 8 else 4) →
    Packet.extF p 1 1 16 4 ≠ 0 → Packet.extF p 1 1 16 4 ≤ 10 → violAddr p % z0 = 0 → checkOk z p = true →
    access h (Packet.extW p 1 2) (violAddr p) z0 .remoteAtomic (chanWho z) v y = (.ok g, a) →
    readGrant h g true v a = (.ok bs, b) →
    atomicNew (Packet.extF p 1 1 16 4) z0 (leNat bs) ((Packet.extW p 1 4).toNat + 2 ^ 32 * (Packet.extW p 1 5).toNat)
        ((Packet.extW p 1 6).toNat + 2 ^ 32 * (Packet.extW p 1 7).toNat) = some n →
    t = afterRx h c p v (.over, sendResp h c p 6 (exAck ||| exAtomic) (atomicRespExt p (BitVec.ofNat 64 (leNat bs))) []
        (markDone h c d p (updChan h c (fun x => { x with
          atomics := keepAtomic (x.expect + 2048) p.psn (BitVec.ofNat 64 (leNat bs)) x.atomics }) (deliverAsd h p
        (writeGrant h g true (leBytes z0 n) (stopWait h (.chan c p.psn) (cvuGood h z b)))).1))) →
    (s.pw.stopped = false → exec (.atomicReq h p m) s = .next (follows t)) ∧
    (quiet s t = true → exec (.atomicReq h p m) s = .next t)) ∧
  (∀ (h : Nat) (p : Packet) (m : HostView) (r u w : State) (c : Nat) (x : Chan) (v : View) (d : Nat) (y : State) (z : Chan) (g : Grant) (bs : List Byte) (z0 : Nat) (a b : State) (s t : State),
    arrived h 5 p s = (r, true) → c = p.chan.toNat → u = inc (trnCtr h 1) r → (chanOf u h c).cached = true →
    v = viewOf m u → w = (takeCore h c (meetCtx h c u)).1 → x = chanOf w h c → p.inc = x.inc → p.src = x.peer →
    x.unrel = false → x.st ≠ .error → d = (p.psn - x.expect).toNat → d < 2048 → executedAt x d = false →
    x.busy.any (fun q => q.psn == p.psn) = false → heldBack x d p = false →
    (if d = 0 ∨ x.window then (w, true) else freeSlots (boleOf h) (objKey 24 h c) 1 w) = (y, true) →
    aliveOk x d p = true → z = chanOf y h c → z0 = (if Packet.extF p 1 1 20 1 = 1 then 8 else 4) →
    Packet.extF p 1 1 16 4 ≠ 0 → Packet.extF p 1 1 16 4 ≤ 10 → violAddr p % z0 = 0 → checkOk z p = true →
    access h (Packet.extW p 1 2) (violAddr p) z0 .remoteAtomic (chanWho z) v y = (.ok g, a) →
    readGrant h g true v a = (.ok bs, b) →
    atomicNew (Packet.extF p 1 1 16 4) z0 (leNat bs) ((Packet.extW p 1 4).toNat + 2 ^ 32 * (Packet.extW p 1 5).toNat)
        ((Packet.extW p 1 6).toNat + 2 ^ 32 * (Packet.extW p 1 7).toNat) = none →
    t = afterRx h c p v (.over, sendResp h c p 6 (exAck ||| exAtomic) (atomicRespExt p (BitVec.ofNat 64 (leNat bs))) []
        (markDone h c d p (updChan h c (fun x => { x with
          atomics := keepAtomic (x.expect + 2048) p.psn (BitVec.ofNat 64 (leNat bs)) x.atomics }) (deliverAsd h p (cvuGood
        h z b)).1))) →
    (s.pw.stopped = false → exec (.atomicReq h p m) s = .next (follows t)) ∧
    (quiet s t = true → exec (.atomicReq h p m) s = .next t)) ∧
  (∀ (h : Nat) (p : Packet) (m : HostView) (r u w : State) (c : Nat) (x : Chan) (v : View) (d : Nat) (y : State) (z : Chan) (z0 k : Nat) (a : State) (s t : State),
    arrived h 5 p s = (r, true) → c = p.chan.toNat → u = inc (trnCtr h 1) r → (chanOf u h c).cached = true →
    v = viewOf m u → w = (takeCore h c (meetCtx h c u)).1 → x = chanOf w h c → p.inc = x.inc → p.src = x.peer →
    x.unrel = false → x.st ≠ .error → d = (p.psn - x.expect).toNat → d < 2048 → executedAt x d = false →
    x.busy.any (fun q => q.psn == p.psn) = false → heldBack x d p = false →
    (if d = 0 ∨ x.window then (w, true) else freeSlots (boleOf h) (objKey 24 h c) 1 w) = (y, true) →
    aliveOk x d p = true → z = chanOf y h c → z0 = (if Packet.extF p 1 1 20 1 = 1 then 8 else 4) →
    Packet.extF p 1 1 16 4 ≠ 0 → Packet.extF p 1 1 16 4 ≤ 10 → violAddr p % z0 = 0 → checkOk z p = true →
    access h (Packet.extW p 1 2) (violAddr p) z0 .remoteAtomic (chanWho z) v y = (.fail k, a) →
    t = afterRx h c p v (.over, markRefused h c d p k (sendAck h c p.psn 0x10 k (violation h c p k a))) →
    (s.pw.stopped = false → exec (.atomicReq h p m) s = .next (follows t)) ∧
    (quiet s t = true → exec (.atomicReq h p m) s = .next t)) ∧
  (∀ (h : Nat) (p : Packet) (m : HostView) (r u w : State) (c : Nat) (x : Chan) (v : View) (d : Nat) (y : State) (z : Chan) (z0 : Nat) (s t : State),
    arrived h 5 p s = (r, true) → c = p.chan.toNat → u = inc (trnCtr h 1) r → (chanOf u h c).cached = true →
    v = viewOf m u → w = (takeCore h c (meetCtx h c u)).1 → x = chanOf w h c → p.inc = x.inc → p.src = x.peer →
    x.unrel = false → x.st ≠ .error → d = (p.psn - x.expect).toNat → d < 2048 → executedAt x d = false →
    x.busy.any (fun q => q.psn == p.psn) = false → heldBack x d p = false →
    (if d = 0 ∨ x.window then (w, true) else freeSlots (boleOf h) (objKey 24 h c) 1 w) = (y, true) →
    aliveOk x d p = true → z = chanOf y h c → z0 = (if Packet.extF p 1 1 20 1 = 1 then 8 else 4) →
    Packet.extF p 1 1 16 4 = 0 ∨ 10 < Packet.extF p 1 1 16 4 ∨ violAddr p % z0 ≠ 0 →
    t = afterRx h c p v (.over, sendAck h c p.psn 0x12 0 y) →
    (s.pw.stopped = false → exec (.atomicReq h p m) s = .next (follows t)) ∧
    (quiet s t = true → exec (.atomicReq h p m) s = .next t)) ∧
  (∀ (h : Nat) (p : Packet) (m : HostView) (r u w : State) (c : Nat) (x : Chan) (v : View) (s t : State),
    arrived h 5 p s = (r, true) → c = p.chan.toNat → u = inc (trnCtr h 1) r → (chanOf u h c).cached = true →
    v = viewOf m u → w = (takeCore h c (meetCtx h c u)).1 → x = chanOf w h c → p.inc = x.inc → p.src = x.peer →
    x.unrel = false → x.st ≠ .error →
    2 ^ 31 ≤ (p.psn - x.expect).toNat ∨ ((p.psn - x.expect).toNat < 2048 ∧ executedAt x (p.psn - x.expect).toNat = true) →
    x.refused.all (fun e => e.1 != p.psn) = true → x.olds.contains p.psn = false →
    x.atomics.find? (fun a => a.1 == p.psn) = none →
    t = afterRx h c p v (.over, inc (trnCtr h 20) (inc (trnCtr h 6) w)) →
    (s.pw.stopped = false → exec (.atomicReq h p m) s = .next (follows t)) ∧
    (quiet s t = true → exec (.atomicReq h p m) s = .next t)) ∧
  (∀ (h : Nat) (p : Packet) (m : HostView) (r u w : State) (c : Nat) (x : Chan) (v : View) (a : Word × BitVec 64) (s t : State),
    arrived h 5 p s = (r, true) → c = p.chan.toNat → u = inc (trnCtr h 1) r → (chanOf u h c).cached = true →
    v = viewOf m u → w = (takeCore h c (meetCtx h c u)).1 → x = chanOf w h c → p.inc = x.inc → p.src = x.peer →
    x.unrel = false → x.st ≠ .error →
    2 ^ 31 ≤ (p.psn - x.expect).toNat ∨ ((p.psn - x.expect).toNat < 2048 ∧ executedAt x (p.psn - x.expect).toNat = true) →
    x.refused.all (fun e => e.1 != p.psn) = true → x.olds.contains p.psn = false →
    x.atomics.find? (fun a => a.1 == p.psn) = some a →
    t = afterRx h c p v (.over, sendResp h c p 6 (exAck ||| exAtomic) (atomicRespExt p a.2) [] (inc (trnCtr h 6) w)) →
    (s.pw.stopped = false → exec (.atomicReq h p m) s = .next (follows t)) ∧
    (quiet s t = true → exec (.atomicReq h p m) s = .next t)) ∧
  (∀ (h : Nat) (p : Packet) (m : HostView) (r u w : State) (c : Nat) (x : Chan) (v : View) (ty mask : Byte) (ext : List Word) (bs : List Byte) (y : State) (s t : State),
    arrived h 3 p s = (r, true) → c = p.chan.toNat → u = inc (trnCtr h 1) r → (chanOf u h c).cached = true →
    v = viewOf m u → w = (takeCore h c (meetCtx h c u)).1 → x = chanOf w h c → p.inc = x.inc → p.src = x.peer →
    x.unrel = false → x.st ≠ .error →
    2 ^ 31 ≤ (p.psn - x.expect).toNat ∨ ((p.psn - x.expect).toNat < 2048 ∧ executedAt x (p.psn - x.expect).toNat = true) →
    x.refused.all (fun e => e.1 != p.psn) = true → x.olds.contains p.psn = false →
    execReadRx h c p v (inc (trnCtr h 6) w) = (.resp ty mask ext bs, y) →
    t = afterRx h c p v (.over, sendResp h c p ty mask ext bs y) →
    (s.pw.stopped = false → exec (.readReq h p m) s = .next (follows t)) ∧
    (quiet s t = true → exec (.readReq h p m) s = .next t)) ∧
  (∀ (h : Nat) (p : Packet) (m : HostView) (r : State) (s t : State),
    arrived h 2 p s = (r, false) →
    t = r →
    (s.pw.stopped = false → exec (.writeImmPacketRx h p m) s = .next (follows t)) ∧
    (quiet s t = true → exec (.writeImmPacketRx h p m) s = .next t)) ∧
  (∀ (h : Nat) (p : Packet) (m : HostView) (r : State) (c : Nat) (s t : State),
    arrived h 2 p s = (r, true) → c = p.chan.toNat → (chanOf (inc (trnCtr h 1) r) h c).cached = false →
    t = fetchCtx h c (park h c p (inc (trnCtr h 1) r)) →
    (s.pw.stopped = false → exec (.writeImmPacketRx h p m) s = .next (follows t)) ∧
    (quiet s t = true → exec (.writeImmPacketRx h p m) s = .next t)) ∧
  (∀ (h : Nat) (p : Packet) (m : HostView) (r u w : State) (c : Nat) (x : Chan) (v : View) (s t : State),
    arrived h 2 p s = (r, true) → c = p.chan.toNat → u = inc (trnCtr h 1) r → (chanOf u h c).cached = true →
    v = viewOf m u → w = (takeCore h c (meetCtx h c u)).1 → x = chanOf w h c → p.inc ≠ x.inc →
    t = afterRx h c p v (.over, trnStale h 7 w) →
    (s.pw.stopped = false → exec (.writeImmPacketRx h p m) s = .next (follows t)) ∧
    (quiet s t = true → exec (.writeImmPacketRx h p m) s = .next t)) ∧
  (∀ (h : Nat) (p : Packet) (m : HostView) (r u w : State) (c : Nat) (x : Chan) (v : View) (s t : State),
    arrived h 2 p s = (r, true) → c = p.chan.toNat → u = inc (trnCtr h 1) r → (chanOf u h c).cached = true →
    v = viewOf m u → w = (takeCore h c (meetCtx h c u)).1 → x = chanOf w h c → p.inc = x.inc → p.src ≠ x.peer →
    t = afterRx h c p v (.over, trnStale h 8 w) →
    (s.pw.stopped = false → exec (.writeImmPacketRx h p m) s = .next (follows t)) ∧
    (quiet s t = true → exec (.writeImmPacketRx h p m) s = .next t)) ∧
  (∀ (h : Nat) (p : Packet) (m : HostView) (r u w : State) (c : Nat) (x : Chan) (v : View) (s t : State),
    arrived h 2 p s = (r, true) → c = p.chan.toNat → u = inc (trnCtr h 1) r → (chanOf u h c).cached = true →
    v = viewOf m u → w = (takeCore h c (meetCtx h c u)).1 → x = chanOf w h c → p.inc = x.inc → p.src = x.peer →
    x.unrel = false → x.st = .error →
    t = afterRx h c p v (.over, sendAck h c p.psn 0x11 0 w) →
    (s.pw.stopped = false → exec (.writeImmPacketRx h p m) s = .next (follows t)) ∧
    (quiet s t = true → exec (.writeImmPacketRx h p m) s = .next t)) ∧
  (∀ (h : Nat) (p : Packet) (m : HostView) (r u w : State) (c : Nat) (x : Chan) (v : View) (s t : State),
    arrived h 2 p s = (r, true) → c = p.chan.toNat → u = inc (trnCtr h 1) r → (chanOf u h c).cached = true →
    v = viewOf m u → w = (takeCore h c (meetCtx h c u)).1 → x = chanOf w h c → p.inc = x.inc → p.src = x.peer →
    x.unrel = false → x.st ≠ .error → 2048 ≤ (p.psn - x.expect).toNat → (p.psn - x.expect).toNat < 2 ^ 31 →
    t = afterRx h c p v (.over, trnStale h 9 w) →
    (s.pw.stopped = false → exec (.writeImmPacketRx h p m) s = .next (follows t)) ∧
    (quiet s t = true → exec (.writeImmPacketRx h p m) s = .next t)) ∧
  (∀ (h : Nat) (p : Packet) (m : HostView) (r u w : State) (c : Nat) (x : Chan) (v : View) (d : Nat) (s t : State),
    arrived h 2 p s = (r, true) → c = p.chan.toNat → u = inc (trnCtr h 1) r → (chanOf u h c).cached = true →
    v = viewOf m u → w = (takeCore h c (meetCtx h c u)).1 → x = chanOf w h c → p.inc = x.inc → p.src = x.peer →
    x.unrel = false → x.st ≠ .error → d = (p.psn - x.expect).toNat → d < 2048 → executedAt x d = false →
    x.busy.any (fun q => q.psn == p.psn) = true →
    t = afterRx h c p v (.over, inc (trnCtr h 6) w) →
    (s.pw.stopped = false → exec (.writeImmPacketRx h p m) s = .next (follows t)) ∧
    (quiet s t = true → exec (.writeImmPacketRx h p m) s = .next t)) ∧
  (∀ (h : Nat) (p : Packet) (m : HostView) (r u w : State) (c : Nat) (x : Chan) (v : View) (d : Nat) (s t : State),
    arrived h 2 p s = (r, true) → c = p.chan.toNat → u = inc (trnCtr h 1) r → (chanOf u h c).cached = true →
    v = viewOf m u → w = (takeCore h c (meetCtx h c u)).1 → x = chanOf w h c → p.inc = x.inc → p.src = x.peer →
    x.unrel = false → x.st ≠ .error → d = (p.psn - x.expect).toNat → d < 2048 → executedAt x d = false →
    x.busy.any (fun q => q.psn == p.psn) = false → heldBack x d p = true →
    t = park h c p w →
    (s.pw.stopped = false → exec (.writeImmPacketRx h p m) s = .next (follows t)) ∧
    (quiet s t = true → exec (.writeImmPacketRx h p m) s = .next t)) ∧
  (∀ (h : Nat) (p : Packet) (m : HostView) (r u w : State) (c : Nat) (x : Chan) (v : View) (d : Nat) (y : State) (s t : State),
    arrived h 2 p s = (r, true) → c = p.chan.toNat → u = inc (trnCtr h 1) r → (chanOf u h c).cached = true →
    v = viewOf m u → w = (takeCore h c (meetCtx h c u)).1 → x = chanOf w h c → p.inc = x.inc → p.src = x.peer →
    x.unrel = false → x.st ≠ .error → d = (p.psn - x.expect).toNat → d < 2048 → executedAt x d = false →
    x.busy.any (fun q => q.psn == p.psn) = false → heldBack x d p = false →
    (if d = 0 ∨ x.window then (w, true) else freeSlots (boleOf h) (objKey 24 h c) 1 w) = (y, true) →
    aliveOk x d p = false →
    t = afterRx h c p v (.over, cvuFail h 4 p y) →
    (s.pw.stopped = false → exec (.writeImmPacketRx h p m) s = .next (follows t)) ∧
    (quiet s t = true → exec (.writeImmPacketRx h p m) s = .next t)) ∧
  (∀ (h : Nat) (p : Packet) (m : HostView) (r u w : State) (c : Nat) (x : Chan) (v : View) (k : Nat) (s t : State),
    arrived h 2 p s = (r, true) → c = p.chan.toNat → u = inc (trnCtr h 1) r → (chanOf u h c).cached = true →
    v = viewOf m u → w = (takeCore h c (meetCtx h c u)).1 → x = chanOf w h c → p.inc = x.inc → p.src = x.peer →
    x.unrel = false → x.st ≠ .error →
    2 ^ 31 ≤ (p.psn - x.expect).toNat ∨ ((p.psn - x.expect).toNat < 2048 ∧ executedAt x (p.psn - x.expect).toNat = true) →
    x.refused = some (p.psn, k) →
    t = afterRx h c p v (.over, sendAck h c p.psn 0x10 k (inc (trnCtr h 6) w)) →
    (s.pw.stopped = false → exec (.writeImmPacketRx h p m) s = .next (follows t)) ∧
    (quiet s t = true → exec (.writeImmPacketRx h p m) s = .next t)) ∧
  (∀ (h : Nat) (p : Packet) (m : HostView) (r u w : State) (c : Nat) (x : Chan) (v : View) (s t : State),
    arrived h 2 p s = (r, true) → c = p.chan.toNat → u = inc (trnCtr h 1) r → (chanOf u h c).cached = true →
    v = viewOf m u → w = (takeCore h c (meetCtx h c u)).1 → x = chanOf w h c → p.inc = x.inc → p.src = x.peer →
    x.unrel = false → x.st ≠ .error →
    2 ^ 31 ≤ (p.psn - x.expect).toNat ∨ ((p.psn - x.expect).toNat < 2048 ∧ executedAt x (p.psn - x.expect).toNat = true) →
    x.refused.all (fun e => e.1 != p.psn) = true → x.olds.contains p.psn = true →
    t = afterRx h c p v (.over, sendAck h c p.psn 0 0 (inc (trnCtr h 6) w)) →
    (s.pw.stopped = false → exec (.writeImmPacketRx h p m) s = .next (follows t)) ∧
    (quiet s t = true → exec (.writeImmPacketRx h p m) s = .next t)) ∧
  (∀ (h : Nat) (p : Packet) (m : HostView) (r u w : State) (c : Nat) (x : Chan) (v : View) (s t : State),
    arrived h 2 p s = (r, true) → c = p.chan.toNat → u = inc (trnCtr h 1) r → (chanOf u h c).cached = true →
    v = viewOf m u → w = (takeCore h c (meetCtx h c u)).1 → x = chanOf w h c → p.inc = x.inc → p.src = x.peer →
    x.unrel = false → x.st ≠ .error →
    2 ^ 31 ≤ (p.psn - x.expect).toNat ∨ ((p.psn - x.expect).toNat < 2048 ∧ executedAt x (p.psn - x.expect).toNat = true) →
    x.refused.all (fun e => e.1 != p.psn) = true →
    t = afterRx h c p v (.over, sendAck h c p.psn 0 0 (inc (trnCtr h 6) w)) →
    (s.pw.stopped = false → exec (.writeImmPacketRx h p m) s = .next (follows t)) ∧
    (quiet s t = true → exec (.writeImmPacketRx h p m) s = .next t)) ∧
  (∀ (h : Nat) (p : Packet) (m : HostView) (r : State) (s t : State),
    arrived h 3 p s = (r, false) →
    t = r →
    (s.pw.stopped = false → exec (.readReq h p m) s = .next (follows t)) ∧
    (quiet s t = true → exec (.readReq h p m) s = .next t)) ∧
  (∀ (h : Nat) (p : Packet) (m : HostView) (r : State) (c : Nat) (s t : State),
    arrived h 3 p s = (r, true) → c = p.chan.toNat → (chanOf (inc (trnCtr h 1) r) h c).cached = false →
    t = fetchCtx h c (park h c p (inc (trnCtr h 1) r)) →
    (s.pw.stopped = false → exec (.readReq h p m) s = .next (follows t)) ∧
    (quiet s t = true → exec (.readReq h p m) s = .next t)) ∧
  (∀ (h : Nat) (p : Packet) (m : HostView) (r u w : State) (c : Nat) (x : Chan) (v : View) (s t : State),
    arrived h 3 p s = (r, true) → c = p.chan.toNat → u = inc (trnCtr h 1) r → (chanOf u h c).cached = true →
    v = viewOf m u → w = (takeCore h c (meetCtx h c u)).1 → x = chanOf w h c → p.inc ≠ x.inc →
    t = afterRx h c p v (.over, trnStale h 7 w) →
    (s.pw.stopped = false → exec (.readReq h p m) s = .next (follows t)) ∧
    (quiet s t = true → exec (.readReq h p m) s = .next t)) ∧
  (∀ (h : Nat) (p : Packet) (m : HostView) (r u w : State) (c : Nat) (x : Chan) (v : View) (s t : State),
    arrived h 3 p s = (r, true) → c = p.chan.toNat → u = inc (trnCtr h 1) r → (chanOf u h c).cached = true →
    v = viewOf m u → w = (takeCore h c (meetCtx h c u)).1 → x = chanOf w h c → p.inc = x.inc → p.src ≠ x.peer →
    t = afterRx h c p v (.over, trnStale h 8 w) →
    (s.pw.stopped = false → exec (.readReq h p m) s = .next (follows t)) ∧
    (quiet s t = true → exec (.readReq h p m) s = .next t)) ∧
  (∀ (h : Nat) (p : Packet) (m : HostView) (r u w : State) (c : Nat) (x : Chan) (v : View) (s t : State),
    arrived h 3 p s = (r, true) → c = p.chan.toNat → u = inc (trnCtr h 1) r → (chanOf u h c).cached = true →
    v = viewOf m u → w = (takeCore h c (meetCtx h c u)).1 → x = chanOf w h c → p.inc = x.inc → p.src = x.peer →
    x.unrel = false → x.st = .error →
    t = afterRx h c p v (.over, sendAck h c p.psn 0x11 0 w) →
    (s.pw.stopped = false → exec (.readReq h p m) s = .next (follows t)) ∧
    (quiet s t = true → exec (.readReq h p m) s = .next t)) ∧
  (∀ (h : Nat) (p : Packet) (m : HostView) (r u w : State) (c : Nat) (x : Chan) (v : View) (s t : State),
    arrived h 3 p s = (r, true) → c = p.chan.toNat → u = inc (trnCtr h 1) r → (chanOf u h c).cached = true →
    v = viewOf m u → w = (takeCore h c (meetCtx h c u)).1 → x = chanOf w h c → p.inc = x.inc → p.src = x.peer →
    x.unrel = false → x.st ≠ .error → 2048 ≤ (p.psn - x.expect).toNat → (p.psn - x.expect).toNat < 2 ^ 31 →
    t = afterRx h c p v (.over, trnStale h 9 w) →
    (s.pw.stopped = false → exec (.readReq h p m) s = .next (follows t)) ∧
    (quiet s t = true → exec (.readReq h p m) s = .next t)) ∧
  (∀ (h : Nat) (p : Packet) (m : HostView) (r u w : State) (c : Nat) (x : Chan) (v : View) (d : Nat) (s t : State),
    arrived h 3 p s = (r, true) → c = p.chan.toNat → u = inc (trnCtr h 1) r → (chanOf u h c).cached = true →
    v = viewOf m u → w = (takeCore h c (meetCtx h c u)).1 → x = chanOf w h c → p.inc = x.inc → p.src = x.peer →
    x.unrel = false → x.st ≠ .error → d = (p.psn - x.expect).toNat → d < 2048 → executedAt x d = false →
    x.busy.any (fun q => q.psn == p.psn) = true →
    t = afterRx h c p v (.over, inc (trnCtr h 6) w) →
    (s.pw.stopped = false → exec (.readReq h p m) s = .next (follows t)) ∧
    (quiet s t = true → exec (.readReq h p m) s = .next t)) ∧
  (∀ (h : Nat) (p : Packet) (m : HostView) (r u w : State) (c : Nat) (x : Chan) (v : View) (d : Nat) (s t : State),
    arrived h 3 p s = (r, true) → c = p.chan.toNat → u = inc (trnCtr h 1) r → (chanOf u h c).cached = true →
    v = viewOf m u → w = (takeCore h c (meetCtx h c u)).1 → x = chanOf w h c → p.inc = x.inc → p.src = x.peer →
    x.unrel = false → x.st ≠ .error → d = (p.psn - x.expect).toNat → d < 2048 → executedAt x d = false →
    x.busy.any (fun q => q.psn == p.psn) = false → heldBack x d p = true →
    t = park h c p w →
    (s.pw.stopped = false → exec (.readReq h p m) s = .next (follows t)) ∧
    (quiet s t = true → exec (.readReq h p m) s = .next t)) ∧
  (∀ (h : Nat) (p : Packet) (m : HostView) (r u w : State) (c : Nat) (x : Chan) (v : View) (d : Nat) (y : State) (s t : State),
    arrived h 3 p s = (r, true) → c = p.chan.toNat → u = inc (trnCtr h 1) r → (chanOf u h c).cached = true →
    v = viewOf m u → w = (takeCore h c (meetCtx h c u)).1 → x = chanOf w h c → p.inc = x.inc → p.src = x.peer →
    x.unrel = false → x.st ≠ .error → d = (p.psn - x.expect).toNat → d < 2048 → executedAt x d = false →
    x.busy.any (fun q => q.psn == p.psn) = false → heldBack x d p = false →
    (if d = 0 ∨ x.window then (w, true) else freeSlots (boleOf h) (objKey 24 h c) 1 w) = (y, true) →
    aliveOk x d p = false →
    t = afterRx h c p v (.over, cvuFail h 4 p y) →
    (s.pw.stopped = false → exec (.readReq h p m) s = .next (follows t)) ∧
    (quiet s t = true → exec (.readReq h p m) s = .next t)) ∧
  (∀ (h : Nat) (p : Packet) (m : HostView) (r u w : State) (c : Nat) (x : Chan) (v : View) (k : Nat) (s t : State),
    arrived h 3 p s = (r, true) → c = p.chan.toNat → u = inc (trnCtr h 1) r → (chanOf u h c).cached = true →
    v = viewOf m u → w = (takeCore h c (meetCtx h c u)).1 → x = chanOf w h c → p.inc = x.inc → p.src = x.peer →
    x.unrel = false → x.st ≠ .error →
    2 ^ 31 ≤ (p.psn - x.expect).toNat ∨ ((p.psn - x.expect).toNat < 2048 ∧ executedAt x (p.psn - x.expect).toNat = true) →
    x.refused = some (p.psn, k) →
    t = afterRx h c p v (.over, sendAck h c p.psn 0x10 k (inc (trnCtr h 6) w)) →
    (s.pw.stopped = false → exec (.readReq h p m) s = .next (follows t)) ∧
    (quiet s t = true → exec (.readReq h p m) s = .next t)) ∧
  (∀ (h : Nat) (p : Packet) (m : HostView) (r u w : State) (c : Nat) (x : Chan) (v : View) (s t : State),
    arrived h 3 p s = (r, true) → c = p.chan.toNat → u = inc (trnCtr h 1) r → (chanOf u h c).cached = true →
    v = viewOf m u → w = (takeCore h c (meetCtx h c u)).1 → x = chanOf w h c → p.inc = x.inc → p.src = x.peer →
    x.unrel = false → x.st ≠ .error →
    2 ^ 31 ≤ (p.psn - x.expect).toNat ∨ ((p.psn - x.expect).toNat < 2048 ∧ executedAt x (p.psn - x.expect).toNat = true) →
    x.refused.all (fun e => e.1 != p.psn) = true → x.olds.contains p.psn = true →
    t = afterRx h c p v (.over, sendAck h c p.psn 0 0 (inc (trnCtr h 6) w)) →
    (s.pw.stopped = false → exec (.readReq h p m) s = .next (follows t)) ∧
    (quiet s t = true → exec (.readReq h p m) s = .next t)) ∧
  (∀ (h : Nat) (p : Packet) (m : HostView) (r : State) (s t : State),
    arrived h 5 p s = (r, false) →
    t = r →
    (s.pw.stopped = false → exec (.atomicReq h p m) s = .next (follows t)) ∧
    (quiet s t = true → exec (.atomicReq h p m) s = .next t)) ∧
  (∀ (h : Nat) (p : Packet) (m : HostView) (r : State) (c : Nat) (s t : State),
    arrived h 5 p s = (r, true) → c = p.chan.toNat → (chanOf (inc (trnCtr h 1) r) h c).cached = false →
    t = fetchCtx h c (park h c p (inc (trnCtr h 1) r)) →
    (s.pw.stopped = false → exec (.atomicReq h p m) s = .next (follows t)) ∧
    (quiet s t = true → exec (.atomicReq h p m) s = .next t)) ∧
  (∀ (h : Nat) (p : Packet) (m : HostView) (r u w : State) (c : Nat) (x : Chan) (v : View) (s t : State),
    arrived h 5 p s = (r, true) → c = p.chan.toNat → u = inc (trnCtr h 1) r → (chanOf u h c).cached = true →
    v = viewOf m u → w = (takeCore h c (meetCtx h c u)).1 → x = chanOf w h c → p.inc ≠ x.inc →
    t = afterRx h c p v (.over, trnStale h 7 w) →
    (s.pw.stopped = false → exec (.atomicReq h p m) s = .next (follows t)) ∧
    (quiet s t = true → exec (.atomicReq h p m) s = .next t)) ∧
  (∀ (h : Nat) (p : Packet) (m : HostView) (r u w : State) (c : Nat) (x : Chan) (v : View) (s t : State),
    arrived h 5 p s = (r, true) → c = p.chan.toNat → u = inc (trnCtr h 1) r → (chanOf u h c).cached = true →
    v = viewOf m u → w = (takeCore h c (meetCtx h c u)).1 → x = chanOf w h c → p.inc = x.inc → p.src ≠ x.peer →
    t = afterRx h c p v (.over, trnStale h 8 w) →
    (s.pw.stopped = false → exec (.atomicReq h p m) s = .next (follows t)) ∧
    (quiet s t = true → exec (.atomicReq h p m) s = .next t)) ∧
  (∀ (h : Nat) (p : Packet) (m : HostView) (r u w : State) (c : Nat) (x : Chan) (v : View) (s t : State),
    arrived h 5 p s = (r, true) → c = p.chan.toNat → u = inc (trnCtr h 1) r → (chanOf u h c).cached = true →
    v = viewOf m u → w = (takeCore h c (meetCtx h c u)).1 → x = chanOf w h c → p.inc = x.inc → p.src = x.peer →
    x.unrel = false → x.st = .error →
    t = afterRx h c p v (.over, sendAck h c p.psn 0x11 0 w) →
    (s.pw.stopped = false → exec (.atomicReq h p m) s = .next (follows t)) ∧
    (quiet s t = true → exec (.atomicReq h p m) s = .next t)) ∧
  (∀ (h : Nat) (p : Packet) (m : HostView) (r u w : State) (c : Nat) (x : Chan) (v : View) (s t : State),
    arrived h 5 p s = (r, true) → c = p.chan.toNat → u = inc (trnCtr h 1) r → (chanOf u h c).cached = true →
    v = viewOf m u → w = (takeCore h c (meetCtx h c u)).1 → x = chanOf w h c → p.inc = x.inc → p.src = x.peer →
    x.unrel = false → x.st ≠ .error → 2048 ≤ (p.psn - x.expect).toNat → (p.psn - x.expect).toNat < 2 ^ 31 →
    t = afterRx h c p v (.over, trnStale h 9 w) →
    (s.pw.stopped = false → exec (.atomicReq h p m) s = .next (follows t)) ∧
    (quiet s t = true → exec (.atomicReq h p m) s = .next t)) ∧
  (∀ (h : Nat) (p : Packet) (m : HostView) (r u w : State) (c : Nat) (x : Chan) (v : View) (d : Nat) (s t : State),
    arrived h 5 p s = (r, true) → c = p.chan.toNat → u = inc (trnCtr h 1) r → (chanOf u h c).cached = true →
    v = viewOf m u → w = (takeCore h c (meetCtx h c u)).1 → x = chanOf w h c → p.inc = x.inc → p.src = x.peer →
    x.unrel = false → x.st ≠ .error → d = (p.psn - x.expect).toNat → d < 2048 → executedAt x d = false →
    x.busy.any (fun q => q.psn == p.psn) = true →
    t = afterRx h c p v (.over, inc (trnCtr h 6) w) →
    (s.pw.stopped = false → exec (.atomicReq h p m) s = .next (follows t)) ∧
    (quiet s t = true → exec (.atomicReq h p m) s = .next t)) ∧
  (∀ (h : Nat) (p : Packet) (m : HostView) (r u w : State) (c : Nat) (x : Chan) (v : View) (d : Nat) (s t : State),
    arrived h 5 p s = (r, true) → c = p.chan.toNat → u = inc (trnCtr h 1) r → (chanOf u h c).cached = true →
    v = viewOf m u → w = (takeCore h c (meetCtx h c u)).1 → x = chanOf w h c → p.inc = x.inc → p.src = x.peer →
    x.unrel = false → x.st ≠ .error → d = (p.psn - x.expect).toNat → d < 2048 → executedAt x d = false →
    x.busy.any (fun q => q.psn == p.psn) = false → heldBack x d p = true →
    t = park h c p w →
    (s.pw.stopped = false → exec (.atomicReq h p m) s = .next (follows t)) ∧
    (quiet s t = true → exec (.atomicReq h p m) s = .next t)) ∧
  (∀ (h : Nat) (p : Packet) (m : HostView) (r u w : State) (c : Nat) (x : Chan) (v : View) (d : Nat) (y : State) (s t : State),
    arrived h 5 p s = (r, true) → c = p.chan.toNat → u = inc (trnCtr h 1) r → (chanOf u h c).cached = true →
    v = viewOf m u → w = (takeCore h c (meetCtx h c u)).1 → x = chanOf w h c → p.inc = x.inc → p.src = x.peer →
    x.unrel = false → x.st ≠ .error → d = (p.psn - x.expect).toNat → d < 2048 → executedAt x d = false →
    x.busy.any (fun q => q.psn == p.psn) = false → heldBack x d p = false →
    (if d = 0 ∨ x.window then (w, true) else freeSlots (boleOf h) (objKey 24 h c) 1 w) = (y, true) →
    aliveOk x d p = false →
    t = afterRx h c p v (.over, cvuFail h 4 p y) →
    (s.pw.stopped = false → exec (.atomicReq h p m) s = .next (follows t)) ∧
    (quiet s t = true → exec (.atomicReq h p m) s = .next t)) ∧
  (∀ (h : Nat) (p : Packet) (m : HostView) (r u w : State) (c : Nat) (x : Chan) (v : View) (k : Nat) (s t : State),
    arrived h 5 p s = (r, true) → c = p.chan.toNat → u = inc (trnCtr h 1) r → (chanOf u h c).cached = true →
    v = viewOf m u → w = (takeCore h c (meetCtx h c u)).1 → x = chanOf w h c → p.inc = x.inc → p.src = x.peer →
    x.unrel = false → x.st ≠ .error →
    2 ^ 31 ≤ (p.psn - x.expect).toNat ∨ ((p.psn - x.expect).toNat < 2048 ∧ executedAt x (p.psn - x.expect).toNat = true) →
    x.refused = some (p.psn, k) →
    t = afterRx h c p v (.over, sendAck h c p.psn 0x10 k (inc (trnCtr h 6) w)) →
    (s.pw.stopped = false → exec (.atomicReq h p m) s = .next (follows t)) ∧
    (quiet s t = true → exec (.atomicReq h p m) s = .next t)) ∧
  (∀ (h : Nat) (p : Packet) (m : HostView) (r u w : State) (c : Nat) (x : Chan) (v : View) (s t : State),
    arrived h 5 p s = (r, true) → c = p.chan.toNat → u = inc (trnCtr h 1) r → (chanOf u h c).cached = true →
    v = viewOf m u → w = (takeCore h c (meetCtx h c u)).1 → x = chanOf w h c → p.inc = x.inc → p.src = x.peer →
    x.unrel = false → x.st ≠ .error →
    2 ^ 31 ≤ (p.psn - x.expect).toNat ∨ ((p.psn - x.expect).toNat < 2048 ∧ executedAt x (p.psn - x.expect).toNat = true) →
    x.refused.all (fun e => e.1 != p.psn) = true → x.olds.contains p.psn = true →
    t = afterRx h c p v (.over, sendAck h c p.psn 0 0 (inc (trnCtr h 6) w)) →
    (s.pw.stopped = false → exec (.atomicReq h p m) s = .next (follows t)) ∧
    (quiet s t = true → exec (.atomicReq h p m) s = .next t)) ∧
  (∀ (h c : Nat) (m : HostView) (u w : State) (s t : State),
    boleOk s (boleOf h) = true → (chanOf s h c).fetching = true → dmaHeld s h (.chan c) = false →
    u = setChan h c { chanOf s h c with fetching := false, landed := true } s →
    takeCore h c (updChan h c (fun x => { x with landed := false }) u) = (w, true) →
    t = sendDue h c (viewOf m s) (rerunAll h c (viewOf m s) w) →
    (s.pw.stopped = false → exec (.ctxFetchDone h c true m) s = .next (follows t)) ∧
    (quiet s t = true → exec (.ctxFetchDone h c true m) s = .next t)) ∧
  (∀ (h c : Nat) (m : HostView) (s t : State),
    boleOk s (boleOf h) = true → (chanOf s h c).fetching = true → dmaHeld s h (.chan c) = false →
    t = trnCause h 4 (Machine.count (trnCtr h 13) (chanOf s h c).parked.length (setChan h c { chanOf s h c with
          fetching := false,
          parked := [] } (dmaErr h s))) →
    (s.pw.stopped = false → exec (.ctxFetchDone h c false m) s = .next (follows t)) ∧
    (quiet s t = true → exec (.ctxFetchDone h c false m) s = .next t)) ∧
  (∀ (h c : Nat) (ok : Bool) (m : HostView) (s t : State),
    boleOk s (boleOf h) = false ∨ (chanOf s h c).fetching = false ∨ dmaHeld s h (.chan c) = true →
    t = s →
    (s.pw.stopped = false → exec (.ctxFetchDone h c ok m) s = .next (follows t)) ∧
    (quiet s t = true → exec (.ctxFetchDone h c ok m) s = .next t)) ∧
  (∀ (h c : Nat) (s t : State),
    hostUp s h = true → (chanOf s h c).st ≠ .absent → (chanOf s h c).ackTimer = true →
    t = sendAck h c (chanOf s h c).expect 0 0 s →
    (s.pw.stopped = false → exec (.ackDelayTimer h c) s = .next (follows t)) ∧
    (quiet s t = true → exec (.ackDelayTimer h c) s = .next t)) ∧
  (∀ (h c : Nat) (s t : State),
    hostUp s h = false ∨ (chanOf s h c).st = .absent ∨ (chanOf s h c).ackTimer = false →
    t = s →
    (s.pw.stopped = false → exec (.ackDelayTimer h c) s = .next (follows t)) ∧
    (quiet s t = true → exec (.ackDelayTimer h c) s = .next t))

/-- Acknowledgements make progress, refusals stall or end the channel, responses end their jobs, and the timer retransmits
until exhaustion. An accepted ACK of code 0 applies its ACK_PSN and SACK and the channel goes on; one of another code is
counted a NAK; of code 1 or 2, or naming no outstanding packet, it makes the same progress and stalls the channel if the
packet that it names is still unacknowledged; of code 0x10, 0x11 or 0x12 it ends the named packet's job REMOTE_ACCESS with
the kind, REMOTE_ERROR or BAD_REQUEST and moves the channel to ERROR, with cause REMOTE_FAIL. A READ_RESP or ATOMIC_RESP
for an outstanding packet, with as many bytes as it asked for, writes its data into the local buffer of its job, or of the
receive that fetches, and its packet is done; while host memory is asked it waits; where the words of its job cannot be
delivered nothing more is done; a write that fails its check ends the job, or the receive and its fetch; one for no
outstanding packet, or of another length, is stale. A response that is not accepted changes no more than the tests do. The
timer counts a timeout, and below RETRY_LIMIT raises the exponent, ends the stall and sends again what no SACK has shown,
and at it every job of the channel ends; it does nothing where no timer runs. -/
def Obligations.Acknowledgements : Prop :=
  (∀ (h : Nat) (p : Packet) (m : HostView) (r : State) (c : Nat) (q : State) (s t : State),
    respTest h 7 p s = (r, true) → c = p.chan.toNat → Packet.extF p 2 2 0 8 = 0 →
    q = (progress h c (Packet.extW p 2 0) (Packet.extW p 2 1) r) →
    t = runChan h c (viewOf m q) q →
    (s.pw.stopped = false → exec (.ack h p m) s = .next (follows t)) ∧
    (quiet s t = true → exec (.ack h p m) s = .next t)) ∧
  (∀ (h : Nat) (p : Packet) (m : HostView) (r : State) (s t : State),
    respTest h 7 p s = (r, false) →
    t = r →
    (s.pw.stopped = false → exec (.ack h p m) s = .next (follows t)) ∧
    (quiet s t = true → exec (.ack h p m) s = .next t)) ∧
  (∀ (h : Nat) (p : Packet) (m : HostView) (r : State) (c : Nat) (q : State) (s t : State),
    respTest h 7 p s = (r, true) → c = p.chan.toNat → Packet.extF p 2 2 0 8 ≠ 0 →
    Packet.extF p 2 2 0 8 < 0x10 ∨ (chanOf (inc (trnCtr h 5) r) h c).unacked.any (fun u => u.pkt.psn == p.psn) = false →
    q = updChan h c (fun x => if x.unacked.any (fun u => u.pkt.psn == p.psn) then { x with
          stall := true,
          stallPsn := p.psn } else x) (progress h c (Packet.extW p 2 0) (Packet.extW p 2 1) (inc (trnCtr h 5) r)) →
    t = runChan h c (viewOf m q) q →
    (s.pw.stopped = false → exec (.ack h p m) s = .next (follows t)) ∧
    (quiet s t = true → exec (.ack h p m) s = .next t)) ∧
  (∀ (h : Nat) (p : Packet) (m : HostView) (r : State) (c : Nat) (q : State) (s t : State),
    respTest h 7 p s = (r, true) → c = p.chan.toNat → Packet.extF p 2 2 0 8 = 16 →
    (chanOf (inc (trnCtr h 5) r) h c).unacked.any (fun u => u.pkt.psn == p.psn) = true →
    q = trnCause h 2 (errorChan h c 2 ((jobOfPsn (chanOf (inc (trnCtr h 5) r) h c) p.psn).map (fun j => (j, 0x21,
        Packet.extF p 2 2 8 8))) 0x20 0x22 0 (acknowledge h c (Packet.extW p 2 0) (Packet.extW p 2 1) (setChan h c {
        chanOf (inc (trnCtr h 5) r) h c with
          unacked := (chanOf (inc (trnCtr h 5) r) h c).unacked.filter (fun u => u.pkt.psn ≠ p.psn) } (inc (trnCtr h 5)
        r)))) →
    t = runChan h c (viewOf m q) q →
    (s.pw.stopped = false → exec (.ack h p m) s = .next (follows t)) ∧
    (quiet s t = true → exec (.ack h p m) s = .next t)) ∧
  (∀ (h : Nat) (p : Packet) (m : HostView) (r : State) (c : Nat) (q : State) (s t : State),
    respTest h 7 p s = (r, true) → c = p.chan.toNat → Packet.extF p 2 2 0 8 = 17 →
    (chanOf (inc (trnCtr h 5) r) h c).unacked.any (fun u => u.pkt.psn == p.psn) = true →
    q = trnCause h 2 (errorChan h c 3 ((jobOfPsn (chanOf (inc (trnCtr h 5) r) h c) p.psn).map (fun j => (j, 0x23, 0)))
        0x20 0x22 0 (acknowledge h c (Packet.extW p 2 0) (Packet.extW p 2 1) (setChan h c { chanOf (inc (trnCtr h 5) r) h
        c with unacked := (chanOf (inc (trnCtr h 5) r) h c).unacked.filter (fun u => u.pkt.psn ≠ p.psn) } (inc (trnCtr h
        5) r)))) →
    t = runChan h c (viewOf m q) q →
    (s.pw.stopped = false → exec (.ack h p m) s = .next (follows t)) ∧
    (quiet s t = true → exec (.ack h p m) s = .next t)) ∧
  (∀ (h : Nat) (p : Packet) (m : HostView) (r : State) (c : Nat) (q : State) (s t : State),
    respTest h 7 p s = (r, true) → c = p.chan.toNat → Packet.extF p 2 2 0 8 = 18 →
    (chanOf (inc (trnCtr h 5) r) h c).unacked.any (fun u => u.pkt.psn == p.psn) = true →
    q = trnCause h 2 (errorChan h c 4 ((jobOfPsn (chanOf (inc (trnCtr h 5) r) h c) p.psn).map (fun j => (j, 0x24, 0)))
        0x20 0x22 0 (acknowledge h c (Packet.extW p 2 0) (Packet.extW p 2 1) (setChan h c { chanOf (inc (trnCtr h 5) r) h
        c with unacked := (chanOf (inc (trnCtr h 5) r) h c).unacked.filter (fun u => u.pkt.psn ≠ p.psn) } (inc (trnCtr h
        5) r)))) →
    t = runChan h c (viewOf m q) q →
    (s.pw.stopped = false → exec (.ack h p m) s = .next (follows t)) ∧
    (quiet s t = true → exec (.ack h p m) s = .next t)) ∧
  (∀ (h : Nat) (p : Packet) (m : HostView) (r : State) (s t : State),
    respTest h 4 p s = (r, false) →
    t = r →
    (s.pw.stopped = false → exec (.readResp h p m) s = .next (follows t)) ∧
    (quiet s t = true → exec (.readResp h p m) s = .next t)) ∧
  (∀ (h : Nat) (p : Packet) (m : HostView) (r : State) (c : Nat) (s t : State),
    respTest h 4 p s = (r, true) → c = p.chan.toNat →
    (chanOf r h c).unacked.find? (fun u => u.pkt.psn == p.psn && u.pkt.ptype == 3) = none →
    t = trnStale h 19 r →
    (s.pw.stopped = false → exec (.readResp h p m) s = .next (follows t)) ∧
    (quiet s t = true → exec (.readResp h p m) s = .next t)) ∧
  (∀ (h : Nat) (p : Packet) (m : HostView) (r : State) (c : Nat) (u : TxPkt) (bs : List Byte) (s t : State),
    respTest h 4 p s = (r, true) → c = p.chan.toNat →
    (chanOf r h c).unacked.find? (fun u => u.pkt.psn == p.psn && u.pkt.ptype == 3) = some u → bs = p.payload →
    bs.length = u.len → (jobOfPsn (chanOf r h c) u.pkt.psn).bind (jobOf r h) = none →
    t = respDone h c u p (viewOf m r) r →
    (s.pw.stopped = false → exec (.readResp h p m) s = .next (follows t)) ∧
    (quiet s t = true → exec (.readResp h p m) s = .next t)) ∧
  (∀ (h : Nat) (p : Packet) (m : HostView) (r : State) (c : Nat) (u : TxPkt) (bs : List Byte) (j : Job) (e : State) (s t : State),
    respTest h 4 p s = (r, true) → c = p.chan.toNat →
    (chanOf r h c).unacked.find? (fun u => u.pkt.psn == p.psn && u.pkt.ptype == 3) = some u → bs = p.payload →
    bs.length = u.len → (jobOfPsn (chanOf r h c) u.pkt.psn).bind (jobOf r h) = some j →
    meetDie (boleOf h) (eccTx h) j.id r = (e, false) →
    t = stopWait h (.resp p) e →
    (s.pw.stopped = false → exec (.readResp h p m) s = .next (follows t)) ∧
    (quiet s t = true → exec (.readResp h p m) s = .next t)) ∧
  (∀ (h : Nat) (p : Packet) (m : HostView) (r : State) (c : Nat) (u : TxPkt) (bs : List Byte) (j : Job) (e w : State) (s t : State),
    respTest h 4 p s = (r, true) → c = p.chan.toNat →
    (chanOf r h c).unacked.find? (fun u => u.pkt.psn == p.psn && u.pkt.ptype == 3) = some u → bs = p.payload →
    bs.length = u.len → (jobOfPsn (chanOf r h c) u.pkt.psn).bind (jobOf r h) = some j →
    meetDie (boleOf h) (eccTx h) j.id r = (e, true) →
    writeLocal h j u.off bs (viewFor h (.resp p) (viewOf m r) e) e = (.ok (), w) →
    t = respDone h c u p (viewOf m r) w →
    (s.pw.stopped = false → exec (.readResp h p m) s = .next (follows t)) ∧
    (quiet s t = true → exec (.readResp h p m) s = .next t)) ∧
  (∀ (h : Nat) (p : Packet) (m : HostView) (r : State) (c : Nat) (u : TxPkt) (bs : List Byte) (j : Job) (n : Need) (e w : State) (s t : State),
    respTest h 4 p s = (r, true) → c = p.chan.toNat →
    (chanOf r h c).unacked.find? (fun u => u.pkt.psn == p.psn && u.pkt.ptype == 3) = some u → bs = p.payload →
    bs.length = u.len → (jobOfPsn (chanOf r h c) u.pkt.psn).bind (jobOf r h) = some j →
    meetDie (boleOf h) (eccTx h) j.id r = (e, true) →
    writeLocal h j u.off bs (viewFor h (.resp p) (viewOf m r) e) e = (.wait n, w) →
    t = waitFor h (.resp p) n w →
    (s.pw.stopped = false → exec (.readResp h p m) s = .next (follows t)) ∧
    (quiet s t = true → exec (.readResp h p m) s = .next t)) ∧
  (∀ (h : Nat) (p : Packet) (m : HostView) (r : State) (c : Nat) (u : TxPkt) (bs : List Byte) (j : Job) (k : Nat) (e w : State) (s t : State),
    respTest h 4 p s = (r, true) → c = p.chan.toNat →
    (chanOf r h c).unacked.find? (fun u => u.pkt.psn == p.psn && u.pkt.ptype == 3) = some u → bs = p.payload →
    bs.length = u.len → (jobOfPsn (chanOf r h c) u.pkt.psn).bind (jobOf r h) = some j →
    meetDie (boleOf h) (eccTx h) j.id r = (e, true) → u.job ≠ none →
    writeLocal h j u.off bs (viewFor h (.resp p) (viewOf m r) e) e = (.fail k, w) →
    t = respDone h c u p (viewOf m r) (failAcc h j j.acked (.fail k : Acc Unit) (updChan h c (fun x => { x with
          toSend := x.toSend.filter (fun y => y.job ≠ some j.id),
          line := x.line.filter (· ≠ .job j.id) }) w)) →
    (s.pw.stopped = false → exec (.readResp h p m) s = .next (follows t)) ∧
    (quiet s t = true → exec (.readResp h p m) s = .next t)) ∧
  (∀ (h : Nat) (p : Packet) (m : HostView) (r : State) (c : Nat) (u : TxPkt) (bs : List Byte) (s t : State),
    respTest h 4 p s = (r, true) → c = p.chan.toNat →
    (chanOf r h c).unacked.find? (fun u => u.pkt.psn == p.psn && u.pkt.ptype == 3) = some u → bs = p.payload →
    bs.length ≠ u.len →
    t = trnStale h 19 r →
    (s.pw.stopped = false → exec (.readResp h p m) s = .next (follows t)) ∧
    (quiet s t = true → exec (.readResp h p m) s = .next t)) ∧
  (∀ (h : Nat) (p : Packet) (m : HostView) (r : State) (c : Nat) (u : TxPkt) (bs : List Byte) (j : Job) (k : Nat) (f : Fetch) (e w : State) (s t : State),
    respTest h 4 p s = (r, true) → c = p.chan.toNat →
    (chanOf r h c).unacked.find? (fun u => u.pkt.psn == p.psn && u.pkt.ptype == 3) = some u → bs = p.payload →
    bs.length = u.len → (jobOfPsn (chanOf r h c) u.pkt.psn).bind (jobOf r h) = some j →
    meetDie (boleOf h) (eccTx h) j.id r = (e, true) → u.job = none →
    (chanOf w h c).fetches.find? (fun f => u.fetch == some f.orig) = some f →
    writeLocal h j u.off bs (viewFor h (.resp p) (viewOf m r) e) e = (.fail k, w) →
    t = respDone h c u p (viewOf m r) (mtcCause h 5 (failRecv h j.id (if k = 12 ∨ k = 13 then 0x48 else 0x11) (f.len -
        f.left) k (fetchFlags f) (updChan h c (fun x => { x with
          fetches := x.fetches.filter (fun g => g.orig != f.orig),
          toSend := x.toSend.filter (fun y => y.fetch != some f.orig),
          line := x.line.filter (· ≠ .fetch f.orig) }) w))) →
    (s.pw.stopped = false → exec (.readResp h p m) s = .next (follows t)) ∧
    (quiet s t = true → exec (.readResp h p m) s = .next t)) ∧
  (∀ (h : Nat) (p : Packet) (m : HostView) (r : State) (s t : State),
    respTest h 6 p s = (r, false) →
    t = r →
    (s.pw.stopped = false → exec (.atomicResp h p m) s = .next (follows t)) ∧
    (quiet s t = true → exec (.atomicResp h p m) s = .next t)) ∧
  (∀ (h : Nat) (p : Packet) (m : HostView) (r : State) (c : Nat) (s t : State),
    respTest h 6 p s = (r, true) → c = p.chan.toNat →
    (chanOf r h c).unacked.find? (fun u => u.pkt.psn == p.psn && u.pkt.ptype == 5) = none →
    t = trnStale h 19 r →
    (s.pw.stopped = false → exec (.atomicResp h p m) s = .next (follows t)) ∧
    (quiet s t = true → exec (.atomicResp h p m) s = .next t)) ∧
  (∀ (h : Nat) (p : Packet) (m : HostView) (r : State) (c : Nat) (u : TxPkt) (bs : List Byte) (s t : State),
    respTest h 6 p s = (r, true) → c = p.chan.toNat →
    (chanOf r h c).unacked.find? (fun u => u.pkt.psn == p.psn && u.pkt.ptype == 5) = some u →
    bs = leBytes u.len ((Packet.extW p 1 4).toNat + 2 ^ 32 * (Packet.extW p 1 5).toNat) → bs.length = u.len →
    (jobOfPsn (chanOf r h c) u.pkt.psn).bind (jobOf r h) = none →
    t = respDone h c u p (viewOf m r) r →
    (s.pw.stopped = false → exec (.atomicResp h p m) s = .next (follows t)) ∧
    (quiet s t = true → exec (.atomicResp h p m) s = .next t)) ∧
  (∀ (h : Nat) (p : Packet) (m : HostView) (r : State) (c : Nat) (u : TxPkt) (bs : List Byte) (j : Job) (e : State) (s t : State),
    respTest h 6 p s = (r, true) → c = p.chan.toNat →
    (chanOf r h c).unacked.find? (fun u => u.pkt.psn == p.psn && u.pkt.ptype == 5) = some u →
    bs = leBytes u.len ((Packet.extW p 1 4).toNat + 2 ^ 32 * (Packet.extW p 1 5).toNat) → bs.length = u.len →
    (jobOfPsn (chanOf r h c) u.pkt.psn).bind (jobOf r h) = some j → meetDie (boleOf h) (eccTx h) j.id r = (e, false) →
    t = stopWait h (.resp p) e →
    (s.pw.stopped = false → exec (.atomicResp h p m) s = .next (follows t)) ∧
    (quiet s t = true → exec (.atomicResp h p m) s = .next t)) ∧
  (∀ (h : Nat) (p : Packet) (m : HostView) (r : State) (c : Nat) (u : TxPkt) (bs : List Byte) (j : Job) (e w : State) (s t : State),
    respTest h 6 p s = (r, true) → c = p.chan.toNat →
    (chanOf r h c).unacked.find? (fun u => u.pkt.psn == p.psn && u.pkt.ptype == 5) = some u →
    bs = leBytes u.len ((Packet.extW p 1 4).toNat + 2 ^ 32 * (Packet.extW p 1 5).toNat) → bs.length = u.len →
    (jobOfPsn (chanOf r h c) u.pkt.psn).bind (jobOf r h) = some j → meetDie (boleOf h) (eccTx h) j.id r = (e, true) →
    writeLocal h j u.off bs (viewFor h (.resp p) (viewOf m r) e) e = (.ok (), w) →
    t = respDone h c u p (viewOf m r) w →
    (s.pw.stopped = false → exec (.atomicResp h p m) s = .next (follows t)) ∧
    (quiet s t = true → exec (.atomicResp h p m) s = .next t)) ∧
  (∀ (h : Nat) (p : Packet) (m : HostView) (r : State) (c : Nat) (u : TxPkt) (bs : List Byte) (j : Job) (n : Need) (e w : State) (s t : State),
    respTest h 6 p s = (r, true) → c = p.chan.toNat →
    (chanOf r h c).unacked.find? (fun u => u.pkt.psn == p.psn && u.pkt.ptype == 5) = some u →
    bs = leBytes u.len ((Packet.extW p 1 4).toNat + 2 ^ 32 * (Packet.extW p 1 5).toNat) → bs.length = u.len →
    (jobOfPsn (chanOf r h c) u.pkt.psn).bind (jobOf r h) = some j → meetDie (boleOf h) (eccTx h) j.id r = (e, true) →
    writeLocal h j u.off bs (viewFor h (.resp p) (viewOf m r) e) e = (.wait n, w) →
    t = waitFor h (.resp p) n w →
    (s.pw.stopped = false → exec (.atomicResp h p m) s = .next (follows t)) ∧
    (quiet s t = true → exec (.atomicResp h p m) s = .next t)) ∧
  (∀ (h : Nat) (p : Packet) (m : HostView) (r : State) (c : Nat) (u : TxPkt) (bs : List Byte) (j : Job) (k : Nat) (e w : State) (s t : State),
    respTest h 6 p s = (r, true) → c = p.chan.toNat →
    (chanOf r h c).unacked.find? (fun u => u.pkt.psn == p.psn && u.pkt.ptype == 5) = some u →
    bs = leBytes u.len ((Packet.extW p 1 4).toNat + 2 ^ 32 * (Packet.extW p 1 5).toNat) → bs.length = u.len →
    (jobOfPsn (chanOf r h c) u.pkt.psn).bind (jobOf r h) = some j → meetDie (boleOf h) (eccTx h) j.id r = (e, true) →
    u.job ≠ none → writeLocal h j u.off bs (viewFor h (.resp p) (viewOf m r) e) e = (.fail k, w) →
    t = respDone h c u p (viewOf m r) (failAcc h j j.acked (.fail k : Acc Unit) (updChan h c (fun x => { x with
          toSend := x.toSend.filter (fun y => y.job ≠ some j.id),
          line := x.line.filter (· ≠ .job j.id) }) w)) →
    (s.pw.stopped = false → exec (.atomicResp h p m) s = .next (follows t)) ∧
    (quiet s t = true → exec (.atomicResp h p m) s = .next t)) ∧
  (∀ (h c : Nat) (m : HostView) (u : State) (x : Chan) (s t : State),
    u = meetCtx h c s → x = chanOf u h c → hostUp u h = true → x.st = .active ∨ x.st = .draining → x.timer = true →
    x.unacked ≠ [] → x.limit ≤ x.backoff →
    t = retryExhausted h c (inc (trnCtr h 3) u) →
    (s.pw.stopped = false → exec (.retransmitTimeout h c m) s = .next (follows t)) ∧
    (quiet s t = true → exec (.retransmitTimeout h c m) s = .next t)) ∧
  (∀ (h c : Nat) (m : HostView) (u : State) (x : Chan) (s t : State),
    u = meetCtx h c s → x = chanOf u h c →
    hostUp u h = false ∨ (x.st ≠ .active ∧ x.st ≠ .draining) ∨ x.timer = false ∨ x.unacked = [] →
    t = u →
    (s.pw.stopped = false → exec (.retransmitTimeout h c m) s = .next (follows t)) ∧
    (quiet s t = true → exec (.retransmitTimeout h c m) s = .next t)) ∧
  (∀ (h c : Nat) (m : HostView) (u w : State) (x : Chan) (s t : State),
    u = meetCtx h c s → x = chanOf u h c → hostUp u h = true → x.st = .active ∨ x.st = .draining → x.timer = true →
    x.unacked ≠ [] → x.backoff < x.limit →
    w = setChan h c { x with
          backoff := x.backoff + 1,
          stall := false,
          unacked := x.unacked.map (fun u => { u with redo := !u.sack }) } (inc (trnCtr h 3) u) →
    t = pumpAll h c (resendAll h c (viewFor h (.again c) (viewOf m s) w) w) →
    (s.pw.stopped = false → exec (.retransmitTimeout h c m) s = .next (follows t)) ∧
    (quiet s t = true → exec (.retransmitTimeout h c m) s = .next t))

/-- SEND takes its protocol, POST_RECV is posted or finds the earliest unexpected message, and MATCH_RESET empties its
scope. From the row of an issued job that has not begun: a SEND that its channel takes is ready in the channel's line once
its local data have passed the checks, as a rendezvous message when SUB_OP or the eager limit says so, and data that do not
pass, or wait, end it or make it wait; a channel that refuses it ends it CHANNEL_ERROR. A POST_RECV with matching enabled
whose key and buffer pass the checks enters the posted receives with the next posting sequence when no unexpected message
fits it, and takes the earliest-released fitting one otherwise: it completes at once with UNEXPECTED when that is an empty
eager message, fetches a rendezvous message, copies a bounce slot, or waits for the rest of a message that still arrives;
with ENABLE 0 it is malformed, in the lost state it ends MATCH_LOST, and a check that fails or waits decides it as it does
any job. MATCH_RESET ends the posted receives and discards the unexpected messages of its scope CANCELLED, tells the
senders of rendezvous ones, and with PORT clears the lost state. Every one that searches the entries first meets their
error marks (log 127). A row at a host port that does not serve, or that names no issued job which has not begun, changes
nothing. -/
def Obligations.MatchJobs : Prop :=
  (∀ (h q : Nat) (i : Word) (m : HostView) (j : Job) (u w : State) (s t : State),
    hostUp s h = true → freshJob s h q i 32 = some j → j.ready = false →
    (if j.chan = 0 then chanRefuses (updJob h j.id (fun k => { k with begun := true }) s) h ({ j with begun := true })
        else none) = none →
    u = joinLine h ({ j with begun := true }) (updJob h j.id (fun k => { k with begun := true }) s) →
    (if Job.inl j then (.ok (), u) else checkLocal h ({ j with begun := true }) .localRead (viewOf m s) u) = (.ok (), w) →
    t = runChan h (Job.chanNo j) (viewOf m s) (updJob h j.id (fun k => { k with
          ready := true,
          rndv := decide (Job.subop j = 1 ∨ eagerLimit w h < lengthOfJob j) }) (stopWait h (.job j.id) w)) →
    (s.pw.stopped = false → exec (.send h q i m) s = .next (follows t)) ∧
    (quiet s t = true → exec (.send h q i m) s = .next t)) ∧
  (∀ (h q : Nat) (i : Word) (m : HostView) (j : Job) (u w : State) (a : Acc Unit) (s t : State),
    hostUp s h = true → freshJob s h q i 32 = some j → j.ready = false →
    (if j.chan = 0 then chanRefuses (updJob h j.id (fun k => { k with begun := true }) s) h ({ j with begun := true })
        else none) = none →
    u = joinLine h ({ j with begun := true }) (updJob h j.id (fun k => { k with begun := true }) s) →
    (if Job.inl j then (.ok (), u) else checkLocal h ({ j with begun := true }) .localRead (viewOf m s) u) = (a, w) →
    a ≠ .ok () →
    t = failAcc h ({ j with begun := true }) 0 a w →
    (s.pw.stopped = false → exec (.send h q i m) s = .next (follows t)) ∧
    (quiet s t = true → exec (.send h q i m) s = .next t)) ∧
  (∀ (h q : Nat) (i : Word) (m : HostView) (j : Job) (d : Nat) (s t : State),
    hostUp s h = true → freshJob s h q i 32 = some j → j.ready = false → j.chan = 0 →
    chanRefuses (updJob h j.id (fun k => { k with begun := true }) s) h ({ j with begun := true }) = some d →
    t = finishJob h ({ j with begun := true }) 0x22 0 d (updJob h j.id (fun k => { k with begun := true }) s) →
    (s.pw.stopped = false → exec (.send h q i m) s = .next (follows t)) ∧
    (quiet s t = true → exec (.send h q i m) s = .next t)) ∧
  (∀ (h q : Nat) (i : Word) (m : HostView) (j : Job) (g a b e f : State) (d : List Word) (r : Recv) (s t : State),
    hostUp s h = true → freshJob s h q i 33 = some j →
    g = meetMatch h (updJob h j.id (fun k => { k with begun := true }) s) → mtcOn g h = true → (hport g h).lost = false →
    failCount h false (checkKey h (wAt (Job.op j) 6) (u64 (Job.op j) 4) (wAt (Job.op j) 7).toNat .localWrite (jobWho g h
        ({ j with begun := true })) (viewOf m s) g) = (.ok d, a) →
    checkLocal h ({ j with begun := true }) .localWrite (viewOf m s) a = (.ok (), b) → e = stopWait h (.job j.id) b →
    r =
        { job := j.id, seq := (hport e h).postSeq, fn := (wqOf e h j.q).fn, pd := BitVec.ofNat 16 (fAt d 1 16 16), tag :=
            BitVec.ofNat 64 (u64 (Job.op j) 11), mask := BitVec.ofNat 64 (u64 (Job.op j) 8), comm := wAt (Job.op j) 13,
            rank := wAt (Job.op j) 14, any := bAt (Job.op j) 10 0, len := lengthOfJob j } →
    f = (if inTier (updJob h j.id (fun j => { j with ready := true }) e) h = 0 then (updJob h j.id (fun j => { j with
          ready := true }) e) else inc (mtcCtr h 14) (updJob h j.id (fun j => { j with ready := true }) e)) →
    (unexpAt f h).find? (fun u => fits r u.fn u.pd u.tag u.comm u.rank) = none →
    t = uncover h j.id false (inc (mtcCtr h 5) (setPosted h (postedAt f h ++ [r]) (updHost h (fun p => { p with
          postSeq := p.postSeq + 1 }) f))) →
    (s.pw.stopped = false → exec (.postRecv h q i m) s = .next (follows t)) ∧
    (quiet s t = true → exec (.postRecv h q i m) s = .next t)) ∧
  (∀ (h q : Nat) (i : Word) (m : HostView) (j : Job) (g a b e f : State) (d : List Word) (r : Recv) (u : Unexp) (s t : State),
    hostUp s h = true → freshJob s h q i 33 = some j →
    g = meetMatch h (updJob h j.id (fun k => { k with begun := true }) s) → mtcOn g h = true → (hport g h).lost = false →
    failCount h false (checkKey h (wAt (Job.op j) 6) (u64 (Job.op j) 4) (wAt (Job.op j) 7).toNat .localWrite (jobWho g h
        ({ j with begun := true })) (viewOf m s) g) = (.ok d, a) →
    checkLocal h ({ j with begun := true }) .localWrite (viewOf m s) a = (.ok (), b) → e = stopWait h (.job j.id) b →
    r =
        { job := j.id, seq := (hport e h).postSeq, fn := (wqOf e h j.q).fn, pd := BitVec.ofNat 16 (fAt d 1 16 16), tag :=
            BitVec.ofNat 64 (u64 (Job.op j) 11), mask := BitVec.ofNat 64 (u64 (Job.op j) 8), comm := wAt (Job.op j) 13,
            rank := wAt (Job.op j) 14, any := bAt (Job.op j) 10 0, len := lengthOfJob j } →
    f = (if inTier (updJob h j.id (fun j => { j with ready := true }) e) h = 0 then (updJob h j.id (fun j => { j with
          ready := true }) e) else inc (mtcCtr h 14) (updJob h j.id (fun j => { j with ready := true }) e)) →
    (unexpAt f h).find? (fun u => fits r u.fn u.pd u.tag u.comm u.rank) = some u → u.rndv = none → u.slot = none →
    t = finishRecv h ({ j with begun := true }) 0 0 u.tag u.rank (flUnexpected true ||| flLate u.late) (uncover h j.id
        false (inc (mtcCtr h 4) (setUnexp h ((unexpAt f h).filter (fun y => y.seq ≠ u.seq)) f))) →
    (s.pw.stopped = false → exec (.postRecv h q i m) s = .next (follows t)) ∧
    (quiet s t = true → exec (.postRecv h q i m) s = .next t)) ∧
  (∀ (h q : Nat) (i : Word) (m : HostView) (j : Job) (g a b e f : State) (d : List Word) (r : Recv) (u : Unexp) (k : Nat × Word) (s t : State),
    hostUp s h = true → freshJob s h q i 33 = some j →
    g = meetMatch h (updJob h j.id (fun k => { k with begun := true }) s) → mtcOn g h = true → (hport g h).lost = false →
    failCount h false (checkKey h (wAt (Job.op j) 6) (u64 (Job.op j) 4) (wAt (Job.op j) 7).toNat .localWrite (jobWho g h
        ({ j with begun := true })) (viewOf m s) g) = (.ok d, a) →
    checkLocal h ({ j with begun := true }) .localWrite (viewOf m s) a = (.ok (), b) → e = stopWait h (.job j.id) b →
    r =
        { job := j.id, seq := (hport e h).postSeq, fn := (wqOf e h j.q).fn, pd := BitVec.ofNat 16 (fAt d 1 16 16), tag :=
            BitVec.ofNat 64 (u64 (Job.op j) 11), mask := BitVec.ofNat 64 (u64 (Job.op j) 8), comm := wAt (Job.op j) 13,
            rank := wAt (Job.op j) 14, any := bAt (Job.op j) 10 0, len := lengthOfJob j } →
    f = (if inTier (updJob h j.id (fun j => { j with ready := true }) e) h = 0 then (updJob h j.id (fun j => { j with
          ready := true }) e) else inc (mtcCtr h 14) (updJob h j.id (fun j => { j with ready := true }) e)) →
    (unexpAt f h).find? (fun u => fits r u.fn u.pd u.tag u.comm u.rank) = some u → u.rndv = some k →
    t = fetchMsg h u.chan
        { job := j.id, orig := u.msn, tag := u.tag, comm := u.comm, rank := u.rank, addr := k.1, key := k.2, len := min
            u.len r.len, msgLen := u.len, left := min u.len r.len, unexp := true, late := u.late } (viewOf m s) (uncover h
        j.id false (inc (mtcCtr h 4) (setUnexp h ((unexpAt f h).filter (fun y => y.seq ≠ u.seq)) f))) →
    (s.pw.stopped = false → exec (.postRecv h q i m) s = .next (follows t)) ∧
    (quiet s t = true → exec (.postRecv h q i m) s = .next t)) ∧
  (∀ (h q : Nat) (i : Word) (m : HostView) (j : Job) (g a b e f : State) (d : List Word) (r : Recv) (u : Unexp) (k : Nat) (s t : State),
    hostUp s h = true → freshJob s h q i 33 = some j →
    g = meetMatch h (updJob h j.id (fun k => { k with begun := true }) s) → mtcOn g h = true → (hport g h).lost = false →
    failCount h false (checkKey h (wAt (Job.op j) 6) (u64 (Job.op j) 4) (wAt (Job.op j) 7).toNat .localWrite (jobWho g h
        ({ j with begun := true })) (viewOf m s) g) = (.ok d, a) →
    checkLocal h ({ j with begun := true }) .localWrite (viewOf m s) a = (.ok (), b) → e = stopWait h (.job j.id) b →
    r =
        { job := j.id, seq := (hport e h).postSeq, fn := (wqOf e h j.q).fn, pd := BitVec.ofNat 16 (fAt d 1 16 16), tag :=
            BitVec.ofNat 64 (u64 (Job.op j) 11), mask := BitVec.ofNat 64 (u64 (Job.op j) 8), comm := wAt (Job.op j) 13,
            rank := wAt (Job.op j) 14, any := bAt (Job.op j) 10 0, len := lengthOfJob j } →
    f = (if inTier (updJob h j.id (fun j => { j with ready := true }) e) h = 0 then (updJob h j.id (fun j => { j with
          ready := true }) e) else inc (mtcCtr h 14) (updJob h j.id (fun j => { j with ready := true }) e)) →
    (unexpAt f h).find? (fun u => fits r u.fn u.pd u.tag u.comm u.rank) = some u → u.rndv = none → u.slot = some k →
    (chanOf (uncover h j.id false (inc (mtcCtr h 4) (setUnexp h ((unexpAt f h).filter (fun y => y.seq ≠ u.seq)) f))) h
        u.chan).msgs.find? (fun x => x.dest = .slot k) = none →
    t = startCopy h
        { job := j.id, slot := k, len := u.len, tag := u.tag, rank := u.rank, flags := flUnexpected true ||| flLate u.late
            } (viewOf m s) (uncover h j.id false (inc (mtcCtr h 4) (setUnexp h ((unexpAt f h).filter (fun y => y.seq ≠
        u.seq)) f))) →
    (s.pw.stopped = false → exec (.postRecv h q i m) s = .next (follows t)) ∧
    (quiet s t = true → exec (.postRecv h q i m) s = .next t)) ∧
  (∀ (h q : Nat) (i : Word) (m : HostView) (j : Job) (g a b e f : State) (d : List Word) (r : Recv) (u : Unexp) (k : Nat) (x : MsgRx) (s t : State),
    hostUp s h = true → freshJob s h q i 33 = some j →
    g = meetMatch h (updJob h j.id (fun k => { k with begun := true }) s) → mtcOn g h = true → (hport g h).lost = false →
    failCount h false (checkKey h (wAt (Job.op j) 6) (u64 (Job.op j) 4) (wAt (Job.op j) 7).toNat .localWrite (jobWho g h
        ({ j with begun := true })) (viewOf m s) g) = (.ok d, a) →
    checkLocal h ({ j with begun := true }) .localWrite (viewOf m s) a = (.ok (), b) → e = stopWait h (.job j.id) b →
    r =
        { job := j.id, seq := (hport e h).postSeq, fn := (wqOf e h j.q).fn, pd := BitVec.ofNat 16 (fAt d 1 16 16), tag :=
            BitVec.ofNat 64 (u64 (Job.op j) 11), mask := BitVec.ofNat 64 (u64 (Job.op j) 8), comm := wAt (Job.op j) 13,
            rank := wAt (Job.op j) 14, any := bAt (Job.op j) 10 0, len := lengthOfJob j } →
    f = (if inTier (updJob h j.id (fun j => { j with ready := true }) e) h = 0 then (updJob h j.id (fun j => { j with
          ready := true }) e) else inc (mtcCtr h 14) (updJob h j.id (fun j => { j with ready := true }) e)) →
    (unexpAt f h).find? (fun u => fits r u.fn u.pd u.tag u.comm u.rank) = some u → u.rndv = none → u.slot = some k →
    (chanOf (uncover h j.id false (inc (mtcCtr h 4) (setUnexp h ((unexpAt f h).filter (fun y => y.seq ≠ u.seq)) f))) h
        u.chan).msgs.find? (fun x => x.dest = .slot k) = some x →
    t = putMsg h u.chan { x with dest := .both k j.id, flags := x.flags ||| flUnexpected true } true (uncover h j.id false
        (inc (mtcCtr h 4) (setUnexp h ((unexpAt f h).filter (fun y => y.seq ≠ u.seq)) f))) →
    (s.pw.stopped = false → exec (.postRecv h q i m) s = .next (follows t)) ∧
    (quiet s t = true → exec (.postRecv h q i m) s = .next t)) ∧
  (∀ (h q : Nat) (i : Word) (m : HostView) (j : Job) (g : State) (s t : State),
    hostUp s h = true → freshJob s h q i 33 = some j →
    g = meetMatch h (updJob h j.id (fun k => { k with begun := true }) s) → mtcOn g h = false →
    t = malformed h ({ j with begun := true }) 10 g →
    (s.pw.stopped = false → exec (.postRecv h q i m) s = .next (follows t)) ∧
    (quiet s t = true → exec (.postRecv h q i m) s = .next t)) ∧
  (∀ (h q : Nat) (i : Word) (m : HostView) (j : Job) (g : State) (s t : State),
    hostUp s h = true → freshJob s h q i 33 = some j →
    g = meetMatch h (updJob h j.id (fun k => { k with begun := true }) s) → mtcOn g h = true → (hport g h).lost = true →
    t = finishJob h ({ j with begun := true }) 0x2A 0 0 g →
    (s.pw.stopped = false → exec (.postRecv h q i m) s = .next (follows t)) ∧
    (quiet s t = true → exec (.postRecv h q i m) s = .next t)) ∧
  (∀ (h q : Nat) (i : Word) (m : HostView) (j : Job) (g a : State) (k : Acc (List Word)) (s t : State),
    hostUp s h = true → freshJob s h q i 33 = some j →
    g = meetMatch h (updJob h j.id (fun k => { k with begun := true }) s) → mtcOn g h = true → (hport g h).lost = false →
    failCount h false (checkKey h (wAt (Job.op j) 6) (u64 (Job.op j) 4) (wAt (Job.op j) 7).toNat .localWrite (jobWho g h
        ({ j with begun := true })) (viewOf m s) g) = (k, a) →
    (match k with | .ok _ => false | _ => true) = true →
    t = failAcc h ({ j with begun := true }) 0 k a →
    (s.pw.stopped = false → exec (.postRecv h q i m) s = .next (follows t)) ∧
    (quiet s t = true → exec (.postRecv h q i m) s = .next t)) ∧
  (∀ (h q : Nat) (i : Word) (m : HostView) (j : Job) (g a b : State) (d : List Word) (k : Acc Unit) (s t : State),
    hostUp s h = true → freshJob s h q i 33 = some j →
    g = meetMatch h (updJob h j.id (fun k => { k with begun := true }) s) → mtcOn g h = true → (hport g h).lost = false →
    failCount h false (checkKey h (wAt (Job.op j) 6) (u64 (Job.op j) 4) (wAt (Job.op j) 7).toNat .localWrite (jobWho g h
        ({ j with begun := true })) (viewOf m s) g) = (.ok d, a) →
    checkLocal h ({ j with begun := true }) .localWrite (viewOf m s) a = (k, b) → k ≠ .ok () →
    t = failAcc h ({ j with begun := true }) 0 k b →
    (s.pw.stopped = false → exec (.postRecv h q i m) s = .next (follows t)) ∧
    (quiet s t = true → exec (.postRecv h q i m) s = .next t)) ∧
  (∀ (h q : Nat) (i : Word) (j : Job) (a : State) (rv : List Unexp) (s t : State),
    hostUp s h = true → freshJob s h q i 34 = some j → Job.subop j ≠ 2 →
    a = (dropPosted h 2 (fun r => (r.fn == fAt (Job.op j) 12 0 8 && r.pd == BitVec.ofNat 16 (fAt (Job.op j) 11 0 16)))
        (meetMatch h (updJob h j.id (fun k => { k with begun := true }) s))) →
    rv = (unexpAt a h).filter (fun u => (u.fn == fAt (Job.op j) 12 0 8 && u.pd == BitVec.ofNat 16 (fAt (Job.op j) 11 0
        16)) && u.rndv.isSome) →
    t = finishJob h ({ j with begun := true }) 0 0 0 (rv.foldl (fun s u => tellDiscarded h u.chan u.tag u.comm u.rank
        u.msn {} s) (dropUnexp h (fun u => (u.fn == fAt (Job.op j) 12 0 8 && u.pd == BitVec.ofNat 16 (fAt (Job.op j) 11 0
        16))) a)) →
    (s.pw.stopped = false → exec (.matchReset h q i) s = .next (follows t)) ∧
    (quiet s t = true → exec (.matchReset h q i) s = .next t)) ∧
  (∀ (h q : Nat) (i : Word) (j : Job) (a : State) (rv : List Unexp) (s t : State),
    hostUp s h = true → freshJob s h q i 34 = some j → Job.subop j = 2 →
    a = (dropPosted h 2 (fun _ => true) (meetMatch h (updJob h j.id (fun k => { k with begun := true }) s))) →
    rv = (unexpAt a h).filter (fun u => u.rndv.isSome) →
    t = finishJob h ({ j with begun := true }) 0 0 0 (updHost h (fun p => { p with lost := false }) (rv.foldl (fun s u =>
        tellDiscarded h u.chan u.tag u.comm u.rank u.msn {} s) (dropUnexp h (fun _ => true) a))) →
    (s.pw.stopped = false → exec (.matchReset h q i) s = .next (follows t)) ∧
    (quiet s t = true → exec (.matchReset h q i) s = .next t)) ∧
  (∀ (h q : Nat) (i : Word) (m : HostView) (s t : State),
    hostUp s h = false ∨ freshJob s h q i 32 = none →
    t = s →
    (s.pw.stopped = false → exec (.send h q i m) s = .next (follows t)) ∧
    (quiet s t = true → exec (.send h q i m) s = .next t)) ∧
  (∀ (h q : Nat) (i : Word) (m : HostView) (s t : State),
    hostUp s h = false ∨ freshJob s h q i 33 = none →
    t = s →
    (s.pw.stopped = false → exec (.postRecv h q i m) s = .next (follows t)) ∧
    (quiet s t = true → exec (.postRecv h q i m) s = .next t)) ∧
  (∀ (h q : Nat) (i : Word) (s t : State),
    hostUp s h = false ∨ freshJob s h q i 34 = none →
    t = s →
    (s.pw.stopped = false → exec (.matchReset h q i) s = .next (follows t)) ∧
    (quiet s t = true → exec (.matchReset h q i) s = .next t))

/-- A released head takes the earliest-posted fitting receive, is stored, or is refused; RNDV_DONE ends its SEND. A packet
that a Bole accepts for a cached reliable channel and that may execute, at any distance below 2,048: an inconsistent EAGER,
RNDV_RTS or RNDV_DONE is answered BAD_REQUEST and counted, and one whose MSG_CHECK fails is recorded, an EAGER's bytes
going where its message goes (log 160). A consistent head is counted and takes the next release sequence, and then: in the
lost state it is counted and discarded, the sender of a rendezvous message told so; with ENABLE 0 it is refused
RECEIVER_BUSY; an RNDV_RTS that a posted receive fits takes the first such receive out and begins its fetch; an EAGER head
that one fits is written to the first such receive, whose message goes on or ends, or, when the write fails its check, ends
that receive; one that would end its receive while the completion queue is full is refused RECEIVER_NOT_READY with nothing
changed but the marks it met; a head that none fits is stored, on chip while there is a place and in the tier while that
has one, an EAGER head with payload in the bounce slot that is free; without a place or a slot it is refused RECEIVER_BUSY.
A later EAGER packet follows its message into the slot or the receive; one of no message in delivery is inconsistent.
RNDV_DONE ends the SEND whose MSN it names, with its DISCARDED and TRUNCATED marks, and one that names none is counted as
stray. On an UNRELIABLE channel each is an envelope error. For each of the three rows: Its INCARNATION differs from the
context's, its source is not the peer, or its PSN lies 2,048 and more beyond the expected one: it is dropped and counted in
its counter; the channel is in ERROR: the answer is CHANNEL_ERROR; it is in execution already: it is counted a duplicate;
the order holds it back: it is parked; the alive test fails: the failure is recorded. A packet that is not accepted changes
no more than those tests do, and one whose context is not cached is parked and the record fetched. A duplicate is
acknowledged. -/
def Obligations.ArrivalOfMessages : Prop :=
  (∀ (h : Nat) (p : Packet) (m : HostView) (r u w : State) (c : Nat) (x : Chan) (v : View) (d : Nat) (y : State) (z : Chan) (s t : State),
    arrived h 0x20 p s = (r, true) → c = p.chan.toNat → u = inc (trnCtr h 1) r → (chanOf u h c).cached = true →
    v = viewOf m u → w = (takeCore h c (meetCtx h c u)).1 → x = chanOf w h c → p.inc = x.inc → p.src = x.peer →
    x.unrel = false → x.st ≠ .error → d = (p.psn - x.expect).toNat → d < 2048 → executedAt x d = false →
    x.busy.any (fun q => q.psn == p.psn) = false → heldBack x d p = false →
    (if d = 0 ∨ x.window then (w, true) else freeSlots (boleOf h) (objKey 24 h c) 1 w) = (y, true) →
    aliveOk x d p = true → z = chanOf y h c → envBad y h p = true →
    t = afterRx h c p v (.over, sendAck h c p.psn 0x12 0 (mtcCause h 3 (inc (mtcCtr h 11) y))) →
    (s.pw.stopped = false → exec (.eager h p m) s = .next (follows t)) ∧
    (quiet s t = true → exec (.eager h p m) s = .next t)) ∧
  (∀ (h : Nat) (p : Packet) (m : HostView) (r u w : State) (c : Nat) (x : Chan) (v : View) (d : Nat) (y : State) (z : Chan) (s t : State),
    arrived h 0x21 p s = (r, true) → c = p.chan.toNat → u = inc (trnCtr h 1) r → (chanOf u h c).cached = true →
    v = viewOf m u → w = (takeCore h c (meetCtx h c u)).1 → x = chanOf w h c → p.inc = x.inc → p.src = x.peer →
    x.unrel = false → x.st ≠ .error → d = (p.psn - x.expect).toNat → d < 2048 → executedAt x d = false →
    x.busy.any (fun q => q.psn == p.psn) = false → heldBack x d p = false →
    (if d = 0 ∨ x.window then (w, true) else freeSlots (boleOf h) (objKey 24 h c) 1 w) = (y, true) →
    aliveOk x d p = true → z = chanOf y h c → envBad y h p = true →
    t = afterRx h c p v (.over, sendAck h c p.psn 0x12 0 (mtcCause h 3 (inc (mtcCtr h 11) y))) →
    (s.pw.stopped = false → exec (.rndvRts h p m) s = .next (follows t)) ∧
    (quiet s t = true → exec (.rndvRts h p m) s = .next t)) ∧
  (∀ (h : Nat) (p : Packet) (m : HostView) (r u w : State) (c : Nat) (x : Chan) (v : View) (d : Nat) (y : State) (z : Chan) (s t : State),
    arrived h 0x22 p s = (r, true) → c = p.chan.toNat → u = inc (trnCtr h 1) r → (chanOf u h c).cached = true →
    v = viewOf m u → w = (takeCore h c (meetCtx h c u)).1 → x = chanOf w h c → p.inc = x.inc → p.src = x.peer →
    x.unrel = false → x.st ≠ .error → d = (p.psn - x.expect).toNat → d < 2048 → executedAt x d = false →
    x.busy.any (fun q => q.psn == p.psn) = false → heldBack x d p = false →
    (if d = 0 ∨ x.window then (w, true) else freeSlots (boleOf h) (objKey 24 h c) 1 w) = (y, true) →
    aliveOk x d p = true → z = chanOf y h c → envBad y h p = true →
    t = afterRx h c p v (.over, sendAck h c p.psn 0x12 0 (mtcCause h 3 (inc (mtcCtr h 11) y))) →
    (s.pw.stopped = false → exec (.rndvDone h p m) s = .next (follows t)) ∧
    (quiet s t = true → exec (.rndvDone h p m) s = .next t)) ∧
  (∀ (h : Nat) (p : Packet) (m : HostView) (r u w : State) (c : Nat) (x : Chan) (v : View) (d : Nat) (y : State) (z : Chan) (s t : State),
    arrived h 0x21 p s = (r, true) → c = p.chan.toNat → u = inc (trnCtr h 1) r → (chanOf u h c).cached = true →
    v = viewOf m u → w = (takeCore h c (meetCtx h c u)).1 → x = chanOf w h c → p.inc = x.inc → p.src = x.peer →
    x.unrel = false → x.st ≠ .error → d = (p.psn - x.expect).toNat → d < 2048 → executedAt x d = false →
    x.busy.any (fun q => q.psn == p.psn) = false → heldBack x d p = false →
    (if d = 0 ∨ x.window then (w, true) else freeSlots (boleOf h) (objKey 24 h c) 1 w) = (y, true) →
    aliveOk x d p = true → z = chanOf y h c → envBad y h p = false → checkOk z p = false →
    t = afterRx h c p v (.over, cvuFail h 3 p y) →
    (s.pw.stopped = false → exec (.rndvRts h p m) s = .next (follows t)) ∧
    (quiet s t = true → exec (.rndvRts h p m) s = .next t)) ∧
  (∀ (h : Nat) (p : Packet) (m : HostView) (r u w : State) (c : Nat) (x : Chan) (v : View) (d : Nat) (y : State) (z : Chan) (s t : State),
    arrived h 0x22 p s = (r, true) → c = p.chan.toNat → u = inc (trnCtr h 1) r → (chanOf u h c).cached = true →
    v = viewOf m u → w = (takeCore h c (meetCtx h c u)).1 → x = chanOf w h c → p.inc = x.inc → p.src = x.peer →
    x.unrel = false → x.st ≠ .error → d = (p.psn - x.expect).toNat → d < 2048 → executedAt x d = false →
    x.busy.any (fun q => q.psn == p.psn) = false → heldBack x d p = false →
    (if d = 0 ∨ x.window then (w, true) else freeSlots (boleOf h) (objKey 24 h c) 1 w) = (y, true) →
    aliveOk x d p = true → z = chanOf y h c → envBad y h p = false → checkOk z p = false →
    t = afterRx h c p v (.over, cvuFail h 3 p y) →
    (s.pw.stopped = false → exec (.rndvDone h p m) s = .next (follows t)) ∧
    (quiet s t = true → exec (.rndvDone h p m) s = .next t)) ∧
  (∀ (h : Nat) (p : Packet) (m : HostView) (r u w : State) (c : Nat) (x : Chan) (v : View) (d : Nat) (y : State) (z : Chan) (s t : State),
    arrived h 0x20 p s = (r, true) → c = p.chan.toNat → u = inc (trnCtr h 1) r → (chanOf u h c).cached = true →
    v = viewOf m u → w = (takeCore h c (meetCtx h c u)).1 → x = chanOf w h c → p.inc = x.inc → p.src = x.peer →
    x.unrel = false → x.st ≠ .error → d = (p.psn - x.expect).toNat → d < 2048 → executedAt x d = false →
    x.busy.any (fun q => q.psn == p.psn) = false → heldBack x d p = false →
    (if d = 0 ∨ x.window then (w, true) else freeSlots (boleOf h) (objKey 24 h c) 1 w) = (y, true) →
    aliveOk x d p = true → z = chanOf y h c → envBad y h p = false → checkOk z p = false → eagerDest h p z y = .gone →
    t = afterRx h c p v (.over, cvuFail h 3 p y) →
    (s.pw.stopped = false → exec (.eager h p m) s = .next (follows t)) ∧
    (quiet s t = true → exec (.eager h p m) s = .next t)) ∧
  (∀ (h : Nat) (p : Packet) (m : HostView) (r u w : State) (c : Nat) (x : Chan) (v : View) (d : Nat) (y : State) (z : Chan) (k : Nat) (s t : State),
    arrived h 0x20 p s = (r, true) → c = p.chan.toNat → u = inc (trnCtr h 1) r → (chanOf u h c).cached = true →
    v = viewOf m u → w = (takeCore h c (meetCtx h c u)).1 → x = chanOf w h c → p.inc = x.inc → p.src = x.peer →
    x.unrel = false → x.st ≠ .error → d = (p.psn - x.expect).toNat → d < 2048 → executedAt x d = false →
    x.busy.any (fun q => q.psn == p.psn) = false → heldBack x d p = false →
    (if d = 0 ∨ x.window then (w, true) else freeSlots (boleOf h) (objKey 24 h c) 1 w) = (y, true) →
    aliveOk x d p = true → z = chanOf y h c → envBad y h p = false → checkOk z p = false → eagerDest h p z y = .slot k →
    t = afterRx h c p v (.over, cvuFail h 3 p (wrBus h 0 true (bounceAddr y h k + enOff p) p.payload y)) →
    (s.pw.stopped = false → exec (.eager h p m) s = .next (follows t)) ∧
    (quiet s t = true → exec (.eager h p m) s = .next t)) ∧
  (∀ (h : Nat) (p : Packet) (m : HostView) (r u w : State) (c : Nat) (x : Chan) (v : View) (d : Nat) (y : State) (z : Chan) (k i : Nat) (s t : State),
    arrived h 0x20 p s = (r, true) → c = p.chan.toNat → u = inc (trnCtr h 1) r → (chanOf u h c).cached = true →
    v = viewOf m u → w = (takeCore h c (meetCtx h c u)).1 → x = chanOf w h c → p.inc = x.inc → p.src = x.peer →
    x.unrel = false → x.st ≠ .error → d = (p.psn - x.expect).toNat → d < 2048 → executedAt x d = false →
    x.busy.any (fun q => q.psn == p.psn) = false → heldBack x d p = false →
    (if d = 0 ∨ x.window then (w, true) else freeSlots (boleOf h) (objKey 24 h c) 1 w) = (y, true) →
    aliveOk x d p = true → z = chanOf y h c → envBad y h p = false → checkOk z p = false → eagerDest h p z y = .both k i →
    t = afterRx h c p v (.over, cvuFail h 3 p (wrBus h 0 true (bounceAddr y h k + enOff p) p.payload y)) →
    (s.pw.stopped = false → exec (.eager h p m) s = .next (follows t)) ∧
    (quiet s t = true → exec (.eager h p m) s = .next t)) ∧
  (∀ (h : Nat) (p : Packet) (m : HostView) (r u w : State) (c : Nat) (x : Chan) (v : View) (d : Nat) (y : State) (z : Chan) (i : Nat) (s t : State),
    arrived h 0x20 p s = (r, true) → c = p.chan.toNat → u = inc (trnCtr h 1) r → (chanOf u h c).cached = true →
    v = viewOf m u → w = (takeCore h c (meetCtx h c u)).1 → x = chanOf w h c → p.inc = x.inc → p.src = x.peer →
    x.unrel = false → x.st ≠ .error → d = (p.psn - x.expect).toNat → d < 2048 → executedAt x d = false →
    x.busy.any (fun q => q.psn == p.psn) = false → heldBack x d p = false →
    (if d = 0 ∨ x.window then (w, true) else freeSlots (boleOf h) (objKey 24 h c) 1 w) = (y, true) →
    aliveOk x d p = true → z = chanOf y h c → envBad y h p = false → checkOk z p = false → eagerDest h p z y = .recv i →
    jobOf y h i = none →
    t = afterRx h c p v (.over, cvuFail h 3 p y) →
    (s.pw.stopped = false → exec (.eager h p m) s = .next (follows t)) ∧
    (quiet s t = true → exec (.eager h p m) s = .next t)) ∧
  (∀ (h : Nat) (p : Packet) (m : HostView) (r u w : State) (c : Nat) (x : Chan) (v : View) (d : Nat) (y : State) (z : Chan) (i : Nat) (j : Job) (gs : List Grant) (g : State) (s t : State),
    arrived h 0x20 p s = (r, true) → c = p.chan.toNat → u = inc (trnCtr h 1) r → (chanOf u h c).cached = true →
    v = viewOf m u → w = (takeCore h c (meetCtx h c u)).1 → x = chanOf w h c → p.inc = x.inc → p.src = x.peer →
    x.unrel = false → x.st ≠ .error → d = (p.psn - x.expect).toNat → d < 2048 → executedAt x d = false →
    x.busy.any (fun q => q.psn == p.psn) = false → heldBack x d p = false →
    (if d = 0 ∨ x.window then (w, true) else freeSlots (boleOf h) (objKey 24 h c) 1 w) = (y, true) →
    aliveOk x d p = true → z = chanOf y h c → envBad y h p = false → checkOk z p = false → eagerDest h p z y = .recv i →
    jobOf y h i = some j →
    grantLocal h j (enOff p) (p.payload.take (lengthOfJob j - enOff p)).length .eagerWrite v y = (.ok gs, g) →
    t = afterRx h c p v (.over, cvuFail h 3 p (writeGrants h (gs.map Grant.quiet) (p.payload.take (lengthOfJob j - enOff
        p)) g)) →
    (s.pw.stopped = false → exec (.eager h p m) s = .next (follows t)) ∧
    (quiet s t = true → exec (.eager h p m) s = .next t)) ∧
  (∀ (h : Nat) (p : Packet) (m : HostView) (r u w : State) (c : Nat) (x : Chan) (v : View) (d : Nat) (y : State) (z : Chan) (i : Nat) (j : Job) (n : Need) (g : State) (s t : State),
    arrived h 0x20 p s = (r, true) → c = p.chan.toNat → u = inc (trnCtr h 1) r → (chanOf u h c).cached = true →
    v = viewOf m u → w = (takeCore h c (meetCtx h c u)).1 → x = chanOf w h c → p.inc = x.inc → p.src = x.peer →
    x.unrel = false → x.st ≠ .error → d = (p.psn - x.expect).toNat → d < 2048 → executedAt x d = false →
    x.busy.any (fun q => q.psn == p.psn) = false → heldBack x d p = false →
    (if d = 0 ∨ x.window then (w, true) else freeSlots (boleOf h) (objKey 24 h c) 1 w) = (y, true) →
    aliveOk x d p = true → z = chanOf y h c → envBad y h p = false → checkOk z p = false → eagerDest h p z y = .recv i →
    jobOf y h i = some j →
    grantLocal h j (enOff p) (p.payload.take (lengthOfJob j - enOff p)).length .eagerWrite v y = (.wait n, g) →
    t = rxWait h c p n g →
    (s.pw.stopped = false → exec (.eager h p m) s = .next (follows t)) ∧
    (quiet s t = true → exec (.eager h p m) s = .next t)) ∧
  (∀ (h : Nat) (p : Packet) (m : HostView) (r u w : State) (c : Nat) (x : Chan) (v : View) (d : Nat) (y : State) (z : Chan) (i k : Nat) (j : Job) (g : State) (s t : State),
    arrived h 0x20 p s = (r, true) → c = p.chan.toNat → u = inc (trnCtr h 1) r → (chanOf u h c).cached = true →
    v = viewOf m u → w = (takeCore h c (meetCtx h c u)).1 → x = chanOf w h c → p.inc = x.inc → p.src = x.peer →
    x.unrel = false → x.st ≠ .error → d = (p.psn - x.expect).toNat → d < 2048 → executedAt x d = false →
    x.busy.any (fun q => q.psn == p.psn) = false → heldBack x d p = false →
    (if d = 0 ∨ x.window then (w, true) else freeSlots (boleOf h) (objKey 24 h c) 1 w) = (y, true) →
    aliveOk x d p = true → z = chanOf y h c → envBad y h p = false → checkOk z p = false → eagerDest h p z y = .recv i →
    jobOf y h i = some j →
    grantLocal h j (enOff p) (p.payload.take (lengthOfJob j - enOff p)).length .eagerWrite v y = (.fail k, g) →
    t = afterRx h c p v (.over, cvuFail h 3 p g) →
    (s.pw.stopped = false → exec (.eager h p m) s = .next (follows t)) ∧
    (quiet s t = true → exec (.eager h p m) s = .next t)) ∧
  (∀ (h : Nat) (p : Packet) (m : HostView) (r u w : State) (c : Nat) (x : Chan) (v : View) (d : Nat) (y : State) (z : Chan) (q : State) (o : Chan) (s t : State),
    arrived h 0x20 p s = (r, true) → c = p.chan.toNat → u = inc (trnCtr h 1) r → (chanOf u h c).cached = true →
    v = viewOf m u → w = (takeCore h c (meetCtx h c u)).1 → x = chanOf w h c → p.inc = x.inc → p.src = x.peer →
    x.unrel = false → x.st ≠ .error → d = (p.psn - x.expect).toNat → d < 2048 → executedAt x d = false →
    x.busy.any (fun q => q.psn == p.psn) = false → heldBack x d p = false →
    (if d = 0 ∨ x.window then (w, true) else freeSlots (boleOf h) (objKey 24 h c) 1 w) = (y, true) →
    aliveOk x d p = true → z = chanOf y h c → envBad y h p = false → checkOk z p = true → isHead p = true →
    msgAt z p.psn (enMsn p) = none →
    q = inc (mtcCtr h 0) (updHost h (fun q => { q with relSeq := q.relSeq + 1 }) (meetMatch h y)) →
    o = chanOf (meetMatch h y) h c → (hport q h).lost = false → mtcOn q h = false →
    t = afterRx h c p v (.over, discardBehind h c p (sendAck h c p.psn 2 0 (mtcCause h 1 (inc (mtcCtr h 7) q)))) →
    (s.pw.stopped = false → exec (.eager h p m) s = .next (follows t)) ∧
    (quiet s t = true → exec (.eager h p m) s = .next t)) ∧
  (∀ (h : Nat) (p : Packet) (m : HostView) (r u w : State) (c : Nat) (x : Chan) (v : View) (d : Nat) (y : State) (z : Chan) (q : State) (o : Chan) (s t : State),
    arrived h 0x21 p s = (r, true) → c = p.chan.toNat → u = inc (trnCtr h 1) r → (chanOf u h c).cached = true →
    v = viewOf m u → w = (takeCore h c (meetCtx h c u)).1 → x = chanOf w h c → p.inc = x.inc → p.src = x.peer →
    x.unrel = false → x.st ≠ .error → d = (p.psn - x.expect).toNat → d < 2048 → executedAt x d = false →
    x.busy.any (fun q => q.psn == p.psn) = false → heldBack x d p = false →
    (if d = 0 ∨ x.window then (w, true) else freeSlots (boleOf h) (objKey 24 h c) 1 w) = (y, true) →
    aliveOk x d p = true → z = chanOf y h c → envBad y h p = false → checkOk z p = true → isHead p = true →
    msgAt z p.psn (enMsn p) = none →
    q = inc (mtcCtr h 0) (updHost h (fun q => { q with relSeq := q.relSeq + 1 }) (meetMatch h y)) →
    o = chanOf (meetMatch h y) h c → (hport q h).lost = false → mtcOn q h = false →
    t = afterRx h c p v (.over, discardBehind h c p (sendAck h c p.psn 2 0 (mtcCause h 1 (inc (mtcCtr h 7) q)))) →
    (s.pw.stopped = false → exec (.rndvRts h p m) s = .next (follows t)) ∧
    (quiet s t = true → exec (.rndvRts h p m) s = .next t)) ∧
  (∀ (h : Nat) (p : Packet) (m : HostView) (r u w : State) (c : Nat) (x : Chan) (v : View) (d : Nat) (y : State) (z : Chan) (q : State) (o : Chan) (s t : State),
    arrived h 0x20 p s = (r, true) → c = p.chan.toNat → u = inc (trnCtr h 1) r → (chanOf u h c).cached = true →
    v = viewOf m u → w = (takeCore h c (meetCtx h c u)).1 → x = chanOf w h c → p.inc = x.inc → p.src = x.peer →
    x.unrel = false → x.st ≠ .error → d = (p.psn - x.expect).toNat → d < 2048 → executedAt x d = false →
    x.busy.any (fun q => q.psn == p.psn) = false → heldBack x d p = false →
    (if d = 0 ∨ x.window then (w, true) else freeSlots (boleOf h) (objKey 24 h c) 1 w) = (y, true) →
    aliveOk x d p = true → z = chanOf y h c → envBad y h p = false → checkOk z p = true → isHead p = true →
    msgAt z p.psn (enMsn p) = none →
    q = inc (mtcCtr h 0) (updHost h (fun q => { q with relSeq := q.relSeq + 1 }) (meetMatch h y)) →
    o = chanOf (meetMatch h y) h c → (hport q h).lost = false → mtcOn q h = true →
    (postedAt q h).find? (fun r => fits r o.fn o.pd (enTag p) (enComm p) (enRank p)) = none → unexpMax q h ≤ onChip q h →
    tierRoom q h = false →
    t = afterRx h c p v (.over, discardBehind h c p (sendAck h c p.psn 2 0 (mtcCause h 1 (inc (mtcCtr h 7) q)))) →
    (s.pw.stopped = false → exec (.eager h p m) s = .next (follows t)) ∧
    (quiet s t = true → exec (.eager h p m) s = .next t)) ∧
  (∀ (h : Nat) (p : Packet) (m : HostView) (r u w : State) (c : Nat) (x : Chan) (v : View) (d : Nat) (y : State) (z : Chan) (q : State) (o : Chan) (s t : State),
    arrived h 0x21 p s = (r, true) → c = p.chan.toNat → u = inc (trnCtr h 1) r → (chanOf u h c).cached = true →
    v = viewOf m u → w = (takeCore h c (meetCtx h c u)).1 → x = chanOf w h c → p.inc = x.inc → p.src = x.peer →
    x.unrel = false → x.st ≠ .error → d = (p.psn - x.expect).toNat → d < 2048 → executedAt x d = false →
    x.busy.any (fun q => q.psn == p.psn) = false → heldBack x d p = false →
    (if d = 0 ∨ x.window then (w, true) else freeSlots (boleOf h) (objKey 24 h c) 1 w) = (y, true) →
    aliveOk x d p = true → z = chanOf y h c → envBad y h p = false → checkOk z p = true → isHead p = true →
    msgAt z p.psn (enMsn p) = none →
    q = inc (mtcCtr h 0) (updHost h (fun q => { q with relSeq := q.relSeq + 1 }) (meetMatch h y)) →
    o = chanOf (meetMatch h y) h c → (hport q h).lost = false → mtcOn q h = true →
    (postedAt q h).find? (fun r => fits r o.fn o.pd (enTag p) (enComm p) (enRank p)) = none → unexpMax q h ≤ onChip q h →
    tierRoom q h = false →
    t = afterRx h c p v (.over, discardBehind h c p (sendAck h c p.psn 2 0 (mtcCause h 1 (inc (mtcCtr h 7) q)))) →
    (s.pw.stopped = false → exec (.rndvRts h p m) s = .next (follows t)) ∧
    (quiet s t = true → exec (.rndvRts h p m) s = .next t)) ∧
  (∀ (h : Nat) (p : Packet) (m : HostView) (r u w : State) (c : Nat) (x : Chan) (v : View) (d : Nat) (y : State) (z : Chan) (q : State) (o : Chan) (s t : State),
    arrived h 0x20 p s = (r, true) → c = p.chan.toNat → u = inc (trnCtr h 1) r → (chanOf u h c).cached = true →
    v = viewOf m u → w = (takeCore h c (meetCtx h c u)).1 → x = chanOf w h c → p.inc = x.inc → p.src = x.peer →
    x.unrel = false → x.st ≠ .error → d = (p.psn - x.expect).toNat → d < 2048 → executedAt x d = false →
    x.busy.any (fun q => q.psn == p.psn) = false → heldBack x d p = false →
    (if d = 0 ∨ x.window then (w, true) else freeSlots (boleOf h) (objKey 24 h c) 1 w) = (y, true) →
    aliveOk x d p = true → z = chanOf y h c → envBad y h p = false → checkOk z p = true → isHead p = true →
    msgAt z p.psn (enMsn p) = none →
    q = inc (mtcCtr h 0) (updHost h (fun q => { q with relSeq := q.relSeq + 1 }) (meetMatch h y)) →
    o = chanOf (meetMatch h y) h c → (hport q h).lost = false → mtcOn q h = true →
    (postedAt q h).find? (fun r => fits r o.fn o.pd (enTag p) (enComm p) (enRank p)) = none →
    onChip q h < unexpMax q h ∨ tierRoom q h = true → enLen p ≠ 0 → pickSlot q h = none →
    t = afterRx h c p v (.over, discardBehind h c p (sendAck h c p.psn 2 0 (mtcCause h 1 (inc (mtcCtr h 7) (inc (mtcCtr h
        8) q))))) →
    (s.pw.stopped = false → exec (.eager h p m) s = .next (follows t)) ∧
    (quiet s t = true → exec (.eager h p m) s = .next t)) ∧
  (∀ (h : Nat) (p : Packet) (m : HostView) (r u w : State) (c : Nat) (x : Chan) (v : View) (d : Nat) (y : State) (z : Chan) (q : State) (o : Chan) (a : State) (s t : State),
    arrived h 0x21 p s = (r, true) → c = p.chan.toNat → u = inc (trnCtr h 1) r → (chanOf u h c).cached = true →
    v = viewOf m u → w = (takeCore h c (meetCtx h c u)).1 → x = chanOf w h c → p.inc = x.inc → p.src = x.peer →
    x.unrel = false → x.st ≠ .error → d = (p.psn - x.expect).toNat → d < 2048 → executedAt x d = false →
    x.busy.any (fun q => q.psn == p.psn) = false → heldBack x d p = false →
    (if d = 0 ∨ x.window then (w, true) else freeSlots (boleOf h) (objKey 24 h c) 1 w) = (y, true) →
    aliveOk x d p = true → z = chanOf y h c → envBad y h p = false → checkOk z p = true → isHead p = true →
    msgAt z p.psn (enMsn p) = none →
    q = inc (mtcCtr h 0) (updHost h (fun q => { q with relSeq := q.relSeq + 1 }) (meetMatch h y)) →
    o = chanOf (meetMatch h y) h c → (hport q h).lost = true → a = inc (mtcCtr h 12) q →
    t = afterRx h c p v (.over, ackDue h c p (markDone h c d p (tellDiscarded h c (enTag p) (enComm p) (enRank p) (enMsn
        p) v (deliverAsd h p (cvuGood h o a)).1))) →
    (s.pw.stopped = false → exec (.rndvRts h p m) s = .next (follows t)) ∧
    (quiet s t = true → exec (.rndvRts h p m) s = .next t)) ∧
  (∀ (h : Nat) (p : Packet) (m : HostView) (r u w : State) (c : Nat) (x : Chan) (v : View) (d : Nat) (y : State) (z : Chan) (q : State) (o : Chan) (a : State) (s t : State),
    arrived h 0x20 p s = (r, true) → c = p.chan.toNat → u = inc (trnCtr h 1) r → (chanOf u h c).cached = true →
    v = viewOf m u → w = (takeCore h c (meetCtx h c u)).1 → x = chanOf w h c → p.inc = x.inc → p.src = x.peer →
    x.unrel = false → x.st ≠ .error → d = (p.psn - x.expect).toNat → d < 2048 → executedAt x d = false →
    x.busy.any (fun q => q.psn == p.psn) = false → heldBack x d p = false →
    (if d = 0 ∨ x.window then (w, true) else freeSlots (boleOf h) (objKey 24 h c) 1 w) = (y, true) →
    aliveOk x d p = true → z = chanOf y h c → envBad y h p = false → checkOk z p = true → isHead p = true →
    msgAt z p.psn (enMsn p) = none →
    q = inc (mtcCtr h 0) (updHost h (fun q => { q with relSeq := q.relSeq + 1 }) (meetMatch h y)) →
    o = chanOf (meetMatch h y) h c → (hport q h).lost = true → a = inc (mtcCtr h 12) q →
    t = afterRx h c p v (.over, ackDue h c p (markDone h c d p (msgTook h c p.payload.length
        { head := p.psn, msn := enMsn p, dest := .gone, left := enLen p, len := enLen p, tag := enTag p, comm := enComm p,
            rank := enRank p, flags := flLate (deliverAsd h p (cvuGood h (chanOf a h c) a)).2 } v (deliverAsd h p (cvuGood
        h (chanOf a h c) a)).1))) →
    (s.pw.stopped = false → exec (.eager h p m) s = .next (follows t)) ∧
    (quiet s t = true → exec (.eager h p m) s = .next t)) ∧
  (∀ (h : Nat) (p : Packet) (m : HostView) (r u w : State) (c : Nat) (x : Chan) (v : View) (d : Nat) (y : State) (z : Chan) (q : State) (o : Chan) (a : State) (r0 : Recv) (s t : State),
    arrived h 0x21 p s = (r, true) → c = p.chan.toNat → u = inc (trnCtr h 1) r → (chanOf u h c).cached = true →
    v = viewOf m u → w = (takeCore h c (meetCtx h c u)).1 → x = chanOf w h c → p.inc = x.inc → p.src = x.peer →
    x.unrel = false → x.st ≠ .error → d = (p.psn - x.expect).toNat → d < 2048 → executedAt x d = false →
    x.busy.any (fun q => q.psn == p.psn) = false → heldBack x d p = false →
    (if d = 0 ∨ x.window then (w, true) else freeSlots (boleOf h) (objKey 24 h c) 1 w) = (y, true) →
    aliveOk x d p = true → z = chanOf y h c → envBad y h p = false → checkOk z p = true → isHead p = true →
    msgAt z p.psn (enMsn p) = none →
    q = inc (mtcCtr h 0) (updHost h (fun q => { q with relSeq := q.relSeq + 1 }) (meetMatch h y)) →
    o = chanOf (meetMatch h y) h c → (hport q h).lost = false → mtcOn q h = true →
    (postedAt q h).find? (fun r => fits r o.fn o.pd (enTag p) (enComm p) (enRank p)) = some r0 →
    (r0.len == 0 || o.st != .active) = false ∨ (jobOf q h r0.job).any (recvFull q h) = false →
    a = inc (mtcCtr h 1) (setPosted h ((postedAt q h).filter (fun y => y.job ≠ r0.job)) q) →
    t = afterRx h c p v (.over, ackDue h c p (markDone h c d p (fetchMsg h c
        { job := r0.job, orig := enMsn p, tag := enTag p, comm := enComm p, rank := enRank p, addr := violAddr p, key :=
            Packet.extW p 0 2, len := min (enLen p) r0.len, msgLen := enLen p, left := min (enLen p) r0.len, unexp :=
            false, late := (deliverAsd h p (cvuGood h o a)).2 } v (deliverAsd h p (cvuGood h o a)).1))) →
    (s.pw.stopped = false → exec (.rndvRts h p m) s = .next (follows t)) ∧
    (quiet s t = true → exec (.rndvRts h p m) s = .next t)) ∧
  (∀ (h : Nat) (p : Packet) (m : HostView) (r u w : State) (c : Nat) (x : Chan) (v : View) (d : Nat) (y : State) (z : Chan) (q : State) (o : Chan) (r0 : Recv) (s t : State),
    arrived h 0x21 p s = (r, true) → c = p.chan.toNat → u = inc (trnCtr h 1) r → (chanOf u h c).cached = true →
    v = viewOf m u → w = (takeCore h c (meetCtx h c u)).1 → x = chanOf w h c → p.inc = x.inc → p.src = x.peer →
    x.unrel = false → x.st ≠ .error → d = (p.psn - x.expect).toNat → d < 2048 → executedAt x d = false →
    x.busy.any (fun q => q.psn == p.psn) = false → heldBack x d p = false →
    (if d = 0 ∨ x.window then (w, true) else freeSlots (boleOf h) (objKey 24 h c) 1 w) = (y, true) →
    aliveOk x d p = true → z = chanOf y h c → envBad y h p = false → checkOk z p = true → isHead p = true →
    msgAt z p.psn (enMsn p) = none →
    q = inc (mtcCtr h 0) (updHost h (fun q => { q with relSeq := q.relSeq + 1 }) (meetMatch h y)) →
    o = chanOf (meetMatch h y) h c → (hport q h).lost = false → mtcOn q h = true →
    (postedAt q h).find? (fun r => fits r o.fn o.pd (enTag p) (enComm p) (enRank p)) = some r0 →
    (r0.len == 0 || o.st != .active) = true → (jobOf q h r0.job).any (recvFull q h) = true →
    t = afterRx h c p v (.over, sendAck h c p.psn 1 0 (meetMatch h y)) →
    (s.pw.stopped = false → exec (.rndvRts h p m) s = .next (follows t)) ∧
    (quiet s t = true → exec (.rndvRts h p m) s = .next t)) ∧
  (∀ (h : Nat) (p : Packet) (m : HostView) (r u w : State) (c : Nat) (x : Chan) (v : View) (d : Nat) (y : State) (z : Chan) (q : State) (o : Chan) (r0 : Recv) (s t : State),
    arrived h 0x20 p s = (r, true) → c = p.chan.toNat → u = inc (trnCtr h 1) r → (chanOf u h c).cached = true →
    v = viewOf m u → w = (takeCore h c (meetCtx h c u)).1 → x = chanOf w h c → p.inc = x.inc → p.src = x.peer →
    x.unrel = false → x.st ≠ .error → d = (p.psn - x.expect).toNat → d < 2048 → executedAt x d = false →
    x.busy.any (fun q => q.psn == p.psn) = false → heldBack x d p = false →
    (if d = 0 ∨ x.window then (w, true) else freeSlots (boleOf h) (objKey 24 h c) 1 w) = (y, true) →
    aliveOk x d p = true → z = chanOf y h c → envBad y h p = false → checkOk z p = true → isHead p = true →
    msgAt z p.psn (enMsn p) = none →
    q = inc (mtcCtr h 0) (updHost h (fun q => { q with relSeq := q.relSeq + 1 }) (meetMatch h y)) →
    o = chanOf (meetMatch h y) h c → (hport q h).lost = false → mtcOn q h = true →
    (postedAt q h).find? (fun r => fits r o.fn o.pd (enTag p) (enComm p) (enRank p)) = some r0 →
    (enLen p == p.payload.length) = true → (jobOf q h r0.job).any (recvFull q h) = true →
    t = afterRx h c p v (.over, sendAck h c p.psn 1 0 (meetMatch h y)) →
    (s.pw.stopped = false → exec (.eager h p m) s = .next (follows t)) ∧
    (quiet s t = true → exec (.eager h p m) s = .next t)) ∧
  (∀ (h : Nat) (p : Packet) (m : HostView) (r u w : State) (c : Nat) (x : Chan) (v : View) (d : Nat) (y : State) (z : Chan) (q : State) (o : Chan) (a : State) (r0 : Recv) (j : Job) (b : State) (s t : State),
    arrived h 0x20 p s = (r, true) → c = p.chan.toNat → u = inc (trnCtr h 1) r → (chanOf u h c).cached = true →
    v = viewOf m u → w = (takeCore h c (meetCtx h c u)).1 → x = chanOf w h c → p.inc = x.inc → p.src = x.peer →
    x.unrel = false → x.st ≠ .error → d = (p.psn - x.expect).toNat → d < 2048 → executedAt x d = false →
    x.busy.any (fun q => q.psn == p.psn) = false → heldBack x d p = false →
    (if d = 0 ∨ x.window then (w, true) else freeSlots (boleOf h) (objKey 24 h c) 1 w) = (y, true) →
    aliveOk x d p = true → z = chanOf y h c → envBad y h p = false → checkOk z p = true → isHead p = true →
    msgAt z p.psn (enMsn p) = none →
    q = inc (mtcCtr h 0) (updHost h (fun q => { q with relSeq := q.relSeq + 1 }) (meetMatch h y)) →
    o = chanOf (meetMatch h y) h c → (hport q h).lost = false → mtcOn q h = true →
    (postedAt q h).find? (fun r => fits r o.fn o.pd (enTag p) (enComm p) (enRank p)) = some r0 →
    a = inc (mtcCtr h 1) (setPosted h ((postedAt q h).filter (fun y => y.job ≠ r0.job)) q) → jobOf a h r0.job = some j →
    recvFull q h j = false ∨ enLen p ≠ p.payload.length →
    writeBy .eagerWrite h j (enOff p) (p.payload.take (lengthOfJob j - enOff p)) v a = (.ok (), b) →
    t = afterRx h c p v (.over, ackDue h c p (markDone h c d p (msgTook h c p.payload.length
        { head := p.psn, msn := enMsn p, dest := .recv r0.job, left := enLen p, len := enLen p, tag := enTag p, comm :=
            enComm p, rank := enRank p, flags := flLate (deliverAsd h p (cvuGood h (chanOf b h c) b)).2 } v (deliverAsd h
        p (cvuGood h (chanOf b h c) b)).1))) →
    (s.pw.stopped = false → exec (.eager h p m) s = .next (follows t)) ∧
    (quiet s t = true → exec (.eager h p m) s = .next t)) ∧
  (∀ (h : Nat) (p : Packet) (m : HostView) (r u w : State) (c : Nat) (x : Chan) (v : View) (d : Nat) (y : State) (z : Chan) (q : State) (o : Chan) (a : State) (r0 : Recv) (j : Job) (k : Nat) (b : State) (s t : State),
    arrived h 0x20 p s = (r, true) → c = p.chan.toNat → u = inc (trnCtr h 1) r → (chanOf u h c).cached = true →
    v = viewOf m u → w = (takeCore h c (meetCtx h c u)).1 → x = chanOf w h c → p.inc = x.inc → p.src = x.peer →
    x.unrel = false → x.st ≠ .error → d = (p.psn - x.expect).toNat → d < 2048 → executedAt x d = false →
    x.busy.any (fun q => q.psn == p.psn) = false → heldBack x d p = false →
    (if d = 0 ∨ x.window then (w, true) else freeSlots (boleOf h) (objKey 24 h c) 1 w) = (y, true) →
    aliveOk x d p = true → z = chanOf y h c → envBad y h p = false → checkOk z p = true → isHead p = true →
    msgAt z p.psn (enMsn p) = none →
    q = inc (mtcCtr h 0) (updHost h (fun q => { q with relSeq := q.relSeq + 1 }) (meetMatch h y)) →
    o = chanOf (meetMatch h y) h c → (hport q h).lost = false → mtcOn q h = true →
    (postedAt q h).find? (fun r => fits r o.fn o.pd (enTag p) (enComm p) (enRank p)) = some r0 →
    a = inc (mtcCtr h 1) (setPosted h ((postedAt q h).filter (fun y => y.job ≠ r0.job)) q) → jobOf a h r0.job = some j →
    recvFull q h j = false →
    writeBy .eagerWrite h j (enOff p) (p.payload.take (lengthOfJob j - enOff p)) v a = (.fail k, b) →
    t = afterRx h c p v (.over, ackDue h c p (markDone h c d p (msgTook h c p.payload.length
        { head := p.psn, msn := enMsn p, dest := .gone, left := enLen p, len := enLen p, tag := enTag p, comm := enComm p,
            rank := enRank p, flags := flLate false } v (failRecv h r0.job (if k = 12 ∨ k = 13 then 0x48 else 0x11) 0 k
        (flLate (deliverAsd h p (cvuGood h (chanOf b h c) b)).2) (deliverAsd h p (cvuGood h (chanOf b h c) b)).1)))) →
    (s.pw.stopped = false → exec (.eager h p m) s = .next (follows t)) ∧
    (quiet s t = true → exec (.eager h p m) s = .next t)) ∧
  (∀ (h : Nat) (p : Packet) (m : HostView) (r u w : State) (c : Nat) (x : Chan) (v : View) (d : Nat) (y : State) (z : Chan) (q : State) (o : Chan) (a : State) (b : State) (s t : State),
    arrived h 0x21 p s = (r, true) → c = p.chan.toNat → u = inc (trnCtr h 1) r → (chanOf u h c).cached = true →
    v = viewOf m u → w = (takeCore h c (meetCtx h c u)).1 → x = chanOf w h c → p.inc = x.inc → p.src = x.peer →
    x.unrel = false → x.st ≠ .error → d = (p.psn - x.expect).toNat → d < 2048 → executedAt x d = false →
    x.busy.any (fun q => q.psn == p.psn) = false → heldBack x d p = false →
    (if d = 0 ∨ x.window then (w, true) else freeSlots (boleOf h) (objKey 24 h c) 1 w) = (y, true) →
    aliveOk x d p = true → z = chanOf y h c → envBad y h p = false → checkOk z p = true → isHead p = true →
    msgAt z p.psn (enMsn p) = none →
    q = inc (mtcCtr h 0) (updHost h (fun q => { q with relSeq := q.relSeq + 1 }) (meetMatch h y)) →
    o = chanOf (meetMatch h y) h c → (hport q h).lost = false → mtcOn q h = true →
    (postedAt q h).find? (fun r => fits r o.fn o.pd (enTag p) (enComm p) (enRank p)) = none →
    onChip q h < unexpMax q h ∨ tierRoom q h = true →
    a = (if onChip q h < unexpMax q h then inc (mtcCtr h 2) q else if inTier q h = 0 then mtcCause h 0 (inc (mtcCtr h 3)
        (inc (mtcCtr h 2) q)) else inc (mtcCtr h 3) (inc (mtcCtr h 2) q)) →
    b = (deliverAsd h p (cvuGood h o a)).1 →
    t = afterRx h c p v (.over, ackDue h c p (markDone h c d p (setUnexp h (unexpAt b h ++
        [{ seq := (hport b h).relSeq, fn := o.fn, pd := o.pd, chan := c, msn := enMsn p, tag := enTag p, comm := enComm p,
             rank := enRank p, len := enLen p, tier := !decide (onChip q h < unexpMax q h), slot := none, late :=
             (deliverAsd h p (cvuGood h o a)).2, rndv := some (violAddr p, Packet.extW p 0 2) }]) b))) →
    (s.pw.stopped = false → exec (.rndvRts h p m) s = .next (follows t)) ∧
    (quiet s t = true → exec (.rndvRts h p m) s = .next t)) ∧
  (∀ (h : Nat) (p : Packet) (m : HostView) (r u w : State) (c : Nat) (x : Chan) (v : View) (d : Nat) (y : State) (z : Chan) (q : State) (o : Chan) (a : State) (b : State) (s t : State),
    arrived h 0x20 p s = (r, true) → c = p.chan.toNat → u = inc (trnCtr h 1) r → (chanOf u h c).cached = true →
    v = viewOf m u → w = (takeCore h c (meetCtx h c u)).1 → x = chanOf w h c → p.inc = x.inc → p.src = x.peer →
    x.unrel = false → x.st ≠ .error → d = (p.psn - x.expect).toNat → d < 2048 → executedAt x d = false →
    x.busy.any (fun q => q.psn == p.psn) = false → heldBack x d p = false →
    (if d = 0 ∨ x.window then (w, true) else freeSlots (boleOf h) (objKey 24 h c) 1 w) = (y, true) →
    aliveOk x d p = true → z = chanOf y h c → envBad y h p = false → checkOk z p = true → isHead p = true →
    msgAt z p.psn (enMsn p) = none →
    q = inc (mtcCtr h 0) (updHost h (fun q => { q with relSeq := q.relSeq + 1 }) (meetMatch h y)) →
    o = chanOf (meetMatch h y) h c → (hport q h).lost = false → mtcOn q h = true →
    (postedAt q h).find? (fun r => fits r o.fn o.pd (enTag p) (enComm p) (enRank p)) = none →
    onChip q h < unexpMax q h ∨ tierRoom q h = true →
    a = (if onChip q h < unexpMax q h then inc (mtcCtr h 2) q else if inTier q h = 0 then mtcCause h 0 (inc (mtcCtr h 3)
        (inc (mtcCtr h 2) q)) else inc (mtcCtr h 3) (inc (mtcCtr h 2) q)) →
    b = (deliverAsd h p (cvuGood h o a)).1 → enLen p = 0 →
    t = afterRx h c p v (.over, ackDue h c p (markDone h c d p (setUnexp h (unexpAt b h ++
        [{ seq := (hport b h).relSeq, fn := o.fn, pd := o.pd, chan := c, msn := enMsn p, tag := enTag p, comm := enComm p,
             rank := enRank p, len := enLen p, tier := !decide (onChip q h < unexpMax q h), slot := none, late :=
             (deliverAsd h p (cvuGood h o a)).2, rndv := none }]) b))) →
    (s.pw.stopped = false → exec (.eager h p m) s = .next (follows t)) ∧
    (quiet s t = true → exec (.eager h p m) s = .next t)) ∧
  (∀ (h : Nat) (p : Packet) (m : HostView) (r u w : State) (c : Nat) (x : Chan) (v : View) (d : Nat) (y : State) (z : Chan) (q : State) (o : Chan) (k : Nat) (b g f : State) (s t : State),
    arrived h 0x20 p s = (r, true) → c = p.chan.toNat → u = inc (trnCtr h 1) r → (chanOf u h c).cached = true →
    v = viewOf m u → w = (takeCore h c (meetCtx h c u)).1 → x = chanOf w h c → p.inc = x.inc → p.src = x.peer →
    x.unrel = false → x.st ≠ .error → d = (p.psn - x.expect).toNat → d < 2048 → executedAt x d = false →
    x.busy.any (fun q => q.psn == p.psn) = false → heldBack x d p = false →
    (if d = 0 ∨ x.window then (w, true) else freeSlots (boleOf h) (objKey 24 h c) 1 w) = (y, true) →
    aliveOk x d p = true → z = chanOf y h c → envBad y h p = false → checkOk z p = true → isHead p = true →
    msgAt z p.psn (enMsn p) = none →
    q = inc (mtcCtr h 0) (updHost h (fun q => { q with relSeq := q.relSeq + 1 }) (meetMatch h y)) →
    o = chanOf (meetMatch h y) h c → (hport q h).lost = false → mtcOn q h = true →
    (postedAt q h).find? (fun r => fits r o.fn o.pd (enTag p) (enComm p) (enRank p)) = none →
    onChip q h < unexpMax q h ∨ tierRoom q h = true → enLen p ≠ 0 → pickSlot q h = some k →
    b = (if onChip q h < unexpMax q h then inc (mtcCtr h 2) q else if inTier q h = 0 then mtcCause h 0 (inc (mtcCtr h 3)
        (inc (mtcCtr h 2) q)) else inc (mtcCtr h 3) (inc (mtcCtr h 2) q)) →
    g = updHost h (fun q => { q with slots := k :: q.slots }) (setUnexp h (unexpAt b h ++
        [{ seq := (hport b h).relSeq, fn := o.fn, pd := o.pd, chan := c, msn := enMsn p, tag := enTag p, comm := enComm p,
             rank := enRank p, len := enLen p, tier := !decide (onChip q h < unexpMax q h), slot := some k, late := false,
             rndv := none }]) b) →
    f = wrBus h 0 true (bounceAddr g h k + enOff p) p.payload g →
    t = afterRx h c p v (.over, ackDue h c p (markDone h c d p (msgTook h c p.payload.length
        { head := p.psn, msn := enMsn p, dest := .slot k, left := enLen p, len := enLen p, tag := enTag p, comm := enComm
            p, rank := enRank p, flags := flLate (deliverAsd h p (cvuGood h (chanOf f h c) f)).2 } v (deliverAsd h p
        (cvuGood h (chanOf f h c) f)).1))) →
    (s.pw.stopped = false → exec (.eager h p m) s = .next (follows t)) ∧
    (quiet s t = true → exec (.eager h p m) s = .next t)) ∧
  (∀ (h : Nat) (p : Packet) (m : HostView) (r u w : State) (c : Nat) (x : Chan) (v : View) (d : Nat) (y : State) (z : Chan) (s t : State),
    arrived h 0x20 p s = (r, true) → c = p.chan.toNat → u = inc (trnCtr h 1) r → (chanOf u h c).cached = true →
    v = viewOf m u → w = (takeCore h c (meetCtx h c u)).1 → x = chanOf w h c → p.inc = x.inc → p.src = x.peer →
    x.unrel = false → x.st ≠ .error → d = (p.psn - x.expect).toNat → d < 2048 → executedAt x d = false →
    x.busy.any (fun q => q.psn == p.psn) = false → heldBack x d p = false →
    (if d = 0 ∨ x.window then (w, true) else freeSlots (boleOf h) (objKey 24 h c) 1 w) = (y, true) →
    aliveOk x d p = true → z = chanOf y h c → envBad y h p = false → checkOk z p = true → isHead p = false →
    msgAt z (headPsn p) (enMsn p) = none →
    t = afterRx h c p v (.over, sendAck h c p.psn 0x12 0 (mtcCause h 3 (inc (mtcCtr h 11) y))) →
    (s.pw.stopped = false → exec (.eager h p m) s = .next (follows t)) ∧
    (quiet s t = true → exec (.eager h p m) s = .next t)) ∧
  (∀ (h : Nat) (p : Packet) (m : HostView) (r u w : State) (c : Nat) (x : Chan) (v : View) (d : Nat) (y : State) (z : Chan) (g : MsgRx) (k : Nat) (b : State) (s t : State),
    arrived h 0x20 p s = (r, true) → c = p.chan.toNat → u = inc (trnCtr h 1) r → (chanOf u h c).cached = true →
    v = viewOf m u → w = (takeCore h c (meetCtx h c u)).1 → x = chanOf w h c → p.inc = x.inc → p.src = x.peer →
    x.unrel = false → x.st ≠ .error → d = (p.psn - x.expect).toNat → d < 2048 → executedAt x d = false →
    x.busy.any (fun q => q.psn == p.psn) = false → heldBack x d p = false →
    (if d = 0 ∨ x.window then (w, true) else freeSlots (boleOf h) (objKey 24 h c) 1 w) = (y, true) →
    aliveOk x d p = true → z = chanOf y h c → envBad y h p = false → checkOk z p = true →
    (if isHead p then msgAt z p.psn (enMsn p) else msgAt z (headPsn p) (enMsn p)) = some g → g.dest = .slot k →
    b = wrBus h 0 true (bounceAddr y h k + enOff p) p.payload y →
    t = afterRx h c p v (.over, ackDue h c p (markDone h c d p (msgTook h c p.payload.length { g with
          flags := g.flags ||| flLate (deliverAsd h p (cvuGood h (chanOf b h c) b)).2 } v (deliverAsd h p (cvuGood h
        (chanOf b h c) b)).1))) →
    (s.pw.stopped = false → exec (.eager h p m) s = .next (follows t)) ∧
    (quiet s t = true → exec (.eager h p m) s = .next t)) ∧
  (∀ (h : Nat) (p : Packet) (m : HostView) (r u w : State) (c : Nat) (x : Chan) (v : View) (d : Nat) (y : State) (z : Chan) (g : MsgRx) (j : Job) (i : Nat) (b : State) (s t : State),
    arrived h 0x20 p s = (r, true) → c = p.chan.toNat → u = inc (trnCtr h 1) r → (chanOf u h c).cached = true →
    v = viewOf m u → w = (takeCore h c (meetCtx h c u)).1 → x = chanOf w h c → p.inc = x.inc → p.src = x.peer →
    x.unrel = false → x.st ≠ .error → d = (p.psn - x.expect).toNat → d < 2048 → executedAt x d = false →
    x.busy.any (fun q => q.psn == p.psn) = false → heldBack x d p = false →
    (if d = 0 ∨ x.window then (w, true) else freeSlots (boleOf h) (objKey 24 h c) 1 w) = (y, true) →
    aliveOk x d p = true → z = chanOf y h c → envBad y h p = false → checkOk z p = true →
    (if isHead p then msgAt z p.psn (enMsn p) else msgAt z (headPsn p) (enMsn p)) = some g → g.dest = .recv i →
    jobOf y h i = some j → recvFull y h j = false ∨ p.payload.length ≠ g.left →
    writeBy .eagerWrite h j (enOff p) (p.payload.take (lengthOfJob j - enOff p)) v y = (.ok (), b) →
    t = afterRx h c p v (.over, ackDue h c p (markDone h c d p (msgTook h c p.payload.length { g with
          flags := g.flags ||| flLate (deliverAsd h p (cvuGood h (chanOf b h c) b)).2 } v (deliverAsd h p (cvuGood h
        (chanOf b h c) b)).1))) →
    (s.pw.stopped = false → exec (.eager h p m) s = .next (follows t)) ∧
    (quiet s t = true → exec (.eager h p m) s = .next t)) ∧
  (∀ (h : Nat) (p : Packet) (m : HostView) (r u w : State) (c : Nat) (x : Chan) (v : View) (d : Nat) (y : State) (z : Chan) (j : Job) (b : State) (s t : State),
    arrived h 0x22 p s = (r, true) → c = p.chan.toNat → u = inc (trnCtr h 1) r → (chanOf u h c).cached = true →
    v = viewOf m u → w = (takeCore h c (meetCtx h c u)).1 → x = chanOf w h c → p.inc = x.inc → p.src = x.peer →
    x.unrel = false → x.st ≠ .error → d = (p.psn - x.expect).toNat → d < 2048 → executedAt x d = false →
    x.busy.any (fun q => q.psn == p.psn) = false → heldBack x d p = false →
    (if d = 0 ∨ x.window then (w, true) else freeSlots (boleOf h) (objKey 24 h c) 1 w) = (y, true) →
    aliveOk x d p = true → z = chanOf y h c → envBad y h p = false → checkOk z p = true →
    b = (deliverAsd h p (cvuGood h z y)).1 →
    (hport b h).jobs.find? (fun j => j.rndv && j.chan == c && j.sent != 0 && j.msn == enOrig p) = some j →
    bitW (Packet.extW p 3 4) 26 = false →
    t = afterRx h c p v (.over, ackDue h c p (markDone h c d p (finishJob h { j with
          flags := j.flags ||| flTruncated (bitW (Packet.extW p 3 4) 25) } 0 (enLen p) 0 (updChan h c (fun x => { x with
          line := x.line.filter (· ≠ .job j.id) }) b)))) →
    (s.pw.stopped = false → exec (.rndvDone h p m) s = .next (follows t)) ∧
    (quiet s t = true → exec (.rndvDone h p m) s = .next t)) ∧
  (∀ (h : Nat) (p : Packet) (m : HostView) (r u w : State) (c : Nat) (x : Chan) (v : View) (d : Nat) (y : State) (z : Chan) (j : Job) (b : State) (s t : State),
    arrived h 0x22 p s = (r, true) → c = p.chan.toNat → u = inc (trnCtr h 1) r → (chanOf u h c).cached = true →
    v = viewOf m u → w = (takeCore h c (meetCtx h c u)).1 → x = chanOf w h c → p.inc = x.inc → p.src = x.peer →
    x.unrel = false → x.st ≠ .error → d = (p.psn - x.expect).toNat → d < 2048 → executedAt x d = false →
    x.busy.any (fun q => q.psn == p.psn) = false → heldBack x d p = false →
    (if d = 0 ∨ x.window then (w, true) else freeSlots (boleOf h) (objKey 24 h c) 1 w) = (y, true) →
    aliveOk x d p = true → z = chanOf y h c → envBad y h p = false → checkOk z p = true →
    b = (deliverAsd h p (cvuGood h z y)).1 →
    (hport b h).jobs.find? (fun j => j.rndv && j.chan == c && j.sent != 0 && j.msn == enOrig p) = some j →
    bitW (Packet.extW p 3 4) 26 = true →
    t = afterRx h c p v (.over, ackDue h c p (markDone h c d p (finishJob h j 0x2B 0 0 (updChan h c (fun x => { x with
          line := x.line.filter (· ≠ .job j.id) }) b)))) →
    (s.pw.stopped = false → exec (.rndvDone h p m) s = .next (follows t)) ∧
    (quiet s t = true → exec (.rndvDone h p m) s = .next t)) ∧
  (∀ (h : Nat) (p : Packet) (m : HostView) (r u w : State) (c : Nat) (x : Chan) (v : View) (d : Nat) (y : State) (z : Chan) (b : State) (s t : State),
    arrived h 0x22 p s = (r, true) → c = p.chan.toNat → u = inc (trnCtr h 1) r → (chanOf u h c).cached = true →
    v = viewOf m u → w = (takeCore h c (meetCtx h c u)).1 → x = chanOf w h c → p.inc = x.inc → p.src = x.peer →
    x.unrel = false → x.st ≠ .error → d = (p.psn - x.expect).toNat → d < 2048 → executedAt x d = false →
    x.busy.any (fun q => q.psn == p.psn) = false → heldBack x d p = false →
    (if d = 0 ∨ x.window then (w, true) else freeSlots (boleOf h) (objKey 24 h c) 1 w) = (y, true) →
    aliveOk x d p = true → z = chanOf y h c → envBad y h p = false → checkOk z p = true →
    b = (deliverAsd h p (cvuGood h z y)).1 →
    (hport b h).jobs.find? (fun j => j.rndv && j.chan == c && j.sent != 0 && j.msn == enOrig p) = none →
    t = afterRx h c p v (.over, ackDue h c p (markDone h c d p (mtcCause h 6 (inc (mtcCtr h 10) b)))) →
    (s.pw.stopped = false → exec (.rndvDone h p m) s = .next (follows t)) ∧
    (quiet s t = true → exec (.rndvDone h p m) s = .next t)) ∧
  (∀ (h : Nat) (p : Packet) (m : HostView) (r u w : State) (c : Nat) (x : Chan) (v : View) (s t : State),
    arrived h 0x20 p s = (r, true) → c = p.chan.toNat → u = inc (trnCtr h 1) r → (chanOf u h c).cached = true →
    v = viewOf m u → w = (takeCore h c (meetCtx h c u)).1 → x = chanOf w h c → p.inc = x.inc → p.src = x.peer →
    x.unrel = true →
    t = afterRx h c p v (.over, mtcCause h 3 (inc (mtcCtr h 11) w)) →
    (s.pw.stopped = false → exec (.eager h p m) s = .next (follows t)) ∧
    (quiet s t = true → exec (.eager h p m) s = .next t)) ∧
  (∀ (h : Nat) (p : Packet) (m : HostView) (r u w : State) (c : Nat) (x : Chan) (v : View) (s t : State),
    arrived h 0x21 p s = (r, true) → c = p.chan.toNat → u = inc (trnCtr h 1) r → (chanOf u h c).cached = true →
    v = viewOf m u → w = (takeCore h c (meetCtx h c u)).1 → x = chanOf w h c → p.inc = x.inc → p.src = x.peer →
    x.unrel = true →
    t = afterRx h c p v (.over, mtcCause h 3 (inc (mtcCtr h 11) w)) →
    (s.pw.stopped = false → exec (.rndvRts h p m) s = .next (follows t)) ∧
    (quiet s t = true → exec (.rndvRts h p m) s = .next t)) ∧
  (∀ (h : Nat) (p : Packet) (m : HostView) (r u w : State) (c : Nat) (x : Chan) (v : View) (s t : State),
    arrived h 0x22 p s = (r, true) → c = p.chan.toNat → u = inc (trnCtr h 1) r → (chanOf u h c).cached = true →
    v = viewOf m u → w = (takeCore h c (meetCtx h c u)).1 → x = chanOf w h c → p.inc = x.inc → p.src = x.peer →
    x.unrel = true →
    t = afterRx h c p v (.over, mtcCause h 3 (inc (mtcCtr h 11) w)) →
    (s.pw.stopped = false → exec (.rndvDone h p m) s = .next (follows t)) ∧
    (quiet s t = true → exec (.rndvDone h p m) s = .next t)) ∧
  (∀ (h : Nat) (p : Packet) (m : HostView) (r : State) (s t : State),
    arrived h 32 p s = (r, false) →
    t = r →
    (s.pw.stopped = false → exec (.eager h p m) s = .next (follows t)) ∧
    (quiet s t = true → exec (.eager h p m) s = .next t)) ∧
  (∀ (h : Nat) (p : Packet) (m : HostView) (r : State) (c : Nat) (s t : State),
    arrived h 32 p s = (r, true) → c = p.chan.toNat → (chanOf (inc (trnCtr h 1) r) h c).cached = false →
    t = fetchCtx h c (park h c p (inc (trnCtr h 1) r)) →
    (s.pw.stopped = false → exec (.eager h p m) s = .next (follows t)) ∧
    (quiet s t = true → exec (.eager h p m) s = .next t)) ∧
  (∀ (h : Nat) (p : Packet) (m : HostView) (r u w : State) (c : Nat) (x : Chan) (v : View) (s t : State),
    arrived h 32 p s = (r, true) → c = p.chan.toNat → u = inc (trnCtr h 1) r → (chanOf u h c).cached = true →
    v = viewOf m u → w = (takeCore h c (meetCtx h c u)).1 → x = chanOf w h c → p.inc ≠ x.inc →
    t = afterRx h c p v (.over, trnStale h 7 w) →
    (s.pw.stopped = false → exec (.eager h p m) s = .next (follows t)) ∧
    (quiet s t = true → exec (.eager h p m) s = .next t)) ∧
  (∀ (h : Nat) (p : Packet) (m : HostView) (r u w : State) (c : Nat) (x : Chan) (v : View) (s t : State),
    arrived h 32 p s = (r, true) → c = p.chan.toNat → u = inc (trnCtr h 1) r → (chanOf u h c).cached = true →
    v = viewOf m u → w = (takeCore h c (meetCtx h c u)).1 → x = chanOf w h c → p.inc = x.inc → p.src ≠ x.peer →
    t = afterRx h c p v (.over, trnStale h 8 w) →
    (s.pw.stopped = false → exec (.eager h p m) s = .next (follows t)) ∧
    (quiet s t = true → exec (.eager h p m) s = .next t)) ∧
  (∀ (h : Nat) (p : Packet) (m : HostView) (r u w : State) (c : Nat) (x : Chan) (v : View) (s t : State),
    arrived h 32 p s = (r, true) → c = p.chan.toNat → u = inc (trnCtr h 1) r → (chanOf u h c).cached = true →
    v = viewOf m u → w = (takeCore h c (meetCtx h c u)).1 → x = chanOf w h c → p.inc = x.inc → p.src = x.peer →
    x.unrel = false → x.st = .error →
    t = afterRx h c p v (.over, sendAck h c p.psn 0x11 0 w) →
    (s.pw.stopped = false → exec (.eager h p m) s = .next (follows t)) ∧
    (quiet s t = true → exec (.eager h p m) s = .next t)) ∧
  (∀ (h : Nat) (p : Packet) (m : HostView) (r u w : State) (c : Nat) (x : Chan) (v : View) (s t : State),
    arrived h 32 p s = (r, true) → c = p.chan.toNat → u = inc (trnCtr h 1) r → (chanOf u h c).cached = true →
    v = viewOf m u → w = (takeCore h c (meetCtx h c u)).1 → x = chanOf w h c → p.inc = x.inc → p.src = x.peer →
    x.unrel = false → x.st ≠ .error → 2048 ≤ (p.psn - x.expect).toNat → (p.psn - x.expect).toNat < 2 ^ 31 →
    t = afterRx h c p v (.over, trnStale h 9 w) →
    (s.pw.stopped = false → exec (.eager h p m) s = .next (follows t)) ∧
    (quiet s t = true → exec (.eager h p m) s = .next t)) ∧
  (∀ (h : Nat) (p : Packet) (m : HostView) (r u w : State) (c : Nat) (x : Chan) (v : View) (d : Nat) (s t : State),
    arrived h 32 p s = (r, true) → c = p.chan.toNat → u = inc (trnCtr h 1) r → (chanOf u h c).cached = true →
    v = viewOf m u → w = (takeCore h c (meetCtx h c u)).1 → x = chanOf w h c → p.inc = x.inc → p.src = x.peer →
    x.unrel = false → x.st ≠ .error → d = (p.psn - x.expect).toNat → d < 2048 → executedAt x d = false →
    x.busy.any (fun q => q.psn == p.psn) = true →
    t = afterRx h c p v (.over, inc (trnCtr h 6) w) →
    (s.pw.stopped = false → exec (.eager h p m) s = .next (follows t)) ∧
    (quiet s t = true → exec (.eager h p m) s = .next t)) ∧
  (∀ (h : Nat) (p : Packet) (m : HostView) (r u w : State) (c : Nat) (x : Chan) (v : View) (d : Nat) (s t : State),
    arrived h 32 p s = (r, true) → c = p.chan.toNat → u = inc (trnCtr h 1) r → (chanOf u h c).cached = true →
    v = viewOf m u → w = (takeCore h c (meetCtx h c u)).1 → x = chanOf w h c → p.inc = x.inc → p.src = x.peer →
    x.unrel = false → x.st ≠ .error → d = (p.psn - x.expect).toNat → d < 2048 → executedAt x d = false →
    x.busy.any (fun q => q.psn == p.psn) = false → heldBack x d p = true →
    t = park h c p w →
    (s.pw.stopped = false → exec (.eager h p m) s = .next (follows t)) ∧
    (quiet s t = true → exec (.eager h p m) s = .next t)) ∧
  (∀ (h : Nat) (p : Packet) (m : HostView) (r u w : State) (c : Nat) (x : Chan) (v : View) (d : Nat) (y : State) (s t : State),
    arrived h 32 p s = (r, true) → c = p.chan.toNat → u = inc (trnCtr h 1) r → (chanOf u h c).cached = true →
    v = viewOf m u → w = (takeCore h c (meetCtx h c u)).1 → x = chanOf w h c → p.inc = x.inc → p.src = x.peer →
    x.unrel = false → x.st ≠ .error → d = (p.psn - x.expect).toNat → d < 2048 → executedAt x d = false →
    x.busy.any (fun q => q.psn == p.psn) = false → heldBack x d p = false →
    (if d = 0 ∨ x.window then (w, true) else freeSlots (boleOf h) (objKey 24 h c) 1 w) = (y, true) →
    aliveOk x d p = false →
    t = afterRx h c p v (.over, cvuFail h 4 p y) →
    (s.pw.stopped = false → exec (.eager h p m) s = .next (follows t)) ∧
    (quiet s t = true → exec (.eager h p m) s = .next t)) ∧
  (∀ (h : Nat) (p : Packet) (m : HostView) (r u w : State) (c : Nat) (x : Chan) (v : View) (s t : State),
    arrived h 32 p s = (r, true) → c = p.chan.toNat → u = inc (trnCtr h 1) r → (chanOf u h c).cached = true →
    v = viewOf m u → w = (takeCore h c (meetCtx h c u)).1 → x = chanOf w h c → p.inc = x.inc → p.src = x.peer →
    x.unrel = false → x.st ≠ .error →
    2 ^ 31 ≤ (p.psn - x.expect).toNat ∨ ((p.psn - x.expect).toNat < 2048 ∧ executedAt x (p.psn - x.expect).toNat = true) →
    x.refused.all (fun e => e.1 != p.psn) = true →
    t = afterRx h c p v (.over, sendAck h c p.psn 0 0 (inc (trnCtr h 6) w)) →
    (s.pw.stopped = false → exec (.eager h p m) s = .next (follows t)) ∧
    (quiet s t = true → exec (.eager h p m) s = .next t)) ∧
  (∀ (h : Nat) (p : Packet) (m : HostView) (r : State) (s t : State),
    arrived h 33 p s = (r, false) →
    t = r →
    (s.pw.stopped = false → exec (.rndvRts h p m) s = .next (follows t)) ∧
    (quiet s t = true → exec (.rndvRts h p m) s = .next t)) ∧
  (∀ (h : Nat) (p : Packet) (m : HostView) (r : State) (c : Nat) (s t : State),
    arrived h 33 p s = (r, true) → c = p.chan.toNat → (chanOf (inc (trnCtr h 1) r) h c).cached = false →
    t = fetchCtx h c (park h c p (inc (trnCtr h 1) r)) →
    (s.pw.stopped = false → exec (.rndvRts h p m) s = .next (follows t)) ∧
    (quiet s t = true → exec (.rndvRts h p m) s = .next t)) ∧
  (∀ (h : Nat) (p : Packet) (m : HostView) (r u w : State) (c : Nat) (x : Chan) (v : View) (s t : State),
    arrived h 33 p s = (r, true) → c = p.chan.toNat → u = inc (trnCtr h 1) r → (chanOf u h c).cached = true →
    v = viewOf m u → w = (takeCore h c (meetCtx h c u)).1 → x = chanOf w h c → p.inc ≠ x.inc →
    t = afterRx h c p v (.over, trnStale h 7 w) →
    (s.pw.stopped = false → exec (.rndvRts h p m) s = .next (follows t)) ∧
    (quiet s t = true → exec (.rndvRts h p m) s = .next t)) ∧
  (∀ (h : Nat) (p : Packet) (m : HostView) (r u w : State) (c : Nat) (x : Chan) (v : View) (s t : State),
    arrived h 33 p s = (r, true) → c = p.chan.toNat → u = inc (trnCtr h 1) r → (chanOf u h c).cached = true →
    v = viewOf m u → w = (takeCore h c (meetCtx h c u)).1 → x = chanOf w h c → p.inc = x.inc → p.src ≠ x.peer →
    t = afterRx h c p v (.over, trnStale h 8 w) →
    (s.pw.stopped = false → exec (.rndvRts h p m) s = .next (follows t)) ∧
    (quiet s t = true → exec (.rndvRts h p m) s = .next t)) ∧
  (∀ (h : Nat) (p : Packet) (m : HostView) (r u w : State) (c : Nat) (x : Chan) (v : View) (s t : State),
    arrived h 33 p s = (r, true) → c = p.chan.toNat → u = inc (trnCtr h 1) r → (chanOf u h c).cached = true →
    v = viewOf m u → w = (takeCore h c (meetCtx h c u)).1 → x = chanOf w h c → p.inc = x.inc → p.src = x.peer →
    x.unrel = false → x.st = .error →
    t = afterRx h c p v (.over, sendAck h c p.psn 0x11 0 w) →
    (s.pw.stopped = false → exec (.rndvRts h p m) s = .next (follows t)) ∧
    (quiet s t = true → exec (.rndvRts h p m) s = .next t)) ∧
  (∀ (h : Nat) (p : Packet) (m : HostView) (r u w : State) (c : Nat) (x : Chan) (v : View) (s t : State),
    arrived h 33 p s = (r, true) → c = p.chan.toNat → u = inc (trnCtr h 1) r → (chanOf u h c).cached = true →
    v = viewOf m u → w = (takeCore h c (meetCtx h c u)).1 → x = chanOf w h c → p.inc = x.inc → p.src = x.peer →
    x.unrel = false → x.st ≠ .error → 2048 ≤ (p.psn - x.expect).toNat → (p.psn - x.expect).toNat < 2 ^ 31 →
    t = afterRx h c p v (.over, trnStale h 9 w) →
    (s.pw.stopped = false → exec (.rndvRts h p m) s = .next (follows t)) ∧
    (quiet s t = true → exec (.rndvRts h p m) s = .next t)) ∧
  (∀ (h : Nat) (p : Packet) (m : HostView) (r u w : State) (c : Nat) (x : Chan) (v : View) (d : Nat) (s t : State),
    arrived h 33 p s = (r, true) → c = p.chan.toNat → u = inc (trnCtr h 1) r → (chanOf u h c).cached = true →
    v = viewOf m u → w = (takeCore h c (meetCtx h c u)).1 → x = chanOf w h c → p.inc = x.inc → p.src = x.peer →
    x.unrel = false → x.st ≠ .error → d = (p.psn - x.expect).toNat → d < 2048 → executedAt x d = false →
    x.busy.any (fun q => q.psn == p.psn) = true →
    t = afterRx h c p v (.over, inc (trnCtr h 6) w) →
    (s.pw.stopped = false → exec (.rndvRts h p m) s = .next (follows t)) ∧
    (quiet s t = true → exec (.rndvRts h p m) s = .next t)) ∧
  (∀ (h : Nat) (p : Packet) (m : HostView) (r u w : State) (c : Nat) (x : Chan) (v : View) (d : Nat) (s t : State),
    arrived h 33 p s = (r, true) → c = p.chan.toNat → u = inc (trnCtr h 1) r → (chanOf u h c).cached = true →
    v = viewOf m u → w = (takeCore h c (meetCtx h c u)).1 → x = chanOf w h c → p.inc = x.inc → p.src = x.peer →
    x.unrel = false → x.st ≠ .error → d = (p.psn - x.expect).toNat → d < 2048 → executedAt x d = false →
    x.busy.any (fun q => q.psn == p.psn) = false → heldBack x d p = true →
    t = park h c p w →
    (s.pw.stopped = false → exec (.rndvRts h p m) s = .next (follows t)) ∧
    (quiet s t = true → exec (.rndvRts h p m) s = .next t)) ∧
  (∀ (h : Nat) (p : Packet) (m : HostView) (r u w : State) (c : Nat) (x : Chan) (v : View) (d : Nat) (y : State) (s t : State),
    arrived h 33 p s = (r, true) → c = p.chan.toNat → u = inc (trnCtr h 1) r → (chanOf u h c).cached = true →
    v = viewOf m u → w = (takeCore h c (meetCtx h c u)).1 → x = chanOf w h c → p.inc = x.inc → p.src = x.peer →
    x.unrel = false → x.st ≠ .error → d = (p.psn - x.expect).toNat → d < 2048 → executedAt x d = false →
    x.busy.any (fun q => q.psn == p.psn) = false → heldBack x d p = false →
    (if d = 0 ∨ x.window then (w, true) else freeSlots (boleOf h) (objKey 24 h c) 1 w) = (y, true) →
    aliveOk x d p = false →
    t = afterRx h c p v (.over, cvuFail h 4 p y) →
    (s.pw.stopped = false → exec (.rndvRts h p m) s = .next (follows t)) ∧
    (quiet s t = true → exec (.rndvRts h p m) s = .next t)) ∧
  (∀ (h : Nat) (p : Packet) (m : HostView) (r u w : State) (c : Nat) (x : Chan) (v : View) (s t : State),
    arrived h 33 p s = (r, true) → c = p.chan.toNat → u = inc (trnCtr h 1) r → (chanOf u h c).cached = true →
    v = viewOf m u → w = (takeCore h c (meetCtx h c u)).1 → x = chanOf w h c → p.inc = x.inc → p.src = x.peer →
    x.unrel = false → x.st ≠ .error →
    2 ^ 31 ≤ (p.psn - x.expect).toNat ∨ ((p.psn - x.expect).toNat < 2048 ∧ executedAt x (p.psn - x.expect).toNat = true) →
    x.refused.all (fun e => e.1 != p.psn) = true →
    t = afterRx h c p v (.over, sendAck h c p.psn 0 0 (inc (trnCtr h 6) w)) →
    (s.pw.stopped = false → exec (.rndvRts h p m) s = .next (follows t)) ∧
    (quiet s t = true → exec (.rndvRts h p m) s = .next t)) ∧
  (∀ (h : Nat) (p : Packet) (m : HostView) (r : State) (s t : State),
    arrived h 34 p s = (r, false) →
    t = r →
    (s.pw.stopped = false → exec (.rndvDone h p m) s = .next (follows t)) ∧
    (quiet s t = true → exec (.rndvDone h p m) s = .next t)) ∧
  (∀ (h : Nat) (p : Packet) (m : HostView) (r : State) (c : Nat) (s t : State),
    arrived h 34 p s = (r, true) → c = p.chan.toNat → (chanOf (inc (trnCtr h 1) r) h c).cached = false →
    t = fetchCtx h c (park h c p (inc (trnCtr h 1) r)) →
    (s.pw.stopped = false → exec (.rndvDone h p m) s = .next (follows t)) ∧
    (quiet s t = true → exec (.rndvDone h p m) s = .next t)) ∧
  (∀ (h : Nat) (p : Packet) (m : HostView) (r u w : State) (c : Nat) (x : Chan) (v : View) (s t : State),
    arrived h 34 p s = (r, true) → c = p.chan.toNat → u = inc (trnCtr h 1) r → (chanOf u h c).cached = true →
    v = viewOf m u → w = (takeCore h c (meetCtx h c u)).1 → x = chanOf w h c → p.inc ≠ x.inc →
    t = afterRx h c p v (.over, trnStale h 7 w) →
    (s.pw.stopped = false → exec (.rndvDone h p m) s = .next (follows t)) ∧
    (quiet s t = true → exec (.rndvDone h p m) s = .next t)) ∧
  (∀ (h : Nat) (p : Packet) (m : HostView) (r u w : State) (c : Nat) (x : Chan) (v : View) (s t : State),
    arrived h 34 p s = (r, true) → c = p.chan.toNat → u = inc (trnCtr h 1) r → (chanOf u h c).cached = true →
    v = viewOf m u → w = (takeCore h c (meetCtx h c u)).1 → x = chanOf w h c → p.inc = x.inc → p.src ≠ x.peer →
    t = afterRx h c p v (.over, trnStale h 8 w) →
    (s.pw.stopped = false → exec (.rndvDone h p m) s = .next (follows t)) ∧
    (quiet s t = true → exec (.rndvDone h p m) s = .next t)) ∧
  (∀ (h : Nat) (p : Packet) (m : HostView) (r u w : State) (c : Nat) (x : Chan) (v : View) (s t : State),
    arrived h 34 p s = (r, true) → c = p.chan.toNat → u = inc (trnCtr h 1) r → (chanOf u h c).cached = true →
    v = viewOf m u → w = (takeCore h c (meetCtx h c u)).1 → x = chanOf w h c → p.inc = x.inc → p.src = x.peer →
    x.unrel = false → x.st = .error →
    t = afterRx h c p v (.over, sendAck h c p.psn 0x11 0 w) →
    (s.pw.stopped = false → exec (.rndvDone h p m) s = .next (follows t)) ∧
    (quiet s t = true → exec (.rndvDone h p m) s = .next t)) ∧
  (∀ (h : Nat) (p : Packet) (m : HostView) (r u w : State) (c : Nat) (x : Chan) (v : View) (s t : State),
    arrived h 34 p s = (r, true) → c = p.chan.toNat → u = inc (trnCtr h 1) r → (chanOf u h c).cached = true →
    v = viewOf m u → w = (takeCore h c (meetCtx h c u)).1 → x = chanOf w h c → p.inc = x.inc → p.src = x.peer →
    x.unrel = false → x.st ≠ .error → 2048 ≤ (p.psn - x.expect).toNat → (p.psn - x.expect).toNat < 2 ^ 31 →
    t = afterRx h c p v (.over, trnStale h 9 w) →
    (s.pw.stopped = false → exec (.rndvDone h p m) s = .next (follows t)) ∧
    (quiet s t = true → exec (.rndvDone h p m) s = .next t)) ∧
  (∀ (h : Nat) (p : Packet) (m : HostView) (r u w : State) (c : Nat) (x : Chan) (v : View) (d : Nat) (s t : State),
    arrived h 34 p s = (r, true) → c = p.chan.toNat → u = inc (trnCtr h 1) r → (chanOf u h c).cached = true →
    v = viewOf m u → w = (takeCore h c (meetCtx h c u)).1 → x = chanOf w h c → p.inc = x.inc → p.src = x.peer →
    x.unrel = false → x.st ≠ .error → d = (p.psn - x.expect).toNat → d < 2048 → executedAt x d = false →
    x.busy.any (fun q => q.psn == p.psn) = true →
    t = afterRx h c p v (.over, inc (trnCtr h 6) w) →
    (s.pw.stopped = false → exec (.rndvDone h p m) s = .next (follows t)) ∧
    (quiet s t = true → exec (.rndvDone h p m) s = .next t)) ∧
  (∀ (h : Nat) (p : Packet) (m : HostView) (r u w : State) (c : Nat) (x : Chan) (v : View) (d : Nat) (s t : State),
    arrived h 34 p s = (r, true) → c = p.chan.toNat → u = inc (trnCtr h 1) r → (chanOf u h c).cached = true →
    v = viewOf m u → w = (takeCore h c (meetCtx h c u)).1 → x = chanOf w h c → p.inc = x.inc → p.src = x.peer →
    x.unrel = false → x.st ≠ .error → d = (p.psn - x.expect).toNat → d < 2048 → executedAt x d = false →
    x.busy.any (fun q => q.psn == p.psn) = false → heldBack x d p = true →
    t = park h c p w →
    (s.pw.stopped = false → exec (.rndvDone h p m) s = .next (follows t)) ∧
    (quiet s t = true → exec (.rndvDone h p m) s = .next t)) ∧
  (∀ (h : Nat) (p : Packet) (m : HostView) (r u w : State) (c : Nat) (x : Chan) (v : View) (d : Nat) (y : State) (s t : State),
    arrived h 34 p s = (r, true) → c = p.chan.toNat → u = inc (trnCtr h 1) r → (chanOf u h c).cached = true →
    v = viewOf m u → w = (takeCore h c (meetCtx h c u)).1 → x = chanOf w h c → p.inc = x.inc → p.src = x.peer →
    x.unrel = false → x.st ≠ .error → d = (p.psn - x.expect).toNat → d < 2048 → executedAt x d = false →
    x.busy.any (fun q => q.psn == p.psn) = false → heldBack x d p = false →
    (if d = 0 ∨ x.window then (w, true) else freeSlots (boleOf h) (objKey 24 h c) 1 w) = (y, true) →
    aliveOk x d p = false →
    t = afterRx h c p v (.over, cvuFail h 4 p y) →
    (s.pw.stopped = false → exec (.rndvDone h p m) s = .next (follows t)) ∧
    (quiet s t = true → exec (.rndvDone h p m) s = .next t)) ∧
  (∀ (h : Nat) (p : Packet) (m : HostView) (r u w : State) (c : Nat) (x : Chan) (v : View) (s t : State),
    arrived h 34 p s = (r, true) → c = p.chan.toNat → u = inc (trnCtr h 1) r → (chanOf u h c).cached = true →
    v = viewOf m u → w = (takeCore h c (meetCtx h c u)).1 → x = chanOf w h c → p.inc = x.inc → p.src = x.peer →
    x.unrel = false → x.st ≠ .error →
    2 ^ 31 ≤ (p.psn - x.expect).toNat ∨ ((p.psn - x.expect).toNat < 2048 ∧ executedAt x (p.psn - x.expect).toNat = true) →
    x.refused.all (fun e => e.1 != p.psn) = true →
    t = afterRx h c p v (.over, sendAck h c p.psn 0 0 (inc (trnCtr h 6) w)) →
    (s.pw.stopped = false → exec (.rndvDone h p m) s = .next (follows t)) ∧
    (quiet s t = true → exec (.rndvDone h p m) s = .next t))

/-- The counter commands change exactly their counter, modulo 2^48, and apply the firing rule. From the row of an issued
job that has not begun: CTR_CREATE of an absent counter makes it ACTIVE with the value, and of another is MALFORMED with
DETAIL 9; CTR_DESTROY of an ACTIVE counter without triggers makes it ABSENT, and of a LOST one too, whose abandoned
triggers are forgotten; of an absent counter it is MALFORMED with DETAIL 10, of another function's with DETAIL 2, of one
with triggers with DETAIL 9; CTR_SET and CTR_ADD of a counter that passes R301 set it and add to it, the firing rule is
applied, and they end OK; CTR_READ writes the value as 8 bytes, and a write that fails or waits decides it; a counter that
fails R301 ends them with the status it gives. COUNT begins its operation, a NOP among them, when its DONE_CTR passes, and
ends with the status of R301 when it does not. Each meets the counter record's error mark first: an uncorrectable one makes
the counter LOST. A row at a host port that does not serve, or that names no issued job which has not begun, changes
nothing. -/
def Obligations.CounterJobs : Prop :=
  (∀ (h q : Nat) (i : Word) (j : Job) (c : Nat) (s t : State),
    hostUp s h = true → freshJob s h q i 48 = some j → c = fAt (Job.op j) 11 0 16 →
    (evc (updJob h j.id (fun k => { k with begun := true }) s) h c).st = 0 →
    t = finishJob h ({ j with begun := true }) 0 0 0 (setEvc h c
        { st := 1, fn := fAt (Job.op j) 12 0 8, value := BitVec.ofNat 48 (u64 (Job.op j) 13) } (updJob h j.id (fun k => {
        k with begun := true }) s)) →
    (s.pw.stopped = false → exec (.ctrCreate h q i) s = .next (follows t)) ∧
    (quiet s t = true → exec (.ctrCreate h q i) s = .next t)) ∧
  (∀ (h q : Nat) (i : Word) (j : Job) (c : Nat) (s t : State),
    hostUp s h = true → freshJob s h q i 48 = some j → c = fAt (Job.op j) 11 0 16 →
    (evc (updJob h j.id (fun k => { k with begun := true }) s) h c).st ≠ 0 →
    t = malformed h ({ j with begun := true }) 9 (updJob h j.id (fun k => { k with begun := true }) s) →
    (s.pw.stopped = false → exec (.ctrCreate h q i) s = .next (follows t)) ∧
    (quiet s t = true → exec (.ctrCreate h q i) s = .next t)) ∧
  (∀ (h q : Nat) (i : Word) (j : Job) (c : Nat) (g : State) (s t : State),
    hostUp s h = true → freshJob s h q i 49 = some j → c = fAt (Job.op j) 11 0 16 →
    g = meetCtr h c (updJob h j.id (fun k => { k with begun := true }) s) → (evc g h c).st = 1 → (evc g h c).head = none →
    mayActFor (wqOf g h j.q) (evc g h c).fn = true →
    t = finishJob h ({ j with begun := true }) 0 0 0 (setEvc h c {} g) →
    (s.pw.stopped = false → exec (.ctrDestroy h q i) s = .next (follows t)) ∧
    (quiet s t = true → exec (.ctrDestroy h q i) s = .next t)) ∧
  (∀ (h q : Nat) (i : Word) (j : Job) (c : Nat) (g : State) (s t : State),
    hostUp s h = true → freshJob s h q i 49 = some j → c = fAt (Job.op j) 11 0 16 →
    g = meetCtr h c (updJob h j.id (fun k => { k with begun := true }) s) → (evc g h c).st = 2 →
    mayActFor (wqOf g h j.q) (evc g h c).fn = true →
    t = finishJob h ({ j with begun := true }) 0 0 0 (setEvc h c {} { g with
          hs.slots := g.hs.slots.filter (fun e => !(e.2.st == 1 && e.1 / 2 ^ 28 == h && fAt e.2.hdr 0 2 1 == 0 && fAt
            e.2.hdr 2 0 16 == c)) }) →
    (s.pw.stopped = false → exec (.ctrDestroy h q i) s = .next (follows t)) ∧
    (quiet s t = true → exec (.ctrDestroy h q i) s = .next t)) ∧
  (∀ (h q : Nat) (i : Word) (j : Job) (c : Nat) (g : State) (s t : State),
    hostUp s h = true → freshJob s h q i 49 = some j → c = fAt (Job.op j) 11 0 16 →
    g = meetCtr h c (updJob h j.id (fun k => { k with begun := true }) s) → (evc g h c).st = 0 →
    t = malformed h ({ j with begun := true }) 10 g →
    (s.pw.stopped = false → exec (.ctrDestroy h q i) s = .next (follows t)) ∧
    (quiet s t = true → exec (.ctrDestroy h q i) s = .next t)) ∧
  (∀ (h q : Nat) (i : Word) (j : Job) (c : Nat) (g : State) (s t : State),
    hostUp s h = true → freshJob s h q i 49 = some j → c = fAt (Job.op j) 11 0 16 →
    g = meetCtr h c (updJob h j.id (fun k => { k with begun := true }) s) → (evc g h c).st ≠ 0 →
    mayActFor (wqOf g h j.q) (evc g h c).fn = false →
    t = malformed h ({ j with begun := true }) 2 g →
    (s.pw.stopped = false → exec (.ctrDestroy h q i) s = .next (follows t)) ∧
    (quiet s t = true → exec (.ctrDestroy h q i) s = .next t)) ∧
  (∀ (h q : Nat) (i : Word) (j : Job) (c : Nat) (g : State) (s t : State),
    hostUp s h = true → freshJob s h q i 49 = some j → c = fAt (Job.op j) 11 0 16 →
    g = meetCtr h c (updJob h j.id (fun k => { k with begun := true }) s) → (evc g h c).st = 1 → (evc g h c).head ≠ none →
    mayActFor (wqOf g h j.q) (evc g h c).fn = true →
    t = malformed h ({ j with begun := true }) 9 g →
    (s.pw.stopped = false → exec (.ctrDestroy h q i) s = .next (follows t)) ∧
    (quiet s t = true → exec (.ctrDestroy h q i) s = .next t)) ∧
  (∀ (h q : Nat) (i : Word) (j : Job) (c : Nat) (g : State) (s t : State),
    hostUp s h = true → freshJob s h q i 50 = some j → c = fAt (Job.op j) 11 0 16 →
    g = meetCtr h c (updJob h j.id (fun k => { k with begun := true }) s) → ctrStatus g h (wqOf g h j.q) c = none →
    t = finishJob h ({ j with begun := true }) 0 0 0 (fire h c (inc (ectCtr h 0) (setEvc h c { evc g h c with
          value := BitVec.ofNat 48 (u64 (Job.op j) 13),
          ecc := .good } g))) →
    (s.pw.stopped = false → exec (.ctrSet h q i) s = .next (follows t)) ∧
    (quiet s t = true → exec (.ctrSet h q i) s = .next t)) ∧
  (∀ (h q : Nat) (i : Word) (j : Job) (c : Nat) (g : State) (s t : State),
    hostUp s h = true → freshJob s h q i 51 = some j → c = fAt (Job.op j) 11 0 16 →
    g = meetCtr h c (updJob h j.id (fun k => { k with begun := true }) s) → ctrStatus g h (wqOf g h j.q) c = none →
    t = finishJob h ({ j with begun := true }) 0 0 0 (fire h c (inc (ectCtr h 0) (setEvc h c { evc g h c with
          value := (evc g h c).value + BitVec.ofNat 48 (u64 (Job.op j) 13),
          ecc := .good } g))) →
    (s.pw.stopped = false → exec (.ctrAdd h q i) s = .next (follows t)) ∧
    (quiet s t = true → exec (.ctrAdd h q i) s = .next t)) ∧
  (∀ (h q : Nat) (i : Word) (j : Job) (c : Nat) (g : State) (k : Nat) (s t : State),
    hostUp s h = true → freshJob s h q i 50 = some j → c = fAt (Job.op j) 11 0 16 →
    g = meetCtr h c (updJob h j.id (fun k => { k with begun := true }) s) → ctrStatus g h (wqOf g h j.q) c = some k →
    t = finishJob h ({ j with begun := true }) k 0 0 g →
    (s.pw.stopped = false → exec (.ctrSet h q i) s = .next (follows t)) ∧
    (quiet s t = true → exec (.ctrSet h q i) s = .next t)) ∧
  (∀ (h q : Nat) (i : Word) (j : Job) (c : Nat) (g : State) (k : Nat) (s t : State),
    hostUp s h = true → freshJob s h q i 51 = some j → c = fAt (Job.op j) 11 0 16 →
    g = meetCtr h c (updJob h j.id (fun k => { k with begun := true }) s) → ctrStatus g h (wqOf g h j.q) c = some k →
    t = finishJob h ({ j with begun := true }) k 0 0 g →
    (s.pw.stopped = false → exec (.ctrAdd h q i) s = .next (follows t)) ∧
    (quiet s t = true → exec (.ctrAdd h q i) s = .next t)) ∧
  (∀ (h q : Nat) (i : Word) (m : HostView) (j : Job) (c : Nat) (g : State) (k : Nat) (s t : State),
    hostUp s h = true → freshJob s h q i 56 = some j → c = fAt (Job.op j) 11 0 16 →
    g = meetCtr h c (updJob h j.id (fun k => { k with begun := true }) s) → ctrStatus g h (wqOf g h j.q) c = some k →
    t = finishJob h ({ j with begun := true }) k 0 0 g →
    (s.pw.stopped = false → exec (.ctrRead h q i m) s = .next (follows t)) ∧
    (quiet s t = true → exec (.ctrRead h q i m) s = .next t)) ∧
  (∀ (h q : Nat) (i : Word) (m : HostView) (j : Job) (c : Nat) (g : State) (u : State) (s t : State),
    hostUp s h = true → freshJob s h q i 56 = some j → c = fAt (Job.op j) 11 0 16 →
    g = meetCtr h c (updJob h j.id (fun k => { k with begun := true }) s) → ctrStatus g h (wqOf g h j.q) c = none →
    writeLocal h ({ j with begun := true }) 0 (leBytes 8 (evc g h c).value.toNat) (viewOf m s) g = (.ok (), u) →
    t = finishJob h ({ j with begun := true }) 0 8 0 u →
    (s.pw.stopped = false → exec (.ctrRead h q i m) s = .next (follows t)) ∧
    (quiet s t = true → exec (.ctrRead h q i m) s = .next t)) ∧
  (∀ (h q : Nat) (i : Word) (m : HostView) (j : Job) (c : Nat) (g : State) (u : State) (a : Acc Unit) (s t : State),
    hostUp s h = true → freshJob s h q i 56 = some j → c = fAt (Job.op j) 11 0 16 →
    g = meetCtr h c (updJob h j.id (fun k => { k with begun := true }) s) → ctrStatus g h (wqOf g h j.q) c = none →
    writeLocal h ({ j with begun := true }) 0 (leBytes 8 (evc g h c).value.toNat) (viewOf m s) g = (a, u) → a ≠ .ok () →
    t = failAcc h ({ j with begun := true }) 0 a u →
    (s.pw.stopped = false → exec (.ctrRead h q i m) s = .next (follows t)) ∧
    (quiet s t = true → exec (.ctrRead h q i m) s = .next t)) ∧
  (∀ (h q : Nat) (i : Word) (m : HostView) (j : Job) (c : Nat × Nat) (g : State) (s t : State),
    hostUp s h = true → (hport s h).jobs.find? (fun x => x.q == q && x.idx == i && !x.begun && Job.counted x) = some j →
    j.count = some c → g = meetCtr h c.1 s → ctrStatus g h (wqOf g h q) c.1 = none →
    t = beginJob h j m g →
    (s.pw.stopped = false → exec (.count h q i m) s = .next (follows t)) ∧
    (quiet s t = true → exec (.count h q i m) s = .next t)) ∧
  (∀ (h q : Nat) (i : Word) (m : HostView) (j : Job) (c : Nat × Nat) (g : State) (s t : State),
    hostUp s h = true → (hport s h).jobs.find? (fun x => x.q == q && x.idx == i && !x.begun && Job.counted x) = some j →
    j.count = some c → g = meetCtr h c.1 s → ctrStatus g h (wqOf g h q) c.1 = none → Job.opcode j = 1 →
    t = finishJob h ({ j with begun := true }) 0 0 0 (updJob h j.id (fun k => { k with begun := true }) g) →
    (s.pw.stopped = false → exec (.count h q i m) s = .next (follows t)) ∧
    (quiet s t = true → exec (.count h q i m) s = .next t)) ∧
  (∀ (h q : Nat) (i : Word) (m : HostView) (j : Job) (c : Nat × Nat) (g : State) (k : Nat) (s t : State),
    hostUp s h = true → (hport s h).jobs.find? (fun x => x.q == q && x.idx == i && !x.begun && Job.counted x) = some j →
    j.count = some c → g = meetCtr h c.1 s → ctrStatus g h (wqOf g h q) c.1 = some k →
    t = finishJob h j k 0 0 g →
    (s.pw.stopped = false → exec (.count h q i m) s = .next (follows t)) ∧
    (quiet s t = true → exec (.count h q i m) s = .next t)) ∧
  (∀ (h q : Nat) (i : Word) (m : HostView) (s t : State),
    hostUp s h = false ∨ (hport s h).jobs.find? (fun x => x.q == q && x.idx == i && !x.begun && Job.counted x) = none →
    t = s →
    (s.pw.stopped = false → exec (.count h q i m) s = .next (follows t)) ∧
    (quiet s t = true → exec (.count h q i m) s = .next t)) ∧
  (∀ (h q : Nat) (i : Word) (s t : State),
    hostUp s h = false ∨ freshJob s h q i 48 = none →
    t = s →
    (s.pw.stopped = false → exec (.ctrCreate h q i) s = .next (follows t)) ∧
    (quiet s t = true → exec (.ctrCreate h q i) s = .next t)) ∧
  (∀ (h q : Nat) (i : Word) (s t : State),
    hostUp s h = false ∨ freshJob s h q i 49 = none →
    t = s →
    (s.pw.stopped = false → exec (.ctrDestroy h q i) s = .next (follows t)) ∧
    (quiet s t = true → exec (.ctrDestroy h q i) s = .next t)) ∧
  (∀ (h q : Nat) (i : Word) (s t : State),
    hostUp s h = false ∨ freshJob s h q i 50 = none →
    t = s →
    (s.pw.stopped = false → exec (.ctrSet h q i) s = .next (follows t)) ∧
    (quiet s t = true → exec (.ctrSet h q i) s = .next t)) ∧
  (∀ (h q : Nat) (i : Word) (s t : State),
    hostUp s h = false ∨ freshJob s h q i 51 = none →
    t = s →
    (s.pw.stopped = false → exec (.ctrAdd h q i) s = .next (follows t)) ∧
    (quiet s t = true → exec (.ctrAdd h q i) s = .next t)) ∧
  (∀ (h q : Nat) (i : Word) (m : HostView) (s t : State),
    hostUp s h = false ∨ freshJob s h q i 56 = none →
    t = s →
    (s.pw.stopped = false → exec (.ctrRead h q i m) s = .next (follows t)) ∧
    (quiet s t = true → exec (.ctrRead h q i m) s = .next t))

/-- A trigger is armed in its slot and its counter's list, fires by its counter or its message, and is cancelled. TRIG_ARM
whose pool is not enabled or lacks its slot ends NO_SLOT, one whose counters fail R301 with its status; else it reads the
header, waiting while another operation has the slot: not FREE ends it SLOT_BUSY; a COUNTER threshold before the tail's
TRIG_ORDER; else entries and header are written and it ends OK, in COUNTER mode linked as the new tail with the firing rule
applied. TRIG_CANCEL of a counter that fails R301 ends with that status, else all its list's triggers end CANCELLED and it
waits for their completions; of a slot outside the pool (log 62), or FREE, NO_TARGET; FIRING ALREADY_COMPLETE; ARMED in
COUNTER mode MALFORMED; ARMED in MESSAGE mode OK with the trigger's own completion CANCELLED. REMOTE_ENABLE joins its
channel's line, or ends CHANNEL_ERROR where the channel refuses it. A slot image waits for those before it; used, it makes
its slot FIRING and queues its job on the arming queue, or, that ABSENT, zeroes the slot and counts TRIG_ORPHANED (R309),
and for a TRIG_CANCEL ends its operation CANCELLED; a failed read leaves STATE ARMED and its counter LOST (R314). A
TRIG_ENABLE fires its slot's trigger and has executed once the fired job is issued (logs 99, 138); RECEIVER_NOT_READY
answers it while no MESSAGE trigger is armed or the slot cannot be read, a refusal a wrong channel or key, BAD_REQUEST a
wrong slot or nonzero zero fields. Its INCARNATION differs from the context's, its source is not the peer, or its PSN lies
2,048 and more beyond the expected one: it is dropped and counted in its counter; the channel is in ERROR: the answer is
CHANNEL_ERROR; it is in execution already: it is counted a duplicate; the order holds it back: it is parked; the alive test
fails: the failure is recorded. A packet that is not accepted changes no more than those tests do, and one whose context is
not cached is parked and the record fetched. A row at a host port that does not serve, or that names no issued job which
has not begun, changes nothing. -/
def Obligations.Triggers : Prop :=
  (∀ (h q : Nat) (i : Word) (m : HostView) (j : Job) (g : State) (fn k : Nat) (s t : State),
    hostUp s h = true → freshJob s h q i 53 = some j →
    g = (if bAt (Job.op j) 14 20 then meetCtr h (fAt (Job.op j) 11 16 16) (if Job.subop j = 1 then meetCtr h (fAt (Job.op
        j) 11 0 16) (updJob h j.id (fun k => { k with begun := true }) s) else (updJob h j.id (fun k => { k with
          begun := true }) s)) else (if Job.subop j = 1 then meetCtr h (fAt (Job.op j) 11 0 16) (updJob h j.id (fun k => {
        k with begun := true }) s) else (updJob h j.id (fun k => { k with begun := true }) s))) →
    fn = (wqOf g h j.q).fn → k = fAt (Job.op j) 14 0 20 → poolOn g h fn = false ∨ poolSlots g h fn ≤ k →
    t = finishJob h ({ j with begun := true }) 0x3B 0 0 g →
    (s.pw.stopped = false → exec (.trigArm h q i m) s = .next (follows t)) ∧
    (quiet s t = true → exec (.trigArm h q i m) s = .next t)) ∧
  (∀ (h q : Nat) (i : Word) (m : HostView) (j : Job) (g : State) (fn k : Nat) (x : Nat) (s t : State),
    hostUp s h = true → freshJob s h q i 53 = some j →
    g = (if bAt (Job.op j) 14 20 then meetCtr h (fAt (Job.op j) 11 16 16) (if Job.subop j = 1 then meetCtr h (fAt (Job.op
        j) 11 0 16) (updJob h j.id (fun k => { k with begun := true }) s) else (updJob h j.id (fun k => { k with
          begun := true }) s)) else (if Job.subop j = 1 then meetCtr h (fAt (Job.op j) 11 0 16) (updJob h j.id (fun k => {
        k with begun := true }) s) else (updJob h j.id (fun k => { k with begun := true }) s))) →
    fn = (wqOf g h j.q).fn → k = fAt (Job.op j) 14 0 20 → poolOn g h fn = true → k < poolSlots g h fn → Job.subop j = 1 →
    ctrStatus g h (wqOf g h j.q) (fAt (Job.op j) 11 0 16) = some x →
    t = finishJob h ({ j with begun := true }) x 0 0 g →
    (s.pw.stopped = false → exec (.trigArm h q i m) s = .next (follows t)) ∧
    (quiet s t = true → exec (.trigArm h q i m) s = .next t)) ∧
  (∀ (h q : Nat) (i : Word) (m : HostView) (j : Job) (g : State) (fn k : Nat) (x : Nat) (s t : State),
    hostUp s h = true → freshJob s h q i 53 = some j →
    g = (if bAt (Job.op j) 14 20 then meetCtr h (fAt (Job.op j) 11 16 16) (if Job.subop j = 1 then meetCtr h (fAt (Job.op
        j) 11 0 16) (updJob h j.id (fun k => { k with begun := true }) s) else (updJob h j.id (fun k => { k with
          begun := true }) s)) else (if Job.subop j = 1 then meetCtr h (fAt (Job.op j) 11 0 16) (updJob h j.id (fun k => {
        k with begun := true }) s) else (updJob h j.id (fun k => { k with begun := true }) s))) →
    fn = (wqOf g h j.q).fn → k = fAt (Job.op j) 14 0 20 → poolOn g h fn = true → k < poolSlots g h fn →
    (Job.subop j = 1 → ctrStatus g h (wqOf g h j.q) (fAt (Job.op j) 11 0 16) = none) → bAt (Job.op j) 14 20 = true →
    ctrStatus g h (wqOf g h j.q) (fAt (Job.op j) 11 16 16) = some x →
    t = finishJob h ({ j with begun := true }) x 0 0 g →
    (s.pw.stopped = false → exec (.trigArm h q i m) s = .next (follows t)) ∧
    (quiet s t = true → exec (.trigArm h q i m) s = .next t)) ∧
  (∀ (h q : Nat) (i : Word) (m : HostView) (j : Job) (g a : State) (fn k : Nat) (d : List Word) (s t : State),
    hostUp s h = true → freshJob s h q i 53 = some j →
    g = (if bAt (Job.op j) 14 20 then meetCtr h (fAt (Job.op j) 11 16 16) (if Job.subop j = 1 then meetCtr h (fAt (Job.op
        j) 11 0 16) (updJob h j.id (fun k => { k with begun := true }) s) else (updJob h j.id (fun k => { k with
          begun := true }) s)) else (if Job.subop j = 1 then meetCtr h (fAt (Job.op j) 11 0 16) (updJob h j.id (fun k => {
        k with begun := true }) s) else (updJob h j.id (fun k => { k with begun := true }) s))) →
    fn = (wqOf g h j.q).fn → k = fAt (Job.op j) 14 0 20 → poolOn g h fn = true → k < poolSlots g h fn →
    (Job.subop j = 1 → ctrStatus g h (wqOf g h j.q) (fAt (Job.op j) 11 0 16) = none) →
    (bAt (Job.op j) 14 20 = true → ctrStatus g h (wqOf g h j.q) (fAt (Job.op j) 11 16 16) = none) →
    readSlot h fn k 16 (.job j.id) (viewOf m s) g = (.ok d, a) → wAt d 0 ≠ 0 →
    t = finishJob h ({ j with begun := true }) 0x3C 0 0 a →
    (s.pw.stopped = false → exec (.trigArm h q i m) s = .next (follows t)) ∧
    (quiet s t = true → exec (.trigArm h q i m) s = .next t)) ∧
  (∀ (h q : Nat) (i : Word) (m : HostView) (j : Job) (g a : State) (fn k : Nat) (d : List Word) (s t : State),
    hostUp s h = true → freshJob s h q i 53 = some j →
    g = (if bAt (Job.op j) 14 20 then meetCtr h (fAt (Job.op j) 11 16 16) (if Job.subop j = 1 then meetCtr h (fAt (Job.op
        j) 11 0 16) (updJob h j.id (fun k => { k with begun := true }) s) else (updJob h j.id (fun k => { k with
          begun := true }) s)) else (if Job.subop j = 1 then meetCtr h (fAt (Job.op j) 11 0 16) (updJob h j.id (fun k => {
        k with begun := true }) s) else (updJob h j.id (fun k => { k with begun := true }) s))) →
    fn = (wqOf g h j.q).fn → k = fAt (Job.op j) 14 0 20 → poolOn g h fn = true → k < poolSlots g h fn →
    (Job.subop j = 1 → ctrStatus g h (wqOf g h j.q) (fAt (Job.op j) 11 0 16) = none) →
    (bAt (Job.op j) 14 20 = true → ctrStatus g h (wqOf g h j.q) (fAt (Job.op j) 11 16 16) = none) →
    readSlot h fn k 16 (.job j.id) (viewOf m s) g = (.ok d, a) → wAt d 0 = 0 → Job.subop j = 1 →
    (evc a h (fAt (Job.op j) 11 0 16)).tail.any (fun o => decide (2 ^ 47 ≤ (BitVec.ofNat 48 (u64 (Job.op j) 12) -
        o.2).toNat)) = true →
    t = finishJob h ({ j with begun := true }) 0x3A 0 0 a →
    (s.pw.stopped = false → exec (.trigArm h q i m) s = .next (follows t)) ∧
    (quiet s t = true → exec (.trigArm h q i m) s = .next t)) ∧
  (∀ (h q : Nat) (i : Word) (m : HostView) (j : Job) (g a : State) (fn k : Nat) (d : List Word) (b : State) (s t : State),
    hostUp s h = true → freshJob s h q i 53 = some j →
    g = (if bAt (Job.op j) 14 20 then meetCtr h (fAt (Job.op j) 11 16 16) (if Job.subop j = 1 then meetCtr h (fAt (Job.op
        j) 11 0 16) (updJob h j.id (fun k => { k with begun := true }) s) else (updJob h j.id (fun k => { k with
          begun := true }) s)) else (if Job.subop j = 1 then meetCtr h (fAt (Job.op j) 11 0 16) (updJob h j.id (fun k => {
        k with begun := true }) s) else (updJob h j.id (fun k => { k with begun := true }) s))) →
    fn = (wqOf g h j.q).fn → k = fAt (Job.op j) 14 0 20 → poolOn g h fn = true → k < poolSlots g h fn →
    (Job.subop j = 1 → ctrStatus g h (wqOf g h j.q) (fAt (Job.op j) 11 0 16) = none) →
    (bAt (Job.op j) 14 20 = true → ctrStatus g h (wqOf g h j.q) (fAt (Job.op j) 11 16 16) = none) →
    readSlot h fn k 16 (.job j.id) (viewOf m s) g = (.ok d, a) → wAt d 0 = 0 → Job.subop j ≠ 1 →
    b = hostWr h fn (slotAddr a h fn k + 64) ((j.ents.drop 1).flatMap (fun e => wBytes (padW 16 e))) false a →
    t = finishJob h ({ j with begun := true }) 0 0 0 (inc (ectCtr h 2) (setSlot h fn k
        { st := 1, hdr := armHeader (Job.op j) j.q (j.ents.drop 1).length, ents := j.ents.drop 1 } (hostWr h fn (slotAddr
        b h fn k) (wBytes (armHeader (Job.op j) j.q (j.ents.drop 1).length)) false b))) →
    (s.pw.stopped = false → exec (.trigArm h q i m) s = .next (follows t)) ∧
    (quiet s t = true → exec (.trigArm h q i m) s = .next t)) ∧
  (∀ (h q : Nat) (i : Word) (m : HostView) (j : Job) (g a : State) (fn k : Nat) (d : List Word) (b : State) (s t : State),
    hostUp s h = true → freshJob s h q i 53 = some j →
    g = (if bAt (Job.op j) 14 20 then meetCtr h (fAt (Job.op j) 11 16 16) (if Job.subop j = 1 then meetCtr h (fAt (Job.op
        j) 11 0 16) (updJob h j.id (fun k => { k with begun := true }) s) else (updJob h j.id (fun k => { k with
          begun := true }) s)) else (if Job.subop j = 1 then meetCtr h (fAt (Job.op j) 11 0 16) (updJob h j.id (fun k => {
        k with begun := true }) s) else (updJob h j.id (fun k => { k with begun := true }) s))) →
    fn = (wqOf g h j.q).fn → k = fAt (Job.op j) 14 0 20 → poolOn g h fn = true → k < poolSlots g h fn →
    (Job.subop j = 1 → ctrStatus g h (wqOf g h j.q) (fAt (Job.op j) 11 0 16) = none) →
    (bAt (Job.op j) 14 20 = true → ctrStatus g h (wqOf g h j.q) (fAt (Job.op j) 11 16 16) = none) →
    readSlot h fn k 16 (.job j.id) (viewOf m s) g = (.ok d, a) → wAt d 0 = 0 → Job.subop j = 1 →
    (evc a h (fAt (Job.op j) 11 0 16)).tail.all (fun o => decide ( (BitVec.ofNat 48 (u64 (Job.op j) 12) - o.2).toNat < 2 ^
        47)) = true →
    b = hostWr h fn (slotAddr a h fn k + 64) ((j.ents.drop 1).flatMap (fun e => wBytes (padW 16 e))) false a →
    t = fire h (fAt (Job.op j) 11 0 16) (finishJob h ({ j with begun := true }) 0 0 0 (inc (ectCtr h 2) (linkTrig h (fAt
        (Job.op j) 11 0 16) fn k (BitVec.ofNat 48 (u64 (Job.op j) 12)) (setSlot h fn k
        { st := 1, hdr := armHeader (Job.op j) j.q (j.ents.drop 1).length, ents := j.ents.drop 1 } (hostWr h fn (slotAddr
        b h fn k) (wBytes (armHeader (Job.op j) j.q (j.ents.drop 1).length)) false b))))) →
    (s.pw.stopped = false → exec (.trigArm h q i m) s = .next (follows t)) ∧
    (quiet s t = true → exec (.trigArm h q i m) s = .next t)) ∧
  (∀ (h q : Nat) (i : Word) (m : HostView) (j : Job) (g a : State) (fn k : Nat) (r : Acc (List Word)) (s t : State),
    hostUp s h = true → freshJob s h q i 53 = some j →
    g = (if bAt (Job.op j) 14 20 then meetCtr h (fAt (Job.op j) 11 16 16) (if Job.subop j = 1 then meetCtr h (fAt (Job.op
        j) 11 0 16) (updJob h j.id (fun k => { k with begun := true }) s) else (updJob h j.id (fun k => { k with
          begun := true }) s)) else (if Job.subop j = 1 then meetCtr h (fAt (Job.op j) 11 0 16) (updJob h j.id (fun k => {
        k with begun := true }) s) else (updJob h j.id (fun k => { k with begun := true }) s))) →
    fn = (wqOf g h j.q).fn → k = fAt (Job.op j) 14 0 20 → poolOn g h fn = true → k < poolSlots g h fn →
    (Job.subop j = 1 → ctrStatus g h (wqOf g h j.q) (fAt (Job.op j) 11 0 16) = none) →
    (bAt (Job.op j) 14 20 = true → ctrStatus g h (wqOf g h j.q) (fAt (Job.op j) 11 16 16) = none) →
    readSlot h fn k 16 (.job j.id) (viewOf m s) g = (r, a) → (match r with | .ok _ => false | _ => true) = true →
    t = failAcc h ({ j with begun := true }) 0 r a →
    (s.pw.stopped = false → exec (.trigArm h q i m) s = .next (follows t)) ∧
    (quiet s t = true → exec (.trigArm h q i m) s = .next t)) ∧
  (∀ (h q : Nat) (i : Word) (m : HostView) (j : Job) (c x : Nat) (g : State) (s t : State),
    hostUp s h = true → freshJob s h q i 54 = some j → Job.subop j = 1 → c = fAt (Job.op j) 11 0 16 →
    g = meetCtr h c (updJob h j.id (fun k => { k with begun := true }) s) →
    ctrStatus g h (wqOf (updJob h j.id (fun k => { k with begun := true }) s) h j.q) c = some x →
    t = finishJob h ({ j with begun := true }) x 0 0 g →
    (s.pw.stopped = false → exec (.trigCancel h q i m) s = .next (follows t)) ∧
    (quiet s t = true → exec (.trigCancel h q i m) s = .next t)) ∧
  (∀ (h q : Nat) (i : Word) (m : HostView) (j : Job) (c : Nat) (g : State) (s t : State),
    hostUp s h = true → freshJob s h q i 54 = some j → Job.subop j = 1 → c = fAt (Job.op j) 11 0 16 →
    g = meetCtr h c (updJob h j.id (fun k => { k with begun := true }) s) →
    ctrStatus g h (wqOf (updJob h j.id (fun k => { k with begun := true }) s) h j.q) c = none → (evc g h c).head = none →
    t = finishJob h ({ j with begun := true }) 0 0 0 (setEvc h c { evc g h c with head := none, tail := none } g) →
    (s.pw.stopped = false → exec (.trigCancel h q i m) s = .next (follows t)) ∧
    (quiet s t = true → exec (.trigCancel h q i m) s = .next t)) ∧
  (∀ (h q : Nat) (i : Word) (m : HostView) (j : Job) (c : Nat) (g : State) (l : List Nat) (fs : List Firing) (s t : State),
    hostUp s h = true → freshJob s h q i 54 = some j → Job.subop j = 1 → c = fAt (Job.op j) 11 0 16 →
    g = meetCtr h c (updJob h j.id (fun k => { k with begun := true }) s) →
    ctrStatus g h (wqOf (updJob h j.id (fun k => { k with begun := true }) s) h j.q) c = none →
    l = trigList (g.hs.slots.length + 1) g h (evc g h c).head → l ≠ [] →
    fs = (List.range l.length).map (fun i =>
        { fn := l.getD i 0 / 2 ^ 20, slot := l.getD i 0 % 2 ^ 20, ctr := some c, cancel := some ((hport g h).nextJob + i)
            }) →
    t = fs.foldl (fun s _ => askSlots h s) (updJob h j.id (fun x => { x with
          waitFor := (List.range l.length).map ((hport g h).nextJob + ·) }) (updHost h (fun p => { p with
          nextJob := p.nextJob + l.length,
          firing := p.firing ++ fs }) (setEvc h c { evc g h c with head := none, tail := none } g))) →
    (s.pw.stopped = false → exec (.trigCancel h q i m) s = .next (follows t)) ∧
    (quiet s t = true → exec (.trigCancel h q i m) s = .next t)) ∧
  (∀ (h q : Nat) (i : Word) (m : HostView) (j : Job) (fn k : Nat) (s t : State),
    hostUp s h = true → freshJob s h q i 54 = some j → Job.subop j = 2 →
    fn = (wqOf (updJob h j.id (fun k => { k with begun := true }) s) h j.q).fn → k = fAt (Job.op j) 14 0 20 →
    poolOn (updJob h j.id (fun k => { k with begun := true }) s) h fn = false ∨ poolSlots (updJob h j.id (fun k => { k
        with begun := true }) s) h fn ≤ k →
    t = finishJob h ({ j with begun := true }) 4 0 0 (updJob h j.id (fun k => { k with begun := true }) s) →
    (s.pw.stopped = false → exec (.trigCancel h q i m) s = .next (follows t)) ∧
    (quiet s t = true → exec (.trigCancel h q i m) s = .next t)) ∧
  (∀ (h q : Nat) (i : Word) (m : HostView) (j : Job) (a : State) (fn k : Nat) (r : Acc (List Word)) (s t : State),
    hostUp s h = true → freshJob s h q i 54 = some j → Job.subop j = 2 →
    fn = (wqOf (updJob h j.id (fun k => { k with begun := true }) s) h j.q).fn → k = fAt (Job.op j) 14 0 20 →
    poolOn (updJob h j.id (fun k => { k with begun := true }) s) h fn = true →
    k < poolSlots (updJob h j.id (fun k => { k with begun := true }) s) h fn →
    readSlot h fn k 256 (.job j.id) (viewOf m s) (updJob h j.id (fun k => { k with begun := true }) s) = (r, a) →
    (match r with | .ok _ => false | _ => true) = true →
    t = failAcc h ({ j with begun := true }) 0 r a →
    (s.pw.stopped = false → exec (.trigCancel h q i m) s = .next (follows t)) ∧
    (quiet s t = true → exec (.trigCancel h q i m) s = .next t)) ∧
  (∀ (h q : Nat) (i : Word) (m : HostView) (j : Job) (a : State) (fn k : Nat) (d : List Word) (s t : State),
    hostUp s h = true → freshJob s h q i 54 = some j → Job.subop j = 2 →
    fn = (wqOf (updJob h j.id (fun k => { k with begun := true }) s) h j.q).fn → k = fAt (Job.op j) 14 0 20 →
    poolOn (updJob h j.id (fun k => { k with begun := true }) s) h fn = true →
    k < poolSlots (updJob h j.id (fun k => { k with begun := true }) s) h fn →
    readSlot h fn k 256 (.job j.id) (viewOf m s) (updJob h j.id (fun k => { k with begun := true }) s) = (.ok d, a) →
    fAt d 0 0 2 = 0 →
    t = finishJob h ({ j with begun := true }) 4 0 0 a →
    (s.pw.stopped = false → exec (.trigCancel h q i m) s = .next (follows t)) ∧
    (quiet s t = true → exec (.trigCancel h q i m) s = .next t)) ∧
  (∀ (h q : Nat) (i : Word) (m : HostView) (j : Job) (a : State) (fn k : Nat) (d : List Word) (s t : State),
    hostUp s h = true → freshJob s h q i 54 = some j → Job.subop j = 2 →
    fn = (wqOf (updJob h j.id (fun k => { k with begun := true }) s) h j.q).fn → k = fAt (Job.op j) 14 0 20 →
    poolOn (updJob h j.id (fun k => { k with begun := true }) s) h fn = true →
    k < poolSlots (updJob h j.id (fun k => { k with begun := true }) s) h fn →
    readSlot h fn k 256 (.job j.id) (viewOf m s) (updJob h j.id (fun k => { k with begun := true }) s) = (.ok d, a) →
    fAt d 0 0 2 ≠ 0 → fAt d 0 0 2 ≠ 1 →
    t = finishJob h ({ j with begun := true }) 3 0 0 a →
    (s.pw.stopped = false → exec (.trigCancel h q i m) s = .next (follows t)) ∧
    (quiet s t = true → exec (.trigCancel h q i m) s = .next t)) ∧
  (∀ (h q : Nat) (i : Word) (m : HostView) (j : Job) (a : State) (fn k : Nat) (d : List Word) (s t : State),
    hostUp s h = true → freshJob s h q i 54 = some j → Job.subop j = 2 →
    fn = (wqOf (updJob h j.id (fun k => { k with begun := true }) s) h j.q).fn → k = fAt (Job.op j) 14 0 20 →
    poolOn (updJob h j.id (fun k => { k with begun := true }) s) h fn = true →
    k < poolSlots (updJob h j.id (fun k => { k with begun := true }) s) h fn →
    readSlot h fn k 256 (.job j.id) (viewOf m s) (updJob h j.id (fun k => { k with begun := true }) s) = (.ok d, a) →
    fAt d 0 0 2 = 1 → bAt d 0 2 = false →
    t = malformed h ({ j with begun := true }) 7 a →
    (s.pw.stopped = false → exec (.trigCancel h q i m) s = .next (follows t)) ∧
    (quiet s t = true → exec (.trigCancel h q i m) s = .next t)) ∧
  (∀ (h q : Nat) (i : Word) (m : HostView) (j : Job) (a : State) (fn k : Nat) (d : List Word) (s t : State),
    hostUp s h = true → freshJob s h q i 54 = some j → Job.subop j = 2 →
    fn = (wqOf (updJob h j.id (fun k => { k with begun := true }) s) h j.q).fn → k = fAt (Job.op j) 14 0 20 →
    poolOn (updJob h j.id (fun k => { k with begun := true }) s) h fn = true →
    k < poolSlots (updJob h j.id (fun k => { k with begun := true }) s) h fn →
    readSlot h fn k 256 (.job j.id) (viewOf m s) (updJob h j.id (fun k => { k with begun := true }) s) = (.ok d, a) →
    fAt d 0 0 2 = 1 → bAt d 0 2 = true →
    t = finishJob h ({ j with begun := true }) 0 0 0 (cancelSlot h (hport a h).nextJob fn k (fAt d 1 0 20) (firedJob h
        (hport a h).nextJob k none d).ents (updHost h (fun p => { p with nextJob := p.nextJob + 1 }) a)) →
    (s.pw.stopped = false → exec (.trigCancel h q i m) s = .next (follows t)) ∧
    (quiet s t = true → exec (.trigCancel h q i m) s = .next t)) ∧
  (∀ (h q : Nat) (i : Word) (m : HostView) (j : Job) (u : State) (s t : State),
    hostUp s h = true → freshJob s h q i 55 = some j → j.ready = false →
    (if j.chan = 0 then chanRefuses (updJob h j.id (fun k => { k with begun := true }) s) h ({ j with begun := true })
        else none) = none →
    u = joinLine h ({ j with begun := true }) (updJob h j.id (fun k => { k with begun := true }) s) →
    t = runChan h (Job.chanNo j) (viewOf m s) (updJob h j.id (fun k => { k with ready := true, rndv := false }) (stopWait
        h (.job j.id) u)) →
    (s.pw.stopped = false → exec (.remoteEnable h q i m) s = .next (follows t)) ∧
    (quiet s t = true → exec (.remoteEnable h q i m) s = .next t)) ∧
  (∀ (h q : Nat) (i : Word) (m : HostView) (j : Job) (d : Nat) (s t : State),
    hostUp s h = true → freshJob s h q i 55 = some j → j.ready = false → j.chan = 0 →
    chanRefuses (updJob h j.id (fun k => { k with begun := true }) s) h ({ j with begun := true }) = some d →
    t = finishJob h ({ j with begun := true }) 0x22 0 d (updJob h j.id (fun k => { k with begun := true }) s) →
    (s.pw.stopped = false → exec (.remoteEnable h q i m) s = .next (follows t)) ∧
    (quiet s t = true → exec (.remoteEnable h q i m) s = .next t)) ∧
  (∀ (h fn k : Nat) (image : Option (List Word)) (f : Firing) (u : State) (s t : State),
    hostUp s h = true → dmaHeld s h (.slot fn k) = false →
    (hport s h).firing.find? (fun f => f.fn == fn && f.slot == k && f.asked && f.got.isNone) = some f →
    (hport s h).firing.head?.all (fun g => g != f && g.ctr.isSome && g.ctr == f.ctr && g.got == none) = true →
    (hport s h).firing.length = 2 →
    u = updHost h (fun p => { p with
          firing := p.firing.map (fun x => if x = f then { f with got := some image } else x) }) s →
    t = askSlots (2 * boleOf h + 1) (askSlots (2 * boleOf h) u) →
    (s.pw.stopped = false → exec (.trigSlotReadDone h fn k image) s = .next (follows t)) ∧
    (quiet s t = true → exec (.trigSlotReadDone h fn k image) s = .next t)) ∧
  (∀ (h fn k : Nat) (ws : List Word) (f : Firing) (u : State) (s t : State),
    hostUp s h = true → dmaHeld s h (.slot fn k) = false → (hport s h).firing = [f] → f.fn = fn → f.slot = k →
    f.asked = true → f.got = none → f.cancel = none → (wqOf s h (fAt ws 1 0 20)).st ≠ .absent →
    u = updHost h (fun p => { p with firing := [] }) s →
    t = askSlots (2 * boleOf h + 1) (askSlots (2 * boleOf h) (inc (ectCtr h 3) (updHost h (fun p => { p with
          nextJob := p.nextJob + 1,
          firedq := p.firedq ++ [firedJob h (hport s h).nextJob k f.ctr ws] }) (setSlot h fn k { slotOf s h fn k with
          st := 2 } (hostWr h fn (slotAddr s h fn k) (leBytes 4 (pack [(0, 2, 2), (2, 30, fld (wAt ws 0) 2 30)]).toNat)
        false u))))) →
    (s.pw.stopped = false → exec (.trigSlotReadDone h fn k (some ws)) s = .next (follows t)) ∧
    (quiet s t = true → exec (.trigSlotReadDone h fn k (some ws)) s = .next t)) ∧
  (∀ (h fn k : Nat) (ws : List Word) (f : Firing) (u : State) (s t : State),
    hostUp s h = true → dmaHeld s h (.slot fn k) = false → (hport s h).firing = [f] → f.fn = fn → f.slot = k →
    f.asked = true → f.got = none → f.cancel = none → (wqOf s h (fAt ws 1 0 20)).st = .absent →
    u = updHost h (fun p => { p with firing := [] }) s →
    t = askSlots (2 * boleOf h + 1) (askSlots (2 * boleOf h) (ectCause h 1 (inc (ectCtr h 5) (hostWr h fn (slotAddr s h fn
        k) (List.replicate 1024 0) false { u with hs.slots := Maps.erase (slotKey h fn k) u.hs.slots })))) →
    (s.pw.stopped = false → exec (.trigSlotReadDone h fn k (some ws)) s = .next (follows t)) ∧
    (quiet s t = true → exec (.trigSlotReadDone h fn k (some ws)) s = .next t)) ∧
  (∀ (h fn k c : Nat) (f : Firing) (u : State) (s t : State),
    hostUp s h = true → dmaHeld s h (.slot fn k) = false → (hport s h).firing = [f] → f.fn = fn → f.slot = k →
    f.asked = true → f.got = none → f.cancel = none → f.ctr = some c →
    u = updHost h (fun p => { p with firing := [] }) s →
    t = askSlots (2 * boleOf h + 1) (askSlots (2 * boleOf h) (loseCtr h c (setSlot h fn k { slotOf (ectCause h 2 (inc
        (ectCtr h 9) (dmaErr h u))) h fn k with st := 1 } (ectCause h 2 (inc (ectCtr h 9) (dmaErr h u)))))) →
    (s.pw.stopped = false → exec (.trigSlotReadDone h fn k none) s = .next (follows t)) ∧
    (quiet s t = true → exec (.trigSlotReadDone h fn k none) s = .next t)) ∧
  (∀ (h fn k id : Nat) (ws : List Word) (f : Firing) (u : State) (s t : State),
    hostUp s h = true → dmaHeld s h (.slot fn k) = false → (hport s h).firing = [f] → f.fn = fn → f.slot = k →
    f.asked = true → f.got = none → f.cancel = some id → u = updHost h (fun p => { p with firing := [] }) s →
    t = askSlots (2 * boleOf h + 1) (askSlots (2 * boleOf h) (cancelSlot h id fn k (fAt ws 1 0 20) (firedJob h id k none
        ws).ents u)) →
    (s.pw.stopped = false → exec (.trigSlotReadDone h fn k (some ws)) s = .next (follows t)) ∧
    (quiet s t = true → exec (.trigSlotReadDone h fn k (some ws)) s = .next t)) ∧
  (∀ (h fn k : Nat) (image : Option (List Word)) (s t : State),
    hostUp s h = false ∨ dmaHeld s h (.slot fn k) = true ∨ (hport s h).firing.find? (fun f => f.fn == fn && f.slot == k &&
        f.asked && f.got.isNone) = none →
    t = s →
    (s.pw.stopped = false → exec (.trigSlotReadDone h fn k image) s = .next (follows t)) ∧
    (quiet s t = true → exec (.trigSlotReadDone h fn k image) s = .next t)) ∧
  (∀ (h : Nat) (p : Packet) (m : HostView) (r u w : State) (c : Nat) (x : Chan) (v : View) (d : Nat) (y : State) (z : Chan) (s t : State),
    arrived h 0x30 p s = (r, true) → c = p.chan.toNat → u = inc (trnCtr h 1) r → (chanOf u h c).cached = true →
    v = viewOf m u → w = (takeCore h c (meetCtx h c u)).1 → x = chanOf w h c → p.inc = x.inc → p.src = x.peer →
    x.unrel = false → x.st ≠ .error → d = (p.psn - x.expect).toNat → d < 2048 → executedAt x d = false →
    x.busy.any (fun q => q.psn == p.psn) = false → heldBack x d p = false →
    (if d = 0 ∨ x.window then (w, true) else freeSlots (boleOf h) (objKey 24 h c) 1 w) = (y, true) →
    aliveOk x d p = true → z = chanOf y h c → checkOk z p = false →
    t = afterRx h c p v (.over, cvuFail h 3 p y) →
    (s.pw.stopped = false → exec (.trigEnable h p m) s = .next (follows t)) ∧
    (quiet s t = true → exec (.trigEnable h p m) s = .next t)) ∧
  (∀ (h : Nat) (p : Packet) (m : HostView) (r u w : State) (c : Nat) (x : Chan) (v : View) (d : Nat) (y : State) (z : Chan) (s t : State),
    arrived h 0x30 p s = (r, true) → c = p.chan.toNat → u = inc (trnCtr h 1) r → (chanOf u h c).cached = true →
    v = viewOf m u → w = (takeCore h c (meetCtx h c u)).1 → x = chanOf w h c → p.inc = x.inc → p.src = x.peer →
    x.unrel = false → x.st ≠ .error → d = (p.psn - x.expect).toNat → d < 2048 → executedAt x d = false →
    x.busy.any (fun q => q.psn == p.psn) = false → heldBack x d p = false →
    (if d = 0 ∨ x.window then (w, true) else freeSlots (boleOf h) (objKey 24 h c) 1 w) = (y, true) →
    aliveOk x d p = true → z = chanOf y h c → checkOk z p = true →
    poolOn y h z.fn = false ∨ poolSlots y h z.fn ≤ Packet.extF p 0 0 0 20 ∨ Packet.extF p 0 0 20 12 ≠ 0 ∨ Packet.extF p 0
        1 0 16 ≠ 0 ∨ Packet.extF p 0 1 16 13 ≠ 0 →
    t = afterRx h c p v (.over, sendAck h c p.psn 0x12 0 (ectCause h 4 (inc (ectCtr h 10) y))) →
    (s.pw.stopped = false → exec (.trigEnable h p m) s = .next (follows t)) ∧
    (quiet s t = true → exec (.trigEnable h p m) s = .next t)) ∧
  (∀ (h : Nat) (p : Packet) (m : HostView) (r u w : State) (c : Nat) (x : Chan) (v : View) (d : Nat) (y : State) (z : Chan) (k : Nat) (rr : Acc (List Word)) (a : State) (s t : State),
    arrived h 0x30 p s = (r, true) → c = p.chan.toNat → u = inc (trnCtr h 1) r → (chanOf u h c).cached = true →
    v = viewOf m u → w = (takeCore h c (meetCtx h c u)).1 → x = chanOf w h c → p.inc = x.inc → p.src = x.peer →
    x.unrel = false → x.st ≠ .error → d = (p.psn - x.expect).toNat → d < 2048 → executedAt x d = false →
    x.busy.any (fun q => q.psn == p.psn) = false → heldBack x d p = false →
    (if d = 0 ∨ x.window then (w, true) else freeSlots (boleOf h) (objKey 24 h c) 1 w) = (y, true) →
    aliveOk x d p = true → z = chanOf y h c → checkOk z p = true → poolOn y h z.fn = true → k = Packet.extF p 0 0 0 20 →
    k < poolSlots y h z.fn → Packet.extF p 0 0 20 12 = 0 → Packet.extF p 0 1 0 16 = 0 → Packet.extF p 0 1 16 13 = 0 →
    readSlot h z.fn k 256 (.chan c p.psn) v y = (rr, a) →
    (match rr with | .ok _ => false | .wait _ => false | _ => true) = true →
    t = afterRx h c p v (.over, sendAck h c p.psn 1 0 (ectCause h 2 (inc (ectCtr h 9) a))) →
    (s.pw.stopped = false → exec (.trigEnable h p m) s = .next (follows t)) ∧
    (quiet s t = true → exec (.trigEnable h p m) s = .next t)) ∧
  (∀ (h : Nat) (p : Packet) (m : HostView) (r u w : State) (c : Nat) (x : Chan) (v : View) (d : Nat) (y : State) (z : Chan) (k : Nat) (n : Need) (a : State) (s t : State),
    arrived h 0x30 p s = (r, true) → c = p.chan.toNat → u = inc (trnCtr h 1) r → (chanOf u h c).cached = true →
    v = viewOf m u → w = (takeCore h c (meetCtx h c u)).1 → x = chanOf w h c → p.inc = x.inc → p.src = x.peer →
    x.unrel = false → x.st ≠ .error → d = (p.psn - x.expect).toNat → d < 2048 → executedAt x d = false →
    x.busy.any (fun q => q.psn == p.psn) = false → heldBack x d p = false →
    (if d = 0 ∨ x.window then (w, true) else freeSlots (boleOf h) (objKey 24 h c) 1 w) = (y, true) →
    aliveOk x d p = true → z = chanOf y h c → checkOk z p = true → poolOn y h z.fn = true → k = Packet.extF p 0 0 0 20 →
    k < poolSlots y h z.fn → Packet.extF p 0 0 20 12 = 0 → Packet.extF p 0 1 0 16 = 0 → Packet.extF p 0 1 16 13 = 0 →
    readSlot h z.fn k 256 (.chan c p.psn) v y = (.wait n, a) →
    t = rxWait h c p n a →
    (s.pw.stopped = false → exec (.trigEnable h p m) s = .next (follows t)) ∧
    (quiet s t = true → exec (.trigEnable h p m) s = .next t)) ∧
  (∀ (h : Nat) (p : Packet) (m : HostView) (r u w : State) (c : Nat) (x : Chan) (v : View) (d : Nat) (y : State) (z : Chan) (k : Nat) (ws : List Word) (a : State) (s t : State),
    arrived h 0x30 p s = (r, true) → c = p.chan.toNat → u = inc (trnCtr h 1) r → (chanOf u h c).cached = true →
    v = viewOf m u → w = (takeCore h c (meetCtx h c u)).1 → x = chanOf w h c → p.inc = x.inc → p.src = x.peer →
    x.unrel = false → x.st ≠ .error → d = (p.psn - x.expect).toNat → d < 2048 → executedAt x d = false →
    x.busy.any (fun q => q.psn == p.psn) = false → heldBack x d p = false →
    (if d = 0 ∨ x.window then (w, true) else freeSlots (boleOf h) (objKey 24 h c) 1 w) = (y, true) →
    aliveOk x d p = true → z = chanOf y h c → checkOk z p = true → poolOn y h z.fn = true → k = Packet.extF p 0 0 0 20 →
    k < poolSlots y h z.fn → Packet.extF p 0 0 20 12 = 0 → Packet.extF p 0 1 0 16 = 0 → Packet.extF p 0 1 16 13 = 0 →
    readSlot h z.fn k 256 (.chan c p.psn) v y = (.ok ws, a) → fAt ws 0 0 2 = 1 → bAt ws 0 2 = true → fAt ws 8 0 24 = c →
    wAt ws 9 = Packet.extW p 0 2 →
    (hport (inc (ectCtr h 6) (issueFired h z.fn k none ws (cvuGood h z a))) h).firedq.any (fun j => j.id == (hport a
        h).nextJob) = true →
    t = rxWait h c p (.issue (hport a h).nextJob) (inc (ectCtr h 6) (issueFired h z.fn k none ws (cvuGood h z a))) →
    (s.pw.stopped = false → exec (.trigEnable h p m) s = .next (follows t)) ∧
    (quiet s t = true → exec (.trigEnable h p m) s = .next t)) ∧
  (∀ (h : Nat) (p : Packet) (m : HostView) (r u w : State) (c : Nat) (x : Chan) (v : View) (d : Nat) (y : State) (z : Chan) (k : Nat) (ws : List Word) (a : State) (s t : State),
    arrived h 0x30 p s = (r, true) → c = p.chan.toNat → u = inc (trnCtr h 1) r → (chanOf u h c).cached = true →
    v = viewOf m u → w = (takeCore h c (meetCtx h c u)).1 → x = chanOf w h c → p.inc = x.inc → p.src = x.peer →
    x.unrel = false → x.st ≠ .error → d = (p.psn - x.expect).toNat → d < 2048 → executedAt x d = false →
    x.busy.any (fun q => q.psn == p.psn) = false → heldBack x d p = false →
    (if d = 0 ∨ x.window then (w, true) else freeSlots (boleOf h) (objKey 24 h c) 1 w) = (y, true) →
    aliveOk x d p = true → z = chanOf y h c → checkOk z p = true → poolOn y h z.fn = true → k = Packet.extF p 0 0 0 20 →
    k < poolSlots y h z.fn → Packet.extF p 0 0 20 12 = 0 → Packet.extF p 0 1 0 16 = 0 → Packet.extF p 0 1 16 13 = 0 →
    readSlot h z.fn k 256 (.chan c p.psn) v y = (.ok ws, a) → fAt ws 0 0 2 = 1 → bAt ws 0 2 = true → fAt ws 8 0 24 = c →
    wAt ws 9 = Packet.extW p 0 2 →
    (hport (inc (ectCtr h 6) (issueFired h z.fn k none ws (cvuGood h z a))) h).firedq.any (fun j => j.id == (hport a
        h).nextJob) = false →
    t = afterRx h c p v (.over, ackDue h c p (markDone h c d p (inc (ectCtr h 6) (issueFired h z.fn k none ws (cvuGood h z
        a))))) →
    (s.pw.stopped = false → exec (.trigEnable h p m) s = .next (follows t)) ∧
    (quiet s t = true → exec (.trigEnable h p m) s = .next t)) ∧
  (∀ (h : Nat) (p : Packet) (m : HostView) (r u w : State) (c : Nat) (x : Chan) (v : View) (d : Nat) (y : State) (z : Chan) (k : Nat) (ws : List Word) (a : State) (s t : State),
    arrived h 0x30 p s = (r, true) → c = p.chan.toNat → u = inc (trnCtr h 1) r → (chanOf u h c).cached = true →
    v = viewOf m u → w = (takeCore h c (meetCtx h c u)).1 → x = chanOf w h c → p.inc = x.inc → p.src = x.peer →
    x.unrel = false → x.st ≠ .error → d = (p.psn - x.expect).toNat → d < 2048 → executedAt x d = false →
    x.busy.any (fun q => q.psn == p.psn) = false → heldBack x d p = false →
    (if d = 0 ∨ x.window then (w, true) else freeSlots (boleOf h) (objKey 24 h c) 1 w) = (y, true) →
    aliveOk x d p = true → z = chanOf y h c → checkOk z p = true → poolOn y h z.fn = true → k = Packet.extF p 0 0 0 20 →
    k < poolSlots y h z.fn → Packet.extF p 0 0 20 12 = 0 → Packet.extF p 0 1 0 16 = 0 → Packet.extF p 0 1 16 13 = 0 →
    readSlot h z.fn k 256 (.chan c p.psn) v y = (.ok ws, a) → fAt ws 0 0 2 ≠ 1 ∨ bAt ws 0 2 = false →
    t = afterRx h c p v (.over, sendAck h c p.psn 1 0 (inc (ectCtr h 7) a)) →
    (s.pw.stopped = false → exec (.trigEnable h p m) s = .next (follows t)) ∧
    (quiet s t = true → exec (.trigEnable h p m) s = .next t)) ∧
  (∀ (h : Nat) (p : Packet) (m : HostView) (r u w : State) (c : Nat) (x : Chan) (v : View) (d : Nat) (y : State) (z : Chan) (k : Nat) (ws : List Word) (a : State) (s t : State),
    arrived h 0x30 p s = (r, true) → c = p.chan.toNat → u = inc (trnCtr h 1) r → (chanOf u h c).cached = true →
    v = viewOf m u → w = (takeCore h c (meetCtx h c u)).1 → x = chanOf w h c → p.inc = x.inc → p.src = x.peer →
    x.unrel = false → x.st ≠ .error → d = (p.psn - x.expect).toNat → d < 2048 → executedAt x d = false →
    x.busy.any (fun q => q.psn == p.psn) = false → heldBack x d p = false →
    (if d = 0 ∨ x.window then (w, true) else freeSlots (boleOf h) (objKey 24 h c) 1 w) = (y, true) →
    aliveOk x d p = true → z = chanOf y h c → checkOk z p = true → poolOn y h z.fn = true → k = Packet.extF p 0 0 0 20 →
    k < poolSlots y h z.fn → Packet.extF p 0 0 20 12 = 0 → Packet.extF p 0 1 0 16 = 0 → Packet.extF p 0 1 16 13 = 0 →
    readSlot h z.fn k 256 (.chan c p.psn) v y = (.ok ws, a) → fAt ws 0 0 2 = 1 → bAt ws 0 2 = true →
    fAt ws 8 0 24 ≠ c ∨ wAt ws 9 ≠ Packet.extW p 0 2 →
    t = afterRx h c p v (.over, markRefused h c d p 2 (sendAck h c p.psn 0x10 2 (ectCause h 4 (inc (ectCtr h 10) a)))) →
    (s.pw.stopped = false → exec (.trigEnable h p m) s = .next (follows t)) ∧
    (quiet s t = true → exec (.trigEnable h p m) s = .next t)) ∧
  (∀ (h : Nat) (p : Packet) (m : HostView) (r u w : State) (c : Nat) (x : Chan) (v : View) (s t : State),
    arrived h 0x30 p s = (r, true) → c = p.chan.toNat → u = inc (trnCtr h 1) r → (chanOf u h c).cached = true →
    v = viewOf m u → w = (takeCore h c (meetCtx h c u)).1 → x = chanOf w h c → p.inc = x.inc → p.src = x.peer →
    x.unrel = true →
    t = afterRx h c p v (.over, ectCause h 4 (inc (ectCtr h 10) w)) →
    (s.pw.stopped = false → exec (.trigEnable h p m) s = .next (follows t)) ∧
    (quiet s t = true → exec (.trigEnable h p m) s = .next t)) ∧
  (∀ (h : Nat) (p : Packet) (m : HostView) (r : State) (s t : State),
    arrived h 48 p s = (r, false) →
    t = r →
    (s.pw.stopped = false → exec (.trigEnable h p m) s = .next (follows t)) ∧
    (quiet s t = true → exec (.trigEnable h p m) s = .next t)) ∧
  (∀ (h : Nat) (p : Packet) (m : HostView) (r : State) (c : Nat) (s t : State),
    arrived h 48 p s = (r, true) → c = p.chan.toNat → (chanOf (inc (trnCtr h 1) r) h c).cached = false →
    t = fetchCtx h c (park h c p (inc (trnCtr h 1) r)) →
    (s.pw.stopped = false → exec (.trigEnable h p m) s = .next (follows t)) ∧
    (quiet s t = true → exec (.trigEnable h p m) s = .next t)) ∧
  (∀ (h : Nat) (p : Packet) (m : HostView) (r u w : State) (c : Nat) (x : Chan) (v : View) (s t : State),
    arrived h 48 p s = (r, true) → c = p.chan.toNat → u = inc (trnCtr h 1) r → (chanOf u h c).cached = true →
    v = viewOf m u → w = (takeCore h c (meetCtx h c u)).1 → x = chanOf w h c → p.inc ≠ x.inc →
    t = afterRx h c p v (.over, trnStale h 7 w) →
    (s.pw.stopped = false → exec (.trigEnable h p m) s = .next (follows t)) ∧
    (quiet s t = true → exec (.trigEnable h p m) s = .next t)) ∧
  (∀ (h : Nat) (p : Packet) (m : HostView) (r u w : State) (c : Nat) (x : Chan) (v : View) (s t : State),
    arrived h 48 p s = (r, true) → c = p.chan.toNat → u = inc (trnCtr h 1) r → (chanOf u h c).cached = true →
    v = viewOf m u → w = (takeCore h c (meetCtx h c u)).1 → x = chanOf w h c → p.inc = x.inc → p.src ≠ x.peer →
    t = afterRx h c p v (.over, trnStale h 8 w) →
    (s.pw.stopped = false → exec (.trigEnable h p m) s = .next (follows t)) ∧
    (quiet s t = true → exec (.trigEnable h p m) s = .next t)) ∧
  (∀ (h : Nat) (p : Packet) (m : HostView) (r u w : State) (c : Nat) (x : Chan) (v : View) (s t : State),
    arrived h 48 p s = (r, true) → c = p.chan.toNat → u = inc (trnCtr h 1) r → (chanOf u h c).cached = true →
    v = viewOf m u → w = (takeCore h c (meetCtx h c u)).1 → x = chanOf w h c → p.inc = x.inc → p.src = x.peer →
    x.unrel = false → x.st = .error →
    t = afterRx h c p v (.over, sendAck h c p.psn 0x11 0 w) →
    (s.pw.stopped = false → exec (.trigEnable h p m) s = .next (follows t)) ∧
    (quiet s t = true → exec (.trigEnable h p m) s = .next t)) ∧
  (∀ (h : Nat) (p : Packet) (m : HostView) (r u w : State) (c : Nat) (x : Chan) (v : View) (s t : State),
    arrived h 48 p s = (r, true) → c = p.chan.toNat → u = inc (trnCtr h 1) r → (chanOf u h c).cached = true →
    v = viewOf m u → w = (takeCore h c (meetCtx h c u)).1 → x = chanOf w h c → p.inc = x.inc → p.src = x.peer →
    x.unrel = false → x.st ≠ .error → 2048 ≤ (p.psn - x.expect).toNat → (p.psn - x.expect).toNat < 2 ^ 31 →
    t = afterRx h c p v (.over, trnStale h 9 w) →
    (s.pw.stopped = false → exec (.trigEnable h p m) s = .next (follows t)) ∧
    (quiet s t = true → exec (.trigEnable h p m) s = .next t)) ∧
  (∀ (h : Nat) (p : Packet) (m : HostView) (r u w : State) (c : Nat) (x : Chan) (v : View) (d : Nat) (s t : State),
    arrived h 48 p s = (r, true) → c = p.chan.toNat → u = inc (trnCtr h 1) r → (chanOf u h c).cached = true →
    v = viewOf m u → w = (takeCore h c (meetCtx h c u)).1 → x = chanOf w h c → p.inc = x.inc → p.src = x.peer →
    x.unrel = false → x.st ≠ .error → d = (p.psn - x.expect).toNat → d < 2048 → executedAt x d = false →
    x.busy.any (fun q => q.psn == p.psn) = true →
    t = afterRx h c p v (.over, inc (trnCtr h 6) w) →
    (s.pw.stopped = false → exec (.trigEnable h p m) s = .next (follows t)) ∧
    (quiet s t = true → exec (.trigEnable h p m) s = .next t)) ∧
  (∀ (h : Nat) (p : Packet) (m : HostView) (r u w : State) (c : Nat) (x : Chan) (v : View) (d : Nat) (s t : State),
    arrived h 48 p s = (r, true) → c = p.chan.toNat → u = inc (trnCtr h 1) r → (chanOf u h c).cached = true →
    v = viewOf m u → w = (takeCore h c (meetCtx h c u)).1 → x = chanOf w h c → p.inc = x.inc → p.src = x.peer →
    x.unrel = false → x.st ≠ .error → d = (p.psn - x.expect).toNat → d < 2048 → executedAt x d = false →
    x.busy.any (fun q => q.psn == p.psn) = false → heldBack x d p = true →
    t = park h c p w →
    (s.pw.stopped = false → exec (.trigEnable h p m) s = .next (follows t)) ∧
    (quiet s t = true → exec (.trigEnable h p m) s = .next t)) ∧
  (∀ (h : Nat) (p : Packet) (m : HostView) (r u w : State) (c : Nat) (x : Chan) (v : View) (d : Nat) (y : State) (s t : State),
    arrived h 48 p s = (r, true) → c = p.chan.toNat → u = inc (trnCtr h 1) r → (chanOf u h c).cached = true →
    v = viewOf m u → w = (takeCore h c (meetCtx h c u)).1 → x = chanOf w h c → p.inc = x.inc → p.src = x.peer →
    x.unrel = false → x.st ≠ .error → d = (p.psn - x.expect).toNat → d < 2048 → executedAt x d = false →
    x.busy.any (fun q => q.psn == p.psn) = false → heldBack x d p = false →
    (if d = 0 ∨ x.window then (w, true) else freeSlots (boleOf h) (objKey 24 h c) 1 w) = (y, true) →
    aliveOk x d p = false →
    t = afterRx h c p v (.over, cvuFail h 4 p y) →
    (s.pw.stopped = false → exec (.trigEnable h p m) s = .next (follows t)) ∧
    (quiet s t = true → exec (.trigEnable h p m) s = .next t)) ∧
  (∀ (h : Nat) (p : Packet) (m : HostView) (r u w : State) (c : Nat) (x : Chan) (v : View) (k : Nat) (s t : State),
    arrived h 48 p s = (r, true) → c = p.chan.toNat → u = inc (trnCtr h 1) r → (chanOf u h c).cached = true →
    v = viewOf m u → w = (takeCore h c (meetCtx h c u)).1 → x = chanOf w h c → p.inc = x.inc → p.src = x.peer →
    x.unrel = false → x.st ≠ .error →
    2 ^ 31 ≤ (p.psn - x.expect).toNat ∨ ((p.psn - x.expect).toNat < 2048 ∧ executedAt x (p.psn - x.expect).toNat = true) →
    x.refused = some (p.psn, k) →
    t = afterRx h c p v (.over, sendAck h c p.psn 0x10 k (inc (trnCtr h 6) w)) →
    (s.pw.stopped = false → exec (.trigEnable h p m) s = .next (follows t)) ∧
    (quiet s t = true → exec (.trigEnable h p m) s = .next t)) ∧
  (∀ (h : Nat) (p : Packet) (m : HostView) (r u w : State) (c : Nat) (x : Chan) (v : View) (s t : State),
    arrived h 48 p s = (r, true) → c = p.chan.toNat → u = inc (trnCtr h 1) r → (chanOf u h c).cached = true →
    v = viewOf m u → w = (takeCore h c (meetCtx h c u)).1 → x = chanOf w h c → p.inc = x.inc → p.src = x.peer →
    x.unrel = false → x.st ≠ .error →
    2 ^ 31 ≤ (p.psn - x.expect).toNat ∨ ((p.psn - x.expect).toNat < 2048 ∧ executedAt x (p.psn - x.expect).toNat = true) →
    x.refused.all (fun e => e.1 != p.psn) = true → x.olds.contains p.psn = true →
    t = afterRx h c p v (.over, sendAck h c p.psn 0 0 (inc (trnCtr h 6) w)) →
    (s.pw.stopped = false → exec (.trigEnable h p m) s = .next (follows t)) ∧
    (quiet s t = true → exec (.trigEnable h p m) s = .next t)) ∧
  (∀ (h : Nat) (p : Packet) (m : HostView) (r u w : State) (c : Nat) (x : Chan) (v : View) (s t : State),
    arrived h 48 p s = (r, true) → c = p.chan.toNat → u = inc (trnCtr h 1) r → (chanOf u h c).cached = true →
    v = viewOf m u → w = (takeCore h c (meetCtx h c u)).1 → x = chanOf w h c → p.inc = x.inc → p.src = x.peer →
    x.unrel = false → x.st ≠ .error →
    2 ^ 31 ≤ (p.psn - x.expect).toNat ∨ ((p.psn - x.expect).toNat < 2048 ∧ executedAt x (p.psn - x.expect).toNat = true) →
    x.refused.all (fun e => e.1 != p.psn) = true →
    t = afterRx h c p v (.over, sendAck h c p.psn 0 0 (inc (trnCtr h 6) w)) →
    (s.pw.stopped = false → exec (.trigEnable h p m) s = .next (follows t)) ∧
    (quiet s t = true → exec (.trigEnable h p m) s = .next t)) ∧
  (∀ (h q : Nat) (i : Word) (m : HostView) (s t : State),
    hostUp s h = false ∨ freshJob s h q i 53 = none →
    t = s →
    (s.pw.stopped = false → exec (.trigArm h q i m) s = .next (follows t)) ∧
    (quiet s t = true → exec (.trigArm h q i m) s = .next t)) ∧
  (∀ (h q : Nat) (i : Word) (m : HostView) (s t : State),
    hostUp s h = false ∨ freshJob s h q i 54 = none →
    t = s →
    (s.pw.stopped = false → exec (.trigCancel h q i m) s = .next (follows t)) ∧
    (quiet s t = true → exec (.trigCancel h q i m) s = .next t)) ∧
  (∀ (h q : Nat) (i : Word) (m : HostView) (s t : State),
    hostUp s h = false ∨ freshJob s h q i 55 = none →
    t = s →
    (s.pw.stopped = false → exec (.remoteEnable h q i m) s = .next (follows t)) ∧
    (quiet s t = true → exec (.remoteEnable h q i m) s = .next t))

/-- TREE_ALLREDUCE takes its binding's OP_SEQ and sends, its results are written, and a binding is made, freed and
reported. From the row of an issued job that has not begun: TREE_ALLREDUCE on a BOUND index of its function without an
operation in progress, whose buffers pass the checks, takes OP_SEQ, which advances, and sends its chunks under the window
rule; buffers that do not pass, or wait, decide it; with an operation in progress it waits to begin; on an UNBOUND index or
another function's it ends NO_TREE, on a BROKEN one TREE_BROKEN. A TREE_DOWN that a Bole accepts, for a BOUND index with
its tag: of STATUS OK for a chunk that is outstanding it is counted, and its payload, of the chunk's length, is written to
the result buffer, the operation finishing with the last chunk and otherwise going on; while host memory is asked it waits,
a write that fails its check ends the job, and another length is stray; BROKEN and MISMATCH end the operation and make the
binding BROKEN; NO_TREE for an outstanding chunk ends the operation and leaves the binding; any other, and one for an index
that is not BOUND or with another tag, is counted in STRAY_DOWN. BIND of an UNBOUND index with a good window and function,
UNBIND of one that is not, which ends its operation and tells the router of a BOUND one, and QUERY do as R340 says and set
TRE_BIND_RESULT, as do a BIND in use, a BIND out of range and an UNBIND of nothing; at a port that does not serve they do
nothing. A row at a host port that does not serve, or that names no issued job which has not begun, changes nothing. -/
def Obligations.TreeJobs : Prop :=
  (∀ (h q : Nat) (i : Word) (m : HostView) (j : Job) (x : Nat) (y : TreeBind) (d : List Word) (a b : State) (s t : State),
    hostUp s h = true → freshJob s h q i 64 = some j → x = alIdx j →
    y = bindOf (updJob h j.id (fun k => { k with begun := true }) s) h x → y.st = 1 →
    y.fn = (wqOf (updJob h j.id (fun k => { k with begun := true }) s) h j.q).fn → y.op = none →
    failCount h false (checkKey h (Job.w j 14) (u64 (Job.op j) 12) (lengthOfJob j) .localWrite (jobWho (updJob h j.id (fun
        k => { k with begun := true }) s) h ({ j with begun := true })) (viewOf m s) (updJob h j.id (fun k => { k with
          begun := true }) s)) = (.ok d, a) →
    (if Job.inl j then (.ok (), a) else checkLocal h ({ j with begun := true }) .localRead (viewOf m s) a) = (.ok (), b) →
    t = treeSend (chunkCount (alMode j) (alDtype j) (alElems j) + 1) h ({ j with begun := true }) (viewOf m s) (inc
        (treCtr h 0) (setBind h x { y with
          opSeq := y.opSeq + 1,
          op := some
            { job := j.id, opSeq := y.opSeq, chunks := chunkCount (alMode j) (alDtype j) (alElems j), next := 0, came :=
                [] } } b)) →
    (s.pw.stopped = false → exec (.treeAllreduce h q i m) s = .next (follows t)) ∧
    (quiet s t = true → exec (.treeAllreduce h q i m) s = .next t)) ∧
  (∀ (h q : Nat) (i : Word) (m : HostView) (j : Job) (x : Nat) (y : TreeBind) (k : Acc (List Word)) (a : State) (s t : State),
    hostUp s h = true → freshJob s h q i 64 = some j → x = alIdx j →
    y = bindOf (updJob h j.id (fun k => { k with begun := true }) s) h x → y.st = 1 →
    y.fn = (wqOf (updJob h j.id (fun k => { k with begun := true }) s) h j.q).fn → y.op = none →
    failCount h false (checkKey h (Job.w j 14) (u64 (Job.op j) 12) (lengthOfJob j) .localWrite (jobWho (updJob h j.id (fun
        k => { k with begun := true }) s) h ({ j with begun := true })) (viewOf m s) (updJob h j.id (fun k => { k with
          begun := true }) s)) = (k, a) →
    (match k with | .ok _ => false | _ => true) = true →
    t = failAcc h ({ j with begun := true }) 0 k a →
    (s.pw.stopped = false → exec (.treeAllreduce h q i m) s = .next (follows t)) ∧
    (quiet s t = true → exec (.treeAllreduce h q i m) s = .next t)) ∧
  (∀ (h q : Nat) (i : Word) (m : HostView) (j : Job) (x : Nat) (y : TreeBind) (d : List Word) (k : Acc Unit) (a b : State) (s t : State),
    hostUp s h = true → freshJob s h q i 64 = some j → x = alIdx j →
    y = bindOf (updJob h j.id (fun k => { k with begun := true }) s) h x → y.st = 1 →
    y.fn = (wqOf (updJob h j.id (fun k => { k with begun := true }) s) h j.q).fn → y.op = none →
    failCount h false (checkKey h (Job.w j 14) (u64 (Job.op j) 12) (lengthOfJob j) .localWrite (jobWho (updJob h j.id (fun
        k => { k with begun := true }) s) h ({ j with begun := true })) (viewOf m s) (updJob h j.id (fun k => { k with
          begun := true }) s)) = (.ok d, a) →
    (if Job.inl j then (.ok (), a) else checkLocal h ({ j with begun := true }) .localRead (viewOf m s) a) = (k, b) →
    k ≠ .ok () →
    t = failAcc h ({ j with begun := true }) 0 k b →
    (s.pw.stopped = false → exec (.treeAllreduce h q i m) s = .next (follows t)) ∧
    (quiet s t = true → exec (.treeAllreduce h q i m) s = .next t)) ∧
  (∀ (h q : Nat) (i : Word) (m : HostView) (j : Job) (x : Nat) (y : TreeBind) (o : TreeOp) (s t : State),
    hostUp s h = true → freshJob s h q i 64 = some j → x = alIdx j →
    y = bindOf (updJob h j.id (fun k => { k with begun := true }) s) h x → y.st = 1 →
    y.fn = (wqOf (updJob h j.id (fun k => { k with begun := true }) s) h j.q).fn → y.op = some o → o.job ≠ j.id →
    t = updJob h j.id (fun j => { j with begun := false }) (updJob h j.id (fun k => { k with begun := true }) s) →
    (s.pw.stopped = false → exec (.treeAllreduce h q i m) s = .next (follows t)) ∧
    (quiet s t = true → exec (.treeAllreduce h q i m) s = .next t)) ∧
  (∀ (h q : Nat) (i : Word) (m : HostView) (j : Job) (x : Nat) (y : TreeBind) (s t : State),
    hostUp s h = true → freshJob s h q i 64 = some j → x = alIdx j →
    y = bindOf (updJob h j.id (fun k => { k with begun := true }) s) h x → y.op.any (fun o => o.job == j.id) = false →
    y.st = 0 ∨ y.fn ≠ (wqOf (updJob h j.id (fun k => { k with begun := true }) s) h j.q).fn →
    t = treeEnd h ({ j with begun := true }) 0x42 0 (updJob h j.id (fun k => { k with begun := true }) s) →
    (s.pw.stopped = false → exec (.treeAllreduce h q i m) s = .next (follows t)) ∧
    (quiet s t = true → exec (.treeAllreduce h q i m) s = .next t)) ∧
  (∀ (h q : Nat) (i : Word) (m : HostView) (j : Job) (x : Nat) (y : TreeBind) (s t : State),
    hostUp s h = true → freshJob s h q i 64 = some j → x = alIdx j →
    y = bindOf (updJob h j.id (fun k => { k with begun := true }) s) h x → y.op.any (fun o => o.job == j.id) = false →
    y.st = 2 → y.fn = (wqOf (updJob h j.id (fun k => { k with begun := true }) s) h j.q).fn →
    t = treeEnd h ({ j with begun := true }) 0x40 0 (updJob h j.id (fun k => { k with begun := true }) s) →
    (s.pw.stopped = false → exec (.treeAllreduce h q i m) s = .next (follows t)) ∧
    (quiet s t = true → exec (.treeAllreduce h q i m) s = .next t)) ∧
  (∀ (h : Nat) (p : Packet) (m : HostView) (s t : State),
    p.ptype ≠ 0x41 ∨ boleOk s (boleOf h) = false →
    t = s →
    (s.pw.stopped = false → exec (.treeDownHostRx h p m) s = .next (follows t)) ∧
    (quiet s t = true → exec (.treeDownHostRx h p m) s = .next t)) ∧
  (∀ (h : Nat) (p : Packet) (m : HostView) (u : State) (s t : State),
    p.ptype = 0x41 → boleOk s (boleOf h) = true → e2eTest h p (freeInternal (xN h) p s) = (u, false) →
    t = u →
    (s.pw.stopped = false → exec (.treeDownHostRx h p m) s = .next (follows t)) ∧
    (quiet s t = true → exec (.treeDownHostRx h p m) s = .next t)) ∧
  (∀ (h : Nat) (p : Packet) (m : HostView) (u : State) (s t : State),
    p.ptype = 0x41 → boleOk s (boleOf h) = true → e2eTest h p (freeInternal (xN h) p s) = (u, true) →
    asdMismatch p = true →
    t = asdReject h u →
    (s.pw.stopped = false → exec (.treeDownHostRx h p m) s = .next (follows t)) ∧
    (quiet s t = true → exec (.treeDownHostRx h p m) s = .next t)) ∧
  (∀ (h : Nat) (p : Packet) (m : HostView) (u : State) (s t : State),
    p.ptype = 0x41 → boleOk s (boleOf h) = true → e2eTest h p (freeInternal (xN h) p s) = (u, true) →
    asdMismatch p = false → p.extMask ≠ 0x20 →
    t = hdrBad (boleOf h) u →
    (s.pw.stopped = false → exec (.treeDownHostRx h p m) s = .next (follows t)) ∧
    (quiet s t = true → exec (.treeDownHostRx h p m) s = .next t)) ∧
  (∀ (h : Nat) (p : Packet) (m : HostView) (u : State) (g : Grant) (o : TreeOp) (j : Job) (q w : State) (s t : State),
    p.ptype = 0x41 → boleOk s (boleOf h) = true → e2eTest h p (freeInternal (xN h) p s) = (u, true) →
    asdMismatch p = false → p.extMask = 0x20 → (bindOf u h (crIdx p)).st = 1 →
    crTag p = (bindOf u h (crIdx p)).tag.toNat → crStatus p = 0 →
    (bindOf u h (crIdx p)).op.any (fun o => o.opSeq == crSeq p && o.out (crChunk p)) = true → q = inc (treCtr h 2) u →
    (bindOf q h (crIdx p)).op = some o → jobOf q h o.job = some j → o.opSeq = crSeq p → o.out (crChunk p) = true →
    p.payload.length = alBytes j (crChunk p) →
    access h (Job.w j 14) (u64 (Job.op j) 12 + crChunk p * alStep j) p.payload.length .localWrite (jobWho q h j) (viewFor
        h (.tree p) (viewOf m u) q) q = (.ok g, w) →
    o.came.length + 1 = o.chunks →
    t = finishJob h j 0 (lengthOfJob j) 0 (setBind h (crIdx p) { bindOf (stopWait h (.tree p) (writeGrant h g true
        p.payload w)) h (crIdx p) with op := none } (stopWait h (.tree p) (writeGrant h g true p.payload w))) →
    (s.pw.stopped = false → exec (.treeDownHostRx h p m) s = .next (follows t)) ∧
    (quiet s t = true → exec (.treeDownHostRx h p m) s = .next t)) ∧
  (∀ (h : Nat) (p : Packet) (m : HostView) (u : State) (g : Grant) (o : TreeOp) (j : Job) (q w : State) (s t : State),
    p.ptype = 0x41 → boleOk s (boleOf h) = true → e2eTest h p (freeInternal (xN h) p s) = (u, true) →
    asdMismatch p = false → p.extMask = 0x20 → (bindOf u h (crIdx p)).st = 1 →
    crTag p = (bindOf u h (crIdx p)).tag.toNat → crStatus p = 0 →
    (bindOf u h (crIdx p)).op.any (fun o => o.opSeq == crSeq p && o.out (crChunk p)) = true → q = inc (treCtr h 2) u →
    (bindOf q h (crIdx p)).op = some o → jobOf q h o.job = some j → o.opSeq = crSeq p → o.out (crChunk p) = true →
    p.payload.length = alBytes j (crChunk p) →
    access h (Job.w j 14) (u64 (Job.op j) 12 + crChunk p * alStep j) p.payload.length .localWrite (jobWho q h j) (viewFor
        h (.tree p) (viewOf m u) q) q = (.ok g, w) →
    o.came.length + 1 ≠ o.chunks →
    t = treeSend (o.chunks + 1) h j (viewFor h (.job j.id) (viewOf m u) (stopWait h (.tree p) (writeGrant h g true
        p.payload w))) (setBind h (crIdx p) { bindOf (stopWait h (.tree p) (writeGrant h g true p.payload w)) h (crIdx p)
        with op := some { o with came := crChunk p :: o.came } } (stopWait h (.tree p) (writeGrant h g true p.payload w)))
        →
    (s.pw.stopped = false → exec (.treeDownHostRx h p m) s = .next (follows t)) ∧
    (quiet s t = true → exec (.treeDownHostRx h p m) s = .next t)) ∧
  (∀ (h : Nat) (p : Packet) (m : HostView) (u : State) (k : Need) (o : TreeOp) (j : Job) (q w : State) (s t : State),
    p.ptype = 0x41 → boleOk s (boleOf h) = true → e2eTest h p (freeInternal (xN h) p s) = (u, true) →
    asdMismatch p = false → p.extMask = 0x20 → (bindOf u h (crIdx p)).st = 1 →
    crTag p = (bindOf u h (crIdx p)).tag.toNat → crStatus p = 0 →
    (bindOf u h (crIdx p)).op.any (fun o => o.opSeq == crSeq p && o.out (crChunk p)) = true → q = inc (treCtr h 2) u →
    (bindOf q h (crIdx p)).op = some o → jobOf q h o.job = some j → o.opSeq = crSeq p → o.out (crChunk p) = true →
    p.payload.length = alBytes j (crChunk p) →
    access h (Job.w j 14) (u64 (Job.op j) 12 + crChunk p * alStep j) p.payload.length .localWrite (jobWho q h j) (viewFor
        h (.tree p) (viewOf m u) q) q = (.wait k, w) →
    t = waitFor h (.tree p) k w →
    (s.pw.stopped = false → exec (.treeDownHostRx h p m) s = .next (follows t)) ∧
    (quiet s t = true → exec (.treeDownHostRx h p m) s = .next t)) ∧
  (∀ (h : Nat) (p : Packet) (m : HostView) (u : State) (k : Nat) (o : TreeOp) (j : Job) (q w : State) (s t : State),
    p.ptype = 0x41 → boleOk s (boleOf h) = true → e2eTest h p (freeInternal (xN h) p s) = (u, true) →
    asdMismatch p = false → p.extMask = 0x20 → (bindOf u h (crIdx p)).st = 1 →
    crTag p = (bindOf u h (crIdx p)).tag.toNat → crStatus p = 0 →
    (bindOf u h (crIdx p)).op.any (fun o => o.opSeq == crSeq p && o.out (crChunk p)) = true → q = inc (treCtr h 2) u →
    (bindOf q h (crIdx p)).op = some o → jobOf q h o.job = some j → o.opSeq = crSeq p → o.out (crChunk p) = true →
    p.payload.length = alBytes j (crChunk p) →
    access h (Job.w j 14) (u64 (Job.op j) 12 + crChunk p * alStep j) p.payload.length .localWrite (jobWho q h j) (viewFor
        h (.tree p) (viewOf m u) q) q = (.fail k, w) →
    t = failAcc h j (sumN (o.came.map (alBytes j))) (.fail k : Acc Grant) (setBind h (crIdx p) { bindOf (stopWait h (.tree
        p) w) h (crIdx p) with op := none } (stopWait h (.tree p) w)) →
    (s.pw.stopped = false → exec (.treeDownHostRx h p m) s = .next (follows t)) ∧
    (quiet s t = true → exec (.treeDownHostRx h p m) s = .next t)) ∧
  (∀ (h : Nat) (p : Packet) (m : HostView) (u : State) (o : TreeOp) (j : Job) (q : State) (s t : State),
    p.ptype = 0x41 → boleOk s (boleOf h) = true → e2eTest h p (freeInternal (xN h) p s) = (u, true) →
    asdMismatch p = false → p.extMask = 0x20 → (bindOf u h (crIdx p)).st = 1 →
    crTag p = (bindOf u h (crIdx p)).tag.toNat → crStatus p = 0 →
    (bindOf u h (crIdx p)).op.any (fun o => o.opSeq == crSeq p && o.out (crChunk p)) = true → q = inc (treCtr h 2) u →
    (bindOf q h (crIdx p)).op = some o → jobOf q h o.job = some j → o.opSeq = crSeq p → o.out (crChunk p) = true →
    p.payload.length ≠ alBytes j (crChunk p) →
    t = treCause h 3 (inc (treCtr h 6) (stopWait h (.tree p) q)) →
    (s.pw.stopped = false → exec (.treeDownHostRx h p m) s = .next (follows t)) ∧
    (quiet s t = true → exec (.treeDownHostRx h p m) s = .next t)) ∧
  (∀ (h : Nat) (p : Packet) (m : HostView) (u : State) (s t : State),
    p.ptype = 0x41 → boleOk s (boleOf h) = true → e2eTest h p (freeInternal (xN h) p s) = (u, true) →
    asdMismatch p = false → p.extMask = 0x20 →
    (bindOf u h (crIdx p)).st ≠ 1 ∨ crTag p ≠ (bindOf u h (crIdx p)).tag.toNat ∨ (crStatus p = 0 ∧ (bindOf u h (crIdx
        p)).op.any (fun o => o.opSeq == crSeq p && o.out (crChunk p)) = false) ∨ (crStatus p = 3 ∧ (bindOf u h (crIdx
        p)).op.any (fun o => o.opSeq == crSeq p && o.out (crChunk p)) = false) ∨ 3 < crStatus p →
    t = treCause h 3 (inc (treCtr h 6) u) →
    (s.pw.stopped = false → exec (.treeDownHostRx h p m) s = .next (follows t)) ∧
    (quiet s t = true → exec (.treeDownHostRx h p m) s = .next t)) ∧
  (∀ (h : Nat) (p : Packet) (m : HostView) (u : State) (s t : State),
    p.ptype = 0x41 → boleOk s (boleOf h) = true → e2eTest h p (freeInternal (xN h) p s) = (u, true) →
    asdMismatch p = false → p.extMask = 0x20 → (bindOf u h (crIdx p)).st = 1 →
    crTag p = (bindOf u h (crIdx p)).tag.toNat → crStatus p = 3 →
    (bindOf u h (crIdx p)).op.any (fun o => o.opSeq == crSeq p && o.out (crChunk p)) = true →
    t = treeOpEnd h (crIdx p) 0x42 u →
    (s.pw.stopped = false → exec (.treeDownHostRx h p m) s = .next (follows t)) ∧
    (quiet s t = true → exec (.treeDownHostRx h p m) s = .next t)) ∧
  (∀ (h : Nat) (p : Packet) (m : HostView) (u : State) (s t : State),
    p.ptype = 0x41 → boleOk s (boleOf h) = true → e2eTest h p (freeInternal (xN h) p s) = (u, true) →
    asdMismatch p = false → p.extMask = 0x20 → (bindOf u h (crIdx p)).st = 1 →
    crTag p = (bindOf u h (crIdx p)).tag.toNat → crStatus p = 1 →
    t = setBind h (crIdx p) { bindOf (treeOpEnd h (crIdx p) 0x40 u) h (crIdx p) with st := 2 } (treeOpEnd h (crIdx p) 0x40
        u) →
    (s.pw.stopped = false → exec (.treeDownHostRx h p m) s = .next (follows t)) ∧
    (quiet s t = true → exec (.treeDownHostRx h p m) s = .next t)) ∧
  (∀ (h : Nat) (p : Packet) (m : HostView) (u : State) (s t : State),
    p.ptype = 0x41 → boleOk s (boleOf h) = true → e2eTest h p (freeInternal (xN h) p s) = (u, true) →
    asdMismatch p = false → p.extMask = 0x20 → (bindOf u h (crIdx p)).st = 1 →
    crTag p = (bindOf u h (crIdx p)).tag.toNat → crStatus p = 2 →
    t = setBind h (crIdx p) { bindOf (treeOpEnd h (crIdx p) 0x41 u) h (crIdx p) with st := 2 } (treeOpEnd h (crIdx p) 0x41
        u) →
    (s.pw.stopped = false → exec (.treeDownHostRx h p m) s = .next (follows t)) ∧
    (quiet s t = true → exec (.treeDownHostRx h p m) s = .next t)) ∧
  (∀ (h i : Nat) (who : Requester) (e : State) (s t : State),
    e = (if domOn s (dMem (boleOf h)) then performAll (boleOf h) (identOf h who.id who.tc) s else s) → hostUp e h = true →
    i = bindIdx e h → 1 ≤ (fld (barR e (hostKey h 0 0x1E004) 0x100) 8 9) →
    (fld (barR e (hostKey h 0 0x1E004) 0x100) 8 9) ≤ 256 →
    fld (barR e (hostKey h 0 0x1E004) 0x100) 0 8 ≤ (hport e h).numVfs → (bindOf e h i).st = 0 →
    t = bindResult h i 0 (setBind h i
        { st := 1, tag := BitVec.ofNat 16 (fld (barR e (hostKey h 0 0x1E000) 0) 16 16), fn := fld (barR e (hostKey h 0
            0x1E004) 0x100) 0 8, window := (fld (barR e (hostKey h 0 0x1E004) 0x100) 8 9) } e) →
    (s.pw.stopped = false → exec (.bind h who) s = .next (follows t)) ∧
    (quiet s t = true → exec (.bind h who) s = .next t)) ∧
  (∀ (h i : Nat) (who : Requester) (e : State) (s t : State),
    e = (if domOn s (dMem (boleOf h)) then performAll (boleOf h) (identOf h who.id who.tc) s else s) → hostUp e h = true →
    i = bindIdx e h → (bindOf e h i).st = 0 →
    (fld (barR e (hostKey h 0 0x1E004) 0x100) 8 9) = 0 ∨ 256 < (fld (barR e (hostKey h 0 0x1E004) 0x100) 8 9) ∨ (hport e
        h).numVfs < fld (barR e (hostKey h 0 0x1E004) 0x100) 0 8 →
    t = bindResult h i 3 e →
    (s.pw.stopped = false → exec (.bind h who) s = .next (follows t)) ∧
    (quiet s t = true → exec (.bind h who) s = .next t)) ∧
  (∀ (h i : Nat) (who : Requester) (e : State) (s t : State),
    e = (if domOn s (dMem (boleOf h)) then performAll (boleOf h) (identOf h who.id who.tc) s else s) → hostUp e h = true →
    i = bindIdx e h → (bindOf e h i).st ≠ 0 →
    t = bindResult h i 1 e →
    (s.pw.stopped = false → exec (.bind h who) s = .next (follows t)) ∧
    (quiet s t = true → exec (.bind h who) s = .next t)) ∧
  (∀ (h i : Nat) (who : Requester) (e : State) (s t : State),
    e = (if domOn s (dMem (boleOf h)) then performAll (boleOf h) (identOf h who.id who.tc) s else s) → hostUp e h = true →
    i = bindIdx e h → (bindOf e h i).st = 1 →
    t = bindResult h i 0 (setBind h i {} (sendUp h (treePkt true i (bindOf e h i).tag.toNat 0 0 0 0 0 0 1 0 []) (treeOpEnd
        h i 0x40 e))) →
    (s.pw.stopped = false → exec (.unbind h who) s = .next (follows t)) ∧
    (quiet s t = true → exec (.unbind h who) s = .next t)) ∧
  (∀ (h i : Nat) (who : Requester) (e : State) (s t : State),
    e = (if domOn s (dMem (boleOf h)) then performAll (boleOf h) (identOf h who.id who.tc) s else s) → hostUp e h = true →
    i = bindIdx e h → (bindOf e h i).st ≠ 0 → (bindOf e h i).st ≠ 1 →
    t = bindResult h i 0 (setBind h i {} (treeOpEnd h i 0x40 e)) →
    (s.pw.stopped = false → exec (.unbind h who) s = .next (follows t)) ∧
    (quiet s t = true → exec (.unbind h who) s = .next t)) ∧
  (∀ (h i : Nat) (who : Requester) (e : State) (s t : State),
    e = (if domOn s (dMem (boleOf h)) then performAll (boleOf h) (identOf h who.id who.tc) s else s) → hostUp e h = true →
    i = bindIdx e h → (bindOf e h i).st = 0 →
    t = bindResult h i 2 e →
    (s.pw.stopped = false → exec (.unbind h who) s = .next (follows t)) ∧
    (quiet s t = true → exec (.unbind h who) s = .next t)) ∧
  (∀ (h i : Nat) (who : Requester) (e : State) (s t : State),
    e = (if domOn s (dMem (boleOf h)) then performAll (boleOf h) (identOf h who.id who.tc) s else s) → hostUp e h = true →
    i = bindIdx e h →
    t = barSet (hostKey h 0 0x1E00C) (pack [(0, 3, 0), (4, 2, (bindOf e h i).st)]) e →
    (s.pw.stopped = false → exec (.query h who) s = .next (follows t)) ∧
    (quiet s t = true → exec (.query h who) s = .next t)) ∧
  (∀ (h : Nat) (who : Requester) (e : State) (s t : State),
    e = (if domOn s (dMem (boleOf h)) then performAll (boleOf h) (identOf h who.id who.tc) s else s) →
    hostUp e h = false →
    t = e →
    (s.pw.stopped = false → exec (.bind h who) s = .next (follows t)) ∧
    (quiet s t = true → exec (.bind h who) s = .next t)) ∧
  (∀ (h : Nat) (who : Requester) (e : State) (s t : State),
    e = (if domOn s (dMem (boleOf h)) then performAll (boleOf h) (identOf h who.id who.tc) s else s) →
    hostUp e h = false →
    t = e →
    (s.pw.stopped = false → exec (.unbind h who) s = .next (follows t)) ∧
    (quiet s t = true → exec (.unbind h who) s = .next t)) ∧
  (∀ (h : Nat) (who : Requester) (e : State) (s t : State),
    e = (if domOn s (dMem (boleOf h)) then performAll (boleOf h) (identOf h who.id who.tc) s else s) →
    hostUp e h = false →
    t = e →
    (s.pw.stopped = false → exec (.query h who) s = .next (follows t)) ∧
    (quiet s t = true → exec (.query h who) s = .next t)) ∧
  (∀ (h q : Nat) (i : Word) (m : HostView) (s t : State),
    hostUp s h = false ∨ freshJob s h q i 64 = none →
    t = s →
    (s.pw.stopped = false → exec (.treeAllreduce h q i m) s = .next (follows t)) ∧
    (quiet s t = true → exec (.treeAllreduce h q i m) s = .next t))

/-- A Crown unit combines contributions in their slot, copies results down, and breaks a context that an error reaches. A
TREE_UP delivered to a unit is counted and its cells freed, and then: where the context is not UNUSED an E2E failure or a
bad length is a protocol error; a BROKEN context answers an N child BROKEN and another sender nothing; in an ACTIVE one a
sender that is no child, or fields that R328 forbids break it as a protocol error; STATUS BROKEN and MISMATCH break it with
cause PEER and MISMATCH towards all but the sender, and NO_TREE does nothing (the model's choice, log 66); a contribution
outside the sequence, the chunks or the window, or a second one of the same child, is a protocol error; one that differs
from the chunk's first in OP, DTYPE, MODE or ELEMS, or asks for ORDERED where it is not permitted, breaks it with cause
MISMATCH; any other enters the chunk's up slot, whose words break the context with cause ECC if they cannot be read. It is
combined on arrival, and under ORDERED, once all have come, in ascending child index. A chunk to which every child has
contributed frees its up slot and goes up with its partial sums, or at the root is rounded to its DTYPE and copied to every
child, its down slot holding it until the last copy is granted (log 100). A TREE_DOWN is counted likewise, and in an ACTIVE
context: an arrival at the root or not from the parent, forbidden fields, and a chunk that was not sent up or has come down
already are protocol errors; STATUS BROKEN and MISMATCH break it with cause PEER and MISMATCH; any other is copied to every
child through a down slot. -/
def Obligations.TreePackets : Prop :=
  (∀ (g n i : Nat) (p : Packet) (u : State) (s t : State),
    i = crIdx p → u = inc (crnCtr g 0) (freeInternal (xC g) p s) → (tree s i).st = 2 → lenOk p = true → e2eGood p = true →
    64 ≤ n → (treeKids u i).contains n = true →
    t = sendStatus false i 1 n u →
    (s.pw.stopped = false → exec (.treeUp g n p) s = .next (follows t)) ∧
    (quiet s t = true → exec (.treeUp g n p) s = .next t)) ∧
  (∀ (g n i : Nat) (p : Packet) (u : State) (s t : State),
    i = crIdx p → u = inc (crnCtr g 0) (freeInternal (xC g) p s) → (tree s i).st ≠ 0 → (tree s i).st ≠ 1 →
    lenOk p = true → e2eGood p = true → n < 64 ∨ (treeKids u i).contains n = false →
    t = u →
    (s.pw.stopped = false → exec (.treeUp g n p) s = .next (follows t)) ∧
    (quiet s t = true → exec (.treeUp g n p) s = .next t)) ∧
  (∀ (g n i : Nat) (p : Packet) (u : State) (s t : State),
    i = crIdx p → u = inc (crnCtr g 0) (freeInternal (xC g) p s) → (tree s i).st = 0 →
    t = u →
    (s.pw.stopped = false → exec (.treeUp g n p) s = .next (follows t)) ∧
    (quiet s t = true → exec (.treeUp g n p) s = .next t)) ∧
  (∀ (g n i : Nat) (p : Packet) (u : State) (s t : State),
    i = crIdx p → u = inc (crnCtr g 0) (freeInternal (xC g) p s) → (tree s i).st ≠ 0 → e2eGood p = false →
    t = breakTree i 3 none (inc (crnCtr g 10) (raise (148 + g) 2 (inc (crnCtr g 9) u))) →
    (s.pw.stopped = false → exec (.treeUp g n p) s = .next (follows t)) ∧
    (quiet s t = true → exec (.treeUp g n p) s = .next t)) ∧
  (∀ (g n i : Nat) (p : Packet) (u : State) (s t : State),
    i = crIdx p → u = inc (crnCtr g 0) (freeInternal (xC g) p s) → (tree s i).st ≠ 0 → e2eGood p = true →
    lenOk p = false →
    t = breakTree i 3 none (raise (148 + g) 2 (inc (crnCtr g 9) u)) →
    (s.pw.stopped = false → exec (.treeUp g n p) s = .next (follows t)) ∧
    (quiet s t = true → exec (.treeUp g n p) s = .next t)) ∧
  (∀ (g n i : Nat) (p : Packet) (u : State) (s t : State),
    i = crIdx p → u = inc (crnCtr g 0) (freeInternal (xC g) p s) → (tree s i).st = 1 → lenOk p = true → e2eGood p = true →
    (treeKids u i).contains n = false →
    t = breakTree i 3 none (raise (148 + g) 2 (inc (crnCtr g 9) u)) →
    (s.pw.stopped = false → exec (.treeUp g n p) s = .next (follows t)) ∧
    (quiet s t = true → exec (.treeUp g n p) s = .next t)) ∧
  (∀ (g n i : Nat) (p : Packet) (u : State) (s t : State),
    i = crIdx p → u = inc (crnCtr g 0) (freeInternal (xC g) p s) → (tree s i).st = 1 → lenOk p = true → e2eGood p = true →
    (treeKids u i).contains n = true → treeFieldsBad true n p = true →
    t = breakTree i 3 none (raise (148 + g) 2 (inc (crnCtr g 9) u)) →
    (s.pw.stopped = false → exec (.treeUp g n p) s = .next (follows t)) ∧
    (quiet s t = true → exec (.treeUp g n p) s = .next t)) ∧
  (∀ (g n i : Nat) (p : Packet) (u : State) (s t : State),
    i = crIdx p → u = inc (crnCtr g 0) (freeInternal (xC g) p s) → (tree s i).st = 1 → lenOk p = true → e2eGood p = true →
    (treeKids u i).contains n = true → treeFieldsBad true n p = false → crStatus p = 1 →
    t = breakTree i 5 (some n) u →
    (s.pw.stopped = false → exec (.treeUp g n p) s = .next (follows t)) ∧
    (quiet s t = true → exec (.treeUp g n p) s = .next t)) ∧
  (∀ (g n i : Nat) (p : Packet) (u : State) (s t : State),
    i = crIdx p → u = inc (crnCtr g 0) (freeInternal (xC g) p s) → (tree s i).st = 1 → lenOk p = true → e2eGood p = true →
    (treeKids u i).contains n = true → treeFieldsBad true n p = false → crStatus p = 2 →
    t = breakTree i 4 (some n) u →
    (s.pw.stopped = false → exec (.treeUp g n p) s = .next (follows t)) ∧
    (quiet s t = true → exec (.treeUp g n p) s = .next t)) ∧
  (∀ (g n i : Nat) (p : Packet) (u : State) (s t : State),
    i = crIdx p → u = inc (crnCtr g 0) (freeInternal (xC g) p s) → (tree s i).st = 1 → lenOk p = true → e2eGood p = true →
    (treeKids u i).contains n = true → treeFieldsBad true n p = false → crStatus p = 3 →
    t = u →
    (s.pw.stopped = false → exec (.treeUp g n p) s = .next (follows t)) ∧
    (quiet s t = true → exec (.treeUp g n p) s = .next t)) ∧
  (∀ (g n i : Nat) (p : Packet) (u : State) (s t : State),
    i = crIdx p → u = inc (crnCtr g 0) (freeInternal (xC g) p s) → (tree s i).st = 1 → lenOk p = true → e2eGood p = true →
    (treeKids u i).contains n = true → treeFieldsBad true n p = false → crStatus p = 0 →
    crVals p = none ∨ upSeq (tree s i) p = none →
    t = breakTree i 3 none (raise (148 + g) 2 (inc (crnCtr g 9) u)) →
    (s.pw.stopped = false → exec (.treeUp g n p) s = .next (follows t)) ∧
    (quiet s t = true → exec (.treeUp g n p) s = .next t)) ∧
  (∀ (g n i : Nat) (p : Packet) (u : State) (vals : List Elem) (t0 : TreeCtx) (s t : State),
    i = crIdx p → u = inc (crnCtr g 0) (freeInternal (xC g) p s) → (tree s i).st = 1 → lenOk p = true → e2eGood p = true →
    (treeKids u i).contains n = true → treeFieldsBad true n p = false → crStatus p = 0 → crVals p = some vals →
    upSeq (tree s i) p = some t0 →
    t0.chunks ≤ crChunk p ∨ inWindow t0 (treeWindow u i) (crChunk p) = false ∨ t0.sent.contains (crChunk p) = true ∨
        t0.ups.any (fun x => x.chunk == crChunk p && x.got.contains n) = true →
    t = breakTree i 3 none (raise (148 + g) 2 (inc (crnCtr g 9) u)) →
    (s.pw.stopped = false → exec (.treeUp g n p) s = .next (follows t)) ∧
    (quiet s t = true → exec (.treeUp g n p) s = .next t)) ∧
  (∀ (g n i : Nat) (p : Packet) (u : State) (vals : List Elem) (t0 : TreeCtx) (x : UpSlot) (s t : State),
    i = crIdx p → u = inc (crnCtr g 0) (freeInternal (xC g) p s) → (tree s i).st = 1 → lenOk p = true → e2eGood p = true →
    (treeKids u i).contains n = true → crStatus p = 0 → treeFieldsBad true n p = false → crVals p = some vals →
    upSeq (tree s i) p = some t0 → crChunk p < t0.chunks → inWindow t0 (treeWindow u i) (crChunk p) = true →
    t0.sent.contains (crChunk p) = false → t0.ups.any (fun x => x.chunk == crChunk p && x.got.contains n) = false →
    crMode p ≠ 1 ∨ bitW (treeW u i 0) 20 = true →
    t0.ups.any (fun x => x.chunk == crChunk p && (x.op != crOp p || x.dtype != crDtype p || x.mode != crMode p ||
        x.elems.toNat != crElems p)) = false →
    x = (t0.ups.find? (fun z => z.chunk == crChunk p)).getD
        { chunk := crChunk p, op := crOp p, dtype := crDtype p, mode := crMode p, elems := w32 (crElems p), got := [],
            vals := [], held := [] } →
    x.ecc = .bad →
    t = breakTree i 2 none (raise (148 + (treeUnit u i)) 8 (setTree i t0 u)) →
    (s.pw.stopped = false → exec (.treeUp g n p) s = .next (follows t)) ∧
    (quiet s t = true → exec (.treeUp g n p) s = .next t)) ∧
  (∀ (g n i : Nat) (p : Packet) (u : State) (vals : List Elem) (t0 : TreeCtx) (x f : UpSlot) (l : List (List Elem)) (y : Nat) (b : State) (s t : State),
    i = crIdx p → u = inc (crnCtr g 0) (freeInternal (xC g) p s) → (tree s i).st = 1 → lenOk p = true → e2eGood p = true →
    (treeKids u i).contains n = true → crStatus p = 0 → treeFieldsBad true n p = false → crVals p = some vals →
    upSeq (tree s i) p = some t0 → crChunk p < t0.chunks → inWindow t0 (treeWindow u i) (crChunk p) = true →
    t0.sent.contains (crChunk p) = false → t0.ups.any (fun x => x.chunk == crChunk p && x.got.contains n) = false →
    crMode p ≠ 1 ∨ bitW (treeW u i 0) 20 = true →
    t0.ups.any (fun x => x.chunk == crChunk p && (x.op != crOp p || x.dtype != crDtype p || x.mode != crMode p ||
        x.elems.toNat != crElems p)) = false →
    x = (t0.ups.find? (fun z => z.chunk == crChunk p)).getD
        { chunk := crChunk p, op := crOp p, dtype := crDtype p, mode := crMode p, elems := w32 (crElems p), got := [],
            vals := [], held := [] } →
    x.ecc ≠ .bad →
    l = (List.range 68).filterMap (fun q => (((n, vals) :: x.held).find? (fun z => z.1 == q)).map (fun z => z.2)) →
    f = { x with
          got := n :: x.got,
          held := (if x.mode = 1 then (n, vals) :: x.held else []),
          ecc := .good,
          vals := if x.mode = 1 then (if (treeKids u i).all (fun q => (n :: x.got).contains q) then l.tail.foldl (fun a c
            => List.zipWith (elCombine x.op 1 x.dtype) a c) (l.headD []) else []) else if x.got = [] then vals else
            List.zipWith (elCombine x.op x.mode x.dtype) x.vals vals } →
    y = elemsIn x.mode x.dtype x.elems.toNat x.chunk * sizeOf_ x.dtype →
    b = (if y = 0 then (if x.ecc = .corr then inc (grvBase (treeUnit u i) + 0x48) (setTree i t0 u) else setTree i t0 u)
        else count (crnCtr (treeUnit u i) 6) y (if x.ecc = .corr then inc (grvBase (treeUnit u i) + 0x48) (setTree i t0 u)
        else setTree i t0 u)) →
    (treeKids u i).all (fun q => (n :: x.got).contains q) = false →
    t = setTree i { t0 with ups := f :: t0.ups.filter (fun z => z.chunk != x.chunk) } b →
    (s.pw.stopped = false → exec (.treeUp g n p) s = .next (follows t)) ∧
    (quiet s t = true → exec (.treeUp g n p) s = .next t)) ∧
  (∀ (g n i : Nat) (p : Packet) (u : State) (vals : List Elem) (t0 : TreeCtx) (x f : UpSlot) (l : List (List Elem)) (y : Nat) (b : State) (r k : State) (s t : State),
    i = crIdx p → u = inc (crnCtr g 0) (freeInternal (xC g) p s) → (tree s i).st = 1 → lenOk p = true → e2eGood p = true →
    (treeKids u i).contains n = true → crStatus p = 0 → treeFieldsBad true n p = false → crVals p = some vals →
    upSeq (tree s i) p = some t0 → crChunk p < t0.chunks → inWindow t0 (treeWindow u i) (crChunk p) = true →
    t0.sent.contains (crChunk p) = false → t0.ups.any (fun x => x.chunk == crChunk p && x.got.contains n) = false →
    crMode p ≠ 1 ∨ bitW (treeW u i 0) 20 = true →
    t0.ups.any (fun x => x.chunk == crChunk p && (x.op != crOp p || x.dtype != crDtype p || x.mode != crMode p ||
        x.elems.toNat != crElems p)) = false →
    x = (t0.ups.find? (fun z => z.chunk == crChunk p)).getD
        { chunk := crChunk p, op := crOp p, dtype := crDtype p, mode := crMode p, elems := w32 (crElems p), got := [],
            vals := [], held := [] } →
    x.ecc ≠ .bad →
    l = (List.range 68).filterMap (fun q => (((n, vals) :: x.held).find? (fun z => z.1 == q)).map (fun z => z.2)) →
    f = { x with
          got := n :: x.got,
          held := (if x.mode = 1 then (n, vals) :: x.held else []),
          ecc := .good,
          vals := if x.mode = 1 then (if (treeKids u i).all (fun q => (n :: x.got).contains q) then l.tail.foldl (fun a c
            => List.zipWith (elCombine x.op 1 x.dtype) a c) (l.headD []) else []) else if x.got = [] then vals else
            List.zipWith (elCombine x.op x.mode x.dtype) x.vals vals } →
    y = elemsIn x.mode x.dtype x.elems.toNat x.chunk * sizeOf_ x.dtype →
    b = (if y = 0 then (if x.ecc = .corr then inc (grvBase (treeUnit u i) + 0x48) (setTree i t0 u) else setTree i t0 u)
        else count (crnCtr (treeUnit u i) 6) y (if x.ecc = .corr then inc (grvBase (treeUnit u i) + 0x48) (setTree i t0 u)
        else setTree i t0 u)) →
    (treeKids u i).all (fun q => (n :: x.got).contains q) = true → treeRoot u i = true →
    r = setTree i { t0 with
          ups := t0.ups.filter (fun z => z.chunk != x.chunk),
          sent := f.chunk :: t0.sent,
          downed := f.chunk :: t0.downed } (inc (crnCtr (treeUnit u i) 4) (setTree i { t0 with
          ups := t0.ups.filter (fun z => z.chunk != x.chunk) } b)) →
    k = (treeKids r i).foldl (fun a c => inc (crnCtr (treeUnit u i) 3) (sendTree (treeUnit u i) c (treePkt false i (treeF
        u i 0 0 16) t0.opSeq.toNat f.op f.dtype f.mode 0 f.chunk 0 f.elems.toNat (elemBytes f.mode f.dtype f.vals)) a)) r
        →
    t0.downed.length + 1 = t0.chunks →
    t = inc (crnCtr (treeUnit u i) 5) (if k.net.voq.length - r.net.voq.length = 0 then k else setTree i { tree k i with
          downs := { chunk := f.chunk, left := k.net.voq.length - r.net.voq.length } :: (tree k i).downs.filter (fun d =>
            d.chunk != f.chunk) } k) →
    (s.pw.stopped = false → exec (.treeUp g n p) s = .next (follows t)) ∧
    (quiet s t = true → exec (.treeUp g n p) s = .next t)) ∧
  (∀ (g n i : Nat) (p : Packet) (u : State) (vals : List Elem) (t0 : TreeCtx) (x f : UpSlot) (l : List (List Elem)) (y : Nat) (b : State) (r k : State) (s t : State),
    i = crIdx p → u = inc (crnCtr g 0) (freeInternal (xC g) p s) → (tree s i).st = 1 → lenOk p = true → e2eGood p = true →
    (treeKids u i).contains n = true → crStatus p = 0 → treeFieldsBad true n p = false → crVals p = some vals →
    upSeq (tree s i) p = some t0 → crChunk p < t0.chunks → inWindow t0 (treeWindow u i) (crChunk p) = true →
    t0.sent.contains (crChunk p) = false → t0.ups.any (fun x => x.chunk == crChunk p && x.got.contains n) = false →
    crMode p ≠ 1 ∨ bitW (treeW u i 0) 20 = true →
    t0.ups.any (fun x => x.chunk == crChunk p && (x.op != crOp p || x.dtype != crDtype p || x.mode != crMode p ||
        x.elems.toNat != crElems p)) = false →
    x = (t0.ups.find? (fun z => z.chunk == crChunk p)).getD
        { chunk := crChunk p, op := crOp p, dtype := crDtype p, mode := crMode p, elems := w32 (crElems p), got := [],
            vals := [], held := [] } →
    x.ecc ≠ .bad →
    l = (List.range 68).filterMap (fun q => (((n, vals) :: x.held).find? (fun z => z.1 == q)).map (fun z => z.2)) →
    f = { x with
          got := n :: x.got,
          held := (if x.mode = 1 then (n, vals) :: x.held else []),
          ecc := .good,
          vals := if x.mode = 1 then (if (treeKids u i).all (fun q => (n :: x.got).contains q) then l.tail.foldl (fun a c
            => List.zipWith (elCombine x.op 1 x.dtype) a c) (l.headD []) else []) else if x.got = [] then vals else
            List.zipWith (elCombine x.op x.mode x.dtype) x.vals vals } →
    y = elemsIn x.mode x.dtype x.elems.toNat x.chunk * sizeOf_ x.dtype →
    b = (if y = 0 then (if x.ecc = .corr then inc (grvBase (treeUnit u i) + 0x48) (setTree i t0 u) else setTree i t0 u)
        else count (crnCtr (treeUnit u i) 6) y (if x.ecc = .corr then inc (grvBase (treeUnit u i) + 0x48) (setTree i t0 u)
        else setTree i t0 u)) →
    (treeKids u i).all (fun q => (n :: x.got).contains q) = true → treeRoot u i = true →
    r = setTree i { t0 with
          ups := t0.ups.filter (fun z => z.chunk != x.chunk),
          sent := f.chunk :: t0.sent,
          downed := f.chunk :: t0.downed } (inc (crnCtr (treeUnit u i) 4) (setTree i { t0 with
          ups := t0.ups.filter (fun z => z.chunk != x.chunk) } b)) →
    k = (treeKids r i).foldl (fun a c => inc (crnCtr (treeUnit u i) 3) (sendTree (treeUnit u i) c (treePkt false i (treeF
        u i 0 0 16) t0.opSeq.toNat f.op f.dtype f.mode 0 f.chunk 0 f.elems.toNat (elemBytes f.mode f.dtype f.vals)) a)) r
        →
    t0.downed.length + 1 ≠ t0.chunks →
    t = (if k.net.voq.length - r.net.voq.length = 0 then k else setTree i { tree k i with
          downs := { chunk := f.chunk, left := k.net.voq.length - r.net.voq.length } :: (tree k i).downs.filter (fun d =>
            d.chunk != f.chunk) } k) →
    (s.pw.stopped = false → exec (.treeUp g n p) s = .next (follows t)) ∧
    (quiet s t = true → exec (.treeUp g n p) s = .next t)) ∧
  (∀ (g n i : Nat) (p : Packet) (u : State) (vals : List Elem) (t0 : TreeCtx) (x f : UpSlot) (l : List (List Elem)) (y : Nat) (b : State) (r : State) (s t : State),
    i = crIdx p → u = inc (crnCtr g 0) (freeInternal (xC g) p s) → (tree s i).st = 1 → lenOk p = true → e2eGood p = true →
    (treeKids u i).contains n = true → crStatus p = 0 → treeFieldsBad true n p = false → crVals p = some vals →
    upSeq (tree s i) p = some t0 → crChunk p < t0.chunks → inWindow t0 (treeWindow u i) (crChunk p) = true →
    t0.sent.contains (crChunk p) = false → t0.ups.any (fun x => x.chunk == crChunk p && x.got.contains n) = false →
    crMode p ≠ 1 ∨ bitW (treeW u i 0) 20 = true →
    t0.ups.any (fun x => x.chunk == crChunk p && (x.op != crOp p || x.dtype != crDtype p || x.mode != crMode p ||
        x.elems.toNat != crElems p)) = false →
    x = (t0.ups.find? (fun z => z.chunk == crChunk p)).getD
        { chunk := crChunk p, op := crOp p, dtype := crDtype p, mode := crMode p, elems := w32 (crElems p), got := [],
            vals := [], held := [] } →
    x.ecc ≠ .bad →
    l = (List.range 68).filterMap (fun q => (((n, vals) :: x.held).find? (fun z => z.1 == q)).map (fun z => z.2)) →
    f = { x with
          got := n :: x.got,
          held := (if x.mode = 1 then (n, vals) :: x.held else []),
          ecc := .good,
          vals := if x.mode = 1 then (if (treeKids u i).all (fun q => (n :: x.got).contains q) then l.tail.foldl (fun a c
            => List.zipWith (elCombine x.op 1 x.dtype) a c) (l.headD []) else []) else if x.got = [] then vals else
            List.zipWith (elCombine x.op x.mode x.dtype) x.vals vals } →
    y = elemsIn x.mode x.dtype x.elems.toNat x.chunk * sizeOf_ x.dtype →
    b = (if y = 0 then (if x.ecc = .corr then inc (grvBase (treeUnit u i) + 0x48) (setTree i t0 u) else setTree i t0 u)
        else count (crnCtr (treeUnit u i) 6) y (if x.ecc = .corr then inc (grvBase (treeUnit u i) + 0x48) (setTree i t0 u)
        else setTree i t0 u)) →
    (treeKids u i).all (fun q => (n :: x.got).contains q) = true → treeRoot u i = false → x.mode ≠ 2 →
    r = setTree i { t0 with ups := t0.ups.filter (fun z => z.chunk != x.chunk), sent := f.chunk :: t0.sent } (inc (crnCtr
        (treeUnit u i) 4) (setTree i { t0 with ups := t0.ups.filter (fun z => z.chunk != x.chunk) } b)) →
    t = inc (crnCtr (treeUnit u i) 1) (sendTree (treeUnit u i) (treeParent u i) (treePkt true i (treeF u i 0 0 16)
        t0.opSeq.toNat f.op f.dtype f.mode 0 f.chunk 0 f.elems.toNat (elemBytes f.mode f.dtype f.vals)) r) →
    (s.pw.stopped = false → exec (.treeUp g n p) s = .next (follows t)) ∧
    (quiet s t = true → exec (.treeUp g n p) s = .next t)) ∧
  (∀ (g n i : Nat) (p : Packet) (u : State) (vals : List Elem) (t0 : TreeCtx) (x f : UpSlot) (l : List (List Elem)) (y : Nat) (b : State) (r : State) (pl : List Byte) (e : Nat) (s t : State),
    i = crIdx p → u = inc (crnCtr g 0) (freeInternal (xC g) p s) → (tree s i).st = 1 → lenOk p = true → e2eGood p = true →
    (treeKids u i).contains n = true → crStatus p = 0 → treeFieldsBad true n p = false → crVals p = some vals →
    upSeq (tree s i) p = some t0 → crChunk p < t0.chunks → inWindow t0 (treeWindow u i) (crChunk p) = true →
    t0.sent.contains (crChunk p) = false → t0.ups.any (fun x => x.chunk == crChunk p && x.got.contains n) = false →
    crMode p ≠ 1 ∨ bitW (treeW u i 0) 20 = true →
    t0.ups.any (fun x => x.chunk == crChunk p && (x.op != crOp p || x.dtype != crDtype p || x.mode != crMode p ||
        x.elems.toNat != crElems p)) = false →
    x = (t0.ups.find? (fun z => z.chunk == crChunk p)).getD
        { chunk := crChunk p, op := crOp p, dtype := crDtype p, mode := crMode p, elems := w32 (crElems p), got := [],
            vals := [], held := [] } →
    x.ecc ≠ .bad →
    l = (List.range 68).filterMap (fun q => (((n, vals) :: x.held).find? (fun z => z.1 == q)).map (fun z => z.2)) →
    f = { x with
          got := n :: x.got,
          held := (if x.mode = 1 then (n, vals) :: x.held else []),
          ecc := .good,
          vals := if x.mode = 1 then (if (treeKids u i).all (fun q => (n :: x.got).contains q) then l.tail.foldl (fun a c
            => List.zipWith (elCombine x.op 1 x.dtype) a c) (l.headD []) else []) else if x.got = [] then vals else
            List.zipWith (elCombine x.op x.mode x.dtype) x.vals vals } →
    y = elemsIn x.mode x.dtype x.elems.toNat x.chunk * sizeOf_ x.dtype →
    b = (if y = 0 then (if x.ecc = .corr then inc (grvBase (treeUnit u i) + 0x48) (setTree i t0 u) else setTree i t0 u)
        else count (crnCtr (treeUnit u i) 6) y (if x.ecc = .corr then inc (grvBase (treeUnit u i) + 0x48) (setTree i t0 u)
        else setTree i t0 u)) →
    (treeKids u i).all (fun q => (n :: x.got).contains q) = true → treeRoot u i = false → x.mode = 2 →
    r = setTree i { t0 with ups := t0.ups.filter (fun z => z.chunk != x.chunk), sent := f.chunk :: t0.sent } (inc (crnCtr
        (treeUnit u i) 4) (setTree i { t0 with ups := t0.ups.filter (fun z => z.chunk != x.chunk) } b)) →
    exPayload f.vals = (pl, e) →
    t = inc (crnCtr (treeUnit u i) 1) (sendTree (treeUnit u i) (treeParent u i) (treePkt true i (treeF u i 0 0 16)
        t0.opSeq.toNat f.op f.dtype f.mode 1 f.chunk 0 f.elems.toNat pl) (if e = 0 then r else count (crnCtr (treeUnit u
        i) 7) e r)) →
    (s.pw.stopped = false → exec (.treeUp g n p) s = .next (follows t)) ∧
    (quiet s t = true → exec (.treeUp g n p) s = .next t)) ∧
  (∀ (g n i : Nat) (p : Packet) (u : State) (vals : List Elem) (t0 : TreeCtx) (s t : State),
    i = crIdx p → u = inc (crnCtr g 0) (freeInternal (xC g) p s) → (tree s i).st = 1 → lenOk p = true → e2eGood p = true →
    (treeKids u i).contains n = true → crStatus p = 0 → treeFieldsBad true n p = false → crVals p = some vals →
    upSeq (tree s i) p = some t0 → crChunk p < t0.chunks → inWindow t0 (treeWindow u i) (crChunk p) = true →
    t0.sent.contains (crChunk p) = false → t0.ups.any (fun x => x.chunk == crChunk p && x.got.contains n) = false →
    (crMode p = 1 ∧ bitW (treeW u i 0) 20 = false) ∨ t0.ups.any (fun x => x.chunk == crChunk p && (x.op != crOp p ||
        x.dtype != crDtype p || x.mode != crMode p || x.elems.toNat != crElems p)) = true →
    t = breakTree i 4 none (setTree i t0 u) →
    (s.pw.stopped = false → exec (.treeUp g n p) s = .next (follows t)) ∧
    (quiet s t = true → exec (.treeUp g n p) s = .next t)) ∧
  (∀ (g n i : Nat) (p : Packet) (u : State) (s t : State),
    i = crIdx p → u = inc (crnCtr g 2) (freeInternal (xC g) p s) →
    (tree s i).st = 0 ∨ ((tree s i).st ≠ 1 ∧ lenOk p = true ∧ e2eGood p = true) →
    t = u →
    (s.pw.stopped = false → exec (.treeDown g n p) s = .next (follows t)) ∧
    (quiet s t = true → exec (.treeDown g n p) s = .next t)) ∧
  (∀ (g n i : Nat) (p : Packet) (u : State) (s t : State),
    i = crIdx p → u = inc (crnCtr g 2) (freeInternal (xC g) p s) → (tree s i).st ≠ 0 → e2eGood p = false →
    t = breakTree i 3 none (inc (crnCtr g 10) (raise (148 + g) 2 (inc (crnCtr g 9) u))) →
    (s.pw.stopped = false → exec (.treeDown g n p) s = .next (follows t)) ∧
    (quiet s t = true → exec (.treeDown g n p) s = .next t)) ∧
  (∀ (g n i : Nat) (p : Packet) (u : State) (s t : State),
    i = crIdx p → u = inc (crnCtr g 2) (freeInternal (xC g) p s) → (tree s i).st ≠ 0 → e2eGood p = true →
    lenOk p = false →
    t = breakTree i 3 none (raise (148 + g) 2 (inc (crnCtr g 9) u)) →
    (s.pw.stopped = false → exec (.treeDown g n p) s = .next (follows t)) ∧
    (quiet s t = true → exec (.treeDown g n p) s = .next t)) ∧
  (∀ (g n i : Nat) (p : Packet) (u : State) (s t : State),
    i = crIdx p → u = inc (crnCtr g 2) (freeInternal (xC g) p s) → (tree s i).st = 1 → lenOk p = true → e2eGood p = true →
    treeRoot u i = true ∨ n ≠ treeParent u i →
    t = breakTree i 3 none (raise (148 + g) 2 (inc (crnCtr g 9) u)) →
    (s.pw.stopped = false → exec (.treeDown g n p) s = .next (follows t)) ∧
    (quiet s t = true → exec (.treeDown g n p) s = .next t)) ∧
  (∀ (g n i : Nat) (p : Packet) (u : State) (s t : State),
    i = crIdx p → u = inc (crnCtr g 2) (freeInternal (xC g) p s) → (tree s i).st = 1 → lenOk p = true → e2eGood p = true →
    treeRoot u i = false → n = treeParent u i → treeFieldsBad false n p = true →
    t = breakTree i 3 none (raise (148 + g) 2 (inc (crnCtr g 9) u)) →
    (s.pw.stopped = false → exec (.treeDown g n p) s = .next (follows t)) ∧
    (quiet s t = true → exec (.treeDown g n p) s = .next t)) ∧
  (∀ (g n i : Nat) (p : Packet) (u : State) (s t : State),
    i = crIdx p → u = inc (crnCtr g 2) (freeInternal (xC g) p s) → (tree s i).st = 1 → lenOk p = true → e2eGood p = true →
    treeRoot u i = false → n = treeParent u i → treeFieldsBad false n p = false → crStatus p = 0 →
    crSeq p ≠ (tree s i).opSeq ∨ (tree s i).started = false ∨ (tree s i).sent.contains (crChunk p) = false ∨ (tree s
        i).downed.contains (crChunk p) = true →
    t = breakTree i 3 none (raise (148 + g) 2 (inc (crnCtr g 9) u)) →
    (s.pw.stopped = false → exec (.treeDown g n p) s = .next (follows t)) ∧
    (quiet s t = true → exec (.treeDown g n p) s = .next t)) ∧
  (∀ (g n i : Nat) (p : Packet) (u : State) (r k : State) (s t : State),
    i = crIdx p → u = inc (crnCtr g 2) (freeInternal (xC g) p s) → (tree s i).st = 1 → lenOk p = true → e2eGood p = true →
    treeRoot u i = false → n = treeParent u i → treeFieldsBad false n p = false → crStatus p = 0 →
    crSeq p = (tree s i).opSeq → (tree s i).started = true → (tree s i).sent.contains (crChunk p) = true →
    (tree s i).downed.contains (crChunk p) = false →
    r = setTree i { tree s i with downed := crChunk p :: (tree s i).downed } u →
    k = (treeKids r i).foldl (fun a c => inc (crnCtr (treeUnit u i) 3) (sendTree (treeUnit u i) c (treePkt false i (treeF
        u i 0 0 16) (crSeq p).toNat (crOp p) (crDtype p) (crMode p) 0 (crChunk p) 0 (crElems p) p.payload) a)) r →
    t = (if k.net.voq.length - r.net.voq.length = 0 then k else setTree i { tree k i with
          downs := { chunk := crChunk p, left := k.net.voq.length - r.net.voq.length } :: (tree k i).downs.filter (fun d
            => d.chunk != crChunk p) } k) →
    (s.pw.stopped = false → exec (.treeDown g n p) s = .next (follows t)) ∧
    (quiet s t = true → exec (.treeDown g n p) s = .next t)) ∧
  (∀ (g n i : Nat) (p : Packet) (u : State) (s t : State),
    i = crIdx p → u = inc (crnCtr g 2) (freeInternal (xC g) p s) → (tree s i).st = 1 → lenOk p = true → e2eGood p = true →
    treeRoot u i = false → n = treeParent u i → treeFieldsBad false n p = false → crStatus p = 1 →
    t = breakTree i 5 none u →
    (s.pw.stopped = false → exec (.treeDown g n p) s = .next (follows t)) ∧
    (quiet s t = true → exec (.treeDown g n p) s = .next t)) ∧
  (∀ (g n i : Nat) (p : Packet) (u : State) (s t : State),
    i = crIdx p → u = inc (crnCtr g 2) (freeInternal (xC g) p s) → (tree s i).st = 1 → lenOk p = true → e2eGood p = true →
    treeRoot u i = false → n = treeParent u i → treeFieldsBad false n p = false → crStatus p = 2 →
    t = breakTree i 4 none u →
    (s.pw.stopped = false → exec (.treeDown g n p) s = .next (follows t)) ∧
    (quiet s t = true → exec (.treeDown g n p) s = .next t))

/-- Exact partial sums combine in any order and any shape with one result. Over the partial sums of R332, whose SPECIAL is
0 to 4 and whose value is 0 when SPECIAL is not 0: combining is commutative and associative, and it gives a partial sum of
R332 again. So the result of an EXACT operation does not depend on the shape of the tree or the order of arrival. -/
def Obligations.ExactSums : Prop :=
  ∀ x y z : Elem,
    (x.special ≤ 4 ∧ (x.special ≠ 0 → x.a = 0)) → (y.special ≤ 4 ∧ (y.special ≠ 0 → y.a = 0)) →
    (z.special ≤ 4 ∧ (z.special ≠ 0 → z.a = 0)) →
    elCombine 0 2 6 x y = elCombine 0 2 6 y x
      ∧ elCombine 0 2 6 (elCombine 0 2 6 x y) z = elCombine 0 2 6 x (elCombine 0 2 6 y z)
      ∧ (elCombine 0 2 6 x y).special ≤ 4
      ∧ ((elCombine 0 2 6 x y).special ≠ 0 → (elCombine 0 2 6 x y).a = 0)

/-- Reading an exact payload gives back the partial sums from which it was made. For every list of at most 96 partial sums
of R332 whose values lie within 320 bits, signed, with SPECIAL 0 to 4 and the value 0 when SPECIAL is not 0, the payload of
R334 that a unit sends is accepted by the parser for that number of elements and reads as the same list, whichever of the
window and full forms each element takes. -/
def Obligations.ExactPayloads : Prop :=
  ∀ xs : List Elem, xs.length ≤ 96 →
    (∀ x ∈ xs, x.special ≤ 4 ∧ (x.special ≠ 0 → x.a = 0) ∧ -(2 ^ 319) ≤ x.a ∧ x.a < 2 ^ 319) →
    exParse xs.length (exPayload xs).1 = some xs

/-- An element of an EXACT type that is no NaN survives conversion to the exact accumulator and rounding back. For FP16,
BF16, FP32, E4M3 and E5M2 and every bit pattern of the type whose conversion is not SPECIAL 4, rounding the exact value of
R332 once to the type, as R335 says, gives the same bits back: subnormals, both zeros and the infinities included. -/
def Obligations.ExactRounding : Prop :=
  ∀ d v : Nat, (d = 4 ∨ d = 5 ∨ d = 6 ∨ d = 8 ∨ d = 9) → v < 2 ^ (8 * sizeOf_ d) →
    (elDecode 2 d v).special ≠ 4 → elEncode 2 d (elDecode 2 d v) = v

/-- A host's scratch writes wait in their identifier's buffer, forward to its own reads, and are performed in order. While
the port is UP, the function is there and PD_Ex_MEM is ON: a BAR4 write inside the function's window is counted and joins
the Bole's write buffer under its identifier, and one beyond the window is dropped with OOB and LOSS; a read beyond the
window returns ones, and one inside it that meets no uncorrectable error in a byte that no buffered write of its identifier
covers returns each byte from the latest such write, else from memory, and counts once each word that it takes from memory
in which the code corrects an error; a read that meets an uncorrectable error returns poison, and counts each word in error
that it takes. WRITE_PERFORMED performs the identifier's oldest write, and changes nothing where it has none. SSM_BARRIER
performs the identifier's buffered writes in their order, leaves the others' buffered, and then answers its LOSS and clears
it. Elsewhere an access changes nothing. -/
def Obligations.ScratchAccess : Prop :=
  (∀ (h fn tc off req : Nat) (bytes : List Byte) (s t : State),
    memServes s h fn = false →
    t = s →
    (s.pw.stopped = false → exec (.scratchHostWrite h fn tc off bytes req) s = .next (follows t)) ∧
    (quiet s t = true → exec (.scratchHostWrite h fn tc off bytes req) s = .next t)) ∧
  (∀ (h fn tc off req : Nat) (len : Nat) (s t : State),
    memServes s h fn = false →
    t = s →
    (s.pw.stopped = false → exec (.scratchHostRead h fn tc off len req) s = .next (follows t)) ∧
    (quiet s t = true → exec (.scratchHostRead h fn tc off len req) s = .next t)) ∧
  (∀ (h fn tc off req : Nat) (bytes : List Byte) (o : Nat) (s t : State),
    memServes s h fn = true → scrOff (inc (ssmCtr (boleOf h) 1) s) (boleOf h) fn off = some o →
    t = setWbuf (boleOf h) (wbufOf s (boleOf h) ++ [{ ident := identOf h req tc, off := o, bytes := bytes }]) (inc (ssmCtr
        (boleOf h) 1) s) →
    (s.pw.stopped = false → exec (.scratchHostWrite h fn tc off bytes req) s = .next (follows t)) ∧
    (quiet s t = true → exec (.scratchHostWrite h fn tc off bytes req) s = .next t)) ∧
  (∀ (h fn tc off req : Nat) (bytes : List Byte) (s t : State),
    memServes s h fn = true → scrOff (inc (ssmCtr (boleOf h) 1) s) (boleOf h) fn off = none →
    t = hostLoss (boleOf h) (identOf h req tc) (ssmCause (boleOf h) 2 (inc (ssmCtr (boleOf h) 6) (inc (ssmCtr (boleOf h)
        1) s))) →
    (s.pw.stopped = false → exec (.scratchHostWrite h fn tc off bytes req) s = .next (follows t)) ∧
    (quiet s t = true → exec (.scratchHostWrite h fn tc off bytes req) s = .next t)) ∧
  (∀ (h fn tc off req : Nat) (len : Nat) (s t : State),
    memServes s h fn = true → scrOff (inc (ssmCtr (boleOf h) 0) s) (boleOf h) fn off = none →
    t = emit (.readData h fn (some (List.replicate len 0xFF))) (ssmCause (boleOf h) 2 (inc (ssmCtr (boleOf h) 6) (inc
        (ssmCtr (boleOf h) 0) s))) →
    (s.pw.stopped = false → exec (.scratchHostRead h fn tc off len req) s = .next (follows t)) ∧
    (quiet s t = true → exec (.scratchHostRead h fn tc off len req) s = .next t)) ∧
  (∀ (h fn tc off req : Nat) (len o : Nat) (s t : State),
    memServes s h fn = true → scrOff (inc (ssmCtr (boleOf h) 0) s) (boleOf h) fn off = some o →
    (∀ k, k < len → (forwarded (identOf h req tc) (o + k) (wbufOf s (boleOf h))).isNone = true → scrStruck s (boleOf h) (o
        + k) = false) →
    t = emit (.readData h fn (some ((List.range len).map (fun k => (forwarded (identOf h req tc) (o + k) (wbufOf s (boleOf
        h))).getD (scrByte s (boleOf h) (o + k)))))) (scrMet (boleOf h) o len (fun k => (forwarded (identOf h req tc) (o +
        k) (wbufOf s (boleOf h))).isNone) (inc (ssmCtr (boleOf h) 0) s)) →
    (s.pw.stopped = false → exec (.scratchHostRead h fn tc off len req) s = .next (follows t)) ∧
    (quiet s t = true → exec (.scratchHostRead h fn tc off len req) s = .next t)) ∧
  (∀ (h fn tc off req : Nat) (len o k : Nat) (s t : State),
    memServes s h fn = true → scrOff (inc (ssmCtr (boleOf h) 0) s) (boleOf h) fn off = some o → k < len →
    forwarded (identOf h req tc) (o + k) (wbufOf s (boleOf h)) = none → scrStruck s (boleOf h) (o + k) = true →
    t = emit (.readData h fn none) (scrEccs (boleOf h) o len (fun k => (forwarded (identOf h req tc) (o + k) (wbufOf s
        (boleOf h))).isNone) (inc (ssmCtr (boleOf h) 0) s)) →
    (s.pw.stopped = false → exec (.scratchHostRead h fn tc off len req) s = .next (follows t)) ∧
    (quiet s t = true → exec (.scratchHostRead h fn tc off len req) s = .next t)) ∧
  (∀ (b ident : Nat) (w : BufWrite) (s t : State),
    domOn s (dMem b) = true → (wbufOf s b).find? (fun w => w.ident == ident) = some w →
    t = performOne b w (setWbuf b ((wbufOf s b).eraseIdx ((wbufOf s b).findIdx (fun w => w.ident == ident))) s) →
    (s.pw.stopped = false → exec (.writePerformed b ident) s = .next (follows t)) ∧
    (quiet s t = true → exec (.writePerformed b ident) s = .next t)) ∧
  (∀ (b ident : Nat) (s t : State),
    domOn s (dMem b) = false ∨ (∀ w ∈ wbufOf s b, w.ident ≠ ident) →
    t = s →
    (s.pw.stopped = false → exec (.writePerformed b ident) s = .next (follows t)) ∧
    (quiet s t = true → exec (.writePerformed b ident) s = .next t)) ∧
  (∀ (h fn tc req : Nat) (s t : State),
    memServes s h fn = false →
    t = s →
    (s.pw.stopped = false → exec (.ssmBarrier h fn tc req) s = .next (follows t)) ∧
    (quiet s t = true → exec (.ssmBarrier h fn tc req) s = .next t)) ∧
  (∀ (h fn tc req : Nat) (u : State) (s t : State),
    memServes s h fn = true →
    u = ((wbufOf s (boleOf h)).filter (fun w => w.ident == identOf h req tc)).foldl (fun v w => performOne (boleOf h) w v)
        (setWbuf (boleOf h) ((wbufOf s (boleOf h)).filter (fun w => w.ident != identOf h req tc)) (inc (ssmCtr (boleOf h)
        4) s)) →
    t = emit (.readData h fn (some (leBytes 4 (b2n (u.scr.loss.contains (lossKey (boleOf h) (identOf h req tc))))))) { u
        with scr.loss := u.scr.loss.filter (· ≠ lossKey (boleOf h) (identOf h req tc)) } →
    (s.pw.stopped = false → exec (.ssmBarrier h fn tc req) s = .next (follows t)) ∧
    (quiet s t = true → exec (.ssmBarrier h fn tc req) s = .next t))

/-- Rights, limits and CLAIM mode of the lock unit. A master without rights is answered NO_RIGHTS, or ignored, and counted.
ACQUIRE in a CLAIM group answers WRONG_MODE. ACQUIRE of another's lock beyond the limit of stalled reads is answered
NOT_GRANTED at once and counted. RELEASE in a CLAIM group is counted in BAD_RELEASES. Where the lock unit does not serve
the function, or the lock number is beyond the last, an access changes nothing. A CLAIM write in a QUEUED group has no
effect (the model's choice, log 102), and one without rights is counted. A CLAIM write takes a FREE lock with its token,
loses against a HELD one, and with token 0 releases the owner's and is counted in BAD_RELEASES from any other master. -/
def Obligations.Locks : Prop :=
  (∀ (h fn l : Nat) (who : Requester) (e : State) (s t : State),
    e = (if domOn s (dMem (boleOf h)) then performAll (boleOf h) (identOf h who.id who.tc) s else s) →
    memServes e h fn = false ∨ 2048 ≤ l →
    t = e →
    (s.pw.stopped = false → exec (.lckAcquire h fn l who) s = .next (follows t)) ∧
    (quiet s t = true → exec (.lckAcquire h fn l who) s = .next t)) ∧
  (∀ (h fn l : Nat) (who : Requester) (e : State) (s t : State),
    e = (if domOn s (dMem (boleOf h)) then performAll (boleOf h) (identOf h who.id who.tc) s else s) →
    memServes e h fn = false ∨ 2048 ≤ l →
    t = e →
    (s.pw.stopped = false → exec (.lckRelease h fn l who) s = .next (follows t)) ∧
    (quiet s t = true → exec (.lckRelease h fn l who) s = .next t)) ∧
  (∀ (h fn l : Nat) (token : BitVec 16) (who : Requester) (e : State) (s t : State),
    e = (if domOn s (dMem (boleOf h)) then performAll (boleOf h) (identOf h who.id who.tc) s else s) →
    memServes e h fn = false ∨ 2048 ≤ l →
    t = e →
    (s.pw.stopped = false → exec (.lckClaim h fn l token who) s = .next (follows t)) ∧
    (quiet s t = true → exec (.lckClaim h fn l token who) s = .next t)) ∧
  (∀ (h fn l : Nat) (token : BitVec 16) (who : Requester) (e : State) (s t : State),
    e = (if domOn s (dMem (boleOf h)) then performAll (boleOf h) (identOf h who.id who.tc) s else s) →
    memServes e h fn = true → l < 2048 → lockRights e (boleOf h) l (masterOf h fn) = false →
    t = lckCause (boleOf h) 3 (inc (lckCtr (boleOf h) 8) e) →
    (s.pw.stopped = false → exec (.lckClaim h fn l token who) s = .next (follows t)) ∧
    (quiet s t = true → exec (.lckClaim h fn l token who) s = .next t)) ∧
  (∀ (h fn l : Nat) (token : BitVec 16) (who : Requester) (e : State) (s t : State),
    e = (if domOn s (dMem (boleOf h)) then performAll (boleOf h) (identOf h who.id who.tc) s else s) →
    memServes e h fn = true → l < 2048 → lockRights e (boleOf h) l (masterOf h fn) = true →
    lockClaims e (boleOf h) l = false →
    t = e →
    (s.pw.stopped = false → exec (.lckClaim h fn l token who) s = .next (follows t)) ∧
    (quiet s t = true → exec (.lckClaim h fn l token who) s = .next t)) ∧
  (∀ (h fn l : Nat) (who : Requester) (e : State) (s t : State),
    e = (if domOn s (dMem (boleOf h)) then performAll (boleOf h) (identOf h who.id who.tc) s else s) →
    memServes e h fn = true → l < 2048 → lockRights e (boleOf h) l (masterOf h fn) = false →
    t = lockAnswer (boleOf h) (masterOf h fn) 0xFFFFFFFD (lckCause (boleOf h) 3 (inc (lckCtr (boleOf h) 8) e)) →
    (s.pw.stopped = false → exec (.lckAcquire h fn l who) s = .next (follows t)) ∧
    (quiet s t = true → exec (.lckAcquire h fn l who) s = .next t)) ∧
  (∀ (h fn l : Nat) (who : Requester) (e : State) (s t : State),
    e = (if domOn s (dMem (boleOf h)) then performAll (boleOf h) (identOf h who.id who.tc) s else s) →
    memServes e h fn = true → l < 2048 → lockRights e (boleOf h) l (masterOf h fn) = true →
    lockClaims e (boleOf h) l = true →
    t = lockAnswer (boleOf h) (masterOf h fn) 0xFFFFFFFC e →
    (s.pw.stopped = false → exec (.lckAcquire h fn l who) s = .next (follows t)) ∧
    (quiet s t = true → exec (.lckAcquire h fn l who) s = .next t)) ∧
  (∀ (h fn l : Nat) (m : Nat) (who : Requester) (e : State) (s t : State),
    e = (if domOn s (dMem (boleOf h)) then performAll (boleOf h) (identOf h who.id who.tc) s else s) →
    memServes e h fn = true → l < 2048 → lockRights e (boleOf h) l (masterOf h fn) = true →
    lockClaims e (boleOf h) l = false → (lockOf e (boleOf h) l).owner = some m → m ≠ (masterOf h fn) →
    256 ≤ stalled e (boleOf h) →
    t = lockAnswer (boleOf h) (masterOf h fn) 0xFFFFFFFE (lckCause (boleOf h) 4 (inc (lckCtr (boleOf h) 9) e)) →
    (s.pw.stopped = false → exec (.lckAcquire h fn l who) s = .next (follows t)) ∧
    (quiet s t = true → exec (.lckAcquire h fn l who) s = .next t)) ∧
  (∀ (h fn l : Nat) (who : Requester) (e : State) (s t : State),
    e = (if domOn s (dMem (boleOf h)) then performAll (boleOf h) (identOf h who.id who.tc) s else s) →
    memServes e h fn = true → l < 2048 → lockRights e (boleOf h) l (masterOf h fn) = false →
    t = lckCause (boleOf h) 3 (inc (lckCtr (boleOf h) 8) e) →
    (s.pw.stopped = false → exec (.lckRelease h fn l who) s = .next (follows t)) ∧
    (quiet s t = true → exec (.lckRelease h fn l who) s = .next t)) ∧
  (∀ (h fn l : Nat) (who : Requester) (e : State) (s t : State),
    e = (if domOn s (dMem (boleOf h)) then performAll (boleOf h) (identOf h who.id who.tc) s else s) →
    memServes e h fn = true → l < 2048 → lockRights e (boleOf h) l (masterOf h fn) = true →
    lockClaims e (boleOf h) l = true →
    t = lckCause (boleOf h) 1 (inc (lckCtr (boleOf h) 4) e) →
    (s.pw.stopped = false → exec (.lckRelease h fn l who) s = .next (follows t)) ∧
    (quiet s t = true → exec (.lckRelease h fn l who) s = .next t)) ∧
  (∀ (h fn l : Nat) (token : BitVec 16) (who : Requester) (e : State) (s t : State),
    e = (if domOn s (dMem (boleOf h)) then performAll (boleOf h) (identOf h who.id who.tc) s else s) →
    memServes e h fn = true → l < 2048 → lockRights e (boleOf h) l (masterOf h fn) = true →
    lockClaims e (boleOf h) l = true → token ≠ 0 → (lockOf e (boleOf h) l).owner = none →
    t = inc (lckCtr (boleOf h) 6) (setLock (boleOf h) l { (lockOf e (boleOf h) l) with
          owner := some (masterOf h fn),
          token := token } e) →
    (s.pw.stopped = false → exec (.lckClaim h fn l token who) s = .next (follows t)) ∧
    (quiet s t = true → exec (.lckClaim h fn l token who) s = .next t)) ∧
  (∀ (h fn l : Nat) (token : BitVec 16) (who : Requester) (e : State) (s t : State),
    e = (if domOn s (dMem (boleOf h)) then performAll (boleOf h) (identOf h who.id who.tc) s else s) →
    memServes e h fn = true → l < 2048 → lockRights e (boleOf h) l (masterOf h fn) = true →
    lockClaims e (boleOf h) l = true → token ≠ 0 → (lockOf e (boleOf h) l).owner ≠ none →
    t = inc (lckCtr (boleOf h) 7) e →
    (s.pw.stopped = false → exec (.lckClaim h fn l token who) s = .next (follows t)) ∧
    (quiet s t = true → exec (.lckClaim h fn l token who) s = .next t)) ∧
  (∀ (h fn l : Nat) (who : Requester) (e : State) (s t : State),
    e = (if domOn s (dMem (boleOf h)) then performAll (boleOf h) (identOf h who.id who.tc) s else s) →
    memServes e h fn = true → l < 2048 → lockRights e (boleOf h) l (masterOf h fn) = true →
    lockClaims e (boleOf h) l = true → (lockOf e (boleOf h) l).owner = some (masterOf h fn) →
    t = inc (lckCtr (boleOf h) 3) (setLock (boleOf h) l { (lockOf e (boleOf h) l) with
          owner := none,
          token := 0,
          orphan := false } e) →
    (s.pw.stopped = false → exec (.lckClaim h fn l 0 who) s = .next (follows t)) ∧
    (quiet s t = true → exec (.lckClaim h fn l 0 who) s = .next t)) ∧
  (∀ (h fn l : Nat) (who : Requester) (e : State) (s t : State),
    e = (if domOn s (dMem (boleOf h)) then performAll (boleOf h) (identOf h who.id who.tc) s else s) →
    memServes e h fn = true → l < 2048 → lockRights e (boleOf h) l (masterOf h fn) = true →
    lockClaims e (boleOf h) l = true → (lockOf e (boleOf h) l).owner ≠ some (masterOf h fn) →
    t = lckCause (boleOf h) 1 (inc (lckCtr (boleOf h) 4) e) →
    (s.pw.stopped = false → exec (.lckClaim h fn l 0 who) s = .next (follows t)) ∧
    (quiet s t = true → exec (.lckClaim h fn l 0 who) s = .next t))

/-- Each lock follows the state machine of R371. In a QUEUED group, with rights: ACQUIRE of a FREE lock raises GRANT_SEQ,
makes the master the owner, answers a grant word that carries stored ORPHANED, and clears it. ACQUIRE by the owner answers
ALREADY_HELD; by another master, under the limit, it stalls and joins the queue's end. RELEASE by the owner raises
GRANT_SEQ and grants the head of the queue with ORPHANED 0, or frees the lock when the queue is empty; by a master that is
not the owner it is ignored, counted in BAD_RELEASES and sets cause BAD_RELEASE. A waiter's stall that reaches 50 us
completes NOT_GRANTED, leaves the queue and is counted. A reset of masters takes reset waiters from the queue without a
completion; when it takes the owner, it is counted in ORPHANS and grants the head of what is left with ORPHANED 1 and
GRANT_SEQ raised, or frees the lock with stored ORPHANED set. -/
def Obligations.LockStateMachine : Prop :=
  (∀ (h fn l : Nat) (who : Requester) (e : State) (s t : State),
    e = (if domOn s (dMem (boleOf h)) then performAll (boleOf h) (identOf h who.id who.tc) s else s) →
    memServes e h fn = true → l < 2048 → lockRights e (boleOf h) l (masterOf h fn) = true →
    lockClaims e (boleOf h) l = false → (lockOf e (boleOf h) l).owner = none →
    t = lockAnswer (boleOf h) (masterOf h fn) (((lockOf e (boleOf h) l).seq + 1).toNat + 2 ^ 16 * b2n (lockOf e (boleOf h)
        l).orphan) (inc (lckCtr (boleOf h) 0) (setLock (boleOf h) l { (lockOf e (boleOf h) l) with
          orphan := false,
          owner := some (masterOf h fn),
          seq := (lockOf e (boleOf h) l).seq + 1 } e)) →
    (s.pw.stopped = false → exec (.lckAcquire h fn l who) s = .next (follows t)) ∧
    (quiet s t = true → exec (.lckAcquire h fn l who) s = .next t)) ∧
  (∀ (h fn l : Nat) (who : Requester) (e : State) (s t : State),
    e = (if domOn s (dMem (boleOf h)) then performAll (boleOf h) (identOf h who.id who.tc) s else s) →
    memServes e h fn = true → l < 2048 → lockRights e (boleOf h) l (masterOf h fn) = true →
    lockClaims e (boleOf h) l = false → (lockOf e (boleOf h) l).owner = some (masterOf h fn) →
    t = lockAnswer (boleOf h) (masterOf h fn) 0xFFFFFFFB e →
    (s.pw.stopped = false → exec (.lckAcquire h fn l who) s = .next (follows t)) ∧
    (quiet s t = true → exec (.lckAcquire h fn l who) s = .next t)) ∧
  (∀ (h fn l : Nat) (m : Nat) (who : Requester) (e : State) (s t : State),
    e = (if domOn s (dMem (boleOf h)) then performAll (boleOf h) (identOf h who.id who.tc) s else s) →
    memServes e h fn = true → l < 2048 → lockRights e (boleOf h) l (masterOf h fn) = true →
    lockClaims e (boleOf h) l = false → (lockOf e (boleOf h) l).owner = some m → m ≠ (masterOf h fn) →
    stalled e (boleOf h) < 256 →
    t = inc (lckCtr (boleOf h) 1) (setLock (boleOf h) l { (lockOf e (boleOf h) l) with
          queue := (lockOf e (boleOf h) l).queue ++ [(masterOf h fn)] } e) →
    (s.pw.stopped = false → exec (.lckAcquire h fn l who) s = .next (follows t)) ∧
    (quiet s t = true → exec (.lckAcquire h fn l who) s = .next t)) ∧
  (∀ (h fn l : Nat) (who : Requester) (e : State) (s t : State),
    e = (if domOn s (dMem (boleOf h)) then performAll (boleOf h) (identOf h who.id who.tc) s else s) →
    memServes e h fn = true → l < 2048 → lockRights e (boleOf h) l (masterOf h fn) = true →
    lockClaims e (boleOf h) l = false → (lockOf e (boleOf h) l).owner = some (masterOf h fn) →
    (lockOf e (boleOf h) l).queue = [] →
    t = setLock (boleOf h) l { (lockOf e (boleOf h) l) with owner := none } (inc (lckCtr (boleOf h) 3) e) →
    (s.pw.stopped = false → exec (.lckRelease h fn l who) s = .next (follows t)) ∧
    (quiet s t = true → exec (.lckRelease h fn l who) s = .next t)) ∧
  (∀ (h fn l : Nat) (m : Nat) (ms : List Nat) (who : Requester) (e : State) (s t : State),
    e = (if domOn s (dMem (boleOf h)) then performAll (boleOf h) (identOf h who.id who.tc) s else s) →
    memServes e h fn = true → l < 2048 → lockRights e (boleOf h) l (masterOf h fn) = true →
    lockClaims e (boleOf h) l = false → (lockOf e (boleOf h) l).owner = some (masterOf h fn) →
    (lockOf e (boleOf h) l).queue = m :: ms →
    t = lockAnswer (boleOf h) m ((lockOf e (boleOf h) l).seq + 1).toNat (inc (lckCtr (boleOf h) 0) (setLock (boleOf h) l {
        (lockOf e (boleOf h) l) with queue := ms, owner := some m, seq := (lockOf e (boleOf h) l).seq + 1 } (inc (lckCtr
        (boleOf h) 3) e))) →
    (s.pw.stopped = false → exec (.lckRelease h fn l who) s = .next (follows t)) ∧
    (quiet s t = true → exec (.lckRelease h fn l who) s = .next t)) ∧
  (∀ (h fn l : Nat) (who : Requester) (e : State) (s t : State),
    e = (if domOn s (dMem (boleOf h)) then performAll (boleOf h) (identOf h who.id who.tc) s else s) →
    memServes e h fn = true → l < 2048 → lockRights e (boleOf h) l (masterOf h fn) = true →
    lockClaims e (boleOf h) l = false → (lockOf e (boleOf h) l).owner ≠ some (masterOf h fn) →
    t = lckCause (boleOf h) 1 (inc (lckCtr (boleOf h) 4) e) →
    (s.pw.stopped = false → exec (.lckRelease h fn l who) s = .next (follows t)) ∧
    (quiet s t = true → exec (.lckRelease h fn l who) s = .next t)) ∧
  (∀ (b l m : Nat) (s t : State),
    (lockOf s b l).queue.contains m = false →
    t = s →
    (s.pw.stopped = false → exec (.acquireTimeout b l m) s = .next (follows t)) ∧
    (quiet s t = true → exec (.acquireTimeout b l m) s = .next t)) ∧
  (∀ (b l m : Nat) (s t : State),
    (lockOf s b l).queue.contains m = true →
    t = lockAnswer b m 0xFFFFFFFE (lckCause b 2 (inc (lckCtr b 2) (setLock b l { lockOf s b l with
          queue := (lockOf s b l).queue.erase m } s))) →
    (s.pw.stopped = false → exec (.acquireTimeout b l m) s = .next (follows t)) ∧
    (quiet s t = true → exec (.acquireTimeout b l m) s = .next t)) ∧
  (∀ (b l m : Nat) (p : Nat → Bool) (s : State), (lockOf s b l).owner = some m → p m = false →
    resetLock b l p s = setLock b l { lockOf s b l with queue := (lockOf s b l).queue.filter (fun x => !p x) } s) ∧
  (∀ (b l m w : Nat) (ws : List Nat) (p : Nat → Bool) (s : State), (lockOf s b l).owner = some m → p m = true →
    (lockOf s b l).queue.filter (fun x => !p x) = w :: ws →
    resetLock b l p s = lockAnswer b w (((lockOf s b l).seq + 1).toNat + 2 ^ 16)
      (inc (lckCtr b 0) (setLock b l { lockOf s b l with queue := ws, owner := some w, seq := (lockOf s b l).seq + 1 }
        (lckCause b 0 (inc (lckCtr b 5) s))))) ∧
  (∀ (b l m : Nat) (p : Nat → Bool) (s : State), (lockOf s b l).owner = some m → p m = true →
    (lockOf s b l).queue.filter (fun x => !p x) = [] →
    resetLock b l p s = setLock b l { lockOf s b l with queue := [], owner := none, token := 0, orphan := true }
      (lckCause b 0 (inc (lckCtr b 5) s)))

/-- GRAFT_STATUS returns the three port sets, ADMIT_PENDING and T. GRAFT_STATUS answers OK with nine result words, words 4
to 12 of the reply: bit n of words 4-5 is the quarantine bit of Pn, bit n of words 6-7 says that Pn is quarantined and UP,
bit n of words 8-9 that it was disabled for a peer mismatch since the last QUARANTINE; word 10 is 1 when an ADMIT is
pending and else 0, and words 11-12 are its T, else zero. Nothing changes but the reply. -/
def Obligations.GraftStatusWords : Prop :=
  (∀ (r : GcpReq) (ws : List Word) (s t : State),
    taken .none false r s = true → ws.length = 9 →
    (∀ n, n < 64 → (wAt ws (0 + n / 32)).getLsbD (n % 32) = (port s n).gr.quar) →
    (∀ n, n < 64 → (wAt ws (2 + n / 32)).getLsbD (n % 32) = ((port s n).gr.quar && (port s n).st == .up)) →
    (∀ n, n < 64 → (wAt ws (4 + n / 32)).getLsbD (n % 32) = (port s n).gr.mism) →
    wAt ws 6 = (if s.net.graft.admission.isSome then 1 else 0) →
    wAt ws 7 = w32 (match s.net.graft.admission with | some a => a.2 | none => 0) →
    wAt ws 8 = w32 ((match s.net.graft.admission with | some a => a.2 | none => 0) / 2 ^ 32) →
    t = ok r ws s →
    (s.pw.stopped = false → exec (.graftStatus r) s = .next (follows t)) ∧
    (quiet s t = true → exec (.graftStatus r) s = .next t))

/-- PRUNE_STATUS returns the draining and drained ports, REMOVE_PENDING and its T. PRUNE_STATUS answers OK with seven
result words, words 4 to 10 of the reply: bit n of words 4-5 says that Pn is draining, bit n of words 6-7 that it is
drained; word 8 is 1 when a REMOVE is pending and else 0, and words 9-10 are its T, else zero. Nothing changes but the
reply. -/
def Obligations.PruneStatusWords : Prop :=
  (∀ (r : GcpReq) (ws : List Word) (s t : State),
    taken .none false r s = true → ws.length = 7 →
    (∀ n, n < 64 → (wAt ws (0 + n / 32)).getLsbD (n % 32) = (port s n).gr.draining) →
    (∀ n, n < 64 → (wAt ws (2 + n / 32)).getLsbD (n % 32) = (port s n).gr.drained) →
    wAt ws 4 = (if s.net.graft.remove.isSome then 1 else 0) →
    wAt ws 5 = w32 (match s.net.graft.remove with | some a => a.2 | none => 0) →
    wAt ws 6 = w32 ((match s.net.graft.remove with | some a => a.2 | none => 0) / 2 ^ 32) →
    t = ok r ws s →
    (s.pw.stopped = false → exec (.pruneStatus r) s = .next (follows t)) ∧
    (quiet s t = true → exec (.pruneStatus r) s = .next t))

/-- The atomic result store holds four entries, and an executed ATOMIC_REQ replaces the one with the oldest PSN. With fewer
than four entries an executed ATOMIC_REQ adds its PSN and original value; with four, exactly one entry makes room for it,
one whose PSN lies farthest behind the end of the receive window, and the others stay in order. So the store never holds
more than four. The execution of an ATOMIC_REQ that answers stores, under the packet's PSN, the value that its ATOMIC_RESP
carries in ORIGINAL. -/
def Obligations.AtomicStore : Prop :=
  (∀ (top psn : Word) (v : BitVec 64) (l : List (Word × BitVec 64)), l.length < 4 →
    keepAtomic top psn v l = l ++ [(psn, v)]) ∧
  (∀ (top psn : Word) (v : BitVec 64) (l : List (Word × BitVec 64)), l.length = 4 →
    ∃ l₁ e l₂, l = l₁ ++ e :: l₂ ∧ keepAtomic top psn v l = l₁ ++ l₂ ++ [(psn, v)] ∧
      ∀ a ∈ l, (top - a.1).toNat ≤ (top - e.1).toNat) ∧
  (∀ (top psn : Word) (v : BitVec 64) (l : List (Word × BitVec 64)), l.length ≤ 4 →
    (keepAtomic top psn v l).length ≤ 4) ∧
  (∀ (h c : Nat) (p : Packet) (m : View) (s t : State) (ty mask : Byte) (ext : List Word) (bs : List Byte),
    execAtomicRx h c p m s = (.resp ty mask ext bs, t) →
    ∃ (old : BitVec 64) (u : State), ext = atomicRespExt p old ∧
      t = updChan h c (fun x => { x with atomics := keepAtomic (x.expect + 2048) p.psn old x.atomics }) u)

/-- A step runs the command at the front of the queue; with none, one cycle of TCLK passes; no command stops the block. For
every command c and state s, a step of s with c at the front of its queue is exec of c on s with the queue's rest. On an
empty queue a step is one tick of the timebase: this is the model's choice (log 1). From every state a step answers a next
state: no command of the table ends in a fault or a refusal. -/
def Obligations.StepRunsTheFront : Prop :=
  (∀ (c : Instr) (cs : List Instr) (s : State), step { s with pending := c :: cs } = exec c { s with pending := cs }) ∧
  (∀ s : State, s.pending = [] → step s = .next (tick s)) ∧
  (∀ s : State, ∃ t, step s = .next t)

/-- The state after reset is what the register tables and the reset rules give. At reset the queue is empty, the firmware
has not booted, no clock runs and every domain is OFF before the straps are sampled; every network port is DISABLED, not
quarantined and not draining; every statistics counter and cause is zero and no unit is fenced; MGC_ALLOW, the event EID,
CNP_NODE_EID and every CNP_HOST_EID read 0x3_FFFF; the alarm policy is 0x15AF, LINKAUTH_THRESH 0x10 and no alarm is
latched; fabric time is UNLOCKED and zero; the inactive bank is OPEN and nothing is staged; every link-key slot is not
VALID; every lock is FREE with an empty queue, and scratch memory reads zero; PRT_CFG.RATE resets to 0 on a -425 and to 1
on a -212; WARN_W is 450 and TWARN_C 95. Not stated here, because the model chose them: the grade itself (log 5), the fuses
(log 6), the NOR (log 7), link keys (log 8), the pins (log 10). -/
def Obligations.ResetState : Prop :=
  State.reset.pending = [] ∧ State.reset.mgmt.fw = .boot ∧ State.reset.pw.refOk = false ∧ State.reset.pw.tapLock = false ∧
  (∀ d, (domain State.reset d).st = .off ∧ (domain State.reset d).target = none) ∧
  (∀ n, (port State.reset n).st = .disabled ∧ (port State.reset n).gr.quar = false ∧
    (port State.reset n).gr.draining = false ∧ (port State.reset n).gr.drained = false) ∧
  (∀ k, Maps.get 0 State.reset.ev.ctr k = 0 ∧ Maps.get 0 State.reset.ev.cause k = 0) ∧
  (∀ u, fenced State.reset u = false) ∧
  (∀ i, Maps.get eidNone State.reset.mgmt.allow i = 0x3FFFF) ∧ State.reset.mgmt.eventEid = 0x3FFFF ∧
  nodeEid State.reset = 0x3FFFF ∧ (∀ h, h < 4 → hostEid State.reset h = 0x3FFFF) ∧
  State.reset.heart.policy = 0x15AF ∧ State.reset.heart.thresh = 0x10 ∧ State.reset.heart.latch = 0 ∧
  State.reset.time.st = .unlocked ∧ State.reset.time.now = 0 ∧
  State.reset.stage.bank = .opened ∧ State.reset.stage.staged = [] ∧
  (∀ n d k, (linkKey State.reset n d k).valid = false) ∧
  (∀ b l, (lockOf State.reset b l).owner = none ∧ (lockOf State.reset b l).queue = []) ∧
  (∀ b o, scrByte State.reset b o = 0) ∧
  (∀ n, n < 64 → rwsF { State.reset with grade425 := true } (prtBase n) 2 1 = 0 ∧
    rwsF { State.reset with grade425 := false } (prtBase n) 2 1 = 1) ∧
  rwsF State.reset 0x07000034 0 10 = 450 ∧ rwsF State.reset 0x07000034 10 8 = 95

/-- What a reply, a finished job and a sent packet leave unchanged. The final reply to a request changes no part of the
router, trees, scratch memory, the Heartwood, power, time or the NOR, and of the controller only its records of replies and
events; of the host side it changes at most which reads of host memory wait, since an atomic whose bytes a reply overwrites
in host memory reads them again (the model's choice, log 129), and nothing where the request did not come through a ring.
The last thing it puts out is the reply: for a request outside a secured session that has results and no read data, with
the request's word 0, the status, the number of meaningful bytes, the details and the results. The end of a job changes of
the host side only its host port, the queues, channels and counters of that port's jobs, and trigger slots where one of
them counts or was fired; of the other host ports at most the waits for such reads, and of the other Bole nothing. A packet
that a channel sends changes none of these parts. Besides these, each changes event records, the ports' crossings and
outputs only. So a statement whose next state is written with them says what its command leaves unchanged. -/
def Obligations.SharedFrames : Prop :=
  (∀ (r : GcpReq) (st d1 d2 : Nat) (res data : List Word) (s t : State), t = finish r st d1 d2 res data s →
    t.pending = s.pending ∧ t.grade425 = s.grade425 ∧ t.net = s.net ∧ t.stage = s.stage ∧ t.trees = s.trees ∧ t.scr = s.scr ∧ t.heart = s.heart ∧ t.time = s.time ∧ t.pw = s.pw ∧ t.nor = s.nor ∧
      t.hs = { s.hs with ports := t.hs.ports } ∧ (ringNo r.via = none → t.hs = s.hs) ∧
      (∀ g, hport t g = { hport s g with waits := (hport t g).waits, nextWait := (hport t g).nextWait, dmaq := (hport t g).dmaq }) ∧
      t.mgmt = { s.mgmt with mseqs := t.mgmt.mseqs, rings := t.mgmt.rings, i3cRpls := t.mgmt.i3cRpls,
                              eseq := t.mgmt.eseq, repeats := t.mgmt.repeats }) ∧
  (∀ (r : GcpReq) (st d1 d2 : Nat) (res : List Word) (s : State), r.secured = false →
    (finish r st d1 d2 res [] s).out.head? = some (.reply r.via r.srcEid ([wAt r.words 0,
      pack [(0, 16, st), (16, 8, min 48 (4 * res.length))], w32 d1, w32 d2] ++ padW 12 res) [])) ∧
  (∀ (h : Nat) (j : Job) (st n d : Nat) (s t : State) (fs : List Job), t = finishJob h j st n d s →
    fs = j :: (hport s h).jobs →
    t.pending = s.pending ∧ t.grade425 = s.grade425 ∧ t.net = s.net ∧ t.stage = s.stage ∧ t.trees = s.trees ∧ t.scr = s.scr ∧ t.heart = s.heart ∧ t.time = s.time ∧ t.pw = s.pw ∧ t.nor = s.nor ∧ t.mgmt = { s.mgmt with eseq := t.mgmt.eseq, repeats := t.mgmt.repeats } ∧
      (∀ g, g ≠ h → hport t g = { hport s g with waits := (hport t g).waits, nextWait := (hport t g).nextWait, dmaq := (hport t g).dmaq }) ∧
      (∀ g, boleOf g ≠ boleOf h → hport t g = hport s g) ∧
      t.hs = { s.hs with ports := t.hs.ports, wqs := t.hs.wqs, chans := t.hs.chans, evctrs := t.hs.evctrs,
                          slots := t.hs.slots } ∧
      (∀ k, (∀ f ∈ fs, k ≠ objKey 20 h f.q) → Maps.get {} t.hs.wqs k = Maps.get {} s.hs.wqs k) ∧
      (∀ k, (∀ f ∈ fs, k ≠ objKey 24 h f.chan) → Maps.get {} t.hs.chans k = Maps.get {} s.hs.chans k) ∧
      (∀ k, (∀ f ∈ fs, ∀ c, f.count = some c → k ≠ objKey 16 h c.1) →
        Maps.get {} t.hs.evctrs k = Maps.get {} s.hs.evctrs k) ∧
      ((∀ f ∈ fs, f.count = none ∧ f.fired = none) → t.hs.evctrs = s.hs.evctrs ∧ t.hs.slots = s.hs.slots)) ∧
  (∀ (h c : Nat) (p : Packet) (s t : State), t = sendOn h c p s →
    t.pending = s.pending ∧ t.grade425 = s.grade425 ∧ t.net = s.net ∧ t.stage = s.stage ∧ t.hs = s.hs ∧ t.trees = s.trees ∧ t.scr = s.scr ∧ t.heart = s.heart ∧ t.time = s.time ∧ t.pw = s.pw ∧ t.nor = s.nor ∧ t.mgmt = { s.mgmt with eseq := t.mgmt.eseq, repeats := t.mgmt.repeats })

/-- A write to scratch memory is what its bytes read back, and changes no other byte. A write of bytes within a Bole's 8
MiB, where no uncorrectable error lies on a word that it touches, is performed whole in its aligned pieces: afterwards
every byte of the range reads as written and every other byte of either Bole as before. An aligned write of 8 bytes does so
whatever errors there are, and clears the word's. A narrower piece on a word in error changes no byte. Each keeps memory in
its canonical form. -/
def Obligations.ScratchReadAfterWrite : Prop :=
  (∀ (b o : Nat) (bs : List Byte) (s : State), o + bs.length ≤ 2 ^ 23 →
    (∀ k, k < bs.length → scrStruck s b (o + k) = false) → Maps.wf 0 s.scr.mem = true →
    (scrWrite b o bs s).2 = false ∧ Maps.wf 0 (scrWrite b o bs s).1.scr.mem = true ∧
      ∀ c x, x < 2 ^ 23 → scrByte (scrWrite b o bs s).1 c x =
        if c = b ∧ o ≤ x ∧ x < o + bs.length then bs.getD (x - o) 0 else scrByte s c x) ∧
  (∀ (b o : Nat) (bs : List Byte) (s : State), o % 8 = 0 → bs.length = 8 → o < 2 ^ 23 →
    (scrPiece b o bs s).2 = false ∧ scrStruck (scrPiece b o bs s).1 b o = false ∧
      ∀ c x, x < 2 ^ 23 → scrByte (scrPiece b o bs s).1 c x =
        if c = b ∧ o ≤ x ∧ x < o + 8 then bs.getD (x - o) 0 else scrByte s c x) ∧
  (∀ (b o : Nat) (bs : List Byte) (s : State), bs.length < 8 → scrStruck s b o = true →
    (scrPiece b o bs s).2 = true ∧ (scrPiece b o bs s).1.scr = s.scr)

/-- Once a packet has executed, the receive window knows its PSN as executed, and that of no other packet. When a packet at
distance d < 2,048 of the window is marked executed and the window slides, its PSN counts as executed from then on; every
PSN that counted as executed, in the window or up to 2^31 - 2,048 behind it, still does; and no other PSN of the old window
does. The window then begins at a PSN that has not executed. So a duplicate is never executed again. -/
def Obligations.ExecutedOnce : Prop :=
  ∀ (h c d : Nat) (p : Packet) (s : State) (x y : Chan), d < 2048 → x = chanOf s h c → y = chanOf (markDone h c d p s) h c →
    psnDone y (x.expect + BitVec.ofNat 32 d) = true ∧
    (∀ e, e < 2048 → x.bitmap.getLsbD e = true → psnDone y (x.expect + BitVec.ofNat 32 e) = true) ∧
    (∀ e, 1 ≤ e → e < 2 ^ 31 - 2048 → psnDone y (x.expect - BitVec.ofNat 32 e) = true) ∧
    (∀ e, e < 2048 → e ≠ d → x.bitmap.getLsbD e = false → psnDone y (x.expect + BitVec.ofNat 32 e) = false) ∧
    y.bitmap.getLsbD 0 = false

/-- No master waits for a lock that nobody owns, or for one of a CLAIM group. At reset no lock that is FREE, or of a CLAIM
group, has a waiter, and every operation of the lock unit keeps that: ACQUIRE, RELEASE, CLAIM, the end of a stall, a reset
of masters, PD_Ex_MEM entering OFF, and the lock-group commands, which refuse a mode change while a lock of the group is
held or has a waiter. So a stalled read is always granted, timed out or reset. -/
def Obligations.LockInvariant : Prop :=
  ∀ I : State → Prop,
    (∀ s, I s ↔ ∀ b l, ((lockOf s b l).owner = none ∨ lockClaims s b l = true) → (lockOf s b l).queue = []) →
    I State.reset ∧
    ∀ s : State, I s →
      (∀ h fn l, I (effLckAcquire h fn l s) ∧ I (effLckRelease h fn l s)) ∧
      (∀ h fn l token, I (effLckClaim h fn l token s)) ∧ (∀ b l m, I (effAcquireTimeout b l m s)) ∧
      (∀ b p, I (resetMasters b p s)) ∧ (∀ b, I (scratchOff b s)) ∧
      (∀ r, taken .none false r s = true → I (effLockMode r s) ∧ I (effLockRights r s))

/-- Once its clocks have stopped, the package's data plane stays halted until a power-on reset. From every state in which
the clocks have stopped, by the loss of REFCLK or of Taproot's lock or by the thermal trip, every step keeps them stopped,
unless the command at the front is a power-on reset or the loss of the always-on supply, which holds the package in one.
Such a step changes no register, no port, table, queue or packet of the router, no tree, no scratch byte or lock, no
host-side object, not fabric time and not the NOR; of a host port only the level at its PERST_N pin can change. -/
def Obligations.StoppedUntilReset : Prop :=
  ∀ s t : State, s.pw.stopped = true → (∀ cs, s.pending ≠ .por :: cs) → (∀ cs, s.pending ≠ .supplyFault .aon :: cs) →
    step s = .next t →
    t.pw.stopped = true ∧ t.net = s.net ∧ t.stage = s.stage ∧ t.trees = s.trees ∧ t.scr = s.scr ∧ t.time = s.time ∧
      t.nor = s.nor ∧ t.hs = { s.hs with ports := t.hs.ports } ∧
      ∀ h, hport t h = { hport s h with perst := (hport t h).perst }
end

