-- ==== Sys2Proof/Laws/State.lean ====
section
/-! SUPPORT. What each update of one place of State leaves as it was: one lemma per update and field. -/

namespace Sys2Proof.Laws
open Sys2Proof.Machine

section
variable (o : Out) (s : State)
@[simp] theorem emit_pending : (emit o s).pending = s.pending := rfl
@[simp] theorem emit_grade425 : (emit o s).grade425 = s.grade425 := rfl
@[simp] theorem emit_net : (emit o s).net = s.net := rfl
@[simp] theorem emit_stage : (emit o s).stage = s.stage := rfl
@[simp] theorem emit_hs : (emit o s).hs = s.hs := rfl
@[simp] theorem emit_trees : (emit o s).trees = s.trees := rfl
@[simp] theorem emit_cross : (emit o s).cross = s.cross := rfl
@[simp] theorem emit_scr : (emit o s).scr = s.scr := rfl
@[simp] theorem emit_heart : (emit o s).heart = s.heart := rfl
@[simp] theorem emit_mgmt : (emit o s).mgmt = s.mgmt := rfl
@[simp] theorem emit_time : (emit o s).time = s.time := rfl
@[simp] theorem emit_ev : (emit o s).ev = s.ev := rfl
@[simp] theorem emit_pw : (emit o s).pw = s.pw := rfl
@[simp] theorem emit_nor : (emit o s).nor = s.nor := rfl
end

section
variable (n : Nat) (r : EvRec) (s : State)
@[simp] theorem setRec_pending : (setRec n r s).pending = s.pending := rfl
@[simp] theorem setRec_out : (setRec n r s).out = s.out := rfl
@[simp] theorem setRec_grade425 : (setRec n r s).grade425 = s.grade425 := rfl
@[simp] theorem setRec_net : (setRec n r s).net = s.net := rfl
@[simp] theorem setRec_stage : (setRec n r s).stage = s.stage := rfl
@[simp] theorem setRec_hs : (setRec n r s).hs = s.hs := rfl
@[simp] theorem setRec_trees : (setRec n r s).trees = s.trees := rfl
@[simp] theorem setRec_cross : (setRec n r s).cross = s.cross := rfl
@[simp] theorem setRec_scr : (setRec n r s).scr = s.scr := rfl
@[simp] theorem setRec_heart : (setRec n r s).heart = s.heart := rfl
@[simp] theorem setRec_mgmt : (setRec n r s).mgmt = s.mgmt := rfl
@[simp] theorem setRec_time : (setRec n r s).time = s.time := rfl
@[simp] theorem setRec_pw : (setRec n r s).pw = s.pw := rfl
@[simp] theorem setRec_nor : (setRec n r s).nor = s.nor := rfl
@[simp] theorem setRec_ev_cause : (setRec n r s).ev.cause = s.ev.cause := rfl
@[simp] theorem setRec_ev_own : (setRec n r s).ev.own = s.ev.own := rfl
@[simp] theorem setRec_ev_fenced : (setRec n r s).ev.fenced = s.ev.fenced := rfl
@[simp] theorem setRec_ev_latch : (setRec n r s).ev.latch = s.ev.latch := rfl
@[simp] theorem setRec_ev_faultLow : (setRec n r s).ev.faultLow = s.ev.faultLow := rfl
@[simp] theorem setRec_ev_faultAt : (setRec n r s).ev.faultAt = s.ev.faultAt := rfl
@[simp] theorem setRec_ev_alive : (setRec n r s).ev.alive = s.ev.alive := rfl
@[simp] theorem setRec_ev_aliveAt : (setRec n r s).ev.aliveAt = s.ev.aliveAt := rfl
@[simp] theorem setRec_ev_aliveHigh : (setRec n r s).ev.aliveHigh = s.ev.aliveHigh := rfl
@[simp] theorem setRec_ev_stopped : (setRec n r s).ev.stopped = s.ev.stopped := rfl
@[simp] theorem setRec_ev_wdogOk : (setRec n r s).ev.wdogOk = s.ev.wdogOk := rfl
@[simp] theorem setRec_ev_hbOk : (setRec n r s).ev.hbOk = s.ev.hbOk := rfl
@[simp] theorem setRec_ev_testOpen : (setRec n r s).ev.testOpen = s.ev.testOpen := rfl
@[simp] theorem setRec_ev_ctr : (setRec n r s).ev.ctr = s.ev.ctr := rfl
@[simp] theorem setRec_ev_sat : (setRec n r s).ev.sat = s.ev.sat := rfl
@[simp] theorem setRec_ev_msixPend : (setRec n r s).ev.msixPend = s.ev.msixPend := rfl
@[simp] theorem setRec_ev_ecc : (setRec n r s).ev.ecc = s.ev.ecc := rfl
@[simp] theorem setRec_ev_corr : (setRec n r s).ev.corr = s.ev.corr := rfl
end

section
variable (n : Nat) (p : Port) (s : State)
@[simp] theorem setPort_pending : (setPort n p s).pending = s.pending := rfl
@[simp] theorem setPort_out : (setPort n p s).out = s.out := rfl
@[simp] theorem setPort_grade425 : (setPort n p s).grade425 = s.grade425 := rfl
@[simp] theorem setPort_stage : (setPort n p s).stage = s.stage := rfl
@[simp] theorem setPort_hs : (setPort n p s).hs = s.hs := rfl
@[simp] theorem setPort_trees : (setPort n p s).trees = s.trees := rfl
@[simp] theorem setPort_cross : (setPort n p s).cross = s.cross := rfl
@[simp] theorem setPort_scr : (setPort n p s).scr = s.scr := rfl
@[simp] theorem setPort_heart : (setPort n p s).heart = s.heart := rfl
@[simp] theorem setPort_mgmt : (setPort n p s).mgmt = s.mgmt := rfl
@[simp] theorem setPort_time : (setPort n p s).time = s.time := rfl
@[simp] theorem setPort_ev : (setPort n p s).ev = s.ev := rfl
@[simp] theorem setPort_pw : (setPort n p s).pw = s.pw := rfl
@[simp] theorem setPort_nor : (setPort n p s).nor = s.nor := rfl
@[simp] theorem setPort_net_boughs : (setPort n p s).net.boughs = s.net.boughs := rfl
@[simp] theorem setPort_net_voq : (setPort n p s).net.voq = s.net.voq := rfl
@[simp] theorem setPort_net_outs : (setPort n p s).net.outs = s.net.outs := rfl
@[simp] theorem setPort_net_meters : (setPort n p s).net.meters = s.net.meters := rfl
@[simp] theorem setPort_net_tel : (setPort n p s).net.tel = s.net.tel := rfl
@[simp] theorem setPort_net_hist : (setPort n p s).net.hist = s.net.hist := rfl
@[simp] theorem setPort_net_histSlot : (setPort n p s).net.histSlot = s.net.histSlot := rfl
@[simp] theorem setPort_net_wrapped : (setPort n p s).net.wrapped = s.net.wrapped := rfl
@[simp] theorem setPort_net_snapSeq : (setPort n p s).net.snapSeq = s.net.snapSeq := rfl
@[simp] theorem setPort_net_backlog : (setPort n p s).net.backlog = s.net.backlog := rfl
@[simp] theorem setPort_net_backMax : (setPort n p s).net.backMax = s.net.backMax := rfl
@[simp] theorem setPort_net_d2d : (setPort n p s).net.d2d = s.net.d2d := rfl
@[simp] theorem setPort_net_graft : (setPort n p s).net.graft = s.net.graft := rfl
end

section
variable (n : Nat) (f : Port → Port) (s : State)
@[simp] theorem updPort_pending : (updPort n f s).pending = s.pending := rfl
@[simp] theorem updPort_out : (updPort n f s).out = s.out := rfl
@[simp] theorem updPort_grade425 : (updPort n f s).grade425 = s.grade425 := rfl
@[simp] theorem updPort_stage : (updPort n f s).stage = s.stage := rfl
@[simp] theorem updPort_hs : (updPort n f s).hs = s.hs := rfl
@[simp] theorem updPort_trees : (updPort n f s).trees = s.trees := rfl
@[simp] theorem updPort_cross : (updPort n f s).cross = s.cross := rfl
@[simp] theorem updPort_scr : (updPort n f s).scr = s.scr := rfl
@[simp] theorem updPort_heart : (updPort n f s).heart = s.heart := rfl
@[simp] theorem updPort_mgmt : (updPort n f s).mgmt = s.mgmt := rfl
@[simp] theorem updPort_time : (updPort n f s).time = s.time := rfl
@[simp] theorem updPort_ev : (updPort n f s).ev = s.ev := rfl
@[simp] theorem updPort_pw : (updPort n f s).pw = s.pw := rfl
@[simp] theorem updPort_nor : (updPort n f s).nor = s.nor := rfl
@[simp] theorem updPort_net_boughs : (updPort n f s).net.boughs = s.net.boughs := rfl
@[simp] theorem updPort_net_voq : (updPort n f s).net.voq = s.net.voq := rfl
@[simp] theorem updPort_net_outs : (updPort n f s).net.outs = s.net.outs := rfl
@[simp] theorem updPort_net_meters : (updPort n f s).net.meters = s.net.meters := rfl
@[simp] theorem updPort_net_tel : (updPort n f s).net.tel = s.net.tel := rfl
@[simp] theorem updPort_net_hist : (updPort n f s).net.hist = s.net.hist := rfl
@[simp] theorem updPort_net_histSlot : (updPort n f s).net.histSlot = s.net.histSlot := rfl
@[simp] theorem updPort_net_wrapped : (updPort n f s).net.wrapped = s.net.wrapped := rfl
@[simp] theorem updPort_net_snapSeq : (updPort n f s).net.snapSeq = s.net.snapSeq := rfl
@[simp] theorem updPort_net_backlog : (updPort n f s).net.backlog = s.net.backlog := rfl
@[simp] theorem updPort_net_backMax : (updPort n f s).net.backMax = s.net.backMax := rfl
@[simp] theorem updPort_net_d2d : (updPort n f s).net.d2d = s.net.d2d := rfl
@[simp] theorem updPort_net_graft : (updPort n f s).net.graft = s.net.graft := rfl
end

section
variable (n : Nat) (f : Output → Output) (s : State)
@[simp] theorem updOut_pending : (updOut n f s).pending = s.pending := rfl
@[simp] theorem updOut_out : (updOut n f s).out = s.out := rfl
@[simp] theorem updOut_grade425 : (updOut n f s).grade425 = s.grade425 := rfl
@[simp] theorem updOut_stage : (updOut n f s).stage = s.stage := rfl
@[simp] theorem updOut_hs : (updOut n f s).hs = s.hs := rfl
@[simp] theorem updOut_trees : (updOut n f s).trees = s.trees := rfl
@[simp] theorem updOut_cross : (updOut n f s).cross = s.cross := rfl
@[simp] theorem updOut_scr : (updOut n f s).scr = s.scr := rfl
@[simp] theorem updOut_heart : (updOut n f s).heart = s.heart := rfl
@[simp] theorem updOut_mgmt : (updOut n f s).mgmt = s.mgmt := rfl
@[simp] theorem updOut_time : (updOut n f s).time = s.time := rfl
@[simp] theorem updOut_ev : (updOut n f s).ev = s.ev := rfl
@[simp] theorem updOut_pw : (updOut n f s).pw = s.pw := rfl
@[simp] theorem updOut_nor : (updOut n f s).nor = s.nor := rfl
@[simp] theorem updOut_net_ports : (updOut n f s).net.ports = s.net.ports := rfl
@[simp] theorem updOut_net_boughs : (updOut n f s).net.boughs = s.net.boughs := rfl
@[simp] theorem updOut_net_voq : (updOut n f s).net.voq = s.net.voq := rfl
@[simp] theorem updOut_net_meters : (updOut n f s).net.meters = s.net.meters := rfl
@[simp] theorem updOut_net_tel : (updOut n f s).net.tel = s.net.tel := rfl
@[simp] theorem updOut_net_hist : (updOut n f s).net.hist = s.net.hist := rfl
@[simp] theorem updOut_net_histSlot : (updOut n f s).net.histSlot = s.net.histSlot := rfl
@[simp] theorem updOut_net_wrapped : (updOut n f s).net.wrapped = s.net.wrapped := rfl
@[simp] theorem updOut_net_snapSeq : (updOut n f s).net.snapSeq = s.net.snapSeq := rfl
@[simp] theorem updOut_net_backlog : (updOut n f s).net.backlog = s.net.backlog := rfl
@[simp] theorem updOut_net_backMax : (updOut n f s).net.backMax = s.net.backMax := rfl
@[simp] theorem updOut_net_d2d : (updOut n f s).net.d2d = s.net.d2d := rfl
@[simp] theorem updOut_net_graft : (updOut n f s).net.graft = s.net.graft := rfl
end

section
variable (f : Graft → Graft) (s : State)
@[simp] theorem updGraft_pending : (updGraft f s).pending = s.pending := rfl
@[simp] theorem updGraft_out : (updGraft f s).out = s.out := rfl
@[simp] theorem updGraft_grade425 : (updGraft f s).grade425 = s.grade425 := rfl
@[simp] theorem updGraft_stage : (updGraft f s).stage = s.stage := rfl
@[simp] theorem updGraft_hs : (updGraft f s).hs = s.hs := rfl
@[simp] theorem updGraft_trees : (updGraft f s).trees = s.trees := rfl
@[simp] theorem updGraft_cross : (updGraft f s).cross = s.cross := rfl
@[simp] theorem updGraft_scr : (updGraft f s).scr = s.scr := rfl
@[simp] theorem updGraft_heart : (updGraft f s).heart = s.heart := rfl
@[simp] theorem updGraft_mgmt : (updGraft f s).mgmt = s.mgmt := rfl
@[simp] theorem updGraft_time : (updGraft f s).time = s.time := rfl
@[simp] theorem updGraft_ev : (updGraft f s).ev = s.ev := rfl
@[simp] theorem updGraft_pw : (updGraft f s).pw = s.pw := rfl
@[simp] theorem updGraft_nor : (updGraft f s).nor = s.nor := rfl
@[simp] theorem updGraft_net_ports : (updGraft f s).net.ports = s.net.ports := rfl
@[simp] theorem updGraft_net_boughs : (updGraft f s).net.boughs = s.net.boughs := rfl
@[simp] theorem updGraft_net_voq : (updGraft f s).net.voq = s.net.voq := rfl
@[simp] theorem updGraft_net_outs : (updGraft f s).net.outs = s.net.outs := rfl
@[simp] theorem updGraft_net_meters : (updGraft f s).net.meters = s.net.meters := rfl
@[simp] theorem updGraft_net_tel : (updGraft f s).net.tel = s.net.tel := rfl
@[simp] theorem updGraft_net_hist : (updGraft f s).net.hist = s.net.hist := rfl
@[simp] theorem updGraft_net_histSlot : (updGraft f s).net.histSlot = s.net.histSlot := rfl
@[simp] theorem updGraft_net_wrapped : (updGraft f s).net.wrapped = s.net.wrapped := rfl
@[simp] theorem updGraft_net_snapSeq : (updGraft f s).net.snapSeq = s.net.snapSeq := rfl
@[simp] theorem updGraft_net_backlog : (updGraft f s).net.backlog = s.net.backlog := rfl
@[simp] theorem updGraft_net_backMax : (updGraft f s).net.backMax = s.net.backMax := rfl
@[simp] theorem updGraft_net_d2d : (updGraft f s).net.d2d = s.net.d2d := rfl
end

section
variable (n : Nat) (f : PortGraft → PortGraft) (s : State)
@[simp] theorem updGr_pending : (updGr n f s).pending = s.pending := rfl
@[simp] theorem updGr_out : (updGr n f s).out = s.out := rfl
@[simp] theorem updGr_grade425 : (updGr n f s).grade425 = s.grade425 := rfl
@[simp] theorem updGr_stage : (updGr n f s).stage = s.stage := rfl
@[simp] theorem updGr_hs : (updGr n f s).hs = s.hs := rfl
@[simp] theorem updGr_trees : (updGr n f s).trees = s.trees := rfl
@[simp] theorem updGr_cross : (updGr n f s).cross = s.cross := rfl
@[simp] theorem updGr_scr : (updGr n f s).scr = s.scr := rfl
@[simp] theorem updGr_heart : (updGr n f s).heart = s.heart := rfl
@[simp] theorem updGr_mgmt : (updGr n f s).mgmt = s.mgmt := rfl
@[simp] theorem updGr_time : (updGr n f s).time = s.time := rfl
@[simp] theorem updGr_ev : (updGr n f s).ev = s.ev := rfl
@[simp] theorem updGr_pw : (updGr n f s).pw = s.pw := rfl
@[simp] theorem updGr_nor : (updGr n f s).nor = s.nor := rfl
@[simp] theorem updGr_net_boughs : (updGr n f s).net.boughs = s.net.boughs := rfl
@[simp] theorem updGr_net_voq : (updGr n f s).net.voq = s.net.voq := rfl
@[simp] theorem updGr_net_outs : (updGr n f s).net.outs = s.net.outs := rfl
@[simp] theorem updGr_net_meters : (updGr n f s).net.meters = s.net.meters := rfl
@[simp] theorem updGr_net_tel : (updGr n f s).net.tel = s.net.tel := rfl
@[simp] theorem updGr_net_hist : (updGr n f s).net.hist = s.net.hist := rfl
@[simp] theorem updGr_net_histSlot : (updGr n f s).net.histSlot = s.net.histSlot := rfl
@[simp] theorem updGr_net_wrapped : (updGr n f s).net.wrapped = s.net.wrapped := rfl
@[simp] theorem updGr_net_snapSeq : (updGr n f s).net.snapSeq = s.net.snapSeq := rfl
@[simp] theorem updGr_net_backlog : (updGr n f s).net.backlog = s.net.backlog := rfl
@[simp] theorem updGr_net_backMax : (updGr n f s).net.backMax = s.net.backMax := rfl
@[simp] theorem updGr_net_d2d : (updGr n f s).net.d2d = s.net.d2d := rfl
@[simp] theorem updGr_net_graft : (updGr n f s).net.graft = s.net.graft := rfl
end

section
variable (h : Nat) (f : HostPort → HostPort) (s : State)
@[simp] theorem updHost_pending : (updHost h f s).pending = s.pending := rfl
@[simp] theorem updHost_out : (updHost h f s).out = s.out := rfl
@[simp] theorem updHost_grade425 : (updHost h f s).grade425 = s.grade425 := rfl
@[simp] theorem updHost_net : (updHost h f s).net = s.net := rfl
@[simp] theorem updHost_stage : (updHost h f s).stage = s.stage := rfl
@[simp] theorem updHost_trees : (updHost h f s).trees = s.trees := rfl
@[simp] theorem updHost_cross : (updHost h f s).cross = s.cross := rfl
@[simp] theorem updHost_scr : (updHost h f s).scr = s.scr := rfl
@[simp] theorem updHost_heart : (updHost h f s).heart = s.heart := rfl
@[simp] theorem updHost_mgmt : (updHost h f s).mgmt = s.mgmt := rfl
@[simp] theorem updHost_time : (updHost h f s).time = s.time := rfl
@[simp] theorem updHost_ev : (updHost h f s).ev = s.ev := rfl
@[simp] theorem updHost_pw : (updHost h f s).pw = s.pw := rfl
@[simp] theorem updHost_nor : (updHost h f s).nor = s.nor := rfl
@[simp] theorem updHost_hs_bar : (updHost h f s).hs.bar = s.hs.bar := rfl
@[simp] theorem updHost_hs_wqs : (updHost h f s).hs.wqs = s.hs.wqs := rfl
@[simp] theorem updHost_hs_cqs : (updHost h f s).hs.cqs = s.hs.cqs := rfl
@[simp] theorem updHost_hs_regions : (updHost h f s).hs.regions = s.hs.regions := rfl
@[simp] theorem updHost_hs_mrCache : (updHost h f s).hs.mrCache = s.hs.mrCache := rfl
@[simp] theorem updHost_hs_xctx : (updHost h f s).hs.xctx = s.hs.xctx := rfl
@[simp] theorem updHost_hs_xl : (updHost h f s).hs.xl = s.hs.xl := rfl
@[simp] theorem updHost_hs_chans : (updHost h f s).hs.chans = s.hs.chans := rfl
@[simp] theorem updHost_hs_posted : (updHost h f s).hs.posted = s.hs.posted := rfl
@[simp] theorem updHost_hs_unexp : (updHost h f s).hs.unexp = s.hs.unexp := rfl
@[simp] theorem updHost_hs_evctrs : (updHost h f s).hs.evctrs = s.hs.evctrs := rfl
@[simp] theorem updHost_hs_slots : (updHost h f s).hs.slots = s.hs.slots := rfl
@[simp] theorem updHost_hs_binds : (updHost h f s).hs.binds = s.hs.binds := rfl
@[simp] theorem updHost_hs_uses : (updHost h f s).hs.uses = s.hs.uses := rfl
end

section
variable (h j : Nat) (f : Job → Job) (s : State)
@[simp] theorem updJob_pending : (updJob h j f s).pending = s.pending := rfl
@[simp] theorem updJob_out : (updJob h j f s).out = s.out := rfl
@[simp] theorem updJob_grade425 : (updJob h j f s).grade425 = s.grade425 := rfl
@[simp] theorem updJob_net : (updJob h j f s).net = s.net := rfl
@[simp] theorem updJob_stage : (updJob h j f s).stage = s.stage := rfl
@[simp] theorem updJob_trees : (updJob h j f s).trees = s.trees := rfl
@[simp] theorem updJob_cross : (updJob h j f s).cross = s.cross := rfl
@[simp] theorem updJob_scr : (updJob h j f s).scr = s.scr := rfl
@[simp] theorem updJob_heart : (updJob h j f s).heart = s.heart := rfl
@[simp] theorem updJob_mgmt : (updJob h j f s).mgmt = s.mgmt := rfl
@[simp] theorem updJob_time : (updJob h j f s).time = s.time := rfl
@[simp] theorem updJob_ev : (updJob h j f s).ev = s.ev := rfl
@[simp] theorem updJob_pw : (updJob h j f s).pw = s.pw := rfl
@[simp] theorem updJob_nor : (updJob h j f s).nor = s.nor := rfl
@[simp] theorem updJob_hs_bar : (updJob h j f s).hs.bar = s.hs.bar := rfl
@[simp] theorem updJob_hs_wqs : (updJob h j f s).hs.wqs = s.hs.wqs := rfl
@[simp] theorem updJob_hs_cqs : (updJob h j f s).hs.cqs = s.hs.cqs := rfl
@[simp] theorem updJob_hs_regions : (updJob h j f s).hs.regions = s.hs.regions := rfl
@[simp] theorem updJob_hs_mrCache : (updJob h j f s).hs.mrCache = s.hs.mrCache := rfl
@[simp] theorem updJob_hs_xctx : (updJob h j f s).hs.xctx = s.hs.xctx := rfl
@[simp] theorem updJob_hs_xl : (updJob h j f s).hs.xl = s.hs.xl := rfl
@[simp] theorem updJob_hs_chans : (updJob h j f s).hs.chans = s.hs.chans := rfl
@[simp] theorem updJob_hs_posted : (updJob h j f s).hs.posted = s.hs.posted := rfl
@[simp] theorem updJob_hs_unexp : (updJob h j f s).hs.unexp = s.hs.unexp := rfl
@[simp] theorem updJob_hs_evctrs : (updJob h j f s).hs.evctrs = s.hs.evctrs := rfl
@[simp] theorem updJob_hs_slots : (updJob h j f s).hs.slots = s.hs.slots := rfl
@[simp] theorem updJob_hs_binds : (updJob h j f s).hs.binds = s.hs.binds := rfl
@[simp] theorem updJob_hs_uses : (updJob h j f s).hs.uses = s.hs.uses := rfl
end

section
variable (h q : Nat) (w : Wq) (s : State)
@[simp] theorem setWq_pending : (setWq h q w s).pending = s.pending := rfl
@[simp] theorem setWq_out : (setWq h q w s).out = s.out := rfl
@[simp] theorem setWq_grade425 : (setWq h q w s).grade425 = s.grade425 := rfl
@[simp] theorem setWq_net : (setWq h q w s).net = s.net := rfl
@[simp] theorem setWq_stage : (setWq h q w s).stage = s.stage := rfl
@[simp] theorem setWq_trees : (setWq h q w s).trees = s.trees := rfl
@[simp] theorem setWq_cross : (setWq h q w s).cross = s.cross := rfl
@[simp] theorem setWq_scr : (setWq h q w s).scr = s.scr := rfl
@[simp] theorem setWq_heart : (setWq h q w s).heart = s.heart := rfl
@[simp] theorem setWq_mgmt : (setWq h q w s).mgmt = s.mgmt := rfl
@[simp] theorem setWq_time : (setWq h q w s).time = s.time := rfl
@[simp] theorem setWq_ev : (setWq h q w s).ev = s.ev := rfl
@[simp] theorem setWq_pw : (setWq h q w s).pw = s.pw := rfl
@[simp] theorem setWq_nor : (setWq h q w s).nor = s.nor := rfl
@[simp] theorem setWq_hs_ports : (setWq h q w s).hs.ports = s.hs.ports := rfl
@[simp] theorem setWq_hs_bar : (setWq h q w s).hs.bar = s.hs.bar := rfl
@[simp] theorem setWq_hs_cqs : (setWq h q w s).hs.cqs = s.hs.cqs := rfl
@[simp] theorem setWq_hs_regions : (setWq h q w s).hs.regions = s.hs.regions := rfl
@[simp] theorem setWq_hs_mrCache : (setWq h q w s).hs.mrCache = s.hs.mrCache := rfl
@[simp] theorem setWq_hs_xctx : (setWq h q w s).hs.xctx = s.hs.xctx := rfl
@[simp] theorem setWq_hs_xl : (setWq h q w s).hs.xl = s.hs.xl := rfl
@[simp] theorem setWq_hs_chans : (setWq h q w s).hs.chans = s.hs.chans := rfl
@[simp] theorem setWq_hs_posted : (setWq h q w s).hs.posted = s.hs.posted := rfl
@[simp] theorem setWq_hs_unexp : (setWq h q w s).hs.unexp = s.hs.unexp := rfl
@[simp] theorem setWq_hs_evctrs : (setWq h q w s).hs.evctrs = s.hs.evctrs := rfl
@[simp] theorem setWq_hs_slots : (setWq h q w s).hs.slots = s.hs.slots := rfl
@[simp] theorem setWq_hs_binds : (setWq h q w s).hs.binds = s.hs.binds := rfl
@[simp] theorem setWq_hs_uses : (setWq h q w s).hs.uses = s.hs.uses := rfl
end

section
variable (h q : Nat) (f : Wq → Wq) (s : State)
@[simp] theorem updWq_pending : (updWq h q f s).pending = s.pending := rfl
@[simp] theorem updWq_out : (updWq h q f s).out = s.out := rfl
@[simp] theorem updWq_grade425 : (updWq h q f s).grade425 = s.grade425 := rfl
@[simp] theorem updWq_net : (updWq h q f s).net = s.net := rfl
@[simp] theorem updWq_stage : (updWq h q f s).stage = s.stage := rfl
@[simp] theorem updWq_trees : (updWq h q f s).trees = s.trees := rfl
@[simp] theorem updWq_cross : (updWq h q f s).cross = s.cross := rfl
@[simp] theorem updWq_scr : (updWq h q f s).scr = s.scr := rfl
@[simp] theorem updWq_heart : (updWq h q f s).heart = s.heart := rfl
@[simp] theorem updWq_mgmt : (updWq h q f s).mgmt = s.mgmt := rfl
@[simp] theorem updWq_time : (updWq h q f s).time = s.time := rfl
@[simp] theorem updWq_ev : (updWq h q f s).ev = s.ev := rfl
@[simp] theorem updWq_pw : (updWq h q f s).pw = s.pw := rfl
@[simp] theorem updWq_nor : (updWq h q f s).nor = s.nor := rfl
@[simp] theorem updWq_hs_ports : (updWq h q f s).hs.ports = s.hs.ports := rfl
@[simp] theorem updWq_hs_bar : (updWq h q f s).hs.bar = s.hs.bar := rfl
@[simp] theorem updWq_hs_cqs : (updWq h q f s).hs.cqs = s.hs.cqs := rfl
@[simp] theorem updWq_hs_regions : (updWq h q f s).hs.regions = s.hs.regions := rfl
@[simp] theorem updWq_hs_mrCache : (updWq h q f s).hs.mrCache = s.hs.mrCache := rfl
@[simp] theorem updWq_hs_xctx : (updWq h q f s).hs.xctx = s.hs.xctx := rfl
@[simp] theorem updWq_hs_xl : (updWq h q f s).hs.xl = s.hs.xl := rfl
@[simp] theorem updWq_hs_chans : (updWq h q f s).hs.chans = s.hs.chans := rfl
@[simp] theorem updWq_hs_posted : (updWq h q f s).hs.posted = s.hs.posted := rfl
@[simp] theorem updWq_hs_unexp : (updWq h q f s).hs.unexp = s.hs.unexp := rfl
@[simp] theorem updWq_hs_evctrs : (updWq h q f s).hs.evctrs = s.hs.evctrs := rfl
@[simp] theorem updWq_hs_slots : (updWq h q f s).hs.slots = s.hs.slots := rfl
@[simp] theorem updWq_hs_binds : (updWq h q f s).hs.binds = s.hs.binds := rfl
@[simp] theorem updWq_hs_uses : (updWq h q f s).hs.uses = s.hs.uses := rfl
end

section
variable (h q : Nat) (c : Cq) (s : State)
@[simp] theorem setCq_pending : (setCq h q c s).pending = s.pending := rfl
@[simp] theorem setCq_out : (setCq h q c s).out = s.out := rfl
@[simp] theorem setCq_grade425 : (setCq h q c s).grade425 = s.grade425 := rfl
@[simp] theorem setCq_net : (setCq h q c s).net = s.net := rfl
@[simp] theorem setCq_stage : (setCq h q c s).stage = s.stage := rfl
@[simp] theorem setCq_trees : (setCq h q c s).trees = s.trees := rfl
@[simp] theorem setCq_cross : (setCq h q c s).cross = s.cross := rfl
@[simp] theorem setCq_scr : (setCq h q c s).scr = s.scr := rfl
@[simp] theorem setCq_heart : (setCq h q c s).heart = s.heart := rfl
@[simp] theorem setCq_mgmt : (setCq h q c s).mgmt = s.mgmt := rfl
@[simp] theorem setCq_time : (setCq h q c s).time = s.time := rfl
@[simp] theorem setCq_ev : (setCq h q c s).ev = s.ev := rfl
@[simp] theorem setCq_pw : (setCq h q c s).pw = s.pw := rfl
@[simp] theorem setCq_nor : (setCq h q c s).nor = s.nor := rfl
@[simp] theorem setCq_hs_ports : (setCq h q c s).hs.ports = s.hs.ports := rfl
@[simp] theorem setCq_hs_bar : (setCq h q c s).hs.bar = s.hs.bar := rfl
@[simp] theorem setCq_hs_wqs : (setCq h q c s).hs.wqs = s.hs.wqs := rfl
@[simp] theorem setCq_hs_regions : (setCq h q c s).hs.regions = s.hs.regions := rfl
@[simp] theorem setCq_hs_mrCache : (setCq h q c s).hs.mrCache = s.hs.mrCache := rfl
@[simp] theorem setCq_hs_xctx : (setCq h q c s).hs.xctx = s.hs.xctx := rfl
@[simp] theorem setCq_hs_xl : (setCq h q c s).hs.xl = s.hs.xl := rfl
@[simp] theorem setCq_hs_chans : (setCq h q c s).hs.chans = s.hs.chans := rfl
@[simp] theorem setCq_hs_posted : (setCq h q c s).hs.posted = s.hs.posted := rfl
@[simp] theorem setCq_hs_unexp : (setCq h q c s).hs.unexp = s.hs.unexp := rfl
@[simp] theorem setCq_hs_evctrs : (setCq h q c s).hs.evctrs = s.hs.evctrs := rfl
@[simp] theorem setCq_hs_slots : (setCq h q c s).hs.slots = s.hs.slots := rfl
@[simp] theorem setCq_hs_binds : (setCq h q c s).hs.binds = s.hs.binds := rfl
@[simp] theorem setCq_hs_uses : (setCq h q c s).hs.uses = s.hs.uses := rfl
end

section
variable (h q : Nat) (f : Cq → Cq) (s : State)
@[simp] theorem updCq_pending : (updCq h q f s).pending = s.pending := rfl
@[simp] theorem updCq_out : (updCq h q f s).out = s.out := rfl
@[simp] theorem updCq_grade425 : (updCq h q f s).grade425 = s.grade425 := rfl
@[simp] theorem updCq_net : (updCq h q f s).net = s.net := rfl
@[simp] theorem updCq_stage : (updCq h q f s).stage = s.stage := rfl
@[simp] theorem updCq_trees : (updCq h q f s).trees = s.trees := rfl
@[simp] theorem updCq_cross : (updCq h q f s).cross = s.cross := rfl
@[simp] theorem updCq_scr : (updCq h q f s).scr = s.scr := rfl
@[simp] theorem updCq_heart : (updCq h q f s).heart = s.heart := rfl
@[simp] theorem updCq_mgmt : (updCq h q f s).mgmt = s.mgmt := rfl
@[simp] theorem updCq_time : (updCq h q f s).time = s.time := rfl
@[simp] theorem updCq_ev : (updCq h q f s).ev = s.ev := rfl
@[simp] theorem updCq_pw : (updCq h q f s).pw = s.pw := rfl
@[simp] theorem updCq_nor : (updCq h q f s).nor = s.nor := rfl
@[simp] theorem updCq_hs_ports : (updCq h q f s).hs.ports = s.hs.ports := rfl
@[simp] theorem updCq_hs_bar : (updCq h q f s).hs.bar = s.hs.bar := rfl
@[simp] theorem updCq_hs_wqs : (updCq h q f s).hs.wqs = s.hs.wqs := rfl
@[simp] theorem updCq_hs_regions : (updCq h q f s).hs.regions = s.hs.regions := rfl
@[simp] theorem updCq_hs_mrCache : (updCq h q f s).hs.mrCache = s.hs.mrCache := rfl
@[simp] theorem updCq_hs_xctx : (updCq h q f s).hs.xctx = s.hs.xctx := rfl
@[simp] theorem updCq_hs_xl : (updCq h q f s).hs.xl = s.hs.xl := rfl
@[simp] theorem updCq_hs_chans : (updCq h q f s).hs.chans = s.hs.chans := rfl
@[simp] theorem updCq_hs_posted : (updCq h q f s).hs.posted = s.hs.posted := rfl
@[simp] theorem updCq_hs_unexp : (updCq h q f s).hs.unexp = s.hs.unexp := rfl
@[simp] theorem updCq_hs_evctrs : (updCq h q f s).hs.evctrs = s.hs.evctrs := rfl
@[simp] theorem updCq_hs_slots : (updCq h q f s).hs.slots = s.hs.slots := rfl
@[simp] theorem updCq_hs_binds : (updCq h q f s).hs.binds = s.hs.binds := rfl
@[simp] theorem updCq_hs_uses : (updCq h q f s).hs.uses = s.hs.uses := rfl
end

section
variable (h c : Nat) (x : Chan) (s : State)
@[simp] theorem setChan_pending : (setChan h c x s).pending = s.pending := rfl
@[simp] theorem setChan_out : (setChan h c x s).out = s.out := rfl
@[simp] theorem setChan_grade425 : (setChan h c x s).grade425 = s.grade425 := rfl
@[simp] theorem setChan_net : (setChan h c x s).net = s.net := rfl
@[simp] theorem setChan_stage : (setChan h c x s).stage = s.stage := rfl
@[simp] theorem setChan_trees : (setChan h c x s).trees = s.trees := rfl
@[simp] theorem setChan_cross : (setChan h c x s).cross = s.cross := rfl
@[simp] theorem setChan_scr : (setChan h c x s).scr = s.scr := rfl
@[simp] theorem setChan_heart : (setChan h c x s).heart = s.heart := rfl
@[simp] theorem setChan_mgmt : (setChan h c x s).mgmt = s.mgmt := rfl
@[simp] theorem setChan_time : (setChan h c x s).time = s.time := rfl
@[simp] theorem setChan_ev : (setChan h c x s).ev = s.ev := rfl
@[simp] theorem setChan_pw : (setChan h c x s).pw = s.pw := rfl
@[simp] theorem setChan_nor : (setChan h c x s).nor = s.nor := rfl
@[simp] theorem setChan_hs_ports : (setChan h c x s).hs.ports = s.hs.ports := rfl
@[simp] theorem setChan_hs_bar : (setChan h c x s).hs.bar = s.hs.bar := rfl
@[simp] theorem setChan_hs_wqs : (setChan h c x s).hs.wqs = s.hs.wqs := rfl
@[simp] theorem setChan_hs_cqs : (setChan h c x s).hs.cqs = s.hs.cqs := rfl
@[simp] theorem setChan_hs_regions : (setChan h c x s).hs.regions = s.hs.regions := rfl
@[simp] theorem setChan_hs_mrCache : (setChan h c x s).hs.mrCache = s.hs.mrCache := rfl
@[simp] theorem setChan_hs_xctx : (setChan h c x s).hs.xctx = s.hs.xctx := rfl
@[simp] theorem setChan_hs_xl : (setChan h c x s).hs.xl = s.hs.xl := rfl
@[simp] theorem setChan_hs_posted : (setChan h c x s).hs.posted = s.hs.posted := rfl
@[simp] theorem setChan_hs_unexp : (setChan h c x s).hs.unexp = s.hs.unexp := rfl
@[simp] theorem setChan_hs_evctrs : (setChan h c x s).hs.evctrs = s.hs.evctrs := rfl
@[simp] theorem setChan_hs_slots : (setChan h c x s).hs.slots = s.hs.slots := rfl
@[simp] theorem setChan_hs_binds : (setChan h c x s).hs.binds = s.hs.binds := rfl
@[simp] theorem setChan_hs_uses : (setChan h c x s).hs.uses = s.hs.uses := rfl
end

section
variable (h c : Nat) (f : Chan → Chan) (s : State)
@[simp] theorem updChan_pending : (updChan h c f s).pending = s.pending := rfl
@[simp] theorem updChan_out : (updChan h c f s).out = s.out := rfl
@[simp] theorem updChan_grade425 : (updChan h c f s).grade425 = s.grade425 := rfl
@[simp] theorem updChan_net : (updChan h c f s).net = s.net := rfl
@[simp] theorem updChan_stage : (updChan h c f s).stage = s.stage := rfl
@[simp] theorem updChan_trees : (updChan h c f s).trees = s.trees := rfl
@[simp] theorem updChan_cross : (updChan h c f s).cross = s.cross := rfl
@[simp] theorem updChan_scr : (updChan h c f s).scr = s.scr := rfl
@[simp] theorem updChan_heart : (updChan h c f s).heart = s.heart := rfl
@[simp] theorem updChan_mgmt : (updChan h c f s).mgmt = s.mgmt := rfl
@[simp] theorem updChan_time : (updChan h c f s).time = s.time := rfl
@[simp] theorem updChan_ev : (updChan h c f s).ev = s.ev := rfl
@[simp] theorem updChan_pw : (updChan h c f s).pw = s.pw := rfl
@[simp] theorem updChan_nor : (updChan h c f s).nor = s.nor := rfl
@[simp] theorem updChan_hs_ports : (updChan h c f s).hs.ports = s.hs.ports := rfl
@[simp] theorem updChan_hs_bar : (updChan h c f s).hs.bar = s.hs.bar := rfl
@[simp] theorem updChan_hs_wqs : (updChan h c f s).hs.wqs = s.hs.wqs := rfl
@[simp] theorem updChan_hs_cqs : (updChan h c f s).hs.cqs = s.hs.cqs := rfl
@[simp] theorem updChan_hs_regions : (updChan h c f s).hs.regions = s.hs.regions := rfl
@[simp] theorem updChan_hs_mrCache : (updChan h c f s).hs.mrCache = s.hs.mrCache := rfl
@[simp] theorem updChan_hs_xctx : (updChan h c f s).hs.xctx = s.hs.xctx := rfl
@[simp] theorem updChan_hs_xl : (updChan h c f s).hs.xl = s.hs.xl := rfl
@[simp] theorem updChan_hs_posted : (updChan h c f s).hs.posted = s.hs.posted := rfl
@[simp] theorem updChan_hs_unexp : (updChan h c f s).hs.unexp = s.hs.unexp := rfl
@[simp] theorem updChan_hs_evctrs : (updChan h c f s).hs.evctrs = s.hs.evctrs := rfl
@[simp] theorem updChan_hs_slots : (updChan h c f s).hs.slots = s.hs.slots := rfl
@[simp] theorem updChan_hs_binds : (updChan h c f s).hs.binds = s.hs.binds := rfl
@[simp] theorem updChan_hs_uses : (updChan h c f s).hs.uses = s.hs.uses := rfl
end

section
variable (h c : Nat) (x : EvCtr) (s : State)
@[simp] theorem setEvc_pending : (setEvc h c x s).pending = s.pending := rfl
@[simp] theorem setEvc_out : (setEvc h c x s).out = s.out := rfl
@[simp] theorem setEvc_grade425 : (setEvc h c x s).grade425 = s.grade425 := rfl
@[simp] theorem setEvc_net : (setEvc h c x s).net = s.net := rfl
@[simp] theorem setEvc_stage : (setEvc h c x s).stage = s.stage := rfl
@[simp] theorem setEvc_trees : (setEvc h c x s).trees = s.trees := rfl
@[simp] theorem setEvc_cross : (setEvc h c x s).cross = s.cross := rfl
@[simp] theorem setEvc_scr : (setEvc h c x s).scr = s.scr := rfl
@[simp] theorem setEvc_heart : (setEvc h c x s).heart = s.heart := rfl
@[simp] theorem setEvc_mgmt : (setEvc h c x s).mgmt = s.mgmt := rfl
@[simp] theorem setEvc_time : (setEvc h c x s).time = s.time := rfl
@[simp] theorem setEvc_ev : (setEvc h c x s).ev = s.ev := rfl
@[simp] theorem setEvc_pw : (setEvc h c x s).pw = s.pw := rfl
@[simp] theorem setEvc_nor : (setEvc h c x s).nor = s.nor := rfl
@[simp] theorem setEvc_hs_ports : (setEvc h c x s).hs.ports = s.hs.ports := rfl
@[simp] theorem setEvc_hs_bar : (setEvc h c x s).hs.bar = s.hs.bar := rfl
@[simp] theorem setEvc_hs_wqs : (setEvc h c x s).hs.wqs = s.hs.wqs := rfl
@[simp] theorem setEvc_hs_cqs : (setEvc h c x s).hs.cqs = s.hs.cqs := rfl
@[simp] theorem setEvc_hs_regions : (setEvc h c x s).hs.regions = s.hs.regions := rfl
@[simp] theorem setEvc_hs_mrCache : (setEvc h c x s).hs.mrCache = s.hs.mrCache := rfl
@[simp] theorem setEvc_hs_xctx : (setEvc h c x s).hs.xctx = s.hs.xctx := rfl
@[simp] theorem setEvc_hs_xl : (setEvc h c x s).hs.xl = s.hs.xl := rfl
@[simp] theorem setEvc_hs_chans : (setEvc h c x s).hs.chans = s.hs.chans := rfl
@[simp] theorem setEvc_hs_posted : (setEvc h c x s).hs.posted = s.hs.posted := rfl
@[simp] theorem setEvc_hs_unexp : (setEvc h c x s).hs.unexp = s.hs.unexp := rfl
@[simp] theorem setEvc_hs_slots : (setEvc h c x s).hs.slots = s.hs.slots := rfl
@[simp] theorem setEvc_hs_binds : (setEvc h c x s).hs.binds = s.hs.binds := rfl
@[simp] theorem setEvc_hs_uses : (setEvc h c x s).hs.uses = s.hs.uses := rfl
end

section
variable (h fn k : Nat) (x : Slot) (s : State)
@[simp] theorem setSlot_pending : (setSlot h fn k x s).pending = s.pending := rfl
@[simp] theorem setSlot_out : (setSlot h fn k x s).out = s.out := rfl
@[simp] theorem setSlot_grade425 : (setSlot h fn k x s).grade425 = s.grade425 := rfl
@[simp] theorem setSlot_net : (setSlot h fn k x s).net = s.net := rfl
@[simp] theorem setSlot_stage : (setSlot h fn k x s).stage = s.stage := rfl
@[simp] theorem setSlot_trees : (setSlot h fn k x s).trees = s.trees := rfl
@[simp] theorem setSlot_cross : (setSlot h fn k x s).cross = s.cross := rfl
@[simp] theorem setSlot_scr : (setSlot h fn k x s).scr = s.scr := rfl
@[simp] theorem setSlot_heart : (setSlot h fn k x s).heart = s.heart := rfl
@[simp] theorem setSlot_mgmt : (setSlot h fn k x s).mgmt = s.mgmt := rfl
@[simp] theorem setSlot_time : (setSlot h fn k x s).time = s.time := rfl
@[simp] theorem setSlot_ev : (setSlot h fn k x s).ev = s.ev := rfl
@[simp] theorem setSlot_pw : (setSlot h fn k x s).pw = s.pw := rfl
@[simp] theorem setSlot_nor : (setSlot h fn k x s).nor = s.nor := rfl
@[simp] theorem setSlot_hs_ports : (setSlot h fn k x s).hs.ports = s.hs.ports := rfl
@[simp] theorem setSlot_hs_bar : (setSlot h fn k x s).hs.bar = s.hs.bar := rfl
@[simp] theorem setSlot_hs_wqs : (setSlot h fn k x s).hs.wqs = s.hs.wqs := rfl
@[simp] theorem setSlot_hs_cqs : (setSlot h fn k x s).hs.cqs = s.hs.cqs := rfl
@[simp] theorem setSlot_hs_regions : (setSlot h fn k x s).hs.regions = s.hs.regions := rfl
@[simp] theorem setSlot_hs_mrCache : (setSlot h fn k x s).hs.mrCache = s.hs.mrCache := rfl
@[simp] theorem setSlot_hs_xctx : (setSlot h fn k x s).hs.xctx = s.hs.xctx := rfl
@[simp] theorem setSlot_hs_xl : (setSlot h fn k x s).hs.xl = s.hs.xl := rfl
@[simp] theorem setSlot_hs_chans : (setSlot h fn k x s).hs.chans = s.hs.chans := rfl
@[simp] theorem setSlot_hs_posted : (setSlot h fn k x s).hs.posted = s.hs.posted := rfl
@[simp] theorem setSlot_hs_unexp : (setSlot h fn k x s).hs.unexp = s.hs.unexp := rfl
@[simp] theorem setSlot_hs_evctrs : (setSlot h fn k x s).hs.evctrs = s.hs.evctrs := rfl
@[simp] theorem setSlot_hs_binds : (setSlot h fn k x s).hs.binds = s.hs.binds := rfl
@[simp] theorem setSlot_hs_uses : (setSlot h fn k x s).hs.uses = s.hs.uses := rfl
end

section
variable (h : Nat) (l : List Recv) (s : State)
@[simp] theorem setPosted_pending : (setPosted h l s).pending = s.pending := rfl
@[simp] theorem setPosted_out : (setPosted h l s).out = s.out := rfl
@[simp] theorem setPosted_grade425 : (setPosted h l s).grade425 = s.grade425 := rfl
@[simp] theorem setPosted_net : (setPosted h l s).net = s.net := rfl
@[simp] theorem setPosted_stage : (setPosted h l s).stage = s.stage := rfl
@[simp] theorem setPosted_trees : (setPosted h l s).trees = s.trees := rfl
@[simp] theorem setPosted_cross : (setPosted h l s).cross = s.cross := rfl
@[simp] theorem setPosted_scr : (setPosted h l s).scr = s.scr := rfl
@[simp] theorem setPosted_heart : (setPosted h l s).heart = s.heart := rfl
@[simp] theorem setPosted_mgmt : (setPosted h l s).mgmt = s.mgmt := rfl
@[simp] theorem setPosted_time : (setPosted h l s).time = s.time := rfl
@[simp] theorem setPosted_ev : (setPosted h l s).ev = s.ev := rfl
@[simp] theorem setPosted_pw : (setPosted h l s).pw = s.pw := rfl
@[simp] theorem setPosted_nor : (setPosted h l s).nor = s.nor := rfl
@[simp] theorem setPosted_hs_ports : (setPosted h l s).hs.ports = s.hs.ports := rfl
@[simp] theorem setPosted_hs_bar : (setPosted h l s).hs.bar = s.hs.bar := rfl
@[simp] theorem setPosted_hs_wqs : (setPosted h l s).hs.wqs = s.hs.wqs := rfl
@[simp] theorem setPosted_hs_cqs : (setPosted h l s).hs.cqs = s.hs.cqs := rfl
@[simp] theorem setPosted_hs_regions : (setPosted h l s).hs.regions = s.hs.regions := rfl
@[simp] theorem setPosted_hs_mrCache : (setPosted h l s).hs.mrCache = s.hs.mrCache := rfl
@[simp] theorem setPosted_hs_xctx : (setPosted h l s).hs.xctx = s.hs.xctx := rfl
@[simp] theorem setPosted_hs_xl : (setPosted h l s).hs.xl = s.hs.xl := rfl
@[simp] theorem setPosted_hs_chans : (setPosted h l s).hs.chans = s.hs.chans := rfl
@[simp] theorem setPosted_hs_unexp : (setPosted h l s).hs.unexp = s.hs.unexp := rfl
@[simp] theorem setPosted_hs_evctrs : (setPosted h l s).hs.evctrs = s.hs.evctrs := rfl
@[simp] theorem setPosted_hs_slots : (setPosted h l s).hs.slots = s.hs.slots := rfl
@[simp] theorem setPosted_hs_binds : (setPosted h l s).hs.binds = s.hs.binds := rfl
@[simp] theorem setPosted_hs_uses : (setPosted h l s).hs.uses = s.hs.uses := rfl
end

section
variable (h : Nat) (l : List Unexp) (s : State)
@[simp] theorem setUnexp_pending : (setUnexp h l s).pending = s.pending := rfl
@[simp] theorem setUnexp_out : (setUnexp h l s).out = s.out := rfl
@[simp] theorem setUnexp_grade425 : (setUnexp h l s).grade425 = s.grade425 := rfl
@[simp] theorem setUnexp_net : (setUnexp h l s).net = s.net := rfl
@[simp] theorem setUnexp_stage : (setUnexp h l s).stage = s.stage := rfl
@[simp] theorem setUnexp_trees : (setUnexp h l s).trees = s.trees := rfl
@[simp] theorem setUnexp_cross : (setUnexp h l s).cross = s.cross := rfl
@[simp] theorem setUnexp_scr : (setUnexp h l s).scr = s.scr := rfl
@[simp] theorem setUnexp_heart : (setUnexp h l s).heart = s.heart := rfl
@[simp] theorem setUnexp_mgmt : (setUnexp h l s).mgmt = s.mgmt := rfl
@[simp] theorem setUnexp_time : (setUnexp h l s).time = s.time := rfl
@[simp] theorem setUnexp_ev : (setUnexp h l s).ev = s.ev := rfl
@[simp] theorem setUnexp_pw : (setUnexp h l s).pw = s.pw := rfl
@[simp] theorem setUnexp_nor : (setUnexp h l s).nor = s.nor := rfl
@[simp] theorem setUnexp_hs_ports : (setUnexp h l s).hs.ports = s.hs.ports := rfl
@[simp] theorem setUnexp_hs_bar : (setUnexp h l s).hs.bar = s.hs.bar := rfl
@[simp] theorem setUnexp_hs_wqs : (setUnexp h l s).hs.wqs = s.hs.wqs := rfl
@[simp] theorem setUnexp_hs_cqs : (setUnexp h l s).hs.cqs = s.hs.cqs := rfl
@[simp] theorem setUnexp_hs_regions : (setUnexp h l s).hs.regions = s.hs.regions := rfl
@[simp] theorem setUnexp_hs_mrCache : (setUnexp h l s).hs.mrCache = s.hs.mrCache := rfl
@[simp] theorem setUnexp_hs_xctx : (setUnexp h l s).hs.xctx = s.hs.xctx := rfl
@[simp] theorem setUnexp_hs_xl : (setUnexp h l s).hs.xl = s.hs.xl := rfl
@[simp] theorem setUnexp_hs_chans : (setUnexp h l s).hs.chans = s.hs.chans := rfl
@[simp] theorem setUnexp_hs_posted : (setUnexp h l s).hs.posted = s.hs.posted := rfl
@[simp] theorem setUnexp_hs_evctrs : (setUnexp h l s).hs.evctrs = s.hs.evctrs := rfl
@[simp] theorem setUnexp_hs_slots : (setUnexp h l s).hs.slots = s.hs.slots := rfl
@[simp] theorem setUnexp_hs_binds : (setUnexp h l s).hs.binds = s.hs.binds := rfl
@[simp] theorem setUnexp_hs_uses : (setUnexp h l s).hs.uses = s.hs.uses := rfl
end

section
variable (h i : Nat) (b : TreeBind) (s : State)
@[simp] theorem setBind_pending : (setBind h i b s).pending = s.pending := rfl
@[simp] theorem setBind_out : (setBind h i b s).out = s.out := rfl
@[simp] theorem setBind_grade425 : (setBind h i b s).grade425 = s.grade425 := rfl
@[simp] theorem setBind_net : (setBind h i b s).net = s.net := rfl
@[simp] theorem setBind_stage : (setBind h i b s).stage = s.stage := rfl
@[simp] theorem setBind_trees : (setBind h i b s).trees = s.trees := rfl
@[simp] theorem setBind_cross : (setBind h i b s).cross = s.cross := rfl
@[simp] theorem setBind_scr : (setBind h i b s).scr = s.scr := rfl
@[simp] theorem setBind_heart : (setBind h i b s).heart = s.heart := rfl
@[simp] theorem setBind_mgmt : (setBind h i b s).mgmt = s.mgmt := rfl
@[simp] theorem setBind_time : (setBind h i b s).time = s.time := rfl
@[simp] theorem setBind_ev : (setBind h i b s).ev = s.ev := rfl
@[simp] theorem setBind_pw : (setBind h i b s).pw = s.pw := rfl
@[simp] theorem setBind_nor : (setBind h i b s).nor = s.nor := rfl
@[simp] theorem setBind_hs_ports : (setBind h i b s).hs.ports = s.hs.ports := rfl
@[simp] theorem setBind_hs_bar : (setBind h i b s).hs.bar = s.hs.bar := rfl
@[simp] theorem setBind_hs_wqs : (setBind h i b s).hs.wqs = s.hs.wqs := rfl
@[simp] theorem setBind_hs_cqs : (setBind h i b s).hs.cqs = s.hs.cqs := rfl
@[simp] theorem setBind_hs_regions : (setBind h i b s).hs.regions = s.hs.regions := rfl
@[simp] theorem setBind_hs_mrCache : (setBind h i b s).hs.mrCache = s.hs.mrCache := rfl
@[simp] theorem setBind_hs_xctx : (setBind h i b s).hs.xctx = s.hs.xctx := rfl
@[simp] theorem setBind_hs_xl : (setBind h i b s).hs.xl = s.hs.xl := rfl
@[simp] theorem setBind_hs_chans : (setBind h i b s).hs.chans = s.hs.chans := rfl
@[simp] theorem setBind_hs_posted : (setBind h i b s).hs.posted = s.hs.posted := rfl
@[simp] theorem setBind_hs_unexp : (setBind h i b s).hs.unexp = s.hs.unexp := rfl
@[simp] theorem setBind_hs_evctrs : (setBind h i b s).hs.evctrs = s.hs.evctrs := rfl
@[simp] theorem setBind_hs_slots : (setBind h i b s).hs.slots = s.hs.slots := rfl
@[simp] theorem setBind_hs_uses : (setBind h i b s).hs.uses = s.hs.uses := rfl
end

section
variable (b : Nat) (f : Xlate → Xlate) (s : State)
@[simp] theorem updXl_pending : (updXl b f s).pending = s.pending := rfl
@[simp] theorem updXl_out : (updXl b f s).out = s.out := rfl
@[simp] theorem updXl_grade425 : (updXl b f s).grade425 = s.grade425 := rfl
@[simp] theorem updXl_net : (updXl b f s).net = s.net := rfl
@[simp] theorem updXl_stage : (updXl b f s).stage = s.stage := rfl
@[simp] theorem updXl_trees : (updXl b f s).trees = s.trees := rfl
@[simp] theorem updXl_cross : (updXl b f s).cross = s.cross := rfl
@[simp] theorem updXl_scr : (updXl b f s).scr = s.scr := rfl
@[simp] theorem updXl_heart : (updXl b f s).heart = s.heart := rfl
@[simp] theorem updXl_mgmt : (updXl b f s).mgmt = s.mgmt := rfl
@[simp] theorem updXl_time : (updXl b f s).time = s.time := rfl
@[simp] theorem updXl_ev : (updXl b f s).ev = s.ev := rfl
@[simp] theorem updXl_pw : (updXl b f s).pw = s.pw := rfl
@[simp] theorem updXl_nor : (updXl b f s).nor = s.nor := rfl
@[simp] theorem updXl_hs_ports : (updXl b f s).hs.ports = s.hs.ports := rfl
@[simp] theorem updXl_hs_bar : (updXl b f s).hs.bar = s.hs.bar := rfl
@[simp] theorem updXl_hs_wqs : (updXl b f s).hs.wqs = s.hs.wqs := rfl
@[simp] theorem updXl_hs_cqs : (updXl b f s).hs.cqs = s.hs.cqs := rfl
@[simp] theorem updXl_hs_regions : (updXl b f s).hs.regions = s.hs.regions := rfl
@[simp] theorem updXl_hs_mrCache : (updXl b f s).hs.mrCache = s.hs.mrCache := rfl
@[simp] theorem updXl_hs_xctx : (updXl b f s).hs.xctx = s.hs.xctx := rfl
@[simp] theorem updXl_hs_chans : (updXl b f s).hs.chans = s.hs.chans := rfl
@[simp] theorem updXl_hs_posted : (updXl b f s).hs.posted = s.hs.posted := rfl
@[simp] theorem updXl_hs_unexp : (updXl b f s).hs.unexp = s.hs.unexp := rfl
@[simp] theorem updXl_hs_evctrs : (updXl b f s).hs.evctrs = s.hs.evctrs := rfl
@[simp] theorem updXl_hs_slots : (updXl b f s).hs.slots = s.hs.slots := rfl
@[simp] theorem updXl_hs_binds : (updXl b f s).hs.binds = s.hs.binds := rfl
@[simp] theorem updXl_hs_uses : (updXl b f s).hs.uses = s.hs.uses := rfl
end

section
variable (b : Nat) (l : List BufWrite) (s : State)
@[simp] theorem setWbuf_pending : (setWbuf b l s).pending = s.pending := rfl
@[simp] theorem setWbuf_out : (setWbuf b l s).out = s.out := rfl
@[simp] theorem setWbuf_grade425 : (setWbuf b l s).grade425 = s.grade425 := rfl
@[simp] theorem setWbuf_net : (setWbuf b l s).net = s.net := rfl
@[simp] theorem setWbuf_stage : (setWbuf b l s).stage = s.stage := rfl
@[simp] theorem setWbuf_hs : (setWbuf b l s).hs = s.hs := rfl
@[simp] theorem setWbuf_trees : (setWbuf b l s).trees = s.trees := rfl
@[simp] theorem setWbuf_cross : (setWbuf b l s).cross = s.cross := rfl
@[simp] theorem setWbuf_heart : (setWbuf b l s).heart = s.heart := rfl
@[simp] theorem setWbuf_mgmt : (setWbuf b l s).mgmt = s.mgmt := rfl
@[simp] theorem setWbuf_time : (setWbuf b l s).time = s.time := rfl
@[simp] theorem setWbuf_ev : (setWbuf b l s).ev = s.ev := rfl
@[simp] theorem setWbuf_pw : (setWbuf b l s).pw = s.pw := rfl
@[simp] theorem setWbuf_nor : (setWbuf b l s).nor = s.nor := rfl
@[simp] theorem setWbuf_scr_mem : (setWbuf b l s).scr.mem = s.scr.mem := rfl
@[simp] theorem setWbuf_scr_loss : (setWbuf b l s).scr.loss = s.scr.loss := rfl
@[simp] theorem setWbuf_scr_locks : (setWbuf b l s).scr.locks = s.scr.locks := rfl
@[simp] theorem setWbuf_scr_lgroups : (setWbuf b l s).scr.lgroups = s.scr.lgroups := rfl
end

section
variable (b l : Nat) (x : Lock) (s : State)
@[simp] theorem setLock_pending : (setLock b l x s).pending = s.pending := rfl
@[simp] theorem setLock_out : (setLock b l x s).out = s.out := rfl
@[simp] theorem setLock_grade425 : (setLock b l x s).grade425 = s.grade425 := rfl
@[simp] theorem setLock_net : (setLock b l x s).net = s.net := rfl
@[simp] theorem setLock_stage : (setLock b l x s).stage = s.stage := rfl
@[simp] theorem setLock_hs : (setLock b l x s).hs = s.hs := rfl
@[simp] theorem setLock_trees : (setLock b l x s).trees = s.trees := rfl
@[simp] theorem setLock_cross : (setLock b l x s).cross = s.cross := rfl
@[simp] theorem setLock_heart : (setLock b l x s).heart = s.heart := rfl
@[simp] theorem setLock_mgmt : (setLock b l x s).mgmt = s.mgmt := rfl
@[simp] theorem setLock_time : (setLock b l x s).time = s.time := rfl
@[simp] theorem setLock_ev : (setLock b l x s).ev = s.ev := rfl
@[simp] theorem setLock_pw : (setLock b l x s).pw = s.pw := rfl
@[simp] theorem setLock_nor : (setLock b l x s).nor = s.nor := rfl
@[simp] theorem setLock_scr_mem : (setLock b l x s).scr.mem = s.scr.mem := rfl
@[simp] theorem setLock_scr_wbuf : (setLock b l x s).scr.wbuf = s.scr.wbuf := rfl
@[simp] theorem setLock_scr_loss : (setLock b l x s).scr.loss = s.scr.loss := rfl
@[simp] theorem setLock_scr_lgroups : (setLock b l x s).scr.lgroups = s.scr.lgroups := rfl
end

section
variable (b g : Nat) (x : LockGroup) (s : State)
@[simp] theorem setLgroup_pending : (setLgroup b g x s).pending = s.pending := rfl
@[simp] theorem setLgroup_out : (setLgroup b g x s).out = s.out := rfl
@[simp] theorem setLgroup_grade425 : (setLgroup b g x s).grade425 = s.grade425 := rfl
@[simp] theorem setLgroup_net : (setLgroup b g x s).net = s.net := rfl
@[simp] theorem setLgroup_stage : (setLgroup b g x s).stage = s.stage := rfl
@[simp] theorem setLgroup_hs : (setLgroup b g x s).hs = s.hs := rfl
@[simp] theorem setLgroup_trees : (setLgroup b g x s).trees = s.trees := rfl
@[simp] theorem setLgroup_cross : (setLgroup b g x s).cross = s.cross := rfl
@[simp] theorem setLgroup_heart : (setLgroup b g x s).heart = s.heart := rfl
@[simp] theorem setLgroup_mgmt : (setLgroup b g x s).mgmt = s.mgmt := rfl
@[simp] theorem setLgroup_time : (setLgroup b g x s).time = s.time := rfl
@[simp] theorem setLgroup_ev : (setLgroup b g x s).ev = s.ev := rfl
@[simp] theorem setLgroup_pw : (setLgroup b g x s).pw = s.pw := rfl
@[simp] theorem setLgroup_nor : (setLgroup b g x s).nor = s.nor := rfl
@[simp] theorem setLgroup_scr_mem : (setLgroup b g x s).scr.mem = s.scr.mem := rfl
@[simp] theorem setLgroup_scr_wbuf : (setLgroup b g x s).scr.wbuf = s.scr.wbuf := rfl
@[simp] theorem setLgroup_scr_loss : (setLgroup b g x s).scr.loss = s.scr.loss := rfl
@[simp] theorem setLgroup_scr_locks : (setLgroup b g x s).scr.locks = s.scr.locks := rfl
end

section
variable (i : Nat) (t : TreeCtx) (s : State)
@[simp] theorem setTree_pending : (setTree i t s).pending = s.pending := rfl
@[simp] theorem setTree_out : (setTree i t s).out = s.out := rfl
@[simp] theorem setTree_grade425 : (setTree i t s).grade425 = s.grade425 := rfl
@[simp] theorem setTree_net : (setTree i t s).net = s.net := rfl
@[simp] theorem setTree_stage : (setTree i t s).stage = s.stage := rfl
@[simp] theorem setTree_hs : (setTree i t s).hs = s.hs := rfl
@[simp] theorem setTree_cross : (setTree i t s).cross = s.cross := rfl
@[simp] theorem setTree_scr : (setTree i t s).scr = s.scr := rfl
@[simp] theorem setTree_heart : (setTree i t s).heart = s.heart := rfl
@[simp] theorem setTree_mgmt : (setTree i t s).mgmt = s.mgmt := rfl
@[simp] theorem setTree_time : (setTree i t s).time = s.time := rfl
@[simp] theorem setTree_ev : (setTree i t s).ev = s.ev := rfl
@[simp] theorem setTree_pw : (setTree i t s).pw = s.pw := rfl
@[simp] theorem setTree_nor : (setTree i t s).nor = s.nor := rfl
end

section
variable (n d k : Nat) (x : LinkKey) (s : State)
@[simp] theorem setLinkKey_pending : (setLinkKey n d k x s).pending = s.pending := rfl
@[simp] theorem setLinkKey_out : (setLinkKey n d k x s).out = s.out := rfl
@[simp] theorem setLinkKey_grade425 : (setLinkKey n d k x s).grade425 = s.grade425 := rfl
@[simp] theorem setLinkKey_net : (setLinkKey n d k x s).net = s.net := rfl
@[simp] theorem setLinkKey_stage : (setLinkKey n d k x s).stage = s.stage := rfl
@[simp] theorem setLinkKey_hs : (setLinkKey n d k x s).hs = s.hs := rfl
@[simp] theorem setLinkKey_trees : (setLinkKey n d k x s).trees = s.trees := rfl
@[simp] theorem setLinkKey_cross : (setLinkKey n d k x s).cross = s.cross := rfl
@[simp] theorem setLinkKey_scr : (setLinkKey n d k x s).scr = s.scr := rfl
@[simp] theorem setLinkKey_mgmt : (setLinkKey n d k x s).mgmt = s.mgmt := rfl
@[simp] theorem setLinkKey_time : (setLinkKey n d k x s).time = s.time := rfl
@[simp] theorem setLinkKey_ev : (setLinkKey n d k x s).ev = s.ev := rfl
@[simp] theorem setLinkKey_pw : (setLinkKey n d k x s).pw = s.pw := rfl
@[simp] theorem setLinkKey_nor : (setLinkKey n d k x s).nor = s.nor := rfl
@[simp] theorem setLinkKey_heart_sessions : (setLinkKey n d k x s).heart.sessions = s.heart.sessions := rfl
@[simp] theorem setLinkKey_heart_idKey : (setLinkKey n d k x s).heart.idKey = s.heart.idKey := rfl
@[simp] theorem setLinkKey_heart_wrapKey : (setLinkKey n d k x s).heart.wrapKey = s.heart.wrapKey := rfl
@[simp] theorem setLinkKey_heart_deriveBlocked : (setLinkKey n d k x s).heart.deriveBlocked = s.heart.deriveBlocked := rfl
@[simp] theorem setLinkKey_heart_policyLock : (setLinkKey n d k x s).heart.policyLock = s.heart.policyLock := rfl
@[simp] theorem setLinkKey_heart_debugOpen : (setLinkKey n d k x s).heart.debugOpen = s.heart.debugOpen := rfl
@[simp] theorem setLinkKey_heart_unlockBlocked : (setLinkKey n d k x s).heart.unlockBlocked = s.heart.unlockBlocked := rfl
@[simp] theorem setLinkKey_heart_unlockFails : (setLinkKey n d k x s).heart.unlockFails = s.heart.unlockFails := rfl
@[simp] theorem setLinkKey_heart_challenges : (setLinkKey n d k x s).heart.challenges = s.heart.challenges := rfl
@[simp] theorem setLinkKey_heart_eraseCount : (setLinkKey n d k x s).heart.eraseCount = s.heart.eraseCount := rfl
@[simp] theorem setLinkKey_heart_fwSlot : (setLinkKey n d k x s).heart.fwSlot = s.heart.fwSlot := rfl
@[simp] theorem setLinkKey_heart_fwSvn : (setLinkKey n d k x s).heart.fwSvn = s.heart.fwSvn := rfl
@[simp] theorem setLinkKey_heart_minSvn : (setLinkKey n d k x s).heart.minSvn = s.heart.minSvn := rfl
@[simp] theorem setLinkKey_heart_minAtRun : (setLinkKey n d k x s).heart.minAtRun = s.heart.minAtRun := rfl
@[simp] theorem setLinkKey_heart_unread : (setLinkKey n d k x s).heart.unread = s.heart.unread := rfl
@[simp] theorem setLinkKey_heart_latch : (setLinkKey n d k x s).heart.latch = s.heart.latch := rfl
@[simp] theorem setLinkKey_heart_policy : (setLinkKey n d k x s).heart.policy = s.heart.policy := rfl
@[simp] theorem setLinkKey_heart_thresh : (setLinkKey n d k x s).heart.thresh = s.heart.thresh := rfl
@[simp] theorem setLinkKey_heart_lastAlarm : (setLinkKey n d k x s).heart.lastAlarm = s.heart.lastAlarm := rfl
@[simp] theorem setLinkKey_heart_lastIde : (setLinkKey n d k x s).heart.lastIde = s.heart.lastIde := rfl
@[simp] theorem setLinkKey_heart_lastTime : (setLinkKey n d k x s).heart.lastTime = s.heart.lastTime := rfl
@[simp] theorem setLinkKey_heart_ide : (setLinkKey n d k x s).heart.ide = s.heart.ide := rfl
@[simp] theorem setLinkKey_heart_erasing : (setLinkKey n d k x s).heart.erasing = s.heart.erasing := rfl
@[simp] theorem setLinkKey_heart_eraseAt : (setLinkKey n d k x s).heart.eraseAt = s.heart.eraseAt := rfl
@[simp] theorem setLinkKey_heart_measured : (setLinkKey n d k x s).heart.measured = s.heart.measured := rfl
@[simp] theorem setLinkKey_heart_image : (setLinkKey n d k x s).heart.image = s.heart.image := rfl
@[simp] theorem setLinkKey_heart_buildId : (setLinkKey n d k x s).heart.buildId = s.heart.buildId := rfl
@[simp] theorem setLinkKey_heart_responses : (setLinkKey n d k x s).heart.responses = s.heart.responses := rfl
end

section
variable (h n : Nat) (v : Ide) (s : State)
@[simp] theorem setIde_pending : (setIde h n v s).pending = s.pending := rfl
@[simp] theorem setIde_out : (setIde h n v s).out = s.out := rfl
@[simp] theorem setIde_grade425 : (setIde h n v s).grade425 = s.grade425 := rfl
@[simp] theorem setIde_net : (setIde h n v s).net = s.net := rfl
@[simp] theorem setIde_stage : (setIde h n v s).stage = s.stage := rfl
@[simp] theorem setIde_hs : (setIde h n v s).hs = s.hs := rfl
@[simp] theorem setIde_trees : (setIde h n v s).trees = s.trees := rfl
@[simp] theorem setIde_cross : (setIde h n v s).cross = s.cross := rfl
@[simp] theorem setIde_scr : (setIde h n v s).scr = s.scr := rfl
@[simp] theorem setIde_mgmt : (setIde h n v s).mgmt = s.mgmt := rfl
@[simp] theorem setIde_time : (setIde h n v s).time = s.time := rfl
@[simp] theorem setIde_ev : (setIde h n v s).ev = s.ev := rfl
@[simp] theorem setIde_pw : (setIde h n v s).pw = s.pw := rfl
@[simp] theorem setIde_nor : (setIde h n v s).nor = s.nor := rfl
@[simp] theorem setIde_heart_keys : (setIde h n v s).heart.keys = s.heart.keys := rfl
@[simp] theorem setIde_heart_sessions : (setIde h n v s).heart.sessions = s.heart.sessions := rfl
@[simp] theorem setIde_heart_idKey : (setIde h n v s).heart.idKey = s.heart.idKey := rfl
@[simp] theorem setIde_heart_wrapKey : (setIde h n v s).heart.wrapKey = s.heart.wrapKey := rfl
@[simp] theorem setIde_heart_deriveBlocked : (setIde h n v s).heart.deriveBlocked = s.heart.deriveBlocked := rfl
@[simp] theorem setIde_heart_policyLock : (setIde h n v s).heart.policyLock = s.heart.policyLock := rfl
@[simp] theorem setIde_heart_debugOpen : (setIde h n v s).heart.debugOpen = s.heart.debugOpen := rfl
@[simp] theorem setIde_heart_unlockBlocked : (setIde h n v s).heart.unlockBlocked = s.heart.unlockBlocked := rfl
@[simp] theorem setIde_heart_unlockFails : (setIde h n v s).heart.unlockFails = s.heart.unlockFails := rfl
@[simp] theorem setIde_heart_challenges : (setIde h n v s).heart.challenges = s.heart.challenges := rfl
@[simp] theorem setIde_heart_eraseCount : (setIde h n v s).heart.eraseCount = s.heart.eraseCount := rfl
@[simp] theorem setIde_heart_fwSlot : (setIde h n v s).heart.fwSlot = s.heart.fwSlot := rfl
@[simp] theorem setIde_heart_fwSvn : (setIde h n v s).heart.fwSvn = s.heart.fwSvn := rfl
@[simp] theorem setIde_heart_minSvn : (setIde h n v s).heart.minSvn = s.heart.minSvn := rfl
@[simp] theorem setIde_heart_minAtRun : (setIde h n v s).heart.minAtRun = s.heart.minAtRun := rfl
@[simp] theorem setIde_heart_unread : (setIde h n v s).heart.unread = s.heart.unread := rfl
@[simp] theorem setIde_heart_latch : (setIde h n v s).heart.latch = s.heart.latch := rfl
@[simp] theorem setIde_heart_policy : (setIde h n v s).heart.policy = s.heart.policy := rfl
@[simp] theorem setIde_heart_thresh : (setIde h n v s).heart.thresh = s.heart.thresh := rfl
@[simp] theorem setIde_heart_lastAlarm : (setIde h n v s).heart.lastAlarm = s.heart.lastAlarm := rfl
@[simp] theorem setIde_heart_lastIde : (setIde h n v s).heart.lastIde = s.heart.lastIde := rfl
@[simp] theorem setIde_heart_lastTime : (setIde h n v s).heart.lastTime = s.heart.lastTime := rfl
@[simp] theorem setIde_heart_erasing : (setIde h n v s).heart.erasing = s.heart.erasing := rfl
@[simp] theorem setIde_heart_eraseAt : (setIde h n v s).heart.eraseAt = s.heart.eraseAt := rfl
@[simp] theorem setIde_heart_measured : (setIde h n v s).heart.measured = s.heart.measured := rfl
@[simp] theorem setIde_heart_image : (setIde h n v s).heart.image = s.heart.image := rfl
@[simp] theorem setIde_heart_buildId : (setIde h n v s).heart.buildId = s.heart.buildId := rfl
@[simp] theorem setIde_heart_responses : (setIde h n v s).heart.responses = s.heart.responses := rfl
end

section
variable (i : Nat) (f : Ring → Ring) (s : State)
@[simp] theorem updRing_pending : (updRing i f s).pending = s.pending := rfl
@[simp] theorem updRing_out : (updRing i f s).out = s.out := rfl
@[simp] theorem updRing_grade425 : (updRing i f s).grade425 = s.grade425 := rfl
@[simp] theorem updRing_net : (updRing i f s).net = s.net := rfl
@[simp] theorem updRing_stage : (updRing i f s).stage = s.stage := rfl
@[simp] theorem updRing_hs : (updRing i f s).hs = s.hs := rfl
@[simp] theorem updRing_trees : (updRing i f s).trees = s.trees := rfl
@[simp] theorem updRing_cross : (updRing i f s).cross = s.cross := rfl
@[simp] theorem updRing_scr : (updRing i f s).scr = s.scr := rfl
@[simp] theorem updRing_heart : (updRing i f s).heart = s.heart := rfl
@[simp] theorem updRing_time : (updRing i f s).time = s.time := rfl
@[simp] theorem updRing_ev : (updRing i f s).ev = s.ev := rfl
@[simp] theorem updRing_pw : (updRing i f s).pw = s.pw := rfl
@[simp] theorem updRing_nor : (updRing i f s).nor = s.nor := rfl
@[simp] theorem updRing_mgmt_fw : (updRing i f s).mgmt.fw = s.mgmt.fw := rfl
@[simp] theorem updRing_mgmt_allow : (updRing i f s).mgmt.allow = s.mgmt.allow := rfl
@[simp] theorem updRing_mgmt_eventEid : (updRing i f s).mgmt.eventEid = s.mgmt.eventEid := rfl
@[simp] theorem updRing_mgmt_mseqs : (updRing i f s).mgmt.mseqs = s.mgmt.mseqs := rfl
@[simp] theorem updRing_mgmt_eseq : (updRing i f s).mgmt.eseq = s.mgmt.eseq := rfl
@[simp] theorem updRing_mgmt_repeats : (updRing i f s).mgmt.repeats = s.mgmt.repeats := rfl
@[simp] theorem updRing_mgmt_cmds : (updRing i f s).mgmt.cmds = s.mgmt.cmds := rfl
@[simp] theorem updRing_mgmt_waitq : (updRing i f s).mgmt.waitq = s.mgmt.waitq := rfl
@[simp] theorem updRing_mgmt_nextCmd : (updRing i f s).mgmt.nextCmd = s.mgmt.nextCmd := rfl
@[simp] theorem updRing_mgmt_i3cAddr : (updRing i f s).mgmt.i3cAddr = s.mgmt.i3cAddr := rfl
@[simp] theorem updRing_mgmt_i3cReqs : (updRing i f s).mgmt.i3cReqs = s.mgmt.i3cReqs := rfl
@[simp] theorem updRing_mgmt_i3cRpls : (updRing i f s).mgmt.i3cRpls = s.mgmt.i3cRpls := rfl
@[simp] theorem updRing_mgmt_fwJob : (updRing i f s).mgmt.fwJob = s.mgmt.fwJob := rfl
@[simp] theorem updRing_mgmt_maps : (updRing i f s).mgmt.maps = s.mgmt.maps := rfl
end

section
variable (d : Nat) (f : Domain → Domain) (s : State)
@[simp] theorem updDom_pending : (updDom d f s).pending = s.pending := rfl
@[simp] theorem updDom_out : (updDom d f s).out = s.out := rfl
@[simp] theorem updDom_grade425 : (updDom d f s).grade425 = s.grade425 := rfl
@[simp] theorem updDom_net : (updDom d f s).net = s.net := rfl
@[simp] theorem updDom_stage : (updDom d f s).stage = s.stage := rfl
@[simp] theorem updDom_hs : (updDom d f s).hs = s.hs := rfl
@[simp] theorem updDom_trees : (updDom d f s).trees = s.trees := rfl
@[simp] theorem updDom_cross : (updDom d f s).cross = s.cross := rfl
@[simp] theorem updDom_scr : (updDom d f s).scr = s.scr := rfl
@[simp] theorem updDom_heart : (updDom d f s).heart = s.heart := rfl
@[simp] theorem updDom_mgmt : (updDom d f s).mgmt = s.mgmt := rfl
@[simp] theorem updDom_time : (updDom d f s).time = s.time := rfl
@[simp] theorem updDom_ev : (updDom d f s).ev = s.ev := rfl
@[simp] theorem updDom_nor : (updDom d f s).nor = s.nor := rfl
@[simp] theorem updDom_pw_stopped : (updDom d f s).pw.stopped = s.pw.stopped := rfl
@[simp] theorem updDom_pw_lastFail : (updDom d f s).pw.lastFail = s.pw.lastFail := rfl
@[simp] theorem updDom_pw_est : (updDom d f s).pw.est = s.pw.est := rfl
@[simp] theorem updDom_pw_temps : (updDom d f s).pw.temps = s.pw.temps := rfl
@[simp] theorem updDom_pw_tempMax : (updDom d f s).pw.tempMax = s.pw.tempMax := rfl
@[simp] theorem updDom_pw_refOk : (updDom d f s).pw.refOk = s.pw.refOk := rfl
@[simp] theorem updDom_pw_tapLock : (updDom d f s).pw.tapLock = s.pw.tapLock := rfl
@[simp] theorem updDom_pw_pllLock : (updDom d f s).pw.pllLock = s.pw.pllLock := rfl
@[simp] theorem updDom_pw_hmRefOk : (updDom d f s).pw.hmRefOk = s.pw.hmRefOk := rfl
@[simp] theorem updDom_pw_hostRefOk : (updDom d f s).pw.hostRefOk = s.pw.hostRefOk := rfl
@[simp] theorem updDom_pw_onOsc : (updDom d f s).pw.onOsc = s.pw.onOsc := rfl
@[simp] theorem updDom_pw_tripped : (updDom d f s).pw.tripped = s.pw.tripped := rfl
@[simp] theorem updDom_pw_hmPerst : (updDom d f s).pw.hmPerst = s.pw.hmPerst := rfl
@[simp] theorem updDom_pw_hmTrained : (updDom d f s).pw.hmTrained = s.pw.hmTrained := rfl
@[simp] theorem updDom_pw_roleSel : (updDom d f s).pw.roleSel = s.pw.roleSel := rfl
@[simp] theorem updDom_pw_testMode : (updDom d f s).pw.testMode = s.pw.testMode := rfl
@[simp] theorem updDom_pw_i3cStrap : (updDom d f s).pw.i3cStrap = s.pw.i3cStrap := rfl
@[simp] theorem updDom_pw_tap : (updDom d f s).pw.tap = s.pw.tap := rfl
end

end Sys2Proof.Laws
end

