-- ==== Sys2Proof/Laws/Frames.lean ====
section
/-! SUPPORT. Everything that the shared reporting operations can do: an event source, a statistics counter and an interrupt
change the event records, the outputs, what waits to cross a die-to-die module and the event numbers of the controller, and nothing else. -/

namespace Sys2Proof.Laws
open Sys2Proof.Machine

/-- `t` differs from `s` in its event records, its outputs, what waits to cross a die-to-die module and the controller's event numbers only. -/
def EvOnly (s t : State) : Prop :=
  t = { s with ev := t.ev, out := t.out, cross := t.cross, mgmt := { s.mgmt with eseq := t.mgmt.eseq, repeats := t.mgmt.repeats } }

theorem EvOnly.refl (s : State) : EvOnly s s := rfl

theorem EvOnly.trans {s t u : State} (h : EvOnly s t) (k : EvOnly t u) : EvOnly s u := by
  unfold EvOnly at *
  rw [k, h]

theorem EvOnly.ite {c : Prop} [Decidable c] {s a b : State} (ha : EvOnly s a) (hb : EvOnly s b) :
    EvOnly s (if c then a else b) := by
  split
  · exact ha
  · exact hb

theorem evOnly_emit (o : Out) (s : State) : EvOnly s (emit o s) := rfl
theorem evOnly_setRec (n : Nat) (r : EvRec) (s : State) : EvOnly s (setRec n r s) := rfl
theorem evOnly_fireMsix (h fn vec : Nat) (s : State) : EvOnly s (fireMsix h fn vec s) :=
  EvOnly.ite rfl (EvOnly.ite rfl rfl)
theorem evOnly_eventMsix (n h : Nat) (s : State) : EvOnly s (eventMsix n h s) := by
  unfold eventMsix toHost crossD2d
  split
  · exact evOnly_fireMsix ..
  · repeat' split
    all_goals first | exact evOnly_fireMsix .. | rfl
theorem evOnly_markCause (n bits : Nat) (s : State) : EvOnly s (markCause n bits s).1 := rfl

theorem evOnly_bump (key n : Nat) (s : State) : EvOnly s (bump key n s).1 := by
  unfold bump
  dsimp only
  split
  · rfl
  · split <;> rfl

theorem evOnly_foldl {α : Type} {f : State → α → State} (hf : ∀ s a, EvOnly s (f s a)) :
    ∀ (l : List α) (s : State), EvOnly s (l.foldl f s)
  | [], s => EvOnly.refl s
  | a :: l, s => (hf s a).trans (evOnly_foldl hf l (f s a))

section
variable {again : Nat → Nat → State → State} (ha : ∀ n b s, EvOnly s (again n b s))
include ha

theorem evOnly_raiseBy (n bits : Nat) (s : State) : EvOnly s (raiseBy again n bits s) :=
  EvOnly.ite (evOnly_markCause n bits s) ((evOnly_markCause n bits s).trans (ha ..))

theorem evOnly_countBy (key n : Nat) (s : State) : EvOnly s (countBy again key n s) :=
  EvOnly.ite ((evOnly_bump key n s).trans (ha ..)) (evOnly_bump key n s)

theorem evOnly_sendEvent (n sev : Nat) (s : State) : EvOnly s (sendEvent again n sev s) := by
  unfold sendEvent
  split
  · exact (evOnly_countBy ha ..).trans (evOnly_raiseBy ha ..)
  · refine EvOnly.trans ?_ (evOnly_countBy ha _ _ _)
    rfl

theorem evOnly_routeRaise (route : BitVec 4) (n sev : Nat) (s : State) : EvOnly s (routeRaise again route n sev s) := by
  unfold routeRaise
  extract_lets s1 s2 s3
  have h1 : EvOnly s s1 := EvOnly.ite (evOnly_foldl (fun s h => evOnly_eventMsix n h s) _ _) (EvOnly.refl s)
  have h2 : EvOnly s1 s2 := EvOnly.ite (evOnly_fireMsix ..) (EvOnly.refl s1)
  have h3 : EvOnly s2 s3 := EvOnly.ite (evOnly_emit ..) (EvOnly.refl s2)
  exact h1.trans (h2.trans (h3.trans (EvOnly.ite (evOnly_sendEvent ha ..) (EvOnly.refl s3))))

theorem evOnly_fenceBy (n sev : Nat) (s : State) : EvOnly s (fenceBy again n sev s) := by
  unfold fenceBy
  extract_lets t e1 s1 e2 s2 e3
  have h1 : EvOnly s s1 := rfl
  have h2 : EvOnly s1 s2 := by
    refine EvOnly.ite (EvOnly.refl s1) (EvOnly.trans ?_ (evOnly_raiseBy ha _ _ _))
    rfl
  refine h1.trans (h2.trans (EvOnly.ite ?_ (EvOnly.refl s2)))
  rfl

theorem evOnly_reactBy (inj : Bool) (n bits : Nat) (s : State) : EvOnly s (reactBy again inj n bits s) := by
  unfold reactBy
  extract_lets sev r s1 s2
  have h1 : EvOnly s s1 := rfl
  have h2 : EvOnly s1 s2 := EvOnly.ite (EvOnly.refl s1) (evOnly_routeRaise ha ..)
  exact h1.trans (EvOnly.ite (EvOnly.refl s1) (h2.trans (EvOnly.ite (EvOnly.refl s2) (evOnly_fenceBy ha ..))))
end

theorem evOnly_react (fuel : Nat) : ∀ (inj : Bool) (n bits : Nat) (s : State), EvOnly s (react fuel inj n bits s) := by
  induction fuel with
  | zero => intro inj n bits s; exact EvOnly.refl s
  | succ fuel ih => intro inj n bits s; exact evOnly_reactBy (ih false) inj n bits s

/-- Raising an event source changes the event records, the outputs and the event numbers only. -/
theorem evOnly_raise (n bits : Nat) (s : State) : EvOnly s (raise n bits s) := evOnly_raiseBy (evOnly_react 4 false) n bits s
/-- So does adding to a statistics counter. -/
theorem evOnly_count (key n : Nat) (s : State) : EvOnly s (count key n s) := evOnly_countBy (evOnly_react 4 false) key n s
theorem evOnly_inc (key : Nat) (s : State) : EvOnly s (inc key s) := evOnly_count key 1 s

section
variable {s t : State} (h : EvOnly s t)
include h
theorem EvOnly.pending : t.pending = s.pending := by unfold EvOnly at h; rw [h]
theorem EvOnly.grade425 : t.grade425 = s.grade425 := by unfold EvOnly at h; rw [h]
theorem EvOnly.net : t.net = s.net := by unfold EvOnly at h; rw [h]
theorem EvOnly.stage : t.stage = s.stage := by unfold EvOnly at h; rw [h]
theorem EvOnly.hs : t.hs = s.hs := by unfold EvOnly at h; rw [h]
theorem EvOnly.trees : t.trees = s.trees := by unfold EvOnly at h; rw [h]
theorem EvOnly.scr : t.scr = s.scr := by unfold EvOnly at h; rw [h]
theorem EvOnly.heart : t.heart = s.heart := by unfold EvOnly at h; rw [h]
theorem EvOnly.time : t.time = s.time := by unfold EvOnly at h; rw [h]
theorem EvOnly.pw : t.pw = s.pw := by unfold EvOnly at h; rw [h]
theorem EvOnly.nor : t.nor = s.nor := by unfold EvOnly at h; rw [h]
theorem EvOnly.mgmt_fw : t.mgmt.fw = s.mgmt.fw := by unfold EvOnly at h; rw [h]
theorem EvOnly.mgmt_allow : t.mgmt.allow = s.mgmt.allow := by unfold EvOnly at h; rw [h]
theorem EvOnly.mgmt_cmds : t.mgmt.cmds = s.mgmt.cmds := by unfold EvOnly at h; rw [h]
theorem EvOnly.mgmt_rings : t.mgmt.rings = s.mgmt.rings := by unfold EvOnly at h; rw [h]
theorem EvOnly.mgmt_waitq : t.mgmt.waitq = s.mgmt.waitq := by unfold EvOnly at h; rw [h]
theorem EvOnly.mgmt_mseqs : t.mgmt.mseqs = s.mgmt.mseqs := by unfold EvOnly at h; rw [h]
theorem EvOnly.mgmt_i3cReqs : t.mgmt.i3cReqs = s.mgmt.i3cReqs := by unfold EvOnly at h; rw [h]
theorem EvOnly.mgmt_i3cRpls : t.mgmt.i3cRpls = s.mgmt.i3cRpls := by unfold EvOnly at h; rw [h]
end

section
variable (n bits : Nat) (s : State)
@[simp] theorem raise_pending : (Machine.raise n bits s).pending = s.pending := (evOnly_raise n bits s).pending
@[simp] theorem raise_grade425 : (Machine.raise n bits s).grade425 = s.grade425 := (evOnly_raise n bits s).grade425
@[simp] theorem raise_net : (Machine.raise n bits s).net = s.net := (evOnly_raise n bits s).net
@[simp] theorem raise_stage : (Machine.raise n bits s).stage = s.stage := (evOnly_raise n bits s).stage
@[simp] theorem raise_hs : (Machine.raise n bits s).hs = s.hs := (evOnly_raise n bits s).hs
@[simp] theorem raise_trees : (Machine.raise n bits s).trees = s.trees := (evOnly_raise n bits s).trees
@[simp] theorem raise_scr : (Machine.raise n bits s).scr = s.scr := (evOnly_raise n bits s).scr
@[simp] theorem raise_heart : (Machine.raise n bits s).heart = s.heart := (evOnly_raise n bits s).heart
@[simp] theorem raise_time : (Machine.raise n bits s).time = s.time := (evOnly_raise n bits s).time
@[simp] theorem raise_pw : (Machine.raise n bits s).pw = s.pw := (evOnly_raise n bits s).pw
@[simp] theorem raise_nor : (Machine.raise n bits s).nor = s.nor := (evOnly_raise n bits s).nor
@[simp] theorem raise_mgmt_fw : (Machine.raise n bits s).mgmt.fw = s.mgmt.fw := (evOnly_raise n bits s).mgmt_fw
@[simp] theorem raise_mgmt_allow : (Machine.raise n bits s).mgmt.allow = s.mgmt.allow := (evOnly_raise n bits s).mgmt_allow
@[simp] theorem raise_mgmt_cmds : (Machine.raise n bits s).mgmt.cmds = s.mgmt.cmds := (evOnly_raise n bits s).mgmt_cmds
@[simp] theorem raise_mgmt_rings : (Machine.raise n bits s).mgmt.rings = s.mgmt.rings := (evOnly_raise n bits s).mgmt_rings
@[simp] theorem raise_mgmt_waitq : (Machine.raise n bits s).mgmt.waitq = s.mgmt.waitq := (evOnly_raise n bits s).mgmt_waitq
@[simp] theorem raise_mgmt_mseqs : (Machine.raise n bits s).mgmt.mseqs = s.mgmt.mseqs := (evOnly_raise n bits s).mgmt_mseqs
@[simp] theorem raise_mgmt_i3cReqs : (Machine.raise n bits s).mgmt.i3cReqs = s.mgmt.i3cReqs := (evOnly_raise n bits s).mgmt_i3cReqs
@[simp] theorem raise_mgmt_i3cRpls : (Machine.raise n bits s).mgmt.i3cRpls = s.mgmt.i3cRpls := (evOnly_raise n bits s).mgmt_i3cRpls
end

section
variable (key n : Nat) (s : State)
@[simp] theorem count_pending : (Machine.count key n s).pending = s.pending := (evOnly_count key n s).pending
@[simp] theorem count_grade425 : (Machine.count key n s).grade425 = s.grade425 := (evOnly_count key n s).grade425
@[simp] theorem count_net : (Machine.count key n s).net = s.net := (evOnly_count key n s).net
@[simp] theorem count_stage : (Machine.count key n s).stage = s.stage := (evOnly_count key n s).stage
@[simp] theorem count_hs : (Machine.count key n s).hs = s.hs := (evOnly_count key n s).hs
@[simp] theorem count_trees : (Machine.count key n s).trees = s.trees := (evOnly_count key n s).trees
@[simp] theorem count_scr : (Machine.count key n s).scr = s.scr := (evOnly_count key n s).scr
@[simp] theorem count_heart : (Machine.count key n s).heart = s.heart := (evOnly_count key n s).heart
@[simp] theorem count_time : (Machine.count key n s).time = s.time := (evOnly_count key n s).time
@[simp] theorem count_pw : (Machine.count key n s).pw = s.pw := (evOnly_count key n s).pw
@[simp] theorem count_nor : (Machine.count key n s).nor = s.nor := (evOnly_count key n s).nor
@[simp] theorem count_mgmt_fw : (Machine.count key n s).mgmt.fw = s.mgmt.fw := (evOnly_count key n s).mgmt_fw
@[simp] theorem count_mgmt_allow : (Machine.count key n s).mgmt.allow = s.mgmt.allow := (evOnly_count key n s).mgmt_allow
@[simp] theorem count_mgmt_cmds : (Machine.count key n s).mgmt.cmds = s.mgmt.cmds := (evOnly_count key n s).mgmt_cmds
@[simp] theorem count_mgmt_rings : (Machine.count key n s).mgmt.rings = s.mgmt.rings := (evOnly_count key n s).mgmt_rings
@[simp] theorem count_mgmt_waitq : (Machine.count key n s).mgmt.waitq = s.mgmt.waitq := (evOnly_count key n s).mgmt_waitq
@[simp] theorem count_mgmt_mseqs : (Machine.count key n s).mgmt.mseqs = s.mgmt.mseqs := (evOnly_count key n s).mgmt_mseqs
@[simp] theorem count_mgmt_i3cReqs : (Machine.count key n s).mgmt.i3cReqs = s.mgmt.i3cReqs := (evOnly_count key n s).mgmt_i3cReqs
@[simp] theorem count_mgmt_i3cRpls : (Machine.count key n s).mgmt.i3cRpls = s.mgmt.i3cRpls := (evOnly_count key n s).mgmt_i3cRpls
end

section
variable (key : Nat) (s : State)
@[simp] theorem inc_pending : (Machine.inc key s).pending = s.pending := (evOnly_inc key s).pending
@[simp] theorem inc_grade425 : (Machine.inc key s).grade425 = s.grade425 := (evOnly_inc key s).grade425
@[simp] theorem inc_net : (Machine.inc key s).net = s.net := (evOnly_inc key s).net
@[simp] theorem inc_stage : (Machine.inc key s).stage = s.stage := (evOnly_inc key s).stage
@[simp] theorem inc_hs : (Machine.inc key s).hs = s.hs := (evOnly_inc key s).hs
@[simp] theorem inc_trees : (Machine.inc key s).trees = s.trees := (evOnly_inc key s).trees
@[simp] theorem inc_scr : (Machine.inc key s).scr = s.scr := (evOnly_inc key s).scr
@[simp] theorem inc_heart : (Machine.inc key s).heart = s.heart := (evOnly_inc key s).heart
@[simp] theorem inc_time : (Machine.inc key s).time = s.time := (evOnly_inc key s).time
@[simp] theorem inc_pw : (Machine.inc key s).pw = s.pw := (evOnly_inc key s).pw
@[simp] theorem inc_nor : (Machine.inc key s).nor = s.nor := (evOnly_inc key s).nor
@[simp] theorem inc_mgmt_fw : (Machine.inc key s).mgmt.fw = s.mgmt.fw := (evOnly_inc key s).mgmt_fw
@[simp] theorem inc_mgmt_allow : (Machine.inc key s).mgmt.allow = s.mgmt.allow := (evOnly_inc key s).mgmt_allow
@[simp] theorem inc_mgmt_cmds : (Machine.inc key s).mgmt.cmds = s.mgmt.cmds := (evOnly_inc key s).mgmt_cmds
@[simp] theorem inc_mgmt_rings : (Machine.inc key s).mgmt.rings = s.mgmt.rings := (evOnly_inc key s).mgmt_rings
@[simp] theorem inc_mgmt_waitq : (Machine.inc key s).mgmt.waitq = s.mgmt.waitq := (evOnly_inc key s).mgmt_waitq
@[simp] theorem inc_mgmt_mseqs : (Machine.inc key s).mgmt.mseqs = s.mgmt.mseqs := (evOnly_inc key s).mgmt_mseqs
@[simp] theorem inc_mgmt_i3cReqs : (Machine.inc key s).mgmt.i3cReqs = s.mgmt.i3cReqs := (evOnly_inc key s).mgmt_i3cReqs
@[simp] theorem inc_mgmt_i3cRpls : (Machine.inc key s).mgmt.i3cRpls = s.mgmt.i3cRpls := (evOnly_inc key s).mgmt_i3cRpls
end

section
variable (h fn vec : Nat) (s : State)
@[simp] theorem fireMsix_pending : (Machine.fireMsix h fn vec s).pending = s.pending := (evOnly_fireMsix h fn vec s).pending
@[simp] theorem fireMsix_grade425 : (Machine.fireMsix h fn vec s).grade425 = s.grade425 := (evOnly_fireMsix h fn vec s).grade425
@[simp] theorem fireMsix_net : (Machine.fireMsix h fn vec s).net = s.net := (evOnly_fireMsix h fn vec s).net
@[simp] theorem fireMsix_stage : (Machine.fireMsix h fn vec s).stage = s.stage := (evOnly_fireMsix h fn vec s).stage
@[simp] theorem fireMsix_hs : (Machine.fireMsix h fn vec s).hs = s.hs := (evOnly_fireMsix h fn vec s).hs
@[simp] theorem fireMsix_trees : (Machine.fireMsix h fn vec s).trees = s.trees := (evOnly_fireMsix h fn vec s).trees
@[simp] theorem fireMsix_scr : (Machine.fireMsix h fn vec s).scr = s.scr := (evOnly_fireMsix h fn vec s).scr
@[simp] theorem fireMsix_heart : (Machine.fireMsix h fn vec s).heart = s.heart := (evOnly_fireMsix h fn vec s).heart
@[simp] theorem fireMsix_time : (Machine.fireMsix h fn vec s).time = s.time := (evOnly_fireMsix h fn vec s).time
@[simp] theorem fireMsix_pw : (Machine.fireMsix h fn vec s).pw = s.pw := (evOnly_fireMsix h fn vec s).pw
@[simp] theorem fireMsix_nor : (Machine.fireMsix h fn vec s).nor = s.nor := (evOnly_fireMsix h fn vec s).nor
@[simp] theorem fireMsix_mgmt_fw : (Machine.fireMsix h fn vec s).mgmt.fw = s.mgmt.fw := (evOnly_fireMsix h fn vec s).mgmt_fw
@[simp] theorem fireMsix_mgmt_allow : (Machine.fireMsix h fn vec s).mgmt.allow = s.mgmt.allow := (evOnly_fireMsix h fn vec s).mgmt_allow
@[simp] theorem fireMsix_mgmt_cmds : (Machine.fireMsix h fn vec s).mgmt.cmds = s.mgmt.cmds := (evOnly_fireMsix h fn vec s).mgmt_cmds
@[simp] theorem fireMsix_mgmt_rings : (Machine.fireMsix h fn vec s).mgmt.rings = s.mgmt.rings := (evOnly_fireMsix h fn vec s).mgmt_rings
@[simp] theorem fireMsix_mgmt_waitq : (Machine.fireMsix h fn vec s).mgmt.waitq = s.mgmt.waitq := (evOnly_fireMsix h fn vec s).mgmt_waitq
@[simp] theorem fireMsix_mgmt_mseqs : (Machine.fireMsix h fn vec s).mgmt.mseqs = s.mgmt.mseqs := (evOnly_fireMsix h fn vec s).mgmt_mseqs
@[simp] theorem fireMsix_mgmt_i3cReqs : (Machine.fireMsix h fn vec s).mgmt.i3cReqs = s.mgmt.i3cReqs := (evOnly_fireMsix h fn vec s).mgmt_i3cReqs
@[simp] theorem fireMsix_mgmt_i3cRpls : (Machine.fireMsix h fn vec s).mgmt.i3cRpls = s.mgmt.i3cRpls := (evOnly_fireMsix h fn vec s).mgmt_i3cRpls
end

end Sys2Proof.Laws
end

