-- ==== Sys2Proof/Laws/Maps.lean ====
section
/-! SUPPORT. Laws of the sparse maps: read after write, and that every operation keeps the canonical form. -/

namespace Sys2Proof.Laws.Maps
open Sys2Proof.Machine

variable {α : Type}

theorem find?_insert_same (k : Nat) (v : α) (m : TMap α) : Maps.find? (Maps.insert k v m) k = some v := by
  induction m with
  | nil => simp [Maps.insert, Maps.find?]
  | cons e t ih =>
    obtain ⟨j, w⟩ := e
    unfold Maps.insert
    split
    · simp [Maps.find?]
    · split
      · simp [Maps.find?]
      · rename_i h
        simp [Maps.find?, Ne.symm h, ih]

theorem find?_insert_other {k j : Nat} (h : j ≠ k) (v : α) (m : TMap α) :
    Maps.find? (Maps.insert k v m) j = Maps.find? m j := by
  induction m with
  | nil => simp [Maps.insert, Maps.find?, Ne.symm h]
  | cons e t ih =>
    obtain ⟨i, w⟩ := e
    unfold Maps.insert
    split
    · simp [Maps.find?, Ne.symm h]
    · split
      · subst_vars; simp [Maps.find?, Ne.symm h]
      · simp [Maps.find?, ih]

theorem find?_erase_same (k : Nat) (m : TMap α) : Maps.find? (Maps.erase k m) k = none := by
  induction m with
  | nil => simp [Maps.erase, Maps.find?]
  | cons e t ih =>
    obtain ⟨i, w⟩ := e
    unfold Maps.erase
    split
    · exact ih
    · rename_i h; simp [Maps.find?, Ne.symm h, ih]

theorem find?_erase_other {k j : Nat} (h : j ≠ k) (m : TMap α) :
    Maps.find? (Maps.erase k m) j = Maps.find? m j := by
  induction m with
  | nil => simp [Maps.erase]
  | cons e t ih =>
    obtain ⟨i, w⟩ := e
    unfold Maps.erase
    split
    · subst_vars; simp [Maps.find?, Ne.symm h, ih]
    · simp [Maps.find?, ih]

@[simp] theorem get_nil (d : α) (k : Nat) : Maps.get d ([] : TMap α) k = d := rfl

theorem mem_insert {k : Nat} {v : α} {m : TMap α} {e : Nat × α} (h : e ∈ Maps.insert k v m) : e = (k, v) ∨ e ∈ m := by
  induction m with
  | nil => simpa [Maps.insert] using h
  | cons a t ih =>
    obtain ⟨j, w⟩ := a
    unfold Maps.insert at h
    split at h
    · simpa using h
    · split at h
      · simp only [List.mem_cons] at h ⊢; tauto
      · simp only [List.mem_cons] at h ⊢
        rcases h with h | h
        · tauto
        · have := ih h; tauto

theorem mem_erase {k : Nat} {m : TMap α} {e : Nat × α} (h : e ∈ Maps.erase k m) : e ∈ m ∧ e.1 ≠ k := by
  induction m with
  | nil => simp [Maps.erase] at h
  | cons a t ih =>
    obtain ⟨j, w⟩ := a
    unfold Maps.erase at h
    split at h
    · have := ih h; simp [this]
    · simp only [List.mem_cons] at h ⊢
      rcases h with h | h
      · subst h; rename_i hk; exact ⟨Or.inl rfl, Ne.symm hk⟩
      · have := ih h; tauto

theorem sorted_insert (k : Nat) (v : α) (m : TMap α) (h : m.Pairwise (fun a b => a.1 < b.1)) :
    (Maps.insert k v m).Pairwise (fun a b => a.1 < b.1) := by
  induction m with
  | nil => simp [Maps.insert]
  | cons a t ih =>
    obtain ⟨j, w⟩ := a
    rw [List.pairwise_cons] at h
    unfold Maps.insert
    split
    · rename_i hk
      refine List.pairwise_cons.2 ⟨?_, List.pairwise_cons.2 h⟩
      intro b hb
      rcases List.mem_cons.1 hb with rfl | hb
      · exact hk
      · exact lt_trans hk (h.1 b hb)
    · split
      · subst_vars; exact List.pairwise_cons.2 h
      · refine List.pairwise_cons.2 ⟨?_, ih h.2⟩
        intro b hb
        rcases mem_insert hb with rfl | hb
        · simp only; omega
        · exact h.1 b hb

theorem sorted_erase (k : Nat) (m : TMap α) (h : m.Pairwise (fun a b => a.1 < b.1)) :
    (Maps.erase k m).Pairwise (fun a b => a.1 < b.1) := by
  induction m with
  | nil => simp [Maps.erase]
  | cons a t ih =>
    obtain ⟨j, w⟩ := a
    rw [List.pairwise_cons] at h
    unfold Maps.erase
    split
    · exact ih h.2
    · exact List.pairwise_cons.2 ⟨fun b hb => h.1 b (mem_erase hb).1, ih h.2⟩

variable [DecidableEq α]

/-- A read of the key just written answers the value written. -/
@[simp] theorem get_put_same (d : α) (m : TMap α) (k : Nat) (v : α) : Maps.get d (Maps.put d m k v) k = v := by
  unfold Maps.put Maps.get
  split
  · simp [find?_erase_same, *]
  · simp [find?_insert_same]

/-- A write leaves every other key as it was. -/
theorem get_put_other {k j : Nat} (h : j ≠ k) (d : α) (m : TMap α) (v : α) :
    Maps.get d (Maps.put d m k v) j = Maps.get d m j := by
  unfold Maps.put Maps.get
  split
  · simp [find?_erase_other h]
  · simp [find?_insert_other h]

/-- A read after a write, both cases in one equation. -/
theorem get_put (d : α) (m : TMap α) (k j : Nat) (v : α) :
    Maps.get d (Maps.put d m k v) j = if j = k then v else Maps.get d m j := by
  split
  · subst_vars; simp
  · exact get_put_other ‹_› d m v

/-- A write keeps the canonical form. -/
theorem wf_put (d : α) (m : TMap α) (k : Nat) (v : α) (h : Maps.wf d m = true) : Maps.wf d (Maps.put d m k v) = true := by
  simp only [Maps.wf, Maps.sorted, Bool.and_eq_true, decide_eq_true_eq, List.all_eq_true] at h ⊢
  unfold Maps.put
  split
  · exact ⟨sorted_erase k m h.1, fun e he => h.2 e (mem_erase he).1⟩
  · refine ⟨sorted_insert k v m h.1, fun e he => ?_⟩
    rcases mem_insert he with rfl | he
    · assumption
    · exact h.2 e he

/-- So does dropping keys. -/
theorem wf_keep (d : α) (p : Nat → Bool) (m : TMap α) (h : Maps.wf d m = true) : Maps.wf d (Maps.keep p m) = true := by
  simp only [Maps.wf, Maps.sorted, Maps.keep, Bool.and_eq_true, decide_eq_true_eq, List.all_eq_true] at h ⊢
  exact ⟨decide_eq_true (List.Pairwise.filter _ h.1), fun e he => h.2 e (List.mem_filter.1 he).1⟩

theorem wf_upd (d : α) (m : TMap α) (k : Nat) (f : α → α) (h : Maps.wf d m = true) :
    Maps.wf d (Maps.upd d m k f) = true := wf_put d m k _ h

theorem wf_putList (d : α) (vs : List α) (m : TMap α) (k : Nat) (h : Maps.wf d m = true) :
    Maps.wf d (Maps.putList d m k vs) = true := by
  induction vs generalizing m k with
  | nil => exact h
  | cons v vs ih => exact ih _ _ (wf_put d m k v h)

/-- A write of consecutive keys leaves the keys outside them as they were. -/
theorem get_putList_other (d : α) (vs : List α) (m : TMap α) (k j : Nat) (h : j < k ∨ k + vs.length ≤ j) :
    Maps.get d (Maps.putList d m k vs) j = Maps.get d m j := by
  induction vs generalizing m k with
  | nil => rfl
  | cons v vs ih =>
    simp only [List.length_cons] at h
    rw [Maps.putList, ih _ _ (by omega), get_put_other (by omega)]

/-- A write of consecutive keys, read back. -/
theorem get_putList_same (d : α) (vs : List α) (m : TMap α) (k i : Nat) (h : i < vs.length) :
    Maps.get d (Maps.putList d m k vs) (k + i) = vs[i] := by
  induction vs generalizing m k i with
  | nil => simp at h
  | cons v vs ih =>
    cases i with
    | zero => rw [Maps.putList, get_putList_other _ _ _ _ _ (by omega)]; simp
    | succ i =>
      have := ih (Maps.put d m k v) (k + 1) i (by simpa using h)
      simpa [Maps.putList, Nat.add_assoc, Nat.add_comm, Nat.add_left_comm] using this

end Sys2Proof.Laws.Maps
end

