-- ==== Sys2Proof/Laws/Reads.lean ====
section
/-! SUPPORT. The records of State: what is written is read back, other records stay, and reporting changes none; and what an
arriving packet must pass before its channel acts on it. -/

namespace Sys2Proof.Laws
open Sys2Proof.Machine

@[simp] theorem port_updPort_same (n : Nat) (f : Port → Port) (s : State) : port (updPort n f s) n = f (port s n) := by simp [port, updPort, setPort]
theorem port_updPort_other {n n' : Nat} (hk : n' ≠ n) (f : Port → Port) (s : State) :
    port (updPort n f s) n' = port s n' := by
  simp only [port, updPort, setPort]
  exact Maps.get_put_other hk _ _ _
@[simp] theorem port_raise (m bits : Nat) (n : Nat) (s : State) : port (Machine.raise m bits s) n = port s n := by simp [port]
@[simp] theorem port_count (key m : Nat) (n : Nat) (s : State) : port (Machine.count key m s) n = port s n := by simp [port]
@[simp] theorem port_inc (key : Nat) (n : Nat) (s : State) : port (Machine.inc key s) n = port s n := by simp [port]
@[simp] theorem port_emit (o : Out) (n : Nat) (s : State) : port (Machine.emit o s) n = port s n := by simp [port]

@[simp] theorem outp_updOut_same (n : Nat) (f : Output → Output) (s : State) : outp (updOut n f s) n = f (outp s n) := by simp [outp, updOut]
theorem outp_updOut_other {n n' : Nat} (hk : n' ≠ n) (f : Output → Output) (s : State) :
    outp (updOut n f s) n' = outp s n' := by
  simp only [outp, updOut]
  exact Maps.get_put_other hk _ _ _
@[simp] theorem outp_raise (m bits : Nat) (n : Nat) (s : State) : outp (Machine.raise m bits s) n = outp s n := by simp [outp]
@[simp] theorem outp_count (key m : Nat) (n : Nat) (s : State) : outp (Machine.count key m s) n = outp s n := by simp [outp]
@[simp] theorem outp_inc (key : Nat) (n : Nat) (s : State) : outp (Machine.inc key s) n = outp s n := by simp [outp]
@[simp] theorem outp_emit (o : Out) (n : Nat) (s : State) : outp (Machine.emit o s) n = outp s n := by simp [outp]

@[simp] theorem hport_updHost_same (n : Nat) (f : HostPort → HostPort) (s : State) : hport (updHost n f s) n = f (hport s n) := by simp [hport, updHost]
theorem hport_updHost_other {n n' : Nat} (hk : n' ≠ n) (f : HostPort → HostPort) (s : State) :
    hport (updHost n f s) n' = hport s n' := by
  simp only [hport, updHost]
  exact Maps.get_put_other hk _ _ _
@[simp] theorem hport_raise (m bits : Nat) (n : Nat) (s : State) : hport (Machine.raise m bits s) n = hport s n := by simp [hport]
@[simp] theorem hport_count (key m : Nat) (n : Nat) (s : State) : hport (Machine.count key m s) n = hport s n := by simp [hport]
@[simp] theorem hport_inc (key : Nat) (n : Nat) (s : State) : hport (Machine.inc key s) n = hport s n := by simp [hport]
@[simp] theorem hport_emit (o : Out) (n : Nat) (s : State) : hport (Machine.emit o s) n = hport s n := by simp [hport]

@[simp] theorem domain_updDom_same (n : Nat) (f : Domain → Domain) (s : State) : domain (updDom n f s) n = f (domain s n) := by simp [domain, updDom]
theorem domain_updDom_other {n n' : Nat} (hk : n' ≠ n) (f : Domain → Domain) (s : State) :
    domain (updDom n f s) n' = domain s n' := by
  simp only [domain, updDom]
  exact Maps.get_put_other hk _ _ _
@[simp] theorem domain_raise (m bits : Nat) (n : Nat) (s : State) : domain (Machine.raise m bits s) n = domain s n := by simp [domain]
@[simp] theorem domain_count (key m : Nat) (n : Nat) (s : State) : domain (Machine.count key m s) n = domain s n := by simp [domain]
@[simp] theorem domain_inc (key : Nat) (n : Nat) (s : State) : domain (Machine.inc key s) n = domain s n := by simp [domain]
@[simp] theorem domain_emit (o : Out) (n : Nat) (s : State) : domain (Machine.emit o s) n = domain s n := by simp [domain]

@[simp] theorem ring_updRing_same (n : Nat) (f : Ring → Ring) (s : State) : ring (updRing n f s) n = f (ring s n) := by simp [ring, updRing]
theorem ring_updRing_other {n n' : Nat} (hk : n' ≠ n) (f : Ring → Ring) (s : State) :
    ring (updRing n f s) n' = ring s n' := by
  simp only [ring, updRing]
  exact Maps.get_put_other hk _ _ _
@[simp] theorem ring_raise (m bits : Nat) (n : Nat) (s : State) : ring (Machine.raise m bits s) n = ring s n := by simp [ring]
@[simp] theorem ring_count (key m : Nat) (n : Nat) (s : State) : ring (Machine.count key m s) n = ring s n := by simp [ring]
@[simp] theorem ring_inc (key : Nat) (n : Nat) (s : State) : ring (Machine.inc key s) n = ring s n := by simp [ring]
@[simp] theorem ring_emit (o : Out) (n : Nat) (s : State) : ring (Machine.emit o s) n = ring s n := by simp [ring]

@[simp] theorem xl_updXl_same (n : Nat) (f : Xlate → Xlate) (s : State) : xl (updXl n f s) n = f (xl s n) := by simp [xl, updXl]
theorem xl_updXl_other {n n' : Nat} (hk : n' ≠ n) (f : Xlate → Xlate) (s : State) :
    xl (updXl n f s) n' = xl s n' := by
  simp only [xl, updXl]
  exact Maps.get_put_other hk _ _ _
@[simp] theorem xl_raise (m bits : Nat) (n : Nat) (s : State) : xl (Machine.raise m bits s) n = xl s n := by simp [xl]
@[simp] theorem xl_count (key m : Nat) (n : Nat) (s : State) : xl (Machine.count key m s) n = xl s n := by simp [xl]
@[simp] theorem xl_inc (key : Nat) (n : Nat) (s : State) : xl (Machine.inc key s) n = xl s n := by simp [xl]
@[simp] theorem xl_emit (o : Out) (n : Nat) (s : State) : xl (Machine.emit o s) n = xl s n := by simp [xl]

@[simp] theorem wqOf_updWq_same (h q : Nat) (f : Wq → Wq) (s : State) : wqOf (updWq h q f s) h q = f (wqOf s h q) := by simp [wqOf, updWq, setWq]
theorem wqOf_updWq_other {h q h' q' : Nat} (hk : objKey 20 h' q' ≠ objKey 20 h q) (f : Wq → Wq) (s : State) :
    wqOf (updWq h q f s) h' q' = wqOf s h' q' := by
  simp only [wqOf, updWq, setWq]
  exact Maps.get_put_other hk _ _ _
@[simp] theorem wqOf_raise (m bits : Nat) (h q : Nat) (s : State) : wqOf (Machine.raise m bits s) h q = wqOf s h q := by simp [wqOf]
@[simp] theorem wqOf_count (key m : Nat) (h q : Nat) (s : State) : wqOf (Machine.count key m s) h q = wqOf s h q := by simp [wqOf]
@[simp] theorem wqOf_inc (key : Nat) (h q : Nat) (s : State) : wqOf (Machine.inc key s) h q = wqOf s h q := by simp [wqOf]
@[simp] theorem wqOf_emit (o : Out) (h q : Nat) (s : State) : wqOf (Machine.emit o s) h q = wqOf s h q := by simp [wqOf]

@[simp] theorem cqOf_updCq_same (h q : Nat) (f : Cq → Cq) (s : State) : cqOf (updCq h q f s) h q = f (cqOf s h q) := by simp [cqOf, updCq, setCq]
theorem cqOf_updCq_other {h q h' q' : Nat} (hk : objKey 20 h' q' ≠ objKey 20 h q) (f : Cq → Cq) (s : State) :
    cqOf (updCq h q f s) h' q' = cqOf s h' q' := by
  simp only [cqOf, updCq, setCq]
  exact Maps.get_put_other hk _ _ _
@[simp] theorem cqOf_raise (m bits : Nat) (h q : Nat) (s : State) : cqOf (Machine.raise m bits s) h q = cqOf s h q := by simp [cqOf]
@[simp] theorem cqOf_count (key m : Nat) (h q : Nat) (s : State) : cqOf (Machine.count key m s) h q = cqOf s h q := by simp [cqOf]
@[simp] theorem cqOf_inc (key : Nat) (h q : Nat) (s : State) : cqOf (Machine.inc key s) h q = cqOf s h q := by simp [cqOf]
@[simp] theorem cqOf_emit (o : Out) (h q : Nat) (s : State) : cqOf (Machine.emit o s) h q = cqOf s h q := by simp [cqOf]

@[simp] theorem chanOf_updChan_same (h q : Nat) (f : Chan → Chan) (s : State) : chanOf (updChan h q f s) h q = f (chanOf s h q) := by simp [chanOf, updChan, setChan]
theorem chanOf_updChan_other {h q h' q' : Nat} (hk : objKey 24 h' q' ≠ objKey 24 h q) (f : Chan → Chan) (s : State) :
    chanOf (updChan h q f s) h' q' = chanOf s h' q' := by
  simp only [chanOf, updChan, setChan]
  exact Maps.get_put_other hk _ _ _
@[simp] theorem chanOf_raise (m bits : Nat) (h q : Nat) (s : State) : chanOf (Machine.raise m bits s) h q = chanOf s h q := by simp [chanOf]
@[simp] theorem chanOf_count (key m : Nat) (h q : Nat) (s : State) : chanOf (Machine.count key m s) h q = chanOf s h q := by simp [chanOf]
@[simp] theorem chanOf_inc (key : Nat) (h q : Nat) (s : State) : chanOf (Machine.inc key s) h q = chanOf s h q := by simp [chanOf]
@[simp] theorem chanOf_emit (o : Out) (h q : Nat) (s : State) : chanOf (Machine.emit o s) h q = chanOf s h q := by simp [chanOf]

@[simp] theorem wqOf_setWq_same (h q : Nat) (v : Wq) (s : State) : wqOf (setWq h q v s) h q = v := by simp [wqOf, setWq]
theorem wqOf_setWq_other {h q h' q' : Nat} (hk : objKey 20 h' q' ≠ objKey 20 h q) (v : Wq) (s : State) :
    wqOf (setWq h q v s) h' q' = wqOf s h' q' := by
  simp only [wqOf, setWq]
  exact Maps.get_put_other hk _ _ _

@[simp] theorem cqOf_setCq_same (h q : Nat) (v : Cq) (s : State) : cqOf (setCq h q v s) h q = v := by simp [cqOf, setCq]
theorem cqOf_setCq_other {h q h' q' : Nat} (hk : objKey 20 h' q' ≠ objKey 20 h q) (v : Cq) (s : State) :
    cqOf (setCq h q v s) h' q' = cqOf s h' q' := by
  simp only [cqOf, setCq]
  exact Maps.get_put_other hk _ _ _

@[simp] theorem chanOf_setChan_same (h q : Nat) (v : Chan) (s : State) : chanOf (setChan h q v s) h q = v := by simp [chanOf, setChan]
theorem chanOf_setChan_other {h q h' q' : Nat} (hk : objKey 24 h' q' ≠ objKey 24 h q) (v : Chan) (s : State) :
    chanOf (setChan h q v s) h' q' = chanOf s h' q' := by
  simp only [chanOf, setChan]
  exact Maps.get_put_other hk _ _ _

@[simp] theorem port_setPort_same (n : Nat) (v : Port) (s : State) : port (setPort n v s) n = v := by simp [port, setPort]
theorem port_setPort_other {n n' : Nat} (hk : n' ≠ n) (v : Port) (s : State) :
    port (setPort n v s) n' = port s n' := by
  simp only [port, setPort]
  exact Maps.get_put_other hk _ _ _

@[simp] theorem evc_setEvc_same (h q : Nat) (v : EvCtr) (s : State) : evc (setEvc h q v s) h q = v := by simp [evc, setEvc]
theorem evc_setEvc_other {h q h' q' : Nat} (hk : objKey 16 h' q' ≠ objKey 16 h q) (v : EvCtr) (s : State) :
    evc (setEvc h q v s) h' q' = evc s h' q' := by
  simp only [evc, setEvc]
  exact Maps.get_put_other hk _ _ _
@[simp] theorem evc_raise (m bits : Nat) (h q : Nat) (s : State) : evc (Machine.raise m bits s) h q = evc s h q := by simp [evc]
@[simp] theorem evc_count (key m : Nat) (h q : Nat) (s : State) : evc (Machine.count key m s) h q = evc s h q := by simp [evc]
@[simp] theorem evc_inc (key : Nat) (h q : Nat) (s : State) : evc (Machine.inc key s) h q = evc s h q := by simp [evc]
@[simp] theorem evc_emit (o : Out) (h q : Nat) (s : State) : evc (Machine.emit o s) h q = evc s h q := by simp [evc]

@[simp] theorem slotOf_setSlot_same (h q r : Nat) (v : Slot) (s : State) : slotOf (setSlot h q r v s) h q r = v := by simp [slotOf, setSlot]
theorem slotOf_setSlot_other {h q r h' q' r' : Nat} (hk : slotKey h' q' r' ≠ slotKey h q r) (v : Slot) (s : State) :
    slotOf (setSlot h q r v s) h' q' r' = slotOf s h' q' r' := by
  simp only [slotOf, setSlot]
  exact Maps.get_put_other hk _ _ _
@[simp] theorem slotOf_raise (m bits : Nat) (h q r : Nat) (s : State) : slotOf (Machine.raise m bits s) h q r = slotOf s h q r := by simp [slotOf]
@[simp] theorem slotOf_count (key m : Nat) (h q r : Nat) (s : State) : slotOf (Machine.count key m s) h q r = slotOf s h q r := by simp [slotOf]
@[simp] theorem slotOf_inc (key : Nat) (h q r : Nat) (s : State) : slotOf (Machine.inc key s) h q r = slotOf s h q r := by simp [slotOf]
@[simp] theorem slotOf_emit (o : Out) (h q r : Nat) (s : State) : slotOf (Machine.emit o s) h q r = slotOf s h q r := by simp [slotOf]

@[simp] theorem postedAt_setPosted_same (n : Nat) (v : List Recv) (s : State) : postedAt (setPosted n v s) n = v := by simp [postedAt, setPosted]
theorem postedAt_setPosted_other {n n' : Nat} (hk : n' ≠ n) (v : List Recv) (s : State) :
    postedAt (setPosted n v s) n' = postedAt s n' := by
  simp only [postedAt, setPosted]
  exact Maps.get_put_other hk _ _ _
@[simp] theorem postedAt_raise (m bits : Nat) (n : Nat) (s : State) : postedAt (Machine.raise m bits s) n = postedAt s n := by simp [postedAt]
@[simp] theorem postedAt_count (key m : Nat) (n : Nat) (s : State) : postedAt (Machine.count key m s) n = postedAt s n := by simp [postedAt]
@[simp] theorem postedAt_inc (key : Nat) (n : Nat) (s : State) : postedAt (Machine.inc key s) n = postedAt s n := by simp [postedAt]
@[simp] theorem postedAt_emit (o : Out) (n : Nat) (s : State) : postedAt (Machine.emit o s) n = postedAt s n := by simp [postedAt]

@[simp] theorem unexpAt_setUnexp_same (n : Nat) (v : List Unexp) (s : State) : unexpAt (setUnexp n v s) n = v := by simp [unexpAt, setUnexp]
theorem unexpAt_setUnexp_other {n n' : Nat} (hk : n' ≠ n) (v : List Unexp) (s : State) :
    unexpAt (setUnexp n v s) n' = unexpAt s n' := by
  simp only [unexpAt, setUnexp]
  exact Maps.get_put_other hk _ _ _
@[simp] theorem unexpAt_raise (m bits : Nat) (n : Nat) (s : State) : unexpAt (Machine.raise m bits s) n = unexpAt s n := by simp [unexpAt]
@[simp] theorem unexpAt_count (key m : Nat) (n : Nat) (s : State) : unexpAt (Machine.count key m s) n = unexpAt s n := by simp [unexpAt]
@[simp] theorem unexpAt_inc (key : Nat) (n : Nat) (s : State) : unexpAt (Machine.inc key s) n = unexpAt s n := by simp [unexpAt]
@[simp] theorem unexpAt_emit (o : Out) (n : Nat) (s : State) : unexpAt (Machine.emit o s) n = unexpAt s n := by simp [unexpAt]

@[simp] theorem bindOf_setBind_same (h q : Nat) (v : TreeBind) (s : State) : bindOf (setBind h q v s) h q = v := by simp [bindOf, setBind]
theorem bindOf_setBind_other {h q h' q' : Nat} (hk : h' * 1024 + q' ≠ h * 1024 + q) (v : TreeBind) (s : State) :
    bindOf (setBind h q v s) h' q' = bindOf s h' q' := by
  simp only [bindOf, setBind]
  exact Maps.get_put_other hk _ _ _
@[simp] theorem bindOf_raise (m bits : Nat) (h q : Nat) (s : State) : bindOf (Machine.raise m bits s) h q = bindOf s h q := by simp [bindOf]
@[simp] theorem bindOf_count (key m : Nat) (h q : Nat) (s : State) : bindOf (Machine.count key m s) h q = bindOf s h q := by simp [bindOf]
@[simp] theorem bindOf_inc (key : Nat) (h q : Nat) (s : State) : bindOf (Machine.inc key s) h q = bindOf s h q := by simp [bindOf]
@[simp] theorem bindOf_emit (o : Out) (h q : Nat) (s : State) : bindOf (Machine.emit o s) h q = bindOf s h q := by simp [bindOf]

@[simp] theorem wbufOf_setWbuf_same (n : Nat) (v : List BufWrite) (s : State) : wbufOf (setWbuf n v s) n = v := by simp [wbufOf, setWbuf]
theorem wbufOf_setWbuf_other {n n' : Nat} (hk : n' ≠ n) (v : List BufWrite) (s : State) :
    wbufOf (setWbuf n v s) n' = wbufOf s n' := by
  simp only [wbufOf, setWbuf]
  exact Maps.get_put_other hk _ _ _
@[simp] theorem wbufOf_raise (m bits : Nat) (n : Nat) (s : State) : wbufOf (Machine.raise m bits s) n = wbufOf s n := by simp [wbufOf]
@[simp] theorem wbufOf_count (key m : Nat) (n : Nat) (s : State) : wbufOf (Machine.count key m s) n = wbufOf s n := by simp [wbufOf]
@[simp] theorem wbufOf_inc (key : Nat) (n : Nat) (s : State) : wbufOf (Machine.inc key s) n = wbufOf s n := by simp [wbufOf]
@[simp] theorem wbufOf_emit (o : Out) (n : Nat) (s : State) : wbufOf (Machine.emit o s) n = wbufOf s n := by simp [wbufOf]

@[simp] theorem lockOf_setLock_same (h q : Nat) (v : Lock) (s : State) : lockOf (setLock h q v s) h q = v := by simp [lockOf, setLock]
theorem lockOf_setLock_other {h q h' q' : Nat} (hk : h' * 2 ^ 11 + q' ≠ h * 2 ^ 11 + q) (v : Lock) (s : State) :
    lockOf (setLock h q v s) h' q' = lockOf s h' q' := by
  simp only [lockOf, setLock]
  exact Maps.get_put_other hk _ _ _
@[simp] theorem lockOf_raise (m bits : Nat) (h q : Nat) (s : State) : lockOf (Machine.raise m bits s) h q = lockOf s h q := by simp [lockOf]
@[simp] theorem lockOf_count (key m : Nat) (h q : Nat) (s : State) : lockOf (Machine.count key m s) h q = lockOf s h q := by simp [lockOf]
@[simp] theorem lockOf_inc (key : Nat) (h q : Nat) (s : State) : lockOf (Machine.inc key s) h q = lockOf s h q := by simp [lockOf]
@[simp] theorem lockOf_emit (o : Out) (h q : Nat) (s : State) : lockOf (Machine.emit o s) h q = lockOf s h q := by simp [lockOf]

@[simp] theorem lgroupOf_setLgroup_same (h q : Nat) (v : LockGroup) (s : State) : lgroupOf (setLgroup h q v s) h q = v := by simp [lgroupOf, setLgroup]
theorem lgroupOf_setLgroup_other {h q h' q' : Nat} (hk : h' * 32 + q' ≠ h * 32 + q) (v : LockGroup) (s : State) :
    lgroupOf (setLgroup h q v s) h' q' = lgroupOf s h' q' := by
  simp only [lgroupOf, setLgroup]
  exact Maps.get_put_other hk _ _ _
@[simp] theorem lgroupOf_raise (m bits : Nat) (h q : Nat) (s : State) : lgroupOf (Machine.raise m bits s) h q = lgroupOf s h q := by simp [lgroupOf]
@[simp] theorem lgroupOf_count (key m : Nat) (h q : Nat) (s : State) : lgroupOf (Machine.count key m s) h q = lgroupOf s h q := by simp [lgroupOf]
@[simp] theorem lgroupOf_inc (key : Nat) (h q : Nat) (s : State) : lgroupOf (Machine.inc key s) h q = lgroupOf s h q := by simp [lgroupOf]
@[simp] theorem lgroupOf_emit (o : Out) (h q : Nat) (s : State) : lgroupOf (Machine.emit o s) h q = lgroupOf s h q := by simp [lgroupOf]

@[simp] theorem tree_setTree_same (n : Nat) (v : TreeCtx) (s : State) : tree (setTree n v s) n = v := by simp [tree, setTree]
theorem tree_setTree_other {n n' : Nat} (hk : n' ≠ n) (v : TreeCtx) (s : State) :
    tree (setTree n v s) n' = tree s n' := by
  simp only [tree, setTree]
  exact Maps.get_put_other hk _ _ _
@[simp] theorem tree_raise (m bits : Nat) (n : Nat) (s : State) : tree (Machine.raise m bits s) n = tree s n := by simp [tree]
@[simp] theorem tree_count (key m : Nat) (n : Nat) (s : State) : tree (Machine.count key m s) n = tree s n := by simp [tree]
@[simp] theorem tree_inc (key : Nat) (n : Nat) (s : State) : tree (Machine.inc key s) n = tree s n := by simp [tree]
@[simp] theorem tree_emit (o : Out) (n : Nat) (s : State) : tree (Machine.emit o s) n = tree s n := by simp [tree]

@[simp] theorem rawKey_setLinkKey_same (h q r : Nat) (v : LinkKey) (s : State) : rawKey (setLinkKey h q r v s) h q r = v := by simp [rawKey, setLinkKey]
theorem rawKey_setLinkKey_other {h q r h' q' r' : Nat} (hk : h' * 4 + q' * 2 + r' ≠ h * 4 + q * 2 + r) (v : LinkKey) (s : State) :
    rawKey (setLinkKey h q r v s) h' q' r' = rawKey s h' q' r' := by
  simp only [rawKey, setLinkKey]
  exact Maps.get_put_other hk _ _ _
@[simp] theorem rawKey_raise (m bits : Nat) (h q r : Nat) (s : State) : rawKey (Machine.raise m bits s) h q r = rawKey s h q r := by simp [rawKey]
@[simp] theorem rawKey_count (key m : Nat) (h q r : Nat) (s : State) : rawKey (Machine.count key m s) h q r = rawKey s h q r := by simp [rawKey]
@[simp] theorem rawKey_inc (key : Nat) (h q r : Nat) (s : State) : rawKey (Machine.inc key s) h q r = rawKey s h q r := by simp [rawKey]
@[simp] theorem rawKey_emit (o : Out) (h q r : Nat) (s : State) : rawKey (Machine.emit o s) h q r = rawKey s h q r := by simp [rawKey]

/-- A packet that passes the tests before its channel has the type of the command that brings it, at a Bole that serves. -/
theorem arrived_type {h : Nat} {ty : Byte} {p : Packet} {s : State} (e : (arrived h ty p s).2 = true) :
    p.ptype = ty ∧ boleOk s (boleOf h) = true := by
  by_cases hn : (p.ptype ≠ ty ∧ boleTakes p.ptype) ∨ !boleOk s (boleOf h)
  · rw [arrived, if_pos hn] at e
    cases e
  · by_cases ht : p.ptype = ty
    · simp only [ne_eq, Bool.not_eq_true', not_or, Bool.not_eq_false] at hn
      exact ⟨ht, hn.2⟩
    · rw [arrived, if_neg hn] at e
      dsimp only at e
      rw [if_pos ht] at e
      split at e
      · rename_i h1
        rw [e] at h1
        cases h1
      · cases e

/-- A packet that another command brings, or that finds no Bole, changes nothing. -/
theorem arrived_not {h : Nat} {ty : Byte} {p : Packet} {s : State}
    (e : (p.ptype ≠ ty ∧ boleTakes p.ptype = true) ∨ boleOk s (boleOf h) = false) : arrived h ty p s = (s, false) := by
  rcases e with e | e <;> simp [arrived, e]

end Sys2Proof.Laws
end

