-- ==== Sys2Proof/Laws/Run.lean ====
section
/-! SUPPORT. What a command answers once its own effect is known: the shared wrappers of `Machine/Settle.lean` and of every GCP
command, reasoned away once. -/

namespace Sys2Proof.Laws
open Sys2Proof.Machine

/-- From a stable state nothing follows. -/
theorem settle_stable (n : Nat) {s : State} (h : stable s = true) : settle n s = s := by
  cases n <;> simp [settle, h]

/-- Nothing follows a quiet effect. -/
theorem follows_quiet {s t : State} (hq : quiet s t = true) : follows t = t := by
  simp only [quiet, Bool.and_eq_true, Bool.not_eq_true'] at hq
  simp [follows, hq.1.2, settle_stable _ hq.2]

/-- Once the clocks have stopped, nothing follows. -/
theorem follows_stopped {t : State} (ht : t.pw.stopped = true) : follows t = t := by simp [follows, ht]

/-- A command that needs the clocks answers its own effect and what follows it, and the effect alone where that is quiet. -/
theorem clocked_runs {f : State → State} {s t : State} (h : s.pw.stopped = false → f s = t) :
    (s.pw.stopped = false → Host.Outcome.next (whileClocked f s) = (.next (follows t) : Host.Outcome State Fault Refusal)) ∧
      (quiet s t = true → Host.Outcome.next (whileClocked f s) = (.next t : Host.Outcome State Fault Refusal)) := by
  have key (hs : s.pw.stopped = false) : whileClocked f s = follows t := by simp [whileClocked, hs, settled, h hs]
  refine ⟨fun hs => by rw [key hs], fun hq => ?_⟩
  have hs : s.pw.stopped = false := by
    simp only [quiet, Bool.and_eq_true, Bool.not_eq_true'] at hq
    exact hq.1.1
  rw [key hs, follows_quiet hq]

/-- The same for a command that the always-on island or a pin carries out. -/
theorem always_runs {f : State → State} {s t : State} (h : f s = t) :
    Host.Outcome.next (settled f s) = (.next (follows t) : Host.Outcome State Fault Refusal) ∧
      (quiet s t = true → Host.Outcome.next (settled f s) = (.next t : Host.Outcome State Fault Refusal)) := by
  have key : settled f s = follows t := by simp [settled, h]
  exact ⟨by rw [key], fun hq => by rw [key, follows_quiet hq]⟩

theorem foldl_nil_of {α : Type} [BEq α] [LawfulBEq α] {l : List α} {f : State → α → State} {s : State} (h : (l == []) = true) : l.foldl f s = s := by
  cases l <;> simp_all

/-- A state that differs from a stable one by a fence step settles to it. -/
theorem settle_fence (n : Nat) {t : State} (h : fencedNow t ≠ t.ev.fenced) (hq : stable (fenceStep t) = true) :
    settle (n + 2) t = fenceStep t := by
  have hs : stable t = false := by simp [stable, h]
  have hp : pass t = fenceStep t := by
    have hq' := hq
    simp only [stable, Bool.and_eq_true] at hq
    obtain ⟨⟨⟨⟨⟨⟨⟨⟨⟨⟨⟨⟨⟨h1, h2⟩, h3⟩, h4⟩, h5⟩, h6⟩, h7⟩, h8⟩, h9⟩, h10⟩, h11⟩, h12⟩, h13⟩, h14⟩ := hq
    have hr : runWaiting (fenceStep t) = fenceStep t := by
      simp only [Option.isNone_iff_eq_none] at h5
      simp [runWaiting, h5]
    have hi : takeI3c (fenceStep t) = fenceStep t := by
      unfold takeI3c
      split
      · rename_i ws tl he
        simp [he] at h6
        simp [h6]
      · rfl
    simp only [Bool.not_eq_true'] at h2 h13 h14
    have ha : resumeAlive (endHoldover (fenceStep t)) = fenceStep t := by
      simp [resumeAlive, endHoldover, h13, h14]
    unfold Machine.pass
    simp only [h, if_false, h2, Bool.false_eq_true, foldl_nil_of h3, foldl_nil_of h4, foldl_nil_of h8, hr, hi,
      foldl_nil_of h7, foldl_nil_of h9, foldl_nil_of h10, foldl_nil_of h11,
      foldl_nil_of h12, ha]
  simp [settle, hs, hp, hq]

/-- An effect that changes the fenced set is followed by the fence's own. -/
theorem follows_fence {s t : State} (hq : quietFence s t = true) : follows t = fenceStep t := by
  simp only [quietFence, quiet, Bool.and_eq_true, Bool.not_eq_true', bne_iff_ne, ne_eq] at hq
  obtain ⟨⟨h1, h2⟩, ⟨_, _⟩, h5⟩ := hq
  simp [follows, h1, settle_fence 510 h2 h5]

/-- A command whose effect stops the clocks. -/
theorem always_stops {f : State → State} {s t : State} (h : f s = t) (ht : t.pw.stopped = true) :
    Host.Outcome.next (settled f s) = (.next t : Host.Outcome State Fault Refusal) := by
  simp [settled, h, follows_stopped ht]

/-- A command whose effect changes the fenced set. -/
theorem clocked_fence {f : State → State} {s t : State} (h : s.pw.stopped = false → f s = t) :
    (s.pw.stopped = false → Host.Outcome.next (whileClocked f s) = (.next (follows t) : Host.Outcome State Fault Refusal)) ∧
      (quietFence s t = true →
        Host.Outcome.next (whileClocked f s) = (.next (fenceStep t) : Host.Outcome State Fault Refusal)) := by
  refine ⟨(clocked_runs h).1, fun hq => ?_⟩
  have hs : s.pw.stopped = false := by
    simp only [quietFence, quiet, Bool.and_eq_true, Bool.not_eq_true'] at hq
    exact hq.2.1.1
  rw [(clocked_runs h).1 hs, follows_fence hq]

theorem always_fence {f : State → State} {s t : State} (h : f s = t) :
    Host.Outcome.next (settled f s) = (.next (follows t) : Host.Outcome State Fault Refusal) ∧
      (quietFence s t = true →
        Host.Outcome.next (settled f s) = (.next (fenceStep t) : Host.Outcome State Fault Refusal)) := by
  refine ⟨(always_runs h).1, fun hq => ?_⟩
  rw [(always_runs h).1, follows_fence hq]

/-- While the clocks have stopped, a command that needs them does nothing. -/
theorem whileClocked_stopped {f : State → State} {s : State} (h : s.pw.stopped = true) : whileClocked f s = s := by
  simp [whileClocked, h]

/-- A request that is taken reaches its command's own action. -/
theorem gcp_taken {u : DataUse} {sec : Bool} {r : GcpReq} {s : State} (f : State → State) (h : taken u sec r s = true) :
    gcp u sec r f s = f s := by
  simp only [taken, Bool.and_eq_true, beq_iff_eq, Bool.not_eq_true', Bool.or_eq_true] at h
  obtain ⟨⟨⟨⟨h1, h2⟩, h3⟩, h4⟩, h5⟩ := h
  unfold gcp
  rcases h5 with h5 | h5 <;> simp [h1, h2, h3, h4, h5]

end Sys2Proof.Laws
end

