-- ==== Sys2Proof/Machine/Board.lean ====
section
/-! DEFINITION. What the package fixes for a board and a fabric manager and no command changes: the ball map (R474 to R479),
the traversal time and the latency bound (R125, R164 to R166). -/

namespace Sys2Proof.Machine

/-! ### Balls -/

/-- The nineteen suffix letters of row designators (R474). -/
def rowLetters : List String :=
  ["A", "B", "C", "D", "E", "F", "G", "H", "J", "K", "L", "M", "N", "P", "T", "U", "V", "W", "Y"]

/-- Designator of row 1 to 91. -/
def rowName (r : Nat) : String :=
  let l := rowLetters.getD ((r - 1) % 19) ""
  match (r - 1) / 19 with
  | 0 => l
  | 1 => "A" ++ l
  | 2 => "B" ++ l
  | 3 => "C" ++ l
  | _ => "D" ++ l

/-- Depth of a ball. -/
def depth (r c : Nat) : Nat := min (min r c) (min (92 - r) (92 - c))

/-- What a ball carries (R475): a network lane (port, lane, transmit, positive), a host lane (port, lane, and 0 TXP, 1 TXN,
2 RXP, 3 RXN), a named signal, a supply, or ground. -/
inductive Ball where
  | net (p lane : Nat) (tx pos : Bool) | host (h lane part : Nat) | sig (name : String) | supply (name : String) | vss
  deriving DecidableEq, Repr

/-- Edge and position of a ball at a depth from 1 to 4 (R476): the Grove's edge, and the column or row number. -/
def edgeOf (r c : Nat) : Nat × Nat :=
  if r ≤ 4 ∧ r = depth r c then (0, c)
  else if 92 - c ≤ 4 ∧ 92 - c = depth r c then (1, r)
  else if 92 - r ≤ 4 ∧ 92 - r = depth r c then (2, c)
  else (3, r)

/-- The network lane of a ball (R476). -/
def netBall (r c : Nat) : Option Ball :=
  let d := depth r c
  let e := edgeOf r c
  let x := e.2
  if 4 < d ∨ x < 6 ∨ 85 < x ∨ (x - 6) % 5 = 4 then none
  else
    let k := (x - 6) % 5
    some (.net (16 * e.1 + (x - 6) / 5) ((if d % 2 = 0 then 2 else 0) + k / 2) (decide (d ≤ 2)) (k % 2 == 0))

/-- The host lane of a ball (R477): rows P to V are 14 to 17, rows CW to DB 75 to 78. -/
def hostBall (r c : Nat) : Option Ball :=
  let col := if 20 ≤ c ∧ c < 36 then some (0, c - 20) else if 56 ≤ c ∧ c < 72 then some (1, c - 56) else none
  match col with
  | none => none
  | some (j, k) =>
    if 14 ≤ r ∧ r < 18 then some (.host j k (r - 14))
    else if 75 ≤ r ∧ r < 79 then some (.host (2 + j) k (r - 75))
    else none

/-- Rows AV to BG, columns 72 to 79 (R478). -/
def sideband : List (List String) :=
  [["REFCLK_P", "REFCLK_N", "HM_REFCLK_P", "HM_REFCLK_N", "HM_PERST_N", "POR_N", "PPS_IN", "PPS_OUT"],
   ["HM_TX0_P", "HM_TX0_N", "HM_TX1_P", "HM_TX1_N", "HM_RX0_P", "HM_RX0_N", "HM_RX1_P", "HM_RX1_N"],
   ["H0_REFCLK_P", "H0_REFCLK_N", "H1_REFCLK_P", "H1_REFCLK_N", "H2_REFCLK_P", "H2_REFCLK_N", "H3_REFCLK_P", "H3_REFCLK_N"],
   ["H0_PERST_N", "H1_PERST_N", "H2_PERST_N", "H3_PERST_N", "I3C_SCL", "I3C_SDA", "ALIVE", "FAULT_N"],
   ["THERMTRIP_N", "TAMPER_N[0]", "TAMPER_N[1]", "ROLE_SEL[0]", "ROLE_SEL[1]", "TEST_MODE", "I3C_ADDR[0]", "I3C_ADDR[1]"],
   ["I3C_ADDR[2]", "TCK", "TMS", "TDI", "TDO", "TRST_N", "VSENSE_CORE_P", "VSENSE_CORE_N"],
   ["SPI_CLK", "SPI_CS_N", "SPI_DQS", "SPI_RESET_N", "SPI_IO[0]", "SPI_IO[1]", "SPI_IO[2]", "SPI_IO[3]"],
   ["SPI_IO[4]", "SPI_IO[5]", "SPI_IO[6]", "SPI_IO[7]", "RSVD", "RSVD", "RSVD", "RSVD"],
   ["RSVD", "RSVD", "RSVD", "RSVD", "RSVD", "RSVD", "RSVD", "RSVD"],
   ["RSVD", "RSVD", "RSVD", "RSVD", "RSVD", "RSVD", "RSVD", "RSVD"]]

/-- The sideband ball of a row and column. Row AV is 36. -/
def sideBall (r c : Nat) : Option Ball :=
  if 36 ≤ r ∧ r < 46 ∧ 72 ≤ c ∧ c < 80 then some (.sig ((sideband.getD (r - 36) []).getD (c - 72) "")) else none

/-- The supply of a ball's region (R479); none where every ball is VSS. -/
def region (r c : Nat) : Option String :=
  let d := depth r c
  if d ≤ 5 then none
  else if d ≤ 9 then some "VDD_NSD"
  else if d ≤ 11 then some "VDDA_NSD"
  else if r ≤ 19 ∨ 73 ≤ r then some (if r = 12 ∨ r = 19 ∨ r = 73 ∨ r = 80 then "VDDA_HSD" else "VDD_HSD")
  else if r ≤ 32 then some "VDD_E0"
  else if 60 ≤ r then some "VDD_E1"
  else if r ≤ 34 ∨ 58 ≤ r then some "VDD_D2D"
  else if c ≤ 13 then some "VPP_HBM"
  else if c ≤ 16 then some "VDD_HBM"
  else if c ≤ 19 then some "VDDQ_HBM"
  else if c ≤ 22 then some "VDD_HBMPHY"
  else if c ≤ 69 then some "VDD_CORE"
  else if c ≤ 77 then some "VDD_AON"
  else some "VIO_18"

/-- A supply ball or VSS: odd sums of row and column carry the supply. -/
def supplyBall (r c : Nat) : Ball :=
  match region r c with
  | some v => if (r + c) % 2 = 1 then .supply v else .vss
  | none => .vss

/-- The function of the ball in row `r` and column `c`. -/
def ballOf (r c : Nat) : Ball :=
  match netBall r c with
  | some b => b
  | none =>
    match hostBall r c with
    | some b => b
    | none =>
      match sideBall r c with
      | some b => b
      | none => supplyBall r c

/-! ### Times, in units of 0.1 ns -/

/-- Group time of an input, by its flit rate in Gb/s (R43, R125). -/
def groupTime (gbps : Nat) : Nat := 204800 / gbps
/-- T_sw of a router whose network input has a flit rate (R125). -/
def traversal (gbps : Nat) : Nat := 922 + groupTime gbps

/-- A router on a path: its network input's flit rate (none for an N port), its output's, ASD_BURST and C_A of the output in
Gb/s, LEN_OVERHEAD, and LINK_DELAY_NS of the link that leaves it. -/
structure Hop where
  inRate  : Option Nat := none
  outRate : Nat
  burst   : Nat
  ca      : Rat
  len     : Int := 0
  wire    : Nat := 0
  deriving DecidableEq, Repr

/-- C_A of a hop as R166 adjusts it. -/
def Hop.rate (x : Hop) : Rat := if 0 < x.len then x.ca * 64 / (64 + x.len) else x.ca
/-- The port term of R164, in ns. -/
def Hop.portTerm (x : Hop) : Rat := ((x.burst : Rat) + 8704) * 8 / Hop.rate x
/-- T_sw of a hop, in ns, with the store-and-forward term of a faster output (R166); the destination's is in T_dst. -/
def Hop.sw (x : Hop) (last : Bool) : Rat :=
  match x.inRate with
  | none => 105
  | some f => (traversal f : Rat) / 10 + (if !last && decide (f < x.outRate) then (34816 : Rat) / f else 0)

/-- L_max of a path (R164 to R166), in ns; `thr` and `thw` are the integrator's terms, 0 for scratch memory. -/
def lMax (path : List Hop) (thr thw : Rat) : Rat :=
  let n := path.length
  let idx := List.range n
  let hop (i : Nat) : Hop := path.getD i { outRate := 1600, burst := 0, ca := 1 }
  let sw := (idx.map (fun i => (hop i).sw (i + 1 == n))).foldl (· + ·) 0
  let wires := ((idx.take (n - 1)).map (fun i => ((hop i).wire : Rat))).foldl (· + ·) 0
  let ports := (path.map Hop.portTerm).foldl (· + ·) 0
  let slow := match (hop (n - 1)).inRate with
    | some f => if f < 1600 then (34816 : Rat) / f - 2176 / 100 else 0
    | none => 0
  350 + thr + sw + wires + ports + 250 + slow + thw

/-- L_MAX as programmed: rounded up to a whole nanosecond. -/
def lMaxNs (path : List Hop) (thr thw : Rat) : Int := Rat.ceil (lMax path thr thw)

end Sys2Proof.Machine
end

