-- ==== Sys2Proof/Tests/Slice0.lean ====
section
/-! SUPPORT. Tests: which operands are ill-formed, values that the manual works out, and for every statement of
Certificates/Slice0/Obligations.lean with hypotheses a state and operands that meet them. -/

set_option Elab.async false

namespace Sys2Proof.Tests
open Sys2Proof Sys2Proof.Machine

/-! ### Small states and requests -/

/-- An I3C request: opcode and parameter words from word 5. -/
def rq (op : Nat) (ps : List Nat) : GcpReq := { via := .i3c, words := padW 16 ([w32 op, 0, 0, 0, 0] ++ ps.map w32) }
/-- The same with LENGTH. -/
def rqL (op len : Nat) (ps : List Nat) : GcpReq :=
  { via := .i3c, words := padW 16 ([w32 op, 0, w32 len, 0, 0] ++ ps.map w32) }
/-- The same in a secured session. -/
def rqS (op : Nat) (ps : List Nat) : GcpReq := { rq op ps with secured := true, outer := padW 16 [0x900] }
/-- The firmware runs and a secured session is open; every domain is still OFF. -/
def sRun : State := { State.reset with mgmt.fw := .running, heart.sessions := 1 }
/-- Domains 0 to 94, all ON. -/
def domsOn : TMap Domain := (List.range 95).map (fun d => (d, { st := .on, wasOff := false }))
/-- The die-to-die modules, all trained. -/
def modulesUp : TMap D2d := (List.range 6).map (fun m => (m, { up := true }))
/-- The firmware runs, every domain is ON, every clock locked and every module up. -/
def sOn : State := { sRun with
  pw.dom := domsOn, pw.refOk := true, pw.tapLock := true, pw.pllLock := 3, pw.hmRefOk := true, pw.hostRefOk := 15, net.d2d := modulesUp }

/-- An answer sent leaves nothing to follow. -/
theorem quiet_emit (o : Out) (s t : State) : quiet s (emit o t) = quiet s t := rfl

/-! ### Witnesses -/

theorem wit_ControllerIdentity_1 :
    let r : GcpReq := rq 0x0001 []; let s : State := sRun
    (taken .none false r s = true) ∧ quiet s (ok r ([pack [(0, 1, b2n !s.grade425), (8, 8, 2)], w32 (nodeEid s).toNat, pack [(0, 6, s.heart.fwSvn), (8, 1, b2n s.heart.fwSlot)]] ++ w64 s.heart.buildId.toNat ++ [mgcStatus s]) s) = true := by decide

theorem wit_ControllerIdentity_2 :
    let r : GcpReq := rq 0x0002 []; let s : State := sRun
    (taken .none false r s = true) ∧ quiet s (ok r [mgcStatus s, timStatus s, cnpEpoch s, w32 s.heart.latch.toNat, hwdStatus s] s) = true := by decide

theorem wit_ControllerIdentity_3 :
    let r : GcpReq := rq 0x0003 [7, 8, 9]; let s : State := sRun
    (taken .none false r s = true) ∧ (r.words.length = 16) ∧ quiet s (ok r (r.words.drop 5) s) = true := by decide

theorem wit_ControllerIdentity_4 :
    let r : GcpReq := rqS 0x0004 [3, 0x1234]; let s : State := sRun
    (taken .none true r s = true) ∧ quiet s (ok r [] { s with mgmt.allow := Maps.put eidNone s.mgmt.allow (fAt r.words 5 0 4) (BitVec.ofNat 18 (fAt r.words 6 0 18)), mgmt.mseqs := s.mgmt.mseqs.filter (fun x => x.1 != BitVec.ofNat 18 (fAt r.words 6 0 18)) }) = true := by decide

theorem wit_ControllerIdentity_5 :
    let r : GcpReq := rqS 0x0005 [0x777]; let s : State := sRun
    (taken .none true r s = true) ∧ quiet s (ok r [] { s with mgmt.eventEid := BitVec.ofNat 18 (fAt r.words 5 0 18) }) = true := by decide

theorem wit_StagingCommands_1 :
    let r : GcpReq := rqL 0x0100 4 [0x128, 5000]; let s : State := sRun
    (taken .writes false r s = true) ∧ ((wAt r.words 2).toNat ≠ 0) ∧ ((wAt r.words 2).toNat % 4 = 0) ∧ ((wAt r.words 5).toNat % 4 = 0) ∧ (stageRefusal s (wordAddrs (wAt r.words 5).toNat ((wAt r.words 2).toNat / 4)) = none) ∧ quiet s (ok r [] (unready (stageWords (wAt r.words 5).toNat (dataOf r 6) s))) = true := by decide

theorem wit_StagingCommands_2 :
    let r : GcpReq := rqL 0x0101 8 [0x04000010]; let s : State := sRun
    (taken .reads false r s = true) ∧ ((wAt r.words 2).toNat % 4 = 0) ∧ ((wAt r.words 5).toNat % 4 = 0) ∧ quiet s (okData r ((wordAddrs (wAt r.words 5).toNat ((wAt r.words 2).toNat / 4)).map (readStaged s)) (clearRc (wordAddrs (wAt r.words 5).toNat ((wAt r.words 2).toNat / 4)) s)) = true := by decide

theorem wit_StagingCommands_3 :
    let r : GcpReq := rq 0x0102 []; let s : State := { sRun with stage.staged := [(0x128, 5000)], stage.bank := .ready }
    (taken .none false r s = true) ∧ (anyStaged s = true) ∧ (s.stage.bank = .opened ∨ s.stage.bank = .ready) ∧ quiet s (ok r [] { s with stage.staged := [], stage.resvStaged := [], stage.bank := .copying, stage.tblStaged := false }) = true := by decide

theorem wit_StagingCommands_4 :
    let r : GcpReq := rq 0x0103 []; let s : State := sRun
    (taken .none false r s = true) ∧ (anyStaged s = false) ∧ (s.stage.bank = .opened ∨ s.stage.bank = .ready) ∧ quiet s (ok r [1] { s with stage.bank := .ready }) = true := by decide

theorem wit_StagingCommands_5 :
    let r : GcpReq := rq 0x0103 []; let s : State := { sRun with stage.staged := [(0x128, 5000)] }
    (taken .none false r s = true) ∧ (anyStaged s = true) ∧ (s.stage.bank = .opened ∨ s.stage.bank = .ready) ∧ quiet s (hold r { s with stage.checking := some r }) = true := by decide

theorem wit_StagingCommands_6 :
    let r : GcpReq := rq 0x0106 []; let s : State := sRun
    (taken .none false r s = true) ∧ quiet s (ok r ([s.stage.epoch, cnpEpoch s ||| pack [(8, 1, b2n (anyStaged s))]] ++ w64 s.stage.commitT ++ w64 s.stage.lastSwap ++ w64 s.stage.lastDrain) s) = true := by decide

theorem wit_CommitCommands_1 :
    let r : GcpReq := rq 0x0104 []; let u : State := { sRun with stage.rws := [(0x05000000, 1)], stage.epoch := 1, stage.bank := .draining }; let v : State := { sRun with stage.rws := [(0x05000000, 1)], stage.epoch := 1, stage.bank := .draining, time.st := .locked }; let z : State := raise 153 1 (inc (cnpCtr 16) { sRun with stage.rws := [(0x05000000, 1)], stage.epoch := 1, stage.bank := .draining, time.st := .locked }); let s : State := { sRun with stage.bank := .ready, stage.staged := [(0x05000000, 1)] }
    (taken .none false r s = true) ∧ (s.stage.bank = .ready) ∧ (u = { s with stage := { s.stage with rws := (s.stage.staged.map (fun e => (e.1, becomes s e))).foldl (fun m e => Maps.insert e.1 e.2 m) s.stage.rws, resv := s.stage.resvStaged.foldl (fun m e => Maps.insert e.1 e.2 m) s.stage.resv, epoch := s.stage.epoch + 1, staged := [], resvStaged := [], tblStaged := false, bank := .draining, lastSwap := s.time.now, drainClk := s.time.now, commitT := 0 } }) ∧ (v = (s.stage.staged.map (fun e => objAddr e.1)).eraseDups.foldl (fun t a => commitWord s a t) u) ∧ (s.stage.resvStaged = []) ∧ (z = raise 153 1 (inc (cnpCtr 16) v)) ∧ quiet s (ok r [z.stage.epoch] z) = true := by decide

theorem wit_CommitCommands_2 :
    let r : GcpReq := rq 0x0104 []; let u : State := { sRun with stage.resv := [(5, [2 ^ 18 + 7, 8000, 8000, 1000, 1000, 5])], stage.epoch := 1, stage.bank := .draining }; let v : State := { sRun with stage.resv := [(5, [2 ^ 18 + 7, 8000, 8000, 1000, 1000, 5])], stage.epoch := 1, stage.bank := .draining }; let z : State := raise 153 1 (inc (cnpCtr 16) { sRun with stage.resv := [(5, [2 ^ 18 + 7, 8000, 8000, 1000, 1000, 5])], stage.epoch := 1, stage.bank := .draining, net.meters := Maps.put {} [] (resvMeter 0 5) (fullMeter 1000 1000 0) }); let k : Nat := 5; let ws : List Word := [2 ^ 18 + 7, 8000, 8000, 1000, 1000, 5]; let s : State := { sRun with stage.bank := .ready, stage.resvStaged := [(5, [2 ^ 18 + 7, 8000, 8000, 1000, 1000, 5])] }
    (taken .none false r s = true) ∧ (s.stage.bank = .ready) ∧ (u = { s with stage := { s.stage with rws := (s.stage.staged.map (fun e => (e.1, becomes s e))).foldl (fun m e => Maps.insert e.1 e.2 m) s.stage.rws, resv := s.stage.resvStaged.foldl (fun m e => Maps.insert e.1 e.2 m) s.stage.resv, epoch := s.stage.epoch + 1, staged := [], resvStaged := [], tblStaged := false, bank := .draining, lastSwap := s.time.now, drainClk := s.time.now, commitT := 0 } }) ∧ (v = (s.stage.staged.map (fun e => objAddr e.1)).eraseDups.foldl (fun t a => commitWord s a t) u) ∧ (s.stage.resvStaged = [(k, ws)]) ∧ (Maps.get [] s.stage.resv k ≠ ws) ∧ (z = raise 153 1 (inc (cnpCtr 16) (meterAfresh (k / 2 ^ 14) (k % 2 ^ 14) { v with net.meters := Maps.put {} v.net.meters (resvMeter (k / 2 ^ 14) (k % 2 ^ 14)) (fullMeter (fAt (resv v (k / 2 ^ 14) (k % 2 ^ 14)) 3 0 24) (fAt (resv v (k / 2 ^ 14) (k % 2 ^ 14)) 4 0 24) v.time.now) }))) ∧ quiet s (ok r [z.stage.epoch] z) = true := by decide

theorem wit_CommitCommands_3 :
    let r : GcpReq := rq 0x0104 []; let z : State := raise 153 1 (inc (cnpCtr 16) { sRun with stage.epoch := 1, stage.bank := .draining }); let s : State := { sRun with stage.bank := .ready, stage.tblStaged := true }
    (taken .none false r s = true) ∧ (s.stage.bank = .ready) ∧ (s.stage.staged = []) ∧ (s.stage.resvStaged = []) ∧ (z = raise 153 1 (inc (cnpCtr 16) { s with stage := { s.stage with epoch := s.stage.epoch + 1, tblStaged := false, bank := .draining, lastSwap := s.time.now, drainClk := s.time.now, commitT := 0 } })) ∧ quiet s (ok r [z.stage.epoch] z) = true := by decide

theorem wit_CommitCommands_4 :
    let r : GcpReq := rq 0x0105 [1000]; let s : State := { sRun with stage.bank := .ready, time.st := .locked }
    (taken .none false r s = true) ∧ (s.stage.bank = .ready) ∧ (s.time.now < u64 r.words 5) ∧ (u64 r.words 5 ≤ s.time.now + 2 ^ 34) ∧ (s.time.st = .locked ∨ rwsF s 0x05000000 0 1 = 1) ∧ quiet s (ok r [s.stage.epoch + 1] { s with stage.bank := .pending, stage.commitT := u64 r.words 5 }) = true := by decide

theorem wit_CommitCommands_5 :
    let r : GcpReq := rq 0x0107 []; let s : State := { sRun with stage.bank := .pending, stage.commitT := 9 }
    (taken .none false r s = true) ∧ (s.stage.bank = .pending) ∧ (s.time.now < s.stage.commitT) ∧ quiet s (ok r [] { admitIfDue s with stage.bank := .ready, stage.commitT := 0 }) = true := by decide

theorem wit_CommitCommands_6 :
    let r : GcpReq := rq 0x0107 []; let s : State := { sRun with stage.bank := .pending, stage.commitT := 9, time.now := 9 }
    (taken .none false r s = true) ∧ (s.stage.bank = .pending) ∧ (s.stage.commitT ≤ s.time.now) ∧ quiet s (fail r stEpochPassed (swapIfDue s)) = true := by decide

theorem wit_CommitCommands_7 :
    let r : GcpReq := rq 0x0107 []; let s : State := { sRun with stage.bank := .draining }
    (taken .none false r s = true) ∧ (s.stage.bank = .draining ∨ s.stage.bank = .copying) ∧ quiet s (fail r stEpochPassed (admitIfDue s)) = true := by decide

theorem wit_CommitCommands_8 :
    let r : GcpReq := rq 0x0107 []; let s : State := { sRun with stage.bank := .ready }
    (taken .none false r s = true) ∧ (s.stage.bank = .opened ∨ s.stage.bank = .ready) ∧ quiet s (fail r stNotPermitted (admitIfDue s)) = true := by decide

theorem wit_BankSequence_1 :
    let q : GcpReq := rq 0x0103 []; let s : State := { sRun with stage.staged := [(0x128, 5000)], stage.checking := some (rq 0x0103 []), mgmt.cmds := [{ id := 0, req := rq 0x0103 [] }] }
    (s.stage.checking = some q) ∧ (checkFailure (afterCommit { s with stage.checking := none }) = none) ∧ quiet s (endCmds (fun r => opcodeOf r == 0x103) stOk 0 0 [0] { s with stage.checking := none, stage.bank := .ready }) = true := by decide

theorem wit_BankSequence_2 :
    let q : GcpReq := rq 0x0103 []; let d1 : Nat := 1; let d2 : Nat := 0x128; let s : State := { sRun with stage.staged := [(0x128, 5)], stage.checking := some (rq 0x0103 []), mgmt.cmds := [{ id := 0, req := rq 0x0103 [] }] }
    (s.stage.checking = some q) ∧ (checkFailure (afterCommit { s with stage.checking := none }) = some (d1, d2)) ∧ quiet s (endCmds (fun r => opcodeOf r == 0x103) stCheckFailed d1 d2 [] { s with stage.checking := none, stage.bank := .opened }) = true := by decide

theorem wit_BankSequence_3 :
    let s : State := { sRun with stage.bank := .pending, stage.commitT := 5, time.now := 5, time.st := .locked }
    (s.stage.bank = .pending) ∧ (s.stage.commitT ≤ s.time.now) ∧ (s.time.st = .locked) ∧ (s.net.graft.admission = none) ∧ quiet s (swapBanks s) = true := by decide

theorem wit_BankSequence_4 :
    let s : State := { sRun with stage.bank := .pending, stage.commitT := 5, time.now := 5 }
    (s.stage.bank = .pending) ∧ (s.stage.commitT ≤ s.time.now) ∧ (s.time.st ≠ .locked) ∧ (rwsF s 0x05000000 0 1 = 0) ∧ (s.net.graft.admission = none) ∧ quiet s (raise 306 0x40 (swapBanks s)) = true := by decide

theorem wit_BankSequence_5 :
    let s : State := { sRun with stage.bank := .draining, time.now := 20000 }
    (s.stage.bank = .draining) ∧ (drained s = true) ∧ quiet s (raise 153 2 { s with stage.bank := .copying, stage.lastDrain := s.time.now }) = true := by decide

theorem wit_BankSequence_6 :
    let s : State := { sRun with stage.bank := .copying }
    (s.stage.bank = .copying) ∧ quiet s (eccWrite (fun x => decide (x.1 < 128) && (x.2 / 2 ^ 20 == 1) != activeEpoch s) { s with stage.bank := .opened, stage.ft := copyBank (activeEpoch s) s.stage.ft, stage.dt := copyBank (activeEpoch s) s.stage.dt, stage.la := copyBank (activeEpoch s) s.stage.la }) = true := by decide

theorem wit_BulkTables_1 :
    let r : GcpReq := rqL 0x0200 8 [0x40, 1, 2]; let s : State := sOn
    (taken .writes false r s = true) ∧ (hbmOk s = true) ∧ ((wAt r.words 5).toNat + (wAt r.words 2).toNat ≤ 2 ^ 30) ∧ quiet s (ok r [] { s with stage.bulk := Maps.putList 0 s.stage.bulk (wAt r.words 5).toNat ((wBytes (dataOf r 6)).take (wAt r.words 2).toNat) }) = true := by decide

theorem wit_BulkTables_2 :
    let r : GcpReq := rq 0x0201 [0x40, 0x03000100, 8]; let s : State := sOn
    (taken .none false r s = true) ∧ (hbmOk s = true) ∧ ((wAt r.words 7).toNat ≠ 0) ∧ ((wAt r.words 7).toNat % 4 = 0) ∧ ((wAt r.words 6).toNat % 4 = 0) ∧ ((wAt r.words 5).toNat + (wAt r.words 7).toNat ≤ 2 ^ 30) ∧ (stageView s.grade425 (wAt r.words 6).toNat ≠ none) ∧ (stageView s.grade425 (wAt r.words 6).toNat = stageView s.grade425 ((wAt r.words 6).toNat + (wAt r.words 7).toNat - 4)) ∧ (stageRefusal s [(wAt r.words 6).toNat, (wAt r.words 6).toNat + (wAt r.words 7).toNat - 4] = none) ∧ quiet s (hold r { s with stage.bulkJob := some ((wAt r.words 5).toNat, (wAt r.words 6).toNat, (wAt r.words 7).toNat, r) }) = true := by decide

theorem wit_BulkTables_3 :
    let src : Nat := 0x40; let a : Nat := 0x03000100; let n : Nat := 8; let q : GcpReq := rq 0x0201 [0x40, 0x03000100, 8]; let s : State := { sOn with stage.bulkJob := some (0x40, 0x03000100, 8, rq 0x0201 [0x40, 0x03000100, 8]), mgmt.cmds := [{ id := 0, req := rq 0x0201 [0x40, 0x03000100, 8] }] }
    (s.stage.bulkJob = some (src, a, n, q)) ∧ (hbmOk s = true) ∧ (stageRefusal s (wordAddrs a (n / 4)) = none) ∧ quiet s (endCmds (fun r => opcodeOf r == 0x201) stOk 0 0 [] (unready (stageWords a (bulkWords s src (n / 4)) { s with stage.bulkJob := none }))) = true := by decide

theorem wit_BulkTables_4 :
    let r : GcpReq := rqL 0x0202 8 [0x03000100]; let s : State := sOn
    (taken .reads false r s = true) ∧ (hbmOk s = true) ∧ ((wAt r.words 5).toNat % 4 = 0) ∧ ((wAt r.words 2).toNat % 4 = 0) ∧ (((wordAddrs (wAt r.words 5).toNat ((wAt r.words 2).toNat / 4)).map (bulkReadWord s)).any Option.isNone = false) ∧ quiet s (okData r ((wordAddrs (wAt r.words 5).toNat ((wAt r.words 2).toNat / 4)).map (fun a => (bulkReadWord s a).getD 0)) s) = true := by decide

theorem wit_PortCommands_1 :
    let r : GcpReq := rq 0x0300 [3]; let s : State := sOn
    (taken .none false r s = true) ∧ (portBarred s (pcPort r) = false) ∧ ((Maps.get {} s.net.boughs (pcPort r / 4)).refreshing = false) ∧ ((port s (pcPort r)).st = .disabled ∨ (port s (pcPort r)).st = .failed) ∧ quiet s (hold r (enterTraining (pcPort r) s)) = true := by decide

theorem wit_PortCommands_2 :
    let r : GcpReq := rq 0x0300 [3]; let s : State := { sOn with net.ports := [(3, { st := .training })] }
    (taken .none false r s = true) ∧ (portBarred s (pcPort r) = false) ∧ ((Maps.get {} s.net.boughs (pcPort r / 4)).refreshing = false) ∧ ((port s (pcPort r)).st ∈ [.training, .locking, .ident, .grace]) ∧ quiet s (hold r s) = true := by decide

theorem wit_PortCommands_3 :
    let r : GcpReq := rq 0x0300 [3]; let s : State := { sOn with net.ports := [(3, { st := .up, width := 2, mask := 0xF, tr := { coef := true, lanes := 0xF, locked := true, identOk := true } })] }
    (taken .none false r s = true) ∧ (portBarred s (pcPort r) = false) ∧ ((Maps.get {} s.net.boughs (pcPort r / 4)).refreshing = false) ∧ ((port s (pcPort r)).st = .up) ∧ quiet s (ok r [] s) = true := by decide

theorem wit_PortCommands_4 :
    let r : GcpReq := rq 0x0301 [3]; let s : State := { sOn with net.ports := [(3, { st := .up, width := 2, mask := 0xF, tr := { coef := true, lanes := 0xF, locked := true, identOk := true } })] }
    (taken .none false r s = true) ∧ (portBarred s (pcPort r) = false) ∧ quiet s (ok r [] (disablePort (pcPort r) s)) = true := by decide

theorem wit_PortCommands_5 :
    let r : GcpReq := rq 0x0301 [3]; let s : State := sRun
    (taken .none false r s = true) ∧ (domOn s (dPort (pcPort r)) = false) ∧ quiet s (ok r [] s) = true := by decide

theorem wit_PortCommands_6 :
    let r : GcpReq := rq 0x0302 [3]; let s : State := sOn
    (taken .none false r s = true) ∧ (portBarred s (pcPort r) = false) ∧ ((port s (pcPort r)).st = .disabled ∨ (port s (pcPort r)).st = .failed) ∧ quiet s (hold r (enterTraining (pcPort r) s)) = true := by decide

theorem wit_PortCommands_7 :
    let r : GcpReq := rq 0x0302 [3]; let s : State := { sOn with net.ports := [(3, { st := .training })] }
    (taken .none false r s = true) ∧ (portBarred s (pcPort r) = false) ∧ ((port s (pcPort r)).st ∈ [.training, .locking, .ident]) ∧ quiet s (hold r s) = true := by decide

theorem wit_PortCommands_8 :
    let r : GcpReq := rq 0x0302 [3]; let s : State := { sOn with net.ports := [(3, { st := .grace })] }
    (taken .none false r s = true) ∧ (portBarred s (pcPort r) = false) ∧ ((port s (pcPort r)).st = .grace) ∧ ((port s (pcPort r)).tr.train = .none) ∧ quiet s (hold r (updPort (pcPort r) (startTrain (bAt r.words 5 8)) s)) = true := by decide

theorem wit_PortCommands_9 :
    let r : GcpReq := rq 0x0302 [3]; let s : State := { sOn with net.ports := [(3, { st := .grace, tr := { train := .quick } })] }
    (taken .none false r s = true) ∧ (portBarred s (pcPort r) = false) ∧ ((port s (pcPort r)).st = .grace) ∧ ((port s (pcPort r)).tr.train ≠ .none) ∧ quiet s (hold r s) = true := by decide

theorem wit_PortCommands_10 :
    let r : GcpReq := rq 0x0302 [3 + 256]; let s : State := { sOn with net.ports := [(3, { st := .up, width := 2, mask := 0xF, tr := { coef := true, lanes := 0xF, locked := true, identOk := true } })] }
    (taken .none false r s = true) ∧ (portBarred s (pcPort r) = false) ∧ ((port s (pcPort r)).st = .up) ∧ ((port s (pcPort r)).wd.own = none) ∧ quiet s (newOwn (pcPort r) { retrain := true, full := bAt r.words 5 8 } (hold r s)) = true := by decide

theorem wit_PortCommands_11 :
    let r : GcpReq := rq 0x0303 [3 + 256 + 3 * 4096]; let s : State := { sOn with net.ports := [(3, { st := .up, width := 2, mask := 0xF, tr := { coef := true, lanes := 0xF, locked := true, identOk := true } })] }
    (taken .none false r s = true) ∧ (portBarred s (pcPort r) = false) ∧ ((port s (pcPort r)).st = .up) ∧ ((port s (pcPort r)).wd.own = none) ∧ (fAt r.words 5 8 2 ≤ rwsF s (prtBase (pcPort r)) 0 2) ∧ (maskOk (fAt r.words 5 8 2) (BitVec.ofNat 4 (fAt r.words 5 12 4)) = true) ∧ quiet s (newOwn (pcPort r) { width := BitVec.ofNat 2 (fAt r.words 5 8 2), mask := BitVec.ofNat 4 (fAt r.words 5 12 4) } (hold r s)) = true := by decide

theorem wit_PortCommands_12 :
    let r : GcpReq := rq 0x0304 [3]; let s : State := sRun
    (taken .none false r s = true) ∧ quiet s (ok r (portRegs s (pcPort r)) s) = true := by decide

theorem wit_PortCommands_13 :
    let r : GcpReq := rq 0x0300 [3]; let s : State := sRun
    (taken .none false r s = true) ∧ (portBarred s (pcPort r) = true) ∧ quiet s (fail r stUnitFenced s) = true := by decide

theorem wit_PortCommands_14 :
    let r : GcpReq := rq 0x0302 [3]; let s : State := sRun
    (taken .none false r s = true) ∧ (portBarred s (pcPort r) = true) ∧ quiet s (fail r stUnitFenced s) = true := by decide

theorem wit_PortCommands_15 :
    let r : GcpReq := rq 0x0303 [3]; let s : State := sRun
    (taken .none false r s = true) ∧ (portBarred s (pcPort r) = true) ∧ quiet s (fail r stUnitFenced s) = true := by decide

theorem wit_PortCommands_16 :
    let r : GcpReq := rq 0x0301 [3]; let s : State := { sOn with ev.own := 8, ev.fenced := 8, net.ports := [(3, { st := .fenced })] }
    (taken .none false r s = true) ∧ (domOn s (dPort (pcPort r)) = true) ∧ (fenced s (pcPort r) = true) ∧ quiet s (fail r stUnitFenced s) = true := by decide +kernel

theorem wit_PortCommands_17 :
    let r : GcpReq := rq 0x0303 [3 + 256]; let s : State := sOn
    (taken .none false r s = true) ∧ (portBarred s (pcPort r) = false) ∧ (rwsF s (prtBase (pcPort r)) 0 2 < fAt r.words 5 8 2 ∨ maskOk (fAt r.words 5 8 2) (BitVec.ofNat 4 (fAt r.words 5 12 4)) = false) ∧ quiet s (fail r stBadParam s) = true := by decide

theorem wit_PortCommands_18 :
    let r : GcpReq := rq 0x0303 [3 + 256 + 3 * 4096]; let s : State := { sOn with net.ports := [(3, { st := .grace, wd := { own := some {} } })] }
    (taken .none false r s = true) ∧ (portBarred s (pcPort r) = false) ∧ (fAt r.words 5 8 2 ≤ rwsF s (prtBase (pcPort r)) 0 2) ∧ (maskOk (fAt r.words 5 8 2) (BitVec.ofNat 4 (fAt r.words 5 12 4)) = true) ∧ ((port s (pcPort r)).wd.own.isSome = true) ∧ quiet s (fail r stBusy s) = true := by decide

theorem wit_PortCommands_19 :
    let r : GcpReq := rq 0x0303 [3 + 256 + 3 * 4096]; let s : State := sOn
    (taken .none false r s = true) ∧ (portBarred s (pcPort r) = false) ∧ (fAt r.words 5 8 2 ≤ rwsF s (prtBase (pcPort r)) 0 2) ∧ (maskOk (fAt r.words 5 8 2) (BitVec.ofNat 4 (fAt r.words 5 12 4)) = true) ∧ ((port s (pcPort r)).wd.own = none) ∧ ((port s (pcPort r)).st ≠ .up) ∧ quiet s (fail r stNotPermitted s) = true := by decide

theorem wit_PortCommands_20 :
    let r : GcpReq := rq 0x0300 [3]; let s : State := { sOn with net.boughs := [(0, { refreshing := true })] }
    (taken .none false r s = true) ∧ (portBarred s (pcPort r) = false) ∧ ((Maps.get {} s.net.boughs (pcPort r / 4)).refreshing = true) ∧ quiet s (fail r stBusy s) = true := by decide

theorem wit_PortCommands_21 :
    let r : GcpReq := rq 0x0302 [3]; let s : State := { sOn with net.ports := [(3, { st := .up, wd := { own := some {} } })] }
    (taken .none false r s = true) ∧ (portBarred s (pcPort r) = false) ∧ ((port s (pcPort r)).st = .up) ∧ ((port s (pcPort r)).wd.own.isSome = true) ∧ quiet s (fail r stBusy s) = true := by decide

theorem wit_PortTimers_1 :
    let n : Nat := 3; let s : State := { sOn with net.ports := [(3, { st := .training, mask := 0xF })] }
    ((port s n).st = .training) ∧ quiet s (updPort n (fun p => { p with st := .locking, tr := { p.tr with train := .none, coef := true, lanes := p.mask, goodRun := 0, badRun := 0, locked := false } }) s) = true := by decide

theorem wit_PortTimers_2 :
    let n : Nat := 3; let s : State := { sOn with net.ports := [(3, { st := .grace, mask := 0xF, tr := { train := .quick } })] }
    ((port s n).st = .grace) ∧ ((port s n).tr.train ≠ .none) ∧ quiet s (updPort n (fun p => { p with tr := { p.tr with train := .none, coef := true, lanes := p.mask, goodRun := 0, badRun := 0, locked := false } }) s) = true := by decide

theorem wit_PortTimers_3 :
    let n : Nat := 3; let s : State := { sOn with net.ports := [(3, { st := .training })] }
    ((port s n).st = .training) ∧ quiet s (portFailed n (raise n 4 (updPort n (fun p => { p with st := .failed, tr := {} }) s))) = true := by decide

theorem wit_PortTimers_4 :
    let n : Nat := 3; let s : State := { sOn with net.ports := [(3, { st := .locking })] }
    ((port s n).st = .locking) ∧ quiet s (updPort n (fun p => startTrain true { p with st := .training }) s) = true := by decide

theorem wit_PortTimers_5 :
    let n : Nat := 3; let s : State := { sOn with net.ports := [(3, { st := .grace, tr := { train := .quick } })] }
    ((port s n).st = .grace) ∧ ((port s n).tr.train = .quick) ∧ quiet s (updPort n (startTrain true) s) = true := by decide

theorem wit_PortTimers_6 :
    let n : Nat := 3; let s : State := { sOn with net.ports := [(3, { st := .grace })], stage.rws := [(0x01030000, 2)] }
    ((port s n).st = .grace) ∧ ((port (raise n 2 s) n).st = .grace) ∧ quiet s ((fun u => if rwsF u (prtBase n) 4 1 = 1 then updPort n (fun p => { p with st := .training, tr := { p.tr with train := if p.tr.train = .none then .full else p.tr.train, locked := false, goodRun := 0, badRun := 0, identOk := false, syncGot := 0, keyGot := false } }) u else portFailed n (updPort n (fun p => { p with st := .failed, tr := { coef := p.tr.coef } }) u)) (leftGrace n (flushPort n (raise n 2 s)))) = true := by decide

theorem wit_PortTimers_7 :
    let n : Nat := 3; let s : State := { sOn with net.ports := [(3, { st := .up, wd := { rxSwitch := some (1, 3) } })] }
    ((port s n).wd.rxSwitch.isSome = true) ∧ ((port s n).tr.locked = false) ∧ quiet s (linkFailure n none s) = true := by decide

theorem wit_PortTimers_8 :
    let n : Nat := 3; let s : State := { sOn with net.ports := [(3, { st := .up, rp := { window := [(0, true)] } })] }
    ((port s n).st = .up) ∧ ((port s n).rp.window ≠ []) ∧ ((port s n).rp.retries < 8) ∧ quiet s (inc (prtCtr n 7) (updPort n (fun p => { p with rp := { p.rp with resend := some 0, heard := true, retries := p.rp.retries + 1 } }) s)) = true := by decide

theorem wit_PortTimers_9 :
    let n : Nat := 3; let s : State := { sOn with net.ports := [(3, { st := .up, rp := { window := [(0, true)], retries := 8 } })] }
    ((port s n).st = .up) ∧ ((port s n).rp.window ≠ []) ∧ (8 ≤ (port s n).rp.retries) ∧ quiet s (linkFailure n none s) = true := by decide

theorem wit_PortTimers_10 :
    let n : Nat := 3; let o : LinkReq := { id := 7, width := 1, mask := 3, sends := 4 }; let s : State := { sOn with net.ports := [(3, { st := .up, wd := { own := some { id := 7, width := 1, mask := 3, sends := 4 } } })] }
    ((port s n).st = .up) ∧ ((port s n).wd.own = some o) ∧ (4 ≤ o.sends) ∧ quiet s ((if o.retrain then linkFailure n (some o.full) s else linkFailure n none (dropOwn n stSuperseded o s))) = true := by decide

theorem wit_PortTimers_11 :
    let n : Nat := 3; let o : LinkReq := { id := 7, width := 1, mask := 3 }; let s : State := { sOn with net.ports := [(3, { st := .up, wd := { own := some { id := 7, width := 1, mask := 3 } } })] }
    ((port s n).st = .up) ∧ ((port s n).wd.own = some o) ∧ (o.sends < 4) ∧ quiet s (sendOwn n o (updPort n (fun p => { p with wd := { p.wd with own := some { o with sends := o.sends + 1 } } }) s)) = true := by decide

theorem wit_PortTimers_12 :
    let n : Nat := 3; let s : State := { sOn with net.ports := [(3, { st := .up, width := 2, mask := 0xF, tr := { coef := true, lanes := 0xF, locked := true, identOk := true } })] }
    ((port s n).st = .up) ∧ quiet s (sendLw n 0x20 [(8, 8, (port s n).tm.seq.toNat)] (updPort n (fun p => { p with tm := { p.tm with seq := p.tm.seq + 1 } }) s)) = true := by decide

theorem wit_PortTimers_13 :
    let n : Nat := 3; let s : State := { sOn with net.ports := [(3, { st := .up, width := 2, mask := 0xF, tr := { coef := true, lanes := 0xF, locked := true, identOk := true } })] }
    ((port s n).st = .up) ∧ quiet s (updPort n (fun p => { p with rp := { p.rp with words := p.rp.words ++ [identWord s n] } }) s) = true := by decide

theorem wit_PortTimers_14 :
    let n : Nat := 3; let s : State := { sOn with net.ports := [(3, { st := .up, width := 2, mask := 0xF, tr := { coef := true, lanes := 0xF, locked := true, identOk := true } })] }
    ((port s n).st = .up) ∧ quiet s (updPort n (fun p => { p with rp := { p.rp with gossip := (List.range 4).map (fun part => mkLw 0x30 ([(8, 2, part), (16, 8, s.time.now / 256 % 256)] ++ (List.range 16).map (fun i => (24 + 4 * i, 4, gossipLevel s (16 * part + i))))) } }) s) = true := by decide

theorem wit_PortTimers_15 :
    let n : Nat := 3; let k : Bool := true; let s : State := { sOn with net.ports := [(3, { st := .up, keySwitch := some true })] }
    ((port s n).keySwitch = some k) ∧ ((port s n).rp.window = []) ∧ ((port s n).rp.txq = []) ∧ ((outp s n).busy = none ∨ (outp s n).hold = true) ∧ quiet s (updPort n (fun p => { p with kpTx := k, keySwitch := none }) s) = true := by decide

theorem wit_PortTimers_16 :
    let n : Nat := 3; let s : State := { sOn with net.ports := [(3, { st := .up, spill := true, spillStop := true })] }
    ((port s n).spillStop = true) ∧ (unackedCells (port s n) ≤ 4096) ∧ ((updPort n (fun p => { p with spill := false, spillStop := false }) s).net.ports.any (fun e => e.2.spillStop) = false) ∧ quiet s (updDom dHbm (fun d => { d with held := false }) (updPort n (fun p => { p with spill := false, spillStop := false }) s)) = true := by decide

theorem wit_LanesAndGroups_1 :
    let n : Nat := 3; let w : BitVec 2 := 1; let m : BitVec 4 := 0xC; let x : Option Nat := some 0; let s : State := { sOn with net.ports := [(3, { st := .up, width := 2, mask := 0xF, wd := { txSwitch := some (1, 0xC, some 0), widthNext := true } })] }
    ((port s n).wd.txSwitch = some (w, m, x)) ∧ ((port s n).wd.widthNext = true) ∧ (w.toNat < (port s n).width.toNat) ∧ quiet s (raise n 0x20 (asdCause n 1 (updPort n (fun p => { p with width := w, mask := m, wd := { p.wd with txSwitch := none, widthNext := false } }) s))) = true := by decide

theorem wit_LanesAndGroups_2 :
    let n : Nat := 3; let w : BitVec 2 := 2; let m : BitVec 4 := 0xF; let x : Option Nat := some 0; let s : State := { sOn with net.ports := [(3, { st := .up, width := 1, mask := 3, wd := { txSwitch := some (2, 0xF, some 0), widthNext := true } })] }
    ((port s n).wd.txSwitch = some (w, m, x)) ∧ ((port s n).wd.widthNext = true) ∧ ((port s n).width.toNat ≤ w.toNat) ∧ quiet s (raise n 0x20 (updPort n (fun p => { p with width := w, mask := m, wd := { p.wd with txSwitch := none, widthNext := false } }) s)) = true := by decide

theorem wit_LanesAndGroups_3 :
    let n : Nat := 3; let lane : Nat := 0; let w : Nat := 1; let m : BitVec 4 := 0xC; let s : State := { sOn with net.ports := [(3, { st := .up, width := 2, mask := 0xF, tr := { lanes := 0xF } })], stage.rws := [(0x01030000, 0x32)] }
    ((port s n).st = .up) ∧ (rwsF s (prtBase n) 5 1 = 1) ∧ ((port s n).wd.own = none) ∧ ((port s n).mask.getLsbD lane = true) ∧ (narrower (port s n).width.toNat (port s n).mask (port s n).tr.lanes lane = some (w, m)) ∧ quiet s (newOwn n { width := BitVec.ofNat 2 w, mask := m } s) = true := by decide

set_option maxRecDepth 100000 in
theorem wit_LanesAndGroups_4 :
    let n : Nat := 3; let line : List Nat := (encodeGroup 0 (w32 (0)) [] []).1; let s : State := { sOn with net.ports := [(3, { st := .up, width := 2, mask := 0xF, rxMask := 0xF, tr := { coef := true, lanes := 0xF, locked := true, identOk := true } })] }; let g : Group := (received s n line).1; let r : State := (received s n line).2; let a : State := (List.range 4).foldl (fun x i => if g.symCorr.getD i 0 = 0 then x else count (prtCtr n (2 + i)) (g.symCorr.getD i 0) x) (if g.uncorr = 0 then (if g.corrected = 0 then r else count (prtCtr n 0) g.corrected r) else count (prtCtr n 1) g.uncorr (if g.corrected = 0 then r else count (prtCtr n 0) g.corrected r)); let w : State := trackLock n g.good (winAdd n g.uncorr 0 0 g.symCorr a); let v : State := updPort n (fun p => { p with wd := if bitW g.hdr 30 then { p.wd with rxSwitch := none } else p.wd, rxMask := if bitW g.hdr 30 then (p.wd.rxSwitch.map (fun x => x.2)).getD p.rxMask else p.rxMask, rp := { p.rp with ackGroups := p.rp.ackGroups + 1, ackDue := p.rp.ackDue || decide (32 ≤ p.rp.ackGroups + 1) } }) w; let k : State := (g.words.take (4 * fld g.hdr 18 6)).foldl (fun x l => rxWord n l x) v
    (grouping (port s n) = true) ∧ (received s n line = (g, r)) ∧ (a = (List.range 4).foldl (fun x i => if g.symCorr.getD i 0 = 0 then x else count (prtCtr n (2 + i)) (g.symCorr.getD i 0) x) (if g.uncorr = 0 then (if g.corrected = 0 then r else count (prtCtr n 0) g.corrected r) else count (prtCtr n 1) g.uncorr (if g.corrected = 0 then r else count (prtCtr n 0) g.corrected r))) ∧ (g.decoded = true) ∧ (fld g.hdr 18 6 + fld g.hdr 24 6 ≤ 40) ∧ (w = trackLock n g.good (winAdd n g.uncorr 0 0 g.symCorr a)) ∧ (grouping (port w n) = true) ∧ ((port w n).tr.locked = true) ∧ (v = updPort n (fun p => { p with wd := if bitW g.hdr 30 then { p.wd with rxSwitch := none } else p.wd, rxMask := if bitW g.hdr 30 then (p.wd.rxSwitch.map (fun x => x.2)).getD p.rxMask else p.rxMask, rp := { p.rp with ackGroups := p.rp.ackGroups + 1, ackDue := p.rp.ackDue || decide (32 ≤ p.rp.ackGroups + 1) } }) w) ∧ (k = (g.words.take (4 * fld g.hdr 18 6)).foldl (fun x l => rxWord n l x) v) ∧ ((port k n).st ≠ .up ∨ fld g.hdr 24 6 = 0) ∧ quiet s (k) = true := by decide +kernel

set_option maxRecDepth 100000 in
theorem wit_LanesAndGroups_5 :
    let n : Nat := 3; let line : List Nat := (encodeGroup 0 (w32 (2 ^ 24)) [] [0x08000000000000000000 + 2 * 2 ^ 82]).1; let s : State := { sOn with net.ports := [(3, { st := .up, width := 2, mask := 0xF, rxMask := 0xF, tr := { coef := true, lanes := 0xF, locked := true, identOk := true } })] }; let g : Group := (received s n line).1; let r : State := (received s n line).2; let a : State := (List.range 4).foldl (fun x i => if g.symCorr.getD i 0 = 0 then x else count (prtCtr n (2 + i)) (g.symCorr.getD i 0) x) (if g.uncorr = 0 then (if g.corrected = 0 then r else count (prtCtr n 0) g.corrected r) else count (prtCtr n 1) g.uncorr (if g.corrected = 0 then r else count (prtCtr n 0) g.corrected r)); let w : State := trackLock n g.good (winAdd n g.uncorr 0 0 g.symCorr a); let v : State := updPort n (fun p => { p with wd := if bitW g.hdr 30 then { p.wd with rxSwitch := none } else p.wd, rxMask := if bitW g.hdr 30 then (p.wd.rxSwitch.map (fun x => x.2)).getD p.rxMask else p.rxMask, rp := { p.rp with ackGroups := p.rp.ackGroups + 1, ackDue := p.rp.ackDue || decide (32 ≤ p.rp.ackGroups + 1) } }) w; let k : State := (g.words.take (4 * fld g.hdr 18 6)).foldl (fun x l => rxWord n l x) v
    (grouping (port s n) = true) ∧ (received s n line = (g, r)) ∧ (a = (List.range 4).foldl (fun x i => if g.symCorr.getD i 0 = 0 then x else count (prtCtr n (2 + i)) (g.symCorr.getD i 0) x) (if g.uncorr = 0 then (if g.corrected = 0 then r else count (prtCtr n 0) g.corrected r) else count (prtCtr n 1) g.uncorr (if g.corrected = 0 then r else count (prtCtr n 0) g.corrected r))) ∧ (g.decoded = true) ∧ (fld g.hdr 18 6 + fld g.hdr 24 6 ≤ 40) ∧ (w = trackLock n g.good (winAdd n g.uncorr 0 0 g.symCorr a)) ∧ (grouping (port w n) = true) ∧ ((port w n).tr.locked = true) ∧ (v = updPort n (fun p => { p with wd := if bitW g.hdr 30 then { p.wd with rxSwitch := none } else p.wd, rxMask := if bitW g.hdr 30 then (p.wd.rxSwitch.map (fun x => x.2)).getD p.rxMask else p.rxMask, rp := { p.rp with ackGroups := p.rp.ackGroups + 1, ackDue := p.rp.ackDue || decide (32 ≤ p.rp.ackGroups + 1) } }) w) ∧ (k = (g.words.take (4 * fld g.hdr 18 6)).foldl (fun x l => rxWord n l x) v) ∧ ((port k n).st = .up) ∧ (fld g.hdr 24 6 ≠ 0) ∧ (gcmEn k n = false) ∧ quiet s (acceptCells n (fld g.hdr 0 18) ((g.cells.drop (fld g.hdr 18 6)).take (fld g.hdr 24 6)) k) = true := by decide +kernel

set_option maxRecDepth 100000 in
theorem wit_LanesAndGroups_6 :
    let n : Nat := 3; let line : List Nat := (encodeGroup 0 (w32 (41 * 2 ^ 18)) [] []).1; let s : State := { sOn with net.ports := [(3, { st := .up, width := 2, mask := 0xF, rxMask := 0xF, tr := { coef := true, lanes := 0xF, locked := true, identOk := true } })] }; let g : Group := (received s n line).1; let r : State := (received s n line).2; let a : State := (List.range 4).foldl (fun x i => if g.symCorr.getD i 0 = 0 then x else count (prtCtr n (2 + i)) (g.symCorr.getD i 0) x) (if g.uncorr = 0 then (if g.corrected = 0 then r else count (prtCtr n 0) g.corrected r) else count (prtCtr n 1) g.uncorr (if g.corrected = 0 then r else count (prtCtr n 0) g.corrected r)); let w : State := trackLock n g.good (inc (prtCtr n 6) (winAdd n g.uncorr 0 0 g.symCorr a))
    (grouping (port s n) = true) ∧ (received s n line = (g, r)) ∧ (a = (List.range 4).foldl (fun x i => if g.symCorr.getD i 0 = 0 then x else count (prtCtr n (2 + i)) (g.symCorr.getD i 0) x) (if g.uncorr = 0 then (if g.corrected = 0 then r else count (prtCtr n 0) g.corrected r) else count (prtCtr n 1) g.uncorr (if g.corrected = 0 then r else count (prtCtr n 0) g.corrected r))) ∧ (g.decoded = false ∨ 40 < fld g.hdr 18 6 + fld g.hdr 24 6) ∧ (w = trackLock n g.good (inc (prtCtr n 6) (winAdd n g.uncorr 0 0 g.symCorr a))) ∧ quiet s ((if grouping (port w n) = true ∧ (port w n).tr.locked = true then wantNak n w else w)) = true := by decide +kernel

set_option maxRecDepth 100000 in
theorem wit_LanesAndGroups_7 :
    let n : Nat := 3; let line : List Nat := (encodeGroup 0 (w32 (0)) [] []).1; let s : State := { sOn with net.ports := [(3, { st := .locking, width := 2, mask := 0xF, rxMask := 0xF, tr := { coef := true, lanes := 0xF, identOk := true } })] }; let g : Group := (received s n line).1; let r : State := (received s n line).2; let a : State := (List.range 4).foldl (fun x i => if g.symCorr.getD i 0 = 0 then x else count (prtCtr n (2 + i)) (g.symCorr.getD i 0) x) (if g.uncorr = 0 then (if g.corrected = 0 then r else count (prtCtr n 0) g.corrected r) else count (prtCtr n 1) g.uncorr (if g.corrected = 0 then r else count (prtCtr n 0) g.corrected r)); let w : State := trackLock n g.good (winAdd n g.uncorr 0 0 g.symCorr a)
    (grouping (port s n) = true) ∧ (received s n line = (g, r)) ∧ (a = (List.range 4).foldl (fun x i => if g.symCorr.getD i 0 = 0 then x else count (prtCtr n (2 + i)) (g.symCorr.getD i 0) x) (if g.uncorr = 0 then (if g.corrected = 0 then r else count (prtCtr n 0) g.corrected r) else count (prtCtr n 1) g.uncorr (if g.corrected = 0 then r else count (prtCtr n 0) g.corrected r))) ∧ (g.decoded = true) ∧ (fld g.hdr 18 6 + fld g.hdr 24 6 ≤ 40) ∧ (w = trackLock n g.good (winAdd n g.uncorr 0 0 g.symCorr a)) ∧ (grouping (port w n) = false ∨ (port w n).tr.locked = false) ∧ quiet s (w) = true := by decide +kernel

theorem wit_LanesAndGroups_8 :
    let n : Nat := 3; let line : List Nat := []; let s : State := sOn
    (grouping (port s n) = false) ∧ quiet s (s) = true := by decide

set_option maxRecDepth 100000 in
theorem wit_LanesAndGroups_9 :
    let n : Nat := 3; let line : List Nat := (encodeGroup 0 (w32 (2 ^ 18)) [mkLw 1 [(8, 2, 1), (16, 24, 7)], mkLw 0 [], mkLw 0 [], mkLw 0 []] []).1; let l : LinkWord := mkLw 1 [(8, 2, 1), (16, 24, 7)]; let s : State := { sOn with net.ports := [(3, { st := .up, width := 2, mask := 0xF, rxMask := 0xF, tr := { coef := true, lanes := 0xF, locked := true, identOk := true } })] }; let g : Group := (received s n line).1; let r : State := (received s n line).2; let a : State := (List.range 4).foldl (fun x i => if g.symCorr.getD i 0 = 0 then x else count (prtCtr n (2 + i)) (g.symCorr.getD i 0) x) (if g.uncorr = 0 then (if g.corrected = 0 then r else count (prtCtr n 0) g.corrected r) else count (prtCtr n 1) g.uncorr (if g.corrected = 0 then r else count (prtCtr n 0) g.corrected r)); let w : State := trackLock n g.good (winAdd n g.uncorr 0 0 g.symCorr a); let v : State := updPort n (fun p => { p with wd := if bitW g.hdr 30 then { p.wd with rxSwitch := none } else p.wd, rxMask := if bitW g.hdr 30 then (p.wd.rxSwitch.map (fun x => x.2)).getD p.rxMask else p.rxMask, rp := { p.rp with ackGroups := p.rp.ackGroups + 1, ackDue := p.rp.ackDue || decide (32 ≤ p.rp.ackGroups + 1) } }) w
    (grouping (port s n) = true) ∧ (received s n line = (g, r)) ∧ (a = (List.range 4).foldl (fun x i => if g.symCorr.getD i 0 = 0 then x else count (prtCtr n (2 + i)) (g.symCorr.getD i 0) x) (if g.uncorr = 0 then (if g.corrected = 0 then r else count (prtCtr n 0) g.corrected r) else count (prtCtr n 1) g.uncorr (if g.corrected = 0 then r else count (prtCtr n 0) g.corrected r))) ∧ (g.decoded = true) ∧ (fld g.hdr 18 6 + fld g.hdr 24 6 ≤ 40) ∧ (w = trackLock n g.good (winAdd n g.uncorr 0 0 g.symCorr a)) ∧ (grouping (port w n) = true) ∧ ((port w n).tr.locked = true) ∧ (v = updPort n (fun p => { p with wd := if bitW g.hdr 30 then { p.wd with rxSwitch := none } else p.wd, rxMask := if bitW g.hdr 30 then (p.wd.rxSwitch.map (fun x => x.2)).getD p.rxMask else p.rxMask, rp := { p.rp with ackGroups := p.rp.ackGroups + 1, ackDue := p.rp.ackDue || decide (32 ≤ p.rp.ackGroups + 1) } }) w) ∧ ((port w n).st = .up) ∧ (fld g.hdr 24 6 = 0) ∧ ((g.words.take (4 * fld g.hdr 18 6)).filter (fun x => x != mkLw 0 []) = [l]) ∧ (lwOk l = true) ∧ (lwF l 0 8 = 1) ∧ quiet s (updPort n (fun p => { p with cr := { p.cr with freed := (List.range 4).foldl (fun m i => Maps.put 0 m (4 * lwF l 8 2 + i) (BitVec.ofNat 24 (lwF l (16 + 24 * i) 24))) p.cr.freed } }) v) = true := by decide +kernel

set_option maxRecDepth 100000 in
theorem wit_LanesAndGroups_10 :
    let n : Nat := 3; let line : List Nat := (encodeGroup 0 (w32 (2 ^ 18)) [mkLw 3 [(16, 18, 1)], mkLw 0 [], mkLw 0 [], mkLw 0 []] []).1; let l : LinkWord := mkLw 3 [(16, 18, 1)]; let k : Nat := 1; let s : State := { sOn with net.ports := [(3, { st := .up, rp := { window := [(5, true)], txCsn := 1 }, width := 2, mask := 0xF, rxMask := 0xF, tr := { coef := true, lanes := 0xF, locked := true, identOk := true } })] }; let g : Group := (received s n line).1; let r : State := (received s n line).2; let a : State := (List.range 4).foldl (fun x i => if g.symCorr.getD i 0 = 0 then x else count (prtCtr n (2 + i)) (g.symCorr.getD i 0) x) (if g.uncorr = 0 then (if g.corrected = 0 then r else count (prtCtr n 0) g.corrected r) else count (prtCtr n 1) g.uncorr (if g.corrected = 0 then r else count (prtCtr n 0) g.corrected r)); let w : State := trackLock n g.good (winAdd n g.uncorr 0 0 g.symCorr a); let v : State := updPort n (fun p => { p with wd := if bitW g.hdr 30 then { p.wd with rxSwitch := none } else p.wd, rxMask := if bitW g.hdr 30 then (p.wd.rxSwitch.map (fun x => x.2)).getD p.rxMask else p.rxMask, rp := { p.rp with ackGroups := p.rp.ackGroups + 1, ackDue := p.rp.ackDue || decide (32 ≤ p.rp.ackGroups + 1) } }) w
    (grouping (port s n) = true) ∧ (received s n line = (g, r)) ∧ (a = (List.range 4).foldl (fun x i => if g.symCorr.getD i 0 = 0 then x else count (prtCtr n (2 + i)) (g.symCorr.getD i 0) x) (if g.uncorr = 0 then (if g.corrected = 0 then r else count (prtCtr n 0) g.corrected r) else count (prtCtr n 1) g.uncorr (if g.corrected = 0 then r else count (prtCtr n 0) g.corrected r))) ∧ (g.decoded = true) ∧ (fld g.hdr 18 6 + fld g.hdr 24 6 ≤ 40) ∧ (w = trackLock n g.good (winAdd n g.uncorr 0 0 g.symCorr a)) ∧ (grouping (port w n) = true) ∧ ((port w n).tr.locked = true) ∧ (v = updPort n (fun p => { p with wd := if bitW g.hdr 30 then { p.wd with rxSwitch := none } else p.wd, rxMask := if bitW g.hdr 30 then (p.wd.rxSwitch.map (fun x => x.2)).getD p.rxMask else p.rxMask, rp := { p.rp with ackGroups := p.rp.ackGroups + 1, ackDue := p.rp.ackDue || decide (32 ≤ p.rp.ackGroups + 1) } }) w) ∧ ((port w n).st = .up) ∧ (fld g.hdr 24 6 = 0) ∧ ((g.words.take (4 * fld g.hdr 18 6)).filter (fun x => x != mkLw 0 []) = [l]) ∧ (lwOk l = true) ∧ (lwF l 0 8 = 3) ∧ (k = modSub 18 (lwF l 16 18) (oldestCsn (port v n))) ∧ (k ≤ (port v n).rp.window.length) ∧ quiet s (updPort n (fun p => { p with rp := { p.rp with heard := true, window := p.rp.window.drop k, retries := if k = 0 then p.rp.retries else 0, resend := p.rp.resend.map (fun q => q - k) } }) v) = true := by decide +kernel

set_option maxRecDepth 100000 in
theorem wit_LanesAndGroups_11 :
    let n : Nat := 3; let line : List Nat := (encodeGroup 0 (w32 (2 ^ 18)) [mkLw 3 [(16, 18, 9)], mkLw 0 [], mkLw 0 [], mkLw 0 []] []).1; let l : LinkWord := mkLw 3 [(16, 18, 9)]; let s : State := { sOn with net.ports := [(3, { st := .up, width := 2, mask := 0xF, rxMask := 0xF, tr := { coef := true, lanes := 0xF, locked := true, identOk := true } })] }; let g : Group := (received s n line).1; let r : State := (received s n line).2; let a : State := (List.range 4).foldl (fun x i => if g.symCorr.getD i 0 = 0 then x else count (prtCtr n (2 + i)) (g.symCorr.getD i 0) x) (if g.uncorr = 0 then (if g.corrected = 0 then r else count (prtCtr n 0) g.corrected r) else count (prtCtr n 1) g.uncorr (if g.corrected = 0 then r else count (prtCtr n 0) g.corrected r)); let w : State := trackLock n g.good (winAdd n g.uncorr 0 0 g.symCorr a); let v : State := updPort n (fun p => { p with wd := if bitW g.hdr 30 then { p.wd with rxSwitch := none } else p.wd, rxMask := if bitW g.hdr 30 then (p.wd.rxSwitch.map (fun x => x.2)).getD p.rxMask else p.rxMask, rp := { p.rp with ackGroups := p.rp.ackGroups + 1, ackDue := p.rp.ackDue || decide (32 ≤ p.rp.ackGroups + 1) } }) w
    (grouping (port s n) = true) ∧ (received s n line = (g, r)) ∧ (a = (List.range 4).foldl (fun x i => if g.symCorr.getD i 0 = 0 then x else count (prtCtr n (2 + i)) (g.symCorr.getD i 0) x) (if g.uncorr = 0 then (if g.corrected = 0 then r else count (prtCtr n 0) g.corrected r) else count (prtCtr n 1) g.uncorr (if g.corrected = 0 then r else count (prtCtr n 0) g.corrected r))) ∧ (g.decoded = true) ∧ (fld g.hdr 18 6 + fld g.hdr 24 6 ≤ 40) ∧ (w = trackLock n g.good (winAdd n g.uncorr 0 0 g.symCorr a)) ∧ (grouping (port w n) = true) ∧ ((port w n).tr.locked = true) ∧ (v = updPort n (fun p => { p with wd := if bitW g.hdr 30 then { p.wd with rxSwitch := none } else p.wd, rxMask := if bitW g.hdr 30 then (p.wd.rxSwitch.map (fun x => x.2)).getD p.rxMask else p.rxMask, rp := { p.rp with ackGroups := p.rp.ackGroups + 1, ackDue := p.rp.ackDue || decide (32 ≤ p.rp.ackGroups + 1) } }) w) ∧ ((port w n).st = .up) ∧ (fld g.hdr 24 6 = 0) ∧ ((g.words.take (4 * fld g.hdr 18 6)).filter (fun x => x != mkLw 0 []) = [l]) ∧ (lwOk l = true) ∧ (lwF l 0 8 = 3) ∧ ((port v n).rp.window.length < modSub 18 (lwF l 16 18) (oldestCsn (port v n))) ∧ quiet s (v) = true := by decide +kernel

set_option maxRecDepth 100000 in
theorem wit_LanesAndGroups_12 :
    let n : Nat := 3; let line : List Nat := (encodeGroup 0 (w32 (2 ^ 18)) [mkLw 4 [(16, 18, 1)], mkLw 0 [], mkLw 0 [], mkLw 0 []] []).1; let l : LinkWord := mkLw 4 [(16, 18, 1)]; let k : Nat := 1; let s : State := { sOn with net.ports := [(3, { st := .up, rp := { window := [(5, false), (6, true)], txCsn := 2 }, width := 2, mask := 0xF, rxMask := 0xF, tr := { coef := true, lanes := 0xF, locked := true, identOk := true } })] }; let g : Group := (received s n line).1; let r : State := (received s n line).2; let a : State := (List.range 4).foldl (fun x i => if g.symCorr.getD i 0 = 0 then x else count (prtCtr n (2 + i)) (g.symCorr.getD i 0) x) (if g.uncorr = 0 then (if g.corrected = 0 then r else count (prtCtr n 0) g.corrected r) else count (prtCtr n 1) g.uncorr (if g.corrected = 0 then r else count (prtCtr n 0) g.corrected r)); let w : State := trackLock n g.good (winAdd n g.uncorr 0 0 g.symCorr a); let v : State := updPort n (fun p => { p with wd := if bitW g.hdr 30 then { p.wd with rxSwitch := none } else p.wd, rxMask := if bitW g.hdr 30 then (p.wd.rxSwitch.map (fun x => x.2)).getD p.rxMask else p.rxMask, rp := { p.rp with ackGroups := p.rp.ackGroups + 1, ackDue := p.rp.ackDue || decide (32 ≤ p.rp.ackGroups + 1) } }) w
    (grouping (port s n) = true) ∧ (received s n line = (g, r)) ∧ (a = (List.range 4).foldl (fun x i => if g.symCorr.getD i 0 = 0 then x else count (prtCtr n (2 + i)) (g.symCorr.getD i 0) x) (if g.uncorr = 0 then (if g.corrected = 0 then r else count (prtCtr n 0) g.corrected r) else count (prtCtr n 1) g.uncorr (if g.corrected = 0 then r else count (prtCtr n 0) g.corrected r))) ∧ (g.decoded = true) ∧ (fld g.hdr 18 6 + fld g.hdr 24 6 ≤ 40) ∧ (w = trackLock n g.good (winAdd n g.uncorr 0 0 g.symCorr a)) ∧ (grouping (port w n) = true) ∧ ((port w n).tr.locked = true) ∧ (v = updPort n (fun p => { p with wd := if bitW g.hdr 30 then { p.wd with rxSwitch := none } else p.wd, rxMask := if bitW g.hdr 30 then (p.wd.rxSwitch.map (fun x => x.2)).getD p.rxMask else p.rxMask, rp := { p.rp with ackGroups := p.rp.ackGroups + 1, ackDue := p.rp.ackDue || decide (32 ≤ p.rp.ackGroups + 1) } }) w) ∧ ((port w n).st = .up) ∧ (fld g.hdr 24 6 = 0) ∧ ((g.words.take (4 * fld g.hdr 18 6)).filter (fun x => x != mkLw 0 []) = [l]) ∧ (lwOk l = true) ∧ (lwF l 0 8 = 4) ∧ (k = modSub 18 (lwF l 16 18) (oldestCsn (port v n))) ∧ (k < (port v n).rp.window.length) ∧ (k ≠ 0) ∧ quiet s (inc (prtCtr n 7) (updPort n (fun p => { p with rp := { p.rp with heard := true, window := p.rp.window.drop k, resend := some 0, retries := 1 } }) v)) = true := by decide +kernel

set_option maxRecDepth 100000 in
theorem wit_LanesAndGroups_13 :
    let n : Nat := 3; let line : List Nat := (encodeGroup 0 (w32 (2 ^ 18)) [mkLw 0x20 [(8, 8, 7)], mkLw 0 [], mkLw 0 [], mkLw 0 []] []).1; let l : LinkWord := mkLw 0x20 [(8, 8, 7)]; let s : State := { sOn with net.ports := [(3, { st := .up, width := 2, mask := 0xF, rxMask := 0xF, tr := { coef := true, lanes := 0xF, locked := true, identOk := true } })] }; let g : Group := (received s n line).1; let r : State := (received s n line).2; let a : State := (List.range 4).foldl (fun x i => if g.symCorr.getD i 0 = 0 then x else count (prtCtr n (2 + i)) (g.symCorr.getD i 0) x) (if g.uncorr = 0 then (if g.corrected = 0 then r else count (prtCtr n 0) g.corrected r) else count (prtCtr n 1) g.uncorr (if g.corrected = 0 then r else count (prtCtr n 0) g.corrected r)); let w : State := trackLock n g.good (winAdd n g.uncorr 0 0 g.symCorr a); let v : State := updPort n (fun p => { p with wd := if bitW g.hdr 30 then { p.wd with rxSwitch := none } else p.wd, rxMask := if bitW g.hdr 30 then (p.wd.rxSwitch.map (fun x => x.2)).getD p.rxMask else p.rxMask, rp := { p.rp with ackGroups := p.rp.ackGroups + 1, ackDue := p.rp.ackDue || decide (32 ≤ p.rp.ackGroups + 1) } }) w
    (grouping (port s n) = true) ∧ (received s n line = (g, r)) ∧ (a = (List.range 4).foldl (fun x i => if g.symCorr.getD i 0 = 0 then x else count (prtCtr n (2 + i)) (g.symCorr.getD i 0) x) (if g.uncorr = 0 then (if g.corrected = 0 then r else count (prtCtr n 0) g.corrected r) else count (prtCtr n 1) g.uncorr (if g.corrected = 0 then r else count (prtCtr n 0) g.corrected r))) ∧ (g.decoded = true) ∧ (fld g.hdr 18 6 + fld g.hdr 24 6 ≤ 40) ∧ (w = trackLock n g.good (winAdd n g.uncorr 0 0 g.symCorr a)) ∧ (grouping (port w n) = true) ∧ ((port w n).tr.locked = true) ∧ (v = updPort n (fun p => { p with wd := if bitW g.hdr 30 then { p.wd with rxSwitch := none } else p.wd, rxMask := if bitW g.hdr 30 then (p.wd.rxSwitch.map (fun x => x.2)).getD p.rxMask else p.rxMask, rp := { p.rp with ackGroups := p.rp.ackGroups + 1, ackDue := p.rp.ackDue || decide (32 ≤ p.rp.ackGroups + 1) } }) w) ∧ ((port w n).st = .up) ∧ (fld g.hdr 24 6 = 0) ∧ ((g.words.take (4 * fld g.hdr 18 6)).filter (fun x => x != mkLw 0 []) = [l]) ∧ (lwOk l = true) ∧ (lwF l 0 8 = 0x20) ∧ quiet s (sendLw n 0x21 [(8, 8, lwF l 8 8), (32, 80, stamp v)] v) = true := by decide +kernel

set_option maxRecDepth 100000 in
theorem wit_LanesAndGroups_14 :
    let n : Nat := 3; let line : List Nat := (encodeGroup 0 (w32 (2 ^ 18)) [mkLw 0x10 [(8, 8, 7), (16, 2, 1), (20, 4, 3)], mkLw 0 [], mkLw 0 [], mkLw 0 []] []).1; let l : LinkWord := mkLw 0x10 [(8, 8, 7), (16, 2, 1), (20, 4, 3)]; let s : State := { sOn with net.ports := [(3, { st := .up, width := 2, mask := 0xF, rxMask := 0xF, tr := { coef := true, lanes := 0xF, locked := true, identOk := true } })] }; let g : Group := (received s n line).1; let r : State := (received s n line).2; let a : State := (List.range 4).foldl (fun x i => if g.symCorr.getD i 0 = 0 then x else count (prtCtr n (2 + i)) (g.symCorr.getD i 0) x) (if g.uncorr = 0 then (if g.corrected = 0 then r else count (prtCtr n 0) g.corrected r) else count (prtCtr n 1) g.uncorr (if g.corrected = 0 then r else count (prtCtr n 0) g.corrected r)); let w : State := trackLock n g.good (winAdd n g.uncorr 0 0 g.symCorr a); let v : State := updPort n (fun p => { p with wd := if bitW g.hdr 30 then { p.wd with rxSwitch := none } else p.wd, rxMask := if bitW g.hdr 30 then (p.wd.rxSwitch.map (fun x => x.2)).getD p.rxMask else p.rxMask, rp := { p.rp with ackGroups := p.rp.ackGroups + 1, ackDue := p.rp.ackDue || decide (32 ≤ p.rp.ackGroups + 1) } }) w
    (grouping (port s n) = true) ∧ (received s n line = (g, r)) ∧ (a = (List.range 4).foldl (fun x i => if g.symCorr.getD i 0 = 0 then x else count (prtCtr n (2 + i)) (g.symCorr.getD i 0) x) (if g.uncorr = 0 then (if g.corrected = 0 then r else count (prtCtr n 0) g.corrected r) else count (prtCtr n 1) g.uncorr (if g.corrected = 0 then r else count (prtCtr n 0) g.corrected r))) ∧ (g.decoded = true) ∧ (fld g.hdr 18 6 + fld g.hdr 24 6 ≤ 40) ∧ (w = trackLock n g.good (winAdd n g.uncorr 0 0 g.symCorr a)) ∧ (grouping (port w n) = true) ∧ ((port w n).tr.locked = true) ∧ (v = updPort n (fun p => { p with wd := if bitW g.hdr 30 then { p.wd with rxSwitch := none } else p.wd, rxMask := if bitW g.hdr 30 then (p.wd.rxSwitch.map (fun x => x.2)).getD p.rxMask else p.rxMask, rp := { p.rp with ackGroups := p.rp.ackGroups + 1, ackDue := p.rp.ackDue || decide (32 ≤ p.rp.ackGroups + 1) } }) w) ∧ ((port w n).st = .up) ∧ (fld g.hdr 24 6 = 0) ∧ ((g.words.take (4 * fld g.hdr 18 6)).filter (fun x => x != mkLw 0 []) = [l]) ∧ (lwOk l = true) ∧ (lwF l 0 8 = 0x10) ∧ ((port v n).wd.own = none) ∧ (lwF l 16 2 ≤ rwsF v (prtBase n) 0 2) ∧ (lwF l 16 2 ≠ 3) ∧ (maskOk (lwF l 16 2) (BitVec.ofNat 4 (lwF l 20 4)) = true) ∧ (BitVec.ofNat 4 (lwF l 20 4) &&& ~~~ (port v n).tr.lanes = 0) ∧ quiet s (updPort n (fun p => { p with wd := { p.wd with txSwitch := some (BitVec.ofNat 2 (lwF l 16 2), BitVec.ofNat 4 (lwF l 20 4), none), rxSwitch := some (BitVec.ofNat 2 (lwF l 16 2), BitVec.ofNat 4 (lwF l 20 4)) } }) (sendLw n 0x11 [(8, 8, lwF l 8 8), (16, 2, lwF l 16 2), (20, 4, lwF l 20 4)] v)) = true := by decide +kernel

set_option maxRecDepth 100000 in
theorem wit_LanesAndGroups_15 :
    let n : Nat := 3; let line : List Nat := (encodeGroup 0 (w32 (2 ^ 18)) [mkLw 0x13 [(8, 8, 7)], mkLw 0 [], mkLw 0 [], mkLw 0 []] []).1; let l : LinkWord := mkLw 0x13 [(8, 8, 7)]; let s : State := { sOn with net.ports := [(3, { st := .up, width := 2, mask := 0xF, rxMask := 0xF, tr := { coef := true, lanes := 0xF, locked := true, identOk := true } })] }; let g : Group := (received s n line).1; let r : State := (received s n line).2; let a : State := (List.range 4).foldl (fun x i => if g.symCorr.getD i 0 = 0 then x else count (prtCtr n (2 + i)) (g.symCorr.getD i 0) x) (if g.uncorr = 0 then (if g.corrected = 0 then r else count (prtCtr n 0) g.corrected r) else count (prtCtr n 1) g.uncorr (if g.corrected = 0 then r else count (prtCtr n 0) g.corrected r)); let w : State := trackLock n g.good (winAdd n g.uncorr 0 0 g.symCorr a); let v : State := updPort n (fun p => { p with wd := if bitW g.hdr 30 then { p.wd with rxSwitch := none } else p.wd, rxMask := if bitW g.hdr 30 then (p.wd.rxSwitch.map (fun x => x.2)).getD p.rxMask else p.rxMask, rp := { p.rp with ackGroups := p.rp.ackGroups + 1, ackDue := p.rp.ackDue || decide (32 ≤ p.rp.ackGroups + 1) } }) w
    (grouping (port s n) = true) ∧ (received s n line = (g, r)) ∧ (a = (List.range 4).foldl (fun x i => if g.symCorr.getD i 0 = 0 then x else count (prtCtr n (2 + i)) (g.symCorr.getD i 0) x) (if g.uncorr = 0 then (if g.corrected = 0 then r else count (prtCtr n 0) g.corrected r) else count (prtCtr n 1) g.uncorr (if g.corrected = 0 then r else count (prtCtr n 0) g.corrected r))) ∧ (g.decoded = true) ∧ (fld g.hdr 18 6 + fld g.hdr 24 6 ≤ 40) ∧ (w = trackLock n g.good (winAdd n g.uncorr 0 0 g.symCorr a)) ∧ (grouping (port w n) = true) ∧ ((port w n).tr.locked = true) ∧ (v = updPort n (fun p => { p with wd := if bitW g.hdr 30 then { p.wd with rxSwitch := none } else p.wd, rxMask := if bitW g.hdr 30 then (p.wd.rxSwitch.map (fun x => x.2)).getD p.rxMask else p.rxMask, rp := { p.rp with ackGroups := p.rp.ackGroups + 1, ackDue := p.rp.ackDue || decide (32 ≤ p.rp.ackGroups + 1) } }) w) ∧ ((port w n).st = .up) ∧ (fld g.hdr 24 6 = 0) ∧ ((g.words.take (4 * fld g.hdr 18 6)).filter (fun x => x != mkLw 0 []) = [l]) ∧ (lwOk l = true) ∧ (lwF l 0 8 = 0x13) ∧ ((port v n).wd.own = none) ∧ quiet s (sendLw n 0x14 [(8, 8, lwF l 8 8), (16, 1, lwF l 16 1)] v) = true := by decide +kernel

set_option maxRecDepth 100000 in
theorem wit_LanesAndGroups_16 :
    let n : Nat := 3; let line : List Nat := (encodeGroup 0 (w32 (2 ^ 18)) [mkLw 0x14 [(8, 8, 7)], mkLw 0 [], mkLw 0 [], mkLw 0 []] []).1; let l : LinkWord := mkLw 0x14 [(8, 8, 7)]; let o : LinkReq := { id := 7, retrain := true }; let s : State := { sOn with net.ports := [(3, { st := .up, wd := { own := some { id := 7, retrain := true } }, width := 2, mask := 0xF, rxMask := 0xF, tr := { coef := true, lanes := 0xF, locked := true, identOk := true } })] }; let g : Group := (received s n line).1; let r : State := (received s n line).2; let a : State := (List.range 4).foldl (fun x i => if g.symCorr.getD i 0 = 0 then x else count (prtCtr n (2 + i)) (g.symCorr.getD i 0) x) (if g.uncorr = 0 then (if g.corrected = 0 then r else count (prtCtr n 0) g.corrected r) else count (prtCtr n 1) g.uncorr (if g.corrected = 0 then r else count (prtCtr n 0) g.corrected r)); let w : State := trackLock n g.good (winAdd n g.uncorr 0 0 g.symCorr a); let v : State := updPort n (fun p => { p with wd := if bitW g.hdr 30 then { p.wd with rxSwitch := none } else p.wd, rxMask := if bitW g.hdr 30 then (p.wd.rxSwitch.map (fun x => x.2)).getD p.rxMask else p.rxMask, rp := { p.rp with ackGroups := p.rp.ackGroups + 1, ackDue := p.rp.ackDue || decide (32 ≤ p.rp.ackGroups + 1) } }) w
    (grouping (port s n) = true) ∧ (received s n line = (g, r)) ∧ (a = (List.range 4).foldl (fun x i => if g.symCorr.getD i 0 = 0 then x else count (prtCtr n (2 + i)) (g.symCorr.getD i 0) x) (if g.uncorr = 0 then (if g.corrected = 0 then r else count (prtCtr n 0) g.corrected r) else count (prtCtr n 1) g.uncorr (if g.corrected = 0 then r else count (prtCtr n 0) g.corrected r))) ∧ (g.decoded = true) ∧ (fld g.hdr 18 6 + fld g.hdr 24 6 ≤ 40) ∧ (w = trackLock n g.good (winAdd n g.uncorr 0 0 g.symCorr a)) ∧ (grouping (port w n) = true) ∧ ((port w n).tr.locked = true) ∧ (v = updPort n (fun p => { p with wd := if bitW g.hdr 30 then { p.wd with rxSwitch := none } else p.wd, rxMask := if bitW g.hdr 30 then (p.wd.rxSwitch.map (fun x => x.2)).getD p.rxMask else p.rxMask, rp := { p.rp with ackGroups := p.rp.ackGroups + 1, ackDue := p.rp.ackDue || decide (32 ≤ p.rp.ackGroups + 1) } }) w) ∧ ((port w n).st = .up) ∧ (fld g.hdr 24 6 = 0) ∧ ((g.words.take (4 * fld g.hdr 18 6)).filter (fun x => x != mkLw 0 []) = [l]) ∧ (lwOk l = true) ∧ (lwF l 0 8 = 0x14) ∧ ((port v n).wd.own = some o) ∧ (o.retrain = true) ∧ (lwF l 8 8 = o.id.toNat) ∧ quiet s (linkFailure n (some o.full) (updPort n (fun p => { p with wd := { p.wd with own := none } }) v)) = true := by decide +kernel

set_option maxRecDepth 100000 in
theorem wit_LanesAndGroups_17 :
    let n : Nat := 3; let line : List Nat := (encodeGroup 0 (w32 (2 ^ 18)) [5, mkLw 0 [], mkLw 0 [], mkLw 0 []] []).1; let l : LinkWord := 5; let s : State := { sOn with net.ports := [(3, { st := .up, width := 2, mask := 0xF, rxMask := 0xF, tr := { coef := true, lanes := 0xF, locked := true, identOk := true } })] }; let g : Group := (received s n line).1; let r : State := (received s n line).2; let a : State := (List.range 4).foldl (fun x i => if g.symCorr.getD i 0 = 0 then x else count (prtCtr n (2 + i)) (g.symCorr.getD i 0) x) (if g.uncorr = 0 then (if g.corrected = 0 then r else count (prtCtr n 0) g.corrected r) else count (prtCtr n 1) g.uncorr (if g.corrected = 0 then r else count (prtCtr n 0) g.corrected r)); let w : State := trackLock n g.good (winAdd n g.uncorr 0 0 g.symCorr a); let v : State := updPort n (fun p => { p with wd := if bitW g.hdr 30 then { p.wd with rxSwitch := none } else p.wd, rxMask := if bitW g.hdr 30 then (p.wd.rxSwitch.map (fun x => x.2)).getD p.rxMask else p.rxMask, rp := { p.rp with ackGroups := p.rp.ackGroups + 1, ackDue := p.rp.ackDue || decide (32 ≤ p.rp.ackGroups + 1) } }) w
    (grouping (port s n) = true) ∧ (received s n line = (g, r)) ∧ (a = (List.range 4).foldl (fun x i => if g.symCorr.getD i 0 = 0 then x else count (prtCtr n (2 + i)) (g.symCorr.getD i 0) x) (if g.uncorr = 0 then (if g.corrected = 0 then r else count (prtCtr n 0) g.corrected r) else count (prtCtr n 1) g.uncorr (if g.corrected = 0 then r else count (prtCtr n 0) g.corrected r))) ∧ (g.decoded = true) ∧ (fld g.hdr 18 6 + fld g.hdr 24 6 ≤ 40) ∧ (w = trackLock n g.good (winAdd n g.uncorr 0 0 g.symCorr a)) ∧ (grouping (port w n) = true) ∧ ((port w n).tr.locked = true) ∧ (v = updPort n (fun p => { p with wd := if bitW g.hdr 30 then { p.wd with rxSwitch := none } else p.wd, rxMask := if bitW g.hdr 30 then (p.wd.rxSwitch.map (fun x => x.2)).getD p.rxMask else p.rxMask, rp := { p.rp with ackGroups := p.rp.ackGroups + 1, ackDue := p.rp.ackDue || decide (32 ≤ p.rp.ackGroups + 1) } }) w) ∧ ((port w n).st = .up) ∧ (fld g.hdr 24 6 = 0) ∧ ((g.words.take (4 * fld g.hdr 18 6)).filter (fun x => x != mkLw 0 []) = [l]) ∧ (lwOk l = false) ∧ quiet s (winAdd n 0 1 0 [] (inc (prtCtr n 8) v)) = true := by decide +kernel

set_option maxRecDepth 100000 in
theorem wit_LanesAndGroups_18 :
    let n : Nat := 3; let line : List Nat := (encodeGroup 0 (w32 (2 ^ 18)) [mkLw 0x77 [], mkLw 0 [], mkLw 0 [], mkLw 0 []] []).1; let l : LinkWord := mkLw 0x77 []; let s : State := { sOn with net.ports := [(3, { st := .up, width := 2, mask := 0xF, rxMask := 0xF, tr := { coef := true, lanes := 0xF, locked := true, identOk := true } })] }; let g : Group := (received s n line).1; let r : State := (received s n line).2; let a : State := (List.range 4).foldl (fun x i => if g.symCorr.getD i 0 = 0 then x else count (prtCtr n (2 + i)) (g.symCorr.getD i 0) x) (if g.uncorr = 0 then (if g.corrected = 0 then r else count (prtCtr n 0) g.corrected r) else count (prtCtr n 1) g.uncorr (if g.corrected = 0 then r else count (prtCtr n 0) g.corrected r)); let w : State := trackLock n g.good (winAdd n g.uncorr 0 0 g.symCorr a); let v : State := updPort n (fun p => { p with wd := if bitW g.hdr 30 then { p.wd with rxSwitch := none } else p.wd, rxMask := if bitW g.hdr 30 then (p.wd.rxSwitch.map (fun x => x.2)).getD p.rxMask else p.rxMask, rp := { p.rp with ackGroups := p.rp.ackGroups + 1, ackDue := p.rp.ackDue || decide (32 ≤ p.rp.ackGroups + 1) } }) w
    (grouping (port s n) = true) ∧ (received s n line = (g, r)) ∧ (a = (List.range 4).foldl (fun x i => if g.symCorr.getD i 0 = 0 then x else count (prtCtr n (2 + i)) (g.symCorr.getD i 0) x) (if g.uncorr = 0 then (if g.corrected = 0 then r else count (prtCtr n 0) g.corrected r) else count (prtCtr n 1) g.uncorr (if g.corrected = 0 then r else count (prtCtr n 0) g.corrected r))) ∧ (g.decoded = true) ∧ (fld g.hdr 18 6 + fld g.hdr 24 6 ≤ 40) ∧ (w = trackLock n g.good (winAdd n g.uncorr 0 0 g.symCorr a)) ∧ (grouping (port w n) = true) ∧ ((port w n).tr.locked = true) ∧ (v = updPort n (fun p => { p with wd := if bitW g.hdr 30 then { p.wd with rxSwitch := none } else p.wd, rxMask := if bitW g.hdr 30 then (p.wd.rxSwitch.map (fun x => x.2)).getD p.rxMask else p.rxMask, rp := { p.rp with ackGroups := p.rp.ackGroups + 1, ackDue := p.rp.ackDue || decide (32 ≤ p.rp.ackGroups + 1) } }) w) ∧ ((port w n).st = .up) ∧ (fld g.hdr 24 6 = 0) ∧ ((g.words.take (4 * fld g.hdr 18 6)).filter (fun x => x != mkLw 0 []) = [l]) ∧ (lwOk l = true) ∧ (lwF l 0 8 = 0x77) ∧ quiet s (winAdd n 0 0 1 [] (inc (prtCtr n 9) v)) = true := by decide +kernel

set_option maxRecDepth 100000 in
theorem wit_LanesAndGroups_19 :
    let n : Nat := 3; let line : List Nat := (encodeGroup 0 (w32 (9 + 2 ^ 24)) [] [0x08000000000000000000 + 2 * 2 ^ 82]).1; let c : Cell64 := 0x08000000000000000000 + 2 * 2 ^ 82; let s : State := { sOn with net.ports := [(3, { st := .up, width := 2, mask := 0xF, rxMask := 0xF, tr := { coef := true, lanes := 0xF, locked := true, identOk := true } })] }; let g : Group := (received s n line).1; let r : State := (received s n line).2; let a : State := (List.range 4).foldl (fun x i => if g.symCorr.getD i 0 = 0 then x else count (prtCtr n (2 + i)) (g.symCorr.getD i 0) x) (if g.uncorr = 0 then (if g.corrected = 0 then r else count (prtCtr n 0) g.corrected r) else count (prtCtr n 1) g.uncorr (if g.corrected = 0 then r else count (prtCtr n 0) g.corrected r)); let w : State := trackLock n g.good (winAdd n g.uncorr 0 0 g.symCorr a); let v : State := updPort n (fun p => { p with wd := if bitW g.hdr 30 then { p.wd with rxSwitch := none } else p.wd, rxMask := if bitW g.hdr 30 then (p.wd.rxSwitch.map (fun x => x.2)).getD p.rxMask else p.rxMask, rp := { p.rp with ackGroups := p.rp.ackGroups + 1, ackDue := p.rp.ackDue || decide (32 ≤ p.rp.ackGroups + 1) } }) w
    (grouping (port s n) = true) ∧ (received s n line = (g, r)) ∧ (a = (List.range 4).foldl (fun x i => if g.symCorr.getD i 0 = 0 then x else count (prtCtr n (2 + i)) (g.symCorr.getD i 0) x) (if g.uncorr = 0 then (if g.corrected = 0 then r else count (prtCtr n 0) g.corrected r) else count (prtCtr n 1) g.uncorr (if g.corrected = 0 then r else count (prtCtr n 0) g.corrected r))) ∧ (g.decoded = true) ∧ (fld g.hdr 18 6 + fld g.hdr 24 6 ≤ 40) ∧ (w = trackLock n g.good (winAdd n g.uncorr 0 0 g.symCorr a)) ∧ (grouping (port w n) = true) ∧ ((port w n).tr.locked = true) ∧ (v = updPort n (fun p => { p with wd := if bitW g.hdr 30 then { p.wd with rxSwitch := none } else p.wd, rxMask := if bitW g.hdr 30 then (p.wd.rxSwitch.map (fun x => x.2)).getD p.rxMask else p.rxMask, rp := { p.rp with ackGroups := p.rp.ackGroups + 1, ackDue := p.rp.ackDue || decide (32 ≤ p.rp.ackGroups + 1) } }) w) ∧ ((port w n).st = .up) ∧ (fld g.hdr 18 6 = 0) ∧ (gcmEn w n = false) ∧ ((g.cells.drop (fld g.hdr 18 6)).take (fld g.hdr 24 6) = [c]) ∧ (fld g.hdr 0 18 ≠ (port w n).rp.rxCsn.toNat) ∧ quiet s (wantNak n v) = true := by decide +kernel

set_option maxRecDepth 100000 in
theorem wit_LanesAndGroups_20 :
    let n : Nat := 3; let line : List Nat := (encodeGroup 0 (w32 (2 ^ 24)) [] [5]).1; let c : Cell64 := 5; let s : State := { sOn with net.ports := [(3, { st := .up, width := 2, mask := 0xF, rxMask := 0xF, tr := { coef := true, lanes := 0xF, locked := true, identOk := true } })] }; let g : Group := (received s n line).1; let r : State := (received s n line).2; let a : State := (List.range 4).foldl (fun x i => if g.symCorr.getD i 0 = 0 then x else count (prtCtr n (2 + i)) (g.symCorr.getD i 0) x) (if g.uncorr = 0 then (if g.corrected = 0 then r else count (prtCtr n 0) g.corrected r) else count (prtCtr n 1) g.uncorr (if g.corrected = 0 then r else count (prtCtr n 0) g.corrected r)); let w : State := trackLock n g.good (winAdd n g.uncorr 0 0 g.symCorr a); let v : State := updPort n (fun p => { p with wd := if bitW g.hdr 30 then { p.wd with rxSwitch := none } else p.wd, rxMask := if bitW g.hdr 30 then (p.wd.rxSwitch.map (fun x => x.2)).getD p.rxMask else p.rxMask, rp := { p.rp with ackGroups := p.rp.ackGroups + 1, ackDue := p.rp.ackDue || decide (32 ≤ p.rp.ackGroups + 1) } }) w
    (grouping (port s n) = true) ∧ (received s n line = (g, r)) ∧ (a = (List.range 4).foldl (fun x i => if g.symCorr.getD i 0 = 0 then x else count (prtCtr n (2 + i)) (g.symCorr.getD i 0) x) (if g.uncorr = 0 then (if g.corrected = 0 then r else count (prtCtr n 0) g.corrected r) else count (prtCtr n 1) g.uncorr (if g.corrected = 0 then r else count (prtCtr n 0) g.corrected r))) ∧ (g.decoded = true) ∧ (fld g.hdr 18 6 + fld g.hdr 24 6 ≤ 40) ∧ (w = trackLock n g.good (winAdd n g.uncorr 0 0 g.symCorr a)) ∧ (grouping (port w n) = true) ∧ ((port w n).tr.locked = true) ∧ (v = updPort n (fun p => { p with wd := if bitW g.hdr 30 then { p.wd with rxSwitch := none } else p.wd, rxMask := if bitW g.hdr 30 then (p.wd.rxSwitch.map (fun x => x.2)).getD p.rxMask else p.rxMask, rp := { p.rp with ackGroups := p.rp.ackGroups + 1, ackDue := p.rp.ackDue || decide (32 ≤ p.rp.ackGroups + 1) } }) w) ∧ ((port w n).st = .up) ∧ (fld g.hdr 18 6 = 0) ∧ (gcmEn w n = false) ∧ ((g.cells.drop (fld g.hdr 18 6)).take (fld g.hdr 24 6) = [c]) ∧ (fld g.hdr 0 18 = (port w n).rp.rxCsn.toNat) ∧ ((port w n).rp.rxLeft = 0) ∧ (bitsN c.toNat 82 7 = 0 ∨ 68 < bitsN c.toNat 82 7) ∧ quiet s (wantNak n (inc (prtCtr n 10) v)) = true := by decide +kernel

set_option maxRecDepth 100000 in
theorem wit_LanesAndGroups_21 :
    let n : Nat := 3; let line : List Nat := (encodeGroup 0 (w32 (2 ^ 24)) [] [0x08000000000000000000 + 2 * 2 ^ 82]).1; let c : Cell64 := 0x08000000000000000000 + 2 * 2 ^ 82; let s : State := { sOn with net.ports := [(3, { st := .up, width := 2, mask := 0xF, rxMask := 0xF, tr := { coef := true, lanes := 0xF, locked := true, identOk := true } })] }; let g : Group := (received s n line).1; let r : State := (received s n line).2; let a : State := (List.range 4).foldl (fun x i => if g.symCorr.getD i 0 = 0 then x else count (prtCtr n (2 + i)) (g.symCorr.getD i 0) x) (if g.uncorr = 0 then (if g.corrected = 0 then r else count (prtCtr n 0) g.corrected r) else count (prtCtr n 1) g.uncorr (if g.corrected = 0 then r else count (prtCtr n 0) g.corrected r)); let w : State := trackLock n g.good (winAdd n g.uncorr 0 0 g.symCorr a); let v : State := updPort n (fun p => { p with wd := if bitW g.hdr 30 then { p.wd with rxSwitch := none } else p.wd, rxMask := if bitW g.hdr 30 then (p.wd.rxSwitch.map (fun x => x.2)).getD p.rxMask else p.rxMask, rp := { p.rp with ackGroups := p.rp.ackGroups + 1, ackDue := p.rp.ackDue || decide (32 ≤ p.rp.ackGroups + 1) } }) w
    (grouping (port s n) = true) ∧ (received s n line = (g, r)) ∧ (a = (List.range 4).foldl (fun x i => if g.symCorr.getD i 0 = 0 then x else count (prtCtr n (2 + i)) (g.symCorr.getD i 0) x) (if g.uncorr = 0 then (if g.corrected = 0 then r else count (prtCtr n 0) g.corrected r) else count (prtCtr n 1) g.uncorr (if g.corrected = 0 then r else count (prtCtr n 0) g.corrected r))) ∧ (g.decoded = true) ∧ (fld g.hdr 18 6 + fld g.hdr 24 6 ≤ 40) ∧ (w = trackLock n g.good (winAdd n g.uncorr 0 0 g.symCorr a)) ∧ (grouping (port w n) = true) ∧ ((port w n).tr.locked = true) ∧ (v = updPort n (fun p => { p with wd := if bitW g.hdr 30 then { p.wd with rxSwitch := none } else p.wd, rxMask := if bitW g.hdr 30 then (p.wd.rxSwitch.map (fun x => x.2)).getD p.rxMask else p.rxMask, rp := { p.rp with ackGroups := p.rp.ackGroups + 1, ackDue := p.rp.ackDue || decide (32 ≤ p.rp.ackGroups + 1) } }) w) ∧ ((port w n).st = .up) ∧ (fld g.hdr 18 6 = 0) ∧ (gcmEn w n = false) ∧ ((g.cells.drop (fld g.hdr 18 6)).take (fld g.hdr 24 6) = [c]) ∧ (fld g.hdr 0 18 = (port w n).rp.rxCsn.toNat) ∧ ((port w n).rp.rxLeft = 0) ∧ (1 < bitsN c.toNat 82 7) ∧ (bitsN c.toNat 82 7 ≤ 68) ∧ (w.net.voq.all (fun h => h.inp != n || h.whole) = true) ∧ (carrying w n = none) ∧ quiet s (updPort n (fun p => { p with cr := { p.cr with acc := Maps.upd 0 p.cr.acc (bitsN c.toNat 52 2 * 4 + bitsN c.toNat 50 2) (fun x => x + 1), sync := false }, rp := { p.rp with rxCsn := p.rp.rxCsn + 1, nakAt := none, ackDue := true, rxCells := p.rp.rxCells ++ [c], rxLeft := bitsN c.toNat 82 7 - 1, rxVc := bitsN c.toNat 52 2 * 4 + bitsN c.toNat 50 2, rx := p.rp.rx ++ [{ n := bitsN c.toNat 82 7, vc := bitsN c.toNat 52 2 * 4 + bitsN c.toNat 50 2 }] } }) v) = true := by decide +kernel

set_option maxRecDepth 100000 in
theorem wit_LanesAndGroups_22 :
    let n : Nat := 3; let line : List Nat := (encodeGroup 0 (w32 (2 ^ 24)) [] [5]).1; let c : Cell64 := 5; let e : Arrival := { n := 2, vc := 3 }; let s : State := { sOn with net.ports := [(3, { st := .up, rp := { rx := [{ n := 2, vc := 3 }], rxLeft := 1, rxVc := 3, rxCells := [7] }, width := 2, mask := 0xF, rxMask := 0xF, tr := { coef := true, lanes := 0xF, locked := true, identOk := true } })] }; let g : Group := (received s n line).1; let r : State := (received s n line).2; let a : State := (List.range 4).foldl (fun x i => if g.symCorr.getD i 0 = 0 then x else count (prtCtr n (2 + i)) (g.symCorr.getD i 0) x) (if g.uncorr = 0 then (if g.corrected = 0 then r else count (prtCtr n 0) g.corrected r) else count (prtCtr n 1) g.uncorr (if g.corrected = 0 then r else count (prtCtr n 0) g.corrected r)); let w : State := trackLock n g.good (winAdd n g.uncorr 0 0 g.symCorr a); let v : State := updPort n (fun p => { p with wd := if bitW g.hdr 30 then { p.wd with rxSwitch := none } else p.wd, rxMask := if bitW g.hdr 30 then (p.wd.rxSwitch.map (fun x => x.2)).getD p.rxMask else p.rxMask, rp := { p.rp with ackGroups := p.rp.ackGroups + 1, ackDue := p.rp.ackDue || decide (32 ≤ p.rp.ackGroups + 1) } }) w
    (grouping (port s n) = true) ∧ (received s n line = (g, r)) ∧ (a = (List.range 4).foldl (fun x i => if g.symCorr.getD i 0 = 0 then x else count (prtCtr n (2 + i)) (g.symCorr.getD i 0) x) (if g.uncorr = 0 then (if g.corrected = 0 then r else count (prtCtr n 0) g.corrected r) else count (prtCtr n 1) g.uncorr (if g.corrected = 0 then r else count (prtCtr n 0) g.corrected r))) ∧ (g.decoded = true) ∧ (fld g.hdr 18 6 + fld g.hdr 24 6 ≤ 40) ∧ (w = trackLock n g.good (winAdd n g.uncorr 0 0 g.symCorr a)) ∧ (grouping (port w n) = true) ∧ ((port w n).tr.locked = true) ∧ (v = updPort n (fun p => { p with wd := if bitW g.hdr 30 then { p.wd with rxSwitch := none } else p.wd, rxMask := if bitW g.hdr 30 then (p.wd.rxSwitch.map (fun x => x.2)).getD p.rxMask else p.rxMask, rp := { p.rp with ackGroups := p.rp.ackGroups + 1, ackDue := p.rp.ackDue || decide (32 ≤ p.rp.ackGroups + 1) } }) w) ∧ ((port w n).st = .up) ∧ (fld g.hdr 18 6 = 0) ∧ (gcmEn w n = false) ∧ ((g.cells.drop (fld g.hdr 18 6)).take (fld g.hdr 24 6) = [c]) ∧ (fld g.hdr 0 18 = (port w n).rp.rxCsn.toNat) ∧ ((port w n).rp.rxLeft = 1) ∧ ((port w n).rp.rx = [e]) ∧ (e.whole = false) ∧ (e.arrived = false) ∧ (w.net.voq.all (fun h => h.inp != n || h.whole) = true) ∧ (carrying w n = none) ∧ quiet s (updPort n (fun p => { p with cr := { p.cr with acc := Maps.upd 0 p.cr.acc p.rp.rxVc (fun x => x + 1), sync := false }, rp := { p.rp with rxCsn := p.rp.rxCsn + 1, nakAt := none, ackDue := true, rxCells := [], rxLeft := 0, rx := [{ e with whole := true }] } }) v) = true := by decide +kernel

set_option maxRecDepth 100000 in
theorem wit_LanesAndGroups_23 :
    let n : Nat := 3; let line : List Nat := (encodeGroup 0 (w32 (2 ^ 24)) [] [5]).1; let c : Cell64 := 5; let e : Arrival := { n := 2, vc := 3, arrived := true, drop := true }; let s : State := { sOn with net.ports := [(3, { st := .up, rp := { rx := [{ n := 2, vc := 3, arrived := true, drop := true }], rxLeft := 1, rxVc := 3, rxCells := [7] }, width := 2, mask := 0xF, rxMask := 0xF, tr := { coef := true, lanes := 0xF, locked := true, identOk := true } })] }; let g : Group := (received s n line).1; let r : State := (received s n line).2; let a : State := (List.range 4).foldl (fun x i => if g.symCorr.getD i 0 = 0 then x else count (prtCtr n (2 + i)) (g.symCorr.getD i 0) x) (if g.uncorr = 0 then (if g.corrected = 0 then r else count (prtCtr n 0) g.corrected r) else count (prtCtr n 1) g.uncorr (if g.corrected = 0 then r else count (prtCtr n 0) g.corrected r)); let w : State := trackLock n g.good (winAdd n g.uncorr 0 0 g.symCorr a); let v : State := updPort n (fun p => { p with wd := if bitW g.hdr 30 then { p.wd with rxSwitch := none } else p.wd, rxMask := if bitW g.hdr 30 then (p.wd.rxSwitch.map (fun x => x.2)).getD p.rxMask else p.rxMask, rp := { p.rp with ackGroups := p.rp.ackGroups + 1, ackDue := p.rp.ackDue || decide (32 ≤ p.rp.ackGroups + 1) } }) w
    (grouping (port s n) = true) ∧ (received s n line = (g, r)) ∧ (a = (List.range 4).foldl (fun x i => if g.symCorr.getD i 0 = 0 then x else count (prtCtr n (2 + i)) (g.symCorr.getD i 0) x) (if g.uncorr = 0 then (if g.corrected = 0 then r else count (prtCtr n 0) g.corrected r) else count (prtCtr n 1) g.uncorr (if g.corrected = 0 then r else count (prtCtr n 0) g.corrected r))) ∧ (g.decoded = true) ∧ (fld g.hdr 18 6 + fld g.hdr 24 6 ≤ 40) ∧ (w = trackLock n g.good (winAdd n g.uncorr 0 0 g.symCorr a)) ∧ (grouping (port w n) = true) ∧ ((port w n).tr.locked = true) ∧ (v = updPort n (fun p => { p with wd := if bitW g.hdr 30 then { p.wd with rxSwitch := none } else p.wd, rxMask := if bitW g.hdr 30 then (p.wd.rxSwitch.map (fun x => x.2)).getD p.rxMask else p.rxMask, rp := { p.rp with ackGroups := p.rp.ackGroups + 1, ackDue := p.rp.ackDue || decide (32 ≤ p.rp.ackGroups + 1) } }) w) ∧ ((port w n).st = .up) ∧ (fld g.hdr 18 6 = 0) ∧ (gcmEn w n = false) ∧ ((g.cells.drop (fld g.hdr 18 6)).take (fld g.hdr 24 6) = [c]) ∧ (fld g.hdr 0 18 = (port w n).rp.rxCsn.toNat) ∧ (n < 64) ∧ ((port w n).rp.rxLeft = 1) ∧ ((port w n).rp.rx = [e]) ∧ (e.whole = false) ∧ (e.arrived = true) ∧ (e.drop = true) ∧ (w.net.voq.all (fun h => h.inp != n) = true) ∧ (carrying w n = none) ∧ quiet s (creditInput n (port w n).rp.rxVc ((port w n).rp.rxCells.length + 1) (updPort n (fun p => { p with cr := { p.cr with acc := Maps.upd 0 p.cr.acc p.rp.rxVc (fun x => x + 1), sync := false }, rp := { p.rp with rxCsn := p.rp.rxCsn + 1, nakAt := none, ackDue := true, rxCells := [], rxLeft := 0, rx := [] } }) v)) = true := by decide +kernel

theorem wit_LanesAndGroups_24 :
    let n : Nat := 3; let s : State := sOn
    (grouping (port s n) = false) ∧ quiet s (s) = true := by decide

set_option maxRecDepth 100000 in
theorem wit_LanesAndGroups_25 :
    let n : Nat := 3; let s : State := { sOn with net.outs := [(3, { busy := some { inp := 64, out := 3, vc := 0, inVc := 0, arrived := 0, bank := some false, pkt := { dest := 5, src := 0x20, cls := 0, lenCells := 2, ptype := 1 }, whole := true } })],  net.ports := [(3, { st := .up, rp := { txq := List.replicate 41 (5, false) }, width := 2, mask := 0xF, tr := { coef := true, lanes := 0xF, locked := true, identOk := true } })] }; let ws : List LinkWord := groupWords s n ++ ((port s n).rp.words.take (160 - (groupWords s n).length)).filterMap (stampWord (stamp s)); let nc : Nat := (ws.length + 3) / 4; let pos : Nat := (port s n).rp.resend.getD (port s n).rp.window.length; let cs : List (Cell64 × Bool) := ((port s n).rp.window.drop pos ++ (port s n).rp.txq.take (txAvail s n)).take (40 - nc); let fr : Nat := pos + cs.length - (port s n).rp.window.length; let wi : List (Cell64 × Bool) := (port s n).rp.window ++ (port s n).rp.txq.take fr; let tq : List (Cell64 × Bool) := (port s n).rp.txq.drop fr; let hdr : Word := pack [(0, 18, modSub 18 ((port s n).rp.txCsn.toNat + pos) (port s n).rp.window.length), (18, 6, nc), (24, 6, cs.length), (30, 1, 0), (31, 1, b2n (port s n).kpTx)]; let enc : List Nat × Nat := encodeGroup (port s n).scrTx.toNat hdr (ws ++ List.replicate (4 * nc - ws.length) (mkLw 0 [])) (cs.map (fun c => c.1)); let u : State := emit (.group n hdr (ws ++ List.replicate (4 * nc - ws.length) (mkLw 0 [])) (cs.map (fun c => c.1)) enc.1) (eccWrite (fun e => e.1 == eccReplay n && decide (modSub 18 e.2 (port s n).rp.txCsn.toNat < fr)) (updPort n (fun p => { p with cr := { p.cr with due := 0, sentAt := if p.cr.sentAt + 900 ≤ s.time.now then s.time.now else p.cr.sentAt }, rp := { p.rp with words := p.rp.words.drop (160 - (groupWords s n).length), gossip := [], window := wi, txq := tq, resend := if wi.length ≤ pos + cs.length then none else p.rp.resend.map (fun _ => pos + cs.length), txCsn := p.rp.txCsn + BitVec.ofNat 18 fr, ackDue := false, nakDue := false, ackGroups := if p.rp.ackDue then 0 else p.rp.ackGroups }, scrTx := BitVec.ofNat 58 enc.2 }) s))
    ((port s n).st = .up) ∧ ((port s n).tr.locked = true) ∧ ((port s n).rp.heard = true ∨ (port s n).rp.window = []) ∧ (spillOn s n = false) ∧ ((outp s n).busy.all (fun h => clsOf h.pkt != 2) = true) ∧ (((port s n).rp.words.take (160 - (groupWords s n).length)).all (fun w => lwF w 0 8 != 0x11 && lwF w 0 8 != 0x14 && lwF w 0 8 != 0x20) = true) ∧ (ws = groupWords s n ++ ((port s n).rp.words.take (160 - (groupWords s n).length)).filterMap (stampWord (stamp s))) ∧ (nc = (ws.length + 3) / 4) ∧ (pos = (port s n).rp.resend.getD (port s n).rp.window.length) ∧ (soundCells s n (modSub 18 ((port s n).rp.txCsn.toNat + pos) (port s n).rp.window.length) ((port s n).rp.window.drop pos).length = ((port s n).rp.window.drop pos).length) ∧ (cs = ((port s n).rp.window.drop pos ++ (port s n).rp.txq.take (txAvail s n)).take (40 - nc)) ∧ (fr = pos + cs.length - (port s n).rp.window.length) ∧ (wi = (port s n).rp.window ++ (port s n).rp.txq.take fr) ∧ (tq = (port s n).rp.txq.drop fr) ∧ ((port s n).wd.txSwitch = none) ∧ (hdr = pack [(0, 18, modSub 18 ((port s n).rp.txCsn.toNat + pos) (port s n).rp.window.length), (18, 6, nc), (24, 6, cs.length), (30, 1, 0), (31, 1, b2n (port s n).kpTx)]) ∧ (enc = encodeGroup (port s n).scrTx.toNat hdr (ws ++ List.replicate (4 * nc - ws.length) (mkLw 0 [])) (cs.map (fun c => c.1))) ∧ (u = emit (.group n hdr (ws ++ List.replicate (4 * nc - ws.length) (mkLw 0 [])) (cs.map (fun c => c.1)) enc.1) (eccWrite (fun e => e.1 == eccReplay n && decide (modSub 18 e.2 (port s n).rp.txCsn.toNat < fr)) (updPort n (fun p => { p with cr := { p.cr with due := 0, sentAt := if p.cr.sentAt + 900 ≤ s.time.now then s.time.now else p.cr.sentAt }, rp := { p.rp with words := p.rp.words.drop (160 - (groupWords s n).length), gossip := [], window := wi, txq := tq, resend := if wi.length ≤ pos + cs.length then none else p.rp.resend.map (fun _ => pos + cs.length), txCsn := p.rp.txCsn + BitVec.ofNat 18 fr, ackDue := false, nakDue := false, ackGroups := if p.rp.ackDue then 0 else p.rp.ackGroups }, scrTx := BitVec.ofNat 58 enc.2 }) s))) ∧ (tq ≠ []) ∧ (cs.length = 40 - nc) ∧ (cs ≠ []) ∧ quiet s (u) = true := by decide +kernel

set_option maxRecDepth 100000 in
theorem wit_LanesAndGroups_26 :
    let n : Nat := 3; let s : State := { sOn with net.outs := [(3, { busy := some { inp := 5, out := 3, vc := 0, inVc := 0, arrived := 0, bank := some false, pkt := { dest := 5, src := 0x20, cls := 0, lenCells := 2, ptype := 1 }, whole := false } })],  net.ports := [(3, { st := .up, rp := { txq := [(5, false), (6, true)] }, width := 2, mask := 0xF, tr := { coef := true, lanes := 0xF, locked := true, identOk := true } })] }; let ws : List LinkWord := groupWords s n ++ ((port s n).rp.words.take (160 - (groupWords s n).length)).filterMap (stampWord (stamp s)); let nc : Nat := (ws.length + 3) / 4; let pos : Nat := (port s n).rp.resend.getD (port s n).rp.window.length; let cs : List (Cell64 × Bool) := ((port s n).rp.window.drop pos ++ (port s n).rp.txq.take (txAvail s n)).take (40 - nc); let fr : Nat := pos + cs.length - (port s n).rp.window.length; let wi : List (Cell64 × Bool) := (port s n).rp.window ++ (port s n).rp.txq.take fr; let tq : List (Cell64 × Bool) := (port s n).rp.txq.drop fr; let hdr : Word := pack [(0, 18, modSub 18 ((port s n).rp.txCsn.toNat + pos) (port s n).rp.window.length), (18, 6, nc), (24, 6, cs.length), (30, 1, 0), (31, 1, b2n (port s n).kpTx)]; let enc : List Nat × Nat := encodeGroup (port s n).scrTx.toNat hdr (ws ++ List.replicate (4 * nc - ws.length) (mkLw 0 [])) (cs.map (fun c => c.1)); let u : State := emit (.group n hdr (ws ++ List.replicate (4 * nc - ws.length) (mkLw 0 [])) (cs.map (fun c => c.1)) enc.1) (eccWrite (fun e => e.1 == eccReplay n && decide (modSub 18 e.2 (port s n).rp.txCsn.toNat < fr)) (updPort n (fun p => { p with cr := { p.cr with due := 0, sentAt := if p.cr.sentAt + 900 ≤ s.time.now then s.time.now else p.cr.sentAt }, rp := { p.rp with words := p.rp.words.drop (160 - (groupWords s n).length), gossip := [], window := wi, txq := tq, resend := if wi.length ≤ pos + cs.length then none else p.rp.resend.map (fun _ => pos + cs.length), txCsn := p.rp.txCsn + BitVec.ofNat 18 fr, ackDue := false, nakDue := false, ackGroups := if p.rp.ackDue then 0 else p.rp.ackGroups }, scrTx := BitVec.ofNat 58 enc.2 }) s))
    ((port s n).st = .up) ∧ ((port s n).tr.locked = true) ∧ ((port s n).rp.heard = true ∨ (port s n).rp.window = []) ∧ (spillOn s n = false) ∧ ((outp s n).busy.all (fun h => clsOf h.pkt != 2) = true) ∧ (((port s n).rp.words.take (160 - (groupWords s n).length)).all (fun w => lwF w 0 8 != 0x11 && lwF w 0 8 != 0x14 && lwF w 0 8 != 0x20) = true) ∧ (ws = groupWords s n ++ ((port s n).rp.words.take (160 - (groupWords s n).length)).filterMap (stampWord (stamp s))) ∧ (nc = (ws.length + 3) / 4) ∧ (pos = (port s n).rp.resend.getD (port s n).rp.window.length) ∧ (soundCells s n (modSub 18 ((port s n).rp.txCsn.toNat + pos) (port s n).rp.window.length) ((port s n).rp.window.drop pos).length = ((port s n).rp.window.drop pos).length) ∧ (cs = ((port s n).rp.window.drop pos ++ (port s n).rp.txq.take (txAvail s n)).take (40 - nc)) ∧ (fr = pos + cs.length - (port s n).rp.window.length) ∧ (wi = (port s n).rp.window ++ (port s n).rp.txq.take fr) ∧ (tq = (port s n).rp.txq.drop fr) ∧ ((port s n).wd.txSwitch = none) ∧ (hdr = pack [(0, 18, modSub 18 ((port s n).rp.txCsn.toNat + pos) (port s n).rp.window.length), (18, 6, nc), (24, 6, cs.length), (30, 1, 0), (31, 1, b2n (port s n).kpTx)]) ∧ (enc = encodeGroup (port s n).scrTx.toNat hdr (ws ++ List.replicate (4 * nc - ws.length) (mkLw 0 [])) (cs.map (fun c => c.1))) ∧ (u = emit (.group n hdr (ws ++ List.replicate (4 * nc - ws.length) (mkLw 0 [])) (cs.map (fun c => c.1)) enc.1) (eccWrite (fun e => e.1 == eccReplay n && decide (modSub 18 e.2 (port s n).rp.txCsn.toNat < fr)) (updPort n (fun p => { p with cr := { p.cr with due := 0, sentAt := if p.cr.sentAt + 900 ≤ s.time.now then s.time.now else p.cr.sentAt }, rp := { p.rp with words := p.rp.words.drop (160 - (groupWords s n).length), gossip := [], window := wi, txq := tq, resend := if wi.length ≤ pos + cs.length then none else p.rp.resend.map (fun _ => pos + cs.length), txCsn := p.rp.txCsn + BitVec.ofNat 18 fr, ackDue := false, nakDue := false, ackGroups := if p.rp.ackDue then 0 else p.rp.ackGroups }, scrTx := BitVec.ofNat 58 enc.2 }) s))) ∧ (tq ≠ []) ∧ (cs.length < 40 - nc ∨ cs = []) ∧ ((outp s n).hold = false) ∧ quiet s (raise 154 0x10 (inc (shpBase n + 0x40 + 8 * 9) u)) = true := by decide +kernel

set_option maxRecDepth 100000 in
theorem wit_LanesAndGroups_27 :
    let n : Nat := 3; let s : State := { sOn with net.outs := [(3, { busy := some { inp := 64, out := 3, vc := 0, inVc := 0, arrived := 0, bank := some false, pkt := { dest := 5, src := 0x20, cls := 0, lenCells := 2, ptype := 1 }, whole := true } })],  net.ports := [(3, { st := .up, rp := { window := [(5, false)], txq := [(6, true)], txCsn := 1, words := [mkLw 0x30 []], heard := true, resend := some 0 }, width := 2, mask := 0xF, tr := { coef := true, lanes := 0xF, locked := true, identOk := true } })] }; let ws : List LinkWord := groupWords s n ++ ((port s n).rp.words.take (160 - (groupWords s n).length)).filterMap (stampWord (stamp s)); let nc : Nat := (ws.length + 3) / 4; let pos : Nat := (port s n).rp.resend.getD (port s n).rp.window.length; let cs : List (Cell64 × Bool) := ((port s n).rp.window.drop pos ++ (port s n).rp.txq.take (txAvail s n)).take (40 - nc); let fr : Nat := pos + cs.length - (port s n).rp.window.length; let wi : List (Cell64 × Bool) := (port s n).rp.window ++ (port s n).rp.txq.take fr; let tq : List (Cell64 × Bool) := (port s n).rp.txq.drop fr; let hdr : Word := pack [(0, 18, modSub 18 ((port s n).rp.txCsn.toNat + pos) (port s n).rp.window.length), (18, 6, nc), (24, 6, cs.length), (30, 1, 0), (31, 1, b2n (port s n).kpTx)]; let enc : List Nat × Nat := encodeGroup (port s n).scrTx.toNat hdr (ws ++ List.replicate (4 * nc - ws.length) (mkLw 0 [])) (cs.map (fun c => c.1)); let u : State := emit (.group n hdr (ws ++ List.replicate (4 * nc - ws.length) (mkLw 0 [])) (cs.map (fun c => c.1)) enc.1) (eccWrite (fun e => e.1 == eccReplay n && decide (modSub 18 e.2 (port s n).rp.txCsn.toNat < fr)) (updPort n (fun p => { p with cr := { p.cr with due := 0, sentAt := if p.cr.sentAt + 900 ≤ s.time.now then s.time.now else p.cr.sentAt }, rp := { p.rp with words := p.rp.words.drop (160 - (groupWords s n).length), gossip := [], window := wi, txq := tq, resend := if wi.length ≤ pos + cs.length then none else p.rp.resend.map (fun _ => pos + cs.length), txCsn := p.rp.txCsn + BitVec.ofNat 18 fr, ackDue := false, nakDue := false, ackGroups := if p.rp.ackDue then 0 else p.rp.ackGroups }, scrTx := BitVec.ofNat 58 enc.2 }) s))
    ((port s n).st = .up) ∧ ((port s n).tr.locked = true) ∧ ((port s n).rp.heard = true ∨ (port s n).rp.window = []) ∧ (spillOn s n = false) ∧ ((outp s n).busy.all (fun h => clsOf h.pkt != 2) = true) ∧ (((port s n).rp.words.take (160 - (groupWords s n).length)).all (fun w => lwF w 0 8 != 0x11 && lwF w 0 8 != 0x14 && lwF w 0 8 != 0x20) = true) ∧ (ws = groupWords s n ++ ((port s n).rp.words.take (160 - (groupWords s n).length)).filterMap (stampWord (stamp s))) ∧ (nc = (ws.length + 3) / 4) ∧ (pos = (port s n).rp.resend.getD (port s n).rp.window.length) ∧ (soundCells s n (modSub 18 ((port s n).rp.txCsn.toNat + pos) (port s n).rp.window.length) ((port s n).rp.window.drop pos).length = ((port s n).rp.window.drop pos).length) ∧ (cs = ((port s n).rp.window.drop pos ++ (port s n).rp.txq.take (txAvail s n)).take (40 - nc)) ∧ (fr = pos + cs.length - (port s n).rp.window.length) ∧ (wi = (port s n).rp.window ++ (port s n).rp.txq.take fr) ∧ (tq = (port s n).rp.txq.drop fr) ∧ ((port s n).wd.txSwitch = none) ∧ (hdr = pack [(0, 18, modSub 18 ((port s n).rp.txCsn.toNat + pos) (port s n).rp.window.length), (18, 6, nc), (24, 6, cs.length), (30, 1, 0), (31, 1, b2n (port s n).kpTx)]) ∧ (enc = encodeGroup (port s n).scrTx.toNat hdr (ws ++ List.replicate (4 * nc - ws.length) (mkLw 0 [])) (cs.map (fun c => c.1))) ∧ (u = emit (.group n hdr (ws ++ List.replicate (4 * nc - ws.length) (mkLw 0 [])) (cs.map (fun c => c.1)) enc.1) (eccWrite (fun e => e.1 == eccReplay n && decide (modSub 18 e.2 (port s n).rp.txCsn.toNat < fr)) (updPort n (fun p => { p with cr := { p.cr with due := 0, sentAt := if p.cr.sentAt + 900 ≤ s.time.now then s.time.now else p.cr.sentAt }, rp := { p.rp with words := p.rp.words.drop (160 - (groupWords s n).length), gossip := [], window := wi, txq := tq, resend := if wi.length ≤ pos + cs.length then none else p.rp.resend.map (fun _ => pos + cs.length), txCsn := p.rp.txCsn + BitVec.ofNat 18 fr, ackDue := false, nakDue := false, ackGroups := if p.rp.ackDue then 0 else p.rp.ackGroups }, scrTx := BitVec.ofNat 58 enc.2 }) s))) ∧ ((port s n).rp.txq ≠ []) ∧ (tq = []) ∧ quiet s (endTx n u) = true := by decide +kernel

set_option maxRecDepth 100000 in
theorem wit_LanesAndGroups_28 :
    let n : Nat := 3; let s : State := { sOn with  net.ports := [(3, { st := .up, rp := { window := [(5, false), (6, true)], txCsn := 2, heard := true, resend := some 1, ackDue := true }, width := 2, mask := 0xF, tr := { coef := true, lanes := 0xF, locked := true, identOk := true } })] }; let ws : List LinkWord := groupWords s n ++ ((port s n).rp.words.take (160 - (groupWords s n).length)).filterMap (stampWord (stamp s)); let nc : Nat := (ws.length + 3) / 4; let pos : Nat := (port s n).rp.resend.getD (port s n).rp.window.length; let cs : List (Cell64 × Bool) := ((port s n).rp.window.drop pos ++ (port s n).rp.txq.take (txAvail s n)).take (40 - nc); let fr : Nat := pos + cs.length - (port s n).rp.window.length; let wi : List (Cell64 × Bool) := (port s n).rp.window ++ (port s n).rp.txq.take fr; let tq : List (Cell64 × Bool) := (port s n).rp.txq.drop fr; let hdr : Word := pack [(0, 18, modSub 18 ((port s n).rp.txCsn.toNat + pos) (port s n).rp.window.length), (18, 6, nc), (24, 6, cs.length), (30, 1, 0), (31, 1, b2n (port s n).kpTx)]; let enc : List Nat × Nat := encodeGroup (port s n).scrTx.toNat hdr (ws ++ List.replicate (4 * nc - ws.length) (mkLw 0 [])) (cs.map (fun c => c.1)); let u : State := emit (.group n hdr (ws ++ List.replicate (4 * nc - ws.length) (mkLw 0 [])) (cs.map (fun c => c.1)) enc.1) (eccWrite (fun e => e.1 == eccReplay n && decide (modSub 18 e.2 (port s n).rp.txCsn.toNat < fr)) (updPort n (fun p => { p with cr := { p.cr with due := 0, sentAt := if p.cr.sentAt + 900 ≤ s.time.now then s.time.now else p.cr.sentAt }, rp := { p.rp with words := p.rp.words.drop (160 - (groupWords s n).length), gossip := [], window := wi, txq := tq, resend := if wi.length ≤ pos + cs.length then none else p.rp.resend.map (fun _ => pos + cs.length), txCsn := p.rp.txCsn + BitVec.ofNat 18 fr, ackDue := false, nakDue := false, ackGroups := if p.rp.ackDue then 0 else p.rp.ackGroups }, scrTx := BitVec.ofNat 58 enc.2 }) s))
    ((port s n).st = .up) ∧ ((port s n).tr.locked = true) ∧ ((port s n).rp.heard = true ∨ (port s n).rp.window = []) ∧ (spillOn s n = false) ∧ ((outp s n).busy.all (fun h => clsOf h.pkt != 2) = true) ∧ (((port s n).rp.words.take (160 - (groupWords s n).length)).all (fun w => lwF w 0 8 != 0x11 && lwF w 0 8 != 0x14 && lwF w 0 8 != 0x20) = true) ∧ (ws = groupWords s n ++ ((port s n).rp.words.take (160 - (groupWords s n).length)).filterMap (stampWord (stamp s))) ∧ (nc = (ws.length + 3) / 4) ∧ (pos = (port s n).rp.resend.getD (port s n).rp.window.length) ∧ (soundCells s n (modSub 18 ((port s n).rp.txCsn.toNat + pos) (port s n).rp.window.length) ((port s n).rp.window.drop pos).length = ((port s n).rp.window.drop pos).length) ∧ (cs = ((port s n).rp.window.drop pos ++ (port s n).rp.txq.take (txAvail s n)).take (40 - nc)) ∧ (fr = pos + cs.length - (port s n).rp.window.length) ∧ (wi = (port s n).rp.window ++ (port s n).rp.txq.take fr) ∧ (tq = (port s n).rp.txq.drop fr) ∧ ((port s n).wd.txSwitch = none) ∧ (hdr = pack [(0, 18, modSub 18 ((port s n).rp.txCsn.toNat + pos) (port s n).rp.window.length), (18, 6, nc), (24, 6, cs.length), (30, 1, 0), (31, 1, b2n (port s n).kpTx)]) ∧ (enc = encodeGroup (port s n).scrTx.toNat hdr (ws ++ List.replicate (4 * nc - ws.length) (mkLw 0 [])) (cs.map (fun c => c.1))) ∧ (u = emit (.group n hdr (ws ++ List.replicate (4 * nc - ws.length) (mkLw 0 [])) (cs.map (fun c => c.1)) enc.1) (eccWrite (fun e => e.1 == eccReplay n && decide (modSub 18 e.2 (port s n).rp.txCsn.toNat < fr)) (updPort n (fun p => { p with cr := { p.cr with due := 0, sentAt := if p.cr.sentAt + 900 ≤ s.time.now then s.time.now else p.cr.sentAt }, rp := { p.rp with words := p.rp.words.drop (160 - (groupWords s n).length), gossip := [], window := wi, txq := tq, resend := if wi.length ≤ pos + cs.length then none else p.rp.resend.map (fun _ => pos + cs.length), txCsn := p.rp.txCsn + BitVec.ofNat 18 fr, ackDue := false, nakDue := false, ackGroups := if p.rp.ackDue then 0 else p.rp.ackGroups }, scrTx := BitVec.ofNat 58 enc.2 }) s))) ∧ ((port s n).rp.txq = []) ∧ quiet s (u) = true := by decide +kernel

set_option maxRecDepth 100000 in
theorem wit_LanesAndGroups_29 :
    let n : Nat := 3; let l : LinkWord := mkLw 0x20 [(8, 8, 7)]; let s : State := { sOn with  net.ports := [(3, { st := .up, rp := { words := [mkLw 0x20 [(8, 8, 7)]] }, width := 2, mask := 0xF, tr := { coef := true, lanes := 0xF, locked := true, identOk := true } })] }; let ws : List LinkWord := groupWords s n ++ ((port s n).rp.words.take (160 - (groupWords s n).length)).filterMap (stampWord (stamp s)); let nc : Nat := (ws.length + 3) / 4; let pos : Nat := (port s n).rp.resend.getD (port s n).rp.window.length; let cs : List (Cell64 × Bool) := ((port s n).rp.window.drop pos ++ (port s n).rp.txq.take (txAvail s n)).take (40 - nc); let fr : Nat := pos + cs.length - (port s n).rp.window.length; let wi : List (Cell64 × Bool) := (port s n).rp.window ++ (port s n).rp.txq.take fr; let tq : List (Cell64 × Bool) := (port s n).rp.txq.drop fr; let hdr : Word := pack [(0, 18, modSub 18 ((port s n).rp.txCsn.toNat + pos) (port s n).rp.window.length), (18, 6, nc), (24, 6, cs.length), (30, 1, 0), (31, 1, b2n (port s n).kpTx)]; let enc : List Nat × Nat := encodeGroup (port s n).scrTx.toNat hdr (ws ++ List.replicate (4 * nc - ws.length) (mkLw 0 [])) (cs.map (fun c => c.1)); let u : State := emit (.group n hdr (ws ++ List.replicate (4 * nc - ws.length) (mkLw 0 [])) (cs.map (fun c => c.1)) enc.1) (eccWrite (fun e => e.1 == eccReplay n && decide (modSub 18 e.2 (port s n).rp.txCsn.toNat < fr)) (updPort n (fun p => { p with cr := { p.cr with due := 0, sentAt := if p.cr.sentAt + 900 ≤ s.time.now then s.time.now else p.cr.sentAt }, rp := { p.rp with words := p.rp.words.drop (160 - (groupWords s n).length), gossip := [], window := wi, txq := tq, resend := if wi.length ≤ pos + cs.length then none else p.rp.resend.map (fun _ => pos + cs.length), txCsn := p.rp.txCsn + BitVec.ofNat 18 fr, ackDue := false, nakDue := false, ackGroups := if p.rp.ackDue then 0 else p.rp.ackGroups }, tm := { p.tm with out := Maps.insert (lwF l 8 8) (BitVec.ofNat 80 (stamp s)) p.tm.out }, scrTx := BitVec.ofNat 58 enc.2 }) s))
    ((port s n).st = .up) ∧ ((port s n).tr.locked = true) ∧ ((port s n).rp.heard = true ∨ (port s n).rp.window = []) ∧ (spillOn s n = false) ∧ ((outp s n).busy.all (fun h => clsOf h.pkt != 2) = true) ∧ ((port s n).rp.words.take (160 - (groupWords s n).length) = [l]) ∧ (lwF l 0 8 = 0x20) ∧ (ws = groupWords s n ++ ((port s n).rp.words.take (160 - (groupWords s n).length)).filterMap (stampWord (stamp s))) ∧ (nc = (ws.length + 3) / 4) ∧ (pos = (port s n).rp.resend.getD (port s n).rp.window.length) ∧ (soundCells s n (modSub 18 ((port s n).rp.txCsn.toNat + pos) (port s n).rp.window.length) ((port s n).rp.window.drop pos).length = ((port s n).rp.window.drop pos).length) ∧ (cs = ((port s n).rp.window.drop pos ++ (port s n).rp.txq.take (txAvail s n)).take (40 - nc)) ∧ (fr = pos + cs.length - (port s n).rp.window.length) ∧ (wi = (port s n).rp.window ++ (port s n).rp.txq.take fr) ∧ (tq = (port s n).rp.txq.drop fr) ∧ ((port s n).wd.txSwitch = none) ∧ (hdr = pack [(0, 18, modSub 18 ((port s n).rp.txCsn.toNat + pos) (port s n).rp.window.length), (18, 6, nc), (24, 6, cs.length), (30, 1, 0), (31, 1, b2n (port s n).kpTx)]) ∧ (enc = encodeGroup (port s n).scrTx.toNat hdr (ws ++ List.replicate (4 * nc - ws.length) (mkLw 0 [])) (cs.map (fun c => c.1))) ∧ (u = emit (.group n hdr (ws ++ List.replicate (4 * nc - ws.length) (mkLw 0 [])) (cs.map (fun c => c.1)) enc.1) (eccWrite (fun e => e.1 == eccReplay n && decide (modSub 18 e.2 (port s n).rp.txCsn.toNat < fr)) (updPort n (fun p => { p with cr := { p.cr with due := 0, sentAt := if p.cr.sentAt + 900 ≤ s.time.now then s.time.now else p.cr.sentAt }, rp := { p.rp with words := p.rp.words.drop (160 - (groupWords s n).length), gossip := [], window := wi, txq := tq, resend := if wi.length ≤ pos + cs.length then none else p.rp.resend.map (fun _ => pos + cs.length), txCsn := p.rp.txCsn + BitVec.ofNat 18 fr, ackDue := false, nakDue := false, ackGroups := if p.rp.ackDue then 0 else p.rp.ackGroups }, tm := { p.tm with out := Maps.insert (lwF l 8 8) (BitVec.ofNat 80 (stamp s)) p.tm.out }, scrTx := BitVec.ofNat 58 enc.2 }) s))) ∧ ((port s n).rp.txq = []) ∧ quiet s (u) = true := by decide +kernel

set_option maxRecDepth 100000 in
theorem wit_LanesAndGroups_30 :
    let n : Nat := 3; let l : LinkWord := mkLw 0x14 [(8, 8, 7)]; let s : State := { sOn with time.now := 5,  net.ports := [(3, { st := .up, rp := { words := [mkLw 0x14 [(8, 8, 7)]] }, width := 2, mask := 0xF, tr := { coef := true, lanes := 0xF, locked := true, identOk := true } })] }; let ws : List LinkWord := groupWords s n ++ ((port s n).rp.words.take (160 - (groupWords s n).length)).filterMap (stampWord (stamp s)); let nc : Nat := (ws.length + 3) / 4; let pos : Nat := (port s n).rp.resend.getD (port s n).rp.window.length; let cs : List (Cell64 × Bool) := ((port s n).rp.window.drop pos ++ (port s n).rp.txq.take (txAvail s n)).take (40 - nc); let fr : Nat := pos + cs.length - (port s n).rp.window.length; let wi : List (Cell64 × Bool) := (port s n).rp.window ++ (port s n).rp.txq.take fr; let tq : List (Cell64 × Bool) := (port s n).rp.txq.drop fr; let hdr : Word := pack [(0, 18, modSub 18 ((port s n).rp.txCsn.toNat + pos) (port s n).rp.window.length), (18, 6, nc), (24, 6, cs.length), (30, 1, 0), (31, 1, b2n (port s n).kpTx)]; let enc : List Nat × Nat := encodeGroup (port s n).scrTx.toNat hdr (ws ++ List.replicate (4 * nc - ws.length) (mkLw 0 [])) (cs.map (fun c => c.1)); let u : State := emit (.group n hdr (ws ++ List.replicate (4 * nc - ws.length) (mkLw 0 [])) (cs.map (fun c => c.1)) enc.1) (eccWrite (fun e => e.1 == eccReplay n && decide (modSub 18 e.2 (port s n).rp.txCsn.toNat < fr)) (updPort n (fun p => { p with cr := { p.cr with due := 0, sentAt := if p.cr.sentAt + 900 ≤ s.time.now then s.time.now else p.cr.sentAt }, rp := { p.rp with words := p.rp.words.drop (160 - (groupWords s n).length), gossip := [], window := wi, txq := tq, resend := if wi.length ≤ pos + cs.length then none else p.rp.resend.map (fun _ => pos + cs.length), txCsn := p.rp.txCsn + BitVec.ofNat 18 fr, ackDue := false, nakDue := false, ackGroups := if p.rp.ackDue then 0 else p.rp.ackGroups }, scrTx := BitVec.ofNat 58 enc.2 }) s))
    ((port s n).st = .up) ∧ ((port s n).tr.locked = true) ∧ ((port s n).rp.heard = true ∨ (port s n).rp.window = []) ∧ (spillOn s n = false) ∧ ((outp s n).busy.all (fun h => clsOf h.pkt != 2) = true) ∧ ((port s n).rp.words.take (160 - (groupWords s n).length) = [l]) ∧ (lwF l 0 8 = 0x14) ∧ (groupWords s n = []) ∧ (ws = groupWords s n ++ ((port s n).rp.words.take (160 - (groupWords s n).length)).filterMap (stampWord (stamp s))) ∧ (nc = (ws.length + 3) / 4) ∧ (pos = (port s n).rp.resend.getD (port s n).rp.window.length) ∧ (soundCells s n (modSub 18 ((port s n).rp.txCsn.toNat + pos) (port s n).rp.window.length) ((port s n).rp.window.drop pos).length = ((port s n).rp.window.drop pos).length) ∧ (cs = ((port s n).rp.window.drop pos ++ (port s n).rp.txq.take (txAvail s n)).take (40 - nc)) ∧ (fr = pos + cs.length - (port s n).rp.window.length) ∧ (wi = (port s n).rp.window ++ (port s n).rp.txq.take fr) ∧ (tq = (port s n).rp.txq.drop fr) ∧ ((port s n).wd.txSwitch = none) ∧ (hdr = pack [(0, 18, modSub 18 ((port s n).rp.txCsn.toNat + pos) (port s n).rp.window.length), (18, 6, nc), (24, 6, cs.length), (30, 1, 0), (31, 1, b2n (port s n).kpTx)]) ∧ (enc = encodeGroup (port s n).scrTx.toNat hdr (ws ++ List.replicate (4 * nc - ws.length) (mkLw 0 [])) (cs.map (fun c => c.1))) ∧ (u = emit (.group n hdr (ws ++ List.replicate (4 * nc - ws.length) (mkLw 0 [])) (cs.map (fun c => c.1)) enc.1) (eccWrite (fun e => e.1 == eccReplay n && decide (modSub 18 e.2 (port s n).rp.txCsn.toNat < fr)) (updPort n (fun p => { p with cr := { p.cr with due := 0, sentAt := if p.cr.sentAt + 900 ≤ s.time.now then s.time.now else p.cr.sentAt }, rp := { p.rp with words := p.rp.words.drop (160 - (groupWords s n).length), gossip := [], window := wi, txq := tq, resend := if wi.length ≤ pos + cs.length then none else p.rp.resend.map (fun _ => pos + cs.length), txCsn := p.rp.txCsn + BitVec.ofNat 18 fr, ackDue := false, nakDue := false, ackGroups := if p.rp.ackDue then 0 else p.rp.ackGroups }, scrTx := BitVec.ofNat 58 enc.2 }) s))) ∧ ((port s n).rp.txq = []) ∧ quiet s (linkFailure n (some (lwF l 16 1 == 1)) u) = true := by decide +kernel

set_option maxRecDepth 100000 in
theorem wit_LanesAndGroups_31 :
    let n : Nat := 3; let x : BitVec 2 := 1; let m : BitVec 4 := 3; let at_ : Nat := 0; let s : State := { sOn with  net.ports := [(3, { st := .up, wd := { txSwitch := some (1, 3, some 0) }, rp := { window := [(5, true)], txCsn := 1, heard := true }, width := 2, mask := 0xF, tr := { coef := true, lanes := 0xF, locked := true, identOk := true } })] }; let ws : List LinkWord := groupWords s n ++ ((port s n).rp.words.take (160 - (groupWords s n).length)).filterMap (stampWord (stamp s)); let nc : Nat := (ws.length + 3) / 4; let pos : Nat := (port s n).rp.resend.getD (port s n).rp.window.length; let cs : List (Cell64 × Bool) := ((port s n).rp.window.drop pos ++ (port s n).rp.txq.take (txAvail s n)).take (40 - nc); let fr : Nat := pos + cs.length - (port s n).rp.window.length; let wi : List (Cell64 × Bool) := (port s n).rp.window ++ (port s n).rp.txq.take fr; let tq : List (Cell64 × Bool) := (port s n).rp.txq.drop fr; let hdr : Word := pack [(0, 18, modSub 18 ((port s n).rp.txCsn.toNat + pos) (port s n).rp.window.length), (18, 6, nc), (24, 6, cs.length), (30, 1, 1), (31, 1, b2n (port s n).kpTx)]; let enc : List Nat × Nat := encodeGroup (port s n).scrTx.toNat hdr (ws ++ List.replicate (4 * nc - ws.length) (mkLw 0 [])) (cs.map (fun c => c.1)); let u : State := emit (.group n hdr (ws ++ List.replicate (4 * nc - ws.length) (mkLw 0 [])) (cs.map (fun c => c.1)) enc.1) (eccWrite (fun e => e.1 == eccReplay n && decide (modSub 18 e.2 (port s n).rp.txCsn.toNat < fr)) (updPort n (fun p => { p with cr := { p.cr with due := 0, sentAt := if p.cr.sentAt + 900 ≤ s.time.now then s.time.now else p.cr.sentAt }, rp := { p.rp with words := p.rp.words.drop (160 - (groupWords s n).length), gossip := [], window := wi, txq := tq, resend := if wi.length ≤ pos + cs.length then none else p.rp.resend.map (fun _ => pos + cs.length), txCsn := p.rp.txCsn + BitVec.ofNat 18 fr, ackDue := false, nakDue := false, ackGroups := if p.rp.ackDue then 0 else p.rp.ackGroups }, wd := { p.wd with widthNext := true }, scrTx := BitVec.ofNat 58 enc.2 }) s))
    ((port s n).st = .up) ∧ ((port s n).tr.locked = true) ∧ ((port s n).rp.heard = true ∨ (port s n).rp.window = []) ∧ (spillOn s n = false) ∧ ((outp s n).busy.all (fun h => clsOf h.pkt != 2) = true) ∧ (((port s n).rp.words.take (160 - (groupWords s n).length)).all (fun w => lwF w 0 8 != 0x11 && lwF w 0 8 != 0x14 && lwF w 0 8 != 0x20) = true) ∧ (ws = groupWords s n ++ ((port s n).rp.words.take (160 - (groupWords s n).length)).filterMap (stampWord (stamp s))) ∧ (nc = (ws.length + 3) / 4) ∧ (pos = (port s n).rp.resend.getD (port s n).rp.window.length) ∧ (soundCells s n (modSub 18 ((port s n).rp.txCsn.toNat + pos) (port s n).rp.window.length) ((port s n).rp.window.drop pos).length = ((port s n).rp.window.drop pos).length) ∧ (cs = ((port s n).rp.window.drop pos ++ (port s n).rp.txq.take (txAvail s n)).take (40 - nc)) ∧ (fr = pos + cs.length - (port s n).rp.window.length) ∧ (wi = (port s n).rp.window ++ (port s n).rp.txq.take fr) ∧ (tq = (port s n).rp.txq.drop fr) ∧ ((port s n).wd.txSwitch = some (x, m, some at_)) ∧ (at_ ≤ s.time.now) ∧ (hdr = pack [(0, 18, modSub 18 ((port s n).rp.txCsn.toNat + pos) (port s n).rp.window.length), (18, 6, nc), (24, 6, cs.length), (30, 1, 1), (31, 1, b2n (port s n).kpTx)]) ∧ (enc = encodeGroup (port s n).scrTx.toNat hdr (ws ++ List.replicate (4 * nc - ws.length) (mkLw 0 [])) (cs.map (fun c => c.1))) ∧ (u = emit (.group n hdr (ws ++ List.replicate (4 * nc - ws.length) (mkLw 0 [])) (cs.map (fun c => c.1)) enc.1) (eccWrite (fun e => e.1 == eccReplay n && decide (modSub 18 e.2 (port s n).rp.txCsn.toNat < fr)) (updPort n (fun p => { p with cr := { p.cr with due := 0, sentAt := if p.cr.sentAt + 900 ≤ s.time.now then s.time.now else p.cr.sentAt }, rp := { p.rp with words := p.rp.words.drop (160 - (groupWords s n).length), gossip := [], window := wi, txq := tq, resend := if wi.length ≤ pos + cs.length then none else p.rp.resend.map (fun _ => pos + cs.length), txCsn := p.rp.txCsn + BitVec.ofNat 18 fr, ackDue := false, nakDue := false, ackGroups := if p.rp.ackDue then 0 else p.rp.ackGroups }, wd := { p.wd with widthNext := true }, scrTx := BitVec.ofNat 58 enc.2 }) s))) ∧ ((port s n).rp.txq = []) ∧ ((outp s n).busy = none) ∧ (pos + cs.length = wi.length) ∧ (wi.getLast?.all (fun c => c.2) = true) ∧ quiet s (u) = true := by decide +kernel

set_option maxRecDepth 100000 in
theorem wit_LanesAndGroups_32 :
    let n : Nat := 3; let fr : Nat := 0; let s : State := { sOn with ev.ecc := [(eccReplay 3, 1)],  net.ports := [(3, { st := .up, rp := { window := [(5, false), (6, true)], txCsn := 2, heard := true, resend := some 0 }, width := 2, mask := 0xF, tr := { coef := true, lanes := 0xF, locked := true, identOk := true } })] }; let ws : List LinkWord := groupWords s n ++ ((port s n).rp.words.take (160 - (groupWords s n).length)).filterMap (stampWord (stamp s)); let nc : Nat := (ws.length + 3) / 4; let pos : Nat := (port s n).rp.resend.getD (port s n).rp.window.length; let cs : List (Cell64 × Bool) := ((port s n).rp.window.drop pos).take (soundCells s n (modSub 18 ((port s n).rp.txCsn.toNat + pos) (port s n).rp.window.length) ((port s n).rp.window.drop pos).length); let wi : List (Cell64 × Bool) := (port s n).rp.window; let tq : List (Cell64 × Bool) := (port s n).rp.txq; let hdr : Word := pack [(0, 18, modSub 18 ((port s n).rp.txCsn.toNat + pos) (port s n).rp.window.length), (18, 6, nc), (24, 6, cs.length), (30, 1, 0), (31, 1, b2n (port s n).kpTx)]; let enc : List Nat × Nat := encodeGroup (port s n).scrTx.toNat hdr (ws ++ List.replicate (4 * nc - ws.length) (mkLw 0 [])) (cs.map (fun c => c.1)); let u : State := emit (.group n hdr (ws ++ List.replicate (4 * nc - ws.length) (mkLw 0 [])) (cs.map (fun c => c.1)) enc.1) (raise 156 1 (eccWrite (fun e => e.1 == eccReplay n && decide (modSub 18 e.2 (port s n).rp.txCsn.toNat < fr)) (updPort n (fun p => { p with cr := { p.cr with due := 0, sentAt := if p.cr.sentAt + 900 ≤ s.time.now then s.time.now else p.cr.sentAt }, rp := { p.rp with words := p.rp.words.drop (160 - (groupWords s n).length), gossip := [], window := wi, txq := tq, resend := if wi.length ≤ pos + cs.length then none else p.rp.resend.map (fun _ => pos + cs.length), txCsn := p.rp.txCsn + BitVec.ofNat 18 fr, ackDue := false, nakDue := false, ackGroups := if p.rp.ackDue then 0 else p.rp.ackGroups }, scrTx := BitVec.ofNat 58 enc.2 }) s)))
    ((port s n).st = .up) ∧ ((port s n).tr.locked = true) ∧ ((port s n).rp.heard = true ∨ (port s n).rp.window = []) ∧ (spillOn s n = false) ∧ ((outp s n).busy.all (fun h => clsOf h.pkt != 2) = true) ∧ (((port s n).rp.words.take (160 - (groupWords s n).length)).all (fun w => lwF w 0 8 != 0x11 && lwF w 0 8 != 0x14 && lwF w 0 8 != 0x20) = true) ∧ (ws = groupWords s n ++ ((port s n).rp.words.take (160 - (groupWords s n).length)).filterMap (stampWord (stamp s))) ∧ (nc = (ws.length + 3) / 4) ∧ (pos = (port s n).rp.resend.getD (port s n).rp.window.length) ∧ (soundCells s n (modSub 18 ((port s n).rp.txCsn.toNat + pos) (port s n).rp.window.length) ((port s n).rp.window.drop pos).length < ((port s n).rp.window.drop pos).length) ∧ (cs = ((port s n).rp.window.drop pos).take (soundCells s n (modSub 18 ((port s n).rp.txCsn.toNat + pos) (port s n).rp.window.length) ((port s n).rp.window.drop pos).length)) ∧ (cs.length < 40 - nc) ∧ (fr = 0) ∧ (wi = (port s n).rp.window) ∧ (tq = (port s n).rp.txq) ∧ ((port s n).wd.txSwitch = none) ∧ (hdr = pack [(0, 18, modSub 18 ((port s n).rp.txCsn.toNat + pos) (port s n).rp.window.length), (18, 6, nc), (24, 6, cs.length), (30, 1, 0), (31, 1, b2n (port s n).kpTx)]) ∧ (enc = encodeGroup (port s n).scrTx.toNat hdr (ws ++ List.replicate (4 * nc - ws.length) (mkLw 0 [])) (cs.map (fun c => c.1))) ∧ (u = emit (.group n hdr (ws ++ List.replicate (4 * nc - ws.length) (mkLw 0 [])) (cs.map (fun c => c.1)) enc.1) (raise 156 1 (eccWrite (fun e => e.1 == eccReplay n && decide (modSub 18 e.2 (port s n).rp.txCsn.toNat < fr)) (updPort n (fun p => { p with cr := { p.cr with due := 0, sentAt := if p.cr.sentAt + 900 ≤ s.time.now then s.time.now else p.cr.sentAt }, rp := { p.rp with words := p.rp.words.drop (160 - (groupWords s n).length), gossip := [], window := wi, txq := tq, resend := if wi.length ≤ pos + cs.length then none else p.rp.resend.map (fun _ => pos + cs.length), txCsn := p.rp.txCsn + BitVec.ofNat 18 fr, ackDue := false, nakDue := false, ackGroups := if p.rp.ackDue then 0 else p.rp.ackGroups }, scrTx := BitVec.ofNat 58 enc.2 }) s)))) ∧ ((port s n).rp.txq = []) ∧ quiet s (u) = true := by decide +kernel

theorem wit_GraftAndPrune_1 :
    let r : GcpReq := rqS 0x0D00 [1, 8, 0, 0, 0]; let s : State := sOn
    (taken .writes true r s = true) ∧ ((wAt r.words 2).toNat % 4 = 0) ∧ ((wAt r.words 2).toNat ≤ 256) ∧ (quarRefusal s (gfPorts r) (dataOf r 10) = none) ∧ quiet s (quarDone ((portsIn (gfPorts r)).foldl (fun s n => enterTraining n (updGr n (fun g => { g with quar := true }) s)) (hold r (updGraft (fun g => { g with quarCmd := some { req := r, ports := gfPorts r, peers := dataOf r 10 } }) ((List.range 64).foldl (fun s n => if (port s n).gr.mism then updGr n (fun g => { g with mism := false }) s else s) s))))) = true := by decide +kernel

theorem wit_GraftAndPrune_2 :
    let r : GcpReq := rqS 0x0D00 [2, 8, 0, 0, 0]; let s : State := { sOn with net.ports := [(3, { st := .up, gr := { quar := true } })] }
    (taken .none true r s = true) ∧ ((portsIn (gfPorts r)).any (fun n => !(port s n).gr.quar) = false) ∧ (gfT r = 0) ∧ quiet s (ok r [] (admitPorts (gfPorts r) s)) = true := by decide

theorem wit_GraftAndPrune_3 :
    let r : GcpReq := rqS 0x0D00 [2, 8, 0, 1000, 0]; let s : State := { sOn with net.ports := [(3, { st := .up, gr := { quar := true } })] }
    (taken .none true r s = true) ∧ ((portsIn (gfPorts r)).any (fun n => !(port s n).gr.quar) = false) ∧ (s.time.now < gfT r) ∧ (gfT r ≤ s.time.now + 2 ^ 34) ∧ (s.net.graft.admission = none) ∧ quiet s (ok r [] (updGraft (fun g => { g with admission := some (gfPorts r, gfT r) }) s)) = true := by decide

theorem wit_GraftAndPrune_4 :
    let r : GcpReq := rqS 0x0D00 [2, 8, 0, 1000, 0]; let s : State := { sOn with net.ports := [(3, { st := .up, gr := { quar := true } })], net.graft := { admission := some (16, 1000) } }
    (taken .none true r s = true) ∧ ((portsIn (gfPorts r)).any (fun n => !(port s n).gr.quar) = false) ∧ (s.time.now < gfT r) ∧ (gfT r ≤ s.time.now + 2 ^ 34) ∧ (s.net.graft.admission.map (·.2) = some (gfT r)) ∧ quiet s (ok r [] (updGraft (fun g => { g with admission := g.admission.map (fun a => (a.1 ||| gfPorts r, a.2)) }) s)) = true := by decide

theorem wit_GraftAndPrune_5 :
    let r : GcpReq := rqS 0x0D00 [3, 8, 0, 0, 0]; let s : State := { sOn with net.ports := [(3, { st := .up, gr := { quar := true } })] }
    (taken .none true r s = true) ∧ quiet s (ok r [] ((portsIn (gfPorts r)).foldl (fun s n => if (port s n).gr.quar then updGr n (fun g => { g with quar := false }) (disablePort n s) else s) (updGraft (fun g => { g with admission := none }) s))) = true := by decide

theorem wit_GraftAndPrune_6 :
    let ports : BitVec 64 := 8; let T : Nat := 0; let s : State := { sOn with net.ports := [(3, { st := .up, gr := { quar := true } })], net.graft := { admission := some (8, 0) } }
    (s.stage.bank ≠ .pending) ∧ (s.net.graft.admission = some (ports, T)) ∧ (T ≤ s.time.now) ∧ quiet s (admitPorts ports { s with net.graft := { s.net.graft with admission := none } }) = true := by decide

theorem wit_GraftAndPrune_7 :
    let r : GcpReq := rqS 0x0D02 [1, 8, 0, 1000, 0]; let s : State := { sOn with net.ports := [(3, { st := .up, width := 2, mask := 0xF, tr := { coef := true, lanes := 0xF, locked := true, identOk := true } })] }
    (taken .none true r s = true) ∧ ((portsIn (gfPorts r)).any (fun n => (port s n).gr.quar) = false) ∧ (s.time.now < gfT r) ∧ (gfT r ≤ s.time.now + 2 ^ 34) ∧ quiet s (hold r (updGraft (fun g => { g with drain := some (gfPorts r, gfT r), drainCmd := some (r, gfPorts r) }) s)) = true := by decide

theorem wit_GraftAndPrune_8 :
    let r : GcpReq := rqS 0x0D02 [1, 8, 0, 0, 0]; let s : State := { sOn with net.ports := [(3, { st := .up, width := 2, mask := 0xF, tr := { coef := true, lanes := 0xF, locked := true, identOk := true } })] }
    (taken .none true r s = true) ∧ ((portsIn (gfPorts r)).any (fun n => (port s n).gr.quar) = false) ∧ (gfT r = 0) ∧ quiet s (drainIfDue (hold r (updGraft (fun g => { g with drain := some (gfPorts r, 0), drainCmd := some (r, gfPorts r) }) s))) = true := by decide

theorem wit_GraftAndPrune_9 :
    let ports : BitVec 64 := 8; let T : Nat := 0; let s : State := { sOn with net.ports := [(3, { st := .up })], net.graft := { drain := some (8, 0), drainCmd := some (rqS 0x0D02 [1, 8], 8) } }
    (s.net.graft.drain = some (ports, T)) ∧ (T ≤ s.time.now) ∧ quiet s (drainCheck ((portsIn ports).foldl (fun s n => updGr n (fun g => { g with draining := true }) s) (updGraft (fun g => { g with drain := none }) s))) = true := by decide

theorem wit_GraftAndPrune_10 :
    let n : Nat := 3; let s : State := { sOn with net.ports := [(3, { st := .up, gr := { draining := true } })] }
    ((port s n).gr.draining = true) ∧ ((port s n).gr.drained = false) ∧ (isDrained s n = true) ∧ quiet s (drainCheck (updGr n (fun g => { g with drained := true }) s)) = true := by decide

theorem wit_GraftAndPrune_11 :
    let q : GcpReq := rqS 0x0D02 [1, 8]; let ports : BitVec 64 := 8; let s : State := { sOn with net.graft := { drainCmd := some (rqS 0x0D02 [1, 8], 8) }, mgmt.cmds := [{ id := 0, req := rqS 0x0D02 [1, 8] }] }
    (s.net.graft.drainCmd = some (q, ports)) ∧ (s.net.graft.drain = none) ∧ quiet s (endCmds (fun r => r == q) stTimedOut 0 (((portsIn ports).find? (fun n => !(port s n).gr.drained)).getD 0) [] (updGraft (fun g => { g with drainCmd := none }) s)) = true := by decide

theorem wit_GraftAndPrune_12 :
    let r : GcpReq := rqS 0x0D02 [2, 8, 0, 1000, 0]; let s : State := { sOn with net.ports := [(3, { st := .up, gr := { draining := true, drained := true } })] }
    (taken .none true r s = true) ∧ ((portsIn (gfPorts r)).any (fun n => !(port s n).gr.drained) = false) ∧ (s.time.now < gfT r) ∧ (gfT r ≤ s.time.now + 2 ^ 34) ∧ quiet s (hold r (updGraft (fun g => { g with remove := some (gfPorts r, gfT r) }) s)) = true := by decide

theorem wit_GraftAndPrune_13 :
    let r : GcpReq := rqS 0x0D02 [2, 8, 0, 0, 0]; let s : State := { sOn with net.ports := [(3, { st := .up, gr := { draining := true, drained := true } })] }
    (taken .none true r s = true) ∧ ((portsIn (gfPorts r)).any (fun n => !(port s n).gr.drained) = false) ∧ (gfT r = 0) ∧ quiet s (removeIfDue (hold r (updGraft (fun g => { g with remove := some (gfPorts r, 0) }) s))) = true := by decide +kernel

theorem wit_GraftAndPrune_14 :
    let ports : BitVec 64 := 8; let T : Nat := 0; let s : State := { sOn with net.ports := [(3, { st := .up, gr := { draining := true, drained := true } })], net.graft := { remove := some (8, 0) } }
    (s.net.graft.remove = some (ports, T)) ∧ (T ≤ s.time.now) ∧ quiet s (endCmds isRemove stOk 0 0 [] ((portsIn ports).foldl (fun s n => updGr n (fun g => { g with draining := false, drained := false }) (disablePort n s)) (updGraft (fun g => { g with remove := none }) s))) = true := by decide

theorem wit_GraftAndPrune_15 :
    let r : GcpReq := rqS 0x0D02 [3, 8]; let s : State := { sOn with net.ports := [(3, { st := .up, gr := { draining := true } })] }
    (taken .none true r s = true) ∧ quiet s (ok r [] ((portsIn (gfPorts r)).foldl (fun s n => if (port s n).gr.draining ∨ (port s n).gr.drained then updGr n (fun g => { g with draining := false, drained := false }) s else s) (updGraft (fun g => { g with drain := s.net.graft.drain.map (fun x => (x.1 &&& ~~~gfPorts r, x.2)), remove := s.net.graft.remove.map (fun x => (x.1 &&& ~~~gfPorts r, x.2)) }) s))) = true := by decide

theorem wit_FencesAndEvents_1 :
    let r : GcpReq := rq 0x0800 [83]; let s : State := sOn
    (taken .none false r s = true) ∧ ((fromHost r).isSome = false) ∧ (unitOk (fAt r.words 5 0 7) = true) ∧ quietFence s (ok r [] { s with ev.own := s.ev.own ||| BitVec.ofNat 128 (2 ^ fAt r.words 5 0 7) }) = true := by decide +kernel

theorem wit_FencesAndEvents_2 :
    let r : GcpReq := rq 0x0800 [64]; let s : State := { sOn with ev.own := BitVec.ofNat 128 (2 ^ 80), ev.fenced := fencedSet { sOn with ev.own := BitVec.ofNat 128 (2 ^ 80) } }
    (taken .none false r s = true) ∧ ((fromHost r).isSome = false) ∧ (unitOk (fAt r.words 5 0 7) = true) ∧ quiet s (ok r [] { s with ev.own := s.ev.own ||| BitVec.ofNat 128 (2 ^ fAt r.words 5 0 7) }) = true := by decide +kernel

theorem wit_FencesAndEvents_3 :
    let r : GcpReq := rq 0x0801 [3]; let s : State := { sOn with ev.own := 8, ev.fenced := 8, net.ports := [(3, { st := .fenced })] }
    (taken .none false r s = true) ∧ ((fromHost r).isSome = false) ∧ (unitOk (fAt r.words 5 0 7) = true) ∧ (holdsFence s (fAt r.words 5 0 7) = false) ∧ quietFence s (ok r [] { s with ev.own := s.ev.own &&& ~~~BitVec.ofNat 128 (2 ^ fAt r.words 5 0 7) }) = true := by decide +kernel

theorem wit_FencesAndEvents_4 :
    let r : GcpReq := rq 0x0802 [2 ^ 31, 1]; let s : State := sRun
    (taken .none false r s = true) ∧ ((fromHost r).isSome = false) ∧ (bAt r.words 5 31 = true) ∧ quiet s (ok r [] { s with ev.latch := bAt r.words 6 0 }) = true := by decide

theorem wit_FencesAndEvents_5 :
    let r : GcpReq := rq 0x0802 [147 + 2 ^ 12]; let s : State := sRun
    (taken .none false r s = true) ∧ (bAt r.words 5 31 = false) ∧ (hostMay r (evSource r) = true) ∧ (reservedSrc (evSource r) = false) ∧ (cfgRefusal s (evSource r) r = none) ∧ quiet s (ok r [] (setRec (evSource r) (cfgRec r (evSource r) (recOf s (evSource r))) s)) = true := by decide

theorem wit_FencesAndEvents_6 :
    let r : GcpReq := rq 0x0803 [147]; let s : State := sRun
    (taken .none false r s = true) ∧ quiet s (ok r (recWords s (evSource r) ++ [if reservedSrc (evSource r) then 0 else causeRegister s (evSource r)]) s) = true := by decide

theorem wit_FencesAndEvents_7 :
    let r : GcpReq := rq 0x0804 [147, 1]; let s : State := { sRun with ev.cause := [(0x02100380, 1)] }
    (taken .none false r s = true) ∧ (hostMay r (evSource r) = true) ∧ (reservedSrc (evSource r) = false) ∧ (evSource r ≠ 336 ∨ (wAt r.words 6).toNat.testBit 0 = false ∨ coolEnough s = true) ∧ (bAt r.words 5 16 = false ∨ faultHeld (resumeAlive (clearCause (evSource r) (wAt r.words 6).toNat s)) = false) ∧ quiet s (ok r [] (resumeAlive (clearCause (evSource r) (wAt r.words 6).toNat s))) = true := by decide

theorem wit_FencesAndEvents_8 :
    let r : GcpReq := rq 0x0804 [147 + 2 ^ 16, 1]; let s : State := { sRun with ev.cause := [(0x02100380, 1)], ev.faultLow := true, time.now := 20000 }
    (taken .none false r s = true) ∧ (hostMay r (evSource r) = true) ∧ (reservedSrc (evSource r) = false) ∧ (evSource r ≠ 336 ∨ (wAt r.words 6).toNat.testBit 0 = false ∨ coolEnough s = true) ∧ (bAt r.words 5 16 = true) ∧ (faultHeld (resumeAlive (clearCause (evSource r) (wAt r.words 6).toNat s)) = true) ∧ quiet s (ok r [] { resumeAlive (clearCause (evSource r) (wAt r.words 6).toNat s) with ev.faultLow := false }) = true := by decide

theorem wit_TestModeAndWatchdogs_1 :
    let r : GcpReq := rqL 0x0E00 4 [1]; let s : State := sRun
    (taken .writes false r s = true) ∧ (s.pw.testMode = false) ∧ quiet s (fail r stNotPermitted s) = true := by decide

theorem wit_TestModeAndWatchdogs_2 :
    let r : GcpReq := rq 0x0E01 [147, 1]; let s : State := sRun
    (taken .none false r s = true) ∧ (s.pw.testMode = false ∨ s.ev.testOpen = false) ∧ quiet s (fail r stNotPermitted s) = true := by decide

theorem wit_TestModeAndWatchdogs_3 :
    let r : GcpReq := rqL 0x0E00 4 [1]; let s : State := { sRun with pw.testMode := true }
    (taken .writes false r s = true) ∧ (s.pw.testMode = true) ∧ (s.heart.unlockBlocked = false) ∧ quiet s ((if debugTokenOk s ((wBytes (dataOf r 5)).take (wAt r.words 2).toNat) then ok r [] (raise 313 1 { debugUnlock ((wBytes (dataOf r 5)).take (wAt r.words 2).toNat) s with ev.testOpen := true }) else authFail r (debugUnlock ((wBytes (dataOf r 5)).take (wAt r.words 2).toNat) s))) = true := by intro r s; refine ⟨by decide, by decide, by decide, ?_⟩; simp only [debugUnlock]; generalize debugTokenOk _ _ = b; cases b <;> decide +kernel

theorem wit_TestModeAndWatchdogs_4 :
    let r : GcpReq := rq 0x0E01 [128, 1]; let s : State := { sRun with pw.testMode := true, ev.testOpen := true }
    (taken .none false r s = true) ∧ (s.pw.testMode = true) ∧ (s.ev.testOpen = true) ∧ (reservedSrc (evSource r) = false) ∧ quiet s (ok r [] (raise 313 2 (injectCause (evSource r) (wAt r.words 6).toNat s))) = true := by decide

theorem wit_TestModeAndWatchdogs_5 :
    let s : State := sOn; let w : State := raise 312 1 { s with ev := { s.ev with wdogOk := false, alive := false, aliveHigh := aliveLevel s } }
    (s.mgmt.fw ≠ .boot) ∧ (w = raise 312 1 { s with ev := { s.ev with wdogOk := false, alive := false, aliveHigh := aliveLevel s } }) ∧ quiet s (emit .spiReset { w with mgmt := { w.mgmt with fw := .restarting, cmds := [], waitq := [], mseqs := [], maps := [], fwJob := .none }, stage := { w.stage with checking := none, bulkJob := none }, net.graft := { w.net.graft with quarCmd := none, drainCmd := none } }) = true := by decide

theorem wit_TestModeAndWatchdogs_6 :
    let s : State := State.reset
    (s.mgmt.fw = .boot) ∧ quiet s (s) = true := by decide

theorem wit_TestModeAndWatchdogs_7 :
    let s : State := sOn; let w : State := raise 312 2 { s with ev := { s.ev with hbOk := false, alive := false, aliveHigh := aliveLevel s } }
    (s.mgmt.fw = .running) ∧ (w = raise 312 2 { s with ev := { s.ev with hbOk := false, alive := false, aliveHigh := aliveLevel s } }) ∧ quiet s (emit .spiReset { w with mgmt := { w.mgmt with fw := .restarting, cmds := [], waitq := [], mseqs := [], maps := [], fwJob := .none }, stage := { w.stage with checking := none, bulkJob := none }, net.graft := { w.net.graft with quarCmd := none, drainCmd := none } }) = true := by decide

theorem wit_TestModeAndWatchdogs_8 :
    let s : State := State.reset
    (s.mgmt.fw ≠ .running) ∧ quiet s (s) = true := by decide

theorem wit_TestModeAndWatchdogs_9 :
    let s : State := { sOn with ev.faultLow := true, ev.faultAt := 0, time.now := 10000 }
    (s.ev.latch = false) ∧ (s.pw.stopped = true ∨ s.pw.tapLock = false ∨ s.ev.faultAt + 10000 ≤ s.time.now) ∧ quiet s ({ s with ev.faultLow := false }) = true := by decide

theorem wit_TestModeAndWatchdogs_10 :
    let s : State := { sOn with ev.faultLow := true, time.now := 9999 }
    (s.ev.latch = true ∨ (s.pw.stopped = false ∧ s.pw.tapLock = true ∧ s.time.now < s.ev.faultAt + 10000)) ∧ quiet s (s) = true := by decide

theorem wit_TestModeAndWatchdogs_11 :
    let q : BitVec 16 := 5; let w : List Word := [1]; let tl : List (BitVec 16 × List Word) := []; let s : State := { sOn with mgmt.repeats := [(5, [1])] }
    (s.mgmt.repeats = (q, w) :: tl) ∧ quiet s (emit (.inject 68 (mgtPkt s s.mgmt.eventEid 0x52 q w [])) { s with mgmt.repeats := tl }) = true := by decide

theorem wit_KeysAndZeroisation_1 :
    let r : GcpReq := rqS 0x0901 [3 + 1024, 0x55, 1, 2, 3, 4, 5, 6, 7, 8]; let s : State := sRun
    (taken .none false r s = true) ∧ (s.heart.deriveBlocked = false) ∧ (inSession r s = true) ∧ (bAt r.words 5 10 = false ∨ lkDir r ≠ 1) ∧ (lkDir r ≠ 0 ∨ (linkKey s (lkPort r) 0 (1 - lkSlot r)).valid = false ∨ (linkKey s (lkPort r) 0 (1 - lkSlot r)).key ≠ lkKey r ∨ (linkKey s (lkPort r) 0 (1 - lkSlot r)).salt ≠ wAt r.words 6) ∧ ((port s (lkPort r)).st ≠ .up ∨ lkSlot r ≠ b2n (if lkDir r = 0 then (port s (lkPort r)).kpTx else (port s (lkPort r)).kpRx)) ∧ ((port s (lkPort r)).keySwitch = none) ∧ quiet s (ok r [] (inc (hwdCtr 2) (if bAt r.words 5 10 then updPort (lkPort r) (fun p => { p with keySwitch := some (lkSlot r == 1) }) (setLinkKey (lkPort r) (lkDir r) (lkSlot r) { valid := true, key := lkKey r, salt := wAt r.words 6, ctr := 0 } s) else setLinkKey (lkPort r) (lkDir r) (lkSlot r) { valid := true, key := lkKey r, salt := wAt r.words 6, ctr := 0 } s))) = true := by decide

theorem wit_KeysAndZeroisation_2 :
    let r : GcpReq := rqS 0x0901 [3 + 256 + 1024, 0x55, 1, 2, 3, 4, 5, 6, 7, 8]; let s : State := sRun
    (taken .none false r s = true) ∧ (s.heart.deriveBlocked = false) ∧ (inSession r s = true) ∧ (bAt r.words 5 10 = true ∧ lkDir r = 1 ∨ lkDir r = 0 ∧ (linkKey s (lkPort r) 0 (1 - lkSlot r)).valid = true ∧ (linkKey s (lkPort r) 0 (1 - lkSlot r)).key = lkKey r ∧ (linkKey s (lkPort r) 0 (1 - lkSlot r)).salt = wAt r.words 6) ∧ quiet s (fail r stBadParam s) = true := by decide

theorem wit_KeysAndZeroisation_3 :
    let r : GcpReq := rqS 0x0901 [3, 0x55, 1, 2, 3, 4, 5, 6, 7, 8]; let s : State := { sOn with net.ports := [(3, { st := .up, width := 2, mask := 0xF, tr := { coef := true, lanes := 0xF, locked := true, identOk := true } })] }
    (taken .none false r s = true) ∧ (s.heart.deriveBlocked = false) ∧ (inSession r s = true) ∧ (bAt r.words 5 10 = false ∨ lkDir r ≠ 1) ∧ (lkDir r ≠ 0 ∨ (linkKey s (lkPort r) 0 (1 - lkSlot r)).valid = false ∨ (linkKey s (lkPort r) 0 (1 - lkSlot r)).key ≠ lkKey r ∨ (linkKey s (lkPort r) 0 (1 - lkSlot r)).salt ≠ wAt r.words 6) ∧ ((port s (lkPort r)).st = .up ∧ lkSlot r = b2n (if lkDir r = 0 then (port s (lkPort r)).kpTx else (port s (lkPort r)).kpRx) ∨ (port s (lkPort r)).keySwitch.isSome = true) ∧ quiet s (fail r stBusy s) = true := by decide

theorem wit_KeysAndZeroisation_4 :
    let r : GcpReq := rq 0x0901 [3]; let s : State := sRun
    (taken .none false r s = true) ∧ (s.heart.deriveBlocked = false) ∧ (inSession r s = false) ∧ quiet s (authFail r s) = true := by decide

theorem wit_KeysAndZeroisation_5 :
    let r : GcpReq := rq 0x0902 [3]; let s : State := sRun
    (taken .none false r s = true) ∧ (s.heart.deriveBlocked = false) ∧ (inSession r s = false) ∧ quiet s (authFail r s) = true := by decide

theorem wit_KeysAndZeroisation_6 :
    let r : GcpReq := rqS 0x0902 [3 + 2 ^ 8 + 2 ^ 10]; let s : State := sRun
    (taken .none false r s = true) ∧ (s.heart.deriveBlocked = false) ∧ (inSession r s = true) ∧ (bAt r.words 5 10 = true) ∧ (lkDir r = 1) ∧ quiet s (fail r stBadParam s) = true := by decide +kernel

theorem wit_KeysAndZeroisation_7 :
    let r : GcpReq := rqS 0x0902 [3]; let s : State := { sRun with heart.keys := [(12, { valid := true, key := 5 })] }
    (taken .none false r s = true) ∧ (s.heart.deriveBlocked = false) ∧ (inSession r s = true) ∧ (bAt r.words 5 10 = false ∨ lkDir r = 0) ∧ quiet s (ok r [] (setLinkKey (lkPort r) (lkDir r) (lkSlot r) {} (if lkDir r = 0 ∧ lkSlot r = b2n (port s (lkPort r)).kpTx ∧ gcmEn s (lkPort r) ∧ (outp s (lkPort r)).busy.isSome ∧ !(outp s (lkPort r)).hold then stompOut (lkPort r) s else s))) = true := by decide +kernel

theorem wit_KeysAndZeroisation_8 :
    let r : GcpReq := rqS 0x0901 [3]; let s : State := { sRun with heart.deriveBlocked := true }
    (taken .none false r s = true) ∧ (s.heart.deriveBlocked = true) ∧ quiet s (fail r stNotPermitted s) = true := by decide +kernel

theorem wit_KeysAndZeroisation_9 :
    let r : GcpReq := rqS 0x0902 [3]; let s : State := { sRun with heart.deriveBlocked := true }
    (taken .none false r s = true) ∧ (s.heart.deriveBlocked = true) ∧ quiet s (fail r stNotPermitted s) = true := by decide +kernel

theorem wit_KeysAndZeroisation_10 :
    let r : GcpReq := rqS 0x0903 [0x5555, 9, 1]; let s : State := sRun
    (taken .none true r s = true) ∧ ((List.range 8).any (fun k => decide (bitsN (fAt r.words 5 0 16) (2 * k) 2 < policyOf s k) && (s.heart.latch.getLsbD k || s.heart.policyLock)) = false) ∧ quiet s (ok r [] { s with heart := { s.heart with policy := BitVec.ofNat 16 (fAt r.words 5 0 16), thresh := BitVec.ofNat 8 (fAt r.words 6 0 8), latch := s.heart.latch &&& ~~~BitVec.ofNat 8 (fAt r.words 7 0 8), policyLock := s.heart.policyLock || bAt r.words 7 8 } }) = true := by decide +kernel

theorem wit_KeysAndZeroisation_11 :
    let k : Nat := 1; let s : State := sOn; let u : State := (fun w => if 1 ≤ policyOf s (k % 2) then { w with heart.latch := w.heart.latch ||| BitVec.ofNat 8 (2 ^ (k % 2)) } else w) ((fun w => { w with heart := { w.heart with lastAlarm := BitVec.ofNat 4 (k % 2), lastTime := s.time.now } }) (raise (320 + k % 2) 1 s))
    (u = (fun w => if 1 ≤ policyOf s (k % 2) then { w with heart.latch := w.heart.latch ||| BitVec.ofNat 8 (2 ^ (k % 2)) } else w) ((fun w => { w with heart := { w.heart with lastAlarm := BitVec.ofNat 4 (k % 2), lastTime := s.time.now } }) (raise (320 + k % 2) 1 s))) ∧ quiet s ((if policyOf s (k % 2) < 2 ∨ erasedNow (policyOf s (k % 2) == 3) u then u else { (if policyOf s (k % 2) = 3 then eraseAll u else eraseSession u) with heart.eraseAt := some s.time.now })) = true := by decide +kernel

theorem wit_KeysAndZeroisation_12 :
    let x : Supply := .e1; let s : State := sOn; let u : State := (fun w => if 1 ≤ policyOf s (2) then { w with heart.latch := w.heart.latch ||| BitVec.ofNat 8 (2 ^ (2)) } else w) ((fun w => { w with heart := { w.heart with lastAlarm := BitVec.ofNat 4 (2), lastTime := s.time.now } }) (raise (320 + 2) 1 s))
    (x = .core ∨ x = .aon ∨ (x = .e0 ∧ boleUsed s 0 = true) ∨ (x = .e1 ∧ boleUsed s 1 = true)) ∧ (u = (fun w => if 1 ≤ policyOf s (2) then { w with heart.latch := w.heart.latch ||| BitVec.ofNat 8 (2 ^ (2)) } else w) ((fun w => { w with heart := { w.heart with lastAlarm := BitVec.ofNat 4 (2), lastTime := s.time.now } }) (raise (320 + 2) 1 s))) ∧ quiet s ((if policyOf s (2) < 2 ∨ erasedNow (policyOf s (2) == 3) u then u else { (if policyOf s (2) = 3 then eraseAll u else eraseSession u) with heart.eraseAt := some s.time.now })) = true := by decide +kernel

theorem wit_KeysAndZeroisation_13 :
    let x : Supply := .e0; let s : State := sRun
    (x = .netSerdes ∨ x = .hbm ∨ (x = .e0 ∧ boleUsed s 0 = false) ∨ (x = .e1 ∧ boleUsed s 1 = false)) ∧ quiet s (s) = true := by decide +kernel

theorem wit_KeysAndZeroisation_14 :
    let s : State := sOn; let u : State := (fun w => if 1 ≤ policyOf s (3) then { w with heart.latch := w.heart.latch ||| BitVec.ofNat 8 (2 ^ (3)) } else w) ((fun w => { w with heart := { w.heart with lastAlarm := BitVec.ofNat 4 (3), lastTime := s.time.now } }) (raise (320 + 3) 1 s))
    (u = (fun w => if 1 ≤ policyOf s (3) then { w with heart.latch := w.heart.latch ||| BitVec.ofNat 8 (2 ^ (3)) } else w) ((fun w => { w with heart := { w.heart with lastAlarm := BitVec.ofNat 4 (3), lastTime := s.time.now } }) (raise (320 + 3) 1 s))) ∧ quiet s ((if policyOf s (3) < 2 ∨ erasedNow (policyOf s (3) == 3) u then u else { (if policyOf s (3) = 3 then eraseAll u else eraseSession u) with heart.eraseAt := some s.time.now })) = true := by decide +kernel

set_option maxRecDepth 100000 in
theorem wit_KeysAndZeroisation_15 :
    let r : GcpReq := rqS 0x0904 [0]; let s : State := sRun; let w : State := (if s.pw.stopped then s else (List.range 64).foldl (fun s n => if gcmEn s n ∧ (outp s n).busy.isSome ∧ (outp s n).hold = false then stompOut n s else s) s)
    (taken .none true r s = true) ∧ (bAt r.words 5 0 = false) ∧ (w = (if s.pw.stopped then s else (List.range 64).foldl (fun s n => if gcmEn s n ∧ (outp s n).busy.isSome ∧ (outp s n).hold = false then stompOut n s else s) s)) ∧ quiet s (hold r { w with heart := { w.heart with keys := [], sessions := 0, ide := Maps.mapVals {} (fun _ v => { st := if v.st = 1 then 2 else v.st }) w.heart.ide, erasing := some (s.heart.erasing == some true) } }) = true := by decide +kernel

set_option maxRecDepth 100000 in
theorem wit_KeysAndZeroisation_16 :
    let r : GcpReq := rqS 0x0904 [1]; let s : State := sRun; let w : State := (if s.pw.stopped then s else (List.range 64).foldl (fun s n => if gcmEn s n ∧ (outp s n).busy.isSome ∧ (outp s n).hold = false then stompOut n s else s) s)
    (taken .none true r s = true) ∧ (bAt r.words 5 0 = true) ∧ (w = (if s.pw.stopped then s else (List.range 64).foldl (fun s n => if gcmEn s n ∧ (outp s n).busy.isSome ∧ (outp s n).hold = false then stompOut n s else s) s)) ∧ quiet s (hold r { w with heart := { w.heart with keys := [], sessions := 0, ide := Maps.mapVals {} (fun _ v => { st := if v.st = 1 then 2 else v.st }) w.heart.ide, idKey := none, wrapKey := none, deriveBlocked := true, eraseCount := min 63 (s.heart.eraseCount + 1), erasing := some true } }) = true := by decide +kernel

theorem wit_KeysAndZeroisation_17 :
    let e : Bool := true; let s : State := { sOn with heart.erasing := some true, mgmt.cmds := [{ id := 0, req := rqS 0x0904 [1] }] }
    (s.heart.erasing = some e) ∧ quiet s (endCmds (fun r => opcodeOf r == 0x904) stOk 0 0 [] (raise 329 1 (inc (hwdCtr 4) { s with heart := { s.heart with erasing := none, eraseAt := none } }))) = true := by decide

theorem wit_DebugAndSessions_1 :
    let token : List Byte := [1]; let s : State := { sOn with heart.unlockBlocked := true }
    (s.heart.unlockBlocked = true) ∧ quiet s (s) = true := by decide

theorem wit_DebugAndSessions_2 :
    let token : List Byte := [1]; let s : State := sOn
    (s.heart.unlockBlocked = false) ∧ (s.heart.unlockFails < 2) ∧ quiet s ((if debugTokenOk s token then { eraseAll { s with heart.challenges := s.heart.challenges + 1 } with heart.debugOpen := true } else inc (hwdCtr 6) { s with heart.challenges := s.heart.challenges + 1, heart.unlockFails := s.heart.unlockFails + 1 })) = true := by intro token s; refine ⟨by decide, by decide, ?_⟩; generalize debugTokenOk s token = b; cases b <;> decide +kernel

theorem wit_DebugAndSessions_3 :
    let token : List Byte := [1]; let s : State := { sOn with heart.unlockFails := 2 }
    (s.heart.unlockBlocked = false) ∧ (2 ≤ s.heart.unlockFails) ∧ quiet s ((if debugTokenOk s token then { eraseAll { s with heart.challenges := s.heart.challenges + 1 } with heart.debugOpen := true } else alarm 5 { inc (hwdCtr 6) { s with heart.challenges := s.heart.challenges + 1, heart.unlockFails := s.heart.unlockFails + 1 } with heart.unlockBlocked := true })) = true := by intro token s; refine ⟨by decide, by decide, ?_⟩; generalize debugTokenOk s token = b; cases b <;> decide +kernel

theorem wit_DebugAndSessions_4 :
    let h : Nat := 0; let k : Nat := 10; let good : Bool := false; let part : List Word := []; let msg : Spdm := .endSession; let s : State := { sOn with heart.sessions := 0, hs.ports := [(0, { st := .up })] }; let u : State := s
    ((hport s h).st = .up) ∧ ((k, good, part, u) = (match msg with | .getVersion => (1, true, [], s) | .getCapabilities => (2, true, [], s) | .negotiate => (3, true, [], s) | .getDigests => (4, true, [], s) | .getCertificate slot off len => (5, slot == 0, chainPart s off len, s) | .challenge => (6, (!s.heart.deriveBlocked && s.heart.idKey.isSome), [], s) | .getMeasurements signed => (7, (!s.heart.deriveBlocked && s.heart.idKey.isSome) || !signed, [], s) | .keyExchange => (8, (!s.heart.deriveBlocked && s.heart.idKey.isSome) && decide (s.heart.sessions < 8), [], s) | .finish => (if (!s.heart.deriveBlocked && s.heart.idKey.isSome) ∧ s.heart.sessions < 8 then (9, true, [], inc (hwdCtr 0) { s with heart.sessions := s.heart.sessions + 1 }) else (9, false, [], s)) | .endSession => (if s.heart.sessions = 0 then (10, false, [], s) else (10, true, [], { s with heart.sessions := s.heart.sessions - 1 })) | .secured _ _ => (11, true, [], s) | .ideKeyProg => (12, false, [], s) | .other => (13, false, [], s))) ∧ (∀ v q, msg = .secured v q → v = true ∧ s.heart.sessions ≠ 0) ∧ quiet s (emit (.spdm h (b2n good) (if good then Config.spdmBody k u.heart.responses u.heart.idKey ++ part else []) (if k = 7 ∧ good then measurements u else [])) { u with heart.responses := u.heart.responses + 1 }) = true := by refine ⟨by decide, by decide, (by intro v q e; cases e), by decide +kernel⟩

theorem wit_DebugAndSessions_5 :
    let h : Nat := 0; let v : Bool := false; let q : GcpReq := rq 5 []; let s : State := { sOn with hs.ports := [(0, { st := .up })] }
    ((hport s h).st = .up) ∧ (v = false ∨ s.heart.sessions = 0) ∧ quiet s (raise 330 1 (inc (hwdCtr 1) s)) = true := by decide

theorem wit_DebugAndSessions_6 :
    let k : Nat := 10; let good : Bool := false; let part : List Word := []; let r : GcpReq := rqL 0x0900 4 [0]; let msg : Spdm := .endSession; let s : State := { sOn with heart.sessions := 0 }; let u : State := s
    (taken .writes false r s = true) ∧ ((k, good, part, u) = (match msg with | .getVersion => (1, true, [], s) | .getCapabilities => (2, true, [], s) | .negotiate => (3, true, [], s) | .getDigests => (4, true, [], s) | .getCertificate slot off len => (5, slot == 0, chainPart s off len, s) | .challenge => (6, (!s.heart.deriveBlocked && s.heart.idKey.isSome), [], s) | .getMeasurements signed => (7, (!s.heart.deriveBlocked && s.heart.idKey.isSome) || !signed, [], s) | .keyExchange => (8, (!s.heart.deriveBlocked && s.heart.idKey.isSome) && decide (s.heart.sessions < 8), [], s) | .finish => (if (!s.heart.deriveBlocked && s.heart.idKey.isSome) ∧ s.heart.sessions < 8 then (9, true, [], inc (hwdCtr 0) { s with heart.sessions := s.heart.sessions + 1 }) else (9, false, [], s)) | .endSession => (if s.heart.sessions = 0 then (10, false, [], s) else (10, true, [], { s with heart.sessions := s.heart.sessions - 1 })) | .secured _ _ => (11, true, [], s) | .ideKeyProg => (12, false, [], s) | .other => (13, false, [], s))) ∧ (∀ v q, msg ≠ .secured v q) ∧ quiet s (okData r (if good then Config.spdmBody k u.heart.responses u.heart.idKey ++ part else []) (emit (.spdm 4 (b2n good) (if good then Config.spdmBody k u.heart.responses u.heart.idKey ++ part else []) (if k = 7 ∧ good then measurements u else [])) { u with heart.responses := u.heart.responses + 1 })) = true := by refine ⟨by decide, by decide, fun v q e => (by cases e), by decide +kernel⟩

theorem wit_DebugAndSessions_7 :
    let r : GcpReq := rqL 0x0900 4 [0]; let q : GcpReq := rqS 0x0901 [7]; let good : Bool := true; let s : State := { sOn with heart.deriveBlocked := true, heart.sessions := 0 }
    (taken .writes false r s = true) ∧ (s.heart.deriveBlocked = true) ∧ (keyCmd q = true) ∧ quiet s (fail r stNotPermitted s) = true := by decide

theorem wit_DebugAndSessions_8 :
    let r : GcpReq := rqL 0x0900 4 [0]; let q : GcpReq := rqS 0x0005 [7]; let good : Bool := false; let s : State := sOn
    (taken .writes false r s = true) ∧ (s.heart.deriveBlocked = false ∨ keyCmd q = false) ∧ (good = false ∨ s.heart.sessions = 0) ∧ quiet s (authFail r s) = true := by decide

theorem wit_DebugAndSessions_9 :
    let r : GcpReq := rqL 0x0900 4 [0]; let q : GcpReq := rqS 0x0005 [7]; let s : State := { sOn with heart.sessions := 1 }
    (taken .writes false r s = true) ∧ (s.heart.deriveBlocked = false ∨ keyCmd q = false) ∧ (s.heart.sessions ≠ 0) ∧ (opcodeOf q ≠ 0x0900) ∧ quiet s (runPlain { q with via := r.via, secured := true, outer := r.words, srcEid := r.srcEid, mseq := r.mseq, replyEid := r.replyEid } s) = true := by decide

theorem wit_DebugAndSessions_10 :
    let h : Nat := 1; let st : Nat := 4; let ks : Nat := 1; let key : BitVec 256 := 77; let s : State := { sOn with hs.ports := [(1, { st := .up })] }
    (s.heart.sessions ≠ 0) ∧ (s.heart.deriveBlocked = false) ∧ ((hport s h).st = .up) ∧ (st < 5) ∧ (ks < 2) ∧ quiet s (spdmAnswer h 12 true [] (setIde h st (if ks = 0 then { ideStream s h st with k0 := some key } else { ideStream s h st with k1 := some key }) s)) = true := by refine ⟨by decide, by decide, by decide, by decide, by decide, ?_⟩; simp only [spdmAnswer, quiet_emit]; decide

theorem wit_DebugAndSessions_11 :
    let h : Nat := 1; let st : Nat := 4; let ks : Nat := 1; let s : State := { sOn with hs.ports := [(1, { st := .up })], heart.ide := [(12, { k1 := some 5 })] }
    (s.heart.sessions ≠ 0) ∧ (s.heart.deriveBlocked = false) ∧ ((hport s h).st = .up) ∧ (st < 5) ∧ (ks < 2) ∧ (((ideStream s h st).key ks).isSome = true) ∧ quiet s (spdmAnswer h 12 true [] (setIde h st { ideStream s h st with st := 1, cur := ks == 1 } s)) = true := by refine ⟨by decide, by decide, by decide, by decide, by decide, by decide, ?_⟩; simp only [spdmAnswer, quiet_emit]; decide

theorem wit_DebugAndSessions_12 :
    let h : Nat := 1; let st : Nat := 4; let ks : Nat := 1; let s : State := { sOn with hs.ports := [(1, { st := .up })], heart.ide := [(12, { st := 1, k1 := some 5, cur := true })] }
    (s.heart.sessions ≠ 0) ∧ (s.heart.deriveBlocked = false) ∧ ((hport s h).st = .up) ∧ (st < 5) ∧ (ks < 2) ∧ ((ideStream s h st).st = 1) ∧ ((ideStream s h st).cur = (ks == 1)) ∧ quiet s (spdmAnswer h 12 true [] (setIde h st { ideStream s h st with st := 0, cur := false } s)) = true := by refine ⟨by decide, by decide, by decide, by decide, by decide, by decide, by decide, ?_⟩; simp only [spdmAnswer, quiet_emit]; decide

theorem wit_DebugAndSessions_13 :
    let h : Nat := 1; let st : Nat := 4; let s : State := { sOn with heart.ide := [(12, { st := 1, k1 := some 5 })] }
    ((ideStream s h st).st = 1) ∧ quiet s (raise 328 1 (inc (hwdCtr 7) { setIde h st { ideStream s h st with st := 2 } s with heart := { (setIde h st { ideStream s h st with st := 2 } s).heart with lastIde := BitVec.ofNat 2 h } })) = true := by decide

theorem wit_FabricTimeCommands_1 :
    let r : GcpReq := rq 0x0500 []; let s : State := sRun
    (taken .none false r s = true) ∧ quiet s (ok r (w64 s.time.now ++ [w32 (timeFrac s), timStatus s, s.time.lastOff]) s) = true := by decide

theorem wit_FabricTimeCommands_2 :
    let r : GcpReq := rqS 0x0501 [77, 0]; let s : State := { sRun with stage.rws := [(0x05000000, 1)] }
    (taken .none true r s = true) ∧ (isRoot s = true) ∧ quiet s (ok r [] (swapIfDue (inc (timCtr 0) (moveTimes ((u64 r.words 5 : Int) - s.time.now) { s with time := { s.time with now := u64 r.words 5, frac := 0 } })))) = true := by decide

theorem wit_FabricTimeCommands_3 :
    let r : GcpReq := rqS 0x0501 [77, 0]; let s : State := sRun
    (taken .none true r s = true) ∧ (isRoot s = false) ∧ quiet s (fail r stNotPermitted s) = true := by decide

theorem wit_FabricTimeCommands_4 :
    let s : State := { sOn with time.st := .locked }
    (isRoot s = false) ∧ (followPort s = none) ∧ (timeHolds s = false) ∧ (s.time.st = .locked) ∧ quiet s (raise 306 0x20 (inc (timCtr 2) { s with time := { s.time with adj := s.time.est, st := .holdover, follow := none, run := 0 } })) = true := by decide

theorem wit_FabricTimeCommands_5 :
    let s : State := { sOn with time.st := .locking }
    (isRoot s = false) ∧ (followPort s = none) ∧ (timeHolds s = false) ∧ (s.time.st = .locking) ∧ quiet s (inc (timCtr 2) { s with time := { s.time with adj := s.time.est, st := .holdover, follow := none, run := 0 } }) = true := by decide

theorem wit_FabricTimeCommands_6 :
    let s : State := { sOn with stage.rws := [(0x05000000, 3)] }
    (isRoot s = true) ∧ (ppsIn s = true) ∧ (timeHolds s = false) ∧ quiet s ({ s with time := { slew (ppsError s * offUnit) 1000000000 (if s.time.st = .locked then ppm 10 else ppm 100) s.time with st := if |ppsError s| ≤ 2 then .locked else .locking, ppsErr := wInt (ppsError s), ppsLast := some s.time.now } }) = true := by decide

theorem wit_FabricTimeCommands_7 :
    let s : State := { sOn with stage.rws := [(0x05000000, 3)] }
    (isRoot s = true) ∧ (ppsIn s = true) ∧ (timeHolds s = false) ∧ (s.time.st ≠ .holdover) ∧ quiet s (inc (timCtr 2) (inc (timCtr 3) { s with time := { s.time with st := .holdover } })) = true := by decide

theorem wit_FabricTimeCommands_8 :
    let s : State := { sOn with mgmt.fw := .restarting, time.st := .locked }
    (timeHolds s = true ∨ isRoot s = true ∨ followPort s ≠ none ∨ s.time.st = .holdover ∨ s.time.st = .unlocked) ∧ quiet s (s) = true := by decide

theorem wit_FabricTimeCommands_9 :
    let s : State := { sOn with mgmt.fw := .restarting, stage.rws := [(0x05000000, 3)] }
    (timeHolds s = true ∨ isRoot s = false ∨ ppsIn s = false) ∧ quiet s (s) = true := by decide

theorem wit_FabricTimeCommands_10 :
    let s : State := { sOn with stage.rws := [(0x05000000, 5)] }
    (ppsOut s = true) ∧ quiet s ({ s with time.ppsHigh := true }) = true := by decide

theorem wit_PowerDomains_1 :
    let r : GcpReq := rq 0x0400 [3 + 3 * 256]; let s : State := sOn
    (taken .none false r s = true) ∧ (fAt r.words 5 0 7 < 96) ∧ ((domain s (fAt r.words 5 0 7)).target = none) ∧ (PState.ofCode (fAt r.words 5 8 2) = (domain s (fAt r.words 5 0 7)).st) ∧ quiet s (ok r [] s) = true := by decide

theorem wit_PowerDomains_2 :
    let r : GcpReq := rq 0x0400 [3]; let s : State := sOn
    (taken .none false r s = true) ∧ (fAt r.words 5 0 7 < 96) ∧ ((domain s (fAt r.words 5 0 7)).target = none) ∧ (PState.ofCode (fAt r.words 5 8 2) ≠ (domain s (fAt r.words 5 0 7)).st) ∧ (breaksDeps s (fAt r.words 5 0 7) (PState.ofCode (fAt r.words 5 8 2)) = false) ∧ (engineNeeded s (fAt r.words 5 0 7) (PState.ofCode (fAt r.words 5 8 2)) = false) ∧ quiet s (hold r (startTransition (fAt r.words 5 0 7) (PState.ofCode (fAt r.words 5 8 2)) (if fAt r.words 5 0 7 < 64 ∧ (domain s (fAt r.words 5 0 7)).st = .on ∧ (port s (fAt r.words 5 0 7)).st ≠ .disabled ∧ (port s (fAt r.words 5 0 7)).st ≠ .fenced then disablePort (fAt r.words 5 0 7) s else s))) = true := by decide

theorem wit_PowerDomains_3 :
    let r : GcpReq := rq 0x0400 [96]; let s : State := sOn
    (taken .none false r s = true) ∧ (96 ≤ fAt r.words 5 0 7) ∧ quiet s (fail r stBadParam s) = true := by decide

theorem wit_PowerDomains_4 :
    let r : GcpReq := rq 0x0400 [87]; let s : State := sOn
    (taken .none false r s = true) ∧ (fAt r.words 5 0 7 < 96) ∧ ((domain s (fAt r.words 5 0 7)).target = none) ∧ (PState.ofCode (fAt r.words 5 8 2) ≠ (domain s (fAt r.words 5 0 7)).st) ∧ (breaksDeps s (fAt r.words 5 0 7) (PState.ofCode (fAt r.words 5 8 2)) = true ∨ engineNeeded s (fAt r.words 5 0 7) (PState.ofCode (fAt r.words 5 8 2)) = true) ∧ quiet s (fail r stNotPermitted s) = true := by decide

theorem wit_PowerDomains_5 :
    let r : GcpReq := rq 0x0400 [3]; let s : State := { sRun with pw.dom := [(3, { target := some .on })] }
    (taken .none false r s = true) ∧ (fAt r.words 5 0 7 < 96) ∧ ((domain s (fAt r.words 5 0 7)).target.isSome = true) ∧ quiet s (fail r stBusy s) = true := by decide

theorem wit_PowerDomains_6 :
    let d : Nat := 3; let s : State := { sRun with pw.dom := [(3, { target := some .on })] }
    ((domain s d).target = some .on) ∧ ((domain s d).held = false) ∧ quiet s (endCmds (pwrCmd d) stOk 0 0 [] (domainOn d (domain s d).wasOff (updDom d (fun x => { x with st := .on, target := none, wasOff := false }) s))) = true := by decide

theorem wit_PowerDomains_7 :
    let d : Nat := 3; let s : State := { sRun with pw.dom := [(3, { st := .on, target := some .off })] }
    ((domain s d).target = some .off) ∧ ((domain s d).held = false) ∧ quiet s (endCmds (pwrCmd d) stOk 0 0 [] (domainOff d (updDom d (fun x => { x with st := .off, target := none, wasOff := true }) s))) = true := by decide

theorem wit_PowerDomains_8 :
    let d : Nat := 3; let t' : PState := .gated; let s : State := { sRun with pw.dom := [(3, { st := .on, target := some .gated, wasOff := false })] }
    ((domain s d).target = some t') ∧ ((domain s d).held = false) ∧ (t' = .gated ∨ t' = .retain) ∧ quiet s (endCmds (pwrCmd d) stOk 0 0 [] (updDom d (fun x => { x with st := t', target := none }) s)) = true := by decide

theorem wit_PowerDomains_9 :
    let d : Nat := 3; let t' : PState := .off; let s : State := { sRun with pw.dom := [(3, { st := .on, target := some .off })] }
    ((domain s d).target = some t') ∧ ((domain s d).held = false) ∧ ((domain s d).st = .on) ∧ quiet s (endCmds (pwrCmd d) stTimedOut 0 0 [] (raise 348 1 { domainOn d false (updDom d (fun x => { x with target := none }) s) with pw.lastFail := pack [(0, 7, d), (8, 2, t'.code)] })) = true := by decide

theorem wit_PowerDomains_10 :
    let d : Nat := 3; let t' : PState := .on; let s : State := { sRun with pw.dom := [(3, { target := some .on })] }
    ((domain s d).target = some t') ∧ ((domain s d).held = false) ∧ ((domain s d).st ≠ .on) ∧ quiet s (endCmds (pwrCmd d) stTimedOut 0 0 [] (raise 348 1 { updDom d (fun x => { x with target := none }) s with pw.lastFail := pack [(0, 7, d), (8, 2, t'.code)] })) = true := by decide

theorem wit_PowerDomains_11 :
    let r : GcpReq := rq 0x0401 []; let s : State := sOn
    (taken .none false r s = true) ∧ quiet s (ok r ((List.range 6).map (pwrState s)) s) = true := by decide

theorem wit_ResetAndBoot_1 :
    let s : State := { sOn with time.now := 5 }
    quiet s (emit .spiReset { pending := s.pending, out := s.out, grade425 := s.grade425, nor := s.nor, net := {}, stage := {}, trees := [], cross := {}, scr := {}, mgmt := {}, time := {}, ev := {}, pw := { hmPerst := s.pw.hmPerst }, heart := { minSvn := s.heart.minSvn, eraseCount := s.heart.eraseCount, challenges := s.heart.challenges, responses := s.heart.responses }, hs := { ports := (List.range 4).foldl (fun m h => Maps.put {} m h { perst := (hport s h).perst }) [] } }) = true := by decide

theorem wit_ResetAndBoot_2 :
    let s : State := { sOn with time.now := 5 }
    quiet s (emit .spiReset { pending := s.pending, out := s.out, grade425 := s.grade425, nor := s.nor, net := {}, stage := {}, trees := [], cross := {}, scr := {}, mgmt := {}, time := {}, ev := {}, pw := { hmPerst := s.pw.hmPerst }, heart := { minSvn := s.heart.minSvn, eraseCount := s.heart.eraseCount, challenges := s.heart.challenges, responses := s.heart.responses }, hs := { ports := (List.range 4).foldl (fun m h => Maps.put {} m h { perst := (hport s h).perst }) [] } }) = true := by decide

theorem wit_ResetAndBoot_3 :
    let roleSel : Nat := 1; let testMode : Bool := true; let i3cAddr : Nat := 5; let s : State := State.reset
    (s.mgmt.fw = .boot) ∧ (s.pw.refOk = false) ∧ (s.pw.stopped = false) ∧ quiet s ({ s with heart := { s.heart with idKey := some (Config.deriveIdentity Config.deviceSecret), wrapKey := some (Config.deriveWrapping Config.deviceSecret) }, pw := { s.pw with refOk := true, hmRefOk := true, hostRefOk := 0xF, roleSel := roleSel % 4, testMode := testMode, i3cStrap := i3cAddr % 8 } }) = true := by decide

theorem wit_ResetAndBoot_4 :
    let s : State := { State.reset with pw.refOk := true }
    (s.pw.refOk = true) ∧ (s.pw.tapLock = false) ∧ (s.pw.stopped = false) ∧ quiet s ((List.range 96).foldl (fun s d => if roleOn s.pw.roleSel d then updDom d (fun x => { x with target := some .on }) s else s) { s with pw.tapLock := true }) = true := by decide +kernel

theorem wit_ResetAndBoot_5 :
    let b : Bool := false; let s : State := { sOn with mgmt.fw := .boot, hs.ports := [(1, { st := .reset, perst := false })] }; let w : State := emit .spiSfdp s; let x : State := alarm 6 w; let u : State := (if verifySlot s b = 0 then { w with mgmt.fw := .running, heart := { w.heart with fwSlot := b, fwSvn := (slotSvn s (b)).toNat, minAtRun := s.heart.minSvn, measured := true, image := BitVec.ofNat 384 (norNat s (slotBase (b) + 0x18) 48), buildId := BitVec.ofNat 64 (norNat s (slotBase (b) + 0x10) 8) } } else if verifySlot s (!b) = 0 then { x with mgmt.fw := .running, heart := { x.heart with fwSlot := !b, fwSvn := (slotSvn s (!b)).toNat, minAtRun := s.heart.minSvn, measured := true, image := BitVec.ofNat 384 (norNat s (slotBase (!b) + 0x18) 48), buildId := BitVec.ofNat 64 (norNat s (slotBase (!b) + 0x10) 8) } } else raise 304 2 { alarm 6 x with mgmt.fw := .recovery }); let v : State := { u with pw.hmTrained := !u.pw.hmPerst && u.pw.hmRefOk }
    (s.mgmt.fw = .boot) ∧ (s.pw.tapLock = true) ∧ (b = decide (slotSvn s false < slotSvn s true)) ∧ (w = emit .spiSfdp s) ∧ (x = alarm 6 w) ∧ (u = (if verifySlot s b = 0 then { w with mgmt.fw := .running, heart := { w.heart with fwSlot := b, fwSvn := (slotSvn s (b)).toNat, minAtRun := s.heart.minSvn, measured := true, image := BitVec.ofNat 384 (norNat s (slotBase (b) + 0x18) 48), buildId := BitVec.ofNat 64 (norNat s (slotBase (b) + 0x10) 8) } } else if verifySlot s (!b) = 0 then { x with mgmt.fw := .running, heart := { x.heart with fwSlot := !b, fwSvn := (slotSvn s (!b)).toNat, minAtRun := s.heart.minSvn, measured := true, image := BitVec.ofNat 384 (norNat s (slotBase (!b) + 0x18) 48), buildId := BitVec.ofNat 64 (norNat s (slotBase (!b) + 0x10) 8) } } else raise 304 2 { alarm 6 x with mgmt.fw := .recovery })) ∧ (v = { u with pw.hmTrained := !u.pw.hmPerst && u.pw.hmRefOk }) ∧ quiet s ((if u.mgmt.fw = .running then (List.range 4).foldl (fun s h => if (hport s h).st = .reset ∧ (hport s h).perst = false then updHost h (fun p => { p with st := .training }) s else s) (if u.ev.stopped = [] then startAlive { v with ev.wdogOk := true, ev.hbOk := true } else stopAlive { v with ev.wdogOk := true, ev.hbOk := true }) else stopAlive { v with ev.hbOk := false })) = true := by decide

theorem wit_ResetAndBoot_6 :
    let b : Bool := false; let s : State := { sOn with mgmt.fw := .restarting, ev.stopped := [312], hs.ports := [(1, { st := .reset, perst := false })] }; let w : State := emit .spiSfdp s; let x : State := alarm 6 w; let u : State := (if verifySlot s b = 0 then { w with mgmt.fw := .running, heart := { w.heart with fwSlot := b, fwSvn := (slotSvn s (b)).toNat, minAtRun := s.heart.minSvn, measured := true, image := BitVec.ofNat 384 (norNat s (slotBase (b) + 0x18) 48), buildId := BitVec.ofNat 64 (norNat s (slotBase (b) + 0x10) 8) } } else if verifySlot s (!b) = 0 then { x with mgmt.fw := .running, heart := { x.heart with fwSlot := !b, fwSvn := (slotSvn s (!b)).toNat, minAtRun := s.heart.minSvn, measured := true, image := BitVec.ofNat 384 (norNat s (slotBase (!b) + 0x18) 48), buildId := BitVec.ofNat 64 (norNat s (slotBase (!b) + 0x10) 8) } } else raise 304 2 { alarm 6 x with mgmt.fw := .recovery }); let v : State := { u with pw.hmTrained := !u.pw.hmPerst && u.pw.hmRefOk }
    (s.mgmt.fw = .restarting) ∧ (b = decide (slotSvn s false < slotSvn s true)) ∧ (w = emit .spiSfdp s) ∧ (x = alarm 6 w) ∧ (u = (if verifySlot s b = 0 then { w with mgmt.fw := .running, heart := { w.heart with fwSlot := b, fwSvn := (slotSvn s (b)).toNat, minAtRun := s.heart.minSvn, measured := true, image := BitVec.ofNat 384 (norNat s (slotBase (b) + 0x18) 48), buildId := BitVec.ofNat 64 (norNat s (slotBase (b) + 0x10) 8) } } else if verifySlot s (!b) = 0 then { x with mgmt.fw := .running, heart := { x.heart with fwSlot := !b, fwSvn := (slotSvn s (!b)).toNat, minAtRun := s.heart.minSvn, measured := true, image := BitVec.ofNat 384 (norNat s (slotBase (!b) + 0x18) 48), buildId := BitVec.ofNat 64 (norNat s (slotBase (!b) + 0x10) 8) } } else raise 304 2 { alarm 6 x with mgmt.fw := .recovery })) ∧ (v = { u with pw.hmTrained := !u.pw.hmPerst && u.pw.hmRefOk }) ∧ quiet s (raise 304 1 (if u.mgmt.fw = .running then (List.range 4).foldl (fun s h => if (hport s h).st = .reset ∧ (hport s h).perst = false then updHost h (fun p => { p with st := .training }) s else s) (if u.ev.stopped = [] then startAlive { v with ev.wdogOk := true, ev.hbOk := true } else stopAlive { v with ev.wdogOk := true, ev.hbOk := true }) else stopAlive { v with ev.hbOk := false })) = true := by decide

theorem wit_ResetAndBoot_7 :
    let s : State := sOn
    (s.mgmt.fw = .running ∨ s.mgmt.fw = .recovery ∨ (s.mgmt.fw = .boot ∧ s.pw.tapLock = false)) ∧ quiet s (s) = true := by decide

theorem wit_ResetAndBoot_8 :
    let s : State := sOn
    quiet s ({ s with pw := { s.pw with hmPerst := false, hmTrained := s.mgmt.fw != .boot && s.pw.hmRefOk } }) = true := by decide

theorem wit_ClocksAndSupplies_1 :
    let s : State := sOn
    (s.pw.refOk = true) ∧ True := by decide

theorem wit_ClocksAndSupplies_2 :
    let s : State := sOn
    quiet s (s) = true := by decide

theorem wit_ClocksAndSupplies_3 :
    let s : State := sOn
    quiet s ({ s with pw := { s.pw with hmRefOk := false, hmTrained := false } }) = true := by decide

theorem wit_ClocksAndSupplies_4 :
    let s : State := sOn
    quiet s ({ s with pw := { s.pw with hmRefOk := true, hmTrained := !s.pw.hmPerst && s.mgmt.fw != .boot } }) = true := by decide

theorem wit_ClocksAndSupplies_5 :
    let h : Nat := 2; let back : Bool := false; let s : State := sOn
    (h < 4) ∧ quiet s ({ s with pw.hostRefOk := if back then s.pw.hostRefOk ||| BitVec.ofNat 4 (2 ^ h) else s.pw.hostRefOk &&& ~~~BitVec.ofNat 4 (2 ^ h) }) = true := by decide

theorem wit_ClocksAndSupplies_6 :
    let s : State := sOn
    (s.pw.tapLock = true) ∧ (s.pw.stopped = false) ∧ True := by decide

set_option maxRecDepth 100000 in
theorem wit_ClocksAndSupplies_7 :
    let b : Nat := 1; let s : State := { sOn with pw.pllLock := 3 }
    (s.pw.stopped = false) ∧ (s.pw.pllLock.getLsbD b = true) ∧ quietFence s (raise (341 + b) 1 { s with pw.pllLock := s.pw.pllLock &&& ~~~BitVec.ofNat 2 (2 ^ b) }) = true := by decide +kernel

theorem wit_ClocksAndSupplies_8 :
    let b : Nat := 1; let s : State := sOn
    (s.pw.stopped = false) ∧ (s.pw.tapLock = true) ∧ (b < 2) ∧ quiet s ({ s with pw.pllLock := s.pw.pllLock ||| BitVec.ofNat 2 (2 ^ b) }) = true := by decide

theorem wit_ClocksAndSupplies_9 :
    let s : State := sOn
    quiet s (raise 343 1 s) = true := by decide

theorem wit_ClocksAndSupplies_10 :
    let s : State := sOn
    quiet s (raise 344 1 s) = true := by decide

set_option maxRecDepth 100000 in
theorem wit_ClocksAndSupplies_11 :
    let s : State := sOn
    quietFence s (raise 347 1 s) = true := by decide +kernel

set_option maxRecDepth 100000 in
theorem wit_ClocksAndSupplies_12 :
    let s : State := sOn
    (boleUsed s 0 = true) ∧ quietFence s (raise 345 1 s) = true := by decide +kernel

set_option maxRecDepth 100000 in
theorem wit_ClocksAndSupplies_13 :
    let s : State := sOn
    (boleUsed s 1 = true) ∧ quietFence s (raise 346 1 s) = true := by decide +kernel

theorem wit_ClocksAndSupplies_14 :
    let ts : List (Option Int) := List.replicate 16 (some 40); let x : Int := 40; let i : Nat := 0; let s : State := sOn
    ((List.range 16).any (fun i => sensorBad ((ts[i]?).getD none)) = false) ∧ (hottest ts = some (x, i)) ∧ (x < ((rwsF s 0x07000034 10 8 : Nat) : Int)) ∧ (x < 115) ∧ quiet s ({ s with pw := { s.pw with temps := (List.range 16).foldl (fun m i => Maps.put 0 m i (tempWord (Maps.get 0 m i) ((ts[i]?).getD none))) s.pw.temps, tempMax := pack [(0, 9, (BitVec.ofInt 9 x).toNat), (9, 4, i)] } }) = true := by decide

theorem wit_ClocksAndSupplies_15 :
    let ts : List (Option Int) := List.replicate 16 (some 100); let x : Int := 100; let i : Nat := 0; let s : State := sOn
    ((List.range 16).any (fun i => sensorBad ((ts[i]?).getD none)) = false) ∧ (hottest ts = some (x, i)) ∧ (((rwsF s 0x07000034 10 8 : Nat) : Int) ≤ x) ∧ (x < 115) ∧ quiet s (raise 336 1 { s with pw := { s.pw with temps := (List.range 16).foldl (fun m i => Maps.put 0 m i (tempWord (Maps.get 0 m i) ((ts[i]?).getD none))) s.pw.temps, tempMax := pack [(0, 9, (BitVec.ofInt 9 x).toNat), (9, 4, i)] } }) = true := by decide

theorem wit_ClocksAndSupplies_16 :
    let ts : List (Option Int) := List.replicate 16 (some 120); let x : Int := 120; let i : Nat := 0; let s : State := sOn
    ((List.range 16).any (fun i => sensorBad ((ts[i]?).getD none)) = false) ∧ (hottest ts = some (x, i)) ∧ (((rwsF s 0x07000034 10 8 : Nat) : Int) ≤ x) ∧ (115 ≤ x) ∧ (s.pw.tripped = false) ∧ True := by decide

theorem wit_ClocksAndSupplies_17 :
    let watts : Nat := 460; let s : State := sOn
    (rwsF s 0x07000034 0 10 ≤ min watts 1023) ∧ quiet s (raise 349 1 { s with pw.est := min watts 1023 }) = true := by decide

theorem wit_ClocksAndSupplies_18 :
    let watts : Nat := 100; let s : State := sOn
    (min watts 1023 < rwsF s 0x07000034 0 10) ∧ quiet s ({ s with pw.est := min watts 1023 }) = true := by decide

theorem wit_DieToDieAndHbm_1 :
    let m : Nat := 2; let s : State := { sOn with net.d2d := [(0, { up := true }), (1, { up := true })] }
    (d2dPowered s m = true) ∧ ((d2dOf s m).up = false) ∧ (fenced s (uD2d m) = false) ∧ quiet s (updD2d m (fun x => { x with up := true }) s) = true := by decide

theorem wit_DieToDieAndHbm_2 :
    let m : Nat := 2; let s : State := { sOn with net.d2d := [(0, { up := true }), (1, { up := true })] }
    (d2dPowered s m = true) ∧ ((d2dOf s m).up = false) ∧ (fenced s (uD2d m) = false) ∧ quiet s (raise (d2dSrc m 1) 1 (updD2d m (fun x => { x with up := true }) s)) = true := by decide

theorem wit_DieToDieAndHbm_3 :
    let m : Nat := 2; let s : State := { sOn with net.d2d := [(0, { up := true }), (1, { up := true })] }
    (d2dPowered s m = true) ∧ ((d2dOf s m).up = false) ∧ quietFence s (raise (d2dSrc m 2) 1 s) = true := by decide +kernel

theorem wit_DieToDieAndHbm_4 :
    let m : Nat := 2; let s : State := sOn; let w : State := updD2d m (fun x => { x with up := false }) (raise (d2dSrc m 2) 1 s); let u : State := { w with cross := { w.cross with carried := Maps.put [] w.cross.carried m [], moving := Maps.upd [] w.cross.moving m (fun l => l ++ (Maps.get [] w.cross.carried m).filter (fun i => !l.contains i)) } }
    (d2dPowered s m = true) ∧ ((d2dOf s m).up = true) ∧ (w = updD2d m (fun x => { x with up := false }) (raise (d2dSrc m 2) 1 s)) ∧ (u = { w with cross := { w.cross with carried := Maps.put [] w.cross.carried m [], moving := Maps.upd [] w.cross.moving m (fun l => l ++ (Maps.get [] w.cross.carried m).filter (fun i => !l.contains i)) } }) ∧ quietFence s ((if boleLinked (raise (472 + m / 3) 1 u) (m / 3) then raise (472 + m / 3) 1 u else raise (474 + m / 3) 1 (raise (472 + m / 3) 1 u))) = true := by decide +kernel

theorem wit_DieToDieAndHbm_5 :
    let m : Nat := 2; let s : State := sOn
    (d2dPowered s m = true) ∧ quietFence s (raise (d2dSrc m 3) 1 s) = true := by decide +kernel

theorem wit_DieToDieAndHbm_6 :
    let m : Nat := 2; let ident : Nat := 5; let lost : Nat := 4; let s : State := { sOn with cross.moving := [(2, [5])], ev.own := BitVec.ofNat 128 (2 ^ 105), ev.fenced := BitVec.ofNat 128 (2 ^ 105) }
    (d2dPowered s m = true) ∧ ((Maps.get [] s.cross.moving m).contains ident = true) ∧ (s.cross.held = []) ∧ (lost ≠ 0) ∧ quiet s ((fun u => { u with cross := { u.cross with moving := Maps.put [] u.cross.moving m ((Maps.get [] s.cross.moving m).filter (· ≠ ident)) } }) (raise (161 + 64 * (m / 3)) 2 (count (boleKey (m / 3) 0x100) lost s))) = true := by decide +kernel

theorem wit_DieToDieAndHbm_7 :
    let m : Nat := 2; let ident : Nat := 5; let x : Crossing := .msix 0 0 3; let s : State := { sOn with cross.moving := [(2, [5])], cross.held := [(0, 5, .msix 0 0 3)], ev.own := BitVec.ofNat 128 (2 ^ 105), ev.fenced := BitVec.ofNat 128 (2 ^ 105) }
    (d2dPowered s m = true) ∧ ((Maps.get [] s.cross.moving m).contains ident = true) ∧ (s.cross.held = [(m / 3, ident, x)]) ∧ quiet s (crossD2d (m / 3) ident x (Crossing.run x) { s with cross := { s.cross with held := [], moving := Maps.put [] s.cross.moving m ((Maps.get [] s.cross.moving m).filter (· ≠ ident)) } }) = true := by decide +kernel

theorem wit_DieToDieAndHbm_8 :
    let m : Nat := 2; let s : State := sOn
    (d2dPowered s m = true) ∧ quiet s ((let fresh := decide (s.time.now < (d2dOf s m).winAt + 1000000) && (d2dOf s m).retries != 0; let k := if fresh then (d2dOf s m).retries + 1 else 1; let u := updD2d m (fun x => { x with retries := k, winAt := if fresh then x.winAt else s.time.now }) s; if k = Config.retryThresh + 1 then raise (d2dSrc m 0) 1 u else u)) = true := by intro m s; refine ⟨by decide, ?_⟩; generalize Config.retryThresh = x; dsimp only; split <;> split <;> decide +kernel

theorem wit_DieToDieAndHbm_9 :
    let c : Nat := 7; let s : State := sOn
    (hbmOk s = true) ∧ (c < 32) ∧ quiet s (raise (480 + c) 1 s) = true := by decide

set_option maxRecDepth 100000 in
theorem wit_DieToDieAndHbm_10 :
    let c : Nat := 7; let n : Nat := 3; let s : State := { sOn with net.ports := [(3, { st := .up, spill := true, rp := { window := (List.range 4097).map (fun _ => (0, true)) } })], stage.rws := [(0x01030000, 0x72)] }
    (hbmOk s = true) ∧ (c < 32) ∧ (hasSpilled (raise (480 + c) 1 s) n = true) ∧ quiet s (spillLost n (raise (480 + c) 1 s)) = true := by decide +kernel

theorem wit_DieToDieAndHbm_11 :
    let c : Nat := 7; let h : Nat := 1; let s : State := { sOn with hs.unexp := [(1, [{ seq := 0, fn := 0, pd := 0, chan := 2, msn := 0, tag := 0x55, comm := 7, rank := 3, len := 8, tier := true }])] }
    (hbmOk s = true) ∧ (c < 32) ∧ ((unexpAt (raise (480 + c) 1 s) h).any (·.tier) = true) ∧ quiet s (matchLost h (raise (480 + c) 1 s)) = true := by decide +kernel

theorem wit_FirmwareUpdate_1 :
    let r : GcpReq := rq 0x0A00 [0x2000]; let s : State := sRun
    (taken .none false r s = true) ∧ (s.mgmt.fwJob = .none) ∧ (0x1200 ≤ (wAt r.words 5).toNat) ∧ ((wAt r.words 5).toNat ≤ 0x800000) ∧ quiet s (hold r { s with mgmt.fwJob := .erase r (wAt r.words 5).toNat }) = true := by decide

theorem wit_FirmwareUpdate_2 :
    let r : GcpReq := rq 0x0A00 [0x11FF]; let s : State := sRun
    (taken .none false r s = true) ∧ (s.mgmt.fwJob = .none) ∧ ((wAt r.words 5).toNat < 0x1200 ∨ 0x800000 < (wAt r.words 5).toNat) ∧ quiet s (fail r stBadParam s) = true := by decide

theorem wit_FirmwareUpdate_3 :
    let r : GcpReq := rq 0x0A00 [0x2000]; let s : State := { sRun with mgmt.fwJob := .opened 0x2000 }
    (taken .none false r s = true) ∧ (s.mgmt.fwJob ≠ .none) ∧ quiet s (fail r stBusy s) = true := by decide

theorem wit_FirmwareUpdate_4 :
    let q : GcpReq := rq 0x0A00 [0x2000]; let n : Nat := 0x2000; let s : State := { sRun with nor := [(5, 1)], mgmt.fwJob := .erase (rq 0x0A00 [0x2000]) 0x2000, mgmt.cmds := [{ id := 0, req := rq 0x0A00 [0x2000] }] }
    (s.mgmt.fwJob = .erase q n) ∧ quiet s (endCmds (fun r => opcodeOf r == 0xA00) stOk 0 0 [] { s with nor := eraseA s.nor, mgmt.fwJob := .opened n }) = true := by decide

theorem wit_FirmwareUpdate_5 :
    let q : GcpReq := rq 0x0A00 [0x2000]; let n : Nat := 0x2000; let s : State := { sRun with mgmt.fwJob := .erase (rq 0x0A00 [0x2000]) 0x2000, mgmt.cmds := [{ id := 0, req := rq 0x0A00 [0x2000] }] }
    (s.mgmt.fwJob = .erase q n) ∧ quiet s (endCmds (fun r => opcodeOf r == 0xA00) stTimedOut 0 0 [] { s with mgmt.fwJob := .none }) = true := by decide

theorem wit_FirmwareUpdate_6 :
    let r : GcpReq := rqL 0x0A01 4 [8, 0x01020304]; let n : Nat := 0x2000; let s : State := { sRun with mgmt.fwJob := .opened 0x2000 }
    (taken .writes false r s = true) ∧ (s.mgmt.fwJob = .opened n) ∧ ((wAt r.words 5).toNat % 4 = 0) ∧ ((wAt r.words 5).toNat + (wAt r.words 2).toNat ≤ n) ∧ quiet s (ok r [] { s with nor := Maps.putList 0xFF s.nor (wAt r.words 5).toNat ((wBytes (dataOf r 6)).take (wAt r.words 2).toNat) }) = true := by decide

theorem wit_FirmwareUpdate_7 :
    let r : GcpReq := rqL 0x0A01 4 [8, 0x01020304]; let s : State := sRun
    (taken .writes false r s = true) ∧ (∀ n, s.mgmt.fwJob ≠ .opened n) ∧ quiet s (fail r stNotPermitted s) = true := by exact ⟨by decide, fun n => by simp [sRun, State.reset], by decide⟩

theorem wit_FirmwareUpdate_8 :
    let r : GcpReq := rqL 0x0A01 4 [0x2000, 1]; let n : Nat := 0x2000; let s : State := { sRun with mgmt.fwJob := .opened 0x2000 }
    (taken .writes false r s = true) ∧ (s.mgmt.fwJob = .opened n) ∧ ((wAt r.words 5).toNat % 4 ≠ 0 ∨ n < (wAt r.words 5).toNat + (wAt r.words 2).toNat) ∧ quiet s (fail r stBadParam s) = true := by decide

theorem wit_FirmwareUpdate_9 :
    let r : GcpReq := rq 0x0A02 []; let s : State := sRun
    (taken .none false r s = true) ∧ quiet s (hold r { s with mgmt.fwJob := .verify r 0 }) = true := by decide

theorem wit_FirmwareUpdate_10 :
    let q : GcpReq := rq 0x0A02 []; let n : Nat := 0; let s : State := { sRun with mgmt.fwJob := .verify (rq 0x0A02 []) 0, mgmt.cmds := [{ id := 0, req := rq 0x0A02 [] }] }
    (s.mgmt.fwJob = .verify q n) ∧ quiet s (endCmds (fun r => opcodeOf r == 0xA02) (if verifySlot s false = 0 then stOk else stAuthFailed) (verifySlot s false) 0 [] { s with mgmt.fwJob := .none }) = true := by decide

theorem wit_FirmwareUpdate_11 :
    let r : GcpReq := rq 0x0A03 []; let s : State := sRun; let w : State := ok r [] s
    (taken .none false r s = true) ∧ (s.mgmt.cmds.any (fun c => groupOf c.req == 1 || groupOf c.req == 2 || groupOf c.req == 0xA) = false) ∧ (w = ok r [] s) ∧ quiet s (emit .spiReset { w with mgmt := { w.mgmt with fw := .restarting, cmds := [], waitq := [], mseqs := [], maps := [], fwJob := .none }, stage := { w.stage with checking := none, bulkJob := none }, net.graft := { w.net.graft with quarCmd := none, drainCmd := none } }) = true := by decide

theorem wit_FirmwareUpdate_12 :
    let r : GcpReq := rq 0x0A03 []; let s : State := { sRun with mgmt.cmds := [{ id := 0, req := rq 0x0103 [] }] }
    (taken .none false r s = true) ∧ (s.mgmt.cmds.any (fun c => groupOf c.req == 1 || groupOf c.req == 2 || groupOf c.req == 0xA) = true) ∧ quiet s (fail r stNotPermitted s) = true := by decide

theorem wit_FirmwareUpdate_13 :
    let r : GcpReq := rq 0x0A04 []; let s : State := { sRun with heart.fwSlot := true }
    (taken .none false r s = true) ∧ (s.heart.fwSlot = true) ∧ quiet s (fail r stNotPermitted s) = true := by decide

theorem wit_FirmwareUpdate_14 :
    let q : GcpReq := rq 0x0A04 []; let n : Option Nat := none; let s : State := { sRun with mgmt.fwJob := .promote (rq 0x0A04 []) none, mgmt.cmds := [{ id := 0, req := rq 0x0A04 [] }] }
    (s.mgmt.fwJob = .promote q n) ∧ quiet s (endCmds (fun r => opcodeOf r == 0xA04) stTimedOut 0 0 [] { s with mgmt.fwJob := (n.map FwJob.opened).getD .none }) = true := by decide

theorem wit_FirmwareUpdate_15 :
    let r : GcpReq := rq 0x0A04 []; let s : State := { sRun with mgmt.fwJob := .opened 0x2000 }
    (taken .none false r s = true) ∧ (s.heart.fwSlot = false) ∧ quiet s (hold r { s with mgmt.fwJob := .promote r (match s.mgmt.fwJob with | .opened n => some n | _ => none) }) = true := by decide

theorem wit_FirmwareUpdate_16 :
    let q : GcpReq := rq 0x0A04 []; let n : Option Nat := some 0x2000; let s : State := { sRun with nor := [(5, 1)], mgmt.fwJob := .promote (rq 0x0A04 []) (some 0x2000), mgmt.cmds := [{ id := 0, req := rq 0x0A04 [] }] }
    (s.mgmt.fwJob = .promote q n) ∧ quiet s (endCmds (fun r => opcodeOf r == 0xA04) stOk 0 0 [] { s with nor := promoteA s.nor, mgmt.fwJob := (n.map FwJob.opened).getD .none }) = true := by decide

theorem wit_FirmwareUpdate_17 :
    let r : GcpReq := rqS 0x0A05 []; let s : State := { sRun with heart.fwSvn := 64, nor := [(8, 3), (9, 0), (10, 0), (11, 0)] }
    (taken .none true r s = true) ∧ (slotSvn s false < s.heart.fwSvn ∨ slotSvn s true < s.heart.fwSvn) ∧ quiet s (fail r stNotPermitted s) = true := by decide

theorem wit_FirmwareUpdate_18 :
    let r : GcpReq := rqS 0x0A05 []; let s : State := { sRun with heart.fwSvn := 3 }
    (taken .none true r s = true) ∧ (s.heart.fwSvn ≤ slotSvn s false) ∧ (s.heart.fwSvn ≤ slotSvn s true) ∧ quiet s (ok r [] { s with heart := { s.heart with minSvn := s.heart.fwSvn } }) = true := by decide

theorem wit_ReadsAndLockGroups_1 :
    let r : GcpReq := rqL 0x0B00 8 [0x20]; let s : State := sOn
    (taken .reads false r s = true) ∧ (rangeOk (wAt r.words 5).toNat (wAt r.words 2).toNat (4 * (telAll s).length) = true) ∧ quiet s (okData r (((telAll s).drop ((wAt r.words 5).toNat / 4)).take ((wAt r.words 2).toNat / 4)) (coreEcc eccTel s)) = true := by decide +kernel

theorem wit_ReadsAndLockGroups_2 :
    let r : GcpReq := rqL 0x0B00 8 [0x21]; let s : State := sOn
    (taken .reads false r s = true) ∧ (rangeOk (wAt r.words 5).toNat (wAt r.words 2).toNat (4 * (telAll s).length) = false) ∧ quiet s (fail r stBadParam s) = true := by decide +kernel

theorem wit_ReadsAndLockGroups_3 :
    let r : GcpReq := rqL 0x0B01 8 [2588]; let s : State := sOn
    (taken .reads false r s = true) ∧ (rangeOk (wAt r.words 5).toNat (wAt r.words 2).toNat 2592 = false) ∧ quiet s (fail r stBadParam s) = true := by decide

set_option maxRecDepth 100000 in
theorem wit_ReadsAndLockGroups_4 :
    let r : GcpReq := rqL 0x0B01 8 [4]; let ws : List Word := List.replicate 648 3; let s : State := { sOn with mgmt.maps := [(.i3c, eidNone, List.replicate 648 3)] }
    (taken .reads false r s = true) ∧ (rangeOk (wAt r.words 5).toNat (wAt r.words 2).toNat 2592 = true) ∧ (wAt r.words 5 ≠ 0) ∧ (snapOf s r = some ws) ∧ (ws.length = 648) ∧ quiet s (okData r ((ws.drop ((wAt r.words 5).toNat / 4)).take ((wAt r.words 2).toNat / 4)) s) = true := by decide

theorem wit_ReadsAndLockGroups_5 :
    let r : GcpReq := rqL 0x0B01 8 [0]; let s : State := sOn
    (taken .reads false r s = true) ∧ (rangeOk (wAt r.words 5).toNat (wAt r.words 2).toNat 2592 = true) ∧ (wAt r.words 5 = 0 ∨ snapOf s r = none) ∧ ((mapRecord s).length = 648) ∧ quiet s (okData r (((mapRecord s).drop ((wAt r.words 5).toNat / 4)).take ((wAt r.words 2).toNat / 4)) { coreEcc eccMap s with mgmt.maps := (r.via, r.srcEid, mapRecord s) :: s.mgmt.maps.filter (fun m => !(m.1 == r.via && m.2.1 == r.srcEid)) }) = true := by decide +kernel

theorem wit_ReadsAndLockGroups_6 :
    let r : GcpReq := rqL 0x0B02 8 [1, 4]; let s : State := { sOn with net.histSlot := 2, net.hist := [(1, [(1, 77)])] }
    (taken .reads false r s = true) ∧ (hbmOk s = true) ∧ ((wAt r.words 5).toNat < histSlots) ∧ (s.net.wrapped = true ∨ (wAt r.words 5).toNat < s.net.histSlot) ∧ (rangeOk (wAt r.words 6).toNat (wAt r.words 2).toNat 16384 = true) ∧ quiet s (okData r (Maps.range 0 (Maps.get [] s.net.hist (wAt r.words 5).toNat) ((wAt r.words 6).toNat / 4) ((wAt r.words 2).toNat / 4)) s) = true := by decide

theorem wit_ReadsAndLockGroups_7 :
    let r : GcpReq := rqL 0x0B02 8 [1, 4]; let s : State := sRun
    (taken .reads false r s = true) ∧ (hbmOk s = false) ∧ quiet s (fail r stUnitFenced s) = true := by decide

theorem wit_ReadsAndLockGroups_8 :
    let r : GcpReq := rqL 0x0B02 8 [2, 4]; let s : State := { sOn with net.histSlot := 2 }
    (taken .reads false r s = true) ∧ (hbmOk s = true) ∧ (histSlots ≤ (wAt r.words 5).toNat ∨ (s.net.wrapped = false ∧ s.net.histSlot ≤ (wAt r.words 5).toNat) ∨ rangeOk (wAt r.words 6).toNat (wAt r.words 2).toNat 16384 = false) ∧ quiet s (fail r stBadParam s) = true := by decide

theorem wit_ReadsAndLockGroups_9 :
    let r : GcpReq := rq 0x0602 [9]; let s : State := sRun
    (taken .none false r s = true) ∧ quiet s (ok r (ctxRegs s (fAt r.words 5 0 10)) s) = true := by decide

theorem wit_ReadsAndLockGroups_10 :
    let r : GcpReq := rq 0x0C00 [1 + 3 * 256 + 2 ^ 16]; let s : State := sOn
    (taken .none false r s = true) ∧ (domOn s (dMem (lgBole r)) = true) ∧ ((lgroupOf s (lgBole r) (lgGroup r)).claim = bAt r.words 5 16 ∨ (lgLocks s r).any (fun l => l.owner.isSome || l.queue != []) = false) ∧ quiet s (ok r [] (setLgroup (lgBole r) (lgGroup r) { lgroupOf s (lgBole r) (lgGroup r) with claim := bAt r.words 5 16 } s)) = true := by decide

theorem wit_ReadsAndLockGroups_11 :
    let r : GcpReq := rq 0x0C00 [1]; let s : State := sRun
    (taken .none false r s = true) ∧ (domOn s (dMem (lgBole r)) = false) ∧ quiet s (fail r stNotPermitted s) = true := by decide

theorem wit_ReadsAndLockGroups_12 :
    let r : GcpReq := rq 0x0C00 [1 + 3 * 256 + 2 ^ 16]; let s : State := { sOn with scr.locks := [(2048 + 192, { owner := some 3 })] }
    (taken .none false r s = true) ∧ (domOn s (dMem (lgBole r)) = true) ∧ ((lgroupOf s (lgBole r) (lgGroup r)).claim ≠ bAt r.words 5 16) ∧ ((lgLocks s r).any (fun l => l.owner.isSome || l.queue != []) = true) ∧ quiet s (fail r stBusy s) = true := by decide

theorem wit_ReadsAndLockGroups_13 :
    let r : GcpReq := rq 0x0C01 [1]; let s : State := sRun
    (taken .none false r s = true) ∧ (domOn s (dMem (lgBole r)) = false) ∧ quiet s (fail r stNotPermitted s) = true := by decide

theorem wit_ReadsAndLockGroups_14 :
    let r : GcpReq := rq 0x0C01 [1 + 3 * 256, 0]; let new : BitVec 512 := 0; let gone : BitVec 512 := 8; let s : State := { sOn with scr.locks := [(2048 + 192, { owner := some 3 })], scr.lgroups := [(32 + 3, { rights := 8 })] }
    (taken .none false r s = true) ∧ (domOn s (dMem (lgBole r)) = true) ∧ (new = ((lgroupOf s (lgBole r) (lgGroup r)).rights &&& ~~~(BitVec.ofNat 512 (0xFFFFFFFF <<< (32 * fAt r.words 5 16 4)))) ||| BitVec.ofNat 512 ((wAt r.words 6).toNat <<< (32 * fAt r.words 5 16 4))) ∧ (gone = (lgroupOf s (lgBole r) (lgGroup r)).rights &&& ~~~new) ∧ ((lgLocks s r).any (fun l => (match l.owner with | some m => (gone).getLsbD m | none => false) || l.queue.any (fun m => gone.getLsbD m)) = true) ∧ quiet s (fail r stBusy s) = true := by decide +kernel

theorem wit_ReadsAndLockGroups_15 :
    let r : GcpReq := rq 0x0C01 [1 + 3 * 256 + 2 * 65536, 0xFF]; let s : State := sOn
    (taken .none false r s = true) ∧ (domOn s (dMem (lgBole r)) = true) ∧ ((lgLocks s r).any (fun l => (match l.owner with | some m => ((lgroupOf s (lgBole r) (lgGroup r)).rights &&& ~~~(((lgroupOf s (lgBole r) (lgGroup r)).rights &&& ~~~(BitVec.ofNat 512 (0xFFFFFFFF <<< (32 * fAt r.words 5 16 4)))) ||| BitVec.ofNat 512 ((wAt r.words 6).toNat <<< (32 * fAt r.words 5 16 4)))).getLsbD m | none => false) || l.queue.any ((lgroupOf s (lgBole r) (lgGroup r)).rights &&& ~~~(((lgroupOf s (lgBole r) (lgGroup r)).rights &&& ~~~(BitVec.ofNat 512 (0xFFFFFFFF <<< (32 * fAt r.words 5 16 4)))) ||| BitVec.ofNat 512 ((wAt r.words 6).toNat <<< (32 * fAt r.words 5 16 4)))).getLsbD) = false) ∧ quiet s (ok r [] (setLgroup (lgBole r) (lgGroup r) { lgroupOf s (lgBole r) (lgGroup r) with rights := ((lgroupOf s (lgBole r) (lgGroup r)).rights &&& ~~~(BitVec.ofNat 512 (0xFFFFFFFF <<< (32 * fAt r.words 5 16 4)))) ||| BitVec.ofNat 512 ((wAt r.words 6).toNat <<< (32 * fAt r.words 5 16 4)) } s)) = true := by decide

theorem wit_TreesAndReservationsStaged_1 :
    let r : GcpReq := rq 0x0600 [9, 1, 2]; let s : State := sRun
    (taken .none false r s = true) ∧ (stageRefusal s (wordAddrs (0x02200000 + fAt r.words 5 0 10 * 0x20) 8) = none) ∧ quiet s (ok r [] (unready (stageWords (0x02200000 + fAt r.words 5 0 10 * 0x20) ((List.range 8).map (fun i => wAt r.words (6 + i))) s))) = true := by decide

theorem wit_TreesAndReservationsStaged_2 :
    let r : GcpReq := rq 0x0601 [9]; let s : State := sRun
    (taken .none false r s = true) ∧ (stageRefusal s (wordAddrs (0x02200000 + fAt r.words 5 0 10 * 0x20) 8) = none) ∧ quiet s (ok r [] (unready (stageWords (0x02200000 + fAt r.words 5 0 10 * 0x20) (List.replicate 8 0) s))) = true := by decide

theorem wit_TreesAndReservationsStaged_3 :
    let r : GcpReq := rq 0x0600 [9]; let st : Nat := stBusy; let d : Nat := 0; let s : State := { sRun with stage.bank := .pending }
    (taken .none false r s = true) ∧ (stageRefusal s (wordAddrs (0x02200000 + fAt r.words 5 0 10 * 0x20) 8) = some (st, d)) ∧ quiet s (finish r st d 0 [] [] s) = true := by decide

theorem wit_TreesAndReservationsStaged_4 :
    let r : GcpReq := rq 0x0600 [9]; let st : Nat := stBusy; let d : Nat := 0; let s : State := { sRun with stage.bank := .pending }
    (taken .none false r s = true) ∧ (stageRefusal s (wordAddrs (0x02200000 + fAt r.words 5 0 10 * 0x20) 8) = some (st, d)) ∧ quiet s (finish r st d 0 [] [] s) = true := by decide

theorem wit_TreesAndReservationsStaged_5 :
    let r : GcpReq := rq 0x0700 [5 + 65536, 1, 2]; let s : State := sOn
    (taken .none false r s = true) ∧ (domOn s (dMem (boleOf (fAt r.words 5 16 2))) = true) ∧ (s.stage.bank ≠ .pending) ∧ quiet s (ok r [] (unready { s with stage.resvStaged := Maps.insert (resvKey (fAt r.words 5 16 2) (fAt r.words 5 0 14)) (resvWords (r.words.drop 6)) s.stage.resvStaged })) = true := by decide

theorem wit_TreesAndReservationsStaged_6 :
    let r : GcpReq := rq 0x0700 [5 + 65536, 1, 2]; let s : State := { sOn with stage.bank := .pending }
    (taken .none false r s = true) ∧ (domOn s (dMem (boleOf (fAt r.words 5 16 2))) = true) ∧ (s.stage.bank = .pending) ∧ quiet s (fail r stBusy s) = true := by decide

theorem wit_TreesAndReservationsStaged_7 :
    let r : GcpReq := rq 0x0700 [5 + 65536, 1, 2]; let s : State := sRun
    (taken .none false r s = true) ∧ (domOn s (dMem (boleOf (fAt r.words 5 16 2))) = false) ∧ quiet s (fail r stNotPermitted s) = true := by decide

theorem wit_TreesAndReservationsStaged_8 :
    let r : GcpReq := rq 0x0701 [5 + 65536]; let s : State := sRun
    (taken .none false r s = true) ∧ (domOn s (dMem (boleOf (fAt r.words 5 16 2))) = false) ∧ quiet s (fail r stNotPermitted s) = true := by decide

theorem wit_TreesAndReservationsStaged_9 :
    let r : GcpReq := rq 0x0701 [5 + 65536]; let s : State := sOn
    (taken .none false r s = true) ∧ (domOn s (dMem (boleOf (fAt r.words 5 16 2))) = true) ∧ (bAt r.words 5 20 = false) ∧ quiet s (ok r (padW 8 (Maps.get [] s.stage.resv (resvKey (fAt r.words 5 16 2) (fAt r.words 5 0 14)))) s) = true := by decide

theorem wit_TreesAndReservationsStaged_10 :
    let r : GcpReq := rq 0x0701 [5 + 65536 + 2 ^ 20]; let s : State := sOn
    (taken .none false r s = true) ∧ (domOn s (dMem (boleOf (fAt r.words 5 16 2))) = true) ∧ (bAt r.words 5 20 = true) ∧ quiet s (ok r (padW 8 ((Maps.find? s.stage.resvStaged (resvKey (fAt r.words 5 16 2) (fAt r.words 5 0 14))).getD (Maps.get [] s.stage.resv (resvKey (fAt r.words 5 16 2) (fAt r.words 5 0 14))))) s) = true := by decide

theorem wit_RequestRings_1 :
    let i : Nat := 1; let v : Word := 1; let who : Requester := {}; let s : State := { sOn with mgmt.rings := [(1, { reqEn := true })] }; let e : State := (if domOn s (dMem (boleOf i)) then performAll (boleOf i) (identOf i who.id who.tc) s else s)
    (e = (if domOn s (dMem (boleOf i)) then performAll (boleOf i) (identOf i who.id who.tc) s else s)) ∧ (ringUp e i = false) ∧ quiet s (e) = true := by decide

theorem wit_RequestRings_2 :
    let i : Nat := 1; let v : Word := 1; let who : Requester := {}; let s : State := { sOn with mgmt.rings := [(1, { reqEn := true })] }; let e : State := (if domOn s (dMem (boleOf i)) then performAll (boleOf i) (identOf i who.id who.tc) s else s)
    (e = (if domOn s (dMem (boleOf i)) then performAll (boleOf i) (identOf i who.id who.tc) s else s)) ∧ (ringUp e i = false) ∧ quiet s (e) = true := by decide

theorem wit_RequestRings_3 :
    let i : Nat := 1; let v : Word := 1; let who : Requester := {}; let s : State := { sOn with mgmt.rings := [(1, { reqEn := true })] }; let e : State := (if domOn s (dMem (boleOf i)) then performAll (boleOf i) (identOf i who.id who.tc) s else s)
    (e = (if domOn s (dMem (boleOf i)) then performAll (boleOf i) (identOf i who.id who.tc) s else s)) ∧ (ringUp e i = false) ∧ quiet s (e) = true := by decide

theorem wit_RequestRings_4 :
    let i : Nat := 1; let v : Word := 1; let who : Requester := {}; let s : State := { sOn with mgmt.rings := [(1, { reqEn := true })] }; let e : State := (if domOn s (dMem (boleOf i)) then performAll (boleOf i) (identOf i who.id who.tc) s else s)
    (e = (if domOn s (dMem (boleOf i)) then performAll (boleOf i) (identOf i who.id who.tc) s else s)) ∧ (ringUp e i = false) ∧ quiet s (e) = true := by decide

theorem wit_RequestRings_5 :
    let i : Nat := 1; let v : Word := 1; let who : Requester := { id := 7, tc := 2 }; let s : State := { sOn with mgmt.rings := [(1, { reqEn := true, rplEn := true, reqLog := 5 })], hs.ports := [(1, { st := .up })] }; let e : State := (if domOn s (dMem (boleOf i)) then performAll (boleOf i) (identOf i who.id who.tc) s else s)
    (e = (if domOn s (dMem (boleOf i)) then performAll (boleOf i) (identOf i who.id who.tc) s else s)) ∧ (ringUp e i = true) ∧ quiet s ((if i < 4 then crossD2d (boleOf i) (identHost i who.id who.tc) (.ring i 0x0C v) (fun u => askRing i (updRing i (fun g => { g with reqTail := v }) u)) e else (fun u => askRing i (updRing i (fun g => { g with reqTail := v }) u)) e)) = true := by decide +kernel

theorem wit_RequestRings_6 :
    let v : Word := 1; let who : Requester := { id := 3 }; let s : State := { sOn with mgmt.rings := [(4, { reqEn := true, rplEn := true, reqLog := 5 })], pw.hmTrained := true }; let e : State := (if domOn s (dMem (boleOf 4)) then performAll (boleOf 4) (identOf 4 who.id who.tc) s else s)
    (e = (if domOn s (dMem (boleOf 4)) then performAll (boleOf 4) (identOf 4 who.id who.tc) s else s)) ∧ (ringUp e 4 = true) ∧ (ringServes (updRing 4 (fun g => { g with reqTail := v }) e) 4 = true) ∧ ((ring e 4).reading = false) ∧ ((ring e 4).reqHead ≠ v) ∧ ((ring (updRing 4 (fun g => { g with reqTail := v }) e) 4) = { ring e 4 with reqTail := v }) ∧ quiet s (updRing 4 (fun g => { g with reading := true }) (emit (.hostRead 4 0 ((ring e 4).reqBaseHi.toNat * 2 ^ 32 + (ring e 4).reqBaseLo.toNat + 64 * ((ring e 4).reqHead.toNat % 2 ^ ringLog (ring e 4).reqLog)) 64 (devCtl e 4 0).2) (updRing 4 (fun g => { g with reqTail := v }) e))) = true := by decide

theorem wit_RequestRings_7 :
    let i : Nat := 1; let v : Word := 0x105; let who : Requester := { id := 7, tc := 2 }; let s : State := { sOn with mgmt.rings := [(1, { reqTail := 7 })], hs.ports := [(1, { st := .up })] }; let e : State := (if domOn s (dMem (boleOf i)) then performAll (boleOf i) (identOf i who.id who.tc) s else s)
    (e = (if domOn s (dMem (boleOf i)) then performAll (boleOf i) (identOf i who.id who.tc) s else s)) ∧ (ringUp e i = true) ∧ (bitW v 8 = true) ∧ quiet s ((if i < 4 then crossD2d (boleOf i) (identHost i who.id who.tc) (.ring i 0x08 v) (fun u => askRing i (updRing i (fun g => if (ring u i).reqEn then { g with reqLog := fld v 0 4, reqEn := true } else { g with reqLog := fld v 0 4, reqEn := true, reqHead := 0, reqTail := 0 }) u)) e else (fun u => askRing i (updRing i (fun g => if (ring u i).reqEn then { g with reqLog := fld v 0 4, reqEn := true } else { g with reqLog := fld v 0 4, reqEn := true, reqHead := 0, reqTail := 0 }) u)) e)) = true := by decide +kernel

theorem wit_RequestRings_8 :
    let i : Nat := 1; let v : Word := 5; let who : Requester := { id := 7, tc := 2 }; let s : State := { sOn with mgmt.rings := [(1, { reqTail := 7, reqEn := true })], hs.ports := [(1, { st := .up })] }; let e : State := (if domOn s (dMem (boleOf i)) then performAll (boleOf i) (identOf i who.id who.tc) s else s)
    (e = (if domOn s (dMem (boleOf i)) then performAll (boleOf i) (identOf i who.id who.tc) s else s)) ∧ (ringUp e i = true) ∧ (bitW v 8 = false) ∧ quiet s ((if i < 4 then crossD2d (boleOf i) (identHost i who.id who.tc) (.ring i 0x08 v) (fun u => updRing i (fun g => { g with reqLog := fld v 0 4, reqEn := false, reading := false }) u) e else (fun u => updRing i (fun g => { g with reqLog := fld v 0 4, reqEn := false, reading := false }) u) e)) = true := by decide +kernel

theorem wit_RequestRings_9 :
    let i : Nat := 1; let v : Word := 5; let who : Requester := { id := 7, tc := 2 }; let s : State := { sOn with mgmt.rings := [(1, { waiting := [[1], [2]], rplEn := true })], hs.ports := [(1, { st := .up })] }; let e : State := (if domOn s (dMem (boleOf i)) then performAll (boleOf i) (identOf i who.id who.tc) s else s)
    (e = (if domOn s (dMem (boleOf i)) then performAll (boleOf i) (identOf i who.id who.tc) s else s)) ∧ (ringUp e i = true) ∧ (bitW v 17 = false) ∧ quiet s ((if i < 4 then crossD2d (boleOf i) (identHost i who.id who.tc) (.ring i 0x28 v) (fun u => (List.range (ring u i).waiting.length).foldl (fun u _ => ringErr 9 u) (updRing i (fun g => { g with rplLog := fld v 0 4, vec := fld v 5 11, intrEn := bitW v 16, rplEn := false, waiting := [], reading := false }) u)) e else (fun u => (List.range (ring u i).waiting.length).foldl (fun u _ => ringErr 9 u) (updRing i (fun g => { g with rplLog := fld v 0 4, vec := fld v 5 11, intrEn := bitW v 16, rplEn := false, waiting := [], reading := false }) u)) e)) = true := by decide +kernel

theorem wit_RequestRings_10 :
    let i : Nat := 1; let v : Word := 0x20045; let who : Requester := { id := 7, tc := 2 }; let s : State := { sOn with mgmt.rings := [(1, { waiting := [[1]] })], hs.ports := [(1, { st := .up })] }; let e : State := (if domOn s (dMem (boleOf i)) then performAll (boleOf i) (identOf i who.id who.tc) s else s)
    (e = (if domOn s (dMem (boleOf i)) then performAll (boleOf i) (identOf i who.id who.tc) s else s)) ∧ (ringUp e i = true) ∧ (bitW v 17 = true) ∧ quiet s ((if i < 4 then crossD2d (boleOf i) (identHost i who.id who.tc) (.ring i 0x28 v) (fun u => askRing i (updRing i (fun g => { g with rplLog := fld v 0 4, vec := fld v 5 11, intrEn := bitW v 16, rplEn := true }) u)) e else (fun u => askRing i (updRing i (fun g => { g with rplLog := fld v 0 4, vec := fld v 5 11, intrEn := bitW v 16, rplEn := true }) u)) e)) = true := by decide +kernel

theorem wit_RequestRings_11 :
    let i : Nat := 1; let v : Word := 3; let who : Requester := { id := 7, tc := 2 }; let s : State := { sOn with mgmt.rings := [(1, { waiting := [[1]], rplEn := true, written := 16 })], hs.ports := [(1, { st := .up })] }; let e : State := (if domOn s (dMem (boleOf i)) then performAll (boleOf i) (identOf i who.id who.tc) s else s)
    (e = (if domOn s (dMem (boleOf i)) then performAll (boleOf i) (identOf i who.id who.tc) s else s)) ∧ (ringUp e i = true) ∧ quiet s ((if i < 4 then crossD2d (boleOf i) (identHost i who.id who.tc) (.ring i 0x2C v) (fun u => askRing i (drainReplies ((ring (updRing i (fun g => { g with rplHead := v }) u) i).waiting.length) i (updRing i (fun g => { g with rplHead := v }) u))) e else (fun u => askRing i (drainReplies ((ring (updRing i (fun g => { g with rplHead := v }) u) i).waiting.length) i (updRing i (fun g => { g with rplHead := v }) u))) e)) = true := by decide +kernel

theorem wit_RequestRings_12 :
    let v : Word := 3; let w : List Word := [1]; let who : Requester := { id := 3 }; let s : State := { sOn with mgmt.rings := [(4, { waiting := [[1]], rplEn := true, written := 16 })], pw.hmTrained := true }; let e : State := (if domOn s (dMem (boleOf 4)) then performAll (boleOf 4) (identOf 4 who.id who.tc) s else s)
    (e = (if domOn s (dMem (boleOf 4)) then performAll (boleOf 4) (identOf 4 who.id who.tc) s else s)) ∧ (ringUp e 4 = true) ∧ ((ring e 4).waiting = [w]) ∧ ((ring e 4).reqEn = false) ∧ ((ring e 4).intrEn = false) ∧ (ringFull { ring e 4 with rplHead := v } = false) ∧ quiet s (ringWrite 4 w (updRing 4 (fun g => { g with waiting := [] }) (updRing 4 (fun g => { g with rplHead := v }) e))) = true := by decide

theorem wit_RequestRings_13 :
    let i : Nat := 1; let ws : List Word := [2]; let data : Option (List Word) := none; let s : State := { sOn with mgmt.rings := [(1, { reading := true, reqEn := true, rplEn := true })], hs.ports := [(1, { st := .up })] }
    (ringUp s i = true) ∧ ((ring s i).reading = true) ∧ (s.mgmt.fw = .running ∨ s.mgmt.fw = .recovery) ∧ (bAt ws 1 0 = false ∨ data.isSome = true) ∧ quiet s (askRing i (runGcp { via := ringVia i, words := padW 16 ws, data := data.getD [] } (updRing i (fun g => { g with reading := false, reqHead := g.reqHead + 1 }) s))) = true := by decide +kernel

theorem wit_RequestRings_14 :
    let i : Nat := 1; let ws : List Word := [0x100, 1, 8]; let s : State := { sOn with mgmt.rings := [(1, { reading := true, reqEn := true, rplEn := true })], hs.ports := [(1, { st := .up })] }
    (ringUp s i = true) ∧ ((ring s i).reading = true) ∧ (s.mgmt.fw = .running ∨ s.mgmt.fw = .recovery) ∧ (bAt ws 1 0 = true) ∧ quiet s (askRing i (runGcp { via := ringVia i, words := padW 16 ws, dataErr := true } (if i < 4 then dmaErr i (updRing i (fun g => { g with reading := false, reqHead := g.reqHead + 1 }) s) else updRing i (fun g => { g with reading := false, reqHead := g.reqHead + 1 }) s))) = true := by decide +kernel

theorem wit_RequestRings_15 :
    let i : Nat := 1; let s : State := { sOn with mgmt.rings := [(1, { reading := true, reqEn := true, rplEn := true })], hs.ports := [(1, { st := .up })] }
    (ringUp s i = true) ∧ ((ring s i).reading = true) ∧ (s.mgmt.fw = .running ∨ s.mgmt.fw = .recovery) ∧ quiet s (askRing i (ringErr 9 (if i < 4 then dmaErr i (updRing i (fun g => { g with reading := false, reqHead := g.reqHead + 1 }) s) else updRing i (fun g => { g with reading := false, reqHead := g.reqHead + 1 }) s))) = true := by decide +kernel

theorem wit_RequestRings_16 :
    let i : Nat := 1; let ws : Option (List Word) := none; let data : Option (List Word) := none; let s : State := { sOn with mgmt.rings := [(1, { reqHead := 3, reqTail := 3 })], hs.ports := [(1, { st := .up })] }
    (ringUp s i = false ∨ (ring s i).reading = false ∨ (s.mgmt.fw ≠ .running ∧ s.mgmt.fw ≠ .recovery)) ∧ quiet s (updRing i (fun g => { g with reading := false }) s) = true := by decide

theorem wit_RequestRings_17 :
    let id : Nat := 0; let c : Cmd := { id := 0, req := rq 0x0103 [] }; let s : State := { sRun with mgmt.cmds := [{ id := 0, req := rq 0x0103 [] }] }
    (s.mgmt.cmds.find? (fun c => c.id == id && !c.pended) = some c) ∧ (c.req.secured = false) ∧ quiet s (sendReply c.req (replyWords (wAt c.req.words 0) stPending 0 0 0 []) [] { s with mgmt.cmds := s.mgmt.cmds.map (fun x => if x.id = id then { x with pended := true } else x) }) = true := by decide

theorem wit_RequestRings_18 :
    let id : Nat := 0; let c : Cmd := { id := 0, req := rqS 0x0103 [] }; let s : State := { sRun with mgmt.cmds := [{ id := 0, req := rqS 0x0103 [] }] }
    (s.mgmt.cmds.find? (fun c => c.id == id && !c.pended) = some c) ∧ (c.req.secured = true) ∧ quiet s (sendReply c.req (outerReply c.req (replyWords (wAt c.req.words 0) stPending 0 0 0 [])).1 (outerReply c.req (replyWords (wAt c.req.words 0) stPending 0 0 0 [])).2 { s with mgmt.cmds := s.mgmt.cmds.map (fun x => if x.id = id then { x with pended := true } else x) }) = true := by decide

theorem wit_RequestRings_19 :
    let id : Nat := 0; let c : Waiting := { id := 0, req := rq 0x0103 [] }; let s : State := { sRun with mgmt.cmds := [{ id := 1, req := rq 0x0103 [] }], mgmt.waitq := [{ id := 0, req := rq 0x0103 [] }] }
    (s.mgmt.cmds.find? (fun c => c.id == id && !c.pended) = none) ∧ (s.mgmt.waitq.find? (fun c => c.id == id && !c.pended) = some c) ∧ (c.req.secured = false) ∧ quiet s (sendReply c.req (replyWords (wAt c.req.words 0) stPending 0 0 0 []) [] { s with mgmt.waitq := s.mgmt.waitq.map (fun x => if x.id = id then { x with pended := true } else x) }) = true := by decide

theorem wit_RequestRings_20 :
    let id : Nat := 0; let c : Waiting := { id := 0, req := rqS 0x0103 [] }; let s : State := { sRun with mgmt.cmds := [{ id := 1, req := rq 0x0103 [] }], mgmt.waitq := [{ id := 0, req := rqS 0x0103 [] }] }
    (s.mgmt.cmds.find? (fun c => c.id == id && !c.pended) = none) ∧ (s.mgmt.waitq.find? (fun c => c.id == id && !c.pended) = some c) ∧ (c.req.secured = true) ∧ quiet s (sendReply c.req (outerReply c.req (replyWords (wAt c.req.words 0) stPending 0 0 0 [])).1 (outerReply c.req (replyWords (wAt c.req.words 0) stPending 0 0 0 [])).2 { s with mgmt.waitq := s.mgmt.waitq.map (fun x => if x.id = id then { x with pended := true } else x) }) = true := by decide

theorem wit_RequestRings_21 :
    let id : Nat := 0; let s : State := sRun
    (s.mgmt.cmds.find? (fun c => c.id == id && !c.pended) = none) ∧ (s.mgmt.waitq.find? (fun c => c.id == id && !c.pended) = none) ∧ quiet s (s) = true := by decide

theorem wit_I3cAndInBand_1 :
    let bytes : List Byte := wBytes (rq 0x0002 []).words; let s : State := sRun
    (s.mgmt.i3cReqs = []) ∧ (bytes.length = 64) ∧ (i3cServes s = true) ∧ quiet s (runGcp { via := .i3c, words := bWords 16 bytes } s) = true := by decide

theorem wit_I3cAndInBand_2 :
    let bytes : List Byte := wBytes (rq 0x0002 []).words; let s : State := { sRun with mgmt.fw := .boot }
    (s.mgmt.i3cReqs.length < 4) ∧ (bytes.length = 64) ∧ (i3cServes s = false) ∧ quiet s ({ s with mgmt.i3cReqs := s.mgmt.i3cReqs ++ [bWords 16 bytes] }) = true := by decide

theorem wit_I3cAndInBand_3 :
    let bytes : List Byte := [1]; let s : State := { sRun with mgmt.i3cReqs := [[1], [2], [3], [4]], mgmt.fw := .boot }
    (4 ≤ s.mgmt.i3cReqs.length) ∧ quiet s (emit .i3cNack s) = true := by decide

theorem wit_I3cAndInBand_4 :
    let bytes : List Byte := [1]; let s : State := sRun
    (s.mgmt.i3cReqs.length < 4) ∧ (bytes.length ≠ 64) ∧ quiet s (ringErr 8 s) = true := by decide

theorem wit_I3cAndInBand_5 :
    let s : State := sRun
    (s.mgmt.i3cRpls = []) ∧ quiet s (emit .i3cNack s) = true := by decide

theorem wit_I3cAndInBand_6 :
    let ws : List Word := [1]; let x : List Word := [2]; let tl : List (List Word) := []; let s : State := { sRun with mgmt.i3cRpls := [[1], [2]] }
    (s.mgmt.i3cRpls = ws :: x :: tl) ∧ quiet s (emit (.ibi 0xA5) (emit (.readData 5 0 (some (wBytes ws))) { s with mgmt.i3cRpls := x :: tl })) = true := by decide

theorem wit_I3cAndInBand_7 :
    let ws : List Word := [1]; let s : State := { sRun with mgmt.i3cRpls := [[1]] }
    (s.mgmt.i3cRpls = [ws]) ∧ quiet s (emit (.readData 5 0 (some (wBytes ws))) { s with mgmt.i3cRpls := [] }) = true := by decide

theorem wit_I3cAndInBand_8 :
    let addr : BitVec 7 := 0x21; let s : State := State.reset
    (s.mgmt.i3cAddr = none) ∧ quiet s (emit (.i3cId ((Config.i3cPid &&& 0xFFFF0000FFFF) ||| 0x06400000)) { s with mgmt.i3cAddr := some addr }) = true := by exact ⟨rfl, rfl⟩

theorem wit_I3cAndInBand_9 :
    let addr : BitVec 7 := 0x21; let old : BitVec 7 := 9; let s : State := { State.reset with mgmt.i3cAddr := some 9 }
    (s.mgmt.i3cAddr = some old) ∧ quiet s ({ s with mgmt.i3cAddr := some addr }) = true := by decide

set_option maxRecDepth 100000 in
theorem wit_I3cAndInBand_10 :
    let p : Packet := sealPkt { dest := 0x10, src := 0x55, cls := 3, lenCells := 0, ptype := 0x50, extMask := 0x40, ext := [7, 0x55, 0, 0], payload := wBytes (rq 0x0002 []).words }; let s : State := State.reset
    (s.mgmt.fw ≠ .running) ∧ quiet s (freeInternal xM p s) = true := by decide +kernel

theorem wit_I3cAndInBand_11 :
    let p : Packet := { dest := 0x10, src := 0x55, cls := 3, lenCells := 9, ptype := 0x50 }; let s : State := sOn
    (s.mgmt.fw = .running) ∧ (lenOk p = false) ∧ quiet s (mgtBad 6 (freeInternal xM p s)) = true := by decide

set_option maxRecDepth 100000 in
theorem wit_I3cAndInBand_12 :
    let p : Packet := { sealPkt { dest := 0x10, src := 0x55, cls := 3, lenCells := 0, ptype := 0x50, extMask := 0x40, ext := [7, 0x55, 0, 0], payload := wBytes (rq 0x0002 []).words } with e2e := 0 }; let s : State := sOn
    (s.mgmt.fw = .running) ∧ (lenOk p = true) ∧ (e2eGood p = false) ∧ quiet s (mgtBad 7 (freeInternal xM p s)) = true := by decide +kernel

set_option maxRecDepth 100000 in
theorem wit_I3cAndInBand_13 :
    let p : Packet := sealPkt { dest := 0x10, src := 0x55, cls := 3, lenCells := 0, ptype := 0x51, extMask := 0x40, ext := [7, 0x55, 0, 0], payload := wBytes [1] }; let s : State := sOn
    (s.mgmt.fw = .running) ∧ (lenOk p = true) ∧ (e2eGood p = true) ∧ (gcpKind p = false ∨ gcpPktOk p = false) ∧ quiet s (mgtBad 6 (freeInternal xM p s)) = true := by decide +kernel

set_option maxRecDepth 100000 in
theorem wit_I3cAndInBand_14 :
    let p : Packet := sealPkt { dest := 0x10, src := 0x55, cls := 3, lenCells := 0, ptype := 0x51, extMask := 0x40, ext := [7, 0x55, 0, 0], payload := wBytes (rq 0x0002 []).words }; let s : State := sOn
    (s.mgmt.fw = .running) ∧ (lenOk p = true) ∧ (e2eGood p = true) ∧ (gcpKind p = true) ∧ (gcpPktOk p = true) ∧ (p.ptype = 0x51 ∨ p.ptype = 0x52) ∧ quiet s (freeInternal xM p s) = true := by decide +kernel

set_option maxRecDepth 100000 in
theorem wit_I3cAndInBand_15 :
    let p : Packet := sealPkt { dest := 0x10, src := 0x55, cls := 3, lenCells := 0, ptype := 0x50, extMask := 0x40, ext := [7, 0x55, 0, 0], payload := wBytes (rq 0x0002 []).words }; let s : State := { sOn with mgmt.allow := [(0, 0x56)] }
    (s.mgmt.fw = .running) ∧ (lenOk p = true) ∧ (e2eGood p = true) ∧ (gcpKind p = true) ∧ (gcpPktOk p = true) ∧ (p.ptype = 0x50) ∧ ((List.range 16).any (fun i => allowed s i != eidNone) = true) ∧ (p.src = eidNone ∨ (List.range 16).all (fun i => allowed s i != p.src) = true) ∧ quiet s (raise 305 4 (inc (mgcCtr 3) (inc (mgcCtr 2) (freeInternal xM p s)))) = true := by decide +kernel

set_option maxRecDepth 100000 in
theorem wit_I3cAndInBand_16 :
    let p : Packet := sealPkt { dest := 0x10, src := 0x55, cls := 3, lenCells := 0, ptype := 0x50, extMask := 0x40, ext := [7, 0x55, 0, 0], payload := wBytes (rq 0x0002 []).words }; let r : GcpReq := { via := .inband, words := bWords 16 (p.payload.take 64), data := bWords ((p.payload.length - 64 + 3) / 4) (p.payload.drop 64), srcEid := p.src, mseq := BitVec.ofNat 16 (Packet.extF p 6 0 0 16), replyEid := BitVec.ofNat 18 (Packet.extF p 6 1 0 18) }; let s : State := sOn
    (s.mgmt.fw = .running) ∧ (lenOk p = true) ∧ (e2eGood p = true) ∧ (gcpKind p = true) ∧ (gcpPktOk p = true) ∧ (p.ptype = 0x50) ∧ ((List.range 16).all (fun i => allowed s i == eidNone) = true) ∧ (r = { via := .inband, words := bWords 16 (p.payload.take 64), data := bWords ((p.payload.length - 64 + 3) / 4) (p.payload.drop 64), srcEid := p.src, mseq := BitVec.ofNat 16 (Packet.extF p 6 0 0 16), replyEid := BitVec.ofNat 18 (Packet.extF p 6 1 0 18) }) ∧ quiet s ((if openOp (opcodeOf r) then runGcp r (inc (mgcCtr 2) (freeInternal xM p s)) else fail r stNotPermitted (inc (mgcCtr 2) (freeInternal xM p s)))) = true := by decide +kernel

set_option maxRecDepth 100000 in
theorem wit_I3cAndInBand_17 :
    let p : Packet := sealPkt { dest := 0x10, src := 0x55, cls := 3, lenCells := 0, ptype := 0x50, extMask := 0x40, ext := [7, 0x55, 0, 0], payload := wBytes (rq 0x0002 []).words }; let r : GcpReq := { via := .inband, words := bWords 16 (p.payload.take 64), data := bWords ((p.payload.length - 64 + 3) / 4) (p.payload.drop 64), srcEid := p.src, mseq := BitVec.ofNat 16 (Packet.extF p 6 0 0 16), replyEid := BitVec.ofNat 18 (Packet.extF p 6 1 0 18) }; let s : State := { sOn with mgmt.allow := [(0, 0x55)], mgmt.mseqs := [(0x55, 5, some ([1], [])), (0x56, 9, none)] }
    (s.mgmt.fw = .running) ∧ (lenOk p = true) ∧ (e2eGood p = true) ∧ (gcpKind p = true) ∧ (gcpPktOk p = true) ∧ (p.ptype = 0x50) ∧ ((List.range 16).any (fun i => allowed s i == p.src && allowed s i != eidNone) = true) ∧ ((s.mgmt.mseqs.filter (fun e => e.1 == p.src)).all (fun e => e.2.1 != r.mseq) = true) ∧ ((s.mgmt.mseqs.filter (fun e => e.1 == p.src)).head?.all (fun e => e.2.1 != r.mseq && decide ((r.mseq - e.2.1).toNat < 32768)) = true) ∧ (r = { via := .inband, words := bWords 16 (p.payload.take 64), data := bWords ((p.payload.length - 64 + 3) / 4) (p.payload.drop 64), srcEid := p.src, mseq := BitVec.ofNat 16 (Packet.extF p 6 0 0 16), replyEid := BitVec.ofNat 18 (Packet.extF p 6 1 0 18) }) ∧ quiet s (runGcp r { inc (mgcCtr 2) (freeInternal xM p s) with mgmt := { (inc (mgcCtr 2) (freeInternal xM p s)).mgmt with mseqs := (p.src, r.mseq, none) :: (s.mgmt.mseqs.filter (fun e => e.1 == p.src)).take 7 ++ s.mgmt.mseqs.filter (fun e => e.1 != p.src) } }) = true := by decide +kernel

set_option maxRecDepth 100000 in
theorem wit_I3cAndInBand_18 :
    let p : Packet := sealPkt { dest := 0x10, src := 0x55, cls := 3, lenCells := 0, ptype := 0x50, extMask := 0x40, ext := [7, 0x55, 0, 0], payload := wBytes (rq 0x0002 []).words }; let n : BitVec 16 := 7; let ws : List Word := [1]; let data : List Word := []; let s : State := { sOn with mgmt.allow := [(0, 0x55)], mgmt.mseqs := [(0x55, 7, some ([1], []))] }
    (s.mgmt.fw = .running) ∧ (lenOk p = true) ∧ (e2eGood p = true) ∧ (gcpKind p = true) ∧ (gcpPktOk p = true) ∧ (p.ptype = 0x50) ∧ ((List.range 16).any (fun i => allowed s i == p.src && allowed s i != eidNone) = true) ∧ (n = BitVec.ofNat 16 (Packet.extF p 6 0 0 16)) ∧ ((s.mgmt.mseqs.filter (fun e => e.1 == p.src)).find? (fun e => e.2.1 == n) = some (p.src, n, some (ws, data))) ∧ quiet s (sendMgt (if Packet.extF p 6 1 0 18 = 2 ^ 18 - 1 then p.src else BitVec.ofNat 18 (Packet.extF p 6 1 0 18)) 0x51 n ws data (inc (mgcCtr 5) (inc (mgcCtr 2) (freeInternal xM p s)))) = true := by decide +kernel

set_option maxRecDepth 100000 in
theorem wit_I3cAndInBand_19 :
    let p : Packet := sealPkt { dest := 0x10, src := 0x55, cls := 3, lenCells := 0, ptype := 0x50, extMask := 0x40, ext := [7, 0x55, 0, 0], payload := wBytes (rq 0x0002 []).words }; let n : BitVec 16 := 7; let s : State := { sOn with mgmt.allow := [(0, 0x55)], mgmt.mseqs := [(0x55, 7, none)] }
    (s.mgmt.fw = .running) ∧ (lenOk p = true) ∧ (e2eGood p = true) ∧ (gcpKind p = true) ∧ (gcpPktOk p = true) ∧ (p.ptype = 0x50) ∧ ((List.range 16).any (fun i => allowed s i == p.src && allowed s i != eidNone) = true) ∧ (n = BitVec.ofNat 16 (Packet.extF p 6 0 0 16)) ∧ ((s.mgmt.mseqs.filter (fun e => e.1 == p.src)).find? (fun e => e.2.1 == n) = some (p.src, n, none)) ∧ quiet s (inc (mgcCtr 5) (inc (mgcCtr 2) (freeInternal xM p s))) = true := by decide +kernel

set_option maxRecDepth 100000 in
theorem wit_I3cAndInBand_20 :
    let p : Packet := sealPkt { dest := 0x10, src := 0x55, cls := 3, lenCells := 0, ptype := 0x50, extMask := 0x40, ext := [7, 0x55, 0, 0], payload := wBytes (rq 0x0002 []).words }; let n : BitVec 16 := 7; let k : BitVec 16 := 9; let x : Option (List Word × List Word) := none; let s : State := { sOn with mgmt.allow := [(0, 0x55)], mgmt.mseqs := [(0x55, 9, none)] }
    (s.mgmt.fw = .running) ∧ (lenOk p = true) ∧ (e2eGood p = true) ∧ (gcpKind p = true) ∧ (gcpPktOk p = true) ∧ (p.ptype = 0x50) ∧ ((List.range 16).any (fun i => allowed s i == p.src && allowed s i != eidNone) = true) ∧ (n = BitVec.ofNat 16 (Packet.extF p 6 0 0 16)) ∧ ((s.mgmt.mseqs.filter (fun e => e.1 == p.src)).head? = some (p.src, k, x)) ∧ ((s.mgmt.mseqs.filter (fun e => e.1 == p.src)).all (fun e => e.2.1 != n) = true) ∧ (32768 ≤ (n - k).toNat) ∧ quiet s (mgtBad 4 (inc (mgcCtr 2) (freeInternal xM p s))) = true := by decide +kernel

theorem wit_I3cAndInBand_21 :
    let ir : Nat := 1; let tdi : List Bool := [true]; let s : State := sRun
    quiet s ({ s with pw.tap := {} }) = true := by decide

theorem wit_I3cAndInBand_22 :
    let tdi : List Bool := [true, false]; let s : State := sRun
    quiet s (emit (.jtag 1 (((List.range 32).map (fun i => bitW 0x20640001 i) ++ tdi).take tdi.length)) { s with pw.tap := { s.pw.tap with ir := 1 } }) = true := by decide

theorem wit_I3cAndInBand_23 :
    let ir : Nat := 9; let tdi : List Bool := [true, false]; let s : State := sRun
    (ir = 0xFF ∨ (5 ≤ ir ∧ s.heart.debugOpen = false)) ∧ quiet s (emit (.jtag 0xFF ((false :: tdi).take tdi.length)) { s with pw.tap := { s.pw.tap with ir := 0xFF, bypass := tdi.getLastD false } }) = true := by decide

theorem wit_I3cAndInBand_24 :
    let ir : Nat := 2; let tdi : List Bool := [true, false]; let s : State := sRun
    (ir = 0 ∨ ir = 2 ∨ ir = 3 ∨ ir = 4) ∧ quiet s (emit (.jtag ir (((List.range tdi.length).map (Config.jtagCapture ir s.out.length) ++ tdi).take tdi.length)) { s with pw.tap := { s.pw.tap with ir := ir, boundary := tdi } }) = true := by decide

theorem wit_I3cAndInBand_25 :
    let ir : Nat := 9; let tdi : List Bool := [true, false]; let s : State := { sRun with heart.debugOpen := true }
    (5 ≤ ir) ∧ (ir ≠ 0xFF) ∧ (s.heart.debugOpen = true) ∧ quiet s (emit (.jtag ir (((List.range tdi.length).map (Config.jtagCapture ir s.out.length) ++ tdi).take tdi.length)) { s with pw.tap := { s.pw.tap with ir := ir } }) = true := by decide

theorem wit_RegisterWrites_1 :
    let off : Nat := 0x128; let v : Word := 5; let a : Access := { size := 8 }; let s : State := sOn
    quiet s (s) = true := by decide

theorem wit_RegisterWrites_2 :
    let h : Nat := 1; let off : Nat := 0x10000; let v : Word := 0x12345678; let m : Nat := 0xFFFFF000; let who : Requester := { id := 3 }; let s : State := { sOn with hs.ports := [(1, { st := .up })] }
    (off % 4 = 0) ∧ ((hport s h).st = .up) ∧ (maskIn plainRw off = some m) ∧ (domOn s (dMem (boleOf h)) = true) ∧ (wbufOf s (boleOf h) = []) ∧ quiet s (barSet (hostKey h 0 off) (v &&& w32 m) s) = true := by decide

theorem wit_RegisterWrites_3 :
    let h : Nat := 1; let fn : Nat := 0; let off : Nat := 0x10002; let v : Word := 0x5678; let hi : Word := 0; let size : Nat := 2; let who : Requester := { id := 3 }; let s : State := { sOn with hs.ports := [(1, { st := .up })] }
    ((hport s h).st = .up) ∧ (fn ≤ (hport s h).numVfs) ∧ (off % size = 0) ∧ (size = 1 ∨ size = 2 ∨ size = 4 ∨ size = 8) ∧ quiet s (wrPiece (.bar0 h fn) off (leBytes size (v.toNat + 2 ^ 32 * hi.toNat)) who (if domOn s (dMem (boleOf h)) then performAll (boleOf h) (identOf h who.id who.tc) s else s)) = true := by decide

theorem wit_RegisterWrites_4 :
    let h : Nat := 1; let fn : Nat := 3; let off : Nat := 0x10000; let v : Word := 1; let a : Access := {}; let s : State := { sOn with hs.ports := [(1, { st := .up, numVfs := 2 })] }
    ((hport s h).st ≠ .up ∨ (hport s h).numVfs < fn) ∧ quiet s (s) = true := by decide

theorem wit_RegisterWrites_5 :
    let h : Nat := 1; let w : CfgWrite := .other; let s : State := { sRun with hs.ports := [(1, { st := .notReady })] }
    (s.pw.stopped = false) ∧ ((hport s h).st = .notReady) ∧ quiet s (emit (.pcie h 1) (inc (hptCtr h 6) s)) = true := by decide

theorem wit_RegisterWrites_6 :
    let h : Nat := 1; let w : CfgWrite := .other; let s : State := sRun
    (s.pw.stopped = true ∨ ((hport s h).st ≠ .notReady ∧ (hport s h).st ≠ .up)) ∧ quiet s (s) = true := by decide

theorem wit_RegisterWrites_7 :
    let h : Nat := 1; let w : CfgWrite := .read 3 0; let s : State := { sOn with hs.ports := [(1, { st := .up, numVfs := 2 })] }
    (s.pw.stopped = false) ∧ ((hport s h).st = .up) ∧ ((hport s h).numVfs < cfgFn w) ∧ quiet s (emit (.pcie h 2) s) = true := by decide

theorem wit_RegisterWrites_8 :
    let h : Nat := 1; let fn : Nat := 2; let base : Option Nat := some 0x100000; let s : State := { sOn with hs.ports := [(1, { st := .up, numVfs := 2 })] }
    (s.pw.stopped = false) ∧ ((hport s h).st = .up) ∧ (fn ≤ (hport s h).numVfs) ∧ quiet s (emit (.pcie h 0) (updHost h (fun p => { p with bar4 := Maps.put none p.bar4 fn base }) s)) = true := by decide

theorem wit_RegisterWrites_9 :
    let h : Nat := 1; let fn : Nat := 2; let relax : Bool := false; let byId : Bool := true; let s : State := { sOn with hs.ports := [(1, { st := .up, numVfs := 2 })] }
    (s.pw.stopped = false) ∧ ((hport s h).st = .up) ∧ (fn ≤ (hport s h).numVfs) ∧ quiet s (emit (.pcie h 0) (updHost h (fun p => { p with devCtl := Maps.put (true, false) p.devCtl fn (relax, byId) }) s)) = true := by decide

theorem wit_RegisterWrites_10 :
    let h : Nat := 1; let fn : Nat := 2; let en : Bool := true; let mask : Bool := false; let s : State := { sOn with hs.ports := [(1, { st := .up, numVfs := 2 })] }
    (s.pw.stopped = false) ∧ ((hport s h).st = .up) ∧ (fn ≤ (hport s h).numVfs) ∧ (s.ev.msixPend = []) ∧ quiet s (emit (.pcie h 0) (updHost h (fun p => { p with msixCtl := Maps.put (false, false) p.msixCtl fn (en, mask) }) s)) = true := by decide

theorem wit_RegisterWrites_11 :
    let h : Nat := 1; let n : Nat := 300; let s : State := { sOn with hs.ports := [(1, { st := .up, numVfs := 2 })] }
    (s.pw.stopped = false) ∧ ((hport s h).st = .up) ∧ (n ≠ 0 ∨ (hport s h).numVfs = 0) ∧ quiet s (emit (.pcie h 0) (updHost h (fun p => { p with numVfs := min n 255 }) s)) = true := by decide

set_option maxRecDepth 100000 in
theorem wit_RegisterWrites_12 :
    let h : Nat := 1; let s : State := { sOn with hs.ports := [(1, { st := .up, numVfs := 2 })] }
    (s.pw.stopped = false) ∧ ((hport s h).st = .up) ∧ ((hport s h).numVfs ≠ 0) ∧ quiet s (emit (.pcie h 0) (updHost h (fun p => { p with numVfs := 0 }) (cleanup (flrScope h 0 true) s))) = true := by decide +kernel

theorem wit_RegisterWrites_13 :
    let h : Nat := 1; let fn : Nat := 2; let reg : Nat := 0; let w : Word := 0x0640E47A; let s : State := { sOn with hs.ports := [(1, { st := .up, numVfs := 2 })] }
    (s.pw.stopped = false) ∧ ((hport s h).st = .up) ∧ (fn ≤ (hport s h).numVfs) ∧ ((reg = 0 ∧ w = 0x0640E47A) ∨ (reg = 8 ∧ w = 0x02800002)) ∧ (h < 4) ∧ quiet s (emit (.pcie h 0) (emit (.cfgData h fn reg w) s)) = true := by decide

theorem wit_RegisterWrites_14 :
    let h : Nat := 1; let fn : Nat := 0; let reg : Nat := 0x20; let w : Word := 0xFF80000C; let s : State := { sOn with hs.ports := [(1, { st := .up, numVfs := 2 })] }
    (s.pw.stopped = false) ∧ ((hport s h).st = .up) ∧ (fn ≤ (hport s h).numVfs) ∧ (cfgSize h reg = some w) ∧ quiet s (emit (.pcie h 0) (emit (.cfgData h fn reg w) s)) = true := by decide

theorem wit_RegisterWrites_15 :
    let w : CfgWrite := .other; let s : State := { sRun with pw.hmPerst := false }
    (s.pw.hmPerst = false) ∧ (s.pw.hmTrained = false) ∧ quiet s (emit (.pcie 4 1) s) = true := by decide

theorem wit_RegisterWrites_16 :
    let w : CfgWrite := .other; let s : State := { sRun with pw.hmPerst := true }
    (s.pw.hmPerst = true) ∧ quiet s (s) = true := by decide

theorem wit_RegisterWrites_17 :
    let w : CfgWrite := .read 1 0; let s : State := { sRun with pw.hmPerst := false, pw.hmTrained := true }
    (s.pw.hmPerst = false) ∧ (s.pw.hmTrained = true) ∧ (cfgFn w ≠ 0) ∧ quiet s (emit (.pcie 4 2) s) = true := by decide

theorem wit_RegisterWrites_18 :
    let reg : Nat := 0; let w : Word := 0x0648E47A; let s : State := { sRun with pw.hmPerst := false, pw.hmTrained := true }
    (s.pw.hmPerst = false) ∧ (s.pw.hmTrained = true) ∧ ((reg = 0 ∧ w = 0x0648E47A) ∨ (reg = 8 ∧ w = 0x08800002)) ∧ quiet s (emit (.pcie 4 0) (emit (.cfgData 4 0 reg w) s)) = true := by decide

theorem wit_RegisterWrites_19 :
    let off : Nat := 4; let v : Word := 9; let who : Requester := {}; let s : State := { sRun with pw.hmTrained := true }
    (off % 4 = 0) ∧ (off < 0x30) ∧ (s.pw.hmTrained = true) ∧ quiet s (ringReg 4 off v who s) = true := by decide

theorem wit_RegisterWrites_20 :
    let off : Nat := 4; let v : Word := 9; let a : Access := {}; let s : State := { sRun with pw.hmTrained := false }
    ((0x30 ≤ off ∧ a.size ≤ 8) ∨ s.pw.hmTrained = false) ∧ quiet s (s) = true := by decide

theorem wit_RegisterWrites_21 :
    let h : Nat := 1; let s : State := { sRun with hs.ports := [(1, { st := .notReady })] }
    ((hport s h).st = .up ∨ (hport s h).st = .notReady) ∧ quiet s (emit (.pcie h 2) s) = true := by decide

theorem wit_RegisterWrites_22 :
    let h : Nat := 1; let s : State := { sOn with hs.ports := [(1, { st := .up, wCorr := 64 })] }
    ((hport s h).st = .up ∨ (hport s h).st = .notReady) ∧ (s.time.now < (hport s h).wCorrAt + 1000000) ∧ ((hport s h).wCorr = 64) ∧ quiet s (hptCause h 2 (updHost h (fun p => { p with wCorr := 65 }) s)) = true := by decide

theorem wit_RegisterWrites_23 :
    let h : Nat := 1; let s : State := { sOn with hs.ports := [(1, { st := .up, wCorr := 3 })] }
    ((hport s h).st = .up ∨ (hport s h).st = .notReady) ∧ (s.time.now < (hport s h).wCorrAt + 1000000) ∧ ((hport s h).wCorr ≠ 0) ∧ ((hport s h).wCorr ≠ 64) ∧ quiet s (updHost h (fun p => { p with wCorr := (hport s h).wCorr + 1 }) s) = true := by decide

theorem wit_RegisterWrites_24 :
    let h : Nat := 1; let s : State := { sOn with hs.ports := [(1, { st := .up, wCorr := 64 })], time.now := 1000000 }
    ((hport s h).st = .up ∨ (hport s h).st = .notReady) ∧ ((hport s h).wCorrAt + 1000000 ≤ s.time.now ∨ (hport s h).wCorr = 0) ∧ quiet s (updHost h (fun p => { p with wCorr := 1, wCorrAt := s.time.now }) s) = true := by decide

theorem wit_RegisterWrites_25 :
    let h : Nat := 1; let s : State := sRun
    ((hport s h).st ≠ .up) ∧ ((hport s h).st ≠ .notReady) ∧ quiet s (s) = true := by decide

theorem wit_RegisterWrites_26 :
    let h : Nat := 1; let s : State := sRun
    ((hport s h).st ≠ .up) ∧ ((hport s h).st ≠ .notReady) ∧ quiet s (s) = true := by decide

set_option maxRecDepth 100000 in
theorem wit_ArrivalDrops_1 :
    let i : Nat := 3; let p : Packet := { dest := 5, src := 0x20, cls := 0, lenCells := 2, ptype := 1 }; let s : State := { sOn with net.ports := [(3, { st := .up, gr := { quar := true } })] }
    (i < 64) ∧ (domOn s (dPort i) = true) ∧ ((port s i).st = .up) ∧ ((port s i).rp.rx = []) ∧ ((port s i).gr.quar = true) ∧ (clsOf p ≠ 3) ∧ quiet s (creditInput i (Packet.vcOf p) (lenOf p) (inc (cnpCtr 44) (updPort i (fun x => { x with gr := { x.gr with lastData := some s.time.now } }) s))) = true := by decide +kernel

set_option maxRecDepth 100000 in
theorem wit_ArrivalDrops_2 :
    let i : Nat := 3; let p : Packet := { dest := 5, src := 6, cls := 0, lenCells := 2, ptype := 8 }; let s : State := { sOn with net.ports := [(3, { st := .up })] }
    (i < 64) ∧ (domOn s (dPort i) = true) ∧ ((port s i).st = .up) ∧ ((port s i).rp.rx = []) ∧ ((port s i).gr.quar = false) ∧ (clsOf p ≠ 3) ∧ (p.ptype = 8 ∨ p.ptype = 9) ∧ quiet s (creditInput i (Packet.vcOf p) (lenOf p) (cnpDrop 8 (updPort i (fun x => { x with gr := { x.gr with lastData := some s.time.now } }) s))) = true := by decide +kernel

set_option maxRecDepth 100000 in
theorem wit_ArrivalDrops_3 :
    let i : Nat := 3; let p : Packet := { dest := eidNone, src := 0x20, cls := 0, lenCells := 2, ptype := 1 }; let s : State := { sOn with net.ports := [(3, { st := .up })] }
    (i < 64) ∧ (domOn s (dPort i) = true) ∧ ((port s i).st = .up) ∧ ((port s i).rp.rx = []) ∧ ((port s i).gr.quar = false) ∧ (clsOf p ≠ 3) ∧ (p.ptype ≠ 8) ∧ (p.ptype ≠ 9) ∧ (p.dest = eidNone) ∧ quiet s (creditInput i (Packet.vcOf p) (lenOf p) (cnpDrop 7 (updPort i (fun x => { x with gr := { x.gr with lastData := some s.time.now } }) s))) = true := by decide +kernel

set_option maxRecDepth 100000 in
theorem wit_ArrivalDrops_4 :
    let i : Nat := 3; let p : Packet := { dest := eidNone, src := 0x20, cls := 0, lenCells := 2, ptype := 1 }; let e : Arrival := { n := 2, vc := 0 }; let s : State := { sOn with net.ports := [(3, { st := .grace, rp := { rx := [{ n := 2, vc := 0 }], rxLeft := 1 } })] }
    (i < 64) ∧ (domOn s (dPort i) = true) ∧ ((port s i).rp.rx = [e]) ∧ (e.arrived = false) ∧ (e.whole = false) ∧ ((port s i).gr.quar = false) ∧ (clsOf p ≠ 3) ∧ (p.ptype ≠ 8) ∧ (p.ptype ≠ 9) ∧ (p.dest = eidNone) ∧ quiet s (dropRx i (cnpDrop 7 (updPort i (fun x => { x with gr := { x.gr with lastData := some s.time.now } }) (updPort i (fun x => { x with rp := { x.rp with rx := [{ e with arrived := true }] } }) s)))) = true := by decide +kernel

set_option maxRecDepth 100000 in
theorem wit_ArrivalDrops_5 :
    let i : Nat := 64; let p : Packet := { dest := eidNone, src := 0x20, cls := 0, lenCells := 2, ptype := 1 }; let s : State := sOn
    (64 ≤ i) ∧ (i < 68) ∧ (internalUsable s i = true) ∧ (p.ptype ≠ 8) ∧ (p.ptype ≠ 9) ∧ (p.dest = eidNone) ∧ quiet s (cnpDrop 7 s) = true := by decide +kernel

set_option maxRecDepth 100000 in
theorem wit_ArrivalDrops_6 :
    let i : Nat := 64; let p : Packet := { dest := 5, src := 0x20, cls := 0, lenCells := 2, ptype := 1 }; let s : State := sOn
    (64 ≤ i) ∧ (i < 68) ∧ (internalUsable s i = true) ∧ (p.ptype ≠ 8) ∧ (p.ptype ≠ 9) ∧ (p.dest ≠ eidNone) ∧ (p.src ≠ hostEid s (i - 64)) ∧ quiet s (cnpDrop 8 s) = true := by decide +kernel

set_option maxRecDepth 100000 in
theorem wit_ArrivalDrops_7 :
    let i : Nat := 3; let p : Packet := { dest := 5, src := 0x20, cls := 0, lenCells := 2, ptype := 1, hop := 32 }; let s : State := { sOn with net.ports := [(3, { st := .up })] }
    (i < 64) ∧ (domOn s (dPort i) = true) ∧ ((port s i).st = .up) ∧ ((port s i).rp.rx = []) ∧ ((port s i).gr.quar = false) ∧ (clsOf p ≠ 3) ∧ (p.ptype ≠ 8) ∧ (p.ptype ≠ 9) ∧ (p.dest ≠ eidNone) ∧ (rwsF s 0x104 20 6 ≤ p.hop.toNat) ∧ quiet s (creditInput i (Packet.vcOf p) (lenOf p) (cnpDrop 3 (updPort i (fun x => { x with gr := { x.gr with lastData := some s.time.now } }) s))) = true := by decide +kernel

set_option maxRecDepth 100000 in
theorem wit_ArrivalDrops_8 :
    let i : Nat := 64; let p : Packet := { dest := 5, src := 0x20, cls := 0, lenCells := 2, ptype := 1, mode := 2 }; let s : State := { sOn with stage.rws := [(0x118, 0x20)] }
    (64 ≤ i) ∧ (i < 68) ∧ (internalUsable s i = true) ∧ (p.ptype ≠ 8) ∧ (p.ptype ≠ 9) ∧ (p.dest ≠ eidNone) ∧ (p.src = hostEid s (i - 64)) ∧ (p.mode = 2) ∧ (p.ptype ≠ 0x40) ∧ (p.ptype ≠ 0x41) ∧ quiet s (cnpDrop 6 s) = true := by decide +kernel

set_option maxRecDepth 100000 in
theorem wit_ArrivalDrops_9 :
    let i : Nat := 3; let p : Packet := { dest := 5, src := 0x20, cls := 0, lenCells := 2, ptype := 1, epoch := true }; let s : State := { sOn with net.ports := [(3, { st := .up })] }
    (i < 64) ∧ (domOn s (dPort i) = true) ∧ ((port s i).st = .up) ∧ ((port s i).rp.rx = []) ∧ ((port s i).gr.quar = false) ∧ (p.cls = 0) ∧ (p.ptype ≠ 8) ∧ (p.ptype ≠ 9) ∧ (p.ptype ≠ 0x40) ∧ (p.ptype ≠ 0x41) ∧ (p.dest ≠ eidNone) ∧ (p.hop.toNat < rwsF s 0x104 20 6) ∧ (p.mode ≠ 2) ∧ (p.epoch ≠ activeEpoch s) ∧ (s.stage.bank = .opened ∨ s.stage.bank = .ready ∨ s.stage.bank = .copying) ∧ quiet s (creditInput i (Packet.vcOf p) (lenOf p) (cnpDrop 4 (updPort i (fun x => { x with gr := { x.gr with lastData := some s.time.now } }) s))) = true := by decide +kernel

set_option maxRecDepth 100000 in
theorem wit_ArrivalDrops_10 :
    let i : Nat := 64; let p : Packet := { dest := 5, src := 0x20, cls := 0, lenCells := 2, ptype := 1 }; let s : State := { sOn with stage.rws := [(0x118, 0x20)], pw.dom := (List.range 95).map (fun d => (d, { st := if 64 ≤ d ∧ d < 80 then .off else .on, wasOff := false })) }
    (64 ≤ i) ∧ (i < 68) ∧ (internalUsable s i = true) ∧ (p.ptype ≠ 8) ∧ (p.ptype ≠ 9) ∧ (p.dest ≠ eidNone) ∧ (p.src = hostEid s (i - 64)) ∧ (p.mode ≠ 2) ∧ (p.cls = 0) ∧ (p.ptype ≠ 0x40) ∧ (p.ptype ≠ 0x41) ∧ (lookupBough s (homeBough i) = none) ∧ quiet s (cnpDrop 0 s) = true := by decide +kernel

theorem wit_ArrivalDrops_11 :
    let i : Nat := 3; let p : Packet := { dest := 5, src := 0x20, cls := 0, lenCells := 2, ptype := 1 }; let s : State := sOn
    ((i < 64 ∧ (domOn s (dPort i) = false ∨ ((port s i).st ≠ .up ∧ (port s i).rp.rx = []))) ∨ (64 ≤ i ∧ internalUsable s i = false)) ∧ quiet s (s) = true := by decide

set_option maxRecDepth 100000 in
theorem wit_ArrivalRouted_1 :
    let i : Nat := 64; let p : Packet := { dest := 5, src := 0x20, cls := 0, lenCells := 2, ptype := 1 }; let k : Nat := 0; let s : State := { sOn with stage.rws := [(0x118, 0x20), (0x100, 0x30), (0x104, 0x020C0840), (0x108, 0), (0x110, 0x100)], stage.ft := [], net.ports := [(3, { st := .up }), (4, { st := .up }), (8, { st := .disabled }), (9, { st := .up })], ev.ecc := [(eccRep 0, bankKey false 5)] }; let q : Packet := { p with epoch := activeEpoch s, stage := 0, hop := 0, nonmin := false, detour := eidNone }; let u : State := s; let key : Nat := (if q.detour ≠ eidNone then q.detour.toNat else q.dest.toNat); let r : State := eccRead (bghCtr k 2) (eccRep k) (bankKey (activeEpoch s) key) (if k = homeBough i then inc (bghCtr k 0) u else inc (bghCtr k 1) (inc (bghCtr k 0) u))
    ((i < 64 ∧ domOn s (dPort i) = true ∧ (port s i).st = .up ∧ (port s i).rp.rx = [] ∧ (port s i).gr.quar = false ∧ p.hop.toNat < rwsF s 0x104 20 6 ∧ q = p ∧ u = (updPort i (fun x => { x with gr := { x.gr with lastData := some s.time.now } }) s)) ∨ (64 ≤ i ∧ internalUsable s i = true ∧ (68 ≤ i ∨ p.src = hostEid s (i - 64)) ∧ (i ≠ 68 ∨ lenOf p ≤ 1) ∧ q = { p with epoch := activeEpoch s, stage := 0, hop := 0, nonmin := false, detour := eidNone } ∧ u = s)) ∧ (p.cls.toNat < 2) ∧ (p.ptype ≠ 8) ∧ (p.ptype ≠ 9) ∧ ((p.ptype ≠ 0x40 ∧ p.ptype ≠ 0x41) ∨ 68 ≤ i) ∧ (p.dest ≠ eidNone) ∧ (p.mode ≠ 2) ∧ (q.epoch = activeEpoch s) ∧ (lookupBough u (homeBough i) = some k) ∧ (key = (if q.detour ≠ eidNone then q.detour.toNat else q.dest.toNat)) ∧ (r = eccRead (bghCtr k 2) (eccRep k) (bankKey (activeEpoch s) key) (if k = homeBough i then inc (bghCtr k 0) u else inc (bghCtr k 1) (inc (bghCtr k 0) u))) ∧ (struck u (eccRep k) (bankKey (activeEpoch s) key) = true) ∧ quiet s (freePool i (Packet.vcOf p) (lenOf p) true (cnpDrop 12 (boughEcc k r))) = true := by decide +kernel

set_option maxRecDepth 100000 in
theorem wit_ArrivalRouted_2 :
    let i : Nat := 64; let p : Packet := { dest := 5, src := 0x20, cls := 0, lenCells := 2, ptype := 1 }; let k : Nat := 0; let s : State := { sOn with stage.rws := [(0x118, 0x20), (0x100, 0x30), (0x104, 0x020C0840), (0x108, 0), (0x110, 0x100)], stage.ft := [], net.ports := [(3, { st := .up }), (4, { st := .up }), (8, { st := .disabled }), (9, { st := .up })] }; let q : Packet := { p with epoch := activeEpoch s, stage := 0, hop := 0, nonmin := false, detour := eidNone }; let u : State := s; let key : Nat := (if q.detour ≠ eidNone then q.detour.toNat else q.dest.toNat); let r : State := eccRead (bghCtr k 2) (eccRep k) (bankKey (activeEpoch s) key) (if k = homeBough i then inc (bghCtr k 0) u else inc (bghCtr k 1) (inc (bghCtr k 0) u)); let w : Word := ftRead r (activeEpoch s) key
    ((i < 64 ∧ domOn s (dPort i) = true ∧ (port s i).st = .up ∧ (port s i).rp.rx = [] ∧ (port s i).gr.quar = false ∧ p.hop.toNat < rwsF s 0x104 20 6 ∧ q = p ∧ u = (updPort i (fun x => { x with gr := { x.gr with lastData := some s.time.now } }) s)) ∨ (64 ≤ i ∧ internalUsable s i = true ∧ (68 ≤ i ∨ p.src = hostEid s (i - 64)) ∧ (i ≠ 68 ∨ lenOf p ≤ 1) ∧ q = { p with epoch := activeEpoch s, stage := 0, hop := 0, nonmin := false, detour := eidNone } ∧ u = s)) ∧ (p.cls.toNat < 2) ∧ (p.ptype ≠ 8) ∧ (p.ptype ≠ 9) ∧ ((p.ptype ≠ 0x40 ∧ p.ptype ≠ 0x41) ∨ 68 ≤ i) ∧ (p.dest ≠ eidNone) ∧ (p.mode ≠ 2) ∧ (q.epoch = activeEpoch s) ∧ (lookupBough u (homeBough i) = some k) ∧ (key = (if q.detour ≠ eidNone then q.detour.toNat else q.dest.toNat)) ∧ (r = eccRead (bghCtr k 2) (eccRep k) (bankKey (activeEpoch s) key) (if k = homeBough i then inc (bghCtr k 0) u else inc (bghCtr k 1) (inc (bghCtr k 0) u))) ∧ (struck u (eccRep k) (bankKey (activeEpoch s) key) = false) ∧ (w = ftRead r (activeEpoch s) key) ∧ (ftDrop w = true) ∧ quiet s (freePool i (Packet.vcOf p) (lenOf p) true (cnpDrop 1 r)) = true := by decide +kernel

set_option maxRecDepth 100000 in
theorem wit_ArrivalRouted_3 :
    let i : Nat := 64; let p : Packet := { dest := 5, src := 0x20, cls := 0, lenCells := 2, ptype := 1 }; let k : Nat := 0; let o : Nat := 66; let s : State := { sOn with stage.rws := [(0x118, 0x20), (0x100, 0x30), (0x104, 0x020C0840), (0x108, 0), (0x110, 0x100)], stage.ft := [(5, 2 * 16)], net.ports := [(3, { st := .up }), (4, { st := .up }), (8, { st := .disabled }), (9, { st := .up })] }; let q : Packet := { p with epoch := activeEpoch s, stage := 0, hop := 0, nonmin := false, detour := eidNone }; let u : State := s; let key : Nat := (if q.detour ≠ eidNone then q.detour.toNat else q.dest.toNat); let r : State := eccRead (bghCtr k 2) (eccRep k) (bankKey (activeEpoch s) key) (if k = homeBough i then inc (bghCtr k 0) u else inc (bghCtr k 1) (inc (bghCtr k 0) u)); let w : Word := ftRead r (activeEpoch s) key
    ((i < 64 ∧ domOn s (dPort i) = true ∧ (port s i).st = .up ∧ (port s i).rp.rx = [] ∧ (port s i).gr.quar = false ∧ p.hop.toNat < rwsF s 0x104 20 6 ∧ q = p ∧ u = (updPort i (fun x => { x with gr := { x.gr with lastData := some s.time.now } }) s)) ∨ (64 ≤ i ∧ internalUsable s i = true ∧ (68 ≤ i ∨ p.src = hostEid s (i - 64)) ∧ (i ≠ 68 ∨ lenOf p ≤ 1) ∧ q = { p with epoch := activeEpoch s, stage := 0, hop := 0, nonmin := false, detour := eidNone } ∧ u = s)) ∧ (p.cls.toNat < 2) ∧ (p.ptype ≠ 8) ∧ (p.ptype ≠ 9) ∧ ((p.ptype ≠ 0x40 ∧ p.ptype ≠ 0x41) ∨ 68 ≤ i) ∧ (p.dest ≠ eidNone) ∧ (p.mode ≠ 2) ∧ (q.epoch = activeEpoch s) ∧ (lookupBough u (homeBough i) = some k) ∧ (key = (if q.detour ≠ eidNone then q.detour.toNat else q.dest.toNat)) ∧ (r = eccRead (bghCtr k 2) (eccRep k) (bankKey (activeEpoch s) key) (if k = homeBough i then inc (bghCtr k 0) u else inc (bghCtr k 1) (inc (bghCtr k 0) u))) ∧ (struck u (eccRep k) (bankKey (activeEpoch s) key) = false) ∧ (w = ftRead r (activeEpoch s) key) ∧ (ftLocal w = true) ∧ (q.detour = eidNone) ∧ (codePort (ftCand w 0) = some o) ∧ (o ≠ 68) ∧ (internalUsable r o = true) ∧ quiet s (enqueue { inp := i, out := o, vc := Packet.vcOf q, inVc := Packet.vcOf p, arrived := s.time.now, bank := some (activeEpoch s), pkt := q, whole := true } r) = true := by decide +kernel

set_option maxRecDepth 100000 in
theorem wit_ArrivalRouted_4 :
    let i : Nat := 64; let p : Packet := { dest := 5, src := 0x20, cls := 0, lenCells := 2, ptype := 1 }; let k : Nat := 0; let s : State := { sOn with stage.rws := [(0x118, 0x20), (0x100, 0x30), (0x104, 0x020C0840), (0x108, 0), (0x110, 0x100)], stage.ft := [(5, 4 * 16)], net.ports := [(3, { st := .up }), (4, { st := .up }), (8, { st := .disabled }), (9, { st := .up })] }; let q : Packet := { p with epoch := activeEpoch s, stage := 0, hop := 0, nonmin := false, detour := eidNone }; let u : State := s; let key : Nat := (if q.detour ≠ eidNone then q.detour.toNat else q.dest.toNat); let r : State := eccRead (bghCtr k 2) (eccRep k) (bankKey (activeEpoch s) key) (if k = homeBough i then inc (bghCtr k 0) u else inc (bghCtr k 1) (inc (bghCtr k 0) u)); let w : Word := ftRead r (activeEpoch s) key
    ((i < 64 ∧ domOn s (dPort i) = true ∧ (port s i).st = .up ∧ (port s i).rp.rx = [] ∧ (port s i).gr.quar = false ∧ p.hop.toNat < rwsF s 0x104 20 6 ∧ q = p ∧ u = (updPort i (fun x => { x with gr := { x.gr with lastData := some s.time.now } }) s)) ∨ (64 ≤ i ∧ internalUsable s i = true ∧ (68 ≤ i ∨ p.src = hostEid s (i - 64)) ∧ (i ≠ 68 ∨ lenOf p ≤ 1) ∧ q = { p with epoch := activeEpoch s, stage := 0, hop := 0, nonmin := false, detour := eidNone } ∧ u = s)) ∧ (p.cls.toNat < 2) ∧ (p.ptype ≠ 8) ∧ (p.ptype ≠ 9) ∧ ((p.ptype ≠ 0x40 ∧ p.ptype ≠ 0x41) ∨ 68 ≤ i) ∧ (p.dest ≠ eidNone) ∧ (p.mode ≠ 2) ∧ (q.epoch = activeEpoch s) ∧ (lookupBough u (homeBough i) = some k) ∧ (key = (if q.detour ≠ eidNone then q.detour.toNat else q.dest.toNat)) ∧ (r = eccRead (bghCtr k 2) (eccRep k) (bankKey (activeEpoch s) key) (if k = homeBough i then inc (bghCtr k 0) u else inc (bghCtr k 1) (inc (bghCtr k 0) u))) ∧ (struck u (eccRep k) (bankKey (activeEpoch s) key) = false) ∧ (w = ftRead r (activeEpoch s) key) ∧ (ftLocal w = true) ∧ (q.detour = eidNone) ∧ (codePort (ftCand w 0) = some 68) ∧ quiet s (freePool i (Packet.vcOf p) (lenOf p) true (cnpDrop 10 r)) = true := by decide +kernel

set_option maxRecDepth 100000 in
theorem wit_ArrivalRouted_5 :
    let i : Nat := 64; let p : Packet := { dest := 5, src := 0x20, cls := 0, lenCells := 2, ptype := 1 }; let k : Nat := 0; let s : State := { sOn with stage.rws := [(0x118, 0x20), (0x100, 0x30), (0x104, 0x020C0840), (0x108, 0), (0x110, 0x100)], stage.ft := [(5, 5 * 16)], net.ports := [(3, { st := .up }), (4, { st := .up }), (8, { st := .disabled }), (9, { st := .up })] }; let q : Packet := { p with epoch := activeEpoch s, stage := 0, hop := 0, nonmin := false, detour := eidNone }; let u : State := s; let key : Nat := (if q.detour ≠ eidNone then q.detour.toNat else q.dest.toNat); let r : State := eccRead (bghCtr k 2) (eccRep k) (bankKey (activeEpoch s) key) (if k = homeBough i then inc (bghCtr k 0) u else inc (bghCtr k 1) (inc (bghCtr k 0) u)); let w : Word := ftRead r (activeEpoch s) key
    ((i < 64 ∧ domOn s (dPort i) = true ∧ (port s i).st = .up ∧ (port s i).rp.rx = [] ∧ (port s i).gr.quar = false ∧ p.hop.toNat < rwsF s 0x104 20 6 ∧ q = p ∧ u = (updPort i (fun x => { x with gr := { x.gr with lastData := some s.time.now } }) s)) ∨ (64 ≤ i ∧ internalUsable s i = true ∧ (68 ≤ i ∨ p.src = hostEid s (i - 64)) ∧ (i ≠ 68 ∨ lenOf p ≤ 1) ∧ q = { p with epoch := activeEpoch s, stage := 0, hop := 0, nonmin := false, detour := eidNone } ∧ u = s)) ∧ (p.cls.toNat < 2) ∧ (p.ptype ≠ 8) ∧ (p.ptype ≠ 9) ∧ ((p.ptype ≠ 0x40 ∧ p.ptype ≠ 0x41) ∨ 68 ≤ i) ∧ (p.dest ≠ eidNone) ∧ (p.mode ≠ 2) ∧ (q.epoch = activeEpoch s) ∧ (lookupBough u (homeBough i) = some k) ∧ (key = (if q.detour ≠ eidNone then q.detour.toNat else q.dest.toNat)) ∧ (r = eccRead (bghCtr k 2) (eccRep k) (bankKey (activeEpoch s) key) (if k = homeBough i then inc (bghCtr k 0) u else inc (bghCtr k 1) (inc (bghCtr k 0) u))) ∧ (struck u (eccRep k) (bankKey (activeEpoch s) key) = false) ∧ (w = ftRead r (activeEpoch s) key) ∧ (ftLocal w = true) ∧ (q.detour = eidNone) ∧ ((codePort (ftCand w 0)).all (fun o => o != 68 && !internalUsable r o) = true) ∧ quiet s (freePool i (Packet.vcOf p) (lenOf p) true (cnpDrop 9 r)) = true := by decide +kernel

set_option maxRecDepth 100000 in
theorem wit_ArrivalRouted_6 :
    let i : Nat := 3; let p : Packet := { dest := 5, src := 0x20, cls := 0, lenCells := 2, ptype := 1, nonmin := true, detour := 7 }; let q : Packet := p; let k : Nat := 0; let key : Nat := (if q.detour ≠ eidNone then q.detour.toNat else q.dest.toNat); let o : Nat := 66; let s : State := { sOn with stage.rws := [(0x118, 0x20), (0x100, 0x30), (0x104, 0x020C0840), (0x108, 0), (0x110, 0x100)], stage.ft := [(5, 2 * 16), (7, 1 * 16)], net.ports := [(3, { st := .up }), (4, { st := .up }), (8, { st := .disabled }), (9, { st := .up })] }; let u : State := (updPort i (fun x => { x with gr := { x.gr with lastData := some s.time.now } }) s); let r : State := eccRead (bghCtr k 2) (eccRep k) (bankKey (activeEpoch s) key) (if k = homeBough i then inc (bghCtr k 0) u else inc (bghCtr k 1) (inc (bghCtr k 0) u)); let w : Word := ftRead r (activeEpoch s) key; let x : State := eccRead (bghCtr k 2) (eccRep k) (bankKey (activeEpoch s) q.dest.toNat) (if k = homeBough i then inc (bghCtr k 0) r else inc (bghCtr k 1) (inc (bghCtr k 0) r))
    ((i < 64 ∧ domOn s (dPort i) = true ∧ (port s i).st = .up ∧ (port s i).rp.rx = [] ∧ (port s i).gr.quar = false ∧ p.hop.toNat < rwsF s 0x104 20 6 ∧ q = p ∧ u = (updPort i (fun x => { x with gr := { x.gr with lastData := some s.time.now } }) s)) ∨ (64 ≤ i ∧ internalUsable s i = true ∧ (68 ≤ i ∨ p.src = hostEid s (i - 64)) ∧ (i ≠ 68 ∨ lenOf p ≤ 1) ∧ q = { p with epoch := activeEpoch s, stage := 0, hop := 0, nonmin := false, detour := eidNone } ∧ u = s)) ∧ (p.cls.toNat < 2) ∧ (p.ptype ≠ 8) ∧ (p.ptype ≠ 9) ∧ ((p.ptype ≠ 0x40 ∧ p.ptype ≠ 0x41) ∨ 68 ≤ i) ∧ (p.dest ≠ eidNone) ∧ (p.mode ≠ 2) ∧ (q.epoch = activeEpoch s) ∧ (lookupBough u (homeBough i) = some k) ∧ (key = (if q.detour ≠ eidNone then q.detour.toNat else q.dest.toNat)) ∧ (r = eccRead (bghCtr k 2) (eccRep k) (bankKey (activeEpoch s) key) (if k = homeBough i then inc (bghCtr k 0) u else inc (bghCtr k 1) (inc (bghCtr k 0) u))) ∧ (struck u (eccRep k) (bankKey (activeEpoch s) key) = false) ∧ (w = ftRead r (activeEpoch s) key) ∧ (ftLocal w = true) ∧ (q.detour ≠ eidNone) ∧ (struck r (eccRep k) (bankKey (activeEpoch s) q.dest.toNat) = false) ∧ (x = eccRead (bghCtr k 2) (eccRep k) (bankKey (activeEpoch s) q.dest.toNat) (if k = homeBough i then inc (bghCtr k 0) r else inc (bghCtr k 1) (inc (bghCtr k 0) r))) ∧ (ftLocal (ftRead x (activeEpoch s) q.dest.toNat) = true) ∧ (codePort (ftCand (ftRead x (activeEpoch s) q.dest.toNat) 0) = some o) ∧ (o ≠ 68) ∧ (internalUsable x o = true) ∧ quiet s (enqueue { inp := i, out := o, vc := Packet.vcOf { q with detour := eidNone }, inVc := Packet.vcOf p, arrived := s.time.now, bank := some (activeEpoch s), pkt := { q with detour := eidNone }, whole := true } x) = true := by decide +kernel

set_option maxRecDepth 100000 in
theorem wit_ArrivalRouted_7 :
    let i : Nat := 64; let p : Packet := { dest := 5, src := 0x20, cls := 0, lenCells := 2, ptype := 1, mode := 1, flowHash := 3 }; let k : Nat := 0; let o : Nat := 4; let s : State := { sOn with stage.rws := [(0x118, 0x20), (0x100, 0x30), (0x104, 0x020C0840), (0x108, 0), (0x110, 0x100)], stage.ft := [(5, 1 + 2 + 3 * 16 + 4 * 1024)], net.ports := [(3, { st := .up }), (4, { st := .up }), (8, { st := .disabled }), (9, { st := .up })] }; let q : Packet := { p with epoch := activeEpoch s, stage := 0, hop := 0, nonmin := false, detour := eidNone }; let u : State := s; let key : Nat := (if q.detour ≠ eidNone then q.detour.toNat else q.dest.toNat); let r : State := eccRead (bghCtr k 2) (eccRep k) (bankKey (activeEpoch s) key) (if k = homeBough i then inc (bghCtr k 0) u else inc (bghCtr k 1) (inc (bghCtr k 0) u)); let w : Word := ftRead r (activeEpoch s) key; let f : Packet := { q with stage := if rwsF s (0x110 + 4 * (o / 32)) (o % 32) 1 = 1 then q.stage + 1 else q.stage, hop := q.hop + 1 }
    ((i < 64 ∧ domOn s (dPort i) = true ∧ (port s i).st = .up ∧ (port s i).rp.rx = [] ∧ (port s i).gr.quar = false ∧ p.hop.toNat < rwsF s 0x104 20 6 ∧ q = p ∧ u = (updPort i (fun x => { x with gr := { x.gr with lastData := some s.time.now } }) s)) ∨ (64 ≤ i ∧ internalUsable s i = true ∧ (68 ≤ i ∨ p.src = hostEid s (i - 64)) ∧ (i ≠ 68 ∨ lenOf p ≤ 1) ∧ q = { p with epoch := activeEpoch s, stage := 0, hop := 0, nonmin := false, detour := eidNone } ∧ u = s)) ∧ (p.cls.toNat < 2) ∧ (p.ptype ≠ 8) ∧ (p.ptype ≠ 9) ∧ ((p.ptype ≠ 0x40 ∧ p.ptype ≠ 0x41) ∨ 68 ≤ i) ∧ (p.dest ≠ eidNone) ∧ (p.mode ≠ 2) ∧ (q.epoch = activeEpoch s) ∧ (lookupBough u (homeBough i) = some k) ∧ (key = (if q.detour ≠ eidNone then q.detour.toNat else q.dest.toNat)) ∧ (r = eccRead (bghCtr k 2) (eccRep k) (bankKey (activeEpoch s) key) (if k = homeBough i then inc (bghCtr k 0) u else inc (bghCtr k 1) (inc (bghCtr k 0) u))) ∧ (struck u (eccRep k) (bankKey (activeEpoch s) key) = false) ∧ (w = ftRead r (activeEpoch s) key) ∧ (ftDrop w = false) ∧ (ftLocal w = false) ∧ (p.mode = 1) ∧ (((candidates r p.cls.toNat i w)[p.flowHash.toNat % (candidates r p.cls.toNat i w).length]?).map (fun c => c.2) = some o) ∧ (rwsF s (0x110 + 4 * (o / 32)) (o % 32) 1 = 0 ∨ q.stage ≠ 3) ∧ (f = { q with stage := if rwsF s (0x110 + 4 * (o / 32)) (o % 32) 1 = 1 then q.stage + 1 else q.stage, hop := q.hop + 1 }) ∧ quiet s (enqueue { inp := i, out := o, vc := Packet.vcOf f, inVc := Packet.vcOf p, arrived := s.time.now, bank := some (activeEpoch s), pkt := f, whole := true } r) = true := by decide +kernel

set_option maxRecDepth 100000 in
theorem wit_ArrivalRouted_8 :
    let i : Nat := 64; let p : Packet := { dest := 5, src := 0x20, cls := 0, lenCells := 2, ptype := 1, mode := 3 }; let k : Nat := 0; let o : Nat := 3; let s : State := { sOn with stage.rws := [(0x118, 0x20), (0x100, 0x30), (0x104, 0x020C0840), (0x108, 0), (0x110, 0x100)], stage.ft := [(5, 1 + 2 + 3 * 16 + 4 * 1024)], net.ports := [(3, { st := .up }), (4, { st := .up }), (8, { st := .disabled }), (9, { st := .up })] }; let q : Packet := { p with epoch := activeEpoch s, stage := 0, hop := 0, nonmin := false, detour := eidNone }; let u : State := s; let key : Nat := (if q.detour ≠ eidNone then q.detour.toNat else q.dest.toNat); let r : State := eccRead (bghCtr k 2) (eccRep k) (bankKey (activeEpoch s) key) (if k = homeBough i then inc (bghCtr k 0) u else inc (bghCtr k 1) (inc (bghCtr k 0) u)); let w : Word := ftRead r (activeEpoch s) key; let f : Packet := { q with stage := if rwsF s (0x110 + 4 * (o / 32)) (o % 32) 1 = 1 then q.stage + 1 else q.stage, hop := q.hop + 1 }
    ((i < 64 ∧ domOn s (dPort i) = true ∧ (port s i).st = .up ∧ (port s i).rp.rx = [] ∧ (port s i).gr.quar = false ∧ p.hop.toNat < rwsF s 0x104 20 6 ∧ q = p ∧ u = (updPort i (fun x => { x with gr := { x.gr with lastData := some s.time.now } }) s)) ∨ (64 ≤ i ∧ internalUsable s i = true ∧ (68 ≤ i ∨ p.src = hostEid s (i - 64)) ∧ (i ≠ 68 ∨ lenOf p ≤ 1) ∧ q = { p with epoch := activeEpoch s, stage := 0, hop := 0, nonmin := false, detour := eidNone } ∧ u = s)) ∧ (p.cls.toNat < 2) ∧ (p.ptype ≠ 8) ∧ (p.ptype ≠ 9) ∧ ((p.ptype ≠ 0x40 ∧ p.ptype ≠ 0x41) ∨ 68 ≤ i) ∧ (p.dest ≠ eidNone) ∧ (p.mode ≠ 2) ∧ (q.epoch = activeEpoch s) ∧ (lookupBough u (homeBough i) = some k) ∧ (key = (if q.detour ≠ eidNone then q.detour.toNat else q.dest.toNat)) ∧ (r = eccRead (bghCtr k 2) (eccRep k) (bankKey (activeEpoch s) key) (if k = homeBough i then inc (bghCtr k 0) u else inc (bghCtr k 1) (inc (bghCtr k 0) u))) ∧ (struck u (eccRep k) (bankKey (activeEpoch s) key) = false) ∧ (w = ftRead r (activeEpoch s) key) ∧ (ftDrop w = false) ∧ (ftLocal w = false) ∧ (p.mode = 3) ∧ ((candidates r p.cls.toNat i w).head? = some (0, o)) ∧ (rwsF s (0x110 + 4 * (o / 32)) (o % 32) 1 = 0 ∨ q.stage ≠ 3) ∧ (f = { q with stage := if rwsF s (0x110 + 4 * (o / 32)) (o % 32) 1 = 1 then q.stage + 1 else q.stage, hop := q.hop + 1 }) ∧ quiet s (enqueue { inp := i, out := o, vc := Packet.vcOf f, inVc := Packet.vcOf p, arrived := s.time.now, bank := some (activeEpoch s), pkt := f, whole := true } r) = true := by decide +kernel

set_option maxRecDepth 100000 in
theorem wit_ArrivalRouted_9 :
    let i : Nat := 64; let p : Packet := { dest := 5, src := 0x20, cls := 0, lenCells := 2, ptype := 1, mode := 3 }; let k : Nat := 0; let o : Nat := 4; let j : Nat := 1; let s : State := { sOn with stage.rws := [(0x118, 0x20), (0x100, 0x30), (0x104, 0x020C0840), (0x108, 0), (0x110, 0x100)], stage.ft := [(5, 1 + 2 + 8 * 16 + 4 * 1024)], net.ports := [(3, { st := .up }), (4, { st := .up }), (8, { st := .disabled }), (9, { st := .up })] }; let q : Packet := { p with epoch := activeEpoch s, stage := 0, hop := 0, nonmin := false, detour := eidNone }; let u : State := s; let key : Nat := (if q.detour ≠ eidNone then q.detour.toNat else q.dest.toNat); let r : State := eccRead (bghCtr k 2) (eccRep k) (bankKey (activeEpoch s) key) (if k = homeBough i then inc (bghCtr k 0) u else inc (bghCtr k 1) (inc (bghCtr k 0) u)); let w : Word := ftRead r (activeEpoch s) key; let f : Packet := { q with stage := if rwsF s (0x110 + 4 * (o / 32)) (o % 32) 1 = 1 then q.stage + 1 else q.stage, hop := q.hop + 1 }
    ((i < 64 ∧ domOn s (dPort i) = true ∧ (port s i).st = .up ∧ (port s i).rp.rx = [] ∧ (port s i).gr.quar = false ∧ p.hop.toNat < rwsF s 0x104 20 6 ∧ q = p ∧ u = (updPort i (fun x => { x with gr := { x.gr with lastData := some s.time.now } }) s)) ∨ (64 ≤ i ∧ internalUsable s i = true ∧ (68 ≤ i ∨ p.src = hostEid s (i - 64)) ∧ (i ≠ 68 ∨ lenOf p ≤ 1) ∧ q = { p with epoch := activeEpoch s, stage := 0, hop := 0, nonmin := false, detour := eidNone } ∧ u = s)) ∧ (p.cls.toNat < 2) ∧ (p.ptype ≠ 8) ∧ (p.ptype ≠ 9) ∧ ((p.ptype ≠ 0x40 ∧ p.ptype ≠ 0x41) ∨ 68 ≤ i) ∧ (p.dest ≠ eidNone) ∧ (p.mode ≠ 2) ∧ (q.epoch = activeEpoch s) ∧ (lookupBough u (homeBough i) = some k) ∧ (key = (if q.detour ≠ eidNone then q.detour.toNat else q.dest.toNat)) ∧ (r = eccRead (bghCtr k 2) (eccRep k) (bankKey (activeEpoch s) key) (if k = homeBough i then inc (bghCtr k 0) u else inc (bghCtr k 1) (inc (bghCtr k 0) u))) ∧ (struck u (eccRep k) (bankKey (activeEpoch s) key) = false) ∧ (w = ftRead r (activeEpoch s) key) ∧ (ftDrop w = false) ∧ (ftLocal w = false) ∧ (p.mode = 3) ∧ ((candidates r p.cls.toNat i w).head? = some (j, o)) ∧ (j ≠ 0) ∧ (rwsF s (0x110 + 4 * (o / 32)) (o % 32) 1 = 0 ∨ q.stage ≠ 3) ∧ (f = { q with stage := if rwsF s (0x110 + 4 * (o / 32)) (o % 32) 1 = 1 then q.stage + 1 else q.stage, hop := q.hop + 1 }) ∧ quiet s (enqueue { inp := i, out := o, vc := Packet.vcOf f, inVc := Packet.vcOf p, arrived := s.time.now, bank := some (activeEpoch s), pkt := f, whole := true } (inc (cnpCtr 15) r)) = true := by decide +kernel

set_option maxRecDepth 100000 in
theorem wit_ArrivalRouted_10 :
    let i : Nat := 64; let p : Packet := { dest := 5, src := 0x20, cls := 0, lenCells := 2, ptype := 1, mode := 0 }; let k : Nat := 0; let o : Nat := 3; let sc : Nat := 0; let s : State := { sOn with stage.rws := [(0x118, 0x20), (0x100, 0x30), (0x104, 0x020C0840), (0x108, 0), (0x110, 0x100)], stage.ft := [(5, 1 + 2 + 3 * 16 + 4 * 1024)], net.ports := [(3, { st := .up }), (4, { st := .up }), (8, { st := .disabled }), (9, { st := .up })], net.outs := [(3, {})] }; let q : Packet := { p with epoch := activeEpoch s, stage := 0, hop := 0, nonmin := false, detour := eidNone }; let u : State := s; let key : Nat := (if q.detour ≠ eidNone then q.detour.toNat else q.dest.toNat); let r : State := eccRead (bghCtr k 2) (eccRep k) (bankKey (activeEpoch s) key) (if k = homeBough i then inc (bghCtr k 0) u else inc (bghCtr k 1) (inc (bghCtr k 0) u)); let w : Word := ftRead r (activeEpoch s) key; let f : Packet := { q with stage := if rwsF s (0x110 + 4 * (o / 32)) (o % 32) 1 = 1 then q.stage + 1 else q.stage, hop := q.hop + 1 }
    ((i < 64 ∧ domOn s (dPort i) = true ∧ (port s i).st = .up ∧ (port s i).rp.rx = [] ∧ (port s i).gr.quar = false ∧ p.hop.toNat < rwsF s 0x104 20 6 ∧ q = p ∧ u = (updPort i (fun x => { x with gr := { x.gr with lastData := some s.time.now } }) s)) ∨ (64 ≤ i ∧ internalUsable s i = true ∧ (68 ≤ i ∨ p.src = hostEid s (i - 64)) ∧ (i ≠ 68 ∨ lenOf p ≤ 1) ∧ q = { p with epoch := activeEpoch s, stage := 0, hop := 0, nonmin := false, detour := eidNone } ∧ u = s)) ∧ (p.cls.toNat < 2) ∧ (p.ptype ≠ 8) ∧ (p.ptype ≠ 9) ∧ ((p.ptype ≠ 0x40 ∧ p.ptype ≠ 0x41) ∨ 68 ≤ i) ∧ (p.dest ≠ eidNone) ∧ (p.mode ≠ 2) ∧ (q.epoch = activeEpoch s) ∧ (lookupBough u (homeBough i) = some k) ∧ (key = (if q.detour ≠ eidNone then q.detour.toNat else q.dest.toNat)) ∧ (r = eccRead (bghCtr k 2) (eccRep k) (bankKey (activeEpoch s) key) (if k = homeBough i then inc (bghCtr k 0) u else inc (bghCtr k 1) (inc (bghCtr k 0) u))) ∧ (struck u (eccRep k) (bankKey (activeEpoch s) key) = false) ∧ (w = ftRead r (activeEpoch s) key) ∧ (ftDrop w = false) ∧ (ftLocal w = false) ∧ (p.mode = 0) ∧ (q.nonmin = true ∨ q.detour ≠ eidNone ∨ bitW w 28 = false) ∧ (struck r eccLa (bankKey (activeEpoch s) (key >>> rwsF r 0x104 12 4 % 4096)) = false) ∧ (bestOf r (some (laRead r (activeEpoch s) (key >>> rwsF r 0x104 12 4 % 4096))) (candidates r p.cls.toNat i w) = some (o, sc)) ∧ (rwsF s (0x110 + 4 * (o / 32)) (o % 32) 1 = 0 ∨ q.stage ≠ 3) ∧ (f = { q with stage := if rwsF s (0x110 + 4 * (o / 32)) (o % 32) 1 = 1 then q.stage + 1 else q.stage, hop := q.hop + 1 }) ∧ quiet s (enqueue { inp := i, out := o, vc := Packet.vcOf f, inVc := Packet.vcOf p, arrived := s.time.now, bank := some (activeEpoch s), pkt := f, whole := true } r) = true := by decide +kernel

set_option maxRecDepth 100000 in
theorem wit_ArrivalRouted_11 :
    let i : Nat := 64; let p : Packet := { dest := 5, src := 0x20, cls := 0, lenCells := 2, ptype := 1, mode := 0 }; let k : Nat := 0; let o : Nat := 3; let sc : Nat := 0; let s : State := { sOn with stage.rws := [(0x118, 0x20), (0x100, 0x30), (0x104, 0x020C0840), (0x108, 0), (0x110, 0x100)], stage.ft := [(5, 1 + 2 + 3 * 16 + 4 * 1024 + 2 ^ 28)], net.ports := [(3, { st := .up }), (4, { st := .up }), (8, { st := .disabled }), (9, { st := .up })] }; let q : Packet := { p with epoch := activeEpoch s, stage := 0, hop := 0, nonmin := false, detour := eidNone }; let u : State := s; let key : Nat := (if q.detour ≠ eidNone then q.detour.toNat else q.dest.toNat); let r : State := eccRead (bghCtr k 2) (eccRep k) (bankKey (activeEpoch s) key) (if k = homeBough i then inc (bghCtr k 0) u else inc (bghCtr k 1) (inc (bghCtr k 0) u)); let w : Word := ftRead r (activeEpoch s) key; let f : Packet := { q with stage := if rwsF s (0x110 + 4 * (o / 32)) (o % 32) 1 = 1 then q.stage + 1 else q.stage, hop := q.hop + 1 }; let x : State := (detourCandidate k i 0 (activeEpoch s) q r).1
    ((i < 64 ∧ domOn s (dPort i) = true ∧ (port s i).st = .up ∧ (port s i).rp.rx = [] ∧ (port s i).gr.quar = false ∧ p.hop.toNat < rwsF s 0x104 20 6 ∧ q = p ∧ u = (updPort i (fun x => { x with gr := { x.gr with lastData := some s.time.now } }) s)) ∨ (64 ≤ i ∧ internalUsable s i = true ∧ (68 ≤ i ∨ p.src = hostEid s (i - 64)) ∧ (i ≠ 68 ∨ lenOf p ≤ 1) ∧ q = { p with epoch := activeEpoch s, stage := 0, hop := 0, nonmin := false, detour := eidNone } ∧ u = s)) ∧ (p.cls.toNat < 2) ∧ (p.ptype ≠ 8) ∧ (p.ptype ≠ 9) ∧ ((p.ptype ≠ 0x40 ∧ p.ptype ≠ 0x41) ∨ 68 ≤ i) ∧ (p.dest ≠ eidNone) ∧ (p.mode ≠ 2) ∧ (q.epoch = activeEpoch s) ∧ (lookupBough u (homeBough i) = some k) ∧ (key = (if q.detour ≠ eidNone then q.detour.toNat else q.dest.toNat)) ∧ (r = eccRead (bghCtr k 2) (eccRep k) (bankKey (activeEpoch s) key) (if k = homeBough i then inc (bghCtr k 0) u else inc (bghCtr k 1) (inc (bghCtr k 0) u))) ∧ (struck u (eccRep k) (bankKey (activeEpoch s) key) = false) ∧ (w = ftRead r (activeEpoch s) key) ∧ (ftDrop w = false) ∧ (ftLocal w = false) ∧ (p.mode = 0) ∧ (q.nonmin = false ∧ q.detour = eidNone ∧ bitW w 28 = true) ∧ (struck r eccLa (bankKey (activeEpoch s) (key >>> rwsF r 0x104 12 4 % 4096)) = false) ∧ (bestOf r (some (laRead r (activeEpoch s) (key >>> rwsF r 0x104 12 4 % 4096))) (candidates r p.cls.toNat i w) = some (o, sc)) ∧ ((detourCandidate k i 0 (activeEpoch s) q r) = (x, none)) ∧ (rwsF s (0x110 + 4 * (o / 32)) (o % 32) 1 = 0 ∨ q.stage ≠ 3) ∧ (f = { q with stage := if rwsF s (0x110 + 4 * (o / 32)) (o % 32) 1 = 1 then q.stage + 1 else q.stage, hop := q.hop + 1 }) ∧ quiet s (enqueue { inp := i, out := o, vc := Packet.vcOf f, inVc := Packet.vcOf p, arrived := s.time.now, bank := some (activeEpoch s), pkt := f, whole := true } x) = true := by decide +kernel

set_option maxRecDepth 100000 in
theorem wit_ArrivalRouted_12 :
    let i : Nat := 64; let p : Packet := { dest := 5, src := 0x20, cls := 0, lenCells := 2, ptype := 1, mode := 0 }; let k : Nat := 0; let o : Nat := 3; let sc : Nat := 0; let dq : Nat := 9; let dsc : Nat := 0; let e : Nat := 7; let s : State := { sOn with stage.rws := [(0x118, 0x20), (0x100, 0x30), (0x104, 0x020C0840), (0x108, 0), (0x110, 0x100)], stage.ft := [(5, 1 + 3 * 16 + 2 ^ 28), (7, 1 + 9 * 16)], net.ports := [(3, { st := .up }), (4, { st := .up }), (8, { st := .disabled }), (9, { st := .up })], stage.dt := [(0, 7 + 2 ^ 18), (5, 7 + 2 ^ 18)] }; let q : Packet := { p with epoch := activeEpoch s, stage := 0, hop := 0, nonmin := false, detour := eidNone }; let u : State := s; let key : Nat := (if q.detour ≠ eidNone then q.detour.toNat else q.dest.toNat); let r : State := eccRead (bghCtr k 2) (eccRep k) (bankKey (activeEpoch s) key) (if k = homeBough i then inc (bghCtr k 0) u else inc (bghCtr k 1) (inc (bghCtr k 0) u)); let w : Word := ftRead r (activeEpoch s) key; let f : Packet := { q with stage := if rwsF s (0x110 + 4 * (o / 32)) (o % 32) 1 = 1 then q.stage + 1 else q.stage, hop := q.hop + 1 }; let x : State := (detourCandidate k i 0 (activeEpoch s) q r).1
    ((i < 64 ∧ domOn s (dPort i) = true ∧ (port s i).st = .up ∧ (port s i).rp.rx = [] ∧ (port s i).gr.quar = false ∧ p.hop.toNat < rwsF s 0x104 20 6 ∧ q = p ∧ u = (updPort i (fun x => { x with gr := { x.gr with lastData := some s.time.now } }) s)) ∨ (64 ≤ i ∧ internalUsable s i = true ∧ (68 ≤ i ∨ p.src = hostEid s (i - 64)) ∧ (i ≠ 68 ∨ lenOf p ≤ 1) ∧ q = { p with epoch := activeEpoch s, stage := 0, hop := 0, nonmin := false, detour := eidNone } ∧ u = s)) ∧ (p.cls.toNat < 2) ∧ (p.ptype ≠ 8) ∧ (p.ptype ≠ 9) ∧ ((p.ptype ≠ 0x40 ∧ p.ptype ≠ 0x41) ∨ 68 ≤ i) ∧ (p.dest ≠ eidNone) ∧ (p.mode ≠ 2) ∧ (q.epoch = activeEpoch s) ∧ (lookupBough u (homeBough i) = some k) ∧ (key = (if q.detour ≠ eidNone then q.detour.toNat else q.dest.toNat)) ∧ (r = eccRead (bghCtr k 2) (eccRep k) (bankKey (activeEpoch s) key) (if k = homeBough i then inc (bghCtr k 0) u else inc (bghCtr k 1) (inc (bghCtr k 0) u))) ∧ (struck u (eccRep k) (bankKey (activeEpoch s) key) = false) ∧ (w = ftRead r (activeEpoch s) key) ∧ (ftDrop w = false) ∧ (ftLocal w = false) ∧ (p.mode = 0) ∧ (q.nonmin = false ∧ q.detour = eidNone ∧ bitW w 28 = true) ∧ (struck r eccLa (bankKey (activeEpoch s) (key >>> rwsF r 0x104 12 4 % 4096)) = false) ∧ (bestOf r (some (laRead r (activeEpoch s) (key >>> rwsF r 0x104 12 4 % 4096))) (candidates r p.cls.toNat i w) = some (o, sc)) ∧ ((detourCandidate k i 0 (activeEpoch s) q r) = (x, some (dq, dsc, e))) ∧ (sc ≤ dsc + rwsF r 0x108 0 16) ∧ (rwsF s (0x110 + 4 * (o / 32)) (o % 32) 1 = 0 ∨ q.stage ≠ 3) ∧ (f = { q with stage := if rwsF s (0x110 + 4 * (o / 32)) (o % 32) 1 = 1 then q.stage + 1 else q.stage, hop := q.hop + 1 }) ∧ quiet s (enqueue { inp := i, out := o, vc := Packet.vcOf f, inVc := Packet.vcOf p, arrived := s.time.now, bank := some (activeEpoch s), pkt := f, whole := true } x) = true := by decide +kernel

set_option maxRecDepth 100000 in
theorem wit_ArrivalRouted_13 :
    let i : Nat := 64; let p : Packet := { dest := 5, src := 0x20, cls := 0, lenCells := 2, ptype := 1, mode := 0 }; let k : Nat := 0; let o : Nat := 9; let e : Nat := 7; let sc : Nat := 6; let c : Nat := 3; let dsc : Nat := 0; let s : State := { sOn with stage.rws := [(0x118, 0x20), (0x100, 0x30), (0x104, 0x020C0840), (0x108, 0), (0x110, 0x100)], stage.ft := [(5, 1 + 3 * 16 + 2 ^ 28), (7, 1 + 9 * 16)], net.ports := [(3, { st := .up }), (4, { st := .up }), (8, { st := .disabled }), (9, { st := .up })], stage.dt := [(0, 7 + 2 ^ 18), (5, 7 + 2 ^ 18)], net.voq := (List.range 3).map (fun k => { inp := 65, out := 3, vc := 0, inVc := 0, arrived := k, bank := some false, pkt := { dest := 5, src := 0x20, cls := 0, lenCells := 2, ptype := 1 }, whole := true }) }; let q : Packet := { p with epoch := activeEpoch s, stage := 0, hop := 0, nonmin := false, detour := eidNone }; let u : State := s; let key : Nat := (if q.detour ≠ eidNone then q.detour.toNat else q.dest.toNat); let r : State := eccRead (bghCtr k 2) (eccRep k) (bankKey (activeEpoch s) key) (if k = homeBough i then inc (bghCtr k 0) u else inc (bghCtr k 1) (inc (bghCtr k 0) u)); let w : Word := ftRead r (activeEpoch s) key; let f : Packet := { q with stage := q.stage + 1, hop := q.hop + 1, nonmin := true, detour := BitVec.ofNat 18 e }; let x : State := (detourCandidate k i 0 (activeEpoch s) q r).1
    ((i < 64 ∧ domOn s (dPort i) = true ∧ (port s i).st = .up ∧ (port s i).rp.rx = [] ∧ (port s i).gr.quar = false ∧ p.hop.toNat < rwsF s 0x104 20 6 ∧ q = p ∧ u = (updPort i (fun x => { x with gr := { x.gr with lastData := some s.time.now } }) s)) ∨ (64 ≤ i ∧ internalUsable s i = true ∧ (68 ≤ i ∨ p.src = hostEid s (i - 64)) ∧ (i ≠ 68 ∨ lenOf p ≤ 1) ∧ q = { p with epoch := activeEpoch s, stage := 0, hop := 0, nonmin := false, detour := eidNone } ∧ u = s)) ∧ (p.cls.toNat < 2) ∧ (p.ptype ≠ 8) ∧ (p.ptype ≠ 9) ∧ ((p.ptype ≠ 0x40 ∧ p.ptype ≠ 0x41) ∨ 68 ≤ i) ∧ (p.dest ≠ eidNone) ∧ (p.mode ≠ 2) ∧ (q.epoch = activeEpoch s) ∧ (lookupBough u (homeBough i) = some k) ∧ (key = (if q.detour ≠ eidNone then q.detour.toNat else q.dest.toNat)) ∧ (r = eccRead (bghCtr k 2) (eccRep k) (bankKey (activeEpoch s) key) (if k = homeBough i then inc (bghCtr k 0) u else inc (bghCtr k 1) (inc (bghCtr k 0) u))) ∧ (struck u (eccRep k) (bankKey (activeEpoch s) key) = false) ∧ (w = ftRead r (activeEpoch s) key) ∧ (ftDrop w = false) ∧ (ftLocal w = false) ∧ (p.mode = 0) ∧ (q.nonmin = false ∧ q.detour = eidNone ∧ bitW w 28 = true) ∧ (struck r eccLa (bankKey (activeEpoch s) (key >>> rwsF r 0x104 12 4 % 4096)) = false) ∧ (bestOf r (some (laRead r (activeEpoch s) (key >>> rwsF r 0x104 12 4 % 4096))) (candidates r p.cls.toNat i w) = some (c, sc)) ∧ ((detourCandidate k i 0 (activeEpoch s) q r) = (x, some (o, dsc, e))) ∧ (dsc + rwsF r 0x108 0 16 < sc) ∧ (q.stage ≠ 3) ∧ (f = { q with stage := q.stage + 1, hop := q.hop + 1, nonmin := true, detour := BitVec.ofNat 18 e }) ∧ quiet s (enqueue { inp := i, out := o, vc := Packet.vcOf f, inVc := Packet.vcOf p, arrived := s.time.now, bank := some (activeEpoch s), pkt := f, whole := true } (inc (cnpCtr 13) x)) = true := by decide +kernel

set_option maxRecDepth 100000 in
theorem wit_ArrivalRouted_14 :
    let i : Nat := 64; let p : Packet := { dest := 5, src := 0x20, cls := 0, lenCells := 2, ptype := 1, mode := 3 }; let k : Nat := 0; let o : Nat := 9; let e : Nat := 7; let dsc : Nat := 0; let s : State := { sOn with stage.rws := [(0x118, 0x20), (0x100, 0x30), (0x104, 0x020C0840), (0x108, 0), (0x110, 0x100)], stage.ft := [(5, 1 + 8 * 16 + 2 ^ 28), (7, 1 + 9 * 16)], net.ports := [(3, { st := .up }), (4, { st := .up }), (8, { st := .disabled }), (9, { st := .up })], stage.dt := [(0, 7 + 2 ^ 18), (5, 7 + 2 ^ 18)] }; let q : Packet := { p with epoch := activeEpoch s, stage := 0, hop := 0, nonmin := false, detour := eidNone }; let u : State := s; let key : Nat := (if q.detour ≠ eidNone then q.detour.toNat else q.dest.toNat); let r : State := eccRead (bghCtr k 2) (eccRep k) (bankKey (activeEpoch s) key) (if k = homeBough i then inc (bghCtr k 0) u else inc (bghCtr k 1) (inc (bghCtr k 0) u)); let w : Word := ftRead r (activeEpoch s) key; let f : Packet := { q with stage := q.stage + 1, hop := q.hop + 1, nonmin := true, detour := BitVec.ofNat 18 e }; let x : State := (detourCandidate k i p.mode.toNat (activeEpoch s) q r).1
    ((i < 64 ∧ domOn s (dPort i) = true ∧ (port s i).st = .up ∧ (port s i).rp.rx = [] ∧ (port s i).gr.quar = false ∧ p.hop.toNat < rwsF s 0x104 20 6 ∧ q = p ∧ u = (updPort i (fun x => { x with gr := { x.gr with lastData := some s.time.now } }) s)) ∨ (64 ≤ i ∧ internalUsable s i = true ∧ (68 ≤ i ∨ p.src = hostEid s (i - 64)) ∧ (i ≠ 68 ∨ lenOf p ≤ 1) ∧ q = { p with epoch := activeEpoch s, stage := 0, hop := 0, nonmin := false, detour := eidNone } ∧ u = s)) ∧ (p.cls.toNat < 2) ∧ (p.ptype ≠ 8) ∧ (p.ptype ≠ 9) ∧ ((p.ptype ≠ 0x40 ∧ p.ptype ≠ 0x41) ∨ 68 ≤ i) ∧ (p.dest ≠ eidNone) ∧ (p.mode ≠ 2) ∧ (q.epoch = activeEpoch s) ∧ (lookupBough u (homeBough i) = some k) ∧ (key = (if q.detour ≠ eidNone then q.detour.toNat else q.dest.toNat)) ∧ (r = eccRead (bghCtr k 2) (eccRep k) (bankKey (activeEpoch s) key) (if k = homeBough i then inc (bghCtr k 0) u else inc (bghCtr k 1) (inc (bghCtr k 0) u))) ∧ (struck u (eccRep k) (bankKey (activeEpoch s) key) = false) ∧ (w = ftRead r (activeEpoch s) key) ∧ (ftDrop w = false) ∧ (ftLocal w = false) ∧ (p.mode ≠ 0) ∧ (q.nonmin = false ∧ q.detour = eidNone ∧ bitW w 28 = true) ∧ (candidates r p.cls.toNat i w = []) ∧ ((detourCandidate k i p.mode.toNat (activeEpoch s) q r) = (x, some (o, dsc, e))) ∧ (q.stage ≠ 3) ∧ (f = { q with stage := q.stage + 1, hop := q.hop + 1, nonmin := true, detour := BitVec.ofNat 18 e }) ∧ quiet s (enqueue { inp := i, out := o, vc := Packet.vcOf f, inVc := Packet.vcOf p, arrived := s.time.now, bank := some (activeEpoch s), pkt := f, whole := true } (inc (cnpCtr 13) x)) = true := by decide +kernel

set_option maxRecDepth 100000 in
theorem wit_ArrivalRouted_15 :
    let i : Nat := 64; let p : Packet := { dest := 5, src := 0x20, cls := 0, lenCells := 2, ptype := 1, mode := 0 }; let k : Nat := 0; let o : Nat := 9; let e : Nat := 7; let dsc : Nat := 0; let s : State := { sOn with stage.rws := [(0x118, 0x20), (0x100, 0x30), (0x104, 0x020C0840), (0x108, 0), (0x110, 0x100)], stage.ft := [(5, 1 + 8 * 16 + 2 ^ 28), (7, 1 + 9 * 16)], net.ports := [(3, { st := .up }), (4, { st := .up }), (8, { st := .disabled }), (9, { st := .up })], stage.dt := [(0, 7 + 2 ^ 18), (5, 7 + 2 ^ 18)] }; let q : Packet := { p with epoch := activeEpoch s, stage := 0, hop := 0, nonmin := false, detour := eidNone }; let u : State := s; let key : Nat := (if q.detour ≠ eidNone then q.detour.toNat else q.dest.toNat); let r : State := eccRead (bghCtr k 2) (eccRep k) (bankKey (activeEpoch s) key) (if k = homeBough i then inc (bghCtr k 0) u else inc (bghCtr k 1) (inc (bghCtr k 0) u)); let w : Word := ftRead r (activeEpoch s) key; let f : Packet := { q with stage := q.stage + 1, hop := q.hop + 1, nonmin := true, detour := BitVec.ofNat 18 e }; let x : State := (detourCandidate k i 0 (activeEpoch s) q r).1
    ((i < 64 ∧ domOn s (dPort i) = true ∧ (port s i).st = .up ∧ (port s i).rp.rx = [] ∧ (port s i).gr.quar = false ∧ p.hop.toNat < rwsF s 0x104 20 6 ∧ q = p ∧ u = (updPort i (fun x => { x with gr := { x.gr with lastData := some s.time.now } }) s)) ∨ (64 ≤ i ∧ internalUsable s i = true ∧ (68 ≤ i ∨ p.src = hostEid s (i - 64)) ∧ (i ≠ 68 ∨ lenOf p ≤ 1) ∧ q = { p with epoch := activeEpoch s, stage := 0, hop := 0, nonmin := false, detour := eidNone } ∧ u = s)) ∧ (p.cls.toNat < 2) ∧ (p.ptype ≠ 8) ∧ (p.ptype ≠ 9) ∧ ((p.ptype ≠ 0x40 ∧ p.ptype ≠ 0x41) ∨ 68 ≤ i) ∧ (p.dest ≠ eidNone) ∧ (p.mode ≠ 2) ∧ (q.epoch = activeEpoch s) ∧ (lookupBough u (homeBough i) = some k) ∧ (key = (if q.detour ≠ eidNone then q.detour.toNat else q.dest.toNat)) ∧ (r = eccRead (bghCtr k 2) (eccRep k) (bankKey (activeEpoch s) key) (if k = homeBough i then inc (bghCtr k 0) u else inc (bghCtr k 1) (inc (bghCtr k 0) u))) ∧ (struck u (eccRep k) (bankKey (activeEpoch s) key) = false) ∧ (w = ftRead r (activeEpoch s) key) ∧ (ftDrop w = false) ∧ (ftLocal w = false) ∧ (p.mode = 0) ∧ (q.nonmin = false ∧ q.detour = eidNone ∧ bitW w 28 = true) ∧ (struck r eccLa (bankKey (activeEpoch s) (key >>> rwsF r 0x104 12 4 % 4096)) = false) ∧ (candidates r p.cls.toNat i w = []) ∧ ((detourCandidate k i 0 (activeEpoch s) q r) = (x, some (o, dsc, e))) ∧ (q.stage ≠ 3) ∧ (f = { q with stage := q.stage + 1, hop := q.hop + 1, nonmin := true, detour := BitVec.ofNat 18 e }) ∧ quiet s (enqueue { inp := i, out := o, vc := Packet.vcOf f, inVc := Packet.vcOf p, arrived := s.time.now, bank := some (activeEpoch s), pkt := f, whole := true } (inc (cnpCtr 13) x)) = true := by decide +kernel

set_option maxRecDepth 100000 in
theorem wit_ArrivalRouted_16 :
    let i : Nat := 64; let p : Packet := { dest := 5, src := 0x20, cls := 0, lenCells := 2, ptype := 1, mode := 3 }; let k : Nat := 0; let s : State := { sOn with stage.rws := [(0x118, 0x20), (0x100, 0x30), (0x104, 0x020C0840), (0x108, 0), (0x110, 0x100)], stage.ft := [(5, 1 + 8 * 16)], net.ports := [(3, { st := .up }), (4, { st := .up }), (8, { st := .disabled }), (9, { st := .up })] }; let q : Packet := { p with epoch := activeEpoch s, stage := 0, hop := 0, nonmin := false, detour := eidNone }; let u : State := s; let key : Nat := (if q.detour ≠ eidNone then q.detour.toNat else q.dest.toNat); let r : State := eccRead (bghCtr k 2) (eccRep k) (bankKey (activeEpoch s) key) (if k = homeBough i then inc (bghCtr k 0) u else inc (bghCtr k 1) (inc (bghCtr k 0) u)); let w : Word := ftRead r (activeEpoch s) key
    ((i < 64 ∧ domOn s (dPort i) = true ∧ (port s i).st = .up ∧ (port s i).rp.rx = [] ∧ (port s i).gr.quar = false ∧ p.hop.toNat < rwsF s 0x104 20 6 ∧ q = p ∧ u = (updPort i (fun x => { x with gr := { x.gr with lastData := some s.time.now } }) s)) ∨ (64 ≤ i ∧ internalUsable s i = true ∧ (68 ≤ i ∨ p.src = hostEid s (i - 64)) ∧ (i ≠ 68 ∨ lenOf p ≤ 1) ∧ q = { p with epoch := activeEpoch s, stage := 0, hop := 0, nonmin := false, detour := eidNone } ∧ u = s)) ∧ (p.cls.toNat < 2) ∧ (p.ptype ≠ 8) ∧ (p.ptype ≠ 9) ∧ ((p.ptype ≠ 0x40 ∧ p.ptype ≠ 0x41) ∨ 68 ≤ i) ∧ (p.dest ≠ eidNone) ∧ (p.mode ≠ 2) ∧ (q.epoch = activeEpoch s) ∧ (lookupBough u (homeBough i) = some k) ∧ (key = (if q.detour ≠ eidNone then q.detour.toNat else q.dest.toNat)) ∧ (r = eccRead (bghCtr k 2) (eccRep k) (bankKey (activeEpoch s) key) (if k = homeBough i then inc (bghCtr k 0) u else inc (bghCtr k 1) (inc (bghCtr k 0) u))) ∧ (struck u (eccRep k) (bankKey (activeEpoch s) key) = false) ∧ (w = ftRead r (activeEpoch s) key) ∧ (ftDrop w = false) ∧ (ftLocal w = false) ∧ (p.mode ≠ 0) ∧ (q.nonmin = true ∨ q.detour ≠ eidNone ∨ bitW w 28 = false) ∧ (q.detour = eidNone) ∧ (candidates r p.cls.toNat i w = []) ∧ quiet s (freePool i (Packet.vcOf p) (lenOf p) true (cnpDrop 0 r)) = true := by decide +kernel

set_option maxRecDepth 100000 in
theorem wit_ArrivalRouted_17 :
    let i : Nat := 3; let p : Packet := { dest := 5, src := 0x20, cls := 0, lenCells := 2, ptype := 1, mode := 3, nonmin := true, detour := 7 }; let q : Packet := p; let k : Nat := 0; let key : Nat := (if q.detour ≠ eidNone then q.detour.toNat else q.dest.toNat); let o : Nat := 4; let s : State := { sOn with stage.rws := [(0x118, 0x20), (0x100, 0x30), (0x104, 0x020C0840), (0x108, 0), (0x110, 0x100)], stage.ft := [(5, 1 + 4 * 16), (7, 1 + 8 * 16)], net.ports := [(3, { st := .up }), (4, { st := .up }), (8, { st := .disabled }), (9, { st := .up })] }; let u : State := (updPort i (fun x => { x with gr := { x.gr with lastData := some s.time.now } }) s); let r : State := eccRead (bghCtr k 2) (eccRep k) (bankKey (activeEpoch s) key) (if k = homeBough i then inc (bghCtr k 0) u else inc (bghCtr k 1) (inc (bghCtr k 0) u)); let w : Word := ftRead r (activeEpoch s) key; let f : Packet := { q with detour := eidNone, stage := if rwsF s (0x110 + 4 * (o / 32)) (o % 32) 1 = 1 then q.stage + 1 else q.stage, hop := q.hop + 1 }; let x : State := eccRead (bghCtr k 2) (eccRep k) (bankKey (activeEpoch s) q.dest.toNat) (if k = homeBough i then inc (bghCtr k 0) (inc (cnpCtr 14) r) else inc (bghCtr k 1) (inc (bghCtr k 0) (inc (cnpCtr 14) r)))
    ((i < 64 ∧ domOn s (dPort i) = true ∧ (port s i).st = .up ∧ (port s i).rp.rx = [] ∧ (port s i).gr.quar = false ∧ p.hop.toNat < rwsF s 0x104 20 6 ∧ q = p ∧ u = (updPort i (fun x => { x with gr := { x.gr with lastData := some s.time.now } }) s)) ∨ (64 ≤ i ∧ internalUsable s i = true ∧ (68 ≤ i ∨ p.src = hostEid s (i - 64)) ∧ (i ≠ 68 ∨ lenOf p ≤ 1) ∧ q = { p with epoch := activeEpoch s, stage := 0, hop := 0, nonmin := false, detour := eidNone } ∧ u = s)) ∧ (p.cls.toNat < 2) ∧ (p.ptype ≠ 8) ∧ (p.ptype ≠ 9) ∧ ((p.ptype ≠ 0x40 ∧ p.ptype ≠ 0x41) ∨ 68 ≤ i) ∧ (p.dest ≠ eidNone) ∧ (p.mode ≠ 2) ∧ (q.epoch = activeEpoch s) ∧ (lookupBough u (homeBough i) = some k) ∧ (key = (if q.detour ≠ eidNone then q.detour.toNat else q.dest.toNat)) ∧ (r = eccRead (bghCtr k 2) (eccRep k) (bankKey (activeEpoch s) key) (if k = homeBough i then inc (bghCtr k 0) u else inc (bghCtr k 1) (inc (bghCtr k 0) u))) ∧ (struck u (eccRep k) (bankKey (activeEpoch s) key) = false) ∧ (w = ftRead r (activeEpoch s) key) ∧ (ftDrop w = false) ∧ (ftLocal w = false) ∧ (p.mode = 3) ∧ (q.detour ≠ eidNone) ∧ (candidates r p.cls.toNat i w = []) ∧ (struck r (eccRep k) (bankKey (activeEpoch s) q.dest.toNat) = false) ∧ (x = eccRead (bghCtr k 2) (eccRep k) (bankKey (activeEpoch s) q.dest.toNat) (if k = homeBough i then inc (bghCtr k 0) (inc (cnpCtr 14) r) else inc (bghCtr k 1) (inc (bghCtr k 0) (inc (cnpCtr 14) r)))) ∧ (ftDrop (ftRead x (activeEpoch s) q.dest.toNat) = false) ∧ (ftLocal (ftRead x (activeEpoch s) q.dest.toNat) = false) ∧ ((candidates x p.cls.toNat i (ftRead x (activeEpoch s) q.dest.toNat)).head? = some (0, o)) ∧ (rwsF s (0x110 + 4 * (o / 32)) (o % 32) 1 = 0 ∨ q.stage ≠ 3) ∧ (f = { q with detour := eidNone, stage := if rwsF s (0x110 + 4 * (o / 32)) (o % 32) 1 = 1 then q.stage + 1 else q.stage, hop := q.hop + 1 }) ∧ quiet s (enqueue { inp := i, out := o, vc := Packet.vcOf f, inVc := Packet.vcOf p, arrived := s.time.now, bank := some (activeEpoch s), pkt := f, whole := true } x) = true := by decide +kernel

set_option maxRecDepth 100000 in
theorem wit_ArrivalRouted_18 :
    let i : Nat := 3; let p : Packet := { dest := 5, src := 0x20, cls := 0, lenCells := 2, ptype := 1, mode := 3, stage := 3 }; let q : Packet := p; let k : Nat := 0; let key : Nat := (if q.detour ≠ eidNone then q.detour.toNat else q.dest.toNat); let o : Nat := 8; let s : State := { sOn with stage.rws := [(0x118, 0x20), (0x100, 0x30), (0x104, 0x020C0840), (0x108, 0), (0x110, 0x100)], stage.ft := [(5, 1 + 8 * 16)], net.ports := [(3, { st := .up }), (4, { st := .up }), (8, { st := .up }), (9, { st := .up })] }; let u : State := (updPort i (fun x => { x with gr := { x.gr with lastData := some s.time.now } }) s); let r : State := eccRead (bghCtr k 2) (eccRep k) (bankKey (activeEpoch s) key) (if k = homeBough i then inc (bghCtr k 0) u else inc (bghCtr k 1) (inc (bghCtr k 0) u)); let w : Word := ftRead r (activeEpoch s) key
    ((i < 64 ∧ domOn s (dPort i) = true ∧ (port s i).st = .up ∧ (port s i).rp.rx = [] ∧ (port s i).gr.quar = false ∧ p.hop.toNat < rwsF s 0x104 20 6 ∧ q = p ∧ u = (updPort i (fun x => { x with gr := { x.gr with lastData := some s.time.now } }) s)) ∨ (64 ≤ i ∧ internalUsable s i = true ∧ (68 ≤ i ∨ p.src = hostEid s (i - 64)) ∧ (i ≠ 68 ∨ lenOf p ≤ 1) ∧ q = { p with epoch := activeEpoch s, stage := 0, hop := 0, nonmin := false, detour := eidNone } ∧ u = s)) ∧ (p.cls.toNat < 2) ∧ (p.ptype ≠ 8) ∧ (p.ptype ≠ 9) ∧ ((p.ptype ≠ 0x40 ∧ p.ptype ≠ 0x41) ∨ 68 ≤ i) ∧ (p.dest ≠ eidNone) ∧ (p.mode ≠ 2) ∧ (q.epoch = activeEpoch s) ∧ (lookupBough u (homeBough i) = some k) ∧ (key = (if q.detour ≠ eidNone then q.detour.toNat else q.dest.toNat)) ∧ (r = eccRead (bghCtr k 2) (eccRep k) (bankKey (activeEpoch s) key) (if k = homeBough i then inc (bghCtr k 0) u else inc (bghCtr k 1) (inc (bghCtr k 0) u))) ∧ (struck u (eccRep k) (bankKey (activeEpoch s) key) = false) ∧ (w = ftRead r (activeEpoch s) key) ∧ (ftDrop w = false) ∧ (ftLocal w = false) ∧ (p.mode = 3) ∧ ((candidates r p.cls.toNat i w).head? = some (0, o)) ∧ (rwsF s (0x110 + 4 * (o / 32)) (o % 32) 1 = 1) ∧ (q.stage = 3) ∧ quiet s (freePool i (Packet.vcOf p) (lenOf p) true (cnpDrop 2 r)) = true := by decide +kernel

set_option maxRecDepth 100000 in
theorem wit_ArrivalRouted_19 :
    let i : Nat := 3; let p : Packet := { dest := 5, src := 0x20, cls := 0, lenCells := 2, ptype := 1, epoch := true }; let q : Packet := p; let k : Nat := 0; let o : Nat := 66; let s : State := { sOn with stage.rws := [(0x118, 0x20), (0x100, 0x30), (0x104, 0x020C0840), (0x108, 0), (0x110, 0x100)], stage.ft := [(2 ^ 20 + 5, 2 * 16)], net.ports := [(3, { st := .up }), (4, { st := .up }), (8, { st := .disabled }), (9, { st := .up })], stage.bank := .draining }; let u : State := (updPort i (fun x => { x with gr := { x.gr with lastData := some s.time.now } }) s); let r : State := eccRead (bghCtr k 2) (eccRep k) (bankKey q.epoch q.dest.toNat) (if k = homeBough i then inc (bghCtr k 0) (if s.stage.bank = .draining then { u with stage.drainClk := s.time.now } else inc (cnpCtr 5) u) else inc (bghCtr k 1) (inc (bghCtr k 0) (if s.stage.bank = .draining then { u with stage.drainClk := s.time.now } else inc (cnpCtr 5) u))); let w : Word := ftRead r q.epoch q.dest.toNat
    ((i < 64 ∧ domOn s (dPort i) = true ∧ (port s i).st = .up ∧ (port s i).rp.rx = [] ∧ (port s i).gr.quar = false ∧ p.hop.toNat < rwsF s 0x104 20 6 ∧ q = p ∧ u = (updPort i (fun x => { x with gr := { x.gr with lastData := some s.time.now } }) s)) ∨ (64 ≤ i ∧ internalUsable s i = true ∧ (68 ≤ i ∨ p.src = hostEid s (i - 64)) ∧ (i ≠ 68 ∨ lenOf p ≤ 1) ∧ q = { p with epoch := activeEpoch s, stage := 0, hop := 0, nonmin := false, detour := eidNone } ∧ u = s)) ∧ (p.cls.toNat < 2) ∧ (p.ptype ≠ 8) ∧ (p.ptype ≠ 9) ∧ ((p.ptype ≠ 0x40 ∧ p.ptype ≠ 0x41) ∨ 68 ≤ i) ∧ (p.dest ≠ eidNone) ∧ (p.mode ≠ 2) ∧ (q.epoch ≠ activeEpoch s) ∧ (s.stage.bank = .draining ∨ s.stage.bank = .pending) ∧ (lookupBough u (homeBough i) = some k) ∧ (q.detour = eidNone) ∧ (struck u (eccRep k) (bankKey q.epoch q.dest.toNat) = false) ∧ (r = eccRead (bghCtr k 2) (eccRep k) (bankKey q.epoch q.dest.toNat) (if k = homeBough i then inc (bghCtr k 0) (if s.stage.bank = .draining then { u with stage.drainClk := s.time.now } else inc (cnpCtr 5) u) else inc (bghCtr k 1) (inc (bghCtr k 0) (if s.stage.bank = .draining then { u with stage.drainClk := s.time.now } else inc (cnpCtr 5) u)))) ∧ (w = ftRead r q.epoch q.dest.toNat) ∧ (ftLocal w = true) ∧ (codePort (ftCand w 0) = some o) ∧ (o ≠ 68) ∧ (internalUsable r o = true) ∧ quiet s (enqueue { inp := i, out := o, vc := Packet.vcOf q, inVc := Packet.vcOf p, arrived := s.time.now, bank := some q.epoch, pkt := q, whole := true } r) = true := by decide +kernel

set_option maxRecDepth 100000 in
theorem wit_ArrivalRouted_20 :
    let i : Nat := 3; let p : Packet := { dest := 5, src := 0x20, cls := 3, lenCells := 2, ptype := 0x50, epoch := true }; let k : Nat := 0; let o : Nat := 68; let s : State := { sOn with stage.ft := [(5, 4 * 16)], net.ports := [(3, { st := .up, gr := { quar := true } })] }; let m : State := (ingressMeter i 1 { p with epoch := activeEpoch s } s).1; let r : State := eccRead (bghCtr k 2) (eccRep k) (bankKey (activeEpoch s) p.dest.toNat) (if k = homeBough i then inc (bghCtr k 0) m else inc (bghCtr k 1) (inc (bghCtr k 0) m)); let w : Word := ftRead r (activeEpoch s) p.dest.toNat
    (i < 64) ∧ (domOn s (dPort i) = true) ∧ ((port s i).st = .up) ∧ ((port s i).rp.rx = []) ∧ ((port s i).gr.quar = true) ∧ (p.cls = 3) ∧ (p.ptype ≠ 8) ∧ (p.ptype ≠ 9) ∧ (p.ptype ≠ 0x40) ∧ (p.ptype ≠ 0x41) ∧ (p.dest ≠ eidNone) ∧ (p.hop.toNat < rwsF s 0x104 20 6) ∧ (p.mode ≠ 2) ∧ (p.detour = eidNone) ∧ (ingressMeter i 1 { p with epoch := activeEpoch s } s = (m, true)) ∧ (lookupBough m (homeBough i) = some k) ∧ (struck m (eccRep k) (bankKey (activeEpoch s) p.dest.toNat) = false) ∧ (r = eccRead (bghCtr k 2) (eccRep k) (bankKey (activeEpoch s) p.dest.toNat) (if k = homeBough i then inc (bghCtr k 0) m else inc (bghCtr k 1) (inc (bghCtr k 0) m))) ∧ (w = ftRead r (activeEpoch s) p.dest.toNat) ∧ (ftLocal w = true) ∧ (ftCand w 0 = 4) ∧ (o = 68) ∧ quiet s (enqueue { inp := i, out := o, vc := Packet.vcOf { p with epoch := activeEpoch s }, inVc := Packet.vcOf p, arrived := s.time.now, bank := some (activeEpoch s), pkt := { p with epoch := activeEpoch s }, whole := true } r) = true := by decide +kernel

set_option maxRecDepth 100000 in
theorem wit_ArrivalRouted_21 :
    let i : Nat := 64; let p : Packet := { dest := 5, src := 0x20, cls := 3, lenCells := 2, ptype := 0x50 }; let s : State := { sOn with stage.rws := [(0x118, 0x20), (mtrBase 64 1, 0), (mtrBase 64 1 + 0xC, 2 ^ 26)] }; let q : Packet := { p with epoch := activeEpoch s, stage := 0, hop := 0, nonmin := false, detour := eidNone }; let u : State := s; let m : State := (ingressMeter i (p.cls.toNat - 2) q s).1
    (64 ≤ i) ∧ (i < 68) ∧ (internalUsable s i = true) ∧ (p.src = hostEid s (i - 64)) ∧ (2 ≤ p.cls.toNat) ∧ (p.ptype ≠ 8) ∧ (p.ptype ≠ 9) ∧ (p.dest ≠ eidNone) ∧ (p.mode ≠ 2) ∧ (q = { p with epoch := activeEpoch s, stage := 0, hop := 0, nonmin := false, detour := eidNone }) ∧ (u = s) ∧ (ingressMeter i (p.cls.toNat - 2) q s = (m, false)) ∧ quiet s (m) = true := by decide +kernel

set_option maxRecDepth 100000 in
theorem wit_ArrivalRouted_22 :
    let i : Nat := 64; let p : Packet := { dest := 5, src := 0x20, cls := 2, lenCells := 2, ptype := 1 }; let k : Nat := 0; let o : Nat := 3; let s : State := { sOn with stage.rws := [(0x118, 0x20), (0x110, 0)], stage.ft := [(5, 1 + 3 * 16)], net.ports := [(3, { st := .up })] }; let q : Packet := { p with epoch := activeEpoch s, stage := 0, hop := 0, nonmin := false, detour := eidNone }; let u : State := s; let m : State := (ingressMeter i 0 q s).1; let r : State := eccRead (bghCtr k 2) (eccRep k) (bankKey (activeEpoch s) p.dest.toNat) (if k = homeBough i then inc (bghCtr k 0) m else inc (bghCtr k 1) (inc (bghCtr k 0) m)); let w : Word := ftRead r (activeEpoch s) p.dest.toNat
    (64 ≤ i) ∧ (i < 68) ∧ (internalUsable s i = true) ∧ (p.src = hostEid s (i - 64)) ∧ (p.cls = 2) ∧ (p.ptype ≠ 8) ∧ (p.ptype ≠ 9) ∧ (p.ptype ≠ 0x40) ∧ (p.ptype ≠ 0x41) ∧ (p.dest ≠ eidNone) ∧ (p.mode ≠ 2) ∧ (q = { p with epoch := activeEpoch s, stage := 0, hop := 0, nonmin := false, detour := eidNone }) ∧ (u = s) ∧ (ingressMeter i 0 q s = (m, true)) ∧ (lookupBough m (homeBough i) = some k) ∧ (struck m (eccRep k) (bankKey (activeEpoch s) p.dest.toNat) = false) ∧ (r = eccRead (bghCtr k 2) (eccRep k) (bankKey (activeEpoch s) p.dest.toNat) (if k = homeBough i then inc (bghCtr k 0) m else inc (bghCtr k 1) (inc (bghCtr k 0) m))) ∧ (w = ftRead r (activeEpoch s) p.dest.toNat) ∧ (ftDrop w = false) ∧ (ftLocal w = false) ∧ ((candidates r 2 i w).head? = some (0, o)) ∧ (rwsF s (0x110 + 4 * (o / 32)) (o % 32) 1 = 0) ∧ (shareOf r o = 0) ∧ quiet s (raise 154 2 (inc (cnpCtr 33) r)) = true := by decide +kernel

set_option maxRecDepth 100000 in
theorem wit_ArrivalRouted_23 :
    let i : Nat := 64; let p : Packet := { dest := 5, src := 0x20, cls := 0, lenCells := 2, ptype := 0x40, ext := [0, 0, 0, 0], extMask := 0x20 }; let x : Nat := Packet.extF p 5 0 0 10; let s : State := { sOn with stage.rws := [(0x118, 0x20), (0x100, 0x30), (0x104, 0x020C0840), (0x108, 0), (0x110, 0x100)], stage.ft := [], net.ports := [(3, { st := .up }), (4, { st := .up }), (8, { st := .disabled }), (9, { st := .up })] }; let q : Packet := { p with epoch := activeEpoch s, stage := 0, hop := 0, nonmin := false, detour := eidNone }; let u : State := s
    (i < 68) ∧ ((i < 64 ∧ domOn s (dPort i) = true ∧ (port s i).st = .up ∧ (port s i).rp.rx = [] ∧ (port s i).gr.quar = false ∧ p.hop.toNat < rwsF s 0x104 20 6 ∧ q = p ∧ u = (updPort i (fun x => { x with gr := { x.gr with lastData := some s.time.now } }) s)) ∨ (64 ≤ i ∧ internalUsable s i = true ∧ (68 ≤ i ∨ p.src = hostEid s (i - 64)) ∧ (i ≠ 68 ∨ lenOf p ≤ 1) ∧ q = { p with epoch := activeEpoch s, stage := 0, hop := 0, nonmin := false, detour := eidNone } ∧ u = s)) ∧ (p.cls.toNat < 2) ∧ (p.ptype = 0x40 ∨ p.ptype = 0x41) ∧ (p.dest ≠ eidNone) ∧ (p.dest ≠ nodeEid s) ∧ (x = Packet.extF p 5 0 0 10) ∧ quiet s (freePool i (Packet.vcOf p) (lenOf p) true (treeDrop 1 u)) = true := by decide +kernel

set_option maxRecDepth 100000 in
theorem wit_ArrivalRouted_24 :
    let i : Nat := 64; let p : Packet := { dest := 0x30, src := 0x20, cls := 0, lenCells := 2, ptype := 0x40, ext := [1, 0, 0, 0], extMask := 0x20 }; let x : Nat := 1; let o : Nat := 69; let s : State := { sOn with stage.rws := [(0x118, 0x20), (0x100, 0x30), (0x104, 0x020C0840), (0x108, 0), (0x110, 0x100)], stage.ft := [], net.ports := [(3, { st := .up }), (4, { st := .up }), (8, { st := .disabled }), (9, { st := .up })], trees := [(1, { st := 1 })] }; let q : Packet := { p with epoch := activeEpoch s, stage := 0, hop := 0, nonmin := false, detour := eidNone }; let u : State := s
    (i < 68) ∧ ((i < 64 ∧ domOn s (dPort i) = true ∧ (port s i).st = .up ∧ (port s i).rp.rx = [] ∧ (port s i).gr.quar = false ∧ p.hop.toNat < rwsF s 0x104 20 6 ∧ q = p ∧ u = (updPort i (fun x => { x with gr := { x.gr with lastData := some s.time.now } }) s)) ∨ (64 ≤ i ∧ internalUsable s i = true ∧ (68 ≤ i ∨ p.src = hostEid s (i - 64)) ∧ (i ≠ 68 ∨ lenOf p ≤ 1) ∧ q = { p with epoch := activeEpoch s, stage := 0, hop := 0, nonmin := false, detour := eidNone } ∧ u = s)) ∧ (p.cls.toNat < 2) ∧ (p.ptype = 0x40 ∨ p.ptype = 0x41) ∧ (p.dest = nodeEid s) ∧ (p.dest ≠ eidNone) ∧ (x = Packet.extF p 5 0 0 10) ∧ ((tree s x).st ≠ 0) ∧ (Packet.extF p 5 0 16 16 = treeF s x 0 0 16) ∧ (o = 69 + treeUnit s x) ∧ quiet s (enqueue { inp := i, out := o, vc := Packet.vcOf q, inVc := Packet.vcOf p, arrived := s.time.now, bank := none, pkt := q, whole := true } u) = true := by decide +kernel

set_option maxRecDepth 100000 in
theorem wit_ArrivalRouted_25 :
    let i : Nat := 3; let p : Packet := { dest := 0x30, src := 0x20, cls := 0, lenCells := 2, ptype := 0x40, ext := [1, 0, 0, 0], extMask := 0x20 }; let q : Packet := p; let x : Nat := 1; let s : State := { sOn with stage.rws := [(0x118, 0x20), (0x100, 0x30), (0x104, 0x020C0840), (0x108, 0), (0x110, 0x100)], stage.ft := [], net.ports := [(3, { st := .up }), (4, { st := .up }), (8, { st := .disabled }), (9, { st := .up })] }; let u : State := (updPort i (fun x => { x with gr := { x.gr with lastData := some s.time.now } }) s)
    (i < 64) ∧ ((i < 64 ∧ domOn s (dPort i) = true ∧ (port s i).st = .up ∧ (port s i).rp.rx = [] ∧ (port s i).gr.quar = false ∧ p.hop.toNat < rwsF s 0x104 20 6 ∧ q = p ∧ u = (updPort i (fun x => { x with gr := { x.gr with lastData := some s.time.now } }) s)) ∨ (64 ≤ i ∧ internalUsable s i = true ∧ (68 ≤ i ∨ p.src = hostEid s (i - 64)) ∧ (i ≠ 68 ∨ lenOf p ≤ 1) ∧ q = { p with epoch := activeEpoch s, stage := 0, hop := 0, nonmin := false, detour := eidNone } ∧ u = s)) ∧ (p.cls.toNat < 2) ∧ (p.ptype = 0x40 ∨ p.ptype = 0x41) ∧ (p.dest = nodeEid s) ∧ (p.dest ≠ eidNone) ∧ (x = Packet.extF p 5 0 0 10) ∧ ((tree s x).st = 0 ∨ Packet.extF p 5 0 16 16 ≠ treeF s x 0 0 16) ∧ quiet s (freePool i (Packet.vcOf p) (lenOf p) true (treeDrop 0 u)) = true := by decide +kernel

set_option maxRecDepth 100000 in
theorem wit_ArrivalRouted_26 :
    let i : Nat := 64; let p : Packet := { dest := 0x30, src := 0x20, cls := 0, lenCells := 2, ptype := 0x40, ext := [1, 0, 0, 0], extMask := 0x20 }; let x : Nat := 1; let s : State := { sOn with stage.rws := [(0x118, 0x20), (0x100, 0x30), (0x104, 0x020C0840), (0x108, 0), (0x110, 0x100)], stage.ft := [], net.ports := [(3, { st := .up }), (4, { st := .up }), (8, { st := .disabled }), (9, { st := .up })] }; let q : Packet := { p with epoch := activeEpoch s, stage := 0, hop := 0, nonmin := false, detour := eidNone }; let u : State := s
    (64 ≤ i) ∧ (i < 68) ∧ ((i < 64 ∧ domOn s (dPort i) = true ∧ (port s i).st = .up ∧ (port s i).rp.rx = [] ∧ (port s i).gr.quar = false ∧ p.hop.toNat < rwsF s 0x104 20 6 ∧ q = p ∧ u = (updPort i (fun x => { x with gr := { x.gr with lastData := some s.time.now } }) s)) ∨ (64 ≤ i ∧ internalUsable s i = true ∧ (68 ≤ i ∨ p.src = hostEid s (i - 64)) ∧ (i ≠ 68 ∨ lenOf p ≤ 1) ∧ q = { p with epoch := activeEpoch s, stage := 0, hop := 0, nonmin := false, detour := eidNone } ∧ u = s)) ∧ (p.cls.toNat < 2) ∧ (p.ptype = 0x40 ∨ p.ptype = 0x41) ∧ (p.dest = nodeEid s) ∧ (p.dest ≠ eidNone) ∧ (x = Packet.extF p 5 0 0 10) ∧ ((tree s x).st = 0 ∨ Packet.extF p 5 0 16 16 ≠ treeF s x 0 0 16) ∧ quiet s (sendTree 0 i (treePkt false x (Packet.extF p 5 0 16 16) (Packet.extF p 5 1 0 16) 0 0 0 0 (Packet.extF p 5 2 0 16) 3 0 []) (treeDrop 0 s)) = true := by decide +kernel

set_option maxRecDepth 100000 in
theorem wit_ArrivalRouted_27 :
    let i : Nat := 64; let p : Packet := { dest := 5, src := 6, cls := 0, lenCells := 2, ptype := 8 }; let o : Nat := 66; let s : State := sOn
    (64 ≤ i) ∧ (i < 68) ∧ (internalUsable s i = true) ∧ (p.ptype = 8 ∨ p.ptype = 9) ∧ (([2 * (1 - (i - 64) / 2), 2 * (1 - (i - 64) / 2) + 1].map xN).find? (fun o => internalUsable s o) = some o) ∧ quiet s (enqueue { inp := i, out := o, vc := Packet.vcOf p, inVc := Packet.vcOf p, arrived := s.time.now, bank := none, pkt := p, whole := true } s) = true := by decide +kernel

set_option maxRecDepth 100000 in
theorem wit_ArrivalRouted_28 :
    let i : Nat := 3; let p : Packet := { dest := 5, src := 0x20, cls := 0, lenCells := 2, ptype := 1 }; let k : Nat := 0; let o : Nat := 66; let a : Arrival := { n := 2, vc := 0 }; let s : State := { sOn with stage.ft := [(5, 2 * 16)], net.ports := [(3, { st := .up, rp := { rx := [{ n := 2, vc := 0 }], rxLeft := 1 } })] }; let u : State := (updPort i (fun x => { x with gr := { x.gr with lastData := some s.time.now } }) (updPort i (fun x => { x with rp := { x.rp with rx := [{ a with arrived := true }] } }) s)); let r : State := eccRead (bghCtr k 2) (eccRep k) (bankKey (activeEpoch s) p.dest.toNat) (if k = homeBough i then inc (bghCtr k 0) u else inc (bghCtr k 1) (inc (bghCtr k 0) u)); let w : Word := ftRead r (activeEpoch s) p.dest.toNat
    (i < 64) ∧ (domOn s (dPort i) = true) ∧ ((port s i).rp.rx = [a]) ∧ (a.arrived = false) ∧ (a.whole = false) ∧ (a.bad = false) ∧ ((port s i).gr.quar = false) ∧ (p.cls.toNat < 2) ∧ (p.ptype ≠ 8) ∧ (p.ptype ≠ 9) ∧ (p.ptype ≠ 0x40) ∧ (p.ptype ≠ 0x41) ∧ (p.dest ≠ eidNone) ∧ (p.mode ≠ 2) ∧ (p.hop.toNat < rwsF s 0x104 20 6) ∧ (p.epoch = activeEpoch s) ∧ (p.detour = eidNone) ∧ (u = (updPort i (fun x => { x with gr := { x.gr with lastData := some s.time.now } }) (updPort i (fun x => { x with rp := { x.rp with rx := [{ a with arrived := true }] } }) s))) ∧ (lookupBough u (homeBough i) = some k) ∧ (struck u (eccRep k) (bankKey (activeEpoch s) p.dest.toNat) = false) ∧ (r = eccRead (bghCtr k 2) (eccRep k) (bankKey (activeEpoch s) p.dest.toNat) (if k = homeBough i then inc (bghCtr k 0) u else inc (bghCtr k 1) (inc (bghCtr k 0) u))) ∧ (w = ftRead r (activeEpoch s) p.dest.toNat) ∧ (ftLocal w = true) ∧ (codePort (ftCand w 0) = some o) ∧ (o ≠ 68) ∧ (internalUsable r o = true) ∧ quiet s (enqueue { inp := i, out := o, vc := Packet.vcOf p, inVc := a.vc, arrived := s.time.now, bank := some (activeEpoch s), pkt := p, whole := false } r) = true := by decide +kernel

theorem wit_OutputArbitration_1 :
    let o : Nat := 66; let s : State := { sOn with net.outs := [(66, { busy := some { inp := 64, out := 66, vc := 0, inVc := 0, arrived := 0, bank := some false, pkt := { dest := 5, src := 0x20, cls := 0, lenCells := 2, ptype := 1 }, whole := true } })] }
    ((outp s o).busy.isSome = true) ∧ quiet s (s) = true := by decide

set_option maxRecDepth 100000 in
theorem wit_OutputArbitration_2 :
    let o : Nat := 68; let h : Held := { inp := 64, out := 68, vc := 12, inVc := 0, arrived := 0, bank := some false, pkt := { dest := 5, src := 0x20, cls := 3, lenCells := 2, ptype := 0x50 }, whole := true }; let rr : TMap Nat := (match rrHead [] 3 [{ inp := 64, out := 68, vc := 12, inVc := 0, arrived := 0, bank := some false, pkt := { dest := 5, src := 0x20, cls := 3, lenCells := 2, ptype := 0x50 }, whole := true }] with | some x => x.2 | none => []); let s : State := { sOn with net.voq := [{ inp := 64, out := 68, vc := 12, inVc := 0, arrived := 0, bank := some false, pkt := { dest := 5, src := 0x20, cls := 3, lenCells := 2, ptype := 0x50 }, whole := true }] }
    ((outp s o).busy = none) ∧ (o < 73) ∧ (64 ≤ o ∨ gcmEn s o = false ∨ (rawKey s o 0 (b2n (port s o).kpTx)).ecc ≠ .bad) ∧ (rwsF s (shpBase o) 16 8 ≠ 0) ∧ ((outp s o).mgtLast = none ∨ (∃ t, (outp s o).mgtLast = some t ∧ t + rwsF s (shpBase o) 16 8 * 1000 ≤ s.time.now)) ∧ (rrHead (outp s o).rr 3 (eligible s o) = some (h, rr)) ∧ quiet s (grant h (inc (shpBase o + 0x40 + 64) (updOut o (fun x => { x with rr := rr, mgtLast := some s.time.now }) s))) = true := by refine ⟨by decide, by decide, by decide, by decide +kernel, Or.inl (by decide +kernel), by decide +kernel, by decide +kernel⟩

set_option maxRecDepth 100000 in
theorem wit_OutputArbitration_3 :
    let o : Nat := 66; let h : Held := { inp := 64, out := 66, vc := 8, inVc := 0, arrived := 0, bank := some false, pkt := { dest := 5, src := 0x20, cls := 2, lenCells := 2, ptype := 1, extMask := 16 }, whole := true }; let s : State := { sOn with net.voq := [{ inp := 64, out := 66, vc := 8, inVc := 0, arrived := 0, bank := some false, pkt := { dest := 5, src := 0x20, cls := 2, lenCells := 2, ptype := 1, extMask := 16 }, whole := true }], net.backlog := [(66, 128)] }
    ((outp s o).busy = none) ∧ (o < 73) ∧ (64 ≤ o ∨ gcmEn s o = false ∨ (rawKey s o 0 (b2n (port s o).kpTx)).ecc ≠ .bad) ∧ (rwsF s (shpBase o) 16 8 = 0 ∨ (∃ t, (outp s o).mgtLast = some t ∧ s.time.now < t + rwsF s (shpBase o) 16 8 * 1000) ∨ rrHead (outp s o).rr 3 (eligible s o) = none) ∧ (0 ≤ (outp s o).credit) ∧ (oldestAsd (eligible s o) = some h) ∧ quiet s (grant h s) = true := by refine ⟨by decide, by decide, by decide, Or.inr (Or.inr (by decide +kernel)), by decide +kernel, by decide +kernel, by decide +kernel⟩

set_option maxRecDepth 100000 in
theorem wit_OutputArbitration_4 :
    let o : Nat := 66; let h : Held := { inp := 64, out := 66, vc := 0, inVc := 0, arrived := 0, bank := some false, pkt := { dest := 5, src := 0x20, cls := 0, lenCells := 2, ptype := 1 }, whole := true }; let rr : TMap Nat := (match drr (quantum sOn 66) [] [{ inp := 64, out := 66, vc := 0, inVc := 0, arrived := 0, bank := some false, pkt := { dest := 5, src := 0x20, cls := 0, lenCells := 2, ptype := 1 }, whole := true }] [{ inp := 64, out := 66, vc := 0, inVc := 0, arrived := 0, bank := some false, pkt := { dest := 5, src := 0x20, cls := 0, lenCells := 2, ptype := 1 }, whole := true }] 400 0 [] with | some x => x.2.1 | none => []); let c : Nat := 0; let df : TMap Nat := (match drr (quantum sOn 66) [] [{ inp := 64, out := 66, vc := 0, inVc := 0, arrived := 0, bank := some false, pkt := { dest := 5, src := 0x20, cls := 0, lenCells := 2, ptype := 1 }, whole := true }] [{ inp := 64, out := 66, vc := 0, inVc := 0, arrived := 0, bank := some false, pkt := { dest := 5, src := 0x20, cls := 0, lenCells := 2, ptype := 1 }, whole := true }] 400 0 [] with | some x => x.2.2.2 | none => []); let s : State := { sOn with net.voq := [{ inp := 64, out := 66, vc := 0, inVc := 0, arrived := 0, bank := some false, pkt := { dest := 5, src := 0x20, cls := 0, lenCells := 2, ptype := 1 }, whole := true }] }
    ((outp s o).busy = none) ∧ (o < 73) ∧ (64 ≤ o ∨ gcmEn s o = false ∨ (rawKey s o 0 (b2n (port s o).kpTx)).ecc ≠ .bad) ∧ (rwsF s (shpBase o) 16 8 = 0 ∨ (∃ t, (outp s o).mgtLast = some t ∧ s.time.now < t + rwsF s (shpBase o) 16 8 * 1000) ∨ rrHead (outp s o).rr 3 (eligible s o) = none) ∧ ((outp s o).credit < 0 ∨ oldestAsd (eligible s o) = none) ∧ (drr (quantum s o) (outp s o).rr (eligible s o) (queuedAt s o) 400 (outp s o).drrPtr (outp s o).deficit = some (h, rr, c, df)) ∧ quiet s (grant h (updOut o (fun x => { x with rr := rr, drrPtr := c, deficit := df }) s)) = true := by refine ⟨by decide, by decide, by decide, Or.inr (Or.inr (by decide +kernel)), Or.inr (by decide +kernel), by decide +kernel, by decide +kernel⟩

theorem wit_OutputArbitration_5 :
    let o : Nat := 3; let s : State := sOn
    ((outp s o).busy = none) ∧ (o < 73) ∧ (64 ≤ o ∨ gcmEn s o = false ∨ (rawKey s o 0 (b2n (port s o).kpTx)).ecc ≠ .bad) ∧ (eligible s o = []) ∧ quiet s (s) = true := by decide

set_option maxRecDepth 100000 in
theorem wit_OutputArbitration_6 :
    let o : Nat := 66; let h : Held := { inp := 64, out := 66, vc := 0, inVc := 0, arrived := 0, bank := some false, pkt := { dest := 5, src := 0x20, cls := 0, lenCells := 2, ptype := 1 }, whole := true }; let rr : TMap Nat := (match drr (quantum sOn 66) [] [{ inp := 64, out := 66, vc := 0, inVc := 0, arrived := 0, bank := some false, pkt := { dest := 5, src := 0x20, cls := 0, lenCells := 2, ptype := 1 }, whole := true }] [{ inp := 64, out := 66, vc := 0, inVc := 0, arrived := 0, bank := some false, pkt := { dest := 5, src := 0x20, cls := 0, lenCells := 2, ptype := 1 }, whole := true }] 400 0 [] with | some x => x.2.1 | none => []); let c : Nat := 0; let df : TMap Nat := (match drr (quantum sOn 66) [] [{ inp := 64, out := 66, vc := 0, inVc := 0, arrived := 0, bank := some false, pkt := { dest := 5, src := 0x20, cls := 0, lenCells := 2, ptype := 1 }, whole := true }] [{ inp := 64, out := 66, vc := 0, inVc := 0, arrived := 0, bank := some false, pkt := { dest := 5, src := 0x20, cls := 0, lenCells := 2, ptype := 1 }, whole := true }] 400 0 [] with | some x => x.2.2.2 | none => []); let s : State := { sOn with net.voq := [{ inp := 64, out := 66, vc := 0, inVc := 0, arrived := 0, bank := some false, pkt := { dest := 5, src := 0x20, cls := 0, lenCells := 2, ptype := 1 }, whole := true }] }; let w : State := updOut o (fun x => { x with rr := rr, drrPtr := c, deficit := df }) s; let u : State := creditInput h.inp h.inVc (lenOf h.pkt) { w with net.voq := dropOne h w.net.voq }; let v : State := stageCells h.inp o (lenOf h.pkt) (count (shpBase o + 0x60 + 8 * clsOf h.pkt) (lenOf h.pkt) (inc (shpBase o + 0x40 + 8 * clsOf h.pkt) (updOut o (fun x => { x with used := Maps.upd 0 x.used (clsOf h.pkt) (fun n => n + lenOf h.pkt) }) u)))
    ((outp s o).busy = none) ∧ (o < 73) ∧ (64 ≤ o ∨ gcmEn s o = false ∨ (rawKey s o 0 (b2n (port s o).kpTx)).ecc ≠ .bad) ∧ (64 ≤ o) ∧ (rwsF s (shpBase o) 16 8 = 0 ∨ (∃ t, (outp s o).mgtLast = some t ∧ s.time.now < t + rwsF s (shpBase o) 16 8 * 1000) ∨ rrHead (outp s o).rr 3 (eligible s o) = none) ∧ ((outp s o).credit < 0 ∨ oldestAsd (eligible s o) = none) ∧ (drr (quantum s o) (outp s o).rr (eligible s o) (queuedAt s o) 400 (outp s o).drrPtr (outp s o).deficit = some (h, rr, c, df)) ∧ (h.ecc ≠ .bad) ∧ (h.whole = true) ∧ (h.out = o) ∧ (clsOf h.pkt ≠ 2) ∧ (w = updOut o (fun x => { x with rr := rr, drrPtr := c, deficit := df }) s) ∧ (u = creditInput h.inp h.inVc (lenOf h.pkt) { w with net.voq := dropOne h w.net.voq }) ∧ (v = stageCells h.inp o (lenOf h.pkt) (count (shpBase o + 0x60 + 8 * clsOf h.pkt) (lenOf h.pkt) (inc (shpBase o + 0x40 + 8 * clsOf h.pkt) (updOut o (fun x => { x with used := Maps.upd 0 x.used (clsOf h.pkt) (fun n => n + lenOf h.pkt) }) u)))) ∧ quiet s (deliverTx o (updOut o (fun x => { x with busy := some h, hold := false }) { v with net.tel := Maps.upd {} v.net.tel (4 * o + clsOf h.pkt) (fun r => { r with delayMax := max r.delayMax (s.time.now - h.arrived), delaySum := r.delaySum + (s.time.now - h.arrived), pkts := r.pkts + 1, cells := r.cells + lenOf h.pkt }) })) = true := by exact ⟨by decide, by decide, by decide, by decide, Or.inr (Or.inr (by decide +kernel)), Or.inr (by decide +kernel), by decide +kernel, by decide, by decide, by decide, by decide, rfl, rfl, rfl, by decide +kernel⟩

set_option maxRecDepth 100000 in
theorem wit_OutputArbitration_7 :
    let o : Nat := 3; let h : Held := { inp := 64, out := 3, vc := 0, inVc := 0, arrived := 0, bank := some false, pkt := { dest := 5, src := 0x20, cls := 0, lenCells := 2, ptype := 1 }, whole := true }; let s : State := { sOn with net.ports := [(3, { st := .up })], net.outs := [(3, { busy := some { inp := 64, out := 3, vc := 0, inVc := 0, arrived := 0, bank := some false, pkt := { dest := 5, src := 0x20, cls := 0, lenCells := 2, ptype := 1 }, whole := true }, hold := true })], stage.rws := [(prtBase 3, 0x80)] }
    ((outp s o).busy = some h) ∧ (h.out = o) ∧ ((outp s o).hold = true) ∧ (h.whole = true ∨ h.inp = 68) ∧ (o < 64) ∧ (keyOk s o = false) ∧ quiet s (updOut o (fun x => { x with busy := some { h with whole := true }, due := true }) s) = true := by decide +kernel

set_option maxRecDepth 100000 in
theorem wit_OutputArbitration_8 :
    let o : Nat := 3; let h : Held := { inp := 64, out := 3, vc := 0, inVc := 0, arrived := 0, bank := some false, pkt := { dest := 5, src := 0x20, cls := 0, lenCells := 2, ptype := 1 }, whole := true }; let s : State := { sOn with net.ports := [(3, { st := .up })], net.outs := [(3, { busy := some { inp := 64, out := 3, vc := 0, inVc := 0, arrived := 0, bank := some false, pkt := { dest := 5, src := 0x20, cls := 0, lenCells := 2, ptype := 1 }, whole := true }, hold := true })] }
    ((outp s o).busy = some h) ∧ (h.out = o) ∧ ((outp s o).hold = true) ∧ (h.whole = true ∨ h.inp = 68) ∧ (o < 64) ∧ (gcmEn s o = false) ∧ quiet s (updOut o (fun x => { x with busy := some { h with whole := true }, hold := false, due := false }) (updPort o (fun p => { p with rp := { p.rp with txq := p.rp.txq ++ markLast (Packet.cells { h.pkt with tag := 0 }) } }) s)) = true := by decide +kernel

set_option maxRecDepth 100000 in
theorem wit_OutputArbitration_9 :
    let o : Nat := 3; let h : Held := { inp := 64, out := 3, vc := 0, inVc := 0, arrived := 0, bank := some false, pkt := { dest := 5, src := 0x20, cls := 0, lenCells := 2, ptype := 1 }, whole := true }; let s : State := { sOn with stage.rws := [(prtBase 3, 0x80)], heart.keys := [(12, { valid := true })], net.ports := [(3, { st := .up })], net.outs := [(3, { busy := some { inp := 64, out := 3, vc := 0, inVc := 0, arrived := 0, bank := some false, pkt := { dest := 5, src := 0x20, cls := 0, lenCells := 2, ptype := 1 }, whole := true }, hold := true })] }; let k : LinkKey := linkKey s o 0 (b2n (port s o).kpTx)
    ((outp s o).busy = some h) ∧ (h.out = o) ∧ ((outp s o).hold = true) ∧ (h.whole = true ∨ h.inp = 68) ∧ (o < 64) ∧ (gcmEn s o = true) ∧ (keyOk s o = true) ∧ (k = linkKey s o 0 (b2n (port s o).kpTx)) ∧ (k.ctr < 2 ^ 47) ∧ quiet s (updOut o (fun x => { x with busy := some { h with whole := true }, hold := false, due := false }) (updPort o (fun p => { p with rp := { p.rp with txq := p.rp.txq ++ markLast (encryptPkt k k.ctr h.pkt) } }) (setLinkKey o 0 (b2n (port s o).kpTx) { k with ctr := k.ctr + 1 } s))) = true := by decide +kernel

set_option maxRecDepth 100000 in
theorem wit_OutputArbitration_10 :
    let o : Nat := 66; let h : Held := { inp := 64, out := 66, vc := 0, inVc := 0, arrived := 0, bank := some false, pkt := { dest := 5, src := 0x20, cls := 0, lenCells := 2, ptype := 1 }, whole := true }; let s : State := { sOn with net.outs := [(66, { busy := some { inp := 64, out := 66, vc := 0, inVc := 0, arrived := 0, bank := some false, pkt := { dest := 5, src := 0x20, cls := 0, lenCells := 2, ptype := 1 }, whole := true }, hold := true })] }
    ((outp s o).busy = some h) ∧ (h.out = o) ∧ ((outp s o).hold = true) ∧ (h.whole = true ∨ h.inp = 68) ∧ (64 ≤ o) ∧ (clsOf h.pkt ≠ 2) ∧ quiet s (deliverTx o (updOut o (fun x => { x with busy := some { h with whole := true }, hold := false, due := false }) s)) = true := by decide +kernel

theorem wit_OutputArbitration_11 :
    let o : Nat := 66; let h : Held := { inp := 64, out := 66, vc := 0, inVc := 0, arrived := 0, bank := some false, pkt := { dest := 5, src := 0x20, cls := 0, lenCells := 2, ptype := 1 }, whole := true }; let s : State := sOn
    ((outp s o).busy = none ∨ (outp s o).hold = false ∨ ((outp s o).busy = some h ∧ h.whole = false ∧ h.inp ≠ 68)) ∧ quiet s (s) = true := by decide

set_option maxRecDepth 100000 in
theorem wit_TelemetryAndReplicas_1 :
    let s : State := sRun; let e : State := coreEcc eccMap (coreEcc eccTel s)
    (e = coreEcc eccMap (coreEcc eccTel s)) ∧ (rwsF e 0x400 20 1 = 0) ∧ quiet s (eccWrite (fun x => x.1 == eccTel) { e with net.tel := telRestart e, net.snapSeq := e.net.snapSeq + 1 }) = true := by decide +kernel

set_option maxRecDepth 100000 in
theorem wit_TelemetryAndReplicas_2 :
    let s : State := { sRun with stage.rws := [(0x400, 0x10000A)] }; let e : State := coreEcc eccMap (coreEcc eccTel s)
    (e = coreEcc eccMap (coreEcc eccTel s)) ∧ (rwsF e 0x400 20 1 = 1) ∧ (hbmOk e = false) ∧ quiet s (raise 154 8 (inc (cnpCtr 34) (eccWrite (fun x => x.1 == eccTel) { e with net.tel := telRestart e, net.snapSeq := e.net.snapSeq + 1 }))) = true := by decide +kernel

set_option maxRecDepth 100000 in
theorem wit_TelemetryAndReplicas_3 :
    let s : State := { sOn with stage.rws := [(0x400, 0x10000A)] }; let e : State := coreEcc eccMap (coreEcc eccTel s); let ws : List Word := w64 s.time.now ++ [w32 (nodeEid s).toNat, w32 (rwsF s 0x400 0 20)] ++ w64 s.net.snapSeq ++ [0, 0] ++ telAll s
    (e = coreEcc eccMap (coreEcc eccTel s)) ∧ (rwsF e 0x400 20 1 = 1) ∧ (hbmOk e = true) ∧ (ws = w64 s.time.now ++ [w32 (nodeEid s).toNat, w32 (rwsF s 0x400 0 20)] ++ w64 s.net.snapSeq ++ [0, 0] ++ telAll s) ∧ quiet s (eccWrite (fun x => x.1 == eccTel) { e with net := { e.net with tel := telRestart e, snapSeq := e.net.snapSeq + 1, hist := Maps.insert e.net.histSlot (Maps.putList 0 [] 0 (ws ++ List.replicate (2560 - ws.length) 0 ++ mapRecord s)) e.net.hist, histSlot := (e.net.histSlot + 1) % histSlots, wrapped := e.net.wrapped || decide (e.net.histSlot + 1 = histSlots) } }) = true := by decide +kernel

theorem wit_TelemetryAndReplicas_4 :
    let k : Nat := 2; let s : State := { sOn with net.boughs := [(2, { refreshing := true })] }
    ((Maps.get {} s.net.boughs k).refreshing = true) ∧ (domOn s (dBough k) = true) ∧ (fenced s (uBough k) = false) ∧ quiet s (raise (128 + k) 2 (inc (bghCtr k 4) (eccWrite (fun e => e.1 == eccRep k) { s with net.boughs := Maps.upd {} s.net.boughs k (fun b => { b with refreshing := false, stale := false }) }))) = true := by decide

theorem wit_TelemetryAndReplicas_5 :
    let k : Nat := 2; let s : State := sOn
    ((Maps.get {} s.net.boughs k).refreshing = false ∨ domOn s (dBough k) = false ∨ fenced s (uBough k) = true) ∧ quiet s (s) = true := by decide

set_option maxRecDepth 100000 in
theorem wit_QueueJobs_1 :
    let h : Nat := 1; let q : Nat := 0; let i : Word := 0; let j : Job := { id := 0, h := 1, q := 0, idx := 0, ents := [[65543, 0, 0, 0, 0, 0, 0, 0, 0, 0, 0, 0, 0, 0, 0, 2147483648]] }; let s : State := { sOn with hs.ports := [(1, { st := .up, jobs := [{ id := 0, h := 1, q := 0, idx := 0, ents := [[65543, 0, 0, 0, 0, 0, 0, 0, 0, 0, 0, 0, 0, 0, 0, 2147483648]] }], nextJob := 1 })], hs.wqs := [(objKey 20 1 0, { st := .active, priv := true, head := 1, tail := 1, order := [0] })], hs.cqs := [(objKey 20 1 0, { active := true })] }
    (hostUp s h = true) ∧ (freshJob s h q i 1 = some j) ∧ quiet s (finishJob h ({ j with begun := true }) 0 0 0 (updJob h j.id (fun k => { k with begun := true }) s)) = true := by decide +kernel

set_option maxRecDepth 100000 in
theorem wit_QueueJobs_2 :
    let h : Nat := 1; let q : Nat := 0; let i : Word := 0; let j : Job := { id := 0, h := 1, q := 0, idx := 0, ents := [[131079, 50331648, 0, 0, 0, 0, 0, 0, 0, 0, 0, 0, 0, 0, 0, 2147483648]] }; let s : State := { sOn with hs.ports := [(1, { st := .up, jobs := [{ id := 0, h := 1, q := 0, idx := 0, ents := [[131079, 50331648, 0, 0, 0, 0, 0, 0, 0, 0, 0, 0, 0, 0, 0, 2147483648]] }], nextJob := 1 })], hs.wqs := [(objKey 20 1 0, { st := .active, priv := true, head := 1, tail := 1, order := [0] })], hs.cqs := [(objKey 20 1 0, { active := true })] }
    (hostUp s h = true) ∧ (freshJob s h q i 2 = some j) ∧ (j.waitFor = []) ∧ quiet s (endJob h ({ j with begun := true }) 0 (comp0 ({ j with begun := true }) 0 0 0) (updJob h j.id (fun k => { k with begun := true }) s)) = true := by decide +kernel

set_option maxRecDepth 100000 in
theorem wit_QueueJobs_3 :
    let h : Nat := 1; let q : Nat := 0; let i : Word := 0; let j : Job := { id := 0, h := 1, q := 0, idx := 0, ents := [[131079, 50331648, 0, 0, 0, 0, 0, 0, 0, 0, 0, 0, 0, 0, 0, 2147483648]], waitFor := [7] }; let s : State := { sOn with hs.ports := [(1, { st := .up, jobs := [{ id := 0, h := 1, q := 0, idx := 0, ents := [[131079, 50331648, 0, 0, 0, 0, 0, 0, 0, 0, 0, 0, 0, 0, 0, 2147483648]], waitFor := [7] }], nextJob := 1 })], hs.wqs := [(objKey 20 1 0, { st := .active, priv := true, head := 1, tail := 1, order := [0] })], hs.cqs := [(objKey 20 1 0, { active := true })] }
    (hostUp s h = true) ∧ (freshJob s h q i 2 = some j) ∧ (j.waitFor ≠ []) ∧ quiet s ((updJob h j.id (fun k => { k with begun := true }) s)) = true := by decide +kernel

set_option maxRecDepth 100000 in
theorem wit_QueueJobs_4 :
    let h : Nat := 1; let q : Nat := 0; let i : Word := 0; let j : Job := { id := 0, h := 1, q := 0, idx := 0, ents := [[196615, 0, 0, 0, 0, 0, 0, 0, 0, 0, 0, 0, 5, 0, 0, 2147483648]] }; let k : Job := { id := 1, h := 1, q := 0, idx := 5, ents := [[65543, 0, 0, 0, 0, 0, 0, 0, 0, 0, 0, 0, 0, 0, 0, 2147483648]] }; let s : State := { sOn with hs.ports := [(1, { st := .up, jobs := [{ id := 0, h := 1, q := 0, idx := 0, ents := [[196615, 0, 0, 0, 0, 0, 0, 0, 0, 0, 0, 0, 5, 0, 0, 2147483648]] }], nextJob := 1 })], hs.wqs := [(objKey 20 1 0, { st := .active, priv := true, head := 1, tail := 1, order := [0], fetched := [{ id := 1, h := 1, q := 0, idx := 5, ents := [[65543, 0, 0, 0, 0, 0, 0, 0, 0, 0, 0, 0, 0, 0, 0, 2147483648]] }] })], hs.cqs := [(objKey 20 1 0, { active := true })] }
    (hostUp s h = true) ∧ (freshJob s h q i 3 = some j) ∧ ((wqOf (updJob h j.id (fun k => { k with begun := true }) s) h (fAt (Job.op j) 11 0 20)).st ≠ .absent) ∧ ((wqOf (updJob h j.id (fun k => { k with begun := true }) s) h (fAt (Job.op j) 11 0 20)).fn = (wqOf (updJob h j.id (fun k => { k with begun := true }) s) h j.q).fn) ∧ ((wqOf (updJob h j.id (fun k => { k with begun := true }) s) h (fAt (Job.op j) 11 0 20)).fetched.find? (fun k => k.q == fAt (Job.op j) 11 0 20 && k.idx == wAt (Job.op j) 12 && k.fired.isNone && k.id != j.id) = some k) ∧ quiet s (finishJob h ({ j with begun := true }) 0 0 0 (finishJob h k 2 k.acked 0 (inc (qmgCtr h 12) (updJob h j.id (fun k => { k with begun := true }) s)))) = true := by decide +kernel

set_option maxRecDepth 100000 in
theorem wit_QueueJobs_5 :
    let h : Nat := 1; let q : Nat := 0; let i : Word := 0; let j : Job := { id := 0, h := 1, q := 0, idx := 0, ents := [[196615, 0, 0, 0, 0, 0, 0, 0, 0, 0, 0, 0, 5, 0, 0, 2147483648]] }; let s : State := { sOn with hs.ports := [(1, { st := .up, jobs := [{ id := 0, h := 1, q := 0, idx := 0, ents := [[196615, 0, 0, 0, 0, 0, 0, 0, 0, 0, 0, 0, 5, 0, 0, 2147483648]] }], nextJob := 1 })], hs.wqs := [(objKey 20 1 0, { st := .active, priv := true, head := 1, tail := 1, order := [0], done := [5] })], hs.cqs := [(objKey 20 1 0, { active := true })] }
    (hostUp s h = true) ∧ (freshJob s h q i 3 = some j) ∧ ((wqOf (updJob h j.id (fun k => { k with begun := true }) s) h (fAt (Job.op j) 11 0 20)).st ≠ .absent) ∧ ((wqOf (updJob h j.id (fun k => { k with begun := true }) s) h (fAt (Job.op j) 11 0 20)).fn = (wqOf (updJob h j.id (fun k => { k with begun := true }) s) h j.q).fn) ∧ ((wqOf (updJob h j.id (fun k => { k with begun := true }) s) h (fAt (Job.op j) 11 0 20)).fetched = []) ∧ ((hport (updJob h j.id (fun k => { k with begun := true }) s) h).jobs.all (fun k => k.q != fAt (Job.op j) 11 0 20 || k.idx != wAt (Job.op j) 12 || k.id == j.id) = true) ∧ quiet s ((if (wqOf (updJob h j.id (fun k => { k with begun := true }) s) h (fAt (Job.op j) 11 0 20)).done.contains (wAt (Job.op j) 12) then finishJob h ({ j with begun := true }) 3 0 0 (inc (qmgCtr h 13) (updJob h j.id (fun k => { k with begun := true }) s)) else finishJob h ({ j with begun := true }) 4 0 0 (updJob h j.id (fun k => { k with begun := true }) s))) = true := by decide +kernel

set_option maxRecDepth 100000 in
theorem wit_QueueJobs_6 :
    let h : Nat := 1; let q : Nat := 0; let i : Word := 0; let j : Job := { id := 0, h := 1, q := 0, idx := 0, ents := [[196615, 0, 0, 0, 0, 0, 0, 0, 0, 0, 0, 9, 0, 0, 0, 2147483648]] }; let s : State := { sOn with hs.ports := [(1, { st := .up, jobs := [{ id := 0, h := 1, q := 0, idx := 0, ents := [[196615, 0, 0, 0, 0, 0, 0, 0, 0, 0, 0, 9, 0, 0, 0, 2147483648]] }], nextJob := 1 })], hs.wqs := [(objKey 20 1 0, { st := .active, priv := true, head := 1, tail := 1, order := [0] })], hs.cqs := [(objKey 20 1 0, { active := true })] }
    (hostUp s h = true) ∧ (freshJob s h q i 3 = some j) ∧ ((wqOf (updJob h j.id (fun k => { k with begun := true }) s) h (fAt (Job.op j) 11 0 20)).st = .absent) ∧ quiet s (finishJob h ({ j with begun := true }) 4 0 0 (updJob h j.id (fun k => { k with begun := true }) s)) = true := by decide +kernel

set_option maxRecDepth 100000 in
theorem wit_QueueJobs_7 :
    let h : Nat := 1; let q : Nat := 0; let i : Word := 0; let m : HostView := { spans := [(0x9000, (List.range 64).map (fun k => if k = 1 then 0x70 else if k = 10 then 0x80 else if k = 13 then 1 else 0))] }; let j : Job := { id := 0, h := 1, q := 0, idx := 0, ents := [[6291463, 0, 0, 0, 36864, 0, 0, 0, 0, 0, 0, 9, 0, 0, 0, 2147483648]] }; let d : List Word := [0x7000, 0, 8 * 2 ^ 20, 256, 0, 0, 0, 0, 0, 0, 0, 0, 0, 0, 0, 0]; let s : State := { sOn with hs.ports := [(1, { st := .up, jobs := [{ id := 0, h := 1, q := 0, idx := 0, ents := [[6291463, 0, 0, 0, 36864, 0, 0, 0, 0, 0, 0, 9, 0, 0, 0, 2147483648]] }], nextJob := 1 })], hs.wqs := [(objKey 20 1 0, { st := .active, priv := true, head := 1, tail := 1, order := [0] })], hs.cqs := [(objKey 20 1 0, { active := true })] }
    (hostUp s h = true) ∧ (freshJob s h q i 96 = some j) ∧ ((wqOf (updJob h j.id (fun k => { k with begun := true }) s) h j.q).fn = 0 ∨ ((wqOf (updJob h j.id (fun k => { k with begun := true }) s) h j.q).qbase ≤ fAt (Job.op j) 11 0 20 ∧ fAt (Job.op j) 11 0 20 < (wqOf (updJob h j.id (fun k => { k with begun := true }) s) h j.q).qbase + (wqOf (updJob h j.id (fun k => { k with begun := true }) s) h j.q).qcount ∧ bAt d 2 30 = false)) ∧ ((wqOf (updJob h j.id (fun k => { k with begun := true }) s) h (fAt (Job.op j) 11 0 20)).st = .absent) ∧ (rdWords h (wqOf (updJob h j.id (fun k => { k with begun := true }) s) h j.q).fn (viewOf m s) (u64 (Job.op j) 4) 16 (updJob h j.id (fun k => { k with begun := true }) s) = (.ok d, (updJob h j.id (fun k => { k with begun := true }) s))) ∧ (mayActFor (wqOf (updJob h j.id (fun k => { k with begun := true }) s) h j.q) (fAt d 3 0 8) = true) ∧ (fAt d 0 0 12 = 0) ∧ (4 ≤ fAt d 2 20 5) ∧ (fAt d 2 20 5 ≤ 16) ∧ (fAt d 2 26 4 ≤ 8) ∧ (fAt d 3 8 8 ≠ 0) ∧ (u64 d 4 % 8 = 0) ∧ (fAt d 7 0 21 ≤ 2 ^ 20) ∧ ((cqOf (updJob h j.id (fun k => { k with begun := true }) s) h (fAt d 2 0 20)).active = true) ∧ ((cqOf (updJob h j.id (fun k => { k with begun := true }) s) h (fAt d 2 0 20)).fn = fAt d 3 0 8) ∧ quiet s (finishJob h ({ j with begun := true }) 0 0 0 (setWq h (fAt (Job.op j) 11 0 20) { st := .active, base := u64 d 0, cq := fAt d 2 0 20, log := fAt d 2 20 5, inOrder := bAt d 2 25, prefetch := fAt d 2 26 4, priv := bAt d 2 30, fn := fAt d 3 0 8, weight := fAt d 3 8 8, headWb := u64 d 4, qbase := fAt d 6 0 20, qcount := fAt d 7 0 21 } (updJob h j.id (fun k => { k with begun := true }) s))) = true := by decide +kernel

set_option maxRecDepth 100000 in
theorem wit_QueueJobs_8 :
    let h : Nat := 1; let q : Nat := 0; let i : Word := 0; let m : HostView := {}; let j : Job := { id := 0, h := 1, q := 0, idx := 0, ents := [[6291463, 0, 0, 0, 36864, 0, 0, 0, 0, 0, 0, 0, 0, 0, 0, 2147483648]] }; let s : State := { sOn with hs.ports := [(1, { st := .up, jobs := [{ id := 0, h := 1, q := 0, idx := 0, ents := [[6291463, 0, 0, 0, 36864, 0, 0, 0, 0, 0, 0, 0, 0, 0, 0, 2147483648]] }], nextJob := 1 })], hs.wqs := [(objKey 20 1 0, { st := .active, priv := true, head := 1, tail := 1, order := [0] })], hs.cqs := [(objKey 20 1 0, { active := true })] }
    (hostUp s h = true) ∧ (freshJob s h q i 96 = some j) ∧ ((wqOf (updJob h j.id (fun k => { k with begun := true }) s) h j.q).fn = 0) ∧ ((wqOf (updJob h j.id (fun k => { k with begun := true }) s) h (fAt (Job.op j) 11 0 20)).st ≠ .absent) ∧ quiet s (malformed h ({ j with begun := true }) 9 (updJob h j.id (fun k => { k with begun := true }) s)) = true := by decide +kernel

set_option maxRecDepth 100000 in
theorem wit_QueueJobs_9 :
    let h : Nat := 1; let q : Nat := 0; let i : Word := 0; let j : Job := { id := 0, h := 1, q := 0, idx := 0, ents := [[6356999, 16777216, 0, 0, 0, 0, 0, 0, 0, 0, 0, 9, 0, 0, 0, 2147483648]] }; let s : State := { sOn with hs.ports := [(1, { st := .up, jobs := [{ id := 0, h := 1, q := 0, idx := 0, ents := [[6356999, 16777216, 0, 0, 0, 0, 0, 0, 0, 0, 0, 9, 0, 0, 0, 2147483648]] }], nextJob := 1 })], hs.wqs := [(objKey 20 1 0, { st := .active, priv := true, head := 1, tail := 1, order := [0] })], hs.cqs := [(objKey 20 1 0, { active := true })] }
    (hostUp s h = true) ∧ (freshJob s h q i 97 = some j) ∧ ((wqOf (updJob h j.id (fun k => { k with begun := true }) s) h (fAt (Job.op j) 11 0 20)).st = .absent) ∧ quiet s (malformed h ({ j with begun := true }) 10 (updJob h j.id (fun k => { k with begun := true }) s)) = true := by decide +kernel

set_option maxRecDepth 100000 in
theorem wit_QueueJobs_10 :
    let h : Nat := 1; let q : Nat := 0; let i : Word := 0; let j : Job := { id := 0, h := 1, q := 0, idx := 0, ents := [[6356999, 16777216, 0, 0, 0, 0, 0, 0, 0, 0, 0, 9, 0, 0, 0, 2147483648]] }; let s : State := { sOn with hs.ports := [(1, { st := .up, jobs := [{ id := 0, h := 1, q := 0, idx := 0, ents := [[6356999, 16777216, 0, 0, 0, 0, 0, 0, 0, 0, 0, 9, 0, 0, 0, 2147483648]] }], nextJob := 1 })], hs.wqs := [(objKey 20 1 0, { st := .active, priv := true, head := 1, tail := 1, order := [0] }), (objKey 20 1 9, { st := .active, head := 5, tail := 5 })], hs.cqs := [(objKey 20 1 0, { active := true })] }
    (hostUp s h = true) ∧ (freshJob s h q i 97 = some j) ∧ ((wqOf (updJob h j.id (fun k => { k with begun := true }) s) h (fAt (Job.op j) 11 0 20)).st = .active ∨ (wqOf (updJob h j.id (fun k => { k with begun := true }) s) h (fAt (Job.op j) 11 0 20)).st = .draining) ∧ (mayActFor (wqOf (updJob h j.id (fun k => { k with begun := true }) s) h j.q) (wqOf (updJob h j.id (fun k => { k with begun := true }) s) h (fAt (Job.op j) 11 0 20)).fn = true) ∧ quiet s (finishJob h ({ j with begun := true }) 0 0 0 (updJob h j.id (fun k => { k with begun := true }) s)) = true := by decide +kernel

set_option maxRecDepth 100000 in
theorem wit_QueueJobs_11 :
    let h : Nat := 1; let q : Nat := 0; let i : Word := 0; let j : Job := { id := 0, h := 1, q := 0, idx := 0, ents := [[6422535, 0, 0, 0, 0, 0, 0, 0, 0, 0, 0, 9, 0, 0, 0, 2147483648]] }; let s : State := { sOn with hs.ports := [(1, { st := .up, jobs := [{ id := 0, h := 1, q := 0, idx := 0, ents := [[6422535, 0, 0, 0, 0, 0, 0, 0, 0, 0, 0, 9, 0, 0, 0, 2147483648]] }], nextJob := 1 })], hs.wqs := [(objKey 20 1 0, { st := .active, priv := true, head := 1, tail := 1, order := [0] })], hs.cqs := [(objKey 20 1 0, { active := true })] }
    (hostUp s h = true) ∧ (freshJob s h q i 98 = some j) ∧ ((wqOf (updJob h j.id (fun k => { k with begun := true }) s) h (fAt (Job.op j) 11 0 20)).st = .absent) ∧ quiet s (malformed h ({ j with begun := true }) 10 (updJob h j.id (fun k => { k with begun := true }) s)) = true := by decide +kernel

set_option maxRecDepth 100000 in
theorem wit_QueueJobs_12 :
    let h : Nat := 1; let q : Nat := 0; let i : Word := 0; let j : Job := { id := 0, h := 1, q := 0, idx := 0, ents := [[6422535, 0, 0, 0, 0, 0, 0, 0, 0, 0, 0, 9, 0, 0, 0, 2147483648]] }; let s : State := { sOn with hs.ports := [(1, { st := .up, jobs := [{ id := 0, h := 1, q := 0, idx := 0, ents := [[6422535, 0, 0, 0, 0, 0, 0, 0, 0, 0, 0, 9, 0, 0, 0, 2147483648]] }], nextJob := 1 })], hs.wqs := [(objKey 20 1 0, { st := .active, priv := true, head := 1, tail := 1, order := [0] }), (objKey 20 1 9, { st := .draining })], hs.cqs := [(objKey 20 1 0, { active := true })] }
    (hostUp s h = true) ∧ (freshJob s h q i 98 = some j) ∧ ((wqOf (updJob h j.id (fun k => { k with begun := true }) s) h (fAt (Job.op j) 11 0 20)).st = .draining) ∧ (mayActFor (wqOf (updJob h j.id (fun k => { k with begun := true }) s) h j.q) (wqOf (updJob h j.id (fun k => { k with begun := true }) s) h (fAt (Job.op j) 11 0 20)).fn = true) ∧ quiet s (malformed h ({ j with begun := true }) 9 (updJob h j.id (fun k => { k with begun := true }) s)) = true := by decide +kernel

set_option maxRecDepth 100000 in
theorem wit_QueueJobs_13 :
    let h : Nat := 1; let q : Nat := 0; let i : Word := 0; let m : HostView := {}; let j : Job := { id := 0, h := 1, q := 0, idx := 0, ents := [[6488071, 0, 0, 0, 36864, 0, 0, 0, 0, 0, 0, 0, 0, 0, 0, 2147483648]] }; let s : State := { sOn with hs.ports := [(1, { st := .up, jobs := [{ id := 0, h := 1, q := 0, idx := 0, ents := [[6488071, 0, 0, 0, 36864, 0, 0, 0, 0, 0, 0, 0, 0, 0, 0, 2147483648]] }], nextJob := 1 })], hs.wqs := [(objKey 20 1 0, { st := .active, priv := true, head := 1, tail := 1, order := [0] })], hs.cqs := [(objKey 20 1 0, { active := true })] }
    (hostUp s h = true) ∧ (freshJob s h q i 99 = some j) ∧ ((cqOf (updJob h j.id (fun k => { k with begun := true }) s) h (fAt (Job.op j) 11 0 20)).active = true) ∧ quiet s (malformed h ({ j with begun := true }) 9 (updJob h j.id (fun k => { k with begun := true }) s)) = true := by decide +kernel

set_option maxRecDepth 100000 in
theorem wit_QueueJobs_14 :
    let h : Nat := 1; let q : Nat := 0; let i : Word := 0; let j : Job := { id := 0, h := 1, q := 0, idx := 0, ents := [[6553607, 0, 0, 0, 0, 0, 0, 0, 0, 0, 0, 9, 0, 0, 0, 2147483648]] }; let s : State := { sOn with hs.ports := [(1, { st := .up, jobs := [{ id := 0, h := 1, q := 0, idx := 0, ents := [[6553607, 0, 0, 0, 0, 0, 0, 0, 0, 0, 0, 9, 0, 0, 0, 2147483648]] }], nextJob := 1 })], hs.wqs := [(objKey 20 1 0, { st := .active, priv := true, head := 1, tail := 1, order := [0] })], hs.cqs := [(objKey 20 1 0, { active := true })] }
    (hostUp s h = true) ∧ (freshJob s h q i 100 = some j) ∧ ((cqOf (updJob h j.id (fun k => { k with begun := true }) s) h (fAt (Job.op j) 11 0 20)).active = false) ∧ quiet s (malformed h ({ j with begun := true }) 10 (updJob h j.id (fun k => { k with begun := true }) s)) = true := by decide +kernel

set_option maxRecDepth 100000 in
theorem wit_QueueJobs_15 :
    let h : Nat := 1; let q : Nat := 0; let i : Word := 0; let j : Job := { id := 0, h := 1, q := 0, idx := 0, ents := [[6553607, 0, 0, 0, 0, 0, 0, 0, 0, 0, 0, 0, 0, 0, 0, 2147483648]] }; let s : State := { sOn with hs.ports := [(1, { st := .up, jobs := [{ id := 0, h := 1, q := 0, idx := 0, ents := [[6553607, 0, 0, 0, 0, 0, 0, 0, 0, 0, 0, 0, 0, 0, 0, 2147483648]] }], nextJob := 1 })], hs.wqs := [(objKey 20 1 0, { st := .active, priv := true, head := 1, tail := 1, order := [0] })], hs.cqs := [(objKey 20 1 0, { active := true })] }
    (hostUp s h = true) ∧ (freshJob s h q i 100 = some j) ∧ ((cqOf (updJob h j.id (fun k => { k with begun := true }) s) h (fAt (Job.op j) 11 0 20)).active = true) ∧ (mayActFor (wqOf (updJob h j.id (fun k => { k with begun := true }) s) h j.q) (cqOf (updJob h j.id (fun k => { k with begun := true }) s) h (fAt (Job.op j) 11 0 20)).fn = true) ∧ (((updJob h j.id (fun k => { k with begun := true }) s)).hs.wqs.any (fun e => e.1 / 2 ^ 20 == h && e.2.st != .absent && e.2.cq == fAt (Job.op j) 11 0 20) = true) ∧ quiet s (malformed h ({ j with begun := true }) 9 (updJob h j.id (fun k => { k with begun := true }) s)) = true := by decide +kernel

set_option maxRecDepth 100000 in
theorem wit_QueueJobs_16 :
    let h : Nat := 1; let q : Nat := 0; let i : Word := 0; let j : Job := { id := 0, h := 1, q := 0, idx := 0, ents := [[6356999, 16777216, 0, 0, 0, 0, 0, 0, 0, 0, 0, 9, 0, 0, 0, 2147483648]] }; let s : State := { sOn with hs.ports := [(1, { st := .up, jobs := [{ id := 0, h := 1, q := 0, idx := 0, ents := [[6356999, 16777216, 0, 0, 0, 0, 0, 0, 0, 0, 0, 9, 0, 0, 0, 2147483648]] }], nextJob := 1 })], hs.wqs := [(objKey 20 1 0, { st := .active, priv := true, head := 1, tail := 1, order := [0] }), (objKey 20 1 9, { st := .error, head := 5 })], hs.cqs := [(objKey 20 1 0, { active := true })] }
    (hostUp s h = true) ∧ (freshJob s h q i 97 = some j) ∧ ((wqOf (updJob h j.id (fun k => { k with begun := true }) s) h (fAt (Job.op j) 11 0 20)).st = .error) ∧ (mayActFor (wqOf (updJob h j.id (fun k => { k with begun := true }) s) h j.q) (wqOf (updJob h j.id (fun k => { k with begun := true }) s) h (fAt (Job.op j) 11 0 20)).fn = true) ∧ quiet s (finishJob h ({ j with begun := true }) 0 0 0 (setWq h (fAt (Job.op j) 11 0 20) { wqOf (updJob h j.id (fun k => { k with begun := true }) s) h (fAt (Job.op j) 11 0 20) with st := .active, head := 0, tail := 0, wbHead := 0, fetching := false, reads := 0, rereads := 0, partials := [], done := [] } (updJob h j.id (fun k => { k with begun := true }) s))) = true := by decide +kernel

set_option maxRecDepth 100000 in
theorem wit_QueueJobs_17 :
    let h : Nat := 1; let q : Nat := 0; let i : Word := 0; let j : Job := { id := 0, h := 1, q := 0, idx := 0, ents := [[6422535, 0, 0, 0, 0, 0, 0, 0, 0, 0, 0, 9, 0, 0, 0, 2147483648]] }; let s : State := { sOn with hs.ports := [(1, { st := .up, jobs := [{ id := 0, h := 1, q := 0, idx := 0, ents := [[6422535, 0, 0, 0, 0, 0, 0, 0, 0, 0, 0, 9, 0, 0, 0, 2147483648]] }], nextJob := 1 })], hs.wqs := [(objKey 20 1 0, { st := .active, priv := true, head := 1, tail := 1, order := [0] }), (objKey 20 1 9, { st := .active, head := 5 })], hs.cqs := [(objKey 20 1 0, { active := true })] }
    (hostUp s h = true) ∧ (freshJob s h q i 98 = some j) ∧ ((wqOf (updJob h j.id (fun k => { k with begun := true }) s) h (fAt (Job.op j) 11 0 20)).st = .active ∨ (wqOf (updJob h j.id (fun k => { k with begun := true }) s) h (fAt (Job.op j) 11 0 20)).st = .error) ∧ (mayActFor (wqOf (updJob h j.id (fun k => { k with begun := true }) s) h j.q) (wqOf (updJob h j.id (fun k => { k with begun := true }) s) h (fAt (Job.op j) 11 0 20)).fn = true) ∧ quiet s (drainQueue h (fAt (Job.op j) 11 0 20) (some j.id) (updJob h j.id (fun k => { k with begun := true }) s)) = true := by decide +kernel

set_option maxRecDepth 100000 in
theorem wit_QueueJobs_18 :
    let h : Nat := 1; let q : Nat := 0; let i : Word := 0; let m : HostView := { spans := [(0x9000, (List.range 64).map (fun k => if k = 1 then 0x70 else if k = 8 then 40 else 0))] }; let j : Job := { id := 0, h := 1, q := 0, idx := 0, ents := [[6488071, 0, 0, 0, 36864, 0, 0, 0, 0, 0, 0, 9, 0, 0, 0, 2147483648]] }; let d : List Word := [0x7000, 0, 40, 0, 0, 0, 0, 0, 0, 0, 0, 0, 0, 0, 0, 0]; let s : State := { sOn with hs.ports := [(1, { st := .up, jobs := [{ id := 0, h := 1, q := 0, idx := 0, ents := [[6488071, 0, 0, 0, 36864, 0, 0, 0, 0, 0, 0, 9, 0, 0, 0, 2147483648]] }], nextJob := 1 })], hs.wqs := [(objKey 20 1 0, { st := .active, priv := true, head := 1, tail := 1, order := [0] })], hs.cqs := [(objKey 20 1 0, { active := true })] }
    (hostUp s h = true) ∧ (freshJob s h q i 99 = some j) ∧ ((cqOf (updJob h j.id (fun k => { k with begun := true }) s) h (fAt (Job.op j) 11 0 20)).active = false) ∧ (rdWords h (wqOf (updJob h j.id (fun k => { k with begun := true }) s) h j.q).fn (viewOf m s) (u64 (Job.op j) 4) 16 (updJob h j.id (fun k => { k with begun := true }) s) = (.ok d, (updJob h j.id (fun k => { k with begun := true }) s))) ∧ (mayActFor (wqOf (updJob h j.id (fun k => { k with begun := true }) s) h j.q) (fAt d 3 0 8) = true) ∧ (fAt d 0 0 12 = 0) ∧ (4 ≤ fAt d 2 0 5) ∧ (fAt d 2 0 5 ≤ 20) ∧ (fAt d 2 5 11 ≠ 0) ∧ (fAt d 3 0 8 = 0 ∨ fAt d 2 5 11 ≤ 63) ∧ quiet s (finishJob h ({ j with begun := true }) 0 0 0 (setCq h (fAt (Job.op j) 11 0 20) { active := true, base := u64 d 0, log := fAt d 2 0 5, vec := fAt d 2 5 11, intrEn := bAt d 2 16, fn := fAt d 3 0 8, coalN := fAt d 3 8 16, coalT := fAt d 4 0 16 } (updJob h j.id (fun k => { k with begun := true }) s))) = true := by decide +kernel

set_option maxRecDepth 100000 in
theorem wit_QueueJobs_19 :
    let h : Nat := 1; let q : Nat := 0; let i : Word := 0; let j : Job := { id := 0, h := 1, q := 0, idx := 0, ents := [[6553607, 0, 0, 0, 0, 0, 0, 0, 0, 0, 0, 9, 0, 0, 0, 2147483648]] }; let s : State := { sOn with hs.ports := [(1, { st := .up, jobs := [{ id := 0, h := 1, q := 0, idx := 0, ents := [[6553607, 0, 0, 0, 0, 0, 0, 0, 0, 0, 0, 9, 0, 0, 0, 2147483648]] }], nextJob := 1 })], hs.wqs := [(objKey 20 1 0, { st := .active, priv := true, head := 1, tail := 1, order := [0] })], hs.cqs := [(objKey 20 1 0, { active := true }), (objKey 20 1 9, { active := true })] }
    (hostUp s h = true) ∧ (freshJob s h q i 100 = some j) ∧ ((cqOf (updJob h j.id (fun k => { k with begun := true }) s) h (fAt (Job.op j) 11 0 20)).active = true) ∧ (mayActFor (wqOf (updJob h j.id (fun k => { k with begun := true }) s) h j.q) (cqOf (updJob h j.id (fun k => { k with begun := true }) s) h (fAt (Job.op j) 11 0 20)).fn = true) ∧ (((updJob h j.id (fun k => { k with begun := true }) s)).hs.wqs.any (fun e => e.1 / 2 ^ 20 == h && e.2.st != .absent && e.2.cq == fAt (Job.op j) 11 0 20) = false) ∧ quiet s (finishJob h ({ j with begun := true }) 0 0 0 (dropCq h (fAt (Job.op j) 11 0 20) (updJob h j.id (fun k => { k with begun := true }) s))) = true := by decide +kernel

theorem wit_QueueJobs_20 :
    let h : Nat := 1; let q : Nat := 0; let i : Word := 5; let s : State := sOn
    (hostUp s h = false ∨ freshJob s h q i 1 = none) ∧ quiet s (s) = true := by decide

theorem wit_QueueJobs_21 :
    let h : Nat := 1; let q : Nat := 0; let i : Word := 5; let s : State := sOn
    (hostUp s h = false ∨ freshJob s h q i 2 = none) ∧ quiet s (s) = true := by decide

theorem wit_QueueJobs_22 :
    let h : Nat := 1; let q : Nat := 0; let i : Word := 5; let s : State := sOn
    (hostUp s h = false ∨ freshJob s h q i 3 = none) ∧ quiet s (s) = true := by decide

theorem wit_QueueJobs_23 :
    let h : Nat := 1; let q : Nat := 0; let i : Word := 5; let m : HostView := {}; let s : State := sOn
    (hostUp s h = false ∨ freshJob s h q i 96 = none) ∧ quiet s (s) = true := by decide

theorem wit_QueueJobs_24 :
    let h : Nat := 1; let q : Nat := 0; let i : Word := 5; let s : State := sOn
    (hostUp s h = false ∨ freshJob s h q i 97 = none) ∧ quiet s (s) = true := by decide

theorem wit_QueueJobs_25 :
    let h : Nat := 1; let q : Nat := 0; let i : Word := 5; let s : State := sOn
    (hostUp s h = false ∨ freshJob s h q i 98 = none) ∧ quiet s (s) = true := by decide

theorem wit_QueueJobs_26 :
    let h : Nat := 1; let q : Nat := 0; let i : Word := 5; let m : HostView := {}; let s : State := sOn
    (hostUp s h = false ∨ freshJob s h q i 99 = none) ∧ quiet s (s) = true := by decide

theorem wit_QueueJobs_27 :
    let h : Nat := 1; let q : Nat := 0; let i : Word := 5; let s : State := sOn
    (hostUp s h = false ∨ freshJob s h q i 100 = none) ∧ quiet s (s) = true := by decide

set_option maxRecDepth 100000 in
theorem wit_Doorbells_1 :
    let h : Nat := 1; let fn : Nat := 0; let addr : Nat := 0x140; let size : Nat := 8; let v : BitVec 64 := 7; let k : Nat := 2; let s : State := { sOn with hs.ports := [(1, { st := .up })], hs.wqs := [(objKey 20 1 5, { st := .active })], hs.cqs := [(objKey 20 1 5, { active := true }), (objKey 20 1 0, { active := true })] }
    (hostUp s h = true) ∧ (dbBad s 0 h fn addr size v = some k) ∧ quiet s (qmgCause h 2 (inc (qmgCtr h k) s)) = true := by decide +kernel

set_option maxRecDepth 100000 in
theorem wit_Doorbells_2 :
    let h : Nat := 1; let fn : Nat := 0; let addr : Nat := 0x140; let size : Nat := 8; let v : BitVec 64 := 7; let k : Nat := 2; let s : State := { sOn with hs.ports := [(1, { st := .up })], hs.wqs := [(objKey 20 1 5, { st := .active })], hs.cqs := [(objKey 20 1 5, { active := true }), (objKey 20 1 0, { active := true })] }
    (hostUp s h = true) ∧ (dbBad s 1 h fn addr size v = some k) ∧ quiet s (qmgCause h 2 (inc (qmgCtr h k) s)) = true := by decide +kernel

set_option maxRecDepth 100000 in
theorem wit_Doorbells_3 :
    let h : Nat := 1; let fn : Nat := 0; let addr : Nat := 0x140; let size : Nat := 8; let v : BitVec 64 := 7; let k : Nat := 2; let s : State := { sOn with hs.ports := [(1, { st := .up })], hs.wqs := [(objKey 20 1 5, { st := .active })], hs.cqs := [(objKey 20 1 5, { active := true }), (objKey 20 1 0, { active := true })] }
    (hostUp s h = true) ∧ (dbBad s 2 h fn addr size v = some k) ∧ quiet s (qmgCause h 2 (inc (qmgCtr h k) s)) = true := by decide +kernel

theorem wit_Doorbells_4 :
    let h : Nat := 1; let fn : Nat := 0; let addr : Nat := 0x140; let size : Nat := 8; let v : BitVec 64 := 7; let more : List (Nat × BitVec 64) := []; let s : State := sOn
    (hostUp s h = false) ∧ quiet s (s) = true := by decide

theorem wit_Doorbells_5 :
    let h : Nat := 1; let fn : Nat := 0; let addr : Nat := 0x140; let size : Nat := 8; let v : BitVec 64 := 7; let more : List (Nat × BitVec 64) := []; let s : State := sOn
    (hostUp s h = false) ∧ quiet s (s) = true := by decide

theorem wit_Doorbells_6 :
    let h : Nat := 1; let fn : Nat := 0; let addr : Nat := 0x140; let size : Nat := 8; let v : BitVec 64 := 7; let more : List (Nat × BitVec 64) := []; let s : State := sOn
    (hostUp s h = false) ∧ quiet s (s) = true := by decide

set_option maxRecDepth 100000 in
theorem wit_Doorbells_7 :
    let h : Nat := 1; let fn : Nat := 0; let addr : Nat := 0x140; let size : Nat := 8; let v : BitVec 64 := 5 + 0 * 2 ^ 20; let more : List (Nat × BitVec 64) := [(0x180, 6)]; let s : State := { sOn with hs.ports := [(1, { st := .up })], hs.wqs := [(objKey 20 1 5, { st := .active })], hs.cqs := [(objKey 20 1 5, { active := true }), (objKey 20 1 0, { active := true })] }
    (hostUp s h = true) ∧ quiet s ((more.foldl (fun l d => dbInsert (d.1, bitsN d.2.toNat 20 4, d.2) l) [(addr, 0, v)]).foldl (fun s d => dbOne h fn size d s) s) = true := by decide +kernel

set_option maxRecDepth 100000 in
theorem wit_Doorbells_8 :
    let h : Nat := 1; let fn : Nat := 0; let addr : Nat := 0x140; let size : Nat := 8; let v : BitVec 64 := 5 + 1 * 2 ^ 20; let more : List (Nat × BitVec 64) := [(0x180, 6)]; let s : State := { sOn with hs.ports := [(1, { st := .up })], hs.wqs := [(objKey 20 1 5, { st := .active })], hs.cqs := [(objKey 20 1 5, { active := true }), (objKey 20 1 0, { active := true })] }
    (hostUp s h = true) ∧ quiet s ((more.foldl (fun l d => dbInsert (d.1, bitsN d.2.toNat 20 4, d.2) l) [(addr, 1, v)]).foldl (fun s d => dbOne h fn size d s) s) = true := by decide +kernel

set_option maxRecDepth 100000 in
theorem wit_Doorbells_9 :
    let h : Nat := 1; let fn : Nat := 0; let addr : Nat := 0x140; let size : Nat := 8; let v : BitVec 64 := 5 + 2 * 2 ^ 20; let more : List (Nat × BitVec 64) := [(0x180, 6)]; let s : State := { sOn with hs.ports := [(1, { st := .up })], hs.wqs := [(objKey 20 1 5, { st := .active })], hs.cqs := [(objKey 20 1 5, { active := true }), (objKey 20 1 0, { active := true })] }
    (hostUp s h = true) ∧ quiet s ((more.foldl (fun l d => dbInsert (d.1, bitsN d.2.toNat 20 4, d.2) l) [(addr, 2, v)]).foldl (fun s d => dbOne h fn size d s) s) = true := by decide +kernel

set_option maxRecDepth 100000 in
theorem wit_Doorbells_10 :
    let h : Nat := 1; let fn : Nat := 0; let addr : Nat := 0x140; let size : Nat := 8; let v : BitVec 64 := 5 + 1 * 2 ^ 20 + 4 * 2 ^ 32; let s : State := { sOn with hs.ports := [(1, { st := .up })], hs.wqs := [(objKey 20 1 5, { st := .active })], hs.cqs := [(objKey 20 1 5, { active := true, written := 3 }), (objKey 20 1 0, { active := true })] }
    (hostUp s h = true) ∧ (dbBad s 1 h fn addr size v = none) ∧ (2 ^ 31 ≤ ((cqOf s h (bitsN v.toNat 0 20)).written - w32 (bitsN v.toNat 32 32)).toNat) ∧ quiet s (qmgCause h 2 (inc (qmgCtr h 5) s)) = true := by decide +kernel

set_option maxRecDepth 100000 in
theorem wit_Doorbells_11 :
    let h : Nat := 1; let fn : Nat := 0; let addr : Nat := 0x140; let size : Nat := 8; let v : BitVec 64 := 5 + 2 * 2 ^ 20 + 4 * 2 ^ 32; let s : State := { sOn with hs.ports := [(1, { st := .up })], hs.wqs := [(objKey 20 1 5, { st := .active })], hs.cqs := [(objKey 20 1 5, { active := true, written := 3 }), (objKey 20 1 0, { active := true })] }
    (hostUp s h = true) ∧ (dbBad s 2 h fn addr size v = none) ∧ (2 ^ 31 ≤ ((cqOf s h (bitsN v.toNat 0 20)).written - w32 (bitsN v.toNat 32 32)).toNat) ∧ quiet s (qmgCause h 2 (inc (qmgCtr h 5) s)) = true := by decide +kernel

set_option maxRecDepth 100000 in
theorem wit_Doorbells_12 :
    let h : Nat := 1; let fn : Nat := 0; let addr : Nat := 0x140; let size : Nat := 8; let v : BitVec 64 := 5; let s : State := { sOn with hs.ports := [(1, { st := .up })], hs.wqs := [(objKey 20 1 5, { st := .active, head := 2, tail := 2 })], hs.cqs := [(objKey 20 1 5, { active := true }), (objKey 20 1 0, { active := true })] }
    (hostUp s h = true) ∧ (dbBad s 0 h fn addr size v = none) ∧ (2 ^ 31 ≤ (w32 (bitsN v.toNat 32 32) - (wqOf s h (bitsN v.toNat 0 20)).tail).toNat) ∧ quiet s (s) = true := by decide +kernel

set_option maxRecDepth 100000 in
theorem wit_Doorbells_13 :
    let h : Nat := 1; let fn : Nat := 0; let addr : Nat := 0x140; let size : Nat := 8; let v : BitVec 64 := 5 + 17 * 2 ^ 32; let s : State := { sOn with hs.ports := [(1, { st := .up })], hs.wqs := [(objKey 20 1 5, { st := .active })], hs.cqs := [(objKey 20 1 5, { active := true }), (objKey 20 1 0, { active := true })] }
    (hostUp s h = true) ∧ (dbBad s 0 h fn addr size v = none) ∧ ((w32 (bitsN v.toNat 32 32) - (wqOf s h (bitsN v.toNat 0 20)).tail).toNat < 2 ^ 31) ∧ (2 ^ (wqOf s h (bitsN v.toNat 0 20)).log < (w32 (bitsN v.toNat 32 32) - (wqOf s h (bitsN v.toNat 0 20)).head).toNat) ∧ quiet s (qmgCause h 2 (inc (qmgCtr h 5) s)) = true := by decide +kernel

set_option maxRecDepth 100000 in
theorem wit_Doorbells_14 :
    let h : Nat := 1; let fn : Nat := 0; let addr : Nat := 0x140; let size : Nat := 8; let v : BitVec 64 := 5 + 16 * 2 ^ 32; let s : State := { sOn with hs.ports := [(1, { st := .up })], hs.wqs := [(objKey 20 1 5, { st := .active })], hs.cqs := [(objKey 20 1 5, { active := true }), (objKey 20 1 0, { active := true })] }
    (hostUp s h = true) ∧ (dbBad s 0 h fn addr size v = none) ∧ ((w32 (bitsN v.toNat 32 32) - (wqOf s h (bitsN v.toNat 0 20)).tail).toNat < 2 ^ 31) ∧ ((w32 (bitsN v.toNat 32 32) - (wqOf s h (bitsN v.toNat 0 20)).head).toNat ≤ 2 ^ (wqOf s h (bitsN v.toNat 0 20)).log) ∧ quiet s (startFetch h (bitsN v.toNat 0 20) (inc (qmgCtr h 0) (updWq h (bitsN v.toNat 0 20) (fun w => { w with tail := w32 (bitsN v.toNat 32 32) }) s))) = true := by decide +kernel

set_option maxRecDepth 100000 in
theorem wit_Doorbells_15 :
    let h : Nat := 1; let fn : Nat := 0; let addr : Nat := 0x140; let size : Nat := 8; let v : BitVec 64 := 5 + 2 ^ 20 + 3 * 2 ^ 32; let s : State := { sOn with hs.ports := [(1, { st := .up })], hs.wqs := [(objKey 20 1 5, { st := .active })], hs.cqs := [(objKey 20 1 5, { active := true, written := 3 }), (objKey 20 1 0, { active := true })] }
    (hostUp s h = true) ∧ (dbBad s 1 h fn addr size v = none) ∧ (((cqOf s h (bitsN v.toNat 0 20)).written - w32 (bitsN v.toNat 32 32)).toNat < 2 ^ 31) ∧ quiet s (cqRelease h (bitsN v.toNat 0 20) (w32 (bitsN v.toNat 32 32)) (inc (qmgCtr h 0) s)) = true := by decide +kernel

set_option maxRecDepth 100000 in
theorem wit_Doorbells_16 :
    let h : Nat := 1; let fn : Nat := 0; let addr : Nat := 0x140; let size : Nat := 8; let v : BitVec 64 := 5 + 2 * 2 ^ 20 + 3 * 2 ^ 32; let s : State := { sOn with hs.ports := [(1, { st := .up })], hs.wqs := [(objKey 20 1 5, { st := .active })], hs.cqs := [(objKey 20 1 5, { active := true, written := 3 }), (objKey 20 1 0, { active := true })] }
    (hostUp s h = true) ∧ (dbBad s 2 h fn addr size v = none) ∧ (((cqOf s h (bitsN v.toNat 0 20)).written - w32 (bitsN v.toNat 32 32)).toNat < 2 ^ 31) ∧ ((cqOf (cqRelease h (bitsN v.toNat 0 20) (w32 (bitsN v.toNat 32 32)) (inc (qmgCtr h 0) s)) h (bitsN v.toNat 0 20)).intrEn = false) ∧ quiet s (cqRelease h (bitsN v.toNat 0 20) (w32 (bitsN v.toNat 32 32)) (inc (qmgCtr h 0) s)) = true := by decide +kernel

set_option maxRecDepth 100000 in
theorem wit_Doorbells_17 :
    let h : Nat := 1; let fn : Nat := 0; let addr : Nat := 0x140; let size : Nat := 8; let v : BitVec 64 := 5 + 2 * 2 ^ 20 + 3 * 2 ^ 32; let s : State := { sOn with hs.ports := [(1, { st := .up })], hs.wqs := [(objKey 20 1 5, { st := .active })], hs.cqs := [(objKey 20 1 5, { active := true, written := 3, intrEn := true }), (objKey 20 1 0, { active := true })] }
    (hostUp s h = true) ∧ (dbBad s 2 h fn addr size v = none) ∧ (((cqOf s h (bitsN v.toNat 0 20)).written - w32 (bitsN v.toNat 32 32)).toNat < 2 ^ 31) ∧ ((cqOf (cqRelease h (bitsN v.toNat 0 20) (w32 (bitsN v.toNat 32 32)) (inc (qmgCtr h 0) s)) h (bitsN v.toNat 0 20)).intrEn = true) ∧ quiet s (cqCheck h (bitsN v.toNat 0 20) (updCq h (bitsN v.toNat 0 20) (fun c => { c with armed := some (w32 (bitsN v.toNat 32 32)), timer := false }) (cqRelease h (bitsN v.toNat 0 20) (w32 (bitsN v.toNat 32 32)) (inc (qmgCtr h 0) s)))) = true := by decide +kernel

set_option maxRecDepth 100000 in
theorem wit_Doorbells_18 :
    let h : Nat := 1; let cq : Nat := 5; let s : State := { sOn with hs.ports := [(1, { st := .up })], hs.wqs := [(objKey 20 1 5, { st := .active })], hs.cqs := [(objKey 20 1 5, { active := true, armed := some 0, timer := true }), (objKey 20 1 0, { active := true })] }
    ((cqOf s h cq).active = true) ∧ ((cqOf s h cq).timer = true) ∧ ((cqOf s h cq).armed.isSome = true) ∧ (hostUsable s h = true) ∧ quiet s (updCq h cq (fun c => { c with armed := none, timer := false }) (fireMsix h (cqOf s h cq).fn (cqOf s h cq).vec s)) = true := by decide +kernel

set_option maxRecDepth 100000 in
theorem wit_Doorbells_19 :
    let h : Nat := 1; let cq : Nat := 5; let s : State := { sOn with hs.ports := [(1, { st := .up })], hs.wqs := [(objKey 20 1 5, { st := .active })], hs.cqs := [(objKey 20 1 5, { active := true }), (objKey 20 1 0, { active := true })] }
    ((cqOf s h cq).active = false ∨ (cqOf s h cq).timer = false ∨ (cqOf s h cq).armed = none ∨ hostUsable s h = false) ∧ quiet s (s) = true := by decide +kernel

set_option maxRecDepth 100000 in
theorem wit_FetchingAndIssue_1 :
    let h : Nat := 1; let q : Nat := 5; let es : List (List Word) := [[65543, 0, 0, 0, 0, 0, 0, 0, 0, 0, 0, 0, 0, 0, 0, 2147483648]]; let s : State := { sOn with hs.ports := [(1, { st := .up })], hs.wqs := [(objKey 20 1 5, { st := .active, tail := 1, fetching := true, reads := 1 })], hs.cqs := [(objKey 20 1 5, { active := true }), (objKey 20 1 0, { active := true })] }
    ((wqOf s h q).st = .active) ∧ (dmaHeld s h (.queue q) = false) ∧ (hostUsable s h = true) ∧ ((wqOf s h q).fetching = true) ∧ ((wqOf s h q).rereads = 0) ∧ quiet s (startFetch h q (takeAll h q es (updWq h q (fun w => { w with reads := 0 }) s))) = true := by decide +kernel

set_option maxRecDepth 100000 in
theorem wit_FetchingAndIssue_2 :
    let h : Nat := 1; let q : Nat := 5; let s : State := { sOn with hs.ports := [(1, { st := .up })], hs.wqs := [(objKey 20 1 5, { st := .active, tail := 1, fetching := true, reads := 1 })], hs.cqs := [(objKey 20 1 5, { active := true }), (objKey 20 1 0, { active := true })] }
    ((wqOf s h q).st = .active) ∧ (dmaHeld s h (.queue q) = false) ∧ (hostUsable s h = true) ∧ ((wqOf s h q).fetching = true) ∧ ((wqOf s h q).rereads = 0) ∧ quiet s (rereadHead h q (updWq h q (fun w => { w with rereads := 1, rereadAt := s.time.now }) (dmaErr h (updWq h q (fun w => { w with reads := 0 }) s)))) = true := by decide +kernel

set_option maxRecDepth 100000 in
theorem wit_FetchingAndIssue_3 :
    let h : Nat := 1; let q : Nat := 5; let es : Option (List (List Word)) := none; let s : State := { sOn with hs.ports := [(1, { st := .up })], hs.wqs := [(objKey 20 1 5, { st := .active })], hs.cqs := [(objKey 20 1 5, { active := true }), (objKey 20 1 0, { active := true })] }
    ((wqOf s h q).st ≠ .active ∨ (wqOf s h q).fetching = false ∨ (wqOf s h q).rereads ≠ 0 ∨ dmaHeld s h (.queue q) = true ∨ hostUsable s h = false) ∧ quiet s (s) = true := by decide +kernel

set_option maxRecDepth 100000 in
theorem wit_FetchingAndIssue_4 :
    let h : Nat := 1; let q : Nat := 5; let e : List Word := [65543, 0, 0, 0, 0, 0, 0, 0, 0, 0, 0, 0, 0, 0, 0, 2147483648]; let s : State := { sOn with hs.ports := [(1, { st := .up })], hs.wqs := [(objKey 20 1 5, { st := .active, tail := 1, fetching := true, rereads := 3, reads := 1 })], hs.cqs := [(objKey 20 1 5, { active := true }), (objKey 20 1 0, { active := true })] }
    ((wqOf s h q).st = .active) ∧ (dmaHeld s h (.queue q) = false) ∧ (hostUsable s h = true) ∧ ((wqOf s h q).rereads ≠ 0) ∧ (entryReady (wqOf s h q) (wqOf s h q).head e = true) ∧ (fetchedIn s (boleOf h) < 8192) ∧ quiet s (startFetch h q (updWq h q (fun w => { w with fetching := false }) (takeEntry h q e (updWq h q (fun w => { w with rereads := 0 }) (updWq h q (fun w => { w with reads := 0 }) s))))) = true := by decide +kernel

set_option maxRecDepth 100000 in
theorem wit_FetchingAndIssue_5 :
    let h : Nat := 1; let q : Nat := 5; let e : List Word := [65543, 0, 0, 0, 0, 0, 0, 0, 0, 0, 0, 0, 0, 0, 0, 2147483648]; let s : State := { sOn with hs.ports := [(1, { st := .up })], hs.wqs := [(objKey 20 1 5, { st := .active, tail := 1, fetching := true, rereads := 3, reads := 1, fetched := List.replicate 8192 { id := 0, h := 1, q := 5, idx := 0, ents := [[65543, 0, 0, 0, 0, 0, 0, 0, 0, 0, 0, 0, 0, 0, 0, 2147483648]] } })], hs.cqs := [(objKey 20 1 5, { active := true }), (objKey 20 1 0, { active := true })] }
    ((wqOf s h q).st = .active) ∧ (dmaHeld s h (.queue q) = false) ∧ (hostUsable s h = true) ∧ ((wqOf s h q).rereads ≠ 0) ∧ (entryReady (wqOf s h q) (wqOf s h q).head e = true) ∧ (8192 ≤ fetchedIn s (boleOf h)) ∧ quiet s (startFetch h q (updWq h q (fun w => { w with fetching := false }) (updWq h q (fun w => { w with rereads := 0 }) (updWq h q (fun w => { w with reads := 0 }) s)))) = true := by decide +kernel

set_option maxRecDepth 100000 in
theorem wit_FetchingAndIssue_6 :
    let h : Nat := 1; let q : Nat := 5; let s : State := { sOn with hs.ports := [(1, { st := .up })], hs.wqs := [(objKey 20 1 5, { st := .active, tail := 1, fetching := true, rereads := 3, reads := 1 })], hs.cqs := [(objKey 20 1 5, { active := true }), (objKey 20 1 0, { active := true })] }
    ((wqOf s h q).st = .active) ∧ (dmaHeld s h (.queue q) = false) ∧ (hostUsable s h = true) ∧ ((wqOf s h q).rereads ≠ 0) ∧ ((wqOf s h q).rereads < 7 ∨ s.time.now < (wqOf s h q).rereadAt + 4000) ∧ quiet s (rereadHead h q (updWq h q (fun w => { w with rereads := w.rereads + 1 }) (dmaErr h (updWq h q (fun w => { w with reads := 0 }) s)))) = true := by decide +kernel

set_option maxRecDepth 100000 in
theorem wit_FetchingAndIssue_7 :
    let h : Nat := 1; let q : Nat := 5; let s : State := { sOn with time.now := 5000, hs.ports := [(1, { st := .up })], hs.wqs := [(objKey 20 1 5, { st := .active, tail := 1, fetching := true, rereads := 7, reads := 1 })], hs.cqs := [(objKey 20 1 5, { active := true }), (objKey 20 1 0, { active := true })] }
    ((wqOf s h q).st = .active) ∧ (dmaHeld s h (.queue q) = false) ∧ (hostUsable s h = true) ∧ (7 ≤ (wqOf s h q).rereads) ∧ ((wqOf s h q).rereadAt + 4000 ≤ s.time.now) ∧ quiet s (queueError h q 6 [[]] (updWq h q (fun w => { w with rereads := w.rereads + 1 }) (dmaErr h (updWq h q (fun w => { w with reads := 0 }) s)))) = true := by decide +kernel

set_option maxRecDepth 100000 in
theorem wit_FetchingAndIssue_8 :
    let h : Nat := 1; let q : Nat := 5; let e : Option (List Word) := none; let s : State := { sOn with hs.ports := [(1, { st := .up })], hs.wqs := [(objKey 20 1 5, { st := .active })], hs.cqs := [(objKey 20 1 5, { active := true }), (objKey 20 1 0, { active := true })] }
    ((wqOf s h q).st ≠ .active ∨ (wqOf s h q).rereads = 0 ∨ dmaHeld s h (.queue q) = true ∨ hostUsable s h = false) ∧ quiet s (s) = true := by decide +kernel

set_option maxRecDepth 100000 in
theorem wit_FetchingAndIssue_9 :
    let h : Nat := 1; let q : Nat := 5; let e : List Word := [0]; let s : State := { sOn with hs.ports := [(1, { st := .up })], hs.wqs := [(objKey 20 1 5, { st := .active, tail := 1, fetching := true, rereads := 3, reads := 1 })], hs.cqs := [(objKey 20 1 5, { active := true }), (objKey 20 1 0, { active := true })] }
    ((wqOf s h q).st = .active) ∧ (dmaHeld s h (.queue q) = false) ∧ (hostUsable s h = true) ∧ ((wqOf s h q).rereads ≠ 0) ∧ ((wqOf s h q).rereads < 7 ∨ s.time.now < (wqOf s h q).rereadAt + 4000) ∧ (entryReady (wqOf s h q) (wqOf s h q).head e = false) ∧ quiet s (rereadHead h q (updWq h q (fun w => { w with rereads := w.rereads + 1 }) (updWq h q (fun w => { w with reads := 0 }) s))) = true := by decide +kernel

set_option maxRecDepth 100000 in
theorem wit_FetchingAndIssue_10 :
    let h : Nat := 1; let q : Nat := 5; let e : List Word := [0]; let s : State := { sOn with time.now := 5000, hs.ports := [(1, { st := .up })], hs.wqs := [(objKey 20 1 5, { st := .active, tail := 1, fetching := true, rereads := 7, reads := 1 })], hs.cqs := [(objKey 20 1 5, { active := true }), (objKey 20 1 0, { active := true })] }
    ((wqOf s h q).st = .active) ∧ (dmaHeld s h (.queue q) = false) ∧ (hostUsable s h = true) ∧ (7 ≤ (wqOf s h q).rereads) ∧ (entryReady (wqOf s h q) (wqOf s h q).head e = false) ∧ ((wqOf s h q).rereadAt + 4000 ≤ s.time.now) ∧ quiet s (queueError h q 6 [[]] (updWq h q (fun w => { w with rereads := w.rereads + 1 }) (updWq h q (fun w => { w with reads := 0 }) s))) = true := by decide +kernel

set_option maxRecDepth 100000 in
theorem wit_FetchingAndIssue_11 :
    let h : Nat := 1; let j : Job := { id := 0, h := 1, q := 5, idx := 0, ents := [[1048647, 0, 0, 0, 0, 0, 0, 0, 0, 0, 0, 0, 0, 0, 0, 2147483648]], metered := true, asd := some (1, 2, false) }; let s : State := { sOn with hs.ports := [(1, { st := .up })], hs.wqs := [(objKey 20 1 5, { st := .active, head := 1, tail := 1, order := [0], fetched := [{ id := 0, h := 1, q := 5, idx := 0, ents := [[1048647, 0, 0, 0, 0, 0, 0, 0, 0, 0, 0, 0, 0, 0, 0, 2147483648]], metered := true, asd := some (1, 2, false) }] })], hs.cqs := [(objKey 20 1 5, { active := true }), (objKey 20 1 0, { active := true })] }; let u : State := countStalls h (meterHeads h s)
    (hostUp s h = true) ∧ (u = countStalls h (meterHeads h s)) ∧ (greenReady u h = some j) ∧ quiet s (issueJob h j u) = true := by decide +kernel

set_option maxRecDepth 100000 in
theorem wit_FetchingAndIssue_12 :
    let h : Nat := 1; let j : Job := { id := 0, h := 1, q := 5, idx := 0, ents := [[65543, 0, 0, 0, 0, 0, 0, 0, 0, 0, 0, 0, 0, 0, 0, 2147483648]], fired := some 0 }; let js : List Job := []; let s : State := { sOn with hs.ports := [(1, { st := .up, firedq := [{ id := 0, h := 1, q := 5, idx := 0, ents := [[65543, 0, 0, 0, 0, 0, 0, 0, 0, 0, 0, 0, 0, 0, 0, 2147483648]], fired := some 0 }], nextJob := 1 })], hs.wqs := [(objKey 20 1 5, { st := .active, head := 1, tail := 1 })], hs.cqs := [(objKey 20 1 5, { active := true }), (objKey 20 1 0, { active := true })] }; let u : State := countStalls h (meterHeads h s)
    (hostUp s h = true) ∧ (u = countStalls h (meterHeads h s)) ∧ (greenReady u h = none) ∧ (firedReady u h = j :: js) ∧ quiet s (issueJob h j u) = true := by decide +kernel

set_option maxRecDepth 100000 in
theorem wit_FetchingAndIssue_13 :
    let h : Nat := 1; let q : Nat := 5; let j : Job := { id := 0, h := 1, q := 5, idx := 0, ents := [[65543, 0, 0, 0, 0, 0, 0, 0, 0, 0, 0, 0, 0, 0, 0, 2147483648]] }; let s : State := { sOn with hs.ports := [(1, { st := .up })], hs.wqs := [(objKey 20 1 5, { st := .active, head := 1, tail := 1, order := [0], fetched := [{ id := 0, h := 1, q := 5, idx := 0, ents := [[65543, 0, 0, 0, 0, 0, 0, 0, 0, 0, 0, 0, 0, 0, 0, 2147483648]] }] })], hs.cqs := [(objKey 20 1 5, { active := true }), (objKey 20 1 0, { active := true })] }; let u : State := countStalls h (meterHeads h s)
    (hostUp s h = true) ∧ (u = countStalls h (meterHeads h s)) ∧ (greenReady u h = none) ∧ (firedReady u h = []) ∧ (wrrNext u h = some q) ∧ ((wqOf u h q).fetched.head? = some j) ∧ quiet s (issueJob h j (updHost h (fun p => { p with wrrAt := q, wrrLeft := if q = (hport u h).wrrAt ∧ (hport u h).wrrLeft ≠ 0 then (hport u h).wrrLeft - 1 else (wqOf u h q).weight - 1 }) u)) = true := by decide +kernel

set_option maxRecDepth 100000 in
theorem wit_FetchingAndIssue_14 :
    let h : Nat := 1; let s : State := { sOn with hs.ports := [(1, { st := .up })], hs.wqs := [(objKey 20 1 5, { st := .active })], hs.cqs := [(objKey 20 1 5, { active := true }), (objKey 20 1 0, { active := true })] }; let u : State := countStalls h (meterHeads h s)
    (hostUp s h = true) ∧ (u = countStalls h (meterHeads h s)) ∧ (greenReady u h = none) ∧ (firedReady u h = []) ∧ (wrrNext u h = none) ∧ quiet s (u) = true := by decide +kernel

set_option maxRecDepth 100000 in
theorem wit_FetchingAndIssue_15 :
    let h : Nat := 1; let q : Nat := 5; let j : Job := { id := 0, h := 1, q := 5, idx := 0, ents := [[1048647, 2, 0, 0, 0, 0, 0, 0, 0, 0, 0, 0, 0, 0, 0, 2147483648]], stalled := true }; let d : List Word := [2 ^ 18 + 0x3FFFF, 8000, 8000, 1000, 1000, 5]; let b : Meter := { tc := 868928, tp := 868928 }; let s : State := { sOn with stage.resv := [(resvKey 1 0, [2 ^ 18 + 0x3FFFF, 8000, 8000, 1000, 1000, 5])], net.meters := [(resvMeter 1 0, { tc := 1000000, tp := 1000000 })], hs.ports := [(1, { st := .up })], hs.wqs := [(objKey 20 1 5, { st := .active, head := 1, tail := 1, order := [0], fetched := [{ id := 0, h := 1, q := 5, idx := 0, ents := [[1048647, 2, 0, 0, 0, 0, 0, 0, 0, 0, 0, 0, 0, 0, 0, 2147483648]], stalled := true }] })], hs.cqs := [(objKey 20 1 5, { active := true }), (objKey 20 1 0, { active := true })] }
    (hostUp s h = true) ∧ (headsOf s h = [j]) ∧ (j.q = q) ∧ (meterAgain s h j = true) ∧ (injectResv s h j = some d) ∧ (injectLen s h j ≤ fAt d 3 0 24) ∧ (meterRun (wAt d 1).toNat (wAt d 2).toNat (fAt d 3 0 24) (fAt d 4 0 24) (injectLen s h j) s.time.now (Maps.get {} s.net.meters (resvMeter h (fAt (Job.op j) 15 0 14))) = (.green, b)) ∧ quiet s (setHead h { j with metered := true, stalled := false, asd := some (s.time.now % 2 ^ 48, (s.time.now % 2 ^ 48 + (wAt d 5).toNat) % 2 ^ 48, j.stalled) } (inc (asdHostCtr h 0) { s with net.meters := Maps.put {} s.net.meters (resvMeter h (fAt (Job.op j) 15 0 14)) b })) = true := by decide +kernel

set_option maxRecDepth 100000 in
theorem wit_FetchingAndIssue_16 :
    let h : Nat := 1; let q : Nat := 5; let j : Job := { id := 0, h := 1, q := 5, idx := 0, ents := [[1048647, 2, 0, 0, 0, 0, 0, 0, 0, 0, 0, 0, 0, 0, 0, 2147483648]], stalled := true }; let d : List Word := [2 ^ 18 + 0x3FFFF, 8000, 8000, 1000, 1000, 5]; let b : Meter := { tc := 0, tp := 868928 }; let s : State := { sOn with stage.resv := [(resvKey 1 0, [2 ^ 18 + 0x3FFFF, 8000, 8000, 1000, 1000, 5])], net.meters := [(resvMeter 1 0, { tc := 0, tp := 1000000 })], hs.ports := [(1, { st := .up })], hs.wqs := [(objKey 20 1 5, { st := .active, head := 1, tail := 1, order := [0], fetched := [{ id := 0, h := 1, q := 5, idx := 0, ents := [[1048647, 2, 0, 0, 0, 0, 0, 0, 0, 0, 0, 0, 0, 0, 0, 2147483648]], stalled := true }] })], hs.cqs := [(objKey 20 1 5, { active := true }), (objKey 20 1 0, { active := true })] }
    (hostUp s h = true) ∧ (headsOf s h = [j]) ∧ (j.q = q) ∧ (meterAgain s h j = true) ∧ (injectResv s h j = some d) ∧ (injectLen s h j ≤ fAt d 3 0 24) ∧ (meterRun (wAt d 1).toNat (wAt d 2).toNat (fAt d 3 0 24) (fAt d 4 0 24) (injectLen s h j) s.time.now (Maps.get {} s.net.meters (resvMeter h (fAt (Job.op j) 15 0 14))) = (.yellow, b)) ∧ quiet s (setHead h { j with metered := true, stalled := false, flags := j.flags ||| 1 } (asdHostCause h 1 (inc (asdHostCtr h 1) { s with net.meters := Maps.put {} s.net.meters (resvMeter h (fAt (Job.op j) 15 0 14)) b }))) = true := by decide +kernel

set_option maxRecDepth 100000 in
theorem wit_FetchingAndIssue_17 :
    let h : Nat := 1; let q : Nat := 5; let s : State := { sOn with hs.ports := [(1, { st := .up })], hs.wqs := [(objKey 20 1 5, { st := .active })], hs.cqs := [(objKey 20 1 5, { active := true }), (objKey 20 1 0, { active := true })] }
    ((headsOf s h).all (fun j => j.q != q || !meterAgain s h j) = true) ∧ quiet s (s) = true := by decide +kernel

set_option maxRecDepth 100000 in
theorem wit_FetchingAndIssue_18 :
    let h : Nat := 1; let cq : Nat := 5; let x : Comp := { cq := 5, q := 5, job := 0, ordered := false, words := [1, 2, 3, 4, 5, 6, 7, 8] }; let s : State := { sOn with hs.ports := [(1, { st := .up, comps := [{ cq := 5, q := 5, job := 0, ordered := false, words := [1, 2, 3, 4, 5, 6, 7, 8] }] })], hs.wqs := [(objKey 20 1 5, { st := .active, order := [0] })], hs.cqs := [(objKey 20 1 5, { active := true }), (objKey 20 1 0, { active := true })] }; let ws : List Word := x.words.set 7 (wAt x.words 7 ||| pack [(31, 1, phaseOf (cqOf s h cq).log (cqOf s h cq).written)]); let e : State := (meetDie (boleOf h) (eccComp h) (if x.q = 2 ^ 20 then 2 ^ 32 else x.job) s).1; let u : State := uncover h x.job false (updWq h x.q (fun w => { w with order := w.order.filter (· ≠ x.job) }) (updHost h (fun p => { p with comps := p.comps.erase x }) (emit (.cqe h cq (cqOf s h cq).written ws) (hostWr h (cqOf s h cq).fn ((cqOf s h cq).base + 32 * ((cqOf s h cq).written.toNat % 2 ^ (cqOf s h cq).log)) (wBytes ws) false e)))); let v : State := inc (qmgCtr h 10) (updCq h cq (fun c => { c with written := c.written + 1 }) u)
    (hostUp s h = true) ∧ ((cqOf s h cq).active = true) ∧ (cqFull s h cq = false) ∧ ((hport s h).comps.find? (compReady s h cq) = some x) ∧ (meetDie (boleOf h) (eccComp h) (if x.q = 2 ^ 20 then 2 ^ 32 else x.job) s = (e, true)) ∧ (ws = x.words.set 7 (wAt x.words 7 ||| pack [(31, 1, phaseOf (cqOf s h cq).log (cqOf s h cq).written)])) ∧ (u = uncover h x.job false (updWq h x.q (fun w => { w with order := w.order.filter (· ≠ x.job) }) (updHost h (fun p => { p with comps := p.comps.erase x }) (emit (.cqe h cq (cqOf s h cq).written ws) (hostWr h (cqOf s h cq).fn ((cqOf s h cq).base + 32 * ((cqOf s h cq).written.toNat % 2 ^ (cqOf s h cq).log)) (wBytes ws) false e))))) ∧ (v = inc (qmgCtr h 10) (updCq h cq (fun c => { c with written := c.written + 1 }) u)) ∧ quiet s (cqCheck h cq (if cqFull v h cq then qmgCause h 1 (inc (qmgCtr h 11) (updCq h cq (fun c => { c with full := true }) v)) else v)) = true := by decide +kernel

set_option maxRecDepth 100000 in
theorem wit_FetchingAndIssue_19 :
    let h : Nat := 1; let cq : Nat := 5; let x : Comp := { cq := 5, q := 5, job := 0, ordered := false, words := [1, 2, 3, 4, 5, 6, 7, 8] }; let s : State := { sOn with ev.ecc := [(eccComp 1, 0)], hs.ports := [(1, { st := .up, comps := [{ cq := 5, q := 5, job := 0, ordered := false, words := [1, 2, 3, 4, 5, 6, 7, 8] }] })], hs.wqs := [(objKey 20 1 5, { st := .active, order := [0] })], hs.cqs := [(objKey 20 1 5, { active := true }), (objKey 20 1 0, { active := true })] }; let e : State := (meetDie (boleOf h) (eccComp h) (if x.q = 2 ^ 20 then 2 ^ 32 else x.job) s).1
    (hostUp s h = true) ∧ ((cqOf s h cq).active = true) ∧ (cqFull s h cq = false) ∧ ((hport s h).comps.find? (compReady s h cq) = some x) ∧ (meetDie (boleOf h) (eccComp h) (if x.q = 2 ^ 20 then 2 ^ 32 else x.job) s = (e, false)) ∧ quiet s (e) = true := by decide +kernel

set_option maxRecDepth 100000 in
theorem wit_FetchingAndIssue_20 :
    let h : Nat := 1; let cq : Nat := 5; let s : State := { sOn with hs.ports := [(1, { st := .up })], hs.wqs := [(objKey 20 1 5, { st := .active })], hs.cqs := [(objKey 20 1 5, { active := true }), (objKey 20 1 0, { active := true })] }
    (hostUp s h = false ∨ (cqOf s h cq).active = false ∨ cqFull s h cq = true ∨ (hport s h).comps.find? (compReady s h cq) = none) ∧ quiet s (s) = true := by decide +kernel

set_option maxRecDepth 100000 in
theorem wit_FetchingAndIssue_21 :
    let h : Nat := 1; let q : Nat := 5; let s : State := { sOn with hs.ports := [(1, { st := .up })], hs.wqs := [(objKey 20 1 5, { st := .active, headWb := 0x4000, head := 3, tail := 3 })], hs.cqs := [(objKey 20 1 5, { active := true }), (objKey 20 1 0, { active := true })] }
    ((wqOf s h q).st ≠ .absent) ∧ (hostUsable s h = true) ∧ ((wqOf s h q).headWb ≠ 0) ∧ ((wqOf s h q).wbHead ≠ (wqOf s h q).head) ∧ quiet s (updWq h q (fun w => { w with wbHead := w.head }) (hostWr h (wqOf s h q).fn (wqOf s h q).headWb (leBytes 8 (wqOf s h q).head.toNat) false s)) = true := by decide +kernel

set_option maxRecDepth 100000 in
theorem wit_FetchingAndIssue_22 :
    let h : Nat := 1; let q : Nat := 5; let s : State := { sOn with hs.ports := [(1, { st := .up })], hs.wqs := [(objKey 20 1 5, { st := .active, head := 3, tail := 3 })], hs.cqs := [(objKey 20 1 5, { active := true }), (objKey 20 1 0, { active := true })] }
    ((wqOf s h q).st = .absent ∨ hostUsable s h = false ∨ (wqOf s h q).headWb = 0 ∨ (wqOf s h q).wbHead = (wqOf s h q).head) ∧ quiet s (s) = true := by decide +kernel

set_option maxRecDepth 100000 in
theorem wit_FetchingAndIssue_23 :
    let h : Nat := 1; let q : Nat := 9; let j : Job := { id := 0, h := 1, q := 0, idx := 0, ents := [[6422535, 0, 0, 0, 0, 0, 0, 0, 0, 0, 0, 9, 0, 0, 0, 2147483648]], begun := true }; let s : State := { sOn with hs.ports := [(1, { st := .up, jobs := [{ id := 0, h := 1, q := 0, idx := 0, ents := [[6422535, 0, 0, 0, 0, 0, 0, 0, 0, 0, 0, 9, 0, 0, 0, 2147483648]], begun := true }], nextJob := 1 })], hs.wqs := [(objKey 20 1 0, { st := .active, priv := true, head := 1, tail := 1, order := [0] }), (objKey 20 1 9, { st := .draining, destroy := some 0 })], hs.cqs := [(objKey 20 1 0, { active := true })] }; let u : State := releaseComps h q (wqOf s h q).destroy (finishJob h j 0 0 0 (writeBack h q s))
    (queueDrained s h q = true) ∧ (hostUp s h = true) ∧ ((wqOf s h q).destroy.bind (jobOf (writeBack h q s) h) = some j) ∧ (u = releaseComps h q (wqOf s h q).destroy (finishJob h j 0 0 0 (writeBack h q s))) ∧ quiet s ({ u with hs.wqs := Maps.erase (objKey 20 h q) u.hs.wqs }) = true := by decide +kernel

set_option maxRecDepth 100000 in
theorem wit_FetchingAndIssue_24 :
    let h : Nat := 1; let q : Nat := 9; let s : State := sOn
    (queueDrained s h q = false ∨ hostUp s h = false) ∧ quiet s (s) = true := by decide +kernel

set_option maxRecDepth 100000 in
theorem wit_FetchingAndIssue_25 :
    let h : Nat := 1; let v : Word := 0x20024; let who : Requester := { id := 3 }; let s : State := { sOn with hs.ports := [(1, { st := .up })] }; let e : State := (if domOn s (dMem (boleOf h)) then performAll (boleOf h) (identOf h who.id who.tc) s else s); let u : State := barSet (hostKey h 0 0x10018) (v &&& 0x3FFFF) e
    (e = (if domOn s (dMem (boleOf h)) then performAll (boleOf h) (identOf h who.id who.tc) s else s)) ∧ (hostUp e h = true) ∧ (bitW (barR e (hostKey h 0 0x10018) 0x24) 17 = false) ∧ (bitW v 17 = true) ∧ (4 ≤ fld v 0 5) ∧ (fld v 0 5 ≤ 20) ∧ (u = barSet (hostKey h 0 0x10018) (v &&& 0x3FFFF) e) ∧ ((cqOf u h 0).active = false) ∧ quiet s (setCq h 0 { active := true, base := (barR u (hostKey h 0 0x10014) 0).toNat * 2 ^ 32 + (barR u (hostKey h 0 0x10010) 0).toNat, log := fld v 0 5, vec := fld v 5 11, intrEn := bitW v 16 } u) = true := by decide +kernel

set_option maxRecDepth 100000 in
theorem wit_FetchingAndIssue_26 :
    let h : Nat := 1; let v : Word := 0x20023; let who : Requester := { id := 3 }; let s : State := { sOn with hs.ports := [(1, { st := .up })] }; let e : State := (if domOn s (dMem (boleOf h)) then performAll (boleOf h) (identOf h who.id who.tc) s else s); let u : State := barSet (hostKey h 0 0x10018) (v &&& 0x3FFFF) e
    (e = (if domOn s (dMem (boleOf h)) then performAll (boleOf h) (identOf h who.id who.tc) s else s)) ∧ (hostUp e h = true) ∧ (bitW (barR e (hostKey h 0 0x10018) 0x24) 17 = false) ∧ (bitW v 17 = true) ∧ (u = barSet (hostKey h 0 0x10018) (v &&& 0x3FFFF) e) ∧ (fld v 0 5 < 4 ∨ 20 < fld v 0 5 ∨ (cqOf u h 0).active = true) ∧ quiet s (qmgCause h 0 u) = true := by decide +kernel

set_option maxRecDepth 100000 in
theorem wit_FetchingAndIssue_27 :
    let h : Nat := 1; let v : Word := 0x24; let who : Requester := { id := 3 }; let s : State := { sOn with hs.ports := [(1, { st := .up })], hs.cqs := [(objKey 20 1 0, { active := true })], hs.bar := [(hostKey 1 0 0x10018, 0x20024)] }; let e : State := (if domOn s (dMem (boleOf h)) then performAll (boleOf h) (identOf h who.id who.tc) s else s); let u : State := barSet (hostKey h 0 0x10018) (v &&& 0x3FFFF) e
    (e = (if domOn s (dMem (boleOf h)) then performAll (boleOf h) (identOf h who.id who.tc) s else s)) ∧ (hostUp e h = true) ∧ (bitW (barR e (hostKey h 0 0x10018) 0x24) 17 = true) ∧ (bitW v 17 = false) ∧ (u = barSet (hostKey h 0 0x10018) (v &&& 0x3FFFF) e) ∧ ((cqOf u h 0).active = true) ∧ quiet s (dropCq h 0 u) = true := by decide +kernel

set_option maxRecDepth 100000 in
theorem wit_FetchingAndIssue_28 :
    let h : Nat := 1; let v : Word := 0x104; let who : Requester := { id := 3 }; let s : State := { sOn with hs.ports := [(1, { st := .up })], hs.wqs := [(objKey 20 1 5, { st := .active })], hs.cqs := [(objKey 20 1 5, { active := true }), (objKey 20 1 0, { active := true })] }; let e : State := (if domOn s (dMem (boleOf h)) then performAll (boleOf h) (identOf h who.id who.tc) s else s); let u : State := barSet (hostKey h 0 0x10008) (v &&& 0x11F) e
    (e = (if domOn s (dMem (boleOf h)) then performAll (boleOf h) (identOf h who.id who.tc) s else s)) ∧ (hostUp e h = true) ∧ (bitW (barR e (hostKey h 0 0x10008) 4) 8 = false) ∧ (bitW v 8 = true) ∧ (4 ≤ fld v 0 5) ∧ (fld v 0 5 ≤ 16) ∧ (u = barSet (hostKey h 0 0x10008) (v &&& 0x11F) e) ∧ ((cqOf u h 0).active = true) ∧ ((wqOf u h 0).st = .absent) ∧ quiet s (setWq h 0 { st := .active, base := (barR u (hostKey h 0 0x10004) 0).toNat * 2 ^ 32 + (barR u (hostKey h 0 0x10000) 0).toNat, cq := 0, log := fld v 0 5, priv := true, qbase := 0, qcount := 2 ^ 20 } u) = true := by decide +kernel

set_option maxRecDepth 100000 in
theorem wit_FetchingAndIssue_29 :
    let h : Nat := 1; let v : Word := 0x104; let who : Requester := { id := 3 }; let s : State := { sOn with hs.ports := [(1, { st := .up })] }; let e : State := (if domOn s (dMem (boleOf h)) then performAll (boleOf h) (identOf h who.id who.tc) s else s); let u : State := barSet (hostKey h 0 0x10008) (v &&& 0x11F) e
    (e = (if domOn s (dMem (boleOf h)) then performAll (boleOf h) (identOf h who.id who.tc) s else s)) ∧ (hostUp e h = true) ∧ (bitW (barR e (hostKey h 0 0x10008) 4) 8 = false) ∧ (bitW v 8 = true) ∧ (u = barSet (hostKey h 0 0x10008) (v &&& 0x11F) e) ∧ (fld v 0 5 < 4 ∨ 16 < fld v 0 5 ∨ (cqOf u h 0).active = false ∨ (wqOf u h 0).st ≠ .absent) ∧ quiet s (qmgCause h 0 u) = true := by decide +kernel

set_option maxRecDepth 100000 in
theorem wit_FetchingAndIssue_30 :
    let h : Nat := 1; let v : Word := 4; let who : Requester := { id := 3 }; let s : State := { sOn with hs.ports := [(1, { st := .up })], hs.wqs := [(objKey 20 1 0, { st := .active })], hs.bar := [(hostKey 1 0 0x10008, 0x104)] }; let e : State := (if domOn s (dMem (boleOf h)) then performAll (boleOf h) (identOf h who.id who.tc) s else s); let u : State := barSet (hostKey h 0 0x10008) (v &&& 0x11F) e
    (e = (if domOn s (dMem (boleOf h)) then performAll (boleOf h) (identOf h who.id who.tc) s else s)) ∧ (hostUp e h = true) ∧ (bitW (barR e (hostKey h 0 0x10008) 4) 8 = true) ∧ (bitW v 8 = false) ∧ (u = barSet (hostKey h 0 0x10008) (v &&& 0x11F) e) ∧ ((wqOf u h 0).st = .active ∨ (wqOf u h 0).st = .error) ∧ quiet s (drainQueue h 0 none u) = true := by decide +kernel

theorem wit_FetchingAndIssue_31 :
    let h : Nat := 1; let v : Word := 0x24; let who : Requester := { id := 3 }; let s : State := sOn; let e : State := (if domOn s (dMem (boleOf h)) then performAll (boleOf h) (identOf h who.id who.tc) s else s)
    (e = (if domOn s (dMem (boleOf h)) then performAll (boleOf h) (identOf h who.id who.tc) s else s)) ∧ (hostUp e h = false) ∧ quiet s (e) = true := by decide

theorem wit_FetchingAndIssue_32 :
    let h : Nat := 1; let v : Word := 0x24; let who : Requester := { id := 3 }; let s : State := sOn; let e : State := (if domOn s (dMem (boleOf h)) then performAll (boleOf h) (identOf h who.id who.tc) s else s)
    (e = (if domOn s (dMem (boleOf h)) then performAll (boleOf h) (identOf h who.id who.tc) s else s)) ∧ (hostUp e h = false) ∧ quiet s (e) = true := by decide

set_option maxRecDepth 100000 in
theorem wit_HostPortLife_1 :
    let h : Nat := 1; let s : State := { sOn with hs.ports := [(1, { st := .reset })] }
    (s.pw.stopped = false) ∧ ((hport s h).st = .reset) ∧ (fwVerified s = true) ∧ quiet s (updHost h (fun p => { p with st := .training }) (updHost h (fun p => { p with perst := false }) s)) = true := by decide +kernel

set_option maxRecDepth 100000 in
theorem wit_HostPortLife_2 :
    let h : Nat := 1; let s : State := { sOn with hs.ports := [(1, { st := .up })] }
    (s.pw.stopped = true ∨ (hport s h).st ≠ .reset ∨ fwVerified s = false) ∧ quiet s (updHost h (fun p => { p with perst := false }) s) = true := by decide +kernel

set_option maxRecDepth 100000 in
theorem wit_HostPortLife_3 :
    let h : Nat := 1; let s : State := { sOn with hs.ports := [(1, { st := .up, perst := false })] }
    (h < 4) ∧ (s.pw.stopped = false) ∧ ((hport s h).st = .up ∨ (hport s h).st = .notReady) ∧ quiet s (updHost h (fun p => { p with st := .cleanup, rate := 0, width := 0, numVfs := 0 }) (cleanPort h (hptCause h 0 (inc (hptCtr h 0) (updHost h (fun p => { p with removed := true }) (updHost h (fun p => { p with perst := true }) s)))))) = true := by decide +kernel

set_option maxRecDepth 100000 in
theorem wit_HostPortLife_4 :
    let h : Nat := 1; let s : State := { sOn with hs.ports := [(1, { st := .training, perst := false })] }
    (h < 4) ∧ (s.pw.stopped = false) ∧ ((hport s h).st = .training) ∧ quiet s (updHost h (fun p => { p with st := .cleanup, rate := 0, width := 0, numVfs := 0 }) (cleanPort h (updHost h (fun p => { p with perst := true }) s))) = true := by decide +kernel

set_option maxRecDepth 100000 in
theorem wit_HostPortLife_5 :
    let h : Nat := 1; let s : State := { sOn with hs.ports := [(1, { st := .reset, perst := false })] }
    (h < 4) ∧ (s.pw.stopped = true ∨ (hport s h).st = .off ∨ (hport s h).st = .reset ∨ (hport s h).st = .cleanup) ∧ quiet s (updHost h (fun p => { p with perst := true }) s) = true := by decide +kernel

set_option maxRecDepth 100000 in
theorem wit_HostPortLife_6 :
    let h : Nat := 1; let rate : Nat := 6; let width : Nat := 16; let s : State := { sOn with hs.ports := [(1, { st := .training, perst := false })] }
    ((hport s h).st = .training) ∧ (s.pw.hostRefOk.getLsbD h = true) ∧ (4 ≤ width) ∧ (4 ≤ rate) ∧ (16 ≤ width) ∧ quiet s (hostReady h (updHost h (fun p => { p with st := .notReady, rate := BitVec.ofNat 4 rate, width := BitVec.ofNat 5 width }) s)) = true := by decide +kernel

set_option maxRecDepth 100000 in
theorem wit_HostPortLife_7 :
    let h : Nat := 1; let rate : Nat := 6; let width : Nat := 8; let s : State := { sOn with hs.ports := [(1, { st := .training, perst := false })] }
    ((hport s h).st = .training) ∧ (s.pw.hostRefOk.getLsbD h = true) ∧ (4 ≤ width) ∧ (rate < 4 ∨ width < 16) ∧ quiet s (hostReady h (hptCause h 1 (updHost h (fun p => { p with st := .notReady, rate := BitVec.ofNat 4 rate, width := BitVec.ofNat 5 width }) s))) = true := by decide +kernel

set_option maxRecDepth 100000 in
theorem wit_HostPortLife_8 :
    let h : Nat := 1; let rate : Nat := 6; let width : Nat := 2; let s : State := { sOn with hs.ports := [(1, { st := .training, perst := false })] }
    ((hport s h).st ≠ .training ∨ width < 4 ∨ s.pw.hostRefOk.getLsbD h = false) ∧ quiet s (s) = true := by decide +kernel

set_option maxRecDepth 100000 in
theorem wit_HostPortLife_9 :
    let h : Nat := 1; let s : State := { sOn with hs.ports := [(1, { st := .up, perst := false })] }
    ((hport s h).perst = false) ∧ ((hport s h).st = .up ∨ (hport s h).st = .notReady) ∧ quiet s (updHost h (fun p => { p with st := .cleanup, rate := 0, width := 0, numVfs := 0 }) (cleanPort h (hptCause h 4 (inc (hptCtr h 1) (hptCause h 0 (inc (hptCtr h 0) (updHost h (fun p => { p with removed := true }) s))))))) = true := by decide +kernel

set_option maxRecDepth 100000 in
theorem wit_HostPortLife_10 :
    let h : Nat := 1; let s : State := { sOn with hs.ports := [(1, { st := .training, perst := false })] }
    ((hport s h).perst = false) ∧ ((hport s h).st = .training) ∧ quiet s (updHost h (fun p => { p with st := .cleanup, rate := 0, width := 0, numVfs := 0 }) (cleanPort h (hptCause h 4 (inc (hptCtr h 1) s)))) = true := by decide +kernel

set_option maxRecDepth 100000 in
theorem wit_HostPortLife_11 :
    let h : Nat := 1; let hot : Bool := true; let s : State := { sOn with hs.ports := [(1, { st := .up, perst := false })] }
    (hot = true ∨ (hport s h).perst = true) ∧ ((hport s h).st = .up ∨ (hport s h).st = .notReady) ∧ quiet s (updHost h (fun p => { p with st := .cleanup, rate := 0, width := 0, numVfs := 0 }) (cleanPort h (hptCause h 0 (inc (hptCtr h 0) (updHost h (fun p => { p with removed := true }) s))))) = true := by decide +kernel

set_option maxRecDepth 100000 in
theorem wit_HostPortLife_12 :
    let h : Nat := 1; let hot : Bool := true; let s : State := { sOn with hs.ports := [(1, { st := .training, perst := false })] }
    (hot = true ∨ (hport s h).perst = true) ∧ ((hport s h).st = .training) ∧ quiet s (updHost h (fun p => { p with st := .cleanup, rate := 0, width := 0, numVfs := 0 }) (cleanPort h s)) = true := by decide +kernel

set_option maxRecDepth 100000 in
theorem wit_HostPortLife_13 :
    let h : Nat := 1; let hot : Bool := false; let s : State := { sOn with hs.ports := [(1, { st := .reset })] }
    ((hport s h).st = .off ∨ (hport s h).st = .reset ∨ (hport s h).st = .cleanup) ∧ quiet s (s) = true := by decide +kernel

set_option maxRecDepth 100000 in
theorem wit_HostPortLife_14 :
    let h : Nat := 1; let s : State := { sOn with hs.ports := [(1, { st := .cleanup })] }
    ((hport s h).st = .cleanup) ∧ quiet s (updHost h (fun p => { p with st := if p.perst then .reset else .training }) s) = true := by decide +kernel

set_option maxRecDepth 100000 in
theorem wit_HostPortLife_15 :
    let h : Nat := 1; let s : State := sOn
    ((hport s h).st ≠ .cleanup) ∧ quiet s (s) = true := by decide +kernel

set_option maxRecDepth 100000 in
theorem wit_HostPortLife_16 :
    let h : Nat := 1; let fn : Nat := 3; let s : State := { sOn with hs.ports := [(1, { st := .up, numVfs := 4 })] }
    ((hport s h).st = .up) ∧ (fn ≠ 0) ∧ quiet s (cleanup { h := h, fns := fun f => f == fn, all := false, pf := false } (inc (hptCtr h 2) s)) = true := by decide +kernel

set_option maxRecDepth 100000 in
theorem wit_HostPortLife_17 :
    let h : Nat := 1; let s : State := { sOn with hs.ports := [(1, { st := .up, numVfs := 4 })] }
    ((hport s h).st = .up) ∧ quiet s (updHost h (fun p => { p with numVfs := 0 }) (cleanup { h := h, fns := fun _ => true, all := false, pf := true } (inc (hptCtr h 2) s))) = true := by decide +kernel

set_option maxRecDepth 100000 in
theorem wit_HostPortLife_18 :
    let h : Nat := 1; let fn : Nat := 0; let s : State := { sOn with hs.ports := [(1, { st := .up, numVfs := 4 })] }
    ((hport s h).st = .up) ∧ quiet s (updHost h (fun p => { p with numVfs := 0 }) (cleanup { h := h, fns := fun f => f != 0, all := false, pf := false } s)) = true := by decide +kernel

set_option maxRecDepth 100000 in
theorem wit_HostPortLife_19 :
    let h : Nat := 1; let fn : Nat := 0; let vfs : Bool := true; let s : State := sOn
    ((hport s h).st ≠ .up) ∧ quiet s (s) = true := by decide +kernel

set_option maxRecDepth 100000 in
theorem wit_HostPortLife_20 :
    let h : Nat := 1; let id : Nat := 0; let fn : Nat := 0; let a : Nat := 0; let l : Nat := 64; let slot : Bool := false; let m : HostView := {}; let w : Wait := { id := 0, client := .job 7, need := .read 0 0 64 false }; let s : State := { sOn with hs.ports := [(1, { st := .up, waits := [{ id := 0, client := .job 7, need := .read 0 0 64 false }] })] }
    (dmaHeld s h (.wait id) = false) ∧ ((hport s h).waits.find? (fun w => w.id == id) = some w) ∧ (w.need = .read fn a l slot) ∧ quiet s (runClient h w.client (viewOf m s) s) = true := by decide +kernel

set_option maxRecDepth 100000 in
theorem wit_HostPortLife_21 :
    let h : Nat := 1; let id : Nat := 0; let fn : Nat := 0; let a : Nat := 64; let l : Nat := 64; let ck : Nat := 3; let pg : Nat := 4; let x : Nat := 0; let first : Nat := 4; let pages : Nat := 1; let at_ : Bool := false; let m : HostView := {}; let w : Wait := { id := 0, client := .job 7, need := .data 0 64 64 3 4 false 0 4 1 }; let s : State := { sOn with hs.ports := [(1, { st := .up, waits := [{ id := 0, client := .job 7, need := .data 0 64 64 3 4 false 0 4 1 }] })] }
    (dmaHeld s h (.wait id) = false) ∧ ((hport s h).waits.find? (fun w => w.id == id) = some w) ∧ (w.need = .data fn a l ck pg at_ x first pages) ∧ quiet s (runClient h w.client { viewOf m s with held := some (ck, pg, a / 4096 * 4096, first, pages) } s) = true := by decide +kernel

set_option maxRecDepth 100000 in
theorem wit_HostPortLife_22 :
    let h : Nat := 1; let id : Nat := 0; let m : HostView := {}; let s : State := { sOn with hs.ports := [(1, { st := .up })] }
    ((hport s h).waits.find? (fun w => w.id == id) = none) ∧ quiet s (s) = true := by decide +kernel

set_option maxRecDepth 100000 in
theorem wit_ContextsAndRegions_1 :
    let h : Nat := 1; let q : Nat := 0; let i : Word := 0; let m : HostView := { spans := [(40960, (wBytes [0x8000, 0, 9, 0, 0, 0, 0, 0]).take 32)] }; let j : Job := { id := 0, h := 1, q := 0, idx := 0, ents := [[5242887, 0, 0, 0, 40960, 0, 0, 0, 0, 0, 0, 4103, 0, 0, 0, 2147483648]] }; let d : List Word := [0x8000, 0, 9, 0, 0, 0, 0, 0]; let s : State := { sOn with hs.ports := [(1, { st := .up, jobs := [{ id := 0, h := 1, q := 0, idx := 0, ents := [[5242887, 0, 0, 0, 40960, 0, 0, 0, 0, 0, 0, 4103, 0, 0, 0, 2147483648]] }], nextJob := 1 })], hs.wqs := [(objKey 20 1 0, { st := .active, priv := true, head := 1, tail := 1, order := [0] })], hs.cqs := [(objKey 20 1 0, { active := true })] }
    (hostUp s h = true) ∧ (freshJob s h q i 80 = some j) ∧ ((xctxOf (updJob h j.id (fun k => { k with begun := true }) s) (fAt (Job.op j) 11 12 2) (fAt (Job.op j) 11 0 12)).active = false) ∧ (rdWords h (wqOf (updJob h j.id (fun k => { k with begun := true }) s) h j.q).fn (viewOf m s) (u64 (Job.op j) 4) 8 (updJob h j.id (fun k => { k with begun := true }) s) = (.ok d, (updJob h j.id (fun k => { k with begun := true }) s))) ∧ (mayActFor (wqOf (updJob h j.id (fun k => { k with begun := true }) s) h j.q) (fAt d 3 0 8) = true) ∧ (fAt d 0 0 12 = 0) ∧ (fAt d 2 2 4 / 2 ^ fAt (Job.op j) 11 12 2 % 2 = 1) ∧ (bAt d 2 0 = true ∨ (fAt d 2 2 4 = 2 ^ fAt (Job.op j) 11 12 2 ∧ bAt d 2 6 = false)) ∧ (fAt d 3 0 8 = 0 ∨ (fAt (Job.op j) 11 12 2 = h ∧ fAt d 2 2 4 = 2 ^ h)) ∧ quiet s (finishJob h ({ j with begun := true }) 0 0 0 { (updJob h j.id (fun k => { k with begun := true }) s) with hs.xctx := Maps.put {} ((updJob h j.id (fun k => { k with begun := true }) s)).hs.xctx (objKey 12 (fAt (Job.op j) 11 12 2) (fAt (Job.op j) 11 0 12)) { active := true, root := u64 d 0, bcast := bAt d 2 0, adEn := bAt d 2 1, share := BitVec.ofNat 4 (fAt d 2 2 4), trig := bAt d 2 6, fn := fAt d 3 0 8 } }) = true := by decide +kernel

set_option maxRecDepth 100000 in
theorem wit_ContextsAndRegions_2 :
    let h : Nat := 1; let q : Nat := 0; let i : Word := 0; let j : Job := { id := 0, h := 1, q := 0, idx := 0, ents := [[5308423, 0, 0, 0, 0, 0, 0, 0, 0, 0, 0, 4103, 0, 0, 0, 2147483648]] }; let s : State := { sOn with hs.ports := [(1, { st := .up, jobs := [{ id := 0, h := 1, q := 0, idx := 0, ents := [[5308423, 0, 0, 0, 0, 0, 0, 0, 0, 0, 0, 4103, 0, 0, 0, 2147483648]] }], nextJob := 1 })], hs.wqs := [(objKey 20 1 0, { st := .active, priv := true, head := 1, tail := 1, order := [0] })], hs.cqs := [(objKey 20 1 0, { active := true })], hs.xctx := [(objKey 12 1 7, { active := true, root := 0x8000, share := 2, fn := 0 })] }
    (hostUp s h = true) ∧ (freshJob s h q i 81 = some j) ∧ ((xctxOf (updJob h j.id (fun k => { k with begun := true }) s) (fAt (Job.op j) 11 12 2) (fAt (Job.op j) 11 0 12)).active = true) ∧ ((xctxOf (updJob h j.id (fun k => { k with begun := true }) s) (fAt (Job.op j) 11 12 2) (fAt (Job.op j) 11 0 12)).share.getLsbD h = true) ∧ (ownsCtx (wqOf (updJob h j.id (fun k => { k with begun := true }) s) h j.q) h (fAt (Job.op j) 11 12 2) (xctxOf (updJob h j.id (fun k => { k with begun := true }) s) (fAt (Job.op j) 11 12 2) (fAt (Job.op j) 11 0 12)) = true) ∧ (ctxNamed (updJob h j.id (fun k => { k with begun := true }) s) (fAt (Job.op j) 11 12 2) (fAt (Job.op j) 11 0 12) = false) ∧ quiet s (finishJob h ({ j with begun := true }) 0 0 0 (dropCtx (fAt (Job.op j) 11 12 2) (fAt (Job.op j) 11 0 12) (updJob h j.id (fun k => { k with begun := true }) s))) = true := by decide +kernel

set_option maxRecDepth 100000 in
theorem wit_ContextsAndRegions_3 :
    let h : Nat := 1; let q : Nat := 0; let i : Word := 0; let m : HostView := { spans := [(37056, (wBytes [17025, 0, 4096, 0, 4096, 0, 0, 0, 0, 0, 0, 0, 0, 0, 0, 0]).take 64)] }; let j : Job := { id := 0, h := 1, q := 0, idx := 0, ents := [[5373959, 0, 0, 0, 0, 0, 0, 0, 0, 0, 0, 3, 0, 0, 0, 2147483648]] }; let d : List Word := [17025, 0, 4096, 0, 4096, 0, 0, 0, 0, 0, 0, 0, 0, 0, 0, 0]; let s : State := { sOn with hs.ports := [(1, { st := .up, jobs := [{ id := 0, h := 1, q := 0, idx := 0, ents := [[5373959, 0, 0, 0, 0, 0, 0, 0, 0, 0, 0, 3, 0, 0, 0, 2147483648]] }], nextJob := 1 })], hs.wqs := [(objKey 20 1 0, { st := .active, priv := true, head := 1, tail := 1, order := [0] })], hs.cqs := [(objKey 20 1 0, { active := true })], hs.bar := [(hostKey 1 0 0x40008, 0x9000), (hostKey 1 0 0x40010, 4)] }
    (hostUp s h = true) ∧ (freshJob s h q i 82 = some j) ∧ (fAt (Job.op j) 11 0 24 < 2 ^ mrtLog (updJob h j.id (fun k => { k with begun := true }) s) h) ∧ (mayRegion (updJob h j.id (fun k => { k with begun := true }) s) h ({ j with begun := true }) (fAt (Job.op j) 11 0 24) = true) ∧ (rdWords h 0 (viewOf m s) (mrtBase (updJob h j.id (fun k => { k with begun := true }) s) h + 64 * fAt (Job.op j) 11 0 24) 16 (flushRegion h (fAt (Job.op j) 11 0 24) (updJob h j.id (fun k => { k with begun := true }) s)) = (.ok d, (flushRegion h (fAt (Job.op j) 11 0 24) (updJob h j.id (fun k => { k with begun := true }) s)))) ∧ (bAt d 0 0 = true) ∧ (u64 d 2 + u64 d 4 ≤ 2 ^ 48) ∧ ((bAt d 0 7 = false ∧ (regionXctx (flushRegion h (fAt (Job.op j) 11 0 24) (updJob h j.id (fun k => { k with begun := true }) s)) d).active = true ∧ (regionXctx (flushRegion h (fAt (Job.op j) 11 0 24) (updJob h j.id (fun k => { k with begun := true }) s)) d).share.getLsbD h = true) ∨ (bAt d 0 7 = true ∧ fAt d 0 16 8 = 0)) ∧ (mayActFor (wqOf (flushRegion h (fAt (Job.op j) 11 0 24) (updJob h j.id (fun k => { k with begun := true }) s)) h j.q) (fAt d 0 16 8) = true) ∧ quiet s (finishJob h ({ j with begun := true }) 0 0 0 { (flushRegion h (fAt (Job.op j) 11 0 24) (updJob h j.id (fun k => { k with begun := true }) s)) with hs.regions := Maps.put [] (flushRegion h (fAt (Job.op j) 11 0 24) (updJob h j.id (fun k => { k with begun := true }) s)).hs.regions (objKey 24 h (fAt (Job.op j) 11 0 24)) d }) = true := by decide +kernel

set_option maxRecDepth 100000 in
theorem wit_ContextsAndRegions_4 :
    let h : Nat := 1; let q : Nat := 0; let i : Word := 0; let j : Job := { id := 0, h := 1, q := 0, idx := 0, ents := [[5439495, 0, 0, 0, 0, 0, 0, 0, 0, 0, 0, 3, 0, 0, 0, 2147483648]] }; let s : State := { sOn with hs.ports := [(1, { st := .up, jobs := [{ id := 0, h := 1, q := 0, idx := 0, ents := [[5439495, 0, 0, 0, 0, 0, 0, 0, 0, 0, 0, 3, 0, 0, 0, 2147483648]] }], nextJob := 1 })], hs.wqs := [(objKey 20 1 0, { st := .active, priv := true, head := 1, tail := 1, order := [0] })], hs.cqs := [(objKey 20 1 0, { active := true })], hs.bar := [(hostKey 1 0 0x40008, 0x9000), (hostKey 1 0 0x40010, 4)], hs.regions := [(objKey 24 1 3, [1])] }
    (hostUp s h = true) ∧ (freshJob s h q i 83 = some j) ∧ (fAt (Job.op j) 11 0 24 < 2 ^ mrtLog (updJob h j.id (fun k => { k with begun := true }) s) h) ∧ (mayRegion (updJob h j.id (fun k => { k with begun := true }) s) h ({ j with begun := true }) (fAt (Job.op j) 11 0 24) = true) ∧ (regionBusy (updJob h j.id (fun k => { k with begun := true }) s) h (fAt (Job.op j) 11 0 24) = false) ∧ quiet s (finishJob h ({ j with begun := true }) 0 0 0 { (flushRegion h (fAt (Job.op j) 11 0 24) (updJob h j.id (fun k => { k with begun := true }) s)) with hs.regions := Maps.erase (objKey 24 h (fAt (Job.op j) 11 0 24)) (flushRegion h (fAt (Job.op j) 11 0 24) (updJob h j.id (fun k => { k with begun := true }) s)).hs.regions }) = true := by decide +kernel

set_option maxRecDepth 100000 in
theorem wit_ContextsAndRegions_5 :
    let h : Nat := 1; let q : Nat := 0; let i : Word := 0; let j : Job := { id := 0, h := 1, q := 0, idx := 0, ents := [[5439495, 0, 0, 0, 0, 0, 0, 0, 0, 0, 0, 3, 0, 0, 0, 2147483648]] }; let s : State := { sOn with hs.ports := [(1, { st := .up, jobs := [{ id := 0, h := 1, q := 0, idx := 0, ents := [[5439495, 0, 0, 0, 0, 0, 0, 0, 0, 0, 0, 3, 0, 0, 0, 2147483648]] }], nextJob := 1, waits := [{ id := 0, client := .job 5, need := .data 0 0 4 0 0 false (objKey 24 1 3) 0 1 }] })], hs.wqs := [(objKey 20 1 0, { st := .active, priv := true, head := 1, tail := 1, order := [0] })], hs.cqs := [(objKey 20 1 0, { active := true })], hs.bar := [(hostKey 1 0 0x40008, 0x9000), (hostKey 1 0 0x40010, 4)] }
    (hostUp s h = true) ∧ (freshJob s h q i 83 = some j) ∧ (fAt (Job.op j) 11 0 24 < 2 ^ mrtLog (updJob h j.id (fun k => { k with begun := true }) s) h) ∧ (mayRegion (updJob h j.id (fun k => { k with begun := true }) s) h ({ j with begun := true }) (fAt (Job.op j) 11 0 24) = true) ∧ (regionBusy (updJob h j.id (fun k => { k with begun := true }) s) h (fAt (Job.op j) 11 0 24) = true) ∧ quiet s ({ (flushRegion h (fAt (Job.op j) 11 0 24) (updJob h j.id (fun k => { k with begun := true }) s)) with hs.regions := Maps.erase (objKey 24 h (fAt (Job.op j) 11 0 24)) (flushRegion h (fAt (Job.op j) 11 0 24) (updJob h j.id (fun k => { k with begun := true }) s)).hs.regions }) = true := by decide +kernel

set_option maxRecDepth 100000 in
theorem wit_ContextsAndRegions_6 :
    let h : Nat := 1; let q : Nat := 0; let i : Word := 0; let j : Job := { id := 0, h := 1, q := 0, idx := 0, ents := [[5505031, 33554432, 0, 0, 0, 0, 0, 0, 0, 0, 0, 4103, 0, 0, 0, 2147483648]] }; let lo : Nat := (if Job.subop j = 1 then min (u64 (Job.op j) 4 / 4096 * 4096) (2 ^ 48) else 0); let hi : Nat := (if Job.subop j = 1 then min (roundUp (u64 (Job.op j) 4 + u64 (Job.op j) 12) 4096) (2 ^ 48) else 0); let s : State := { sOn with hs.ports := [(1, { st := .up, jobs := [{ id := 0, h := 1, q := 0, idx := 0, ents := [[5505031, 33554432, 0, 0, 0, 0, 0, 0, 0, 0, 0, 4103, 0, 0, 0, 2147483648]] }], nextJob := 1 })], hs.wqs := [(objKey 20 1 0, { st := .active, priv := true, head := 1, tail := 1, order := [0] })], hs.cqs := [(objKey 20 1 0, { active := true })], hs.xctx := [(objKey 12 1 7, { active := true, root := 0x8000, share := 2, fn := 0, bcast := true })] }; let bc : Bool := (if Job.subop j = 3 then ((updJob h j.id (fun k => { k with begun := true }) s)).hs.xctx.any (fun e => e.1 / 2 ^ 12 == h && e.2.fn == (wqOf (updJob h j.id (fun k => { k with begun := true }) s) h j.q).fn && e.2.bcast) else (xctxOf (updJob h j.id (fun k => { k with begun := true }) s) (fAt (Job.op j) 11 12 2) (fAt (Job.op j) 11 0 12)).bcast); let iv : Inval := ({ id := (xl (updJob h j.id (fun k => { k with begun := true }) s) (boleOf h)).nextId, scope := Job.subop j, home := fAt (Job.op j) 11 12 2, ctx := fAt (Job.op j) 11 0 12, port := h, fn := (wqOf (updJob h j.id (fun k => { k with begun := true }) s) h j.q).fn, start := lo, len := hi - lo, job := some j.id, xseq := if bc then some (xl (updJob h j.id (fun k => { k with begun := true }) s) (boleOf h)).xseq else none, acked := !bc || !xinvReach (updJob h j.id (fun k => { k with begun := true }) s) (1 - boleOf h) } : Inval); let u : State := (if bc then inc (xltCtr h 7) (updXl (boleOf h) (fun x => { x with invals := x.invals ++ [iv], nextId := x.nextId + 1, xseq := x.xseq + 1 }) (inc (xltCtr h 6) (updJob h j.id (fun k => { k with begun := true }) s))) else updXl (boleOf h) (fun x => { x with invals := x.invals ++ [iv], nextId := x.nextId + 1 }) (inc (xltCtr h 6) (updJob h j.id (fun k => { k with begun := true }) s)))
    (hostUp s h = true) ∧ (freshJob s h q i 84 = some j) ∧ (Job.subop j = 3 ∨ ((xctxOf (updJob h j.id (fun k => { k with begun := true }) s) (fAt (Job.op j) 11 12 2) (fAt (Job.op j) 11 0 12)).active = true ∧ (xctxOf (updJob h j.id (fun k => { k with begun := true }) s) (fAt (Job.op j) 11 12 2) (fAt (Job.op j) 11 0 12)).share.getLsbD h = true ∧ ownsCtx (wqOf (updJob h j.id (fun k => { k with begun := true }) s) h j.q) h (fAt (Job.op j) 11 12 2) (xctxOf (updJob h j.id (fun k => { k with begun := true }) s) (fAt (Job.op j) 11 12 2) (fAt (Job.op j) 11 0 12)) = true)) ∧ (bc = (if Job.subop j = 3 then ((updJob h j.id (fun k => { k with begun := true }) s)).hs.xctx.any (fun e => e.1 / 2 ^ 12 == h && e.2.fn == (wqOf (updJob h j.id (fun k => { k with begun := true }) s) h j.q).fn && e.2.bcast) else (xctxOf (updJob h j.id (fun k => { k with begun := true }) s) (fAt (Job.op j) 11 12 2) (fAt (Job.op j) 11 0 12)).bcast)) ∧ (lo = (if Job.subop j = 1 then min (u64 (Job.op j) 4 / 4096 * 4096) (2 ^ 48) else 0)) ∧ (hi = (if Job.subop j = 1 then min (roundUp (u64 (Job.op j) 4 + u64 (Job.op j) 12) 4096) (2 ^ 48) else 0)) ∧ (iv = ({ id := (xl (updJob h j.id (fun k => { k with begun := true }) s) (boleOf h)).nextId, scope := Job.subop j, home := fAt (Job.op j) 11 12 2, ctx := fAt (Job.op j) 11 0 12, port := h, fn := (wqOf (updJob h j.id (fun k => { k with begun := true }) s) h j.q).fn, start := lo, len := hi - lo, job := some j.id, xseq := if bc then some (xl (updJob h j.id (fun k => { k with begun := true }) s) (boleOf h)).xseq else none, acked := !bc || !xinvReach (updJob h j.id (fun k => { k with begun := true }) s) (1 - boleOf h) } : Inval)) ∧ (u = (if bc then inc (xltCtr h 7) (updXl (boleOf h) (fun x => { x with invals := x.invals ++ [iv], nextId := x.nextId + 1, xseq := x.xseq + 1 }) (inc (xltCtr h 6) (updJob h j.id (fun k => { k with begun := true }) s))) else updXl (boleOf h) (fun x => { x with invals := x.invals ++ [iv], nextId := x.nextId + 1 }) (inc (xltCtr h 6) (updJob h j.id (fun k => { k with begun := true }) s)))) ∧ quiet s (invNext (boleOf h) (if bc = true ∧ iv.acked = false then sendXinv h 8 (xinvPayload iv (xl (updJob h j.id (fun k => { k with begun := true }) s) (boleOf h)).xseq) u else u)) = true := by decide +kernel

set_option maxRecDepth 100000 in
theorem wit_ContextsAndRegions_7 :
    let h : Nat := 1; let q : Nat := 0; let i : Word := 0; let m : HostView := {}; let j : Job := { id := 0, h := 1, q := 0, idx := 0, ents := [[5242887, 0, 0, 0, 40960, 0, 0, 0, 0, 0, 0, 4103, 0, 0, 0, 2147483648]] }; let s : State := { sOn with hs.ports := [(1, { st := .up, jobs := [{ id := 0, h := 1, q := 0, idx := 0, ents := [[5242887, 0, 0, 0, 40960, 0, 0, 0, 0, 0, 0, 4103, 0, 0, 0, 2147483648]] }], nextJob := 1 })], hs.wqs := [(objKey 20 1 0, { st := .active, priv := true, head := 1, tail := 1, order := [0] })], hs.cqs := [(objKey 20 1 0, { active := true })], hs.xctx := [(objKey 12 1 7, { active := true, root := 0x8000, share := 2, fn := 0 })] }
    (hostUp s h = true) ∧ (freshJob s h q i 80 = some j) ∧ ((xctxOf (updJob h j.id (fun k => { k with begun := true }) s) (fAt (Job.op j) 11 12 2) (fAt (Job.op j) 11 0 12)).active = true) ∧ quiet s (malformed h ({ j with begun := true }) 9 (updJob h j.id (fun k => { k with begun := true }) s)) = true := by decide +kernel

set_option maxRecDepth 100000 in
theorem wit_ContextsAndRegions_8 :
    let h : Nat := 1; let q : Nat := 0; let i : Word := 0; let j : Job := { id := 0, h := 1, q := 0, idx := 0, ents := [[5308423, 0, 0, 0, 0, 0, 0, 0, 0, 0, 0, 4103, 0, 0, 0, 2147483648]] }; let s : State := { sOn with hs.ports := [(1, { st := .up, jobs := [{ id := 0, h := 1, q := 0, idx := 0, ents := [[5308423, 0, 0, 0, 0, 0, 0, 0, 0, 0, 0, 4103, 0, 0, 0, 2147483648]] }], nextJob := 1 })], hs.wqs := [(objKey 20 1 0, { st := .active, priv := true, head := 1, tail := 1, order := [0] })], hs.cqs := [(objKey 20 1 0, { active := true })] }
    (hostUp s h = true) ∧ (freshJob s h q i 81 = some j) ∧ ((xctxOf (updJob h j.id (fun k => { k with begun := true }) s) (fAt (Job.op j) 11 12 2) (fAt (Job.op j) 11 0 12)).active = false ∨ (xctxOf (updJob h j.id (fun k => { k with begun := true }) s) (fAt (Job.op j) 11 12 2) (fAt (Job.op j) 11 0 12)).share.getLsbD h = false) ∧ quiet s (malformed h ({ j with begun := true }) 10 (updJob h j.id (fun k => { k with begun := true }) s)) = true := by decide +kernel

set_option maxRecDepth 100000 in
theorem wit_ContextsAndRegions_9 :
    let h : Nat := 1; let q : Nat := 0; let i : Word := 0; let j : Job := { id := 0, h := 1, q := 0, idx := 0, ents := [[5308423, 0, 0, 0, 0, 0, 0, 0, 0, 0, 0, 4103, 0, 0, 0, 2147483648]] }; let s : State := { sOn with hs.ports := [(1, { st := .up, jobs := [{ id := 0, h := 1, q := 0, idx := 0, ents := [[5308423, 0, 0, 0, 0, 0, 0, 0, 0, 0, 0, 4103, 0, 0, 0, 2147483648]] }], nextJob := 1 })], hs.wqs := [(objKey 20 1 0, { st := .active, priv := true, head := 1, tail := 1, order := [0] })], hs.cqs := [(objKey 20 1 0, { active := true })], hs.xctx := [(objKey 12 1 7, { active := true, root := 0x8000, share := 2, fn := 0 })], hs.regions := [(objKey 24 1 3, [1, 0x1007])] }
    (hostUp s h = true) ∧ (freshJob s h q i 81 = some j) ∧ ((xctxOf (updJob h j.id (fun k => { k with begun := true }) s) (fAt (Job.op j) 11 12 2) (fAt (Job.op j) 11 0 12)).active = true) ∧ ((xctxOf (updJob h j.id (fun k => { k with begun := true }) s) (fAt (Job.op j) 11 12 2) (fAt (Job.op j) 11 0 12)).share.getLsbD h = true) ∧ (ownsCtx (wqOf (updJob h j.id (fun k => { k with begun := true }) s) h j.q) h (fAt (Job.op j) 11 12 2) (xctxOf (updJob h j.id (fun k => { k with begun := true }) s) (fAt (Job.op j) 11 12 2) (fAt (Job.op j) 11 0 12)) = true) ∧ (ctxNamed (updJob h j.id (fun k => { k with begun := true }) s) (fAt (Job.op j) 11 12 2) (fAt (Job.op j) 11 0 12) = true) ∧ quiet s (malformed h ({ j with begun := true }) 9 (updJob h j.id (fun k => { k with begun := true }) s)) = true := by decide +kernel

set_option maxRecDepth 100000 in
theorem wit_ContextsAndRegions_10 :
    let h : Nat := 1; let q : Nat := 0; let i : Word := 0; let m : HostView := {}; let j : Job := { id := 0, h := 1, q := 0, idx := 0, ents := [[5373959, 0, 0, 0, 0, 0, 0, 0, 0, 0, 0, 3, 0, 0, 0, 2147483648]] }; let s : State := { sOn with hs.ports := [(1, { st := .up, jobs := [{ id := 0, h := 1, q := 0, idx := 0, ents := [[5373959, 0, 0, 0, 0, 0, 0, 0, 0, 0, 0, 3, 0, 0, 0, 2147483648]] }], nextJob := 1 })], hs.wqs := [(objKey 20 1 0, { st := .active, priv := true, head := 1, tail := 1, order := [0] })], hs.cqs := [(objKey 20 1 0, { active := true })] }
    (hostUp s h = true) ∧ (freshJob s h q i 82 = some j) ∧ (2 ^ mrtLog (updJob h j.id (fun k => { k with begun := true }) s) h ≤ fAt (Job.op j) 11 0 24) ∧ quiet s (malformed h ({ j with begun := true }) 10 (updJob h j.id (fun k => { k with begun := true }) s)) = true := by decide +kernel

set_option maxRecDepth 100000 in
theorem wit_ContextsAndRegions_11 :
    let h : Nat := 1; let q : Nat := 0; let i : Word := 0; let j : Job := { id := 0, h := 1, q := 0, idx := 0, ents := [[5439495, 0, 0, 0, 0, 0, 0, 0, 0, 0, 0, 3, 0, 0, 0, 2147483648]] }; let s : State := { sOn with hs.ports := [(1, { st := .up, jobs := [{ id := 0, h := 1, q := 0, idx := 0, ents := [[5439495, 0, 0, 0, 0, 0, 0, 0, 0, 0, 0, 3, 0, 0, 0, 2147483648]] }], nextJob := 1 })], hs.wqs := [(objKey 20 1 0, { st := .active, priv := true, head := 1, tail := 1, order := [0] })], hs.cqs := [(objKey 20 1 0, { active := true })] }
    (hostUp s h = true) ∧ (freshJob s h q i 83 = some j) ∧ (2 ^ mrtLog (updJob h j.id (fun k => { k with begun := true }) s) h ≤ fAt (Job.op j) 11 0 24) ∧ quiet s (malformed h ({ j with begun := true }) 10 (updJob h j.id (fun k => { k with begun := true }) s)) = true := by decide +kernel

set_option maxRecDepth 100000 in
theorem wit_ContextsAndRegions_12 :
    let h : Nat := 1; let q : Nat := 1; let i : Word := 0; let m : HostView := {}; let j : Job := { id := 0, h := 1, q := 1, idx := 0, ents := [[5373959, 0, 0, 0, 0, 0, 0, 0, 0, 0, 0, 3, 0, 0, 0, 2147483648]] }; let s : State := { sOn with hs.ports := [(1, { st := .up, jobs := [{ id := 0, h := 1, q := 1, idx := 0, ents := [[5373959, 0, 0, 0, 0, 0, 0, 0, 0, 0, 0, 3, 0, 0, 0, 2147483648]] }], nextJob := 1 })], hs.wqs := [(objKey 20 1 0, { st := .active, priv := true, head := 1, tail := 1, order := [0] }), (objKey 20 1 1, { st := .active, priv := true, fn := 1 })], hs.cqs := [(objKey 20 1 0, { active := true })], hs.bar := [(hostKey 1 0 0x40008, 0x9000), (hostKey 1 0 0x40010, 4)], hs.regions := [(objKey 24 1 3, [1 + 2 * 2 ^ 16])] }
    (hostUp s h = true) ∧ (freshJob s h q i 82 = some j) ∧ (fAt (Job.op j) 11 0 24 < 2 ^ mrtLog (updJob h j.id (fun k => { k with begun := true }) s) h) ∧ (mayRegion (updJob h j.id (fun k => { k with begun := true }) s) h ({ j with begun := true }) (fAt (Job.op j) 11 0 24) = false) ∧ quiet s (malformed h ({ j with begun := true }) 2 (updJob h j.id (fun k => { k with begun := true }) s)) = true := by decide +kernel

set_option maxRecDepth 100000 in
theorem wit_ContextsAndRegions_13 :
    let h : Nat := 1; let q : Nat := 1; let i : Word := 0; let j : Job := { id := 0, h := 1, q := 1, idx := 0, ents := [[5439495, 0, 0, 0, 0, 0, 0, 0, 0, 0, 0, 3, 0, 0, 0, 2147483648]] }; let s : State := { sOn with hs.ports := [(1, { st := .up, jobs := [{ id := 0, h := 1, q := 1, idx := 0, ents := [[5439495, 0, 0, 0, 0, 0, 0, 0, 0, 0, 0, 3, 0, 0, 0, 2147483648]] }], nextJob := 1 })], hs.wqs := [(objKey 20 1 0, { st := .active, priv := true, head := 1, tail := 1, order := [0] }), (objKey 20 1 1, { st := .active, priv := true, fn := 1 })], hs.cqs := [(objKey 20 1 0, { active := true })], hs.bar := [(hostKey 1 0 0x40008, 0x9000), (hostKey 1 0 0x40010, 4)], hs.regions := [(objKey 24 1 3, [1 + 2 * 2 ^ 16])] }
    (hostUp s h = true) ∧ (freshJob s h q i 83 = some j) ∧ (fAt (Job.op j) 11 0 24 < 2 ^ mrtLog (updJob h j.id (fun k => { k with begun := true }) s) h) ∧ (mayRegion (updJob h j.id (fun k => { k with begun := true }) s) h ({ j with begun := true }) (fAt (Job.op j) 11 0 24) = false) ∧ quiet s (malformed h ({ j with begun := true }) 2 (updJob h j.id (fun k => { k with begun := true }) s)) = true := by decide +kernel

set_option maxRecDepth 100000 in
theorem wit_ContextsAndRegions_14 :
    let h : Nat := 1; let q : Nat := 0; let i : Word := 0; let m : HostView := { spans := [(37056, (wBytes (List.replicate 16 0)).take 64)] }; let j : Job := { id := 0, h := 1, q := 0, idx := 0, ents := [[5373959, 0, 0, 0, 0, 0, 0, 0, 0, 0, 0, 3, 0, 0, 0, 2147483648]] }; let d : List Word := List.replicate 16 0; let s : State := { sOn with hs.ports := [(1, { st := .up, jobs := [{ id := 0, h := 1, q := 0, idx := 0, ents := [[5373959, 0, 0, 0, 0, 0, 0, 0, 0, 0, 0, 3, 0, 0, 0, 2147483648]] }], nextJob := 1 })], hs.wqs := [(objKey 20 1 0, { st := .active, priv := true, head := 1, tail := 1, order := [0] })], hs.cqs := [(objKey 20 1 0, { active := true })], hs.bar := [(hostKey 1 0 0x40008, 0x9000), (hostKey 1 0 0x40010, 4)] }
    (hostUp s h = true) ∧ (freshJob s h q i 82 = some j) ∧ (fAt (Job.op j) 11 0 24 < 2 ^ mrtLog (updJob h j.id (fun k => { k with begun := true }) s) h) ∧ (mayRegion (updJob h j.id (fun k => { k with begun := true }) s) h ({ j with begun := true }) (fAt (Job.op j) 11 0 24) = true) ∧ (rdWords h 0 (viewOf m s) (mrtBase (updJob h j.id (fun k => { k with begun := true }) s) h + 64 * fAt (Job.op j) 11 0 24) 16 (flushRegion h (fAt (Job.op j) 11 0 24) (updJob h j.id (fun k => { k with begun := true }) s)) = (.ok d, (flushRegion h (fAt (Job.op j) 11 0 24) (updJob h j.id (fun k => { k with begun := true }) s)))) ∧ (bAt d 0 0 = false) ∧ quiet s (malformed h ({ j with begun := true }) 8 (flushRegion h (fAt (Job.op j) 11 0 24) (updJob h j.id (fun k => { k with begun := true }) s))) = true := by decide +kernel

theorem wit_ContextsAndRegions_15 :
    let h : Nat := 1; let q : Nat := 0; let i : Word := 5; let m : HostView := {}; let s : State := sOn
    (hostUp s h = false ∨ freshJob s h q i 80 = none) ∧ quiet s (s) = true := by decide

theorem wit_ContextsAndRegions_16 :
    let h : Nat := 1; let q : Nat := 0; let i : Word := 5; let s : State := sOn
    (hostUp s h = false ∨ freshJob s h q i 81 = none) ∧ quiet s (s) = true := by decide

theorem wit_ContextsAndRegions_17 :
    let h : Nat := 1; let q : Nat := 0; let i : Word := 5; let m : HostView := {}; let s : State := sOn
    (hostUp s h = false ∨ freshJob s h q i 82 = none) ∧ quiet s (s) = true := by decide

theorem wit_ContextsAndRegions_18 :
    let h : Nat := 1; let q : Nat := 0; let i : Word := 5; let s : State := sOn
    (hostUp s h = false ∨ freshJob s h q i 83 = none) ∧ quiet s (s) = true := by decide

theorem wit_ContextsAndRegions_19 :
    let h : Nat := 1; let q : Nat := 0; let i : Word := 5; let s : State := sOn
    (hostUp s h = false ∨ freshJob s h q i 84 = none) ∧ quiet s (s) = true := by decide

set_option maxRecDepth 100000 in
theorem wit_InvalidationsAndFaults_1 :
    let b : Nat := 0; let id : Nat := 0; let i : Inval := { id := 0, scope := 2, home := 1, ctx := 7, port := 1, fn := 0, start := 0, len := 0, job := none, xseq := some 5, acked := false, begun := true }; let s : State := { sOn with hs.ports := [(1, { st := .up, waits := [{ id := 0, client := .job 7, need := .turn 0 0 }] })], hs.xl := [(0, { invals := [{ id := 0, scope := 2, home := 1, ctx := 7, port := 1, fn := 0, start := 0, len := 0, job := none, xseq := some 5, acked := false, begun := true }] })] }; let f : State := invFinish b i s; let u : State := rerunNeeds (2 * b) (fun n => match n with | .turn k _ => k == id | _ => false) (viewOf {} f) (if ((hport f (2 * b)).waits.filter (fun w => (fun n => match n with | .turn k _ => k == id | _ => false) w.need)) = [] then f else count (xltCtr (2 * b) 8) ((hport f (2 * b)).waits.filter (fun w => (fun n => match n with | .turn k _ => k == id | _ => false) w.need)).length f)
    ((xl s b).invals.find? (fun i => i.id == id) = some i) ∧ (invReady s b i = true) ∧ (f = invFinish b i s) ∧ (u = rerunNeeds (2 * b) (fun n => match n with | .turn k _ => k == id | _ => false) (viewOf {} f) (if ((hport f (2 * b)).waits.filter (fun w => (fun n => match n with | .turn k _ => k == id | _ => false) w.need)) = [] then f else count (xltCtr (2 * b) 8) ((hport f (2 * b)).waits.filter (fun w => (fun n => match n with | .turn k _ => k == id | _ => false) w.need)).length f)) ∧ quiet s (rerunNeeds (2 * b + 1) (fun n => match n with | .turn k _ => k == id | _ => false) (viewOf {} u) (if ((hport u (2 * b + 1)).waits.filter (fun w => (fun n => match n with | .turn k _ => k == id | _ => false) w.need)) = [] then u else count (xltCtr (2 * b + 1) 8) ((hport u (2 * b + 1)).waits.filter (fun w => (fun n => match n with | .turn k _ => k == id | _ => false) w.need)).length u)) = true := by decide +kernel

set_option maxRecDepth 100000 in
theorem wit_InvalidationsAndFaults_2 :
    let b : Nat := 0; let id : Nat := 0; let s : State := sOn
    ((xl s b).invals.find? (fun i => i.id == id) = none) ∧ quiet s (s) = true := by decide +kernel

set_option maxRecDepth 100000 in
theorem wit_InvalidationsAndFaults_3 :
    let b : Nat := 1; let n : Nat := 2; let p : Packet := sealPkt { dest := eidNone, src := eidNone, cls := 1, mode := 3, lenCells := 0, ptype := 8, payload := wBytes [5 + 2 ^ 18 + 7 * 2 ^ 20, 1 * 256, 0, 0, 0, 0, 0, 0] }; let s : State := sOn
    (boleOk s b = true) ∧ (n = (nPort s (2 * b)).getD (2 * b)) ∧ (lenOk p = true) ∧ (e2eGood p = true) ∧ (asdMismatch p = false) ∧ (p.extMask = 0) ∧ (fAt (bWords 8 p.payload) 0 16 2 = 0) ∧ quiet s (hdrBad b (freeInternal (xN n) p s)) = true := by decide +kernel

set_option maxRecDepth 100000 in
theorem wit_InvalidationsAndFaults_4 :
    let h : Nat := 1; let addr : Nat := 0x8000; let r : Option (BitVec 64) := none; let m : HostView := {}; let s : State := sOn
    (dmaHeld s h (.cas addr) = true ∨ (xl s (boleOf h)).cas.find? (fun c => c.addr == addr && c.ctx / 2 ^ 14 == h) = none) ∧ quiet s (s) = true := by decide +kernel

set_option maxRecDepth 100000 in
theorem wit_InvalidationsAndFaults_5 :
    let h : Nat := 1; let addr : Nat := 0x8000; let m : HostView := {}; let c : CasOut := { addr := 0x8000, ctx := ctxTag 1 1 7, page := 5, level := 1, cmp := 0x400F, swap := 0x402F, tlb := { ctx := ctxTag 1 1 7, page := 5, pages := 1, bus := 0x4000, rd := true, wr := true, dirty := false, leaf := 0x8000, ent := 0x402F } }; let s : State := { sOn with hs.xctx := [(objKey 12 1 7, { active := true, root := 0x8000, share := 2, fn := 0 })], hs.ports := [(1, { st := .up, waits := [{ id := 0, client := .job 7, need := .cas 0x8000 0 }] })], hs.xl := [(0, { cas := [{ addr := 0x8000, ctx := ctxTag 1 1 7, page := 5, level := 1, cmp := 0x400F, swap := 0x402F, tlb := { ctx := ctxTag 1 1 7, page := 5, pages := 1, bus := 0x4000, rd := true, wr := true, dirty := false, leaf := 0x8000, ent := 0x402F } }], fails := [], tlb := [{ ctx := ctxTag 1 1 7, page := 5, pages := 1, bus := 0x4000, rd := true, wr := true, dirty := false, leaf := 0x8000, ent := 0x400F }] })] }; let u : State := updXl (boleOf h) (fun x => { x with cas := x.cas.filter (fun y => !(y.addr == addr && y.ctx / 2 ^ 14 == h)) }) s
    (dmaHeld s h (.cas addr) = false) ∧ ((xl s (boleOf h)).cas.find? (fun c => c.addr == addr && c.ctx / 2 ^ 14 == h) = some c) ∧ (u = updXl (boleOf h) (fun x => { x with cas := x.cas.filter (fun y => !(y.addr == addr && y.ctx / 2 ^ 14 == h)) }) s) ∧ quiet s (rerunNeeds h (fun n => match n with | .cas a _ => a == addr | _ => false) { viewOf m u with noCas := some addr, entry := some (c, c.cmp) } (updHost h (fun p => { p with waits := p.waits.map (fun w => if (match w.need with | .cas a _ => a == addr | _ => false) = true then { w with ans := (c.ctx, c.page, 10) :: w.ans } else w) }) (updXl (boleOf h) (fun x => { x with fails := Maps.put 0 x.fails (addr * 4 + h) 0 }) u))) = true := by decide +kernel

set_option maxRecDepth 100000 in
theorem wit_InvalidationsAndFaults_6 :
    let h : Nat := 1; let addr : Nat := 0x8000; let m : HostView := {}; let c : CasOut := { addr := 0x8000, ctx := ctxTag 1 1 7, page := 5, level := 1, cmp := 0x400F, swap := 0x402F, tlb := { ctx := ctxTag 1 1 7, page := 5, pages := 1, bus := 0x4000, rd := true, wr := true, dirty := false, leaf := 0x8000, ent := 0x402F } }; let r : BitVec 64 := 0x500F; let s : State := { sOn with hs.xctx := [(objKey 12 1 7, { active := true, root := 0x8000, share := 2, fn := 0 })], hs.ports := [(1, { st := .up, waits := [{ id := 0, client := .job 7, need := .cas 0x8000 0 }] })], hs.xl := [(0, { cas := [{ addr := 0x8000, ctx := ctxTag 1 1 7, page := 5, level := 1, cmp := 0x400F, swap := 0x402F, tlb := { ctx := ctxTag 1 1 7, page := 5, pages := 1, bus := 0x4000, rd := true, wr := true, dirty := false, leaf := 0x8000, ent := 0x402F } }], fails := [], tlb := [{ ctx := ctxTag 1 1 7, page := 5, pages := 1, bus := 0x4000, rd := true, wr := true, dirty := false, leaf := 0x8000, ent := 0x400F }] })] }; let u : State := updXl (boleOf h) (fun x => { x with cas := x.cas.filter (fun y => !(y.addr == addr && y.ctx / 2 ^ 14 == h)) }) s
    (dmaHeld s h (.cas addr) = false) ∧ ((xl s (boleOf h)).cas.find? (fun c => c.addr == addr && c.ctx / 2 ^ 14 == h) = some c) ∧ (u = updXl (boleOf h) (fun x => { x with cas := x.cas.filter (fun y => !(y.addr == addr && y.ctx / 2 ^ 14 == h)) }) s) ∧ (r ≠ c.cmp) ∧ (Maps.get 0 (xl u (boleOf h)).fails (addr * 4 + h) < 3) ∧ quiet s (rerunNeeds h (fun n => match n with | .cas a _ => a == addr | _ => false) { viewOf m u with entry := some (c, r) } (updXl (boleOf h) (fun x => { x with fails := Maps.put 0 x.fails (addr * 4 + h) (Maps.get 0 x.fails (addr * 4 + h) + 1) }) (inc (xltCtr h 5) (updXl (boleOf h) (fun x => { x with tlb := x.tlb.filter (fun y => !(y.leaf == addr && y.ctx / 2 ^ 14 == h)), micro := x.micro.filter (fun y => !(y.2.leaf == addr && y.2.ctx / 2 ^ 14 == h)) }) u)))) = true := by decide +kernel

set_option maxRecDepth 100000 in
theorem wit_InvalidationsAndFaults_7 :
    let h : Nat := 1; let addr : Nat := 0x8000; let m : HostView := {}; let c : CasOut := { addr := 0x8000, ctx := ctxTag 1 1 7, page := 5, level := 1, cmp := 0x400F, swap := 0x402F, tlb := { ctx := ctxTag 1 1 7, page := 5, pages := 1, bus := 0x4000, rd := true, wr := true, dirty := false, leaf := 0x8000, ent := 0x402F } }; let r : BitVec 64 := 0x500F; let s : State := { sOn with hs.xctx := [(objKey 12 1 7, { active := true, root := 0x8000, share := 2, fn := 0 })], hs.ports := [(1, { st := .up, waits := [{ id := 0, client := .job 7, need := .cas 0x8000 0 }] })], hs.xl := [(0, { cas := [{ addr := 0x8000, ctx := ctxTag 1 1 7, page := 5, level := 1, cmp := 0x400F, swap := 0x402F, tlb := { ctx := ctxTag 1 1 7, page := 5, pages := 1, bus := 0x4000, rd := true, wr := true, dirty := false, leaf := 0x8000, ent := 0x402F } }], fails := [(0x20001, 3)], tlb := [{ ctx := ctxTag 1 1 7, page := 5, pages := 1, bus := 0x4000, rd := true, wr := true, dirty := false, leaf := 0x8000, ent := 0x400F }] })] }; let u : State := updXl (boleOf h) (fun x => { x with cas := x.cas.filter (fun y => !(y.addr == addr && y.ctx / 2 ^ 14 == h)) }) s
    (dmaHeld s h (.cas addr) = false) ∧ ((xl s (boleOf h)).cas.find? (fun c => c.addr == addr && c.ctx / 2 ^ 14 == h) = some c) ∧ (u = updXl (boleOf h) (fun x => { x with cas := x.cas.filter (fun y => !(y.addr == addr && y.ctx / 2 ^ 14 == h)) }) s) ∧ (r ≠ c.cmp) ∧ (3 ≤ Maps.get 0 (xl u (boleOf h)).fails (addr * 4 + h)) ∧ quiet s (rerunNeeds h (fun n => match n with | .cas a _ => a == addr | _ => false) { viewOf m u with fight := some addr, entry := some (c, r) } (updHost h (fun p => { p with waits := p.waits.map (fun w => if (match w.need with | .cas a _ => a == addr | _ => false) = true then { w with ans := (c.ctx, c.page, 11) :: w.ans } else w) }) (updXl (boleOf h) (fun x => { x with fails := Maps.put 0 x.fails (addr * 4 + h) 0 }) (inc (xltCtr h 5) (updXl (boleOf h) (fun x => { x with tlb := x.tlb.filter (fun y => !(y.leaf == addr && y.ctx / 2 ^ 14 == h)), micro := x.micro.filter (fun y => !(y.2.leaf == addr && y.2.ctx / 2 ^ 14 == h)) }) u))))) = true := by decide +kernel

set_option maxRecDepth 100000 in
theorem wit_InvalidationsAndFaults_8 :
    let h : Nat := 1; let addr : Nat := 0x8000; let m : HostView := {}; let c : CasOut := { addr := 0x8000, ctx := ctxTag 1 1 7, page := 5, level := 1, cmp := 0x400F, swap := 0x402F, tlb := { ctx := ctxTag 1 1 7, page := 5, pages := 1, bus := 0x4000, rd := true, wr := true, dirty := false, leaf := 0x8000, ent := 0x402F } }; let r : BitVec 64 := 0x400F; let s : State := { sOn with hs.ports := [(1, { st := .up, waits := [{ id := 0, client := .job 7, need := .cas 0x8000 0 }] })], hs.xl := [(0, { cas := [{ addr := 0x8000, ctx := ctxTag 1 1 7, page := 5, level := 1, cmp := 0x400F, swap := 0x402F, tlb := { ctx := ctxTag 1 1 7, page := 5, pages := 1, bus := 0x4000, rd := true, wr := true, dirty := false, leaf := 0x8000, ent := 0x402F } }], fails := [], tlb := [{ ctx := ctxTag 1 1 7, page := 5, pages := 1, bus := 0x4000, rd := true, wr := true, dirty := false, leaf := 0x8000, ent := 0x400F }] })] }; let u : State := updXl (boleOf h) (fun x => { x with cas := x.cas.filter (fun y => !(y.addr == addr && y.ctx / 2 ^ 14 == h)) }) s; let v : State := rerunNeeds h (fun n => match n with | .cas a _ => a == addr | _ => false) { viewOf m u with done := some addr } (updXl (boleOf h) (fun x => { x with fails := Maps.put 0 x.fails (addr * 4 + h) 0 }) u)
    (dmaHeld s h (.cas addr) = false) ∧ ((xl s (boleOf h)).cas.find? (fun c => c.addr == addr && c.ctx / 2 ^ 14 == h) = some c) ∧ (u = updXl (boleOf h) (fun x => { x with cas := x.cas.filter (fun y => !(y.addr == addr && y.ctx / 2 ^ 14 == h)) }) s) ∧ (r = c.cmp) ∧ (c.tlb.pages = 0 ∨ (xctxOf s (c.ctx / 2 ^ 12 % 4) (c.ctx % 2 ^ 12)).active = false) ∧ (v = rerunNeeds h (fun n => match n with | .cas a _ => a == addr | _ => false) { viewOf m u with done := some addr } (updXl (boleOf h) (fun x => { x with fails := Maps.put 0 x.fails (addr * 4 + h) 0 }) u)) ∧ ((xl v (boleOf h)).invals.any (fun i => i.begun && !i.done) = false) ∧ quiet s (v) = true := by decide +kernel

set_option maxRecDepth 100000 in
theorem wit_InvalidationsAndFaults_9 :
    let h : Nat := 1; let addr : Nat := 0x8000; let m : HostView := {}; let c : CasOut := { addr := 0x8000, ctx := ctxTag 1 1 7, page := 5, level := 1, cmp := 0x400F, swap := 0x402F, tlb := { ctx := ctxTag 1 1 7, page := 5, pages := 1, bus := 0x4000, rd := true, wr := true, dirty := false, leaf := 0x8000, ent := 0x402F } }; let r : BitVec 64 := 0x400F; let i : Inval := { id := 0, scope := 2, home := 1, ctx := 7, port := 1, fn := 0, start := 0, len := 0, job := none, xseq := some 5, acked := false, begun := true }; let s : State := { sOn with hs.xctx := [(objKey 12 1 7, { active := true, root := 0x8000, share := 2, fn := 0 })], hs.ports := [(1, { st := .up, waits := [{ id := 0, client := .job 7, need := .cas 0x8000 0 }] })], hs.xl := [(0, { invals := [{ id := 0, scope := 2, home := 1, ctx := 7, port := 1, fn := 0, start := 0, len := 0, job := none, xseq := some 5, acked := false, begun := true }], cas := [{ addr := 0x8000, ctx := ctxTag 1 1 7, page := 5, level := 1, cmp := 0x400F, swap := 0x402F, tlb := { ctx := ctxTag 1 1 7, page := 5, pages := 1, bus := 0x4000, rd := true, wr := true, dirty := false, leaf := 0x8000, ent := 0x402F } }], fails := [], tlb := [{ ctx := ctxTag 1 1 7, page := 5, pages := 1, bus := 0x4000, rd := true, wr := true, dirty := false, leaf := 0x8000, ent := 0x400F }] })] }; let u : State := updXl (boleOf h) (fun x => { x with cas := x.cas.filter (fun y => !(y.addr == addr && y.ctx / 2 ^ 14 == h)) }) s; let v : State := rerunNeeds h (fun n => match n with | .cas a _ => a == addr | _ => false) { viewOf m u with done := some addr } (tlbFill (boleOf h) c.tlb (updXl (boleOf h) (fun x => { x with fails := Maps.put 0 x.fails (addr * 4 + h) 0 }) u))
    (dmaHeld s h (.cas addr) = false) ∧ ((xl s (boleOf h)).cas.find? (fun c => c.addr == addr && c.ctx / 2 ^ 14 == h) = some c) ∧ (u = updXl (boleOf h) (fun x => { x with cas := x.cas.filter (fun y => !(y.addr == addr && y.ctx / 2 ^ 14 == h)) }) s) ∧ (r = c.cmp) ∧ (c.tlb.pages ≠ 0) ∧ ((xctxOf s (c.ctx / 2 ^ 12 % 4) (c.ctx % 2 ^ 12)).active = true) ∧ (v = rerunNeeds h (fun n => match n with | .cas a _ => a == addr | _ => false) { viewOf m u with done := some addr } (tlbFill (boleOf h) c.tlb (updXl (boleOf h) (fun x => { x with fails := Maps.put 0 x.fails (addr * 4 + h) 0 }) u))) ∧ ((xl v (boleOf h)).invals = [i]) ∧ (i.begun = true) ∧ (i.done = false) ∧ quiet s (invFlush (boleOf h) i v) = true := by decide +kernel

set_option maxRecDepth 100000 in
theorem wit_InvalidationsAndFaults_10 :
    let b : Nat := 1; let n : Nat := 2; let p : Packet := sealPkt { dest := eidNone, src := eidNone, cls := 1, mode := 3, lenCells := 0, ptype := 8, payload := wBytes [5 + 2 * 65536 + 2 ^ 18 + 7 * 2 ^ 20, 1 * 256, 0, 0, 0, 0, 0, 0] }; let s : State := { sOn with hs.xl := [(1, { finished := [5] })] }
    (boleOk s b = true) ∧ (n = (nPort s (2 * b)).getD (2 * b)) ∧ (lenOk p = true) ∧ (e2eGood p = true) ∧ (asdMismatch p = false) ∧ (p.extMask = 0) ∧ (fAt (bWords 8 p.payload) 0 16 2 ≠ 0) ∧ ((xl (freeInternal (xN n) p s) b).finished.contains (BitVec.ofNat 16 (fAt (bWords 8 p.payload) 0 0 16)) = true) ∧ quiet s (sendXinv (2 * b) 9 p.payload (freeInternal (xN n) p s)) = true := by decide +kernel

set_option maxRecDepth 100000 in
theorem wit_InvalidationsAndFaults_11 :
    let b : Nat := 1; let n : Nat := 2; let p : Packet := sealPkt { dest := eidNone, src := eidNone, cls := 1, mode := 3, lenCells := 0, ptype := 8, payload := wBytes [5 + 2 * 65536 + 2 ^ 18 + 7 * 2 ^ 20, 1 * 256, 0, 0, 0, 0, 0, 0] }; let s : State := sOn
    (boleOk s b = true) ∧ (n = (nPort s (2 * b)).getD (2 * b)) ∧ (lenOk p = true) ∧ (e2eGood p = true) ∧ (asdMismatch p = false) ∧ (p.extMask = 0) ∧ (fAt (bWords 8 p.payload) 0 16 2 ≠ 0) ∧ ((xl (freeInternal (xN n) p s) b).finished.contains (BitVec.ofNat 16 (fAt (bWords 8 p.payload) 0 0 16)) = false) ∧ ((xl (freeInternal (xN n) p s) b).invals.any (fun y => y.answer && y.xseq == some (BitVec.ofNat 16 (fAt (bWords 8 p.payload) 0 0 16))) = false) ∧ quiet s (invNext b (updXl b (fun x => { x with invals := x.invals ++ [{ id := x.nextId, scope := fAt (bWords 8 p.payload) 0 16 2, home := fAt (bWords 8 p.payload) 0 18 2, ctx := fAt (bWords 8 p.payload) 0 20 12, port := fAt (bWords 8 p.payload) 1 8 2, fn := fAt (bWords 8 p.payload) 1 0 8, start := u64 (bWords 8 p.payload) 2, len := u64 (bWords 8 p.payload) 4, xseq := some (BitVec.ofNat 16 (fAt (bWords 8 p.payload) 0 0 16)), answer := true }], nextId := x.nextId + 1 }) (freeInternal (xN n) p s))) = true := by decide +kernel

set_option maxRecDepth 100000 in
theorem wit_InvalidationsAndFaults_12 :
    let b : Nat := 0; let n : Nat := 0; let p : Packet := sealPkt { dest := eidNone, src := eidNone, cls := 1, mode := 3, lenCells := 0, ptype := 9, payload := wBytes [5 + 2 * 65536 + 2 ^ 18 + 7 * 2 ^ 20, 1 * 256, 0, 0, 0, 0, 0, 0] }; let i : Inval := { id := 0, scope := 2, home := 1, ctx := 7, port := 1, fn := 0, start := 0, len := 0, job := none, xseq := some 5, acked := false, begun := true }; let s : State := { sOn with hs.xl := [(0, { invals := [{ id := 0, scope := 2, home := 1, ctx := 7, port := 1, fn := 0, start := 0, len := 0, job := none, xseq := some 5, acked := false, begun := true }] })] }
    (boleOk s b = true) ∧ (n = (nPort s (2 * b)).getD (2 * b)) ∧ (lenOk p = true) ∧ (e2eGood p = true) ∧ (asdMismatch p = false) ∧ (p.extMask = 0) ∧ (invOut (freeInternal (xN n) p s) b (BitVec.ofNat 16 (fAt (bWords 8 p.payload) 0 0 16)) = some i) ∧ quiet s (invAcked b i (freeInternal (xN n) p s)) = true := by decide +kernel

set_option maxRecDepth 100000 in
theorem wit_InvalidationsAndFaults_13 :
    let b : Nat := 0; let q : BitVec 16 := 5; let i : Inval := { id := 0, scope := 2, home := 1, ctx := 7, port := 1, fn := 0, start := 0, len := 0, job := none, xseq := some 5, acked := false, begun := true }; let s : State := { sOn with hs.xl := [(0, { invals := [{ id := 0, scope := 2, home := 1, ctx := 7, port := 1, fn := 0, start := 0, len := 0, job := none, xseq := some 5, acked := false, begun := true }] })] }
    (boleOk s b = true) ∧ (invOut s b q = some i) ∧ (xinvReach s (1 - b) = true) ∧ quiet s (sendXinv i.port 8 (xinvPayload i q) s) = true := by decide +kernel

set_option maxRecDepth 100000 in
theorem wit_InvalidationsAndFaults_14 :
    let b : Nat := 0; let q : BitVec 16 := 5; let i : Inval := { id := 0, scope := 2, home := 1, ctx := 7, port := 1, fn := 0, start := 0, len := 0, job := none, xseq := some 5, acked := false, begun := true }; let s : State := { sOn with pw.dom := domsOn.filter (fun e => e.1 != 93), hs.xl := [(0, { invals := [{ id := 0, scope := 2, home := 1, ctx := 7, port := 1, fn := 0, start := 0, len := 0, job := none, xseq := some 5, acked := false, begun := true }] })] }
    (boleOk s b = true) ∧ (invOut s b q = some i) ∧ (xinvReach s (1 - b) = false) ∧ quiet s (invAcked b i s) = true := by decide +kernel

theorem wit_InvalidationsAndFaults_15 :
    let b : Nat := 0; let q : BitVec 16 := 5; let s : State := sOn
    (boleOk s b = false ∨ invOut s b q = none) ∧ quiet s (s) = true := by decide

set_option maxRecDepth 100000 in
theorem wit_InvalidationsAndFaults_16 :
    let b : Nat := 1; let n : Nat := 2; let p : Packet := sealPkt { dest := eidNone, src := eidNone, cls := 1, mode := 3, lenCells := 0, ptype := 8, payload := wBytes [5 + 2 * 65536 + 2 ^ 18 + 7 * 2 ^ 20, 1 * 256, 0, 0, 0, 0, 0, 0] }; let s : State := { sOn with hs.xl := [(1, { invals := [{ id := 0, scope := 2, home := 1, ctx := 7, port := 1, fn := 0, start := 0, len := 0, job := none, xseq := some 5, acked := false, answer := true }] })] }
    (boleOk s b = true) ∧ (n = (nPort s (2 * b)).getD (2 * b)) ∧ (lenOk p = true) ∧ (e2eGood p = true) ∧ (asdMismatch p = false) ∧ (p.extMask = 0) ∧ (fAt (bWords 8 p.payload) 0 16 2 ≠ 0) ∧ ((xl (freeInternal (xN n) p s) b).finished.contains (BitVec.ofNat 16 (fAt (bWords 8 p.payload) 0 0 16)) = false) ∧ ((xl (freeInternal (xN n) p s) b).invals.any (fun y => y.answer && y.xseq == some (BitVec.ofNat 16 (fAt (bWords 8 p.payload) 0 0 16))) = true) ∧ quiet s ((freeInternal (xN n) p s)) = true := by decide +kernel

set_option maxRecDepth 100000 in
theorem wit_InvalidationsAndFaults_17 :
    let b : Nat := 0; let n : Nat := 0; let p : Packet := sealPkt { dest := eidNone, src := eidNone, cls := 1, mode := 3, lenCells := 0, ptype := 9, payload := wBytes [5 + 2 * 65536 + 2 ^ 18 + 7 * 2 ^ 20, 1 * 256, 0, 0, 0, 0, 0, 0] }; let s : State := sOn
    (boleOk s b = true) ∧ (n = (nPort s (2 * b)).getD (2 * b)) ∧ (lenOk p = true) ∧ (e2eGood p = true) ∧ (asdMismatch p = false) ∧ (p.extMask = 0) ∧ (invOut (freeInternal (xN n) p s) b (BitVec.ofNat 16 (fAt (bWords 8 p.payload) 0 0 16)) = none) ∧ quiet s ((freeInternal (xN n) p s)) = true := by decide +kernel

set_option maxRecDepth 100000 in
theorem wit_InvalidationsAndFaults_18 :
    let b : Nat := 1; let n : Nat := 2; let p : Packet := sealPkt { dest := eidNone, src := eidNone, cls := 2, mode := 3, lenCells := 0, ptype := 8, payload := wBytes [5 + 2 * 65536 + 2 ^ 18 + 7 * 2 ^ 20, 1 * 256, 0, 0, 0, 0, 0, 0] }; let s : State := sOn
    (boleOk s b = true) ∧ (n = (nPort s (2 * b)).getD (2 * b)) ∧ (lenOk p = true) ∧ (e2eGood p = true) ∧ (asdMismatch p = true) ∧ quiet s (hdrBad b (asdHostCause n 5 (inc (asdHostCtr n 10) (freeInternal (xN n) p s)))) = true := by decide +kernel

set_option maxRecDepth 100000 in
theorem wit_InvalidationsAndFaults_19 :
    let b : Nat := 1; let n : Nat := 2; let p : Packet := sealPkt { dest := eidNone, src := eidNone, cls := 2, mode := 3, lenCells := 0, ptype := 9, payload := wBytes [5 + 2 * 65536 + 2 ^ 18 + 7 * 2 ^ 20, 1 * 256, 0, 0, 0, 0, 0, 0] }; let s : State := sOn
    (boleOk s b = true) ∧ (n = (nPort s (2 * b)).getD (2 * b)) ∧ (lenOk p = true) ∧ (e2eGood p = true) ∧ (asdMismatch p = true) ∧ quiet s (hdrBad b (asdHostCause n 5 (inc (asdHostCtr n 10) (freeInternal (xN n) p s)))) = true := by decide +kernel

set_option maxRecDepth 100000 in
theorem wit_InvalidationsAndFaults_20 :
    let b : Nat := 0; let id : Nat := 0; let i : Inval := { id := 0, scope := 2, home := 1, ctx := 7, port := 1, fn := 0, start := 0, len := 0, job := none, xseq := some 5, acked := false }; let s : State := { sOn with hs.xl := [(0, { invals := [{ id := 0, scope := 2, home := 1, ctx := 7, port := 1, fn := 0, start := 0, len := 0, job := none, xseq := some 5, acked := false }] })] }
    ((xl s b).invals.find? (fun i => i.id == id) = some i) ∧ (invReady s b i = false) ∧ quiet s (s) = true := by decide +kernel

set_option maxRecDepth 100000 in
theorem wit_InvalidationsAndFaults_21 :
    let h : Nat := 1; let addr : Nat := 0x8000; let m : HostView := {}; let c : CasOut := { addr := 0x8000, ctx := ctxTag 1 1 7, page := 5, level := 1, cmp := 0x400F, swap := 0x402F, tlb := { ctx := ctxTag 1 1 7, page := 5, pages := 1, bus := 0x4000, rd := true, wr := true, dirty := false, leaf := 0x8000, ent := 0x402F } }; let r : BitVec 64 := 0x400F; let s : State := { sOn with hs.xctx := [(objKey 12 1 7, { active := true, root := 0x8000, share := 2, fn := 0 })], hs.ports := [(1, { st := .up, waits := [{ id := 0, client := .job 7, need := .cas 0x8000 0 }] })], hs.xl := [(0, { cas := [{ addr := 0x8000, ctx := ctxTag 1 1 7, page := 5, level := 1, cmp := 0x400F, swap := 0x402F, tlb := { ctx := ctxTag 1 1 7, page := 5, pages := 1, bus := 0x4000, rd := true, wr := true, dirty := false, leaf := 0x8000, ent := 0x402F } }], fails := [], tlb := [{ ctx := ctxTag 1 1 7, page := 5, pages := 1, bus := 0x4000, rd := true, wr := true, dirty := false, leaf := 0x8000, ent := 0x400F }] })] }; let u : State := updXl (boleOf h) (fun x => { x with cas := x.cas.filter (fun y => !(y.addr == addr && y.ctx / 2 ^ 14 == h)) }) s; let v : State := rerunNeeds h (fun n => match n with | .cas a _ => a == addr | _ => false) { viewOf m u with done := some addr } (tlbFill (boleOf h) c.tlb (updXl (boleOf h) (fun x => { x with fails := Maps.put 0 x.fails (addr * 4 + h) 0 }) u))
    (dmaHeld s h (.cas addr) = false) ∧ ((xl s (boleOf h)).cas.find? (fun c => c.addr == addr && c.ctx / 2 ^ 14 == h) = some c) ∧ (u = updXl (boleOf h) (fun x => { x with cas := x.cas.filter (fun y => !(y.addr == addr && y.ctx / 2 ^ 14 == h)) }) s) ∧ (r = c.cmp) ∧ (c.tlb.pages ≠ 0) ∧ ((xctxOf s (c.ctx / 2 ^ 12 % 4) (c.ctx % 2 ^ 12)).active = true) ∧ (v = rerunNeeds h (fun n => match n with | .cas a _ => a == addr | _ => false) { viewOf m u with done := some addr } (tlbFill (boleOf h) c.tlb (updXl (boleOf h) (fun x => { x with fails := Maps.put 0 x.fails (addr * 4 + h) 0 }) u))) ∧ ((xl v (boleOf h)).invals.any (fun i => i.begun && !i.done) = false) ∧ quiet s (v) = true := by decide +kernel

set_option maxRecDepth 100000 in
theorem wit_InvalidationsAndFaults_22 :
    let h : Nat := 1; let r : PageReq := { id := 0, ctx := ctxTag 1 1 7, page := 5, write := false, remote := false, fn := 0, region := 3 }; let tl : List PageReq := []; let s : State := { sOn with hs.ports := [(1, { st := .up, pageWait := [{ id := 0, ctx := ctxTag 1 1 7, page := 5, write := false, remote := false, fn := 0, region := 3 }] })] }
    ((hport s h).pageWait = r :: tl) ∧ (fqRoom s h = true) ∧ (hostUp s h = true) ∧ quiet s (fqPost h r (updHost h (fun p => { p with pageWait := tl }) s)) = true := by decide +kernel

set_option maxRecDepth 100000 in
theorem wit_InvalidationsAndFaults_23 :
    let h : Nat := 1; let r : PageReq := { id := 0, ctx := ctxTag 1 1 7, page := 5, write := false, remote := false, fn := 0, region := 3 }; let tl : List PageReq := []; let s : State := { sOn with hs.ports := [(1, { st := .off, pageWait := [{ id := 0, ctx := ctxTag 1 1 7, page := 5, write := false, remote := false, fn := 0, region := 3 }] })] }
    ((hport s h).pageWait = r :: tl) ∧ (fqRoom s h = false ∨ hostUp s h = false) ∧ quiet s (s) = true := by decide +kernel

set_option maxRecDepth 100000 in
theorem wit_InvalidationsAndFaults_24 :
    let h : Nat := 1; let s : State := sOn
    ((hport s h).pageWait = []) ∧ quiet s (s) = true := by decide +kernel

set_option maxRecDepth 100000 in
theorem wit_InvalidationsAndFaults_25 :
    let h : Nat := 1; let v : Word := 3; let who : Requester := { id := 3 }; let s : State := sOn; let e : State := (if domOn s (dMem (boleOf h)) then performAll (boleOf h) (identOf h who.id who.tc) s else s)
    (e = (if domOn s (dMem (boleOf h)) then performAll (boleOf h) (identOf h who.id who.tc) s else s)) ∧ ((hport e h).st ≠ .up) ∧ quiet s (e) = true := by decide +kernel

set_option maxRecDepth 100000 in
theorem wit_InvalidationsAndFaults_26 :
    let h : Nat := 1; let v : Word := 3; let who : Requester := { id := 3 }; let s : State := { sOn with hs.ports := [(1, { st := .up })] }; let e : State := (if domOn s (dMem (boleOf h)) then performAll (boleOf h) (identOf h who.id who.tc) s else s)
    (e = (if domOn s (dMem (boleOf h)) then performAll (boleOf h) (identOf h who.id who.tc) s else s)) ∧ ((hport e h).st = .up) ∧ quiet s (barSet (hostKey h 0 0x4002C) v e) = true := by decide +kernel

set_option maxRecDepth 100000 in
theorem wit_InvalidationsAndFaults_27 :
    let h : Nat := 1; let v : Word := 3; let m : HostView := {}; let who : Requester := { id := 3 }; let s : State := { sOn with hs.ports := [(1, { st := .up })] }; let e : State := (if domOn s (dMem (boleOf h)) then performAll (boleOf h) (identOf h who.id who.tc) s else s)
    (e = (if domOn s (dMem (boleOf h)) then performAll (boleOf h) (identOf h who.id who.tc) s else s)) ∧ (hostUp e h = true) ∧ ((hport e h).pageReqs.find? (fun r => r.id.toNat == fld v 0 16) = none) ∧ quiet s (xltCause h 4 (inc (xltCtr h 13) e)) = true := by decide +kernel

set_option maxRecDepth 100000 in
theorem wit_InvalidationsAndFaults_28 :
    let h : Nat := 1; let v : Word := 0x10000; let m : HostView := {}; let r : PageReq := { id := 0, ctx := ctxTag 1 1 7, page := 5, write := false, remote := false, fn := 0, region := 3 }; let who : Requester := { id := 3 }; let s : State := { sOn with hs.ports := [(1, { st := .up, pageReqs := [{ id := 0, ctx := ctxTag 1 1 7, page := 5, write := false, remote := false, fn := 0, region := 3 }] })] }; let e : State := (if domOn s (dMem (boleOf h)) then performAll (boleOf h) (identOf h who.id who.tc) s else s)
    (e = (if domOn s (dMem (boleOf h)) then performAll (boleOf h) (identOf h who.id who.tc) s else s)) ∧ (hostUp e h = true) ∧ ((hport e h).pageReqs.find? (fun r => r.id.toNat == fld v 0 16) = some r) ∧ (bitW v 16 = true) ∧ quiet s (answerPage h r 12 (viewOf m e) (inc (xltCtr h 11) e)) = true := by decide +kernel

set_option maxRecDepth 100000 in
theorem wit_InvalidationsAndFaults_29 :
    let h : Nat := 1; let v : Word := 0; let m : HostView := {}; let r : PageReq := { id := 0, ctx := ctxTag 1 1 7, page := 5, write := false, remote := false, fn := 0, region := 3 }; let who : Requester := { id := 3 }; let s : State := { sOn with hs.ports := [(1, { st := .up, pageReqs := [{ id := 0, ctx := ctxTag 1 1 7, page := 5, write := false, remote := false, fn := 0, region := 3 }] })] }; let e : State := (if domOn s (dMem (boleOf h)) then performAll (boleOf h) (identOf h who.id who.tc) s else s)
    (e = (if domOn s (dMem (boleOf h)) then performAll (boleOf h) (identOf h who.id who.tc) s else s)) ∧ (hostUp e h = true) ∧ ((hport e h).pageReqs.find? (fun r => r.id.toNat == fld v 0 16) = some r) ∧ (bitW v 16 = false) ∧ quiet s (answerPage h r 0 (viewOf m e) (inc (xltCtr h 10) e)) = true := by decide +kernel

set_option maxRecDepth 100000 in
theorem wit_InvalidationsAndFaults_30 :
    let h : Nat := 1; let id : BitVec 16 := 0; let r : PageReq := { id := 0, ctx := ctxTag 1 1 7, page := 5, write := false, remote := false, fn := 0, region := 3 }; let s : State := { sOn with hs.ports := [(1, { st := .up, pageReqs := [{ id := 0, ctx := ctxTag 1 1 7, page := 5, write := false, remote := false, fn := 0, region := 3 }] })] }
    ((hport s h).pageReqs.find? (fun r => r.id == id) = some r) ∧ quiet s (answerPage h r 13 (viewOf {} s) (inc (xltCtr h 12) s)) = true := by decide +kernel

set_option maxRecDepth 100000 in
theorem wit_ChannelJobs_1 :
    let h : Nat := 1; let q : Nat := 0; let i : Word := 0; let m : HostView := { spans := [(0x200, (List.range 8).map (fun k => 7))] }; let j : Job := { id := 0, h := 1, q := 0, idx := 0, ents := [[1048583, 2, 0, 0, 512, 0, 768, 8, 256, 0, 768, 0, 0, 0, 0, 2147483648]] }; let s : State := { sOn with hs.ports := [(1, { st := .up, jobs := [{ id := 0, h := 1, q := 0, idx := 0, ents := [[1048583, 2, 0, 0, 512, 0, 768, 8, 256, 0, 768, 0, 0, 0, 0, 2147483648]] }], nextJob := 1 })], hs.wqs := [(objKey 20 1 0, { st := .active, priv := true, head := 1, tail := 1, order := [0] })], hs.cqs := [(objKey 20 1 0, { active := true })], hs.chans := [(objKey 24 1 2, { st := .active, peer := 5, peerCh := 3, inc := 6, check := 4, cached := true, used := 1, t0 := 4, limit := 4, relaxed := true })], hs.bar := [(hostKey 1 0 0x20008, 0x100104), (hostKey 1 0 0x40010, 4)], hs.mrCache := [(objKey 24 1 3, [0x9F, 0, 0, 0, 0x10000, 0, 0, 0, 0, 0, 0, 0, 0, 0, 0, 0])] }; let u : State := joinLine h ({ j with begun := true }) (updJob h j.id (fun k => { k with begun := true }) s); let w : State := (checkLocal h ({ j with begun := true }) .localRead (viewOf m s) u).2
    (hostUp s h = true) ∧ (freshJob s h q i 16 = some j) ∧ (j.ready = false) ∧ ((if j.chan = 0 then chanRefuses (updJob h j.id (fun k => { k with begun := true }) s) h ({ j with begun := true }) else none) = none) ∧ (u = joinLine h ({ j with begun := true }) (updJob h j.id (fun k => { k with begun := true }) s)) ∧ ((if Job.inl j then (.ok (), u) else checkLocal h ({ j with begun := true }) .localRead (viewOf m s) u) = (.ok (), w)) ∧ quiet s (runChan h (Job.chanNo j) (viewOf m s) (updJob h j.id (fun k => { k with ready := true, rndv := false }) (stopWait h (.job j.id) w))) = true := by decide +kernel

set_option maxRecDepth 100000 in
theorem wit_ChannelJobs_2 :
    let h : Nat := 1; let q : Nat := 0; let i : Word := 0; let m : HostView := {}; let j : Job := { id := 0, h := 1, q := 0, idx := 0, ents := [[1048583, 2, 0, 0, 512, 0, 768, 8, 256, 0, 768, 0, 0, 0, 0, 2147483648]] }; let s : State := { sOn with hs.ports := [(1, { st := .up, jobs := [{ id := 0, h := 1, q := 0, idx := 0, ents := [[1048583, 2, 0, 0, 512, 0, 768, 8, 256, 0, 768, 0, 0, 0, 0, 2147483648]] }], nextJob := 1 })], hs.wqs := [(objKey 20 1 0, { st := .active, priv := true, head := 1, tail := 1, order := [0] })], hs.cqs := [(objKey 20 1 0, { active := true })], hs.chans := [(objKey 24 1 2, { st := .active, peer := 5, peerCh := 3, inc := 6, check := 4, cached := true, used := 1, t0 := 4, limit := 4, relaxed := true })], hs.bar := [(hostKey 1 0 0x20008, 0x100104), (hostKey 1 0 0x40010, 4), (hostKey 1 0 0x40008, 0x9000)] }; let u : State := joinLine h ({ j with begun := true }) (updJob h j.id (fun k => { k with begun := true }) s); let w : State := (checkLocal h ({ j with begun := true }) .localRead (viewOf m s) u).2; let a : Acc Unit := (checkLocal h ({ j with begun := true }) .localRead (viewOf m s) u).1
    (hostUp s h = true) ∧ (freshJob s h q i 16 = some j) ∧ (j.ready = false) ∧ ((if j.chan = 0 then chanRefuses (updJob h j.id (fun k => { k with begun := true }) s) h ({ j with begun := true }) else none) = none) ∧ (u = joinLine h ({ j with begun := true }) (updJob h j.id (fun k => { k with begun := true }) s)) ∧ ((if Job.inl j then (.ok (), u) else checkLocal h ({ j with begun := true }) .localRead (viewOf m s) u) = (a, w)) ∧ (a ≠ .ok ()) ∧ quiet s (failAcc h ({ j with begun := true }) 0 a w) = true := by decide +kernel

set_option maxRecDepth 100000 in
theorem wit_ChannelJobs_3 :
    let h : Nat := 1; let q : Nat := 0; let i : Word := 0; let m : HostView := { spans := [(0x200, (List.range 8).map (fun k => 7))] }; let j : Job := { id := 0, h := 1, q := 0, idx := 0, ents := [[1114119, 2, 0, 0, 512, 0, 768, 8, 256, 0, 768, 0, 0, 0, 0, 2147483648]] }; let s : State := { sOn with hs.ports := [(1, { st := .up, jobs := [{ id := 0, h := 1, q := 0, idx := 0, ents := [[1114119, 2, 0, 0, 512, 0, 768, 8, 256, 0, 768, 0, 0, 0, 0, 2147483648]] }], nextJob := 1 })], hs.wqs := [(objKey 20 1 0, { st := .active, priv := true, head := 1, tail := 1, order := [0] })], hs.cqs := [(objKey 20 1 0, { active := true })], hs.chans := [(objKey 24 1 2, { st := .active, peer := 5, peerCh := 3, inc := 6, check := 4, cached := true, used := 1, t0 := 4, limit := 4, relaxed := true })], hs.bar := [(hostKey 1 0 0x20008, 0x100104), (hostKey 1 0 0x40010, 4)], hs.mrCache := [(objKey 24 1 3, [0x9F, 0, 0, 0, 0x10000, 0, 0, 0, 0, 0, 0, 0, 0, 0, 0, 0])] }; let u : State := joinLine h ({ j with begun := true }) (updJob h j.id (fun k => { k with begun := true }) s); let w : State := (checkLocal h ({ j with begun := true }) .localRead (viewOf m s) u).2
    (hostUp s h = true) ∧ (freshJob s h q i 17 = some j) ∧ (j.ready = false) ∧ ((if j.chan = 0 then chanRefuses (updJob h j.id (fun k => { k with begun := true }) s) h ({ j with begun := true }) else none) = none) ∧ (u = joinLine h ({ j with begun := true }) (updJob h j.id (fun k => { k with begun := true }) s)) ∧ ((if Job.inl j then (.ok (), u) else checkLocal h ({ j with begun := true }) .localRead (viewOf m s) u) = (.ok (), w)) ∧ quiet s (runChan h (Job.chanNo j) (viewOf m s) (updJob h j.id (fun k => { k with ready := true, rndv := false }) (stopWait h (.job j.id) w))) = true := by decide +kernel

set_option maxRecDepth 100000 in
theorem wit_ChannelJobs_4 :
    let h : Nat := 1; let q : Nat := 0; let i : Word := 0; let m : HostView := {}; let j : Job := { id := 0, h := 1, q := 0, idx := 0, ents := [[1114119, 2, 0, 0, 512, 0, 768, 8, 256, 0, 768, 0, 0, 0, 0, 2147483648]] }; let s : State := { sOn with hs.ports := [(1, { st := .up, jobs := [{ id := 0, h := 1, q := 0, idx := 0, ents := [[1114119, 2, 0, 0, 512, 0, 768, 8, 256, 0, 768, 0, 0, 0, 0, 2147483648]] }], nextJob := 1 })], hs.wqs := [(objKey 20 1 0, { st := .active, priv := true, head := 1, tail := 1, order := [0] })], hs.cqs := [(objKey 20 1 0, { active := true })], hs.chans := [(objKey 24 1 2, { st := .active, peer := 5, peerCh := 3, inc := 6, check := 4, cached := true, used := 1, t0 := 4, limit := 4, relaxed := true })], hs.bar := [(hostKey 1 0 0x20008, 0x100104), (hostKey 1 0 0x40010, 4), (hostKey 1 0 0x40008, 0x9000)] }; let u : State := joinLine h ({ j with begun := true }) (updJob h j.id (fun k => { k with begun := true }) s); let w : State := (checkLocal h ({ j with begun := true }) .localRead (viewOf m s) u).2; let a : Acc Unit := (checkLocal h ({ j with begun := true }) .localRead (viewOf m s) u).1
    (hostUp s h = true) ∧ (freshJob s h q i 17 = some j) ∧ (j.ready = false) ∧ ((if j.chan = 0 then chanRefuses (updJob h j.id (fun k => { k with begun := true }) s) h ({ j with begun := true }) else none) = none) ∧ (u = joinLine h ({ j with begun := true }) (updJob h j.id (fun k => { k with begun := true }) s)) ∧ ((if Job.inl j then (.ok (), u) else checkLocal h ({ j with begun := true }) .localRead (viewOf m s) u) = (a, w)) ∧ (a ≠ .ok ()) ∧ quiet s (failAcc h ({ j with begun := true }) 0 a w) = true := by decide +kernel

set_option maxRecDepth 100000 in
theorem wit_ChannelJobs_5 :
    let h : Nat := 1; let q : Nat := 0; let i : Word := 0; let m : HostView := { spans := [(0x200, (List.range 8).map (fun k => 7))] }; let j : Job := { id := 0, h := 1, q := 0, idx := 0, ents := [[1179655, 2, 0, 0, 512, 0, 768, 8, 256, 0, 768, 0, 0, 0, 0, 2147483648]] }; let s : State := { sOn with hs.ports := [(1, { st := .up, jobs := [{ id := 0, h := 1, q := 0, idx := 0, ents := [[1179655, 2, 0, 0, 512, 0, 768, 8, 256, 0, 768, 0, 0, 0, 0, 2147483648]] }], nextJob := 1 })], hs.wqs := [(objKey 20 1 0, { st := .active, priv := true, head := 1, tail := 1, order := [0] })], hs.cqs := [(objKey 20 1 0, { active := true })], hs.chans := [(objKey 24 1 2, { st := .active, peer := 5, peerCh := 3, inc := 6, check := 4, cached := true, used := 1, t0 := 4, limit := 4, relaxed := true })], hs.bar := [(hostKey 1 0 0x20008, 0x100104), (hostKey 1 0 0x40010, 4)], hs.mrCache := [(objKey 24 1 3, [0x9F, 0, 0, 0, 0x10000, 0, 0, 0, 0, 0, 0, 0, 0, 0, 0, 0])] }; let u : State := joinLine h ({ j with begun := true }) (updJob h j.id (fun k => { k with begun := true }) s); let w : State := (checkLocal h ({ j with begun := true }) .localWrite (viewOf m s) u).2
    (hostUp s h = true) ∧ (freshJob s h q i 18 = some j) ∧ (j.ready = false) ∧ ((if j.chan = 0 then chanRefuses (updJob h j.id (fun k => { k with begun := true }) s) h ({ j with begun := true }) else none) = none) ∧ (u = joinLine h ({ j with begun := true }) (updJob h j.id (fun k => { k with begun := true }) s)) ∧ (checkLocal h ({ j with begun := true }) .localWrite (viewOf m s) u = (.ok (), w)) ∧ quiet s (runChan h (Job.chanNo j) (viewOf m s) (updJob h j.id (fun k => { k with ready := true, rndv := false }) (stopWait h (.job j.id) w))) = true := by decide +kernel

set_option maxRecDepth 100000 in
theorem wit_ChannelJobs_6 :
    let h : Nat := 1; let q : Nat := 0; let i : Word := 0; let m : HostView := {}; let j : Job := { id := 0, h := 1, q := 0, idx := 0, ents := [[1179655, 2, 0, 0, 512, 0, 768, 8, 256, 0, 768, 0, 0, 0, 0, 2147483648]] }; let s : State := { sOn with hs.ports := [(1, { st := .up, jobs := [{ id := 0, h := 1, q := 0, idx := 0, ents := [[1179655, 2, 0, 0, 512, 0, 768, 8, 256, 0, 768, 0, 0, 0, 0, 2147483648]] }], nextJob := 1 })], hs.wqs := [(objKey 20 1 0, { st := .active, priv := true, head := 1, tail := 1, order := [0] })], hs.cqs := [(objKey 20 1 0, { active := true })], hs.chans := [(objKey 24 1 2, { st := .active, peer := 5, peerCh := 3, inc := 6, check := 4, cached := true, used := 1, t0 := 4, limit := 4, relaxed := true })], hs.bar := [(hostKey 1 0 0x20008, 0x100104), (hostKey 1 0 0x40010, 4), (hostKey 1 0 0x40008, 0x9000)] }; let u : State := joinLine h ({ j with begun := true }) (updJob h j.id (fun k => { k with begun := true }) s); let w : State := (checkLocal h ({ j with begun := true }) .localWrite (viewOf m s) u).2; let a : Acc Unit := (checkLocal h ({ j with begun := true }) .localWrite (viewOf m s) u).1
    (hostUp s h = true) ∧ (freshJob s h q i 18 = some j) ∧ (j.ready = false) ∧ ((if j.chan = 0 then chanRefuses (updJob h j.id (fun k => { k with begun := true }) s) h ({ j with begun := true }) else none) = none) ∧ (u = joinLine h ({ j with begun := true }) (updJob h j.id (fun k => { k with begun := true }) s)) ∧ (checkLocal h ({ j with begun := true }) .localWrite (viewOf m s) u = (a, w)) ∧ (a ≠ .ok ()) ∧ quiet s (failAcc h ({ j with begun := true }) 0 a w) = true := by decide +kernel

set_option maxRecDepth 100000 in
theorem wit_ChannelJobs_7 :
    let h : Nat := 1; let q : Nat := 0; let i : Word := 0; let m : HostView := { spans := [(0x200, (List.range 8).map (fun k => 7))] }; let j : Job := { id := 0, h := 1, q := 0, idx := 0, ents := [[1245191, 33554434, 0, 0, 512, 0, 768, 8, 256, 0, 768, 0, 0, 1, 0, 2147483648]] }; let s : State := { sOn with hs.ports := [(1, { st := .up, jobs := [{ id := 0, h := 1, q := 0, idx := 0, ents := [[1245191, 33554434, 0, 0, 512, 0, 768, 8, 256, 0, 768, 0, 0, 1, 0, 2147483648]] }], nextJob := 1 })], hs.wqs := [(objKey 20 1 0, { st := .active, priv := true, head := 1, tail := 1, order := [0] })], hs.cqs := [(objKey 20 1 0, { active := true })], hs.chans := [(objKey 24 1 2, { st := .active, peer := 5, peerCh := 3, inc := 6, check := 4, cached := true, used := 1, t0 := 4, limit := 4, relaxed := true })], hs.bar := [(hostKey 1 0 0x20008, 0x100104), (hostKey 1 0 0x40010, 4)], hs.mrCache := [(objKey 24 1 3, [0x9F, 0, 0, 0, 0x10000, 0, 0, 0, 0, 0, 0, 0, 0, 0, 0, 0])] }; let u : State := joinLine h ({ j with begun := true }) (updJob h j.id (fun k => { k with begun := true }) s); let w : State := (checkLocal h ({ j with begun := true }) .localWrite (viewOf m s) u).2
    (hostUp s h = true) ∧ (freshJob s h q i 19 = some j) ∧ (j.ready = false) ∧ ((if j.chan = 0 then chanRefuses (updJob h j.id (fun k => { k with begun := true }) s) h ({ j with begun := true }) else none) = none) ∧ (u = joinLine h ({ j with begun := true }) (updJob h j.id (fun k => { k with begun := true }) s)) ∧ (checkLocal h ({ j with begun := true }) .localWrite (viewOf m s) u = (.ok (), w)) ∧ quiet s (runChan h (Job.chanNo j) (viewOf m s) (updJob h j.id (fun k => { k with ready := true, rndv := false }) (stopWait h (.job j.id) w))) = true := by decide +kernel

set_option maxRecDepth 100000 in
theorem wit_ChannelJobs_8 :
    let h : Nat := 1; let q : Nat := 0; let i : Word := 0; let m : HostView := {}; let j : Job := { id := 0, h := 1, q := 0, idx := 0, ents := [[1245191, 33554434, 0, 0, 512, 0, 768, 8, 256, 0, 768, 0, 0, 1, 0, 2147483648]] }; let s : State := { sOn with hs.ports := [(1, { st := .up, jobs := [{ id := 0, h := 1, q := 0, idx := 0, ents := [[1245191, 33554434, 0, 0, 512, 0, 768, 8, 256, 0, 768, 0, 0, 1, 0, 2147483648]] }], nextJob := 1 })], hs.wqs := [(objKey 20 1 0, { st := .active, priv := true, head := 1, tail := 1, order := [0] })], hs.cqs := [(objKey 20 1 0, { active := true })], hs.chans := [(objKey 24 1 2, { st := .active, peer := 5, peerCh := 3, inc := 6, check := 4, cached := true, used := 1, t0 := 4, limit := 4, relaxed := true })], hs.bar := [(hostKey 1 0 0x20008, 0x100104), (hostKey 1 0 0x40010, 4), (hostKey 1 0 0x40008, 0x9000)] }; let u : State := joinLine h ({ j with begun := true }) (updJob h j.id (fun k => { k with begun := true }) s); let w : State := (checkLocal h ({ j with begun := true }) .localWrite (viewOf m s) u).2; let a : Acc Unit := (checkLocal h ({ j with begun := true }) .localWrite (viewOf m s) u).1
    (hostUp s h = true) ∧ (freshJob s h q i 19 = some j) ∧ (j.ready = false) ∧ ((if j.chan = 0 then chanRefuses (updJob h j.id (fun k => { k with begun := true }) s) h ({ j with begun := true }) else none) = none) ∧ (u = joinLine h ({ j with begun := true }) (updJob h j.id (fun k => { k with begun := true }) s)) ∧ (checkLocal h ({ j with begun := true }) .localWrite (viewOf m s) u = (a, w)) ∧ (a ≠ .ok ()) ∧ quiet s (failAcc h ({ j with begun := true }) 0 a w) = true := by decide +kernel

set_option maxRecDepth 100000 in
theorem wit_ChannelJobs_9 :
    let h : Nat := 1; let q : Nat := 0; let i : Word := 0; let m : HostView := {}; let j : Job := { id := 0, h := 1, q := 0, idx := 0, ents := [[1048583, 2, 0, 0, 0, 0, 0, 8, 0, 0, 0, 0, 0, 0, 0, 2147483648]] }; let d : Nat := 0; let s : State := { sOn with hs.ports := [(1, { st := .up, jobs := [{ id := 0, h := 1, q := 0, idx := 0, ents := [[1048583, 2, 0, 0, 0, 0, 0, 8, 0, 0, 0, 0, 0, 0, 0, 2147483648]] }], nextJob := 1 })], hs.wqs := [(objKey 20 1 0, { st := .active, priv := true, head := 1, tail := 1, order := [0] })], hs.cqs := [(objKey 20 1 0, { active := true })], hs.chans := [(objKey 24 1 2, { st := .error, peer := 5, peerCh := 3, inc := 6, check := 4, cached := true, used := 1, t0 := 4, limit := 4, relaxed := true })], hs.bar := [(hostKey 1 0 0x20008, 0x100104), (hostKey 1 0 0x40010, 4)], hs.mrCache := [(objKey 24 1 3, [0x9F, 0, 0, 0, 0x10000, 0, 0, 0, 0, 0, 0, 0, 0, 0, 0, 0])] }
    (hostUp s h = true) ∧ (freshJob s h q i 16 = some j) ∧ (j.ready = false) ∧ (j.chan = 0) ∧ (chanRefuses (updJob h j.id (fun k => { k with begun := true }) s) h ({ j with begun := true }) = some d) ∧ quiet s (finishJob h ({ j with begun := true }) 0x22 0 d (updJob h j.id (fun k => { k with begun := true }) s)) = true := by decide +kernel

set_option maxRecDepth 100000 in
theorem wit_ChannelJobs_10 :
    let h : Nat := 1; let q : Nat := 0; let i : Word := 0; let m : HostView := {}; let j : Job := { id := 0, h := 1, q := 0, idx := 0, ents := [[1114119, 3, 0, 0, 0, 0, 0, 8, 0, 0, 0, 0, 0, 0, 0, 2147483648]] }; let d : Nat := 1; let s : State := { sOn with hs.ports := [(1, { st := .up, jobs := [{ id := 0, h := 1, q := 0, idx := 0, ents := [[1114119, 3, 0, 0, 0, 0, 0, 8, 0, 0, 0, 0, 0, 0, 0, 2147483648]] }], nextJob := 1 })], hs.wqs := [(objKey 20 1 0, { st := .active, priv := true, head := 1, tail := 1, order := [0] })], hs.cqs := [(objKey 20 1 0, { active := true })], hs.chans := [(objKey 24 1 2, { st := .error, peer := 5, peerCh := 3, inc := 6, check := 4, cached := true, used := 1, t0 := 4, limit := 4, relaxed := true })], hs.bar := [(hostKey 1 0 0x20008, 0x100104), (hostKey 1 0 0x40010, 4)], hs.mrCache := [(objKey 24 1 3, [0x9F, 0, 0, 0, 0x10000, 0, 0, 0, 0, 0, 0, 0, 0, 0, 0, 0])] }
    (hostUp s h = true) ∧ (freshJob s h q i 17 = some j) ∧ (j.ready = false) ∧ (j.chan = 0) ∧ (chanRefuses (updJob h j.id (fun k => { k with begun := true }) s) h ({ j with begun := true }) = some d) ∧ quiet s (finishJob h ({ j with begun := true }) 0x22 0 d (updJob h j.id (fun k => { k with begun := true }) s)) = true := by decide +kernel

set_option maxRecDepth 100000 in
theorem wit_ChannelJobs_11 :
    let h : Nat := 1; let q : Nat := 0; let i : Word := 0; let m : HostView := {}; let j : Job := { id := 0, h := 1, q := 0, idx := 0, ents := [[1179655, 2, 0, 0, 0, 0, 0, 8, 0, 0, 0, 0, 0, 0, 0, 2147483648]] }; let d : Nat := 0; let s : State := { sOn with hs.ports := [(1, { st := .up, jobs := [{ id := 0, h := 1, q := 0, idx := 0, ents := [[1179655, 2, 0, 0, 0, 0, 0, 8, 0, 0, 0, 0, 0, 0, 0, 2147483648]] }], nextJob := 1 })], hs.wqs := [(objKey 20 1 0, { st := .active, priv := true, head := 1, tail := 1, order := [0] })], hs.cqs := [(objKey 20 1 0, { active := true })], hs.chans := [(objKey 24 1 2, { st := .error, peer := 5, peerCh := 3, inc := 6, check := 4, cached := true, used := 1, t0 := 4, limit := 4, relaxed := true })], hs.bar := [(hostKey 1 0 0x20008, 0x100104), (hostKey 1 0 0x40010, 4)], hs.mrCache := [(objKey 24 1 3, [0x9F, 0, 0, 0, 0x10000, 0, 0, 0, 0, 0, 0, 0, 0, 0, 0, 0])] }
    (hostUp s h = true) ∧ (freshJob s h q i 18 = some j) ∧ (j.ready = false) ∧ (j.chan = 0) ∧ (chanRefuses (updJob h j.id (fun k => { k with begun := true }) s) h ({ j with begun := true }) = some d) ∧ quiet s (finishJob h ({ j with begun := true }) 0x22 0 d (updJob h j.id (fun k => { k with begun := true }) s)) = true := by decide +kernel

set_option maxRecDepth 100000 in
theorem wit_ChannelJobs_12 :
    let h : Nat := 1; let q : Nat := 0; let i : Word := 0; let m : HostView := {}; let j : Job := { id := 0, h := 1, q := 0, idx := 0, ents := [[1245191, 3, 0, 0, 0, 0, 0, 8, 0, 0, 0, 0, 0, 0, 0, 2147483648]] }; let d : Nat := 1; let s : State := { sOn with hs.ports := [(1, { st := .up, jobs := [{ id := 0, h := 1, q := 0, idx := 0, ents := [[1245191, 3, 0, 0, 0, 0, 0, 8, 0, 0, 0, 0, 0, 0, 0, 2147483648]] }], nextJob := 1 })], hs.wqs := [(objKey 20 1 0, { st := .active, priv := true, head := 1, tail := 1, order := [0] })], hs.cqs := [(objKey 20 1 0, { active := true })], hs.chans := [(objKey 24 1 2, { st := .error, peer := 5, peerCh := 3, inc := 6, check := 4, cached := true, used := 1, t0 := 4, limit := 4, relaxed := true })], hs.bar := [(hostKey 1 0 0x20008, 0x100104), (hostKey 1 0 0x40010, 4)], hs.mrCache := [(objKey 24 1 3, [0x9F, 0, 0, 0, 0x10000, 0, 0, 0, 0, 0, 0, 0, 0, 0, 0, 0])] }
    (hostUp s h = true) ∧ (freshJob s h q i 19 = some j) ∧ (j.ready = false) ∧ (j.chan = 0) ∧ (chanRefuses (updJob h j.id (fun k => { k with begun := true }) s) h ({ j with begun := true }) = some d) ∧ quiet s (finishJob h ({ j with begun := true }) 0x22 0 d (updJob h j.id (fun k => { k with begun := true }) s)) = true := by decide +kernel

set_option maxRecDepth 100000 in
theorem wit_ChannelJobs_13 :
    let h : Nat := 1; let q : Nat := 0; let i : Word := 0; let m : HostView := { spans := [(40960, (wBytes [0x410, 5, 3, 6, 100, 200, 0, 4, 0, 0, 0, 0, 0, 0, 0, 0]).take 64)] }; let j : Job := { id := 0, h := 1, q := 0, idx := 0, ents := [[6815751, 0, 0, 0, 40960, 0, 0, 0, 0, 0, 0, 4, 0, 0, 0, 2147483648]] }; let c : Nat := 4; let d : List Word := [0x410, 5, 3, 6, 100, 200, 0, 4, 0, 0, 0, 0, 0, 0, 0, 0]; let s : State := { sOn with hs.ports := [(1, { st := .up, jobs := [{ id := 0, h := 1, q := 0, idx := 0, ents := [[6815751, 0, 0, 0, 40960, 0, 0, 0, 0, 0, 0, 4, 0, 0, 0, 2147483648]] }], nextJob := 1 })], hs.wqs := [(objKey 20 1 0, { st := .active, priv := true, head := 1, tail := 1, order := [0] })], hs.cqs := [(objKey 20 1 0, { active := true })], hs.chans := [(objKey 24 1 2, { st := .active, peer := 5, peerCh := 3, inc := 6, check := 4, cached := true, used := 1, t0 := 4, limit := 4, relaxed := true })], hs.bar := [(hostKey 1 0 0x20008, 0x100104), (hostKey 1 0 0x40010, 4)], hs.mrCache := [(objKey 24 1 3, [0x9F, 0, 0, 0, 0x10000, 0, 0, 0, 0, 0, 0, 0, 0, 0, 0, 0])] }
    (hostUp s h = true) ∧ (freshJob s h q i 104 = some j) ∧ (c = fAt (Job.op j) 11 0 24) ∧ (chanVoid (updJob h j.id (fun k => { k with begun := true }) s) h c = false) ∧ ((chanOf (updJob h j.id (fun k => { k with begun := true }) s) h c).st = .absent) ∧ (rdWords h (wqOf (updJob h j.id (fun k => { k with begun := true }) s) h j.q).fn (viewOf m s) (u64 (Job.op j) 4) 16 (updJob h j.id (fun k => { k with begun := true }) s) = (.ok d, (updJob h j.id (fun k => { k with begun := true }) s))) ∧ (mayActFor (wqOf (updJob h j.id (fun k => { k with begun := true }) s) h j.q) (fAt d 0 16 8) = true) ∧ (chanDescBad (updJob h j.id (fun k => { k with begun := true }) s) h d = false) ∧ quiet s (finishJob h ({ j with begun := true }) 0 0 0 (writeCtx h c (setChan h c { st := .active, unrel := bAt d 0 0, relaxed := bAt d 0 1, mode := BitVec.ofNat 2 (fAt d 0 2 2), limit := fAt d 0 4 4, check := fAt d 0 8 4, fn := fAt d 0 16 8, peer := BitVec.ofNat 18 (fAt d 1 0 18), peerCh := BitVec.ofNat 24 (fAt d 2 0 24), inc := BitVec.ofNat 16 (fAt d 3 0 16), pd := BitVec.ofNat 16 (fAt d 3 16 16), cq := fAt d 6 0 20, t0 := fAt d 7 0 16, txNext := wAt d 4, lastAck := wAt d 4, expect := wAt d 5 } (updJob h j.id (fun k => { k with begun := true }) s)))) = true := by decide +kernel

set_option maxRecDepth 100000 in
theorem wit_ChannelJobs_14 :
    let h : Nat := 1; let q : Nat := 0; let i : Word := 0; let m : HostView := { spans := [(40960, (wBytes [590864, 5, 3, 6, 100, 200, 0, 4, 0, 0, 0, 0, 0, 0, 0, 0]).take 64)] }; let j : Job := { id := 0, h := 1, q := 0, idx := 0, ents := [[6815751, 0, 0, 0, 40960, 0, 0, 0, 0, 0, 0, 4, 0, 0, 0, 2147483648]] }; let c : Nat := 4; let d : List Word := [590864, 5, 3, 6, 100, 200, 0, 4, 0, 0, 0, 0, 0, 0, 0, 0]; let s : State := { sOn with hs.ports := [(1, { st := .up, jobs := [{ id := 0, h := 1, q := 0, idx := 0, ents := [[6815751, 0, 0, 0, 40960, 0, 0, 0, 0, 0, 0, 4, 0, 0, 0, 2147483648]] }], nextJob := 1 })], hs.wqs := [(objKey 20 1 0, { st := .active, priv := false, head := 1, tail := 1, order := [0] })], hs.cqs := [(objKey 20 1 0, { active := true })], hs.chans := [(objKey 24 1 2, { st := .active, peer := 5, peerCh := 3, inc := 6, check := 4, cached := true, used := 1, t0 := 4, limit := 4, relaxed := true })], hs.bar := [(hostKey 1 0 0x20008, 0x100104), (hostKey 1 0 0x40010, 4)], hs.mrCache := [(objKey 24 1 3, [0x9F, 0, 0, 0, 0x10000, 0, 0, 0, 0, 0, 0, 0, 0, 0, 0, 0])] }
    (hostUp s h = true) ∧ (freshJob s h q i 104 = some j) ∧ (c = fAt (Job.op j) 11 0 24) ∧ (chanVoid (updJob h j.id (fun k => { k with begun := true }) s) h c = false) ∧ ((chanOf (updJob h j.id (fun k => { k with begun := true }) s) h c).st = .absent) ∧ (rdWords h (wqOf (updJob h j.id (fun k => { k with begun := true }) s) h j.q).fn (viewOf m s) (u64 (Job.op j) 4) 16 (updJob h j.id (fun k => { k with begun := true }) s) = (.ok d, (updJob h j.id (fun k => { k with begun := true }) s))) ∧ (mayActFor (wqOf (updJob h j.id (fun k => { k with begun := true }) s) h j.q) (fAt d 0 16 8) = false) ∧ quiet s (malformed h ({ j with begun := true }) 2 (updJob h j.id (fun k => { k with begun := true }) s)) = true := by decide +kernel

set_option maxRecDepth 100000 in
theorem wit_ChannelJobs_15 :
    let h : Nat := 1; let q : Nat := 0; let i : Word := 0; let m : HostView := { spans := [(40960, (wBytes [1040, 5, 3, 6, 100, 200, 0, 0, 0, 0, 0, 0, 0, 0, 0, 0]).take 64)] }; let j : Job := { id := 0, h := 1, q := 0, idx := 0, ents := [[6815751, 0, 0, 0, 40960, 0, 0, 0, 0, 0, 0, 4, 0, 0, 0, 2147483648]] }; let c : Nat := 4; let d : List Word := [1040, 5, 3, 6, 100, 200, 0, 0, 0, 0, 0, 0, 0, 0, 0, 0]; let s : State := { sOn with hs.ports := [(1, { st := .up, jobs := [{ id := 0, h := 1, q := 0, idx := 0, ents := [[6815751, 0, 0, 0, 40960, 0, 0, 0, 0, 0, 0, 4, 0, 0, 0, 2147483648]] }], nextJob := 1 })], hs.wqs := [(objKey 20 1 0, { st := .active, priv := true, head := 1, tail := 1, order := [0] })], hs.cqs := [(objKey 20 1 0, { active := true })], hs.chans := [(objKey 24 1 2, { st := .active, peer := 5, peerCh := 3, inc := 6, check := 4, cached := true, used := 1, t0 := 4, limit := 4, relaxed := true })], hs.bar := [(hostKey 1 0 0x20008, 0x100104), (hostKey 1 0 0x40010, 4)], hs.mrCache := [(objKey 24 1 3, [0x9F, 0, 0, 0, 0x10000, 0, 0, 0, 0, 0, 0, 0, 0, 0, 0, 0])] }
    (hostUp s h = true) ∧ (freshJob s h q i 104 = some j) ∧ (c = fAt (Job.op j) 11 0 24) ∧ (chanVoid (updJob h j.id (fun k => { k with begun := true }) s) h c = false) ∧ ((chanOf (updJob h j.id (fun k => { k with begun := true }) s) h c).st = .absent) ∧ (rdWords h (wqOf (updJob h j.id (fun k => { k with begun := true }) s) h j.q).fn (viewOf m s) (u64 (Job.op j) 4) 16 (updJob h j.id (fun k => { k with begun := true }) s) = (.ok d, (updJob h j.id (fun k => { k with begun := true }) s))) ∧ (mayActFor (wqOf (updJob h j.id (fun k => { k with begun := true }) s) h j.q) (fAt d 0 16 8) = true) ∧ (chanDescBad (updJob h j.id (fun k => { k with begun := true }) s) h d = true) ∧ quiet s (malformed h ({ j with begun := true }) 8 (updJob h j.id (fun k => { k with begun := true }) s)) = true := by decide +kernel

set_option maxRecDepth 100000 in
theorem wit_ChannelJobs_16 :
    let h : Nat := 1; let q : Nat := 0; let i : Word := 0; let m : HostView := { bad := [(0xA000, 64)] }; let j : Job := { id := 0, h := 1, q := 0, idx := 0, ents := [[6815751, 0, 0, 0, 40960, 0, 0, 0, 0, 0, 0, 4, 0, 0, 0, 2147483648]] }; let c : Nat := 4; let a : Acc (List Word) := .err; let s : State := { sOn with hs.ports := [(1, { st := .up, jobs := [{ id := 0, h := 1, q := 0, idx := 0, ents := [[6815751, 0, 0, 0, 40960, 0, 0, 0, 0, 0, 0, 4, 0, 0, 0, 2147483648]] }], nextJob := 1 })], hs.wqs := [(objKey 20 1 0, { st := .active, priv := true, head := 1, tail := 1, order := [0] })], hs.cqs := [(objKey 20 1 0, { active := true })], hs.chans := [(objKey 24 1 2, { st := .active, peer := 5, peerCh := 3, inc := 6, check := 4, cached := true, used := 1, t0 := 4, limit := 4, relaxed := true })], hs.bar := [(hostKey 1 0 0x20008, 0x100104), (hostKey 1 0 0x40010, 4)], hs.mrCache := [(objKey 24 1 3, [0x9F, 0, 0, 0, 0x10000, 0, 0, 0, 0, 0, 0, 0, 0, 0, 0, 0])] }; let w : State := (rdWords h (wqOf (updJob h j.id (fun k => { k with begun := true }) s) h j.q).fn (viewOf m s) (u64 (Job.op j) 4) 16 (updJob h j.id (fun k => { k with begun := true }) s)).2
    (hostUp s h = true) ∧ (freshJob s h q i 104 = some j) ∧ (c = fAt (Job.op j) 11 0 24) ∧ (chanVoid (updJob h j.id (fun k => { k with begun := true }) s) h c = false) ∧ ((chanOf (updJob h j.id (fun k => { k with begun := true }) s) h c).st = .absent) ∧ (rdWords h (wqOf (updJob h j.id (fun k => { k with begun := true }) s) h j.q).fn (viewOf m s) (u64 (Job.op j) 4) 16 (updJob h j.id (fun k => { k with begun := true }) s) = (a, w)) ∧ ((match a with | .ok _ => false | _ => true) = true) ∧ quiet s (failAcc h ({ j with begun := true }) 0 a w) = true := by decide +kernel

set_option maxRecDepth 100000 in
theorem wit_ChannelJobs_17 :
    let h : Nat := 1; let q : Nat := 0; let i : Word := 0; let m : HostView := {}; let j : Job := { id := 0, h := 1, q := 0, idx := 0, ents := [[6815751, 0, 0, 0, 40960, 0, 0, 0, 0, 0, 0, 0, 0, 0, 0, 2147483648]] }; let c : Nat := 0; let s : State := { sOn with hs.ports := [(1, { st := .up, jobs := [{ id := 0, h := 1, q := 0, idx := 0, ents := [[6815751, 0, 0, 0, 40960, 0, 0, 0, 0, 0, 0, 0, 0, 0, 0, 2147483648]] }], nextJob := 1 })], hs.wqs := [(objKey 20 1 0, { st := .active, priv := true, head := 1, tail := 1, order := [0] })], hs.cqs := [(objKey 20 1 0, { active := true })], hs.chans := [(objKey 24 1 2, { st := .active, peer := 5, peerCh := 3, inc := 6, check := 4, cached := true, used := 1, t0 := 4, limit := 4, relaxed := true })], hs.bar := [(hostKey 1 0 0x20008, 0x100104), (hostKey 1 0 0x40010, 4)], hs.mrCache := [(objKey 24 1 3, [0x9F, 0, 0, 0, 0x10000, 0, 0, 0, 0, 0, 0, 0, 0, 0, 0, 0])] }
    (hostUp s h = true) ∧ (freshJob s h q i 104 = some j) ∧ (c = fAt (Job.op j) 11 0 24) ∧ (chanVoid (updJob h j.id (fun k => { k with begun := true }) s) h c = true) ∧ quiet s (malformed h ({ j with begun := true }) 10 (updJob h j.id (fun k => { k with begun := true }) s)) = true := by decide +kernel

set_option maxRecDepth 100000 in
theorem wit_ChannelJobs_18 :
    let h : Nat := 1; let q : Nat := 0; let i : Word := 0; let m : HostView := {}; let j : Job := { id := 0, h := 1, q := 0, idx := 0, ents := [[6815751, 0, 0, 0, 40960, 0, 0, 0, 0, 0, 0, 2, 0, 0, 0, 2147483648]] }; let c : Nat := 2; let s : State := { sOn with hs.ports := [(1, { st := .up, jobs := [{ id := 0, h := 1, q := 0, idx := 0, ents := [[6815751, 0, 0, 0, 40960, 0, 0, 0, 0, 0, 0, 2, 0, 0, 0, 2147483648]] }], nextJob := 1 })], hs.wqs := [(objKey 20 1 0, { st := .active, priv := true, head := 1, tail := 1, order := [0] })], hs.cqs := [(objKey 20 1 0, { active := true })], hs.chans := [(objKey 24 1 2, { st := .active, peer := 5, peerCh := 3, inc := 6, check := 4, cached := true, used := 1, t0 := 4, limit := 4, relaxed := true })], hs.bar := [(hostKey 1 0 0x20008, 0x100104), (hostKey 1 0 0x40010, 4)], hs.mrCache := [(objKey 24 1 3, [0x9F, 0, 0, 0, 0x10000, 0, 0, 0, 0, 0, 0, 0, 0, 0, 0, 0])] }
    (hostUp s h = true) ∧ (freshJob s h q i 104 = some j) ∧ (c = fAt (Job.op j) 11 0 24) ∧ (chanVoid (updJob h j.id (fun k => { k with begun := true }) s) h c = false) ∧ ((chanOf (updJob h j.id (fun k => { k with begun := true }) s) h c).st ≠ .absent) ∧ quiet s (malformed h ({ j with begun := true }) 9 (updJob h j.id (fun k => { k with begun := true }) s)) = true := by decide +kernel

set_option maxRecDepth 100000 in
theorem wit_ChannelJobs_19 :
    let h : Nat := 1; let q : Nat := 0; let i : Word := 0; let j : Job := { id := 0, h := 1, q := 0, idx := 0, ents := [[6881287, 16777216, 0, 0, 0, 0, 0, 0, 0, 0, 0, 2, 7, 50, 60, 2147483648]] }; let c : Nat := 2; let s : State := { sOn with hs.ports := [(1, { st := .up, jobs := [{ id := 0, h := 1, q := 0, idx := 0, ents := [[6881287, 16777216, 0, 0, 0, 0, 0, 0, 0, 0, 0, 2, 7, 50, 60, 2147483648]] }], nextJob := 1 })], hs.wqs := [(objKey 20 1 0, { st := .active, priv := true, head := 1, tail := 1, order := [0] })], hs.cqs := [(objKey 20 1 0, { active := true })], hs.chans := [(objKey 24 1 2, { st := .error, peer := 5, peerCh := 3, inc := 6, check := 4, cached := true, used := 1, t0 := 4, limit := 4, relaxed := true })], hs.bar := [(hostKey 1 0 0x20008, 0x100104), (hostKey 1 0 0x40010, 4)], hs.mrCache := [(objKey 24 1 3, [0x9F, 0, 0, 0, 0x10000, 0, 0, 0, 0, 0, 0, 0, 0, 0, 0, 0])] }
    (hostUp s h = true) ∧ (freshJob s h q i 105 = some j) ∧ (c = fAt (Job.op j) 11 0 24) ∧ (c ≠ 0) ∧ ((chanOf (updJob h j.id (fun k => { k with begun := true }) s) h c).st = .active ∨ (chanOf (updJob h j.id (fun k => { k with begun := true }) s) h c).st = .error) ∧ (mayActFor (wqOf (updJob h j.id (fun k => { k with begun := true }) s) h j.q) (chanOf (updJob h j.id (fun k => { k with begun := true }) s) h c).fn = true) ∧ (fAt (Job.op j) 12 0 16 ≠ (chanOf (updJob h j.id (fun k => { k with begun := true }) s) h c).inc.toNat) ∧ quiet s (finishJob h ({ j with begun := true }) 0 0 0 (updChan h c (fun x => { x with st := .active, cause := 0, inc := BitVec.ofNat 16 (fAt (Job.op j) 12 0 16), txNext := wAt (Job.op j) 13, lastAck := wAt (Job.op j) 13, txMsn := 0, expect := wAt (Job.op j) 14, bitmap := 0, window := false, rxMsn := 0, lasts := [], parked := [], busy := [], atomics := [], refused := none, olds := [], ackN := 0, ackTimer := false, sums := [], late := [], msgs := [], backoff := 0 }) (stopChanWaits h c (failJobs h c none 0x22 0x22 0 (updJob h j.id (fun k => { k with begun := true }) s))))) = true := by decide +kernel

set_option maxRecDepth 100000 in
theorem wit_ChannelJobs_20 :
    let h : Nat := 1; let q : Nat := 0; let i : Word := 0; let j : Job := { id := 0, h := 1, q := 0, idx := 0, ents := [[6881287, 16777216, 0, 0, 0, 0, 0, 0, 0, 0, 0, 2, 6, 0, 0, 2147483648]] }; let c : Nat := 2; let s : State := { sOn with hs.ports := [(1, { st := .up, jobs := [{ id := 0, h := 1, q := 0, idx := 0, ents := [[6881287, 16777216, 0, 0, 0, 0, 0, 0, 0, 0, 0, 2, 6, 0, 0, 2147483648]] }], nextJob := 1 })], hs.wqs := [(objKey 20 1 0, { st := .active, priv := true, head := 1, tail := 1, order := [0] })], hs.cqs := [(objKey 20 1 0, { active := true })], hs.chans := [(objKey 24 1 2, { st := .active, peer := 5, peerCh := 3, inc := 6, check := 4, cached := true, used := 1, t0 := 4, limit := 4, relaxed := true })], hs.bar := [(hostKey 1 0 0x20008, 0x100104), (hostKey 1 0 0x40010, 4)], hs.mrCache := [(objKey 24 1 3, [0x9F, 0, 0, 0, 0x10000, 0, 0, 0, 0, 0, 0, 0, 0, 0, 0, 0])] }
    (hostUp s h = true) ∧ (freshJob s h q i 105 = some j) ∧ (c = fAt (Job.op j) 11 0 24) ∧ (c ≠ 0) ∧ ((chanOf (updJob h j.id (fun k => { k with begun := true }) s) h c).st = .active ∨ (chanOf (updJob h j.id (fun k => { k with begun := true }) s) h c).st = .error) ∧ (mayActFor (wqOf (updJob h j.id (fun k => { k with begun := true }) s) h j.q) (chanOf (updJob h j.id (fun k => { k with begun := true }) s) h c).fn = true) ∧ (fAt (Job.op j) 12 0 16 = (chanOf (updJob h j.id (fun k => { k with begun := true }) s) h c).inc.toNat) ∧ quiet s (malformed h ({ j with begun := true }) 8 (updJob h j.id (fun k => { k with begun := true }) s)) = true := by decide +kernel

set_option maxRecDepth 100000 in
theorem wit_ChannelJobs_21 :
    let h : Nat := 1; let q : Nat := 0; let i : Word := 0; let j : Job := { id := 0, h := 1, q := 0, idx := 0, ents := [[6946823, 0, 0, 0, 0, 0, 0, 0, 0, 0, 0, 2, 0, 0, 0, 2147483648]] }; let c : Nat := 2; let s : State := { sOn with hs.ports := [(1, { st := .up, jobs := [{ id := 0, h := 1, q := 0, idx := 0, ents := [[6946823, 0, 0, 0, 0, 0, 0, 0, 0, 0, 0, 2, 0, 0, 0, 2147483648]] }, { id := 1, h := 1, q := 0, idx := 1, ents := [[1048583, 2, 0, 0, 0, 0, 0, 8, 256, 0, 0, 0, 0, 0, 0, 2147483648]], begun := true, ready := true, chan := 2 }], nextJob := 1 })], hs.wqs := [(objKey 20 1 0, { st := .active, priv := true, head := 1, tail := 1, order := [0] })], hs.cqs := [(objKey 20 1 0, { active := true })], hs.chans := [(objKey 24 1 2, { st := .active, peer := 5, peerCh := 3, inc := 6, check := 4, cached := true, used := 1, t0 := 4, limit := 4, relaxed := true, line := [.job 1], unacked := [{ pkt := { dest := 5, src := 1, cls := 0, lenCells := 2, ptype := 1 } }] })], hs.bar := [(hostKey 1 0 0x20008, 0x100104), (hostKey 1 0 0x40010, 4)], hs.mrCache := [(objKey 24 1 3, [0x9F, 0, 0, 0, 0x10000, 0, 0, 0, 0, 0, 0, 0, 0, 0, 0, 0])] }; let x : Chan := chanOf (updJob h j.id (fun k => { k with begun := true }) s) h c; let js : List Job := (hport (updJob h j.id (fun k => { k with begun := true }) s) h).jobs.filter (fun k => k.chan == c && (k.sent == 0 || (k.rndv && k.left == 0))); let fs : List Fetch := x.fetches.filter (fun f => !f.sent)
    (hostUp s h = true) ∧ (freshJob s h q i 106 = some j) ∧ (c = fAt (Job.op j) 11 0 24) ∧ (c ≠ 0) ∧ ((chanOf (updJob h j.id (fun k => { k with begun := true }) s) h c).st = .active ∨ (chanOf (updJob h j.id (fun k => { k with begun := true }) s) h c).st = .error) ∧ (mayActFor (wqOf (updJob h j.id (fun k => { k with begun := true }) s) h j.q) (chanOf (updJob h j.id (fun k => { k with begun := true }) s) h c).fn = true) ∧ (x = chanOf (updJob h j.id (fun k => { k with begun := true }) s) h c) ∧ (js = (hport (updJob h j.id (fun k => { k with begun := true }) s) h).jobs.filter (fun k => k.chan == c && (k.sent == 0 || (k.rndv && k.left == 0)))) ∧ (fs = x.fetches.filter (fun f => !f.sent)) ∧ quiet s (fs.foldl (fun s f => mtcCause h 5 (failRecv h f.job 0x22 0 0 (fetchFlags f) s)) (js.foldl (fun s k => finishJob h k 0x22 k.acked 0 s) (setChan h c { x with st := .draining, destroy := some j.id, fetches := x.fetches.filter (fun f => f.sent), toSend := x.toSend.filter (fun u => !(u.job.any (fun i => js.any (fun k => k.id == i)) || u.fetch.any (fun o => fs.any (fun f => f.orig == o)))), line := x.line.filter (fun t => !(match t with | .job i => (js.any (fun k => k.id == i)) | .fetch o => (fs.any (fun f => f.orig == o)) | .done _ => false)) } (updJob h j.id (fun k => { k with begun := true }) s)))) = true := by decide +kernel

set_option maxRecDepth 100000 in
theorem wit_ChannelJobs_22 :
    let h : Nat := 1; let q : Nat := 0; let i : Word := 0; let j : Job := { id := 0, h := 1, q := 0, idx := 0, ents := [[7012359, 0, 0, 0, 40960, 0, 0, 0, 0, 0, 0, 2, 0, 0, 0, 2147483648]] }; let c : Nat := 2; let s : State := { sOn with hs.ports := [(1, { st := .up, jobs := [{ id := 0, h := 1, q := 0, idx := 0, ents := [[7012359, 0, 0, 0, 40960, 0, 0, 0, 0, 0, 0, 2, 0, 0, 0, 2147483648]] }], nextJob := 1 })], hs.wqs := [(objKey 20 1 0, { st := .active, priv := true, head := 1, tail := 1, order := [0] })], hs.cqs := [(objKey 20 1 0, { active := true })], hs.chans := [(objKey 24 1 2, { st := .active, peer := 5, peerCh := 3, inc := 6, check := 4, cached := true, used := 1, t0 := 4, limit := 4, relaxed := true })], hs.bar := [(hostKey 1 0 0x20008, 0x100104), (hostKey 1 0 0x40010, 4)], hs.mrCache := [(objKey 24 1 3, [0x9F, 0, 0, 0, 0x10000, 0, 0, 0, 0, 0, 0, 0, 0, 0, 0, 0])] }
    (hostUp s h = true) ∧ (freshJob s h q i 107 = some j) ∧ (c = fAt (Job.op j) 11 0 24) ∧ (u64 (Job.op j) 4 % 64 = 0) ∧ ((chanOf (updJob h j.id (fun k => { k with begun := true }) s) h c).st ≠ .absent) ∧ (mayActFor (wqOf (updJob h j.id (fun k => { k with begun := true }) s) h j.q) (chanOf (updJob h j.id (fun k => { k with begun := true }) s) h c).fn = true) ∧ quiet s (finishJob h ({ j with begun := true }) 0 64 0 (hostWr h (wqOf (updJob h j.id (fun k => { k with begun := true }) s) h j.q).fn (u64 (Job.op j) 4) (wBytes (chanSummary (updJob h j.id (fun k => { k with begun := true }) s) h c)) true (updJob h j.id (fun k => { k with begun := true }) s))) = true := by decide +kernel

set_option maxRecDepth 100000 in
theorem wit_ChannelJobs_23 :
    let h : Nat := 1; let q : Nat := 0; let i : Word := 0; let j : Job := { id := 0, h := 1, q := 0, idx := 0, ents := [[7012359, 0, 0, 0, 40960, 0, 0, 0, 0, 0, 0, 3, 0, 0, 0, 2147483648]] }; let c : Nat := 3; let s : State := { sOn with hs.ports := [(1, { st := .up, jobs := [{ id := 0, h := 1, q := 0, idx := 0, ents := [[7012359, 0, 0, 0, 40960, 0, 0, 0, 0, 0, 0, 3, 0, 0, 0, 2147483648]] }], nextJob := 1 })], hs.wqs := [(objKey 20 1 0, { st := .active, priv := true, head := 1, tail := 1, order := [0] })], hs.cqs := [(objKey 20 1 0, { active := true })], hs.chans := [(objKey 24 1 2, { st := .active, peer := 5, peerCh := 3, inc := 6, check := 4, cached := true, used := 1, t0 := 4, limit := 4, relaxed := true })], hs.bar := [(hostKey 1 0 0x20008, 0x100104), (hostKey 1 0 0x40010, 4)], hs.mrCache := [(objKey 24 1 3, [0x9F, 0, 0, 0, 0x10000, 0, 0, 0, 0, 0, 0, 0, 0, 0, 0, 0])] }
    (hostUp s h = true) ∧ (freshJob s h q i 107 = some j) ∧ (c = fAt (Job.op j) 11 0 24) ∧ (u64 (Job.op j) 4 % 64 = 0) ∧ ((chanOf (updJob h j.id (fun k => { k with begun := true }) s) h c).st = .absent) ∧ quiet s (finishJob h ({ j with begun := true }) 0 64 0 (hostWr h (wqOf (updJob h j.id (fun k => { k with begun := true }) s) h j.q).fn (u64 (Job.op j) 4) (wBytes (List.replicate 16 0)) true (updJob h j.id (fun k => { k with begun := true }) s))) = true := by decide +kernel

set_option maxRecDepth 100000 in
theorem wit_ChannelJobs_24 :
    let h : Nat := 1; let q : Nat := 0; let i : Word := 0; let j : Job := { id := 0, h := 1, q := 0, idx := 0, ents := [[7012359, 0, 0, 0, 40964, 0, 0, 0, 0, 0, 0, 2, 0, 0, 0, 2147483648]] }; let s : State := { sOn with hs.ports := [(1, { st := .up, jobs := [{ id := 0, h := 1, q := 0, idx := 0, ents := [[7012359, 0, 0, 0, 40964, 0, 0, 0, 0, 0, 0, 2, 0, 0, 0, 2147483648]] }], nextJob := 1 })], hs.wqs := [(objKey 20 1 0, { st := .active, priv := true, head := 1, tail := 1, order := [0] })], hs.cqs := [(objKey 20 1 0, { active := true })], hs.chans := [(objKey 24 1 2, { st := .active, peer := 5, peerCh := 3, inc := 6, check := 4, cached := true, used := 1, t0 := 4, limit := 4, relaxed := true })], hs.bar := [(hostKey 1 0 0x20008, 0x100104), (hostKey 1 0 0x40010, 4)], hs.mrCache := [(objKey 24 1 3, [0x9F, 0, 0, 0, 0x10000, 0, 0, 0, 0, 0, 0, 0, 0, 0, 0, 0])] }
    (hostUp s h = true) ∧ (freshJob s h q i 107 = some j) ∧ (u64 (Job.op j) 4 % 64 ≠ 0) ∧ quiet s (malformed h ({ j with begun := true }) 8 (updJob h j.id (fun k => { k with begun := true }) s)) = true := by decide +kernel

set_option maxRecDepth 100000 in
theorem wit_ChannelJobs_25 :
    let h : Nat := 1; let q : Nat := 0; let i : Word := 0; let j : Job := { id := 0, h := 1, q := 0, idx := 0, ents := [[6881287, 16777216, 0, 0, 0, 0, 0, 0, 0, 0, 0, 3, 7, 0, 0, 2147483648]] }; let c : Nat := 3; let s : State := { sOn with hs.ports := [(1, { st := .up, jobs := [{ id := 0, h := 1, q := 0, idx := 0, ents := [[6881287, 16777216, 0, 0, 0, 0, 0, 0, 0, 0, 0, 3, 7, 0, 0, 2147483648]] }], nextJob := 1 })], hs.wqs := [(objKey 20 1 0, { st := .active, priv := true, head := 1, tail := 1, order := [0] })], hs.cqs := [(objKey 20 1 0, { active := true })], hs.chans := [(objKey 24 1 2, { st := .active, peer := 5, peerCh := 3, inc := 6, check := 4, cached := true, used := 1, t0 := 4, limit := 4, relaxed := true })], hs.bar := [(hostKey 1 0 0x20008, 0x100104), (hostKey 1 0 0x40010, 4)], hs.mrCache := [(objKey 24 1 3, [0x9F, 0, 0, 0, 0x10000, 0, 0, 0, 0, 0, 0, 0, 0, 0, 0, 0])] }
    (hostUp s h = true) ∧ (freshJob s h q i 105 = some j) ∧ (c = fAt (Job.op j) 11 0 24) ∧ (c = 0 ∨ (chanOf (updJob h j.id (fun k => { k with begun := true }) s) h c).st = .absent) ∧ quiet s (malformed h ({ j with begun := true }) 10 (updJob h j.id (fun k => { k with begun := true }) s)) = true := by decide +kernel

set_option maxRecDepth 100000 in
theorem wit_ChannelJobs_26 :
    let h : Nat := 1; let q : Nat := 0; let i : Word := 0; let j : Job := { id := 0, h := 1, q := 0, idx := 0, ents := [[6881287, 16777216, 0, 0, 0, 0, 0, 0, 0, 0, 0, 2, 7, 0, 0, 2147483648]] }; let c : Nat := 2; let s : State := { sOn with hs.ports := [(1, { st := .up, jobs := [{ id := 0, h := 1, q := 0, idx := 0, ents := [[6881287, 16777216, 0, 0, 0, 0, 0, 0, 0, 0, 0, 2, 7, 0, 0, 2147483648]] }], nextJob := 1 })], hs.wqs := [(objKey 20 1 0, { st := .active, priv := true, head := 1, tail := 1, order := [0] })], hs.cqs := [(objKey 20 1 0, { active := true })], hs.chans := [(objKey 24 1 2, { st := .draining, peer := 5, peerCh := 3, inc := 6, check := 4, cached := true, used := 1, t0 := 4, limit := 4, relaxed := true, unacked := [{ pkt := { dest := 5, src := 1, cls := 0, lenCells := 2, ptype := 1 } }] })], hs.bar := [(hostKey 1 0 0x20008, 0x100104), (hostKey 1 0 0x40010, 4)], hs.mrCache := [(objKey 24 1 3, [0x9F, 0, 0, 0, 0x10000, 0, 0, 0, 0, 0, 0, 0, 0, 0, 0, 0])] }
    (hostUp s h = true) ∧ (freshJob s h q i 105 = some j) ∧ (c = fAt (Job.op j) 11 0 24) ∧ (c ≠ 0) ∧ ((chanOf (updJob h j.id (fun k => { k with begun := true }) s) h c).st = .draining) ∧ (mayActFor (wqOf (updJob h j.id (fun k => { k with begun := true }) s) h j.q) (chanOf (updJob h j.id (fun k => { k with begun := true }) s) h c).fn = true) ∧ quiet s (malformed h ({ j with begun := true }) 9 (updJob h j.id (fun k => { k with begun := true }) s)) = true := by decide +kernel

set_option maxRecDepth 100000 in
theorem wit_ChannelJobs_27 :
    let h : Nat := 1; let q : Nat := 0; let i : Word := 0; let j : Job := { id := 0, h := 1, q := 0, idx := 0, ents := [[6946823, 0, 0, 0, 0, 0, 0, 0, 0, 0, 0, 3, 0, 0, 0, 2147483648]] }; let c : Nat := 3; let s : State := { sOn with hs.ports := [(1, { st := .up, jobs := [{ id := 0, h := 1, q := 0, idx := 0, ents := [[6946823, 0, 0, 0, 0, 0, 0, 0, 0, 0, 0, 3, 0, 0, 0, 2147483648]] }], nextJob := 1 })], hs.wqs := [(objKey 20 1 0, { st := .active, priv := true, head := 1, tail := 1, order := [0] })], hs.cqs := [(objKey 20 1 0, { active := true })], hs.chans := [(objKey 24 1 2, { st := .active, peer := 5, peerCh := 3, inc := 6, check := 4, cached := true, used := 1, t0 := 4, limit := 4, relaxed := true })], hs.bar := [(hostKey 1 0 0x20008, 0x100104), (hostKey 1 0 0x40010, 4)], hs.mrCache := [(objKey 24 1 3, [0x9F, 0, 0, 0, 0x10000, 0, 0, 0, 0, 0, 0, 0, 0, 0, 0, 0])] }
    (hostUp s h = true) ∧ (freshJob s h q i 106 = some j) ∧ (c = fAt (Job.op j) 11 0 24) ∧ (c = 0 ∨ (chanOf (updJob h j.id (fun k => { k with begun := true }) s) h c).st = .absent) ∧ quiet s (malformed h ({ j with begun := true }) 10 (updJob h j.id (fun k => { k with begun := true }) s)) = true := by decide +kernel

set_option maxRecDepth 100000 in
theorem wit_ChannelJobs_28 :
    let h : Nat := 1; let q : Nat := 0; let i : Word := 0; let j : Job := { id := 0, h := 1, q := 0, idx := 0, ents := [[6946823, 0, 0, 0, 0, 0, 0, 0, 0, 0, 0, 2, 0, 0, 0, 2147483648]] }; let c : Nat := 2; let s : State := { sOn with hs.ports := [(1, { st := .up, jobs := [{ id := 0, h := 1, q := 0, idx := 0, ents := [[6946823, 0, 0, 0, 0, 0, 0, 0, 0, 0, 0, 2, 0, 0, 0, 2147483648]] }], nextJob := 1 })], hs.wqs := [(objKey 20 1 0, { st := .active, priv := true, head := 1, tail := 1, order := [0] })], hs.cqs := [(objKey 20 1 0, { active := true })], hs.chans := [(objKey 24 1 2, { st := .draining, peer := 5, peerCh := 3, inc := 6, check := 4, cached := true, used := 1, t0 := 4, limit := 4, relaxed := true, unacked := [{ pkt := { dest := 5, src := 1, cls := 0, lenCells := 2, ptype := 1 } }] })], hs.bar := [(hostKey 1 0 0x20008, 0x100104), (hostKey 1 0 0x40010, 4)], hs.mrCache := [(objKey 24 1 3, [0x9F, 0, 0, 0, 0x10000, 0, 0, 0, 0, 0, 0, 0, 0, 0, 0, 0])] }
    (hostUp s h = true) ∧ (freshJob s h q i 106 = some j) ∧ (c = fAt (Job.op j) 11 0 24) ∧ (c ≠ 0) ∧ ((chanOf (updJob h j.id (fun k => { k with begun := true }) s) h c).st = .draining) ∧ (mayActFor (wqOf (updJob h j.id (fun k => { k with begun := true }) s) h j.q) (chanOf (updJob h j.id (fun k => { k with begun := true }) s) h c).fn = true) ∧ quiet s (malformed h ({ j with begun := true }) 9 (updJob h j.id (fun k => { k with begun := true }) s)) = true := by decide +kernel

set_option maxRecDepth 100000 in
theorem wit_ChannelJobs_29 :
    let h : Nat := 1; let q : Nat := 0; let i : Word := 0; let j : Job := { id := 0, h := 1, q := 0, idx := 0, ents := [[6881287, 16777216, 0, 0, 0, 0, 0, 0, 0, 0, 0, 2, 7, 0, 0, 2147483648]] }; let c : Nat := 2; let s : State := { sOn with hs.ports := [(1, { st := .up, jobs := [{ id := 0, h := 1, q := 0, idx := 0, ents := [[6881287, 16777216, 0, 0, 0, 0, 0, 0, 0, 0, 0, 2, 7, 0, 0, 2147483648]] }], nextJob := 1 })], hs.wqs := [(objKey 20 1 0, { st := .active, priv := false, head := 1, tail := 1, order := [0] })], hs.cqs := [(objKey 20 1 0, { active := true })], hs.chans := [(objKey 24 1 2, { st := .active, peer := 5, peerCh := 3, inc := 6, check := 4, cached := true, used := 1, t0 := 4, limit := 4, relaxed := true, fn := 3 })], hs.bar := [(hostKey 1 0 0x20008, 0x100104), (hostKey 1 0 0x40010, 4)], hs.mrCache := [(objKey 24 1 3, [0x9F, 0, 0, 0, 0x10000, 0, 0, 0, 0, 0, 0, 0, 0, 0, 0, 0])] }
    (hostUp s h = true) ∧ (freshJob s h q i 105 = some j) ∧ (c = fAt (Job.op j) 11 0 24) ∧ (c ≠ 0) ∧ (u64 (Job.op j) 4 % 64 = 0) ∧ ((chanOf (updJob h j.id (fun k => { k with begun := true }) s) h c).st ≠ .absent) ∧ (mayActFor (wqOf (updJob h j.id (fun k => { k with begun := true }) s) h j.q) (chanOf (updJob h j.id (fun k => { k with begun := true }) s) h c).fn = false) ∧ quiet s (malformed h ({ j with begun := true }) 2 (updJob h j.id (fun k => { k with begun := true }) s)) = true := by decide +kernel

set_option maxRecDepth 100000 in
theorem wit_ChannelJobs_30 :
    let h : Nat := 1; let q : Nat := 0; let i : Word := 0; let j : Job := { id := 0, h := 1, q := 0, idx := 0, ents := [[6946823, 0, 0, 0, 0, 0, 0, 0, 0, 0, 0, 2, 0, 0, 0, 2147483648]] }; let c : Nat := 2; let s : State := { sOn with hs.ports := [(1, { st := .up, jobs := [{ id := 0, h := 1, q := 0, idx := 0, ents := [[6946823, 0, 0, 0, 0, 0, 0, 0, 0, 0, 0, 2, 0, 0, 0, 2147483648]] }], nextJob := 1 })], hs.wqs := [(objKey 20 1 0, { st := .active, priv := false, head := 1, tail := 1, order := [0] })], hs.cqs := [(objKey 20 1 0, { active := true })], hs.chans := [(objKey 24 1 2, { st := .active, peer := 5, peerCh := 3, inc := 6, check := 4, cached := true, used := 1, t0 := 4, limit := 4, relaxed := true, fn := 3 })], hs.bar := [(hostKey 1 0 0x20008, 0x100104), (hostKey 1 0 0x40010, 4)], hs.mrCache := [(objKey 24 1 3, [0x9F, 0, 0, 0, 0x10000, 0, 0, 0, 0, 0, 0, 0, 0, 0, 0, 0])] }
    (hostUp s h = true) ∧ (freshJob s h q i 106 = some j) ∧ (c = fAt (Job.op j) 11 0 24) ∧ (c ≠ 0) ∧ (u64 (Job.op j) 4 % 64 = 0) ∧ ((chanOf (updJob h j.id (fun k => { k with begun := true }) s) h c).st ≠ .absent) ∧ (mayActFor (wqOf (updJob h j.id (fun k => { k with begun := true }) s) h j.q) (chanOf (updJob h j.id (fun k => { k with begun := true }) s) h c).fn = false) ∧ quiet s (malformed h ({ j with begun := true }) 2 (updJob h j.id (fun k => { k with begun := true }) s)) = true := by decide +kernel

set_option maxRecDepth 100000 in
theorem wit_ChannelJobs_31 :
    let h : Nat := 1; let q : Nat := 0; let i : Word := 0; let j : Job := { id := 0, h := 1, q := 0, idx := 0, ents := [[7012359, 0, 0, 0, 40960, 0, 0, 0, 0, 0, 0, 2, 0, 0, 0, 2147483648]] }; let c : Nat := 2; let s : State := { sOn with hs.ports := [(1, { st := .up, jobs := [{ id := 0, h := 1, q := 0, idx := 0, ents := [[7012359, 0, 0, 0, 40960, 0, 0, 0, 0, 0, 0, 2, 0, 0, 0, 2147483648]] }], nextJob := 1 })], hs.wqs := [(objKey 20 1 0, { st := .active, priv := false, head := 1, tail := 1, order := [0] })], hs.cqs := [(objKey 20 1 0, { active := true })], hs.chans := [(objKey 24 1 2, { st := .active, peer := 5, peerCh := 3, inc := 6, check := 4, cached := true, used := 1, t0 := 4, limit := 4, relaxed := true, fn := 3 })], hs.bar := [(hostKey 1 0 0x20008, 0x100104), (hostKey 1 0 0x40010, 4)], hs.mrCache := [(objKey 24 1 3, [0x9F, 0, 0, 0, 0x10000, 0, 0, 0, 0, 0, 0, 0, 0, 0, 0, 0])] }
    (hostUp s h = true) ∧ (freshJob s h q i 107 = some j) ∧ (c = fAt (Job.op j) 11 0 24) ∧ (c ≠ 0) ∧ (u64 (Job.op j) 4 % 64 = 0) ∧ ((chanOf (updJob h j.id (fun k => { k with begun := true }) s) h c).st ≠ .absent) ∧ (mayActFor (wqOf (updJob h j.id (fun k => { k with begun := true }) s) h j.q) (chanOf (updJob h j.id (fun k => { k with begun := true }) s) h c).fn = false) ∧ quiet s (malformed h ({ j with begun := true }) 2 (updJob h j.id (fun k => { k with begun := true }) s)) = true := by decide +kernel

set_option maxRecDepth 100000 in
theorem wit_ChannelJobs_32 :
    let h : Nat := 1; let c : Nat := 2; let j : Job := { id := 0, h := 1, q := 0, idx := 0, ents := [[6946823, 0, 0, 0, 0, 0, 0, 0, 0, 0, 0, 2, 0, 0, 0, 2147483648]], begun := true }; let s : State := { sOn with hs.ports := [(1, { st := .up, jobs := [{ id := 0, h := 1, q := 0, idx := 0, ents := [[6946823, 0, 0, 0, 0, 0, 0, 0, 0, 0, 0, 2, 0, 0, 0, 2147483648]], begun := true }], nextJob := 1 })], hs.wqs := [(objKey 20 1 0, { st := .active, priv := true, head := 1, tail := 1, order := [0] })], hs.cqs := [(objKey 20 1 0, { active := true })], hs.chans := [(objKey 24 1 2, { st := .draining, peer := 5, peerCh := 3, inc := 6, check := 4, cached := true, used := 1, t0 := 4, limit := 4, relaxed := true, destroy := some 0 })], hs.bar := [(hostKey 1 0 0x20008, 0x100104), (hostKey 1 0 0x40010, 4)], hs.mrCache := [(objKey 24 1 3, [0x9F, 0, 0, 0, 0x10000, 0, 0, 0, 0, 0, 0, 0, 0, 0, 0, 0])] }; let u : State := hostWr h 0 (ctxAddr s h c) (List.replicate 512 0) false (stopChanWaits h c ((chanOf s h c).parked.foldl (fun s _ => trnStale h 10 s) s))
    (hostUp s h = true) ∧ (chanDrained s h c = true) ∧ (u = hostWr h 0 (ctxAddr s h c) (List.replicate 512 0) false (stopChanWaits h c ((chanOf s h c).parked.foldl (fun s _ => trnStale h 10 s) s))) ∧ ((chanOf s h c).destroy.bind (jobOf s h) = some j) ∧ quiet s (finishJob h j 0 0 0 { u with hs.chans := Maps.erase (objKey 24 h c) u.hs.chans }) = true := by decide +kernel

set_option maxRecDepth 100000 in
theorem wit_ChannelJobs_33 :
    let h : Nat := 1; let c : Nat := 2; let s : State := { sOn with hs.ports := [(1, { st := .up, jobs := [{ id := 0, h := 1, q := 0, idx := 0, ents := [[6946823, 0, 0, 0, 0, 0, 0, 0, 0, 0, 0, 2, 0, 0, 0, 2147483648]], begun := true }], nextJob := 1 })], hs.wqs := [(objKey 20 1 0, { st := .active, priv := true, head := 1, tail := 1, order := [0] })], hs.cqs := [(objKey 20 1 0, { active := true })], hs.chans := [(objKey 24 1 2, { st := .draining, peer := 5, peerCh := 3, inc := 6, check := 4, cached := true, used := 1, t0 := 4, limit := 4, relaxed := true })], hs.bar := [(hostKey 1 0 0x20008, 0x100104), (hostKey 1 0 0x40010, 4)], hs.mrCache := [(objKey 24 1 3, [0x9F, 0, 0, 0, 0x10000, 0, 0, 0, 0, 0, 0, 0, 0, 0, 0, 0])] }; let u : State := hostWr h 0 (ctxAddr s h c) (List.replicate 512 0) false (stopChanWaits h c ((chanOf s h c).parked.foldl (fun s _ => trnStale h 10 s) s))
    (hostUp s h = true) ∧ (chanDrained s h c = true) ∧ (u = hostWr h 0 (ctxAddr s h c) (List.replicate 512 0) false (stopChanWaits h c ((chanOf s h c).parked.foldl (fun s _ => trnStale h 10 s) s))) ∧ ((chanOf s h c).destroy.bind (jobOf s h) = none) ∧ quiet s ({ u with hs.chans := Maps.erase (objKey 24 h c) u.hs.chans }) = true := by decide +kernel

set_option maxRecDepth 100000 in
theorem wit_ChannelJobs_34 :
    let h : Nat := 1; let c : Nat := 2; let s : State := sOn
    (hostUp s h = false ∨ chanDrained s h c = false) ∧ quiet s (s) = true := by decide +kernel

theorem wit_ChannelJobs_35 :
    let h : Nat := 1; let q : Nat := 0; let i : Word := 5; let m : HostView := {}; let s : State := sOn
    (hostUp s h = false ∨ freshJob s h q i 16 = none) ∧ quiet s (s) = true := by decide

theorem wit_ChannelJobs_36 :
    let h : Nat := 1; let q : Nat := 0; let i : Word := 5; let m : HostView := {}; let s : State := sOn
    (hostUp s h = false ∨ freshJob s h q i 17 = none) ∧ quiet s (s) = true := by decide

theorem wit_ChannelJobs_37 :
    let h : Nat := 1; let q : Nat := 0; let i : Word := 5; let m : HostView := {}; let s : State := sOn
    (hostUp s h = false ∨ freshJob s h q i 18 = none) ∧ quiet s (s) = true := by decide

theorem wit_ChannelJobs_38 :
    let h : Nat := 1; let q : Nat := 0; let i : Word := 5; let m : HostView := {}; let s : State := sOn
    (hostUp s h = false ∨ freshJob s h q i 19 = none) ∧ quiet s (s) = true := by decide

theorem wit_ChannelJobs_39 :
    let h : Nat := 1; let q : Nat := 0; let i : Word := 5; let m : HostView := {}; let s : State := sOn
    (hostUp s h = false ∨ freshJob s h q i 104 = none) ∧ quiet s (s) = true := by decide

theorem wit_ChannelJobs_40 :
    let h : Nat := 1; let q : Nat := 0; let i : Word := 5; let s : State := sOn
    (hostUp s h = false ∨ freshJob s h q i 105 = none) ∧ quiet s (s) = true := by decide

theorem wit_ChannelJobs_41 :
    let h : Nat := 1; let q : Nat := 0; let i : Word := 5; let s : State := sOn
    (hostUp s h = false ∨ freshJob s h q i 106 = none) ∧ quiet s (s) = true := by decide

theorem wit_ChannelJobs_42 :
    let h : Nat := 1; let q : Nat := 0; let i : Word := 5; let s : State := sOn
    (hostUp s h = false ∨ freshJob s h q i 107 = none) ∧ quiet s (s) = true := by decide

set_option maxRecDepth 100000 in
theorem wit_ArrivalOfWrites_1 :
    let h : Nat := 1; let p : Packet := sealPkt { dest := 1, src := 5, cls := 0, mode := 0, lenCells := 0, ptype := 1, extMask := 1, ext := [0x100, 0x40000000, 0x300, 0], payload := [1, 2, 3, 4], psn := 0, chan := 2, inc := 6 }; let m : HostView := {}; let c : Nat := 2; let g : Grant := { d := [0x9F, 0, 0, 0, 0x10000, 0, 0, 0, 0, 0, 0, 0, 0, 0, 0, 0], idx := 3, ps := [(0x100, 4, 0, { bus := 0, first := 0, pages := 1 })] }; let s : State := { sOn with hs.ports := [(1, { st := .up })], hs.cqs := [(objKey 20 1 0, { active := true })], hs.chans := [(objKey 24 1 2, { st := .active, peer := 5, peerCh := 3, inc := 6, check := 4, cached := true, used := 1, t0 := 4, limit := 4, relaxed := true })], hs.bar := [(hostKey 1 0 0x20008, 0x100104), (hostKey 1 0 0x40010, 4)], hs.mrCache := [(objKey 24 1 3, [0x9F, 0, 0, 0, 0x10000, 0, 0, 0, 0, 0, 0, 0, 0, 0, 0, 0])] }; let r : State := (arrived 1 1 p s).1; let u : State := inc (trnCtr h 1) r; let w : State := (takeCore h c (meetCtx h c u)).1; let x : Chan := chanOf w h c; let v : View := viewOf m u; let d : Nat := (p.psn - x.expect).toNat; let y : State := w; let z : Chan := x; let a : State := (access h (Packet.extW p 0 2) (violAddr p) p.payload.length .remoteWrite (chanWho z) v y).2; let b : State := writeGrant h g (!bitW (Packet.extW p 0 1) 29) p.payload (cvuGood h z a)
    (arrived h 1 p s = (r, true)) ∧ (c = p.chan.toNat) ∧ (u = inc (trnCtr h 1) r) ∧ ((chanOf u h c).cached = true) ∧ (v = viewOf m u) ∧ (w = (takeCore h c (meetCtx h c u)).1) ∧ (x = chanOf w h c) ∧ (p.inc = x.inc) ∧ (p.src = x.peer) ∧ (x.unrel = false) ∧ (x.st ≠ .error) ∧ (d = (p.psn - x.expect).toNat) ∧ (d < 2048) ∧ (executedAt x d = false) ∧ (x.busy.any (fun q => q.psn == p.psn) = false) ∧ (heldBack x d p = false) ∧ ((if d = 0 ∨ x.window then (w, true) else freeSlots (boleOf h) (objKey 24 h c) 1 w) = (y, true)) ∧ (aliveOk x d p = true) ∧ (z = chanOf y h c) ∧ (access h (Packet.extW p 0 2) (violAddr p) p.payload.length .remoteWrite (chanWho z) v y = (.ok g, a)) ∧ (checkOk z p = true) ∧ (b = writeGrant h g (!bitW (Packet.extW p 0 1) 29) p.payload (cvuGood h z a)) ∧ quiet s (afterRx h c p v (.over, ackDue h c p (markDone h c d p (updChan h c (fun x => { x with sums := Maps.upd 0 x.sums (msnOf p) (fun n => n + p.payload.length), late := if (deliverAsd h p b).2 then BitVec.ofNat 24 (msnOf p) :: x.late else x.late }) (deliverAsd h p b).1)))) = true := by decide +kernel

set_option maxRecDepth 100000 in
theorem wit_ArrivalOfWrites_2 :
    let h : Nat := 1; let p : Packet := sealPkt { dest := 1, src := 5, cls := 0, mode := 0, lenCells := 0, ptype := 1, extMask := 1, ext := [0x100, 0x40000000, 0x300, 0], payload := [1, 2, 3, 4], psn := 0, chan := 2, inc := 6 }; let m : HostView := {}; let c : Nat := 2; let g : Grant := { d := [0x9F, 0, 0, 0, 0x10000, 0, 0, 0, 0, 0, 0, 0, 0, 0, 0, 0], idx := 3, ps := [(0x100, 4, 0, { bus := 0, first := 0, pages := 1 })] }; let s : State := { sOn with hs.ports := [(1, { st := .up })], hs.cqs := [(objKey 20 1 0, { active := true })], hs.chans := [(objKey 24 1 2, { st := .active, peer := 5, peerCh := 3, inc := 6, check := 1, cached := true, used := 1, t0 := 4, limit := 4, relaxed := true })], hs.bar := [(hostKey 1 0 0x20008, 0x100104), (hostKey 1 0 0x40010, 4)], hs.mrCache := [(objKey 24 1 3, [0x9F, 0, 0, 0, 0x10000, 0, 0, 0, 0, 0, 0, 0, 0, 0, 0, 0])] }; let r : State := (arrived 1 1 p s).1; let u : State := inc (trnCtr h 1) r; let w : State := (takeCore h c (meetCtx h c u)).1; let x : Chan := chanOf w h c; let v : View := viewOf m u; let d : Nat := (p.psn - x.expect).toNat; let y : State := w; let z : Chan := x; let a : State := (access h (Packet.extW p 0 2) (violAddr p) p.payload.length .remoteWrite (chanWho z) v y).2
    (arrived h 1 p s = (r, true)) ∧ (c = p.chan.toNat) ∧ (u = inc (trnCtr h 1) r) ∧ ((chanOf u h c).cached = true) ∧ (v = viewOf m u) ∧ (w = (takeCore h c (meetCtx h c u)).1) ∧ (x = chanOf w h c) ∧ (p.inc = x.inc) ∧ (p.src = x.peer) ∧ (x.unrel = false) ∧ (x.st ≠ .error) ∧ (d = (p.psn - x.expect).toNat) ∧ (d < 2048) ∧ (executedAt x d = false) ∧ (x.busy.any (fun q => q.psn == p.psn) = false) ∧ (heldBack x d p = false) ∧ ((if d = 0 ∨ x.window then (w, true) else freeSlots (boleOf h) (objKey 24 h c) 1 w) = (y, true)) ∧ (aliveOk x d p = true) ∧ (z = chanOf y h c) ∧ (access h (Packet.extW p 0 2) (violAddr p) p.payload.length .remoteWrite (chanWho z) v y = (.ok g, a)) ∧ (checkOk z p = false) ∧ quiet s (afterRx h c p v (.over, cvuFail h 3 p (writeGrant h { g with d := g.d.set 0 (wAt g.d 0 &&& 0xFFFFFFDF) } (!bitW (Packet.extW p 0 1) 29) p.payload a))) = true := by decide +kernel

set_option maxRecDepth 100000 in
theorem wit_ArrivalOfWrites_3 :
    let h : Nat := 1; let p : Packet := sealPkt { dest := 1, src := 5, cls := 0, mode := 0, lenCells := 0, ptype := 1, extMask := 1, ext := [0x100, 0x40000000, 0x5000, 0], payload := [1, 2, 3, 4], psn := 0, chan := 2, inc := 6 }; let m : HostView := {}; let c : Nat := 2; let k : Nat := 1; let s : State := { sOn with hs.ports := [(1, { st := .up })], hs.cqs := [(objKey 20 1 0, { active := true })], hs.chans := [(objKey 24 1 2, { st := .active, peer := 5, peerCh := 3, inc := 6, check := 4, cached := true, used := 1, t0 := 4, limit := 4, relaxed := true })], hs.bar := [(hostKey 1 0 0x20008, 0x100104), (hostKey 1 0 0x40010, 4)], hs.mrCache := [(objKey 24 1 3, [0x9F, 0, 0, 0, 0x10000, 0, 0, 0, 0, 0, 0, 0, 0, 0, 0, 0])] }; let r : State := (arrived 1 1 p s).1; let u : State := inc (trnCtr h 1) r; let w : State := (takeCore h c (meetCtx h c u)).1; let x : Chan := chanOf w h c; let v : View := viewOf m u; let d : Nat := (p.psn - x.expect).toNat; let y : State := w; let z : Chan := x; let a : State := (access h (Packet.extW p 0 2) (violAddr p) p.payload.length .remoteWrite (chanWho z) v y).2
    (arrived h 1 p s = (r, true)) ∧ (c = p.chan.toNat) ∧ (u = inc (trnCtr h 1) r) ∧ ((chanOf u h c).cached = true) ∧ (v = viewOf m u) ∧ (w = (takeCore h c (meetCtx h c u)).1) ∧ (x = chanOf w h c) ∧ (p.inc = x.inc) ∧ (p.src = x.peer) ∧ (x.unrel = false) ∧ (x.st ≠ .error) ∧ (d = (p.psn - x.expect).toNat) ∧ (d < 2048) ∧ (executedAt x d = false) ∧ (x.busy.any (fun q => q.psn == p.psn) = false) ∧ (heldBack x d p = false) ∧ ((if d = 0 ∨ x.window then (w, true) else freeSlots (boleOf h) (objKey 24 h c) 1 w) = (y, true)) ∧ (aliveOk x d p = true) ∧ (z = chanOf y h c) ∧ (access h (Packet.extW p 0 2) (violAddr p) p.payload.length .remoteWrite (chanWho z) v y = (.fail k, a)) ∧ quiet s (afterRx h c p v (.over, markRefused h c d p k (sendAck h c p.psn 0x10 k (violation h c p k a)))) = true := by decide +kernel

set_option maxRecDepth 100000 in
theorem wit_ArrivalOfWrites_4 :
    let h : Nat := 1; let p : Packet := sealPkt { dest := 1, src := 5, cls := 0, mode := 0, lenCells := 0, ptype := 1, extMask := 1, ext := [0x100, 0x40000000, 0x300, 0], payload := [1, 2, 3, 4], psn := 0, chan := 2, inc := 6 }; let m : HostView := {}; let c : Nat := 2; let s : State := { sOn with hs.ports := [(1, { st := .up })], hs.cqs := [(objKey 20 1 0, { active := true })], hs.chans := [(objKey 24 1 2, { st := .active, peer := 5, peerCh := 3, inc := 6, check := 4, cached := true, used := 1, t0 := 4, limit := 4, relaxed := true })], hs.bar := [(hostKey 1 0 0x20008, 0x100104), (hostKey 1 0 0x40010, 4), (hostKey 1 0 0x40008, 0x9000)] }; let r : State := (arrived 1 1 p s).1; let u : State := inc (trnCtr h 1) r; let w : State := (takeCore h c (meetCtx h c u)).1; let x : Chan := chanOf w h c; let v : View := viewOf m u; let d : Nat := (p.psn - x.expect).toNat; let y : State := w; let z : Chan := x; let n : Need := (match (access h (Packet.extW p 0 2) (violAddr p) p.payload.length .remoteWrite (chanWho z) v y).1 with | .wait n => n | _ => .page 0 0 0); let a : State := (access h (Packet.extW p 0 2) (violAddr p) p.payload.length .remoteWrite (chanWho z) v y).2
    (arrived h 1 p s = (r, true)) ∧ (c = p.chan.toNat) ∧ (u = inc (trnCtr h 1) r) ∧ ((chanOf u h c).cached = true) ∧ (v = viewOf m u) ∧ (w = (takeCore h c (meetCtx h c u)).1) ∧ (x = chanOf w h c) ∧ (p.inc = x.inc) ∧ (p.src = x.peer) ∧ (x.unrel = false) ∧ (x.st ≠ .error) ∧ (d = (p.psn - x.expect).toNat) ∧ (d < 2048) ∧ (executedAt x d = false) ∧ (x.busy.any (fun q => q.psn == p.psn) = false) ∧ (heldBack x d p = false) ∧ ((if d = 0 ∨ x.window then (w, true) else freeSlots (boleOf h) (objKey 24 h c) 1 w) = (y, true)) ∧ (aliveOk x d p = true) ∧ (z = chanOf y h c) ∧ (access h (Packet.extW p 0 2) (violAddr p) p.payload.length .remoteWrite (chanWho z) v y = (.wait n, a)) ∧ quiet s (rxWait h c p n a) = true := by decide +kernel

set_option maxRecDepth 100000 in
theorem wit_ArrivalOfWrites_5 :
    let h : Nat := 1; let p : Packet := sealPkt { dest := 1, src := 5, cls := 0, mode := 0, lenCells := 0, ptype := 1, extMask := 1, ext := [0x100, 0x40000000, 0x300, 0], payload := [1, 2, 3, 4], psn := 0, chan := 2, inc := 6 }; let m : HostView := {}; let c : Nat := 2; let s : State := { sOn with hs.ports := [(1, { st := .up })], hs.cqs := [(objKey 20 1 0, { active := true })], hs.chans := [(objKey 24 1 2, { st := .active, peer := 5, peerCh := 3, inc := 6, check := 4, cached := true, used := 1, t0 := 4, limit := 4, relaxed := true, unrel := true })], hs.bar := [(hostKey 1 0 0x20008, 0x100104), (hostKey 1 0 0x40010, 4)], hs.mrCache := [(objKey 24 1 3, [0x9F, 0, 0, 0, 0x10000, 0, 0, 0, 0, 0, 0, 0, 0, 0, 0, 0])] }; let r : State := (arrived 1 1 p s).1; let u : State := inc (trnCtr h 1) r; let w : State := (takeCore h c (meetCtx h c u)).1; let x : Chan := chanOf w h c; let v : View := viewOf m u; let y : State := (execWriteRx h c p v w).2
    (arrived h 1 p s = (r, true)) ∧ (c = p.chan.toNat) ∧ (u = inc (trnCtr h 1) r) ∧ ((chanOf u h c).cached = true) ∧ (v = viewOf m u) ∧ (w = (takeCore h c (meetCtx h c u)).1) ∧ (x = chanOf w h c) ∧ (p.inc = x.inc) ∧ (p.src = x.peer) ∧ (x.unrel = true) ∧ (x.st ≠ .error) ∧ (execWriteRx h c p v w = (.done, y)) ∧ quiet s (afterRx h c p v (.over, if isLast p then updChan h c (fun x => { x with sums := Maps.erase (msnOf p) x.sums, late := x.late.filter (fun m => m.toNat != msnOf p) }) y else y)) = true := by decide +kernel

set_option maxRecDepth 100000 in
theorem wit_ArrivalOfWrites_6 :
    let h : Nat := 1; let p : Packet := sealPkt { dest := 1, src := 5, cls := 0, mode := 0, lenCells := 0, ptype := 1, extMask := 1, ext := [0x100, 0x40000000, 0x300, 0], payload := [1, 2, 3, 4], psn := 0, chan := 2, inc := 6 }; let m : HostView := {}; let c : Nat := 2; let s : State := { sOn with hs.ports := [(1, { st := .up })], hs.cqs := [(objKey 20 1 0, { active := true })], hs.chans := [(objKey 24 1 2, { st := .error, peer := 5, peerCh := 3, inc := 6, check := 4, cached := true, used := 1, t0 := 4, limit := 4, relaxed := true, unrel := true })], hs.bar := [(hostKey 1 0 0x20008, 0x100104), (hostKey 1 0 0x40010, 4)], hs.mrCache := [(objKey 24 1 3, [0x9F, 0, 0, 0, 0x10000, 0, 0, 0, 0, 0, 0, 0, 0, 0, 0, 0])] }; let r : State := (arrived 1 1 p s).1; let u : State := inc (trnCtr h 1) r; let w : State := (takeCore h c (meetCtx h c u)).1; let x : Chan := chanOf w h c; let v : View := viewOf m u
    (arrived h 1 p s = (r, true)) ∧ (c = p.chan.toNat) ∧ (u = inc (trnCtr h 1) r) ∧ ((chanOf u h c).cached = true) ∧ (v = viewOf m u) ∧ (w = (takeCore h c (meetCtx h c u)).1) ∧ (x = chanOf w h c) ∧ (p.inc = x.inc) ∧ (p.src = x.peer) ∧ (x.unrel = true) ∧ (x.st = .error) ∧ quiet s (afterRx h c p v (.over, w)) = true := by decide +kernel

set_option maxRecDepth 100000 in
theorem wit_ArrivalOfWrites_7 :
    let h : Nat := 1; let p : Packet := sealPkt { dest := 1, src := 5, cls := 0, mode := 0, lenCells := 0, ptype := 1, extMask := 1, ext := [0x100, 0x40000000, 0x300, 0], payload := [1, 2, 3, 4], psn := 0, chan := 2, inc := 6 }; let m : HostView := {}; let s : State := sOn; let r : State := (arrived 1 1 p s).1
    (arrived h 1 p s = (r, false)) ∧ quiet s (r) = true := by decide +kernel

set_option maxRecDepth 100000 in
theorem wit_ArrivalOfWrites_8 :
    let h : Nat := 1; let p : Packet := sealPkt { dest := 1, src := 5, cls := 0, mode := 0, lenCells := 0, ptype := 1, extMask := 1, ext := [0x100, 0x40000000, 0x300, 0], payload := [1, 2, 3, 4], psn := 0, chan := 2, inc := 6 }; let m : HostView := {}; let c : Nat := 2; let s : State := { sOn with hs.ports := [(1, { st := .up })], hs.cqs := [(objKey 20 1 0, { active := true })], hs.chans := [(objKey 24 1 2, { st := .active, peer := 5, peerCh := 3, inc := 6, check := 4, cached := false, used := 1, t0 := 4, limit := 4, relaxed := true })], hs.bar := [(hostKey 1 0 0x20008, 0x100104), (hostKey 1 0 0x40010, 4)], hs.mrCache := [(objKey 24 1 3, [0x9F, 0, 0, 0, 0x10000, 0, 0, 0, 0, 0, 0, 0, 0, 0, 0, 0])] }; let r : State := (arrived 1 1 p s).1
    (arrived h 1 p s = (r, true)) ∧ (c = p.chan.toNat) ∧ ((chanOf (inc (trnCtr h 1) r) h c).cached = false) ∧ quiet s (fetchCtx h c (park h c p (inc (trnCtr h 1) r))) = true := by decide +kernel

set_option maxRecDepth 100000 in
theorem wit_ArrivalOfWrites_9 :
    let h : Nat := 1; let p : Packet := sealPkt { dest := 1, src := 5, cls := 0, mode := 0, lenCells := 0, ptype := 1, extMask := 1, ext := [0x100, 0x40000000, 0x300, 0], payload := [1, 2, 3, 4], psn := 0, chan := 2, inc := 7 }; let m : HostView := {}; let c : Nat := 2; let s : State := { sOn with hs.ports := [(1, { st := .up })], hs.cqs := [(objKey 20 1 0, { active := true })], hs.chans := [(objKey 24 1 2, { st := .active, peer := 5, peerCh := 3, inc := 6, check := 4, cached := true, used := 1, t0 := 4, limit := 4, relaxed := true })], hs.bar := [(hostKey 1 0 0x20008, 0x100104), (hostKey 1 0 0x40010, 4)], hs.mrCache := [(objKey 24 1 3, [0x9F, 0, 0, 0, 0x10000, 0, 0, 0, 0, 0, 0, 0, 0, 0, 0, 0])] }; let r : State := (arrived 1 1 p s).1; let u : State := inc (trnCtr h 1) r; let w : State := (takeCore h c (meetCtx h c u)).1; let x : Chan := chanOf w h c; let v : View := viewOf m u
    (arrived h 1 p s = (r, true)) ∧ (c = p.chan.toNat) ∧ (u = inc (trnCtr h 1) r) ∧ ((chanOf u h c).cached = true) ∧ (v = viewOf m u) ∧ (w = (takeCore h c (meetCtx h c u)).1) ∧ (x = chanOf w h c) ∧ (p.inc ≠ x.inc) ∧ quiet s (afterRx h c p v (.over, trnStale h 7 w)) = true := by decide +kernel

set_option maxRecDepth 100000 in
theorem wit_ArrivalOfWrites_10 :
    let h : Nat := 1; let p : Packet := sealPkt { dest := 1, src := 9, cls := 0, mode := 0, lenCells := 0, ptype := 1, extMask := 1, ext := [0x100, 0x40000000, 0x300, 0], payload := [1, 2, 3, 4], psn := 0, chan := 2, inc := 6 }; let m : HostView := {}; let c : Nat := 2; let s : State := { sOn with hs.ports := [(1, { st := .up })], hs.cqs := [(objKey 20 1 0, { active := true })], hs.chans := [(objKey 24 1 2, { st := .active, peer := 5, peerCh := 3, inc := 6, check := 4, cached := true, used := 1, t0 := 4, limit := 4, relaxed := true })], hs.bar := [(hostKey 1 0 0x20008, 0x100104), (hostKey 1 0 0x40010, 4)], hs.mrCache := [(objKey 24 1 3, [0x9F, 0, 0, 0, 0x10000, 0, 0, 0, 0, 0, 0, 0, 0, 0, 0, 0])] }; let r : State := (arrived 1 1 p s).1; let u : State := inc (trnCtr h 1) r; let w : State := (takeCore h c (meetCtx h c u)).1; let x : Chan := chanOf w h c; let v : View := viewOf m u
    (arrived h 1 p s = (r, true)) ∧ (c = p.chan.toNat) ∧ (u = inc (trnCtr h 1) r) ∧ ((chanOf u h c).cached = true) ∧ (v = viewOf m u) ∧ (w = (takeCore h c (meetCtx h c u)).1) ∧ (x = chanOf w h c) ∧ (p.inc = x.inc) ∧ (p.src ≠ x.peer) ∧ quiet s (afterRx h c p v (.over, trnStale h 8 w)) = true := by decide +kernel

set_option maxRecDepth 100000 in
theorem wit_ArrivalOfWrites_11 :
    let h : Nat := 1; let p : Packet := sealPkt { dest := 1, src := 5, cls := 0, mode := 0, lenCells := 0, ptype := 1, extMask := 1, ext := [0x100, 0x40000000, 0x300, 0], payload := [1, 2, 3, 4], psn := 0, chan := 2, inc := 6 }; let m : HostView := {}; let c : Nat := 2; let s : State := { sOn with hs.ports := [(1, { st := .up })], hs.cqs := [(objKey 20 1 0, { active := true })], hs.chans := [(objKey 24 1 2, { st := .error, peer := 5, peerCh := 3, inc := 6, check := 4, cached := true, used := 1, t0 := 4, limit := 4, relaxed := true })], hs.bar := [(hostKey 1 0 0x20008, 0x100104), (hostKey 1 0 0x40010, 4)], hs.mrCache := [(objKey 24 1 3, [0x9F, 0, 0, 0, 0x10000, 0, 0, 0, 0, 0, 0, 0, 0, 0, 0, 0])] }; let r : State := (arrived 1 1 p s).1; let u : State := inc (trnCtr h 1) r; let w : State := (takeCore h c (meetCtx h c u)).1; let x : Chan := chanOf w h c; let v : View := viewOf m u
    (arrived h 1 p s = (r, true)) ∧ (c = p.chan.toNat) ∧ (u = inc (trnCtr h 1) r) ∧ ((chanOf u h c).cached = true) ∧ (v = viewOf m u) ∧ (w = (takeCore h c (meetCtx h c u)).1) ∧ (x = chanOf w h c) ∧ (p.inc = x.inc) ∧ (p.src = x.peer) ∧ (x.unrel = false) ∧ (x.st = .error) ∧ quiet s (afterRx h c p v (.over, sendAck h c p.psn 0x11 0 w)) = true := by decide +kernel

set_option maxRecDepth 100000 in
theorem wit_ArrivalOfWrites_12 :
    let h : Nat := 1; let p : Packet := sealPkt { dest := 1, src := 5, cls := 0, mode := 0, lenCells := 0, ptype := 1, extMask := 1, ext := [0x100, 0x40000000, 0x300, 0], payload := [1, 2, 3, 4], psn := 2048, chan := 2, inc := 6 }; let m : HostView := {}; let c : Nat := 2; let s : State := { sOn with hs.ports := [(1, { st := .up })], hs.cqs := [(objKey 20 1 0, { active := true })], hs.chans := [(objKey 24 1 2, { st := .active, peer := 5, peerCh := 3, inc := 6, check := 4, cached := true, used := 1, t0 := 4, limit := 4, relaxed := true })], hs.bar := [(hostKey 1 0 0x20008, 0x100104), (hostKey 1 0 0x40010, 4)], hs.mrCache := [(objKey 24 1 3, [0x9F, 0, 0, 0, 0x10000, 0, 0, 0, 0, 0, 0, 0, 0, 0, 0, 0])] }; let r : State := (arrived 1 1 p s).1; let u : State := inc (trnCtr h 1) r; let w : State := (takeCore h c (meetCtx h c u)).1; let x : Chan := chanOf w h c; let v : View := viewOf m u
    (arrived h 1 p s = (r, true)) ∧ (c = p.chan.toNat) ∧ (u = inc (trnCtr h 1) r) ∧ ((chanOf u h c).cached = true) ∧ (v = viewOf m u) ∧ (w = (takeCore h c (meetCtx h c u)).1) ∧ (x = chanOf w h c) ∧ (p.inc = x.inc) ∧ (p.src = x.peer) ∧ (x.unrel = false) ∧ (x.st ≠ .error) ∧ (2048 ≤ (p.psn - x.expect).toNat) ∧ ((p.psn - x.expect).toNat < 2 ^ 31) ∧ quiet s (afterRx h c p v (.over, trnStale h 9 w)) = true := by decide +kernel

set_option maxRecDepth 100000 in
theorem wit_ArrivalOfWrites_13 :
    let h : Nat := 1; let p : Packet := sealPkt { dest := 1, src := 5, cls := 0, mode := 0, lenCells := 0, ptype := 1, extMask := 1, ext := [0x100, 0x40000000, 0x300, 0], payload := [1, 2, 3, 4], psn := 0, chan := 2, inc := 6 }; let m : HostView := {}; let c : Nat := 2; let s : State := { sOn with hs.ports := [(1, { st := .up })], hs.cqs := [(objKey 20 1 0, { active := true })], hs.chans := [(objKey 24 1 2, { st := .active, peer := 5, peerCh := 3, inc := 6, check := 4, cached := true, used := 1, t0 := 4, limit := 4, relaxed := true, busy := [sealPkt { dest := 1, src := 5, cls := 0, mode := 0, lenCells := 0, ptype := 1, extMask := 1, ext := [0x100, 0x40000000, 0x300, 0], payload := [1, 2, 3, 4], psn := 0, chan := 2, inc := 6 }] })], hs.bar := [(hostKey 1 0 0x20008, 0x100104), (hostKey 1 0 0x40010, 4)], hs.mrCache := [(objKey 24 1 3, [0x9F, 0, 0, 0, 0x10000, 0, 0, 0, 0, 0, 0, 0, 0, 0, 0, 0])] }; let r : State := (arrived 1 1 p s).1; let u : State := inc (trnCtr h 1) r; let w : State := (takeCore h c (meetCtx h c u)).1; let x : Chan := chanOf w h c; let v : View := viewOf m u; let d : Nat := (p.psn - x.expect).toNat
    (arrived h 1 p s = (r, true)) ∧ (c = p.chan.toNat) ∧ (u = inc (trnCtr h 1) r) ∧ ((chanOf u h c).cached = true) ∧ (v = viewOf m u) ∧ (w = (takeCore h c (meetCtx h c u)).1) ∧ (x = chanOf w h c) ∧ (p.inc = x.inc) ∧ (p.src = x.peer) ∧ (x.unrel = false) ∧ (x.st ≠ .error) ∧ (d = (p.psn - x.expect).toNat) ∧ (d < 2048) ∧ (executedAt x d = false) ∧ (x.busy.any (fun q => q.psn == p.psn) = true) ∧ quiet s (afterRx h c p v (.over, inc (trnCtr h 6) w)) = true := by decide +kernel

set_option maxRecDepth 100000 in
theorem wit_ArrivalOfWrites_14 :
    let h : Nat := 1; let p : Packet := sealPkt { dest := 1, src := 5, cls := 0, mode := 0, lenCells := 0, ptype := 1, extMask := 1, ext := [0x100, 0x40000000, 0x300, 0], payload := [1, 2, 3, 4], psn := 1, chan := 2, inc := 6 }; let m : HostView := {}; let c : Nat := 2; let s : State := { sOn with hs.ports := [(1, { st := .up })], hs.cqs := [(objKey 20 1 0, { active := true })], hs.chans := [(objKey 24 1 2, { st := .active, peer := 5, peerCh := 3, inc := 6, check := 4, cached := true, used := 1, t0 := 4, limit := 4, relaxed := false })], hs.bar := [(hostKey 1 0 0x20008, 0x100104), (hostKey 1 0 0x40010, 4)], hs.mrCache := [(objKey 24 1 3, [0x9F, 0, 0, 0, 0x10000, 0, 0, 0, 0, 0, 0, 0, 0, 0, 0, 0])] }; let r : State := (arrived 1 1 p s).1; let u : State := inc (trnCtr h 1) r; let w : State := (takeCore h c (meetCtx h c u)).1; let x : Chan := chanOf w h c; let v : View := viewOf m u; let d : Nat := (p.psn - x.expect).toNat
    (arrived h 1 p s = (r, true)) ∧ (c = p.chan.toNat) ∧ (u = inc (trnCtr h 1) r) ∧ ((chanOf u h c).cached = true) ∧ (v = viewOf m u) ∧ (w = (takeCore h c (meetCtx h c u)).1) ∧ (x = chanOf w h c) ∧ (p.inc = x.inc) ∧ (p.src = x.peer) ∧ (x.unrel = false) ∧ (x.st ≠ .error) ∧ (d = (p.psn - x.expect).toNat) ∧ (d < 2048) ∧ (executedAt x d = false) ∧ (x.busy.any (fun q => q.psn == p.psn) = false) ∧ (heldBack x d p = true) ∧ quiet s (park h c p w) = true := by decide +kernel

set_option maxRecDepth 100000 in
theorem wit_ArrivalOfWrites_15 :
    let h : Nat := 1; let p : Packet := sealPkt { dest := 1, src := 5, cls := 0, mode := 0, lenCells := 0, ptype := 1, extMask := 1, ext := [0x100, 0x40000000, 0x300, 0], payload := [1, 2, 3, 4], psn := 0, chan := 2, inc := 6 }; let m : HostView := {}; let c : Nat := 2; let s : State := { sOn with hs.ports := [(1, { st := .up })], hs.cqs := [(objKey 20 1 0, { active := true })], hs.chans := [(objKey 24 1 2, { st := .active, peer := 5, peerCh := 3, inc := 6, check := 4, cached := true, used := 1, t0 := 4, limit := 4, relaxed := true, rxMsn := 1 })], hs.bar := [(hostKey 1 0 0x20008, 0x100104), (hostKey 1 0 0x40010, 4)], hs.mrCache := [(objKey 24 1 3, [0x9F, 0, 0, 0, 0x10000, 0, 0, 0, 0, 0, 0, 0, 0, 0, 0, 0])] }; let r : State := (arrived 1 1 p s).1; let u : State := inc (trnCtr h 1) r; let w : State := (takeCore h c (meetCtx h c u)).1; let x : Chan := chanOf w h c; let v : View := viewOf m u; let d : Nat := (p.psn - x.expect).toNat; let y : State := w
    (arrived h 1 p s = (r, true)) ∧ (c = p.chan.toNat) ∧ (u = inc (trnCtr h 1) r) ∧ ((chanOf u h c).cached = true) ∧ (v = viewOf m u) ∧ (w = (takeCore h c (meetCtx h c u)).1) ∧ (x = chanOf w h c) ∧ (p.inc = x.inc) ∧ (p.src = x.peer) ∧ (x.unrel = false) ∧ (x.st ≠ .error) ∧ (d = (p.psn - x.expect).toNat) ∧ (d < 2048) ∧ (executedAt x d = false) ∧ (x.busy.any (fun q => q.psn == p.psn) = false) ∧ (heldBack x d p = false) ∧ ((if d = 0 ∨ x.window then (w, true) else freeSlots (boleOf h) (objKey 24 h c) 1 w) = (y, true)) ∧ (aliveOk x d p = false) ∧ quiet s (afterRx h c p v (.over, cvuFail h 4 p y)) = true := by decide +kernel

set_option maxRecDepth 100000 in
theorem wit_ArrivalOfWrites_16 :
    let h : Nat := 1; let p : Packet := sealPkt { dest := 1, src := 5, cls := 0, mode := 0, lenCells := 0, ptype := 1, extMask := 1, ext := [0x100, 0x40000000, 0x300, 0], payload := [1, 2, 3, 4], psn := 0, chan := 2, inc := 6 }; let m : HostView := {}; let c : Nat := 2; let k : Nat := 5; let s : State := { sOn with hs.ports := [(1, { st := .up })], hs.cqs := [(objKey 20 1 0, { active := true })], hs.chans := [(objKey 24 1 2, { st := .active, peer := 5, peerCh := 3, inc := 6, check := 4, cached := true, used := 1, t0 := 4, limit := 4, relaxed := true, expect := 1, refused := some (0, 5) })], hs.bar := [(hostKey 1 0 0x20008, 0x100104), (hostKey 1 0 0x40010, 4)], hs.mrCache := [(objKey 24 1 3, [0x9F, 0, 0, 0, 0x10000, 0, 0, 0, 0, 0, 0, 0, 0, 0, 0, 0])] }; let r : State := (arrived 1 1 p s).1; let u : State := inc (trnCtr h 1) r; let w : State := (takeCore h c (meetCtx h c u)).1; let x : Chan := chanOf w h c; let v : View := viewOf m u
    (arrived h 1 p s = (r, true)) ∧ (c = p.chan.toNat) ∧ (u = inc (trnCtr h 1) r) ∧ ((chanOf u h c).cached = true) ∧ (v = viewOf m u) ∧ (w = (takeCore h c (meetCtx h c u)).1) ∧ (x = chanOf w h c) ∧ (p.inc = x.inc) ∧ (p.src = x.peer) ∧ (x.unrel = false) ∧ (x.st ≠ .error) ∧ (2 ^ 31 ≤ (p.psn - x.expect).toNat ∨ ((p.psn - x.expect).toNat < 2048 ∧ executedAt x (p.psn - x.expect).toNat = true)) ∧ (x.refused = some (p.psn, k)) ∧ quiet s (afterRx h c p v (.over, sendAck h c p.psn 0x10 k (inc (trnCtr h 6) w))) = true := by decide +kernel

set_option maxRecDepth 100000 in
theorem wit_ArrivalOfWrites_17 :
    let h : Nat := 1; let p : Packet := sealPkt { dest := 1, src := 5, cls := 0, mode := 0, lenCells := 0, ptype := 1, extMask := 1, ext := [0x100, 0x40000000, 0x300, 0], payload := [1, 2, 3, 4], psn := 0, chan := 2, inc := 6 }; let m : HostView := {}; let c : Nat := 2; let s : State := { sOn with hs.ports := [(1, { st := .up })], hs.cqs := [(objKey 20 1 0, { active := true })], hs.chans := [(objKey 24 1 2, { st := .active, peer := 5, peerCh := 3, inc := 6, check := 4, cached := true, used := 1, t0 := 4, limit := 4, relaxed := true, expect := 3, refused := some (1, 5), olds := [0] })], hs.bar := [(hostKey 1 0 0x20008, 0x100104), (hostKey 1 0 0x40010, 4)], hs.mrCache := [(objKey 24 1 3, [0x9F, 0, 0, 0, 0x10000, 0, 0, 0, 0, 0, 0, 0, 0, 0, 0, 0])] }; let r : State := (arrived 1 1 p s).1; let u : State := inc (trnCtr h 1) r; let w : State := (takeCore h c (meetCtx h c u)).1; let x : Chan := chanOf w h c; let v : View := viewOf m u
    (arrived h 1 p s = (r, true)) ∧ (c = p.chan.toNat) ∧ (u = inc (trnCtr h 1) r) ∧ ((chanOf u h c).cached = true) ∧ (v = viewOf m u) ∧ (w = (takeCore h c (meetCtx h c u)).1) ∧ (x = chanOf w h c) ∧ (p.inc = x.inc) ∧ (p.src = x.peer) ∧ (x.unrel = false) ∧ (x.st ≠ .error) ∧ (2 ^ 31 ≤ (p.psn - x.expect).toNat ∨ ((p.psn - x.expect).toNat < 2048 ∧ executedAt x (p.psn - x.expect).toNat = true)) ∧ (x.refused.all (fun e => e.1 != p.psn) = true) ∧ (x.olds.contains p.psn = true) ∧ quiet s (afterRx h c p v (.over, sendAck h c p.psn 0 0 (inc (trnCtr h 6) w))) = true := by decide +kernel

set_option maxRecDepth 100000 in
theorem wit_ArrivalOfWrites_18 :
    let h : Nat := 1; let p : Packet := sealPkt { dest := 1, src := 5, cls := 0, mode := 0, lenCells := 0, ptype := 1, extMask := 1, ext := [0x100, 0x40000000, 0x300, 0], payload := [1, 2, 3, 4], psn := 0, chan := 2, inc := 6 }; let m : HostView := {}; let c : Nat := 2; let s : State := { sOn with hs.ports := [(1, { st := .up })], hs.cqs := [(objKey 20 1 0, { active := true })], hs.chans := [(objKey 24 1 2, { st := .active, peer := 5, peerCh := 3, inc := 6, check := 4, cached := true, used := 1, t0 := 4, limit := 4, relaxed := true, expect := 1 })], hs.bar := [(hostKey 1 0 0x20008, 0x100104), (hostKey 1 0 0x40010, 4)], hs.mrCache := [(objKey 24 1 3, [0x9F, 0, 0, 0, 0x10000, 0, 0, 0, 0, 0, 0, 0, 0, 0, 0, 0])] }; let r : State := (arrived 1 1 p s).1; let u : State := inc (trnCtr h 1) r; let w : State := (takeCore h c (meetCtx h c u)).1; let x : Chan := chanOf w h c; let v : View := viewOf m u
    (arrived h 1 p s = (r, true)) ∧ (c = p.chan.toNat) ∧ (u = inc (trnCtr h 1) r) ∧ ((chanOf u h c).cached = true) ∧ (v = viewOf m u) ∧ (w = (takeCore h c (meetCtx h c u)).1) ∧ (x = chanOf w h c) ∧ (p.inc = x.inc) ∧ (p.src = x.peer) ∧ (x.unrel = false) ∧ (x.st ≠ .error) ∧ (2 ^ 31 ≤ (p.psn - x.expect).toNat ∨ ((p.psn - x.expect).toNat < 2048 ∧ executedAt x (p.psn - x.expect).toNat = true)) ∧ (x.refused.all (fun e => e.1 != p.psn) = true) ∧ quiet s (afterRx h c p v (.over, sendAck h c p.psn 0 0 (inc (trnCtr h 6) w))) = true := by decide +kernel

set_option maxRecDepth 100000 in
theorem wit_ArrivalOfRequests_1 :
    let h : Nat := 1; let p : Packet := sealPkt { dest := 1, src := 5, cls := 0, mode := 0, lenCells := 0, ptype := 2, extMask := 1, ext := [0, 0x60000000, 77, 0], payload := [], psn := 0, chan := 2, inc := 6 }; let m : HostView := {}; let c : Nat := 2; let s : State := { sOn with hs.ports := [(1, { st := .up })], hs.cqs := [(objKey 20 1 0, { active := true })], hs.chans := [(objKey 24 1 2, { st := .active, peer := 5, peerCh := 3, inc := 6, check := 4, cached := true, used := 1, t0 := 4, limit := 4, relaxed := true })], hs.bar := [(hostKey 1 0 0x20008, 0x100104), (hostKey 1 0 0x40010, 4)], hs.mrCache := [(objKey 24 1 3, [0x9F, 0, 0, 0, 0x10000, 0, 0, 0, 0, 0, 0, 0, 0, 0, 0, 0])] }; let r : State := (arrived 1 2 p s).1; let u : State := inc (trnCtr h 1) r; let w : State := (takeCore h c (meetCtx h c u)).1; let x : Chan := chanOf w h c; let v : View := viewOf m u; let d : Nat := (p.psn - x.expect).toNat; let y : State := w; let z : Chan := x
    (arrived h 2 p s = (r, true)) ∧ (c = p.chan.toNat) ∧ (u = inc (trnCtr h 1) r) ∧ ((chanOf u h c).cached = true) ∧ (v = viewOf m u) ∧ (w = (takeCore h c (meetCtx h c u)).1) ∧ (x = chanOf w h c) ∧ (p.inc = x.inc) ∧ (p.src = x.peer) ∧ (x.unrel = false) ∧ (x.st ≠ .error) ∧ (d = (p.psn - x.expect).toNat) ∧ (d < 2048) ∧ (executedAt x d = false) ∧ (x.busy.any (fun q => q.psn == p.psn) = false) ∧ (heldBack x d p = false) ∧ ((if d = 0 ∨ x.window then (w, true) else freeSlots (boleOf h) (objKey 24 h c) 1 w) = (y, true)) ∧ (aliveOk x d p = true) ∧ (z = chanOf y h c) ∧ (cqFull y h z.cq = false) ∧ (checkOk z p = true) ∧ quiet s (afterRx h c p v (.over, ackDue h c p (markDone h c d p (pushNotice h z.cq ([Packet.extW p 0 2, w32 p.src.toNat, w32 (Maps.get 0 z.sums (BitVec.ofNat 24 (msnOf p)).toNat), w32 c, 0, 0] ++ compTail 0xFFFFF 0x11 2 0 (flLate ((deliverAsd h p (cvuGood h z y)).2 || z.late.contains (BitVec.ofNat 24 (msnOf p))) ||| 64)) (deliverAsd h p (cvuGood h z y)).1)))) = true := by decide +kernel

set_option maxRecDepth 100000 in
theorem wit_ArrivalOfRequests_2 :
    let h : Nat := 1; let p : Packet := sealPkt { dest := 1, src := 5, cls := 0, mode := 0, lenCells := 0, ptype := 2, extMask := 1, ext := [0, 0x60000000, 77, 0], payload := [], psn := 0, chan := 2, inc := 6 }; let m : HostView := {}; let c : Nat := 2; let s : State := { sOn with hs.ports := [(1, { st := .up })], hs.cqs := [(objKey 20 1 0, { active := true, log := 4, written := 16 })], hs.chans := [(objKey 24 1 2, { st := .active, peer := 5, peerCh := 3, inc := 6, check := 4, cached := true, used := 1, t0 := 4, limit := 4, relaxed := true })], hs.bar := [(hostKey 1 0 0x20008, 0x100104), (hostKey 1 0 0x40010, 4)], hs.mrCache := [(objKey 24 1 3, [0x9F, 0, 0, 0, 0x10000, 0, 0, 0, 0, 0, 0, 0, 0, 0, 0, 0])] }; let r : State := (arrived 1 2 p s).1; let u : State := inc (trnCtr h 1) r; let w : State := (takeCore h c (meetCtx h c u)).1; let x : Chan := chanOf w h c; let v : View := viewOf m u; let d : Nat := (p.psn - x.expect).toNat; let y : State := w; let z : Chan := x
    (arrived h 2 p s = (r, true)) ∧ (c = p.chan.toNat) ∧ (u = inc (trnCtr h 1) r) ∧ ((chanOf u h c).cached = true) ∧ (v = viewOf m u) ∧ (w = (takeCore h c (meetCtx h c u)).1) ∧ (x = chanOf w h c) ∧ (p.inc = x.inc) ∧ (p.src = x.peer) ∧ (x.unrel = false) ∧ (x.st ≠ .error) ∧ (d = (p.psn - x.expect).toNat) ∧ (d < 2048) ∧ (executedAt x d = false) ∧ (x.busy.any (fun q => q.psn == p.psn) = false) ∧ (heldBack x d p = false) ∧ ((if d = 0 ∨ x.window then (w, true) else freeSlots (boleOf h) (objKey 24 h c) 1 w) = (y, true)) ∧ (aliveOk x d p = true) ∧ (z = chanOf y h c) ∧ (cqFull y h z.cq = true) ∧ quiet s (afterRx h c p v (.over, sendAck h c p.psn 1 0 y)) = true := by decide +kernel

set_option maxRecDepth 100000 in
theorem wit_ArrivalOfRequests_3 :
    let h : Nat := 1; let p : Packet := sealPkt { dest := 1, src := 5, cls := 0, mode := 0, lenCells := 0, ptype := 2, extMask := 1, ext := [0, 0x60000000, 77, 0], payload := [], psn := 0, chan := 2, inc := 6 }; let m : HostView := {}; let c : Nat := 2; let s : State := { sOn with hs.ports := [(1, { st := .up })], hs.cqs := [(objKey 20 1 0, { active := true })], hs.chans := [(objKey 24 1 2, { st := .active, peer := 5, peerCh := 3, inc := 6, check := 1, cached := true, used := 1, t0 := 4, limit := 4, relaxed := true })], hs.bar := [(hostKey 1 0 0x20008, 0x100104), (hostKey 1 0 0x40010, 4)], hs.mrCache := [(objKey 24 1 3, [0x9F, 0, 0, 0, 0x10000, 0, 0, 0, 0, 0, 0, 0, 0, 0, 0, 0])] }; let r : State := (arrived 1 2 p s).1; let u : State := inc (trnCtr h 1) r; let w : State := (takeCore h c (meetCtx h c u)).1; let x : Chan := chanOf w h c; let v : View := viewOf m u; let d : Nat := (p.psn - x.expect).toNat; let y : State := w; let z : Chan := x
    (arrived h 2 p s = (r, true)) ∧ (c = p.chan.toNat) ∧ (u = inc (trnCtr h 1) r) ∧ ((chanOf u h c).cached = true) ∧ (v = viewOf m u) ∧ (w = (takeCore h c (meetCtx h c u)).1) ∧ (x = chanOf w h c) ∧ (p.inc = x.inc) ∧ (p.src = x.peer) ∧ (x.unrel = false) ∧ (x.st ≠ .error) ∧ (d = (p.psn - x.expect).toNat) ∧ (d < 2048) ∧ (executedAt x d = false) ∧ (x.busy.any (fun q => q.psn == p.psn) = false) ∧ (heldBack x d p = false) ∧ ((if d = 0 ∨ x.window then (w, true) else freeSlots (boleOf h) (objKey 24 h c) 1 w) = (y, true)) ∧ (aliveOk x d p = true) ∧ (z = chanOf y h c) ∧ (cqFull y h z.cq = false) ∧ (checkOk z p = false) ∧ quiet s (afterRx h c p v (.over, cvuFail h 3 p y)) = true := by decide +kernel

set_option maxRecDepth 100000 in
theorem wit_ArrivalOfRequests_4 :
    let h : Nat := 1; let p : Packet := sealPkt { dest := 1, src := 5, cls := 0, mode := 0, lenCells := 0, ptype := 3, extMask := 1, ext := [0x100, 0x40040000, 0x300, 0], payload := [], psn := 0, chan := 2, inc := 6 }; let m : HostView := { spans := [(0x100, [1, 2, 3, 4])] }; let c : Nat := 2; let bs : List Byte := [1, 2, 3, 4]; let s : State := { sOn with hs.ports := [(1, { st := .up })], hs.cqs := [(objKey 20 1 0, { active := true })], hs.chans := [(objKey 24 1 2, { st := .active, peer := 5, peerCh := 3, inc := 6, check := 4, cached := true, used := 1, t0 := 4, limit := 4, relaxed := true })], hs.bar := [(hostKey 1 0 0x20008, 0x100104), (hostKey 1 0 0x40010, 4)], hs.mrCache := [(objKey 24 1 3, [0x9F, 0, 0, 0, 0x10000, 0, 0, 0, 0, 0, 0, 0, 0, 0, 0, 0])] }; let r : State := (arrived 1 3 p s).1; let u : State := inc (trnCtr h 1) r; let w : State := (takeCore h c (meetCtx h c u)).1; let x : Chan := chanOf w h c; let v : View := viewOf m u; let d : Nat := (p.psn - x.expect).toNat; let y : State := w; let z : Chan := x; let a : State := (readRegion h (Packet.extW p 0 2) (violAddr p) (Packet.extF p 0 1 16 13) .remoteRead (chanWho z) v y).2
    (arrived h 3 p s = (r, true)) ∧ (c = p.chan.toNat) ∧ (u = inc (trnCtr h 1) r) ∧ ((chanOf u h c).cached = true) ∧ (v = viewOf m u) ∧ (w = (takeCore h c (meetCtx h c u)).1) ∧ (x = chanOf w h c) ∧ (p.inc = x.inc) ∧ (p.src = x.peer) ∧ (x.unrel = false) ∧ (x.st ≠ .error) ∧ (d = (p.psn - x.expect).toNat) ∧ (d < 2048) ∧ (executedAt x d = false) ∧ (x.busy.any (fun q => q.psn == p.psn) = false) ∧ (heldBack x d p = false) ∧ ((if d = 0 ∨ x.window then (w, true) else freeSlots (boleOf h) (objKey 24 h c) 1 w) = (y, true)) ∧ (aliveOk x d p = true) ∧ (z = chanOf y h c) ∧ (Packet.extF p 0 1 16 13 ≤ 4096) ∧ (Packet.extF p 0 1 16 13 = 0 ∨ violAddr p % 4096 + Packet.extF p 0 1 16 13 ≤ 4096) ∧ (checkOk z p = true) ∧ (readRegion h (Packet.extW p 0 2) (violAddr p) (Packet.extF p 0 1 16 13) .remoteRead (chanWho z) v y = (.ok bs, a)) ∧ quiet s (afterRx h c p v (.over, sendResp h c p 4 exAck [] bs (markDone h c d p (cvuGood h z a)))) = true := by decide +kernel

set_option maxRecDepth 100000 in
theorem wit_ArrivalOfRequests_5 :
    let h : Nat := 1; let p : Packet := sealPkt { dest := 1, src := 5, cls := 0, mode := 0, lenCells := 0, ptype := 3, extMask := 1, ext := [0x100, 0x40040000, 0x5000, 0], payload := [], psn := 0, chan := 2, inc := 6 }; let m : HostView := {}; let c : Nat := 2; let k : Nat := 1; let s : State := { sOn with hs.ports := [(1, { st := .up })], hs.cqs := [(objKey 20 1 0, { active := true })], hs.chans := [(objKey 24 1 2, { st := .active, peer := 5, peerCh := 3, inc := 6, check := 4, cached := true, used := 1, t0 := 4, limit := 4, relaxed := true })], hs.bar := [(hostKey 1 0 0x20008, 0x100104), (hostKey 1 0 0x40010, 4)], hs.mrCache := [(objKey 24 1 3, [0x9F, 0, 0, 0, 0x10000, 0, 0, 0, 0, 0, 0, 0, 0, 0, 0, 0])] }; let r : State := (arrived 1 3 p s).1; let u : State := inc (trnCtr h 1) r; let w : State := (takeCore h c (meetCtx h c u)).1; let x : Chan := chanOf w h c; let v : View := viewOf m u; let d : Nat := (p.psn - x.expect).toNat; let y : State := w; let z : Chan := x; let a : State := (readRegion h (Packet.extW p 0 2) (violAddr p) (Packet.extF p 0 1 16 13) .remoteRead (chanWho z) v y).2
    (arrived h 3 p s = (r, true)) ∧ (c = p.chan.toNat) ∧ (u = inc (trnCtr h 1) r) ∧ ((chanOf u h c).cached = true) ∧ (v = viewOf m u) ∧ (w = (takeCore h c (meetCtx h c u)).1) ∧ (x = chanOf w h c) ∧ (p.inc = x.inc) ∧ (p.src = x.peer) ∧ (x.unrel = false) ∧ (x.st ≠ .error) ∧ (d = (p.psn - x.expect).toNat) ∧ (d < 2048) ∧ (executedAt x d = false) ∧ (x.busy.any (fun q => q.psn == p.psn) = false) ∧ (heldBack x d p = false) ∧ ((if d = 0 ∨ x.window then (w, true) else freeSlots (boleOf h) (objKey 24 h c) 1 w) = (y, true)) ∧ (aliveOk x d p = true) ∧ (z = chanOf y h c) ∧ (Packet.extF p 0 1 16 13 ≤ 4096) ∧ (Packet.extF p 0 1 16 13 = 0 ∨ violAddr p % 4096 + Packet.extF p 0 1 16 13 ≤ 4096) ∧ (checkOk z p = true) ∧ (readRegion h (Packet.extW p 0 2) (violAddr p) (Packet.extF p 0 1 16 13) .remoteRead (chanWho z) v y = (.fail k, a)) ∧ quiet s (afterRx h c p v (.over, markRefused h c d p k (sendAck h c p.psn 0x10 k (violation h c p k a)))) = true := by decide +kernel

set_option maxRecDepth 100000 in
theorem wit_ArrivalOfRequests_6 :
    let h : Nat := 1; let p : Packet := sealPkt { dest := 1, src := 5, cls := 0, mode := 0, lenCells := 0, ptype := 3, extMask := 1, ext := [0x100, 0x40040000, 0x300, 0], payload := [], psn := 0, chan := 2, inc := 6 }; let m : HostView := {}; let c : Nat := 2; let s : State := { sOn with hs.ports := [(1, { st := .up })], hs.cqs := [(objKey 20 1 0, { active := true })], hs.chans := [(objKey 24 1 2, { st := .active, peer := 5, peerCh := 3, inc := 6, check := 4, cached := true, used := 1, t0 := 4, limit := 4, relaxed := true })], hs.bar := [(hostKey 1 0 0x20008, 0x100104), (hostKey 1 0 0x40010, 4)], hs.mrCache := [(objKey 24 1 3, [0x9F, 0, 0, 0, 0x10000, 0, 0, 0, 0, 0, 0, 0, 0, 0, 0, 0])] }; let r : State := (arrived 1 3 p s).1; let u : State := inc (trnCtr h 1) r; let w : State := (takeCore h c (meetCtx h c u)).1; let x : Chan := chanOf w h c; let v : View := viewOf m u; let d : Nat := (p.psn - x.expect).toNat; let y : State := w; let z : Chan := x; let n : Need := (match (readRegion h (Packet.extW p 0 2) (violAddr p) (Packet.extF p 0 1 16 13) .remoteRead (chanWho z) v y).1 with | .wait n => n | _ => .page 0 0 0); let a : State := (readRegion h (Packet.extW p 0 2) (violAddr p) (Packet.extF p 0 1 16 13) .remoteRead (chanWho z) v y).2
    (arrived h 3 p s = (r, true)) ∧ (c = p.chan.toNat) ∧ (u = inc (trnCtr h 1) r) ∧ ((chanOf u h c).cached = true) ∧ (v = viewOf m u) ∧ (w = (takeCore h c (meetCtx h c u)).1) ∧ (x = chanOf w h c) ∧ (p.inc = x.inc) ∧ (p.src = x.peer) ∧ (x.unrel = false) ∧ (x.st ≠ .error) ∧ (d = (p.psn - x.expect).toNat) ∧ (d < 2048) ∧ (executedAt x d = false) ∧ (x.busy.any (fun q => q.psn == p.psn) = false) ∧ (heldBack x d p = false) ∧ ((if d = 0 ∨ x.window then (w, true) else freeSlots (boleOf h) (objKey 24 h c) 1 w) = (y, true)) ∧ (aliveOk x d p = true) ∧ (z = chanOf y h c) ∧ (Packet.extF p 0 1 16 13 ≤ 4096) ∧ (Packet.extF p 0 1 16 13 = 0 ∨ violAddr p % 4096 + Packet.extF p 0 1 16 13 ≤ 4096) ∧ (checkOk z p = true) ∧ (readRegion h (Packet.extW p 0 2) (violAddr p) (Packet.extF p 0 1 16 13) .remoteRead (chanWho z) v y = (.wait n, a)) ∧ quiet s (rxWait h c p n a) = true := by decide +kernel

set_option maxRecDepth 100000 in
theorem wit_ArrivalOfRequests_7 :
    let h : Nat := 1; let p : Packet := sealPkt { dest := 1, src := 5, cls := 0, mode := 0, lenCells := 0, ptype := 3, extMask := 1, ext := [0x100, 0x40040000, 0x300, 0], payload := [], psn := 0, chan := 2, inc := 6 }; let m : HostView := { bad := [(0x100, 4)] }; let c : Nat := 2; let s : State := { sOn with hs.ports := [(1, { st := .up })], hs.cqs := [(objKey 20 1 0, { active := true })], hs.chans := [(objKey 24 1 2, { st := .active, peer := 5, peerCh := 3, inc := 6, check := 4, cached := true, used := 1, t0 := 4, limit := 4, relaxed := true })], hs.bar := [(hostKey 1 0 0x20008, 0x100104), (hostKey 1 0 0x40010, 4)], hs.mrCache := [(objKey 24 1 3, [0x9F, 0, 0, 0, 0x10000, 0, 0, 0, 0, 0, 0, 0, 0, 0, 0, 0])] }; let r : State := (arrived 1 3 p s).1; let u : State := inc (trnCtr h 1) r; let w : State := (takeCore h c (meetCtx h c u)).1; let x : Chan := chanOf w h c; let v : View := viewOf m u; let d : Nat := (p.psn - x.expect).toNat; let y : State := w; let z : Chan := x; let a : State := (readRegion h (Packet.extW p 0 2) (violAddr p) (Packet.extF p 0 1 16 13) .remoteRead (chanWho z) v y).2
    (arrived h 3 p s = (r, true)) ∧ (c = p.chan.toNat) ∧ (u = inc (trnCtr h 1) r) ∧ ((chanOf u h c).cached = true) ∧ (v = viewOf m u) ∧ (w = (takeCore h c (meetCtx h c u)).1) ∧ (x = chanOf w h c) ∧ (p.inc = x.inc) ∧ (p.src = x.peer) ∧ (x.unrel = false) ∧ (x.st ≠ .error) ∧ (d = (p.psn - x.expect).toNat) ∧ (d < 2048) ∧ (executedAt x d = false) ∧ (x.busy.any (fun q => q.psn == p.psn) = false) ∧ (heldBack x d p = false) ∧ ((if d = 0 ∨ x.window then (w, true) else freeSlots (boleOf h) (objKey 24 h c) 1 w) = (y, true)) ∧ (aliveOk x d p = true) ∧ (z = chanOf y h c) ∧ (Packet.extF p 0 1 16 13 ≤ 4096) ∧ (Packet.extF p 0 1 16 13 = 0 ∨ violAddr p % 4096 + Packet.extF p 0 1 16 13 ≤ 4096) ∧ (checkOk z p = true) ∧ (readRegion h (Packet.extW p 0 2) (violAddr p) (Packet.extF p 0 1 16 13) .remoteRead (chanWho z) v y = (.err, a)) ∧ quiet s (afterRx h c p v (.over, a)) = true := by decide +kernel

set_option maxRecDepth 100000 in
theorem wit_ArrivalOfRequests_8 :
    let h : Nat := 1; let p : Packet := sealPkt { dest := 1, src := 5, cls := 0, mode := 0, lenCells := 0, ptype := 5, extMask := 2, ext := [0x100, 0x40120000, 0x300, 0, 0, 0, 1, 0], payload := [], psn := 0, chan := 2, inc := 6 }; let m : HostView := {}; let c : Nat := 2; let g : Grant := { d := [0x9F, 0, 0, 0, 0x10000, 0, 0, 0, 0, 0, 0, 0, 0, 0, 0, 0], idx := 3, ps := [(0x100, 8, 0, { bus := 0, first := 0, pages := 1 })] }; let z0 : Nat := 8; let s : State := { sOn with hs.ports := [(1, { st := .up })], hs.cqs := [(objKey 20 1 0, { active := true })], hs.chans := [(objKey 24 1 2, { st := .active, peer := 5, peerCh := 3, inc := 6, check := 4, cached := true, used := 1, t0 := 4, limit := 4, relaxed := true })], hs.bar := [(hostKey 1 0 0x20008, 0x100104), (hostKey 1 0 0x40010, 4)], hs.mrCache := [(objKey 24 1 3, [0x9F, 0, 0, 0, 0x10000, 0, 0, 0, 0, 0, 0, 0, 0, 0, 0, 0])] }; let r : State := (arrived 1 5 p s).1; let u : State := inc (trnCtr h 1) r; let w : State := (takeCore h c (meetCtx h c u)).1; let x : Chan := chanOf w h c; let v : View := viewOf m u; let d : Nat := (p.psn - x.expect).toNat; let y : State := w; let z : Chan := x; let a : State := (access h (Packet.extW p 1 2) (violAddr p) z0 .remoteAtomic (chanWho z) v y).2; let n : Need := (match (readGrant h g true v a).1 with | .wait n => n | _ => .page 0 0 0); let b : State := (readGrant h g true v a).2
    (arrived h 5 p s = (r, true)) ∧ (c = p.chan.toNat) ∧ (u = inc (trnCtr h 1) r) ∧ ((chanOf u h c).cached = true) ∧ (v = viewOf m u) ∧ (w = (takeCore h c (meetCtx h c u)).1) ∧ (x = chanOf w h c) ∧ (p.inc = x.inc) ∧ (p.src = x.peer) ∧ (x.unrel = false) ∧ (x.st ≠ .error) ∧ (d = (p.psn - x.expect).toNat) ∧ (d < 2048) ∧ (executedAt x d = false) ∧ (x.busy.any (fun q => q.psn == p.psn) = false) ∧ (heldBack x d p = false) ∧ ((if d = 0 ∨ x.window then (w, true) else freeSlots (boleOf h) (objKey 24 h c) 1 w) = (y, true)) ∧ (aliveOk x d p = true) ∧ (z = chanOf y h c) ∧ (z0 = (if Packet.extF p 1 1 20 1 = 1 then 8 else 4)) ∧ (Packet.extF p 1 1 16 4 ≠ 0) ∧ (Packet.extF p 1 1 16 4 ≤ 10) ∧ (violAddr p % z0 = 0) ∧ (checkOk z p = true) ∧ (access h (Packet.extW p 1 2) (violAddr p) z0 .remoteAtomic (chanWho z) v y = (.ok g, a)) ∧ (readGrant h g true v a = (.wait n, b)) ∧ quiet s (rxWait h c p n b) = true := by decide +kernel

set_option maxRecDepth 100000 in
theorem wit_ArrivalOfRequests_9 :
    let h : Nat := 1; let p : Packet := sealPkt { dest := 1, src := 5, cls := 0, mode := 0, lenCells := 0, ptype := 3, extMask := 1, ext := [0x100, 0x50010000, 0x300, 0], payload := [], psn := 0, chan := 2, inc := 6 }; let m : HostView := {}; let c : Nat := 2; let s : State := { sOn with hs.ports := [(1, { st := .up })], hs.cqs := [(objKey 20 1 0, { active := true })], hs.chans := [(objKey 24 1 2, { st := .active, peer := 5, peerCh := 3, inc := 6, check := 4, cached := true, used := 1, t0 := 4, limit := 4, relaxed := true })], hs.bar := [(hostKey 1 0 0x20008, 0x100104), (hostKey 1 0 0x40010, 4)], hs.mrCache := [(objKey 24 1 3, [0x9F, 0, 0, 0, 0x10000, 0, 0, 0, 0, 0, 0, 0, 0, 0, 0, 0])] }; let r : State := (arrived 1 3 p s).1; let u : State := inc (trnCtr h 1) r; let w : State := (takeCore h c (meetCtx h c u)).1; let x : Chan := chanOf w h c; let v : View := viewOf m u; let d : Nat := (p.psn - x.expect).toNat; let y : State := w; let z : Chan := x
    (arrived h 3 p s = (r, true)) ∧ (c = p.chan.toNat) ∧ (u = inc (trnCtr h 1) r) ∧ ((chanOf u h c).cached = true) ∧ (v = viewOf m u) ∧ (w = (takeCore h c (meetCtx h c u)).1) ∧ (x = chanOf w h c) ∧ (p.inc = x.inc) ∧ (p.src = x.peer) ∧ (x.unrel = false) ∧ (x.st ≠ .error) ∧ (d = (p.psn - x.expect).toNat) ∧ (d < 2048) ∧ (executedAt x d = false) ∧ (x.busy.any (fun q => q.psn == p.psn) = false) ∧ (heldBack x d p = false) ∧ ((if d = 0 ∨ x.window then (w, true) else freeSlots (boleOf h) (objKey 24 h c) 1 w) = (y, true)) ∧ (aliveOk x d p = true) ∧ (z = chanOf y h c) ∧ (4096 < Packet.extF p 0 1 16 13 ∨ (Packet.extF p 0 1 16 13 ≠ 0 ∧ 4096 < violAddr p % 4096 + Packet.extF p 0 1 16 13)) ∧ quiet s (afterRx h c p v (.over, sendAck h c p.psn 0x12 0 y)) = true := by decide +kernel

set_option maxRecDepth 100000 in
theorem wit_ArrivalOfRequests_10 :
    let h : Nat := 1; let p : Packet := sealPkt { dest := 1, src := 5, cls := 0, mode := 0, lenCells := 0, ptype := 5, extMask := 2, ext := [0x100, 0x40120000, 0x300, 0, 0, 0, 1, 0], payload := [], psn := 0, chan := 2, inc := 6 }; let m : HostView := { spans := [(0x100, [0x41, 0, 0, 0, 0, 0, 0, 0])] }; let c : Nat := 2; let g : Grant := { d := [0x9F, 0, 0, 0, 0x10000, 0, 0, 0, 0, 0, 0, 0, 0, 0, 0, 0], idx := 3, ps := [(0x100, 8, 0, { bus := 0, first := 0, pages := 1 })] }; let bs : List Byte := [0x41, 0, 0, 0, 0, 0, 0, 0]; let z0 : Nat := 8; let n : Nat := 0x42; let s : State := { sOn with hs.ports := [(1, { st := .up })], hs.cqs := [(objKey 20 1 0, { active := true })], hs.chans := [(objKey 24 1 2, { st := .active, peer := 5, peerCh := 3, inc := 6, check := 4, cached := true, used := 1, t0 := 4, limit := 4, relaxed := true })], hs.bar := [(hostKey 1 0 0x20008, 0x100104), (hostKey 1 0 0x40010, 4)], hs.mrCache := [(objKey 24 1 3, [0x9F, 0, 0, 0, 0x10000, 0, 0, 0, 0, 0, 0, 0, 0, 0, 0, 0])] }; let r : State := (arrived 1 5 p s).1; let u : State := inc (trnCtr h 1) r; let w : State := (takeCore h c (meetCtx h c u)).1; let x : Chan := chanOf w h c; let v : View := viewOf m u; let d : Nat := (p.psn - x.expect).toNat; let y : State := w; let z : Chan := x; let a : State := (access h (Packet.extW p 1 2) (violAddr p) z0 .remoteAtomic (chanWho z) v y).2; let b : State := (readGrant h g true v a).2
    (arrived h 5 p s = (r, true)) ∧ (c = p.chan.toNat) ∧ (u = inc (trnCtr h 1) r) ∧ ((chanOf u h c).cached = true) ∧ (v = viewOf m u) ∧ (w = (takeCore h c (meetCtx h c u)).1) ∧ (x = chanOf w h c) ∧ (p.inc = x.inc) ∧ (p.src = x.peer) ∧ (x.unrel = false) ∧ (x.st ≠ .error) ∧ (d = (p.psn - x.expect).toNat) ∧ (d < 2048) ∧ (executedAt x d = false) ∧ (x.busy.any (fun q => q.psn == p.psn) = false) ∧ (heldBack x d p = false) ∧ ((if d = 0 ∨ x.window then (w, true) else freeSlots (boleOf h) (objKey 24 h c) 1 w) = (y, true)) ∧ (aliveOk x d p = true) ∧ (z = chanOf y h c) ∧ (z0 = (if Packet.extF p 1 1 20 1 = 1 then 8 else 4)) ∧ (Packet.extF p 1 1 16 4 ≠ 0) ∧ (Packet.extF p 1 1 16 4 ≤ 10) ∧ (violAddr p % z0 = 0) ∧ (checkOk z p = true) ∧ (access h (Packet.extW p 1 2) (violAddr p) z0 .remoteAtomic (chanWho z) v y = (.ok g, a)) ∧ (readGrant h g true v a = (.ok bs, b)) ∧ (atomicNew (Packet.extF p 1 1 16 4) z0 (leNat bs) ((Packet.extW p 1 4).toNat + 2 ^ 32 * (Packet.extW p 1 5).toNat) ((Packet.extW p 1 6).toNat + 2 ^ 32 * (Packet.extW p 1 7).toNat) = some n) ∧ quiet s (afterRx h c p v (.over, sendResp h c p 6 (exAck ||| exAtomic) (atomicRespExt p (BitVec.ofNat 64 (leNat bs))) [] (markDone h c d p (updChan h c (fun x => { x with atomics := keepAtomic (x.expect + 2048) p.psn (BitVec.ofNat 64 (leNat bs)) x.atomics }) (deliverAsd h p (writeGrant h g true (leBytes z0 n) (stopWait h (.chan c p.psn) (cvuGood h z b)))).1)))) = true := by decide +kernel

set_option maxRecDepth 100000 in
theorem wit_ArrivalOfRequests_11 :
    let h : Nat := 1; let p : Packet := sealPkt { dest := 1, src := 5, cls := 0, mode := 0, lenCells := 0, ptype := 5, extMask := 2, ext := [0x100, 0x40110000, 0x300, 0, 9, 0, 1, 0], payload := [], psn := 0, chan := 2, inc := 6 }; let m : HostView := { spans := [(0x100, [0x41, 0, 0, 0, 0, 0, 0, 0])] }; let c : Nat := 2; let g : Grant := { d := [0x9F, 0, 0, 0, 0x10000, 0, 0, 0, 0, 0, 0, 0, 0, 0, 0, 0], idx := 3, ps := [(0x100, 8, 0, { bus := 0, first := 0, pages := 1 })] }; let bs : List Byte := [0x41, 0, 0, 0, 0, 0, 0, 0]; let z0 : Nat := 8; let s : State := { sOn with hs.ports := [(1, { st := .up })], hs.cqs := [(objKey 20 1 0, { active := true })], hs.chans := [(objKey 24 1 2, { st := .active, peer := 5, peerCh := 3, inc := 6, check := 4, cached := true, used := 1, t0 := 4, limit := 4, relaxed := true })], hs.bar := [(hostKey 1 0 0x20008, 0x100104), (hostKey 1 0 0x40010, 4)], hs.mrCache := [(objKey 24 1 3, [0x9F, 0, 0, 0, 0x10000, 0, 0, 0, 0, 0, 0, 0, 0, 0, 0, 0])] }; let r : State := (arrived 1 5 p s).1; let u : State := inc (trnCtr h 1) r; let w : State := (takeCore h c (meetCtx h c u)).1; let x : Chan := chanOf w h c; let v : View := viewOf m u; let d : Nat := (p.psn - x.expect).toNat; let y : State := w; let z : Chan := x; let a : State := (access h (Packet.extW p 1 2) (violAddr p) z0 .remoteAtomic (chanWho z) v y).2; let b : State := (readGrant h g true v a).2
    (arrived h 5 p s = (r, true)) ∧ (c = p.chan.toNat) ∧ (u = inc (trnCtr h 1) r) ∧ ((chanOf u h c).cached = true) ∧ (v = viewOf m u) ∧ (w = (takeCore h c (meetCtx h c u)).1) ∧ (x = chanOf w h c) ∧ (p.inc = x.inc) ∧ (p.src = x.peer) ∧ (x.unrel = false) ∧ (x.st ≠ .error) ∧ (d = (p.psn - x.expect).toNat) ∧ (d < 2048) ∧ (executedAt x d = false) ∧ (x.busy.any (fun q => q.psn == p.psn) = false) ∧ (heldBack x d p = false) ∧ ((if d = 0 ∨ x.window then (w, true) else freeSlots (boleOf h) (objKey 24 h c) 1 w) = (y, true)) ∧ (aliveOk x d p = true) ∧ (z = chanOf y h c) ∧ (z0 = (if Packet.extF p 1 1 20 1 = 1 then 8 else 4)) ∧ (Packet.extF p 1 1 16 4 ≠ 0) ∧ (Packet.extF p 1 1 16 4 ≤ 10) ∧ (violAddr p % z0 = 0) ∧ (checkOk z p = true) ∧ (access h (Packet.extW p 1 2) (violAddr p) z0 .remoteAtomic (chanWho z) v y = (.ok g, a)) ∧ (readGrant h g true v a = (.ok bs, b)) ∧ (atomicNew (Packet.extF p 1 1 16 4) z0 (leNat bs) ((Packet.extW p 1 4).toNat + 2 ^ 32 * (Packet.extW p 1 5).toNat) ((Packet.extW p 1 6).toNat + 2 ^ 32 * (Packet.extW p 1 7).toNat) = none) ∧ quiet s (afterRx h c p v (.over, sendResp h c p 6 (exAck ||| exAtomic) (atomicRespExt p (BitVec.ofNat 64 (leNat bs))) [] (markDone h c d p (updChan h c (fun x => { x with atomics := keepAtomic (x.expect + 2048) p.psn (BitVec.ofNat 64 (leNat bs)) x.atomics }) (deliverAsd h p (cvuGood h z b)).1)))) = true := by decide +kernel

set_option maxRecDepth 100000 in
theorem wit_ArrivalOfRequests_12 :
    let h : Nat := 1; let p : Packet := sealPkt { dest := 1, src := 5, cls := 0, mode := 0, lenCells := 0, ptype := 5, extMask := 2, ext := [0x100, 0x40120000, 0x5000, 0, 0, 0, 1, 0], payload := [], psn := 0, chan := 2, inc := 6 }; let m : HostView := {}; let c : Nat := 2; let z0 : Nat := 8; let k : Nat := 1; let s : State := { sOn with hs.ports := [(1, { st := .up })], hs.cqs := [(objKey 20 1 0, { active := true })], hs.chans := [(objKey 24 1 2, { st := .active, peer := 5, peerCh := 3, inc := 6, check := 4, cached := true, used := 1, t0 := 4, limit := 4, relaxed := true })], hs.bar := [(hostKey 1 0 0x20008, 0x100104), (hostKey 1 0 0x40010, 4)], hs.mrCache := [(objKey 24 1 3, [0x9F, 0, 0, 0, 0x10000, 0, 0, 0, 0, 0, 0, 0, 0, 0, 0, 0])] }; let r : State := (arrived 1 5 p s).1; let u : State := inc (trnCtr h 1) r; let w : State := (takeCore h c (meetCtx h c u)).1; let x : Chan := chanOf w h c; let v : View := viewOf m u; let d : Nat := (p.psn - x.expect).toNat; let y : State := w; let z : Chan := x; let a : State := (access h (Packet.extW p 1 2) (violAddr p) z0 .remoteAtomic (chanWho z) v y).2
    (arrived h 5 p s = (r, true)) ∧ (c = p.chan.toNat) ∧ (u = inc (trnCtr h 1) r) ∧ ((chanOf u h c).cached = true) ∧ (v = viewOf m u) ∧ (w = (takeCore h c (meetCtx h c u)).1) ∧ (x = chanOf w h c) ∧ (p.inc = x.inc) ∧ (p.src = x.peer) ∧ (x.unrel = false) ∧ (x.st ≠ .error) ∧ (d = (p.psn - x.expect).toNat) ∧ (d < 2048) ∧ (executedAt x d = false) ∧ (x.busy.any (fun q => q.psn == p.psn) = false) ∧ (heldBack x d p = false) ∧ ((if d = 0 ∨ x.window then (w, true) else freeSlots (boleOf h) (objKey 24 h c) 1 w) = (y, true)) ∧ (aliveOk x d p = true) ∧ (z = chanOf y h c) ∧ (z0 = (if Packet.extF p 1 1 20 1 = 1 then 8 else 4)) ∧ (Packet.extF p 1 1 16 4 ≠ 0) ∧ (Packet.extF p 1 1 16 4 ≤ 10) ∧ (violAddr p % z0 = 0) ∧ (checkOk z p = true) ∧ (access h (Packet.extW p 1 2) (violAddr p) z0 .remoteAtomic (chanWho z) v y = (.fail k, a)) ∧ quiet s (afterRx h c p v (.over, markRefused h c d p k (sendAck h c p.psn 0x10 k (violation h c p k a)))) = true := by decide +kernel

set_option maxRecDepth 100000 in
theorem wit_ArrivalOfRequests_13 :
    let h : Nat := 1; let p : Packet := sealPkt { dest := 1, src := 5, cls := 0, mode := 0, lenCells := 0, ptype := 5, extMask := 2, ext := [0x104, 0x40120000, 0x300, 0, 0, 0, 1, 0], payload := [], psn := 0, chan := 2, inc := 6 }; let m : HostView := {}; let c : Nat := 2; let z0 : Nat := 8; let s : State := { sOn with hs.ports := [(1, { st := .up })], hs.cqs := [(objKey 20 1 0, { active := true })], hs.chans := [(objKey 24 1 2, { st := .active, peer := 5, peerCh := 3, inc := 6, check := 4, cached := true, used := 1, t0 := 4, limit := 4, relaxed := true })], hs.bar := [(hostKey 1 0 0x20008, 0x100104), (hostKey 1 0 0x40010, 4)], hs.mrCache := [(objKey 24 1 3, [0x9F, 0, 0, 0, 0x10000, 0, 0, 0, 0, 0, 0, 0, 0, 0, 0, 0])] }; let r : State := (arrived 1 5 p s).1; let u : State := inc (trnCtr h 1) r; let w : State := (takeCore h c (meetCtx h c u)).1; let x : Chan := chanOf w h c; let v : View := viewOf m u; let d : Nat := (p.psn - x.expect).toNat; let y : State := w; let z : Chan := x
    (arrived h 5 p s = (r, true)) ∧ (c = p.chan.toNat) ∧ (u = inc (trnCtr h 1) r) ∧ ((chanOf u h c).cached = true) ∧ (v = viewOf m u) ∧ (w = (takeCore h c (meetCtx h c u)).1) ∧ (x = chanOf w h c) ∧ (p.inc = x.inc) ∧ (p.src = x.peer) ∧ (x.unrel = false) ∧ (x.st ≠ .error) ∧ (d = (p.psn - x.expect).toNat) ∧ (d < 2048) ∧ (executedAt x d = false) ∧ (x.busy.any (fun q => q.psn == p.psn) = false) ∧ (heldBack x d p = false) ∧ ((if d = 0 ∨ x.window then (w, true) else freeSlots (boleOf h) (objKey 24 h c) 1 w) = (y, true)) ∧ (aliveOk x d p = true) ∧ (z = chanOf y h c) ∧ (z0 = (if Packet.extF p 1 1 20 1 = 1 then 8 else 4)) ∧ (Packet.extF p 1 1 16 4 = 0 ∨ 10 < Packet.extF p 1 1 16 4 ∨ violAddr p % z0 ≠ 0) ∧ quiet s (afterRx h c p v (.over, sendAck h c p.psn 0x12 0 y)) = true := by decide +kernel

set_option maxRecDepth 100000 in
theorem wit_ArrivalOfRequests_14 :
    let h : Nat := 1; let p : Packet := sealPkt { dest := 1, src := 5, cls := 0, mode := 0, lenCells := 0, ptype := 5, extMask := 2, ext := [0x100, 0x40120000, 0x300, 0, 0, 0, 1, 0], payload := [], psn := 0, chan := 2, inc := 6 }; let m : HostView := {}; let c : Nat := 2; let s : State := { sOn with hs.ports := [(1, { st := .up })], hs.cqs := [(objKey 20 1 0, { active := true })], hs.chans := [(objKey 24 1 2, { st := .active, peer := 5, peerCh := 3, inc := 6, check := 4, cached := true, used := 1, t0 := 4, limit := 4, relaxed := true, expect := 1 })], hs.bar := [(hostKey 1 0 0x20008, 0x100104), (hostKey 1 0 0x40010, 4)], hs.mrCache := [(objKey 24 1 3, [0x9F, 0, 0, 0, 0x10000, 0, 0, 0, 0, 0, 0, 0, 0, 0, 0, 0])] }; let r : State := (arrived 1 5 p s).1; let u : State := inc (trnCtr h 1) r; let w : State := (takeCore h c (meetCtx h c u)).1; let x : Chan := chanOf w h c; let v : View := viewOf m u
    (arrived h 5 p s = (r, true)) ∧ (c = p.chan.toNat) ∧ (u = inc (trnCtr h 1) r) ∧ ((chanOf u h c).cached = true) ∧ (v = viewOf m u) ∧ (w = (takeCore h c (meetCtx h c u)).1) ∧ (x = chanOf w h c) ∧ (p.inc = x.inc) ∧ (p.src = x.peer) ∧ (x.unrel = false) ∧ (x.st ≠ .error) ∧ (2 ^ 31 ≤ (p.psn - x.expect).toNat ∨ ((p.psn - x.expect).toNat < 2048 ∧ executedAt x (p.psn - x.expect).toNat = true)) ∧ (x.refused.all (fun e => e.1 != p.psn) = true) ∧ (x.olds.contains p.psn = false) ∧ (x.atomics.find? (fun a => a.1 == p.psn) = none) ∧ quiet s (afterRx h c p v (.over, inc (trnCtr h 20) (inc (trnCtr h 6) w))) = true := by decide +kernel

set_option maxRecDepth 100000 in
theorem wit_ArrivalOfRequests_15 :
    let h : Nat := 1; let p : Packet := sealPkt { dest := 1, src := 5, cls := 0, mode := 0, lenCells := 0, ptype := 5, extMask := 2, ext := [0x100, 0x40120000, 0x300, 0, 0, 0, 1, 0], payload := [], psn := 0, chan := 2, inc := 6 }; let m : HostView := {}; let c : Nat := 2; let a : Word × BitVec 64 := (0, 7); let s : State := { sOn with hs.ports := [(1, { st := .up })], hs.cqs := [(objKey 20 1 0, { active := true })], hs.chans := [(objKey 24 1 2, { st := .active, peer := 5, peerCh := 3, inc := 6, check := 4, cached := true, used := 1, t0 := 4, limit := 4, relaxed := true, expect := 1, atomics := [(0, 7)] })], hs.bar := [(hostKey 1 0 0x20008, 0x100104), (hostKey 1 0 0x40010, 4)], hs.mrCache := [(objKey 24 1 3, [0x9F, 0, 0, 0, 0x10000, 0, 0, 0, 0, 0, 0, 0, 0, 0, 0, 0])] }; let r : State := (arrived 1 5 p s).1; let u : State := inc (trnCtr h 1) r; let w : State := (takeCore h c (meetCtx h c u)).1; let x : Chan := chanOf w h c; let v : View := viewOf m u
    (arrived h 5 p s = (r, true)) ∧ (c = p.chan.toNat) ∧ (u = inc (trnCtr h 1) r) ∧ ((chanOf u h c).cached = true) ∧ (v = viewOf m u) ∧ (w = (takeCore h c (meetCtx h c u)).1) ∧ (x = chanOf w h c) ∧ (p.inc = x.inc) ∧ (p.src = x.peer) ∧ (x.unrel = false) ∧ (x.st ≠ .error) ∧ (2 ^ 31 ≤ (p.psn - x.expect).toNat ∨ ((p.psn - x.expect).toNat < 2048 ∧ executedAt x (p.psn - x.expect).toNat = true)) ∧ (x.refused.all (fun e => e.1 != p.psn) = true) ∧ (x.olds.contains p.psn = false) ∧ (x.atomics.find? (fun a => a.1 == p.psn) = some a) ∧ quiet s (afterRx h c p v (.over, sendResp h c p 6 (exAck ||| exAtomic) (atomicRespExt p a.2) [] (inc (trnCtr h 6) w))) = true := by decide +kernel

set_option maxRecDepth 100000 in
theorem wit_ArrivalOfRequests_16 :
    let h : Nat := 1; let p : Packet := sealPkt { dest := 1, src := 5, cls := 0, mode := 0, lenCells := 0, ptype := 3, extMask := 1, ext := [0x100, 0x40040000, 0x300, 0], payload := [], psn := 0, chan := 2, inc := 6 }; let m : HostView := { spans := [(0x100, [1, 2, 3, 4])] }; let c : Nat := 2; let ty : Byte := 4; let mask : Byte := 4; let ext : List Word := []; let bs : List Byte := [1, 2, 3, 4]; let s : State := { sOn with hs.ports := [(1, { st := .up })], hs.cqs := [(objKey 20 1 0, { active := true })], hs.chans := [(objKey 24 1 2, { st := .active, peer := 5, peerCh := 3, inc := 6, check := 4, cached := true, used := 1, t0 := 4, limit := 4, relaxed := true, expect := 1 })], hs.bar := [(hostKey 1 0 0x20008, 0x100104), (hostKey 1 0 0x40010, 4)], hs.mrCache := [(objKey 24 1 3, [0x9F, 0, 0, 0, 0x10000, 0, 0, 0, 0, 0, 0, 0, 0, 0, 0, 0])] }; let r : State := (arrived 1 3 p s).1; let u : State := inc (trnCtr h 1) r; let w : State := (takeCore h c (meetCtx h c u)).1; let x : Chan := chanOf w h c; let v : View := viewOf m u; let y : State := (execReadRx h c p v (inc (trnCtr h 6) w)).2
    (arrived h 3 p s = (r, true)) ∧ (c = p.chan.toNat) ∧ (u = inc (trnCtr h 1) r) ∧ ((chanOf u h c).cached = true) ∧ (v = viewOf m u) ∧ (w = (takeCore h c (meetCtx h c u)).1) ∧ (x = chanOf w h c) ∧ (p.inc = x.inc) ∧ (p.src = x.peer) ∧ (x.unrel = false) ∧ (x.st ≠ .error) ∧ (2 ^ 31 ≤ (p.psn - x.expect).toNat ∨ ((p.psn - x.expect).toNat < 2048 ∧ executedAt x (p.psn - x.expect).toNat = true)) ∧ (x.refused.all (fun e => e.1 != p.psn) = true) ∧ (x.olds.contains p.psn = false) ∧ (execReadRx h c p v (inc (trnCtr h 6) w) = (.resp ty mask ext bs, y)) ∧ quiet s (afterRx h c p v (.over, sendResp h c p ty mask ext bs y)) = true := by decide +kernel

set_option maxRecDepth 100000 in
theorem wit_ArrivalOfRequests_17 :
    let h : Nat := 1; let p : Packet := sealPkt { dest := 1, src := 5, cls := 0, mode := 0, lenCells := 0, ptype := 2, extMask := 1, ext := [0, 0x60000000, 77, 0], payload := [], psn := 0, chan := 2, inc := 6 }; let m : HostView := {}; let s : State := sOn; let r : State := (arrived 1 2 p s).1
    (arrived h 2 p s = (r, false)) ∧ quiet s (r) = true := by decide +kernel

set_option maxRecDepth 100000 in
theorem wit_ArrivalOfRequests_18 :
    let h : Nat := 1; let p : Packet := sealPkt { dest := 1, src := 5, cls := 0, mode := 0, lenCells := 0, ptype := 2, extMask := 1, ext := [0, 0x60000000, 77, 0], payload := [], psn := 0, chan := 2, inc := 6 }; let m : HostView := {}; let c : Nat := 2; let s : State := { sOn with hs.ports := [(1, { st := .up })], hs.cqs := [(objKey 20 1 0, { active := true })], hs.chans := [(objKey 24 1 2, { st := .active, peer := 5, peerCh := 3, inc := 6, check := 4, cached := false, used := 1, t0 := 4, limit := 4, relaxed := true })], hs.bar := [(hostKey 1 0 0x20008, 0x100104), (hostKey 1 0 0x40010, 4)], hs.mrCache := [(objKey 24 1 3, [0x9F, 0, 0, 0, 0x10000, 0, 0, 0, 0, 0, 0, 0, 0, 0, 0, 0])] }; let r : State := (arrived 1 2 p s).1
    (arrived h 2 p s = (r, true)) ∧ (c = p.chan.toNat) ∧ ((chanOf (inc (trnCtr h 1) r) h c).cached = false) ∧ quiet s (fetchCtx h c (park h c p (inc (trnCtr h 1) r))) = true := by decide +kernel

set_option maxRecDepth 100000 in
theorem wit_ArrivalOfRequests_19 :
    let h : Nat := 1; let p : Packet := sealPkt { dest := 1, src := 5, cls := 0, mode := 0, lenCells := 0, ptype := 2, extMask := 1, ext := [0, 0x60000000, 77, 0], payload := [], psn := 0, chan := 2, inc := 7 }; let m : HostView := {}; let c : Nat := 2; let s : State := { sOn with hs.ports := [(1, { st := .up })], hs.cqs := [(objKey 20 1 0, { active := true })], hs.chans := [(objKey 24 1 2, { st := .active, peer := 5, peerCh := 3, inc := 6, check := 4, cached := true, used := 1, t0 := 4, limit := 4, relaxed := true })], hs.bar := [(hostKey 1 0 0x20008, 0x100104), (hostKey 1 0 0x40010, 4)], hs.mrCache := [(objKey 24 1 3, [0x9F, 0, 0, 0, 0x10000, 0, 0, 0, 0, 0, 0, 0, 0, 0, 0, 0])] }; let r : State := (arrived 1 2 p s).1; let u : State := inc (trnCtr h 1) r; let w : State := (takeCore h c (meetCtx h c u)).1; let x : Chan := chanOf w h c; let v : View := viewOf m u
    (arrived h 2 p s = (r, true)) ∧ (c = p.chan.toNat) ∧ (u = inc (trnCtr h 1) r) ∧ ((chanOf u h c).cached = true) ∧ (v = viewOf m u) ∧ (w = (takeCore h c (meetCtx h c u)).1) ∧ (x = chanOf w h c) ∧ (p.inc ≠ x.inc) ∧ quiet s (afterRx h c p v (.over, trnStale h 7 w)) = true := by decide +kernel

set_option maxRecDepth 100000 in
theorem wit_ArrivalOfRequests_20 :
    let h : Nat := 1; let p : Packet := sealPkt { dest := 1, src := 9, cls := 0, mode := 0, lenCells := 0, ptype := 2, extMask := 1, ext := [0, 0x60000000, 77, 0], payload := [], psn := 0, chan := 2, inc := 6 }; let m : HostView := {}; let c : Nat := 2; let s : State := { sOn with hs.ports := [(1, { st := .up })], hs.cqs := [(objKey 20 1 0, { active := true })], hs.chans := [(objKey 24 1 2, { st := .active, peer := 5, peerCh := 3, inc := 6, check := 4, cached := true, used := 1, t0 := 4, limit := 4, relaxed := true })], hs.bar := [(hostKey 1 0 0x20008, 0x100104), (hostKey 1 0 0x40010, 4)], hs.mrCache := [(objKey 24 1 3, [0x9F, 0, 0, 0, 0x10000, 0, 0, 0, 0, 0, 0, 0, 0, 0, 0, 0])] }; let r : State := (arrived 1 2 p s).1; let u : State := inc (trnCtr h 1) r; let w : State := (takeCore h c (meetCtx h c u)).1; let x : Chan := chanOf w h c; let v : View := viewOf m u
    (arrived h 2 p s = (r, true)) ∧ (c = p.chan.toNat) ∧ (u = inc (trnCtr h 1) r) ∧ ((chanOf u h c).cached = true) ∧ (v = viewOf m u) ∧ (w = (takeCore h c (meetCtx h c u)).1) ∧ (x = chanOf w h c) ∧ (p.inc = x.inc) ∧ (p.src ≠ x.peer) ∧ quiet s (afterRx h c p v (.over, trnStale h 8 w)) = true := by decide +kernel

set_option maxRecDepth 100000 in
theorem wit_ArrivalOfRequests_21 :
    let h : Nat := 1; let p : Packet := sealPkt { dest := 1, src := 5, cls := 0, mode := 0, lenCells := 0, ptype := 2, extMask := 1, ext := [0, 0x60000000, 77, 0], payload := [], psn := 0, chan := 2, inc := 6 }; let m : HostView := {}; let c : Nat := 2; let s : State := { sOn with hs.ports := [(1, { st := .up })], hs.cqs := [(objKey 20 1 0, { active := true })], hs.chans := [(objKey 24 1 2, { st := .error, peer := 5, peerCh := 3, inc := 6, check := 4, cached := true, used := 1, t0 := 4, limit := 4, relaxed := true })], hs.bar := [(hostKey 1 0 0x20008, 0x100104), (hostKey 1 0 0x40010, 4)], hs.mrCache := [(objKey 24 1 3, [0x9F, 0, 0, 0, 0x10000, 0, 0, 0, 0, 0, 0, 0, 0, 0, 0, 0])] }; let r : State := (arrived 1 2 p s).1; let u : State := inc (trnCtr h 1) r; let w : State := (takeCore h c (meetCtx h c u)).1; let x : Chan := chanOf w h c; let v : View := viewOf m u
    (arrived h 2 p s = (r, true)) ∧ (c = p.chan.toNat) ∧ (u = inc (trnCtr h 1) r) ∧ ((chanOf u h c).cached = true) ∧ (v = viewOf m u) ∧ (w = (takeCore h c (meetCtx h c u)).1) ∧ (x = chanOf w h c) ∧ (p.inc = x.inc) ∧ (p.src = x.peer) ∧ (x.unrel = false) ∧ (x.st = .error) ∧ quiet s (afterRx h c p v (.over, sendAck h c p.psn 0x11 0 w)) = true := by decide +kernel

set_option maxRecDepth 100000 in
theorem wit_ArrivalOfRequests_22 :
    let h : Nat := 1; let p : Packet := sealPkt { dest := 1, src := 5, cls := 0, mode := 0, lenCells := 0, ptype := 2, extMask := 1, ext := [0, 0x60000000, 77, 0], payload := [], psn := 2048, chan := 2, inc := 6 }; let m : HostView := {}; let c : Nat := 2; let s : State := { sOn with hs.ports := [(1, { st := .up })], hs.cqs := [(objKey 20 1 0, { active := true })], hs.chans := [(objKey 24 1 2, { st := .active, peer := 5, peerCh := 3, inc := 6, check := 4, cached := true, used := 1, t0 := 4, limit := 4, relaxed := true })], hs.bar := [(hostKey 1 0 0x20008, 0x100104), (hostKey 1 0 0x40010, 4)], hs.mrCache := [(objKey 24 1 3, [0x9F, 0, 0, 0, 0x10000, 0, 0, 0, 0, 0, 0, 0, 0, 0, 0, 0])] }; let r : State := (arrived 1 2 p s).1; let u : State := inc (trnCtr h 1) r; let w : State := (takeCore h c (meetCtx h c u)).1; let x : Chan := chanOf w h c; let v : View := viewOf m u
    (arrived h 2 p s = (r, true)) ∧ (c = p.chan.toNat) ∧ (u = inc (trnCtr h 1) r) ∧ ((chanOf u h c).cached = true) ∧ (v = viewOf m u) ∧ (w = (takeCore h c (meetCtx h c u)).1) ∧ (x = chanOf w h c) ∧ (p.inc = x.inc) ∧ (p.src = x.peer) ∧ (x.unrel = false) ∧ (x.st ≠ .error) ∧ (2048 ≤ (p.psn - x.expect).toNat) ∧ ((p.psn - x.expect).toNat < 2 ^ 31) ∧ quiet s (afterRx h c p v (.over, trnStale h 9 w)) = true := by decide +kernel

set_option maxRecDepth 100000 in
theorem wit_ArrivalOfRequests_23 :
    let h : Nat := 1; let p : Packet := sealPkt { dest := 1, src := 5, cls := 0, mode := 0, lenCells := 0, ptype := 2, extMask := 1, ext := [0, 0x60000000, 77, 0], payload := [], psn := 0, chan := 2, inc := 6 }; let m : HostView := {}; let c : Nat := 2; let s : State := { sOn with hs.ports := [(1, { st := .up })], hs.cqs := [(objKey 20 1 0, { active := true })], hs.chans := [(objKey 24 1 2, { st := .active, peer := 5, peerCh := 3, inc := 6, check := 4, cached := true, used := 1, t0 := 4, limit := 4, relaxed := true, busy := [sealPkt { dest := 1, src := 5, cls := 0, mode := 0, lenCells := 0, ptype := 2, extMask := 1, ext := [0, 0x60000000, 77, 0], payload := [], psn := 0, chan := 2, inc := 6 }] })], hs.bar := [(hostKey 1 0 0x20008, 0x100104), (hostKey 1 0 0x40010, 4)], hs.mrCache := [(objKey 24 1 3, [0x9F, 0, 0, 0, 0x10000, 0, 0, 0, 0, 0, 0, 0, 0, 0, 0, 0])] }; let r : State := (arrived 1 2 p s).1; let u : State := inc (trnCtr h 1) r; let w : State := (takeCore h c (meetCtx h c u)).1; let x : Chan := chanOf w h c; let v : View := viewOf m u; let d : Nat := (p.psn - x.expect).toNat
    (arrived h 2 p s = (r, true)) ∧ (c = p.chan.toNat) ∧ (u = inc (trnCtr h 1) r) ∧ ((chanOf u h c).cached = true) ∧ (v = viewOf m u) ∧ (w = (takeCore h c (meetCtx h c u)).1) ∧ (x = chanOf w h c) ∧ (p.inc = x.inc) ∧ (p.src = x.peer) ∧ (x.unrel = false) ∧ (x.st ≠ .error) ∧ (d = (p.psn - x.expect).toNat) ∧ (d < 2048) ∧ (executedAt x d = false) ∧ (x.busy.any (fun q => q.psn == p.psn) = true) ∧ quiet s (afterRx h c p v (.over, inc (trnCtr h 6) w)) = true := by decide +kernel

set_option maxRecDepth 100000 in
theorem wit_ArrivalOfRequests_24 :
    let h : Nat := 1; let p : Packet := sealPkt { dest := 1, src := 5, cls := 0, mode := 0, lenCells := 0, ptype := 2, extMask := 1, ext := [0, 0x60000000, 77, 0], payload := [], psn := 1, chan := 2, inc := 6 }; let m : HostView := {}; let c : Nat := 2; let s : State := { sOn with hs.ports := [(1, { st := .up })], hs.cqs := [(objKey 20 1 0, { active := true })], hs.chans := [(objKey 24 1 2, { st := .active, peer := 5, peerCh := 3, inc := 6, check := 4, cached := true, used := 1, t0 := 4, limit := 4, relaxed := false })], hs.bar := [(hostKey 1 0 0x20008, 0x100104), (hostKey 1 0 0x40010, 4)], hs.mrCache := [(objKey 24 1 3, [0x9F, 0, 0, 0, 0x10000, 0, 0, 0, 0, 0, 0, 0, 0, 0, 0, 0])] }; let r : State := (arrived 1 2 p s).1; let u : State := inc (trnCtr h 1) r; let w : State := (takeCore h c (meetCtx h c u)).1; let x : Chan := chanOf w h c; let v : View := viewOf m u; let d : Nat := (p.psn - x.expect).toNat
    (arrived h 2 p s = (r, true)) ∧ (c = p.chan.toNat) ∧ (u = inc (trnCtr h 1) r) ∧ ((chanOf u h c).cached = true) ∧ (v = viewOf m u) ∧ (w = (takeCore h c (meetCtx h c u)).1) ∧ (x = chanOf w h c) ∧ (p.inc = x.inc) ∧ (p.src = x.peer) ∧ (x.unrel = false) ∧ (x.st ≠ .error) ∧ (d = (p.psn - x.expect).toNat) ∧ (d < 2048) ∧ (executedAt x d = false) ∧ (x.busy.any (fun q => q.psn == p.psn) = false) ∧ (heldBack x d p = true) ∧ quiet s (park h c p w) = true := by decide +kernel

set_option maxRecDepth 100000 in
theorem wit_ArrivalOfRequests_25 :
    let h : Nat := 1; let p : Packet := sealPkt { dest := 1, src := 5, cls := 0, mode := 0, lenCells := 0, ptype := 2, extMask := 1, ext := [0, 0x60000000, 77, 0], payload := [], psn := 0, chan := 2, inc := 6 }; let m : HostView := {}; let c : Nat := 2; let s : State := { sOn with hs.ports := [(1, { st := .up })], hs.cqs := [(objKey 20 1 0, { active := true })], hs.chans := [(objKey 24 1 2, { st := .active, peer := 5, peerCh := 3, inc := 6, check := 4, cached := true, used := 1, t0 := 4, limit := 4, relaxed := true, rxMsn := 1 })], hs.bar := [(hostKey 1 0 0x20008, 0x100104), (hostKey 1 0 0x40010, 4)], hs.mrCache := [(objKey 24 1 3, [0x9F, 0, 0, 0, 0x10000, 0, 0, 0, 0, 0, 0, 0, 0, 0, 0, 0])] }; let r : State := (arrived 1 2 p s).1; let u : State := inc (trnCtr h 1) r; let w : State := (takeCore h c (meetCtx h c u)).1; let x : Chan := chanOf w h c; let v : View := viewOf m u; let d : Nat := (p.psn - x.expect).toNat; let y : State := w
    (arrived h 2 p s = (r, true)) ∧ (c = p.chan.toNat) ∧ (u = inc (trnCtr h 1) r) ∧ ((chanOf u h c).cached = true) ∧ (v = viewOf m u) ∧ (w = (takeCore h c (meetCtx h c u)).1) ∧ (x = chanOf w h c) ∧ (p.inc = x.inc) ∧ (p.src = x.peer) ∧ (x.unrel = false) ∧ (x.st ≠ .error) ∧ (d = (p.psn - x.expect).toNat) ∧ (d < 2048) ∧ (executedAt x d = false) ∧ (x.busy.any (fun q => q.psn == p.psn) = false) ∧ (heldBack x d p = false) ∧ ((if d = 0 ∨ x.window then (w, true) else freeSlots (boleOf h) (objKey 24 h c) 1 w) = (y, true)) ∧ (aliveOk x d p = false) ∧ quiet s (afterRx h c p v (.over, cvuFail h 4 p y)) = true := by decide +kernel

set_option maxRecDepth 100000 in
theorem wit_ArrivalOfRequests_26 :
    let h : Nat := 1; let p : Packet := sealPkt { dest := 1, src := 5, cls := 0, mode := 0, lenCells := 0, ptype := 2, extMask := 1, ext := [0, 0x60000000, 77, 0], payload := [], psn := 0, chan := 2, inc := 6 }; let m : HostView := {}; let c : Nat := 2; let k : Nat := 5; let s : State := { sOn with hs.ports := [(1, { st := .up })], hs.cqs := [(objKey 20 1 0, { active := true })], hs.chans := [(objKey 24 1 2, { st := .active, peer := 5, peerCh := 3, inc := 6, check := 4, cached := true, used := 1, t0 := 4, limit := 4, relaxed := true, expect := 1, refused := some (0, 5) })], hs.bar := [(hostKey 1 0 0x20008, 0x100104), (hostKey 1 0 0x40010, 4)], hs.mrCache := [(objKey 24 1 3, [0x9F, 0, 0, 0, 0x10000, 0, 0, 0, 0, 0, 0, 0, 0, 0, 0, 0])] }; let r : State := (arrived 1 2 p s).1; let u : State := inc (trnCtr h 1) r; let w : State := (takeCore h c (meetCtx h c u)).1; let x : Chan := chanOf w h c; let v : View := viewOf m u
    (arrived h 2 p s = (r, true)) ∧ (c = p.chan.toNat) ∧ (u = inc (trnCtr h 1) r) ∧ ((chanOf u h c).cached = true) ∧ (v = viewOf m u) ∧ (w = (takeCore h c (meetCtx h c u)).1) ∧ (x = chanOf w h c) ∧ (p.inc = x.inc) ∧ (p.src = x.peer) ∧ (x.unrel = false) ∧ (x.st ≠ .error) ∧ (2 ^ 31 ≤ (p.psn - x.expect).toNat ∨ ((p.psn - x.expect).toNat < 2048 ∧ executedAt x (p.psn - x.expect).toNat = true)) ∧ (x.refused = some (p.psn, k)) ∧ quiet s (afterRx h c p v (.over, sendAck h c p.psn 0x10 k (inc (trnCtr h 6) w))) = true := by decide +kernel

set_option maxRecDepth 100000 in
theorem wit_ArrivalOfRequests_27 :
    let h : Nat := 1; let p : Packet := sealPkt { dest := 1, src := 5, cls := 0, mode := 0, lenCells := 0, ptype := 2, extMask := 1, ext := [0, 0x60000000, 77, 0], payload := [], psn := 0, chan := 2, inc := 6 }; let m : HostView := {}; let c : Nat := 2; let s : State := { sOn with hs.ports := [(1, { st := .up })], hs.cqs := [(objKey 20 1 0, { active := true })], hs.chans := [(objKey 24 1 2, { st := .active, peer := 5, peerCh := 3, inc := 6, check := 4, cached := true, used := 1, t0 := 4, limit := 4, relaxed := true, expect := 3, refused := some (1, 5), olds := [0] })], hs.bar := [(hostKey 1 0 0x20008, 0x100104), (hostKey 1 0 0x40010, 4)], hs.mrCache := [(objKey 24 1 3, [0x9F, 0, 0, 0, 0x10000, 0, 0, 0, 0, 0, 0, 0, 0, 0, 0, 0])] }; let r : State := (arrived 1 2 p s).1; let u : State := inc (trnCtr h 1) r; let w : State := (takeCore h c (meetCtx h c u)).1; let x : Chan := chanOf w h c; let v : View := viewOf m u
    (arrived h 2 p s = (r, true)) ∧ (c = p.chan.toNat) ∧ (u = inc (trnCtr h 1) r) ∧ ((chanOf u h c).cached = true) ∧ (v = viewOf m u) ∧ (w = (takeCore h c (meetCtx h c u)).1) ∧ (x = chanOf w h c) ∧ (p.inc = x.inc) ∧ (p.src = x.peer) ∧ (x.unrel = false) ∧ (x.st ≠ .error) ∧ (2 ^ 31 ≤ (p.psn - x.expect).toNat ∨ ((p.psn - x.expect).toNat < 2048 ∧ executedAt x (p.psn - x.expect).toNat = true)) ∧ (x.refused.all (fun e => e.1 != p.psn) = true) ∧ (x.olds.contains p.psn = true) ∧ quiet s (afterRx h c p v (.over, sendAck h c p.psn 0 0 (inc (trnCtr h 6) w))) = true := by decide +kernel

set_option maxRecDepth 100000 in
theorem wit_ArrivalOfRequests_28 :
    let h : Nat := 1; let p : Packet := sealPkt { dest := 1, src := 5, cls := 0, mode := 0, lenCells := 0, ptype := 2, extMask := 1, ext := [0, 0x60000000, 77, 0], payload := [], psn := 0, chan := 2, inc := 6 }; let m : HostView := {}; let c : Nat := 2; let s : State := { sOn with hs.ports := [(1, { st := .up })], hs.cqs := [(objKey 20 1 0, { active := true })], hs.chans := [(objKey 24 1 2, { st := .active, peer := 5, peerCh := 3, inc := 6, check := 4, cached := true, used := 1, t0 := 4, limit := 4, relaxed := true, expect := 1 })], hs.bar := [(hostKey 1 0 0x20008, 0x100104), (hostKey 1 0 0x40010, 4)], hs.mrCache := [(objKey 24 1 3, [0x9F, 0, 0, 0, 0x10000, 0, 0, 0, 0, 0, 0, 0, 0, 0, 0, 0])] }; let r : State := (arrived 1 2 p s).1; let u : State := inc (trnCtr h 1) r; let w : State := (takeCore h c (meetCtx h c u)).1; let x : Chan := chanOf w h c; let v : View := viewOf m u
    (arrived h 2 p s = (r, true)) ∧ (c = p.chan.toNat) ∧ (u = inc (trnCtr h 1) r) ∧ ((chanOf u h c).cached = true) ∧ (v = viewOf m u) ∧ (w = (takeCore h c (meetCtx h c u)).1) ∧ (x = chanOf w h c) ∧ (p.inc = x.inc) ∧ (p.src = x.peer) ∧ (x.unrel = false) ∧ (x.st ≠ .error) ∧ (2 ^ 31 ≤ (p.psn - x.expect).toNat ∨ ((p.psn - x.expect).toNat < 2048 ∧ executedAt x (p.psn - x.expect).toNat = true)) ∧ (x.refused.all (fun e => e.1 != p.psn) = true) ∧ quiet s (afterRx h c p v (.over, sendAck h c p.psn 0 0 (inc (trnCtr h 6) w))) = true := by decide +kernel

set_option maxRecDepth 100000 in
theorem wit_ArrivalOfRequests_29 :
    let h : Nat := 1; let p : Packet := sealPkt { dest := 1, src := 5, cls := 0, mode := 0, lenCells := 0, ptype := 3, extMask := 1, ext := [0x100, 0x40040000, 0x300, 0], payload := [], psn := 0, chan := 2, inc := 6 }; let m : HostView := {}; let s : State := sOn; let r : State := (arrived 1 3 p s).1
    (arrived h 3 p s = (r, false)) ∧ quiet s (r) = true := by decide +kernel

set_option maxRecDepth 100000 in
theorem wit_ArrivalOfRequests_30 :
    let h : Nat := 1; let p : Packet := sealPkt { dest := 1, src := 5, cls := 0, mode := 0, lenCells := 0, ptype := 3, extMask := 1, ext := [0x100, 0x40040000, 0x300, 0], payload := [], psn := 0, chan := 2, inc := 6 }; let m : HostView := {}; let c : Nat := 2; let s : State := { sOn with hs.ports := [(1, { st := .up })], hs.cqs := [(objKey 20 1 0, { active := true })], hs.chans := [(objKey 24 1 2, { st := .active, peer := 5, peerCh := 3, inc := 6, check := 4, cached := false, used := 1, t0 := 4, limit := 4, relaxed := true })], hs.bar := [(hostKey 1 0 0x20008, 0x100104), (hostKey 1 0 0x40010, 4)], hs.mrCache := [(objKey 24 1 3, [0x9F, 0, 0, 0, 0x10000, 0, 0, 0, 0, 0, 0, 0, 0, 0, 0, 0])] }; let r : State := (arrived 1 3 p s).1
    (arrived h 3 p s = (r, true)) ∧ (c = p.chan.toNat) ∧ ((chanOf (inc (trnCtr h 1) r) h c).cached = false) ∧ quiet s (fetchCtx h c (park h c p (inc (trnCtr h 1) r))) = true := by decide +kernel

set_option maxRecDepth 100000 in
theorem wit_ArrivalOfRequests_31 :
    let h : Nat := 1; let p : Packet := sealPkt { dest := 1, src := 5, cls := 0, mode := 0, lenCells := 0, ptype := 3, extMask := 1, ext := [0x100, 0x40040000, 0x300, 0], payload := [], psn := 0, chan := 2, inc := 7 }; let m : HostView := {}; let c : Nat := 2; let s : State := { sOn with hs.ports := [(1, { st := .up })], hs.cqs := [(objKey 20 1 0, { active := true })], hs.chans := [(objKey 24 1 2, { st := .active, peer := 5, peerCh := 3, inc := 6, check := 4, cached := true, used := 1, t0 := 4, limit := 4, relaxed := true })], hs.bar := [(hostKey 1 0 0x20008, 0x100104), (hostKey 1 0 0x40010, 4)], hs.mrCache := [(objKey 24 1 3, [0x9F, 0, 0, 0, 0x10000, 0, 0, 0, 0, 0, 0, 0, 0, 0, 0, 0])] }; let r : State := (arrived 1 3 p s).1; let u : State := inc (trnCtr h 1) r; let w : State := (takeCore h c (meetCtx h c u)).1; let x : Chan := chanOf w h c; let v : View := viewOf m u
    (arrived h 3 p s = (r, true)) ∧ (c = p.chan.toNat) ∧ (u = inc (trnCtr h 1) r) ∧ ((chanOf u h c).cached = true) ∧ (v = viewOf m u) ∧ (w = (takeCore h c (meetCtx h c u)).1) ∧ (x = chanOf w h c) ∧ (p.inc ≠ x.inc) ∧ quiet s (afterRx h c p v (.over, trnStale h 7 w)) = true := by decide +kernel

set_option maxRecDepth 100000 in
theorem wit_ArrivalOfRequests_32 :
    let h : Nat := 1; let p : Packet := sealPkt { dest := 1, src := 9, cls := 0, mode := 0, lenCells := 0, ptype := 3, extMask := 1, ext := [0x100, 0x40040000, 0x300, 0], payload := [], psn := 0, chan := 2, inc := 6 }; let m : HostView := {}; let c : Nat := 2; let s : State := { sOn with hs.ports := [(1, { st := .up })], hs.cqs := [(objKey 20 1 0, { active := true })], hs.chans := [(objKey 24 1 2, { st := .active, peer := 5, peerCh := 3, inc := 6, check := 4, cached := true, used := 1, t0 := 4, limit := 4, relaxed := true })], hs.bar := [(hostKey 1 0 0x20008, 0x100104), (hostKey 1 0 0x40010, 4)], hs.mrCache := [(objKey 24 1 3, [0x9F, 0, 0, 0, 0x10000, 0, 0, 0, 0, 0, 0, 0, 0, 0, 0, 0])] }; let r : State := (arrived 1 3 p s).1; let u : State := inc (trnCtr h 1) r; let w : State := (takeCore h c (meetCtx h c u)).1; let x : Chan := chanOf w h c; let v : View := viewOf m u
    (arrived h 3 p s = (r, true)) ∧ (c = p.chan.toNat) ∧ (u = inc (trnCtr h 1) r) ∧ ((chanOf u h c).cached = true) ∧ (v = viewOf m u) ∧ (w = (takeCore h c (meetCtx h c u)).1) ∧ (x = chanOf w h c) ∧ (p.inc = x.inc) ∧ (p.src ≠ x.peer) ∧ quiet s (afterRx h c p v (.over, trnStale h 8 w)) = true := by decide +kernel

set_option maxRecDepth 100000 in
theorem wit_ArrivalOfRequests_33 :
    let h : Nat := 1; let p : Packet := sealPkt { dest := 1, src := 5, cls := 0, mode := 0, lenCells := 0, ptype := 3, extMask := 1, ext := [0x100, 0x40040000, 0x300, 0], payload := [], psn := 0, chan := 2, inc := 6 }; let m : HostView := {}; let c : Nat := 2; let s : State := { sOn with hs.ports := [(1, { st := .up })], hs.cqs := [(objKey 20 1 0, { active := true })], hs.chans := [(objKey 24 1 2, { st := .error, peer := 5, peerCh := 3, inc := 6, check := 4, cached := true, used := 1, t0 := 4, limit := 4, relaxed := true })], hs.bar := [(hostKey 1 0 0x20008, 0x100104), (hostKey 1 0 0x40010, 4)], hs.mrCache := [(objKey 24 1 3, [0x9F, 0, 0, 0, 0x10000, 0, 0, 0, 0, 0, 0, 0, 0, 0, 0, 0])] }; let r : State := (arrived 1 3 p s).1; let u : State := inc (trnCtr h 1) r; let w : State := (takeCore h c (meetCtx h c u)).1; let x : Chan := chanOf w h c; let v : View := viewOf m u
    (arrived h 3 p s = (r, true)) ∧ (c = p.chan.toNat) ∧ (u = inc (trnCtr h 1) r) ∧ ((chanOf u h c).cached = true) ∧ (v = viewOf m u) ∧ (w = (takeCore h c (meetCtx h c u)).1) ∧ (x = chanOf w h c) ∧ (p.inc = x.inc) ∧ (p.src = x.peer) ∧ (x.unrel = false) ∧ (x.st = .error) ∧ quiet s (afterRx h c p v (.over, sendAck h c p.psn 0x11 0 w)) = true := by decide +kernel

set_option maxRecDepth 100000 in
theorem wit_ArrivalOfRequests_34 :
    let h : Nat := 1; let p : Packet := sealPkt { dest := 1, src := 5, cls := 0, mode := 0, lenCells := 0, ptype := 3, extMask := 1, ext := [0x100, 0x40040000, 0x300, 0], payload := [], psn := 2048, chan := 2, inc := 6 }; let m : HostView := {}; let c : Nat := 2; let s : State := { sOn with hs.ports := [(1, { st := .up })], hs.cqs := [(objKey 20 1 0, { active := true })], hs.chans := [(objKey 24 1 2, { st := .active, peer := 5, peerCh := 3, inc := 6, check := 4, cached := true, used := 1, t0 := 4, limit := 4, relaxed := true })], hs.bar := [(hostKey 1 0 0x20008, 0x100104), (hostKey 1 0 0x40010, 4)], hs.mrCache := [(objKey 24 1 3, [0x9F, 0, 0, 0, 0x10000, 0, 0, 0, 0, 0, 0, 0, 0, 0, 0, 0])] }; let r : State := (arrived 1 3 p s).1; let u : State := inc (trnCtr h 1) r; let w : State := (takeCore h c (meetCtx h c u)).1; let x : Chan := chanOf w h c; let v : View := viewOf m u
    (arrived h 3 p s = (r, true)) ∧ (c = p.chan.toNat) ∧ (u = inc (trnCtr h 1) r) ∧ ((chanOf u h c).cached = true) ∧ (v = viewOf m u) ∧ (w = (takeCore h c (meetCtx h c u)).1) ∧ (x = chanOf w h c) ∧ (p.inc = x.inc) ∧ (p.src = x.peer) ∧ (x.unrel = false) ∧ (x.st ≠ .error) ∧ (2048 ≤ (p.psn - x.expect).toNat) ∧ ((p.psn - x.expect).toNat < 2 ^ 31) ∧ quiet s (afterRx h c p v (.over, trnStale h 9 w)) = true := by decide +kernel

set_option maxRecDepth 100000 in
theorem wit_ArrivalOfRequests_35 :
    let h : Nat := 1; let p : Packet := sealPkt { dest := 1, src := 5, cls := 0, mode := 0, lenCells := 0, ptype := 3, extMask := 1, ext := [0x100, 0x40040000, 0x300, 0], payload := [], psn := 0, chan := 2, inc := 6 }; let m : HostView := {}; let c : Nat := 2; let s : State := { sOn with hs.ports := [(1, { st := .up })], hs.cqs := [(objKey 20 1 0, { active := true })], hs.chans := [(objKey 24 1 2, { st := .active, peer := 5, peerCh := 3, inc := 6, check := 4, cached := true, used := 1, t0 := 4, limit := 4, relaxed := true, busy := [sealPkt { dest := 1, src := 5, cls := 0, mode := 0, lenCells := 0, ptype := 3, extMask := 1, ext := [0x100, 0x40040000, 0x300, 0], payload := [], psn := 0, chan := 2, inc := 6 }] })], hs.bar := [(hostKey 1 0 0x20008, 0x100104), (hostKey 1 0 0x40010, 4)], hs.mrCache := [(objKey 24 1 3, [0x9F, 0, 0, 0, 0x10000, 0, 0, 0, 0, 0, 0, 0, 0, 0, 0, 0])] }; let r : State := (arrived 1 3 p s).1; let u : State := inc (trnCtr h 1) r; let w : State := (takeCore h c (meetCtx h c u)).1; let x : Chan := chanOf w h c; let v : View := viewOf m u; let d : Nat := (p.psn - x.expect).toNat
    (arrived h 3 p s = (r, true)) ∧ (c = p.chan.toNat) ∧ (u = inc (trnCtr h 1) r) ∧ ((chanOf u h c).cached = true) ∧ (v = viewOf m u) ∧ (w = (takeCore h c (meetCtx h c u)).1) ∧ (x = chanOf w h c) ∧ (p.inc = x.inc) ∧ (p.src = x.peer) ∧ (x.unrel = false) ∧ (x.st ≠ .error) ∧ (d = (p.psn - x.expect).toNat) ∧ (d < 2048) ∧ (executedAt x d = false) ∧ (x.busy.any (fun q => q.psn == p.psn) = true) ∧ quiet s (afterRx h c p v (.over, inc (trnCtr h 6) w)) = true := by decide +kernel

set_option maxRecDepth 100000 in
theorem wit_ArrivalOfRequests_36 :
    let h : Nat := 1; let p : Packet := sealPkt { dest := 1, src := 5, cls := 0, mode := 0, lenCells := 0, ptype := 3, extMask := 1, ext := [0x100, 0x40040000, 0x300, 0], payload := [], psn := 1, chan := 2, inc := 6 }; let m : HostView := {}; let c : Nat := 2; let s : State := { sOn with hs.ports := [(1, { st := .up })], hs.cqs := [(objKey 20 1 0, { active := true })], hs.chans := [(objKey 24 1 2, { st := .active, peer := 5, peerCh := 3, inc := 6, check := 4, cached := true, used := 1, t0 := 4, limit := 4, relaxed := false })], hs.bar := [(hostKey 1 0 0x20008, 0x100104), (hostKey 1 0 0x40010, 4)], hs.mrCache := [(objKey 24 1 3, [0x9F, 0, 0, 0, 0x10000, 0, 0, 0, 0, 0, 0, 0, 0, 0, 0, 0])] }; let r : State := (arrived 1 3 p s).1; let u : State := inc (trnCtr h 1) r; let w : State := (takeCore h c (meetCtx h c u)).1; let x : Chan := chanOf w h c; let v : View := viewOf m u; let d : Nat := (p.psn - x.expect).toNat
    (arrived h 3 p s = (r, true)) ∧ (c = p.chan.toNat) ∧ (u = inc (trnCtr h 1) r) ∧ ((chanOf u h c).cached = true) ∧ (v = viewOf m u) ∧ (w = (takeCore h c (meetCtx h c u)).1) ∧ (x = chanOf w h c) ∧ (p.inc = x.inc) ∧ (p.src = x.peer) ∧ (x.unrel = false) ∧ (x.st ≠ .error) ∧ (d = (p.psn - x.expect).toNat) ∧ (d < 2048) ∧ (executedAt x d = false) ∧ (x.busy.any (fun q => q.psn == p.psn) = false) ∧ (heldBack x d p = true) ∧ quiet s (park h c p w) = true := by decide +kernel

set_option maxRecDepth 100000 in
theorem wit_ArrivalOfRequests_37 :
    let h : Nat := 1; let p : Packet := sealPkt { dest := 1, src := 5, cls := 0, mode := 0, lenCells := 0, ptype := 3, extMask := 1, ext := [0x100, 0x40040000, 0x300, 0], payload := [], psn := 0, chan := 2, inc := 6 }; let m : HostView := {}; let c : Nat := 2; let s : State := { sOn with hs.ports := [(1, { st := .up })], hs.cqs := [(objKey 20 1 0, { active := true })], hs.chans := [(objKey 24 1 2, { st := .active, peer := 5, peerCh := 3, inc := 6, check := 4, cached := true, used := 1, t0 := 4, limit := 4, relaxed := true, rxMsn := 1 })], hs.bar := [(hostKey 1 0 0x20008, 0x100104), (hostKey 1 0 0x40010, 4)], hs.mrCache := [(objKey 24 1 3, [0x9F, 0, 0, 0, 0x10000, 0, 0, 0, 0, 0, 0, 0, 0, 0, 0, 0])] }; let r : State := (arrived 1 3 p s).1; let u : State := inc (trnCtr h 1) r; let w : State := (takeCore h c (meetCtx h c u)).1; let x : Chan := chanOf w h c; let v : View := viewOf m u; let d : Nat := (p.psn - x.expect).toNat; let y : State := w
    (arrived h 3 p s = (r, true)) ∧ (c = p.chan.toNat) ∧ (u = inc (trnCtr h 1) r) ∧ ((chanOf u h c).cached = true) ∧ (v = viewOf m u) ∧ (w = (takeCore h c (meetCtx h c u)).1) ∧ (x = chanOf w h c) ∧ (p.inc = x.inc) ∧ (p.src = x.peer) ∧ (x.unrel = false) ∧ (x.st ≠ .error) ∧ (d = (p.psn - x.expect).toNat) ∧ (d < 2048) ∧ (executedAt x d = false) ∧ (x.busy.any (fun q => q.psn == p.psn) = false) ∧ (heldBack x d p = false) ∧ ((if d = 0 ∨ x.window then (w, true) else freeSlots (boleOf h) (objKey 24 h c) 1 w) = (y, true)) ∧ (aliveOk x d p = false) ∧ quiet s (afterRx h c p v (.over, cvuFail h 4 p y)) = true := by decide +kernel

set_option maxRecDepth 100000 in
theorem wit_ArrivalOfRequests_38 :
    let h : Nat := 1; let p : Packet := sealPkt { dest := 1, src := 5, cls := 0, mode := 0, lenCells := 0, ptype := 3, extMask := 1, ext := [0x100, 0x40040000, 0x300, 0], payload := [], psn := 0, chan := 2, inc := 6 }; let m : HostView := {}; let c : Nat := 2; let k : Nat := 5; let s : State := { sOn with hs.ports := [(1, { st := .up })], hs.cqs := [(objKey 20 1 0, { active := true })], hs.chans := [(objKey 24 1 2, { st := .active, peer := 5, peerCh := 3, inc := 6, check := 4, cached := true, used := 1, t0 := 4, limit := 4, relaxed := true, expect := 1, refused := some (0, 5) })], hs.bar := [(hostKey 1 0 0x20008, 0x100104), (hostKey 1 0 0x40010, 4)], hs.mrCache := [(objKey 24 1 3, [0x9F, 0, 0, 0, 0x10000, 0, 0, 0, 0, 0, 0, 0, 0, 0, 0, 0])] }; let r : State := (arrived 1 3 p s).1; let u : State := inc (trnCtr h 1) r; let w : State := (takeCore h c (meetCtx h c u)).1; let x : Chan := chanOf w h c; let v : View := viewOf m u
    (arrived h 3 p s = (r, true)) ∧ (c = p.chan.toNat) ∧ (u = inc (trnCtr h 1) r) ∧ ((chanOf u h c).cached = true) ∧ (v = viewOf m u) ∧ (w = (takeCore h c (meetCtx h c u)).1) ∧ (x = chanOf w h c) ∧ (p.inc = x.inc) ∧ (p.src = x.peer) ∧ (x.unrel = false) ∧ (x.st ≠ .error) ∧ (2 ^ 31 ≤ (p.psn - x.expect).toNat ∨ ((p.psn - x.expect).toNat < 2048 ∧ executedAt x (p.psn - x.expect).toNat = true)) ∧ (x.refused = some (p.psn, k)) ∧ quiet s (afterRx h c p v (.over, sendAck h c p.psn 0x10 k (inc (trnCtr h 6) w))) = true := by decide +kernel

set_option maxRecDepth 100000 in
theorem wit_ArrivalOfRequests_39 :
    let h : Nat := 1; let p : Packet := sealPkt { dest := 1, src := 5, cls := 0, mode := 0, lenCells := 0, ptype := 3, extMask := 1, ext := [0x100, 0x40040000, 0x300, 0], payload := [], psn := 0, chan := 2, inc := 6 }; let m : HostView := {}; let c : Nat := 2; let s : State := { sOn with hs.ports := [(1, { st := .up })], hs.cqs := [(objKey 20 1 0, { active := true })], hs.chans := [(objKey 24 1 2, { st := .active, peer := 5, peerCh := 3, inc := 6, check := 4, cached := true, used := 1, t0 := 4, limit := 4, relaxed := true, expect := 3, refused := some (1, 5), olds := [0] })], hs.bar := [(hostKey 1 0 0x20008, 0x100104), (hostKey 1 0 0x40010, 4)], hs.mrCache := [(objKey 24 1 3, [0x9F, 0, 0, 0, 0x10000, 0, 0, 0, 0, 0, 0, 0, 0, 0, 0, 0])] }; let r : State := (arrived 1 3 p s).1; let u : State := inc (trnCtr h 1) r; let w : State := (takeCore h c (meetCtx h c u)).1; let x : Chan := chanOf w h c; let v : View := viewOf m u
    (arrived h 3 p s = (r, true)) ∧ (c = p.chan.toNat) ∧ (u = inc (trnCtr h 1) r) ∧ ((chanOf u h c).cached = true) ∧ (v = viewOf m u) ∧ (w = (takeCore h c (meetCtx h c u)).1) ∧ (x = chanOf w h c) ∧ (p.inc = x.inc) ∧ (p.src = x.peer) ∧ (x.unrel = false) ∧ (x.st ≠ .error) ∧ (2 ^ 31 ≤ (p.psn - x.expect).toNat ∨ ((p.psn - x.expect).toNat < 2048 ∧ executedAt x (p.psn - x.expect).toNat = true)) ∧ (x.refused.all (fun e => e.1 != p.psn) = true) ∧ (x.olds.contains p.psn = true) ∧ quiet s (afterRx h c p v (.over, sendAck h c p.psn 0 0 (inc (trnCtr h 6) w))) = true := by decide +kernel

set_option maxRecDepth 100000 in
theorem wit_ArrivalOfRequests_40 :
    let h : Nat := 1; let p : Packet := sealPkt { dest := 1, src := 5, cls := 0, mode := 0, lenCells := 0, ptype := 5, extMask := 2, ext := [0x100, 0x40120000, 0x300, 0, 0, 0, 1, 0], payload := [], psn := 0, chan := 2, inc := 6 }; let m : HostView := {}; let s : State := sOn; let r : State := (arrived 1 5 p s).1
    (arrived h 5 p s = (r, false)) ∧ quiet s (r) = true := by decide +kernel

set_option maxRecDepth 100000 in
theorem wit_ArrivalOfRequests_41 :
    let h : Nat := 1; let p : Packet := sealPkt { dest := 1, src := 5, cls := 0, mode := 0, lenCells := 0, ptype := 5, extMask := 2, ext := [0x100, 0x40120000, 0x300, 0, 0, 0, 1, 0], payload := [], psn := 0, chan := 2, inc := 6 }; let m : HostView := {}; let c : Nat := 2; let s : State := { sOn with hs.ports := [(1, { st := .up })], hs.cqs := [(objKey 20 1 0, { active := true })], hs.chans := [(objKey 24 1 2, { st := .active, peer := 5, peerCh := 3, inc := 6, check := 4, cached := false, used := 1, t0 := 4, limit := 4, relaxed := true })], hs.bar := [(hostKey 1 0 0x20008, 0x100104), (hostKey 1 0 0x40010, 4)], hs.mrCache := [(objKey 24 1 3, [0x9F, 0, 0, 0, 0x10000, 0, 0, 0, 0, 0, 0, 0, 0, 0, 0, 0])] }; let r : State := (arrived 1 5 p s).1
    (arrived h 5 p s = (r, true)) ∧ (c = p.chan.toNat) ∧ ((chanOf (inc (trnCtr h 1) r) h c).cached = false) ∧ quiet s (fetchCtx h c (park h c p (inc (trnCtr h 1) r))) = true := by decide +kernel

set_option maxRecDepth 100000 in
theorem wit_ArrivalOfRequests_42 :
    let h : Nat := 1; let p : Packet := sealPkt { dest := 1, src := 5, cls := 0, mode := 0, lenCells := 0, ptype := 5, extMask := 2, ext := [0x100, 0x40120000, 0x300, 0, 0, 0, 1, 0], payload := [], psn := 0, chan := 2, inc := 7 }; let m : HostView := {}; let c : Nat := 2; let s : State := { sOn with hs.ports := [(1, { st := .up })], hs.cqs := [(objKey 20 1 0, { active := true })], hs.chans := [(objKey 24 1 2, { st := .active, peer := 5, peerCh := 3, inc := 6, check := 4, cached := true, used := 1, t0 := 4, limit := 4, relaxed := true })], hs.bar := [(hostKey 1 0 0x20008, 0x100104), (hostKey 1 0 0x40010, 4)], hs.mrCache := [(objKey 24 1 3, [0x9F, 0, 0, 0, 0x10000, 0, 0, 0, 0, 0, 0, 0, 0, 0, 0, 0])] }; let r : State := (arrived 1 5 p s).1; let u : State := inc (trnCtr h 1) r; let w : State := (takeCore h c (meetCtx h c u)).1; let x : Chan := chanOf w h c; let v : View := viewOf m u
    (arrived h 5 p s = (r, true)) ∧ (c = p.chan.toNat) ∧ (u = inc (trnCtr h 1) r) ∧ ((chanOf u h c).cached = true) ∧ (v = viewOf m u) ∧ (w = (takeCore h c (meetCtx h c u)).1) ∧ (x = chanOf w h c) ∧ (p.inc ≠ x.inc) ∧ quiet s (afterRx h c p v (.over, trnStale h 7 w)) = true := by decide +kernel

set_option maxRecDepth 100000 in
theorem wit_ArrivalOfRequests_43 :
    let h : Nat := 1; let p : Packet := sealPkt { dest := 1, src := 9, cls := 0, mode := 0, lenCells := 0, ptype := 5, extMask := 2, ext := [0x100, 0x40120000, 0x300, 0, 0, 0, 1, 0], payload := [], psn := 0, chan := 2, inc := 6 }; let m : HostView := {}; let c : Nat := 2; let s : State := { sOn with hs.ports := [(1, { st := .up })], hs.cqs := [(objKey 20 1 0, { active := true })], hs.chans := [(objKey 24 1 2, { st := .active, peer := 5, peerCh := 3, inc := 6, check := 4, cached := true, used := 1, t0 := 4, limit := 4, relaxed := true })], hs.bar := [(hostKey 1 0 0x20008, 0x100104), (hostKey 1 0 0x40010, 4)], hs.mrCache := [(objKey 24 1 3, [0x9F, 0, 0, 0, 0x10000, 0, 0, 0, 0, 0, 0, 0, 0, 0, 0, 0])] }; let r : State := (arrived 1 5 p s).1; let u : State := inc (trnCtr h 1) r; let w : State := (takeCore h c (meetCtx h c u)).1; let x : Chan := chanOf w h c; let v : View := viewOf m u
    (arrived h 5 p s = (r, true)) ∧ (c = p.chan.toNat) ∧ (u = inc (trnCtr h 1) r) ∧ ((chanOf u h c).cached = true) ∧ (v = viewOf m u) ∧ (w = (takeCore h c (meetCtx h c u)).1) ∧ (x = chanOf w h c) ∧ (p.inc = x.inc) ∧ (p.src ≠ x.peer) ∧ quiet s (afterRx h c p v (.over, trnStale h 8 w)) = true := by decide +kernel

set_option maxRecDepth 100000 in
theorem wit_ArrivalOfRequests_44 :
    let h : Nat := 1; let p : Packet := sealPkt { dest := 1, src := 5, cls := 0, mode := 0, lenCells := 0, ptype := 5, extMask := 2, ext := [0x100, 0x40120000, 0x300, 0, 0, 0, 1, 0], payload := [], psn := 0, chan := 2, inc := 6 }; let m : HostView := {}; let c : Nat := 2; let s : State := { sOn with hs.ports := [(1, { st := .up })], hs.cqs := [(objKey 20 1 0, { active := true })], hs.chans := [(objKey 24 1 2, { st := .error, peer := 5, peerCh := 3, inc := 6, check := 4, cached := true, used := 1, t0 := 4, limit := 4, relaxed := true })], hs.bar := [(hostKey 1 0 0x20008, 0x100104), (hostKey 1 0 0x40010, 4)], hs.mrCache := [(objKey 24 1 3, [0x9F, 0, 0, 0, 0x10000, 0, 0, 0, 0, 0, 0, 0, 0, 0, 0, 0])] }; let r : State := (arrived 1 5 p s).1; let u : State := inc (trnCtr h 1) r; let w : State := (takeCore h c (meetCtx h c u)).1; let x : Chan := chanOf w h c; let v : View := viewOf m u
    (arrived h 5 p s = (r, true)) ∧ (c = p.chan.toNat) ∧ (u = inc (trnCtr h 1) r) ∧ ((chanOf u h c).cached = true) ∧ (v = viewOf m u) ∧ (w = (takeCore h c (meetCtx h c u)).1) ∧ (x = chanOf w h c) ∧ (p.inc = x.inc) ∧ (p.src = x.peer) ∧ (x.unrel = false) ∧ (x.st = .error) ∧ quiet s (afterRx h c p v (.over, sendAck h c p.psn 0x11 0 w)) = true := by decide +kernel

set_option maxRecDepth 100000 in
theorem wit_ArrivalOfRequests_45 :
    let h : Nat := 1; let p : Packet := sealPkt { dest := 1, src := 5, cls := 0, mode := 0, lenCells := 0, ptype := 5, extMask := 2, ext := [0x100, 0x40120000, 0x300, 0, 0, 0, 1, 0], payload := [], psn := 2048, chan := 2, inc := 6 }; let m : HostView := {}; let c : Nat := 2; let s : State := { sOn with hs.ports := [(1, { st := .up })], hs.cqs := [(objKey 20 1 0, { active := true })], hs.chans := [(objKey 24 1 2, { st := .active, peer := 5, peerCh := 3, inc := 6, check := 4, cached := true, used := 1, t0 := 4, limit := 4, relaxed := true })], hs.bar := [(hostKey 1 0 0x20008, 0x100104), (hostKey 1 0 0x40010, 4)], hs.mrCache := [(objKey 24 1 3, [0x9F, 0, 0, 0, 0x10000, 0, 0, 0, 0, 0, 0, 0, 0, 0, 0, 0])] }; let r : State := (arrived 1 5 p s).1; let u : State := inc (trnCtr h 1) r; let w : State := (takeCore h c (meetCtx h c u)).1; let x : Chan := chanOf w h c; let v : View := viewOf m u
    (arrived h 5 p s = (r, true)) ∧ (c = p.chan.toNat) ∧ (u = inc (trnCtr h 1) r) ∧ ((chanOf u h c).cached = true) ∧ (v = viewOf m u) ∧ (w = (takeCore h c (meetCtx h c u)).1) ∧ (x = chanOf w h c) ∧ (p.inc = x.inc) ∧ (p.src = x.peer) ∧ (x.unrel = false) ∧ (x.st ≠ .error) ∧ (2048 ≤ (p.psn - x.expect).toNat) ∧ ((p.psn - x.expect).toNat < 2 ^ 31) ∧ quiet s (afterRx h c p v (.over, trnStale h 9 w)) = true := by decide +kernel

set_option maxRecDepth 100000 in
theorem wit_ArrivalOfRequests_46 :
    let h : Nat := 1; let p : Packet := sealPkt { dest := 1, src := 5, cls := 0, mode := 0, lenCells := 0, ptype := 5, extMask := 2, ext := [0x100, 0x40120000, 0x300, 0, 0, 0, 1, 0], payload := [], psn := 0, chan := 2, inc := 6 }; let m : HostView := {}; let c : Nat := 2; let s : State := { sOn with hs.ports := [(1, { st := .up })], hs.cqs := [(objKey 20 1 0, { active := true })], hs.chans := [(objKey 24 1 2, { st := .active, peer := 5, peerCh := 3, inc := 6, check := 4, cached := true, used := 1, t0 := 4, limit := 4, relaxed := true, busy := [sealPkt { dest := 1, src := 5, cls := 0, mode := 0, lenCells := 0, ptype := 5, extMask := 2, ext := [0x100, 0x40120000, 0x300, 0, 0, 0, 1, 0], payload := [], psn := 0, chan := 2, inc := 6 }] })], hs.bar := [(hostKey 1 0 0x20008, 0x100104), (hostKey 1 0 0x40010, 4)], hs.mrCache := [(objKey 24 1 3, [0x9F, 0, 0, 0, 0x10000, 0, 0, 0, 0, 0, 0, 0, 0, 0, 0, 0])] }; let r : State := (arrived 1 5 p s).1; let u : State := inc (trnCtr h 1) r; let w : State := (takeCore h c (meetCtx h c u)).1; let x : Chan := chanOf w h c; let v : View := viewOf m u; let d : Nat := (p.psn - x.expect).toNat
    (arrived h 5 p s = (r, true)) ∧ (c = p.chan.toNat) ∧ (u = inc (trnCtr h 1) r) ∧ ((chanOf u h c).cached = true) ∧ (v = viewOf m u) ∧ (w = (takeCore h c (meetCtx h c u)).1) ∧ (x = chanOf w h c) ∧ (p.inc = x.inc) ∧ (p.src = x.peer) ∧ (x.unrel = false) ∧ (x.st ≠ .error) ∧ (d = (p.psn - x.expect).toNat) ∧ (d < 2048) ∧ (executedAt x d = false) ∧ (x.busy.any (fun q => q.psn == p.psn) = true) ∧ quiet s (afterRx h c p v (.over, inc (trnCtr h 6) w)) = true := by decide +kernel

set_option maxRecDepth 100000 in
theorem wit_ArrivalOfRequests_47 :
    let h : Nat := 1; let p : Packet := sealPkt { dest := 1, src := 5, cls := 0, mode := 0, lenCells := 0, ptype := 5, extMask := 2, ext := [0x100, 0x40120000, 0x300, 0, 0, 0, 1, 0], payload := [], psn := 1, chan := 2, inc := 6 }; let m : HostView := {}; let c : Nat := 2; let s : State := { sOn with hs.ports := [(1, { st := .up })], hs.cqs := [(objKey 20 1 0, { active := true })], hs.chans := [(objKey 24 1 2, { st := .active, peer := 5, peerCh := 3, inc := 6, check := 4, cached := true, used := 1, t0 := 4, limit := 4, relaxed := false })], hs.bar := [(hostKey 1 0 0x20008, 0x100104), (hostKey 1 0 0x40010, 4)], hs.mrCache := [(objKey 24 1 3, [0x9F, 0, 0, 0, 0x10000, 0, 0, 0, 0, 0, 0, 0, 0, 0, 0, 0])] }; let r : State := (arrived 1 5 p s).1; let u : State := inc (trnCtr h 1) r; let w : State := (takeCore h c (meetCtx h c u)).1; let x : Chan := chanOf w h c; let v : View := viewOf m u; let d : Nat := (p.psn - x.expect).toNat
    (arrived h 5 p s = (r, true)) ∧ (c = p.chan.toNat) ∧ (u = inc (trnCtr h 1) r) ∧ ((chanOf u h c).cached = true) ∧ (v = viewOf m u) ∧ (w = (takeCore h c (meetCtx h c u)).1) ∧ (x = chanOf w h c) ∧ (p.inc = x.inc) ∧ (p.src = x.peer) ∧ (x.unrel = false) ∧ (x.st ≠ .error) ∧ (d = (p.psn - x.expect).toNat) ∧ (d < 2048) ∧ (executedAt x d = false) ∧ (x.busy.any (fun q => q.psn == p.psn) = false) ∧ (heldBack x d p = true) ∧ quiet s (park h c p w) = true := by decide +kernel

set_option maxRecDepth 100000 in
theorem wit_ArrivalOfRequests_48 :
    let h : Nat := 1; let p : Packet := sealPkt { dest := 1, src := 5, cls := 0, mode := 0, lenCells := 0, ptype := 5, extMask := 2, ext := [0x100, 0x40120000, 0x300, 0, 0, 0, 1, 0], payload := [], psn := 0, chan := 2, inc := 6 }; let m : HostView := {}; let c : Nat := 2; let s : State := { sOn with hs.ports := [(1, { st := .up })], hs.cqs := [(objKey 20 1 0, { active := true })], hs.chans := [(objKey 24 1 2, { st := .active, peer := 5, peerCh := 3, inc := 6, check := 4, cached := true, used := 1, t0 := 4, limit := 4, relaxed := true, rxMsn := 1 })], hs.bar := [(hostKey 1 0 0x20008, 0x100104), (hostKey 1 0 0x40010, 4)], hs.mrCache := [(objKey 24 1 3, [0x9F, 0, 0, 0, 0x10000, 0, 0, 0, 0, 0, 0, 0, 0, 0, 0, 0])] }; let r : State := (arrived 1 5 p s).1; let u : State := inc (trnCtr h 1) r; let w : State := (takeCore h c (meetCtx h c u)).1; let x : Chan := chanOf w h c; let v : View := viewOf m u; let d : Nat := (p.psn - x.expect).toNat; let y : State := w
    (arrived h 5 p s = (r, true)) ∧ (c = p.chan.toNat) ∧ (u = inc (trnCtr h 1) r) ∧ ((chanOf u h c).cached = true) ∧ (v = viewOf m u) ∧ (w = (takeCore h c (meetCtx h c u)).1) ∧ (x = chanOf w h c) ∧ (p.inc = x.inc) ∧ (p.src = x.peer) ∧ (x.unrel = false) ∧ (x.st ≠ .error) ∧ (d = (p.psn - x.expect).toNat) ∧ (d < 2048) ∧ (executedAt x d = false) ∧ (x.busy.any (fun q => q.psn == p.psn) = false) ∧ (heldBack x d p = false) ∧ ((if d = 0 ∨ x.window then (w, true) else freeSlots (boleOf h) (objKey 24 h c) 1 w) = (y, true)) ∧ (aliveOk x d p = false) ∧ quiet s (afterRx h c p v (.over, cvuFail h 4 p y)) = true := by decide +kernel

set_option maxRecDepth 100000 in
theorem wit_ArrivalOfRequests_49 :
    let h : Nat := 1; let p : Packet := sealPkt { dest := 1, src := 5, cls := 0, mode := 0, lenCells := 0, ptype := 5, extMask := 2, ext := [0x100, 0x40120000, 0x300, 0, 0, 0, 1, 0], payload := [], psn := 0, chan := 2, inc := 6 }; let m : HostView := {}; let c : Nat := 2; let k : Nat := 5; let s : State := { sOn with hs.ports := [(1, { st := .up })], hs.cqs := [(objKey 20 1 0, { active := true })], hs.chans := [(objKey 24 1 2, { st := .active, peer := 5, peerCh := 3, inc := 6, check := 4, cached := true, used := 1, t0 := 4, limit := 4, relaxed := true, expect := 1, refused := some (0, 5) })], hs.bar := [(hostKey 1 0 0x20008, 0x100104), (hostKey 1 0 0x40010, 4)], hs.mrCache := [(objKey 24 1 3, [0x9F, 0, 0, 0, 0x10000, 0, 0, 0, 0, 0, 0, 0, 0, 0, 0, 0])] }; let r : State := (arrived 1 5 p s).1; let u : State := inc (trnCtr h 1) r; let w : State := (takeCore h c (meetCtx h c u)).1; let x : Chan := chanOf w h c; let v : View := viewOf m u
    (arrived h 5 p s = (r, true)) ∧ (c = p.chan.toNat) ∧ (u = inc (trnCtr h 1) r) ∧ ((chanOf u h c).cached = true) ∧ (v = viewOf m u) ∧ (w = (takeCore h c (meetCtx h c u)).1) ∧ (x = chanOf w h c) ∧ (p.inc = x.inc) ∧ (p.src = x.peer) ∧ (x.unrel = false) ∧ (x.st ≠ .error) ∧ (2 ^ 31 ≤ (p.psn - x.expect).toNat ∨ ((p.psn - x.expect).toNat < 2048 ∧ executedAt x (p.psn - x.expect).toNat = true)) ∧ (x.refused = some (p.psn, k)) ∧ quiet s (afterRx h c p v (.over, sendAck h c p.psn 0x10 k (inc (trnCtr h 6) w))) = true := by decide +kernel

set_option maxRecDepth 100000 in
theorem wit_ArrivalOfRequests_50 :
    let h : Nat := 1; let p : Packet := sealPkt { dest := 1, src := 5, cls := 0, mode := 0, lenCells := 0, ptype := 5, extMask := 2, ext := [0x100, 0x40120000, 0x300, 0, 0, 0, 1, 0], payload := [], psn := 0, chan := 2, inc := 6 }; let m : HostView := {}; let c : Nat := 2; let s : State := { sOn with hs.ports := [(1, { st := .up })], hs.cqs := [(objKey 20 1 0, { active := true })], hs.chans := [(objKey 24 1 2, { st := .active, peer := 5, peerCh := 3, inc := 6, check := 4, cached := true, used := 1, t0 := 4, limit := 4, relaxed := true, expect := 3, refused := some (1, 5), olds := [0] })], hs.bar := [(hostKey 1 0 0x20008, 0x100104), (hostKey 1 0 0x40010, 4)], hs.mrCache := [(objKey 24 1 3, [0x9F, 0, 0, 0, 0x10000, 0, 0, 0, 0, 0, 0, 0, 0, 0, 0, 0])] }; let r : State := (arrived 1 5 p s).1; let u : State := inc (trnCtr h 1) r; let w : State := (takeCore h c (meetCtx h c u)).1; let x : Chan := chanOf w h c; let v : View := viewOf m u
    (arrived h 5 p s = (r, true)) ∧ (c = p.chan.toNat) ∧ (u = inc (trnCtr h 1) r) ∧ ((chanOf u h c).cached = true) ∧ (v = viewOf m u) ∧ (w = (takeCore h c (meetCtx h c u)).1) ∧ (x = chanOf w h c) ∧ (p.inc = x.inc) ∧ (p.src = x.peer) ∧ (x.unrel = false) ∧ (x.st ≠ .error) ∧ (2 ^ 31 ≤ (p.psn - x.expect).toNat ∨ ((p.psn - x.expect).toNat < 2048 ∧ executedAt x (p.psn - x.expect).toNat = true)) ∧ (x.refused.all (fun e => e.1 != p.psn) = true) ∧ (x.olds.contains p.psn = true) ∧ quiet s (afterRx h c p v (.over, sendAck h c p.psn 0 0 (inc (trnCtr h 6) w))) = true := by decide +kernel

set_option maxRecDepth 100000 in
theorem wit_ArrivalOfRequests_51 :
    let h : Nat := 1; let c : Nat := 2; let m : HostView := {}; let s : State := { sOn with hs.ports := [(1, { st := .up })], hs.cqs := [(objKey 20 1 0, { active := true })], hs.chans := [(objKey 24 1 2, { st := .active, peer := 5, peerCh := 3, inc := 6, check := 4, cached := false, used := 1, t0 := 4, limit := 4, relaxed := true, fetching := true })], hs.bar := [(hostKey 1 0 0x20008, 0x100104), (hostKey 1 0 0x40010, 4)], hs.mrCache := [(objKey 24 1 3, [0x9F, 0, 0, 0, 0x10000, 0, 0, 0, 0, 0, 0, 0, 0, 0, 0, 0])] }; let u : State := setChan h c { chanOf s h c with fetching := false, landed := true } s; let w : State := (takeCore h c (updChan h c (fun x => { x with landed := false }) u)).1
    (boleOk s (boleOf h) = true) ∧ ((chanOf s h c).fetching = true) ∧ (dmaHeld s h (.chan c) = false) ∧ (u = setChan h c { chanOf s h c with fetching := false, landed := true } s) ∧ (takeCore h c (updChan h c (fun x => { x with landed := false }) u) = (w, true)) ∧ quiet s (sendDue h c (viewOf m s) (rerunAll h c (viewOf m s) w)) = true := by decide +kernel

set_option maxRecDepth 100000 in
theorem wit_ArrivalOfRequests_52 :
    let h : Nat := 1; let c : Nat := 2; let m : HostView := {}; let s : State := { sOn with hs.ports := [(1, { st := .up })], hs.cqs := [(objKey 20 1 0, { active := true })], hs.chans := [(objKey 24 1 2, { st := .active, peer := 5, peerCh := 3, inc := 6, check := 4, cached := false, used := 1, t0 := 4, limit := 4, relaxed := true, fetching := true })], hs.bar := [(hostKey 1 0 0x20008, 0x100104), (hostKey 1 0 0x40010, 4)], hs.mrCache := [(objKey 24 1 3, [0x9F, 0, 0, 0, 0x10000, 0, 0, 0, 0, 0, 0, 0, 0, 0, 0, 0])] }
    (boleOk s (boleOf h) = true) ∧ ((chanOf s h c).fetching = true) ∧ (dmaHeld s h (.chan c) = false) ∧ quiet s (trnCause h 4 (Machine.count (trnCtr h 13) (chanOf s h c).parked.length (setChan h c { chanOf s h c with fetching := false, parked := [] } (dmaErr h s)))) = true := by decide +kernel

set_option maxRecDepth 100000 in
theorem wit_ArrivalOfRequests_53 :
    let h : Nat := 1; let c : Nat := 2; let ok : Bool := true; let m : HostView := {}; let s : State := sOn
    (boleOk s (boleOf h) = false ∨ (chanOf s h c).fetching = false ∨ dmaHeld s h (.chan c) = true) ∧ quiet s (s) = true := by decide +kernel

set_option maxRecDepth 100000 in
theorem wit_ArrivalOfRequests_54 :
    let h : Nat := 1; let c : Nat := 2; let s : State := { sOn with hs.ports := [(1, { st := .up })], hs.cqs := [(objKey 20 1 0, { active := true })], hs.chans := [(objKey 24 1 2, { st := .active, peer := 5, peerCh := 3, inc := 6, check := 4, cached := true, used := 1, t0 := 4, limit := 4, relaxed := true, ackTimer := true, ackN := 1 })], hs.bar := [(hostKey 1 0 0x20008, 0x100104), (hostKey 1 0 0x40010, 4)], hs.mrCache := [(objKey 24 1 3, [0x9F, 0, 0, 0, 0x10000, 0, 0, 0, 0, 0, 0, 0, 0, 0, 0, 0])] }
    (hostUp s h = true) ∧ ((chanOf s h c).st ≠ .absent) ∧ ((chanOf s h c).ackTimer = true) ∧ quiet s (sendAck h c (chanOf s h c).expect 0 0 s) = true := by decide +kernel

set_option maxRecDepth 100000 in
theorem wit_ArrivalOfRequests_55 :
    let h : Nat := 1; let c : Nat := 2; let s : State := sOn
    (hostUp s h = false ∨ (chanOf s h c).st = .absent ∨ (chanOf s h c).ackTimer = false) ∧ quiet s (s) = true := by decide +kernel

set_option maxRecDepth 100000 in
theorem wit_Acknowledgements_1 :
    let h : Nat := 1; let p : Packet := sealPkt { dest := 1, src := 5, cls := 1, mode := 0, lenCells := 0, ptype := 7, extMask := 4, ext := [1, 0, 0, 0], payload := [], psn := 0, chan := 2, inc := 6 }; let m : HostView := {}; let c : Nat := 2; let s : State := { sOn with hs.ports := [(1, { st := .up, jobs := [{ id := 0, h := 1, q := 0, idx := 0, ents := [[1048583, 2, 0, 0, 0, 0, 0, 8, 256, 0, 0, 0, 0, 0, 0, 2147483648]], begun := true, ready := true, next := 1, sent := 1, left := 1, chan := 2 }], nextJob := 1 })], hs.wqs := [(objKey 20 1 0, { st := .active, priv := true, head := 1, tail := 1, order := [0] })], hs.cqs := [(objKey 20 1 0, { active := true })], hs.chans := [(objKey 24 1 2, { st := .active, peer := 5, peerCh := 3, inc := 6, check := 4, cached := true, used := 1, t0 := 4, limit := 4, relaxed := true, txNext := 1, timer := true, unacked := [{ pkt := { dest := 5, src := 1, cls := 0, lenCells := 2, ptype := 1, extMask := 1, ext := [0x100, 0x40000000, 0x300, 0], psn := 0, chan := 3, inc := 6 }, job := some 0, bytes := 8, len := 8 }] })], hs.bar := [(hostKey 1 0 0x20008, 0x100104), (hostKey 1 0 0x40010, 4)], hs.mrCache := [(objKey 24 1 3, [0x9F, 0, 0, 0, 0x10000, 0, 0, 0, 0, 0, 0, 0, 0, 0, 0, 0])] }; let r : State := (respTest 1 7 p s).1; let q : State := (progress h c (Packet.extW p 2 0) (Packet.extW p 2 1) r)
    (respTest h 7 p s = (r, true)) ∧ (c = p.chan.toNat) ∧ (Packet.extF p 2 2 0 8 = 0) ∧ (q = (progress h c (Packet.extW p 2 0) (Packet.extW p 2 1) r)) ∧ quiet s (runChan h c (viewOf m q) q) = true := by decide +kernel

set_option maxRecDepth 100000 in
theorem wit_Acknowledgements_2 :
    let h : Nat := 1; let p : Packet := sealPkt { dest := 1, src := 5, cls := 1, mode := 0, lenCells := 0, ptype := 7, extMask := 4, ext := [1, 0, 0, 0], payload := [], psn := 0, chan := 2, inc := 6 }; let m : HostView := {}; let s : State := sOn; let r : State := (respTest 1 7 p s).1
    (respTest h 7 p s = (r, false)) ∧ quiet s (r) = true := by decide +kernel

set_option maxRecDepth 100000 in
theorem wit_Acknowledgements_3 :
    let h : Nat := 1; let p : Packet := sealPkt { dest := 1, src := 5, cls := 1, mode := 0, lenCells := 0, ptype := 7, extMask := 4, ext := [0, 0, 2, 0], payload := [], psn := 0, chan := 2, inc := 6 }; let m : HostView := {}; let c : Nat := 2; let s : State := { sOn with hs.ports := [(1, { st := .up, jobs := [{ id := 0, h := 1, q := 0, idx := 0, ents := [[1048583, 2, 0, 0, 0, 0, 0, 8, 256, 0, 0, 0, 0, 0, 0, 2147483648]], begun := true, ready := true, next := 1, sent := 1, left := 1, chan := 2 }], nextJob := 1 })], hs.wqs := [(objKey 20 1 0, { st := .active, priv := true, head := 1, tail := 1, order := [0] })], hs.cqs := [(objKey 20 1 0, { active := true })], hs.chans := [(objKey 24 1 2, { st := .active, peer := 5, peerCh := 3, inc := 6, check := 4, cached := true, used := 1, t0 := 4, limit := 4, relaxed := true, txNext := 1, timer := true, unacked := [{ pkt := { dest := 5, src := 1, cls := 0, lenCells := 2, ptype := 1, extMask := 1, ext := [0x100, 0x40000000, 0x300, 0], psn := 0, chan := 3, inc := 6 }, job := some 0, bytes := 8, len := 8 }] })], hs.bar := [(hostKey 1 0 0x20008, 0x100104), (hostKey 1 0 0x40010, 4)], hs.mrCache := [(objKey 24 1 3, [0x9F, 0, 0, 0, 0x10000, 0, 0, 0, 0, 0, 0, 0, 0, 0, 0, 0])] }; let r : State := (respTest 1 7 p s).1; let q : State := updChan h c (fun x => if x.unacked.any (fun u => u.pkt.psn == p.psn) then { x with stall := true, stallPsn := p.psn } else x) (progress h c (Packet.extW p 2 0) (Packet.extW p 2 1) (inc (trnCtr h 5) r))
    (respTest h 7 p s = (r, true)) ∧ (c = p.chan.toNat) ∧ (Packet.extF p 2 2 0 8 ≠ 0) ∧ (Packet.extF p 2 2 0 8 < 0x10 ∨ (chanOf (inc (trnCtr h 5) r) h c).unacked.any (fun u => u.pkt.psn == p.psn) = false) ∧ (q = updChan h c (fun x => if x.unacked.any (fun u => u.pkt.psn == p.psn) then { x with stall := true, stallPsn := p.psn } else x) (progress h c (Packet.extW p 2 0) (Packet.extW p 2 1) (inc (trnCtr h 5) r))) ∧ quiet s (runChan h c (viewOf m q) q) = true := by decide +kernel

set_option maxRecDepth 100000 in
theorem wit_Acknowledgements_4 :
    let h : Nat := 1; let p : Packet := sealPkt { dest := 1, src := 5, cls := 1, mode := 0, lenCells := 0, ptype := 7, extMask := 4, ext := [0, 0, 784, 0], payload := [], psn := 0, chan := 2, inc := 6 }; let m : HostView := {}; let c : Nat := 2; let s : State := { sOn with hs.ports := [(1, { st := .up, jobs := [{ id := 0, h := 1, q := 0, idx := 0, ents := [[1048583, 2, 0, 0, 0, 0, 0, 8, 256, 0, 0, 0, 0, 0, 0, 2147483648]], begun := true, ready := true, next := 1, sent := 1, left := 1, chan := 2 }], nextJob := 1 })], hs.wqs := [(objKey 20 1 0, { st := .active, priv := true, head := 1, tail := 1, order := [0] })], hs.cqs := [(objKey 20 1 0, { active := true })], hs.chans := [(objKey 24 1 2, { st := .active, peer := 5, peerCh := 3, inc := 6, check := 4, cached := true, used := 1, t0 := 4, limit := 4, relaxed := true, txNext := 1, timer := true, unacked := [{ pkt := { dest := 5, src := 1, cls := 0, lenCells := 2, ptype := 1, extMask := 1, ext := [0x100, 0x40000000, 0x300, 0], psn := 0, chan := 3, inc := 6 }, job := some 0, bytes := 8, len := 8 }] })], hs.bar := [(hostKey 1 0 0x20008, 0x100104), (hostKey 1 0 0x40010, 4)], hs.mrCache := [(objKey 24 1 3, [0x9F, 0, 0, 0, 0x10000, 0, 0, 0, 0, 0, 0, 0, 0, 0, 0, 0])] }; let r : State := (respTest 1 7 p s).1; let q : State := trnCause h 2 (errorChan h c 2 ((jobOfPsn (chanOf (inc (trnCtr h 5) r) h c) p.psn).map (fun j => (j, 0x21, Packet.extF p 2 2 8 8))) 0x20 0x22 0 (acknowledge h c (Packet.extW p 2 0) (Packet.extW p 2 1) (setChan h c { chanOf (inc (trnCtr h 5) r) h c with unacked := (chanOf (inc (trnCtr h 5) r) h c).unacked.filter (fun u => u.pkt.psn ≠ p.psn) } (inc (trnCtr h 5) r))))
    (respTest h 7 p s = (r, true)) ∧ (c = p.chan.toNat) ∧ (Packet.extF p 2 2 0 8 = 16) ∧ ((chanOf (inc (trnCtr h 5) r) h c).unacked.any (fun u => u.pkt.psn == p.psn) = true) ∧ (q = trnCause h 2 (errorChan h c 2 ((jobOfPsn (chanOf (inc (trnCtr h 5) r) h c) p.psn).map (fun j => (j, 0x21, Packet.extF p 2 2 8 8))) 0x20 0x22 0 (acknowledge h c (Packet.extW p 2 0) (Packet.extW p 2 1) (setChan h c { chanOf (inc (trnCtr h 5) r) h c with unacked := (chanOf (inc (trnCtr h 5) r) h c).unacked.filter (fun u => u.pkt.psn ≠ p.psn) } (inc (trnCtr h 5) r))))) ∧ quiet s (runChan h c (viewOf m q) q) = true := by decide +kernel

set_option maxRecDepth 100000 in
theorem wit_Acknowledgements_5 :
    let h : Nat := 1; let p : Packet := sealPkt { dest := 1, src := 5, cls := 1, mode := 0, lenCells := 0, ptype := 7, extMask := 4, ext := [0, 0, 785, 0], payload := [], psn := 0, chan := 2, inc := 6 }; let m : HostView := {}; let c : Nat := 2; let s : State := { sOn with hs.ports := [(1, { st := .up, jobs := [{ id := 0, h := 1, q := 0, idx := 0, ents := [[1048583, 2, 0, 0, 0, 0, 0, 8, 256, 0, 0, 0, 0, 0, 0, 2147483648]], begun := true, ready := true, next := 1, sent := 1, left := 1, chan := 2 }], nextJob := 1 })], hs.wqs := [(objKey 20 1 0, { st := .active, priv := true, head := 1, tail := 1, order := [0] })], hs.cqs := [(objKey 20 1 0, { active := true })], hs.chans := [(objKey 24 1 2, { st := .active, peer := 5, peerCh := 3, inc := 6, check := 4, cached := true, used := 1, t0 := 4, limit := 4, relaxed := true, txNext := 1, timer := true, unacked := [{ pkt := { dest := 5, src := 1, cls := 0, lenCells := 2, ptype := 1, extMask := 1, ext := [0x100, 0x40000000, 0x300, 0], psn := 0, chan := 3, inc := 6 }, job := some 0, bytes := 8, len := 8 }] })], hs.bar := [(hostKey 1 0 0x20008, 0x100104), (hostKey 1 0 0x40010, 4)], hs.mrCache := [(objKey 24 1 3, [0x9F, 0, 0, 0, 0x10000, 0, 0, 0, 0, 0, 0, 0, 0, 0, 0, 0])] }; let r : State := (respTest 1 7 p s).1; let q : State := trnCause h 2 (errorChan h c 3 ((jobOfPsn (chanOf (inc (trnCtr h 5) r) h c) p.psn).map (fun j => (j, 0x23, 0))) 0x20 0x22 0 (acknowledge h c (Packet.extW p 2 0) (Packet.extW p 2 1) (setChan h c { chanOf (inc (trnCtr h 5) r) h c with unacked := (chanOf (inc (trnCtr h 5) r) h c).unacked.filter (fun u => u.pkt.psn ≠ p.psn) } (inc (trnCtr h 5) r))))
    (respTest h 7 p s = (r, true)) ∧ (c = p.chan.toNat) ∧ (Packet.extF p 2 2 0 8 = 17) ∧ ((chanOf (inc (trnCtr h 5) r) h c).unacked.any (fun u => u.pkt.psn == p.psn) = true) ∧ (q = trnCause h 2 (errorChan h c 3 ((jobOfPsn (chanOf (inc (trnCtr h 5) r) h c) p.psn).map (fun j => (j, 0x23, 0))) 0x20 0x22 0 (acknowledge h c (Packet.extW p 2 0) (Packet.extW p 2 1) (setChan h c { chanOf (inc (trnCtr h 5) r) h c with unacked := (chanOf (inc (trnCtr h 5) r) h c).unacked.filter (fun u => u.pkt.psn ≠ p.psn) } (inc (trnCtr h 5) r))))) ∧ quiet s (runChan h c (viewOf m q) q) = true := by decide +kernel

set_option maxRecDepth 100000 in
theorem wit_Acknowledgements_6 :
    let h : Nat := 1; let p : Packet := sealPkt { dest := 1, src := 5, cls := 1, mode := 0, lenCells := 0, ptype := 7, extMask := 4, ext := [0, 0, 786, 0], payload := [], psn := 0, chan := 2, inc := 6 }; let m : HostView := {}; let c : Nat := 2; let s : State := { sOn with hs.ports := [(1, { st := .up, jobs := [{ id := 0, h := 1, q := 0, idx := 0, ents := [[1048583, 2, 0, 0, 0, 0, 0, 8, 256, 0, 0, 0, 0, 0, 0, 2147483648]], begun := true, ready := true, next := 1, sent := 1, left := 1, chan := 2 }], nextJob := 1 })], hs.wqs := [(objKey 20 1 0, { st := .active, priv := true, head := 1, tail := 1, order := [0] })], hs.cqs := [(objKey 20 1 0, { active := true })], hs.chans := [(objKey 24 1 2, { st := .active, peer := 5, peerCh := 3, inc := 6, check := 4, cached := true, used := 1, t0 := 4, limit := 4, relaxed := true, txNext := 1, timer := true, unacked := [{ pkt := { dest := 5, src := 1, cls := 0, lenCells := 2, ptype := 1, extMask := 1, ext := [0x100, 0x40000000, 0x300, 0], psn := 0, chan := 3, inc := 6 }, job := some 0, bytes := 8, len := 8 }] })], hs.bar := [(hostKey 1 0 0x20008, 0x100104), (hostKey 1 0 0x40010, 4)], hs.mrCache := [(objKey 24 1 3, [0x9F, 0, 0, 0, 0x10000, 0, 0, 0, 0, 0, 0, 0, 0, 0, 0, 0])] }; let r : State := (respTest 1 7 p s).1; let q : State := trnCause h 2 (errorChan h c 4 ((jobOfPsn (chanOf (inc (trnCtr h 5) r) h c) p.psn).map (fun j => (j, 0x24, 0))) 0x20 0x22 0 (acknowledge h c (Packet.extW p 2 0) (Packet.extW p 2 1) (setChan h c { chanOf (inc (trnCtr h 5) r) h c with unacked := (chanOf (inc (trnCtr h 5) r) h c).unacked.filter (fun u => u.pkt.psn ≠ p.psn) } (inc (trnCtr h 5) r))))
    (respTest h 7 p s = (r, true)) ∧ (c = p.chan.toNat) ∧ (Packet.extF p 2 2 0 8 = 18) ∧ ((chanOf (inc (trnCtr h 5) r) h c).unacked.any (fun u => u.pkt.psn == p.psn) = true) ∧ (q = trnCause h 2 (errorChan h c 4 ((jobOfPsn (chanOf (inc (trnCtr h 5) r) h c) p.psn).map (fun j => (j, 0x24, 0))) 0x20 0x22 0 (acknowledge h c (Packet.extW p 2 0) (Packet.extW p 2 1) (setChan h c { chanOf (inc (trnCtr h 5) r) h c with unacked := (chanOf (inc (trnCtr h 5) r) h c).unacked.filter (fun u => u.pkt.psn ≠ p.psn) } (inc (trnCtr h 5) r))))) ∧ quiet s (runChan h c (viewOf m q) q) = true := by decide +kernel

set_option maxRecDepth 100000 in
theorem wit_Acknowledgements_7 :
    let h : Nat := 1; let p : Packet := sealPkt { dest := 1, src := 5, cls := 1, mode := 0, lenCells := 0, ptype := 4, extMask := 4, ext := [1, 0, 0, 0], payload := [1, 2, 3, 4], psn := 0, chan := 2, inc := 6 }; let m : HostView := {}; let s : State := sOn; let r : State := (respTest 1 4 p s).1
    (respTest h 4 p s = (r, false)) ∧ quiet s (r) = true := by decide +kernel

set_option maxRecDepth 100000 in
theorem wit_Acknowledgements_8 :
    let h : Nat := 1; let p : Packet := sealPkt { dest := 1, src := 5, cls := 1, mode := 0, lenCells := 0, ptype := 4, extMask := 4, ext := [1, 0, 0, 0], payload := [1, 2, 3, 4], psn := 0, chan := 2, inc := 6 }; let m : HostView := {}; let c : Nat := 2; let s : State := { sOn with hs.ports := [(1, { st := .up, jobs := [{ id := 0, h := 1, q := 0, idx := 0, ents := [[1179655, 2, 0, 0, 512, 0, 768, 4, 256, 0, 0, 0, 0, 0, 0, 2147483648]], begun := true, ready := true, next := 1, sent := 1, left := 1, chan := 2 }], nextJob := 1 })], hs.wqs := [(objKey 20 1 0, { st := .active, priv := true, head := 1, tail := 1, order := [0] })], hs.cqs := [(objKey 20 1 0, { active := true })], hs.chans := [(objKey 24 1 2, { st := .active, peer := 5, peerCh := 3, inc := 6, check := 4, cached := true, used := 1, t0 := 4, limit := 4, relaxed := true, txNext := 1, timer := true, unacked := [{ pkt := { dest := 5, src := 1, cls := 0, lenCells := 2, ptype := 1, extMask := 1, ext := [0x100, 0x40000000, 0x300, 0], psn := 0, chan := 3, inc := 6 }, job := some 0, bytes := 4, len := 4 }] })], hs.bar := [(hostKey 1 0 0x20008, 0x100104), (hostKey 1 0 0x40010, 4)], hs.mrCache := [(objKey 24 1 3, [0x9F, 0, 0, 0, 0x10000, 0, 0, 0, 0, 0, 0, 0, 0, 0, 0, 0])] }; let r : State := (respTest 1 4 p s).1
    (respTest h 4 p s = (r, true)) ∧ (c = p.chan.toNat) ∧ ((chanOf r h c).unacked.find? (fun u => u.pkt.psn == p.psn && u.pkt.ptype == 3) = none) ∧ quiet s (trnStale h 19 r) = true := by decide +kernel

set_option maxRecDepth 100000 in
theorem wit_Acknowledgements_9 :
    let h : Nat := 1; let p : Packet := sealPkt { dest := 1, src := 5, cls := 1, mode := 0, lenCells := 0, ptype := 4, extMask := 4, ext := [1, 0, 0, 0], payload := [1, 2, 3, 4], psn := 0, chan := 2, inc := 6 }; let m : HostView := {}; let c : Nat := 2; let u : TxPkt := { pkt := { dest := 5, src := 1, cls := 0, lenCells := 2, ptype := 3, extMask := 1, ext := [0x100, 0x40000000, 0x300, 0], psn := 0, chan := 3, inc := 6 }, job := some 0, bytes := 4, len := 4 }; let bs : List Byte := [1, 2, 3, 4]; let s : State := { sOn with hs.ports := [(1, { st := .up, jobs := [], nextJob := 1 })], hs.wqs := [(objKey 20 1 0, { st := .active, priv := true, head := 1, tail := 1, order := [0] })], hs.cqs := [(objKey 20 1 0, { active := true })], hs.chans := [(objKey 24 1 2, { st := .active, peer := 5, peerCh := 3, inc := 6, check := 4, cached := true, used := 1, t0 := 4, limit := 4, relaxed := true, txNext := 1, timer := true, unacked := [{ pkt := { dest := 5, src := 1, cls := 0, lenCells := 2, ptype := 3, extMask := 1, ext := [0x100, 0x40000000, 0x300, 0], psn := 0, chan := 3, inc := 6 }, job := some 0, bytes := 4, len := 4 }] })], hs.bar := [(hostKey 1 0 0x20008, 0x100104), (hostKey 1 0 0x40010, 4)], hs.mrCache := [(objKey 24 1 3, [0x9F, 0, 0, 0, 0x10000, 0, 0, 0, 0, 0, 0, 0, 0, 0, 0, 0])] }; let r : State := (respTest 1 4 p s).1
    (respTest h 4 p s = (r, true)) ∧ (c = p.chan.toNat) ∧ ((chanOf r h c).unacked.find? (fun u => u.pkt.psn == p.psn && u.pkt.ptype == 3) = some u) ∧ (bs = p.payload) ∧ (bs.length = u.len) ∧ ((jobOfPsn (chanOf r h c) u.pkt.psn).bind (jobOf r h) = none) ∧ quiet s (respDone h c u p (viewOf m r) r) = true := by decide +kernel

set_option maxRecDepth 100000 in
theorem wit_Acknowledgements_10 :
    let h : Nat := 1; let p : Packet := sealPkt { dest := 1, src := 5, cls := 1, mode := 0, lenCells := 0, ptype := 4, extMask := 4, ext := [1, 0, 0, 0], payload := [1, 2, 3, 4], psn := 0, chan := 2, inc := 6 }; let m : HostView := {}; let c : Nat := 2; let u : TxPkt := { pkt := { dest := 5, src := 1, cls := 0, lenCells := 2, ptype := 3, extMask := 1, ext := [0x100, 0x40000000, 0x300, 0], psn := 0, chan := 3, inc := 6 }, job := some 0, bytes := 4, len := 4 }; let bs : List Byte := [1, 2, 3, 4]; let j : Job := { id := 0, h := 1, q := 0, idx := 0, ents := [[1179655, 2, 0, 0, 512, 0, 768, 4, 256, 0, 0, 0, 0, 0, 0, 2147483648]], begun := true, ready := true, next := 1, sent := 1, left := 1, chan := 2 }; let s : State := { sOn with ev.ecc := [(eccTx 1, 0)], hs.ports := [(1, { st := .up, jobs := [{ id := 0, h := 1, q := 0, idx := 0, ents := [[1179655, 2, 0, 0, 512, 0, 768, 4, 256, 0, 0, 0, 0, 0, 0, 2147483648]], begun := true, ready := true, next := 1, sent := 1, left := 1, chan := 2 }], nextJob := 1 })], hs.wqs := [(objKey 20 1 0, { st := .active, priv := true, head := 1, tail := 1, order := [0] })], hs.cqs := [(objKey 20 1 0, { active := true })], hs.chans := [(objKey 24 1 2, { st := .active, peer := 5, peerCh := 3, inc := 6, check := 4, cached := true, used := 1, t0 := 4, limit := 4, relaxed := true, txNext := 1, timer := true, unacked := [{ pkt := { dest := 5, src := 1, cls := 0, lenCells := 2, ptype := 3, extMask := 1, ext := [0x100, 0x40000000, 0x300, 0], psn := 0, chan := 3, inc := 6 }, job := some 0, bytes := 4, len := 4 }] })], hs.bar := [(hostKey 1 0 0x20008, 0x100104), (hostKey 1 0 0x40010, 4)], hs.mrCache := [(objKey 24 1 3, [0x9F, 0, 0, 0, 0x10000, 0, 0, 0, 0, 0, 0, 0, 0, 0, 0, 0])] }; let r : State := (respTest 1 4 p s).1; let e : State := (meetDie (boleOf h) (eccTx h) j.id r).1
    (respTest h 4 p s = (r, true)) ∧ (c = p.chan.toNat) ∧ ((chanOf r h c).unacked.find? (fun u => u.pkt.psn == p.psn && u.pkt.ptype == 3) = some u) ∧ (bs = p.payload) ∧ (bs.length = u.len) ∧ ((jobOfPsn (chanOf r h c) u.pkt.psn).bind (jobOf r h) = some j) ∧ (meetDie (boleOf h) (eccTx h) j.id r = (e, false)) ∧ quiet s (stopWait h (.resp p) e) = true := by decide +kernel

set_option maxRecDepth 100000 in
theorem wit_Acknowledgements_11 :
    let h : Nat := 1; let p : Packet := sealPkt { dest := 1, src := 5, cls := 1, mode := 0, lenCells := 0, ptype := 4, extMask := 4, ext := [1, 0, 0, 0], payload := [1, 2, 3, 4], psn := 0, chan := 2, inc := 6 }; let m : HostView := {}; let c : Nat := 2; let u : TxPkt := { pkt := { dest := 5, src := 1, cls := 0, lenCells := 2, ptype := 3, extMask := 1, ext := [0x100, 0x40000000, 0x300, 0], psn := 0, chan := 3, inc := 6 }, job := some 0, bytes := 4, len := 4 }; let bs : List Byte := [1, 2, 3, 4]; let j : Job := { id := 0, h := 1, q := 0, idx := 0, ents := [[1179655, 2, 0, 0, 512, 0, 768, 4, 256, 0, 0, 0, 0, 0, 0, 2147483648]], begun := true, ready := true, next := 1, sent := 1, left := 1, chan := 2 }; let s : State := { sOn with hs.ports := [(1, { st := .up, jobs := [{ id := 0, h := 1, q := 0, idx := 0, ents := [[1179655, 2, 0, 0, 512, 0, 768, 4, 256, 0, 0, 0, 0, 0, 0, 2147483648]], begun := true, ready := true, next := 1, sent := 1, left := 1, chan := 2 }], nextJob := 1 })], hs.wqs := [(objKey 20 1 0, { st := .active, priv := true, head := 1, tail := 1, order := [0] })], hs.cqs := [(objKey 20 1 0, { active := true })], hs.chans := [(objKey 24 1 2, { st := .active, peer := 5, peerCh := 3, inc := 6, check := 4, cached := true, used := 1, t0 := 4, limit := 4, relaxed := true, txNext := 1, timer := true, unacked := [{ pkt := { dest := 5, src := 1, cls := 0, lenCells := 2, ptype := 3, extMask := 1, ext := [0x100, 0x40000000, 0x300, 0], psn := 0, chan := 3, inc := 6 }, job := some 0, bytes := 4, len := 4 }] })], hs.bar := [(hostKey 1 0 0x20008, 0x100104), (hostKey 1 0 0x40010, 4)], hs.mrCache := [(objKey 24 1 3, [0x9F, 0, 0, 0, 0x10000, 0, 0, 0, 0, 0, 0, 0, 0, 0, 0, 0])] }; let r : State := (respTest 1 4 p s).1; let e : State := (meetDie (boleOf h) (eccTx h) j.id r).1; let w : State := (writeLocal h j u.off bs (viewFor h (.resp p) (viewOf m r) e) e).2
    (respTest h 4 p s = (r, true)) ∧ (c = p.chan.toNat) ∧ ((chanOf r h c).unacked.find? (fun u => u.pkt.psn == p.psn && u.pkt.ptype == 3) = some u) ∧ (bs = p.payload) ∧ (bs.length = u.len) ∧ ((jobOfPsn (chanOf r h c) u.pkt.psn).bind (jobOf r h) = some j) ∧ (meetDie (boleOf h) (eccTx h) j.id r = (e, true)) ∧ (writeLocal h j u.off bs (viewFor h (.resp p) (viewOf m r) e) e = (.ok (), w)) ∧ quiet s (respDone h c u p (viewOf m r) w) = true := by decide +kernel

set_option maxRecDepth 100000 in
theorem wit_Acknowledgements_12 :
    let h : Nat := 1; let p : Packet := sealPkt { dest := 1, src := 5, cls := 1, mode := 0, lenCells := 0, ptype := 4, extMask := 4, ext := [1, 0, 0, 0], payload := [1, 2, 3, 4], psn := 0, chan := 2, inc := 6 }; let m : HostView := {}; let c : Nat := 2; let u : TxPkt := { pkt := { dest := 5, src := 1, cls := 0, lenCells := 2, ptype := 3, extMask := 1, ext := [0x100, 0x40000000, 0x300, 0], psn := 0, chan := 3, inc := 6 }, job := some 0, bytes := 4, len := 4 }; let bs : List Byte := [1, 2, 3, 4]; let j : Job := { id := 0, h := 1, q := 0, idx := 0, ents := [[1179655, 2, 0, 0, 512, 0, 768, 4, 256, 0, 0, 0, 0, 0, 0, 2147483648]], begun := true, ready := true, next := 1, sent := 1, left := 1, chan := 2 }; let s : State := { sOn with hs.ports := [(1, { st := .up, jobs := [{ id := 0, h := 1, q := 0, idx := 0, ents := [[1179655, 2, 0, 0, 512, 0, 768, 4, 256, 0, 0, 0, 0, 0, 0, 2147483648]], begun := true, ready := true, next := 1, sent := 1, left := 1, chan := 2 }], nextJob := 1 })], hs.wqs := [(objKey 20 1 0, { st := .active, priv := true, head := 1, tail := 1, order := [0] })], hs.cqs := [(objKey 20 1 0, { active := true })], hs.chans := [(objKey 24 1 2, { st := .active, peer := 5, peerCh := 3, inc := 6, check := 4, cached := true, used := 1, t0 := 4, limit := 4, relaxed := true, txNext := 1, timer := true, unacked := [{ pkt := { dest := 5, src := 1, cls := 0, lenCells := 2, ptype := 3, extMask := 1, ext := [0x100, 0x40000000, 0x300, 0], psn := 0, chan := 3, inc := 6 }, job := some 0, bytes := 4, len := 4 }] })], hs.bar := [(hostKey 1 0 0x20008, 0x100104), (hostKey 1 0 0x40010, 4), (hostKey 1 0 0x40008, 0x9000)] }; let r : State := (respTest 1 4 p s).1; let e : State := (meetDie (boleOf h) (eccTx h) j.id r).1; let n : Need := (match (writeLocal h j u.off bs (viewFor h (.resp p) (viewOf m r) e) e).1 with | .wait n => n | _ => .page 0 0 0); let w : State := (writeLocal h j u.off bs (viewFor h (.resp p) (viewOf m r) e) e).2
    (respTest h 4 p s = (r, true)) ∧ (c = p.chan.toNat) ∧ ((chanOf r h c).unacked.find? (fun u => u.pkt.psn == p.psn && u.pkt.ptype == 3) = some u) ∧ (bs = p.payload) ∧ (bs.length = u.len) ∧ ((jobOfPsn (chanOf r h c) u.pkt.psn).bind (jobOf r h) = some j) ∧ (meetDie (boleOf h) (eccTx h) j.id r = (e, true)) ∧ (writeLocal h j u.off bs (viewFor h (.resp p) (viewOf m r) e) e = (.wait n, w)) ∧ quiet s (waitFor h (.resp p) n w) = true := by decide +kernel

set_option maxRecDepth 100000 in
theorem wit_Acknowledgements_13 :
    let h : Nat := 1; let p : Packet := sealPkt { dest := 1, src := 5, cls := 1, mode := 0, lenCells := 0, ptype := 4, extMask := 4, ext := [1, 0, 0, 0], payload := [1, 2, 3, 4], psn := 0, chan := 2, inc := 6 }; let m : HostView := {}; let c : Nat := 2; let u : TxPkt := { pkt := { dest := 5, src := 1, cls := 0, lenCells := 2, ptype := 3, extMask := 1, ext := [0x100, 0x40000000, 0x300, 0], psn := 0, chan := 3, inc := 6 }, job := some 0, bytes := 4, len := 4 }; let bs : List Byte := [1, 2, 3, 4]; let j : Job := { id := 0, h := 1, q := 0, idx := 0, ents := [[1179655, 2, 0, 0, 512, 0, 20480, 4, 256, 0, 0, 0, 0, 0, 0, 2147483648]], begun := true, ready := true, next := 1, sent := 1, left := 1, chan := 2 }; let k : Nat := 1; let s : State := { sOn with hs.ports := [(1, { st := .up, jobs := [{ id := 0, h := 1, q := 0, idx := 0, ents := [[1179655, 2, 0, 0, 512, 0, 20480, 4, 256, 0, 0, 0, 0, 0, 0, 2147483648]], begun := true, ready := true, next := 1, sent := 1, left := 1, chan := 2 }], nextJob := 1 })], hs.wqs := [(objKey 20 1 0, { st := .active, priv := true, head := 1, tail := 1, order := [0] })], hs.cqs := [(objKey 20 1 0, { active := true })], hs.chans := [(objKey 24 1 2, { st := .active, peer := 5, peerCh := 3, inc := 6, check := 4, cached := true, used := 1, t0 := 4, limit := 4, relaxed := true, txNext := 1, timer := true, unacked := [{ pkt := { dest := 5, src := 1, cls := 0, lenCells := 2, ptype := 3, extMask := 1, ext := [0x100, 0x40000000, 0x300, 0], psn := 0, chan := 3, inc := 6 }, job := some 0, bytes := 4, len := 4 }] })], hs.bar := [(hostKey 1 0 0x20008, 0x100104), (hostKey 1 0 0x40010, 4)], hs.mrCache := [(objKey 24 1 3, [0x9F, 0, 0, 0, 0x10000, 0, 0, 0, 0, 0, 0, 0, 0, 0, 0, 0])] }; let r : State := (respTest 1 4 p s).1; let e : State := (meetDie (boleOf h) (eccTx h) j.id r).1; let w : State := (writeLocal h j u.off bs (viewFor h (.resp p) (viewOf m r) e) e).2
    (respTest h 4 p s = (r, true)) ∧ (c = p.chan.toNat) ∧ ((chanOf r h c).unacked.find? (fun u => u.pkt.psn == p.psn && u.pkt.ptype == 3) = some u) ∧ (bs = p.payload) ∧ (bs.length = u.len) ∧ ((jobOfPsn (chanOf r h c) u.pkt.psn).bind (jobOf r h) = some j) ∧ (meetDie (boleOf h) (eccTx h) j.id r = (e, true)) ∧ (u.job ≠ none) ∧ (writeLocal h j u.off bs (viewFor h (.resp p) (viewOf m r) e) e = (.fail k, w)) ∧ quiet s (respDone h c u p (viewOf m r) (failAcc h j j.acked (.fail k : Acc Unit) (updChan h c (fun x => { x with toSend := x.toSend.filter (fun y => y.job ≠ some j.id), line := x.line.filter (· ≠ .job j.id) }) w))) = true := by decide +kernel

set_option maxRecDepth 100000 in
theorem wit_Acknowledgements_14 :
    let h : Nat := 1; let p : Packet := sealPkt { dest := 1, src := 5, cls := 1, mode := 0, lenCells := 0, ptype := 4, extMask := 4, ext := [1, 0, 0, 0], payload := [1, 2, 3], psn := 0, chan := 2, inc := 6 }; let m : HostView := {}; let c : Nat := 2; let u : TxPkt := { pkt := { dest := 5, src := 1, cls := 0, lenCells := 2, ptype := 3, extMask := 1, ext := [0x100, 0x40000000, 0x300, 0], psn := 0, chan := 3, inc := 6 }, job := some 0, bytes := 4, len := 4 }; let bs : List Byte := [1, 2, 3]; let s : State := { sOn with hs.ports := [(1, { st := .up, jobs := [{ id := 0, h := 1, q := 0, idx := 0, ents := [[1179655, 2, 0, 0, 512, 0, 768, 4, 256, 0, 0, 0, 0, 0, 0, 2147483648]], begun := true, ready := true, next := 1, sent := 1, left := 1, chan := 2 }], nextJob := 1 })], hs.wqs := [(objKey 20 1 0, { st := .active, priv := true, head := 1, tail := 1, order := [0] })], hs.cqs := [(objKey 20 1 0, { active := true })], hs.chans := [(objKey 24 1 2, { st := .active, peer := 5, peerCh := 3, inc := 6, check := 4, cached := true, used := 1, t0 := 4, limit := 4, relaxed := true, txNext := 1, timer := true, unacked := [{ pkt := { dest := 5, src := 1, cls := 0, lenCells := 2, ptype := 3, extMask := 1, ext := [0x100, 0x40000000, 0x300, 0], psn := 0, chan := 3, inc := 6 }, job := some 0, bytes := 4, len := 4 }] })], hs.bar := [(hostKey 1 0 0x20008, 0x100104), (hostKey 1 0 0x40010, 4)], hs.mrCache := [(objKey 24 1 3, [0x9F, 0, 0, 0, 0x10000, 0, 0, 0, 0, 0, 0, 0, 0, 0, 0, 0])] }; let r : State := (respTest 1 4 p s).1
    (respTest h 4 p s = (r, true)) ∧ (c = p.chan.toNat) ∧ ((chanOf r h c).unacked.find? (fun u => u.pkt.psn == p.psn && u.pkt.ptype == 3) = some u) ∧ (bs = p.payload) ∧ (bs.length ≠ u.len) ∧ quiet s (trnStale h 19 r) = true := by decide +kernel

set_option maxRecDepth 100000 in
theorem wit_Acknowledgements_15 :
    let h : Nat := 1; let p : Packet := sealPkt { dest := 1, src := 5, cls := 1, mode := 0, lenCells := 0, ptype := 4, extMask := 4, ext := [1, 0, 0, 0], payload := [1, 2, 3, 4], psn := 0, chan := 2, inc := 6 }; let m : HostView := {}; let c : Nat := 2; let u : TxPkt := { pkt := { dest := 5, src := 1, cls := 0, lenCells := 2, ptype := 3, extMask := 1, ext := [0x100, 0x40000000, 0x300, 0], psn := 0, chan := 3, inc := 6 }, job := none, fetch := some 9, bytes := 4, len := 4 }; let bs : List Byte := [1, 2, 3, 4]; let j : Job := { id := 0, h := 1, q := 0, idx := 0, ents := [[2162695, 0, 0, 0, 512, 0, 20480, 4, 0, 0, 0, 0, 0, 0, 0, 2147483648]], begun := true, ready := true }; let k : Nat := 1; let f : Fetch := { job := 0, orig := 9, tag := 0, comm := 0, rank := 0, addr := 0x100, key := 0x300, len := 4, msgLen := 4, left := 4, unexp := false, sent := true }; let s : State := { sOn with hs.ports := [(1, { st := .up, jobs := [{ id := 0, h := 1, q := 0, idx := 0, ents := [[2162695, 0, 0, 0, 512, 0, 20480, 4, 0, 0, 0, 0, 0, 0, 0, 2147483648]], begun := true, ready := true }], nextJob := 1 })], hs.wqs := [(objKey 20 1 0, { st := .active, priv := true, head := 1, tail := 1, order := [0] })], hs.cqs := [(objKey 20 1 0, { active := true })], hs.chans := [(objKey 24 1 2, { st := .active, peer := 5, peerCh := 3, inc := 6, check := 4, cached := true, used := 1, t0 := 4, limit := 4, relaxed := true, txNext := 1, fetches := [{ job := 0, orig := 9, tag := 0, comm := 0, rank := 0, addr := 0x100, key := 0x300, len := 4, msgLen := 4, left := 4, unexp := false, sent := true }], line := [.fetch 9], timer := true, unacked := [{ pkt := { dest := 5, src := 1, cls := 0, lenCells := 2, ptype := 3, extMask := 1, ext := [0x100, 0x40000000, 0x300, 0], psn := 0, chan := 3, inc := 6 }, job := none, fetch := some 9, bytes := 4, len := 4 }] })], hs.bar := [(hostKey 1 0 0x20008, 0x100104), (hostKey 1 0 0x40010, 4)], hs.mrCache := [(objKey 24 1 3, [0x9F, 0, 0, 0, 0x10000, 0, 0, 0, 0, 0, 0, 0, 0, 0, 0, 0])] }; let r : State := (respTest 1 4 p s).1; let e : State := (meetDie (boleOf h) (eccTx h) j.id r).1; let w : State := (writeLocal h j u.off bs (viewFor h (.resp p) (viewOf m r) e) e).2
    (respTest h 4 p s = (r, true)) ∧ (c = p.chan.toNat) ∧ ((chanOf r h c).unacked.find? (fun u => u.pkt.psn == p.psn && u.pkt.ptype == 3) = some u) ∧ (bs = p.payload) ∧ (bs.length = u.len) ∧ ((jobOfPsn (chanOf r h c) u.pkt.psn).bind (jobOf r h) = some j) ∧ (meetDie (boleOf h) (eccTx h) j.id r = (e, true)) ∧ (u.job = none) ∧ ((chanOf w h c).fetches.find? (fun f => u.fetch == some f.orig) = some f) ∧ (writeLocal h j u.off bs (viewFor h (.resp p) (viewOf m r) e) e = (.fail k, w)) ∧ quiet s (respDone h c u p (viewOf m r) (mtcCause h 5 (failRecv h j.id (if k = 12 ∨ k = 13 then 0x48 else 0x11) (f.len - f.left) k (fetchFlags f) (updChan h c (fun x => { x with fetches := x.fetches.filter (fun g => g.orig != f.orig), toSend := x.toSend.filter (fun y => y.fetch != some f.orig), line := x.line.filter (· ≠ .fetch f.orig) }) w)))) = true := by decide +kernel

set_option maxRecDepth 100000 in
theorem wit_Acknowledgements_16 :
    let h : Nat := 1; let p : Packet := sealPkt { dest := 1, src := 5, cls := 1, mode := 0, lenCells := 0, ptype := 6, extMask := 6, ext := [0x100, 0x40020000, 0x300, 0, 0x41, 0, 1, 0, 1, 0, 0, 0], payload := [], psn := 0, chan := 2, inc := 6 }; let m : HostView := {}; let s : State := sOn; let r : State := (respTest 1 6 p s).1
    (respTest h 6 p s = (r, false)) ∧ quiet s (r) = true := by decide +kernel

set_option maxRecDepth 100000 in
theorem wit_Acknowledgements_17 :
    let h : Nat := 1; let p : Packet := sealPkt { dest := 1, src := 5, cls := 1, mode := 0, lenCells := 0, ptype := 6, extMask := 6, ext := [0x100, 0x40020000, 0x300, 0, 0x41, 0, 1, 0, 1, 0, 0, 0], payload := [], psn := 0, chan := 2, inc := 6 }; let m : HostView := {}; let c : Nat := 2; let s : State := { sOn with hs.ports := [(1, { st := .up, jobs := [{ id := 0, h := 1, q := 0, idx := 0, ents := [[1245191, 33554434, 0, 0, 512, 0, 768, 4, 256, 0, 0, 0, 0, 0, 0, 2147483648]], begun := true, ready := true, next := 1, sent := 1, left := 1, chan := 2 }], nextJob := 1 })], hs.wqs := [(objKey 20 1 0, { st := .active, priv := true, head := 1, tail := 1, order := [0] })], hs.cqs := [(objKey 20 1 0, { active := true })], hs.chans := [(objKey 24 1 2, { st := .active, peer := 5, peerCh := 3, inc := 6, check := 4, cached := true, used := 1, t0 := 4, limit := 4, relaxed := true, txNext := 1, timer := true, unacked := [{ pkt := { dest := 5, src := 1, cls := 0, lenCells := 2, ptype := 1, extMask := 2, ext := [0x100, 0x40020000, 0x300, 0, 0, 0, 1, 0], psn := 0, chan := 3, inc := 6 }, job := some 0, bytes := 4, len := 4 }] })], hs.bar := [(hostKey 1 0 0x20008, 0x100104), (hostKey 1 0 0x40010, 4)], hs.mrCache := [(objKey 24 1 3, [0x9F, 0, 0, 0, 0x10000, 0, 0, 0, 0, 0, 0, 0, 0, 0, 0, 0])] }; let r : State := (respTest 1 6 p s).1
    (respTest h 6 p s = (r, true)) ∧ (c = p.chan.toNat) ∧ ((chanOf r h c).unacked.find? (fun u => u.pkt.psn == p.psn && u.pkt.ptype == 5) = none) ∧ quiet s (trnStale h 19 r) = true := by decide +kernel

set_option maxRecDepth 100000 in
theorem wit_Acknowledgements_18 :
    let h : Nat := 1; let p : Packet := sealPkt { dest := 1, src := 5, cls := 1, mode := 0, lenCells := 0, ptype := 6, extMask := 6, ext := [0x100, 0x40020000, 0x300, 0, 0x41, 0, 1, 0, 1, 0, 0, 0], payload := [], psn := 0, chan := 2, inc := 6 }; let m : HostView := {}; let c : Nat := 2; let u : TxPkt := { pkt := { dest := 5, src := 1, cls := 0, lenCells := 2, ptype := 5, extMask := 2, ext := [0x100, 0x40020000, 0x300, 0, 0, 0, 1, 0], psn := 0, chan := 3, inc := 6 }, job := some 0, bytes := 4, len := 4 }; let bs : List Byte := [0x41, 0, 0, 0]; let s : State := { sOn with hs.ports := [(1, { st := .up, jobs := [], nextJob := 1 })], hs.wqs := [(objKey 20 1 0, { st := .active, priv := true, head := 1, tail := 1, order := [0] })], hs.cqs := [(objKey 20 1 0, { active := true })], hs.chans := [(objKey 24 1 2, { st := .active, peer := 5, peerCh := 3, inc := 6, check := 4, cached := true, used := 1, t0 := 4, limit := 4, relaxed := true, txNext := 1, timer := true, unacked := [{ pkt := { dest := 5, src := 1, cls := 0, lenCells := 2, ptype := 5, extMask := 2, ext := [0x100, 0x40020000, 0x300, 0, 0, 0, 1, 0], psn := 0, chan := 3, inc := 6 }, job := some 0, bytes := 4, len := 4 }] })], hs.bar := [(hostKey 1 0 0x20008, 0x100104), (hostKey 1 0 0x40010, 4)], hs.mrCache := [(objKey 24 1 3, [0x9F, 0, 0, 0, 0x10000, 0, 0, 0, 0, 0, 0, 0, 0, 0, 0, 0])] }; let r : State := (respTest 1 6 p s).1
    (respTest h 6 p s = (r, true)) ∧ (c = p.chan.toNat) ∧ ((chanOf r h c).unacked.find? (fun u => u.pkt.psn == p.psn && u.pkt.ptype == 5) = some u) ∧ (bs = leBytes u.len ((Packet.extW p 1 4).toNat + 2 ^ 32 * (Packet.extW p 1 5).toNat)) ∧ (bs.length = u.len) ∧ ((jobOfPsn (chanOf r h c) u.pkt.psn).bind (jobOf r h) = none) ∧ quiet s (respDone h c u p (viewOf m r) r) = true := by decide +kernel

set_option maxRecDepth 100000 in
theorem wit_Acknowledgements_19 :
    let h : Nat := 1; let p : Packet := sealPkt { dest := 1, src := 5, cls := 1, mode := 0, lenCells := 0, ptype := 6, extMask := 6, ext := [0x100, 0x40020000, 0x300, 0, 0x41, 0, 1, 0, 1, 0, 0, 0], payload := [], psn := 0, chan := 2, inc := 6 }; let m : HostView := {}; let c : Nat := 2; let u : TxPkt := { pkt := { dest := 5, src := 1, cls := 0, lenCells := 2, ptype := 5, extMask := 2, ext := [0x100, 0x40020000, 0x300, 0, 0, 0, 1, 0], psn := 0, chan := 3, inc := 6 }, job := some 0, bytes := 4, len := 4 }; let bs : List Byte := [0x41, 0, 0, 0]; let j : Job := { id := 0, h := 1, q := 0, idx := 0, ents := [[1245191, 33554434, 0, 0, 512, 0, 768, 4, 256, 0, 0, 0, 0, 0, 0, 2147483648]], begun := true, ready := true, next := 1, sent := 1, left := 1, chan := 2 }; let s : State := { sOn with ev.ecc := [(eccTx 1, 0)], hs.ports := [(1, { st := .up, jobs := [{ id := 0, h := 1, q := 0, idx := 0, ents := [[1245191, 33554434, 0, 0, 512, 0, 768, 4, 256, 0, 0, 0, 0, 0, 0, 2147483648]], begun := true, ready := true, next := 1, sent := 1, left := 1, chan := 2 }], nextJob := 1 })], hs.wqs := [(objKey 20 1 0, { st := .active, priv := true, head := 1, tail := 1, order := [0] })], hs.cqs := [(objKey 20 1 0, { active := true })], hs.chans := [(objKey 24 1 2, { st := .active, peer := 5, peerCh := 3, inc := 6, check := 4, cached := true, used := 1, t0 := 4, limit := 4, relaxed := true, txNext := 1, timer := true, unacked := [{ pkt := { dest := 5, src := 1, cls := 0, lenCells := 2, ptype := 5, extMask := 2, ext := [0x100, 0x40020000, 0x300, 0, 0, 0, 1, 0], psn := 0, chan := 3, inc := 6 }, job := some 0, bytes := 4, len := 4 }] })], hs.bar := [(hostKey 1 0 0x20008, 0x100104), (hostKey 1 0 0x40010, 4)], hs.mrCache := [(objKey 24 1 3, [0x9F, 0, 0, 0, 0x10000, 0, 0, 0, 0, 0, 0, 0, 0, 0, 0, 0])] }; let r : State := (respTest 1 6 p s).1; let e : State := (meetDie (boleOf h) (eccTx h) j.id r).1
    (respTest h 6 p s = (r, true)) ∧ (c = p.chan.toNat) ∧ ((chanOf r h c).unacked.find? (fun u => u.pkt.psn == p.psn && u.pkt.ptype == 5) = some u) ∧ (bs = leBytes u.len ((Packet.extW p 1 4).toNat + 2 ^ 32 * (Packet.extW p 1 5).toNat)) ∧ (bs.length = u.len) ∧ ((jobOfPsn (chanOf r h c) u.pkt.psn).bind (jobOf r h) = some j) ∧ (meetDie (boleOf h) (eccTx h) j.id r = (e, false)) ∧ quiet s (stopWait h (.resp p) e) = true := by decide +kernel

set_option maxRecDepth 100000 in
theorem wit_Acknowledgements_20 :
    let h : Nat := 1; let p : Packet := sealPkt { dest := 1, src := 5, cls := 1, mode := 0, lenCells := 0, ptype := 6, extMask := 6, ext := [0x100, 0x40020000, 0x300, 0, 0x41, 0, 1, 0, 1, 0, 0, 0], payload := [], psn := 0, chan := 2, inc := 6 }; let m : HostView := {}; let c : Nat := 2; let u : TxPkt := { pkt := { dest := 5, src := 1, cls := 0, lenCells := 2, ptype := 5, extMask := 2, ext := [0x100, 0x40020000, 0x300, 0, 0, 0, 1, 0], psn := 0, chan := 3, inc := 6 }, job := some 0, bytes := 4, len := 4 }; let bs : List Byte := [0x41, 0, 0, 0]; let j : Job := { id := 0, h := 1, q := 0, idx := 0, ents := [[1245191, 33554434, 0, 0, 512, 0, 768, 4, 256, 0, 0, 0, 0, 0, 0, 2147483648]], begun := true, ready := true, next := 1, sent := 1, left := 1, chan := 2 }; let s : State := { sOn with hs.ports := [(1, { st := .up, jobs := [{ id := 0, h := 1, q := 0, idx := 0, ents := [[1245191, 33554434, 0, 0, 512, 0, 768, 4, 256, 0, 0, 0, 0, 0, 0, 2147483648]], begun := true, ready := true, next := 1, sent := 1, left := 1, chan := 2 }], nextJob := 1 })], hs.wqs := [(objKey 20 1 0, { st := .active, priv := true, head := 1, tail := 1, order := [0] })], hs.cqs := [(objKey 20 1 0, { active := true })], hs.chans := [(objKey 24 1 2, { st := .active, peer := 5, peerCh := 3, inc := 6, check := 4, cached := true, used := 1, t0 := 4, limit := 4, relaxed := true, txNext := 1, timer := true, unacked := [{ pkt := { dest := 5, src := 1, cls := 0, lenCells := 2, ptype := 5, extMask := 2, ext := [0x100, 0x40020000, 0x300, 0, 0, 0, 1, 0], psn := 0, chan := 3, inc := 6 }, job := some 0, bytes := 4, len := 4 }] })], hs.bar := [(hostKey 1 0 0x20008, 0x100104), (hostKey 1 0 0x40010, 4)], hs.mrCache := [(objKey 24 1 3, [0x9F, 0, 0, 0, 0x10000, 0, 0, 0, 0, 0, 0, 0, 0, 0, 0, 0])] }; let r : State := (respTest 1 6 p s).1; let e : State := (meetDie (boleOf h) (eccTx h) j.id r).1; let w : State := (writeLocal h j u.off bs (viewFor h (.resp p) (viewOf m r) e) e).2
    (respTest h 6 p s = (r, true)) ∧ (c = p.chan.toNat) ∧ ((chanOf r h c).unacked.find? (fun u => u.pkt.psn == p.psn && u.pkt.ptype == 5) = some u) ∧ (bs = leBytes u.len ((Packet.extW p 1 4).toNat + 2 ^ 32 * (Packet.extW p 1 5).toNat)) ∧ (bs.length = u.len) ∧ ((jobOfPsn (chanOf r h c) u.pkt.psn).bind (jobOf r h) = some j) ∧ (meetDie (boleOf h) (eccTx h) j.id r = (e, true)) ∧ (writeLocal h j u.off bs (viewFor h (.resp p) (viewOf m r) e) e = (.ok (), w)) ∧ quiet s (respDone h c u p (viewOf m r) w) = true := by decide +kernel

set_option maxRecDepth 100000 in
theorem wit_Acknowledgements_21 :
    let h : Nat := 1; let p : Packet := sealPkt { dest := 1, src := 5, cls := 1, mode := 0, lenCells := 0, ptype := 6, extMask := 6, ext := [0x100, 0x40020000, 0x300, 0, 0x41, 0, 1, 0, 1, 0, 0, 0], payload := [], psn := 0, chan := 2, inc := 6 }; let m : HostView := {}; let c : Nat := 2; let u : TxPkt := { pkt := { dest := 5, src := 1, cls := 0, lenCells := 2, ptype := 5, extMask := 2, ext := [0x100, 0x40020000, 0x300, 0, 0, 0, 1, 0], psn := 0, chan := 3, inc := 6 }, job := some 0, bytes := 4, len := 4 }; let bs : List Byte := [0x41, 0, 0, 0]; let j : Job := { id := 0, h := 1, q := 0, idx := 0, ents := [[1245191, 33554434, 0, 0, 512, 0, 768, 4, 256, 0, 0, 0, 0, 0, 0, 2147483648]], begun := true, ready := true, next := 1, sent := 1, left := 1, chan := 2 }; let s : State := { sOn with hs.ports := [(1, { st := .up, jobs := [{ id := 0, h := 1, q := 0, idx := 0, ents := [[1245191, 33554434, 0, 0, 512, 0, 768, 4, 256, 0, 0, 0, 0, 0, 0, 2147483648]], begun := true, ready := true, next := 1, sent := 1, left := 1, chan := 2 }], nextJob := 1 })], hs.wqs := [(objKey 20 1 0, { st := .active, priv := true, head := 1, tail := 1, order := [0] })], hs.cqs := [(objKey 20 1 0, { active := true })], hs.chans := [(objKey 24 1 2, { st := .active, peer := 5, peerCh := 3, inc := 6, check := 4, cached := true, used := 1, t0 := 4, limit := 4, relaxed := true, txNext := 1, timer := true, unacked := [{ pkt := { dest := 5, src := 1, cls := 0, lenCells := 2, ptype := 5, extMask := 2, ext := [0x100, 0x40020000, 0x300, 0, 0, 0, 1, 0], psn := 0, chan := 3, inc := 6 }, job := some 0, bytes := 4, len := 4 }] })], hs.bar := [(hostKey 1 0 0x20008, 0x100104), (hostKey 1 0 0x40010, 4), (hostKey 1 0 0x40008, 0x9000)] }; let r : State := (respTest 1 6 p s).1; let e : State := (meetDie (boleOf h) (eccTx h) j.id r).1; let n : Need := (match (writeLocal h j u.off bs (viewFor h (.resp p) (viewOf m r) e) e).1 with | .wait n => n | _ => .page 0 0 0); let w : State := (writeLocal h j u.off bs (viewFor h (.resp p) (viewOf m r) e) e).2
    (respTest h 6 p s = (r, true)) ∧ (c = p.chan.toNat) ∧ ((chanOf r h c).unacked.find? (fun u => u.pkt.psn == p.psn && u.pkt.ptype == 5) = some u) ∧ (bs = leBytes u.len ((Packet.extW p 1 4).toNat + 2 ^ 32 * (Packet.extW p 1 5).toNat)) ∧ (bs.length = u.len) ∧ ((jobOfPsn (chanOf r h c) u.pkt.psn).bind (jobOf r h) = some j) ∧ (meetDie (boleOf h) (eccTx h) j.id r = (e, true)) ∧ (writeLocal h j u.off bs (viewFor h (.resp p) (viewOf m r) e) e = (.wait n, w)) ∧ quiet s (waitFor h (.resp p) n w) = true := by decide +kernel

set_option maxRecDepth 100000 in
theorem wit_Acknowledgements_22 :
    let h : Nat := 1; let p : Packet := sealPkt { dest := 1, src := 5, cls := 1, mode := 0, lenCells := 0, ptype := 6, extMask := 6, ext := [0x100, 0x40020000, 0x300, 0, 0x41, 0, 1, 0, 1, 0, 0, 0], payload := [], psn := 0, chan := 2, inc := 6 }; let m : HostView := {}; let c : Nat := 2; let u : TxPkt := { pkt := { dest := 5, src := 1, cls := 0, lenCells := 2, ptype := 5, extMask := 2, ext := [0x100, 0x40020000, 0x300, 0, 0, 0, 1, 0], psn := 0, chan := 3, inc := 6 }, job := some 0, bytes := 4, len := 4 }; let bs : List Byte := [0x41, 0, 0, 0]; let j : Job := { id := 0, h := 1, q := 0, idx := 0, ents := [[1245191, 33554434, 0, 0, 512, 0, 20480, 4, 256, 0, 0, 0, 0, 0, 0, 2147483648]], begun := true, ready := true, next := 1, sent := 1, left := 1, chan := 2 }; let k : Nat := 1; let s : State := { sOn with hs.ports := [(1, { st := .up, jobs := [{ id := 0, h := 1, q := 0, idx := 0, ents := [[1245191, 33554434, 0, 0, 512, 0, 20480, 4, 256, 0, 0, 0, 0, 0, 0, 2147483648]], begun := true, ready := true, next := 1, sent := 1, left := 1, chan := 2 }], nextJob := 1 })], hs.wqs := [(objKey 20 1 0, { st := .active, priv := true, head := 1, tail := 1, order := [0] })], hs.cqs := [(objKey 20 1 0, { active := true })], hs.chans := [(objKey 24 1 2, { st := .active, peer := 5, peerCh := 3, inc := 6, check := 4, cached := true, used := 1, t0 := 4, limit := 4, relaxed := true, txNext := 1, timer := true, unacked := [{ pkt := { dest := 5, src := 1, cls := 0, lenCells := 2, ptype := 5, extMask := 2, ext := [0x100, 0x40020000, 0x300, 0, 0, 0, 1, 0], psn := 0, chan := 3, inc := 6 }, job := some 0, bytes := 4, len := 4 }] })], hs.bar := [(hostKey 1 0 0x20008, 0x100104), (hostKey 1 0 0x40010, 4)], hs.mrCache := [(objKey 24 1 3, [0x9F, 0, 0, 0, 0x10000, 0, 0, 0, 0, 0, 0, 0, 0, 0, 0, 0])] }; let r : State := (respTest 1 6 p s).1; let e : State := (meetDie (boleOf h) (eccTx h) j.id r).1; let w : State := (writeLocal h j u.off bs (viewFor h (.resp p) (viewOf m r) e) e).2
    (respTest h 6 p s = (r, true)) ∧ (c = p.chan.toNat) ∧ ((chanOf r h c).unacked.find? (fun u => u.pkt.psn == p.psn && u.pkt.ptype == 5) = some u) ∧ (bs = leBytes u.len ((Packet.extW p 1 4).toNat + 2 ^ 32 * (Packet.extW p 1 5).toNat)) ∧ (bs.length = u.len) ∧ ((jobOfPsn (chanOf r h c) u.pkt.psn).bind (jobOf r h) = some j) ∧ (meetDie (boleOf h) (eccTx h) j.id r = (e, true)) ∧ (u.job ≠ none) ∧ (writeLocal h j u.off bs (viewFor h (.resp p) (viewOf m r) e) e = (.fail k, w)) ∧ quiet s (respDone h c u p (viewOf m r) (failAcc h j j.acked (.fail k : Acc Unit) (updChan h c (fun x => { x with toSend := x.toSend.filter (fun y => y.job ≠ some j.id), line := x.line.filter (· ≠ .job j.id) }) w))) = true := by decide +kernel

set_option maxRecDepth 100000 in
theorem wit_Acknowledgements_23 :
    let h : Nat := 1; let c : Nat := 2; let m : HostView := {}; let s : State := { sOn with hs.ports := [(1, { st := .up, jobs := [{ id := 0, h := 1, q := 0, idx := 0, ents := [[1048583, 2, 0, 0, 0, 0, 0, 8, 256, 0, 0, 0, 0, 0, 0, 2147483648]], begun := true, ready := true, next := 1, sent := 1, left := 1, chan := 2 }], nextJob := 1 })], hs.wqs := [(objKey 20 1 0, { st := .active, priv := true, head := 1, tail := 1, order := [0] })], hs.cqs := [(objKey 20 1 0, { active := true })], hs.chans := [(objKey 24 1 2, { st := .active, peer := 5, peerCh := 3, inc := 6, check := 4, cached := true, used := 1, t0 := 4, limit := 4, relaxed := true, txNext := 1, timer := true, unacked := [{ pkt := { dest := 5, src := 1, cls := 0, lenCells := 2, ptype := 1, extMask := 1, ext := [0x100, 0x40000000, 0x300, 0], psn := 0, chan := 3, inc := 6 }, job := some 0, bytes := 8, len := 8 }], backoff := 4 })], hs.bar := [(hostKey 1 0 0x20008, 0x100104), (hostKey 1 0 0x40010, 4)], hs.mrCache := [(objKey 24 1 3, [0x9F, 0, 0, 0, 0x10000, 0, 0, 0, 0, 0, 0, 0, 0, 0, 0, 0])] }; let u : State := meetCtx h c s; let x : Chan := chanOf u h c
    (u = meetCtx h c s) ∧ (x = chanOf u h c) ∧ (hostUp u h = true) ∧ (x.st = .active ∨ x.st = .draining) ∧ (x.timer = true) ∧ (x.unacked ≠ []) ∧ (x.limit ≤ x.backoff) ∧ quiet s (retryExhausted h c (inc (trnCtr h 3) u)) = true := by decide +kernel

set_option maxRecDepth 100000 in
theorem wit_Acknowledgements_24 :
    let h : Nat := 1; let c : Nat := 2; let m : HostView := {}; let s : State := sOn; let u : State := meetCtx h c s; let x : Chan := chanOf u h c
    (u = meetCtx h c s) ∧ (x = chanOf u h c) ∧ (hostUp u h = false ∨ (x.st ≠ .active ∧ x.st ≠ .draining) ∨ x.timer = false ∨ x.unacked = []) ∧ quiet s (u) = true := by decide +kernel

set_option maxRecDepth 100000 in
theorem wit_Acknowledgements_25 :
    let h : Nat := 1; let c : Nat := 2; let m : HostView := { spans := [(0, List.replicate 8 0)] }; let s : State := { sOn with hs.ports := [(1, { st := .up, jobs := [{ id := 0, h := 1, q := 0, idx := 0, ents := [[1048583, 2, 0, 0, 0, 0, 768, 8, 256, 0, 0, 0, 0, 0, 0, 2147483648]], begun := true, ready := true, next := 1, sent := 1, left := 1, chan := 2 }], nextJob := 1 })], hs.wqs := [(objKey 20 1 0, { st := .active, priv := true, head := 1, tail := 1, order := [0] })], hs.cqs := [(objKey 20 1 0, { active := true })], hs.chans := [(objKey 24 1 2, { st := .active, peer := 5, peerCh := 3, inc := 6, check := 4, cached := true, used := 1, t0 := 4, limit := 4, relaxed := true, txNext := 1, timer := true, unacked := [{ pkt := { dest := 5, src := 1, cls := 0, lenCells := 2, ptype := 1, extMask := 1, ext := [0x100, 0x40000000, 0x300, 0], psn := 0, chan := 3, inc := 6 }, job := some 0, bytes := 8, len := 8 }] })], hs.bar := [(hostKey 1 0 0x20008, 0x100104), (hostKey 1 0 0x40010, 4)], hs.mrCache := [(objKey 24 1 3, [0x9F, 0, 0, 0, 0x10000, 0, 0, 0, 0, 0, 0, 0, 0, 0, 0, 0])] }; let u : State := meetCtx h c s; let x : Chan := chanOf u h c; let w : State := setChan h c { x with backoff := x.backoff + 1, stall := false, unacked := x.unacked.map (fun u => { u with redo := !u.sack }) } (inc (trnCtr h 3) u)
    (u = meetCtx h c s) ∧ (x = chanOf u h c) ∧ (hostUp u h = true) ∧ (x.st = .active ∨ x.st = .draining) ∧ (x.timer = true) ∧ (x.unacked ≠ []) ∧ (x.backoff < x.limit) ∧ (w = setChan h c { x with backoff := x.backoff + 1, stall := false, unacked := x.unacked.map (fun u => { u with redo := !u.sack }) } (inc (trnCtr h 3) u)) ∧ quiet s (pumpAll h c (resendAll h c (viewFor h (.again c) (viewOf m s) w) w)) = true := by decide +kernel

set_option maxRecDepth 100000 in
theorem wit_MatchJobs_1 :
    let h : Nat := 1; let q : Nat := 0; let i : Word := 0; let m : HostView := { spans := [(0x200, (List.range 8).map (fun k => 7))] }; let j : Job := { id := 0, h := 1, q := 0, idx := 0, ents := [[2097159, 2, 0, 0, 512, 0, 768, 8, 0, 0, 0, 85, 0, 7, 3, 2147483648]] }; let s : State := { sOn with hs.ports := [(1, { st := .up, jobs := [{ id := 0, h := 1, q := 0, idx := 0, ents := [[2097159, 2, 0, 0, 512, 0, 768, 8, 0, 0, 0, 85, 0, 7, 3, 2147483648]] }], nextJob := 1 })], hs.wqs := [(objKey 20 1 0, { st := .active, priv := true, head := 1, tail := 1, order := [0] })], hs.cqs := [(objKey 20 1 0, { active := true })], hs.chans := [(objKey 24 1 2, { st := .active, peer := 5, peerCh := 3, inc := 6, check := 4, cached := true, used := 1, t0 := 4, limit := 4, relaxed := true })], hs.bar := [(hostKey 1 0 0x20008, 0x100104), (hostKey 1 0 0x40010, 4), (hostKey 1 0 0x30000, 0x801), (hostKey 1 0 0x30010, 0x20000), (hostKey 1 0 0x30018, 0x21)], hs.mrCache := [(objKey 24 1 3, [0x9F, 0, 0, 0, 0x10000, 0, 0, 0, 0, 0, 0, 0, 0, 0, 0, 0])] }; let u : State := joinLine h ({ j with begun := true }) (updJob h j.id (fun k => { k with begun := true }) s); let w : State := (checkLocal h ({ j with begun := true }) .localRead (viewOf m s) u).2
    (hostUp s h = true) ∧ (freshJob s h q i 32 = some j) ∧ (j.ready = false) ∧ ((if j.chan = 0 then chanRefuses (updJob h j.id (fun k => { k with begun := true }) s) h ({ j with begun := true }) else none) = none) ∧ (u = joinLine h ({ j with begun := true }) (updJob h j.id (fun k => { k with begun := true }) s)) ∧ ((if Job.inl j then (.ok (), u) else checkLocal h ({ j with begun := true }) .localRead (viewOf m s) u) = (.ok (), w)) ∧ quiet s (runChan h (Job.chanNo j) (viewOf m s) (updJob h j.id (fun k => { k with ready := true, rndv := decide (Job.subop j = 1 ∨ eagerLimit w h < lengthOfJob j) }) (stopWait h (.job j.id) w))) = true := by decide +kernel

set_option maxRecDepth 100000 in
theorem wit_MatchJobs_2 :
    let h : Nat := 1; let q : Nat := 0; let i : Word := 0; let m : HostView := {}; let j : Job := { id := 0, h := 1, q := 0, idx := 0, ents := [[2097159, 2, 0, 0, 512, 0, 768, 8, 0, 0, 0, 85, 0, 7, 3, 2147483648]] }; let s : State := { sOn with hs.ports := [(1, { st := .up, jobs := [{ id := 0, h := 1, q := 0, idx := 0, ents := [[2097159, 2, 0, 0, 512, 0, 768, 8, 0, 0, 0, 85, 0, 7, 3, 2147483648]] }], nextJob := 1 })], hs.wqs := [(objKey 20 1 0, { st := .active, priv := true, head := 1, tail := 1, order := [0] })], hs.cqs := [(objKey 20 1 0, { active := true })], hs.chans := [(objKey 24 1 2, { st := .active, peer := 5, peerCh := 3, inc := 6, check := 4, cached := true, used := 1, t0 := 4, limit := 4, relaxed := true })], hs.bar := [(hostKey 1 0 0x20008, 0x100104), (hostKey 1 0 0x40010, 4), (hostKey 1 0 0x40008, 0x9000), (hostKey 1 0 0x30000, 0x801), (hostKey 1 0 0x30010, 0x20000), (hostKey 1 0 0x30018, 0x21)] }; let u : State := joinLine h ({ j with begun := true }) (updJob h j.id (fun k => { k with begun := true }) s); let w : State := (checkLocal h ({ j with begun := true }) .localRead (viewOf m s) u).2; let a : Acc Unit := (checkLocal h ({ j with begun := true }) .localRead (viewOf m s) u).1
    (hostUp s h = true) ∧ (freshJob s h q i 32 = some j) ∧ (j.ready = false) ∧ ((if j.chan = 0 then chanRefuses (updJob h j.id (fun k => { k with begun := true }) s) h ({ j with begun := true }) else none) = none) ∧ (u = joinLine h ({ j with begun := true }) (updJob h j.id (fun k => { k with begun := true }) s)) ∧ ((if Job.inl j then (.ok (), u) else checkLocal h ({ j with begun := true }) .localRead (viewOf m s) u) = (a, w)) ∧ (a ≠ .ok ()) ∧ quiet s (failAcc h ({ j with begun := true }) 0 a w) = true := by decide +kernel

set_option maxRecDepth 100000 in
theorem wit_MatchJobs_3 :
    let h : Nat := 1; let q : Nat := 0; let i : Word := 0; let m : HostView := {}; let j : Job := { id := 0, h := 1, q := 0, idx := 0, ents := [[2097159, 2, 0, 0, 512, 0, 768, 8, 0, 0, 0, 85, 0, 7, 3, 2147483648]] }; let d : Nat := 0; let s : State := { sOn with hs.ports := [(1, { st := .up, jobs := [{ id := 0, h := 1, q := 0, idx := 0, ents := [[2097159, 2, 0, 0, 512, 0, 768, 8, 0, 0, 0, 85, 0, 7, 3, 2147483648]] }], nextJob := 1 })], hs.wqs := [(objKey 20 1 0, { st := .active, priv := true, head := 1, tail := 1, order := [0] })], hs.cqs := [(objKey 20 1 0, { active := true })], hs.chans := [(objKey 24 1 2, { st := .error, peer := 5, peerCh := 3, inc := 6, check := 4, cached := true, used := 1, t0 := 4, limit := 4, relaxed := true })], hs.bar := [(hostKey 1 0 0x20008, 0x100104), (hostKey 1 0 0x40010, 4), (hostKey 1 0 0x30000, 0x801), (hostKey 1 0 0x30010, 0x20000), (hostKey 1 0 0x30018, 0x21)], hs.mrCache := [(objKey 24 1 3, [0x9F, 0, 0, 0, 0x10000, 0, 0, 0, 0, 0, 0, 0, 0, 0, 0, 0])] }
    (hostUp s h = true) ∧ (freshJob s h q i 32 = some j) ∧ (j.ready = false) ∧ (j.chan = 0) ∧ (chanRefuses (updJob h j.id (fun k => { k with begun := true }) s) h ({ j with begun := true }) = some d) ∧ quiet s (finishJob h ({ j with begun := true }) 0x22 0 d (updJob h j.id (fun k => { k with begun := true }) s)) = true := by decide +kernel

set_option maxRecDepth 100000 in
theorem wit_MatchJobs_4 :
    let h : Nat := 1; let q : Nat := 0; let i : Word := 0; let m : HostView := {}; let j : Job := { id := 0, h := 1, q := 0, idx := 0, ents := [[2162695, 0, 0, 0, 512, 0, 768, 8, 4294967295, 4294967295, 0, 85, 0, 7, 3, 2147483648]] }; let d : List Word := [0x9F, 0, 0, 0, 0x10000, 0, 0, 0, 0, 0, 0, 0, 0, 0, 0, 0]; let s : State := { sOn with hs.ports := [(1, { st := .up, jobs := [{ id := 0, h := 1, q := 0, idx := 0, ents := [[2162695, 0, 0, 0, 512, 0, 768, 8, 4294967295, 4294967295, 0, 85, 0, 7, 3, 2147483648]] }], nextJob := 1 })], hs.wqs := [(objKey 20 1 0, { st := .active, priv := true, head := 1, tail := 1, order := [0] })], hs.cqs := [(objKey 20 1 0, { active := true })], hs.chans := [(objKey 24 1 2, { st := .active, peer := 5, peerCh := 3, inc := 6, check := 4, cached := true, used := 1, t0 := 4, limit := 4, relaxed := true })], hs.bar := [(hostKey 1 0 0x20008, 0x100104), (hostKey 1 0 0x40010, 4), (hostKey 1 0 0x30000, 0x801), (hostKey 1 0 0x30010, 0x20000), (hostKey 1 0 0x30018, 0x21)], hs.mrCache := [(objKey 24 1 3, [0x9F, 0, 0, 0, 0x10000, 0, 0, 0, 0, 0, 0, 0, 0, 0, 0, 0])] }; let g : State := meetMatch h (updJob h j.id (fun k => { k with begun := true }) s); let a : State := (failCount h false (checkKey h (wAt (Job.op j) 6) (u64 (Job.op j) 4) (wAt (Job.op j) 7).toNat .localWrite (jobWho g h ({ j with begun := true })) (viewOf m s) g)).2; let b : State := (checkLocal h ({ j with begun := true }) .localWrite (viewOf m s) a).2; let e : State := stopWait h (.job j.id) b; let f : State := (if inTier (updJob h j.id (fun j => { j with ready := true }) e) h = 0 then (updJob h j.id (fun j => { j with ready := true }) e) else inc (mtcCtr h 14) (updJob h j.id (fun j => { j with ready := true }) e)); let r : Recv := { job := j.id, seq := (hport e h).postSeq, fn := (wqOf e h j.q).fn, pd := BitVec.ofNat 16 (fAt d 1 16 16), tag := BitVec.ofNat 64 (u64 (Job.op j) 11), mask := BitVec.ofNat 64 (u64 (Job.op j) 8), comm := wAt (Job.op j) 13, rank := wAt (Job.op j) 14, any := bAt (Job.op j) 10 0, len := lengthOfJob j }
    (hostUp s h = true) ∧ (freshJob s h q i 33 = some j) ∧ (g = meetMatch h (updJob h j.id (fun k => { k with begun := true }) s)) ∧ (mtcOn g h = true) ∧ ((hport g h).lost = false) ∧ (failCount h false (checkKey h (wAt (Job.op j) 6) (u64 (Job.op j) 4) (wAt (Job.op j) 7).toNat .localWrite (jobWho g h ({ j with begun := true })) (viewOf m s) g) = (.ok d, a)) ∧ (checkLocal h ({ j with begun := true }) .localWrite (viewOf m s) a = (.ok (), b)) ∧ (e = stopWait h (.job j.id) b) ∧ (r = { job := j.id, seq := (hport e h).postSeq, fn := (wqOf e h j.q).fn, pd := BitVec.ofNat 16 (fAt d 1 16 16), tag := BitVec.ofNat 64 (u64 (Job.op j) 11), mask := BitVec.ofNat 64 (u64 (Job.op j) 8), comm := wAt (Job.op j) 13, rank := wAt (Job.op j) 14, any := bAt (Job.op j) 10 0, len := lengthOfJob j }) ∧ (f = (if inTier (updJob h j.id (fun j => { j with ready := true }) e) h = 0 then (updJob h j.id (fun j => { j with ready := true }) e) else inc (mtcCtr h 14) (updJob h j.id (fun j => { j with ready := true }) e))) ∧ ((unexpAt f h).find? (fun u => fits r u.fn u.pd u.tag u.comm u.rank) = none) ∧ quiet s (uncover h j.id false (inc (mtcCtr h 5) (setPosted h (postedAt f h ++ [r]) (updHost h (fun p => { p with postSeq := p.postSeq + 1 }) f)))) = true := by decide +kernel

set_option maxRecDepth 100000 in
theorem wit_MatchJobs_5 :
    let h : Nat := 1; let q : Nat := 0; let i : Word := 0; let m : HostView := {}; let j : Job := { id := 0, h := 1, q := 0, idx := 0, ents := [[2162695, 0, 0, 0, 512, 0, 768, 8, 4294967295, 4294967295, 0, 85, 0, 7, 3, 2147483648]] }; let d : List Word := [0x9F, 0, 0, 0, 0x10000, 0, 0, 0, 0, 0, 0, 0, 0, 0, 0, 0]; let u : Unexp := { seq := 0, fn := 0, pd := 0, chan := 2, msn := 0, tag := 0x55, comm := 7, rank := 3, len := 0, tier := false }; let s : State := { sOn with hs.ports := [(1, { st := .up, jobs := [{ id := 0, h := 1, q := 0, idx := 0, ents := [[2162695, 0, 0, 0, 512, 0, 768, 8, 4294967295, 4294967295, 0, 85, 0, 7, 3, 2147483648]] }], nextJob := 1 })], hs.wqs := [(objKey 20 1 0, { st := .active, priv := true, head := 1, tail := 1, order := [0] })], hs.cqs := [(objKey 20 1 0, { active := true })], hs.chans := [(objKey 24 1 2, { st := .active, peer := 5, peerCh := 3, inc := 6, check := 4, cached := true, used := 1, t0 := 4, limit := 4, relaxed := true })], hs.bar := [(hostKey 1 0 0x20008, 0x100104), (hostKey 1 0 0x40010, 4), (hostKey 1 0 0x30000, 0x801), (hostKey 1 0 0x30010, 0x20000), (hostKey 1 0 0x30018, 0x21)], hs.unexp := [(1, [{ seq := 0, fn := 0, pd := 0, chan := 2, msn := 0, tag := 0x55, comm := 7, rank := 3, len := 0, tier := false }])], hs.mrCache := [(objKey 24 1 3, [0x9F, 0, 0, 0, 0x10000, 0, 0, 0, 0, 0, 0, 0, 0, 0, 0, 0])] }; let g : State := meetMatch h (updJob h j.id (fun k => { k with begun := true }) s); let a : State := (failCount h false (checkKey h (wAt (Job.op j) 6) (u64 (Job.op j) 4) (wAt (Job.op j) 7).toNat .localWrite (jobWho g h ({ j with begun := true })) (viewOf m s) g)).2; let b : State := (checkLocal h ({ j with begun := true }) .localWrite (viewOf m s) a).2; let e : State := stopWait h (.job j.id) b; let f : State := (if inTier (updJob h j.id (fun j => { j with ready := true }) e) h = 0 then (updJob h j.id (fun j => { j with ready := true }) e) else inc (mtcCtr h 14) (updJob h j.id (fun j => { j with ready := true }) e)); let r : Recv := { job := j.id, seq := (hport e h).postSeq, fn := (wqOf e h j.q).fn, pd := BitVec.ofNat 16 (fAt d 1 16 16), tag := BitVec.ofNat 64 (u64 (Job.op j) 11), mask := BitVec.ofNat 64 (u64 (Job.op j) 8), comm := wAt (Job.op j) 13, rank := wAt (Job.op j) 14, any := bAt (Job.op j) 10 0, len := lengthOfJob j }
    (hostUp s h = true) ∧ (freshJob s h q i 33 = some j) ∧ (g = meetMatch h (updJob h j.id (fun k => { k with begun := true }) s)) ∧ (mtcOn g h = true) ∧ ((hport g h).lost = false) ∧ (failCount h false (checkKey h (wAt (Job.op j) 6) (u64 (Job.op j) 4) (wAt (Job.op j) 7).toNat .localWrite (jobWho g h ({ j with begun := true })) (viewOf m s) g) = (.ok d, a)) ∧ (checkLocal h ({ j with begun := true }) .localWrite (viewOf m s) a = (.ok (), b)) ∧ (e = stopWait h (.job j.id) b) ∧ (r = { job := j.id, seq := (hport e h).postSeq, fn := (wqOf e h j.q).fn, pd := BitVec.ofNat 16 (fAt d 1 16 16), tag := BitVec.ofNat 64 (u64 (Job.op j) 11), mask := BitVec.ofNat 64 (u64 (Job.op j) 8), comm := wAt (Job.op j) 13, rank := wAt (Job.op j) 14, any := bAt (Job.op j) 10 0, len := lengthOfJob j }) ∧ (f = (if inTier (updJob h j.id (fun j => { j with ready := true }) e) h = 0 then (updJob h j.id (fun j => { j with ready := true }) e) else inc (mtcCtr h 14) (updJob h j.id (fun j => { j with ready := true }) e))) ∧ ((unexpAt f h).find? (fun u => fits r u.fn u.pd u.tag u.comm u.rank) = some u) ∧ (u.rndv = none) ∧ (u.slot = none) ∧ quiet s (finishRecv h ({ j with begun := true }) 0 0 u.tag u.rank (flUnexpected true ||| flLate u.late) (uncover h j.id false (inc (mtcCtr h 4) (setUnexp h ((unexpAt f h).filter (fun y => y.seq ≠ u.seq)) f)))) = true := by decide +kernel

set_option maxRecDepth 100000 in
theorem wit_MatchJobs_6 :
    let h : Nat := 1; let q : Nat := 0; let i : Word := 0; let m : HostView := {}; let j : Job := { id := 0, h := 1, q := 0, idx := 0, ents := [[2162695, 0, 0, 0, 512, 0, 768, 8, 4294967295, 4294967295, 0, 85, 0, 7, 3, 2147483648]] }; let d : List Word := [0x9F, 0, 0, 0, 0x10000, 0, 0, 0, 0, 0, 0, 0, 0, 0, 0, 0]; let u : Unexp := { seq := 0, fn := 0, pd := 0, chan := 2, msn := 0, tag := 0x55, comm := 7, rank := 3, len := 12288, tier := false, rndv := some (0x100, 0x300) }; let k : Nat × Word := (0x100, 0x300); let s : State := { sOn with hs.ports := [(1, { st := .up, jobs := [{ id := 0, h := 1, q := 0, idx := 0, ents := [[2162695, 0, 0, 0, 512, 0, 768, 8, 4294967295, 4294967295, 0, 85, 0, 7, 3, 2147483648]] }], nextJob := 1 })], hs.wqs := [(objKey 20 1 0, { st := .active, priv := true, head := 1, tail := 1, order := [0] })], hs.cqs := [(objKey 20 1 0, { active := true })], hs.chans := [(objKey 24 1 2, { st := .active, peer := 5, peerCh := 3, inc := 6, check := 4, cached := true, used := 1, t0 := 4, limit := 4, relaxed := true })], hs.bar := [(hostKey 1 0 0x20008, 0x100104), (hostKey 1 0 0x40010, 4), (hostKey 1 0 0x30000, 0x801), (hostKey 1 0 0x30010, 0x20000), (hostKey 1 0 0x30018, 0x21)], hs.unexp := [(1, [{ seq := 0, fn := 0, pd := 0, chan := 2, msn := 0, tag := 0x55, comm := 7, rank := 3, len := 12288, tier := false, rndv := some (0x100, 0x300) }])], hs.mrCache := [(objKey 24 1 3, [0x9F, 0, 0, 0, 0x10000, 0, 0, 0, 0, 0, 0, 0, 0, 0, 0, 0])] }; let g : State := meetMatch h (updJob h j.id (fun k => { k with begun := true }) s); let a : State := (failCount h false (checkKey h (wAt (Job.op j) 6) (u64 (Job.op j) 4) (wAt (Job.op j) 7).toNat .localWrite (jobWho g h ({ j with begun := true })) (viewOf m s) g)).2; let b : State := (checkLocal h ({ j with begun := true }) .localWrite (viewOf m s) a).2; let e : State := stopWait h (.job j.id) b; let f : State := (if inTier (updJob h j.id (fun j => { j with ready := true }) e) h = 0 then (updJob h j.id (fun j => { j with ready := true }) e) else inc (mtcCtr h 14) (updJob h j.id (fun j => { j with ready := true }) e)); let r : Recv := { job := j.id, seq := (hport e h).postSeq, fn := (wqOf e h j.q).fn, pd := BitVec.ofNat 16 (fAt d 1 16 16), tag := BitVec.ofNat 64 (u64 (Job.op j) 11), mask := BitVec.ofNat 64 (u64 (Job.op j) 8), comm := wAt (Job.op j) 13, rank := wAt (Job.op j) 14, any := bAt (Job.op j) 10 0, len := lengthOfJob j }
    (hostUp s h = true) ∧ (freshJob s h q i 33 = some j) ∧ (g = meetMatch h (updJob h j.id (fun k => { k with begun := true }) s)) ∧ (mtcOn g h = true) ∧ ((hport g h).lost = false) ∧ (failCount h false (checkKey h (wAt (Job.op j) 6) (u64 (Job.op j) 4) (wAt (Job.op j) 7).toNat .localWrite (jobWho g h ({ j with begun := true })) (viewOf m s) g) = (.ok d, a)) ∧ (checkLocal h ({ j with begun := true }) .localWrite (viewOf m s) a = (.ok (), b)) ∧ (e = stopWait h (.job j.id) b) ∧ (r = { job := j.id, seq := (hport e h).postSeq, fn := (wqOf e h j.q).fn, pd := BitVec.ofNat 16 (fAt d 1 16 16), tag := BitVec.ofNat 64 (u64 (Job.op j) 11), mask := BitVec.ofNat 64 (u64 (Job.op j) 8), comm := wAt (Job.op j) 13, rank := wAt (Job.op j) 14, any := bAt (Job.op j) 10 0, len := lengthOfJob j }) ∧ (f = (if inTier (updJob h j.id (fun j => { j with ready := true }) e) h = 0 then (updJob h j.id (fun j => { j with ready := true }) e) else inc (mtcCtr h 14) (updJob h j.id (fun j => { j with ready := true }) e))) ∧ ((unexpAt f h).find? (fun u => fits r u.fn u.pd u.tag u.comm u.rank) = some u) ∧ (u.rndv = some k) ∧ quiet s (fetchMsg h u.chan { job := j.id, orig := u.msn, tag := u.tag, comm := u.comm, rank := u.rank, addr := k.1, key := k.2, len := min u.len r.len, msgLen := u.len, left := min u.len r.len, unexp := true, late := u.late } (viewOf m s) (uncover h j.id false (inc (mtcCtr h 4) (setUnexp h ((unexpAt f h).filter (fun y => y.seq ≠ u.seq)) f)))) = true := by decide +kernel

set_option maxRecDepth 100000 in
theorem wit_MatchJobs_7 :
    let h : Nat := 1; let q : Nat := 0; let i : Word := 0; let m : HostView := { spans := [(0x20000 + 3 * 65536, List.replicate 8 1)] }; let j : Job := { id := 0, h := 1, q := 0, idx := 0, ents := [[2162695, 0, 0, 0, 512, 0, 768, 8, 4294967295, 4294967295, 0, 85, 0, 7, 3, 2147483648]] }; let d : List Word := [0x9F, 0, 0, 0, 0x10000, 0, 0, 0, 0, 0, 0, 0, 0, 0, 0, 0]; let u : Unexp := { seq := 0, fn := 0, pd := 0, chan := 2, msn := 0, tag := 0x55, comm := 7, rank := 3, len := 8, tier := false, slot := some 3 }; let k : Nat := 3; let s : State := { sOn with hs.ports := [(1, { st := .up, jobs := [{ id := 0, h := 1, q := 0, idx := 0, ents := [[2162695, 0, 0, 0, 512, 0, 768, 8, 4294967295, 4294967295, 0, 85, 0, 7, 3, 2147483648]] }], nextJob := 1, slots := [3] })], hs.wqs := [(objKey 20 1 0, { st := .active, priv := true, head := 1, tail := 1, order := [0] })], hs.cqs := [(objKey 20 1 0, { active := true })], hs.chans := [(objKey 24 1 2, { st := .active, peer := 5, peerCh := 3, inc := 6, check := 4, cached := true, used := 1, t0 := 4, limit := 4, relaxed := true })], hs.bar := [(hostKey 1 0 0x20008, 0x100104), (hostKey 1 0 0x40010, 4), (hostKey 1 0 0x30000, 0x801), (hostKey 1 0 0x30010, 0x20000), (hostKey 1 0 0x30018, 0x21)], hs.unexp := [(1, [{ seq := 0, fn := 0, pd := 0, chan := 2, msn := 0, tag := 0x55, comm := 7, rank := 3, len := 8, tier := false, slot := some 3 }])], hs.mrCache := [(objKey 24 1 3, [0x9F, 0, 0, 0, 0x10000, 0, 0, 0, 0, 0, 0, 0, 0, 0, 0, 0])] }; let g : State := meetMatch h (updJob h j.id (fun k => { k with begun := true }) s); let a : State := (failCount h false (checkKey h (wAt (Job.op j) 6) (u64 (Job.op j) 4) (wAt (Job.op j) 7).toNat .localWrite (jobWho g h ({ j with begun := true })) (viewOf m s) g)).2; let b : State := (checkLocal h ({ j with begun := true }) .localWrite (viewOf m s) a).2; let e : State := stopWait h (.job j.id) b; let f : State := (if inTier (updJob h j.id (fun j => { j with ready := true }) e) h = 0 then (updJob h j.id (fun j => { j with ready := true }) e) else inc (mtcCtr h 14) (updJob h j.id (fun j => { j with ready := true }) e)); let r : Recv := { job := j.id, seq := (hport e h).postSeq, fn := (wqOf e h j.q).fn, pd := BitVec.ofNat 16 (fAt d 1 16 16), tag := BitVec.ofNat 64 (u64 (Job.op j) 11), mask := BitVec.ofNat 64 (u64 (Job.op j) 8), comm := wAt (Job.op j) 13, rank := wAt (Job.op j) 14, any := bAt (Job.op j) 10 0, len := lengthOfJob j }
    (hostUp s h = true) ∧ (freshJob s h q i 33 = some j) ∧ (g = meetMatch h (updJob h j.id (fun k => { k with begun := true }) s)) ∧ (mtcOn g h = true) ∧ ((hport g h).lost = false) ∧ (failCount h false (checkKey h (wAt (Job.op j) 6) (u64 (Job.op j) 4) (wAt (Job.op j) 7).toNat .localWrite (jobWho g h ({ j with begun := true })) (viewOf m s) g) = (.ok d, a)) ∧ (checkLocal h ({ j with begun := true }) .localWrite (viewOf m s) a = (.ok (), b)) ∧ (e = stopWait h (.job j.id) b) ∧ (r = { job := j.id, seq := (hport e h).postSeq, fn := (wqOf e h j.q).fn, pd := BitVec.ofNat 16 (fAt d 1 16 16), tag := BitVec.ofNat 64 (u64 (Job.op j) 11), mask := BitVec.ofNat 64 (u64 (Job.op j) 8), comm := wAt (Job.op j) 13, rank := wAt (Job.op j) 14, any := bAt (Job.op j) 10 0, len := lengthOfJob j }) ∧ (f = (if inTier (updJob h j.id (fun j => { j with ready := true }) e) h = 0 then (updJob h j.id (fun j => { j with ready := true }) e) else inc (mtcCtr h 14) (updJob h j.id (fun j => { j with ready := true }) e))) ∧ ((unexpAt f h).find? (fun u => fits r u.fn u.pd u.tag u.comm u.rank) = some u) ∧ (u.rndv = none) ∧ (u.slot = some k) ∧ ((chanOf (uncover h j.id false (inc (mtcCtr h 4) (setUnexp h ((unexpAt f h).filter (fun y => y.seq ≠ u.seq)) f))) h u.chan).msgs.find? (fun x => x.dest = .slot k) = none) ∧ quiet s (startCopy h { job := j.id, slot := k, len := u.len, tag := u.tag, rank := u.rank, flags := flUnexpected true ||| flLate u.late } (viewOf m s) (uncover h j.id false (inc (mtcCtr h 4) (setUnexp h ((unexpAt f h).filter (fun y => y.seq ≠ u.seq)) f)))) = true := by decide +kernel

set_option maxRecDepth 100000 in
theorem wit_MatchJobs_8 :
    let h : Nat := 1; let q : Nat := 0; let i : Word := 0; let m : HostView := {}; let j : Job := { id := 0, h := 1, q := 0, idx := 0, ents := [[2162695, 0, 0, 0, 512, 0, 768, 8, 4294967295, 4294967295, 0, 85, 0, 7, 3, 2147483648]] }; let d : List Word := [0x9F, 0, 0, 0, 0x10000, 0, 0, 0, 0, 0, 0, 0, 0, 0, 0, 0]; let u : Unexp := { seq := 0, fn := 0, pd := 0, chan := 2, msn := 0, tag := 0x55, comm := 7, rank := 3, len := 8, tier := false, slot := some 3 }; let k : Nat := 3; let x : MsgRx := { head := 0, msn := 0, dest := .slot 3, left := 4, len := 8, tag := 0x55, comm := 7, rank := 3 }; let s : State := { sOn with hs.ports := [(1, { st := .up, jobs := [{ id := 0, h := 1, q := 0, idx := 0, ents := [[2162695, 0, 0, 0, 512, 0, 768, 8, 4294967295, 4294967295, 0, 85, 0, 7, 3, 2147483648]] }], nextJob := 1, slots := [3] })], hs.wqs := [(objKey 20 1 0, { st := .active, priv := true, head := 1, tail := 1, order := [0] })], hs.cqs := [(objKey 20 1 0, { active := true })], hs.chans := [(objKey 24 1 2, { st := .active, peer := 5, peerCh := 3, inc := 6, check := 4, cached := true, used := 1, t0 := 4, limit := 4, relaxed := true, msgs := [{ head := 0, msn := 0, dest := .slot 3, left := 4, len := 8, tag := 0x55, comm := 7, rank := 3 }] })], hs.bar := [(hostKey 1 0 0x20008, 0x100104), (hostKey 1 0 0x40010, 4), (hostKey 1 0 0x30000, 0x801), (hostKey 1 0 0x30010, 0x20000), (hostKey 1 0 0x30018, 0x21)], hs.unexp := [(1, [{ seq := 0, fn := 0, pd := 0, chan := 2, msn := 0, tag := 0x55, comm := 7, rank := 3, len := 8, tier := false, slot := some 3 }])], hs.mrCache := [(objKey 24 1 3, [0x9F, 0, 0, 0, 0x10000, 0, 0, 0, 0, 0, 0, 0, 0, 0, 0, 0])] }; let g : State := meetMatch h (updJob h j.id (fun k => { k with begun := true }) s); let a : State := (failCount h false (checkKey h (wAt (Job.op j) 6) (u64 (Job.op j) 4) (wAt (Job.op j) 7).toNat .localWrite (jobWho g h ({ j with begun := true })) (viewOf m s) g)).2; let b : State := (checkLocal h ({ j with begun := true }) .localWrite (viewOf m s) a).2; let e : State := stopWait h (.job j.id) b; let f : State := (if inTier (updJob h j.id (fun j => { j with ready := true }) e) h = 0 then (updJob h j.id (fun j => { j with ready := true }) e) else inc (mtcCtr h 14) (updJob h j.id (fun j => { j with ready := true }) e)); let r : Recv := { job := j.id, seq := (hport e h).postSeq, fn := (wqOf e h j.q).fn, pd := BitVec.ofNat 16 (fAt d 1 16 16), tag := BitVec.ofNat 64 (u64 (Job.op j) 11), mask := BitVec.ofNat 64 (u64 (Job.op j) 8), comm := wAt (Job.op j) 13, rank := wAt (Job.op j) 14, any := bAt (Job.op j) 10 0, len := lengthOfJob j }
    (hostUp s h = true) ∧ (freshJob s h q i 33 = some j) ∧ (g = meetMatch h (updJob h j.id (fun k => { k with begun := true }) s)) ∧ (mtcOn g h = true) ∧ ((hport g h).lost = false) ∧ (failCount h false (checkKey h (wAt (Job.op j) 6) (u64 (Job.op j) 4) (wAt (Job.op j) 7).toNat .localWrite (jobWho g h ({ j with begun := true })) (viewOf m s) g) = (.ok d, a)) ∧ (checkLocal h ({ j with begun := true }) .localWrite (viewOf m s) a = (.ok (), b)) ∧ (e = stopWait h (.job j.id) b) ∧ (r = { job := j.id, seq := (hport e h).postSeq, fn := (wqOf e h j.q).fn, pd := BitVec.ofNat 16 (fAt d 1 16 16), tag := BitVec.ofNat 64 (u64 (Job.op j) 11), mask := BitVec.ofNat 64 (u64 (Job.op j) 8), comm := wAt (Job.op j) 13, rank := wAt (Job.op j) 14, any := bAt (Job.op j) 10 0, len := lengthOfJob j }) ∧ (f = (if inTier (updJob h j.id (fun j => { j with ready := true }) e) h = 0 then (updJob h j.id (fun j => { j with ready := true }) e) else inc (mtcCtr h 14) (updJob h j.id (fun j => { j with ready := true }) e))) ∧ ((unexpAt f h).find? (fun u => fits r u.fn u.pd u.tag u.comm u.rank) = some u) ∧ (u.rndv = none) ∧ (u.slot = some k) ∧ ((chanOf (uncover h j.id false (inc (mtcCtr h 4) (setUnexp h ((unexpAt f h).filter (fun y => y.seq ≠ u.seq)) f))) h u.chan).msgs.find? (fun x => x.dest = .slot k) = some x) ∧ quiet s (putMsg h u.chan { x with dest := .both k j.id, flags := x.flags ||| flUnexpected true } true (uncover h j.id false (inc (mtcCtr h 4) (setUnexp h ((unexpAt f h).filter (fun y => y.seq ≠ u.seq)) f)))) = true := by decide +kernel

set_option maxRecDepth 100000 in
theorem wit_MatchJobs_9 :
    let h : Nat := 1; let q : Nat := 0; let i : Word := 0; let m : HostView := {}; let j : Job := { id := 0, h := 1, q := 0, idx := 0, ents := [[2162695, 0, 0, 0, 512, 0, 768, 8, 4294967295, 4294967295, 0, 85, 0, 7, 3, 2147483648]] }; let s : State := { sOn with hs.ports := [(1, { st := .up, jobs := [{ id := 0, h := 1, q := 0, idx := 0, ents := [[2162695, 0, 0, 0, 512, 0, 768, 8, 4294967295, 4294967295, 0, 85, 0, 7, 3, 2147483648]] }], nextJob := 1 })], hs.wqs := [(objKey 20 1 0, { st := .active, priv := true, head := 1, tail := 1, order := [0] })], hs.cqs := [(objKey 20 1 0, { active := true })], hs.chans := [(objKey 24 1 2, { st := .active, peer := 5, peerCh := 3, inc := 6, check := 4, cached := true, used := 1, t0 := 4, limit := 4, relaxed := true })], hs.bar := [(hostKey 1 0 0x20008, 0x100104), (hostKey 1 0 0x40010, 4)], hs.mrCache := [(objKey 24 1 3, [0x9F, 0, 0, 0, 0x10000, 0, 0, 0, 0, 0, 0, 0, 0, 0, 0, 0])] }; let g : State := meetMatch h (updJob h j.id (fun k => { k with begun := true }) s)
    (hostUp s h = true) ∧ (freshJob s h q i 33 = some j) ∧ (g = meetMatch h (updJob h j.id (fun k => { k with begun := true }) s)) ∧ (mtcOn g h = false) ∧ quiet s (malformed h ({ j with begun := true }) 10 g) = true := by decide +kernel

set_option maxRecDepth 100000 in
theorem wit_MatchJobs_10 :
    let h : Nat := 1; let q : Nat := 0; let i : Word := 0; let m : HostView := {}; let j : Job := { id := 0, h := 1, q := 0, idx := 0, ents := [[2162695, 0, 0, 0, 512, 0, 768, 8, 4294967295, 4294967295, 0, 85, 0, 7, 3, 2147483648]] }; let s : State := { sOn with hs.ports := [(1, { st := .up, jobs := [{ id := 0, h := 1, q := 0, idx := 0, ents := [[2162695, 0, 0, 0, 512, 0, 768, 8, 4294967295, 4294967295, 0, 85, 0, 7, 3, 2147483648]] }], nextJob := 1, lost := true })], hs.wqs := [(objKey 20 1 0, { st := .active, priv := true, head := 1, tail := 1, order := [0] })], hs.cqs := [(objKey 20 1 0, { active := true })], hs.chans := [(objKey 24 1 2, { st := .active, peer := 5, peerCh := 3, inc := 6, check := 4, cached := true, used := 1, t0 := 4, limit := 4, relaxed := true })], hs.bar := [(hostKey 1 0 0x20008, 0x100104), (hostKey 1 0 0x40010, 4), (hostKey 1 0 0x30000, 0x801), (hostKey 1 0 0x30010, 0x20000), (hostKey 1 0 0x30018, 0x21)], hs.mrCache := [(objKey 24 1 3, [0x9F, 0, 0, 0, 0x10000, 0, 0, 0, 0, 0, 0, 0, 0, 0, 0, 0])] }; let g : State := meetMatch h (updJob h j.id (fun k => { k with begun := true }) s)
    (hostUp s h = true) ∧ (freshJob s h q i 33 = some j) ∧ (g = meetMatch h (updJob h j.id (fun k => { k with begun := true }) s)) ∧ (mtcOn g h = true) ∧ ((hport g h).lost = true) ∧ quiet s (finishJob h ({ j with begun := true }) 0x2A 0 0 g) = true := by decide +kernel

set_option maxRecDepth 100000 in
theorem wit_MatchJobs_11 :
    let h : Nat := 1; let q : Nat := 0; let i : Word := 0; let m : HostView := {}; let j : Job := { id := 0, h := 1, q := 0, idx := 0, ents := [[2162695, 0, 0, 0, 512, 0, 20480, 8, 4294967295, 4294967295, 0, 85, 0, 7, 3, 2147483648]] }; let k : Acc (List Word) := .fail 1; let s : State := { sOn with hs.ports := [(1, { st := .up, jobs := [{ id := 0, h := 1, q := 0, idx := 0, ents := [[2162695, 0, 0, 0, 512, 0, 20480, 8, 4294967295, 4294967295, 0, 85, 0, 7, 3, 2147483648]] }], nextJob := 1 })], hs.wqs := [(objKey 20 1 0, { st := .active, priv := true, head := 1, tail := 1, order := [0] })], hs.cqs := [(objKey 20 1 0, { active := true })], hs.chans := [(objKey 24 1 2, { st := .active, peer := 5, peerCh := 3, inc := 6, check := 4, cached := true, used := 1, t0 := 4, limit := 4, relaxed := true })], hs.bar := [(hostKey 1 0 0x20008, 0x100104), (hostKey 1 0 0x40010, 4), (hostKey 1 0 0x30000, 0x801), (hostKey 1 0 0x30010, 0x20000), (hostKey 1 0 0x30018, 0x21)], hs.mrCache := [(objKey 24 1 3, [0x9F, 0, 0, 0, 0x10000, 0, 0, 0, 0, 0, 0, 0, 0, 0, 0, 0])] }; let g : State := meetMatch h (updJob h j.id (fun k => { k with begun := true }) s); let a : State := (failCount h false (checkKey h (wAt (Job.op j) 6) (u64 (Job.op j) 4) (wAt (Job.op j) 7).toNat .localWrite (jobWho g h ({ j with begun := true })) (viewOf m s) g)).2
    (hostUp s h = true) ∧ (freshJob s h q i 33 = some j) ∧ (g = meetMatch h (updJob h j.id (fun k => { k with begun := true }) s)) ∧ (mtcOn g h = true) ∧ ((hport g h).lost = false) ∧ (failCount h false (checkKey h (wAt (Job.op j) 6) (u64 (Job.op j) 4) (wAt (Job.op j) 7).toNat .localWrite (jobWho g h ({ j with begun := true })) (viewOf m s) g) = (k, a)) ∧ ((match k with | .ok _ => false | _ => true) = true) ∧ quiet s (failAcc h ({ j with begun := true }) 0 k a) = true := by decide +kernel

set_option maxRecDepth 100000 in
theorem wit_MatchJobs_12 :
    let h : Nat := 1; let q : Nat := 0; let i : Word := 0; let m : HostView := {}; let j : Job := { id := 0, h := 1, q := 0, idx := 0, ents := [[2162695, 0, 0, 0, 512, 0, 768, 8, 4294967295, 4294967295, 0, 85, 0, 7, 3, 2147483648], [0xF00000, 0x200, 0, 0x5000, 8, 0, 0, 0, 0, 0, 0, 0, 0, 0, 0, 0]] }; let d : List Word := [0x9F, 0, 0, 0, 0x10000, 0, 0, 0, 0, 0, 0, 0, 0, 0, 0, 0]; let s : State := { sOn with hs.ports := [(1, { st := .up, jobs := [{ id := 0, h := 1, q := 0, idx := 0, ents := [[2162695, 0, 0, 0, 512, 0, 768, 8, 4294967295, 4294967295, 0, 85, 0, 7, 3, 2147483648], [0xF00000, 0x200, 0, 0x5000, 8, 0, 0, 0, 0, 0, 0, 0, 0, 0, 0, 0]] }], nextJob := 1 })], hs.wqs := [(objKey 20 1 0, { st := .active, priv := true, head := 1, tail := 1, order := [0] })], hs.cqs := [(objKey 20 1 0, { active := true })], hs.chans := [(objKey 24 1 2, { st := .active, peer := 5, peerCh := 3, inc := 6, check := 4, cached := true, used := 1, t0 := 4, limit := 4, relaxed := true })], hs.bar := [(hostKey 1 0 0x20008, 0x100104), (hostKey 1 0 0x40010, 4), (hostKey 1 0 0x30000, 0x801), (hostKey 1 0 0x30010, 0x20000), (hostKey 1 0 0x30018, 0x21)], hs.mrCache := [(objKey 24 1 3, [0x9F, 0, 0, 0, 0x10000, 0, 0, 0, 0, 0, 0, 0, 0, 0, 0, 0])] }; let g : State := meetMatch h (updJob h j.id (fun k => { k with begun := true }) s); let a : State := (failCount h false (checkKey h (wAt (Job.op j) 6) (u64 (Job.op j) 4) (wAt (Job.op j) 7).toNat .localWrite (jobWho g h ({ j with begun := true })) (viewOf m s) g)).2; let b : State := (checkLocal h ({ j with begun := true }) .localWrite (viewOf m s) a).2; let k : Acc Unit := (checkLocal h ({ j with begun := true }) .localWrite (viewOf m s) a).1
    (hostUp s h = true) ∧ (freshJob s h q i 33 = some j) ∧ (g = meetMatch h (updJob h j.id (fun k => { k with begun := true }) s)) ∧ (mtcOn g h = true) ∧ ((hport g h).lost = false) ∧ (failCount h false (checkKey h (wAt (Job.op j) 6) (u64 (Job.op j) 4) (wAt (Job.op j) 7).toNat .localWrite (jobWho g h ({ j with begun := true })) (viewOf m s) g) = (.ok d, a)) ∧ (checkLocal h ({ j with begun := true }) .localWrite (viewOf m s) a = (k, b)) ∧ (k ≠ .ok ()) ∧ quiet s (failAcc h ({ j with begun := true }) 0 k b) = true := by decide +kernel

set_option maxRecDepth 100000 in
theorem wit_MatchJobs_13 :
    let h : Nat := 1; let q : Nat := 0; let i : Word := 0; let j : Job := { id := 0, h := 1, q := 0, idx := 0, ents := [[2228231, 16777216, 0, 0, 0, 0, 0, 0, 0, 0, 0, 0, 0, 0, 0, 2147483648]] }; let s : State := { sOn with hs.ports := [(1, { st := .up, jobs := [{ id := 0, h := 1, q := 0, idx := 0, ents := [[2228231, 16777216, 0, 0, 0, 0, 0, 0, 0, 0, 0, 0, 0, 0, 0, 2147483648]] }, { id := 1, h := 1, q := 0, idx := 0, ents := [[2162695, 0, 0, 0, 512, 0, 768, 8, 4294967295, 4294967295, 0, 85, 0, 7, 3, 2147483648]], begun := true, ready := true }], nextJob := 1 })], hs.wqs := [(objKey 20 1 0, { st := .active, priv := true, head := 1, tail := 1, order := [0] })], hs.cqs := [(objKey 20 1 0, { active := true })], hs.chans := [(objKey 24 1 2, { st := .active, peer := 5, peerCh := 3, inc := 6, check := 4, cached := true, used := 1, t0 := 4, limit := 4, relaxed := true })], hs.bar := [(hostKey 1 0 0x20008, 0x100104), (hostKey 1 0 0x40010, 4), (hostKey 1 0 0x30000, 0x801), (hostKey 1 0 0x30010, 0x20000), (hostKey 1 0 0x30018, 0x21)], hs.posted := [(1, [{ job := 1, seq := 0, fn := 0, pd := 0, tag := 0x55, mask := 0xFFFFFFFFFFFFFFFF, comm := 7, rank := 3, any := false, len := 8 }])], hs.unexp := [(1, [{ seq := 0, fn := 0, pd := 0, chan := 2, msn := 0, tag := 0x55, comm := 7, rank := 3, len := 0, tier := false }])], hs.mrCache := [(objKey 24 1 3, [0x9F, 0, 0, 0, 0x10000, 0, 0, 0, 0, 0, 0, 0, 0, 0, 0, 0])] }; let a : State := (dropPosted h 2 (fun r => (r.fn == fAt (Job.op j) 12 0 8 && r.pd == BitVec.ofNat 16 (fAt (Job.op j) 11 0 16))) (meetMatch h (updJob h j.id (fun k => { k with begun := true }) s))); let rv : List Unexp := (unexpAt a h).filter (fun u => (u.fn == fAt (Job.op j) 12 0 8 && u.pd == BitVec.ofNat 16 (fAt (Job.op j) 11 0 16)) && u.rndv.isSome)
    (hostUp s h = true) ∧ (freshJob s h q i 34 = some j) ∧ (Job.subop j ≠ 2) ∧ (a = (dropPosted h 2 (fun r => (r.fn == fAt (Job.op j) 12 0 8 && r.pd == BitVec.ofNat 16 (fAt (Job.op j) 11 0 16))) (meetMatch h (updJob h j.id (fun k => { k with begun := true }) s)))) ∧ (rv = (unexpAt a h).filter (fun u => (u.fn == fAt (Job.op j) 12 0 8 && u.pd == BitVec.ofNat 16 (fAt (Job.op j) 11 0 16)) && u.rndv.isSome)) ∧ quiet s (finishJob h ({ j with begun := true }) 0 0 0 (rv.foldl (fun s u => tellDiscarded h u.chan u.tag u.comm u.rank u.msn {} s) (dropUnexp h (fun u => (u.fn == fAt (Job.op j) 12 0 8 && u.pd == BitVec.ofNat 16 (fAt (Job.op j) 11 0 16))) a))) = true := by decide +kernel

set_option maxRecDepth 100000 in
theorem wit_MatchJobs_14 :
    let h : Nat := 1; let q : Nat := 0; let i : Word := 0; let j : Job := { id := 0, h := 1, q := 0, idx := 0, ents := [[2228231, 33554432, 0, 0, 0, 0, 0, 0, 0, 0, 0, 0, 0, 0, 0, 2147483648]] }; let s : State := { sOn with hs.ports := [(1, { st := .up, jobs := [{ id := 0, h := 1, q := 0, idx := 0, ents := [[2228231, 33554432, 0, 0, 0, 0, 0, 0, 0, 0, 0, 0, 0, 0, 0, 2147483648]] }, { id := 1, h := 1, q := 0, idx := 0, ents := [[2162695, 0, 0, 0, 512, 0, 768, 8, 4294967295, 4294967295, 0, 85, 0, 7, 3, 2147483648]], begun := true, ready := true }], nextJob := 1, lost := true })], hs.wqs := [(objKey 20 1 0, { st := .active, priv := true, head := 1, tail := 1, order := [0] })], hs.cqs := [(objKey 20 1 0, { active := true })], hs.chans := [(objKey 24 1 2, { st := .active, peer := 5, peerCh := 3, inc := 6, check := 4, cached := true, used := 1, t0 := 4, limit := 4, relaxed := true })], hs.bar := [(hostKey 1 0 0x20008, 0x100104), (hostKey 1 0 0x40010, 4), (hostKey 1 0 0x30000, 0x801), (hostKey 1 0 0x30010, 0x20000), (hostKey 1 0 0x30018, 0x21)], hs.posted := [(1, [{ job := 1, seq := 0, fn := 0, pd := 0, tag := 0x55, mask := 0xFFFFFFFFFFFFFFFF, comm := 7, rank := 3, any := false, len := 8 }])], hs.unexp := [(1, [{ seq := 0, fn := 0, pd := 0, chan := 2, msn := 0, tag := 0x55, comm := 7, rank := 3, len := 0, tier := false }])], hs.mrCache := [(objKey 24 1 3, [0x9F, 0, 0, 0, 0x10000, 0, 0, 0, 0, 0, 0, 0, 0, 0, 0, 0])] }; let a : State := (dropPosted h 2 (fun _ => true) (meetMatch h (updJob h j.id (fun k => { k with begun := true }) s))); let rv : List Unexp := (unexpAt a h).filter (fun u => u.rndv.isSome)
    (hostUp s h = true) ∧ (freshJob s h q i 34 = some j) ∧ (Job.subop j = 2) ∧ (a = (dropPosted h 2 (fun _ => true) (meetMatch h (updJob h j.id (fun k => { k with begun := true }) s)))) ∧ (rv = (unexpAt a h).filter (fun u => u.rndv.isSome)) ∧ quiet s (finishJob h ({ j with begun := true }) 0 0 0 (updHost h (fun p => { p with lost := false }) (rv.foldl (fun s u => tellDiscarded h u.chan u.tag u.comm u.rank u.msn {} s) (dropUnexp h (fun _ => true) a)))) = true := by decide +kernel

theorem wit_MatchJobs_15 :
    let h : Nat := 1; let q : Nat := 0; let i : Word := 5; let m : HostView := {}; let s : State := sOn
    (hostUp s h = false ∨ freshJob s h q i 32 = none) ∧ quiet s (s) = true := by decide

theorem wit_MatchJobs_16 :
    let h : Nat := 1; let q : Nat := 0; let i : Word := 5; let m : HostView := {}; let s : State := sOn
    (hostUp s h = false ∨ freshJob s h q i 33 = none) ∧ quiet s (s) = true := by decide

theorem wit_MatchJobs_17 :
    let h : Nat := 1; let q : Nat := 0; let i : Word := 5; let s : State := sOn
    (hostUp s h = false ∨ freshJob s h q i 34 = none) ∧ quiet s (s) = true := by decide

set_option maxRecDepth 100000 in
theorem wit_ArrivalOfMessages_1 :
    let h : Nat := 1; let p : Packet := sealPkt { dest := 1, src := 5, cls := 0, mode := 0, lenCells := 0, ptype := 0x20, extMask := 8, ext := [0x55, 0, 7, 3, 16777216, 5, 0, 0], payload := [1, 2, 3, 4], psn := 0, chan := 2, inc := 6 }; let m : HostView := {}; let c : Nat := 2; let s : State := { sOn with hs.ports := [(1, { st := .up })], hs.wqs := [(objKey 20 1 0, { st := .active, priv := true, head := 1, tail := 1, order := [0] })], hs.cqs := [(objKey 20 1 0, { active := true })], hs.chans := [(objKey 24 1 2, { st := .active, peer := 5, peerCh := 3, inc := 6, check := 4, cached := true, used := 1, t0 := 4, limit := 4, relaxed := true })], hs.bar := [(hostKey 1 0 0x20008, 0x100104), (hostKey 1 0 0x40010, 4), (hostKey 1 0 0x30000, 0x801), (hostKey 1 0 0x30010, 0x20000), (hostKey 1 0 0x30018, 0x21)], hs.mrCache := [(objKey 24 1 3, [0x9F, 0, 0, 0, 0x10000, 0, 0, 0, 0, 0, 0, 0, 0, 0, 0, 0])] }; let r : State := (arrived 1 32 p s).1; let u : State := inc (trnCtr h 1) r; let w : State := (takeCore h c (meetCtx h c u)).1; let x : Chan := chanOf w h c; let v : View := viewOf m u; let d : Nat := (p.psn - x.expect).toNat; let y : State := w; let z : Chan := x
    (arrived h 0x20 p s = (r, true)) ∧ (c = p.chan.toNat) ∧ (u = inc (trnCtr h 1) r) ∧ ((chanOf u h c).cached = true) ∧ (v = viewOf m u) ∧ (w = (takeCore h c (meetCtx h c u)).1) ∧ (x = chanOf w h c) ∧ (p.inc = x.inc) ∧ (p.src = x.peer) ∧ (x.unrel = false) ∧ (x.st ≠ .error) ∧ (d = (p.psn - x.expect).toNat) ∧ (d < 2048) ∧ (executedAt x d = false) ∧ (x.busy.any (fun q => q.psn == p.psn) = false) ∧ (heldBack x d p = false) ∧ ((if d = 0 ∨ x.window then (w, true) else freeSlots (boleOf h) (objKey 24 h c) 1 w) = (y, true)) ∧ (aliveOk x d p = true) ∧ (z = chanOf y h c) ∧ (envBad y h p = true) ∧ quiet s (afterRx h c p v (.over, sendAck h c p.psn 0x12 0 (mtcCause h 3 (inc (mtcCtr h 11) y)))) = true := by decide +kernel

set_option maxRecDepth 100000 in
theorem wit_ArrivalOfMessages_2 :
    let h : Nat := 1; let p : Packet := sealPkt { dest := 1, src := 5, cls := 0, mode := 0, lenCells := 0, ptype := 0x21, extMask := 9, ext := [0x100, 0x40000000, 0x300, 0, 0x55, 0, 7, 3, 16777216, 0, 0, 0], payload := [], psn := 0, chan := 2, inc := 6 }; let m : HostView := {}; let c : Nat := 2; let s : State := { sOn with hs.ports := [(1, { st := .up })], hs.wqs := [(objKey 20 1 0, { st := .active, priv := true, head := 1, tail := 1, order := [0] })], hs.cqs := [(objKey 20 1 0, { active := true })], hs.chans := [(objKey 24 1 2, { st := .active, peer := 5, peerCh := 3, inc := 6, check := 4, cached := true, used := 1, t0 := 4, limit := 4, relaxed := true })], hs.bar := [(hostKey 1 0 0x20008, 0x100104), (hostKey 1 0 0x40010, 4), (hostKey 1 0 0x30000, 0x801), (hostKey 1 0 0x30010, 0x20000), (hostKey 1 0 0x30018, 0x21)], hs.mrCache := [(objKey 24 1 3, [0x9F, 0, 0, 0, 0x10000, 0, 0, 0, 0, 0, 0, 0, 0, 0, 0, 0])] }; let r : State := (arrived 1 33 p s).1; let u : State := inc (trnCtr h 1) r; let w : State := (takeCore h c (meetCtx h c u)).1; let x : Chan := chanOf w h c; let v : View := viewOf m u; let d : Nat := (p.psn - x.expect).toNat; let y : State := w; let z : Chan := x
    (arrived h 0x21 p s = (r, true)) ∧ (c = p.chan.toNat) ∧ (u = inc (trnCtr h 1) r) ∧ ((chanOf u h c).cached = true) ∧ (v = viewOf m u) ∧ (w = (takeCore h c (meetCtx h c u)).1) ∧ (x = chanOf w h c) ∧ (p.inc = x.inc) ∧ (p.src = x.peer) ∧ (x.unrel = false) ∧ (x.st ≠ .error) ∧ (d = (p.psn - x.expect).toNat) ∧ (d < 2048) ∧ (executedAt x d = false) ∧ (x.busy.any (fun q => q.psn == p.psn) = false) ∧ (heldBack x d p = false) ∧ ((if d = 0 ∨ x.window then (w, true) else freeSlots (boleOf h) (objKey 24 h c) 1 w) = (y, true)) ∧ (aliveOk x d p = true) ∧ (z = chanOf y h c) ∧ (envBad y h p = true) ∧ quiet s (afterRx h c p v (.over, sendAck h c p.psn 0x12 0 (mtcCause h 3 (inc (mtcCtr h 11) y)))) = true := by decide +kernel

set_option maxRecDepth 100000 in
theorem wit_ArrivalOfMessages_3 :
    let h : Nat := 1; let p : Packet := sealPkt { dest := 1, src := 5, cls := 0, mode := 0, lenCells := 0, ptype := 0x22, extMask := 8, ext := [0x55, 0, 7, 3, 0, 5, 0, 0], payload := [], psn := 0, chan := 2, inc := 6 }; let m : HostView := {}; let c : Nat := 2; let s : State := { sOn with hs.ports := [(1, { st := .up })], hs.wqs := [(objKey 20 1 0, { st := .active, priv := true, head := 1, tail := 1, order := [0] })], hs.cqs := [(objKey 20 1 0, { active := true })], hs.chans := [(objKey 24 1 2, { st := .active, peer := 5, peerCh := 3, inc := 6, check := 4, cached := true, used := 1, t0 := 4, limit := 4, relaxed := true })], hs.bar := [(hostKey 1 0 0x20008, 0x100104), (hostKey 1 0 0x40010, 4), (hostKey 1 0 0x30000, 0x801), (hostKey 1 0 0x30010, 0x20000), (hostKey 1 0 0x30018, 0x21)], hs.mrCache := [(objKey 24 1 3, [0x9F, 0, 0, 0, 0x10000, 0, 0, 0, 0, 0, 0, 0, 0, 0, 0, 0])] }; let r : State := (arrived 1 34 p s).1; let u : State := inc (trnCtr h 1) r; let w : State := (takeCore h c (meetCtx h c u)).1; let x : Chan := chanOf w h c; let v : View := viewOf m u; let d : Nat := (p.psn - x.expect).toNat; let y : State := w; let z : Chan := x
    (arrived h 0x22 p s = (r, true)) ∧ (c = p.chan.toNat) ∧ (u = inc (trnCtr h 1) r) ∧ ((chanOf u h c).cached = true) ∧ (v = viewOf m u) ∧ (w = (takeCore h c (meetCtx h c u)).1) ∧ (x = chanOf w h c) ∧ (p.inc = x.inc) ∧ (p.src = x.peer) ∧ (x.unrel = false) ∧ (x.st ≠ .error) ∧ (d = (p.psn - x.expect).toNat) ∧ (d < 2048) ∧ (executedAt x d = false) ∧ (x.busy.any (fun q => q.psn == p.psn) = false) ∧ (heldBack x d p = false) ∧ ((if d = 0 ∨ x.window then (w, true) else freeSlots (boleOf h) (objKey 24 h c) 1 w) = (y, true)) ∧ (aliveOk x d p = true) ∧ (z = chanOf y h c) ∧ (envBad y h p = true) ∧ quiet s (afterRx h c p v (.over, sendAck h c p.psn 0x12 0 (mtcCause h 3 (inc (mtcCtr h 11) y)))) = true := by decide +kernel

set_option maxRecDepth 100000 in
theorem wit_ArrivalOfMessages_4 :
    let h : Nat := 1; let p : Packet := sealPkt { dest := 1, src := 5, cls := 0, mode := 0, lenCells := 0, ptype := 0x21, extMask := 9, ext := [0x100, 0x40000000, 0x300, 0, 0x55, 0, 7, 3, 16777216, 12288, 0, 0], payload := [], psn := 0, chan := 2, inc := 6 }; let m : HostView := {}; let c : Nat := 2; let s : State := { sOn with hs.ports := [(1, { st := .up })], hs.wqs := [(objKey 20 1 0, { st := .active, priv := true, head := 1, tail := 1, order := [0] })], hs.cqs := [(objKey 20 1 0, { active := true })], hs.chans := [(objKey 24 1 2, { st := .active, peer := 5, peerCh := 3, inc := 6, check := 1, cached := true, used := 1, t0 := 4, limit := 4, relaxed := true })], hs.bar := [(hostKey 1 0 0x20008, 0x100104), (hostKey 1 0 0x40010, 4), (hostKey 1 0 0x30000, 0x801), (hostKey 1 0 0x30010, 0x20000), (hostKey 1 0 0x30018, 0x21)], hs.mrCache := [(objKey 24 1 3, [0x9F, 0, 0, 0, 0x10000, 0, 0, 0, 0, 0, 0, 0, 0, 0, 0, 0])] }; let r : State := (arrived 1 33 p s).1; let u : State := inc (trnCtr h 1) r; let w : State := (takeCore h c (meetCtx h c u)).1; let x : Chan := chanOf w h c; let v : View := viewOf m u; let d : Nat := (p.psn - x.expect).toNat; let y : State := w; let z : Chan := x
    (arrived h 0x21 p s = (r, true)) ∧ (c = p.chan.toNat) ∧ (u = inc (trnCtr h 1) r) ∧ ((chanOf u h c).cached = true) ∧ (v = viewOf m u) ∧ (w = (takeCore h c (meetCtx h c u)).1) ∧ (x = chanOf w h c) ∧ (p.inc = x.inc) ∧ (p.src = x.peer) ∧ (x.unrel = false) ∧ (x.st ≠ .error) ∧ (d = (p.psn - x.expect).toNat) ∧ (d < 2048) ∧ (executedAt x d = false) ∧ (x.busy.any (fun q => q.psn == p.psn) = false) ∧ (heldBack x d p = false) ∧ ((if d = 0 ∨ x.window then (w, true) else freeSlots (boleOf h) (objKey 24 h c) 1 w) = (y, true)) ∧ (aliveOk x d p = true) ∧ (z = chanOf y h c) ∧ (envBad y h p = false) ∧ (checkOk z p = false) ∧ quiet s (afterRx h c p v (.over, cvuFail h 3 p y)) = true := by decide +kernel

set_option maxRecDepth 100000 in
theorem wit_ArrivalOfMessages_5 :
    let h : Nat := 1; let p : Packet := sealPkt { dest := 1, src := 5, cls := 0, mode := 0, lenCells := 0, ptype := 0x22, extMask := 8, ext := [0x55, 0, 7, 3, 16777216, 12288, 0, 9], payload := [], psn := 0, chan := 2, inc := 6 }; let m : HostView := {}; let c : Nat := 2; let s : State := { sOn with hs.ports := [(1, { st := .up })], hs.wqs := [(objKey 20 1 0, { st := .active, priv := true, head := 1, tail := 1, order := [0] })], hs.cqs := [(objKey 20 1 0, { active := true })], hs.chans := [(objKey 24 1 2, { st := .active, peer := 5, peerCh := 3, inc := 6, check := 1, cached := true, used := 1, t0 := 4, limit := 4, relaxed := true })], hs.bar := [(hostKey 1 0 0x20008, 0x100104), (hostKey 1 0 0x40010, 4), (hostKey 1 0 0x30000, 0x801), (hostKey 1 0 0x30010, 0x20000), (hostKey 1 0 0x30018, 0x21)], hs.mrCache := [(objKey 24 1 3, [0x9F, 0, 0, 0, 0x10000, 0, 0, 0, 0, 0, 0, 0, 0, 0, 0, 0])] }; let r : State := (arrived 1 34 p s).1; let u : State := inc (trnCtr h 1) r; let w : State := (takeCore h c (meetCtx h c u)).1; let x : Chan := chanOf w h c; let v : View := viewOf m u; let d : Nat := (p.psn - x.expect).toNat; let y : State := w; let z : Chan := x
    (arrived h 0x22 p s = (r, true)) ∧ (c = p.chan.toNat) ∧ (u = inc (trnCtr h 1) r) ∧ ((chanOf u h c).cached = true) ∧ (v = viewOf m u) ∧ (w = (takeCore h c (meetCtx h c u)).1) ∧ (x = chanOf w h c) ∧ (p.inc = x.inc) ∧ (p.src = x.peer) ∧ (x.unrel = false) ∧ (x.st ≠ .error) ∧ (d = (p.psn - x.expect).toNat) ∧ (d < 2048) ∧ (executedAt x d = false) ∧ (x.busy.any (fun q => q.psn == p.psn) = false) ∧ (heldBack x d p = false) ∧ ((if d = 0 ∨ x.window then (w, true) else freeSlots (boleOf h) (objKey 24 h c) 1 w) = (y, true)) ∧ (aliveOk x d p = true) ∧ (z = chanOf y h c) ∧ (envBad y h p = false) ∧ (checkOk z p = false) ∧ quiet s (afterRx h c p v (.over, cvuFail h 3 p y)) = true := by decide +kernel

set_option maxRecDepth 100000 in
theorem wit_ArrivalOfMessages_6 :
    let h : Nat := 1; let p : Packet := sealPkt { dest := 1, src := 5, cls := 0, mode := 0, lenCells := 0, ptype := 0x20, extMask := 8, ext := [0x55, 0, 7, 3, 16777216, 4, 0, 0], payload := [1, 2, 3, 4], psn := 0, chan := 2, inc := 6 }; let m : HostView := {}; let c : Nat := 2; let s : State := { sOn with hs.ports := [(1, { st := .up })], hs.cqs := [(objKey 20 1 0, { active := true })], hs.chans := [(objKey 24 1 2, { st := .active, peer := 5, peerCh := 3, inc := 6, check := 1, cached := true, used := 1, t0 := 4, limit := 4, relaxed := true })], hs.bar := [(hostKey 1 0 0x20008, 0x100104), (hostKey 1 0 0x40010, 4)], hs.mrCache := [(objKey 24 1 3, [0x9F, 0, 0, 0, 0x10000, 0, 0, 0, 0, 0, 0, 0, 0, 0, 0, 0])] }; let r : State := (arrived 1 32 p s).1; let u : State := inc (trnCtr h 1) r; let w : State := (takeCore h c (meetCtx h c u)).1; let x : Chan := chanOf w h c; let v : View := viewOf m u; let d : Nat := (p.psn - x.expect).toNat; let y : State := w; let z : Chan := x
    (arrived h 0x20 p s = (r, true)) ∧ (c = p.chan.toNat) ∧ (u = inc (trnCtr h 1) r) ∧ ((chanOf u h c).cached = true) ∧ (v = viewOf m u) ∧ (w = (takeCore h c (meetCtx h c u)).1) ∧ (x = chanOf w h c) ∧ (p.inc = x.inc) ∧ (p.src = x.peer) ∧ (x.unrel = false) ∧ (x.st ≠ .error) ∧ (d = (p.psn - x.expect).toNat) ∧ (d < 2048) ∧ (executedAt x d = false) ∧ (x.busy.any (fun q => q.psn == p.psn) = false) ∧ (heldBack x d p = false) ∧ ((if d = 0 ∨ x.window then (w, true) else freeSlots (boleOf h) (objKey 24 h c) 1 w) = (y, true)) ∧ (aliveOk x d p = true) ∧ (z = chanOf y h c) ∧ (envBad y h p = false) ∧ (checkOk z p = false) ∧ (eagerDest h p z y = .gone) ∧ quiet s (afterRx h c p v (.over, cvuFail h 3 p y)) = true := by decide +kernel

set_option maxRecDepth 100000 in
theorem wit_ArrivalOfMessages_7 :
    let h : Nat := 1; let p : Packet := sealPkt { dest := 1, src := 5, cls := 0, mode := 0, lenCells := 0, ptype := 0x20, extMask := 8, ext := [0x55, 0, 7, 3, 16777216, 4, 0, 0], payload := [1, 2, 3, 4], psn := 0, chan := 2, inc := 6 }; let m : HostView := {}; let c : Nat := 2; let k : Nat := 0; let s : State := { sOn with hs.ports := [(1, { st := .up })], hs.wqs := [(objKey 20 1 0, { st := .active, priv := true, head := 1, tail := 1, order := [0] })], hs.cqs := [(objKey 20 1 0, { active := true })], hs.chans := [(objKey 24 1 2, { st := .active, peer := 5, peerCh := 3, inc := 6, check := 1, cached := true, used := 1, t0 := 4, limit := 4, relaxed := true })], hs.bar := [(hostKey 1 0 0x20008, 0x100104), (hostKey 1 0 0x40010, 4), (hostKey 1 0 0x30000, 0x801), (hostKey 1 0 0x30010, 0x20000), (hostKey 1 0 0x30018, 0x21)], hs.mrCache := [(objKey 24 1 3, [0x9F, 0, 0, 0, 0x10000, 0, 0, 0, 0, 0, 0, 0, 0, 0, 0, 0])] }; let r : State := (arrived 1 32 p s).1; let u : State := inc (trnCtr h 1) r; let w : State := (takeCore h c (meetCtx h c u)).1; let x : Chan := chanOf w h c; let v : View := viewOf m u; let d : Nat := (p.psn - x.expect).toNat; let y : State := w; let z : Chan := x
    (arrived h 0x20 p s = (r, true)) ∧ (c = p.chan.toNat) ∧ (u = inc (trnCtr h 1) r) ∧ ((chanOf u h c).cached = true) ∧ (v = viewOf m u) ∧ (w = (takeCore h c (meetCtx h c u)).1) ∧ (x = chanOf w h c) ∧ (p.inc = x.inc) ∧ (p.src = x.peer) ∧ (x.unrel = false) ∧ (x.st ≠ .error) ∧ (d = (p.psn - x.expect).toNat) ∧ (d < 2048) ∧ (executedAt x d = false) ∧ (x.busy.any (fun q => q.psn == p.psn) = false) ∧ (heldBack x d p = false) ∧ ((if d = 0 ∨ x.window then (w, true) else freeSlots (boleOf h) (objKey 24 h c) 1 w) = (y, true)) ∧ (aliveOk x d p = true) ∧ (z = chanOf y h c) ∧ (envBad y h p = false) ∧ (checkOk z p = false) ∧ (eagerDest h p z y = .slot k) ∧ quiet s (afterRx h c p v (.over, cvuFail h 3 p (wrBus h 0 true (bounceAddr y h k + enOff p) p.payload y))) = true := by decide +kernel

set_option maxRecDepth 100000 in
theorem wit_ArrivalOfMessages_8 :
    let h : Nat := 1; let p : Packet := sealPkt { dest := 1, src := 5, cls := 0, mode := 0, lenCells := 0, ptype := 0x20, extMask := 8, ext := [0x55, 0, 7, 3, 16777216, 4100, 4096, 0], payload := [1, 2, 3, 4], psn := 1, chan := 2, inc := 6 }; let m : HostView := {}; let c : Nat := 2; let k : Nat := 3; let i : Nat := 1; let s : State := { sOn with hs.ports := [(1, { st := .up })], hs.wqs := [(objKey 20 1 0, { st := .active, priv := true, head := 1, tail := 1, order := [0] })], hs.cqs := [(objKey 20 1 0, { active := true })], hs.chans := [(objKey 24 1 2, { st := .active, peer := 5, peerCh := 3, inc := 6, check := 1, cached := true, used := 1, t0 := 4, limit := 4, relaxed := true, expect := 1, msgs := [{ head := 0, msn := 0, dest := Dest.both 3 1, left := 4, len := 4100, tag := 0x55, comm := 7, rank := 3 }] })], hs.bar := [(hostKey 1 0 0x20008, 0x100104), (hostKey 1 0 0x40010, 4), (hostKey 1 0 0x30000, 0x801), (hostKey 1 0 0x30010, 0x20000), (hostKey 1 0 0x30018, 0x21)], hs.mrCache := [(objKey 24 1 3, [0x9F, 0, 0, 0, 0x10000, 0, 0, 0, 0, 0, 0, 0, 0, 0, 0, 0])] }; let r : State := (arrived 1 32 p s).1; let u : State := inc (trnCtr h 1) r; let w : State := (takeCore h c (meetCtx h c u)).1; let x : Chan := chanOf w h c; let v : View := viewOf m u; let d : Nat := (p.psn - x.expect).toNat; let y : State := w; let z : Chan := x
    (arrived h 0x20 p s = (r, true)) ∧ (c = p.chan.toNat) ∧ (u = inc (trnCtr h 1) r) ∧ ((chanOf u h c).cached = true) ∧ (v = viewOf m u) ∧ (w = (takeCore h c (meetCtx h c u)).1) ∧ (x = chanOf w h c) ∧ (p.inc = x.inc) ∧ (p.src = x.peer) ∧ (x.unrel = false) ∧ (x.st ≠ .error) ∧ (d = (p.psn - x.expect).toNat) ∧ (d < 2048) ∧ (executedAt x d = false) ∧ (x.busy.any (fun q => q.psn == p.psn) = false) ∧ (heldBack x d p = false) ∧ ((if d = 0 ∨ x.window then (w, true) else freeSlots (boleOf h) (objKey 24 h c) 1 w) = (y, true)) ∧ (aliveOk x d p = true) ∧ (z = chanOf y h c) ∧ (envBad y h p = false) ∧ (checkOk z p = false) ∧ (eagerDest h p z y = .both k i) ∧ quiet s (afterRx h c p v (.over, cvuFail h 3 p (wrBus h 0 true (bounceAddr y h k + enOff p) p.payload y))) = true := by decide +kernel

set_option maxRecDepth 100000 in
theorem wit_ArrivalOfMessages_9 :
    let h : Nat := 1; let p : Packet := sealPkt { dest := 1, src := 5, cls := 0, mode := 0, lenCells := 0, ptype := 0x20, extMask := 8, ext := [0x55, 0, 7, 3, 16777216, 4, 0, 0], payload := [1, 2, 3, 4], psn := 0, chan := 2, inc := 6 }; let m : HostView := {}; let c : Nat := 2; let i : Nat := 1; let s : State := { sOn with hs.ports := [(1, { st := .up })], hs.wqs := [(objKey 20 1 0, { st := .active, priv := true, head := 1, tail := 1, order := [0] })], hs.cqs := [(objKey 20 1 0, { active := true })], hs.chans := [(objKey 24 1 2, { st := .active, peer := 5, peerCh := 3, inc := 6, check := 1, cached := true, used := 1, t0 := 4, limit := 4, relaxed := true })], hs.bar := [(hostKey 1 0 0x20008, 0x100104), (hostKey 1 0 0x40010, 4), (hostKey 1 0 0x30000, 0x801), (hostKey 1 0 0x30010, 0x20000), (hostKey 1 0 0x30018, 0x21)], hs.posted := [(1, [{ job := 1, seq := 0, fn := 0, pd := 0, tag := 0x55, mask := 0xFFFFFFFFFFFFFFFF, comm := 7, rank := 3, any := false, len := 8 }])], hs.mrCache := [(objKey 24 1 3, [0x9F, 0, 0, 0, 0x10000, 0, 0, 0, 0, 0, 0, 0, 0, 0, 0, 0])] }; let r : State := (arrived 1 32 p s).1; let u : State := inc (trnCtr h 1) r; let w : State := (takeCore h c (meetCtx h c u)).1; let x : Chan := chanOf w h c; let v : View := viewOf m u; let d : Nat := (p.psn - x.expect).toNat; let y : State := w; let z : Chan := x
    (arrived h 0x20 p s = (r, true)) ∧ (c = p.chan.toNat) ∧ (u = inc (trnCtr h 1) r) ∧ ((chanOf u h c).cached = true) ∧ (v = viewOf m u) ∧ (w = (takeCore h c (meetCtx h c u)).1) ∧ (x = chanOf w h c) ∧ (p.inc = x.inc) ∧ (p.src = x.peer) ∧ (x.unrel = false) ∧ (x.st ≠ .error) ∧ (d = (p.psn - x.expect).toNat) ∧ (d < 2048) ∧ (executedAt x d = false) ∧ (x.busy.any (fun q => q.psn == p.psn) = false) ∧ (heldBack x d p = false) ∧ ((if d = 0 ∨ x.window then (w, true) else freeSlots (boleOf h) (objKey 24 h c) 1 w) = (y, true)) ∧ (aliveOk x d p = true) ∧ (z = chanOf y h c) ∧ (envBad y h p = false) ∧ (checkOk z p = false) ∧ (eagerDest h p z y = .recv i) ∧ (jobOf y h i = none) ∧ quiet s (afterRx h c p v (.over, cvuFail h 3 p y)) = true := by decide +kernel

set_option maxRecDepth 100000 in
theorem wit_ArrivalOfMessages_10 :
    let h : Nat := 1; let p : Packet := sealPkt { dest := 1, src := 5, cls := 0, mode := 0, lenCells := 0, ptype := 0x20, extMask := 8, ext := [0x55, 0, 7, 3, 16777216, 4, 0, 0], payload := [1, 2, 3, 4], psn := 0, chan := 2, inc := 6 }; let m : HostView := {}; let c : Nat := 2; let i : Nat := 1; let j : Job := { id := 1, h := 1, q := 0, idx := 0, ents := [[2162695, 0, 0, 0, 512, 0, 768, 8, 4294967295, 4294967295, 0, 85, 0, 7, 3, 2147483648]], begun := true, ready := true }; let s : State := { sOn with hs.ports := [(1, { st := .up, jobs := [{ id := 1, h := 1, q := 0, idx := 0, ents := [[2162695, 0, 0, 0, 512, 0, 768, 8, 4294967295, 4294967295, 0, 85, 0, 7, 3, 2147483648]], begun := true, ready := true }], nextJob := 9 })], hs.wqs := [(objKey 20 1 0, { st := .active, priv := true, head := 1, tail := 1, order := [0] })], hs.cqs := [(objKey 20 1 0, { active := true })], hs.chans := [(objKey 24 1 2, { st := .active, peer := 5, peerCh := 3, inc := 6, check := 1, cached := true, used := 1, t0 := 4, limit := 4, relaxed := true })], hs.bar := [(hostKey 1 0 0x20008, 0x100104), (hostKey 1 0 0x40010, 4), (hostKey 1 0 0x30000, 0x801), (hostKey 1 0 0x30010, 0x20000), (hostKey 1 0 0x30018, 0x21)], hs.posted := [(1, [{ job := 1, seq := 0, fn := 0, pd := 0, tag := 0x55, mask := 0xFFFFFFFFFFFFFFFF, comm := 7, rank := 3, any := false, len := 8 }])], hs.mrCache := [(objKey 24 1 3, [0x9F, 0, 0, 0, 0x10000, 0, 0, 0, 0, 0, 0, 0, 0, 0, 0, 0])] }; let r : State := (arrived 1 32 p s).1; let u : State := inc (trnCtr h 1) r; let w : State := (takeCore h c (meetCtx h c u)).1; let x : Chan := chanOf w h c; let v : View := viewOf m u; let d : Nat := (p.psn - x.expect).toNat; let y : State := w; let z : Chan := x; let gs : List Grant := (match (grantLocal h j (enOff p) (p.payload.take (lengthOfJob j - enOff p)).length .eagerWrite v y).1 with | .ok gs => gs | _ => []); let g : State := (grantLocal h j (enOff p) (p.payload.take (lengthOfJob j - enOff p)).length .eagerWrite v y).2
    (arrived h 0x20 p s = (r, true)) ∧ (c = p.chan.toNat) ∧ (u = inc (trnCtr h 1) r) ∧ ((chanOf u h c).cached = true) ∧ (v = viewOf m u) ∧ (w = (takeCore h c (meetCtx h c u)).1) ∧ (x = chanOf w h c) ∧ (p.inc = x.inc) ∧ (p.src = x.peer) ∧ (x.unrel = false) ∧ (x.st ≠ .error) ∧ (d = (p.psn - x.expect).toNat) ∧ (d < 2048) ∧ (executedAt x d = false) ∧ (x.busy.any (fun q => q.psn == p.psn) = false) ∧ (heldBack x d p = false) ∧ ((if d = 0 ∨ x.window then (w, true) else freeSlots (boleOf h) (objKey 24 h c) 1 w) = (y, true)) ∧ (aliveOk x d p = true) ∧ (z = chanOf y h c) ∧ (envBad y h p = false) ∧ (checkOk z p = false) ∧ (eagerDest h p z y = .recv i) ∧ (jobOf y h i = some j) ∧ (grantLocal h j (enOff p) (p.payload.take (lengthOfJob j - enOff p)).length .eagerWrite v y = (.ok gs, g)) ∧ quiet s (afterRx h c p v (.over, cvuFail h 3 p (writeGrants h (gs.map Grant.quiet) (p.payload.take (lengthOfJob j - enOff p)) g))) = true := by decide +kernel

set_option maxRecDepth 100000 in
theorem wit_ArrivalOfMessages_11 :
    let h : Nat := 1; let p : Packet := sealPkt { dest := 1, src := 5, cls := 0, mode := 0, lenCells := 0, ptype := 0x20, extMask := 8, ext := [0x55, 0, 7, 3, 16777216, 4, 0, 0], payload := [1, 2, 3, 4], psn := 0, chan := 2, inc := 6 }; let m : HostView := {}; let c : Nat := 2; let i : Nat := 1; let j : Job := { id := 1, h := 1, q := 0, idx := 0, ents := [[2162695, 0, 0, 0, 512, 0, 768, 8, 4294967295, 4294967295, 0, 85, 0, 7, 3, 2147483648]], begun := true, ready := true }; let s : State := { sOn with hs.ports := [(1, { st := .up, jobs := [{ id := 1, h := 1, q := 0, idx := 0, ents := [[2162695, 0, 0, 0, 512, 0, 768, 8, 4294967295, 4294967295, 0, 85, 0, 7, 3, 2147483648]], begun := true, ready := true }], nextJob := 9 })], hs.wqs := [(objKey 20 1 0, { st := .active, priv := true, head := 1, tail := 1, order := [0] })], hs.cqs := [(objKey 20 1 0, { active := true })], hs.chans := [(objKey 24 1 2, { st := .active, peer := 5, peerCh := 3, inc := 6, check := 1, cached := true, used := 1, t0 := 4, limit := 4, relaxed := true })], hs.bar := [(hostKey 1 0 0x20008, 0x100104), (hostKey 1 0 0x40010, 4), (hostKey 1 0 0x40008, 0x9000), (hostKey 1 0 0x30000, 0x801), (hostKey 1 0 0x30010, 0x20000), (hostKey 1 0 0x30018, 0x21)], hs.posted := [(1, [{ job := 1, seq := 0, fn := 0, pd := 0, tag := 0x55, mask := 0xFFFFFFFFFFFFFFFF, comm := 7, rank := 3, any := false, len := 8 }])] }; let r : State := (arrived 1 32 p s).1; let u : State := inc (trnCtr h 1) r; let w : State := (takeCore h c (meetCtx h c u)).1; let x : Chan := chanOf w h c; let v : View := viewOf m u; let d : Nat := (p.psn - x.expect).toNat; let y : State := w; let z : Chan := x; let n : Need := (match (grantLocal h j (enOff p) (p.payload.take (lengthOfJob j - enOff p)).length .eagerWrite v y).1 with | .wait n => n | _ => .page 0 0 0); let g : State := (grantLocal h j (enOff p) (p.payload.take (lengthOfJob j - enOff p)).length .eagerWrite v y).2
    (arrived h 0x20 p s = (r, true)) ∧ (c = p.chan.toNat) ∧ (u = inc (trnCtr h 1) r) ∧ ((chanOf u h c).cached = true) ∧ (v = viewOf m u) ∧ (w = (takeCore h c (meetCtx h c u)).1) ∧ (x = chanOf w h c) ∧ (p.inc = x.inc) ∧ (p.src = x.peer) ∧ (x.unrel = false) ∧ (x.st ≠ .error) ∧ (d = (p.psn - x.expect).toNat) ∧ (d < 2048) ∧ (executedAt x d = false) ∧ (x.busy.any (fun q => q.psn == p.psn) = false) ∧ (heldBack x d p = false) ∧ ((if d = 0 ∨ x.window then (w, true) else freeSlots (boleOf h) (objKey 24 h c) 1 w) = (y, true)) ∧ (aliveOk x d p = true) ∧ (z = chanOf y h c) ∧ (envBad y h p = false) ∧ (checkOk z p = false) ∧ (eagerDest h p z y = .recv i) ∧ (jobOf y h i = some j) ∧ (grantLocal h j (enOff p) (p.payload.take (lengthOfJob j - enOff p)).length .eagerWrite v y = (.wait n, g)) ∧ quiet s (rxWait h c p n g) = true := by decide +kernel

set_option maxRecDepth 100000 in
theorem wit_ArrivalOfMessages_12 :
    let h : Nat := 1; let p : Packet := sealPkt { dest := 1, src := 5, cls := 0, mode := 0, lenCells := 0, ptype := 0x20, extMask := 8, ext := [0x55, 0, 7, 3, 16777216, 4, 0, 0], payload := [1, 2, 3, 4], psn := 0, chan := 2, inc := 6 }; let m : HostView := {}; let c : Nat := 2; let i : Nat := 1; let k : Nat := 1; let j : Job := { id := 1, h := 1, q := 0, idx := 0, ents := [[2162695, 0, 0, 0, 512, 0, 20480, 8, 4294967295, 4294967295, 0, 85, 0, 7, 3, 2147483648]], begun := true, ready := true }; let s : State := { sOn with hs.ports := [(1, { st := .up, jobs := [{ id := 1, h := 1, q := 0, idx := 0, ents := [[2162695, 0, 0, 0, 512, 0, 20480, 8, 4294967295, 4294967295, 0, 85, 0, 7, 3, 2147483648]], begun := true, ready := true }], nextJob := 9 })], hs.wqs := [(objKey 20 1 0, { st := .active, priv := true, head := 1, tail := 1, order := [0] })], hs.cqs := [(objKey 20 1 0, { active := true })], hs.chans := [(objKey 24 1 2, { st := .active, peer := 5, peerCh := 3, inc := 6, check := 1, cached := true, used := 1, t0 := 4, limit := 4, relaxed := true })], hs.bar := [(hostKey 1 0 0x20008, 0x100104), (hostKey 1 0 0x40010, 4), (hostKey 1 0 0x30000, 0x801), (hostKey 1 0 0x30010, 0x20000), (hostKey 1 0 0x30018, 0x21)], hs.posted := [(1, [{ job := 1, seq := 0, fn := 0, pd := 0, tag := 0x55, mask := 0xFFFFFFFFFFFFFFFF, comm := 7, rank := 3, any := false, len := 8 }])], hs.mrCache := [(objKey 24 1 3, [0x9F, 0, 0, 0, 0x10000, 0, 0, 0, 0, 0, 0, 0, 0, 0, 0, 0])] }; let r : State := (arrived 1 32 p s).1; let u : State := inc (trnCtr h 1) r; let w : State := (takeCore h c (meetCtx h c u)).1; let x : Chan := chanOf w h c; let v : View := viewOf m u; let d : Nat := (p.psn - x.expect).toNat; let y : State := w; let z : Chan := x; let g : State := (grantLocal h j (enOff p) (p.payload.take (lengthOfJob j - enOff p)).length .eagerWrite v y).2
    (arrived h 0x20 p s = (r, true)) ∧ (c = p.chan.toNat) ∧ (u = inc (trnCtr h 1) r) ∧ ((chanOf u h c).cached = true) ∧ (v = viewOf m u) ∧ (w = (takeCore h c (meetCtx h c u)).1) ∧ (x = chanOf w h c) ∧ (p.inc = x.inc) ∧ (p.src = x.peer) ∧ (x.unrel = false) ∧ (x.st ≠ .error) ∧ (d = (p.psn - x.expect).toNat) ∧ (d < 2048) ∧ (executedAt x d = false) ∧ (x.busy.any (fun q => q.psn == p.psn) = false) ∧ (heldBack x d p = false) ∧ ((if d = 0 ∨ x.window then (w, true) else freeSlots (boleOf h) (objKey 24 h c) 1 w) = (y, true)) ∧ (aliveOk x d p = true) ∧ (z = chanOf y h c) ∧ (envBad y h p = false) ∧ (checkOk z p = false) ∧ (eagerDest h p z y = .recv i) ∧ (jobOf y h i = some j) ∧ (grantLocal h j (enOff p) (p.payload.take (lengthOfJob j - enOff p)).length .eagerWrite v y = (.fail k, g)) ∧ quiet s (afterRx h c p v (.over, cvuFail h 3 p g)) = true := by decide +kernel

set_option maxRecDepth 100000 in
theorem wit_ArrivalOfMessages_13 :
    let h : Nat := 1; let p : Packet := sealPkt { dest := 1, src := 5, cls := 0, mode := 0, lenCells := 0, ptype := 0x20, extMask := 8, ext := [0x55, 0, 7, 3, 16777216, 4, 0, 0], payload := [1, 2, 3, 4], psn := 0, chan := 2, inc := 6 }; let m : HostView := {}; let c : Nat := 2; let s : State := { sOn with hs.ports := [(1, { st := .up })], hs.cqs := [(objKey 20 1 0, { active := true })], hs.chans := [(objKey 24 1 2, { st := .active, peer := 5, peerCh := 3, inc := 6, check := 4, cached := true, used := 1, t0 := 4, limit := 4, relaxed := true })], hs.bar := [(hostKey 1 0 0x20008, 0x100104), (hostKey 1 0 0x40010, 4)], hs.mrCache := [(objKey 24 1 3, [0x9F, 0, 0, 0, 0x10000, 0, 0, 0, 0, 0, 0, 0, 0, 0, 0, 0])] }; let r : State := (arrived 1 32 p s).1; let u : State := inc (trnCtr h 1) r; let w : State := (takeCore h c (meetCtx h c u)).1; let x : Chan := chanOf w h c; let v : View := viewOf m u; let d : Nat := (p.psn - x.expect).toNat; let y : State := w; let z : Chan := x; let q : State := inc (mtcCtr h 0) (updHost h (fun q => { q with relSeq := q.relSeq + 1 }) (meetMatch h y)); let o : Chan := chanOf (meetMatch h y) h c
    (arrived h 0x20 p s = (r, true)) ∧ (c = p.chan.toNat) ∧ (u = inc (trnCtr h 1) r) ∧ ((chanOf u h c).cached = true) ∧ (v = viewOf m u) ∧ (w = (takeCore h c (meetCtx h c u)).1) ∧ (x = chanOf w h c) ∧ (p.inc = x.inc) ∧ (p.src = x.peer) ∧ (x.unrel = false) ∧ (x.st ≠ .error) ∧ (d = (p.psn - x.expect).toNat) ∧ (d < 2048) ∧ (executedAt x d = false) ∧ (x.busy.any (fun q => q.psn == p.psn) = false) ∧ (heldBack x d p = false) ∧ ((if d = 0 ∨ x.window then (w, true) else freeSlots (boleOf h) (objKey 24 h c) 1 w) = (y, true)) ∧ (aliveOk x d p = true) ∧ (z = chanOf y h c) ∧ (envBad y h p = false) ∧ (checkOk z p = true) ∧ (isHead p = true) ∧ (msgAt z p.psn (enMsn p) = none) ∧ (q = inc (mtcCtr h 0) (updHost h (fun q => { q with relSeq := q.relSeq + 1 }) (meetMatch h y))) ∧ (o = chanOf (meetMatch h y) h c) ∧ ((hport q h).lost = false) ∧ (mtcOn q h = false) ∧ quiet s (afterRx h c p v (.over, discardBehind h c p (sendAck h c p.psn 2 0 (mtcCause h 1 (inc (mtcCtr h 7) q))))) = true := by decide +kernel

set_option maxRecDepth 100000 in
theorem wit_ArrivalOfMessages_14 :
    let h : Nat := 1; let p : Packet := sealPkt { dest := 1, src := 5, cls := 0, mode := 0, lenCells := 0, ptype := 0x21, extMask := 9, ext := [0x100, 0x40000000, 0x300, 0, 0x55, 0, 7, 3, 16777216, 12288, 0, 0], payload := [], psn := 0, chan := 2, inc := 6 }; let m : HostView := {}; let c : Nat := 2; let s : State := { sOn with hs.ports := [(1, { st := .up })], hs.cqs := [(objKey 20 1 0, { active := true })], hs.chans := [(objKey 24 1 2, { st := .active, peer := 5, peerCh := 3, inc := 6, check := 4, cached := true, used := 1, t0 := 4, limit := 4, relaxed := true })], hs.bar := [(hostKey 1 0 0x20008, 0x100104), (hostKey 1 0 0x40010, 4)], hs.mrCache := [(objKey 24 1 3, [0x9F, 0, 0, 0, 0x10000, 0, 0, 0, 0, 0, 0, 0, 0, 0, 0, 0])] }; let r : State := (arrived 1 33 p s).1; let u : State := inc (trnCtr h 1) r; let w : State := (takeCore h c (meetCtx h c u)).1; let x : Chan := chanOf w h c; let v : View := viewOf m u; let d : Nat := (p.psn - x.expect).toNat; let y : State := w; let z : Chan := x; let q : State := inc (mtcCtr h 0) (updHost h (fun q => { q with relSeq := q.relSeq + 1 }) (meetMatch h y)); let o : Chan := chanOf (meetMatch h y) h c
    (arrived h 0x21 p s = (r, true)) ∧ (c = p.chan.toNat) ∧ (u = inc (trnCtr h 1) r) ∧ ((chanOf u h c).cached = true) ∧ (v = viewOf m u) ∧ (w = (takeCore h c (meetCtx h c u)).1) ∧ (x = chanOf w h c) ∧ (p.inc = x.inc) ∧ (p.src = x.peer) ∧ (x.unrel = false) ∧ (x.st ≠ .error) ∧ (d = (p.psn - x.expect).toNat) ∧ (d < 2048) ∧ (executedAt x d = false) ∧ (x.busy.any (fun q => q.psn == p.psn) = false) ∧ (heldBack x d p = false) ∧ ((if d = 0 ∨ x.window then (w, true) else freeSlots (boleOf h) (objKey 24 h c) 1 w) = (y, true)) ∧ (aliveOk x d p = true) ∧ (z = chanOf y h c) ∧ (envBad y h p = false) ∧ (checkOk z p = true) ∧ (isHead p = true) ∧ (msgAt z p.psn (enMsn p) = none) ∧ (q = inc (mtcCtr h 0) (updHost h (fun q => { q with relSeq := q.relSeq + 1 }) (meetMatch h y))) ∧ (o = chanOf (meetMatch h y) h c) ∧ ((hport q h).lost = false) ∧ (mtcOn q h = false) ∧ quiet s (afterRx h c p v (.over, discardBehind h c p (sendAck h c p.psn 2 0 (mtcCause h 1 (inc (mtcCtr h 7) q))))) = true := by decide +kernel

set_option maxRecDepth 100000 in
theorem wit_ArrivalOfMessages_15 :
    let h : Nat := 1; let p : Packet := sealPkt { dest := 1, src := 5, cls := 0, mode := 0, lenCells := 0, ptype := 0x20, extMask := 8, ext := [0x55, 0, 7, 3, 16777216, 4, 0, 0], payload := [1, 2, 3, 4], psn := 0, chan := 2, inc := 6 }; let m : HostView := {}; let c : Nat := 2; let s : State := { sOn with hs.ports := [(1, { st := .up })], hs.wqs := [(objKey 20 1 0, { st := .active, priv := true, head := 1, tail := 1, order := [0] })], hs.cqs := [(objKey 20 1 0, { active := true })], hs.chans := [(objKey 24 1 2, { st := .active, peer := 5, peerCh := 3, inc := 6, check := 4, cached := true, used := 1, t0 := 4, limit := 4, relaxed := true })], hs.bar := [(hostKey 1 0 0x20008, 0x100104), (hostKey 1 0 0x40010, 4), (hostKey 1 0 0x30000, 0x801), (hostKey 1 0 0x30008, 0), (hostKey 1 0 0x3000C, 0), (hostKey 1 0 0x30010, 0x20000), (hostKey 1 0 0x30018, 0x21)], hs.mrCache := [(objKey 24 1 3, [0x9F, 0, 0, 0, 0x10000, 0, 0, 0, 0, 0, 0, 0, 0, 0, 0, 0])] }; let r : State := (arrived 1 32 p s).1; let u : State := inc (trnCtr h 1) r; let w : State := (takeCore h c (meetCtx h c u)).1; let x : Chan := chanOf w h c; let v : View := viewOf m u; let d : Nat := (p.psn - x.expect).toNat; let y : State := w; let z : Chan := x; let q : State := inc (mtcCtr h 0) (updHost h (fun q => { q with relSeq := q.relSeq + 1 }) (meetMatch h y)); let o : Chan := chanOf (meetMatch h y) h c
    (arrived h 0x20 p s = (r, true)) ∧ (c = p.chan.toNat) ∧ (u = inc (trnCtr h 1) r) ∧ ((chanOf u h c).cached = true) ∧ (v = viewOf m u) ∧ (w = (takeCore h c (meetCtx h c u)).1) ∧ (x = chanOf w h c) ∧ (p.inc = x.inc) ∧ (p.src = x.peer) ∧ (x.unrel = false) ∧ (x.st ≠ .error) ∧ (d = (p.psn - x.expect).toNat) ∧ (d < 2048) ∧ (executedAt x d = false) ∧ (x.busy.any (fun q => q.psn == p.psn) = false) ∧ (heldBack x d p = false) ∧ ((if d = 0 ∨ x.window then (w, true) else freeSlots (boleOf h) (objKey 24 h c) 1 w) = (y, true)) ∧ (aliveOk x d p = true) ∧ (z = chanOf y h c) ∧ (envBad y h p = false) ∧ (checkOk z p = true) ∧ (isHead p = true) ∧ (msgAt z p.psn (enMsn p) = none) ∧ (q = inc (mtcCtr h 0) (updHost h (fun q => { q with relSeq := q.relSeq + 1 }) (meetMatch h y))) ∧ (o = chanOf (meetMatch h y) h c) ∧ ((hport q h).lost = false) ∧ (mtcOn q h = true) ∧ ((postedAt q h).find? (fun r => fits r o.fn o.pd (enTag p) (enComm p) (enRank p)) = none) ∧ (unexpMax q h ≤ onChip q h) ∧ (tierRoom q h = false) ∧ quiet s (afterRx h c p v (.over, discardBehind h c p (sendAck h c p.psn 2 0 (mtcCause h 1 (inc (mtcCtr h 7) q))))) = true := by decide +kernel

set_option maxRecDepth 100000 in
theorem wit_ArrivalOfMessages_16 :
    let h : Nat := 1; let p : Packet := sealPkt { dest := 1, src := 5, cls := 0, mode := 0, lenCells := 0, ptype := 0x21, extMask := 9, ext := [0x100, 0x40000000, 0x300, 0, 0x55, 0, 7, 3, 16777216, 12288, 0, 0], payload := [], psn := 0, chan := 2, inc := 6 }; let m : HostView := {}; let c : Nat := 2; let s : State := { sOn with hs.ports := [(1, { st := .up })], hs.wqs := [(objKey 20 1 0, { st := .active, priv := true, head := 1, tail := 1, order := [0] })], hs.cqs := [(objKey 20 1 0, { active := true })], hs.chans := [(objKey 24 1 2, { st := .active, peer := 5, peerCh := 3, inc := 6, check := 4, cached := true, used := 1, t0 := 4, limit := 4, relaxed := true })], hs.bar := [(hostKey 1 0 0x20008, 0x100104), (hostKey 1 0 0x40010, 4), (hostKey 1 0 0x30000, 0x801), (hostKey 1 0 0x30008, 0), (hostKey 1 0 0x3000C, 0), (hostKey 1 0 0x30010, 0x20000), (hostKey 1 0 0x30018, 0x21)], hs.mrCache := [(objKey 24 1 3, [0x9F, 0, 0, 0, 0x10000, 0, 0, 0, 0, 0, 0, 0, 0, 0, 0, 0])] }; let r : State := (arrived 1 33 p s).1; let u : State := inc (trnCtr h 1) r; let w : State := (takeCore h c (meetCtx h c u)).1; let x : Chan := chanOf w h c; let v : View := viewOf m u; let d : Nat := (p.psn - x.expect).toNat; let y : State := w; let z : Chan := x; let q : State := inc (mtcCtr h 0) (updHost h (fun q => { q with relSeq := q.relSeq + 1 }) (meetMatch h y)); let o : Chan := chanOf (meetMatch h y) h c
    (arrived h 0x21 p s = (r, true)) ∧ (c = p.chan.toNat) ∧ (u = inc (trnCtr h 1) r) ∧ ((chanOf u h c).cached = true) ∧ (v = viewOf m u) ∧ (w = (takeCore h c (meetCtx h c u)).1) ∧ (x = chanOf w h c) ∧ (p.inc = x.inc) ∧ (p.src = x.peer) ∧ (x.unrel = false) ∧ (x.st ≠ .error) ∧ (d = (p.psn - x.expect).toNat) ∧ (d < 2048) ∧ (executedAt x d = false) ∧ (x.busy.any (fun q => q.psn == p.psn) = false) ∧ (heldBack x d p = false) ∧ ((if d = 0 ∨ x.window then (w, true) else freeSlots (boleOf h) (objKey 24 h c) 1 w) = (y, true)) ∧ (aliveOk x d p = true) ∧ (z = chanOf y h c) ∧ (envBad y h p = false) ∧ (checkOk z p = true) ∧ (isHead p = true) ∧ (msgAt z p.psn (enMsn p) = none) ∧ (q = inc (mtcCtr h 0) (updHost h (fun q => { q with relSeq := q.relSeq + 1 }) (meetMatch h y))) ∧ (o = chanOf (meetMatch h y) h c) ∧ ((hport q h).lost = false) ∧ (mtcOn q h = true) ∧ ((postedAt q h).find? (fun r => fits r o.fn o.pd (enTag p) (enComm p) (enRank p)) = none) ∧ (unexpMax q h ≤ onChip q h) ∧ (tierRoom q h = false) ∧ quiet s (afterRx h c p v (.over, discardBehind h c p (sendAck h c p.psn 2 0 (mtcCause h 1 (inc (mtcCtr h 7) q))))) = true := by decide +kernel

set_option maxRecDepth 100000 in
theorem wit_ArrivalOfMessages_17 :
    let h : Nat := 1; let p : Packet := sealPkt { dest := 1, src := 5, cls := 0, mode := 0, lenCells := 0, ptype := 0x20, extMask := 8, ext := [0x55, 0, 7, 3, 16777216, 4, 0, 0], payload := [1, 2, 3, 4], psn := 0, chan := 2, inc := 6 }; let m : HostView := {}; let c : Nat := 2; let s : State := { sOn with hs.ports := [(1, { st := .up })], hs.wqs := [(objKey 20 1 0, { st := .active, priv := true, head := 1, tail := 1, order := [0] })], hs.cqs := [(objKey 20 1 0, { active := true })], hs.chans := [(objKey 24 1 2, { st := .active, peer := 5, peerCh := 3, inc := 6, check := 4, cached := true, used := 1, t0 := 4, limit := 4, relaxed := true })], hs.bar := [(hostKey 1 0 0x20008, 0x100104), (hostKey 1 0 0x40010, 4), (hostKey 1 0 0x30000, 0x801), (hostKey 1 0 0x30010, 0x20000), (hostKey 1 0 0x30018, 0)], hs.mrCache := [(objKey 24 1 3, [0x9F, 0, 0, 0, 0x10000, 0, 0, 0, 0, 0, 0, 0, 0, 0, 0, 0])] }; let r : State := (arrived 1 32 p s).1; let u : State := inc (trnCtr h 1) r; let w : State := (takeCore h c (meetCtx h c u)).1; let x : Chan := chanOf w h c; let v : View := viewOf m u; let d : Nat := (p.psn - x.expect).toNat; let y : State := w; let z : Chan := x; let q : State := inc (mtcCtr h 0) (updHost h (fun q => { q with relSeq := q.relSeq + 1 }) (meetMatch h y)); let o : Chan := chanOf (meetMatch h y) h c
    (arrived h 0x20 p s = (r, true)) ∧ (c = p.chan.toNat) ∧ (u = inc (trnCtr h 1) r) ∧ ((chanOf u h c).cached = true) ∧ (v = viewOf m u) ∧ (w = (takeCore h c (meetCtx h c u)).1) ∧ (x = chanOf w h c) ∧ (p.inc = x.inc) ∧ (p.src = x.peer) ∧ (x.unrel = false) ∧ (x.st ≠ .error) ∧ (d = (p.psn - x.expect).toNat) ∧ (d < 2048) ∧ (executedAt x d = false) ∧ (x.busy.any (fun q => q.psn == p.psn) = false) ∧ (heldBack x d p = false) ∧ ((if d = 0 ∨ x.window then (w, true) else freeSlots (boleOf h) (objKey 24 h c) 1 w) = (y, true)) ∧ (aliveOk x d p = true) ∧ (z = chanOf y h c) ∧ (envBad y h p = false) ∧ (checkOk z p = true) ∧ (isHead p = true) ∧ (msgAt z p.psn (enMsn p) = none) ∧ (q = inc (mtcCtr h 0) (updHost h (fun q => { q with relSeq := q.relSeq + 1 }) (meetMatch h y))) ∧ (o = chanOf (meetMatch h y) h c) ∧ ((hport q h).lost = false) ∧ (mtcOn q h = true) ∧ ((postedAt q h).find? (fun r => fits r o.fn o.pd (enTag p) (enComm p) (enRank p)) = none) ∧ (onChip q h < unexpMax q h ∨ tierRoom q h = true) ∧ (enLen p ≠ 0) ∧ (pickSlot q h = none) ∧ quiet s (afterRx h c p v (.over, discardBehind h c p (sendAck h c p.psn 2 0 (mtcCause h 1 (inc (mtcCtr h 7) (inc (mtcCtr h 8) q)))))) = true := by decide +kernel

set_option maxRecDepth 100000 in
theorem wit_ArrivalOfMessages_18 :
    let h : Nat := 1; let p : Packet := sealPkt { dest := 1, src := 5, cls := 0, mode := 0, lenCells := 0, ptype := 0x21, extMask := 9, ext := [0x100, 0x40000000, 0x300, 0, 0x55, 0, 7, 3, 16777216, 12288, 0, 0], payload := [], psn := 0, chan := 2, inc := 6 }; let m : HostView := {}; let c : Nat := 2; let s : State := { sOn with hs.ports := [(1, { st := .up, lost := true })], hs.wqs := [(objKey 20 1 0, { st := .active, priv := true, head := 1, tail := 1, order := [0] })], hs.cqs := [(objKey 20 1 0, { active := true })], hs.chans := [(objKey 24 1 2, { st := .active, peer := 5, peerCh := 3, inc := 6, check := 4, cached := true, used := 1, t0 := 4, limit := 4, relaxed := true })], hs.bar := [(hostKey 1 0 0x20008, 0x100104), (hostKey 1 0 0x40010, 4), (hostKey 1 0 0x30000, 0x801), (hostKey 1 0 0x30010, 0x20000), (hostKey 1 0 0x30018, 0x21)], hs.mrCache := [(objKey 24 1 3, [0x9F, 0, 0, 0, 0x10000, 0, 0, 0, 0, 0, 0, 0, 0, 0, 0, 0])] }; let r : State := (arrived 1 33 p s).1; let u : State := inc (trnCtr h 1) r; let w : State := (takeCore h c (meetCtx h c u)).1; let x : Chan := chanOf w h c; let v : View := viewOf m u; let d : Nat := (p.psn - x.expect).toNat; let y : State := w; let z : Chan := x; let q : State := inc (mtcCtr h 0) (updHost h (fun q => { q with relSeq := q.relSeq + 1 }) (meetMatch h y)); let o : Chan := chanOf (meetMatch h y) h c; let a : State := inc (mtcCtr h 12) q
    (arrived h 0x21 p s = (r, true)) ∧ (c = p.chan.toNat) ∧ (u = inc (trnCtr h 1) r) ∧ ((chanOf u h c).cached = true) ∧ (v = viewOf m u) ∧ (w = (takeCore h c (meetCtx h c u)).1) ∧ (x = chanOf w h c) ∧ (p.inc = x.inc) ∧ (p.src = x.peer) ∧ (x.unrel = false) ∧ (x.st ≠ .error) ∧ (d = (p.psn - x.expect).toNat) ∧ (d < 2048) ∧ (executedAt x d = false) ∧ (x.busy.any (fun q => q.psn == p.psn) = false) ∧ (heldBack x d p = false) ∧ ((if d = 0 ∨ x.window then (w, true) else freeSlots (boleOf h) (objKey 24 h c) 1 w) = (y, true)) ∧ (aliveOk x d p = true) ∧ (z = chanOf y h c) ∧ (envBad y h p = false) ∧ (checkOk z p = true) ∧ (isHead p = true) ∧ (msgAt z p.psn (enMsn p) = none) ∧ (q = inc (mtcCtr h 0) (updHost h (fun q => { q with relSeq := q.relSeq + 1 }) (meetMatch h y))) ∧ (o = chanOf (meetMatch h y) h c) ∧ ((hport q h).lost = true) ∧ (a = inc (mtcCtr h 12) q) ∧ quiet s (afterRx h c p v (.over, ackDue h c p (markDone h c d p (tellDiscarded h c (enTag p) (enComm p) (enRank p) (enMsn p) v (deliverAsd h p (cvuGood h o a)).1)))) = true := by decide +kernel

set_option maxRecDepth 100000 in
theorem wit_ArrivalOfMessages_19 :
    let h : Nat := 1; let p : Packet := sealPkt { dest := 1, src := 5, cls := 0, mode := 0, lenCells := 0, ptype := 0x20, extMask := 8, ext := [0x55, 0, 7, 3, 16777216, 4, 0, 0], payload := [1, 2, 3, 4], psn := 0, chan := 2, inc := 6 }; let m : HostView := {}; let c : Nat := 2; let s : State := { sOn with hs.ports := [(1, { st := .up, lost := true })], hs.wqs := [(objKey 20 1 0, { st := .active, priv := true, head := 1, tail := 1, order := [0] })], hs.cqs := [(objKey 20 1 0, { active := true })], hs.chans := [(objKey 24 1 2, { st := .active, peer := 5, peerCh := 3, inc := 6, check := 4, cached := true, used := 1, t0 := 4, limit := 4, relaxed := true })], hs.bar := [(hostKey 1 0 0x20008, 0x100104), (hostKey 1 0 0x40010, 4), (hostKey 1 0 0x30000, 0x801), (hostKey 1 0 0x30010, 0x20000), (hostKey 1 0 0x30018, 0x21)], hs.mrCache := [(objKey 24 1 3, [0x9F, 0, 0, 0, 0x10000, 0, 0, 0, 0, 0, 0, 0, 0, 0, 0, 0])] }; let r : State := (arrived 1 32 p s).1; let u : State := inc (trnCtr h 1) r; let w : State := (takeCore h c (meetCtx h c u)).1; let x : Chan := chanOf w h c; let v : View := viewOf m u; let d : Nat := (p.psn - x.expect).toNat; let y : State := w; let z : Chan := x; let q : State := inc (mtcCtr h 0) (updHost h (fun q => { q with relSeq := q.relSeq + 1 }) (meetMatch h y)); let o : Chan := chanOf (meetMatch h y) h c; let a : State := inc (mtcCtr h 12) q
    (arrived h 0x20 p s = (r, true)) ∧ (c = p.chan.toNat) ∧ (u = inc (trnCtr h 1) r) ∧ ((chanOf u h c).cached = true) ∧ (v = viewOf m u) ∧ (w = (takeCore h c (meetCtx h c u)).1) ∧ (x = chanOf w h c) ∧ (p.inc = x.inc) ∧ (p.src = x.peer) ∧ (x.unrel = false) ∧ (x.st ≠ .error) ∧ (d = (p.psn - x.expect).toNat) ∧ (d < 2048) ∧ (executedAt x d = false) ∧ (x.busy.any (fun q => q.psn == p.psn) = false) ∧ (heldBack x d p = false) ∧ ((if d = 0 ∨ x.window then (w, true) else freeSlots (boleOf h) (objKey 24 h c) 1 w) = (y, true)) ∧ (aliveOk x d p = true) ∧ (z = chanOf y h c) ∧ (envBad y h p = false) ∧ (checkOk z p = true) ∧ (isHead p = true) ∧ (msgAt z p.psn (enMsn p) = none) ∧ (q = inc (mtcCtr h 0) (updHost h (fun q => { q with relSeq := q.relSeq + 1 }) (meetMatch h y))) ∧ (o = chanOf (meetMatch h y) h c) ∧ ((hport q h).lost = true) ∧ (a = inc (mtcCtr h 12) q) ∧ quiet s (afterRx h c p v (.over, ackDue h c p (markDone h c d p (msgTook h c p.payload.length { head := p.psn, msn := enMsn p, dest := .gone, left := enLen p, len := enLen p, tag := enTag p, comm := enComm p, rank := enRank p, flags := flLate (deliverAsd h p (cvuGood h (chanOf a h c) a)).2 } v (deliverAsd h p (cvuGood h (chanOf a h c) a)).1)))) = true := by decide +kernel

set_option maxRecDepth 100000 in
theorem wit_ArrivalOfMessages_20 :
    let h : Nat := 1; let p : Packet := sealPkt { dest := 1, src := 5, cls := 0, mode := 0, lenCells := 0, ptype := 0x21, extMask := 9, ext := [0x100, 0x40000000, 0x300, 0, 0x55, 0, 7, 3, 16777216, 12288, 0, 0], payload := [], psn := 0, chan := 2, inc := 6 }; let m : HostView := {}; let c : Nat := 2; let r0 : Recv := { job := 1, seq := 0, fn := 0, pd := 0, tag := 0x55, mask := 0xFFFFFFFFFFFFFFFF, comm := 7, rank := 3, any := false, len := 8 }; let s : State := { sOn with hs.ports := [(1, { st := .up, jobs := [{ id := 1, h := 1, q := 0, idx := 0, ents := [[2162695, 0, 0, 0, 512, 0, 768, 8, 4294967295, 4294967295, 0, 85, 0, 7, 3, 2147483648]], begun := true, ready := true }], nextJob := 9 })], hs.wqs := [(objKey 20 1 0, { st := .active, priv := true, head := 1, tail := 1, order := [0] })], hs.cqs := [(objKey 20 1 0, { active := true })], hs.chans := [(objKey 24 1 2, { st := .active, peer := 5, peerCh := 3, inc := 6, check := 4, cached := true, used := 1, t0 := 4, limit := 4, relaxed := true })], hs.bar := [(hostKey 1 0 0x20008, 0x100104), (hostKey 1 0 0x40010, 4), (hostKey 1 0 0x30000, 0x801), (hostKey 1 0 0x30010, 0x20000), (hostKey 1 0 0x30018, 0x21)], hs.posted := [(1, [{ job := 1, seq := 0, fn := 0, pd := 0, tag := 0x55, mask := 0xFFFFFFFFFFFFFFFF, comm := 7, rank := 3, any := false, len := 8 }])], hs.mrCache := [(objKey 24 1 3, [0x9F, 0, 0, 0, 0x10000, 0, 0, 0, 0, 0, 0, 0, 0, 0, 0, 0])] }; let r : State := (arrived 1 33 p s).1; let u : State := inc (trnCtr h 1) r; let w : State := (takeCore h c (meetCtx h c u)).1; let x : Chan := chanOf w h c; let v : View := viewOf m u; let d : Nat := (p.psn - x.expect).toNat; let y : State := w; let z : Chan := x; let q : State := inc (mtcCtr h 0) (updHost h (fun q => { q with relSeq := q.relSeq + 1 }) (meetMatch h y)); let o : Chan := chanOf (meetMatch h y) h c; let a : State := inc (mtcCtr h 1) (setPosted h ((postedAt q h).filter (fun y => y.job ≠ r0.job)) q)
    (arrived h 0x21 p s = (r, true)) ∧ (c = p.chan.toNat) ∧ (u = inc (trnCtr h 1) r) ∧ ((chanOf u h c).cached = true) ∧ (v = viewOf m u) ∧ (w = (takeCore h c (meetCtx h c u)).1) ∧ (x = chanOf w h c) ∧ (p.inc = x.inc) ∧ (p.src = x.peer) ∧ (x.unrel = false) ∧ (x.st ≠ .error) ∧ (d = (p.psn - x.expect).toNat) ∧ (d < 2048) ∧ (executedAt x d = false) ∧ (x.busy.any (fun q => q.psn == p.psn) = false) ∧ (heldBack x d p = false) ∧ ((if d = 0 ∨ x.window then (w, true) else freeSlots (boleOf h) (objKey 24 h c) 1 w) = (y, true)) ∧ (aliveOk x d p = true) ∧ (z = chanOf y h c) ∧ (envBad y h p = false) ∧ (checkOk z p = true) ∧ (isHead p = true) ∧ (msgAt z p.psn (enMsn p) = none) ∧ (q = inc (mtcCtr h 0) (updHost h (fun q => { q with relSeq := q.relSeq + 1 }) (meetMatch h y))) ∧ (o = chanOf (meetMatch h y) h c) ∧ ((hport q h).lost = false) ∧ (mtcOn q h = true) ∧ ((postedAt q h).find? (fun r => fits r o.fn o.pd (enTag p) (enComm p) (enRank p)) = some r0) ∧ ((r0.len == 0 || o.st != .active) = false ∨ (jobOf q h r0.job).any (recvFull q h) = false) ∧ (a = inc (mtcCtr h 1) (setPosted h ((postedAt q h).filter (fun y => y.job ≠ r0.job)) q)) ∧ quiet s (afterRx h c p v (.over, ackDue h c p (markDone h c d p (fetchMsg h c { job := r0.job, orig := enMsn p, tag := enTag p, comm := enComm p, rank := enRank p, addr := violAddr p, key := Packet.extW p 0 2, len := min (enLen p) r0.len, msgLen := enLen p, left := min (enLen p) r0.len, unexp := false, late := (deliverAsd h p (cvuGood h o a)).2 } v (deliverAsd h p (cvuGood h o a)).1)))) = true := by decide +kernel

set_option maxRecDepth 100000 in
theorem wit_ArrivalOfMessages_21 :
    let h : Nat := 1; let p : Packet := sealPkt { dest := 1, src := 5, cls := 0, mode := 0, lenCells := 0, ptype := 0x21, extMask := 9, ext := [0x100, 0x40000000, 0x300, 0, 0x55, 0, 7, 3, 16777216, 12288, 0, 0], payload := [], psn := 0, chan := 2, inc := 6 }; let m : HostView := {}; let c : Nat := 2; let r0 : Recv := { job := 1, seq := 0, fn := 0, pd := 0, tag := 0x55, mask := 0xFFFFFFFFFFFFFFFF, comm := 7, rank := 3, any := false, len := 0 }; let s : State := { sOn with hs.ports := [(1, { st := .up, jobs := [{ id := 1, h := 1, q := 0, idx := 0, ents := [[2162695, 0, 0, 0, 512, 0, 768, 0, 4294967295, 4294967295, 0, 85, 0, 7, 3, 2147483648]], begun := true, ready := true }], nextJob := 9 })], hs.wqs := [(objKey 20 1 0, { st := .active, priv := true, head := 1, tail := 1, order := [0] })], hs.cqs := [(objKey 20 1 0, { active := true, log := 4, written := 16 })], hs.chans := [(objKey 24 1 2, { st := .active, peer := 5, peerCh := 3, inc := 6, check := 4, cached := true, used := 1, t0 := 4, limit := 4, relaxed := true })], hs.bar := [(hostKey 1 0 0x20008, 0x100104), (hostKey 1 0 0x40010, 4), (hostKey 1 0 0x30000, 0x801), (hostKey 1 0 0x30010, 0x20000), (hostKey 1 0 0x30018, 0x21)], hs.posted := [(1, [{ job := 1, seq := 0, fn := 0, pd := 0, tag := 0x55, mask := 0xFFFFFFFFFFFFFFFF, comm := 7, rank := 3, any := false, len := 0 }])], hs.mrCache := [(objKey 24 1 3, [0x9F, 0, 0, 0, 0x10000, 0, 0, 0, 0, 0, 0, 0, 0, 0, 0, 0])] }; let r : State := (arrived 1 33 p s).1; let u : State := inc (trnCtr h 1) r; let w : State := (takeCore h c (meetCtx h c u)).1; let x : Chan := chanOf w h c; let v : View := viewOf m u; let d : Nat := (p.psn - x.expect).toNat; let y : State := w; let z : Chan := x; let q : State := inc (mtcCtr h 0) (updHost h (fun q => { q with relSeq := q.relSeq + 1 }) (meetMatch h y)); let o : Chan := chanOf (meetMatch h y) h c
    (arrived h 0x21 p s = (r, true)) ∧ (c = p.chan.toNat) ∧ (u = inc (trnCtr h 1) r) ∧ ((chanOf u h c).cached = true) ∧ (v = viewOf m u) ∧ (w = (takeCore h c (meetCtx h c u)).1) ∧ (x = chanOf w h c) ∧ (p.inc = x.inc) ∧ (p.src = x.peer) ∧ (x.unrel = false) ∧ (x.st ≠ .error) ∧ (d = (p.psn - x.expect).toNat) ∧ (d < 2048) ∧ (executedAt x d = false) ∧ (x.busy.any (fun q => q.psn == p.psn) = false) ∧ (heldBack x d p = false) ∧ ((if d = 0 ∨ x.window then (w, true) else freeSlots (boleOf h) (objKey 24 h c) 1 w) = (y, true)) ∧ (aliveOk x d p = true) ∧ (z = chanOf y h c) ∧ (envBad y h p = false) ∧ (checkOk z p = true) ∧ (isHead p = true) ∧ (msgAt z p.psn (enMsn p) = none) ∧ (q = inc (mtcCtr h 0) (updHost h (fun q => { q with relSeq := q.relSeq + 1 }) (meetMatch h y))) ∧ (o = chanOf (meetMatch h y) h c) ∧ ((hport q h).lost = false) ∧ (mtcOn q h = true) ∧ ((postedAt q h).find? (fun r => fits r o.fn o.pd (enTag p) (enComm p) (enRank p)) = some r0) ∧ ((r0.len == 0 || o.st != .active) = true) ∧ ((jobOf q h r0.job).any (recvFull q h) = true) ∧ quiet s (afterRx h c p v (.over, sendAck h c p.psn 1 0 (meetMatch h y))) = true := by decide +kernel

set_option maxRecDepth 100000 in
theorem wit_ArrivalOfMessages_22 :
    let h : Nat := 1; let p : Packet := sealPkt { dest := 1, src := 5, cls := 0, mode := 0, lenCells := 0, ptype := 0x20, extMask := 8, ext := [0x55, 0, 7, 3, 16777216, 4, 0, 0], payload := [1, 2, 3, 4], psn := 0, chan := 2, inc := 6 }; let m : HostView := {}; let c : Nat := 2; let r0 : Recv := { job := 1, seq := 0, fn := 0, pd := 0, tag := 0x55, mask := 0xFFFFFFFFFFFFFFFF, comm := 7, rank := 3, any := false, len := 8 }; let s : State := { sOn with hs.ports := [(1, { st := .up, jobs := [{ id := 1, h := 1, q := 0, idx := 0, ents := [[2162695, 0, 0, 0, 512, 0, 768, 8, 4294967295, 4294967295, 0, 85, 0, 7, 3, 2147483648]], begun := true, ready := true }], nextJob := 9 })], hs.wqs := [(objKey 20 1 0, { st := .active, priv := true, head := 1, tail := 1, order := [0] })], hs.cqs := [(objKey 20 1 0, { active := true, log := 4, written := 16 })], hs.chans := [(objKey 24 1 2, { st := .active, peer := 5, peerCh := 3, inc := 6, check := 4, cached := true, used := 1, t0 := 4, limit := 4, relaxed := true })], hs.bar := [(hostKey 1 0 0x20008, 0x100104), (hostKey 1 0 0x40010, 4), (hostKey 1 0 0x30000, 0x801), (hostKey 1 0 0x30010, 0x20000), (hostKey 1 0 0x30018, 0x21)], hs.posted := [(1, [{ job := 1, seq := 0, fn := 0, pd := 0, tag := 0x55, mask := 0xFFFFFFFFFFFFFFFF, comm := 7, rank := 3, any := false, len := 8 }])], hs.mrCache := [(objKey 24 1 3, [0x9F, 0, 0, 0, 0x10000, 0, 0, 0, 0, 0, 0, 0, 0, 0, 0, 0])] }; let r : State := (arrived 1 32 p s).1; let u : State := inc (trnCtr h 1) r; let w : State := (takeCore h c (meetCtx h c u)).1; let x : Chan := chanOf w h c; let v : View := viewOf m u; let d : Nat := (p.psn - x.expect).toNat; let y : State := w; let z : Chan := x; let q : State := inc (mtcCtr h 0) (updHost h (fun q => { q with relSeq := q.relSeq + 1 }) (meetMatch h y)); let o : Chan := chanOf (meetMatch h y) h c
    (arrived h 0x20 p s = (r, true)) ∧ (c = p.chan.toNat) ∧ (u = inc (trnCtr h 1) r) ∧ ((chanOf u h c).cached = true) ∧ (v = viewOf m u) ∧ (w = (takeCore h c (meetCtx h c u)).1) ∧ (x = chanOf w h c) ∧ (p.inc = x.inc) ∧ (p.src = x.peer) ∧ (x.unrel = false) ∧ (x.st ≠ .error) ∧ (d = (p.psn - x.expect).toNat) ∧ (d < 2048) ∧ (executedAt x d = false) ∧ (x.busy.any (fun q => q.psn == p.psn) = false) ∧ (heldBack x d p = false) ∧ ((if d = 0 ∨ x.window then (w, true) else freeSlots (boleOf h) (objKey 24 h c) 1 w) = (y, true)) ∧ (aliveOk x d p = true) ∧ (z = chanOf y h c) ∧ (envBad y h p = false) ∧ (checkOk z p = true) ∧ (isHead p = true) ∧ (msgAt z p.psn (enMsn p) = none) ∧ (q = inc (mtcCtr h 0) (updHost h (fun q => { q with relSeq := q.relSeq + 1 }) (meetMatch h y))) ∧ (o = chanOf (meetMatch h y) h c) ∧ ((hport q h).lost = false) ∧ (mtcOn q h = true) ∧ ((postedAt q h).find? (fun r => fits r o.fn o.pd (enTag p) (enComm p) (enRank p)) = some r0) ∧ ((enLen p == p.payload.length) = true) ∧ ((jobOf q h r0.job).any (recvFull q h) = true) ∧ quiet s (afterRx h c p v (.over, sendAck h c p.psn 1 0 (meetMatch h y))) = true := by decide +kernel

set_option maxRecDepth 100000 in
theorem wit_ArrivalOfMessages_23 :
    let h : Nat := 1; let p : Packet := sealPkt { dest := 1, src := 5, cls := 0, mode := 0, lenCells := 0, ptype := 0x20, extMask := 8, ext := [0x55, 0, 7, 3, 16777216, 4, 0, 0], payload := [1, 2, 3, 4], psn := 0, chan := 2, inc := 6 }; let m : HostView := {}; let c : Nat := 2; let r0 : Recv := { job := 1, seq := 0, fn := 0, pd := 0, tag := 0x55, mask := 0xFFFFFFFFFFFFFFFF, comm := 7, rank := 3, any := false, len := 8 }; let j : Job := { id := 1, h := 1, q := 0, idx := 0, ents := [[2162695, 0, 0, 0, 512, 0, 768, 8, 4294967295, 4294967295, 0, 85, 0, 7, 3, 2147483648]], begun := true, ready := true }; let s : State := { sOn with hs.ports := [(1, { st := .up, jobs := [{ id := 1, h := 1, q := 0, idx := 0, ents := [[2162695, 0, 0, 0, 512, 0, 768, 8, 4294967295, 4294967295, 0, 85, 0, 7, 3, 2147483648]], begun := true, ready := true }], nextJob := 9 })], hs.wqs := [(objKey 20 1 0, { st := .active, priv := true, head := 1, tail := 1, order := [0] })], hs.cqs := [(objKey 20 1 0, { active := true })], hs.chans := [(objKey 24 1 2, { st := .active, peer := 5, peerCh := 3, inc := 6, check := 4, cached := true, used := 1, t0 := 4, limit := 4, relaxed := true })], hs.bar := [(hostKey 1 0 0x20008, 0x100104), (hostKey 1 0 0x40010, 4), (hostKey 1 0 0x30000, 0x801), (hostKey 1 0 0x30010, 0x20000), (hostKey 1 0 0x30018, 0x21)], hs.posted := [(1, [{ job := 1, seq := 0, fn := 0, pd := 0, tag := 0x55, mask := 0xFFFFFFFFFFFFFFFF, comm := 7, rank := 3, any := false, len := 8 }])], hs.mrCache := [(objKey 24 1 3, [0x9F, 0, 0, 0, 0x10000, 0, 0, 0, 0, 0, 0, 0, 0, 0, 0, 0])] }; let r : State := (arrived 1 32 p s).1; let u : State := inc (trnCtr h 1) r; let w : State := (takeCore h c (meetCtx h c u)).1; let x : Chan := chanOf w h c; let v : View := viewOf m u; let d : Nat := (p.psn - x.expect).toNat; let y : State := w; let z : Chan := x; let q : State := inc (mtcCtr h 0) (updHost h (fun q => { q with relSeq := q.relSeq + 1 }) (meetMatch h y)); let o : Chan := chanOf (meetMatch h y) h c; let a : State := inc (mtcCtr h 1) (setPosted h ((postedAt q h).filter (fun y => y.job ≠ r0.job)) q); let b : State := (writeBy .eagerWrite h j (enOff p) (p.payload.take (lengthOfJob j - enOff p)) v a).2
    (arrived h 0x20 p s = (r, true)) ∧ (c = p.chan.toNat) ∧ (u = inc (trnCtr h 1) r) ∧ ((chanOf u h c).cached = true) ∧ (v = viewOf m u) ∧ (w = (takeCore h c (meetCtx h c u)).1) ∧ (x = chanOf w h c) ∧ (p.inc = x.inc) ∧ (p.src = x.peer) ∧ (x.unrel = false) ∧ (x.st ≠ .error) ∧ (d = (p.psn - x.expect).toNat) ∧ (d < 2048) ∧ (executedAt x d = false) ∧ (x.busy.any (fun q => q.psn == p.psn) = false) ∧ (heldBack x d p = false) ∧ ((if d = 0 ∨ x.window then (w, true) else freeSlots (boleOf h) (objKey 24 h c) 1 w) = (y, true)) ∧ (aliveOk x d p = true) ∧ (z = chanOf y h c) ∧ (envBad y h p = false) ∧ (checkOk z p = true) ∧ (isHead p = true) ∧ (msgAt z p.psn (enMsn p) = none) ∧ (q = inc (mtcCtr h 0) (updHost h (fun q => { q with relSeq := q.relSeq + 1 }) (meetMatch h y))) ∧ (o = chanOf (meetMatch h y) h c) ∧ ((hport q h).lost = false) ∧ (mtcOn q h = true) ∧ ((postedAt q h).find? (fun r => fits r o.fn o.pd (enTag p) (enComm p) (enRank p)) = some r0) ∧ (a = inc (mtcCtr h 1) (setPosted h ((postedAt q h).filter (fun y => y.job ≠ r0.job)) q)) ∧ (jobOf a h r0.job = some j) ∧ (recvFull q h j = false ∨ enLen p ≠ p.payload.length) ∧ (writeBy .eagerWrite h j (enOff p) (p.payload.take (lengthOfJob j - enOff p)) v a = (.ok (), b)) ∧ quiet s (afterRx h c p v (.over, ackDue h c p (markDone h c d p (msgTook h c p.payload.length { head := p.psn, msn := enMsn p, dest := .recv r0.job, left := enLen p, len := enLen p, tag := enTag p, comm := enComm p, rank := enRank p, flags := flLate (deliverAsd h p (cvuGood h (chanOf b h c) b)).2 } v (deliverAsd h p (cvuGood h (chanOf b h c) b)).1)))) = true := by decide +kernel

set_option maxRecDepth 100000 in
theorem wit_ArrivalOfMessages_24 :
    let h : Nat := 1; let p : Packet := sealPkt { dest := 1, src := 5, cls := 0, mode := 0, lenCells := 0, ptype := 0x20, extMask := 8, ext := [0x55, 0, 7, 3, 16777216, 4, 0, 0], payload := [1, 2, 3, 4], psn := 0, chan := 2, inc := 6 }; let m : HostView := {}; let c : Nat := 2; let r0 : Recv := { job := 1, seq := 0, fn := 0, pd := 0, tag := 0x55, mask := 0xFFFFFFFFFFFFFFFF, comm := 7, rank := 3, any := false, len := 8 }; let j : Job := { id := 1, h := 1, q := 0, idx := 0, ents := [[2162695, 0, 0, 0, 512, 0, 20480, 8, 4294967295, 4294967295, 0, 85, 0, 7, 3, 2147483648]], begun := true, ready := true }; let k : Nat := 1; let s : State := { sOn with hs.ports := [(1, { st := .up, jobs := [{ id := 1, h := 1, q := 0, idx := 0, ents := [[2162695, 0, 0, 0, 512, 0, 20480, 8, 4294967295, 4294967295, 0, 85, 0, 7, 3, 2147483648]], begun := true, ready := true }], nextJob := 9 })], hs.wqs := [(objKey 20 1 0, { st := .active, priv := true, head := 1, tail := 1, order := [0] })], hs.cqs := [(objKey 20 1 0, { active := true })], hs.chans := [(objKey 24 1 2, { st := .active, peer := 5, peerCh := 3, inc := 6, check := 4, cached := true, used := 1, t0 := 4, limit := 4, relaxed := true })], hs.bar := [(hostKey 1 0 0x20008, 0x100104), (hostKey 1 0 0x40010, 4), (hostKey 1 0 0x30000, 0x801), (hostKey 1 0 0x30010, 0x20000), (hostKey 1 0 0x30018, 0x21)], hs.posted := [(1, [{ job := 1, seq := 0, fn := 0, pd := 0, tag := 0x55, mask := 0xFFFFFFFFFFFFFFFF, comm := 7, rank := 3, any := false, len := 8 }])], hs.mrCache := [(objKey 24 1 3, [0x9F, 0, 0, 0, 0x10000, 0, 0, 0, 0, 0, 0, 0, 0, 0, 0, 0])] }; let r : State := (arrived 1 32 p s).1; let u : State := inc (trnCtr h 1) r; let w : State := (takeCore h c (meetCtx h c u)).1; let x : Chan := chanOf w h c; let v : View := viewOf m u; let d : Nat := (p.psn - x.expect).toNat; let y : State := w; let z : Chan := x; let q : State := inc (mtcCtr h 0) (updHost h (fun q => { q with relSeq := q.relSeq + 1 }) (meetMatch h y)); let o : Chan := chanOf (meetMatch h y) h c; let a : State := inc (mtcCtr h 1) (setPosted h ((postedAt q h).filter (fun y => y.job ≠ r0.job)) q); let b : State := (writeBy .eagerWrite h j (enOff p) (p.payload.take (lengthOfJob j - enOff p)) v a).2
    (arrived h 0x20 p s = (r, true)) ∧ (c = p.chan.toNat) ∧ (u = inc (trnCtr h 1) r) ∧ ((chanOf u h c).cached = true) ∧ (v = viewOf m u) ∧ (w = (takeCore h c (meetCtx h c u)).1) ∧ (x = chanOf w h c) ∧ (p.inc = x.inc) ∧ (p.src = x.peer) ∧ (x.unrel = false) ∧ (x.st ≠ .error) ∧ (d = (p.psn - x.expect).toNat) ∧ (d < 2048) ∧ (executedAt x d = false) ∧ (x.busy.any (fun q => q.psn == p.psn) = false) ∧ (heldBack x d p = false) ∧ ((if d = 0 ∨ x.window then (w, true) else freeSlots (boleOf h) (objKey 24 h c) 1 w) = (y, true)) ∧ (aliveOk x d p = true) ∧ (z = chanOf y h c) ∧ (envBad y h p = false) ∧ (checkOk z p = true) ∧ (isHead p = true) ∧ (msgAt z p.psn (enMsn p) = none) ∧ (q = inc (mtcCtr h 0) (updHost h (fun q => { q with relSeq := q.relSeq + 1 }) (meetMatch h y))) ∧ (o = chanOf (meetMatch h y) h c) ∧ ((hport q h).lost = false) ∧ (mtcOn q h = true) ∧ ((postedAt q h).find? (fun r => fits r o.fn o.pd (enTag p) (enComm p) (enRank p)) = some r0) ∧ (a = inc (mtcCtr h 1) (setPosted h ((postedAt q h).filter (fun y => y.job ≠ r0.job)) q)) ∧ (jobOf a h r0.job = some j) ∧ (recvFull q h j = false) ∧ (writeBy .eagerWrite h j (enOff p) (p.payload.take (lengthOfJob j - enOff p)) v a = (.fail k, b)) ∧ quiet s (afterRx h c p v (.over, ackDue h c p (markDone h c d p (msgTook h c p.payload.length { head := p.psn, msn := enMsn p, dest := .gone, left := enLen p, len := enLen p, tag := enTag p, comm := enComm p, rank := enRank p, flags := flLate false } v (failRecv h r0.job (if k = 12 ∨ k = 13 then 0x48 else 0x11) 0 k (flLate (deliverAsd h p (cvuGood h (chanOf b h c) b)).2) (deliverAsd h p (cvuGood h (chanOf b h c) b)).1))))) = true := by decide +kernel

set_option maxRecDepth 100000 in
theorem wit_ArrivalOfMessages_25 :
    let h : Nat := 1; let p : Packet := sealPkt { dest := 1, src := 5, cls := 0, mode := 0, lenCells := 0, ptype := 0x21, extMask := 9, ext := [0x100, 0x40000000, 0x300, 0, 0x55, 0, 7, 3, 16777216, 12288, 0, 0], payload := [], psn := 0, chan := 2, inc := 6 }; let m : HostView := {}; let c : Nat := 2; let s : State := { sOn with hs.ports := [(1, { st := .up })], hs.wqs := [(objKey 20 1 0, { st := .active, priv := true, head := 1, tail := 1, order := [0] })], hs.cqs := [(objKey 20 1 0, { active := true })], hs.chans := [(objKey 24 1 2, { st := .active, peer := 5, peerCh := 3, inc := 6, check := 4, cached := true, used := 1, t0 := 4, limit := 4, relaxed := true })], hs.bar := [(hostKey 1 0 0x20008, 0x100104), (hostKey 1 0 0x40010, 4), (hostKey 1 0 0x30000, 0x801), (hostKey 1 0 0x30010, 0x20000), (hostKey 1 0 0x30018, 0x21)], hs.mrCache := [(objKey 24 1 3, [0x9F, 0, 0, 0, 0x10000, 0, 0, 0, 0, 0, 0, 0, 0, 0, 0, 0])] }; let r : State := (arrived 1 33 p s).1; let u : State := inc (trnCtr h 1) r; let w : State := (takeCore h c (meetCtx h c u)).1; let x : Chan := chanOf w h c; let v : View := viewOf m u; let d : Nat := (p.psn - x.expect).toNat; let y : State := w; let z : Chan := x; let q : State := inc (mtcCtr h 0) (updHost h (fun q => { q with relSeq := q.relSeq + 1 }) (meetMatch h y)); let o : Chan := chanOf (meetMatch h y) h c; let a : State := (if onChip q h < unexpMax q h then inc (mtcCtr h 2) q else if inTier q h = 0 then mtcCause h 0 (inc (mtcCtr h 3) (inc (mtcCtr h 2) q)) else inc (mtcCtr h 3) (inc (mtcCtr h 2) q)); let b : State := (deliverAsd h p (cvuGood h o a)).1
    (arrived h 0x21 p s = (r, true)) ∧ (c = p.chan.toNat) ∧ (u = inc (trnCtr h 1) r) ∧ ((chanOf u h c).cached = true) ∧ (v = viewOf m u) ∧ (w = (takeCore h c (meetCtx h c u)).1) ∧ (x = chanOf w h c) ∧ (p.inc = x.inc) ∧ (p.src = x.peer) ∧ (x.unrel = false) ∧ (x.st ≠ .error) ∧ (d = (p.psn - x.expect).toNat) ∧ (d < 2048) ∧ (executedAt x d = false) ∧ (x.busy.any (fun q => q.psn == p.psn) = false) ∧ (heldBack x d p = false) ∧ ((if d = 0 ∨ x.window then (w, true) else freeSlots (boleOf h) (objKey 24 h c) 1 w) = (y, true)) ∧ (aliveOk x d p = true) ∧ (z = chanOf y h c) ∧ (envBad y h p = false) ∧ (checkOk z p = true) ∧ (isHead p = true) ∧ (msgAt z p.psn (enMsn p) = none) ∧ (q = inc (mtcCtr h 0) (updHost h (fun q => { q with relSeq := q.relSeq + 1 }) (meetMatch h y))) ∧ (o = chanOf (meetMatch h y) h c) ∧ ((hport q h).lost = false) ∧ (mtcOn q h = true) ∧ ((postedAt q h).find? (fun r => fits r o.fn o.pd (enTag p) (enComm p) (enRank p)) = none) ∧ (onChip q h < unexpMax q h ∨ tierRoom q h = true) ∧ (a = (if onChip q h < unexpMax q h then inc (mtcCtr h 2) q else if inTier q h = 0 then mtcCause h 0 (inc (mtcCtr h 3) (inc (mtcCtr h 2) q)) else inc (mtcCtr h 3) (inc (mtcCtr h 2) q))) ∧ (b = (deliverAsd h p (cvuGood h o a)).1) ∧ quiet s (afterRx h c p v (.over, ackDue h c p (markDone h c d p (setUnexp h (unexpAt b h ++ [{ seq := (hport b h).relSeq, fn := o.fn, pd := o.pd, chan := c, msn := enMsn p, tag := enTag p, comm := enComm p, rank := enRank p, len := enLen p, tier := !decide (onChip q h < unexpMax q h), slot := none, late := (deliverAsd h p (cvuGood h o a)).2, rndv := some (violAddr p, Packet.extW p 0 2) }]) b)))) = true := by decide +kernel

set_option maxRecDepth 100000 in
theorem wit_ArrivalOfMessages_26 :
    let h : Nat := 1; let p : Packet := sealPkt { dest := 1, src := 5, cls := 0, mode := 0, lenCells := 0, ptype := 0x20, extMask := 8, ext := [0x55, 0, 7, 3, 16777216, 0, 0, 0], payload := [], psn := 0, chan := 2, inc := 6 }; let m : HostView := {}; let c : Nat := 2; let s : State := { sOn with hs.ports := [(1, { st := .up })], hs.wqs := [(objKey 20 1 0, { st := .active, priv := true, head := 1, tail := 1, order := [0] })], hs.cqs := [(objKey 20 1 0, { active := true })], hs.chans := [(objKey 24 1 2, { st := .active, peer := 5, peerCh := 3, inc := 6, check := 4, cached := true, used := 1, t0 := 4, limit := 4, relaxed := true })], hs.bar := [(hostKey 1 0 0x20008, 0x100104), (hostKey 1 0 0x40010, 4), (hostKey 1 0 0x30000, 0x801), (hostKey 1 0 0x30010, 0x20000), (hostKey 1 0 0x30018, 0x21)], hs.mrCache := [(objKey 24 1 3, [0x9F, 0, 0, 0, 0x10000, 0, 0, 0, 0, 0, 0, 0, 0, 0, 0, 0])] }; let r : State := (arrived 1 32 p s).1; let u : State := inc (trnCtr h 1) r; let w : State := (takeCore h c (meetCtx h c u)).1; let x : Chan := chanOf w h c; let v : View := viewOf m u; let d : Nat := (p.psn - x.expect).toNat; let y : State := w; let z : Chan := x; let q : State := inc (mtcCtr h 0) (updHost h (fun q => { q with relSeq := q.relSeq + 1 }) (meetMatch h y)); let o : Chan := chanOf (meetMatch h y) h c; let a : State := (if onChip q h < unexpMax q h then inc (mtcCtr h 2) q else if inTier q h = 0 then mtcCause h 0 (inc (mtcCtr h 3) (inc (mtcCtr h 2) q)) else inc (mtcCtr h 3) (inc (mtcCtr h 2) q)); let b : State := (deliverAsd h p (cvuGood h o a)).1
    (arrived h 0x20 p s = (r, true)) ∧ (c = p.chan.toNat) ∧ (u = inc (trnCtr h 1) r) ∧ ((chanOf u h c).cached = true) ∧ (v = viewOf m u) ∧ (w = (takeCore h c (meetCtx h c u)).1) ∧ (x = chanOf w h c) ∧ (p.inc = x.inc) ∧ (p.src = x.peer) ∧ (x.unrel = false) ∧ (x.st ≠ .error) ∧ (d = (p.psn - x.expect).toNat) ∧ (d < 2048) ∧ (executedAt x d = false) ∧ (x.busy.any (fun q => q.psn == p.psn) = false) ∧ (heldBack x d p = false) ∧ ((if d = 0 ∨ x.window then (w, true) else freeSlots (boleOf h) (objKey 24 h c) 1 w) = (y, true)) ∧ (aliveOk x d p = true) ∧ (z = chanOf y h c) ∧ (envBad y h p = false) ∧ (checkOk z p = true) ∧ (isHead p = true) ∧ (msgAt z p.psn (enMsn p) = none) ∧ (q = inc (mtcCtr h 0) (updHost h (fun q => { q with relSeq := q.relSeq + 1 }) (meetMatch h y))) ∧ (o = chanOf (meetMatch h y) h c) ∧ ((hport q h).lost = false) ∧ (mtcOn q h = true) ∧ ((postedAt q h).find? (fun r => fits r o.fn o.pd (enTag p) (enComm p) (enRank p)) = none) ∧ (onChip q h < unexpMax q h ∨ tierRoom q h = true) ∧ (a = (if onChip q h < unexpMax q h then inc (mtcCtr h 2) q else if inTier q h = 0 then mtcCause h 0 (inc (mtcCtr h 3) (inc (mtcCtr h 2) q)) else inc (mtcCtr h 3) (inc (mtcCtr h 2) q))) ∧ (b = (deliverAsd h p (cvuGood h o a)).1) ∧ (enLen p = 0) ∧ quiet s (afterRx h c p v (.over, ackDue h c p (markDone h c d p (setUnexp h (unexpAt b h ++ [{ seq := (hport b h).relSeq, fn := o.fn, pd := o.pd, chan := c, msn := enMsn p, tag := enTag p, comm := enComm p, rank := enRank p, len := enLen p, tier := !decide (onChip q h < unexpMax q h), slot := none, late := (deliverAsd h p (cvuGood h o a)).2, rndv := none }]) b)))) = true := by decide +kernel

set_option maxRecDepth 100000 in
theorem wit_ArrivalOfMessages_27 :
    let h : Nat := 1; let p : Packet := sealPkt { dest := 1, src := 5, cls := 0, mode := 0, lenCells := 0, ptype := 0x20, extMask := 8, ext := [0x55, 0, 7, 3, 16777216, 4, 0, 0], payload := [1, 2, 3, 4], psn := 0, chan := 2, inc := 6 }; let m : HostView := {}; let c : Nat := 2; let k : Nat := 0; let s : State := { sOn with hs.ports := [(1, { st := .up })], hs.wqs := [(objKey 20 1 0, { st := .active, priv := true, head := 1, tail := 1, order := [0] })], hs.cqs := [(objKey 20 1 0, { active := true })], hs.chans := [(objKey 24 1 2, { st := .active, peer := 5, peerCh := 3, inc := 6, check := 4, cached := true, used := 1, t0 := 4, limit := 4, relaxed := true })], hs.bar := [(hostKey 1 0 0x20008, 0x100104), (hostKey 1 0 0x40010, 4), (hostKey 1 0 0x30000, 0x801), (hostKey 1 0 0x30010, 0x20000), (hostKey 1 0 0x30018, 0x21)], hs.mrCache := [(objKey 24 1 3, [0x9F, 0, 0, 0, 0x10000, 0, 0, 0, 0, 0, 0, 0, 0, 0, 0, 0])] }; let r : State := (arrived 1 32 p s).1; let u : State := inc (trnCtr h 1) r; let w : State := (takeCore h c (meetCtx h c u)).1; let x : Chan := chanOf w h c; let v : View := viewOf m u; let d : Nat := (p.psn - x.expect).toNat; let y : State := w; let z : Chan := x; let q : State := inc (mtcCtr h 0) (updHost h (fun q => { q with relSeq := q.relSeq + 1 }) (meetMatch h y)); let o : Chan := chanOf (meetMatch h y) h c; let b : State := (if onChip q h < unexpMax q h then inc (mtcCtr h 2) q else if inTier q h = 0 then mtcCause h 0 (inc (mtcCtr h 3) (inc (mtcCtr h 2) q)) else inc (mtcCtr h 3) (inc (mtcCtr h 2) q)); let g : State := updHost h (fun q => { q with slots := k :: q.slots }) (setUnexp h (unexpAt b h ++ [{ seq := (hport b h).relSeq, fn := o.fn, pd := o.pd, chan := c, msn := enMsn p, tag := enTag p, comm := enComm p, rank := enRank p, len := enLen p, tier := !decide (onChip q h < unexpMax q h), slot := some k, late := false, rndv := none }]) b); let f : State := wrBus h 0 true (bounceAddr g h k + enOff p) p.payload g
    (arrived h 0x20 p s = (r, true)) ∧ (c = p.chan.toNat) ∧ (u = inc (trnCtr h 1) r) ∧ ((chanOf u h c).cached = true) ∧ (v = viewOf m u) ∧ (w = (takeCore h c (meetCtx h c u)).1) ∧ (x = chanOf w h c) ∧ (p.inc = x.inc) ∧ (p.src = x.peer) ∧ (x.unrel = false) ∧ (x.st ≠ .error) ∧ (d = (p.psn - x.expect).toNat) ∧ (d < 2048) ∧ (executedAt x d = false) ∧ (x.busy.any (fun q => q.psn == p.psn) = false) ∧ (heldBack x d p = false) ∧ ((if d = 0 ∨ x.window then (w, true) else freeSlots (boleOf h) (objKey 24 h c) 1 w) = (y, true)) ∧ (aliveOk x d p = true) ∧ (z = chanOf y h c) ∧ (envBad y h p = false) ∧ (checkOk z p = true) ∧ (isHead p = true) ∧ (msgAt z p.psn (enMsn p) = none) ∧ (q = inc (mtcCtr h 0) (updHost h (fun q => { q with relSeq := q.relSeq + 1 }) (meetMatch h y))) ∧ (o = chanOf (meetMatch h y) h c) ∧ ((hport q h).lost = false) ∧ (mtcOn q h = true) ∧ ((postedAt q h).find? (fun r => fits r o.fn o.pd (enTag p) (enComm p) (enRank p)) = none) ∧ (onChip q h < unexpMax q h ∨ tierRoom q h = true) ∧ (enLen p ≠ 0) ∧ (pickSlot q h = some k) ∧ (b = (if onChip q h < unexpMax q h then inc (mtcCtr h 2) q else if inTier q h = 0 then mtcCause h 0 (inc (mtcCtr h 3) (inc (mtcCtr h 2) q)) else inc (mtcCtr h 3) (inc (mtcCtr h 2) q))) ∧ (g = updHost h (fun q => { q with slots := k :: q.slots }) (setUnexp h (unexpAt b h ++ [{ seq := (hport b h).relSeq, fn := o.fn, pd := o.pd, chan := c, msn := enMsn p, tag := enTag p, comm := enComm p, rank := enRank p, len := enLen p, tier := !decide (onChip q h < unexpMax q h), slot := some k, late := false, rndv := none }]) b)) ∧ (f = wrBus h 0 true (bounceAddr g h k + enOff p) p.payload g) ∧ quiet s (afterRx h c p v (.over, ackDue h c p (markDone h c d p (msgTook h c p.payload.length { head := p.psn, msn := enMsn p, dest := .slot k, left := enLen p, len := enLen p, tag := enTag p, comm := enComm p, rank := enRank p, flags := flLate (deliverAsd h p (cvuGood h (chanOf f h c) f)).2 } v (deliverAsd h p (cvuGood h (chanOf f h c) f)).1)))) = true := by decide +kernel

set_option maxRecDepth 100000 in
theorem wit_ArrivalOfMessages_28 :
    let h : Nat := 1; let p : Packet := sealPkt { dest := 1, src := 5, cls := 0, mode := 0, lenCells := 0, ptype := 0x20, extMask := 8, ext := [0x55, 0, 7, 3, 16777216, 4100, 4096, 0], payload := [1, 2, 3, 4], psn := 1, chan := 2, inc := 6 }; let m : HostView := {}; let c : Nat := 2; let s : State := { sOn with hs.ports := [(1, { st := .up })], hs.wqs := [(objKey 20 1 0, { st := .active, priv := true, head := 1, tail := 1, order := [0] })], hs.cqs := [(objKey 20 1 0, { active := true })], hs.chans := [(objKey 24 1 2, { st := .active, peer := 5, peerCh := 3, inc := 6, check := 4, cached := true, used := 1, t0 := 4, limit := 4, relaxed := true, expect := 1 })], hs.bar := [(hostKey 1 0 0x20008, 0x100104), (hostKey 1 0 0x40010, 4), (hostKey 1 0 0x30000, 0x801), (hostKey 1 0 0x30010, 0x20000), (hostKey 1 0 0x30018, 0x21)], hs.mrCache := [(objKey 24 1 3, [0x9F, 0, 0, 0, 0x10000, 0, 0, 0, 0, 0, 0, 0, 0, 0, 0, 0])] }; let r : State := (arrived 1 32 p s).1; let u : State := inc (trnCtr h 1) r; let w : State := (takeCore h c (meetCtx h c u)).1; let x : Chan := chanOf w h c; let v : View := viewOf m u; let d : Nat := (p.psn - x.expect).toNat; let y : State := w; let z : Chan := x
    (arrived h 0x20 p s = (r, true)) ∧ (c = p.chan.toNat) ∧ (u = inc (trnCtr h 1) r) ∧ ((chanOf u h c).cached = true) ∧ (v = viewOf m u) ∧ (w = (takeCore h c (meetCtx h c u)).1) ∧ (x = chanOf w h c) ∧ (p.inc = x.inc) ∧ (p.src = x.peer) ∧ (x.unrel = false) ∧ (x.st ≠ .error) ∧ (d = (p.psn - x.expect).toNat) ∧ (d < 2048) ∧ (executedAt x d = false) ∧ (x.busy.any (fun q => q.psn == p.psn) = false) ∧ (heldBack x d p = false) ∧ ((if d = 0 ∨ x.window then (w, true) else freeSlots (boleOf h) (objKey 24 h c) 1 w) = (y, true)) ∧ (aliveOk x d p = true) ∧ (z = chanOf y h c) ∧ (envBad y h p = false) ∧ (checkOk z p = true) ∧ (isHead p = false) ∧ (msgAt z (headPsn p) (enMsn p) = none) ∧ quiet s (afterRx h c p v (.over, sendAck h c p.psn 0x12 0 (mtcCause h 3 (inc (mtcCtr h 11) y)))) = true := by decide +kernel

set_option maxRecDepth 100000 in
theorem wit_ArrivalOfMessages_29 :
    let h : Nat := 1; let p : Packet := sealPkt { dest := 1, src := 5, cls := 0, mode := 0, lenCells := 0, ptype := 0x20, extMask := 8, ext := [0x55, 0, 7, 3, 16777216, 4100, 4096, 0], payload := [1, 2, 3, 4], psn := 1, chan := 2, inc := 6 }; let m : HostView := {}; let c : Nat := 2; let g : MsgRx := { head := 0, msn := 0, dest := .slot 3, left := 4, len := 4100, tag := 0x55, comm := 7, rank := 3 }; let k : Nat := 3; let s : State := { sOn with hs.ports := [(1, { st := .up })], hs.wqs := [(objKey 20 1 0, { st := .active, priv := true, head := 1, tail := 1, order := [0] })], hs.cqs := [(objKey 20 1 0, { active := true })], hs.chans := [(objKey 24 1 2, { st := .active, peer := 5, peerCh := 3, inc := 6, check := 4, cached := true, used := 1, t0 := 4, limit := 4, relaxed := true, expect := 1, msgs := [{ head := 0, msn := 0, dest := .slot 3, left := 4, len := 4100, tag := 0x55, comm := 7, rank := 3 }] })], hs.bar := [(hostKey 1 0 0x20008, 0x100104), (hostKey 1 0 0x40010, 4), (hostKey 1 0 0x30000, 0x801), (hostKey 1 0 0x30010, 0x20000), (hostKey 1 0 0x30018, 0x21)], hs.mrCache := [(objKey 24 1 3, [0x9F, 0, 0, 0, 0x10000, 0, 0, 0, 0, 0, 0, 0, 0, 0, 0, 0])] }; let r : State := (arrived 1 32 p s).1; let u : State := inc (trnCtr h 1) r; let w : State := (takeCore h c (meetCtx h c u)).1; let x : Chan := chanOf w h c; let v : View := viewOf m u; let d : Nat := (p.psn - x.expect).toNat; let y : State := w; let z : Chan := x; let b : State := wrBus h 0 true (bounceAddr y h k + enOff p) p.payload y
    (arrived h 0x20 p s = (r, true)) ∧ (c = p.chan.toNat) ∧ (u = inc (trnCtr h 1) r) ∧ ((chanOf u h c).cached = true) ∧ (v = viewOf m u) ∧ (w = (takeCore h c (meetCtx h c u)).1) ∧ (x = chanOf w h c) ∧ (p.inc = x.inc) ∧ (p.src = x.peer) ∧ (x.unrel = false) ∧ (x.st ≠ .error) ∧ (d = (p.psn - x.expect).toNat) ∧ (d < 2048) ∧ (executedAt x d = false) ∧ (x.busy.any (fun q => q.psn == p.psn) = false) ∧ (heldBack x d p = false) ∧ ((if d = 0 ∨ x.window then (w, true) else freeSlots (boleOf h) (objKey 24 h c) 1 w) = (y, true)) ∧ (aliveOk x d p = true) ∧ (z = chanOf y h c) ∧ (envBad y h p = false) ∧ (checkOk z p = true) ∧ ((if isHead p then msgAt z p.psn (enMsn p) else msgAt z (headPsn p) (enMsn p)) = some g) ∧ (g.dest = .slot k) ∧ (b = wrBus h 0 true (bounceAddr y h k + enOff p) p.payload y) ∧ quiet s (afterRx h c p v (.over, ackDue h c p (markDone h c d p (msgTook h c p.payload.length { g with flags := g.flags ||| flLate (deliverAsd h p (cvuGood h (chanOf b h c) b)).2 } v (deliverAsd h p (cvuGood h (chanOf b h c) b)).1)))) = true := by decide +kernel

set_option maxRecDepth 100000 in
theorem wit_ArrivalOfMessages_30 :
    let h : Nat := 1; let p : Packet := sealPkt { dest := 1, src := 5, cls := 0, mode := 0, lenCells := 0, ptype := 0x20, extMask := 8, ext := [0x55, 0, 7, 3, 16777216, 4100, 4096, 0], payload := [1, 2, 3, 4], psn := 1, chan := 2, inc := 6 }; let m : HostView := {}; let c : Nat := 2; let g : MsgRx := { head := 0, msn := 0, dest := .recv 1, left := 4, len := 4100, tag := 0x55, comm := 7, rank := 3 }; let j : Job := { id := 1, h := 1, q := 0, idx := 0, ents := [[2162695, 0, 0, 0, 512, 0, 768, 8192, 4294967295, 4294967295, 0, 85, 0, 7, 3, 2147483648]], begun := true, ready := true }; let i : Nat := 1; let s : State := { sOn with hs.ports := [(1, { st := .up, jobs := [{ id := 1, h := 1, q := 0, idx := 0, ents := [[2162695, 0, 0, 0, 512, 0, 768, 8192, 4294967295, 4294967295, 0, 85, 0, 7, 3, 2147483648]], begun := true, ready := true }], nextJob := 9 })], hs.wqs := [(objKey 20 1 0, { st := .active, priv := true, head := 1, tail := 1, order := [0] })], hs.cqs := [(objKey 20 1 0, { active := true })], hs.chans := [(objKey 24 1 2, { st := .active, peer := 5, peerCh := 3, inc := 6, check := 4, cached := true, used := 1, t0 := 4, limit := 4, relaxed := true, expect := 1, msgs := [{ head := 0, msn := 0, dest := .recv 1, left := 4, len := 4100, tag := 0x55, comm := 7, rank := 3 }] })], hs.bar := [(hostKey 1 0 0x20008, 0x100104), (hostKey 1 0 0x40010, 4), (hostKey 1 0 0x30000, 0x801), (hostKey 1 0 0x30010, 0x20000), (hostKey 1 0 0x30018, 0x21)], hs.mrCache := [(objKey 24 1 3, [0x9F, 0, 0, 0, 0x10000, 0, 0, 0, 0, 0, 0, 0, 0, 0, 0, 0])] }; let r : State := (arrived 1 32 p s).1; let u : State := inc (trnCtr h 1) r; let w : State := (takeCore h c (meetCtx h c u)).1; let x : Chan := chanOf w h c; let v : View := viewOf m u; let d : Nat := (p.psn - x.expect).toNat; let y : State := w; let z : Chan := x; let b : State := (writeBy .eagerWrite h j (enOff p) (p.payload.take (lengthOfJob j - enOff p)) v y).2
    (arrived h 0x20 p s = (r, true)) ∧ (c = p.chan.toNat) ∧ (u = inc (trnCtr h 1) r) ∧ ((chanOf u h c).cached = true) ∧ (v = viewOf m u) ∧ (w = (takeCore h c (meetCtx h c u)).1) ∧ (x = chanOf w h c) ∧ (p.inc = x.inc) ∧ (p.src = x.peer) ∧ (x.unrel = false) ∧ (x.st ≠ .error) ∧ (d = (p.psn - x.expect).toNat) ∧ (d < 2048) ∧ (executedAt x d = false) ∧ (x.busy.any (fun q => q.psn == p.psn) = false) ∧ (heldBack x d p = false) ∧ ((if d = 0 ∨ x.window then (w, true) else freeSlots (boleOf h) (objKey 24 h c) 1 w) = (y, true)) ∧ (aliveOk x d p = true) ∧ (z = chanOf y h c) ∧ (envBad y h p = false) ∧ (checkOk z p = true) ∧ ((if isHead p then msgAt z p.psn (enMsn p) else msgAt z (headPsn p) (enMsn p)) = some g) ∧ (g.dest = .recv i) ∧ (jobOf y h i = some j) ∧ (recvFull y h j = false ∨ p.payload.length ≠ g.left) ∧ (writeBy .eagerWrite h j (enOff p) (p.payload.take (lengthOfJob j - enOff p)) v y = (.ok (), b)) ∧ quiet s (afterRx h c p v (.over, ackDue h c p (markDone h c d p (msgTook h c p.payload.length { g with flags := g.flags ||| flLate (deliverAsd h p (cvuGood h (chanOf b h c) b)).2 } v (deliverAsd h p (cvuGood h (chanOf b h c) b)).1)))) = true := by decide +kernel

set_option maxRecDepth 100000 in
theorem wit_ArrivalOfMessages_31 :
    let h : Nat := 1; let p : Packet := sealPkt { dest := 1, src := 5, cls := 0, mode := 0, lenCells := 0, ptype := 0x22, extMask := 8, ext := [0x55, 0, 7, 3, 16777216, 12288, 0, 9], payload := [], psn := 0, chan := 2, inc := 6 }; let m : HostView := {}; let c : Nat := 2; let j : Job := { id := 0, h := 1, q := 0, idx := 0, ents := [[2097159, 2, 0, 0, 512, 0, 768, 8, 0, 0, 0, 85, 0, 7, 3, 2147483648]], begun := true, ready := true, rndv := true, chan := 2, sent := 1, next := 1, msn := 9 }; let s : State := { sOn with hs.ports := [(1, { st := .up, jobs := [{ id := 0, h := 1, q := 0, idx := 0, ents := [[2097159, 2, 0, 0, 512, 0, 768, 8, 0, 0, 0, 85, 0, 7, 3, 2147483648]], begun := true, ready := true, rndv := true, chan := 2, sent := 1, next := 1, msn := 9 }], nextJob := 9 })], hs.wqs := [(objKey 20 1 0, { st := .active, priv := true, head := 1, tail := 1, order := [0] })], hs.cqs := [(objKey 20 1 0, { active := true })], hs.chans := [(objKey 24 1 2, { st := .active, peer := 5, peerCh := 3, inc := 6, check := 4, cached := true, used := 1, t0 := 4, limit := 4, relaxed := true })], hs.bar := [(hostKey 1 0 0x20008, 0x100104), (hostKey 1 0 0x40010, 4), (hostKey 1 0 0x30000, 0x801), (hostKey 1 0 0x30010, 0x20000), (hostKey 1 0 0x30018, 0x21)], hs.mrCache := [(objKey 24 1 3, [0x9F, 0, 0, 0, 0x10000, 0, 0, 0, 0, 0, 0, 0, 0, 0, 0, 0])] }; let r : State := (arrived 1 34 p s).1; let u : State := inc (trnCtr h 1) r; let w : State := (takeCore h c (meetCtx h c u)).1; let x : Chan := chanOf w h c; let v : View := viewOf m u; let d : Nat := (p.psn - x.expect).toNat; let y : State := w; let z : Chan := x; let b : State := (deliverAsd h p (cvuGood h z y)).1
    (arrived h 0x22 p s = (r, true)) ∧ (c = p.chan.toNat) ∧ (u = inc (trnCtr h 1) r) ∧ ((chanOf u h c).cached = true) ∧ (v = viewOf m u) ∧ (w = (takeCore h c (meetCtx h c u)).1) ∧ (x = chanOf w h c) ∧ (p.inc = x.inc) ∧ (p.src = x.peer) ∧ (x.unrel = false) ∧ (x.st ≠ .error) ∧ (d = (p.psn - x.expect).toNat) ∧ (d < 2048) ∧ (executedAt x d = false) ∧ (x.busy.any (fun q => q.psn == p.psn) = false) ∧ (heldBack x d p = false) ∧ ((if d = 0 ∨ x.window then (w, true) else freeSlots (boleOf h) (objKey 24 h c) 1 w) = (y, true)) ∧ (aliveOk x d p = true) ∧ (z = chanOf y h c) ∧ (envBad y h p = false) ∧ (checkOk z p = true) ∧ (b = (deliverAsd h p (cvuGood h z y)).1) ∧ ((hport b h).jobs.find? (fun j => j.rndv && j.chan == c && j.sent != 0 && j.msn == enOrig p) = some j) ∧ (bitW (Packet.extW p 3 4) 26 = false) ∧ quiet s (afterRx h c p v (.over, ackDue h c p (markDone h c d p (finishJob h { j with flags := j.flags ||| flTruncated (bitW (Packet.extW p 3 4) 25) } 0 (enLen p) 0 (updChan h c (fun x => { x with line := x.line.filter (· ≠ .job j.id) }) b))))) = true := by decide +kernel

set_option maxRecDepth 100000 in
theorem wit_ArrivalOfMessages_32 :
    let h : Nat := 1; let p : Packet := sealPkt { dest := 1, src := 5, cls := 0, mode := 0, lenCells := 0, ptype := 0x22, extMask := 8, ext := [0x55, 0, 7, 3, 83886080, 0, 0, 9], payload := [], psn := 0, chan := 2, inc := 6 }; let m : HostView := {}; let c : Nat := 2; let j : Job := { id := 0, h := 1, q := 0, idx := 0, ents := [[2097159, 2, 0, 0, 512, 0, 768, 8, 0, 0, 0, 85, 0, 7, 3, 2147483648]], begun := true, ready := true, rndv := true, chan := 2, sent := 1, next := 1, msn := 9 }; let s : State := { sOn with hs.ports := [(1, { st := .up, jobs := [{ id := 0, h := 1, q := 0, idx := 0, ents := [[2097159, 2, 0, 0, 512, 0, 768, 8, 0, 0, 0, 85, 0, 7, 3, 2147483648]], begun := true, ready := true, rndv := true, chan := 2, sent := 1, next := 1, msn := 9 }], nextJob := 9 })], hs.wqs := [(objKey 20 1 0, { st := .active, priv := true, head := 1, tail := 1, order := [0] })], hs.cqs := [(objKey 20 1 0, { active := true })], hs.chans := [(objKey 24 1 2, { st := .active, peer := 5, peerCh := 3, inc := 6, check := 4, cached := true, used := 1, t0 := 4, limit := 4, relaxed := true })], hs.bar := [(hostKey 1 0 0x20008, 0x100104), (hostKey 1 0 0x40010, 4), (hostKey 1 0 0x30000, 0x801), (hostKey 1 0 0x30010, 0x20000), (hostKey 1 0 0x30018, 0x21)], hs.mrCache := [(objKey 24 1 3, [0x9F, 0, 0, 0, 0x10000, 0, 0, 0, 0, 0, 0, 0, 0, 0, 0, 0])] }; let r : State := (arrived 1 34 p s).1; let u : State := inc (trnCtr h 1) r; let w : State := (takeCore h c (meetCtx h c u)).1; let x : Chan := chanOf w h c; let v : View := viewOf m u; let d : Nat := (p.psn - x.expect).toNat; let y : State := w; let z : Chan := x; let b : State := (deliverAsd h p (cvuGood h z y)).1
    (arrived h 0x22 p s = (r, true)) ∧ (c = p.chan.toNat) ∧ (u = inc (trnCtr h 1) r) ∧ ((chanOf u h c).cached = true) ∧ (v = viewOf m u) ∧ (w = (takeCore h c (meetCtx h c u)).1) ∧ (x = chanOf w h c) ∧ (p.inc = x.inc) ∧ (p.src = x.peer) ∧ (x.unrel = false) ∧ (x.st ≠ .error) ∧ (d = (p.psn - x.expect).toNat) ∧ (d < 2048) ∧ (executedAt x d = false) ∧ (x.busy.any (fun q => q.psn == p.psn) = false) ∧ (heldBack x d p = false) ∧ ((if d = 0 ∨ x.window then (w, true) else freeSlots (boleOf h) (objKey 24 h c) 1 w) = (y, true)) ∧ (aliveOk x d p = true) ∧ (z = chanOf y h c) ∧ (envBad y h p = false) ∧ (checkOk z p = true) ∧ (b = (deliverAsd h p (cvuGood h z y)).1) ∧ ((hport b h).jobs.find? (fun j => j.rndv && j.chan == c && j.sent != 0 && j.msn == enOrig p) = some j) ∧ (bitW (Packet.extW p 3 4) 26 = true) ∧ quiet s (afterRx h c p v (.over, ackDue h c p (markDone h c d p (finishJob h j 0x2B 0 0 (updChan h c (fun x => { x with line := x.line.filter (· ≠ .job j.id) }) b))))) = true := by decide +kernel

set_option maxRecDepth 100000 in
theorem wit_ArrivalOfMessages_33 :
    let h : Nat := 1; let p : Packet := sealPkt { dest := 1, src := 5, cls := 0, mode := 0, lenCells := 0, ptype := 0x22, extMask := 8, ext := [0x55, 0, 7, 3, 16777216, 12288, 0, 9], payload := [], psn := 0, chan := 2, inc := 6 }; let m : HostView := {}; let c : Nat := 2; let s : State := { sOn with hs.ports := [(1, { st := .up })], hs.wqs := [(objKey 20 1 0, { st := .active, priv := true, head := 1, tail := 1, order := [0] })], hs.cqs := [(objKey 20 1 0, { active := true })], hs.chans := [(objKey 24 1 2, { st := .active, peer := 5, peerCh := 3, inc := 6, check := 4, cached := true, used := 1, t0 := 4, limit := 4, relaxed := true })], hs.bar := [(hostKey 1 0 0x20008, 0x100104), (hostKey 1 0 0x40010, 4), (hostKey 1 0 0x30000, 0x801), (hostKey 1 0 0x30010, 0x20000), (hostKey 1 0 0x30018, 0x21)], hs.mrCache := [(objKey 24 1 3, [0x9F, 0, 0, 0, 0x10000, 0, 0, 0, 0, 0, 0, 0, 0, 0, 0, 0])] }; let r : State := (arrived 1 34 p s).1; let u : State := inc (trnCtr h 1) r; let w : State := (takeCore h c (meetCtx h c u)).1; let x : Chan := chanOf w h c; let v : View := viewOf m u; let d : Nat := (p.psn - x.expect).toNat; let y : State := w; let z : Chan := x; let b : State := (deliverAsd h p (cvuGood h z y)).1
    (arrived h 0x22 p s = (r, true)) ∧ (c = p.chan.toNat) ∧ (u = inc (trnCtr h 1) r) ∧ ((chanOf u h c).cached = true) ∧ (v = viewOf m u) ∧ (w = (takeCore h c (meetCtx h c u)).1) ∧ (x = chanOf w h c) ∧ (p.inc = x.inc) ∧ (p.src = x.peer) ∧ (x.unrel = false) ∧ (x.st ≠ .error) ∧ (d = (p.psn - x.expect).toNat) ∧ (d < 2048) ∧ (executedAt x d = false) ∧ (x.busy.any (fun q => q.psn == p.psn) = false) ∧ (heldBack x d p = false) ∧ ((if d = 0 ∨ x.window then (w, true) else freeSlots (boleOf h) (objKey 24 h c) 1 w) = (y, true)) ∧ (aliveOk x d p = true) ∧ (z = chanOf y h c) ∧ (envBad y h p = false) ∧ (checkOk z p = true) ∧ (b = (deliverAsd h p (cvuGood h z y)).1) ∧ ((hport b h).jobs.find? (fun j => j.rndv && j.chan == c && j.sent != 0 && j.msn == enOrig p) = none) ∧ quiet s (afterRx h c p v (.over, ackDue h c p (markDone h c d p (mtcCause h 6 (inc (mtcCtr h 10) b))))) = true := by decide +kernel

set_option maxRecDepth 100000 in
theorem wit_ArrivalOfMessages_34 :
    let h : Nat := 1; let p : Packet := sealPkt { dest := 1, src := 5, cls := 0, mode := 0, lenCells := 0, ptype := 0x20, extMask := 8, ext := [0x55, 0, 7, 3, 16777216, 4, 0, 0], payload := [1, 2, 3, 4], psn := 0, chan := 2, inc := 6 }; let m : HostView := {}; let c : Nat := 2; let s : State := { sOn with hs.ports := [(1, { st := .up })], hs.wqs := [(objKey 20 1 0, { st := .active, priv := true, head := 1, tail := 1, order := [0] })], hs.cqs := [(objKey 20 1 0, { active := true })], hs.chans := [(objKey 24 1 2, { st := .active, peer := 5, peerCh := 3, inc := 6, check := 4, cached := true, used := 1, t0 := 4, limit := 4, relaxed := true, unrel := true })], hs.bar := [(hostKey 1 0 0x20008, 0x100104), (hostKey 1 0 0x40010, 4), (hostKey 1 0 0x30000, 0x801), (hostKey 1 0 0x30010, 0x20000), (hostKey 1 0 0x30018, 0x21)], hs.mrCache := [(objKey 24 1 3, [0x9F, 0, 0, 0, 0x10000, 0, 0, 0, 0, 0, 0, 0, 0, 0, 0, 0])] }; let r : State := (arrived 1 32 p s).1; let u : State := inc (trnCtr h 1) r; let w : State := (takeCore h c (meetCtx h c u)).1; let x : Chan := chanOf w h c; let v : View := viewOf m u
    (arrived h 0x20 p s = (r, true)) ∧ (c = p.chan.toNat) ∧ (u = inc (trnCtr h 1) r) ∧ ((chanOf u h c).cached = true) ∧ (v = viewOf m u) ∧ (w = (takeCore h c (meetCtx h c u)).1) ∧ (x = chanOf w h c) ∧ (p.inc = x.inc) ∧ (p.src = x.peer) ∧ (x.unrel = true) ∧ quiet s (afterRx h c p v (.over, mtcCause h 3 (inc (mtcCtr h 11) w))) = true := by decide +kernel

set_option maxRecDepth 100000 in
theorem wit_ArrivalOfMessages_35 :
    let h : Nat := 1; let p : Packet := sealPkt { dest := 1, src := 5, cls := 0, mode := 0, lenCells := 0, ptype := 0x21, extMask := 9, ext := [0x100, 0x40000000, 0x300, 0, 0x55, 0, 7, 3, 16777216, 12288, 0, 0], payload := [], psn := 0, chan := 2, inc := 6 }; let m : HostView := {}; let c : Nat := 2; let s : State := { sOn with hs.ports := [(1, { st := .up })], hs.wqs := [(objKey 20 1 0, { st := .active, priv := true, head := 1, tail := 1, order := [0] })], hs.cqs := [(objKey 20 1 0, { active := true })], hs.chans := [(objKey 24 1 2, { st := .active, peer := 5, peerCh := 3, inc := 6, check := 4, cached := true, used := 1, t0 := 4, limit := 4, relaxed := true, unrel := true })], hs.bar := [(hostKey 1 0 0x20008, 0x100104), (hostKey 1 0 0x40010, 4), (hostKey 1 0 0x30000, 0x801), (hostKey 1 0 0x30010, 0x20000), (hostKey 1 0 0x30018, 0x21)], hs.mrCache := [(objKey 24 1 3, [0x9F, 0, 0, 0, 0x10000, 0, 0, 0, 0, 0, 0, 0, 0, 0, 0, 0])] }; let r : State := (arrived 1 33 p s).1; let u : State := inc (trnCtr h 1) r; let w : State := (takeCore h c (meetCtx h c u)).1; let x : Chan := chanOf w h c; let v : View := viewOf m u
    (arrived h 0x21 p s = (r, true)) ∧ (c = p.chan.toNat) ∧ (u = inc (trnCtr h 1) r) ∧ ((chanOf u h c).cached = true) ∧ (v = viewOf m u) ∧ (w = (takeCore h c (meetCtx h c u)).1) ∧ (x = chanOf w h c) ∧ (p.inc = x.inc) ∧ (p.src = x.peer) ∧ (x.unrel = true) ∧ quiet s (afterRx h c p v (.over, mtcCause h 3 (inc (mtcCtr h 11) w))) = true := by decide +kernel

set_option maxRecDepth 100000 in
theorem wit_ArrivalOfMessages_36 :
    let h : Nat := 1; let p : Packet := sealPkt { dest := 1, src := 5, cls := 0, mode := 0, lenCells := 0, ptype := 0x22, extMask := 8, ext := [0x55, 0, 7, 3, 16777216, 12288, 0, 9], payload := [], psn := 0, chan := 2, inc := 6 }; let m : HostView := {}; let c : Nat := 2; let s : State := { sOn with hs.ports := [(1, { st := .up })], hs.wqs := [(objKey 20 1 0, { st := .active, priv := true, head := 1, tail := 1, order := [0] })], hs.cqs := [(objKey 20 1 0, { active := true })], hs.chans := [(objKey 24 1 2, { st := .active, peer := 5, peerCh := 3, inc := 6, check := 4, cached := true, used := 1, t0 := 4, limit := 4, relaxed := true, unrel := true })], hs.bar := [(hostKey 1 0 0x20008, 0x100104), (hostKey 1 0 0x40010, 4), (hostKey 1 0 0x30000, 0x801), (hostKey 1 0 0x30010, 0x20000), (hostKey 1 0 0x30018, 0x21)], hs.mrCache := [(objKey 24 1 3, [0x9F, 0, 0, 0, 0x10000, 0, 0, 0, 0, 0, 0, 0, 0, 0, 0, 0])] }; let r : State := (arrived 1 34 p s).1; let u : State := inc (trnCtr h 1) r; let w : State := (takeCore h c (meetCtx h c u)).1; let x : Chan := chanOf w h c; let v : View := viewOf m u
    (arrived h 0x22 p s = (r, true)) ∧ (c = p.chan.toNat) ∧ (u = inc (trnCtr h 1) r) ∧ ((chanOf u h c).cached = true) ∧ (v = viewOf m u) ∧ (w = (takeCore h c (meetCtx h c u)).1) ∧ (x = chanOf w h c) ∧ (p.inc = x.inc) ∧ (p.src = x.peer) ∧ (x.unrel = true) ∧ quiet s (afterRx h c p v (.over, mtcCause h 3 (inc (mtcCtr h 11) w))) = true := by decide +kernel

set_option maxRecDepth 100000 in
theorem wit_ArrivalOfMessages_37 :
    let h : Nat := 1; let p : Packet := sealPkt { dest := 1, src := 5, cls := 0, mode := 0, lenCells := 0, ptype := 0x20, extMask := 8, ext := [0x55, 0, 7, 3, 16777216, 4, 0, 0], payload := [1, 2, 3, 4], psn := 0, chan := 2, inc := 6 }; let m : HostView := {}; let s : State := sOn; let r : State := (arrived 1 32 p s).1
    (arrived h 32 p s = (r, false)) ∧ quiet s (r) = true := by decide +kernel

set_option maxRecDepth 100000 in
theorem wit_ArrivalOfMessages_38 :
    let h : Nat := 1; let p : Packet := sealPkt { dest := 1, src := 5, cls := 0, mode := 0, lenCells := 0, ptype := 0x20, extMask := 8, ext := [0x55, 0, 7, 3, 16777216, 4, 0, 0], payload := [1, 2, 3, 4], psn := 0, chan := 2, inc := 6 }; let m : HostView := {}; let c : Nat := 2; let s : State := { sOn with hs.ports := [(1, { st := .up })], hs.cqs := [(objKey 20 1 0, { active := true })], hs.chans := [(objKey 24 1 2, { st := .active, peer := 5, peerCh := 3, inc := 6, check := 4, cached := false, used := 1, t0 := 4, limit := 4, relaxed := true })], hs.bar := [(hostKey 1 0 0x20008, 0x100104), (hostKey 1 0 0x40010, 4)], hs.mrCache := [(objKey 24 1 3, [0x9F, 0, 0, 0, 0x10000, 0, 0, 0, 0, 0, 0, 0, 0, 0, 0, 0])] }; let r : State := (arrived 1 32 p s).1
    (arrived h 32 p s = (r, true)) ∧ (c = p.chan.toNat) ∧ ((chanOf (inc (trnCtr h 1) r) h c).cached = false) ∧ quiet s (fetchCtx h c (park h c p (inc (trnCtr h 1) r))) = true := by decide +kernel

set_option maxRecDepth 100000 in
theorem wit_ArrivalOfMessages_39 :
    let h : Nat := 1; let p : Packet := sealPkt { dest := 1, src := 5, cls := 0, mode := 0, lenCells := 0, ptype := 0x20, extMask := 8, ext := [0x55, 0, 7, 3, 16777216, 4, 0, 0], payload := [1, 2, 3, 4], psn := 0, chan := 2, inc := 7 }; let m : HostView := {}; let c : Nat := 2; let s : State := { sOn with hs.ports := [(1, { st := .up })], hs.cqs := [(objKey 20 1 0, { active := true })], hs.chans := [(objKey 24 1 2, { st := .active, peer := 5, peerCh := 3, inc := 6, check := 4, cached := true, used := 1, t0 := 4, limit := 4, relaxed := true })], hs.bar := [(hostKey 1 0 0x20008, 0x100104), (hostKey 1 0 0x40010, 4)], hs.mrCache := [(objKey 24 1 3, [0x9F, 0, 0, 0, 0x10000, 0, 0, 0, 0, 0, 0, 0, 0, 0, 0, 0])] }; let r : State := (arrived 1 32 p s).1; let u : State := inc (trnCtr h 1) r; let w : State := (takeCore h c (meetCtx h c u)).1; let x : Chan := chanOf w h c; let v : View := viewOf m u
    (arrived h 32 p s = (r, true)) ∧ (c = p.chan.toNat) ∧ (u = inc (trnCtr h 1) r) ∧ ((chanOf u h c).cached = true) ∧ (v = viewOf m u) ∧ (w = (takeCore h c (meetCtx h c u)).1) ∧ (x = chanOf w h c) ∧ (p.inc ≠ x.inc) ∧ quiet s (afterRx h c p v (.over, trnStale h 7 w)) = true := by decide +kernel

set_option maxRecDepth 100000 in
theorem wit_ArrivalOfMessages_40 :
    let h : Nat := 1; let p : Packet := sealPkt { dest := 1, src := 9, cls := 0, mode := 0, lenCells := 0, ptype := 0x20, extMask := 8, ext := [0x55, 0, 7, 3, 16777216, 4, 0, 0], payload := [1, 2, 3, 4], psn := 0, chan := 2, inc := 6 }; let m : HostView := {}; let c : Nat := 2; let s : State := { sOn with hs.ports := [(1, { st := .up })], hs.cqs := [(objKey 20 1 0, { active := true })], hs.chans := [(objKey 24 1 2, { st := .active, peer := 5, peerCh := 3, inc := 6, check := 4, cached := true, used := 1, t0 := 4, limit := 4, relaxed := true })], hs.bar := [(hostKey 1 0 0x20008, 0x100104), (hostKey 1 0 0x40010, 4)], hs.mrCache := [(objKey 24 1 3, [0x9F, 0, 0, 0, 0x10000, 0, 0, 0, 0, 0, 0, 0, 0, 0, 0, 0])] }; let r : State := (arrived 1 32 p s).1; let u : State := inc (trnCtr h 1) r; let w : State := (takeCore h c (meetCtx h c u)).1; let x : Chan := chanOf w h c; let v : View := viewOf m u
    (arrived h 32 p s = (r, true)) ∧ (c = p.chan.toNat) ∧ (u = inc (trnCtr h 1) r) ∧ ((chanOf u h c).cached = true) ∧ (v = viewOf m u) ∧ (w = (takeCore h c (meetCtx h c u)).1) ∧ (x = chanOf w h c) ∧ (p.inc = x.inc) ∧ (p.src ≠ x.peer) ∧ quiet s (afterRx h c p v (.over, trnStale h 8 w)) = true := by decide +kernel

set_option maxRecDepth 100000 in
theorem wit_ArrivalOfMessages_41 :
    let h : Nat := 1; let p : Packet := sealPkt { dest := 1, src := 5, cls := 0, mode := 0, lenCells := 0, ptype := 0x20, extMask := 8, ext := [0x55, 0, 7, 3, 16777216, 4, 0, 0], payload := [1, 2, 3, 4], psn := 0, chan := 2, inc := 6 }; let m : HostView := {}; let c : Nat := 2; let s : State := { sOn with hs.ports := [(1, { st := .up })], hs.cqs := [(objKey 20 1 0, { active := true })], hs.chans := [(objKey 24 1 2, { st := .error, peer := 5, peerCh := 3, inc := 6, check := 4, cached := true, used := 1, t0 := 4, limit := 4, relaxed := true })], hs.bar := [(hostKey 1 0 0x20008, 0x100104), (hostKey 1 0 0x40010, 4)], hs.mrCache := [(objKey 24 1 3, [0x9F, 0, 0, 0, 0x10000, 0, 0, 0, 0, 0, 0, 0, 0, 0, 0, 0])] }; let r : State := (arrived 1 32 p s).1; let u : State := inc (trnCtr h 1) r; let w : State := (takeCore h c (meetCtx h c u)).1; let x : Chan := chanOf w h c; let v : View := viewOf m u
    (arrived h 32 p s = (r, true)) ∧ (c = p.chan.toNat) ∧ (u = inc (trnCtr h 1) r) ∧ ((chanOf u h c).cached = true) ∧ (v = viewOf m u) ∧ (w = (takeCore h c (meetCtx h c u)).1) ∧ (x = chanOf w h c) ∧ (p.inc = x.inc) ∧ (p.src = x.peer) ∧ (x.unrel = false) ∧ (x.st = .error) ∧ quiet s (afterRx h c p v (.over, sendAck h c p.psn 0x11 0 w)) = true := by decide +kernel

set_option maxRecDepth 100000 in
theorem wit_ArrivalOfMessages_42 :
    let h : Nat := 1; let p : Packet := sealPkt { dest := 1, src := 5, cls := 0, mode := 0, lenCells := 0, ptype := 0x20, extMask := 8, ext := [0x55, 0, 7, 3, 16777216, 4, 0, 0], payload := [1, 2, 3, 4], psn := 2048, chan := 2, inc := 6 }; let m : HostView := {}; let c : Nat := 2; let s : State := { sOn with hs.ports := [(1, { st := .up })], hs.cqs := [(objKey 20 1 0, { active := true })], hs.chans := [(objKey 24 1 2, { st := .active, peer := 5, peerCh := 3, inc := 6, check := 4, cached := true, used := 1, t0 := 4, limit := 4, relaxed := true })], hs.bar := [(hostKey 1 0 0x20008, 0x100104), (hostKey 1 0 0x40010, 4)], hs.mrCache := [(objKey 24 1 3, [0x9F, 0, 0, 0, 0x10000, 0, 0, 0, 0, 0, 0, 0, 0, 0, 0, 0])] }; let r : State := (arrived 1 32 p s).1; let u : State := inc (trnCtr h 1) r; let w : State := (takeCore h c (meetCtx h c u)).1; let x : Chan := chanOf w h c; let v : View := viewOf m u
    (arrived h 32 p s = (r, true)) ∧ (c = p.chan.toNat) ∧ (u = inc (trnCtr h 1) r) ∧ ((chanOf u h c).cached = true) ∧ (v = viewOf m u) ∧ (w = (takeCore h c (meetCtx h c u)).1) ∧ (x = chanOf w h c) ∧ (p.inc = x.inc) ∧ (p.src = x.peer) ∧ (x.unrel = false) ∧ (x.st ≠ .error) ∧ (2048 ≤ (p.psn - x.expect).toNat) ∧ ((p.psn - x.expect).toNat < 2 ^ 31) ∧ quiet s (afterRx h c p v (.over, trnStale h 9 w)) = true := by decide +kernel

set_option maxRecDepth 100000 in
theorem wit_ArrivalOfMessages_43 :
    let h : Nat := 1; let p : Packet := sealPkt { dest := 1, src := 5, cls := 0, mode := 0, lenCells := 0, ptype := 0x20, extMask := 8, ext := [0x55, 0, 7, 3, 16777216, 4, 0, 0], payload := [1, 2, 3, 4], psn := 0, chan := 2, inc := 6 }; let m : HostView := {}; let c : Nat := 2; let s : State := { sOn with hs.ports := [(1, { st := .up })], hs.cqs := [(objKey 20 1 0, { active := true })], hs.chans := [(objKey 24 1 2, { st := .active, peer := 5, peerCh := 3, inc := 6, check := 4, cached := true, used := 1, t0 := 4, limit := 4, relaxed := true, busy := [sealPkt { dest := 1, src := 5, cls := 0, mode := 0, lenCells := 0, ptype := 0x20, extMask := 8, ext := [0x55, 0, 7, 3, 16777216, 4, 0, 0], payload := [1, 2, 3, 4], psn := 0, chan := 2, inc := 6 }] })], hs.bar := [(hostKey 1 0 0x20008, 0x100104), (hostKey 1 0 0x40010, 4)], hs.mrCache := [(objKey 24 1 3, [0x9F, 0, 0, 0, 0x10000, 0, 0, 0, 0, 0, 0, 0, 0, 0, 0, 0])] }; let r : State := (arrived 1 32 p s).1; let u : State := inc (trnCtr h 1) r; let w : State := (takeCore h c (meetCtx h c u)).1; let x : Chan := chanOf w h c; let v : View := viewOf m u; let d : Nat := (p.psn - x.expect).toNat
    (arrived h 32 p s = (r, true)) ∧ (c = p.chan.toNat) ∧ (u = inc (trnCtr h 1) r) ∧ ((chanOf u h c).cached = true) ∧ (v = viewOf m u) ∧ (w = (takeCore h c (meetCtx h c u)).1) ∧ (x = chanOf w h c) ∧ (p.inc = x.inc) ∧ (p.src = x.peer) ∧ (x.unrel = false) ∧ (x.st ≠ .error) ∧ (d = (p.psn - x.expect).toNat) ∧ (d < 2048) ∧ (executedAt x d = false) ∧ (x.busy.any (fun q => q.psn == p.psn) = true) ∧ quiet s (afterRx h c p v (.over, inc (trnCtr h 6) w)) = true := by decide +kernel

set_option maxRecDepth 100000 in
theorem wit_ArrivalOfMessages_44 :
    let h : Nat := 1; let p : Packet := sealPkt { dest := 1, src := 5, cls := 0, mode := 0, lenCells := 0, ptype := 0x20, extMask := 8, ext := [0x55, 0, 7, 3, 16777216, 4, 0, 0], payload := [1, 2, 3, 4], psn := 1, chan := 2, inc := 6 }; let m : HostView := {}; let c : Nat := 2; let s : State := { sOn with hs.ports := [(1, { st := .up })], hs.cqs := [(objKey 20 1 0, { active := true })], hs.chans := [(objKey 24 1 2, { st := .active, peer := 5, peerCh := 3, inc := 6, check := 4, cached := true, used := 1, t0 := 4, limit := 4, relaxed := false })], hs.bar := [(hostKey 1 0 0x20008, 0x100104), (hostKey 1 0 0x40010, 4)], hs.mrCache := [(objKey 24 1 3, [0x9F, 0, 0, 0, 0x10000, 0, 0, 0, 0, 0, 0, 0, 0, 0, 0, 0])] }; let r : State := (arrived 1 32 p s).1; let u : State := inc (trnCtr h 1) r; let w : State := (takeCore h c (meetCtx h c u)).1; let x : Chan := chanOf w h c; let v : View := viewOf m u; let d : Nat := (p.psn - x.expect).toNat
    (arrived h 32 p s = (r, true)) ∧ (c = p.chan.toNat) ∧ (u = inc (trnCtr h 1) r) ∧ ((chanOf u h c).cached = true) ∧ (v = viewOf m u) ∧ (w = (takeCore h c (meetCtx h c u)).1) ∧ (x = chanOf w h c) ∧ (p.inc = x.inc) ∧ (p.src = x.peer) ∧ (x.unrel = false) ∧ (x.st ≠ .error) ∧ (d = (p.psn - x.expect).toNat) ∧ (d < 2048) ∧ (executedAt x d = false) ∧ (x.busy.any (fun q => q.psn == p.psn) = false) ∧ (heldBack x d p = true) ∧ quiet s (park h c p w) = true := by decide +kernel

set_option maxRecDepth 100000 in
theorem wit_ArrivalOfMessages_45 :
    let h : Nat := 1; let p : Packet := sealPkt { dest := 1, src := 5, cls := 0, mode := 0, lenCells := 0, ptype := 0x20, extMask := 8, ext := [0x55, 0, 7, 3, 16777216, 4, 0, 0], payload := [1, 2, 3, 4], psn := 0, chan := 2, inc := 6 }; let m : HostView := {}; let c : Nat := 2; let s : State := { sOn with hs.ports := [(1, { st := .up })], hs.cqs := [(objKey 20 1 0, { active := true })], hs.chans := [(objKey 24 1 2, { st := .active, peer := 5, peerCh := 3, inc := 6, check := 4, cached := true, used := 1, t0 := 4, limit := 4, relaxed := true, rxMsn := 1 })], hs.bar := [(hostKey 1 0 0x20008, 0x100104), (hostKey 1 0 0x40010, 4)], hs.mrCache := [(objKey 24 1 3, [0x9F, 0, 0, 0, 0x10000, 0, 0, 0, 0, 0, 0, 0, 0, 0, 0, 0])] }; let r : State := (arrived 1 32 p s).1; let u : State := inc (trnCtr h 1) r; let w : State := (takeCore h c (meetCtx h c u)).1; let x : Chan := chanOf w h c; let v : View := viewOf m u; let d : Nat := (p.psn - x.expect).toNat; let y : State := w
    (arrived h 32 p s = (r, true)) ∧ (c = p.chan.toNat) ∧ (u = inc (trnCtr h 1) r) ∧ ((chanOf u h c).cached = true) ∧ (v = viewOf m u) ∧ (w = (takeCore h c (meetCtx h c u)).1) ∧ (x = chanOf w h c) ∧ (p.inc = x.inc) ∧ (p.src = x.peer) ∧ (x.unrel = false) ∧ (x.st ≠ .error) ∧ (d = (p.psn - x.expect).toNat) ∧ (d < 2048) ∧ (executedAt x d = false) ∧ (x.busy.any (fun q => q.psn == p.psn) = false) ∧ (heldBack x d p = false) ∧ ((if d = 0 ∨ x.window then (w, true) else freeSlots (boleOf h) (objKey 24 h c) 1 w) = (y, true)) ∧ (aliveOk x d p = false) ∧ quiet s (afterRx h c p v (.over, cvuFail h 4 p y)) = true := by decide +kernel

set_option maxRecDepth 100000 in
theorem wit_ArrivalOfMessages_46 :
    let h : Nat := 1; let p : Packet := sealPkt { dest := 1, src := 5, cls := 0, mode := 0, lenCells := 0, ptype := 0x20, extMask := 8, ext := [0x55, 0, 7, 3, 16777216, 4, 0, 0], payload := [1, 2, 3, 4], psn := 0, chan := 2, inc := 6 }; let m : HostView := {}; let c : Nat := 2; let s : State := { sOn with hs.ports := [(1, { st := .up })], hs.cqs := [(objKey 20 1 0, { active := true })], hs.chans := [(objKey 24 1 2, { st := .active, peer := 5, peerCh := 3, inc := 6, check := 4, cached := true, used := 1, t0 := 4, limit := 4, relaxed := true, expect := 1 })], hs.bar := [(hostKey 1 0 0x20008, 0x100104), (hostKey 1 0 0x40010, 4)], hs.mrCache := [(objKey 24 1 3, [0x9F, 0, 0, 0, 0x10000, 0, 0, 0, 0, 0, 0, 0, 0, 0, 0, 0])] }; let r : State := (arrived 1 32 p s).1; let u : State := inc (trnCtr h 1) r; let w : State := (takeCore h c (meetCtx h c u)).1; let x : Chan := chanOf w h c; let v : View := viewOf m u
    (arrived h 32 p s = (r, true)) ∧ (c = p.chan.toNat) ∧ (u = inc (trnCtr h 1) r) ∧ ((chanOf u h c).cached = true) ∧ (v = viewOf m u) ∧ (w = (takeCore h c (meetCtx h c u)).1) ∧ (x = chanOf w h c) ∧ (p.inc = x.inc) ∧ (p.src = x.peer) ∧ (x.unrel = false) ∧ (x.st ≠ .error) ∧ (2 ^ 31 ≤ (p.psn - x.expect).toNat ∨ ((p.psn - x.expect).toNat < 2048 ∧ executedAt x (p.psn - x.expect).toNat = true)) ∧ (x.refused.all (fun e => e.1 != p.psn) = true) ∧ quiet s (afterRx h c p v (.over, sendAck h c p.psn 0 0 (inc (trnCtr h 6) w))) = true := by decide +kernel

set_option maxRecDepth 100000 in
theorem wit_ArrivalOfMessages_47 :
    let h : Nat := 1; let p : Packet := sealPkt { dest := 1, src := 5, cls := 0, mode := 0, lenCells := 0, ptype := 0x21, extMask := 9, ext := [0x100, 0x40000000, 0x300, 0, 0x55, 0, 7, 3, 16777216, 12288, 0, 0], payload := [], psn := 0, chan := 2, inc := 6 }; let m : HostView := {}; let s : State := sOn; let r : State := (arrived 1 33 p s).1
    (arrived h 33 p s = (r, false)) ∧ quiet s (r) = true := by decide +kernel

set_option maxRecDepth 100000 in
theorem wit_ArrivalOfMessages_48 :
    let h : Nat := 1; let p : Packet := sealPkt { dest := 1, src := 5, cls := 0, mode := 0, lenCells := 0, ptype := 0x21, extMask := 9, ext := [0x100, 0x40000000, 0x300, 0, 0x55, 0, 7, 3, 16777216, 12288, 0, 0], payload := [], psn := 0, chan := 2, inc := 6 }; let m : HostView := {}; let c : Nat := 2; let s : State := { sOn with hs.ports := [(1, { st := .up })], hs.cqs := [(objKey 20 1 0, { active := true })], hs.chans := [(objKey 24 1 2, { st := .active, peer := 5, peerCh := 3, inc := 6, check := 4, cached := false, used := 1, t0 := 4, limit := 4, relaxed := true })], hs.bar := [(hostKey 1 0 0x20008, 0x100104), (hostKey 1 0 0x40010, 4)], hs.mrCache := [(objKey 24 1 3, [0x9F, 0, 0, 0, 0x10000, 0, 0, 0, 0, 0, 0, 0, 0, 0, 0, 0])] }; let r : State := (arrived 1 33 p s).1
    (arrived h 33 p s = (r, true)) ∧ (c = p.chan.toNat) ∧ ((chanOf (inc (trnCtr h 1) r) h c).cached = false) ∧ quiet s (fetchCtx h c (park h c p (inc (trnCtr h 1) r))) = true := by decide +kernel

set_option maxRecDepth 100000 in
theorem wit_ArrivalOfMessages_49 :
    let h : Nat := 1; let p : Packet := sealPkt { dest := 1, src := 5, cls := 0, mode := 0, lenCells := 0, ptype := 0x21, extMask := 9, ext := [0x100, 0x40000000, 0x300, 0, 0x55, 0, 7, 3, 16777216, 12288, 0, 0], payload := [], psn := 0, chan := 2, inc := 7 }; let m : HostView := {}; let c : Nat := 2; let s : State := { sOn with hs.ports := [(1, { st := .up })], hs.cqs := [(objKey 20 1 0, { active := true })], hs.chans := [(objKey 24 1 2, { st := .active, peer := 5, peerCh := 3, inc := 6, check := 4, cached := true, used := 1, t0 := 4, limit := 4, relaxed := true })], hs.bar := [(hostKey 1 0 0x20008, 0x100104), (hostKey 1 0 0x40010, 4)], hs.mrCache := [(objKey 24 1 3, [0x9F, 0, 0, 0, 0x10000, 0, 0, 0, 0, 0, 0, 0, 0, 0, 0, 0])] }; let r : State := (arrived 1 33 p s).1; let u : State := inc (trnCtr h 1) r; let w : State := (takeCore h c (meetCtx h c u)).1; let x : Chan := chanOf w h c; let v : View := viewOf m u
    (arrived h 33 p s = (r, true)) ∧ (c = p.chan.toNat) ∧ (u = inc (trnCtr h 1) r) ∧ ((chanOf u h c).cached = true) ∧ (v = viewOf m u) ∧ (w = (takeCore h c (meetCtx h c u)).1) ∧ (x = chanOf w h c) ∧ (p.inc ≠ x.inc) ∧ quiet s (afterRx h c p v (.over, trnStale h 7 w)) = true := by decide +kernel

set_option maxRecDepth 100000 in
theorem wit_ArrivalOfMessages_50 :
    let h : Nat := 1; let p : Packet := sealPkt { dest := 1, src := 9, cls := 0, mode := 0, lenCells := 0, ptype := 0x21, extMask := 9, ext := [0x100, 0x40000000, 0x300, 0, 0x55, 0, 7, 3, 16777216, 12288, 0, 0], payload := [], psn := 0, chan := 2, inc := 6 }; let m : HostView := {}; let c : Nat := 2; let s : State := { sOn with hs.ports := [(1, { st := .up })], hs.cqs := [(objKey 20 1 0, { active := true })], hs.chans := [(objKey 24 1 2, { st := .active, peer := 5, peerCh := 3, inc := 6, check := 4, cached := true, used := 1, t0 := 4, limit := 4, relaxed := true })], hs.bar := [(hostKey 1 0 0x20008, 0x100104), (hostKey 1 0 0x40010, 4)], hs.mrCache := [(objKey 24 1 3, [0x9F, 0, 0, 0, 0x10000, 0, 0, 0, 0, 0, 0, 0, 0, 0, 0, 0])] }; let r : State := (arrived 1 33 p s).1; let u : State := inc (trnCtr h 1) r; let w : State := (takeCore h c (meetCtx h c u)).1; let x : Chan := chanOf w h c; let v : View := viewOf m u
    (arrived h 33 p s = (r, true)) ∧ (c = p.chan.toNat) ∧ (u = inc (trnCtr h 1) r) ∧ ((chanOf u h c).cached = true) ∧ (v = viewOf m u) ∧ (w = (takeCore h c (meetCtx h c u)).1) ∧ (x = chanOf w h c) ∧ (p.inc = x.inc) ∧ (p.src ≠ x.peer) ∧ quiet s (afterRx h c p v (.over, trnStale h 8 w)) = true := by decide +kernel

set_option maxRecDepth 100000 in
theorem wit_ArrivalOfMessages_51 :
    let h : Nat := 1; let p : Packet := sealPkt { dest := 1, src := 5, cls := 0, mode := 0, lenCells := 0, ptype := 0x21, extMask := 9, ext := [0x100, 0x40000000, 0x300, 0, 0x55, 0, 7, 3, 16777216, 12288, 0, 0], payload := [], psn := 0, chan := 2, inc := 6 }; let m : HostView := {}; let c : Nat := 2; let s : State := { sOn with hs.ports := [(1, { st := .up })], hs.cqs := [(objKey 20 1 0, { active := true })], hs.chans := [(objKey 24 1 2, { st := .error, peer := 5, peerCh := 3, inc := 6, check := 4, cached := true, used := 1, t0 := 4, limit := 4, relaxed := true })], hs.bar := [(hostKey 1 0 0x20008, 0x100104), (hostKey 1 0 0x40010, 4)], hs.mrCache := [(objKey 24 1 3, [0x9F, 0, 0, 0, 0x10000, 0, 0, 0, 0, 0, 0, 0, 0, 0, 0, 0])] }; let r : State := (arrived 1 33 p s).1; let u : State := inc (trnCtr h 1) r; let w : State := (takeCore h c (meetCtx h c u)).1; let x : Chan := chanOf w h c; let v : View := viewOf m u
    (arrived h 33 p s = (r, true)) ∧ (c = p.chan.toNat) ∧ (u = inc (trnCtr h 1) r) ∧ ((chanOf u h c).cached = true) ∧ (v = viewOf m u) ∧ (w = (takeCore h c (meetCtx h c u)).1) ∧ (x = chanOf w h c) ∧ (p.inc = x.inc) ∧ (p.src = x.peer) ∧ (x.unrel = false) ∧ (x.st = .error) ∧ quiet s (afterRx h c p v (.over, sendAck h c p.psn 0x11 0 w)) = true := by decide +kernel

set_option maxRecDepth 100000 in
theorem wit_ArrivalOfMessages_52 :
    let h : Nat := 1; let p : Packet := sealPkt { dest := 1, src := 5, cls := 0, mode := 0, lenCells := 0, ptype := 0x21, extMask := 9, ext := [0x100, 0x40000000, 0x300, 0, 0x55, 0, 7, 3, 16777216, 12288, 0, 0], payload := [], psn := 2048, chan := 2, inc := 6 }; let m : HostView := {}; let c : Nat := 2; let s : State := { sOn with hs.ports := [(1, { st := .up })], hs.cqs := [(objKey 20 1 0, { active := true })], hs.chans := [(objKey 24 1 2, { st := .active, peer := 5, peerCh := 3, inc := 6, check := 4, cached := true, used := 1, t0 := 4, limit := 4, relaxed := true })], hs.bar := [(hostKey 1 0 0x20008, 0x100104), (hostKey 1 0 0x40010, 4)], hs.mrCache := [(objKey 24 1 3, [0x9F, 0, 0, 0, 0x10000, 0, 0, 0, 0, 0, 0, 0, 0, 0, 0, 0])] }; let r : State := (arrived 1 33 p s).1; let u : State := inc (trnCtr h 1) r; let w : State := (takeCore h c (meetCtx h c u)).1; let x : Chan := chanOf w h c; let v : View := viewOf m u
    (arrived h 33 p s = (r, true)) ∧ (c = p.chan.toNat) ∧ (u = inc (trnCtr h 1) r) ∧ ((chanOf u h c).cached = true) ∧ (v = viewOf m u) ∧ (w = (takeCore h c (meetCtx h c u)).1) ∧ (x = chanOf w h c) ∧ (p.inc = x.inc) ∧ (p.src = x.peer) ∧ (x.unrel = false) ∧ (x.st ≠ .error) ∧ (2048 ≤ (p.psn - x.expect).toNat) ∧ ((p.psn - x.expect).toNat < 2 ^ 31) ∧ quiet s (afterRx h c p v (.over, trnStale h 9 w)) = true := by decide +kernel

set_option maxRecDepth 100000 in
theorem wit_ArrivalOfMessages_53 :
    let h : Nat := 1; let p : Packet := sealPkt { dest := 1, src := 5, cls := 0, mode := 0, lenCells := 0, ptype := 0x21, extMask := 9, ext := [0x100, 0x40000000, 0x300, 0, 0x55, 0, 7, 3, 16777216, 12288, 0, 0], payload := [], psn := 0, chan := 2, inc := 6 }; let m : HostView := {}; let c : Nat := 2; let s : State := { sOn with hs.ports := [(1, { st := .up })], hs.cqs := [(objKey 20 1 0, { active := true })], hs.chans := [(objKey 24 1 2, { st := .active, peer := 5, peerCh := 3, inc := 6, check := 4, cached := true, used := 1, t0 := 4, limit := 4, relaxed := true, busy := [sealPkt { dest := 1, src := 5, cls := 0, mode := 0, lenCells := 0, ptype := 0x21, extMask := 9, ext := [0x100, 0x40000000, 0x300, 0, 0x55, 0, 7, 3, 16777216, 12288, 0, 0], payload := [], psn := 0, chan := 2, inc := 6 }] })], hs.bar := [(hostKey 1 0 0x20008, 0x100104), (hostKey 1 0 0x40010, 4)], hs.mrCache := [(objKey 24 1 3, [0x9F, 0, 0, 0, 0x10000, 0, 0, 0, 0, 0, 0, 0, 0, 0, 0, 0])] }; let r : State := (arrived 1 33 p s).1; let u : State := inc (trnCtr h 1) r; let w : State := (takeCore h c (meetCtx h c u)).1; let x : Chan := chanOf w h c; let v : View := viewOf m u; let d : Nat := (p.psn - x.expect).toNat
    (arrived h 33 p s = (r, true)) ∧ (c = p.chan.toNat) ∧ (u = inc (trnCtr h 1) r) ∧ ((chanOf u h c).cached = true) ∧ (v = viewOf m u) ∧ (w = (takeCore h c (meetCtx h c u)).1) ∧ (x = chanOf w h c) ∧ (p.inc = x.inc) ∧ (p.src = x.peer) ∧ (x.unrel = false) ∧ (x.st ≠ .error) ∧ (d = (p.psn - x.expect).toNat) ∧ (d < 2048) ∧ (executedAt x d = false) ∧ (x.busy.any (fun q => q.psn == p.psn) = true) ∧ quiet s (afterRx h c p v (.over, inc (trnCtr h 6) w)) = true := by decide +kernel

set_option maxRecDepth 100000 in
theorem wit_ArrivalOfMessages_54 :
    let h : Nat := 1; let p : Packet := sealPkt { dest := 1, src := 5, cls := 0, mode := 0, lenCells := 0, ptype := 0x21, extMask := 9, ext := [0x100, 0x40000000, 0x300, 0, 0x55, 0, 7, 3, 16777216, 12288, 0, 0], payload := [], psn := 1, chan := 2, inc := 6 }; let m : HostView := {}; let c : Nat := 2; let s : State := { sOn with hs.ports := [(1, { st := .up })], hs.cqs := [(objKey 20 1 0, { active := true })], hs.chans := [(objKey 24 1 2, { st := .active, peer := 5, peerCh := 3, inc := 6, check := 4, cached := true, used := 1, t0 := 4, limit := 4, relaxed := false })], hs.bar := [(hostKey 1 0 0x20008, 0x100104), (hostKey 1 0 0x40010, 4)], hs.mrCache := [(objKey 24 1 3, [0x9F, 0, 0, 0, 0x10000, 0, 0, 0, 0, 0, 0, 0, 0, 0, 0, 0])] }; let r : State := (arrived 1 33 p s).1; let u : State := inc (trnCtr h 1) r; let w : State := (takeCore h c (meetCtx h c u)).1; let x : Chan := chanOf w h c; let v : View := viewOf m u; let d : Nat := (p.psn - x.expect).toNat
    (arrived h 33 p s = (r, true)) ∧ (c = p.chan.toNat) ∧ (u = inc (trnCtr h 1) r) ∧ ((chanOf u h c).cached = true) ∧ (v = viewOf m u) ∧ (w = (takeCore h c (meetCtx h c u)).1) ∧ (x = chanOf w h c) ∧ (p.inc = x.inc) ∧ (p.src = x.peer) ∧ (x.unrel = false) ∧ (x.st ≠ .error) ∧ (d = (p.psn - x.expect).toNat) ∧ (d < 2048) ∧ (executedAt x d = false) ∧ (x.busy.any (fun q => q.psn == p.psn) = false) ∧ (heldBack x d p = true) ∧ quiet s (park h c p w) = true := by decide +kernel

set_option maxRecDepth 100000 in
theorem wit_ArrivalOfMessages_55 :
    let h : Nat := 1; let p : Packet := sealPkt { dest := 1, src := 5, cls := 0, mode := 0, lenCells := 0, ptype := 0x21, extMask := 9, ext := [0x100, 0x40000000, 0x300, 0, 0x55, 0, 7, 3, 16777216, 12288, 0, 0], payload := [], psn := 0, chan := 2, inc := 6 }; let m : HostView := {}; let c : Nat := 2; let s : State := { sOn with hs.ports := [(1, { st := .up })], hs.cqs := [(objKey 20 1 0, { active := true })], hs.chans := [(objKey 24 1 2, { st := .active, peer := 5, peerCh := 3, inc := 6, check := 4, cached := true, used := 1, t0 := 4, limit := 4, relaxed := true, rxMsn := 1 })], hs.bar := [(hostKey 1 0 0x20008, 0x100104), (hostKey 1 0 0x40010, 4)], hs.mrCache := [(objKey 24 1 3, [0x9F, 0, 0, 0, 0x10000, 0, 0, 0, 0, 0, 0, 0, 0, 0, 0, 0])] }; let r : State := (arrived 1 33 p s).1; let u : State := inc (trnCtr h 1) r; let w : State := (takeCore h c (meetCtx h c u)).1; let x : Chan := chanOf w h c; let v : View := viewOf m u; let d : Nat := (p.psn - x.expect).toNat; let y : State := w
    (arrived h 33 p s = (r, true)) ∧ (c = p.chan.toNat) ∧ (u = inc (trnCtr h 1) r) ∧ ((chanOf u h c).cached = true) ∧ (v = viewOf m u) ∧ (w = (takeCore h c (meetCtx h c u)).1) ∧ (x = chanOf w h c) ∧ (p.inc = x.inc) ∧ (p.src = x.peer) ∧ (x.unrel = false) ∧ (x.st ≠ .error) ∧ (d = (p.psn - x.expect).toNat) ∧ (d < 2048) ∧ (executedAt x d = false) ∧ (x.busy.any (fun q => q.psn == p.psn) = false) ∧ (heldBack x d p = false) ∧ ((if d = 0 ∨ x.window then (w, true) else freeSlots (boleOf h) (objKey 24 h c) 1 w) = (y, true)) ∧ (aliveOk x d p = false) ∧ quiet s (afterRx h c p v (.over, cvuFail h 4 p y)) = true := by decide +kernel

set_option maxRecDepth 100000 in
theorem wit_ArrivalOfMessages_56 :
    let h : Nat := 1; let p : Packet := sealPkt { dest := 1, src := 5, cls := 0, mode := 0, lenCells := 0, ptype := 0x21, extMask := 9, ext := [0x100, 0x40000000, 0x300, 0, 0x55, 0, 7, 3, 16777216, 12288, 0, 0], payload := [], psn := 0, chan := 2, inc := 6 }; let m : HostView := {}; let c : Nat := 2; let s : State := { sOn with hs.ports := [(1, { st := .up })], hs.cqs := [(objKey 20 1 0, { active := true })], hs.chans := [(objKey 24 1 2, { st := .active, peer := 5, peerCh := 3, inc := 6, check := 4, cached := true, used := 1, t0 := 4, limit := 4, relaxed := true, expect := 1 })], hs.bar := [(hostKey 1 0 0x20008, 0x100104), (hostKey 1 0 0x40010, 4)], hs.mrCache := [(objKey 24 1 3, [0x9F, 0, 0, 0, 0x10000, 0, 0, 0, 0, 0, 0, 0, 0, 0, 0, 0])] }; let r : State := (arrived 1 33 p s).1; let u : State := inc (trnCtr h 1) r; let w : State := (takeCore h c (meetCtx h c u)).1; let x : Chan := chanOf w h c; let v : View := viewOf m u
    (arrived h 33 p s = (r, true)) ∧ (c = p.chan.toNat) ∧ (u = inc (trnCtr h 1) r) ∧ ((chanOf u h c).cached = true) ∧ (v = viewOf m u) ∧ (w = (takeCore h c (meetCtx h c u)).1) ∧ (x = chanOf w h c) ∧ (p.inc = x.inc) ∧ (p.src = x.peer) ∧ (x.unrel = false) ∧ (x.st ≠ .error) ∧ (2 ^ 31 ≤ (p.psn - x.expect).toNat ∨ ((p.psn - x.expect).toNat < 2048 ∧ executedAt x (p.psn - x.expect).toNat = true)) ∧ (x.refused.all (fun e => e.1 != p.psn) = true) ∧ quiet s (afterRx h c p v (.over, sendAck h c p.psn 0 0 (inc (trnCtr h 6) w))) = true := by decide +kernel

set_option maxRecDepth 100000 in
theorem wit_ArrivalOfMessages_57 :
    let h : Nat := 1; let p : Packet := sealPkt { dest := 1, src := 5, cls := 0, mode := 0, lenCells := 0, ptype := 0x22, extMask := 8, ext := [0x55, 0, 7, 3, 16777216, 12288, 0, 9], payload := [], psn := 0, chan := 2, inc := 6 }; let m : HostView := {}; let s : State := sOn; let r : State := (arrived 1 34 p s).1
    (arrived h 34 p s = (r, false)) ∧ quiet s (r) = true := by decide +kernel

set_option maxRecDepth 100000 in
theorem wit_ArrivalOfMessages_58 :
    let h : Nat := 1; let p : Packet := sealPkt { dest := 1, src := 5, cls := 0, mode := 0, lenCells := 0, ptype := 0x22, extMask := 8, ext := [0x55, 0, 7, 3, 16777216, 12288, 0, 9], payload := [], psn := 0, chan := 2, inc := 6 }; let m : HostView := {}; let c : Nat := 2; let s : State := { sOn with hs.ports := [(1, { st := .up })], hs.cqs := [(objKey 20 1 0, { active := true })], hs.chans := [(objKey 24 1 2, { st := .active, peer := 5, peerCh := 3, inc := 6, check := 4, cached := false, used := 1, t0 := 4, limit := 4, relaxed := true })], hs.bar := [(hostKey 1 0 0x20008, 0x100104), (hostKey 1 0 0x40010, 4)], hs.mrCache := [(objKey 24 1 3, [0x9F, 0, 0, 0, 0x10000, 0, 0, 0, 0, 0, 0, 0, 0, 0, 0, 0])] }; let r : State := (arrived 1 34 p s).1
    (arrived h 34 p s = (r, true)) ∧ (c = p.chan.toNat) ∧ ((chanOf (inc (trnCtr h 1) r) h c).cached = false) ∧ quiet s (fetchCtx h c (park h c p (inc (trnCtr h 1) r))) = true := by decide +kernel

set_option maxRecDepth 100000 in
theorem wit_ArrivalOfMessages_59 :
    let h : Nat := 1; let p : Packet := sealPkt { dest := 1, src := 5, cls := 0, mode := 0, lenCells := 0, ptype := 0x22, extMask := 8, ext := [0x55, 0, 7, 3, 16777216, 12288, 0, 9], payload := [], psn := 0, chan := 2, inc := 7 }; let m : HostView := {}; let c : Nat := 2; let s : State := { sOn with hs.ports := [(1, { st := .up })], hs.cqs := [(objKey 20 1 0, { active := true })], hs.chans := [(objKey 24 1 2, { st := .active, peer := 5, peerCh := 3, inc := 6, check := 4, cached := true, used := 1, t0 := 4, limit := 4, relaxed := true })], hs.bar := [(hostKey 1 0 0x20008, 0x100104), (hostKey 1 0 0x40010, 4)], hs.mrCache := [(objKey 24 1 3, [0x9F, 0, 0, 0, 0x10000, 0, 0, 0, 0, 0, 0, 0, 0, 0, 0, 0])] }; let r : State := (arrived 1 34 p s).1; let u : State := inc (trnCtr h 1) r; let w : State := (takeCore h c (meetCtx h c u)).1; let x : Chan := chanOf w h c; let v : View := viewOf m u
    (arrived h 34 p s = (r, true)) ∧ (c = p.chan.toNat) ∧ (u = inc (trnCtr h 1) r) ∧ ((chanOf u h c).cached = true) ∧ (v = viewOf m u) ∧ (w = (takeCore h c (meetCtx h c u)).1) ∧ (x = chanOf w h c) ∧ (p.inc ≠ x.inc) ∧ quiet s (afterRx h c p v (.over, trnStale h 7 w)) = true := by decide +kernel

set_option maxRecDepth 100000 in
theorem wit_ArrivalOfMessages_60 :
    let h : Nat := 1; let p : Packet := sealPkt { dest := 1, src := 9, cls := 0, mode := 0, lenCells := 0, ptype := 0x22, extMask := 8, ext := [0x55, 0, 7, 3, 16777216, 12288, 0, 9], payload := [], psn := 0, chan := 2, inc := 6 }; let m : HostView := {}; let c : Nat := 2; let s : State := { sOn with hs.ports := [(1, { st := .up })], hs.cqs := [(objKey 20 1 0, { active := true })], hs.chans := [(objKey 24 1 2, { st := .active, peer := 5, peerCh := 3, inc := 6, check := 4, cached := true, used := 1, t0 := 4, limit := 4, relaxed := true })], hs.bar := [(hostKey 1 0 0x20008, 0x100104), (hostKey 1 0 0x40010, 4)], hs.mrCache := [(objKey 24 1 3, [0x9F, 0, 0, 0, 0x10000, 0, 0, 0, 0, 0, 0, 0, 0, 0, 0, 0])] }; let r : State := (arrived 1 34 p s).1; let u : State := inc (trnCtr h 1) r; let w : State := (takeCore h c (meetCtx h c u)).1; let x : Chan := chanOf w h c; let v : View := viewOf m u
    (arrived h 34 p s = (r, true)) ∧ (c = p.chan.toNat) ∧ (u = inc (trnCtr h 1) r) ∧ ((chanOf u h c).cached = true) ∧ (v = viewOf m u) ∧ (w = (takeCore h c (meetCtx h c u)).1) ∧ (x = chanOf w h c) ∧ (p.inc = x.inc) ∧ (p.src ≠ x.peer) ∧ quiet s (afterRx h c p v (.over, trnStale h 8 w)) = true := by decide +kernel

set_option maxRecDepth 100000 in
theorem wit_ArrivalOfMessages_61 :
    let h : Nat := 1; let p : Packet := sealPkt { dest := 1, src := 5, cls := 0, mode := 0, lenCells := 0, ptype := 0x22, extMask := 8, ext := [0x55, 0, 7, 3, 16777216, 12288, 0, 9], payload := [], psn := 0, chan := 2, inc := 6 }; let m : HostView := {}; let c : Nat := 2; let s : State := { sOn with hs.ports := [(1, { st := .up })], hs.cqs := [(objKey 20 1 0, { active := true })], hs.chans := [(objKey 24 1 2, { st := .error, peer := 5, peerCh := 3, inc := 6, check := 4, cached := true, used := 1, t0 := 4, limit := 4, relaxed := true })], hs.bar := [(hostKey 1 0 0x20008, 0x100104), (hostKey 1 0 0x40010, 4)], hs.mrCache := [(objKey 24 1 3, [0x9F, 0, 0, 0, 0x10000, 0, 0, 0, 0, 0, 0, 0, 0, 0, 0, 0])] }; let r : State := (arrived 1 34 p s).1; let u : State := inc (trnCtr h 1) r; let w : State := (takeCore h c (meetCtx h c u)).1; let x : Chan := chanOf w h c; let v : View := viewOf m u
    (arrived h 34 p s = (r, true)) ∧ (c = p.chan.toNat) ∧ (u = inc (trnCtr h 1) r) ∧ ((chanOf u h c).cached = true) ∧ (v = viewOf m u) ∧ (w = (takeCore h c (meetCtx h c u)).1) ∧ (x = chanOf w h c) ∧ (p.inc = x.inc) ∧ (p.src = x.peer) ∧ (x.unrel = false) ∧ (x.st = .error) ∧ quiet s (afterRx h c p v (.over, sendAck h c p.psn 0x11 0 w)) = true := by decide +kernel

set_option maxRecDepth 100000 in
theorem wit_ArrivalOfMessages_62 :
    let h : Nat := 1; let p : Packet := sealPkt { dest := 1, src := 5, cls := 0, mode := 0, lenCells := 0, ptype := 0x22, extMask := 8, ext := [0x55, 0, 7, 3, 16777216, 12288, 0, 9], payload := [], psn := 2048, chan := 2, inc := 6 }; let m : HostView := {}; let c : Nat := 2; let s : State := { sOn with hs.ports := [(1, { st := .up })], hs.cqs := [(objKey 20 1 0, { active := true })], hs.chans := [(objKey 24 1 2, { st := .active, peer := 5, peerCh := 3, inc := 6, check := 4, cached := true, used := 1, t0 := 4, limit := 4, relaxed := true })], hs.bar := [(hostKey 1 0 0x20008, 0x100104), (hostKey 1 0 0x40010, 4)], hs.mrCache := [(objKey 24 1 3, [0x9F, 0, 0, 0, 0x10000, 0, 0, 0, 0, 0, 0, 0, 0, 0, 0, 0])] }; let r : State := (arrived 1 34 p s).1; let u : State := inc (trnCtr h 1) r; let w : State := (takeCore h c (meetCtx h c u)).1; let x : Chan := chanOf w h c; let v : View := viewOf m u
    (arrived h 34 p s = (r, true)) ∧ (c = p.chan.toNat) ∧ (u = inc (trnCtr h 1) r) ∧ ((chanOf u h c).cached = true) ∧ (v = viewOf m u) ∧ (w = (takeCore h c (meetCtx h c u)).1) ∧ (x = chanOf w h c) ∧ (p.inc = x.inc) ∧ (p.src = x.peer) ∧ (x.unrel = false) ∧ (x.st ≠ .error) ∧ (2048 ≤ (p.psn - x.expect).toNat) ∧ ((p.psn - x.expect).toNat < 2 ^ 31) ∧ quiet s (afterRx h c p v (.over, trnStale h 9 w)) = true := by decide +kernel

set_option maxRecDepth 100000 in
theorem wit_ArrivalOfMessages_63 :
    let h : Nat := 1; let p : Packet := sealPkt { dest := 1, src := 5, cls := 0, mode := 0, lenCells := 0, ptype := 0x22, extMask := 8, ext := [0x55, 0, 7, 3, 16777216, 12288, 0, 9], payload := [], psn := 0, chan := 2, inc := 6 }; let m : HostView := {}; let c : Nat := 2; let s : State := { sOn with hs.ports := [(1, { st := .up })], hs.cqs := [(objKey 20 1 0, { active := true })], hs.chans := [(objKey 24 1 2, { st := .active, peer := 5, peerCh := 3, inc := 6, check := 4, cached := true, used := 1, t0 := 4, limit := 4, relaxed := true, busy := [sealPkt { dest := 1, src := 5, cls := 0, mode := 0, lenCells := 0, ptype := 0x22, extMask := 8, ext := [0x55, 0, 7, 3, 16777216, 12288, 0, 9], payload := [], psn := 0, chan := 2, inc := 6 }] })], hs.bar := [(hostKey 1 0 0x20008, 0x100104), (hostKey 1 0 0x40010, 4)], hs.mrCache := [(objKey 24 1 3, [0x9F, 0, 0, 0, 0x10000, 0, 0, 0, 0, 0, 0, 0, 0, 0, 0, 0])] }; let r : State := (arrived 1 34 p s).1; let u : State := inc (trnCtr h 1) r; let w : State := (takeCore h c (meetCtx h c u)).1; let x : Chan := chanOf w h c; let v : View := viewOf m u; let d : Nat := (p.psn - x.expect).toNat
    (arrived h 34 p s = (r, true)) ∧ (c = p.chan.toNat) ∧ (u = inc (trnCtr h 1) r) ∧ ((chanOf u h c).cached = true) ∧ (v = viewOf m u) ∧ (w = (takeCore h c (meetCtx h c u)).1) ∧ (x = chanOf w h c) ∧ (p.inc = x.inc) ∧ (p.src = x.peer) ∧ (x.unrel = false) ∧ (x.st ≠ .error) ∧ (d = (p.psn - x.expect).toNat) ∧ (d < 2048) ∧ (executedAt x d = false) ∧ (x.busy.any (fun q => q.psn == p.psn) = true) ∧ quiet s (afterRx h c p v (.over, inc (trnCtr h 6) w)) = true := by decide +kernel

set_option maxRecDepth 100000 in
theorem wit_ArrivalOfMessages_64 :
    let h : Nat := 1; let p : Packet := sealPkt { dest := 1, src := 5, cls := 0, mode := 0, lenCells := 0, ptype := 0x22, extMask := 8, ext := [0x55, 0, 7, 3, 16777216, 12288, 0, 9], payload := [], psn := 1, chan := 2, inc := 6 }; let m : HostView := {}; let c : Nat := 2; let s : State := { sOn with hs.ports := [(1, { st := .up })], hs.cqs := [(objKey 20 1 0, { active := true })], hs.chans := [(objKey 24 1 2, { st := .active, peer := 5, peerCh := 3, inc := 6, check := 4, cached := true, used := 1, t0 := 4, limit := 4, relaxed := false })], hs.bar := [(hostKey 1 0 0x20008, 0x100104), (hostKey 1 0 0x40010, 4)], hs.mrCache := [(objKey 24 1 3, [0x9F, 0, 0, 0, 0x10000, 0, 0, 0, 0, 0, 0, 0, 0, 0, 0, 0])] }; let r : State := (arrived 1 34 p s).1; let u : State := inc (trnCtr h 1) r; let w : State := (takeCore h c (meetCtx h c u)).1; let x : Chan := chanOf w h c; let v : View := viewOf m u; let d : Nat := (p.psn - x.expect).toNat
    (arrived h 34 p s = (r, true)) ∧ (c = p.chan.toNat) ∧ (u = inc (trnCtr h 1) r) ∧ ((chanOf u h c).cached = true) ∧ (v = viewOf m u) ∧ (w = (takeCore h c (meetCtx h c u)).1) ∧ (x = chanOf w h c) ∧ (p.inc = x.inc) ∧ (p.src = x.peer) ∧ (x.unrel = false) ∧ (x.st ≠ .error) ∧ (d = (p.psn - x.expect).toNat) ∧ (d < 2048) ∧ (executedAt x d = false) ∧ (x.busy.any (fun q => q.psn == p.psn) = false) ∧ (heldBack x d p = true) ∧ quiet s (park h c p w) = true := by decide +kernel

set_option maxRecDepth 100000 in
theorem wit_ArrivalOfMessages_65 :
    let h : Nat := 1; let p : Packet := sealPkt { dest := 1, src := 5, cls := 0, mode := 0, lenCells := 0, ptype := 0x22, extMask := 8, ext := [0x55, 0, 7, 3, 16777216, 12288, 0, 9], payload := [], psn := 0, chan := 2, inc := 6 }; let m : HostView := {}; let c : Nat := 2; let s : State := { sOn with hs.ports := [(1, { st := .up })], hs.cqs := [(objKey 20 1 0, { active := true })], hs.chans := [(objKey 24 1 2, { st := .active, peer := 5, peerCh := 3, inc := 6, check := 4, cached := true, used := 1, t0 := 4, limit := 4, relaxed := true, rxMsn := 1 })], hs.bar := [(hostKey 1 0 0x20008, 0x100104), (hostKey 1 0 0x40010, 4)], hs.mrCache := [(objKey 24 1 3, [0x9F, 0, 0, 0, 0x10000, 0, 0, 0, 0, 0, 0, 0, 0, 0, 0, 0])] }; let r : State := (arrived 1 34 p s).1; let u : State := inc (trnCtr h 1) r; let w : State := (takeCore h c (meetCtx h c u)).1; let x : Chan := chanOf w h c; let v : View := viewOf m u; let d : Nat := (p.psn - x.expect).toNat; let y : State := w
    (arrived h 34 p s = (r, true)) ∧ (c = p.chan.toNat) ∧ (u = inc (trnCtr h 1) r) ∧ ((chanOf u h c).cached = true) ∧ (v = viewOf m u) ∧ (w = (takeCore h c (meetCtx h c u)).1) ∧ (x = chanOf w h c) ∧ (p.inc = x.inc) ∧ (p.src = x.peer) ∧ (x.unrel = false) ∧ (x.st ≠ .error) ∧ (d = (p.psn - x.expect).toNat) ∧ (d < 2048) ∧ (executedAt x d = false) ∧ (x.busy.any (fun q => q.psn == p.psn) = false) ∧ (heldBack x d p = false) ∧ ((if d = 0 ∨ x.window then (w, true) else freeSlots (boleOf h) (objKey 24 h c) 1 w) = (y, true)) ∧ (aliveOk x d p = false) ∧ quiet s (afterRx h c p v (.over, cvuFail h 4 p y)) = true := by decide +kernel

set_option maxRecDepth 100000 in
theorem wit_ArrivalOfMessages_66 :
    let h : Nat := 1; let p : Packet := sealPkt { dest := 1, src := 5, cls := 0, mode := 0, lenCells := 0, ptype := 0x22, extMask := 8, ext := [0x55, 0, 7, 3, 16777216, 12288, 0, 9], payload := [], psn := 0, chan := 2, inc := 6 }; let m : HostView := {}; let c : Nat := 2; let s : State := { sOn with hs.ports := [(1, { st := .up })], hs.cqs := [(objKey 20 1 0, { active := true })], hs.chans := [(objKey 24 1 2, { st := .active, peer := 5, peerCh := 3, inc := 6, check := 4, cached := true, used := 1, t0 := 4, limit := 4, relaxed := true, expect := 1 })], hs.bar := [(hostKey 1 0 0x20008, 0x100104), (hostKey 1 0 0x40010, 4)], hs.mrCache := [(objKey 24 1 3, [0x9F, 0, 0, 0, 0x10000, 0, 0, 0, 0, 0, 0, 0, 0, 0, 0, 0])] }; let r : State := (arrived 1 34 p s).1; let u : State := inc (trnCtr h 1) r; let w : State := (takeCore h c (meetCtx h c u)).1; let x : Chan := chanOf w h c; let v : View := viewOf m u
    (arrived h 34 p s = (r, true)) ∧ (c = p.chan.toNat) ∧ (u = inc (trnCtr h 1) r) ∧ ((chanOf u h c).cached = true) ∧ (v = viewOf m u) ∧ (w = (takeCore h c (meetCtx h c u)).1) ∧ (x = chanOf w h c) ∧ (p.inc = x.inc) ∧ (p.src = x.peer) ∧ (x.unrel = false) ∧ (x.st ≠ .error) ∧ (2 ^ 31 ≤ (p.psn - x.expect).toNat ∨ ((p.psn - x.expect).toNat < 2048 ∧ executedAt x (p.psn - x.expect).toNat = true)) ∧ (x.refused.all (fun e => e.1 != p.psn) = true) ∧ quiet s (afterRx h c p v (.over, sendAck h c p.psn 0 0 (inc (trnCtr h 6) w))) = true := by decide +kernel

set_option maxRecDepth 100000 in
theorem wit_CounterJobs_1 :
    let h : Nat := 1; let q : Nat := 0; let i : Word := 0; let j : Job := { id := 0, h := 1, q := 0, idx := 0, ents := [[3145735, 0, 0, 0, 0, 0, 0, 0, 0, 0, 0, 9, 0, 5, 0, 2147483648]] }; let c : Nat := 9; let s : State := { sOn with hs.ports := [(1, { st := .up, jobs := [{ id := 0, h := 1, q := 0, idx := 0, ents := [[3145735, 0, 0, 0, 0, 0, 0, 0, 0, 0, 0, 9, 0, 5, 0, 2147483648]] }], nextJob := 1 })], hs.wqs := [(objKey 20 1 0, { st := .active, priv := true, head := 1, tail := 1, order := [0] })], hs.cqs := [(objKey 20 1 0, { active := true })], hs.evctrs := [(objKey 16 1 4, { st := 1 })], hs.bar := [(hostKey 1 0 0x20008, 0x100104), (hostKey 1 0 0x40010, 4), (hostKey 1 0 0x1C000, 0x8000), (hostKey 1 0 0x1C008, 0x24)], hs.mrCache := [(objKey 24 1 3, [0x9F, 0, 0, 0, 0x10000, 0, 0, 0, 0, 0, 0, 0, 0, 0, 0, 0])] }
    (hostUp s h = true) ∧ (freshJob s h q i 48 = some j) ∧ (c = fAt (Job.op j) 11 0 16) ∧ ((evc (updJob h j.id (fun k => { k with begun := true }) s) h c).st = 0) ∧ quiet s (finishJob h ({ j with begun := true }) 0 0 0 (setEvc h c { st := 1, fn := fAt (Job.op j) 12 0 8, value := BitVec.ofNat 48 (u64 (Job.op j) 13) } (updJob h j.id (fun k => { k with begun := true }) s))) = true := by decide +kernel

set_option maxRecDepth 100000 in
theorem wit_CounterJobs_2 :
    let h : Nat := 1; let q : Nat := 0; let i : Word := 0; let j : Job := { id := 0, h := 1, q := 0, idx := 0, ents := [[3145735, 0, 0, 0, 0, 0, 0, 0, 0, 0, 0, 4, 0, 5, 0, 2147483648]] }; let c : Nat := 4; let s : State := { sOn with hs.ports := [(1, { st := .up, jobs := [{ id := 0, h := 1, q := 0, idx := 0, ents := [[3145735, 0, 0, 0, 0, 0, 0, 0, 0, 0, 0, 4, 0, 5, 0, 2147483648]] }], nextJob := 1 })], hs.wqs := [(objKey 20 1 0, { st := .active, priv := true, head := 1, tail := 1, order := [0] })], hs.cqs := [(objKey 20 1 0, { active := true })], hs.evctrs := [(objKey 16 1 4, { st := 1 })], hs.bar := [(hostKey 1 0 0x20008, 0x100104), (hostKey 1 0 0x40010, 4), (hostKey 1 0 0x1C000, 0x8000), (hostKey 1 0 0x1C008, 0x24)], hs.mrCache := [(objKey 24 1 3, [0x9F, 0, 0, 0, 0x10000, 0, 0, 0, 0, 0, 0, 0, 0, 0, 0, 0])] }
    (hostUp s h = true) ∧ (freshJob s h q i 48 = some j) ∧ (c = fAt (Job.op j) 11 0 16) ∧ ((evc (updJob h j.id (fun k => { k with begun := true }) s) h c).st ≠ 0) ∧ quiet s (malformed h ({ j with begun := true }) 9 (updJob h j.id (fun k => { k with begun := true }) s)) = true := by decide +kernel

set_option maxRecDepth 100000 in
theorem wit_CounterJobs_3 :
    let h : Nat := 1; let q : Nat := 0; let i : Word := 0; let j : Job := { id := 0, h := 1, q := 0, idx := 0, ents := [[3211271, 0, 0, 0, 0, 0, 0, 0, 0, 0, 0, 4, 0, 0, 0, 2147483648]] }; let c : Nat := 4; let s : State := { sOn with hs.ports := [(1, { st := .up, jobs := [{ id := 0, h := 1, q := 0, idx := 0, ents := [[3211271, 0, 0, 0, 0, 0, 0, 0, 0, 0, 0, 4, 0, 0, 0, 2147483648]] }], nextJob := 1 })], hs.wqs := [(objKey 20 1 0, { st := .active, priv := true, head := 1, tail := 1, order := [0] })], hs.cqs := [(objKey 20 1 0, { active := true })], hs.evctrs := [(objKey 16 1 4, { st := 1 })], hs.bar := [(hostKey 1 0 0x20008, 0x100104), (hostKey 1 0 0x40010, 4), (hostKey 1 0 0x1C000, 0x8000), (hostKey 1 0 0x1C008, 0x24)], hs.mrCache := [(objKey 24 1 3, [0x9F, 0, 0, 0, 0x10000, 0, 0, 0, 0, 0, 0, 0, 0, 0, 0, 0])] }; let g : State := meetCtr h c (updJob h j.id (fun k => { k with begun := true }) s)
    (hostUp s h = true) ∧ (freshJob s h q i 49 = some j) ∧ (c = fAt (Job.op j) 11 0 16) ∧ (g = meetCtr h c (updJob h j.id (fun k => { k with begun := true }) s)) ∧ ((evc g h c).st = 1) ∧ ((evc g h c).head = none) ∧ (mayActFor (wqOf g h j.q) (evc g h c).fn = true) ∧ quiet s (finishJob h ({ j with begun := true }) 0 0 0 (setEvc h c {} g)) = true := by decide +kernel

set_option maxRecDepth 100000 in
theorem wit_CounterJobs_4 :
    let h : Nat := 1; let q : Nat := 0; let i : Word := 0; let j : Job := { id := 0, h := 1, q := 0, idx := 0, ents := [[3211271, 0, 0, 0, 0, 0, 0, 0, 0, 0, 0, 4, 0, 0, 0, 2147483648]] }; let c : Nat := 4; let s : State := { sOn with hs.ports := [(1, { st := .up, jobs := [{ id := 0, h := 1, q := 0, idx := 0, ents := [[3211271, 0, 0, 0, 0, 0, 0, 0, 0, 0, 0, 4, 0, 0, 0, 2147483648]] }], nextJob := 1 })], hs.wqs := [(objKey 20 1 0, { st := .active, priv := true, head := 1, tail := 1, order := [0] })], hs.cqs := [(objKey 20 1 0, { active := true })], hs.evctrs := [(objKey 16 1 4, { st := 2 })], hs.bar := [(hostKey 1 0 0x20008, 0x100104), (hostKey 1 0 0x40010, 4), (hostKey 1 0 0x1C000, 0x8000), (hostKey 1 0 0x1C008, 0x24)], hs.mrCache := [(objKey 24 1 3, [0x9F, 0, 0, 0, 0x10000, 0, 0, 0, 0, 0, 0, 0, 0, 0, 0, 0])], hs.slots := [(slotKey 1 0 5, { st := 1, hdr := [17, 0, 4] })] }; let g : State := meetCtr h c (updJob h j.id (fun k => { k with begun := true }) s)
    (hostUp s h = true) ∧ (freshJob s h q i 49 = some j) ∧ (c = fAt (Job.op j) 11 0 16) ∧ (g = meetCtr h c (updJob h j.id (fun k => { k with begun := true }) s)) ∧ ((evc g h c).st = 2) ∧ (mayActFor (wqOf g h j.q) (evc g h c).fn = true) ∧ quiet s (finishJob h ({ j with begun := true }) 0 0 0 (setEvc h c {} { g with hs.slots := g.hs.slots.filter (fun e => !(e.2.st == 1 && e.1 / 2 ^ 28 == h && fAt e.2.hdr 0 2 1 == 0 && fAt e.2.hdr 2 0 16 == c)) })) = true := by decide +kernel

set_option maxRecDepth 100000 in
theorem wit_CounterJobs_5 :
    let h : Nat := 1; let q : Nat := 0; let i : Word := 0; let j : Job := { id := 0, h := 1, q := 0, idx := 0, ents := [[3211271, 0, 0, 0, 0, 0, 0, 0, 0, 0, 0, 4, 0, 0, 0, 2147483648]] }; let c : Nat := 4; let s : State := { sOn with hs.ports := [(1, { st := .up, jobs := [{ id := 0, h := 1, q := 0, idx := 0, ents := [[3211271, 0, 0, 0, 0, 0, 0, 0, 0, 0, 0, 4, 0, 0, 0, 2147483648]] }], nextJob := 1 })], hs.wqs := [(objKey 20 1 0, { st := .active, priv := true, head := 1, tail := 1, order := [0] })], hs.cqs := [(objKey 20 1 0, { active := true })], hs.evctrs := [(objKey 16 1 4, { st := 0 })], hs.bar := [(hostKey 1 0 0x20008, 0x100104), (hostKey 1 0 0x40010, 4), (hostKey 1 0 0x1C000, 0x8000), (hostKey 1 0 0x1C008, 0x24)], hs.mrCache := [(objKey 24 1 3, [0x9F, 0, 0, 0, 0x10000, 0, 0, 0, 0, 0, 0, 0, 0, 0, 0, 0])] }; let g : State := meetCtr h c (updJob h j.id (fun k => { k with begun := true }) s)
    (hostUp s h = true) ∧ (freshJob s h q i 49 = some j) ∧ (c = fAt (Job.op j) 11 0 16) ∧ (g = meetCtr h c (updJob h j.id (fun k => { k with begun := true }) s)) ∧ ((evc g h c).st = 0) ∧ quiet s (malformed h ({ j with begun := true }) 10 g) = true := by decide +kernel

set_option maxRecDepth 100000 in
theorem wit_CounterJobs_6 :
    let h : Nat := 1; let q : Nat := 0; let i : Word := 0; let j : Job := { id := 0, h := 1, q := 0, idx := 0, ents := [[3211271, 0, 0, 0, 0, 0, 0, 0, 0, 0, 0, 4, 0, 0, 0, 2147483648]] }; let c : Nat := 4; let s : State := { sOn with hs.ports := [(1, { st := .up, jobs := [{ id := 0, h := 1, q := 0, idx := 0, ents := [[3211271, 0, 0, 0, 0, 0, 0, 0, 0, 0, 0, 4, 0, 0, 0, 2147483648]] }], nextJob := 1 })], hs.wqs := [(objKey 20 1 0, { st := .active, priv := false, head := 1, tail := 1, order := [0] })], hs.cqs := [(objKey 20 1 0, { active := true })], hs.evctrs := [(objKey 16 1 4, { st := 1, fn := 3 })], hs.bar := [(hostKey 1 0 0x20008, 0x100104), (hostKey 1 0 0x40010, 4), (hostKey 1 0 0x1C000, 0x8000), (hostKey 1 0 0x1C008, 0x24)], hs.mrCache := [(objKey 24 1 3, [0x9F, 0, 0, 0, 0x10000, 0, 0, 0, 0, 0, 0, 0, 0, 0, 0, 0])] }; let g : State := meetCtr h c (updJob h j.id (fun k => { k with begun := true }) s)
    (hostUp s h = true) ∧ (freshJob s h q i 49 = some j) ∧ (c = fAt (Job.op j) 11 0 16) ∧ (g = meetCtr h c (updJob h j.id (fun k => { k with begun := true }) s)) ∧ ((evc g h c).st ≠ 0) ∧ (mayActFor (wqOf g h j.q) (evc g h c).fn = false) ∧ quiet s (malformed h ({ j with begun := true }) 2 g) = true := by decide +kernel

set_option maxRecDepth 100000 in
theorem wit_CounterJobs_7 :
    let h : Nat := 1; let q : Nat := 0; let i : Word := 0; let j : Job := { id := 0, h := 1, q := 0, idx := 0, ents := [[3211271, 0, 0, 0, 0, 0, 0, 0, 0, 0, 0, 4, 0, 0, 0, 2147483648]] }; let c : Nat := 4; let s : State := { sOn with hs.ports := [(1, { st := .up, jobs := [{ id := 0, h := 1, q := 0, idx := 0, ents := [[3211271, 0, 0, 0, 0, 0, 0, 0, 0, 0, 0, 4, 0, 0, 0, 2147483648]] }], nextJob := 1 })], hs.wqs := [(objKey 20 1 0, { st := .active, priv := true, head := 1, tail := 1, order := [0] })], hs.cqs := [(objKey 20 1 0, { active := true })], hs.evctrs := [(objKey 16 1 4, { st := 1, head := some (5, 9), tail := some (5, 9) })], hs.bar := [(hostKey 1 0 0x20008, 0x100104), (hostKey 1 0 0x40010, 4), (hostKey 1 0 0x1C000, 0x8000), (hostKey 1 0 0x1C008, 0x24)], hs.mrCache := [(objKey 24 1 3, [0x9F, 0, 0, 0, 0x10000, 0, 0, 0, 0, 0, 0, 0, 0, 0, 0, 0])] }; let g : State := meetCtr h c (updJob h j.id (fun k => { k with begun := true }) s)
    (hostUp s h = true) ∧ (freshJob s h q i 49 = some j) ∧ (c = fAt (Job.op j) 11 0 16) ∧ (g = meetCtr h c (updJob h j.id (fun k => { k with begun := true }) s)) ∧ ((evc g h c).st = 1) ∧ ((evc g h c).head ≠ none) ∧ (mayActFor (wqOf g h j.q) (evc g h c).fn = true) ∧ quiet s (malformed h ({ j with begun := true }) 9 g) = true := by decide +kernel

set_option maxRecDepth 100000 in
theorem wit_CounterJobs_8 :
    let h : Nat := 1; let q : Nat := 0; let i : Word := 0; let j : Job := { id := 0, h := 1, q := 0, idx := 0, ents := [[3276807, 0, 0, 0, 0, 0, 0, 0, 0, 0, 0, 4, 0, 7, 0, 2147483648]] }; let c : Nat := 4; let s : State := { sOn with hs.ports := [(1, { st := .up, jobs := [{ id := 0, h := 1, q := 0, idx := 0, ents := [[3276807, 0, 0, 0, 0, 0, 0, 0, 0, 0, 0, 4, 0, 7, 0, 2147483648]] }], nextJob := 1 })], hs.wqs := [(objKey 20 1 0, { st := .active, priv := true, head := 1, tail := 1, order := [0] })], hs.cqs := [(objKey 20 1 0, { active := true })], hs.evctrs := [(objKey 16 1 4, { st := 1 })], hs.bar := [(hostKey 1 0 0x20008, 0x100104), (hostKey 1 0 0x40010, 4), (hostKey 1 0 0x1C000, 0x8000), (hostKey 1 0 0x1C008, 0x24)], hs.mrCache := [(objKey 24 1 3, [0x9F, 0, 0, 0, 0x10000, 0, 0, 0, 0, 0, 0, 0, 0, 0, 0, 0])] }; let g : State := meetCtr h c (updJob h j.id (fun k => { k with begun := true }) s)
    (hostUp s h = true) ∧ (freshJob s h q i 50 = some j) ∧ (c = fAt (Job.op j) 11 0 16) ∧ (g = meetCtr h c (updJob h j.id (fun k => { k with begun := true }) s)) ∧ (ctrStatus g h (wqOf g h j.q) c = none) ∧ quiet s (finishJob h ({ j with begun := true }) 0 0 0 (fire h c (inc (ectCtr h 0) (setEvc h c { evc g h c with value := BitVec.ofNat 48 (u64 (Job.op j) 13), ecc := .good } g)))) = true := by decide +kernel

set_option maxRecDepth 100000 in
theorem wit_CounterJobs_9 :
    let h : Nat := 1; let q : Nat := 0; let i : Word := 0; let j : Job := { id := 0, h := 1, q := 0, idx := 0, ents := [[3342343, 0, 0, 0, 0, 0, 0, 0, 0, 0, 0, 4, 0, 2, 65535, 2147483648]] }; let c : Nat := 4; let s : State := { sOn with hs.ports := [(1, { st := .up, jobs := [{ id := 0, h := 1, q := 0, idx := 0, ents := [[3342343, 0, 0, 0, 0, 0, 0, 0, 0, 0, 0, 4, 0, 2, 65535, 2147483648]] }], nextJob := 1 })], hs.wqs := [(objKey 20 1 0, { st := .active, priv := true, head := 1, tail := 1, order := [0] })], hs.cqs := [(objKey 20 1 0, { active := true })], hs.evctrs := [(objKey 16 1 4, { st := 1, value := 0x000100000000 })], hs.bar := [(hostKey 1 0 0x20008, 0x100104), (hostKey 1 0 0x40010, 4), (hostKey 1 0 0x1C000, 0x8000), (hostKey 1 0 0x1C008, 0x24)], hs.mrCache := [(objKey 24 1 3, [0x9F, 0, 0, 0, 0x10000, 0, 0, 0, 0, 0, 0, 0, 0, 0, 0, 0])] }; let g : State := meetCtr h c (updJob h j.id (fun k => { k with begun := true }) s)
    (hostUp s h = true) ∧ (freshJob s h q i 51 = some j) ∧ (c = fAt (Job.op j) 11 0 16) ∧ (g = meetCtr h c (updJob h j.id (fun k => { k with begun := true }) s)) ∧ (ctrStatus g h (wqOf g h j.q) c = none) ∧ quiet s (finishJob h ({ j with begun := true }) 0 0 0 (fire h c (inc (ectCtr h 0) (setEvc h c { evc g h c with value := (evc g h c).value + BitVec.ofNat 48 (u64 (Job.op j) 13), ecc := .good } g)))) = true := by decide +kernel

set_option maxRecDepth 100000 in
theorem wit_CounterJobs_10 :
    let h : Nat := 1; let q : Nat := 0; let i : Word := 0; let j : Job := { id := 0, h := 1, q := 0, idx := 0, ents := [[3276807, 0, 0, 0, 0, 0, 0, 8, 0, 0, 0, 4, 0, 0, 0, 2147483648]] }; let c : Nat := 4; let k : Nat := 0x39; let s : State := { sOn with hs.ports := [(1, { st := .up, jobs := [{ id := 0, h := 1, q := 0, idx := 0, ents := [[3276807, 0, 0, 0, 0, 0, 0, 8, 0, 0, 0, 4, 0, 0, 0, 2147483648]] }], nextJob := 1 })], hs.wqs := [(objKey 20 1 0, { st := .active, priv := true, head := 1, tail := 1, order := [0] })], hs.cqs := [(objKey 20 1 0, { active := true })], hs.evctrs := [(objKey 16 1 4, { st := 2 })], hs.bar := [(hostKey 1 0 0x20008, 0x100104), (hostKey 1 0 0x40010, 4), (hostKey 1 0 0x1C000, 0x8000), (hostKey 1 0 0x1C008, 0x24)], hs.mrCache := [(objKey 24 1 3, [0x9F, 0, 0, 0, 0x10000, 0, 0, 0, 0, 0, 0, 0, 0, 0, 0, 0])] }; let g : State := meetCtr h c (updJob h j.id (fun k => { k with begun := true }) s)
    (hostUp s h = true) ∧ (freshJob s h q i 50 = some j) ∧ (c = fAt (Job.op j) 11 0 16) ∧ (g = meetCtr h c (updJob h j.id (fun k => { k with begun := true }) s)) ∧ (ctrStatus g h (wqOf g h j.q) c = some k) ∧ quiet s (finishJob h ({ j with begun := true }) k 0 0 g) = true := by decide +kernel

set_option maxRecDepth 100000 in
theorem wit_CounterJobs_11 :
    let h : Nat := 1; let q : Nat := 0; let i : Word := 0; let j : Job := { id := 0, h := 1, q := 0, idx := 0, ents := [[3342343, 0, 0, 0, 0, 0, 0, 8, 0, 0, 0, 4, 0, 0, 0, 2147483648]] }; let c : Nat := 4; let k : Nat := 0x38; let s : State := { sOn with hs.ports := [(1, { st := .up, jobs := [{ id := 0, h := 1, q := 0, idx := 0, ents := [[3342343, 0, 0, 0, 0, 0, 0, 8, 0, 0, 0, 4, 0, 0, 0, 2147483648]] }], nextJob := 1 })], hs.wqs := [(objKey 20 1 0, { st := .active, priv := true, head := 1, tail := 1, order := [0] })], hs.cqs := [(objKey 20 1 0, { active := true })], hs.evctrs := [(objKey 16 1 4, { st := 0 })], hs.bar := [(hostKey 1 0 0x20008, 0x100104), (hostKey 1 0 0x40010, 4), (hostKey 1 0 0x1C000, 0x8000), (hostKey 1 0 0x1C008, 0x24)], hs.mrCache := [(objKey 24 1 3, [0x9F, 0, 0, 0, 0x10000, 0, 0, 0, 0, 0, 0, 0, 0, 0, 0, 0])] }; let g : State := meetCtr h c (updJob h j.id (fun k => { k with begun := true }) s)
    (hostUp s h = true) ∧ (freshJob s h q i 51 = some j) ∧ (c = fAt (Job.op j) 11 0 16) ∧ (g = meetCtr h c (updJob h j.id (fun k => { k with begun := true }) s)) ∧ (ctrStatus g h (wqOf g h j.q) c = some k) ∧ quiet s (finishJob h ({ j with begun := true }) k 0 0 g) = true := by decide +kernel

set_option maxRecDepth 100000 in
theorem wit_CounterJobs_12 :
    let h : Nat := 1; let q : Nat := 0; let i : Word := 0; let m : HostView := {}; let j : Job := { id := 0, h := 1, q := 0, idx := 0, ents := [[3670023, 0, 0, 0, 0, 0, 0, 8, 0, 0, 0, 4, 0, 0, 0, 2147483648]] }; let c : Nat := 4; let k : Nat := 0x39; let s : State := { sOn with hs.ports := [(1, { st := .up, jobs := [{ id := 0, h := 1, q := 0, idx := 0, ents := [[3670023, 0, 0, 0, 0, 0, 0, 8, 0, 0, 0, 4, 0, 0, 0, 2147483648]] }], nextJob := 1 })], hs.wqs := [(objKey 20 1 0, { st := .active, priv := true, head := 1, tail := 1, order := [0] })], hs.cqs := [(objKey 20 1 0, { active := true })], hs.evctrs := [(objKey 16 1 4, { st := 2 })], hs.bar := [(hostKey 1 0 0x20008, 0x100104), (hostKey 1 0 0x40010, 4), (hostKey 1 0 0x1C000, 0x8000), (hostKey 1 0 0x1C008, 0x24)], hs.mrCache := [(objKey 24 1 3, [0x9F, 0, 0, 0, 0x10000, 0, 0, 0, 0, 0, 0, 0, 0, 0, 0, 0])] }; let g : State := meetCtr h c (updJob h j.id (fun k => { k with begun := true }) s)
    (hostUp s h = true) ∧ (freshJob s h q i 56 = some j) ∧ (c = fAt (Job.op j) 11 0 16) ∧ (g = meetCtr h c (updJob h j.id (fun k => { k with begun := true }) s)) ∧ (ctrStatus g h (wqOf g h j.q) c = some k) ∧ quiet s (finishJob h ({ j with begun := true }) k 0 0 g) = true := by decide +kernel

set_option maxRecDepth 100000 in
theorem wit_CounterJobs_13 :
    let h : Nat := 1; let q : Nat := 0; let i : Word := 0; let m : HostView := {}; let j : Job := { id := 0, h := 1, q := 0, idx := 0, ents := [[3670023, 0, 0, 0, 512, 0, 768, 8, 0, 0, 0, 4, 0, 0, 0, 2147483648]] }; let c : Nat := 4; let s : State := { sOn with hs.ports := [(1, { st := .up, jobs := [{ id := 0, h := 1, q := 0, idx := 0, ents := [[3670023, 0, 0, 0, 512, 0, 768, 8, 0, 0, 0, 4, 0, 0, 0, 2147483648]] }], nextJob := 1 })], hs.wqs := [(objKey 20 1 0, { st := .active, priv := true, head := 1, tail := 1, order := [0] })], hs.cqs := [(objKey 20 1 0, { active := true })], hs.evctrs := [(objKey 16 1 4, { st := 1, value := 0x123456789ABC })], hs.bar := [(hostKey 1 0 0x20008, 0x100104), (hostKey 1 0 0x40010, 4), (hostKey 1 0 0x1C000, 0x8000), (hostKey 1 0 0x1C008, 0x24)], hs.mrCache := [(objKey 24 1 3, [0x9F, 0, 0, 0, 0x10000, 0, 0, 0, 0, 0, 0, 0, 0, 0, 0, 0])] }; let g : State := meetCtr h c (updJob h j.id (fun k => { k with begun := true }) s); let u : State := (writeLocal h ({ j with begun := true }) 0 (leBytes 8 (evc g h c).value.toNat) (viewOf m s) g).2
    (hostUp s h = true) ∧ (freshJob s h q i 56 = some j) ∧ (c = fAt (Job.op j) 11 0 16) ∧ (g = meetCtr h c (updJob h j.id (fun k => { k with begun := true }) s)) ∧ (ctrStatus g h (wqOf g h j.q) c = none) ∧ (writeLocal h ({ j with begun := true }) 0 (leBytes 8 (evc g h c).value.toNat) (viewOf m s) g = (.ok (), u)) ∧ quiet s (finishJob h ({ j with begun := true }) 0 8 0 u) = true := by decide +kernel

set_option maxRecDepth 100000 in
theorem wit_CounterJobs_14 :
    let h : Nat := 1; let q : Nat := 0; let i : Word := 0; let m : HostView := {}; let j : Job := { id := 0, h := 1, q := 0, idx := 0, ents := [[3670023, 0, 0, 0, 512, 0, 20480, 8, 0, 0, 0, 4, 0, 0, 0, 2147483648]] }; let c : Nat := 4; let a : Acc Unit := .fail 1; let s : State := { sOn with hs.ports := [(1, { st := .up, jobs := [{ id := 0, h := 1, q := 0, idx := 0, ents := [[3670023, 0, 0, 0, 512, 0, 20480, 8, 0, 0, 0, 4, 0, 0, 0, 2147483648]] }], nextJob := 1 })], hs.wqs := [(objKey 20 1 0, { st := .active, priv := true, head := 1, tail := 1, order := [0] })], hs.cqs := [(objKey 20 1 0, { active := true })], hs.evctrs := [(objKey 16 1 4, { st := 1, value := 0x123456789ABC })], hs.bar := [(hostKey 1 0 0x20008, 0x100104), (hostKey 1 0 0x40010, 4), (hostKey 1 0 0x1C000, 0x8000), (hostKey 1 0 0x1C008, 0x24)], hs.mrCache := [(objKey 24 1 3, [0x9F, 0, 0, 0, 0x10000, 0, 0, 0, 0, 0, 0, 0, 0, 0, 0, 0])] }; let g : State := meetCtr h c (updJob h j.id (fun k => { k with begun := true }) s); let u : State := (writeLocal h ({ j with begun := true }) 0 (leBytes 8 (evc g h c).value.toNat) (viewOf m s) g).2
    (hostUp s h = true) ∧ (freshJob s h q i 56 = some j) ∧ (c = fAt (Job.op j) 11 0 16) ∧ (g = meetCtr h c (updJob h j.id (fun k => { k with begun := true }) s)) ∧ (ctrStatus g h (wqOf g h j.q) c = none) ∧ (writeLocal h ({ j with begun := true }) 0 (leBytes 8 (evc g h c).value.toNat) (viewOf m s) g = (a, u)) ∧ (a ≠ .ok ()) ∧ quiet s (failAcc h ({ j with begun := true }) 0 a u) = true := by decide +kernel

set_option maxRecDepth 100000 in
theorem wit_CounterJobs_15 :
    let h : Nat := 1; let q : Nat := 0; let i : Word := 0; let m : HostView := {}; let j : Job := { id := 0, h := 1, q := 0, idx := 0, ents := [[65543, 0, 0, 0, 0, 0, 0, 0, 0, 0, 0, 0, 0, 0, 0, 2147483648]], count := some (4, 3) }; let c : Nat × Nat := (4, 3); let s : State := { sOn with hs.ports := [(1, { st := .up, jobs := [{ id := 0, h := 1, q := 0, idx := 0, ents := [[65543, 0, 0, 0, 0, 0, 0, 0, 0, 0, 0, 0, 0, 0, 0, 2147483648]], count := some (4, 3) }], nextJob := 1 })], hs.wqs := [(objKey 20 1 0, { st := .active, priv := true, head := 1, tail := 1, order := [0] })], hs.cqs := [(objKey 20 1 0, { active := true })], hs.evctrs := [(objKey 16 1 4, { st := 1 })], hs.bar := [(hostKey 1 0 0x20008, 0x100104), (hostKey 1 0 0x40010, 4), (hostKey 1 0 0x1C000, 0x8000), (hostKey 1 0 0x1C008, 0x24)], hs.mrCache := [(objKey 24 1 3, [0x9F, 0, 0, 0, 0x10000, 0, 0, 0, 0, 0, 0, 0, 0, 0, 0, 0])] }; let g : State := meetCtr 1 4 s
    (hostUp s h = true) ∧ ((hport s h).jobs.find? (fun x => x.q == q && x.idx == i && !x.begun && Job.counted x) = some j) ∧ (j.count = some c) ∧ (g = meetCtr h c.1 s) ∧ (ctrStatus g h (wqOf g h q) c.1 = none) ∧ quiet s (beginJob h j m g) = true := by decide +kernel

set_option maxRecDepth 100000 in
theorem wit_CounterJobs_16 :
    let h : Nat := 1; let q : Nat := 0; let i : Word := 0; let m : HostView := {}; let j : Job := { id := 0, h := 1, q := 0, idx := 0, ents := [[65543, 0, 0, 0, 0, 0, 0, 0, 0, 0, 0, 0, 0, 0, 0, 2147483648]], count := some (4, 3) }; let c : Nat × Nat := (4, 3); let s : State := { sOn with hs.ports := [(1, { st := .up, jobs := [{ id := 0, h := 1, q := 0, idx := 0, ents := [[65543, 0, 0, 0, 0, 0, 0, 0, 0, 0, 0, 0, 0, 0, 0, 2147483648]], count := some (4, 3) }], nextJob := 1 })], hs.wqs := [(objKey 20 1 0, { st := .active, priv := true, head := 1, tail := 1, order := [0] })], hs.cqs := [(objKey 20 1 0, { active := true })], hs.evctrs := [(objKey 16 1 4, { st := 1 })], hs.bar := [(hostKey 1 0 0x20008, 0x100104), (hostKey 1 0 0x40010, 4), (hostKey 1 0 0x1C000, 0x8000), (hostKey 1 0 0x1C008, 0x24)], hs.mrCache := [(objKey 24 1 3, [0x9F, 0, 0, 0, 0x10000, 0, 0, 0, 0, 0, 0, 0, 0, 0, 0, 0])] }; let g : State := meetCtr 1 4 s
    (hostUp s h = true) ∧ ((hport s h).jobs.find? (fun x => x.q == q && x.idx == i && !x.begun && Job.counted x) = some j) ∧ (j.count = some c) ∧ (g = meetCtr h c.1 s) ∧ (ctrStatus g h (wqOf g h q) c.1 = none) ∧ (Job.opcode j = 1) ∧ quiet s (finishJob h ({ j with begun := true }) 0 0 0 (updJob h j.id (fun k => { k with begun := true }) g)) = true := by decide +kernel

set_option maxRecDepth 100000 in
theorem wit_CounterJobs_17 :
    let h : Nat := 1; let q : Nat := 0; let i : Word := 0; let m : HostView := {}; let j : Job := { id := 0, h := 1, q := 0, idx := 0, ents := [[65543, 0, 0, 0, 0, 0, 0, 0, 0, 0, 0, 0, 0, 0, 0, 2147483648]], count := some (4, 3) }; let c : Nat × Nat := (4, 3); let k : Nat := 0x39; let s : State := { sOn with hs.ports := [(1, { st := .up, jobs := [{ id := 0, h := 1, q := 0, idx := 0, ents := [[65543, 0, 0, 0, 0, 0, 0, 0, 0, 0, 0, 0, 0, 0, 0, 2147483648]], count := some (4, 3) }], nextJob := 1 })], hs.wqs := [(objKey 20 1 0, { st := .active, priv := true, head := 1, tail := 1, order := [0] })], hs.cqs := [(objKey 20 1 0, { active := true })], hs.evctrs := [(objKey 16 1 4, { st := 2 })], hs.bar := [(hostKey 1 0 0x20008, 0x100104), (hostKey 1 0 0x40010, 4), (hostKey 1 0 0x1C000, 0x8000), (hostKey 1 0 0x1C008, 0x24)], hs.mrCache := [(objKey 24 1 3, [0x9F, 0, 0, 0, 0x10000, 0, 0, 0, 0, 0, 0, 0, 0, 0, 0, 0])] }; let g : State := meetCtr 1 4 s
    (hostUp s h = true) ∧ ((hport s h).jobs.find? (fun x => x.q == q && x.idx == i && !x.begun && Job.counted x) = some j) ∧ (j.count = some c) ∧ (g = meetCtr h c.1 s) ∧ (ctrStatus g h (wqOf g h q) c.1 = some k) ∧ quiet s (finishJob h j k 0 0 g) = true := by decide +kernel

set_option maxRecDepth 100000 in
theorem wit_CounterJobs_18 :
    let h : Nat := 1; let q : Nat := 0; let i : Word := 5; let m : HostView := {}; let s : State := sOn
    (hostUp s h = false ∨ (hport s h).jobs.find? (fun x => x.q == q && x.idx == i && !x.begun && Job.counted x) = none) ∧ quiet s (s) = true := by decide +kernel

theorem wit_CounterJobs_19 :
    let h : Nat := 1; let q : Nat := 0; let i : Word := 5; let s : State := sOn
    (hostUp s h = false ∨ freshJob s h q i 48 = none) ∧ quiet s (s) = true := by decide

theorem wit_CounterJobs_20 :
    let h : Nat := 1; let q : Nat := 0; let i : Word := 5; let s : State := sOn
    (hostUp s h = false ∨ freshJob s h q i 49 = none) ∧ quiet s (s) = true := by decide

theorem wit_CounterJobs_21 :
    let h : Nat := 1; let q : Nat := 0; let i : Word := 5; let s : State := sOn
    (hostUp s h = false ∨ freshJob s h q i 50 = none) ∧ quiet s (s) = true := by decide

theorem wit_CounterJobs_22 :
    let h : Nat := 1; let q : Nat := 0; let i : Word := 5; let s : State := sOn
    (hostUp s h = false ∨ freshJob s h q i 51 = none) ∧ quiet s (s) = true := by decide

theorem wit_CounterJobs_23 :
    let h : Nat := 1; let q : Nat := 0; let i : Word := 5; let m : HostView := {}; let s : State := sOn
    (hostUp s h = false ∨ freshJob s h q i 56 = none) ∧ quiet s (s) = true := by decide

set_option maxRecDepth 100000 in
theorem wit_Triggers_1 :
    let h : Nat := 1; let q : Nat := 0; let i : Word := 0; let m : HostView := {}; let j : Job := { id := 0, h := 1, q := 0, idx := 0, ents := [[3473415, 33554434, 0, 0, 0, 0, 0, 0, 0, 0, 0, 589828, 0, 0, 5, 2147483648], [65541, 0, 0, 0, 0, 0, 0, 0, 0, 0, 0, 0, 0, 0, 0, 2147483648]] }; let fn : Nat := 0; let k : Nat := 5; let s : State := { sOn with hs.ports := [(1, { st := .up, jobs := [{ id := 0, h := 1, q := 0, idx := 0, ents := [[3473415, 33554434, 0, 0, 0, 0, 0, 0, 0, 0, 0, 589828, 0, 0, 5, 2147483648], [65541, 0, 0, 0, 0, 0, 0, 0, 0, 0, 0, 0, 0, 0, 0, 2147483648]] }], nextJob := 1 })], hs.wqs := [(objKey 20 1 0, { st := .active, priv := true, head := 1, tail := 1, order := [0] })], hs.cqs := [(objKey 20 1 0, { active := true })], hs.evctrs := [(objKey 16 1 4, { st := 1 })], hs.bar := [(hostKey 1 0 0x20008, 0x100104), (hostKey 1 0 0x40010, 4), (hostKey 1 0 0x1C000, 0x8000), (hostKey 1 0 0x1C008, 0x04)], hs.mrCache := [(objKey 24 1 3, [0x9F, 0, 0, 0, 0x10000, 0, 0, 0, 0, 0, 0, 0, 0, 0, 0, 0])] }; let g : State := (if bAt (Job.op j) 14 20 then meetCtr h (fAt (Job.op j) 11 16 16) (if Job.subop j = 1 then meetCtr h (fAt (Job.op j) 11 0 16) (updJob h j.id (fun k => { k with begun := true }) s) else (updJob h j.id (fun k => { k with begun := true }) s)) else (if Job.subop j = 1 then meetCtr h (fAt (Job.op j) 11 0 16) (updJob h j.id (fun k => { k with begun := true }) s) else (updJob h j.id (fun k => { k with begun := true }) s)))
    (hostUp s h = true) ∧ (freshJob s h q i 53 = some j) ∧ (g = (if bAt (Job.op j) 14 20 then meetCtr h (fAt (Job.op j) 11 16 16) (if Job.subop j = 1 then meetCtr h (fAt (Job.op j) 11 0 16) (updJob h j.id (fun k => { k with begun := true }) s) else (updJob h j.id (fun k => { k with begun := true }) s)) else (if Job.subop j = 1 then meetCtr h (fAt (Job.op j) 11 0 16) (updJob h j.id (fun k => { k with begun := true }) s) else (updJob h j.id (fun k => { k with begun := true }) s)))) ∧ (fn = (wqOf g h j.q).fn) ∧ (k = fAt (Job.op j) 14 0 20) ∧ (poolOn g h fn = false ∨ poolSlots g h fn ≤ k) ∧ quiet s (finishJob h ({ j with begun := true }) 0x3B 0 0 g) = true := by decide +kernel

set_option maxRecDepth 100000 in
theorem wit_Triggers_2 :
    let h : Nat := 1; let q : Nat := 0; let i : Word := 0; let m : HostView := {}; let j : Job := { id := 0, h := 1, q := 0, idx := 0, ents := [[3473415, 16777216, 0, 0, 0, 0, 0, 0, 0, 0, 0, 589828, 0, 0, 5, 2147483648], [65541, 0, 0, 0, 0, 0, 0, 0, 0, 0, 0, 0, 0, 0, 0, 2147483648]] }; let fn : Nat := 0; let k : Nat := 5; let x : Nat := 0x39; let s : State := { sOn with hs.ports := [(1, { st := .up, jobs := [{ id := 0, h := 1, q := 0, idx := 0, ents := [[3473415, 16777216, 0, 0, 0, 0, 0, 0, 0, 0, 0, 589828, 0, 0, 5, 2147483648], [65541, 0, 0, 0, 0, 0, 0, 0, 0, 0, 0, 0, 0, 0, 0, 2147483648]] }], nextJob := 1 })], hs.wqs := [(objKey 20 1 0, { st := .active, priv := true, head := 1, tail := 1, order := [0] })], hs.cqs := [(objKey 20 1 0, { active := true })], hs.evctrs := [(objKey 16 1 4, { st := 2 })], hs.bar := [(hostKey 1 0 0x20008, 0x100104), (hostKey 1 0 0x40010, 4), (hostKey 1 0 0x1C000, 0x8000), (hostKey 1 0 0x1C008, 0x24)], hs.mrCache := [(objKey 24 1 3, [0x9F, 0, 0, 0, 0x10000, 0, 0, 0, 0, 0, 0, 0, 0, 0, 0, 0])] }; let g : State := (if bAt (Job.op j) 14 20 then meetCtr h (fAt (Job.op j) 11 16 16) (if Job.subop j = 1 then meetCtr h (fAt (Job.op j) 11 0 16) (updJob h j.id (fun k => { k with begun := true }) s) else (updJob h j.id (fun k => { k with begun := true }) s)) else (if Job.subop j = 1 then meetCtr h (fAt (Job.op j) 11 0 16) (updJob h j.id (fun k => { k with begun := true }) s) else (updJob h j.id (fun k => { k with begun := true }) s)))
    (hostUp s h = true) ∧ (freshJob s h q i 53 = some j) ∧ (g = (if bAt (Job.op j) 14 20 then meetCtr h (fAt (Job.op j) 11 16 16) (if Job.subop j = 1 then meetCtr h (fAt (Job.op j) 11 0 16) (updJob h j.id (fun k => { k with begun := true }) s) else (updJob h j.id (fun k => { k with begun := true }) s)) else (if Job.subop j = 1 then meetCtr h (fAt (Job.op j) 11 0 16) (updJob h j.id (fun k => { k with begun := true }) s) else (updJob h j.id (fun k => { k with begun := true }) s)))) ∧ (fn = (wqOf g h j.q).fn) ∧ (k = fAt (Job.op j) 14 0 20) ∧ (poolOn g h fn = true) ∧ (k < poolSlots g h fn) ∧ (Job.subop j = 1) ∧ (ctrStatus g h (wqOf g h j.q) (fAt (Job.op j) 11 0 16) = some x) ∧ quiet s (finishJob h ({ j with begun := true }) x 0 0 g) = true := by decide +kernel

set_option maxRecDepth 100000 in
theorem wit_Triggers_3 :
    let h : Nat := 1; let q : Nat := 0; let i : Word := 0; let m : HostView := {}; let j : Job := { id := 0, h := 1, q := 0, idx := 0, ents := [[3473415, 33554434, 0, 0, 0, 0, 0, 0, 0, 0, 0, 589828, 0, 0, 1048581, 2147483648], [65541, 0, 0, 0, 0, 0, 0, 0, 0, 0, 0, 0, 0, 0, 0, 2147483648]] }; let fn : Nat := 0; let k : Nat := 5; let x : Nat := 0x38; let s : State := { sOn with hs.ports := [(1, { st := .up, jobs := [{ id := 0, h := 1, q := 0, idx := 0, ents := [[3473415, 33554434, 0, 0, 0, 0, 0, 0, 0, 0, 0, 589828, 0, 0, 1048581, 2147483648], [65541, 0, 0, 0, 0, 0, 0, 0, 0, 0, 0, 0, 0, 0, 0, 2147483648]] }], nextJob := 1 })], hs.wqs := [(objKey 20 1 0, { st := .active, priv := true, head := 1, tail := 1, order := [0] })], hs.cqs := [(objKey 20 1 0, { active := true })], hs.evctrs := [(objKey 16 1 4, { st := 1 })], hs.bar := [(hostKey 1 0 0x20008, 0x100104), (hostKey 1 0 0x40010, 4), (hostKey 1 0 0x1C000, 0x8000), (hostKey 1 0 0x1C008, 0x24)], hs.mrCache := [(objKey 24 1 3, [0x9F, 0, 0, 0, 0x10000, 0, 0, 0, 0, 0, 0, 0, 0, 0, 0, 0])] }; let g : State := (if bAt (Job.op j) 14 20 then meetCtr h (fAt (Job.op j) 11 16 16) (if Job.subop j = 1 then meetCtr h (fAt (Job.op j) 11 0 16) (updJob h j.id (fun k => { k with begun := true }) s) else (updJob h j.id (fun k => { k with begun := true }) s)) else (if Job.subop j = 1 then meetCtr h (fAt (Job.op j) 11 0 16) (updJob h j.id (fun k => { k with begun := true }) s) else (updJob h j.id (fun k => { k with begun := true }) s)))
    (hostUp s h = true) ∧ (freshJob s h q i 53 = some j) ∧ (g = (if bAt (Job.op j) 14 20 then meetCtr h (fAt (Job.op j) 11 16 16) (if Job.subop j = 1 then meetCtr h (fAt (Job.op j) 11 0 16) (updJob h j.id (fun k => { k with begun := true }) s) else (updJob h j.id (fun k => { k with begun := true }) s)) else (if Job.subop j = 1 then meetCtr h (fAt (Job.op j) 11 0 16) (updJob h j.id (fun k => { k with begun := true }) s) else (updJob h j.id (fun k => { k with begun := true }) s)))) ∧ (fn = (wqOf g h j.q).fn) ∧ (k = fAt (Job.op j) 14 0 20) ∧ (poolOn g h fn = true) ∧ (k < poolSlots g h fn) ∧ (Job.subop j = 1 → ctrStatus g h (wqOf g h j.q) (fAt (Job.op j) 11 0 16) = none) ∧ (bAt (Job.op j) 14 20 = true) ∧ (ctrStatus g h (wqOf g h j.q) (fAt (Job.op j) 11 16 16) = some x) ∧ quiet s (finishJob h ({ j with begun := true }) x 0 0 g) = true := by decide +kernel

set_option maxRecDepth 100000 in
theorem wit_Triggers_4 :
    let h : Nat := 1; let q : Nat := 0; let i : Word := 0; let m : HostView := { spans := [(0x9400, 1 :: List.replicate 63 0)] }; let j : Job := { id := 0, h := 1, q := 0, idx := 0, ents := [[3473415, 33554434, 0, 0, 0, 0, 0, 0, 0, 0, 0, 589828, 0, 0, 5, 2147483648], [65541, 0, 0, 0, 0, 0, 0, 0, 0, 0, 0, 0, 0, 0, 0, 2147483648]] }; let fn : Nat := 0; let k : Nat := 5; let d : List Word := [1, 0, 0, 0, 0, 0, 0, 0, 0, 0, 0, 0, 0, 0, 0, 0]; let s : State := { sOn with hs.ports := [(1, { st := .up, jobs := [{ id := 0, h := 1, q := 0, idx := 0, ents := [[3473415, 33554434, 0, 0, 0, 0, 0, 0, 0, 0, 0, 589828, 0, 0, 5, 2147483648], [65541, 0, 0, 0, 0, 0, 0, 0, 0, 0, 0, 0, 0, 0, 0, 2147483648]] }], nextJob := 1 })], hs.wqs := [(objKey 20 1 0, { st := .active, priv := true, head := 1, tail := 1, order := [0] })], hs.cqs := [(objKey 20 1 0, { active := true })], hs.evctrs := [(objKey 16 1 4, { st := 1 })], hs.bar := [(hostKey 1 0 0x20008, 0x100104), (hostKey 1 0 0x40010, 4), (hostKey 1 0 0x1C000, 0x8000), (hostKey 1 0 0x1C008, 0x24)], hs.mrCache := [(objKey 24 1 3, [0x9F, 0, 0, 0, 0x10000, 0, 0, 0, 0, 0, 0, 0, 0, 0, 0, 0])] }; let g : State := (if bAt (Job.op j) 14 20 then meetCtr h (fAt (Job.op j) 11 16 16) (if Job.subop j = 1 then meetCtr h (fAt (Job.op j) 11 0 16) (updJob h j.id (fun k => { k with begun := true }) s) else (updJob h j.id (fun k => { k with begun := true }) s)) else (if Job.subop j = 1 then meetCtr h (fAt (Job.op j) 11 0 16) (updJob h j.id (fun k => { k with begun := true }) s) else (updJob h j.id (fun k => { k with begun := true }) s))); let a : State := (readSlot h fn k 16 (.job j.id) (viewOf m s) g).2
    (hostUp s h = true) ∧ (freshJob s h q i 53 = some j) ∧ (g = (if bAt (Job.op j) 14 20 then meetCtr h (fAt (Job.op j) 11 16 16) (if Job.subop j = 1 then meetCtr h (fAt (Job.op j) 11 0 16) (updJob h j.id (fun k => { k with begun := true }) s) else (updJob h j.id (fun k => { k with begun := true }) s)) else (if Job.subop j = 1 then meetCtr h (fAt (Job.op j) 11 0 16) (updJob h j.id (fun k => { k with begun := true }) s) else (updJob h j.id (fun k => { k with begun := true }) s)))) ∧ (fn = (wqOf g h j.q).fn) ∧ (k = fAt (Job.op j) 14 0 20) ∧ (poolOn g h fn = true) ∧ (k < poolSlots g h fn) ∧ (Job.subop j = 1 → ctrStatus g h (wqOf g h j.q) (fAt (Job.op j) 11 0 16) = none) ∧ (bAt (Job.op j) 14 20 = true → ctrStatus g h (wqOf g h j.q) (fAt (Job.op j) 11 16 16) = none) ∧ (readSlot h fn k 16 (.job j.id) (viewOf m s) g = (.ok d, a)) ∧ (wAt d 0 ≠ 0) ∧ quiet s (finishJob h ({ j with begun := true }) 0x3C 0 0 a) = true := by decide +kernel

set_option maxRecDepth 100000 in
theorem wit_Triggers_5 :
    let h : Nat := 1; let q : Nat := 0; let i : Word := 0; let m : HostView := { spans := [(0x9400, List.replicate 64 0)] }; let j : Job := { id := 0, h := 1, q := 0, idx := 0, ents := [[3473415, 16777216, 0, 0, 0, 0, 0, 0, 0, 0, 0, 589828, 3, 0, 5, 2147483648], [65541, 0, 0, 0, 0, 0, 0, 0, 0, 0, 0, 0, 0, 0, 0, 2147483648]] }; let fn : Nat := 0; let k : Nat := 5; let d : List Word := [0, 0, 0, 0, 0, 0, 0, 0, 0, 0, 0, 0, 0, 0, 0, 0]; let s : State := { sOn with hs.ports := [(1, { st := .up, jobs := [{ id := 0, h := 1, q := 0, idx := 0, ents := [[3473415, 16777216, 0, 0, 0, 0, 0, 0, 0, 0, 0, 589828, 3, 0, 5, 2147483648], [65541, 0, 0, 0, 0, 0, 0, 0, 0, 0, 0, 0, 0, 0, 0, 2147483648]] }], nextJob := 1 })], hs.wqs := [(objKey 20 1 0, { st := .active, priv := true, head := 1, tail := 1, order := [0] })], hs.cqs := [(objKey 20 1 0, { active := true })], hs.evctrs := [(objKey 16 1 4, { st := 1, tail := some (7, 9), head := some (7, 9) })], hs.bar := [(hostKey 1 0 0x20008, 0x100104), (hostKey 1 0 0x40010, 4), (hostKey 1 0 0x1C000, 0x8000), (hostKey 1 0 0x1C008, 0x24)], hs.mrCache := [(objKey 24 1 3, [0x9F, 0, 0, 0, 0x10000, 0, 0, 0, 0, 0, 0, 0, 0, 0, 0, 0])], hs.slots := [(slotKey 1 0 7, { st := 1 })] }; let g : State := (if bAt (Job.op j) 14 20 then meetCtr h (fAt (Job.op j) 11 16 16) (if Job.subop j = 1 then meetCtr h (fAt (Job.op j) 11 0 16) (updJob h j.id (fun k => { k with begun := true }) s) else (updJob h j.id (fun k => { k with begun := true }) s)) else (if Job.subop j = 1 then meetCtr h (fAt (Job.op j) 11 0 16) (updJob h j.id (fun k => { k with begun := true }) s) else (updJob h j.id (fun k => { k with begun := true }) s))); let a : State := (readSlot h fn k 16 (.job j.id) (viewOf m s) g).2
    (hostUp s h = true) ∧ (freshJob s h q i 53 = some j) ∧ (g = (if bAt (Job.op j) 14 20 then meetCtr h (fAt (Job.op j) 11 16 16) (if Job.subop j = 1 then meetCtr h (fAt (Job.op j) 11 0 16) (updJob h j.id (fun k => { k with begun := true }) s) else (updJob h j.id (fun k => { k with begun := true }) s)) else (if Job.subop j = 1 then meetCtr h (fAt (Job.op j) 11 0 16) (updJob h j.id (fun k => { k with begun := true }) s) else (updJob h j.id (fun k => { k with begun := true }) s)))) ∧ (fn = (wqOf g h j.q).fn) ∧ (k = fAt (Job.op j) 14 0 20) ∧ (poolOn g h fn = true) ∧ (k < poolSlots g h fn) ∧ (Job.subop j = 1 → ctrStatus g h (wqOf g h j.q) (fAt (Job.op j) 11 0 16) = none) ∧ (bAt (Job.op j) 14 20 = true → ctrStatus g h (wqOf g h j.q) (fAt (Job.op j) 11 16 16) = none) ∧ (readSlot h fn k 16 (.job j.id) (viewOf m s) g = (.ok d, a)) ∧ (wAt d 0 = 0) ∧ (Job.subop j = 1) ∧ ((evc a h (fAt (Job.op j) 11 0 16)).tail.any (fun o => decide (2 ^ 47 ≤ (BitVec.ofNat 48 (u64 (Job.op j) 12) - o.2).toNat)) = true) ∧ quiet s (finishJob h ({ j with begun := true }) 0x3A 0 0 a) = true := by decide +kernel

set_option maxRecDepth 100000 in
theorem wit_Triggers_6 :
    let h : Nat := 1; let q : Nat := 0; let i : Word := 0; let m : HostView := { spans := [(0x9400, List.replicate 64 0)] }; let j : Job := { id := 0, h := 1, q := 0, idx := 0, ents := [[3473415, 33554434, 0, 0, 0, 0, 0, 0, 0, 0, 0, 589828, 0, 0, 5, 2147483648], [65541, 0, 0, 0, 0, 0, 0, 0, 0, 0, 0, 0, 0, 0, 0, 2147483648]] }; let fn : Nat := 0; let k : Nat := 5; let d : List Word := [0, 0, 0, 0, 0, 0, 0, 0, 0, 0, 0, 0, 0, 0, 0, 0]; let s : State := { sOn with hs.ports := [(1, { st := .up, jobs := [{ id := 0, h := 1, q := 0, idx := 0, ents := [[3473415, 33554434, 0, 0, 0, 0, 0, 0, 0, 0, 0, 589828, 0, 0, 5, 2147483648], [65541, 0, 0, 0, 0, 0, 0, 0, 0, 0, 0, 0, 0, 0, 0, 2147483648]] }], nextJob := 1 })], hs.wqs := [(objKey 20 1 0, { st := .active, priv := true, head := 1, tail := 1, order := [0] })], hs.cqs := [(objKey 20 1 0, { active := true })], hs.evctrs := [(objKey 16 1 4, { st := 1 })], hs.bar := [(hostKey 1 0 0x20008, 0x100104), (hostKey 1 0 0x40010, 4), (hostKey 1 0 0x1C000, 0x8000), (hostKey 1 0 0x1C008, 0x24)], hs.mrCache := [(objKey 24 1 3, [0x9F, 0, 0, 0, 0x10000, 0, 0, 0, 0, 0, 0, 0, 0, 0, 0, 0])] }; let g : State := (if bAt (Job.op j) 14 20 then meetCtr h (fAt (Job.op j) 11 16 16) (if Job.subop j = 1 then meetCtr h (fAt (Job.op j) 11 0 16) (updJob h j.id (fun k => { k with begun := true }) s) else (updJob h j.id (fun k => { k with begun := true }) s)) else (if Job.subop j = 1 then meetCtr h (fAt (Job.op j) 11 0 16) (updJob h j.id (fun k => { k with begun := true }) s) else (updJob h j.id (fun k => { k with begun := true }) s))); let a : State := (readSlot h fn k 16 (.job j.id) (viewOf m s) g).2; let b : State := hostWr h fn (slotAddr a h fn k + 64) ((j.ents.drop 1).flatMap (fun e => wBytes (padW 16 e))) false a
    (hostUp s h = true) ∧ (freshJob s h q i 53 = some j) ∧ (g = (if bAt (Job.op j) 14 20 then meetCtr h (fAt (Job.op j) 11 16 16) (if Job.subop j = 1 then meetCtr h (fAt (Job.op j) 11 0 16) (updJob h j.id (fun k => { k with begun := true }) s) else (updJob h j.id (fun k => { k with begun := true }) s)) else (if Job.subop j = 1 then meetCtr h (fAt (Job.op j) 11 0 16) (updJob h j.id (fun k => { k with begun := true }) s) else (updJob h j.id (fun k => { k with begun := true }) s)))) ∧ (fn = (wqOf g h j.q).fn) ∧ (k = fAt (Job.op j) 14 0 20) ∧ (poolOn g h fn = true) ∧ (k < poolSlots g h fn) ∧ (Job.subop j = 1 → ctrStatus g h (wqOf g h j.q) (fAt (Job.op j) 11 0 16) = none) ∧ (bAt (Job.op j) 14 20 = true → ctrStatus g h (wqOf g h j.q) (fAt (Job.op j) 11 16 16) = none) ∧ (readSlot h fn k 16 (.job j.id) (viewOf m s) g = (.ok d, a)) ∧ (wAt d 0 = 0) ∧ (Job.subop j ≠ 1) ∧ (b = hostWr h fn (slotAddr a h fn k + 64) ((j.ents.drop 1).flatMap (fun e => wBytes (padW 16 e))) false a) ∧ quiet s (finishJob h ({ j with begun := true }) 0 0 0 (inc (ectCtr h 2) (setSlot h fn k { st := 1, hdr := armHeader (Job.op j) j.q (j.ents.drop 1).length, ents := j.ents.drop 1 } (hostWr h fn (slotAddr b h fn k) (wBytes (armHeader (Job.op j) j.q (j.ents.drop 1).length)) false b)))) = true := by decide +kernel

set_option maxRecDepth 100000 in
theorem wit_Triggers_7 :
    let h : Nat := 1; let q : Nat := 0; let i : Word := 0; let m : HostView := { spans := [(0x9400, List.replicate 64 0)] }; let j : Job := { id := 0, h := 1, q := 0, idx := 0, ents := [[3473415, 16777216, 0, 0, 0, 0, 0, 0, 0, 0, 0, 589828, 3, 0, 5, 2147483648], [65541, 0, 0, 0, 0, 0, 0, 0, 0, 0, 0, 0, 0, 0, 0, 2147483648]] }; let fn : Nat := 0; let k : Nat := 5; let d : List Word := [0, 0, 0, 0, 0, 0, 0, 0, 0, 0, 0, 0, 0, 0, 0, 0]; let s : State := { sOn with hs.ports := [(1, { st := .up, jobs := [{ id := 0, h := 1, q := 0, idx := 0, ents := [[3473415, 16777216, 0, 0, 0, 0, 0, 0, 0, 0, 0, 589828, 3, 0, 5, 2147483648], [65541, 0, 0, 0, 0, 0, 0, 0, 0, 0, 0, 0, 0, 0, 0, 2147483648]] }], nextJob := 1 })], hs.wqs := [(objKey 20 1 0, { st := .active, priv := true, head := 1, tail := 1, order := [0] })], hs.cqs := [(objKey 20 1 0, { active := true })], hs.evctrs := [(objKey 16 1 4, { st := 1 })], hs.bar := [(hostKey 1 0 0x20008, 0x100104), (hostKey 1 0 0x40010, 4), (hostKey 1 0 0x1C000, 0x8000), (hostKey 1 0 0x1C008, 0x24)], hs.mrCache := [(objKey 24 1 3, [0x9F, 0, 0, 0, 0x10000, 0, 0, 0, 0, 0, 0, 0, 0, 0, 0, 0])] }; let g : State := (if bAt (Job.op j) 14 20 then meetCtr h (fAt (Job.op j) 11 16 16) (if Job.subop j = 1 then meetCtr h (fAt (Job.op j) 11 0 16) (updJob h j.id (fun k => { k with begun := true }) s) else (updJob h j.id (fun k => { k with begun := true }) s)) else (if Job.subop j = 1 then meetCtr h (fAt (Job.op j) 11 0 16) (updJob h j.id (fun k => { k with begun := true }) s) else (updJob h j.id (fun k => { k with begun := true }) s))); let a : State := (readSlot h fn k 16 (.job j.id) (viewOf m s) g).2; let b : State := hostWr h fn (slotAddr a h fn k + 64) ((j.ents.drop 1).flatMap (fun e => wBytes (padW 16 e))) false a
    (hostUp s h = true) ∧ (freshJob s h q i 53 = some j) ∧ (g = (if bAt (Job.op j) 14 20 then meetCtr h (fAt (Job.op j) 11 16 16) (if Job.subop j = 1 then meetCtr h (fAt (Job.op j) 11 0 16) (updJob h j.id (fun k => { k with begun := true }) s) else (updJob h j.id (fun k => { k with begun := true }) s)) else (if Job.subop j = 1 then meetCtr h (fAt (Job.op j) 11 0 16) (updJob h j.id (fun k => { k with begun := true }) s) else (updJob h j.id (fun k => { k with begun := true }) s)))) ∧ (fn = (wqOf g h j.q).fn) ∧ (k = fAt (Job.op j) 14 0 20) ∧ (poolOn g h fn = true) ∧ (k < poolSlots g h fn) ∧ (Job.subop j = 1 → ctrStatus g h (wqOf g h j.q) (fAt (Job.op j) 11 0 16) = none) ∧ (bAt (Job.op j) 14 20 = true → ctrStatus g h (wqOf g h j.q) (fAt (Job.op j) 11 16 16) = none) ∧ (readSlot h fn k 16 (.job j.id) (viewOf m s) g = (.ok d, a)) ∧ (wAt d 0 = 0) ∧ (Job.subop j = 1) ∧ ((evc a h (fAt (Job.op j) 11 0 16)).tail.all (fun o => decide ( (BitVec.ofNat 48 (u64 (Job.op j) 12) - o.2).toNat < 2 ^ 47)) = true) ∧ (b = hostWr h fn (slotAddr a h fn k + 64) ((j.ents.drop 1).flatMap (fun e => wBytes (padW 16 e))) false a) ∧ quiet s (fire h (fAt (Job.op j) 11 0 16) (finishJob h ({ j with begun := true }) 0 0 0 (inc (ectCtr h 2) (linkTrig h (fAt (Job.op j) 11 0 16) fn k (BitVec.ofNat 48 (u64 (Job.op j) 12)) (setSlot h fn k { st := 1, hdr := armHeader (Job.op j) j.q (j.ents.drop 1).length, ents := j.ents.drop 1 } (hostWr h fn (slotAddr b h fn k) (wBytes (armHeader (Job.op j) j.q (j.ents.drop 1).length)) false b)))))) = true := by decide +kernel

set_option maxRecDepth 100000 in
theorem wit_Triggers_8 :
    let h : Nat := 1; let q : Nat := 0; let i : Word := 0; let m : HostView := {}; let j : Job := { id := 0, h := 1, q := 0, idx := 0, ents := [[3473415, 33554434, 0, 0, 0, 0, 0, 0, 0, 0, 0, 589828, 0, 0, 5, 2147483648], [65541, 0, 0, 0, 0, 0, 0, 0, 0, 0, 0, 0, 0, 0, 0, 2147483648]] }; let fn : Nat := 0; let k : Nat := 5; let r : Acc (List Word) := .wait (.read 0 0x9400 64 true); let s : State := { sOn with hs.ports := [(1, { st := .up, jobs := [{ id := 0, h := 1, q := 0, idx := 0, ents := [[3473415, 33554434, 0, 0, 0, 0, 0, 0, 0, 0, 0, 589828, 0, 0, 5, 2147483648], [65541, 0, 0, 0, 0, 0, 0, 0, 0, 0, 0, 0, 0, 0, 0, 2147483648]] }], nextJob := 1 })], hs.wqs := [(objKey 20 1 0, { st := .active, priv := true, head := 1, tail := 1, order := [0] })], hs.cqs := [(objKey 20 1 0, { active := true })], hs.evctrs := [(objKey 16 1 4, { st := 1 })], hs.bar := [(hostKey 1 0 0x20008, 0x100104), (hostKey 1 0 0x40010, 4), (hostKey 1 0 0x1C000, 0x8000), (hostKey 1 0 0x1C008, 0x24)], hs.mrCache := [(objKey 24 1 3, [0x9F, 0, 0, 0, 0x10000, 0, 0, 0, 0, 0, 0, 0, 0, 0, 0, 0])] }; let g : State := (if bAt (Job.op j) 14 20 then meetCtr h (fAt (Job.op j) 11 16 16) (if Job.subop j = 1 then meetCtr h (fAt (Job.op j) 11 0 16) (updJob h j.id (fun k => { k with begun := true }) s) else (updJob h j.id (fun k => { k with begun := true }) s)) else (if Job.subop j = 1 then meetCtr h (fAt (Job.op j) 11 0 16) (updJob h j.id (fun k => { k with begun := true }) s) else (updJob h j.id (fun k => { k with begun := true }) s))); let a : State := (readSlot h fn k 16 (.job j.id) (viewOf m s) g).2
    (hostUp s h = true) ∧ (freshJob s h q i 53 = some j) ∧ (g = (if bAt (Job.op j) 14 20 then meetCtr h (fAt (Job.op j) 11 16 16) (if Job.subop j = 1 then meetCtr h (fAt (Job.op j) 11 0 16) (updJob h j.id (fun k => { k with begun := true }) s) else (updJob h j.id (fun k => { k with begun := true }) s)) else (if Job.subop j = 1 then meetCtr h (fAt (Job.op j) 11 0 16) (updJob h j.id (fun k => { k with begun := true }) s) else (updJob h j.id (fun k => { k with begun := true }) s)))) ∧ (fn = (wqOf g h j.q).fn) ∧ (k = fAt (Job.op j) 14 0 20) ∧ (poolOn g h fn = true) ∧ (k < poolSlots g h fn) ∧ (Job.subop j = 1 → ctrStatus g h (wqOf g h j.q) (fAt (Job.op j) 11 0 16) = none) ∧ (bAt (Job.op j) 14 20 = true → ctrStatus g h (wqOf g h j.q) (fAt (Job.op j) 11 16 16) = none) ∧ (readSlot h fn k 16 (.job j.id) (viewOf m s) g = (r, a)) ∧ ((match r with | .ok _ => false | _ => true) = true) ∧ quiet s (failAcc h ({ j with begun := true }) 0 r a) = true := by decide +kernel

set_option maxRecDepth 100000 in
theorem wit_Triggers_9 :
    let h : Nat := 1; let q : Nat := 0; let i : Word := 0; let m : HostView := {}; let j : Job := { id := 0, h := 1, q := 0, idx := 0, ents := [[3538951, 16777216, 0, 0, 0, 0, 0, 0, 0, 0, 0, 4, 0, 0, 0, 2147483648]] }; let c : Nat := 4; let x : Nat := 0x39; let s : State := { sOn with hs.ports := [(1, { st := .up, jobs := [{ id := 0, h := 1, q := 0, idx := 0, ents := [[3538951, 16777216, 0, 0, 0, 0, 0, 0, 0, 0, 0, 4, 0, 0, 0, 2147483648]] }], nextJob := 1 })], hs.wqs := [(objKey 20 1 0, { st := .active, priv := true, head := 1, tail := 1, order := [0] })], hs.cqs := [(objKey 20 1 0, { active := true })], hs.evctrs := [(objKey 16 1 4, { st := 2 })], hs.bar := [(hostKey 1 0 0x20008, 0x100104), (hostKey 1 0 0x40010, 4), (hostKey 1 0 0x1C000, 0x8000), (hostKey 1 0 0x1C008, 0x24)], hs.mrCache := [(objKey 24 1 3, [0x9F, 0, 0, 0, 0x10000, 0, 0, 0, 0, 0, 0, 0, 0, 0, 0, 0])] }; let g : State := meetCtr h c (updJob h j.id (fun k => { k with begun := true }) s)
    (hostUp s h = true) ∧ (freshJob s h q i 54 = some j) ∧ (Job.subop j = 1) ∧ (c = fAt (Job.op j) 11 0 16) ∧ (g = meetCtr h c (updJob h j.id (fun k => { k with begun := true }) s)) ∧ (ctrStatus g h (wqOf (updJob h j.id (fun k => { k with begun := true }) s) h j.q) c = some x) ∧ quiet s (finishJob h ({ j with begun := true }) x 0 0 g) = true := by decide +kernel

set_option maxRecDepth 100000 in
theorem wit_Triggers_10 :
    let h : Nat := 1; let q : Nat := 0; let i : Word := 0; let m : HostView := {}; let j : Job := { id := 0, h := 1, q := 0, idx := 0, ents := [[3538951, 16777216, 0, 0, 0, 0, 0, 0, 0, 0, 0, 4, 0, 0, 0, 2147483648]] }; let c : Nat := 4; let s : State := { sOn with hs.ports := [(1, { st := .up, jobs := [{ id := 0, h := 1, q := 0, idx := 0, ents := [[3538951, 16777216, 0, 0, 0, 0, 0, 0, 0, 0, 0, 4, 0, 0, 0, 2147483648]] }], nextJob := 1 })], hs.wqs := [(objKey 20 1 0, { st := .active, priv := true, head := 1, tail := 1, order := [0] })], hs.cqs := [(objKey 20 1 0, { active := true })], hs.evctrs := [(objKey 16 1 4, { st := 1 })], hs.bar := [(hostKey 1 0 0x20008, 0x100104), (hostKey 1 0 0x40010, 4), (hostKey 1 0 0x1C000, 0x8000), (hostKey 1 0 0x1C008, 0x24)], hs.mrCache := [(objKey 24 1 3, [0x9F, 0, 0, 0, 0x10000, 0, 0, 0, 0, 0, 0, 0, 0, 0, 0, 0])] }; let g : State := meetCtr h c (updJob h j.id (fun k => { k with begun := true }) s)
    (hostUp s h = true) ∧ (freshJob s h q i 54 = some j) ∧ (Job.subop j = 1) ∧ (c = fAt (Job.op j) 11 0 16) ∧ (g = meetCtr h c (updJob h j.id (fun k => { k with begun := true }) s)) ∧ (ctrStatus g h (wqOf (updJob h j.id (fun k => { k with begun := true }) s) h j.q) c = none) ∧ ((evc g h c).head = none) ∧ quiet s (finishJob h ({ j with begun := true }) 0 0 0 (setEvc h c { evc g h c with head := none, tail := none } g)) = true := by decide +kernel

set_option maxRecDepth 100000 in
theorem wit_Triggers_11 :
    let h : Nat := 1; let q : Nat := 0; let i : Word := 0; let m : HostView := {}; let j : Job := { id := 0, h := 1, q := 0, idx := 0, ents := [[3538951, 16777216, 0, 0, 0, 0, 0, 0, 0, 0, 0, 4, 0, 0, 0, 2147483648]] }; let c : Nat := 4; let s : State := { sOn with hs.ports := [(1, { st := .up, jobs := [{ id := 0, h := 1, q := 0, idx := 0, ents := [[3538951, 16777216, 0, 0, 0, 0, 0, 0, 0, 0, 0, 4, 0, 0, 0, 2147483648]] }], nextJob := 1 })], hs.wqs := [(objKey 20 1 0, { st := .active, priv := true, head := 1, tail := 1, order := [0] })], hs.cqs := [(objKey 20 1 0, { active := true })], hs.evctrs := [(objKey 16 1 4, { st := 1, head := some (7, 9), tail := some (7, 9) })], hs.bar := [(hostKey 1 0 0x20008, 0x100104), (hostKey 1 0 0x40010, 4), (hostKey 1 0 0x1C000, 0x8000), (hostKey 1 0 0x1C008, 0x24)], hs.mrCache := [(objKey 24 1 3, [0x9F, 0, 0, 0, 0x10000, 0, 0, 0, 0, 0, 0, 0, 0, 0, 0, 0])], hs.slots := [(slotKey 1 0 7, { st := 1, hdr := [17, 0, 4], ents := [[65541, 0, 0, 0, 0, 0, 0, 0, 0, 0, 0, 0, 0, 0, 0, 2147483648]] })] }; let g : State := meetCtr h c (updJob h j.id (fun k => { k with begun := true }) s); let l : List Nat := trigList (g.hs.slots.length + 1) g h (evc g h c).head; let fs : List Firing := (List.range l.length).map (fun i => { fn := l.getD i 0 / 2 ^ 20, slot := l.getD i 0 % 2 ^ 20, ctr := some c, cancel := some ((hport g h).nextJob + i) })
    (hostUp s h = true) ∧ (freshJob s h q i 54 = some j) ∧ (Job.subop j = 1) ∧ (c = fAt (Job.op j) 11 0 16) ∧ (g = meetCtr h c (updJob h j.id (fun k => { k with begun := true }) s)) ∧ (ctrStatus g h (wqOf (updJob h j.id (fun k => { k with begun := true }) s) h j.q) c = none) ∧ (l = trigList (g.hs.slots.length + 1) g h (evc g h c).head) ∧ (l ≠ []) ∧ (fs = (List.range l.length).map (fun i => { fn := l.getD i 0 / 2 ^ 20, slot := l.getD i 0 % 2 ^ 20, ctr := some c, cancel := some ((hport g h).nextJob + i) })) ∧ quiet s (fs.foldl (fun s _ => askSlots h s) (updJob h j.id (fun x => { x with waitFor := (List.range l.length).map ((hport g h).nextJob + ·) }) (updHost h (fun p => { p with nextJob := p.nextJob + l.length, firing := p.firing ++ fs }) (setEvc h c { evc g h c with head := none, tail := none } g)))) = true := by decide +kernel

set_option maxRecDepth 100000 in
theorem wit_Triggers_12 :
    let h : Nat := 1; let q : Nat := 0; let i : Word := 0; let m : HostView := {}; let j : Job := { id := 0, h := 1, q := 0, idx := 0, ents := [[3538951, 33554432, 0, 0, 0, 0, 0, 0, 0, 0, 0, 0, 0, 0, 5, 2147483648]] }; let fn : Nat := 0; let k : Nat := 5; let s : State := { sOn with hs.ports := [(1, { st := .up, jobs := [{ id := 0, h := 1, q := 0, idx := 0, ents := [[3538951, 33554432, 0, 0, 0, 0, 0, 0, 0, 0, 0, 0, 0, 0, 5, 2147483648]] }], nextJob := 1 })], hs.wqs := [(objKey 20 1 0, { st := .active, priv := true, head := 1, tail := 1, order := [0] })], hs.cqs := [(objKey 20 1 0, { active := true })], hs.evctrs := [(objKey 16 1 4, { st := 1 })], hs.bar := [(hostKey 1 0 0x20008, 0x100104), (hostKey 1 0 0x40010, 4), (hostKey 1 0 0x1C000, 0x8000), (hostKey 1 0 0x1C008, 0x04)], hs.mrCache := [(objKey 24 1 3, [0x9F, 0, 0, 0, 0x10000, 0, 0, 0, 0, 0, 0, 0, 0, 0, 0, 0])] }
    (hostUp s h = true) ∧ (freshJob s h q i 54 = some j) ∧ (Job.subop j = 2) ∧ (fn = (wqOf (updJob h j.id (fun k => { k with begun := true }) s) h j.q).fn) ∧ (k = fAt (Job.op j) 14 0 20) ∧ (poolOn (updJob h j.id (fun k => { k with begun := true }) s) h fn = false ∨ poolSlots (updJob h j.id (fun k => { k with begun := true }) s) h fn ≤ k) ∧ quiet s (finishJob h ({ j with begun := true }) 4 0 0 (updJob h j.id (fun k => { k with begun := true }) s)) = true := by decide +kernel

set_option maxRecDepth 100000 in
theorem wit_Triggers_13 :
    let h : Nat := 1; let q : Nat := 0; let i : Word := 0; let m : HostView := {}; let j : Job := { id := 0, h := 1, q := 0, idx := 0, ents := [[3538951, 33554432, 0, 0, 0, 0, 0, 0, 0, 0, 0, 0, 0, 0, 5, 2147483648]] }; let fn : Nat := 0; let k : Nat := 5; let r : Acc (List Word) := .wait (.read 0 0x9400 1024 true); let s : State := { sOn with hs.ports := [(1, { st := .up, jobs := [{ id := 0, h := 1, q := 0, idx := 0, ents := [[3538951, 33554432, 0, 0, 0, 0, 0, 0, 0, 0, 0, 0, 0, 0, 5, 2147483648]] }], nextJob := 1 })], hs.wqs := [(objKey 20 1 0, { st := .active, priv := true, head := 1, tail := 1, order := [0] })], hs.cqs := [(objKey 20 1 0, { active := true })], hs.evctrs := [(objKey 16 1 4, { st := 1 })], hs.bar := [(hostKey 1 0 0x20008, 0x100104), (hostKey 1 0 0x40010, 4), (hostKey 1 0 0x1C000, 0x8000), (hostKey 1 0 0x1C008, 0x24)], hs.mrCache := [(objKey 24 1 3, [0x9F, 0, 0, 0, 0x10000, 0, 0, 0, 0, 0, 0, 0, 0, 0, 0, 0])] }; let a : State := (readSlot h fn k 256 (.job j.id) (viewOf m s) (updJob h j.id (fun k => { k with begun := true }) s)).2
    (hostUp s h = true) ∧ (freshJob s h q i 54 = some j) ∧ (Job.subop j = 2) ∧ (fn = (wqOf (updJob h j.id (fun k => { k with begun := true }) s) h j.q).fn) ∧ (k = fAt (Job.op j) 14 0 20) ∧ (poolOn (updJob h j.id (fun k => { k with begun := true }) s) h fn = true) ∧ (k < poolSlots (updJob h j.id (fun k => { k with begun := true }) s) h fn) ∧ (readSlot h fn k 256 (.job j.id) (viewOf m s) (updJob h j.id (fun k => { k with begun := true }) s) = (r, a)) ∧ ((match r with | .ok _ => false | _ => true) = true) ∧ quiet s (failAcc h ({ j with begun := true }) 0 r a) = true := by decide +kernel

set_option maxRecDepth 100000 in
theorem wit_Triggers_14 :
    let h : Nat := 1; let q : Nat := 0; let i : Word := 0; let m : HostView := { spans := [(0x9400, wBytes (padW 256 []))] }; let j : Job := { id := 0, h := 1, q := 0, idx := 0, ents := [[3538951, 33554432, 0, 0, 0, 0, 0, 0, 0, 0, 0, 0, 0, 0, 5, 2147483648]] }; let fn : Nat := 0; let k : Nat := 5; let d : List Word := padW 256 []; let s : State := { sOn with hs.ports := [(1, { st := .up, jobs := [{ id := 0, h := 1, q := 0, idx := 0, ents := [[3538951, 33554432, 0, 0, 0, 0, 0, 0, 0, 0, 0, 0, 0, 0, 5, 2147483648]] }], nextJob := 1 })], hs.wqs := [(objKey 20 1 0, { st := .active, priv := true, head := 1, tail := 1, order := [0] })], hs.cqs := [(objKey 20 1 0, { active := true })], hs.evctrs := [(objKey 16 1 4, { st := 1 })], hs.bar := [(hostKey 1 0 0x20008, 0x100104), (hostKey 1 0 0x40010, 4), (hostKey 1 0 0x1C000, 0x8000), (hostKey 1 0 0x1C008, 0x24)], hs.mrCache := [(objKey 24 1 3, [0x9F, 0, 0, 0, 0x10000, 0, 0, 0, 0, 0, 0, 0, 0, 0, 0, 0])] }; let a : State := (readSlot h fn k 256 (.job j.id) (viewOf m s) (updJob h j.id (fun k => { k with begun := true }) s)).2
    (hostUp s h = true) ∧ (freshJob s h q i 54 = some j) ∧ (Job.subop j = 2) ∧ (fn = (wqOf (updJob h j.id (fun k => { k with begun := true }) s) h j.q).fn) ∧ (k = fAt (Job.op j) 14 0 20) ∧ (poolOn (updJob h j.id (fun k => { k with begun := true }) s) h fn = true) ∧ (k < poolSlots (updJob h j.id (fun k => { k with begun := true }) s) h fn) ∧ (readSlot h fn k 256 (.job j.id) (viewOf m s) (updJob h j.id (fun k => { k with begun := true }) s) = (.ok d, a)) ∧ (fAt d 0 0 2 = 0) ∧ quiet s (finishJob h ({ j with begun := true }) 4 0 0 a) = true := by decide +kernel

set_option maxRecDepth 100000 in
theorem wit_Triggers_15 :
    let h : Nat := 1; let q : Nat := 0; let i : Word := 0; let m : HostView := { spans := [(0x9400, wBytes (padW 256 [2]))] }; let j : Job := { id := 0, h := 1, q := 0, idx := 0, ents := [[3538951, 33554432, 0, 0, 0, 0, 0, 0, 0, 0, 0, 0, 0, 0, 5, 2147483648]] }; let fn : Nat := 0; let k : Nat := 5; let d : List Word := padW 256 [2]; let s : State := { sOn with hs.ports := [(1, { st := .up, jobs := [{ id := 0, h := 1, q := 0, idx := 0, ents := [[3538951, 33554432, 0, 0, 0, 0, 0, 0, 0, 0, 0, 0, 0, 0, 5, 2147483648]] }], nextJob := 1 })], hs.wqs := [(objKey 20 1 0, { st := .active, priv := true, head := 1, tail := 1, order := [0] })], hs.cqs := [(objKey 20 1 0, { active := true })], hs.evctrs := [(objKey 16 1 4, { st := 1 })], hs.bar := [(hostKey 1 0 0x20008, 0x100104), (hostKey 1 0 0x40010, 4), (hostKey 1 0 0x1C000, 0x8000), (hostKey 1 0 0x1C008, 0x24)], hs.mrCache := [(objKey 24 1 3, [0x9F, 0, 0, 0, 0x10000, 0, 0, 0, 0, 0, 0, 0, 0, 0, 0, 0])] }; let a : State := (readSlot h fn k 256 (.job j.id) (viewOf m s) (updJob h j.id (fun k => { k with begun := true }) s)).2
    (hostUp s h = true) ∧ (freshJob s h q i 54 = some j) ∧ (Job.subop j = 2) ∧ (fn = (wqOf (updJob h j.id (fun k => { k with begun := true }) s) h j.q).fn) ∧ (k = fAt (Job.op j) 14 0 20) ∧ (poolOn (updJob h j.id (fun k => { k with begun := true }) s) h fn = true) ∧ (k < poolSlots (updJob h j.id (fun k => { k with begun := true }) s) h fn) ∧ (readSlot h fn k 256 (.job j.id) (viewOf m s) (updJob h j.id (fun k => { k with begun := true }) s) = (.ok d, a)) ∧ (fAt d 0 0 2 ≠ 0) ∧ (fAt d 0 0 2 ≠ 1) ∧ quiet s (finishJob h ({ j with begun := true }) 3 0 0 a) = true := by decide +kernel

set_option maxRecDepth 100000 in
theorem wit_Triggers_16 :
    let h : Nat := 1; let q : Nat := 0; let i : Word := 0; let m : HostView := { spans := [(0x9400, wBytes (padW 256 ([1 + 16, 0, 4, 0, 0, 2 ^ 20, 0, 0, 0, 0, 0, 0, 0, 0, 0, 0] ++ [65541, 0, 0, 0, 0, 0, 0, 0, 0, 0, 0, 0, 0, 0, 0, 2147483648])))] }; let j : Job := { id := 0, h := 1, q := 0, idx := 0, ents := [[3538951, 33554432, 0, 0, 0, 0, 0, 0, 0, 0, 0, 0, 0, 0, 5, 2147483648]] }; let fn : Nat := 0; let k : Nat := 5; let d : List Word := padW 256 ([1 + 16, 0, 4, 0, 0, 2 ^ 20, 0, 0, 0, 0, 0, 0, 0, 0, 0, 0] ++ [65541, 0, 0, 0, 0, 0, 0, 0, 0, 0, 0, 0, 0, 0, 0, 2147483648]); let s : State := { sOn with hs.ports := [(1, { st := .up, jobs := [{ id := 0, h := 1, q := 0, idx := 0, ents := [[3538951, 33554432, 0, 0, 0, 0, 0, 0, 0, 0, 0, 0, 0, 0, 5, 2147483648]] }], nextJob := 1 })], hs.wqs := [(objKey 20 1 0, { st := .active, priv := true, head := 1, tail := 1, order := [0] })], hs.cqs := [(objKey 20 1 0, { active := true })], hs.evctrs := [(objKey 16 1 4, { st := 1 })], hs.bar := [(hostKey 1 0 0x20008, 0x100104), (hostKey 1 0 0x40010, 4), (hostKey 1 0 0x1C000, 0x8000), (hostKey 1 0 0x1C008, 0x24)], hs.mrCache := [(objKey 24 1 3, [0x9F, 0, 0, 0, 0x10000, 0, 0, 0, 0, 0, 0, 0, 0, 0, 0, 0])] }; let a : State := (readSlot h fn k 256 (.job j.id) (viewOf m s) (updJob h j.id (fun k => { k with begun := true }) s)).2
    (hostUp s h = true) ∧ (freshJob s h q i 54 = some j) ∧ (Job.subop j = 2) ∧ (fn = (wqOf (updJob h j.id (fun k => { k with begun := true }) s) h j.q).fn) ∧ (k = fAt (Job.op j) 14 0 20) ∧ (poolOn (updJob h j.id (fun k => { k with begun := true }) s) h fn = true) ∧ (k < poolSlots (updJob h j.id (fun k => { k with begun := true }) s) h fn) ∧ (readSlot h fn k 256 (.job j.id) (viewOf m s) (updJob h j.id (fun k => { k with begun := true }) s) = (.ok d, a)) ∧ (fAt d 0 0 2 = 1) ∧ (bAt d 0 2 = false) ∧ quiet s (malformed h ({ j with begun := true }) 7 a) = true := by decide +kernel

set_option maxRecDepth 100000 in
theorem wit_Triggers_17 :
    let h : Nat := 1; let q : Nat := 0; let i : Word := 0; let m : HostView := { spans := [(0x9400, wBytes (padW 256 ([1 + 4 + 16, 0, 0, 0, 0, 2 ^ 20, 0, 0, 2, 77, 0, 0, 0, 0, 0, 0] ++ [65541, 0, 0, 0, 0, 0, 0, 0, 0, 0, 0, 0, 0, 0, 0, 2147483648])))] }; let j : Job := { id := 0, h := 1, q := 0, idx := 0, ents := [[3538951, 33554432, 0, 0, 0, 0, 0, 0, 0, 0, 0, 0, 0, 0, 5, 2147483648]] }; let fn : Nat := 0; let k : Nat := 5; let d : List Word := padW 256 ([1 + 4 + 16, 0, 0, 0, 0, 2 ^ 20, 0, 0, 2, 77, 0, 0, 0, 0, 0, 0] ++ [65541, 0, 0, 0, 0, 0, 0, 0, 0, 0, 0, 0, 0, 0, 0, 2147483648]); let s : State := { sOn with hs.ports := [(1, { st := .up, jobs := [{ id := 0, h := 1, q := 0, idx := 0, ents := [[3538951, 33554432, 0, 0, 0, 0, 0, 0, 0, 0, 0, 0, 0, 0, 5, 2147483648]] }], nextJob := 1 })], hs.wqs := [(objKey 20 1 0, { st := .active, priv := true, head := 1, tail := 1, order := [0] })], hs.cqs := [(objKey 20 1 0, { active := true })], hs.evctrs := [(objKey 16 1 4, { st := 1 })], hs.bar := [(hostKey 1 0 0x20008, 0x100104), (hostKey 1 0 0x40010, 4), (hostKey 1 0 0x1C000, 0x8000), (hostKey 1 0 0x1C008, 0x24)], hs.mrCache := [(objKey 24 1 3, [0x9F, 0, 0, 0, 0x10000, 0, 0, 0, 0, 0, 0, 0, 0, 0, 0, 0])] }; let a : State := (readSlot h fn k 256 (.job j.id) (viewOf m s) (updJob h j.id (fun k => { k with begun := true }) s)).2
    (hostUp s h = true) ∧ (freshJob s h q i 54 = some j) ∧ (Job.subop j = 2) ∧ (fn = (wqOf (updJob h j.id (fun k => { k with begun := true }) s) h j.q).fn) ∧ (k = fAt (Job.op j) 14 0 20) ∧ (poolOn (updJob h j.id (fun k => { k with begun := true }) s) h fn = true) ∧ (k < poolSlots (updJob h j.id (fun k => { k with begun := true }) s) h fn) ∧ (readSlot h fn k 256 (.job j.id) (viewOf m s) (updJob h j.id (fun k => { k with begun := true }) s) = (.ok d, a)) ∧ (fAt d 0 0 2 = 1) ∧ (bAt d 0 2 = true) ∧ quiet s (finishJob h ({ j with begun := true }) 0 0 0 (cancelSlot h (hport a h).nextJob fn k (fAt d 1 0 20) (firedJob h (hport a h).nextJob k none d).ents (updHost h (fun p => { p with nextJob := p.nextJob + 1 }) a))) = true := by decide +kernel

set_option maxRecDepth 100000 in
theorem wit_Triggers_18 :
    let h : Nat := 1; let q : Nat := 0; let i : Word := 0; let m : HostView := {}; let j : Job := { id := 0, h := 1, q := 0, idx := 0, ents := [[3604487, 2, 0, 0, 0, 0, 0, 0, 0, 0, 77, 0, 0, 0, 9, 2147483648]] }; let s : State := { sOn with hs.ports := [(1, { st := .up, jobs := [{ id := 0, h := 1, q := 0, idx := 0, ents := [[3604487, 2, 0, 0, 0, 0, 0, 0, 0, 0, 77, 0, 0, 0, 9, 2147483648]] }], nextJob := 1 })], hs.wqs := [(objKey 20 1 0, { st := .active, priv := true, head := 1, tail := 1, order := [0] })], hs.cqs := [(objKey 20 1 0, { active := true })], hs.chans := [(objKey 24 1 2, { st := .active, peer := 5, peerCh := 3, inc := 6, check := 4, cached := true, used := 1, t0 := 4, limit := 4, relaxed := true })], hs.bar := [(hostKey 1 0 0x20008, 0x100104), (hostKey 1 0 0x40010, 4)], hs.mrCache := [(objKey 24 1 3, [0x9F, 0, 0, 0, 0x10000, 0, 0, 0, 0, 0, 0, 0, 0, 0, 0, 0])] }; let u : State := joinLine h ({ j with begun := true }) (updJob h j.id (fun k => { k with begun := true }) s)
    (hostUp s h = true) ∧ (freshJob s h q i 55 = some j) ∧ (j.ready = false) ∧ ((if j.chan = 0 then chanRefuses (updJob h j.id (fun k => { k with begun := true }) s) h ({ j with begun := true }) else none) = none) ∧ (u = joinLine h ({ j with begun := true }) (updJob h j.id (fun k => { k with begun := true }) s)) ∧ quiet s (runChan h (Job.chanNo j) (viewOf m s) (updJob h j.id (fun k => { k with ready := true, rndv := false }) (stopWait h (.job j.id) u))) = true := by decide +kernel

set_option maxRecDepth 100000 in
theorem wit_Triggers_19 :
    let h : Nat := 1; let q : Nat := 0; let i : Word := 0; let m : HostView := {}; let j : Job := { id := 0, h := 1, q := 0, idx := 0, ents := [[3604487, 2, 0, 0, 0, 0, 0, 0, 0, 0, 77, 0, 0, 0, 9, 2147483648]] }; let d : Nat := 0; let s : State := { sOn with hs.ports := [(1, { st := .up, jobs := [{ id := 0, h := 1, q := 0, idx := 0, ents := [[3604487, 2, 0, 0, 0, 0, 0, 0, 0, 0, 77, 0, 0, 0, 9, 2147483648]] }], nextJob := 1 })], hs.wqs := [(objKey 20 1 0, { st := .active, priv := true, head := 1, tail := 1, order := [0] })], hs.cqs := [(objKey 20 1 0, { active := true })], hs.chans := [(objKey 24 1 2, { st := .error, peer := 5, peerCh := 3, inc := 6, check := 4, cached := true, used := 1, t0 := 4, limit := 4, relaxed := true })], hs.bar := [(hostKey 1 0 0x20008, 0x100104), (hostKey 1 0 0x40010, 4)], hs.mrCache := [(objKey 24 1 3, [0x9F, 0, 0, 0, 0x10000, 0, 0, 0, 0, 0, 0, 0, 0, 0, 0, 0])] }
    (hostUp s h = true) ∧ (freshJob s h q i 55 = some j) ∧ (j.ready = false) ∧ (j.chan = 0) ∧ (chanRefuses (updJob h j.id (fun k => { k with begun := true }) s) h ({ j with begun := true }) = some d) ∧ quiet s (finishJob h ({ j with begun := true }) 0x22 0 d (updJob h j.id (fun k => { k with begun := true }) s)) = true := by decide +kernel

set_option maxRecDepth 100000 in
theorem wit_Triggers_20 :
    let h : Nat := 1; let fn : Nat := 0; let k : Nat := 5; let image : Option (List Word) := some (padW 256 ([1 + 16, 0, 4, 0, 0, 2 ^ 20, 0, 0, 0, 0, 0, 0, 0, 0, 0, 0] ++ [65541, 0, 0, 0, 0, 0, 0, 0, 0, 0, 0, 0, 0, 0, 0, 2147483648])); let f : Firing := { fn := 0, slot := 5, ctr := some 4, asked := true }; let s : State := { sOn with hs.ports := [(1, { st := .up, jobs := [], nextJob := 1, firing := [{ fn := 0, slot := 6, ctr := some 4, asked := true }, { fn := 0, slot := 5, ctr := some 4, asked := true }] })], hs.wqs := [(objKey 20 1 0, { st := .active, priv := true, head := 1, tail := 1, order := [0] })], hs.cqs := [(objKey 20 1 0, { active := true })], hs.evctrs := [(objKey 16 1 4, { st := 1 })], hs.bar := [(hostKey 1 0 0x20008, 0x100104), (hostKey 1 0 0x40010, 4), (hostKey 1 0 0x1C000, 0x8000), (hostKey 1 0 0x1C008, 0x24)], hs.mrCache := [(objKey 24 1 3, [0x9F, 0, 0, 0, 0x10000, 0, 0, 0, 0, 0, 0, 0, 0, 0, 0, 0])], hs.slots := [(slotKey 1 0 5, { st := 2 })] }; let u : State := updHost h (fun p => { p with firing := p.firing.map (fun x => if x = f then { f with got := some image } else x) }) s
    (hostUp s h = true) ∧ (dmaHeld s h (.slot fn k) = false) ∧ ((hport s h).firing.find? (fun f => f.fn == fn && f.slot == k && f.asked && f.got.isNone) = some f) ∧ ((hport s h).firing.head?.all (fun g => g != f && g.ctr.isSome && g.ctr == f.ctr && g.got == none) = true) ∧ ((hport s h).firing.length = 2) ∧ (u = updHost h (fun p => { p with firing := p.firing.map (fun x => if x = f then { f with got := some image } else x) }) s) ∧ quiet s (askSlots (2 * boleOf h + 1) (askSlots (2 * boleOf h) u)) = true := by decide +kernel

set_option maxRecDepth 100000 in
theorem wit_Triggers_21 :
    let h : Nat := 1; let fn : Nat := 0; let k : Nat := 5; let ws : List Word := (padW 256 ([1 + 16, 0, 4, 0, 0, 2 ^ 20, 0, 0, 0, 0, 0, 0, 0, 0, 0, 0] ++ [65541, 0, 0, 0, 0, 0, 0, 0, 0, 0, 0, 0, 0, 0, 0, 2147483648])); let f : Firing := { fn := 0, slot := 5, ctr := some 4, asked := true }; let s : State := { sOn with hs.ports := [(1, { st := .up, jobs := [], nextJob := 1, firing := [{ fn := 0, slot := 5, ctr := some 4, asked := true }] })], hs.wqs := [(objKey 20 1 0, { st := .active, priv := true, head := 1, tail := 1, order := [0] })], hs.cqs := [(objKey 20 1 0, { active := true })], hs.evctrs := [(objKey 16 1 4, { st := 1 })], hs.bar := [(hostKey 1 0 0x20008, 0x100104), (hostKey 1 0 0x40010, 4), (hostKey 1 0 0x1C000, 0x8000), (hostKey 1 0 0x1C008, 0x24)], hs.mrCache := [(objKey 24 1 3, [0x9F, 0, 0, 0, 0x10000, 0, 0, 0, 0, 0, 0, 0, 0, 0, 0, 0])], hs.slots := [(slotKey 1 0 5, { st := 2 })] }; let u : State := updHost h (fun p => { p with firing := [] }) s
    (hostUp s h = true) ∧ (dmaHeld s h (.slot fn k) = false) ∧ ((hport s h).firing = [f]) ∧ (f.fn = fn) ∧ (f.slot = k) ∧ (f.asked = true) ∧ (f.got = none) ∧ (f.cancel = none) ∧ ((wqOf s h (fAt ws 1 0 20)).st ≠ .absent) ∧ (u = updHost h (fun p => { p with firing := [] }) s) ∧ quiet s (askSlots (2 * boleOf h + 1) (askSlots (2 * boleOf h) (inc (ectCtr h 3) (updHost h (fun p => { p with nextJob := p.nextJob + 1, firedq := p.firedq ++ [firedJob h (hport s h).nextJob k f.ctr ws] }) (setSlot h fn k { slotOf s h fn k with st := 2 } (hostWr h fn (slotAddr s h fn k) (leBytes 4 (pack [(0, 2, 2), (2, 30, fld (wAt ws 0) 2 30)]).toNat) false u)))))) = true := by decide +kernel

set_option maxRecDepth 100000 in
theorem wit_Triggers_22 :
    let h : Nat := 1; let fn : Nat := 0; let k : Nat := 5; let ws : List Word := (padW 256 ([1 + 16, 77, 4, 0, 0, 2 ^ 20, 0, 0, 0, 0, 0, 0, 0, 0, 0, 0] ++ [65541, 0, 0, 0, 0, 0, 0, 0, 0, 0, 0, 0, 0, 0, 0, 2147483648])); let f : Firing := { fn := 0, slot := 5, ctr := some 4, asked := true }; let s : State := { sOn with hs.ports := [(1, { st := .up, jobs := [], nextJob := 1, firing := [{ fn := 0, slot := 5, ctr := some 4, asked := true }] })], hs.wqs := [(objKey 20 1 0, { st := .active, priv := true, head := 1, tail := 1, order := [0] })], hs.cqs := [(objKey 20 1 0, { active := true })], hs.evctrs := [(objKey 16 1 4, { st := 1 })], hs.bar := [(hostKey 1 0 0x20008, 0x100104), (hostKey 1 0 0x40010, 4), (hostKey 1 0 0x1C000, 0x8000), (hostKey 1 0 0x1C008, 0x24)], hs.mrCache := [(objKey 24 1 3, [0x9F, 0, 0, 0, 0x10000, 0, 0, 0, 0, 0, 0, 0, 0, 0, 0, 0])], hs.slots := [(slotKey 1 0 5, { st := 2 })] }; let u : State := updHost h (fun p => { p with firing := [] }) s
    (hostUp s h = true) ∧ (dmaHeld s h (.slot fn k) = false) ∧ ((hport s h).firing = [f]) ∧ (f.fn = fn) ∧ (f.slot = k) ∧ (f.asked = true) ∧ (f.got = none) ∧ (f.cancel = none) ∧ ((wqOf s h (fAt ws 1 0 20)).st = .absent) ∧ (u = updHost h (fun p => { p with firing := [] }) s) ∧ quiet s (askSlots (2 * boleOf h + 1) (askSlots (2 * boleOf h) (ectCause h 1 (inc (ectCtr h 5) (hostWr h fn (slotAddr s h fn k) (List.replicate 1024 0) false { u with hs.slots := Maps.erase (slotKey h fn k) u.hs.slots }))))) = true := by decide +kernel

set_option maxRecDepth 100000 in
theorem wit_Triggers_23 :
    let h : Nat := 1; let fn : Nat := 0; let k : Nat := 5; let c : Nat := 4; let f : Firing := { fn := 0, slot := 5, ctr := some 4, asked := true }; let s : State := { sOn with hs.ports := [(1, { st := .up, jobs := [], nextJob := 1, firing := [{ fn := 0, slot := 5, ctr := some 4, asked := true }] })], hs.wqs := [(objKey 20 1 0, { st := .active, priv := true, head := 1, tail := 1, order := [0] })], hs.cqs := [(objKey 20 1 0, { active := true })], hs.evctrs := [(objKey 16 1 4, { st := 1 })], hs.bar := [(hostKey 1 0 0x20008, 0x100104), (hostKey 1 0 0x40010, 4), (hostKey 1 0 0x1C000, 0x8000), (hostKey 1 0 0x1C008, 0x24)], hs.mrCache := [(objKey 24 1 3, [0x9F, 0, 0, 0, 0x10000, 0, 0, 0, 0, 0, 0, 0, 0, 0, 0, 0])], hs.slots := [(slotKey 1 0 5, { st := 2 })] }; let u : State := updHost h (fun p => { p with firing := [] }) s
    (hostUp s h = true) ∧ (dmaHeld s h (.slot fn k) = false) ∧ ((hport s h).firing = [f]) ∧ (f.fn = fn) ∧ (f.slot = k) ∧ (f.asked = true) ∧ (f.got = none) ∧ (f.cancel = none) ∧ (f.ctr = some c) ∧ (u = updHost h (fun p => { p with firing := [] }) s) ∧ quiet s (askSlots (2 * boleOf h + 1) (askSlots (2 * boleOf h) (loseCtr h c (setSlot h fn k { slotOf (ectCause h 2 (inc (ectCtr h 9) (dmaErr h u))) h fn k with st := 1 } (ectCause h 2 (inc (ectCtr h 9) (dmaErr h u))))))) = true := by decide +kernel

set_option maxRecDepth 100000 in
theorem wit_Triggers_24 :
    let h : Nat := 1; let fn : Nat := 0; let k : Nat := 5; let id : Nat := 9; let ws : List Word := (padW 256 ([1 + 16, 0, 4, 0, 0, 2 ^ 20, 0, 0, 0, 0, 0, 0, 0, 0, 0, 0] ++ [65541, 0, 0, 0, 0, 0, 0, 0, 0, 0, 0, 0, 0, 0, 0, 2147483648])); let f : Firing := { fn := 0, slot := 5, ctr := some 4, asked := true, cancel := some 9 }; let s : State := { sOn with hs.ports := [(1, { st := .up, jobs := [], nextJob := 1, firing := [{ fn := 0, slot := 5, ctr := some 4, asked := true, cancel := some 9 }] })], hs.wqs := [(objKey 20 1 0, { st := .active, priv := true, head := 1, tail := 1, order := [0] })], hs.cqs := [(objKey 20 1 0, { active := true })], hs.evctrs := [(objKey 16 1 4, { st := 1 })], hs.bar := [(hostKey 1 0 0x20008, 0x100104), (hostKey 1 0 0x40010, 4), (hostKey 1 0 0x1C000, 0x8000), (hostKey 1 0 0x1C008, 0x24)], hs.mrCache := [(objKey 24 1 3, [0x9F, 0, 0, 0, 0x10000, 0, 0, 0, 0, 0, 0, 0, 0, 0, 0, 0])], hs.slots := [(slotKey 1 0 5, { st := 2 })] }; let u : State := updHost h (fun p => { p with firing := [] }) s
    (hostUp s h = true) ∧ (dmaHeld s h (.slot fn k) = false) ∧ ((hport s h).firing = [f]) ∧ (f.fn = fn) ∧ (f.slot = k) ∧ (f.asked = true) ∧ (f.got = none) ∧ (f.cancel = some id) ∧ (u = updHost h (fun p => { p with firing := [] }) s) ∧ quiet s (askSlots (2 * boleOf h + 1) (askSlots (2 * boleOf h) (cancelSlot h id fn k (fAt ws 1 0 20) (firedJob h id k none ws).ents u))) = true := by decide +kernel

set_option maxRecDepth 100000 in
theorem wit_Triggers_25 :
    let h : Nat := 1; let fn : Nat := 0; let k : Nat := 5; let image : Option (List Word) := none; let s : State := sOn
    (hostUp s h = false ∨ dmaHeld s h (.slot fn k) = true ∨ (hport s h).firing.find? (fun f => f.fn == fn && f.slot == k && f.asked && f.got.isNone) = none) ∧ quiet s (s) = true := by decide +kernel

set_option maxRecDepth 100000 in
theorem wit_Triggers_26 :
    let h : Nat := 1; let p : Packet := sealPkt { dest := 1, src := 5, cls := 0, mode := 0, lenCells := 0, ptype := 0x30, extMask := 1, ext := [5, 0x60000000, 77, 0], payload := [], psn := 0, chan := 2, inc := 6 }; let m : HostView := {}; let c : Nat := 2; let s : State := { sOn with hs.ports := [(1, { st := .up })], hs.wqs := [(objKey 20 1 0, { st := .active, priv := true, head := 1, tail := 1, order := [0] })], hs.cqs := [(objKey 20 1 0, { active := true })], hs.chans := [(objKey 24 1 2, { st := .active, peer := 5, peerCh := 3, inc := 6, check := 1, cached := true, used := 1, t0 := 4, limit := 4, relaxed := true })], hs.bar := [(hostKey 1 0 0x20008, 0x100104), (hostKey 1 0 0x40010, 4), (hostKey 1 0 0x1C000, 0x8000), (hostKey 1 0 0x1C008, 0x24)], hs.mrCache := [(objKey 24 1 3, [0x9F, 0, 0, 0, 0x10000, 0, 0, 0, 0, 0, 0, 0, 0, 0, 0, 0])] }; let r : State := (arrived 1 48 p s).1; let u : State := inc (trnCtr h 1) r; let w : State := (takeCore h c (meetCtx h c u)).1; let x : Chan := chanOf w h c; let v : View := viewOf m u; let d : Nat := (p.psn - x.expect).toNat; let y : State := w; let z : Chan := x
    (arrived h 0x30 p s = (r, true)) ∧ (c = p.chan.toNat) ∧ (u = inc (trnCtr h 1) r) ∧ ((chanOf u h c).cached = true) ∧ (v = viewOf m u) ∧ (w = (takeCore h c (meetCtx h c u)).1) ∧ (x = chanOf w h c) ∧ (p.inc = x.inc) ∧ (p.src = x.peer) ∧ (x.unrel = false) ∧ (x.st ≠ .error) ∧ (d = (p.psn - x.expect).toNat) ∧ (d < 2048) ∧ (executedAt x d = false) ∧ (x.busy.any (fun q => q.psn == p.psn) = false) ∧ (heldBack x d p = false) ∧ ((if d = 0 ∨ x.window then (w, true) else freeSlots (boleOf h) (objKey 24 h c) 1 w) = (y, true)) ∧ (aliveOk x d p = true) ∧ (z = chanOf y h c) ∧ (checkOk z p = false) ∧ quiet s (afterRx h c p v (.over, cvuFail h 3 p y)) = true := by decide +kernel

set_option maxRecDepth 100000 in
theorem wit_Triggers_27 :
    let h : Nat := 1; let p : Packet := sealPkt { dest := 1, src := 5, cls := 0, mode := 0, lenCells := 0, ptype := 0x30, extMask := 1, ext := [5, 0x60000000, 77, 0], payload := [], psn := 0, chan := 2, inc := 6 }; let m : HostView := {}; let c : Nat := 2; let s : State := { sOn with hs.ports := [(1, { st := .up })], hs.wqs := [(objKey 20 1 0, { st := .active, priv := true, head := 1, tail := 1, order := [0] })], hs.cqs := [(objKey 20 1 0, { active := true })], hs.chans := [(objKey 24 1 2, { st := .active, peer := 5, peerCh := 3, inc := 6, check := 4, cached := true, used := 1, t0 := 4, limit := 4, relaxed := true })], hs.bar := [(hostKey 1 0 0x20008, 0x100104), (hostKey 1 0 0x40010, 4), (hostKey 1 0 0x1C000, 0x8000), (hostKey 1 0 0x1C008, 0x04)], hs.mrCache := [(objKey 24 1 3, [0x9F, 0, 0, 0, 0x10000, 0, 0, 0, 0, 0, 0, 0, 0, 0, 0, 0])] }; let r : State := (arrived 1 48 p s).1; let u : State := inc (trnCtr h 1) r; let w : State := (takeCore h c (meetCtx h c u)).1; let x : Chan := chanOf w h c; let v : View := viewOf m u; let d : Nat := (p.psn - x.expect).toNat; let y : State := w; let z : Chan := x
    (arrived h 0x30 p s = (r, true)) ∧ (c = p.chan.toNat) ∧ (u = inc (trnCtr h 1) r) ∧ ((chanOf u h c).cached = true) ∧ (v = viewOf m u) ∧ (w = (takeCore h c (meetCtx h c u)).1) ∧ (x = chanOf w h c) ∧ (p.inc = x.inc) ∧ (p.src = x.peer) ∧ (x.unrel = false) ∧ (x.st ≠ .error) ∧ (d = (p.psn - x.expect).toNat) ∧ (d < 2048) ∧ (executedAt x d = false) ∧ (x.busy.any (fun q => q.psn == p.psn) = false) ∧ (heldBack x d p = false) ∧ ((if d = 0 ∨ x.window then (w, true) else freeSlots (boleOf h) (objKey 24 h c) 1 w) = (y, true)) ∧ (aliveOk x d p = true) ∧ (z = chanOf y h c) ∧ (checkOk z p = true) ∧ (poolOn y h z.fn = false ∨ poolSlots y h z.fn ≤ Packet.extF p 0 0 0 20 ∨ Packet.extF p 0 0 20 12 ≠ 0 ∨ Packet.extF p 0 1 0 16 ≠ 0 ∨ Packet.extF p 0 1 16 13 ≠ 0) ∧ quiet s (afterRx h c p v (.over, sendAck h c p.psn 0x12 0 (ectCause h 4 (inc (ectCtr h 10) y)))) = true := by decide +kernel

set_option maxRecDepth 100000 in
theorem wit_Triggers_28 :
    let h : Nat := 1; let p : Packet := sealPkt { dest := 1, src := 5, cls := 0, mode := 0, lenCells := 0, ptype := 0x30, extMask := 1, ext := [5, 0x60000000, 77, 0], payload := [], psn := 0, chan := 2, inc := 6 }; let m : HostView := { bad := [(0x9400, 1024)] }; let c : Nat := 2; let k : Nat := 5; let s : State := { sOn with hs.ports := [(1, { st := .up })], hs.wqs := [(objKey 20 1 0, { st := .active, priv := true, head := 1, tail := 1, order := [0] })], hs.cqs := [(objKey 20 1 0, { active := true })], hs.chans := [(objKey 24 1 2, { st := .active, peer := 5, peerCh := 3, inc := 6, check := 4, cached := true, used := 1, t0 := 4, limit := 4, relaxed := true })], hs.bar := [(hostKey 1 0 0x20008, 0x100104), (hostKey 1 0 0x40010, 4), (hostKey 1 0 0x1C000, 0x8000), (hostKey 1 0 0x1C008, 0x24)], hs.mrCache := [(objKey 24 1 3, [0x9F, 0, 0, 0, 0x10000, 0, 0, 0, 0, 0, 0, 0, 0, 0, 0, 0])] }; let r : State := (arrived 1 48 p s).1; let u : State := inc (trnCtr h 1) r; let w : State := (takeCore h c (meetCtx h c u)).1; let x : Chan := chanOf w h c; let v : View := viewOf m u; let d : Nat := (p.psn - x.expect).toNat; let y : State := w; let z : Chan := x; let rr : Acc (List Word) := (readSlot h z.fn k 256 (.chan c p.psn) v y).1; let a : State := (readSlot h z.fn k 256 (.chan c p.psn) v y).2
    (arrived h 0x30 p s = (r, true)) ∧ (c = p.chan.toNat) ∧ (u = inc (trnCtr h 1) r) ∧ ((chanOf u h c).cached = true) ∧ (v = viewOf m u) ∧ (w = (takeCore h c (meetCtx h c u)).1) ∧ (x = chanOf w h c) ∧ (p.inc = x.inc) ∧ (p.src = x.peer) ∧ (x.unrel = false) ∧ (x.st ≠ .error) ∧ (d = (p.psn - x.expect).toNat) ∧ (d < 2048) ∧ (executedAt x d = false) ∧ (x.busy.any (fun q => q.psn == p.psn) = false) ∧ (heldBack x d p = false) ∧ ((if d = 0 ∨ x.window then (w, true) else freeSlots (boleOf h) (objKey 24 h c) 1 w) = (y, true)) ∧ (aliveOk x d p = true) ∧ (z = chanOf y h c) ∧ (checkOk z p = true) ∧ (poolOn y h z.fn = true) ∧ (k = Packet.extF p 0 0 0 20) ∧ (k < poolSlots y h z.fn) ∧ (Packet.extF p 0 0 20 12 = 0) ∧ (Packet.extF p 0 1 0 16 = 0) ∧ (Packet.extF p 0 1 16 13 = 0) ∧ (readSlot h z.fn k 256 (.chan c p.psn) v y = (rr, a)) ∧ ((match rr with | .ok _ => false | .wait _ => false | _ => true) = true) ∧ quiet s (afterRx h c p v (.over, sendAck h c p.psn 1 0 (ectCause h 2 (inc (ectCtr h 9) a)))) = true := by decide +kernel

set_option maxRecDepth 100000 in
theorem wit_Triggers_29 :
    let h : Nat := 1; let p : Packet := sealPkt { dest := 1, src := 5, cls := 0, mode := 0, lenCells := 0, ptype := 0x30, extMask := 1, ext := [5, 0x60000000, 77, 0], payload := [], psn := 0, chan := 2, inc := 6 }; let m : HostView := {}; let c : Nat := 2; let k : Nat := 5; let n : Need := .read 0 0x9400 1024 true; let s : State := { sOn with hs.ports := [(1, { st := .up })], hs.wqs := [(objKey 20 1 0, { st := .active, priv := true, head := 1, tail := 1, order := [0] })], hs.cqs := [(objKey 20 1 0, { active := true })], hs.chans := [(objKey 24 1 2, { st := .active, peer := 5, peerCh := 3, inc := 6, check := 4, cached := true, used := 1, t0 := 4, limit := 4, relaxed := true })], hs.bar := [(hostKey 1 0 0x20008, 0x100104), (hostKey 1 0 0x40010, 4), (hostKey 1 0 0x1C000, 0x8000), (hostKey 1 0 0x1C008, 0x24)], hs.mrCache := [(objKey 24 1 3, [0x9F, 0, 0, 0, 0x10000, 0, 0, 0, 0, 0, 0, 0, 0, 0, 0, 0])] }; let r : State := (arrived 1 48 p s).1; let u : State := inc (trnCtr h 1) r; let w : State := (takeCore h c (meetCtx h c u)).1; let x : Chan := chanOf w h c; let v : View := viewOf m u; let d : Nat := (p.psn - x.expect).toNat; let y : State := w; let z : Chan := x; let a : State := (readSlot h z.fn k 256 (.chan c p.psn) v y).2
    (arrived h 0x30 p s = (r, true)) ∧ (c = p.chan.toNat) ∧ (u = inc (trnCtr h 1) r) ∧ ((chanOf u h c).cached = true) ∧ (v = viewOf m u) ∧ (w = (takeCore h c (meetCtx h c u)).1) ∧ (x = chanOf w h c) ∧ (p.inc = x.inc) ∧ (p.src = x.peer) ∧ (x.unrel = false) ∧ (x.st ≠ .error) ∧ (d = (p.psn - x.expect).toNat) ∧ (d < 2048) ∧ (executedAt x d = false) ∧ (x.busy.any (fun q => q.psn == p.psn) = false) ∧ (heldBack x d p = false) ∧ ((if d = 0 ∨ x.window then (w, true) else freeSlots (boleOf h) (objKey 24 h c) 1 w) = (y, true)) ∧ (aliveOk x d p = true) ∧ (z = chanOf y h c) ∧ (checkOk z p = true) ∧ (poolOn y h z.fn = true) ∧ (k = Packet.extF p 0 0 0 20) ∧ (k < poolSlots y h z.fn) ∧ (Packet.extF p 0 0 20 12 = 0) ∧ (Packet.extF p 0 1 0 16 = 0) ∧ (Packet.extF p 0 1 16 13 = 0) ∧ (readSlot h z.fn k 256 (.chan c p.psn) v y = (.wait n, a)) ∧ quiet s (rxWait h c p n a) = true := by decide +kernel

set_option maxRecDepth 100000 in
theorem wit_Triggers_30 :
    let h : Nat := 1; let p : Packet := sealPkt { dest := 1, src := 5, cls := 0, mode := 0, lenCells := 0, ptype := 0x30, extMask := 1, ext := [5, 0x60000000, 77, 0], payload := [], psn := 0, chan := 2, inc := 6 }; let m : HostView := { spans := [(0x9400, wBytes (padW 256 ([1 + 4 + 16, 0, 0, 0, 0, 2 ^ 20, 0, 0, 2, 77, 0, 0, 0, 0, 0, 0] ++ [65541, 0, 0, 0, 0, 0, 0, 0, 0, 0, 0, 0, 0, 0, 0, 2147483648])))] }; let c : Nat := 2; let k : Nat := 5; let ws : List Word := padW 256 ([1 + 4 + 16, 0, 0, 0, 0, 2 ^ 20, 0, 0, 2, 77, 0, 0, 0, 0, 0, 0] ++ [65541, 0, 0, 0, 0, 0, 0, 0, 0, 0, 0, 0, 0, 0, 0, 2147483648]); let s : State := { sOn with hs.ports := [(1, { st := .up })], hs.wqs := [(objKey 20 1 0, { st := .active, priv := true, head := 1, tail := 1, order := [0] })], hs.cqs := [(objKey 20 1 0, { active := true })], hs.chans := [(objKey 24 1 2, { st := .active, peer := 5, peerCh := 3, inc := 6, check := 4, cached := true, used := 1, t0 := 4, limit := 4, relaxed := true })], hs.bar := [(hostKey 1 0 0x20008, 0x100104), (hostKey 1 0 0x40010, 4), (hostKey 1 0 0x1C000, 0x8000), (hostKey 1 0 0x1C008, 0x24)], hs.mrCache := [(objKey 24 1 3, [0x9F, 0, 0, 0, 0x10000, 0, 0, 0, 0, 0, 0, 0, 0, 0, 0, 0])] }; let r : State := (arrived 1 48 p s).1; let u : State := inc (trnCtr h 1) r; let w : State := (takeCore h c (meetCtx h c u)).1; let x : Chan := chanOf w h c; let v : View := viewOf m u; let d : Nat := (p.psn - x.expect).toNat; let y : State := w; let z : Chan := x; let a : State := (readSlot h z.fn k 256 (.chan c p.psn) v y).2
    (arrived h 0x30 p s = (r, true)) ∧ (c = p.chan.toNat) ∧ (u = inc (trnCtr h 1) r) ∧ ((chanOf u h c).cached = true) ∧ (v = viewOf m u) ∧ (w = (takeCore h c (meetCtx h c u)).1) ∧ (x = chanOf w h c) ∧ (p.inc = x.inc) ∧ (p.src = x.peer) ∧ (x.unrel = false) ∧ (x.st ≠ .error) ∧ (d = (p.psn - x.expect).toNat) ∧ (d < 2048) ∧ (executedAt x d = false) ∧ (x.busy.any (fun q => q.psn == p.psn) = false) ∧ (heldBack x d p = false) ∧ ((if d = 0 ∨ x.window then (w, true) else freeSlots (boleOf h) (objKey 24 h c) 1 w) = (y, true)) ∧ (aliveOk x d p = true) ∧ (z = chanOf y h c) ∧ (checkOk z p = true) ∧ (poolOn y h z.fn = true) ∧ (k = Packet.extF p 0 0 0 20) ∧ (k < poolSlots y h z.fn) ∧ (Packet.extF p 0 0 20 12 = 0) ∧ (Packet.extF p 0 1 0 16 = 0) ∧ (Packet.extF p 0 1 16 13 = 0) ∧ (readSlot h z.fn k 256 (.chan c p.psn) v y = (.ok ws, a)) ∧ (fAt ws 0 0 2 = 1) ∧ (bAt ws 0 2 = true) ∧ (fAt ws 8 0 24 = c) ∧ (wAt ws 9 = Packet.extW p 0 2) ∧ ((hport (inc (ectCtr h 6) (issueFired h z.fn k none ws (cvuGood h z a))) h).firedq.any (fun j => j.id == (hport a h).nextJob) = true) ∧ quiet s (rxWait h c p (.issue (hport a h).nextJob) (inc (ectCtr h 6) (issueFired h z.fn k none ws (cvuGood h z a)))) = true := by decide +kernel

set_option maxRecDepth 100000 in
theorem wit_Triggers_31 :
    let h : Nat := 1; let p : Packet := sealPkt { dest := 1, src := 5, cls := 0, mode := 0, lenCells := 0, ptype := 0x30, extMask := 1, ext := [5, 0x60000000, 77, 0], payload := [], psn := 0, chan := 2, inc := 6 }; let m : HostView := { spans := [(0x9400, wBytes (padW 256 ([1 + 4 + 16, 0, 0, 0, 0, 2 ^ 20, 0, 0, 2, 77, 0, 0, 0, 0, 0, 0] ++ [65541, 0, 0, 0, 0, 0, 0, 0, 0, 0, 0, 0, 0, 0, 0, 2147483648])))] }; let c : Nat := 2; let k : Nat := 5; let ws : List Word := padW 256 ([1 + 4 + 16, 0, 0, 0, 0, 2 ^ 20, 0, 0, 2, 77, 0, 0, 0, 0, 0, 0] ++ [65541, 0, 0, 0, 0, 0, 0, 0, 0, 0, 0, 0, 0, 0, 0, 2147483648]); let s : State := { sOn with hs.ports := [(1, { st := .up })], hs.cqs := [(objKey 20 1 0, { active := true })], hs.chans := [(objKey 24 1 2, { st := .active, peer := 5, peerCh := 3, inc := 6, check := 4, cached := true, used := 1, t0 := 4, limit := 4, relaxed := true })], hs.bar := [(hostKey 1 0 0x20008, 0x100104), (hostKey 1 0 0x40010, 4), (hostKey 1 0 0x1C000, 0x8000), (hostKey 1 0 0x1C008, 0x24)], hs.mrCache := [(objKey 24 1 3, [0x9F, 0, 0, 0, 0x10000, 0, 0, 0, 0, 0, 0, 0, 0, 0, 0, 0])] }; let r : State := (arrived 1 48 p s).1; let u : State := inc (trnCtr h 1) r; let w : State := (takeCore h c (meetCtx h c u)).1; let x : Chan := chanOf w h c; let v : View := viewOf m u; let d : Nat := (p.psn - x.expect).toNat; let y : State := w; let z : Chan := x; let a : State := (readSlot h z.fn k 256 (.chan c p.psn) v y).2
    (arrived h 0x30 p s = (r, true)) ∧ (c = p.chan.toNat) ∧ (u = inc (trnCtr h 1) r) ∧ ((chanOf u h c).cached = true) ∧ (v = viewOf m u) ∧ (w = (takeCore h c (meetCtx h c u)).1) ∧ (x = chanOf w h c) ∧ (p.inc = x.inc) ∧ (p.src = x.peer) ∧ (x.unrel = false) ∧ (x.st ≠ .error) ∧ (d = (p.psn - x.expect).toNat) ∧ (d < 2048) ∧ (executedAt x d = false) ∧ (x.busy.any (fun q => q.psn == p.psn) = false) ∧ (heldBack x d p = false) ∧ ((if d = 0 ∨ x.window then (w, true) else freeSlots (boleOf h) (objKey 24 h c) 1 w) = (y, true)) ∧ (aliveOk x d p = true) ∧ (z = chanOf y h c) ∧ (checkOk z p = true) ∧ (poolOn y h z.fn = true) ∧ (k = Packet.extF p 0 0 0 20) ∧ (k < poolSlots y h z.fn) ∧ (Packet.extF p 0 0 20 12 = 0) ∧ (Packet.extF p 0 1 0 16 = 0) ∧ (Packet.extF p 0 1 16 13 = 0) ∧ (readSlot h z.fn k 256 (.chan c p.psn) v y = (.ok ws, a)) ∧ (fAt ws 0 0 2 = 1) ∧ (bAt ws 0 2 = true) ∧ (fAt ws 8 0 24 = c) ∧ (wAt ws 9 = Packet.extW p 0 2) ∧ ((hport (inc (ectCtr h 6) (issueFired h z.fn k none ws (cvuGood h z a))) h).firedq.any (fun j => j.id == (hport a h).nextJob) = false) ∧ quiet s (afterRx h c p v (.over, ackDue h c p (markDone h c d p (inc (ectCtr h 6) (issueFired h z.fn k none ws (cvuGood h z a)))))) = true := by decide +kernel

set_option maxRecDepth 100000 in
theorem wit_Triggers_32 :
    let h : Nat := 1; let p : Packet := sealPkt { dest := 1, src := 5, cls := 0, mode := 0, lenCells := 0, ptype := 0x30, extMask := 1, ext := [5, 0x60000000, 77, 0], payload := [], psn := 0, chan := 2, inc := 6 }; let m : HostView := { spans := [(0x9400, wBytes (padW 256 []))] }; let c : Nat := 2; let k : Nat := 5; let ws : List Word := padW 256 []; let s : State := { sOn with hs.ports := [(1, { st := .up })], hs.wqs := [(objKey 20 1 0, { st := .active, priv := true, head := 1, tail := 1, order := [0] })], hs.cqs := [(objKey 20 1 0, { active := true })], hs.chans := [(objKey 24 1 2, { st := .active, peer := 5, peerCh := 3, inc := 6, check := 4, cached := true, used := 1, t0 := 4, limit := 4, relaxed := true })], hs.bar := [(hostKey 1 0 0x20008, 0x100104), (hostKey 1 0 0x40010, 4), (hostKey 1 0 0x1C000, 0x8000), (hostKey 1 0 0x1C008, 0x24)], hs.mrCache := [(objKey 24 1 3, [0x9F, 0, 0, 0, 0x10000, 0, 0, 0, 0, 0, 0, 0, 0, 0, 0, 0])] }; let r : State := (arrived 1 48 p s).1; let u : State := inc (trnCtr h 1) r; let w : State := (takeCore h c (meetCtx h c u)).1; let x : Chan := chanOf w h c; let v : View := viewOf m u; let d : Nat := (p.psn - x.expect).toNat; let y : State := w; let z : Chan := x; let a : State := (readSlot h z.fn k 256 (.chan c p.psn) v y).2
    (arrived h 0x30 p s = (r, true)) ∧ (c = p.chan.toNat) ∧ (u = inc (trnCtr h 1) r) ∧ ((chanOf u h c).cached = true) ∧ (v = viewOf m u) ∧ (w = (takeCore h c (meetCtx h c u)).1) ∧ (x = chanOf w h c) ∧ (p.inc = x.inc) ∧ (p.src = x.peer) ∧ (x.unrel = false) ∧ (x.st ≠ .error) ∧ (d = (p.psn - x.expect).toNat) ∧ (d < 2048) ∧ (executedAt x d = false) ∧ (x.busy.any (fun q => q.psn == p.psn) = false) ∧ (heldBack x d p = false) ∧ ((if d = 0 ∨ x.window then (w, true) else freeSlots (boleOf h) (objKey 24 h c) 1 w) = (y, true)) ∧ (aliveOk x d p = true) ∧ (z = chanOf y h c) ∧ (checkOk z p = true) ∧ (poolOn y h z.fn = true) ∧ (k = Packet.extF p 0 0 0 20) ∧ (k < poolSlots y h z.fn) ∧ (Packet.extF p 0 0 20 12 = 0) ∧ (Packet.extF p 0 1 0 16 = 0) ∧ (Packet.extF p 0 1 16 13 = 0) ∧ (readSlot h z.fn k 256 (.chan c p.psn) v y = (.ok ws, a)) ∧ (fAt ws 0 0 2 ≠ 1 ∨ bAt ws 0 2 = false) ∧ quiet s (afterRx h c p v (.over, sendAck h c p.psn 1 0 (inc (ectCtr h 7) a))) = true := by decide +kernel

set_option maxRecDepth 100000 in
theorem wit_Triggers_33 :
    let h : Nat := 1; let p : Packet := sealPkt { dest := 1, src := 5, cls := 0, mode := 0, lenCells := 0, ptype := 0x30, extMask := 1, ext := [5, 0x60000000, 78, 0], payload := [], psn := 0, chan := 2, inc := 6 }; let m : HostView := { spans := [(0x9400, wBytes (padW 256 ([1 + 4 + 16, 0, 0, 0, 0, 2 ^ 20, 0, 0, 2, 77, 0, 0, 0, 0, 0, 0] ++ [65541, 0, 0, 0, 0, 0, 0, 0, 0, 0, 0, 0, 0, 0, 0, 2147483648])))] }; let c : Nat := 2; let k : Nat := 5; let ws : List Word := padW 256 ([1 + 4 + 16, 0, 0, 0, 0, 2 ^ 20, 0, 0, 2, 77, 0, 0, 0, 0, 0, 0] ++ [65541, 0, 0, 0, 0, 0, 0, 0, 0, 0, 0, 0, 0, 0, 0, 2147483648]); let s : State := { sOn with hs.ports := [(1, { st := .up })], hs.wqs := [(objKey 20 1 0, { st := .active, priv := true, head := 1, tail := 1, order := [0] })], hs.cqs := [(objKey 20 1 0, { active := true })], hs.chans := [(objKey 24 1 2, { st := .active, peer := 5, peerCh := 3, inc := 6, check := 4, cached := true, used := 1, t0 := 4, limit := 4, relaxed := true })], hs.bar := [(hostKey 1 0 0x20008, 0x100104), (hostKey 1 0 0x40010, 4), (hostKey 1 0 0x1C000, 0x8000), (hostKey 1 0 0x1C008, 0x24)], hs.mrCache := [(objKey 24 1 3, [0x9F, 0, 0, 0, 0x10000, 0, 0, 0, 0, 0, 0, 0, 0, 0, 0, 0])] }; let r : State := (arrived 1 48 p s).1; let u : State := inc (trnCtr h 1) r; let w : State := (takeCore h c (meetCtx h c u)).1; let x : Chan := chanOf w h c; let v : View := viewOf m u; let d : Nat := (p.psn - x.expect).toNat; let y : State := w; let z : Chan := x; let a : State := (readSlot h z.fn k 256 (.chan c p.psn) v y).2
    (arrived h 0x30 p s = (r, true)) ∧ (c = p.chan.toNat) ∧ (u = inc (trnCtr h 1) r) ∧ ((chanOf u h c).cached = true) ∧ (v = viewOf m u) ∧ (w = (takeCore h c (meetCtx h c u)).1) ∧ (x = chanOf w h c) ∧ (p.inc = x.inc) ∧ (p.src = x.peer) ∧ (x.unrel = false) ∧ (x.st ≠ .error) ∧ (d = (p.psn - x.expect).toNat) ∧ (d < 2048) ∧ (executedAt x d = false) ∧ (x.busy.any (fun q => q.psn == p.psn) = false) ∧ (heldBack x d p = false) ∧ ((if d = 0 ∨ x.window then (w, true) else freeSlots (boleOf h) (objKey 24 h c) 1 w) = (y, true)) ∧ (aliveOk x d p = true) ∧ (z = chanOf y h c) ∧ (checkOk z p = true) ∧ (poolOn y h z.fn = true) ∧ (k = Packet.extF p 0 0 0 20) ∧ (k < poolSlots y h z.fn) ∧ (Packet.extF p 0 0 20 12 = 0) ∧ (Packet.extF p 0 1 0 16 = 0) ∧ (Packet.extF p 0 1 16 13 = 0) ∧ (readSlot h z.fn k 256 (.chan c p.psn) v y = (.ok ws, a)) ∧ (fAt ws 0 0 2 = 1) ∧ (bAt ws 0 2 = true) ∧ (fAt ws 8 0 24 ≠ c ∨ wAt ws 9 ≠ Packet.extW p 0 2) ∧ quiet s (afterRx h c p v (.over, markRefused h c d p 2 (sendAck h c p.psn 0x10 2 (ectCause h 4 (inc (ectCtr h 10) a))))) = true := by decide +kernel

set_option maxRecDepth 100000 in
theorem wit_Triggers_34 :
    let h : Nat := 1; let p : Packet := sealPkt { dest := 1, src := 5, cls := 0, mode := 0, lenCells := 0, ptype := 0x30, extMask := 1, ext := [5, 0x60000000, 77, 0], payload := [], psn := 0, chan := 2, inc := 6 }; let m : HostView := {}; let c : Nat := 2; let s : State := { sOn with hs.ports := [(1, { st := .up })], hs.wqs := [(objKey 20 1 0, { st := .active, priv := true, head := 1, tail := 1, order := [0] })], hs.cqs := [(objKey 20 1 0, { active := true })], hs.chans := [(objKey 24 1 2, { st := .active, peer := 5, peerCh := 3, inc := 6, check := 4, cached := true, used := 1, t0 := 4, limit := 4, relaxed := true, unrel := true })], hs.bar := [(hostKey 1 0 0x20008, 0x100104), (hostKey 1 0 0x40010, 4), (hostKey 1 0 0x1C000, 0x8000), (hostKey 1 0 0x1C008, 0x24)], hs.mrCache := [(objKey 24 1 3, [0x9F, 0, 0, 0, 0x10000, 0, 0, 0, 0, 0, 0, 0, 0, 0, 0, 0])] }; let r : State := (arrived 1 48 p s).1; let u : State := inc (trnCtr h 1) r; let w : State := (takeCore h c (meetCtx h c u)).1; let x : Chan := chanOf w h c; let v : View := viewOf m u
    (arrived h 0x30 p s = (r, true)) ∧ (c = p.chan.toNat) ∧ (u = inc (trnCtr h 1) r) ∧ ((chanOf u h c).cached = true) ∧ (v = viewOf m u) ∧ (w = (takeCore h c (meetCtx h c u)).1) ∧ (x = chanOf w h c) ∧ (p.inc = x.inc) ∧ (p.src = x.peer) ∧ (x.unrel = true) ∧ quiet s (afterRx h c p v (.over, ectCause h 4 (inc (ectCtr h 10) w))) = true := by decide +kernel

set_option maxRecDepth 100000 in
theorem wit_Triggers_35 :
    let h : Nat := 1; let p : Packet := sealPkt { dest := 1, src := 5, cls := 0, mode := 0, lenCells := 0, ptype := 0x30, extMask := 1, ext := [5, 0x60000000, 77, 0], payload := [], psn := 0, chan := 2, inc := 6 }; let m : HostView := {}; let s : State := sOn; let r : State := (arrived 1 48 p s).1
    (arrived h 48 p s = (r, false)) ∧ quiet s (r) = true := by decide +kernel

set_option maxRecDepth 100000 in
theorem wit_Triggers_36 :
    let h : Nat := 1; let p : Packet := sealPkt { dest := 1, src := 5, cls := 0, mode := 0, lenCells := 0, ptype := 0x30, extMask := 1, ext := [5, 0x60000000, 77, 0], payload := [], psn := 0, chan := 2, inc := 6 }; let m : HostView := {}; let c : Nat := 2; let s : State := { sOn with hs.ports := [(1, { st := .up })], hs.cqs := [(objKey 20 1 0, { active := true })], hs.chans := [(objKey 24 1 2, { st := .active, peer := 5, peerCh := 3, inc := 6, check := 4, cached := false, used := 1, t0 := 4, limit := 4, relaxed := true })], hs.bar := [(hostKey 1 0 0x20008, 0x100104), (hostKey 1 0 0x40010, 4)], hs.mrCache := [(objKey 24 1 3, [0x9F, 0, 0, 0, 0x10000, 0, 0, 0, 0, 0, 0, 0, 0, 0, 0, 0])] }; let r : State := (arrived 1 48 p s).1
    (arrived h 48 p s = (r, true)) ∧ (c = p.chan.toNat) ∧ ((chanOf (inc (trnCtr h 1) r) h c).cached = false) ∧ quiet s (fetchCtx h c (park h c p (inc (trnCtr h 1) r))) = true := by decide +kernel

set_option maxRecDepth 100000 in
theorem wit_Triggers_37 :
    let h : Nat := 1; let p : Packet := sealPkt { dest := 1, src := 5, cls := 0, mode := 0, lenCells := 0, ptype := 0x30, extMask := 1, ext := [5, 0x60000000, 77, 0], payload := [], psn := 0, chan := 2, inc := 7 }; let m : HostView := {}; let c : Nat := 2; let s : State := { sOn with hs.ports := [(1, { st := .up })], hs.cqs := [(objKey 20 1 0, { active := true })], hs.chans := [(objKey 24 1 2, { st := .active, peer := 5, peerCh := 3, inc := 6, check := 4, cached := true, used := 1, t0 := 4, limit := 4, relaxed := true })], hs.bar := [(hostKey 1 0 0x20008, 0x100104), (hostKey 1 0 0x40010, 4)], hs.mrCache := [(objKey 24 1 3, [0x9F, 0, 0, 0, 0x10000, 0, 0, 0, 0, 0, 0, 0, 0, 0, 0, 0])] }; let r : State := (arrived 1 48 p s).1; let u : State := inc (trnCtr h 1) r; let w : State := (takeCore h c (meetCtx h c u)).1; let x : Chan := chanOf w h c; let v : View := viewOf m u
    (arrived h 48 p s = (r, true)) ∧ (c = p.chan.toNat) ∧ (u = inc (trnCtr h 1) r) ∧ ((chanOf u h c).cached = true) ∧ (v = viewOf m u) ∧ (w = (takeCore h c (meetCtx h c u)).1) ∧ (x = chanOf w h c) ∧ (p.inc ≠ x.inc) ∧ quiet s (afterRx h c p v (.over, trnStale h 7 w)) = true := by decide +kernel

set_option maxRecDepth 100000 in
theorem wit_Triggers_38 :
    let h : Nat := 1; let p : Packet := sealPkt { dest := 1, src := 9, cls := 0, mode := 0, lenCells := 0, ptype := 0x30, extMask := 1, ext := [5, 0x60000000, 77, 0], payload := [], psn := 0, chan := 2, inc := 6 }; let m : HostView := {}; let c : Nat := 2; let s : State := { sOn with hs.ports := [(1, { st := .up })], hs.cqs := [(objKey 20 1 0, { active := true })], hs.chans := [(objKey 24 1 2, { st := .active, peer := 5, peerCh := 3, inc := 6, check := 4, cached := true, used := 1, t0 := 4, limit := 4, relaxed := true })], hs.bar := [(hostKey 1 0 0x20008, 0x100104), (hostKey 1 0 0x40010, 4)], hs.mrCache := [(objKey 24 1 3, [0x9F, 0, 0, 0, 0x10000, 0, 0, 0, 0, 0, 0, 0, 0, 0, 0, 0])] }; let r : State := (arrived 1 48 p s).1; let u : State := inc (trnCtr h 1) r; let w : State := (takeCore h c (meetCtx h c u)).1; let x : Chan := chanOf w h c; let v : View := viewOf m u
    (arrived h 48 p s = (r, true)) ∧ (c = p.chan.toNat) ∧ (u = inc (trnCtr h 1) r) ∧ ((chanOf u h c).cached = true) ∧ (v = viewOf m u) ∧ (w = (takeCore h c (meetCtx h c u)).1) ∧ (x = chanOf w h c) ∧ (p.inc = x.inc) ∧ (p.src ≠ x.peer) ∧ quiet s (afterRx h c p v (.over, trnStale h 8 w)) = true := by decide +kernel

set_option maxRecDepth 100000 in
theorem wit_Triggers_39 :
    let h : Nat := 1; let p : Packet := sealPkt { dest := 1, src := 5, cls := 0, mode := 0, lenCells := 0, ptype := 0x30, extMask := 1, ext := [5, 0x60000000, 77, 0], payload := [], psn := 0, chan := 2, inc := 6 }; let m : HostView := {}; let c : Nat := 2; let s : State := { sOn with hs.ports := [(1, { st := .up })], hs.cqs := [(objKey 20 1 0, { active := true })], hs.chans := [(objKey 24 1 2, { st := .error, peer := 5, peerCh := 3, inc := 6, check := 4, cached := true, used := 1, t0 := 4, limit := 4, relaxed := true })], hs.bar := [(hostKey 1 0 0x20008, 0x100104), (hostKey 1 0 0x40010, 4)], hs.mrCache := [(objKey 24 1 3, [0x9F, 0, 0, 0, 0x10000, 0, 0, 0, 0, 0, 0, 0, 0, 0, 0, 0])] }; let r : State := (arrived 1 48 p s).1; let u : State := inc (trnCtr h 1) r; let w : State := (takeCore h c (meetCtx h c u)).1; let x : Chan := chanOf w h c; let v : View := viewOf m u
    (arrived h 48 p s = (r, true)) ∧ (c = p.chan.toNat) ∧ (u = inc (trnCtr h 1) r) ∧ ((chanOf u h c).cached = true) ∧ (v = viewOf m u) ∧ (w = (takeCore h c (meetCtx h c u)).1) ∧ (x = chanOf w h c) ∧ (p.inc = x.inc) ∧ (p.src = x.peer) ∧ (x.unrel = false) ∧ (x.st = .error) ∧ quiet s (afterRx h c p v (.over, sendAck h c p.psn 0x11 0 w)) = true := by decide +kernel

set_option maxRecDepth 100000 in
theorem wit_Triggers_40 :
    let h : Nat := 1; let p : Packet := sealPkt { dest := 1, src := 5, cls := 0, mode := 0, lenCells := 0, ptype := 0x30, extMask := 1, ext := [5, 0x60000000, 77, 0], payload := [], psn := 2048, chan := 2, inc := 6 }; let m : HostView := {}; let c : Nat := 2; let s : State := { sOn with hs.ports := [(1, { st := .up })], hs.cqs := [(objKey 20 1 0, { active := true })], hs.chans := [(objKey 24 1 2, { st := .active, peer := 5, peerCh := 3, inc := 6, check := 4, cached := true, used := 1, t0 := 4, limit := 4, relaxed := true })], hs.bar := [(hostKey 1 0 0x20008, 0x100104), (hostKey 1 0 0x40010, 4)], hs.mrCache := [(objKey 24 1 3, [0x9F, 0, 0, 0, 0x10000, 0, 0, 0, 0, 0, 0, 0, 0, 0, 0, 0])] }; let r : State := (arrived 1 48 p s).1; let u : State := inc (trnCtr h 1) r; let w : State := (takeCore h c (meetCtx h c u)).1; let x : Chan := chanOf w h c; let v : View := viewOf m u
    (arrived h 48 p s = (r, true)) ∧ (c = p.chan.toNat) ∧ (u = inc (trnCtr h 1) r) ∧ ((chanOf u h c).cached = true) ∧ (v = viewOf m u) ∧ (w = (takeCore h c (meetCtx h c u)).1) ∧ (x = chanOf w h c) ∧ (p.inc = x.inc) ∧ (p.src = x.peer) ∧ (x.unrel = false) ∧ (x.st ≠ .error) ∧ (2048 ≤ (p.psn - x.expect).toNat) ∧ ((p.psn - x.expect).toNat < 2 ^ 31) ∧ quiet s (afterRx h c p v (.over, trnStale h 9 w)) = true := by decide +kernel

set_option maxRecDepth 100000 in
theorem wit_Triggers_41 :
    let h : Nat := 1; let p : Packet := sealPkt { dest := 1, src := 5, cls := 0, mode := 0, lenCells := 0, ptype := 0x30, extMask := 1, ext := [5, 0x60000000, 77, 0], payload := [], psn := 0, chan := 2, inc := 6 }; let m : HostView := {}; let c : Nat := 2; let s : State := { sOn with hs.ports := [(1, { st := .up })], hs.cqs := [(objKey 20 1 0, { active := true })], hs.chans := [(objKey 24 1 2, { st := .active, peer := 5, peerCh := 3, inc := 6, check := 4, cached := true, used := 1, t0 := 4, limit := 4, relaxed := true, busy := [sealPkt { dest := 1, src := 5, cls := 0, mode := 0, lenCells := 0, ptype := 0x30, extMask := 1, ext := [5, 0x60000000, 77, 0], payload := [], psn := 0, chan := 2, inc := 6 }] })], hs.bar := [(hostKey 1 0 0x20008, 0x100104), (hostKey 1 0 0x40010, 4)], hs.mrCache := [(objKey 24 1 3, [0x9F, 0, 0, 0, 0x10000, 0, 0, 0, 0, 0, 0, 0, 0, 0, 0, 0])] }; let r : State := (arrived 1 48 p s).1; let u : State := inc (trnCtr h 1) r; let w : State := (takeCore h c (meetCtx h c u)).1; let x : Chan := chanOf w h c; let v : View := viewOf m u; let d : Nat := (p.psn - x.expect).toNat
    (arrived h 48 p s = (r, true)) ∧ (c = p.chan.toNat) ∧ (u = inc (trnCtr h 1) r) ∧ ((chanOf u h c).cached = true) ∧ (v = viewOf m u) ∧ (w = (takeCore h c (meetCtx h c u)).1) ∧ (x = chanOf w h c) ∧ (p.inc = x.inc) ∧ (p.src = x.peer) ∧ (x.unrel = false) ∧ (x.st ≠ .error) ∧ (d = (p.psn - x.expect).toNat) ∧ (d < 2048) ∧ (executedAt x d = false) ∧ (x.busy.any (fun q => q.psn == p.psn) = true) ∧ quiet s (afterRx h c p v (.over, inc (trnCtr h 6) w)) = true := by decide +kernel

set_option maxRecDepth 100000 in
theorem wit_Triggers_42 :
    let h : Nat := 1; let p : Packet := sealPkt { dest := 1, src := 5, cls := 0, mode := 0, lenCells := 0, ptype := 0x30, extMask := 1, ext := [5, 0x60000000, 77, 0], payload := [], psn := 1, chan := 2, inc := 6 }; let m : HostView := {}; let c : Nat := 2; let s : State := { sOn with hs.ports := [(1, { st := .up })], hs.cqs := [(objKey 20 1 0, { active := true })], hs.chans := [(objKey 24 1 2, { st := .active, peer := 5, peerCh := 3, inc := 6, check := 4, cached := true, used := 1, t0 := 4, limit := 4, relaxed := false })], hs.bar := [(hostKey 1 0 0x20008, 0x100104), (hostKey 1 0 0x40010, 4)], hs.mrCache := [(objKey 24 1 3, [0x9F, 0, 0, 0, 0x10000, 0, 0, 0, 0, 0, 0, 0, 0, 0, 0, 0])] }; let r : State := (arrived 1 48 p s).1; let u : State := inc (trnCtr h 1) r; let w : State := (takeCore h c (meetCtx h c u)).1; let x : Chan := chanOf w h c; let v : View := viewOf m u; let d : Nat := (p.psn - x.expect).toNat
    (arrived h 48 p s = (r, true)) ∧ (c = p.chan.toNat) ∧ (u = inc (trnCtr h 1) r) ∧ ((chanOf u h c).cached = true) ∧ (v = viewOf m u) ∧ (w = (takeCore h c (meetCtx h c u)).1) ∧ (x = chanOf w h c) ∧ (p.inc = x.inc) ∧ (p.src = x.peer) ∧ (x.unrel = false) ∧ (x.st ≠ .error) ∧ (d = (p.psn - x.expect).toNat) ∧ (d < 2048) ∧ (executedAt x d = false) ∧ (x.busy.any (fun q => q.psn == p.psn) = false) ∧ (heldBack x d p = true) ∧ quiet s (park h c p w) = true := by decide +kernel

set_option maxRecDepth 100000 in
theorem wit_Triggers_43 :
    let h : Nat := 1; let p : Packet := sealPkt { dest := 1, src := 5, cls := 0, mode := 0, lenCells := 0, ptype := 0x30, extMask := 1, ext := [5, 0x60000000, 77, 0], payload := [], psn := 0, chan := 2, inc := 6 }; let m : HostView := {}; let c : Nat := 2; let s : State := { sOn with hs.ports := [(1, { st := .up })], hs.cqs := [(objKey 20 1 0, { active := true })], hs.chans := [(objKey 24 1 2, { st := .active, peer := 5, peerCh := 3, inc := 6, check := 4, cached := true, used := 1, t0 := 4, limit := 4, relaxed := true, rxMsn := 1 })], hs.bar := [(hostKey 1 0 0x20008, 0x100104), (hostKey 1 0 0x40010, 4)], hs.mrCache := [(objKey 24 1 3, [0x9F, 0, 0, 0, 0x10000, 0, 0, 0, 0, 0, 0, 0, 0, 0, 0, 0])] }; let r : State := (arrived 1 48 p s).1; let u : State := inc (trnCtr h 1) r; let w : State := (takeCore h c (meetCtx h c u)).1; let x : Chan := chanOf w h c; let v : View := viewOf m u; let d : Nat := (p.psn - x.expect).toNat; let y : State := w
    (arrived h 48 p s = (r, true)) ∧ (c = p.chan.toNat) ∧ (u = inc (trnCtr h 1) r) ∧ ((chanOf u h c).cached = true) ∧ (v = viewOf m u) ∧ (w = (takeCore h c (meetCtx h c u)).1) ∧ (x = chanOf w h c) ∧ (p.inc = x.inc) ∧ (p.src = x.peer) ∧ (x.unrel = false) ∧ (x.st ≠ .error) ∧ (d = (p.psn - x.expect).toNat) ∧ (d < 2048) ∧ (executedAt x d = false) ∧ (x.busy.any (fun q => q.psn == p.psn) = false) ∧ (heldBack x d p = false) ∧ ((if d = 0 ∨ x.window then (w, true) else freeSlots (boleOf h) (objKey 24 h c) 1 w) = (y, true)) ∧ (aliveOk x d p = false) ∧ quiet s (afterRx h c p v (.over, cvuFail h 4 p y)) = true := by decide +kernel

set_option maxRecDepth 100000 in
theorem wit_Triggers_44 :
    let h : Nat := 1; let p : Packet := sealPkt { dest := 1, src := 5, cls := 0, mode := 0, lenCells := 0, ptype := 0x30, extMask := 1, ext := [5, 0x60000000, 77, 0], payload := [], psn := 0, chan := 2, inc := 6 }; let m : HostView := {}; let c : Nat := 2; let k : Nat := 5; let s : State := { sOn with hs.ports := [(1, { st := .up })], hs.cqs := [(objKey 20 1 0, { active := true })], hs.chans := [(objKey 24 1 2, { st := .active, peer := 5, peerCh := 3, inc := 6, check := 4, cached := true, used := 1, t0 := 4, limit := 4, relaxed := true, expect := 1, refused := some (0, 5) })], hs.bar := [(hostKey 1 0 0x20008, 0x100104), (hostKey 1 0 0x40010, 4)], hs.mrCache := [(objKey 24 1 3, [0x9F, 0, 0, 0, 0x10000, 0, 0, 0, 0, 0, 0, 0, 0, 0, 0, 0])] }; let r : State := (arrived 1 48 p s).1; let u : State := inc (trnCtr h 1) r; let w : State := (takeCore h c (meetCtx h c u)).1; let x : Chan := chanOf w h c; let v : View := viewOf m u
    (arrived h 48 p s = (r, true)) ∧ (c = p.chan.toNat) ∧ (u = inc (trnCtr h 1) r) ∧ ((chanOf u h c).cached = true) ∧ (v = viewOf m u) ∧ (w = (takeCore h c (meetCtx h c u)).1) ∧ (x = chanOf w h c) ∧ (p.inc = x.inc) ∧ (p.src = x.peer) ∧ (x.unrel = false) ∧ (x.st ≠ .error) ∧ (2 ^ 31 ≤ (p.psn - x.expect).toNat ∨ ((p.psn - x.expect).toNat < 2048 ∧ executedAt x (p.psn - x.expect).toNat = true)) ∧ (x.refused = some (p.psn, k)) ∧ quiet s (afterRx h c p v (.over, sendAck h c p.psn 0x10 k (inc (trnCtr h 6) w))) = true := by decide +kernel

set_option maxRecDepth 100000 in
theorem wit_Triggers_45 :
    let h : Nat := 1; let p : Packet := sealPkt { dest := 1, src := 5, cls := 0, mode := 0, lenCells := 0, ptype := 0x30, extMask := 1, ext := [5, 0x60000000, 77, 0], payload := [], psn := 0, chan := 2, inc := 6 }; let m : HostView := {}; let c : Nat := 2; let s : State := { sOn with hs.ports := [(1, { st := .up })], hs.cqs := [(objKey 20 1 0, { active := true })], hs.chans := [(objKey 24 1 2, { st := .active, peer := 5, peerCh := 3, inc := 6, check := 4, cached := true, used := 1, t0 := 4, limit := 4, relaxed := true, expect := 3, refused := some (1, 5), olds := [0] })], hs.bar := [(hostKey 1 0 0x20008, 0x100104), (hostKey 1 0 0x40010, 4)], hs.mrCache := [(objKey 24 1 3, [0x9F, 0, 0, 0, 0x10000, 0, 0, 0, 0, 0, 0, 0, 0, 0, 0, 0])] }; let r : State := (arrived 1 48 p s).1; let u : State := inc (trnCtr h 1) r; let w : State := (takeCore h c (meetCtx h c u)).1; let x : Chan := chanOf w h c; let v : View := viewOf m u
    (arrived h 48 p s = (r, true)) ∧ (c = p.chan.toNat) ∧ (u = inc (trnCtr h 1) r) ∧ ((chanOf u h c).cached = true) ∧ (v = viewOf m u) ∧ (w = (takeCore h c (meetCtx h c u)).1) ∧ (x = chanOf w h c) ∧ (p.inc = x.inc) ∧ (p.src = x.peer) ∧ (x.unrel = false) ∧ (x.st ≠ .error) ∧ (2 ^ 31 ≤ (p.psn - x.expect).toNat ∨ ((p.psn - x.expect).toNat < 2048 ∧ executedAt x (p.psn - x.expect).toNat = true)) ∧ (x.refused.all (fun e => e.1 != p.psn) = true) ∧ (x.olds.contains p.psn = true) ∧ quiet s (afterRx h c p v (.over, sendAck h c p.psn 0 0 (inc (trnCtr h 6) w))) = true := by decide +kernel

set_option maxRecDepth 100000 in
theorem wit_Triggers_46 :
    let h : Nat := 1; let p : Packet := sealPkt { dest := 1, src := 5, cls := 0, mode := 0, lenCells := 0, ptype := 0x30, extMask := 1, ext := [5, 0x60000000, 77, 0], payload := [], psn := 0, chan := 2, inc := 6 }; let m : HostView := {}; let c : Nat := 2; let s : State := { sOn with hs.ports := [(1, { st := .up })], hs.cqs := [(objKey 20 1 0, { active := true })], hs.chans := [(objKey 24 1 2, { st := .active, peer := 5, peerCh := 3, inc := 6, check := 4, cached := true, used := 1, t0 := 4, limit := 4, relaxed := true, expect := 1 })], hs.bar := [(hostKey 1 0 0x20008, 0x100104), (hostKey 1 0 0x40010, 4)], hs.mrCache := [(objKey 24 1 3, [0x9F, 0, 0, 0, 0x10000, 0, 0, 0, 0, 0, 0, 0, 0, 0, 0, 0])] }; let r : State := (arrived 1 48 p s).1; let u : State := inc (trnCtr h 1) r; let w : State := (takeCore h c (meetCtx h c u)).1; let x : Chan := chanOf w h c; let v : View := viewOf m u
    (arrived h 48 p s = (r, true)) ∧ (c = p.chan.toNat) ∧ (u = inc (trnCtr h 1) r) ∧ ((chanOf u h c).cached = true) ∧ (v = viewOf m u) ∧ (w = (takeCore h c (meetCtx h c u)).1) ∧ (x = chanOf w h c) ∧ (p.inc = x.inc) ∧ (p.src = x.peer) ∧ (x.unrel = false) ∧ (x.st ≠ .error) ∧ (2 ^ 31 ≤ (p.psn - x.expect).toNat ∨ ((p.psn - x.expect).toNat < 2048 ∧ executedAt x (p.psn - x.expect).toNat = true)) ∧ (x.refused.all (fun e => e.1 != p.psn) = true) ∧ quiet s (afterRx h c p v (.over, sendAck h c p.psn 0 0 (inc (trnCtr h 6) w))) = true := by decide +kernel

theorem wit_Triggers_47 :
    let h : Nat := 1; let q : Nat := 0; let i : Word := 5; let m : HostView := {}; let s : State := sOn
    (hostUp s h = false ∨ freshJob s h q i 53 = none) ∧ quiet s (s) = true := by decide

theorem wit_Triggers_48 :
    let h : Nat := 1; let q : Nat := 0; let i : Word := 5; let m : HostView := {}; let s : State := sOn
    (hostUp s h = false ∨ freshJob s h q i 54 = none) ∧ quiet s (s) = true := by decide

theorem wit_Triggers_49 :
    let h : Nat := 1; let q : Nat := 0; let i : Word := 5; let m : HostView := {}; let s : State := sOn
    (hostUp s h = false ∨ freshJob s h q i 55 = none) ∧ quiet s (s) = true := by decide

set_option maxRecDepth 100000 in
theorem wit_TreeJobs_1 :
    let h : Nat := 1; let q : Nat := 0; let i : Word := 0; let m : HostView := { spans := [(512, (wBytes [0x3F800000]).take 4)] }; let j : Job := { id := 0, h := 1, q := 0, idx := 0, ents := [[4194311, 1610612736, 0, 0, 512, 0, 768, 4, 0, 0, 0, 28, 1024, 0, 768, 2147483648]] }; let x : Nat := 0x1C; let d : List Word := [0x9F, 0, 0, 0, 0x10000, 0, 0, 0, 0, 0, 0, 0, 0, 0, 0, 0]; let s : State := { sOn with hs.ports := [(1, { st := .up, jobs := [{ id := 0, h := 1, q := 0, idx := 0, ents := [[4194311, 1610612736, 0, 0, 512, 0, 768, 4, 0, 0, 0, 28, 1024, 0, 768, 2147483648]] }], nextJob := 1 })], hs.wqs := [(objKey 20 1 0, { st := .active, priv := true, head := 1, tail := 1, order := [0] })], hs.cqs := [(objKey 20 1 0, { active := true })], hs.binds := [(1024 + 0x1C, { st := 1, tag := 0x7A31, window := 4 })], hs.bar := [(hostKey 1 0 0x20008, 0x100104), (hostKey 1 0 0x40010, 4)], hs.mrCache := [(objKey 24 1 3, [0x9F, 0, 0, 0, 0x10000, 0, 0, 0, 0, 0, 0, 0, 0, 0, 0, 0])] }; let y : TreeBind := bindOf (updJob h j.id (fun k => { k with begun := true }) s) h x; let a : State := (failCount h false (checkKey h (Job.w j 14) (u64 (Job.op j) 12) (lengthOfJob j) .localWrite (jobWho (updJob h j.id (fun k => { k with begun := true }) s) h ({ j with begun := true })) (viewOf m s) (updJob h j.id (fun k => { k with begun := true }) s))).2; let b : State := ((if Job.inl j then (.ok (), a) else checkLocal h ({ j with begun := true }) .localRead (viewOf m s) a) : Acc Unit × State).2
    (hostUp s h = true) ∧ (freshJob s h q i 64 = some j) ∧ (x = alIdx j) ∧ (y = bindOf (updJob h j.id (fun k => { k with begun := true }) s) h x) ∧ (y.st = 1) ∧ (y.fn = (wqOf (updJob h j.id (fun k => { k with begun := true }) s) h j.q).fn) ∧ (y.op = none) ∧ (failCount h false (checkKey h (Job.w j 14) (u64 (Job.op j) 12) (lengthOfJob j) .localWrite (jobWho (updJob h j.id (fun k => { k with begun := true }) s) h ({ j with begun := true })) (viewOf m s) (updJob h j.id (fun k => { k with begun := true }) s)) = (.ok d, a)) ∧ ((if Job.inl j then (.ok (), a) else checkLocal h ({ j with begun := true }) .localRead (viewOf m s) a) = (.ok (), b)) ∧ quiet s (treeSend (chunkCount (alMode j) (alDtype j) (alElems j) + 1) h ({ j with begun := true }) (viewOf m s) (inc (treCtr h 0) (setBind h x { y with opSeq := y.opSeq + 1, op := some { job := j.id, opSeq := y.opSeq, chunks := chunkCount (alMode j) (alDtype j) (alElems j), next := 0, came := [] } } b))) = true := by decide +kernel

set_option maxRecDepth 100000 in
theorem wit_TreeJobs_2 :
    let h : Nat := 1; let q : Nat := 0; let i : Word := 0; let m : HostView := {}; let j : Job := { id := 0, h := 1, q := 0, idx := 0, ents := [[4194311, 1610612736, 0, 0, 512, 0, 768, 4, 0, 0, 0, 28, 1024, 0, 20480, 2147483648]] }; let x : Nat := 0x1C; let k : Acc (List Word) := .fail 1; let s : State := { sOn with hs.ports := [(1, { st := .up, jobs := [{ id := 0, h := 1, q := 0, idx := 0, ents := [[4194311, 1610612736, 0, 0, 512, 0, 768, 4, 0, 0, 0, 28, 1024, 0, 20480, 2147483648]] }], nextJob := 1 })], hs.wqs := [(objKey 20 1 0, { st := .active, priv := true, head := 1, tail := 1, order := [0] })], hs.cqs := [(objKey 20 1 0, { active := true })], hs.binds := [(1024 + 0x1C, { st := 1, tag := 0x7A31, window := 4 })], hs.bar := [(hostKey 1 0 0x20008, 0x100104), (hostKey 1 0 0x40010, 4)], hs.mrCache := [(objKey 24 1 3, [0x9F, 0, 0, 0, 0x10000, 0, 0, 0, 0, 0, 0, 0, 0, 0, 0, 0])] }; let y : TreeBind := bindOf (updJob h j.id (fun k => { k with begun := true }) s) h x; let a : State := (failCount h false (checkKey h (Job.w j 14) (u64 (Job.op j) 12) (lengthOfJob j) .localWrite (jobWho (updJob h j.id (fun k => { k with begun := true }) s) h ({ j with begun := true })) (viewOf m s) (updJob h j.id (fun k => { k with begun := true }) s))).2
    (hostUp s h = true) ∧ (freshJob s h q i 64 = some j) ∧ (x = alIdx j) ∧ (y = bindOf (updJob h j.id (fun k => { k with begun := true }) s) h x) ∧ (y.st = 1) ∧ (y.fn = (wqOf (updJob h j.id (fun k => { k with begun := true }) s) h j.q).fn) ∧ (y.op = none) ∧ (failCount h false (checkKey h (Job.w j 14) (u64 (Job.op j) 12) (lengthOfJob j) .localWrite (jobWho (updJob h j.id (fun k => { k with begun := true }) s) h ({ j with begun := true })) (viewOf m s) (updJob h j.id (fun k => { k with begun := true }) s)) = (k, a)) ∧ ((match k with | .ok _ => false | _ => true) = true) ∧ quiet s (failAcc h ({ j with begun := true }) 0 k a) = true := by decide +kernel

set_option maxRecDepth 100000 in
theorem wit_TreeJobs_3 :
    let h : Nat := 1; let q : Nat := 0; let i : Word := 0; let m : HostView := {}; let j : Job := { id := 0, h := 1, q := 0, idx := 0, ents := [[4194311, 1610612736, 0, 0, 512, 0, 20480, 4, 0, 0, 0, 28, 1024, 0, 768, 2147483648]] }; let x : Nat := 0x1C; let d : List Word := [0x9F, 0, 0, 0, 0x10000, 0, 0, 0, 0, 0, 0, 0, 0, 0, 0, 0]; let k : Acc Unit := .fail 1; let s : State := { sOn with hs.ports := [(1, { st := .up, jobs := [{ id := 0, h := 1, q := 0, idx := 0, ents := [[4194311, 1610612736, 0, 0, 512, 0, 20480, 4, 0, 0, 0, 28, 1024, 0, 768, 2147483648]] }], nextJob := 1 })], hs.wqs := [(objKey 20 1 0, { st := .active, priv := true, head := 1, tail := 1, order := [0] })], hs.cqs := [(objKey 20 1 0, { active := true })], hs.binds := [(1024 + 0x1C, { st := 1, tag := 0x7A31, window := 4 })], hs.bar := [(hostKey 1 0 0x20008, 0x100104), (hostKey 1 0 0x40010, 4)], hs.mrCache := [(objKey 24 1 3, [0x9F, 0, 0, 0, 0x10000, 0, 0, 0, 0, 0, 0, 0, 0, 0, 0, 0])] }; let y : TreeBind := bindOf (updJob h j.id (fun k => { k with begun := true }) s) h x; let a : State := (failCount h false (checkKey h (Job.w j 14) (u64 (Job.op j) 12) (lengthOfJob j) .localWrite (jobWho (updJob h j.id (fun k => { k with begun := true }) s) h ({ j with begun := true })) (viewOf m s) (updJob h j.id (fun k => { k with begun := true }) s))).2; let b : State := ((if Job.inl j then (.ok (), a) else checkLocal h ({ j with begun := true }) .localRead (viewOf m s) a) : Acc Unit × State).2
    (hostUp s h = true) ∧ (freshJob s h q i 64 = some j) ∧ (x = alIdx j) ∧ (y = bindOf (updJob h j.id (fun k => { k with begun := true }) s) h x) ∧ (y.st = 1) ∧ (y.fn = (wqOf (updJob h j.id (fun k => { k with begun := true }) s) h j.q).fn) ∧ (y.op = none) ∧ (failCount h false (checkKey h (Job.w j 14) (u64 (Job.op j) 12) (lengthOfJob j) .localWrite (jobWho (updJob h j.id (fun k => { k with begun := true }) s) h ({ j with begun := true })) (viewOf m s) (updJob h j.id (fun k => { k with begun := true }) s)) = (.ok d, a)) ∧ ((if Job.inl j then (.ok (), a) else checkLocal h ({ j with begun := true }) .localRead (viewOf m s) a) = (k, b)) ∧ (k ≠ .ok ()) ∧ quiet s (failAcc h ({ j with begun := true }) 0 k b) = true := by decide +kernel

set_option maxRecDepth 100000 in
theorem wit_TreeJobs_4 :
    let h : Nat := 1; let q : Nat := 0; let i : Word := 0; let m : HostView := {}; let j : Job := { id := 0, h := 1, q := 0, idx := 0, ents := [[4194311, 1610612736, 0, 0, 512, 0, 768, 4, 0, 0, 0, 28, 1024, 0, 768, 2147483648]] }; let x : Nat := 0x1C; let o : TreeOp := { job := 7, opSeq := 0, chunks := 1, next := 1, came := [] }; let s : State := { sOn with hs.ports := [(1, { st := .up, jobs := [{ id := 0, h := 1, q := 0, idx := 0, ents := [[4194311, 1610612736, 0, 0, 512, 0, 768, 4, 0, 0, 0, 28, 1024, 0, 768, 2147483648]] }], nextJob := 1 })], hs.wqs := [(objKey 20 1 0, { st := .active, priv := true, head := 1, tail := 1, order := [0] })], hs.cqs := [(objKey 20 1 0, { active := true })], hs.binds := [(1024 + 0x1C, { st := 1, tag := 0x7A31, window := 4, opSeq := 1, op := some { job := 7, opSeq := 0, chunks := 1, next := 1, came := [] } })], hs.bar := [(hostKey 1 0 0x20008, 0x100104), (hostKey 1 0 0x40010, 4)], hs.mrCache := [(objKey 24 1 3, [0x9F, 0, 0, 0, 0x10000, 0, 0, 0, 0, 0, 0, 0, 0, 0, 0, 0])] }; let y : TreeBind := bindOf (updJob h j.id (fun k => { k with begun := true }) s) h x
    (hostUp s h = true) ∧ (freshJob s h q i 64 = some j) ∧ (x = alIdx j) ∧ (y = bindOf (updJob h j.id (fun k => { k with begun := true }) s) h x) ∧ (y.st = 1) ∧ (y.fn = (wqOf (updJob h j.id (fun k => { k with begun := true }) s) h j.q).fn) ∧ (y.op = some o) ∧ (o.job ≠ j.id) ∧ quiet s (updJob h j.id (fun j => { j with begun := false }) (updJob h j.id (fun k => { k with begun := true }) s)) = true := by decide +kernel

set_option maxRecDepth 100000 in
theorem wit_TreeJobs_5 :
    let h : Nat := 1; let q : Nat := 0; let i : Word := 0; let m : HostView := {}; let j : Job := { id := 0, h := 1, q := 0, idx := 0, ents := [[4194311, 1610612736, 0, 0, 512, 0, 768, 4, 0, 0, 0, 28, 1024, 0, 768, 2147483648]] }; let x : Nat := 0x1C; let s : State := { sOn with hs.ports := [(1, { st := .up, jobs := [{ id := 0, h := 1, q := 0, idx := 0, ents := [[4194311, 1610612736, 0, 0, 512, 0, 768, 4, 0, 0, 0, 28, 1024, 0, 768, 2147483648]] }], nextJob := 1 })], hs.wqs := [(objKey 20 1 0, { st := .active, priv := true, head := 1, tail := 1, order := [0] })], hs.cqs := [(objKey 20 1 0, { active := true })], hs.binds := [(1024 + 0x1C, {})], hs.bar := [(hostKey 1 0 0x20008, 0x100104), (hostKey 1 0 0x40010, 4)], hs.mrCache := [(objKey 24 1 3, [0x9F, 0, 0, 0, 0x10000, 0, 0, 0, 0, 0, 0, 0, 0, 0, 0, 0])] }; let y : TreeBind := bindOf (updJob h j.id (fun k => { k with begun := true }) s) h x
    (hostUp s h = true) ∧ (freshJob s h q i 64 = some j) ∧ (x = alIdx j) ∧ (y = bindOf (updJob h j.id (fun k => { k with begun := true }) s) h x) ∧ (y.op.any (fun o => o.job == j.id) = false) ∧ (y.st = 0 ∨ y.fn ≠ (wqOf (updJob h j.id (fun k => { k with begun := true }) s) h j.q).fn) ∧ quiet s (treeEnd h ({ j with begun := true }) 0x42 0 (updJob h j.id (fun k => { k with begun := true }) s)) = true := by decide +kernel

set_option maxRecDepth 100000 in
theorem wit_TreeJobs_6 :
    let h : Nat := 1; let q : Nat := 0; let i : Word := 0; let m : HostView := {}; let j : Job := { id := 0, h := 1, q := 0, idx := 0, ents := [[4194311, 1610612736, 0, 0, 512, 0, 768, 4, 0, 0, 0, 28, 1024, 0, 768, 2147483648]] }; let x : Nat := 0x1C; let s : State := { sOn with hs.ports := [(1, { st := .up, jobs := [{ id := 0, h := 1, q := 0, idx := 0, ents := [[4194311, 1610612736, 0, 0, 512, 0, 768, 4, 0, 0, 0, 28, 1024, 0, 768, 2147483648]] }], nextJob := 1 })], hs.wqs := [(objKey 20 1 0, { st := .active, priv := true, head := 1, tail := 1, order := [0] })], hs.cqs := [(objKey 20 1 0, { active := true })], hs.binds := [(1024 + 0x1C, { st := 2 })], hs.bar := [(hostKey 1 0 0x20008, 0x100104), (hostKey 1 0 0x40010, 4)], hs.mrCache := [(objKey 24 1 3, [0x9F, 0, 0, 0, 0x10000, 0, 0, 0, 0, 0, 0, 0, 0, 0, 0, 0])] }; let y : TreeBind := bindOf (updJob h j.id (fun k => { k with begun := true }) s) h x
    (hostUp s h = true) ∧ (freshJob s h q i 64 = some j) ∧ (x = alIdx j) ∧ (y = bindOf (updJob h j.id (fun k => { k with begun := true }) s) h x) ∧ (y.op.any (fun o => o.job == j.id) = false) ∧ (y.st = 2) ∧ (y.fn = (wqOf (updJob h j.id (fun k => { k with begun := true }) s) h j.q).fn) ∧ quiet s (treeEnd h ({ j with begun := true }) 0x40 0 (updJob h j.id (fun k => { k with begun := true }) s)) = true := by decide +kernel

set_option maxRecDepth 100000 in
theorem wit_TreeJobs_7 :
    let h : Nat := 1; let p : Packet := sealPkt { dest := 0x20, src := 1, cls := 1, lenCells := 0, ptype := 1, mode := 3, extMask := 0x20, ext := [0x7A31001C, 1048576, 0, 1], payload := [0, 0, 0, 64] }; let m : HostView := {}; let s : State := sOn
    (p.ptype ≠ 0x41 ∨ boleOk s (boleOf h) = false) ∧ quiet s (s) = true := by decide +kernel

set_option maxRecDepth 100000 in
theorem wit_TreeJobs_8 :
    let h : Nat := 1; let p : Packet := { sealPkt { dest := 0x20, src := 1, cls := 1, lenCells := 0, ptype := 0x41, mode := 3, extMask := 0x20, ext := [0x7A31001C, 1048576, 0, 1], payload := [0, 0, 0, 64] } with payload := [1, 1, 1, 1] }; let m : HostView := {}; let s : State := { sOn with hs.ports := [(1, { st := .up, jobs := [{ id := 0, h := 1, q := 0, idx := 0, ents := [[4194311, 1610612736, 0, 0, 512, 0, 768, 4, 0, 0, 0, 28, 1024, 0, 768, 2147483648]], begun := true, sent := 1 }], nextJob := 1 })], hs.wqs := [(objKey 20 1 0, { st := .active, priv := true, head := 1, tail := 1, order := [0] })], hs.cqs := [(objKey 20 1 0, { active := true })], hs.binds := [(1024 + 0x1C, { st := 1, tag := 0x7A31, window := 4, opSeq := 1, op := some { job := 0, opSeq := 0, chunks := 1, next := 1, came := [] } })], hs.bar := [(hostKey 1 0 0x20008, 0x100104), (hostKey 1 0 0x40010, 4)], hs.mrCache := [(objKey 24 1 3, [0x9F, 0, 0, 0, 0x10000, 0, 0, 0, 0, 0, 0, 0, 0, 0, 0, 0])] }; let u : State := (e2eTest h p (freeInternal (xN 1) p s)).1
    (p.ptype = 0x41) ∧ (boleOk s (boleOf h) = true) ∧ (e2eTest h p (freeInternal (xN h) p s) = (u, false)) ∧ quiet s (u) = true := by decide +kernel

set_option maxRecDepth 100000 in
theorem wit_TreeJobs_9 :
    let h : Nat := 1; let p : Packet := sealPkt { dest := 0x20, src := 1, cls := 2, lenCells := 0, ptype := 0x41, mode := 3, extMask := 0x20, ext := [0x7A31001C, 1048576, 0, 1], payload := [0, 0, 0, 64] }; let m : HostView := {}; let s : State := { sOn with hs.ports := [(1, { st := .up, jobs := [{ id := 0, h := 1, q := 0, idx := 0, ents := [[4194311, 1610612736, 0, 0, 512, 0, 768, 4, 0, 0, 0, 28, 1024, 0, 768, 2147483648]], begun := true, sent := 1 }], nextJob := 1 })], hs.wqs := [(objKey 20 1 0, { st := .active, priv := true, head := 1, tail := 1, order := [0] })], hs.cqs := [(objKey 20 1 0, { active := true })], hs.binds := [(1024 + 0x1C, { st := 1, tag := 0x7A31, window := 4, opSeq := 1, op := some { job := 0, opSeq := 0, chunks := 1, next := 1, came := [] } })], hs.bar := [(hostKey 1 0 0x20008, 0x100104), (hostKey 1 0 0x40010, 4)], hs.mrCache := [(objKey 24 1 3, [0x9F, 0, 0, 0, 0x10000, 0, 0, 0, 0, 0, 0, 0, 0, 0, 0, 0])] }; let u : State := (e2eTest h p (freeInternal (xN 1) p s)).1
    (p.ptype = 0x41) ∧ (boleOk s (boleOf h) = true) ∧ (e2eTest h p (freeInternal (xN h) p s) = (u, true)) ∧ (asdMismatch p = true) ∧ quiet s (asdReject h u) = true := by decide +kernel

set_option maxRecDepth 100000 in
theorem wit_TreeJobs_10 :
    let h : Nat := 1; let p : Packet := sealPkt { dest := 0x20, src := 1, cls := 1, lenCells := 0, ptype := 0x41, mode := 3, extMask := 0x28, ext := [0, 0, 0, 0, 0, 0, 0, 0, 0x7A31001C, 1048576, 0, 1], payload := [0, 0, 0, 64] }; let m : HostView := {}; let s : State := { sOn with hs.ports := [(1, { st := .up, jobs := [{ id := 0, h := 1, q := 0, idx := 0, ents := [[4194311, 1610612736, 0, 0, 512, 0, 768, 4, 0, 0, 0, 28, 1024, 0, 768, 2147483648]], begun := true, sent := 1 }], nextJob := 1 })], hs.wqs := [(objKey 20 1 0, { st := .active, priv := true, head := 1, tail := 1, order := [0] })], hs.cqs := [(objKey 20 1 0, { active := true })], hs.binds := [(1024 + 0x1C, { st := 1, tag := 0x7A31, window := 4, opSeq := 1, op := some { job := 0, opSeq := 0, chunks := 1, next := 1, came := [] } })], hs.bar := [(hostKey 1 0 0x20008, 0x100104), (hostKey 1 0 0x40010, 4)], hs.mrCache := [(objKey 24 1 3, [0x9F, 0, 0, 0, 0x10000, 0, 0, 0, 0, 0, 0, 0, 0, 0, 0, 0])] }; let u : State := (e2eTest h p (freeInternal (xN 1) p s)).1
    (p.ptype = 0x41) ∧ (boleOk s (boleOf h) = true) ∧ (e2eTest h p (freeInternal (xN h) p s) = (u, true)) ∧ (asdMismatch p = false) ∧ (p.extMask ≠ 0x20) ∧ quiet s (hdrBad (boleOf h) u) = true := by decide +kernel

set_option maxRecDepth 100000 in
theorem wit_TreeJobs_11 :
    let h : Nat := 1; let p : Packet := sealPkt { dest := 0x20, src := 1, cls := 1, lenCells := 0, ptype := 0x41, mode := 3, extMask := 0x20, ext := [0x7A31001C, 1048576, 0, 1], payload := [0, 0, 0, 64] }; let m : HostView := {}; let g : Grant := { d := [0x9F, 0, 0, 0, 0x10000, 0, 0, 0, 0, 0, 0, 0, 0, 0, 0, 0], idx := 3, ps := [(0x400, 4, 0, { bus := 0, first := 0, pages := 1 })] }; let o : TreeOp := { job := 0, opSeq := 0, chunks := 1, next := 1, came := [] }; let j : Job := { id := 0, h := 1, q := 0, idx := 0, ents := [[4194311, 1610612736, 0, 0, 512, 0, 768, 4, 0, 0, 0, 28, 1024, 0, 768, 2147483648]], begun := true, sent := 1 }; let s : State := { sOn with hs.ports := [(1, { st := .up, jobs := [{ id := 0, h := 1, q := 0, idx := 0, ents := [[4194311, 1610612736, 0, 0, 512, 0, 768, 4, 0, 0, 0, 28, 1024, 0, 768, 2147483648]], begun := true, sent := 1 }], nextJob := 1 })], hs.wqs := [(objKey 20 1 0, { st := .active, priv := true, head := 1, tail := 1, order := [0] })], hs.cqs := [(objKey 20 1 0, { active := true })], hs.binds := [(1024 + 0x1C, { st := 1, tag := 0x7A31, window := 4, opSeq := 1, op := some { job := 0, opSeq := 0, chunks := 1, next := 1, came := [] } })], hs.bar := [(hostKey 1 0 0x20008, 0x100104), (hostKey 1 0 0x40010, 4)], hs.mrCache := [(objKey 24 1 3, [0x9F, 0, 0, 0, 0x10000, 0, 0, 0, 0, 0, 0, 0, 0, 0, 0, 0])] }; let u : State := (e2eTest h p (freeInternal (xN 1) p s)).1; let q : State := inc (treCtr h 2) u; let w : State := (access h (Job.w j 14) (u64 (Job.op j) 12 + crChunk p * alStep j) p.payload.length .localWrite (jobWho q h j) (viewFor h (.tree p) (viewOf m u) q) q).2
    (p.ptype = 0x41) ∧ (boleOk s (boleOf h) = true) ∧ (e2eTest h p (freeInternal (xN h) p s) = (u, true)) ∧ (asdMismatch p = false) ∧ (p.extMask = 0x20) ∧ ((bindOf u h (crIdx p)).st = 1) ∧ (crTag p = (bindOf u h (crIdx p)).tag.toNat) ∧ (crStatus p = 0) ∧ ((bindOf u h (crIdx p)).op.any (fun o => o.opSeq == crSeq p && o.out (crChunk p)) = true) ∧ (q = inc (treCtr h 2) u) ∧ ((bindOf q h (crIdx p)).op = some o) ∧ (jobOf q h o.job = some j) ∧ (o.opSeq = crSeq p) ∧ (o.out (crChunk p) = true) ∧ (p.payload.length = alBytes j (crChunk p)) ∧ (access h (Job.w j 14) (u64 (Job.op j) 12 + crChunk p * alStep j) p.payload.length .localWrite (jobWho q h j) (viewFor h (.tree p) (viewOf m u) q) q = (.ok g, w)) ∧ (o.came.length + 1 = o.chunks) ∧ quiet s (finishJob h j 0 (lengthOfJob j) 0 (setBind h (crIdx p) { bindOf (stopWait h (.tree p) (writeGrant h g true p.payload w)) h (crIdx p) with op := none } (stopWait h (.tree p) (writeGrant h g true p.payload w)))) = true := by decide +kernel

set_option maxRecDepth 100000 in
theorem wit_TreeJobs_12 :
    let h : Nat := 1; let p : Packet := sealPkt { dest := 0x20, src := 1, cls := 1, lenCells := 0, ptype := 0x41, mode := 3, extMask := 0x20, ext := [0x7A31001C, 1048576, 0, 1028], payload := (List.replicate 4096 0) }; let m : HostView := { spans := [(0x1200, List.replicate 16 0)] }; let o : TreeOp := { job := 0, opSeq := 0, chunks := 2, next := 1, came := [] }; let j : Job := { id := 0, h := 1, q := 0, idx := 0, ents := [[4194311, 1610612736, 0, 0, 512, 0, 768, 4112, 0, 0, 0, 28, 1024, 0, 768, 2147483648]], begun := true, sent := 1 }; let s : State := { sOn with hs.ports := [(1, { st := .up, jobs := [{ id := 0, h := 1, q := 0, idx := 0, ents := [[4194311, 1610612736, 0, 0, 512, 0, 768, 4112, 0, 0, 0, 28, 1024, 0, 768, 2147483648]], begun := true, sent := 1 }], nextJob := 1 })], hs.wqs := [(objKey 20 1 0, { st := .active, priv := true, head := 1, tail := 1, order := [0] })], hs.cqs := [(objKey 20 1 0, { active := true })], hs.binds := [(1024 + 0x1C, { st := 1, tag := 0x7A31, window := 4, opSeq := 1, op := some { job := 0, opSeq := 0, chunks := 2, next := 1, came := [] } })], hs.bar := [(hostKey 1 0 0x20008, 0x100104), (hostKey 1 0 0x40010, 4)], hs.mrCache := [(objKey 24 1 3, [0x9F, 0, 0, 0, 0x10000, 0, 0, 0, 0, 0, 0, 0, 0, 0, 0, 0])] }; let u : State := (e2eTest h p (freeInternal (xN 1) p s)).1; let q : State := inc (treCtr h 2) u; let g : Grant := (match (access h (Job.w j 14) (u64 (Job.op j) 12 + crChunk p * alStep j) p.payload.length .localWrite (jobWho q h j) (viewFor h (.tree p) (viewOf m u) q) q).1 with | .ok g => g | _ => { d := [0x9F, 0, 0, 0, 0x10000, 0, 0, 0, 0, 0, 0, 0, 0, 0, 0, 0], idx := 3, ps := [(0x400, 4, 0, { bus := 0, first := 0, pages := 1 })] }); let w : State := (access h (Job.w j 14) (u64 (Job.op j) 12 + crChunk p * alStep j) p.payload.length .localWrite (jobWho q h j) (viewFor h (.tree p) (viewOf m u) q) q).2
    (p.ptype = 0x41) ∧ (boleOk s (boleOf h) = true) ∧ (e2eTest h p (freeInternal (xN h) p s) = (u, true)) ∧ (asdMismatch p = false) ∧ (p.extMask = 0x20) ∧ ((bindOf u h (crIdx p)).st = 1) ∧ (crTag p = (bindOf u h (crIdx p)).tag.toNat) ∧ (crStatus p = 0) ∧ ((bindOf u h (crIdx p)).op.any (fun o => o.opSeq == crSeq p && o.out (crChunk p)) = true) ∧ (q = inc (treCtr h 2) u) ∧ ((bindOf q h (crIdx p)).op = some o) ∧ (jobOf q h o.job = some j) ∧ (o.opSeq = crSeq p) ∧ (o.out (crChunk p) = true) ∧ (p.payload.length = alBytes j (crChunk p)) ∧ (access h (Job.w j 14) (u64 (Job.op j) 12 + crChunk p * alStep j) p.payload.length .localWrite (jobWho q h j) (viewFor h (.tree p) (viewOf m u) q) q = (.ok g, w)) ∧ (o.came.length + 1 ≠ o.chunks) ∧ quiet s (treeSend (o.chunks + 1) h j (viewFor h (.job j.id) (viewOf m u) (stopWait h (.tree p) (writeGrant h g true p.payload w))) (setBind h (crIdx p) { bindOf (stopWait h (.tree p) (writeGrant h g true p.payload w)) h (crIdx p) with op := some { o with came := crChunk p :: o.came } } (stopWait h (.tree p) (writeGrant h g true p.payload w)))) = true := by decide +kernel

set_option maxRecDepth 100000 in
theorem wit_TreeJobs_13 :
    let h : Nat := 1; let p : Packet := sealPkt { dest := 0x20, src := 1, cls := 1, lenCells := 0, ptype := 0x41, mode := 3, extMask := 0x20, ext := [0x7A31001C, 1048576, 0, 1], payload := [0, 0, 0, 64] }; let m : HostView := {}; let o : TreeOp := { job := 0, opSeq := 0, chunks := 1, next := 1, came := [] }; let j : Job := { id := 0, h := 1, q := 0, idx := 0, ents := [[4194311, 1610612736, 0, 0, 512, 0, 768, 4, 0, 0, 0, 28, 1024, 0, 768, 2147483648]], begun := true, sent := 1 }; let s : State := { sOn with hs.ports := [(1, { st := .up, jobs := [{ id := 0, h := 1, q := 0, idx := 0, ents := [[4194311, 1610612736, 0, 0, 512, 0, 768, 4, 0, 0, 0, 28, 1024, 0, 768, 2147483648]], begun := true, sent := 1 }], nextJob := 1 })], hs.wqs := [(objKey 20 1 0, { st := .active, priv := true, head := 1, tail := 1, order := [0] })], hs.cqs := [(objKey 20 1 0, { active := true })], hs.binds := [(1024 + 0x1C, { st := 1, tag := 0x7A31, window := 4, opSeq := 1, op := some { job := 0, opSeq := 0, chunks := 1, next := 1, came := [] } })], hs.bar := [(hostKey 1 0 0x20008, 0x100104), (hostKey 1 0 0x40010, 4), (hostKey 1 0 0x40008, 0x9000)] }; let u : State := (e2eTest h p (freeInternal (xN 1) p s)).1; let q : State := inc (treCtr h 2) u; let k : Need := (match (access h (Job.w j 14) (u64 (Job.op j) 12 + crChunk p * alStep j) p.payload.length .localWrite (jobWho q h j) (viewFor h (.tree p) (viewOf m u) q) q).1 with | .wait n => n | _ => .page 0 0 0); let w : State := (access h (Job.w j 14) (u64 (Job.op j) 12 + crChunk p * alStep j) p.payload.length .localWrite (jobWho q h j) (viewFor h (.tree p) (viewOf m u) q) q).2
    (p.ptype = 0x41) ∧ (boleOk s (boleOf h) = true) ∧ (e2eTest h p (freeInternal (xN h) p s) = (u, true)) ∧ (asdMismatch p = false) ∧ (p.extMask = 0x20) ∧ ((bindOf u h (crIdx p)).st = 1) ∧ (crTag p = (bindOf u h (crIdx p)).tag.toNat) ∧ (crStatus p = 0) ∧ ((bindOf u h (crIdx p)).op.any (fun o => o.opSeq == crSeq p && o.out (crChunk p)) = true) ∧ (q = inc (treCtr h 2) u) ∧ ((bindOf q h (crIdx p)).op = some o) ∧ (jobOf q h o.job = some j) ∧ (o.opSeq = crSeq p) ∧ (o.out (crChunk p) = true) ∧ (p.payload.length = alBytes j (crChunk p)) ∧ (access h (Job.w j 14) (u64 (Job.op j) 12 + crChunk p * alStep j) p.payload.length .localWrite (jobWho q h j) (viewFor h (.tree p) (viewOf m u) q) q = (.wait k, w)) ∧ quiet s (waitFor h (.tree p) k w) = true := by decide +kernel

set_option maxRecDepth 100000 in
theorem wit_TreeJobs_14 :
    let h : Nat := 1; let p : Packet := sealPkt { dest := 0x20, src := 1, cls := 1, lenCells := 0, ptype := 0x41, mode := 3, extMask := 0x20, ext := [0x7A31001C, 1048576, 0, 1], payload := [0, 0, 0, 64] }; let m : HostView := {}; let k : Nat := 1; let o : TreeOp := { job := 0, opSeq := 0, chunks := 1, next := 1, came := [] }; let j : Job := { id := 0, h := 1, q := 0, idx := 0, ents := [[4194311, 1610612736, 0, 0, 512, 0, 768, 4, 0, 0, 0, 28, 1024, 0, 20480, 2147483648]], begun := true, sent := 1 }; let s : State := { sOn with hs.ports := [(1, { st := .up, jobs := [{ id := 0, h := 1, q := 0, idx := 0, ents := [[4194311, 1610612736, 0, 0, 512, 0, 768, 4, 0, 0, 0, 28, 1024, 0, 20480, 2147483648]], begun := true, sent := 1 }], nextJob := 1 })], hs.wqs := [(objKey 20 1 0, { st := .active, priv := true, head := 1, tail := 1, order := [0] })], hs.cqs := [(objKey 20 1 0, { active := true })], hs.binds := [(1024 + 0x1C, { st := 1, tag := 0x7A31, window := 4, opSeq := 1, op := some { job := 0, opSeq := 0, chunks := 1, next := 1, came := [] } })], hs.bar := [(hostKey 1 0 0x20008, 0x100104), (hostKey 1 0 0x40010, 4)], hs.mrCache := [(objKey 24 1 3, [0x9F, 0, 0, 0, 0x10000, 0, 0, 0, 0, 0, 0, 0, 0, 0, 0, 0])] }; let u : State := (e2eTest h p (freeInternal (xN 1) p s)).1; let q : State := inc (treCtr h 2) u; let w : State := (access h (Job.w j 14) (u64 (Job.op j) 12 + crChunk p * alStep j) p.payload.length .localWrite (jobWho q h j) (viewFor h (.tree p) (viewOf m u) q) q).2
    (p.ptype = 0x41) ∧ (boleOk s (boleOf h) = true) ∧ (e2eTest h p (freeInternal (xN h) p s) = (u, true)) ∧ (asdMismatch p = false) ∧ (p.extMask = 0x20) ∧ ((bindOf u h (crIdx p)).st = 1) ∧ (crTag p = (bindOf u h (crIdx p)).tag.toNat) ∧ (crStatus p = 0) ∧ ((bindOf u h (crIdx p)).op.any (fun o => o.opSeq == crSeq p && o.out (crChunk p)) = true) ∧ (q = inc (treCtr h 2) u) ∧ ((bindOf q h (crIdx p)).op = some o) ∧ (jobOf q h o.job = some j) ∧ (o.opSeq = crSeq p) ∧ (o.out (crChunk p) = true) ∧ (p.payload.length = alBytes j (crChunk p)) ∧ (access h (Job.w j 14) (u64 (Job.op j) 12 + crChunk p * alStep j) p.payload.length .localWrite (jobWho q h j) (viewFor h (.tree p) (viewOf m u) q) q = (.fail k, w)) ∧ quiet s (failAcc h j (sumN (o.came.map (alBytes j))) (.fail k : Acc Grant) (setBind h (crIdx p) { bindOf (stopWait h (.tree p) w) h (crIdx p) with op := none } (stopWait h (.tree p) w))) = true := by decide +kernel

set_option maxRecDepth 100000 in
theorem wit_TreeJobs_15 :
    let h : Nat := 1; let p : Packet := sealPkt { dest := 0x20, src := 1, cls := 1, lenCells := 0, ptype := 0x41, mode := 3, extMask := 0x20, ext := [0x7A31001C, 1048576, 0, 1], payload := [0, 0, 0] }; let m : HostView := {}; let o : TreeOp := { job := 0, opSeq := 0, chunks := 1, next := 1, came := [] }; let j : Job := { id := 0, h := 1, q := 0, idx := 0, ents := [[4194311, 1610612736, 0, 0, 512, 0, 768, 4, 0, 0, 0, 28, 1024, 0, 768, 2147483648]], begun := true, sent := 1 }; let s : State := { sOn with hs.ports := [(1, { st := .up, jobs := [{ id := 0, h := 1, q := 0, idx := 0, ents := [[4194311, 1610612736, 0, 0, 512, 0, 768, 4, 0, 0, 0, 28, 1024, 0, 768, 2147483648]], begun := true, sent := 1 }], nextJob := 1 })], hs.wqs := [(objKey 20 1 0, { st := .active, priv := true, head := 1, tail := 1, order := [0] })], hs.cqs := [(objKey 20 1 0, { active := true })], hs.binds := [(1024 + 0x1C, { st := 1, tag := 0x7A31, window := 4, opSeq := 1, op := some { job := 0, opSeq := 0, chunks := 1, next := 1, came := [] } })], hs.bar := [(hostKey 1 0 0x20008, 0x100104), (hostKey 1 0 0x40010, 4)], hs.mrCache := [(objKey 24 1 3, [0x9F, 0, 0, 0, 0x10000, 0, 0, 0, 0, 0, 0, 0, 0, 0, 0, 0])] }; let u : State := (e2eTest h p (freeInternal (xN 1) p s)).1; let q : State := inc (treCtr h 2) u
    (p.ptype = 0x41) ∧ (boleOk s (boleOf h) = true) ∧ (e2eTest h p (freeInternal (xN h) p s) = (u, true)) ∧ (asdMismatch p = false) ∧ (p.extMask = 0x20) ∧ ((bindOf u h (crIdx p)).st = 1) ∧ (crTag p = (bindOf u h (crIdx p)).tag.toNat) ∧ (crStatus p = 0) ∧ ((bindOf u h (crIdx p)).op.any (fun o => o.opSeq == crSeq p && o.out (crChunk p)) = true) ∧ (q = inc (treCtr h 2) u) ∧ ((bindOf q h (crIdx p)).op = some o) ∧ (jobOf q h o.job = some j) ∧ (o.opSeq = crSeq p) ∧ (o.out (crChunk p) = true) ∧ (p.payload.length ≠ alBytes j (crChunk p)) ∧ quiet s (treCause h 3 (inc (treCtr h 6) (stopWait h (.tree p) q))) = true := by decide +kernel

set_option maxRecDepth 100000 in
theorem wit_TreeJobs_16 :
    let h : Nat := 1; let p : Packet := sealPkt { dest := 0x20, src := 1, cls := 1, lenCells := 0, ptype := 0x41, mode := 3, extMask := 0x20, ext := [0x7A32001C, 1048576, 0, 1], payload := [0, 0, 0, 64] }; let m : HostView := {}; let s : State := { sOn with hs.ports := [(1, { st := .up, jobs := [{ id := 0, h := 1, q := 0, idx := 0, ents := [[4194311, 1610612736, 0, 0, 512, 0, 768, 4, 0, 0, 0, 28, 1024, 0, 768, 2147483648]], begun := true, sent := 1 }], nextJob := 1 })], hs.wqs := [(objKey 20 1 0, { st := .active, priv := true, head := 1, tail := 1, order := [0] })], hs.cqs := [(objKey 20 1 0, { active := true })], hs.binds := [(1024 + 0x1C, { st := 1, tag := 0x7A31, window := 4, opSeq := 1, op := some { job := 0, opSeq := 0, chunks := 1, next := 1, came := [] } })], hs.bar := [(hostKey 1 0 0x20008, 0x100104), (hostKey 1 0 0x40010, 4)], hs.mrCache := [(objKey 24 1 3, [0x9F, 0, 0, 0, 0x10000, 0, 0, 0, 0, 0, 0, 0, 0, 0, 0, 0])] }; let u : State := (e2eTest h p (freeInternal (xN 1) p s)).1
    (p.ptype = 0x41) ∧ (boleOk s (boleOf h) = true) ∧ (e2eTest h p (freeInternal (xN h) p s) = (u, true)) ∧ (asdMismatch p = false) ∧ (p.extMask = 0x20) ∧ ((bindOf u h (crIdx p)).st ≠ 1 ∨ crTag p ≠ (bindOf u h (crIdx p)).tag.toNat ∨ (crStatus p = 0 ∧ (bindOf u h (crIdx p)).op.any (fun o => o.opSeq == crSeq p && o.out (crChunk p)) = false) ∨ (crStatus p = 3 ∧ (bindOf u h (crIdx p)).op.any (fun o => o.opSeq == crSeq p && o.out (crChunk p)) = false) ∨ 3 < crStatus p) ∧ quiet s (treCause h 3 (inc (treCtr h 6) u)) = true := by decide +kernel

set_option maxRecDepth 100000 in
theorem wit_TreeJobs_17 :
    let h : Nat := 1; let p : Packet := sealPkt { dest := 0x20, src := 1, cls := 1, lenCells := 0, ptype := 0x41, mode := 3, extMask := 0x20, ext := [0x7A31001C, 1048576, 196608, 1], payload := [] }; let m : HostView := {}; let s : State := { sOn with hs.ports := [(1, { st := .up, jobs := [{ id := 0, h := 1, q := 0, idx := 0, ents := [[4194311, 1610612736, 0, 0, 512, 0, 768, 4, 0, 0, 0, 28, 1024, 0, 768, 2147483648]], begun := true, sent := 1 }], nextJob := 1 })], hs.wqs := [(objKey 20 1 0, { st := .active, priv := true, head := 1, tail := 1, order := [0] })], hs.cqs := [(objKey 20 1 0, { active := true })], hs.binds := [(1024 + 0x1C, { st := 1, tag := 0x7A31, window := 4, opSeq := 1, op := some { job := 0, opSeq := 0, chunks := 1, next := 1, came := [] } })], hs.bar := [(hostKey 1 0 0x20008, 0x100104), (hostKey 1 0 0x40010, 4)], hs.mrCache := [(objKey 24 1 3, [0x9F, 0, 0, 0, 0x10000, 0, 0, 0, 0, 0, 0, 0, 0, 0, 0, 0])] }; let u : State := (e2eTest h p (freeInternal (xN 1) p s)).1
    (p.ptype = 0x41) ∧ (boleOk s (boleOf h) = true) ∧ (e2eTest h p (freeInternal (xN h) p s) = (u, true)) ∧ (asdMismatch p = false) ∧ (p.extMask = 0x20) ∧ ((bindOf u h (crIdx p)).st = 1) ∧ (crTag p = (bindOf u h (crIdx p)).tag.toNat) ∧ (crStatus p = 3) ∧ ((bindOf u h (crIdx p)).op.any (fun o => o.opSeq == crSeq p && o.out (crChunk p)) = true) ∧ quiet s (treeOpEnd h (crIdx p) 0x42 u) = true := by decide +kernel

set_option maxRecDepth 100000 in
theorem wit_TreeJobs_18 :
    let h : Nat := 1; let p : Packet := sealPkt { dest := 0x20, src := 1, cls := 1, lenCells := 0, ptype := 0x41, mode := 3, extMask := 0x20, ext := [0x7A31001C, 1048576, 65536, 1], payload := [] }; let m : HostView := {}; let s : State := { sOn with hs.ports := [(1, { st := .up, jobs := [{ id := 0, h := 1, q := 0, idx := 0, ents := [[4194311, 1610612736, 0, 0, 512, 0, 768, 4, 0, 0, 0, 28, 1024, 0, 768, 2147483648]], begun := true, sent := 1 }], nextJob := 1 })], hs.wqs := [(objKey 20 1 0, { st := .active, priv := true, head := 1, tail := 1, order := [0] })], hs.cqs := [(objKey 20 1 0, { active := true })], hs.binds := [(1024 + 0x1C, { st := 1, tag := 0x7A31, window := 4, opSeq := 1, op := some { job := 0, opSeq := 0, chunks := 1, next := 1, came := [] } })], hs.bar := [(hostKey 1 0 0x20008, 0x100104), (hostKey 1 0 0x40010, 4)], hs.mrCache := [(objKey 24 1 3, [0x9F, 0, 0, 0, 0x10000, 0, 0, 0, 0, 0, 0, 0, 0, 0, 0, 0])] }; let u : State := (e2eTest h p (freeInternal (xN 1) p s)).1
    (p.ptype = 0x41) ∧ (boleOk s (boleOf h) = true) ∧ (e2eTest h p (freeInternal (xN h) p s) = (u, true)) ∧ (asdMismatch p = false) ∧ (p.extMask = 0x20) ∧ ((bindOf u h (crIdx p)).st = 1) ∧ (crTag p = (bindOf u h (crIdx p)).tag.toNat) ∧ (crStatus p = 1) ∧ quiet s (setBind h (crIdx p) { bindOf (treeOpEnd h (crIdx p) 0x40 u) h (crIdx p) with st := 2 } (treeOpEnd h (crIdx p) 0x40 u)) = true := by decide +kernel

set_option maxRecDepth 100000 in
theorem wit_TreeJobs_19 :
    let h : Nat := 1; let p : Packet := sealPkt { dest := 0x20, src := 1, cls := 1, lenCells := 0, ptype := 0x41, mode := 3, extMask := 0x20, ext := [0x7A31001C, 1048576, 131072, 1], payload := [] }; let m : HostView := {}; let s : State := { sOn with hs.ports := [(1, { st := .up, jobs := [{ id := 0, h := 1, q := 0, idx := 0, ents := [[4194311, 1610612736, 0, 0, 512, 0, 768, 4, 0, 0, 0, 28, 1024, 0, 768, 2147483648]], begun := true, sent := 1 }], nextJob := 1 })], hs.wqs := [(objKey 20 1 0, { st := .active, priv := true, head := 1, tail := 1, order := [0] })], hs.cqs := [(objKey 20 1 0, { active := true })], hs.binds := [(1024 + 0x1C, { st := 1, tag := 0x7A31, window := 4, opSeq := 1, op := some { job := 0, opSeq := 0, chunks := 1, next := 1, came := [] } })], hs.bar := [(hostKey 1 0 0x20008, 0x100104), (hostKey 1 0 0x40010, 4)], hs.mrCache := [(objKey 24 1 3, [0x9F, 0, 0, 0, 0x10000, 0, 0, 0, 0, 0, 0, 0, 0, 0, 0, 0])] }; let u : State := (e2eTest h p (freeInternal (xN 1) p s)).1
    (p.ptype = 0x41) ∧ (boleOk s (boleOf h) = true) ∧ (e2eTest h p (freeInternal (xN h) p s) = (u, true)) ∧ (asdMismatch p = false) ∧ (p.extMask = 0x20) ∧ ((bindOf u h (crIdx p)).st = 1) ∧ (crTag p = (bindOf u h (crIdx p)).tag.toNat) ∧ (crStatus p = 2) ∧ quiet s (setBind h (crIdx p) { bindOf (treeOpEnd h (crIdx p) 0x41 u) h (crIdx p) with st := 2 } (treeOpEnd h (crIdx p) 0x41 u)) = true := by decide +kernel

set_option maxRecDepth 100000 in
theorem wit_TreeJobs_20 :
    let h : Nat := 1; let i : Nat := 0x1C; let who : Requester := { id := 3 }; let s : State := { sOn with hs.ports := [(1, { st := .up })], hs.bar := [(hostKey 1 0 0x1E000, 0x7A31001C), (hostKey 1 0 0x1E004, 0x400)] }; let e : State := (if domOn s (dMem (boleOf h)) then performAll (boleOf h) (identOf h who.id who.tc) s else s)
    (e = (if domOn s (dMem (boleOf h)) then performAll (boleOf h) (identOf h who.id who.tc) s else s)) ∧ (hostUp e h = true) ∧ (i = bindIdx e h) ∧ (1 ≤ (fld (barR e (hostKey h 0 0x1E004) 0x100) 8 9)) ∧ ((fld (barR e (hostKey h 0 0x1E004) 0x100) 8 9) ≤ 256) ∧ (fld (barR e (hostKey h 0 0x1E004) 0x100) 0 8 ≤ (hport e h).numVfs) ∧ ((bindOf e h i).st = 0) ∧ quiet s (bindResult h i 0 (setBind h i { st := 1, tag := BitVec.ofNat 16 (fld (barR e (hostKey h 0 0x1E000) 0) 16 16), fn := fld (barR e (hostKey h 0 0x1E004) 0x100) 0 8, window := (fld (barR e (hostKey h 0 0x1E004) 0x100) 8 9) } e)) = true := by decide +kernel

set_option maxRecDepth 100000 in
theorem wit_TreeJobs_21 :
    let h : Nat := 1; let i : Nat := 0x1C; let who : Requester := { id := 3 }; let s : State := { sOn with hs.ports := [(1, { st := .up })], hs.bar := [(hostKey 1 0 0x1E000, 0x7A31001C), (hostKey 1 0 0x1E004, 0)] }; let e : State := (if domOn s (dMem (boleOf h)) then performAll (boleOf h) (identOf h who.id who.tc) s else s)
    (e = (if domOn s (dMem (boleOf h)) then performAll (boleOf h) (identOf h who.id who.tc) s else s)) ∧ (hostUp e h = true) ∧ (i = bindIdx e h) ∧ ((bindOf e h i).st = 0) ∧ ((fld (barR e (hostKey h 0 0x1E004) 0x100) 8 9) = 0 ∨ 256 < (fld (barR e (hostKey h 0 0x1E004) 0x100) 8 9) ∨ (hport e h).numVfs < fld (barR e (hostKey h 0 0x1E004) 0x100) 0 8) ∧ quiet s (bindResult h i 3 e) = true := by decide +kernel

set_option maxRecDepth 100000 in
theorem wit_TreeJobs_22 :
    let h : Nat := 1; let i : Nat := 0x1C; let who : Requester := { id := 3 }; let s : State := { sOn with hs.ports := [(1, { st := .up })], hs.bar := [(hostKey 1 0 0x1E000, 0x7A31001C), (hostKey 1 0 0x1E004, 0x400)], hs.binds := [(1024 + 0x1C, { st := 1, tag := 0x7A31, window := 4 })] }; let e : State := (if domOn s (dMem (boleOf h)) then performAll (boleOf h) (identOf h who.id who.tc) s else s)
    (e = (if domOn s (dMem (boleOf h)) then performAll (boleOf h) (identOf h who.id who.tc) s else s)) ∧ (hostUp e h = true) ∧ (i = bindIdx e h) ∧ ((bindOf e h i).st ≠ 0) ∧ quiet s (bindResult h i 1 e) = true := by decide +kernel

set_option maxRecDepth 100000 in
theorem wit_TreeJobs_23 :
    let h : Nat := 1; let i : Nat := 0x1C; let who : Requester := { id := 3 }; let s : State := { sOn with hs.ports := [(1, { st := .up })], hs.bar := [(hostKey 1 0 0x1E000, 0x7A31001C), (hostKey 1 0 0x1E004, 0x400)], hs.binds := [(1024 + 0x1C, { st := 1, tag := 0x7A31, window := 4, opSeq := 1, op := some { job := 7, opSeq := 0, chunks := 1, next := 1, came := [] } })] }; let e : State := (if domOn s (dMem (boleOf h)) then performAll (boleOf h) (identOf h who.id who.tc) s else s)
    (e = (if domOn s (dMem (boleOf h)) then performAll (boleOf h) (identOf h who.id who.tc) s else s)) ∧ (hostUp e h = true) ∧ (i = bindIdx e h) ∧ ((bindOf e h i).st = 1) ∧ quiet s (bindResult h i 0 (setBind h i {} (sendUp h (treePkt true i (bindOf e h i).tag.toNat 0 0 0 0 0 0 1 0 []) (treeOpEnd h i 0x40 e)))) = true := by decide +kernel

set_option maxRecDepth 100000 in
theorem wit_TreeJobs_24 :
    let h : Nat := 1; let i : Nat := 0x1C; let who : Requester := { id := 3 }; let s : State := { sOn with hs.ports := [(1, { st := .up })], hs.bar := [(hostKey 1 0 0x1E000, 0x7A31001C), (hostKey 1 0 0x1E004, 0x400)], hs.binds := [(1024 + 0x1C, { st := 2 })] }; let e : State := (if domOn s (dMem (boleOf h)) then performAll (boleOf h) (identOf h who.id who.tc) s else s)
    (e = (if domOn s (dMem (boleOf h)) then performAll (boleOf h) (identOf h who.id who.tc) s else s)) ∧ (hostUp e h = true) ∧ (i = bindIdx e h) ∧ ((bindOf e h i).st ≠ 0) ∧ ((bindOf e h i).st ≠ 1) ∧ quiet s (bindResult h i 0 (setBind h i {} (treeOpEnd h i 0x40 e))) = true := by decide +kernel

set_option maxRecDepth 100000 in
theorem wit_TreeJobs_25 :
    let h : Nat := 1; let i : Nat := 0x1C; let who : Requester := { id := 3 }; let s : State := { sOn with hs.ports := [(1, { st := .up })], hs.bar := [(hostKey 1 0 0x1E000, 0x7A31001C), (hostKey 1 0 0x1E004, 0x400)] }; let e : State := (if domOn s (dMem (boleOf h)) then performAll (boleOf h) (identOf h who.id who.tc) s else s)
    (e = (if domOn s (dMem (boleOf h)) then performAll (boleOf h) (identOf h who.id who.tc) s else s)) ∧ (hostUp e h = true) ∧ (i = bindIdx e h) ∧ ((bindOf e h i).st = 0) ∧ quiet s (bindResult h i 2 e) = true := by decide +kernel

set_option maxRecDepth 100000 in
theorem wit_TreeJobs_26 :
    let h : Nat := 1; let i : Nat := 0x1C; let who : Requester := { id := 3 }; let s : State := { sOn with hs.ports := [(1, { st := .up })], hs.bar := [(hostKey 1 0 0x1E000, 0x7A31001C), (hostKey 1 0 0x1E004, 0x400)], hs.binds := [(1024 + 0x1C, { st := 1, tag := 0x7A31, window := 4 })] }; let e : State := (if domOn s (dMem (boleOf h)) then performAll (boleOf h) (identOf h who.id who.tc) s else s)
    (e = (if domOn s (dMem (boleOf h)) then performAll (boleOf h) (identOf h who.id who.tc) s else s)) ∧ (hostUp e h = true) ∧ (i = bindIdx e h) ∧ quiet s (barSet (hostKey h 0 0x1E00C) (pack [(0, 3, 0), (4, 2, (bindOf e h i).st)]) e) = true := by decide +kernel

set_option maxRecDepth 100000 in
theorem wit_TreeJobs_27 :
    let h : Nat := 1; let who : Requester := { id := 3 }; let s : State := sOn; let e : State := (if domOn s (dMem (boleOf h)) then performAll (boleOf h) (identOf h who.id who.tc) s else s)
    (e = (if domOn s (dMem (boleOf h)) then performAll (boleOf h) (identOf h who.id who.tc) s else s)) ∧ (hostUp e h = false) ∧ quiet s (e) = true := by decide +kernel

set_option maxRecDepth 100000 in
theorem wit_TreeJobs_28 :
    let h : Nat := 1; let who : Requester := { id := 3 }; let s : State := sOn; let e : State := (if domOn s (dMem (boleOf h)) then performAll (boleOf h) (identOf h who.id who.tc) s else s)
    (e = (if domOn s (dMem (boleOf h)) then performAll (boleOf h) (identOf h who.id who.tc) s else s)) ∧ (hostUp e h = false) ∧ quiet s (e) = true := by decide +kernel

set_option maxRecDepth 100000 in
theorem wit_TreeJobs_29 :
    let h : Nat := 1; let who : Requester := { id := 3 }; let s : State := sOn; let e : State := (if domOn s (dMem (boleOf h)) then performAll (boleOf h) (identOf h who.id who.tc) s else s)
    (e = (if domOn s (dMem (boleOf h)) then performAll (boleOf h) (identOf h who.id who.tc) s else s)) ∧ (hostUp e h = false) ∧ quiet s (e) = true := by decide +kernel

theorem wit_TreeJobs_30 :
    let h : Nat := 1; let q : Nat := 0; let i : Word := 5; let m : HostView := {}; let s : State := sOn
    (hostUp s h = false ∨ freshJob s h q i 64 = none) ∧ quiet s (s) = true := by decide

set_option maxRecDepth 100000 in
theorem wit_TreePackets_1 :
    let g : Nat := 0; let n : Nat := 64; let i : Nat := 0x1C; let p : Packet := sealPkt { dest := 0x20, src := 1, cls := 0, lenCells := 0, ptype := 0x40, mode := 3, extMask := 0x20, ext := [0x7A31001C, 6291461, 0, 1], payload := [0, 0, 128, 63] }; let s : State := { sOn with stage.rws := [(0x02200380, 621105), (0x0220038C, 67)], trees := [(0x1C, { st := 2 })] }; let u : State := inc (crnCtr g 0) (freeInternal (xC g) p s)
    (i = crIdx p) ∧ (u = inc (crnCtr g 0) (freeInternal (xC g) p s)) ∧ ((tree s i).st = 2) ∧ (lenOk p = true) ∧ (e2eGood p = true) ∧ (64 ≤ n) ∧ ((treeKids u i).contains n = true) ∧ quiet s (sendStatus false i 1 n u) = true := by decide +kernel

set_option maxRecDepth 100000 in
theorem wit_TreePackets_2 :
    let g : Nat := 0; let n : Nat := 3; let i : Nat := 0x1C; let p : Packet := sealPkt { dest := 0x20, src := 1, cls := 0, lenCells := 0, ptype := 0x40, mode := 3, extMask := 0x20, ext := [0x7A31001C, 6291461, 0, 1], payload := [0, 0, 128, 63] }; let s : State := { sOn with stage.rws := [(0x02200380, 621105), (0x0220038C, 67)], trees := [(0x1C, { st := 2 })] }; let u : State := inc (crnCtr g 0) (freeInternal (xC g) p s)
    (i = crIdx p) ∧ (u = inc (crnCtr g 0) (freeInternal (xC g) p s)) ∧ ((tree s i).st ≠ 0) ∧ ((tree s i).st ≠ 1) ∧ (lenOk p = true) ∧ (e2eGood p = true) ∧ (n < 64 ∨ (treeKids u i).contains n = false) ∧ quiet s (u) = true := by decide +kernel

set_option maxRecDepth 100000 in
theorem wit_TreePackets_3 :
    let g : Nat := 0; let n : Nat := 64; let i : Nat := 0x1C; let p : Packet := sealPkt { dest := 0x20, src := 1, cls := 0, lenCells := 0, ptype := 0x40, mode := 3, extMask := 0x20, ext := [0x7A31001C, 6291461, 0, 1], payload := [0, 0, 128, 63] }; let s : State := { sOn with stage.rws := [(0x02200380, 621105), (0x0220038C, 67)], trees := [(0x1C, { st := 0 })] }; let u : State := inc (crnCtr g 0) (freeInternal (xC g) p s)
    (i = crIdx p) ∧ (u = inc (crnCtr g 0) (freeInternal (xC g) p s)) ∧ ((tree s i).st = 0) ∧ quiet s (u) = true := by decide +kernel

set_option maxRecDepth 100000 in
theorem wit_TreePackets_4 :
    let g : Nat := 0; let n : Nat := 64; let i : Nat := 0x1C; let p : Packet := { sealPkt { dest := 0x20, src := 1, cls := 0, lenCells := 0, ptype := 0x40, mode := 3, extMask := 0x20, ext := [0x7A31001C, 6291461, 0, 1], payload := [0, 0, 128, 63] } with payload := [1, 1, 1, 1] }; let s : State := { sOn with stage.rws := [(0x02200380, 621105), (0x0220038C, 67)], trees := [(0x1C, { st := 1 })] }; let u : State := inc (crnCtr g 0) (freeInternal (xC g) p s)
    (i = crIdx p) ∧ (u = inc (crnCtr g 0) (freeInternal (xC g) p s)) ∧ ((tree s i).st ≠ 0) ∧ (e2eGood p = false) ∧ quiet s (breakTree i 3 none (inc (crnCtr g 10) (raise (148 + g) 2 (inc (crnCtr g 9) u)))) = true := by decide +kernel

set_option maxRecDepth 100000 in
theorem wit_TreePackets_5 :
    let g : Nat := 0; let n : Nat := 64; let i : Nat := 0x1C; let p : Packet := (let p := { sealPkt { dest := 0x20, src := 1, cls := 0, lenCells := 0, ptype := 0x40, mode := 3, extMask := 0x20, ext := [0x7A31001C, 6291461, 0, 1], payload := [0, 0, 128, 63] } with lenCells := 9 }; { p with e2e := e2eOf p }); let s : State := { sOn with stage.rws := [(0x02200380, 621105), (0x0220038C, 67)], trees := [(0x1C, { st := 1 })] }; let u : State := inc (crnCtr g 0) (freeInternal (xC g) p s)
    (i = crIdx p) ∧ (u = inc (crnCtr g 0) (freeInternal (xC g) p s)) ∧ ((tree s i).st ≠ 0) ∧ (e2eGood p = true) ∧ (lenOk p = false) ∧ quiet s (breakTree i 3 none (raise (148 + g) 2 (inc (crnCtr g 9) u))) = true := by decide +kernel

set_option maxRecDepth 100000 in
theorem wit_TreePackets_6 :
    let g : Nat := 0; let n : Nat := 66; let i : Nat := 0x1C; let p : Packet := sealPkt { dest := 0x20, src := 1, cls := 0, lenCells := 0, ptype := 0x40, mode := 3, extMask := 0x20, ext := [0x7A31001C, 6291461, 0, 1], payload := [0, 0, 128, 63] }; let s : State := { sOn with stage.rws := [(0x02200380, 621105), (0x0220038C, 67)], trees := [(0x1C, { st := 1 })] }; let u : State := inc (crnCtr g 0) (freeInternal (xC g) p s)
    (i = crIdx p) ∧ (u = inc (crnCtr g 0) (freeInternal (xC g) p s)) ∧ ((tree s i).st = 1) ∧ (lenOk p = true) ∧ (e2eGood p = true) ∧ ((treeKids u i).contains n = false) ∧ quiet s (breakTree i 3 none (raise (148 + g) 2 (inc (crnCtr g 9) u))) = true := by decide +kernel

set_option maxRecDepth 100000 in
theorem wit_TreePackets_7 :
    let g : Nat := 0; let n : Nat := 64; let i : Nat := 0x1C; let p : Packet := sealPkt { dest := 0x20, src := 1, cls := 0, lenCells := 0, ptype := 0x40, mode := 3, extMask := 0x20, ext := [0x7A31001C, 6291461, 589824, 1], payload := [] }; let s : State := { sOn with stage.rws := [(0x02200380, 621105), (0x0220038C, 67)], trees := [(0x1C, { st := 1 })] }; let u : State := inc (crnCtr g 0) (freeInternal (xC g) p s)
    (i = crIdx p) ∧ (u = inc (crnCtr g 0) (freeInternal (xC g) p s)) ∧ ((tree s i).st = 1) ∧ (lenOk p = true) ∧ (e2eGood p = true) ∧ ((treeKids u i).contains n = true) ∧ (treeFieldsBad true n p = true) ∧ quiet s (breakTree i 3 none (raise (148 + g) 2 (inc (crnCtr g 9) u))) = true := by decide +kernel

set_option maxRecDepth 100000 in
theorem wit_TreePackets_8 :
    let g : Nat := 0; let n : Nat := 64; let i : Nat := 0x1C; let p : Packet := sealPkt { dest := 0x20, src := 1, cls := 0, lenCells := 0, ptype := 0x40, mode := 3, extMask := 0x20, ext := [0x7A31001C, 6291461, 65536, 1], payload := [] }; let s : State := { sOn with stage.rws := [(0x02200380, 621105), (0x0220038C, 67)], trees := [(0x1C, { st := 1 })] }; let u : State := inc (crnCtr g 0) (freeInternal (xC g) p s)
    (i = crIdx p) ∧ (u = inc (crnCtr g 0) (freeInternal (xC g) p s)) ∧ ((tree s i).st = 1) ∧ (lenOk p = true) ∧ (e2eGood p = true) ∧ ((treeKids u i).contains n = true) ∧ (treeFieldsBad true n p = false) ∧ (crStatus p = 1) ∧ quiet s (breakTree i 5 (some n) u) = true := by decide +kernel

set_option maxRecDepth 100000 in
theorem wit_TreePackets_9 :
    let g : Nat := 0; let n : Nat := 64; let i : Nat := 0x1C; let p : Packet := sealPkt { dest := 0x20, src := 1, cls := 0, lenCells := 0, ptype := 0x40, mode := 3, extMask := 0x20, ext := [0x7A31001C, 6291461, 131072, 1], payload := [] }; let s : State := { sOn with stage.rws := [(0x02200380, 621105), (0x0220038C, 67)], trees := [(0x1C, { st := 1 })] }; let u : State := inc (crnCtr g 0) (freeInternal (xC g) p s)
    (i = crIdx p) ∧ (u = inc (crnCtr g 0) (freeInternal (xC g) p s)) ∧ ((tree s i).st = 1) ∧ (lenOk p = true) ∧ (e2eGood p = true) ∧ ((treeKids u i).contains n = true) ∧ (treeFieldsBad true n p = false) ∧ (crStatus p = 2) ∧ quiet s (breakTree i 4 (some n) u) = true := by decide +kernel

set_option maxRecDepth 100000 in
theorem wit_TreePackets_10 :
    let g : Nat := 0; let n : Nat := 64; let i : Nat := 0x1C; let p : Packet := sealPkt { dest := 0x20, src := 1, cls := 0, lenCells := 0, ptype := 0x40, mode := 3, extMask := 0x20, ext := [0x7A31001C, 6291461, 196608, 1], payload := [] }; let s : State := { sOn with stage.rws := [(0x02200380, 621105), (0x0220038C, 67)], trees := [(0x1C, { st := 1 })] }; let u : State := inc (crnCtr g 0) (freeInternal (xC g) p s)
    (i = crIdx p) ∧ (u = inc (crnCtr g 0) (freeInternal (xC g) p s)) ∧ ((tree s i).st = 1) ∧ (lenOk p = true) ∧ (e2eGood p = true) ∧ ((treeKids u i).contains n = true) ∧ (treeFieldsBad true n p = false) ∧ (crStatus p = 3) ∧ quiet s (u) = true := by decide +kernel

set_option maxRecDepth 100000 in
theorem wit_TreePackets_11 :
    let g : Nat := 0; let n : Nat := 64; let i : Nat := 0x1C; let p : Packet := sealPkt { dest := 0x20, src := 1, cls := 0, lenCells := 0, ptype := 0x40, mode := 3, extMask := 0x20, ext := [0x7A31001C, 6291465, 0, 1], payload := [0, 0, 128, 63] }; let s : State := { sOn with stage.rws := [(0x02200380, 621105), (0x0220038C, 67)], trees := [(0x1C, { st := 1, opSeq := 5, started := true, chunks := 1 })] }; let u : State := inc (crnCtr g 0) (freeInternal (xC g) p s)
    (i = crIdx p) ∧ (u = inc (crnCtr g 0) (freeInternal (xC g) p s)) ∧ ((tree s i).st = 1) ∧ (lenOk p = true) ∧ (e2eGood p = true) ∧ ((treeKids u i).contains n = true) ∧ (treeFieldsBad true n p = false) ∧ (crStatus p = 0) ∧ (crVals p = none ∨ upSeq (tree s i) p = none) ∧ quiet s (breakTree i 3 none (raise (148 + g) 2 (inc (crnCtr g 9) u))) = true := by decide +kernel

set_option maxRecDepth 100000 in
theorem wit_TreePackets_12 :
    let g : Nat := 0; let n : Nat := 64; let i : Nat := 0x1C; let p : Packet := sealPkt { dest := 0x20, src := 1, cls := 0, lenCells := 0, ptype := 0x40, mode := 3, extMask := 0x20, ext := [0x7A31001C, 6291461, 0, 1], payload := [0, 0, 128, 63] }; let vals : List Elem := [{ a := 2 ^ 149 }]; let t0 : TreeCtx := { st := 1, opSeq := 5, started := true, chunks := 1, sent := [0] }; let s : State := { sOn with stage.rws := [(0x02200380, 621105), (0x0220038C, 67)], trees := [(0x1C, { st := 1, opSeq := 5, started := true, chunks := 1, sent := [0] })] }; let u : State := inc (crnCtr g 0) (freeInternal (xC g) p s)
    (i = crIdx p) ∧ (u = inc (crnCtr g 0) (freeInternal (xC g) p s)) ∧ ((tree s i).st = 1) ∧ (lenOk p = true) ∧ (e2eGood p = true) ∧ ((treeKids u i).contains n = true) ∧ (treeFieldsBad true n p = false) ∧ (crStatus p = 0) ∧ (crVals p = some vals) ∧ (upSeq (tree s i) p = some t0) ∧ (t0.chunks ≤ crChunk p ∨ inWindow t0 (treeWindow u i) (crChunk p) = false ∨ t0.sent.contains (crChunk p) = true ∨ t0.ups.any (fun x => x.chunk == crChunk p && x.got.contains n) = true) ∧ quiet s (breakTree i 3 none (raise (148 + g) 2 (inc (crnCtr g 9) u))) = true := by decide +kernel

set_option maxRecDepth 100000 in
theorem wit_TreePackets_13 :
    let g : Nat := 0; let n : Nat := 64; let i : Nat := 0x1C; let p : Packet := sealPkt { dest := 0x20, src := 1, cls := 0, lenCells := 0, ptype := 0x40, mode := 3, extMask := 0x20, ext := [0x7A31001C, 39845893, 0, 1], payload := [0, 0, 128, 63] }; let vals : List Elem := [{ a := 2 ^ 149 }]; let t0 : TreeCtx := { st := 1, opSeq := 5, started := true, chunks := 1, ups := [{ chunk := 0, op := 0, dtype := 6, mode := 2, elems := 1, got := [65], vals := [{ a := 2 ^ 149 }], held := [], ecc := .bad }] }; let x : UpSlot := (t0.ups.find? (fun z => z.chunk == crChunk p)).getD { chunk := crChunk p, op := crOp p, dtype := crDtype p, mode := crMode p, elems := w32 (crElems p), got := [], vals := [], held := [] }; let s : State := { sOn with stage.rws := [(0x02200380, 621105), (0x0220038C, 67)], trees := [(0x1C, { st := 1, opSeq := 5, started := true, chunks := 1, ups := [{ chunk := 0, op := 0, dtype := 6, mode := 2, elems := 1, got := [65], vals := [{ a := 2 ^ 149 }], held := [], ecc := .bad }] })] }; let u : State := inc (crnCtr g 0) (freeInternal (xC g) p s)
    (i = crIdx p) ∧ (u = inc (crnCtr g 0) (freeInternal (xC g) p s)) ∧ ((tree s i).st = 1) ∧ (lenOk p = true) ∧ (e2eGood p = true) ∧ ((treeKids u i).contains n = true) ∧ (crStatus p = 0) ∧ (treeFieldsBad true n p = false) ∧ (crVals p = some vals) ∧ (upSeq (tree s i) p = some t0) ∧ (crChunk p < t0.chunks) ∧ (inWindow t0 (treeWindow u i) (crChunk p) = true) ∧ (t0.sent.contains (crChunk p) = false) ∧ (t0.ups.any (fun x => x.chunk == crChunk p && x.got.contains n) = false) ∧ (crMode p ≠ 1 ∨ bitW (treeW u i 0) 20 = true) ∧ (t0.ups.any (fun x => x.chunk == crChunk p && (x.op != crOp p || x.dtype != crDtype p || x.mode != crMode p || x.elems.toNat != crElems p)) = false) ∧ (x = (t0.ups.find? (fun z => z.chunk == crChunk p)).getD { chunk := crChunk p, op := crOp p, dtype := crDtype p, mode := crMode p, elems := w32 (crElems p), got := [], vals := [], held := [] }) ∧ (x.ecc = .bad) ∧ quiet s (breakTree i 2 none (raise (148 + (treeUnit u i)) 8 (setTree i t0 u))) = true := by decide +kernel

set_option maxRecDepth 100000 in
theorem wit_TreePackets_14 :
    let g : Nat := 0; let n : Nat := 64; let i : Nat := 0x1C; let p : Packet := sealPkt { dest := 0x20, src := 1, cls := 0, lenCells := 0, ptype := 0x40, mode := 3, extMask := 0x20, ext := [0x7A31001C, 39845893, 0, 1], payload := [0, 0, 128, 63] }; let vals : List Elem := [{ a := 2 ^ 149 }]; let t0 : TreeCtx := { st := 1, opSeq := 5, started := true, chunks := 1 }; let x : UpSlot := (t0.ups.find? (fun z => z.chunk == crChunk p)).getD { chunk := crChunk p, op := crOp p, dtype := crDtype p, mode := crMode p, elems := w32 (crElems p), got := [], vals := [], held := [] }; let l : List (List Elem) := (List.range 68).filterMap (fun q => (((n, vals) :: x.held).find? (fun z => z.1 == q)).map (fun z => z.2)); let y : Nat := elemsIn x.mode x.dtype x.elems.toNat x.chunk * sizeOf_ x.dtype; let s : State := { sOn with stage.rws := [(0x02200380, 621105), (0x0220038C, 67)], trees := [(0x1C, { st := 1 })] }; let u : State := inc (crnCtr g 0) (freeInternal (xC g) p s); let f : UpSlot := { x with got := n :: x.got, held := (if x.mode = 1 then (n, vals) :: x.held else []), ecc := .good, vals := if x.mode = 1 then (if (treeKids u i).all (fun q => (n :: x.got).contains q) then l.tail.foldl (fun a c => List.zipWith (elCombine x.op 1 x.dtype) a c) (l.headD []) else []) else if x.got = [] then vals else List.zipWith (elCombine x.op x.mode x.dtype) x.vals vals }; let b : State := if y = 0 then (if x.ecc = .corr then inc (grvBase (treeUnit u i) + 0x48) (setTree i t0 u) else setTree i t0 u) else count (crnCtr (treeUnit u i) 6) y (if x.ecc = .corr then inc (grvBase (treeUnit u i) + 0x48) (setTree i t0 u) else setTree i t0 u)
    (i = crIdx p) ∧ (u = inc (crnCtr g 0) (freeInternal (xC g) p s)) ∧ ((tree s i).st = 1) ∧ (lenOk p = true) ∧ (e2eGood p = true) ∧ ((treeKids u i).contains n = true) ∧ (crStatus p = 0) ∧ (treeFieldsBad true n p = false) ∧ (crVals p = some vals) ∧ (upSeq (tree s i) p = some t0) ∧ (crChunk p < t0.chunks) ∧ (inWindow t0 (treeWindow u i) (crChunk p) = true) ∧ (t0.sent.contains (crChunk p) = false) ∧ (t0.ups.any (fun x => x.chunk == crChunk p && x.got.contains n) = false) ∧ (crMode p ≠ 1 ∨ bitW (treeW u i 0) 20 = true) ∧ (t0.ups.any (fun x => x.chunk == crChunk p && (x.op != crOp p || x.dtype != crDtype p || x.mode != crMode p || x.elems.toNat != crElems p)) = false) ∧ (x = (t0.ups.find? (fun z => z.chunk == crChunk p)).getD { chunk := crChunk p, op := crOp p, dtype := crDtype p, mode := crMode p, elems := w32 (crElems p), got := [], vals := [], held := [] }) ∧ (x.ecc ≠ .bad) ∧ (l = (List.range 68).filterMap (fun q => (((n, vals) :: x.held).find? (fun z => z.1 == q)).map (fun z => z.2))) ∧ (f = { x with got := n :: x.got, held := (if x.mode = 1 then (n, vals) :: x.held else []), ecc := .good, vals := if x.mode = 1 then (if (treeKids u i).all (fun q => (n :: x.got).contains q) then l.tail.foldl (fun a c => List.zipWith (elCombine x.op 1 x.dtype) a c) (l.headD []) else []) else if x.got = [] then vals else List.zipWith (elCombine x.op x.mode x.dtype) x.vals vals }) ∧ (y = elemsIn x.mode x.dtype x.elems.toNat x.chunk * sizeOf_ x.dtype) ∧ (b = (if y = 0 then (if x.ecc = .corr then inc (grvBase (treeUnit u i) + 0x48) (setTree i t0 u) else setTree i t0 u) else count (crnCtr (treeUnit u i) 6) y (if x.ecc = .corr then inc (grvBase (treeUnit u i) + 0x48) (setTree i t0 u) else setTree i t0 u))) ∧ ((treeKids u i).all (fun q => (n :: x.got).contains q) = false) ∧ quiet s (setTree i { t0 with ups := f :: t0.ups.filter (fun z => z.chunk != x.chunk) } b) = true := by decide +kernel

set_option maxRecDepth 100000 in
theorem wit_TreePackets_15 :
    let g : Nat := 0; let n : Nat := 64; let i : Nat := 0x1C; let p : Packet := sealPkt { dest := 0x20, src := 1, cls := 0, lenCells := 0, ptype := 0x40, mode := 3, extMask := 0x20, ext := [0x7A31001C, 23068677, 0, 1], payload := [0, 0, 128, 63] }; let vals : List Elem := elems 1 6 1 [0, 0, 128, 63]; let t0 : TreeCtx := { st := 1, opSeq := 5, started := true, chunks := 1, ups := [{ chunk := 0, op := 0, dtype := 6, mode := 1, elems := 1, got := [65], vals := [], held := [(65, [{ a := 2 ^ 149 }])] }] }; let x : UpSlot := (t0.ups.find? (fun z => z.chunk == crChunk p)).getD { chunk := crChunk p, op := crOp p, dtype := crDtype p, mode := crMode p, elems := w32 (crElems p), got := [], vals := [], held := [] }; let l : List (List Elem) := (List.range 68).filterMap (fun q => (((n, vals) :: x.held).find? (fun z => z.1 == q)).map (fun z => z.2)); let y : Nat := elemsIn x.mode x.dtype x.elems.toNat x.chunk * sizeOf_ x.dtype; let s : State := { sOn with stage.rws := [(0x02200380, 1669681), (0x0220038C, 67)], trees := [(0x1C, { st := 1, opSeq := 5, started := true, chunks := 1, ups := [{ chunk := 0, op := 0, dtype := 6, mode := 1, elems := 1, got := [65], vals := [], held := [(65, [{ a := 2 ^ 149 }])] }] })] }; let u : State := inc (crnCtr g 0) (freeInternal (xC g) p s); let f : UpSlot := { x with got := n :: x.got, held := (if x.mode = 1 then (n, vals) :: x.held else []), ecc := .good, vals := if x.mode = 1 then (if (treeKids u i).all (fun q => (n :: x.got).contains q) then l.tail.foldl (fun a c => List.zipWith (elCombine x.op 1 x.dtype) a c) (l.headD []) else []) else if x.got = [] then vals else List.zipWith (elCombine x.op x.mode x.dtype) x.vals vals }; let b : State := if y = 0 then (if x.ecc = .corr then inc (grvBase (treeUnit u i) + 0x48) (setTree i t0 u) else setTree i t0 u) else count (crnCtr (treeUnit u i) 6) y (if x.ecc = .corr then inc (grvBase (treeUnit u i) + 0x48) (setTree i t0 u) else setTree i t0 u); let r : State := setTree i { t0 with ups := t0.ups.filter (fun z => z.chunk != x.chunk), sent := f.chunk :: t0.sent, downed := f.chunk :: t0.downed } (inc (crnCtr (treeUnit u i) 4) (setTree i { t0 with ups := t0.ups.filter (fun z => z.chunk != x.chunk) } b)); let k : State := (treeKids r i).foldl (fun a c => inc (crnCtr (treeUnit u i) 3) (sendTree (treeUnit u i) c (treePkt false i (treeF u i 0 0 16) t0.opSeq.toNat f.op f.dtype f.mode 0 f.chunk 0 f.elems.toNat (elemBytes f.mode f.dtype f.vals)) a)) r
    (i = crIdx p) ∧ (u = inc (crnCtr g 0) (freeInternal (xC g) p s)) ∧ ((tree s i).st = 1) ∧ (lenOk p = true) ∧ (e2eGood p = true) ∧ ((treeKids u i).contains n = true) ∧ (crStatus p = 0) ∧ (treeFieldsBad true n p = false) ∧ (crVals p = some vals) ∧ (upSeq (tree s i) p = some t0) ∧ (crChunk p < t0.chunks) ∧ (inWindow t0 (treeWindow u i) (crChunk p) = true) ∧ (t0.sent.contains (crChunk p) = false) ∧ (t0.ups.any (fun x => x.chunk == crChunk p && x.got.contains n) = false) ∧ (crMode p ≠ 1 ∨ bitW (treeW u i 0) 20 = true) ∧ (t0.ups.any (fun x => x.chunk == crChunk p && (x.op != crOp p || x.dtype != crDtype p || x.mode != crMode p || x.elems.toNat != crElems p)) = false) ∧ (x = (t0.ups.find? (fun z => z.chunk == crChunk p)).getD { chunk := crChunk p, op := crOp p, dtype := crDtype p, mode := crMode p, elems := w32 (crElems p), got := [], vals := [], held := [] }) ∧ (x.ecc ≠ .bad) ∧ (l = (List.range 68).filterMap (fun q => (((n, vals) :: x.held).find? (fun z => z.1 == q)).map (fun z => z.2))) ∧ (f = { x with got := n :: x.got, held := (if x.mode = 1 then (n, vals) :: x.held else []), ecc := .good, vals := if x.mode = 1 then (if (treeKids u i).all (fun q => (n :: x.got).contains q) then l.tail.foldl (fun a c => List.zipWith (elCombine x.op 1 x.dtype) a c) (l.headD []) else []) else if x.got = [] then vals else List.zipWith (elCombine x.op x.mode x.dtype) x.vals vals }) ∧ (y = elemsIn x.mode x.dtype x.elems.toNat x.chunk * sizeOf_ x.dtype) ∧ (b = (if y = 0 then (if x.ecc = .corr then inc (grvBase (treeUnit u i) + 0x48) (setTree i t0 u) else setTree i t0 u) else count (crnCtr (treeUnit u i) 6) y (if x.ecc = .corr then inc (grvBase (treeUnit u i) + 0x48) (setTree i t0 u) else setTree i t0 u))) ∧ ((treeKids u i).all (fun q => (n :: x.got).contains q) = true) ∧ (treeRoot u i = true) ∧ (r = setTree i { t0 with ups := t0.ups.filter (fun z => z.chunk != x.chunk), sent := f.chunk :: t0.sent, downed := f.chunk :: t0.downed } (inc (crnCtr (treeUnit u i) 4) (setTree i { t0 with ups := t0.ups.filter (fun z => z.chunk != x.chunk) } b))) ∧ (k = (treeKids r i).foldl (fun a c => inc (crnCtr (treeUnit u i) 3) (sendTree (treeUnit u i) c (treePkt false i (treeF u i 0 0 16) t0.opSeq.toNat f.op f.dtype f.mode 0 f.chunk 0 f.elems.toNat (elemBytes f.mode f.dtype f.vals)) a)) r) ∧ (t0.downed.length + 1 = t0.chunks) ∧ quiet s (inc (crnCtr (treeUnit u i) 5) (if k.net.voq.length - r.net.voq.length = 0 then k else setTree i { tree k i with downs := { chunk := f.chunk, left := k.net.voq.length - r.net.voq.length } :: (tree k i).downs.filter (fun d => d.chunk != f.chunk) } k)) = true := by decide +kernel

set_option maxRecDepth 100000 in
theorem wit_TreePackets_16 :
    let g : Nat := 0; let n : Nat := 64; let i : Nat := 0x1C; let p : Packet := sealPkt { dest := 0x20, src := 1, cls := 0, lenCells := 0, ptype := 0x40, mode := 3, extMask := 0x20, ext := [0x7A31001C, 39845893, 0, 1], payload := [0, 0, 128, 63] }; let vals : List Elem := [{ a := 2 ^ 149 }]; let t0 : TreeCtx := { st := 1, opSeq := 5, started := true, chunks := 2, ups := [{ chunk := 0, op := 0, dtype := 6, mode := 2, elems := 1, got := [65], vals := [{ a := 2 ^ 149 }], held := [] }] }; let x : UpSlot := (t0.ups.find? (fun z => z.chunk == crChunk p)).getD { chunk := crChunk p, op := crOp p, dtype := crDtype p, mode := crMode p, elems := w32 (crElems p), got := [], vals := [], held := [] }; let l : List (List Elem) := (List.range 68).filterMap (fun q => (((n, vals) :: x.held).find? (fun z => z.1 == q)).map (fun z => z.2)); let y : Nat := elemsIn x.mode x.dtype x.elems.toNat x.chunk * sizeOf_ x.dtype; let s : State := { sOn with stage.rws := [(0x02200380, 621105), (0x0220038C, 67)], trees := [(0x1C, { st := 1, opSeq := 5, started := true, chunks := 2, ups := [{ chunk := 0, op := 0, dtype := 6, mode := 2, elems := 1, got := [65], vals := [{ a := 2 ^ 149 }], held := [] }] })] }; let u : State := inc (crnCtr g 0) (freeInternal (xC g) p s); let f : UpSlot := { x with got := n :: x.got, held := (if x.mode = 1 then (n, vals) :: x.held else []), ecc := .good, vals := if x.mode = 1 then (if (treeKids u i).all (fun q => (n :: x.got).contains q) then l.tail.foldl (fun a c => List.zipWith (elCombine x.op 1 x.dtype) a c) (l.headD []) else []) else if x.got = [] then vals else List.zipWith (elCombine x.op x.mode x.dtype) x.vals vals }; let b : State := if y = 0 then (if x.ecc = .corr then inc (grvBase (treeUnit u i) + 0x48) (setTree i t0 u) else setTree i t0 u) else count (crnCtr (treeUnit u i) 6) y (if x.ecc = .corr then inc (grvBase (treeUnit u i) + 0x48) (setTree i t0 u) else setTree i t0 u); let r : State := setTree i { t0 with ups := t0.ups.filter (fun z => z.chunk != x.chunk), sent := f.chunk :: t0.sent, downed := f.chunk :: t0.downed } (inc (crnCtr (treeUnit u i) 4) (setTree i { t0 with ups := t0.ups.filter (fun z => z.chunk != x.chunk) } b)); let k : State := (treeKids r i).foldl (fun a c => inc (crnCtr (treeUnit u i) 3) (sendTree (treeUnit u i) c (treePkt false i (treeF u i 0 0 16) t0.opSeq.toNat f.op f.dtype f.mode 0 f.chunk 0 f.elems.toNat (elemBytes f.mode f.dtype f.vals)) a)) r
    (i = crIdx p) ∧ (u = inc (crnCtr g 0) (freeInternal (xC g) p s)) ∧ ((tree s i).st = 1) ∧ (lenOk p = true) ∧ (e2eGood p = true) ∧ ((treeKids u i).contains n = true) ∧ (crStatus p = 0) ∧ (treeFieldsBad true n p = false) ∧ (crVals p = some vals) ∧ (upSeq (tree s i) p = some t0) ∧ (crChunk p < t0.chunks) ∧ (inWindow t0 (treeWindow u i) (crChunk p) = true) ∧ (t0.sent.contains (crChunk p) = false) ∧ (t0.ups.any (fun x => x.chunk == crChunk p && x.got.contains n) = false) ∧ (crMode p ≠ 1 ∨ bitW (treeW u i 0) 20 = true) ∧ (t0.ups.any (fun x => x.chunk == crChunk p && (x.op != crOp p || x.dtype != crDtype p || x.mode != crMode p || x.elems.toNat != crElems p)) = false) ∧ (x = (t0.ups.find? (fun z => z.chunk == crChunk p)).getD { chunk := crChunk p, op := crOp p, dtype := crDtype p, mode := crMode p, elems := w32 (crElems p), got := [], vals := [], held := [] }) ∧ (x.ecc ≠ .bad) ∧ (l = (List.range 68).filterMap (fun q => (((n, vals) :: x.held).find? (fun z => z.1 == q)).map (fun z => z.2))) ∧ (f = { x with got := n :: x.got, held := (if x.mode = 1 then (n, vals) :: x.held else []), ecc := .good, vals := if x.mode = 1 then (if (treeKids u i).all (fun q => (n :: x.got).contains q) then l.tail.foldl (fun a c => List.zipWith (elCombine x.op 1 x.dtype) a c) (l.headD []) else []) else if x.got = [] then vals else List.zipWith (elCombine x.op x.mode x.dtype) x.vals vals }) ∧ (y = elemsIn x.mode x.dtype x.elems.toNat x.chunk * sizeOf_ x.dtype) ∧ (b = (if y = 0 then (if x.ecc = .corr then inc (grvBase (treeUnit u i) + 0x48) (setTree i t0 u) else setTree i t0 u) else count (crnCtr (treeUnit u i) 6) y (if x.ecc = .corr then inc (grvBase (treeUnit u i) + 0x48) (setTree i t0 u) else setTree i t0 u))) ∧ ((treeKids u i).all (fun q => (n :: x.got).contains q) = true) ∧ (treeRoot u i = true) ∧ (r = setTree i { t0 with ups := t0.ups.filter (fun z => z.chunk != x.chunk), sent := f.chunk :: t0.sent, downed := f.chunk :: t0.downed } (inc (crnCtr (treeUnit u i) 4) (setTree i { t0 with ups := t0.ups.filter (fun z => z.chunk != x.chunk) } b))) ∧ (k = (treeKids r i).foldl (fun a c => inc (crnCtr (treeUnit u i) 3) (sendTree (treeUnit u i) c (treePkt false i (treeF u i 0 0 16) t0.opSeq.toNat f.op f.dtype f.mode 0 f.chunk 0 f.elems.toNat (elemBytes f.mode f.dtype f.vals)) a)) r) ∧ (t0.downed.length + 1 ≠ t0.chunks) ∧ quiet s ((if k.net.voq.length - r.net.voq.length = 0 then k else setTree i { tree k i with downs := { chunk := f.chunk, left := k.net.voq.length - r.net.voq.length } :: (tree k i).downs.filter (fun d => d.chunk != f.chunk) } k)) = true := by decide +kernel

set_option maxRecDepth 100000 in
theorem wit_TreePackets_17 :
    let g : Nat := 0; let n : Nat := 64; let i : Nat := 0x1C; let p : Packet := sealPkt { dest := 0x20, src := 1, cls := 0, lenCells := 0, ptype := 0x40, mode := 3, extMask := 0x20, ext := [0x7A31001C, 6291461, 0, 1], payload := [0, 0, 128, 63] }; let vals : List Elem := elems 0 6 1 [0, 0, 128, 63]; let t0 : TreeCtx := { st := 1, opSeq := 5, started := true, chunks := 1, ups := [{ chunk := 0, op := 0, dtype := 6, mode := 0, elems := 1, got := [65], vals := [{ a := 2 ^ 149 }], held := [] }] }; let x : UpSlot := (t0.ups.find? (fun z => z.chunk == crChunk p)).getD { chunk := crChunk p, op := crOp p, dtype := crDtype p, mode := crMode p, elems := w32 (crElems p), got := [], vals := [], held := [] }; let l : List (List Elem) := (List.range 68).filterMap (fun q => (((n, vals) :: x.held).find? (fun z => z.1 == q)).map (fun z => z.2)); let y : Nat := elemsIn x.mode x.dtype x.elems.toNat x.chunk * sizeOf_ x.dtype; let s : State := { sOn with stage.rws := [(0x02200380, 10582577), (0x0220038C, 67)], trees := [(0x1C, { st := 1, opSeq := 5, started := true, chunks := 1, ups := [{ chunk := 0, op := 0, dtype := 6, mode := 0, elems := 1, got := [65], vals := [{ a := 2 ^ 149 }], held := [] }] })] }; let u : State := inc (crnCtr g 0) (freeInternal (xC g) p s); let f : UpSlot := { x with got := n :: x.got, held := (if x.mode = 1 then (n, vals) :: x.held else []), ecc := .good, vals := if x.mode = 1 then (if (treeKids u i).all (fun q => (n :: x.got).contains q) then l.tail.foldl (fun a c => List.zipWith (elCombine x.op 1 x.dtype) a c) (l.headD []) else []) else if x.got = [] then vals else List.zipWith (elCombine x.op x.mode x.dtype) x.vals vals }; let b : State := if y = 0 then (if x.ecc = .corr then inc (grvBase (treeUnit u i) + 0x48) (setTree i t0 u) else setTree i t0 u) else count (crnCtr (treeUnit u i) 6) y (if x.ecc = .corr then inc (grvBase (treeUnit u i) + 0x48) (setTree i t0 u) else setTree i t0 u); let r : State := setTree i { t0 with ups := t0.ups.filter (fun z => z.chunk != x.chunk), sent := f.chunk :: t0.sent } (inc (crnCtr (treeUnit u i) 4) (setTree i { t0 with ups := t0.ups.filter (fun z => z.chunk != x.chunk) } b))
    (i = crIdx p) ∧ (u = inc (crnCtr g 0) (freeInternal (xC g) p s)) ∧ ((tree s i).st = 1) ∧ (lenOk p = true) ∧ (e2eGood p = true) ∧ ((treeKids u i).contains n = true) ∧ (crStatus p = 0) ∧ (treeFieldsBad true n p = false) ∧ (crVals p = some vals) ∧ (upSeq (tree s i) p = some t0) ∧ (crChunk p < t0.chunks) ∧ (inWindow t0 (treeWindow u i) (crChunk p) = true) ∧ (t0.sent.contains (crChunk p) = false) ∧ (t0.ups.any (fun x => x.chunk == crChunk p && x.got.contains n) = false) ∧ (crMode p ≠ 1 ∨ bitW (treeW u i 0) 20 = true) ∧ (t0.ups.any (fun x => x.chunk == crChunk p && (x.op != crOp p || x.dtype != crDtype p || x.mode != crMode p || x.elems.toNat != crElems p)) = false) ∧ (x = (t0.ups.find? (fun z => z.chunk == crChunk p)).getD { chunk := crChunk p, op := crOp p, dtype := crDtype p, mode := crMode p, elems := w32 (crElems p), got := [], vals := [], held := [] }) ∧ (x.ecc ≠ .bad) ∧ (l = (List.range 68).filterMap (fun q => (((n, vals) :: x.held).find? (fun z => z.1 == q)).map (fun z => z.2))) ∧ (f = { x with got := n :: x.got, held := (if x.mode = 1 then (n, vals) :: x.held else []), ecc := .good, vals := if x.mode = 1 then (if (treeKids u i).all (fun q => (n :: x.got).contains q) then l.tail.foldl (fun a c => List.zipWith (elCombine x.op 1 x.dtype) a c) (l.headD []) else []) else if x.got = [] then vals else List.zipWith (elCombine x.op x.mode x.dtype) x.vals vals }) ∧ (y = elemsIn x.mode x.dtype x.elems.toNat x.chunk * sizeOf_ x.dtype) ∧ (b = (if y = 0 then (if x.ecc = .corr then inc (grvBase (treeUnit u i) + 0x48) (setTree i t0 u) else setTree i t0 u) else count (crnCtr (treeUnit u i) 6) y (if x.ecc = .corr then inc (grvBase (treeUnit u i) + 0x48) (setTree i t0 u) else setTree i t0 u))) ∧ ((treeKids u i).all (fun q => (n :: x.got).contains q) = true) ∧ (treeRoot u i = false) ∧ (x.mode ≠ 2) ∧ (r = setTree i { t0 with ups := t0.ups.filter (fun z => z.chunk != x.chunk), sent := f.chunk :: t0.sent } (inc (crnCtr (treeUnit u i) 4) (setTree i { t0 with ups := t0.ups.filter (fun z => z.chunk != x.chunk) } b))) ∧ quiet s (inc (crnCtr (treeUnit u i) 1) (sendTree (treeUnit u i) (treeParent u i) (treePkt true i (treeF u i 0 0 16) t0.opSeq.toNat f.op f.dtype f.mode 0 f.chunk 0 f.elems.toNat (elemBytes f.mode f.dtype f.vals)) r)) = true := by decide +kernel

set_option maxRecDepth 100000 in
theorem wit_TreePackets_18 :
    let g : Nat := 0; let n : Nat := 64; let i : Nat := 0x1C; let p : Packet := sealPkt { dest := 0x20, src := 1, cls := 0, lenCells := 0, ptype := 0x40, mode := 3, extMask := 0x20, ext := [0x7A31001C, 39845893, 0, 1], payload := [0, 0, 128, 63] }; let vals : List Elem := [{ a := 2 ^ 149 }]; let t0 : TreeCtx := { st := 1, opSeq := 5, started := true, chunks := 1, ups := [{ chunk := 0, op := 0, dtype := 6, mode := 2, elems := 1, got := [65], vals := [{ a := 2 ^ 149 }], held := [] }] }; let x : UpSlot := (t0.ups.find? (fun z => z.chunk == crChunk p)).getD { chunk := crChunk p, op := crOp p, dtype := crDtype p, mode := crMode p, elems := w32 (crElems p), got := [], vals := [], held := [] }; let l : List (List Elem) := (List.range 68).filterMap (fun q => (((n, vals) :: x.held).find? (fun z => z.1 == q)).map (fun z => z.2)); let y : Nat := elemsIn x.mode x.dtype x.elems.toNat x.chunk * sizeOf_ x.dtype; let s : State := { sOn with stage.rws := [(0x02200380, 10582577), (0x0220038C, 67)], trees := [(0x1C, { st := 1, opSeq := 5, started := true, chunks := 1, ups := [{ chunk := 0, op := 0, dtype := 6, mode := 2, elems := 1, got := [65], vals := [{ a := 2 ^ 149 }], held := [] }] })] }; let u : State := inc (crnCtr g 0) (freeInternal (xC g) p s); let f : UpSlot := { x with got := n :: x.got, held := (if x.mode = 1 then (n, vals) :: x.held else []), ecc := .good, vals := if x.mode = 1 then (if (treeKids u i).all (fun q => (n :: x.got).contains q) then l.tail.foldl (fun a c => List.zipWith (elCombine x.op 1 x.dtype) a c) (l.headD []) else []) else if x.got = [] then vals else List.zipWith (elCombine x.op x.mode x.dtype) x.vals vals }; let b : State := if y = 0 then (if x.ecc = .corr then inc (grvBase (treeUnit u i) + 0x48) (setTree i t0 u) else setTree i t0 u) else count (crnCtr (treeUnit u i) 6) y (if x.ecc = .corr then inc (grvBase (treeUnit u i) + 0x48) (setTree i t0 u) else setTree i t0 u); let r : State := setTree i { t0 with ups := t0.ups.filter (fun z => z.chunk != x.chunk), sent := f.chunk :: t0.sent } (inc (crnCtr (treeUnit u i) 4) (setTree i { t0 with ups := t0.ups.filter (fun z => z.chunk != x.chunk) } b)); let pl : List Byte := (exPayload f.vals).1; let e : Nat := (exPayload f.vals).2
    (i = crIdx p) ∧ (u = inc (crnCtr g 0) (freeInternal (xC g) p s)) ∧ ((tree s i).st = 1) ∧ (lenOk p = true) ∧ (e2eGood p = true) ∧ ((treeKids u i).contains n = true) ∧ (crStatus p = 0) ∧ (treeFieldsBad true n p = false) ∧ (crVals p = some vals) ∧ (upSeq (tree s i) p = some t0) ∧ (crChunk p < t0.chunks) ∧ (inWindow t0 (treeWindow u i) (crChunk p) = true) ∧ (t0.sent.contains (crChunk p) = false) ∧ (t0.ups.any (fun x => x.chunk == crChunk p && x.got.contains n) = false) ∧ (crMode p ≠ 1 ∨ bitW (treeW u i 0) 20 = true) ∧ (t0.ups.any (fun x => x.chunk == crChunk p && (x.op != crOp p || x.dtype != crDtype p || x.mode != crMode p || x.elems.toNat != crElems p)) = false) ∧ (x = (t0.ups.find? (fun z => z.chunk == crChunk p)).getD { chunk := crChunk p, op := crOp p, dtype := crDtype p, mode := crMode p, elems := w32 (crElems p), got := [], vals := [], held := [] }) ∧ (x.ecc ≠ .bad) ∧ (l = (List.range 68).filterMap (fun q => (((n, vals) :: x.held).find? (fun z => z.1 == q)).map (fun z => z.2))) ∧ (f = { x with got := n :: x.got, held := (if x.mode = 1 then (n, vals) :: x.held else []), ecc := .good, vals := if x.mode = 1 then (if (treeKids u i).all (fun q => (n :: x.got).contains q) then l.tail.foldl (fun a c => List.zipWith (elCombine x.op 1 x.dtype) a c) (l.headD []) else []) else if x.got = [] then vals else List.zipWith (elCombine x.op x.mode x.dtype) x.vals vals }) ∧ (y = elemsIn x.mode x.dtype x.elems.toNat x.chunk * sizeOf_ x.dtype) ∧ (b = (if y = 0 then (if x.ecc = .corr then inc (grvBase (treeUnit u i) + 0x48) (setTree i t0 u) else setTree i t0 u) else count (crnCtr (treeUnit u i) 6) y (if x.ecc = .corr then inc (grvBase (treeUnit u i) + 0x48) (setTree i t0 u) else setTree i t0 u))) ∧ ((treeKids u i).all (fun q => (n :: x.got).contains q) = true) ∧ (treeRoot u i = false) ∧ (x.mode = 2) ∧ (r = setTree i { t0 with ups := t0.ups.filter (fun z => z.chunk != x.chunk), sent := f.chunk :: t0.sent } (inc (crnCtr (treeUnit u i) 4) (setTree i { t0 with ups := t0.ups.filter (fun z => z.chunk != x.chunk) } b))) ∧ (exPayload f.vals = (pl, e)) ∧ quiet s (inc (crnCtr (treeUnit u i) 1) (sendTree (treeUnit u i) (treeParent u i) (treePkt true i (treeF u i 0 0 16) t0.opSeq.toNat f.op f.dtype f.mode 1 f.chunk 0 f.elems.toNat pl) (if e = 0 then r else count (crnCtr (treeUnit u i) 7) e r))) = true := by decide +kernel

set_option maxRecDepth 100000 in
theorem wit_TreePackets_19 :
    let g : Nat := 0; let n : Nat := 64; let i : Nat := 0x1C; let p : Packet := sealPkt { dest := 0x20, src := 1, cls := 0, lenCells := 0, ptype := 0x40, mode := 3, extMask := 0x20, ext := [0x7A31001C, 23068677, 0, 1], payload := [0, 0, 128, 63] }; let vals : List Elem := [{ a := 2 ^ 149 }]; let t0 : TreeCtx := { st := 1, opSeq := 5, started := true, chunks := 1 }; let s : State := { sOn with stage.rws := [(0x02200380, 621105), (0x0220038C, 67)], trees := [(0x1C, { st := 1 })] }; let u : State := inc (crnCtr g 0) (freeInternal (xC g) p s)
    (i = crIdx p) ∧ (u = inc (crnCtr g 0) (freeInternal (xC g) p s)) ∧ ((tree s i).st = 1) ∧ (lenOk p = true) ∧ (e2eGood p = true) ∧ ((treeKids u i).contains n = true) ∧ (crStatus p = 0) ∧ (treeFieldsBad true n p = false) ∧ (crVals p = some vals) ∧ (upSeq (tree s i) p = some t0) ∧ (crChunk p < t0.chunks) ∧ (inWindow t0 (treeWindow u i) (crChunk p) = true) ∧ (t0.sent.contains (crChunk p) = false) ∧ (t0.ups.any (fun x => x.chunk == crChunk p && x.got.contains n) = false) ∧ ((crMode p = 1 ∧ bitW (treeW u i 0) 20 = false) ∨ t0.ups.any (fun x => x.chunk == crChunk p && (x.op != crOp p || x.dtype != crDtype p || x.mode != crMode p || x.elems.toNat != crElems p)) = true) ∧ quiet s (breakTree i 4 none (setTree i t0 u)) = true := by decide +kernel

set_option maxRecDepth 100000 in
theorem wit_TreePackets_20 :
    let g : Nat := 0; let n : Nat := 5; let i : Nat := 0x1C; let p : Packet := sealPkt { dest := 0x20, src := 1, cls := 1, lenCells := 0, ptype := 0x41, mode := 3, extMask := 0x20, ext := [0x7A31001C, 6291461, 0, 1], payload := [0, 0, 128, 63] }; let s : State := { sOn with stage.rws := [(0x02200380, 10582577), (0x0220038C, 67)], trees := [(0x1C, { st := 2 })] }; let u : State := inc (crnCtr g 2) (freeInternal (xC g) p s)
    (i = crIdx p) ∧ (u = inc (crnCtr g 2) (freeInternal (xC g) p s)) ∧ ((tree s i).st = 0 ∨ ((tree s i).st ≠ 1 ∧ lenOk p = true ∧ e2eGood p = true)) ∧ quiet s (u) = true := by decide +kernel

set_option maxRecDepth 100000 in
theorem wit_TreePackets_21 :
    let g : Nat := 0; let n : Nat := 5; let i : Nat := 0x1C; let p : Packet := { sealPkt { dest := 0x20, src := 1, cls := 1, lenCells := 0, ptype := 0x41, mode := 3, extMask := 0x20, ext := [0x7A31001C, 6291461, 0, 1], payload := [0, 0, 128, 63] } with payload := [1, 1, 1, 1] }; let s : State := { sOn with stage.rws := [(0x02200380, 10582577), (0x0220038C, 67)], trees := [(0x1C, { st := 1 })] }; let u : State := inc (crnCtr g 2) (freeInternal (xC g) p s)
    (i = crIdx p) ∧ (u = inc (crnCtr g 2) (freeInternal (xC g) p s)) ∧ ((tree s i).st ≠ 0) ∧ (e2eGood p = false) ∧ quiet s (breakTree i 3 none (inc (crnCtr g 10) (raise (148 + g) 2 (inc (crnCtr g 9) u)))) = true := by decide +kernel

set_option maxRecDepth 100000 in
theorem wit_TreePackets_22 :
    let g : Nat := 0; let n : Nat := 5; let i : Nat := 0x1C; let p : Packet := (let p := { sealPkt { dest := 0x20, src := 1, cls := 1, lenCells := 0, ptype := 0x41, mode := 3, extMask := 0x20, ext := [0x7A31001C, 6291461, 0, 1], payload := [0, 0, 128, 63] } with lenCells := 9 }; { p with e2e := e2eOf p }); let s : State := { sOn with stage.rws := [(0x02200380, 10582577), (0x0220038C, 67)], trees := [(0x1C, { st := 1 })] }; let u : State := inc (crnCtr g 2) (freeInternal (xC g) p s)
    (i = crIdx p) ∧ (u = inc (crnCtr g 2) (freeInternal (xC g) p s)) ∧ ((tree s i).st ≠ 0) ∧ (e2eGood p = true) ∧ (lenOk p = false) ∧ quiet s (breakTree i 3 none (raise (148 + g) 2 (inc (crnCtr g 9) u))) = true := by decide +kernel

set_option maxRecDepth 100000 in
theorem wit_TreePackets_23 :
    let g : Nat := 0; let n : Nat := 5; let i : Nat := 0x1C; let p : Packet := sealPkt { dest := 0x20, src := 1, cls := 1, lenCells := 0, ptype := 0x41, mode := 3, extMask := 0x20, ext := [0x7A31001C, 6291461, 0, 1], payload := [0, 0, 128, 63] }; let s : State := { sOn with stage.rws := [(0x02200380, 621105), (0x0220038C, 67)], trees := [(0x1C, { st := 1 })] }; let u : State := inc (crnCtr g 2) (freeInternal (xC g) p s)
    (i = crIdx p) ∧ (u = inc (crnCtr g 2) (freeInternal (xC g) p s)) ∧ ((tree s i).st = 1) ∧ (lenOk p = true) ∧ (e2eGood p = true) ∧ (treeRoot u i = true ∨ n ≠ treeParent u i) ∧ quiet s (breakTree i 3 none (raise (148 + g) 2 (inc (crnCtr g 9) u))) = true := by decide +kernel

set_option maxRecDepth 100000 in
theorem wit_TreePackets_24 :
    let g : Nat := 0; let n : Nat := 5; let i : Nat := 0x1C; let p : Packet := sealPkt { dest := 0x20, src := 1, cls := 1, lenCells := 0, ptype := 0x41, mode := 3, extMask := 0x20, ext := [0x7A31001C, 73400325, 0, 1], payload := [0, 0, 128, 63] }; let s : State := { sOn with stage.rws := [(0x02200380, 10582577), (0x0220038C, 67)], trees := [(0x1C, { st := 1 })] }; let u : State := inc (crnCtr g 2) (freeInternal (xC g) p s)
    (i = crIdx p) ∧ (u = inc (crnCtr g 2) (freeInternal (xC g) p s)) ∧ ((tree s i).st = 1) ∧ (lenOk p = true) ∧ (e2eGood p = true) ∧ (treeRoot u i = false) ∧ (n = treeParent u i) ∧ (treeFieldsBad false n p = true) ∧ quiet s (breakTree i 3 none (raise (148 + g) 2 (inc (crnCtr g 9) u))) = true := by decide +kernel

set_option maxRecDepth 100000 in
theorem wit_TreePackets_25 :
    let g : Nat := 0; let n : Nat := 5; let i : Nat := 0x1C; let p : Packet := sealPkt { dest := 0x20, src := 1, cls := 1, lenCells := 0, ptype := 0x41, mode := 3, extMask := 0x20, ext := [0x7A31001C, 39845893, 0, 1], payload := [0, 0, 128, 63] }; let s : State := { sOn with stage.rws := [(0x02200380, 10582577), (0x0220038C, 67)], trees := [(0x1C, { st := 1, opSeq := 5, started := true, chunks := 1 })] }; let u : State := inc (crnCtr g 2) (freeInternal (xC g) p s)
    (i = crIdx p) ∧ (u = inc (crnCtr g 2) (freeInternal (xC g) p s)) ∧ ((tree s i).st = 1) ∧ (lenOk p = true) ∧ (e2eGood p = true) ∧ (treeRoot u i = false) ∧ (n = treeParent u i) ∧ (treeFieldsBad false n p = false) ∧ (crStatus p = 0) ∧ (crSeq p ≠ (tree s i).opSeq ∨ (tree s i).started = false ∨ (tree s i).sent.contains (crChunk p) = false ∨ (tree s i).downed.contains (crChunk p) = true) ∧ quiet s (breakTree i 3 none (raise (148 + g) 2 (inc (crnCtr g 9) u))) = true := by decide +kernel

set_option maxRecDepth 100000 in
theorem wit_TreePackets_26 :
    let g : Nat := 0; let n : Nat := 5; let i : Nat := 0x1C; let p : Packet := sealPkt { dest := 0x20, src := 1, cls := 1, lenCells := 0, ptype := 0x41, mode := 3, extMask := 0x20, ext := [0x7A31001C, 39845893, 0, 1], payload := [0, 0, 128, 63] }; let s : State := { sOn with stage.rws := [(0x02200380, 10582577), (0x0220038C, 67)], trees := [(0x1C, { st := 1, opSeq := 5, started := true, chunks := 1, sent := [0] })] }; let u : State := inc (crnCtr g 2) (freeInternal (xC g) p s); let r : State := setTree i { tree s i with downed := crChunk p :: (tree s i).downed } u; let k : State := (treeKids r i).foldl (fun a c => inc (crnCtr (treeUnit u i) 3) (sendTree (treeUnit u i) c (treePkt false i (treeF u i 0 0 16) (crSeq p).toNat (crOp p) (crDtype p) (crMode p) 0 (crChunk p) 0 (crElems p) p.payload) a)) r
    (i = crIdx p) ∧ (u = inc (crnCtr g 2) (freeInternal (xC g) p s)) ∧ ((tree s i).st = 1) ∧ (lenOk p = true) ∧ (e2eGood p = true) ∧ (treeRoot u i = false) ∧ (n = treeParent u i) ∧ (treeFieldsBad false n p = false) ∧ (crStatus p = 0) ∧ (crSeq p = (tree s i).opSeq) ∧ ((tree s i).started = true) ∧ ((tree s i).sent.contains (crChunk p) = true) ∧ ((tree s i).downed.contains (crChunk p) = false) ∧ (r = setTree i { tree s i with downed := crChunk p :: (tree s i).downed } u) ∧ (k = (treeKids r i).foldl (fun a c => inc (crnCtr (treeUnit u i) 3) (sendTree (treeUnit u i) c (treePkt false i (treeF u i 0 0 16) (crSeq p).toNat (crOp p) (crDtype p) (crMode p) 0 (crChunk p) 0 (crElems p) p.payload) a)) r) ∧ quiet s ((if k.net.voq.length - r.net.voq.length = 0 then k else setTree i { tree k i with downs := { chunk := crChunk p, left := k.net.voq.length - r.net.voq.length } :: (tree k i).downs.filter (fun d => d.chunk != crChunk p) } k)) = true := by decide +kernel

set_option maxRecDepth 100000 in
theorem wit_TreePackets_27 :
    let g : Nat := 0; let n : Nat := 5; let i : Nat := 0x1C; let p : Packet := sealPkt { dest := 0x20, src := 1, cls := 1, lenCells := 0, ptype := 0x41, mode := 3, extMask := 0x20, ext := [0x7A31001C, 6291461, 65536, 1], payload := [] }; let s : State := { sOn with stage.rws := [(0x02200380, 10582577), (0x0220038C, 67)], trees := [(0x1C, { st := 1 })] }; let u : State := inc (crnCtr g 2) (freeInternal (xC g) p s)
    (i = crIdx p) ∧ (u = inc (crnCtr g 2) (freeInternal (xC g) p s)) ∧ ((tree s i).st = 1) ∧ (lenOk p = true) ∧ (e2eGood p = true) ∧ (treeRoot u i = false) ∧ (n = treeParent u i) ∧ (treeFieldsBad false n p = false) ∧ (crStatus p = 1) ∧ quiet s (breakTree i 5 none u) = true := by decide +kernel

set_option maxRecDepth 100000 in
theorem wit_TreePackets_28 :
    let g : Nat := 0; let n : Nat := 5; let i : Nat := 0x1C; let p : Packet := sealPkt { dest := 0x20, src := 1, cls := 1, lenCells := 0, ptype := 0x41, mode := 3, extMask := 0x20, ext := [0x7A31001C, 6291461, 131072, 1], payload := [] }; let s : State := { sOn with stage.rws := [(0x02200380, 10582577), (0x0220038C, 67)], trees := [(0x1C, { st := 1 })] }; let u : State := inc (crnCtr g 2) (freeInternal (xC g) p s)
    (i = crIdx p) ∧ (u = inc (crnCtr g 2) (freeInternal (xC g) p s)) ∧ ((tree s i).st = 1) ∧ (lenOk p = true) ∧ (e2eGood p = true) ∧ (treeRoot u i = false) ∧ (n = treeParent u i) ∧ (treeFieldsBad false n p = false) ∧ (crStatus p = 2) ∧ quiet s (breakTree i 4 none u) = true := by decide +kernel

theorem wit_ExactSums_1 :
    let x : Elem := { special := 1 }; let y : Elem := { special := 2 }; let z : Elem := { a := 5 }; (x.special ≤ 4 ∧ (x.special ≠ 0 → x.a = 0)) ∧ (y.special ≤ 4 ∧ (y.special ≠ 0 → y.a = 0)) ∧ (z.special ≤ 4 ∧ (z.special ≠ 0 → z.a = 0)) := by decide

theorem wit_ExactPayloads_1 :
    let xs : List Elem := [{ a := 2 ^ 319 - 1 }, { special := 3 }, { a := -(2 ^ 200) }]; xs.length ≤ 96 ∧ (∀ x ∈ xs, x.special ≤ 4 ∧ (x.special ≠ 0 → x.a = 0) ∧ -(2 ^ 319) ≤ x.a ∧ x.a < 2 ^ 319) := by decide

theorem wit_ExactRounding_1 :
    let d : Nat := 4; let v : Nat := 0x8001; (d = 4 ∨ d = 5 ∨ d = 6 ∨ d = 8 ∨ d = 9) ∧ v < 2 ^ (8 * sizeOf_ d) ∧ (elDecode 2 d v).special ≠ 4 := by decide

set_option maxRecDepth 100000 in
theorem wit_ScratchAccess_1 :
    let h : Nat := 1; let fn : Nat := 0; let tc : Nat := 0; let off : Nat := 16; let req : Nat := 0; let bytes : List Byte := [1, 2]; let s : State := sOn
    (memServes s h fn = false) ∧ quiet s (s) = true := by decide +kernel

set_option maxRecDepth 100000 in
theorem wit_ScratchAccess_2 :
    let h : Nat := 1; let fn : Nat := 0; let tc : Nat := 0; let off : Nat := 16; let req : Nat := 0; let len : Nat := 4; let s : State := sOn
    (memServes s h fn = false) ∧ quiet s (s) = true := by decide +kernel

set_option maxRecDepth 100000 in
theorem wit_ScratchAccess_3 :
    let h : Nat := 1; let fn : Nat := 0; let tc : Nat := 0; let off : Nat := 16; let req : Nat := 0; let bytes : List Byte := [1, 2]; let o : Nat := 16; let s : State := { sOn with hs.ports := [(1, { st := .up, numVfs := 8 })] }
    (memServes s h fn = true) ∧ (scrOff (inc (ssmCtr (boleOf h) 1) s) (boleOf h) fn off = some o) ∧ quiet s (setWbuf (boleOf h) (wbufOf s (boleOf h) ++ [{ ident := identOf h req tc, off := o, bytes := bytes }]) (inc (ssmCtr (boleOf h) 1) s)) = true := by decide +kernel

set_option maxRecDepth 100000 in
theorem wit_ScratchAccess_4 :
    let h : Nat := 1; let fn : Nat := 1; let tc : Nat := 0; let off : Nat := 16; let req : Nat := 0; let bytes : List Byte := [1, 2]; let s : State := { sOn with hs.ports := [(1, { st := .up, numVfs := 8 })] }
    (memServes s h fn = true) ∧ (scrOff (inc (ssmCtr (boleOf h) 1) s) (boleOf h) fn off = none) ∧ quiet s (hostLoss (boleOf h) (identOf h req tc) (ssmCause (boleOf h) 2 (inc (ssmCtr (boleOf h) 6) (inc (ssmCtr (boleOf h) 1) s)))) = true := by decide +kernel

set_option maxRecDepth 100000 in
theorem wit_ScratchAccess_5 :
    let h : Nat := 1; let fn : Nat := 1; let tc : Nat := 0; let off : Nat := 16; let req : Nat := 0; let len : Nat := 4; let s : State := { sOn with hs.ports := [(1, { st := .up, numVfs := 8 })] }
    (memServes s h fn = true) ∧ (scrOff (inc (ssmCtr (boleOf h) 0) s) (boleOf h) fn off = none) ∧ quiet s (emit (.readData h fn (some (List.replicate len 0xFF))) (ssmCause (boleOf h) 2 (inc (ssmCtr (boleOf h) 6) (inc (ssmCtr (boleOf h) 0) s)))) = true := by decide +kernel

set_option maxRecDepth 100000 in
theorem wit_ScratchAccess_6 :
    let h : Nat := 1; let fn : Nat := 0; let tc : Nat := 0; let off : Nat := 22; let req : Nat := 0; let len : Nat := 4; let o : Nat := 22; let s : State := { sOn with hs.ports := [(1, { st := .up, numVfs := 8 })], scr.wbuf := [(0, [{ ident := identOf 1 0 0, off := 16, bytes := [1, 2, 3, 4, 5, 6, 7, 8] }])], ev.corr := [(128, 3)], ev.ecc := [(128, 2)] }
    (memServes s h fn = true) ∧ (scrOff (inc (ssmCtr (boleOf h) 0) s) (boleOf h) fn off = some o) ∧ (∀ k, k < len → (forwarded (identOf h req tc) (o + k) (wbufOf s (boleOf h))).isNone = true → scrStruck s (boleOf h) (o + k) = false) ∧ quiet s (emit (.readData h fn (some ((List.range len).map (fun k => (forwarded (identOf h req tc) (o + k) (wbufOf s (boleOf h))).getD (scrByte s (boleOf h) (o + k)))))) (scrMet (boleOf h) o len (fun k => (forwarded (identOf h req tc) (o + k) (wbufOf s (boleOf h))).isNone) (inc (ssmCtr (boleOf h) 0) s))) = true := by decide +kernel

set_option maxRecDepth 100000 in
theorem wit_ScratchAccess_7 :
    let h : Nat := 1; let fn : Nat := 0; let tc : Nat := 0; let off : Nat := 22; let req : Nat := 0; let len : Nat := 4; let o : Nat := 22; let k : Nat := 1; let s : State := { sOn with hs.ports := [(1, { st := .up, numVfs := 8 })], ev.ecc := [(128, 2)] }
    (memServes s h fn = true) ∧ (scrOff (inc (ssmCtr (boleOf h) 0) s) (boleOf h) fn off = some o) ∧ (k < len) ∧ (forwarded (identOf h req tc) (o + k) (wbufOf s (boleOf h)) = none) ∧ (scrStruck s (boleOf h) (o + k) = true) ∧ quiet s (emit (.readData h fn none) (scrEccs (boleOf h) o len (fun k => (forwarded (identOf h req tc) (o + k) (wbufOf s (boleOf h))).isNone) (inc (ssmCtr (boleOf h) 0) s))) = true := by decide +kernel

set_option maxRecDepth 100000 in
theorem wit_ScratchAccess_8 :
    let b : Nat := 0; let ident : Nat := identOf 1 0 0; let w : BufWrite := { ident := identOf 1 0 0, off := 16, bytes := [1, 2, 3, 4, 5, 6, 7, 8] }; let s : State := { sOn with hs.ports := [(1, { st := .up, numVfs := 8 })], scr.wbuf := [(0, [{ ident := identOf 1 3 0, off := 16, bytes := [9] }, { ident := identOf 1 0 0, off := 16, bytes := [1, 2, 3, 4, 5, 6, 7, 8] }])] }
    (domOn s (dMem b) = true) ∧ ((wbufOf s b).find? (fun w => w.ident == ident) = some w) ∧ quiet s (performOne b w (setWbuf b ((wbufOf s b).eraseIdx ((wbufOf s b).findIdx (fun w => w.ident == ident))) s)) = true := by decide +kernel

set_option maxRecDepth 100000 in
theorem wit_ScratchAccess_9 :
    let b : Nat := 0; let ident : Nat := identOf 1 0 0; let s : State := { sOn with hs.ports := [(1, { st := .up, numVfs := 8 })], scr.wbuf := [(0, [{ ident := identOf 1 3 0, off := 16, bytes := [9] }])] }
    (domOn s (dMem b) = false ∨ (∀ w ∈ wbufOf s b, w.ident ≠ ident)) ∧ quiet s (s) = true := by decide +kernel

set_option maxRecDepth 100000 in
theorem wit_ScratchAccess_10 :
    let h : Nat := 1; let fn : Nat := 0; let tc : Nat := 0; let req : Nat := 0; let s : State := sOn
    (memServes s h fn = false) ∧ quiet s (s) = true := by decide +kernel

set_option maxRecDepth 100000 in
theorem wit_ScratchAccess_11 :
    let h : Nat := 1; let fn : Nat := 0; let tc : Nat := 0; let req : Nat := 0; let s : State := { sOn with hs.ports := [(1, { st := .up, numVfs := 8 })], scr.loss := [lossKey 0 (identOf 1 0 0)], scr.wbuf := [(0, [{ ident := identOf 1 3 0, off := 16, bytes := [9] }, { ident := identOf 1 0 0, off := 16, bytes := [1, 2, 3, 4, 5, 6, 7, 8] }])] }; let u : State := ((wbufOf s (boleOf h)).filter (fun w => w.ident == identOf h req tc)).foldl (fun v w => performOne (boleOf h) w v) (setWbuf (boleOf h) ((wbufOf s (boleOf h)).filter (fun w => w.ident != identOf h req tc)) (inc (ssmCtr (boleOf h) 4) s))
    (memServes s h fn = true) ∧ (u = ((wbufOf s (boleOf h)).filter (fun w => w.ident == identOf h req tc)).foldl (fun v w => performOne (boleOf h) w v) (setWbuf (boleOf h) ((wbufOf s (boleOf h)).filter (fun w => w.ident != identOf h req tc)) (inc (ssmCtr (boleOf h) 4) s))) ∧ quiet s (emit (.readData h fn (some (leBytes 4 (b2n (u.scr.loss.contains (lossKey (boleOf h) (identOf h req tc))))))) { u with scr.loss := u.scr.loss.filter (· ≠ lossKey (boleOf h) (identOf h req tc)) }) = true := by decide +kernel

set_option maxRecDepth 100000 in
theorem wit_Locks_1 :
    let h : Nat := 1; let fn : Nat := 0; let l : Nat := 0x105; let who : Requester := { id := 3 }; let s : State := sOn; let e : State := (if domOn s (dMem (boleOf h)) then performAll (boleOf h) (identOf h who.id who.tc) s else s)
    (e = (if domOn s (dMem (boleOf h)) then performAll (boleOf h) (identOf h who.id who.tc) s else s)) ∧ (memServes e h fn = false ∨ 2048 ≤ l) ∧ quiet s (e) = true := by decide +kernel

set_option maxRecDepth 100000 in
theorem wit_Locks_2 :
    let h : Nat := 1; let fn : Nat := 0; let l : Nat := 0x105; let who : Requester := { id := 3 }; let s : State := sOn; let e : State := (if domOn s (dMem (boleOf h)) then performAll (boleOf h) (identOf h who.id who.tc) s else s)
    (e = (if domOn s (dMem (boleOf h)) then performAll (boleOf h) (identOf h who.id who.tc) s else s)) ∧ (memServes e h fn = false ∨ 2048 ≤ l) ∧ quiet s (e) = true := by decide +kernel

set_option maxRecDepth 100000 in
theorem wit_Locks_3 :
    let h : Nat := 1; let fn : Nat := 0; let l : Nat := 0x105; let token : BitVec 16 := 9; let who : Requester := { id := 3 }; let s : State := sOn; let e : State := (if domOn s (dMem (boleOf h)) then performAll (boleOf h) (identOf h who.id who.tc) s else s)
    (e = (if domOn s (dMem (boleOf h)) then performAll (boleOf h) (identOf h who.id who.tc) s else s)) ∧ (memServes e h fn = false ∨ 2048 ≤ l) ∧ quiet s (e) = true := by decide +kernel

set_option maxRecDepth 100000 in
theorem wit_Locks_4 :
    let h : Nat := 1; let fn : Nat := 3; let l : Nat := 0x105; let token : BitVec 16 := 9; let who : Requester := { id := 3 }; let s : State := { sOn with hs.ports := [(1, { st := .up, numVfs := 8 })], scr.locks := [(0x105, {  })], scr.lgroups := [(4, { claim := true })] }; let e : State := (if domOn s (dMem (boleOf h)) then performAll (boleOf h) (identOf h who.id who.tc) s else s)
    (e = (if domOn s (dMem (boleOf h)) then performAll (boleOf h) (identOf h who.id who.tc) s else s)) ∧ (memServes e h fn = true) ∧ (l < 2048) ∧ (lockRights e (boleOf h) l (masterOf h fn) = false) ∧ quiet s (lckCause (boleOf h) 3 (inc (lckCtr (boleOf h) 8) e)) = true := by decide +kernel

set_option maxRecDepth 100000 in
theorem wit_Locks_5 :
    let h : Nat := 1; let fn : Nat := 0; let l : Nat := 0x105; let token : BitVec 16 := 9; let who : Requester := { id := 3 }; let s : State := { sOn with hs.ports := [(1, { st := .up, numVfs := 8 })], scr.locks := [(0x105, {  })] }; let e : State := (if domOn s (dMem (boleOf h)) then performAll (boleOf h) (identOf h who.id who.tc) s else s)
    (e = (if domOn s (dMem (boleOf h)) then performAll (boleOf h) (identOf h who.id who.tc) s else s)) ∧ (memServes e h fn = true) ∧ (l < 2048) ∧ (lockRights e (boleOf h) l (masterOf h fn) = true) ∧ (lockClaims e (boleOf h) l = false) ∧ quiet s (e) = true := by decide +kernel

set_option maxRecDepth 100000 in
theorem wit_Locks_6 :
    let h : Nat := 1; let fn : Nat := 3; let l : Nat := 0x105; let who : Requester := { id := 3 }; let s : State := { sOn with hs.ports := [(1, { st := .up, numVfs := 8 })], scr.locks := [(0x105, {  })] }; let e : State := (if domOn s (dMem (boleOf h)) then performAll (boleOf h) (identOf h who.id who.tc) s else s)
    (e = (if domOn s (dMem (boleOf h)) then performAll (boleOf h) (identOf h who.id who.tc) s else s)) ∧ (memServes e h fn = true) ∧ (l < 2048) ∧ (lockRights e (boleOf h) l (masterOf h fn) = false) ∧ quiet s (lockAnswer (boleOf h) (masterOf h fn) 0xFFFFFFFD (lckCause (boleOf h) 3 (inc (lckCtr (boleOf h) 8) e))) = true := by decide +kernel

set_option maxRecDepth 100000 in
theorem wit_Locks_7 :
    let h : Nat := 1; let fn : Nat := 0; let l : Nat := 0x105; let who : Requester := { id := 3 }; let s : State := { sOn with hs.ports := [(1, { st := .up, numVfs := 8 })], scr.locks := [(0x105, {  })], scr.lgroups := [(4, { claim := true })] }; let e : State := (if domOn s (dMem (boleOf h)) then performAll (boleOf h) (identOf h who.id who.tc) s else s)
    (e = (if domOn s (dMem (boleOf h)) then performAll (boleOf h) (identOf h who.id who.tc) s else s)) ∧ (memServes e h fn = true) ∧ (l < 2048) ∧ (lockRights e (boleOf h) l (masterOf h fn) = true) ∧ (lockClaims e (boleOf h) l = true) ∧ quiet s (lockAnswer (boleOf h) (masterOf h fn) 0xFFFFFFFC e) = true := by decide +kernel

set_option maxRecDepth 100000 in
theorem wit_Locks_8 :
    let h : Nat := 1; let fn : Nat := 0; let l : Nat := 0x105; let m : Nat := 0; let who : Requester := { id := 3 }; let s : State := { sOn with hs.ports := [(1, { st := .up, numVfs := 8 })], scr.locks := [(0x105, { owner := some 0, queue := List.replicate 256 7 })] }; let e : State := (if domOn s (dMem (boleOf h)) then performAll (boleOf h) (identOf h who.id who.tc) s else s)
    (e = (if domOn s (dMem (boleOf h)) then performAll (boleOf h) (identOf h who.id who.tc) s else s)) ∧ (memServes e h fn = true) ∧ (l < 2048) ∧ (lockRights e (boleOf h) l (masterOf h fn) = true) ∧ (lockClaims e (boleOf h) l = false) ∧ ((lockOf e (boleOf h) l).owner = some m) ∧ (m ≠ (masterOf h fn)) ∧ (256 ≤ stalled e (boleOf h)) ∧ quiet s (lockAnswer (boleOf h) (masterOf h fn) 0xFFFFFFFE (lckCause (boleOf h) 4 (inc (lckCtr (boleOf h) 9) e))) = true := by decide +kernel

set_option maxRecDepth 100000 in
theorem wit_Locks_9 :
    let h : Nat := 1; let fn : Nat := 3; let l : Nat := 0x105; let who : Requester := { id := 3 }; let s : State := { sOn with hs.ports := [(1, { st := .up, numVfs := 8 })], scr.locks := [(0x105, {  })] }; let e : State := (if domOn s (dMem (boleOf h)) then performAll (boleOf h) (identOf h who.id who.tc) s else s)
    (e = (if domOn s (dMem (boleOf h)) then performAll (boleOf h) (identOf h who.id who.tc) s else s)) ∧ (memServes e h fn = true) ∧ (l < 2048) ∧ (lockRights e (boleOf h) l (masterOf h fn) = false) ∧ quiet s (lckCause (boleOf h) 3 (inc (lckCtr (boleOf h) 8) e)) = true := by decide +kernel

set_option maxRecDepth 100000 in
theorem wit_Locks_10 :
    let h : Nat := 1; let fn : Nat := 0; let l : Nat := 0x105; let who : Requester := { id := 3 }; let s : State := { sOn with hs.ports := [(1, { st := .up, numVfs := 8 })], scr.locks := [(0x105, { owner := some 256 })], scr.lgroups := [(4, { claim := true })] }; let e : State := (if domOn s (dMem (boleOf h)) then performAll (boleOf h) (identOf h who.id who.tc) s else s)
    (e = (if domOn s (dMem (boleOf h)) then performAll (boleOf h) (identOf h who.id who.tc) s else s)) ∧ (memServes e h fn = true) ∧ (l < 2048) ∧ (lockRights e (boleOf h) l (masterOf h fn) = true) ∧ (lockClaims e (boleOf h) l = true) ∧ quiet s (lckCause (boleOf h) 1 (inc (lckCtr (boleOf h) 4) e)) = true := by decide +kernel

set_option maxRecDepth 100000 in
theorem wit_Locks_11 :
    let h : Nat := 1; let fn : Nat := 0; let l : Nat := 0x105; let token : BitVec 16 := 9; let who : Requester := { id := 3 }; let s : State := { sOn with hs.ports := [(1, { st := .up, numVfs := 8 })], scr.locks := [(0x105, {  })], scr.lgroups := [(4, { claim := true })] }; let e : State := (if domOn s (dMem (boleOf h)) then performAll (boleOf h) (identOf h who.id who.tc) s else s)
    (e = (if domOn s (dMem (boleOf h)) then performAll (boleOf h) (identOf h who.id who.tc) s else s)) ∧ (memServes e h fn = true) ∧ (l < 2048) ∧ (lockRights e (boleOf h) l (masterOf h fn) = true) ∧ (lockClaims e (boleOf h) l = true) ∧ (token ≠ 0) ∧ ((lockOf e (boleOf h) l).owner = none) ∧ quiet s (inc (lckCtr (boleOf h) 6) (setLock (boleOf h) l { (lockOf e (boleOf h) l) with owner := some (masterOf h fn), token := token } e)) = true := by decide +kernel

set_option maxRecDepth 100000 in
theorem wit_Locks_12 :
    let h : Nat := 1; let fn : Nat := 0; let l : Nat := 0x105; let token : BitVec 16 := 9; let who : Requester := { id := 3 }; let s : State := { sOn with hs.ports := [(1, { st := .up, numVfs := 8 })], scr.locks := [(0x105, { owner := some 0, token := 3 })], scr.lgroups := [(4, { claim := true })] }; let e : State := (if domOn s (dMem (boleOf h)) then performAll (boleOf h) (identOf h who.id who.tc) s else s)
    (e = (if domOn s (dMem (boleOf h)) then performAll (boleOf h) (identOf h who.id who.tc) s else s)) ∧ (memServes e h fn = true) ∧ (l < 2048) ∧ (lockRights e (boleOf h) l (masterOf h fn) = true) ∧ (lockClaims e (boleOf h) l = true) ∧ (token ≠ 0) ∧ ((lockOf e (boleOf h) l).owner ≠ none) ∧ quiet s (inc (lckCtr (boleOf h) 7) e) = true := by decide +kernel

set_option maxRecDepth 100000 in
theorem wit_Locks_13 :
    let h : Nat := 1; let fn : Nat := 0; let l : Nat := 0x105; let who : Requester := { id := 3 }; let s : State := { sOn with hs.ports := [(1, { st := .up, numVfs := 8 })], scr.locks := [(0x105, { owner := some 256, token := 3, orphan := true })], scr.lgroups := [(4, { claim := true })] }; let e : State := (if domOn s (dMem (boleOf h)) then performAll (boleOf h) (identOf h who.id who.tc) s else s)
    (e = (if domOn s (dMem (boleOf h)) then performAll (boleOf h) (identOf h who.id who.tc) s else s)) ∧ (memServes e h fn = true) ∧ (l < 2048) ∧ (lockRights e (boleOf h) l (masterOf h fn) = true) ∧ (lockClaims e (boleOf h) l = true) ∧ ((lockOf e (boleOf h) l).owner = some (masterOf h fn)) ∧ quiet s (inc (lckCtr (boleOf h) 3) (setLock (boleOf h) l { (lockOf e (boleOf h) l) with owner := none, token := 0, orphan := false } e)) = true := by decide +kernel

set_option maxRecDepth 100000 in
theorem wit_Locks_14 :
    let h : Nat := 1; let fn : Nat := 0; let l : Nat := 0x105; let who : Requester := { id := 3 }; let s : State := { sOn with hs.ports := [(1, { st := .up, numVfs := 8 })], scr.locks := [(0x105, { owner := some 0, token := 3 })], scr.lgroups := [(4, { claim := true })] }; let e : State := (if domOn s (dMem (boleOf h)) then performAll (boleOf h) (identOf h who.id who.tc) s else s)
    (e = (if domOn s (dMem (boleOf h)) then performAll (boleOf h) (identOf h who.id who.tc) s else s)) ∧ (memServes e h fn = true) ∧ (l < 2048) ∧ (lockRights e (boleOf h) l (masterOf h fn) = true) ∧ (lockClaims e (boleOf h) l = true) ∧ ((lockOf e (boleOf h) l).owner ≠ some (masterOf h fn)) ∧ quiet s (lckCause (boleOf h) 1 (inc (lckCtr (boleOf h) 4) e)) = true := by decide +kernel

set_option maxRecDepth 100000 in
theorem wit_LockStateMachine_1 :
    let h : Nat := 1; let fn : Nat := 0; let l : Nat := 0x105; let who : Requester := { id := 3 }; let s : State := { sOn with hs.ports := [(1, { st := .up, numVfs := 8 })], scr.locks := [(0x105, { orphan := true, seq := 0x13 })] }; let e : State := (if domOn s (dMem (boleOf h)) then performAll (boleOf h) (identOf h who.id who.tc) s else s)
    (e = (if domOn s (dMem (boleOf h)) then performAll (boleOf h) (identOf h who.id who.tc) s else s)) ∧ (memServes e h fn = true) ∧ (l < 2048) ∧ (lockRights e (boleOf h) l (masterOf h fn) = true) ∧ (lockClaims e (boleOf h) l = false) ∧ ((lockOf e (boleOf h) l).owner = none) ∧ quiet s (lockAnswer (boleOf h) (masterOf h fn) (((lockOf e (boleOf h) l).seq + 1).toNat + 2 ^ 16 * b2n (lockOf e (boleOf h) l).orphan) (inc (lckCtr (boleOf h) 0) (setLock (boleOf h) l { (lockOf e (boleOf h) l) with orphan := false, owner := some (masterOf h fn), seq := (lockOf e (boleOf h) l).seq + 1 } e))) = true := by decide +kernel

set_option maxRecDepth 100000 in
theorem wit_LockStateMachine_2 :
    let h : Nat := 1; let fn : Nat := 0; let l : Nat := 0x105; let who : Requester := { id := 3 }; let s : State := { sOn with hs.ports := [(1, { st := .up, numVfs := 8 })], scr.locks := [(0x105, { owner := some 256 })] }; let e : State := (if domOn s (dMem (boleOf h)) then performAll (boleOf h) (identOf h who.id who.tc) s else s)
    (e = (if domOn s (dMem (boleOf h)) then performAll (boleOf h) (identOf h who.id who.tc) s else s)) ∧ (memServes e h fn = true) ∧ (l < 2048) ∧ (lockRights e (boleOf h) l (masterOf h fn) = true) ∧ (lockClaims e (boleOf h) l = false) ∧ ((lockOf e (boleOf h) l).owner = some (masterOf h fn)) ∧ quiet s (lockAnswer (boleOf h) (masterOf h fn) 0xFFFFFFFB e) = true := by decide +kernel

set_option maxRecDepth 100000 in
theorem wit_LockStateMachine_3 :
    let h : Nat := 1; let fn : Nat := 0; let l : Nat := 0x105; let m : Nat := 0; let who : Requester := { id := 3 }; let s : State := { sOn with hs.ports := [(1, { st := .up, numVfs := 8 })], scr.locks := [(0x105, { owner := some 0 })] }; let e : State := (if domOn s (dMem (boleOf h)) then performAll (boleOf h) (identOf h who.id who.tc) s else s)
    (e = (if domOn s (dMem (boleOf h)) then performAll (boleOf h) (identOf h who.id who.tc) s else s)) ∧ (memServes e h fn = true) ∧ (l < 2048) ∧ (lockRights e (boleOf h) l (masterOf h fn) = true) ∧ (lockClaims e (boleOf h) l = false) ∧ ((lockOf e (boleOf h) l).owner = some m) ∧ (m ≠ (masterOf h fn)) ∧ (stalled e (boleOf h) < 256) ∧ quiet s (inc (lckCtr (boleOf h) 1) (setLock (boleOf h) l { (lockOf e (boleOf h) l) with queue := (lockOf e (boleOf h) l).queue ++ [(masterOf h fn)] } e)) = true := by decide +kernel

set_option maxRecDepth 100000 in
theorem wit_LockStateMachine_4 :
    let h : Nat := 1; let fn : Nat := 0; let l : Nat := 0x105; let who : Requester := { id := 3 }; let s : State := { sOn with hs.ports := [(1, { st := .up, numVfs := 8 })], scr.locks := [(0x105, { owner := some 256 })] }; let e : State := (if domOn s (dMem (boleOf h)) then performAll (boleOf h) (identOf h who.id who.tc) s else s)
    (e = (if domOn s (dMem (boleOf h)) then performAll (boleOf h) (identOf h who.id who.tc) s else s)) ∧ (memServes e h fn = true) ∧ (l < 2048) ∧ (lockRights e (boleOf h) l (masterOf h fn) = true) ∧ (lockClaims e (boleOf h) l = false) ∧ ((lockOf e (boleOf h) l).owner = some (masterOf h fn)) ∧ ((lockOf e (boleOf h) l).queue = []) ∧ quiet s (setLock (boleOf h) l { (lockOf e (boleOf h) l) with owner := none } (inc (lckCtr (boleOf h) 3) e)) = true := by decide +kernel

set_option maxRecDepth 100000 in
theorem wit_LockStateMachine_5 :
    let h : Nat := 1; let fn : Nat := 0; let l : Nat := 0x105; let m : Nat := 259; let ms : List Nat := [1]; let who : Requester := { id := 3 }; let s : State := { sOn with hs.ports := [(1, { st := .up, numVfs := 8 })], scr.locks := [(0x105, { owner := some 256, queue := [259, 1] })] }; let e : State := (if domOn s (dMem (boleOf h)) then performAll (boleOf h) (identOf h who.id who.tc) s else s)
    (e = (if domOn s (dMem (boleOf h)) then performAll (boleOf h) (identOf h who.id who.tc) s else s)) ∧ (memServes e h fn = true) ∧ (l < 2048) ∧ (lockRights e (boleOf h) l (masterOf h fn) = true) ∧ (lockClaims e (boleOf h) l = false) ∧ ((lockOf e (boleOf h) l).owner = some (masterOf h fn)) ∧ ((lockOf e (boleOf h) l).queue = m :: ms) ∧ quiet s (lockAnswer (boleOf h) m ((lockOf e (boleOf h) l).seq + 1).toNat (inc (lckCtr (boleOf h) 0) (setLock (boleOf h) l { (lockOf e (boleOf h) l) with queue := ms, owner := some m, seq := (lockOf e (boleOf h) l).seq + 1 } (inc (lckCtr (boleOf h) 3) e)))) = true := by decide +kernel

set_option maxRecDepth 100000 in
theorem wit_LockStateMachine_6 :
    let h : Nat := 1; let fn : Nat := 0; let l : Nat := 0x105; let who : Requester := { id := 3 }; let s : State := { sOn with hs.ports := [(1, { st := .up, numVfs := 8 })], scr.locks := [(0x105, { owner := some 0 })] }; let e : State := (if domOn s (dMem (boleOf h)) then performAll (boleOf h) (identOf h who.id who.tc) s else s)
    (e = (if domOn s (dMem (boleOf h)) then performAll (boleOf h) (identOf h who.id who.tc) s else s)) ∧ (memServes e h fn = true) ∧ (l < 2048) ∧ (lockRights e (boleOf h) l (masterOf h fn) = true) ∧ (lockClaims e (boleOf h) l = false) ∧ ((lockOf e (boleOf h) l).owner ≠ some (masterOf h fn)) ∧ quiet s (lckCause (boleOf h) 1 (inc (lckCtr (boleOf h) 4) e)) = true := by decide +kernel

set_option maxRecDepth 100000 in
theorem wit_LockStateMachine_7 :
    let b : Nat := 0; let l : Nat := 0x105; let m : Nat := 259; let s : State := { sOn with hs.ports := [(1, { st := .up, numVfs := 8 })], scr.locks := [(0x105, { owner := some 0, queue := [1] })] }
    ((lockOf s b l).queue.contains m = false) ∧ quiet s (s) = true := by decide +kernel

set_option maxRecDepth 100000 in
theorem wit_LockStateMachine_8 :
    let b : Nat := 0; let l : Nat := 0x105; let m : Nat := 259; let s : State := { sOn with hs.ports := [(1, { st := .up, numVfs := 8 })], scr.locks := [(0x105, { owner := some 0, queue := [259, 1] })] }
    ((lockOf s b l).queue.contains m = true) ∧ quiet s (lockAnswer b m 0xFFFFFFFE (lckCause b 2 (inc (lckCtr b 2) (setLock b l { lockOf s b l with queue := (lockOf s b l).queue.erase m } s)))) = true := by decide +kernel

theorem wit_LockStateMachine_9 :
    let s : State := { sOn with hs.ports := [(1, { st := .up, numVfs := 8 })], scr.locks := [(0x105, { owner := some 256, queue := [0] })] }; (lockOf s 0 0x105).owner = some 256 ∧ (fun m => m == 0) 256 = false := by decide

theorem wit_LockStateMachine_10 :
    let s : State := { sOn with hs.ports := [(1, { st := .up, numVfs := 8 })], scr.locks := [(0x105, { owner := some 256, queue := [0, 259, 300] })] }; (lockOf s 0 0x105).owner = some 256 ∧ (fun m => decide (m < 257)) 256 = true ∧ (lockOf s 0 0x105).queue.filter (fun x => !decide (x < 257)) = 259 :: [300] := by decide

theorem wit_LockStateMachine_11 :
    let s : State := { sOn with hs.ports := [(1, { st := .up, numVfs := 8 })], scr.locks := [(0x105, { owner := some 256, queue := [0] })] }; (lockOf s 0 0x105).owner = some 256 ∧ (fun m => decide (m < 257)) 256 = true ∧ (lockOf s 0 0x105).queue.filter (fun x => !decide (x < 257)) = [] := by decide

set_option maxRecDepth 100000 in
theorem wit_GraftStatusWords_1 :
    let r : GcpReq := rq 0x0D01 []; let ws : List Word := [8, 1, 8, 0, 0, 4, 1, 9, 1]; let s : State := { sOn with net.ports := [(3, { st := .up, gr := { quar := true } }), (32, { gr := { quar := true } }), (34, { gr := { mism := true } })], net.graft := { admission := some (8, 9 + 2 ^ 32) } }
    (taken .none false r s = true) ∧ (ws.length = 9) ∧ (∀ n, n < 64 → (wAt ws (0 + n / 32)).getLsbD (n % 32) = (port s n).gr.quar) ∧ (∀ n, n < 64 → (wAt ws (2 + n / 32)).getLsbD (n % 32) = ((port s n).gr.quar && (port s n).st == .up)) ∧ (∀ n, n < 64 → (wAt ws (4 + n / 32)).getLsbD (n % 32) = (port s n).gr.mism) ∧ (wAt ws 6 = (if s.net.graft.admission.isSome then 1 else 0)) ∧ (wAt ws 7 = w32 (match s.net.graft.admission with | some a => a.2 | none => 0)) ∧ (wAt ws 8 = w32 ((match s.net.graft.admission with | some a => a.2 | none => 0) / 2 ^ 32)) ∧ quiet s (ok r ws s) = true := by decide +kernel

set_option maxRecDepth 100000 in
theorem wit_PruneStatusWords_1 :
    let r : GcpReq := rq 0x0D03 []; let ws : List Word := [8, 0, 0, 2, 1, 7, 0]; let s : State := { sOn with net.ports := [(3, { gr := { draining := true } }), (33, { gr := { drained := true } })], net.graft := { remove := some (2, 7) } }
    (taken .none false r s = true) ∧ (ws.length = 7) ∧ (∀ n, n < 64 → (wAt ws (0 + n / 32)).getLsbD (n % 32) = (port s n).gr.draining) ∧ (∀ n, n < 64 → (wAt ws (2 + n / 32)).getLsbD (n % 32) = (port s n).gr.drained) ∧ (wAt ws 4 = (if s.net.graft.remove.isSome then 1 else 0)) ∧ (wAt ws 5 = w32 (match s.net.graft.remove with | some a => a.2 | none => 0)) ∧ (wAt ws 6 = w32 ((match s.net.graft.remove with | some a => a.2 | none => 0) / 2 ^ 32)) ∧ quiet s (ok r ws s) = true := by decide +kernel

theorem wit_AtomicStore_1 :
    let l : List (Word × BitVec 64) := [(5, 1)]; l.length < 4 ∧ l.length ≤ 4 := by decide

theorem wit_AtomicStore_2 :
    let l : List (Word × BitVec 64) := [(5, 1), (0xFFFFFFFF, 2), (6, 3), (7, 4)]; l.length = 4 ∧ keepAtomic 2055 8 9 l = [(5, 1), (6, 3), (7, 4), (8, 9)] := by decide

theorem wit_AtomicStore_3 :
    let m : HostView := { spans := [(0x100, [0x41, 0, 0, 0, 0, 0, 0, 0])] }; let p : Packet := sealPkt { dest := 1, src := 5, cls := 0, mode := 0, lenCells := 0, ptype := 5, extMask := 2, ext := [0x100, 0x40120000, 0x300, 0, 0, 0, 1, 0], payload := [], psn := 0, chan := 2, inc := 6 }; let s : State := (takeCore 1 2 ({ sOn with hs.ports := [(1, { st := .up })], hs.cqs := [(objKey 20 1 0, { active := true })], hs.chans := [(objKey 24 1 2, { st := .active, peer := 5, peerCh := 3, inc := 6, check := 4, cached := true, used := 1, t0 := 4, limit := 4, relaxed := true })], hs.bar := [(hostKey 1 0 0x20008, 0x100104), (hostKey 1 0 0x40010, 4)], hs.mrCache := [(objKey 24 1 3, [0x9F, 0, 0, 0, 0x10000, 0, 0, 0, 0, 0, 0, 0, 0, 0, 0, 0])] })).1; (match execAtomicRx 1 2 p (viewOf m s) s with | (.resp _ _ _ _, _) => true | _ => false) = true := by decide +kernel

theorem wit_StepRunsTheFront_1 :
    State.reset.pending = [] := by decide

theorem wit_SharedFrames_1 :
    ringNo (rq 0x0D01 []).via = none := by decide

theorem wit_SharedFrames_2 :
    (rq 0x0D01 []).secured = false := by decide

theorem wit_SharedFrames_3 :
    (1 : Nat) ≠ 0 := by decide

theorem wit_SharedFrames_4 :
    boleOf 2 ≠ boleOf 1 := by decide

theorem wit_SharedFrames_5 :
    let j : Job := { id := 0, h := 1, q := 5, idx := 0, ents := [[1048583, 0, 0, 0, 0, 0, 0, 0, 0, 0, 0, 0, 0, 0, 0, 2147483648]] }; let s : State := { sOn with hs.ports := [(1, { st := .up, jobs := [j] })] }; (∀ f ∈ j :: (hport s 1).jobs, f.count = none ∧ f.fired = none) ∧ (∀ f ∈ j :: (hport s 1).jobs, objKey 20 1 6 ≠ objKey 20 1 f.q ∧ objKey 24 1 6 ≠ objKey 24 1 f.chan) := by decide

theorem wit_ScratchReadAfterWrite_1 :
    let s : State := { sOn with scr.mem := [(8, 7)] }; 3 + [(1 : Byte), 2, 3].length ≤ 2 ^ 23 ∧ (∀ k, k < 3 → scrStruck s 0 (3 + k) = false) ∧ Maps.wf 0 s.scr.mem = true := by decide

theorem wit_ScratchReadAfterWrite_2 :
    8 % 8 = 0 ∧ [(1 : Byte), 2, 3, 4, 5, 6, 7, 8].length = 8 ∧ 8 < 2 ^ 23 := by decide

theorem wit_ScratchReadAfterWrite_3 :
    let s : State := { sOn with ev.ecc := [(128, 2)] }; [(1 : Byte), 2].length < 8 ∧ scrStruck s 0 16 = true := by decide

theorem wit_ExecutedOnce_1 :
    let s : State := { sOn with hs.chans := [(objKey 24 1 2, { st := .active, expect := 0xFFFFFFFF, bitmap := 2 })] }; (chanOf s 1 2).expect = 0xFFFFFFFF ∧ (chanOf s 1 2).bitmap.getLsbD 1 = true ∧ (0 : Nat) < 2048 := by decide +kernel

theorem wit_LockInvariant_1 :
    let s : State := { sOn with scr.locks := [(0x105, { owner := some 256, queue := [259] })] }; (∀ e ∈ s.scr.locks, (e.2.owner = none ∨ lockClaims s (e.1 / 2048) (e.1 % 2048) = true) → e.2.queue = []) ∧ (lockOf s 0 0x105).queue = [259] := by decide

theorem wit_LockInvariant_2 :
    taken .none false (rq 0x0C00 [65536]) sOn = true := by decide

theorem wit_StoppedUntilReset_1 :
    let s : State := { sOn with pw.stopped := true, pending := [.perstAssert 1] }; s.pw.stopped = true ∧ (∀ c ∈ s.pending.head?, c ≠ .por ∧ c ≠ .supplyFault .aon) ∧ (match step s with | .next t => (hport t 1).perst | _ => false) = true := by decide

/-! ### Ill-formed commands are refused by the check -/

/-- A request of 15 words, one from a fifth host port, and a packet with more extension words than EXT_MASK can name. -/
def badReq : GcpReq := { via := .hm, words := [] }
def badVia : GcpReq := { rq 1 [] with via := .host 4 }
def badPkt : Packet := { dest := 0, src := 0, cls := 0, lenCells := 1, ptype := 0, extMask := 0, ext := List.replicate 37 0, psn := 0 }

theorem test_wf_ok : Instr.wf (.getIdentity (rq 1 [])) = true ∧ Instr.wf (.por) = true := by decide
theorem test_wf_request : Instr.wf (.getIdentity badReq) = false ∧ Instr.wf (.spdmMsg badVia .other) = false := by decide
theorem test_wf_packet : Instr.wf (.gcpReq badPkt) = false ∧ Instr.wf (.writePacketRx 0 badPkt {}) = false
    ∧ Instr.wf (.xinv 0 badPkt) = false ∧ Instr.wf (.treeUp 0 0 badPkt) = false ∧ Instr.wf (.packetArrive 0 badPkt) = false := by
  decide
theorem test_wf_router : Instr.wf (.portDrained 64) = false ∧ Instr.wf (.laneDegrade 0 4) = false
    ∧ Instr.wf (.outputGrant 73) = false ∧ Instr.wf (.replicaRefreshDone 16) = false ∧ Instr.wf (.treeUp 4 0 badPkt) = false := by
  decide
theorem test_wf_package : Instr.wf (.powerTransitionDone 96) = false ∧ Instr.wf (.boot 4 false 0) = false
    ∧ Instr.wf (.bolePllUnlock 2) = false ∧ Instr.wf (.tamper 2) = false ∧ Instr.wf (.sensorSample []) = false
    ∧ Instr.wf (.d2dRetry 6) = false ∧ Instr.wf (.d2dTrainDone 6 true) = false ∧ Instr.wf (.d2dIdentMove 6 0 0) = false
    ∧ Instr.wf (.hbmEccUncorr 32 .nothing) = false ∧ Instr.wf (.hbmEccUncorr 0 (.spilled 64)) = false
    ∧ Instr.wf (.hbmEccUncorr 0 (.tier 4)) = false ∧ Instr.wf (.jtagInstruction 256) = false := by decide
theorem test_wf_host : Instr.wf (.wqTail 4 0 0 8 { value := 0 }) = false ∧ Instr.wf (.wqTail 0 256 0 8 { value := 0 }) = false
    ∧ Instr.wf (.jobIssue 4) = false ∧ Instr.wf (.completionWrite 0 (2 ^ 20)) = false ∧ Instr.wf (.hostLinkUp 0 16 16) = false
    ∧ Instr.wf (.hostLinkUp 0 6 32) = false ∧ Instr.wf (.flr 0 256 false) = false ∧ Instr.wf (.ackDelayTimer 0 (2 ^ 24)) = false
    ∧ Instr.wf (.gcrReqTail 5 0) = false ∧ Instr.wf (.registerWrite (.bar0 4 0) 0 0) = false
    ∧ Instr.wf (.trigSlotReadDone 0 0 (2 ^ 20) none) = false ∧ Instr.wf (.ideFail 0 8) = false := by decide
theorem test_wf_scratch : Instr.wf (.scratchHostWrite 0 0 8 0 []) = false ∧ Instr.wf (.scratchHostRead 0 0 0 (2 ^ 23) 1) = false
    ∧ Instr.wf (.lckAcquire 0 0 2048) = false ∧ Instr.wf (.acquireTimeout 2 0 0) = false
    ∧ Instr.wf (.acquireTimeout 0 0 512) = false := by decide

/-! ### Values that the manual works out -/

/-- The check values for "123456789" (R95, R378, R380). -/
def digits : List Byte := [0x31, 0x32, 0x33, 0x34, 0x35, 0x36, 0x37, 0x38, 0x39]
theorem test_crc16 : hash16 digits = 0xD0DB := by decide +kernel
theorem test_crc64 : crc64 digits = 0x6C40DF5F0B497347 := by decide +kernel
theorem test_crc32 : crc32c digits = 0xE3069283 ∧ crc32 digits = 0xCBF43926 := by decide +kernel

/-- The worked lookup of R476, and the centre of R479. -/
theorem test_ball_lane : rowName 34 = "AT" ∧ ballOf 34 88 = .net 21 3 false false
    ∧ rowName 31 = "AM" ∧ ballOf 31 91 = .net 21 0 true true := by decide +kernel
theorem test_ball_centre : rowName 46 = "BH" ∧ ballOf 46 46 = .vss ∧ ballOf 46 47 = .supply "VDD_CORE" := by decide +kernel

/-- The worked example of chapter 5: L_MAX is 8,638 ns. -/
theorem test_lmax :
    lMaxNs (List.replicate 1 { outRate := 1600, burst := 65536, ca := 400, wire := 200 }
      ++ List.replicate 3 { inRate := some 1600, outRate := 1600, burst := 65536, ca := 400, wire := 200 }
      ++ [{ inRate := some 1600, outRate := 3072, burst := 65536, ca := 768 }]) 0 0 = 8638 := by decide +kernel

/-- The worked exact allreduce of chapter 11: the element words of B and of C, and the result. -/
theorem test_exact_up :
    (exPayload [{ a := (2 ^ 24 + 1) * 2 ^ 149 }]).1 = List.replicate 16 0 ++ wBytes [0x20000020, 0, 0, 0x12000000]
    ∧ (exPayload [{ a := (1 - 2 ^ 24) * 2 ^ 149 }]).1
        = List.replicate 16 0 ++ wBytes [0xE0000020, 0xFFFFFFFF, 0xFFFFFFFF, 0x12FFFFFF] := by decide +kernel
theorem test_exact_down :
    elEncode 2 6 (elCombine 0 2 6 { a := (2 ^ 24 + 1) * 2 ^ 149 } { a := (1 - 2 ^ 24) * 2 ^ 149 }) = 0x40000000 := by
  decide +kernel
/-- The same in ORDERED mode: 2^24 + 1 rounds to 2^24, and the root's result is 1.0. -/
theorem test_ordered :
    elEncode 1 6 (elCombine 0 1 6 (elCombine 0 1 6 (elDecode 1 6 0x4B800000) (elDecode 1 6 0x3F800000))
      (elCombine 0 1 6 (elDecode 1 6 0x3F800000) (elDecode 1 6 0xCB800000))) = 0x3F800000 := by decide +kernel

/-- The Grove fence of chapter 15: the record's word 0, the own bit, and the units fenced. -/
theorem test_grove_record : (recWords (raise 147 1 sOn) 147).head? = some 0x005300A9 := by decide +kernel
theorem test_grove_fenced : (fencedSet (raise 147 1 sOn)).extractLsb' 32 64 = 0x0088F000FFFF0000#64
    ∧ (raise 147 1 sOn).ev.own.extractLsb' 64 32 = 0x00080000#32 := by decide +kernel

/-- The table gives no row any bits, so no word spells a command. -/
theorem test_no_words : decodeTableWord 32 1 = none ∧ (State.withFetchWord sOn 32 1) = sOn := by decide +kernel

end Sys2Proof.Tests
end

section
/-! PROOFS. The state after reset (O55). -/

namespace Sys2Proof.Proofs
open Sys2Proof.Machine

/-- Before anything is staged, an RWS register holds the reset value of its block's table. -/
theorem rws_reset (g : Bool) (a : Nat) : rws { State.reset with grade425 := g } a = rwsReset g a := rfl

/-- PRT_CFG heads each port's block of `prtRws`. -/
theorem rwsReset_prtBase (g : Bool) {n : Nat} (hn : n < 64) :
    rwsReset g (prtBase n) = w32 (if g then 0x12 else 0x16) := by
  have hlo : ¬ prtBase n < 0x1000 := by unfold prtBase; omega
  have hin : 0x01000000 ≤ prtBase n ∧ prtBase n < 0x01400000 := by unfold prtBase; omega
  have hoff : prtBase n % 0x10000 = 0 := by unfold prtBase; omega
  simp [rwsReset, rwsInfo, hlo, hin, hoff, prtRws, regLook]

/-- PRT_CFG.RATE after reset, by the speed grade (R4, R87). -/
theorem prtRate_reset (g : Bool) {n : Nat} (hn : n < 64) :
    rwsF { State.reset with grade425 := g } (prtBase n) 2 1 = if g then 0 else 1 := by
  rw [rwsF, rws_reset, rwsReset_prtBase g hn]
  cases g <;> decide

/-- No own bit is set after reset, so no container of a unit fences it (R444). -/
theorem fenced_reset (u : Nat) : fenced State.reset u = false := by
  have hown (c : Nat) : ownBit State.reset c = false := BitVec.getLsbD_zero
  simp [fenced, hown]

theorem hostEid_reset {h : Nat} (hh : h < 4) : hostEid State.reset h = 0x3FFFF := by
  interval_cases h <;> decide

/-- Settles O55: an unlisted record is its type's default, and an unlisted RWS register its table's reset value. -/
theorem resetState : Obligations.ResetState := by
  unfold Obligations.ResetState
  refine ⟨rfl, rfl, rfl, rfl, fun _ => ⟨rfl, rfl⟩, fun _ => ⟨rfl, rfl, rfl, rfl⟩, fun _ => ⟨rfl, rfl⟩, fenced_reset,
    fun _ => rfl, rfl, ?nodeEid, fun _ => hostEid_reset, rfl, rfl, rfl, rfl, rfl, rfl, rfl, fun _ _ _ => rfl,
    fun _ _ => ⟨rfl, rfl⟩, fun _ _ => rfl, fun _ hn => ⟨prtRate_reset true hn, prtRate_reset false hn⟩, ?warnW, ?twarnC⟩
  case nodeEid => decide
  case warnW => decide
  case twarnC => decide

end Sys2Proof.Proofs
end

section
/-! PROOFS. Writes of a PF's plain registers (R9, R357, R360), and the state at which O24 fails: one whose write buffers are
not in the canonical form of sparse maps. -/

namespace Sys2Proof.Proofs
open Sys2Proof.Machine Sys2Proof.Laws

/-! ### The bytes of an access (R360) -/

@[simp] theorem leBytes_length (n v : Nat) : (leBytes n v).length = n := by
  induction n generalizing v with
  | zero => rfl
  | succ n ih => simp [leBytes, ih]

@[simp] theorem pieces_nil (fuel off : Nat) : pieces fuel off [] = [] := by
  cases fuel <;> simp [pieces]

/-- An aligned access of 1, 2, 4 or 8 bytes is one piece. -/
theorem pieces_aligned {n off : Nat} {bs : List Byte} (hl : bs.length = n) (ha : off % n = 0)
    (hn : n = 1 ∨ n = 2 ∨ n = 4 ∨ n = 8) : pieces n off bs = [(off, bs)] := by
  have hne : bs ≠ [] := by
    rintro rfl
    simp only [List.length_nil] at hl
    omega
  have hsize : (if off % 8 = 0 ∧ 8 ≤ bs.length then 8 else if off % 4 = 0 ∧ 4 ≤ bs.length then 4
      else if off % 2 = 0 ∧ 2 ≤ bs.length then 2 else 1) = n := by
    rcases hn with rfl | rfl | rfl | rfl <;> split_ifs <;> omega
  obtain ⟨k, rfl⟩ : ∃ k, n = k + 1 := ⟨n - 1, by omega⟩
  simp only [pieces, if_neg hne, hsize, List.take_of_length_le hl.le, List.drop_of_length_le hl.le, pieces_nil]

/-- Four bytes that are written over a register are its new word. -/
theorem mergeWord_whole (old v : Word) (w : Nat) : mergeWord old w w (leBytes 4 v.toNat) = v := by
  apply BitVec.eq_of_toNat_eq
  have := v.isLt
  simp [mergeWord, List.range_succ, leBytes, leNat, w32, Nat.shiftRight_eq_div_pow]
  omega

theorem wrPiece_whole (t : RegTarget) {off : Nat} (ha : off % 4 = 0) (v : Word) (who : Requester) (s : State) :
    wrPiece t off (leBytes 4 v.toNat) who s = wrWord t off v who s := by
  have hw : off / 4 * 4 = off := by omega
  simp [wrPiece, ha, hw, mergeWord_whole]

/-! ### Earlier writes of the requester (R357) -/

/-- In a canonical map a key that reads as the default is not listed. -/
theorem erase_of_get_default {α : Type} [DecidableEq α] {d : α} {k : Nat} {m : TMap α} (hm : Maps.wf d m = true)
    (hk : Maps.get d m k = d) : Maps.erase k m = m := by
  induction m with
  | nil => rfl
  | cons e t ih =>
    obtain ⟨j, v⟩ := e
    simp only [Maps.wf, Maps.sorted, List.pairwise_cons, List.all_cons, Bool.and_eq_true, decide_eq_true_eq] at hm
    obtain ⟨⟨-, hsorted⟩, hv, hall⟩ := hm
    by_cases hj : j = k
    · exact absurd (by simpa [Maps.get, Maps.find?, hj] using hk) hv
    · have hrest : Maps.get d t k = d := by simpa [Maps.get, Maps.find?, hj] using hk
      have hwf : Maps.wf d t = true := by
        rw [Maps.wf, Maps.sorted, Bool.and_eq_true, decide_eq_true_eq]
        exact ⟨hsorted, hall⟩
      rw [Maps.erase, if_neg (Ne.symm hj), ih hwf hrest]

/-- Where a Bole buffers nothing, performing an identifier's writes unlists the Bole's buffer. -/
theorem performAll_of_empty {b : Nat} (ident : Nat) {s : State} (h : wbufOf s b = []) :
    performAll b ident s = { s with scr.wbuf := Maps.erase b s.scr.wbuf } := by
  simp [performAll, h, setWbuf, Maps.put]

/-! ### What a write of a PF's register does -/

theorem effRegisterWrite_aligned {h fn off size : Nat} {v hi : Word} {who : Requester} {s : State}
    (hup : (hport s h).st = .up) (hfn : fn ≤ (hport s h).numVfs) (ha : off % size = 0)
    (hsize : size = 1 ∨ size = 2 ∨ size = 4 ∨ size = 8) :
    effRegisterWrite (.bar0 h fn) off v { who := who, size := size, hi := hi } s =
      wrPiece (.bar0 h fn) off (leBytes size (v.toNat + 2 ^ 32 * hi.toNat)) who
        (if domOn s (dMem (boleOf h)) then performAll (boleOf h) (identOf h who.id who.tc) s else s) := by
  simp [effRegisterWrite, hup, not_lt.mpr hfn, behind, pieces_aligned (leBytes_length _ _) ha hsize]

/-- With nothing buffered for the port's Bole, a write of a plain RW register of the PF takes its field bits and unlists the
Bole's buffer. -/
theorem effRegisterWrite_plainRw {h off m : Nat} (v : Word) (who : Requester) {s : State} (ha : off % 4 = 0)
    (hup : (hport s h).st = .up) (hm : maskIn plainRw off = some m) (hmem : domOn s (dMem (boleOf h)) = true)
    (hbuf : wbufOf s (boleOf h) = []) :
    effRegisterWrite (.bar0 h 0) off v { who := who } s =
      barSet (hostKey h 0 off) (v &&& w32 m) { s with scr.wbuf := Maps.erase (boleOf h) s.scr.wbuf } := by
  have hbytes : leBytes 4 (v.toNat + 2 ^ 32 * (0 : Word).toNat) = leBytes 4 v.toNat := rfl
  rw [effRegisterWrite_aligned hup (Nat.zero_le _) ha (by decide), if_pos hmem, performAll_of_empty _ hbuf, hbytes,
    wrPiece_whole _ ha]
  simp only [wrWord, if_true, wrPf, hm]

/-- O24's second clause, for write buffers in canonical form: the register's field bits are all that changes. -/
theorem effRegisterWrite_plainRw_of_wf {h off m : Nat} (v : Word) (who : Requester) {s : State} (ha : off % 4 = 0)
    (hup : (hport s h).st = .up) (hm : maskIn plainRw off = some m) (hmem : domOn s (dMem (boleOf h)) = true)
    (hbuf : wbufOf s (boleOf h) = []) (hwf : Maps.wf [] s.scr.wbuf = true) :
    effRegisterWrite (.bar0 h 0) off v { who := who } s = barSet (hostKey h 0 off) (v &&& w32 m) s := by
  rw [effRegisterWrite_plainRw v who ha hup hm hmem hbuf, erase_of_get_default hwf hbuf]

/-! ### The counterexample -/

/-- Host port 0 is UP, the memory domain of its Bole is ON, and the write buffers list an empty one for Bole 0: `wbufOf` reads
it as a buffer that is not listed at all, and `Maps.wf` rules it out. -/
def listedEmptyBuffer : State :=
  { State.reset with
    hs.ports := [(0, { st := .up })], pw.dom := [(dMem 0, { st := .on, wasOff := false })], scr.wbuf := [(0, [])] }

/-- What O24 says a write of 0x1234 to BAR0 register 0x18000 of the PF leaves: the register's field bits changed only. -/
def statedWrite : State := barSet (hostKey 0 0 0x18000) (0x1234 &&& w32 0xFFFF) listedEmptyBuffer

/-- What the write leaves: the empty buffer is no longer listed. -/
def modelWrite : State := { statedWrite with scr.wbuf := [] }

/-- Refutes O24 by its second clause, which asks that nothing is buffered for the port's Bole (`wbufOf` reads []) and not that
the write buffers are in canonical form. In `listedEmptyBuffer` an empty buffer is listed, and the write, which performs the
earlier writes first (R357), unlists it. With canonical buffers the clause holds (`effRegisterWrite_plainRw_of_wf`). -/
theorem not_registerWrites : ¬ Obligations.RegisterWrites := by
  unfold Obligations.RegisterWrites
  rintro ⟨-, hplain, -⟩
  have hup : (hport listedEmptyBuffer 0).st = .up := by decide
  have hmask : maskIn plainRw 0x18000 = some 0xFFFF := by decide
  have hmem : domOn listedEmptyBuffer (dMem (boleOf 0)) = true := by decide
  have hbuf : wbufOf listedEmptyBuffer (boleOf 0) = [] := by decide
  have stated : exec (.registerWrite (.bar0 0 0) 0x18000 0x1234 {}) listedEmptyBuffer = .next statedWrite :=
    (hplain 0 0x18000 0x1234 0xFFFF {} _ _ (by decide) hup hmask hmem hbuf rfl).2 (by decide)
  have runs : exec (.registerWrite (.bar0 0 0) 0x18000 0x1234 {}) listedEmptyBuffer = .next modelWrite :=
    (clocked_runs fun _ => effRegisterWrite_plainRw 0x1234 {} (by decide) hup hmask hmem hbuf).2
      (show quiet listedEmptyBuffer modelWrite = true by decide)
  have same : statedWrite = modelWrite := by
    rw [stated] at runs
    injection runs
  have listed : ([(0, [])] : TMap (List BufWrite)) = [] := congrArg (·.scr.wbuf) same
  cases listed

end Sys2Proof.Proofs
end

section
/-! PROOFS. What the crossbar's operations leave as it was: the graft actions, the Heartwood and the NOR. -/

namespace Sys2Proof.Proofs
open Sys2Proof.Machine Sys2Proof.Laws

/-- `t` has the graft actions, the Heartwood and the NOR of `s`. -/
def CrossbarOnly (s t : State) : Prop := t.net.graft = s.net.graft ∧ t.heart = s.heart ∧ t.nor = s.nor

namespace CrossbarOnly

theorem refl (s : State) : CrossbarOnly s s := ⟨rfl, rfl, rfl⟩

theorem trans {s t u : State} (h : CrossbarOnly s t) (k : CrossbarOnly t u) : CrossbarOnly s u :=
  ⟨k.1.trans h.1, k.2.1.trans h.2.1, k.2.2.trans h.2.2⟩

theorem ite {c : Prop} [Decidable c] {s a b : State} (ha : CrossbarOnly s a) (hb : CrossbarOnly s b) :
    CrossbarOnly s (if c then a else b) := by
  split
  · exact ha
  · exact hb

theorem foldl {α : Type} {f : State → α → State} (hf : ∀ s a, CrossbarOnly s (f s a)) :
    ∀ (l : List α) (s : State), CrossbarOnly s (l.foldl f s)
  | [], s => refl s
  | a :: l, s => (hf s a).trans (foldl hf l (f s a))

theorem of_evOnly {s t : State} (h : EvOnly s t) : CrossbarOnly s t := ⟨congrArg Net.graft h.net, h.heart, h.nor⟩

theorem inc (key : Nat) (s : State) : CrossbarOnly s (inc key s) := of_evOnly (evOnly_inc key s)
theorem raise (n bits : Nat) (s : State) : CrossbarOnly s (raise n bits s) := of_evOnly (evOnly_raise n bits s)

/-! ### Credits and outputs -/

theorem updPort (n : Nat) (f : Port → Port) (s : State) : CrossbarOnly s (updPort n f s) := ⟨rfl, rfl, rfl⟩
theorem updOut (o : Nat) (f : Output → Output) (s : State) : CrossbarOnly s (updOut o f s) := ⟨rfl, rfl, rfl⟩
theorem emit (o : Out) (s : State) : CrossbarOnly s (emit o s) := ⟨rfl, rfl, rfl⟩
theorem setTree (i : Nat) (x : TreeCtx) (s : State) : CrossbarOnly s (setTree i x s) := ⟨rfl, rfl, rfl⟩
theorem backlogSub (o cells : Nat) (s : State) : CrossbarOnly s (backlogSub o cells s) := ⟨rfl, rfl, rfl⟩

theorem boundary (o : Nat) (s : State) : CrossbarOnly s (boundary o s) := by
  unfold Machine.boundary
  split
  · exact refl s
  · exact updOut ..

theorem dropRx (inp : Nat) (s : State) : CrossbarOnly s (dropRx inp s) := ite (updPort ..) (refl s)

theorem freePool (inp vc n : Nat) (whole : Bool) (s : State) : CrossbarOnly s (freePool inp vc n whole s) :=
  ite (ite (updPort ..) (refl s)) (dropRx ..)

theorem crossOut (h : Nat) (p : Packet) (o : Out) (s : State) : CrossbarOnly s (crossOut h p o s) := by
  unfold Machine.crossOut crossD2d
  split
  · exact ⟨rfl, rfl, rfl⟩
  · split <;> exact ⟨rfl, rfl, rfl⟩

theorem endTx (o : Nat) (s : State) : CrossbarOnly s (endTx o s) := by
  unfold Machine.endTx
  split
  · exact refl s
  · exact ((ite (backlogSub ..) (refl s)).trans (updOut ..)).trans (boundary ..)

theorem deliverTx (o : Nat) (s : State) : CrossbarOnly s (deliverTx o s) := by
  unfold Machine.deliverTx
  split
  · exact refl s
  · exact trans (ite (crossOut ..) (emit ..)) (endTx ..)

theorem stompOut (o : Nat) (s : State) : CrossbarOnly s (stompOut o s) := by
  have counted (s : State) : CrossbarOnly s (stompCount o s) := ite (inc ..) (refl s)
  unfold Machine.stompOut
  split
  · exact refl s
  · split
    · exact (updOut ..).trans (counted _)
    · extract_lets s1 left sent p ctr cs s2
      have h1 : CrossbarOnly s s1 := ite (refl s) (dropRx ..)
      have h2 : CrossbarOnly s1 s2 := (counted _).trans (updPort ..)
      exact h1.trans (ite ((updOut ..).trans (deliverTx ..)) (h2.trans (updOut ..)))

/-! ### Queued packets and trees -/

theorem copyGone (h : Held) (s : State) : CrossbarOnly s (copyGone h s) := by
  unfold Machine.copyGone
  split
  · exact refl s
  · exact ite (refl s) (setTree ..)

theorem dropQueued (p : Held → Bool) (s : State) : CrossbarOnly s (dropQueued p s) := by
  have one (s : State) (h : Held) : CrossbarOnly s (Machine.copyGone h (Machine.freePool h.inp h.inVc (lenOf h.pkt) h.whole s)) :=
    (freePool ..).trans (copyGone ..)
  refine trans ?_ (foldl (fun s h => (one s h).trans (ite (backlogSub ..) (refl _))) _ _)
  exact ⟨rfl, rfl, rfl⟩

theorem backlogAdd (o cells : Nat) (s : State) : CrossbarOnly s (backlogAdd o cells s) := by
  have cause (s : State) : CrossbarOnly s (asdCause o 3 s) := ite (refl s) (ite (raise ..) ⟨rfl, rfl, rfl⟩)
  unfold Machine.backlogAdd
  extract_lets b b' lim net s1
  have added : CrossbarOnly s s1 := ⟨rfl, rfl, rfl⟩
  exact added.trans (ite ((inc ..).trans (cause _)) (refl s1))

theorem enqueue (h : Held) (s : State) : CrossbarOnly s (enqueue h s) := by
  have credit : CrossbarOnly s (restCredit h.out s) := ite (updOut ..) (refl s)
  have queued (s : State) : CrossbarOnly s { s with net.voq := s.net.voq ++ [h] } := ⟨rfl, rfl, rfl⟩
  have depth (s : State) : CrossbarOnly s (noteDepth h.out (clsOf h.pkt) s) := ⟨rfl, rfl, rfl⟩
  exact ((credit.trans (queued _)).trans (ite (backlogAdd ..) (refl _))).trans (depth _)

theorem sendStatus (up : Bool) (i status out : Nat) (s : State) : CrossbarOnly s (sendStatus up i status out s) := by
  unfold Machine.sendStatus sendTree
  exact (ite (enqueue ..) (refl s)).trans (inc ..)

theorem breakTree (i cause : Nat) (skip : Option Nat) (s : State) : CrossbarOnly s (breakTree i cause skip s) := by
  unfold Machine.breakTree
  extract_lets t u status s1 s2 s3 s4
  have h1 : CrossbarOnly s s1 := (setTree ..).trans (dropQueued ..)
  have h2 : CrossbarOnly s1 s2 := (inc ..).trans (raise ..)
  have h3 : CrossbarOnly s2 s3 := ite (inc ..) (refl _)
  have h4 : CrossbarOnly s3 s4 := ite (refl _) (sendStatus ..)
  refine ite (refl s) ((((h1.trans h2).trans h3).trans h4).trans (foldl (fun s c => ?_) _ _))
  exact ite (refl s) (sendStatus ..)

end CrossbarOnly

end Sys2Proof.Proofs
end

section
/-! PROOFS. What reporting leaves of the SRAM arrays' errors (R25). -/

namespace Sys2Proof.Proofs
open Sys2Proof.Machine Sys2Proof.Laws

/-- `t` has the uncorrectable errors of `s`. -/
def SameEcc (s t : State) : Prop := t.ev.ecc = s.ev.ecc

namespace SameEcc

theorem refl (s : State) : SameEcc s s := rfl
theorem trans {s t u : State} (h : SameEcc s t) (k : SameEcc t u) : SameEcc s u := Eq.trans k h

theorem ite {c : Prop} [Decidable c] {s a b : State} (ha : SameEcc s a) (hb : SameEcc s b) :
    SameEcc s (if c then a else b) := by
  split
  · exact ha
  · exact hb

theorem foldl {α : Type} {f : State → α → State} (hf : ∀ s a, SameEcc s (f s a)) :
    ∀ (l : List α) (s : State), SameEcc s (l.foldl f s)
  | [], s => refl s
  | a :: l, s => (hf s a).trans (foldl hf l (f s a))

theorem fireMsix (h fn vec : Nat) (s : State) : SameEcc s (fireMsix h fn vec s) := ite (refl s) (ite rfl rfl)

theorem eventMsix (n h : Nat) (s : State) : SameEcc s (eventMsix n h s) := by
  unfold Machine.eventMsix toHost crossD2d
  refine ite (fireMsix ..) (ite (ite rfl ?_) (fireMsix ..))
  split
  · exact refl s
  · exact trans rfl (fireMsix ..)

theorem bump (key n : Nat) (s : State) : SameEcc s (bump key n s).1 := by
  unfold Machine.bump
  dsimp only
  split_ifs <;> rfl

section
variable {again : Nat → Nat → State → State} (ha : ∀ n b s, SameEcc s (again n b s))
include ha

theorem raiseBy (n bits : Nat) (s : State) : SameEcc s (raiseBy again n bits s) := ite rfl (trans rfl (ha ..))

theorem countBy (key n : Nat) (s : State) : SameEcc s (countBy again key n s) :=
  ite ((bump ..).trans (ha ..)) (bump ..)

theorem sendEvent (n sev : Nat) (s : State) : SameEcc s (sendEvent again n sev s) := by
  unfold Machine.sendEvent
  exact ite ((countBy ha ..).trans (raiseBy ha ..)) (trans rfl (countBy ha ..))

theorem routeRaise (route : BitVec 4) (n sev : Nat) (s : State) : SameEcc s (routeRaise again route n sev s) := by
  unfold Machine.routeRaise
  extract_lets s1 s2 s3
  have h1 : SameEcc s s1 := ite (foldl (fun s h => eventMsix n h s) _ _) (refl s)
  have h2 : SameEcc s1 s2 := ite (fireMsix ..) (refl s1)
  have h3 : SameEcc s2 s3 := ite rfl (refl s2)
  exact h1.trans (h2.trans (h3.trans (ite (sendEvent ha ..) (refl s3))))

theorem fenceBy (n sev : Nat) (s : State) : SameEcc s (fenceBy again n sev s) := by
  unfold Machine.fenceBy
  extract_lets t e1 s1 e2 s2 e3
  have h1 : SameEcc s s1 := rfl
  have h2 : SameEcc s1 s2 := ite (refl s1) (trans rfl (raiseBy ha ..))
  exact h1.trans (h2.trans (ite rfl (refl s2)))

theorem reactBy (inj : Bool) (n bits : Nat) (s : State) : SameEcc s (reactBy again inj n bits s) := by
  unfold Machine.reactBy
  extract_lets sev r s1 s2
  have h1 : SameEcc s s1 := rfl
  have h2 : SameEcc s1 s2 := ite (refl s1) (routeRaise ha ..)
  exact h1.trans (ite (refl s1) (h2.trans (ite (refl s2) (fenceBy ha ..))))
end

theorem react (fuel : Nat) : ∀ (inj : Bool) (n bits : Nat) (s : State), SameEcc s (react fuel inj n bits s) := by
  induction fuel with
  | zero => exact fun _ _ _ s => refl s
  | succ fuel ih => exact reactBy (ih false)

theorem inc (key : Nat) (s : State) : SameEcc s (inc key s) := countBy (react 4 false) key 1 s

theorem eccRead (ctr kind i : Nat) (s : State) : SameEcc s (eccRead ctr kind i s) := ite (inc ..) (refl s)

end SameEcc

end Sys2Proof.Proofs
end

section
/-! PROOFS. Scratch memory, read after write (O57: R24, R356, R360). -/

namespace Sys2Proof.Proofs
open Sys2Proof.Machine Sys2Proof.Laws

/-! ### Consecutive keys -/

theorem putList_append {α : Type} [DecidableEq α] (d : α) (vs ws : List α) (m : TMap α) (k : Nat) :
    Maps.putList d m k (vs ++ ws) = Maps.putList d (Maps.putList d m k vs) (k + vs.length) ws := by
  induction vs generalizing m k with
  | nil => rfl
  | cons v vs ih => rw [List.cons_append, Maps.putList, Maps.putList, ih, List.length_cons, Nat.add_right_comm, Nat.add_assoc]

/-- A read after a write of consecutive keys, both cases in one equation. -/
theorem get_putList {α : Type} [DecidableEq α] (d : α) (vs : List α) (m : TMap α) (k j : Nat) :
    Maps.get d (Maps.putList d m k vs) j = if k ≤ j ∧ j < k + vs.length then vs.getD (j - k) d else Maps.get d m j := by
  split
  next h =>
    obtain ⟨i, rfl⟩ := Nat.exists_eq_add_of_le h.1
    have hi : i < vs.length := by omega
    rw [Maps.get_putList_same d vs m k i hi, Nat.add_sub_cancel_left, List.getD_eq_getElem _ _ hi]
  next h => exact Maps.get_putList_other d vs m k j (by omega)

/-! ### The marks of a Bole's scratch words -/

@[simp] theorem scr_eccRead (ctr kind i : Nat) (s : State) : (eccRead ctr kind i s).scr = s.scr := by
  unfold eccRead
  split <;> simp

@[simp] theorem scr_eccWrite (p : Nat × Nat → Bool) (s : State) : (eccWrite p s).scr = s.scr := by
  unfold eccWrite
  split <;> rfl

theorem struck_eccWrite (p : Nat × Nat → Bool) (s : State) (kind i : Nat) :
    struck (eccWrite p s) kind i = (struck s kind i && !p (kind, i)) := by
  unfold eccWrite
  split
  next h => simp [struck, h.1]
  next => rw [Bool.eq_iff_iff]; simp [struck]

theorem SameEcc.scrStruck {s t : State} (h : SameEcc s t) (b o : Nat) : scrStruck t b o = scrStruck s b o := by
  rw [Machine.scrStruck, Machine.scrStruck, struck, struck, h]

/-! ### A piece -/

/-- The bytes of a piece, performed whole: what scratch memory then holds, and that only the word's error is gone. -/
structure Performed (b o : Nat) (bs : List Byte) (s : State) (r : State × Bool) : Prop where
  kept : r.2 = false
  mem : r.1.scr.mem = Maps.putList 0 s.scr.mem (b * 2 ^ 23 + o) bs
  struck : ∀ x, scrStruck r.1 b x = true → scrStruck s b x = true ∧ x / 8 ≠ o / 8

theorem scrPiece_performed {b o : Nat} {bs : List Byte} {s : State}
    (h : scrStruck s b o = false ∨ (o % 8 = 0 ∧ bs.length = 8)) : Performed b o bs s (scrPiece b o bs s) := by
  have hgo : ¬ (scrStruck s b o = true ∧ (!decide (o % 8 = 0 ∧ bs.length = 8)) = true) := by
    rcases h with h | h
    · simp [h]
    · simp [h]
  unfold scrPiece
  dsimp only
  rw [if_neg hgo]
  refine ⟨rfl, ?mem, ?struck⟩
  case mem =>
    rw [scr_eccWrite]
    split <;> simp
  case struck =>
    intro x hx
    have hread : SameEcc s (if o % 8 = 0 ∧ bs.length = 8 then s else eccRead (ssmCtr b 7) (eccScr b) (o / 8) s) :=
      .ite (.refl s) (.eccRead ..)
    rw [scrStruck, struck_eccWrite] at hx
    simp only [Bool.and_eq_true, Bool.not_eq_true', beq_eq_false_iff_ne, ne_eq, Prod.mk.injEq, true_and] at hx
    exact ⟨by rw [← hread.scrStruck]; exact hx.1, hx.2⟩

theorem scrPiece_discarded {b o : Nat} {bs : List Byte} {s : State} (hs : scrStruck s b o = true)
    (hnarrow : ¬ (o % 8 = 0 ∧ bs.length = 8)) : scrPiece b o bs s = (scrEcc b (inc (ssmCtr b 9) s), true) := by
  simp only [scrPiece, hs, hnarrow, decide_false, Bool.not_false, and_self, if_true]

/-! ### A write -/

theorem pieces_cons (fuel o : Nat) {bs : List Byte} (hne : bs ≠ []) :
    ∃ n, 1 ≤ n ∧ n ≤ bs.length ∧ pieces (fuel + 1) o bs = (o, bs.take n) :: pieces fuel (o + n) (bs.drop n) := by
  have hlen : 1 ≤ bs.length := List.length_pos_iff.mpr hne
  rw [pieces, if_neg hne]
  exact ⟨_, by split_ifs <;> omega, by split_ifs <;> omega, rfl⟩

/-- Performs a list of pieces in turn; the flag is set once a piece has been discarded. -/
def scrPieces (b : Nat) (x : State × Bool) (ps : List (Nat × List Byte)) : State × Bool :=
  ps.foldl (fun x p => ((scrPiece b p.1 p.2 x.1).1, x.2 || (scrPiece b p.1 p.2 x.1).2)) x

/-- Clear words are written whole, and stay clear for the pieces to come. -/
theorem scrPieces_performed (b fuel : Nat) : ∀ (o : Nat) (bs : List Byte) (s : State), bs.length ≤ fuel →
    (∀ k, k < bs.length → scrStruck s b (o + k) = false) →
    (scrPieces b (s, false) (pieces fuel o bs)).2 = false ∧
      (scrPieces b (s, false) (pieces fuel o bs)).1.scr.mem = Maps.putList 0 s.scr.mem (b * 2 ^ 23 + o) bs := by
  induction fuel with
  | zero =>
    intro o bs s hlen _
    rw [List.length_eq_zero_iff.mp (Nat.le_zero.mp hlen)]
    exact ⟨rfl, rfl⟩
  | succ fuel ih =>
    intro o bs s hlen hclear
    by_cases hne : bs = []
    · subst hne
      rw [pieces_nil]
      exact ⟨rfl, rfl⟩
    · obtain ⟨n, hn, hle, hcut⟩ := pieces_cons fuel o hne
      have first : Performed b o (bs.take n) s (scrPiece b o (bs.take n) s) :=
        scrPiece_performed (Or.inl (hclear 0 (by omega)))
      have clear : ∀ k, k < (bs.drop n).length → scrStruck (scrPiece b o (bs.take n) s).1 b (o + n + k) = false := by
        intro k hk
        rw [List.length_drop] at hk
        by_contra hstruck
        have := (first.struck _ (Bool.eq_true_of_not_eq_false hstruck)).1
        rw [Nat.add_assoc, hclear (n + k) (by omega)] at this
        cases this
      obtain ⟨hflag, hmem⟩ := ih (o + n) (bs.drop n) _ (by rw [List.length_drop]; omega) clear
      have step : scrPieces b (s, false) (pieces (fuel + 1) o bs) =
          scrPieces b ((scrPiece b o (bs.take n) s).1, false) (pieces fuel (o + n) (bs.drop n)) := by
        rw [hcut, scrPieces, List.foldl_cons, ← scrPieces]
        simp only [Bool.false_or, first.kept]
      refine ⟨by rw [step, hflag], ?_⟩
      rw [step, hmem, first.mem]
      conv_rhs => rw [← List.take_append_drop n bs, putList_append, List.length_take_of_le hle, Nat.add_assoc]

theorem scrWrite_performed {b o : Nat} {bs : List Byte} {s : State}
    (hclear : ∀ k, k < bs.length → scrStruck s b (o + k) = false) :
    (scrWrite b o bs s).2 = false ∧
      (scrWrite b o bs s).1.scr.mem = Maps.putList 0 s.scr.mem (b * 2 ^ 23 + o) bs :=
  scrPieces_performed b bs.length o bs s le_rfl hclear

/-! ### The bytes read back -/

/-- Offsets within 8 MiB of two Boles name different keys. -/
theorem scrByte_of_putList {b o : Nat} {bs : List Byte} {s t : State} (hfit : o + bs.length ≤ 2 ^ 23)
    (hmem : t.scr.mem = Maps.putList 0 s.scr.mem (b * 2 ^ 23 + o) bs) (c : Nat) {x : Nat} (hx : x < 2 ^ 23) :
    scrByte t c x = if c = b ∧ o ≤ x ∧ x < o + bs.length then bs.getD (x - o) 0 else scrByte s c x := by
  rw [scrByte, hmem, get_putList]
  by_cases hc : c = b
  · subst hc
    have hkey : c * 2 ^ 23 + x - (c * 2 ^ 23 + o) = x - o := by omega
    simp only [hkey, true_and, Nat.add_assoc, Nat.add_le_add_iff_left, Nat.add_lt_add_iff_left, scrByte]
  · rw [if_neg (by omega), if_neg fun h => hc h.1, scrByte]

/-- Settles O57: a write's pieces together list its bytes, and neither their reports nor their marks touch another byte. -/
theorem scratchReadAfterWrite : Obligations.ScratchReadAfterWrite := by
  unfold Obligations.ScratchReadAfterWrite
  refine ⟨?write, ?word, ?narrow⟩
  case write =>
    intro b o bs s hfit hclear hwf
    obtain ⟨hflag, hmem⟩ := scrWrite_performed hclear
    exact ⟨hflag, by rw [hmem]; exact Maps.wf_putList 0 bs _ _ hwf, fun c x hx => scrByte_of_putList hfit hmem c hx⟩
  case word =>
    intro b o bs s ha hlen ho
    have done := scrPiece_performed (s := s) (b := b) (Or.inr ⟨ha, hlen⟩)
    have hclear : scrStruck (scrPiece b o bs s).1 b o = false := by
      by_contra h
      exact (done.struck o (Bool.eq_true_of_not_eq_false h)).2 rfl
    refine ⟨done.kept, hclear, fun c x hx => ?_⟩
    rw [scrByte_of_putList (by omega) done.mem c hx, hlen]
  case narrow =>
    intro b o bs s hlen hs
    rw [scrPiece_discarded hs fun h => absurd h.2 hlen.ne]
    exact ⟨rfl, by simp [scrEcc, ssmCause]⟩

end Sys2Proof.Proofs
end

section
/-! PROOFS. The commit steps that the hardware takes by itself (O4: R114, R116, R421, R423). -/

namespace Sys2Proof.Proofs
open Sys2Proof.Machine Sys2Proof.Laws

/-! ### A swap leaves the graft actions (R468) -/

theorem crossbarOnly_commitTree (old : State) (i : Nat) (s : State) : CrossbarOnly s (commitTree old i s) := by
  have broken : CrossbarOnly s (breakTree i 6 none { s with stage := old.stage }) :=
    .trans ⟨rfl, rfl, rfl⟩ (.breakTree i 6 none { s with stage := old.stage })
  unfold commitTree
  extract_lets t broke s1
  have h1 : CrossbarOnly s s1 := .ite broken (.refl s)
  exact .ite (.refl s) (h1.trans (.setTree ..))

theorem crossbarOnly_commitShaper (old : State) (o : Nat) (s : State) : CrossbarOnly s (commitShaper old o s) := by
  unfold commitShaper
  exact .ite (.refl s) (.ite (.refl s) (.trans (.updOut ..) (.ite (.refl _) (.boundary ..))))

theorem crossbarOnly_commitWord (old : State) (a : Nat) (s : State) : CrossbarOnly s (commitWord old a s) := by
  unfold commitWord
  refine .ite (crossbarOnly_commitTree ..) (.ite (.refl s) (.ite (crossbarOnly_commitShaper ..) (.ite (.updPort ..) ?_)))
  exact .ite ⟨rfl, rfl, rfl⟩ (.ite ⟨rfl, rfl, rfl⟩ (.refl s))

theorem crossbarOnly_swapBanks (s : State) : CrossbarOnly s (swapBanks s) := by
  unfold swapBanks
  extract_lets old staged t stage s1 s2 s3
  have h1 : CrossbarOnly s s1 := ⟨rfl, rfl, rfl⟩
  have h2 : CrossbarOnly s1 s2 := .foldl (fun s a => crossbarOnly_commitWord old a s) _ _
  have h3 : CrossbarOnly s2 s3 := by
    refine .foldl (fun s e => ?_) _ _
    exact .ite (.refl s) ⟨rfl, rfl, rfl⟩
  exact h1.trans (h2.trans (h3.trans (.trans (.inc ..) (.raise ..))))

/-! ### EPOCH_SWAP -/

theorem admitIfDue_of_none {s : State} (h : s.net.graft.admission = none) : admitIfDue s = s := by
  simp only [admitIfDue, h]

/-- A bank that is PENDING at T swaps, and only that, where nothing is to be admitted with it. -/
theorem swapIfDue_of_due {s : State} (hb : s.stage.bank = .pending) (hT : s.stage.commitT ≤ s.time.now)
    (ha : s.net.graft.admission = none) :
    swapIfDue s = if s.time.st ≠ .locked ∧ rwsF s 0x05000000 0 1 = 0 then raise 306 0x40 (swapBanks s) else swapBanks s := by
  have kept : CrossbarOnly s (swapDue s) := by
    unfold swapDue
    exact .ite (.ite (.trans (crossbarOnly_swapBanks s) (.raise ..)) (crossbarOnly_swapBanks s)) (.refl s)
  obtain ⟨hgraft, -, -⟩ := kept
  rw [swapIfDue, admitIfDue_of_none (by rw [hgraft, ha]), swapDue, if_pos ⟨hb, hT⟩]

/-! ### The steps -/

/-- Settles O4: each clause is the branch of its command that its hypotheses pick, and a swap leaves the pending ADMIT alone. -/
theorem bankSequence : Obligations.BankSequence := by
  unfold Obligations.BankSequence
  refine ⟨?passes, ?fails, ?locked, ?unlocked, ?drained, ?copied⟩
  case passes =>
    rintro q s _ hq hc rfl
    exact clocked_runs fun _ => by simp only [effCheckDone, hq, hc]
  case fails =>
    rintro q d1 d2 s _ hq hc rfl
    exact clocked_runs fun _ => by simp only [effCheckDone, hq, hc]
  case locked =>
    rintro s _ hb hT hl ha rfl
    exact clocked_runs fun _ => by rw [effEpochSwap, swapIfDue_of_due hb hT ha, if_neg fun h => h.1 hl]
  case unlocked =>
    rintro s _ hb hT hl hroot ha rfl
    exact clocked_runs fun _ => by rw [effEpochSwap, swapIfDue_of_due hb hT ha, if_pos ⟨hl, hroot⟩]
  case drained =>
    rintro s _ hb hd rfl
    exact clocked_runs fun _ => by rw [effDrainDone, if_pos ⟨hb, hd⟩]
  case copied =>
    rintro s _ hb rfl
    exact clocked_runs fun _ => by rw [effBankCopyDone, if_pos hb]

end Sys2Proof.Proofs
end

section
/-! PROOFS. Bulk loading, staging and reading of tables (O5: R27, R432). -/

namespace Sys2Proof.Proofs
open Sys2Proof.Machine Sys2Proof.Laws

/-- BULK_LOAD within the staging region, with the HBM interface serving. -/
theorem effBulkLoad_serving {r : GcpReq} {s : State} (ht : taken .writes false r s = true) (hh : hbmOk s = true)
    (hfit : (wAt r.words 5).toNat + lengthOf r ≤ 2 ^ 30) :
    effBulkLoad r s = ok r [] { s with
      stage.bulk := Maps.putList 0 s.stage.bulk (wAt r.words 5).toNat ((wBytes (dataOf r 6)).take (lengthOf r)) } := by
  rw [effBulkLoad, gcp_taken _ ht]
  simp only [hh, Bool.not_true, Bool.false_eq_true, if_false, if_neg (not_lt.mpr hfit)]

/-- BULK_STAGE of whole words within one view that staging does not refuse. -/
theorem effBulkStage_serving {r : GcpReq} {s : State} {src a n : Nat} (ht : taken .none false r s = true)
    (hh : hbmOk s = true) (hsrc : (wAt r.words 5).toNat = src) (ha : (wAt r.words 6).toNat = a)
    (hn : (wAt r.words 7).toNat = n) (hpos : n ≠ 0) (hn4 : n % 4 = 0) (ha4 : a % 4 = 0) (hfit : src + n ≤ 2 ^ 30)
    (hview : stageView s.grade425 a ≠ none) (hsame : stageView s.grade425 a = stageView s.grade425 (a + n - 4))
    (hfree : stageRefusal s [a, a + n - 4] = none) :
    effBulkStage r s = hold r { s with stage.bulkJob := some (src, a, n, r) } := by
  have hparams : ¬ (n = 0 ∨ n % 4 ≠ 0 ∨ a % 4 ≠ 0 ∨ 2 ^ 30 < src + n ∨ stageView s.grade425 a = none
      ∨ stageView s.grade425 a ≠ stageView s.grade425 (a + n - 4)) := by
    simp only [hpos, hn4, ha4, hview, ← hsame, not_lt.mpr hfit, ne_eq, not_true, or_self, not_false_eq_true]
  rw [effBulkStage, gcp_taken _ ht]
  simp only [hh, Bool.not_true, Bool.false_eq_true, if_false, hsrc, ha, hn, if_neg hparams, hfree]

/-- The end of a bulk copy whose words staging does not refuse; neither test reads the job that has ended. -/
theorem effBulkStageDone_serving {s : State} {src a n : Nat} {q : GcpReq} (hj : s.stage.bulkJob = some (src, a, n, q))
    (hh : hbmOk s = true) (hfree : stageRefusal s (wordAddrs a (n / 4)) = none) :
    effBulkStageDone s = endCmds (fun r => opcodeOf r == 0x201) stOk 0 0 []
      (unready (stageWords a (bulkWords s src (n / 4)) { s with stage.bulkJob := none })) := by
  have hh' : hbmOk { s with stage.bulkJob := none } = true := hh
  have hfree' : stageRefusal { s with stage.bulkJob := none } (wordAddrs a (n / 4)) = none := hfree
  simp only [effBulkStageDone, hj, hh', Bool.not_true, Bool.false_eq_true, if_false, hfree']
  rfl

/-- BULK_READ of whole words that all lie in a bank view or a staging view. -/
theorem effBulkRead_serving {r : GcpReq} {s : State} {ws : List (Option Word)} (ht : taken .reads false r s = true)
    (hh : hbmOk s = true) (ha4 : (wAt r.words 5).toNat % 4 = 0) (hn4 : lengthOf r % 4 = 0)
    (hws : (wordAddrs (wAt r.words 5).toNat (lengthOf r / 4)).map (bulkReadWord s) = ws)
    (hall : ws.any Option.isNone = false) :
    effBulkRead r s = okData r (ws.map fun w => w.getD 0) s := by
  rw [effBulkRead, gcp_taken _ ht]
  simp only [hh, ha4, hn4, hws, hall, Bool.not_true, Bool.false_eq_true, if_false, ne_eq, not_true, or_self]

/-- Settles O5: each clause is its command where no test refuses it. -/
theorem bulkTables : Obligations.BulkTables := by
  unfold Obligations.BulkTables
  refine ⟨?load, ?stage, ?staged, ?read⟩
  case load =>
    rintro r s _ ht hh hfit rfl
    exact clocked_runs fun _ => effBulkLoad_serving ht hh hfit
  case stage =>
    rintro r s _ ht hh hpos hn4 ha4 hfit hview hsame hfree rfl
    exact clocked_runs fun _ => effBulkStage_serving ht hh rfl rfl rfl hpos hn4 ha4 hfit hview hsame hfree
  case staged =>
    rintro src a n q s _ hj hh hfree rfl
    exact clocked_runs fun _ => effBulkStageDone_serving hj hh hfree
  case read =>
    rintro r s _ ht hh ha4 hn4 hall rfl
    refine clocked_runs fun _ => ?_
    rw [effBulkRead_serving ht hh ha4 hn4 rfl hall, List.map_map]
    rfl

end Sys2Proof.Proofs
end

section
/-! PROOFS. Power-on reset and the first steps of the boot (O16: R391, R448, R461, R463). -/

namespace Sys2Proof.Proofs
open Sys2Proof.Machine Sys2Proof.Laws

/-! ### Power-on reset -/

/-- What is at its reset value after a power-on reset, whatever the state before it. -/
theorem effPor_resets (s : State) :
    (∀ n, (port (effPor s) n).st = .disabled) ∧ (∀ d, domOn (effPor s) d = false) ∧ (effPor s).stage.bank = .opened ∧
      (effPor s).heart.keys = [] ∧ (effPor s).heart.idKey = none ∧ (effPor s).heart.wrapKey = none ∧
      (effPor s).heart.ide = [] ∧ (effPor s).ev.cause = [] ∧ (effPor s).ev.ctr = [] ∧ (effPor s).mgmt.fw = .boot ∧
      (effPor s).mgmt.cmds = [] ∧ (∀ h q, (wqOf (effPor s) h q).st = .absent) ∧
      (∀ h c, (chanOf (effPor s) h c).st = .absent) ∧ (∀ i, (tree (effPor s) i).st = 0) ∧
      (effPor s).scr.locks = [] ∧ (effPor s).pw.refOk = false :=
  ⟨fun _ => rfl, fun _ => rfl, rfl, rfl, rfl, rfl, rfl, rfl, rfl, rfl, rfl, fun _ _ => rfl, fun _ _ => rfl, fun _ => rfl,
    rfl, rfl⟩

/-! ### The boot ROM's choice (R391) -/

/-- `t` has the NOR of `s`, and what of the Heartwood the boot ROM compares it with. -/
def SameSlots (s t : State) : Prop :=
  t.nor = s.nor ∧ t.heart.unread = s.heart.unread ∧ t.heart.minSvn = s.heart.minSvn

theorem CrossbarOnly.sameSlots {s t : State} (h : CrossbarOnly s t) : SameSlots s t := by
  obtain ⟨-, hheart, hnor⟩ := h
  exact ⟨hnor, by rw [hheart], by rw [hheart]⟩

theorem SameSlots.refl (s : State) : SameSlots s s := ⟨rfl, rfl, rfl⟩

theorem SameSlots.trans {s t u : State} (h : SameSlots s t) (k : SameSlots t u) : SameSlots s u :=
  ⟨k.1.trans h.1, k.2.1.trans h.2.1, k.2.2.trans h.2.2⟩

theorem SameSlots.ite {c : Prop} [Decidable c] {s a b : State} (ha : SameSlots s a) (hb : SameSlots s b) :
    SameSlots s (if c then a else b) := by
  split
  · exact ha
  · exact hb

theorem sameSlots_eraseSession (s : State) : SameSlots s (eraseSession s) := by
  unfold eraseSession
  extract_lets cut s1
  have cuts : CrossbarOnly s s1 := .ite (.refl s) (.foldl (fun s n => .ite (.stompOut n s) (.refl s)) _ _)
  exact cuts.sameSlots

theorem sameSlots_eraseAll (s : State) : SameSlots s (eraseAll s) := sameSlots_eraseSession s

/-- An alarm, erasing or not, leaves the slots and what they are compared with. -/
theorem sameSlots_alarm (k : Nat) (s : State) : SameSlots s (alarm k s) := by
  unfold alarm
  extract_lets p s1 heart s2 heart' s3 s4
  have h1 : SameSlots s s1 := (CrossbarOnly.raise ..).sameSlots
  have h2 : SameSlots s1 s2 := .refl s1
  have h3 : SameSlots s2 s3 := .ite (.refl s2) (.refl s2)
  have h4 : SameSlots s3 s4 := .ite (sameSlots_eraseAll s3) (sameSlots_eraseSession s3)
  exact (h1.trans (h2.trans h3)).trans (.ite (.refl s3) h4)

theorem SameSlots.norNat {s t : State} (h : SameSlots s t) (a n : Nat) : norNat t a n = norNat s a n := by
  rw [Machine.norNat, Machine.norNat, norBytes, norBytes, h.1]

theorem SameSlots.slotSvn {s t : State} (h : SameSlots s t) (b : Bool) : slotSvn t b = slotSvn s b := by
  rw [Machine.slotSvn, Machine.slotSvn, h.norNat, h.2.1]

theorem SameSlots.verifySlot {s t : State} (h : SameSlots s t) (b : Bool) : verifySlot t b = verifySlot s b := by
  obtain ⟨hnor, hunread, hmin⟩ := h
  have bytes : norBytes t = norBytes s := by
    funext a n
    rw [norBytes, norBytes, hnor]
  unfold Machine.verifySlot Machine.norNat
  rw [bytes, hunread, hmin]

/-- The image of slot `b` runs from `t`, where the slots are those of `s`. -/
def runSlotOf (s : State) (b : Bool) (t : State) : State :=
  { t with
    mgmt.fw := .running
    heart := { t.heart with
      fwSlot := b, fwSvn := (slotSvn s b).toNat, minAtRun := s.heart.minSvn, measured := true
      image := BitVec.ofNat 384 (norNat s (slotBase b + 0x18) 48)
      buildId := BitVec.ofNat 64 (norNat s (slotBase b + 0x10) 8) } }

theorem SameSlots.runSlot {s t : State} (h : SameSlots s t) (b : Bool) : runSlot b t = runSlotOf s b t := by
  simp only [Machine.runSlot, runSlotOf, h.slotSvn, h.norNat, h.2.2]

/-- The boot ROM's choice, read off the state that it starts from. -/
theorem bootRom_eq {s w x : State} {b : Bool} (hb : b = decide (slotSvn s false < slotSvn s true))
    (hw : w = emit .spiSfdp s) (hx : x = alarm 6 w) :
    bootRom s = if verifySlot s b = 0 then runSlotOf s b w else if verifySlot s (!b) = 0 then runSlotOf s (!b) x
      else raise 304 2 { alarm 6 x with mgmt.fw := .recovery } := by
  have sw : SameSlots s w := by rw [hw]; exact ⟨rfl, rfl, rfl⟩
  have sx : SameSlots s x := by rw [hx]; exact sw.trans (sameSlots_alarm 6 w)
  unfold bootRom
  rw [← hw]
  simp only [sw.slotSvn, ← hb, sw.verifySlot, sw.runSlot, ← hx, sx.verifySlot, sx.runSlot]

/-! ### The firmware reports healthy (R448) -/

/-- A host port in RESET with PERST_N high trains. -/
def startHigh (s : State) (h : Nat) : State :=
  if (hport s h).st = .reset ∧ (hport s h).perst = false then updHost h (fun p => { p with st := .training }) s else s

theorem hostStart_running {s : State} (h : Nat) (hs : s.mgmt.fw = .running) : hostStart h s = startHigh s h := by
  simp [hostStart, startHigh, fwVerified, hs]

theorem foldl_hostStart_running (l : List Nat) {s : State} (hs : s.mgmt.fw = .running) :
    l.foldl (fun s h => hostStart h s) s = l.foldl startHigh s := by
  induction l generalizing s with
  | nil => rfl
  | cons h l ih =>
    have hs' : (startHigh s h).mgmt.fw = .running := by
      unfold startHigh
      split <;> exact hs
    rw [List.foldl_cons, List.foldl_cons, hostStart_running h hs, ih hs']

theorem firmwareUp_eq {u v : State} (hv : v = { u with pw.hmTrained := !u.pw.hmPerst && u.pw.hmRefOk }) :
    firmwareUp u = if u.mgmt.fw = .running then
        (List.range 4).foldl startHigh (if u.ev.stopped = [] then startAlive { v with ev.wdogOk := true, ev.hbOk := true }
          else stopAlive { v with ev.wdogOk := true, ev.hbOk := true })
      else stopAlive { v with ev.hbOk := false } := by
  subst hv
  unfold firmwareUp
  by_cases hr : u.mgmt.fw = .running
  · have hfw : ∀ t : State, t.mgmt.fw = .running →
        (if u.ev.stopped = [] then startAlive t else stopAlive t).mgmt.fw = .running := by
      intro t ht
      split
      · unfold startAlive
        split <;> exact ht
      · exact ht
    simp only [hr, if_true]
    exact foldl_hostStart_running _ (hfw _ hr)
  · simp only [hr, if_false]

/-- Settles O16: reset and boot set what their clauses list, and the boot ROM's choice does not hang on what its alarms erase. -/
theorem resetAndBoot : Obligations.ResetAndBoot := by
  unfold Obligations.ResetAndBoot
  refine ⟨?por, ?aon, ?boot, ?taproot, ?booted, ?restarted, ?ignored, ?hm⟩
  case por =>
    rintro s _ rfl
    have runs := always_runs (s := s) (f := effPor) rfl
    exact ⟨runs.1, runs.2, effPor_resets s⟩
  case aon =>
    rintro s _ rfl
    have runs := always_runs (s := s) (f := effSupplyFault .aon) rfl
    exact ⟨runs.1, runs.2, effPor_resets s⟩
  case boot =>
    rintro roleSel testMode i3cAddr s _ hfw href hrun rfl
    exact always_runs (by simp [effBoot, hfw, href, hrun])
  case taproot =>
    rintro s _ href hlock hrun rfl
    exact always_runs (by simp [effTaprootLocked, href, hlock, hrun])
  case booted =>
    rintro b w x u v s t hfw hlock hb hw hx hu hv ht
    refine clocked_runs fun _ => ?_
    have hrom : bootRom s = u := (bootRom_eq hb hw hx).trans hu.symm
    have hup : firmwareUp u = t := (firmwareUp_eq hv).trans ht.symm
    simp [effControllerRestartDone, hfw, hlock, hrom, hup]
  case restarted =>
    rintro b w x u v s t hfw hb hw hx hu hv ht
    refine clocked_runs fun _ => ?_
    have hrom : bootRom s = u := (bootRom_eq hb hw hx).trans hu.symm
    have hup : raise 304 1 (firmwareUp u) = t := (congrArg (raise 304 1) (firmwareUp_eq hv)).trans ht.symm
    simp [effControllerRestartDone, hfw, hrom, hup]
  case ignored =>
    rintro s _ hidle rfl
    refine clocked_runs fun _ => ?_
    rcases hidle with hfw | hfw | ⟨hfw, hlock⟩ <;> simp [effControllerRestartDone, *]
  case hm =>
    rintro s _ rfl
    exact always_runs rfl

end Sys2Proof.Proofs
end

section
/-! PROOFS. Die-to-die modules (R16 to R19), and the state at which O18 fails: reporting the lost crossings sends an interrupt
that has to wait for the identifier that moves. -/

namespace Sys2Proof.Proofs
open Sys2Proof.Machine Sys2Proof.Laws

/-- What D2D_IDENT_MOVE of an identifier reports before its held traffic goes out: `lost` crossings counted and source 161 + 64b
raised. -/
def lossReported (m lost : Nat) (s : State) : State := raise (161 + 64 * (m / 3)) 2 (count (boleKey (m / 3) 0x100) lost s)

/-- O18's sixth clause, where the reports themselves leave nothing waiting: the identifier leaves the module, and no more. -/
theorem effD2dIdentMove_of_nothing_held {m ident lost : Nat} {s : State} (hp : d2dPowered s m = true)
    (hi : (Maps.get [] s.cross.moving m).contains ident = true) (hlost : lost ≠ 0)
    (hheld : (lossReported m lost s).cross.held = []) :
    effD2dIdentMove m ident lost s = { lossReported m lost s with
      cross.moving := Maps.put [] (lossReported m lost s).cross.moving m
        ((Maps.get [] s.cross.moving m).filter (· ≠ ident)) } := by
  rw [lossReported] at *
  simp only [effD2dIdentMove, hp, hi, hlost, hheld, Bool.not_true, Bool.false_eq_true, or_self, if_false, List.filter_nil,
    List.foldl_nil]

/-- PD_E0_QUEUE is ON and host port 0 is UP; its PF's interrupts, identifier 2^26, wait for module 2 of Bole 0 to be over with
that identifier. Source 161 has the event destination as its route, which is unset, and source 307, EVENT_UNSENT, the hosts. -/
def movingInterrupts : State :=
  { State.reset with
    hs.ports := [(0, { st := .up })]
    pw.dom := [(dEng 0 3, { st := .on, wasOff := false })]
    cross.moving := [(2, [identHost 0 0 0])]
    ev.recs := [(161, some { sev := 1, route := 8 }), (307, some { sev := 1, route := 1 })] }

/-- What O18 says that D2D_IDENT_MOVE with one lost crossing leaves: nothing goes out. -/
def statedMove : State :=
  { lossReported 2 1 movingInterrupts with
    cross.moving := Maps.put [] (lossReported 2 1 movingInterrupts).cross.moving 2
      ((Maps.get [] movingInterrupts.cross.moving 2).filter (· ≠ identHost 0 0 0)) }

/-- What it leaves: the interrupt for the event that could not be sent was held for the identifier, and has gone out. -/
def modelMove : State := effD2dIdentMove 2 (identHost 0 0 0) 1 movingInterrupts

/-- Refutes O18 by its sixth clause, which asks that nothing is held before the command (`s.cross.held = []`). In
`movingInterrupts` the report of the lost crossing raises EVENT_UNSENT, whose interrupt is held for the very identifier that
moves (R17), and goes out with the move. Where the reports leave nothing waiting the clause holds
(`effD2dIdentMove_of_nothing_held`). -/
theorem not_dieToDieAndHbm : ¬ Obligations.DieToDieAndHbm := by
  unfold Obligations.DieToDieAndHbm
  rintro ⟨-, -, -, -, -, hmove, -⟩
  have stated : exec (.d2dIdentMove 2 (identHost 0 0 0) 1) movingInterrupts = .next statedMove :=
    (hmove 2 (identHost 0 0 0) 1 movingInterrupts statedMove (by decide) (by decide) rfl (by decide) rfl).2 (by decide +kernel)
  have runs : exec (.d2dIdentMove 2 (identHost 0 0 0) 1) movingInterrupts = .next modelMove :=
    (clocked_runs fun _ => rfl).2 (show quiet movingInterrupts modelMove = true by decide +kernel)
  have same : statedMove = modelMove := by
    rw [stated] at runs
    injection runs
  have waits : statedMove.cross.held = [(0, identHost 0 0 0, .msix 0 0 0)] := by decide +kernel
  have gone : modelMove.cross.held = [] := by decide +kernel
  rw [same, gone] at waits
  cases waits

end Sys2Proof.Proofs
end

section
/-! PROOFS. The port commands (O6: R69, R74, R76, R87, R411). -/

namespace Sys2Proof.Proofs
open Sys2Proof.Machine Sys2Proof.Laws

/-! ### What a port command that is taken tests, in order -/

section
variable {r : GcpReq} {s : State} (ht : taken .none false r s = true)
include ht

theorem effPortEnable_taken :
    effPortEnable r s =
      if portBarred s (pcPort r) then fail r stUnitFenced s
      else if (Maps.get {} s.net.boughs (pcPort r / 4)).refreshing then fail r stBusy s
      else if (port s (pcPort r)).st = .up then ok r [] s else joinTraining (pcPort r) r s := gcp_taken _ ht

theorem effPortDisable_taken :
    effPortDisable r s =
      if !domOn s (dPort (pcPort r)) then ok r [] s
      else if fenced s (pcPort r) then fail r stUnitFenced s else ok r [] (disablePort (pcPort r) s) := gcp_taken _ ht

theorem effPortTrain_taken :
    effPortTrain r s =
      if portBarred s (pcPort r) then fail r stUnitFenced s
      else if (port s (pcPort r)).st = .up then
        if (port s (pcPort r)).wd.own.isSome then fail r stBusy s
        else newOwn (pcPort r) { retrain := true, full := bAt r.words 5 8 } (hold r s)
      else if (port s (pcPort r)).st = .grace then
        hold r (if (port s (pcPort r)).tr.train = .none then updPort (pcPort r) (startTrain (bAt r.words 5 8)) s else s)
      else joinTraining (pcPort r) r s := gcp_taken _ ht

theorem effPortWidth_taken :
    effPortWidth r s =
      if portBarred s (pcPort r) then fail r stUnitFenced s
      else if rwsF s (prtBase (pcPort r)) 0 2 < fAt r.words 5 8 2
          ∨ !maskOk (fAt r.words 5 8 2) (BitVec.ofNat 4 (fAt r.words 5 12 4)) then fail r stBadParam s
      else if (port s (pcPort r)).wd.own.isSome then fail r stBusy s
      else if (port s (pcPort r)).st ≠ .up then fail r stNotPermitted s
      else newOwn (pcPort r) { width := BitVec.ofNat 2 (fAt r.words 5 8 2), mask := BitVec.ofNat 4 (fAt r.words 5 12 4) }
        (hold r s) := gcp_taken _ ht

theorem effPortStatus_taken : effPortStatus r s = ok r (portRegs s (pcPort r)) s := gcp_taken _ ht

end

/-! ### Full training from rest, or joining one -/

theorem joinTraining_at_rest {n : Nat} {r : GcpReq} {s : State} (h : (port s n).st = .disabled ∨ (port s n).st = .failed) :
    joinTraining n r s = hold r (enterTraining n s) := if_pos h

theorem joinTraining_in_progress {n : Nat} {r : GcpReq} {s : State} (hd : (port s n).st ≠ .disabled)
    (hf : (port s n).st ≠ .failed) : joinTraining n r s = hold r s := if_neg (not_or.mpr ⟨hd, hf⟩)

theorem not_barred {s : State} {n : Nat} (h : portBarred s n = false) : fenced s n = false ∧ domOn s (dPort n) = true := by
  simpa [portBarred] using h

/-- Settles O6: each clause is the first test of its command that its hypotheses do not pass, or the action behind them all. -/
theorem portCommands : Obligations.PortCommands := by
  unfold Obligations.PortCommands
  refine ⟨?enableRest, ?enableJoins, ?enableUp, ?disable, ?disableOff, ?trainRest, ?trainJoins, ?trainGrace, ?trainBusyGrace,
    ?trainUp, ?width, ?status, ?enableBarred, ?trainBarred, ?widthBarred, ?disableFenced, ?widthBad, ?widthBusy, ?widthNotUp,
    ?enableRefreshing, ?trainBusy⟩
  case enableRest =>
    rintro r s _ ht hb hr hst rfl
    refine clocked_runs fun _ => ?_
    have hup : (port s (pcPort r)).st ≠ .up := by rcases hst with h | h <;> simp [h]
    simp [effPortEnable_taken ht, hb, hr, hup, joinTraining_at_rest hst]
  case enableJoins =>
    rintro r s _ ht hb hr hst rfl
    refine clocked_runs fun _ => ?_
    have hup : (port s (pcPort r)).st ≠ .up := by rintro h; simp [h] at hst
    have hd : (port s (pcPort r)).st ≠ .disabled := by rintro h; simp [h] at hst
    have hf : (port s (pcPort r)).st ≠ .failed := by rintro h; simp [h] at hst
    simp [effPortEnable_taken ht, hb, hr, hup, joinTraining_in_progress hd hf]
  case enableUp =>
    rintro r s _ ht hb hr hup rfl
    exact clocked_runs fun _ => by simp [effPortEnable_taken ht, hb, hr, hup]
  case disable =>
    rintro r s _ ht hb rfl
    obtain ⟨hf, hd⟩ := not_barred hb
    exact clocked_runs fun _ => by simp [effPortDisable_taken ht, hf, hd]
  case disableOff =>
    rintro r s _ ht hd rfl
    exact clocked_runs fun _ => by simp [effPortDisable_taken ht, hd]
  case trainRest =>
    rintro r s _ ht hb hst rfl
    refine clocked_runs fun _ => ?_
    have hup : (port s (pcPort r)).st ≠ .up := by rcases hst with h | h <;> simp [h]
    have hg : (port s (pcPort r)).st ≠ .grace := by rcases hst with h | h <;> simp [h]
    simp [effPortTrain_taken ht, hb, hup, hg, joinTraining_at_rest hst]
  case trainJoins =>
    rintro r s _ ht hb hst rfl
    refine clocked_runs fun _ => ?_
    have hup : (port s (pcPort r)).st ≠ .up := by rintro h; simp [h] at hst
    have hg : (port s (pcPort r)).st ≠ .grace := by rintro h; simp [h] at hst
    have hd : (port s (pcPort r)).st ≠ .disabled := by rintro h; simp [h] at hst
    have hf : (port s (pcPort r)).st ≠ .failed := by rintro h; simp [h] at hst
    simp [effPortTrain_taken ht, hb, hup, hg, joinTraining_in_progress hd hf]
  case trainGrace =>
    rintro r s _ ht hb hg htr rfl
    exact clocked_runs fun _ => by simp [effPortTrain_taken ht, hb, hg, htr]
  case trainBusyGrace =>
    rintro r s _ ht hb hg htr rfl
    exact clocked_runs fun _ => by simp [effPortTrain_taken ht, hb, hg, htr]
  case trainUp =>
    rintro r s _ ht hb hup hown rfl
    exact clocked_runs fun _ => by simp [effPortTrain_taken ht, hb, hup, hown]
  case width =>
    rintro r s _ ht hb hup hown hw hm rfl
    exact clocked_runs fun _ => by simp [effPortWidth_taken ht, hb, hup, hown, not_lt.mpr hw, hm]
  case status =>
    rintro r s _ ht rfl
    exact clocked_runs fun _ => effPortStatus_taken ht
  case enableBarred =>
    rintro r s _ ht hb rfl
    exact clocked_runs fun _ => by simp [effPortEnable_taken ht, hb]
  case trainBarred =>
    rintro r s _ ht hb rfl
    exact clocked_runs fun _ => by simp [effPortTrain_taken ht, hb]
  case widthBarred =>
    rintro r s _ ht hb rfl
    exact clocked_runs fun _ => by simp [effPortWidth_taken ht, hb]
  case disableFenced =>
    rintro r s _ ht hd hf rfl
    exact clocked_runs fun _ => by simp [effPortDisable_taken ht, hd, hf]
  case widthBad =>
    rintro r s _ ht hb hbad rfl
    exact clocked_runs fun _ => by simp [effPortWidth_taken ht, hb, hbad]
  case widthBusy =>
    rintro r s _ ht hb hw hm hown rfl
    exact clocked_runs fun _ => by simp [effPortWidth_taken ht, hb, not_lt.mpr hw, hm, hown]
  case widthNotUp =>
    rintro r s _ ht hb hw hm hown hup rfl
    exact clocked_runs fun _ => by simp [effPortWidth_taken ht, hb, not_lt.mpr hw, hm, hown, hup]
  case enableRefreshing =>
    rintro r s _ ht hb hr rfl
    exact clocked_runs fun _ => by simp [effPortEnable_taken ht, hb, hr]
  case trainBusy =>
    rintro r s _ ht hb hup hown rfl
    exact clocked_runs fun _ => by simp [effPortTrain_taken ht, hb, hup, hown]

end Sys2Proof.Proofs
end

section
/-! PROOFS. The timers of a network port (O7: R63, R64, R68, R69, R75, R76, R79, R82 to R86, R387). -/

namespace Sys2Proof.Proofs
open Sys2Proof.Machine Sys2Proof.Laws

/-! ### Leaving GRACE and the end of spilling -/

/-- The grace period of a port that raising FLUSH leaves in GRACE is over: it flushes, and AUTO_RETRAIN says where it goes. -/
theorem graceEnd_of_grace {n : Nat} {s : State} (h : (port s n).st = .grace) :
    graceEnd n s = graceLost n (raise n 2 s) := if_neg (not_not.mpr h)

theorem graceLost_of_grace {n : Nat} {s u : State} (h : (port s n).st = .grace) (hu : u = leftGrace n (flushPort n s)) :
    graceLost n s = if rwsF u (prtBase n) 4 1 = 1 then
        updPort n (fun p => { p with
          st := .training
          tr := { p.tr with
            train := if p.tr.train = .none then .full else p.tr.train, locked := false, goodRun := 0, badRun := 0
            identOk := false, syncGot := 0, keyGot := false } }) u
      else portFailed n (updPort n (fun p => { p with st := .failed, tr := { coef := p.tr.coef } }) u) := by
  subst hu
  exact if_neg (not_not.mpr h)

theorem endHeld_of_none_stopping {s : State} (h : s.net.ports.any (fun e => e.2.spillStop) = false) :
    endHeld s = updDom dHbm (fun d => { d with held := false }) s := by
  rw [endHeld, if_neg (by simp [h])]

/-! ### Resending -/

theorem retransmit_up {n : Nat} {s : State} (hup : (port s n).st = .up) (hw : (port s n).rp.window ≠ []) :
    retransmit n s = if 8 ≤ (port s n).rp.retries then linkFailure n none s
      else inc (prtCtr n 7) (updPort n (fun p => { p with
        rp := { p.rp with resend := some 0, heard := true, retries := p.rp.retries + 1 } }) s) :=
  if_neg (by simp [hup, hw])

theorem effWidthReqResend_up {n : Nat} {s : State} {o : LinkReq} (hup : (port s n).st = .up)
    (ho : (port s n).wd.own = some o) :
    effWidthReqResend n s = if o.sends < 4 then
        sendOwn n o (updPort n (fun p => { p with wd := { p.wd with own := some { o with sends := o.sends + 1 } } }) s)
      else if o.retrain then linkFailure n (some o.full) s else linkFailure n none (dropOwn n stSuperseded o s) := by
  simp only [effWidthReqResend, ho, hup, ne_eq, not_true, if_false]

/-- Settles O7: each clause is its timer's effect in the state that its hypotheses name. -/
theorem portTimers : Obligations.PortTimers := by
  unfold Obligations.PortTimers
  refine ⟨?trained, ?retrained, ?trainTimeout, ?lockTimeout, ?quickFails, ?graceExpires, ?relockTimeout, ?replays,
    ?replaysEnd, ?requestsEnd, ?requestsAgain, ?timeExchange, ?ident, ?gossip, ?keySwitch, ?spillStops⟩
  case trained =>
    rintro n s _ hst rfl
    exact clocked_runs fun _ => by simp only [effTrainingDone, hst, if_true]
  case retrained =>
    rintro n s _ hst htr rfl
    exact clocked_runs fun _ => by simp [effTrainingDone, hst, htr]
  case trainTimeout =>
    rintro n s _ hst rfl
    exact clocked_runs fun _ => if_pos hst
  case lockTimeout =>
    rintro n s _ hst rfl
    exact clocked_runs fun _ => if_pos hst
  case quickFails =>
    rintro n s _ hst htr rfl
    exact clocked_runs fun _ => if_pos ⟨hst, htr⟩
  case graceExpires =>
    rintro n s _ hst hst' rfl
    exact clocked_runs fun _ => (graceEnd_of_grace hst).trans (graceLost_of_grace hst' rfl)
  case relockTimeout =>
    rintro n s _ hsw hl rfl
    exact clocked_runs fun _ => by simp [effWidthRelockTimeout, hsw, hl]
  case replays =>
    rintro n s _ hup hw hr rfl
    exact clocked_runs fun _ => (retransmit_up hup hw).trans (if_neg (not_le.mpr hr))
  case replaysEnd =>
    rintro n s _ hup hw hr rfl
    exact clocked_runs fun _ => (retransmit_up hup hw).trans (if_pos hr)
  case requestsEnd =>
    rintro n o s _ hup ho hs rfl
    exact clocked_runs fun _ => (effWidthReqResend_up hup ho).trans (if_neg (not_lt.mpr hs))
  case requestsAgain =>
    rintro n o s _ hup ho hs rfl
    exact clocked_runs fun _ => (effWidthReqResend_up hup ho).trans (if_pos hs)
  case timeExchange =>
    rintro n s _ hup rfl
    exact clocked_runs fun _ => if_neg (not_not.mpr hup)
  case ident =>
    rintro n s _ hup rfl
    exact clocked_runs fun _ => if_neg (not_not.mpr hup)
  case gossip =>
    rintro n s _ hup rfl
    exact clocked_runs fun _ => if_neg (not_not.mpr hup)
  case keySwitch =>
    rintro n k s _ hk hw hq hb rfl
    exact clocked_runs fun _ => by simp only [effKeySwitch, hk, hw, hq, hb, and_self, if_true]
  case spillStops =>
    rintro n s _ hstop hcells hnone rfl
    exact clocked_runs fun _ => (if_pos ⟨hstop, hcells⟩).trans (endHeld_of_none_stopping hnone)

end Sys2Proof.Proofs
end

section
/-! PROOFS. Codeword groups sent (R49, R59 to R63, R86), and the state at which O8 fails: one where a word that waits as GOSSIP
is none. -/

namespace Sys2Proof.Proofs
open Sys2Proof.Machine Sys2Proof.Laws

/-! ### What a port that is UP puts into its next group -/

section
variable (s : State) (n : Nat)

/-- The queued link words for which the next group has room. -/
def queuedWords : List LinkWord := (port s n).rp.words.take (160 - (groupWords s n).length)

/-- The link words of the next group. -/
def sentWords : List LinkWord := groupWords s n ++ (queuedWords s n).filterMap (stampWord (stamp s))

/-- Its control flits. -/
def controlFlits : Nat := ((sentWords s n).length + 3) / 4

/-- Where in the replay window it begins. -/
def sendFrom : Nat := (port s n).rp.resend.getD (port s n).rp.window.length

/-- The CSN of its first data cell. -/
def firstCsn : Nat := modSub 18 ((port s n).rp.txCsn.toNat + sendFrom s n) (port s n).rp.window.length

/-- The cells to be sent again. -/
def cellsAgain : List (Cell64 × Bool) := (port s n).rp.window.drop (sendFrom s n)

/-- Its data cells, where all of the replay memory can be read. -/
def sentCells : List (Cell64 × Bool) :=
  (cellsAgain s n ++ (port s n).rp.txq.take (txAvail s n)).take (40 - controlFlits s n)

/-- The number of its new cells. -/
def newCells : Nat := sendFrom s n + (sentCells s n).length - (port s n).rp.window.length

/-- The replay window behind it. -/
def windowAfter : List (Cell64 × Bool) := (port s n).rp.window ++ (port s n).rp.txq.take (newCells s n)

/-- Its header, without WIDTH_NEXT. -/
def sentHeader : Word :=
  pack [(0, 18, firstCsn s n), (18, 6, controlFlits s n), (24, 6, (sentCells s n).length), (30, 1, 0),
    (31, 1, b2n (port s n).kpTx)]

/-- Its link words with the fill of its last control flit. -/
def sentFlits : List LinkWord :=
  sentWords s n ++ List.replicate (4 * controlFlits s n - (sentWords s n).length) (mkLw 0 [])

/-- Its four codewords, and the scrambler behind it. -/
def sentLine : List Nat × Nat :=
  encodeGroup (port s n).scrTx.toNat (sentHeader s n) (sentFlits s n) ((sentCells s n).map (fun c => c.1))

/-- The group has left, and nothing more has come of it. -/
def groupSent : State :=
  emit (.group n (sentHeader s n) (sentFlits s n) ((sentCells s n).map (fun c => c.1)) (sentLine s n).1)
    (eccWrite (fun e => e.1 == eccReplay n && decide (modSub 18 e.2 (port s n).rp.txCsn.toNat < newCells s n))
      (updPort n (fun p => { p with
        cr := { p.cr with due := 0, sentAt := if p.cr.sentAt + 900 ≤ s.time.now then s.time.now else p.cr.sentAt }
        rp := { p.rp with
          words := p.rp.words.drop (160 - (groupWords s n).length)
          gossip := []
          window := windowAfter s n
          txq := (port s n).rp.txq.drop (newCells s n)
          resend := if (windowAfter s n).length ≤ sendFrom s n + (sentCells s n).length then none
            else p.rp.resend.map (fun _ => sendFrom s n + (sentCells s n).length)
          txCsn := p.rp.txCsn + BitVec.ofNat 18 (newCells s n)
          ackDue := false
          nakDue := false
          ackGroups := if p.rp.ackDue then 0 else p.rp.ackGroups }
        scrTx := BitVec.ofNat 58 (sentLine s n).2 }) s))

end


/-! ### The TYPE of a word that is sent -/

theorem sumN_cons (a : Nat) (l : List Nat) : sumN (a :: l) = a + sumN l := by
  simp only [sumN, ← List.sum_eq_foldl, List.sum_cons]

/-- Fields above bit 7 leave TYPE as it is. -/
theorem fields_above_type (fs : List (Nat × Nat × Nat)) (hfs : ∀ f ∈ fs, 8 ≤ f.1) :
    256 ∣ sumN (fs.map (fun f => at_ f.1 f.2.1 f.2.2)) := by
  induction fs with
  | nil => exact ⟨0, rfl⟩
  | cons f fs ih =>
    rw [List.map_cons, sumN_cons]
    refine Nat.dvd_add ?_ (ih fun g hg => hfs g (List.mem_cons_of_mem _ hg))
    rw [at_, Nat.shiftLeft_eq]
    exact Dvd.dvd.mul_left (pow_dvd_pow 2 (hfs f List.mem_cons_self) : 2 ^ 8 ∣ 2 ^ f.1) _

theorem lwF_mkLw_type {ty : Nat} {fs : List (Nat × Nat × Nat)} (hty : ty < 256) (hfs : ∀ f ∈ fs, 8 ≤ f.1) :
    lwF (mkLw ty fs) 0 8 = ty := by
  obtain ⟨k, hk⟩ := fields_above_type fs hfs
  simp only [lwF, bitsN, mkLw, hk, BitVec.toNat_ofNat, Nat.shiftRight_zero]
  omega

theorem creditWord_type {ty : Nat} (hty : ty < 256) (m : TMap (BitVec 24)) (g : Nat) : lwF (creditWord ty m g) 0 8 = ty := by
  refine lwF_mkLw_type hty fun f hf => ?_
  simp only [List.mem_cons, List.mem_map] at hf
  rcases hf with rfl | ⟨i, -, rfl⟩ <;> dsimp only <;> omega

/-- A word that R84 stamps keeps its TYPE. -/
theorem stampWord_type {t : Nat} {w v : LinkWord} (h : stampWord t w = some v) : lwF v 0 8 = lwF w 0 8 := by
  unfold stampWord at h
  split at h
  · rename_i hw
    rw [← Option.some.inj h, lwF_mkLw_type (by decide) (by simp), hw]
  · split at h
    · rename_i hw
      dsimp only at h
      split at h
      · cases h
      · rw [← Option.some.inj h, lwF_mkLw_type (by decide) (by simp), hw]
    · rw [Option.some.inj h]

/-- Of the words that a port in UP puts before the queued ones, only its GOSSIP words are not made for the group. -/
theorem groupWords_type {s : State} {n : Nat} {w : LinkWord} (hup : (port s n).st = .up) (hw : w ∈ groupWords s n) :
    w ∈ (port s n).rp.gossip ∨ lwF w 0 8 ∈ [1, 2, 3, 4] := by
  have hintro : introducing (port s n) = false := by simp [introducing, hup]
  simp only [groupWords, hintro, Bool.false_eq_true, if_false, List.append_nil, List.mem_append, List.mem_ite_nil_right,
    List.mem_map, List.mem_singleton] at hw
  rcases hw with (⟨-, hgossip⟩ | ⟨-, g, -, rfl⟩) | ⟨-, (⟨g, -, rfl⟩ | ⟨-, rfl⟩) | ⟨-, rfl⟩⟩
  · exact .inl hgossip
  · exact .inr (by simp [creditWord_type])
  · exact .inr (by simp [creditWord_type])
  · exact .inr (by simp [lwF_mkLw_type])
  · exact .inr (by simp [lwF_mkLw_type])

/-- A port whose GOSSIP words and queued words hold no RETRAIN_ACK sends none. -/
theorem sentWords_no_retrainAck {s : State} {n : Nat} (hup : (port s n).st = .up)
    (hgossip : ∀ w ∈ (port s n).rp.gossip, lwF w 0 8 ≠ 0x14) (hqueue : ∀ w ∈ queuedWords s n, lwF w 0 8 ≠ 0x14) :
    (sentWords s n).find? (fun w => lwF w 0 8 == 0x14) = none := by
  simp only [List.find?_eq_none, beq_iff_eq, sentWords, List.mem_append, List.mem_filterMap]
  rintro w (hw | ⟨v, hv, hst⟩) ht
  · rcases groupWords_type hup hw with hg | hty
    · exact hgossip w hg ht
    · simp [ht] at hty
  · exact hqueue v hv (stampWord_type hst ▸ ht)

/-- GOSSIP_TIMER puts GOSSIP words there, and no others (R86). -/
theorem effGossipTimer_type {s : State} {n : Nat} (hup : (port s n).st = .up) :
    ∀ w ∈ (port (effGossipTimer n s) n).rp.gossip, lwF w 0 8 = 0x30 := by
  intro w hw
  simp only [effGossipTimer, hup, ne_eq, not_true, if_false, port_updPort_same, List.mem_map] at hw
  obtain ⟨part, -, rfl⟩ := hw
  refine lwF_mkLw_type (by decide) fun f hf => ?_
  simp only [List.mem_append, List.mem_cons, List.mem_map, List.not_mem_nil, or_false] at hf
  rcases hf with (rfl | rfl) | ⟨i, -, rfl⟩ <;> dsimp only <;> omega

/-! ### GROUP_TRANSMIT in UP -/

@[simp] theorem net_eccWrite (p : Nat × Nat → Bool) (s : State) : (eccWrite p s).net = s.net := by
  unfold eccWrite
  split <;> rfl

@[simp] theorem hbmOk_eccWrite (p : Nat × Nat → Bool) (s : State) : hbmOk (eccWrite p s) = hbmOk s := by
  unfold eccWrite
  split <;> rfl

@[simp] theorem port_eccWrite (p : Nat × Nat → Bool) (s : State) (n : Nat) : port (eccWrite p s) n = port s n := by
  rw [port, net_eccWrite, port]

@[simp] theorem outp_groupSent (s : State) (n o : Nat) : outp (groupSent s n) o = outp s o := by
  simp only [outp, groupSent, emit_net, net_eccWrite, updPort_net_outs]

/-- An output that carries no ASD packet is sending none. -/
theorem sendingAsd_of_other_class {s : State} {o : Nat} (h : (outp s o).busy.all (fun x => clsOf x.pkt != 2) = true) :
    sendingAsd s o = none := by
  unfold sendingAsd
  split
  · rename_i x hx
    rw [hx] at h
    exact if_pos (by simpa using h)
  · rfl

/-- The cells to be sent that the next group leaves unsent. -/
def unsentCells (s : State) (n : Nat) : List (Cell64 × Bool) := (port s n).rp.txq.drop (newCells s n)

/-- Where a resend that has not come to its end goes on. -/
theorem resumed_option {c : Prop} [Decidable c] (r : Option Nat) (k : Nat) :
    (if (if c then none else r).isSome = true then some k else if c then none else r) = if c then none else r.map fun _ => k := by
  by_cases hc : c
  · simp [hc]
  · cases r <;> simp [hc]

/-- GROUP_TRANSMIT at a port that is UP, holds lock, knows which of its cells the partner has and can read its replay memory,
where neither its queued words nor its GOSSIP words ask for more: the group leaves; one that leaves a packet's cells unsent though
it has room for more, or no data cell, is an underrun (R129), and one that takes the packet's last cell ends it. -/
theorem effGroupTransmit_up {s : State} {n : Nat} (hup : (port s n).st = .up) (hlock : (port s n).tr.locked = true)
    (hdata : (port s n).rp.heard = true ∨ (port s n).rp.window = []) (hspill : spillOn s n = false)
    (hasd : (outp s n).busy.all (fun h => clsOf h.pkt != 2) = true)
    (hqueued : (queuedWords s n).all (fun w => lwF w 0 8 != 0x11 && lwF w 0 8 != 0x14 && lwF w 0 8 != 0x20) = true)
    (hgossip : ∀ w ∈ (port s n).rp.gossip, lwF w 0 8 ≠ 0x14)
    (hsound : soundCells s n (firstCsn s n) (cellsAgain s n).length = (cellsAgain s n).length)
    (hwidth : (port s n).wd.txSwitch = none) {t : State}
    (ht : t = if unsentCells s n ≠ [] ∧ (outp s n).hold = false ∧
        ((sentCells s n).length < 40 - controlFlits s n ∨ sentCells s n = [])
      then raise 154 0x10 (inc (shpBase n + 0x40 + 8 * 9) (groupSent s n)) else groupSent s n) :
    effGroupTransmit n s = if (port s n).rp.txq ≠ [] ∧ unsentCells s n = [] then endTx n t else t := by
  have hgroup : grouping (port s n) = true := by simp [grouping, hup]
  have hintro : introducing (port s n) = false := by simp [introducing, hup]
  have hmay : mayData (port s n) = true := by rcases hdata with h | h <;> simp [mayData, hup, h]
  have hqueued' : ∀ w ∈ queuedWords s n, (lwF w 0 8 ≠ 0x11 ∧ lwF w 0 8 ≠ 0x14) ∧ lwF w 0 8 ≠ 0x20 := by
    simpa using hqueued
  have h14 := sentWords_no_retrainAck hup hgossip fun w hw => (hqueued' w hw).1.2
  unfold effGroupTransmit
  -- Each value that the definition works out is the one that is named above for a port in UP.
  extract_lets p locked own words queue room sentW nc flits pos may old sound data met fresh window txq csn resend resend'
    cut next whole wnext hdr reqs acked enc all s1 s2 s3 spilled s4 s5 s6 s7 s8
  rw [if_neg (by simp [p, hgroup])]
  have hlocked : locked = true := hlock
  have hwords : words = (port s n).rp.words := if_neg (by simp [p, hintro])
  have hqueue : queue = (port s n).rp.words := by simp only [queue, hlocked, hwords, if_true]
  have hsentW : sentW = sentWords s n := by simp only [sentW, hqueue]; rfl
  have hnc : nc = controlFlits s n := by simp only [nc, hsentW]; rfl
  have hflits : flits = sentFlits s n := by simp only [flits, hsentW, hnc]; rfl
  have hmay' : may = true := hmay
  have hsound' : sound = old.length := hsound
  have hdat : data = sentCells s n := by
    simp only [data, hmay', hsound', hnc, Bool.not_true, Bool.false_eq_true, lt_self_iff_false, if_false]
    rfl
  have hmet : ¬ met := fun h => absurd h.2.1 (by simp [hsound'])
  have hfresh : fresh = newCells s n := by simp only [fresh, hdat]; rfl
  have hwindow : window = windowAfter s n := by simp only [window, hfresh]; rfl
  have htxq : txq = unsentCells s n := by simp only [txq, hfresh]; rfl
  have hpos : pos = sendFrom s n := rfl
  have hresend : resend' = if (windowAfter s n).length ≤ sendFrom s n + (sentCells s n).length then none
      else (port s n).rp.resend.map (fun _ => sendFrom s n + (sentCells s n).length) := by
    simp only [resend', resend, hmay', hwindow, hdat, hpos, true_and]
    exact resumed_option ..
  have hwnext : wnext = false := by simp only [wnext, p, hwidth]
  have hhdr : hdr = sentHeader s n := by simp only [hdr, hdat, hnc, hwnext]; rfl
  have henc : enc = sentLine s n := by simp only [enc, hhdr, hflits, hdat]; rfl
  have hreqs : reqs = [] := by
    simp only [reqs, hqueue]
    exact List.filter_eq_nil_iff.mpr fun w hw => by simpa using (hqueued' w hw).2
  have hacked : acked = false := by
    simp only [acked, hqueue]
    exact List.any_eq_false.mpr fun w hw => by simpa using (hqueued' w hw).1.1
  have hs3 : s3 = s2 := if_neg hmet
  have hspill' : spillOn s3 n = false := by
    rw [← hspill, hs3]
    simp only [spillOn, s2, s1, port_eccWrite, hbmOk_eccWrite, port_updPort_same]
    rfl
  have hs4 : s4 = s3 := if_neg (by simp [hspill'])
  have hs5 : s5 = groupSent s n := by
    simp only [s5, hs4, hs3, s2, s1, hhdr, hflits, hdat, henc, hlocked, hfresh, hwindow, htxq, hresend, hreqs, hacked, hwnext,
      hwords, if_true, Bool.false_or, List.foldl_nil, Bool.false_eq_true, if_false, true_and]
    rfl
  have hs6 : s6 = groupSent s n := by
    have hnone : sendingAsd (groupSent s n) n = none := sendingAsd_of_other_class (by rw [outp_groupSent]; exact hasd)
    simp only [s6, hs5, hnone, Option.isSome_none, Bool.false_eq_true, false_and, if_false]
  have hs7 : s7 = t := by
    simp only [s7, hs6, htxq, hdat, hnc, outp_groupSent, Bool.not_eq_true', ht]
  rw [hsentW, h14]
  simp only [s8, hs7, htxq]
  rfl

/-- O8's clause of a port with no new cell to send, where no GOSSIP word is a RETRAIN_ACK: the group leaves, and no more. -/
theorem effGroupTransmit_no_new_cells {s : State} {n : Nat} (hup : (port s n).st = .up) (hlock : (port s n).tr.locked = true)
    (hdata : (port s n).rp.heard = true ∨ (port s n).rp.window = []) (hspill : spillOn s n = false)
    (hasd : (outp s n).busy.all (fun h => clsOf h.pkt != 2) = true)
    (hqueued : (queuedWords s n).all (fun w => lwF w 0 8 != 0x11 && lwF w 0 8 != 0x14 && lwF w 0 8 != 0x20) = true)
    (hgossip : ∀ w ∈ (port s n).rp.gossip, lwF w 0 8 ≠ 0x14)
    (hsound : soundCells s n (firstCsn s n) (cellsAgain s n).length = (cellsAgain s n).length)
    (hwidth : (port s n).wd.txSwitch = none) (htxq : (port s n).rp.txq = []) :
    effGroupTransmit n s = groupSent s n := by
  have hunsent : unsentCells s n = [] := by rw [unsentCells, htxq, List.drop_nil]
  rw [effGroupTransmit_up hup hlock hdata hspill hasd hqueued hgossip hsound hwidth rfl, if_neg (fun h => h.1 htxq),
    if_neg (fun h => h.1 hunsent)]

/-! ### The counterexample -/

/-- Port 0 is UP and holds lock, and the one word that waits for its next group as GOSSIP is a RETRAIN_ACK. GOSSIP_TIMER,
which fills the field, puts no such word there (`effGossipTimer_type`). -/
def strayRetrainAck : State :=
  { State.reset with net.ports := [(0, { st := .up, tr := { locked := true }, rp := { gossip := [mkLw 0x14 []] } })] }

/-- What O8 says that GROUP_TRANSMIT leaves: the group has gone, and the port is UP. -/
def statedGroup : State := groupSent strayRetrainAck 0

/-- What it leaves: the RETRAIN_ACK has gone with the group, and the link has failed (R79). -/
def modelGroup : State := effGroupTransmit 0 strayRetrainAck

/-- Refutes O8 by its clause of a port with no new cell to send, which asks of the queued link words that none is a RETRAIN_ACK
and of the words that wait as GOSSIP nothing. In `strayRetrainAck` one of those is a RETRAIN_ACK: it goes out with the group and
fails the link. Where none is, the clause holds (`effGroupTransmit_no_new_cells`). -/
theorem not_lanesAndGroups : ¬ Obligations.LanesAndGroups := by
  unfold Obligations.LanesAndGroups
  rintro ⟨-, -, -, -, -, -, -, -, -, -, -, -, -, -, -, -, -, -, -, -, -, -, -, -, -, -, -, hsend, -⟩
  have stated : exec (.groupTransmit 0) strayRetrainAck = .next statedGroup :=
    (hsend 0 (sentWords strayRetrainAck 0) (controlFlits strayRetrainAck 0) (sendFrom strayRetrainAck 0)
      (newCells strayRetrainAck 0) (sentCells strayRetrainAck 0) (windowAfter strayRetrainAck 0)
      (unsentCells strayRetrainAck 0) (sentHeader strayRetrainAck 0) (sentLine strayRetrainAck 0) statedGroup
      strayRetrainAck statedGroup (by decide) (by decide) (by decide) (by decide) (by decide) (by decide) rfl rfl rfl
      (by decide) rfl rfl rfl rfl (by decide) rfl rfl rfl (by decide) rfl).2 (by decide +kernel)
  have runs : exec (.groupTransmit 0) strayRetrainAck = .next modelGroup :=
    (clocked_runs fun _ => rfl).2 (show quiet strayRetrainAck modelGroup = true by decide +kernel)
  have same : statedGroup = modelGroup := by
    rw [stated] at runs
    injection runs
  have up : (port statedGroup 0).st = .up := by decide +kernel
  have failed : (port modelGroup 0).st = .grace := by decide +kernel
  rw [same, failed] at up
  cases up

end Sys2Proof.Proofs
end

section
/-! PROOFS. Packets that a step of the arrival order drops (O25: R59, R91, R94, R113, R115, R119, R120, R467, R497). -/

namespace Sys2Proof.Proofs
open Sys2Proof.Machine Sys2Proof.Laws

/-! ### The record of an arriving packet -/

/-- What a packet arrives with where its port has no record of it: it has come whole. -/
def wholeArrival (p : Packet) : Arrival := { n := lenOf p, vc := Packet.vcOf p, whole := true, arrived := true }

theorem arrivalOf_without_record {i : Nat} (p : Packet) {s : State} (hi : i < 64) (hrx : (port s i).rp.rx = []) :
    arrivalOf s i p = wholeArrival p := by
  have hm : i ≠ 68 := by omega
  simp [arrivalOf, hi, hrx, hm, wholeArrival]

theorem arrivalOf_internal {i : Nat} (p : Packet) (s : State) (hi : 64 ≤ i) (hm : i < 68) :
    arrivalOf s i p = wholeArrival p := by
  have hm : i ≠ 68 := by omega
  simp [arrivalOf, not_lt.mpr hi, hm, wholeArrival]

theorem arrivalOf_record {i : Nat} (p : Packet) {s : State} {e : Arrival} (hi : i < 64) (hrx : (port s i).rp.rx = [e])
    (ha : e.arrived = false) : arrivalOf s i p = { e with arrived := true } := by
  simp [arrivalOf, hi, hrx, ha]

/-! ### What a drop frees (R59) -/

theorem dropArrival_whole (i : Nat) (p : Packet) (s : State) :
    dropArrival i (wholeArrival p) s = creditInput i (Packet.vcOf p) (lenOf p) s := rfl

theorem dropArrival_in_reception {i : Nat} {e : Arrival} (s : State) (h : e.whole = false) :
    dropArrival i e s = dropRx i s := by simp [dropArrival, freePool, h]

/-- An internal port has no pool. -/
theorem dropArrival_internal {i : Nat} (p : Packet) (s : State) (hi : 64 ≤ i) : dropArrival i (wholeArrival p) s = s := by
  simp [dropArrival_whole, creditInput, not_lt.mpr hi]

/-! ### Up to step 3 of R497 -/

/-- A network port notes the time of a packet that is not of class MGT. -/
def noteData (i : Nat) (s : State) : State :=
  updPort i (fun x => { x with gr := { x.gr with lastData := some s.time.now } }) s

/-- A packet of a class other than MGT at a network port that is UP and has no record of it. -/
theorem effPacketArrive_without_record {i : Nat} {p : Packet} {s : State} (hi : i < 64) (hon : domOn s (dPort i) = true)
    (hup : (port s i).st = .up) (hrx : (port s i).rp.rx = []) (hcls : clsOf p ≠ 3) :
    effPacketArrive i p s =
      if (port s i).gr.quar then dropArrival i (wholeArrival p) (inc (cnpCtr 44) (noteData i s))
      else if p.ptype = 8 ∨ p.ptype = 9 then dropArrival i (wholeArrival p) (cnpDrop 8 (noteData i s))
      else arriveRouted i (wholeArrival p) p (noteData i s) := by
  have hn : ¬ 64 ≤ i := not_le.mpr hi
  cases hq : (port s i).gr.quar <;>
    simp [effPacketArrive, hi, hn, hon, hup, hrx, hcls, hq, arrivalOf_without_record p hi hrx, noteData]

/-- The same where the port has the record of a packet still in reception: the record is marked as routed. -/
theorem effPacketArrive_in_reception {i : Nat} {p : Packet} {e : Arrival} {s : State} (hi : i < 64)
    (hon : domOn s (dPort i) = true) (hrx : (port s i).rp.rx = [e]) (ha : e.arrived = false) (hw : e.whole = false)
    (hq : (port s i).gr.quar = false) (hcls : clsOf p ≠ 3) (hx : ¬ (p.ptype = 8 ∨ p.ptype = 9)) :
    effPacketArrive i p s = arriveRouted i { e with arrived := true } p
      (noteData i (updPort i (fun x => { x with rp := { x.rp with rx := [{ e with arrived := true }] } }) s)) := by
  have hn : ¬ 64 ≤ i := not_le.mpr hi
  have hrec : updPort i (fun x => { x with rp := { x.rp with rx := rxTaken x.rp.rx } }) s =
      updPort i (fun x => { x with rp := { x.rp with rx := [{ e with arrived := true }] } }) s := by
    simp only [updPort, hrx, rxTaken, ha, hw, Bool.false_eq_true, if_false]
  simp only [effPacketArrive, hi, hn, hon, hrx, ha, hcls, hx, arrivalOf_record p hi hrx ha, hrec, noteData, List.all_cons,
    port_updPort_same, hq, Bool.not_true, Bool.false_eq_true, Bool.false_and, and_false, false_and, true_and, or_self,
    if_false, ne_eq, reduceCtorEq, not_false_eq_true, if_true, updPort_time]

/-- A packet from an N port that is usable. -/
theorem effPacketArrive_internal {i : Nat} {p : Packet} {s : State} (hi : 64 ≤ i) (hm : i < 68)
    (hus : internalUsable s i = true) (hx : ¬ (p.ptype = 8 ∨ p.ptype = 9)) :
    effPacketArrive i p s = arriveRouted i (wholeArrival p) p s := by
  simp only [effPacketArrive, hi, not_lt.mpr hi, hus, hx, arrivalOf_internal p s hi hm, Bool.not_true, Bool.false_eq_true,
    false_and, and_false, or_self, if_false]

/-! ### Steps 3 to 7 of R497: the first that fails drops the packet -/

section
variable {i : Nat} {e : Arrival} {p : Packet} {s : State}

theorem arriveRouted_no_dest (hd : p.dest = eidNone) : arriveRouted i e p s = dropArrival i e (cnpDrop 7 s) := if_pos hd

theorem arriveRouted_spoofed (hi : 64 ≤ i) (hm : i < 68) (hd : p.dest ≠ eidNone) (hsrc : p.src ≠ hostEid s (i - 64)) :
    arriveRouted i e p s = dropArrival i e (cnpDrop 8 s) := by simp [arriveRouted, hd, hi, hm, hsrc]

theorem arriveRouted_max_hops (hi : i < 64) (hd : p.dest ≠ eidNone) (hh : rwsF s 0x104 20 6 ≤ p.hop.toNat) :
    arriveRouted i e p s = dropArrival i e (cnpDrop 3 s) := by
  simp [arriveRouted, hd, hi, not_le.mpr hi, hh]

theorem arriveRouted_bad_mode (hi : 64 ≤ i) (hd : p.dest ≠ eidNone) (hsrc : p.src = hostEid s (i - 64)) (hmode : p.mode = 2)
    (htree : ¬ (p.ptype = 0x40 ∨ p.ptype = 0x41)) : arriveRouted i e p s = dropArrival i e (cnpDrop 6 s) := by
  simp only [arriveRouted, hd, not_lt.mpr hi, hsrc, hmode, htree, ne_eq, not_true, false_and, and_false, and_self,
    not_false_eq_true, if_false, if_true]

/-- A packet of class REQ whose epoch names the bank that is not active while that one may not route. -/
theorem bankOf_stale (he : p.epoch ≠ activeEpoch s)
    (hb : s.stage.bank = .opened ∨ s.stage.bank = .ready ∨ s.stage.bank = .copying) : bankOf p s = (s, none) := by
  rcases hb with hb | hb | hb <;> simp [bankOf, he, hb]

theorem arriveRouted_stale (hi : i < 64) (hd : p.dest ≠ eidNone) (hh : p.hop.toNat < rwsF s 0x104 20 6) (hmode : p.mode ≠ 2)
    (htree : ¬ (p.ptype = 0x40 ∨ p.ptype = 0x41)) (hcls : p.cls = 0) (hbank : bankOf p s = (s, none)) :
    arriveRouted i e p s = dropArrival i e (cnpDrop 4 s) := by
  have h2 : clsOf p ≠ 2 := by simp [clsOf, hcls]
  have h3 : clsOf p ≠ 3 := by simp [clsOf, hcls]
  simp only [arriveRouted, hd, hi, not_le.mpr hi, not_le.mpr hh, hmode, htree, h2, h3, hbank, false_and, and_false, if_false,
    if_true, Bool.not_true, Bool.false_eq_true]

theorem arriveRouted_no_replica (hi : 64 ≤ i) (hd : p.dest ≠ eidNone) (hsrc : p.src = hostEid s (i - 64))
    (hmode : p.mode ≠ 2) (htree : ¬ (p.ptype = 0x40 ∨ p.ptype = 0x41)) (hcls : p.cls = 0)
    (hk : lookupBough s (homeBough i) = none) : arriveRouted i e p s = dropArrival i e (cnpDrop 0 s) := by
  have h2 : ∀ q : Packet, q.cls = p.cls → clsOf q ≠ 2 := by rintro q hq; simp [clsOf, hq, hcls]
  have h3 : ∀ q : Packet, q.cls = p.cls → clsOf q ≠ 3 := by rintro q hq; simp [clsOf, hq, hcls]
  simp only [arriveRouted, hd, not_lt.mpr hi, hsrc, hmode, htree, h2, h3, bankOf, hk, ne_eq, not_true, false_and, and_false,
    if_false, if_true, Bool.not_true, Bool.false_eq_true]

end

/-! ### A packet that its port does not take -/

theorem effPacketArrive_not_taken {i : Nat} {p : Packet} {s : State}
    (h : (i < 64 ∧ (domOn s (dPort i) = false ∨ ((port s i).st ≠ .up ∧ (port s i).rp.rx = [])))
      ∨ (64 ≤ i ∧ internalUsable s i = false)) : effPacketArrive i p s = s := by
  refine if_pos ?_
  rcases h with ⟨hi, hoff | ⟨hup, hrx⟩⟩ | ⟨hi, hus⟩
  · exact .inl ⟨hi, .inl (by simp [hoff])⟩
  · exact .inl ⟨hi, .inr ⟨hup, by simp [hrx]⟩⟩
  · exact .inr ⟨hi, by simp [hus]⟩

/-- Settles O25: up to the step that fails the packet only passes tests, and the drop frees what its record says. -/
theorem arrivalDrops : Obligations.ArrivalDrops := by
  unfold Obligations.ArrivalDrops
  refine ⟨?quarantined, ?netXinv, ?netNoDest, ?netInReception, ?hostNoDest, ?hostSpoofed, ?maxHops, ?badMode, ?stale,
    ?noReplica, ?notTaken⟩
  case quarantined =>
    rintro i p s _ hi hon hup hrx hq hcls rfl
    exact clocked_runs fun _ => by
      rw [effPacketArrive_without_record hi hon hup hrx hcls, if_pos hq, dropArrival_whole, noteData]
  case netXinv =>
    rintro i p s _ hi hon hup hrx hq hcls hx rfl
    exact clocked_runs fun _ => by
      rw [effPacketArrive_without_record hi hon hup hrx hcls, if_neg (by simp [hq]), if_pos hx, dropArrival_whole, noteData]
  case netNoDest =>
    rintro i p s _ hi hon hup hrx hq hcls h8 h9 hd rfl
    exact clocked_runs fun _ => by
      rw [effPacketArrive_without_record hi hon hup hrx hcls, if_neg (by simp [hq]), if_neg (not_or.mpr ⟨h8, h9⟩),
        arriveRouted_no_dest hd, dropArrival_whole, noteData]
  case netInReception =>
    rintro i p e s _ hi hon hrx ha hw hq hcls h8 h9 hd rfl
    exact clocked_runs fun _ => by
      rw [effPacketArrive_in_reception hi hon hrx ha hw hq hcls (not_or.mpr ⟨h8, h9⟩), arriveRouted_no_dest hd,
        dropArrival_in_reception (e := { e with arrived := true }) _ hw, noteData]
      rfl
  case hostNoDest =>
    rintro i p s _ hi hm hus h8 h9 hd rfl
    exact clocked_runs fun _ => by
      rw [effPacketArrive_internal hi hm hus (not_or.mpr ⟨h8, h9⟩), arriveRouted_no_dest hd, dropArrival_internal _ _ hi]
  case hostSpoofed =>
    rintro i p s _ hi hm hus h8 h9 hd hsrc rfl
    exact clocked_runs fun _ => by
      rw [effPacketArrive_internal hi hm hus (not_or.mpr ⟨h8, h9⟩), arriveRouted_spoofed hi hm hd hsrc,
        dropArrival_internal _ _ hi]
  case maxHops =>
    rintro i p s _ hi hon hup hrx hq hcls h8 h9 hd hh rfl
    exact clocked_runs fun _ => by
      rw [effPacketArrive_without_record hi hon hup hrx hcls, if_neg (by simp [hq]), if_neg (not_or.mpr ⟨h8, h9⟩),
        arriveRouted_max_hops hi hd (s := noteData i s) hh, dropArrival_whole, noteData]
  case badMode =>
    rintro i p s _ hi hm hus h8 h9 hd hsrc hmode h40 h41 rfl
    exact clocked_runs fun _ => by
      rw [effPacketArrive_internal hi hm hus (not_or.mpr ⟨h8, h9⟩), arriveRouted_bad_mode hi hd hsrc hmode
          (not_or.mpr ⟨h40, h41⟩), dropArrival_internal _ _ hi]
  case stale =>
    rintro i p s _ hi hon hup hrx hq hcls h8 h9 h40 h41 hd hh hmode he hb rfl
    have hcls3 : clsOf p ≠ 3 := by simp [clsOf, hcls]
    exact clocked_runs fun _ => by
      rw [effPacketArrive_without_record hi hon hup hrx hcls3, if_neg (by simp [hq]), if_neg (not_or.mpr ⟨h8, h9⟩),
        arriveRouted_stale (s := noteData i s) hi hd hh hmode (not_or.mpr ⟨h40, h41⟩) hcls (bankOf_stale he hb),
        dropArrival_whole, noteData]
  case noReplica =>
    rintro i p s _ hi hm hus h8 h9 hd hsrc hmode hcls h40 h41 hk rfl
    exact clocked_runs fun _ => by
      rw [effPacketArrive_internal hi hm hus (not_or.mpr ⟨h8, h9⟩),
        arriveRouted_no_replica hi hd hsrc hmode (not_or.mpr ⟨h40, h41⟩) hcls hk, dropArrival_internal _ _ hi]
  case notTaken =>
    rintro i p s _ h rfl
    exact clocked_runs fun _ => effPacketArrive_not_taken h

end Sys2Proof.Proofs
end

section
/-! PROOFS. A source that names no unit fences none (R437, R439, R444): all that its raise entails leaves the own bits alone. -/

namespace Sys2Proof.Proofs
open Sys2Proof.Machine Sys2Proof.Laws

/-- `t` has the own bits of `s`. -/
def SameOwn (s t : State) : Prop := t.ev.own = s.ev.own

namespace SameOwn

theorem refl (s : State) : SameOwn s s := rfl
theorem trans {s t u : State} (h : SameOwn s t) (k : SameOwn t u) : SameOwn s u := Eq.trans k h

theorem ite {c : Prop} [Decidable c] {s a b : State} (ha : SameOwn s a) (hb : SameOwn s b) :
    SameOwn s (if c then a else b) := by
  split
  · exact ha
  · exact hb

theorem foldl {α : Type} {f : State → α → State} (hf : ∀ s a, SameOwn s (f s a)) :
    ∀ (l : List α) (s : State), SameOwn s (l.foldl f s)
  | [], s => refl s
  | a :: l, s => (hf s a).trans (foldl hf l (f s a))

theorem fireMsix (h fn vec : Nat) (s : State) : SameOwn s (fireMsix h fn vec s) := ite (refl s) (ite rfl rfl)

theorem eventMsix (n h : Nat) (s : State) : SameOwn s (eventMsix n h s) := by
  unfold Machine.eventMsix toHost crossD2d
  refine ite (fireMsix ..) (ite (ite rfl ?_) (fireMsix ..))
  split
  · exact refl s
  · exact trans rfl (fireMsix ..)

theorem bump (key n : Nat) (s : State) : SameOwn s (bump key n s).1 := by
  unfold Machine.bump
  dsimp only
  split_ifs <;> rfl

section
variable {again : Nat → Nat → State → State} (ha : ∀ n b s, target n = 0x7F → SameOwn s (again n b s))
include ha

theorem raiseBy {n : Nat} (hn : target n = 0x7F) (bits : Nat) (s : State) : SameOwn s (raiseBy again n bits s) :=
  ite rfl (trans rfl (ha _ _ _ hn))

theorem countBy {key : Nat} (hk : target (satSrc key) = 0x7F) (n : Nat) (s : State) : SameOwn s (countBy again key n s) :=
  ite ((bump ..).trans (ha _ _ _ hk)) (bump ..)

/-- An event is counted, or its loss raised, by the controller, which is no unit. -/
theorem sendEvent (n sev : Nat) (s : State) : SameOwn s (sendEvent again n sev s) := by
  unfold Machine.sendEvent
  exact ite ((countBy ha (by decide) ..).trans (raiseBy ha (by decide) ..)) (trans rfl (countBy ha (by decide) ..))

theorem routeRaise (route : BitVec 4) (n sev : Nat) (s : State) : SameOwn s (routeRaise again route n sev s) := by
  unfold Machine.routeRaise
  extract_lets s1 s2 s3
  have h1 : SameOwn s s1 := ite (foldl (fun s h => eventMsix n h s) _ _) (refl s)
  have h2 : SameOwn s1 s2 := ite (fireMsix ..) (refl s1)
  have h3 : SameOwn s2 s3 := ite rfl (refl s2)
  exact h1.trans (h2.trans (h3.trans (ite (sendEvent ha ..) (refl s3))))

theorem reactBy (inj : Bool) {n : Nat} (hn : target n = 0x7F) (bits : Nat) (s : State) :
    SameOwn s (reactBy again inj n bits s) := by
  have fence (sev : Nat) (s : State) : SameOwn s (fenceBy again n sev s) := by
    unfold Machine.fenceBy
    simp only [hn, if_true]
    exact ite rfl rfl
  unfold Machine.reactBy
  extract_lets sev r s1 s2
  have h1 : SameOwn s s1 := rfl
  have h2 : SameOwn s1 s2 := ite (refl s1) (routeRaise ha ..)
  exact h1.trans (ite (refl s1) (h2.trans (ite (refl s2) (fence ..))))
end

theorem react (fuel : Nat) : ∀ (inj : Bool) (n bits : Nat) (s : State), target n = 0x7F →
    SameOwn s (react fuel inj n bits s) := by
  induction fuel with
  | zero => exact fun _ _ _ s _ => refl s
  | succ fuel ih => exact fun inj n bits s hn => reactBy (ih false) inj hn bits s

/-- A counter whose saturation source names no unit. -/
theorem inc {key : Nat} (hk : target (satSrc key) = 0x7F) (s : State) : SameOwn s (inc key s) :=
  countBy (react 4 false) hk 1 s

theorem fenced {s t : State} (h : SameOwn s t) (u : Nat) : fenced t u = fenced s u := by
  have hbit : ownBit t = ownBit s := by
    funext u
    rw [ownBit, ownBit, h]
  rw [Machine.fenced, Machine.fenced, hbit]

end SameOwn

end Sys2Proof.Proofs
end

section
/-! PROOFS. The routing of a packet, case by case (R94, R97, R100, R106 to R113). -/

namespace Sys2Proof.Proofs
open Sys2Proof.Machine Sys2Proof.Laws

/-! ### What routing leaves as it was -/

/-- `t` has the ACTIVE registers of `s`, its EPOCH_NUM and its time. -/
structure SameRegs (s t : State) : Prop where
  rws : t.stage.rws = s.stage.rws
  epoch : t.stage.epoch = s.stage.epoch
  grade : t.grade425 = s.grade425
  now : t.time.now = s.time.now

namespace SameRegs

theorem refl (s : State) : SameRegs s s := ⟨rfl, rfl, rfl, rfl⟩

theorem trans {s t u : State} (h : SameRegs s t) (k : SameRegs t u) : SameRegs s u :=
  ⟨k.rws.trans h.rws, k.epoch.trans h.epoch, k.grade.trans h.grade, k.now.trans h.now⟩

theorem ite {c : Prop} [Decidable c] {s a b : State} (ha : SameRegs s a) (hb : SameRegs s b) :
    SameRegs s (if c then a else b) := by
  split
  · exact ha
  · exact hb

theorem of_evOnly {s t : State} (h : EvOnly s t) : SameRegs s t :=
  ⟨congrArg (·.rws) h.stage, congrArg (·.epoch) h.stage, h.grade425, congrArg (·.now) h.time⟩

theorem rwsF {s t : State} (h : SameRegs s t) (a lo n : Nat) : rwsF t a lo n = rwsF s a lo n := by
  rw [Machine.rwsF, Machine.rwsF, Machine.rws, Machine.rws, h.rws, h.grade]

theorem activeEpoch {s t : State} (h : SameRegs s t) : activeEpoch t = activeEpoch s := by
  rw [Machine.activeEpoch, Machine.activeEpoch, h.epoch]

end SameRegs

theorem evOnly_eccRead (ctr kind i : Nat) (s : State) : EvOnly s (eccRead ctr kind i s) := .ite (evOnly_inc ..) (.refl s)

theorem evOnly_boughEcc (k : Nat) (s : State) : EvOnly s (boughEcc k s) := (evOnly_inc ..).trans (evOnly_raise ..)

theorem evOnly_lookahead (b : Bool) (d : Nat) (s : State) : EvOnly s (lookahead b d s).1 := by
  unfold lookahead
  dsimp only
  split
  · exact evOnly_raise ..
  · exact .refl s

theorem lookahead_clear {b : Bool} {d : Nat} {s : State}
    (h : struck s eccLa (bankKey b (d >>> rwsF s 0x104 12 4 % 4096)) = false) :
    lookahead b d s = (s, some (laRead s b (d >>> rwsF s 0x104 12 4 % 4096))) := by
  simp only [lookahead, h, Bool.false_eq_true, if_false]

theorem sameRegs_detourCandidate (k inp mode : Nat) (b : Bool) (p : Packet) (s : State) :
    SameRegs s (detourCandidate k inp mode b p s).1 := by
  unfold detourCandidate
  extract_lets size bg j net s1 s2 d e s3 w
  have h2 : SameRegs s s2 :=
    .trans (t := s1) (.ite ⟨rfl, rfl, rfl, rfl⟩ (.refl s)) (.of_evOnly (evOnly_eccRead ..))
  have h3 : SameRegs s s3 := h2.trans (.of_evOnly (evOnly_eccRead ..))
  split
  · exact h2.trans (.of_evOnly (evOnly_boughEcc ..))
  split
  · exact h2
  split
  · exact h2.trans (.of_evOnly (evOnly_boughEcc ..))
  split
  · exact h3
  have h4 := h3.trans (.of_evOnly (evOnly_lookahead b e s3))
  generalize lookahead b e s3 = la at h4
  dsimp only
  split <;> exact h4

/-! ### One lookup (R100, R113) -/

/-- The state after a lookup in the replica of Bough `k`, which counts it. -/
def lookedUp (k home : Nat) (b : Bool) (e : Nat) (s : State) : State :=
  eccRead (bghCtr k 2) (eccRep k) (bankKey b e)
    (if k = home then inc (bghCtr k 0) s else inc (bghCtr k 1) (inc (bghCtr k 0) s))

theorem evOnly_lookedUp (k home : Nat) (b : Bool) (e : Nat) (s : State) : EvOnly s (lookedUp k home b e s) :=
  .trans (.ite (evOnly_inc ..) ((evOnly_inc ..).trans (evOnly_inc ..))) (evOnly_eccRead ..)

theorem SameEcc.struck {s t : State} (h : SameEcc s t) (kind i : Nat) : struck t kind i = struck s kind i := by
  rw [Machine.struck, Machine.struck, h]

theorem sameEcc_lookedUp (k home : Nat) (b : Bool) (e : Nat) (s : State) : SameEcc s (lookedUp k home b e s) :=
  .trans (.ite (.inc ..) (.trans (.inc ..) (.inc ..))) (.eccRead ..)

theorem lookup_eq (k home : Nat) (b : Bool) (e : Nat) (s : State) :
    lookup k home b e s = if struck s (eccRep k) (bankKey b e) then (boughEcc k (lookedUp k home b e s), none)
      else (lookedUp k home b e s, some (ftRead (lookedUp k home b e s) b e)) := by
  rw [← (sameEcc_lookedUp k home b e s).struck]
  rfl

/-- The identifier by which a packet is looked up: its intermediate's on a detour, else its destination's (R108). -/
def routeKey (p : Packet) : Nat := if p.detour ≠ eidNone then p.detour.toNat else p.dest.toNat

/-- A lookup for `p` under `key` reads entry `w` without an uncorrectable error, and leaves `r`. -/
structure LooksUp (k home : Nat) (b : Bool) (key : Nat) (p : Packet) (s r : State) (w : Word) : Prop where
  names : key = routeKey p
  after : r = lookedUp k home b key s
  clear : struck s (eccRep k) (bankKey b key) = false
  entry : w = ftRead r b key

theorem LooksUp.sameRegs {k home : Nat} {b : Bool} {key : Nat} {p : Packet} {s r : State} {w : Word}
    (h : LooksUp k home b key p s r w) : SameRegs s r := by
  rw [h.after]
  exact .of_evOnly (evOnly_lookedUp ..)

/-! ### What the entry makes of the packet (R106 to R113) -/

theorem ftDrop_of_ftLocal {w : Word} (h : ftLocal w = true) : ftDrop w = false := by
  simp only [ftLocal, Bool.and_eq_true, Bool.not_eq_true'] at h
  exact h.2

section
variable {fuel k home inp key : Nat} {b : Bool} {p : Packet} {s r : State} {w : Word}

theorem routePkt_struck (hkey : key = routeKey p) (hr : r = lookedUp k home b key s)
    (hs : struck s (eccRep k) (bankKey b key) = true) :
    routePkt (fuel + 1) k home inp b p s = (boughEcc k r, .drop 12) := by
  have hl : lookup k home b (routeKey p) s = (boughEcc k r, none) := by rw [hr, hkey, lookup_eq, if_pos (hkey ▸ hs)]
  rw [routeKey] at hl
  simp only [routePkt, hl]

variable (h : LooksUp k home b key p s r w)
include h

theorem routePkt_eq :
    routePkt (fuel + 1) k home inp b p s =
      if ftDrop w then (r, .drop 1)
      else if ftLocal w then
        if p.detour ≠ eidNone then routePkt fuel k home inp b { p with detour := eidNone } r
        else (r, routeLocal r (ftCand w 0) p)
      else match (chooseOut k inp key b w p r).2 with
        | some (o, via) => routeNet o via w p (chooseOut k inp key b w p r).1
        | none =>
          if p.detour ≠ eidNone then
            routePkt fuel k home inp b { p with detour := eidNone } (inc (cnpCtr 14) (chooseOut k inp key b w p r).1)
          else ((chooseOut k inp key b w p r).1, .drop 0) := by
  obtain ⟨rfl, rfl, hclear, rfl⟩ := h
  have hl : lookup k home b (routeKey p) s = _ := (lookup_eq ..).trans (if_neg (by simp [hclear]))
  rw [routeKey] at hl ⊢
  simp only [routePkt, hl] <;> rfl

theorem routePkt_drop (hd : ftDrop w = true) : routePkt (fuel + 1) k home inp b p s = (r, .drop 1) := by
  rw [routePkt_eq h, if_pos hd]

theorem routePkt_local (hl : ftLocal w = true) (hdet : p.detour = eidNone) :
    routePkt (fuel + 1) k home inp b p s = (r, routeLocal r (ftCand w 0) p) := by
  rw [routePkt_eq h, if_neg (by simp [ftDrop_of_ftLocal hl]), if_pos hl, if_neg (not_not.mpr hdet)]

/-- A detour ends at its intermediate: the destination is looked up. -/
theorem routePkt_detour_ends (hl : ftLocal w = true) (hdet : p.detour ≠ eidNone) :
    routePkt (fuel + 1) k home inp b p s = routePkt fuel k home inp b { p with detour := eidNone } r := by
  rw [routePkt_eq h, if_neg (by simp [ftDrop_of_ftLocal hl]), if_pos hl, if_pos hdet]

variable (hd : ftDrop w = false) (hl : ftLocal w = false)
include hd hl

theorem routePkt_net {x : State} {o : Nat} {via : Option Nat} (hc : chooseOut k inp key b w p r = (x, some (o, via))) :
    routePkt (fuel + 1) k home inp b p s = routeNet o via w p x := by
  rw [routePkt_eq h, if_neg (by simp [hd]), if_neg (by simp [hl]), hc]

theorem routePkt_no_output {x : State} (hc : chooseOut k inp key b w p r = (x, none)) (hdet : p.detour = eidNone) :
    routePkt (fuel + 1) k home inp b p s = (x, .drop 0) := by
  rw [routePkt_eq h, if_neg (by simp [hd]), if_neg (by simp [hl]), hc]
  exact if_neg (not_not.mpr hdet)

/-- A detour without an output is abandoned: the destination is looked up. -/
theorem routePkt_abandons {x : State} (hc : chooseOut k inp key b w p r = (x, none)) (hdet : p.detour ≠ eidNone) :
    routePkt (fuel + 1) k home inp b p s = routePkt fuel k home inp b { p with detour := eidNone } (inc (cnpCtr 14) x) := by
  rw [routePkt_eq h, if_neg (by simp [hd]), if_neg (by simp [hl]), hc]
  exact if_pos hdet

end

/-! ### Local entries (R21, R107) -/

section
variable {s : State} {code o : Nat} {p : Packet}

theorem routeLocal_usable (hcls : clsOf p ≠ 3) (hc : codePort code = some o) (ho : o ≠ 68)
    (hu : internalUsable s o = true) : routeLocal s code p = .to o p none := by
  simp only [routeLocal, hc, ho, hcls, hu, Bool.not_true, Bool.false_eq_true, false_and, and_false, if_false]

theorem routeLocal_management (hcls : clsOf p = 3) (hc : codePort code = some 68) :
    routeLocal s code p = .to 68 p none := by
  simp [routeLocal, hc, hcls, internalUsable]

theorem routeLocal_not_management (hcls : clsOf p ≠ 3) (hc : codePort code = some 68) :
    routeLocal s code p = .drop 10 := by
  simp only [routeLocal, hc, hcls, ne_eq, not_false_eq_true, and_self, if_true]

theorem routeLocal_unusable (hcls : clsOf p ≠ 3)
    (hc : (codePort code).all (fun o => o != 68 && !internalUsable s o) = true) : routeLocal s code p = .drop 9 := by
  cases hp : codePort code with
  | none => simp only [routeLocal, hp]
  | some o =>
    obtain ⟨ho, hu⟩ : o ≠ 68 ∧ internalUsable s o = false := by simpa [hp] using hc
    simp only [routeLocal, hp, ho, hcls, hu, Bool.not_false, false_and, and_false, if_false, if_true]

end

/-! ### The choice at a network entry (R107 to R109) -/

/-- The routing mode of a packet: one of class ASD goes as in mode 3. -/
def routeMode (p : Packet) : Nat := if p.cls = 2 then 3 else p.mode.toNat

/-- A packet that has taken no detour may take one where its entry allows it (R108). -/
def mayDetour (w : Word) (p : Packet) : Bool := !p.nonmin && p.detour == eidNone && bitW w 28

theorem mayDetour_iff {w : Word} {p : Packet} :
    mayDetour w p = true ↔ p.nonmin = false ∧ p.detour = eidNone ∧ bitW w 28 = true := by
  simp [mayDetour, and_assoc]

theorem not_mayDetour_iff {w : Word} {p : Packet} :
    mayDetour w p = false ↔ p.nonmin = true ∨ p.detour ≠ eidNone ∨ bitW w 28 = false := by
  rw [← Bool.not_eq_true, mayDetour_iff]
  cases p.nonmin <;> cases bitW w 28 <;> simp

/-- Mode 0 between the best candidate and the best detour: the detour where it is better by more than the bias, or alone. -/
def preferred (bias : Nat) (best : Option (Nat × Nat)) (detour : Option (Nat × Nat × Nat)) :
    Option (Nat × Option Nat) :=
  match best, detour with
  | some (q, sc), some (dq, dsc, e) => if dsc + bias < sc then some (dq, some e) else some (q, none)
  | some (q, _), none => some (q, none)
  | none, some (dq, _, e) => some (dq, some e)
  | none, none => none

theorem preferred_kept {bias q sc dq dsc e : Nat} (h : sc ≤ dsc + bias) :
    preferred bias (some (q, sc)) (some (dq, dsc, e)) = some (q, none) := if_neg (not_lt.mpr h)

theorem preferred_better {bias q sc dq dsc e : Nat} (h : dsc + bias < sc) :
    preferred bias (some (q, sc)) (some (dq, dsc, e)) = some (dq, some e) := if_pos h

section
variable {k inp key c : Nat} {b : Bool} {w : Word} {p : Packet} {s x : State} (hcls : clsOf p = c)
include hcls

theorem chooseOut_flow {o : Nat} (hm : routeMode p = 1)
    (hc : ((candidates s c inp w)[p.flowHash.toNat % (candidates s c inp w).length]?).map (fun c => c.2) = some o) :
    chooseOut k inp key b w p s = (s, some (o, none)) := by
  obtain ⟨j, hj, rfl⟩ := Option.map_eq_some_iff.mp hc
  rw [routeMode] at hm
  simp only [chooseOut, hm, hcls]
  cases hcs : candidates s c inp w with
  | nil => simp [hcs] at hj
  | cons a as =>
    rw [hcs] at hj
    simp only [hj, one_ne_zero, if_false, if_true, Option.map_some]

theorem chooseOut_first {j o : Nat} (hm : routeMode p = 3) (hc : (candidates s c inp w).head? = some (j, o)) :
    chooseOut k inp key b w p s = (if j = 0 then s else inc (cnpCtr 15) s, some (o, none)) := by
  obtain ⟨l, hl⟩ := List.head?_eq_some_iff.mp hc
  rw [routeMode] at hm
  simp only [chooseOut, hm, hcls, hl, OfNat.ofNat_ne_zero, OfNat.ofNat_ne_one, if_false]
  split <;> rfl

theorem chooseOut_none_left (hm : routeMode p ≠ 0) (ha : mayDetour w p = false) (hc : candidates s c inp w = []) :
    chooseOut k inp key b w p s = (s, none) := by
  rw [routeMode] at hm
  rw [mayDetour] at ha
  simp only [chooseOut, hm, hcls, hc, ha, Bool.false_eq_true, if_false]

theorem chooseOut_detour_left {d : Option (Nat × Nat × Nat)} (hm : routeMode p ≠ 0) (ha : mayDetour w p = true)
    (hc : candidates s c inp w = []) (hd : detourCandidate k inp (routeMode p) b p s = (x, d)) :
    chooseOut k inp key b w p s = (x, d.map fun d => (d.1, some d.2.2)) := by
  rw [routeMode] at hm hd
  rw [mayDetour] at ha
  simp only [chooseOut, hm, hcls, hc, ha, hd, if_false, if_true]

variable (hm : routeMode p = 0) (hla : struck s eccLa (bankKey b (key >>> rwsF s 0x104 12 4 % 4096)) = false)
include hm hla

theorem chooseOut_best {o sc : Nat} (ha : mayDetour w p = false)
    (hb : bestOf s (some (laRead s b (key >>> rwsF s 0x104 12 4 % 4096))) (candidates s c inp w) = some (o, sc)) :
    chooseOut k inp key b w p s = (s, some (o, none)) := by
  rw [routeMode] at hm
  rw [mayDetour] at ha
  simp only [chooseOut, hm, hcls, lookahead_clear hla, hb, ha, Bool.false_eq_true, if_false, if_true, Option.map_some]

theorem chooseOut_preferred {best : Option (Nat × Nat)} {d : Option (Nat × Nat × Nat)} (ha : mayDetour w p = true)
    (hb : bestOf s (some (laRead s b (key >>> rwsF s 0x104 12 4 % 4096))) (candidates s c inp w) = best)
    (hd : detourCandidate k inp 0 b p s = (x, d)) :
    chooseOut k inp key b w p s = (x, preferred (rwsF s 0x108 0 16) best d) := by
  rw [routeMode] at hm
  rw [mayDetour] at ha
  simp only [chooseOut, hm, hcls, lookahead_clear hla, hb, ha, hd, if_true]
  rcases best with _ | ⟨q, sc⟩ <;> rcases d with _ | ⟨dq, dsc, e⟩
  case some.some =>
    simp only [preferred]
    split <;> rfl
  all_goals rfl

end

/-! ### Leaving by a network port (R94, R109, R110) -/

/-- A packet as it leaves by network port `o` without a detour: STAGE raised where the port asks for it. -/
def departed (s : State) (o : Nat) (p : Packet) : Packet :=
  { p with stage := if rwsF s (0x110 + 4 * (o / 32)) (o % 32) 1 = 1 then p.stage + 1 else p.stage, hop := p.hop + 1 }

/-- A packet as it leaves for the intermediate `e` of a detour. -/
def detoured (e : Nat) (p : Packet) : Packet :=
  { p with stage := p.stage + 1, hop := p.hop + 1, nonmin := true, detour := BitVec.ofNat 18 e }

section
variable {o : Nat} {w : Word} {p : Packet} {s r : State}

theorem routeNet_departs (h : SameRegs s r) (hroom : rwsF s (0x110 + 4 * (o / 32)) (o % 32) 1 = 0 ∨ p.stage ≠ 3) :
    routeNet o none w p r = (r, .to o (departed s o p) (some w)) := by
  have hfits : ¬ (rwsF s (0x110 + 4 * (o / 32)) (o % 32) 1 = 1 ∧ p.stage = 3) := by
    rintro ⟨h1, h3⟩
    exact hroom.elim (fun h0 => absurd (h0.symm.trans h1) (by decide)) (absurd h3)
  rw [routeNet, h.rwsF]
  simp only [Option.isSome_none, Bool.false_eq_true, or_false, if_neg hfits, departed]

theorem routeNet_detours (e : Nat) (h3 : p.stage ≠ 3) :
    routeNet o (some e) w p r = (inc (cnpCtr 13) r, .to o (detoured e p) (some w)) := by
  simp only [routeNet, h3, and_false, if_false, Option.isSome_some, or_true, if_true, detoured]

theorem routeNet_full (h : SameRegs s r) (h1 : rwsF s (0x110 + 4 * (o / 32)) (o % 32) 1 = 1) (h3 : p.stage = 3) :
    routeNet o none w p r = (r, .drop 2) := by
  rw [routeNet, h.rwsF]
  simp only [h1, h3, true_or, and_self, if_true]

end

/-! ### Routes in one step -/

/-- A local entry on no detour sends the packet to its port. -/
theorem routePkt_local_usable {fuel k home i key o : Nat} {b : Bool} {p : Packet} {s r : State} {w : Word}
    (hl : LooksUp k home b key p s r w) (hloc : ftLocal w = true) (hdet : p.detour = eidNone) (hcls : clsOf p ≠ 3)
    (hc : codePort (ftCand w 0) = some o) (ho : o ≠ 68) (hu : internalUsable r o = true) :
    routePkt (fuel + 1) k home i b p s = (r, .to o p none) := by
  rw [routePkt_local hl hloc hdet, routeLocal_usable hcls hc ho hu]

/-- A network entry without a detour sends it to the port chosen. -/
theorem routePkt_departs {fuel k home i key o : Nat} {b : Bool} {p : Packet} {s₀ s r x : State} {w : Word}
    (hl : LooksUp k home b key p s r w) (hd : ftDrop w = false) (hn : ftLocal w = false)
    (hc : chooseOut k i key b w p r = (x, some (o, none))) (hs : SameRegs s₀ x)
    (hroom : rwsF s₀ (0x110 + 4 * (o / 32)) (o % 32) 1 = 0 ∨ p.stage ≠ 3) :
    routePkt (fuel + 1) k home i b p s = (x, .to o (departed s₀ o p) (some w)) := by
  rw [routePkt_net hl hd hn hc, routeNet_departs hs hroom]

end Sys2Proof.Proofs
end

section
/-! PROOFS. A packet that arrives and is routed (O26: R94, R96, R97, R100, R106 to R113, R115, R133, R144, R323, R497). -/

namespace Sys2Proof.Proofs
open Sys2Proof.Machine Sys2Proof.Laws

/-! ### Into the crossbar (R94, R497) -/

/-- The header fields that an internal port fills before the lookup (R94). -/
def injected (s : State) (p : Packet) : Packet :=
  { p with epoch := activeEpoch s, stage := 0, hop := 0, nonmin := false, detour := eidNone }

/-- `p` arrives whole on an input that takes it, from a network port that is UP with hops to spare or from an internal port
that is usable: it goes on as `q` from `u`. -/
def Enters (i : Nat) (p q : Packet) (u s : State) : Prop :=
  (i < 64 ∧ domOn s (dPort i) = true ∧ (port s i).st = .up ∧ (port s i).rp.rx = [] ∧ (port s i).gr.quar = false ∧
    p.hop.toNat < rwsF s 0x104 20 6 ∧ q = p ∧ u = noteData i s) ∨
  (64 ≤ i ∧ internalUsable s i = true ∧ (68 ≤ i ∨ p.src = hostEid s (i - 64)) ∧ (i ≠ 68 ∨ lenOf p ≤ 1) ∧
    q = injected s p ∧ u = s)

/-- The ingress meter of a packet's class (R144): only ASD and MGT have one. -/
def classMeter (i : Nat) (p : Packet) (s : State) : State × Bool :=
  if clsOf p = 2 then ingressMeter i 0 p s else if clsOf p = 3 then ingressMeter i 1 p s else (s, true)

/-- What becomes of a packet whose route is decided. -/
def deliverRoute (i : Nat) (e : Arrival) (b : Bool) (r : State × Route) : State :=
  match r.2 with
  | .drop c => dropArrival i e (cnpDrop c r.1)
  | .to o p w => queueAt i e o (some b) w p r.1

/-- Steps 6 and 7 of R497: the bank, the replica and the route. -/
def routeArrival (i : Nat) (e : Arrival) (p : Packet) (s : State) : State :=
  match (bankOf p s).2 with
  | none => dropArrival i e (cnpDrop 4 (bankOf p s).1)
  | some b =>
    match lookupBough (bankOf p s).1 (homeBough i) with
    | none => dropArrival i e (cnpDrop 0 (bankOf p s).1)
    | some k => deliverRoute i e b (routePkt 3 k (homeBough i) i b p (bankOf p s).1)

/-- Steps 3 and 4 of R497 passed: the meter, the steering of tree packets, the route. -/
theorem arriveRouted_eq {i : Nat} {e : Arrival} {p q : Packet} {s : State} (hd : p.dest ≠ eidNone)
    (hsrc : 64 ≤ i → 68 ≤ i ∨ p.src = hostEid s (i - 64)) (hhop : i < 64 → p.hop.toNat < rwsF s 0x104 20 6)
    (hq : q = if i < 64 then p else injected s p)
    (hmode : p.mode ≠ 2 ∨ ((p.ptype = 0x40 ∨ p.ptype = 0x41) ∧ i < 68)) :
    arriveRouted i e p s =
      if !(classMeter i q s).2 then dropArrival i e (classMeter i q s).1
      else if (p.ptype = 0x40 ∨ p.ptype = 0x41) ∧ i < 68 then steer i e q (classMeter i q s).1
      else routeArrival i e q (classMeter i q s).1 := by
  have hspoof : ¬ (64 ≤ i ∧ i < 68 ∧ p.src ≠ hostEid s (i - 64)) := by
    rintro ⟨h64, h68, hne⟩
    exact (hsrc h64).elim (not_le.mpr h68) hne
  have hroom : ¬ (i < 64 ∧ rwsF s 0x104 20 6 ≤ p.hop.toNat) := fun h => not_le.mpr (hhop h.1) h.2
  have hm : ¬ (q.mode = 2 ∧ ¬ ((p.ptype = 0x40 ∨ p.ptype = 0x41) ∧ i < 68)) := by
    have hmq : q.mode = p.mode := by rw [hq]; split <;> rfl
    rw [hmq]
    exact fun h => hmode.elim (absurd h.1) h.2
  rw [injected] at hq
  simp only [arriveRouted, hd, hspoof, hroom, if_false, ← hq, if_neg hm]
  rfl

theorem classMeter_unmetered {i : Nat} {p : Packet} {s : State} (h : clsOf p < 2) : classMeter i p s = (s, true) := by
  rw [classMeter, if_neg (by omega), if_neg (by omega)]

theorem sameRegs_ingressMeter (i k : Nat) (p : Packet) (s : State) : SameRegs s (ingressMeter i k p s).1 := by
  unfold ingressMeter
  extract_lets b len r net s1
  have h1 : SameRegs s s1 := ⟨rfl, rfl, rfl, rfl⟩
  split
  · exact .refl s
  split
  · exact h1.trans (.of_evOnly (evOnly_inc ..))
  · exact h1.trans (.of_evOnly (evOnly_inc ..))
  · exact h1.trans (.of_evOnly ((evOnly_inc ..).trans ((evOnly_inc ..).trans (evOnly_raise ..))))

theorem bankOf_active {p : Packet} {s t : State} (hs : SameRegs s t) (h : p.epoch = activeEpoch s) :
    bankOf p t = (t, some (activeEpoch s)) := by
  rw [← hs.activeEpoch] at h ⊢
  rw [bankOf, if_pos h, h]

/-- A packet of the other bank while that one may still route (R115). -/
theorem bankOf_other {p : Packet} {s : State} (h : p.epoch ≠ activeEpoch s)
    (hb : s.stage.bank = .draining ∨ s.stage.bank = .pending) :
    bankOf p s = (if s.stage.bank = .draining then { s with stage.drainClk := s.time.now } else inc (cnpCtr 5) s,
      some p.epoch) := by
  rcases hb with hb | hb <;> simp [bankOf, h, hb]

/-- Steps 3 to 6 of R497 passed: the route decides. -/
theorem arriveRouted_by_route {i k : Nat} {e : Arrival} {b : Bool} {p q : Packet} {s m v : State} (hd : p.dest ≠ eidNone)
    (hsrc : 64 ≤ i → 68 ≤ i ∨ p.src = hostEid s (i - 64)) (hhop : i < 64 → p.hop.toNat < rwsF s 0x104 20 6)
    (hq : q = if i < 64 then p else injected s p) (hmode : p.mode ≠ 2)
    (htree : (p.ptype ≠ 0x40 ∧ p.ptype ≠ 0x41) ∨ 68 ≤ i) (hm : classMeter i q s = (m, true))
    (hb : bankOf q m = (v, some b)) (hk : lookupBough v (homeBough i) = some k) :
    arriveRouted i e p s = deliverRoute i e b (routePkt 3 k (homeBough i) i b q v) := by
  have hnot : ¬ ((p.ptype = 0x40 ∨ p.ptype = 0x41) ∧ i < 68) := by
    rintro ⟨hp, hi⟩
    exact htree.elim (fun ht => hp.elim ht.1 ht.2) (not_le.mpr hi)
  rw [arriveRouted_eq hd hsrc hhop hq (.inl hmode), hm, if_neg (by simp), if_neg hnot]
  simp only [routeArrival, hb, hk]

/-! ### Into the queue of an output (R126, R133) -/

theorem queueAt_other_class {i o : Nat} {e : Arrival} {bank : Option Bool} {w : Option Word} {p : Packet} {s r : State}
    (hcls : clsOf p ≠ 2) (hbad : e.bad = false) (hs : SameRegs s r) :
    queueAt i e o bank w p r = enqueue
      { inp := i, out := o, vc := Packet.vcOf p, inVc := e.vc, arrived := s.time.now, bank := bank, pkt := p,
        whole := e.whole } r := by
  rw [← hs.now]
  cases w <;> simp only [queueAt, noteReroute, hcls, hbad, Bool.false_eq_true, false_and, if_false]

theorem deliverRoute_queued {i o : Nat} {e : Arrival} {b : Bool} {w : Option Word} {p : Packet} {s r : State}
    (hcls : clsOf p ≠ 2) (hbad : e.bad = false) (hs : SameRegs s r) :
    deliverRoute i e b (r, .to o p w) = enqueue
      { inp := i, out := o, vc := Packet.vcOf p, inVc := e.vc, arrived := s.time.now, bank := some b, pkt := p,
        whole := e.whole } r := queueAt_other_class hcls hbad hs

/-! ### Packets of REQ and RSP that arrive whole -/

namespace Enters
variable {i : Nat} {p q : Packet} {u s : State} (h : Enters i p q u s)
include h

theorem sameRegs : SameRegs s u := by
  rcases h with ⟨-, -, -, -, -, -, -, rfl⟩ | ⟨-, -, -, -, -, rfl⟩
  · exact ⟨rfl, rfl, rfl, rfl⟩
  · exact .refl u

theorem cls : clsOf q = p.cls.toNat := by
  rcases h with ⟨-, -, -, -, -, -, rfl, -⟩ | ⟨-, -, -, -, rfl, -⟩ <;> rfl

theorem mode : q.mode = p.mode := by
  rcases h with ⟨-, -, -, -, -, -, rfl, -⟩ | ⟨-, -, -, -, rfl, -⟩ <;> rfl

theorem flowHash : q.flowHash = p.flowHash := by
  rcases h with ⟨-, -, -, -, -, -, rfl, -⟩ | ⟨-, -, -, -, rfl, -⟩ <;> rfl

theorem packet : q = if i < 64 then p else injected u p := by
  rcases h with ⟨hi, -, -, -, -, -, rfl, -⟩ | ⟨hi, -, -, -, rfl, rfl⟩
  · rw [if_pos hi]
  · rw [if_neg (not_lt.mpr hi)]

theorem routeMode (hcls : p.cls.toNat < 2) : routeMode q = p.mode.toNat := by
  have h2 : q.cls ≠ 2 := fun h2 => by
    have := h.cls
    rw [clsOf, h2] at this
    exact absurd hcls (by rw [← this]; decide)
  rw [Proofs.routeMode, if_neg h2, h.mode]

theorem arriveRouted (hcls : p.cls.toNat < 2) (hx : ¬ (p.ptype = 8 ∨ p.ptype = 9)) :
    effPacketArrive i p s = arriveRouted i (wholeArrival p) p u := by
  rcases h with ⟨hi, hon, hup, hrx, hq, -, -, rfl⟩ | ⟨hi, hus, -, hone, -, rfl⟩
  · rw [effPacketArrive_without_record hi hon hup hrx (by rw [clsOf]; omega), if_neg (by simp [hq]), if_neg hx]
  · have he : arrivalOf u i p = wholeArrival p := by
      simp only [arrivalOf, not_lt.mpr hi, if_false, wholeArrival]
      rcases hone with h | h <;> simp [h]
    simp only [effPacketArrive, hi, not_lt.mpr hi, hus, hx, he, Bool.not_true, Bool.false_eq_true, false_and, and_false,
      or_self, if_false]

theorem src : 64 ≤ i → 68 ≤ i ∨ p.src = hostEid u (i - 64) := fun h64 => by
  rcases h with ⟨hi, -⟩ | ⟨-, -, hsrc, -, -, rfl⟩
  · omega
  · exact hsrc

theorem hop : i < 64 → p.hop.toNat < rwsF u 0x104 20 6 := fun h64 => by
  rw [h.sameRegs.rwsF]
  rcases h with ⟨-, -, -, -, -, hhop, -⟩ | ⟨hi, -⟩
  · exact hhop
  · omega

theorem routed_by {v : State} {b : Bool} {k : Nat} (hcls : p.cls.toNat < 2) (h8 : p.ptype ≠ 8) (h9 : p.ptype ≠ 9)
    (htree : (p.ptype ≠ 0x40 ∧ p.ptype ≠ 0x41) ∨ 68 ≤ i) (hd : p.dest ≠ eidNone) (hmode : p.mode ≠ 2)
    (hb : bankOf q u = (v, some b)) (hk : lookupBough v (homeBough i) = some k) :
    effPacketArrive i p s = deliverRoute i (wholeArrival p) b (routePkt 3 k (homeBough i) i b q v) := by
  rw [h.arriveRouted hcls (not_or.mpr ⟨h8, h9⟩),
    arriveRouted_by_route hd h.src h.hop h.packet hmode htree (classMeter_unmetered (h.cls ▸ hcls)) hb hk]

end Enters

/-! ### REQ and RSP packets that the active bank routes -/

/-- `p`, of class REQ or RSP and routed by its identifiers alone, goes on as `q` from `u` and is looked up in the active bank
of the replica of Bough `k`. -/
structure Routed (i : Nat) (p q : Packet) (u : State) (k : Nat) (s : State) : Prop where
  enters : Enters i p q u s
  low : p.cls.toNat < 2
  not_xinv : p.ptype ≠ 8
  not_xinv_ack : p.ptype ≠ 9
  not_tree : (p.ptype ≠ 0x40 ∧ p.ptype ≠ 0x41) ∨ 68 ≤ i
  dest : p.dest ≠ eidNone
  mode : p.mode ≠ 2
  epoch : q.epoch = activeEpoch s
  replica : lookupBough u (homeBough i) = some k

theorem routeKey_destination {p : Packet} (h : p.detour = eidNone) : routeKey p = p.dest.toNat := if_neg (not_not.mpr h)

namespace Routed
variable {i k : Nat} {p q : Packet} {u s : State} (h : Routed i p q u k s)
include h

theorem arrives :
    effPacketArrive i p s =
      deliverRoute i (wholeArrival p) (activeEpoch s) (routePkt 3 k (homeBough i) i (activeEpoch s) q u) :=
  h.enters.routed_by h.low h.not_xinv h.not_xinv_ack h.not_tree h.dest h.mode (bankOf_active h.enters.sameRegs h.epoch)
    h.replica

theorem cls : clsOf q = p.cls.toNat := h.enters.cls

theorem not_asd : clsOf q ≠ 2 := by
  have := h.low
  rw [h.cls]
  omega

theorem not_mgt : clsOf q ≠ 3 := by
  have := h.low
  rw [h.cls]
  omega

theorem routeMode : routeMode q = p.mode.toNat := h.enters.routeMode h.low

/-- The command ends with the drop that its route decides. -/
theorem dropped {x : State} {c : Nat} (hroute : routePkt 3 k (homeBough i) i (activeEpoch s) q u = (x, .drop c)) :
    effPacketArrive i p s = freePool i (Packet.vcOf p) (lenOf p) true (cnpDrop c x) := by
  rw [h.arrives, hroute]
  rfl

/-- The command ends with the packet in the queue to which its route leads. -/
theorem queued {x : State} {o : Nat} {f : Packet} {entry : Option Word}
    (hroute : routePkt 3 k (homeBough i) i (activeEpoch s) q u = (x, .to o f entry)) (hcls : clsOf f = clsOf q)
    (hs : SameRegs u x) :
    effPacketArrive i p s = enqueue
      { inp := i, out := o, vc := Packet.vcOf f, inVc := Packet.vcOf p, arrived := s.time.now,
        bank := some (activeEpoch s), pkt := f, whole := true } x := by
  rw [h.arrives, hroute]
  exact deliverRoute_queued (hcls ▸ h.not_asd) rfl (h.enters.sameRegs.trans hs)

variable {key : Nat} {r x : State} {w : Word} (hl : LooksUp k (homeBough i) (activeEpoch s) key q u r w)
  (hd : ftDrop w = false) (hn : ftLocal w = false)
include hl hd hn

/-- It leaves by the network port chosen. -/
theorem departs {o : Nat} (hc : chooseOut k i key (activeEpoch s) w q r = (x, some (o, none))) (hs : SameRegs r x)
    (hroom : rwsF s (0x110 + 4 * (o / 32)) (o % 32) 1 = 0 ∨ q.stage ≠ 3) :
    effPacketArrive i p s = enqueue
      { inp := i, out := o, vc := Packet.vcOf (departed s o q), inVc := Packet.vcOf p, arrived := s.time.now,
        bank := some (activeEpoch s), pkt := departed s o q, whole := true } x := by
  have hx := hl.sameRegs.trans hs
  exact h.queued (routePkt_departs hl hd hn hc (h.enters.sameRegs.trans hx) hroom) rfl hx

/-- It leaves for the intermediate of a detour. -/
theorem detours {o e : Nat} (hc : chooseOut k i key (activeEpoch s) w q r = (x, some (o, some e))) (hs : SameRegs r x)
    (h3 : q.stage ≠ 3) :
    effPacketArrive i p s = enqueue
      { inp := i, out := o, vc := Packet.vcOf (detoured e q), inVc := Packet.vcOf p, arrived := s.time.now,
        bank := some (activeEpoch s), pkt := detoured e q, whole := true } (inc (cnpCtr 13) x) := by
  refine h.queued (entry := some w) ?_ rfl ((hl.sameRegs.trans hs).trans (.of_evOnly (evOnly_inc ..)))
  rw [routePkt_net hl hd hn hc, routeNet_detours e h3]

end Routed

/-- The search for a detour leaves the registers alone. -/
theorem sameRegs_of_detourCandidate {k inp mode : Nat} {b : Bool} {p : Packet} {s x : State}
    {d : Option (Nat × Nat × Nat)} (hd : detourCandidate k inp mode b p s = (x, d)) : SameRegs s x := by
  have hs := sameRegs_detourCandidate k inp mode b p s
  rwa [hd] at hs

/-! ### The other bank -/

theorem lookupBough_congr {s t : State} (hpw : t.pw = s.pw) (hown : SameOwn s t) (hb : t.net.boughs = s.net.boughs)
    (home : Nat) : lookupBough t home = lookupBough s home := by
  have hok : replicaOk t = replicaOk s := by
    funext k
    have hon : domOn t (dBough k) = domOn s (dBough k) := by
      unfold domOn domLow domain
      rw [hpw]
    rw [replicaOk, replicaOk, hon, hown.fenced, hb]
  rw [lookupBough, lookupBough, hok]

/-- `u` once a packet of the other bank has been taken in `s` (R115): noted while DRAINING, counted in PENDING. -/
def otherBank (s u : State) : State :=
  if s.stage.bank = .draining then { u with stage.drainClk := s.time.now } else inc (cnpCtr 5) u

theorem Enters.bankOf_other {i : Nat} {p q : Packet} {u s : State} (h : Enters i p q u s) (hep : q.epoch ≠ activeEpoch s)
    (hb : s.stage.bank = .draining ∨ s.stage.bank = .pending) : bankOf q u = (otherBank s u, some q.epoch) := by
  rcases h with ⟨-, -, -, -, -, -, -, rfl⟩ | ⟨-, -, -, -, rfl, -⟩
  · exact Proofs.bankOf_other hep hb
  · exact absurd rfl hep

/-- Neither changes what the lookup reads: the counter's saturation source names no unit, so no Bough is fenced by it. -/
theorem otherBank_keeps (s u : State) :
    SameRegs u (otherBank s u) ∧ SameEcc u (otherBank s u) ∧
      ∀ home, lookupBough (otherBank s u) home = lookupBough u home := by
  unfold otherBank
  split
  · exact ⟨⟨rfl, rfl, rfl, rfl⟩, rfl, fun home => lookupBough_congr rfl rfl rfl home⟩
  · exact ⟨.of_evOnly (evOnly_inc ..), .inc .., lookupBough_congr (inc_pw ..) (.inc (by decide) u) (by rw [inc_net])⟩

/-! ### Metered packets -/

theorem classMeter_of_ingressMeter {i k : Nat} {p : Packet} {s : State} {m : State × Bool} (h : clsOf p = k + 2)
    (hm : ingressMeter i k p s = m) : classMeter i p s = m := by
  have h4 : clsOf p < 4 := p.cls.isLt
  rw [classMeter, ← hm]
  rcases (by omega : k = 0 ∨ k = 1) with rfl | rfl <;> simp [h]

theorem SameRegs.ingressMeter {i k : Nat} {p : Packet} {s : State} {m : State × Bool}
    (hm : Machine.ingressMeter i k p s = m) : SameRegs s m.1 := hm ▸ sameRegs_ingressMeter i k p s

/-- A packet taken under the active EPOCH. -/
def withActiveEpoch (s : State) (p : Packet) : Packet := { p with epoch := activeEpoch s }

/-- A MGT packet at a quarantined network port (R467). -/
theorem effPacketArrive_quarantined_mgt {i : Nat} {p : Packet} {s : State} (hi : i < 64) (hon : domOn s (dPort i) = true)
    (hup : (port s i).st = .up) (hrx : (port s i).rp.rx = []) (hq : (port s i).gr.quar = true) (hcls : clsOf p = 3)
    (hx : ¬ (p.ptype = 8 ∨ p.ptype = 9)) :
    effPacketArrive i p s = arriveRouted i (wholeArrival p) (withActiveEpoch s p) s := by
  have hn : ¬ 64 ≤ i := not_le.mpr hi
  simp only [effPacketArrive, hi, hn, hon, hup, hrx, hcls, hq, hx, arrivalOf_without_record p hi hrx, ne_eq, not_true,
    Bool.not_true, Bool.false_eq_true, false_and, and_false, or_self, and_self, if_false, if_true, withActiveEpoch]

/-! ### Tree packets (R323) -/

theorem Enters.steered {i : Nat} {p q : Packet} {u s : State} (h : Enters i p q u s) (hi : i < 68) (hcls : p.cls.toNat < 2)
    (ht : p.ptype = 0x40 ∨ p.ptype = 0x41) (hd : p.dest ≠ eidNone) :
    effPacketArrive i p s =
      if p.dest ≠ nodeEid s then freePool i (Packet.vcOf p) (lenOf p) true (treeDrop 1 u)
      else if (tree s (Packet.extF p 5 0 0 10)).st ≠ 0
          ∧ Packet.extF p 5 0 16 16 = treeF s (Packet.extF p 5 0 0 10) 0 0 16 then
        queueAt i (wholeArrival p) (xC (treeUnit s (Packet.extF p 5 0 0 10))) none none q u
      else if 64 ≤ i then
        sendTree 0 i (treePkt false (Packet.extF p 5 0 0 10) (Packet.extF p 5 0 16 16) (Packet.extF p 5 1 0 16) 0 0 0 0
          (Packet.extF p 5 2 0 16) 3 0 []) (freePool i (Packet.vcOf p) (lenOf p) true (treeDrop 0 u))
      else freePool i (Packet.vcOf p) (lenOf p) true (treeDrop 0 u) := by
  have hx : ¬ (p.ptype = 8 ∨ p.ptype = 9) := by rcases ht with ht | ht <;> rw [ht] <;> decide
  rw [h.arriveRouted hcls hx, arriveRouted_eq hd h.src h.hop h.packet (.inr ⟨ht, hi⟩),
    classMeter_unmetered (h.cls ▸ hcls), if_neg (by simp), if_pos ⟨ht, hi⟩]
  rcases h with ⟨-, -, -, -, -, -, rfl, rfl⟩ | ⟨-, -, -, -, rfl, rfl⟩ <;> rfl

/-! ### XINV (R233) -/

theorem effPacketArrive_xinv {i : Nat} {p : Packet} {s : State} (hi : 64 ≤ i) (hm : i < 68)
    (hus : internalUsable s i = true) (hx : p.ptype = 8 ∨ p.ptype = 9) : effPacketArrive i p s = crossBole i p s := by
  simp only [effPacketArrive, hi, hm, not_lt.mpr hi, hus, hx, Bool.not_true, Bool.false_eq_true, false_and, and_false,
    or_self, and_self, if_false, if_true]

theorem crossBole_to {i o : Nat} {p : Packet} {s : State}
    (ho : ([2 * (1 - (i - 64) / 2), 2 * (1 - (i - 64) / 2) + 1].map xN).find? (fun o => internalUsable s o) = some o) :
    crossBole i p s = enqueue
      { inp := i, out := o, vc := Packet.vcOf p, inVc := Packet.vcOf p, arrived := s.time.now, bank := none, pkt := p,
        whole := true } s := by
  rw [List.find?_map] at ho
  obtain ⟨h, hh, rfl⟩ := Option.map_eq_some_iff.mp ho
  simp only [Function.comp_def] at hh
  simp only [crossBole, hh]

/-! ### The clauses -/

/-- Settles O26: each clause is one way through the tests of R497, to the steering of tree packets, to XINV's crossing or to
the case of R106 to R113 that the entry read decides. -/
theorem arrivalRouted : Obligations.ArrivalRouted := by
  unfold Obligations.ArrivalRouted
  refine ⟨?uncorrectable, ?dropEntry, ?localPort, ?localManagement, ?localUnusable, ?detourEnds, ?flow, ?first, ?later,
    ?best, ?bestAlone, ?bestKept, ?detourBetter, ?detourLeft, ?detourAlone, ?noOutput, ?abandoned, ?stageFull, ?otherBank,
    ?management, ?red, ?noShare, ?treeElsewhere, ?treeUnit, ?treeNoContext, ?treeNoTree, ?xinv, ?inReception⟩
  case uncorrectable =>
    rintro i p q u k key r s _ (hin : Enters i p q u s) hcls h8 h9 htree hd hmode hep hk hkey hr hstr rfl
    have ha : Routed i p q u k s := ⟨hin, hcls, h8, h9, htree, hd, hmode, hep, hk⟩
    exact clocked_runs fun _ => ha.dropped (routePkt_struck hkey hr hstr)
  case dropEntry =>
    rintro i p q u k key r w s _ (hin : Enters i p q u s) hcls h8 h9 htree hd hmode hep hk hkey hr hclr hw hdrop rfl
    have ha : Routed i p q u k s := ⟨hin, hcls, h8, h9, htree, hd, hmode, hep, hk⟩
    have hl : LooksUp k (homeBough i) (activeEpoch s) key q u r w := ⟨hkey, hr, hclr, hw⟩
    exact clocked_runs fun _ => ha.dropped (routePkt_drop hl hdrop)
  case localPort =>
    rintro i p q u k key r w o s _ (hin : Enters i p q u s) hcls h8 h9 htree hd hmode hep hk hkey hr hclr hw hloc hdet
      hc ho hu rfl
    have ha : Routed i p q u k s := ⟨hin, hcls, h8, h9, htree, hd, hmode, hep, hk⟩
    have hl : LooksUp k (homeBough i) (activeEpoch s) key q u r w := ⟨hkey, hr, hclr, hw⟩
    exact clocked_runs fun _ => ha.queued (routePkt_local_usable hl hloc hdet ha.not_mgt hc ho hu) rfl hl.sameRegs
  case localManagement =>
    rintro i p q u k key r w s _ (hin : Enters i p q u s) hcls h8 h9 htree hd hmode hep hk hkey hr hclr hw hloc hdet
      hc rfl
    have ha : Routed i p q u k s := ⟨hin, hcls, h8, h9, htree, hd, hmode, hep, hk⟩
    have hl : LooksUp k (homeBough i) (activeEpoch s) key q u r w := ⟨hkey, hr, hclr, hw⟩
    exact clocked_runs fun _ => ha.dropped (by rw [routePkt_local hl hloc hdet, routeLocal_not_management ha.not_mgt hc])
  case localUnusable =>
    rintro i p q u k key r w s _ (hin : Enters i p q u s) hcls h8 h9 htree hd hmode hep hk hkey hr hclr hw hloc hdet
      hc rfl
    have ha : Routed i p q u k s := ⟨hin, hcls, h8, h9, htree, hd, hmode, hep, hk⟩
    have hl : LooksUp k (homeBough i) (activeEpoch s) key q u r w := ⟨hkey, hr, hclr, hw⟩
    exact clocked_runs fun _ => ha.dropped (by rw [routePkt_local hl hloc hdet, routeLocal_unusable ha.not_mgt hc])
  case detourEnds =>
    rintro i p q u k key r w o x s _ (hin : Enters i p q u s) hcls h8 h9 htree hd hmode hep hk hkey hr hclr hw hloc
      hdet hclr' hx hloc' hc ho hu rfl
    have ha : Routed i p q u k s := ⟨hin, hcls, h8, h9, htree, hd, hmode, hep, hk⟩
    have hl : LooksUp k (homeBough i) (activeEpoch s) key q u r w := ⟨hkey, hr, hclr, hw⟩
    have hl' : LooksUp k (homeBough i) (activeEpoch s) q.dest.toNat { q with detour := eidNone } r x _ :=
      ⟨rfl, hx, hclr', rfl⟩
    exact clocked_runs fun _ => ha.queued ((routePkt_detour_ends hl hloc hdet).trans
      (routePkt_local_usable hl' hloc' rfl ha.not_mgt hc ho hu)) rfl (hl.sameRegs.trans hl'.sameRegs)
  case flow =>
    rintro i p q u k key r w o f s _ (hin : Enters i p q u s) hcls h8 h9 htree hd hmode hep hk hkey hr hclr hw hdrop
      hloc hm hc hroom rfl rfl
    have ha : Routed i p q u k s := ⟨hin, hcls, h8, h9, htree, hd, hmode, hep, hk⟩
    have hl : LooksUp k (homeBough i) (activeEpoch s) key q u r w := ⟨hkey, hr, hclr, hw⟩
    rw [← hin.flowHash] at hc
    exact clocked_runs fun _ =>
      ha.departs hl hdrop hloc (chooseOut_flow ha.cls (ha.routeMode.trans (congrArg _ hm)) hc) (.refl r) hroom
  case first =>
    rintro i p q u k key r w o f s _ (hin : Enters i p q u s) hcls h8 h9 htree hd hmode hep hk hkey hr hclr hw hdrop
      hloc hm hc hroom rfl rfl
    have ha : Routed i p q u k s := ⟨hin, hcls, h8, h9, htree, hd, hmode, hep, hk⟩
    have hl : LooksUp k (homeBough i) (activeEpoch s) key q u r w := ⟨hkey, hr, hclr, hw⟩
    exact clocked_runs fun _ =>
      ha.departs hl hdrop hloc (chooseOut_first ha.cls (ha.routeMode.trans (congrArg _ hm)) hc) (.refl r) hroom
  case later =>
    rintro i p q u k key r w o f j s _ (hin : Enters i p q u s) hcls h8 h9 htree hd hmode hep hk hkey hr hclr hw hdrop
      hloc hm hc hj hroom rfl rfl
    have ha : Routed i p q u k s := ⟨hin, hcls, h8, h9, htree, hd, hmode, hep, hk⟩
    have hl : LooksUp k (homeBough i) (activeEpoch s) key q u r w := ⟨hkey, hr, hclr, hw⟩
    have hch := chooseOut_first (k := k) (key := key) (b := activeEpoch s) ha.cls (ha.routeMode.trans (congrArg _ hm)) hc
    rw [if_neg hj] at hch
    exact clocked_runs fun _ => ha.departs hl hdrop hloc hch (.of_evOnly (evOnly_inc ..)) hroom
  case best =>
    rintro i p q u k key r w o f sc s _ (hin : Enters i p q u s) hcls h8 h9 htree hd hmode hep hk hkey hr hclr hw
      hdrop hloc hm hnd hla hb hroom rfl rfl
    have ha : Routed i p q u k s := ⟨hin, hcls, h8, h9, htree, hd, hmode, hep, hk⟩
    have hl : LooksUp k (homeBough i) (activeEpoch s) key q u r w := ⟨hkey, hr, hclr, hw⟩
    exact clocked_runs fun _ => ha.departs hl hdrop hloc
      (chooseOut_best ha.cls (ha.routeMode.trans (congrArg _ hm)) hla (not_mayDetour_iff.mpr hnd) hb) (.refl r) hroom
  case bestAlone =>
    rintro i p q u k key r w o f sc x s _ (hin : Enters i p q u s) hcls h8 h9 htree hd hmode hep hk hkey hr hclr hw
      hdrop hloc hm hmay hla hb hdc hroom rfl rfl
    have ha : Routed i p q u k s := ⟨hin, hcls, h8, h9, htree, hd, hmode, hep, hk⟩
    have hl : LooksUp k (homeBough i) (activeEpoch s) key q u r w := ⟨hkey, hr, hclr, hw⟩
    have hch := chooseOut_preferred ha.cls (ha.routeMode.trans (congrArg _ hm)) hla (mayDetour_iff.mpr hmay) hb hdc
    exact clocked_runs fun _ => ha.departs hl hdrop hloc hch (sameRegs_of_detourCandidate hdc) hroom
  case bestKept =>
    rintro i p q u k key r w o f sc dq dsc e x s _ (hin : Enters i p q u s) hcls h8 h9 htree hd hmode hep hk hkey hr
      hclr hw hdrop hloc hm hmay hla hb hdc hsc hroom rfl rfl
    have ha : Routed i p q u k s := ⟨hin, hcls, h8, h9, htree, hd, hmode, hep, hk⟩
    have hl : LooksUp k (homeBough i) (activeEpoch s) key q u r w := ⟨hkey, hr, hclr, hw⟩
    have hch := chooseOut_preferred ha.cls (ha.routeMode.trans (congrArg _ hm)) hla (mayDetour_iff.mpr hmay) hb hdc
    rw [preferred_kept hsc] at hch
    exact clocked_runs fun _ => ha.departs hl hdrop hloc hch (sameRegs_of_detourCandidate hdc) hroom
  case detourBetter =>
    rintro i p q u k key r w o f e x sc c dsc s _ (hin : Enters i p q u s) hcls h8 h9 htree hd hmode hep hk hkey hr
      hclr hw hdrop hloc hm hmay hla hb hdc hsc h3 rfl rfl
    have ha : Routed i p q u k s := ⟨hin, hcls, h8, h9, htree, hd, hmode, hep, hk⟩
    have hl : LooksUp k (homeBough i) (activeEpoch s) key q u r w := ⟨hkey, hr, hclr, hw⟩
    have hch := chooseOut_preferred ha.cls (ha.routeMode.trans (congrArg _ hm)) hla (mayDetour_iff.mpr hmay) hb hdc
    rw [preferred_better hsc] at hch
    exact clocked_runs fun _ => ha.detours hl hdrop hloc hch (sameRegs_of_detourCandidate hdc) h3
  case detourLeft =>
    rintro i p q u k key r w o f e x dsc s _ (hin : Enters i p q u s) hcls h8 h9 htree hd hmode hep hk hkey hr hclr hw
      hdrop hloc hm hmay hc hdc h3 rfl rfl
    have ha : Routed i p q u k s := ⟨hin, hcls, h8, h9, htree, hd, hmode, hep, hk⟩
    have hl : LooksUp k (homeBough i) (activeEpoch s) key q u r w := ⟨hkey, hr, hclr, hw⟩
    have hm' : routeMode q ≠ 0 := by
      rw [ha.routeMode]
      exact fun h0 => hm (BitVec.eq_of_toNat_eq h0)
    rw [← ha.routeMode] at hdc
    exact clocked_runs fun _ => ha.detours hl hdrop hloc
      (chooseOut_detour_left ha.cls hm' (mayDetour_iff.mpr hmay) hc hdc) (sameRegs_of_detourCandidate hdc) h3
  case detourAlone =>
    rintro i p q u k key r w o f e x dsc s _ (hin : Enters i p q u s) hcls h8 h9 htree hd hmode hep hk hkey hr hclr hw
      hdrop hloc hm hmay hla hc hdc h3 rfl rfl
    have ha : Routed i p q u k s := ⟨hin, hcls, h8, h9, htree, hd, hmode, hep, hk⟩
    have hl : LooksUp k (homeBough i) (activeEpoch s) key q u r w := ⟨hkey, hr, hclr, hw⟩
    have hch := chooseOut_preferred ha.cls (ha.routeMode.trans (congrArg _ hm)) hla (mayDetour_iff.mpr hmay)
      (congrArg _ hc) hdc
    exact clocked_runs fun _ => ha.detours hl hdrop hloc hch (sameRegs_of_detourCandidate hdc) h3
  case noOutput =>
    rintro i p q u k key r w s _ (hin : Enters i p q u s) hcls h8 h9 htree hd hmode hep hk hkey hr hclr hw hdrop hloc
      hm hnd hdet hc rfl
    have ha : Routed i p q u k s := ⟨hin, hcls, h8, h9, htree, hd, hmode, hep, hk⟩
    have hl : LooksUp k (homeBough i) (activeEpoch s) key q u r w := ⟨hkey, hr, hclr, hw⟩
    have hm' : routeMode q ≠ 0 := by
      rw [ha.routeMode]
      exact fun h0 => hm (BitVec.eq_of_toNat_eq h0)
    have hch := chooseOut_none_left (k := k) (key := key) (b := activeEpoch s) ha.cls hm' (not_mayDetour_iff.mpr hnd) hc
    exact clocked_runs fun _ => ha.dropped (routePkt_no_output hl hdrop hloc hch hdet)
  case abandoned =>
    rintro i p q u k key r w o f x s _ (hin : Enters i p q u s) hcls h8 h9 htree hd hmode hep hk hkey hr hclr hw hdrop
      hloc hm hdet hc hclr' hx hdrop' hloc' hc' hroom rfl rfl
    have ha : Routed i p q u k s := ⟨hin, hcls, h8, h9, htree, hd, hmode, hep, hk⟩
    have hl : LooksUp k (homeBough i) (activeEpoch s) key q u r w := ⟨hkey, hr, hclr, hw⟩
    have hm' : routeMode q = 3 := ha.routeMode.trans (congrArg _ hm)
    have hch := chooseOut_none_left (k := k) (key := key) (b := activeEpoch s) ha.cls (by rw [hm']; decide)
      (not_mayDetour_iff.mpr (.inr (.inl hdet))) hc
    have hl' : LooksUp k (homeBough i) (activeEpoch s) q.dest.toNat { q with detour := eidNone } (inc (cnpCtr 14) r) x _ :=
      ⟨rfl, hx, ((SameEcc.inc ..).struck ..).trans hclr', rfl⟩
    have hs : SameRegs u x := hl.sameRegs.trans (.trans (.of_evOnly (evOnly_inc ..)) hl'.sameRegs)
    have hch' := chooseOut_first (k := k) (key := q.dest.toNat) (b := activeEpoch s) (p := { q with detour := eidNone })
      ha.cls hm' hc'
    exact clocked_runs fun _ => ha.queued ((routePkt_abandons hl hdrop hloc hch hdet).trans
      (routePkt_departs hl' hdrop' hloc' hch' (hin.sameRegs.trans hs) hroom)) rfl hs
  case stageFull =>
    rintro i p q u k key r w o s _ (hin : Enters i p q u s) hcls h8 h9 htree hd hmode hep hk hkey hr hclr hw hdrop
      hloc hm hc h1 h3 rfl
    have ha : Routed i p q u k s := ⟨hin, hcls, h8, h9, htree, hd, hmode, hep, hk⟩
    have hl : LooksUp k (homeBough i) (activeEpoch s) key q u r w := ⟨hkey, hr, hclr, hw⟩
    have hch := chooseOut_first (k := k) (key := key) (b := activeEpoch s) ha.cls (ha.routeMode.trans (congrArg _ hm)) hc
    exact clocked_runs fun _ => ha.dropped
      (by rw [routePkt_net hl hdrop hloc hch, if_pos rfl, routeNet_full (hin.sameRegs.trans hl.sameRegs) h1 h3])
  case otherBank =>
    rintro i p q u k o r w s _ (hin : Enters i p q u s) hcls h8 h9 htree hd hmode hep hb hk hdet hclr hr hw hloc hc ho
      hus rfl
    obtain ⟨hregs, hecc, hreplica⟩ := otherBank_keeps s u
    have hl : LooksUp k (homeBough i) q.epoch q.dest.toNat q (otherBank s u) r w :=
      ⟨(routeKey_destination hdet).symm, hr, (hecc.struck ..).trans hclr, hw⟩
    have hq := hin.cls
    exact clocked_runs fun _ => by
      rw [hin.routed_by hcls h8 h9 htree hd hmode (hin.bankOf_other hep hb) ((hreplica _).trans hk),
        routePkt_local_usable hl hloc hdet (by omega) hc ho hus]
      exact deliverRoute_queued (by omega) rfl (hin.sameRegs.trans (hregs.trans hl.sameRegs))
  case management =>
    rintro i p k o m r w s _ hi hon hup hrx hquar hcls h8 h9 h40 h41 hd hhop hmode hdet hm hk hclr hr hw hloc hc rfl
      rfl
    have hc3 : clsOf (withActiveEpoch s p) = 3 := congrArg BitVec.toNat hcls
    have hs : SameRegs s m := SameRegs.ingressMeter hm
    have hl : LooksUp k (homeBough i) (activeEpoch s) p.dest.toNat (withActiveEpoch s p) m r w :=
      ⟨(routeKey_destination hdet).symm, hr, hclr, hw⟩
    exact clocked_runs fun _ => by
      rw [effPacketArrive_quarantined_mgt hi hon hup hrx hquar (congrArg BitVec.toNat hcls) (not_or.mpr ⟨h8, h9⟩),
        arriveRouted_by_route (p := withActiveEpoch s p) hd (by omega) (fun _ => hhop) (if_pos hi).symm hmode
          (.inl ⟨h40, h41⟩) (classMeter_of_ingressMeter hc3 hm) (bankOf_active hs rfl) hk,
        routePkt_local hl hloc hdet, routeLocal_management hc3 (by rw [hc]; rfl)]
      exact deliverRoute_queued (by omega) rfl (hs.trans hl.sameRegs)
  case red =>
    rintro i p q u m s _ hi hm hus hsrc hcls h8 h9 hd hmode rfl rfl hmet rfl
    have hk : clsOf p = p.cls.toNat - 2 + 2 := by rw [clsOf]; omega
    exact clocked_runs fun _ => by
      rw [effPacketArrive_internal hi hm hus (not_or.mpr ⟨h8, h9⟩),
        arriveRouted_eq (q := injected u p) hd (fun _ => .inr hsrc) (by omega) (if_neg (not_lt.mpr hi)).symm (.inl hmode),
        classMeter_of_ingressMeter (p := injected u p) hk hmet]
      exact (if_pos rfl).trans (dropArrival_internal p _ hi)
  case noShare =>
    rintro i p q u k o m r w s _ hi hm hus hsrc hcls h8 h9 h40 h41 hd hmode rfl rfl hmet hk hclr hr hw hdrop hloc hc
      hroom hshare rfl
    have hc2 : clsOf p = 2 := congrArg BitVec.toNat hcls
    have hs : SameRegs u m := SameRegs.ingressMeter hmet
    have hl : LooksUp k (homeBough i) (activeEpoch u) p.dest.toNat (injected u p) m r w :=
      ⟨rfl, hr, hclr, hw⟩
    have hch := chooseOut_first (k := k) (key := p.dest.toNat) (b := activeEpoch u) (p := injected u p) hc2 (if_pos hcls) hc
    exact clocked_runs fun _ => by
      rw [effPacketArrive_internal hi hm hus (not_or.mpr ⟨h8, h9⟩),
        arriveRouted_by_route (q := injected u p) hd (fun _ => .inr hsrc) (by omega) (if_neg (not_lt.mpr hi)).symm hmode
          (.inl ⟨h40, h41⟩) (classMeter_of_ingressMeter hc2 hmet) (bankOf_active hs rfl) hk,
        routePkt_departs hl hdrop hloc hch (hs.trans hl.sameRegs) (.inl hroom)]
      exact (if_pos ⟨hc2, hshare⟩).trans (dropArrival_internal p _ hi)
  case treeElsewhere =>
    rintro i p q u x s _ hi (hin : Enters i p q u s) hcls ht hd hne - rfl
    exact clocked_runs fun _ => by rw [hin.steered hi hcls ht hd, if_pos hne]
  case treeUnit =>
    rintro i p q u x o s _ hi (hin : Enters i p q u s) hcls ht hdest hd rfl hst htag rfl rfl
    have hq := hin.cls
    exact clocked_runs fun _ => by
      rw [hin.steered hi hcls ht hd, if_neg (not_not.mpr hdest), if_pos ⟨hst, htag⟩]
      exact queueAt_other_class (by omega) rfl hin.sameRegs
  case treeNoContext =>
    rintro i p q u x s _ hi (hin : Enters i p q u s) hcls ht hdest hd rfl hno rfl
    exact clocked_runs fun _ => by
      rw [hin.steered (by omega) hcls ht hd, if_neg (not_not.mpr hdest), if_neg (fun h => hno.elim h.1 (absurd h.2)),
        if_neg (not_le.mpr hi)]
  case treeNoTree =>
    rintro i p q u x s _ hi hm (hin : Enters i p q u s) hcls ht hdest hd rfl hno rfl
    have hu : u = s := by
      rcases hin with ⟨h64, -⟩ | ⟨-, -, -, -, -, hu⟩
      · omega
      · exact hu
    exact clocked_runs fun _ => by
      rw [hin.steered hm hcls ht hd, if_neg (not_not.mpr hdest), if_neg (fun h => hno.elim h.1 (absurd h.2)), if_pos hi, hu]
      exact congrArg _ (dropArrival_internal p _ hi)
  case xinv =>
    rintro i p o s _ hi hm hus hx ho rfl
    exact clocked_runs fun _ => by rw [effPacketArrive_xinv hi hm hus hx, crossBole_to ho]
  case inReception =>
    rintro i p k o a u r w s _ hi hon hrx ha hwh hbad hquar hcls h8 h9 h40 h41 hd hmode hhop hep hdet hu hk hclr hr hw
      hloc hc ho hus rfl
    have hs : SameRegs s u := by
      rw [hu]
      exact ⟨rfl, rfl, rfl, rfl⟩
    have hl : LooksUp k (homeBough i) (activeEpoch s) p.dest.toNat p u r w :=
      ⟨(routeKey_destination hdet).symm, hr, hclr, hw⟩
    have harr : effPacketArrive i p s = arriveRouted i { a with arrived := true } p u := by
      rw [hu]
      exact effPacketArrive_in_reception hi hon hrx ha hwh hquar (by rw [clsOf]; omega) (not_or.mpr ⟨h8, h9⟩)
    exact clocked_runs fun _ => by
      rw [harr, arriveRouted_by_route hd (by omega) (fun _ => by rw [hs.rwsF]; exact hhop) (if_pos hi).symm hmode
          (.inl ⟨h40, h41⟩) (classMeter_unmetered hcls) (bankOf_active hs hep) hk,
        routePkt_local_usable hl hloc hdet (by rw [clsOf]; omega) hc ho hus, ← hwh]
      exact deliverRoute_queued (by rw [clsOf]; omega) hbad (hs.trans hl.sameRegs)

end Sys2Proof.Proofs
end

section
/-! PROOFS. Staging, its read back, discard and check, and GET_EPOCH (O2: R114, R420, R421, R424, R425, R498). -/

namespace Sys2Proof.Proofs
open Sys2Proof.Machine Sys2Proof.Laws

/-- STAGE_WRITE of whole words that staging does not refuse. -/
theorem effStageWrite_accepted {r : GcpReq} {s : State} (ht : taken .writes false r s = true) (hpos : lengthOf r ≠ 0)
    (hn4 : lengthOf r % 4 = 0) (ha4 : (wAt r.words 5).toNat % 4 = 0)
    (hfree : stageRefusal s (wordAddrs (wAt r.words 5).toNat (lengthOf r / 4)) = none) :
    effStageWrite r s = ok r [] (unready (stageWords (wAt r.words 5).toNat (dataOf r 6) s)) := by
  rw [effStageWrite, gcp_taken _ ht]
  simp only [hpos, hn4, ha4, hfree, ne_eq, not_true, or_self, if_false]

/-- STAGE_READ of whole words. -/
theorem effStageRead_aligned {r : GcpReq} {s : State} {as : List Nat} (ht : taken .reads false r s = true)
    (hn4 : lengthOf r % 4 = 0) (ha4 : (wAt r.words 5).toNat % 4 = 0)
    (has : as = wordAddrs (wAt r.words 5).toNat (lengthOf r / 4)) :
    effStageRead r s = okData r (as.map (readStaged s)) (clearRc as s) := by
  rw [effStageRead, gcp_taken _ ht]
  simp only [hn4, ha4, ← has, ne_eq, not_true, or_self, if_false]

section
variable {r : GcpReq} {s : State} (ht : taken .none false r s = true)
  (hb : s.stage.bank = .opened ∨ s.stage.bank = .ready)
include ht hb

/-- STAGE_DISCARD of something staged while the staging area is OPEN or READY starts the copy. -/
theorem effStageDiscard_staged (hst : anyStaged s = true) :
    effStageDiscard r s = ok r [] { s with
      stage.staged := [], stage.resvStaged := [], stage.bank := .copying, stage.tblStaged := false } := by
  rw [effStageDiscard, gcp_taken _ ht]
  rcases hb with hb | hb <;>
    simp only [hst, hb, Bool.not_true, Bool.false_eq_true, reduceCtorEq, or_self, if_false]

theorem effCheck_idle_bank :
    effCheck r s =
      if anyStaged s then hold r { s with stage.checking := some r } else ok r [1] { s with stage.bank := .ready } := by
  have hidle : bankBusy s = false := by rcases hb with hb | hb <;> simp [bankBusy, hb]
  rw [effCheck, gcp_taken _ ht]
  cases hst : anyStaged s <;>
    simp only [hidle, Bool.not_true, Bool.not_false, Bool.false_eq_true, if_false, if_true]

end

/-- Settles O2: each clause is its command where no test refuses it. -/
theorem stagingCommands : Obligations.StagingCommands := by
  unfold Obligations.StagingCommands
  refine ⟨?write, ?read, ?discard, ?checkEmpty, ?checkStaged, ?epoch⟩
  case write =>
    rintro r s _ ht hpos hn4 ha4 hfree rfl
    exact clocked_runs fun _ => effStageWrite_accepted ht hpos hn4 ha4 hfree
  case read =>
    rintro r s _ ht hn4 ha4 rfl
    exact clocked_runs fun _ => effStageRead_aligned ht hn4 ha4 rfl
  case discard =>
    rintro r s _ ht hst hb rfl
    exact clocked_runs fun _ => effStageDiscard_staged ht hb hst
  case checkEmpty =>
    rintro r s _ ht hst hb rfl
    exact clocked_runs fun _ => by rw [effCheck_idle_bank ht hb, if_neg (by simp [hst])]
  case checkStaged =>
    rintro r s _ ht hst hb rfl
    exact clocked_runs fun _ => by rw [effCheck_idle_bank ht hb, if_pos hst]
  case epoch =>
    rintro r s _ ht rfl
    exact clocked_runs fun _ => gcp_taken _ ht

end Sys2Proof.Proofs
end

section
/-! PROOFS. COMMIT (O3: R114, R422), and the state at which O3 fails: one where the staged reservation and the active one
differ as lists of words and not as the eight words of an entry. -/

namespace Sys2Proof.Proofs
open Sys2Proof.Machine Sys2Proof.Laws

/-- The staged set has become active and the banks have been swapped, before what the changes entail (R422). -/
def bankSwapped (s : State) : State :=
  { s with
    stage := { s.stage with
      rws := (s.stage.staged.map (fun e => (e.1, becomes s e))).foldl (fun m e => Maps.insert e.1 e.2 m) s.stage.rws,
      resv := s.stage.resvStaged.foldl (fun m e => Maps.insert e.1 e.2 m) s.stage.resv,
      epoch := s.stage.epoch + 1,
      staged := [],
      resvStaged := [],
      tblStaged := false,
      bank := .draining,
      lastSwap := s.time.now,
      drainClk := s.time.now,
      commitT := 0 } }

/-- The same with what the changes of the staged words entail. -/
def wordsCommitted (s : State) : State :=
  (s.stage.staged.map (fun e => objAddr e.1)).eraseDups.foldl (fun t a => commitWord s a t) (bankSwapped s)

/-- The meter of the reservation with key `k` starts full, and what waits for it is metered again (R143, R159). -/
def meterRestarted (k : Nat) (v : State) : State :=
  meterAfresh (k / 2 ^ 14) (k % 2 ^ 14) { v with
    net.meters := Maps.put {} v.net.meters (resvMeter (k / 2 ^ 14) (k % 2 ^ 14))
      (fullMeter (fAt (resv v (k / 2 ^ 14) (k % 2 ^ 14)) 3 0 24) (fAt (resv v (k / 2 ^ 14) (k % 2 ^ 14)) 4 0 24)
        v.time.now) }

/-- A swap with one staged reservation: its meter starts full exactly where the eight words of its entry change. -/
theorem swapBanks_one_reservation {s : State} {k : Nat} {ws : List Word} (hk : s.stage.resvStaged = [(k, ws)]) :
    swapBanks s = raise 153 1 (inc (cnpCtr 16)
      (if resv s (k / 2 ^ 14) (k % 2 ^ 14) = resv (wordsCommitted s) (k / 2 ^ 14) (k % 2 ^ 14) then wordsCommitted s
        else meterRestarted k (wordsCommitted s))) := by
  rw [swapBanks, hk]
  rfl

theorem effCommit_ready {r : GcpReq} {s : State} (ht : taken .none false r s = true) (hb : s.stage.bank = .ready) :
    effCommit r s = ok r [(swapBanks s).stage.epoch] (swapBanks s) := by
  rw [effCommit, gcp_taken _ ht]
  simp only [hb, reduceCtorEq, ne_eq, not_true, if_false]

/-- O3's second clause, where the words of the reservation's entry change. -/
theorem effCommit_one_reservation {r : GcpReq} {s z : State} {k : Nat} {ws : List Word} (ht : taken .none false r s = true)
    (hb : s.stage.bank = .ready) (hk : s.stage.resvStaged = [(k, ws)])
    (hne : resv s (k / 2 ^ 14) (k % 2 ^ 14) ≠ resv (wordsCommitted s) (k / 2 ^ 14) (k % 2 ^ 14))
    (hz : z = raise 153 1 (inc (cnpCtr 16) (meterRestarted k (wordsCommitted s)))) :
    effCommit r s = ok r [z.stage.epoch] z := by
  rw [effCommit_ready ht hb, swapBanks_one_reservation hk, if_neg hne, hz]

/-- COMMIT over I3C. -/
def commitRequest : GcpReq := { via := .i3c, words := padW 16 [0x104] }

/-- The eight words of an entry, all zero: what RESV_WRITE of zeros stages. -/
def zeroEntry : List Word := List.replicate 8 0

/-- At time 5 the bank is READY, and zeros are staged for reservation 5 of host port 0. Nothing has written that reservation
before: it reads as zeros already. -/
def zeroReservation : State :=
  { State.reset with
    mgmt.fw := .running, time.now := 5, stage.bank := .ready, stage.resvStaged := [(5, zeroEntry)] }

/-- What O3 says that COMMIT leaves before its reply: the meter of reservation 5 has started full at time 5. -/
def statedSwap : State := raise 153 1 (inc (cnpCtr 16) (meterRestarted 5 (wordsCommitted zeroReservation)))
def statedCommit : State := ok commitRequest [statedSwap.stage.epoch] statedSwap

/-- What COMMIT leaves: no meter has been touched. -/
def modelCommit : State := effCommit commitRequest zeroReservation

/-- Refutes O3 by its second clause, which asks that the words held for the reservation differ from the staged ones as lists
(`Maps.get [] s.stage.resv k ≠ ws`). In `zeroReservation` nothing is held and zeros are staged, so no parameter of the
reservation changes and its meter is left alone (R143). Where the entry's words change the clause holds
(`effCommit_one_reservation`). -/
theorem not_commitCommands : ¬ Obligations.CommitCommands := by
  unfold Obligations.CommitCommands
  rintro ⟨-, hone, -⟩
  have stated : exec (.commit commitRequest) zeroReservation = .next statedCommit :=
    (hone commitRequest (bankSwapped zeroReservation) (wordsCommitted zeroReservation) statedSwap 5 zeroEntry
      zeroReservation statedCommit (by decide) rfl rfl rfl rfl (by decide) rfl rfl).2 (by decide +kernel)
  have runs : exec (.commit commitRequest) zeroReservation = .next modelCommit :=
    (clocked_runs fun _ => rfl).2 (show quiet zeroReservation modelCommit = true by decide +kernel)
  have same : statedCommit = modelCommit := by
    rw [stated] at runs
    injection runs
  have restarted : statedCommit.net.meters = [(resvMeter 0 5, fullMeter 0 0 5)] := by decide +kernel
  have untouched : modelCommit.net.meters = [] := by decide +kernel
  rw [same, untouched] at restarted
  cases restarted

end Sys2Proof.Proofs
end

section
/-! PROOFS. The end of a telemetry period and of a replica's refresh (O28: R101, R120, R121, R145 to R147, R151). -/

namespace Sys2Proof.Proofs
open Sys2Proof.Machine Sys2Proof.Laws

@[simp] theorem rwsF_eccWrite (p : Nat × Nat → Bool) (s : State) (a lo n : Nat) :
    rwsF (eccWrite p s) a lo n = rwsF s a lo n := by
  unfold eccWrite
  split <;> rfl

/-- A word's errors and the crossbar's records are apart. -/
theorem eccWrite_with_net (p : Nat × Nat → Bool) (s : State) (x : Net) :
    { eccWrite p s with net := x } = eccWrite p { s with net := x } := by
  unfold eccWrite
  split <;> rfl

/-- A telemetry period whose records have been read ends (R146): they restart, and the sequence number advances. -/
def periodEnded (e : State) : State :=
  eccWrite (fun x => x.1 == eccTel) { e with net.tel := telRestart e, net.snapSeq := e.net.snapSeq + 1 }

/-- The slot of the history ring that a period's end writes (R147). -/
def snapshot (s : State) : List Word :=
  let ws := w64 s.time.now ++ [w32 (nodeEid s).toNat, w32 (rwsF s 0x400 0 20)] ++ w64 s.net.snapSeq ++ [0, 0] ++ telAll s
  ws ++ List.replicate (2560 - ws.length) 0 ++ mapRecord s

/-- A snapshot goes into the next slot of the ring (R147). -/
def historyWith (ws : List Word) (x : Net) : Net :=
  { x with
    hist := Maps.insert x.histSlot (Maps.putList 0 [] 0 ws) x.hist
    histSlot := (x.histSlot + 1) % histSlots
    wrapped := x.wrapped || decide (x.histSlot + 1 = histSlots) }

theorem effTelemetryPeriodEnd_eq {s e : State} (he : e = coreEcc eccMap (coreEcc eccTel s)) :
    effTelemetryPeriodEnd s =
      if rwsF e 0x400 20 1 = 0 then periodEnded e
      else if !hbmOk e then raise 154 8 (inc (cnpCtr 34) (periodEnded e))
      else { periodEnded e with net := historyWith (snapshot s) (periodEnded e).net } := by
  have hen : rwsF (periodEnded e) 0x400 20 1 = rwsF e 0x400 20 1 := rwsF_eccWrite ..
  have hh : hbmOk (periodEnded e) = hbmOk e := hbmOk_eccWrite ..
  rw [← hen, ← hh, he]
  rfl

/-- Settles O28: the clauses are the branches of the two commands. -/
theorem telemetryAndReplicas : Obligations.TelemetryAndReplicas := by
  unfold Obligations.TelemetryAndReplicas
  refine ⟨?noHistory, ?skipped, ?written, ?refreshed, ?elsewhere⟩
  case noHistory =>
    rintro e s _ he hen rfl
    exact clocked_runs fun _ => by rw [effTelemetryPeriodEnd_eq he, if_pos hen, periodEnded]
  case skipped =>
    rintro e s _ he hen hh rfl
    exact clocked_runs fun _ => by
      rw [effTelemetryPeriodEnd_eq he, if_neg (by simp [hen]), if_pos (by simp [hh]), periodEnded]
  case written =>
    rintro e ws s _ he hen hh rfl rfl
    exact clocked_runs fun _ => by
      rw [effTelemetryPeriodEnd_eq he, if_neg (by simp [hen]), if_neg (by simp [hh]), periodEnded, eccWrite_with_net,
        net_eccWrite, historyWith, snapshot]
  case refreshed =>
    rintro k s _ hr hon hf rfl
    exact clocked_runs fun _ => if_neg (by simp [hr, hon, hf])
  case elsewhere =>
    rintro k s _ h rfl
    exact clocked_runs fun _ => if_pos (by simpa using h)

end Sys2Proof.Proofs
end

section
/-! PROOFS. Output arbitration (O27: R126 to R128, R132, R134, R145), and the state at which O27 fails: one where the granted
packet is a copy of a Crown context's down slot. -/

namespace Sys2Proof.Proofs
open Sys2Proof.Machine Sys2Proof.Laws

/-- The management priority grant has nothing to take: no gap is set, the gap is not over, or no MGT packet is eligible
(R132). -/
def NoPriorityGrant (s : State) (o : Nat) : Prop :=
  rwsF s (shpBase o) 16 8 = 0 ∨ (∃ t, (outp s o).mgtLast = some t ∧ s.time.now < t + rwsF s (shpBase o) 16 8 * 1000) ∨
    rrHead (outp s o).rr 3 (eligible s o) = none

/-- At an idle internal output neither the management gap nor the assured traffic comes first, and DRR chooses `h` with these
pointers and deficits (R132, R134). -/
structure DrrChooses (s : State) (o : Nat) (h : Held) (rr : TMap Nat) (c : Nat) (df : TMap Nat) : Prop where
  idle : (outp s o).busy = none
  output : o < 73
  internal : 64 ≤ o
  noPriority : NoPriorityGrant s o
  noAssured : (outp s o).credit < 0 ∨ oldestAsd (eligible s o) = none
  chosen : drr (quantum s o) (outp s o).rr (eligible s o) (queuedAt s o) 400 (outp s o).drrPtr (outp s o).deficit =
    some (h, rr, c, df)

theorem effOutputGrant_of_drrChooses {o c : Nat} {h : Held} {rr df : TMap Nat} {s : State}
    (hd : DrrChooses s o h rr c df) :
    effOutputGrant o s = grant h (updOut o (fun x => { x with rr := rr, drrPtr := c, deficit := df }) s) := by
  obtain ⟨hbusy, ho, hi, hmgt, hasd, hdrr⟩ := hd
  have ha : (if 0 ≤ (outp s o).credit then oldestAsd (eligible s o) else none) = none := by
    obtain hneg | hnone := hasd
    · exact if_neg (Int.not_le.mpr hneg)
    · rw [hnone, ite_self]
  unfold effOutputGrant
  simp only [hbusy, Option.isSome_none, Bool.false_eq_true, false_or, Nat.not_le.mpr ho, Nat.not_lt.mpr hi, false_and, if_false]
  obtain hgap | ⟨t, hlast, hlt⟩ | hnone := hmgt
  · simp only [hgap, bne_self_eq_false, Bool.false_and, Bool.false_eq_true, if_false, ha, hdrr]
  · simp only [hlast, Nat.not_le.mpr hlt, decide_false, Bool.and_false, Bool.false_eq_true, if_false, ha, hdrr]
  · simp only [hnone, ite_self, ha, hdrr]

@[simp] theorem time_creditInput (i vc n : Nat) (s : State) : (creditInput i vc n s).time = s.time := by
  unfold creditInput
  split <;> rfl

@[simp] theorem outp_creditInput (i vc n : Nat) (s : State) (o : Nat) : outp (creditInput i vc n s) o = outp s o := by
  unfold creditInput
  split <;> rfl

@[simp] theorem time_stageCells (i o n : Nat) (s : State) : (stageCells i o n s).time = s.time := by
  simp only [stageCells, apply_ite State.time, count_time, ite_self]

@[simp] theorem outp_stageCells (i o n : Nat) (s : State) (k : Nat) : outp (stageCells i o n s) k = outp s k := by
  simp only [stageCells, apply_ite (outp · k), outp_count, ite_self]

/-- The cells of a granted packet have been freed and its grant at an internal output has been counted (R59, R121, R126). -/
def grantCounted (h : Held) (w : State) : State :=
  let n := lenOf h.pkt
  let c := clsOf h.pkt
  let u := creditInput h.inp h.inVc n { w with net.voq := dropOne h w.net.voq }
  stageCells h.inp h.out n (count (shpBase h.out + 0x60 + 8 * c) n (inc (shpBase h.out + 0x40 + 8 * c)
    (updOut h.out (fun x => { x with used := Maps.upd 0 x.used c (fun k => k + n) }) u)))

@[simp] theorem time_grantCounted (h : Held) (w : State) : (grantCounted h w).time = w.time := by
  simp only [grantCounted, time_stageCells, count_time, inc_time, updOut_time, time_creditInput]

/-- The sample record of a granted packet's output and class has it, with its delay (R145). -/
def delayNoted (now : Nat) (h : Held) (s : State) : State :=
  { s with net.tel := Maps.upd {} s.net.tel (4 * h.out + clsOf h.pkt) (fun r => { r with
      delayMax := max r.delayMax (now - h.arrived),
      delaySum := r.delaySum + (now - h.arrived),
      pkts := r.pkts + 1,
      cells := r.cells + lenOf h.pkt }) }

/-- What O27's sixth clause says that the grant of a whole packet at an internal output leaves. -/
def grantDelivered (h : Held) (w : State) : State :=
  deliverTx h.out (updOut h.out (fun x => { x with busy := some h, hold := false })
    (delayNoted w.time.now h (grantCounted h w)))

theorem updOut_congr {o : Nat} {f g : Output → Output} {s : State} (h : f (outp s o) = g (outp s o)) :
    updOut o f s = updOut o g s := by
  rw [updOut, updOut, h]

/-- A whole packet of another class than ASD is delivered as it starts at an internal output (R127). -/
theorem startTx_internal {h : Held} {s : State} (hout : 64 ≤ h.out) (hw : h.whole = true) (hcls : clsOf h.pkt ≠ 2) :
    startTx h s = deliverTx h.out (updOut h.out (fun x => { x with busy := some h, hold := false, due := false }) s) := by
  simp only [startTx, Nat.not_lt.mpr hout, hcls, hw, if_false, true_or, if_true]

/-- The grant of a readable whole packet that is no copy of a down slot, at an internal output (R126, R145). -/
theorem grant_internal {h : Held} {w : State} (hout : 64 ≤ h.out) (hecc : h.ecc ≠ .bad) (hw : h.whole = true)
    (hcls : clsOf h.pkt ≠ 2) (hcopy : copyOf h = none) :
    grant h w = startTx h (delayNoted w.time.now h (grantCounted h w)) := by
  have hgood (s : State) : copyEcc s h = .good := by simp only [copyEcc, hcopy]
  have hgone (s : State) : copyGone h s = s := by simp only [copyGone, hcopy]
  rw [← time_grantCounted h w]
  simp only [grant, hecc, hgood, hgone, hw, hcls, Nat.not_lt.mpr hout, reduceCtorEq, if_false, if_true, true_or]
  rfl

/-- The grant leaves what the clause says for a packet that is no copy of a down slot, at an output that has nothing due. -/
theorem grant_of_no_copy {h : Held} {w : State} (hout : 64 ≤ h.out) (hecc : h.ecc ≠ .bad) (hw : h.whole = true)
    (hcls : clsOf h.pkt ≠ 2) (hcopy : copyOf h = none) (hdue : (outp w h.out).due = false) :
    grant h w = grantDelivered h w := by
  -- A due mark would stand until the delivery ends: the model clears it at the start, the clause does not name it.
  have hstands : (outp (delayNoted w.time.now h (grantCounted h w)) h.out).due = false := by
    rw [← hdue]
    show (outp (grantCounted h w) h.out).due = _
    simp only [grantCounted, outp_stageCells, outp_count, outp_inc, outp_updOut_same, outp_creditInput]
    rfl
  rw [grant_internal hout hecc hw hcls hcopy, startTx_internal hout hw hcls, grantDelivered]
  exact congrArg _ (updOut_congr (by rw [← hstands]))

/-- O27's sixth clause, for a packet that is no copy of a down slot and an output that has nothing due. -/
theorem effOutputGrant_delivers {o c : Nat} {h : Held} {rr df : TMap Nat} {s : State} (hd : DrrChooses s o h rr c df)
    (hecc : h.ecc ≠ .bad) (hw : h.whole = true) (hout : h.out = o) (hcls : clsOf h.pkt ≠ 2) (hcopy : copyOf h = none)
    (hdue : (outp s o).due = false) :
    effOutputGrant o s =
      grantDelivered h (updOut o (fun x => { x with rr := rr, drrPtr := c, deficit := df }) s) := by
  subst hout
  rw [effOutputGrant_of_drrChooses hd,
    grant_of_no_copy hd.internal hecc hw hcls hcopy (by rw [outp_updOut_same]; exact hdue)]

/-- A result of chunk 0 of context 0, which Crown unit 0 sends down to N port 0. -/
def downCopy : Held :=
  { inp := xC 0, out := xN 0, vc := 4, inVc := 0, arrived := 0, bank := none,
    pkt := sealPkt (treePkt false 0 0 0 0 0 0 0 0 0 0 []) }

/-- Bole 0 is ON and linked. Context 0 is ACTIVE, and the last copy of its only down slot is queued at N port 0. -/
def lastCopyQueued : State :=
  { State.reset with
    pw.dom := [84, 85, 86, 87, 92].map (fun d => (d, { st := .on, wasOff := false }))
    pw.pllLock := 1
    net.d2d := [(0, { up := true }), (1, { up := true }), (2, { up := true })]
    net.voq := [downCopy]
    trees := [(0, { st := 1, started := true, chunks := 1, downs := [{ chunk := 0, left := 1 }] })] }

/-- What O27 says that the grant at N port 0 leaves: the packet is delivered, and the down slot stays. -/
def statedGrant : State :=
  grantDelivered downCopy (updOut 64 (fun x => { x with rr := [(128, 10), (218, 1)], drrPtr := 1, deficit := [(1, 66)] })
    lastCopyQueued)

/-- What the grant leaves: with its last copy the down slot has become free (R338). -/
def modelGrant : State := effOutputGrant 64 lastCopyQueued

/-- Refutes O27 by its sixth clause, which says of a whole packet that DRR chooses at an internal output what its grant leaves,
and not that the packet is no copy of a Crown context's down slot. In `lastCopyQueued` it is the last copy, and its grant frees
the slot. For a packet that is no copy, at an output that has nothing due, the clause holds (`effOutputGrant_delivers`). -/
theorem not_outputArbitration : ¬ Obligations.OutputArbitration := by
  unfold Obligations.OutputArbitration
  rintro ⟨-, -, -, -, -, hdelivered, -⟩
  have stated : exec (.outputGrant 64) lastCopyQueued = .next statedGrant :=
    (hdelivered 64 downCopy [(128, 10), (218, 1)] 1 [(1, 66)] _ _ _ lastCopyQueued statedGrant (by decide) (by decide)
      (Or.inl (by decide)) (by decide) (Or.inr (Or.inr (by decide +kernel))) (Or.inr (by decide +kernel))
      (by decide +kernel) (by decide) rfl rfl (by decide) rfl rfl rfl rfl).2 (by decide +kernel)
  have runs : exec (.outputGrant 64) lastCopyQueued = .next modelGrant :=
    (clocked_runs fun _ => rfl).2 (show quiet lastCopyQueued modelGrant = true by decide +kernel)
  have same : statedGrant = modelGrant := by
    rw [stated] at runs
    injection runs
  have kept : (tree statedGrant 0).downs = [{ chunk := 0, left := 1 }] := by decide +kernel
  have freed : (tree modelGrant 0).downs = [] := by decide +kernel
  rw [same, freed] at kept
  cases kept

end Sys2Proof.Proofs
end

section
/-! PROOFS. Tree entries and reservations, staged and read back (O21: R154, R320, R410, R425). -/

namespace Sys2Proof.Proofs
open Sys2Proof.Machine Sys2Proof.Laws

section
variable {r : GcpReq} {s : State} (ht : taken .none false r s = true)
include ht

/-! ### Tree entries -/

theorem effTreeCreate_accepted (hfree : stageRefusal s (wordAddrs (0x02200000 + fAt r.words 5 0 10 * 0x20) 8) = none) :
    effTreeCreate r s = ok r [] (unready (stageWords (0x02200000 + fAt r.words 5 0 10 * 0x20)
      ((List.range 8).map (fun i => wAt r.words (6 + i))) s)) := by
  rw [effTreeCreate, gcp_taken _ ht]
  simp only [hfree]

theorem effTreeDestroy_accepted (hfree : stageRefusal s (wordAddrs (0x02200000 + fAt r.words 5 0 10 * 0x20) 8) = none) :
    effTreeDestroy r s = ok r [] (unready (stageWords (0x02200000 + fAt r.words 5 0 10 * 0x20) (List.replicate 8 0) s)) := by
  rw [effTreeDestroy, gcp_taken _ ht]
  simp only [hfree]

section
variable {st d : Nat} (hst : stageRefusal s (wordAddrs (0x02200000 + fAt r.words 5 0 10 * 0x20) 8) = some (st, d))
include hst

theorem effTreeCreate_refused : effTreeCreate r s = finish r st d 0 [] [] s := by
  rw [effTreeCreate, gcp_taken _ ht]
  simp only [hst]

theorem effTreeDestroy_refused : effTreeDestroy r s = finish r st d 0 [] [] s := by
  rw [effTreeDestroy, gcp_taken _ ht]
  simp only [hst]

end

/-! ### Reservations -/

/-- RESV_WRITE asks first for the domain of the Bole's memory, then for a bank that is not PENDING. -/
theorem effResvWrite_eq : effResvWrite r s =
    if domOn s (dMem (boleOf (fAt r.words 5 16 2))) = false then fail r stNotPermitted s
    else if s.stage.bank = .pending then fail r stBusy s
    else ok r [] (unready { s with
      stage.resvStaged := Maps.insert (resvKey (fAt r.words 5 16 2) (fAt r.words 5 0 14)) (resvWords (r.words.drop 6))
        s.stage.resvStaged }) := by
  rw [effResvWrite, gcp_taken _ ht]
  simp only [Bool.not_eq_true']

/-- RESV_READ answers the staged entry where bit 20 asks for it and there is one, and the ACTIVE one otherwise. -/
theorem effResvRead_eq : effResvRead r s =
    if domOn s (dMem (boleOf (fAt r.words 5 16 2))) = false then fail r stNotPermitted s
    else ok r (padW 8 (if bAt r.words 5 20 then
        (Maps.find? s.stage.resvStaged (resvKey (fAt r.words 5 16 2) (fAt r.words 5 0 14))).getD
          (Maps.get [] s.stage.resv (resvKey (fAt r.words 5 16 2) (fAt r.words 5 0 14)))
      else Maps.get [] s.stage.resv (resvKey (fAt r.words 5 16 2) (fAt r.words 5 0 14)))) s := by
  rw [effResvRead, gcp_taken _ ht]
  simp only [Bool.not_eq_true']

end

/-- Settles O21: each clause is the branch of its command that its hypotheses pick. -/
theorem treesAndReservationsStaged : Obligations.TreesAndReservationsStaged := by
  unfold Obligations.TreesAndReservationsStaged
  refine ⟨?create, ?destroy, ?createRefused, ?destroyRefused, ?write, ?writeBusy, ?writeOff, ?readOff, ?readActive,
    ?readStaged⟩
  case create =>
    rintro r s _ ht hfree rfl
    exact clocked_runs fun _ => effTreeCreate_accepted ht hfree
  case destroy =>
    rintro r s _ ht hfree rfl
    exact clocked_runs fun _ => effTreeDestroy_accepted ht hfree
  case createRefused =>
    rintro r st d s _ ht hst rfl
    exact clocked_runs fun _ => effTreeCreate_refused ht hst
  case destroyRefused =>
    rintro r st d s _ ht hst rfl
    exact clocked_runs fun _ => effTreeDestroy_refused ht hst
  case write =>
    rintro r s _ ht hon hb rfl
    exact clocked_runs fun _ => by rw [effResvWrite_eq ht, if_neg (by simp [hon]), if_neg hb]
  case writeBusy =>
    rintro r s _ ht hon hb rfl
    exact clocked_runs fun _ => by rw [effResvWrite_eq ht, if_neg (by simp [hon]), if_pos hb]
  case writeOff =>
    rintro r s _ ht hoff rfl
    exact clocked_runs fun _ => by rw [effResvWrite_eq ht, if_pos hoff]
  case readOff =>
    rintro r s _ ht hoff rfl
    exact clocked_runs fun _ => by rw [effResvRead_eq ht, if_pos hoff]
  case readActive =>
    rintro r s _ ht hon hact rfl
    exact clocked_runs fun _ => by rw [effResvRead_eq ht, if_neg (by simp [hon]), if_neg (by simp [hact])]
  case readStaged =>
    rintro r s _ ht hon hstd rfl
    exact clocked_runs fun _ => by rw [effResvRead_eq ht, if_neg (by simp [hon]), if_pos hstd]

end Sys2Proof.Proofs
end

section
/-! PROOFS. A not-ready entry that has become ready (O31: R194, R196), and the state at which O31 fails: one whose map of
queues does not stand in its canonical form. -/

namespace Sys2Proof.Proofs
open Sys2Proof.Machine Sys2Proof.Laws

/-! ### The room of a Bole while a queue's record changes -/

theorem mem_of_find? {α : Type} {k : Nat} {v : α} {m : TMap α} (h : Maps.find? m k = some v) : (k, v) ∈ m := by
  induction m with
  | nil => cases h
  | cons e m ih =>
    obtain ⟨j, w⟩ := e
    rw [Maps.find?] at h
    split at h
    next hj =>
      obtain rfl : w = v := Option.some.inj h
      exact hj ▸ List.mem_cons_self
    next => exact List.mem_cons_of_mem _ (ih h)

/-- A write of a listed key, where keys rise, replaces its one pair in place. -/
theorem map_insert_of_listed {α β : Type} {g : Nat × α → β} {k : Nat} {v w : α} (hg : g (k, v) = g (k, w)) {m : TMap α}
    (hm : m.Pairwise (fun a b => a.1 < b.1)) (hf : Maps.find? m k = some w) : (Maps.insert k v m).map g = m.map g := by
  induction m with
  | nil => cases hf
  | cons e m ih =>
    obtain ⟨j, u⟩ := e
    obtain ⟨hj, hm⟩ := List.pairwise_cons.mp hm
    rw [Maps.find?] at hf
    split at hf
    next hk =>
      obtain rfl : u = w := Option.some.inj hf
      simp [Maps.insert, hk, hg]
    next hk =>
      have hlt : j < k := hj _ (mem_of_find? hf)
      simp [Maps.insert, Nat.not_lt.mpr hlt.le, Ne.symm hk, ih hm hf]

/-- What a Bole holds fetched, while a queue that exists changes in nothing fetched, in a canonical map of queues (R196). -/
theorem fetchedIn_updWq {h q : Nat} {f : Wq → Wq} {s : State} (hwf : Maps.wf {} s.hs.wqs = true)
    (hw : (wqOf s h q).st ≠ .absent) (hst : (f (wqOf s h q)).st = (wqOf s h q).st)
    (hfetched : (f (wqOf s h q)).fetched = (wqOf s h q).fetched)
    (hpartials : (f (wqOf s h q)).partials = (wqOf s h q).partials) (b : Nat) :
    fetchedIn (updWq h q f s) b = fetchedIn s b := by
  simp only [Maps.wf, Maps.sorted, Bool.and_eq_true, decide_eq_true_eq] at hwf
  have hlisted : Maps.find? s.hs.wqs (objKey 20 h q) = some (wqOf s h q) := by
    rw [wqOf, Maps.get]
    rcases hf : Maps.find? s.hs.wqs (objKey 20 h q) with _ | w
    · exact absurd (by rw [wqOf, Maps.get, hf]; rfl) hw
    · rfl
  have hput : f (wqOf s h q) ≠ {} := fun h0 => hw (by rw [← hst, h0])
  unfold fetchedIn updWq setWq Maps.put
  rw [if_neg hput]
  exact congrArg sumN (map_insert_of_listed (by simp only [hfetched, hpartials]) hwf.1 hlisted)

/-! ### WQE_REFETCH of a ready entry -/

/-- A queue that reads its head again has had its answer, and reads again no more (R194). -/
def headRead (h q : Nat) (s : State) : State :=
  updWq h q (fun w => { w with rereads := 0 }) (updWq h q (fun w => { w with reads := 0 }) s)

theorem fetchedIn_headRead {h q : Nat} {s : State} (hwf : Maps.wf {} s.hs.wqs = true) (hw : (wqOf s h q).st ≠ .absent)
    (b : Nat) : fetchedIn (headRead h q s) b = fetchedIn s b := by
  have hwf' : Maps.wf {} (updWq h q (fun w => { w with reads := 0 }) s).hs.wqs = true := Maps.wf_put _ _ _ _ hwf
  have hw' : (wqOf (updWq h q (fun w => { w with reads := 0 }) s) h q).st ≠ .absent := by rwa [wqOf_updWq_same]
  rw [headRead, fetchedIn_updWq hwf' hw' rfl rfl rfl, fetchedIn_updWq hwf hw rfl rfl rfl]

/-- The hypotheses that O31's fourth and fifth clauses share: an entry read again is ready. -/
structure RereadReady (s : State) (h q : Nat) (e : List Word) : Prop where
  active : (wqOf s h q).st = .active
  notHeld : dmaHeld s h (.queue q) = false
  usable : hostUsable s h = true
  rereads : (wqOf s h q).rereads ≠ 0
  ready : entryReady (wqOf s h q) (wqOf s h q).head e = true

section
variable {h q : Nat} {e : List Word} {s : State} (hr : RereadReady s h q e)
include hr

/-- The model asks for room after the queue's record has changed. -/
theorem effWqeRefetch_ready : effWqeRefetch h q (some e) s =
    startFetch h q (updWq h q (fun w => { w with fetching := false })
      (if 8192 ≤ fetchedIn (headRead h q s) (boleOf h) then headRead h q s else takeEntry h q e (headRead h q s))) := by
  obtain ⟨hact, hheld, hus, hre, hready⟩ := hr
  simp only [effWqeRefetch, hact, hheld, hus, hre, ne_eq, not_true, Bool.not_true, Bool.false_eq_true, or_self, if_false,
    Option.isNone_some, Option.filter_some, hready, if_true]
  rfl

/-- O31's fourth clause, for a canonical map of queues. -/
theorem effWqeRefetch_taken (hwf : Maps.wf {} s.hs.wqs = true) (hroom : fetchedIn s (boleOf h) < 8192) :
    effWqeRefetch h q (some e) s =
      startFetch h q (updWq h q (fun w => { w with fetching := false }) (takeEntry h q e (headRead h q s))) := by
  rw [effWqeRefetch_ready hr, fetchedIn_headRead hwf (by simp [hr.active]), if_neg (not_le.mpr hroom)]

/-- O31's fifth clause, for a canonical map of queues. -/
theorem effWqeRefetch_noRoom (hwf : Maps.wf {} s.hs.wqs = true) (hfull : 8192 ≤ fetchedIn s (boleOf h)) :
    effWqeRefetch h q (some e) s =
      startFetch h q (updWq h q (fun w => { w with fetching := false }) (headRead h q s)) := by
  rw [effWqeRefetch_ready hr, fetchedIn_headRead hwf (by simp [hr.active]), if_pos hfull]

end

/-! ### The refutation -/

/-- The entry of a NOP, ready in the first pass of its ring (R186). -/
def readyNop : List Word := [0x00010007, 0, 0, 0, 0, 0, 0, 0, 0, 0, 0, 0, 0, 0, 0, 0x80000000]

/-- A NOP of queue 5 that has been fetched and not issued. -/
def fetchedNop : Job := { id := 0, h := 1, q := 5, idx := 0, ents := [readyNop] }

/-- Host port 1 is UP. Its queue 5 holds 4,096 fetched jobs and has read its head again for the third time; queue 6 is listed
before it, where the keys of a canonical map rise. -/
def queuesOutOfOrder : State :=
  { State.reset with
    pw.dom := [81, 84, 85, 86, 87, 92].map (fun d => (d, { st := .on, wasOff := false }))
    pw.pllLock := 1
    hs.ports := [(1, { st := .up })]
    hs.wqs := [(objKey 20 1 6, { st := .active }),
      (objKey 20 1 5, { st := .active, tail := 1, fetching := true, reads := 1, rereads := 3,
                        fetched := List.replicate 4096 fetchedNop })] }

/-- What O31 says that the read leaves: the entry is taken. -/
def statedRefetch : State :=
  startFetch 1 5 (updWq 1 5 (fun w => { w with fetching := false })
    (takeEntry 1 5 readyNop (headRead 1 5 queuesOutOfOrder)))

/-- What the read leaves: queue 5 is listed a second time, its jobs fill the Bole, and the entry is not taken. -/
def modelRefetch : State := effWqeRefetch 1 5 (some readyNop) queuesOutOfOrder


/-- Refutes O31 by its fourth clause, which asks for room in the Bole before the queue's record changes, and not that the map
of queues is canonical. In `queuesOutOfOrder` the record's change lists queue 5 a second time: with that the Bole holds 8,192
entries, and the entry is not taken. For a canonical map the fourth and the fifth clause hold (`effWqeRefetch_taken`,
`effWqeRefetch_noRoom`). -/
theorem not_fetchingAndIssue : ¬ Obligations.FetchingAndIssue := by
  unfold Obligations.FetchingAndIssue
  rintro ⟨-, -, -, htaken, -⟩
  have stated : exec (.wqeRefetch 1 5 (some readyNop)) queuesOutOfOrder = .next statedRefetch :=
    (htaken 1 5 readyNop queuesOutOfOrder statedRefetch (by decide +kernel) (by decide +kernel) (by decide +kernel)
      (by decide +kernel) (by decide +kernel) (by decide +kernel) rfl).2 (by decide +kernel)
  have runs : exec (.wqeRefetch 1 5 (some readyNop)) queuesOutOfOrder = .next modelRefetch :=
    (clocked_runs fun _ => rfl).2 (show quiet queuesOutOfOrder modelRefetch = true by decide +kernel)
  have same : statedRefetch = modelRefetch := by
    rw [stated] at runs
    injection runs
  have advanced : (wqOf statedRefetch 1 5).head = 1 := by decide +kernel
  have stays : (wqOf modelRefetch 1 5).head = 0 := by decide +kernel
  rw [same, stays] at advanced
  cases advanced

end Sys2Proof.Proofs
end

section
/-! PROOFS. The row of an issued job: it begins the job, and the job's opcode picks its step (R182, R188). -/

namespace Sys2Proof.Proofs
open Sys2Proof.Machine Sys2Proof.Laws

@[simp] theorem op_begun (j : Job) : Job.op { j with begun := true } = Job.op j := rfl
@[simp] theorem opcode_begun (j : Job) : Job.opcode { j with begun := true } = Job.opcode j := rfl
@[simp] theorem subop_begun (j : Job) : Job.subop { j with begun := true } = Job.subop j := rfl

/-- A row at a host port that does not serve, or that names no issued job which has not begun, changes nothing. -/
theorem jobRow_idle {op h q : Nat} {i : Word} {m : HostView} {s : State}
    (hn : hostUp s h = false ∨ freshJob s h q i op = none) : jobRow op h q i m s = s := by
  unfold jobRow
  split
  · rfl
  · next hup => simp [hn.resolve_left (by simpa using hup)]

theorem opcode_of_freshJob {s : State} {h q op : Nat} {i : Word} {j : Job} (hj : freshJob s h q i op = some j) :
    Job.opcode j = op := by
  have hp := List.find?_some hj
  simp only [Bool.and_eq_true, beq_iff_eq] at hp
  exact hp.2

section
variable {h q : Nat} {i : Word} {j : Job} {s : State} (hup : hostUp s h = true)
include hup

theorem jobRow_begins {op : Nat} {m : HostView} (hj : freshJob s h q i op = some j) :
    jobRow op h q i m s = beginJob h j m s := by simp [jobRow, hup, hj]

/-! ### The counter jobs (R299, R300) -/

theorem effCtrCreate_begins (hj : freshJob s h q i 0x30 = some j) : effCtrCreate h q i s =
    stepCtrCreate h { j with begun := true } (updJob h j.id (fun k => { k with begun := true }) s) := by
  simp [effCtrCreate, jobRow_begins hup hj, beginJob, stepJob, opcode_of_freshJob hj]

theorem effCtrDestroy_begins (hj : freshJob s h q i 0x31 = some j) : effCtrDestroy h q i s =
    stepCtrDestroy h { j with begun := true } (updJob h j.id (fun k => { k with begun := true }) s) := by
  simp [effCtrDestroy, jobRow_begins hup hj, beginJob, stepJob, opcode_of_freshJob hj]

theorem effCtrSet_begins (hj : freshJob s h q i 0x32 = some j) : effCtrSet h q i s =
    stepCtrSet h { j with begun := true } (updJob h j.id (fun k => { k with begun := true }) s) := by
  simp [effCtrSet, jobRow_begins hup hj, beginJob, stepJob, opcode_of_freshJob hj]

theorem effCtrAdd_begins (hj : freshJob s h q i 0x33 = some j) : effCtrAdd h q i s =
    stepCtrAdd h { j with begun := true } (updJob h j.id (fun k => { k with begun := true }) s) := by
  simp [effCtrAdd, jobRow_begins hup hj, beginJob, stepJob, opcode_of_freshJob hj]

theorem effCtrRead_begins {m : HostView} (hj : freshJob s h q i 0x38 = some j) : effCtrRead h q i m s =
    stepCtrRead h { j with begun := true } (viewOf m s) (updJob h j.id (fun k => { k with begun := true }) s) := by
  simp [effCtrRead, jobRow_begins hup hj, beginJob, stepJob, opcode_of_freshJob hj]

/-! ### The jobs of contexts and regions (R219) -/

theorem effXctxCreate_begins {m : HostView} (hj : freshJob s h q i 0x50 = some j) : effXctxCreate h q i m s =
    stepXctxCreate h { j with begun := true } (viewOf m s) (updJob h j.id (fun k => { k with begun := true }) s) := by
  simp [effXctxCreate, jobRow_begins hup hj, beginJob, stepJob, opcode_of_freshJob hj]

theorem effXctxDestroy_begins (hj : freshJob s h q i 0x51 = some j) : effXctxDestroy h q i s =
    stepXctxDestroy h { j with begun := true } (updJob h j.id (fun k => { k with begun := true }) s) := by
  simp [effXctxDestroy, jobRow_begins hup hj, beginJob, stepJob, opcode_of_freshJob hj]

theorem effMrRegister_begins {m : HostView} (hj : freshJob s h q i 0x52 = some j) : effMrRegister h q i m s =
    stepMrRegister h { j with begun := true } (viewOf m s) (updJob h j.id (fun k => { k with begun := true }) s) := by
  simp [effMrRegister, jobRow_begins hup hj, beginJob, stepJob, opcode_of_freshJob hj]

theorem effMrInvalidate_begins (hj : freshJob s h q i 0x53 = some j) : effMrInvalidate h q i s =
    stepMrInvalidate h { j with begun := true } (updJob h j.id (fun k => { k with begun := true }) s) := by
  simp [effMrInvalidate, jobRow_begins hup hj, beginJob, stepJob, opcode_of_freshJob hj]

theorem effInvalidate_begins (hj : freshJob s h q i 0x54 = some j) : effInvalidate h q i s =
    stepInvalidate h { j with begun := true } (updJob h j.id (fun k => { k with begun := true }) s) := by
  simp [effInvalidate, jobRow_begins hup hj, beginJob, stepJob, opcode_of_freshJob hj]

end

end Sys2Proof.Proofs
end

section
/-! PROOFS. The counter commands (O41: R182, R299 to R304, R308, R314). -/

namespace Sys2Proof.Proofs
open Sys2Proof.Machine Sys2Proof.Laws

/-! ### CTR_DESTROY, past the record's error mark -/

section
variable {h c : Nat} {j : Job} {s g : State} (hc : c = fAt (Job.op j) 11 0 16) (hg : g = meetCtr h c s)
include hc hg

theorem stepCtrDestroy_met : stepCtrDestroy h j s =
    if (evc g h c).st = 0 then malformed h j 10 g
    else if !mayActFor (wqOf g h j.q) (evc g h c).fn then malformed h j 2 g
    else if (evc g h c).st = 1 ∧ (evc g h c).head.isSome then malformed h j 9 g
    else finishJob h j 0 0 0 (setEvc h c {} (if (evc g h c).st = 2 then forgetTrigs h c g else g)) := by
  subst hc hg
  rfl

/-! ### CTR_SET, CTR_ADD and CTR_READ, by what R301 says of the counter -/

theorem stepCtrSet_passes (hst : ctrStatus g h (wqOf g h j.q) c = none) : stepCtrSet h j s =
    finishJob h j 0 0 0 (ctrUpdate h c (fun _ => ctrValue (Job.op j)) g) := by
  subst hc hg
  simp [stepCtrSet, hst]

theorem stepCtrAdd_passes (hst : ctrStatus g h (wqOf g h j.q) c = none) : stepCtrAdd h j s =
    finishJob h j 0 0 0 (ctrUpdate h c (fun v => v + ctrValue (Job.op j)) g) := by
  subst hc hg
  simp [stepCtrAdd, hst]

theorem stepCtrRead_passes {v : View} (hst : ctrStatus g h (wqOf g h j.q) c = none) : stepCtrRead h j v s =
    match writeLocal h j 0 (leBytes 8 (evc g h c).value.toNat) v g with
    | (.ok (), s) => finishJob h j 0 8 0 s
    | (a, s) => failAcc h j 0 a s := by
  subst hc hg
  simp [stepCtrRead, hst] <;> rfl

variable {k : Nat} (hst : ctrStatus g h (wqOf g h j.q) c = some k)
include hst

theorem stepCtrSet_fails : stepCtrSet h j s = finishJob h j k 0 0 g := by
  subst hc hg
  simp [stepCtrSet, hst]

theorem stepCtrAdd_fails : stepCtrAdd h j s = finishJob h j k 0 0 g := by
  subst hc hg
  simp [stepCtrAdd, hst]

theorem stepCtrRead_fails {v : View} : stepCtrRead h j v s = finishJob h j k 0 0 g := by
  subst hc hg
  simp [stepCtrRead, hst]

end

/-! ### COUNT (R301, R304) -/

section
variable {h q : Nat} {i : Word} {m : HostView} {j : Job} {c : Nat × Nat} {s g : State} (hup : hostUp s h = true)
  (hj : (hport s h).jobs.find? (fun x => x.q == q && x.idx == i && !x.begun && Job.counted x) = some j)
  (hc : j.count = some c) (hg : g = meetCtr h c.1 s)
include hup hj hc hg

theorem effCount_passes (hst : ctrStatus g h (wqOf g h q) c.1 = none) : effCount h q i m s = beginJob h j m g := by
  subst hg
  simp [effCount, hup, hj, hc, hst]

theorem effCount_fails {k : Nat} (hst : ctrStatus g h (wqOf g h q) c.1 = some k) :
    effCount h q i m s = finishJob h j k 0 0 g := by
  subst hg
  simp [effCount, hup, hj, hc, hst]

end

theorem effCount_idle {h q : Nat} {i : Word} {m : HostView} {s : State} (hn : hostUp s h = false ∨
    (hport s h).jobs.find? (fun x => x.q == q && x.idx == i && !x.begun && Job.counted x) = none) :
    effCount h q i m s = s := by
  unfold effCount
  split
  · rfl
  · next hup => simp [hn.resolve_left (by simpa using hup)]

theorem beginJob_nop {h : Nat} {j : Job} {m : HostView} (hop : Job.opcode j = 1) (s : State) : beginJob h j m s =
    finishJob h { j with begun := true } 0 0 0 (updJob h j.id (fun k => { k with begun := true }) s) := by
  simp [beginJob, stepJob, hop]

/-- Settles O41: each clause is the branch of its job's step that its hypotheses pick. -/
theorem counterJobs : Obligations.CounterJobs := by
  unfold Obligations.CounterJobs
  refine ⟨?create, ?createInUse, ?destroy, ?destroyLost, ?destroyAbsent, ?destroyOther, ?destroyTriggers, ?set, ?add,
    ?setFails, ?addFails, ?readFails, ?read, ?readUnwritten, ?count, ?countNop, ?countFails, ?countIdle, ?createIdle,
    ?destroyIdle, ?setIdle, ?addIdle, ?readIdle⟩
  case create =>
    rintro h q i j _ s _ hup hj rfl hst rfl
    exact clocked_runs fun _ => (effCtrCreate_begins hup hj).trans (if_neg (not_not.mpr hst))
  case createInUse =>
    rintro h q i j _ s _ hup hj rfl hst rfl
    exact clocked_runs fun _ => (effCtrCreate_begins hup hj).trans (if_pos hst)
  case destroy =>
    rintro h q i j c g s _ hup hj hc hg hst hhead hmay rfl
    exact clocked_runs fun _ => by
      simp [effCtrDestroy_begins hup hj, stepCtrDestroy_met (j := { j with begun := true }) hc hg, hst, hhead, hmay]
  case destroyLost =>
    rintro h q i j c g s _ hup hj hc hg hst hmay rfl
    exact clocked_runs fun _ => by
      simp [effCtrDestroy_begins hup hj, stepCtrDestroy_met (j := { j with begun := true }) hc hg, hst, hmay, forgetTrigs]
  case destroyAbsent =>
    rintro h q i j c g s _ hup hj hc hg hst rfl
    exact clocked_runs fun _ => by
      simp [effCtrDestroy_begins hup hj, stepCtrDestroy_met (j := { j with begun := true }) hc hg, hst]
  case destroyOther =>
    rintro h q i j c g s _ hup hj hc hg hst hmay rfl
    exact clocked_runs fun _ => by
      simp [effCtrDestroy_begins hup hj, stepCtrDestroy_met (j := { j with begun := true }) hc hg, hst, hmay]
  case destroyTriggers =>
    rintro h q i j c g s _ hup hj hc hg hst hhead hmay rfl
    exact clocked_runs fun _ => by
      simp [effCtrDestroy_begins hup hj, stepCtrDestroy_met (j := { j with begun := true }) hc hg, hst, hmay,
        Option.isSome_iff_ne_none.mpr hhead]
  case set =>
    rintro h q i j c g s _ hup hj hc hg hst rfl
    exact clocked_runs fun _ => (effCtrSet_begins hup hj).trans (stepCtrSet_passes (j := { j with begun := true }) hc hg hst)
  case add =>
    rintro h q i j c g s _ hup hj hc hg hst rfl
    exact clocked_runs fun _ => (effCtrAdd_begins hup hj).trans (stepCtrAdd_passes (j := { j with begun := true }) hc hg hst)
  case setFails =>
    rintro h q i j c g k s _ hup hj hc hg hst rfl
    exact clocked_runs fun _ => (effCtrSet_begins hup hj).trans (stepCtrSet_fails (j := { j with begun := true }) hc hg hst)
  case addFails =>
    rintro h q i j c g k s _ hup hj hc hg hst rfl
    exact clocked_runs fun _ => (effCtrAdd_begins hup hj).trans (stepCtrAdd_fails (j := { j with begun := true }) hc hg hst)
  case readFails =>
    rintro h q i m j c g k s _ hup hj hc hg hst rfl
    exact clocked_runs fun _ =>
      (effCtrRead_begins hup hj).trans (stepCtrRead_fails (j := { j with begun := true }) hc hg hst)
  case read =>
    rintro h q i m j c g u s _ hup hj hc hg hst hw rfl
    exact clocked_runs fun _ => by
      rw [effCtrRead_begins hup hj, stepCtrRead_passes (j := { j with begun := true }) hc hg hst, hw]
  case readUnwritten =>
    rintro h q i m j c g u a s _ hup hj hc hg hst hw ha rfl
    refine clocked_runs fun _ => ?_
    rw [effCtrRead_begins hup hj, stepCtrRead_passes (j := { j with begun := true }) hc hg hst, hw]
    cases a with
    | ok => exact absurd rfl ha
    | _ => rfl
  case count =>
    rintro h q i m j c g s _ hup hj hc hg hst rfl
    exact clocked_runs fun _ => effCount_passes hup hj hc hg hst
  case countNop =>
    rintro h q i m j c g s _ hup hj hc hg hst hop rfl
    exact clocked_runs fun _ => (effCount_passes hup hj hc hg hst).trans (beginJob_nop hop g)
  case countFails =>
    rintro h q i m j c g k s _ hup hj hc hg hst rfl
    exact clocked_runs fun _ => effCount_fails hup hj hc hg hst
  case countIdle =>
    rintro h q i m s _ hn rfl
    exact clocked_runs fun _ => effCount_idle hn
  case createIdle =>
    rintro h q i s _ hn rfl
    exact clocked_runs fun _ => jobRow_idle hn
  case destroyIdle =>
    rintro h q i s _ hn rfl
    exact clocked_runs fun _ => jobRow_idle hn
  case setIdle =>
    rintro h q i s _ hn rfl
    exact clocked_runs fun _ => jobRow_idle hn
  case addIdle =>
    rintro h q i s _ hn rfl
    exact clocked_runs fun _ => jobRow_idle hn
  case readIdle =>
    rintro h q i m s _ hn rfl
    exact clocked_runs fun _ => jobRow_idle hn

end Sys2Proof.Proofs
end

section
/-! PROOFS. Doorbells and COAL_TIME (O30: R190, R191, R193, R203, R208). -/

namespace Sys2Proof.Proofs
open Sys2Proof.Machine Sys2Proof.Laws

/-- At a port that does not serve, a write of doorbells does nothing. -/
theorem dbAll_idle {ty h fn addr size : Nat} {v : DbWrite} {s : State} (hup : hostUp s h = false) :
    dbAll ty h fn addr size v s = s := if_pos (by simp [hup])

theorem dbAll_serving {ty h fn addr size : Nat} {v : DbWrite} {s : State} (hup : hostUp s h = true) :
    dbAll ty h fn addr size v s =
      (v.more.foldl (fun l d => dbInsert (d.1, bitsN d.2.toNat 20 4, d.2) l) [(addr, ty, v.value)]).foldl
        (fun s d => dbOne h fn size d s) s := if_neg (by simp [hup])

section
variable {h fn addr size : Nat} {v : BitVec 64} {s : State}

/-! ### A doorbell alone -/

section
variable (hup : hostUp s h = true)
include hup

theorem effWqTail_alone : effWqTail h fn addr size { value := v } s = dbTail h fn size addr v s := dbAll_serving hup
theorem effCqHead_alone : effCqHead h fn addr size { value := v } s = dbHead h fn size addr v s := dbAll_serving hup
theorem effCqArm_alone : effCqArm h fn addr size { value := v } s = dbArm h fn size addr v s := dbAll_serving hup

end

/-! ### WQ_TAIL (R191, R193) -/

theorem dbTail_bad {k : Nat} (hb : dbBad s 0 h fn addr size v = some k) : dbTail h fn size addr v s = dbReject h k s := by
  simp only [dbTail, hb]

theorem dbTail_passes (hb : dbBad s 0 h fn addr size v = none) : dbTail h fn size addr v s =
    if 2 ^ 31 ≤ (w32 (bitsN v.toNat 32 32) - (wqOf s h (bitsN v.toNat 0 20)).tail).toNat then s
    else if 2 ^ (wqOf s h (bitsN v.toNat 0 20)).log < (w32 (bitsN v.toNat 32 32) - (wqOf s h (bitsN v.toNat 0 20)).head).toNat
      then dbReject h 5 s
    else startFetch h (bitsN v.toNat 0 20) (inc (qmgCtr h 0)
      (updWq h (bitsN v.toNat 0 20) (fun w => { w with tail := w32 (bitsN v.toNat 32 32) }) s)) := by
  simp only [dbTail, hb]

/-! ### CQ_HEAD (R191, R203) -/

theorem dbHead_bad {k : Nat} (hb : dbBad s 1 h fn addr size v = some k) : dbHead h fn size addr v s = dbReject h k s := by
  simp only [dbHead, hb]

theorem dbHead_passes (hb : dbBad s 1 h fn addr size v = none) : dbHead h fn size addr v s =
    if 2 ^ 31 ≤ ((cqOf s h (bitsN v.toNat 0 20)).written - w32 (bitsN v.toNat 32 32)).toNat then dbReject h 5 s
    else cqRelease h (bitsN v.toNat 0 20) (w32 (bitsN v.toNat 32 32)) (inc (qmgCtr h 0) s) := by
  simp only [dbHead, hb]

/-! ### CQ_ARM (R191, R208) -/

theorem dbArm_bad {k : Nat} (hb : dbBad s 2 h fn addr size v = some k) : dbArm h fn size addr v s = dbReject h k s := by
  simp only [dbArm, hb]

theorem dbArm_passes (hb : dbBad s 2 h fn addr size v = none) {r : State}
    (hr : r = cqRelease h (bitsN v.toNat 0 20) (w32 (bitsN v.toNat 32 32)) (inc (qmgCtr h 0) s)) : dbArm h fn size addr v s =
    if 2 ^ 31 ≤ ((cqOf s h (bitsN v.toNat 0 20)).written - w32 (bitsN v.toNat 32 32)).toNat then dbReject h 5 s
    else if (cqOf r h (bitsN v.toNat 0 20)).intrEn then
      cqCheck h (bitsN v.toNat 0 20)
        (updCq h (bitsN v.toNat 0 20) (fun c => { c with armed := some (w32 (bitsN v.toNat 32 32)), timer := false }) r)
    else r := by
  subst hr
  simp only [dbArm, hb]

end

/-- Settles O30: a doorbell alone is acted on by its type's rule, and several in the order of their addresses. -/
theorem doorbells : Obligations.Doorbells := by
  unfold Obligations.Doorbells
  refine ⟨?tailBad, ?headBad, ?armBad, ?tailIdle, ?headIdle, ?armIdle, ?tailAll, ?headAll, ?armAll, ?headBeyond, ?armBeyond,
    ?tailTaken, ?tailBeyond, ?tail, ?head, ?armOff, ?arm, ?coal, ?coalIdle⟩
  case tailBad =>
    rintro h fn addr size v k s _ hup hb rfl
    exact clocked_runs fun _ => (effWqTail_alone hup).trans (dbTail_bad hb)
  case headBad =>
    rintro h fn addr size v k s _ hup hb rfl
    exact clocked_runs fun _ => (effCqHead_alone hup).trans (dbHead_bad hb)
  case armBad =>
    rintro h fn addr size v k s _ hup hb rfl
    exact clocked_runs fun _ => (effCqArm_alone hup).trans (dbArm_bad hb)
  case tailIdle =>
    rintro h fn addr size v more s _ hup rfl
    exact clocked_runs fun _ => dbAll_idle hup
  case headIdle =>
    rintro h fn addr size v more s _ hup rfl
    exact clocked_runs fun _ => dbAll_idle hup
  case armIdle =>
    rintro h fn addr size v more s _ hup rfl
    exact clocked_runs fun _ => dbAll_idle hup
  case tailAll =>
    rintro h fn addr size v more s _ hup rfl
    exact clocked_runs fun _ => dbAll_serving hup
  case headAll =>
    rintro h fn addr size v more s _ hup rfl
    exact clocked_runs fun _ => dbAll_serving hup
  case armAll =>
    rintro h fn addr size v more s _ hup rfl
    exact clocked_runs fun _ => dbAll_serving hup
  case headBeyond =>
    rintro h fn addr size v s _ hup hb hidx rfl
    exact clocked_runs fun _ => (effCqHead_alone hup).trans ((dbHead_passes hb).trans (if_pos hidx))
  case armBeyond =>
    rintro h fn addr size v s _ hup hb hidx rfl
    exact clocked_runs fun _ => (effCqArm_alone hup).trans ((dbArm_passes hb rfl).trans (if_pos hidx))
  case tailTaken =>
    rintro h fn addr size v s _ hup hb hidx rfl
    exact clocked_runs fun _ => (effWqTail_alone hup).trans ((dbTail_passes hb).trans (if_pos hidx))
  case tailBeyond =>
    rintro h fn addr size v s _ hup hb hidx hroom rfl
    exact clocked_runs fun _ => (effWqTail_alone hup).trans
      ((dbTail_passes hb).trans ((if_neg (not_le.mpr hidx)).trans (if_pos hroom)))
  case tail =>
    rintro h fn addr size v s _ hup hb hidx hroom rfl
    exact clocked_runs fun _ => (effWqTail_alone hup).trans
      ((dbTail_passes hb).trans ((if_neg (not_le.mpr hidx)).trans (if_neg (not_lt.mpr hroom))))
  case head =>
    rintro h fn addr size v s _ hup hb hidx rfl
    exact clocked_runs fun _ => (effCqHead_alone hup).trans ((dbHead_passes hb).trans (if_neg (not_le.mpr hidx)))
  case armOff =>
    rintro h fn addr size v s _ hup hb hidx hintr rfl
    exact clocked_runs fun _ => (effCqArm_alone hup).trans
      ((dbArm_passes hb rfl).trans ((if_neg (not_le.mpr hidx)).trans (if_neg (by simp [hintr]))))
  case arm =>
    rintro h fn addr size v s _ hup hb hidx hintr rfl
    exact clocked_runs fun _ => (effCqArm_alone hup).trans
      ((dbArm_passes hb rfl).trans ((if_neg (not_le.mpr hidx)).trans (if_pos hintr)))
  case coal =>
    rintro h cq s _ hact htimer harmed hus rfl
    exact clocked_runs fun _ => if_pos ⟨hact, htimer, harmed, hus⟩
  case coalIdle =>
    rintro h cq s _ hn rfl
    refine clocked_runs fun _ => if_neg ?_
    rintro ⟨hact, htimer, harmed, hus⟩
    rcases hn with hn | hn | hn | hn
    · simp [hn] at hact
    · simp [hn] at htimer
    · simp [hn] at harmed
    · simp [hn] at hus

end Sys2Proof.Proofs
end

section
/-! PROOFS. What a reply, a finished job and a sent packet leave unchanged (O56: R201, R244, R257, R406, R407, R436, R447). -/

namespace Sys2Proof.Proofs
open Sys2Proof.Machine Sys2Proof.Laws

/-! ### Crossings and packets handed to the crossbar (R16, R94) -/

/-- A crossing does to a state what its output does, wherever that output leaves event records and outputs behind. -/
theorem evOnly_crossD2d (b ident : Nat) (c : Crossing) {run : State → State} (hrun : ∀ s, EvOnly s (run s)) (s : State) :
    EvOnly s (crossD2d b ident c run s) := by
  unfold crossD2d
  split
  · rfl
  · split
    · rfl
    · refine EvOnly.trans ?_ (hrun _)
      rfl

theorem evOnly_inject (i : Nat) (p : Packet) (s : State) : EvOnly s (inject i p s) :=
  .ite (evOnly_crossD2d _ _ _ (evOnly_emit _) s) (evOnly_emit ..)

/-- A packet that a channel sends changes event records, outputs and crossings only. -/
theorem evOnly_sendOn (h c : Nat) (p : Packet) (s : State) : EvOnly s (sendOn h c p s) :=
  (EvOnly.ite (evOnly_inc ..) (.refl s)).trans (evOnly_inject ..)

/-! ### Writes of host memory (R257) -/

/-- `p` is `q` but for the reads of host memory that wait at it. -/
def SamePort (q p : HostPort) : Prop := p = { q with waits := p.waits, nextWait := p.nextWait, dmaq := p.dmaq }

theorem SamePort.refl (q : HostPort) : SamePort q q := rfl

theorem SamePort.trans {p q r : HostPort} (h : SamePort p q) (k : SamePort q r) : SamePort p r := by
  unfold SamePort at *
  rw [k, h]

theorem SamePort.jobs {p q : HostPort} (h : SamePort q p) : p.jobs = q.jobs := by
  unfold SamePort at h
  rw [h]

/-- `t` differs from `s` in its event records, outputs, crossings and event numbers, and in the reads of host memory that wait
at the ports of Bole `b`. -/
structure WaitsOnly (b : Nat) (s t : State) : Prop where
  rest : EvOnly { s with hs := t.hs } t
  host : t.hs = { s.hs with ports := t.hs.ports }
  ports : ∀ g, SamePort (hport s g) (hport t g)
  elsewhere : ∀ g, boleOf g ≠ b → hport t g = hport s g

namespace WaitsOnly

variable {b : Nat}

theorem of_evOnly {s t : State} (h : EvOnly s t) : WaitsOnly b s t where
  rest := by rw [h.hs]; exact h
  host := by rw [h.hs]
  ports g := by rw [hport, hport, h.hs]; exact .refl _
  elsewhere g _ := by rw [hport, hport, h.hs]

theorem refl (s : State) : WaitsOnly b s s := of_evOnly (.refl s)

theorem trans {s t u : State} (h : WaitsOnly b s t) (k : WaitsOnly b t u) : WaitsOnly b s u where
  rest := by
    have hst := h.rest
    have htu := k.rest
    unfold EvOnly at *
    rw [htu, hst]
  host := by rw [k.host, h.host]
  ports g := (h.ports g).trans (k.ports g)
  elsewhere g hg := (k.elsewhere g hg).trans (h.elsewhere g hg)

theorem ite {c : Prop} [Decidable c] {s t u : State} (ht : WaitsOnly b s t) (hu : WaitsOnly b s u) :
    WaitsOnly b s (if c then t else u) := by
  split
  · exact ht
  · exact hu

theorem foldl {α : Type} {f : State → α → State} {l : List α} (hf : ∀ a ∈ l, ∀ s, WaitsOnly b s (f s a)) (s : State) :
    WaitsOnly b s (l.foldl f s) := by
  induction l generalizing s with
  | nil => exact refl s
  | cons a l ih =>
    exact (hf a List.mem_cons_self s).trans (ih (fun x hx => hf x (List.mem_cons_of_mem a hx)) (f s a))

/-- A change of one port's waiting reads. -/
theorem updHost {h : Nat} (hb : boleOf h = b) {f : HostPort → HostPort} (hf : ∀ p, SamePort p (f p)) (s : State) :
    WaitsOnly b s (updHost h f s) where
  rest := rfl
  host := rfl
  ports g := by
    by_cases hg : g = h
    · subst hg
      rw [hport_updHost_same]
      exact hf _
    · rw [hport_updHost_other hg]
      exact .refl _
  elsewhere g hg := hport_updHost_other (fun e : g = h => hg (e ▸ hb)) f s

theorem askDma {h : Nat} (hb : boleOf h = b) (k : DmaKey) (o : Out) (s : State) : WaitsOnly b s (askDma h k o s) :=
  ite (of_evOnly (evOnly_emit ..)) (updHost hb (fun _ => by rfl) s)

theorem rereadAtom {h : Nat} (hb : boleOf h = b) (a n : Nat) (w : Wait) (s : State) :
    WaitsOnly b s (rereadAtom h a n w s) := by
  unfold Machine.rereadAtom
  split
  · exact ite ((updHost hb (fun _ => by rfl) s).trans (askDma hb ..)) (refl s)
  · exact refl s

/-- The ports whose atomics read again are the two of the Bole that writes. -/
theorem touchAtoms (a n : Nat) (s : State) : WaitsOnly b s (touchAtoms b a n s) :=
  foldl (fun h hh s => foldl (fun w _ s =>
    rereadAtom (by simp only [List.mem_cons, List.not_mem_nil, or_false] at hh; unfold boleOf; omega) a n w s) s) s

theorem hostWr {h : Nat} (hb : boleOf h = b) (fn a : Nat) (bs : List Byte) (payload : Bool) (s : State) :
    WaitsOnly b s (hostWr h fn a bs payload s) :=
  hb ▸ (of_evOnly (evOnly_emit ..)).trans (touchAtoms a bs.length _)

end WaitsOnly

/-! ### The final reply (R406, R407, R413 to R416) -/

/-- `t` differs from `s` as a reply leaves it: in event records, outputs and crossings, in the controller's records of replies
and events, and in the reads of host memory that wait at the host ports. -/
structure ReplyOnly (s t : State) : Prop where
  rest : t = { s with
    ev := t.ev, out := t.out, cross := t.cross, hs := t.hs
    mgmt := { s.mgmt with
      mseqs := t.mgmt.mseqs, rings := t.mgmt.rings, i3cRpls := t.mgmt.i3cRpls, eseq := t.mgmt.eseq, repeats := t.mgmt.repeats } }
  host : t.hs = { s.hs with ports := t.hs.ports }
  ports : ∀ g, SamePort (hport s g) (hport t g)

namespace ReplyOnly

theorem of_waitsOnly {b : Nat} {s t : State} (h : WaitsOnly b s t) : ReplyOnly s t where
  rest := by
    have hr := h.rest
    unfold EvOnly at hr
    rw [hr]
  host := h.host
  ports := h.ports

theorem of_evOnly {s t : State} (h : EvOnly s t) : ReplyOnly s t := of_waitsOnly (.of_evOnly (b := 0) h)

theorem refl (s : State) : ReplyOnly s s := of_evOnly (.refl s)

theorem trans {s t u : State} (h : ReplyOnly s t) (k : ReplyOnly t u) : ReplyOnly s u where
  rest := by
    have hst := h.rest
    have htu := k.rest
    rw [htu, hst]
  host := by rw [k.host, h.host]
  ports g := (h.ports g).trans (k.ports g)

theorem ite {c : Prop} [Decidable c] {s t u : State} (ht : ReplyOnly s t) (hu : ReplyOnly s u) :
    ReplyOnly s (if c then t else u) := by
  split
  · exact ht
  · exact hu

/-- A change of the controller's records of replies. -/
theorem records (s : State) (mseqs : List (Eid × BitVec 16 × Option (List Word × List Word))) (rings : TMap Ring)
    (i3c : List (List Word)) : ReplyOnly s { s with mgmt.mseqs := mseqs, mgmt.rings := rings, mgmt.i3cRpls := i3c } :=
  ⟨rfl, rfl, fun _ => .refl _⟩

theorem emitOut (o : Out) (s : State) : ReplyOnly s (emitOut o s) := by
  have sent : ReplyOnly s (emit o s) := of_evOnly (evOnly_emit o s)
  unfold Machine.emitOut
  split
  · exact sent.trans (of_waitsOnly (WaitsOnly.touchAtoms ..))
  · exact sent

theorem crossD2d (b ident : Nat) (c : Crossing) {run : State → State} (hrun : ∀ s, ReplyOnly s (run s)) (s : State) :
    ReplyOnly s (crossD2d b ident c run s) := by
  unfold Machine.crossD2d
  split
  · exact of_evOnly rfl
  · split
    · exact refl s
    · refine ReplyOnly.trans ?_ (hrun _)
      exact of_evOnly rfl

theorem toHost (i : Nat) (c : Crossing) {run : State → State} (hrun : ∀ s, ReplyOnly s (run s)) (s : State) :
    ReplyOnly s (toHost i c run s) := ite (crossD2d _ _ _ hrun s) (hrun s)

theorem emitHost (i : Nat) (o : Out) (s : State) : ReplyOnly s (emitHost i o s) := toHost _ _ (emitOut o) s

theorem ringWrite (i : Nat) (ws : List Word) (s : State) : ReplyOnly s (ringWrite i ws s) := by
  unfold Machine.ringWrite
  refine ReplyOnly.trans ?_ (records ..)
  refine ReplyOnly.trans ?_ (ite (toHost _ _ (fun s => of_evOnly (evOnly_fireMsix ..)) _) (refl _))
  exact emitHost ..

theorem ringErr (i : Nat) (s : State) : ReplyOnly s (ringErr i s) :=
  of_evOnly ((evOnly_inc ..).trans (evOnly_raise ..))

theorem sendReply (r : GcpReq) (ws data : List Word) (s : State) : ReplyOnly s (sendReply r ws data s) := by
  unfold Machine.sendReply
  refine ReplyOnly.trans ?sent (of_evOnly (evOnly_emit ..))
  split
  · exact (ite (refl s) (emitHost ..)).trans (ite (ringErr ..) (ite (records ..) (ringWrite ..)))
  · split
    · exact (records s s.mgmt.mseqs s.mgmt.rings (s.mgmt.i3cRpls ++ [ws])).trans (of_evOnly (evOnly_emit ..))
    · exact of_evOnly (evOnly_emit ..)

theorem wrapReply (r : GcpReq) (ws data : List Word) (s : State) : ReplyOnly s (wrapReply r ws data s).2 := by
  unfold Machine.wrapReply
  split
  · exact refl s
  · split
    · exact ite (refl s) (emitHost ..)
    · exact refl s

theorem finish (r : GcpReq) (st d1 d2 : Nat) (res data : List Word) (s : State) :
    ReplyOnly s (finish r st d1 d2 res data s) := by
  unfold Machine.finish
  extract_lets indirect res' out ws s1 s2 x
  have counted : ReplyOnly s s2 := (of_evOnly (evOnly_inc ..)).trans (ite (refl _) (of_evOnly (evOnly_inc ..)))
  exact ((counted.trans (wrapReply ..)).trans (records ..)).trans (sendReply ..)

end ReplyOnly

/-- A reply that does not leave by a ring writes no host memory. -/
theorem finish_hs_of_no_ring {r : GcpReq} (hr : ringNo r.via = none) (st d1 d2 : Nat) (res data : List Word) (s : State) :
    (finish r st d1 d2 res data s).hs = s.hs := by
  have counted (u : State) (c : Prop) [Decidable c] : (if c then u else inc (mgcCtr 1) u).hs = u.hs := by split <;> simp
  have wrapped (ws data : List Word) (u : State) : (wrapReply r ws data u).2.hs = u.hs := by
    simp only [wrapReply, hr]
    split <;> rfl
  have sent (ws data : List Word) (u : State) : (sendReply r ws data u).hs = u.hs := by
    simp only [sendReply, hr]
    split <;> rfl
  simp [finish, sent, wrapped, counted]

/-- The last output of a reply without data, outside a session, is the reply itself. -/
theorem finish_out_head {r : GcpReq} (hs : r.secured = false) (st d1 d2 : Nat) (res : List Word) (s : State) :
    (finish r st d1 d2 res [] s).out.head? =
      some (.reply r.via r.srcEid (replyWords (wAt r.words 0) st (min 48 (4 * res.length)) d1 d2 res) []) := by
  simp [finish, wrapReply, hs, sendReply, emit]

/-! ### The end of a job (R201, R205, R302, R308, R309) -/

/-- A job has the queue, the channel, the counter and the slot of one of `fs`. -/
def Known (fs : List Job) (j : Job) : Prop :=
  ∃ f ∈ fs, f.q = j.q ∧ f.chan = j.chan ∧ f.count = j.count ∧ f.fired = j.fired

theorem known_of_mem {fs : List Job} {j : Job} (hj : j ∈ fs) : Known fs j := ⟨j, hj, rfl, rfl, rfl, rfl⟩

/-- Every issued job of a host port is known. -/
def Covered (fs : List Job) (h : Nat) (s : State) : Prop := ∀ j ∈ (hport s h).jobs, Known fs j

/-- `t` differs from `s` as the ends of jobs of host port `h` leave it, all of them known by `fs`. -/
structure EndsOnly (fs : List Job) (h : Nat) (s t : State) : Prop where
  rest : EvOnly { s with hs := t.hs } t
  host : t.hs = { s.hs with
    ports := t.hs.ports, wqs := t.hs.wqs, chans := t.hs.chans, evctrs := t.hs.evctrs, slots := t.hs.slots }
  others : ∀ g, g ≠ h → SamePort (hport s g) (hport t g)
  elsewhere : ∀ g, boleOf g ≠ boleOf h → hport t g = hport s g
  wqs : ∀ k, (∀ f ∈ fs, k ≠ objKey 20 h f.q) → Maps.get {} t.hs.wqs k = Maps.get {} s.hs.wqs k
  chans : ∀ k, (∀ f ∈ fs, k ≠ objKey 24 h f.chan) → Maps.get {} t.hs.chans k = Maps.get {} s.hs.chans k
  evctrs : ∀ k, (∀ f ∈ fs, ∀ c, f.count = some c → k ≠ objKey 16 h c.1) →
    Maps.get {} t.hs.evctrs k = Maps.get {} s.hs.evctrs k
  plain : (∀ f ∈ fs, f.count = none ∧ f.fired = none) → t.hs.evctrs = s.hs.evctrs ∧ t.hs.slots = s.hs.slots
  covered : Covered fs h s → Covered fs h t

namespace EndsOnly

variable {fs : List Job} {h : Nat}

theorem of_waitsOnly {s t : State} (hw : WaitsOnly (boleOf h) s t) : EndsOnly fs h s t where
  rest := hw.rest
  host := by rw [hw.host]
  others g _ := hw.ports g
  elsewhere := hw.elsewhere
  wqs k _ := by rw [hw.host]
  chans k _ := by rw [hw.host]
  evctrs k _ := by rw [hw.host]
  plain _ := by rw [hw.host]; exact ⟨rfl, rfl⟩
  covered hc j hj := hc j ((hw.ports h).jobs ▸ hj)

theorem of_evOnly {s t : State} (he : EvOnly s t) : EndsOnly fs h s t := of_waitsOnly (.of_evOnly he)

theorem refl (s : State) : EndsOnly fs h s s := of_evOnly (.refl s)

theorem trans {s t u : State} (a : EndsOnly fs h s t) (b : EndsOnly fs h t u) : EndsOnly fs h s u where
  rest := by
    have hst := a.rest
    have htu := b.rest
    unfold EvOnly at *
    rw [htu, hst]
  host := by rw [b.host, a.host]
  others g hg := (a.others g hg).trans (b.others g hg)
  elsewhere g hg := (b.elsewhere g hg).trans (a.elsewhere g hg)
  wqs k hk := (b.wqs k hk).trans (a.wqs k hk)
  chans k hk := (b.chans k hk).trans (a.chans k hk)
  evctrs k hk := (b.evctrs k hk).trans (a.evctrs k hk)
  plain hp := ⟨(b.plain hp).1.trans (a.plain hp).1, (b.plain hp).2.trans (a.plain hp).2⟩
  covered hc := b.covered (a.covered hc)

theorem ite {c : Prop} [Decidable c] {s t u : State} (ht : EndsOnly fs h s t) (hu : EndsOnly fs h s u) :
    EndsOnly fs h s (if c then t else u) := by
  split
  · exact ht
  · exact hu

theorem inc (key : Nat) (s : State) : EndsOnly fs h s (inc key s) := of_evOnly (evOnly_inc ..)
theorem ectCause (i : Nat) (s : State) : EndsOnly fs h s (ectCause h i s) := of_evOnly (evOnly_raise ..)

/-- A change of the host port that leaves its issued jobs known. -/
theorem updHost {f : HostPort → HostPort} {s : State}
    (hf : Covered fs h s → ∀ j ∈ (f (hport s h)).jobs, Known fs j) : EndsOnly fs h s (updHost h f s) where
  rest := rfl
  host := rfl
  others g hg := by rw [hport_updHost_other hg]; exact .refl _
  elsewhere g hg := hport_updHost_other (fun e : g = h => hg (e ▸ rfl)) f s
  wqs _ _ := rfl
  chans _ _ := rfl
  evctrs _ _ := rfl
  plain _ := ⟨rfl, rfl⟩
  covered hc j hj := hf hc j (by rwa [hport_updHost_same] at hj)

/-- A change of the host port that leaves its issued jobs. -/
theorem updHost_jobs {f : HostPort → HostPort} (hf : ∀ p, (f p).jobs = p.jobs) (s : State) :
    EndsOnly fs h s (Machine.updHost h f s) := updHost fun hc j hj => hc j (hf _ ▸ hj)

section
variable {j : Job} (hj : Known fs j)
include hj

theorem updWq (f : Wq → Wq) (s : State) : EndsOnly fs h s (updWq h j.q f s) where
  rest := rfl
  host := rfl
  others _ _ := .refl _
  elsewhere _ _ := rfl
  wqs k hk := by
    obtain ⟨g, hg, hq, -⟩ := hj
    exact Maps.get_put_other (hq ▸ hk g hg) ..
  chans _ _ := rfl
  evctrs _ _ := rfl
  plain _ := ⟨rfl, rfl⟩
  covered hc := hc

theorem updChan (f : Chan → Chan) (s : State) : EndsOnly fs h s (updChan h j.chan f s) where
  rest := rfl
  host := rfl
  others _ _ := .refl _
  elsewhere _ _ := rfl
  wqs _ _ := rfl
  chans k hk := by
    obtain ⟨g, hg, -, hc, -⟩ := hj
    exact Maps.get_put_other (hc ▸ hk g hg) ..
  evctrs _ _ := rfl
  plain _ := ⟨rfl, rfl⟩
  covered hc := hc

/-- The counter that a known job counts on. -/
theorem setEvc {c : Nat × Nat} (hcount : j.count = some c) (x : EvCtr) (s : State) :
    EndsOnly fs h s (setEvc h c.1 x s) where
  rest := rfl
  host := rfl
  others _ _ := .refl _
  elsewhere _ _ := rfl
  wqs _ _ := rfl
  chans _ _ := rfl
  evctrs k hk := by
    obtain ⟨g, hg, -, -, hgc, -⟩ := hj
    exact Maps.get_put_other (hk g hg c (hgc.trans hcount)) ..
  plain hp := by
    obtain ⟨g, hg, -, -, hgc, -⟩ := hj
    rw [(hp g hg).1, hcount] at hgc
    cases hgc
  covered hc := hc

/-- Slots change where a known job counts or was fired. -/
theorem slots (hs : ¬ (j.count = none ∧ j.fired = none)) (m : TMap Slot) (s : State) :
    EndsOnly fs h s { s with hs.slots := m } where
  rest := rfl
  host := rfl
  others _ _ := .refl _
  elsewhere _ _ := rfl
  wqs _ _ := rfl
  chans _ _ := rfl
  evctrs _ _ := rfl
  plain hp := by
    obtain ⟨g, hg, -, -, hgc, hgf⟩ := hj
    exact absurd (hgc ▸ hgf ▸ hp g hg) hs
  covered hc := hc

/-! The counter that a job increases, and what it fires (R302, R303, R308). -/

omit hj in
theorem askSlots (s : State) : EndsOnly fs h s (askSlots h s) := by
  unfold Machine.askSlots
  split
  · exact ite (refl s) ((updHost_jobs (fun _ => by rfl) s).trans (of_waitsOnly (WaitsOnly.askDma rfl ..)))
  · exact refl s

section
variable {c : Nat × Nat} (hcount : j.count = some c)
include hcount

theorem fireSlot (fn k : Nat) (o : Option Nat) (s : State) : EndsOnly fs h s (fireSlot h fn k o s) :=
  ((slots hj (by simp [hcount]) _ s).trans (updHost_jobs (fun _ => by rfl) _)).trans (askSlots _)

theorem fireReady (fuel : Nat) : ∀ s, EndsOnly fs h s (fireReady fuel h c.1 s) := by
  induction fuel with
  | zero => exact refl
  | succ fuel ih =>
    intro s
    unfold Machine.fireReady
    extract_lets x
    split
    · exact refl s
    · exact ite (refl s) (((setEvc hj hcount _ s).trans (fireSlot hj hcount ..)).trans (ih _))

theorem ctrUpdate (f : BitVec 48 → BitVec 48) (s : State) : EndsOnly fs h s (ctrUpdate h c.1 f s) :=
  ((setEvc hj hcount _ s).trans (inc ..)).trans (fireReady hj hcount ..)

theorem meetCtr (s : State) : EndsOnly fs h s (meetCtr h c.1 s) :=
  ite ((setEvc hj hcount _ s).trans (ectCause ..)) (ite (inc ..) (refl s))

theorem ctrBump (fn : Option Nat) (n : Nat) (s : State) : EndsOnly fs h s (ctrBump h c.1 fn n s) :=
  (meetCtr hj hcount s).trans (ite (ctrUpdate hj hcount ..) ((inc ..).trans (ectCause ..)))

end

/-! The completion that a job commits (R201, R202). -/

omit hj in
theorem pushComp (q job : Nat) (posted : Bool) (ws : List Word) (s : State) :
    EndsOnly fs h s (pushComp h q job posted ws s) := by
  unfold Machine.pushComp
  exact updHost_jobs (fun _ => by rfl) s

theorem closeBatch (b : Batch) (s : State) : EndsOnly fs h s (closeBatch h j.q b s) := by
  unfold Machine.closeBatch
  split
  · exact ite (refl s) ((updWq hj _ s).trans (pushComp ..))
  · exact refl s

theorem commitWords (status : Nat) (ws : List Word) (s : State) : EndsOnly fs h s (commitWords h j status ws s) := by
  unfold Machine.commitWords
  extract_lets w posted recent s1
  have noted : EndsOnly fs h s s1 := ite (updWq hj _ s) (refl s)
  split
  · exact noted.trans (pushComp ..)
  · extract_lets closes b' s2 s3
    have joined : EndsOnly fs h s1 s2 := updWq hj _ s1
    have listed : EndsOnly fs h s2 s3 := ite (refl s2) (ite (updWq hj _ s2) (pushComp ..))
    exact ((noted.trans joined).trans listed).trans (closeBatch hj ..)

theorem dropJob (s : State) : EndsOnly fs h s (dropJob h j s) := by
  have waits : EndsOnly fs h s (stopWait h (.job j.id) s) := ite (updHost_jobs (fun _ => by rfl) s) (refl s)
  unfold Machine.dropJob
  refine EndsOnly.trans ?_ (updWq hj ..)
  refine EndsOnly.trans ?_ (updHost fun hc x hx => hc x (List.mem_filter.mp hx).1)
  exact waits.trans (ite (refl _) (updChan hj ..))

theorem endJob (status : Nat) (ws : List Word) (s : State) : EndsOnly fs h s (endJob h j status ws s) := by
  unfold Machine.endJob
  extract_lets w s1 s2 host s3
  have counted : EndsOnly fs h s1 s2 := by
    unfold s2
    split
    · next hcount => exact ite (ctrBump hj hcount ..) (refl s1)
    · exact refl s1
  have freed : EndsOnly fs h s2 s3 := by
    unfold s3
    split
    · next hfired => exact (slots hj (by simp [hfired]) _ s2).trans (of_waitsOnly (WaitsOnly.hostWr rfl ..))
    · exact refl s2
  exact (((dropJob hj s).trans counted).trans freed).trans (commitWords hj ..)

theorem noteLost (s : State) : EndsOnly fs h s (noteLost h j s) := ite (refl s) (updWq hj _ s)

end

/-! The fences and the TRIG_CANCEL that a job holds back (R205, R313). -/

theorem fenceLoss (n : Nat) (s : State) : EndsOnly fs h s (fenceLoss h n s) :=
  ite (refl s) (of_evOnly ((evOnly_count ..).trans (evOnly_raise ..)))

theorem replaceJob {j : Job} (hj : Known fs j) (i : Nat) (s : State) :
    EndsOnly fs h s (updJob h i (fun _ => j) s) := by
  refine updHost fun hc x hx => ?_
  obtain ⟨y, hy, rfl⟩ := List.mem_map.mp hx
  split
  · exact hj
  · exact hc y hy

theorem foldl {α : Type} {f : State → α → State} {l : List α}
    (hf : ∀ a ∈ l, ∀ s, Covered fs h s → EndsOnly fs h s (f s a)) {s : State} (hc : Covered fs h s) :
    EndsOnly fs h s (l.foldl f s) := by
  induction l generalizing s with
  | nil => exact refl s
  | cons a l ih =>
    have first := hf a List.mem_cons_self s hc
    exact first.trans (ih (fun x hx => hf x (List.mem_cons_of_mem a hx)) (first.covered hc))

/-- The job `f` when job `i` holds it back no longer. -/
def heldBackNoMore (i : Nat) (lost : Bool) (f : Job) : Job :=
  { f with waitFor := f.waitFor.filter (· ≠ i), loss := f.loss || lost }

theorem uncoverStep {after : Nat → State → State}
    (ha : ∀ i s, Covered fs h s → EndsOnly fs h s (after i s)) (i : Nat) (lost : Bool) {s : State} (hc : Covered fs h s) :
    EndsOnly fs h s (uncoverStep after h i lost s) := by
  refine foldl (fun f hf u hu => ?_) hc
  have known : Known fs (heldBackNoMore i lost f) := hc f (List.mem_filter.mp hf).1
  have counted : EndsOnly fs h u (Machine.fenceLoss h (b2n lost) u) := fenceLoss ..
  refine counted.trans (ite ?_ (replaceJob known ..))
  have ended := endJob (h := h) known (if f.loss || lost then 1 else 0)
    (comp0 (heldBackNoMore i lost f) (if f.loss || lost then 1 else 0) 0 0) (Machine.fenceLoss h (b2n lost) u)
  exact ended.trans (ha _ _ (ended.covered (counted.covered hu)))

theorem uncover (i : Nat) (lost : Bool) {s : State} (hc : Covered fs h s) : EndsOnly fs h s (uncover h i lost s) :=
  uncoverStep (fun _ _ hc => uncoverStep (fun _ s _ => refl s) _ _ hc) i lost hc

theorem finishJob {j : Job} (hj : Known fs j) (st n d : Nat) {s : State} (hc : Covered fs h s) :
    EndsOnly fs h s (finishJob h j st n d s) := by
  unfold Machine.finishJob finishWords
  extract_lets lost
  have ended := (ite (c := lost = true) (noteLost (h := h) hj s) (refl s)).trans (endJob hj st (comp0 j st n d) _)
  exact ended.trans (uncover _ _ (ended.covered hc))

end EndsOnly

/-- Settles O56: each operation's frame is that of the steps it takes. -/
theorem sharedFrames : Obligations.SharedFrames := by
  unfold Obligations.SharedFrames
  refine ⟨?reply, ?replyOut, ?jobEnd, ?sent⟩
  case reply =>
    rintro r st d1 d2 res data s t rfl
    have f := ReplyOnly.finish r st d1 d2 res data s
    refine ⟨?_, ?_, ?_, ?_, ?_, ?_, ?_, ?_, ?_, ?_, f.host, fun hr => finish_hs_of_no_ring hr .., f.ports, ?_⟩
    all_goals rw [f.rest]
  case replyOut =>
    exact fun r st d1 d2 res s hs => finish_out_head hs ..
  case jobEnd =>
    rintro h j st n d s t fs rfl rfl
    have f := EndsOnly.finishJob (h := h) (known_of_mem (List.mem_cons_self (a := j) (l := (hport s h).jobs))) st n d
      (s := s) fun x hx => known_of_mem (List.mem_cons_of_mem j hx)
    have r := f.rest
    exact ⟨r.pending, r.grade425, r.net, r.stage, r.trees, r.scr, r.heart, r.time, r.pw, r.nor, by rw [EvOnly] at r; rw [r],
      f.others, f.elsewhere, f.host, f.wqs, f.chans, f.evctrs, f.plain⟩
  case sent =>
    rintro h c p s t rfl
    have f := evOnly_sendOn h c p s
    exact ⟨f.pending, f.grade425, f.net, f.stage, f.hs, f.trees, f.scr, f.heart, f.time, f.pw, f.nor, by rw [EvOnly] at f; rw [f]⟩

end Sys2Proof.Proofs
end

section
/-! PROOFS. Translation contexts, memory regions and invalidations (O33: R182, R219, R220, R229, R231, R232). -/

namespace Sys2Proof.Proofs
open Sys2Proof.Machine Sys2Proof.Laws

/-! ### Contexts (R219, R220) -/

/-- XCTX_CREATE of an unused number tests the descriptor that it has read. -/
theorem stepXctxCreate_read {h home n : Nat} {j : Job} {v : View} {s t : State} {d : List Word}
    (hhome : home = fAt (Job.op j) 11 12 2) (hn : n = fAt (Job.op j) 11 0 12) (hfree : (xctxOf s home n).active = false)
    (hrd : rdWords h (wqOf s h j.q).fn v (u64 (Job.op j) 4) 8 s = (.ok d, t)) : stepXctxCreate h j v s =
      if !mayActFor (wqOf t h j.q) (fAt d 3 0 8) then malformed h j 2 t
      else if fAt d 0 0 12 ≠ 0 ∨ fAt d 2 2 4 / 2 ^ home % 2 = 0 ∨ (!bAt d 2 0 ∧ (fAt d 2 2 4 ≠ 2 ^ home ∨ bAt d 2 6))
          ∨ (fAt d 3 0 8 ≠ 0 ∧ (home ≠ h ∨ fAt d 2 2 4 ≠ 2 ^ h)) then malformed h j 8 t
      else finishJob h j 0 0 0 { t with hs.xctx := Maps.put {} t.hs.xctx (objKey 12 home n) {
        active := true, root := u64 d 0, bcast := bAt d 2 0, adEn := bAt d 2 1, share := BitVec.ofNat 4 (fAt d 2 2 4),
        trig := bAt d 2 6, fn := fAt d 3 0 8 } } := by
  subst hhome hn
  simp only [stepXctxCreate, hfree, Bool.false_eq_true, if_false, hrd]

/-! ### Regions (R219) -/

/-- MR_REGISTER of a region that the queue may act on tests the descriptor that it has read. -/
theorem stepMrRegister_read {h idx : Nat} {j : Job} {v : View} {s t : State} {d : List Word}
    (hidx : idx = fAt (Job.op j) 11 0 24) (hlog : idx < 2 ^ mrtLog s h) (hmay : mayRegion s h j idx = true)
    (hrd : rdWords h 0 v (mrtBase s h + 64 * idx) 16 (flushRegion h idx s) = (.ok d, t)) : stepMrRegister h j v s =
      if !bAt d 0 0 ∨ 2 ^ 48 < u64 d 2 + u64 d 4
          ∨ (!bAt d 0 7 ∧ (!(regionXctx t d).active ∨ !(regionXctx t d).share.getLsbD h))
          ∨ (bAt d 0 7 ∧ fAt d 0 16 8 ≠ 0) ∨ !mayActFor (wqOf t h j.q) (fAt d 0 16 8) then malformed h j 8 t
      else finishJob h j 0 0 0 { t with hs.regions := Maps.put [] t.hs.regions (objKey 24 h idx) d } := by
  subst hidx
  simp only [stepMrRegister, not_le.mpr hlog, hmay, Bool.not_true, Bool.false_eq_true, if_false, hrd]

/-- MR_INVALIDATE of a region that the queue may act on. -/
theorem stepMrInvalidate_mayAct {h idx : Nat} {j : Job} {s t : State}
    (hidx : idx = fAt (Job.op j) 11 0 24) (hlog : idx < 2 ^ mrtLog s h) (hmay : mayRegion s h j idx = true)
    (ht : t = { flushRegion h idx s with hs.regions := Maps.erase (objKey 24 h idx) (flushRegion h idx s).hs.regions }) :
    stepMrInvalidate h j s = if regionBusy s h idx then t else finishJob h j 0 0 0 t := by
  subst hidx ht
  simp only [stepMrInvalidate, not_le.mpr hlog, hmay, Bool.not_true, Bool.false_eq_true, if_false]
  rfl

/-! ### INVALIDATE (R229, R231, R232) -/

/-- The invalidation that an INVALIDATE of a job begins at its Bole; `bc` says that it is broadcast. -/
def invalOf (s : State) (h : Nat) (j : Job) (bc : Bool) (lo hi : Nat) : Inval :=
  { id := (xl s (boleOf h)).nextId, scope := Job.subop j, home := fAt (Job.op j) 11 12 2, ctx := fAt (Job.op j) 11 0 12,
    port := h, fn := (wqOf s h j.q).fn, start := lo, len := hi - lo, job := some j.id,
    xseq := if bc then some (xl s (boleOf h)).xseq else none, acked := !bc || !xinvReach s (1 - boleOf h) }

/-- The state in which an invalidation stands last in its Bole's line, counted. -/
def invalListed (s : State) (h : Nat) (bc : Bool) (iv : Inval) : State :=
  if bc then
    inc (xltCtr h 7) (updXl (boleOf h) (fun x => { x with
      invals := x.invals ++ [iv], nextId := x.nextId + 1, xseq := x.xseq + 1 }) (inc (xltCtr h 6) s))
  else updXl (boleOf h) (fun x => { x with invals := x.invals ++ [iv], nextId := x.nextId + 1 }) (inc (xltCtr h 6) s)

/-- INVALIDATE of contexts that the queue owns. -/
theorem stepInvalidate_owned {h lo hi : Nat} {j : Job} {bc : Bool} {s : State}
    (hown : Job.subop j = 3 ∨ ((xctxOf s (fAt (Job.op j) 11 12 2) (fAt (Job.op j) 11 0 12)).active = true
      ∧ (xctxOf s (fAt (Job.op j) 11 12 2) (fAt (Job.op j) 11 0 12)).share.getLsbD h = true
      ∧ ownsCtx (wqOf s h j.q) h (fAt (Job.op j) 11 12 2) (xctxOf s (fAt (Job.op j) 11 12 2) (fAt (Job.op j) 11 0 12)) = true))
    (hbc : bc = if Job.subop j = 3 then
        s.hs.xctx.any (fun e => e.1 / 2 ^ 12 == h && e.2.fn == (wqOf s h j.q).fn && e.2.bcast)
      else (xctxOf s (fAt (Job.op j) 11 12 2) (fAt (Job.op j) 11 0 12)).bcast)
    (hlo : lo = if Job.subop j = 1 then min (u64 (Job.op j) 4 / 4096 * 4096) (2 ^ 48) else 0)
    (hhi : hi = if Job.subop j = 1 then min (roundUp (u64 (Job.op j) 4 + u64 (Job.op j) 12) 4096) (2 ^ 48) else 0) :
    stepInvalidate h j s = invNext (boleOf h)
      (if bc = true ∧ (invalOf s h j bc lo hi).acked = false then
        sendXinv h 8 (xinvPayload (invalOf s h j bc lo hi) (xl s (boleOf h)).xseq) (invalListed s h bc (invalOf s h j bc lo hi))
      else invalListed s h bc (invalOf s h j bc lo hi)) := by
  have hthere : ¬ (Job.subop j ≠ 3 ∧ (!(xctxOf s (fAt (Job.op j) 11 12 2) (fAt (Job.op j) 11 0 12)).active
      ∨ !(xctxOf s (fAt (Job.op j) 11 12 2) (fAt (Job.op j) 11 0 12)).share.getLsbD h)) := by
    rintro ⟨h3, hx⟩
    obtain ⟨ha, hs, -⟩ := hown.resolve_left h3
    simp [ha, hs] at hx
  have hmine : ¬ (Job.subop j ≠ 3 ∧ !ownsCtx (wqOf s h j.q) h (fAt (Job.op j) 11 12 2)
      (xctxOf s (fAt (Job.op j) 11 12 2) (fAt (Job.op j) 11 0 12))) := by
    rintro ⟨h3, hx⟩
    obtain ⟨-, -, ho⟩ := hown.resolve_left h3
    simp [ho] at hx
  simp only [stepInvalidate, if_neg hthere, if_neg hmine, ← hbc, ← hlo, ← hhi]
  cases bc with
  | false => rfl
  | true =>
    cases hreach : xinvReach s (1 - boleOf h) <;> simp [invalOf, invalListed, hreach]

/-- Settles O33: each clause is the branch of its job's step that its hypotheses pick. -/
theorem contextsAndRegions : Obligations.ContextsAndRegions := by
  unfold Obligations.ContextsAndRegions
  refine ⟨?ctxCreate, ?ctxDestroy, ?register, ?unregister, ?unregisterBusy, ?invalidate, ?ctxInUse, ?ctxAbsent, ?ctxNamed,
    ?registerBeyond, ?unregisterBeyond, ?registerOther, ?unregisterOther, ?registerInvalid, ?ctxCreateIdle,
    ?ctxDestroyIdle, ?registerIdle, ?unregisterIdle, ?invalidateIdle⟩
  case ctxCreate =>
    rintro h q i m j d s _ hup hj hfree hrd hmay hzero hshare hlocal hfn rfl
    refine clocked_runs fun _ => ?_
    rw [effXctxCreate_begins hup hj, stepXctxCreate_read (j := { j with begun := true }) rfl rfl hfree hrd]
    have hone : fAt d 2 2 4 / 2 ^ fAt (Job.op j) 11 12 2 % 2 ≠ 0 := by omega
    have hloc : ¬ ((!bAt d 2 0) = true ∧ (fAt d 2 2 4 ≠ 2 ^ fAt (Job.op j) 11 12 2 ∨ bAt d 2 6 = true)) := by
      rcases hlocal with hb | ⟨h1, h2⟩
      · simp [hb]
      · simp [h1, h2]
    have hvf : ¬ (fAt d 3 0 8 ≠ 0 ∧ (fAt (Job.op j) 11 12 2 ≠ h ∨ fAt d 2 2 4 ≠ 2 ^ h)) := by
      rcases hfn with h0 | ⟨h1, h2⟩
      · simp [h0]
      · simp [h1, h2]
    rw [if_neg (by simp [hmay]), if_neg]
    · rfl
    · exact fun hbad => hbad.elim (· hzero) fun hbad => hbad.elim hone fun hbad => hbad.elim hloc hvf
  case ctxDestroy =>
    rintro h q i j s _ hup hj hact hshare hown hnamed rfl
    exact clocked_runs fun _ => by
      simp [effXctxDestroy_begins hup hj, stepXctxDestroy, hact, hshare, hown, hnamed]
  case register =>
    rintro h q i m j d s _ hup hj hlog hmay hrd hvalid hlen hkind hown rfl
    refine clocked_runs fun _ => ?_
    rw [effMrRegister_begins hup hj, stepMrRegister_read (j := { j with begun := true }) rfl hlog hmay hrd, if_neg]
    · rfl
    · rintro (hv | hl | ⟨hp, hc⟩ | ⟨hp, hf⟩ | ho)
      · simp [hvalid] at hv
      · exact absurd hlen (not_le.mpr hl)
      · rcases hkind with ⟨-, ha, hs⟩ | ⟨hx, -⟩
        · simp [ha, hs] at hc
        · simp [hx] at hp
      · rcases hkind with ⟨hx, -, -⟩ | ⟨-, h0⟩
        · simp [hx] at hp
        · exact hf h0
      · simp [hown] at ho
  case unregister =>
    rintro h q i j s _ hup hj hlog hmay hbusy rfl
    exact clocked_runs fun _ => by
      rw [effMrInvalidate_begins hup hj, stepMrInvalidate_mayAct (j := { j with begun := true }) rfl hlog hmay rfl,
        if_neg (by simpa using hbusy)]
      rfl
  case unregisterBusy =>
    rintro h q i j s _ hup hj hlog hmay hbusy rfl
    exact clocked_runs fun _ => by
      rw [effMrInvalidate_begins hup hj, stepMrInvalidate_mayAct (j := { j with begun := true }) rfl hlog hmay rfl,
        if_pos (by simpa using hbusy)]
      rfl
  case invalidate =>
    rintro h q i j bc lo hi iv u s _ hup hj hown hbc hlo hhi rfl rfl rfl
    exact clocked_runs fun _ => (effInvalidate_begins hup hj).trans
      (stepInvalidate_owned (j := { j with begun := true }) hown hbc hlo hhi)
  case ctxInUse =>
    rintro h q i m j s _ hup hj hact rfl
    exact clocked_runs fun _ => (effXctxCreate_begins hup hj).trans (if_pos hact)
  case ctxAbsent =>
    rintro h q i j s _ hup hj hno rfl
    exact clocked_runs fun _ => (effXctxDestroy_begins hup hj).trans (if_pos (by simpa using hno))
  case ctxNamed =>
    rintro h q i j s _ hup hj hact hshare hown hnamed rfl
    exact clocked_runs fun _ => by
      simp [effXctxDestroy_begins hup hj, stepXctxDestroy, hact, hshare, hown, hnamed]
  case registerBeyond =>
    rintro h q i m j s _ hup hj hlog rfl
    exact clocked_runs fun _ => (effMrRegister_begins hup hj).trans (if_pos hlog)
  case unregisterBeyond =>
    rintro h q i j s _ hup hj hlog rfl
    exact clocked_runs fun _ => (effMrInvalidate_begins hup hj).trans (if_pos hlog)
  case registerOther =>
    rintro h q i m j s _ hup hj hlog hmay rfl
    exact clocked_runs fun _ => (effMrRegister_begins hup hj).trans
      ((if_neg (not_le.mpr hlog)).trans (if_pos (by simpa using hmay)))
  case unregisterOther =>
    rintro h q i j s _ hup hj hlog hmay rfl
    exact clocked_runs fun _ => (effMrInvalidate_begins hup hj).trans
      ((if_neg (not_le.mpr hlog)).trans (if_pos (by simpa using hmay)))
  case registerInvalid =>
    rintro h q i m j d s _ hup hj hlog hmay hrd hvalid rfl
    exact clocked_runs fun _ => by
      rw [effMrRegister_begins hup hj, stepMrRegister_read (j := { j with begun := true }) rfl hlog hmay hrd,
        if_pos (.inl (by simp [hvalid]))]
  case ctxCreateIdle =>
    rintro h q i m s _ hn rfl
    exact clocked_runs fun _ => jobRow_idle hn
  case ctxDestroyIdle =>
    rintro h q i s _ hn rfl
    exact clocked_runs fun _ => jobRow_idle hn
  case registerIdle =>
    rintro h q i m s _ hn rfl
    exact clocked_runs fun _ => jobRow_idle hn
  case unregisterIdle =>
    rintro h q i s _ hn rfl
    exact clocked_runs fun _ => jobRow_idle hn
  case invalidateIdle =>
    rintro h q i s _ hn rfl
    exact clocked_runs fun _ => jobRow_idle hn

end Sys2Proof.Proofs
end

section
/-! PROOFS. A FENCE that has nothing left to wait for ends by the stores that it knows as lost (O29: R205, R362). -/

namespace Sys2Proof.Proofs
open Sys2Proof.Machine Sys2Proof.Laws

theorem stepJob_fence {h : Nat} {j : Job} (hop : Job.opcode j = 2) (hw : j.waitFor = []) (v : View) (s : State) :
    stepJob h j v s = endJob h j (b2n j.loss) (comp0 j (b2n j.loss) 0 0) s := by simp [stepJob, hop, hw]

section
variable {h q : Nat} {i : Word} {j : Job} {s : State} (hup : hostUp s h = true) (hj : freshJob s h q i 2 = some j)
include hup hj

/-- A FENCE with nothing left to wait for ends with status 1, COMPLETED_WITH_LOSS, where a covered store was lost, and else
with status 0. -/
theorem effFenceJob_ends (hw : j.waitFor = []) : effFenceJob h q i s =
    endJob h { j with begun := true } (b2n j.loss) (comp0 { j with begun := true } (b2n j.loss) 0 0)
      (updJob h j.id (fun k => { k with begun := true }) s) := by
  simp only [effFenceJob, jobRow_begins hup hj, beginJob]
  exact stepJob_fence (j := { j with begun := true }) ((opcode_begun j).trans (opcode_of_freshJob hj)) hw _ _

/-- O29's second clause, for a FENCE that knows of no lost store. -/
theorem effFenceJob_ends_ok (hw : j.waitFor = []) (hl : j.loss = false) : effFenceJob h q i s =
    endJob h { j with begun := true } 0 (comp0 { j with begun := true } 0 0 0)
      (updJob h j.id (fun k => { k with begun := true }) s) := by
  rw [effFenceJob_ends hup hj hw, hl]
  rfl

end

/-- An issued FENCE of queue 5. The store that it covers was discarded before the FENCE issued, so that it has nothing to wait
for and knows of the loss (log 159). -/
def lossyFence : Job :=
  { id := 1, h := 1, q := 5, idx := 0, ents := [[0x00020000, 0, 0, 0, 0, 0, 0, 0, 0, 0, 0, 0, 0, 0, 0, 0x80000000]], loss := true }

/-- Host port 1 is UP, and `lossyFence` of its queue 5 is issued. -/
def fenceIssued : State :=
  { State.reset with
    pw.dom := [81, 84, 85, 86, 87, 92].map (fun d => (d, { st := .on, wasOff := false }))
    pw.pllLock := 1
    hs.ports := [(1, { st := .up, jobs := [lossyFence] })]
    hs.wqs := [(objKey 20 1 5, { st := .active, fence := some 1 })] }

/-- The FENCE ends with the given status. -/
def fenceEnds (status : Nat) : State :=
  endJob 1 { lossyFence with begun := true } status (comp0 { lossyFence with begun := true } status 0 0)
    (updJob 1 1 (fun k => { k with begun := true }) fenceIssued)

/-- Refutes O29 by its second clause, which has every FENCE with nothing left to wait for end OK. In `fenceIssued` a store that
the FENCE covers was lost: it ends COMPLETED_WITH_LOSS, as R205 and R362 want. Where no covered store was lost the clause holds
(`effFenceJob_ends_ok`). -/
theorem not_queueJobs : ¬ Obligations.QueueJobs := by
  unfold Obligations.QueueJobs
  rintro ⟨-, hfence, -⟩
  have fresh : freshJob fenceIssued 1 5 0 2 = some lossyFence := by decide +kernel
  have up : hostUp fenceIssued 1 = true := by decide +kernel
  have stated : exec (.fenceJob 1 5 0) fenceIssued = .next (fenceEnds 0) :=
    (hfence 1 5 0 lossyFence fenceIssued (fenceEnds 0) up fresh rfl rfl).2 (by decide +kernel)
  have runs : exec (.fenceJob 1 5 0) fenceIssued = .next (fenceEnds 1) :=
    (clocked_runs fun _ => effFenceJob_ends up fresh rfl).2 (show quiet fenceIssued (fenceEnds 1) = true by decide +kernel)
  have same : fenceEnds 0 = fenceEnds 1 := by
    rw [stated] at runs
    injection runs
  have ok : ((hport (fenceEnds 0) 1).comps.map (·.words)) = [comp0 lossyFence 0 0 0] := by decide +kernel
  have lossy : ((hport (fenceEnds 1) 1).comps.map (·.words)) = [comp0 lossyFence 1 0 0] := by decide +kernel
  rw [same, lossy] at ok
  exact absurd ok (by decide)

end Sys2Proof.Proofs
end

section
/-! PROOFS. The life of a host port (O32: R209 to R213, R231). -/

namespace Sys2Proof.Proofs
open Sys2Proof.Machine Sys2Proof.Laws

/-! ### The pin PERST_N and the link (R209) -/

/-- A host port in CLEANUP has neither rate nor width, and no VF enabled. -/
def intoCleanup (h : Nat) (s : State) : State :=
  updHost h (fun p => { p with st := .cleanup, rate := 0, width := 0, numVfs := 0 }) s

/-- The loss of a link that has been up is counted and raised. -/
def noteLinkDown (h : Nat) (s : State) : State :=
  hptCause h 0 (inc (hptCtr h 0) (updHost h (fun p => { p with removed := true }) s))

/-- A link lost with PERST_N deasserted and no hot reset counts and raises SURPRISE. -/
def noteSurprise (h : Nat) : Bool → State → State
  | true, s => hptCause h 4 (inc (hptCtr h 1) s)
  | false, s => s

section
variable {h : Nat} {s : State}

theorem hostLose_linked {surprise : Bool} (hst : (hport s h).st = .up ∨ (hport s h).st = .notReady) :
    hostLose h surprise s = intoCleanup h (cleanPort h (noteSurprise h surprise (noteLinkDown h s))) := by
  rcases hst with hst | hst <;> cases surprise <;> simp [hostLose, hst, intoCleanup, noteLinkDown, noteSurprise]

theorem hostLose_training {surprise : Bool} (hst : (hport s h).st = .training) :
    hostLose h surprise s = intoCleanup h (cleanPort h (noteSurprise h surprise s)) := by
  cases surprise <;> simp [hostLose, hst, intoCleanup, noteSurprise]

theorem hostLose_unlinked {surprise : Bool}
    (hst : (hport s h).st = .off ∨ (hport s h).st = .reset ∨ (hport s h).st = .cleanup) : hostLose h surprise s = s := by
  rcases hst with hst | hst | hst <;> simp [hostLose, hst]

theorem effPerstAssert_clocked (hh : h < 4) (hs : s.pw.stopped = false) :
    effPerstAssert h s = hostLose h false (updHost h (fun p => { p with perst := true }) s) := by
  simp [effPerstAssert, hh, perstLow, hs]

theorem effPerstAssert_stopped (hh : h < 4) (hs : s.pw.stopped = true) :
    effPerstAssert h s = updHost h (fun p => { p with perst := true }) s := by
  simp [effPerstAssert, hh, perstLow, hs]

theorem effPerstDeassert_starts (hs : s.pw.stopped = false) (hst : (hport s h).st = .reset) (hfw : fwVerified s = true) :
    effPerstDeassert h s =
      updHost h (fun p => { p with st := .training }) (updHost h (fun p => { p with perst := false }) s) := by
  have verified : fwVerified (updHost h (fun p => { p with perst := false }) s) = true := hfw
  simp [effPerstDeassert, hs, hostStart, hst, verified, hport_updHost_same]

theorem effPerstDeassert_pinOnly (hn : s.pw.stopped = true ∨ (hport s h).st ≠ .reset ∨ fwVerified s = false) :
    effPerstDeassert h s = updHost h (fun p => { p with perst := false }) s := by
  rcases hn with hs | hst | hfw
  · simp [effPerstDeassert, hs]
  · simp [effPerstDeassert, hostStart, hst, hport_updHost_same]
  · have unverified : fwVerified (updHost h (fun p => { p with perst := false }) s) = false := hfw
    simp [effPerstDeassert, hostStart, unverified]

/-- A link at x4 or wider comes up; one below full rate or width is noted as slow. -/
theorem effHostLinkUp_trains {rate width : Nat} (hst : (hport s h).st = .training) (href : s.pw.hostRefOk.getLsbD h = true)
    (hw : 4 ≤ width) : effHostLinkUp h rate width s = hostReady h
      (if rate < 4 ∨ width < 16 then hptCause h 1
          (updHost h (fun p => { p with st := .notReady, rate := BitVec.ofNat 4 rate, width := BitVec.ofNat 5 width }) s)
        else updHost h (fun p => { p with st := .notReady, rate := BitVec.ofNat 4 rate, width := BitVec.ofNat 5 width }) s) := by
  simp [effHostLinkUp, hst, href, not_lt.mpr hw]

theorem effHostLinkDown_surprise (hp : (hport s h).perst = false) : effHostLinkDown h false s = hostLose h true s := by
  simp [effHostLinkDown, hp]

theorem effHostLinkDown_expected {hot : Bool} (hp : hot = true ∨ (hport s h).perst = true) :
    effHostLinkDown h hot s = hostLose h false s := by
  rcases hp with rfl | hp
  · simp [effHostLinkDown]
  · simp [effHostLinkDown, hp]

/-! ### Resets of functions (R211) -/

theorem effFlr_vf {fn : Nat} (hst : (hport s h).st = .up) (hfn : fn ≠ 0) : effFlr h fn false s =
    cleanup { h := h, fns := fun f => f == fn, all := false, pf := false } (inc (hptCtr h 2) s) := by
  simp [effFlr, flrScope, hst, hfn]

theorem effFlr_pf (hst : (hport s h).st = .up) : effFlr h 0 false s = updHost h (fun p => { p with numVfs := 0 })
    (cleanup { h := h, fns := fun _ => true, all := false, pf := true } (inc (hptCtr h 2) s)) := by
  simp [effFlr, flrScope, hst]

theorem effFlr_vfsLost {fn : Nat} (hst : (hport s h).st = .up) : effFlr h fn true s =
    updHost h (fun p => { p with numVfs := 0 })
      (cleanup { h := h, fns := fun f => f != 0, all := false, pf := false } s) := by
  simp [effFlr, flrScope, hst]

/-! ### Reads of host memory that return (R257) -/

theorem effHostDmaReadDone_waited {id : Nat} {m : HostView} {w : Wait} (hheld : dmaHeld s h (.wait id) = false)
    (hw : (hport s h).waits.find? (fun w => w.id == id) = some w) : effHostDmaReadDone h id m s =
    match w.need with
    | .read _ _ _ _ => runClient h w.client (viewOf m s) s
    | .walk _ _ _ _ _ _ _ _ _ => runClient h w.client (viewOf m s) s
    | .data _ a _ ck page _ _ first pages =>
      runClient h w.client { viewOf m s with held := some (ck, page, a / 4096 * 4096, first, pages) } s
    | .cas _ _ => s
    | .page _ _ _ => s
    | .turn _ _ => s
    | .walker _ => s
    | .slot _ _ => s
    | .issue _ => s := by
  simp [effHostDmaReadDone, hheld, hw] <;> rfl

end

/-- Settles O32: each clause is the branch of its command's effect that the port's state picks. -/
theorem hostPortLife : Obligations.HostPortLife := by
  unfold Obligations.HostPortLife
  refine ⟨?deassertStarts, ?deassertPin, ?assertLinked, ?assertTraining, ?assertPin, ?up, ?upSlow, ?upNothing,
    ?surpriseLinked, ?surpriseTraining, ?lostLinked, ?lostTraining, ?lostUnlinked, ?cleaned, ?notCleaning, ?resetVf, ?resetPf,
    ?vfsLost, ?resetIdle, ?read, ?data, ?unknown⟩
  case deassertStarts =>
    rintro h s _ hs hst hfw rfl
    exact always_runs (effPerstDeassert_starts hs hst hfw)
  case deassertPin =>
    rintro h s _ hn rfl
    exact always_runs (effPerstDeassert_pinOnly hn)
  case assertLinked =>
    rintro h s _ hh hs hst rfl
    exact always_runs ((effPerstAssert_clocked hh hs).trans (hostLose_linked (by rwa [hport_updHost_same])))
  case assertTraining =>
    rintro h s _ hh hs hst rfl
    exact always_runs ((effPerstAssert_clocked hh hs).trans (hostLose_training (by rwa [hport_updHost_same])))
  case assertPin =>
    rintro h s _ hh hn rfl
    rcases hn with hs | hst
    · exact always_runs (effPerstAssert_stopped hh hs)
    · cases hs : s.pw.stopped with
      | true => exact always_runs (effPerstAssert_stopped hh hs)
      | false => exact always_runs ((effPerstAssert_clocked hh hs).trans (hostLose_unlinked (by rwa [hport_updHost_same])))
  case up =>
    rintro h rate width s _ hst href hw hr hfull rfl
    exact clocked_runs fun _ => (effHostLinkUp_trains hst href hw).trans (congrArg _ (if_neg (by omega)))
  case upSlow =>
    rintro h rate width s _ hst href hw hslow rfl
    exact clocked_runs fun _ => (effHostLinkUp_trains hst href hw).trans (congrArg _ (if_pos hslow))
  case upNothing =>
    rintro h rate width s _ hn rfl
    exact clocked_runs fun _ => if_pos (by simpa using hn)
  case surpriseLinked =>
    rintro h s _ hp hst rfl
    exact clocked_runs fun _ => (effHostLinkDown_surprise hp).trans (hostLose_linked hst)
  case surpriseTraining =>
    rintro h s _ hp hst rfl
    exact clocked_runs fun _ => (effHostLinkDown_surprise hp).trans (hostLose_training hst)
  case lostLinked =>
    rintro h hot s _ hp hst rfl
    exact clocked_runs fun _ => (effHostLinkDown_expected hp).trans (hostLose_linked hst)
  case lostTraining =>
    rintro h hot s _ hp hst rfl
    exact clocked_runs fun _ => (effHostLinkDown_expected hp).trans (hostLose_training hst)
  case lostUnlinked =>
    rintro h hot s _ hst rfl
    exact clocked_runs fun _ => hostLose_unlinked hst
  case cleaned =>
    rintro h s _ hst rfl
    exact clocked_runs fun _ => if_pos hst
  case notCleaning =>
    rintro h s _ hst rfl
    exact clocked_runs fun _ => if_neg hst
  case resetVf =>
    exact fun _ _ _ _ hst hfn ht => clocked_runs fun _ => (effFlr_vf hst hfn).trans ht.symm
  case resetPf =>
    exact fun _ _ _ hst ht => clocked_runs fun _ => (effFlr_pf hst).trans ht.symm
  case vfsLost =>
    exact fun _ _ _ _ hst ht => clocked_runs fun _ => (effFlr_vfsLost hst).trans ht.symm
  case resetIdle =>
    rintro h fn vfs s _ hst rfl
    exact clocked_runs fun _ => if_pos hst
  case read =>
    rintro h id fn a l slot m w s _ hheld hw hneed rfl
    exact clocked_runs fun _ => by rw [effHostDmaReadDone_waited hheld hw, hneed]
  case data =>
    rintro h id fn a l ck pg x first pages at_ m w s _ hheld hw hneed rfl
    exact clocked_runs fun _ => by rw [effHostDmaReadDone_waited hheld hw, hneed]
  case unknown =>
    rintro h id m s _ hw rfl
    exact clocked_runs fun _ => by simp [effHostDmaReadDone, hw]

end Sys2Proof.Proofs
end

section
/-! PROOFS. The tests that a packet for a cached channel meets in turn, whatever its type (R250, R251, R252, R255, R256). -/

namespace Sys2Proof.Proofs
open Sys2Proof.Machine Sys2Proof.Laws

/-- A packet of type `ty` has arrived in `s` for the cached channel `c`, whose record is `x` in `w` when its tests begin; `r` is
what the Bole's tests leave, `u` what counting the packet leaves, and `v` what the packet sees of host memory. -/
structure Accepted (h : Nat) (ty : Byte) (p : Packet) (m : HostView) (s r u w : State) (c : Nat) (x : Chan) (v : View) :
    Prop where
  passed : arrived h ty p s = (r, true)
  chan : c = p.chan.toNat
  counted : u = inc (trnCtr h 1) r
  cached : (chanOf u h c).cached = true
  view : v = viewOf m u
  used : w = (takeCore h c (meetCtx h c u)).1
  record : x = chanOf w h c

/-- A packet carries the incarnation of a reliable channel and comes from its peer. -/
structure FromPeer (x : Chan) (p : Packet) : Prop where
  incarnation : p.inc = x.inc
  source : p.src = x.peer
  reliable : x.unrel = false

/-- A packet that has executed before, or whose PSN lies behind the expected one (R255). -/
def Repeated (x : Chan) (p : Packet) : Prop :=
  2 ^ 31 ≤ (p.psn - x.expect).toNat ∨ ((p.psn - x.expect).toNat < 2048 ∧ executedAt x (p.psn - x.expect).toNat = true)

/-- A packet at distance `d` of the expected PSN lies within the receive window and has not executed. -/
structure Fresh (x : Chan) (p : Packet) (d : Nat) : Prop where
  distance : d = (p.psn - x.expect).toNat
  near : d < 2048
  unexecuted : executedAt x d = false

/-- A fresh packet that is not in execution, that the order does not hold back, and whose channel has the slots that it needs; `y`
is the state with those slots. -/
structure Admitted (h c : Nat) (x : Chan) (p : Packet) (d : Nat) (w y : State) : Prop extends Fresh x p d where
  idle : x.busy.any (fun q => q.psn == p.psn) = false
  inOrder : heldBack x d p = false
  slots : (if d = 0 ∨ x.window then (w, true) else freeSlots (boleOf h) (objKey 24 h c) 1 w) = (y, true)

/-! ### Packets that the Bole does not take, or whose context is away (R250, R251) -/

theorem request_dropped {h : Nat} {ty : Byte} {p : Packet} {m : HostView} {s r : State} (ha : arrived h ty p s = (r, false)) :
    request h ty p m s = r := by simp [request, ha]

theorem request_uncached {h c : Nat} {ty : Byte} {p : Packet} {m : HostView} {s r : State} (ha : arrived h ty p s = (r, true))
    (hc : c = p.chan.toNat) (hn : (chanOf (inc (trnCtr h 1) r) h c).cached = false) :
    request h ty p m s = fetchCtx h c (park h c p (inc (trnCtr h 1) r)) := by
  subst hc
  simp only [request, ha, hn, Bool.not_true, Bool.not_false, Bool.false_eq_true, if_false, if_true]

section
variable {h c d : Nat} {ty : Byte} {p : Packet} {m : HostView} {s r u w y : State} {x : Chan} {v : View}

theorem request_accepted (ha : Accepted h ty p m s r u w c x v) :
    request h ty p m s = afterRx h c p v (accept h c p false v w) := by
  obtain ⟨hpassed, rfl, rfl, hcached, rfl, rfl, -⟩ := ha
  simp only [request, hpassed, hcached, Bool.not_true, Bool.false_eq_true, if_false]

/-! ### The tests of a channel's packet, in order (R252, R255, R256) -/

section
variable (hx : x = chanOf w h c)
include hx

theorem accept_otherIncarnation (hinc : p.inc ≠ x.inc) : accept h c p false v w = (.over, trnStale h 7 w) := by
  subst hx
  simp [accept, hinc]

theorem accept_otherSource (hinc : p.inc = x.inc) (hsrc : p.src ≠ x.peer) :
    accept h c p false v w = (.over, trnStale h 8 w) := by
  subst hx
  simp [accept, hinc, hsrc]

section
variable (hp : FromPeer x p)
include hp

theorem accept_inError (he : x.st = .error) : accept h c p false v w = (.over, sendAck h c p.psn 0x11 0 w) := by
  subst hx
  simp [accept, hp.incarnation, hp.source, hp.reliable, he]

section
variable (hok : x.st ≠ .error)
include hok

theorem accept_beyond (hfar : 2048 ≤ (p.psn - x.expect).toNat) (hahead : (p.psn - x.expect).toNat < 2 ^ 31) :
    accept h c p false v w = (.over, trnStale h 9 w) := by
  subst hx
  simp only [accept, hp.incarnation, hp.source, hp.reliable, hok, ne_eq, not_true, Bool.false_eq_true, if_false,
    if_neg (not_le.mpr hahead), if_pos hfar]

theorem accept_repeated (hd : Repeated x p) : accept h c p false v w = duplicate h c p false v w := by
  subst hx
  simp only [accept, hp.incarnation, hp.source, hp.reliable, hok, ne_eq, not_true, Bool.false_eq_true, if_false]
  rcases hd with hbehind | ⟨hnear, hexecuted⟩
  · rw [if_pos hbehind]
  · rw [if_neg (by omega), if_neg (by omega), if_pos hexecuted]

/-- A fresh packet meets the tests that follow those of its PSN. -/
theorem accept_fresh (hf : Fresh x p d) : accept h c p false v w =
    if x.busy.any (fun q => q.psn == p.psn) then (.over, inc (trnCtr h 6) w)
    else if heldBack x d p then (.park, w)
    else
      let r := if d = 0 ∨ x.window then (w, true) else freeSlots (boleOf h) (objKey 24 h c) 1 w
      if !r.2 then (.park, r.1)
      else if !aliveOk x d p then (.over, cvuFail h 4 p r.1)
      else execute h c d p v r.1 := by
  obtain ⟨hd, hnear, hexecuted⟩ := hf
  subst hx
  have hahead : ¬ 2 ^ 31 ≤ d := by omega
  simp only [accept, ← hd, hp.incarnation, hp.source, hp.reliable, hok, ne_eq, not_true, Bool.false_eq_true, if_false,
    if_neg hahead, if_neg (not_le.mpr hnear), hexecuted, Bool.not_false, true_and]

theorem accept_busy (hf : Fresh x p d) (hbusy : x.busy.any (fun q => q.psn == p.psn) = true) :
    accept h c p false v w = (.over, inc (trnCtr h 6) w) := by
  rw [accept_fresh hx hp hok hf, if_pos hbusy]

theorem accept_heldBack (hf : Fresh x p d) (hidle : x.busy.any (fun q => q.psn == p.psn) = false)
    (hheld : heldBack x d p = true) : accept h c p false v w = (.park, w) := by
  rw [accept_fresh hx hp hok hf, if_neg (by simp [hidle]), if_pos hheld]

/-- An admitted packet executes if its alive test passes (R401). -/
theorem accept_admitted (hf : Admitted h c x p d w y) : accept h c p false v w =
    if !aliveOk x d p then (.over, cvuFail h 4 p y) else execute h c d p v y := by
  rw [accept_fresh hx hp hok hf.toFresh, if_neg (by simp [hf.idle]), if_neg (by simp [hf.inOrder]), hf.slots]
  rfl

end

end

end

/-! ### Repeated packets (R255, R262) -/

theorem duplicate_refused {k : Nat} (hx : x = chanOf w h c) (hr : x.refused = some (p.psn, k)) :
    duplicate h c p false v w = (.over, sendAck h c p.psn 0x10 k (inc (trnCtr h 6) w)) := by
  subst hx
  simp [duplicate, hr]

/-- A repeated packet that is not the last refused one is answered by its type. -/
theorem duplicate_answered (hx : x = chanOf w h c) (hr : x.refused.all (fun e => e.1 != p.psn) = true) :
    duplicate h c p false v w = duplicate.answer h c p v x (inc (trnCtr h 6) w) := by
  subst hx
  cases hrefused : (chanOf w h c).refused with
  | none => simp [duplicate, hrefused]
  | some e =>
    have other : e.1 ≠ p.psn := by simpa [hrefused] using hr
    simp [duplicate, hrefused, other]

theorem answer_oldRefused (hold : x.olds.contains p.psn = true) :
    duplicate.answer h c p v x w = (.over, sendAck h c p.psn 0 0 w) := if_pos hold

theorem answer_acked (hread : p.ptype ≠ 3) (hatomic : p.ptype ≠ 5) :
    duplicate.answer h c p v x w = (.over, sendAck h c p.psn 0 0 w) := by
  simp only [duplicate.answer, if_neg hread, if_neg hatomic, ite_self]

/-! ### The same, of the whole row -/

section
variable (ha : Accepted h ty p m s r u w c x v)
include ha

theorem Accepted.type : p.ptype = ty := (arrived_type (by rw [ha.passed])).1

theorem request_otherIncarnation (hinc : p.inc ≠ x.inc) : request h ty p m s = afterRx h c p v (.over, trnStale h 7 w) := by
  rw [request_accepted ha, accept_otherIncarnation ha.record hinc]

theorem request_otherSource (hinc : p.inc = x.inc) (hsrc : p.src ≠ x.peer) :
    request h ty p m s = afterRx h c p v (.over, trnStale h 8 w) := by
  rw [request_accepted ha, accept_otherSource ha.record hinc hsrc]

variable (hp : FromPeer x p)
include hp

theorem request_inError (he : x.st = .error) : request h ty p m s = afterRx h c p v (.over, sendAck h c p.psn 0x11 0 w) := by
  rw [request_accepted ha, accept_inError ha.record hp he]

variable (hok : x.st ≠ .error)
include hok

theorem request_beyond (hfar : 2048 ≤ (p.psn - x.expect).toNat) (hahead : (p.psn - x.expect).toNat < 2 ^ 31) :
    request h ty p m s = afterRx h c p v (.over, trnStale h 9 w) := by
  rw [request_accepted ha, accept_beyond ha.record hp hok hfar hahead]

theorem request_refused {k : Nat} (hd : Repeated x p) (hr : x.refused = some (p.psn, k)) :
    request h ty p m s = afterRx h c p v (.over, sendAck h c p.psn 0x10 k (inc (trnCtr h 6) w)) := by
  rw [request_accepted ha, accept_repeated ha.record hp hok hd, duplicate_refused ha.record hr]

theorem request_answered (hd : Repeated x p) (hr : x.refused.all (fun e => e.1 != p.psn) = true) :
    request h ty p m s = afterRx h c p v (duplicate.answer h c p v x (inc (trnCtr h 6) w)) := by
  rw [request_accepted ha, accept_repeated ha.record hp hok hd, duplicate_answered ha.record hr]

theorem request_oldRefused (hd : Repeated x p) (hr : x.refused.all (fun e => e.1 != p.psn) = true)
    (hold : x.olds.contains p.psn = true) :
    request h ty p m s = afterRx h c p v (.over, sendAck h c p.psn 0 0 (inc (trnCtr h 6) w)) := by
  rw [request_answered ha hp hok hd hr, answer_oldRefused hold]

theorem request_busy (hf : Fresh x p d) (hbusy : x.busy.any (fun q => q.psn == p.psn) = true) :
    request h ty p m s = afterRx h c p v (.over, inc (trnCtr h 6) w) := by
  rw [request_accepted ha, accept_busy ha.record hp hok hf hbusy]

theorem request_heldBack (hf : Fresh x p d) (hidle : x.busy.any (fun q => q.psn == p.psn) = false)
    (hheld : heldBack x d p = true) : request h ty p m s = park h c p w := by
  rw [request_accepted ha, accept_heldBack ha.record hp hok hf hidle hheld]
  rfl

variable (hf : Admitted h c x p d w y)
include hf

theorem request_notAlive (hal : aliveOk x d p = false) :
    request h ty p m s = afterRx h c p v (.over, cvuFail h 4 p y) := by
  rw [request_accepted ha, accept_admitted ha.record hp hok hf, if_pos (by simp [hal])]

theorem request_executes (hal : aliveOk x d p = true) :
    request h ty p m s = afterRx h c p v (execute h c d p v y) := by
  rw [request_accepted ha, accept_admitted ha.record hp hok hf, if_neg (by simp [hal])]

theorem request_ends {e : Fate × State} (hal : aliveOk x d p = true) (he : execute h c d p v y = e) :
    request h ty p m s = afterRx h c p v e := he ▸ request_executes ha hp hok hf hal

end

end

end Sys2Proof.Proofs
end

section
/-! PROOFS. Requests that arrive and execute, contexts that come, and acknowledgements that are owed (O37: R203, R250, R253,
R257 to R262). -/

namespace Sys2Proof.Proofs
open Sys2Proof.Machine Sys2Proof.Laws

/-! ### Execution by type (R253, R257) -/

section
variable {h c d : Nat} {p : Packet} {v : View} {s : State}

theorem execRx_writeImm (ht : p.ptype = 2) : execRx h c p v s = execWriteImmRx h c p s := by simp [execRx, ht]
theorem execRx_read (ht : p.ptype = 3) : execRx h c p v s = execReadRx h c p v s := by simp [execRx, ht]
theorem execRx_atomic (ht : p.ptype = 5) : execRx h c p v s = execAtomicRx h c p v s := by simp [execRx, ht]

/-! What the end of an execution sends and notes (R252, R257). -/

section
variable {a : State}

theorem execute_done (he : execRx h c p v s = (.done, a)) :
    execute h c d p v s = (.over, ackDue h c p (markDone h c d p a)) := by simp [execute, he]

theorem execute_resp {ty mask : Byte} {ext : List Word} {bs : List Byte} (he : execRx h c p v s = (.resp ty mask ext bs, a)) :
    execute h c d p v s = (.over, sendResp h c p ty mask ext bs (markDone h c d p a)) := by simp [execute, he]

theorem execute_denied {k : Nat} (he : execRx h c p v s = (.denied k, a)) (ht : p.ptype ≠ 0x30) : execute h c d p v s =
    (.over, markRefused h c d p k (sendAck h c p.psn 0x10 k (violation h c p k a))) := by simp only [execute, he, if_neg ht]

theorem execute_bad (he : execRx h c p v s = (.bad, a)) : execute h c d p v s = (.over, sendAck h c p.psn 0x12 0 a) := by
  simp [execute, he]

theorem execute_later (he : execRx h c p v s = (.later 1, a)) :
    execute h c d p v s = (.over, sendAck h c p.psn 1 0 a) := by simp [execute, he]

theorem execute_wait {n : Need} (he : execRx h c p v s = (.wait n, a)) : execute h c d p v s = (.wait n, a) := by
  simp [execute, he]

theorem execute_drop (he : execRx h c p v s = (.drop, a)) : execute h c d p v s = (.over, a) := by simp [execute, he]

end

/-! ### WRITE_IMM (R203, R400) -/

variable {z : Chan} (hz : z = chanOf s h c)
include hz

theorem execWriteImmRx_full (hfull : cqFull s h z.cq = true) : execWriteImmRx h c p s = (.later 1, s) := by
  subst hz
  exact if_pos hfull

section
variable (hroom : cqFull s h z.cq = false)
include hroom

theorem execWriteImmRx_checkFails (hck : checkOk z p = false) : execWriteImmRx h c p s = (.drop, cvuFail h 3 p s) := by
  subst hz
  simp [execWriteImmRx, hroom, hck]

theorem execWriteImmRx_done (hck : checkOk z p = true) : execWriteImmRx h c p s =
    (.done, pushNotice h z.cq ([Packet.extW p 0 2, w32 p.src.toNat,
        w32 (Maps.get 0 z.sums (BitVec.ofNat 24 (msnOf p)).toNat), w32 c, 0, 0] ++ compTail 0xFFFFF 0x11 2 0 (flLate
        ((deliverAsd h p (cvuGood h z s)).2 || z.late.contains (BitVec.ofNat 24 (msnOf p))) ||| 64)) (deliverAsd h p
        (cvuGood h z s)).1) := by
  subst hz
  simp only [execWriteImmRx, hroom, hck, Bool.not_true, Bool.false_eq_true, if_false]

end

/-! ### READ_REQ (R253, R257) -/

omit hz in
theorem execReadRx_bad (hb : 4096 < Packet.extF p 0 1 16 13 ∨
    (Packet.extF p 0 1 16 13 ≠ 0 ∧ 4096 < violAddr p % 4096 + Packet.extF p 0 1 16 13)) :
    execReadRx h c p v s = (.bad, s) := if_pos hb

section
variable (hlen : Packet.extF p 0 1 16 13 ≤ 4096)
  (hpage : Packet.extF p 0 1 16 13 = 0 ∨ violAddr p % 4096 + Packet.extF p 0 1 16 13 ≤ 4096) (hck : checkOk z p = true)
include hlen hpage hck

theorem execReadRx_ok {bs : List Byte} {a : State} (hread : readRegion h (Packet.extW p 0 2) (violAddr p)
    (Packet.extF p 0 1 16 13) .remoteRead (chanWho z) v s = (.ok bs, a)) :
    execReadRx h c p v s = (.resp 4 exAck [] bs, cvuGood h z a) := by
  subst hz
  have allowed : ¬ (4096 < Packet.extF p 0 1 16 13 ∨
      (Packet.extF p 0 1 16 13 ≠ 0 ∧ 4096 < violAddr p % 4096 + Packet.extF p 0 1 16 13)) := by omega
  simp only [execReadRx, if_neg allowed, hck, Bool.not_true, Bool.false_eq_true, if_false, hread]

/-- A READ_REQ whose read gives no data ends as the read does. -/
theorem execReadRx_ends {o : Acc (List Byte)} {a : State} (hread : readRegion h (Packet.extW p 0 2) (violAddr p)
    (Packet.extF p 0 1 16 13) .remoteRead (chanWho z) v s = (o, a)) (ho : ∀ bs, o ≠ .ok bs) :
    execReadRx h c p v s = (rxOf o, a) := by
  subst hz
  have allowed : ¬ (4096 < Packet.extF p 0 1 16 13 ∨
      (Packet.extF p 0 1 16 13 ≠ 0 ∧ 4096 < violAddr p % 4096 + Packet.extF p 0 1 16 13)) := by omega
  simp only [execReadRx, if_neg allowed, hck, Bool.not_true, Bool.false_eq_true, if_false, hread]

end

/-! ### ATOMIC_REQ (R253, R257) -/

variable {size : Nat} (hsize : size = (if Packet.extF p 1 1 20 1 = 1 then 8 else 4))
include hsize

omit hz in
theorem execAtomicRx_bad (hb : Packet.extF p 1 1 16 4 = 0 ∨ 10 < Packet.extF p 1 1 16 4 ∨ violAddr p % size ≠ 0) :
    execAtomicRx h c p v s = (.bad, s) := by
  subst hsize
  exact if_pos hb

/-- An ATOMIC_REQ answers with the original value, the bytes `bs`, and keeps it; `b` is what its store leaves. -/
def atomicDone (h c : Nat) (p : Packet) (bs : List Byte) (b : State) : Rx × State :=
  (.resp 6 (exAck ||| exAtomic) (atomicRespExt p (BitVec.ofNat 64 (leNat bs))) [],
    updChan h c (fun x => { x with atomics := keepAtomic (x.expect + 2048) p.psn (BitVec.ofNat 64 (leNat bs)) x.atomics })
      (deliverAsd h p b).1)

section
variable (hop : Packet.extF p 1 1 16 4 ≠ 0) (hmax : Packet.extF p 1 1 16 4 ≤ 10) (halign : violAddr p % size = 0)
  (hck : checkOk z p = true)
include hop hmax halign hck

/-- An ATOMIC_REQ that is refused its access, or waits for it, ends as the access does. -/
theorem execAtomicRx_accessEnds {o : Acc Grant} {a : State}
    (haccess : access h (Packet.extW p 1 2) (violAddr p) size .remoteAtomic (chanWho z) v s = (o, a)) (ho : ∀ g, o ≠ .ok g) :
    execAtomicRx h c p v s = (rxOf o, a) := by
  have allowed : ¬ (Packet.extF p 1 1 16 4 = 0 ∨ 10 < Packet.extF p 1 1 16 4 ∨ violAddr p % size ≠ 0) := by omega
  subst hsize hz
  simp only [execAtomicRx, if_neg allowed, hck, Bool.not_true, Bool.false_eq_true, if_false, haccess]

section
variable {g : Grant} {a b : State}
  (haccess : access h (Packet.extW p 1 2) (violAddr p) size .remoteAtomic (chanWho z) v s = (.ok g, a))
include haccess

theorem execAtomicRx_readEnds {o : Acc (List Byte)} (hread : readGrant h g true v a = (o, b)) (ho : ∀ bs, o ≠ .ok bs) :
    execAtomicRx h c p v s = (rxOf o, b) := by
  have allowed : ¬ (Packet.extF p 1 1 16 4 = 0 ∨ 10 < Packet.extF p 1 1 16 4 ∨ violAddr p % size ≠ 0) := by omega
  subst hsize hz
  simp only [execAtomicRx, if_neg allowed, hck, Bool.not_true, Bool.false_eq_true, if_false, haccess, hread]

variable {bs : List Byte} (hread : readGrant h g true v a = (.ok bs, b))
include hread

theorem execAtomicRx_stores {n : Nat} (hnew : atomicNew (Packet.extF p 1 1 16 4) size (leNat bs)
    ((Packet.extW p 1 4).toNat + 2 ^ 32 * (Packet.extW p 1 5).toNat)
    ((Packet.extW p 1 6).toNat + 2 ^ 32 * (Packet.extW p 1 7).toNat) = some n) : execAtomicRx h c p v s =
    atomicDone h c p bs (writeGrant h g true (leBytes size n) (stopWait h (.chan c p.psn) (cvuGood h z b))) := by
  have allowed : ¬ (Packet.extF p 1 1 16 4 = 0 ∨ 10 < Packet.extF p 1 1 16 4 ∨ violAddr p % size ≠ 0) := by omega
  subst hsize hz
  simp only [execAtomicRx, if_neg allowed, hck, Bool.not_true, Bool.false_eq_true, if_false, haccess, hread, hnew, atomicDone]

theorem execAtomicRx_keeps (hnew : atomicNew (Packet.extF p 1 1 16 4) size (leNat bs)
    ((Packet.extW p 1 4).toNat + 2 ^ 32 * (Packet.extW p 1 5).toNat)
    ((Packet.extW p 1 6).toNat + 2 ^ 32 * (Packet.extW p 1 7).toNat) = none) :
    execAtomicRx h c p v s = atomicDone h c p bs (cvuGood h z b) := by
  have allowed : ¬ (Packet.extF p 1 1 16 4 = 0 ∨ 10 < Packet.extF p 1 1 16 4 ∨ violAddr p % size ≠ 0) := by omega
  subst hsize hz
  simp only [execAtomicRx, if_neg allowed, hck, Bool.not_true, Bool.false_eq_true, if_false, haccess, hread, hnew, atomicDone]

end

end

end

/-! ### Repeated packets by type (R255, R257) -/

section
variable {h c : Nat} {p : Packet} {v : View} {x : Chan} {w : State}

theorem answer_readAgain {ty mask : Byte} {ext : List Word} {bs : List Byte} {y : State} (ht : p.ptype = 3)
    (hold : x.olds.contains p.psn = false) (hread : execReadRx h c p v w = (.resp ty mask ext bs, y)) :
    duplicate.answer h c p v x w = (.over, sendResp h c p ty mask ext bs y) := by
  simp only [duplicate.answer, hold, Bool.false_eq_true, if_false, if_pos ht, hread]

section
variable (ht : p.ptype = 5) (hold : x.olds.contains p.psn = false)
include ht hold

theorem answer_kept {a : Word × BitVec 64} (hfind : x.atomics.find? (fun a => a.1 == p.psn) = some a) :
    duplicate.answer h c p v x w = (.over, sendResp h c p 6 (exAck ||| exAtomic) (atomicRespExt p a.2) [] w) := by
  have notRead : p.ptype ≠ 3 := by simp [ht]
  simp only [duplicate.answer, hold, Bool.false_eq_true, if_false, if_neg notRead, if_pos ht, hfind]

theorem answer_forgotten (hfind : x.atomics.find? (fun a => a.1 == p.psn) = none) :
    duplicate.answer h c p v x w = (.over, inc (trnCtr h 20) w) := by
  have notRead : p.ptype ≠ 3 := by simp [ht]
  simp only [duplicate.answer, hold, Bool.false_eq_true, if_false, if_neg notRead, if_pos ht, hfind]

end

end

/-! ### CTX_FETCH_DONE and ACK_DELAY_TIMER (R251, R260) -/

section
variable {h c : Nat} {m : HostView} {s : State}

section
variable (hb : boleOk s (boleOf h) = true) (hf : (chanOf s h c).fetching = true) (hn : dmaHeld s h (.chan c) = false)
include hb hf hn

theorem effCtxFetchDone_lands {u w : State} (hu : u = setChan h c { chanOf s h c with fetching := false, landed := true } s)
    (hw : takeCore h c (updChan h c (fun x => { x with landed := false }) u) = (w, true)) :
    effCtxFetchDone h c true m s = sendDue h c (viewOf m s) (rerunAll h c (viewOf m s) w) := by
  subst hu
  simp [effCtxFetchDone, hb, hf, hn, landCtx, hw]

theorem effCtxFetchDone_failed : effCtxFetchDone h c false m s =
    trnCause h 4 (Machine.count (trnCtr h 13) (chanOf s h c).parked.length
      (setChan h c { chanOf s h c with fetching := false, parked := [] } (dmaErr h s))) := by
  simp [effCtxFetchDone, hb, hf, hn]

end

theorem effCtxFetchDone_idle {ok : Bool}
    (hn : boleOk s (boleOf h) = false ∨ (chanOf s h c).fetching = false ∨ dmaHeld s h (.chan c) = true) :
    effCtxFetchDone h c ok m s = s := by
  rcases hn with hn | hn | hn <;> simp [effCtxFetchDone, hn]

theorem effAckDelayTimer_owed (hup : hostUp s h = true) (hst : (chanOf s h c).st ≠ .absent)
    (ht : (chanOf s h c).ackTimer = true) : effAckDelayTimer h c s = sendAck h c (chanOf s h c).expect 0 0 s := by
  simp [effAckDelayTimer, hup, hst, ht]

theorem effAckDelayTimer_idle
    (hn : hostUp s h = false ∨ (chanOf s h c).st = .absent ∨ (chanOf s h c).ackTimer = false) :
    effAckDelayTimer h c s = s := by
  rcases hn with hn | hn | hn <;> simp [effAckDelayTimer, hn]

end

/-- Settles O37: the three rows share the tests of `request`; a packet that they let through executes by its type. -/
theorem arrivalOfRequests : Obligations.ArrivalOfRequests := by
  unfold Obligations.ArrivalOfRequests
  refine ⟨?immDone, ?immFull, ?immCheck, ?readOk, ?readFails, ?readWaits, ?readErr, ?atomicWaits, ?readBad, ?atomicStores,
    ?atomicKeeps, ?atomicFails, ?atomicBad, ?atomicForgotten, ?atomicKept, ?readAgain,
    ?immDropped, ?immUncached, ?immOtherInc, ?immOtherSource, ?immInError, ?immBeyond, ?immBusy, ?immHeldBack, ?immNotAlive,
    ?immRefused, ?immOldRefused, ?immAgain,
    ?readDropped, ?readUncached, ?readOtherInc, ?readOtherSource, ?readInError, ?readBeyond, ?readBusy, ?readHeldBack,
    ?readNotAlive, ?readRefused, ?readOldRefused,
    ?atomicDropped, ?atomicUncached, ?atomicOtherInc, ?atomicOtherSource, ?atomicInError, ?atomicBeyond, ?atomicBusy,
    ?atomicHeldBack, ?atomicNotAlive, ?atomicRefused, ?atomicOldRefused,
    ?fetchLands, ?fetchFails, ?fetchIdle, ?ackOwed, ?ackIdle⟩
  case immDropped | readDropped | atomicDropped =>
    exact fun _ _ _ _ _ _ ha ht => clocked_runs fun _ => (request_dropped ha).trans ht.symm
  case immUncached | readUncached | atomicUncached =>
    exact fun _ _ _ _ _ _ _ ha hc hn ht => clocked_runs fun _ => (request_uncached ha hc hn).trans ht.symm
  case immOtherInc | readOtherInc | atomicOtherInc =>
    intro h p m r u w c x v s t h1 h2 h3 h4 h5 h6 h7 hinc ht
    exact clocked_runs fun _ => (request_otherIncarnation ⟨h1, h2, h3, h4, h5, h6, h7⟩ hinc).trans ht.symm
  case immOtherSource | readOtherSource | atomicOtherSource =>
    intro h p m r u w c x v s t h1 h2 h3 h4 h5 h6 h7 hinc hsrc ht
    exact clocked_runs fun _ => (request_otherSource ⟨h1, h2, h3, h4, h5, h6, h7⟩ hinc hsrc).trans ht.symm
  case immInError | readInError | atomicInError =>
    intro h p m r u w c x v s t h1 h2 h3 h4 h5 h6 h7 hinc hsrc hrel he ht
    exact clocked_runs fun _ => (request_inError ⟨h1, h2, h3, h4, h5, h6, h7⟩ ⟨hinc, hsrc, hrel⟩ he).trans ht.symm
  case immBeyond | readBeyond | atomicBeyond =>
    intro h p m r u w c x v s t h1 h2 h3 h4 h5 h6 h7 hinc hsrc hrel hok hfar hahead ht
    exact clocked_runs fun _ =>
      (request_beyond ⟨h1, h2, h3, h4, h5, h6, h7⟩ ⟨hinc, hsrc, hrel⟩ hok hfar hahead).trans ht.symm
  case immBusy | readBusy | atomicBusy =>
    intro h p m r u w c x v d s t h1 h2 h3 h4 h5 h6 h7 hinc hsrc hrel hok hd hnear hex hbusy ht
    exact clocked_runs fun _ =>
      (request_busy ⟨h1, h2, h3, h4, h5, h6, h7⟩ ⟨hinc, hsrc, hrel⟩ hok ⟨hd, hnear, hex⟩ hbusy).trans ht.symm
  case immHeldBack | readHeldBack | atomicHeldBack =>
    intro h p m r u w c x v d s t h1 h2 h3 h4 h5 h6 h7 hinc hsrc hrel hok hd hnear hex hidle hheld ht
    exact clocked_runs fun _ =>
      (request_heldBack ⟨h1, h2, h3, h4, h5, h6, h7⟩ ⟨hinc, hsrc, hrel⟩ hok ⟨hd, hnear, hex⟩ hidle hheld).trans ht.symm
  case immNotAlive | readNotAlive | atomicNotAlive =>
    intro h p m r u w c x v d y s t h1 h2 h3 h4 h5 h6 h7 hinc hsrc hrel hok hd hnear hex hidle hheld hslots hal ht
    exact clocked_runs fun _ => (request_notAlive ⟨h1, h2, h3, h4, h5, h6, h7⟩ ⟨hinc, hsrc, hrel⟩ hok
      ⟨⟨hd, hnear, hex⟩, hidle, hheld, hslots⟩ hal).trans ht.symm
  case immRefused | readRefused | atomicRefused =>
    intro h p m r u w c x v k s t h1 h2 h3 h4 h5 h6 h7 hinc hsrc hrel hok hd hr ht
    exact clocked_runs fun _ =>
      (request_refused ⟨h1, h2, h3, h4, h5, h6, h7⟩ ⟨hinc, hsrc, hrel⟩ hok hd hr).trans ht.symm
  case immOldRefused | readOldRefused | atomicOldRefused =>
    intro h p m r u w c x v s t h1 h2 h3 h4 h5 h6 h7 hinc hsrc hrel hok hd hr hold ht
    exact clocked_runs fun _ =>
      (request_oldRefused ⟨h1, h2, h3, h4, h5, h6, h7⟩ ⟨hinc, hsrc, hrel⟩ hok hd hr hold).trans ht.symm
  case immDone =>
    intro h p m r u w c x v d y z s t h1 h2 h3 h4 h5 h6 h7 hinc hsrc hrel hok hd hnear hex hidle hheld hslots hal hz
      hroom hck ht
    have ha : Accepted h 2 p m s r u w c x v := ⟨h1, h2, h3, h4, h5, h6, h7⟩
    have runs : execute h c d p v y = _ := execute_done ((execRx_writeImm ha.type).trans (execWriteImmRx_done hz hroom hck))
    exact clocked_runs fun _ =>
      (request_ends ha ⟨hinc, hsrc, hrel⟩ hok ⟨⟨hd, hnear, hex⟩, hidle, hheld, hslots⟩ hal runs).trans ht.symm
  case immFull =>
    intro h p m r u w c x v d y z s t h1 h2 h3 h4 h5 h6 h7 hinc hsrc hrel hok hd hnear hex hidle hheld hslots hal hz
      hfull ht
    have ha : Accepted h 2 p m s r u w c x v := ⟨h1, h2, h3, h4, h5, h6, h7⟩
    have runs : execute h c d p v y = _ := execute_later ((execRx_writeImm ha.type).trans (execWriteImmRx_full hz hfull))
    exact clocked_runs fun _ =>
      (request_ends ha ⟨hinc, hsrc, hrel⟩ hok ⟨⟨hd, hnear, hex⟩, hidle, hheld, hslots⟩ hal runs).trans ht.symm
  case immCheck =>
    intro h p m r u w c x v d y z s t h1 h2 h3 h4 h5 h6 h7 hinc hsrc hrel hok hd hnear hex hidle hheld hslots hal hz
      hroom hck ht
    have ha : Accepted h 2 p m s r u w c x v := ⟨h1, h2, h3, h4, h5, h6, h7⟩
    have runs : execute h c d p v y = _ :=
      execute_drop ((execRx_writeImm ha.type).trans (execWriteImmRx_checkFails hz hroom hck))
    exact clocked_runs fun _ =>
      (request_ends ha ⟨hinc, hsrc, hrel⟩ hok ⟨⟨hd, hnear, hex⟩, hidle, hheld, hslots⟩ hal runs).trans ht.symm
  case readOk =>
    intro h p m r u w c x v d y z bs a s t h1 h2 h3 h4 h5 h6 h7 hinc hsrc hrel hok hd hnear hex hidle hheld hslots hal hz
      hlen hpage hck hread ht
    have ha : Accepted h 3 p m s r u w c x v := ⟨h1, h2, h3, h4, h5, h6, h7⟩
    have runs : execute h c d p v y = _ := execute_resp ((execRx_read ha.type).trans (execReadRx_ok hz hlen hpage hck hread))
    exact clocked_runs fun _ =>
      (request_ends ha ⟨hinc, hsrc, hrel⟩ hok ⟨⟨hd, hnear, hex⟩, hidle, hheld, hslots⟩ hal runs).trans ht.symm
  case readFails =>
    intro h p m r u w c x v d y z k a s t h1 h2 h3 h4 h5 h6 h7 hinc hsrc hrel hok hd hnear hex hidle hheld hslots hal hz
      hlen hpage hck hread ht
    have ha : Accepted h 3 p m s r u w c x v := ⟨h1, h2, h3, h4, h5, h6, h7⟩
    have runs : execute h c d p v y = _ :=
      execute_denied ((execRx_read ha.type).trans (execReadRx_ends hz hlen hpage hck hread (by simp))) (by simp [ha.type])
    exact clocked_runs fun _ =>
      (request_ends ha ⟨hinc, hsrc, hrel⟩ hok ⟨⟨hd, hnear, hex⟩, hidle, hheld, hslots⟩ hal runs).trans ht.symm
  case readWaits =>
    intro h p m r u w c x v d y z n a s t h1 h2 h3 h4 h5 h6 h7 hinc hsrc hrel hok hd hnear hex hidle hheld hslots hal hz
      hlen hpage hck hread ht
    have ha : Accepted h 3 p m s r u w c x v := ⟨h1, h2, h3, h4, h5, h6, h7⟩
    have runs : execute h c d p v y = _ :=
      execute_wait ((execRx_read ha.type).trans (execReadRx_ends hz hlen hpage hck hread (by simp)))
    exact clocked_runs fun _ =>
      (request_ends ha ⟨hinc, hsrc, hrel⟩ hok ⟨⟨hd, hnear, hex⟩, hidle, hheld, hslots⟩ hal runs).trans ht.symm
  case readErr =>
    intro h p m r u w c x v d y z a s t h1 h2 h3 h4 h5 h6 h7 hinc hsrc hrel hok hd hnear hex hidle hheld hslots hal hz
      hlen hpage hck hread ht
    have ha : Accepted h 3 p m s r u w c x v := ⟨h1, h2, h3, h4, h5, h6, h7⟩
    have runs : execute h c d p v y = _ :=
      execute_drop ((execRx_read ha.type).trans (execReadRx_ends hz hlen hpage hck hread (by simp)))
    exact clocked_runs fun _ =>
      (request_ends ha ⟨hinc, hsrc, hrel⟩ hok ⟨⟨hd, hnear, hex⟩, hidle, hheld, hslots⟩ hal runs).trans ht.symm
  case readBad =>
    intro h p m r u w c x v d y z s t h1 h2 h3 h4 h5 h6 h7 hinc hsrc hrel hok hd hnear hex hidle hheld hslots hal hz
      hb ht
    have ha : Accepted h 3 p m s r u w c x v := ⟨h1, h2, h3, h4, h5, h6, h7⟩
    have runs : execute h c d p v y = _ := execute_bad ((execRx_read ha.type).trans (execReadRx_bad hb))
    exact clocked_runs fun _ =>
      (request_ends ha ⟨hinc, hsrc, hrel⟩ hok ⟨⟨hd, hnear, hex⟩, hidle, hheld, hslots⟩ hal runs).trans ht.symm
  case atomicWaits =>
    intro h p m r u w c x v d y z n g size a b s t h1 h2 h3 h4 h5 h6 h7 hinc hsrc hrel hok hd hnear hex hidle hheld hslots hal hz
      hsize hop hmax halign hck haccess hread ht
    have ha : Accepted h 5 p m s r u w c x v := ⟨h1, h2, h3, h4, h5, h6, h7⟩
    have runs : execute h c d p v y = _ :=
      execute_wait ((execRx_atomic ha.type).trans
        (execAtomicRx_readEnds hz hsize hop hmax halign hck haccess hread (by simp)))
    exact clocked_runs fun _ =>
      (request_ends ha ⟨hinc, hsrc, hrel⟩ hok ⟨⟨hd, hnear, hex⟩, hidle, hheld, hslots⟩ hal runs).trans ht.symm
  case atomicStores =>
    intro h p m r u w c x v d y z g bs size n a b s t h1 h2 h3 h4 h5 h6 h7 hinc hsrc hrel hok hd hnear hex hidle hheld hslots hal hz
      hsize hop hmax halign hck haccess hread hnew ht
    have ha : Accepted h 5 p m s r u w c x v := ⟨h1, h2, h3, h4, h5, h6, h7⟩
    have runs : execute h c d p v y = _ :=
      execute_resp ((execRx_atomic ha.type).trans (execAtomicRx_stores hz hsize hop hmax halign hck haccess hread hnew))
    exact clocked_runs fun _ =>
      (request_ends ha ⟨hinc, hsrc, hrel⟩ hok ⟨⟨hd, hnear, hex⟩, hidle, hheld, hslots⟩ hal runs).trans ht.symm
  case atomicKeeps =>
    intro h p m r u w c x v d y z g bs size a b s t h1 h2 h3 h4 h5 h6 h7 hinc hsrc hrel hok hd hnear hex hidle hheld hslots hal hz
      hsize hop hmax halign hck haccess hread hnew ht
    have ha : Accepted h 5 p m s r u w c x v := ⟨h1, h2, h3, h4, h5, h6, h7⟩
    have runs : execute h c d p v y = _ :=
      execute_resp ((execRx_atomic ha.type).trans (execAtomicRx_keeps hz hsize hop hmax halign hck haccess hread hnew))
    exact clocked_runs fun _ =>
      (request_ends ha ⟨hinc, hsrc, hrel⟩ hok ⟨⟨hd, hnear, hex⟩, hidle, hheld, hslots⟩ hal runs).trans ht.symm
  case atomicFails =>
    intro h p m r u w c x v d y z size k a s t h1 h2 h3 h4 h5 h6 h7 hinc hsrc hrel hok hd hnear hex hidle hheld hslots hal hz
      hsize hop hmax halign hck haccess ht
    have ha : Accepted h 5 p m s r u w c x v := ⟨h1, h2, h3, h4, h5, h6, h7⟩
    have runs : execute h c d p v y = _ :=
      execute_denied ((execRx_atomic ha.type).trans
        (execAtomicRx_accessEnds hz hsize hop hmax halign hck haccess (by simp))) (by simp [ha.type])
    exact clocked_runs fun _ =>
      (request_ends ha ⟨hinc, hsrc, hrel⟩ hok ⟨⟨hd, hnear, hex⟩, hidle, hheld, hslots⟩ hal runs).trans ht.symm
  case atomicBad =>
    intro h p m r u w c x v d y z size s t h1 h2 h3 h4 h5 h6 h7 hinc hsrc hrel hok hd hnear hex hidle hheld hslots hal hz
      hsize hb ht
    have ha : Accepted h 5 p m s r u w c x v := ⟨h1, h2, h3, h4, h5, h6, h7⟩
    have runs : execute h c d p v y = _ := execute_bad ((execRx_atomic ha.type).trans (execAtomicRx_bad hsize hb))
    exact clocked_runs fun _ =>
      (request_ends ha ⟨hinc, hsrc, hrel⟩ hok ⟨⟨hd, hnear, hex⟩, hidle, hheld, hslots⟩ hal runs).trans ht.symm
  case atomicForgotten =>
    intro h p m r u w c x v s t h1 h2 h3 h4 h5 h6 h7 hinc hsrc hrel hok hd hr hold hfind ht
    have ha : Accepted h 5 p m s r u w c x v := ⟨h1, h2, h3, h4, h5, h6, h7⟩
    have answers : duplicate.answer h c p v x (inc (trnCtr h 6) w) = _ := answer_forgotten ha.type hold hfind
    exact clocked_runs fun _ =>
      (request_answered ha ⟨hinc, hsrc, hrel⟩ hok hd hr).trans ((congrArg _ answers).trans ht.symm)
  case atomicKept =>
    intro h p m r u w c x v a s t h1 h2 h3 h4 h5 h6 h7 hinc hsrc hrel hok hd hr hold hfind ht
    have ha : Accepted h 5 p m s r u w c x v := ⟨h1, h2, h3, h4, h5, h6, h7⟩
    have answers : duplicate.answer h c p v x (inc (trnCtr h 6) w) = _ := answer_kept ha.type hold hfind
    exact clocked_runs fun _ =>
      (request_answered ha ⟨hinc, hsrc, hrel⟩ hok hd hr).trans ((congrArg _ answers).trans ht.symm)
  case readAgain =>
    intro h p m r u w c x v ty mask ext bs y s t h1 h2 h3 h4 h5 h6 h7 hinc hsrc hrel hok hd hr hold hread ht
    have ha : Accepted h 3 p m s r u w c x v := ⟨h1, h2, h3, h4, h5, h6, h7⟩
    have answers : duplicate.answer h c p v x (inc (trnCtr h 6) w) = _ := answer_readAgain ha.type hold hread
    exact clocked_runs fun _ =>
      (request_answered ha ⟨hinc, hsrc, hrel⟩ hok hd hr).trans ((congrArg _ answers).trans ht.symm)
  case immAgain =>
    intro h p m r u w c x v s t h1 h2 h3 h4 h5 h6 h7 hinc hsrc hrel hok hd hr ht
    have ha : Accepted h 2 p m s r u w c x v := ⟨h1, h2, h3, h4, h5, h6, h7⟩
    have answers : duplicate.answer h c p v x (inc (trnCtr h 6) w) = _ := answer_acked (by simp [ha.type]) (by simp [ha.type])
    exact clocked_runs fun _ =>
      (request_answered ha ⟨hinc, hsrc, hrel⟩ hok hd hr).trans ((congrArg _ answers).trans ht.symm)
  case fetchLands =>
    exact fun _ _ _ _ _ _ _ hb hf hn hu hw ht => clocked_runs fun _ => (effCtxFetchDone_lands hb hf hn hu hw).trans ht.symm
  case fetchFails =>
    exact fun _ _ _ _ _ hb hf hn ht => clocked_runs fun _ => (effCtxFetchDone_failed hb hf hn).trans ht.symm
  case fetchIdle =>
    exact fun _ _ _ _ _ _ hn ht => clocked_runs fun _ => (effCtxFetchDone_idle hn).trans ht.symm
  case ackOwed =>
    exact fun _ _ _ _ hup hst htimer ht => clocked_runs fun _ => (effAckDelayTimer_owed hup hst htimer).trans ht.symm
  case ackIdle =>
    exact fun _ _ _ _ hn ht => clocked_runs fun _ => (effAckDelayTimer_idle hn).trans ht.symm

end Sys2Proof.Proofs
end

section
/-! PROOFS. Invalidations between the Boles, compare-and-swaps and page requests (O34: R224, R230 to R237). -/

namespace Sys2Proof.Proofs
open Sys2Proof.Machine Sys2Proof.Laws

/-! ### The end of an invalidation (R231) -/

/-- A client stands behind an invalidation. -/
def atTurn (id : Nat) : Need → Bool
  | .turn k _ => k == id
  | _ => false

/-- The clients of a host port that stand behind an invalidation are counted, and go on. -/
def turnsGoOn (h id : Nat) (s : State) : State :=
  rerunNeeds h (atTurn id) (viewOf {} s)
    (if ((hport s h).waits.filter (fun w => atTurn id w.need)).length = 0 then s
      else count (xltCtr h 8) ((hport s h).waits.filter (fun w => atTurn id w.need)).length s)

/-- Where none stands there, nothing is counted. -/
theorem turnsGoOn_eq (h id : Nat) (s : State) : turnsGoOn h id s = rerunNeeds h (atTurn id) (viewOf {} s)
    (if (hport s h).waits.filter (fun w => atTurn id w.need) = [] then s
      else count (xltCtr h 8) ((hport s h).waits.filter (fun w => atTurn id w.need)).length s) :=
  congrArg _ (if_congr List.length_eq_zero_iff rfl rfl)

section
variable {b id : Nat} {i : Inval} {s : State}

theorem effInvalidationDone_ready {f u : State} (hi : (xl s b).invals.find? (fun i => i.id == id) = some i)
    (hr : invReady s b i = true) (hf : f = invFinish b i s) (hu : u = turnsGoOn (2 * b) id f) :
    effInvalidationDone b id s = turnsGoOn (2 * b + 1) id u := by
  have both : effInvalidationDone b id s = [2 * b, 2 * b + 1].foldl (fun s h => turnsGoOn h id s) (invFinish b i s) := by
    simp only [effInvalidationDone, hi, hr, Bool.not_true, Bool.false_eq_true, if_false]
    rfl
  rw [both, hu, hf, List.foldl_cons, List.foldl_cons, List.foldl_nil]

theorem effInvalidationDone_notReady (hi : (xl s b).invals.find? (fun i => i.id == id) = some i)
    (hr : invReady s b i = false) : effInvalidationDone b id s = s := by
  simp only [effInvalidationDone, hi, hr, Bool.not_false, if_true]

theorem effInvalidationDone_unknown (hi : (xl s b).invals.find? (fun i => i.id == id) = none) :
    effInvalidationDone b id s = s := by
  simp only [effInvalidationDone, hi]

end

/-! ### The tests of XINV and XINV_ACK (R92, R161, R233, R379) -/

/-- The N port by which a Bole sends and receives for the other one is a port of that Bole. -/
theorem boleOf_nPort (s : State) (b : Nat) : boleOf ((nPort s (2 * b)).getD (2 * b)) = b := by
  have own : boleOf (2 * b) = b := by unfold boleOf; omega
  cases hn : nPort s (2 * b) with
  | none => exact own
  | some n =>
    have mem := List.mem_of_find?_eq_some hn
    simp only [own, List.mem_cons, List.not_mem_nil, or_false] at mem
    simp only [boleOf, Option.getD_some]
    omega

/-- A whole packet that a Bole receives at its N port `n`. -/
structure XinvWhole (b n : Nat) (p : Packet) (s : State) : Prop where
  serves : boleOk s b = true
  port : n = (nPort s (2 * b)).getD (2 * b)
  length : lenOk p = true
  crc : e2eGood p = true

/-- One that passes the tests of XINV and XINV_ACK. -/
structure XinvTaken (b n : Nat) (p : Packet) (s : State) : Prop extends XinvWhole b n p s where
  agrees : asdMismatch p = false
  plain : p.extMask = 0

section
variable {b n : Nat} {p : Packet} {s : State}

theorem XinvWhole.e2eTest (hp : XinvWhole b n p s) (u : State) : Machine.e2eTest n p u = (u, true) := by
  simp [Machine.e2eTest, hp.length, hp.crc]

theorem XinvWhole.xinvTest_mismatch (hp : XinvWhole b n p s) (hm : asdMismatch p = true) :
    xinvTest b p s = (hdrBad b (asdHostCause n 5 (inc (asdHostCtr n 10) (freeInternal (xN n) p s))), false) := by
  have hb : boleOf n = b := hp.port ▸ boleOf_nPort s b
  simp [xinvTest, ← hp.port, hp.e2eTest, hm, asdReject, hb]

theorem XinvTaken.xinvTest (hp : XinvTaken b n p s) : Machine.xinvTest b p s = (freeInternal (xN n) p s, true) := by
  simp [Machine.xinvTest, ← hp.port, hp.e2eTest, hp.agrees, hp.plain]

theorem effXinv_mismatch (hp : XinvWhole b n p s) (hm : asdMismatch p = true) :
    effXinv b p s = hdrBad b (asdHostCause n 5 (inc (asdHostCtr n 10) (freeInternal (xN n) p s))) := by
  simp [effXinv, hp.serves, hp.xinvTest_mismatch hm]

theorem effXinvAck_mismatch (hp : XinvWhole b n p s) (hm : asdMismatch p = true) :
    effXinvAck b p s = hdrBad b (asdHostCause n 5 (inc (asdHostCtr n 10) (freeInternal (xN n) p s))) := by
  simp [effXinvAck, hp.serves, hp.xinvTest_mismatch hm]

/-! ### XINV, XINV_ACK and XINV_RESEND (R232, R233) -/

/-- The XSEQ of an XINV or XINV_ACK. -/
def xinvSeq (p : Packet) : BitVec 16 := BitVec.ofNat 16 (fAt (bWords 8 p.payload) 0 0 16)

/-- The invalidation that an XINV asks its receiver for, under a number of the receiver's. -/
def xinvInval (id : Nat) (p : Packet) : Inval :=
  let ws := bWords 8 p.payload
  { id := id, scope := fAt ws 0 16 2, home := fAt ws 0 18 2, ctx := fAt ws 0 20 12, port := fAt ws 1 8 2,
    fn := fAt ws 1 0 8, start := u64 ws 2, len := u64 ws 4, xseq := some (xinvSeq p), answer := true }

/-- What a Bole does with an XINV that passes the tests. -/
theorem effXinv_taken (hp : XinvTaken b n p s) {u : State} (hu : u = freeInternal (xN n) p s) : effXinv b p s =
    if fAt (bWords 8 p.payload) 0 16 2 = 0 then hdrBad b u
    else if (xl u b).finished.contains (xinvSeq p) then sendXinv (2 * b) 9 p.payload u
    else if (xl u b).invals.any (fun y => y.answer && y.xseq == some (xinvSeq p)) then u
    else invNext b (updXl b (fun x => { x with
      invals := x.invals ++ [xinvInval x.nextId p], nextId := x.nextId + 1 }) u) := by
  subst hu
  simp only [effXinv, hp.serves, hp.xinvTest, Bool.not_true, Bool.false_eq_true, if_false]
  rfl

theorem effXinvAck_waited (hp : XinvTaken b n p s) {i : Inval}
    (hi : invOut (freeInternal (xN n) p s) b (xinvSeq p) = some i) :
    effXinvAck b p s = invAcked b i (freeInternal (xN n) p s) := by
  rw [xinvSeq] at hi
  simp only [effXinvAck, hp.serves, hp.xinvTest, hi, Bool.not_true, Bool.false_eq_true, if_false]

theorem effXinvAck_stray (hp : XinvTaken b n p s) (hi : invOut (freeInternal (xN n) p s) b (xinvSeq p) = none) :
    effXinvAck b p s = freeInternal (xN n) p s := by
  rw [xinvSeq] at hi
  simp only [effXinvAck, hp.serves, hp.xinvTest, hi, Bool.not_true, Bool.false_eq_true, if_false]

theorem effXinvResend_unacknowledged {q : BitVec 16} {i : Inval} (hb : boleOk s b = true) (hi : invOut s b q = some i) :
    effXinvResend b q s =
      if xinvReach s (1 - b) then sendXinv i.port 8 (xinvPayload i q) s else invAcked b i s := by
  simp only [effXinvResend, hb, hi, Bool.not_true, Bool.false_eq_true, if_false]

theorem effXinvResend_idle {q : BitVec 16} (hn : boleOk s b = false ∨ invOut s b q = none) : effXinvResend b q s = s := by
  rcases hn with hb | hi
  · simp [effXinvResend, hb]
  · simp [effXinvResend, hi]

end

/-! ### Compare-and-swaps (R224, R225) -/

/-- A client waits for the compare-and-swap of a leaf. -/
def atCas (addr : Nat) : Need → Bool
  | .cas a _ => a == addr
  | _ => false

/-- A compare-and-swap is no longer outstanding. -/
def casReturned (h addr : Nat) (s : State) : State :=
  updXl (boleOf h) (fun x => { x with cas := x.cas.filter (fun y => !(y.addr == addr && y.ctx / 2 ^ 14 == h)) }) s

/-- How often the compare-and-swap of a leaf has failed. -/
def casFails (h addr : Nat) (s : State) : Nat := Maps.get 0 (xl s (boleOf h)).fails (addr * 4 + h)

def setCasFails (h addr n : Nat) (s : State) : State :=
  updXl (boleOf h) (fun x => { x with fails := Maps.put 0 x.fails (addr * 4 + h) n }) s

/-- The accesses that wait for a compare-and-swap have their answer. -/
def casAnswered (h addr : Nat) (c : CasOut) (kind : Nat) (s : State) : State :=
  updHost h (fun p => { p with
    waits := p.waits.map (fun w => if atCas addr w.need then { w with ans := (c.ctx, c.page, kind) :: w.ans } else w) }) s

/-- A compare-and-swap that has stored fills a slot: it carries one, and its context is active. -/
def casLive (s : State) (c : CasOut) : Bool :=
  c.tlb.pages != 0 && (xctxOf s (c.ctx / 2 ^ 12 % 4) (c.ctx % 2 ^ 12)).active

theorem casLive_of_active {s : State} {c : CasOut} (hp : c.tlb.pages ≠ 0)
    (ha : (xctxOf s (c.ctx / 2 ^ 12 % 4) (c.ctx % 2 ^ 12)).active = true) : casLive s c = true := by
  rw [casLive, ha, Bool.and_true]
  simpa using hp

theorem casLive_of_gone {s : State} {c : CasOut}
    (hn : c.tlb.pages = 0 ∨ (xctxOf s (c.ctx / 2 ^ 12 % 4) (c.ctx % 2 ^ 12)).active = false) : casLive s c = false := by
  rcases hn with hp | ha
  · simp [casLive, hp]
  · rw [casLive, ha, Bool.and_false]

/-- The invalidations in progress among those listed remove their slots. -/
def flushBegun (b : Nat) (l : List Inval) (s : State) : State :=
  l.foldl (fun s i => if i.begun ∧ !i.done then invFlush b i s else s) s

theorem flushBegun_of_none {b : Nat} {l : List Inval} {s : State} (hl : l.any (fun i => i.begun && !i.done) = false) :
    flushBegun b l s = s := by
  induction l with
  | nil => rfl
  | cons i l ih =>
    simp only [List.any_cons, Bool.or_eq_false_iff] at hl
    obtain ⟨hi, hl⟩ := hl
    rw [flushBegun, List.foldl_cons, if_neg (by simpa using hi)]
    exact ih hl

theorem flushBegun_singleton {b : Nat} {i : Inval} {s : State} (hb : i.begun = true) (hd : i.done = false) :
    flushBegun b [i] s = invFlush b i s := by
  simp [flushBegun, hb, hd]

/-- Neither a counter nor the slots of a leaf hold its failures. -/
theorem casFails_dropped (h addr key : Nat) (s : State) :
    casFails h addr (inc key (dropLeaf h addr s)) = casFails h addr s := by
  simp [casFails, dropLeaf]

section
variable {h addr : Nat} {m : HostView} {c : CasOut} {s u : State}

theorem effAdCasDone_unknown {ret : Option (BitVec 64)} (hn : dmaHeld s h (.cas addr) = true
      ∨ (xl s (boleOf h)).cas.find? (fun c => c.addr == addr && c.ctx / 2 ^ 14 == h) = none) :
    effAdCasDone h addr ret m s = s := by
  rcases hn with hd | hc
  · simp only [effAdCasDone, hd, if_true]
  · simp only [effAdCasDone, hc, ite_self]

variable (hheld : dmaHeld s h (.cas addr) = false)
  (hc : (xl s (boleOf h)).cas.find? (fun c => c.addr == addr && c.ctx / 2 ^ 14 == h) = some c)
  (hu : u = casReturned h addr s)
include hheld hc hu

/-- The host does not support it. -/
theorem effAdCasDone_unsupported : effAdCasDone h addr none m s =
    rerunNeeds h (atCas addr) { viewOf m u with noCas := some addr, entry := some (c, c.cmp) }
      (casAnswered h addr c 10 (setCasFails h addr 0 u)) := by
  subst hu
  simp only [effAdCasDone, hheld, hc, Bool.false_eq_true, if_false]
  rfl

/-- It has stored: what waited goes on, before the slot goes again where an invalidation in progress removes it. -/
theorem effAdCasDone_stores {v : State} (hv : v = rerunNeeds h (atCas addr) { viewOf m u with done := some addr }
      (if casLive s c then tlbFill (boleOf h) c.tlb (setCasFails h addr 0 u) else setCasFails h addr 0 u)) :
    effAdCasDone h addr (some c.cmp) m s = flushBegun (boleOf h) (xl v (boleOf h)).invals v := by
  subst hu hv
  simp only [effAdCasDone, hheld, hc, Bool.false_eq_true, if_false, if_true]
  rfl

theorem effAdCasDone_fills {v : State} (hp : c.tlb.pages ≠ 0)
    (ha : (xctxOf s (c.ctx / 2 ^ 12 % 4) (c.ctx % 2 ^ 12)).active = true)
    (hv : v = rerunNeeds h (atCas addr) { viewOf m u with done := some addr }
      (tlbFill (boleOf h) c.tlb (setCasFails h addr 0 u))) :
    effAdCasDone h addr (some c.cmp) m s = flushBegun (boleOf h) (xl v (boleOf h)).invals v :=
  effAdCasDone_stores hheld hc hu (by rw [hv, if_pos (casLive_of_active hp ha)])

theorem effAdCasDone_fillsNothing {v : State}
    (hn : c.tlb.pages = 0 ∨ (xctxOf s (c.ctx / 2 ^ 12 % 4) (c.ctx % 2 ^ 12)).active = false)
    (hv : v = rerunNeeds h (atCas addr) { viewOf m u with done := some addr } (setCasFails h addr 0 u)) :
    effAdCasDone h addr (some c.cmp) m s = flushBegun (boleOf h) (xl v (boleOf h)).invals v :=
  effAdCasDone_stores hheld hc hu (by rw [hv, if_neg (ne_true_of_eq_false (casLive_of_gone hn))])

/-- Another value stood there: the leaf leaves the caches, and either the failures are too many or it is tried again. -/
theorem effAdCasDone_differs {r : BitVec 64} (hr : r ≠ c.cmp) : effAdCasDone h addr (some r) m s =
    if 4 ≤ casFails h addr u + 1 then
      rerunNeeds h (atCas addr) { viewOf m u with fight := some addr, entry := some (c, r) }
        (casAnswered h addr c 11 (setCasFails h addr 0 (inc (xltCtr h 5) (dropLeaf h addr u))))
    else
      rerunNeeds h (atCas addr) { viewOf m u with entry := some (c, r) }
        (setCasFails h addr (casFails h addr u + 1) (inc (xltCtr h 5) (dropLeaf h addr u))) := by
  subst hu
  simp only [effAdCasDone, hheld, hc, hr, Bool.false_eq_true, if_false]
  rfl

end

/-! ### Page requests (R234 to R236) -/

section
variable {h : Nat} {s : State}

theorem effPageRequestPost_waiting {r : PageReq} {tl : List PageReq} (hw : (hport s h).pageWait = r :: tl) :
    effPageRequestPost h s =
      if fqRoom s h ∧ hostUp s h then fqPost h r (updHost h (fun p => { p with pageWait := tl }) s) else s := by
  simp only [effPageRequestPost, hw]

theorem effPageRequestPost_idle (hw : (hport s h).pageWait = []) : effPageRequestPost h s = s := by
  simp only [effPageRequestPost, hw]

theorem effXltFaultResp_unknown {v : Word} {m : HostView} (hup : hostUp s h = true)
    (hr : (hport s h).pageReqs.find? (fun r => r.id.toNat == fld v 0 16) = none) :
    effXltFaultResp h v m s = xltCause h 4 (inc (xltCtr h 13) s) := by
  simp only [effXltFaultResp, hup, hr, Bool.not_true, Bool.false_eq_true, if_false]

theorem effXltFaultResp_answers {v : Word} {m : HostView} {r : PageReq} (hup : hostUp s h = true)
    (hr : (hport s h).pageReqs.find? (fun r => r.id.toNat == fld v 0 16) = some r) : effXltFaultResp h v m s =
      if bitW v 16 then answerPage h r 12 (viewOf m s) (inc (xltCtr h 11) s)
      else answerPage h r 0 (viewOf m s) (inc (xltCtr h 10) s) := by
  simp only [effXltFaultResp, hup, hr, Bool.not_true, Bool.false_eq_true, if_false]

theorem effFaultTimeout_outstanding {id : BitVec 16} {r : PageReq}
    (hr : (hport s h).pageReqs.find? (fun r => r.id == id) = some r) :
    effFaultTimeout h id s = answerPage h r 13 (viewOf {} s) (inc (xltCtr h 12) s) := by
  simp only [effFaultTimeout, hr]

end

/-- Settles O34: each clause is the branch of its command's effect that its hypotheses pick. -/
theorem invalidationsAndFaults : Obligations.InvalidationsAndFaults := by
  unfold Obligations.InvalidationsAndFaults
  refine ⟨?finishes, ?invalUnknown, ?badScope, ?casUnknown, ?casUnsupported, ?casRetried, ?casContended, ?casStale,
    ?casFlushed, ?xinvAgain, ?xinvNew, ?ackWaited, ?resent, ?otherGone, ?resendIdle, ?xinvRunning, ?ackStray, ?xinvMismatch,
    ?ackMismatch, ?notReady, ?casFills, ?posts, ?postWaits, ?postIdle, ?fqHeadDown, ?fqHeadUp, ?respUnknown, ?respFails, ?respGoesOn,
    ?timeout⟩
  case finishes =>
    rintro b id i f u s t hi hr hf hu ht
    exact clocked_runs fun _ => (effInvalidationDone_ready hi hr hf (hu.trans (turnsGoOn_eq ..).symm)).trans
      ((turnsGoOn_eq ..).trans ht.symm)
  case invalUnknown =>
    rintro b id s _ hi rfl
    exact clocked_runs fun _ => effInvalidationDone_unknown hi
  case badScope =>
    rintro b n p s _ hb hn hl hg hm hx h0 rfl
    exact clocked_runs fun _ => (effXinv_taken ⟨⟨hb, hn, hl, hg⟩, hm, hx⟩ rfl).trans (if_pos h0)
  case casUnknown =>
    rintro h addr r m s _ hn rfl
    exact clocked_runs fun _ => effAdCasDone_unknown hn
  case casUnsupported =>
    rintro h addr m c u s t hheld hc hu ht
    exact clocked_runs fun _ => (effAdCasDone_unsupported hheld hc hu).trans ht.symm
  case casRetried =>
    rintro h addr m c u r s t hheld hc hu hr hf ht
    have again := (effAdCasDone_differs (m := m) hheld hc hu hr).trans (if_neg (not_le.mpr (Nat.succ_lt_succ hf)))
    rw [← casFails_dropped h addr (xltCtr h 5) u] at again
    exact clocked_runs fun _ => again.trans ht.symm
  case casContended =>
    rintro h addr m c u r s t hheld hc hu hr hf ht
    exact clocked_runs fun _ =>
      ((effAdCasDone_differs hheld hc hu hr).trans (if_pos (Nat.succ_le_succ hf))).trans ht.symm
  case casStale =>
    rintro h addr m c u v r s _ hheld hc hu rfl hdead hv hn rfl
    exact clocked_runs fun _ => (effAdCasDone_fillsNothing hheld hc hu hdead hv).trans (flushBegun_of_none hn)
  case casFlushed =>
    rintro h addr m c u v r i s _ hheld hc hu rfl hpages hact hv hi hb hd rfl
    exact clocked_runs fun _ => by
      rw [effAdCasDone_fills hheld hc hu hpages hact hv, hi, flushBegun_singleton hb hd]
  case xinvAgain =>
    rintro b n p s _ hb hn hl hg hm hx h0 hq rfl
    exact clocked_runs fun _ => (effXinv_taken ⟨⟨hb, hn, hl, hg⟩, hm, hx⟩ rfl).trans ((if_neg h0).trans (if_pos hq))
  case xinvNew =>
    rintro b n p s _ hb hn hl hg hm hx h0 hq hr rfl
    exact clocked_runs fun _ => (effXinv_taken ⟨⟨hb, hn, hl, hg⟩, hm, hx⟩ rfl).trans
      ((if_neg h0).trans ((if_neg (ne_true_of_eq_false hq)).trans (if_neg (ne_true_of_eq_false hr))))
  case ackWaited =>
    rintro b n p i s _ hb hn hl hg hm hx hi rfl
    exact clocked_runs fun _ => effXinvAck_waited ⟨⟨hb, hn, hl, hg⟩, hm, hx⟩ hi
  case resent =>
    rintro b q i s _ hb hi hreach rfl
    exact clocked_runs fun _ => (effXinvResend_unacknowledged hb hi).trans (if_pos hreach)
  case otherGone =>
    rintro b q i s _ hb hi hreach rfl
    exact clocked_runs fun _ => (effXinvResend_unacknowledged hb hi).trans (if_neg (ne_true_of_eq_false hreach))
  case resendIdle =>
    rintro b q s _ hn rfl
    exact clocked_runs fun _ => effXinvResend_idle hn
  case xinvRunning =>
    rintro b n p s _ hb hn hl hg hm hx h0 hq hr rfl
    exact clocked_runs fun _ => (effXinv_taken ⟨⟨hb, hn, hl, hg⟩, hm, hx⟩ rfl).trans
      ((if_neg h0).trans ((if_neg (ne_true_of_eq_false hq)).trans (if_pos hr)))
  case ackStray =>
    rintro b n p s _ hb hn hl hg hm hx hi rfl
    exact clocked_runs fun _ => effXinvAck_stray ⟨⟨hb, hn, hl, hg⟩, hm, hx⟩ hi
  case xinvMismatch =>
    rintro b n p s _ hb hn hl hg hm rfl
    exact clocked_runs fun _ => effXinv_mismatch ⟨hb, hn, hl, hg⟩ hm
  case ackMismatch =>
    rintro b n p s _ hb hn hl hg hm rfl
    exact clocked_runs fun _ => effXinvAck_mismatch ⟨hb, hn, hl, hg⟩ hm
  case notReady =>
    rintro b id i s _ hi hr rfl
    exact clocked_runs fun _ => effInvalidationDone_notReady hi hr
  case casFills =>
    rintro h addr m c u v r s _ hheld hc hu rfl hpages hact hv hn rfl
    exact clocked_runs fun _ => (effAdCasDone_fills hheld hc hu hpages hact hv).trans (flushBegun_of_none hn)
  case posts =>
    rintro h r tl s _ hw hroom hup rfl
    exact clocked_runs fun _ => (effPageRequestPost_waiting hw).trans (if_pos ⟨hroom, hup⟩)
  case postWaits =>
    rintro h r tl s _ hw hno rfl
    exact clocked_runs fun _ => (effPageRequestPost_waiting hw).trans
      (if_neg fun ⟨hroom, hup⟩ => by simp [hroom, hup] at hno)
  case postIdle =>
    rintro h s _ hw rfl
    exact clocked_runs fun _ => effPageRequestPost_idle hw
  case fqHeadDown =>
    rintro h v who _ s _ rfl hst rfl
    exact clocked_runs fun _ => if_neg hst
  case fqHeadUp =>
    rintro h v who _ s _ rfl hst rfl
    exact clocked_runs fun _ => if_pos hst
  case respUnknown =>
    rintro h v m who _ s _ rfl hup hr rfl
    exact clocked_runs fun _ => effXltFaultResp_unknown hup hr
  case respFails =>
    rintro h v m r who _ s _ rfl hup hr hf rfl
    exact clocked_runs fun _ => (effXltFaultResp_answers hup hr).trans (if_pos hf)
  case respGoesOn =>
    rintro h v m r who _ s _ rfl hup hr hf rfl
    exact clocked_runs fun _ => (effXltFaultResp_answers hup hr).trans (if_neg (ne_true_of_eq_false hf))
  case timeout =>
    rintro h id r s _ hr rfl
    exact clocked_runs fun _ => effFaultTimeout_outstanding hr

end Sys2Proof.Proofs
end

section
/-! PROOFS. The atomic result store (O53: R258). -/

namespace Sys2Proof.Proofs
open Sys2Proof.Machine Sys2Proof.Laws

/-! ### Which entry makes room -/

section
variable {top psn : Word} {v : BitVec 64} {l : List (Word × BitVec 64)}

theorem keepAtomic_room (hl : l.length < 4) : keepAtomic top psn v l = l ++ [(psn, v)] := by simp [keepAtomic, hl]

/-- The age that `keepAtomic` looks for is that of an entry, and no entry is older. -/
theorem exists_oldest (top : Word) (hl : l ≠ []) :
    ∃ e ∈ l, atomicAge top e = (l.map (atomicAge top)).foldl max 0 ∧ ∀ a ∈ l, atomicAge top a ≤ atomicAge top e := by
  obtain ⟨n, hn⟩ : ∃ n, (l.map (atomicAge top)).max? = some n :=
    Option.ne_none_iff_exists'.mp (by simpa [List.max?_eq_none_iff] using hl)
  obtain ⟨hmem, hmax⟩ := List.max?_eq_some_iff.mp hn
  obtain ⟨e, he, rfl⟩ := List.mem_map.mp hmem
  exact ⟨e, he, by simp [List.foldl_max, hn], fun a ha => hmax _ (List.mem_map_of_mem ha)⟩

/-- A full store gives up one entry, and none is older. -/
theorem keepAtomic_full (top psn : Word) (v : BitVec 64) (hl : l.length = 4) : ∃ l₁ e l₂, l = l₁ ++ e :: l₂ ∧
    keepAtomic top psn v l = l₁ ++ l₂ ++ [(psn, v)] ∧ ∀ a ∈ l, atomicAge top a ≤ atomicAge top e := by
  obtain ⟨o, ho, hage, holdest⟩ := exists_oldest top (l := l) (by rintro rfl; simp at hl)
  obtain ⟨e, l₁, l₂, -, he, hsplit, herase⟩ := List.exists_of_eraseP ho (p := fun a =>
    atomicAge top a == (l.map (atomicAge top)).foldl max 0) (by simp [hage])
  have hsame : atomicAge top e = atomicAge top o := (beq_iff_eq.mp he).trans hage.symm
  refine ⟨l₁, e, l₂, hsplit, ?_, fun a ha => (holdest a ha).trans hsame.ge⟩
  rw [← herase, keepAtomic, if_neg (by omega)]

theorem keepAtomic_length_le (hl : l.length ≤ 4) : (keepAtomic top psn v l).length ≤ 4 := by
  rcases hl.lt_or_eq with hlt | heq
  · simpa [keepAtomic_room hlt] using hlt
  · obtain ⟨l₁, e, l₂, hsplit, hkeep, -⟩ := keepAtomic_full top psn v heq
    have hcount : l.length = l₁.length + (l₂.length + 1) := by simp [hsplit]
    simp only [hkeep, List.length_append, List.length_singleton]
    omega

end

/-! ### What an ATOMIC_REQ that answers stores -/

/-- An access that did not succeed gives no response. -/
theorem rxOf_ne_resp {α : Type} (a : Acc α) (ty mask : Byte) (ext : List Word) (bs : List Byte) :
    rxOf a ≠ .resp ty mask ext bs := by cases a <;> simp [rxOf]

/-- An ATOMIC_REQ that answers has read the original value, and keeps what it answers. -/
theorem execAtomicRx_resp {h c : Nat} {p : Packet} {v : View} {s t : State} {ty mask : Byte} {ext : List Word}
    {bs : List Byte} (he : execAtomicRx h c p v s = (.resp ty mask ext bs, t)) :
    ∃ (old : List Byte) (u : State), atomicDone h c p old u = (.resp ty mask ext bs, t) := by
  by_cases hb : Packet.extF p 1 1 16 4 = 0 ∨ 10 < Packet.extF p 1 1 16 4 ∨
      violAddr p % (if Packet.extF p 1 1 20 1 = 1 then 8 else 4) ≠ 0
  · rw [execAtomicRx_bad rfl hb] at he
    cases he
  obtain ⟨hop, hmax, halign⟩ : Packet.extF p 1 1 16 4 ≠ 0 ∧ Packet.extF p 1 1 16 4 ≤ 10 ∧
      violAddr p % (if Packet.extF p 1 1 20 1 = 1 then 8 else 4) = 0 := by omega
  cases hck : checkOk (chanOf s h c) p with
  | false =>
    simp only [execAtomicRx, if_neg hb, hck, Bool.not_false, if_true] at he
    cases he
  | true =>
    rcases haccess : access h (Packet.extW p 1 2) (violAddr p) (if Packet.extF p 1 1 20 1 = 1 then 8 else 4)
      .remoteAtomic (chanWho (chanOf s h c)) v s with ⟨o, a⟩
    by_cases ho : ∀ g, o ≠ .ok g
    · rw [execAtomicRx_accessEnds rfl rfl hop hmax halign hck haccess ho] at he
      exact absurd (congrArg Prod.fst he) (rxOf_ne_resp o ty mask ext bs)
    · obtain ⟨g, rfl⟩ : ∃ g, o = .ok g := by simpa using ho
      rcases hread : readGrant h g true v a with ⟨r, b⟩
      by_cases hr : ∀ bs, r ≠ .ok bs
      · rw [execAtomicRx_readEnds rfl rfl hop hmax halign hck haccess hread hr] at he
        exact absurd (congrArg Prod.fst he) (rxOf_ne_resp r ty mask ext bs)
      · obtain ⟨old, rfl⟩ : ∃ old, r = .ok old := by simpa using hr
        cases hnew : atomicNew (Packet.extF p 1 1 16 4) (if Packet.extF p 1 1 20 1 = 1 then 8 else 4) (leNat old)
            ((Packet.extW p 1 4).toNat + 2 ^ 32 * (Packet.extW p 1 5).toNat)
            ((Packet.extW p 1 6).toNat + 2 ^ 32 * (Packet.extW p 1 7).toNat) with
        | none =>
          rw [execAtomicRx_keeps rfl rfl hop hmax halign hck haccess hread hnew] at he
          exact ⟨old, _, he⟩
        | some n =>
          rw [execAtomicRx_stores rfl rfl hop hmax halign hck haccess hread hnew] at he
          exact ⟨old, _, he⟩

/-- Settles O53: the four entries are a list, and the one that makes room is the first of the greatest age. -/
theorem atomicStore : Obligations.AtomicStore := by
  unfold Obligations.AtomicStore
  refine ⟨fun _ _ _ _ => keepAtomic_room, fun top psn v _ => keepAtomic_full top psn v,
    fun _ _ _ _ => keepAtomic_length_le, ?stores⟩
  case stores =>
    intro h c p v s t ty mask ext bs he
    obtain ⟨old, u, hdone⟩ := execAtomicRx_resp he
    simp only [atomicDone, Prod.mk.injEq, Rx.resp.injEq] at hdone
    obtain ⟨⟨-, -, rfl, -⟩, rfl⟩ := hdone
    exact ⟨_, _, rfl, rfl⟩

end Sys2Proof.Proofs
end

section
/-! PROOFS. The receive window after an execution (O58: R247, R254). -/

namespace Sys2Proof.Proofs
open Sys2Proof.Machine Sys2Proof.Laws

/-- The window slides over `k` PSNs, all of which have executed, and stops early only before one that has not. -/
theorem slide_over (n : Nat) (x : Chan) : ∃ k ≤ n, (slide n x).expect = x.expect + BitVec.ofNat 32 k ∧
    (slide n x).bitmap = x.bitmap >>> k ∧ (∀ i < k, x.bitmap.getLsbD i = true) ∧
    (k = n ∨ x.bitmap.getLsbD k = false) := by
  induction n generalizing x with
  | zero => exact ⟨0, le_rfl, by simp [slide], by simp [slide], by simp, .inl rfl⟩
  | succ n ih =>
    cases hx : executedAt x 0 with
    | false => exact ⟨0, Nat.zero_le _, by simp [slide, hx], by simp [slide, hx], by simp, .inr hx⟩
    | true =>
      obtain ⟨y, hy, he, hb⟩ : ∃ y, slide (n + 1) x = slide n y ∧ y.expect = x.expect + 1 ∧ y.bitmap = x.bitmap >>> 1 := by
        refine ⟨_, by simp only [slide, hx, Bool.not_true, Bool.false_eq_true, if_false]; rfl, ?_, ?_⟩ <;>
          · dsimp only
            split <;> rfl
      obtain ⟨k, hk, hexpect, hbitmap, hdone, hstop⟩ := ih y
      refine ⟨k + 1, by omega, ?_, ?_, ?_, ?_⟩
      · rw [hy, hexpect, he]
        bv_omega
      · rw [hy, hbitmap, hb, Nat.add_comm, BitVec.shiftRight_add]
      · rintro (_ | i) hi
        · exact hx
        · simpa [hb, Nat.add_comm] using hdone i (by omega)
      · rw [hb] at hstop
        rcases hstop with rfl | hstop
        · exact .inl rfl
        · exact .inr (by simpa [Nat.add_comm] using hstop)

/-- What a window that has slid over `k` PSNs knows of those of the old window. -/
theorem psnDone_slid {y : Chan} {a : Word} {b : BitVec 2048} {k e : Nat} (hexpect : y.expect = a + BitVec.ofNat 32 k)
    (hbitmap : y.bitmap = b >>> k) (hk : k ≤ 2048) (he : e < 2048) :
    psnDone y (a + BitVec.ofNat 32 e) = (decide (e < k) || b.getLsbD e) := by
  rw [psnDone, psnBefore, executedAt, hexpect, hbitmap]
  by_cases hlt : e < k
  · have hdist : (a + BitVec.ofNat 32 k - (a + BitVec.ofNat 32 e)).toNat = k - e := by bv_omega
    have hbefore : 1 ≤ k - e ∧ k - e < 2 ^ 31 := by omega
    rw [hdist, decide_eq_true hbefore, decide_eq_true hlt, Bool.true_or, Bool.true_or]
  · have hnear : (a + BitVec.ofNat 32 e - (a + BitVec.ofNat 32 k)).toNat = e - k := by bv_omega
    have hbehind : ¬ (1 ≤ (a + BitVec.ofNat 32 k - (a + BitVec.ofNat 32 e)).toNat ∧
        (a + BitVec.ofNat 32 k - (a + BitVec.ofNat 32 e)).toNat < 2 ^ 31) := by bv_omega
    have hwithin : e - k < 2048 := by omega
    have hplace : k + (e - k) = e := by omega
    rw [hnear, decide_eq_false hbehind]
    simp [hwithin, hlt, hplace]

/-- What lies behind the old window, but for the farthest 2,048, lies behind one that has slid over `k`. -/
theorem psnDone_behind {y : Chan} {a : Word} {k e : Nat} (hexpect : y.expect = a + BitVec.ofNat 32 k) (hk : k ≤ 2048)
    (he : 1 ≤ e) (hfar : e < 2 ^ 31 - 2048) : psnDone y (a - BitVec.ofNat 32 e) = true := by
  have hdist : (a + BitVec.ofNat 32 k - (a - BitVec.ofNat 32 e)).toNat = k + e := by bv_omega
  have hbefore : 1 ≤ k + e ∧ k + e < 2 ^ 31 := by omega
  simp only [psnDone, psnBefore, hexpect, hdist, hbefore, and_self, decide_true, Bool.true_or]

/-- A context in which a packet at distance `d` has just been marked executed. -/
def marked (d : Nat) (p : Packet) (x : Chan) : Chan :=
  { x with
    bitmap := x.bitmap ||| (1 <<< d), window := x.window || d != 0
    lasts := if isLast p then x.lasts ++ [(p.psn, BitVec.ofNat 24 (msnOf p))] else x.lasts
    refused := x.refused.filter (fun r => r.1 != p.psn), olds := x.olds.filter (fun q => q != p.psn) }

@[simp] theorem marked_expect (d : Nat) (p : Packet) (x : Chan) : (marked d p x).expect = x.expect := rfl
@[simp] theorem marked_bitmap (d : Nat) (p : Packet) (x : Chan) :
    (marked d p x).bitmap = x.bitmap ||| BitVec.ofNat 2048 (1 <<< d) := by simp [marked]

/-- After an execution the window slides from where the packet was marked. -/
theorem chanOf_markDone (h c d : Nat) (p : Packet) (s : State) :
    chanOf (markDone h c d p s) h c = slide 2048 (marked d p (chanOf s h c)) := by
  unfold markDone
  rw [chanOf_updChan_same]
  unfold marked
  congr

theorem getLsbD_marked {b : BitVec 2048} {d e : Nat} (he : e < 2048) :
    (b ||| BitVec.ofNat 2048 (1 <<< d)).getLsbD e = (b.getLsbD e || decide (e = d)) := by
  rw [BitVec.getLsbD_or, BitVec.getLsbD_ofNat, Nat.one_shiftLeft, Nat.testBit_two_pow, decide_eq_true he, Bool.true_and]
  simp [eq_comm]

/-- Settles O58: the window slides over executed PSNs only, so that what it passes was executed, and the rest keeps its bit. -/
theorem executedOnce : Obligations.ExecutedOnce := by
  unfold Obligations.ExecutedOnce
  rintro h c d p s x y hd rfl rfl
  obtain ⟨k, hk, hexpect, hbitmap, hpassed, hstop⟩ := slide_over 2048 (marked d p (chanOf s h c))
  rw [← chanOf_markDone, marked_expect] at hexpect
  rw [← chanOf_markDone, marked_bitmap] at hbitmap
  rw [marked_bitmap] at hpassed hstop
  have known {e : Nat} (he : e < 2048) := psnDone_slid hexpect hbitmap hk he
  refine ⟨?executed, ?kept, ?behind, ?others, ?front⟩
  case executed => simp [known hd, getLsbD_marked hd]
  case kept =>
    intro e he hbit
    simp [known he, getLsbD_marked he, hbit]
  case behind => exact fun e he hfar => psnDone_behind hexpect hk he hfar
  case others =>
    intro e he hne hbit
    have hunmarked : ((chanOf s h c).bitmap ||| BitVec.ofNat 2048 (1 <<< d)).getLsbD e = false := by simp [getLsbD_marked he, hne, hbit]
    have hpast : ¬ e < k := fun hlt => ne_true_of_eq_false hunmarked (hpassed e hlt)
    simp [known he, hunmarked, hpast]
  case front =>
    rw [hbitmap, BitVec.getLsbD_ushiftRight, Nat.add_zero]
    rcases hstop with rfl | hstop
    · exact BitVec.getLsbD_of_ge _ _ le_rfl
    · exact hstop

end Sys2Proof.Proofs
end

section
/-! PROOFS. The rows of a channel's packets, by the tests that a packet meets and by what its execution comes to (R250 to R262,
R267). -/

namespace Sys2Proof.Proofs
open Sys2Proof.Machine Sys2Proof.Laws

/-- What a row says of its command, whose effect is `f`: in `s` it leaves `t` and what follows that, and `t` alone where that is
quiet. -/
def RowLeaves (f : State → State) (s t : State) : Prop :=
  (s.pw.stopped = false → Host.Outcome.next (whileClocked f s) = (.next (follows t) : Host.Outcome State Fault Refusal)) ∧
    (quiet s t = true → Host.Outcome.next (whileClocked f s) = (.next t : Host.Outcome State Fault Refusal))

theorem RowLeaves.of_eq {f : State → State} {s t a : State} (hf : f s = a) (ht : t = a) : RowLeaves f s t :=
  clocked_runs fun _ => hf.trans ht.symm

section
variable {h c d : Nat} {ty : Byte} {p : Packet} {m : HostView} {s r u w y t : State} {x : Chan} {v : View}

/-! ### The tests, one row each -/

theorem dropped_row (ha : arrived h ty p s = (r, false)) (ht : t = r) : RowLeaves (request h ty p m) s t :=
  .of_eq (request_dropped ha) ht

theorem uncached_row (ha : arrived h ty p s = (r, true)) (hc : c = p.chan.toNat)
    (hn : (chanOf (inc (trnCtr h 1) r) h c).cached = false)
    (ht : t = fetchCtx h c (park h c p (inc (trnCtr h 1) r))) : RowLeaves (request h ty p m) s t :=
  .of_eq (request_uncached ha hc hn) ht

section
variable (hpass : arrived h ty p s = (r, true)) (hchan : c = p.chan.toNat) (hcount : u = inc (trnCtr h 1) r)
  (hcached : (chanOf u h c).cached = true) (hview : v = viewOf m u) (hused : w = (takeCore h c (meetCtx h c u)).1)
  (hrec : x = chanOf w h c)
include hpass hchan hcount hcached hview hused hrec

theorem otherIncarnation_row (hinc : p.inc ≠ x.inc) (ht : t = afterRx h c p v (.over, trnStale h 7 w)) :
    RowLeaves (request h ty p m) s t :=
  .of_eq (request_otherIncarnation ⟨hpass, hchan, hcount, hcached, hview, hused, hrec⟩ hinc) ht

variable (hinc : p.inc = x.inc)
include hinc

theorem otherSource_row (hsrc : p.src ≠ x.peer) (ht : t = afterRx h c p v (.over, trnStale h 8 w)) :
    RowLeaves (request h ty p m) s t :=
  .of_eq (request_otherSource ⟨hpass, hchan, hcount, hcached, hview, hused, hrec⟩ hinc hsrc) ht

variable (hsrc : p.src = x.peer)
include hsrc

/-- A packet of an UNRELIABLE channel meets no test of its PSN (R267). -/
theorem request_unreliable (hrel : x.unrel = true) :
    request h ty p m s = afterRx h c p v (acceptUnrel h c p v w) := by
  subst hrec
  rw [request_accepted ⟨hpass, hchan, hcount, hcached, hview, hused, rfl⟩]
  simp [accept, hinc, hsrc, hrel]

variable (hrel : x.unrel = false)
include hrel

theorem inError_row (he : x.st = .error) (ht : t = afterRx h c p v (.over, sendAck h c p.psn 0x11 0 w)) :
    RowLeaves (request h ty p m) s t :=
  .of_eq (request_inError ⟨hpass, hchan, hcount, hcached, hview, hused, hrec⟩ ⟨hinc, hsrc, hrel⟩ he) ht

variable (hok : x.st ≠ .error)
include hok

theorem beyond_row (hfar : 2048 ≤ (p.psn - x.expect).toNat) (hahead : (p.psn - x.expect).toNat < 2 ^ 31)
    (ht : t = afterRx h c p v (.over, trnStale h 9 w)) : RowLeaves (request h ty p m) s t :=
  .of_eq (request_beyond ⟨hpass, hchan, hcount, hcached, hview, hused, hrec⟩ ⟨hinc, hsrc, hrel⟩ hok hfar hahead) ht

theorem refusedAgain_row {k : Nat} (hd : Repeated x p) (hr : x.refused = some (p.psn, k))
    (ht : t = afterRx h c p v (.over, sendAck h c p.psn 0x10 k (inc (trnCtr h 6) w))) : RowLeaves (request h ty p m) s t :=
  .of_eq (request_refused ⟨hpass, hchan, hcount, hcached, hview, hused, hrec⟩ ⟨hinc, hsrc, hrel⟩ hok hd hr) ht

/-- A repeated packet that asks for no data is acknowledged again (R259). -/
theorem acknowledgedAgain_row (hread : ty ≠ 3) (hatomic : ty ≠ 5) (hd : Repeated x p)
    (hr : x.refused.all (fun e => e.1 != p.psn) = true)
    (ht : t = afterRx h c p v (.over, sendAck h c p.psn 0 0 (inc (trnCtr h 6) w))) : RowLeaves (request h ty p m) s t := by
  have ha : Accepted h ty p m s r u w c x v := ⟨hpass, hchan, hcount, hcached, hview, hused, hrec⟩
  refine .of_eq ?_ ht
  rw [request_answered ha ⟨hinc, hsrc, hrel⟩ hok hd hr, answer_acked (ha.type ▸ hread) (ha.type ▸ hatomic)]

variable (hdist : d = (p.psn - x.expect).toNat) (hnear : d < 2048) (hnew : executedAt x d = false)
include hdist hnear hnew

theorem busy_row (hbusy : x.busy.any (fun q => q.psn == p.psn) = true)
    (ht : t = afterRx h c p v (.over, inc (trnCtr h 6) w)) : RowLeaves (request h ty p m) s t :=
  .of_eq (request_busy ⟨hpass, hchan, hcount, hcached, hview, hused, hrec⟩ ⟨hinc, hsrc, hrel⟩ hok ⟨hdist, hnear, hnew⟩ hbusy) ht

variable (hidle : x.busy.any (fun q => q.psn == p.psn) = false)
include hidle

theorem heldBack_row (hheld : heldBack x d p = true) (ht : t = park h c p w) : RowLeaves (request h ty p m) s t :=
  .of_eq (request_heldBack ⟨hpass, hchan, hcount, hcached, hview, hused, hrec⟩ ⟨hinc, hsrc, hrel⟩ hok
    ⟨hdist, hnear, hnew⟩ hidle hheld) ht

variable (horder : heldBack x d p = false)
  (hslots : (if d = 0 ∨ x.window then (w, true) else freeSlots (boleOf h) (objKey 24 h c) 1 w) = (y, true))
include horder hslots

theorem notAlive_row (halive : aliveOk x d p = false) (ht : t = afterRx h c p v (.over, cvuFail h 4 p y)) :
    RowLeaves (request h ty p m) s t :=
  .of_eq (request_notAlive ⟨hpass, hchan, hcount, hcached, hview, hused, hrec⟩ ⟨hinc, hsrc, hrel⟩ hok
    ⟨⟨hdist, hnear, hnew⟩, hidle, horder, hslots⟩ halive) ht

end

end

/-! ### A packet that passes every test -/

/-- A packet of type `ty` passes every test in `s`, and executes in `y` at distance `d` of channel `c`. -/
structure Executes (h : Nat) (ty : Byte) (p : Packet) (m : HostView) (s : State) (c d : Nat) (v : View) (y : State) : Prop where
  type : p.ptype = ty
  runs : request h ty p m s = afterRx h c p v (execute h c d p v y)

section
variable {h c d : Nat} {ty : Byte} {p : Packet} {m : HostView} {s r u w y t : State} {x : Chan} {v : View}

theorem executes (hpass : arrived h ty p s = (r, true)) (hchan : c = p.chan.toNat) (hcount : u = inc (trnCtr h 1) r)
    (hcached : (chanOf u h c).cached = true) (hview : v = viewOf m u) (hused : w = (takeCore h c (meetCtx h c u)).1)
    (hrec : x = chanOf w h c) (hinc : p.inc = x.inc) (hsrc : p.src = x.peer) (hrel : x.unrel = false) (hok : x.st ≠ .error)
    (hdist : d = (p.psn - x.expect).toNat) (hnear : d < 2048) (hnew : executedAt x d = false)
    (hidle : x.busy.any (fun q => q.psn == p.psn) = false) (horder : heldBack x d p = false)
    (hslots : (if d = 0 ∨ x.window then (w, true) else freeSlots (boleOf h) (objKey 24 h c) 1 w) = (y, true))
    (halive : aliveOk x d p = true) : Executes h ty p m s c d v y :=
  have ha : Accepted h ty p m s r u w c x v := ⟨hpass, hchan, hcount, hcached, hview, hused, hrec⟩
  ⟨ha.type, request_executes ha ⟨hinc, hsrc, hrel⟩ hok ⟨⟨hdist, hnear, hnew⟩, hidle, horder, hslots⟩ halive⟩

/-- A packet that must wait after the others is refused with RECEIVER_BUSY, and those parked behind it are discarded (R288). -/
theorem execute_receiverBusy {a : State} (he : execRx h c p v s = (.later 2, a)) :
    execute h c d p v s = (.over, discardBehind h c p (sendAck h c p.psn 2 0 a)) := by simp [execute, he]

namespace Executes
variable {a : State} (hx : Executes h ty p m s c d v y)
include hx

theorem row_of_execute {e : Fate × State} (he : execute h c d p v y = e) (ht : t = afterRx h c p v e) :
    RowLeaves (request h ty p m) s t := .of_eq (hx.runs.trans (congrArg _ he)) ht

theorem done_row (he : execRx h c p v y = (.done, a))
    (ht : t = afterRx h c p v (.over, ackDue h c p (markDone h c d p a))) : RowLeaves (request h ty p m) s t :=
  hx.row_of_execute (execute_done he) ht

theorem denied_row {k : Nat} (hty : ty ≠ 0x30) (he : execRx h c p v y = (.denied k, a))
    (ht : t = afterRx h c p v (.over, markRefused h c d p k (sendAck h c p.psn 0x10 k (violation h c p k a)))) :
    RowLeaves (request h ty p m) s t :=
  hx.row_of_execute (execute_denied he (hx.type ▸ hty)) ht

theorem bad_row (he : execRx h c p v y = (.bad, a)) (ht : t = afterRx h c p v (.over, sendAck h c p.psn 0x12 0 a)) :
    RowLeaves (request h ty p m) s t :=
  hx.row_of_execute (execute_bad he) ht

theorem receiverNotReady_row (he : execRx h c p v y = (.later 1, a))
    (ht : t = afterRx h c p v (.over, sendAck h c p.psn 1 0 a)) : RowLeaves (request h ty p m) s t :=
  hx.row_of_execute (execute_later he) ht

theorem receiverBusy_row (he : execRx h c p v y = (.later 2, a))
    (ht : t = afterRx h c p v (.over, discardBehind h c p (sendAck h c p.psn 2 0 a))) : RowLeaves (request h ty p m) s t :=
  hx.row_of_execute (execute_receiverBusy he) ht

theorem wait_row {n : Need} (he : execRx h c p v y = (.wait n, a)) (ht : t = rxWait h c p n a) :
    RowLeaves (request h ty p m) s t :=
  hx.row_of_execute (execute_wait he) ht

theorem drop_row (he : execRx h c p v y = (.drop, a)) (ht : t = afterRx h c p v (.over, a)) :
    RowLeaves (request h ty p m) s t :=
  hx.row_of_execute (execute_drop he) ht

end Executes

end

end Sys2Proof.Proofs
end

section
/-! PROOFS. WRITE packets that arrive (O36: R254, R255, R259, R267, R383). -/

namespace Sys2Proof.Proofs
open Sys2Proof.Machine Sys2Proof.Laws

section
variable {h c : Nat} {p : Packet} {v : View} {s a : State} {z : Chan} {g : Grant}

theorem execRx_write (ht : p.ptype = 1) : execRx h c p v s = execWriteRx h c p v s := by simp [execRx, ht]

/-- What an executed WRITE notes at its channel: its bytes in its message's sum, and its lateness (R162, R256). -/
def writeNoted (h c : Nat) (p : Packet) (b : State) : State :=
  updChan h c (fun x => { x with
    sums := Maps.upd 0 x.sums (msnOf p) (fun n => n + p.payload.length)
    late := if (deliverAsd h p b).2 then BitVec.ofNat 24 (msnOf p) :: x.late else x.late }) (deliverAsd h p b).1

variable (hz : z = chanOf s h c)
include hz

section
variable (haccess : access h (Packet.extW p 0 2) (violAddr p) p.payload.length .remoteWrite (chanWho z) v s = (.ok g, a))
include haccess

theorem execWriteRx_done (hck : checkOk z p = true) : execWriteRx h c p v s =
    (.done, writeNoted h c p (writeGrant h g (!bitW (Packet.extW p 0 1) 29) p.payload (cvuGood h z a))) := by
  subst hz
  simp only [execWriteRx, haccess, hck, if_true, writeNoted]

theorem execWriteRx_checkFails (hck : checkOk z p = false) : execWriteRx h c p v s =
    (.drop, cvuFail h 3 p (writeGrant h g.quiet (!bitW (Packet.extW p 0 1) 29) p.payload a)) := by
  subst hz
  simp only [execWriteRx, haccess, hck, Bool.false_eq_true, if_false]

end

/-- A WRITE that is refused its access, or waits for it, ends as the access does. -/
theorem execWriteRx_ends {o : Acc Grant}
    (haccess : access h (Packet.extW p 0 2) (violAddr p) p.payload.length .remoteWrite (chanWho z) v s = (o, a))
    (ho : ∀ g, o ≠ .ok g) : execWriteRx h c p v s = (rxOf o, a) := by
  subst hz
  simp only [execWriteRx, haccess]

end

/-! ### UNRELIABLE channels (R267) -/

section
variable {h c : Nat} {p : Packet} {v : View} {s a : State}

theorem acceptUnrel_inError {x : Chan} (hx : x = chanOf s h c) (ht : p.ptype = 1) (he : x.st = .error) :
    acceptUnrel h c p v s = (.over, s) := by
  subst hx
  simp [acceptUnrel, ht, he]

theorem acceptUnrel_written {x : Chan} (hx : x = chanOf s h c) (ht : p.ptype = 1) (hok : x.st ≠ .error)
    (hw : execWriteRx h c p v s = (.done, a)) : acceptUnrel h c p v s =
      (.over, if isLast p then updChan h c (fun x => { x with
        sums := Maps.erase (msnOf p) x.sums, late := x.late.filter (fun m => m.toNat != msnOf p) }) a else a) := by
  subst hx
  simp [acceptUnrel, ht, hok, execRx, hw]

end

/-- Settles O36: a WRITE meets the tests of `request`, and executes by the outcome of its access and of its MSG_CHECK. -/
theorem arrivalOfWrites : Obligations.ArrivalOfWrites := by
  unfold Obligations.ArrivalOfWrites
  refine ⟨?written, ?checkFails, ?refused, ?waits, ?unreliable, ?unreliableInError, ?dropped, ?uncached, ?otherIncarnation,
    ?otherSource, ?inError, ?beyond, ?busy, ?heldBack, ?notAlive, ?refusedAgain, ?oldRefusedAgain, ?again⟩
  case written =>
    intro h p m r u w c x v d y z g a b s t h1 h2 h3 h4 h5 h6 h7 h8 h9 h10 h11 h12 h13 h14 h15 h16 h17 h18 hz haccess hck hb ht
    have hx : Executes h 1 p m s c d v y := executes h1 h2 h3 h4 h5 h6 h7 h8 h9 h10 h11 h12 h13 h14 h15 h16 h17 h18
    subst hb
    exact hx.done_row ((execRx_write hx.type).trans (execWriteRx_done hz haccess hck)) ht
  case checkFails =>
    intro h p m r u w c x v d y z g a s t h1 h2 h3 h4 h5 h6 h7 h8 h9 h10 h11 h12 h13 h14 h15 h16 h17 h18 hz haccess hck ht
    have hx : Executes h 1 p m s c d v y := executes h1 h2 h3 h4 h5 h6 h7 h8 h9 h10 h11 h12 h13 h14 h15 h16 h17 h18
    exact hx.drop_row ((execRx_write hx.type).trans (execWriteRx_checkFails hz haccess hck)) ht
  case refused =>
    intro h p m r u w c x v d y z k a s t h1 h2 h3 h4 h5 h6 h7 h8 h9 h10 h11 h12 h13 h14 h15 h16 h17 h18 hz haccess ht
    have hx : Executes h 1 p m s c d v y := executes h1 h2 h3 h4 h5 h6 h7 h8 h9 h10 h11 h12 h13 h14 h15 h16 h17 h18
    exact hx.denied_row (by decide) ((execRx_write hx.type).trans (execWriteRx_ends hz haccess (by simp))) ht
  case waits =>
    intro h p m r u w c x v d y z n a s t h1 h2 h3 h4 h5 h6 h7 h8 h9 h10 h11 h12 h13 h14 h15 h16 h17 h18 hz haccess ht
    have hx : Executes h 1 p m s c d v y := executes h1 h2 h3 h4 h5 h6 h7 h8 h9 h10 h11 h12 h13 h14 h15 h16 h17 h18
    exact hx.wait_row ((execRx_write hx.type).trans (execWriteRx_ends hz haccess (by simp))) ht
  case unreliable =>
    intro h p m r u w c x v y s t h1 h2 h3 h4 h5 h6 h7 hinc hsrc hrel hok hw ht
    have htype := (Accepted.mk h1 h2 h3 h4 h5 h6 h7).type
    exact RowLeaves.of_eq ((request_unreliable h1 h2 h3 h4 h5 h6 h7 hinc hsrc hrel).trans
      (congrArg _ (acceptUnrel_written h7 htype hok hw))) ht
  case unreliableInError =>
    intro h p m r u w c x v s t h1 h2 h3 h4 h5 h6 h7 hinc hsrc hrel he ht
    have htype := (Accepted.mk h1 h2 h3 h4 h5 h6 h7).type
    exact RowLeaves.of_eq ((request_unreliable h1 h2 h3 h4 h5 h6 h7 hinc hsrc hrel).trans
      (congrArg _ (acceptUnrel_inError h7 htype he))) ht
  case dropped => intros; apply dropped_row <;> assumption
  case uncached => intros; apply uncached_row <;> assumption
  case otherIncarnation => intros; apply otherIncarnation_row <;> assumption
  case otherSource => intros; apply otherSource_row <;> assumption
  case inError => intros; apply inError_row <;> assumption
  case beyond => intros; apply beyond_row <;> assumption
  case busy => intros; apply busy_row <;> assumption
  case heldBack => intros; apply heldBack_row <;> assumption
  case notAlive => intros; apply notAlive_row <;> assumption
  case refusedAgain => intros; apply refusedAgain_row <;> assumption
  case oldRefusedAgain | again => intros; apply acknowledgedAgain_row (hread := by decide) (hatomic := by decide) <;> assumption

end Sys2Proof.Proofs
end

section
/-! PROOFS. What becomes of the messages that arrive: eager delivery, the release of a head, and the end of a rendezvous (R276 to
R289, R383). -/

namespace Sys2Proof.Proofs
open Sys2Proof.Machine Sys2Proof.Laws

/-! ### Delivery of an EAGER packet (R283, R286) -/

section
variable {h c : Nat} {p : Packet} {v : View} {s b : State} {e : MsgRx}

/-- The payload of an EAGER packet has gone where its message goes, which leaves `b`: its lateness is judged, and the message has
those bytes less to come. -/
def eagerTook (h c : Nat) (p : Packet) (e : MsgRx) (v : View) (b : State) : State :=
  msgTook h c p.payload.length { e with flags := e.flags ||| flLate (deliverAsd h p (cvuGood h (chanOf b h c) b)).2 } v
    (deliverAsd h p (cvuGood h (chanOf b h c) b)).1

theorem deliverEager_gone (hd : e.dest = .gone) : deliverEager h c p e v s = (.done, eagerTook h c p e v s) := by
  simp only [deliverEager, hd, eagerTook]

theorem deliverEager_slot {k : Nat} (hd : e.dest = .slot k) : deliverEager h c p e v s =
    (.done, eagerTook h c p e v (wrBus h 0 true (bounceAddr s h k + enOff p) p.payload s)) := by
  simp only [deliverEager, hd, eagerTook]

section
variable {i : Nat} {j : Job} (hd : e.dest = .recv i) (hj : jobOf s h i = some j)
include hd hj

theorem deliverEager_written (hroom : recvFull s h j = false ∨ p.payload.length ≠ e.left)
    (hw : writeBy .eagerWrite h j (enOff p) (p.payload.take (lengthOfJob j - enOff p)) v s = (.ok (), b)) :
    deliverEager h c p e v s = (.done, eagerTook h c p e v b) := by
  have hgoes : ¬ (p.payload.length = e.left ∧ recvFull s h j = true) := by
    rintro ⟨hends, hfull⟩
    exact hroom.elim (fun hno => by simp [hfull] at hno) (absurd hends)
  simp only [deliverEager, hd, hj, if_neg hgoes, hw, eagerTook]

theorem deliverEager_fails {k : Nat} (hroom : recvFull s h j = false)
    (hw : writeBy .eagerWrite h j (enOff p) (p.payload.take (lengthOfJob j - enOff p)) v s = (.fail k, b)) :
    deliverEager h c p e v s = (.done, msgTook h c p.payload.length { e with dest := .gone } v
      (failRecv h i (if k = 12 ∨ k = 13 then 0x48 else 0x11) (min (e.len - e.left) (lengthOfJob j)) k
        (e.flags ||| flLate (deliverAsd h p (cvuGood h (chanOf b h c) b)).2)
        (deliverAsd h p (cvuGood h (chanOf b h c) b)).1)) := by
  simp only [deliverEager, hd, hj, hroom, Bool.false_eq_true, and_false, if_false, hw, accStatus]

end

end

/-- The message that an EAGER head begins. -/
def headMsg (p : Packet) (d : Dest) : MsgRx :=
  { head := p.psn, msn := enMsn p, dest := d, left := enLen p, len := enLen p, tag := enTag p, comm := enComm p, rank := enRank p }

/-- A message that its head begins has no flag but the head's own lateness. -/
theorem eagerTook_headMsg (h c : Nat) (p : Packet) (d : Dest) (v : View) (b : State) : eagerTook h c p (headMsg p d) v b =
    msgTook h c p.payload.length
      { headMsg p d with flags := flLate (deliverAsd h p (cvuGood h (chanOf b h c) b)).2 } v
      (deliverAsd h p (cvuGood h (chanOf b h c) b)).1 := by
  simp [eagerTook, headMsg]

/-! ### A head that no receive fits (R284, R285) -/

/-- The counters and the cause of a head that is stored: on chip, or in the tier. -/
def storeCounted (h : Nat) (q : State) : State :=
  if onChip q h < unexpMax q h then inc (mtcCtr h 2) q
  else if inTier q h = 0 then mtcCause h 0 (inc (mtcCtr h 3) (inc (mtcCtr h 2) q))
  else inc (mtcCtr h 3) (inc (mtcCtr h 2) q)

/-- The unexpected entry of a head from channel `o`, stored when the port stands as in `q`; `b` gives its release sequence. -/
def storedHead (h c : Nat) (p : Packet) (o : Chan) (q b : State) (slot : Option Nat) (late : Bool)
    (rndv : Option (Nat × Word)) : Unexp :=
  { seq := (hport b h).relSeq, fn := o.fn, pd := o.pd, chan := c, msn := enMsn p, tag := enTag p, comm := enComm p,
    rank := enRank p, len := enLen p, tier := !decide (onChip q h < unexpMax q h), slot := slot, late := late, rndv := rndv }

@[simp] theorem inTier_inc (k : Nat) (s : State) (h : Nat) : inTier (inc k s) h = inTier s h := by simp [inTier]

section
variable {h c : Nat} {p : Packet} {v : View} {q b g : State} {o : Chan}

theorem storeHead_noPlace (hchip : unexpMax q h ≤ onChip q h) (htier : tierRoom q h = false) :
    storeHead h c p v q = recvBusy h q := by
  simp [storeHead, not_lt.mpr hchip, htier]

section
variable (hplace : onChip q h < unexpMax q h ∨ tierRoom q h = true)
include hplace

/-- A head with a place is stored by what it needs of a bounce slot. -/
theorem storeHead_placed : storeHead h c p v q =
    if p.ptype ≠ 0x21 ∧ enLen p ≠ 0 ∧ pickSlot q h = none then recvBusy h (inc (mtcCtr h 8) q)
    else match (if p.ptype = 0x21 ∨ enLen p = 0 then none else pickSlot q h) with
    | none =>
      let r := deliverAsd h p (cvuGood h (chanOf q h c) (storeCounted h q))
      (.done, setUnexp h (unexpAt r.1 h ++ [storedHead h c p (chanOf q h c) q r.1 none r.2
        (if p.ptype = 0x21 then some (violAddr p, Packet.extW p 0 2) else none)]) r.1)
    | some k =>
      deliverEager h c p (headMsg p (.slot k)) v (updHost h (fun q => { q with slots := k :: q.slots })
        (setUnexp h (unexpAt (storeCounted h q) h ++ [storedHead h c p (chanOf q h c) q (storeCounted h q) (some k) false none])
          (storeCounted h q))) := by
  have hroom : ¬ (!decide (onChip q h < unexpMax q h) && !tierRoom q h) = true := by
    rcases hplace with hp | hp <;> simp [hp]
  have hcount : (if decide (onChip q h < unexpMax q h) = true then inc (mtcCtr h 2) q
      else if inTier (inc (mtcCtr h 2) q) h = 0 then mtcCause h 0 (inc (mtcCtr h 3) (inc (mtcCtr h 2) q))
      else inc (mtcCtr h 3) (inc (mtcCtr h 2) q)) = storeCounted h q := by
    simp only [decide_eq_true_eq, inTier_inc]
    rfl
  simp only [storeHead, if_neg hroom, hcount]
  by_cases ht : p.ptype = 0x21
  · simp [ht, storedHead]
  simp only [ht, false_or, not_false_eq_true, true_and, if_false, ne_eq]
  by_cases hlen : enLen p = 0
  · simp [hlen, storedHead]
  cases hslot : pickSlot q h with
  | none => simp [hlen]
  | some k => simp [hlen, storedHead, headMsg]

theorem storeHead_noSlot (ht : p.ptype ≠ 0x21) (hlen : enLen p ≠ 0) (hslot : pickSlot q h = none) :
    storeHead h c p v q = recvBusy h (inc (mtcCtr h 8) q) := by
  rw [storeHead_placed hplace, if_pos ⟨ht, hlen, hslot⟩]

/-- A head without payload is stored as its entry alone. -/
theorem storeHead_entry (hslot : p.ptype = 0x21 ∨ enLen p = 0) (ho : o = chanOf q h c)
    (hb : b = (deliverAsd h p (cvuGood h o (storeCounted h q))).1) : storeHead h c p v q =
    (.done, setUnexp h (unexpAt b h ++ [storedHead h c p o q b none
      (deliverAsd h p (cvuGood h o (storeCounted h q))).2
      (if p.ptype = 0x21 then some (violAddr p, Packet.extW p 0 2) else none)]) b) := by
  subst ho hb
  rw [storeHead_placed hplace, if_neg (by tauto), if_pos hslot]

/-- A head with payload takes a bounce slot, which its payload begins to fill. -/
theorem storeHead_slot {k : Nat} (ht : p.ptype ≠ 0x21) (hlen : enLen p ≠ 0) (hslot : pickSlot q h = some k)
    (ho : o = chanOf q h c) (hg : g = updHost h (fun q => { q with slots := k :: q.slots })
      (setUnexp h (unexpAt (storeCounted h q) h ++ [storedHead h c p o q (storeCounted h q) (some k) false none])
        (storeCounted h q))) : storeHead h c p v q =
    (.done, eagerTook h c p (headMsg p (.slot k)) v (wrBus h 0 true (bounceAddr g h k + enOff p) p.payload g)) := by
  subst ho hg
  rw [storeHead_placed hplace, if_neg (by simp [hslot]), if_neg (by tauto), hslot]
  exact deliverEager_slot rfl

end

end

/-! ### The release of a head (R281 to R288, R294) -/

/-- The port when it has counted a head that is released, with the next release sequence. -/
def released (h : Nat) (s : State) : State :=
  inc (mtcCtr h 0) (updHost h (fun q => { q with relSeq := q.relSeq + 1 }) (meetMatch h s))

/-- The port when the receive of a job has been matched. -/
def matchedOut (h jid : Nat) (q : State) : State :=
  inc (mtcCtr h 1) (setPosted h ((postedAt q h).filter (fun y => y.job ≠ jid)) q)

@[simp] theorem chanOf_released (h c : Nat) (s : State) : chanOf (released h s) h c = chanOf (meetMatch h s) h c := by
  simp [released, chanOf]
@[simp] theorem jobOf_matchedOut (h jid i : Nat) (q : State) : jobOf (matchedOut h jid q) h i = jobOf q h i := by
  simp [matchedOut, jobOf, hport]
@[simp] theorem wqOf_matchedOut (h jid k : Nat) (q : State) : wqOf (matchedOut h jid q) h k = wqOf q h k := by
  simp [matchedOut, wqOf]
@[simp] theorem cqOf_matchedOut (h jid k : Nat) (q : State) : cqOf (matchedOut h jid q) h k = cqOf q h k := by
  simp [matchedOut, cqOf]
@[simp] theorem recvFull_matchedOut (h jid : Nat) (j : Job) (q : State) :
    recvFull (matchedOut h jid q) h j = recvFull q h j := by
  simp only [recvFull, cqFull, wqOf_matchedOut, cqOf_matchedOut]

section
variable {h c : Nat} {p : Packet} {v : View} {s q a b : State} {o : Chan} (hq : q = released h s)
  (ho : o = chanOf (meetMatch h s) h c)
include hq

theorem releaseHead_lostEager (hlost : (hport q h).lost = true) (ht : p.ptype = 0x20) : releaseHead h c p v s =
    (.done, eagerTook h c p (headMsg p .gone) v (inc (mtcCtr h 12) q)) := by
  subst hq
  have notRts : p.ptype ≠ 0x21 := by simp [ht]
  simp only [released] at hlost ⊢
  simp only [releaseHead, hlost, if_true, if_neg notRts]
  exact deliverEager_gone rfl

theorem releaseHead_off (hlost : (hport q h).lost = false) (hoff : mtcOn q h = false) :
    releaseHead h c p v s = recvBusy h q := by
  subst hq
  simp only [released] at hlost hoff ⊢
  simp only [releaseHead, hlost, hoff, Bool.not_false, Bool.false_eq_true, if_false, if_true]

include ho

theorem releaseHead_lostRts (hlost : (hport q h).lost = true) (ht : p.ptype = 0x21) : releaseHead h c p v s =
    (.done, tellDiscarded h c (enTag p) (enComm p) (enRank p) (enMsn p) v
      (deliverAsd h p (cvuGood h o (inc (mtcCtr h 12) q))).1) := by
  subst hq ho
  simp only [released] at hlost ⊢
  simp only [releaseHead, hlost, if_true, if_pos ht]

section
variable (hlost : (hport q h).lost = false) (hon : mtcOn q h = true)
include hlost hon

theorem releaseHead_unmatched
    (hfit : (postedAt q h).find? (fun r => fits r o.fn o.pd (enTag p) (enComm p) (enRank p)) = none) :
    releaseHead h c p v s = storeHead h c p v q := by
  subst hq ho
  simp only [released] at hlost hon hfit ⊢
  simp only [releaseHead, hlost, hon, Bool.not_true, Bool.false_eq_true, if_false, hfit]

variable {r : Recv}
  (hfit : (postedAt q h).find? (fun r => fits r o.fn o.pd (enTag p) (enComm p) (enRank p)) = some r)
include hfit

theorem releaseHead_full
    (hends : (if p.ptype = 0x20 then enLen p == p.payload.length else r.len == 0 || o.st != .active) = true)
    (hfull : (jobOf q h r.job).any (recvFull q h) = true) : releaseHead h c p v s = (.later 1, meetMatch h s) := by
  subst hq ho
  simp only [released] at hlost hon hfit hends hfull
  simp only [releaseHead, hlost, hon, Bool.not_true, Bool.false_eq_true, if_false, hfit]
  exact if_pos ⟨hends, hfull⟩

theorem releaseHead_fetches (ht : p.ptype = 0x21)
    (hroom : (r.len == 0 || o.st != .active) = false ∨ (jobOf q h r.job).any (recvFull q h) = false)
    (ha : a = matchedOut h r.job q) : releaseHead h c p v s =
    (.done, fetchMsg h c
      { job := r.job, orig := enMsn p, tag := enTag p, comm := enComm p, rank := enRank p, addr := violAddr p,
        key := Packet.extW p 0 2, len := min (enLen p) r.len, msgLen := enLen p, left := min (enLen p) r.len, unexp := false,
        late := (deliverAsd h p (cvuGood h o a)).2 } v (deliverAsd h p (cvuGood h o a)).1) := by
  subst hq ho ha
  have notEager : p.ptype ≠ 0x20 := by simp [ht]
  simp only [released, matchedOut] at hlost hon hfit hroom ⊢
  simp only [releaseHead, hlost, hon, Bool.not_true, Bool.false_eq_true, if_false, hfit, if_neg notEager, if_pos ht]
  refine if_neg ?_
  rintro ⟨hends, hfull⟩
  exact hroom.elim (ne_true_of_eq_false · hends) (ne_true_of_eq_false · hfull)

section
variable {j : Job} (ht : p.ptype = 0x20) (ha : a = matchedOut h r.job q) (hj : jobOf a h r.job = some j)
include ht ha hj

/-- An EAGER head that does not end its receive, or ends it while its completion queue has room, is delivered to it. -/
theorem releaseHead_delivers {t : State} (hroom : recvFull q h j = false ∨ enLen p ≠ p.payload.length)
    (hdone : deliverEager h c p (headMsg p (.recv r.job)) v a = (.done, t)) : releaseHead h c p v s = (.done, t) := by
  subst ha
  rw [jobOf_matchedOut] at hj
  subst hq ho
  have notRts : p.ptype ≠ 0x21 := by simp [ht]
  have staysOpen : ¬ ((enLen p == p.payload.length) = true ∧
      (jobOf (released h s) h r.job).any (recvFull (released h s) h) = true) := by
    rintro ⟨hends, hfull⟩
    simp only [hj, Option.any_some, beq_iff_eq] at hends hfull
    exact hroom.elim (ne_true_of_eq_false · hfull) (absurd hends)
  simp only [released, matchedOut, headMsg] at hlost hon hfit hdone staysOpen
  simp only [releaseHead, hlost, hon, Bool.not_true, Bool.false_eq_true, if_false, hfit, if_pos ht, if_neg notRts,
    if_neg staysOpen, hdone]

theorem releaseHead_written (hroom : recvFull q h j = false ∨ enLen p ≠ p.payload.length)
    (hw : writeBy .eagerWrite h j (enOff p) (p.payload.take (lengthOfJob j - enOff p)) v a = (.ok (), b)) :
    releaseHead h c p v s = (.done, eagerTook h c p (headMsg p (.recv r.job)) v b) := by
  refine releaseHead_delivers hq ho hlost hon hfit ht ha hj hroom (deliverEager_written rfl hj ?_ hw)
  rw [ha, recvFull_matchedOut]
  exact hroom.imp_right Ne.symm

theorem releaseHead_writeFails {k : Nat} (hroom : recvFull q h j = false)
    (hw : writeBy .eagerWrite h j (enOff p) (p.payload.take (lengthOfJob j - enOff p)) v a = (.fail k, b)) :
    releaseHead h c p v s = (.done, msgTook h c p.payload.length { headMsg p .gone with flags := flLate false } v
      (failRecv h r.job (if k = 12 ∨ k = 13 then 0x48 else 0x11) 0 k
        (flLate (deliverAsd h p (cvuGood h (chanOf b h c) b)).2) (deliverAsd h p (cvuGood h (chanOf b h c) b)).1)) := by
  refine releaseHead_delivers hq ho hlost hon hfit ht ha hj (.inl hroom)
    ((deliverEager_fails rfl hj (by rw [ha, recvFull_matchedOut, hroom]) hw).trans ?_)
  simp [headMsg, flLate]

end

end

end

/-! ### An EAGER packet whose check fails (R383) -/

section
variable {h : Nat} {p : Packet} {z : Chan} {v : View} {s : State}

theorem failEager_gone (hd : eagerDest h p z s = .gone) : failEager h p z v s = (.drop, cvuFail h 3 p s) := by
  simp only [failEager, hd]

theorem failEager_slot {k : Nat} (hd : eagerDest h p z s = .slot k) : failEager h p z v s =
    (.drop, cvuFail h 3 p (wrBus h 0 true (bounceAddr s h k + enOff p) p.payload s)) := by
  simp only [failEager, hd]

theorem failEager_both {k i : Nat} (hd : eagerDest h p z s = .both k i) : failEager h p z v s =
    (.drop, cvuFail h 3 p (wrBus h 0 true (bounceAddr s h k + enOff p) p.payload s)) := by
  simp only [failEager, hd]

section
variable {i : Nat} (hd : eagerDest h p z s = .recv i)
include hd

theorem failEager_noJob (hj : jobOf s h i = none) : failEager h p z v s = (.drop, cvuFail h 3 p s) := by
  simp only [failEager, hd, hj]

variable {j : Job} {g : State} (hj : jobOf s h i = some j)
include hj

theorem failEager_granted {gs : List Grant}
    (hg : grantLocal h j (enOff p) (p.payload.take (lengthOfJob j - enOff p)).length .eagerWrite v s = (.ok gs, g)) :
    failEager h p z v s =
      (.drop, cvuFail h 3 p (writeGrants h (gs.map Grant.quiet) (p.payload.take (lengthOfJob j - enOff p)) g)) := by
  simp only [failEager, hd, hj, hg]

theorem failEager_waits {n : Need}
    (hg : grantLocal h j (enOff p) (p.payload.take (lengthOfJob j - enOff p)).length .eagerWrite v s = (.wait n, g)) :
    failEager h p z v s = (.wait n, g) := by
  simp only [failEager, hd, hj, hg]

theorem failEager_denied {k : Nat}
    (hg : grantLocal h j (enOff p) (p.payload.take (lengthOfJob j - enOff p)).length .eagerWrite v s = (.fail k, g)) :
    failEager h p z v s = (.drop, cvuFail h 3 p g) := by
  simp only [failEager, hd, hj, hg]

end

end

/-! ### Execution by type (R276, R280, R283, R289) -/

section
variable {h c : Nat} {p : Packet} {v : View} {s b : State} {z : Chan}

theorem execRx_message (ht : p.ptype = 0x20 ∨ p.ptype = 0x21) : execRx h c p v s = execMatchRx h c p v s := by
  rcases ht with ht | ht <;> simp [execRx, ht]

theorem execRx_rndvDone (ht : p.ptype = 0x22) : execRx h c p v s = execDoneRx h c p s := by simp [execRx, ht]

theorem execMatchRx_bad (hbad : envBad s h p = true) : execMatchRx h c p v s = badEnvelope h s := if_pos hbad

theorem execDoneRx_bad (hbad : envBad s h p = true) : execDoneRx h c p s = badEnvelope h s := if_pos hbad

variable (hz : z = chanOf s h c) (hgood : envBad s h p = false)
include hz hgood

section
variable (hck : checkOk z p = false)
include hck

theorem execMatchRx_rtsCheckFails (ht : p.ptype = 0x21) : execMatchRx h c p v s = (.drop, cvuFail h 3 p s) := by
  subst hz
  simp [execMatchRx, hgood, hck, ht]

theorem execMatchRx_eagerCheckFails (ht : p.ptype = 0x20) : execMatchRx h c p v s = failEager h p z v s := by
  subst hz
  simp [execMatchRx, hgood, hck, ht]

theorem execDoneRx_checkFails : execDoneRx h c p s = (.drop, cvuFail h 3 p s) := by
  subst hz
  simp [execDoneRx, hgood, hck]

end

variable (hck : checkOk z p = true)
include hck

theorem execMatchRx_released (hhead : isHead p = true) (hmsg : msgAt z p.psn (enMsn p) = none) :
    execMatchRx h c p v s = releaseHead h c p v s := by
  subst hz
  simp only [execMatchRx, hgood, hck, hhead, hmsg, Bool.not_true, Bool.false_eq_true, if_false, if_true]

theorem execMatchRx_noMessage (hhead : isHead p = false) (hmsg : msgAt z (headPsn p) (enMsn p) = none) :
    execMatchRx h c p v s = badEnvelope h s := by
  subst hz
  simp only [execMatchRx, hgood, hck, hhead, hmsg, Bool.not_true, Bool.false_eq_true, if_false]

theorem execMatchRx_goesOn {e : MsgRx}
    (hmsg : (if isHead p then msgAt z p.psn (enMsn p) else msgAt z (headPsn p) (enMsn p)) = some e) :
    execMatchRx h c p v s = deliverEager h c p e v s := by
  subst hz
  simp only [execMatchRx, hgood, hck, Bool.not_true, Bool.false_eq_true, if_false]
  split at hmsg
  · next hhead => simp only [hhead, if_true, hmsg]
  · next hlater => simp only [hlater, Bool.false_eq_true, if_false, hmsg]

variable (hb : b = (deliverAsd h p (cvuGood h z s)).1)
include hb

theorem execDoneRx_stray
    (hj : (hport b h).jobs.find? (fun j => j.rndv && j.chan == c && j.sent != 0 && j.msn == enOrig p) = none) :
    execDoneRx h c p s = (.done, mtcCause h 6 (inc (mtcCtr h 10) b)) := by
  subst hz hb
  simp only [execDoneRx, hgood, hck, Bool.not_true, Bool.false_eq_true, if_false, hj]

variable {j : Job}
  (hj : (hport b h).jobs.find? (fun j => j.rndv && j.chan == c && j.sent != 0 && j.msn == enOrig p) = some j)
include hj

theorem execDoneRx_discarded (hdisc : bitW (Packet.extW p 3 4) 26 = true) : execDoneRx h c p s =
    (.done, finishJob h j 0x2B 0 0 (updChan h c (fun x => { x with line := x.line.filter (· ≠ .job j.id) }) b)) := by
  subst hz hb
  simp only [execDoneRx, hgood, hck, Bool.not_true, Bool.false_eq_true, if_false, if_true, hj, hdisc]

theorem execDoneRx_ends (hdisc : bitW (Packet.extW p 3 4) 26 = false) : execDoneRx h c p s =
    (.done, finishJob h { j with flags := j.flags ||| flTruncated (bitW (Packet.extW p 3 4) 25) } 0 (enLen p) 0
      (updChan h c (fun x => { x with line := x.line.filter (· ≠ .job j.id) }) b)) := by
  subst hz hb
  simp only [execDoneRx, hgood, hck, Bool.not_true, Bool.false_eq_true, if_false, hj, hdisc]

end

/-- On an UNRELIABLE channel a message packet is an envelope error (R267). -/
theorem acceptUnrel_message {h c : Nat} {p : Packet} {v : View} {s : State}
    (ht : p.ptype = 0x20 ∨ p.ptype = 0x21 ∨ p.ptype = 0x22) :
    acceptUnrel h c p v s = (.over, mtcCause h 3 (inc (mtcCtr h 11) s)) := by
  have notEnable : p.ptype ≠ 0x30 := by rcases ht with ht | ht | ht <;> simp [ht]
  simp only [acceptUnrel, if_neg notEnable, if_pos ht]

end Sys2Proof.Proofs
end

section
/-! PROOFS. The rows of EAGER, RNDV_RTS and RNDV_DONE (O40: R254, R267, R276 to R289, R383). -/

namespace Sys2Proof.Proofs
open Sys2Proof.Machine Sys2Proof.Laws

/-- Settles O40: the tests decide a message packet's row as those of any request, and what its execution comes to is the release
of its head, the delivery of a later packet, the end of its SEND, or the refusal of it. -/
theorem arrivalOfMessages : Obligations.ArrivalOfMessages := by
  unfold Obligations.ArrivalOfMessages
  refine ⟨?eagerBad, ?rtsBad, ?doneBad, ?rtsCheck, ?doneCheck, ?checkGone, ?checkSlot, ?checkBoth, ?checkNoJob, ?checkGranted,
    ?checkWaits, ?checkDenied, ?eagerOff, ?rtsOff, ?eagerNoPlace, ?rtsNoPlace, ?noSlot, ?rtsLost, ?eagerLost, ?fetches, ?rtsFull,
    ?eagerFull, ?written, ?writeFails, ?rtsStored, ?entryStored, ?slotStored, ?noMessage, ?onToSlot, ?onToReceive, ?ends,
    ?discarded, ?stray, ?eagerUnreliable, ?rtsUnreliable, ?doneUnreliable,
    ?eagerDropped, ?eagerUncached, ?eagerIncarnation, ?eagerSource, ?eagerInError, ?eagerBeyond, ?eagerBusy, ?eagerHeld,
    ?eagerNotAlive, ?eagerAgain,
    ?rtsDropped, ?rtsUncached, ?rtsIncarnation, ?rtsSource, ?rtsInError, ?rtsBeyond, ?rtsBusy, ?rtsHeld, ?rtsNotAlive, ?rtsAgain,
    ?doneDropped, ?doneUncached, ?doneIncarnation, ?doneSource, ?doneInError, ?doneBeyond, ?doneBusy, ?doneHeld, ?doneNotAlive,
    ?doneAgain⟩
  case eagerBad | rtsBad =>
    intro h p m r u w c x v d y z s t h1 h2 h3 h4 h5 h6 h7 h8 h9 h10 h11 h12 h13 h14 h15 h16 h17 h18 hz
      hbad ht
    have hx : Executes h _ p m s c d v y := executes h1 h2 h3 h4 h5 h6 h7 h8 h9 h10 h11 h12 h13 h14 h15 h16 h17 h18
    exact hx.bad_row ((execRx_message (by simp [hx.type])).trans (execMatchRx_bad hbad)) ht
  case doneBad =>
    intro h p m r u w c x v d y z s t h1 h2 h3 h4 h5 h6 h7 h8 h9 h10 h11 h12 h13 h14 h15 h16 h17 h18 hz
      hbad ht
    have hx : Executes h 0x22 p m s c d v y := executes h1 h2 h3 h4 h5 h6 h7 h8 h9 h10 h11 h12 h13 h14 h15 h16 h17 h18
    exact hx.bad_row ((execRx_rndvDone hx.type).trans (execDoneRx_bad hbad)) ht
  case rtsCheck =>
    intro h p m r u w c x v d y z s t h1 h2 h3 h4 h5 h6 h7 h8 h9 h10 h11 h12 h13 h14 h15 h16 h17 h18 hz
      hgood hck ht
    have hx : Executes h 0x21 p m s c d v y := executes h1 h2 h3 h4 h5 h6 h7 h8 h9 h10 h11 h12 h13 h14 h15 h16 h17 h18
    exact hx.drop_row ((execRx_message (.inr hx.type)).trans (execMatchRx_rtsCheckFails hz hgood hck hx.type)) ht
  case doneCheck =>
    intro h p m r u w c x v d y z s t h1 h2 h3 h4 h5 h6 h7 h8 h9 h10 h11 h12 h13 h14 h15 h16 h17 h18 hz
      hgood hck ht
    have hx : Executes h 0x22 p m s c d v y := executes h1 h2 h3 h4 h5 h6 h7 h8 h9 h10 h11 h12 h13 h14 h15 h16 h17 h18
    exact hx.drop_row ((execRx_rndvDone hx.type).trans (execDoneRx_checkFails hz hgood hck)) ht
  case checkGone =>
    intro h p m r u w c x v d y z s t h1 h2 h3 h4 h5 h6 h7 h8 h9 h10 h11 h12 h13 h14 h15 h16 h17 h18 hz
      hgood hck hd ht
    have hx : Executes h 0x20 p m s c d v y := executes h1 h2 h3 h4 h5 h6 h7 h8 h9 h10 h11 h12 h13 h14 h15 h16 h17 h18
    exact hx.drop_row ((execRx_message (.inl hx.type)).trans <| (execMatchRx_eagerCheckFails hz hgood hck hx.type).trans
      (failEager_gone hd)) ht
  case checkSlot =>
    intro h p m r u w c x v d y z k s t h1 h2 h3 h4 h5 h6 h7 h8 h9 h10 h11 h12 h13 h14 h15 h16 h17 h18 hz
      hgood hck hd ht
    have hx : Executes h 0x20 p m s c d v y := executes h1 h2 h3 h4 h5 h6 h7 h8 h9 h10 h11 h12 h13 h14 h15 h16 h17 h18
    exact hx.drop_row ((execRx_message (.inl hx.type)).trans <| (execMatchRx_eagerCheckFails hz hgood hck hx.type).trans
      (failEager_slot hd)) ht
  case checkBoth =>
    intro h p m r u w c x v d y z k i s t h1 h2 h3 h4 h5 h6 h7 h8 h9 h10 h11 h12 h13 h14 h15 h16 h17 h18 hz
      hgood hck hd ht
    have hx : Executes h 0x20 p m s c d v y := executes h1 h2 h3 h4 h5 h6 h7 h8 h9 h10 h11 h12 h13 h14 h15 h16 h17 h18
    exact hx.drop_row ((execRx_message (.inl hx.type)).trans <| (execMatchRx_eagerCheckFails hz hgood hck hx.type).trans
      (failEager_both hd)) ht
  case checkNoJob =>
    intro h p m r u w c x v d y z i s t h1 h2 h3 h4 h5 h6 h7 h8 h9 h10 h11 h12 h13 h14 h15 h16 h17 h18 hz
      hgood hck hd hj ht
    have hx : Executes h 0x20 p m s c d v y := executes h1 h2 h3 h4 h5 h6 h7 h8 h9 h10 h11 h12 h13 h14 h15 h16 h17 h18
    exact hx.drop_row ((execRx_message (.inl hx.type)).trans <| (execMatchRx_eagerCheckFails hz hgood hck hx.type).trans
      (failEager_noJob hd hj)) ht
  case checkGranted =>
    intro h p m r u w c x v d y z i j gs g s t h1 h2 h3 h4 h5 h6 h7 h8 h9 h10 h11 h12 h13 h14 h15 h16 h17 h18 hz
      hgood hck hd hj hg ht
    have hx : Executes h 0x20 p m s c d v y := executes h1 h2 h3 h4 h5 h6 h7 h8 h9 h10 h11 h12 h13 h14 h15 h16 h17 h18
    exact hx.drop_row ((execRx_message (.inl hx.type)).trans <| (execMatchRx_eagerCheckFails hz hgood hck hx.type).trans
      (failEager_granted hd hj hg)) ht
  case checkWaits =>
    intro h p m r u w c x v d y z i j n g s t h1 h2 h3 h4 h5 h6 h7 h8 h9 h10 h11 h12 h13 h14 h15 h16 h17 h18 hz
      hgood hck hd hj hg ht
    have hx : Executes h 0x20 p m s c d v y := executes h1 h2 h3 h4 h5 h6 h7 h8 h9 h10 h11 h12 h13 h14 h15 h16 h17 h18
    exact hx.wait_row ((execRx_message (.inl hx.type)).trans <| (execMatchRx_eagerCheckFails hz hgood hck hx.type).trans
      (failEager_waits hd hj hg)) ht
  case checkDenied =>
    intro h p m r u w c x v d y z i k j g s t h1 h2 h3 h4 h5 h6 h7 h8 h9 h10 h11 h12 h13 h14 h15 h16 h17 h18 hz
      hgood hck hd hj hg ht
    have hx : Executes h 0x20 p m s c d v y := executes h1 h2 h3 h4 h5 h6 h7 h8 h9 h10 h11 h12 h13 h14 h15 h16 h17 h18
    exact hx.drop_row ((execRx_message (.inl hx.type)).trans <| (execMatchRx_eagerCheckFails hz hgood hck hx.type).trans
      (failEager_denied hd hj hg)) ht
  case eagerOff | rtsOff =>
    intro h p m r u w c x v d y z q o s t h1 h2 h3 h4 h5 h6 h7 h8 h9 h10 h11 h12 h13 h14 h15 h16 h17 h18 hz
      hgood hck hhead hmsg hq ho hlost hoff ht
    have hx : Executes h _ p m s c d v y := executes h1 h2 h3 h4 h5 h6 h7 h8 h9 h10 h11 h12 h13 h14 h15 h16 h17 h18
    exact hx.receiverBusy_row ((execRx_message (by simp [hx.type])).trans <| (execMatchRx_released hz hgood hck hhead hmsg).trans
      (releaseHead_off hq hlost hoff)) ht
  case eagerNoPlace | rtsNoPlace =>
    intro h p m r u w c x v d y z q o s t h1 h2 h3 h4 h5 h6 h7 h8 h9 h10 h11 h12 h13 h14 h15 h16 h17 h18 hz
      hgood hck hhead hmsg hq ho hlost hon hfit hchip htier ht
    have hx : Executes h _ p m s c d v y := executes h1 h2 h3 h4 h5 h6 h7 h8 h9 h10 h11 h12 h13 h14 h15 h16 h17 h18
    exact hx.receiverBusy_row ((execRx_message (by simp [hx.type])).trans <| (execMatchRx_released hz hgood hck hhead hmsg).trans
      ((releaseHead_unmatched hq ho hlost hon hfit).trans (storeHead_noPlace hchip htier))) ht
  case noSlot =>
    intro h p m r u w c x v d y z q o s t h1 h2 h3 h4 h5 h6 h7 h8 h9 h10 h11 h12 h13 h14 h15 h16 h17 h18 hz
      hgood hck hhead hmsg hq ho hlost hon hfit hplace hlen hslot ht
    have hx : Executes h 0x20 p m s c d v y := executes h1 h2 h3 h4 h5 h6 h7 h8 h9 h10 h11 h12 h13 h14 h15 h16 h17 h18
    have notRts : p.ptype ≠ 0x21 := by simp [hx.type]
    exact hx.receiverBusy_row ((execRx_message (.inl hx.type)).trans <| (execMatchRx_released hz hgood hck hhead hmsg).trans
      ((releaseHead_unmatched hq ho hlost hon hfit).trans (storeHead_noSlot hplace notRts hlen hslot))) ht
  case rtsLost =>
    intro h p m r u w c x v d y z q o a s t h1 h2 h3 h4 h5 h6 h7 h8 h9 h10 h11 h12 h13 h14 h15 h16 h17 h18 hz
      hgood hck hhead hmsg hq ho hlost ha ht
    have hx : Executes h 0x21 p m s c d v y := executes h1 h2 h3 h4 h5 h6 h7 h8 h9 h10 h11 h12 h13 h14 h15 h16 h17 h18
    subst ha
    exact hx.done_row ((execRx_message (.inr hx.type)).trans <| (execMatchRx_released hz hgood hck hhead hmsg).trans
      (releaseHead_lostRts hq ho hlost hx.type)) ht
  case eagerLost =>
    intro h p m r u w c x v d y z q o a s t h1 h2 h3 h4 h5 h6 h7 h8 h9 h10 h11 h12 h13 h14 h15 h16 h17 h18 hz
      hgood hck hhead hmsg hq ho hlost ha ht
    have hx : Executes h 0x20 p m s c d v y := executes h1 h2 h3 h4 h5 h6 h7 h8 h9 h10 h11 h12 h13 h14 h15 h16 h17 h18
    subst ha
    exact hx.done_row ((execRx_message (.inl hx.type)).trans <| (execMatchRx_released hz hgood hck hhead hmsg).trans
      ((releaseHead_lostEager hq hlost hx.type).trans (by rw [eagerTook_headMsg]; rfl))) ht
  case fetches =>
    intro h p m r u w c x v d y z q o a r0 s t h1 h2 h3 h4 h5 h6 h7 h8 h9 h10 h11 h12 h13 h14 h15 h16 h17 h18 hz
      hgood hck hhead hmsg hq ho hlost hon hfit hroom ha ht
    have hx : Executes h 0x21 p m s c d v y := executes h1 h2 h3 h4 h5 h6 h7 h8 h9 h10 h11 h12 h13 h14 h15 h16 h17 h18
    exact hx.done_row ((execRx_message (.inr hx.type)).trans <| (execMatchRx_released hz hgood hck hhead hmsg).trans
      (releaseHead_fetches hq ho hlost hon hfit hx.type hroom ha)) ht
  case rtsFull | eagerFull =>
    intro h p m r u w c x v d y z q o r0 s t h1 h2 h3 h4 h5 h6 h7 h8 h9 h10 h11 h12 h13 h14 h15 h16 h17 h18 hz
      hgood hck hhead hmsg hq ho hlost hon hfit hends hfull ht
    have hx : Executes h _ p m s c d v y := executes h1 h2 h3 h4 h5 h6 h7 h8 h9 h10 h11 h12 h13 h14 h15 h16 h17 h18
    exact hx.receiverNotReady_row ((execRx_message (by simp [hx.type])).trans <| (execMatchRx_released hz hgood hck hhead hmsg).trans
      (releaseHead_full hq ho hlost hon hfit (by simpa [hx.type] using hends) hfull)) ht
  case written =>
    intro h p m r u w c x v d y z q o a r0 j b s t h1 h2 h3 h4 h5 h6 h7 h8 h9 h10 h11 h12 h13 h14 h15 h16 h17 h18 hz
      hgood hck hhead hmsg hq ho hlost hon hfit ha hj hroom hw ht
    have hx : Executes h 0x20 p m s c d v y := executes h1 h2 h3 h4 h5 h6 h7 h8 h9 h10 h11 h12 h13 h14 h15 h16 h17 h18
    exact hx.done_row ((execRx_message (.inl hx.type)).trans <| (execMatchRx_released hz hgood hck hhead hmsg).trans
      ((releaseHead_written hq ho hlost hon hfit hx.type ha hj hroom hw).trans
      (by rw [eagerTook_headMsg]; rfl))) ht
  case writeFails =>
    intro h p m r u w c x v d y z q o a r0 j k b s t h1 h2 h3 h4 h5 h6 h7 h8 h9 h10 h11 h12 h13 h14 h15 h16 h17 h18 hz
      hgood hck hhead hmsg hq ho hlost hon hfit ha hj hroom hw ht
    have hx : Executes h 0x20 p m s c d v y := executes h1 h2 h3 h4 h5 h6 h7 h8 h9 h10 h11 h12 h13 h14 h15 h16 h17 h18
    exact hx.done_row ((execRx_message (.inl hx.type)).trans <| (execMatchRx_released hz hgood hck hhead hmsg).trans
      (releaseHead_writeFails hq ho hlost hon hfit hx.type ha hj hroom hw)) ht
  case rtsStored =>
    intro h p m r u w c x v d y z q o a b s t h1 h2 h3 h4 h5 h6 h7 h8 h9 h10 h11 h12 h13 h14 h15 h16 h17 h18 hz
      hgood hck hhead hmsg hq ho hlost hon hfit hplace ha hb ht
    have hx : Executes h 0x21 p m s c d v y := executes h1 h2 h3 h4 h5 h6 h7 h8 h9 h10 h11 h12 h13 h14 h15 h16 h17 h18
    have ho' : o = chanOf q h c := by rw [ho, hq]; exact (chanOf_released h c y).symm
    exact hx.done_row ((execRx_message (.inr hx.type)).trans <| (execMatchRx_released hz hgood hck hhead hmsg).trans
      ((releaseHead_unmatched hq ho hlost hon hfit).trans
      ((storeHead_entry hplace (.inl hx.type) ho' (ha ▸ hb)).trans (by rw [if_pos hx.type, ha]; rfl)))) ht
  case entryStored =>
    intro h p m r u w c x v d y z q o a b s t h1 h2 h3 h4 h5 h6 h7 h8 h9 h10 h11 h12 h13 h14 h15 h16 h17 h18 hz
      hgood hck hhead hmsg hq ho hlost hon hfit hplace ha hb hlen ht
    have hx : Executes h 0x20 p m s c d v y := executes h1 h2 h3 h4 h5 h6 h7 h8 h9 h10 h11 h12 h13 h14 h15 h16 h17 h18
    have notRts : p.ptype ≠ 0x21 := by simp [hx.type]
    have ho' : o = chanOf q h c := by rw [ho, hq]; exact (chanOf_released h c y).symm
    exact hx.done_row ((execRx_message (.inl hx.type)).trans <| (execMatchRx_released hz hgood hck hhead hmsg).trans
      ((releaseHead_unmatched hq ho hlost hon hfit).trans
      ((storeHead_entry hplace (.inr hlen) ho' (ha ▸ hb)).trans (by rw [if_neg notRts, ha]; rfl)))) ht
  case slotStored =>
    intro h p m r u w c x v d y z q o k b g f s t h1 h2 h3 h4 h5 h6 h7 h8 h9 h10 h11 h12 h13 h14 h15 h16 h17 h18 hz
      hgood hck hhead hmsg hq ho hlost hon hfit hplace hlen hslot hb hg hf ht
    have hx : Executes h 0x20 p m s c d v y := executes h1 h2 h3 h4 h5 h6 h7 h8 h9 h10 h11 h12 h13 h14 h15 h16 h17 h18
    have notRts : p.ptype ≠ 0x21 := by simp [hx.type]
    have ho' : o = chanOf q h c := by rw [ho, hq]; exact (chanOf_released h c y).symm
    exact hx.done_row ((execRx_message (.inl hx.type)).trans <| (execMatchRx_released hz hgood hck hhead hmsg).trans
      ((releaseHead_unmatched hq ho hlost hon hfit).trans
      ((storeHead_slot hplace notRts hlen hslot ho' (hb ▸ hg)).trans (by rw [eagerTook_headMsg, hf]; rfl)))) ht
  case noMessage =>
    intro h p m r u w c x v d y z s t h1 h2 h3 h4 h5 h6 h7 h8 h9 h10 h11 h12 h13 h14 h15 h16 h17 h18 hz
      hgood hck hlater hmsg ht
    have hx : Executes h 0x20 p m s c d v y := executes h1 h2 h3 h4 h5 h6 h7 h8 h9 h10 h11 h12 h13 h14 h15 h16 h17 h18
    exact hx.bad_row ((execRx_message (.inl hx.type)).trans (execMatchRx_noMessage hz hgood hck hlater hmsg)) ht
  case onToSlot =>
    intro h p m r u w c x v d y z g k b s t h1 h2 h3 h4 h5 h6 h7 h8 h9 h10 h11 h12 h13 h14 h15 h16 h17 h18 hz
      hgood hck hmsg hd hb ht
    have hx : Executes h 0x20 p m s c d v y := executes h1 h2 h3 h4 h5 h6 h7 h8 h9 h10 h11 h12 h13 h14 h15 h16 h17 h18
    subst hb
    exact hx.done_row ((execRx_message (.inl hx.type)).trans <|
      (execMatchRx_goesOn hz hgood hck hmsg).trans (deliverEager_slot hd)) ht
  case onToReceive =>
    intro h p m r u w c x v d y z g j i b s t h1 h2 h3 h4 h5 h6 h7 h8 h9 h10 h11 h12 h13 h14 h15 h16 h17 h18 hz
      hgood hck hmsg hd hj hroom hw ht
    have hx : Executes h 0x20 p m s c d v y := executes h1 h2 h3 h4 h5 h6 h7 h8 h9 h10 h11 h12 h13 h14 h15 h16 h17 h18
    exact hx.done_row ((execRx_message (.inl hx.type)).trans <| (execMatchRx_goesOn hz hgood hck hmsg).trans
      (deliverEager_written hd hj hroom hw)) ht
  case ends =>
    intro h p m r u w c x v d y z j b s t h1 h2 h3 h4 h5 h6 h7 h8 h9 h10 h11 h12 h13 h14 h15 h16 h17 h18 hz
      hgood hck hb hj hdisc ht
    have hx : Executes h 0x22 p m s c d v y := executes h1 h2 h3 h4 h5 h6 h7 h8 h9 h10 h11 h12 h13 h14 h15 h16 h17 h18
    exact hx.done_row ((execRx_rndvDone hx.type).trans (execDoneRx_ends hz hgood hck hb hj hdisc)) ht
  case discarded =>
    intro h p m r u w c x v d y z j b s t h1 h2 h3 h4 h5 h6 h7 h8 h9 h10 h11 h12 h13 h14 h15 h16 h17 h18 hz
      hgood hck hb hj hdisc ht
    have hx : Executes h 0x22 p m s c d v y := executes h1 h2 h3 h4 h5 h6 h7 h8 h9 h10 h11 h12 h13 h14 h15 h16 h17 h18
    exact hx.done_row ((execRx_rndvDone hx.type).trans (execDoneRx_discarded hz hgood hck hb hj hdisc)) ht
  case stray =>
    intro h p m r u w c x v d y z b s t h1 h2 h3 h4 h5 h6 h7 h8 h9 h10 h11 h12 h13 h14 h15 h16 h17 h18 hz
      hgood hck hb hj ht
    have hx : Executes h 0x22 p m s c d v y := executes h1 h2 h3 h4 h5 h6 h7 h8 h9 h10 h11 h12 h13 h14 h15 h16 h17 h18
    exact hx.done_row ((execRx_rndvDone hx.type).trans (execDoneRx_stray hz hgood hck hb hj)) ht
  case eagerUnreliable | rtsUnreliable | doneUnreliable =>
    intro h p m r u w c x v s t h1 h2 h3 h4 h5 h6 h7 hinc hsrc hrel ht
    have htype := (Accepted.mk h1 h2 h3 h4 h5 h6 h7).type
    exact RowLeaves.of_eq ((request_unreliable h1 h2 h3 h4 h5 h6 h7 hinc hsrc hrel).trans
      (congrArg _ (acceptUnrel_message (by simp [htype])))) ht
  case eagerDropped | rtsDropped | doneDropped => intros; apply dropped_row <;> assumption
  case eagerUncached | rtsUncached | doneUncached => intros; apply uncached_row <;> assumption
  case eagerIncarnation | rtsIncarnation | doneIncarnation => intros; apply otherIncarnation_row <;> assumption
  case eagerSource | rtsSource | doneSource => intros; apply otherSource_row <;> assumption
  case eagerInError | rtsInError | doneInError => intros; apply inError_row <;> assumption
  case eagerBeyond | rtsBeyond | doneBeyond => intros; apply beyond_row <;> assumption
  case eagerBusy | rtsBusy | doneBusy => intros; apply busy_row <;> assumption
  case eagerHeld | rtsHeld | doneHeld => intros; apply heldBack_row <;> assumption
  case eagerNotAlive | rtsNotAlive | doneNotAlive => intros; apply notAlive_row <;> assumption
  case eagerAgain | rtsAgain | doneAgain =>
    intros; apply acknowledgedAgain_row (hread := by decide) (hatomic := by decide) <;> assumption

end Sys2Proof.Proofs
end

section
/-! PROOFS. The matching jobs: SEND, POST_RECV and MATCH_RESET (O39: R249, R278, R279, R286, R287, R293, R294). -/

namespace Sys2Proof.Proofs
open Sys2Proof.Machine Sys2Proof.Laws

section
variable {h q : Nat} {i : Word} {j : Job} {s : State} {m : HostView} (hup : hostUp s h = true)
include hup

theorem effSend_begins (hj : freshJob s h q i 0x20 = some j) : effSend h q i m s =
    stepTx h { j with begun := true } (viewOf m s) (updJob h j.id (fun k => { k with begun := true }) s) := by
  simp [effSend, jobRow_begins hup hj, beginJob, stepJob, opcode_of_freshJob hj]

theorem effPostRecv_begins (hj : freshJob s h q i 0x21 = some j) : effPostRecv h q i m s =
    stepRecv h { j with begun := true } (viewOf m s) (updJob h j.id (fun k => { k with begun := true }) s) := by
  simp [effPostRecv, jobRow_begins hup hj, beginJob, stepJob, opcode_of_freshJob hj]

theorem effMatchReset_begins (hj : freshJob s h q i 0x22 = some j) : effMatchReset h q i s =
    stepMatchReset h { j with begun := true } (updJob h j.id (fun k => { k with begun := true }) s) := by
  simp [effMatchReset, jobRow_begins hup hj, beginJob, stepJob, opcode_of_freshJob hj]

end

/-! ### SEND (R249, R278) -/

section
variable {h : Nat} {j : Job} {v : View} {s u w : State} (hready : j.ready = false)
include hready

theorem stepTx_refused {d : Nat} (hchan : j.chan = 0) (hd : chanRefuses s h j = some d) :
    stepTx h j v s = finishJob h j 0x22 0 d s := by
  simp [stepTx, hready, hchan, hd]

variable (hmay : (if j.chan = 0 then chanRefuses s h j else none) = none) (hu : u = joinLine h j s)
  (hop : Job.opcode j = 0x20)
include hmay hu hop

theorem stepTx_sendReady
    (hck : (if Job.inl j then (.ok (), u) else checkLocal h j .localRead v u) = (.ok (), w)) : stepTx h j v s =
    runChan h (Job.chanNo j) v (updJob h j.id (fun k => { k with
      ready := true, rndv := decide (Job.subop j = 1 ∨ eagerLimit w h < lengthOfJob j) }) (stopWait h (.job j.id) w)) := by
  subst hu
  simp only [stepTx, hready, Bool.false_eq_true, if_false, hmay]
  simp [hop, hck]

theorem stepTx_sendFails {a : Acc Unit}
    (hck : (if Job.inl j then (.ok (), u) else checkLocal h j .localRead v u) = (a, w)) (ha : a ≠ .ok ()) :
    stepTx h j v s = failAcc h j 0 a w := by
  subst hu
  simp only [stepTx, hready, Bool.false_eq_true, if_false, hmay]
  simp [hop, hck]

end

/-! ### POST_RECV (R279, R286, R294) -/

/-- The receive that a POST_RECV posts, with the posting sequence of the port as `e` has it. -/
def recvOf (h : Nat) (j : Job) (pd : BitVec 16) (e : State) : Recv :=
  { job := j.id, seq := (hport e h).postSeq, fn := (wqOf e h j.q).fn, pd := pd, tag := BitVec.ofNat 64 (u64 (Job.op j) 11),
    mask := BitVec.ofNat 64 (u64 (Job.op j) 8), comm := wAt (Job.op j) 13, rank := wAt (Job.op j) 14,
    any := bAt (Job.op j) 10 0, len := lengthOfJob j }

/-- The port as a POST_RECV searches it: the job ready, and a search of the tier counted where messages stand there. -/
def searched (h : Nat) (j : Job) (e : State) : State :=
  if inTier (updJob h j.id (fun j => { j with ready := true }) e) h = 0 then updJob h j.id (fun j => { j with ready := true }) e
  else inc (mtcCtr h 14) (updJob h j.id (fun j => { j with ready := true }) e)

/-- The port when a POST_RECV has taken an unexpected message out. -/
def tookUnexp (h : Nat) (j : Job) (u : Unexp) (f : State) : State :=
  uncover h j.id false (inc (mtcCtr h 4) (setUnexp h ((unexpAt f h).filter (fun y => y.seq ≠ u.seq)) f))

section
variable {h : Nat} {j : Job} {pd : BitVec 16} {v : View} {e f : State} {r : Recv} {u : Unexp}
  (hr : r = recvOf h j pd e) (hf : f = searched h j e)
include hr hf

theorem post_posted (hfit : (unexpAt f h).find? (fun u => fits r u.fn u.pd u.tag u.comm u.rank) = none) : post h j pd v e =
    uncover h j.id false (inc (mtcCtr h 5) (setPosted h (postedAt f h ++ [r])
      (updHost h (fun p => { p with postSeq := p.postSeq + 1 }) f))) := by
  subst hr hf
  simp only [recvOf, searched] at hfit ⊢
  simp only [post, hfit]

variable (hfit : (unexpAt f h).find? (fun u => fits r u.fn u.pd u.tag u.comm u.rank) = some u)
include hfit

theorem post_fetches {k : Nat × Word} (hrndv : u.rndv = some k) : post h j pd v e = fetchMsg h u.chan
    { job := j.id, orig := u.msn, tag := u.tag, comm := u.comm, rank := u.rank, addr := k.1, key := k.2, len := min u.len r.len,
      msgLen := u.len, left := min u.len r.len, unexp := true, late := u.late } v (tookUnexp h j u f) := by
  subst hr hf
  simp only [recvOf, searched] at hfit
  simp only [post, hfit, hrndv]
  rfl

variable (hrndv : u.rndv = none)
include hrndv

theorem post_empty (hslot : u.slot = none) : post h j pd v e =
    finishRecv h j 0 0 u.tag u.rank (flUnexpected true ||| flLate u.late) (tookUnexp h j u f) := by
  subst hr hf
  simp only [recvOf, searched] at hfit
  simp only [post, hfit, hrndv, hslot]
  rfl

variable {k : Nat} (hslot : u.slot = some k)
include hslot

theorem post_copies (hmsg : (chanOf (tookUnexp h j u f) h u.chan).msgs.find? (fun x => x.dest = .slot k) = none) :
    post h j pd v e = startCopy h
      { job := j.id, slot := k, len := u.len, tag := u.tag, rank := u.rank, flags := flUnexpected true ||| flLate u.late } v (tookUnexp h j u f) := by
  subst hr hf
  simp only [recvOf, searched, tookUnexp] at hfit hmsg ⊢
  simp only [post, hfit, hrndv, hslot, hmsg]

theorem post_goesOn {x : MsgRx}
    (hmsg : (chanOf (tookUnexp h j u f) h u.chan).msgs.find? (fun x => x.dest = .slot k) = some x) : post h j pd v e =
    putMsg h u.chan { x with dest := .both k j.id, flags := x.flags ||| flUnexpected true } true (tookUnexp h j u f) := by
  subst hr hf
  simp only [recvOf, searched, tookUnexp] at hfit hmsg ⊢
  simp only [post, hfit, hrndv, hslot, hmsg]

end

section
variable {h : Nat} {j : Job} {v : View} {s g a b : State} (hg : g = meetMatch h s)
include hg

theorem stepRecv_off (hoff : mtcOn g h = false) : stepRecv h j v s = malformed h j 10 g := by
  subst hg
  simp [stepRecv, hoff]

variable (hon : mtcOn g h = true)
include hon

theorem stepRecv_lost (hlost : (hport g h).lost = true) : stepRecv h j v s = finishJob h j 0x2A 0 0 g := by
  subst hg
  simp [stepRecv, hon, hlost]

variable (hlost : (hport g h).lost = false)
include hlost

theorem stepRecv_keyFails {k : Acc (List Word)}
    (hkey : failCount h false (checkKey h (wAt (Job.op j) 6) (u64 (Job.op j) 4) (wAt (Job.op j) 7).toNat .localWrite
      (jobWho g h j) v g) = (k, a))
    (hk : ∀ d, k ≠ .ok d) : stepRecv h j v s = failAcc h j 0 k a := by
  subst hg
  simp only [stepRecv, hon, Bool.not_true, Bool.false_eq_true, if_false, hlost, hkey]

variable {d : List Word}
  (hkey : failCount h false (checkKey h (wAt (Job.op j) 6) (u64 (Job.op j) 4) (wAt (Job.op j) 7).toNat .localWrite
    (jobWho g h j) v g) = (.ok d, a))
include hkey

theorem stepRecv_posts (hck : checkLocal h j .localWrite v a = (.ok (), b)) : stepRecv h j v s =
    post h j (BitVec.ofNat 16 (fAt d 1 16 16)) v (stopWait h (.job j.id) b) := by
  subst hg
  simp only [stepRecv, hon, Bool.not_true, Bool.false_eq_true, if_false, hlost, hkey, hck]

theorem stepRecv_bufferFails {k : Acc Unit} (hck : checkLocal h j .localWrite v a = (k, b)) (hk : k ≠ .ok ()) :
    stepRecv h j v s = failAcc h j 0 k b := by
  subst hg
  simp only [stepRecv, hon, Bool.not_true, Bool.false_eq_true, if_false, hlost, hkey, hck]

end

/-! ### MATCH_RESET (R293) -/

section
variable {h : Nat} {j : Job} {s a : State} {rv : List Unexp}

theorem stepMatchReset_scope (hsub : Job.subop j ≠ 2)
    (ha : a = dropPosted h 2 (fun r => r.fn == fAt (Job.op j) 12 0 8 && r.pd == BitVec.ofNat 16 (fAt (Job.op j) 11 0 16))
      (meetMatch h s))
    (hrv : rv = (unexpAt a h).filter (fun u =>
      (u.fn == fAt (Job.op j) 12 0 8 && u.pd == BitVec.ofNat 16 (fAt (Job.op j) 11 0 16)) && u.rndv.isSome)) :
    stepMatchReset h j s = finishJob h j 0 0 0
      (rv.foldl (fun s u => tellDiscarded h u.chan u.tag u.comm u.rank u.msn {} s) (dropUnexp h (fun u =>
        u.fn == fAt (Job.op j) 12 0 8 && u.pd == BitVec.ofNat 16 (fAt (Job.op j) 11 0 16)) a)) := by
  subst hrv ha
  simp [stepMatchReset, hsub]

theorem stepMatchReset_port (hsub : Job.subop j = 2) (ha : a = dropPosted h 2 (fun _ => true) (meetMatch h s))
    (hrv : rv = (unexpAt a h).filter (fun u => u.rndv.isSome)) : stepMatchReset h j s = finishJob h j 0 0 0
      (updHost h (fun p => { p with lost := false })
        (rv.foldl (fun s u => tellDiscarded h u.chan u.tag u.comm u.rank u.msn {} s) (dropUnexp h (fun _ => true) a))) := by
  subst hrv ha
  simp [stepMatchReset, hsub]

end

/-- Settles O39: each row begins the job, whose step is the SEND's turn in its channel's line, the posting of the receive, or the
reset of its scope. -/
theorem matchJobs : Obligations.MatchJobs := by
  unfold Obligations.MatchJobs
  refine ⟨?sends, ?sendFails, ?sendRefused, ?posted, ?emptyTaken, ?fetched, ?copied, ?goesOn, ?off, ?lost, ?keyFails,
    ?bufferFails, ?resetScope, ?resetPort, ?sendIdle, ?recvIdle, ?resetIdle⟩
  case sends =>
    intro h q i m j u w s t hup hj hready hmay hu hck ht
    refine clocked_runs fun _ => (effSend_begins hup hj).trans (Eq.trans ?_ ht.symm)
    exact stepTx_sendReady (j := { j with begun := true }) hready hmay hu ((opcode_begun j).trans (opcode_of_freshJob hj)) hck
  case sendFails =>
    intro h q i m j u w a s t hup hj hready hmay hu hck ha ht
    refine clocked_runs fun _ => (effSend_begins hup hj).trans (Eq.trans ?_ ht.symm)
    exact stepTx_sendFails (j := { j with begun := true }) hready hmay hu ((opcode_begun j).trans (opcode_of_freshJob hj)) hck ha
  case sendRefused =>
    intro h q i m j d s t hup hj hready hchan hd ht
    refine clocked_runs fun _ => (effSend_begins hup hj).trans (Eq.trans ?_ ht.symm)
    exact stepTx_refused (j := { j with begun := true }) hready hchan hd
  case posted =>
    intro h q i m j g a b e f d r s t hup hj hg hon hlost hkey hck he hr hf hfit ht
    refine clocked_runs fun _ => (effPostRecv_begins hup hj).trans (Eq.trans ?_ ht.symm)
    rw [stepRecv_posts (j := { j with begun := true }) hg hon hlost hkey hck, ← he]
    exact post_posted (j := { j with begun := true }) hr hf hfit
  case emptyTaken =>
    intro h q i m j g a b e f d r u s t hup hj hg hon hlost hkey hck he hr hf hfit hrndv hslot ht
    refine clocked_runs fun _ => (effPostRecv_begins hup hj).trans (Eq.trans ?_ ht.symm)
    rw [stepRecv_posts (j := { j with begun := true }) hg hon hlost hkey hck, ← he]
    exact post_empty (j := { j with begun := true }) hr hf hfit hrndv hslot
  case fetched =>
    intro h q i m j g a b e f d r u k s t hup hj hg hon hlost hkey hck he hr hf hfit hrndv ht
    refine clocked_runs fun _ => (effPostRecv_begins hup hj).trans (Eq.trans ?_ ht.symm)
    rw [stepRecv_posts (j := { j with begun := true }) hg hon hlost hkey hck, ← he]
    exact post_fetches (j := { j with begun := true }) hr hf hfit hrndv
  case copied =>
    intro h q i m j g a b e f d r u k s t hup hj hg hon hlost hkey hck he hr hf hfit hrndv hslot hmsg ht
    refine clocked_runs fun _ => (effPostRecv_begins hup hj).trans (Eq.trans ?_ ht.symm)
    rw [stepRecv_posts (j := { j with begun := true }) hg hon hlost hkey hck, ← he]
    exact post_copies (j := { j with begun := true }) hr hf hfit hrndv hslot hmsg
  case goesOn =>
    intro h q i m j g a b e f d r u k x s t hup hj hg hon hlost hkey hck he hr hf hfit hrndv hslot hmsg ht
    refine clocked_runs fun _ => (effPostRecv_begins hup hj).trans (Eq.trans ?_ ht.symm)
    rw [stepRecv_posts (j := { j with begun := true }) hg hon hlost hkey hck, ← he]
    exact post_goesOn (j := { j with begun := true }) hr hf hfit hrndv hslot hmsg
  case off =>
    intro h q i m j g s t hup hj hg hoff ht
    exact clocked_runs fun _ => (effPostRecv_begins hup hj).trans ((stepRecv_off hg hoff).trans ht.symm)
  case lost =>
    intro h q i m j g s t hup hj hg hon hlost ht
    exact clocked_runs fun _ => (effPostRecv_begins hup hj).trans ((stepRecv_lost hg hon hlost).trans ht.symm)
  case keyFails =>
    intro h q i m j g a k s t hup hj hg hon hlost hkey hk ht
    refine clocked_runs fun _ => (effPostRecv_begins hup hj).trans (Eq.trans ?_ ht.symm)
    exact stepRecv_keyFails (j := { j with begun := true }) hg hon hlost hkey (by rintro d rfl; cases hk)
  case bufferFails =>
    intro h q i m j g a b d k s t hup hj hg hon hlost hkey hck hk ht
    refine clocked_runs fun _ => (effPostRecv_begins hup hj).trans (Eq.trans ?_ ht.symm)
    exact stepRecv_bufferFails (j := { j with begun := true }) hg hon hlost hkey hck hk
  case resetScope =>
    intro h q i j a rv s t hup hj hsub ha hrv ht
    refine clocked_runs fun _ => (effMatchReset_begins hup hj).trans (Eq.trans ?_ ht.symm)
    exact stepMatchReset_scope (j := { j with begun := true }) hsub ha hrv
  case resetPort =>
    intro h q i j a rv s t hup hj hsub ha hrv ht
    refine clocked_runs fun _ => (effMatchReset_begins hup hj).trans (Eq.trans ?_ ht.symm)
    exact stepMatchReset_port (j := { j with begun := true }) hsub ha hrv
  case sendIdle | recvIdle =>
    rintro h q i m s _ hn rfl
    exact clocked_runs fun _ => jobRow_idle hn
  case resetIdle =>
    rintro h q i s _ hn rfl
    exact clocked_runs fun _ => jobRow_idle hn

end Sys2Proof.Proofs
end

section
/-! PROOFS. Acknowledgements, responses and the retransmission timer (O38: R243, R253, R264 to R266, R287). -/

namespace Sys2Proof.Proofs
open Sys2Proof.Machine Sys2Proof.Laws

/-! ### Acknowledgements (R253, R264, R265) -/

section
variable {h c : Nat} {p : Packet} {m : HostView} {s r : State}

theorem effAck_dropped (hr : respTest h 7 p s = (r, false)) : effAck h p m s = r := by
  unfold effAck
  rw [hr]
  rfl

/-- The ACK_PSN and SACK of an acknowledgement, applied. -/
def ackApplied (h c : Nat) (p : Packet) (s : State) : State := progress h c (Packet.extW p 2 0) (Packet.extW p 2 1) s

section
variable {q : State} (hr : respTest h 7 p s = (r, true)) (hc : c = p.chan.toNat)
include hr hc

theorem effAck_progresses (hcode : Packet.extF p 2 2 0 8 = 0) (hq : q = ackApplied h c p r) :
    effAck h p m s = runChan h c (viewOf m q) q := by
  subst hc hq
  unfold effAck
  rw [hr]
  simp [hcode, ackApplied]

variable (hnak : Packet.extF p 2 2 0 8 ≠ 0)
include hnak

theorem effAck_stalls
    (hmild : Packet.extF p 2 2 0 8 < 0x10 ∨
      (chanOf (inc (trnCtr h 5) r) h c).unacked.any (fun u => u.pkt.psn == p.psn) = false)
    (hq : q = stallOn h c p.psn (ackApplied h c p (inc (trnCtr h 5) r))) : effAck h p m s = runChan h c (viewOf m q) q := by
  subst hc hq
  have hend : ¬ (0x10 ≤ Packet.extF p 2 2 0 8 ∧
      (chanOf (inc (trnCtr h 5) r) h p.chan.toNat).unacked.any (fun u => u.pkt.psn == p.psn) = true) := by
    rintro ⟨hcode, hnamed⟩
    exact hmild.elim (fun hlow => by omega) (fun hno => Bool.false_ne_true (hno.symm.trans hnamed))
  unfold effAck
  rw [hr]
  simp only [Bool.not_true, Bool.false_eq_true, if_false, if_neg hnak, if_neg hend, ackApplied]

theorem effAck_refused (hcode : 0x10 ≤ Packet.extF p 2 2 0 8)
    (hnamed : (chanOf (inc (trnCtr h 5) r) h c).unacked.any (fun u => u.pkt.psn == p.psn) = true)
    (hq : q = refused h c p (inc (trnCtr h 5) r)) : effAck h p m s = runChan h c (viewOf m q) q := by
  subst hc hq
  unfold effAck
  rw [hr]
  simp only [Bool.not_true, Bool.false_eq_true, if_false, if_neg hnak, if_pos (And.intro hcode hnamed)]

end

/-- The channel when a NAK has taken the packet that it names from those outstanding and its ACK_PSN and SACK have been applied. -/
def nakApplied (h c : Nat) (p : Packet) (s : State) : State :=
  acknowledge h c (Packet.extW p 2 0) (Packet.extW p 2 1)
    (setChan h c { chanOf s h c with unacked := (chanOf s h c).unacked.filter (fun u => u.pkt.psn ≠ p.psn) } s)

theorem refused_access (hcode : Packet.extF p 2 2 0 8 = 0x10) : refused h c p s = trnCause h 2 (errorChan h c 2
    ((jobOfPsn (chanOf s h c) p.psn).map (fun j => (j, 0x21, Packet.extF p 2 2 8 8))) 0x20 0x22 0 (nakApplied h c p s)) := by
  simp [refused, hcode, nakApplied]

theorem refused_error (hcode : Packet.extF p 2 2 0 8 = 0x11) : refused h c p s = trnCause h 2 (errorChan h c 3
    ((jobOfPsn (chanOf s h c) p.psn).map (fun j => (j, 0x23, 0))) 0x20 0x22 0 (nakApplied h c p s)) := by
  simp [refused, hcode, nakApplied]

theorem refused_badRequest (hcode : Packet.extF p 2 2 0 8 = 0x12) : refused h c p s = trnCause h 2 (errorChan h c 4
    ((jobOfPsn (chanOf s h c) p.psn).map (fun j => (j, 0x24, 0))) 0x20 0x22 0 (nakApplied h c p s)) := by
  simp [refused, hcode, nakApplied]

/-! ### Responses (R264, R287) -/

theorem effReadResp_dropped (hr : respTest h 4 p s = (r, false)) : effReadResp h p m s = r := by
  unfold effReadResp
  rw [hr]
  rfl

theorem effReadResp_accepted (hr : respTest h 4 p s = (r, true)) :
    effReadResp h p m s = response h 4 3 p (viewOf m r) r := by
  unfold effReadResp
  rw [hr]
  rfl

theorem effAtomicResp_dropped (hr : respTest h 6 p s = (r, false)) : effAtomicResp h p m s = r := by
  unfold effAtomicResp
  rw [hr]
  rfl

theorem effAtomicResp_accepted (hr : respTest h 6 p s = (r, true)) :
    effAtomicResp h p m s = response h 6 5 p (viewOf m r) r := by
  unfold effAtomicResp
  rw [hr]
  rfl

end

section
variable {h c : Nat} {p : Packet} {v : View} {r : State} {ty req : Byte} (hc : c = p.chan.toNat)
include hc

theorem response_stray
    (hu : (chanOf r h c).unacked.find? (fun u => u.pkt.psn == p.psn && u.pkt.ptype == req) = none) :
    response h ty req p v r = trnStale h 19 r := by
  subst hc
  simp only [response, hu]

variable {u : TxPkt} (hu : (chanOf r h c).unacked.find? (fun u => u.pkt.psn == p.psn && u.pkt.ptype == req) = some u)
include hu

variable {bs : List Byte}
  (hbs : bs = if ty = 4 then p.payload else leBytes u.len ((Packet.extW p 1 4).toNat + 2 ^ 32 * (Packet.extW p 1 5).toNat))
include hbs

theorem response_otherLength (hlen : bs.length ≠ u.len) : response h ty req p v r = trnStale h 19 r := by
  subst hc hbs
  simp only [response, hu, if_pos hlen]

theorem response_data (hlen : bs.length = u.len) : response h ty req p v r = respData h c u p bs v r := by
  subst hc hbs
  simp only [response, hu, hlen, ne_eq, not_true_eq_false, if_false]

end

section
variable {h c : Nat} {u : TxPkt} {p : Packet} {bs : List Byte} {v : View} {r e w : State} {j : Job}

theorem respData_noJob (hj : (jobOfPsn (chanOf r h c) u.pkt.psn).bind (jobOf r h) = none) :
    respData h c u p bs v r = respDone h c u p v r := by simp only [respData, hj]

section
variable (hj : (jobOfPsn (chanOf r h c) u.pkt.psn).bind (jobOf r h) = some j)
include hj

theorem respData_lost (he : meetDie (boleOf h) (eccTx h) j.id r = (e, false)) :
    respData h c u p bs v r = stopWait h (.resp p) e := by
  simp only [respData, hj, he, Bool.not_false, if_true]

variable (he : meetDie (boleOf h) (eccTx h) j.id r = (e, true))
include he

theorem respData_written (hw : writeLocal h j u.off bs (viewFor h (.resp p) v e) e = (.ok (), w)) :
    respData h c u p bs v r = respDone h c u p v w := by
  simp only [respData, hj, he, Bool.not_true, Bool.false_eq_true, if_false, hw]

theorem respData_waits {n : Need} (hw : writeLocal h j u.off bs (viewFor h (.resp p) v e) e = (.wait n, w)) :
    respData h c u p bs v r = waitFor h (.resp p) n w := by
  simp only [respData, hj, he, Bool.not_true, Bool.false_eq_true, if_false, hw]

variable {k : Nat} (hw : writeLocal h j u.off bs (viewFor h (.resp p) v e) e = (.fail k, w))
include hw

theorem respData_jobFails (hown : u.job ≠ none) : respData h c u p bs v r = respDone h c u p v
    (failAcc h j j.acked (.fail k : Acc Unit) (updChan h c (fun x => { x with
      toSend := x.toSend.filter (fun y => y.job ≠ some j.id), line := x.line.filter (· ≠ .job j.id) }) w)) := by
  obtain ⟨i, hi⟩ := Option.ne_none_iff_exists'.mp hown
  simp only [respData, hj, he, Bool.not_true, Bool.false_eq_true, if_false, hw, hi]

theorem respData_fetchFails {f : Fetch} (hown : u.job = none)
    (hf : (chanOf w h c).fetches.find? (fun f => u.fetch == some f.orig) = some f) : respData h c u p bs v r =
    respDone h c u p v (mtcCause h 5 (failRecv h j.id (if k = 12 ∨ k = 13 then 0x48 else 0x11) (f.len - f.left) k
      (fetchFlags f) (updChan h c (fun x => { x with
        fetches := x.fetches.filter (fun g => g.orig != f.orig), toSend := x.toSend.filter (fun y => y.fetch != some f.orig),
        line := x.line.filter (· ≠ .fetch f.orig) }) w))) := by
  simp only [respData, hj, he, Bool.not_true, Bool.false_eq_true, if_false, hw, hown, hf, accStatus]

end

end

section
variable {h c : Nat} {p : Packet} {m : HostView} {s r : State} {u : TxPkt} {bs : List Byte} (hc : c = p.chan.toNat)
include hc

theorem effReadResp_data (hr : respTest h 4 p s = (r, true))
    (hu : (chanOf r h c).unacked.find? (fun u => u.pkt.psn == p.psn && u.pkt.ptype == 3) = some u) (hbs : bs = p.payload)
    (hlen : bs.length = u.len) : effReadResp h p m s = respData h c u p bs (viewOf m r) r :=
  (effReadResp_accepted hr).trans (response_data hc hu hbs hlen)

theorem effAtomicResp_data (hr : respTest h 6 p s = (r, true))
    (hu : (chanOf r h c).unacked.find? (fun u => u.pkt.psn == p.psn && u.pkt.ptype == 5) = some u)
    (hbs : bs = leBytes u.len ((Packet.extW p 1 4).toNat + 2 ^ 32 * (Packet.extW p 1 5).toNat))
    (hlen : bs.length = u.len) : effAtomicResp h p m s = respData h c u p bs (viewOf m r) r :=
  (effAtomicResp_accepted hr).trans (response_data hc hu hbs hlen)

end

/-! ### The retransmission timer (R265, R266) -/

section
variable {h c : Nat} {m : HostView} {s u w : State} {x : Chan} (hu : u = meetCtx h c s) (hx : x = chanOf u h c)
include hu hx

theorem effRetransmitTimeout_idle
    (hn : hostUp u h = false ∨ (x.st ≠ .active ∧ x.st ≠ .draining) ∨ x.timer = false ∨ x.unacked = []) :
    effRetransmitTimeout h c m s = u := by
  subst hx hu
  refine if_pos ?_
  simp only [Bool.not_eq_true']
  tauto

section
variable (hup : hostUp u h = true) (hst : x.st = .active ∨ x.st = .draining) (htimer : x.timer = true) (hout : x.unacked ≠ [])
include hup hst htimer hout

theorem effRetransmitTimeout_exhausted (hlimit : x.limit ≤ x.backoff) :
    effRetransmitTimeout h c m s = retryExhausted h c (inc (trnCtr h 3) u) := by
  subst hx hu
  refine (if_neg ?_).trans (if_pos hlimit)
  simp only [Bool.not_eq_true', hup, htimer]
  tauto

theorem effRetransmitTimeout_resends (hlimit : x.backoff < x.limit)
    (hw : w = setChan h c { x with
      backoff := x.backoff + 1, stall := false, unacked := x.unacked.map (fun u => { u with redo := !u.sack }) }
      (inc (trnCtr h 3) u)) :
    effRetransmitTimeout h c m s = pumpAll h c (resendAll h c (viewFor h (.again c) (viewOf m s) w) w) := by
  subst hw hx hu
  refine (if_neg ?_).trans (if_neg (not_le.mpr hlimit))
  simp only [Bool.not_eq_true', hup, htimer]
  tauto

end

end

/-- Settles O38: the tests let a packet through or not; one that they let through is an acknowledgement, a refusal or a response,
each with its own step, and the timer has its own. -/
theorem acknowledgements : Obligations.Acknowledgements := by
  unfold Obligations.Acknowledgements
  refine ⟨?ack, ?ackDropped, ?stalls, ?refusedAccess, ?refusedError, ?refusedBad,
    ?readDropped, ?readStray, ?readNoJob, ?readLost, ?readWritten, ?readWaits, ?readJobFails, ?readOtherLength, ?readFetchFails,
    ?atomicDropped, ?atomicStray, ?atomicNoJob, ?atomicLost, ?atomicWritten, ?atomicWaits, ?atomicJobFails,
    ?exhausted, ?idle, ?resends⟩
  case ack =>
    intro h p m r c q s t hr hc hcode hq ht
    exact clocked_runs fun _ => (effAck_progresses hr hc hcode hq).trans ht.symm
  case ackDropped =>
    intro h p m r s t hr ht
    exact clocked_runs fun _ => (effAck_dropped hr).trans ht.symm
  case stalls =>
    intro h p m r c q s t hr hc hnak hmild hq ht
    exact clocked_runs fun _ => (effAck_stalls hr hc hnak hmild hq).trans ht.symm
  case refusedAccess =>
    intro h p m r c q s t hr hc hcode hnamed hq ht
    have hend := hq.trans (refused_access hcode).symm
    exact clocked_runs fun _ => (effAck_refused hr hc (by omega) (by omega) hnamed hend).trans ht.symm
  case refusedError =>
    intro h p m r c q s t hr hc hcode hnamed hq ht
    have hend := hq.trans (refused_error hcode).symm
    exact clocked_runs fun _ => (effAck_refused hr hc (by omega) (by omega) hnamed hend).trans ht.symm
  case refusedBad =>
    intro h p m r c q s t hr hc hcode hnamed hq ht
    have hend := hq.trans (refused_badRequest hcode).symm
    exact clocked_runs fun _ => (effAck_refused hr hc (by omega) (by omega) hnamed hend).trans ht.symm
  case readDropped =>
    intro h p m r s t hr ht
    exact clocked_runs fun _ => (effReadResp_dropped hr).trans ht.symm
  case readStray =>
    intro h p m r c s t hr hc hu ht
    exact clocked_runs fun _ => (effReadResp_accepted hr).trans ((response_stray hc hu).trans ht.symm)
  case readNoJob =>
    intro h p m r c u bs s t hr hc hu hbs hlen hj ht
    exact clocked_runs fun _ => (effReadResp_data hc hr hu hbs hlen).trans
      ((respData_noJob hj).trans ht.symm)
  case readLost =>
    intro h p m r c u bs j e s t hr hc hu hbs hlen hj he ht
    exact clocked_runs fun _ => (effReadResp_data hc hr hu hbs hlen).trans
      ((respData_lost hj he).trans ht.symm)
  case readWritten =>
    intro h p m r c u bs j e w s t hr hc hu hbs hlen hj he hw ht
    exact clocked_runs fun _ => (effReadResp_data hc hr hu hbs hlen).trans
      ((respData_written hj he hw).trans ht.symm)
  case readWaits =>
    intro h p m r c u bs j n e w s t hr hc hu hbs hlen hj he hw ht
    exact clocked_runs fun _ => (effReadResp_data hc hr hu hbs hlen).trans
      ((respData_waits hj he hw).trans ht.symm)
  case readJobFails =>
    intro h p m r c u bs j k e w s t hr hc hu hbs hlen hj he hown hw ht
    exact clocked_runs fun _ => (effReadResp_data hc hr hu hbs hlen).trans
      ((respData_jobFails hj he hw hown).trans ht.symm)
  case readOtherLength =>
    intro h p m r c u bs s t hr hc hu hbs hlen ht
    exact clocked_runs fun _ => (effReadResp_accepted hr).trans ((response_otherLength hc hu hbs hlen).trans ht.symm)
  case readFetchFails =>
    intro h p m r c u bs j k f e w s t hr hc hu hbs hlen hj he hown hf hw ht
    exact clocked_runs fun _ => (effReadResp_data hc hr hu hbs hlen).trans
      ((respData_fetchFails hj he hw hown hf).trans ht.symm)
  case atomicDropped =>
    intro h p m r s t hr ht
    exact clocked_runs fun _ => (effAtomicResp_dropped hr).trans ht.symm
  case atomicStray =>
    intro h p m r c s t hr hc hu ht
    exact clocked_runs fun _ => (effAtomicResp_accepted hr).trans ((response_stray hc hu).trans ht.symm)
  case atomicNoJob =>
    intro h p m r c u bs s t hr hc hu hbs hlen hj ht
    exact clocked_runs fun _ => (effAtomicResp_data hc hr hu hbs hlen).trans
      ((respData_noJob hj).trans ht.symm)
  case atomicLost =>
    intro h p m r c u bs j e s t hr hc hu hbs hlen hj he ht
    exact clocked_runs fun _ => (effAtomicResp_data hc hr hu hbs hlen).trans
      ((respData_lost hj he).trans ht.symm)
  case atomicWritten =>
    intro h p m r c u bs j e w s t hr hc hu hbs hlen hj he hw ht
    exact clocked_runs fun _ => (effAtomicResp_data hc hr hu hbs hlen).trans
      ((respData_written hj he hw).trans ht.symm)
  case atomicWaits =>
    intro h p m r c u bs j n e w s t hr hc hu hbs hlen hj he hw ht
    exact clocked_runs fun _ => (effAtomicResp_data hc hr hu hbs hlen).trans
      ((respData_waits hj he hw).trans ht.symm)
  case atomicJobFails =>
    intro h p m r c u bs j k e w s t hr hc hu hbs hlen hj he hown hw ht
    exact clocked_runs fun _ => (effAtomicResp_data hc hr hu hbs hlen).trans
      ((respData_jobFails hj he hw hown).trans ht.symm)
  case exhausted =>
    intro h c m u x s t hu hx hup hst htimer hout hlimit ht
    exact clocked_runs fun _ => (effRetransmitTimeout_exhausted hu hx hup hst htimer hout hlimit).trans ht.symm
  case idle =>
    intro h c m u x s t hu hx hn ht
    exact clocked_runs fun _ => (effRetransmitTimeout_idle hu hx hn).trans ht.symm
  case resends =>
    intro h c m u w x s t hu hx hup hst htimer hout hlimit hw ht
    exact clocked_runs fun _ => (effRetransmitTimeout_resends hu hx hup hst htimer hout hlimit hw).trans ht.symm

end Sys2Proof.Proofs
end

section
/-! PROOFS. CHAN_QUERY writes where its address leads, to the host port or to scratch memory (O35: R243, R355). -/

namespace Sys2Proof.Proofs
open Sys2Proof.Machine Sys2Proof.Laws

theorem effChanQuery_begins {h q : Nat} {i : Word} {j : Job} {s : State} (hup : hostUp s h = true)
    (hj : freshJob s h q i 0x6B = some j) : effChanQuery h q i s =
    stepChanQuery h { j with begun := true } (updJob h j.id (fun k => { k with begun := true }) s) := by
  simp [effChanQuery, jobRow_begins hup hj, beginJob, stepJob, opcode_of_freshJob hj]

/-- What a CHAN_QUERY reports: the summary of its channel, or zeros for an absent one. -/
def chanReport (s : State) (h c : Nat) : List Word :=
  if (chanOf s h c).st = .absent then List.replicate 16 0 else chanSummary s h c

@[simp] theorem length_wBytes_chanReport (s : State) (h c : Nat) : (wBytes (chanReport s h c)).length = 64 := by
  unfold chanReport
  split
  · rfl
  · simp [wBytes, chanSummary, padW, Function.comp_def]

section
variable {b h fn a n : Nat} {relax : Bool} {bs : List Byte} {s : State}

/-- Addresses that lie in no BAR4 range make one run. -/
theorem runs_outside (hn : 0 < n) (hout : ∀ i < n, bar4At s b (a + i) = none) : runs n s b a n = [(a, n)] := by
  obtain ⟨m, rfl⟩ : ∃ m, n = m + 1 := ⟨n - 1, by omega⟩
  have start : bar4At s b a = none := hout 0 hn
  have whole : (List.range (m + 1)).takeWhile (fun i =>
      (bar4At s b (a + i)).map (fun x => (x.1, x.2.1, (scrOff s b x.2.1 x.2.2).isSome)) ==
        (bar4At s b a).map (fun x => (x.1, x.2.1, (scrOff s b x.2.1 x.2.2).isSome))) = List.range (m + 1) :=
    List.takeWhile_eq_self_iff.mpr fun i hi => by simp [hout i (List.mem_range.mp hi), start]
  have rest (k : Nat) : runs m s b k 0 = [] := by cases m <;> rfl
  simp [runs, whole, rest]

theorem wrAllowed_outside (hn : 0 < n) (hout : ∀ i < n, bar4At s (boleOf h) (a + i) = none) :
    wrAllowed h fn a n s = true := by
  simp [wrAllowed, runs_outside hn hout, show bar4At s (boleOf h) a = none from hout 0 hn]

/-- An engine write to addresses that lie in no BAR4 range leaves on the host port (R355). -/
theorem wrBus_outside (hn : 0 < bs.length) (hout : ∀ i < bs.length, bar4At s (boleOf h) (a + i) = none) :
    wrBus h fn relax a bs s = hostWr h fn a bs relax s := by
  simp [wrBus, runs_outside hn hout, wrRun, show bar4At s (boleOf h) a = none from hout 0 hn]

end

section
variable {h c : Nat} {j : Job} {s : State} (hc : c = fAt (Job.op j) 11 0 24) (halign : u64 (Job.op j) 4 % 64 = 0)
  (hown : (chanOf s h c).st = .absent ∨ mayActFor (wqOf s h j.q) (chanOf s h c).fn = true)
include hc halign hown

/-- A CHAN_QUERY whose function may write its address writes its report to that bus address. -/
theorem stepChanQuery_writes (hmay : wrAllowed h (wqOf s h j.q).fn (u64 (Job.op j) 4) 64 s = true) : stepChanQuery h j s =
    finishJob h j 0 64 0 (wrBus h (wqOf s h j.q).fn true (u64 (Job.op j) 4) (wBytes (chanReport s h c)) s) := by
  subst hc
  have hother : ¬ ((chanOf s h (fAt (Job.op j) 11 0 24)).st ≠ .absent ∧
      (!mayActFor (wqOf s h j.q) (chanOf s h (fAt (Job.op j) 11 0 24)).fn) = true) := by
    rintro ⟨hpresent, hnot⟩
    exact hown.elim hpresent (fun hacts => by simp [hacts] at hnot)
  simp only [stepChanQuery, halign, ne_eq, not_true_eq_false, if_false, if_neg hother, hmay, Bool.not_true,
    Bool.false_eq_true, chanReport]

/-- The clauses of O35 on CHAN_QUERY, for an address in no BAR4 range. -/
theorem stepChanQuery_hostMemory (hout : ∀ i < 64, bar4At s (boleOf h) (u64 (Job.op j) 4 + i) = none) :
    stepChanQuery h j s = finishJob h j 0 64 0
      (hostWr h (wqOf s h j.q).fn (u64 (Job.op j) 4) (wBytes (chanReport s h c)) true s) := by
  rw [stepChanQuery_writes hc halign hown (wrAllowed_outside (by omega) hout), wrBus_outside (by simp) (by simpa using hout)]

end

/-- An issued CHAN_QUERY of queue 5, for the absent channel 2, with the address 0x800000. -/
def queryJob : Job :=
  { id := 1, h := 1, q := 5, idx := 0, ents := [[0x006B0000, 0, 0, 0, 0x800000, 0, 0, 0, 0, 0, 0, 2, 0, 0, 0, 0x80000000]] }

/-- Host port 1 is UP, `queryJob` of its queue 5 is issued, and the BAR4 range of its PF begins at 0x800000. -/
def queryIssued : State :=
  { State.reset with
    pw.dom := [81, 84, 85, 86, 87, 92].map (fun d => (d, { st := .on, wasOff := false }))
    pw.pllLock := 1
    hs.ports := [(1, { st := .up, jobs := [queryJob], bar4 := [(0, some 0x800000)] })]
    hs.wqs := [(objKey 20 1 5, { st := .active })] }

/-- `queryIssued` when its job has begun. -/
def queryBegun : State := updJob 1 1 (fun k => { k with begun := true }) queryIssued

/-- The CHAN_QUERY ends when its zeros have been written, which leaves `s`. -/
def queryEnds (s : State) : State := finishJob 1 { queryJob with begun := true } 0 64 0 s

/-- The writes that have left on a host port. -/
def hostWrites (s : State) : List Out := s.out.filter (fun o => match o with | .hostWrite .. => true | _ => false)

/-- Refutes O35 by its clause on the CHAN_QUERY of an absent channel, which has the 64 bytes leave on the host port. In
`queryIssued` the address lies in a BAR4 range: the zeros go to scratch memory and no host write leaves, as R355 wants. Where the
address lies in no BAR4 range the clauses on CHAN_QUERY hold (`stepChanQuery_hostMemory`). -/
theorem not_channelJobs : ¬ Obligations.ChannelJobs := by
  unfold Obligations.ChannelJobs
  rintro ⟨-, -, -, -, -, -, -, -, -, -, -, -, -, -, -, -, -, -, -, -, -, -, habsent, -⟩
  have up : hostUp queryIssued 1 = true := by decide +kernel
  have fresh : freshJob queryIssued 1 5 0 0x6B = some queryJob := by decide +kernel
  have absent : (chanOf queryBegun 1 2).st = .absent := by decide +kernel
  have stated : exec (.chanQuery 1 5 0) queryIssued =
      .next (queryEnds (hostWr 1 0 0x800000 (wBytes (List.replicate 16 0)) true queryBegun)) :=
    (habsent 1 5 0 queryJob 2 queryIssued _ up fresh (by decide) (by decide) absent rfl).2 (by decide +kernel)
  have runs : exec (.chanQuery 1 5 0) queryIssued =
      .next (queryEnds (wrBus 1 0 true 0x800000 (wBytes (chanReport queryBegun 1 2)) queryBegun)) := by
    refine (clocked_runs fun _ => (effChanQuery_begins up fresh).trans ?_).2 (by decide +kernel)
    exact stepChanQuery_writes (by decide) (by decide) (.inl absent) (by decide +kernel)
  have same := Host.Outcome.next.inj (stated.symm.trans runs)
  have leaves : (hostWrites (queryEnds (hostWr 1 0 0x800000 (wBytes (List.replicate 16 0)) true queryBegun))).length = 1 := by
    decide +kernel
  have stays : (hostWrites (queryEnds (wrBus 1 0 true 0x800000 (wBytes (chanReport queryBegun 1 2)) queryBegun))).length = 0 := by
    decide +kernel
  rw [same, stays] at leaves
  exact absurd leaves (by decide)

end Sys2Proof.Proofs
end

section
/-! PROOFS. Arming a trigger and cancelling triggers (O42: R300, R301, R305 to R307, R313). -/

namespace Sys2Proof.Proofs
open Sys2Proof.Machine Sys2Proof.Laws

/-- Meeting a counter's record leaves the queues (R25). -/
@[simp] theorem wqOf_meetCtr (h c q : Nat) (s : State) : wqOf (meetCtr h c s) h q = wqOf s h q := by
  unfold meetCtr
  extract_lets x
  split
  · simp [ectCause, loseCtr, setEvc, wqOf]
  · unfold eccMeet
    split <;> simp

/-! ### TRIG_ARM (R307) -/

/-- The records of the counters that a TRIG_ARM names have been met. -/
def armMet (h : Nat) (j : Job) (s : State) : State :=
  if bAt (Job.op j) 14 20 then
    meetCtr h (fAt (Job.op j) 11 16 16) (if Job.subop j = 1 then meetCtr h (fAt (Job.op j) 11 0 16) s else s)
  else (if Job.subop j = 1 then meetCtr h (fAt (Job.op j) 11 0 16) s else s)

theorem wqOf_armMet (h q : Nat) (j : Job) (s : State) : wqOf (armMet h j s) h q = wqOf s h q := by
  unfold armMet
  split <;> split <;> simp

/-- The status that a TRIG_ARM ends with before it reads its slot, where the counters' records have been met in `g`. -/
def armStatus (h : Nat) (j : Job) (g : State) : Option Nat :=
  let w := wqOf g h j.q
  if poolOn g h w.fn = false ∨ poolSlots g h w.fn ≤ fAt (Job.op j) 14 0 20 then some 0x3B
  else (if Job.subop j = 1 then ctrStatus g h w (fAt (Job.op j) 11 0 16) else none).or
    (if bAt (Job.op j) 14 20 then ctrStatus g h w (fAt (Job.op j) 11 16 16) else none)

/-- The entries and the header of a trigger have been written to its slot (R305, R307). -/
def slotArmed (h fn k : Nat) (j : Job) (a : State) : State :=
  let b := hostWr h fn (slotAddr a h fn k + 64) ((j.ents.drop 1).flatMap (fun e => wBytes (padW 16 e))) false a
  setSlot h fn k { st := 1, hdr := armHeader (Job.op j) j.q (j.ents.drop 1).length, ents := j.ents.drop 1 }
    (hostWr h fn (slotAddr b h fn k) (wBytes (armHeader (Job.op j) j.q (j.ents.drop 1).length)) false b)

/-- The threshold of a TRIG_ARM. -/
def armThreshold (j : Job) : BitVec 48 := BitVec.ofNat 48 (u64 (Job.op j) 12)

/-- The threshold of a COUNTER trigger lies before that of its counter's last trigger (R307). -/
def armLate (h : Nat) (j : Job) (a : State) : Bool :=
  (evc a h (fAt (Job.op j) 11 0 16)).tail.any (fun o =>
    decide (Job.subop j = 1) && decide (2 ^ 47 ≤ (armThreshold j - o.2).toNat))

/-- A TRIG_ARM of function `fn` goes on with the header `d` of its slot `k`. -/
def armSlot (h fn k : Nat) (j : Job) (d : List Word) (a : State) : State :=
  if wAt d 0 ≠ 0 then finishJob h j 0x3C 0 0 a
  else if armLate h j a then finishJob h j 0x3A 0 0 a
  else
    let c := fAt (Job.op j) 11 0 16
    let s := slotArmed h fn k j a
    let s := if Job.subop j = 1 then linkTrig h c fn k (armThreshold j) s else s
    let s := finishJob h j 0 0 0 (inc (ectCtr h 2) s)
    if Job.subop j = 1 then fire h c s else s

section
variable {h : Nat} {j : Job} {v : View} {s g : State} (hg : g = armMet h j s)
include hg

/-- A TRIG_ARM meets its tests, reads the header of its slot, and goes on with it. -/
theorem stepTrigArm_tests : stepTrigArm h j v s = match armStatus h j g with
    | some x => finishJob h j x 0 0 g
    | none =>
      match readSlot h (wqOf g h j.q).fn (fAt (Job.op j) 14 0 20) 16 (.job j.id) v g with
      | (.ok d, a) => armSlot h (wqOf g h j.q).fn (fAt (Job.op j) 14 0 20) j d a
      | (r, a) => failAcc h j 0 r a := by
  have hw : wqOf g h j.q = wqOf s h j.q := hg ▸ wqOf_armMet h j.q j s
  unfold stepTrigArm
  extract_lets f w fn k counter c t s1 s2 st
  have hmet : s2 = g := hg.symm
  have hst : st = armStatus h j g := by
    simp only [st, hmet, armStatus, hw, Bool.not_eq_true']
    congr 1
    cases (if counter then ctrStatus g h w c else none) <;> rfl
  rw [hst, hmet, hw]
  cases armStatus h j g with
  | some x => rfl
  | none =>
    dsimp only
    rcases readSlot h w.fn k 16 (.job j.id) v g with ⟨r, a⟩
    cases r with
    | ok d =>
      dsimp only
      unfold armSlot armLate
      cases (evc a h c).tail <;> rfl
    | _ => rfl

theorem stepTrigArm_ends {x : Nat} (hst : armStatus h j g = some x) : stepTrigArm h j v s = finishJob h j x 0 0 g := by
  rw [stepTrigArm_tests hg, hst]

variable {a : State} (hst : armStatus h j g = none)
include hst

theorem stepTrigArm_reads {d : List Word}
    (hread : readSlot h (wqOf g h j.q).fn (fAt (Job.op j) 14 0 20) 16 (.job j.id) v g = (.ok d, a)) :
    stepTrigArm h j v s = armSlot h (wqOf g h j.q).fn (fAt (Job.op j) 14 0 20) j d a := by
  rw [stepTrigArm_tests hg, hst, hread]

theorem stepTrigArm_unread {r : Acc (List Word)}
    (hread : readSlot h (wqOf g h j.q).fn (fAt (Job.op j) 14 0 20) 16 (.job j.id) v g = (r, a)) (hr : ∀ d, r ≠ .ok d) :
    stepTrigArm h j v s = failAcc h j 0 r a := by
  rw [stepTrigArm_tests hg, hst, hread]
  cases r with
  | ok d => exact absurd rfl (hr d)
  | _ => rfl

end

/-! The tests of a TRIG_ARM, in their order (R301, R307). -/

section
variable {h : Nat} {j : Job} {g : State}

theorem armStatus_noSlot
    (hpool : poolOn g h (wqOf g h j.q).fn = false ∨ poolSlots g h (wqOf g h j.q).fn ≤ fAt (Job.op j) 14 0 20) :
    armStatus h j g = some 0x3B := if_pos hpool

variable (hon : poolOn g h (wqOf g h j.q).fn = true) (hin : fAt (Job.op j) 14 0 20 < poolSlots g h (wqOf g h j.q).fn)
include hon hin

theorem armStatus_slot : armStatus h j g =
    (if Job.subop j = 1 then ctrStatus g h (wqOf g h j.q) (fAt (Job.op j) 11 0 16) else none).or
      (if bAt (Job.op j) 14 20 then ctrStatus g h (wqOf g h j.q) (fAt (Job.op j) 11 16 16) else none) :=
  if_neg (by simp [hon, hin])

theorem armStatus_counter {x : Nat} (hsub : Job.subop j = 1)
    (hx : ctrStatus g h (wqOf g h j.q) (fAt (Job.op j) 11 0 16) = some x) : armStatus h j g = some x := by
  simp [armStatus_slot hon hin, hsub, hx]

variable (hctr : Job.subop j = 1 → ctrStatus g h (wqOf g h j.q) (fAt (Job.op j) 11 0 16) = none)
include hctr

theorem armStatus_done {x : Nat} (hcounts : bAt (Job.op j) 14 20 = true)
    (hx : ctrStatus g h (wqOf g h j.q) (fAt (Job.op j) 11 16 16) = some x) : armStatus h j g = some x := by
  rw [armStatus_slot hon hin, ite_eq_right_iff.mpr hctr, if_pos hcounts, hx]
  rfl

theorem armStatus_passes (hdone : bAt (Job.op j) 14 20 = true →
    ctrStatus g h (wqOf g h j.q) (fAt (Job.op j) 11 16 16) = none) : armStatus h j g = none := by
  rw [armStatus_slot hon hin, ite_eq_right_iff.mpr hctr, ite_eq_right_iff.mpr hdone]
  rfl

end

/-! What a TRIG_ARM does with the header of its slot (R307). -/

section
variable {h fn k : Nat} {j : Job} {d : List Word} {a : State}

theorem armSlot_busy (hd : wAt d 0 ≠ 0) : armSlot h fn k j d a = finishJob h j 0x3C 0 0 a := if_pos hd

variable (hd : wAt d 0 = 0)
include hd

theorem armSlot_message (hsub : Job.subop j ≠ 1) : armSlot h fn k j d a =
    finishJob h j 0 0 0 (inc (ectCtr h 2) (slotArmed h fn k j a)) := by
  have hlate : armLate h j a = false := by simp [armLate, hsub]
  simp [armSlot, hd, hlate, hsub]

variable (hsub : Job.subop j = 1)
include hsub

theorem armSlot_late (hlate : (evc a h (fAt (Job.op j) 11 0 16)).tail.any (fun o =>
      decide (2 ^ 47 ≤ (BitVec.ofNat 48 (u64 (Job.op j) 12) - o.2).toNat)) = true) :
    armSlot h fn k j d a = finishJob h j 0x3A 0 0 a := by
  have hlate : armLate h j a = true := by
    unfold armLate armThreshold
    rw [decide_eq_true hsub]
    exact hlate
  simp [armSlot, hd, hlate]

theorem armSlot_counter (hlate : (evc a h (fAt (Job.op j) 11 0 16)).tail.all (fun o =>
      decide ((BitVec.ofNat 48 (u64 (Job.op j) 12) - o.2).toNat < 2 ^ 47)) = true) : armSlot h fn k j d a =
    fire h (fAt (Job.op j) 11 0 16) (finishJob h j 0 0 0 (inc (ectCtr h 2)
      (linkTrig h (fAt (Job.op j) 11 0 16) fn k (BitVec.ofNat 48 (u64 (Job.op j) 12)) (slotArmed h fn k j a)))) := by
  have hlate : armLate h j a = false := by
    unfold armLate armThreshold
    cases htail : (evc a h (fAt (Job.op j) 11 0 16)).tail with
    | none => rfl
    | some o =>
      rw [htail, Option.all_some, decide_eq_true_eq] at hlate
      simpa [hsub] using hlate
  simp [armSlot, hd, hlate, hsub, armThreshold]

end

/-! ### TRIG_CANCEL (R313) -/

/-- A TRIG_CANCEL of a counter without triggers ends. -/
theorem cancelList_nil (h c : Nat) (j : Job) (s : State) : cancelList h c j [] s = finishJob h j 0 0 0 s := if_pos rfl

/-- The reads that a TRIG_CANCEL of counter `c` asks for, of the triggers `l`, whose completions are known from `id` on. -/
def cancelReads (c id : Nat) (l : List Nat) : List Firing :=
  (List.range l.length).map (fun i =>
    { fn := l.getD i 0 / 2 ^ 20, slot := l.getD i 0 % 2 ^ 20, ctr := some c, cancel := some (id + i) })

theorem cancelList_reads {h c : Nat} {j : Job} {l : List Nat} {s : State} (hl : l ≠ []) : cancelList h c j l s =
    (cancelReads c (hport s h).nextJob l).foldl (fun s _ => askSlots h s)
      (updJob h j.id (fun x => { x with waitFor := (List.range l.length).map ((hport s h).nextJob + ·) })
        (updHost h (fun p => { p with
          nextJob := p.nextJob + l.length, firing := p.firing ++ cancelReads c (hport s h).nextJob l }) s)) := if_neg hl

section
variable {h c : Nat} {j : Job} {v : View} {s g : State} (hsub : Job.subop j = 1) (hc : c = fAt (Job.op j) 11 0 16)
  (hg : g = meetCtr h c s)
include hsub hc hg

theorem stepTrigCancel_counterFails {x : Nat} (hx : ctrStatus g h (wqOf s h j.q) c = some x) :
    stepTrigCancel h j v s = finishJob h j x 0 0 g := by
  subst hc hg
  simp [stepTrigCancel, hsub, hx]

theorem stepTrigCancel_counter (hx : ctrStatus g h (wqOf s h j.q) c = none) : stepTrigCancel h j v s =
    cancelList h c j (trigList (g.hs.slots.length + 1) g h (evc g h c).head)
      (setEvc h c { evc g h c with head := none, tail := none } g) := by
  subst hc hg
  simp [stepTrigCancel, hsub, hx]

end

section
variable {h fn k : Nat} {j : Job} {v : View} {s a : State} {d : List Word} {r : Acc (List Word)} (hsub : Job.subop j = 2)
  (hfn : fn = (wqOf s h j.q).fn) (hk : k = fAt (Job.op j) 14 0 20)
include hsub hfn hk

theorem stepTrigCancel_noSlot (hpool : poolOn s h fn = false ∨ poolSlots s h fn ≤ k) :
    stepTrigCancel h j v s = finishJob h j 4 0 0 s := by
  subst hfn hk
  simp [stepTrigCancel, hsub, hpool]

variable (hon : poolOn s h fn = true) (hin : k < poolSlots s h fn)
include hon hin

theorem stepTrigCancel_unread (hread : readSlot h fn k 256 (.job j.id) v s = (r, a)) (hr : ∀ d, r ≠ .ok d) :
    stepTrigCancel h j v s = failAcc h j 0 r a := by
  subst hfn hk
  simp only [stepTrigCancel, hsub, hon, hread]
  cases r with
  | ok d => exact absurd rfl (hr d)
  | _ => simp [hin]

theorem stepTrigCancel_reads (hread : readSlot h fn k 256 (.job j.id) v s = (.ok d, a)) : stepTrigCancel h j v s =
    if fAt d 0 0 2 = 0 then finishJob h j 4 0 0 a
    else if fAt d 0 0 2 ≠ 1 then finishJob h j 3 0 0 a
    else if bAt d 0 2 = false then malformed h j 7 a
    else finishJob h j 0 0 0 (cancelSlot h (hport a h).nextJob fn k (fAt d 1 0 20)
      (firedJob h (hport a h).nextJob k none d).ents
      (updHost h (fun p => { p with nextJob := (hport a h).nextJob + 1 }) a)) := by
  subst hfn hk
  simp [stepTrigCancel, hsub, hon, hin, hread, firedJob]

end

end Sys2Proof.Proofs
end

section
/-! PROOFS. A trigger slot that has been read: its trigger fires, or is cancelled, or its counter is LOST (O42: R309, R313 to
R315). -/

namespace Sys2Proof.Proofs
open Sys2Proof.Machine Sys2Proof.Laws

/-! ### Two changes of a host port -/

/-- A key that is listed anew keeps the last value alone. -/
theorem insert_insert {α : Type} (k : Nat) (v w : α) (m : TMap α) :
    Maps.insert k w (Maps.insert k v m) = Maps.insert k w m := by
  induction m with
  | nil => simp [Maps.insert]
  | cons e t ih =>
    obtain ⟨j, u⟩ := e
    by_cases hlt : k < j
    · simp [Maps.insert, hlt]
    · by_cases heq : k = j
      · simp [Maps.insert, heq]
      · simp [Maps.insert, hlt, heq, ih]

/-- Unlisting a key leaves the same whether or not it has been listed before. -/
theorem erase_insert {α : Type} (k : Nat) (v : α) (m : TMap α) : Maps.erase k (Maps.insert k v m) = Maps.erase k m := by
  induction m with
  | nil => simp [Maps.insert, Maps.erase]
  | cons e t ih =>
    obtain ⟨j, u⟩ := e
    by_cases hlt : k < j
    · simp [Maps.insert, Maps.erase, hlt]
    · by_cases heq : k = j
      · simp [Maps.insert, Maps.erase, heq]
      · simp [Maps.insert, Maps.erase, hlt, heq, ih]

/-- A second write of a key leaves what it alone would, whatever the map, where the first does not unlist the key. -/
theorem put_put {α : Type} [DecidableEq α] {d v : α} (hv : v ≠ d) (m : TMap α) (k : Nat) (w : α) :
    Maps.put d (Maps.put d m k v) k w = Maps.put d m k w := by
  simp only [Maps.put, if_neg hv]
  split
  · exact erase_insert k v m
  · exact insert_insert k v w m

/-- Two changes of a host port are one, where the first does not leave the port as it resets. -/
theorem updHost_updHost {h : Nat} {f g : HostPort → HostPort} {s : State} (hf : f (hport s h) ≠ {}) :
    updHost h g (updHost h f s) = updHost h (fun p => g (f p)) s := by
  have hput := put_put hf s.hs.ports h (g (f (hport s h)))
  unfold updHost at hput ⊢
  simp only [hport, Maps.get_put_same] at hput ⊢
  rw [hput]

theorem updHost_congr {h : Nat} {f g : HostPort → HostPort} {s : State} (hfg : f (hport s h) = g (hport s h)) :
    updHost h f s = updHost h g s := by simp only [updHost, hfg]

/-! ### The images that can be used (R309) -/

/-- The second of two reads for one counter's list waits for the first. -/
theorem useSlots_waits {h n : Nat} {s : State} {g f : Firing} (hfiring : (hport s h).firing = [g, f]) (hne : g ≠ f)
    (hgot : g.got = none) (hctr : g.ctr.isSome = true) (hsame : g.ctr = f.ctr) : useSlots n h s = s := by
  cases n with
  | zero => rfl
  | succ n =>
    have hheld : ([g, f].takeWhile (fun x => x != f)).all (fun x => f.ctr.isNone || x.ctr != f.ctr) = false := by
      simp [hne, hsame ▸ hctr, hsame]
    simp [useSlots, hfiring, hgot, hheld]

/-- What the image that has come for the read `f` does: a failed read keeps its slot ARMED (R309, R313, R314). -/
def imageUsed (h : Nat) (f : Firing) (image : Option (List Word)) (s : State) : State :=
  match f.cancel, image with
  | some id, image => cancelRead h id { f with got := some image } s
  | none, some ws => issueFired h f.fn f.slot f.ctr ws s
  | none, none =>
    let s := ectCause h 2 (inc (ectCtr h 9) (dmaErr h s))
    match f.ctr with
    | some c => loseCtr h c (setSlot h f.fn f.slot { slotOf s h f.fn f.slot with st := 1 } s)
    | none => s

/-- A read alone on its port is used when its image has come. -/
theorem useSlots_alone {h : Nat} {s : State} {f : Firing} {image : Option (List Word)}
    (hfiring : (hport s h).firing = [{ f with got := some image }]) :
    useSlots 1 h s = imageUsed h f image (updHost h (fun p => { p with firing := [] }) s) := by
  have herase : updHost h (fun p => { p with firing := p.firing.erase { f with got := some image } }) s =
      updHost h (fun p => { p with firing := [] }) s := updHost_congr (by simp [hfiring])
  simp only [useSlots, hfiring, List.find?_cons, List.takeWhile_cons, bne_self_eq_false, Bool.false_eq_true, if_false, List.all_nil,
    Option.isSome_some, Bool.and_self, herase]
  unfold imageUsed
  cases hcancel : f.cancel <;> cases image <;> rfl

/-! ### TRIG_SLOT_READ_DONE -/

section
variable {h fn k : Nat} {image : Option (List Word)} {s : State}

theorem effTrigSlotReadDone_idle (hn : hostUp s h = false ∨ dmaHeld s h (.slot fn k) = true ∨
    (hport s h).firing.find? (fun f => f.fn == fn && f.slot == k && f.asked && f.got.isNone) = none) :
    effTrigSlotReadDone h fn k image s = s := by
  unfold effTrigSlotReadDone
  split
  · rfl
  · next hserves =>
    obtain ⟨hup, hheld⟩ : hostUp s h = true ∧ dmaHeld s h (.slot fn k) = false := by simpa using hserves
    rw [(hn.resolve_left (by simp [hup])).resolve_left (by simp [hheld])]

variable (hup : hostUp s h = true) (hheld : dmaHeld s h (.slot fn k) = false)
include hup hheld

/-- An image that comes is noted with its read, and of the port's images those that can be used are used. -/
theorem effTrigSlotReadDone_comes {f : Firing} {u : State}
    (hf : (hport s h).firing.find? (fun f => f.fn == fn && f.slot == k && f.asked && f.got.isNone) = some f)
    (hu : u = updHost h (fun p => { p with
      firing := p.firing.map (fun x => if x = f then { f with got := some image } else x) }) s) :
    effTrigSlotReadDone h fn k image s = askSlots (2 * boleOf h + 1) (askSlots (2 * boleOf h)
      (useSlots (hport s h).firing.length h u)) := by
  have hlen : (hport s h).firing.length = (hport u h).firing.length := by simp [hu]
  unfold effTrigSlotReadDone
  rw [if_neg (by simp [hup, hheld]), hf, hlen, hu]

theorem effTrigSlotReadDone_waits {f : Firing} {u : State}
    (hf : (hport s h).firing.find? (fun f => f.fn == fn && f.slot == k && f.asked && f.got.isNone) = some f)
    (hfirst : (hport s h).firing.head?.all (fun g => g != f && g.ctr.isSome && g.ctr == f.ctr && g.got == none) = true)
    (htwo : (hport s h).firing.length = 2)
    (hu : u = updHost h (fun p => { p with
      firing := p.firing.map (fun x => if x = f then { f with got := some image } else x) }) s) :
    effTrigSlotReadDone h fn k image s = askSlots (2 * boleOf h + 1) (askSlots (2 * boleOf h) u) := by
  rw [effTrigSlotReadDone_comes hup hheld hf hu, htwo]
  obtain ⟨g, f', hlist⟩ := List.length_eq_two.mp htwo
  rw [hlist] at hfirst hf
  obtain ⟨⟨⟨hne, hctr⟩, hsame⟩, hgot⟩ : ((g ≠ f ∧ g.ctr.isSome = true) ∧ g.ctr = f.ctr) ∧ g.got = none := by
    simpa using hfirst
  have hsecond : f = f' := by simpa [Ne.symm hne] using List.mem_of_find?_eq_some hf
  subst hsecond
  have hfiring : (hport u h).firing = [g, { f with got := some image }] := by simp [hu, hlist, hne]
  rw [useSlots_waits hfiring (fun e => by simp [e] at hgot) hgot hctr hsame]

/-- A read alone on its port is used at once. -/
theorem effTrigSlotReadDone_alone {f : Firing} {u : State} (hfiring : (hport s h).firing = [f]) (hfn : f.fn = fn)
    (hslot : f.slot = k) (hasked : f.asked = true) (hgot : f.got = none)
    (hu : u = updHost h (fun p => { p with firing := [] }) s) :
    effTrigSlotReadDone h fn k image s =
      askSlots (2 * boleOf h + 1) (askSlots (2 * boleOf h) (imageUsed h f image u)) := by
  have hf : (hport s h).firing.find? (fun f => f.fn == fn && f.slot == k && f.asked && f.got.isNone) = some f := by
    simp [hfiring, hfn, hslot, hasked, hgot]
  rw [effTrigSlotReadDone_comes hup hheld hf rfl, hfiring, List.length_singleton,
    useSlots_alone (f := f) (image := image) (by simp [hfiring]), updHost_updHost (fun e => by
      simpa [hfiring] using congrArg HostPort.firing e), hu]

end

/-! ### What an image does -/

section
variable {h : Nat} {f : Firing} {s : State}

theorem imageUsed_fires {ws : List Word} (hcancel : f.cancel = none) :
    imageUsed h f (some ws) s = issueFired h f.fn f.slot f.ctr ws s := by simp only [imageUsed, hcancel]

theorem imageUsed_cancels {id : Nat} {ws : List Word} (hcancel : f.cancel = some id) : imageUsed h f (some ws) s =
    cancelSlot h id f.fn f.slot (fAt ws 1 0 20) (firedJob h id f.slot none ws).ents s := by
  simp only [imageUsed, hcancel, cancelRead]
  rfl

theorem imageUsed_loses {c : Nat} (hcancel : f.cancel = none) (hctr : f.ctr = some c) : imageUsed h f none s =
    loseCtr h c (setSlot h f.fn f.slot { slotOf (ectCause h 2 (inc (ectCtr h 9) (dmaErr h s))) h f.fn f.slot with st := 1 }
      (ectCause h 2 (inc (ectCtr h 9) (dmaErr h s)))) := by simp only [imageUsed, hcancel, hctr]

/-- A write of host memory leaves what the Bole knows of the slots. -/
theorem slotOf_hostWr (h fn a g fm k : Nat) (bs : List Byte) (b : Bool) (s : State) :
    slotOf (hostWr h fn a bs b s) g fm k = slotOf s g fm k := by
  rw [slotOf, slotOf, (WaitsOnly.hostWr rfl fn a bs b s).host]

variable {fn k : Nat} {list : Option Nat} {ws : List Word}

theorem issueFired_orphaned (hq : (wqOf s h (fAt ws 1 0 20)).st = .absent) : issueFired h fn k list ws s =
    ectCause h 1 (inc (ectCtr h 5) (zeroSlot h fn k s)) := if_pos hq

theorem issueFired_waits (hq : (wqOf s h (fAt ws 1 0 20)).st ≠ .absent) : issueFired h fn k list ws s =
    inc (ectCtr h 3) (updHost h (fun p => { p with
        nextJob := p.nextJob + 1, firedq := p.firedq ++ [firedJob h (hport s h).nextJob k list ws] })
      (setSlot h fn k { slotOf s h fn k with st := 2 } (hostWr h fn (slotAddr s h fn k)
        (leBytes 4 (pack [(0, 2, 2), (2, 30, fld (wAt ws 0) 2 30)]).toNat) false s))) := by
  rw [← slotOf_hostWr h fn (slotAddr s h fn k) h fn k (leBytes 4 (pack [(0, 2, 2), (2, 30, fld (wAt ws 0) 2 30)]).toNat) false s]
  exact if_neg hq

end

end Sys2Proof.Proofs
end

section
/-! PROOFS. Triggers that a message enables (O42: R311, R312). -/

namespace Sys2Proof.Proofs
open Sys2Proof.Machine Sys2Proof.Laws

section
variable {h c d : Nat} {p : Packet} {v : View} {s : State}

theorem execRx_trigEnable (ht : p.ptype = 0x30) : execRx h c p v s = execEnableRx h c p v s := by simp [execRx, ht]

/-- A refused TRIG_ENABLE is no access violation (R268, R312). -/
theorem execute_enableDenied {k : Nat} {a : State} (ht : p.ptype = 0x30) (he : execRx h c p v s = (.denied k, a)) :
    execute h c d p v s = (.over, markRefused h c d p k (sendAck h c p.psn 0x10 k a)) := by simp [execute, he, ht]

theorem acceptUnrel_enable (ht : p.ptype = 0x30) :
    acceptUnrel h c p v s = (.over, ectCause h 4 (inc (ectCtr h 10) s)) := if_pos ht

/-! ### The tests of its execution, one lemma each -/

variable {z : Chan} (hfirst : v.was = none) (hz : z = chanOf s h c)
include hfirst hz

theorem execEnableRx_checkFails (hck : checkOk z p = false) : execEnableRx h c p v s = (.drop, cvuFail h 3 p s) := by
  subst hz
  simp [execEnableRx, hfirst, hck]

variable (hck : checkOk z p = true)
include hck

theorem execEnableRx_bad (hbad : poolOn s h z.fn = false ∨ poolSlots s h z.fn ≤ Packet.extF p 0 0 0 20 ∨
      Packet.extF p 0 0 20 12 ≠ 0 ∨ Packet.extF p 0 1 0 16 ≠ 0 ∨ Packet.extF p 0 1 16 13 ≠ 0) :
    execEnableRx h c p v s = (.bad, ectCause h 4 (inc (ectCtr h 10) s)) := by
  subst hz
  simp only [execEnableRx, hfirst, hck, Bool.not_true, Bool.false_eq_true, if_false]
  exact if_pos (by simpa using hbad)

variable {k : Nat} (hon : poolOn s h z.fn = true) (hk : k = Packet.extF p 0 0 0 20) (hin : k < poolSlots s h z.fn)
  (hres0 : Packet.extF p 0 0 20 12 = 0) (hres1 : Packet.extF p 0 1 0 16 = 0) (hres2 : Packet.extF p 0 1 16 13 = 0)
include hon hk hin hres0 hres1 hres2

theorem execEnableRx_unread {r : Acc (List Word)} {a : State} (hread : readSlot h z.fn k 256 (.chan c p.psn) v s = (r, a))
    (hok : ∀ ws, r ≠ .ok ws) (hwait : ∀ n, r ≠ .wait n) :
    execEnableRx h c p v s = (.later 1, ectCause h 2 (inc (ectCtr h 9) a)) := by
  subst hz hk
  simp only [execEnableRx, hfirst, hck, hread]
  cases r with
  | ok ws => exact absurd rfl (hok ws)
  | wait n => exact absurd rfl (hwait n)
  | _ => simp [hon, hin, hres0, hres1, hres2]

theorem execEnableRx_waits {n : Need} {a : State} (hread : readSlot h z.fn k 256 (.chan c p.psn) v s = (.wait n, a)) :
    execEnableRx h c p v s = (.wait n, a) := by
  subst hz hk
  simp [execEnableRx, hfirst, hck, hon, hin, hres0, hres1, hres2, hread]

section
variable {ws : List Word} {a : State} (hread : readSlot h z.fn k 256 (.chan c p.psn) v s = (.ok ws, a))
include hread

theorem execEnableRx_read : execEnableRx h c p v s =
    if fAt ws 0 0 2 ≠ 1 ∨ bAt ws 0 2 = false then (.later 1, inc (ectCtr h 7) a)
    else if fAt ws 8 0 24 ≠ c ∨ wAt ws 9 ≠ Packet.extW p 0 2 then (.denied 2, ectCause h 4 (inc (ectCtr h 10) a))
    else if (hport (inc (ectCtr h 6) (issueFired h z.fn k none ws (cvuGood h z a))) h).firedq.any
        (fun j => j.id == (hport a h).nextJob) then
      (.wait (.issue (hport a h).nextJob), inc (ectCtr h 6) (issueFired h z.fn k none ws (cvuGood h z a)))
    else (.done, inc (ectCtr h 6) (issueFired h z.fn k none ws (cvuGood h z a))) := by
  subst hz hk
  simp [execEnableRx, hfirst, hck, hon, hin, hres0, hres1, hres2, hread]

end

end

end Sys2Proof.Proofs
end

section
/-! PROOFS. Triggers (O42: R300, R301, R305 to R309, R311 to R314). -/

namespace Sys2Proof.Proofs
open Sys2Proof.Machine Sys2Proof.Laws

/-! ### The rows of the trigger jobs -/

section
variable {h q : Nat} {i : Word} {m : HostView} {j : Job} {s : State} (hup : hostUp s h = true)
include hup

theorem effTrigArm_begins (hj : freshJob s h q i 0x35 = some j) : effTrigArm h q i m s =
    stepTrigArm h { j with begun := true } (viewOf m s) (updJob h j.id (fun k => { k with begun := true }) s) := by
  simp [effTrigArm, jobRow_begins hup hj, beginJob, stepJob, opcode_of_freshJob hj]

theorem effTrigCancel_begins (hj : freshJob s h q i 0x36 = some j) : effTrigCancel h q i m s =
    stepTrigCancel h { j with begun := true } (viewOf m s) (updJob h j.id (fun k => { k with begun := true }) s) := by
  simp [effTrigCancel, jobRow_begins hup hj, beginJob, stepJob, opcode_of_freshJob hj]

theorem effRemoteEnable_begins (hj : freshJob s h q i 0x37 = some j) : effRemoteEnable h q i m s =
    stepTx h { j with begun := true } (viewOf m s) (updJob h j.id (fun k => { k with begun := true }) s) := by
  simp [effRemoteEnable, jobRow_begins hup hj, beginJob, stepJob, opcode_of_freshJob hj]

end

/-- A REMOTE_ENABLE, which has no local data, is ready once it is in its channel's line (R245, R311). -/
theorem stepTx_enableReady {h : Nat} {j : Job} {v : View} {s u : State} (hready : j.ready = false)
    (hmay : (if j.chan = 0 then chanRefuses s h j else none) = none) (hu : u = joinLine h j s)
    (hop : Job.opcode j = 0x37) : stepTx h j v s = runChan h (Job.chanNo j) v
      (updJob h j.id (fun k => { k with ready := true, rndv := false }) (stopWait h (.job j.id) u)) := by
  subst hu
  simp only [stepTx, hready, Bool.false_eq_true, if_false, hmay]
  simp [hop]

/-- Settles O42: each row of a job is its step by the tests that it meets; each slot image is used, or waits; and a TRIG_ENABLE
meets the tests of `request`, and executes by what its slot holds. -/
theorem triggers : Obligations.Triggers := by
  unfold Obligations.Triggers
  refine ⟨?armNoSlot, ?armCounterFails, ?armDoneFails, ?armBusy, ?armLate, ?armMessage, ?armCounter, ?armUnread,
    ?cancelCounterFails, ?cancelNone, ?cancelCounter, ?cancelNoSlot, ?cancelUnread, ?cancelFree, ?cancelFiring,
    ?cancelCounterSlot, ?cancelMessage, ?enableJoins, ?enableRefused,
    ?imageWaits, ?imageFires, ?imageOrphaned, ?imageLoses, ?imageCancels, ?imageIdle,
    ?checkFails, ?bad, ?unread, ?waits, ?firedWaits, ?firedIssued, ?notArmed, ?denied, ?unreliable,
    ?dropped, ?uncached, ?otherIncarnation, ?otherSource, ?inError, ?beyond, ?busy, ?heldBack, ?notAlive, ?refusedAgain,
    ?oldRefusedAgain, ?again, ?armIdle, ?cancelIdle, ?enableIdle⟩
  case armNoSlot =>
    rintro h q i m j g _ _ s t hup hj hg rfl rfl hpool ht
    refine clocked_runs fun _ => (effTrigArm_begins hup hj).trans (Eq.trans ?_ ht.symm)
    exact stepTrigArm_ends (j := { j with begun := true }) hg (armStatus_noSlot hpool)
  case armCounterFails =>
    rintro h q i m j g _ _ x s t hup hj hg rfl rfl hon hin hsub hx ht
    refine clocked_runs fun _ => (effTrigArm_begins hup hj).trans (Eq.trans ?_ ht.symm)
    exact stepTrigArm_ends (j := { j with begun := true }) hg (armStatus_counter hon hin hsub hx)
  case armDoneFails =>
    rintro h q i m j g _ _ x s t hup hj hg rfl rfl hon hin hctr hcounts hx ht
    refine clocked_runs fun _ => (effTrigArm_begins hup hj).trans (Eq.trans ?_ ht.symm)
    exact stepTrigArm_ends (j := { j with begun := true }) hg (armStatus_done hon hin hctr hcounts hx)
  case armBusy =>
    rintro h q i m j g a _ _ d s t hup hj hg rfl rfl hon hin hctr hdone hread hd ht
    refine clocked_runs fun _ => (effTrigArm_begins hup hj).trans (Eq.trans ?_ ht.symm)
    exact (stepTrigArm_reads (j := { j with begun := true }) hg (armStatus_passes hon hin hctr hdone) hread).trans
      (armSlot_busy hd)
  case armLate =>
    rintro h q i m j g a _ _ d s t hup hj hg rfl rfl hon hin hctr hdone hread hd hsub hlate ht
    refine clocked_runs fun _ => (effTrigArm_begins hup hj).trans (Eq.trans ?_ ht.symm)
    exact (stepTrigArm_reads (j := { j with begun := true }) hg (armStatus_passes hon hin hctr hdone) hread).trans
      (armSlot_late hd hsub hlate)
  case armMessage =>
    rintro h q i m j g a _ _ d _ s t hup hj hg rfl rfl hon hin hctr hdone hread hd hsub rfl ht
    refine clocked_runs fun _ => (effTrigArm_begins hup hj).trans (Eq.trans ?_ ht.symm)
    exact (stepTrigArm_reads (j := { j with begun := true }) hg (armStatus_passes hon hin hctr hdone) hread).trans
      (armSlot_message hd hsub)
  case armCounter =>
    rintro h q i m j g a _ _ d _ s t hup hj hg rfl rfl hon hin hctr hdone hread hd hsub hlate rfl ht
    refine clocked_runs fun _ => (effTrigArm_begins hup hj).trans (Eq.trans ?_ ht.symm)
    exact (stepTrigArm_reads (j := { j with begun := true }) hg (armStatus_passes hon hin hctr hdone) hread).trans
      (armSlot_counter hd hsub hlate)
  case armUnread =>
    rintro h q i m j g a _ _ r s t hup hj hg rfl rfl hon hin hctr hdone hread hr ht
    refine clocked_runs fun _ => (effTrigArm_begins hup hj).trans (Eq.trans ?_ ht.symm)
    exact stepTrigArm_unread (j := { j with begun := true }) hg (armStatus_passes hon hin hctr hdone) hread
      (by rintro d rfl; cases hr)
  case cancelCounterFails =>
    intro h q i m j c x g s t hup hj hsub hc hg hx ht
    refine clocked_runs fun _ => (effTrigCancel_begins hup hj).trans (Eq.trans ?_ ht.symm)
    exact stepTrigCancel_counterFails (j := { j with begun := true }) hsub hc hg hx
  case cancelNone =>
    intro h q i m j c g s t hup hj hsub hc hg hx hhead ht
    refine clocked_runs fun _ => (effTrigCancel_begins hup hj).trans (Eq.trans ?_ ht.symm)
    rw [stepTrigCancel_counter (j := { j with begun := true }) hsub hc hg hx, hhead]
    exact cancelList_nil h c _ _
  case cancelCounter =>
    rintro h q i m j c g l fs s t hup hj hsub hc hg hx hl hne rfl ht
    refine clocked_runs fun _ => (effTrigCancel_begins hup hj).trans (Eq.trans ?_ ht.symm)
    rw [stepTrigCancel_counter (j := { j with begun := true }) hsub hc hg hx, ← hl]
    exact cancelList_reads hne
  case cancelNoSlot =>
    intro h q i m j fn k s t hup hj hsub hfn hk hpool ht
    refine clocked_runs fun _ => (effTrigCancel_begins hup hj).trans (Eq.trans ?_ ht.symm)
    exact stepTrigCancel_noSlot (j := { j with begun := true }) hsub hfn hk hpool
  case cancelUnread =>
    intro h q i m j a fn k r s t hup hj hsub hfn hk hon hin hread hr ht
    refine clocked_runs fun _ => (effTrigCancel_begins hup hj).trans (Eq.trans ?_ ht.symm)
    exact stepTrigCancel_unread (j := { j with begun := true }) hsub hfn hk hon hin hread (by rintro d rfl; cases hr)
  case cancelFree =>
    intro h q i m j a fn k d s t hup hj hsub hfn hk hon hin hread hfree ht
    refine clocked_runs fun _ => (effTrigCancel_begins hup hj).trans (Eq.trans ?_ ht.symm)
    rw [stepTrigCancel_reads (j := { j with begun := true }) hsub hfn hk hon hin hread, if_pos hfree]
  case cancelFiring =>
    intro h q i m j a fn k d s t hup hj hsub hfn hk hon hin hread hfree harmed ht
    refine clocked_runs fun _ => (effTrigCancel_begins hup hj).trans (Eq.trans ?_ ht.symm)
    rw [stepTrigCancel_reads (j := { j with begun := true }) hsub hfn hk hon hin hread, if_neg hfree, if_pos harmed]
  case cancelCounterSlot =>
    intro h q i m j a fn k d s t hup hj hsub hfn hk hon hin hread harmed hmode ht
    refine clocked_runs fun _ => (effTrigCancel_begins hup hj).trans (Eq.trans ?_ ht.symm)
    rw [stepTrigCancel_reads (j := { j with begun := true }) hsub hfn hk hon hin hread]
    simp [harmed, hmode]
  case cancelMessage =>
    intro h q i m j a fn k d s t hup hj hsub hfn hk hon hin hread harmed hmode ht
    refine clocked_runs fun _ => (effTrigCancel_begins hup hj).trans (Eq.trans ?_ ht.symm)
    rw [stepTrigCancel_reads (j := { j with begun := true }) hsub hfn hk hon hin hread]
    simp only [harmed, hmode, one_ne_zero, if_false, ne_eq, not_true, Bool.true_eq_false]
    rfl
  case enableJoins =>
    intro h q i m j u s t hup hj hready hmay hu ht
    refine clocked_runs fun _ => (effRemoteEnable_begins hup hj).trans (Eq.trans ?_ ht.symm)
    exact stepTx_enableReady (j := { j with begun := true }) hready hmay hu ((opcode_begun j).trans (opcode_of_freshJob hj))
  case enableRefused =>
    intro h q i m j d s t hup hj hready hchan hd ht
    refine clocked_runs fun _ => (effRemoteEnable_begins hup hj).trans (Eq.trans ?_ ht.symm)
    exact stepTx_refused (j := { j with begun := true }) hready hchan hd
  case imageWaits =>
    intro h fn k image f u s t hup hheld hf hfirst htwo hu ht
    exact clocked_runs fun _ => (effTrigSlotReadDone_waits hup hheld hf hfirst htwo hu).trans ht.symm
  case imageFires =>
    rintro h _ _ ws f u s t hup hheld hfiring rfl rfl hasked hgot hcancel hq hu ht
    refine clocked_runs fun _ => (effTrigSlotReadDone_alone hup hheld hfiring rfl rfl hasked hgot hu).trans ?_
    have hnext : (hport u h).nextJob = (hport s h).nextJob := by simp [hu]
    have hslot : slotOf u h f.fn f.slot = slotOf s h f.fn f.slot := hu ▸ rfl
    have haddr : slotAddr u h f.fn f.slot = slotAddr s h f.fn f.slot := hu ▸ rfl
    rw [imageUsed_fires hcancel, issueFired_waits (hu ▸ hq), hnext, hslot, haddr, ht]
  case imageOrphaned =>
    rintro h _ _ ws f u s t hup hheld hfiring rfl rfl hasked hgot hcancel hq hu ht
    refine clocked_runs fun _ => (effTrigSlotReadDone_alone hup hheld hfiring rfl rfl hasked hgot hu).trans ?_
    have haddr : slotAddr u h f.fn f.slot = slotAddr s h f.fn f.slot := hu ▸ rfl
    rw [imageUsed_fires hcancel, issueFired_orphaned (hu ▸ hq), zeroSlot, haddr, ht]
  case imageLoses =>
    rintro h _ _ c f u s t hup hheld hfiring rfl rfl hasked hgot hcancel hctr hu ht
    refine clocked_runs fun _ => (effTrigSlotReadDone_alone hup hheld hfiring rfl rfl hasked hgot hu).trans ?_
    rw [imageUsed_loses hcancel hctr, ht]
  case imageCancels =>
    rintro h _ _ id ws f u s t hup hheld hfiring rfl rfl hasked hgot hcancel hu ht
    refine clocked_runs fun _ => (effTrigSlotReadDone_alone hup hheld hfiring rfl rfl hasked hgot hu).trans ?_
    rw [imageUsed_cancels hcancel, ht]
  case imageIdle =>
    rintro h fn k image s _ hn rfl
    exact clocked_runs fun _ => effTrigSlotReadDone_idle hn
  case checkFails =>
    intro h p m r u w c x v d y z s t h1 h2 h3 h4 h5 h6 h7 h8 h9 h10 h11 h12 h13 h14 h15 h16 h17 h18 hz hck ht
    have hx : Executes h 0x30 p m s c d v y := executes h1 h2 h3 h4 h5 h6 h7 h8 h9 h10 h11 h12 h13 h14 h15 h16 h17 h18
    exact hx.drop_row ((execRx_trigEnable hx.type).trans (execEnableRx_checkFails (h5 ▸ rfl) hz hck)) ht
  case bad =>
    intro h p m r u w c x v d y z s t h1 h2 h3 h4 h5 h6 h7 h8 h9 h10 h11 h12 h13 h14 h15 h16 h17 h18 hz hck hbad ht
    have hx : Executes h 0x30 p m s c d v y := executes h1 h2 h3 h4 h5 h6 h7 h8 h9 h10 h11 h12 h13 h14 h15 h16 h17 h18
    exact hx.bad_row ((execRx_trigEnable hx.type).trans (execEnableRx_bad (h5 ▸ rfl) hz hck hbad)) ht
  case unread =>
    intro h p m r u w c x v d y z k rr a s t h1 h2 h3 h4 h5 h6 h7 h8 h9 h10 h11 h12 h13 h14 h15 h16 h17 h18 hz hck hon hk hin
      hres0 hres1 hres2 hread hr ht
    have hx : Executes h 0x30 p m s c d v y := executes h1 h2 h3 h4 h5 h6 h7 h8 h9 h10 h11 h12 h13 h14 h15 h16 h17 h18
    exact hx.receiverNotReady_row ((execRx_trigEnable hx.type).trans (execEnableRx_unread (h5 ▸ rfl) hz hck hon hk hin hres0
      hres1 hres2 hread (by rintro ws rfl; cases hr) (by rintro n rfl; cases hr))) ht
  case waits =>
    intro h p m r u w c x v d y z k n a s t h1 h2 h3 h4 h5 h6 h7 h8 h9 h10 h11 h12 h13 h14 h15 h16 h17 h18 hz hck hon hk hin
      hres0 hres1 hres2 hread ht
    have hx : Executes h 0x30 p m s c d v y := executes h1 h2 h3 h4 h5 h6 h7 h8 h9 h10 h11 h12 h13 h14 h15 h16 h17 h18
    exact hx.wait_row ((execRx_trigEnable hx.type).trans (execEnableRx_waits (h5 ▸ rfl) hz hck hon hk hin hres0 hres1 hres2
      hread)) ht
  case firedWaits =>
    intro h p m r u w c x v d y z k ws a s t h1 h2 h3 h4 h5 h6 h7 h8 h9 h10 h11 h12 h13 h14 h15 h16 h17 h18 hz hck hon hk hin
      hres0 hres1 hres2 hread harmed hmode hchan hkey hqueued ht
    have hx : Executes h 0x30 p m s c d v y := executes h1 h2 h3 h4 h5 h6 h7 h8 h9 h10 h11 h12 h13 h14 h15 h16 h17 h18
    refine hx.wait_row ((execRx_trigEnable hx.type).trans ?_) ht
    rw [execEnableRx_read (h5 ▸ rfl) hz hck hon hk hin hres0 hres1 hres2 hread, if_neg (by simp [harmed, hmode]),
      if_neg (by simp [hchan, hkey]), if_pos hqueued]
  case firedIssued =>
    intro h p m r u w c x v d y z k ws a s t h1 h2 h3 h4 h5 h6 h7 h8 h9 h10 h11 h12 h13 h14 h15 h16 h17 h18 hz hck hon hk hin
      hres0 hres1 hres2 hread harmed hmode hchan hkey hissued ht
    have hx : Executes h 0x30 p m s c d v y := executes h1 h2 h3 h4 h5 h6 h7 h8 h9 h10 h11 h12 h13 h14 h15 h16 h17 h18
    refine hx.done_row ((execRx_trigEnable hx.type).trans ?_) ht
    rw [execEnableRx_read (h5 ▸ rfl) hz hck hon hk hin hres0 hres1 hres2 hread, if_neg (by simp [harmed, hmode]),
      if_neg (by simp [hchan, hkey]), if_neg (by simp only [hissued, Bool.false_eq_true, not_false_eq_true])]
  case notArmed =>
    intro h p m r u w c x v d y z k ws a s t h1 h2 h3 h4 h5 h6 h7 h8 h9 h10 h11 h12 h13 h14 h15 h16 h17 h18 hz hck hon hk hin
      hres0 hres1 hres2 hread hidle ht
    have hx : Executes h 0x30 p m s c d v y := executes h1 h2 h3 h4 h5 h6 h7 h8 h9 h10 h11 h12 h13 h14 h15 h16 h17 h18
    refine hx.receiverNotReady_row ((execRx_trigEnable hx.type).trans ?_) ht
    rw [execEnableRx_read (h5 ▸ rfl) hz hck hon hk hin hres0 hres1 hres2 hread, if_pos hidle]
  case denied =>
    intro h p m r u w c x v d y z k ws a s t h1 h2 h3 h4 h5 h6 h7 h8 h9 h10 h11 h12 h13 h14 h15 h16 h17 h18 hz hck hon hk hin
      hres0 hres1 hres2 hread harmed hmode hwrong ht
    have hx : Executes h 0x30 p m s c d v y := executes h1 h2 h3 h4 h5 h6 h7 h8 h9 h10 h11 h12 h13 h14 h15 h16 h17 h18
    refine hx.row_of_execute (execute_enableDenied hx.type ((execRx_trigEnable hx.type).trans ?_)) ht
    rw [execEnableRx_read (h5 ▸ rfl) hz hck hon hk hin hres0 hres1 hres2 hread, if_neg (by simp [harmed, hmode]),
      if_pos hwrong]
  case unreliable =>
    intro h p m r u w c x v s t h1 h2 h3 h4 h5 h6 h7 hinc hsrc hrel ht
    exact RowLeaves.of_eq ((request_unreliable h1 h2 h3 h4 h5 h6 h7 hinc hsrc hrel).trans
      (congrArg _ (acceptUnrel_enable (Accepted.mk h1 h2 h3 h4 h5 h6 h7).type))) ht
  case dropped => intros; apply dropped_row <;> assumption
  case uncached => intros; apply uncached_row <;> assumption
  case otherIncarnation => intros; apply otherIncarnation_row <;> assumption
  case otherSource => intros; apply otherSource_row <;> assumption
  case inError => intros; apply inError_row <;> assumption
  case beyond => intros; apply beyond_row <;> assumption
  case busy => intros; apply busy_row <;> assumption
  case heldBack => intros; apply heldBack_row <;> assumption
  case notAlive => intros; apply notAlive_row <;> assumption
  case refusedAgain => intros; apply refusedAgain_row <;> assumption
  case oldRefusedAgain | again => intros; apply acknowledgedAgain_row (hread := by decide) (hatomic := by decide) <;> assumption
  case armIdle | cancelIdle | enableIdle =>
    rintro h q i m s _ hn rfl
    exact clocked_runs fun _ => jobRow_idle hn

end Sys2Proof.Proofs
end

section
/-! PROOFS. Exact payloads are read back as they were written (O46: R332 to R334). -/

namespace Sys2Proof.Proofs
open Sys2Proof.Machine

/-! ### Bytes and two's complement -/

theorem leNat_leBytes (n v : Nat) : leNat (leBytes n v) = v % 2 ^ (8 * n) := by
  induction n generalizing v with
  | zero => simp [leBytes, leNat, Nat.mod_one]
  | succ n ih =>
    have hpow : 2 ^ (8 * (n + 1)) = 256 * 2 ^ (8 * n) := by ring
    simp only [leBytes, leNat, ih, BitVec.toNat_ofNat, Nat.shiftRight_eq_div_pow, hpow, Nat.mod_mul]

theorem toNat_emod_lt (a : Int) (n : Nat) : (a % (2 ^ n : Nat)).toNat < 2 ^ n := by
  have hpos : (0 : Int) < (2 ^ n : Nat) := Int.natCast_pos.mpr (Nat.two_pow_pos n)
  have hnonneg := Int.emod_nonneg a hpos.ne'
  have hlt := Int.emod_lt_of_pos a hpos
  omega

/-- A signed value that fits in `n + 1` bits is read back from its two's complement. -/
theorem sext_emod {n : Nat} {a : Int} (hlo : -(2 ^ n) ≤ a) (hhi : a < 2 ^ n) :
    sext (n + 1) (a % (2 ^ (n + 1) : Nat)).toNat = a := by
  have hpos := Nat.two_pow_pos n
  have hcast : (2 : Int) ^ n = (2 ^ n : Nat) := by push_cast; rfl
  rw [sext, bitsN, Nat.shiftRight_eq_div_pow, Nat.add_sub_cancel, pow_succ' 2 n, pow_succ' (2 : Int) n, pow_one]
  rw [hcast] at hlo hhi ⊢
  generalize 2 ^ n = p at *
  rcases Int.lt_or_le a 0 with hneg | hnonneg
  · obtain ⟨k, hk⟩ := Int.eq_ofNat_of_zero_le (show 0 ≤ a + 2 * (p : Int) by omega)
    have hword : a % ((2 * p : Nat) : Int) = k := by
      rw [← Int.add_emod_right, Nat.cast_mul, Nat.cast_two, hk]
      exact Int.emod_eq_of_lt (by omega) (by omega)
    have hbit : k / p = 1 := (Nat.div_eq_iff hpos).mpr (by omega)
    rw [hword, Int.toNat_natCast, hbit, if_pos rfl, Nat.mod_eq_of_lt (by omega)]
    omega
  · obtain ⟨k, rfl⟩ := Int.eq_ofNat_of_zero_le hnonneg
    have hword : (k : Int) % ((2 * p : Nat) : Int) = k := Int.emod_eq_of_lt (by omega) (by omega)
    rw [hword, Int.toNat_natCast, Nat.div_eq_of_lt (by omega), if_neg (by decide), Nat.mod_eq_of_lt (by omega)]

/-! ### One element (R333) -/

theorem two_pow_ctz_dvd (k n : Nat) : 2 ^ ctz k n ∣ n := by
  induction k generalizing n with
  | zero => simp [ctz]
  | succ k ih =>
    unfold ctz
    split
    · simp
    · next heven =>
      have heven : n % 2 = 0 := by simpa using heven
      have hhalf : n = 2 * (n >>> 1) := by rw [Nat.shiftRight_eq_div_pow]; omega
      calc 2 ^ (1 + ctz k (n >>> 1)) = 2 * 2 ^ ctz k (n >>> 1) := by rw [pow_add, pow_one]
        _ ∣ 2 * (n >>> 1) := Nat.mul_dvd_mul_left 2 (ih _)
        _ = n := hhalf.symm

/-- The fields of a window form are read back. -/
theorem exWindow_fields {w sh sp : Nat} (hw : w < 2 ^ 120) (hsh : sh ≤ 25) (hsp : sp ≤ 4)
    (hzero : sp ≠ 0 → sext 120 w = 0 ∧ sh = 0) :
    exWindow (w + sh * 2 ^ 120 + sp * 2 ^ 125) = some { a := sext 120 w * 2 ^ (8 * sh), special := sp } := by
  have hvalue : (w + sh * 2 ^ 120 + sp * 2 ^ 125) % 2 ^ 120 = w := by omega
  have hshift : bitsN (w + sh * 2 ^ 120 + sp * 2 ^ 125) 120 5 = sh := by
    rw [bitsN, Nat.shiftRight_eq_div_pow]
    omega
  have hspecial : bitsN (w + sh * 2 ^ 120 + sp * 2 ^ 125) 125 3 = sp := by
    rw [bitsN, Nat.shiftRight_eq_div_pow]
    omega
  have hgood : ¬ (25 < sh ∨ 4 < sp ∨ (sp ≠ 0 ∧ (sext 120 w ≠ 0 ∨ sh ≠ 0))) := by
    rintro (h | h | ⟨hne, h⟩)
    · omega
    · omega
    · obtain ⟨hw0, hsh0⟩ := hzero hne
      exact h.elim (· hw0) (· hsh0)
  simp only [exWindow, hvalue, hshift, hspecial, gt_iff_lt, if_neg hgood]

/-- SHIFT of the canonical window form, and the value that it leaves in the window. -/
def windowShift (x : Elem) : Nat := min 25 (ctz 320 x.a.natAbs / 8)
def windowValue (x : Elem) : Int := x.a / (2 ^ (8 * windowShift x) : Nat)

theorem windowValue_mul (x : Elem) : windowValue x * 2 ^ (8 * windowShift x) = x.a := by
  have hle : 8 * windowShift x ≤ ctz 320 x.a.natAbs := by unfold windowShift; omega
  have hdvd : ((2 ^ (8 * windowShift x) : Nat) : Int) ∣ x.a :=
    Int.natCast_dvd.mpr ((pow_dvd_pow 2 hle).trans (two_pow_ctz_dvd ..))
  have hback := Int.ediv_mul_cancel hdvd
  rwa [Nat.cast_pow] at hback

theorem exEncode_zero {x : Elem} (h : x.special ≠ 0 ∨ x.a = 0) :
    exEncode x = (leBytes 16 (x.special * 2 ^ 125), false) := by
  rw [exEncode, if_pos h]
  simp

theorem exEncode_value {x : Elem} (h : ¬ (x.special ≠ 0 ∨ x.a = 0)) :
    exEncode x = if -(2 ^ 119) ≤ windowValue x ∧ windowValue x < 2 ^ 119 then
        (leBytes 16 ((windowValue x % (2 ^ 120 : Nat)).toNat + windowShift x * 2 ^ 120 + 0 * 2 ^ 125), false)
      else (leBytes 40 (x.a % (2 ^ 320 : Nat)).toNat, true) := by
  rw [exEncode, if_neg h]
  rfl

/-- A partial sum that an accumulator of 320 bits holds (R332). -/
def IsExact (x : Elem) : Prop := x.special ≤ 4 ∧ (x.special ≠ 0 → x.a = 0) ∧ -(2 ^ 319) ≤ x.a ∧ x.a < 2 ^ 319

theorem exEncode_window {x : Elem} (hx : IsExact x) (h : (exEncode x).2 = false) :
    (exEncode x).1.length = 16 ∧ exWindow (leNat (exEncode x).1) = some x := by
  obtain ⟨hspecial, hzero, -, -⟩ := hx
  by_cases hz : x.special ≠ 0 ∨ x.a = 0
  · have ha : x.a = 0 := hz.elim hzero id
    rw [exEncode_zero hz]
    refine ⟨leBytes_length _ _, ?_⟩
    have hread := exWindow_fields (w := 0) (sh := 0) (by decide) (by decide) hspecial fun _ => ⟨rfl, rfl⟩
    rw [leNat_leBytes, Nat.mod_eq_of_lt (by omega)]
    rw [Nat.zero_mul, Nat.add_zero, Nat.zero_add] at hread
    rw [hread, show sext 120 0 = 0 from rfl, zero_mul, ← ha]
  · rw [exEncode_value hz] at h ⊢
    split at h
    case isFalse => cases h
    case isTrue hfits =>
    obtain ⟨hlo, hhi⟩ := hfits
    rw [if_pos ⟨hlo, hhi⟩]
    refine ⟨leBytes_length _ _, ?_⟩
    have hword := toNat_emod_lt (windowValue x) 120
    have hsh : windowShift x ≤ 25 := min_le_left ..
    have hspecial0 : x.special = 0 := by simpa using fun hne => hz (.inl hne)
    have hread := exWindow_fields hword hsh (sp := 0) (by decide) (absurd rfl)
    rw [leNat_leBytes, Nat.mod_eq_of_lt (by omega)]
    rw [hread, sext_emod hlo hhi, windowValue_mul, ← hspecial0]

theorem exEncode_full {x : Elem} (hx : IsExact x) (h : (exEncode x).2 = true) :
    (exEncode x).1.length = 40 ∧ ({ a := sext 320 (leNat (exEncode x).1) } : Elem) = x := by
  obtain ⟨-, -, hlo, hhi⟩ := hx
  by_cases hz : x.special ≠ 0 ∨ x.a = 0
  · rw [exEncode_zero hz] at h
    cases h
  · rw [exEncode_value hz] at h ⊢
    split at h
    case isTrue => cases h
    case isFalse hwide =>
    rw [if_neg hwide]
    refine ⟨leBytes_length _ _, ?_⟩
    have hspecial0 : x.special = 0 := by simpa using fun hne => hz (.inl hne)
    rw [leNat_leBytes, Nat.mod_eq_of_lt (toNat_emod_lt x.a 320), sext_emod (n := 319) hlo hhi, ← hspecial0]

/-! ### The mask (R334) -/

/-- The FORM mask of a payload: bit `i` says that element `i` takes the full form. -/
def formMask : List Bool → Nat
  | [] => 0
  | b :: bs => b2n b + 2 * formMask bs

theorem formMask_lt (bs : List Bool) : formMask bs < 2 ^ bs.length := by
  induction bs with
  | nil => simp [formMask]
  | cons b bs ih =>
    have hb : b2n b ≤ 1 := by cases b <;> decide
    rw [formMask, List.length_cons, pow_succ']
    omega

theorem formMask_testBit (b : Bool) (bs : List Bool) : (formMask (b :: bs)).testBit 0 = b := by
  cases b <;> simp [formMask, b2n, Nat.add_mod]

theorem formMask_shiftRight (b : Bool) (bs : List Bool) : formMask (b :: bs) >>> 1 = formMask bs := by
  rw [formMask, Nat.shiftRight_eq_div_pow]
  have hb : b2n b ≤ 1 := by cases b <;> decide
  omega

theorem sumN_formBits (es : List (List Byte × Bool)) :
    sumN ((List.range es.length).map fun i => if (es.getD i ([], false)).2 then 2 ^ i else 0) = formMask (es.map (·.2)) := by
  simp only [sumN, ← List.sum_eq_foldl]
  induction es with
  | nil => rfl
  | cons e es ih =>
    have hdouble (i : Nat) : (if (es.getD i ([], false)).2 then 2 ^ (i + 1) else 0)
        = 2 * (if (es.getD i ([], false)).2 then 2 ^ i else 0) := by split <;> ring
    rw [List.length_cons, List.range_succ_eq_map, List.map_cons, List.sum_cons, List.map_map, List.map_cons, formMask, ← ih,
      ← List.sum_map_mul_left]
    simp only [Function.comp_def, List.getD_cons_succ, List.getD_cons_zero, hdouble, b2n, pow_zero]

theorem exPayload_eq (xs : List Elem) : (exPayload xs).1 =
    leBytes 16 (formMask (xs.map fun x => (exEncode x).2)) ++ xs.flatMap fun x => (exEncode x).1 := by
  simp only [exPayload, sumN_formBits, List.map_map, List.flatMap_map]
  rfl

/-! ### The payload -/

theorem exElems_encode {xs : List Elem} (hx : ∀ x ∈ xs, IsExact x) :
    exElems xs.length (formMask (xs.map fun x => (exEncode x).2)) (xs.flatMap fun x => (exEncode x).1) = some xs := by
  induction xs with
  | nil => rfl
  | cons x xs ih =>
    have hrest := ih fun y hy => hx y (.tail _ hy)
    simp only [List.length_cons, List.map_cons, List.flatMap_cons, exElems, formMask_testBit, formMask_shiftRight]
    cases hform : (exEncode x).2 with
    | true =>
      obtain ⟨hlen, hval⟩ := exEncode_full (hx x (.head _)) hform
      simp [hlen, hval, hrest, List.take_left', List.drop_left']
    | false =>
      obtain ⟨hlen, hval⟩ := exEncode_window (hx x (.head _)) hform
      simp [hlen, hval, hrest, List.take_left', List.drop_left']

/-- Settles O46: the mask and then each element are read back as they were written. -/
theorem exactPayloads : Obligations.ExactPayloads := by
  intro xs hlen hx
  have hmask := formMask_lt (xs.map fun x => (exEncode x).2)
  rw [List.length_map] at hmask
  have hfits : formMask (xs.map fun x => (exEncode x).2) < 2 ^ (8 * 16) :=
    hmask.trans_le (Nat.pow_le_pow_right two_pos (by omega))
  have hread : leNat ((exPayload xs).1.take 16) = formMask (xs.map fun x => (exEncode x).2) := by
    rw [exPayload_eq, List.take_left' (leBytes_length _ _), leNat_leBytes, Nat.mod_eq_of_lt hfits]
  have hbody : (exPayload xs).1.drop 16 = xs.flatMap fun x => (exEncode x).1 := by
    rw [exPayload_eq, List.drop_left' (leBytes_length _ _)]
  have hlong : ¬ (exPayload xs).1.length < 16 := by simp [exPayload_eq]
  simp only [exParse, hread, hbody, hlong, false_or, ge_iff_le, not_le.mpr hmask, if_false]
  exact exElems_encode hx

end Sys2Proof.Proofs
end

section
/-! PROOFS. Exact partial sums combine in any order and shape (O45: R318, R332, R335). -/

namespace Sys2Proof.Proofs
open Sys2Proof.Machine

/-- A partial sum of R332: SPECIAL is 0 to 4, and the value is 0 when SPECIAL is not 0. -/
def IsPartialSum (x : Elem) : Prop := x.special ≤ 4 ∧ (x.special ≠ 0 → x.a = 0)

/-- SPECIAL of two partial sums combined (R335). -/
def joinSpecial (p q : Nat) : Nat :=
  if p = 4 ∨ q = 4 ∨ (p = 2 ∧ q = 3) ∨ (p = 3 ∧ q = 2) then 4
  else if p = 2 ∨ q = 2 then 2
  else if p = 3 ∨ q = 3 then 3
  else if p = 1 ∧ q = 1 then 1
  else 0

/-! ### SPECIAL, over its five states -/

theorem joinSpecial_comm : ∀ p ≤ 4, ∀ q ≤ 4, joinSpecial p q = joinSpecial q p := by decide

theorem joinSpecial_assoc : ∀ p ≤ 4, ∀ q ≤ 4, ∀ r ≤ 4,
    joinSpecial (joinSpecial p q) r = joinSpecial p (joinSpecial q r) := by decide

theorem joinSpecial_le : ∀ p ≤ 4, ∀ q ≤ 4, joinSpecial p q ≤ 4 := by decide

/-- A zero or finite result has zeros and finite values for operands. -/
theorem finite_of_joinSpecial : ∀ p ≤ 4, ∀ q ≤ 4, joinSpecial p q ≤ 1 → p ≤ 1 ∧ q ≤ 1 := by decide

/-- Only two negative zeros make a negative zero. -/
theorem negZero_of_joinSpecial : ∀ p ≤ 4, ∀ q ≤ 4, joinSpecial p q = 1 → p = 1 ∧ q = 1 := by decide

/-! ### The value -/

/-- Combining adds the values up, unless the result is an infinity or a NaN. (The value of a negative zero is 0 anyway.) -/
theorem exAdd_eq {x y : Elem} (hx : IsPartialSum x) (hy : IsPartialSum y) :
    exAdd x y = { special := joinSpecial x.special y.special,
                  a := if joinSpecial x.special y.special ≤ 1 then x.a + y.a else 0 } := by
  obtain ⟨-, hxa⟩ := hx
  obtain ⟨-, hya⟩ := hy
  unfold exAdd joinSpecial
  split
  · rfl
  split
  · rfl
  split
  · rfl
  split
  · next hzeros => simp [hxa (by omega), hya (by omega)]
  · rfl

theorem isPartialSum_exAdd {x y : Elem} (hx : IsPartialSum x) (hy : IsPartialSum y) : IsPartialSum (exAdd x y) := by
  rw [exAdd_eq hx hy]
  obtain ⟨hxs, hxa⟩ := hx
  obtain ⟨hys, hya⟩ := hy
  refine ⟨joinSpecial_le _ hxs _ hys, fun hne => ?_⟩
  dsimp only at hne ⊢
  split
  · next hle =>
    obtain ⟨hx1, hy1⟩ := negZero_of_joinSpecial _ hxs _ hys (by omega)
    rw [hxa (by omega), hya (by omega), add_zero]
  · rfl

theorem exAdd_comm {x y : Elem} (hx : IsPartialSum x) (hy : IsPartialSum y) : exAdd x y = exAdd y x := by
  rw [exAdd_eq hx hy, exAdd_eq hy hx, joinSpecial_comm _ hx.1 _ hy.1, add_comm x.a]

theorem exAdd_assoc {x y z : Elem} (hx : IsPartialSum x) (hy : IsPartialSum y) (hz : IsPartialSum z) :
    exAdd (exAdd x y) z = exAdd x (exAdd y z) := by
  rw [exAdd_eq (isPartialSum_exAdd hx hy) hz, exAdd_eq hx (isPartialSum_exAdd hy hz), exAdd_eq hx hy, exAdd_eq hy hz]
  obtain ⟨hxs, -⟩ := hx
  obtain ⟨hys, -⟩ := hy
  obtain ⟨hzs, -⟩ := hz
  have hassoc := joinSpecial_assoc _ hxs _ hys _ hzs
  rw [Elem.mk.injEq]
  refine ⟨?value, hassoc⟩
  dsimp only
  rw [hassoc]
  split
  · next hle =>
    obtain ⟨-, hyz⟩ := finite_of_joinSpecial _ hxs _ (joinSpecial_le _ hys _ hzs) hle
    obtain ⟨hxy, -⟩ := finite_of_joinSpecial _ (joinSpecial_le _ hxs _ hys) _ hzs (hassoc ▸ hle)
    rw [if_pos hyz, if_pos hxy, add_assoc]
  · rfl

/-- An EXACT sum combines by R335 alone. -/
theorem elCombine_exact (d : Nat) (x y : Elem) : elCombine 0 2 d x y = exAdd x y := rfl

/-- Settles O45: SPECIAL joins over its five states, and the values add up wherever they count. -/
theorem exactSums : Obligations.ExactSums := by
  intro x y z hx hy hz
  simp only [elCombine_exact]
  have hxy := isPartialSum_exAdd hx hy
  exact ⟨exAdd_comm hx hy, exAdd_assoc hx hy hz, hxy.1, hxy.2⟩

end Sys2Proof.Proofs
end

section
/-! PROOFS. Conversion to the exact accumulator and rounding back (O47: R329, R330, R332, R335). -/

namespace Sys2Proof.Proofs
open Sys2Proof.Machine

/-! ### Rounding of a magnitude that needs none -/

theorem roundShift_mul_pow (c k : Nat) : roundShift (c * 2 ^ k) k = c := by
  have hq : (c * 2 ^ k) >>> k = c := by rw [Nat.shiftRight_eq_div_pow, Nat.mul_div_cancel _ (Nat.two_pow_pos k)]
  unfold roundShift
  rcases Nat.eq_zero_or_pos k with rfl | hk
  · simp
  · have hhalf : 0 < 2 ^ k / 2 := Nat.div_pos (Nat.le_self_pow hk.ne' 2) two_pos
    simp only [hq, Nat.mul_mod_left]
    rw [if_neg hk.ne', if_neg (by omega)]

/-- The bits, sign apart, to which `fRound` rounds a magnitude before it looks for an overflow. -/
def roundedBits (f : FFmt) (sh mag : Nat) : Nat :=
  ((if mag = 0 then 0 else Nat.log2 mag + 1) - sh - (f.mb + 1)) * 2 ^ f.mb
    + roundShift mag (sh + ((if mag = 0 then 0 else Nat.log2 mag + 1) - sh - (f.mb + 1)))

/-- The least bits, sign apart, that are no finite value. -/
def finiteLimit (f : FFmt) : Nat := if f.inf then (2 ^ f.eb - 1) * 2 ^ f.mb else 2 ^ (f.eb + f.mb) - 1

theorem fRound_finite (f : FFmt) (sh : Nat) (a : Int) (hlim : roundedBits f sh a.natAbs < finiteLimit f) :
    fRound f sh { a := a } = roundedBits f sh a.natAbs + (if a < 0 then 2 ^ (f.eb + f.mb) else 0) := by
  have hfits : ¬ finiteLimit f ≤ roundedBits f sh a.natAbs := not_le.mpr hlim
  unfold roundedBits finiteLimit at *
  simp only [fRound, ge_iff_le, if_neg hfits, decide_eq_true_eq]
  rfl

/-- A significand `c` of the format, `q` places above the smallest subnormal: `q` is 0 or `c` is normalized. -/
def IsSignificand (f : FFmt) (c q : Nat) : Prop := c < 2 ^ (f.mb + 1) ∧ (q = 0 ∨ 2 ^ f.mb ≤ c)

theorem roundedBits_significand {f : FFmt} {c q : Nat} (sh : Nat) (h : IsSignificand f c q) :
    roundedBits f sh (c * 2 ^ q * 2 ^ sh) = q * 2 ^ f.mb + c := by
  obtain ⟨hlt, hnorm⟩ := h
  have hscale : c * 2 ^ q * 2 ^ sh = c * 2 ^ (sh + q) := by rw [mul_assoc, ← pow_add, add_comm q]
  have hq : (if c * 2 ^ (sh + q) = 0 then 0 else Nat.log2 (c * 2 ^ (sh + q)) + 1) - sh - (f.mb + 1) = q := by
    rcases Nat.eq_zero_or_pos c with rfl | hc
    · have hq0 : q = 0 := hnorm.resolve_right (not_le.mpr (Nat.two_pow_pos _))
      simp [hq0]
    · have hlog : Nat.log2 (c * 2 ^ (sh + q)) = Nat.log2 c + (sh + q) :=
        (Nat.log2_eq_iff (by positivity)).mpr
          ⟨by simpa only [pow_add] using Nat.mul_le_mul_right _ (Nat.log2_self_le hc.ne'),
           by simpa only [pow_add, pow_one, mul_right_comm] using
              Nat.mul_lt_mul_of_pos_right (Nat.lt_log2_self (n := c)) (Nat.two_pow_pos (sh + q))⟩
      have hle : Nat.log2 c < f.mb + 1 := (Nat.log2_lt hc.ne').mpr hlt
      have hge : q = 0 ∨ f.mb ≤ Nat.log2 c := hnorm.imp_right (Nat.le_log2 hc.ne').mpr
      rw [if_neg (by positivity), hlog]
      omega
  rw [roundedBits, hscale, hq, roundShift_mul_pow]

/-! ### What the bits of an element are -/

/-- An element's bits are its sign, its exponent field and its fraction. -/
theorem fields_sum (f : FFmt) {v : Nat} (hv : v < 2 ^ (1 + f.eb + f.mb)) :
    bitsN v f.mb f.eb * 2 ^ f.mb + v % 2 ^ f.mb + (if v.testBit (f.eb + f.mb) then 2 ^ (f.eb + f.mb) else 0) = v := by
  have hlow := Nat.mod_add_div v (2 ^ f.mb)
  have hmid := Nat.mod_add_div (v / 2 ^ f.mb) (2 ^ f.eb)
  have htop : v / 2 ^ f.mb / 2 ^ f.eb = v / 2 ^ (f.eb + f.mb) := by rw [Nat.div_div_eq_div_mul, ← pow_add, add_comm f.mb]
  have hsign : v / 2 ^ (f.eb + f.mb) < 2 := by
    rw [Nat.div_lt_iff_lt_mul (Nat.two_pow_pos _), ← pow_succ']
    rwa [show f.eb + f.mb + 1 = 1 + f.eb + f.mb by omega]
  rw [htop] at hmid
  have hbit : (if v.testBit (f.eb + f.mb) then 2 ^ (f.eb + f.mb) else 0) = 2 ^ (f.eb + f.mb) * (v / 2 ^ (f.eb + f.mb)) := by
    rw [Nat.testBit_eq_decide_div_mod_eq, Nat.mod_eq_of_lt hsign]
    interval_cases v / 2 ^ (f.eb + f.mb) <;> simp
  calc bitsN v f.mb f.eb * 2 ^ f.mb + v % 2 ^ f.mb + (if v.testBit (f.eb + f.mb) then 2 ^ (f.eb + f.mb) else 0)
      = v % 2 ^ f.mb + 2 ^ f.mb * (v / 2 ^ f.mb % 2 ^ f.eb + 2 ^ f.eb * (v / 2 ^ (f.eb + f.mb))) := by
        rw [hbit, bitsN, Nat.shiftRight_eq_div_pow]
        ring
    _ = v := by rw [hmid, hlow]

/-- A magnitude is a significand, and its place is the exponent field. -/
theorem exists_significand (f : FFmt) (e : Nat) {m : Nat} (hm : m < 2 ^ f.mb) :
    ∃ c q, IsSignificand f c q ∧ (if e = 0 then m else (2 ^ f.mb + m) * 2 ^ (e - 1)) = c * 2 ^ q ∧
      q * 2 ^ f.mb + c = e * 2 ^ f.mb + m := by
  have hpow : 2 ^ (f.mb + 1) = 2 * 2 ^ f.mb := by ring
  rcases e with _ | e
  · exact ⟨m, 0, ⟨by omega, .inl rfl⟩, by simp, rfl⟩
  · exact ⟨2 ^ f.mb + m, e, ⟨by omega, .inr (by omega)⟩, by simp, by ring⟩

/-- Fields that spell neither an infinity nor a NaN lie below the format's limit. -/
theorem fields_finite {f : FFmt} {e m : Nat} (he : e < 2 ^ f.eb) (hm : m < 2 ^ f.mb)
    (hinf : ¬ (f.inf = true ∧ e = 2 ^ f.eb - 1)) (hnan : ¬ ((!f.inf) = true ∧ e = 2 ^ f.eb - 1 ∧ m = 2 ^ f.mb - 1)) :
    e * 2 ^ f.mb + m < finiteLimit f := by
  have hstep {k : Nat} (hk : e < k) : e * 2 ^ f.mb + m < k * 2 ^ f.mb := by nlinarith
  unfold finiteLimit
  split
  · next h => exact hstep (by simp only [h, true_and] at hinf; omega)
  · next h =>
    simp only [h, Bool.not_false, true_and] at hnan
    rw [pow_add]
    rcases Nat.lt_or_ge e (2 ^ f.eb - 1) with hlt | hge
    · have := hstep hlt
      rw [Nat.sub_mul] at this
      omega
    · obtain rfl : e = 2 ^ f.eb - 1 := by omega
      have hone := Nat.le_mul_of_pos_left (2 ^ f.mb) (Nat.two_pow_pos f.eb)
      rw [Nat.sub_mul]
      omega

/-- What an element that is no NaN decodes to: an infinity, a negative zero, or a significand with its sign. -/
theorem fDecode_cases (f : FFmt) {v : Nat} (hv : v < 2 ^ (1 + f.eb + f.mb)) (hnan : (fDecode f v).special ≠ 4) :
    (∃ neg : Bool, fDecode f v = { special := if neg then 3 else 2 } ∧ v = fInf f neg) ∨
      (fDecode f v = { special := 1 } ∧ v = 2 ^ (f.eb + f.mb)) ∨
      ∃ (neg : Bool) (c q : Nat), IsSignificand f c q ∧ q * 2 ^ f.mb + c < finiteLimit f ∧ (neg = true → c ≠ 0) ∧
        fDecode f v = { a := if neg then -((c * 2 ^ q : Nat) : Int) else (c * 2 ^ q : Nat) } ∧
        v = q * 2 ^ f.mb + c + if neg then 2 ^ (f.eb + f.mb) else 0 := by
  have hsum := fields_sum f hv
  have he : bitsN v f.mb f.eb < 2 ^ f.eb := Nat.mod_lt _ (Nat.two_pow_pos _)
  have hm : v % 2 ^ f.mb < 2 ^ f.mb := Nat.mod_lt _ (Nat.two_pow_pos _)
  have hw : 1 + f.eb + f.mb - 1 = f.eb + f.mb := by omega
  generalize hx : fDecode f v = x at hnan ⊢
  simp only [fDecode, hw] at hx
  generalize v.testBit (f.eb + f.mb) = neg at hx hsum
  generalize bitsN v f.mb f.eb = e at hx hsum he
  generalize v % 2 ^ f.mb = m at hx hsum hm
  split at hx
  · next hinf =>
    split at hx
    · next hm0 =>
      left
      refine ⟨neg, hx.symm, ?_⟩
      rw [fInf, if_pos hinf.1, ← hsum, hinf.2, hm0, add_zero]
    · subst hx
      exact absurd rfl hnan
  split at hx
  · subst hx
    exact absurd rfl hnan
  right
  next hinf hnone =>
  obtain ⟨c, q, hsig, hmag, hbits⟩ := exists_significand f e hm
  have hfinite : q * 2 ^ f.mb + c < finiteLimit f := hbits ▸ fields_finite he hm hinf hnone
  rw [hmag] at hx
  split at hx
  · next hzero =>
    left
    obtain ⟨hmag0, rfl⟩ := hzero
    have hc : c = 0 := (Nat.mul_eq_zero.mp hmag0).resolve_right (Nat.two_pow_pos q).ne'
    have hq : q = 0 := hsig.2.resolve_right (by have := Nat.two_pow_pos f.mb; omega)
    refine ⟨hx.symm, ?_⟩
    rw [← hsum, ← hbits, hc, hq]
    simp
  · next hzero =>
    right
    refine ⟨neg, c, q, hsig, hfinite, fun hneg hc => hzero ⟨by rw [hc, zero_mul], hneg⟩, hx.symm, ?_⟩
    rw [hbits, hsum]

/-! ### Rounding back -/

/-- Rounding undoes the conversion. -/
theorem fRound_fDecode (f : FFmt) (sh : Nat) {v : Nat} (hv : v < 2 ^ (1 + f.eb + f.mb)) (hnan : (fDecode f v).special ≠ 4) :
    fRound f sh { fDecode f v with a := (fDecode f v).a * 2 ^ sh } = v := by
  rcases fDecode_cases f hv hnan with ⟨neg, hx, hinf⟩ | ⟨hx, hzero⟩ | ⟨neg, c, q, hsig, hfinite, hne, hx, hfields⟩
  · rw [hx]
    cases neg <;> exact hinf.symm
  · rw [hx]
    exact hzero.symm
  · have habs : ((if neg then -((c * 2 ^ q : Nat) : Int) else (c * 2 ^ q : Nat)) * 2 ^ sh).natAbs = c * 2 ^ q * 2 ^ sh := by
      cases neg <;> simp [Int.natAbs_mul, Int.natAbs_pow]
    have hround := roundedBits_significand sh hsig
    have hsign : (if neg then -((c * 2 ^ q : Nat) : Int) else (c * 2 ^ q : Nat)) * 2 ^ sh < 0 ↔ neg = true := by
      cases neg with
      | false => simp
      | true => simpa [Nat.pos_iff_ne_zero] using hne rfl
    rw [hx]
    dsimp only
    rw [fRound_finite f sh _ (by rw [habs, hround]; exact hfinite), habs, hround, if_congr hsign rfl rfl, ← hfields]

/-- Settles O47: each of the five types is one of the formats, and `fRound_fDecode` speaks of all. -/
theorem exactRounding : Obligations.ExactRounding := by
  intro d v hd hv hnan
  obtain ⟨f, hf, hbits⟩ : ∃ f, fmtOf d = some f ∧ 8 * sizeOf_ d = 1 + f.eb + f.mb := by
    rcases hd with rfl | rfl | rfl | rfl | rfl <;> exact ⟨_, rfl, rfl⟩
  have hdec : elDecode 2 d v = { fDecode f v with a := (fDecode f v).a * 2 ^ exShift f } := by simp [elDecode, hf]
  have henc (x : Elem) : elEncode 2 d x = fRound f (exShift f) x := by simp [elEncode, hf]
  rw [hdec] at hnan ⊢
  rw [henc, fRound_fDecode f _ (hbits ▸ hv) hnan]

end Sys2Proof.Proofs
end

section
/-! PROOFS. Reads of telemetry, the map record and history, and the configuration of lock groups (O20: R349, R368, R410, R431). -/

namespace Sys2Proof.Proofs
open Sys2Proof.Machine Sys2Proof.Laws

/-! ### Reads of a byte range (R431) -/

theorem readPart_within {r : GcpReq} {off : Nat} {ws : List Word} (h : rangeOk off (lengthOf r) (4 * ws.length) = true)
    (s : State) : readPart r off ws s = okData r ((ws.drop (off / 4)).take (lengthOf r / 4)) s := by
  simp only [readPart, h, Bool.not_true, Bool.false_eq_true, if_false]

theorem readPart_beyond {r : GcpReq} {off : Nat} {ws : List Word} (h : rangeOk off (lengthOf r) (4 * ws.length) = false)
    (s : State) : readPart r off ws s = fail r stBadParam s := by
  simp only [readPart, h, Bool.not_false, if_true]

section
variable {r : GcpReq} {s : State} (ht : taken .reads false r s = true)
include ht

theorem effTelLiveRead_within (h : rangeOk (wAt r.words 5).toNat (lengthOf r) (4 * (telAll s).length) = true) :
    effTelLiveRead r s =
      okData r (((telAll s).drop ((wAt r.words 5).toNat / 4)).take (lengthOf r / 4)) (coreEcc eccTel s) := by
  rw [effTelLiveRead, gcp_taken _ ht]
  dsimp only
  rw [if_pos h, readPart_within h]

theorem effTelLiveRead_beyond (h : rangeOk (wAt r.words 5).toNat (lengthOf r) (4 * (telAll s).length) = false) :
    effTelLiveRead r s = fail r stBadParam s := by
  rw [effTelLiveRead, gcp_taken _ ht]
  dsimp only
  rw [if_neg (by simp [h]), readPart_beyond h]

theorem effMapRead_beyond (h : rangeOk (wAt r.words 5).toNat (lengthOf r) 2592 = false) :
    effMapRead r s = fail r stBadParam s := by
  rw [effMapRead, gcp_taken _ ht]
  simp only [h, Bool.not_false, if_true]

/-- A read at another offset answers from the record taken. -/
theorem effMapRead_again {ws : List Word} (h : rangeOk (wAt r.words 5).toNat (lengthOf r) 2592 = true)
    (hoff : wAt r.words 5 ≠ 0) (hsnap : snapOf s r = some ws) (hlen : ws.length = 648) :
    effMapRead r s = okData r ((ws.drop ((wAt r.words 5).toNat / 4)).take (lengthOf r / 4)) s := by
  have hoff' : (wAt r.words 5).toNat ≠ 0 := fun h0 => hoff (BitVec.eq_of_toNat_eq h0)
  rw [effMapRead, gcp_taken _ ht]
  simp only [h, Bool.not_true, Bool.false_eq_true, if_false, hsnap, hoff', Option.isNone_some, or_self, Option.getD_some]
  exact readPart_within (by rw [hlen]; exact h) s

end

/-- The record that `effMapRead` takes for a transport and requester. -/
def takeMap (r : GcpReq) (s : State) : State :=
  { coreEcc eccMap s with
    mgmt.maps := (r.via, r.srcEid, mapRecord s) :: s.mgmt.maps.filter (fun m => !(m.1 == r.via && m.2.1 == r.srcEid)) }

theorem snapOf_takeMap (r : GcpReq) (s : State) : snapOf (takeMap r s) r = some (mapRecord s) := by
  simp [snapOf, takeMap]

/-- A read at offset 0, or with no record taken yet, takes one and answers from it. -/
theorem effMapRead_takes {r : GcpReq} {s : State} (ht : taken .reads false r s = true)
    (h : rangeOk (wAt r.words 5).toNat (lengthOf r) 2592 = true) (hnew : wAt r.words 5 = 0 ∨ snapOf s r = none)
    (hlen : (mapRecord s).length = 648) :
    effMapRead r s =
      okData r (((mapRecord s).drop ((wAt r.words 5).toNat / 4)).take (lengthOf r / 4)) (takeMap r s) := by
  have hnew' : (wAt r.words 5).toNat = 0 ∨ (snapOf s r).isNone = true := by
    rcases hnew with h0 | hnone
    · exact .inl (by rw [h0]; rfl)
    · exact .inr (by rw [hnone]; rfl)
  rw [effMapRead, gcp_taken _ ht]
  simp only [h, Bool.not_true, Bool.false_eq_true, if_false, if_pos hnew']
  change readPart r _ ((snapOf (takeMap r s) r).getD []) (takeMap r s) = _
  rw [snapOf_takeMap]
  exact readPart_within (by rw [Option.getD_some, hlen]; exact h) _

section
variable {r : GcpReq} {s : State} (ht : taken .reads false r s = true)
include ht

theorem effHistRead_unserved (hh : hbmOk s = false) : effHistRead r s = fail r stUnitFenced s := by
  rw [effHistRead, gcp_taken _ ht]
  simp only [hh, Bool.not_false, if_true]

theorem effHistRead_written (hh : hbmOk s = true) (hslot : (wAt r.words 5).toNat < histSlots)
    (hwritten : s.net.wrapped = true ∨ (wAt r.words 5).toNat < s.net.histSlot)
    (h : rangeOk (wAt r.words 6).toNat (lengthOf r) 16384 = true) :
    effHistRead r s = okData r (Maps.range 0 (Maps.get [] s.net.hist (wAt r.words 5).toNat) ((wAt r.words 6).toNat / 4)
      (lengthOf r / 4)) s := by
  have hthere : ¬ (histSlots ≤ (wAt r.words 5).toNat ∨ ((!s.net.wrapped) = true ∧ s.net.histSlot ≤ (wAt r.words 5).toNat)
      ∨ (!rangeOk (wAt r.words 6).toNat (lengthOf r) 16384) = true) := by
    rintro (hbeyond | ⟨hfirst, hunwritten⟩ | hrange)
    · omega
    · rcases hwritten with hw | hw
      · simp [hw] at hfirst
      · omega
    · simp [h] at hrange
  rw [effHistRead, gcp_taken _ ht]
  simp only [hh, Bool.not_true, Bool.false_eq_true, if_false, if_neg hthere]

theorem effHistRead_absent (hh : hbmOk s = true)
    (h : histSlots ≤ (wAt r.words 5).toNat ∨ (s.net.wrapped = false ∧ s.net.histSlot ≤ (wAt r.words 5).toNat) ∨
      rangeOk (wAt r.words 6).toNat (lengthOf r) 16384 = false) :
    effHistRead r s = fail r stBadParam s := by
  rw [effHistRead, gcp_taken _ ht]
  simp only [hh, Bool.not_true, Bool.false_eq_true, if_false, Bool.not_eq_true', if_pos h]

end

/-! ### Lock groups (R368) -/

section
variable {r : GcpReq} {s : State} (ht : taken .none false r s = true)
include ht

theorem effLockMode_off (hon : domOn s (dMem (lgBole r)) = false) : effLockMode r s = fail r stNotPermitted s := by
  rw [effLockMode, gcp_taken _ ht]
  simp only [hon, Bool.not_false, if_true]

theorem effLockRights_off (hon : domOn s (dMem (lgBole r)) = false) : effLockRights r s = fail r stNotPermitted s := by
  rw [effLockRights, gcp_taken _ ht]
  simp only [hon, Bool.not_false, if_true]

variable (hon : domOn s (dMem (lgBole r)) = true)
include hon

theorem effLockMode_sets (hfree : (lgroupOf s (lgBole r) (lgGroup r)).claim = bAt r.words 5 16 ∨
      (lgLocks s r).any (fun l => l.owner.isSome || l.queue != []) = false) :
    effLockMode r s = ok r [] (setLgroup (lgBole r) (lgGroup r)
      { lgroupOf s (lgBole r) (lgGroup r) with claim := bAt r.words 5 16 } s) := by
  have hfree' : ¬ ((lgroupOf s (lgBole r) (lgGroup r)).claim ≠ bAt r.words 5 16 ∧
      (lgLocks s r).any (fun l => l.owner.isSome || l.queue != []) = true) := by
    rintro ⟨hchanges, hused⟩
    exact hfree.elim hchanges (by simp [hused])
  rw [effLockMode, gcp_taken _ ht]
  simp only [hon, Bool.not_true, Bool.false_eq_true, if_false, if_neg hfree']

theorem effLockMode_busy (hchanges : (lgroupOf s (lgBole r) (lgGroup r)).claim ≠ bAt r.words 5 16)
    (hused : (lgLocks s r).any (fun l => l.owner.isSome || l.queue != []) = true) :
    effLockMode r s = fail r stBusy s := by
  rw [effLockMode, gcp_taken _ ht]
  simp only [hon, Bool.not_true, Bool.false_eq_true, if_false, if_pos (And.intro hchanges hused)]

end

/-- The rights of a group once LOCK_RIGHTS has replaced 32 of them. -/
def newRights (r : GcpReq) (s : State) : BitVec 512 :=
  ((lgroupOf s (lgBole r) (lgGroup r)).rights &&& ~~~(BitVec.ofNat 512 (0xFFFFFFFF <<< (32 * fAt r.words 5 16 4)))) |||
    BitVec.ofNat 512 ((wAt r.words 6).toNat <<< (32 * fAt r.words 5 16 4))

/-- A lock's owner, or one that waits for it, is among some masters. -/
def lockUses (gone : BitVec 512) (l : Lock) : Bool :=
  (match l.owner with | some m => gone.getLsbD m | none => false) || l.queue.any gone.getLsbD

theorem effLockRights_on {r : GcpReq} {s : State} (ht : taken .none false r s = true)
    (hon : domOn s (dMem (lgBole r)) = true) :
    effLockRights r s =
      if (lgLocks s r).any (lockUses ((lgroupOf s (lgBole r) (lgGroup r)).rights &&& ~~~ newRights r s)) then fail r stBusy s
      else ok r [] (setLgroup (lgBole r) (lgGroup r)
        { lgroupOf s (lgBole r) (lgGroup r) with rights := newRights r s } s) := by
  rw [effLockRights, gcp_taken _ ht]
  simp only [hon, Bool.not_true, Bool.false_eq_true, if_false]
  rfl

/-- Settles O20: each clause is the answer that its hypotheses pick. -/
theorem readsAndLockGroups : Obligations.ReadsAndLockGroups := by
  unfold Obligations.ReadsAndLockGroups
  refine ⟨?telLive, ?telLiveBad, ?mapBad, ?mapAgain, ?mapTakes, ?hist, ?histUnserved, ?histBad, ?treeStatus, ?mode, ?modeOff,
    ?modeBusy, ?rightsOff, ?rightsBusy, ?rights⟩
  case telLive =>
    rintro r s _ ht h rfl
    exact clocked_runs fun _ => effTelLiveRead_within ht h
  case telLiveBad =>
    rintro r s _ ht h rfl
    exact clocked_runs fun _ => effTelLiveRead_beyond ht h
  case mapBad =>
    rintro r s _ ht h rfl
    exact clocked_runs fun _ => effMapRead_beyond ht h
  case mapAgain =>
    rintro r ws s _ ht h hoff hsnap hlen rfl
    exact clocked_runs fun _ => effMapRead_again ht h hoff hsnap hlen
  case mapTakes =>
    rintro r s _ ht h hnew hlen rfl
    exact clocked_runs fun _ => effMapRead_takes ht h hnew hlen
  case hist =>
    rintro r s _ ht hh hslot hwritten h rfl
    exact clocked_runs fun _ => effHistRead_written ht hh hslot hwritten h
  case histUnserved =>
    rintro r s _ ht hh rfl
    exact clocked_runs fun _ => effHistRead_unserved ht hh
  case histBad =>
    rintro r s _ ht hh h rfl
    exact clocked_runs fun _ => effHistRead_absent ht hh h
  case treeStatus =>
    rintro r s _ ht rfl
    exact clocked_runs fun _ => gcp_taken _ ht
  case mode =>
    rintro r s _ ht hon hfree rfl
    exact clocked_runs fun _ => effLockMode_sets ht hon hfree
  case modeOff =>
    rintro r s _ ht hon rfl
    exact clocked_runs fun _ => effLockMode_off ht hon
  case modeBusy =>
    rintro r s _ ht hon hchanges hused rfl
    exact clocked_runs fun _ => effLockMode_busy ht hon hchanges hused
  case rightsOff =>
    rintro r s _ ht hon rfl
    exact clocked_runs fun _ => effLockRights_off ht hon
  case rightsBusy =>
    rintro r _ _ s _ ht hon rfl rfl hused rfl
    exact clocked_runs fun _ => (effLockRights_on ht hon).trans (if_pos hused)
  case rights =>
    rintro r s _ ht hon hfree rfl
    exact clocked_runs fun _ => (effLockRights_on ht hon).trans (if_neg (Bool.not_eq_true _ ▸ hfree))

end Sys2Proof.Proofs
end

section
/-! PROOFS. A Crown unit and the packets of a tree (O44: R327, R328, R331, R337, R338, R345, R346). -/

namespace Sys2Proof.Proofs
open Sys2Proof.Machine Sys2Proof.Laws

/-! ### The configuration of a context is that of the stage -/

@[simp] theorem treeUnit_setTree (i j : Nat) (t : TreeCtx) (s : State) : treeUnit (setTree j t s) i = treeUnit s i := rfl
@[simp] theorem treeRoot_setTree (i j : Nat) (t : TreeCtx) (s : State) : treeRoot (setTree j t s) i = treeRoot s i := rfl
@[simp] theorem treeKids_setTree (i j : Nat) (t : TreeCtx) (s : State) : treeKids (setTree j t s) i = treeKids s i := rfl

/-- A TREE_UP has been counted at its unit, and its cells are free. -/
def countedUp (g : Nat) (p : Packet) (s : State) : State := inc (crnCtr g 0) (freeInternal (xC g) p s)
/-- The same of a TREE_DOWN. -/
def countedDown (g : Nat) (p : Packet) (s : State) : State := inc (crnCtr g 2) (freeInternal (xC g) p s)

/-! ### TREE_UP before its place in the sequence -/

section
variable {g n : Nat} {p : Packet} {s : State}

theorem effTreeUp_unused (hst : (tree s (crIdx p)).st = 0) : effTreeUp g n p s = countedUp g p s := by
  simp only [effTreeUp, hst, if_true, countedUp]

theorem effTreeUp_e2eBad (hst : (tree s (crIdx p)).st ≠ 0) (he : e2eGood p = false) :
    effTreeUp g n p s = treeError g (crIdx p) true (countedUp g p s) := by
  simp [effTreeUp, hst, he, countedUp]

theorem effTreeUp_badLength (hst : (tree s (crIdx p)).st ≠ 0) (he : e2eGood p = true) (hl : lenOk p = false) :
    effTreeUp g n p s = treeError g (crIdx p) false (countedUp g p s) := by
  simp [effTreeUp, hst, he, hl, countedUp]

theorem effTreeUp_broken (hst : (tree s (crIdx p)).st ≠ 0) (hst1 : (tree s (crIdx p)).st ≠ 1) (hl : lenOk p = true)
    (he : e2eGood p = true) : effTreeUp g n p s =
      if 64 ≤ n ∧ (treeKids (countedUp g p s) (crIdx p)).contains n = true then
        sendStatus false (crIdx p) 1 n (countedUp g p s) else countedUp g p s := by
  simp [effTreeUp, hst, hst1, he, hl, countedUp]

section
variable (hst : (tree s (crIdx p)).st = 1) (hl : lenOk p = true) (he : e2eGood p = true)
include hst hl he

theorem effTreeUp_stranger (hkid : (treeKids (countedUp g p s) (crIdx p)).contains n = false) :
    effTreeUp g n p s = treeError g (crIdx p) false (countedUp g p s) := by
  unfold countedUp at *
  simp only [effTreeUp, hst, hl, he, hkid, Bool.not_true, Bool.false_eq_true, or_self, ne_eq, not_true_eq_false, one_ne_zero,
    if_false, Bool.not_false, if_true]

variable (hkid : (treeKids (countedUp g p s) (crIdx p)).contains n = true)
include hkid

theorem effTreeUp_badFields (hf : treeFieldsBad true n p = true) :
    effTreeUp g n p s = treeError g (crIdx p) false (countedUp g p s) := by
  unfold countedUp at *
  simp only [effTreeUp, hst, hl, he, hkid, hf, Bool.not_true, Bool.false_eq_true, or_self, ne_eq, not_true_eq_false, one_ne_zero,
    if_false, if_true]

end

/-- A TREE_UP reaches an ACTIVE context sound and of its length, from a child, with fields that R328 permits. -/
structure ChildUp (g n : Nat) (p : Packet) (s : State) : Prop where
  active : (tree s (crIdx p)).st = 1
  length : lenOk p = true
  sound : e2eGood p = true
  child : (treeKids (countedUp g p s) (crIdx p)).contains n = true
  fields : treeFieldsBad true n p = false

/-- A chunk that an operation does not have or that its window does not let in, one already sent up, or a second contribution
of a child. -/
abbrev Misplaced (t : TreeCtx) (window n : Nat) (p : Packet) : Prop :=
  t.chunks ≤ crChunk p ∨ inWindow t window (crChunk p) = false ∨ t.sent.contains (crChunk p) = true ∨
    t.ups.any (fun x => x.chunk == crChunk p && x.got.contains n) = true

/-- A contribution that asks for ORDERED where it is not permitted, or differs from its chunk's first. -/
abbrev Mismatched (t : TreeCtx) (ordered : Bool) (p : Packet) : Prop :=
  (crMode p = 1 ∧ ordered = false) ∨ t.ups.any (fun x => x.chunk == crChunk p &&
    (x.op != crOp p || x.dtype != crDtype p || x.mode != crMode p || x.elems.toNat != crElems p)) = true

/-- A contribution of STATUS 0 looks for its place in the operation that it belongs to; `u` is the state in which it has been
counted. -/
def placeUp (g n : Nat) (p : Packet) (t : TreeCtx) (u : State) : State :=
  match crVals p, upSeq t p with
  | some vals, some t =>
    if Misplaced t (treeWindow u (crIdx p)) n p then treeError g (crIdx p) false u
    else if Mismatched t (bitW (treeW u (crIdx p) 0) 20) p then breakTree (crIdx p) 4 none (setTree (crIdx p) t u)
    else contribute (crIdx p) n p vals (setTree (crIdx p) t u)
  | _, _ => treeError g (crIdx p) false u

/-- Such a TREE_UP is judged by its STATUS. -/
theorem effTreeUp_child (h : ChildUp g n p s) : effTreeUp g n p s =
    if crStatus p = 1 then breakTree (crIdx p) 5 (some n) (countedUp g p s)
    else if crStatus p = 2 then breakTree (crIdx p) 4 (some n) (countedUp g p s)
    else if crStatus p = 3 then countedUp g p s
    else placeUp g n p (tree s (crIdx p)) (countedUp g p s) := by
  obtain ⟨hst, hl, he, hkid, hf⟩ := h
  unfold countedUp at *
  simp only [effTreeUp, hst, hl, he, hkid, hf, Bool.not_true, Bool.false_eq_true, or_self, ne_eq, not_true_eq_false,
    one_ne_zero, if_false, Bool.not_eq_true']
  rfl

theorem effTreeUp_result (h : ChildUp g n p s) (hs : crStatus p = 0) :
    effTreeUp g n p s = placeUp g n p (tree s (crIdx p)) (countedUp g p s) := by
  simp [effTreeUp_child h, hs]

/-- A payload that its fields do not call for, or an OP_SEQ out of turn. -/
theorem placeUp_none {t : TreeCtx} (hnone : crVals p = none ∨ upSeq t p = none) (u : State) :
    placeUp g n p t u = treeError g (crIdx p) false u := by
  unfold placeUp
  rcases hnone with hnone | hnone
  · simp only [hnone]
  · cases hvals : crVals p <;> simp only [hnone]

/-- A contribution in turn that finds its place, and agrees with its chunk's first. -/
structure Contribution (g n : Nat) (p : Packet) (s : State) (vals : List Elem) (t : TreeCtx) : Prop extends ChildUp g n p s where
  status : crStatus p = 0
  values : crVals p = some vals
  inTurn : upSeq (tree s (crIdx p)) p = some t
  placed : ¬ Misplaced t (treeWindow (countedUp g p s) (crIdx p)) n p
  agrees : ¬ Mismatched t (bitW (treeW (countedUp g p s) (crIdx p) 0) 20) p

section
variable {vals : List Elem} {t₀ t : TreeCtx} {u : State} (hvals : crVals p = some vals) (hseq : upSeq t₀ p = some t)
include hvals hseq

theorem placeUp_misplaced (hm : Misplaced t (treeWindow u (crIdx p)) n p) :
    placeUp g n p t₀ u = treeError g (crIdx p) false u := by
  simp only [placeUp, hvals, hseq, if_pos hm]

theorem placeUp_mismatched (hplace : ¬ Misplaced t (treeWindow u (crIdx p)) n p)
    (hm : Mismatched t (bitW (treeW u (crIdx p) 0) 20) p) :
    placeUp g n p t₀ u = breakTree (crIdx p) 4 none (setTree (crIdx p) t u) := by
  simp only [placeUp, hvals, hseq, if_neg hplace, if_pos hm]

end

theorem misplaced_not {t : TreeCtx} {w : Nat} (hchunk : crChunk p < t.chunks) (hwin : inWindow t w (crChunk p) = true)
    (hsent : t.sent.contains (crChunk p) = false)
    (hnew : t.ups.any (fun x => x.chunk == crChunk p && x.got.contains n) = false) : ¬ Misplaced t w n p := by
  rintro (h | h | h | h)
  · omega
  · rw [hwin] at h; cases h
  · rw [hsent] at h; cases h
  · rw [hnew] at h; cases h

theorem mismatched_not {t : TreeCtx} {ordered : Bool} (hmode : crMode p ≠ 1 ∨ ordered = true)
    (hsame : t.ups.any (fun x => x.chunk == crChunk p &&
      (x.op != crOp p || x.dtype != crDtype p || x.mode != crMode p || x.elems.toNat != crElems p)) = false) :
    ¬ Mismatched t ordered p := by
  rintro (⟨h1, h2⟩ | h)
  · exact hmode.elim (· h1) (by simp [h2])
  · rw [hsame] at h; cases h

theorem Contribution.intro {vals : List Elem} {t : TreeCtx} (hst : (tree s (crIdx p)).st = 1) (hl : lenOk p = true)
    (he : e2eGood p = true) (hkid : (treeKids (countedUp g p s) (crIdx p)).contains n = true) (hs : crStatus p = 0)
    (hf : treeFieldsBad true n p = false) (hvals : crVals p = some vals) (hseq : upSeq (tree s (crIdx p)) p = some t)
    (hchunk : crChunk p < t.chunks) (hwin : inWindow t (treeWindow (countedUp g p s) (crIdx p)) (crChunk p) = true)
    (hsent : t.sent.contains (crChunk p) = false)
    (hnew : t.ups.any (fun x => x.chunk == crChunk p && x.got.contains n) = false)
    (hmode : crMode p ≠ 1 ∨ bitW (treeW (countedUp g p s) (crIdx p) 0) 20 = true)
    (hsame : t.ups.any (fun x => x.chunk == crChunk p &&
      (x.op != crOp p || x.dtype != crDtype p || x.mode != crMode p || x.elems.toNat != crElems p)) = false) :
    Contribution g n p s vals t :=
  ⟨⟨hst, hl, he, hkid, hf⟩, hs, hvals, hseq, misplaced_not hchunk hwin hsent hnew, mismatched_not hmode hsame⟩

theorem Contribution.enters {vals : List Elem} {t : TreeCtx} (h : Contribution g n p s vals t) :
    effTreeUp g n p s = contribute (crIdx p) n p vals (setTree (crIdx p) t (countedUp g p s)) := by
  rw [effTreeUp_result h.toChildUp h.status]
  simp only [placeUp, h.values, h.inTurn, if_neg h.placed, if_neg h.agrees]

end

/-! ### A contribution enters its up slot (R331, R338) -/

/-- The up slot of a chunk: the one that its first contribution took, or a new one. -/
def chunkSlot (t : TreeCtx) (p : Packet) : UpSlot :=
  (t.ups.find? (fun z => z.chunk == crChunk p)).getD
    { chunk := crChunk p, op := crOp p, dtype := crDtype p, mode := crMode p, elems := w32 (crElems p), got := [],
      vals := [], held := [] }

theorem chunkSlot_chunk (t : TreeCtx) (p : Packet) : (chunkSlot t p).chunk = crChunk p := by
  unfold chunkSlot
  cases hfind : t.ups.find? (fun z => z.chunk == crChunk p) with
  | none => rfl
  | some x => simpa using List.find?_some hfind

/-- Contributions held under ORDERED, in ascending child index (R331). -/
def heldInOrder (held : List (Nat × List Elem)) : List (List Elem) :=
  (List.range 68).filterMap (fun q => (held.find? (fun z => z.1 == q)).map (fun z => z.2))

/-- Contributions combined from the first one on. -/
def combineAll (op mode d : Nat) (l : List (List Elem)) : List Elem :=
  l.tail.foldl (fun a c => List.zipWith (elCombine op mode d) a c) (l.headD [])

theorem foldHeld_eq (op mode d : Nat) (held : List (Nat × List Elem)) :
    foldHeld op mode d held = combineAll op mode d (heldInOrder held) := by
  unfold foldHeld combineAll
  split
  · next hnone => rw [heldInOrder, hnone]; rfl
  · next v vs hsome => rw [heldInOrder, hsome]; rfl

/-- What a slot holds once child `n` of `kids` has contributed. -/
def filledSlot (kids : List Nat) (n : Nat) (vals : List Elem) (x : UpSlot) : UpSlot :=
  { x with
    got := n :: x.got,
    held := if x.mode = 1 then (n, vals) :: x.held else [],
    ecc := .good,
    vals := if x.mode = 1 then
        (if kids.all (fun q => (n :: x.got).contains q) then
          combineAll x.op 1 x.dtype (heldInOrder ((n, vals) :: x.held)) else [])
      else if x.got = [] then vals else List.zipWith (elCombine x.op x.mode x.dtype) x.vals vals }

/-- The words of a slot have been read and its bytes counted. -/
def countedSlot (i : Nat) (x : UpSlot) (s : State) : State :=
  if elemsIn x.mode x.dtype x.elems.toNat x.chunk * sizeOf_ x.dtype = 0 then
    (if x.ecc = .corr then inc (grvBase (treeUnit s i) + 0x48) s else s)
  else count (crnCtr (treeUnit s i) 6) (elemsIn x.mode x.dtype x.elems.toNat x.chunk * sizeOf_ x.dtype)
    (if x.ecc = .corr then inc (grvBase (treeUnit s i) + 0x48) s else s)

section
variable {i n : Nat} {p : Packet} {vals : List Elem} {t : TreeCtx} {u : State} {x : UpSlot} (hslot : chunkSlot t p = x)
include hslot

theorem contribute_struck (hx : x.ecc = .bad) : contribute i n p vals (setTree i t u) =
      breakTree i 2 none (raise (148 + treeUnit u i) 8 (setTree i t u)) := by
  unfold chunkSlot at hslot
  simp only [contribute, tree_setTree_same, hslot, readSlotUp, hx, if_true, Bool.not_false, treeUnit_setTree]

theorem contribute_enters (hx : x.ecc ≠ .bad) : contribute i n p vals (setTree i t u) =
      if (treeKids u i).all (fun q => (n :: x.got).contains q) then
        chunkDone i (filledSlot (treeKids u i) n vals x)
          (setTree i { t with ups := t.ups.filter (fun z => z.chunk != x.chunk) } (countedSlot i x (setTree i t u)))
      else
        setTree i { t with ups := filledSlot (treeKids u i) n vals x :: t.ups.filter (fun z => z.chunk != x.chunk) }
          (countedSlot i x (setTree i t u)) := by
  unfold chunkSlot at hslot
  simp only [contribute, tree_setTree_same, hslot, readSlotUp, if_neg hx, Bool.not_true, Bool.false_eq_true, if_false]
  by_cases hmode : x.mode = 1
  · simp only [filledSlot, countedSlot, hmode, if_true, foldHeld_eq]
    rfl
  · simp only [filledSlot, countedSlot, hmode, if_false]
    rfl

end

/-! ### A chunk leaves its unit (R338) -/

theorem crChunk_lt (p : Packet) : crChunk p < 2 ^ 16 := Nat.mod_lt _ (Nat.two_pow_pos 16)

/-- A tree packet carries its chunk number. -/
theorem crChunk_treePkt {c : Nat} (hc : c < 2 ^ 16) (up : Bool) (idx tag q op d mode enc st el : Nat) (pl : List Byte) :
    crChunk (treePkt up idx tag q op d mode enc c st el pl) = c := by
  have hat : extAt 0x20 5 = 0 := by decide
  have hword : Packet.extW (treePkt up idx tag q op d mode enc c st el pl) 5 2 = pack [(0, 16, c), (16, 8, st)] := by
    simp only [Packet.extW, treePkt, hat, wAt, Nat.zero_add, List.getD_cons_succ, List.getD_cons_zero]
  have hfield : fld (pack [(0, 16, c), (16, 8, st)]) 0 16 = c := by
    simp only [pack, sumN, at_, w32, fld, bitsN, Nat.shiftLeft_eq, List.map_cons, List.map_nil, List.foldl_cons,
      List.foldl_nil, BitVec.toNat_ofNat, Nat.shiftRight_zero]
    omega
  rw [crChunk, Packet.extF, hword, hfield]

/-- Two states hold the same entry of a context. -/
def SameEntry (i : Nat) (s u : State) : Prop := ∀ w, treeW s i w = treeW u i w

section
variable {i : Nat} {s u : State} (h : SameEntry i s u)
include h

theorem SameEntry.unit : treeUnit s i = treeUnit u i := by rw [treeUnit, treeF, h, treeUnit, treeF]
theorem SameEntry.root : treeRoot s i = treeRoot u i := by rw [treeRoot, h, treeRoot]
theorem SameEntry.parent : treeParent s i = treeParent u i := by rw [treeParent, treeF, h, treeParent, treeF]
theorem SameEntry.field (w lo n : Nat) : treeF s i w lo n = treeF u i w lo n := by rw [treeF, h, treeF]
theorem SameEntry.setTree (t : TreeCtx) : SameEntry i (setTree i t s) u := h
theorem SameEntry.inc (key : Nat) : SameEntry i (inc key s) u := fun w => by
  rw [← h, treeW, treeW, rws, rws, inc_stage, inc_grade425]
theorem SameEntry.count (key n : Nat) : SameEntry i (count key n s) u := fun w => by
  rw [← h, treeW, treeW, rws, rws, count_stage, count_grade425]

end

theorem sameEntry_countedSlot (i : Nat) (x : UpSlot) {s u : State} (h : SameEntry i s u) :
    SameEntry i (countedSlot i x s) u := by
  have hread : SameEntry i (if x.ecc = .corr then inc (grvBase (treeUnit s i) + 0x48) s else s) u := by
    split
    · exact h.inc _
    · exact h
  unfold countedSlot
  split
  · exact hread
  · exact hread.count _ _

/-- The copies of a result towards every child, queued in turn by unit `v`. -/
def copiedDown (v i : Nat) (p : Packet) (r : State) : State :=
  (treeKids r i).foldl (fun a c => inc (crnCtr v 3) (sendTree v c p a)) r

/-- While copies of chunk `c` that have been queued since `r` wait in `k`, its down slot holds the result (log 100). -/
def heldDown (i c : Nat) (r k : State) : State :=
  if k.net.voq.length - r.net.voq.length = 0 then k
  else setTree i { tree k i with
    downs := { chunk := c, left := k.net.voq.length - r.net.voq.length } :: (tree k i).downs.filter (fun d => d.chunk != c) } k

theorem sendDown_eq {v i c : Nat} {p : Packet} {r : State} (hv : treeUnit r i = v) (hc : crChunk p = c) :
    sendDown i p r = heldDown i c r (copiedDown v i p r) := by
  subst hv hc
  rfl

/-- A chunk that is done at the root is rounded, and goes down to every child. -/
theorem chunkDone_root {i : Nat} {x : UpSlot} {t : TreeCtx} {s u r k : State} (h : SameEntry i s u) (ht : tree s i = t)
    (hx : x.chunk < 2 ^ 16) (hroot : treeRoot u i = true)
    (hr : r = setTree i { t with sent := x.chunk :: t.sent, downed := x.chunk :: t.downed } (inc (crnCtr (treeUnit u i) 4) s))
    (hk : k = copiedDown (treeUnit u i) i (treePkt false i (treeF u i 0 0 16) t.opSeq.toNat x.op x.dtype x.mode 0 x.chunk 0
      x.elems.toNat (elemBytes x.mode x.dtype x.vals)) r) :
    chunkDone i x s = if t.downed.length + 1 = t.chunks then inc (crnCtr (treeUnit u i) 5) (heldDown i x.chunk r k)
      else heldDown i x.chunk r k := by
  have hcounted := h.inc (crnCtr (treeUnit u i) 4)
  have hunit : treeUnit r i = treeUnit u i := by rw [hr]; exact (hcounted.setTree _).unit
  simp only [chunkDone, ht, h.unit, hcounted.root, hroot, if_true, hcounted.field, ← hr, List.length_cons]
  rw [sendDown_eq hunit (crChunk_treePkt hx ..), ← hk]

section
variable {i : Nat} {x : UpSlot} {t : TreeCtx} {s u r : State} (h : SameEntry i s u) (ht : tree s i = t)
  (hroot : treeRoot u i = false)
  (hr : r = setTree i { t with sent := x.chunk :: t.sent } (inc (crnCtr (treeUnit u i) 4) s))
include h ht hroot hr

/-- A chunk that is done elsewhere goes up with its partial sums. -/
theorem chunkDone_up (hmode : x.mode ≠ 2) :
    chunkDone i x s = inc (crnCtr (treeUnit u i) 1) (sendTree (treeUnit u i) (treeParent u i)
      (treePkt true i (treeF u i 0 0 16) t.opSeq.toNat x.op x.dtype x.mode 0 x.chunk 0 x.elems.toNat
        (elemBytes x.mode x.dtype x.vals)) r) := by
  have hcounted := h.inc (crnCtr (treeUnit u i) 4)
  have hparent : treeParent r i = treeParent u i := by rw [hr]; exact (hcounted.setTree _).parent
  simp only [chunkDone, ht, h.unit, hcounted.root, hroot, Bool.false_eq_true, if_false, hcounted.field, ← hr, if_neg hmode,
    if_true, hparent]

/-- In EXACT mode they go in an exact payload, whose full forms are counted. -/
theorem chunkDone_up_exact {pl : List Byte} {e : Nat} (hmode : x.mode = 2) (hpl : exPayload x.vals = (pl, e)) :
    chunkDone i x s = inc (crnCtr (treeUnit u i) 1) (sendTree (treeUnit u i) (treeParent u i)
      (treePkt true i (treeF u i 0 0 16) t.opSeq.toNat x.op x.dtype x.mode 1 x.chunk 0 x.elems.toNat pl)
      (if e = 0 then r else count (crnCtr (treeUnit u i) 7) e r)) := by
  have hcounted := h.inc (crnCtr (treeUnit u i) 4)
  have hnext : SameEntry i r u := by rw [hr]; exact hcounted.setTree _
  have hparent : treeParent (if e = 0 then r else count (crnCtr (treeUnit u i) 7) e r) i = treeParent u i := by
    split
    · exact hnext.parent
    · exact (hnext.count _ _).parent
  simp only [chunkDone, ht, h.unit, hcounted.root, hroot, Bool.false_eq_true, if_false, hcounted.field, ← hr, if_pos hmode,
    hpl, hparent]

end

/-! ### TREE_DOWN -/

section
variable {g n : Nat} {p : Packet} {s : State}

theorem effTreeDown_idle (h : (tree s (crIdx p)).st = 0 ∨ ((tree s (crIdx p)).st ≠ 1 ∧ lenOk p = true ∧ e2eGood p = true)) :
    effTreeDown g n p s = countedDown g p s := by
  rcases h with hst | ⟨hst, hl, he⟩
  · simp only [effTreeDown, hst, if_true, countedDown]
  · simp only [effTreeDown, hl, he, Bool.not_true, Bool.false_eq_true, or_self, if_false, if_pos hst, countedDown, ite_self]

theorem effTreeDown_e2eBad (hst : (tree s (crIdx p)).st ≠ 0) (he : e2eGood p = false) :
    effTreeDown g n p s = treeError g (crIdx p) true (countedDown g p s) := by
  simp [effTreeDown, hst, he, countedDown]

theorem effTreeDown_badLength (hst : (tree s (crIdx p)).st ≠ 0) (he : e2eGood p = true) (hl : lenOk p = false) :
    effTreeDown g n p s = treeError g (crIdx p) false (countedDown g p s) := by
  simp [effTreeDown, hst, he, hl, countedDown]

section
variable (hst : (tree s (crIdx p)).st = 1) (hl : lenOk p = true) (he : e2eGood p = true)
include hst hl he

theorem effTreeDown_stranger (h : treeRoot (countedDown g p s) (crIdx p) = true ∨ n ≠ treeParent (countedDown g p s) (crIdx p)) :
    effTreeDown g n p s = treeError g (crIdx p) false (countedDown g p s) := by
  unfold countedDown at *
  simp only [effTreeDown, hst, hl, he, Bool.not_true, Bool.false_eq_true, or_self, ne_eq, not_true_eq_false, one_ne_zero,
    if_false]
  exact if_pos h

/-- A TREE_DOWN of the parent, with fields that R328 permits, is judged by its STATUS and its place. -/
theorem effTreeDown_parent (hroot : treeRoot (countedDown g p s) (crIdx p) = false)
    (hn : n = treeParent (countedDown g p s) (crIdx p)) : effTreeDown g n p s =
      if treeFieldsBad false n p then treeError g (crIdx p) false (countedDown g p s)
      else if crStatus p = 1 then breakTree (crIdx p) 5 none (countedDown g p s)
      else if crStatus p = 2 then breakTree (crIdx p) 4 none (countedDown g p s)
      else if crSeq p ≠ (tree s (crIdx p)).opSeq ∨ (tree s (crIdx p)).started = false ∨
          (tree s (crIdx p)).sent.contains (crChunk p) = false ∨ (tree s (crIdx p)).downed.contains (crChunk p) = true then
        treeError g (crIdx p) false (countedDown g p s)
      else
        sendDown (crIdx p) (treePkt false (crIdx p) (treeF (countedDown g p s) (crIdx p) 0 0 16) (crSeq p).toNat (crOp p)
            (crDtype p) (crMode p) 0 (crChunk p) 0 (crElems p) p.payload)
          (setTree (crIdx p) { tree s (crIdx p) with downed := crChunk p :: (tree s (crIdx p)).downed } (countedDown g p s)) := by
  unfold countedDown at *
  simp only [effTreeDown, hst, hl, he, hroot, ← hn, Bool.not_true, Bool.false_eq_true, or_self, ne_eq, not_true_eq_false,
    one_ne_zero, if_false, Bool.not_eq_true']
  rfl

end

end

/-- The up slot of a chunk that is done has been read, and is free. -/
def freedSlot (i : Nat) (t : TreeCtx) (x : UpSlot) (u : State) : State :=
  setTree i { t with ups := t.ups.filter (fun z => z.chunk != x.chunk) } (countedSlot i x (setTree i t u))

theorem sameEntry_freedSlot (i : Nat) (t : TreeCtx) (x : UpSlot) (u : State) : SameEntry i (freedSlot i t x u) u :=
  (sameEntry_countedSlot i x (s := setTree i t u) fun _ => rfl).setTree _

theorem tree_freedSlot (i : Nat) (t : TreeCtx) (x : UpSlot) (u : State) :
    tree (freedSlot i t x u) i = { t with ups := t.ups.filter (fun z => z.chunk != x.chunk) } := tree_setTree_same ..

/-! ### What a contribution brings about -/

section
variable {g n : Nat} {p : Packet} {s : State} {vals : List Elem} {t : TreeCtx} {x : UpSlot}
  (h : Contribution g n p s vals t) (hslot : chunkSlot t p = x) (hx : x.ecc ≠ .bad)
include h hslot hx

/-- While another child's contribution is missing, the chunk's slot holds those that have come. -/
theorem Contribution.waits
    (hsome : (treeKids (countedUp g p s) (crIdx p)).all (fun q => (n :: x.got).contains q) = false) :
    effTreeUp g n p s = setTree (crIdx p)
      { t with ups := filledSlot (treeKids (countedUp g p s) (crIdx p)) n vals x :: t.ups.filter (fun z => z.chunk != x.chunk) }
      (countedSlot (crIdx p) x (setTree (crIdx p) t (countedUp g p s))) := by
  rw [h.enters, contribute_enters hslot hx, hsome]
  rfl

variable (hall : (treeKids (countedUp g p s) (crIdx p)).all (fun q => (n :: x.got).contains q) = true)
include hall

/-- The last contribution of a chunk frees its slot, and the chunk is done. -/
theorem Contribution.completes : effTreeUp g n p s =
    chunkDone (crIdx p) (filledSlot (treeKids (countedUp g p s) (crIdx p)) n vals x)
      (freedSlot (crIdx p) t x (countedUp g p s)) := by
  rw [h.enters, contribute_enters hslot hx, if_pos hall]
  rfl

variable {f : UpSlot} (hf : f = filledSlot (treeKids (countedUp g p s) (crIdx p)) n vals x)
include hf

/-- At the root its rounded result goes down. -/
theorem Contribution.goesDown {r k : State} (hroot : treeRoot (countedUp g p s) (crIdx p) = true)
    (hr : r = setTree (crIdx p)
      { t with ups := t.ups.filter (fun z => z.chunk != x.chunk), sent := f.chunk :: t.sent, downed := f.chunk :: t.downed }
      (inc (crnCtr (treeUnit (countedUp g p s) (crIdx p)) 4) (freedSlot (crIdx p) t x (countedUp g p s))))
    (hk : k = copiedDown (treeUnit (countedUp g p s) (crIdx p)) (crIdx p)
      (treePkt false (crIdx p) (treeF (countedUp g p s) (crIdx p) 0 0 16) t.opSeq.toNat f.op f.dtype f.mode 0 f.chunk 0
        f.elems.toNat (elemBytes f.mode f.dtype f.vals)) r) :
    effTreeUp g n p s =
      if t.downed.length + 1 = t.chunks then
        inc (crnCtr (treeUnit (countedUp g p s) (crIdx p)) 5) (heldDown (crIdx p) f.chunk r k)
      else heldDown (crIdx p) f.chunk r k := by
  have hchunk : f.chunk < 2 ^ 16 := by
    rw [hf, show (filledSlot _ n vals x).chunk = x.chunk from rfl, ← hslot, chunkSlot_chunk]
    exact crChunk_lt p
  rw [h.completes hslot hx hall, ← hf,
    chunkDone_root (sameEntry_freedSlot _ _ _ _) (tree_freedSlot (crIdx p) t x (countedUp g p s)) hchunk hroot hr hk]

variable {r : State} (hroot : treeRoot (countedUp g p s) (crIdx p) = false)
  (hr : r = setTree (crIdx p) { t with ups := t.ups.filter (fun z => z.chunk != x.chunk), sent := f.chunk :: t.sent }
    (inc (crnCtr (treeUnit (countedUp g p s) (crIdx p)) 4) (freedSlot (crIdx p) t x (countedUp g p s))))
include hroot hr

/-- Elsewhere its partial sums go up. -/
theorem Contribution.goesUp (hmode : x.mode ≠ 2) : effTreeUp g n p s =
    inc (crnCtr (treeUnit (countedUp g p s) (crIdx p)) 1) (sendTree (treeUnit (countedUp g p s) (crIdx p))
      (treeParent (countedUp g p s) (crIdx p)) (treePkt true (crIdx p) (treeF (countedUp g p s) (crIdx p) 0 0 16)
        t.opSeq.toNat f.op f.dtype f.mode 0 f.chunk 0 f.elems.toNat (elemBytes f.mode f.dtype f.vals)) r) := by
  have hmode' : f.mode ≠ 2 := by rw [hf]; exact hmode
  rw [h.completes hslot hx hall, ← hf,
    chunkDone_up (sameEntry_freedSlot _ _ _ _) (tree_freedSlot (crIdx p) t x (countedUp g p s)) hroot hr hmode']

theorem Contribution.goesUp_exact {pl : List Byte} {e : Nat} (hmode : x.mode = 2) (hpl : exPayload f.vals = (pl, e)) :
    effTreeUp g n p s = inc (crnCtr (treeUnit (countedUp g p s) (crIdx p)) 1)
      (sendTree (treeUnit (countedUp g p s) (crIdx p)) (treeParent (countedUp g p s) (crIdx p))
        (treePkt true (crIdx p) (treeF (countedUp g p s) (crIdx p) 0 0 16) t.opSeq.toNat f.op f.dtype f.mode 1 f.chunk 0
          f.elems.toNat pl)
        (if e = 0 then r else count (crnCtr (treeUnit (countedUp g p s) (crIdx p)) 7) e r)) := by
  have hmode' : f.mode = 2 := by rw [hf]; exact hmode
  rw [h.completes hslot hx hall, ← hf,
    chunkDone_up_exact (sameEntry_freedSlot _ _ _ _) (tree_freedSlot (crIdx p) t x (countedUp g p s)) hroot hr hmode' hpl]

end

/-- Settles O44: a packet is judged test by test, and what passes is combined, sent up or copied down. -/
theorem treePackets : Obligations.TreePackets := by
  unfold Obligations.TreePackets
  refine ⟨?brokenChild, ?brokenOther, ?unused, ?e2eBad, ?badLength, ?stranger, ?badFields, ?peer, ?mismatch, ?noTree,
    ?outOfTurn, ?misplaced, ?struck, ?waits, ?rootLast, ?rootMore, ?up, ?upExact, ?mismatched, ?downIdle, ?downE2eBad,
    ?downBadLength, ?downStranger, ?downBadFields, ?downMisplaced, ?down, ?downPeer, ?downMismatch⟩
  case brokenChild =>
    rintro g n _ p _ s _ rfl rfl hst hl he hn hkid rfl
    exact clocked_runs fun _ => (effTreeUp_broken (by omega) (by omega) hl he).trans (if_pos ⟨hn, hkid⟩)
  case brokenOther =>
    rintro g n _ p _ s _ rfl rfl hst hst1 hl he hother rfl
    refine clocked_runs fun _ => (effTreeUp_broken hst hst1 hl he).trans (if_neg ?_)
    rintro ⟨hn, hkid⟩
    exact hother.elim (by omega) (fun hno => by rw [countedUp, hno] at hkid; cases hkid)
  case unused =>
    rintro g n _ p _ s _ rfl rfl hst rfl
    exact clocked_runs fun _ => effTreeUp_unused hst
  case e2eBad =>
    rintro g n _ p _ s _ rfl rfl hst he rfl
    exact clocked_runs fun _ => effTreeUp_e2eBad hst he
  case badLength =>
    rintro g n _ p _ s _ rfl rfl hst he hl rfl
    exact clocked_runs fun _ => effTreeUp_badLength hst he hl
  case stranger =>
    rintro g n _ p _ s _ rfl rfl hst hl he hkid rfl
    exact clocked_runs fun _ => effTreeUp_stranger hst hl he hkid
  case badFields =>
    rintro g n _ p _ s _ rfl rfl hst hl he hkid hf rfl
    exact clocked_runs fun _ => effTreeUp_badFields hst hl he hkid hf
  case peer =>
    rintro g n _ p _ s _ rfl rfl hst hl he hkid hf hs rfl
    have h : ChildUp g n p s := ⟨hst, hl, he, hkid, hf⟩
    exact clocked_runs fun _ => by rw [effTreeUp_child h, if_pos hs]; rfl
  case mismatch =>
    rintro g n _ p _ s _ rfl rfl hst hl he hkid hf hs rfl
    have h : ChildUp g n p s := ⟨hst, hl, he, hkid, hf⟩
    exact clocked_runs fun _ => by rw [effTreeUp_child h, if_neg (by omega), if_pos hs]; rfl
  case noTree =>
    rintro g n _ p _ s _ rfl rfl hst hl he hkid hf hs rfl
    have h : ChildUp g n p s := ⟨hst, hl, he, hkid, hf⟩
    exact clocked_runs fun _ => by rw [effTreeUp_child h, if_neg (by omega), if_neg (by omega), if_pos hs]; rfl
  case outOfTurn =>
    rintro g n _ p _ s _ rfl rfl hst hl he hkid hf hs hnone rfl
    have h : ChildUp g n p s := ⟨hst, hl, he, hkid, hf⟩
    exact clocked_runs fun _ => (effTreeUp_result h hs).trans (placeUp_none hnone _)
  case misplaced =>
    rintro g n _ p _ vals t₀ s _ rfl rfl hst hl he hkid hf hs hvals hseq hm rfl
    have h : ChildUp g n p s := ⟨hst, hl, he, hkid, hf⟩
    exact clocked_runs fun _ => (effTreeUp_result h hs).trans (placeUp_misplaced hvals hseq hm)
  case mismatched =>
    rintro g n _ p _ vals t₀ s _ rfl rfl hst hl he hkid hs hf hvals hseq hchunk hwin hsent hnew hm rfl
    have h : ChildUp g n p s := ⟨hst, hl, he, hkid, hf⟩
    exact clocked_runs fun _ =>
      (effTreeUp_result h hs).trans (placeUp_mismatched hvals hseq (misplaced_not hchunk hwin hsent hnew) hm)
  case struck =>
    rintro g n _ p _ vals t₀ _ s _ rfl rfl hst hl he hkid hs hf hvals hseq hchunk hwin hsent hnew hmode hsame rfl hx rfl
    have h := Contribution.intro hst hl he hkid hs hf hvals hseq hchunk hwin hsent hnew hmode hsame
    exact clocked_runs fun _ => h.enters.trans (contribute_struck rfl hx)
  case waits =>
    rintro g n _ p _ vals t₀ _ _ _ _ _ s _ rfl rfl hst hl he hkid hs hf hvals hseq hchunk hwin hsent hnew hmode hsame rfl hx
      rfl rfl rfl rfl hsome rfl
    have h := Contribution.intro hst hl he hkid hs hf hvals hseq hchunk hwin hsent hnew hmode hsame
    exact clocked_runs fun _ => h.waits rfl hx hsome
  case rootLast =>
    rintro g n _ p _ vals t₀ x f _ _ _ r k s _ rfl rfl hst hl he hkid hs hf hvals hseq hchunk hwin hsent hnew hmode hsame hslot
      hx rfl hfill rfl rfl hall hroot hr hk hlast rfl
    have h := Contribution.intro hst hl he hkid hs hf hvals hseq hchunk hwin hsent hnew hmode hsame
    exact clocked_runs fun _ => (h.goesDown hslot.symm hx hall hfill hroot hr hk).trans (if_pos hlast)
  case rootMore =>
    rintro g n _ p _ vals t₀ x f _ _ _ r k s _ rfl rfl hst hl he hkid hs hf hvals hseq hchunk hwin hsent hnew hmode hsame hslot
      hx rfl hfill rfl rfl hall hroot hr hk hmore rfl
    have h := Contribution.intro hst hl he hkid hs hf hvals hseq hchunk hwin hsent hnew hmode hsame
    exact clocked_runs fun _ => (h.goesDown hslot.symm hx hall hfill hroot hr hk).trans (if_neg hmore)
  case up =>
    rintro g n _ p _ vals t₀ x f _ _ _ r s _ rfl rfl hst hl he hkid hs hf hvals hseq hchunk hwin hsent hnew hmode hsame hslot
      hx rfl hfill rfl rfl hall hroot hnative hr rfl
    have h := Contribution.intro hst hl he hkid hs hf hvals hseq hchunk hwin hsent hnew hmode hsame
    exact clocked_runs fun _ => h.goesUp hslot.symm hx hall hfill hroot hr hnative
  case upExact =>
    rintro g n _ p _ vals t₀ x f _ _ _ r pl e s _ rfl rfl hst hl he hkid hs hf hvals hseq hchunk hwin hsent hnew hmode hsame
      hslot hx rfl hfill rfl rfl hall hroot hexact hr hpl rfl
    have h := Contribution.intro hst hl he hkid hs hf hvals hseq hchunk hwin hsent hnew hmode hsame
    exact clocked_runs fun _ => h.goesUp_exact hslot.symm hx hall hfill hroot hr hexact hpl
  case downIdle =>
    rintro g n _ p _ s _ rfl rfl h rfl
    exact clocked_runs fun _ => effTreeDown_idle h
  case downE2eBad =>
    rintro g n _ p _ s _ rfl rfl hst he rfl
    exact clocked_runs fun _ => effTreeDown_e2eBad hst he
  case downBadLength =>
    rintro g n _ p _ s _ rfl rfl hst he hl rfl
    exact clocked_runs fun _ => effTreeDown_badLength hst he hl
  case downStranger =>
    rintro g n _ p _ s _ rfl rfl hst hl he h rfl
    exact clocked_runs fun _ => effTreeDown_stranger hst hl he h
  case downBadFields =>
    rintro g n _ p _ s _ rfl rfl hst hl he hroot hn hf rfl
    exact clocked_runs fun _ => (effTreeDown_parent hst hl he hroot hn).trans (if_pos hf)
  case downMisplaced =>
    rintro g n _ p _ s _ rfl rfl hst hl he hroot hn hf hs hm rfl
    exact clocked_runs fun _ => by
      rw [effTreeDown_parent hst hl he hroot hn, if_neg (by simp [hf]), if_neg (by omega), if_neg (by omega), if_pos hm]
      rfl
  case down =>
    rintro g n _ p _ _ _ s _ rfl rfl hst hl he hroot hn hf hs hseq hstart hsent hcame rfl rfl rfl
    have hplace : ¬ (crSeq p ≠ (tree s (crIdx p)).opSeq ∨ (tree s (crIdx p)).started = false ∨
        (tree s (crIdx p)).sent.contains (crChunk p) = false ∨ (tree s (crIdx p)).downed.contains (crChunk p) = true) := by
      rw [hstart, hsent, hcame]
      simp [hseq]
    refine clocked_runs fun _ => ?_
    rw [effTreeDown_parent hst hl he hroot hn, if_neg (by simp [hf]), if_neg (by omega), if_neg (by omega), if_neg hplace]
    exact sendDown_eq rfl (crChunk_treePkt (crChunk_lt p) ..)
  case downPeer =>
    rintro g n _ p _ s _ rfl rfl hst hl he hroot hn hf hs rfl
    exact clocked_runs fun _ => by
      rw [effTreeDown_parent hst hl he hroot hn, if_neg (by simp [hf]), if_pos hs]
      rfl
  case downMismatch =>
    rintro g n _ p _ s _ rfl rfl hst hl he hroot hn hf hs rfl
    exact clocked_runs fun _ => by
      rw [effTreeDown_parent hst hl he hroot hn, if_neg (by simp [hf]), if_neg (by omega), if_pos hs]
      rfl

end Sys2Proof.Proofs
end

section
/-! PROOFS. A result whose write fails, and the operation that it belongs to: the state at which O43 fails (R215, R337, R342). -/

namespace Sys2Proof.Proofs
open Sys2Proof.Machine Sys2Proof.Laws

/-- A result of an outstanding chunk that may not be written ends the job, and is counted as come: the operation outlives its
job until the last result has come (R337; log 66). -/
theorem treeResult_fails {h k : Nat} {p : Packet} {v : View} {o : TreeOp} {j : Job} {q w : State}
    (hop : (bindOf q h (crIdx p)).op = some o) (hj : jobOf q h o.job = some j) (hseq : o.opSeq = crSeq p)
    (hout : o.out (crChunk p) = true) (hlen : p.payload.length = alBytes j (crChunk p))
    (hacc : access h (Job.w j 14) (u64 (Job.op j) 12 + crChunk p * alStep j) p.payload.length .localWrite (jobWho q h j)
      (viewFor h (.tree p) v q) q = (.fail k, w)) :
    treeResult h p v q = cameGone h (crIdx p) (crSeq p) (crChunk p)
      (failAcc h j (treeMoved j o) (.fail k : Acc Grant) (stopWait h (.tree p) w)) := by
  have hours : ¬ (o.opSeq ≠ crSeq p ∨ (!o.out (crChunk p)) = true ∨ p.payload.length ≠ alBytes j (crChunk p)) := by
    simp [hseq, hout, hlen]
  simp only [treeResult, hop, hj, if_neg hours, hacc]

/-- A TREE_DOWN of STATUS OK for an outstanding chunk of a BOUND index is counted, and its result is taken. -/
theorem effTreeDownHostRx_result {h : Nat} {p : Packet} {m : HostView} {s u : State} (htype : p.ptype = 0x41)
    (hbole : boleOk s (boleOf h) = true) (he2e : e2eTest h p (freeInternal (xN h) p s) = (u, true))
    (hmis : asdMismatch p = false) (hext : p.extMask = 0x20) (hbound : (bindOf u h (crIdx p)).st = 1)
    (htag : crTag p = (bindOf u h (crIdx p)).tag.toNat) (hok : crStatus p = 0)
    (hasked : (bindOf u h (crIdx p)).op.any (fun o => o.opSeq == crSeq p && o.out (crChunk p)) = true) :
    effTreeDownHostRx h p m s = treeResult h p (viewOf m u) (inc (treCtr h 2) u) := by
  have hhere : ¬ (p.ptype ≠ 0x41 ∨ (!boleOk s (boleOf h)) = true) := by simp [htype, hbole]
  have hours : ¬ ((bindOf u h (crIdx p)).st ≠ 1 ∨ crTag p ≠ (bindOf u h (crIdx p)).tag.toNat) := by simp [hbound, htag]
  simp only [effTreeDownHostRx, if_neg hhere, he2e, Bool.not_true, Bool.false_eq_true, if_false, hmis, hext, ne_eq,
    not_true_eq_false, if_neg hours, hok, if_true, hasked]

/-! ### The counterexample -/

/-- A TREE_ALLREDUCE of 1,028 FP32 elements, two chunks, that has begun. The key of its result buffer names no region of the
table. -/
def twoChunkJob : Job :=
  { id := 1, h := 1, q := 5, idx := 0, begun := true, sent := 2,
    ents := [[0x00400007, 0x60000000, 0, 0, 512, 0, 768, 4112, 0, 0, 0, 0x1C, 1024, 0, 0x5000, 0x80000000]] }

/-- Its operation: both chunks have been sent, and no result has come. -/
def twoChunkOp : TreeOp := { job := 1, opSeq := 0, chunks := 2, next := 2, came := [] }

/-- Host port 1 is UP, and the operation of `twoChunkJob` is in progress on the BOUND index 0x1C. -/
def awaitsTwo : State :=
  { State.reset with
    pw.dom := [81, 84, 85, 86, 87, 92].map (fun d => (d, { st := .on, wasOff := false }))
    pw.pllLock := 1
    net.d2d := (List.range 6).map (fun m => (m, { up := true }))
    hs.ports := [(1, { st := .up, jobs := [twoChunkJob] })]
    hs.wqs := [(objKey 20 1 5, { st := .active })]
    hs.binds := [(1024 + 0x1C, { st := 1, tag := 0x7A31, window := 4, opSeq := 1, op := some twoChunkOp })] }

/-- The result of the second chunk, four elements. -/
def secondResult : Packet :=
  sealPkt (treePkt false 0x1C 0x7A31 0 0 6 0 0 1 0 1028 (List.replicate 16 0))

/-- `awaitsTwo` when the result has reached the Bole and has passed its tests, and when it has been counted too. -/
def resultTested : State := (e2eTest 1 secondResult (freeInternal (xN 1) secondResult awaitsTwo)).1
def resultCame : State := inc (treCtr 1 2) resultTested

/-- The access to the result buffer, and the state when it has been refused and waits for nothing. -/
def resultAccess : Acc Grant × State :=
  access 1 (Job.w twoChunkJob 14) (u64 (Job.op twoChunkJob) 12 + crChunk secondResult * alStep twoChunkJob)
    secondResult.payload.length .localWrite (jobWho resultCame 1 twoChunkJob)
    (viewFor 1 (.tree secondResult) (viewOf {} resultTested) resultCame) resultCame
def resultStopped : State := stopWait 1 (.tree secondResult) resultAccess.2

/-- What the model leaves: the job has failed, and its operation waits for the result of the first chunk. -/
def operationStands : State :=
  cameGone 1 (crIdx secondResult) (crSeq secondResult) (crChunk secondResult)
    (failAcc 1 twoChunkJob (treeMoved twoChunkJob twoChunkOp) (.fail 1 : Acc Grant) resultStopped)

/-- What O43 says is left: no operation is in progress on the index any more. -/
def operationDropped : State :=
  failAcc 1 twoChunkJob 0 (.fail 1 : Acc Grant) (setBind 1 0x1C { bindOf resultStopped 1 0x1C with op := none } resultStopped)

/-- Refutes O43 by its clause on a result whose write fails its check, which has the operation end with its job. In `awaitsTwo`
the result of the first chunk is still to come: the operation stands until it has, as R337 wants of the index's next operation
(log 66). -/
theorem not_treeJobs : ¬ Obligations.TreeJobs := by
  unfold Obligations.TreeJobs
  rintro ⟨-, -, -, -, -, -, -, -, -, -, -, -, -, hfails, -⟩
  have bole : boleOk awaitsTwo (boleOf 1) = true := by decide +kernel
  have came : e2eTest 1 secondResult (freeInternal (xN 1) secondResult awaitsTwo) = (resultTested, true) := by decide +kernel
  have mis : asdMismatch secondResult = false := by decide +kernel
  have bound : (bindOf resultTested 1 (crIdx secondResult)).st = 1 := by decide +kernel
  have tag : crTag secondResult = (bindOf resultTested 1 (crIdx secondResult)).tag.toNat := by decide +kernel
  have status : crStatus secondResult = 0 := by decide +kernel
  have asked : (bindOf resultTested 1 (crIdx secondResult)).op.any
      (fun o => o.opSeq == crSeq secondResult && o.out (crChunk secondResult)) = true := by decide +kernel
  have inProgress : (bindOf resultCame 1 (crIdx secondResult)).op = some twoChunkOp := by decide +kernel
  have job : jobOf resultCame 1 twoChunkOp.job = some twoChunkJob := by decide +kernel
  have seq : twoChunkOp.opSeq = crSeq secondResult := by decide +kernel
  have out : twoChunkOp.out (crChunk secondResult) = true := by decide +kernel
  have len : secondResult.payload.length = alBytes twoChunkJob (crChunk secondResult) := by decide +kernel
  have denied : resultAccess = (.fail 1, resultAccess.2) := by decide +kernel
  have stated : exec (.treeDownHostRx 1 secondResult {}) awaitsTwo = .next operationDropped :=
    (hfails 1 secondResult {} resultTested 1 twoChunkOp twoChunkJob resultCame resultAccess.2 awaitsTwo operationDropped
      rfl bole came mis rfl bound tag status asked rfl inProgress job seq out len denied rfl).2 (by decide +kernel)
  have runs : exec (.treeDownHostRx 1 secondResult {}) awaitsTwo = .next operationStands :=
    (clocked_runs fun _ => (effTreeDownHostRx_result rfl bole came mis rfl bound tag status asked).trans
      (treeResult_fails inProgress job seq out len denied)).2 (by decide +kernel)
  have same := Host.Outcome.next.inj (stated.symm.trans runs)
  have dropped : (bindOf operationDropped 1 0x1C).op = none := by decide +kernel
  have stands : (bindOf operationStands 1 0x1C).op = some { twoChunkOp with came := [1] } := by decide +kernel
  rw [same, stands] at dropped
  cases dropped

end Sys2Proof.Proofs
end

section
/-! PROOFS. Scratch memory as a host reaches it (O48: R354 to R361). -/

namespace Sys2Proof.Proofs
open Sys2Proof.Machine Sys2Proof.Laws

/-! ### What a count leaves of scratch memory -/

@[simp] theorem scrStruck_inc (key b o : Nat) (s : State) : scrStruck (inc key s) b o = scrStruck s b o :=
  (SameEcc.inc key s).scrStruck b o

@[simp] theorem scrByte_inc (key b o : Nat) (s : State) : scrByte (inc key s) b o = scrByte s b o := by simp [scrByte]

/-! ### Accesses that their Bole serves (R354, R356, R359, R361) -/

theorem effScratchHostWrite_unserved {h fn : Nat} {s : State} (hm : memServes s h fn = false) (tc off : Nat)
    (bytes : List Byte) (req : Nat) : effScratchHostWrite h fn tc off bytes req s = s := by simp [effScratchHostWrite, hm]

theorem effScratchHostRead_unserved {h fn : Nat} {s : State} (hm : memServes s h fn = false) (tc off len req : Nat) :
    effScratchHostRead h fn tc off len req s = s := by simp [effScratchHostRead, hm]

theorem effSsmBarrier_unserved {h fn : Nat} {s : State} (hm : memServes s h fn = false) (tc req : Nat) :
    effSsmBarrier h fn tc req s = s := by simp [effSsmBarrier, hm]

section
variable {h fn : Nat} {s : State} (hm : memServes s h fn = true)
include hm

theorem effScratchHostWrite_within {off o : Nat} (ho : scrOff (inc (ssmCtr (boleOf h) 1) s) (boleOf h) fn off = some o)
    (tc : Nat) (bytes : List Byte) (req : Nat) :
    effScratchHostWrite h fn tc off bytes req s =
      setWbuf (boleOf h) (wbufOf s (boleOf h) ++ [{ ident := identOf h req tc, off := o, bytes := bytes }])
        (inc (ssmCtr (boleOf h) 1) s) := by
  simp [effScratchHostWrite, hm, ho]

theorem effScratchHostWrite_beyond {off : Nat} (ho : scrOff (inc (ssmCtr (boleOf h) 1) s) (boleOf h) fn off = none)
    (tc : Nat) (bytes : List Byte) (req : Nat) :
    effScratchHostWrite h fn tc off bytes req s =
      hostLoss (boleOf h) (identOf h req tc)
        (ssmCause (boleOf h) 2 (inc (ssmCtr (boleOf h) 6) (inc (ssmCtr (boleOf h) 1) s))) := by
  simp [effScratchHostWrite, hm, ho]

theorem effScratchHostRead_beyond {off : Nat} (ho : scrOff (inc (ssmCtr (boleOf h) 0) s) (boleOf h) fn off = none)
    (tc len req : Nat) :
    effScratchHostRead h fn tc off len req s =
      emit (.readData h fn (some (List.replicate len 0xFF)))
        (ssmCause (boleOf h) 2 (inc (ssmCtr (boleOf h) 6) (inc (ssmCtr (boleOf h) 0) s))) := by
  simp [effScratchHostRead, hm, ho]

/-- A read within the window: poison where a byte that memory gives lies in a word in error, and else each byte from the latest
buffered write of the identifier that covers it, or from memory. -/
theorem effScratchHostRead_within {off o : Nat} (ho : scrOff (inc (ssmCtr (boleOf h) 0) s) (boleOf h) fn off = some o)
    (tc len req : Nat) {fw : Nat → Option Byte}
    (hfw : fw = fun k => forwarded (identOf h req tc) (o + k) (wbufOf s (boleOf h))) :
    effScratchHostRead h fn tc off len req s =
      if (List.range len).any (fun k => (fw k).isNone && scrStruck s (boleOf h) (o + k)) then
        emit (.readData h fn none) (scrEccs (boleOf h) o len (fun k => (fw k).isNone) (inc (ssmCtr (boleOf h) 0) s))
      else
        emit (.readData h fn (some ((List.range len).map fun k => (fw k).getD (scrByte s (boleOf h) (o + k)))))
          (scrMet (boleOf h) o len (fun k => (fw k).isNone) (inc (ssmCtr (boleOf h) 0) s)) := by
  subst hfw
  simp only [effScratchHostRead, hm, Bool.not_true, Bool.false_eq_true, if_false, ho, wbufOf_inc, scrStruck_inc, scrByte_inc]

/-- The barrier performs what its identifier has buffered, and then takes its LOSS. -/
theorem effSsmBarrier_served (tc req : Nat) {u : State}
    (hu : u = performAll (boleOf h) (identOf h req tc) (inc (ssmCtr (boleOf h) 4) s)) :
    effSsmBarrier h fn tc req s =
      emit (.readData h fn (some (leBytes 4 (b2n (u.scr.loss.contains (lossKey (boleOf h) (identOf h req tc)))))))
        { u with scr.loss := u.scr.loss.filter (· ≠ lossKey (boleOf h) (identOf h req tc)) } := by
  subst hu
  simp [effSsmBarrier, hm]

end

/-! ### WRITE_PERFORMED (R357, R359) -/

theorem effWritePerformed_oldest {b ident : Nat} {w : BufWrite} {s : State} (hon : domOn s (dMem b) = true)
    (hw : (wbufOf s b).find? (fun w => w.ident == ident) = some w) :
    effWritePerformed b ident s =
      performOne b w (setWbuf b ((wbufOf s b).eraseIdx ((wbufOf s b).findIdx (fun w => w.ident == ident))) s) := by
  simp only [effWritePerformed, hon, Bool.not_true, Bool.false_eq_true, if_false, hw]

theorem effWritePerformed_nothing {b ident : Nat} {s : State}
    (h : domOn s (dMem b) = false ∨ ∀ w ∈ wbufOf s b, w.ident ≠ ident) : effWritePerformed b ident s = s := by
  rcases h with hoff | hnone
  · simp only [effWritePerformed, hoff, Bool.not_false, if_true]
  · have hfind : (wbufOf s b).find? (fun w => w.ident == ident) = none := by simpa using hnone
    simp only [effWritePerformed, hfind, ite_self]

/-- Settles O48: an access that its Bole serves is counted, and its offset decides the rest; a read asks of each byte whether a
write of its identifier is still buffered, and of the others whether memory can give them. -/
theorem scratchAccess : Obligations.ScratchAccess := by
  unfold Obligations.ScratchAccess
  refine ⟨?writeUnserved, ?readUnserved, ?write, ?writeBeyond, ?readBeyond, ?read, ?readPoison, ?performed, ?nothing,
    ?barrierUnserved, ?barrier⟩
  case writeUnserved =>
    rintro h fn tc off req bytes s _ hm rfl
    exact clocked_runs fun _ => effScratchHostWrite_unserved hm tc off bytes req
  case readUnserved =>
    rintro h fn tc off req len s _ hm rfl
    exact clocked_runs fun _ => effScratchHostRead_unserved hm tc off len req
  case write =>
    rintro h fn tc off req bytes o s _ hm ho rfl
    exact clocked_runs fun _ => effScratchHostWrite_within hm ho tc bytes req
  case writeBeyond =>
    rintro h fn tc off req bytes s _ hm ho rfl
    exact clocked_runs fun _ => effScratchHostWrite_beyond hm ho tc bytes req
  case readBeyond =>
    rintro h fn tc off req len s _ hm ho rfl
    exact clocked_runs fun _ => effScratchHostRead_beyond hm ho tc len req
  case read =>
    rintro h fn tc off req len o s _ hm ho hclear rfl
    refine clocked_runs fun _ => (effScratchHostRead_within hm ho tc len req rfl).trans (if_neg ?_)
    simpa using hclear
  case readPoison =>
    rintro h fn tc off req len o k s _ hm ho hk hfw hstruck rfl
    refine clocked_runs fun _ => (effScratchHostRead_within hm ho tc len req rfl).trans (if_pos ?_)
    exact List.any_eq_true.mpr ⟨k, List.mem_range.mpr hk, by simp [hfw, hstruck]⟩
  case performed =>
    rintro b ident w s _ hon hw rfl
    exact clocked_runs fun _ => effWritePerformed_oldest hon hw
  case nothing =>
    rintro b ident s _ hnone rfl
    exact clocked_runs fun _ => effWritePerformed_nothing hnone
  case barrierUnserved =>
    rintro h fn tc req s _ hm rfl
    exact clocked_runs fun _ => effSsmBarrier_unserved hm tc req
  case barrier =>
    rintro h fn tc req u s _ hm hu rfl
    refine clocked_runs fun _ => effSsmBarrier_served hm tc req ?_
    simp only [performAll, wbufOf_inc, hu]

end Sys2Proof.Proofs
end

section
/-! PROOFS. The lock unit: rights and limits, CLAIM mode, the state machine of a lock, and the invariant of its waiters (O49, O50,
O59: R368 to R373). -/

namespace Sys2Proof.Proofs
open Sys2Proof.Machine Sys2Proof.Laws

/-! ### An access to a lock, behind the earlier writes of its requester (R357) -/

/-- A BAR0 request runs on the state `e` that its requester's earlier writes leave. -/
theorem behind_runs {h : Nat} {who : Requester} {f : State → State} {e s t : State}
    (he : e = (if domOn s (dMem (boleOf h)) then performAll (boleOf h) (identOf h who.id who.tc) s else s)) (hf : f e = t) :
    (s.pw.stopped = false →
        Host.Outcome.next (whileClocked (behind h who f) s) = (.next (follows t) : Host.Outcome State Fault Refusal)) ∧
      (quiet s t = true →
        Host.Outcome.next (whileClocked (behind h who f) s) = (.next t : Host.Outcome State Fault Refusal)) :=
  clocked_runs fun _ => by rw [behind, ← he, hf]

section
variable {h fn l : Nat} {s : State} (hno : memServes s h fn = false ∨ 2048 ≤ l)
include hno

/-- No lock unit serves the access, or it has no such lock. -/
theorem lock_unserved : (!memServes s h fn) = true ∨ 2048 ≤ l := hno.imp_left fun hm => by rw [hm]; rfl

theorem effLckAcquire_unserved : effLckAcquire h fn l s = s := if_pos (lock_unserved hno)
theorem effLckRelease_unserved : effLckRelease h fn l s = s := if_pos (lock_unserved hno)
theorem effLckClaim_unserved (token : BitVec 16) : effLckClaim h fn l token s = s := if_pos (lock_unserved hno)

end

section
variable {h fn l : Nat} {s : State} (hm : memServes s h fn = true) (hl : l < 2048)
include hm hl

theorem lock_served : ¬ ((!memServes s h fn) = true ∨ 2048 ≤ l) := by simp [hm, hl]

/-! ### ACQUIRE (R368 to R371) -/

theorem effLckAcquire_no_rights (hr : lockRights s (boleOf h) l (masterOf h fn) = false) :
    effLckAcquire h fn l s = lockAnswer (boleOf h) (masterOf h fn) lkNoRights (noRights (boleOf h) s) := by
  simp only [effLckAcquire, if_neg (lock_served hm hl), hr, Bool.not_false, if_true]

variable (hr : lockRights s (boleOf h) l (masterOf h fn) = true)

include hr in
theorem effLckAcquire_claims (hc : lockClaims s (boleOf h) l = true) :
    effLckAcquire h fn l s = lockAnswer (boleOf h) (masterOf h fn) lkWrongMode s := by
  simp only [effLckAcquire, if_neg (lock_served hm hl), hr, hc, Bool.not_true, Bool.false_eq_true, if_false, if_true]

include hr in
theorem effLckAcquire_free (hc : lockClaims s (boleOf h) l = false) (ho : (lockOf s (boleOf h) l).owner = none) :
    effLckAcquire h fn l s =
      grantLock (boleOf h) l (masterOf h fn) { lockOf s (boleOf h) l with orphan := false } (lockOf s (boleOf h) l).orphan
        s := by
  simp only [effLckAcquire, if_neg (lock_served hm hl), hr, hc, Bool.not_true, Bool.false_eq_true, if_false, ho]

include hr in
/-- ACQUIRE of a lock that is held: by the master itself, past the limit of stalled reads, or to wait. -/
theorem effLckAcquire_held (hc : lockClaims s (boleOf h) l = false) {o : Nat}
    (ho : (lockOf s (boleOf h) l).owner = some o) :
    effLckAcquire h fn l s =
      if o = masterOf h fn then lockAnswer (boleOf h) (masterOf h fn) lkAlreadyHeld s
      else if 256 ≤ stalled s (boleOf h) then
        lockAnswer (boleOf h) (masterOf h fn) lkNotGranted (lckCause (boleOf h) 4 (inc (lckCtr (boleOf h) 9) s))
      else inc (lckCtr (boleOf h) 1)
        (setLock (boleOf h) l { lockOf s (boleOf h) l with queue := (lockOf s (boleOf h) l).queue ++ [masterOf h fn] } s) := by
  simp only [effLckAcquire, if_neg (lock_served hm hl), hr, hc, Bool.not_true, Bool.false_eq_true, if_false, ho]

/-! ### RELEASE (R371, R373) -/

omit hr in
theorem effLckRelease_no_rights (hr : lockRights s (boleOf h) l (masterOf h fn) = false) :
    effLckRelease h fn l s = noRights (boleOf h) s := by
  simp only [effLckRelease, if_neg (lock_served hm hl), hr, Bool.not_false, if_true]

include hr in
theorem effLckRelease_bad
    (hbad : lockClaims s (boleOf h) l = true ∨ (lockOf s (boleOf h) l).owner ≠ some (masterOf h fn)) :
    effLckRelease h fn l s = badRelease (boleOf h) s := by
  simp only [effLckRelease, if_neg (lock_served hm hl), hr, Bool.not_true, Bool.false_eq_true, if_false, if_pos hbad]

section
variable (hc : lockClaims s (boleOf h) l = false) (ho : (lockOf s (boleOf h) l).owner = some (masterOf h fn))
include hc ho

omit hm hl hr in
theorem lock_released :
    ¬ (lockClaims s (boleOf h) l = true ∨ (lockOf s (boleOf h) l).owner ≠ some (masterOf h fn)) := by simp [hc, ho]

include hr in
theorem effLckRelease_frees (hq : (lockOf s (boleOf h) l).queue = []) :
    effLckRelease h fn l s =
      setLock (boleOf h) l { lockOf s (boleOf h) l with owner := none } (inc (lckCtr (boleOf h) 3) s) := by
  simp only [effLckRelease, if_neg (lock_served hm hl), hr, Bool.not_true, Bool.false_eq_true, if_false,
    if_neg (lock_released hc ho), hq]

include hr in
theorem effLckRelease_grants {w : Nat} {ws : List Nat} (hq : (lockOf s (boleOf h) l).queue = w :: ws) :
    effLckRelease h fn l s =
      grantLock (boleOf h) l w { lockOf s (boleOf h) l with queue := ws } false (inc (lckCtr (boleOf h) 3) s) := by
  simp only [effLckRelease, if_neg (lock_served hm hl), hr, Bool.not_true, Bool.false_eq_true, if_false,
    if_neg (lock_released hc ho), hq]

end

/-! ### CLAIM (R368, R373) -/

omit hr in
theorem effLckClaim_no_rights (hr : lockRights s (boleOf h) l (masterOf h fn) = false) (token : BitVec 16) :
    effLckClaim h fn l token s = noRights (boleOf h) s := by
  simp only [effLckClaim, if_neg (lock_served hm hl), hr, Bool.not_false, if_true]

include hr in
theorem effLckClaim_queued (hc : lockClaims s (boleOf h) l = false) (token : BitVec 16) :
    effLckClaim h fn l token s = s := by
  simp only [effLckClaim, if_neg (lock_served hm hl), hr, hc, Bool.not_true, Bool.not_false, Bool.false_eq_true, if_false,
    if_true]

include hr in
/-- A CLAIM in its mode: token 0 releases the owner's lock, and another takes a FREE one. -/
theorem effLckClaim_claims (hc : lockClaims s (boleOf h) l = true) (token : BitVec 16) :
    effLckClaim h fn l token s =
      if token = 0 then
        if (lockOf s (boleOf h) l).owner = some (masterOf h fn) then
          inc (lckCtr (boleOf h) 3)
            (setLock (boleOf h) l { lockOf s (boleOf h) l with owner := none, token := 0, orphan := false } s)
        else badRelease (boleOf h) s
      else if (lockOf s (boleOf h) l).owner.isNone then
        inc (lckCtr (boleOf h) 6) (setLock (boleOf h) l
          { lockOf s (boleOf h) l with owner := some (masterOf h fn), token := token } s)
      else inc (lckCtr (boleOf h) 7) s := by
  simp only [effLckClaim, if_neg (lock_served hm hl), hr, hc, Bool.not_true, Bool.false_eq_true, if_false]

end

/-- Settles O49: each clause is the first test of its access that its hypotheses do not pass, or what a CLAIM finds. -/
theorem locks : Obligations.Locks := by
  unfold Obligations.Locks
  refine ⟨?acquireUnserved, ?releaseUnserved, ?claimUnserved, ?claimNoRights, ?claimQueued, ?acquireNoRights, ?acquireClaims,
    ?acquireLimit, ?releaseNoRights, ?releaseClaims, ?claimTakes, ?claimLoses, ?claimReleases, ?claimBad⟩
  case acquireUnserved =>
    rintro h fn l who e s _ he hno rfl
    exact behind_runs he (effLckAcquire_unserved hno)
  case releaseUnserved =>
    rintro h fn l who e s _ he hno rfl
    exact behind_runs he (effLckRelease_unserved hno)
  case claimUnserved =>
    rintro h fn l token who e s _ he hno rfl
    exact behind_runs he (effLckClaim_unserved hno token)
  case claimNoRights =>
    rintro h fn l token who e s _ he hm hl hr rfl
    exact behind_runs he (effLckClaim_no_rights hm hl hr token)
  case claimQueued =>
    rintro h fn l token who e s _ he hm hl hr hc rfl
    exact behind_runs he (effLckClaim_queued hm hl hr hc token)
  case acquireNoRights =>
    rintro h fn l who e s _ he hm hl hr rfl
    exact behind_runs he (effLckAcquire_no_rights hm hl hr)
  case acquireClaims =>
    rintro h fn l who e s _ he hm hl hr hc rfl
    exact behind_runs he (effLckAcquire_claims hm hl hr hc)
  case acquireLimit =>
    rintro h fn l m who e s _ he hm hl hr hc ho hne hmany rfl
    exact behind_runs he ((effLckAcquire_held hm hl hr hc ho).trans ((if_neg hne).trans (if_pos hmany)))
  case releaseNoRights =>
    rintro h fn l who e s _ he hm hl hr rfl
    exact behind_runs he (effLckRelease_no_rights hm hl hr)
  case releaseClaims =>
    rintro h fn l who e s _ he hm hl hr hc rfl
    exact behind_runs he (effLckRelease_bad hm hl hr (.inl hc))
  case claimTakes =>
    rintro h fn l token who e s _ he hm hl hr hc ht ho rfl
    refine behind_runs he ((effLckClaim_claims hm hl hr hc token).trans ((if_neg ht).trans (if_pos ?_)))
    rw [ho, Option.isNone_none]
  case claimLoses =>
    rintro h fn l token who e s _ he hm hl hr hc ht ho rfl
    refine behind_runs he ((effLckClaim_claims hm hl hr hc token).trans ((if_neg ht).trans (if_neg ?_)))
    rwa [Option.isNone_iff_eq_none]
  case claimReleases =>
    rintro h fn l who e s _ he hm hl hr hc ho rfl
    exact behind_runs he ((effLckClaim_claims hm hl hr hc 0).trans ((if_pos rfl).trans (if_pos ho)))
  case claimBad =>
    rintro h fn l who e s _ he hm hl hr hc ho rfl
    exact behind_runs he ((effLckClaim_claims hm hl hr hc 0).trans ((if_pos rfl).trans (if_neg ho)))

/-! ### A grant (R371), the end of a stall (R370), and a reset of masters (R372) -/

theorem grantLock_clean (b l m : Nat) (x : Lock) (s : State) :
    grantLock b l m x false s = lockAnswer b m (x.seq + 1).toNat
      (inc (lckCtr b 0) (setLock b l { x with owner := some m, seq := x.seq + 1 } s)) := rfl

theorem grantLock_orphaned (b l m : Nat) (x : Lock) (s : State) :
    grantLock b l m x true s = lockAnswer b m ((x.seq + 1).toNat + 2 ^ 16)
      (inc (lckCtr b 0) (setLock b l { x with owner := some m, seq := x.seq + 1 } s)) := rfl

theorem effAcquireTimeout_waiter {b l m : Nat} {s : State} (hw : (lockOf s b l).queue.contains m = true) :
    effAcquireTimeout b l m s = lockAnswer b m lkNotGranted (lckCause b 2 (inc (lckCtr b 2)
      (setLock b l { lockOf s b l with queue := (lockOf s b l).queue.erase m } s))) := by
  simp only [effAcquireTimeout, hw, Bool.not_true, Bool.false_eq_true, if_false]

theorem effAcquireTimeout_other {b l m : Nat} {s : State} (hw : (lockOf s b l).queue.contains m = false) :
    effAcquireTimeout b l m s = s := by
  simp only [effAcquireTimeout, hw, Bool.not_false, if_true]

theorem resetLock_free {b l : Nat} {s : State} (ho : (lockOf s b l).owner = none) (p : Nat → Bool) :
    resetLock b l p s = setLock b l { lockOf s b l with queue := (lockOf s b l).queue.filter (fun x => !p x) } s := by
  simp only [resetLock, ho]

theorem resetLock_kept {b l m : Nat} {p : Nat → Bool} {s : State} (ho : (lockOf s b l).owner = some m) (hp : p m = false) :
    resetLock b l p s = setLock b l { lockOf s b l with queue := (lockOf s b l).queue.filter (fun x => !p x) } s := by
  simp only [resetLock, ho, hp, Bool.not_false, if_true]

/-- A reset that takes the owner grants the lock to the first waiter that is left. -/
theorem resetLock_grants {b l m w : Nat} {ws : List Nat} {p : Nat → Bool} {s : State}
    (ho : (lockOf s b l).owner = some m) (hp : p m = true)
    (hq : (lockOf s b l).queue.filter (fun x => !p x) = w :: ws) :
    resetLock b l p s =
      grantLock b l w { lockOf s b l with queue := ws } true (lckCause b 0 (inc (lckCtr b 5) s)) := by
  simp only [resetLock, ho, hp, Bool.not_true, Bool.false_eq_true, if_false, hq]

/-- Where none is left it frees the lock, and marks it. -/
theorem resetLock_orphans {b l m : Nat} {p : Nat → Bool} {s : State} (ho : (lockOf s b l).owner = some m)
    (hp : p m = true) (hq : (lockOf s b l).queue.filter (fun x => !p x) = []) :
    resetLock b l p s = setLock b l { lockOf s b l with queue := [], owner := none, token := 0, orphan := true }
      (lckCause b 0 (inc (lckCtr b 5) s)) := by
  simp only [resetLock, ho, hp, Bool.not_true, Bool.false_eq_true, if_false, hq]

/-- Settles O50: an access meets the tests of its kind, and then the lock's owner and queue decide. -/
theorem lockStateMachine : Obligations.LockStateMachine := by
  unfold Obligations.LockStateMachine
  refine ⟨?acquireFree, ?acquireOwn, ?acquireWaits, ?releaseFrees, ?releaseGrants, ?releaseBad, ?timeoutOther, ?timeout,
    ?resetKept, ?resetGrants, ?resetFrees⟩
  case acquireFree =>
    rintro h fn l who e s _ he hm hl hr hc ho rfl
    exact behind_runs he (effLckAcquire_free hm hl hr hc ho)
  case acquireOwn =>
    rintro h fn l who e s _ he hm hl hr hc ho rfl
    exact behind_runs he ((effLckAcquire_held hm hl hr hc ho).trans (if_pos rfl))
  case acquireWaits =>
    rintro h fn l m who e s _ he hm hl hr hc ho hne hfew rfl
    exact behind_runs he ((effLckAcquire_held hm hl hr hc ho).trans ((if_neg hne).trans (if_neg (not_le.mpr hfew))))
  case releaseFrees =>
    rintro h fn l who e s _ he hm hl hr hc ho hq rfl
    exact behind_runs he (effLckRelease_frees hm hl hr hc ho hq)
  case releaseGrants =>
    rintro h fn l m ms who e s _ he hm hl hr hc ho hq rfl
    exact behind_runs he ((effLckRelease_grants hm hl hr hc ho hq).trans (grantLock_clean ..))
  case releaseBad =>
    rintro h fn l who e s _ he hm hl hr hc ho rfl
    exact behind_runs he (effLckRelease_bad hm hl hr (.inr ho))
  case timeoutOther =>
    rintro b l m s _ hw rfl
    exact clocked_runs fun _ => effAcquireTimeout_other hw
  case timeout =>
    rintro b l m s _ hw rfl
    exact clocked_runs fun _ => effAcquireTimeout_waiter hw
  case resetKept => exact fun b l m p s ho hp => resetLock_kept ho hp
  case resetGrants => exact fun b l m w ws p s ho hp hq => (resetLock_grants ho hp hq).trans (grantLock_orphaned ..)
  case resetFrees => exact fun b l m p s ho hp hq => resetLock_orphans ho hp hq

/-! ### Waiters (R371 to R373) -/

/-- No lock that is FREE, or of a CLAIM group, has a waiter. -/
def WaitersOwned (s : State) : Prop :=
  ∀ b l, ((lockOf s b l).owner = none ∨ lockClaims s b l = true) → (lockOf s b l).queue = []

namespace WaitersOwned

theorem of_scr {s t : State} (ht : t.scr = s.scr) (h : WaitersOwned s) : WaitersOwned t := by
  intro b l
  simp only [lockOf, lockClaims, lgroupOf, ht]
  exact h b l

/-- A change of one lock that leaves it no waiter without an owner, or in a CLAIM group. -/
theorem setLock {s : State} (h : WaitersOwned s) {b l : Nat} {x : Lock}
    (hx : (x.owner = none ∨ lockClaims s b l = true) → x.queue = []) : WaitersOwned (setLock b l x s) := by
  intro c k
  by_cases hk : c * 2 ^ 11 + k = b * 2 ^ 11 + l
  · have hgroup : c * 32 + k / 64 = b * 32 + l / 64 := by omega
    have hlock : lockOf (Machine.setLock b l x s) c k = x := by rw [lockOf, hk]; exact lockOf_setLock_same b l x s
    have hclaims : lockClaims (Machine.setLock b l x s) c k = lockClaims s b l := by
      rw [lockClaims, lockClaims, lgroupOf, lgroupOf, hgroup]
      rfl
    rw [hlock, hclaims]
    exact hx
  · rw [lockOf_setLock_other hk]
    exact h c k

theorem inc {s : State} (h : WaitersOwned s) (key : Nat) : WaitersOwned (inc key s) := h.of_scr (inc_scr key s)
theorem emit {s : State} (h : WaitersOwned s) (o : Out) : WaitersOwned (emit o s) := h.of_scr rfl
theorem lckCause {s : State} (h : WaitersOwned s) (b i : Nat) : WaitersOwned (lckCause b i s) := h.of_scr (raise_scr ..)

/-- A grant leaves the lock an owner, so only a CLAIM group needs its queue empty. -/
theorem grantLock {s : State} (h : WaitersOwned s) {b l : Nat} {x : Lock} (hx : lockClaims s b l = true → x.queue = [])
    (m : Nat) (orphan : Bool) : WaitersOwned (grantLock b l m x orphan s) := by
  have granted : WaitersOwned (Machine.setLock b l { x with owner := some m, seq := x.seq + 1 } s) :=
    h.setLock fun hfree => hx (hfree.resolve_left (by simp))
  exact (granted.inc _).emit _

theorem effLckAcquire {s : State} (h : WaitersOwned s) (hp fn l : Nat) : WaitersOwned (effLckAcquire hp fn l s) := by
  by_cases hno : memServes s hp fn = false ∨ 2048 ≤ l
  · rwa [effLckAcquire_unserved hno]
  · rw [not_or, Bool.not_eq_false, not_le] at hno
    obtain ⟨hm, hl⟩ := hno
    cases hr : lockRights s (boleOf hp) l (masterOf hp fn) with
    | false =>
      rw [effLckAcquire_no_rights hm hl hr]
      exact ((h.inc _).lckCause _ _).emit _
    | true =>
      cases hc : lockClaims s (boleOf hp) l with
      | true =>
        rw [effLckAcquire_claims hm hl hr hc]
        exact h.emit _
      | false =>
        cases ho : (lockOf s (boleOf hp) l).owner with
        | none =>
          rw [effLckAcquire_free hm hl hr hc ho]
          refine h.grantLock (fun _ => ?_) _ _
          exact h (boleOf hp) l (.inl ho)
        | some o =>
          rw [effLckAcquire_held hm hl hr hc ho]
          split_ifs
          · exact h.emit _
          · exact ((h.inc _).lckCause _ _).emit _
          · exact (h.setLock (by simp [ho, hc])).inc _

theorem effLckRelease {s : State} (h : WaitersOwned s) (hp fn l : Nat) : WaitersOwned (effLckRelease hp fn l s) := by
  by_cases hno : memServes s hp fn = false ∨ 2048 ≤ l
  · rwa [effLckRelease_unserved hno]
  · rw [not_or, Bool.not_eq_false, not_le] at hno
    obtain ⟨hm, hl⟩ := hno
    cases hr : lockRights s (boleOf hp) l (masterOf hp fn) with
    | false =>
      rw [effLckRelease_no_rights hm hl hr]
      exact (h.inc _).lckCause _ _
    | true =>
      by_cases hbad : lockClaims s (boleOf hp) l = true ∨ (lockOf s (boleOf hp) l).owner ≠ some (masterOf hp fn)
      · rw [effLckRelease_bad hm hl hr hbad]
        exact (h.inc _).lckCause _ _
      · rw [not_or, Bool.not_eq_true, not_not] at hbad
        obtain ⟨hc, ho⟩ := hbad
        have counted : WaitersOwned (Machine.inc (lckCtr (boleOf hp) 3) s) := h.inc _
        cases hq : (lockOf s (boleOf hp) l).queue with
        | nil =>
          rw [effLckRelease_frees hm hl hr hc ho hq]
          exact counted.setLock fun _ => hq
        | cons w ws =>
          rw [effLckRelease_grants hm hl hr hc ho hq]
          refine counted.grantLock (fun hclaims => ?_) _ _
          rw [lockClaims, lgroupOf_inc, ← lockClaims, hc] at hclaims
          cases hclaims

theorem effLckClaim {s : State} (h : WaitersOwned s) (hp fn l : Nat) (token : BitVec 16) :
    WaitersOwned (effLckClaim hp fn l token s) := by
  by_cases hno : memServes s hp fn = false ∨ 2048 ≤ l
  · rwa [effLckClaim_unserved hno]
  · rw [not_or, Bool.not_eq_false, not_le] at hno
    obtain ⟨hm, hl⟩ := hno
    cases hr : lockRights s (boleOf hp) l (masterOf hp fn) with
    | false =>
      rw [effLckClaim_no_rights hm hl hr]
      exact (h.inc _).lckCause _ _
    | true =>
      cases hc : lockClaims s (boleOf hp) l with
      | false => rwa [effLckClaim_queued hm hl hr hc]
      | true =>
        have hq : (lockOf s (boleOf hp) l).queue = [] := h _ _ (.inr hc)
        rw [effLckClaim_claims hm hl hr hc]
        split_ifs
        · refine WaitersOwned.inc (h.setLock fun _ => ?_) _
          exact hq
        · exact (h.inc _).lckCause _ _
        · refine WaitersOwned.inc (h.setLock fun _ => ?_) _
          exact hq
        · exact h.inc _

theorem effAcquireTimeout {s : State} (h : WaitersOwned s) (b l m : Nat) : WaitersOwned (effAcquireTimeout b l m s) := by
  cases hw : (lockOf s b l).queue.contains m with
  | false => rwa [effAcquireTimeout_other hw]
  | true =>
    rw [effAcquireTimeout_waiter hw]
    have left : WaitersOwned (Machine.setLock b l { lockOf s b l with queue := (lockOf s b l).queue.erase m } s) :=
      h.setLock fun hfree => by simp [h b l hfree]
    exact ((left.inc _).lckCause _ _).emit _

theorem resetLock {s : State} (h : WaitersOwned s) (b l : Nat) (p : Nat → Bool) : WaitersOwned (resetLock b l p s) := by
  have left : WaitersOwned
      (Machine.setLock b l { lockOf s b l with queue := (lockOf s b l).queue.filter (fun x => !p x) } s) :=
    h.setLock fun hfree => by simp [h b l hfree]
  cases ho : (lockOf s b l).owner with
  | none => rwa [resetLock_free ho]
  | some o =>
    cases hp : p o with
    | false => rwa [resetLock_kept ho hp]
    | true =>
      have counted : WaitersOwned (Machine.lckCause b 0 (Machine.inc (lckCtr b 5) s)) := (h.inc _).lckCause _ _
      cases hq : (lockOf s b l).queue.filter (fun x => !p x) with
      | cons w ws =>
        rw [resetLock_grants ho hp hq]
        refine counted.grantLock (fun hclaims => ?_) _ _
        rw [lockClaims, Machine.lckCause, lgroupOf_raise, lgroupOf_inc, ← lockClaims] at hclaims
        rw [h b l (.inr hclaims)] at hq
        cases hq
      | nil =>
        rw [resetLock_orphans ho hp hq]
        exact counted.setLock fun _ => rfl

theorem resetMasters {s : State} (h : WaitersOwned s) (b : Nat) (p : Nat → Bool) : WaitersOwned (resetMasters b p s) := by
  unfold Machine.resetMasters
  induction (s.scr.locks.filter (fun e => e.1 / 2 ^ 11 == b)).map (fun e => e.1 % 2 ^ 11) generalizing s with
  | nil => exact h
  | cons l ls ih => exact ih (h.resetLock b l p)

end WaitersOwned

/-! ### PD_Ex_MEM enters OFF (R372) -/

/-- The other Bole's entries of a map of both are kept. -/
theorem get_filter_other {α : Type} (d : α) (n b : Nat) (m : TMap α) {k : Nat} (hk : k / n ≠ b) :
    Maps.get d (m.filter (fun e => e.1 / n != b)) k = Maps.get d m k := by
  suffices hfind : Maps.find? (m.filter (fun e => e.1 / n != b)) k = Maps.find? m k by rw [Maps.get, Maps.get, hfind]
  induction m with
  | nil => rfl
  | cons e m ih =>
    obtain ⟨j, v⟩ := e
    by_cases hj : j = k
    · subst hj
      simp [Maps.find?, hk]
    · by_cases hb : j / n = b
      · simp [Maps.find?, hb, hj, ih]
      · simp [Maps.find?, hb, hj, ih]

/-- One entry at each of the keys from `base`. -/
theorem get_foldl_insert {α : Type} (d v : α) (base : Nat) (ls : List Nat) (m : TMap α) (k : Nat) :
    Maps.get d (ls.foldl (fun m l => Maps.insert (base + l) v m) m) k =
      if ∃ l ∈ ls, base + l = k then v else Maps.get d m k := by
  induction ls generalizing m with
  | nil => simp
  | cons l ls ih =>
    rw [List.foldl_cons, ih]
    by_cases hl : base + l = k
    · subst hl
      simp [Maps.get, Laws.Maps.find?_insert_same]
    · simp [Maps.get, Laws.Maps.find?_insert_other (Ne.symm hl), hl]

theorem scr_locks_scratchOff (b : Nat) (s : State) :
    (scratchOff b s).scr.locks = (List.range 2048).foldl (fun m l => Maps.insert (b * 2 ^ 11 + l) { orphan := true } m)
      (s.scr.locks.filter (fun e => e.1 / 2 ^ 11 != b)) := by
  rw [scratchOff, scr_eccWrite]

theorem scr_lgroups_scratchOff (b : Nat) (s : State) :
    (scratchOff b s).scr.lgroups = s.scr.lgroups.filter (fun e => e.1 / 32 != b) := by
  rw [scratchOff, scr_eccWrite]

/-- Every lock of the Bole is FREE with nobody waiting, and the other Bole's are as they were. -/
theorem WaitersOwned.scratchOff {s : State} (h : WaitersOwned s) (b : Nat) : WaitersOwned (scratchOff b s) := by
  intro c k hfree
  by_cases hb : (c * 2 ^ 11 + k) / 2 ^ 11 = b
  · have hin : ∃ l ∈ List.range 2048, b * 2 ^ 11 + l = c * 2 ^ 11 + k :=
      ⟨(c * 2 ^ 11 + k) % 2 ^ 11, List.mem_range.mpr (by omega), by omega⟩
    rw [lockOf, scr_locks_scratchOff, get_foldl_insert, if_pos hin]
  · have hout : ¬ ∃ l ∈ List.range 2048, b * 2 ^ 11 + l = c * 2 ^ 11 + k := by
      rintro ⟨l, hl, e⟩
      have := List.mem_range.mp hl
      omega
    have hlock : lockOf (Machine.scratchOff b s) c k = lockOf s c k := by
      rw [lockOf, scr_locks_scratchOff, get_foldl_insert, if_neg hout, get_filter_other _ _ _ _ hb, lockOf]
    have hclaims : lockClaims (Machine.scratchOff b s) c k = lockClaims s c k := by
      rw [lockClaims, lgroupOf, scr_lgroups_scratchOff, get_filter_other _ _ _ _ (by omega), lockClaims, lgroupOf]
    rw [hlock, hclaims] at hfree
    rw [hlock]
    exact h c k hfree

/-! ### The lock-group commands (R368) -/

theorem ReplyOnly.scr {s t : State} (h : ReplyOnly s t) : t.scr = s.scr := by
  have hrest := h.rest
  rw [hrest]

theorem WaitersOwned.finish {s : State} (h : WaitersOwned s) (r : GcpReq) (st d1 d2 : Nat) (res data : List Word) :
    WaitersOwned (finish r st d1 d2 res data s) := h.of_scr (ReplyOnly.finish ..).scr

theorem WaitersOwned.fail {s : State} (h : WaitersOwned s) (r : GcpReq) (st : Nat) : WaitersOwned (fail r st s) :=
  h.finish r st 0 0 [] []

theorem WaitersOwned.ok {s : State} (h : WaitersOwned s) (r : GcpReq) : WaitersOwned (ok r [] s) :=
  h.finish r stOk 0 0 [] []

/-- A lock group keeps its mode, or has no waiter in any of its 64 locks. -/
theorem WaitersOwned.setLgroup {s : State} (h : WaitersOwned s) {b g : Nat} {x : LockGroup}
    (hx : x.claim = (lgroupOf s b g).claim ∨ ∀ i, i < 64 → (lockOf s b (64 * g + i)).queue = []) :
    WaitersOwned (setLgroup b g x s) := by
  intro c k hfree
  change (lockOf s c k).queue = []
  by_cases hg : c * 32 + k / 64 = b * 32 + g
  · rcases hx with hsame | hempty
    · refine h c k (hfree.imp_right fun hc => ?_)
      rw [lockClaims, lgroupOf, hg] at hc ⊢
      rw [← lgroupOf, lgroupOf_setLgroup_same, hsame] at hc
      exact hc
    · have hkey : c * 2 ^ 11 + k = b * 2 ^ 11 + (64 * g + k % 64) := by omega
      rw [lockOf, hkey]
      exact hempty (k % 64) (Nat.mod_lt _ (by decide))
  · refine h c k (hfree.imp_right fun hc => ?_)
    rw [lockClaims] at hc ⊢
    rwa [lgroupOf_setLgroup_other hg] at hc

/-- No lock of a group that is unused has a waiter. -/
theorem queue_of_unused {r : GcpReq} {s : State}
    (h : (lgLocks s r).any (fun l => l.owner.isSome || l.queue != []) = false) {i : Nat} (hi : i < 64) :
    (lockOf s (lgBole r) (64 * lgGroup r + i)).queue = [] := by
  rw [List.any_eq_false] at h
  have := h _ (List.mem_map.mpr ⟨i, List.mem_range.mpr hi, rfl⟩)
  simp only [Bool.or_eq_true, bne_iff_ne, ne_eq, not_or, not_not] at this
  exact this.2

theorem WaitersOwned.effLockMode {r : GcpReq} {s : State} (h : WaitersOwned s) (ht : taken .none false r s = true) :
    WaitersOwned (effLockMode r s) := by
  cases hon : domOn s (dMem (lgBole r)) with
  | false =>
    rw [effLockMode_off ht hon]
    exact h.fail _ _
  | true =>
    by_cases hfree : (lgroupOf s (lgBole r) (lgGroup r)).claim = bAt r.words 5 16 ∨
        (lgLocks s r).any (fun l => l.owner.isSome || l.queue != []) = false
    · rw [effLockMode_sets ht hon hfree]
      refine WaitersOwned.ok (h.setLgroup (hfree.imp Eq.symm fun hunused i hi => ?_)) r
      exact queue_of_unused hunused hi
    · rw [not_or, Bool.not_eq_false] at hfree
      rw [effLockMode_busy ht hon hfree.1 hfree.2]
      exact h.fail _ _

theorem WaitersOwned.effLockRights {r : GcpReq} {s : State} (h : WaitersOwned s) (ht : taken .none false r s = true) :
    WaitersOwned (effLockRights r s) := by
  cases hon : domOn s (dMem (lgBole r)) with
  | false =>
    rw [effLockRights_off ht hon]
    exact h.fail _ _
  | true =>
    rw [effLockRights_on ht hon]
    split
    · exact h.fail _ _
    · refine WaitersOwned.ok (h.setLgroup (.inl ?_)) r
      rfl

/-- Settles O59: every operation changes locks one at a time, to states in which a waiter has an owner to wait for. -/
theorem lockInvariant : Obligations.LockInvariant := by
  unfold Obligations.LockInvariant
  intro I hI
  obtain rfl : I = WaitersOwned := funext fun s => propext (hI s)
  refine ⟨fun b l _ => rfl, fun s h => ⟨?_, ?_, ?_, ?_, ?_, ?_⟩⟩
  · exact fun hp fn l => ⟨h.effLckAcquire hp fn l, h.effLckRelease hp fn l⟩
  · exact h.effLckClaim
  · exact h.effAcquireTimeout
  · exact h.resetMasters
  · exact h.scratchOff
  · exact fun r ht => ⟨h.effLockMode ht, h.effLockRights ht⟩

end Sys2Proof.Proofs
end

section
/-! PROOFS. Grafting and pruning: the status words, and the phases of GRAFT_START and PRUNE_START (O9, O51, O52: R467 to R472). -/

namespace Sys2Proof.Proofs
open Sys2Proof.Machine Sys2Proof.Laws

/-! ### Sets of ports as words -/

/-- The number with bit `n` for each of the first `k` places that `p` picks. -/
def bitSum (p : Nat → Bool) (k : Nat) : Nat := sumN ((List.range k).map fun n => if p n then 2 ^ n else 0)

theorem bitSum_succ (p : Nat → Bool) (k : Nat) : bitSum p (k + 1) = bitSum p k + if p k then 2 ^ k else 0 := by
  simp only [bitSum, sumN, ← List.sum_eq_foldl, List.range_succ, List.map_append, List.sum_append, List.map_cons,
    List.map_nil, List.sum_cons, List.sum_nil, Nat.add_zero]

theorem bitSum_lt (p : Nat → Bool) (k : Nat) : bitSum p k < 2 ^ k := by
  induction k with
  | zero => exact Nat.zero_lt_one
  | succ k ih =>
    rw [bitSum_succ, pow_succ]
    split <;> omega

theorem testBit_bitSum (p : Nat → Bool) (k n : Nat) : (bitSum p k).testBit n = (decide (n < k) && p n) := by
  induction k with
  | zero => simp [bitSum, sumN]
  | succ k ih =>
    have hlt := bitSum_lt p k
    rw [bitSum_succ]
    rcases Nat.lt_trichotomy n k with hn | rfl | hn
    · rw [show decide (n < k + 1) = decide (n < k) by simp [hn, Nat.lt_succ_of_lt hn], ← ih]
      split
      · rw [Nat.add_comm, Nat.testBit_two_pow_add_gt hn]
      · rfl
    · cases p n with
      | false => simp [Nat.testBit_lt_two_pow hlt]
      | true => simp [Nat.add_comm _ (2 ^ n), Nat.testBit_two_pow_add_eq, Nat.testBit_lt_two_pow hlt]
    · have hbig : bitSum p k + (if p k then 2 ^ k else 0) < 2 ^ n := by
        rw [← bitSum_succ]
        exact (bitSum_lt p (k + 1)).trans_le (Nat.pow_le_pow_right (by decide) hn)
      rw [Nat.testBit_lt_two_pow hbig, decide_eq_false (by omega), Bool.false_and]

theorem toNat_portSet (p : Nat → Bool) : (portSet p).toNat = bitSum p 64 := by
  rw [portSet, BitVec.toNat_ofNat]
  exact Nat.mod_eq_of_lt (bitSum_lt p 64)

/-- A word is the word of a number from bit `32 * k` on when its bits are. -/
theorem eq_w32_of_testBit {w : Word} {m k : Nat} (h : ∀ i, i < 32 → w.getLsbD i = m.testBit (k + i)) :
    w = w32 (m >>> k) := by
  refine BitVec.eq_of_getLsbD_eq fun i hi => ?_
  rw [h i hi, w32, BitVec.getLsbD_ofNat, Nat.testBit_shiftRight, decide_eq_true hi, Bool.true_and]

/-- The two words of a set of ports, from their bits. -/
theorem setWords_portSet {w v : Word} {p : Nat → Bool} (hw : ∀ i, i < 32 → w.getLsbD i = p i)
    (hv : ∀ i, i < 32 → v.getLsbD i = p (32 + i)) : setWords (portSet p) = [w, v] := by
  have low : w = w32 (bitSum p 64 >>> 0) := by
    refine eq_w32_of_testBit fun i hi => ?_
    rw [hw i hi, testBit_bitSum, Nat.zero_add, decide_eq_true (by omega), Bool.true_and]
  have high : v = w32 (bitSum p 64 >>> 32) := by
    refine eq_w32_of_testBit fun i hi => ?_
    rw [hv i hi, testBit_bitSum, decide_eq_true (by omega), Bool.true_and]
  rw [setWords, toNat_portSet, w64, low, high, Nat.shiftRight_zero]

/-- The same, from the bits of two neighbours in a list of words. -/
theorem setWords_of_bits {ws : List Word} {k : Nat} {p : Nat → Bool}
    (h : ∀ n, n < 64 → (wAt ws (k + n / 32)).getLsbD (n % 32) = p n) :
    setWords (portSet p) = [wAt ws k, wAt ws (k + 1)] := by
  refine setWords_portSet (fun i hi => ?_) fun i hi => ?_
  · have := h i (by omega)
    rwa [Nat.div_eq_of_lt hi, Nat.mod_eq_of_lt hi] at this
  · have := h (32 + i) (by omega)
    rwa [Nat.add_div_left i (by decide), Nat.div_eq_of_lt hi, Nat.add_mod_left, Nat.mod_eq_of_lt hi] at this

theorem list_eq_wAt (ws : List Word) : ws = (List.range ws.length).map (wAt ws) := by
  refine List.ext_getElem (by simp) fun i hi _ => ?_
  rw [List.getElem_map, List.getElem_range, wAt, List.getD_eq_getElem _ _ hi]

theorem w64_eq (n : Nat) : w64 n = [w32 n, w32 (n / 2 ^ 32)] := by rw [w64, Nat.shiftRight_eq_div_pow]

theorem w32_b2n (b : Bool) : w32 (b2n b) = if b then 1 else 0 := by cases b <;> rfl

/-! ### GRAFT_STATUS and PRUNE_STATUS (R469, R472) -/

/-- T of a pending action; zero where none is pending. -/
def pendingT (a : Option (BitVec 64 × Nat)) : Nat := (a.map (·.2)).getD 0

theorem effGraftStatus_taken {r : GcpReq} {s : State} (ht : taken .none false r s = true) :
    effGraftStatus r s =
      ok r (setWords (portSet fun n => (port s n).gr.quar) ++
        setWords (portSet fun n => (port s n).gr.quar && (port s n).st == .up) ++
        setWords (portSet fun n => (port s n).gr.mism) ++
        [w32 (b2n s.net.graft.admission.isSome)] ++ w64 (pendingT s.net.graft.admission)) s := by
  rw [effGraftStatus, gcp_taken _ ht]
  cases s.net.graft.admission with
  | none => rfl
  | some a => rfl

theorem effPruneStatus_taken {r : GcpReq} {s : State} (ht : taken .none false r s = true) :
    effPruneStatus r s =
      ok r (setWords (portSet fun n => (port s n).gr.draining) ++ setWords (portSet fun n => (port s n).gr.drained) ++
        [w32 (b2n s.net.graft.remove.isSome)] ++ w64 (pendingT s.net.graft.remove)) s := by
  rw [effPruneStatus, gcp_taken _ ht]
  cases s.net.graft.remove with
  | none => rfl
  | some a => rfl

/-- A pending action as words: whether there is one, and its T. -/
theorem pending_words {a : Option (BitVec 64 × Nat)} {w lo hi : Word} (hw : w = if a.isSome then 1 else 0)
    (hlo : lo = w32 (pendingT a)) (hhi : hi = w32 (pendingT a / 2 ^ 32)) :
    w32 (b2n a.isSome) = w ∧ w64 (pendingT a) = [lo, hi] := by
  subst hw hlo hhi
  exact ⟨w32_b2n _, w64_eq _⟩

/-- Settles O51: the nine words are determined by their bits. -/
theorem graftStatusWords : Obligations.GraftStatusWords := by
  unfold Obligations.GraftStatusWords
  rintro r ws s _ ht hlen hquar hup hmism hpend hlow hhigh rfl
  have low := hlow.trans (show _ = w32 (pendingT s.net.graft.admission) by cases s.net.graft.admission <;> rfl)
  have high := hhigh.trans (show _ = w32 (pendingT s.net.graft.admission / 2 ^ 32) by cases s.net.graft.admission <;> rfl)
  obtain ⟨pending, instant⟩ := pending_words hpend low high
  refine clocked_runs fun _ => ?_
  rw [effGraftStatus_taken ht, setWords_of_bits hquar, setWords_of_bits hup, setWords_of_bits hmism, pending, instant]
  conv_rhs => rw [list_eq_wAt ws, hlen]
  rfl

/-- Settles O52: the seven words are determined by their bits. -/
theorem pruneStatusWords : Obligations.PruneStatusWords := by
  unfold Obligations.PruneStatusWords
  rintro r ws s _ ht hlen hdraining hdrained hpend hlow hhigh rfl
  have low := hlow.trans (show _ = w32 (pendingT s.net.graft.remove) by cases s.net.graft.remove <;> rfl)
  have high := hhigh.trans (show _ = w32 (pendingT s.net.graft.remove / 2 ^ 32) by cases s.net.graft.remove <;> rfl)
  obtain ⟨pending, instant⟩ := pending_words hpend low high
  refine clocked_runs fun _ => ?_
  rw [effPruneStatus_taken ht, setWords_of_bits hdraining, setWords_of_bits hdrained, pending, instant]
  conv_rhs => rw [list_eq_wAt ws, hlen]
  rfl

/-! ### The instant of a graft or prune command (R468) -/

theorem badT_zero (s : State) : badT s 0 = none := rfl

theorem badT_ahead {s : State} {t : Nat} (hlater : s.time.now < t) (hnear : t ≤ s.time.now + 2 ^ 34) : badT s t = none := by
  rw [badT, if_neg (by omega), if_neg (by omega), if_neg (by omega)]

/-! ### GRAFT_START (R468) -/

section
variable {r : GcpReq} {s : State} (ht : taken .none true r s = true)
include ht

theorem effGraftAbort_taken : effGraftAbort r s =
    ok r [] ((portsIn (gfPorts r)).foldl
      (fun s n => if (port s n).gr.quar then updGr n (fun g => { g with quar := false }) (disablePort n s) else s)
      (updGraft (fun g => { g with admission := none }) s)) := gcp_taken _ ht

variable (hq : (portsIn (gfPorts r)).any (fun n => !(port s n).gr.quar) = false)
include hq

theorem effGraftAdmit_now (h0 : gfT r = 0) : effGraftAdmit r s = ok r [] (admitPorts (gfPorts r) s) := by
  rw [effGraftAdmit, gcp_taken _ ht]
  simp only [hq, Bool.false_eq_true, if_false, h0, badT_zero, if_true]

variable (hlater : s.time.now < gfT r) (hnear : gfT r ≤ s.time.now + 2 ^ 34)
include hlater hnear

theorem effGraftAdmit_later (hnone : s.net.graft.admission = none) :
    effGraftAdmit r s = ok r [] (updGraft (fun g => { g with admission := some (gfPorts r, gfT r) }) s) := by
  have hT : gfT r ≠ 0 := by omega
  rw [effGraftAdmit, gcp_taken _ ht]
  simp only [hq, Bool.false_eq_true, if_false, badT_ahead hlater hnear, hT, hnone]

theorem effGraftAdmit_joins (hsame : s.net.graft.admission.map (·.2) = some (gfT r)) :
    effGraftAdmit r s =
      ok r [] (updGraft (fun g => { g with admission := g.admission.map (fun a => (a.1 ||| gfPorts r, a.2)) }) s) := by
  obtain ⟨⟨old, u⟩, hadm, hu⟩ := Option.map_eq_some_iff.mp hsame
  have hT : gfT r ≠ 0 := by omega
  have hu : u = gfT r := hu
  rw [effGraftAdmit, gcp_taken _ ht]
  simp only [hq, Bool.false_eq_true, if_false, badT_ahead hlater hnear, hT, hadm, hu, if_true, updGraft, Option.map_some]

end

theorem effGraftQuarantine_ports {r : GcpReq} {s : State} (ht : taken .writes true r s = true)
    (hwhole : (wAt r.words 2).toNat % 4 = 0) (hlen : (wAt r.words 2).toNat ≤ 256)
    (hq : quarRefusal s (gfPorts r) (dataOf r 10) = none) :
    effGraftQuarantine r s =
      quarDone ((portsIn (gfPorts r)).foldl
        (fun s n => enterTraining n (updGr n (fun g => { g with quar := true }) s))
        (hold r (updGraft (fun g => { g with quarCmd := some { req := r, ports := gfPorts r, peers := dataOf r 10 } })
          ((List.range 64).foldl
            (fun s n => if (port s n).gr.mism then updGr n (fun g => { g with mism := false }) s else s) s)))) := by
  have hgood : ¬ (lengthOf r % 4 ≠ 0 ∨ 256 < lengthOf r) := by
    rw [lengthOf]
    omega
  rw [effGraftQuarantine, gcp_taken _ ht]
  simp only [if_neg hgood, hq]

/-- At T the pending ports are admitted; a bank that is not PENDING does not swap with them. -/
theorem effGraftAdmitApply_due {ports : BitVec 64} {T : Nat} {s : State} (hb : s.stage.bank ≠ .pending)
    (ha : s.net.graft.admission = some (ports, T)) (hT : T ≤ s.time.now) :
    effGraftAdmitApply s = admitPorts ports { s with net.graft := { s.net.graft with admission := none } } := by
  have hswap : swapDue s = s := if_neg fun h => hb h.1
  rw [effGraftAdmitApply, swapIfDue, hswap]
  simp only [admitIfDue, ha, hT, if_true]

/-! ### PRUNE_START, phase DRAIN (R471) -/

theorem drainIfDue_later {ports : BitVec 64} {T : Nat} {s : State} (hd : s.net.graft.drain = some (ports, T))
    (hT : s.time.now < T) : drainIfDue s = s := by
  simp only [drainIfDue, hd, if_neg (not_le.mpr hT)]

theorem drainIfDue_due {ports : BitVec 64} {T : Nat} {s : State} (hd : s.net.graft.drain = some (ports, T))
    (hT : T ≤ s.time.now) :
    drainIfDue s = drainCheck ((portsIn ports).foldl (fun s n => updGr n (fun g => { g with draining := true }) s)
      (updGraft (fun g => { g with drain := none }) s)) := by
  simp only [drainIfDue, hd, hT, if_true]

/-- DRAIN of ports that are not quarantined at a T that is not refused. -/
theorem effPruneDrain_ports {r : GcpReq} {s : State} (ht : taken .none true r s = true)
    (hq : (portsIn (gfPorts r)).any (fun n => (port s n).gr.quar) = false) (hT : badT s (gfT r) = none) :
    effPruneDrain r s =
      drainIfDue (hold r (updGraft
        (fun g => { g with drain := some (gfPorts r, gfT r), drainCmd := some (r, gfPorts r) }) s)) := by
  rw [effPruneDrain, gcp_taken _ ht]
  simp only [hq, Bool.false_eq_true, if_false, hT]

theorem effPortDrained_meets {n : Nat} {s : State} (hdraining : (port s n).gr.draining = true)
    (hdrained : (port s n).gr.drained = false) (hmeets : isDrained s n = true) :
    effPortDrained n s = drainCheck (updGr n (fun g => { g with drained := true }) s) := by
  simp only [effPortDrained, hdraining, hdrained, hmeets, Bool.not_false, and_self, if_true]

theorem effPruneDrainTimeout_begun {q : GcpReq} {ports : BitVec 64} {s : State}
    (hcmd : s.net.graft.drainCmd = some (q, ports)) (hbegun : s.net.graft.drain = none) :
    effPruneDrainTimeout s =
      endCmds (fun r => r == q) stTimedOut 0 (((portsIn ports).find? (fun n => !(port s n).gr.drained)).getD 0) []
        (updGraft (fun g => { g with drainCmd := none }) s) := by
  simp only [effPruneDrainTimeout, hcmd, hbegun]

/-! ### PRUNE_START, phases REMOVE and ABORT (R471) -/

theorem removeIfDue_later {ports : BitVec 64} {T : Nat} {s : State} (hd : s.net.graft.remove = some (ports, T))
    (hT : s.time.now < T) : removeIfDue s = s := by
  simp only [removeIfDue, hd, if_neg (not_le.mpr hT)]

theorem removeIfDue_due {ports : BitVec 64} {T : Nat} {s : State} (hd : s.net.graft.remove = some (ports, T))
    (hT : T ≤ s.time.now) :
    removeIfDue s = endCmds isRemove stOk 0 0 [] ((portsIn ports).foldl
      (fun s n => updGr n (fun g => { g with draining := false, drained := false }) (disablePort n s))
      (updGraft (fun g => { g with remove := none }) s)) := by
  simp only [removeIfDue, hd, hT, if_true]

/-- REMOVE of drained ports at a T that is not refused. -/
theorem effPruneRemove_ports {r : GcpReq} {s : State} (ht : taken .none true r s = true)
    (hd : (portsIn (gfPorts r)).any (fun n => !(port s n).gr.drained) = false) (hT : badT s (gfT r) = none) :
    effPruneRemove r s =
      removeIfDue (hold r (updGraft (fun g => { g with remove := some (gfPorts r, gfT r) }) s)) := by
  rw [effPruneRemove, gcp_taken _ ht]
  simp only [hd, Bool.false_eq_true, if_false, hT]

/-- Settles O9: each clause is the branch of its phase that its hypotheses pick. -/
theorem graftAndPrune : Obligations.GraftAndPrune := by
  unfold Obligations.GraftAndPrune
  refine ⟨?quarantine, ?admitNow, ?admitLater, ?admitJoins, ?abort, ?admitApply, ?drainLater, ?drainNow, ?drainApply,
    ?drained, ?timeout, ?removeLater, ?removeNow, ?removeApply, ?pruneAbort⟩
  case quarantine =>
    rintro r s _ ht hwhole hlen hq rfl
    exact clocked_runs fun _ => effGraftQuarantine_ports ht hwhole hlen hq
  case admitNow =>
    rintro r s _ ht hq h0 rfl
    exact clocked_runs fun _ => effGraftAdmit_now ht hq h0
  case admitLater =>
    rintro r s _ ht hq hlater hnear hnone rfl
    exact clocked_runs fun _ => effGraftAdmit_later ht hq hlater hnear hnone
  case admitJoins =>
    rintro r s _ ht hq hlater hnear hsame rfl
    exact clocked_runs fun _ => effGraftAdmit_joins ht hq hlater hnear hsame
  case abort =>
    rintro r s _ ht rfl
    exact clocked_runs fun _ => effGraftAbort_taken ht
  case admitApply =>
    rintro ports T s _ hb ha hT rfl
    exact clocked_runs fun _ => effGraftAdmitApply_due hb ha hT
  case drainLater =>
    rintro r s _ ht hq hlater hnear rfl
    refine clocked_runs fun _ => (effPruneDrain_ports ht hq (badT_ahead hlater hnear)).trans ?_
    exact drainIfDue_later rfl hlater
  case drainNow =>
    rintro r s _ ht hq h0 rfl
    refine clocked_runs fun _ => ?_
    rw [effPruneDrain_ports ht hq (by rw [h0, badT_zero]), h0]
  case drainApply =>
    rintro ports T s _ hd hT rfl
    exact clocked_runs fun _ => drainIfDue_due hd hT
  case drained =>
    rintro n s _ hdraining hdrained hmeets rfl
    exact clocked_runs fun _ => effPortDrained_meets hdraining hdrained hmeets
  case timeout =>
    rintro q ports s _ hcmd hbegun rfl
    exact clocked_runs fun _ => effPruneDrainTimeout_begun hcmd hbegun
  case removeLater =>
    rintro r s _ ht hd hlater hnear rfl
    refine clocked_runs fun _ => (effPruneRemove_ports ht hd (badT_ahead hlater hnear)).trans ?_
    exact removeIfDue_later rfl hlater
  case removeNow =>
    rintro r s _ ht hd h0 rfl
    refine clocked_runs fun _ => ?_
    rw [effPruneRemove_ports ht hd (by rw [h0, badT_zero]), h0]
  case removeApply =>
    rintro ports T s _ hd hT rfl
    exact clocked_runs fun _ => removeIfDue_due hd hT
  case pruneAbort =>
    rintro r s _ ht rfl
    exact clocked_runs fun _ => gcp_taken _ ht

end Sys2Proof.Proofs
end

section
/-! PROOFS. A step takes the command at the front of the queue (O54: R426, R433). -/

namespace Sys2Proof.Proofs
open Sys2Proof.Machine Sys2Proof.Laws

/-- No command ends in a fault or a refusal. -/
theorem exec_answers (c : Instr) (s : State) : ∃ t, exec c s = .next t := by
  cases c
  all_goals exact ⟨_, rfl⟩

theorem step_idle {s : State} (h : s.pending = []) : step s = .next (tick s) := by simp only [step, h]

theorem step_front {c : Instr} {cs : List Instr} {s : State} (h : s.pending = c :: cs) :
    step s = exec c { s with pending := cs } := by simp only [step, h]

/-- Settles O54: a step is the tick of an idle block, or its front command, and each of the 240 answers a state. -/
theorem stepRunsTheFront : Obligations.StepRunsTheFront := by
  unfold Obligations.StepRunsTheFront
  refine ⟨fun c cs s => step_front rfl, fun s h => step_idle h, fun s => ?_⟩
  cases h : s.pending with
  | nil => exact ⟨_, step_idle h⟩
  | cons c cs =>
    rw [step_front h]
    exact exec_answers c _

end Sys2Proof.Proofs
end

section
/-! PROOFS. A stopped package and HM_PERST_N (O60: R460, R465, R486). -/

namespace Sys2Proof.Proofs
open Sys2Proof.Machine Sys2Proof.Laws

/-- Key of the vector control word of entry 0 of the MSI-X table of HM's function. -/
def hmVectorControl : Nat := hostKey 4 0 0x9000C

/-- A package whose clocks have stopped after entry 0 of HM's MSI-X table was masked; HM_PERST_N goes low. -/
def stoppedHmReset : State :=
  { State.reset with pending := [.perstAssert 4], pw.stopped := true, hs.bar := [(hmVectorControl, 1)] }

/-- The state after it: HM's reset, which an island operation carries out without the clocks, has emptied the table. -/
def afterHmReset : State := effPerstAssert 4 { stoppedHmReset with pending := [] }

theorem step_stoppedHmReset : step stoppedHmReset = .next afterHmReset :=
  (step_front (c := .perstAssert 4) (cs := []) rfl).trans (always_stops (f := effPerstAssert 4) (t := afterHmReset) rfl rfl)

theorem bar_stoppedHmReset : stoppedHmReset.hs.bar = [(hmVectorControl, 1)] := rfl

theorem bar_afterHmReset : afterHmReset.hs.bar = [] := by decide

/-- Refutes O60: HM_PERST_N resets the HM port also while the clocks have stopped, and empties its MSI-X table. -/
theorem not_stoppedUntilReset : ¬ Obligations.StoppedUntilReset := by
  unfold Obligations.StoppedUntilReset
  intro h
  obtain ⟨_, _, _, _, _, _, _, hhs, _⟩ := h stoppedHmReset afterHmReset rfl nofun nofun step_stoppedHmReset
  have hbar : afterHmReset.hs.bar = stoppedHmReset.hs.bar := (congrArg HostSide.bar hhs :)
  rw [bar_stoppedHmReset, bar_afterHmReset] at hbar
  cases hbar

end Sys2Proof.Proofs
end

section
/-! PROOFS. The controller's own commands, fences, event sources, test mode and watchdogs (O1, O10, O11: R392, R410, R417,
R418, R434, R441 to R450). -/

namespace Sys2Proof.Proofs
open Sys2Proof.Machine Sys2Proof.Laws

/-- A request of 16 words is echoed as its words 5 to 15. -/
theorem words_from_five {ws : List Word} (h : ws.length = 16) : (List.range 11).map (fun i => wAt ws (5 + i)) = ws.drop 5 := by
  refine List.ext_getElem (by simp [h]) fun i _ h' => ?_
  rw [List.length_drop] at h'
  rw [List.getElem_map, List.getElem_range, List.getElem_drop, wAt, List.getD_eq_getElem _ _ (by omega)]

theorem effEcho_taken {r : GcpReq} {s : State} (ht : taken .none false r s = true) (hlen : r.words.length = 16) :
    effEcho r s = ok r (r.words.drop 5) s := by
  rw [effEcho, gcp_taken _ ht, words_from_five hlen]

/-- Settles O1: the command's own action, once the request is taken. -/
theorem controllerIdentity : Obligations.ControllerIdentity := by
  unfold Obligations.ControllerIdentity
  refine ⟨?identity, ?status, ?echo, ?allowSet, ?eventDestSet⟩
  case identity =>
    rintro r s _ ht rfl
    exact clocked_runs fun _ => gcp_taken _ ht
  case status =>
    rintro r s _ ht rfl
    exact clocked_runs fun _ => gcp_taken _ ht
  case echo =>
    rintro r s _ ht hlen rfl
    exact clocked_runs fun _ => effEcho_taken ht hlen
  case allowSet =>
    rintro r s _ ht rfl
    exact clocked_runs fun _ => gcp_taken _ ht
  case eventDestSet =>
    rintro r s _ ht rfl
    exact clocked_runs fun _ => gcp_taken _ ht

/-! ### Fences (R443, R446) -/

section
variable {r : GcpReq} {s : State} (ht : taken .none false r s = true)
include ht

section
variable (hfm : (fromHost r).isSome = false) (hu : unitOk (fAt r.words 5 0 7) = true)
include hfm hu

theorem effFence_fabric : effFence r s = ok r [] { s with ev.own := s.ev.own ||| BitVec.ofNat 128 (2 ^ fAt r.words 5 0 7) } := by
  rw [effFence, gcp_taken _ ht]
  simp only [hfm, hu, Bool.not_true, Bool.false_eq_true, if_false]

theorem effUnfence_free (hfree : holdsFence s (fAt r.words 5 0 7) = false) :
    effUnfence r s = ok r [] { s with ev.own := s.ev.own &&& ~~~BitVec.ofNat 128 (2 ^ fAt r.words 5 0 7) } := by
  rw [effUnfence, gcp_taken _ ht]
  simp only [hfm, hu, hfree, Bool.not_true, Bool.false_eq_true, if_false]

end

/-! ### Event sources (R442, R444, R448, R449) -/

theorem effEventCfg_pins (hfm : (fromHost r).isSome = false) (hpins : bAt r.words 5 31 = true) :
    effEventCfg r s = ok r [] { s with ev.latch := bAt r.words 6 0 } := by
  rw [effEventCfg, gcp_taken _ ht]
  simp only [hfm, hpins, Bool.not_true, Bool.false_eq_true, and_false, false_and, or_self, if_false, if_true]

section
variable (hmay : hostMay r (evSource r) = true) (hres : reservedSrc (evSource r) = false)
include hmay hres

theorem effEventCfg_source (hpins : bAt r.words 5 31 = false) (hcfg : cfgRefusal s (evSource r) r = none) :
    effEventCfg r s = ok r [] (setRec (evSource r) (cfgRec r (evSource r) (recOf s (evSource r))) s) := by
  rw [effEventCfg, gcp_taken _ ht]
  simp only [hmay, hres, hpins, hcfg, Bool.not_true, Bool.false_eq_true, and_false, false_and, or_self, if_false]

variable (hcool : evSource r ≠ 336 ∨ (wAt r.words 6).toNat.testBit 0 = false ∨ coolEnough s = true)
include hcool

/-- EVENT_CLEAR of a source that may be cleared: its bits, ALIVE, and FAULT_N when asked. -/
theorem effEventClear_source :
    effEventClear r s = ok r []
      (if bAt r.words 5 16 ∧ faultHeld (resumeAlive (clearCause (evSource r) (wAt r.words 6).toNat s)) then
        { resumeAlive (clearCause (evSource r) (wAt r.words 6).toNat s) with ev.faultLow := false }
      else resumeAlive (clearCause (evSource r) (wAt r.words 6).toNat s)) := by
  have hwarm : ¬ (evSource r = 336 ∧ (wAt r.words 6).toNat.testBit 0 = true ∧ (!coolEnough s) = true) := by
    rintro ⟨h336, hbit, hwarm⟩
    simp_all
  rw [effEventClear, gcp_taken _ ht]
  simp only [hmay, hres, if_neg hwarm, Bool.not_true, Bool.false_eq_true, if_false]

theorem effEventClear_keeps
    (hkeep : bAt r.words 5 16 = false ∨ faultHeld (resumeAlive (clearCause (evSource r) (wAt r.words 6).toNat s)) = false) :
    effEventClear r s = ok r [] (resumeAlive (clearCause (evSource r) (wAt r.words 6).toNat s)) := by
  rw [effEventClear_source ht hmay hres hcool, if_neg]
  rintro ⟨hask, hheld⟩
  rcases hkeep with h | h
  · exact Bool.noConfusion (hask.symm.trans h)
  · exact Bool.noConfusion (hheld.symm.trans h)

theorem effEventClear_releases (hask : bAt r.words 5 16 = true)
    (hheld : faultHeld (resumeAlive (clearCause (evSource r) (wAt r.words 6).toNat s)) = true) :
    effEventClear r s = ok r [] { resumeAlive (clearCause (evSource r) (wAt r.words 6).toNat s) with ev.faultLow := false } := by
  rw [effEventClear_source ht hmay hres hcool, if_pos ⟨hask, hheld⟩]

end
end

/-- Settles O10: the two clauses of FENCE are one effect, which fences or changes no fence. -/
theorem fencesAndEvents : Obligations.FencesAndEvents := by
  unfold Obligations.FencesAndEvents
  refine ⟨?fences, ?fenced, ?unfence, ?pins, ?source, ?read, ?clear, ?release⟩
  case fences =>
    rintro r s _ ht hfm hu rfl
    exact clocked_fence fun _ => effFence_fabric ht hfm hu
  case fenced =>
    rintro r s _ ht hfm hu rfl
    exact clocked_runs fun _ => effFence_fabric ht hfm hu
  case unfence =>
    rintro r s _ ht hfm hu hfree rfl
    exact clocked_fence fun _ => effUnfence_free ht hfm hu hfree
  case pins =>
    rintro r s _ ht hfm hpins rfl
    exact clocked_runs fun _ => effEventCfg_pins ht hfm hpins
  case source =>
    rintro r s _ ht hpins hmay hres hcfg rfl
    exact clocked_runs fun _ => effEventCfg_source ht hmay hres hpins hcfg
  case read =>
    rintro r s _ ht rfl
    exact clocked_runs fun _ => gcp_taken _ ht
  case clear =>
    rintro r s _ ht hmay hres hcool hkeep rfl
    exact clocked_runs fun _ => effEventClear_keeps ht hmay hres hcool hkeep
  case release =>
    rintro r s _ ht hmay hres hcool hask hheld rfl
    exact clocked_runs fun _ => effEventClear_releases ht hmay hres hcool hask hheld

/-! ### Test mode and injection (R450) -/

theorem effTestUnlock_strapless {r : GcpReq} {s : State} (ht : taken .writes false r s = true) (hm : s.pw.testMode = false) :
    effTestUnlock r s = fail r stNotPermitted s := by
  rw [effTestUnlock, gcp_taken _ ht]
  simp only [hm, Bool.not_false, true_or, if_true]

theorem effFaultInject_closed {r : GcpReq} {s : State} (ht : taken .none false r s = true)
    (hc : s.pw.testMode = false ∨ s.ev.testOpen = false) : effFaultInject r s = fail r stNotPermitted s := by
  rw [effFaultInject, gcp_taken _ ht]
  simp only [Bool.not_eq_true', if_pos hc]

theorem effTestUnlock_strapped {r : GcpReq} {s : State} (ht : taken .writes false r s = true) (hm : s.pw.testMode = true)
    (hb : s.heart.unlockBlocked = false) :
    effTestUnlock r s =
      if debugTokenOk s ((wBytes (dataOf r 5)).take (lengthOf r)) then
        ok r [] (raise 313 1 { debugUnlock ((wBytes (dataOf r 5)).take (lengthOf r)) s with ev.testOpen := true })
      else authFail r (debugUnlock ((wBytes (dataOf r 5)).take (lengthOf r)) s) := by
  rw [effTestUnlock, gcp_taken _ ht]
  simp only [hm, hb, Bool.not_true, Bool.false_eq_true, or_self, if_false]

theorem effFaultInject_open {r : GcpReq} {s : State} (ht : taken .none false r s = true) (hm : s.pw.testMode = true)
    (ho : s.ev.testOpen = true) (hres : reservedSrc (evSource r) = false) :
    effFaultInject r s = ok r [] (raise 313 2 (injectCause (evSource r) (wAt r.words 6).toNat s)) := by
  rw [effFaultInject, gcp_taken _ ht]
  simp only [hm, ho, hres, Bool.not_true, Bool.false_eq_true, or_self, if_false]

/-! ### Watchdogs, FAULT_N and repeated events (R418, R430, R448, R449) -/

theorem effHwWdogExpire_past_boot {s : State} (hf : s.mgmt.fw ≠ .boot) :
    effHwWdogExpire s = restartController (raise 312 1 (stopAlive { s with ev.wdogOk := false })) := if_neg hf

theorem effFwHeartbeatMiss_running {s : State} (hf : s.mgmt.fw = .running) :
    effFwHeartbeatMiss s = restartController (raise 312 2 (stopAlive { s with ev.hbOk := false })) := if_neg (not_not.mpr hf)

theorem faultHeld_iff {s : State} :
    faultHeld s = true ↔ s.pw.stopped = true ∨ s.pw.tapLock = false ∨ s.ev.faultAt + 10000 ≤ s.time.now := by
  rw [faultHeld, Bool.or_eq_true, Bool.or_eq_true, Bool.not_eq_true', decide_eq_true_eq, or_assoc]

theorem effFaultNRelease_held {s : State} (hl : s.ev.latch = false) (hh : faultHeld s = true) :
    effFaultNRelease s = { s with ev.faultLow := false } := by
  rw [effFaultNRelease, if_neg]
  simp [hl, hh]

theorem effFaultNRelease_kept {s : State} (h : s.ev.latch = true ∨ faultHeld s = false) : effFaultNRelease s = s := by
  rw [effFaultNRelease, if_pos]
  simpa using h

theorem effGcpEventRepeat_next {s : State} {q : BitVec 16} {w : List Word} {tl : List (BitVec 16 × List Word)}
    (h : s.mgmt.repeats = (q, w) :: tl) :
    effGcpEventRepeat s = sendMgt s.mgmt.eventEid 0x52 q w [] { s with mgmt.repeats := tl } := by
  simp only [effGcpEventRepeat, h]

/-- Settles O11: each clause is the branch of its command that its hypotheses pick. -/
theorem testModeAndWatchdogs : Obligations.TestModeAndWatchdogs := by
  unfold Obligations.TestModeAndWatchdogs
  refine ⟨?strapless, ?closed, ?unlock, ?inject, ?wdog, ?wdogBoot, ?miss, ?missIdle, ?release, ?held, ?again⟩
  case strapless =>
    rintro r s _ ht hm rfl
    exact clocked_runs fun _ => effTestUnlock_strapless ht hm
  case closed =>
    rintro r s _ ht hc rfl
    exact clocked_runs fun _ => effFaultInject_closed ht hc
  case unlock =>
    rintro r s _ ht hm hb rfl
    exact clocked_runs fun _ => effTestUnlock_strapped ht hm hb
  case inject =>
    rintro r s _ ht hm ho hres rfl
    exact clocked_runs fun _ => effFaultInject_open ht hm ho hres
  case wdog =>
    rintro _ s _ hf rfl rfl
    exact clocked_runs fun _ => effHwWdogExpire_past_boot hf
  case wdogBoot =>
    rintro s _ hf rfl
    exact clocked_runs fun _ => if_pos hf
  case miss =>
    rintro _ s _ hf rfl rfl
    exact clocked_runs fun _ => effFwHeartbeatMiss_running hf
  case missIdle =>
    rintro s _ hf rfl
    exact clocked_runs fun _ => if_pos hf
  case release =>
    rintro s _ hl hover rfl
    exact always_runs (effFaultNRelease_held hl (faultHeld_iff.mpr hover))
  case held =>
    rintro s _ hkept rfl
    refine always_runs (effFaultNRelease_kept (hkept.imp_right ?_))
    rintro ⟨hs, ht, hnow⟩
    rw [← Bool.not_eq_true, faultHeld_iff]
    simp [hs, ht, hnow]
  case again =>
    rintro q w tl s _ h rfl
    exact clocked_runs fun _ => effGcpEventRepeat_next h

end Sys2Proof.Proofs
end

section
/-! PROOFS. Link keys, the alarm policy, alarms and zeroisation (O12: R386, R395 to R399, R482). -/

namespace Sys2Proof.Proofs
open Sys2Proof.Machine Sys2Proof.Laws

/-! ### A stomped packet takes no time -/

@[simp] theorem boundary_time (o : Nat) (s : State) : (boundary o s).time = s.time := by
  unfold boundary
  split <;> rfl

@[simp] theorem crossOut_time (h : Nat) (p : Packet) (o : Out) (s : State) : (crossOut h p o s).time = s.time := by
  unfold crossOut crossD2d
  split
  · rfl
  · split <;> rfl

@[simp] theorem endTx_time (o : Nat) (s : State) : (endTx o s).time = s.time := by
  unfold endTx
  split
  · rfl
  · rw [boundary_time, updOut_time]
    split <;> rfl

@[simp] theorem deliverTx_time (o : Nat) (s : State) : (deliverTx o s).time = s.time := by
  unfold deliverTx
  split
  · rfl
  · rw [endTx_time]
    split
    · exact crossOut_time ..
    · rfl

@[simp] theorem stompCount_time (o : Nat) (s : State) : (stompCount o s).time = s.time := by
  rw [stompCount, apply_ite State.time, inc_time, ite_self]

@[simp] theorem dropRx_time (i : Nat) (s : State) : (dropRx i s).time = s.time := by
  rw [dropRx, apply_ite State.time, updPort_time, ite_self]

@[simp] theorem stompOut_time (o : Nat) (s : State) : (stompOut o s).time = s.time := by
  unfold stompOut
  split
  · rfl
  · simp only [apply_ite State.time, stompCount_time, updOut_time, deliverTx_time, updPort_time, dropRx_time, ite_self]

theorem foldl_time {α : Type} {f : State → α → State} (hf : ∀ s a, (f s a).time = s.time) :
    ∀ (l : List α) (s : State), (l.foldl f s).time = s.time
  | [], _ => rfl
  | a :: l, s => (foldl_time hf l (f s a)).trans (hf s a)

/-! ### Erasure (R387, R396) -/

/-- The packets in transmission under a key are stomped, where the clocks run. -/
def stompKeyed (s : State) : State :=
  if s.pw.stopped then s else (List.range 64).foldl
    (fun s n => if gcmEn s n ∧ (outp s n).busy.isSome ∧ (outp s n).hold = false then stompOut n s else s) s

theorem stompKeyed_heart (s : State) : (stompKeyed s).heart = s.heart := by
  have cuts : CrossbarOnly s (stompKeyed s) :=
    .ite (.refl s) (.foldl (fun s n => .ite (.stompOut n s) (.refl s)) _ _)
  exact cuts.2.1

@[simp] theorem stompKeyed_time (s : State) : (stompKeyed s).time = s.time := by
  unfold stompKeyed
  split
  · rfl
  · exact foldl_time (fun s n => by rw [apply_ite State.time, stompOut_time, ite_self]) _ _

theorem eraseSession_eq (s : State) :
    eraseSession s = { stompKeyed s with heart := { (stompKeyed s).heart with
      keys := []
      sessions := 0
      ide := Maps.mapVals {} (fun _ v => { st := if v.st = 1 then 2 else v.st }) (stompKeyed s).heart.ide
      erasing := some (s.heart.erasing == some true) } } := by
  have erasing : (stompKeyed s).heart.erasing = s.heart.erasing := by rw [stompKeyed_heart]
  rw [← erasing]
  simp only [eraseSession, stompKeyed, Bool.not_eq_true']

theorem eraseAll_eq (s : State) :
    eraseAll s = { stompKeyed s with heart := { (stompKeyed s).heart with
      keys := []
      sessions := 0
      ide := Maps.mapVals {} (fun _ v => { st := if v.st = 1 then 2 else v.st }) (stompKeyed s).heart.ide
      idKey := none
      wrapKey := none
      deriveBlocked := true
      eraseCount := min 63 (s.heart.eraseCount + 1)
      erasing := some true } } := by
  have count : (stompKeyed s).heart.eraseCount = s.heart.eraseCount := by rw [stompKeyed_heart]
  rw [eraseAll, eraseSession_eq, ← count]

theorem eraseSession_time (s : State) : (eraseSession s).time = s.time := by rw [eraseSession_eq, stompKeyed_time]

theorem eraseAll_time (s : State) : (eraseAll s).time = s.time := by rw [eraseAll_eq, stompKeyed_time]

/-! ### Alarms (R395, R396, R398) -/

/-- Alarm `k` has been raised and noted as the last, and latched at policy ALARM or stronger. -/
def alarmNoted (k : Nat) (s : State) : State :=
  let w := raise (320 + k) 1 s
  let w := { w with heart := { w.heart with lastAlarm := BitVec.ofNat 4 k, lastTime := s.time.now } }
  if 1 ≤ policyOf s k then { w with heart.latch := w.heart.latch ||| BitVec.ofNat 8 (2 ^ k) } else w

theorem alarmNoted_time (k : Nat) (s : State) : (alarmNoted k s).time = s.time := by
  unfold alarmNoted
  extract_lets w w'
  have hw : w.time = s.time := raise_time ..
  split
  · exact hw
  · exact hw

/-- An alarm erases by its policy, unless one of the same instant has done so. -/
theorem alarm_eq (k : Nat) (s : State) :
    alarm k s =
      if policyOf s k < 2 ∨ erasedNow (policyOf s k == 3) (alarmNoted k s) then alarmNoted k s
      else { (if policyOf s k = 3 then eraseAll (alarmNoted k s) else eraseSession (alarmNoted k s)) with
        heart.eraseAt := some s.time.now } := by
  have erased : (if policyOf s k = 3 then eraseAll (alarmNoted k s) else eraseSession (alarmNoted k s)).time = s.time := by
    rw [apply_ite State.time, eraseAll_time, eraseSession_time, ite_self, alarmNoted_time]
  rw [← erased]
  simp only [alarm, alarmNoted, raise_time]

theorem effVoltGlitch_monitored {x : Supply} {s : State}
    (hx : x = .core ∨ x = .aon ∨ (x = .e0 ∧ boleUsed s 0 = true) ∨ (x = .e1 ∧ boleUsed s 1 = true)) :
    effVoltGlitch x s = alarm 2 s := by
  rcases hx with rfl | rfl | ⟨rfl, hu⟩ | ⟨rfl, hu⟩
  · rfl
  · rfl
  · exact if_pos hu
  · exact if_pos hu

theorem effVoltGlitch_unmonitored {x : Supply} {s : State}
    (hx : x = .netSerdes ∨ x = .hbm ∨ (x = .e0 ∧ boleUsed s 0 = false) ∨ (x = .e1 ∧ boleUsed s 1 = false)) :
    effVoltGlitch x s = s := by
  rcases hx with rfl | rfl | ⟨rfl, hu⟩ | ⟨rfl, hu⟩
  · rfl
  · rfl
  · exact if_neg (Bool.not_eq_true _ ▸ hu)
  · exact if_neg (Bool.not_eq_true _ ▸ hu)

/-! ### Zeroisation and the alarm policy (R397, R398) -/

theorem effZeroize_taken {r : GcpReq} {s : State} (ht : taken .none true r s = true) :
    effZeroize r s = hold r (if bAt r.words 5 0 then eraseAll s else eraseSession s) := gcp_taken _ ht

theorem effZeroizationDone_erasing {e : Bool} {s : State} (he : s.heart.erasing = some e) :
    effZeroizationDone s =
      endCmds (fun r => opcodeOf r == 0x904) stOk 0 0 []
        (raise 329 1 (inc (hwdCtr 4) { s with heart := { s.heart with erasing := none, eraseAt := none } })) := by
  simp only [effZeroizationDone, he]

/-! ### Link keys (R386) -/

section
variable {r : GcpReq} {s : State} (ht : taken .none false r s = true)
include ht

theorem effLinkKeyInstall_blocked (hb : s.heart.deriveBlocked = true) : effLinkKeyInstall r s = fail r stNotPermitted s := by
  rw [effLinkKeyInstall, gcp_taken _ ht]
  simp only [hb, if_true]

theorem effLinkKeyClear_blocked (hb : s.heart.deriveBlocked = true) : effLinkKeyClear r s = fail r stNotPermitted s := by
  rw [effLinkKeyClear, gcp_taken _ ht]
  simp only [hb, if_true]

variable (hb : s.heart.deriveBlocked = false)
include hb

theorem effLinkKeyInstall_outside (hin : inSession r s = false) : effLinkKeyInstall r s = authFail r s := by
  rw [effLinkKeyInstall, gcp_taken _ ht]
  simp only [hb, hin, Bool.false_eq_true, if_false, Bool.not_false, if_true]

theorem effLinkKeyClear_outside (hin : inSession r s = false) : effLinkKeyClear r s = authFail r s := by
  rw [effLinkKeyClear, gcp_taken _ ht]
  simp only [hb, hin, Bool.false_eq_true, if_false, Bool.not_false, if_true]

variable (hin : inSession r s = true)
include hin

theorem effLinkKeyClear_activate (ha : bAt r.words 5 10 = true) (hd : lkDir r = 1) :
    effLinkKeyClear r s = fail r stBadParam s := by
  rw [effLinkKeyClear, gcp_taken _ ht]
  simp only [hb, hin, ha, hd, Bool.false_eq_true, if_false, Bool.not_true, and_self, if_true]

theorem effLinkKeyClear_slot (ha : ¬ (bAt r.words 5 10 = true ∧ lkDir r = 1)) :
    effLinkKeyClear r s = ok r [] (setLinkKey (lkPort r) (lkDir r) (lkSlot r) {}
      (if lkDir r = 0 ∧ lkSlot r = b2n (port s (lkPort r)).kpTx ∧ gcmEn s (lkPort r) ∧ (outp s (lkPort r)).busy.isSome ∧
        !(outp s (lkPort r)).hold then stompOut (lkPort r) s else s)) := by
  rw [effLinkKeyClear, gcp_taken _ ht]
  simp only [hb, hin, if_neg ha, Bool.false_eq_true, if_false, Bool.not_true]

/-- An install asks for ACTIVATE of a receive slot, or names the key and salt of the other transmit slot. -/
def installBad (r : GcpReq) (s : State) : Prop :=
  bAt r.words 5 10 = true ∧ lkDir r = 1 ∨
    lkDir r = 0 ∧ (linkKey s (lkPort r) 0 (1 - lkSlot r)).valid = true ∧
      (linkKey s (lkPort r) 0 (1 - lkSlot r)).key = lkKey r ∧ (linkKey s (lkPort r) 0 (1 - lkSlot r)).salt = wAt r.words 6

/-- The slot of an install is in use at a port that is UP, or a switch is pending there. -/
def installBusy (r : GcpReq) (s : State) : Prop :=
  (port s (lkPort r)).st = .up ∧
      lkSlot r = b2n (if lkDir r = 0 then (port s (lkPort r)).kpTx else (port s (lkPort r)).kpRx) ∨
    (port s (lkPort r)).keySwitch.isSome = true

theorem effLinkKeyInstall_bad (hbad : installBad r s) : effLinkKeyInstall r s = fail r stBadParam s := by
  rw [effLinkKeyInstall, gcp_taken _ ht]
  simp only [hb, hin, Bool.false_eq_true, if_false, Bool.not_true]
  rcases hbad with hact | hother
  · rw [if_pos hact]
  · rw [if_pos hother, ite_self]

variable (hgood : ¬ installBad r s)
include hgood

theorem effLinkKeyInstall_busy (hbusy : installBusy r s) : effLinkKeyInstall r s = fail r stBusy s := by
  obtain ⟨hact, hother⟩ := not_or.mp hgood
  rw [effLinkKeyInstall, gcp_taken _ ht]
  simp only [hb, hin, Bool.false_eq_true, if_false, Bool.not_true]
  rw [if_neg hact, if_neg hother]
  exact if_pos hbusy

theorem effLinkKeyInstall_free (hfree : ¬ installBusy r s) :
    effLinkKeyInstall r s = ok r [] (inc (hwdCtr 2) (if bAt r.words 5 10 then
      updPort (lkPort r) (fun p => { p with keySwitch := some (lkSlot r == 1) }) (setLinkKey (lkPort r) (lkDir r) (lkSlot r)
        { valid := true, key := lkKey r, salt := wAt r.words 6, ctr := 0 } s)
      else setLinkKey (lkPort r) (lkDir r) (lkSlot r) { valid := true, key := lkKey r, salt := wAt r.words 6, ctr := 0 } s)) := by
  obtain ⟨hact, hother⟩ := not_or.mp hgood
  rw [effLinkKeyInstall, gcp_taken _ ht]
  simp only [hb, hin, Bool.false_eq_true, if_false, Bool.not_true]
  rw [if_neg hact, if_neg hother]
  exact if_neg hfree

end

theorem not_installBad {r : GcpReq} {s : State} (hact : bAt r.words 5 10 = false ∨ lkDir r ≠ 1)
    (hother : lkDir r ≠ 0 ∨ (linkKey s (lkPort r) 0 (1 - lkSlot r)).valid = false ∨
      (linkKey s (lkPort r) 0 (1 - lkSlot r)).key ≠ lkKey r ∨ (linkKey s (lkPort r) 0 (1 - lkSlot r)).salt ≠ wAt r.words 6) :
    ¬ installBad r s := by
  rw [← Bool.not_eq_true] at hact hother
  rw [installBad, not_or, not_and_or, not_and_or, not_and_or, not_and_or]
  exact ⟨hact, hother⟩

theorem not_installBusy {r : GcpReq} {s : State}
    (huse : (port s (lkPort r)).st ≠ .up ∨
      lkSlot r ≠ b2n (if lkDir r = 0 then (port s (lkPort r)).kpTx else (port s (lkPort r)).kpRx))
    (hswitch : (port s (lkPort r)).keySwitch = none) : ¬ installBusy r s := by
  rw [installBusy, not_or, not_and_or]
  exact ⟨huse, by simp [hswitch]⟩

/-- Settles O12: each clause is the branch of its command that its hypotheses pick; an alarm is `alarm_eq`. -/
theorem keysAndZeroisation : Obligations.KeysAndZeroisation := by
  unfold Obligations.KeysAndZeroisation
  refine ⟨?install, ?bad, ?busy, ?installOutside, ?clearOutside, ?clearActivate, ?clear, ?installBlocked, ?clearBlocked,
    ?policy, ?tamper, ?volt, ?voltNone, ?clk, ?session, ?all, ?done⟩
  case install =>
    rintro r s _ ht hb hin hact hother huse hswitch rfl
    exact clocked_runs fun _ =>
      effLinkKeyInstall_free ht hb hin (not_installBad hact hother) (not_installBusy huse hswitch)
  case bad =>
    rintro r s _ ht hb hin hbad rfl
    exact clocked_runs fun _ => effLinkKeyInstall_bad ht hb hin hbad
  case busy =>
    rintro r s _ ht hb hin hact hother hbusy rfl
    exact clocked_runs fun _ => effLinkKeyInstall_busy ht hb hin (not_installBad hact hother) hbusy
  case installOutside =>
    rintro r s _ ht hb hin rfl
    exact clocked_runs fun _ => effLinkKeyInstall_outside ht hb hin
  case clearOutside =>
    rintro r s _ ht hb hin rfl
    exact clocked_runs fun _ => effLinkKeyClear_outside ht hb hin
  case clearActivate =>
    rintro r s _ ht hb hin ha hd rfl
    exact clocked_runs fun _ => effLinkKeyClear_activate ht hb hin ha hd
  case clear =>
    rintro r s _ ht hb hin hact rfl
    refine clocked_runs fun _ => effLinkKeyClear_slot ht hb hin ?_
    rintro ⟨ha, hd⟩
    rcases hact with h | h
    · exact Bool.noConfusion (ha.symm.trans h)
    · omega
  case installBlocked =>
    rintro r s _ ht hb rfl
    exact clocked_runs fun _ => effLinkKeyInstall_blocked ht hb
  case clearBlocked =>
    rintro r s _ ht hb rfl
    exact clocked_runs fun _ => effLinkKeyClear_blocked ht hb
  case policy =>
    rintro r s _ ht hlow rfl
    refine clocked_runs fun _ => ?_
    rw [effAlarmPolicy, gcp_taken _ ht]
    simp only [hlow, Bool.false_eq_true, if_false]
  case tamper =>
    rintro k _ s _ rfl rfl
    exact always_runs (alarm_eq _ _)
  case volt =>
    rintro x _ s _ hx rfl rfl
    exact always_runs ((effVoltGlitch_monitored hx).trans (alarm_eq _ _))
  case voltNone =>
    rintro x s _ hx rfl
    exact always_runs (effVoltGlitch_unmonitored hx)
  case clk =>
    rintro _ s _ rfl rfl
    exact always_runs (alarm_eq _ _)
  case session =>
    rintro r _ s _ ht hall rfl rfl
    refine clocked_runs fun _ => (effZeroize_taken ht).trans ?_
    rw [hall, if_neg Bool.false_ne_true, eraseSession_eq]
    rfl
  case all =>
    rintro r _ s _ ht hall rfl rfl
    refine clocked_runs fun _ => (effZeroize_taken ht).trans ?_
    rw [hall, if_pos rfl, eraseAll_eq]
    rfl
  case done =>
    rintro e s _ he rfl
    exact clocked_runs fun _ => effZeroizationDone_erasing he

end Sys2Proof.Proofs
end

section
/-! PROOFS. Debug unlock, the SPDM responder and IDE keys (O13: R389, R392, R393, R399, R413). -/

namespace Sys2Proof.Proofs
open Sys2Proof.Machine Sys2Proof.Laws

/-! ### Debug unlock (R392) -/

theorem debugUnlock_early {token : List Byte} {s : State} (hb : s.heart.unlockBlocked = false) (hf : s.heart.unlockFails < 2) :
    debugUnlock token s =
      if debugTokenOk s token then { eraseAll { s with heart.challenges := s.heart.challenges + 1 } with heart.debugOpen := true }
      else inc (hwdCtr 6) { s with heart.challenges := s.heart.challenges + 1, heart.unlockFails := s.heart.unlockFails + 1 } := by
  have hearly : ¬ 3 ≤ s.heart.unlockFails + 1 := by omega
  simp only [debugUnlock, hb, Bool.false_eq_true, if_false, if_neg hearly]

theorem debugUnlock_third {token : List Byte} {s : State} (hb : s.heart.unlockBlocked = false) (hf : 2 ≤ s.heart.unlockFails) :
    debugUnlock token s =
      if debugTokenOk s token then { eraseAll { s with heart.challenges := s.heart.challenges + 1 } with heart.debugOpen := true }
      else alarm 5 { inc (hwdCtr 6) { s with
        heart.challenges := s.heart.challenges + 1, heart.unlockFails := s.heart.unlockFails + 1 } with
        heart.unlockBlocked := true } := by
  have hthird : 3 ≤ s.heart.unlockFails + 1 := by omega
  simp only [debugUnlock, hb, Bool.false_eq_true, if_false, if_pos hthird]

/-! ### The SPDM responder (R393, R399) -/

/-- What the responder answers to a message: the request's number, whether with a response of the standard's, what the response
carries besides its body, and the state that answers. -/
def spdmOutcome (s : State) : Spdm → Nat × Bool × List Word × State
  | .getVersion => (1, true, [], s)
  | .getCapabilities => (2, true, [], s)
  | .negotiate => (3, true, [], s)
  | .getDigests => (4, true, [], s)
  | .getCertificate slot off len => (5, slot == 0, chainPart s off len, s)
  | .challenge => (6, !s.heart.deriveBlocked && s.heart.idKey.isSome, [], s)
  | .getMeasurements signed => (7, (!s.heart.deriveBlocked && s.heart.idKey.isSome) || !signed, [], s)
  | .keyExchange => (8, (!s.heart.deriveBlocked && s.heart.idKey.isSome) && decide (s.heart.sessions < 8), [], s)
  | .finish =>
    if (!s.heart.deriveBlocked && s.heart.idKey.isSome) ∧ s.heart.sessions < 8 then
      (9, true, [], inc (hwdCtr 0) { s with heart.sessions := s.heart.sessions + 1 })
    else (9, false, [], s)
  | .endSession =>
    if s.heart.sessions = 0 then (10, false, [], s) else (10, true, [], { s with heart.sessions := s.heart.sessions - 1 })
  | .secured _ _ => (11, true, [], s)
  | .ideKeyProg => (12, false, [], s)
  | .other => (13, false, [], s)

/-- The responder answers every message but a secured one that fails verification or comes outside a session. -/
theorem spdmRun_answers {h k : Nat} {good : Bool} {part : List Word} {u s : State} {msg : Spdm}
    (hrow : (k, good, part, u) = spdmOutcome s msg) (hsec : ∀ v q, msg = .secured v q → v = true ∧ s.heart.sessions ≠ 0) :
    spdmRun h msg s = spdmAnswer h k good part u := by
  cases msg with
  | finish =>
    simp only [spdmOutcome, spdmRun] at hrow ⊢
    split at hrow <;> cases hrow
    · next hlive => rw [if_pos hlive]
    · next hlive => rw [if_neg hlive]
  | endSession =>
    simp only [spdmOutcome, spdmRun] at hrow ⊢
    split at hrow <;> cases hrow
    · next hnone => rw [if_pos hnone]
    · next hnone => rw [if_neg hnone]
  | secured v q =>
    cases hrow
    exact if_pos (hsec v q rfl)
  | _ =>
    cases hrow
    rfl

theorem spdmRun_refuses {h : Nat} {v : Bool} {q : GcpReq} {s : State} (hbad : v = false ∨ s.heart.sessions = 0) :
    spdmRun h (.secured v q) s = raise 330 1 (inc (hwdCtr 1) s) := by
  refine if_neg ?_
  rintro ⟨hv, hs⟩
  rcases hbad with h | h
  · exact Bool.noConfusion (hv.symm.trans h)
  · exact hs h

section
variable {r q : GcpReq} {s : State} (ht : taken .writes false r s = true)
include ht

theorem effSpdmMsg_plain {msg : Spdm} (hplain : ∀ v q, msg ≠ .secured v q) :
    effSpdmMsg r msg s = okData r (spdmBodyOf (spdmRun 4 msg s)) (spdmRun 4 msg s) := by
  rw [effSpdmMsg, gcp_taken _ ht]
  cases msg with
  | secured v q => exact absurd rfl (hplain v q)
  | _ => rfl

theorem effSpdmMsg_blocked {good : Bool} (hb : s.heart.deriveBlocked = true) (hk : keyCmd q = true) :
    effSpdmMsg r (.secured good q) s = fail r stNotPermitted s := by
  rw [effSpdmMsg, gcp_taken _ ht]
  exact if_pos ⟨hb, hk⟩

variable (hk : s.heart.deriveBlocked = false ∨ keyCmd q = false)
include hk

theorem effSpdmMsg_unverified {good : Bool} (hbad : good = false ∨ s.heart.sessions = 0) :
    effSpdmMsg r (.secured good q) s = authFail r s := by
  have hfree : ¬ (s.heart.deriveBlocked = true ∧ keyCmd q = true) := by
    rw [not_and_or, Bool.not_eq_true, Bool.not_eq_true]
    exact hk
  rw [effSpdmMsg, gcp_taken _ ht]
  simp only [if_neg hfree, Bool.not_eq_true', if_pos hbad]

theorem effSpdmMsg_runs (hs : s.heart.sessions ≠ 0) (hop : opcodeOf q ≠ 0x0900) :
    effSpdmMsg r (.secured true q) s =
      runPlain { q with
        via := r.via, secured := true, outer := r.words, srcEid := r.srcEid, mseq := r.mseq, replyEid := r.replyEid } s := by
  have hfree : ¬ (s.heart.deriveBlocked = true ∧ keyCmd q = true) := by
    rw [not_and_or, Bool.not_eq_true, Bool.not_eq_true]
    exact hk
  rw [effSpdmMsg, gcp_taken _ ht]
  simp only [if_neg hfree, Bool.not_true, Bool.false_eq_true, hs, or_self, if_false]
  exact if_neg hop

end

/-! ### IDE keys (R389) -/

section
variable {h : Nat} {s : State} (hs : s.heart.sessions ≠ 0) (hb : s.heart.deriveBlocked = false) (hup : (hport s h).st = .up)
  {st ks : Nat} (hst : st < 5) (hks : ks < 2)
include hs hb hup hst hks

theorem effIdeKm_keyProg (key : BitVec 256) :
    effIdeKm h (.keyProg st ks key) s =
      spdmAnswer h 12 true [] (setIde h st (if ks = 0 then { ideStream s h st with k0 := some key }
        else { ideStream s h st with k1 := some key }) s) := by
  simp only [effIdeKm, hs, hb, hup, Nat.not_le.mpr hst, Nat.not_le.mpr hks, Bool.false_eq_true, ne_eq, not_true_eq_false,
    or_self, if_false]

theorem effIdeKm_kSetGo (hkey : ((ideStream s h st).key ks).isSome = true) :
    effIdeKm h (.kSetGo st ks) s =
      spdmAnswer h 12 true [] (setIde h st { ideStream s h st with st := 1, cur := ks == 1 } s) := by
  simp only [effIdeKm, hs, hb, hup, Nat.not_le.mpr hst, Nat.not_le.mpr hks, Bool.false_eq_true, ne_eq, not_true_eq_false,
    or_self, if_false, hkey, if_true]

theorem effIdeKm_kSetStop (hactive : (ideStream s h st).st = 1) (hcur : (ideStream s h st).cur = (ks == 1)) :
    effIdeKm h (.kSetStop st ks) s =
      spdmAnswer h 12 true [] (setIde h st { ideStream s h st with st := 0, cur := false } s) := by
  simp only [effIdeKm, hs, hb, hup, Nat.not_le.mpr hst, Nat.not_le.mpr hks, Bool.false_eq_true, ne_eq, not_true_eq_false,
    or_self, if_false, hactive, hcur, and_self, if_true]

end

/-- Settles O13: each clause is the branch of its command that its hypotheses pick; the answers are `spdmRun_answers`. -/
theorem debugAndSessions : Obligations.DebugAndSessions := by
  unfold Obligations.DebugAndSessions
  refine ⟨?unlockBlocked, ?unlock, ?unlockThird, ?doe, ?doeBad, ?plain, ?keyBlocked, ?unverified, ?runs, ?prog, ?go, ?stop,
    ?ideFail⟩
  case unlockBlocked =>
    rintro token s _ hb rfl
    exact clocked_runs fun _ => if_pos hb
  case unlock =>
    rintro token s _ hb hf rfl
    exact clocked_runs fun _ => debugUnlock_early hb hf
  case unlockThird =>
    rintro token s _ hb hf rfl
    exact clocked_runs fun _ => debugUnlock_third hb hf
  case doe =>
    rintro h k good part u msg s _ hup hrow hsec rfl
    have hrow' : (k, good, part, u) = spdmOutcome s msg := hrow.trans (by cases msg <;> rfl)
    exact clocked_runs fun _ => (if_pos hup).trans (spdmRun_answers hrow' hsec)
  case doeBad =>
    rintro h v q s _ hup hbad rfl
    exact clocked_runs fun _ => (if_pos hup).trans (spdmRun_refuses hbad)
  case plain =>
    rintro k good part u r msg s _ ht hrow hplain rfl
    have hrow' : (k, good, part, u) = spdmOutcome s msg := hrow.trans (by cases msg <;> rfl)
    have answers : spdmRun 4 msg s = spdmAnswer 4 k good part u :=
      spdmRun_answers hrow' fun v q hm => absurd hm (hplain v q)
    refine clocked_runs fun _ => (effSpdmMsg_plain ht hplain).trans ?_
    rw [answers]
    rfl
  case keyBlocked =>
    rintro r q good s _ ht hb hk rfl
    exact clocked_runs fun _ => effSpdmMsg_blocked ht hb hk
  case unverified =>
    rintro r q good s _ ht hk hbad rfl
    exact clocked_runs fun _ => effSpdmMsg_unverified ht hk hbad
  case runs =>
    rintro r q s _ ht hk hs hop rfl
    exact clocked_runs fun _ => effSpdmMsg_runs ht hk hs hop
  case prog =>
    rintro h st ks key s _ hs hb hup hst hks rfl
    exact clocked_runs fun _ => effIdeKm_keyProg hs hb hup hst hks key
  case go =>
    rintro h st ks s _ hs hb hup hst hks hkey rfl
    exact clocked_runs fun _ => effIdeKm_kSetGo hs hb hup hst hks hkey
  case stop =>
    rintro h st ks s _ hs hb hup hst hks hactive hcur rfl
    exact clocked_runs fun _ => effIdeKm_kSetStop hs hb hup hst hks hactive hcur
  case ideFail =>
    rintro h st s _ hactive rfl
    exact clocked_runs fun _ => if_neg (not_not.mpr hactive)

end Sys2Proof.Proofs
end

section
/-! PROOFS. Fabric time and power domains (O14, O15: R412, R426 to R430, R433, R456, R457), and the readings at which O17 fails
(R395, R464). -/

namespace Sys2Proof.Proofs
open Sys2Proof.Machine Sys2Proof.Laws

/-! ### Fabric time (R426 to R428) -/

theorem effTimeSet_root {r : GcpReq} {s : State} (ht : taken .none true r s = true) (hroot : isRoot s = true) :
    effTimeSet r s = ok r [] (setTime (u64 r.words 5) 0 s) := by
  rw [effTimeSet, gcp_taken _ ht]
  simp only [hroot, Bool.not_true, Bool.false_eq_true, if_false]

theorem effTimeSet_follower {r : GcpReq} {s : State} (ht : taken .none true r s = true) (hroot : isRoot s = false) :
    effTimeSet r s = fail r stNotPermitted s := by
  rw [effTimeSet, gcp_taken _ ht]
  simp only [hroot, Bool.not_false, if_true]

section
variable {s : State} (hroot : isRoot s = false) (hport : followPort s = none) (hrun : timeHolds s = false)
include hroot hport hrun

theorem effTimeFollowTimeout_locked (hst : s.time.st = .locked) :
    effTimeFollowTimeout s =
      raise 306 0x20 (inc (timCtr 2) { s with
        time := { s.time with adj := s.time.est, st := .holdover, follow := none, run := 0 } }) := by
  simp only [effTimeFollowTimeout, hroot, hport, hrun, hst, Option.isSome_none, Bool.false_eq_true, ne_eq, reduceCtorEq,
    not_false_eq_true, not_true_eq_false, and_false, or_self, if_false, if_true]

theorem effTimeFollowTimeout_locking (hst : s.time.st = .locking) :
    effTimeFollowTimeout s =
      inc (timCtr 2) { s with time := { s.time with adj := s.time.est, st := .holdover, follow := none, run := 0 } } := by
  simp only [effTimeFollowTimeout, hroot, hport, hrun, hst, Option.isSome_none, Bool.false_eq_true, ne_eq, reduceCtorEq,
    not_false_eq_true, not_true_eq_false, false_and, or_self, if_false]

end

theorem effTimeFollowTimeout_idle {s : State}
    (h : timeHolds s = true ∨ isRoot s = true ∨ followPort s ≠ none ∨ s.time.st = .holdover ∨ s.time.st = .unlocked) :
    effTimeFollowTimeout s = s := by
  refine if_pos ?_
  rcases h with hold | hroot | hport | hst | hst
  · exact .inr (.inr (.inl hold))
  · exact .inl hroot
  · exact .inr (.inl (Option.isSome_iff_ne_none.mpr hport))
  · exact .inr (.inr (.inr (by simp [hst])))
  · exact .inr (.inr (.inr (by simp [hst])))

theorem effPpsInEdge_idle {s : State} (h : timeHolds s = true ∨ isRoot s = false ∨ ppsIn s = false) : effPpsInEdge s = s := by
  refine if_pos ?_
  rcases h with hold | hroot | hin
  · exact .inr (.inr hold)
  · exact .inl (by rw [hroot, Bool.not_false])
  · exact .inr (.inl (by rw [hin, Bool.not_false]))

section
variable {s : State} (hroot : isRoot s = true) (hin : ppsIn s = true) (hrun : timeHolds s = false)
include hroot hin hrun

theorem effPpsInEdge_slews :
    effPpsInEdge s = { s with
      time := { slew (ppsError s * offUnit) 1000000000 (if s.time.st = .locked then ppm 10 else ppm 100) s.time with
        st := if |ppsError s| ≤ 2 then .locked else .locking
        ppsErr := wInt (ppsError s)
        ppsLast := some s.time.now } } := by
  simp only [effPpsInEdge, hroot, hin, hrun, Bool.not_true, Bool.false_eq_true, or_self, if_false]

theorem effPpsTimeout_enters (hst : s.time.st ≠ .holdover) :
    effPpsTimeout s = inc (timCtr 2) (inc (timCtr 3) { s with time := { s.time with st := .holdover } }) := by
  simp only [effPpsTimeout, hroot, hin, hrun, Bool.not_true, Bool.false_eq_true, or_self, if_false, if_neg hst]

end

/-- Settles O14: each clause is the branch of its command that its hypotheses pick. -/
theorem fabricTimeCommands : Obligations.FabricTimeCommands := by
  unfold Obligations.FabricTimeCommands
  refine ⟨?get, ?set, ?setFollower, ?locked, ?locking, ?pps, ?missed, ?followIdle, ?ppsIdle, ?out⟩
  case get =>
    rintro r s _ ht rfl
    exact clocked_runs fun _ => gcp_taken _ ht
  case set =>
    rintro r s _ ht hroot rfl
    exact clocked_runs fun _ => effTimeSet_root ht hroot
  case setFollower =>
    rintro r s _ ht hroot rfl
    exact clocked_runs fun _ => effTimeSet_follower ht hroot
  case locked =>
    rintro s _ hroot hport hrun hst rfl
    exact clocked_runs fun _ => effTimeFollowTimeout_locked hroot hport hrun hst
  case locking =>
    rintro s _ hroot hport hrun hst rfl
    exact clocked_runs fun _ => effTimeFollowTimeout_locking hroot hport hrun hst
  case pps =>
    rintro s _ hroot hin hrun rfl
    exact clocked_runs fun _ => effPpsInEdge_slews hroot hin hrun
  case missed =>
    rintro s _ hroot hin hrun hst rfl
    exact clocked_runs fun _ => effPpsTimeout_enters hroot hin hrun hst
  case followIdle =>
    rintro s _ hidle rfl
    exact clocked_runs fun _ => effTimeFollowTimeout_idle hidle
  case ppsIdle =>
    rintro s _ hidle rfl
    exact clocked_runs fun _ => effPpsInEdge_idle hidle
  case out =>
    rintro s _ hout rfl
    exact clocked_runs fun _ => if_pos hout

/-! ### PWR_SET (R412, R456, R457) -/

section
variable {r : GcpReq} {s : State} (ht : taken .none false r s = true)
include ht

theorem effPwrSet_unknown (hd : 96 ≤ fAt r.words 5 0 7) : effPwrSet r s = fail r stBadParam s := by
  rw [effPwrSet, gcp_taken _ ht]
  exact if_pos hd

variable (hd : fAt r.words 5 0 7 < 96)
include hd

theorem effPwrSet_moving (hm : (domain s (fAt r.words 5 0 7)).target.isSome = true) : effPwrSet r s = fail r stBusy s := by
  rw [effPwrSet, gcp_taken _ ht]
  simp only [Nat.not_le.mpr hd, hm, if_false, if_true]

variable (hm : (domain s (fAt r.words 5 0 7)).target = none)
include hm

theorem effPwrSet_there (hst : PState.ofCode (fAt r.words 5 8 2) = (domain s (fAt r.words 5 0 7)).st) :
    effPwrSet r s = ok r [] s := by
  rw [effPwrSet, gcp_taken _ ht]
  simp only [Nat.not_le.mpr hd, hm, hst, Option.isSome_none, Bool.false_eq_true, if_false, if_true]

variable (hst : PState.ofCode (fAt r.words 5 8 2) ≠ (domain s (fAt r.words 5 0 7)).st)
include hst

theorem effPwrSet_barred (hbar : breaksDeps s (fAt r.words 5 0 7) (PState.ofCode (fAt r.words 5 8 2)) = true ∨
      engineNeeded s (fAt r.words 5 0 7) (PState.ofCode (fAt r.words 5 8 2)) = true) :
    effPwrSet r s = fail r stNotPermitted s := by
  rw [effPwrSet, gcp_taken _ ht]
  simp only [Nat.not_le.mpr hd, hm, hst, Option.isSome_none, Bool.false_eq_true, if_false, if_pos hbar]

theorem effPwrSet_starts (hdeps : breaksDeps s (fAt r.words 5 0 7) (PState.ofCode (fAt r.words 5 8 2)) = false)
    (hengine : engineNeeded s (fAt r.words 5 0 7) (PState.ofCode (fAt r.words 5 8 2)) = false) :
    effPwrSet r s = hold r (startTransition (fAt r.words 5 0 7) (PState.ofCode (fAt r.words 5 8 2))
      (if fAt r.words 5 0 7 < 64 ∧ (domain s (fAt r.words 5 0 7)).st = .on ∧
        (port s (fAt r.words 5 0 7)).st ≠ .disabled ∧ (port s (fAt r.words 5 0 7)).st ≠ .fenced then
        disablePort (fAt r.words 5 0 7) s else s)) := by
  rw [effPwrSet, gcp_taken _ ht]
  simp only [Nat.not_le.mpr hd, hm, hst, hdeps, hengine, Option.isSome_none, Bool.false_eq_true, or_self, if_false]

end

/-! ### The end of a transition (R456) -/

section
variable {d : Nat} {t : PState} {s : State} (htarget : (domain s d).target = some t) (hheld : (domain s d).held = false)
include htarget hheld

/-- A transition that completes leaves its domain in the new state, restarted or switched off. -/
theorem effPowerTransitionDone_target {was : Domain → Bool} (hwas : ∀ x : Domain, ((x.wasOff || t == .off) && t != .on) = was x) :
    effPowerTransitionDone d s = endCmds (pwrCmd d) stOk 0 0 []
      (if t = .on then domainOn d (domain s d).wasOff (updDom d (fun x => { x with st := t, target := none, wasOff := was x }) s)
       else if t = .off then domainOff d (updDom d (fun x => { x with st := t, target := none, wasOff := was x }) s)
       else updDom d (fun x => { x with st := t, target := none, wasOff := was x }) s) := by
  simp only [effPowerTransitionDone, htarget, hheld, Bool.false_eq_true, if_false, hwas]

theorem effPowerTransitionTimeout_target :
    effPowerTransitionTimeout d s = endCmds (pwrCmd d) stTimedOut 0 0 [] (raise 348 1
      { (if (domain s d).st = .on then domainOn d false (updDom d (fun x => { x with target := none }) s)
         else updDom d (fun x => { x with target := none }) s) with
        pw.lastFail := pack [(0, 7, d), (8, 2, t.code)] }) := by
  simp only [effPowerTransitionTimeout, htarget, hheld, Bool.false_eq_true, if_false]

end

/-- Settles O15: each clause is the branch of PWR_SET, or the target of the transition, that its hypotheses pick. -/
theorem powerDomains : Obligations.PowerDomains := by
  unfold Obligations.PowerDomains
  refine ⟨?there, ?starts, ?unknown, ?barred, ?moving, ?on, ?off, ?between, ?stays, ?staysOff, ?get⟩
  case there =>
    rintro r s _ ht hd hm hst rfl
    exact clocked_runs fun _ => effPwrSet_there ht hd hm hst
  case starts =>
    rintro r s _ ht hd hm hst hdeps hengine rfl
    exact clocked_runs fun _ => effPwrSet_starts ht hd hm hst hdeps hengine
  case unknown =>
    rintro r s _ ht hd rfl
    exact clocked_runs fun _ => effPwrSet_unknown ht hd
  case barred =>
    rintro r s _ ht hd hm hst hbar rfl
    exact clocked_runs fun _ => effPwrSet_barred ht hd hm hst hbar
  case moving =>
    rintro r s _ ht hd hm rfl
    exact clocked_runs fun _ => effPwrSet_moving ht hd hm
  case on =>
    rintro d s _ htarget hheld rfl
    exact clocked_runs fun _ => effPowerTransitionDone_target (was := fun _ => false) htarget hheld fun _ => Bool.and_false _
  case off =>
    rintro d s _ htarget hheld rfl
    have was (x : Domain) : ((x.wasOff || PState.off == .off) && PState.off != .on) = true := by cases x.wasOff <;> rfl
    exact clocked_runs fun _ => effPowerTransitionDone_target (was := fun _ => true) htarget hheld was
  case between =>
    rintro d t' s _ htarget hheld ht' rfl
    have was (x : Domain) : ((x.wasOff || t' == .off) && t' != .on) = x.wasOff := by
      rcases ht' with rfl | rfl <;> cases x.wasOff <;> rfl
    refine clocked_runs fun _ => (effPowerTransitionDone_target (was := Domain.wasOff) htarget hheld was).trans ?_
    rcases ht' with rfl | rfl
    · rfl
    · rfl
  case stays =>
    rintro d t' s _ htarget hheld hst rfl
    refine clocked_runs fun _ => (effPowerTransitionTimeout_target htarget hheld).trans ?_
    rw [if_pos hst]
  case staysOff =>
    rintro d t' s _ htarget hheld hst rfl
    refine clocked_runs fun _ => (effPowerTransitionTimeout_target htarget hheld).trans ?_
    rw [if_neg hst]
  case get =>
    rintro r s _ ht rfl
    exact clocked_runs fun _ => gcp_taken _ ht

/-! ### A cold sensor beside the highest reading (R395, R464) -/

/-- One sensor at 30 degrees below zero, the others at 20: every reading is in range, and the highest is far below any limit. -/
def coldReadings : List (Option Int) := some (-30) :: List.replicate 15 (some 20)

theorem coldReadings_inRange : (List.range 16).any (fun i => sensorBad ((coldReadings[i]?).getD none)) = false := by decide

theorem hottest_coldReadings : hottest coldReadings = some (20, 1) := by decide

/-- The state that O17 says the sample leaves of reset. -/
def coldRecorded : State :=
  { State.reset with pw := { State.reset.pw with
    temps := (List.range 16).foldl (fun m i => Maps.put 0 m i (tempWord (Maps.get 0 m i) ((coldReadings[i]?).getD none)))
      State.reset.pw.temps
    tempMax := pack [(0, 9, (BitVec.ofInt 9 20).toNat), (9, 4, 1)] } }

theorem quiet_coldRecorded : quiet State.reset coldRecorded = true := by decide

theorem lastAlarm_coldRecorded : coldRecorded.heart.lastAlarm = 0 := rfl

/-- TEMP_EXTREME is alarm 4. -/
theorem lastAlarm_coldSample : (follows (effSensorSample coldReadings State.reset)).heart.lastAlarm = 4 := by decide

/-- Refutes O17: a sample whose highest reading is below the limits still raises TEMP_EXTREME when another is below -25 degrees. -/
theorem not_clocksAndSupplies : ¬ Obligations.ClocksAndSupplies := by
  unfold Obligations.ClocksAndSupplies
  rintro ⟨_, _, _, _, _, _, _, _, _, _, _, _, _, hsample, _⟩
  have left : exec (.sensorSample coldReadings) State.reset = .next coldRecorded :=
    (hsample coldReadings 20 1 State.reset coldRecorded coldReadings_inRange hottest_coldReadings (by decide) (by decide)
      rfl).2 quiet_coldRecorded
  have ran : follows (effSensorSample coldReadings State.reset) = coldRecorded := Host.Outcome.next.inj left
  have alarms := lastAlarm_coldSample
  rw [ran, lastAlarm_coldRecorded] at alarms
  exact absurd alarms (by decide)

end Sys2Proof.Proofs
end

section
/-! PROOFS. A firmware update, the restart and promotion (O19: R404, R410, R429, R430). -/

namespace Sys2Proof.Proofs
open Sys2Proof.Machine Sys2Proof.Laws

/-- A request that is taken finds the firmware running. -/
theorem taken_running {u : DataUse} {sec : Bool} {r : GcpReq} {s : State} (ht : taken u sec r s = true) :
    s.mgmt.fw = .running := by
  simp only [taken, Bool.and_eq_true, beq_iff_eq] at ht
  obtain ⟨⟨⟨⟨hrun, _⟩, _⟩, _⟩, _⟩ := ht
  exact hrun

/-! ### FW_BEGIN and FW_WRITE -/

section
variable {r : GcpReq} {s : State}

theorem effFwBegin_updating (ht : taken .none false r s = true) (hjob : s.mgmt.fwJob ≠ .none) :
    effFwBegin r s = fail r stBusy s := by
  rw [effFwBegin, gcp_taken _ ht]
  exact if_pos hjob

theorem effFwBegin_bad (ht : taken .none false r s = true) (hjob : s.mgmt.fwJob = .none)
    (hlen : (wAt r.words 5).toNat < 0x1200 ∨ 0x800000 < (wAt r.words 5).toNat) : effFwBegin r s = fail r stBadParam s := by
  rw [effFwBegin, gcp_taken _ ht]
  simp only [hjob, ne_eq, not_true_eq_false, if_false, if_pos hlen]

theorem effFwBegin_idle (ht : taken .none false r s = true) (hjob : s.mgmt.fwJob = .none)
    (hlow : 0x1200 ≤ (wAt r.words 5).toNat) (hhigh : (wAt r.words 5).toNat ≤ 0x800000) :
    effFwBegin r s = hold r { s with mgmt.fwJob := .erase r (wAt r.words 5).toNat } := by
  rw [effFwBegin, gcp_taken _ ht]
  simp only [hjob, ne_eq, not_true_eq_false, if_false, Nat.not_lt.mpr hlow, Nat.not_lt.mpr hhigh, or_self]

theorem effFwWrite_unopened (ht : taken .writes false r s = true) (hjob : ∀ n, s.mgmt.fwJob ≠ .opened n) :
    effFwWrite r s = fail r stNotPermitted s := by
  rw [effFwWrite, gcp_taken _ ht]
  cases h : s.mgmt.fwJob with
  | opened n => exact absurd h (hjob n)
  | _ => rfl

theorem effFwWrite_bad {n : Nat} (ht : taken .writes false r s = true) (hjob : s.mgmt.fwJob = .opened n)
    (hbad : (wAt r.words 5).toNat % 4 ≠ 0 ∨ n < (wAt r.words 5).toNat + (wAt r.words 2).toNat) :
    effFwWrite r s = fail r stBadParam s := by
  rw [effFwWrite, gcp_taken _ ht]
  simp only [hjob]
  exact if_pos hbad

theorem effFwWrite_within {n : Nat} (ht : taken .writes false r s = true) (hjob : s.mgmt.fwJob = .opened n)
    (hwhole : (wAt r.words 5).toNat % 4 = 0) (hlen : (wAt r.words 5).toNat + (wAt r.words 2).toNat ≤ n) :
    effFwWrite r s = ok r [] { s with
      nor := Maps.putList 0xFF s.nor (wAt r.words 5).toNat ((wBytes (dataOf r 6)).take (wAt r.words 2).toNat) } := by
  rw [effFwWrite, gcp_taken _ ht]
  simp only [hjob]
  exact if_neg (not_or.mpr ⟨not_not.mpr hwhole, Nat.not_lt.mpr hlen⟩)

/-! ### The ends of the firmware jobs -/

theorem effFwEraseDone_erasing {q : GcpReq} {n : Nat} (hjob : s.mgmt.fwJob = .erase q n) (good : Bool) :
    effFwEraseDone good s =
      endCmds (fun r => opcodeOf r == 0xA00) (if good then stOk else stTimedOut) 0 0 []
        (if good then { s with nor := eraseA s.nor, mgmt.fwJob := .opened n } else { s with mgmt.fwJob := .none }) := by
  simp only [effFwEraseDone, hjob]

theorem effFwVerifyDone_verifying {q : GcpReq} {n : Nat} (hjob : s.mgmt.fwJob = .verify q n) :
    effFwVerifyDone s =
      endCmds (fun r => opcodeOf r == 0xA02) (if verifySlot s false = 0 then stOk else stAuthFailed) (verifySlot s false) 0 []
        { s with mgmt.fwJob := .none } := by
  simp only [effFwVerifyDone, hjob]

theorem effFwPromoteDone_promoting {q : GcpReq} {n : Option Nat} (hjob : s.mgmt.fwJob = .promote q n) (good : Bool) :
    effFwPromoteDone good s =
      endCmds (fun r => opcodeOf r == 0xA04) (if good then stOk else stTimedOut) 0 0 []
        { s with nor := if good then promoteA s.nor else s.nor, mgmt.fwJob := (n.map FwJob.opened).getD .none } := by
  simp only [effFwPromoteDone, hjob]

/-! ### FW_RESTART, FW_PROMOTE and FW_RAISE_MIN_SVN -/

theorem effFwRestart_busy (ht : taken .none false r s = true)
    (hcmds : s.mgmt.cmds.any (fun c => groupOf c.req == 1 || groupOf c.req == 2 || groupOf c.req == 0xA) = true) :
    effFwRestart r s = fail r stNotPermitted s := by
  rw [effFwRestart, gcp_taken _ ht]
  exact if_pos hcmds

theorem effFwRestart_free (ht : taken .none false r s = true)
    (hcmds : s.mgmt.cmds.any (fun c => groupOf c.req == 1 || groupOf c.req == 2 || groupOf c.req == 0xA) = false) :
    effFwRestart r s = restartController (ok r [] s) := by
  rw [effFwRestart, gcp_taken _ ht]
  simp only [hcmds, Bool.false_eq_true, if_false]

theorem effFwPromote_slotB (ht : taken .none false r s = true) (hslot : s.heart.fwSlot = true) :
    effFwPromote r s = fail r stNotPermitted s := by
  rw [effFwPromote, gcp_taken _ ht]
  exact if_pos (.inr hslot)

/-- The length of an update that is open. -/
def FwJob.openedLength : FwJob → Option Nat
  | .opened n => some n
  | _ => none

theorem effFwPromote_slotA (ht : taken .none false r s = true) (hslot : s.heart.fwSlot = false) :
    effFwPromote r s = hold r { s with mgmt.fwJob := .promote r (FwJob.openedLength s.mgmt.fwJob) } := by
  rw [effFwPromote, gcp_taken _ ht]
  simp only [taken_running ht, hslot, ne_eq, not_true_eq_false, Bool.false_eq_true, or_self, if_false]
  cases s.mgmt.fwJob <;> rfl

theorem effFwRaiseMinSvn_lower (ht : taken .none true r s = true)
    (hlow : slotSvn s false < s.heart.fwSvn ∨ slotSvn s true < s.heart.fwSvn) :
    effFwRaiseMinSvn r s = fail r stNotPermitted s := by
  rw [effFwRaiseMinSvn, gcp_taken _ ht]
  exact if_pos (.inr hlow)

theorem effFwRaiseMinSvn_both (ht : taken .none true r s = true) (hA : s.heart.fwSvn ≤ slotSvn s false)
    (hB : s.heart.fwSvn ≤ slotSvn s true) :
    effFwRaiseMinSvn r s = ok r [] { s with heart := { s.heart with minSvn := s.heart.fwSvn } } := by
  rw [effFwRaiseMinSvn, gcp_taken _ ht]
  simp only [taken_running ht, ne_eq, not_true_eq_false, Int.not_lt.mpr hA, Int.not_lt.mpr hB, or_self, if_false]

end

/-- Settles O19: each clause is the branch of its command, or the end of its job, that its hypotheses pick. -/
theorem firmwareUpdate : Obligations.FirmwareUpdate := by
  unfold Obligations.FirmwareUpdate
  refine ⟨?begin, ?beginBad, ?beginBusy, ?erased, ?eraseFails, ?write, ?unopened, ?writeBad, ?verify, ?verified, ?restart,
    ?restartBusy, ?slotB, ?promoteFails, ?promote, ?promoted, ?lower, ?raise⟩
  case begin =>
    rintro r s _ ht hjob hlow hhigh rfl
    exact clocked_runs fun _ => effFwBegin_idle ht hjob hlow hhigh
  case beginBad =>
    rintro r s _ ht hjob hlen rfl
    exact clocked_runs fun _ => effFwBegin_bad ht hjob hlen
  case beginBusy =>
    rintro r s _ ht hjob rfl
    exact clocked_runs fun _ => effFwBegin_updating ht hjob
  case erased =>
    rintro q n s _ hjob rfl
    exact clocked_runs fun _ => effFwEraseDone_erasing hjob true
  case eraseFails =>
    rintro q n s _ hjob rfl
    exact clocked_runs fun _ => effFwEraseDone_erasing hjob false
  case write =>
    rintro r n s _ ht hjob hwhole hlen rfl
    exact clocked_runs fun _ => effFwWrite_within ht hjob hwhole hlen
  case unopened =>
    rintro r s _ ht hjob rfl
    exact clocked_runs fun _ => effFwWrite_unopened ht hjob
  case writeBad =>
    rintro r n s _ ht hjob hbad rfl
    exact clocked_runs fun _ => effFwWrite_bad ht hjob hbad
  case verify =>
    rintro r s _ ht rfl
    exact clocked_runs fun _ => gcp_taken _ ht
  case verified =>
    rintro q n s _ hjob rfl
    exact clocked_runs fun _ => effFwVerifyDone_verifying hjob
  case restart =>
    rintro r _ s _ ht hcmds rfl rfl
    exact clocked_runs fun _ => effFwRestart_free ht hcmds
  case restartBusy =>
    rintro r s _ ht hcmds rfl
    exact clocked_runs fun _ => effFwRestart_busy ht hcmds
  case slotB =>
    rintro r s _ ht hslot rfl
    exact clocked_runs fun _ => effFwPromote_slotB ht hslot
  case promoteFails =>
    rintro q n s _ hjob rfl
    exact clocked_runs fun _ => effFwPromoteDone_promoting hjob false
  case promote =>
    rintro r s _ ht hslot rfl
    refine clocked_runs fun _ => (effFwPromote_slotA ht hslot).trans ?_
    cases s.mgmt.fwJob <;> rfl
  case promoted =>
    rintro q n s _ hjob rfl
    exact clocked_runs fun _ => effFwPromoteDone_promoting hjob true
  case lower =>
    rintro r s _ ht hlow rfl
    exact clocked_runs fun _ => effFwRaiseMinSvn_lower ht hlow
  case raise =>
    rintro r s _ ht hA hB rfl
    exact clocked_runs fun _ => effFwRaiseMinSvn_both ht hA hB

end Sys2Proof.Proofs
end

section
/-! PROOFS. The request and reply rings of the host ports and the HM port (O22: R404, R408, R414, R434). -/

namespace Sys2Proof.Proofs
open Sys2Proof.Machine Sys2Proof.Laws

/-! ### A ring that asks for nothing -/

theorem askRing_unserved {i : Nat} {s : State} (h : ringServes s i = false) : askRing i s = s := by
  simp only [askRing, h, Bool.not_false, true_or, if_true]

theorem askRing_reqOff {i : Nat} {s : State} (h : (ring s i).reqEn = false) : askRing i s = s :=
  askRing_unserved (by simp [ringServes, h])

theorem askRing_rplOff {i : Nat} {s : State} (h : (ring s i).rplEn = false) : askRing i s = s :=
  askRing_unserved (by simp [ringServes, h])

@[simp] theorem ring_ringErr (k i : Nat) (s : State) : ring (ringErr k s) i = ring s i := by
  rw [ringErr, ring_raise, ring_inc]

theorem ring_ringErrs (k i : Nat) (l : List Nat) (s : State) : ring (l.foldl (fun u _ => ringErr k u) s) i = ring s i := by
  induction l generalizing s with
  | nil => rfl
  | cons _ l ih => rw [List.foldl_cons, ih, ring_ringErr]

@[simp] theorem ring_emitOut (o : Out) (i : Nat) (s : State) : ring (emitOut o s) i = ring s i := by
  cases o with
  | hostWrite h fn a bs ro ido =>
    have sent := WaitsOnly.touchAtoms (b := boleOf h) a bs.length (emit (.hostWrite h fn a bs ro ido) s)
    exact congrArg (Maps.get {} · i) sent.rest.mgmt_rings
  | _ => rfl

theorem emitHost_hm (o : Out) (s : State) : emitHost 4 o s = emitOut o s := rfl

/-- HM's ring after a reply that raises no interrupt. -/
theorem ring_ringWrite_hm {s : State} (hi : (ring s 4).intrEn = false) (w : List Word) :
    ring (ringWrite 4 w s) 4 = { ring s 4 with written := (ring s 4).written + 1 } := by
  simp only [ringWrite, hi, Bool.false_eq_true, if_false, ring_updRing_same, emitHost_hm, ring_emitOut]

/-! ### Writes of a ring's registers -/

theorem ringReg_down {i : Nat} {e : State} (h : ringUp e i = false) (off : Nat) (v : Word) (who : Requester) :
    ringReg i off v who e = e := by
  simp only [ringReg, h, Bool.not_false, if_true]

/-- A register write of a ring that is up runs `f` where it reaches the controller. -/
theorem ringReg_up {i off : Nat} {v : Word} {who : Requester} {e : State} {f : State → State} (h : ringUp e i = true)
    (hf : wrGcr i off v = f) :
    ringReg i off v who e =
      if i < 4 then crossD2d (boleOf i) (identHost i who.id who.tc) (.ring i off v) f e else f e := by
  simp only [ringReg, h, Bool.not_true, Bool.false_eq_true, if_false, hf]

theorem gcrReqCfg_enable {v : Word} (hv : bitW v 8 = true) (i : Nat) (u : State) :
    gcrReqCfg i v u = askRing i (updRing i (fun g =>
      if (ring u i).reqEn then { g with reqLog := fld v 0 4, reqEn := true }
      else { g with reqLog := fld v 0 4, reqEn := true, reqHead := 0, reqTail := 0 }) u) := by
  cases h : (ring u i).reqEn with
  | true => simp [gcrReqCfg, hv, h]
  | false => simp [gcrReqCfg, hv, h]

theorem gcrReqCfg_disable {v : Word} (hv : bitW v 8 = false) (i : Nat) (u : State) :
    gcrReqCfg i v u = updRing i (fun g => { g with reqLog := fld v 0 4, reqEn := false, reading := false }) u := by
  simp only [gcrReqCfg, hv, Bool.false_and, Bool.false_eq_true, if_false, Bool.and_false]
  exact askRing_reqOff (by rw [ring_updRing_same])

theorem gcrRplCfg_enable {v : Word} (hv : bitW v 17 = true) (i : Nat) (u : State) :
    gcrRplCfg i v u = askRing i (updRing i (fun g =>
      { g with rplLog := fld v 0 4, vec := fld v 5 11, intrEn := bitW v 16, rplEn := true }) u) := by
  simp only [gcrRplCfg, hv, if_true, Bool.and_true, List.range_zero, List.foldl_nil]

theorem gcrRplCfg_disable {v : Word} (hv : bitW v 17 = false) (i : Nat) (u : State) :
    gcrRplCfg i v u = (List.range (ring u i).waiting.length).foldl (fun u _ => ringErr 9 u) (updRing i (fun g =>
      { g with rplLog := fld v 0 4, vec := fld v 5 11, intrEn := bitW v 16, rplEn := false, waiting := [], reading := false })
      u) := by
  simp only [gcrRplCfg, hv, Bool.false_eq_true, if_false, Bool.and_false]
  exact askRing_rplOff (by rw [ring_ringErrs, ring_updRing_same])

/-- The read that a new tail of HM's ring asks for. -/
theorem gcrReqTail_hm {v : Word} {e : State} (hserves : ringServes (updRing 4 (fun g => { g with reqTail := v }) e) 4 = true)
    (hreading : (ring e 4).reading = false) (hv : (ring e 4).reqHead ≠ v) :
    gcrReqTail 4 v e = updRing 4 (fun g => { g with reading := true })
      (emit (.hostRead 4 0 ((ring e 4).reqBaseHi.toNat * 2 ^ 32 + (ring e 4).reqBaseLo.toNat +
          64 * ((ring e 4).reqHead.toNat % 2 ^ ringLog (ring e 4).reqLog)) 64 (devCtl e 4 0).2)
        (updRing 4 (fun g => { g with reqTail := v }) e)) := by
  have room : ringRoom (updRing 4 (fun g => { g with reqTail := v }) e) 4 = true := rfl
  simp only [gcrReqTail, askRing, hserves, ring_updRing_same, hreading, hv, room, Bool.not_true, Bool.false_eq_true,
    or_self, if_false]
  rfl

theorem drainReplies_one {i : Nat} {w : List Word} {u : State} (hwait : (ring u i).waiting = [w])
    (hfull : ringFull (ring u i) = false) :
    drainReplies 1 i u = ringWrite i w (updRing i (fun g => { g with waiting := [] }) u) := by
  simp only [drainReplies, hwait, hfull, Bool.false_eq_true, if_false]

/-- The reply that waits goes into the slot that a new head of HM's reply ring frees. -/
theorem gcrRplHead_hm {v : Word} {w : List Word} {e : State} (hwait : (ring e 4).waiting = [w]) (hreq : (ring e 4).reqEn = false)
    (hintr : (ring e 4).intrEn = false) (hfull : ringFull { ring e 4 with rplHead := v } = false) :
    gcrRplHead 4 v e =
      ringWrite 4 w (updRing 4 (fun g => { g with waiting := [] }) (updRing 4 (fun g => { g with rplHead := v }) e)) := by
  have new : ring (updRing 4 (fun g => { g with rplHead := v }) e) 4 = { ring e 4 with rplHead := v } := ring_updRing_same ..
  have waits : (ring (updRing 4 (fun g => { g with rplHead := v }) e) 4).waiting = [w] := by rw [new, hwait]
  rw [gcrRplHead, waits, List.length_singleton, drainReplies_one waits (by rw [new, hfull])]
  refine askRing_reqOff ?_
  rw [ring_ringWrite_hm (by simp only [ring_updRing_same, hintr])]
  simp only [ring_updRing_same, hreq]

/-! ### Requests that have been read, and PENDING (R404, R408) -/

section
variable {i : Nat} {s : State} (hup : ringUp s i = true) (hread : (ring s i).reading = true)
  (hfw : s.mgmt.fw = .running ∨ s.mgmt.fw = .recovery)
include hup hread hfw

/-- The ring still reads, so what has been read counts. -/
theorem ring_reads : ¬ ((!ringUp s i) = true ∨ (!(ring s i).reading) = true ∨ (s.mgmt.fw ≠ .running ∧ s.mgmt.fw ≠ .recovery)) := by
  rw [hup, hread, ← not_or]
  simp [hfw]

theorem effGcpRequestReadDone_whole {ws : List Word} {data : Option (List Word)} (hdata : bAt ws 1 0 = false ∨ data.isSome = true) :
    effGcpRequestReadDone i (some ws) data s =
      askRing i (runGcp { via := ringVia i, words := padW 16 ws, data := data.getD [] }
        (updRing i (fun g => { g with reading := false, reqHead := g.reqHead + 1 }) s)) := by
  have hgot : (data.isNone && bAt ws 1 0) = false := by
    rcases hdata with h | h
    · rw [h, Bool.and_false]
    · rw [← Option.not_isSome, h, Bool.not_true, Bool.false_and]
  rw [effGcpRequestReadDone, if_neg (ring_reads hup hread hfw)]
  simp only [hgot, Bool.false_eq_true, if_false]

theorem effGcpRequestReadDone_dataless {ws : List Word} (hind : bAt ws 1 0 = true) :
    effGcpRequestReadDone i (some ws) none s =
      askRing i (runGcp { via := ringVia i, words := padW 16 ws, dataErr := true }
        (if i < 4 then dmaErr i (updRing i (fun g => { g with reading := false, reqHead := g.reqHead + 1 }) s)
         else updRing i (fun g => { g with reading := false, reqHead := g.reqHead + 1 }) s)) := by
  rw [effGcpRequestReadDone, if_neg (ring_reads hup hread hfw)]
  simp only [hind, Option.isNone_none, Bool.and_self, if_true, Option.getD_none]

theorem effGcpRequestReadDone_failed :
    effGcpRequestReadDone i none none s =
      askRing i (ringErr 9 (if i < 4 then dmaErr i (updRing i (fun g => { g with reading := false, reqHead := g.reqHead + 1 }) s)
        else updRing i (fun g => { g with reading := false, reqHead := g.reqHead + 1 }) s)) :=
  if_neg (ring_reads hup hread hfw)

end

theorem effGcpRequestReadDone_idle {i : Nat} {s : State}
    (h : ringUp s i = false ∨ (ring s i).reading = false ∨ (s.mgmt.fw ≠ .running ∧ s.mgmt.fw ≠ .recovery))
    (req data : Option (List Word)) :
    effGcpRequestReadDone i req data s = updRing i (fun g => { g with reading := false }) s :=
  if_pos (h.imp (fun hu => by rw [hu]; rfl) (Or.imp_left fun hr => by rw [hr]; rfl))

theorem pendingReply_plain {r : GcpReq} (h : r.secured = false) (s : State) :
    pendingReply r s = sendReply r (replyWords (wAt r.words 0) stPending 0 0 0 []) [] s := by
  simp only [pendingReply, wrapReply, h, Bool.not_false, if_true]

theorem pendingReply_secured {r : GcpReq} (h : r.secured = true) (s : State) :
    pendingReply r s = sendReply r (outerReply r (replyWords (wAt r.words 0) stPending 0 0 0 [])).1
      (outerReply r (replyWords (wAt r.words 0) stPending 0 0 0 [])).2 s := by
  cases hr : ringNo r.via with
  | none => simp only [pendingReply, wrapReply, h, hr, Bool.not_true, Bool.false_eq_true, if_false, List.append_nil]
  | some i => simp only [pendingReply, wrapReply, h, hr, Bool.not_true, Bool.false_eq_true, if_false, if_true]

theorem effCommandPendingReply_held {id : Nat} {c : Cmd} {s : State}
    (h : s.mgmt.cmds.find? (fun c => c.id == id && !c.pended) = some c) :
    effCommandPendingReply id s = pendingReply c.req
      { s with mgmt.cmds := s.mgmt.cmds.map (fun x => if x.id = id then { x with pended := true } else x) } := by
  simp only [effCommandPendingReply, h]

theorem effCommandPendingReply_waiting {id : Nat} {c : Waiting} {s : State}
    (hnone : s.mgmt.cmds.find? (fun c => c.id == id && !c.pended) = none)
    (h : s.mgmt.waitq.find? (fun c => c.id == id && !c.pended) = some c) :
    effCommandPendingReply id s = pendingReply c.req
      { s with mgmt.waitq := s.mgmt.waitq.map (fun x => if x.id = id then { x with pended := true } else x) } := by
  simp only [effCommandPendingReply, hnone, h]

theorem effCommandPendingReply_none {id : Nat} {s : State}
    (hnone : s.mgmt.cmds.find? (fun c => c.id == id && !c.pended) = none)
    (h : s.mgmt.waitq.find? (fun c => c.id == id && !c.pended) = none) : effCommandPendingReply id s = s := by
  simp only [effCommandPendingReply, hnone, h]

/-- Settles O22: a register write runs behind its requester's earlier writes, and each clause names what it does there. -/
theorem requestRings : Obligations.RequestRings := by
  unfold Obligations.RequestRings
  refine ⟨?tailDown, ?reqDown, ?rplDown, ?headDown, ?tail, ?tailHm, ?reqOn, ?reqOff, ?rplOff, ?rplOn, ?head, ?headHm, ?whole,
    ?dataless, ?failed, ?idle, ?held, ?heldSecured, ?waiting, ?waitingSecured, ?none⟩
  case tailDown =>
    rintro i v who e s _ he hdown rfl
    exact behind_runs he (ringReg_down hdown ..)
  case reqDown =>
    rintro i v who e s _ he hdown rfl
    exact behind_runs he (ringReg_down hdown ..)
  case rplDown =>
    rintro i v who e s _ he hdown rfl
    exact behind_runs he (ringReg_down hdown ..)
  case headDown =>
    rintro i v who e s _ he hdown rfl
    exact behind_runs he (ringReg_down hdown ..)
  case tail =>
    rintro i v who e s _ he hup rfl
    exact behind_runs he (ringReg_up hup rfl)
  case tailHm =>
    rintro v who e s _ he hup hserves hreading hv _ rfl
    exact behind_runs he ((ringReg_up hup rfl).trans (gcrReqTail_hm hserves hreading hv))
  case reqOn =>
    rintro i v who e s _ he hup hv rfl
    exact behind_runs he (ringReg_up hup (funext (gcrReqCfg_enable hv i)))
  case reqOff =>
    rintro i v who e s _ he hup hv rfl
    exact behind_runs he (ringReg_up hup (funext (gcrReqCfg_disable hv i)))
  case rplOff =>
    rintro i v who e s _ he hup hv rfl
    exact behind_runs he (ringReg_up hup (funext (gcrRplCfg_disable hv i)))
  case rplOn =>
    rintro i v who e s _ he hup hv rfl
    exact behind_runs he (ringReg_up hup (funext (gcrRplCfg_enable hv i)))
  case head =>
    rintro i v who e s _ he hup rfl
    exact behind_runs he (ringReg_up hup rfl)
  case headHm =>
    rintro v w who e s _ he hup hwait hreq hintr hfull rfl
    exact behind_runs he ((ringReg_up hup rfl).trans (gcrRplHead_hm hwait hreq hintr hfull))
  case whole =>
    rintro i ws data s _ hup hread hfw hdata rfl
    exact clocked_runs fun _ => effGcpRequestReadDone_whole hup hread hfw hdata
  case dataless =>
    rintro i ws s _ hup hread hfw hind rfl
    exact clocked_runs fun _ => effGcpRequestReadDone_dataless hup hread hfw hind
  case failed =>
    rintro i s _ hup hread hfw rfl
    exact clocked_runs fun _ => effGcpRequestReadDone_failed hup hread hfw
  case idle =>
    rintro i ws data s _ h rfl
    exact clocked_runs fun _ => effGcpRequestReadDone_idle h ws data
  case held =>
    rintro id c s _ h hsec rfl
    exact clocked_runs fun _ => (effCommandPendingReply_held h).trans (pendingReply_plain hsec _)
  case heldSecured =>
    rintro id c s _ h hsec rfl
    exact clocked_runs fun _ => (effCommandPendingReply_held h).trans (pendingReply_secured hsec _)
  case waiting =>
    rintro id c s _ hnone h hsec rfl
    exact clocked_runs fun _ => (effCommandPendingReply_waiting hnone h).trans (pendingReply_plain hsec _)
  case waitingSecured =>
    rintro id c s _ hnone h hsec rfl
    exact clocked_runs fun _ => (effCommandPendingReply_waiting hnone h).trans (pendingReply_secured hsec _)
  case none =>
    rintro id s _ hnone h rfl
    exact clocked_runs fun _ => effCommandPendingReply_none hnone h

end Sys2Proof.Proofs
end

section
/-! PROOFS. The I3C target, in-band requests and the JTAG instruction register (O23: R415 to R417, R434, R489). -/

namespace Sys2Proof.Proofs
open Sys2Proof.Machine Sys2Proof.Laws

/-! ### The I3C target (R415) -/

section
variable {bytes : List Byte} {s : State}

theorem effI3cPrivateWrite_full (hfull : 4 ≤ s.mgmt.i3cReqs.length) : effI3cPrivateWrite bytes s = emit .i3cNack s :=
  if_pos hfull

theorem effI3cPrivateWrite_short (hroom : s.mgmt.i3cReqs.length < 4) (hlen : bytes.length ≠ 64) :
    effI3cPrivateWrite bytes s = ringErr 8 s := by
  rw [effI3cPrivateWrite, if_neg (Nat.not_le.mpr hroom), if_pos hlen]

theorem effI3cPrivateWrite_taken (hroom : s.mgmt.i3cReqs.length < 4) (hlen : bytes.length = 64) :
    effI3cPrivateWrite bytes s = takeI3c { s with mgmt.i3cReqs := s.mgmt.i3cReqs ++ [bWords 16 bytes] } := by
  rw [effI3cPrivateWrite, if_neg (Nat.not_le.mpr hroom), if_neg (not_not.mpr hlen)]

/-- While the controller takes none, the requests of the I3C target wait. -/
theorem takeI3c_unserved {s : State} (h : i3cServes s = false) : takeI3c s = s := by
  cases hr : s.mgmt.i3cReqs with
  | nil => simp only [takeI3c, hr]
  | cons ws tl => simp only [takeI3c, hr, h, Bool.false_eq_true, if_false]

/-- A request that finds none before it runs at once. -/
theorem takeI3c_only {s : State} (h : i3cServes s = true) (hnone : s.mgmt.i3cReqs = []) (ws : List Word) :
    takeI3c { s with mgmt.i3cReqs := [ws] } = runGcp { via := .i3c, words := ws } s := by
  have served : i3cServes { s with mgmt.i3cReqs := [ws] } = true := h
  have same : { s with mgmt.i3cReqs := [] } = s := by rw [← hnone]
  simp only [takeI3c, served, if_true, same]

theorem effI3cPrivateRead_none (h : s.mgmt.i3cRpls = []) : effI3cPrivateRead s = emit .i3cNack s := by
  simp only [effI3cPrivateRead, h]

theorem effI3cPrivateRead_last {ws : List Word} (h : s.mgmt.i3cRpls = [ws]) :
    effI3cPrivateRead s = emit (.readData 5 0 (some (wBytes ws))) { s with mgmt.i3cRpls := [] } := by
  simp only [effI3cPrivateRead, h, if_true]

theorem effI3cPrivateRead_more {ws x : List Word} {tl : List (List Word)} (h : s.mgmt.i3cRpls = ws :: x :: tl) :
    effI3cPrivateRead s =
      emit (.ibi 0xA5) (emit (.readData 5 0 (some (wBytes ws))) { s with mgmt.i3cRpls := x :: tl }) := by
  simp only [effI3cPrivateRead, h, reduceCtorEq, if_false]

theorem effEntdaa_new (addr : BitVec 7) (h : s.mgmt.i3cAddr = none) :
    effEntdaa addr s = emit (.i3cId i3cPid) { s with mgmt.i3cAddr := some addr } := by
  simp only [effEntdaa, h, Option.isNone_none, if_true]
  rfl

theorem effEntdaa_again (addr : BitVec 7) {old : BitVec 7} (h : s.mgmt.i3cAddr = some old) :
    effEntdaa addr s = { s with mgmt.i3cAddr := some addr } := by
  simp only [effEntdaa, h, Option.isNone_some, Bool.false_eq_true, if_false]

end

/-! ### Packets at port M (R416, R434) -/

/-- The request that an in-band packet carries. -/
def inbandReq (p : Packet) : GcpReq :=
  { via := .inband
    words := bWords 16 (p.payload.take 64)
    data := bWords ((p.payload.length - 64 + 3) / 4) (p.payload.drop 64)
    srcEid := p.src
    mseq := BitVec.ofNat 16 (Packet.extF p 6 0 0 16)
    replyEid := BitVec.ofNat 18 (Packet.extF p 6 1 0 18) }

section
variable {p : Packet} {s : State}

theorem effGcpReq_unserved (hf : s.mgmt.fw ≠ .running) : effGcpReq p s = freeInternal xM p s := if_pos hf

variable (hf : s.mgmt.fw = .running)
include hf

theorem freeInternal_running : ¬ (freeInternal xM p s).mgmt.fw ≠ .running := not_not.mpr hf

theorem effGcpReq_length (hl : lenOk p = false) : effGcpReq p s = mgtBad 6 (freeInternal xM p s) := by
  rw [effGcpReq, if_neg (freeInternal_running hf), hl]
  rfl

variable (hl : lenOk p = true)
include hl

theorem effGcpReq_crc (he : e2eGood p = false) : effGcpReq p s = mgtBad 7 (freeInternal xM p s) := by
  rw [effGcpReq, if_neg (freeInternal_running hf), hl, he]
  rfl

variable (he : e2eGood p = true)
include he

theorem effGcpReq_noGcp (hbad : gcpKind p = false ∨ gcpPktOk p = false) :
    effGcpReq p s = mgtBad 6 (freeInternal xM p s) := by
  rw [effGcpReq, if_neg (freeInternal_running hf), hl, he]
  simp only [Bool.not_true, Bool.false_eq_true, if_false, Bool.not_eq_true', if_pos hbad]

variable (hk : gcpKind p = true) (ho : gcpPktOk p = true)
include hk ho

theorem effGcpReq_reply (hp : p.ptype = 0x51 ∨ p.ptype = 0x52) : effGcpReq p s = freeInternal xM p s := by
  rw [effGcpReq, if_neg (freeInternal_running hf), hl, he, hk, ho]
  simp only [Bool.not_true, Bool.false_eq_true, or_self, if_false, if_pos hp]

variable (hp : p.ptype = 0x50)
include hp

/-- A whole request, counted, meets the allow list. -/
theorem effGcpReq_request :
    effGcpReq p s =
      if (List.range 16).all (fun i => allowed s i == eidNone) then
        if openOp (opcodeOf (inbandReq p)) then runGcp (inbandReq p) (inc (mgcCtr 2) (freeInternal xM p s))
        else fail (inbandReq p) stNotPermitted (inc (mgcCtr 2) (freeInternal xM p s))
      else if p.src = eidNone ∨ (List.range 16).all (fun i => allowed s i != p.src) then
        raise 305 4 (inc (mgcCtr 3) (inc (mgcCtr 2) (freeInternal xM p s)))
      else inbandSeq (inbandReq p) (inc (mgcCtr 2) (freeInternal xM p s)) := by
  have kept (i : Nat) : allowed (inc (mgcCtr 2) (freeInternal xM p s)) i = allowed s i := by
    rw [allowed, inc_mgmt_allow]
    rfl
  have hreq : ¬ (p.ptype = 0x51 ∨ p.ptype = 0x52) := by
    rw [hp]
    decide
  rw [effGcpReq, if_neg (freeInternal_running hf), hl, he, hk, ho]
  simp only [Bool.not_true, Bool.false_eq_true, or_self, if_false, if_neg hreq, kept]
  rfl

theorem effGcpReq_open (hall : (List.range 16).all (fun i => allowed s i == eidNone) = true) :
    effGcpReq p s =
      if openOp (opcodeOf (inbandReq p)) then runGcp (inbandReq p) (inc (mgcCtr 2) (freeInternal xM p s))
      else fail (inbandReq p) stNotPermitted (inc (mgcCtr 2) (freeInternal xM p s)) := by
  rw [effGcpReq_request hf hl he hk ho hp, if_pos hall]

theorem effGcpReq_refused (hlist : (List.range 16).any (fun i => allowed s i != eidNone) = true)
    (hsrc : p.src = eidNone ∨ (List.range 16).all (fun i => allowed s i != p.src) = true) :
    effGcpReq p s = raise 305 4 (inc (mgcCtr 3) (inc (mgcCtr 2) (freeInternal xM p s))) := by
  have configured : ¬ (List.range 16).all (fun i => allowed s i == eidNone) = true := by
    rw [List.any_eq_not_all_not] at hlist
    simpa using hlist
  rw [effGcpReq_request hf hl he hk ho hp, if_neg configured, if_pos hsrc]

theorem effGcpReq_allowed (hlist : (List.range 16).any (fun i => allowed s i == p.src && allowed s i != eidNone) = true) :
    effGcpReq p s = inbandSeq (inbandReq p) (inc (mgcCtr 2) (freeInternal xM p s)) := by
  obtain ⟨i, hi, hentry⟩ := List.any_eq_true.mp hlist
  rw [Bool.and_eq_true, beq_iff_eq, bne_iff_ne] at hentry
  obtain ⟨hsrc, hnone⟩ := hentry
  have configured : ¬ (List.range 16).all (fun i => allowed s i == eidNone) = true := fun h =>
    hnone (beq_iff_eq.mp (List.all_eq_true.mp h i hi))
  have listed : ¬ (p.src = eidNone ∨ (List.range 16).all (fun i => allowed s i != p.src) = true) := by
    rintro (h | h)
    · exact hnone (hsrc.trans h)
    · exact bne_iff_ne.mp (List.all_eq_true.mp h i hi) hsrc
  rw [effGcpReq_request hf hl he hk ho hp, if_neg configured, if_neg listed]

end

/-! ### Message sequence numbers (R417) -/

section
variable {r : GcpReq} {s : State}

/-- The count of a request that has come leaves the accepted sequence numbers. -/
theorem counted_mseqs (p : Packet) (s : State) : (inc (mgcCtr 2) (freeInternal xM p s)).mgmt.mseqs = s.mgmt.mseqs :=
  inc_mgmt_mseqs ..

theorem inbandSeq_answered {ws data : List Word}
    (h : (s.mgmt.mseqs.filter (fun e => e.1 == r.srcEid)).find? (fun e => e.2.1 == r.mseq) = some (r.srcEid, r.mseq, some (ws, data))) :
    inbandSeq r s = sendMgt (if r.replyEid = eidNone then r.srcEid else r.replyEid) 0x51 r.mseq ws data (inc (mgcCtr 5) s) := by
  simp only [inbandSeq, h]

theorem inbandSeq_executing
    (h : (s.mgmt.mseqs.filter (fun e => e.1 == r.srcEid)).find? (fun e => e.2.1 == r.mseq) = some (r.srcEid, r.mseq, none)) :
    inbandSeq r s = inc (mgcCtr 5) s := by
  simp only [inbandSeq, h]

variable (hnew : (s.mgmt.mseqs.filter (fun e => e.1 == r.srcEid)).all (fun e => e.2.1 != r.mseq) = true)
include hnew

theorem mseqs_find_none : (s.mgmt.mseqs.filter (fun e => e.1 == r.srcEid)).find? (fun e => e.2.1 == r.mseq) = none := by
  rw [List.find?_eq_none]
  intro e he
  have h := List.all_eq_true.mp hnew e he
  rw [bne_iff_ne] at h
  rwa [beq_iff_eq]

theorem inbandSeq_behind {k : BitVec 16} {x : Option (List Word × List Word)}
    (hhead : (s.mgmt.mseqs.filter (fun e => e.1 == r.srcEid)).head? = some (r.srcEid, k, x)) (hk : 32768 ≤ (r.mseq - k).toNat) :
    inbandSeq r s = mgtBad 4 s := by
  simp only [inbandSeq, mseqs_find_none hnew, hhead, hk, or_true, if_true]

theorem inbandSeq_next
    (hhead : (s.mgmt.mseqs.filter (fun e => e.1 == r.srcEid)).head?.all
      (fun e => e.2.1 != r.mseq && decide ((r.mseq - e.2.1).toNat < 32768)) = true) :
    inbandSeq r s = runGcp r { s with
      mgmt.mseqs := (r.srcEid, r.mseq, none) :: (s.mgmt.mseqs.filter (fun e => e.1 == r.srcEid)).take 7 ++
        s.mgmt.mseqs.filter (fun e => e.1 != r.srcEid) } := by
  cases hh : (s.mgmt.mseqs.filter (fun e => e.1 == r.srcEid)).head? with
  | none =>
    simp only [inbandSeq, mseqs_find_none hnew, hh]
    rfl
  | some e =>
    rw [hh, Option.all_some, Bool.and_eq_true, bne_iff_ne, decide_eq_true_eq] at hhead
    obtain ⟨hne, hnear⟩ := hhead
    have hzero : (r.mseq - e.2.1).toNat ≠ 0 := fun h => hne (by bv_omega)
    simp only [inbandSeq, mseqs_find_none hnew, hh, hzero, Nat.not_le.mpr hnear, or_self, if_false]

end

/-- A reply EID of 18 bits is the EID that is never assigned when its bits are all ones. -/
theorem replyEid_eq_none (p : Packet) :
    BitVec.ofNat 18 (Packet.extF p 6 1 0 18) = eidNone ↔ Packet.extF p 6 1 0 18 = 2 ^ 18 - 1 := by
  have hlt : Packet.extF p 6 1 0 18 < 2 ^ 18 := Nat.mod_lt _ (Nat.two_pow_pos 18)
  rw [← BitVec.toNat_inj, BitVec.toNat_ofNat, Nat.mod_eq_of_lt hlt]
  rfl

/-! ### The instruction register (R489) -/

section
variable {ir : Nat} {s : State} (tdi : List Bool)

/-- An instruction that captures in the boundary register or in one of its own. -/
theorem tapCapture_free (h1 : ir ≠ 1) (h255 : ir ≠ 0xFF) (n : Nat) :
    tapCapture ir s n = (List.range n).map (Config.jtagCapture ir s.out.length) := by
  rw [tapCapture, if_neg h1, if_neg h255]

theorem effJtagInstruction_bypass (h : ir = 0xFF ∨ (5 ≤ ir ∧ s.heart.debugOpen = false)) :
    effJtagInstruction ir true tdi s = emit (.jtag 0xFF ((false :: tdi).take tdi.length))
      { s with pw.tap := { s.pw.tap with ir := 0xFF, bypass := tdi.getLastD false } } := by
  have hsel : (if ir < 5 ∨ s.heart.debugOpen = true then ir else 0xFF) = 0xFF := by
    rcases h with rfl | ⟨hir, hlocked⟩
    · exact ite_self _
    · rw [if_neg]
      simp [hlocked, hir]
  simp only [effJtagInstruction, hsel]
  rfl

theorem effJtagInstruction_boundary (h : ir = 0 ∨ ir = 2 ∨ ir = 3 ∨ ir = 4) :
    effJtagInstruction ir true tdi s =
      emit (.jtag ir (((List.range tdi.length).map (Config.jtagCapture ir s.out.length) ++ tdi).take tdi.length))
        { s with pw.tap := { s.pw.tap with ir := ir, boundary := tdi } } := by
  have hlow : ir < 5 := by omega
  have h1 : ir ≠ 1 := by omega
  have h255 : ir ≠ 0xFF := by omega
  simp only [effJtagInstruction, Bool.not_true, Bool.false_eq_true, if_false, hlow, true_or, if_true,
    tapCapture_free h1 h255, h1, h255, Nat.not_le.mpr hlow, or_self]

theorem effJtagInstruction_own (h5 : 5 ≤ ir) (h255 : ir ≠ 0xFF) (hopen : s.heart.debugOpen = true) :
    effJtagInstruction ir true tdi s =
      emit (.jtag ir (((List.range tdi.length).map (Config.jtagCapture ir s.out.length) ++ tdi).take tdi.length))
        { s with pw.tap := { s.pw.tap with ir := ir } } := by
  have h1 : ir ≠ 1 := by omega
  simp only [effJtagInstruction, Bool.not_true, Bool.false_eq_true, if_false, hopen, or_true, if_true,
    tapCapture_free h1 h255, h255, h5]

end

/-- Settles O23: each clause is the branch of its command that its hypotheses pick. -/
theorem i3cAndInBand : Obligations.I3cAndInBand := by
  unfold Obligations.I3cAndInBand
  refine ⟨?writeRuns, ?writeWaits, ?writeFull, ?writeShort, ?readNone, ?readMore, ?readLast, ?entdaaNew, ?entdaaAgain, ?down,
    ?length, ?crc, ?noGcp, ?reply, ?refused, ?unlisted, ?next, ?answered, ?executing, ?behind, ?trst, ?idcode, ?bypass,
    ?boundary, ?own⟩
  case writeRuns =>
    rintro bytes s _ hnone hlen hserves rfl
    refine clocked_runs fun _ => (effI3cPrivateWrite_taken (by simp [hnone]) hlen).trans ?_
    rw [hnone]
    exact takeI3c_only hserves hnone _
  case writeWaits =>
    rintro bytes s _ hroom hlen hserves rfl
    exact clocked_runs fun _ => (effI3cPrivateWrite_taken hroom hlen).trans (takeI3c_unserved hserves)
  case writeFull =>
    rintro bytes s _ hfull rfl
    exact clocked_runs fun _ => effI3cPrivateWrite_full hfull
  case writeShort =>
    rintro bytes s _ hroom hlen rfl
    exact clocked_runs fun _ => effI3cPrivateWrite_short hroom hlen
  case readNone =>
    rintro s _ h rfl
    exact clocked_runs fun _ => effI3cPrivateRead_none h
  case readMore =>
    rintro ws x tl s _ h rfl
    exact clocked_runs fun _ => effI3cPrivateRead_more h
  case readLast =>
    rintro ws s _ h rfl
    exact clocked_runs fun _ => effI3cPrivateRead_last h
  case entdaaNew =>
    rintro addr s _ h rfl
    exact always_runs (effEntdaa_new addr h)
  case entdaaAgain =>
    rintro addr old s _ h rfl
    exact always_runs (effEntdaa_again addr h)
  case down =>
    rintro p s _ hf rfl
    exact clocked_runs fun _ => effGcpReq_unserved hf
  case length =>
    rintro p s _ hf hl rfl
    exact clocked_runs fun _ => effGcpReq_length hf hl
  case crc =>
    rintro p s _ hf hl he rfl
    exact clocked_runs fun _ => effGcpReq_crc hf hl he
  case noGcp =>
    rintro p s _ hf hl he hbad rfl
    exact clocked_runs fun _ => effGcpReq_noGcp hf hl he hbad
  case reply =>
    rintro p s _ hf hl he hk ho hp rfl
    exact clocked_runs fun _ => effGcpReq_reply hf hl he hk ho hp
  case refused =>
    rintro p s _ hf hl he hk ho hp hlist hsrc rfl
    exact clocked_runs fun _ => effGcpReq_refused hf hl he hk ho hp hlist hsrc
  case unlisted =>
    rintro p _ s _ hf hl he hk ho hp hall rfl rfl
    exact clocked_runs fun _ => effGcpReq_open hf hl he hk ho hp hall
  case next =>
    rintro p _ s _ hf hl he hk ho hp hlist hnew hhead rfl rfl
    refine clocked_runs fun _ => (effGcpReq_allowed hf hl he hk ho hp hlist).trans ?_
    rw [inbandSeq_next (r := inbandReq p) (by rw [counted_mseqs]; exact hnew) (by rw [counted_mseqs]; exact hhead), counted_mseqs]
    rfl
  case answered =>
    rintro p _ ws data s _ hf hl he hk ho hp hlist rfl hfind rfl
    refine clocked_runs fun _ => (effGcpReq_allowed hf hl he hk ho hp hlist).trans ?_
    rw [inbandSeq_answered (r := inbandReq p) (by rw [counted_mseqs]; exact hfind)]
    simp only [inbandReq, replyEid_eq_none]
  case executing =>
    rintro p _ s _ hf hl he hk ho hp hlist rfl hfind rfl
    refine clocked_runs fun _ => (effGcpReq_allowed hf hl he hk ho hp hlist).trans ?_
    exact inbandSeq_executing (r := inbandReq p) (by rw [counted_mseqs]; exact hfind)
  case behind =>
    rintro p _ k x s _ hf hl he hk ho hp hlist rfl hhead hnew hfar rfl
    refine clocked_runs fun _ => (effGcpReq_allowed hf hl he hk ho hp hlist).trans ?_
    exact inbandSeq_behind (r := inbandReq p) (by rw [counted_mseqs]; exact hnew) (by rw [counted_mseqs]; exact hhead) hfar
  case trst =>
    rintro ir tdi s _ rfl
    exact always_runs rfl
  case idcode =>
    rintro tdi s _ rfl
    exact always_runs rfl
  case bypass =>
    rintro ir tdi s _ h rfl
    exact always_runs (effJtagInstruction_bypass tdi h)
  case boundary =>
    rintro ir tdi s _ h rfl
    exact always_runs (effJtagInstruction_boundary tdi h)
  case own =>
    rintro ir tdi s _ h5 h255 hopen rfl
    exact always_runs (effJtagInstruction_own tdi h5 h255 hopen)

end Sys2Proof.Proofs
end
